-- ==== Sys2Proof/Word.lean ====
section
/-! DEFINITION. The word types of the tile: bytes, 32-bit and 64-bit words, and strings of bytes. -/

namespace Sys2Proof

/-- One byte of memory, of a frame, of a cell (R8). -/
abbrev Byte := BitVec 8
/-- A 32-bit register value (R28). -/
abbrev W32 := BitVec 32
/-- A 64-bit register value, a system-memory address, a word of a descriptor (R8, R28). -/
abbrev W64 := BitVec 64
/-- A string of bytes, byte 0 first (R8). -/
abbrev Bytes := List Byte

end Sys2Proof
end

