-- ==== Sys2Proof/Syntax.lean ====
section
/-! DEFINITION. The commands the tile takes from outside, one constructor per row of spec/opcode_table.json, with
their operands. A command is an access to a register, an event on a pin or a port, or one indivisible step of an
engine of the tile (95_what_each_step_holds.md). -/

namespace Sys2Proof

/-- Who issues a control-port access: the attributes the surroundings present with it (R32, R363). -/
structure Req where
  /-- the privilege attribute: true is the administrator -/
  priv : Bool
  /-- the function attribute, F0–F63 -/
  func : BitVec 6
deriving DecidableEq, Repr

/-- A request on the control port (R363). -/
structure Access where
  /-- the byte address -/
  addr : W64
  /-- the width of the access in bytes; only 4 and 8 are accepted (R28) -/
  bytes : Nat
  /-- the value written, right-justified; not used by a read -/
  data : W64
  /-- the requester -/
  req : Req
  /-- returned unchanged with the response (R363) -/
  tag : BitVec 4
deriving DecidableEq, Repr

/-- The kinds of page of the window (R26). -/
inductive PageKind where
  | tile | hatband | clock | power | irq | tamper | rng | key | ctx | qeng | crown | digest | bignum | dma | perf
  | result | lane | quad | dcore | dmaChannel | rq | cq | function
deriving DecidableEq, Repr

/-- One page of the window: its kind and its instance (R26). -/
structure PageRef where
  /-- the kind of page -/
  kind : PageKind
  /-- the instance number; 0 for a single page -/
  inst : Nat
deriving DecidableEq, Repr

/-- A Hatband cell without its CRC: bytes 0 to 13 in [111:0], byte 0 in the lowest bits (R274). -/
abbrev Cell := BitVec 112

/-- A place in the context store's caches that an ECC event names (R120). -/
inductive CacheRef where
  /-- a way of the context cache, by bank and way -/
  | way (bank way : Nat)
  /-- a node of the tree-node cache, by level and index -/
  | node (level index : Nat)
deriving DecidableEq, Repr

/-- The two units of the big-number engine (R188). -/
inductive BnUnit where
  /-- the integer array -/
  | ia
  /-- the NTT unit -/
  | ntt
deriving DecidableEq, Repr

/-- The three compatibility masks of the CLOCK page (R304). -/
inductive CompatMask where
  | run | sleep | deepSleep
deriving DecidableEq, Repr

/-- The internal sensors (R320). -/
inductive Sensor where
  | temp | clk | vcore | vsram
deriving DecidableEq, Repr

/-- What a cycle of wrck does to the wrapper's data register (R384). -/
inductive WrapperOp where
  /-- capturewr: the register takes the value it selects -/
  | capture
  /-- shiftwr: the register moves by one bit, wsi in, wso out -/
  | shift (wsi : Bool)
  /-- updatewr: the register's value takes effect -/
  | update
deriving DecidableEq, Repr

/-- An ECC error in the memory of a unit: a channel or a slot by its number; the code corrects it, or cannot. -/
structure EccError where
  unit : Nat
  corrected : Bool
  deriving DecidableEq, Repr

/-- What fails of a completion queue: the write of an entry or of the mirror, or the ECC check of an entry that the crown holds. -/
structure EntryFault where
  cq : Nat
  ecc : Bool
  deriving DecidableEq, Repr

/-- The monitor of a clock that trips: 0 HBREF, 1 SBOSC/4, 2 + i PLL i; by its stop detector, or by its window detector. -/
structure MonTrip where
  mon : Nat
  stop : Bool
  deriving DecidableEq, Repr

/-- What a self-test has found, by groups: those of which a unit failed twice, and those of which a check failed once and passed its
repeat. -/
structure SelftestEnd where
  failed : BitVec 6
  retried : BitVec 6
  deriving DecidableEq, Repr

/-- The commands, one per row of the table of operations and events. -/
inductive Instr where

  /-- REGISTER_WRITE (R29). A control-port write to a register that has no row of its own is decided under the answer table and performed or refused. -/
  | registerWrite (a : Access)
  /-- CP_UNADDRESSED_ACCESS (R25). A control-port request outside the tile's window, or arriving while the tile has no chain address, is dropped without a response. -/
  | cpUnaddressedAccess (write : Bool) (a : Access)
  /-- PAGE_LOCK_WRITE (R36). A write to PAGE_LOCK moves the page's expert lock between closed, armed and open. -/
  | pageLockWrite (page : PageRef) (value : W32) (req : Req)
  /-- LOCK_ARM_TIMEOUT (R36). An armed lock that receives no second write within 64 CCLK cycles closes and sets PAGE_FAULT.SEQ. -/
  | lockArmTimeout (page : PageRef)
  /-- BLOCK_EN_WRITE (R37). A write of PAGE_CTL.EN starts a block's power-up, shut-down or rearm under the block state table. -/
  | blockEnWrite (page : PageRef) (en : Bool) (req : Req)
  /-- BLOCK_INIT_DONE (R37). A block in COMING_UP finishes initialisation and enters ON, or GOING_DOWN if EN was cleared meanwhile. -/
  | blockInitDone (page : PageRef)
  /-- BLOCK_SHUTDOWN_DONE (R37). A block in GOING_DOWN finishes its work, wipe and domain switch-off and enters OFF, or passes to COMING_UP if REARM is set. -/
  | blockShutdownDone (page : PageRef)
  /-- TRANSITION_TIMEOUT (R39). A block that stays in COMING_UP or GOING_DOWN beyond TILE_TRANS_TMO.LIMIT is fenced with PAGE_FAULT.SEQ set. -/
  | transitionTimeout (page : PageRef)
  /-- SOFT_RESET (R40). A write of PAGE_CTL.SOFT_RESET while the block is OFF starts returning the page's body and fault registers to reset. -/
  | softReset (page : PageRef) (req : Req)
  /-- SOFT_RESET_DONE (R40). The soft reset completes within 32 CCLK cycles and stalled accesses proceed against the reset values. -/
  | softResetDone (page : PageRef)
  /-- PAGE_OWNER_WRITE (R34). A write of PAGE_OWNER takes effect only while the block is OFF and otherwise sets SEQ. -/
  | pageOwnerWrite (page : PageRef) (value : W32) (req : Req)
  /-- PAGE_FENCE_FORCE (R406). A write of PAGE_FENCE.FORCE fences the page's block, or the tile on the TILE page, with cause 0x0A. -/
  | pageFenceForce (page : PageRef) (req : Req)
  /-- REGISTER_PARITY_ERROR (R41). A register failing parity is reloaded to reset, sets PARITY, raises V243 and fences its block or the tile. -/
  | registerParityError (off : BitVec 22)
  /-- BRING_UP_DONE (R43). TILE_CMD BRING_UP_DONE checks RNG_READY and ROOT_LOADED and moves the tile from BRING_UP to READY. -/
  | bringUpDone (req : Req)
  /-- ENTER_TEST (R43). TILE_CMD ENTER_TEST closes every queue to dispatch, zeroizes the root and key custody keys and enters TEST. -/
  | enterTest (req : Req)
  /-- LEAVE_TEST (R43). TILE_CMD LEAVE_TEST drives every block outside PD0 and PD1 to OFF with wipe and returns the tile to BRING_UP. -/
  | leaveTest (req : Req)
  /-- FENCE_TILE (R334). TILE_CMD FENCE_TILE, or any tile-level fence cause, runs the tile fence sequence and enters FENCED. -/
  | fenceTile (req : Req)
  /-- UNFENCE_TILE (R43). TILE_CMD UNFENCE_TILE drives every block outside PD0 and PD1 to OFF with wipe and returns the tile to BRING_UP. -/
  | unfenceTile (req : Req)
  /-- RUN_IDLE_TIMEOUT (R43). A tile in RUN with no request in flight for 1,024 LCLK cycles returns to READY. -/
  | runIdleTimeout
  /-- WDOG_KICK (R44). A write to TILE_WDOG_KICK restarts the watchdog count. -/
  | wdogKick (value : W32) (req : Req)
  /-- WDOG_EXPIRY (R44). A watchdog period expires without a kick, raising V242 and, on the second expiry with ACTION 1, fencing the tile. -/
  | wdogExpiry
  /-- RQ_POLL (R55). A queue's poll interval expires and the queue engine reads entries into the prefetch cache, doubling the interval after an empty poll. -/
  | rqPoll (rq : Nat)
  /-- RQ_DOZE_POLL (R56). The doze interval of a DOZING queue expires and the queue is polled. -/
  | rqDozePoll (rq : Nat)
  /-- RQ_KICK (R56). A write to RQ_KICK makes the queue poll within 64 FCLK cycles and returns it to ACTIVE at MIN_INT. -/
  | rqKick (rq : Nat) (value : W32) (req : Req)
  /-- FN_RQ_KICK (R69). A client write to FN_RQ_KICK kicks the named queue if it belongs to the client's function. -/
  | fnRqKick (fn : Nat) (value : W32) (req : Req)
  /-- DESC_FETCH_DONE (R51). A descriptor read returns and each entry is accepted in ring order if owned for its lap, or discarded. -/
  | descFetchDone (rq : Nat)
  /-- DESC_FETCH_FAIL (R64). A descriptor fetch that fails after its one retry fences the queue with cause 0x1 and raises V64 + f. -/
  | descFetchFail (rq : Nat)
  /-- SCHED_ISSUE (R57). The queue engine issues eligible descriptors by weighted round robin with carried deficit. -/
  | schedIssue
  /-- CHAIN_NEXT_DISPATCH (R59). When a chain element's completion reaches the crown the chain sequencer dispatches the next element. -/
  | chainNextDispatch (chain : Nat)
  /-- DISPATCH (R63). An issued element is dispatched to its engine with the queue's function attached. -/
  | dispatch (n : Nat)
  /-- MARKER (R62). A MARKER element completes OK with OUT_LEN 0, after every earlier element when it carries BARRIER. -/
  | marker (n : Nat)
  /-- RQ_ENABLE (R65). A write of RQ_CFG.EN = 1 checks the CQ binding and starts polling at RQ_HEAD, or is refused with SEQ. -/
  | rqEnable (rq : Nat) (value : W32) (req : Req)
  /-- RQ_DISABLE (R65). A write of RQ_CFG.EN = 0 drains an active queue or returns a fenced queue to DISABLED. -/
  | rqDisable (rq : Nat) (req : Req)
  /-- QENG_PAUSE (R67). A write of QENG_CTL.PAUSE stops or restarts issue from every queue. -/
  | qengPause (pause : Bool) (req : Req)
  /-- FRAME_DISPATCH (R16). A frame element is dispatched to a quad, its context looked up, and its transmit PN assigned or receive replay checked. -/
  | frameDispatch (n : Nat)
  /-- FRAME_STAGED (R16). Once a frame's first 128 bytes are in staging and its context is resident, the dispatch port hands it to an eligible lane. -/
  | frameStaged (quad : Nat)
  /-- MACSEC_PROTECT (R81). A lane builds the SecTAG, encrypts and appends the ICV of a MACsec frame and pushes its completion. -/
  | macsecProtect (lane : Nat)
  /-- MACSEC_VALIDATE (R82). A lane checks, decrypts and verifies a MACsec frame and pushes its completion with a receive commit. -/
  | macsecValidate (lane : Nat)
  /-- ESP_ENCRYPT (R85). A lane forms an ESP packet with padding, trailer and ICV and pushes its completion. -/
  | espEncrypt (lane : Nat)
  /-- ESP_DECRYPT (R86). A lane checks, decrypts and verifies an ESP packet and its trailer and pushes its completion with a receive commit. -/
  | espDecrypt (lane : Nat)
  /-- GCM_SEAL (R88). A lane seals AAD and plaintext under raw AES-GCM with a tag. -/
  | gcmSeal (lane : Nat)
  /-- GCM_OPEN (R88). A lane opens a raw AES-GCM message and checks its tag. -/
  | gcmOpen (lane : Nat)
  /-- CHACHA_SEAL (R88). A lane seals AAD and plaintext under raw ChaCha20-Poly1305 with a tag. -/
  | chachaSeal (lane : Nat)
  /-- CHACHA_OPEN (R88). A lane opens a raw ChaCha20-Poly1305 message and checks its tag. -/
  | chachaOpen (lane : Nat)
  /-- FRAME_DST_WRITES_DONE (R94). When all DST write responses of a frame have returned, the crown releases its held completion, changed to FABRIC_ERROR if a write failed twice. -/
  | frameDstWritesDone (frame : Nat)
  /-- LANE_ERROR (R96). A lane detects a datapath error, withdraws the frame, stops taking frames and queues a replay on a sibling. -/
  | laneError (lane n : Nat) (cause stage : Nat)
  /-- LANE_REPLAY_START (R96). A replayed frame is handed from staging to an eligible lane as soon as that lane has room. -/
  | laneReplayStart (quad : Nat)
  /-- LANE_CHECK_DONE (R96). A lane's 64-cycle check ends, resuming the lane or fencing it, and fencing the quad if the replay also failed. -/
  | laneCheckDone (lane : Nat) (pass : Bool)
  /-- LANE_CHECK_RUN (R99). A write of LANE_CHECK.RUN starts a lane check after its frames finish. -/
  | laneCheckRun (lane : Nat) (req : Req)
  /-- LANE_PERIODIC_CHECK (R99). The LANE_XCHECK period expires and the lane runs its check at the next idle moment. -/
  | lanePeriodicCheck (lane : Nat)
  /-- LANE_ERROR_INJECT (R99). A write of LANE_XINJECT.ARM in TEST injects one error after AFTER frames. -/
  | laneErrorInject (lane : Nat) (value : W32) (req : Req)
  /-- AFAIL_WINDOW_END (R98). A quad's AUTH_FAIL counting window ends and the count restarts. -/
  | afailWindowEnd (quad : Nat)
  /-- STAGING_ECC_ERROR (R100). An uncorrectable staging error is handled as short data for input bytes or replays the frame for output bytes. -/
  | stagingEccError (frame : Nat) (output : Bool)
  /-- PAGEIN_DONE (R110). The reads of a page-in return, nodes and record are verified, the way is filled and waiting requests are released. -/
  | pageinDone (handle : Nat)
  /-- PAGEIN_FAIL (R111). A page-in failing after its retry completes waiting requests with FABRIC_ERROR, CONTEXT_INTEGRITY or ROLLBACK and lists the bad table. -/
  | pageinFail (handle : Nat)
  /-- MISS_WAY_ALLOCATE (R113). A miss waiting for a FREE way takes one when the sweeper frees it and starts its page-in. -/
  | missWayAllocate (bank : Nat)
  /-- SWEEP_PASS (R116). The sweep interval expires and the sweeper ages every LIVE way and evicts aged ones. -/
  | sweepPass
  /-- CTX_WRITEBACK_DONE (R117). A context write-back returns OK, the leaf counter takes the new version and the way is freed unless hit meanwhile. -/
  | ctxWritebackDone (handle : Nat)
  /-- CTX_WRITEBACK_FAIL (R117). A write-back failing after its retry fences the way or leaves the node dirty and raises V198. -/
  | ctxWritebackFail (handle : Nat)
  /-- NODE_WRITEBACK_DONE (R117). An evicted tree node's write returns OK and its parent counter is updated. -/
  | nodeWritebackDone (node : Nat)
  /-- CTX_ECC_CORRECTED (R120). A single-bit ECC error in the cache is corrected and V200 raised. -/
  | ctxEccCorrected (target : CacheRef)
  /-- CTX_ECC_UNCORRECTABLE (R120). A double-bit ECC error drops a clean way or node, or fences a dirty way, or lists a dirty node's subtree. -/
  | ctxEccUncorrectable (target : CacheRef)
  /-- CTX_INSTALL (R124). CTX_INSTALL unwraps key material and creates a LIVE context with slot A active. -/
  | ctxInstall
  /-- CTX_ARM_NEXT (R131). CTX_ARM_NEXT loads the inactive key slot for a target epoch or is refused, including as a late arm. -/
  | ctxArmNext
  /-- CTX_RETIRE (R125). CTX_RETIRE zeroizes a context's keys and seals an EMPTY record before freeing the way. -/
  | ctxRetire
  /-- CTX_AUDIT (R126). CTX_AUDIT writes a 192-byte audit record to DST, optionally clearing counts and comparing KCVs. -/
  | ctxAudit
  /-- CTX_INIT (R127). CTX_CMD INIT clears caches and bad table, draws a new store salt, derives WRAP and TREE and zeroes the root. -/
  | ctxInit (req : Req)
  /-- CTX_FLUSH (R127). CTX_CMD FLUSH writes back every dirty way and node up to the root. -/
  | ctxFlush (req : Req)
  /-- RETIRE_HANDLE (R127). CTX_CMD RETIRE_HANDLE seals an EMPTY record for a handle and clears its level-0 bad entry. -/
  | retireHandle (handle : Nat) (req : Req)
  /-- CTX_CMD_DONE (R127). A running CTX_CMD operation ends and sets DONE and RESULT. -/
  | ctxCmdDone
  /-- LEARN_ENABLE (R129). A write of CTX_LEARN_CFG.EN = 1 starts the learn ring at index 0 of lap 0. -/
  | learnEnable (value : W32) (req : Req)
  /-- EPOCH_ARM (R138). An EPOCH_ARM cell sets the pending epoch or is refused. -/
  | epochArm (cell : Cell)
  /-- EPOCH_FLIP (R138). An EPOCH_FLIP cell schedules the flip time for an epoch or is refused. -/
  | epochFlip (cell : Cell)
  /-- EPOCH_CTL_ARM (R139). A write of EPOCH_CTL.ARM acts as an EPOCH_ARM cell carrying the stored EPOCH_PEND. -/
  | epochCtlArm (req : Req)
  /-- EPOCH_CTL_SCHED (R139). A write of EPOCH_CTL.SCHED acts as an EPOCH_FLIP cell with EPOCH_TIME. -/
  | epochCtlSched (req : Req)
  /-- EPOCH_CTL_CANCEL (R139). A write of EPOCH_CTL.CANCEL clears the pending epoch and schedule while not closed. -/
  | epochCtlCancel (req : Req)
  /-- EPOCH_GUARD_CLOSE (R140). Chain time reaches T minus guard and EPOCH_STS.CLOSED rises. -/
  | epochGuardClose
  /-- EPOCH_FLIP_DUE (R136). Chain time reaches T and the tile takes the pending epoch, or holds the flip in holdover. -/
  | epochFlipDue
  /-- CROWN_ACCEPT (R150). The crown takes up to four completions per FCLK cycle from producer FIFOs by the rotating pointer. -/
  | crownAccept
  /-- ENTRY_WRITE_DONE (R153). A completion entry's write returns OK and its grant returns. -/
  | entryWriteDone (cq : Nat)
  /-- ENTRY_WRITE_FAIL (R155). An entry or mirror write failing after its retry, or a held entry with an uncorrectable ECC error,
  fences the CQ and its function. -/
  | entryWriteFail (cq : EntryFault)
  /-- MIRROR_WRITE_ISSUE (R153). The crown issues a head-mirror write with the barrier attribute once entries qualify and GAP has passed. -/
  | mirrorWriteIssue (cq : Nat)
  /-- MIRROR_WRITE_DONE (R160). A mirror write returns OK and the CQ vector counts one event per covered entry. -/
  | mirrorWriteDone (cq : Nat)
  /-- CQ_CONS_WRITE (R152). A write of CQ_CONS reports consumption, frees space and lets held entries be written. -/
  | cqConsWrite (cq : Nat) (value : W32) (req : Req)
  /-- FN_CQ_CONS_WRITE (R169). A client write of FN_CQ_CONS reports consumption of its own CQ. -/
  | fnCqConsWrite (fn : Nat) (value : W32) (req : Req)
  /-- CQ_ENABLE (R158). A write of CQ_CFG.EN = 1 turns the CQ ON from CQ_HEAD and CQ_CONS. -/
  | cqEnable (cq : Nat) (value : W32) (req : Req)
  /-- CQ_DISABLE (R158). A write of CQ_CFG.EN = 0 drains the CQ when its RQs are DISABLED, or clears a fenced CQ. -/
  | cqDisable (cq : Nat) (req : Req)
  /-- VECTOR_TIMER_EXPIRY (R162). A vector's moderation timer expires and the vector becomes due. -/
  | vectorTimerExpiry (v : Nat)
  /-- EVENT_MSG_ACCEPTED (R162). The event channel accepts a vector message and its captured count is subtracted. -/
  | eventMsgAccepted
  /-- HOST_SLEEP_ENTER (R164). A write of HOST_SLEEP = 1 flushes every enabled vector and arms wake-driven messages. -/
  | hostSleepEnter (req : Req)
  /-- HOST_SLEEP_EXIT (R164). A write of HOST_SLEEP = 0 lowers tile_wake_out and restores moderation. -/
  | hostSleepExit (req : Req)
  /-- IRQ_FLUSH_ALL (R168). A write of IRQ_FLUSH with ALL makes every enabled vector with a count due. -/
  | irqFlushAll (req : Req)
  /-- IRQ_FLUSH_VECTOR (R168). A write of IRQ_FLUSH with ALL = 0 makes the named enabled vector due. -/
  | irqFlushVector (v : Nat) (req : Req)
  /-- IRQ_FORCE_EVENT (R168). A write of IRQ_XFORCE.GO counts one event on the named vector. -/
  | irqForceEvent (v : Nat) (req : Req)
  /-- IRQ_VEC_CFG_WRITE (R160). A write of IRQ_VEC_CFG changes a vector's moderation and enable, counting an event on an enable rise with source set. -/
  | irqVecCfgWrite (v : Nat) (value : W32) (req : Req)
  /-- PAGE_EVENT_EN_WRITE (R160). An enable bit written from 0 to 1 while its source bit is set counts one event. -/
  | pageEventEnWrite (page : PageRef) (value : W32) (req : Req)
  /-- DIGEST (R172). A DIGEST request hashes SRC on a free channel, or starts a held message. -/
  | digest (ch : Nat)
  /-- HMAC (R172). An HMAC request tags SRC under a keyed-digest slot, or starts a held message. -/
  | hmac (ch : Nat)
  /-- DIGEST_CONTINUE (R173). A DIGEST_CONTINUE absorbs a part into a HELD channel and finishes it on the final part. -/
  | digestContinue (ch : Nat)
  /-- HMAC_LOAD (R180). HMAC with LOAD unwraps a key and writes a keyed-digest slot for the function. -/
  | hmacLoad (ch : Nat)
  /-- HMAC_CLEAR (R180). HMAC with CLEAR zeroizes a keyed-digest slot and marks it EMPTY. -/
  | hmacClear (ch : Nat)
  /-- DIGEST_BUDGET_EXPIRY (R176). A channel's slice budget is spent and at the next block boundary the core switches to the longest waiter. -/
  | digestBudgetExpiry (core : Nat)
  /-- DIGEST_HOLD_TIMEOUT (R174). A HELD channel with no part for DG_HOLD.TMO is zeroized and freed. -/
  | digestHoldTimeout (ch : Nat)
  /-- DCORE_ERROR (R183). A digest core detects an error, withdraws the slice, re-runs it on another core and checks itself. -/
  | dcoreError (core : Nat) (cause : Nat)
  /-- DCORE_CHECK_DONE (R183). A core check ends, resuming or fencing the core, or fencing the engine if the re-run failed. -/
  | dcoreCheckDone (core : Nat) (pass : Bool)
  /-- DCORE_CHECK_RUN (R187). A write of DCORE_CHECK.RUN hands back the channel at the next boundary and runs the check. -/
  | dcoreCheckRun (core : Nat) (req : Req)
  /-- DCORE_ERROR_INJECT (R187). A write of DCORE_XINJECT.ARM in TEST injects one error. -/
  | dcoreErrorInject (core : Nat) (value : W32) (req : Req)
  /-- DIGEST_STATE_ECC (R183, R186). A double-bit error in channel state fences the channel and completes its request FENCED; a
  corrected error is recorded. -/
  | digestStateEcc (ch : EccError)
  /-- SLOT_ECC_ERROR (R183, R186). A double-bit error in a LOADED slot zeroizes it to EMPTY and raises V184; a corrected error is
  recorded. -/
  | slotEccError (slot : EccError)
  /-- MODEXP (R193). A big-number channel performs raw or CRT modular exponentiation. -/
  | modexp (ch : Nat)
  /-- ECDH (R193). A big-number channel computes an ECDH shared secret with its held key. -/
  | ecdh (ch : Nat)
  /-- ECDSA_SIGN (R193). A big-number channel signs a hash with its held P-curve key. -/
  | ecdsaSign (ch : Nat)
  /-- ECDSA_VERIFY (R193). A big-number channel verifies an ECDSA signature. -/
  | ecdsaVerify (ch : Nat)
  /-- X25519 (R193). A big-number channel computes an X25519 shared value. -/
  | x25519 (ch : Nat)
  /-- ED25519_SIGN (R193). A big-number channel signs a message with its held Ed25519 seed. -/
  | ed25519Sign (ch : Nat)
  /-- ED25519_VERIFY (R193). A big-number channel verifies an Ed25519 signature. -/
  | ed25519Verify (ch : Nat)
  /-- MLKEM_KEYGEN (R193). A big-number channel generates an ML-KEM key pair, holds dk and outputs ek. -/
  | mlkemKeygen (ch : Nat)
  /-- MLKEM_ENCAPS (R193). A big-number channel encapsulates under ek, writing the ciphertext to AUX0 and the shared key out. -/
  | mlkemEncaps (ch : Nat)
  /-- MLKEM_DECAPS (R196). A big-number channel decapsulates a ciphertext with implicit rejection under its held dk. -/
  | mlkemDecaps (ch : Nat)
  /-- MLDSA_SIGN (R193). A big-number channel signs a message with its held ML-DSA key. -/
  | mldsaSign (ch : Nat)
  /-- MLDSA_VERIFY (R193). A big-number channel verifies an ML-DSA signature. -/
  | mldsaVerify (ch : Nat)
  /-- BN_KEY_LOAD (R194). A big-number LOAD unwraps and checks a private key and holds it in the channel. -/
  | bnKeyLoad (ch : Nat)
  /-- BN_KEY_GEN (R191). A big-number GEN generates a key pair, holds the private key and outputs the public key. -/
  | bnKeyGen (ch : Nat)
  /-- BN_KEY_CLEAR (R191). A big-number CLEAR zeroizes the channel's held key. -/
  | bnKeyClear (ch : Nat)
  /-- BN_BUDGET_EXPIRY (R197). A channel's unit budget is spent and at the next boundary the unit switches to the longest waiter. -/
  | bnBudgetExpiry (unit : BnUnit)
  /-- BN_PRIV_PREEMPT (R199). A waiting privileged channel takes its unit at the next boundary, displacing the running channel. -/
  | bnPrivPreempt (unit : BnUnit)
  /-- BN_RNG_TIMEOUT (R200). A request waiting for random values for BN_XRNG.TMO completes with RNG_UNAVAILABLE. -/
  | bnRngTimeout (ch : Nat)
  /-- BN_RESPLIT_DUE (R202). The resplit period of an idle held key expires and the key is split again under a fresh seed. -/
  | bnResplitDue (ch : Nat)
  /-- BN_CHECK_FAIL (R204). A failed consistency check or unit error withdraws the output and recomputes the operation once. -/
  | bnCheckFail (ch : Nat) (unit : BnUnit) (cause : Nat)
  /-- BN_UNIT_CHECK_DONE (R204). A unit's known-answer check ends, fencing the channel or the unit after a failed recompute. -/
  | bnUnitCheckDone (unit : BnUnit) (pass : Bool)
  /-- BN_KEY_ECC (R205). An uncorrectable ECC error in a key area zeroizes the key and completes the running request
  with BIGNUM_FAULT; a corrected error in the channel's memory is recorded (R204, R211). -/
  | bnKeyEcc (ch : EccError)
  /-- BN_CHECK_RUN (R211). A write of BN_CHECK.RUN runs the check of both units at their next boundaries. -/
  | bnCheckRun (req : Req)
  /-- BN_CHAN_CFG_WRITE (R208). A write of BN_CHAN_CFG assigns, privileges or releases a channel, zeroizing its key on change. -/
  | bnChanCfgWrite (ch : Nat) (value : W32) (req : Req)
  /-- BN_IDLE_HOLDOFF (R211). No channel has had a request for BN_IDLE.HOLDOFF and event IDLE is set. -/
  | bnIdleHoldoff
  /-- BN_ERROR_INJECT (R211). A write of BN_XINJECT.ARM in TEST injects one error. -/
  | bnErrorInject (value : W32) (req : Req)
  /-- BATT_BOUNDARY (R213). At each batt boundary every enabled cell's batt is checked and passing batts are conditioned into the pool. -/
  | battBoundary (batts : List (BitVec 512))
  /-- HEALTH_WINDOW_END (R213). A health window ends and each cell's failing-batt count restarts. -/
  | healthWindowEnd
  /-- ESTIMATE_WINDOW_END (R216). An estimate window ends, counts move into RNG_CELL_EST and V190 is raised. -/
  | estimateWindowEnd
  /-- FULLER_STALL_TIMEOUT (R217). No batt has entered a non-full pool for STALL_TMO and V194 is raised. -/
  | fullerStallTimeout
  /-- INSTANTIATE (R218). The expander runs its known-answer tests and instantiates from three pool units, raising RNG_READY. -/
  | instantiate
  /-- RESEED (R219). At a call boundary with three pool units and the counter at nominal or FORCE set, the expander reseeds. -/
  | reseed
  /-- GENERATE_CALL (R220). The expander grants one generate call to the next consumer in priority order. -/
  | generateCall
  /-- RNG_READY_TIMEOUT (R222). RNG_READY has not risen 600 µs after the cells start; V188 is raised and PHASE reads WAIT_CELLS. -/
  | rngReadyTimeout
  /-- RANDOM (R224). A RANDOM request delivers random bytes to DST or the chain buffer. -/
  | random
  /-- RANDOM_TIMEOUT (R224). A RANDOM request without a granted call for RAND_TMO completes with RNG_UNAVAILABLE. -/
  | randomTimeout
  /-- RNG_SW_DATA_READ (R225). A 64-bit read of RNG_SW_DATA returns and removes 32 bits from the software FIFO. -/
  | rngSwDataRead (req : Req)
  /-- RNG_CELL_EN_WRITE (R214). A write of RNG_CELL_EN stops cells at once or restarts them at the next batt boundary. -/
  | rngCellEnWrite (value : W32) (req : Req)
  /-- RESEED_FORCE (R219). A write of RNG_RESEED_CFG.FORCE requests a reseed at the next boundary with three units. -/
  | reseedForce (req : Req)
  /-- RAW_CAPTURE_START (R226). A write of RNG_XRAW.EN in TEST starts a raw capture of one cell at the next batt boundary. -/
  | rawCaptureStart (value : W32) (req : Req)
  /-- RNG_DATAPATH_ERROR (R227). A fuller or expander error repeats the operation once, fencing the fuller and expander if it fails again. -/
  | rngDatapathError (cleared : Bool)
  /-- KEY_PORT_REQUEST (R232). With RNG_READY, no root, BRING_UP and KEY ON, key custody raises key_req. -/
  | keyPortRequest
  /-- ROOT_TRANSFER (R233). A 15-word root transfer ending with key_last is checked and loaded into the root latch, or refused. -/
  | rootTransfer (words : List W32) (last : Nat)
  /-- KEY_PORT_TIMEOUT (R233). key_last has not arrived within KEY_XPORT.TMO and the transfer is refused. -/
  | keyPortTimeout
  /-- KEY_PORT_RETRY_WAIT (R234). 64 CCLK cycles after a refusal key_req rises once more, or a second refusal sets FAILED and raises V236. -/
  | keyPortRetryWait
  /-- KEY_DERIVE (R238). Key custody derives WRAP and TREE after a root load or wake while the store is READY. -/
  | keyDerive
  /-- KDF (R241). A KDF request derives key material under SP 800-108 to DST or the chain buffer. -/
  | kdf
  /-- ZEROIZE (R248). KEY_CMD ZEROIZE clears the root latch and key custody stores when allowed. -/
  | zeroize (req : Req)
  /-- ATTEST (R251). KEY_CMD ATTEST forms the attestation message and starts computing its tag, or is refused. -/
  | attest (req : Req)
  /-- ATTEST_DONE (R251). The attestation tag is written, ATTEST zeroized, DONE set and V235 raised. -/
  | attestDone
  /-- POUNCE_NOW (R243). KEY_CMD POUNCE_NOW starts a pounce pass without moving the periodic schedule. -/
  | pounceNow (req : Req)
  /-- PORT_RETRY (R234). KEY_CMD PORT_RETRY starts a new pair of key-port attempts from FAILED. -/
  | portRetry (req : Req)
  /-- POUNCE_DUE (R243). The pounce period expires and a pass draws 72 new bank keys. -/
  | pounceDue
  /-- POUNCE_BANK_REMASK (R243). A bank's new pounce key arrives and the bank re-masks every way or slot, then zeroizes the old key. -/
  | pounceBankRemask (bank : Nat)
  /-- POUNCE_PASS_DONE (R243). The last bank finishes re-masking, PASSES advances and V234 is raised. -/
  | pouncePassDone
  /-- POUNCE_OVERDUE (R245). A pass still running when the next falls due is overdue, raising V233 and merging the passes. -/
  | pounceOverdue
  /-- KEY_DATAPATH_ERROR (R252). A key custody error that fails its repeat zeroizes derived keys and fences the tile. -/
  | keyDatapathError (cleared : Bool)
  /-- DMA_SHD_ARM (R256). A write of DCH_ARM.SHD_ARM arms the shadow set, starting the copy if the channel is IDLE. -/
  | dmaShdArm (ch : Nat) (req : Req)
  /-- DMA_TRANSFER_END (R256). A transfer's status is written and the channel copies the next armed shadow or becomes IDLE or HALTED. -/
  | dmaTransferEnd (ch : Nat)
  /-- DMA_RING_POLL (R258). The ring poll interval expires and the channel reads the descriptor at its head. -/
  | dmaRingPoll (ch : Nat)
  /-- DMA_KICK (R258). A write of DCH_CTL.KICK polls the ring within 64 FCLK cycles. -/
  | dmaKick (ch : Nat) (req : Req)
  /-- DMA_RESUME (R264). A write of DCH_CTL.RESUME returns a HALTED channel to IDLE. -/
  | dmaResume (ch : Nat) (req : Req)
  /-- DMA_DISABLE (R265). A write of DCH_CTL.DISABLE abandons the running transfer and zeroes both register sets. -/
  | dmaDisable (ch : Nat) (req : Req)
  /-- ENUM (R278). An ENUM cell gives an unaddressed tile its chain address and is forwarded with byte 1 increased. -/
  | enum (cell : Cell)
  /-- RENUM (R279). A RENUM cell clears every tile's chain address and closes every expert lock. -/
  | renum (cell : Cell)
  /-- TIME (R282). A TIME cell sets or slews the tile's chain time and is forwarded with D accumulated. -/
  | time (cell : Cell)
  /-- LOOP (R281). A LOOP cell is forwarded with D accumulated for the master's wire calibration. -/
  | loop (cell : Cell)
  /-- ZEROIZE_ALL (R285). A ZEROIZE_ALL cell acts as a ZEROIZE_TILE tamper event while enabled. -/
  | zeroizeAll (cell : Cell)
  /-- SLEEP_ALL (R285). A SLEEP_ALL cell requests sleep entry to the target state. -/
  | sleepAll (cell : Cell)
  /-- WAKE (R285). A WAKE cell acts as a wake event in SLEEP or DEEP_SLEEP. -/
  | wake (cell : Cell)
  /-- BYPASS_ENTER (R286). A BYPASS_SET with byte 2 = 0x01 places the tile in bypass. -/
  | bypassEnter (cell : Cell)
  /-- BYPASS_LEAVE (R286). A BYPASS_SET with byte 2 = 0x00 ends bypass. -/
  | bypassLeave (cell : Cell)
  /-- MSG (R287). A received MSG cell enters the message FIFO and raises V246, or is dropped when full. -/
  | msg (cell : Cell)
  /-- MSG_SEND (R287). A write of HB_MSG_TX_CTL.GO queues a MSG cell for origination. -/
  | msgSend (value : W32) (req : Req)
  /-- MSG_POP (R287). A write of HB_MSG_RX_STS.POP removes the head message. -/
  | msgPop (req : Req)
  /-- OWN_CELL_SEND (R284). A cell the tile originates leaves hb_out once the elastic buffer and forwarding path are clear. -/
  | ownCellSend
  /-- CELL_CRC_FAIL (R275). A cell whose CRC fails is not acted on, forwarded stomped and raises V206. -/
  | cellCrcFail (cell : Cell) (crc : BitVec 16)
  /-- STOMPED_CELL (R275). A stomped cell is forwarded without action and counted. -/
  | stompedCell (cell : Cell)
  /-- UNKNOWN_CELL (R276). A cell of unknown type or out-of-range fields is forwarded unchanged and counted IGNORED. -/
  | unknownCell (cell : Cell)
  /-- UPSTREAM_LOSS (R273). Code violations or a missing K28.5 declare upstream loss and raise V204. -/
  | upstreamLoss
  /-- UPSTREAM_SYNC (R273). Four consecutive IDLE or HOLD sequences regain sync on hb_in. -/
  | upstreamSync
  /-- DOWNSTREAM_TERM_CHECK (R273). Every 1,024 HBREF cycles the transmitter checks for far-end termination, raising V205 when absent. -/
  | downstreamTermCheck (present : Bool)
  /-- HOLD_RECEIVED (R283). A tile receiving HOLD enters inherited holdover and forwards HOLD. -/
  | holdReceived
  /-- TIME_STALE (R282). No TIME cell has been acted on for HB_XTIME.STALE and TIME_STALE rises. -/
  | timeStale
  /-- CLOCK_TRIP (R296). A monitor trips on a reference or PLL output and dependent outputs are held safe. -/
  | clockTrip (mon : MonTrip)
  /-- HBREF_QUALIFY (R295). HBREF qualifies after QUAL good windows with UP_SYNC. -/
  | hbrefQualify
  /-- SBOSC_COUNT_START (R297). Two microseconds after SBOSC starts, its qualification count begins. -/
  | sboscCountStart
  /-- SBOSC_JUDGED (R295). SBOSC counts 16,384 cycles without a trip, is judged stable and the fallback switch begins. -/
  | sboscJudged
  /-- SBOSC_COUNT_RESTART (R298). A trip of SBOSC/4 during its count restarts the count and raises V213. -/
  | sboscCountRestart
  /-- SWITCH_HANDSHAKE_TIMEOUT (R299). A reference switch handshake times out and the switch is forced, raising V214. -/
  | switchHandshakeTimeout
  /-- PLL_LOCK (R293). A PLL reports lock, possibly entering CLOCKED and releasing safe outputs. -/
  | pllLock (pll : Nat)
  /-- PLL_UNLOCK (R301). A PLL loses lock on a qualified reference, its outputs are held and it restarts once. -/
  | pllUnlock (pll : Nat)
  /-- PLL_RELOCK_TIMEOUT (R301). A restarted PLL fails to lock within 4,096 reference cycles, fencing its quad or the tile. -/
  | pllRelockTimeout (pll : Nat)
  /-- USE_HBREF (R300). CLK_CMD USE_HBREF switches the PLL reference back to a qualified HBREF. -/
  | useHbref (req : Req)
  /-- USE_SBOSC (R300). CLK_CMD USE_SBOSC switches the PLL reference to SBOSC/4. -/
  | useSbosc (req : Req)
  /-- CLK_PLL_EN_WRITE (R293). A write of CLK_PLL_EN starts or stops PLLs as the tile state allows. -/
  | clkPllEnWrite (value : W32) (req : Req)
  /-- CLK_EN_WRITE (R303). A write of CLK_EN enables block clocks or starts their shut-down. -/
  | clkEnWrite (value : W64) (req : Req)
  /-- CLK_COMPAT_WRITE (R304). A write of CLK_COMPAT.COMPAT_MODE hands block enables to or from the KT0808 masks. -/
  | clkCompatWrite (value : W32) (req : Req)
  /-- CLK_MASK_WRITE (R304). A write of CLK_RUN_EN, CLK_SLEEP_EN or CLK_DEEPSLEEP_EN changes the compatibility masks. -/
  | clkMaskWrite (mask : CompatMask) (value : W32) (req : Req)
  /-- CORE_ON (R294). PWR_CMD CORE_ON switches on PD1 and PD110 and moves the tile to BRING_UP. -/
  | coreOn (req : Req)
  /-- WAKE_COMMAND (R310). PWR_CMD WAKE wakes a sleeping tile. -/
  | wakeCommand (req : Req)
  /-- CANCEL_SLEEP (R309). PWR_CMD CANCEL_SLEEP abandons a sleep entry in DRAINING or SAVING. -/
  | cancelSleep (req : Req)
  /-- SLEEP_GO (R308). PWR_SLEEP.GO starts sleep entry in DRAINING, rewinding queue heads. -/
  | sleepGo (target : BitVec 2) (req : Req)
  /-- SLEEP_DRAIN_DONE (R308). The drain conditions are met and the entry moves to SAVING or COMMITTED. -/
  | sleepDrainDone
  /-- SLEEP_SAVE_DONE (R308). FLUSH, slot save and keep write end and V221 is raised. -/
  | sleepSaveDone
  /-- SLEEP_COMMIT (R308). After every flushed message is accepted, domains go down and the tile enters SLEEP or DEEP_SLEEP. -/
  | sleepCommit
  /-- DRAIN_TIMEOUT (R309). DRAINING and SAVING exceed DRAIN_TMO and the entry is abandoned. -/
  | drainTimeout
  /-- WAKE_PIN (R310). A qualified tile_wake_in wakes a sleeping tile. -/
  | wakePin
  /-- WAKE_ACCESS (R310). A control-port access to a page outside the port keeper's set receives RETRY and wakes the tile. -/
  | wakeAccess (write : Bool) (a : Access)
  /-- WAKE_TIMER (R310). The wake timer expires and wakes the tile. -/
  | wakeTimer
  /-- WAKE_COMPLETE (R311). The wake finishes restoring domains and returns the tile to READY, raising V220. -/
  | wakeComplete (keepOk : Bool) (bad : List Nat)
  /-- PGOOD_TIMEOUT (R305). A domain without power good within PGOOD_TMO is retried once and then fences its block. -/
  | pgoodTimeout (pd : Nat) (retryOk : Bool)
  /-- PGOOD_LOST (R305). A domain that is on loses power good, raising V217 and fencing its block. -/
  | pgoodLost (pd : Nat)
  /-- SUPPLY_GLITCH (R315). A supply detector flags vdd_core or vdd_sram beyond its glitch limit and raises V222. -/
  | supplyGlitch (sram : Bool)
  /-- LANE_PARK (R307). A lane idle for LANE_IDLE is parked with its clock stopped. -/
  | lanePark (lane : Nat)
  /-- QUAD_PARK (R307). A quad with lanes parked, staging empty and idle for QUAD_IDLE is parked with QPLL stopped. -/
  | quadPark (quad : Nat)
  /-- VDD_AO_UP (R339). vdd_ao qualifies, PD0 comes up, straps are sampled and the tile enters AO_ONLY. -/
  | vddAoUp (windowBase : BitVec 36)
  /-- VDD_AO_LOSS (R288). Loss of vdd_ao loses PD0 state and the tile drives nothing on the ring. -/
  | vddAoLoss
  /-- QUAL_INPUT_ACTIVE (R318). A qualifier samples its input active and starts qualifying. -/
  | qualInputActive (input : Nat)
  /-- QUAL_HOLD_DONE (R318). An input held active for 8 QCLK cycles latches and delivers one event to its user. -/
  | qualHoldDone (input : Nat)
  /-- QUAL_SHORT_PULSE (R318). An input going inactive before 8 cycles counts SHORT, latching on CHATTER_LIM. -/
  | qualShortPulse (input : Nat)
  /-- QUAL_REARM_EXPIRY (R318). An input inactive for REARM makes a latched qualifier ARMABLE or clears SHORT. -/
  | qualRearmExpiry (input : Nat)
  /-- TAMP_QUAL_CLR (R319). A write of TAMP_QUAL_CLR clears ARMABLE or IDLE qualifiers. -/
  | tampQualClr (value : W32) (req : Req)
  /-- SENSOR_QUALIFY (R320). An internal sensor condition holds for 8 samples, latches and delivers one event. -/
  | sensorQualify (sensor : Sensor)
  /-- TAMPER_WIPE_DONE (R323). The class wipe completes, V227 is raised and aborted elements start completing. -/
  | tamperWipeDone
  /-- TAMPER_DRAIN_TIMEOUT (R323). Entries still unwritten at TAMP_XQUAL.DRAIN are discarded and counted. -/
  | tamperDrainTimeout
  /-- TAMPER_DRAIN_DONE (R323). The abort drain ends, blocks go OFF and the tile enters ALARMED. -/
  | tamperDrainDone
  /-- CLEAR_ALARM (R327). TAMP_CMD CLEAR_ALARM ends ALARMED when its conditions hold. -/
  | clearAlarm (req : Req)
  /-- TAMP_SEAL (R321). A write of TAMP_XIN_CFG.SEAL freezes the tamper configuration until vdd_ao is lost. -/
  | tampSeal (req : Req)
  /-- FLT_FUNC_FORCE (R333). A write of FLT_FUNC_FORCE.GO fences the named function. -/
  | fltFuncForce (fn : Nat) (req : Req)
  /-- FLT_FUNC_CLEAR (R333). A write of 1 to a FLT_FUNC bit ends a function fence once all its queues are DISABLED. -/
  | fltFuncClear (fn : Nat) (req : Req)
  /-- TILE_FENCE_FLUSH_DONE (R334). The tile fence's CTX flush ends or times out, blocks enter FENCED and the tile enters FENCED. -/
  | tileFenceFlushDone
  /-- SELFTEST_GO (R344). A write of TILE_SELFTEST.GO runs the known-answer checks of the selected units. -/
  | selftestGo (sel : BitVec 6) (req : Req)
  /-- SELFTEST_DONE (R345). The self-test ends, fencing units that failed twice and raising V244 or V245. -/
  | selftestDone (failed : SelftestEnd)
  /-- PERF_TAG_CFG_WRITE (R354). A write of PERF_TAG_CFG changes K and requests a new LFSR seed. -/
  | perfTagCfgWrite (value : W32) (req : Req)
  /-- PERF_SEED_ARRIVE (R354). A non-zero seed from the expander loads the tagging LFSR and sets SEEDED. -/
  | perfSeedArrive
  /-- PERF_TRC_ENABLE (R359). A write of PERF_TRC_CFG.EN = 1 starts the PERF ring at index 0 of lap 0. -/
  | perfTrcEnable (value : W32) (req : Req)
  /-- FABRIC_READ_RESPONSE (R371). A read response arrives on a fabric port and is handed to the issuing unit, retried on error. -/
  | fabricReadResponse (port id : Nat) (resp : BitVec 2) (bytes : Nat) (data : Bytes)
  /-- FABRIC_WRITE_RESPONSE (R371). A write or barrier response arrives on a fabric port and is handed to the issuing unit, retried on error. -/
  | fabricWriteResponse (port id : Nat) (resp : BitVec 2)
  /-- FABRIC_TIMEOUT (R376). An access without response within FAB_XTMO times out and is retried once by its unit. -/
  | fabricTimeout (port : Nat) (write : Bool) (id : Nat)
  /-- FABRIC_LATE_RESPONSE (R376). A response after timeout or with an unknown ID is discarded and counted in FAB_LATE. -/
  | fabricLateResponse (port : Nat) (write : Bool) (id : Nat)
  /-- WRAPPER_INSTRUCTION (R384). An IEEE 1500 instruction is loaded, acting as WS_BYPASS with REFUSED outside its condition. -/
  | wrapperInstruction (code : BitVec 4)
  /-- WRAPPER_RESET (R384). wrstn low resets the wrapper instruction register to WS_BYPASS. -/
  | wrapperReset
  /-- REGISTER_READ (R29). A control-port read is decided under the answer table and returns the register's value, clearing RC fields, latching a high half, or being refused with ERR and logged. -/
  | registerRead (a : Access)
  /-- KEY_PORT_STRAY_WORD (R233). A word driven on the key port while key_req is low is discarded and counted in KEY_PORT_STS.STRAY. -/
  | keyPortStrayWord
  /-- SENSOR_REARM_EXPIRY (R320). An internal sensor whose condition has been absent for REARM becomes clearable in TAMP_SENS_STS and can satisfy CLEAR_ALARM. -/
  | sensorRearmExpiry (sensor : Sensor)
  /-- LANE_UNPARK_DONE (R307). An unparked lane's clock has restarted and it accepts frames 120 ns after the unpark. -/
  | laneUnparkDone (lane : Nat)
  /-- MBIST_DONE (R384). The memory test started by WP_MBIST ends and sets MBIST_DONE and MBIST_FAIL in WP_STATUS. -/
  | mbistDone (fail : Bool)
  /-- WRAPPER_DATA_SHIFT (R384). A capture, shift or update on wrck moves data through the wrapper data register that the instruction selects, including the boundary cells and the internal scan chains. -/
  | wrapperDataShift (op : WrapperOp)
deriving DecidableEq, Repr

end Sys2Proof
end

