-- ==== Sys2Proof/Decode.lean ====
section
/-! DEFINITION. The command that a word of the table spells. The table of operations and events gives its rows no bits,
so no word spells a command. -/

namespace Sys2Proof

/-- The command that a word of nbits bits spells by the bits of spec/opcode_table.json: none, since no row gives bits. -/
def decodeTableWord (nbits w : Nat) : Option Instr :=
  match nbits, w with
  | _, _ => none

end Sys2Proof
end

