-- ==== Sys2Proof/Config.lean ====
section
/-! DEFINITION. What the spec leaves open: values that nothing in Lean can evaluate, so that every claim holds whatever
they are. -/

namespace Sys2Proof

/-- A value that the spec says is undefined, or of which it states nothing, after a command that has its effect. The
number is the model's own count of such values (State.freeCtr), so that no two of them are tied to each other. -/
opaque Config.freeValue (w : Nat) : Nat → BitVec w

/-- The number that the big-number engine takes from the bytes of a call on the private wire, at the given attempt. The spec
says that keys, nonces and rnd are drawn from that wire and not how the bytes become the value (R196, R200, R201). -/
opaque Config.bnRandom (attempt : Nat) : Bytes → BitVec 640

end Sys2Proof
end

