-- ==== Sys2Proof/Machine/Bits.lean ====
section
/-! DEFINITION. Bit fields of words, byte order and sign extension: the helpers by which every register, descriptor,
record and frame is taken apart and put together. -/

namespace Sys2Proof.Machine

/-- The bits hi..lo of a number (R11's ranges are inclusive). -/
def bitsOf (n hi lo : Nat) : Nat := n / 2 ^ lo % 2 ^ (hi - lo + 1)

/-- The number n with its bits hi..lo replaced by x (cut to the field's width). -/
def putBits (n hi lo x : Nat) : Nat :=
  n - bitsOf n hi lo * 2 ^ lo + x % 2 ^ (hi - lo + 1) * 2 ^ lo

/-- The bits hi..lo of a 64-bit word. -/
def fget (v : W64) (hi lo : Nat) : Nat := bitsOf v.toNat hi lo

/-- A 64-bit word with its bits hi..lo replaced. -/
def fset (v : W64) (hi lo x : Nat) : W64 := BitVec.ofNat 64 (putBits v.toNat hi lo x)

/-- One bit of a number. -/
def bitAt (n i : Nat) : Bool := n / 2 ^ i % 2 == 1

/-- A Bool as a bit. -/
def b2n (b : Bool) : Nat := if b then 1 else 0

/-- A count that stops at the largest value its width holds. -/
def satAdd (n k top : Nat) : Nat := min (n + k) top

/-- The little-endian bytes of a number, k of them (R8). -/
def leBytes (n : Nat) : Nat → Bytes
  | 0 => []
  | k + 1 => BitVec.ofNat 8 n :: leBytes (n / 256) k

/-- The number that little-endian bytes hold (R8). -/
def leNat : Bytes → Nat
  | [] => 0
  | b :: t => b.toNat + 256 * leNat t

/-- The big-endian bytes of a number, k of them (network order). -/
def beBytes (n k : Nat) : Bytes := (leBytes n k).reverse

/-- The number that big-endian bytes hold. -/
def beNat (bs : Bytes) : Nat := leNat bs.reverse

/-- n bytes of bs from offset off; a byte beyond the end reads zero. -/
def slice (bs : Bytes) (off n : Nat) : Bytes :=
  let t := (bs.drop off).take n
  t ++ List.replicate (n - t.length) 0

/-- The bytes of two strings combined by exclusive or, as long as the first. -/
def xorBytes : Bytes → Bytes → Bytes
  | [], _ => []
  | a :: t, [] => a :: t
  | a :: t, b :: u => (a ^^^ b) :: xorBytes t u

/-- Little-endian bytes of a list of 64-bit words. -/
def wordsToBytes (ws : List W64) : Bytes := ws.flatMap (fun w => leBytes w.toNat 8)

/-- The numbers below n that satisfy p, as a bit map. -/
def mapOf (n : Nat) (p : Nat → Bool) : Nat :=
  (List.range n).foldl (fun a i => if p i then a + 2 ^ i else a) 0

/-- How many numbers below n satisfy p. -/
def countBelow (n : Nat) (p : Nat → Bool) : Nat :=
  (List.range n).foldl (fun a i => if p i then a + 1 else a) 0

/-- The first number below n that satisfies p. -/
def firstBelow (n : Nat) (p : Nat → Bool) : Option Nat := (List.range n).find? p

/-- The logarithm base 2 of x, rounded up. -/
def clog2 (x : Nat) : Nat := Nat.clog 2 x

/-- CRC-16 with polynomial 0x1021 over one byte, most significant bit first. -/
def crc16Byte (crc : Nat) (b : Nat) : Nat :=
  (List.range 8).foldl
    (fun c i =>
      let fb := (bitAt c 15) ^^ (bitAt b (7 - i))
      let c' := c * 2 % 65536
      if fb then c' ^^^ 0x1021 else c') crc

/-- CRC-16 over a string of bytes from a start value. -/
def crc16 (init : Nat) (bs : Bytes) : Nat := bs.foldl (fun c b => crc16Byte c b.toNat) init

/-- CRC-32 (reflected polynomial 0xEDB88320) over one byte, least significant bit first. -/
def crc32Byte (crc : Nat) (b : Nat) : Nat :=
  (List.range 8).foldl
    (fun c _ => if c % 2 == 1 then (c / 2) ^^^ 0xEDB88320 else c / 2) (crc ^^^ b)

/-- CRC-32 over a string of bytes, start value and final exclusive or all ones. -/
def crc32 (bs : Bytes) : Nat := bs.foldl (fun c b => crc32Byte c b.toNat) 0xFFFFFFFF ^^^ 0xFFFFFFFF

end Sys2Proof.Machine
end

