-- ==== Sys2Proof/Machine/Regs.lean ====
section
/-! DEFINITION. The register map of the window: every body register that a chapter's register table names
(R42, R67, R68, R69, R99, R100, R129, R146, R166, R167, R168, R169, R186, R187, R211, R230, R253, R269, R270,
R291, R316, R317, R338, R344, R359, R360, R379), with its page, offset, width and fields (bits, access, reset). -/

namespace Sys2Proof.Machine

/-- The body registers of the window, one constructor per register name; a numbered instance of a register is the
constructor with an instance number beside it. -/
inductive Reg where
  | TILE_IDENT | TILE_STATE | TILE_CMD | TILE_RESET_CAUSE | TILE_WINDOW | TILE_UID | TILE_FAULT_SUMMARY
  | TILE_SCRATCH | ACCESS_ERR_ADDR | ACCESS_ERR_INFO | TILE_WDOG_CTL | TILE_WDOG_KICK | TILE_ERR_MODE
  | TILE_TRANS_TMO | QENG_CTL | QENG_STS | QENG_RES | QENG_RR | QENG_TORN_LAST | QENG_TORN_CNT | QENG_FENCED
  | QENG_XFETCH | RQ_BASE | RQ_CFG | RQ_SCHED | RQ_POLL | RQ_HEAD | RQ_STS | RQ_KICK | RQ_ERR | RQ_XPREF
  | RQ_XDOZE | RQ_XTORN | FN_RQ_SEL | FN_RQ_VIEW | FN_RQ_HEAD | FN_RQ_KICK | FN_RQ_OWNED | LANE_STS | LANE_ERR
  | LANE_CHECK | LANE_XINJECT | LANE_XCHECK | QUAD_LANE_EN | QUAD_STS | QUAD_STAGE_HWM | QUAD_REPLAY
  | QUAD_AFAIL | QUAD_AFAIL_CNT | QUAD_XLANE | CTX_STORE_BASE | CTX_TREE_BASE | CTX_CFG | CTX_STS | CTX_OCC
  | CTX_TREE_INFO | CTX_CMD | CTX_CMD_STS | CTX_SWEEP | CTX_PN_MARGIN | CTX_LEARN_BASE | CTX_LEARN_MIRROR
  | CTX_LEARN_CFG | CTX_LEARN_CONS | CTX_LEARN_DROP | CTX_ERR_HANDLE | CTX_ERR_INFO | CTX_PN_HANDLE | CTX_BAD
  | CTX_XSWEEP | CTX_XMISS | EPOCH_CUR | EPOCH_PEND | EPOCH_TIME | EPOCH_LAST | EPOCH_CTL | EPOCH_STS
  | EPOCH_ARMED | EPOCH_EXPECT | EPOCH_RXOVL | EPOCH_MISS | EPOCH_MISS_HANDLE | EPOCH_XGUARD | CROWN_STS
  | CROWN_POOL | CROWN_POOL_HWM | CROWN_STALL_CNT | CROWN_PTR | CROWN_XPRIO | CQ_BASE | CQ_MIRROR | CQ_HEAD
  | CQ_CFG | CQ_CONS | CQ_STS | CQ_ERR | CQ_XQUOTA | CQ_XCOALESCE | IRQ_CTL | IRQ_STS | IRQ_FLUSH | IRQ_MSG_CNT
  | IRQ_PEND | IRQ_SEL | IRQ_SEL_STS | IRQ_VEC_CFG | IRQ_XFORCE | FN_CQ_SEL | FN_CQ_VIEW | FN_CQ_CONS
  | FN_CQ_OWNED | DG_STS | DG_SLICE | DG_HOLD | DG_HOLD_CNT | DG_SLOTS | DG_ERR_INFO | DG_RES_FUNC | DG_SAVE_BASE
  | DG_SAVE_CTL | DG_SAVE_STS | DG_XRESERVE | DCORE_STS | DCORE_ERR | DCORE_CHECK | DCORE_BLOCKS | DCORE_XINJECT
  | BN_STS | BN_SLICE | BN_IDLE | BN_ERR_INFO | BN_CHECK | BN_CHAN_CFG | BN_XRNG | BN_XRESPLIT | BN_XINJECT
  | RNG_CELL_EN | RNG_STS | RNG_RESEED_CFG | RNG_RESEED_CNT | RNG_PRIV_RESERVE | RNG_HEALTH_CFG | RNG_TMO
  | RNG_CELL_FLAGS | RNG_SW_DATA | RNG_EST_CFG | RNG_RESEEDS | RNG_CELL_CNT | RNG_CELL_EST | RNG_XRAW
  | RNG_XRAW_BASE | RNG_XRAW_STS | RNG_XCELL | KEY_STS | KEY_CMD | KEY_PORT_STS | KEY_POUNCE_STS | KEY_POUNCE_CNT
  | KEY_POUNCE_LAST | KEY_COUNTS | KEY_SESSION | KEY_ATT_CHAL | KEY_ATT_STS | KEY_ATT_MSG | KEY_ATT_RESP
  | KEY_FGEN | KEY_XPOUNCE | KEY_XPORT | DMA_STS | DMA_ARB | DMA_XRECOVER | DCH_CFG | DCH_CTL | DCH_STS
  | DCH_ARM | DCH_SHD_CTL | DCH_SHD_SRC | DCH_SHD_DST | DCH_CUR_CTL | DCH_CUR_SRC | DCH_CUR_DST | DCH_CUR_MOVED
  | DCH_ERR | DCH_LAST | DCH_RING_BASE | DCH_RING_HEAD | DCH_X2D_SRC | DCH_X2D_DST | HB_STS | HB_CELL_EN
  | HB_WIRE_IN | HB_TIME | HB_TIME_INFO | HB_TIME_STEP | HB_CNT | HB_MSG_TX_DATA | HB_MSG_TX_HI | HB_MSG_TX_CTL
  | HB_MSG_RX_DATA | HB_MSG_RX_HI | HB_MSG_RX_STS | HB_XTIME | HB_XCELL | CLK_STS | CLK_REF_CFG | CLK_CMD
  | CLK_PLL_EN | CLK_EN | CLK_RUN | CLK_FB_CNT | CLK_COMPAT | CLK_RUN_EN | CLK_SLEEP_EN | CLK_DEEPSLEEP_EN
  | CLK_XMON | CLK_XSWITCH | PWR_STS | PWR_CMD | PWR_SLEEP | PWR_WAKE_CFG | PWR_WAKE_CAUSE | PWR_PARK
  | PWR_PARK_STS | PWR_FAULT_INFO | PWR_DOM_ON | PWR_DOM_RET | PWR_XSEQ | TAMP_STS | TAMP_CMD | TAMP_QUAL_CLR
  | TAMP_SENS_STS | TAMP_QUAL | TAMP_LAST | FLT_FUNC | FLT_FUNC_FORCE | FLT_DIRTY_LOST | FLT_LOG_IDX
  | FLT_LOG | TAMP_XIN_CFG | TAMP_XSENS_CFG | TAMP_XQUAL | TILE_SELFTEST | TILE_SELFTEST_STS | PERF_STS
  | PERF_TAG_CFG | PERF_TRC_BASE | PERF_TRC_MIRROR | PERF_TRC_CFG | PERF_TRC_CONS | PERF_WATCH | PERF_CNT
  | PERF_XFREEZE | FN_TRC_BASE | FN_TRC_MIRROR | FN_TRC_CFG | FN_TRC_CONS | FN_PERF_GEN | FN_CNT | FAB_ERR_ADDR
  | FAB_ERR_INFO | FAB_LATE | FAB_OUTSTANDING | FAB_XTMO
deriving DecidableEq, Repr

/-- The access codes of R10. -/
inductive Acc where
  /-- read and write -/
  | rw
  /-- read only; writes are ignored -/
  | ro
  /-- write only; reads return zero -/
  | wo
  /-- writing 1 clears the bit -/
  | w1c
  /-- writing 1 sets the bit -/
  | w1s
  /-- the read returns the value and clears it -/
  | rc
  /-- writable only while the page's expert lock is open -/
  | rwx
deriving DecidableEq, Repr

/-- One named field of a register: the register, its bits hi..lo, its access code and its reset value. -/
structure Fld where
  /-- the register -/
  reg : Reg
  /-- the most significant bit -/
  hi : Nat
  /-- the least significant bit -/
  lo : Nat
  /-- the access code (R10) -/
  acc : Acc
  /-- the value the field has at reset -/
  rst : Nat
deriving DecidableEq, Repr

/-! Fields of TILE_IDENT (R42, 02_register_pages.md). -/
def TILE_IDENT.PART : Fld := ⟨.TILE_IDENT, 31, 16, .ro, 0x1612⟩
def TILE_IDENT.STEP_MAJOR : Fld := ⟨.TILE_IDENT, 15, 8, .ro, 1⟩
def TILE_IDENT.STEP_MINOR : Fld := ⟨.TILE_IDENT, 7, 0, .ro, 0⟩
/-! Fields of TILE_STATE (R42, 02_register_pages.md). -/
def TILE_STATE.KEEPER : Fld := ⟨.TILE_STATE, 11, 11, .ro, 1⟩
def TILE_STATE.HOLDOVER : Fld := ⟨.TILE_STATE, 10, 10, .ro, 0⟩
def TILE_STATE.ROOT_LOADED : Fld := ⟨.TILE_STATE, 9, 9, .ro, 0⟩
def TILE_STATE.RNG_READY : Fld := ⟨.TILE_STATE, 8, 8, .ro, 0⟩
def TILE_STATE.PREV : Fld := ⟨.TILE_STATE, 7, 4, .ro, 1⟩
def TILE_STATE.STATE : Fld := ⟨.TILE_STATE, 3, 0, .ro, 2⟩
/-! Fields of TILE_CMD (R42, 02_register_pages.md). -/
def TILE_CMD.KEY : Fld := ⟨.TILE_CMD, 31, 16, .wo, 0⟩
def TILE_CMD.CMD : Fld := ⟨.TILE_CMD, 3, 0, .wo, 0⟩
/-! Fields of TILE_RESET_CAUSE (R42, 02_register_pages.md). -/
def TILE_RESET_CAUSE.WAKE_DEEP : Fld := ⟨.TILE_RESET_CAUSE, 6, 6, .w1c, 0⟩
def TILE_RESET_CAUSE.UNFENCE : Fld := ⟨.TILE_RESET_CAUSE, 5, 5, .w1c, 0⟩
def TILE_RESET_CAUSE.TEST_EXIT : Fld := ⟨.TILE_RESET_CAUSE, 4, 4, .w1c, 0⟩
def TILE_RESET_CAUSE.WATCHDOG : Fld := ⟨.TILE_RESET_CAUSE, 3, 3, .w1c, 0⟩
def TILE_RESET_CAUSE.ALARM : Fld := ⟨.TILE_RESET_CAUSE, 2, 2, .w1c, 0⟩
def TILE_RESET_CAUSE.RENUM : Fld := ⟨.TILE_RESET_CAUSE, 1, 1, .w1c, 0⟩
def TILE_RESET_CAUSE.POWER_ON : Fld := ⟨.TILE_RESET_CAUSE, 0, 0, .w1c, 1⟩
/-! Fields of TILE_WINDOW (R42, 02_register_pages.md). -/
def TILE_WINDOW.BASE : Fld := ⟨.TILE_WINDOW, 63, 28, .ro, 0⟩
def TILE_WINDOW.ADDR : Fld := ⟨.TILE_WINDOW, 27, 22, .ro, 0⟩
/-! Fields of TILE_UID (R42, 02_register_pages.md). -/
def TILE_UID.UID : Fld := ⟨.TILE_UID, 63, 0, .ro, 0⟩
/-! Fields of TILE_FAULT_SUMMARY (R42, 02_register_pages.md). -/
def TILE_FAULT_SUMMARY.TYPE : Fld := ⟨.TILE_FAULT_SUMMARY, 23, 1, .ro, 0⟩
/-! Fields of TILE_SCRATCH (R42, 02_register_pages.md). -/
def TILE_SCRATCH.VALUE : Fld := ⟨.TILE_SCRATCH, 31, 0, .rw, 0⟩
/-! Fields of ACCESS_ERR_ADDR (R42, 02_register_pages.md). -/
def ACCESS_ERR_ADDR.OFFSET : Fld := ⟨.ACCESS_ERR_ADDR, 21, 0, .ro, 0⟩
/-! Fields of ACCESS_ERR_INFO (R42, 02_register_pages.md). -/
def ACCESS_ERR_INFO.VALID : Fld := ⟨.ACCESS_ERR_INFO, 31, 31, .w1c, 0⟩
def ACCESS_ERR_INFO.CAUSE : Fld := ⟨.ACCESS_ERR_INFO, 30, 28, .ro, 0⟩
def ACCESS_ERR_INFO.WRITE : Fld := ⟨.ACCESS_ERR_INFO, 27, 27, .ro, 0⟩
def ACCESS_ERR_INFO.PRIV : Fld := ⟨.ACCESS_ERR_INFO, 26, 26, .ro, 0⟩
def ACCESS_ERR_INFO.FUNC : Fld := ⟨.ACCESS_ERR_INFO, 21, 16, .ro, 0⟩
def ACCESS_ERR_INFO.COUNT : Fld := ⟨.ACCESS_ERR_INFO, 15, 0, .ro, 0⟩
/-! Fields of TILE_WDOG_CTL (R42, 02_register_pages.md). -/
def TILE_WDOG_CTL.EN : Fld := ⟨.TILE_WDOG_CTL, 31, 31, .rw, 0⟩
def TILE_WDOG_CTL.ACTION : Fld := ⟨.TILE_WDOG_CTL, 17, 16, .rw, 0⟩
def TILE_WDOG_CTL.PERIOD : Fld := ⟨.TILE_WDOG_CTL, 15, 0, .rw, 0x100⟩
/-! Fields of TILE_WDOG_KICK (R42, 02_register_pages.md). -/
def TILE_WDOG_KICK.KICK : Fld := ⟨.TILE_WDOG_KICK, 31, 0, .wo, 0⟩
/-! Fields of TILE_ERR_MODE (R42, 02_register_pages.md). -/
def TILE_ERR_MODE.RAZ_WI : Fld := ⟨.TILE_ERR_MODE, 0, 0, .rwx, 0⟩
/-! Fields of TILE_TRANS_TMO (R42, 02_register_pages.md). -/
def TILE_TRANS_TMO.LIMIT : Fld := ⟨.TILE_TRANS_TMO, 23, 0, .rwx, 0x20000⟩
/-! Fields of QENG_CTL (R67, 03_request_queues.md). -/
def QENG_CTL.PAUSE : Fld := ⟨.QENG_CTL, 0, 0, .rw, 0⟩
/-! Fields of QENG_STS (R67, 03_request_queues.md). -/
def QENG_STS.PAUSED : Fld := ⟨.QENG_STS, 31, 31, .ro, 0⟩
def QENG_STS.ACTIVE : Fld := ⟨.QENG_STS, 24, 16, .ro, 0⟩
def QENG_STS.DOZING : Fld := ⟨.QENG_STS, 8, 0, .ro, 0⟩
/-! Fields of QENG_RES (R67, 03_request_queues.md). -/
def QENG_RES.CBUF_FREE : Fld := ⟨.QENG_RES, 22, 16, .ro, 0x40⟩
def QENG_RES.MISS_BUSY : Fld := ⟨.QENG_RES, 6, 0, .ro, 0⟩
/-! Fields of QENG_RR (R67, 03_request_queues.md). -/
def QENG_RR.ROUND_START : Fld := ⟨.QENG_RR, 15, 8, .ro, 0⟩
def QENG_RR.NEXT : Fld := ⟨.QENG_RR, 7, 0, .ro, 0⟩
/-! Fields of QENG_TORN_LAST (R67, 03_request_queues.md). -/
def QENG_TORN_LAST.VALID : Fld := ⟨.QENG_TORN_LAST, 31, 31, .w1c, 0⟩
def QENG_TORN_LAST.RQ : Fld := ⟨.QENG_TORN_LAST, 23, 16, .ro, 0⟩
def QENG_TORN_LAST.INDEX : Fld := ⟨.QENG_TORN_LAST, 15, 0, .ro, 0⟩
/-! Fields of QENG_TORN_CNT (R67, 03_request_queues.md). -/
def QENG_TORN_CNT.COUNT : Fld := ⟨.QENG_TORN_CNT, 31, 0, .rc, 0⟩
/-! Fields of QENG_FENCED (R67, 03_request_queues.md). -/
def QENG_FENCED.MAP : Fld := ⟨.QENG_FENCED, 63, 0, .ro, 0⟩
/-! Fields of QENG_XFETCH (R67, 03_request_queues.md). -/
def QENG_XFETCH.GROUP : Fld := ⟨.QENG_XFETCH, 1, 0, .rwx, 2⟩
/-! Fields of RQ_BASE (R68, 03_request_queues.md). -/
def RQ_BASE.BASE : Fld := ⟨.RQ_BASE, 63, 12, .rw, 0⟩
/-! Fields of RQ_CFG (R68, 03_request_queues.md). -/
def RQ_CFG.EN : Fld := ⟨.RQ_CFG, 31, 31, .rw, 0⟩
def RQ_CFG.SIZE_LOG2 : Fld := ⟨.RQ_CFG, 28, 24, .rw, 6⟩
def RQ_CFG.FUNC : Fld := ⟨.RQ_CFG, 21, 16, .rw, 0⟩
def RQ_CFG.CQ : Fld := ⟨.RQ_CFG, 13, 8, .rw, 0⟩
def RQ_CFG.QUAD_MASK : Fld := ⟨.RQ_CFG, 3, 0, .rw, 0xf⟩
/-! Fields of RQ_SCHED (R68, 03_request_queues.md). -/
def RQ_SCHED.WEIGHT : Fld := ⟨.RQ_SCHED, 23, 16, .rw, 1⟩
def RQ_SCHED.BURST : Fld := ⟨.RQ_SCHED, 6, 0, .rw, 1⟩
/-! Fields of RQ_POLL (R68, 03_request_queues.md). -/
def RQ_POLL.MIN_INT : Fld := ⟨.RQ_POLL, 31, 16, .rw, 1⟩
def RQ_POLL.MAX_INT : Fld := ⟨.RQ_POLL, 15, 0, .rw, 0x100⟩
/-! Fields of RQ_HEAD (R68, 03_request_queues.md). -/
def RQ_HEAD.LAP : Fld := ⟨.RQ_HEAD, 31, 16, .rw, 0⟩
def RQ_HEAD.INDEX : Fld := ⟨.RQ_HEAD, 15, 0, .rw, 0⟩
/-! Fields of RQ_STS (R68, 03_request_queues.md). -/
def RQ_STS.INFLIGHT : Fld := ⟨.RQ_STS, 31, 16, .ro, 0⟩
def RQ_STS.CHAIN_WAIT : Fld := ⟨.RQ_STS, 7, 7, .ro, 0⟩
def RQ_STS.CBUF_WAIT : Fld := ⟨.RQ_STS, 6, 6, .ro, 0⟩
def RQ_STS.MISS_HOLD : Fld := ⟨.RQ_STS, 5, 5, .ro, 0⟩
def RQ_STS.STATE : Fld := ⟨.RQ_STS, 2, 0, .ro, 0⟩
/-! Fields of RQ_KICK (R68, 03_request_queues.md). -/
def RQ_KICK.KICK : Fld := ⟨.RQ_KICK, 31, 0, .wo, 0⟩
/-! Fields of RQ_ERR (R68, 03_request_queues.md). -/
def RQ_ERR.FENCED : Fld := ⟨.RQ_ERR, 31, 31, .ro, 0⟩
def RQ_ERR.CAUSE : Fld := ⟨.RQ_ERR, 27, 24, .ro, 0⟩
def RQ_ERR.TORN : Fld := ⟨.RQ_ERR, 15, 0, .rc, 0⟩
/-! Fields of RQ_XPREF (R68, 03_request_queues.md). -/
def RQ_XPREF.DEPTH : Fld := ⟨.RQ_XPREF, 4, 0, .rwx, 0x10⟩
/-! Fields of RQ_XDOZE (R68, 03_request_queues.md). -/
def RQ_XDOZE.AFTER : Fld := ⟨.RQ_XDOZE, 31, 24, .rwx, 0x40⟩
def RQ_XDOZE.INT : Fld := ⟨.RQ_XDOZE, 15, 0, .rwx, 0x64⟩
/-! Fields of RQ_XTORN (R68, 03_request_queues.md). -/
def RQ_XTORN.LIMIT : Fld := ⟨.RQ_XTORN, 7, 0, .rwx, 0⟩
/-! Fields of FN_RQ_SEL (R69, 03_request_queues.md). -/
def FN_RQ_SEL.RQ : Fld := ⟨.FN_RQ_SEL, 7, 0, .rw, 0⟩
/-! Fields of FN_RQ_VIEW (R69, 03_request_queues.md). -/
def FN_RQ_VIEW.VALID : Fld := ⟨.FN_RQ_VIEW, 31, 31, .ro, 0⟩
def FN_RQ_VIEW.CQ : Fld := ⟨.FN_RQ_VIEW, 15, 8, .ro, 0⟩
def FN_RQ_VIEW.HOLD : Fld := ⟨.FN_RQ_VIEW, 4, 3, .ro, 0⟩
def FN_RQ_VIEW.STATE : Fld := ⟨.FN_RQ_VIEW, 2, 0, .ro, 0⟩
/-! Fields of FN_RQ_HEAD (R69, 03_request_queues.md). -/
def FN_RQ_HEAD.HEAD : Fld := ⟨.FN_RQ_HEAD, 31, 0, .ro, 0⟩
/-! Fields of FN_RQ_KICK (R69, 03_request_queues.md). -/
def FN_RQ_KICK.RQ : Fld := ⟨.FN_RQ_KICK, 7, 0, .wo, 0⟩
/-! Fields of FN_RQ_OWNED (R69, 03_request_queues.md). -/
def FN_RQ_OWNED.MAP : Fld := ⟨.FN_RQ_OWNED, 63, 0, .ro, 0⟩
/-! Fields of LANE_STS (R99, 04_cipher_lanes.md). -/
def LANE_STS.INFLIGHT : Fld := ⟨.LANE_STS, 20, 16, .ro, 0⟩
def LANE_STS.KEY_ZERO : Fld := ⟨.LANE_STS, 3, 3, .ro, 1⟩
def LANE_STS.CHECKING : Fld := ⟨.LANE_STS, 2, 2, .ro, 0⟩
def LANE_STS.ELIGIBLE : Fld := ⟨.LANE_STS, 1, 1, .ro, 0⟩
def LANE_STS.IDLE : Fld := ⟨.LANE_STS, 0, 0, .ro, 1⟩
/-! Fields of LANE_ERR (R99, 04_cipher_lanes.md). -/
def LANE_ERR.VALID : Fld := ⟨.LANE_ERR, 31, 31, .w1c, 0⟩
def LANE_ERR.CAUSE : Fld := ⟨.LANE_ERR, 27, 24, .ro, 0⟩
def LANE_ERR.STAGE : Fld := ⟨.LANE_ERR, 20, 16, .ro, 0⟩
def LANE_ERR.COUNT : Fld := ⟨.LANE_ERR, 15, 0, .ro, 0⟩
/-! Fields of LANE_CHECK (R99, 04_cipher_lanes.md). -/
def LANE_CHECK.PASS : Fld := ⟨.LANE_CHECK, 2, 2, .ro, 0⟩
def LANE_CHECK.DONE : Fld := ⟨.LANE_CHECK, 1, 1, .ro, 0⟩
def LANE_CHECK.RUN : Fld := ⟨.LANE_CHECK, 0, 0, .w1s, 0⟩
/-! Fields of LANE_XINJECT (R99, 04_cipher_lanes.md). -/
def LANE_XINJECT.ARM : Fld := ⟨.LANE_XINJECT, 31, 31, .rwx, 0⟩
def LANE_XINJECT.CAUSE : Fld := ⟨.LANE_XINJECT, 27, 24, .rwx, 1⟩
def LANE_XINJECT.AFTER : Fld := ⟨.LANE_XINJECT, 15, 0, .rwx, 0⟩
/-! Fields of LANE_XCHECK (R99, 04_cipher_lanes.md). -/
def LANE_XCHECK.PERIOD : Fld := ⟨.LANE_XCHECK, 15, 0, .rwx, 0⟩
/-! Fields of QUAD_LANE_EN (R100, 04_cipher_lanes.md). -/
def QUAD_LANE_EN.LANES : Fld := ⟨.QUAD_LANE_EN, 3, 0, .rw, 0xf⟩
/-! Fields of QUAD_STS (R100, 04_cipher_lanes.md). -/
def QUAD_STS.PLL_LOCK : Fld := ⟨.QUAD_STS, 31, 31, .ro, 0⟩
def QUAD_STS.FENCED : Fld := ⟨.QUAD_STS, 27, 24, .ro, 0⟩
def QUAD_STS.STAGE_HELD : Fld := ⟨.QUAD_STS, 18, 0, .ro, 0⟩
/-! Fields of QUAD_STAGE_HWM (R100, 04_cipher_lanes.md). -/
def QUAD_STAGE_HWM.HWM : Fld := ⟨.QUAD_STAGE_HWM, 18, 0, .rc, 0⟩
/-! Fields of QUAD_REPLAY (R100, 04_cipher_lanes.md). -/
def QUAD_REPLAY.COUNT : Fld := ⟨.QUAD_REPLAY, 31, 0, .rc, 0⟩
/-! Fields of QUAD_AFAIL (R100, 04_cipher_lanes.md). -/
def QUAD_AFAIL.THRESHOLD : Fld := ⟨.QUAD_AFAIL, 31, 16, .rw, 0⟩
def QUAD_AFAIL.WINDOW : Fld := ⟨.QUAD_AFAIL, 15, 0, .rw, 0x3e8⟩
/-! Fields of QUAD_AFAIL_CNT (R100, 04_cipher_lanes.md). -/
def QUAD_AFAIL_CNT.COUNT : Fld := ⟨.QUAD_AFAIL_CNT, 15, 0, .ro, 0⟩
/-! Fields of QUAD_XLANE (R100, 04_cipher_lanes.md). -/
def QUAD_XLANE.MAX_INFLIGHT : Fld := ⟨.QUAD_XLANE, 4, 0, .rwx, 0x14⟩
/-! Fields of CTX_STORE_BASE (R129, 05_context_store.md). -/
def CTX_STORE_BASE.BASE : Fld := ⟨.CTX_STORE_BASE, 63, 12, .rw, 0⟩
/-! Fields of CTX_TREE_BASE (R129, 05_context_store.md). -/
def CTX_TREE_BASE.BASE : Fld := ⟨.CTX_TREE_BASE, 63, 12, .rw, 0⟩
/-! Fields of CTX_CFG (R129, 05_context_store.md). -/
def CTX_CFG.SIZE_LOG2 : Fld := ⟨.CTX_CFG, 5, 0, .rw, 0x14⟩
/-! Fields of CTX_STS (R129, 05_context_store.md). -/
def CTX_STS.STORE : Fld := ⟨.CTX_STS, 31, 30, .ro, 0⟩
def CTX_STS.MISS_BUSY : Fld := ⟨.CTX_STS, 22, 16, .ro, 0⟩
def CTX_STS.WAY_WAIT : Fld := ⟨.CTX_STS, 0, 0, .ro, 0⟩
/-! Fields of CTX_OCC (R129, 05_context_store.md). -/
def CTX_OCC.DIRTY : Fld := ⟨.CTX_OCC, 28, 16, .ro, 0⟩
def CTX_OCC.RESIDENT : Fld := ⟨.CTX_OCC, 12, 0, .ro, 0⟩
/-! Fields of CTX_TREE_INFO (R129, 05_context_store.md). -/
def CTX_TREE_INFO.LEVELS : Fld := ⟨.CTX_TREE_INFO, 31, 28, .ro, 3⟩
def CTX_TREE_INFO.ROOT_USED : Fld := ⟨.CTX_TREE_INFO, 27, 24, .ro, 4⟩
def CTX_TREE_INFO.PAGES : Fld := ⟨.CTX_TREE_INFO, 19, 0, .ro, 5⟩
/-! Fields of CTX_CMD (R129, 05_context_store.md). -/
def CTX_CMD.OP : Fld := ⟨.CTX_CMD, 31, 28, .wo, 0⟩
def CTX_CMD.HANDLE : Fld := ⟨.CTX_CMD, 27, 0, .wo, 0⟩
/-! Fields of CTX_CMD_STS (R129, 05_context_store.md). -/
def CTX_CMD_STS.BUSY : Fld := ⟨.CTX_CMD_STS, 31, 31, .ro, 0⟩
def CTX_CMD_STS.DONE : Fld := ⟨.CTX_CMD_STS, 30, 30, .w1c, 0⟩
def CTX_CMD_STS.RESULT : Fld := ⟨.CTX_CMD_STS, 29, 28, .ro, 0⟩
def CTX_CMD_STS.OP : Fld := ⟨.CTX_CMD_STS, 3, 0, .ro, 0⟩
/-! Fields of CTX_SWEEP (R129, 05_context_store.md). -/
def CTX_SWEEP.PASSES : Fld := ⟨.CTX_SWEEP, 31, 16, .ro, 0⟩
def CTX_SWEEP.INT : Fld := ⟨.CTX_SWEEP, 15, 0, .rw, 0x3e8⟩
/-! Fields of CTX_PN_MARGIN (R129, 05_context_store.md). -/
def CTX_PN_MARGIN.MARGIN : Fld := ⟨.CTX_PN_MARGIN, 31, 0, .rw, 0x40000000⟩
/-! Fields of CTX_LEARN_BASE (R129, 05_context_store.md). -/
def CTX_LEARN_BASE.BASE : Fld := ⟨.CTX_LEARN_BASE, 63, 12, .rw, 0⟩
/-! Fields of CTX_LEARN_MIRROR (R129, 05_context_store.md). -/
def CTX_LEARN_MIRROR.ADDR : Fld := ⟨.CTX_LEARN_MIRROR, 63, 3, .rw, 0⟩
/-! Fields of CTX_LEARN_CFG (R129, 05_context_store.md). -/
def CTX_LEARN_CFG.EN : Fld := ⟨.CTX_LEARN_CFG, 31, 31, .rw, 0⟩
def CTX_LEARN_CFG.SIZE_LOG2 : Fld := ⟨.CTX_LEARN_CFG, 28, 24, .rw, 6⟩
def CTX_LEARN_CFG.HOLDOFF : Fld := ⟨.CTX_LEARN_CFG, 15, 0, .rw, 0x64⟩
/-! Fields of CTX_LEARN_CONS (R129, 05_context_store.md). -/
def CTX_LEARN_CONS.INDEX : Fld := ⟨.CTX_LEARN_CONS, 15, 0, .rw, 0⟩
/-! Fields of CTX_LEARN_DROP (R129, 05_context_store.md). -/
def CTX_LEARN_DROP.SUPPRESSED : Fld := ⟨.CTX_LEARN_DROP, 31, 16, .rc, 0⟩
def CTX_LEARN_DROP.DROPPED : Fld := ⟨.CTX_LEARN_DROP, 15, 0, .rc, 0⟩
/-! Fields of CTX_ERR_HANDLE (R129, 05_context_store.md). -/
def CTX_ERR_HANDLE.HANDLE : Fld := ⟨.CTX_ERR_HANDLE, 27, 0, .ro, 0⟩
/-! Fields of CTX_ERR_INFO (R129, 05_context_store.md). -/
def CTX_ERR_INFO.VALID : Fld := ⟨.CTX_ERR_INFO, 31, 31, .w1c, 0⟩
def CTX_ERR_INFO.KIND : Fld := ⟨.CTX_ERR_INFO, 30, 28, .ro, 0⟩
def CTX_ERR_INFO.LEVEL : Fld := ⟨.CTX_ERR_INFO, 27, 24, .ro, 0⟩
def CTX_ERR_INFO.COUNT : Fld := ⟨.CTX_ERR_INFO, 15, 0, .ro, 0⟩
/-! Fields of CTX_PN_HANDLE (R129, 05_context_store.md). -/
def CTX_PN_HANDLE.VALID : Fld := ⟨.CTX_PN_HANDLE, 31, 31, .w1c, 0⟩
def CTX_PN_HANDLE.SLOT : Fld := ⟨.CTX_PN_HANDLE, 30, 30, .ro, 0⟩
def CTX_PN_HANDLE.HANDLE : Fld := ⟨.CTX_PN_HANDLE, 27, 0, .ro, 0⟩
/-! Fields of CTX_BAD (R129, 05_context_store.md). -/
def CTX_BAD.VALID : Fld := ⟨.CTX_BAD, 63, 63, .ro, 0⟩
def CTX_BAD.ROLLBACK : Fld := ⟨.CTX_BAD, 62, 62, .ro, 0⟩
def CTX_BAD.LEVEL : Fld := ⟨.CTX_BAD, 35, 32, .ro, 0⟩
def CTX_BAD.HANDLE : Fld := ⟨.CTX_BAD, 27, 0, .ro, 0⟩
/-! Fields of CTX_XSWEEP (R129, 05_context_store.md). -/
def CTX_XSWEEP.AGE : Fld := ⟨.CTX_XSWEEP, 1, 0, .rwx, 2⟩
/-! Fields of CTX_XMISS (R129, 05_context_store.md). -/
def CTX_XMISS.MAX : Fld := ⟨.CTX_XMISS, 6, 0, .rwx, 0x40⟩
/-! Fields of EPOCH_CUR (R146, 06_hitless_rekey.md). -/
def EPOCH_CUR.EPOCH : Fld := ⟨.EPOCH_CUR, 31, 0, .ro, 0⟩
/-! Fields of EPOCH_PEND (R146, 06_hitless_rekey.md). -/
def EPOCH_PEND.EPOCH : Fld := ⟨.EPOCH_PEND, 31, 0, .rw, 0⟩
/-! Fields of EPOCH_TIME (R146, 06_hitless_rekey.md). -/
def EPOCH_TIME.TIME : Fld := ⟨.EPOCH_TIME, 63, 0, .rw, 0⟩
/-! Fields of EPOCH_LAST (R146, 06_hitless_rekey.md). -/
def EPOCH_LAST.TIME : Fld := ⟨.EPOCH_LAST, 63, 0, .ro, 0⟩
/-! Fields of EPOCH_CTL (R146, 06_hitless_rekey.md). -/
def EPOCH_CTL.CELL_EN : Fld := ⟨.EPOCH_CTL, 31, 31, .rw, 1⟩
def EPOCH_CTL.HOLD_POLICY : Fld := ⟨.EPOCH_CTL, 8, 8, .rw, 0⟩
def EPOCH_CTL.CANCEL : Fld := ⟨.EPOCH_CTL, 2, 2, .w1s, 0⟩
def EPOCH_CTL.SCHED : Fld := ⟨.EPOCH_CTL, 1, 1, .w1s, 0⟩
def EPOCH_CTL.ARM : Fld := ⟨.EPOCH_CTL, 0, 0, .w1s, 0⟩
/-! Fields of EPOCH_STS (R146, 06_hitless_rekey.md). -/
def EPOCH_STS.PENDING : Fld := ⟨.EPOCH_STS, 31, 31, .ro, 0⟩
def EPOCH_STS.SCHEDULED : Fld := ⟨.EPOCH_STS, 30, 30, .ro, 0⟩
def EPOCH_STS.CLOSED : Fld := ⟨.EPOCH_STS, 29, 29, .ro, 0⟩
def EPOCH_STS.SRC : Fld := ⟨.EPOCH_STS, 28, 27, .ro, 0⟩
def EPOCH_STS.LAST_HOLDOVER : Fld := ⟨.EPOCH_STS, 7, 7, .ro, 0⟩
def EPOCH_STS.LAST_SHORT : Fld := ⟨.EPOCH_STS, 6, 6, .ro, 0⟩
def EPOCH_STS.CELL_LATE : Fld := ⟨.EPOCH_STS, 5, 5, .w1c, 0⟩
def EPOCH_STS.CELL_REFUSED : Fld := ⟨.EPOCH_STS, 4, 4, .w1c, 0⟩
def EPOCH_STS.HELD : Fld := ⟨.EPOCH_STS, 3, 3, .w1c, 0⟩
/-! Fields of EPOCH_ARMED (R146, 06_hitless_rekey.md). -/
def EPOCH_ARMED.COUNT : Fld := ⟨.EPOCH_ARMED, 31, 0, .ro, 0⟩
/-! Fields of EPOCH_EXPECT (R146, 06_hitless_rekey.md). -/
def EPOCH_EXPECT.COUNT : Fld := ⟨.EPOCH_EXPECT, 31, 0, .rw, 0⟩
/-! Fields of EPOCH_RXOVL (R146, 06_hitless_rekey.md). -/
def EPOCH_RXOVL.OVERLAP : Fld := ⟨.EPOCH_RXOVL, 31, 0, .rw, 0x2710⟩
/-! Fields of EPOCH_MISS (R146, 06_hitless_rekey.md). -/
def EPOCH_MISS.LATE_ARMS : Fld := ⟨.EPOCH_MISS, 31, 16, .rc, 0⟩
def EPOCH_MISS.HELD_FLIPS : Fld := ⟨.EPOCH_MISS, 15, 0, .rc, 0⟩
/-! Fields of EPOCH_MISS_HANDLE (R146, 06_hitless_rekey.md). -/
def EPOCH_MISS_HANDLE.VALID : Fld := ⟨.EPOCH_MISS_HANDLE, 31, 31, .w1c, 0⟩
def EPOCH_MISS_HANDLE.HANDLE : Fld := ⟨.EPOCH_MISS_HANDLE, 27, 0, .ro, 0⟩
/-! Fields of EPOCH_XGUARD (R146, 06_hitless_rekey.md). -/
def EPOCH_XGUARD.GUARD : Fld := ⟨.EPOCH_XGUARD, 31, 0, .rwx, 0x3e8⟩
/-! Fields of CROWN_STS (R166, 07_completions_and_interrupts.md). -/
def CROWN_STS.DRAINED : Fld := ⟨.CROWN_STS, 31, 31, .ro, 1⟩
def CROWN_STS.HOLDING : Fld := ⟨.CROWN_STS, 30, 30, .ro, 0⟩
def CROWN_STS.FIFO_FULL : Fld := ⟨.CROWN_STS, 25, 0, .ro, 0⟩
/-! Fields of CROWN_POOL (R166, 07_completions_and_interrupts.md). -/
def CROWN_POOL.ORDER_WAIT : Fld := ⟨.CROWN_POOL, 29, 16, .ro, 0⟩
def CROWN_POOL.FREE : Fld := ⟨.CROWN_POOL, 13, 0, .ro, 0x2800⟩
/-! Fields of CROWN_POOL_HWM (R166, 07_completions_and_interrupts.md). -/
def CROWN_POOL_HWM.HWM : Fld := ⟨.CROWN_POOL_HWM, 13, 0, .rc, 0⟩
/-! Fields of CROWN_STALL_CNT (R166, 07_completions_and_interrupts.md). -/
def CROWN_STALL_CNT.COUNT : Fld := ⟨.CROWN_STALL_CNT, 31, 0, .rc, 0⟩
/-! Fields of CROWN_PTR (R166, 07_completions_and_interrupts.md). -/
def CROWN_PTR.PTR : Fld := ⟨.CROWN_PTR, 4, 0, .ro, 0⟩
/-! Fields of CROWN_XPRIO (R166, 07_completions_and_interrupts.md). -/
def CROWN_XPRIO.FIXED : Fld := ⟨.CROWN_XPRIO, 31, 31, .rwx, 0⟩
def CROWN_XPRIO.START : Fld := ⟨.CROWN_XPRIO, 4, 0, .rwx, 0⟩
/-! Fields of CQ_BASE (R167, 07_completions_and_interrupts.md). -/
def CQ_BASE.BASE : Fld := ⟨.CQ_BASE, 63, 12, .rw, 0⟩
/-! Fields of CQ_MIRROR (R167, 07_completions_and_interrupts.md). -/
def CQ_MIRROR.ADDR : Fld := ⟨.CQ_MIRROR, 63, 3, .rw, 0⟩
/-! Fields of CQ_HEAD (R167, 07_completions_and_interrupts.md). -/
def CQ_HEAD.LAP : Fld := ⟨.CQ_HEAD, 63, 32, .rw, 0⟩
def CQ_HEAD.INDEX : Fld := ⟨.CQ_HEAD, 15, 0, .rw, 0⟩
/-! Fields of CQ_CFG (R167, 07_completions_and_interrupts.md). -/
def CQ_CFG.EN : Fld := ⟨.CQ_CFG, 31, 31, .rw, 0⟩
def CQ_CFG.SIZE_LOG2 : Fld := ⟨.CQ_CFG, 28, 24, .rw, 6⟩
def CQ_CFG.FUNC : Fld := ⟨.CQ_CFG, 21, 16, .rw, 0⟩
/-! Fields of CQ_CONS (R167, 07_completions_and_interrupts.md). -/
def CQ_CONS.INDEX : Fld := ⟨.CQ_CONS, 15, 0, .rw, 0⟩
/-! Fields of CQ_STS (R167, 07_completions_and_interrupts.md). -/
def CQ_STS.HELD : Fld := ⟨.CQ_STS, 29, 16, .ro, 0⟩
def CQ_STS.FULL : Fld := ⟨.CQ_STS, 4, 4, .ro, 0⟩
def CQ_STS.STATE : Fld := ⟨.CQ_STS, 2, 0, .ro, 0⟩
/-! Fields of CQ_ERR (R167, 07_completions_and_interrupts.md). -/
def CQ_ERR.FENCED : Fld := ⟨.CQ_ERR, 31, 31, .ro, 0⟩
def CQ_ERR.BAD_CONS : Fld := ⟨.CQ_ERR, 30, 30, .w1c, 0⟩
def CQ_ERR.CAUSE : Fld := ⟨.CQ_ERR, 27, 24, .ro, 0⟩
def CQ_ERR.STALLS : Fld := ⟨.CQ_ERR, 15, 0, .rc, 0⟩
/-! Fields of CQ_XQUOTA (R167, 07_completions_and_interrupts.md). -/
def CQ_XQUOTA.SLOTS : Fld := ⟨.CQ_XQUOTA, 13, 0, .rwx, 0x800⟩
/-! Fields of CQ_XCOALESCE (R167, 07_completions_and_interrupts.md). -/
def CQ_XCOALESCE.GAP : Fld := ⟨.CQ_XCOALESCE, 15, 0, .rwx, 0⟩
/-! Fields of IRQ_CTL (R168, 07_completions_and_interrupts.md). -/
def IRQ_CTL.HOST_SLEEP : Fld := ⟨.IRQ_CTL, 0, 0, .rw, 0⟩
/-! Fields of IRQ_STS (R168, 07_completions_and_interrupts.md). -/
def IRQ_STS.FLUSHING : Fld := ⟨.IRQ_STS, 31, 31, .ro, 0⟩
def IRQ_STS.WAKE_OUT : Fld := ⟨.IRQ_STS, 30, 30, .ro, 0⟩
def IRQ_STS.HELD : Fld := ⟨.IRQ_STS, 29, 29, .ro, 0⟩
def IRQ_STS.DUE : Fld := ⟨.IRQ_STS, 8, 0, .ro, 0⟩
/-! Fields of IRQ_FLUSH (R168, 07_completions_and_interrupts.md). -/
def IRQ_FLUSH.ALL : Fld := ⟨.IRQ_FLUSH, 31, 31, .wo, 0⟩
def IRQ_FLUSH.VECTOR : Fld := ⟨.IRQ_FLUSH, 7, 0, .wo, 0⟩
/-! Fields of IRQ_MSG_CNT (R168, 07_completions_and_interrupts.md). -/
def IRQ_MSG_CNT.COUNT : Fld := ⟨.IRQ_MSG_CNT, 31, 0, .rc, 0⟩
/-! Fields of IRQ_PEND (R168, 07_completions_and_interrupts.md). -/
def IRQ_PEND.MAP : Fld := ⟨.IRQ_PEND, 63, 0, .ro, 0⟩
/-! Fields of IRQ_SEL (R168, 07_completions_and_interrupts.md). -/
def IRQ_SEL.VECTOR : Fld := ⟨.IRQ_SEL, 7, 0, .rw, 0⟩
/-! Fields of IRQ_SEL_STS (R168, 07_completions_and_interrupts.md). -/
def IRQ_SEL_STS.COUNT : Fld := ⟨.IRQ_SEL_STS, 31, 16, .ro, 0⟩
def IRQ_SEL_STS.TIMER_RUN : Fld := ⟨.IRQ_SEL_STS, 15, 15, .ro, 0⟩
def IRQ_SEL_STS.IN_CHANNEL : Fld := ⟨.IRQ_SEL_STS, 14, 14, .ro, 0⟩
/-! Fields of IRQ_VEC_CFG (R168, 07_completions_and_interrupts.md). -/
def IRQ_VEC_CFG.EN : Fld := ⟨.IRQ_VEC_CFG, 31, 31, .rw, 0⟩
def IRQ_VEC_CFG.WAKE : Fld := ⟨.IRQ_VEC_CFG, 30, 30, .rw, 0⟩
def IRQ_VEC_CFG.DEST : Fld := ⟨.IRQ_VEC_CFG, 29, 29, .rw, 0⟩
def IRQ_VEC_CFG.FUNC : Fld := ⟨.IRQ_VEC_CFG, 28, 23, .rw, 0⟩
def IRQ_VEC_CFG.SCALE : Fld := ⟨.IRQ_VEC_CFG, 19, 16, .rw, 0⟩
def IRQ_VEC_CFG.TIMER : Fld := ⟨.IRQ_VEC_CFG, 15, 8, .rw, 0⟩
def IRQ_VEC_CFG.COUNT_THR : Fld := ⟨.IRQ_VEC_CFG, 7, 0, .rw, 1⟩
/-! Fields of IRQ_XFORCE (R168, 07_completions_and_interrupts.md). -/
def IRQ_XFORCE.GO : Fld := ⟨.IRQ_XFORCE, 31, 31, .rwx, 0⟩
def IRQ_XFORCE.VECTOR : Fld := ⟨.IRQ_XFORCE, 7, 0, .rwx, 0⟩
/-! Fields of FN_CQ_SEL (R169, 07_completions_and_interrupts.md). -/
def FN_CQ_SEL.CQ : Fld := ⟨.FN_CQ_SEL, 5, 0, .rw, 0⟩
/-! Fields of FN_CQ_VIEW (R169, 07_completions_and_interrupts.md). -/
def FN_CQ_VIEW.VALID : Fld := ⟨.FN_CQ_VIEW, 31, 31, .ro, 0⟩
def FN_CQ_VIEW.HELD : Fld := ⟨.FN_CQ_VIEW, 29, 16, .ro, 0⟩
def FN_CQ_VIEW.FULL : Fld := ⟨.FN_CQ_VIEW, 4, 4, .ro, 0⟩
def FN_CQ_VIEW.STATE : Fld := ⟨.FN_CQ_VIEW, 2, 0, .ro, 0⟩
/-! Fields of FN_CQ_CONS (R169, 07_completions_and_interrupts.md). -/
def FN_CQ_CONS.CQ : Fld := ⟨.FN_CQ_CONS, 21, 16, .wo, 0⟩
def FN_CQ_CONS.INDEX : Fld := ⟨.FN_CQ_CONS, 15, 0, .wo, 0⟩
/-! Fields of FN_CQ_OWNED (R169, 07_completions_and_interrupts.md). -/
def FN_CQ_OWNED.MAP : Fld := ⟨.FN_CQ_OWNED, 63, 0, .ro, 0⟩
/-! Fields of DG_STS (R186, 08_digest_engine.md). -/
def DG_STS.CORES_BUSY : Fld := ⟨.DG_STS, 31, 28, .ro, 0⟩
def DG_STS.FREE : Fld := ⟨.DG_STS, 24, 16, .ro, 0xf0⟩
def DG_STS.HELD : Fld := ⟨.DG_STS, 8, 0, .ro, 0⟩
/-! Fields of DG_SLICE (R186, 08_digest_engine.md). -/
def DG_SLICE.BUDGET : Fld := ⟨.DG_SLICE, 7, 0, .rw, 0x10⟩
/-! Fields of DG_HOLD (R186, 08_digest_engine.md). -/
def DG_HOLD.TMO : Fld := ⟨.DG_HOLD, 31, 16, .rw, 0x2710⟩
def DG_HOLD.MAX_PER_FN : Fld := ⟨.DG_HOLD, 6, 0, .rw, 0x10⟩
/-! Fields of DG_HOLD_CNT (R186, 08_digest_engine.md). -/
def DG_HOLD_CNT.EXPIRED : Fld := ⟨.DG_HOLD_CNT, 15, 0, .rc, 0⟩
/-! Fields of DG_SLOTS (R186, 08_digest_engine.md). -/
def DG_SLOTS.LOADED : Fld := ⟨.DG_SLOTS, 12, 0, .ro, 0⟩
/-! Fields of DG_ERR_INFO (R186, 08_digest_engine.md). -/
def DG_ERR_INFO.VALID : Fld := ⟨.DG_ERR_INFO, 31, 31, .w1c, 0⟩
def DG_ERR_INFO.KIND : Fld := ⟨.DG_ERR_INFO, 30, 28, .ro, 0⟩
def DG_ERR_INFO.INDEX : Fld := ⟨.DG_ERR_INFO, 23, 12, .ro, 0⟩
def DG_ERR_INFO.COUNT : Fld := ⟨.DG_ERR_INFO, 11, 0, .ro, 0⟩
/-! Fields of DG_RES_FUNC (R186, 08_digest_engine.md). -/
def DG_RES_FUNC.RESTRICT_3 : Fld := ⟨.DG_RES_FUNC, 31, 31, .rw, 0⟩
def DG_RES_FUNC.FUNC_3 : Fld := ⟨.DG_RES_FUNC, 29, 24, .rw, 0⟩
def DG_RES_FUNC.RESTRICT_2 : Fld := ⟨.DG_RES_FUNC, 23, 23, .rw, 0⟩
def DG_RES_FUNC.FUNC_2 : Fld := ⟨.DG_RES_FUNC, 21, 16, .rw, 0⟩
def DG_RES_FUNC.RESTRICT_1 : Fld := ⟨.DG_RES_FUNC, 15, 15, .rw, 0⟩
def DG_RES_FUNC.FUNC_1 : Fld := ⟨.DG_RES_FUNC, 13, 8, .rw, 0⟩
def DG_RES_FUNC.RESTRICT_0 : Fld := ⟨.DG_RES_FUNC, 7, 7, .rw, 0⟩
def DG_RES_FUNC.FUNC_0 : Fld := ⟨.DG_RES_FUNC, 5, 0, .rw, 0⟩
/-! Fields of DG_SAVE_BASE (R186, 08_digest_engine.md). -/
def DG_SAVE_BASE.BASE : Fld := ⟨.DG_SAVE_BASE, 63, 12, .rw, 0⟩
/-! Fields of DG_SAVE_CTL (R186, 08_digest_engine.md). -/
def DG_SAVE_CTL.EN : Fld := ⟨.DG_SAVE_CTL, 0, 0, .rw, 0⟩
/-! Fields of DG_SAVE_STS (R186, 08_digest_engine.md). -/
def DG_SAVE_STS.IMAGE : Fld := ⟨.DG_SAVE_STS, 31, 31, .ro, 0⟩
def DG_SAVE_STS.RESTORE_FAIL : Fld := ⟨.DG_SAVE_STS, 30, 30, .w1c, 0⟩
def DG_SAVE_STS.GEN : Fld := ⟨.DG_SAVE_STS, 15, 0, .ro, 0⟩
/-! Fields of DG_XRESERVE (R186, 08_digest_engine.md). -/
def DG_XRESERVE.COUNT : Fld := ⟨.DG_XRESERVE, 6, 0, .rwx, 0x10⟩
/-! Fields of DCORE_STS (R187, 08_digest_engine.md). -/
def DCORE_STS.BUSY : Fld := ⟨.DCORE_STS, 31, 31, .ro, 0⟩
def DCORE_STS.CHECKING : Fld := ⟨.DCORE_STS, 30, 30, .ro, 0⟩
def DCORE_STS.CHANNEL : Fld := ⟨.DCORE_STS, 23, 16, .ro, 0⟩
def DCORE_STS.ALG : Fld := ⟨.DCORE_STS, 7, 0, .ro, 0⟩
/-! Fields of DCORE_ERR (R187, 08_digest_engine.md). -/
def DCORE_ERR.VALID : Fld := ⟨.DCORE_ERR, 31, 31, .w1c, 0⟩
def DCORE_ERR.CAUSE : Fld := ⟨.DCORE_ERR, 27, 24, .ro, 0⟩
def DCORE_ERR.CHANNEL : Fld := ⟨.DCORE_ERR, 23, 16, .ro, 0⟩
def DCORE_ERR.COUNT : Fld := ⟨.DCORE_ERR, 15, 0, .ro, 0⟩
/-! Fields of DCORE_CHECK (R187, 08_digest_engine.md). -/
def DCORE_CHECK.PASS : Fld := ⟨.DCORE_CHECK, 2, 2, .ro, 0⟩
def DCORE_CHECK.DONE : Fld := ⟨.DCORE_CHECK, 1, 1, .ro, 0⟩
def DCORE_CHECK.RUN : Fld := ⟨.DCORE_CHECK, 0, 0, .w1s, 0⟩
/-! Fields of DCORE_BLOCKS (R187, 08_digest_engine.md). -/
def DCORE_BLOCKS.COUNT : Fld := ⟨.DCORE_BLOCKS, 31, 0, .rc, 0⟩
/-! Fields of DCORE_XINJECT (R187, 08_digest_engine.md). -/
def DCORE_XINJECT.ARM : Fld := ⟨.DCORE_XINJECT, 31, 31, .rwx, 0⟩
def DCORE_XINJECT.CAUSE : Fld := ⟨.DCORE_XINJECT, 27, 24, .rwx, 1⟩
def DCORE_XINJECT.AFTER : Fld := ⟨.DCORE_XINJECT, 15, 0, .rwx, 0⟩
/-! Fields of BN_STS (R211, 09_big_number_engine.md). -/
def BN_STS.IA_BUSY : Fld := ⟨.BN_STS, 31, 31, .ro, 0⟩
def BN_STS.NTT_BUSY : Fld := ⟨.BN_STS, 30, 30, .ro, 0⟩
def BN_STS.IA_FENCED : Fld := ⟨.BN_STS, 29, 29, .ro, 0⟩
def BN_STS.NTT_FENCED : Fld := ⟨.BN_STS, 28, 28, .ro, 0⟩
def BN_STS.WAITING : Fld := ⟨.BN_STS, 22, 16, .ro, 0⟩
def BN_STS.KEYS : Fld := ⟨.BN_STS, 6, 0, .ro, 0⟩
/-! Fields of BN_SLICE (R211, 09_big_number_engine.md). -/
def BN_SLICE.BUDGET : Fld := ⟨.BN_SLICE, 7, 0, .rw, 0x10⟩
/-! Fields of BN_IDLE (R211, 09_big_number_engine.md). -/
def BN_IDLE.HOLDOFF : Fld := ⟨.BN_IDLE, 15, 0, .rw, 0x64⟩
/-! Fields of BN_ERR_INFO (R211, 09_big_number_engine.md). -/
def BN_ERR_INFO.VALID : Fld := ⟨.BN_ERR_INFO, 31, 31, .w1c, 0⟩
def BN_ERR_INFO.KIND : Fld := ⟨.BN_ERR_INFO, 30, 28, .ro, 0⟩
def BN_ERR_INFO.UNIT : Fld := ⟨.BN_ERR_INFO, 27, 27, .ro, 0⟩
def BN_ERR_INFO.CHANNEL : Fld := ⟨.BN_ERR_INFO, 21, 16, .ro, 0⟩
def BN_ERR_INFO.COUNT : Fld := ⟨.BN_ERR_INFO, 15, 0, .ro, 0⟩
/-! Fields of BN_CHECK (R211, 09_big_number_engine.md). -/
def BN_CHECK.PASS_NTT : Fld := ⟨.BN_CHECK, 3, 3, .ro, 0⟩
def BN_CHECK.PASS_IA : Fld := ⟨.BN_CHECK, 2, 2, .ro, 0⟩
def BN_CHECK.DONE : Fld := ⟨.BN_CHECK, 1, 1, .ro, 0⟩
def BN_CHECK.RUN : Fld := ⟨.BN_CHECK, 0, 0, .w1s, 0⟩
/-! Fields of BN_CHAN_CFG (R211, 09_big_number_engine.md). -/
def BN_CHAN_CFG.VALID : Fld := ⟨.BN_CHAN_CFG, 31, 31, .rw, 0⟩
def BN_CHAN_CFG.PRIV : Fld := ⟨.BN_CHAN_CFG, 30, 30, .rw, 0⟩
def BN_CHAN_CFG.FUNC : Fld := ⟨.BN_CHAN_CFG, 29, 24, .rw, 0⟩
def BN_CHAN_CFG.QUEUED : Fld := ⟨.BN_CHAN_CFG, 19, 16, .ro, 0⟩
def BN_CHAN_CFG.KEY_HELD : Fld := ⟨.BN_CHAN_CFG, 15, 15, .ro, 0⟩
def BN_CHAN_CFG.STATE : Fld := ⟨.BN_CHAN_CFG, 14, 12, .ro, 0⟩
def BN_CHAN_CFG.KEY_PARAM : Fld := ⟨.BN_CHAN_CFG, 7, 0, .ro, 0⟩
/-! Fields of BN_XRNG (R211, 09_big_number_engine.md). -/
def BN_XRNG.TMO : Fld := ⟨.BN_XRNG, 15, 0, .rwx, 0x3e8⟩
/-! Fields of BN_XRESPLIT (R211, 09_big_number_engine.md). -/
def BN_XRESPLIT.PERIOD : Fld := ⟨.BN_XRESPLIT, 19, 0, .rwx, 0x186a0⟩
/-! Fields of BN_XINJECT (R211, 09_big_number_engine.md). -/
def BN_XINJECT.ARM : Fld := ⟨.BN_XINJECT, 31, 31, .rwx, 0⟩
def BN_XINJECT.UNIT : Fld := ⟨.BN_XINJECT, 30, 30, .rwx, 0⟩
def BN_XINJECT.BOTH : Fld := ⟨.BN_XINJECT, 29, 29, .rwx, 0⟩
def BN_XINJECT.CAUSE : Fld := ⟨.BN_XINJECT, 27, 24, .rwx, 1⟩
def BN_XINJECT.AFTER : Fld := ⟨.BN_XINJECT, 15, 0, .rwx, 0⟩
/-! Fields of RNG_CELL_EN (R230, 10_random_numbers.md). -/
def RNG_CELL_EN.EN : Fld := ⟨.RNG_CELL_EN, 15, 0, .rw, 0xffff⟩
/-! Fields of RNG_STS (R230, 10_random_numbers.md). -/
def RNG_STS.READY : Fld := ⟨.RNG_STS, 31, 31, .ro, 0⟩
def RNG_STS.STRETCHED : Fld := ⟨.RNG_STS, 30, 30, .ro, 0⟩
def RNG_STS.ORD_STALL : Fld := ⟨.RNG_STS, 29, 29, .ro, 0⟩
def RNG_STS.ALL_STALL : Fld := ⟨.RNG_STS, 28, 28, .ro, 0⟩
def RNG_STS.FENCED : Fld := ⟨.RNG_STS, 27, 27, .ro, 0⟩
def RNG_STS.PHASE : Fld := ⟨.RNG_STS, 26, 24, .ro, 0⟩
def RNG_STS.POOL : Fld := ⟨.RNG_STS, 20, 16, .ro, 0⟩
def RNG_STS.ADMITTED : Fld := ⟨.RNG_STS, 15, 0, .ro, 0⟩
/-! Fields of RNG_RESEED_CFG (R230, 10_random_numbers.md). -/
def RNG_RESEED_CFG.FORCE : Fld := ⟨.RNG_RESEED_CFG, 31, 31, .w1s, 0⟩
def RNG_RESEED_CFG.LIMIT_LOG2 : Fld := ⟨.RNG_RESEED_CFG, 20, 16, .rw, 0x14⟩
def RNG_RESEED_CFG.NOMINAL : Fld := ⟨.RNG_RESEED_CFG, 6, 0, .rw, 0x40⟩
/-! Fields of RNG_RESEED_CNT (R230, 10_random_numbers.md). -/
def RNG_RESEED_CNT.COUNT : Fld := ⟨.RNG_RESEED_CNT, 31, 0, .ro, 0⟩
/-! Fields of RNG_PRIV_RESERVE (R230, 10_random_numbers.md). -/
def RNG_PRIV_RESERVE.RESERVE : Fld := ⟨.RNG_PRIV_RESERVE, 20, 0, .rw, 0x10000⟩
/-! Fields of RNG_HEALTH_CFG (R230, 10_random_numbers.md). -/
def RNG_HEALTH_CFG.MIN_CELLS : Fld := ⟨.RNG_HEALTH_CFG, 28, 24, .rw, 4⟩
def RNG_HEALTH_CFG.WINDOW : Fld := ⟨.RNG_HEALTH_CFG, 23, 8, .rw, 0x80⟩
def RNG_HEALTH_CFG.THRESH : Fld := ⟨.RNG_HEALTH_CFG, 7, 0, .rw, 4⟩
/-! Fields of RNG_TMO (R230, 10_random_numbers.md). -/
def RNG_TMO.RAND_TMO : Fld := ⟨.RNG_TMO, 31, 16, .rw, 0x3e8⟩
def RNG_TMO.STALL_TMO : Fld := ⟨.RNG_TMO, 15, 0, .rw, 0x3e8⟩
/-! Fields of RNG_CELL_FLAGS (R230, 10_random_numbers.md). -/
def RNG_CELL_FLAGS.LOCK_FAIL : Fld := ⟨.RNG_CELL_FLAGS, 31, 16, .w1c, 0⟩
def RNG_CELL_FLAGS.ALIVE_FAIL : Fld := ⟨.RNG_CELL_FLAGS, 15, 0, .w1c, 0⟩
/-! Fields of RNG_SW_DATA (R230, 10_random_numbers.md). -/
def RNG_SW_DATA.VALID : Fld := ⟨.RNG_SW_DATA, 63, 63, .ro, 0⟩
def RNG_SW_DATA.DATA : Fld := ⟨.RNG_SW_DATA, 31, 0, .rc, 0⟩
/-! Fields of RNG_EST_CFG (R230, 10_random_numbers.md). -/
def RNG_EST_CFG.WIN_LOG2 : Fld := ⟨.RNG_EST_CFG, 4, 0, .rw, 0x14⟩
/-! Fields of RNG_RESEEDS (R230, 10_random_numbers.md). -/
def RNG_RESEEDS.COUNT : Fld := ⟨.RNG_RESEEDS, 31, 0, .rc, 0⟩
/-! Fields of RNG_CELL_CNT (R230, 10_random_numbers.md). -/
def RNG_CELL_CNT.PASS : Fld := ⟨.RNG_CELL_CNT, 63, 32, .rc, 0⟩
def RNG_CELL_CNT.FAIL : Fld := ⟨.RNG_CELL_CNT, 31, 0, .rc, 0⟩
/-! Fields of RNG_CELL_EST (R230, 10_random_numbers.md). -/
def RNG_CELL_EST.EQUAL : Fld := ⟨.RNG_CELL_EST, 63, 32, .ro, 0⟩
def RNG_CELL_EST.ONES : Fld := ⟨.RNG_CELL_EST, 31, 0, .ro, 0⟩
/-! Fields of RNG_XRAW (R230, 10_random_numbers.md). -/
def RNG_XRAW.EN : Fld := ⟨.RNG_XRAW, 31, 31, .rwx, 0⟩
def RNG_XRAW.CELL : Fld := ⟨.RNG_XRAW, 19, 16, .rwx, 0⟩
def RNG_XRAW.LEN : Fld := ⟨.RNG_XRAW, 15, 0, .rwx, 0⟩
/-! Fields of RNG_XRAW_BASE (R230, 10_random_numbers.md). -/
def RNG_XRAW_BASE.BASE : Fld := ⟨.RNG_XRAW_BASE, 63, 6, .rwx, 0⟩
/-! Fields of RNG_XRAW_STS (R230, 10_random_numbers.md). -/
def RNG_XRAW_STS.BUSY : Fld := ⟨.RNG_XRAW_STS, 31, 31, .ro, 0⟩
def RNG_XRAW_STS.DONE : Fld := ⟨.RNG_XRAW_STS, 30, 30, .w1c, 0⟩
def RNG_XRAW_STS.ERR : Fld := ⟨.RNG_XRAW_STS, 29, 29, .w1c, 0⟩
def RNG_XRAW_STS.WRITTEN : Fld := ⟨.RNG_XRAW_STS, 15, 0, .ro, 0⟩
/-! Fields of RNG_XCELL (R230, 10_random_numbers.md). -/
def RNG_XCELL.RCT_CUTOFF : Fld := ⟨.RNG_XCELL, 31, 24, .rwx, 0x20⟩
def RNG_XCELL.ALIVE_MIN : Fld := ⟨.RNG_XCELL, 23, 16, .rwx, 0x40⟩
def RNG_XCELL.APT_MARGIN : Fld := ⟨.RNG_XCELL, 15, 8, .rwx, 0x80⟩
def RNG_XCELL.LAG_MARGIN : Fld := ⟨.RNG_XCELL, 7, 0, .rwx, 0x50⟩
/-! Fields of KEY_STS (R253, 11_key_custody.md). -/
def KEY_STS.ROOT_LOADED : Fld := ⟨.KEY_STS, 31, 31, .ro, 0⟩
def KEY_STS.STORE_KEYS : Fld := ⟨.KEY_STS, 30, 30, .ro, 0⟩
def KEY_STS.PORT_STATE : Fld := ⟨.KEY_STS, 28, 26, .ro, 0⟩
def KEY_STS.POUNCING : Fld := ⟨.KEY_STS, 2, 2, .ro, 0⟩
def KEY_STS.ATTESTING : Fld := ⟨.KEY_STS, 1, 1, .ro, 0⟩
def KEY_STS.BUSY : Fld := ⟨.KEY_STS, 0, 0, .ro, 0⟩
/-! Fields of KEY_CMD (R253, 11_key_custody.md). -/
def KEY_CMD.KEY : Fld := ⟨.KEY_CMD, 31, 16, .wo, 0⟩
def KEY_CMD.CMD : Fld := ⟨.KEY_CMD, 3, 0, .wo, 0⟩
/-! Fields of KEY_PORT_STS (R253, 11_key_custody.md). -/
def KEY_PORT_STS.CAUSE : Fld := ⟨.KEY_PORT_STS, 31, 28, .ro, 0⟩
def KEY_PORT_STS.ATTEMPTS : Fld := ⟨.KEY_PORT_STS, 27, 24, .ro, 0⟩
def KEY_PORT_STS.STRAY : Fld := ⟨.KEY_PORT_STS, 15, 0, .rc, 0⟩
/-! Fields of KEY_POUNCE_STS (R253, 11_key_custody.md). -/
def KEY_POUNCE_STS.RUNNING : Fld := ⟨.KEY_POUNCE_STS, 31, 31, .ro, 0⟩
def KEY_POUNCE_STS.OVERDUE_NOW : Fld := ⟨.KEY_POUNCE_STS, 30, 30, .ro, 0⟩
def KEY_POUNCE_STS.PASSES : Fld := ⟨.KEY_POUNCE_STS, 15, 0, .ro, 0⟩
/-! Fields of KEY_POUNCE_CNT (R253, 11_key_custody.md). -/
def KEY_POUNCE_CNT.OVERDUE : Fld := ⟨.KEY_POUNCE_CNT, 31, 16, .rc, 0⟩
/-! Fields of KEY_POUNCE_LAST (R253, 11_key_custody.md). -/
def KEY_POUNCE_LAST.TIME : Fld := ⟨.KEY_POUNCE_LAST, 63, 0, .ro, 0⟩
/-! Fields of KEY_COUNTS (R253, 11_key_custody.md). -/
def KEY_COUNTS.TAMPER : Fld := ⟨.KEY_COUNTS, 63, 32, .ro, 0⟩
def KEY_COUNTS.ZEROIZE : Fld := ⟨.KEY_COUNTS, 31, 0, .ro, 0⟩
/-! Fields of KEY_SESSION (R253, 11_key_custody.md). -/
def KEY_SESSION.SESSION : Fld := ⟨.KEY_SESSION, 63, 0, .ro, 0⟩
/-! Fields of KEY_ATT_CHAL (R253, 11_key_custody.md). -/
def KEY_ATT_CHAL.CHAL : Fld := ⟨.KEY_ATT_CHAL, 63, 0, .rw, 0⟩
/-! Fields of KEY_ATT_STS (R253, 11_key_custody.md). -/
def KEY_ATT_STS.DONE : Fld := ⟨.KEY_ATT_STS, 31, 31, .w1c, 0⟩
def KEY_ATT_STS.REFUSED : Fld := ⟨.KEY_ATT_STS, 30, 30, .ro, 0⟩
def KEY_ATT_STS.ABORTED : Fld := ⟨.KEY_ATT_STS, 29, 29, .ro, 0⟩
/-! Fields of KEY_ATT_MSG (R253, 11_key_custody.md). -/
def KEY_ATT_MSG.DATA : Fld := ⟨.KEY_ATT_MSG, 63, 0, .ro, 0⟩
/-! Fields of KEY_ATT_RESP (R253, 11_key_custody.md). -/
def KEY_ATT_RESP.DATA : Fld := ⟨.KEY_ATT_RESP, 63, 0, .ro, 0⟩
/-! Fields of KEY_FGEN (R253, 11_key_custody.md). -/
def KEY_FGEN.GEN : Fld := ⟨.KEY_FGEN, 31, 0, .rw, 0⟩
/-! Fields of KEY_XPOUNCE (R253, 11_key_custody.md). -/
def KEY_XPOUNCE.PERIOD : Fld := ⟨.KEY_XPOUNCE, 19, 0, .rwx, 0x186a0⟩
/-! Fields of KEY_XPORT (R253, 11_key_custody.md). -/
def KEY_XPORT.TMO : Fld := ⟨.KEY_XPORT, 15, 0, .rwx, 0x1000⟩
/-! Fields of DMA_STS (R269, 12_dma_engine.md). -/
def DMA_STS.RUNNING : Fld := ⟨.DMA_STS, 31, 16, .ro, 0⟩
def DMA_STS.HALTED : Fld := ⟨.DMA_STS, 15, 0, .ro, 0⟩
/-! Fields of DMA_ARB (R269, 12_dma_engine.md). -/
def DMA_ARB.BURST : Fld := ⟨.DMA_ARB, 5, 0, .rw, 0x20⟩
/-! Fields of DMA_XRECOVER (R269, 12_dma_engine.md). -/
def DMA_XRECOVER.EN : Fld := ⟨.DMA_XRECOVER, 0, 0, .rwx, 0⟩
/-! Fields of DCH_CFG (R270, 12_dma_engine.md). -/
def DCH_CFG.RING : Fld := ⟨.DCH_CFG, 31, 31, .rw, 0⟩
def DCH_CFG.PRIO : Fld := ⟨.DCH_CFG, 29, 28, .rw, 0⟩
def DCH_CFG.RING_LOG2 : Fld := ⟨.DCH_CFG, 20, 16, .rw, 4⟩
def DCH_CFG.POLL : Fld := ⟨.DCH_CFG, 15, 0, .rw, 0x10⟩
/-! Fields of DCH_CTL (R270, 12_dma_engine.md). -/
def DCH_CTL.DISABLE : Fld := ⟨.DCH_CTL, 3, 3, .w1s, 0⟩
def DCH_CTL.RESUME : Fld := ⟨.DCH_CTL, 2, 2, .w1s, 0⟩
def DCH_CTL.KICK : Fld := ⟨.DCH_CTL, 1, 1, .w1s, 0⟩
/-! Fields of DCH_STS (R270, 12_dma_engine.md). -/
def DCH_STS.STATE : Fld := ⟨.DCH_STS, 31, 29, .ro, 0⟩
def DCH_STS.BUF : Fld := ⟨.DCH_STS, 28, 16, .ro, 0⟩
def DCH_STS.ENDED : Fld := ⟨.DCH_STS, 15, 0, .ro, 0⟩
/-! Fields of DCH_ARM (R270, 12_dma_engine.md). -/
def DCH_ARM.SHD_ARM : Fld := ⟨.DCH_ARM, 0, 0, .rw, 0⟩
/-! Fields of DCH_SHD_CTL (R270, 12_dma_engine.md). -/
def DCH_SHD_CTL.BARRIER : Fld := ⟨.DCH_SHD_CTL, 62, 62, .rw, 0⟩
def DCH_SHD_CTL.IRQ : Fld := ⟨.DCH_SHD_CTL, 61, 61, .rw, 0⟩
def DCH_SHD_CTL.SRC_MODE : Fld := ⟨.DCH_SHD_CTL, 59, 58, .rw, 0⟩
def DCH_SHD_CTL.DST_MODE : Fld := ⟨.DCH_SHD_CTL, 57, 56, .rw, 0⟩
def DCH_SHD_CTL.LENGTH : Fld := ⟨.DCH_SHD_CTL, 31, 0, .rw, 0⟩
/-! Fields of DCH_SHD_SRC (R270, 12_dma_engine.md). -/
def DCH_SHD_SRC.ADDR : Fld := ⟨.DCH_SHD_SRC, 63, 0, .rw, 0⟩
/-! Fields of DCH_SHD_DST (R270, 12_dma_engine.md). -/
def DCH_SHD_DST.ADDR : Fld := ⟨.DCH_SHD_DST, 63, 0, .rw, 0⟩
/-! Fields of DCH_CUR_CTL (R270, 12_dma_engine.md). -/
def DCH_CUR_CTL.BARRIER : Fld := ⟨.DCH_CUR_CTL, 62, 62, .ro, 0⟩
def DCH_CUR_CTL.IRQ : Fld := ⟨.DCH_CUR_CTL, 61, 61, .ro, 0⟩
def DCH_CUR_CTL.SRC_MODE : Fld := ⟨.DCH_CUR_CTL, 59, 58, .ro, 0⟩
def DCH_CUR_CTL.DST_MODE : Fld := ⟨.DCH_CUR_CTL, 57, 56, .ro, 0⟩
def DCH_CUR_CTL.LENGTH : Fld := ⟨.DCH_CUR_CTL, 31, 0, .ro, 0⟩
/-! Fields of DCH_CUR_SRC (R270, 12_dma_engine.md). -/
def DCH_CUR_SRC.ADDR : Fld := ⟨.DCH_CUR_SRC, 63, 0, .ro, 0⟩
/-! Fields of DCH_CUR_DST (R270, 12_dma_engine.md). -/
def DCH_CUR_DST.ADDR : Fld := ⟨.DCH_CUR_DST, 63, 0, .ro, 0⟩
/-! Fields of DCH_CUR_MOVED (R270, 12_dma_engine.md). -/
def DCH_CUR_MOVED.MOVED : Fld := ⟨.DCH_CUR_MOVED, 31, 0, .ro, 0⟩
/-! Fields of DCH_ERR (R270, 12_dma_engine.md). -/
def DCH_ERR.VALID : Fld := ⟨.DCH_ERR, 31, 31, .w1c, 0⟩
def DCH_ERR.KIND : Fld := ⟨.DCH_ERR, 30, 28, .ro, 0⟩
def DCH_ERR.COUNT : Fld := ⟨.DCH_ERR, 15, 0, .ro, 0⟩
/-! Fields of DCH_LAST (R270, 12_dma_engine.md). -/
def DCH_LAST.STATUS : Fld := ⟨.DCH_LAST, 63, 56, .ro, 0⟩
def DCH_LAST.RETRIED : Fld := ⟨.DCH_LAST, 55, 55, .ro, 0⟩
def DCH_LAST.MOVED : Fld := ⟨.DCH_LAST, 31, 0, .ro, 0⟩
/-! Fields of DCH_RING_BASE (R270, 12_dma_engine.md). -/
def DCH_RING_BASE.BASE : Fld := ⟨.DCH_RING_BASE, 63, 12, .rw, 0⟩
/-! Fields of DCH_RING_HEAD (R270, 12_dma_engine.md). -/
def DCH_RING_HEAD.INDEX : Fld := ⟨.DCH_RING_HEAD, 11, 0, .rw, 0⟩
/-! Fields of DCH_X2D_SRC (R270, 12_dma_engine.md). -/
def DCH_X2D_SRC.STRIDE : Fld := ⟨.DCH_X2D_SRC, 63, 32, .rwx, 0⟩
def DCH_X2D_SRC.COUNT : Fld := ⟨.DCH_X2D_SRC, 31, 16, .rwx, 0⟩
def DCH_X2D_SRC.LINE_M1 : Fld := ⟨.DCH_X2D_SRC, 15, 0, .rwx, 0⟩
/-! Fields of DCH_X2D_DST (R270, 12_dma_engine.md). -/
def DCH_X2D_DST.STRIDE : Fld := ⟨.DCH_X2D_DST, 63, 32, .rwx, 0⟩
def DCH_X2D_DST.COUNT : Fld := ⟨.DCH_X2D_DST, 31, 16, .rwx, 0⟩
def DCH_X2D_DST.LINE_M1 : Fld := ⟨.DCH_X2D_DST, 15, 0, .rwx, 0⟩
/-! Fields of HB_STS (R291, 13_hatband_chain.md). -/
def HB_STS.UP_SYNC : Fld := ⟨.HB_STS, 31, 31, .ro, 0⟩
def HB_STS.DOWN_TERM : Fld := ⟨.HB_STS, 30, 30, .ro, 0⟩
def HB_STS.ADDR_VALID : Fld := ⟨.HB_STS, 29, 29, .ro, 0⟩
def HB_STS.BYPASS : Fld := ⟨.HB_STS, 28, 28, .ro, 0⟩
def HB_STS.TIME_SRC : Fld := ⟨.HB_STS, 27, 26, .ro, 0⟩
def HB_STS.TIME_STALE : Fld := ⟨.HB_STS, 25, 25, .ro, 0⟩
def HB_STS.ELASTIC : Fld := ⟨.HB_STS, 20, 16, .ro, 0⟩
def HB_STS.ADDR : Fld := ⟨.HB_STS, 5, 0, .ro, 0⟩
/-! Fields of HB_CELL_EN (R291, 13_hatband_chain.md). -/
def HB_CELL_EN.MSG : Fld := ⟨.HB_CELL_EN, 3, 3, .rw, 1⟩
def HB_CELL_EN.BYPASS_SET : Fld := ⟨.HB_CELL_EN, 2, 2, .rw, 1⟩
def HB_CELL_EN.WAKE : Fld := ⟨.HB_CELL_EN, 1, 1, .rw, 1⟩
def HB_CELL_EN.SLEEP_ALL : Fld := ⟨.HB_CELL_EN, 0, 0, .rw, 0⟩
/-! Fields of HB_WIRE_IN (R291, 13_hatband_chain.md). -/
def HB_WIRE_IN.DELAY : Fld := ⟨.HB_WIRE_IN, 15, 0, .rw, 0⟩
/-! Fields of HB_TIME (R291, 13_hatband_chain.md). -/
def HB_TIME.TIME : Fld := ⟨.HB_TIME, 63, 0, .ro, 0⟩
/-! Fields of HB_TIME_INFO (R291, 13_hatband_chain.md). -/
def HB_TIME_INFO.HOP : Fld := ⟨.HB_TIME_INFO, 31, 24, .ro, 0⟩
def HB_TIME_INFO.CORR : Fld := ⟨.HB_TIME_INFO, 23, 16, .ro, 0⟩
def HB_TIME_INFO.AGE : Fld := ⟨.HB_TIME_INFO, 15, 0, .ro, 0xffff⟩
/-! Fields of HB_TIME_STEP (R291, 13_hatband_chain.md). -/
def HB_TIME_STEP.STEP : Fld := ⟨.HB_TIME_STEP, 31, 0, .ro, 0⟩
/-! Fields of HB_CNT (R291, 13_hatband_chain.md). -/
def HB_CNT.STEPS : Fld := ⟨.HB_CNT, 63, 48, .rc, 0⟩
def HB_CNT.CRC_ERR : Fld := ⟨.HB_CNT, 47, 32, .rc, 0⟩
def HB_CNT.STOMPED : Fld := ⟨.HB_CNT, 31, 16, .rc, 0⟩
def HB_CNT.IGNORED : Fld := ⟨.HB_CNT, 15, 0, .rc, 0⟩
/-! Fields of HB_MSG_TX_DATA (R291, 13_hatband_chain.md). -/
def HB_MSG_TX_DATA.DATA : Fld := ⟨.HB_MSG_TX_DATA, 63, 0, .rw, 0⟩
/-! Fields of HB_MSG_TX_HI (R291, 13_hatband_chain.md). -/
def HB_MSG_TX_HI.SRC : Fld := ⟨.HB_MSG_TX_HI, 31, 24, .ro, 0⟩
def HB_MSG_TX_HI.DATA : Fld := ⟨.HB_MSG_TX_HI, 23, 0, .rw, 0⟩
/-! Fields of HB_MSG_TX_CTL (R291, 13_hatband_chain.md). -/
def HB_MSG_TX_CTL.GO : Fld := ⟨.HB_MSG_TX_CTL, 31, 31, .w1s, 0⟩
def HB_MSG_TX_CTL.BUSY : Fld := ⟨.HB_MSG_TX_CTL, 30, 30, .ro, 0⟩
def HB_MSG_TX_CTL.DEST : Fld := ⟨.HB_MSG_TX_CTL, 7, 0, .rw, 0⟩
/-! Fields of HB_MSG_RX_DATA (R291, 13_hatband_chain.md). -/
def HB_MSG_RX_DATA.DATA : Fld := ⟨.HB_MSG_RX_DATA, 63, 0, .ro, 0⟩
/-! Fields of HB_MSG_RX_HI (R291, 13_hatband_chain.md). -/
def HB_MSG_RX_HI.SRC : Fld := ⟨.HB_MSG_RX_HI, 31, 24, .ro, 0⟩
def HB_MSG_RX_HI.DATA : Fld := ⟨.HB_MSG_RX_HI, 23, 0, .ro, 0⟩
/-! Fields of HB_MSG_RX_STS (R291, 13_hatband_chain.md). -/
def HB_MSG_RX_STS.VALID : Fld := ⟨.HB_MSG_RX_STS, 31, 31, .ro, 0⟩
def HB_MSG_RX_STS.LEVEL : Fld := ⟨.HB_MSG_RX_STS, 27, 24, .ro, 0⟩
def HB_MSG_RX_STS.DROPPED : Fld := ⟨.HB_MSG_RX_STS, 23, 8, .rc, 0⟩
def HB_MSG_RX_STS.POP : Fld := ⟨.HB_MSG_RX_STS, 0, 0, .w1s, 0⟩
/-! Fields of HB_XTIME (R291, 13_hatband_chain.md). -/
def HB_XTIME.STALE : Fld := ⟨.HB_XTIME, 31, 16, .rwx, 0x2710⟩
def HB_XTIME.STEP_LIM : Fld := ⟨.HB_XTIME, 15, 0, .rwx, 0x20⟩
/-! Fields of HB_XCELL (R291, 13_hatband_chain.md). -/
def HB_XCELL.ZEROIZE_EN : Fld := ⟨.HB_XCELL, 0, 0, .rwx, 1⟩
/-! Fields of CLK_STS (R316, 14_clocks_and_power.md). -/
def CLK_STS.SAFE : Fld := ⟨.CLK_STS, 31, 31, .ro, 0⟩
def CLK_STS.LASTING : Fld := ⟨.CLK_STS, 30, 30, .ro, 0⟩
def CLK_STS.REF : Fld := ⟨.CLK_STS, 29, 28, .ro, 0⟩
def CLK_STS.HBREF_OK : Fld := ⟨.CLK_STS, 27, 27, .ro, 0⟩
def CLK_STS.SBOSC_OK : Fld := ⟨.CLK_STS, 26, 26, .ro, 0⟩
def CLK_STS.SBOSC_ON : Fld := ⟨.CLK_STS, 25, 25, .ro, 0⟩
def CLK_STS.COUNTING : Fld := ⟨.CLK_STS, 24, 24, .ro, 0⟩
def CLK_STS.MON_BAD : Fld := ⟨.CLK_STS, 23, 16, .ro, 0⟩
def CLK_STS.LOCK : Fld := ⟨.CLK_STS, 5, 0, .ro, 0⟩
/-! Fields of CLK_REF_CFG (R316, 14_clocks_and_power.md). -/
def CLK_REF_CFG.AUTO_RETURN : Fld := ⟨.CLK_REF_CFG, 2, 2, .rw, 0⟩
def CLK_REF_CFG.AUTO_FALLBACK : Fld := ⟨.CLK_REF_CFG, 1, 1, .rw, 1⟩
def CLK_REF_CFG.SBOSC_STANDBY : Fld := ⟨.CLK_REF_CFG, 0, 0, .rw, 0⟩
/-! Fields of CLK_CMD (R316, 14_clocks_and_power.md). -/
def CLK_CMD.KEY : Fld := ⟨.CLK_CMD, 31, 16, .wo, 0⟩
def CLK_CMD.CMD : Fld := ⟨.CLK_CMD, 3, 0, .wo, 0⟩
/-! Fields of CLK_PLL_EN (R316, 14_clocks_and_power.md). -/
def CLK_PLL_EN.QPLL : Fld := ⟨.CLK_PLL_EN, 5, 2, .rw, 0⟩
def CLK_PLL_EN.FPLL : Fld := ⟨.CLK_PLL_EN, 1, 1, .rw, 0⟩
def CLK_PLL_EN.CPLL : Fld := ⟨.CLK_PLL_EN, 0, 0, .rw, 0⟩
/-! Fields of CLK_EN (R316, 14_clocks_and_power.md). -/
def CLK_EN.LANE : Fld := ⟨.CLK_EN, 47, 32, .rw, 0⟩
def CLK_EN.DCORE : Fld := ⟨.CLK_EN, 19, 16, .rw, 0⟩
def CLK_EN.QUAD : Fld := ⟨.CLK_EN, 15, 12, .rw, 0⟩
def CLK_EN.BLK : Fld := ⟨.CLK_EN, 8, 0, .rw, 0⟩
/-! Fields of CLK_RUN (R316, 14_clocks_and_power.md). -/
def CLK_RUN.LANE : Fld := ⟨.CLK_RUN, 47, 32, .ro, 0⟩
def CLK_RUN.DCORE : Fld := ⟨.CLK_RUN, 19, 16, .ro, 0⟩
def CLK_RUN.QUAD : Fld := ⟨.CLK_RUN, 15, 12, .ro, 0⟩
def CLK_RUN.BLK : Fld := ⟨.CLK_RUN, 8, 0, .ro, 0⟩
/-! Fields of CLK_FB_CNT (R316, 14_clocks_and_power.md). -/
def CLK_FB_CNT.RESTARTS : Fld := ⟨.CLK_FB_CNT, 31, 24, .ro, 0⟩
def CLK_FB_CNT.FORCED : Fld := ⟨.CLK_FB_CNT, 15, 8, .rc, 0⟩
def CLK_FB_CNT.FALLBACKS : Fld := ⟨.CLK_FB_CNT, 7, 0, .rc, 0⟩
/-! Fields of CLK_COMPAT (R316, 14_clocks_and_power.md). -/
def CLK_COMPAT.COMPAT_MODE : Fld := ⟨.CLK_COMPAT, 0, 0, .rw, 0⟩
/-! Fields of CLK_RUN_EN (R316, 14_clocks_and_power.md). -/
def CLK_RUN_EN.MASK : Fld := ⟨.CLK_RUN_EN, 15, 0, .rw, 0⟩
/-! Fields of CLK_SLEEP_EN (R316, 14_clocks_and_power.md). -/
def CLK_SLEEP_EN.MASK : Fld := ⟨.CLK_SLEEP_EN, 15, 0, .rw, 0xffff⟩
/-! Fields of CLK_DEEPSLEEP_EN (R316, 14_clocks_and_power.md). -/
def CLK_DEEPSLEEP_EN.MASK : Fld := ⟨.CLK_DEEPSLEEP_EN, 15, 0, .rw, 0xffff⟩
/-! Fields of CLK_XMON (R316, 14_clocks_and_power.md). -/
def CLK_XMON.QUAL : Fld := ⟨.CLK_XMON, 31, 28, .rwx, 4⟩
def CLK_XMON.TRIP : Fld := ⟨.CLK_XMON, 23, 16, .rwx, 0xa⟩
def CLK_XMON.WINDOW : Fld := ⟨.CLK_XMON, 15, 0, .rwx, 0x100⟩
/-! Fields of CLK_XSWITCH (R316, 14_clocks_and_power.md). -/
def CLK_XSWITCH.HS_TMO : Fld := ⟨.CLK_XSWITCH, 7, 0, .rwx, 0x40⟩
/-! Fields of PWR_STS (R317, 14_clocks_and_power.md). -/
def PWR_STS.PHASE : Fld := ⟨.PWR_STS, 31, 28, .ro, 0⟩
def PWR_STS.KEEP_FAIL : Fld := ⟨.PWR_STS, 27, 27, .ro, 0⟩
def PWR_STS.ON : Fld := ⟨.PWR_STS, 22, 16, .ro, 1⟩
def PWR_STS.RET : Fld := ⟨.PWR_STS, 6, 0, .ro, 0⟩
/-! Fields of PWR_CMD (R317, 14_clocks_and_power.md). -/
def PWR_CMD.KEY : Fld := ⟨.PWR_CMD, 31, 16, .wo, 0⟩
def PWR_CMD.CMD : Fld := ⟨.PWR_CMD, 3, 0, .wo, 0⟩
/-! Fields of PWR_SLEEP (R317, 14_clocks_and_power.md). -/
def PWR_SLEEP.GO : Fld := ⟨.PWR_SLEEP, 31, 31, .w1s, 0⟩
def PWR_SLEEP.TARGET : Fld := ⟨.PWR_SLEEP, 1, 0, .rw, 0⟩
/-! Fields of PWR_WAKE_CFG (R317, 14_clocks_and_power.md). -/
def PWR_WAKE_CFG.TIMER_EN : Fld := ⟨.PWR_WAKE_CFG, 31, 31, .rw, 0⟩
def PWR_WAKE_CFG.TIMER : Fld := ⟨.PWR_WAKE_CFG, 27, 8, .rw, 0⟩
def PWR_WAKE_CFG.CELL : Fld := ⟨.PWR_WAKE_CFG, 1, 1, .rw, 1⟩
def PWR_WAKE_CFG.PIN : Fld := ⟨.PWR_WAKE_CFG, 0, 0, .rw, 1⟩
/-! Fields of PWR_WAKE_CAUSE (R317, 14_clocks_and_power.md). -/
def PWR_WAKE_CAUSE.VALID : Fld := ⟨.PWR_WAKE_CAUSE, 31, 31, .w1c, 0⟩
def PWR_WAKE_CAUSE.CAUSE : Fld := ⟨.PWR_WAKE_CAUSE, 4, 0, .ro, 0⟩
/-! Fields of PWR_PARK (R317, 14_clocks_and_power.md). -/
def PWR_PARK.QUAD_EN : Fld := ⟨.PWR_PARK, 31, 31, .rw, 0⟩
def PWR_PARK.QUAD_IDLE : Fld := ⟨.PWR_PARK, 30, 16, .rw, 0x64⟩
def PWR_PARK.LANE_EN : Fld := ⟨.PWR_PARK, 15, 15, .rw, 0⟩
def PWR_PARK.LANE_IDLE : Fld := ⟨.PWR_PARK, 14, 0, .rw, 0x10⟩
/-! Fields of PWR_PARK_STS (R317, 14_clocks_and_power.md). -/
def PWR_PARK_STS.QUADS : Fld := ⟨.PWR_PARK_STS, 19, 16, .ro, 0⟩
def PWR_PARK_STS.LANES : Fld := ⟨.PWR_PARK_STS, 15, 0, .ro, 0⟩
/-! Fields of PWR_FAULT_INFO (R317, 14_clocks_and_power.md). -/
def PWR_FAULT_INFO.VALID : Fld := ⟨.PWR_FAULT_INFO, 31, 31, .w1c, 0⟩
def PWR_FAULT_INFO.KIND : Fld := ⟨.PWR_FAULT_INFO, 30, 28, .ro, 0⟩
def PWR_FAULT_INFO.DOMAIN : Fld := ⟨.PWR_FAULT_INFO, 22, 16, .ro, 0⟩
def PWR_FAULT_INFO.COUNT : Fld := ⟨.PWR_FAULT_INFO, 15, 0, .ro, 0⟩
/-! Fields of PWR_DOM_ON (R317, 14_clocks_and_power.md). -/
def PWR_DOM_ON.MAP : Fld := ⟨.PWR_DOM_ON, 63, 0, .ro, 0⟩
/-! Fields of PWR_DOM_RET (R317, 14_clocks_and_power.md). -/
def PWR_DOM_RET.MAP : Fld := ⟨.PWR_DOM_RET, 63, 0, .ro, 0⟩
/-! Fields of PWR_XSEQ (R317, 14_clocks_and_power.md). -/
def PWR_XSEQ.PGOOD_TMO : Fld := ⟨.PWR_XSEQ, 31, 24, .rwx, 0x80⟩
def PWR_XSEQ.RAMP_MAX : Fld := ⟨.PWR_XSEQ, 19, 16, .rwx, 4⟩
def PWR_XSEQ.DRAIN_TMO : Fld := ⟨.PWR_XSEQ, 15, 0, .rwx, 0x2710⟩
/-! Fields of TAMP_STS (R338, 15_tamper_and_containment.md). -/
def TAMP_STS.ALARM : Fld := ⟨.TAMP_STS, 31, 31, .ro, 0⟩
def TAMP_STS.WIPING : Fld := ⟨.TAMP_STS, 30, 30, .ro, 0⟩
def TAMP_STS.DRAINING : Fld := ⟨.TAMP_STS, 29, 29, .ro, 0⟩
def TAMP_STS.SEALED : Fld := ⟨.TAMP_STS, 28, 28, .ro, 0⟩
def TAMP_STS.CLASS : Fld := ⟨.TAMP_STS, 27, 26, .ro, 0⟩
def TAMP_STS.DISCARDED : Fld := ⟨.TAMP_STS, 25, 10, .ro, 0⟩
def TAMP_STS.CAUSE : Fld := ⟨.TAMP_STS, 9, 0, .ro, 0⟩
/-! Fields of TAMP_CMD (R338, 15_tamper_and_containment.md). -/
def TAMP_CMD.KEY : Fld := ⟨.TAMP_CMD, 31, 16, .wo, 0⟩
def TAMP_CMD.CMD : Fld := ⟨.TAMP_CMD, 3, 0, .wo, 0⟩
/-! Fields of TAMP_QUAL_CLR (R338, 15_tamper_and_containment.md). -/
def TAMP_QUAL_CLR.CLR : Fld := ⟨.TAMP_QUAL_CLR, 5, 0, .w1s, 0⟩
/-! Fields of TAMP_SENS_STS (R338, 15_tamper_and_containment.md). -/
def TAMP_SENS_STS.LATCHED : Fld := ⟨.TAMP_SENS_STS, 3, 0, .w1c, 0⟩
/-! Fields of TAMP_QUAL (R338, 15_tamper_and_containment.md). -/
def TAMP_QUAL.STATE : Fld := ⟨.TAMP_QUAL, 31, 30, .ro, 0⟩
def TAMP_QUAL.CHATTER : Fld := ⟨.TAMP_QUAL, 29, 29, .ro, 0⟩
def TAMP_QUAL.RAW : Fld := ⟨.TAMP_QUAL, 28, 28, .ro, 0⟩
def TAMP_QUAL.EDGES : Fld := ⟨.TAMP_QUAL, 15, 8, .ro, 0⟩
def TAMP_QUAL.SHORT : Fld := ⟨.TAMP_QUAL, 7, 0, .ro, 0⟩
/-! Fields of TAMP_LAST (R338, 15_tamper_and_containment.md). -/
def TAMP_LAST.SOURCE : Fld := ⟨.TAMP_LAST, 63, 60, .ro, 0⟩
def TAMP_LAST.TIME : Fld := ⟨.TAMP_LAST, 55, 0, .ro, 0⟩
/-! Fields of FLT_FUNC (R338, 15_tamper_and_containment.md). -/
def FLT_FUNC.MAP : Fld := ⟨.FLT_FUNC, 63, 0, .w1c, 0⟩
/-! Fields of FLT_FUNC_FORCE (R338, 15_tamper_and_containment.md). -/
def FLT_FUNC_FORCE.GO : Fld := ⟨.FLT_FUNC_FORCE, 31, 31, .w1s, 0⟩
def FLT_FUNC_FORCE.FUNC : Fld := ⟨.FLT_FUNC_FORCE, 5, 0, .rw, 0⟩
/-! Fields of FLT_DIRTY_LOST (R338, 15_tamper_and_containment.md). -/
def FLT_DIRTY_LOST.COUNT : Fld := ⟨.FLT_DIRTY_LOST, 31, 0, .rc, 0⟩
/-! Fields of FLT_LOG_IDX (R338, 15_tamper_and_containment.md). -/
def FLT_LOG_IDX.TOTAL : Fld := ⟨.FLT_LOG_IDX, 31, 16, .ro, 0⟩
def FLT_LOG_IDX.NEXT : Fld := ⟨.FLT_LOG_IDX, 3, 0, .ro, 0⟩
/-! Fields of FLT_LOG (R338, 15_tamper_and_containment.md). -/
def FLT_LOG.VALID : Fld := ⟨.FLT_LOG, 63, 63, .ro, 0⟩
def FLT_LOG.LEVEL : Fld := ⟨.FLT_LOG, 62, 60, .ro, 0⟩
def FLT_LOG.CAUSE : Fld := ⟨.FLT_LOG, 59, 52, .ro, 0⟩
def FLT_LOG.TYPE : Fld := ⟨.FLT_LOG, 51, 44, .ro, 0⟩
def FLT_LOG.INSTANCE : Fld := ⟨.FLT_LOG, 43, 36, .ro, 0⟩
def FLT_LOG.TIME : Fld := ⟨.FLT_LOG, 35, 0, .ro, 0⟩
/-! Fields of TAMP_XIN_CFG (R338, 15_tamper_and_containment.md). -/
def TAMP_XIN_CFG.SEAL : Fld := ⟨.TAMP_XIN_CFG, 31, 31, .w1s, 0⟩
def TAMP_XIN_CFG.IN3 : Fld := ⟨.TAMP_XIN_CFG, 15, 12, .rwx, 8⟩
def TAMP_XIN_CFG.IN2 : Fld := ⟨.TAMP_XIN_CFG, 11, 8, .rwx, 8⟩
def TAMP_XIN_CFG.IN1 : Fld := ⟨.TAMP_XIN_CFG, 7, 4, .rwx, 8⟩
def TAMP_XIN_CFG.IN0 : Fld := ⟨.TAMP_XIN_CFG, 3, 0, .rwx, 8⟩
/-! Fields of TAMP_XSENS_CFG (R338, 15_tamper_and_containment.md). -/
def TAMP_XSENS_CFG.TEMP_HI : Fld := ⟨.TAMP_XSENS_CFG, 31, 24, .rwx, 0x73⟩
def TAMP_XSENS_CFG.TEMP_LO : Fld := ⟨.TAMP_XSENS_CFG, 23, 16, .rwx, 0xd3⟩
def TAMP_XSENS_CFG.HBLINE : Fld := ⟨.TAMP_XSENS_CFG, 9, 8, .rwx, 3⟩
def TAMP_XSENS_CFG.VSRAM : Fld := ⟨.TAMP_XSENS_CFG, 7, 6, .rwx, 2⟩
def TAMP_XSENS_CFG.VCORE : Fld := ⟨.TAMP_XSENS_CFG, 5, 4, .rwx, 2⟩
def TAMP_XSENS_CFG.CLK : Fld := ⟨.TAMP_XSENS_CFG, 3, 2, .rwx, 3⟩
def TAMP_XSENS_CFG.TEMP : Fld := ⟨.TAMP_XSENS_CFG, 1, 0, .rwx, 3⟩
/-! Fields of TAMP_XQUAL (R338, 15_tamper_and_containment.md). -/
def TAMP_XQUAL.REARM : Fld := ⟨.TAMP_XQUAL, 31, 16, .rwx, 0x3e8⟩
def TAMP_XQUAL.CHATTER_LIM : Fld := ⟨.TAMP_XQUAL, 15, 8, .rwx, 0x10⟩
def TAMP_XQUAL.DRAIN : Fld := ⟨.TAMP_XQUAL, 7, 0, .rwx, 0x7d⟩
/-! Fields of TILE_SELFTEST (R344, 16_bring_up.md). -/
def TILE_SELFTEST.GO : Fld := ⟨.TILE_SELFTEST, 31, 31, .w1s, 0⟩
def TILE_SELFTEST.SEL : Fld := ⟨.TILE_SELFTEST, 5, 0, .rw, 0x3f⟩
/-! Fields of TILE_SELFTEST_STS (R344, 16_bring_up.md). -/
def TILE_SELFTEST_STS.BUSY : Fld := ⟨.TILE_SELFTEST_STS, 31, 31, .ro, 0⟩
def TILE_SELFTEST_STS.DONE : Fld := ⟨.TILE_SELFTEST_STS, 30, 30, .w1c, 0⟩
def TILE_SELFTEST_STS.FAIL : Fld := ⟨.TILE_SELFTEST_STS, 29, 29, .ro, 0⟩
def TILE_SELFTEST_STS.RAN : Fld := ⟨.TILE_SELFTEST_STS, 21, 16, .ro, 0⟩
def TILE_SELFTEST_STS.FAILED : Fld := ⟨.TILE_SELFTEST_STS, 5, 0, .ro, 0⟩
/-! Fields of PERF_STS (R359, 17_observation.md). -/
def PERF_STS.SEEDED : Fld := ⟨.PERF_STS, 31, 31, .ro, 0⟩
def PERF_STS.INFLIGHT : Fld := ⟨.PERF_STS, 22, 16, .ro, 0⟩
def PERF_STS.GEN : Fld := ⟨.PERF_STS, 15, 0, .ro, 0⟩
/-! Fields of PERF_TAG_CFG (R359, 17_observation.md). -/
def PERF_TAG_CFG.SAMPLE_EN : Fld := ⟨.PERF_TAG_CFG, 31, 31, .rw, 0⟩
def PERF_TAG_CFG.K : Fld := ⟨.PERF_TAG_CFG, 4, 0, .rw, 0x10⟩
/-! Fields of PERF_TRC_BASE (R359, 17_observation.md). -/
def PERF_TRC_BASE.BASE : Fld := ⟨.PERF_TRC_BASE, 63, 12, .rw, 0⟩
/-! Fields of PERF_TRC_MIRROR (R359, 17_observation.md). -/
def PERF_TRC_MIRROR.ADDR : Fld := ⟨.PERF_TRC_MIRROR, 63, 3, .rw, 0⟩
/-! Fields of PERF_TRC_CFG (R359, 17_observation.md). -/
def PERF_TRC_CFG.EN : Fld := ⟨.PERF_TRC_CFG, 31, 31, .rw, 0⟩
def PERF_TRC_CFG.ERR : Fld := ⟨.PERF_TRC_CFG, 30, 30, .w1c, 0⟩
def PERF_TRC_CFG.SIZE_LOG2 : Fld := ⟨.PERF_TRC_CFG, 28, 24, .rw, 6⟩
/-! Fields of PERF_TRC_CONS (R359, 17_observation.md). -/
def PERF_TRC_CONS.INDEX : Fld := ⟨.PERF_TRC_CONS, 15, 0, .rw, 0⟩
/-! Fields of PERF_WATCH (R359, 17_observation.md). -/
def PERF_WATCH.EN : Fld := ⟨.PERF_WATCH, 31, 31, .rw, 0⟩
def PERF_WATCH.BIT : Fld := ⟨.PERF_WATCH, 29, 24, .rw, 0x20⟩
def PERF_WATCH.EVENT : Fld := ⟨.PERF_WATCH, 6, 0, .rw, 0⟩
/-! Fields of PERF_CNT (R359, 17_observation.md). -/
def PERF_CNT.COUNT : Fld := ⟨.PERF_CNT, 63, 0, .ro, 0⟩
/-! Fields of PERF_XFREEZE (R359, 17_observation.md). -/
def PERF_XFREEZE.FREEZE : Fld := ⟨.PERF_XFREEZE, 0, 0, .rwx, 0⟩
/-! Fields of FN_TRC_BASE (R360, 17_observation.md). -/
def FN_TRC_BASE.BASE : Fld := ⟨.FN_TRC_BASE, 63, 12, .rw, 0⟩
/-! Fields of FN_TRC_MIRROR (R360, 17_observation.md). -/
def FN_TRC_MIRROR.ADDR : Fld := ⟨.FN_TRC_MIRROR, 63, 3, .rw, 0⟩
/-! Fields of FN_TRC_CFG (R360, 17_observation.md). -/
def FN_TRC_CFG.EN : Fld := ⟨.FN_TRC_CFG, 31, 31, .rw, 0⟩
def FN_TRC_CFG.ERR : Fld := ⟨.FN_TRC_CFG, 30, 30, .w1c, 0⟩
def FN_TRC_CFG.SIZE_LOG2 : Fld := ⟨.FN_TRC_CFG, 28, 24, .rw, 6⟩
/-! Fields of FN_TRC_CONS (R360, 17_observation.md). -/
def FN_TRC_CONS.INDEX : Fld := ⟨.FN_TRC_CONS, 15, 0, .rw, 0⟩
/-! Fields of FN_PERF_GEN (R360, 17_observation.md). -/
def FN_PERF_GEN.GEN : Fld := ⟨.FN_PERF_GEN, 15, 0, .ro, 0⟩
/-! Fields of FN_CNT (R360, 17_observation.md). -/
def FN_CNT.COUNT : Fld := ⟨.FN_CNT, 63, 0, .ro, 0⟩
/-! Fields of FAB_ERR_ADDR (R379, 18_tile_boundary.md). -/
def FAB_ERR_ADDR.ADDR : Fld := ⟨.FAB_ERR_ADDR, 63, 0, .ro, 0⟩
/-! Fields of FAB_ERR_INFO (R379, 18_tile_boundary.md). -/
def FAB_ERR_INFO.VALID : Fld := ⟨.FAB_ERR_INFO, 31, 31, .w1c, 0⟩
def FAB_ERR_INFO.KIND : Fld := ⟨.FAB_ERR_INFO, 30, 28, .ro, 0⟩
def FAB_ERR_INFO.OP : Fld := ⟨.FAB_ERR_INFO, 27, 26, .ro, 0⟩
def FAB_ERR_INFO.PORT : Fld := ⟨.FAB_ERR_INFO, 25, 24, .ro, 0⟩
def FAB_ERR_INFO.PRIV : Fld := ⟨.FAB_ERR_INFO, 22, 22, .ro, 0⟩
def FAB_ERR_INFO.FUNC : Fld := ⟨.FAB_ERR_INFO, 21, 16, .ro, 0⟩
def FAB_ERR_INFO.COUNT : Fld := ⟨.FAB_ERR_INFO, 15, 0, .ro, 0⟩
/-! Fields of FAB_LATE (R379, 18_tile_boundary.md). -/
def FAB_LATE.COUNT : Fld := ⟨.FAB_LATE, 31, 0, .rc, 0⟩
/-! Fields of FAB_OUTSTANDING (R379, 18_tile_boundary.md). -/
def FAB_OUTSTANDING.READS_3 : Fld := ⟨.FAB_OUTSTANDING, 63, 48, .ro, 0⟩
def FAB_OUTSTANDING.READS_2 : Fld := ⟨.FAB_OUTSTANDING, 47, 32, .ro, 0⟩
def FAB_OUTSTANDING.READS_1 : Fld := ⟨.FAB_OUTSTANDING, 31, 16, .ro, 0⟩
def FAB_OUTSTANDING.READS_0 : Fld := ⟨.FAB_OUTSTANDING, 15, 0, .ro, 0⟩
/-! Fields of FAB_XTMO (R379, 18_tile_boundary.md). -/
def FAB_XTMO.TMO : Fld := ⟨.FAB_XTMO, 15, 0, .rwx, 0x10⟩

/-- Where a register stands and how it is laid out. -/
structure RegDesc where
  /-- the kind of page that holds it (R26) -/
  page : PageKind
  /-- offset of instance 0 within the page -/
  off : Nat
  /-- distance in bytes between instances on one page (0: one instance per page) -/
  stride : Nat
  /-- how many instances one page holds -/
  count : Nat
  /-- a 64-bit register -/
  wide : Bool
  /-- the named fields; every other bit is reserved (R9) -/
  flds : List Fld
deriving DecidableEq, Repr

/-- The register tables of the chapters, one row per register. -/
def Reg.desc : Reg → RegDesc
  | .TILE_IDENT => ⟨.tile, 0x40, 0, 1, false, [TILE_IDENT.PART, TILE_IDENT.STEP_MAJOR, TILE_IDENT.STEP_MINOR]⟩
  | .TILE_STATE => ⟨.tile, 0x44, 0, 1, false, [TILE_STATE.KEEPER, TILE_STATE.HOLDOVER, TILE_STATE.ROOT_LOADED, TILE_STATE.RNG_READY, TILE_STATE.PREV, TILE_STATE.STATE]⟩
  | .TILE_CMD => ⟨.tile, 0x48, 0, 1, false, [TILE_CMD.KEY, TILE_CMD.CMD]⟩
  | .TILE_RESET_CAUSE => ⟨.tile, 0x4c, 0, 1, false, [TILE_RESET_CAUSE.WAKE_DEEP, TILE_RESET_CAUSE.UNFENCE, TILE_RESET_CAUSE.TEST_EXIT, TILE_RESET_CAUSE.WATCHDOG, TILE_RESET_CAUSE.ALARM, TILE_RESET_CAUSE.RENUM, TILE_RESET_CAUSE.POWER_ON]⟩
  | .TILE_WINDOW => ⟨.tile, 0x50, 0, 1, true, [TILE_WINDOW.BASE, TILE_WINDOW.ADDR]⟩
  | .TILE_UID => ⟨.tile, 0x58, 0, 1, true, [TILE_UID.UID]⟩
  | .TILE_FAULT_SUMMARY => ⟨.tile, 0x60, 0, 1, false, [TILE_FAULT_SUMMARY.TYPE]⟩
  | .TILE_SCRATCH => ⟨.tile, 0x64, 0, 1, false, [TILE_SCRATCH.VALUE]⟩
  | .ACCESS_ERR_ADDR => ⟨.tile, 0x68, 0, 1, false, [ACCESS_ERR_ADDR.OFFSET]⟩
  | .ACCESS_ERR_INFO => ⟨.tile, 0x6c, 0, 1, false, [ACCESS_ERR_INFO.VALID, ACCESS_ERR_INFO.CAUSE, ACCESS_ERR_INFO.WRITE, ACCESS_ERR_INFO.PRIV, ACCESS_ERR_INFO.FUNC, ACCESS_ERR_INFO.COUNT]⟩
  | .TILE_WDOG_CTL => ⟨.tile, 0x70, 0, 1, false, [TILE_WDOG_CTL.EN, TILE_WDOG_CTL.ACTION, TILE_WDOG_CTL.PERIOD]⟩
  | .TILE_WDOG_KICK => ⟨.tile, 0x74, 0, 1, false, [TILE_WDOG_KICK.KICK]⟩
  | .TILE_ERR_MODE => ⟨.tile, 0x800, 0, 1, false, [TILE_ERR_MODE.RAZ_WI]⟩
  | .TILE_TRANS_TMO => ⟨.tile, 0x804, 0, 1, false, [TILE_TRANS_TMO.LIMIT]⟩
  | .QENG_CTL => ⟨.qeng, 0x40, 0, 1, false, [QENG_CTL.PAUSE]⟩
  | .QENG_STS => ⟨.qeng, 0x44, 0, 1, false, [QENG_STS.PAUSED, QENG_STS.ACTIVE, QENG_STS.DOZING]⟩
  | .QENG_RES => ⟨.qeng, 0x48, 0, 1, false, [QENG_RES.CBUF_FREE, QENG_RES.MISS_BUSY]⟩
  | .QENG_RR => ⟨.qeng, 0x4c, 0, 1, false, [QENG_RR.ROUND_START, QENG_RR.NEXT]⟩
  | .QENG_TORN_LAST => ⟨.qeng, 0x50, 0, 1, false, [QENG_TORN_LAST.VALID, QENG_TORN_LAST.RQ, QENG_TORN_LAST.INDEX]⟩
  | .QENG_TORN_CNT => ⟨.qeng, 0x54, 0, 1, false, [QENG_TORN_CNT.COUNT]⟩
  | .QENG_FENCED => ⟨.qeng, 0x60, 8, 4, true, [QENG_FENCED.MAP]⟩
  | .QENG_XFETCH => ⟨.qeng, 0x800, 0, 1, false, [QENG_XFETCH.GROUP]⟩
  | .RQ_BASE => ⟨.rq, 0x100, 64, 16, true, [RQ_BASE.BASE]⟩
  | .RQ_CFG => ⟨.rq, 0x108, 64, 16, false, [RQ_CFG.EN, RQ_CFG.SIZE_LOG2, RQ_CFG.FUNC, RQ_CFG.CQ, RQ_CFG.QUAD_MASK]⟩
  | .RQ_SCHED => ⟨.rq, 0x10c, 64, 16, false, [RQ_SCHED.WEIGHT, RQ_SCHED.BURST]⟩
  | .RQ_POLL => ⟨.rq, 0x110, 64, 16, false, [RQ_POLL.MIN_INT, RQ_POLL.MAX_INT]⟩
  | .RQ_HEAD => ⟨.rq, 0x114, 64, 16, false, [RQ_HEAD.LAP, RQ_HEAD.INDEX]⟩
  | .RQ_STS => ⟨.rq, 0x118, 64, 16, false, [RQ_STS.INFLIGHT, RQ_STS.CHAIN_WAIT, RQ_STS.CBUF_WAIT, RQ_STS.MISS_HOLD, RQ_STS.STATE]⟩
  | .RQ_KICK => ⟨.rq, 0x11c, 64, 16, false, [RQ_KICK.KICK]⟩
  | .RQ_ERR => ⟨.rq, 0x120, 64, 16, false, [RQ_ERR.FENCED, RQ_ERR.CAUSE, RQ_ERR.TORN]⟩
  | .RQ_XPREF => ⟨.rq, 0x800, 64, 16, false, [RQ_XPREF.DEPTH]⟩
  | .RQ_XDOZE => ⟨.rq, 0x804, 64, 16, false, [RQ_XDOZE.AFTER, RQ_XDOZE.INT]⟩
  | .RQ_XTORN => ⟨.rq, 0x808, 64, 16, false, [RQ_XTORN.LIMIT]⟩
  | .FN_RQ_SEL => ⟨.function, 0x40, 0, 1, false, [FN_RQ_SEL.RQ]⟩
  | .FN_RQ_VIEW => ⟨.function, 0x44, 0, 1, false, [FN_RQ_VIEW.VALID, FN_RQ_VIEW.CQ, FN_RQ_VIEW.HOLD, FN_RQ_VIEW.STATE]⟩
  | .FN_RQ_HEAD => ⟨.function, 0x48, 0, 1, false, [FN_RQ_HEAD.HEAD]⟩
  | .FN_RQ_KICK => ⟨.function, 0x4c, 0, 1, false, [FN_RQ_KICK.RQ]⟩
  | .FN_RQ_OWNED => ⟨.function, 0x50, 8, 4, true, [FN_RQ_OWNED.MAP]⟩
  | .LANE_STS => ⟨.lane, 0x40, 0, 1, false, [LANE_STS.INFLIGHT, LANE_STS.KEY_ZERO, LANE_STS.CHECKING, LANE_STS.ELIGIBLE, LANE_STS.IDLE]⟩
  | .LANE_ERR => ⟨.lane, 0x44, 0, 1, false, [LANE_ERR.VALID, LANE_ERR.CAUSE, LANE_ERR.STAGE, LANE_ERR.COUNT]⟩
  | .LANE_CHECK => ⟨.lane, 0x48, 0, 1, false, [LANE_CHECK.PASS, LANE_CHECK.DONE, LANE_CHECK.RUN]⟩
  | .LANE_XINJECT => ⟨.lane, 0x800, 0, 1, false, [LANE_XINJECT.ARM, LANE_XINJECT.CAUSE, LANE_XINJECT.AFTER]⟩
  | .LANE_XCHECK => ⟨.lane, 0x804, 0, 1, false, [LANE_XCHECK.PERIOD]⟩
  | .QUAD_LANE_EN => ⟨.quad, 0x40, 0, 1, false, [QUAD_LANE_EN.LANES]⟩
  | .QUAD_STS => ⟨.quad, 0x44, 0, 1, false, [QUAD_STS.PLL_LOCK, QUAD_STS.FENCED, QUAD_STS.STAGE_HELD]⟩
  | .QUAD_STAGE_HWM => ⟨.quad, 0x48, 0, 1, false, [QUAD_STAGE_HWM.HWM]⟩
  | .QUAD_REPLAY => ⟨.quad, 0x4c, 0, 1, false, [QUAD_REPLAY.COUNT]⟩
  | .QUAD_AFAIL => ⟨.quad, 0x50, 0, 1, false, [QUAD_AFAIL.THRESHOLD, QUAD_AFAIL.WINDOW]⟩
  | .QUAD_AFAIL_CNT => ⟨.quad, 0x54, 0, 1, false, [QUAD_AFAIL_CNT.COUNT]⟩
  | .QUAD_XLANE => ⟨.quad, 0x800, 0, 1, false, [QUAD_XLANE.MAX_INFLIGHT]⟩
  | .CTX_STORE_BASE => ⟨.ctx, 0x40, 0, 1, true, [CTX_STORE_BASE.BASE]⟩
  | .CTX_TREE_BASE => ⟨.ctx, 0x48, 0, 1, true, [CTX_TREE_BASE.BASE]⟩
  | .CTX_CFG => ⟨.ctx, 0x50, 0, 1, false, [CTX_CFG.SIZE_LOG2]⟩
  | .CTX_STS => ⟨.ctx, 0x54, 0, 1, false, [CTX_STS.STORE, CTX_STS.MISS_BUSY, CTX_STS.WAY_WAIT]⟩
  | .CTX_OCC => ⟨.ctx, 0x58, 0, 1, false, [CTX_OCC.DIRTY, CTX_OCC.RESIDENT]⟩
  | .CTX_TREE_INFO => ⟨.ctx, 0x5c, 0, 1, false, [CTX_TREE_INFO.LEVELS, CTX_TREE_INFO.ROOT_USED, CTX_TREE_INFO.PAGES]⟩
  | .CTX_CMD => ⟨.ctx, 0x60, 0, 1, false, [CTX_CMD.OP, CTX_CMD.HANDLE]⟩
  | .CTX_CMD_STS => ⟨.ctx, 0x64, 0, 1, false, [CTX_CMD_STS.BUSY, CTX_CMD_STS.DONE, CTX_CMD_STS.RESULT, CTX_CMD_STS.OP]⟩
  | .CTX_SWEEP => ⟨.ctx, 0x68, 0, 1, false, [CTX_SWEEP.PASSES, CTX_SWEEP.INT]⟩
  | .CTX_PN_MARGIN => ⟨.ctx, 0x6c, 0, 1, false, [CTX_PN_MARGIN.MARGIN]⟩
  | .CTX_LEARN_BASE => ⟨.ctx, 0x70, 0, 1, true, [CTX_LEARN_BASE.BASE]⟩
  | .CTX_LEARN_MIRROR => ⟨.ctx, 0x78, 0, 1, true, [CTX_LEARN_MIRROR.ADDR]⟩
  | .CTX_LEARN_CFG => ⟨.ctx, 0x80, 0, 1, false, [CTX_LEARN_CFG.EN, CTX_LEARN_CFG.SIZE_LOG2, CTX_LEARN_CFG.HOLDOFF]⟩
  | .CTX_LEARN_CONS => ⟨.ctx, 0x84, 0, 1, false, [CTX_LEARN_CONS.INDEX]⟩
  | .CTX_LEARN_DROP => ⟨.ctx, 0x88, 0, 1, false, [CTX_LEARN_DROP.SUPPRESSED, CTX_LEARN_DROP.DROPPED]⟩
  | .CTX_ERR_HANDLE => ⟨.ctx, 0x8c, 0, 1, false, [CTX_ERR_HANDLE.HANDLE]⟩
  | .CTX_ERR_INFO => ⟨.ctx, 0x90, 0, 1, false, [CTX_ERR_INFO.VALID, CTX_ERR_INFO.KIND, CTX_ERR_INFO.LEVEL, CTX_ERR_INFO.COUNT]⟩
  | .CTX_PN_HANDLE => ⟨.ctx, 0x94, 0, 1, false, [CTX_PN_HANDLE.VALID, CTX_PN_HANDLE.SLOT, CTX_PN_HANDLE.HANDLE]⟩
  | .CTX_BAD => ⟨.ctx, 0xa0, 8, 16, true, [CTX_BAD.VALID, CTX_BAD.ROLLBACK, CTX_BAD.LEVEL, CTX_BAD.HANDLE]⟩
  | .CTX_XSWEEP => ⟨.ctx, 0x800, 0, 1, false, [CTX_XSWEEP.AGE]⟩
  | .CTX_XMISS => ⟨.ctx, 0x804, 0, 1, false, [CTX_XMISS.MAX]⟩
  | .EPOCH_CUR => ⟨.hatband, 0x200, 0, 1, false, [EPOCH_CUR.EPOCH]⟩
  | .EPOCH_PEND => ⟨.hatband, 0x204, 0, 1, false, [EPOCH_PEND.EPOCH]⟩
  | .EPOCH_TIME => ⟨.hatband, 0x208, 0, 1, true, [EPOCH_TIME.TIME]⟩
  | .EPOCH_LAST => ⟨.hatband, 0x210, 0, 1, true, [EPOCH_LAST.TIME]⟩
  | .EPOCH_CTL => ⟨.hatband, 0x218, 0, 1, false, [EPOCH_CTL.CELL_EN, EPOCH_CTL.HOLD_POLICY, EPOCH_CTL.CANCEL, EPOCH_CTL.SCHED, EPOCH_CTL.ARM]⟩
  | .EPOCH_STS => ⟨.hatband, 0x21c, 0, 1, false, [EPOCH_STS.PENDING, EPOCH_STS.SCHEDULED, EPOCH_STS.CLOSED, EPOCH_STS.SRC, EPOCH_STS.LAST_HOLDOVER, EPOCH_STS.LAST_SHORT, EPOCH_STS.CELL_LATE, EPOCH_STS.CELL_REFUSED, EPOCH_STS.HELD]⟩
  | .EPOCH_ARMED => ⟨.hatband, 0x220, 0, 1, false, [EPOCH_ARMED.COUNT]⟩
  | .EPOCH_EXPECT => ⟨.hatband, 0x224, 0, 1, false, [EPOCH_EXPECT.COUNT]⟩
  | .EPOCH_RXOVL => ⟨.hatband, 0x228, 0, 1, false, [EPOCH_RXOVL.OVERLAP]⟩
  | .EPOCH_MISS => ⟨.hatband, 0x22c, 0, 1, false, [EPOCH_MISS.LATE_ARMS, EPOCH_MISS.HELD_FLIPS]⟩
  | .EPOCH_MISS_HANDLE => ⟨.hatband, 0x230, 0, 1, false, [EPOCH_MISS_HANDLE.VALID, EPOCH_MISS_HANDLE.HANDLE]⟩
  | .EPOCH_XGUARD => ⟨.hatband, 0x900, 0, 1, false, [EPOCH_XGUARD.GUARD]⟩
  | .CROWN_STS => ⟨.crown, 0x40, 0, 1, false, [CROWN_STS.DRAINED, CROWN_STS.HOLDING, CROWN_STS.FIFO_FULL]⟩
  | .CROWN_POOL => ⟨.crown, 0x44, 0, 1, false, [CROWN_POOL.ORDER_WAIT, CROWN_POOL.FREE]⟩
  | .CROWN_POOL_HWM => ⟨.crown, 0x48, 0, 1, false, [CROWN_POOL_HWM.HWM]⟩
  | .CROWN_STALL_CNT => ⟨.crown, 0x4c, 0, 1, false, [CROWN_STALL_CNT.COUNT]⟩
  | .CROWN_PTR => ⟨.crown, 0x50, 0, 1, false, [CROWN_PTR.PTR]⟩
  | .CROWN_XPRIO => ⟨.crown, 0x800, 0, 1, false, [CROWN_XPRIO.FIXED, CROWN_XPRIO.START]⟩
  | .CQ_BASE => ⟨.cq, 0x100, 64, 16, true, [CQ_BASE.BASE]⟩
  | .CQ_MIRROR => ⟨.cq, 0x108, 64, 16, true, [CQ_MIRROR.ADDR]⟩
  | .CQ_HEAD => ⟨.cq, 0x110, 64, 16, true, [CQ_HEAD.LAP, CQ_HEAD.INDEX]⟩
  | .CQ_CFG => ⟨.cq, 0x118, 64, 16, false, [CQ_CFG.EN, CQ_CFG.SIZE_LOG2, CQ_CFG.FUNC]⟩
  | .CQ_CONS => ⟨.cq, 0x11c, 64, 16, false, [CQ_CONS.INDEX]⟩
  | .CQ_STS => ⟨.cq, 0x120, 64, 16, false, [CQ_STS.HELD, CQ_STS.FULL, CQ_STS.STATE]⟩
  | .CQ_ERR => ⟨.cq, 0x124, 64, 16, false, [CQ_ERR.FENCED, CQ_ERR.BAD_CONS, CQ_ERR.CAUSE, CQ_ERR.STALLS]⟩
  | .CQ_XQUOTA => ⟨.cq, 0x800, 64, 16, false, [CQ_XQUOTA.SLOTS]⟩
  | .CQ_XCOALESCE => ⟨.cq, 0x804, 64, 16, false, [CQ_XCOALESCE.GAP]⟩
  | .IRQ_CTL => ⟨.irq, 0x40, 0, 1, false, [IRQ_CTL.HOST_SLEEP]⟩
  | .IRQ_STS => ⟨.irq, 0x44, 0, 1, false, [IRQ_STS.FLUSHING, IRQ_STS.WAKE_OUT, IRQ_STS.HELD, IRQ_STS.DUE]⟩
  | .IRQ_FLUSH => ⟨.irq, 0x48, 0, 1, false, [IRQ_FLUSH.ALL, IRQ_FLUSH.VECTOR]⟩
  | .IRQ_MSG_CNT => ⟨.irq, 0x4c, 0, 1, false, [IRQ_MSG_CNT.COUNT]⟩
  | .IRQ_PEND => ⟨.irq, 0x50, 8, 4, true, [IRQ_PEND.MAP]⟩
  | .IRQ_SEL => ⟨.irq, 0x80, 0, 1, false, [IRQ_SEL.VECTOR]⟩
  | .IRQ_SEL_STS => ⟨.irq, 0x84, 0, 1, false, [IRQ_SEL_STS.COUNT, IRQ_SEL_STS.TIMER_RUN, IRQ_SEL_STS.IN_CHANNEL]⟩
  | .IRQ_VEC_CFG => ⟨.irq, 0x400, 4, 256, false, [IRQ_VEC_CFG.EN, IRQ_VEC_CFG.WAKE, IRQ_VEC_CFG.DEST, IRQ_VEC_CFG.FUNC, IRQ_VEC_CFG.SCALE, IRQ_VEC_CFG.TIMER, IRQ_VEC_CFG.COUNT_THR]⟩
  | .IRQ_XFORCE => ⟨.irq, 0x800, 0, 1, false, [IRQ_XFORCE.GO, IRQ_XFORCE.VECTOR]⟩
  | .FN_CQ_SEL => ⟨.function, 0x80, 0, 1, false, [FN_CQ_SEL.CQ]⟩
  | .FN_CQ_VIEW => ⟨.function, 0x84, 0, 1, false, [FN_CQ_VIEW.VALID, FN_CQ_VIEW.HELD, FN_CQ_VIEW.FULL, FN_CQ_VIEW.STATE]⟩
  | .FN_CQ_CONS => ⟨.function, 0x88, 0, 1, false, [FN_CQ_CONS.CQ, FN_CQ_CONS.INDEX]⟩
  | .FN_CQ_OWNED => ⟨.function, 0x90, 0, 1, true, [FN_CQ_OWNED.MAP]⟩
  | .DG_STS => ⟨.digest, 0x40, 0, 1, false, [DG_STS.CORES_BUSY, DG_STS.FREE, DG_STS.HELD]⟩
  | .DG_SLICE => ⟨.digest, 0x44, 0, 1, false, [DG_SLICE.BUDGET]⟩
  | .DG_HOLD => ⟨.digest, 0x48, 0, 1, false, [DG_HOLD.TMO, DG_HOLD.MAX_PER_FN]⟩
  | .DG_HOLD_CNT => ⟨.digest, 0x4c, 0, 1, false, [DG_HOLD_CNT.EXPIRED]⟩
  | .DG_SLOTS => ⟨.digest, 0x50, 0, 1, false, [DG_SLOTS.LOADED]⟩
  | .DG_ERR_INFO => ⟨.digest, 0x54, 0, 1, false, [DG_ERR_INFO.VALID, DG_ERR_INFO.KIND, DG_ERR_INFO.INDEX, DG_ERR_INFO.COUNT]⟩
  | .DG_RES_FUNC => ⟨.digest, 0x60, 4, 15, false, [DG_RES_FUNC.RESTRICT_3, DG_RES_FUNC.FUNC_3, DG_RES_FUNC.RESTRICT_2, DG_RES_FUNC.FUNC_2, DG_RES_FUNC.RESTRICT_1, DG_RES_FUNC.FUNC_1, DG_RES_FUNC.RESTRICT_0, DG_RES_FUNC.FUNC_0]⟩
  | .DG_SAVE_BASE => ⟨.digest, 0xa0, 0, 1, true, [DG_SAVE_BASE.BASE]⟩
  | .DG_SAVE_CTL => ⟨.digest, 0xa8, 0, 1, false, [DG_SAVE_CTL.EN]⟩
  | .DG_SAVE_STS => ⟨.digest, 0xac, 0, 1, false, [DG_SAVE_STS.IMAGE, DG_SAVE_STS.RESTORE_FAIL, DG_SAVE_STS.GEN]⟩
  | .DG_XRESERVE => ⟨.digest, 0x800, 0, 1, false, [DG_XRESERVE.COUNT]⟩
  | .DCORE_STS => ⟨.dcore, 0x40, 0, 1, false, [DCORE_STS.BUSY, DCORE_STS.CHECKING, DCORE_STS.CHANNEL, DCORE_STS.ALG]⟩
  | .DCORE_ERR => ⟨.dcore, 0x44, 0, 1, false, [DCORE_ERR.VALID, DCORE_ERR.CAUSE, DCORE_ERR.CHANNEL, DCORE_ERR.COUNT]⟩
  | .DCORE_CHECK => ⟨.dcore, 0x48, 0, 1, false, [DCORE_CHECK.PASS, DCORE_CHECK.DONE, DCORE_CHECK.RUN]⟩
  | .DCORE_BLOCKS => ⟨.dcore, 0x4c, 0, 1, false, [DCORE_BLOCKS.COUNT]⟩
  | .DCORE_XINJECT => ⟨.dcore, 0x800, 0, 1, false, [DCORE_XINJECT.ARM, DCORE_XINJECT.CAUSE, DCORE_XINJECT.AFTER]⟩
  | .BN_STS => ⟨.bignum, 0x40, 0, 1, false, [BN_STS.IA_BUSY, BN_STS.NTT_BUSY, BN_STS.IA_FENCED, BN_STS.NTT_FENCED, BN_STS.WAITING, BN_STS.KEYS]⟩
  | .BN_SLICE => ⟨.bignum, 0x44, 0, 1, false, [BN_SLICE.BUDGET]⟩
  | .BN_IDLE => ⟨.bignum, 0x48, 0, 1, false, [BN_IDLE.HOLDOFF]⟩
  | .BN_ERR_INFO => ⟨.bignum, 0x4c, 0, 1, false, [BN_ERR_INFO.VALID, BN_ERR_INFO.KIND, BN_ERR_INFO.UNIT, BN_ERR_INFO.CHANNEL, BN_ERR_INFO.COUNT]⟩
  | .BN_CHECK => ⟨.bignum, 0x50, 0, 1, false, [BN_CHECK.PASS_NTT, BN_CHECK.PASS_IA, BN_CHECK.DONE, BN_CHECK.RUN]⟩
  | .BN_CHAN_CFG => ⟨.bignum, 0x100, 4, 64, false, [BN_CHAN_CFG.VALID, BN_CHAN_CFG.PRIV, BN_CHAN_CFG.FUNC, BN_CHAN_CFG.QUEUED, BN_CHAN_CFG.KEY_HELD, BN_CHAN_CFG.STATE, BN_CHAN_CFG.KEY_PARAM]⟩
  | .BN_XRNG => ⟨.bignum, 0x800, 0, 1, false, [BN_XRNG.TMO]⟩
  | .BN_XRESPLIT => ⟨.bignum, 0x804, 0, 1, false, [BN_XRESPLIT.PERIOD]⟩
  | .BN_XINJECT => ⟨.bignum, 0x808, 0, 1, false, [BN_XINJECT.ARM, BN_XINJECT.UNIT, BN_XINJECT.BOTH, BN_XINJECT.CAUSE, BN_XINJECT.AFTER]⟩
  | .RNG_CELL_EN => ⟨.rng, 0x40, 0, 1, false, [RNG_CELL_EN.EN]⟩
  | .RNG_STS => ⟨.rng, 0x44, 0, 1, false, [RNG_STS.READY, RNG_STS.STRETCHED, RNG_STS.ORD_STALL, RNG_STS.ALL_STALL, RNG_STS.FENCED, RNG_STS.PHASE, RNG_STS.POOL, RNG_STS.ADMITTED]⟩
  | .RNG_RESEED_CFG => ⟨.rng, 0x48, 0, 1, false, [RNG_RESEED_CFG.FORCE, RNG_RESEED_CFG.LIMIT_LOG2, RNG_RESEED_CFG.NOMINAL]⟩
  | .RNG_RESEED_CNT => ⟨.rng, 0x4c, 0, 1, false, [RNG_RESEED_CNT.COUNT]⟩
  | .RNG_PRIV_RESERVE => ⟨.rng, 0x50, 0, 1, false, [RNG_PRIV_RESERVE.RESERVE]⟩
  | .RNG_HEALTH_CFG => ⟨.rng, 0x54, 0, 1, false, [RNG_HEALTH_CFG.MIN_CELLS, RNG_HEALTH_CFG.WINDOW, RNG_HEALTH_CFG.THRESH]⟩
  | .RNG_TMO => ⟨.rng, 0x58, 0, 1, false, [RNG_TMO.RAND_TMO, RNG_TMO.STALL_TMO]⟩
  | .RNG_CELL_FLAGS => ⟨.rng, 0x5c, 0, 1, false, [RNG_CELL_FLAGS.LOCK_FAIL, RNG_CELL_FLAGS.ALIVE_FAIL]⟩
  | .RNG_SW_DATA => ⟨.rng, 0x60, 0, 1, true, [RNG_SW_DATA.VALID, RNG_SW_DATA.DATA]⟩
  | .RNG_EST_CFG => ⟨.rng, 0x68, 0, 1, false, [RNG_EST_CFG.WIN_LOG2]⟩
  | .RNG_RESEEDS => ⟨.rng, 0x6c, 0, 1, false, [RNG_RESEEDS.COUNT]⟩
  | .RNG_CELL_CNT => ⟨.rng, 0x100, 8, 16, true, [RNG_CELL_CNT.PASS, RNG_CELL_CNT.FAIL]⟩
  | .RNG_CELL_EST => ⟨.rng, 0x180, 8, 16, true, [RNG_CELL_EST.EQUAL, RNG_CELL_EST.ONES]⟩
  | .RNG_XRAW => ⟨.rng, 0x800, 0, 1, false, [RNG_XRAW.EN, RNG_XRAW.CELL, RNG_XRAW.LEN]⟩
  | .RNG_XRAW_BASE => ⟨.rng, 0x808, 0, 1, true, [RNG_XRAW_BASE.BASE]⟩
  | .RNG_XRAW_STS => ⟨.rng, 0x810, 0, 1, false, [RNG_XRAW_STS.BUSY, RNG_XRAW_STS.DONE, RNG_XRAW_STS.ERR, RNG_XRAW_STS.WRITTEN]⟩
  | .RNG_XCELL => ⟨.rng, 0x814, 0, 1, false, [RNG_XCELL.RCT_CUTOFF, RNG_XCELL.ALIVE_MIN, RNG_XCELL.APT_MARGIN, RNG_XCELL.LAG_MARGIN]⟩
  | .KEY_STS => ⟨.key, 0x40, 0, 1, false, [KEY_STS.ROOT_LOADED, KEY_STS.STORE_KEYS, KEY_STS.PORT_STATE, KEY_STS.POUNCING, KEY_STS.ATTESTING, KEY_STS.BUSY]⟩
  | .KEY_CMD => ⟨.key, 0x44, 0, 1, false, [KEY_CMD.KEY, KEY_CMD.CMD]⟩
  | .KEY_PORT_STS => ⟨.key, 0x48, 0, 1, false, [KEY_PORT_STS.CAUSE, KEY_PORT_STS.ATTEMPTS, KEY_PORT_STS.STRAY]⟩
  | .KEY_POUNCE_STS => ⟨.key, 0x4c, 0, 1, false, [KEY_POUNCE_STS.RUNNING, KEY_POUNCE_STS.OVERDUE_NOW, KEY_POUNCE_STS.PASSES]⟩
  | .KEY_POUNCE_CNT => ⟨.key, 0x50, 0, 1, false, [KEY_POUNCE_CNT.OVERDUE]⟩
  | .KEY_POUNCE_LAST => ⟨.key, 0x58, 0, 1, true, [KEY_POUNCE_LAST.TIME]⟩
  | .KEY_COUNTS => ⟨.key, 0x60, 0, 1, true, [KEY_COUNTS.TAMPER, KEY_COUNTS.ZEROIZE]⟩
  | .KEY_SESSION => ⟨.key, 0x68, 0, 1, true, [KEY_SESSION.SESSION]⟩
  | .KEY_ATT_CHAL => ⟨.key, 0xc0, 8, 4, true, [KEY_ATT_CHAL.CHAL]⟩
  | .KEY_ATT_STS => ⟨.key, 0xe0, 0, 1, false, [KEY_ATT_STS.DONE, KEY_ATT_STS.REFUSED, KEY_ATT_STS.ABORTED]⟩
  | .KEY_ATT_MSG => ⟨.key, 0x100, 8, 16, true, [KEY_ATT_MSG.DATA]⟩
  | .KEY_ATT_RESP => ⟨.key, 0x180, 8, 6, true, [KEY_ATT_RESP.DATA]⟩
  | .KEY_FGEN => ⟨.key, 0x200, 4, 64, false, [KEY_FGEN.GEN]⟩
  | .KEY_XPOUNCE => ⟨.key, 0x800, 0, 1, false, [KEY_XPOUNCE.PERIOD]⟩
  | .KEY_XPORT => ⟨.key, 0x804, 0, 1, false, [KEY_XPORT.TMO]⟩
  | .DMA_STS => ⟨.dma, 0x40, 0, 1, false, [DMA_STS.RUNNING, DMA_STS.HALTED]⟩
  | .DMA_ARB => ⟨.dma, 0x44, 0, 1, false, [DMA_ARB.BURST]⟩
  | .DMA_XRECOVER => ⟨.dma, 0x800, 0, 1, false, [DMA_XRECOVER.EN]⟩
  | .DCH_CFG => ⟨.dmaChannel, 0x40, 0, 1, false, [DCH_CFG.RING, DCH_CFG.PRIO, DCH_CFG.RING_LOG2, DCH_CFG.POLL]⟩
  | .DCH_CTL => ⟨.dmaChannel, 0x44, 0, 1, false, [DCH_CTL.DISABLE, DCH_CTL.RESUME, DCH_CTL.KICK]⟩
  | .DCH_STS => ⟨.dmaChannel, 0x48, 0, 1, false, [DCH_STS.STATE, DCH_STS.BUF, DCH_STS.ENDED]⟩
  | .DCH_ARM => ⟨.dmaChannel, 0x4c, 0, 1, false, [DCH_ARM.SHD_ARM]⟩
  | .DCH_SHD_CTL => ⟨.dmaChannel, 0x50, 0, 1, true, [DCH_SHD_CTL.BARRIER, DCH_SHD_CTL.IRQ, DCH_SHD_CTL.SRC_MODE, DCH_SHD_CTL.DST_MODE, DCH_SHD_CTL.LENGTH]⟩
  | .DCH_SHD_SRC => ⟨.dmaChannel, 0x58, 0, 1, true, [DCH_SHD_SRC.ADDR]⟩
  | .DCH_SHD_DST => ⟨.dmaChannel, 0x60, 0, 1, true, [DCH_SHD_DST.ADDR]⟩
  | .DCH_CUR_CTL => ⟨.dmaChannel, 0x68, 0, 1, true, [DCH_CUR_CTL.BARRIER, DCH_CUR_CTL.IRQ, DCH_CUR_CTL.SRC_MODE, DCH_CUR_CTL.DST_MODE, DCH_CUR_CTL.LENGTH]⟩
  | .DCH_CUR_SRC => ⟨.dmaChannel, 0x70, 0, 1, true, [DCH_CUR_SRC.ADDR]⟩
  | .DCH_CUR_DST => ⟨.dmaChannel, 0x78, 0, 1, true, [DCH_CUR_DST.ADDR]⟩
  | .DCH_CUR_MOVED => ⟨.dmaChannel, 0x80, 0, 1, false, [DCH_CUR_MOVED.MOVED]⟩
  | .DCH_ERR => ⟨.dmaChannel, 0x84, 0, 1, false, [DCH_ERR.VALID, DCH_ERR.KIND, DCH_ERR.COUNT]⟩
  | .DCH_LAST => ⟨.dmaChannel, 0x88, 0, 1, true, [DCH_LAST.STATUS, DCH_LAST.RETRIED, DCH_LAST.MOVED]⟩
  | .DCH_RING_BASE => ⟨.dmaChannel, 0x90, 0, 1, true, [DCH_RING_BASE.BASE]⟩
  | .DCH_RING_HEAD => ⟨.dmaChannel, 0x98, 0, 1, false, [DCH_RING_HEAD.INDEX]⟩
  | .DCH_X2D_SRC => ⟨.dmaChannel, 0x800, 0, 1, true, [DCH_X2D_SRC.STRIDE, DCH_X2D_SRC.COUNT, DCH_X2D_SRC.LINE_M1]⟩
  | .DCH_X2D_DST => ⟨.dmaChannel, 0x808, 0, 1, true, [DCH_X2D_DST.STRIDE, DCH_X2D_DST.COUNT, DCH_X2D_DST.LINE_M1]⟩
  | .HB_STS => ⟨.hatband, 0x40, 0, 1, false, [HB_STS.UP_SYNC, HB_STS.DOWN_TERM, HB_STS.ADDR_VALID, HB_STS.BYPASS, HB_STS.TIME_SRC, HB_STS.TIME_STALE, HB_STS.ELASTIC, HB_STS.ADDR]⟩
  | .HB_CELL_EN => ⟨.hatband, 0x44, 0, 1, false, [HB_CELL_EN.MSG, HB_CELL_EN.BYPASS_SET, HB_CELL_EN.WAKE, HB_CELL_EN.SLEEP_ALL]⟩
  | .HB_WIRE_IN => ⟨.hatband, 0x48, 0, 1, false, [HB_WIRE_IN.DELAY]⟩
  | .HB_TIME => ⟨.hatband, 0x50, 0, 1, true, [HB_TIME.TIME]⟩
  | .HB_TIME_INFO => ⟨.hatband, 0x58, 0, 1, false, [HB_TIME_INFO.HOP, HB_TIME_INFO.CORR, HB_TIME_INFO.AGE]⟩
  | .HB_TIME_STEP => ⟨.hatband, 0x5c, 0, 1, false, [HB_TIME_STEP.STEP]⟩
  | .HB_CNT => ⟨.hatband, 0x60, 0, 1, true, [HB_CNT.STEPS, HB_CNT.CRC_ERR, HB_CNT.STOMPED, HB_CNT.IGNORED]⟩
  | .HB_MSG_TX_DATA => ⟨.hatband, 0x70, 0, 1, true, [HB_MSG_TX_DATA.DATA]⟩
  | .HB_MSG_TX_HI => ⟨.hatband, 0x78, 0, 1, false, [HB_MSG_TX_HI.SRC, HB_MSG_TX_HI.DATA]⟩
  | .HB_MSG_TX_CTL => ⟨.hatband, 0x7c, 0, 1, false, [HB_MSG_TX_CTL.GO, HB_MSG_TX_CTL.BUSY, HB_MSG_TX_CTL.DEST]⟩
  | .HB_MSG_RX_DATA => ⟨.hatband, 0x80, 0, 1, true, [HB_MSG_RX_DATA.DATA]⟩
  | .HB_MSG_RX_HI => ⟨.hatband, 0x88, 0, 1, false, [HB_MSG_RX_HI.SRC, HB_MSG_RX_HI.DATA]⟩
  | .HB_MSG_RX_STS => ⟨.hatband, 0x8c, 0, 1, false, [HB_MSG_RX_STS.VALID, HB_MSG_RX_STS.LEVEL, HB_MSG_RX_STS.DROPPED, HB_MSG_RX_STS.POP]⟩
  | .HB_XTIME => ⟨.hatband, 0x800, 0, 1, false, [HB_XTIME.STALE, HB_XTIME.STEP_LIM]⟩
  | .HB_XCELL => ⟨.hatband, 0x804, 0, 1, false, [HB_XCELL.ZEROIZE_EN]⟩
  | .CLK_STS => ⟨.clock, 0x40, 0, 1, false, [CLK_STS.SAFE, CLK_STS.LASTING, CLK_STS.REF, CLK_STS.HBREF_OK, CLK_STS.SBOSC_OK, CLK_STS.SBOSC_ON, CLK_STS.COUNTING, CLK_STS.MON_BAD, CLK_STS.LOCK]⟩
  | .CLK_REF_CFG => ⟨.clock, 0x44, 0, 1, false, [CLK_REF_CFG.AUTO_RETURN, CLK_REF_CFG.AUTO_FALLBACK, CLK_REF_CFG.SBOSC_STANDBY]⟩
  | .CLK_CMD => ⟨.clock, 0x48, 0, 1, false, [CLK_CMD.KEY, CLK_CMD.CMD]⟩
  | .CLK_PLL_EN => ⟨.clock, 0x4c, 0, 1, false, [CLK_PLL_EN.QPLL, CLK_PLL_EN.FPLL, CLK_PLL_EN.CPLL]⟩
  | .CLK_EN => ⟨.clock, 0x50, 0, 1, true, [CLK_EN.LANE, CLK_EN.DCORE, CLK_EN.QUAD, CLK_EN.BLK]⟩
  | .CLK_RUN => ⟨.clock, 0x58, 0, 1, true, [CLK_RUN.LANE, CLK_RUN.DCORE, CLK_RUN.QUAD, CLK_RUN.BLK]⟩
  | .CLK_FB_CNT => ⟨.clock, 0x60, 0, 1, false, [CLK_FB_CNT.RESTARTS, CLK_FB_CNT.FORCED, CLK_FB_CNT.FALLBACKS]⟩
  | .CLK_COMPAT => ⟨.clock, 0x64, 0, 1, false, [CLK_COMPAT.COMPAT_MODE]⟩
  | .CLK_RUN_EN => ⟨.clock, 0x68, 0, 1, false, [CLK_RUN_EN.MASK]⟩
  | .CLK_SLEEP_EN => ⟨.clock, 0x6c, 0, 1, false, [CLK_SLEEP_EN.MASK]⟩
  | .CLK_DEEPSLEEP_EN => ⟨.clock, 0x70, 0, 1, false, [CLK_DEEPSLEEP_EN.MASK]⟩
  | .CLK_XMON => ⟨.clock, 0x800, 0, 1, false, [CLK_XMON.QUAL, CLK_XMON.TRIP, CLK_XMON.WINDOW]⟩
  | .CLK_XSWITCH => ⟨.clock, 0x804, 0, 1, false, [CLK_XSWITCH.HS_TMO]⟩
  | .PWR_STS => ⟨.power, 0x40, 0, 1, false, [PWR_STS.PHASE, PWR_STS.KEEP_FAIL, PWR_STS.ON, PWR_STS.RET]⟩
  | .PWR_CMD => ⟨.power, 0x44, 0, 1, false, [PWR_CMD.KEY, PWR_CMD.CMD]⟩
  | .PWR_SLEEP => ⟨.power, 0x48, 0, 1, false, [PWR_SLEEP.GO, PWR_SLEEP.TARGET]⟩
  | .PWR_WAKE_CFG => ⟨.power, 0x4c, 0, 1, false, [PWR_WAKE_CFG.TIMER_EN, PWR_WAKE_CFG.TIMER, PWR_WAKE_CFG.CELL, PWR_WAKE_CFG.PIN]⟩
  | .PWR_WAKE_CAUSE => ⟨.power, 0x50, 0, 1, false, [PWR_WAKE_CAUSE.VALID, PWR_WAKE_CAUSE.CAUSE]⟩
  | .PWR_PARK => ⟨.power, 0x54, 0, 1, false, [PWR_PARK.QUAD_EN, PWR_PARK.QUAD_IDLE, PWR_PARK.LANE_EN, PWR_PARK.LANE_IDLE]⟩
  | .PWR_PARK_STS => ⟨.power, 0x58, 0, 1, false, [PWR_PARK_STS.QUADS, PWR_PARK_STS.LANES]⟩
  | .PWR_FAULT_INFO => ⟨.power, 0x5c, 0, 1, false, [PWR_FAULT_INFO.VALID, PWR_FAULT_INFO.KIND, PWR_FAULT_INFO.DOMAIN, PWR_FAULT_INFO.COUNT]⟩
  | .PWR_DOM_ON => ⟨.power, 0x60, 8, 2, true, [PWR_DOM_ON.MAP]⟩
  | .PWR_DOM_RET => ⟨.power, 0x70, 8, 2, true, [PWR_DOM_RET.MAP]⟩
  | .PWR_XSEQ => ⟨.power, 0x800, 0, 1, false, [PWR_XSEQ.PGOOD_TMO, PWR_XSEQ.RAMP_MAX, PWR_XSEQ.DRAIN_TMO]⟩
  | .TAMP_STS => ⟨.tamper, 0x40, 0, 1, false, [TAMP_STS.ALARM, TAMP_STS.WIPING, TAMP_STS.DRAINING, TAMP_STS.SEALED, TAMP_STS.CLASS, TAMP_STS.DISCARDED, TAMP_STS.CAUSE]⟩
  | .TAMP_CMD => ⟨.tamper, 0x44, 0, 1, false, [TAMP_CMD.KEY, TAMP_CMD.CMD]⟩
  | .TAMP_QUAL_CLR => ⟨.tamper, 0x48, 0, 1, false, [TAMP_QUAL_CLR.CLR]⟩
  | .TAMP_SENS_STS => ⟨.tamper, 0x4c, 0, 1, false, [TAMP_SENS_STS.LATCHED]⟩
  | .TAMP_QUAL => ⟨.tamper, 0x50, 4, 6, false, [TAMP_QUAL.STATE, TAMP_QUAL.CHATTER, TAMP_QUAL.RAW, TAMP_QUAL.EDGES, TAMP_QUAL.SHORT]⟩
  | .TAMP_LAST => ⟨.tamper, 0x68, 0, 1, true, [TAMP_LAST.SOURCE, TAMP_LAST.TIME]⟩
  | .FLT_FUNC => ⟨.tamper, 0x70, 8, 2, true, [FLT_FUNC.MAP]⟩
  | .FLT_FUNC_FORCE => ⟨.tamper, 0x80, 0, 1, false, [FLT_FUNC_FORCE.GO, FLT_FUNC_FORCE.FUNC]⟩
  | .FLT_DIRTY_LOST => ⟨.tamper, 0x84, 0, 1, false, [FLT_DIRTY_LOST.COUNT]⟩
  | .FLT_LOG_IDX => ⟨.tamper, 0x88, 0, 1, false, [FLT_LOG_IDX.TOTAL, FLT_LOG_IDX.NEXT]⟩
  | .FLT_LOG => ⟨.tamper, 0x100, 8, 16, true, [FLT_LOG.VALID, FLT_LOG.LEVEL, FLT_LOG.CAUSE, FLT_LOG.TYPE, FLT_LOG.INSTANCE, FLT_LOG.TIME]⟩
  | .TAMP_XIN_CFG => ⟨.tamper, 0x800, 0, 1, false, [TAMP_XIN_CFG.SEAL, TAMP_XIN_CFG.IN3, TAMP_XIN_CFG.IN2, TAMP_XIN_CFG.IN1, TAMP_XIN_CFG.IN0]⟩
  | .TAMP_XSENS_CFG => ⟨.tamper, 0x804, 0, 1, false, [TAMP_XSENS_CFG.TEMP_HI, TAMP_XSENS_CFG.TEMP_LO, TAMP_XSENS_CFG.HBLINE, TAMP_XSENS_CFG.VSRAM, TAMP_XSENS_CFG.VCORE, TAMP_XSENS_CFG.CLK, TAMP_XSENS_CFG.TEMP]⟩
  | .TAMP_XQUAL => ⟨.tamper, 0x808, 0, 1, false, [TAMP_XQUAL.REARM, TAMP_XQUAL.CHATTER_LIM, TAMP_XQUAL.DRAIN]⟩
  | .TILE_SELFTEST => ⟨.tile, 0x80, 0, 1, false, [TILE_SELFTEST.GO, TILE_SELFTEST.SEL]⟩
  | .TILE_SELFTEST_STS => ⟨.tile, 0x84, 0, 1, false, [TILE_SELFTEST_STS.BUSY, TILE_SELFTEST_STS.DONE, TILE_SELFTEST_STS.FAIL, TILE_SELFTEST_STS.RAN, TILE_SELFTEST_STS.FAILED]⟩
  | .PERF_STS => ⟨.perf, 0x40, 0, 1, false, [PERF_STS.SEEDED, PERF_STS.INFLIGHT, PERF_STS.GEN]⟩
  | .PERF_TAG_CFG => ⟨.perf, 0x44, 0, 1, false, [PERF_TAG_CFG.SAMPLE_EN, PERF_TAG_CFG.K]⟩
  | .PERF_TRC_BASE => ⟨.perf, 0x50, 0, 1, true, [PERF_TRC_BASE.BASE]⟩
  | .PERF_TRC_MIRROR => ⟨.perf, 0x58, 0, 1, true, [PERF_TRC_MIRROR.ADDR]⟩
  | .PERF_TRC_CFG => ⟨.perf, 0x60, 0, 1, false, [PERF_TRC_CFG.EN, PERF_TRC_CFG.ERR, PERF_TRC_CFG.SIZE_LOG2]⟩
  | .PERF_TRC_CONS => ⟨.perf, 0x64, 0, 1, false, [PERF_TRC_CONS.INDEX]⟩
  | .PERF_WATCH => ⟨.perf, 0x68, 4, 4, false, [PERF_WATCH.EN, PERF_WATCH.BIT, PERF_WATCH.EVENT]⟩
  | .PERF_CNT => ⟨.perf, 0x400, 8, 128, true, [PERF_CNT.COUNT]⟩
  | .PERF_XFREEZE => ⟨.perf, 0x800, 0, 1, false, [PERF_XFREEZE.FREEZE]⟩
  | .FN_TRC_BASE => ⟨.function, 0xa0, 0, 1, true, [FN_TRC_BASE.BASE]⟩
  | .FN_TRC_MIRROR => ⟨.function, 0xa8, 0, 1, true, [FN_TRC_MIRROR.ADDR]⟩
  | .FN_TRC_CFG => ⟨.function, 0xb0, 0, 1, false, [FN_TRC_CFG.EN, FN_TRC_CFG.ERR, FN_TRC_CFG.SIZE_LOG2]⟩
  | .FN_TRC_CONS => ⟨.function, 0xb4, 0, 1, false, [FN_TRC_CONS.INDEX]⟩
  | .FN_PERF_GEN => ⟨.function, 0xb8, 0, 1, false, [FN_PERF_GEN.GEN]⟩
  | .FN_CNT => ⟨.function, 0x200, 8, 48, true, [FN_CNT.COUNT]⟩
  | .FAB_ERR_ADDR => ⟨.tile, 0xc0, 0, 1, true, [FAB_ERR_ADDR.ADDR]⟩
  | .FAB_ERR_INFO => ⟨.tile, 0xc8, 0, 1, false, [FAB_ERR_INFO.VALID, FAB_ERR_INFO.KIND, FAB_ERR_INFO.OP, FAB_ERR_INFO.PORT, FAB_ERR_INFO.PRIV, FAB_ERR_INFO.FUNC, FAB_ERR_INFO.COUNT]⟩
  | .FAB_LATE => ⟨.tile, 0xcc, 0, 1, false, [FAB_LATE.COUNT]⟩
  | .FAB_OUTSTANDING => ⟨.tile, 0xd0, 0, 1, true, [FAB_OUTSTANDING.READS_3, FAB_OUTSTANDING.READS_2, FAB_OUTSTANDING.READS_1, FAB_OUTSTANDING.READS_0]⟩
  | .FAB_XTMO => ⟨.tile, 0x808, 0, 1, false, [FAB_XTMO.TMO]⟩

/-- Every register of the map, in the order of the chapters. -/
def allRegs : List Reg :=
  ([.TILE_IDENT, .TILE_STATE, .TILE_CMD, .TILE_RESET_CAUSE, .TILE_WINDOW, .TILE_UID, .TILE_FAULT_SUMMARY, .TILE_SCRATCH, .ACCESS_ERR_ADDR, .ACCESS_ERR_INFO, .TILE_WDOG_CTL, .TILE_WDOG_KICK] : List Reg) ++
  ([.TILE_ERR_MODE, .TILE_TRANS_TMO, .QENG_CTL, .QENG_STS, .QENG_RES, .QENG_RR, .QENG_TORN_LAST, .QENG_TORN_CNT, .QENG_FENCED, .QENG_XFETCH, .RQ_BASE, .RQ_CFG] : List Reg) ++
  ([.RQ_SCHED, .RQ_POLL, .RQ_HEAD, .RQ_STS, .RQ_KICK, .RQ_ERR, .RQ_XPREF, .RQ_XDOZE, .RQ_XTORN, .FN_RQ_SEL, .FN_RQ_VIEW, .FN_RQ_HEAD] : List Reg) ++
  ([.FN_RQ_KICK, .FN_RQ_OWNED, .LANE_STS, .LANE_ERR, .LANE_CHECK, .LANE_XINJECT, .LANE_XCHECK, .QUAD_LANE_EN, .QUAD_STS, .QUAD_STAGE_HWM, .QUAD_REPLAY, .QUAD_AFAIL] : List Reg) ++
  ([.QUAD_AFAIL_CNT, .QUAD_XLANE, .CTX_STORE_BASE, .CTX_TREE_BASE, .CTX_CFG, .CTX_STS, .CTX_OCC, .CTX_TREE_INFO, .CTX_CMD, .CTX_CMD_STS, .CTX_SWEEP, .CTX_PN_MARGIN] : List Reg) ++
  ([.CTX_LEARN_BASE, .CTX_LEARN_MIRROR, .CTX_LEARN_CFG, .CTX_LEARN_CONS, .CTX_LEARN_DROP, .CTX_ERR_HANDLE, .CTX_ERR_INFO, .CTX_PN_HANDLE, .CTX_BAD, .CTX_XSWEEP, .CTX_XMISS, .EPOCH_CUR] : List Reg) ++
  ([.EPOCH_PEND, .EPOCH_TIME, .EPOCH_LAST, .EPOCH_CTL, .EPOCH_STS, .EPOCH_ARMED, .EPOCH_EXPECT, .EPOCH_RXOVL, .EPOCH_MISS, .EPOCH_MISS_HANDLE, .EPOCH_XGUARD, .CROWN_STS] : List Reg) ++
  ([.CROWN_POOL, .CROWN_POOL_HWM, .CROWN_STALL_CNT, .CROWN_PTR, .CROWN_XPRIO, .CQ_BASE, .CQ_MIRROR, .CQ_HEAD, .CQ_CFG, .CQ_CONS, .CQ_STS, .CQ_ERR] : List Reg) ++
  ([.CQ_XQUOTA, .CQ_XCOALESCE, .IRQ_CTL, .IRQ_STS, .IRQ_FLUSH, .IRQ_MSG_CNT, .IRQ_PEND, .IRQ_SEL, .IRQ_SEL_STS, .IRQ_VEC_CFG, .IRQ_XFORCE, .FN_CQ_SEL] : List Reg) ++
  ([.FN_CQ_VIEW, .FN_CQ_CONS, .FN_CQ_OWNED, .DG_STS, .DG_SLICE, .DG_HOLD, .DG_HOLD_CNT, .DG_SLOTS, .DG_ERR_INFO, .DG_RES_FUNC, .DG_SAVE_BASE, .DG_SAVE_CTL] : List Reg) ++
  ([.DG_SAVE_STS, .DG_XRESERVE, .DCORE_STS, .DCORE_ERR, .DCORE_CHECK, .DCORE_BLOCKS, .DCORE_XINJECT, .BN_STS, .BN_SLICE, .BN_IDLE, .BN_ERR_INFO, .BN_CHECK] : List Reg) ++
  ([.BN_CHAN_CFG, .BN_XRNG, .BN_XRESPLIT, .BN_XINJECT, .RNG_CELL_EN, .RNG_STS, .RNG_RESEED_CFG, .RNG_RESEED_CNT, .RNG_PRIV_RESERVE, .RNG_HEALTH_CFG, .RNG_TMO, .RNG_CELL_FLAGS] : List Reg) ++
  ([.RNG_SW_DATA, .RNG_EST_CFG, .RNG_RESEEDS, .RNG_CELL_CNT, .RNG_CELL_EST, .RNG_XRAW, .RNG_XRAW_BASE, .RNG_XRAW_STS, .RNG_XCELL, .KEY_STS, .KEY_CMD, .KEY_PORT_STS] : List Reg) ++
  ([.KEY_POUNCE_STS, .KEY_POUNCE_CNT, .KEY_POUNCE_LAST, .KEY_COUNTS, .KEY_SESSION, .KEY_ATT_CHAL, .KEY_ATT_STS, .KEY_ATT_MSG, .KEY_ATT_RESP, .KEY_FGEN, .KEY_XPOUNCE, .KEY_XPORT] : List Reg) ++
  ([.DMA_STS, .DMA_ARB, .DMA_XRECOVER, .DCH_CFG, .DCH_CTL, .DCH_STS, .DCH_ARM, .DCH_SHD_CTL, .DCH_SHD_SRC, .DCH_SHD_DST, .DCH_CUR_CTL, .DCH_CUR_SRC] : List Reg) ++
  ([.DCH_CUR_DST, .DCH_CUR_MOVED, .DCH_ERR, .DCH_LAST, .DCH_RING_BASE, .DCH_RING_HEAD, .DCH_X2D_SRC, .DCH_X2D_DST, .HB_STS, .HB_CELL_EN, .HB_WIRE_IN, .HB_TIME] : List Reg) ++
  ([.HB_TIME_INFO, .HB_TIME_STEP, .HB_CNT, .HB_MSG_TX_DATA, .HB_MSG_TX_HI, .HB_MSG_TX_CTL, .HB_MSG_RX_DATA, .HB_MSG_RX_HI, .HB_MSG_RX_STS, .HB_XTIME, .HB_XCELL, .CLK_STS] : List Reg) ++
  ([.CLK_REF_CFG, .CLK_CMD, .CLK_PLL_EN, .CLK_EN, .CLK_RUN, .CLK_FB_CNT, .CLK_COMPAT, .CLK_RUN_EN, .CLK_SLEEP_EN, .CLK_DEEPSLEEP_EN, .CLK_XMON, .CLK_XSWITCH] : List Reg) ++
  ([.PWR_STS, .PWR_CMD, .PWR_SLEEP, .PWR_WAKE_CFG, .PWR_WAKE_CAUSE, .PWR_PARK, .PWR_PARK_STS, .PWR_FAULT_INFO, .PWR_DOM_ON, .PWR_DOM_RET, .PWR_XSEQ, .TAMP_STS] : List Reg) ++
  ([.TAMP_CMD, .TAMP_QUAL_CLR, .TAMP_SENS_STS, .TAMP_QUAL, .TAMP_LAST, .FLT_FUNC, .FLT_FUNC_FORCE, .FLT_DIRTY_LOST, .FLT_LOG_IDX, .FLT_LOG, .TAMP_XIN_CFG, .TAMP_XSENS_CFG] : List Reg) ++
  ([.TAMP_XQUAL, .TILE_SELFTEST, .TILE_SELFTEST_STS, .PERF_STS, .PERF_TAG_CFG, .PERF_TRC_BASE, .PERF_TRC_MIRROR, .PERF_TRC_CFG, .PERF_TRC_CONS, .PERF_WATCH, .PERF_CNT, .PERF_XFREEZE] : List Reg) ++
  ([.FN_TRC_BASE, .FN_TRC_MIRROR, .FN_TRC_CFG, .FN_TRC_CONS, .FN_PERF_GEN, .FN_CNT, .FAB_ERR_ADDR, .FAB_ERR_INFO, .FAB_LATE, .FAB_OUTSTANDING, .FAB_XTMO] : List Reg)

/-- The number of a register in the map. -/
def Reg.idx (r : Reg) : Nat := r.ctorIdx

/-- The reset value of a register: each field's reset value at its place, every reserved bit zero (R9). -/
def Reg.reset (r : Reg) : W64 :=
  BitVec.ofNat 64 (r.desc.flds.foldl (fun a f => a + f.rst * 2 ^ f.lo) 0)

end Sys2Proof.Machine
end

