-- ==== Sys2Proof/Machine/Tbl.lean ====
section
/-! DEFINITION. Finite tables keyed by numbers, in one canonical form: keys strictly rising and no entry equal to what an
unlisted key reads as, so that equal tables are equal data. -/

namespace Sys2Proof.Machine

/-- A table from numbers to values; a key that is not listed reads as a default that the reader names. -/
abbrev Tbl (α : Type) := List (Nat × α)

/-- What the table holds at key k, d where k is not listed. -/
def Tbl.get {α : Type} (d : α) : Tbl α → Nat → α
  | [], _ => d
  | (j, a) :: t, k => if j = k then a else Tbl.get d t k

/-- The table without key k. -/
def Tbl.del {α : Type} : Tbl α → Nat → Tbl α
  | [], _ => []
  | (j, a) :: t, k => if j = k then Tbl.del t k else (j, a) :: Tbl.del t k

/-- The table with (k, v) put before the first larger key. -/
def Tbl.ins {α : Type} : Tbl α → Nat → α → Tbl α
  | [], k, v => [(k, v)]
  | (j, a) :: t, k, v => if k < j then (k, v) :: (j, a) :: t else (j, a) :: Tbl.ins t k v

/-- The table with v at key k; the value d, which an unlisted key reads as, removes the entry. -/
def Tbl.set {α : Type} [DecidableEq α] (d : α) (t : Tbl α) (k : Nat) (v : α) : Tbl α :=
  if v = d then Tbl.del t k else Tbl.ins (Tbl.del t k) k v

/-- The table with the value at key k changed by f. -/
def Tbl.upd {α : Type} [DecidableEq α] (d : α) (t : Tbl α) (k : Nat) (f : α → α) : Tbl α :=
  Tbl.set d t k (f (Tbl.get d t k))

/-- The table with every listed value changed by f. -/
def Tbl.mapVals {α : Type} [DecidableEq α] (d : α) (f : α → α) (t : Tbl α) : Tbl α :=
  (t.map (fun p => (p.1, f p.2))).filter (fun p => decide (p.2 ≠ d))

/-- Every key of the table is above m, and the keys rise strictly. -/
def Tbl.above {α : Type} : Tbl α → Nat → Bool
  | [], _ => true
  | (j, _) :: t, m => decide (m < j) && Tbl.above t j

/-- The keys rise strictly. -/
def Tbl.rising {α : Type} : Tbl α → Bool
  | [] => true
  | (j, _) :: t => Tbl.above t j

/-- The canonical form: keys strictly rising, no entry equal to what its key reads as when unlisted. -/
def Tbl.wf {α : Type} [DecidableEq α] (d : Nat → α) (t : Tbl α) : Bool :=
  Tbl.rising t && t.all (fun p => decide (p.2 ≠ d p.1))

end Sys2Proof.Machine
end

