-- ==== Sys2Proof/Machine/State.lean ====
section
/-! DEFINITION. Everything the spec gives the tile to hold, as plain data, with the queue of waiting commands. -/

namespace Sys2Proof.Machine

/-! ## Pages, blocks and the tile -/

/-- The block states of R37. -/
inductive BlkState where
  | off | comingUp | on | goingDown | fenced
deriving DecidableEq, Repr

/-- The states of a page's expert lock (R36). -/
inductive Lock where
  | closed | armed | opened
deriving DecidableEq, Repr

/-- A fence that a block takes once its shut-down is over (R37), or that it has taken: PAGE_FENCE's CAUSE, LEVEL and
FORCED (R34). -/
structure FenceRec where
  /-- PAGE_FENCE.CAUSE -/
  cause : Nat
  /-- PAGE_FENCE.LEVEL -/
  level : Nat
  /-- PAGE_FENCE.FORCED -/
  forced : Bool
deriving DecidableEq, Repr

/-- The header of one page (R33, R34, R36, R37, R40). -/
structure Hdr where
  /-- PAGE_STATE.STATE -/
  st : BlkState := .off
  /-- PAGE_STATE.PREV -/
  prev : BlkState := .off
  /-- PAGE_CTL.EN -/
  en : Bool := false
  /-- PAGE_STATE.REARM -/
  rearm : Bool := false
  /-- PAGE_STATE.PWR_WAIT -/
  pwrWait : Bool := false
  /-- PAGE_FAULT -/
  fault : BitVec 16 := 0
  /-- PAGE_FAULT_EN -/
  faultEn : BitVec 16 := 0
  /-- PAGE_EVENT -/
  event : BitVec 32 := 0
  /-- PAGE_EVENT_EN -/
  eventEn : BitVec 32 := 0
  /-- PAGE_LOCK -/
  lock : Lock := .closed
  /-- PAGE_OWNER.VALID -/
  ownerValid : Bool := false
  /-- PAGE_OWNER.FUNC -/
  ownerFunc : BitVec 6 := 0
  /-- PAGE_RETRY.TRANSIENT -/
  transient : BitVec 16 := 0
  /-- PAGE_RETRY.LASTING -/
  lasting : BitVec 16 := 0
  /-- PAGE_FENCE -/
  fence : FenceRec := ⟨0, 0, false⟩
  /-- PAGE_CTL.SOFT_RESET -/
  softReset : Bool := false
  /-- a fence that waits for the end of GOING_DOWN (R37) -/
  pendFence : Option FenceRec := none
deriving DecidableEq, Repr

/-- The tile states of R42. -/
inductive TileState where
  | powerOff | aoOnly | addressed | clocked | bringUp | ready | run | sleep | deepSleep | alarmed | test | fenced
deriving DecidableEq, Repr

/-- The tile as a whole (R25, R42, R43, R44, R334). -/
structure Tile where
  /-- TILE_STATE.STATE -/
  st : TileState := .powerOff
  /-- TILE_STATE.PREV -/
  prev : TileState := .powerOff
  /-- the strap window_base[63:28], sampled when PD0 comes up (R383) -/
  windowBase : BitVec 36 := 0
  /-- the chain address, none while the tile has none (R25) -/
  addr : Option (BitVec 6) := none
  /-- the chain address was cleared by RENUM and not yet assigned again (R279) -/
  renumbered : Bool := false
  /-- an expiry of the watchdog has passed without a kick since (R44) -/
  wdogExpired : Bool := false
  /-- the tile was fenced by the watchdog; WATCHDOG is set when it is brought back (R44) -/
  wdogFenced : Bool := false
  /-- the cause of a tile fence whose sequence runs (R334) -/
  fencing : Option Nat := none
  /-- the cause of the last tile fence, which the TILE page's PAGE_FENCE shows (R34, R406) -/
  fence : FenceRec := ⟨0, 0, false⟩
deriving DecidableEq, Repr

/-- The response codes of the control port (R364). -/
inductive RspCode where
  | ok | err | retry
deriving DecidableEq, Repr

/-- A response on the control port. -/
structure Rsp where
  /-- cp_rsp_code -/
  code : RspCode
  /-- the data of a read, right-justified; zero on a write, ERR or RETRY -/
  rdata : W64
  /-- cp_rsp_tag -/
  tag : BitVec 4
deriving DecidableEq, Repr

/-- The control port (R364). -/
structure Cp where
  /-- the responses of the last command that accesses the port or lets waiting accesses go on, in the order of their acceptance:
  none where the access was dropped or waits -/
  rsp : List Rsp := []
  /-- accesses stalled behind a soft reset, oldest first, with their direction (R40) -/
  stalled : List (Bool × Access) := []
  /-- the high halves latched by a read of the low half of HB_TIME or a counter, by register and instance (R291, R348) -/
  halves : Tbl (Option W32) := []
deriving DecidableEq, Repr

/-! ## Interrupt vectors -/

/-- The moderation timer of a vector (R162). -/
inductive Timer where
  | stopped | running | expired
deriving DecidableEq, Repr

/-- One interrupt vector (R160, R162, R163). -/
structure Vec where
  /-- pending events, saturating at 0xFFFF -/
  count : Nat := 0
  /-- the count captured with the message that waits for the channel -/
  captured : Option Nat := none
  /-- the moderation timer -/
  timer : Timer := .stopped
  /-- a flush or a WAKE event met the vector while its message waited: it is due again once that message is accepted -/
  duePend : Bool := false
  /-- the running flush met the vector while its message waited: the flushed message is the next one (R164) -/
  flushPend : Bool := false
deriving DecidableEq, Repr

/-- The interrupt unit (R160–R165). -/
structure Irq where
  /-- the vectors, by number -/
  vecs : Tbl Vec := []
  /-- vectors whose message waits for the event channel, in sending order -/
  msgs : List Nat := []
  /-- vectors of a running flush whose message the channel has not accepted (R164, R165) -/
  flush : List Nat := []
  /-- V219 is raised at the end of the running flush (R164) -/
  flushAck : Bool := false
  /-- the level of tile_wake_out (R164, R382) -/
  wakeOut : Bool := false
  /-- the last message the event channel accepted (R163, R366) -/
  lastMsg : Option W32 := none
deriving DecidableEq, Repr

/-! ## Descriptors, elements and completions -/

/-- The eight words of a descriptor (R48). -/
structure Desc where
  /-- OWN, GEN, OPCODE, flags, OBJECT -/
  w0 : W64 := 0
  /-- SRC -/
  w1 : W64 := 0
  /-- DST -/
  w2 : W64 := 0
  /-- SRC_LEN, DST_LEN, AUX_LEN -/
  w3 : W64 := 0
  /-- AUX0 -/
  w4 : W64 := 0
  /-- AUX1 -/
  w5 : W64 := 0
  /-- USER_TAG -/
  w6 : W64 := 0
  /-- GEN_ECHO -/
  w7 : W64 := 0
deriving DecidableEq, Repr

/-- The trace tag of a request (R354–R356). -/
structure TraceTag where
  /-- TAG_ME was set: FORCED of the record -/
  forced : Bool := false
  /-- UNIT of the record: lane, digest channel or big-number channel -/
  unit : Nat := 0
  /-- PERF_STS.GEN at the tag decision: the tag ends when the PERF block leaves ON (R349, R358) -/
  gen : Nat := 0
  /-- chain time at the points P0 to P7 that the request has reached -/
  stamps : Tbl Nat := []
deriving DecidableEq, Repr

/-- One element of work on its way through the tile. -/
structure Elem where
  /-- the request queue it came from -/
  rq : Nat := 0
  /-- its ring index -/
  idx : Nat := 0
  /-- the lap its index was accepted in -/
  lap : Nat := 0
  /-- the queue's function, attached at dispatch (R63) -/
  func : Nat := 0
  /-- the bound completion queue -/
  cq : Nat := 0
  /-- its descriptor -/
  d : Desc := {}
  /-- its ordering number, for an ORDERED element (R156) -/
  ord : Option Nat := none
  /-- the chain it belongs to (R59) -/
  chain : Option Nat := none
  /-- its position in the chain -/
  pos : Nat := 0
  /-- the trace tag it carries (R355) -/
  tag : Option TraceTag := none
  /-- its context needed a re-fetch (R111, R148) -/
  refetched : Bool := false
  /-- a frame that has waited in the miss buffer and is to be looked up again (R110 step 7) -/
  waited : Bool := false
deriving DecidableEq, Repr

/-- A completion on its way from a producer to its completion queue (R147, R148). -/
structure Compl where
  /-- the element that ended -/
  elem : Elem := {}
  /-- STATUS -/
  status : Nat := 0
  /-- OUT_LEN -/
  outLen : Nat := 0
  /-- REASON of DETAIL -/
  reason : Nat := 0
  /-- RETRIED of DETAIL -/
  retried : Bool := false
  /-- FLAGS of DETAIL -/
  flags : Nat := 0
  /-- VALUE of DETAIL -/
  value : Nat := 0
  /-- the frame whose DST write responses it waits for (R94, R153) -/
  frame : Option Nat := none
  /-- it is no completion but a vector event of the DMA engine, which producer P24 pushes (R149, R159) -/
  vec : Option Nat := none
deriving DecidableEq, Repr

/-! ## The fabric ports -/

/-- The operations of a fabric request (R369). -/
inductive FabOp where
  | read | write | barrier
deriving DecidableEq, Repr

/-- The attributes of a fabric request (R369, R373). -/
structure Attr where
  /-- req_func -/
  func : Nat := 0
  /-- req_priv -/
  priv : Bool := false
  /-- req_ns -/
  ns : Bool := false
  /-- req_ro -/
  ro : Bool := false
  /-- req_bar -/
  bar : Bool := false
deriving DecidableEq, Repr

/-- What an access of the fabric ends with (R371, R377). -/
inductive FabFail where
  | err | poison | short | timeout
deriving DecidableEq, Repr

/-- One request on a fabric port (R369). -/
structure FabReq where
  /-- req_op -/
  op : FabOp
  /-- req_addr -/
  addr : Nat
  /-- req_bytes -/
  bytes : Nat
  /-- its attributes -/
  attr : Attr
  /-- the bytes written -/
  data : Bytes
  /-- the transfer it is part of -/
  xfer : Nat
  /-- its offset in that transfer -/
  off : Nat
  /-- it is the one retry (R377) -/
  retry : Bool
deriving DecidableEq, Repr

/-- One fabric port (R368, R369, R376). -/
structure Port where
  /-- reads outstanding, by ID -/
  reads : Tbl (Option FabReq) := []
  /-- writes and barriers outstanding, by ID -/
  writes : Tbl (Option FabReq) := []
  /-- requests that wait for a free ID, oldest first -/
  queue : List FabReq := []
  /-- read IDs of timed-out accesses whose response has not come (R376) -/
  deadReads : List Nat := []
  /-- write IDs of timed-out accesses whose response has not come -/
  deadWrites : List Nat := []
deriving DecidableEq, Repr

/-- What a fabric transfer is for, and who takes its end. -/
inductive XKind where
  /-- a group of descriptors of request queue rq, from ring index idx (R54) -/
  | desc (rq idx : Nat)
  /-- SRC bytes of a frame (R71) -/
  | frameSrc (frame : Nat)
  /-- DST bytes of a frame (R94) -/
  | frameDst (frame : Nat)
  /-- SRC, AUX0 or a wrapped blob of an element, for the unit that holds it under job number job -/
  | elemRead (job part : Nat)
  /-- result bytes of an element that completes when they are written -/
  | elemWrite (job : Nat)
  /-- a completion entry at absolute ring position pos of a CQ (R153) -/
  | cqEntry (cq pos : Nat)
  /-- a head mirror of a CQ that publishes position pos (R153) -/
  | cqMirror (cq pos : Nat)
  /-- the record of a context that is paged in (R110) -/
  | ctxRecord (handle : Nat)
  /-- a tree node that a page-in needs (R110) -/
  | treeNode (handle level index : Nat)
  /-- the write-back of a context (R117) -/
  | ctxWriteback (handle : Nat)
  /-- the write-back of a tree node (R117) -/
  | nodeWriteback (level index : Nat)
  /-- a learn record (R123) -/
  | learnRecord
  /-- the learn ring's mirror (R122) -/
  | learnMirror
  /-- the trace record at an absolute position of ring r, in the run-th run of that ring: 64 is the PERF ring, below it F r's
  (R357) -/
  | trace (ring pos run : Nat)
  /-- the mirror of a trace ring in its run-th run -/
  | traceMirror (ring run : Nat)
  /-- a data beat read by a DMA channel -/
  | dmaRead (ch off : Nat)
  /-- a data beat of n bytes written by a DMA channel from offset off -/
  | dmaWrite (ch off n : Nat)
  /-- the descriptor a ring-mode DMA channel reads (R258) -/
  | dmaDesc (ch : Nat)
  /-- the W3 write-back of a DMA descriptor -/
  | dmaW3 (ch : Nat)
  /-- the W0 write-back of a DMA descriptor -/
  | dmaW0 (ch : Nat)
  /-- a BARRIER of a DMA transfer (R263) -/
  | dmaBarrier (ch : Nat)
  /-- a unit of a raw capture (R226) -/
  | rawCapture
  /-- the keyed-digest slot image on its way out (R185) -/
  | slotSave
  /-- the keyed-digest slot image on its way back (R185) -/
  | slotRestore
deriving DecidableEq, Repr

/-- A fabric transfer: the accesses that move one buffer. -/
structure Xfer where
  /-- its number -/
  id : Nat
  /-- what it is for -/
  kind : XKind
  /-- accesses without an outcome -/
  left : Nat
  /-- the bytes read so far, by offset -/
  got : Tbl Bytes := []
  /-- some access needed its retry -/
  retried : Bool := false
  /-- how the first access that failed after its retry ended -/
  failed : Option FabFail := none
  /-- the work it served was aborted: its responses are taken and discarded (R378) -/
  dropped : Bool := false
deriving DecidableEq, Repr

/-- The four fabric ports (R368). -/
structure Fab where
  /-- ports 0 to 3 -/
  ports : Tbl Port := []
  /-- transfers with accesses outstanding, by start -/
  xfers : List Xfer := []
  /-- ended transfers that their unit has not taken yet, oldest first -/
  mail : List Xfer := []
  /-- the number of the next transfer -/
  next : Nat := 0
deriving DecidableEq, Repr

/-! ## The queue engine -/

/-- The states of a request queue (R65). -/
inductive RqState where
  | disabled | active | dozing | held | draining | fenced
deriving DecidableEq, Repr

/-- A descriptor that the queue engine has accepted and not yet issued (R51). -/
structure Accepted where
  /-- its ring index -/
  idx : Nat
  /-- its lap -/
  lap : Nat
  /-- the descriptor copied at acceptance -/
  d : Desc
  /-- its trace tag -/
  tag : Option TraceTag := none
deriving DecidableEq, Repr

/-- What the queue engine keeps for one request queue (R46, R54–R57, R65). -/
structure Rq where
  /-- RQ_STS.STATE -/
  st : RqState := .disabled
  /-- accepted entries, in ring order -/
  acc : List Accepted := []
  /-- entries read, owned for their lap, behind one that is not accepted (R51) -/
  ahead : List (Nat × Desc) := []
  /-- a group of descriptors is being read -/
  fetching : Bool := false
  /-- the last group read was owned throughout: the cache is refilled as entries leave, with no interval (R55) -/
  more : Bool := false
  /-- the poll interval in units of 64 FCLK cycles (R55) -/
  interval : Nat := 0
  /-- consecutive empty polls at MAX_INT (R56) -/
  emptyMax : Nat := 0
  /-- consecutive torn reads of an index, by index (R52) -/
  tornRuns : Tbl Nat := []
  /-- the scheduler's credit (R57) -/
  credit : Int := 0
  /-- WEIGHT and BURST as of the start of the round (R58) -/
  weight : Nat := 1
  burst : Nat := 1
  /-- the next ordering number (R156) -/
  ordNext : Nat := 0
  /-- the ordering number whose completion is released next (R156) -/
  ordRel : Nat := 0
  /-- elements issued whose completions have not reached the crown (RQ_STS.INFLIGHT) -/
  inflight : Nat := 0
  /-- RQ_STS.CBUF_WAIT -/
  cbufWait : Bool := false
  /-- RQ_STS.MISS_HOLD -/
  missHold : Bool := false
  /-- accepting has stopped: the queue is FENCED after a failed fetch and still issues (R64) -/
  fetchFenced : Bool := false
deriving DecidableEq, Repr

/-- A chain under way in the chain sequencer (R59, R60, R15). -/
structure Chain where
  /-- its number -/
  id : Nat
  /-- its elements not yet dispatched, in order -/
  rest : List Elem
  /-- the chain-buffer entry it holds -/
  cbuf : Option Nat := none
  /-- its next element may be dispatched: the predecessor has completed -/
  ready : Bool := false
deriving DecidableEq, Repr

/-- One entry of the chain buffer in key custody (R15). -/
structure CbEntry where
  /-- a chain holds the entry -/
  taken : Bool := false
  /-- the secret, as long as its recorded length -/
  secret : Bytes := []
deriving DecidableEq, Repr

/-- The queue engine. -/
structure Qeng where
  /-- the request queues, by number -/
  rqs : Tbl Rq := []
  /-- the queue that started the present round (QENG_RR.ROUND_START), none before the first -/
  roundStart : Option Nat := none
  /-- the queue the scheduler visits next (QENG_RR.NEXT) -/
  next : Nat := 0
  /-- descriptors that the visit under way may still issue (R57) -/
  visitLeft : Nat := 0
  /-- the unit whose issue is under way: its elements still to be issued, in order, a refused one with its completion (R58,
  R60) -/
  issuing : List (Elem × Option Compl) := []
  /-- elements issued and not yet dispatched, oldest first -/
  issued : List Elem := []
  /-- the chain sequencer -/
  chains : List Chain := []
  /-- the number of the next chain -/
  nextChain : Nat := 0
  /-- the chain buffer (in key custody, R15) -/
  cbuf : Tbl CbEntry := []
deriving DecidableEq, Repr

/-! ## The crown -/

/-- The states of a completion queue (R158). -/
inductive CqState where
  | disabled | on | draining | fenced
deriving DecidableEq, Repr

/-- What the crown keeps for one completion queue (R151–R158). Ring positions are absolute: lap × size + index. -/
structure Cq where
  /-- CQ_STS.STATE -/
  st : CqState := .disabled
  /-- the position the next release takes -/
  nextPos : Nat := 0
  /-- the published position (the last mirror written) -/
  pub : Nat := 0
  /-- the consumer's position -/
  cons : Nat := 0
  /-- released completions held because the ring is full, in index order (R157) -/
  held : List Compl := []
  /-- positions whose entry write has no OK response yet -/
  writing : List Nat := []
  /-- the position a mirror write in flight publishes -/
  mirror : Option Nat := none
  /-- CQ_STS.FULL -/
  full : Bool := false
  /-- grants charged to the queue (R151) -/
  grants : Nat := 0
deriving DecidableEq, Repr

/-- The crown (R149–R157). -/
structure Crown where
  /-- the output FIFOs of the producers P0–P25, oldest first -/
  fifos : Tbl (List Compl) := []
  /-- finished requests of stalled producers, which wait for room in their FIFO, oldest first (R149) -/
  stalled : List (Nat × Compl) := []
  /-- the priority pointer (R150) -/
  ptr : Nat := 0
  /-- accepted completions that wait for order or for DST write responses (R153, R156) -/
  waiting : List Compl := []
  /-- chains of which some elements have been released: the position of the element whose turn is next (R21) -/
  chainPos : Tbl Nat := []
  /-- chains below this number lost completions with the crown's memory: their elements keep no order any more -/
  chainFloor : Nat := 0
  /-- the completion queues, by number -/
  cqs : Tbl Cq := []
deriving DecidableEq, Repr

/-! ## Lanes, quads and frames -/

/-- Where a frame stands (R16, R71, R96). -/
inductive FrameSt where
  /-- its SRC bytes are being read into staging -/
  | reading
  /-- it is in a lane -/
  | inLane
  /-- it waits for a lane to replay it (R96) -/
  | replay
  /-- its completion is pushed; its DST writes are outstanding -/
  | pushed
deriving DecidableEq, Repr

/-- One frame in a quad. -/
structure Frame where
  /-- its number -/
  id : Nat
  /-- its element -/
  elem : Elem
  /-- its quad -/
  quad : Nat
  /-- where it stands -/
  st : FrameSt := .reading
  /-- the lane it is in, or was last in -/
  lane : Nat := 0
  /-- the key slot it was dispatched with: false A, true B (R22) -/
  slotB : Bool := false
  /-- the gen of that slot's key -/
  gen : Nat := 0
  /-- the AN of that slot -/
  an : Nat := 0
  /-- its PN, or sequence number S (R89, R83, R87) -/
  pn : Nat := 0
  /-- staging bytes reserved for it (R71) -/
  resv : Nat := 0
  /-- the input bytes present, by offset -/
  src : Tbl Bytes := []
  /-- it needed no SRC byte more: its missing bytes are being read a second time after a staging error (R100) -/
  reread : Bool := false
  /-- every SRC byte has arrived -/
  complete : Bool := false
  /-- a SRC read failed after its re-read (R94) -/
  failed : Bool := false
  /-- it completed after one automatic retry -/
  retried : Bool := false
  /-- the status its commit decided at a first push (R96) -/
  committed : Option (Nat × Nat) := none
  /-- the lane it erred in, while or after it is replayed (R96) -/
  replayOf : Option Nat := none
  /-- output bytes it holds in the staging bank (R71) -/
  outHeld : Nat := 0
  /-- the lanes its replay may go to, eligible when the error was detected; the erring lane alone where there was none (R96) -/
  replayTo : List Nat := []
  /-- the key and the salt, most significant byte first, that its lane loaded (R76) -/
  key : Bytes × Bytes := ([], [])
  /-- the octets that S1 counts if it completes OK (R104) -/
  octets : Nat := 0
  /-- the check of the lane it erred in has passed: TRANSIENT counts as its replay succeeds (R96) -/
  checkPassed : Bool := false
  /-- it is replayed for an uncorrectable error of the staging bank (R100) -/
  bankErr : Bool := false
deriving DecidableEq, Repr

/-- A lane's check (R96, R99). -/
inductive CheckSt where
  /-- none -/
  | idle
  /-- asked for: the unit takes no new work, finishes what it holds and then runs its pass -/
  | waiting
  /-- the pass runs -/
  | running
  /-- the check period has passed: the pass runs once the lane holds no frame, and until then it takes frames (R99) -/
  | due
deriving DecidableEq, Repr

/-- One lane (R70, R76, R96, R307). -/
structure Lane where
  /-- its frames, oldest first, by number -/
  frames : List Nat := []
  /-- its check -/
  check : CheckSt := .idle
  /-- the check was started by an error of R96 -/
  erring : Bool := false
  /-- the replay of the erring frame failed (R96) -/
  replayFailed : Bool := false
  /-- erring frames that wait for this lane's own check (no other lane eligible, R96) -/
  ownReplay : List Nat := []
  /-- replays of its erring frames that have succeeded while its check after the error is still to come: each counts in TRANSIENT
  if the check passes (R96) -/
  replayedOk : Nat := 0
  /-- parked with its clock stopped (R307) -/
  parked : Bool := false
  /-- its clock is restarting after an unpark (R307) -/
  unparking : Bool := false
  /-- frames accepted since XINJECT.ARM was written (R99) -/
  injectCount : Nat := 0
  /-- the working key register holds no key (LANE_STS.KEY_ZERO, R76) -/
  keyZero : Bool := true
deriving DecidableEq, Repr

/-- One quad (R70, R71, R98, R307). -/
structure Quad where
  /-- bytes held in the staging bank -/
  staged : Nat := 0
  /-- the lane, 0–3, the port chose last (R70) -/
  lastLane : Nat := 3
  /-- V249 was raised in the present AUTH_FAIL window (R98) -/
  afailRaised : Bool := false
  /-- parked with QPLL stopped (R307) -/
  parked : Bool := false
deriving DecidableEq, Repr

/-- The lanes, the quads and the frames in them. -/
structure Frames where
  /-- lanes 0–15 -/
  lanes : Tbl Lane := []
  /-- quads 0–3 -/
  quads : Tbl Quad := []
  /-- frames in the quads, by dispatch -/
  list : List Frame := []
  /-- the number of the next frame -/
  next : Nat := 0
  /-- the quad chosen last, where ties rotate (R63) -/
  lastQuad : Nat := 3
deriving DecidableEq, Repr

/-! ## Work that an engine holds -/

/-- An element that an engine other than a lane holds, with the data read for it. -/
structure Job where
  /-- its number -/
  id : Nat
  /-- the element -/
  elem : Elem
  /-- buffers read so far: 0 SRC, 1 AUX0, 2 AUX1 -/
  parts : Tbl Bytes := []
  /-- buffers whose read is outstanding -/
  need : Nat := 0
  /-- a read failed after its retry -/
  failed : Bool := false
  /-- it needed an automatic retry (R148) -/
  retried : Bool := false
  /-- it waits for its context's page-in -/
  parked : Bool := false
  /-- how far the engine has taken it -/
  phase : Nat := 0
deriving DecidableEq, Repr

/-- A finished element whose result bytes are being written; it completes when their responses return. -/
structure Finish where
  /-- the job whose writes are outstanding -/
  job : Nat
  /-- the producer that pushes the completion -/
  producer : Nat
  /-- the completion, as it is when every write is answered OK -/
  compl : Compl
  /-- the context whose copied counts are cleared when the write is answered OK (R126), with the counts -/
  audit : Option (Nat × List Nat) := none
  /-- the secret that goes to the chain's entry as the completion is pushed (R206) -/
  secret : Bytes := []
deriving DecidableEq, Repr

/-! ## The context store -/

/-- The state of a key slot (R102). -/
inductive SlotSt where
  | empty | armed | active
deriving DecidableEq, Repr

/-- The state of a context (R103). -/
inductive CtxState where
  | empty | live | fenced
deriving DecidableEq, Repr

/-- One key slot of a context with its H powers and its part of line 5 (R102, R104). -/
structure Slot where
  /-- the key, as the line holds it: masked in the cache (R242) -/
  key : BitVec 256 := 0
  /-- the salt -/
  salt : BitVec 96 := 0
  /-- the association number -/
  an : Nat := 0
  /-- the slot's state -/
  st : SlotSt := .empty
  /-- H^1 to H^4 -/
  hpow : BitVec 512 := 0
  /-- NEXT_PN on transmit and raw contexts, LPN (for ESP RIGHT) on receive -/
  pn : Nat := 0
  /-- THRESH -/
  thresh : Nat := 0
  /-- the threshold report of this slot was made (R90) -/
  reported : Bool := false
  /-- which key of the slot this is: each arming counts one -/
  gen : Nat := 0
  /-- earlier keys of the slot, by gen, with their salt and H powers: each is kept until the last frame dispatched with it
  has pushed (R22, R135) -/
  old : Tbl (BitVec 256 × BitVec 96 × BitVec 512) := []
deriving DecidableEq, Repr

/-- A context (R102, R103, R104). -/
structure Ctx where
  /-- VERSION of the last seal -/
  version : Nat := 0
  /-- EPOCH_ID -/
  epochId : Nat := 0
  /-- SCI_SPI -/
  sciSpi : W64 := 0
  /-- SSCI -/
  ssci : W32 := 0
  /-- HANDLE -/
  handle : Nat := 0
  /-- SUITE -/
  suite : Nat := 0
  /-- OWNER -/
  owner : Nat := 0
  /-- STATE -/
  st : CtxState := .empty
  /-- DIR: true is receive -/
  rx : Bool := false
  /-- ACTIVE_SLOT: true is slot B -/
  activeB : Bool := false
  /-- CONF -/
  conf : Bool := false
  /-- SC -/
  sc : Bool := false
  /-- ES -/
  es : Bool := false
  /-- SCB -/
  scb : Bool := false
  /-- ESN -/
  esn : Bool := false
  /-- REPLAY_PROT -/
  replayProt : Bool := false
  /-- CONF_OFFSET, as coded -/
  confOffset : Nat := 0
  /-- slot A -/
  a : Slot := {}
  /-- slot B -/
  b : Slot := {}
  /-- WINDOW -/
  window : Nat := 0
  /-- the ESP replay bitmap -/
  bitmap : BitVec 512 := 0
  /-- the counters S0 to S5 -/
  s0 : W64 := 0
  s1 : W64 := 0
  s2 : W64 := 0
  s3 : W64 := 0
  s4 : W64 := 0
  s5 : W64 := 0
deriving DecidableEq, Repr

/-- The states of a cache way (R115). -/
inductive WaySt where
  | free | filling | live | writing | fenced
deriving DecidableEq, Repr

/-- One way of the context cache (R114, R115). -/
structure Way where
  /-- its state -/
  st : WaySt := .free
  /-- its handle -/
  handle : Nat := 0
  /-- the hit bit -/
  hit : Bool := false
  /-- the age -/
  age : Nat := 0
  /-- the dirty bit -/
  dirty : Bool := false
  /-- the pin count (R74) -/
  pins : Nat := 0
  /-- a retire holds the way (R121 row 5, R125) -/
  retiring : Bool := false
  /-- its write-back serves FLUSH and leaves it LIVE and clean (R127) -/
  flushing : Bool := false
  /-- the write that is out was sealed after FLUSH had marked the way, so that it serves the FLUSH -/
  flushSealed : Bool := false
  /-- its write-back failed and is tried again at each sweep pass (R117, R125) -/
  wbFailed : Bool := false
  /-- the version its running write-back seals (R117) -/
  wbVersion : Nat := 0
  /-- eviction waits for the pin count to fall to 0 (R116) -/
  evictPend : Bool := false
  /-- its pass bit: which of its bank's two keys covers its key lines during a pass (R242) -/
  pass : Bool := false
  /-- the context -/
  ctx : Ctx := {}
deriving DecidableEq, Repr

/-- One tree node in the tree-node cache (R106, R118). -/
structure Node where
  /-- counters C0 to C7 -/
  c : List Nat := []
  /-- changed since it was read or written -/
  dirty : Bool := false
  /-- its write-back is outstanding, sealing this counter in its parent -/
  writing : Option Nat := none
  /-- its last write-back failed after the retry -/
  failed : Bool := false
  /-- when it was last used, for the least recently used choice -/
  used : Nat := 0
deriving DecidableEq, Repr

/-- What a page-in found wrong (R111). -/
inductive PageFail where
  | fabric (f : FabFail)
  /-- a node's MAC, by level -/
  | node (level : Nat)
  /-- the record's tag, a version above the leaf's, or a different handle -/
  | record
  /-- a good record of an older version -/
  | rollback
deriving DecidableEq, Repr

/-- One entry of the miss buffer (R110, R113). -/
structure Miss where
  /-- the handle that is paged in -/
  handle : Nat
  /-- elements that wait for it, in arrival order -/
  waiting : List Elem := []
  /-- it waits for a FREE way (R113) -/
  wayWait : Bool := false
  /-- only the leaf is wanted: for a write-back or RETIRE_HANDLE (R117, R127); or the node of level low -/
  leafOnly : Bool := false
  /-- the lowest level wanted: above 1 a node that was dropped for an error and is read again (R120) -/
  low : Nat := 1
  /-- reads outstanding -/
  reads : Nat := 0
  /-- levels whose node is being read -/
  levels : List Nat := []
  /-- nodes read, by level, as bytes -/
  nodes : Tbl Bytes := []
  /-- the record read -/
  record : Option Bytes := none
  /-- its context is being installed: what waits runs once the install has ended (R119) -/
  installing : Bool := false
  /-- a read failed after its retry: its level, 0 for the record, and how -/
  readFail : Option (Nat × FabFail) := none
  /-- verification has had its one retry (R111) -/
  retried : Bool := false
  /-- what verification decided, once every read is in: none is good -/
  verdict : Option (Option PageFail) := none
deriving DecidableEq, Repr

/-- CTX_STS.STORE (R127). -/
inductive StoreSt where
  | uninit | initialising | ready | flushing
deriving DecidableEq, Repr

/-- A CTX_CMD operation that runs (R127). -/
structure CtxCmd where
  /-- the operation -/
  op : Nat
  /-- the handle of RETIRE_HANDLE -/
  handle : Nat := 0
  /-- the version that the EMPTY record of RETIRE_HANDLE seals, while its write is outstanding -/
  version : Nat := 0
  /-- it has ended with this RESULT; DONE is set at CTX_CMD_DONE -/
  result : Option Nat := none
deriving DecidableEq, Repr

/-- The context store logic (R101–R129). -/
structure CtxUnit where
  /-- CTX_STS.STORE -/
  store : StoreSt := .uninit
  /-- the root counters, in PD0 (R108) -/
  root : List Nat := [0, 0, 0, 0, 0, 0, 0, 0]
  /-- the store salt, in PD0 (R108) -/
  salt : BitVec 128 := 0
  /-- the ways of the cache, by bank × 64 + way -/
  ways : Tbl Way := []
  /-- the tree-node cache, by level × 2^32 + index -/
  nodes : Tbl Node := []
  /-- counters that answered writes have raised while the node that holds them was not cached, for an error had dropped it: by
  the child's key, level 0 a context. The node takes them as it is read again (R117, R120) -/
  owed : Tbl Nat := []
  /-- a running count of node uses (R118) -/
  useClock : Nat := 0
  /-- the miss buffer -/
  misses : List Miss := []
  /-- CTX_RETIRE and CTX_AUDIT elements, in arrival order -/
  jobs : List Job := []
  /-- the running CTX_CMD operation -/
  cmd : Option CtxCmd := none
  /-- a FLUSH that the power sequence or the block's shut-down asked for runs (R128) -/
  autoFlush : Bool := false
  /-- next index of the learn ring, absolute: lap × size + index (R122) -/
  learnPos : Nat := 0
  /-- records written and not consumed are those from here -/
  learnCons : Nat := 0
  /-- a learn record's write is outstanding -/
  learnWriting : Nat := 0
  /-- a learn mirror write is outstanding, publishing this position -/
  learnMirror : Option Nat := none
  /-- the last 64 handles posted, latest first, with the count of 32 QCLK cycles at the post (R123) -/
  learnRecent : List (Nat × Nat) := []
  /-- handles, and nodes as 2^40 plus their cache key, dropped clean for an uncorrectable error: their next read is the one
  retry (R120) -/
  eccDropped : List Nat := []
  /-- fenced cache banks: every request for one of their handles completes FENCED until the CTX block is OFF (R330) -/
  badBanks : List Nat := []
  /-- a dirty node's error could not be listed: every context request completes FENCED until INIT (R120) -/
  allFenced : Bool := false
deriving DecidableEq, Repr

/-! ## Epochs -/

/-- The epoch registers' state beyond their stored values (R136–R142). -/
structure Epoch where
  /-- the pending epoch (what EPOCH_PEND reads) -/
  pend : Nat := 0
  /-- the value written to EPOCH_PEND that the next ARM or SCHED presents (R139) -/
  stored : Nat := 0
  /-- PENDING -/
  pending : Bool := false
  /-- SCHEDULED -/
  scheduled : Bool := false
  /-- the schedule came from a cell (0b01) or the administrator (0b10) -/
  src : Nat := 0
deriving DecidableEq, Repr

/-! ## The digest engine -/

/-- The states of a digest channel (R175). -/
inductive DgSt where
  | free | busy | held | fenced
deriving DecidableEq, Repr

/-- One digest channel (R175). -/
structure DgChan where
  /-- its state -/
  st : DgSt := .free
  /-- the function whose message it holds -/
  owner : Nat := 0
  /-- its algorithm (R170) -/
  alg : Nat := 0
  /-- for an HMAC, the copy of the keyed-digest slot (R175) -/
  keyed : Option (BitVec 1024) := none
  /-- the message absorbed so far: it stands for the chaining or Keccak state, the partial block and the byte count -/
  msg : Bytes := []
  /-- the part that it absorbs -/
  job : Option Job := none
  /-- later parts that wait, in dispatch order (R174) -/
  next : List Job := []
  /-- the core it is on -/
  core : Option Nat := none
  /-- when it began to wait for a core, for the longest-waiting choice (R176) -/
  since : Nat := 0
  /-- a slice of its request was re-run (R183) -/
  rerun : Bool := false
  /-- the big-number channel that a reserved channel serves (R178) -/
  serves : Option Nat := none
deriving DecidableEq, Repr

/-- One digest core (R176, R183, R187). -/
structure DCore where
  /-- the channel on it -/
  chan : Option Nat := none
  /-- its check -/
  check : CheckSt := .idle
  /-- the check follows an error (R183) -/
  erring : Bool := false
  /-- the channel whose slice erred and waits for this core's own check, no other core being ON (R183) -/
  ownRerun : Option Nat := none
  /-- channels that a privileged one has displaced: the last of them resumes on this core as it is released (R177) -/
  after : List Nat := []
  /-- blocks absorbed since XINJECT.ARM was written -/
  injectCount : Nat := 0
deriving DecidableEq, Repr

/-- The state of a keyed-digest slot (R179). -/
inductive KdSt where
  | empty | loading | loaded
deriving DecidableEq, Repr

/-- One keyed-digest slot (R179). -/
structure KdSlot where
  /-- its state -/
  st : KdSt := .empty
  /-- its owner -/
  owner : Nat := 0
  /-- its algorithm -/
  alg : Nat := 0
  /-- the key length of a SHA-3 slot -/
  klen : Nat := 0
  /-- its 128 bytes, masked under the bank's pounce key (R242) -/
  bytes : BitVec 1024 := 0
  /-- its pass bit: which of its bank's two keys covers it during a pass (R242) -/
  pass : Bool := false
deriving DecidableEq, Repr

/-- One RESULT slot (R182). -/
structure ResSlot where
  /-- VALID -/
  valid : Bool := false
  /-- LEN -/
  len : Nat := 0
  /-- the 64 bytes, byte 0 lowest -/
  bytes : BitVec 512 := 0
deriving DecidableEq, Repr

/-- The digest engine (R170–R187). -/
structure Digest where
  /-- the 256 channels -/
  chans : Tbl DgChan := []
  /-- D0–D3 -/
  cores : Tbl DCore := []
  /-- the 4,096 keyed-digest slots -/
  slots : Tbl KdSlot := []
  /-- the 60 RESULT slots -/
  results : Tbl ResSlot := []
  /-- a count that orders waiting channels -/
  clock : Nat := 0
  /-- LOAD, CLEAR and HMAC requests that wait for a slot, in dispatch order (R181) -/
  slotWait : List Job := []
  /-- big-number channels that wait for a reserved channel, in arrival order (R178) -/
  bnWait : List Nat := []
  /-- G, in PD0 (R185) -/
  gen : Nat := 0
  /-- the slot image written at the last save, as its bytes -/
  image : Option Nat := none
  /-- the generation of the last image written (DG_SAVE_STS.GEN, R186) -/
  saved : Nat := 0
deriving DecidableEq, Repr

/-! ## The big-number engine -/

/-- A private key held in a channel's key area as two shares (R190, R202). -/
structure HeldKey where
  /-- its PARAM (R192) -/
  param : Nat
  /-- for an RSA key, the modulus length L -/
  len : Nat := 0
  /-- the first share: the key under the keystream of the seed -/
  share : Bytes := []
  /-- the second share: the mask seed -/
  seed : BitVec 256 := 0
deriving DecidableEq, Repr

/-- What a big-number channel with a request does (R197). -/
inductive BnSt where
  | idle | running | waiting | blocked | fenced
deriving DecidableEq, Repr

/-- One big-number channel (R189, R190, R197). -/
structure BnChan where
  /-- its state -/
  st : BnSt := .idle
  /-- dispatched requests, the running one first -/
  queue : List Job := []
  /-- the held key -/
  key : Option HeldKey := none
  /-- random values delivered for the running request or for a resplit -/
  rnd : Option Bytes := none
  /-- it waits for random values (R200) -/
  rndWait : Bool := false
  /-- a resplit of the held key is due (R202) -/
  resplit : Bool := false
  /-- the seed of that resplit has come while a request uses the key: the resplit follows the request (R202, R208) -/
  splitRnd : Option Bytes := none
  /-- the running request waits for a reserved digest channel or for its output (R178, R200) -/
  hash : Bool := false
  /-- the digest output of the running request is in the scratch (R200) -/
  hashed : Bool := false
  /-- the running request has held its unit (R207) -/
  onUnit : Bool := false
  /-- when it began to wait for its unit -/
  since : Nat := 0
  /-- it was displaced by a privileged channel and resumes first (R199) -/
  displaced : Bool := false
  /-- the running request is being recomputed (R204) -/
  recompute : Bool := false
deriving DecidableEq, Repr

/-- One execution unit of the big-number engine (R188, R204). -/
structure BnUnitSt where
  /-- the channel on it -/
  chan : Option Nat := none
  /-- FENCED -/
  fenced : Bool := false
  /-- its check: asked for, or running -/
  check : CheckSt := .idle
  /-- the channel whose recompute failed on it (R204) -/
  failed : Option Nat := none
deriving DecidableEq, Repr

/-- The big-number engine (R188–R211). -/
structure Bignum where
  /-- BC0–BC63 -/
  chans : Tbl BnChan := []
  /-- the integer array -/
  ia : BnUnitSt := {}
  /-- the NTT unit -/
  ntt : BnUnitSt := {}
  /-- a count that orders waiting channels -/
  clock : Nat := 0
  /-- the check of BN_CHECK.RUN has not ended on: integer array, NTT unit -/
  runIa : Bool := false
  runNtt : Bool := false
  /-- operations completed since XINJECT.ARM was written (R211) -/
  injectCount : Nat := 0
deriving DecidableEq, Repr

/-! ## The random number source -/

/-- One noise cell with its tests (R212–R216). -/
structure NoiseCell where
  /-- it runs: enabled and past the batt boundary that starts it -/
  running : Bool := false
  /-- it waits for its warm-up batt -/
  warm : Bool := true
  /-- passing start-up batts in a row -/
  passes : Nat := 0
  /-- admitted -/
  admitted : Bool := false
  /-- its last batt failed: the next one is the retry -/
  failed : Bool := false
  /-- batts that failed in the present health window -/
  winFails : Nat := 0
  /-- ones and equal neighbours in the present estimate window, with the last bit -/
  ones : Nat := 0
  equal : Nat := 0
  last : Option Bool := none
deriving DecidableEq, Repr

/-- Who asks the expander for a call (R220). -/
inductive RngUse where
  /-- key custody: the store salt of INIT (R108) -/
  | storeSalt
  /-- key custody: the shares of the root latch (R235) -/
  | rootSplit
  /-- key custody: KEY_SESSION, at the first root load (R236) -/
  | session
  /-- key custody: the shares of a root that has come in on the key port (R235) -/
  | rootLoad
  /-- the pounce masker: the new key of a bank (R243) -/
  | pounce (bank : Nat)
  /-- a big-number channel, with the bytes it needs -/
  | bignum (ch n : Nat)
  /-- the resplit of the key that a big-number channel holds (R202) -/
  | resplit (ch : Nat)
  /-- the queue-engine port: the RANDOM request at its head -/
  | random
  /-- the refill of the software port -/
  | swPort
  /-- the seed of the tagging LFSR (R354) -/
  | traceSeed
deriving DecidableEq, Repr

/-- RNG_STS.PHASE (R230). -/
inductive RngPhase where
  | off | warmUp | startTest | instantiate | running | waitCells
deriving DecidableEq, Repr

/-- The random number source (R212–R230). -/
structure Rng where
  /-- N0–N15 -/
  cells : Tbl NoiseCell := []
  /-- the pool, oldest unit first (R215) -/
  pool : List (BitVec 128) := []
  /-- the CTR_DRBG's key and V (R218) -/
  key : BitVec 256 := 0
  v : BitVec 128 := 0
  /-- instantiate has completed -/
  seeded : Bool := false
  /-- the reseed counter (R219) -/
  count : Nat := 0
  /-- RNG_READY -/
  ready : Bool := false
  /-- STRETCHED, ORD_STALL, ALL_STALL -/
  stretched : Bool := false
  ordStall : Bool := false
  allStall : Bool := false
  /-- FORCE waits for its reseed -/
  force : Bool := false
  /-- PHASE -/
  phase : RngPhase := .off
  /-- privileged consumers that wait -/
  privWait : List RngUse := []
  /-- key custody had the last privileged call (the two alternate, R220) -/
  lastKey : Bool := false
  /-- ordinary consumers that wait -/
  ordWait : List RngUse := []
  /-- the ordinary consumer served last, in the order of R220 -/
  lastOrd : Nat := 3
  /-- the software FIFO, oldest word first -/
  swFifo : List W32 := []
  /-- RANDOM requests, in arrival order, with the bytes granted so far to the first -/
  jobs : List Job := []
  granted : Bytes := []
  /-- V194 was raised and no batt has entered the pool since -/
  stallRaised : Bool := false
  /-- V189 was raised in the present health window (R213) -/
  healthRaised : Bool := false
  /-- a raw capture runs: its cell (R226) -/
  raw : Option Nat := none
  /-- units of that capture whose write was issued -/
  rawNext : Nat := 0
deriving DecidableEq, Repr

/-! ## Key custody -/

/-- KEY_STS.PORT_STATE (R253); DISABLED is what it reads in TEST and ALARMED (R232). -/
inductive PortSt where
  | waiting | request | receiving | loaded | retryWait | failed
deriving DecidableEq, Repr

/-- One pounce bank: 0–63 the banks of the context cache, 64–71 those of the keyed-digest slot store (R242). -/
structure Bank where
  /-- the bank's pounce key K; a context bank uses its low 44 bytes -/
  key : BitVec 1024 := 0
  /-- the bank holds a key -/
  held : Bool := false
  /-- the pass bit of the ways or slots that its key K covers -/
  passBit : Bool := false
  /-- the new key K' that has arrived and that the bank has not re-masked itself with -/
  arrived : Option (BitVec 1024) := none
  /-- the present pass or draw has served the bank, or skips it -/
  done : Bool := false
deriving DecidableEq, Repr

/-- A derivation that key custody runs as its own operation (R231, R238). -/
inductive Deriv where
  /-- WRAP and TREE -/
  | storeKeys
  /-- the inner and outer HMAC states of the root (R234) -/
  | rootStates
deriving DecidableEq, Repr

/-- Key custody (R231–R253). -/
structure Key where
  /-- the root latch: the two XOR shares of the 48-byte root -/
  root : Option (Bytes × Bytes) := none
  /-- the root's inner and outer HMAC states are ready -/
  rootStates : Bool := false
  /-- WRAP and TREE -/
  wrap : Option (BitVec 256) := none
  tree : Option (BitVec 256) := none
  /-- derivations that key custody has to run, before any waiting request -/
  derive : List Deriv := []
  /-- PORT_STATE -/
  port : PortSt := .waiting
  /-- the words of the running transfer so far (R233) -/
  words : List W32 := []
  /-- key_req -/
  req : Bool := false
  /-- the next transfer is the retry of the pair (R234) -/
  retry : Bool := false
  /-- an accepted transfer whose shares wait for their random bytes: UID and root (R235) -/
  incoming : Option (Nat × Bytes) := none
  /-- KEY_SESSION was drawn since PD0 came up (R236) -/
  sessionDrawn : Bool := false
  /-- queued requests, in arrival order, the running one first (R231) -/
  jobs : List Job := []
  /-- the message M of the attestation that runs -/
  attest : Option Bytes := none
  /-- the pounce banks -/
  banks : Tbl Bank := []
  /-- a pass runs, or keys are drawn for banks that came up -/
  pouncing : Bool := false
  /-- the draw is no pass: it gives keys to banks that came up without one (R246) -/
  fresh : Bool := false
  /-- the running pass is overdue (R245) -/
  overdue : Bool := false
  /-- no mask is supplied from the pounce keys: FENCE_KEYS keeps them until CLEAR_ALARM (R247) -/
  noMask : Bool := false
deriving DecidableEq, Repr

/-! ## The DMA engine -/

/-- The states of a DMA channel (R270). -/
inductive DchSt where
  | idle | copying | running | ending | halted
deriving DecidableEq, Repr

/-- One DMA channel (R254–R267). -/
structure Dch where
  /-- STATE -/
  st : DchSt := .idle
  /-- the ring entry whose copy is current -/
  curIdx : Option Nat := none
  /-- the ring entry whose copy sits in the shadow set -/
  shdIdx : Option Nat := none
  /-- the read of the ring entry at this index is outstanding -/
  polling : Option Nat := none
  /-- DCH_X2D_SRC and DCH_X2D_DST as sampled at the start (R261) -/
  x2dSrc : W64 := 0
  x2dDst : W64 := 0
  /-- source bytes asked for -/
  rdOff : Nat := 0
  /-- bytes of outstanding read beats -/
  inRead : Nat := 0
  /-- the buffer: bytes read and not yet written, by source offset -/
  buf : Tbl Bytes := []
  /-- bytes handed to write beats -/
  wrOff : Nat := 0
  /-- write beats outstanding -/
  inWrite : Nat := 0
  /-- writes answered OK, by offset, with their length -/
  okW : Tbl Nat := []
  /-- a beat succeeded on its retry -/
  retried : Bool := false
  /-- the lasting error of a beat: true a write (R264) -/
  failed : Option Bool := none
  /-- it has a 2-D side -/
  twoD : Bool := false
  /-- fabric ports that carried a write, as a bit map -/
  ports : Nat := 0
  /-- barriers outstanding -/
  barriers : Nat := 0
  /-- the transfer was refused under R259, with its status -/
  refused : Option Nat := none
  /-- the status the transfer ends with, once the write-back or the status write is due -/
  status : Option Nat := none
  /-- the write-back under way: 1 W3, 2 W0 (R258) -/
  wb : Nat := 0
  /-- W0 of the descriptor that is current, and of the one in the shadow set, as read -/
  w0 : W64 := 0
  shdW0 : W64 := 0
  /-- a reserved bit of W0 or W3 of those descriptors is not zero -/
  bad : Bool := false
  shdBad : Bool := false
  /-- DCH_CUR_MOVED is undefined after DISABLE: the free value it reads (R265) -/
  movedFree : Option Nat := none
deriving DecidableEq, Repr

/-- The DMA engine (R254–R270). -/
structure Dma where
  /-- the channels -/
  chans : Tbl Dch := []
  /-- the channel that had the last read beat, and how many in a row -/
  rdHolder : Nat := 15
  rdRun : Nat := 0
  /-- the channel that had the last write beat, and how many in a row -/
  wrHolder : Nat := 15
  wrRun : Nat := 0
deriving DecidableEq, Repr

/-! ## The Hatband -/

/-- The Hatband transceiver and cell processor, in PD0 (R271–R291). -/
structure Hb where
  /-- HB_STS.UP_SYNC -/
  upSync : Bool := false
  /-- HB_STS.DOWN_TERM -/
  downTerm : Bool := false
  /-- HB_STS.BYPASS -/
  bypass : Bool := false
  /-- chain time in units of 1/16 ns (R280) -/
  time : Nat := 0
  /-- the difference still to be slewed, in units of 1/16 ns (R282) -/
  slew : Int := 0
  /-- units of 32 QCLK cycles counted since PD0 came up; chain time steps do not move it (R123) -/
  ticks : Nat := 0
  /-- nanoseconds counted towards the next slewed one -/
  slewAcc : Nat := 0
  /-- nanoseconds counted towards the next unit of 32 QCLK cycles -/
  nanos : Nat := 0
  /-- a TIME cell has been acted on -/
  timed : Bool := false
  /-- the next TIME cell steps (R282) -/
  mustStep : Bool := false
  /-- HB_STS.TIME_STALE -/
  stale : Bool := false
  /-- hb_in carries HOLD (R283) -/
  holdLine : Bool := false
  /-- inherited holdover has begun, and no TIME cell has ended it -/
  inherited : Bool := false
  /-- holdover of the tile's own has begun, and no TIME cell has ended it -/
  holdover : Bool := false
  /-- the one cell of the tile's own that waits to be sent (R284) -/
  own : Option Cell := none
  /-- the cell of the tile's own that is going out on hb_out (R284, R287) -/
  sending : Option Cell := none
  /-- characters held in the elastic buffer (R284) -/
  elastic : Nat := 0
  /-- received messages, oldest first (R287) -/
  rx : List Cell := []
  /-- the last cell sent on hb_out, with its CRC (R274, R275) -/
  out : Option (Cell × BitVec 16) := none
deriving DecidableEq, Repr

/-! ## Clocks -/

/-- CLK_STS.REF (R316). -/
inductive Ref where
  | none | hbref | sbosc | switching
deriving DecidableEq, Repr

/-- The clock monitors, references and PLLs (R292–R304). -/
structure Clk where
  /-- CLK_STS.SAFE -/
  safe : Bool := false
  /-- CLK_STS.LASTING -/
  lasting : Bool := false
  /-- CLK_STS.REF -/
  ref : Ref := .none
  /-- the reference a switch goes to -/
  target : Ref := .none
  /-- the reference the outgoing switch leaves -/
  from_ : Ref := .none
  /-- HBREF_OK -/
  hbOk : Bool := false
  /-- SBOSC_OK -/
  sbOk : Bool := false
  /-- SBOSC_ON -/
  sbOn : Bool := false
  /-- COUNTING -/
  counting : Bool := false
  /-- MON_BAD -/
  monBad : BitVec 8 := 0
  /-- LOCK -/
  lock : BitVec 6 := 0
  /-- PLLs that were locked before the trip and whose lock the release waits for (R296) -/
  await : BitVec 6 := 0
  /-- PLLs in their one restart (R301) -/
  restart : BitVec 6 := 0
  /-- a fallback is engaged and V212 is due at the release (R297) -/
  fallback : Bool := false
  /-- the switch in progress was forced or is by command: no V212 -/
  commanded : Bool := false
  /-- QPLL stopped by parking (R307) -/
  parkStop : BitVec 6 := 0
  /-- HBREF and SBOSC/4 show edges: their stop detectors have not tripped since they qualified (R295, R299) -/
  hbEdge : Bool := false
  sbEdge : Bool := false
deriving DecidableEq, Repr

/-! ## Power -/

/-- PWR_STS.PHASE (R317). -/
inductive Phase where
  | awake | draining | saving | committed | asleep | waking
deriving DecidableEq, Repr

/-- What the keep holds (R313): writable fields of the pages outside PD0, and the blocks' EN. -/
structure Keep where
  /-- the register file of those pages -/
  regs : Tbl W64
  /-- pages with EN = 1, by page number -/
  en : List Nat
deriving DecidableEq, Repr

/-- The power sequencer (R305–R315). -/
structure Pwr where
  /-- PHASE -/
  phase : Phase := .awake
  /-- PD1 and PD110 are on (R294) -/
  core : Bool := false
  /-- the target is DEEP_SLEEP -/
  deep : Bool := false
  /-- a wake source qualified after COMMITTED and before ASLEEP (R309) -/
  wakeLatched : Bool := false
  /-- KEEP_FAIL -/
  keepFail : Bool := false
  /-- the keep (R313) -/
  keep : Option Keep := none
  /-- the domains are up again in the wake that runs, and READY is not reached yet (R311) -/
  restored : Bool := false
  /-- a tamper event came while the tile slept: the wake ends in ALARMED (R325) -/
  alarmed : Bool := false
  /-- pages whose source bits rose while the tile slept are judged at the wake (R312): page and event bit, or 32 + fault
  bit -/
  latched : List (Nat × Nat) := []
  /-- the entry finishes the save step it has begun and is then abandoned (R309) -/
  abandon : Bool := false
deriving DecidableEq, Repr

/-! ## Tamper -/

/-- The states of a qualifier (R318). -/
inductive QualSt where
  | idle | qualifying | latched | armable
deriving DecidableEq, Repr

/-- One qualifier (R318). -/
structure Qual where
  /-- STATE -/
  st : QualSt := .idle
  /-- CHATTER -/
  chatter : Bool := false
  /-- RAW -/
  raw : Bool := false
  /-- EDGES -/
  edges : Nat := 0
  /-- SHORT -/
  short : Nat := 0
deriving DecidableEq, Repr

/-- The tamper logic (R318–R338). -/
structure Tamp where
  /-- Q0–Q5 -/
  quals : Tbl Qual := []
  /-- sensors whose condition has not been absent for REARM since they latched, by bit of TAMP_SENS_STS (R320) -/
  sensActive : BitVec 4 := 0
  /-- WIPING -/
  wiping : Bool := false
  /-- DRAINING -/
  draining : Bool := false
  /-- the response that runs has its class: as CLASS codes -/
  cls : Nat := 0
  /-- a response runs from step 1 to step 6 of R323 -/
  responding : Bool := false
deriving DecidableEq, Repr

/-! ## Performance and trace -/

/-- One trace ring: ring f for function f, ring 64 the PERF ring (R357). Positions are absolute. -/
structure TrcRing where
  /-- the position the next record takes -/
  pos : Nat := 0
  /-- the consumer's position -/
  cons : Nat := 0
  /-- records written, for SEQ -/
  seq : Nat := 0
  /-- the ring has crossed half full, and full, and not come back -/
  half : Bool := false
  full : Bool := false
  /-- positions whose record write is outstanding -/
  writing : List Nat := []
  /-- the published position -/
  pub : Nat := 0
  /-- a mirror write is outstanding -/
  mirror : Bool := false
  /-- how often the ring has been started: a write under way when its EN was cleared belongs to an earlier run (R358) -/
  run : Nat := 0
deriving DecidableEq, Repr

/-- Performance and trace (R348–R360). The counters are the registers PERF_CNT and FN_CNT. -/
structure Perf where
  /-- the tagging LFSR -/
  lfsr : W32 := 0
  /-- it holds a seed -/
  seeded : Bool := false
  /-- a seed has been drawn and has not arrived -/
  seed : Option W32 := none
  /-- K and SAMPLE_EN as in force (R358) -/
  k : Nat := 16
  /-- the number of the next tag -/
  next : Nat := 0
  /-- tags in flight -/
  inflight : Nat := 0
  /-- the trace rings -/
  rings : Tbl TrcRing := []
deriving DecidableEq, Repr

/-! ## The test wrapper -/

/-- The IEEE 1500 wrapper (R384). -/
structure Wrapper where
  /-- the instruction that acts -/
  code : BitVec 4 := 0
  /-- REFUSED, MBIST_DONE, MBIST_FAIL -/
  refused : Bool := false
  mbistDone : Bool := false
  mbistFail : Bool := false
  /-- the data register being shifted -/
  shift : BitVec 32 := 0
  /-- the level of wso -/
  wso : Bool := false
  /-- the boundary cells drive the ports (WS_EXTEST after an update) -/
  extest : Bool := false
deriving DecidableEq, Repr

/-! ## The machine -/

/-- Everything the tile holds, with the commands that wait for it. -/
structure State where
  /-- the tile state machine -/
  tile : Tile := {}
  /-- the control port -/
  cp : Cp := {}
  /-- the body registers, by register and instance; an unlisted one holds its reset value -/
  regs : Tbl W64 := []
  /-- the page headers, by page number; an unlisted one holds its reset value -/
  hdrs : Tbl Hdr := []
  /-- the interrupt unit -/
  irq : Irq := {}
  /-- the queue engine -/
  qeng : Qeng := {}
  /-- the crown -/
  crown : Crown := {}
  /-- the fabric ports -/
  fab : Fab := {}
  /-- quads, lanes and frames -/
  frames : Frames := {}
  /-- the context store logic -/
  ctx : CtxUnit := {}
  /-- the epoch logic -/
  epoch : Epoch := {}
  /-- the digest engine -/
  digest : Digest := {}
  /-- the big-number engine -/
  bignum : Bignum := {}
  /-- the random number source -/
  rng : Rng := {}
  /-- key custody -/
  key : Key := {}
  /-- the DMA engine -/
  dma : Dma := {}
  /-- the Hatband -/
  hb : Hb := {}
  /-- the clocks -/
  clk : Clk := {}
  /-- the power sequencer -/
  pwr : Pwr := {}
  /-- the tamper logic -/
  tamp : Tamp := {}
  /-- performance and trace -/
  perf : Perf := {}
  /-- the test wrapper -/
  wrap : Wrapper := {}
  /-- elements whose result bytes are being written (R153) -/
  finishes : List Finish := []
  /-- the number of the next job -/
  nextJob : Nat := 0
  /-- the model's own count of free values taken (Config.freeValue) -/
  freeCtr : Nat := 0
  /-- the commands that wait, first in, first out -/
  pending : List Instr := []
deriving DecidableEq, Repr

/-- The tile before vdd_ao qualifies: POWER_OFF, every register at its reset value, no command waiting. -/
def State.reset : State := {}

/-- The ways a step can fault: none, since every case the spec describes has its effect. -/
inductive Fault where
  /-- Not raised: the spec names no event that stops the tile without a state of its own (R42). Safe. -/
  | none
deriving DecidableEq, Repr

/-- The ways a step can be refused. -/
inductive Refusal where
  /-- Raised by an arm of exec that has no meaning yet, under the row's mnemonic. Safe: the run ends there. -/
  | notModelled (mnemonic : String)
deriving DecidableEq, Repr

end Sys2Proof.Machine
end

