-- ==== Sys2Proof/Machine/Ops.lean ====
section
/-! DEFINITION. The named operations over the registers, the page headers, the interrupt vectors, the fault log and the
counters, which every command's meaning is written with. -/

namespace Sys2Proof.Machine

/-! ## The register file -/

/-- The place of instance n of a register in the register file. -/
def regKey (r : Reg) (n : Nat) : Nat := n * 512 + r.idx

/-- The reset value of instance n of a register. IRQ_VEC_CFG of V0–V63 has DEST = 1, that of V64 + f has FUNC = f, and
those of V250–V255 read zero (R168). -/
def Reg.resetAt (r : Reg) (n : Nat) : W64 :=
  if r = .IRQ_VEC_CFG then
    if n < 64 then fset r.reset 29 29 1
    else if n < 128 then fset r.reset 28 23 (n - 64)
    else if n < 250 then r.reset
    else 0
  else r.reset

/-- What an unlisted place of the register file reads as: the reset value of its register. -/
def regDefault (k : Nat) : W64 :=
  match allRegs[k % 512]? with
  | some r => r.resetAt (k / 512)
  | none => 0

/-- The stored value of instance n of a register. -/
def State.reg (s : State) (r : Reg) (n : Nat) : W64 := Tbl.get (r.resetAt n) s.regs (regKey r n)

/-- The state with instance n of a register holding v. -/
def State.setReg (s : State) (r : Reg) (n : Nat) (v : W64) : State :=
  { s with regs := Tbl.set (r.resetAt n) s.regs (regKey r n) v }

/-- The stored value of a field. -/
def State.fld (s : State) (f : Fld) (n : Nat) : Nat := fget (s.reg f.reg n) f.hi f.lo

/-- The state with a field holding x, cut to the field's width. -/
def State.put (s : State) (f : Fld) (n x : Nat) : State :=
  s.setReg f.reg n (fset (s.reg f.reg n) f.hi f.lo x)

/-- A one-bit field as a Bool. -/
def State.flag (s : State) (f : Fld) (n : Nat) : Bool := s.fld f n == 1

/-- The state with a one-bit field set from a Bool. -/
def State.putFlag (s : State) (f : Fld) (n : Nat) (b : Bool) : State := s.put f n (b2n b)

/-- The state with a counting field increased by k and held at the largest value of its width. -/
def State.bump (s : State) (f : Fld) (n k : Nat) : State :=
  s.put f n (satAdd (s.fld f n) k (2 ^ (f.hi - f.lo + 1) - 1))

/-- The state with a register back at its reset value. -/
def State.clearReg (s : State) (r : Reg) (n : Nat) : State := s.setReg r n (r.resetAt n)

/-! ## Pages -/

/-- The number of a page in the window: its offset over 4 KiB (R26). -/
def pageNum (p : PageRef) : Nat :=
  match p.kind with
  | .tile => 0 | .hatband => 1 | .clock => 2 | .power => 3 | .irq => 4 | .tamper => 5 | .rng => 6 | .key => 7
  | .ctx => 8 | .qeng => 9 | .crown => 10 | .digest => 11 | .bignum => 12 | .dma => 13 | .perf => 14 | .result => 15
  | .lane => 16 + p.inst | .quad => 32 + p.inst | .dcore => 48 + p.inst | .dmaChannel => 64 + p.inst
  | .rq => 128 + p.inst | .cq => 144 + p.inst | .function => 256 + p.inst

/-- The page that holds a page number, none where the offset is unmapped (R26). -/
def pageOf (n : Nat) : Option PageRef :=
  if n < 16 then
    ([PageKind.tile, .hatband, .clock, .power, .irq, .tamper, .rng, .key, .ctx, .qeng, .crown, .digest, .bignum, .dma,
      .perf, .result][n]?).map (fun k => ⟨k, 0⟩)
  else if n < 32 then some ⟨.lane, n - 16⟩
  else if n < 36 then some ⟨.quad, n - 32⟩
  else if n < 48 then none
  else if n < 52 then some ⟨.dcore, n - 48⟩
  else if n < 64 then none
  else if n < 80 then some ⟨.dmaChannel, n - 64⟩
  else if n < 128 then none
  else if n < 144 then some ⟨.rq, n - 128⟩
  else if n < 148 then some ⟨.cq, n - 144⟩
  else if n < 256 then none
  else if n < 320 then some ⟨.function, n - 256⟩
  else none

/-- The page numbers of the map (R26). -/
def allPages : List Nat :=
  List.range 36 ++ [48, 49, 50, 51] ++ List.range' 64 16 ++ List.range' 128 16 ++ List.range' 144 4 ++ List.range' 256 64

/-- The page type code (R26). -/
def PageKind.code : PageKind → Nat
  | .tile => 1 | .hatband => 2 | .clock => 3 | .power => 4 | .irq => 5 | .tamper => 6 | .rng => 7 | .key => 8
  | .ctx => 9 | .qeng => 10 | .crown => 11 | .digest => 12 | .bignum => 13 | .dma => 14 | .perf => 15 | .result => 16
  | .lane => 17 | .quad => 18 | .dcore => 19 | .dmaChannel => 20 | .rq => 21 | .cq => 22 | .function => 23

/-- How many instances of a page there are (R26). -/
def PageKind.count : PageKind → Nat
  | .lane => 16 | .quad => 4 | .dcore => 4 | .dmaChannel => 16 | .rq => 16 | .cq => 4 | .function => 64 | _ => 1

/-- The pages TILE, HATBAND, CLOCK, POWER, IRQ and TAMPER, whose headers stand for no block of their own (R406). -/
def PageKind.fixed : PageKind → Bool
  | .tile | .hatband | .clock | .power | .irq | .tamper => true
  | _ => false

/-- The pages that the port keeper serves (R30). -/
def PageKind.keeper : PageKind → Bool
  | .tile | .hatband | .clock | .power | .tamper => true
  | _ => false

/-- The pages that stand for a block with a header of its own (R406). -/
def PageKind.block : PageKind → Bool
  | .rng | .key | .ctx | .qeng | .crown | .digest | .bignum | .dma | .perf | .lane | .quad | .dcore | .dmaChannel => true
  | _ => false

/-- The page whose block state a header shows: QENG for RQ, CQ and FUNCTION pages, DIGEST for RESULT, itself otherwise
(R406). -/
def statePage (p : PageRef) : PageRef :=
  match p.kind with
  | .rq | .cq | .function => ⟨.qeng, 0⟩
  | .result => ⟨.digest, 0⟩
  | _ => p

/-- A header at reset: the fixed pages read ON with EN = 1, FUNCTION page f is owned by F f (R33, R406). -/
def Hdr.resetAt (p : Nat) : Hdr :=
  if p < 6 then { st := .on, en := true }
  else if 256 ≤ p ∧ p < 320 then { ownerValid := true, ownerFunc := BitVec.ofNat 6 (p - 256) }
  else {}

/-- The header of page number p. -/
def State.hdrAt (s : State) (p : Nat) : Hdr := Tbl.get (Hdr.resetAt p) s.hdrs p

/-- The state with the header of page number p. -/
def State.setHdrAt (s : State) (p : Nat) (h : Hdr) : State := { s with hdrs := Tbl.set (Hdr.resetAt p) s.hdrs p h }

/-- The header of a page. -/
def State.hdr (s : State) (p : PageRef) : Hdr := s.hdrAt (pageNum p)

/-- The state with the header of a page. -/
def State.setHdr (s : State) (p : PageRef) (h : Hdr) : State := s.setHdrAt (pageNum p) h

/-- The state with the header of a page changed by f. -/
def State.updHdr (s : State) (p : PageRef) (f : Hdr → Hdr) : State := s.setHdr p (f (s.hdr p))

/-- The state of a page's block (R37, R406). -/
def State.blk (s : State) (p : PageRef) : BlkState := (s.hdr (statePage p)).st

/-- A single page by its kind. -/
def pg (k : PageKind) : PageRef := ⟨k, 0⟩

/-- The block of a single page is ON. -/
def State.isOn (s : State) (p : PageRef) : Bool := s.blk p == .on

/-! ## The tile -/

/-- The code of a tile state in TILE_STATE (R42). -/
def TileState.code : TileState → Nat
  | .powerOff => 0 | .aoOnly => 1 | .addressed => 2 | .clocked => 3 | .bringUp => 4 | .ready => 5 | .run => 6
  | .sleep => 7 | .deepSleep => 8 | .alarmed => 9 | .test => 10 | .fenced => 11

/-- The code of a block state in PAGE_STATE (R33). -/
def BlkState.code : BlkState → Nat
  | .off => 0 | .comingUp => 1 | .on => 2 | .goingDown => 3 | .fenced => 4

/-- The tile sleeps: nothing reaches the event channel, and PD0 events are latched (R312). -/
def State.asleep (s : State) : Bool := s.tile.st == .sleep || s.tile.st == .deepSleep

/-- The domains outside PD0 are in retention or off: the tile sleeps and no wake has brought them up (R306, R311). -/
def State.domainsDown (s : State) : Bool := s.asleep && !s.pwr.restored

/-- The port keeper stands behind the control port (R30, R296, R324). A tile fenced before its core is on has no PD1 either. -/
def State.keeper (s : State) : Bool :=
  s.tile.st == .addressed || s.tile.st == .clocked || s.asleep || ((s.tile.st == .alarmed || s.tile.st == .fenced) && !s.pwr.core) ||
    s.clk.safe

/-- Chain time in nanoseconds (R280). -/
def State.now (s : State) : Nat := s.hb.time / 16 % 2 ^ 64

/-- TILE_STATE.HOLDOVER: holdover of the tile's own or inherited (R283). -/
def State.holdover (s : State) : Bool := s.hb.holdover || s.hb.inherited

/-- The guard before a scheduled flip in nanoseconds (R140). -/
def State.epochGuard (s : State) : Nat := max 256 (s.fld EPOCH_XGUARD.GUARD 0)

/-- EPOCH_STS.CLOSED: a flip is scheduled, and chain time has reached its time less the guard (R140, R146). -/
def State.epochClosed (s : State) : Bool :=
  s.epoch.scheduled && decide (s.fld EPOCH_TIME.TIME 0 ≤ s.now + s.epochGuard)

/-- A raw capture is over, and its cell has to be admitted again (R214, R226). -/
def State.rawEnd (s : State) : State :=
  match s.rng.raw with
  | none => s
  | some c =>
    { s with rng := { s.rng with
      raw := none, rawNext := 0
      cells := Tbl.set {} s.rng.cells c { Tbl.get {} s.rng.cells c with admitted := false, warm := true, passes := 0 } } }

/-- The tile leaves TEST: the wrapper's instruction register returns to WS_BYPASS, its boundary cells release the ports, and
a raw capture stops (R226, R384). -/
def State.leavesTest (s : State) : State :=
  let s := { s with wrap := { s.wrap with code := 0, extest := false } }
  if s.rng.raw.isSome || s.flag RNG_XRAW.EN 0 then s.rawEnd.putFlag RNG_XRAW.EN 0 false else s

/-- The key port drops what it holds: key_req falls, the words and a root that waits for its shares are zeroized. -/
def State.portReset (s : State) : State :=
  { s with
    key := { s.key with port := .waiting, req := false, words := [], retry := false, incoming := none }
    rng := { s.rng with privWait := s.rng.privWait.filter (fun u => u != .rootLoad && u != .session) } }

/-- A condition of R232 does not hold any more: the port is not sampled. -/
def State.portDrops (s : State) : State :=
  if s.key.port == .request || s.key.port == .receiving || s.key.port == .retryWait then s.portReset else s

/-- What the watchdog makes of a change of the tile's state: its count restarts from zero on leaving SLEEP, DEEP_SLEEP and
ALARMED, and WATCHDOG is set when a tile that it fenced is brought back to BRING_UP (R44). -/
def State.wdogFollows (s : State) (old t : TileState) : State :=
  let s := if old == .sleep || old == .deepSleep || old == .alarmed then { s with tile := { s.tile with wdogExpired := false } } else s
  if t == .bringUp && s.tile.wdogFenced then
    ({ s with tile := { s.tile with wdogFenced := false } }).putFlag TILE_RESET_CAUSE.WATCHDOG 0 true
  else s

/-- The tile enters a state; PREV keeps the one it leaves (R42). The headers of the fixed pages follow it into FENCED and
out of it (R406). -/
def State.enterTile (s : State) (t : TileState) : State :=
  let old := s.tile.st
  let s := { s with tile := { s.tile with st := t, prev := old } }
  let s := if old == .test && t != .test then s.leavesTest else s
  let s := if old == .bringUp then s.portDrops else s
  let s := s.wdogFollows old t
  if (old == .fenced) == (t == .fenced) then s
  else
    (List.range 6).foldl
      (fun s p =>
        let h := s.hdrAt p
        s.setHdrAt p { h with
          prev := h.st
          st := if t == .fenced then .fenced else .on
          event := h.event ||| (1 <<< 31) }) s

/-! ## Interrupt vectors -/

/-- One vector. -/
def State.vec (s : State) (v : Nat) : Vec := Tbl.get {} s.irq.vecs v

/-- The state with one vector. -/
def State.setVec (s : State) (v : Nat) (x : Vec) : State :=
  { s with irq := { s.irq with vecs := Tbl.set {} s.irq.vecs v x } }

/-- A vector's message is formed: the count is captured and the timer stops (R162). -/
def State.formMsg (s : State) (v : Nat) : State :=
  let x := s.vec v
  let s := s.setVec v { x with captured := some x.count, timer := .stopped, duePend := false }
  { s with irq := { s.irq with msgs := s.irq.msgs ++ [v] } }

/-- A vector is due under R162. -/
def State.vecDue (s : State) (v : Nat) : Bool :=
  let x := s.vec v
  s.flag IRQ_VEC_CFG.EN v && x.captured.isNone && decide (1 ≤ x.count) &&
    (decide (max 1 (s.fld IRQ_VEC_CFG.COUNT_THR v) ≤ x.count) ||
      (x.timer == .expired && s.fld IRQ_VEC_CFG.TIMER v != 0) || x.duePend)

/-- The messages formed in one CCLK cycle, behind the n that waited before it, are sent in ascending vector number (R163). -/
def State.ascending (s : State) (n : Nat) : State :=
  let l := s.irq.msgs.drop n
  { s with irq := { s.irq with msgs := s.irq.msgs.take n ++ (List.range 250).filter (fun v => l.contains v) } }

/-- A vector is judged: it forms its message when it is due. -/
def State.judge (s : State) (v : Nat) : State := if s.vecDue v then s.formMsg v else s

/-- A vector counts k events (R160). While HOST_SLEEP is 1, a vector with WAKE = 1 drives tile_wake_out high and sends
without moderation (R164). V250–V255 are never raised (R159). -/
def State.countVec (s : State) (v k : Nat) : State :=
  if k = 0 ∨ 250 ≤ v then s
  else
    let x := s.vec v
    let s := s.setVec v { x with
      count := satAdd x.count k 0xFFFF
      timer := if x.timer == .stopped then .running else x.timer }
    if s.flag IRQ_CTL.HOST_SLEEP 0 && s.flag IRQ_VEC_CFG.WAKE v then
      let s := { s with irq := { s.irq with wakeOut := true } }
      if (s.vec v).captured.isSome then s.setVec v { s.vec v with duePend := true }
      else if s.flag IRQ_VEC_CFG.EN v then s.formMsg v
      else s
    else s.judge v

/-- The vector that a block event of a page raises (R159, R161 and the pages' own lists). -/
def eventVec (p : PageRef) (bit : Nat) : Option Nat :=
  match p.kind with
  | .tile => if bit = 0 then some 244 else if bit = 1 then some 242 else none
  | .hatband => [some 203, some 207, some 246, none, none, none, none, none, none, none, none, none, some 208, some 209,
      some 210].getD bit none
  | .clock => if bit = 0 then some 212 else none
  | .power => if bit = 0 then some 220 else if bit = 1 then some 221 else none
  | .irq => if bit = 0 then some 219 else none
  | .tamper => if bit < 4 then some (223 + bit) else if bit = 4 then some 227 else if bit = 5 then some 228 else none
  | .rng => if bit < 8 then some (187 + bit) else none
  | .key => if bit = 0 then some 235 else if bit = 1 then some 234 else if bit = 2 then some 233 else none
  | .ctx => if bit = 0 then some 195 else if bit = 1 then some 199 else if bit = 2 then some 200
      else if bit = 3 then some 202 else if bit = 4 then some 248 else none
  | .crown => if bit < 2 then some 247 else none
  | .digest => if bit < 2 then some 184 else none
  | .bignum => if bit = 0 then some 185 else none
  | .perf => if bit < 3 then some (239 + bit) else none
  | .quad => if bit = 0 then some 249 else none
  | .cq => if bit < 16 then some 237 else none
  | _ => none

/-- The fault vector of a block whose chapter names one for all its faults: the header's fault bits raise it too, the fence at
the limit of R39 among them (R33, R332). -/
def blockVec (p : PageRef) : Option Nat :=
  match p.kind with
  | .lane => some (160 + p.inst)
  | .quad => some (176 + p.inst)
  | .dcore => some (180 + p.inst)
  | .digest => some 184
  | .bignum => some 186
  | .rng => some 188
  | _ => none

/-- The vector that a fault of a page raises: PARITY raises V243, the other bits of the header the block's own fault vector, the
block faults those of R159. -/
def faultVec (p : PageRef) (bit : Nat) : Option Nat :=
  if bit = 2 then some 243
  else if bit < 8 then blockVec p
  else
    match p.kind with
    | .tile => if bit = 8 then some 245 else if bit = 9 then some 229 else if bit = 10 then some 230
        else if bit = 11 then some 231 else if bit = 12 then some 232 else none
    | .hatband => if bit < 11 then some (204 + (bit - 8)) else none
    | .clock => [some 211, some 213, some 214, some 215, some 216].getD (bit - 8) none
    | .power => [some 217, some 218, some 222].getD (bit - 8) none
    | .rng => if bit = 8 then some 188 else none
    | .key => if bit = 8 then some 236 else none
    | .ctx => [some 196, some 197, some 198, some 201].getD (bit - 8) none
    | .qeng => if bit = 8 then some 238 else none
    | .digest => if bit < 10 then some 184 else none
    | .bignum => if bit < 12 then some 186 else none
    | .lane => if bit < 10 then some (160 + p.inst) else none
    | .quad => if bit < 11 then some (176 + p.inst) else none
    | .dcore => if bit < 10 then some (180 + p.inst) else none
    | _ => none

/-- A source bit that rises while the tile sleeps is judged once at the wake, however often it has been cleared and risen (R312). -/
def latchOnce (l : List (Nat × Nat)) (x : Nat × Nat) : List (Nat × Nat) := if l.contains x then l else l ++ [x]

/-- A block event of a page is set. Its vector counts one event if the bit rose while its enable bit is 1 (R160); while
the tile sleeps the rise is latched for the wake (R312). -/
def State.raiseEvent (s : State) (p : PageRef) (bit : Nat) : State :=
  let h := s.hdr p
  if h.event.getLsbD bit then s
  else
    let s := s.setHdr p { h with event := h.event ||| (1 <<< bit) }
    if s.asleep then { s with pwr := { s.pwr with latched := latchOnce s.pwr.latched (pageNum p, bit) } }
    else
      match eventVec p bit with
      | some v => if h.eventEn.getLsbD bit then s.countVec v 1 else s
      | none => s

/-- A fault bit of a page is set, with its vector as for an event. -/
def State.raiseFault (s : State) (p : PageRef) (bit : Nat) : State :=
  let h := s.hdr p
  if h.fault.getLsbD bit then s
  else
    let s := s.setHdr p { h with fault := h.fault ||| (1 <<< bit) }
    if s.asleep then { s with pwr := { s.pwr with latched := latchOnce s.pwr.latched (pageNum p, 32 + bit) } }
    else
      match faultVec p bit with
      | some v => if h.faultEn.getLsbD bit then s.countVec v 1 else s
      | none => s

/-- PAGE_FAULT.SEQ of a page: a control sequence was refused (R33). -/
def State.seq (s : State) (p : PageRef) : State := s.raiseFault p 5

/-- An error of a page cleared on its one retry: PAGE_RETRY.TRANSIENT counts and PAGE_FAULT.TRANSIENT is set (R33,
R329). -/
def State.transient (s : State) (p : PageRef) : State :=
  let s := s.updHdr p (fun h => { h with transient := BitVec.ofNat 16 (satAdd h.transient.toNat 1 0xFFFF) })
  s.raiseFault p 0

/-- An error of a page stayed after its one retry: LASTING counts and PAGE_FAULT.LASTING is set (R33, R329). -/
def State.lasting (s : State) (p : PageRef) : State :=
  let s := s.updHdr p (fun h => { h with lasting := BitVec.ofNat 16 (satAdd h.lasting.toNat 1 0xFFFF) })
  s.raiseFault p 1

/-- A fabric transfer of a unit has ended: an access that cleared on its one retry counts in TRANSIENT of the page that owns
the unit, one that stayed in LASTING (R34, R329). -/
def State.xferRetry (s : State) (p : PageRef) (x : Xfer) : State :=
  if x.failed.isSome then s.lasting p else if x.retried then s.transient p else s

/-! ## Block states -/

/-- STATE_CHG of a header rises. -/
def Hdr.changed (h : Hdr) : Hdr := { h with event := h.event ||| (1 <<< 31) }

/-- The pages whose headers show the state of a block besides its own (R406). -/
def followers (p : PageRef) : List Nat :=
  match p.kind with
  | .qeng => List.range' 128 16 ++ List.range' 144 4 ++ List.range' 256 64
  | .digest => [15]
  | _ => []

/-- A block enters a state: PREV keeps the one it leaves and STATE_CHG is set on every page that shows it (R33, R37). In a
wake the block takes its state up again without a trace of it (R306). -/
def State.setBlk (s : State) (p : PageRef) (st : BlkState) : State :=
  let h := s.hdr p
  if h.st = st then s
  else if s.pwr.phase == .waking then s.setHdr p { h with st := st }
  else
    let s := s.setHdr p ({ h with prev := h.st, st := st, pwrWait := st == BlkState.comingUp }).changed
    (followers p).foldl (fun s n => s.setHdrAt n (s.hdrAt n).changed) s

/-- Initialisation of a block in COMING_UP is complete: ON, and GOING_DOWN in the next cycle if EN reads 0 (R37). -/
def State.upEnds (s : State) (p : PageRef) : State :=
  if (s.hdr p).st != .comingUp then s
  else
    let s := s.setBlk p .on
    if (s.hdr p).en then s else s.setBlk p .goingDown

/-! ## The fault log -/

/-- A record of a fence goes into the log (R335, R338). -/
def State.logFence (s : State) (level cause type inst : Nat) : State :=
  let n := s.fld FLT_LOG_IDX.NEXT 0
  let v := 2 ^ 63 + level % 8 * 2 ^ 60 + cause % 256 * 2 ^ 52 + type % 256 * 2 ^ 44 + inst % 256 * 2 ^ 36 +
    s.now / 1024 % 2 ^ 36
  let s := s.setReg .FLT_LOG n (BitVec.ofNat 64 v)
  let s := s.put FLT_LOG_IDX.NEXT 0 ((n + 1) % 16)
  s.bump FLT_LOG_IDX.TOTAL 0 1

/-! ## Counters -/

/-- The counters run: PERF is ON, the tile is awake and no freeze acts (R348, R349, R359). -/
def State.counting (s : State) : Bool :=
  s.isOn (pg .perf) && !s.asleep && !(s.tile.st == .test && s.flag PERF_XFREEZE.FREEZE 0)

/-- Watch i sees its counter go from a to b: a carry out of bit BIT − 1 sets WATCH (R353). -/
def State.watch (s : State) (e a b i : Nat) : State :=
  let bit := max 1 (s.fld PERF_WATCH.BIT i)
  if s.flag PERF_WATCH.EN i && s.fld PERF_WATCH.EVENT i == e && a / 2 ^ bit != b / 2 ^ bit then
    s.raiseEvent (pg .perf) 0
  else s

/-- Tile event e counts k (R350). -/
def State.perfCount (s : State) (e k : Nat) : State :=
  if s.counting && k != 0 then
    let a := s.fld PERF_CNT.COUNT e
    let s := s.put PERF_CNT.COUNT e (a + k)
    (List.range 4).foldl (fun s i => s.watch e a (a + k) i) s
  else s

/-- Event e of function f counts k (R351). -/
def State.fnCount (s : State) (f e k : Nat) : State :=
  if s.counting && k != 0 then
    s.put FN_CNT.COUNT (f * 48 + e) (s.fld FN_CNT.COUNT (f * 48 + e) + k)
  else s

/-! ## Free values -/

/-- The next free value's index, and the state that has taken it. -/
def State.takeFree (s : State) : Nat × State := (s.freeCtr, { s with freeCtr := s.freeCtr + 1 })

end Sys2Proof.Machine
end

