-- ==== Sys2Proof/Machine/Fabric.lean ====
section
/-! DEFINITION. The fabric ports: transfers cut into accesses, IDs, responses, the one retry, timeouts and the
classification of what remains (R368–R378). -/

namespace Sys2Proof.Machine

/-- One fabric port. -/
def State.port (s : State) (p : Nat) : Port := Tbl.get {} s.fab.ports p

/-- The state with one fabric port. -/
def State.setPort (s : State) (p : Nat) (x : Port) : State :=
  { s with fab := { s.fab with ports := Tbl.set {} s.fab.ports p x } }

/-- The attributes of the tile's own traffic (R369). -/
def ownAttr (ns ro bar : Bool) : Attr := { func := 0, priv := true, ns := ns, ro := ro, bar := bar }

/-- The attributes of traffic of function f (R369, R373). -/
def fnAttr (f : Nat) (ro bar : Bool) : Attr := { func := f, ro := ro, bar := bar }

/-- The accesses of n bytes from address a, none of which crosses a 128-byte boundary: offset, address and length
(R369); fuel bounds their number. -/
def splitRange (fuel a off n : Nat) : List (Nat × Nat × Nat) :=
  match fuel with
  | 0 => []
  | f + 1 =>
    if n = 0 then []
    else
      let k := min n (128 - a % 128)
      (off, a, k) :: splitRange f (a + k) (off + k) (n - k)

/-- The accesses of a range: at most one per 128-byte block it touches. -/
def accesses (a n : Nat) : List (Nat × Nat × Nat) := splitRange (n / 128 + 2) a 0 n

/-- The port that address bits [9:8] choose (R17, R373). -/
def portOf (a : Nat) : Nat := a / 256 % 4

/-- The tile can issue on its fabric ports: PD110 is on and the outputs are not held safe (R372). -/
def State.fabricOn (s : State) : Bool := s.pwr.core && !s.domainsDown && !s.clk.safe

/-- The lowest ID that is neither outstanding nor held by a timed-out access (R369, R376). -/
def freeId (t : Tbl (Option FabReq)) (dead : List Nat) (n : Nat) : Option Nat :=
  firstBelow n (fun i => (Tbl.get none t i).isNone && !dead.contains i)

/-- A request goes out on a port, or waits there for an ID or for the outputs' release (R369, R372). -/
def State.issueReq (s : State) (p : Nat) (q : FabReq) : State :=
  let pt := s.port p
  let wait := s.setPort p { pt with queue := pt.queue ++ [q] }
  if !s.fabricOn then wait
  else
    match q.op with
    | .read =>
      match freeId pt.reads pt.deadReads 1024 with
      | some i => (s.setPort p { pt with reads := Tbl.set none pt.reads i (some q) }).perfCount (81 + p) 1
      | none => wait
    | .write =>
      match freeId pt.writes pt.deadWrites 512 with
      | some i => (s.setPort p { pt with writes := Tbl.set none pt.writes i (some q) }).perfCount (85 + p) 1
      | none => wait
    | .barrier =>
      match freeId pt.writes pt.deadWrites 512 with
      | some i => s.setPort p { pt with writes := Tbl.set none pt.writes i (some q) }
      | none => wait

/-- The requests that wait on a port go out, as far as there are IDs. -/
def State.pumpPort (s : State) (p : Nat) : State :=
  let q := (s.port p).queue
  q.foldl (fun s r => s.issueReq p r) (s.setPort p { s.port p with queue := [] })

/-- Every port sends what waits. -/
def State.pumpPorts (s : State) : State := (List.range 4).foldl (fun s p => s.pumpPort p) s

/-- A new transfer of n accesses; answers its number. -/
def State.newXfer (s : State) (kind : XKind) (n : Nat) : Nat × State :=
  let i := s.fab.next
  (i, { s with fab := { s.fab with next := i + 1, xfers := s.fab.xfers ++ [{ id := i, kind := kind, left := n }] } })

/-- A read of n bytes from an address, through the port named or through those that its addresses choose. -/
def State.startRead (s : State) (kind : XKind) (attr : Attr) (a n : Nat) (port : Option Nat) : Nat × State :=
  let l := accesses a n
  let (i, s) := s.newXfer kind l.length
  (i, l.foldl (fun s x =>
    s.issueReq (port.getD (portOf x.2.1))
      { op := .read, addr := x.2.1, bytes := x.2.2, attr := attr, data := [], xfer := i, off := x.1, retry := false }) s)

/-- A write of bytes to an address, through the port named or through those that its addresses choose. -/
def State.startWrite (s : State) (kind : XKind) (attr : Attr) (a : Nat) (data : Bytes) (port : Option Nat) :
    Nat × State :=
  let l := accesses a data.length
  let (i, s) := s.newXfer kind l.length
  (i, l.foldl (fun s x =>
    s.issueReq (port.getD (portOf x.2.1))
      { op := .write, addr := x.2.1, bytes := x.2.2, attr := attr, data := slice data x.1 x.2.2, xfer := i, off := x.1,
        retry := false }) s)

/-- A barrier request on a port (R263, R374). -/
def State.startBarrier (s : State) (kind : XKind) (attr : Attr) (p : Nat) : State :=
  let (i, s) := s.newXfer kind 1
  s.issueReq p { op := .barrier, addr := 0, bytes := 0, attr := attr, data := [], xfer := i, off := 0, retry := false }

/-- The bytes a transfer read, by offset. -/
def Xfer.bytes (x : Xfer) : Bytes := x.got.flatMap (fun p => p.2)

/-- The KIND of FAB_ERR_INFO (R379). -/
def FabFail.code : FabFail → Nat
  | .err => 1 | .poison => 2 | .short => 3 | .timeout => 4

/-- The code of req_op (R369). -/
def FabOp.code : FabOp → Nat
  | .read => 0 | .write => 1 | .barrier => 2

/-- A failure that remains after its retry is classified: the fault bits, the record and event 93 (R377, R379). -/
def State.classify (s : State) (p : Nat) (q : FabReq) (f : FabFail) : State :=
  let s := s.perfCount 93 1
  let s :=
    if s.flag FAB_ERR_INFO.VALID 0 then s
    else
      let s := s.put FAB_ERR_ADDR.ADDR 0 q.addr
      let s := s.putFlag FAB_ERR_INFO.VALID 0 true
      let s := s.put FAB_ERR_INFO.KIND 0 f.code
      let s := s.put FAB_ERR_INFO.OP 0 q.op.code
      let s := s.put FAB_ERR_INFO.PORT 0 p
      let s := s.putFlag FAB_ERR_INFO.PRIV 0 q.attr.priv
      s.put FAB_ERR_INFO.FUNC 0 q.attr.func
  let s := s.bump FAB_ERR_INFO.COUNT 0 1
  match f, q.op with
  | .timeout, _ => s.raiseFault (pg .tile) 12
  | .poison, .read => (s.raiseFault (pg .tile) 9).raiseFault (pg .tile) 11
  | _, .read => s.raiseFault (pg .tile) 9
  | _, _ => s.raiseFault (pg .tile) 10

/-- One transfer by number. -/
def State.xfer (s : State) (i : Nat) : Option Xfer := s.fab.xfers.find? (fun x => x.id == i)

/-- The state with one transfer changed. -/
def State.updXfer (s : State) (i : Nat) (f : Xfer → Xfer) : State :=
  { s with fab := { s.fab with xfers := s.fab.xfers.map (fun x => if x.id == i then f x else x) } }

/-- The state without a transfer. -/
def State.endXfer (s : State) (i : Nat) : State :=
  { s with fab := { s.fab with xfers := s.fab.xfers.filter (fun x => x.id != i) } }

/-- How an access ended: with its data, or with a failure. -/
inductive FabEnd where
  | good (data : Bytes)
  | bad (f : FabFail)
deriving DecidableEq, Repr

/-- An access of a transfer has ended. A first failure is retried with a new ID, unless the work was aborted; a failure of
the retry is classified. Answers the transfer if this was the last of its accesses (R371, R377, R378). -/
def State.accessEnded (s : State) (p : Nat) (q : FabReq) (e : FabEnd) : Option Xfer × State :=
  match s.xfer q.xfer with
  | none => (none, s)
  | some x =>
    match e with
    | .bad f =>
      if !q.retry && !x.dropped then
        (none, ((s.updXfer q.xfer (fun x => { x with retried := true })).issueReq p { q with retry := true }).perfCount
          (89 + p) 1)
      else
        let s := if x.dropped then s else s.classify p q f
        let x := { x with left := x.left - 1, failed := x.failed <|> some f }
        let s := s.updXfer q.xfer (fun _ => x)
        if x.left = 0 then (if x.dropped then none else some x, s.endXfer q.xfer) else (none, s)
    | .good d =>
      let x := { x with left := x.left - 1, got := if q.op == .read then Tbl.ins x.got q.off d else x.got }
      let s := s.updXfer q.xfer (fun _ => x)
      let s := if q.op == .read then s.perfCount (116 + p) 1 else s
      if x.left = 0 then (if x.dropped then none else some x, s.endXfer q.xfer) else (none, s)

/-- A response with no access outstanding under its ID, whether that access timed out or never was: it is discarded and
counted, and an ID that waited for it is free (R376, R378). -/
def State.lateResponse (s : State) (p : Nat) (write : Bool) (i : Nat) : State :=
  let pt := s.port p
  if !s.fabricOn || (Tbl.get none (if write then pt.writes else pt.reads) i).isSome then s
  else
    let pt := if write then { pt with deadWrites := pt.deadWrites.filter (· != i) }
      else { pt with deadReads := pt.deadReads.filter (· != i) }
    ((s.setPort p pt).bump FAB_LATE.COUNT 0 1).pumpPort p

/-- The ID of a read that has been answered is free. -/
def State.freeRead (s : State) (p i : Nat) : State :=
  s.setPort p { s.port p with reads := Tbl.set none (s.port p).reads i none }

/-- The ID of a write or barrier that has been answered is free. -/
def State.freeWrite (s : State) (p i : Nat) : State :=
  s.setPort p { s.port p with writes := Tbl.set none (s.port p).writes i none }

/-- A read response arrives (R371, R378). Its ID is free once a retry has taken another (R377). -/
def State.readResponse (s : State) (p i : Nat) (resp : BitVec 2) (n : Nat) (data : Bytes) : Option Xfer × State :=
  if !s.fabricOn then (none, s)
  else
    match Tbl.get none (s.port p).reads i with
    | none => (none, s.lateResponse p false i)
    | some q =>
      let e : FabEnd :=
        if resp = 0 then (if n < q.bytes then .bad .short else .good (slice data 0 q.bytes))
        else if resp = 2 then .bad .poison
        else .bad .err
      let (o, s) := s.accessEnded p q e
      (o, (s.freeRead p i).pumpPort p)

/-- A write or barrier response arrives; POISON and the unused code count as ERR (R371). -/
def State.writeResponse (s : State) (p i : Nat) (resp : BitVec 2) : Option Xfer × State :=
  if !s.fabricOn then (none, s)
  else
    match Tbl.get none (s.port p).writes i with
    | none => (none, s.lateResponse p true i)
    | some q =>
      let (o, s) := s.accessEnded p q (if resp = 0 then .good [] else .bad .err)
      (o, (s.freeWrite p i).pumpPort p)

/-- An access has had no response within FAB_XTMO.TMO: it fails, and its ID stays allocated until its response comes
(R376). Time does not advance in the safe state. -/
def State.accessTimeout (s : State) (p : Nat) (write : Bool) (i : Nat) : Option Xfer × State :=
  if !s.fabricOn then (none, s)
  else
    let pt := s.port p
    if write then
      match Tbl.get none pt.writes i with
      | none => (none, s)
      | some q =>
        (s.setPort p { pt with writes := Tbl.set none pt.writes i none, deadWrites := pt.deadWrites ++ [i] }).accessEnded
          p q (.bad .timeout)
    else
      match Tbl.get none pt.reads i with
      | none => (none, s)
      | some q =>
        (s.setPort p { pt with reads := Tbl.set none pt.reads i none, deadReads := pt.deadReads ++ [i] }).accessEnded
          p q (.bad .timeout)

/-- The work of some transfers is aborted: no retry is made for them, requests not yet sent are withdrawn, and the
responses still to come are taken and discarded (R378). -/
def State.dropXfers (s : State) (p : XKind → Bool) : State :=
  let gone (i : Nat) : Bool := s.fab.xfers.any (fun x => x.id == i && p x.kind)
  let queued := s.fab.ports.flatMap (fun pt => pt.2.queue)
  let waiting (i : Nat) : Nat := (queued.filter (fun q => q.xfer == i)).length
  let xs := (s.fab.xfers.map (fun x =>
    if p x.kind then { x with dropped := true, left := x.left - waiting x.id } else x)).filter (fun x => x.left != 0 || !x.dropped)
  let s := { s with fab := { s.fab with xfers := xs, mail := s.fab.mail.filter (fun x => !p x.kind) } }
  (List.range 4).foldl (fun s n =>
    s.setPort n { s.port n with queue := (s.port n).queue.filter (fun q => !gone q.xfer) }) s

/-- An ended transfer waits for the step that takes it. -/
def State.post (s : State) (x : Xfer) : State := { s with fab := { s.fab with mail := s.fab.mail ++ [x] } }

/-- The first ended transfer of a kind, and the state without it. -/
def State.takeMail (s : State) (p : XKind → Bool) : Option (Xfer × State) :=
  (s.fab.mail.find? (fun x => p x.kind)).map (fun x =>
    (x, { s with fab := { s.fab with mail := s.fab.mail.filter (fun y => y.id != x.id) } }))

/-- Some transfer of a kind is outstanding or waits to be taken. -/
def State.xferPending (s : State) (p : XKind → Bool) : Bool :=
  s.fab.xfers.any (fun x => p x.kind && !x.dropped) || s.fab.mail.any (fun x => p x.kind)

end Sys2Proof.Machine
end

