-- ==== Sys2Proof/Machine/Crown.lean ====
section
/-! DEFINITION. The crown's operations: producer FIFOs and acceptance, order, entry and mirror writes, full completion
queues, and the trace records of tagged requests (R147–R158, R355–R357). -/

namespace Sys2Proof.Machine

/-! ## Status codes (R147) -/

def stOk : Nat := 0x00
def stAuthFail : Nat := 0x01
def stReplay : Nat := 0x02
def stPnExhausted : Nat := 0x03
def stNoContext : Nat := 0x04
def stOwnerMismatch : Nat := 0x05
def stLengthMismatch : Nat := 0x06
def stBadOpcode : Nat := 0x07
def stContextIntegrity : Nat := 0x08
def stFabricError : Nat := 0x09
def stFenced : Nat := 0x0A
def stAbortedAlarm : Nat := 0x0B
def stRngUnavailable : Nat := 0x0C
def stChainAborted : Nat := 0x0D
def stKeyNotArmed : Nat := 0x0E
def stBignumFault : Nat := 0x0F
def stInvalidOperand : Nat := 0x10
def stOutputTooSmall : Nat := 0x11
def stRollback : Nat := 0x12

/-! ## Descriptor fields (R48) -/

def Desc.opcode (d : Desc) : Nat := fget d.w0 55 48
def Desc.own (d : Desc) : Bool := fget d.w0 63 63 == 1
def Desc.gen (d : Desc) : Nat := fget d.w0 62 59
def Desc.tagMe (d : Desc) : Bool := fget d.w0 45 45 == 1
def Desc.resultReg (d : Desc) : Bool := fget d.w0 44 44 == 1
def Desc.secretHandoff (d : Desc) : Bool := fget d.w0 43 43 == 1
def Desc.barrier (d : Desc) : Bool := fget d.w0 42 42 == 1
def Desc.ordered (d : Desc) : Bool := fget d.w0 41 41 == 1
def Desc.chain (d : Desc) : Bool := fget d.w0 40 40 == 1
def Desc.object (d : Desc) : Nat := fget d.w0 27 0
def Desc.src (d : Desc) : Nat := d.w1.toNat
def Desc.dst (d : Desc) : Nat := d.w2.toNat
def Desc.srcLen (d : Desc) : Nat := fget d.w3 63 44
def Desc.dstLen (d : Desc) : Nat := fget d.w3 43 24
def Desc.auxLen (d : Desc) : Nat := fget d.w3 23 0
def Desc.aux0 (d : Desc) : Nat := d.w4.toNat
def Desc.aux1 (d : Desc) : Nat := d.w5.toNat
def Desc.genEcho (d : Desc) : Nat := fget d.w7 63 60

/-- The descriptor that 64 bytes of a ring hold (R8, R48). -/
def Desc.ofBytes (b : Bytes) : Desc :=
  let w (i : Nat) : W64 := BitVec.ofNat 64 (leNat (slice b (8 * i) 8))
  { w0 := w 0, w1 := w 1, w2 := w 2, w3 := w 3, w4 := w 4, w5 := w 5, w6 := w 6, w7 := w 7 }

/-- The opcode is one of the frame opcodes. -/
def Desc.isFrame (d : Desc) : Bool := decide (0x10 ≤ d.opcode ∧ d.opcode ≤ 0x17)

/-! ## Trace tags -/

/-- A tagged element is stamped with chain time at a point it reaches, once (R355). -/
def Elem.stamp (e : Elem) (pt now : Nat) : Elem :=
  match e.tag with
  | none => e
  | some t =>
    if t.stamps.any (fun x => x.1 == pt) then e
    else { e with tag := some { t with stamps := Tbl.ins t.stamps pt now } }

/-- An element that ends without running keeps P0 of its stamps alone, whatever it had reached (R355). -/
def Elem.notRun (e : Elem) : Elem :=
  { e with tag := e.tag.map (fun t => { t with stamps := t.stamps.filter (fun x => x.1 == 0) }) }

/-- The tag names the unit that the element ran on (R356). -/
def Elem.onUnit (e : Elem) (u : Nat) : Elem := { e with tag := e.tag.map (fun t => { t with unit := u }) }

/-- Di of a trace record: Pi − P0 in ns, saturating, zero where Pi was not stamped (R356). -/
def TraceTag.delta (t : TraceTag) (i : Nat) : Nat :=
  match t.stamps.find? (fun x => x.1 == i) with
  | none => 0
  | some x => min (x.2 - Tbl.get 0 t.stamps 0) 0xFFFFFFFF

/-- The 64 bytes of a trace record (R356). -/
def traceRecord (c : Compl) (t : TraceTag) (seq : Nat) : Bytes :=
  let e := c.elem
  let valid := mapOf 8 (fun i => t.stamps.any (fun x => x.1 == i))
  let w0 := e.d.opcode * 2 ^ 56 + e.rq * 2 ^ 48 + e.idx * 2 ^ 32 + c.status * 2 ^ 24 + e.func * 2 ^ 18 +
    b2n t.forced * 2 ^ 17 + b2n c.retried * 2 ^ 16 + t.unit % 256 * 2 ^ 8 + valid
  leBytes w0 8 ++ leBytes e.d.w6.toNat 8 ++ leBytes (Tbl.get 0 t.stamps 0) 8 ++
    leBytes (t.delta 1 * 2 ^ 32 + t.delta 2) 8 ++ leBytes (t.delta 3 * 2 ^ 32 + t.delta 4) 8 ++
    leBytes (t.delta 5 * 2 ^ 32 + t.delta 6) 8 ++ leBytes (t.delta 7 * 2 ^ 32) 8 ++ leBytes (seq % 2 ^ 32 * 2 ^ 32) 8

/-- One trace ring: 64 the PERF ring, below it a function's. -/
def State.ring (s : State) (r : Nat) : TrcRing := Tbl.get {} s.perf.rings r

/-- The state with one trace ring. -/
def State.setRing (s : State) (r : Nat) (x : TrcRing) : State :=
  { s with perf := { s.perf with rings := Tbl.set {} s.perf.rings r x } }

/-- A trace ring records: its EN. -/
def State.ringOn (s : State) (r : Nat) : Bool :=
  if r = 64 then s.flag PERF_TRC_CFG.EN 0 else s.flag FN_TRC_CFG.EN r

/-- log2 of a trace ring's size, held between 6 and 16 (R359). -/
def State.ringLog (s : State) (r : Nat) : Nat :=
  min 16 (max 6 (if r = 64 then s.fld PERF_TRC_CFG.SIZE_LOG2 0 else s.fld FN_TRC_CFG.SIZE_LOG2 r))

/-- The base and the mirror address of a trace ring. -/
def State.ringBase (s : State) (r : Nat) : Nat :=
  4096 * (if r = 64 then s.fld PERF_TRC_BASE.BASE 0 else s.fld FN_TRC_BASE.BASE r)
def State.ringMirror (s : State) (r : Nat) : Nat :=
  8 * (if r = 64 then s.fld PERF_TRC_MIRROR.ADDR 0 else s.fld FN_TRC_MIRROR.ADDR r)

/-- The attributes of a trace ring's traffic (R373). -/
def ringAttr (r : Nat) (ro bar : Bool) : Attr := if r = 64 then ownAttr false ro bar else fnAttr r ro bar

/-- The PERF ring's half-full and full events follow its level, once per crossing (R357). -/
def State.ringLevel (s : State) (r : Nat) : State :=
  let x := s.ring r
  let size := 2 ^ s.ringLog r
  let n := x.pos - x.cons
  let half := decide (size / 2 ≤ n)
  let full := decide (size - 1 ≤ n)
  let s := s.setRing r { x with half := half, full := full }
  if r = 64 then
    let s := if half && !x.half then s.raiseEvent (pg .perf) 1 else s
    if full && !x.full then s.raiseEvent (pg .perf) 2 else s
  else s

/-- A record goes to a trace ring that is enabled, or is dropped and counted when the ring is full (R357). -/
def State.traceTo (s : State) (r : Nat) (c : Compl) (t : TraceTag) : State :=
  if !s.ringOn r || !s.isOn (pg .perf) then s
  else
    let x := s.ring r
    let size := 2 ^ s.ringLog r
    if size - 1 ≤ x.pos - x.cons then
      let s := s.perfCount 127 1
      if r < 64 then s.fnCount r 45 1 else s
    else
      let s := s.setRing r { x with pos := x.pos + 1, seq := x.seq + 1, writing := x.writing ++ [x.pos] }
      let (_, s) := s.startWrite (.trace r x.pos x.run) (ringAttr r true false) (s.ringBase r + 64 * (x.pos % size))
        (traceRecord c t (x.seq + 1)) none
      s.ringLevel r

/-- Tags of elements that leave without a completion end: those of the present generation are not in flight any more (R354,
R358). -/
def State.untag (s : State) (l : List (Option TraceTag)) : State :=
  let g := s.fld PERF_STS.GEN 0
  let n := (l.filter (fun t => t.any (fun t => t.gen == g))).length
  { s with perf := { s.perf with inflight := s.perf.inflight - n } }

/-- A tagged element has ended: its record goes to the PERF ring, and to its function's unless the entry was discarded or
the function is fenced (R356, R358). -/
def State.traceEnd (s : State) (c : Compl) (discarded : Bool) : State :=
  match c.elem.tag with
  | none => s
  | some t =>
    if t.gen != s.fld PERF_STS.GEN 0 then s
    else
    let s := { s with perf := { s.perf with inflight := s.perf.inflight - 1 } }
    let s := s.traceTo 64 c t
    let f := c.elem.func
    if discarded || bitAt (s.fld FLT_FUNC.MAP (f / 32)) (f % 32) then s else s.traceTo f c t

/-- The completions of elements that the crown holds and has issued no write for: in the FIFOs, stalled, waiting for their
turn, and held by a full CQ. -/
def State.unwritten (s : State) : List Compl :=
  (s.crown.fifos.flatMap (fun p => p.2) ++ s.crown.stalled.map (fun p => p.2)).filter (fun k => k.vec.isNone) ++
    s.crown.waiting ++ s.crown.cqs.flatMap (fun c => c.2.held)

/-- Completions are discarded unwritten: the tagged ones end with a record that says so (R356, R358). -/
def State.traceDiscard (s : State) (ks : List Compl) : State := ks.foldl (fun s k => s.traceEnd k true) s

/-! ## Request queues and completion queues, as the crown needs them -/

/-- One request queue. -/
def State.rq (s : State) (q : Nat) : Rq := Tbl.get {} s.qeng.rqs q

/-- The state with one request queue. -/
def State.setRq (s : State) (q : Nat) (x : Rq) : State :=
  { s with qeng := { s.qeng with rqs := Tbl.set {} s.qeng.rqs q x } }

/-- The state with one request queue changed. -/
def State.updRq (s : State) (q : Nat) (f : Rq → Rq) : State := s.setRq q (f (s.rq q))

/-- The head of a queue is not held for the miss buffer any more: the request that was held goes on or has ended (R19, R113). -/
def State.unhold (s : State) (q : Nat) : State := s.updRq q (fun x => { x with missHold := false })

/-- No queue is held for the miss buffer: an entry of it has become free (R113). -/
def State.unholdAll (s : State) : State :=
  { s with qeng := { s.qeng with rqs := Tbl.mapVals {} (fun (x : Rq) => { x with missHold := false }) s.qeng.rqs } }

/-- One completion queue. -/
def State.cq (s : State) (c : Nat) : Cq := Tbl.get {} s.crown.cqs c

/-- The state with one completion queue. -/
def State.setCq (s : State) (c : Nat) (x : Cq) : State :=
  { s with crown := { s.crown with cqs := Tbl.set {} s.crown.cqs c x } }

/-- The state with one completion queue changed. -/
def State.updCq (s : State) (c : Nat) (f : Cq → Cq) : State := s.setCq c (f (s.cq c))

/-- log2 of a request ring's size, held between 6 and 16 (R45, R68). -/
def State.rqLog (s : State) (q : Nat) : Nat := min 16 (max 6 (s.fld RQ_CFG.SIZE_LOG2 q))

/-- log2 of a completion ring's size, held between 6 and 16 (R152, R167). -/
def State.cqLog (s : State) (c : Nat) : Nat := min 16 (max 6 (s.fld CQ_CFG.SIZE_LOG2 c))

/-- The request queues that are not DISABLED, ascending. -/
def State.liveRqs (s : State) : List Nat :=
  (s.qeng.rqs.filter (fun p => p.2.st != .disabled)).map (fun p => p.1)

/-- The request queues bound to a CQ that are not DISABLED. -/
def State.boundRqs (s : State) (c : Nat) : List Nat := s.liveRqs.filter (fun q => s.fld RQ_CFG.CQ q == c)

/-- Elements of a queue belong to the unit whose issue is under way. -/
def State.issuingOf (s : State) (q : Nat) : Bool := s.qeng.issuing.any (fun e => e.1.rq == q)

/-- A transfer reads descriptors of a queue. -/
def XKind.descOf (q : Nat) : XKind → Bool
  | .desc r _ => r == q
  | _ => false

/-- A DRAINING queue whose accepted entries are issued and whose completions have reached the crown becomes DISABLED; a
descriptor read still under way is abandoned (R65). -/
def State.rqDrainEnd (s : State) (q : Nat) : State :=
  let x := s.rq q
  if x.st == .draining && x.acc.isEmpty && x.inflight == 0 && !s.issuingOf q then
    (s.dropXfers (fun k => k.descOf q)).setRq q { x with st := .disabled, credit := 0, fetching := false }
  else s

/-- A DRAINING CQ whose grants have returned and whose mirror is published becomes DISABLED (R158). -/
def State.cqDrainEnd (s : State) (c : Nat) : State :=
  let x := s.cq c
  if x.st == .draining && x.grants == 0 && x.held.isEmpty && x.writing.isEmpty && x.mirror.isNone && x.pub == x.nextPos
  then s.setCq c { x with st := .disabled }
  else s

/-! ## Grants (R151) -/

/-- Slots granted at once over all CQs. -/
def State.granted (s : State) : Nat := (s.crown.cqs.map (fun p => p.2.grants)).sum

/-- The most grants a CQ may hold. -/
def State.cqQuota (s : State) (c : Nat) : Nat := min 10240 (max 16 (s.fld CQ_XQUOTA.SLOTS c))

/-- The crown can grant k slots charged to a CQ. While it is not ON it grants none (R165). -/
def State.canGrant (s : State) (c k : Nat) : Bool :=
  s.isOn (pg .crown) && decide ((s.cq c).grants + k ≤ s.cqQuota c) && decide (s.granted + k ≤ 10240)

/-- k slots are granted to a CQ. -/
def State.grant (s : State) (c k : Nat) : State :=
  let s := s.updCq c (fun x => { x with grants := x.grants + k })
  if s.fld CROWN_POOL_HWM.HWM 0 < s.granted then s.put CROWN_POOL_HWM.HWM 0 s.granted else s

/-- A grant of a CQ returns. -/
def State.ungrant (s : State) (c : Nat) : State :=
  (s.updCq c (fun x => { x with grants := x.grants - 1 })).cqDrainEnd c

/-! ## Producer FIFOs (R149) -/

/-- The FIFO of a producer, oldest first. -/
def State.fifo (s : State) (p : Nat) : List Compl := Tbl.get [] s.crown.fifos p

/-- The state with the FIFO of a producer. -/
def State.setFifo (s : State) (p : Nat) (l : List Compl) : State :=
  { s with crown := { s.crown with fifos := Tbl.set [] s.crown.fifos p l } }

/-- A completion enters the FIFO of its producer: P6 (R355). -/
def Compl.pushed (c : Compl) (now : Nat) : Compl := { c with elem := c.elem.stamp 6 now }

/-- A producer pushes a completion: into its FIFO, or it stalls while the FIFO is full. A FIFO that becomes full sets
BACKPRESSURE (R149, R166). A status other than OK reports OUT_LEN 0 (R147). -/
def State.push (s : State) (p : Nat) (c : Compl) : State :=
  let c := { c with
    outLen := if c.status = 0 then c.outLen else 0
    retried := c.retried || c.elem.refetched }
  let l := s.fifo p
  if l.length < 8 then
    let s := s.setFifo p (l ++ [c.pushed s.now])
    if l.length = 7 then s.raiseEvent (pg .crown) 0 else s
  else { s with crown := { s.crown with stalled := s.crown.stalled ++ [(p, c)] } }

/-- A producer holds a finished request that its full FIFO cannot take: it takes no new work (R149). -/
def State.stalling (s : State) (p : Nat) : Bool := s.crown.stalled.any (fun x => x.1 == p)

/-- The DMA engine pushes a vector event (R149, R159). -/
def State.pushEvent (s : State) (v : Nat) : State := s.push 24 { vec := some v }

/-- The producer of a stalled completion pushes as room appears; a FIFO that becomes full again sets BACKPRESSURE. -/
def State.unstall (s : State) : State :=
  let st := s.crown.stalled
  let s := { s with crown := { s.crown with stalled := [] } }
  st.foldl (fun s pc =>
    let l := s.fifo pc.1
    if l.length < 8 then
      let s := s.setFifo pc.1 (l ++ [pc.2.pushed s.now])
      if l.length = 7 then s.raiseEvent (pg .crown) 0 else s
    else { s with crown := { s.crown with stalled := s.crown.stalled ++ [pc] } }) s

/-- The push of a completion that is nothing but a status, through producer p. -/
def State.pushStatus (s : State) (p : Nat) (e : Elem) (status : Nat) : State :=
  s.push p { elem := e, status := status }

/-! ## Entries and mirrors -/

/-- The 32 bytes of a completion entry written at a chain time (R147, R148). -/
def entryBytes (c : Compl) (now : Nat) : Bytes :=
  let e := c.elem
  let w0 := e.rq * 2 ^ 48 + e.idx * 2 ^ 32 + c.status * 2 ^ 24 + c.outLen % 2 ^ 24
  let w2 := c.reason % 256 * 2 ^ 56 + b2n c.retried * 2 ^ 55 + c.flags % 128 * 2 ^ 48 + c.value % 2 ^ 48
  leBytes w0 8 ++ leBytes e.d.w6.toNat 8 ++ leBytes w2 8 ++ leBytes now 8

/-- The function counter of a completion's status (R351). -/
def statusEvent (st : Nat) : Nat :=
  if st = stOk then 3 else if st = stAuthFail then 4 else if st = stReplay then 5 else if st = stNoContext then 6
  else if st = stOwnerMismatch then 7 else if st = stLengthMismatch ∨ st = stOutputTooSmall then 8
  else if st = stBadOpcode ∨ st = stChainAborted then 9 else 10

/-- The crown issues the write of an entry at an absolute ring position (R152, R153). -/
def State.writeEntry (s : State) (c pos : Nat) (k : Compl) : State :=
  let k := { k with elem := k.elem.stamp 7 s.now }
  let size := 2 ^ s.cqLog c
  let a := 4096 * s.fld CQ_BASE.BASE c + 32 * (pos % size)
  let s := s.updCq c (fun x => { x with writing := x.writing ++ [pos] })
  let f := s.fld CQ_CFG.FUNC c
  let (_, s) := s.startWrite (.cqEntry c pos) (fnAttr f true false) a (entryBytes k s.now) none
  let s := s.perfCount 65 1
  let s := s.perfCount (if k.status = stAuthFail then 71 else if k.status = stReplay then 72 else 73) (b2n (k.status != 0))
  let e := k.elem.func
  let s := s.fnCount e 2 1
  let s := s.perfCount 55 (b2n (k.status == stNoContext))
  let s := s.fnCount e (statusEvent k.status) 1
  let s := s.fnCount e 41 (b2n k.retried)
  let s := s.fnCount e 46 (b2n (k.status == stFabricError))
  let s := s.fnCount e 47 (b2n (k.status == stFenced))
  s.traceEnd k false

/-- Entries written and not consumed of a CQ (R152). -/
def Cq.outstanding (x : Cq) : Nat := x.nextPos - x.held.length - x.cons

/-- FULL of a CQ changes: the bound queues go to HELD, or return to ACTIVE (R65, R157). -/
def State.setFull (s : State) (c : Nat) (full : Bool) : State :=
  let s := s.updCq c (fun x => { x with full := full })
  (s.boundRqs c).foldl (fun s q =>
    s.updRq q (fun x =>
      if full && x.st == .active then { x with st := .held }
      else if !full && x.st == .held then { x with st := .active }
      else x)) s

/-- A completion is released: it takes the next index of its CQ, and its entry is written, or held while the CQ is full
(R153, R157). For a fenced CQ the entry is discarded and its grant returns (R155, R333). -/
def State.release (s : State) (k : Compl) : State :=
  let c := k.elem.cq
  let x := s.cq c
  if x.st == .fenced || x.st == .disabled then (s.ungrant c).traceEnd k true
  else
    let s := s.setCq c { x with nextPos := x.nextPos + 1 }
    if !x.held.isEmpty then (s.updCq c (fun x => { x with held := x.held ++ [k] })).fnCount k.elem.func 35 1
    else if x.outstanding + 1 ≤ 2 ^ s.cqLog c - 1 then s.writeEntry c x.nextPos k
    else
      let s := s.updCq c (fun x => { x with held := [k] })
      let s := s.fnCount k.elem.func 35 1
      let s := s.bump CQ_ERR.STALLS c 1
      let s := s.raiseEvent ⟨.cq, c / 16⟩ (c % 16)
      let s := s.raiseEvent (pg .crown) 1
      s.setFull c true

/-- Held entries of a CQ are written in index order as far as there is space; FULL clears when none remain held and an
entry is free (R157). fuel bounds the entries written. -/
def State.writeHeld (s : State) (c : Nat) : Nat → State
  | 0 => s
  | fuel + 1 =>
    let x := s.cq c
    match x.held with
    | [] =>
      if x.full && decide (x.outstanding < 2 ^ s.cqLog c - 1) then s.setFull c false else s
    | k :: rest =>
      if x.outstanding + 1 ≤ 2 ^ s.cqLog c - 1 then
        ((s.setCq c { x with held := rest }).writeEntry c (x.nextPos - x.held.length) k).writeHeld c fuel
      else s

/-- The element is the last of its chain (R60). -/
def Elem.lastOfChain (e : Elem) : Bool := !e.d.chain || e.pos == 7

/-- Every earlier element of its chain has been released: the entries of a chain are written in element order (R21, R60). -/
def State.chainTurn (s : State) (e : Elem) : Bool :=
  match e.chain with
  | none => true
  | some c => decide (c < s.crown.chainFloor) || Tbl.get 0 s.crown.chainPos c == e.pos

/-- An element of a chain is released: the next one has its turn. -/
def State.chainReleased (s : State) (e : Elem) : State :=
  match e.chain with
  | none => s
  | some c =>
    { s with crown := { s.crown with
      chainPos := Tbl.set 0 s.crown.chainPos c (if e.lastOfChain || decide (c < s.crown.chainFloor) then 0 else e.pos + 1) } }

/-- The ordering number of an element has its turn, or it has none (R156). -/
def State.orderTurn (s : State) (e : Elem) : Bool :=
  match e.ord with
  | none => true
  | some o => o == (s.rq e.rq).ordRel

/-- A waiting completion may be released: its DST write responses are in, it is unordered or its turn has come, and so has
its turn in its chain (R21, R153, R156). -/
def State.releasable (s : State) (k : Compl) : Bool := k.frame.isNone && s.orderTurn k.elem && s.chainTurn k.elem

/-- Every waiting completion that may be released is released, ORDERED ones of one queue in number order; fuel bounds
their number. -/
def State.releaseAll (s : State) : Nat → State
  | 0 => s
  | fuel + 1 =>
    match s.crown.waiting.findIdx? (fun k => s.releasable k) with
    | none => s
    | some i =>
      match s.crown.waiting[i]? with
      | none => s
      | some k =>
        let s := { s with crown := { s.crown with waiting := s.crown.waiting.eraseIdx i } }
        let s := match k.elem.ord with
          | none => s
          | some o => s.updRq k.elem.rq (fun x => { x with ordRel := (o + 1) % 65536 })
        ((s.chainReleased k.elem).release k).releaseAll fuel

/-- Waiting completions are released as far as they may be. -/
def State.releaseWaiting (s : State) : State := s.releaseAll (s.crown.waiting.length + 1)

/-- The position that a head mirror could publish: every entry below it has its OK (R153). -/
def Cq.qualified (x : Cq) : Nat := x.writing.foldl min (x.nextPos - x.held.length)

/-- The crown writes the head mirror of a CQ that has something new to publish and no mirror write in flight (R153). -/
def State.issueMirror (s : State) (c : Nat) : State :=
  let x := s.cq c
  let pos := x.qualified
  if (x.st == .on || x.st == .draining) && x.mirror.isNone && decide (x.pub < pos) then
    let size := 2 ^ s.cqLog c
    let v := (pos / size + 2 ^ 32 - 1) % 2 ^ 32 * 2 ^ 32 + pos % size
    let s := s.setCq c { x with mirror := some pos }
    let s := s.perfCount 66 1
    (s.startWrite (.cqMirror c pos) (fnAttr (s.fld CQ_CFG.FUNC c) false true) (8 * s.fld CQ_MIRROR.ADDR c) (leBytes v 8)
      none).2
  else s

/-- A CQ is fenced: what it has not published is discarded, its grants return, and CQ_ERR is filled (R155, R158). The
completions that were still on their way return their grants as they are discarded. -/
def State.fenceCq (s : State) (c cause : Nat) : State :=
  let x := s.cq c
  if x.st == .on || x.st == .draining then
    let s := s.dropXfers (fun k => match k with
      | .cqEntry c' _ => c' == c
      | .cqMirror c' _ => c' == c
      | _ => false)
    let back := x.writing.length + x.held.length
    let s := s.traceDiscard x.held
    let s := s.setCq c { x with
      st := .fenced, held := [], writing := [], mirror := none, full := false,
      grants := x.grants - back, nextPos := x.pub }
    let s := s.putFlag CQ_ERR.FENCED c true
    let s := s.put CQ_ERR.CAUSE c cause
    (s.boundRqs c).foldl (fun s q => s.updRq q (fun x => if x.st == .held then { x with st := .active } else x)) s
  else s

/-! ## Acceptance (R150) -/

/-- The producers searched from the priority pointer, wrapping from P25 to P0. -/
def pointerOrder (ptr : Nat) : List Nat := (List.range 26).map (fun i => (ptr + i) % 26)

/-- The priority pointer: it stays at START while XPRIO.FIXED acts in TEST (R150, R166). -/
def State.crownPtr (s : State) : Nat :=
  if s.tile.st == .test && s.flag CROWN_XPRIO.FIXED 0 then
    let v := s.fld CROWN_XPRIO.START 0
    if v ≤ 25 then v else 0
  else s.crown.ptr

/-- The producers whose heads the crown takes in this cycle, in ascending number: up to four non-empty FIFOs from the
pointer. -/
def State.taken (s : State) : List Nat :=
  let heads := ((pointerOrder s.crownPtr).filter (fun p => !(s.fifo p).isEmpty)).take 4
  (List.range 26).filter (fun p => heads.contains p)

/-- The pointer after a cycle: one producer further, or where XPRIO.FIXED holds it (R150, R166). -/
def State.nextPtr (s : State) : Nat :=
  if s.tile.st == .test && s.flag CROWN_XPRIO.FIXED 0 then s.crownPtr else (s.crown.ptr + 1) % 26

/-- One chain by number. -/
def State.chain? (s : State) (i : Nat) : Option Chain := s.qeng.chains.find? (fun c => c.id == i)

/-- The state without a chain. -/
def State.dropChain (s : State) (i : Nat) : State :=
  { s with qeng := { s.qeng with chains := s.qeng.chains.filter (fun c => c.id != i) } }

/-- A chain-buffer entry is zeroized and free (R15). -/
def State.freeCbuf (s : State) (e : Nat) : State :=
  { s with qeng := { s.qeng with cbuf := Tbl.set {} s.qeng.cbuf e {} } }

/-! ## Prefetch (R54, R55) -/

/-- The queue engine has stopped accepting and issuing: a sleep entry, a tamper response or a tile fence runs (R308, R323,
R334). -/
def State.qStopped (s : State) : Bool :=
  s.pwr.phase != .awake || s.tamp.responding || s.tile.fencing.isSome

/-- RQ_POLL.MIN_INT, at least 1. -/
def State.minInt (s : State) (q : Nat) : Nat := max 1 (s.fld RQ_POLL.MIN_INT q)

/-- Descriptors per fetch read (R67). -/
def State.fetchGroup (s : State) : Nat :=
  match s.fld QENG_XFETCH.GROUP 0 with
  | 0 => 1 | 1 => 2 | _ => 4

/-- The prefetch depth, 8 to 16 (R68). -/
def State.prefDepth (s : State) (q : Nat) : Nat := min 16 (max 8 (s.fld RQ_XPREF.DEPTH q))

/-- The queue accepts entries. -/
def RqState.accepts : RqState → Bool
  | .active | .dozing | .held => true
  | _ => false

/-- Entries of a queue in the prefetch cache: an accepted one stays until it is dispatched (R54). -/
def State.prefetched (s : State) (q : Nat) : Nat :=
  let own (e : Elem) : Bool := e.rq == q && !e.waited
  (s.rq q).acc.length + (s.qeng.issuing.filter (fun e => own e.1)).length + (s.qeng.issued.filter own).length +
    (s.qeng.chains.map (fun c => (c.rest.filter own).length)).sum

/-- The queue engine reads a group of consecutive descriptors of a queue from its next index, which never crosses the end
of the ring (R54); a read under way is merged with. -/
def State.rqRead (s : State) (q : Nat) : State :=
  let x := s.rq q
  let size := 2 ^ s.rqLog q
  let i := s.fld RQ_HEAD.INDEX q
  let n := min s.fetchGroup (min (s.prefDepth q - s.prefetched q) (size - i))
  if s.isOn (pg .qeng) && !s.qStopped && x.st.accepts && !x.fetching && n != 0 then
    let s := s.setRq q { x with fetching := true }
    (s.startRead (.desc q i) (fnAttr (s.fld RQ_CFG.FUNC q) false false) (4096 * s.fld RQ_BASE.BASE q + 64 * i) (64 * n)
      none).2
  else s

/-- An entry of a queue has left the prefetch cache: it is refilled with no interval while the next entry was owned when last
read (R55). -/
def State.refill (s : State) (q : Nat) : State := if (s.rq q).more then s.rqRead q else s

/-- QENG_STS.PAUSED: PAUSE holds and no issue is under way (R67). -/
def State.paused (s : State) : Bool := s.flag QENG_CTL.PAUSE 0 && s.qeng.issuing.isEmpty

/-! ## Chains that end early (R21, R61) -/

/-- An element of a chain that ended early completes without running; CHAIN_ABORTED reports the position of the element whose
status ended it (R21, R61). -/
def State.pushAborted (s : State) (status pos : Nat) (e : Elem) : State :=
  s.push 25 { elem := e.notRun, status := status, value := if status = stChainAborted then pos else 0 }

/-- A chain ends early: its later elements complete without running, in element order, its chain-buffer entry is zeroized
(R21, R61), and the prefetch cache of its queue is refilled (R55). -/
def State.abortChain (s : State) (ch : Chain) (status pos : Nat) : State :=
  let s := s.dropChain ch.id
  let s := match ch.cbuf with
    | none => s
    | some e => s.freeCbuf e
  let s := ch.rest.foldl (fun s e => s.pushAborted status pos e) s
  match ch.rest with
  | [] => s
  | e :: _ => s.refill e.rq

/-- One element of the unit whose issue is under way is issued: a refused one completes; the first of a chain waits for
dispatch and the later ones for the chain sequencer (R57, R59, R60). -/
def State.issueOne (s : State) : State :=
  match s.qeng.issuing with
  | [] => s
  | (e, bad) :: rest =>
    let s := { s with qeng := { s.qeng with issuing := rest } }
    let s := s.updRq e.rq (fun x => { x with inflight := x.inflight + 1 })
    match bad with
    | some k => s.push 25 k
    | none =>
      let s := s.fnCount e.func 1 1
      let e := e.stamp 1 s.now
      match e.chain with
      | none => { s with qeng := { s.qeng with issued := s.qeng.issued ++ [e] } }
      | some c =>
        if e.pos = 0 then
          let s := (s.perfCount 61 1).fnCount e.func 33 1
          { s with qeng := { s.qeng with
            chains := s.qeng.chains ++ [({ id := c, rest := [] } : Chain)], issued := s.qeng.issued ++ [e] } }
        else { s with qeng := { s.qeng with
          chains := s.qeng.chains.map (fun (x : Chain) => if x.id == c then { x with rest := x.rest ++ [e] } else x) } }

/-- The unit whose issue is under way is issued to its end: a chain is issued whole (R57). -/
def State.issueRest (s : State) : State := s.qeng.issuing.foldl (fun s _ => s.issueOne) s

/-- A chain with one changed. -/
def State.updChain (s : State) (i : Nat) (f : Chain → Chain) : State :=
  { s with qeng := { s.qeng with chains := s.qeng.chains.map (fun (c : Chain) => if c.id == i then f c else c) } }

/-- An element of a chain has completed OK. The chain-buffer entry is zeroized once no element that hands a secret on is left:
the last element that reads it has completed (R15). DESIGN CHOICE (log 93): it is free for another chain from then on. The chain
ends with its last element; before it the next one may be dispatched (R59), unless it has been: the completion was a second one
after a replay (R96). -/
def State.chainOn (s : State) (ch : Chain) (e : Elem) : State :=
  let s :=
    match ch.cbuf with
    | none => s
    | some b =>
      if e.d.secretHandoff || ch.rest.any (fun x => x.d.secretHandoff) ||
          s.qeng.issuing.any (fun x => x.1.chain == some ch.id && x.1.d.secretHandoff) then s
      else (s.freeCbuf b).updChain ch.id (fun c => { c with cbuf := none })
  let next (x : Elem) : Bool := x.chain == some ch.id && x.pos == e.pos + 1
  if e.lastOfChain then s.dropChain ch.id
  else if ch.rest.any next || s.qeng.issuing.any (fun x => next x.1) then s.updChain ch.id (fun c => { c with ready := true })
  else s

/-- Later elements of a chain that the chain sequencer has handed to dispatch already, and that wait there or in the miss
buffer: the completion before them turned out other than OK after it had been pushed. They are taken back (R21). -/
def State.recallChain (s : State) (e : Elem) : List Elem × State :=
  let late (x : Elem) : Bool := x.chain.isSome && x.chain == e.chain && decide (e.pos < x.pos)
  let l := s.qeng.issued.filter late ++ s.ctx.misses.flatMap (fun m => m.waiting.filter late)
  (l, l.foldl (fun s x => s.unhold x.rq)
    { s with
      qeng := { s.qeng with issued := s.qeng.issued.filter (fun x => !late x) }
      ctx := { s.ctx with misses := s.ctx.misses.map (fun m => { m with waiting := m.waiting.filter (fun x => !late x) }) } })

/-- An element of a chain has ended with a status other than OK: every later element of it that has not gone to its engine
completes with CHAIN_ABORTED (R21). -/
def State.chainOff (s : State) (e : Elem) : State :=
  match e.chain.bind (fun i => s.issueRest.chain? i) with
  | none => s
  | some ch =>
    let (l, s) := s.issueRest.recallChain e
    (s.abortChain { ch with rest := l ++ ch.rest } stChainAborted e.pos).fnCount e.func 34 1

/-- An element has completed at the crown: its queue's count falls, and its chain goes on, ends or is aborted (R59, R21,
R65, R149). -/
def State.reached (s : State) (k : Compl) : State :=
  let e := k.elem
  let s := s.updRq e.rq (fun x => { x with inflight := x.inflight - 1 })
  let s :=
    if k.status = stOk then
      match e.chain.bind (fun i => s.chain? i) with
      | none => s
      | some ch => s.chainOn ch e
    else s.chainOff e
  s.rqDrainEnd e.rq

/-- The crown takes the head of one producer's FIFO. -/
def State.takeFrom (s : State) (p : Nat) : State :=
  match s.fifo p with
  | [] => s
  | k :: rest =>
    let s := s.setFifo p rest
    match k.vec with
    | some v => s.countVec v 1
    | none =>
    let s := s.perfCount 64 1
    let waits := k.elem.ord.isSome && k.elem.ord != some (s.rq k.elem.rq).ordRel
    let s := s.perfCount 67 (b2n waits)
    let s := s.fnCount k.elem.func 40 (b2n waits)
    let s := { s with crown := { s.crown with waiting := s.crown.waiting ++ [k] } }
    s.reached k

/-- One FCLK cycle of the crown: it takes the heads of up to four FIFOs, moves the pointer, releases what may be released,
and stalled producers push. The messages of the cycle go out in ascending order (R163). -/
def State.crownCycle (s : State) : State :=
  let n := s.irq.msgs.length
  let ps := s.taken
  let s := s.bump CROWN_STALL_CNT.COUNT 0 ((s.crown.stalled.map (fun p => p.1)).dedup.length)
  let ptr := s.nextPtr
  let s := ps.foldl (fun s p => s.takeFrom p) s
  let s := { s with crown := { s.crown with ptr := ptr } }
  s.unstall.releaseWaiting.ascending n

end Sys2Proof.Machine
end

