-- ==== Sys2Proof/Machine/Jobs.lean ====
section
/-! DEFINITION. Elements that an engine holds: their numbers, the reads of their buffers, and completions that wait for the
writes of their results (R153, R373). -/

namespace Sys2Proof.Machine

/-- A new job for an element. -/
def State.newJob (s : State) (e : Elem) : Job × State :=
  ({ id := s.nextJob, elem := e }, { s with nextJob := s.nextJob + 1 })

/-- The attributes of an element's data traffic (R373). -/
def Elem.attr (e : Elem) : Attr := fnAttr e.func true false

/-- A buffer of a job's element is read; a length of 0 needs no read. -/
def State.readPart (s : State) (j : Job) (part addr n : Nat) : Job × State :=
  if n = 0 then (j, s)
  else ({ j with need := j.need + 1 }, (s.startRead (.elemRead j.id part) j.elem.attr addr n none).2)

/-- A buffer of a job as read. -/
def Job.part (j : Job) (i : Nat) : Bytes := Tbl.get [] j.parts i

/-- Every buffer of a job is in, and it waits for nothing. -/
def Job.ready (j : Job) : Bool := j.need == 0 && !j.parked

/-- A list of jobs with one changed. -/
def updJob (l : List Job) (i : Nat) (f : Job → Job) : List Job := l.map (fun (j : Job) => if j.id == i then f j else j)

/-- A list of jobs without one. -/
def dropJob (l : List Job) (i : Nat) : List Job := l.filter (fun (j : Job) => j.id != i)

/-- An element whose work has succeeded has reached P4, where its engine took it, and P5, its last output (R355). -/
def Elem.worked (e : Elem) (status now : Nat) : Elem := if status = stOk then (e.stamp 4 now).stamp 5 now else e

/-- A job ends with a completion through a producer. -/
def State.endJob (s : State) (p : Nat) (j : Job) (k : Compl) : State :=
  s.push p { k with elem := j.elem.worked k.status s.now, retried := k.retried || j.retried }

/-- A job ends with nothing but a status. -/
def State.endJobWith (s : State) (p : Nat) (j : Job) (status : Nat) : State := s.endJob p j { status := status }

/-- A job's result is written to memory; its completion is pushed when every write is answered, as given if they are OK
(R153). -/
def State.writeResult (s : State) (p : Nat) (j : Job) (k : Compl) (addr : Nat) (data : Bytes)
    (audit : Option (Nat × List Nat)) : State :=
  let k := { k with elem := j.elem.worked k.status s.now, retried := k.retried || j.retried }
  if data.isEmpty then s.push p k
  else
    let s := { s with finishes := s.finishes ++ [({ job := j.id, producer := p, compl := k, audit := audit } : Finish)] }
    (s.startWrite (.elemWrite j.id) j.elem.attr addr data none).2

/-- The chain-buffer entry of an element's chain (R15). -/
def State.cbEntry (s : State) (e : Elem) : Option (Nat × CbEntry) :=
  (e.chain.bind (fun c => s.chain? c)).bind (fun c => c.cbuf.map (fun i => (i, Tbl.get {} s.qeng.cbuf i)))

/-- The element that writes a secret into its chain's entry records its length with it (R15). -/
def State.putSecret (s : State) (e : Elem) (b : Bytes) : State :=
  match s.cbEntry e with
  | none => s
  | some (i, x) => { s with qeng := { s.qeng with cbuf := Tbl.set {} s.qeng.cbuf i { x with secret := b } } }

/-- The secret that the previous element of the chain left (R15). -/
def State.secret (s : State) (e : Elem) : Option Bytes := (s.cbEntry e).bind (fun p => if p.2.secret.isEmpty then none else some p.2.secret)

end Sys2Proof.Machine
end

