-- ==== Sys2Proof/Machine/Cores.lean ====
section
/-! DEFINITION. Digest channels and cores: which channel a core holds, how cores are shared and displaced, and channel 255, on
which key custody runs its KDF (R175–R178). -/

namespace Sys2Proof.Machine

/-! ## Access -/

/-- One digest channel. -/
def State.dgChan (s : State) (c : Nat) : DgChan := Tbl.get {} s.digest.chans c

/-- The state with one digest channel. -/
def State.setDgChan (s : State) (c : Nat) (x : DgChan) : State :=
  { s with digest := { s.digest with chans := Tbl.set {} s.digest.chans c x } }

/-- One core. -/
def State.dcore (s : State) (n : Nat) : DCore := Tbl.get {} s.digest.cores n

/-- The state with one core. -/
def State.setDcore (s : State) (n : Nat) (x : DCore) : State :=
  { s with digest := { s.digest with cores := Tbl.set {} s.digest.cores n x } }

/-- A core's page. -/
def corePg (n : Nat) : PageRef := ⟨.dcore, n⟩

/-- The first reserved channel (R175, R186). -/
def State.dgOrdinary (s : State) : Nat := 256 - min 64 (max 2 (s.fld DG_XRESERVE.COUNT 0))

/-- The fields of AUX1 (R172). -/
def dgAlg (d : Desc) : Nat := bitsOf d.aux1 7 0
def dgMore (d : Desc) : Bool := bitAt d.aux1 8
def dgLoad (d : Desc) : Bool := bitAt d.aux1 9
def dgClear (d : Desc) : Bool := bitAt d.aux1 10
def dgXof (d : Desc) : Nat := bitsOf d.aux1 35 16

/-! ## Sharing the cores (R176, R177) -/

/-- The job of a channel has work for a core: its input is in, and for a LOAD its key is unwrapped. -/
def Job.hashes (j : Job) : Bool :=
  j.ready && !(j.elem.d.opcode == 0x21 && (dgClear j.elem.d || (dgLoad j.elem.d && j.phase == 0)))

/-- A channel waits for a core. One that was displaced waits for the core it was on. -/
def State.dgWaits (s : State) (c : Nat) (x : DgChan) : Bool :=
  x.st == .busy && x.core.isNone &&
    (match x.serves with
     | some b => (Tbl.get {} s.bignum.chans b).hash
     | none => c == 255 || x.job.any Job.hashes) &&
    !s.digest.cores.any (fun p => p.2.ownRerun == some c || p.2.after.contains c) &&
    !s.digest.slotWait.any (fun j => x.job.any (fun k => k.id == j.id))

/-- The channel that has waited longest. -/
def State.dgLongest (s : State) : Option Nat :=
  (s.digest.chans.foldl (fun (b : Option (Nat × Nat)) p =>
    if s.dgWaits p.1 p.2 then
      match b with
      | none => some (p.1, p.2.since)
      | some q => if p.2.since < q.2 then some (p.1, p.2.since) else b
    else b) none).map (fun p => p.1)

/-- A core works: it is ON and has no check to run. -/
def State.coreFit (s : State) (n : Nat) : Bool := (s.hdr (corePg n)).st == .on && (s.dcore n).check == .idle

/-- A core can take a channel: it works, holds none, and its producer does not stall (R149). -/
def State.coreFree (s : State) (n : Nat) : Bool := s.coreFit n && (s.dcore n).chan.isNone && !s.stalling (16 + n)

/-- A channel takes a core. -/
def State.takeCore (s : State) (c n : Nat) : State :=
  let x := s.dgChan c
  let job := x.job.map (fun j => { j with elem := (j.elem.stamp 4 s.now).onUnit c })
  (s.setDgChan c { x with core := some n, job := job }).setDcore n { s.dcore n with chan := some c }

/-- Idle cores take the channels that have waited longest; fuel bounds their number. -/
def State.takeCores (s : State) : Nat → State
  | 0 => s
  | fuel + 1 =>
    match s.dgLongest, firstBelow 4 (fun n => s.coreFree n && (s.dcore n).after.isEmpty) with
    | some c, some n => (s.takeCore c n).takeCores fuel
    | _, _ => s

/-- A channel gives up its core at a block boundary: its slice ends, and so does the re-run of one (R176, R183). -/
def DgChan.sliceEnds (x : DgChan) : DgChan := { x with core := none, rerun := false }

/-- A channel hands its core back; first tells that it resumes before every other waiter (R177). -/
def State.handBack (s : State) (n : Nat) (first : Bool) : State :=
  match (s.dcore n).chan with
  | none => s
  | some c =>
    let s := s.setDgChan c { (s.dgChan c).sliceEnds with since := if first then 0 else s.digest.clock + 1 }
    let s := { s with digest := { s.digest with clock := s.digest.clock + 1 } }
    s.setDcore n { s.dcore n with chan := none }

/-- A channel has the input of its part: it waits for a core and takes an idle one at once. -/
def State.dgReady (s : State) (c : Nat) : State :=
  let s := s.setDgChan c { s.dgChan c with since := s.digest.clock + 1 }
  ({ s with digest := { s.digest with clock := s.digest.clock + 1 } }).takeCores 4

/-- A released core takes the channel that was displaced from it last, unless its producer stalls (R149, R177). -/
def State.resumeOn (s : State) (n : Nat) : State :=
  match (s.dcore n).after with
  | [] => s
  | d :: rest =>
    if s.stalling (16 + n) then s else
    let s := s.setDcore n { s.dcore n with after := rest }
    if (s.dgChan d).st == .busy && (s.dgChan d).core.isNone then (s.perfCount 40 1).takeCore d n else s

/-- A channel leaves its core, which the channel that it displaced takes. -/
def State.leaveCore (s : State) (c : Nat) : State :=
  match (s.dgChan c).core with
  | none => s
  | some n => ((s.setDgChan c { s.dgChan c with core := none }).setDcore n { s.dcore n with chan := none }).resumeOn n

/-- Cores that are idle go on: to the channels that were displaced from them, then to those that have waited longest (R176, R177). -/
def State.coresGo (s : State) : State :=
  ((List.range 4).foldl (fun s n => if s.coreFree n then s.resumeOn n else s) s).takeCores 4

/-- The core that a privileged waiter takes: an idle one, or the first to reach a block boundary. DESIGN CHOICE (log 108): the
model has no time within a block, so every core reaches its boundary at once and the lowest-numbered is taken (R177). -/
def State.privCore (s : State) : Option Nat :=
  firstBelow 4 (fun n => s.coreFree n) <|>
    firstBelow 4 (fun n => s.coreFit n && !s.stalling (16 + n) && (s.dcore n).chan != some 255)

/-- A privileged waiter takes a core; the channel it displaces keeps its place on it (R177, R183). -/
def State.takePriv (s : State) (c n : Nat) : State :=
  match (s.dcore n).chan with
  | none => s.takeCore c n
  | some d =>
    let s := s.setDgChan d (s.dgChan d).sliceEnds
    let s := s.setDcore n { s.dcore n with chan := none, after := d :: (s.dcore n).after }
    (s.perfCount 40 1).takeCore c n

/-- DCORE_XINJECT acts on a core: it is armed, and the tile is in TEST (R187). -/
def State.coreArmed (s : State) (n : Nat) : Bool := s.tile.st == .test && s.flag DCORE_XINJECT.ARM n

/-- The injected error falls into the next k blocks of a core (R187). -/
def State.coreInjects (s : State) (n k : Nat) : Bool :=
  s.coreArmed n && decide (s.fld DCORE_XINJECT.AFTER n < (s.dcore n).injectCount + k)

/-- Blocks absorbed by a core are counted, toward AFTER too while an error is armed. -/
def State.coreCount (s : State) (n k : Nat) : State :=
  let s := if s.coreArmed n then s.setDcore n { s.dcore n with injectCount := (s.dcore n).injectCount + k } else s
  (s.perfCount (36 + n) k).bump DCORE_BLOCKS.COUNT n k

/-! ## Channel 255 (R177, R178) -/

/-- Channel 255 has work for key custody: it takes a core, ahead of every other waiter. -/
def State.kdfSeat (s : State) : State :=
  let x := s.dgChan 255
  if x.st == .fenced || x.core.isSome then s
  else
    let s := s.setDgChan 255 { x with st := .busy, alg := 3 }
    match s.privCore with
    | none => s
    | some n => (s.perfCount 41 (b2n (s.dcore n).chan.isSome)).takePriv 255 n

/-- Channel 255 is zeroized as the request that held it ends (R178). -/
def State.kdfLeave (s : State) : State :=
  if (s.dgChan 255).st == .busy then ((s.leaveCore 255).setDgChan 255 {}).takeCores 4 else s

/-- Channel 255 has absorbed blocks on its core. -/
def State.kdfCount (s : State) (k : Nat) : State :=
  match (s.dgChan 255).core with
  | none => s
  | some n => s.coreCount n k

/-- The core on which the next k blocks of channel 255 meet an injected error. -/
def State.kdfInjects (s : State) (k : Nat) : Option Nat := (s.dgChan 255).core.bind (fun n => if s.coreInjects n k then some n else none)

/-- Channel 255 is on a core. -/
def State.kdfOnCore (s : State) : Bool := (s.dgChan 255).core.isSome

/-- SHA-384 compressions of one HMAC from the states of its key, over a message of n bytes (R237). -/
def hmacBlocks (n : Nat) : Nat := (n + 17 + 127) / 128 + 1

/-- Compressions of a derivation of n bytes whose PRF input is fixed bytes beside its two counters (R237). -/
def kdfBlocks (fixed n : Nat) : Nat := (n + 47) / 48 * hmacBlocks (fixed + 8)

end Sys2Proof.Machine
end

