-- ==== Sys2Proof/Machine/Chacha.lean ====
section
/-! DEFINITION. ChaCha20, Poly1305 and their combination, as R77 and R88 name them (PRESUMED: RFC 8439, whose text is not
part of the spec). -/

namespace Sys2Proof.Machine

/-- A word of the state at a place. -/
def wordAt (w : List W32) (i : Nat) : W32 := w.getD i 0

/-- One quarter round on four places. -/
def quarterRound (w : List W32) (q : Nat × Nat × Nat × Nat) : List W32 :=
  let (i, j, k, l) := q
  let a := wordAt w i
  let b := wordAt w j
  let c := wordAt w k
  let d := wordAt w l
  let a := a + b
  let d := (d ^^^ a).rotateLeft 16
  let c := c + d
  let b := (b ^^^ c).rotateLeft 12
  let a := a + b
  let d := (d ^^^ a).rotateLeft 8
  let c := c + d
  let b := (b ^^^ c).rotateLeft 7
  (((w.set i a).set j b).set k c).set l d

/-- A column round and a diagonal round. -/
def doubleRound (w : List W32) : List W32 :=
  [(0, 4, 8, 12), (1, 5, 9, 13), (2, 6, 10, 14), (3, 7, 11, 15), (0, 5, 10, 15), (1, 6, 11, 12), (2, 7, 8, 13),
    (3, 4, 9, 14)].foldl quarterRound w

/-- The little-endian 32-bit words of a string. -/
def words32 (b : Bytes) : List W32 := (List.range (b.length / 4)).map (fun i => BitVec.ofNat 32 (leNat (slice b (4 * i) 4)))

/-- One block of the keystream: 32 bytes of key, 12 of nonce. -/
def chachaBlock (key nonce : Bytes) (counter : Nat) : Bytes :=
  let st := [0x61707865, 0x3320646E, 0x79622D32, 0x6B206574] ++ words32 key ++ [BitVec.ofNat 32 counter] ++ words32 nonce
  let w := (List.range 10).foldl (fun w _ => doubleRound w) st
  (w.zip st).flatMap (fun p => leBytes (p.1 + p.2).toNat 4)

/-- n bytes of keystream from a block counter. -/
def chachaStream (key nonce : Bytes) (counter n : Nat) : Bytes :=
  ((List.range ((n + 63) / 64)).flatMap (fun i => chachaBlock key nonce ((counter + i) % 2 ^ 32))).take n

/-- Poly1305 of a string under a one-time key of 32 bytes. -/
def poly1305 (key m : Bytes) : Bytes :=
  let p := 2 ^ 130 - 5
  let r := leNat (key.take 16) &&& 0x0ffffffc0ffffffc0ffffffc0fffffff
  let n := (m.length + 15) / 16
  let acc := (List.range n).foldl (fun a i =>
    let b := (m.drop (16 * i)).take 16
    (a + leNat b + 2 ^ (8 * b.length)) * r % p) 0
  leBytes ((acc + leNat (slice key 16 16)) % 2 ^ 128) 16

/-- A string filled with zeros to a multiple of 16. -/
def pad16 (b : Bytes) : Bytes := b ++ List.replicate ((16 - b.length % 16) % 16) 0

/-- The tag of ChaCha20-Poly1305 over additional data and ciphertext. -/
def chachaTag (key nonce aad c : Bytes) : Bytes :=
  poly1305 ((chachaBlock key nonce 0).take 32) (pad16 aad ++ pad16 c ++ leBytes aad.length 8 ++ leBytes c.length 8)

/-- The encryption of ChaCha20-Poly1305 and its inverse. -/
def chachaCrypt (key nonce m : Bytes) : Bytes := xorBytes m (chachaStream key nonce 1 m.length)

end Sys2Proof.Machine
end

