-- ==== Sys2Proof/Machine/Aes.lean ====
section
/-! DEFINITION. AES as FIPS 197 has it, counter mode, GHASH and GCM as NIST SP 800-38D has them, and the key wraps KW
and KWP of NIST SP 800-38F: the ciphers that R77, R84, R88, R105, R218, R238 and R240 name by their standards
(PRESUMED: the standards' own text is not part of the spec). -/

namespace Sys2Proof.Machine

/-! ## The field of AES -/

/-- Multiplication by x in GF(2^8). -/
def gfDouble (a : Byte) : Byte := if a.msb then (a <<< 1) ^^^ 0x1B else a <<< 1

/-- The product in GF(2^8), bit i of the second factor upwards; n bits remain. -/
def gfMulFrom : Nat → Byte → Byte → Byte
  | 0, _, _ => 0
  | n + 1, a, b => (if b.getLsbD 0 then a else 0) ^^^ gfMulFrom n (gfDouble a) (b >>> 1)

/-- The product in GF(2^8). -/
def gfMul (a b : Byte) : Byte := gfMulFrom 8 a b

/-- The inverse in GF(2^8), zero for zero: the 254th power. -/
def gfInv (a : Byte) : Byte :=
  let a2 := gfMul a a
  let a3 := gfMul a2 a
  let a6 := gfMul a3 a3
  let a12 := gfMul a6 a6
  let a15 := gfMul a12 a3
  let a30 := gfMul a15 a15
  let a60 := gfMul a30 a30
  let a120 := gfMul a60 a60
  let a240 := gfMul a120 a120
  gfMul (gfMul a240 a12) a2

/-- The S-box. -/
def aesSub (a : Byte) : Byte :=
  let b := gfInv a
  b ^^^ b.rotateLeft 1 ^^^ b.rotateLeft 2 ^^^ b.rotateLeft 3 ^^^ b.rotateLeft 4 ^^^ 0x63

/-- The inverse S-box. -/
def aesUnsub (a : Byte) : Byte := gfInv (a.rotateLeft 1 ^^^ a.rotateLeft 3 ^^^ a.rotateLeft 6 ^^^ 0x05)

/-! ## The cipher, over 16 bytes in column order -/

/-- The byte of a block at a place. -/
def byteAt (b : Bytes) (i : Nat) : Byte := b.getD i 0

/-- ShiftRows. -/
def shiftRows (b : Bytes) : Bytes := (List.range 16).map (fun i => byteAt b ((i + 4 * (i % 4)) % 16))

/-- The inverse of ShiftRows. -/
def unshiftRows (b : Bytes) : Bytes := (List.range 16).map (fun i => byteAt b ((i + 12 * (i % 4)) % 16))

/-- One byte of MixColumns with the coefficients of its row. -/
def mixByte (c : Bytes) (b : Bytes) (i : Nat) : Byte :=
  (List.range 4).foldl (fun a j => a ^^^ gfMul (byteAt c ((j + 4 - i % 4) % 4)) (byteAt b (i / 4 * 4 + j))) 0

/-- MixColumns. -/
def mixColumns (b : Bytes) : Bytes := (List.range 16).map (mixByte [2, 3, 1, 1] b)

/-- The inverse of MixColumns. -/
def unmixColumns (b : Bytes) : Bytes := (List.range 16).map (mixByte [14, 11, 13, 9] b)

/-- The next word of the key schedule: nk words of key, i the word's number, w the words so far, latest first. -/
def keyWord (nk i : Nat) (w : List Bytes) : Bytes :=
  let t := w.headD []
  let old := w.getD (nk - 1) []
  let rot := t.drop 1 ++ t.take 1
  let rcon := (List.range (i / nk - 1)).foldl (fun a _ => gfDouble a) (1 : Byte)
  let t' :=
    if i % nk = 0 then xorBytes (rot.map aesSub) [rcon]
    else if nk > 6 ∧ i % nk = 4 then t.map aesSub
    else t
  xorBytes old t'

/-- n more words of the key schedule from word i. -/
def keyWords (nk : Nat) : Nat → Nat → List Bytes → List Bytes
  | 0, _, w => w
  | n + 1, i, w => keyWords nk n (i + 1) (keyWord nk i w :: w)

/-- The round keys of a key of 16 or 32 bytes. -/
def aesRoundKeys (key : Bytes) : List Bytes :=
  let nk := key.length / 4
  let first := (List.range nk).map (fun i => slice key (4 * i) 4)
  let all := ((keyWords nk (4 * (nk + 7) - nk) nk first.reverse).reverse).flatten
  (List.range (nk + 7)).map (fun r => slice all (16 * r) 16)

/-- AES over round keys. -/
def aesRounds : List Bytes → Bytes → Bytes
  | [], b => b
  | [k], b => xorBytes (shiftRows (b.map aesSub)) k
  | k :: ks, b => aesRounds ks (xorBytes (mixColumns (shiftRows (b.map aesSub))) k)

/-- The forward cipher with expanded keys. -/
def aesWith (rk : List Bytes) (b : Bytes) : Bytes :=
  match rk with
  | [] => b
  | k :: ks => aesRounds ks (xorBytes b k)

/-- The forward cipher (FIPS 197). -/
def aes (key b : Bytes) : Bytes := aesWith (aesRoundKeys key) b

/-- The inverse rounds over the round keys in reverse order. -/
def aesUnrounds : List Bytes → Bytes → Bytes
  | [], b => b
  | [k], b => xorBytes ((unshiftRows b).map aesUnsub) k
  | k :: ks, b => aesUnrounds ks (unmixColumns (xorBytes ((unshiftRows b).map aesUnsub) k))

/-- The inverse cipher. -/
def aesInv (key b : Bytes) : Bytes :=
  match (aesRoundKeys key).reverse with
  | [] => b
  | k :: ks => aesUnrounds ks (xorBytes b k)

/-! ## GHASH and GCM (NIST SP 800-38D) -/

/-- The product of two 128-bit blocks, each as its big-endian number; n bits of x remain. -/
def ghashMulFrom : Nat → Nat → Nat → Nat → Nat
  | 0, _, _, z => z
  | n + 1, x, v, z =>
    let z := if bitAt x n then z ^^^ v else z
    let v := if v % 2 = 1 then (v / 2) ^^^ (0xE1 * 2 ^ 120) else v / 2
    ghashMulFrom n x v z

/-- The product of two 128-bit blocks. -/
def ghashMul (x y : Nat) : Nat := ghashMulFrom 128 x y 0

/-- The 16-byte blocks of a string, the last filled with zeros. -/
def blocks16 (b : Bytes) : List Bytes := (List.range ((b.length + 15) / 16)).map (fun i => slice b (16 * i) 16)

/-- GHASH over blocks under H. -/
def ghash (h : Nat) (bs : List Bytes) : Nat := bs.foldl (fun y b => ghashMul (y ^^^ beNat b) h) 0

/-- Counter mode from a 96-bit IV and a first 32-bit counter. -/
def ctrMode (rk : List Bytes) (iv : Bytes) (c0 : Nat) (m : Bytes) : Bytes :=
  ((blocks16 m).zipIdx.flatMap (fun p => xorBytes p.1 (aesWith rk (iv ++ beBytes ((c0 + p.2) % 2 ^ 32) 4)))).take m.length

/-- The hash subkey H = AES_K(0^128). -/
def gcmH (key : Bytes) : Nat := beNat (aes key (List.replicate 16 0))

/-- The tag of GCM over additional data and ciphertext, under a 96-bit IV. -/
def gcmTag (key iv aad c : Bytes) : Bytes :=
  let rk := aesRoundKeys key
  let h := beNat (aesWith rk (List.replicate 16 0))
  let s := ghash h (blocks16 aad ++ blocks16 c ++ [beBytes (8 * aad.length) 8 ++ beBytes (8 * c.length) 8])
  xorBytes (beBytes s 16) (aesWith rk (iv ++ beBytes 1 4))

/-- GCM's encryption and its inverse: counter mode from counter 2. -/
def gcmCrypt (key iv m : Bytes) : Bytes := ctrMode (aesRoundKeys key) iv 2 m

/-- GCM authenticated encryption: ciphertext and tag. -/
def gcmSeal (key iv aad p : Bytes) : Bytes × Bytes :=
  let c := gcmCrypt key iv p
  (c, gcmTag key iv aad c)

/-- GCM authenticated decryption: the plaintext, none if the tag differs. -/
def gcmOpen (key iv aad c tag : Bytes) : Option Bytes :=
  if gcmTag key iv aad c = tag then some (gcmCrypt key iv c) else none

/-! ## KW and KWP (NIST SP 800-38F) -/

/-- One step of the inverse wrapping function W^-1: A and the semiblocks R, for counter t over n semiblocks. -/
def unwrapStep (key : Bytes) (n : Nat) (x : Bytes × List Bytes) (t : Nat) : Bytes × List Bytes :=
  let i := (t - 1) % n
  let b := aesInv key (xorBytes x.1 (beBytes t 8) ++ x.2.getD i [])
  (b.take 8, x.2.set i (b.drop 8))

/-- W^-1 over a string of at least three semiblocks: A and the rest. -/
def unwrapW (key c : Bytes) : Bytes × Bytes :=
  let n := c.length / 8 - 1
  let r := (List.range n).map (fun i => slice c (8 * (i + 1)) 8)
  let (a, r) := ((List.range (6 * n)).reverse.map (· + 1)).foldl (unwrapStep key n) (c.take 8, r)
  (a, r.flatten)

/-- One step of the wrapping function W. -/
def wrapStep (key : Bytes) (n : Nat) (x : Bytes × List Bytes) (t : Nat) : Bytes × List Bytes :=
  let i := (t - 1) % n
  let b := aes key (x.1 ++ x.2.getD i [])
  (xorBytes (b.take 8) (beBytes t 8), x.2.set i (b.drop 8))

/-- W over A and a string of at least two semiblocks. -/
def wrapW (key a p : Bytes) : Bytes :=
  let n := p.length / 8
  let r := (List.range n).map (fun i => slice p (8 * i) 8)
  let (a, r) := ((List.range (6 * n)).map (· + 1)).foldl (wrapStep key n) (a, r)
  a ++ r.flatten

/-- The integrity value of KW. -/
def kwIv : Bytes := List.replicate 8 0xA6

/-- KW authenticated decryption; none if the length or the integrity check fails. -/
def kwUnwrap (key c : Bytes) : Option Bytes :=
  if c.length % 8 = 0 ∧ 24 ≤ c.length then
    let (a, p) := unwrapW key c
    if a = kwIv then some p else none
  else none

/-- KWP authenticated decryption; none if the length or the integrity check fails. -/
def kwpUnwrap (key c : Bytes) : Option Bytes :=
  if c.length % 8 = 0 ∧ 16 ≤ c.length then
    let (a, p) := if c.length = 16 then (let b := aesInv key c; (b.take 8, b.drop 8)) else unwrapW key c
    let n := beNat (a.drop 4)
    if a.take 4 = [0xA6, 0x59, 0x59, 0xA6] ∧ p.length < n + 8 ∧ n ≤ p.length ∧ (p.drop n).all (· == 0) then
      some (p.take n)
    else none
  else none

end Sys2Proof.Machine
end

