-- ==== Sys2Proof/Machine/Context.lean ====
section
/-! DEFINITION. The context store logic: records and their sealed form, the integrity tree, lookup and ownership, the miss
buffer and page-in, write-back, the sweeper, learn records, and the flip at lookup (R78, R101–R123, R133–R135). -/

namespace Sys2Proof.Machine

/-! ## Suites (R78, R90) -/

def isMacsec (suite : Nat) : Bool := decide (1 ≤ suite ∧ suite ≤ 4)
def isXpn (suite : Nat) : Bool := suite == 3 || suite == 4
def isEsp (suite : Nat) : Bool := decide (8 ≤ suite ∧ suite ≤ 0x0A)
def isRaw (suite : Nat) : Bool := decide (0x10 ≤ suite ∧ suite ≤ 0x12)
def isChacha (suite : Nat) : Bool := suite == 0x0A || suite == 0x12
def isAes128 (suite : Nat) : Bool := suite == 1 || suite == 3 || suite == 8 || suite == 0x10
def isSuite (suite : Nat) : Bool := isMacsec suite || isEsp suite || isRaw suite

/-- The highest PN of a key slot (R90). -/
def highestPn (suite : Nat) (esn : Bool) : Nat :=
  if suite == 1 || suite == 2 || (isEsp suite && !esn) then 2 ^ 32 - 1 else 2 ^ 64 - 1

/-- THRESH of a slot that is installed or armed: the highest PN less CTX_PN_MARGIN (R124, R132). -/
def State.threshOf (s : State) (suite : Nat) (esn : Bool) : Nat :=
  let h := highestPn suite esn
  h - min h (s.fld CTX_PN_MARGIN.MARGIN 0)

/-- The AES key in a 32-byte key field (R77). -/
def aesKey (suite : Nat) (key : Bytes) : Bytes := if isAes128 suite then key.take 16 else key

/-- The bytes of a value, byte 0 in its lowest bits. -/
def bvBytes {w : Nat} (v : BitVec w) (n : Nat) : Bytes := leBytes v.toNat n

/-- The value whose lowest bits are byte 0. -/
def bytesBv (w : Nat) (b : Bytes) : BitVec w := BitVec.ofNat w (leNat b)

/-- H^1 to H^4 of a key, 16 bytes each, H^1 first; zero for the ChaCha20-Poly1305 suites (R102). -/
def hPowers (suite : Nat) (key : Bytes) : BitVec 512 :=
  if isChacha suite then 0
  else
    let h := gcmH (aesKey suite key)
    let h2 := ghashMul h h
    let h3 := ghashMul h2 h
    let h4 := ghashMul h3 h
    bytesBv 512 (beBytes h 16 ++ beBytes h2 16 ++ beBytes h3 16 ++ beBytes h4 16)

/-! ## Slots and masks (R242) -/

/-- A slot by its name: false A, true B. -/
def Ctx.slot (c : Ctx) (b : Bool) : Slot := if b then c.b else c.a

/-- The context with a slot. -/
def Ctx.setSlot (c : Ctx) (b : Bool) (x : Slot) : Ctx := if b then { c with b := x } else { c with a := x }

/-- The context sends: it is a transmit context or a raw one, whose direction is ignored (R103, R104). -/
def Ctx.sends (c : Ctx) : Bool := isRaw c.suite || !c.rx

/-- A pounce bank: 0–63 the context cache's, 64–71 those of the keyed-digest slots. -/
def State.bank (s : State) (b : Nat) : Bank := Tbl.get {} s.key.banks b

/-- The state with a pounce bank. -/
def State.setBank (s : State) (b : Nat) (x : Bank) : State :=
  { s with key := { s.key with banks := Tbl.set {} s.key.banks b x } }

/-- The key of a bank that covers a line with a pass bit: K, or K' for one that the present pass has re-masked (R242). -/
def Bank.covers (x : Bank) (pass : Bool) : BitVec 1024 := if pass == x.passBit then x.key else x.arrived.getD x.key

/-- The key and the pass bit that a line written now takes: K' where the bank holds K and K' (R244). -/
def Bank.fresh (x : Bank) : BitVec 1024 := x.arrived.getD x.key
def Bank.freshPass (x : Bank) : Bool := if x.arrived.isSome then !x.passBit else x.passBit

/-- Key custody supplies the masks of a pounce bank: it serves, FENCE_KEYS does not hold its keys back, and the bank has one. While
it cannot, no context or slot of the bank is unsealed or used (R14, R242, R247). -/
def State.masks (s : State) (b : Nat) : Bool :=
  (s.blk (pg .key) == .on || s.blk (pg .key) == .goingDown) && !s.key.noMask && (s.bank b).held

/-- A slot's key and salt combined with a bank's pounce key, which masks and unmasks (R242). -/
def Slot.mask (x : Slot) (k : BitVec 1024) : Slot :=
  { x with
    key := x.key ^^^ k.extractLsb' 0 256
    salt := x.salt ^^^ k.extractLsb' 256 96
    old := x.old.map (fun p => (p.1, (p.2.1 ^^^ k.extractLsb' 0 256, p.2.2.1 ^^^ k.extractLsb' 256 96, p.2.2.2))) }

/-- Both slots of a context masked or unmasked with a pounce key. -/
def Ctx.mask (c : Ctx) (k : BitVec 1024) : Ctx := { c with a := c.a.mask k, b := c.b.mask k }

/-! ## The record (R102–R104) -/

/-- Zero bytes. -/
def zeros (n : Nat) : Bytes := List.replicate n 0

def SlotSt.code : SlotSt → Nat
  | .empty => 0 | .armed => 1 | .active => 2

def SlotSt.ofCode (n : Nat) : SlotSt := if n = 1 then .armed else if n = 2 then .active else .empty

def CtxState.code : CtxState → Nat
  | .empty => 0 | .live => 1 | .fenced => 2

def CtxState.ofCode (n : Nat) : CtxState := if n = 1 then .live else if n = 2 then .fenced else .empty

/-- CONTROL (R103). -/
def Ctx.control (c : Ctx) : Nat :=
  c.suite % 256 * 2 ^ 24 + c.owner % 64 * 2 ^ 18 + c.st.code * 2 ^ 16 + b2n c.rx * 2 ^ 15 + b2n c.activeB * 2 ^ 14 +
    b2n c.conf * 2 ^ 13 + b2n c.sc * 2 ^ 12 + b2n c.es * 2 ^ 11 + b2n c.scb * 2 ^ 10 + b2n c.esn * 2 ^ 9 +
    b2n c.replayProt * 2 ^ 8 + c.confOffset % 4 * 2 ^ 6

/-- Line 0 of the record. -/
def Ctx.line0 (c : Ctx) : Bytes :=
  leBytes (c.version % 2 ^ 56) 8 ++ leBytes c.control 4 ++ leBytes c.epochId 4 ++ leBytes c.sciSpi.toNat 8 ++
    leBytes c.ssci.toNat 4 ++ leBytes c.handle 4 ++ zeros 32

/-- Line 1 or 2: a key slot. -/
def Slot.line (x : Slot) : Bytes :=
  bvBytes x.key 32 ++ leBytes x.salt.toNat 12 ++ leBytes x.an 1 ++ leBytes x.st.code 1 ++ zeros 18

/-- Line 5: the PN state (R104). -/
def Ctx.line5 (c : Ctx) : Bytes :=
  if c.sends then leBytes c.a.pn 8 ++ leBytes c.a.thresh 8 ++ leBytes c.b.pn 8 ++ leBytes c.b.thresh 8 ++ zeros 32
  else leBytes c.a.pn 8 ++ leBytes c.b.pn 8 ++ leBytes c.window 4 ++ zeros 44

/-- S0–S5. -/
def Ctx.stats (c : Ctx) : Bytes := wordsToBytes [c.s0, c.s1, c.s2, c.s3, c.s4, c.s5]

/-- The 496 bytes of the record before its tag, with the keys in clear. -/
def Ctx.bytes (c : Ctx) : Bytes :=
  c.line0 ++ c.a.line ++ c.b.line ++ bvBytes c.a.hpow 64 ++ bvBytes c.b.hpow 64 ++ c.line5 ++ bvBytes c.bitmap 64 ++
    c.stats

/-- A number of n little-endian bytes at an offset. -/
def numAt (b : Bytes) (off n : Nat) : Nat := leNat (slice b off n)

/-- The slot that a record's line holds, at the given offset, with its line of H powers. -/
def slotOf (b : Bytes) (off hoff : Nat) : Slot :=
  { key := bytesBv 256 (slice b off 32), salt := bytesBv 96 (slice b (off + 32) 12), an := numAt b (off + 44) 1 % 4,
    st := SlotSt.ofCode (numAt b (off + 45) 1 % 4), hpow := bytesBv 512 (slice b hoff 64) }

/-- The context that the 496 bytes of an opened record hold. -/
def Ctx.ofBytes (b : Bytes) : Ctx :=
  let w := numAt b 8 4
  let suite := bitsOf w 31 24
  let rx := bitAt w 15
  let sends := isRaw suite || !rx
  let a := slotOf b 64 192
  let bb := slotOf b 128 256
  { version := numAt b 0 7, epochId := numAt b 12 4, sciSpi := BitVec.ofNat 64 (numAt b 16 8),
    ssci := BitVec.ofNat 32 (numAt b 24 4), handle := numAt b 28 4 % 2 ^ 28, suite := suite, owner := bitsOf w 23 18,
    st := CtxState.ofCode (bitsOf w 17 16), rx := rx, activeB := bitAt w 14, conf := bitAt w 13, sc := bitAt w 12,
    es := bitAt w 11, scb := bitAt w 10, esn := bitAt w 9, replayProt := bitAt w 8, confOffset := bitsOf w 7 6,
    a := { a with pn := numAt b 320 8, thresh := if sends then numAt b 328 8 else 0 },
    b := { bb with pn := if sends then numAt b 336 8 else numAt b 328 8, thresh := if sends then numAt b 344 8 else 0 },
    window := if sends then 0 else numAt b 336 4, bitmap := bytesBv 512 (slice b 384 64),
    s0 := BitVec.ofNat 64 (numAt b 448 8), s1 := BitVec.ofNat 64 (numAt b 456 8), s2 := BitVec.ofNat 64 (numAt b 464 8),
    s3 := BitVec.ofNat 64 (numAt b 472 8), s4 := BitVec.ofNat 64 (numAt b 480 8),
    s5 := BitVec.ofNat 64 (numAt b 488 8) }

/-! ## The sealed form (R105) -/

/-- The IV of a seal. -/
def sealIv (handle version : Nat) : Bytes := beBytes (handle * 2 ^ 56 + version) 12

/-- The 512 bytes that the seal engine writes for a record of 496 bytes. -/
def sealRecord (wrap : Bytes) (handle version : Nat) (b : Bytes) : Bytes :=
  let aad := leBytes version 8
  let (c, t) := gcmSeal wrap (sealIv handle version) aad (b.drop 8)
  aad ++ c ++ t

/-- The 496 bytes of a sealed record of a handle, none if its tag is wrong. -/
def openRecord (wrap : Bytes) (handle : Nat) (r : Bytes) : Option Bytes :=
  let aad := slice r 0 8
  (gcmOpen wrap (sealIv handle (numAt r 0 7)) aad (slice r 8 488) (slice r 496 16)).map (fun p => aad ++ p)

/-! ## The integrity tree (R101, R106, R107) -/

/-- log2 of the store's size. -/
def State.storeLog (s : State) : Nat := min 37 (max 20 (s.fld CTX_CFG.SIZE_LOG2 0))

/-- C: the number of contexts. -/
def State.ctxCount (s : State) : Nat := 2 ^ (s.storeLog - 9)

/-- k: the levels of the tree in memory. -/
def State.levels (s : State) : Nat := (s.storeLog - 12 + 2) / 3

/-- The nodes of level j. -/
def State.levelNodes (s : State) (j : Nat) : Nat := s.ctxCount / 8 ^ j

/-- The offset of level j in the tree region. -/
def State.levelBase (s : State) (j : Nat) : Nat := 64 * ((List.range' 1 (j - 1)).map (fun i => s.levelNodes i)).sum

/-- The pages of the tree region. -/
def State.treePages (s : State) : Nat := (s.levelBase (s.levels + 1) + 4095) / 4096

/-- The address of a node. -/
def State.nodeAddr (s : State) (lvl idx : Nat) : Nat := 4096 * s.fld CTX_TREE_BASE.BASE 0 + s.levelBase lvl + 64 * idx

/-- The address of a record. -/
def State.recordAddr (s : State) (h : Nat) : Nat := 4096 * s.fld CTX_STORE_BASE.BASE 0 + 512 * h

/-- The attributes of context records and tree nodes (R373). -/
def storeAttr : Attr := ownAttr true true false

/-- The key of a node in the tree-node cache. -/
def nodeKey (lvl idx : Nat) : Nat := lvl * 2 ^ 32 + idx

/-- A node of the tree-node cache; one that is not cached holds no counters. -/
def State.node (s : State) (lvl idx : Nat) : Node := Tbl.get {} s.ctx.nodes (nodeKey lvl idx)

/-- The state with a node of the tree-node cache. -/
def State.setNode (s : State) (lvl idx : Nat) (n : Node) : State :=
  { s with ctx := { s.ctx with nodes := Tbl.set {} s.ctx.nodes (nodeKey lvl idx) n } }

/-- A node is cached. -/
def State.cached (s : State) (lvl idx : Nat) : Bool := !(s.node lvl idx).c.isEmpty

/-- A node's counter in its parent: the root's for level k (R106, R108); none where the parent is not cached. -/
def State.parentCounter (s : State) (lvl idx : Nat) : Option Nat :=
  if lvl = s.levels then s.ctx.root[idx]?
  else (s.node (lvl + 1) (idx / 8)).c[idx % 8]?

/-- The use of a node is noted, for the least recently used choice (R118). -/
def State.touchNode (s : State) (lvl idx : Nat) : State :=
  let n := s.node lvl idx
  if n.c.isEmpty then s
  else
    let s := s.setNode lvl idx { n with used := s.ctx.useClock + 1 }
    { s with ctx := { s.ctx with useClock := s.ctx.useClock + 1 } }

/-- A counter that an answered write has raised waits for its node to be cached again; level 0 is a context's (R117, R120). -/
def State.owe (s : State) (lvl idx v : Nat) : State :=
  { s with ctx := { s.ctx with owed := Tbl.set 0 s.ctx.owed (nodeKey lvl idx) v } }

/-- The counters that wait for a node or for one under it are lost with its subtree (R112, R120). -/
def State.dropOwed (s : State) (lvl idx : Nat) : State :=
  { s with ctx := { s.ctx with owed := s.ctx.owed.filter (fun p =>
    let l := p.1 / 2 ^ 32
    !(decide (l < lvl) && p.1 % 2 ^ 32 / 8 ^ (lvl - l) == idx)) } }

/-- A counter of a node's parent, or of the root, takes a value; the parent becomes dirty, and has been used. One whose parent is
not cached waits for it. -/
def State.setParentCounter (s : State) (lvl idx v : Nat) : State :=
  if lvl = s.levels then { s with ctx := { s.ctx with root := s.ctx.root.set idx v } }
  else if !s.cached (lvl + 1) (idx / 8) then s.owe lvl idx v
  else
    let p := s.node (lvl + 1) (idx / 8)
    (s.setNode (lvl + 1) (idx / 8) { p with c := p.c.set (idx % 8) v, dirty := true }).touchNode (lvl + 1) (idx / 8)

/-- Bytes 0–55 of a node. -/
def nodeBody (c : List Nat) : Bytes := (List.range 8).flatMap (fun i => leBytes (c.getD i 0) 7)

/-- A node's MAC (R106). -/
def nodeMac (tree : Bytes) (lvl idx p : Nat) (body : Bytes) : Bytes :=
  (gcmTag tree (leBytes lvl 1 ++ beBytes idx 4 ++ beBytes p 7) body []).take 8

/-- The counters in a node's bytes. -/
def nodeCounters (b : Bytes) : List Nat := (List.range 8).map (fun i => numAt b (7 * i) 7)

/-- A node read from memory is good under its parent's counter (R106, R109). -/
def nodeGood (tree : Bytes) (lvl idx p : Nat) (b : Bytes) : Bool :=
  if p = 0 then b.all (· == 0) else nodeMac tree lvl idx p (slice b 0 56) == slice b 56 8

/-- The least recently used node of those that have no cached child (R118); a leaf whose counter a write in flight will
raise stays. -/
def State.nodeVictim (s : State) : Option (Nat × Nat × Node) :=
  let free := s.ctx.nodes.filter (fun p =>
    let lvl := p.1 / 2 ^ 32
    let idx := p.1 % 2 ^ 32
    let held := lvl == 1 && s.ctx.ways.any (fun w => w.2.wbVersion != 0 && w.2.handle / 8 == idx)
    let cmd := lvl == 1 && s.ctx.cmd.any (fun c => c.version != 0 && c.handle / 8 == idx)
    !(s.ctx.nodes.any (fun q => q.1 / 2 ^ 32 + 1 == lvl && q.1 % 2 ^ 32 / 8 == idx)) && p.2.writing.isNone && !held && !cmd)
  (free.foldl (fun (b : Option (Nat × Node)) p =>
    match b with
    | none => some p
    | some q => if p.2.used < q.2.used then some p else some q) none).map
    (fun p => (p.1 / 2 ^ 32, p.1 % 2 ^ 32, p.2))

/-! ## Error records and the bad table (R112, R129) -/

/-- An error goes into CTX_ERR_HANDLE and CTX_ERR_INFO: the first one's fields are kept, every one is counted. -/
def State.ctxError (s : State) (kind level handle : Nat) : State :=
  let s :=
    if s.flag CTX_ERR_INFO.VALID 0 then s
    else
      let s := s.put CTX_ERR_HANDLE.HANDLE 0 handle
      let s := s.putFlag CTX_ERR_INFO.VALID 0 true
      let s := s.put CTX_ERR_INFO.KIND 0 kind
      s.put CTX_ERR_INFO.LEVEL 0 level
  s.bump CTX_ERR_INFO.COUNT 0 1

/-- Entry i of the bad table covers a handle. -/
def State.badCovers (s : State) (i h : Nat) : Bool :=
  s.flag CTX_BAD.VALID i && (let j := s.fld CTX_BAD.LEVEL i; h / 8 ^ j == s.fld CTX_BAD.HANDLE i / 8 ^ j)

/-- The status under which the bad table lists a handle. -/
def State.badStatus (s : State) (h : Nat) : Option Nat :=
  (firstBelow 16 (fun i => s.badCovers i h)).map (fun i =>
    if s.flag CTX_BAD.ROLLBACK i then stRollback else stContextIntegrity)

/-- A lasting integrity failure is listed in the lowest free entry; answers whether there was one. -/
def State.listBad (s : State) (rollback : Bool) (level handle : Nat) : Bool × State :=
  match firstBelow 16 (fun i => !s.flag CTX_BAD.VALID i) with
  | none => (false, s)
  | some i =>
    (true, s.setReg .CTX_BAD i (BitVec.ofNat 64 (2 ^ 63 + b2n rollback * 2 ^ 62 + level * 2 ^ 32 + handle)))

/-! ## Ways (R114, R115) -/

/-- One way, by bank × 64 + way. -/
def State.way (s : State) (k : Nat) : Way := Tbl.get {} s.ctx.ways k

/-- The state with one way. -/
def State.setWay (s : State) (k : Nat) (w : Way) : State :=
  { s with ctx := { s.ctx with ways := Tbl.set {} s.ctx.ways k w } }

/-- The state with one way changed. -/
def State.updWay (s : State) (k : Nat) (f : Way → Way) : State := s.setWay k (f (s.way k))

/-- The way that holds a handle. -/
def State.findWay (s : State) (h : Nat) : Option Nat :=
  (s.ctx.ways.find? (fun p => p.2.st != .free && p.2.handle == h)).map (fun p => p.1)

/-- A FREE way of a bank. -/
def State.freeWay (s : State) (b : Nat) : Option Nat :=
  (firstBelow 64 (fun w => (s.way (64 * b + w)).st == .free)).map (fun w => 64 * b + w)

/-- A way becomes FREE, zeroized. -/
def State.wipeWay (s : State) (k : Nat) : State := s.setWay k {}

/-- The pounce key that covers the key lines of a way. -/
def State.wayKey (s : State) (k : Nat) : BitVec 1024 := (s.bank (k / 64)).covers (s.way k).pass

/-- The context of a way with its keys in clear. -/
def State.clearCtx (s : State) (k : Nat) : Ctx := (s.way k).ctx.mask (s.wayKey k)

/-- The key lines of a way are written: a bank that holds K and K' takes them under K', with the pass bit set as re-masked
(R244). -/
def State.freshWay (s : State) (k : Nat) : State :=
  let b := s.bank (k / 64)
  let x := s.clearCtx k
  s.updWay k (fun w => { w with ctx := x.mask b.fresh, pass := b.freshPass })

/-- The context of a way changed by f, which works on it with the keys in clear; the way becomes dirty (R115). -/
def State.modCtx (s : State) (k : Nat) (f : Ctx → Ctx) : State :=
  let key := s.wayKey k
  s.updWay k (fun w => { w with ctx := (f (w.ctx.mask key)).mask key, dirty := true })

/-- WRAP and TREE as bytes, while key custody holds them. -/
def State.wrapKey (s : State) : Option Bytes := s.key.wrap.map (fun k => bvBytes k 32)
def State.treeKey (s : State) : Option Bytes := s.key.tree.map (fun k => bvBytes k 32)

/-! ## The miss buffer (R110, R113) -/

/-- One miss-buffer entry. -/
def State.miss? (s : State) (h : Nat) : Option Miss := s.ctx.misses.find? (fun m => m.handle == h)

/-- The state with the entry of a handle. -/
def State.setMiss (s : State) (m : Miss) : State :=
  { s with ctx := { s.ctx with misses := s.ctx.misses.map (fun (x : Miss) => if x.handle == m.handle then m else x) } }

/-- The state without the entry of a handle; a queue held for want of an entry may go on (R113). -/
def State.dropMiss (s : State) (h : Nat) : State :=
  ({ s with ctx := { s.ctx with misses := s.ctx.misses.filter (fun (x : Miss) => x.handle != h) } }).unholdAll

/-- Miss-buffer entries in use, and the most there may be (R113, R129). -/
def State.missBusy (s : State) : Nat := (s.ctx.misses.filter (fun (m : Miss) => !m.leafOnly)).length
def State.missMax (s : State) : Nat := min 64 (max 1 (s.fld CTX_XMISS.MAX 0))

/-- The levels from low up that lie below the lowest cached ancestor of a handle's leaf, lowest first. -/
def State.missing (s : State) (h low : Nat) : List Nat :=
  (List.range' low (s.levels + 1 - low)).takeWhile (fun j => !s.cached j (h / 8 ^ j))

/-- The reads of some levels' nodes, and of the record, go out. -/
def State.startMissReads (s : State) (m : Miss) (levels : List Nat) (record : Bool) : State :=
  let s := s.setMiss { m with reads := m.reads + levels.length + b2n record, levels := m.levels ++ levels }
  let s := levels.foldl (fun s j =>
    (s.startRead (.treeNode m.handle j (m.handle / 8 ^ j)) storeAttr (s.nodeAddr j (m.handle / 8 ^ j)) 64 none).2) s
  if record then (s.startRead (.ctxRecord m.handle) storeAttr (s.recordAddr m.handle) 512 none).2 else s

/-- A page-in begins: every uncached node below the lowest cached ancestor and the record are read, apart from nodes that the
entry has read already (R110 step 2). -/
def State.beginPagein (s : State) (h : Nat) : State :=
  match s.miss? h with
  | none => s
  | some m =>
    (s.perfCount 48 1).startMissReads { m with wayWait := false }
      ((s.missing h m.low).filter (fun j => !m.levels.contains j)) (!m.leafOnly)

/-- A miss that waits takes a FREE way of its bank and begins its page-in (R113). -/
def State.allocWay (s : State) (h : Nat) : State :=
  match s.freeWay (h % 64) with
  | none => s
  | some k => (s.setWay k { st := .filling, handle := h }).beginPagein h

/-- A new entry for a miss: it takes a FREE way, or waits for one. -/
def State.newMiss (s : State) (h : Nat) (e : Elem) : State :=
  let s := { s with ctx := { s.ctx with misses := s.ctx.misses ++ [({ handle := h, waiting := [e], wayWait := true } : Miss)] } }
  s.allocWay h

/-- A page-in of a handle's leaf alone (R117, R127). An entry that reads a higher node again under the handle goes on to the
leaf (R120). -/
def State.newLeafMiss (s : State) (h : Nat) : State :=
  match s.miss? h with
  | some m => if m.leafOnly && decide (1 < m.low) then (s.setMiss { m with low := 1 }).beginPagein h else s
  | none =>
    ({ s with ctx := { s.ctx with misses := s.ctx.misses ++ [({ handle := h, leafOnly := true } : Miss)] } }).beginPagein h

/-- A node that was dropped for an error is read again, under a handle below it that has no entry (R120). -/
def State.rereadNode (s : State) (lvl idx : Nat) : State :=
  match firstBelow (min 128 (8 ^ lvl)) (fun i => (s.miss? (idx * 8 ^ lvl + i)).isNone) with
  | none => s
  | some i =>
    let h := idx * 8 ^ lvl + i
    ({ s with ctx := { s.ctx with
      misses := s.ctx.misses ++ [({ handle := h, leafOnly := true, low := lvl } : Miss)] } }).beginPagein h

/-! ## Learn records (R122, R123) -/

/-- log2 of the learn ring's size. -/
def State.learnLog (s : State) : Nat := min 16 (max 6 (s.fld CTX_LEARN_CFG.SIZE_LOG2 0))

/-- The 32 bytes of a learn record. -/
def learnBytes (e : Elem) (now : Nat) : Bytes :=
  leBytes (e.d.opcode * 2 ^ 48 + e.rq * 2 ^ 40 + e.func * 2 ^ 32 + e.d.object) 8 ++ leBytes e.d.aux0 8 ++
    leBytes e.idx 8 ++ leBytes now 8

/-- A learn record is posted, or withheld and counted; HOLDOFF counts units of 32 QCLK cycles (R123). DESIGN CHOICE (log 104): the
chain time of W3 is that of the lookup that decided the request, so for one that missed that of the end of its page-in. -/
def State.postLearn (s : State) (e : Elem) : State :=
  let h := e.d.object
  if !s.flag CTX_LEARN_CFG.EN 0 then s
  else
    let hold := s.fld CTX_LEARN_CFG.HOLDOFF 0
    if s.ctx.learnRecent.any (fun p => p.1 == h && decide (s.hb.ticks < p.2 + hold)) then
      s.bump CTX_LEARN_DROP.SUPPRESSED 0 1
    else if 2 ^ s.learnLog - 1 ≤ s.ctx.learnPos - s.ctx.learnCons then s.bump CTX_LEARN_DROP.DROPPED 0 1
    else
      let pos := s.ctx.learnPos
      let s := { s with ctx := { s.ctx with
        learnPos := pos + 1
        learnWriting := s.ctx.learnWriting + 1
        learnRecent := ((h, s.hb.ticks) :: s.ctx.learnRecent.filter (fun p => p.1 != h)).take 64 } }
      let s := (s.perfCount 54 1).fnCount e.func 17 1
      (s.startWrite .learnRecord (ownAttr false true false) (4096 * s.fld CTX_LEARN_BASE.BASE 0 + 32 * (pos % 2 ^ s.learnLog))
        (learnBytes e s.now) none).2

/-- The learn mirror is written when the records before it are in memory. -/
def State.learnMirrorWrite (s : State) : State :=
  let pos := s.ctx.learnPos
  let size := 2 ^ s.learnLog
  let v := pos / size % 2 ^ 32 * 2 ^ 32 + pos % size
  let s := { s with ctx := { s.ctx with learnMirror := some pos } }
  (s.startWrite .learnMirror (ownAttr false false true) (8 * s.fld CTX_LEARN_MIRROR.ADDR 0) (leBytes v 8) none).2

/-! ## The flip at lookup (R133–R135) -/

/-- Frames that use a slot of a context: those that have pushed and wait for their DST writes may still be replayed with it (R96,
R135; DEDUCED, log 98). -/
def State.slotInUse (s : State) (h : Nat) (b : Bool) (gen : Nat) : Bool :=
  s.frames.list.any (fun f => f.elem.d.object == h && f.slotB == b && f.gen == gen)

/-- A slot's key leaves it: it is kept for the frames in flight that were dispatched with it, otherwise it is gone. -/
def Slot.retireKey (x : Slot) (inUse : Bool) : Slot :=
  { x with
    key := 0, salt := 0, hpow := 0, pn := 0, thresh := 0
    old := if inUse then Tbl.ins x.old x.gen (x.key, x.salt, x.hpow) else x.old }

/-- A flip is due: the inactive slot is ARMED and EPOCH_CUR is above EPOCH_ID (R133). -/
def State.flipDue (s : State) (c : Ctx) : Bool :=
  (c.slot (!c.activeB)).st == .armed && decide (c.epochId < s.fld EPOCH_CUR.EPOCH 0)

/-- A due flip is applied to a context whose keys are in clear. -/
def State.applyFlip (s : State) (c : Ctx) : Ctx :=
  let old := c.slot c.activeB
  let new := c.slot (!c.activeB)
  let inUse := s.slotInUse c.handle c.activeB old.gen
  let old' := if c.sends then { old.retireKey inUse with st := .empty } else old
  { ((c.setSlot c.activeB old').setSlot (!c.activeB) { new with st := .active }) with
    activeB := !c.activeB, epochId := c.epochId + 1 }

/-- The old slot of a MACsec receive context is retired (R134). -/
def State.rxOldDue (s : State) (c : Ctx) : Bool :=
  let cur := s.fld EPOCH_CUR.EPOCH 0
  isMacsec c.suite && c.rx && (c.slot (!c.activeB)).st == .active &&
    (decide (c.epochId < cur) ||
      (c.epochId == cur && decide (s.fld EPOCH_LAST.TIME 0 + 1000 * s.fld EPOCH_RXOVL.OVERLAP 0 ≤ s.now)))

/-- The inactive slot of a context becomes EMPTY with its key zeroized. -/
def State.retireOld (s : State) (c : Ctx) : Ctx :=
  let x := c.slot (!c.activeB)
  c.setSlot (!c.activeB) { x.retireKey (s.slotInUse c.handle (!c.activeB) x.gen) with st := .empty }

/-- What every lookup does to the context it finds: a due flip, then a due retirement of the old receive slot. An overlap
of 0xFFFF_FFFF lasts until the next flip (R146). -/
def State.lookupEpoch (s : State) (k : Nat) : State :=
  let c := s.clearCtx k
  let s := if s.flipDue c then s.modCtx k (fun c => s.applyFlip c) else s
  let c := s.clearCtx k
  if s.rxOldDue c && !(s.fld EPOCH_RXOVL.OVERLAP 0 == 2 ^ 32 - 1 && c.epochId == s.fld EPOCH_CUR.EPOCH 0) then
    s.modCtx k (fun c => s.retireOld c)
  else s

/-- Old keys of a context that no frame in flight uses any more are zeroized (R135). -/
def State.purgeOld (s : State) (k : Nat) : State :=
  let h := (s.way k).handle
  let keep (b : Bool) (x : Slot) : Slot := { x with old := x.old.filter (fun p => s.slotInUse h b p.1) }
  s.updWay k (fun w => { w with ctx := { w.ctx with a := keep false w.ctx.a, b := keep true w.ctx.b } })

/-! ## Lookup (R121) -/

/-- What a lookup decides. -/
inductive Look where
  /-- the request completes with a status -/
  | refused (status : Nat)
  /-- it waits in the miss buffer -/
  | parked
  /-- it can join no miss-buffer entry (R113) -/
  | held
  /-- row 9: the way of its context -/
  | found (k : Nat)
deriving DecidableEq, Repr

/-- A request whose handle is being paged in joins its entry, or finds it full; a page-in that reads a node of its path again for an
error becomes the page-in of the handle (R113, R120). -/
def State.joinMiss (s : State) (h : Nat) (e : Elem) : Look × State :=
  match s.miss? h with
  | none =>
    if s.missBusy < s.missMax then (.parked, (s.newMiss h e).fnCount e.func 16 1) else (.held, s)
  | some m =>
    if m.leafOnly then
      if s.missBusy < s.missMax then
        (.parked, ((s.setMiss { m with leafOnly := false, low := 1, waiting := [e], wayWait := true }).allocWay h).fnCount
          e.func 16 1)
      else (.held, s)
    else if m.waiting.length < 16 then
      (.parked, ((s.setMiss { m with waiting := m.waiting ++ [e] }).perfCount 49 1).fnCount e.func 16 1)
    else (.held, s)

/-- A CTX_CMD RETIRE_HANDLE of the handle runs. -/
def State.retiringHandle (s : State) (h : Nat) : Bool :=
  match s.ctx.cmd with
  | some c => c.op == 3 && c.handle == h && c.result.isNone
  | none => false

/-- The lookup of a request with a context opcode, by the rows of R121; install tells a CTX_INSTALL. A request that comes back from
the miss buffer is no new lookup and no hit to the counters (R350, R351). -/
def State.lookup (s : State) (e : Elem) (install : Bool) : Look × State :=
  let h := e.d.object
  let first := b2n (!e.waited)
  let s := (s.perfCount 46 first).fnCount e.func 15 first
  if s.ctxCount ≤ h then (.refused stInvalidOperand, s)
  else if s.ctx.allFenced || s.ctx.badBanks.contains (h % 64) then (.refused stFenced, s)
  else if s.ctx.store == .uninit || s.ctx.store == .initialising then (.refused stNoContext, s)
  else
    match s.badStatus h with
    | some st => (.refused st, s)
    | none =>
      if s.retiringHandle h then (.refused stNoContext, s)
      else
        match s.findWay h with
        | none => s.joinMiss h e
        | some k =>
          let w := s.way k
          if w.retiring then (.refused stNoContext, s)
          else if w.st == .filling then s.joinMiss h e
          else if w.st == .fenced || w.ctx.st == .fenced then (.refused stFenced, s)
          else if w.ctx.owner ≠ e.func then
            (.refused (if install then stInvalidOperand else stOwnerMismatch), s)
          else
            let s := s.perfCount 47 first
            let s := s.updWay k (fun w => { w with
              hit := true, age := 0, evictPend := false, st := if w.st == .writing then .live else w.st })
            if install then (.refused stInvalidOperand, s) else (.found k, s.lookupEpoch k)

/-! ## Release of waiting requests -/

/-- A job's element is a given one. -/
def Elem.same (a b : Elem) : Bool := a.rq == b.rq && a.idx == b.idx && a.lap == b.lap

/-- Waiting requests are released in arrival order: frames go back to the front of dispatch, others to their engine's
queue (R110 step 7); P3 (R355). -/
def State.releaseElems (s : State) (l : List Elem) : State :=
  let frames := (l.filter (fun (e : Elem) => e.d.isFrame)).map (fun (e : Elem) => { e.stamp 3 s.now with waited := true })
  let free (j : Job) : Job :=
    if l.any (fun e => e.same j.elem) then { j with parked := false, elem := { j.elem.stamp 3 s.now with waited := true } } else j
  { s.unholdAll with
    qeng := { s.unholdAll.qeng with issued := frames ++ s.qeng.issued }
    ctx := { s.ctx with jobs := s.ctx.jobs.map free }
    key := { s.key with jobs := s.key.jobs.map free } }

/-- The epoch a CTX_ARM_NEXT targets, as it stands at the commit (R130). -/
def State.armEpoch (s : State) (d : Desc) : Nat :=
  let e := bitsOf d.aux0 63 32
  if e ≠ 0 then e else if s.epoch.pending then s.epoch.pend else s.fld EPOCH_CUR.EPOCH 0 + 1

/-- VALUE of a request that its lookup refuses: a CTX_ARM_NEXT reports the epoch it is refused for (R148). -/
def State.refusedValue (s : State) (e : Elem) : Nat := if e.d.opcode = 0x41 then s.armEpoch e.d % 2 ^ 32 else 0

/-- An element that waits in the context store logic or in key custody completes with a status, without its engine. -/
def State.failWaiting (s : State) (e : Elem) (status : Nat) : State :=
  let s := { s with
    ctx := { s.ctx with jobs := s.ctx.jobs.filter (fun (j : Job) => !j.elem.same e) }
    key := { s.key with jobs := s.key.jobs.filter (fun (j : Job) => !j.elem.same e) } }
  (s.unhold e.rq).push 22 { elem := e, status := status, value := s.refusedValue e }

/-- Requests that waited for a context are released once it is LIVE under an owner. A CTX_RETIRE of that owner among them
takes the way in its turn: those that arrived after it complete with NO_CONTEXT (R110 step 7, R121 row 5). -/
def State.releaseLive (s : State) (owner : Nat) (l : List Elem) : State :=
  let pre := l.takeWhile (fun (e : Elem) => !(e.d.opcode == 0x42 && e.func == owner))
  let s := s.releaseElems (l.take (pre.length + 1))
  (l.drop (pre.length + 1)).foldl (fun s e => s.failWaiting e stNoContext) s

/-! ## Write-back (R117) -/

/-- A RETIRE_HANDLE of a handle that runs ends with a RESULT (R127). -/
def State.retireCmdEnds (s : State) (h r : Nat) : State :=
  match s.ctx.cmd with
  | some c => if s.retiringHandle h then { s with ctx := { s.ctx with cmd := some { c with result := some r } } } else s
  | none => s

/-- The write-back of a way cannot be completed: the way is FENCED and stays resident, V198 is raised (R115, R117). A
CTX_RETIRE that waits for it completes with the status, FABRIC_ERROR after a failed write, a RETIRE_HANDLE ends, and the way goes on
answering NO_CONTEXT (R111, R125, R127). DESIGN CHOICE (log 118): a FLUSH that was to write the way waits, as for a node, until a
sweep pass has written it, and then ends with RESULT 0. -/
def State.wayFailed (s : State) (k status : Nat) : State :=
  let w := s.way k
  let s := (s.ctxError 6 0 w.handle).raiseFault (pg .ctx) 10
  let s := s.updWay k (fun w => { w with
    st := .fenced, dirty := true, wbVersion := 0, wbFailed := true, evictPend := false,
    ctx := if w.retiring then w.ctx else { w.ctx with st := .fenced } })
  match s.ctx.jobs.find? (fun j => j.elem.d.opcode == 0x42 && j.elem.d.object == w.handle && decide (1 ≤ j.phase)) with
  | some j => if w.retiring then s.failWaiting j.elem status else s
  | none => if w.retiring then s.retireCmdEnds w.handle (if status = stFabricError then 2 else 3) else s

/-- The seal and the write of a way whose leaf is cached. The snapshot is taken now: later updates make the way dirty
again (R117 steps 2 to 4). -/
def State.sealWay (s : State) (k : Nat) : State :=
  let w := s.way k
  let h := w.handle
  match s.wrapKey, (s.node 1 (h / 8)).c[h % 8]? with
  | some wrap, some v =>
    if 2 ^ 56 - 1 ≤ v then s.wayFailed k stFabricError
    else
      let c := { s.clearCtx k with version := v + 1 }
      let s := s.updWay k (fun w => { w with
        wbVersion := v + 1, flushSealed := w.flushing, dirty := false, st := if w.st == .live then .writing else w.st })
      let s := (s.touchNode 1 (h / 8)).perfCount 50 1
      (s.startWrite (.ctxWriteback h) storeAttr (s.recordAddr h) (sealRecord wrap h (v + 1) c.bytes) none).2
  | _, _ => s

/-- A way is written back: at once if its leaf is cached, otherwise after its leaf is paged in (R117 step 1). -/
def State.writeBack (s : State) (k : Nat) : State :=
  let w := s.way k
  if w.wbVersion != 0 then s
  else if s.cached 1 (w.handle / 8) then s.sealWay k
  else (s.updWay k (fun w => { w with st := if w.st == .live then .writing else w.st })).newLeafMiss w.handle

/-- A dirty node is written back under its parent's next counter; where that counter cannot be raised the node stays cached and
dirty, as after a failed write (R117; DESIGN CHOICE, log 105). -/
def State.writeNode (s : State) (lvl idx : Nat) : State :=
  let n := s.node lvl idx
  match s.treeKey, s.parentCounter lvl idx with
  | some tree, some p =>
    if n.writing.isSome || n.c.isEmpty then s
    else if 2 ^ 56 - 1 ≤ p then
      if n.failed then s
      else ((s.setNode lvl idx { n with dirty := true, failed := true }).ctxError 6 lvl (idx * 8 ^ lvl)).raiseFault (pg .ctx) 10
    else
      let s := s.setNode lvl idx { n with writing := some (p + 1), dirty := false, failed := false }
      let b := nodeBody n.c
      let s := s.perfCount 53 1
      (s.startWrite (.nodeWriteback lvl idx) storeAttr (s.nodeAddr lvl idx) (b ++ nodeMac tree lvl idx (p + 1) b) none).2
  | _, _ => s

/-- Eviction of an unpinned way: a clean one becomes FREE, a dirty one is written back, one whose write is still out becomes FREE
with its response (R115, R116). -/
def State.evict (s : State) (k : Nat) : State :=
  let w := s.way k
  if w.pins ≠ 0 then s.updWay k (fun w => { w with evictPend := true })
  else if w.wbVersion ≠ 0 then s.updWay k (fun w => { w with st := if w.st == .live then .writing else w.st })
  else
    let s := s.perfCount 51 1
    if w.dirty then s.writeBack k else s.wipeWay k

/-- The context of a way that is retired is zeroized, and its EMPTY record is written back (R125). -/
def State.emptyWay (s : State) (k : Nat) : State :=
  (s.updWay k (fun w => { w with dirty := true, ctx := { (({} : Ctx).mask (s.wayKey k)) with handle := w.handle } })).writeBack k

/-- The pin count of a way falls by one; an eviction or a retire that waited for it goes on (R74, R116, R125). -/
def State.unpin (s : State) (h : Nat) : State :=
  match s.findWay h with
  | none => s
  | some k =>
    let s := (s.updWay k (fun w => { w with pins := w.pins - 1 })).purgeOld k
    let w := s.way k
    if w.pins ≠ 0 then s
    else if w.retiring && w.ctx.st != .empty then s.emptyWay k
    else if w.flushing && w.wbVersion == 0 then s.writeBack k
    else if w.evictPend then (s.updWay k (fun w => { w with evictPend := false })).evict k
    else s

/-- A retire takes a way: its keys are zeroized and the EMPTY record is sealed once no frame pins it (R125). -/
def State.retireWay (s : State) (k : Nat) : State :=
  let s := s.updWay k (fun w => { w with retiring := true, evictPend := false })
  let w := s.way k
  if w.pins ≠ 0 then s else s.emptyWay k

/-! ## FLUSH (R127, R128) -/

/-- A way counts as dirty: it has changed, or its write is still out (CTX_OCC.DIRTY, R129). -/
def Way.isDirty (w : Way) : Bool := w.dirty || w.wbVersion != 0

/-- Nothing of a FLUSH is left to write back: no way marked at its acceptance, no dirty node, no write outstanding and no counter that
waits for its node. -/
def State.flushed (s : State) : Bool :=
  s.ctx.ways.all (fun p => !p.2.flushing) && s.ctx.nodes.all (fun p => !p.2.dirty && p.2.writing.isNone) && s.ctx.owed.isEmpty

/-- FLUSH goes on: the ways marked at its acceptance first, then dirty nodes from the leaves up, a level's nodes once none
below them remains. A pinned way waits (R74); a write-back that failed waits for the sweeper's retry. -/
def State.flushMore (s : State) : State :=
  let ways := (s.ctx.ways.filter (fun p => p.2.flushing && p.2.wbVersion == 0 && p.2.st == .live && p.2.pins == 0)).map
    (fun p => p.1)
  let s := ways.foldl (fun s k => s.writeBack k) s
  if s.ctx.ways.any (fun p => p.2.flushing) then s
  else
    let busy := s.ctx.nodes.filter (fun p => p.2.dirty || p.2.writing.isSome)
    match busy.map (fun p => p.1 / 2 ^ 32) with
    | [] => s
    | l :: ls =>
      let low := ls.foldl min l
      ((busy.filter (fun p => p.1 / 2 ^ 32 == low && !p.2.failed && p.2.writing.isNone)).map (fun p => p.1)).foldl
        (fun s k => s.writeNode (k / 2 ^ 32) (k % 2 ^ 32)) s

/-- FLUSH begins: every dirty way is marked, one whose write is out too: that write serves it unless the way has changed since
its seal. -/
def State.flushStart (s : State) : State :=
  let dirty := (s.ctx.ways.filter (fun p => p.2.isDirty || p.2.st == .writing)).map (fun p => p.1)
  let s := dirty.foldl (fun s k => s.updWay k (fun w => { w with flushing := true, flushSealed := !w.dirty })) s
  { s with ctx := { s.ctx with store := .flushing } }

/-- A FLUSH that runs ends when nothing is left to write: DONE of the command follows at CTX_CMD_DONE (R127). -/
def State.flushCheck (s : State) : State :=
  if s.ctx.store != .flushing then s
  else
    let s := s.flushMore
    if s.flushed then
      let s := { s with ctx := { s.ctx with store := .ready, autoFlush := false } }
      match s.ctx.cmd with
      | some c => if c.op == 2 then { s with ctx := { s.ctx with cmd := some { c with result := some 0 } } } else s
      | none => s
    else s

end Sys2Proof.Machine
end

