-- ==== Sys2Proof/Machine/Pagein.lean ====
section
/-! DEFINITION. The context store at work: page-ins verified and filled, write-backs, the sweeper, errors of the cache, the
context commands and CTX_CMD (R109–R120, R125–R128). -/

namespace Sys2Proof.Machine

/-! ## Page-in (R110, R111) -/

/-- A node takes its slot; a counter that an answered write has raised while the node was not cached takes its value, and the node is
dirty then (R117, R120). -/
def State.putNode (s : State) (lvl idx : Nat) (c : List Nat) : State :=
  let due (i : Nat) : Nat := Tbl.get 0 s.ctx.owed (nodeKey (lvl - 1) (8 * idx + i))
  let c' := c.zipIdx.map (fun (x : Nat × Nat) => if due x.2 = 0 then x.1 else due x.2)
  let s := s.setNode lvl idx { c := c', dirty := c' != c, used := s.ctx.useClock + 1 }
  { s with ctx := { s.ctx with
    useClock := s.ctx.useClock + 1
    owed := s.ctx.owed.filter (fun p => !(p.1 / 2 ^ 32 + 1 == lvl && p.1 % 2 ^ 32 / 8 == idx)) } }

/-- A node that was verified takes a slot of the tree-node cache: answers false where every slot is held, and then a dirty
victim is being written (R118). -/
def State.enterNode (s : State) (lvl idx : Nat) (c : List Nat) : Bool × State :=
  let put (s : State) : State := s.putNode lvl idx c
  if s.ctx.nodes.length < 8192 then (true, put s)
  else
    match s.nodeVictim with
    | none => (false, s)
    | some (l, i, n) => if n.dirty then (false, s.writeNode l i) else (true, put (s.setNode l i {}))

/-- What the verification of the nodes of a page-in comes to. -/
inductive Verify where
  | good
  /-- a node's MAC is wrong -/
  | bad (level : Nat)
  /-- a node is neither cached nor read -/
  | want (levels : List Nat)
  /-- no slot is free for a node -/
  | full
deriving DecidableEq, Repr

/-- The nodes of a page-in are verified from the top down and entered in the tree-node cache (R110 step 3). -/
def State.verifyNodes (s : State) (tree : Bytes) (m : Miss) : List Nat → Verify × State
  | [] => (.good, s)
  | j :: below =>
    let idx := m.handle / 8 ^ j
    if s.cached j idx then s.verifyNodes tree m below
    else
      let b := Tbl.get [] m.nodes j
      if b.isEmpty then (.want [j], s)
      else
        match s.parentCounter j idx with
        | none => (.want [j + 1], s)
        | some p =>
          if nodeGood tree j idx p b then
            match (s.touchNode (j + 1) (idx / 8)).enterNode j idx (nodeCounters b) with
            | (true, s) =>
              let k := 2 ^ 40 + nodeKey j idx
              let s := if s.ctx.eccDropped.contains k then
                  ({ s with ctx := { s.ctx with eccDropped := s.ctx.eccDropped.filter (· != k) } }).transient (pg .ctx)
                else s
              s.verifyNodes tree m below
            | (false, s) => (.full, s)
          else (.bad j, s)

/-- Verification failed: the record and every node from the failing level down are read again, once; after that the
page-in has failed (R111). -/
def State.pageinBad (s : State) (m : Miss) (f : PageFail) (level : Nat) : State :=
  if m.retried then s.setMiss { m with verdict := some (some f) }
  else
    let again := (List.range' m.low (level + 1 - m.low)).filter (fun j => !s.cached j (m.handle / 8 ^ j))
    let m := { m with
      retried := true, record := none
      nodes := m.nodes.filter (fun p => decide (level < p.1)) }
    s.startMissReads m again (!m.leafOnly)

/-- The lookup of a CTX_INSTALL or a CTX_ARM_NEXT lets it proceed: its wrapped key material is read now (R101, R112, R121, R124,
R130). -/
def State.readMaterial (s : State) (e : Elem) : State :=
  match s.key.jobs.find? (fun (j : Job) => j.elem.same e) with
  | none => s
  | some j =>
    let j := { j with parked := false, phase := 1, elem := j.elem.stamp 3 s.now }
    let (j, s) := if e.d.srcLen = 56 then s.readPart j 0 e.d.src 56 else (j, s)
    { s with key := { s.key with jobs := updJob s.key.jobs j.id (fun _ => j) } }

/-- The write of the EMPTY record of a RETIRE_HANDLE whose handle has no way (R127). -/
def State.retireWrite (s : State) (h : Nat) : State :=
  match s.wrapKey, (s.node 1 (h / 8)).c[h % 8]?, s.ctx.cmd with
  | some wrap, some v, some cmd =>
    if 2 ^ 56 - 1 ≤ v then s.retireCmdEnds h 2
    else
    let s := s.touchNode 1 (h / 8)
    let s := { s with ctx := { s.ctx with cmd := some { cmd with version := v + 1 } } }
    let c : Ctx := { version := v + 1, handle := h }
    (s.startWrite (.ctxWriteback h) storeAttr (s.recordAddr h) (sealRecord wrap h (v + 1) c.bytes) none).2
  | _, _, _ => s

/-- A way that a retire holds is lost to an error while frames still use it, and its context could not be read again, or is gone: the
CTX_RETIRE completes with the status of the page-in; a RETIRE_HANDLE goes on without the way (R111, R120, R125, R127). -/
def State.retireLost (s : State) (h status : Nat) : State :=
  match s.ctx.jobs.find? (fun j => j.elem.d.opcode == 0x42 && j.elem.d.object == h && decide (1 ≤ j.phase)) with
  | some j => s.failWaiting j.elem status
  | none => if s.retiringHandle h then (if s.cached 1 (h / 8) then s.retireWrite h else s.newLeafMiss h) else s

/-- The handle has no context: the waiting requests complete with NO_CONTEXT and frames post learn records, up to a
CTX_INSTALL, which takes the way; what came after it waits for the install (R115, R119, R121 row 6). -/
def State.pageinEmpty (s : State) (m : Miss) : State :=
  let before := m.waiting.takeWhile (fun (e : Elem) => e.d.opcode != 0x40)
  let rest := m.waiting.drop before.length
  let s := before.foldl (fun s e =>
    let s := if e.d.isFrame then s.postLearn e else s
    s.failWaiting e stNoContext) s
  match rest with
  | [] =>
    match s.findWay m.handle with
    | some k =>
      if (s.way k).retiring then ((s.dropMiss m.handle).wipeWay k).retireLost m.handle stNoContext
      else (s.wipeWay k).dropMiss m.handle
    | none => s.dropMiss m.handle
  | e :: after => (s.setMiss { m with waiting := after, installing := true }).readMaterial e

/-- A good record fills its way and the waiting requests are released (R110 steps 6 and 7). -/
def State.pageinFill (s : State) (m : Miss) (c : Ctx) : State :=
  match s.findWay m.handle with
  | none => s.dropMiss m.handle
  | some k =>
    let old := (s.way k).ctx
    let c := { c with a := { c.a with gen := old.a.gen }, b := { c.b with gen := old.b.gen } }
    let s := s.setWay k { s.way k with st := .live, hit := true, age := 0, dirty := false,
                                       ctx := c.mask (s.bank (k / 64)).fresh, pass := (s.bank (k / 64)).freshPass }
    let s := s.dropMiss m.handle
    let was := s.ctx.eccDropped.contains m.handle
    let s := if was then
        ({ s with ctx := { s.ctx with eccDropped := s.ctx.eccDropped.filter (· != m.handle) } }).transient (pg .ctx)
      else s
    let l := m.waiting.map (fun e => { e with refetched := e.refetched || m.retried || was })
    if c.st = .live then s.releaseLive c.owner l else s.releaseElems l

/-- The write-back of a way is still wanted: it is under eviction, written for a FLUSH or FENCED, and no frame pins it. A hit that
has made the way LIVE again meanwhile has cancelled the eviction (R74, R115). -/
def Way.writeWanted (w : Way) : Bool := w.pins == 0 && (w.st == .writing || w.flushing || (w.st == .fenced && w.dirty))

/-- A leaf that a write-back or a RETIRE_HANDLE waited for is cached. -/
def State.leafArrived (s : State) (h : Nat) : State :=
  let s := s.dropMiss h
  match s.findWay h with
  | some k => if s.retiringHandle h then s.retireWay k else if (s.way k).writeWanted then s.writeBack k else s
  | none => if s.retiringHandle h then s.retireWrite h else s

/-- A page-in whose reads are all in is verified and ends, or is retried (R110, R111). A good record waits while key custody
supplies no mask for its bank (R14). -/
def State.pageinDone (s : State) (h : Nat) : State :=
  match s.miss? h, s.wrapKey, s.treeKey with
  | some m, some wrap, some tree =>
    if m.reads ≠ 0 || m.wayWait || m.installing || m.readFail.isSome || m.verdict.isSome ||
        (m.record.isNone && !m.leafOnly) then s
    else
      match s.verifyNodes tree m (List.range' m.low (s.levels + 1 - m.low)).reverse with
      | (.full, s) => s
      | (.want l, s) => s.startMissReads m l false
      | (.bad j, s) => s.pageinBad m (.node j) j
      | (.good, s) =>
        let s := s.touchNode m.low (h / 8 ^ m.low)
        if 1 < m.low then ((if m.retried then s.transient (pg .ctx) else s).dropMiss h).flushCheck
        else if m.leafOnly then ((if m.retried then s.transient (pg .ctx) else s).leafArrived h).flushCheck
        else
          let v := (s.node 1 (h / 8)).c.getD (h % 8) 0
          let ok (s : State) : State := if m.retried then s.transient (pg .ctx) else s
          if v = 0 then ((ok s).pageinEmpty m).flushCheck
          else
            match openRecord wrap h (m.record.getD []) with
            | none => s.pageinBad m .record 0
            | some b =>
              let c := Ctx.ofBytes b
              if v < c.version ∨ c.handle ≠ h then s.pageinBad m .record 0
              else if c.version < v then s.pageinBad m .rollback 0
              else if c.st = .empty then ((ok s).pageinEmpty m).flushCheck
              else if !s.masks (h % 64) then s
              else ((ok s).pageinFill m c).flushCheck
  | _, _, _ => s

/-- What a failed page-in found: its status and the record of it. -/
def State.pageinReport (s : State) (h : Nat) (f : PageFail) (level : Nat) : Nat × State :=
  let s := s.lasting (pg .ctx)
  match f with
  | .fabric _ => (stFabricError, s.ctxError 1 level (h / 8 ^ level * 8 ^ level))
  | .node j =>
    let low := h / 8 ^ j * 8 ^ j
    (stContextIntegrity, ((s.ctxError 2 j low).raiseFault (pg .ctx) 8 |>.listBad false j low).2.dropOwed j (h / 8 ^ j))
  | .record => (stContextIntegrity, ((s.ctxError 2 0 h).raiseFault (pg .ctx) 8 |>.listBad false 0 h).2)
  | .rollback => (stRollback, ((s.ctxError 3 0 h).raiseFault (pg .ctx) 9 |>.listBad true 0 h).2)

/-- A page-in that has failed ends: its requests complete, its way becomes FREE, the bad table lists an integrity failure
(R111, R112, R115). A write-back or a RETIRE_HANDLE that wanted only the leaf fails with it (R127). Answers the status of the
requests for the context, which the frames of a way that was being read again take too (R120). -/
def State.pageinFail (s : State) (h : Nat) : Option Nat × State :=
  match s.miss? h with
  | none => (none, s)
  | some m =>
    let found : Option (PageFail × Nat) :=
      match m.readFail, m.verdict with
      | some (l, f), _ => some (.fabric f, l)
      | none, some (some f) => some (f, 0)
      | _, _ => none
    match found with
    | none => (none, s)
    | some (f, level) =>
      if m.reads ≠ 0 then (none, s)
      else
        let (st, s) := s.pageinReport h f level
        let s := s.dropMiss h
        if 1 < m.low then (none, s.flushCheck)
        else if m.leafOnly then
          (none, if s.retiringHandle h then s.retireCmdEnds h (if st = stFabricError then 2 else 3)
            else
              match s.findWay h with
              | some k => if (s.way k).writeWanted then s.wayFailed k st else s
              | none => s)
        else
          let s := match s.findWay h with
            | some k => if (s.way k).retiring then (s.wipeWay k).retireLost h st else s.wipeWay k
            | none => s
          (some st, m.waiting.foldl (fun s e => s.failWaiting e st) s)

/-- A miss that waits for a FREE way of a bank takes one (R113). -/
def State.missAllocate (s : State) (b : Nat) : State :=
  match s.ctx.misses.find? (fun m => m.wayWait && m.handle % 64 == b) with
  | none => s
  | some m => s.allocWay m.handle

/-! ## Write-backs that end (R117, R125) -/

/-- The leaf counter of a handle takes the version that was written, and the leaf becomes dirty and has been used (R117, R118); where
an error has dropped the leaf meanwhile the counter waits for it (R120). -/
def State.leafVersion (s : State) (h v : Nat) : State :=
  let n := s.node 1 (h / 8)
  if n.c.isEmpty then s.owe 0 h v
  else (s.setNode 1 (h / 8) { n with c := n.c.set (h % 8) v, dirty := true }).touchNode 1 (h / 8)

/-- The CTX_RETIRE of a handle completes (R125). -/
def State.retireEnds (s : State) (h : Nat) : State :=
  let s :=
    match s.ctx.jobs.find? (fun j => j.elem.d.opcode == 0x42 && j.elem.d.object == h && decide (1 ≤ j.phase)) with
    | some j =>
      let s := { s with ctx := { s.ctx with jobs := dropJob s.ctx.jobs j.id } }
      (s.endJobWith 22 j stOk).fnCount j.elem.func 30 1
    | none => s
  match s.ctx.cmd with
  | some c => if s.retiringHandle h then { s with ctx := { s.ctx with cmd := some { c with result := some 0 } } } else s
  | none => s

/-- The level-0 entry of the bad table for a handle is cleared (R112). -/
def State.clearBad (s : State) (h : Nat) : State :=
  match firstBelow 16 (fun i => s.flag CTX_BAD.VALID i && s.fld CTX_BAD.LEVEL i == 0 && s.fld CTX_BAD.HANDLE i == h) with
  | some i => s.setReg .CTX_BAD i 0
  | none => s

/-- What the OK of a way's write leaves of the way as it stood: a retire goes on to its EMPTY record once no frame pins the way, and
ends with that record; a FENCED way is done with; a FLUSH leaves the way LIVE; an eviction frees it unless it has changed
(R115, R117, R119, R125, R127). -/
def State.wayWritten (s : State) (k : Nat) (w : Way) : State :=
  let h := w.handle
  if w.retiring then
    if w.ctx.st != .empty then s
    else if w.dirty then s.writeBack k
    else ((if s.retiringHandle h then s.clearBad h else s).wipeWay k).retireEnds h
  else if w.st == .fenced then (if w.dirty then s else s.wipeWay k)
  else if w.flushing then s.updWay k (fun w => { w with st := .live })
  else if w.st == .writing then
    (if w.dirty then s.updWay k (fun w => { w with st := .live }) else s.wipeWay k)
  else s

/-- A context write-back returned OK (R115, R117, R125, R127). -/
def State.writebackDone (s : State) (h : Nat) : State :=
  match s.takeMail (fun k => k == .ctxWriteback h) with
  | none => s
  | some (x, s) =>
    if x.failed.isSome then s.post x
    else
      let s := if x.retried then s.transient (pg .ctx) else s
      match s.findWay h with
      | some k =>
        let w := s.way k
        if w.wbVersion = 0 then s
        else
          let s := s.leafVersion h w.wbVersion
          let s := s.updWay k (fun w => { w with
            wbVersion := 0, wbFailed := false, flushing := w.flushing && !w.flushSealed,
            ctx := { w.ctx with version := w.wbVersion } })
          (s.wayWritten k w).flushCheck
      | none =>
        match s.ctx.cmd with
        | some c => if c.version = 0 then s else ((s.leafVersion h c.version).clearBad h).retireEnds h
        | none => s

/-- A node write-back returned OK: its parent takes the counter it was written under (R117). -/
def State.nodeDone (s : State) (lvl idx : Nat) : State :=
  match s.takeMail (fun k => k == .nodeWriteback lvl idx) with
  | none => s
  | some (x, s) =>
    if x.failed.isSome then s.post x
    else
      let n := s.node lvl idx
      match n.writing with
      | none => s
      | some p =>
        let s := if x.retried then s.transient (pg .ctx) else s
        ((s.setNode lvl idx { n with writing := none }).setParentCounter lvl idx p).flushCheck

/-- A write-back failed after its retry: a way is FENCED, a node stays dirty; V198 (R117). The handle of a node is the
lowest under it. -/
def State.writebackFail (s : State) (h : Nat) : State :=
  match s.fab.mail.find? (fun x => x.failed.isSome && (match x.kind with
      | .ctxWriteback g => g == h
      | .nodeWriteback l i => i * 8 ^ l == h
      | _ => false)) with
  | none => s
  | some x =>
    let s := { s with fab := { s.fab with mail := s.fab.mail.filter (fun (y : Xfer) => y.id != x.id) } }
    let s := s.lasting (pg .ctx)
    match x.kind with
    | .nodeWriteback l i =>
      let n := s.node l i
      ((s.setNode l i { n with writing := none, dirty := true, failed := true }).ctxError 6 l h).raiseFault (pg .ctx) 10
    | _ =>
      match s.findWay h with
      | some k => s.wayFailed k stFabricError
      | none => if s.retiringHandle h then ((s.ctxError 6 0 h).raiseFault (pg .ctx) 10).retireCmdEnds h 2 else s

/-! ## The sweeper (R116) -/

/-- One pass over one way. -/
def State.sweepWay (s : State) (k : Nat) : State :=
  let w := s.way k
  if w.st == .live && !w.retiring then
    if w.hit then s.updWay k (fun w => { w with hit := false, age := 0 })
    else
      let age := min 3 (w.age + 1)
      let s := s.updWay k (fun w => { w with age := age })
      if max 1 (s.fld CTX_XSWEEP.AGE 0) ≤ age then s.evict k else s
  else if w.st == .fenced && w.wbVersion == 0 && w.pins == 0 then s.writeBack k
  else s

/-- The nodes that counters of answered writes wait for are read again, where no entry of the miss buffer does so already (R120). -/
def State.rereadOwed (s : State) : State :=
  (s.ctx.owed.map (fun p => (p.1 / 2 ^ 32 + 1, p.1 % 2 ^ 32 / 8))).foldl (fun s n =>
    if s.cached n.1 n.2 || s.ctx.misses.any (fun m => decide (m.low ≤ n.1) && m.handle / 8 ^ n.1 == n.2) then s
    else s.rereadNode n.1 n.2) s

/-- One pass of the sweeper: every way in turn, and writes that failed are tried again. It goes on while the block goes down, whose
FLUSH may wait for it (R117, R128). -/
def State.sweep (s : State) : State :=
  if !(s.isOn (pg .ctx) || s.blk (pg .ctx) == .goingDown) || s.asleep || s.fld CTX_SWEEP.INT 0 == 0 then s
  else
    let s := s.rereadOwed
    let s := (s.ctx.ways.map (fun p => p.1)).foldl (fun s k => s.sweepWay k) s
    let failed := (s.ctx.nodes.filter (fun p => p.2.failed && p.2.dirty)).map (fun p => p.1)
    let s := failed.foldl (fun s k => s.writeNode (k / 2 ^ 32) (k % 2 ^ 32)) s
    let s := s.put CTX_SWEEP.PASSES 0 ((s.fld CTX_SWEEP.PASSES 0 + 1) % 65536)
    (s.raiseEvent (pg .ctx) 1).flushCheck

/-! ## Errors of the caches (R120) -/

/-- A single-bit error is corrected in the read path. -/
def State.eccCorrected (s : State) (t : CacheRef) : State :=
  match t with
  | .way b w =>
    let x := s.way (64 * b + w)
    if x.st == .free then s else (s.ctxError 4 0xF x.handle).raiseEvent (pg .ctx) 2
  | .node l i => if s.cached l i then (s.ctxError 4 l (i * 8 ^ l)).raiseEvent (pg .ctx) 2 else s

/-- A double-bit error of a way: a dirty one is FENCED, and a write of it that is out still raises the leaf's counter; a clean one is
zeroized, and is read again at its next request, or now for the frames that pin it, which wait in their lanes, while a retire goes
on holding it. The EMPTY record of a retire is written again. -/
def State.eccWay (s : State) (k : Nat) : State :=
  let x := s.way k
  if x.st == .free || x.st == .filling then s
  else
    let s := s.ctxError 5 0xF x.handle
    if x.dirty || x.wbVersion != 0 || x.st == .writing then
      let s := (s.lasting (pg .ctx)).raiseFault (pg .ctx) 11
      s.updWay k (fun w => { w with
        st := .fenced, dirty := true, evictPend := false,
        ctx := if w.retiring then w.ctx else { w.ctx with st := .fenced } })
    else
      let s := s.wipeWay k
      let s := { s with ctx := { s.ctx with eccDropped := s.ctx.eccDropped ++ [x.handle] } }
      if x.pins = 0 then s
      else
        let c : Ctx := { a := { gen := x.ctx.a.gen }, b := { gen := x.ctx.b.gen } }
        let s := s.setWay k { st := .filling, handle := x.handle, pins := x.pins, retiring := x.retiring, ctx := c }
        ({ s with ctx := { s.ctx with
          misses := s.ctx.misses.filter (fun (m : Miss) => m.handle != x.handle) ++ [({ handle := x.handle } : Miss)] } }).beginPagein x.handle

/-- The nodes under a node leave the tree-node cache with it, and the counters that wait for them (R112, R120). -/
def State.dropSubtree (s : State) (l i : Nat) : State :=
  { s with ctx := { s.ctx with nodes := s.ctx.nodes.filter (fun p =>
    let j := p.1 / 2 ^ 32
    !(decide (j ≤ l) && p.1 % 2 ^ 32 / 8 ^ (l - j) == i)) } }.dropOwed l i

/-- A double-bit error of a node: a clean one is dropped and read again, a dirty one's subtree goes into the bad table.
Answers whether the bad table had no room, in which case every context request completes with FENCED until INIT. -/
def State.eccNode (s : State) (l i : Nat) : Bool × State :=
  let n := s.node l i
  if n.c.isEmpty then (false, s)
  else
    let low := i * 8 ^ l
    let s := s.ctxError 5 l low
    if n.dirty || n.writing.isSome then
      let s := (s.lasting (pg .ctx)).raiseFault (pg .ctx) 11
      let s := s.dropXfers (fun k => match k with
        | .nodeWriteback j n => decide (j ≤ l) && n / 8 ^ (l - j) == i
        | _ => false)
      match (s.dropSubtree l i).listBad false l low with
      | (true, s) => (false, s)
      | (false, s) => (true, { s with ctx := { s.ctx with allFenced := true } })
    else
      let s := (s.setNode l i {}).rereadNode l i
      (false, { s with ctx := { s.ctx with eccDropped := s.ctx.eccDropped ++ [2 ^ 40 + nodeKey l i] } })

/-! ## CTX_RETIRE and CTX_AUDIT (R125, R126) -/

/-- The lookup of a job of the context store logic. A request that can join no miss-buffer entry stays, with its queue in
MISS_HOLD (R113). -/
def State.jobLookup (s : State) (j : Job) (install : Bool) : Option Nat × State :=
  match (s.unhold j.elem.rq).lookup j.elem install with
  | (.refused st, s) =>
    (none, ({ s with
      ctx := { s.ctx with jobs := dropJob s.ctx.jobs j.id }
      key := { s.key with jobs := dropJob s.key.jobs j.id } }).endJob 22 j { status := st, value := s.refusedValue j.elem })
  | (.parked, s) =>
    (none, { s with
      ctx := { s.ctx with jobs := updJob s.ctx.jobs j.id (fun j => { j with parked := true }) }
      key := { s.key with jobs := updJob s.key.jobs j.id (fun j => { j with parked := true }) } })
  | (.held, _) => (none, s.updRq j.elem.rq (fun x => { x with missHold := true }))
  | (.found k, t) => (some k, t)

/-- The lookup that the context commands make as they are dispatched, so that requests of one handle are
decided in dispatch order (R119, R121). A CTX_RETIRE that is accepted holds the way from here on (R125). A FENCED context block ends
them with FENCED (R37). -/
def State.lookupDispatched (s : State) (e : Elem) : State :=
  if s.blk (pg .ctx) == .fenced && (e.d.opcode == 0x40 || e.d.opcode == 0x41) then s.failWaiting e stFenced
  else if !s.isOn (pg .ctx) then s
  else
    match (s.ctx.jobs ++ s.key.jobs).find? (fun (j : Job) => j.elem.same e && j.phase == 0 && !j.parked) with
    | none => s
    | some j =>
      if e.d.opcode = 0x40 then (s.jobLookup j true).2
      else if e.d.opcode = 0x41 then
        match s.jobLookup j false with
        | (none, s) => s
        | (some _, s) => s.readMaterial e
      else if e.d.opcode ≠ 0x42 ∧ e.d.opcode ≠ 0x43 then s
      else
        match s.jobLookup j false with
        | (none, s) => s
        | (some k, s) =>
          let s := { s with ctx := { s.ctx with
            jobs := updJob s.ctx.jobs j.id (fun j => { j with phase := 1, elem := j.elem.stamp 3 s.now }) } }
          if e.d.opcode = 0x42 then s.updWay k (fun w => { w with retiring := true, evictPend := false }) else s

/-- The first job of an opcode in the context store logic that is not under way, with no earlier job for its handle. -/
def State.ctxJob (s : State) (op : Nat) : Option Job :=
  let first (j : Job) : Bool :=
    !((s.ctx.jobs.takeWhile (fun (i : Job) => i.id != j.id)).any (fun (i : Job) => i.elem.d.object == j.elem.d.object))
  s.ctx.jobs.find? (fun j => j.elem.d.opcode == op && j.ready && decide (j.phase ≤ 1) && first j)

/-- The way that a job of the context store logic works on: the one its lookup found at dispatch while it still serves the job, or a
lookup now: the way may hold another owner's context meanwhile, or be paged in again (R121, R126). A way under eviction is kept, as by
a hit (R115). -/
def State.jobWay (s : State) (j : Job) : Option Nat × State :=
  match j.phase, s.findWay j.elem.d.object with
  | 1, some k =>
    let w := s.way k
    if j.elem.d.opcode = 0x42 ∧ w.retiring then (some k, s)
    else if (w.st == .live || w.st == .writing) && !w.retiring && w.ctx.owner == j.elem.func then
      (some k, s.updWay k (fun w => { w with st := .live }))
    else s.jobLookup { j with elem := { j.elem with waited := true } } false
  | _, _ => s.jobLookup j false

/-- CTX_RETIRE: the way is held by the retire and its EMPTY record is written (R125). Frames released before it from the
miss buffer are looked up first. -/
def State.ctxRetire (s : State) : State :=
  match s.ctxJob 0x42 with
  | none => s
  | some j =>
    if j.phase = 0 ∧ s.qeng.issued.any (fun (e : Elem) => e.waited && e.d.isFrame && e.d.object == j.elem.d.object) then s
    else
      match s.jobWay j with
      | (none, s) => s
      | (some k, s) =>
        let s := { s with ctx := { s.ctx with
          jobs := updJob s.ctx.jobs j.id (fun j => { j with phase := 2, elem := (j.elem.stamp 3 s.now).stamp 4 s.now }) } }
        s.retireWay k

/-- The key check value of a slot, 0 for an EMPTY one; its first byte is the highest (R126). -/
def slotKcv (suite : Nat) (x : Slot) : Nat :=
  if x.st = .empty then 0
  else
    let key := bvBytes x.key 32
    beNat ((if isChacha suite then chachaBlock key (zeros 12) 0 else aes (aesKey suite key) (zeros 16)).take 4)

/-- Bytes 176–183 or 184–191 of the audit record. -/
def auditSlot (suite : Nat) (x : Slot) : Bytes := leBytes (x.an % 4 + x.st.code * 4 + slotKcv suite x * 2 ^ 32) 8

/-- The 192 bytes of the audit record. -/
def Ctx.audit (c : Ctx) : Bytes := c.line0 ++ c.line5 ++ c.stats ++ auditSlot c.suite c.a ++ auditSlot c.suite c.b

/-- CTX_AUDIT (R126). It waits while key custody supplies no mask for the context's keys (R14). One that clears counts keeps the context
in its way until its write is answered (DEDUCED, log 106). -/
def State.ctxAudit (s : State) : State :=
  match s.ctxJob 0x43 with
  | none => s
  | some j =>
    match s.jobWay j with
    | (none, s) => s
    | (some k, s) =>
      if !s.masks (k / 64) then s else
      let s := { s with ctx := { s.ctx with jobs := dropJob s.ctx.jobs j.id } }
      let j := { j with elem := (j.elem.stamp 3 s.now).stamp 4 s.now }
      let d := j.elem.d
      if d.dstLen < 192 then s.endJobWith 22 j stOutputTooSmall
      else
        let c := s.clearCtx k
        let differ := bitAt d.aux0 1 &&
          (bitsOf d.aux1 63 32 != slotKcv c.suite c.a || bitsOf d.aux1 31 0 != slotKcv c.suite c.b)
        let s := if differ then s.raiseEvent (pg .ctx) 3 else s
        let counts := [c.s0.toNat, c.s1.toNat, c.s2.toNat, c.s3.toNat, c.s4.toNat, c.s5.toNat]
        let s := if bitAt d.aux0 0 then s.updWay k (fun w => { w with pins := w.pins + 1 }) else s
        s.writeResult 22 j { status := stOk, outLen := 192, flags := b2n differ } d.dst c.audit
          (if bitAt d.aux0 0 then some (c.handle, counts) else none)

/-- The write of an audit's record has ended: if it is OK, the counts that it copied are taken off, so that later ones are kept
(R126). -/
def State.auditClear (s : State) (h : Nat) (counts : List Nat) (ok : Bool) : State :=
  match s.findWay h with
  | none => s
  | some k =>
    let d (i : Nat) : W64 := BitVec.ofNat 64 (counts.getD i 0)
    let s := if ok then s.modCtx k (fun c => { c with
      s0 := c.s0 - d 0, s1 := c.s1 - d 1, s2 := c.s2 - d 2, s3 := c.s3 - d 3, s4 := c.s4 - d 4, s5 := c.s5 - d 5 }) else s
    s.unpin h

/-! ## CTX_CMD (R127) -/

/-- An operation of CTX_CMD is refused. -/
def State.ctxRefuse (s : State) (op : Nat) : State :=
  let s := s.put CTX_CMD_STS.OP 0 op
  let s := s.put CTX_CMD_STS.RESULT 0 1
  (s.putFlag CTX_CMD_STS.DONE 0 true).seq (pg .ctx)

/-- An operation of CTX_CMD starts. DONE tells of the last operation, so it is 0 while one runs (DEDUCED: the procedures of the
context store and the DMA engine poll it right after they write CTX_CMD). -/
def State.ctxStart (s : State) (c : CtxCmd) : State :=
  let s := s.put CTX_CMD_STS.OP 0 c.op
  let s := s.putFlag CTX_CMD_STS.DONE 0 false
  { s with ctx := { s.ctx with cmd := some c } }

/-- The requests in the context store logic's own queue complete with a status, and audits under way clear no counts. -/
def State.ctxJobsEnd (s : State) (status : Nat) : State :=
  let jobs := s.ctx.jobs
  let s := { s with
    ctx := { s.ctx with jobs := [] }
    finishes := s.finishes.map (fun (f : Finish) => { f with audit := none }) }
  jobs.foldl (fun s j => s.endJobWith 22 j status) s

/-- INIT: caches, miss buffer and bad table are cleared without write-back, the root is zeroed, and a new store salt is
asked for; WRAP and TREE are derived from it next (R108, R127). DESIGN CHOICE (log 107): a CTX_RETIRE or CTX_AUDIT that runs then
completes with NO_CONTEXT, as the store that INITIALISES answers. -/
def State.ctxInit (s : State) : State :=
  let c := s.ctx
  let ok := (c.store == .uninit || (c.store == .ready && s.paused && s.missBusy == 0)) &&
    s.key.root.isSome && s.rng.ready
  if c.cmd.isSome then s.seq (pg .ctx)
  else if !ok then s.ctxRefuse 1
  else
    let s := s.dropXfers (fun k => match k with
      | .ctxRecord _ | .treeNode _ _ _ | .ctxWriteback _ | .nodeWriteback _ _ => true
      | _ => false)
    let s := (List.range 16).foldl (fun s i => s.setReg .CTX_BAD i 0) s
    let s := s.ctxJobsEnd stNoContext
    let s := { s with
      ctx := { s.ctx with
        store := .initialising, ways := [], nodes := [], owed := [], misses := [], root := [0, 0, 0, 0, 0, 0, 0, 0], allFenced := false
        eccDropped := [], salt := 0 }
      key := { s.key with wrap := none, tree := none }
      rng := { s.rng with privWait := s.rng.privWait ++ [RngUse.storeSalt] } }
    s.ctxStart { op := 1 }

/-- FLUSH (R127). -/
def State.ctxFlush (s : State) : State :=
  if s.ctx.cmd.isSome then s.seq (pg .ctx)
  else if s.ctx.store != .ready then s.ctxRefuse 2
  else ((s.ctxStart { op := 2 }).flushStart).flushCheck

/-- What waits for the page-in of a handle completes with NO_CONTEXT, and the page-in stops (R121 row 5). -/
def State.pageinDrop (s : State) (h : Nat) : State :=
  match s.miss? h with
  | none => s
  | some m =>
    if m.leafOnly then s
    else
      let s := s.dropXfers (fun x => match x with
        | .ctxRecord g => g == h
        | .treeNode g _ _ => g == h
        | _ => false)
      let s := match s.findWay h with
        | some k => (s.dropMiss h).wipeWay k
        | none => s.dropMiss h
      m.waiting.foldl (fun s e => s.failWaiting e stNoContext) s

/-- RETIRE_HANDLE: its leaf is paged in first where it is not cached, and then any way is retired and the EMPTY record written
(R127). -/
def State.ctxRetireHandle (s : State) (h : Nat) : State :=
  if s.ctx.cmd.isSome then s.seq (pg .ctx)
  else if s.ctx.store != .ready || s.ctxCount ≤ h then s.ctxRefuse 3
  else if (firstBelow 16 (fun i => s.badCovers i h && s.fld CTX_BAD.LEVEL i != 0)).isSome then
    s.ctxStart { op := 3, handle := h, result := some 3 }
  else
    let s := (s.ctxStart { op := 3, handle := h }).pageinDrop h
    if !s.cached 1 (h / 8) then s.newLeafMiss h
    else
      match s.findWay h with
      | some k => s.retireWay k
      | none => s.retireWrite h

/-- An operation that has ended sets DONE and RESULT (R127). -/
def State.ctxCmdDone (s : State) : State :=
  match s.ctx.cmd with
  | some c =>
    match c.result with
    | some r =>
      let s := { s with ctx := { s.ctx with cmd := none, store := if c.op = 1 ∧ r = 0 then .ready else s.ctx.store } }
      (s.put CTX_CMD_STS.RESULT 0 r).putFlag CTX_CMD_STS.DONE 0 true
    | none => s
  | none => s

/-! ## The end of work in flight (R37, R128) -/

/-- Every request in the context store logic completes with a status: those in the miss buffer and those of its own
queue. -/
def State.ctxAbort (s : State) (status : Nat) : State :=
  let waiting := s.ctx.misses.flatMap (fun (m : Miss) => m.waiting)
  let s := s.dropXfers (fun k => match k with
    | .ctxRecord _ | .treeNode _ _ _ | .ctxWriteback _ | .nodeWriteback _ _ | .learnRecord | .learnMirror => true
    | _ => false)
  let s := ({ s with ctx := { s.ctx with misses := [] } }).unholdAll
  let s := waiting.foldl (fun s e => s.failWaiting e status) s
  let jobs := s.ctx.jobs
  let s := { s with ctx := { s.ctx with jobs := [], learnWriting := 0, learnMirror := none } }
  jobs.foldl (fun s j => s.endJobWith 22 j status) s

/-- The banks and the tree-node cache are zeroized; the root stays (R128). -/
def State.ctxDropCaches (s : State) : State :=
  { s with ctx := { s.ctx with ways := [], nodes := [], owed := [], misses := [], eccDropped := [] } }

/-- The store is lost: caches, root and salt are wiped (R128). -/
def State.ctxWipe (s : State) : State :=
  let s := s.ctxDropCaches
  { s with ctx := { s.ctx with
    root := [0, 0, 0, 0, 0, 0, 0, 0], salt := 0, store := .uninit, cmd := none, autoFlush := false } }

end Sys2Proof.Machine
end

