-- ==== Sys2Proof/Machine/Sha.lean ====
section
/-! DEFINITION. The hash functions that R170 and R178 name: SHA-2 (FIPS 180-4), SHA-3 and SHAKE (FIPS 202), and HMAC
(PRESUMED: the standards' own text is not part of the spec). -/

namespace Sys2Proof.Machine

/-! ## SHA-2 -/

/-- The integer square root of n, between lo and lo + 2^k. -/
def rootBits (f : Nat → Nat) (n : Nat) : Nat → Nat → Nat
  | 0, x => x
  | k + 1, x => if f (x + 2 ^ k) ≤ n then rootBits f n k (x + 2 ^ k) else rootBits f n k x

/-- The first 80 primes. -/
def primes80 : List Nat :=
  [2, 3, 5, 7, 11, 13, 17, 19, 23, 29, 31, 37, 41, 43, 47, 53, 59, 61, 67, 71, 73, 79, 83, 89, 97, 101, 103, 107, 109,
    113, 127, 131, 137, 139, 149, 151, 157, 163, 167, 173] ++
  [179, 181, 191, 193, 197, 199, 211, 223, 227, 229, 233, 239, 241, 251, 257, 263, 269, 271, 277, 281, 283, 293, 307,
    311, 313, 317, 331, 337, 347, 349, 353, 359, 367, 373, 379, 383, 389, 397, 401, 409]

/-- The first w bits of the fraction of the square root of p. -/
def sqrtFrac (w p : Nat) : Nat := rootBits (fun x => x * x) (p * 2 ^ (2 * w)) (w + 6) 0 % 2 ^ w

/-- The first w bits of the fraction of the cube root of p. -/
def cbrtFrac (w p : Nat) : Nat := rootBits (fun x => x * x * x) (p * 2 ^ (3 * w)) (w + 4) 0 % 2 ^ w

/-- What tells the two widths of SHA-2 apart. -/
structure Sha2 where
  /-- the word width -/
  w : Nat
  /-- rounds -/
  rounds : Nat
  /-- the rotations of Σ0, Σ1, and the rotations and the shift of σ0, σ1 -/
  bs0 : Nat × Nat × Nat
  bs1 : Nat × Nat × Nat
  ss0 : Nat × Nat × Nat
  ss1 : Nat × Nat × Nat

/-- The 32-bit width. -/
def sha2Narrow : Sha2 :=
  { w := 32, rounds := 64, bs0 := (2, 13, 22), bs1 := (6, 11, 25), ss0 := (7, 18, 3), ss1 := (17, 19, 10) }

/-- The 64-bit width. -/
def sha2Wide : Sha2 :=
  { w := 64, rounds := 80, bs0 := (28, 34, 39), bs1 := (14, 18, 41), ss0 := (1, 8, 7), ss1 := (19, 61, 6) }

/-- Rotation right in a word of w bits. -/
def rotr (w x n : Nat) : Nat := (x / 2 ^ n + x * 2 ^ (w - n)) % 2 ^ w

/-- Σ: three rotations. -/
def bigSigma (w : Nat) (r : Nat × Nat × Nat) (x : Nat) : Nat := rotr w x r.1 ^^^ rotr w x r.2.1 ^^^ rotr w x r.2.2

/-- σ: two rotations and a shift. -/
def smallSigma (w : Nat) (r : Nat × Nat × Nat) (x : Nat) : Nat := rotr w x r.1 ^^^ rotr w x r.2.1 ^^^ x / 2 ^ r.2.2

/-- n more words of the message schedule; w holds the latest 16, latest first, out all of them, latest first. -/
def schedule (p : Sha2) : Nat → List Nat → List Nat
  | 0, out => out
  | n + 1, out =>
    let g (i : Nat) : Nat := out.getD (i - 1) 0
    schedule p n ((smallSigma p.w p.ss1 (g 2) + g 7 + smallSigma p.w p.ss0 (g 15) + g 16) % 2 ^ p.w :: out)

/-- One round. -/
def sha2Round (p : Sha2) (v : List Nat) (kw : Nat) : List Nat :=
  let a := v.getD 0 0
  let b := v.getD 1 0
  let c := v.getD 2 0
  let d := v.getD 3 0
  let e := v.getD 4 0
  let f := v.getD 5 0
  let g := v.getD 6 0
  let h := v.getD 7 0
  let m := 2 ^ p.w
  let ch := (e &&& f) ^^^ ((m - 1 - e) &&& g)
  let t1 := h + bigSigma p.w p.bs1 e + ch + kw
  let t2 := bigSigma p.w p.bs0 a + ((a &&& b) ^^^ (a &&& c) ^^^ (b &&& c))
  [(t1 + t2) % m, a, b, c, (d + t1) % m, e, f, g]

/-- The compression of one block. -/
def sha2Block (p : Sha2) (k : List Nat) (h : List Nat) (b : Bytes) : List Nat :=
  let first := (List.range 16).map (fun i => beNat (slice b (p.w / 8 * i) (p.w / 8)))
  let ws := (schedule p (p.rounds - 16) first.reverse).reverse
  let v := (ws.zip k).foldl (fun v x => sha2Round p v (x.1 + x.2)) h
  (h.zip v).map (fun x => (x.1 + x.2) % 2 ^ p.w)

/-- The padding after m, before which pre bytes were absorbed in whole blocks: 0x80, zeros, and the length in bits. -/
def sha2Pad (p : Sha2) (pre : Nat) (m : Bytes) : Bytes :=
  let blk := 2 * p.w
  let len := p.w / 4
  m ++ [0x80] ++ List.replicate ((2 * blk - 1 - len - m.length % blk) % blk) 0 ++ beBytes (8 * (pre + m.length)) len

/-- The state after the whole blocks of a string. -/
def sha2Blocks (p : Sha2) (h : List Nat) (b : Bytes) : List Nat :=
  let k := (primes80.take p.rounds).map (cbrtFrac p.w)
  let blk := 2 * p.w
  (List.range (b.length / blk)).foldl (fun h i => sha2Block p k h (slice b (blk * i) blk)) h

/-- The words of a state as bytes, and back. -/
def sha2Bytes (p : Sha2) (h : List Nat) : Bytes := h.flatMap (fun x => beBytes x (p.w / 8))
def sha2Words (p : Sha2) (b : Bytes) : List Nat := (List.range 8).map (fun i => beNat (slice b (p.w / 8 * i) (p.w / 8)))

/-- SHA-2 of a message whose first pre bytes are in the state h; n bytes of the result. -/
def sha2After (p : Sha2) (h : List Nat) (pre n : Nat) (m : Bytes) : Bytes :=
  (sha2Bytes p (sha2Blocks p h (sha2Pad p pre m))).take n

/-- SHA-2 from an initial value; n bytes of the result. -/
def sha2 (p : Sha2) (iv : List Nat) (n : Nat) (m : Bytes) : Bytes := sha2After p iv 0 n m

/-- The initial values. -/
def iv256 : List Nat := (primes80.take 8).map (sqrtFrac 32)
def iv512 : List Nat := (primes80.take 8).map (sqrtFrac 64)
def iv384 : List Nat := ((primes80.drop 8).take 8).map (sqrtFrac 64)
def iv224 : List Nat := iv384.map (· % 2 ^ 32)

/-- The initial value of SHA-512/t, generated from the ASCII name (FIPS 180-4). -/
def ivT (name : Bytes) : List Nat :=
  let b := sha2 sha2Wide (iv512.map (fun x => x ^^^ 0xa5a5a5a5a5a5a5a5)) 64 name
  (List.range 8).map (fun i => beNat (slice b (8 * i) 8))

/-- "SHA-512/256" in ASCII. -/
def name512_256 : Bytes := [0x53, 0x48, 0x41, 0x2D, 0x35, 0x31, 0x32, 0x2F, 0x32, 0x35, 0x36]

def sha256 (m : Bytes) : Bytes := sha2 sha2Narrow iv256 32 m
def sha224 (m : Bytes) : Bytes := sha2 sha2Narrow iv224 28 m
def sha384 (m : Bytes) : Bytes := sha2 sha2Wide iv384 48 m
def sha512 (m : Bytes) : Bytes := sha2 sha2Wide iv512 64 m
def sha512_256 (m : Bytes) : Bytes := sha2 sha2Wide (ivT name512_256) 32 m

/-! ## Keccak -/

/-- A lane of the state, by its place 5y + x. -/
def kLane (a : List Nat) (x y : Nat) : Nat := a.getD (5 * (y % 5) + x % 5) 0

/-- The rotation offset of a lane: the (t + 1)(t + 2)/2 of the walk that reaches it. -/
def kOffset (x y : Nat) : Nat :=
  ([0, 1, 62, 28, 27, 36, 44, 6, 55, 20, 3, 10, 43, 25, 39, 41, 45, 15, 21, 8, 18, 2, 61, 56, 14] : List Nat).getD
    (5 * y + x) 0

/-- Rotation left in 64 bits. -/
def rotl64 (x n : Nat) : Nat := rotr 64 x ((64 - n) % 64)

/-- One step of the LFSR behind the round constants. -/
def rcStep (r : Nat) : Nat := if 128 ≤ r then (2 * r % 256) ^^^ 0x71 else 2 * r

/-- The bit rc(t). -/
def rcBit (t : Nat) : Bool := (List.range t).foldl (fun r _ => rcStep r) 1 % 2 == 1

/-- The round constant of a round. -/
def kRound (i : Nat) : Nat :=
  (List.range 7).foldl (fun a j => if rcBit (7 * i + j) then a + 2 ^ (2 ^ j - 1) else a) 0

/-- One round of Keccak-f[1600]. -/
def keccakRound (a : List Nat) (i : Nat) : List Nat :=
  let c := (List.range 5).map (fun x => (List.range 5).foldl (fun v y => v ^^^ kLane a x y) 0)
  let d (x : Nat) : Nat := c.getD ((x + 4) % 5) 0 ^^^ rotl64 (c.getD ((x + 1) % 5) 0) 1
  let t := (List.range 25).map (fun n => a.getD n 0 ^^^ d (n % 5))
  let b := (List.range 25).map (fun n =>
    let x := n % 5
    let y := n / 5
    let x0 := (x + 3 * y) % 5
    let y0 := x
    rotl64 (kLane t x0 y0) (kOffset x0 y0))
  let e := (List.range 25).map (fun n =>
    let x := n % 5
    let y := n / 5
    kLane b x y ^^^ ((2 ^ 64 - 1 - kLane b (x + 1) y) &&& kLane b (x + 2) y))
  e.set 0 (e.getD 0 0 ^^^ kRound i)

/-- Keccak-f[1600] over 200 bytes. -/
def keccakF (s : Bytes) : Bytes :=
  let a := (List.range 25).map (fun i => leNat (slice s (8 * i) 8))
  ((List.range 24).foldl keccakRound a).flatMap (fun x => leBytes x 8)

/-- n blocks of output squeezed at a rate. -/
def squeeze (rate : Nat) : Nat → Bytes → Bytes
  | 0, _ => []
  | n + 1, s => s.take rate ++ squeeze rate n (keccakF s)

/-- The sponge: rate, the suffix byte that begins the padding, the output length. -/
def sponge (rate : Nat) (suffix : Byte) (n : Nat) (m : Bytes) : Bytes :=
  let q := m ++ [suffix] ++ List.replicate (rate - 1 - m.length % rate) 0
  let q := q.set (q.length - 1) (q.getD (q.length - 1) 0 ||| 0x80)
  let s := (List.range (q.length / rate)).foldl
    (fun s i => keccakF (xorBytes s (slice q (rate * i) rate))) (List.replicate 200 0)
  (squeeze rate ((n + rate - 1) / rate) s).take n

/-- SHA3 with an output of n bytes. -/
def sha3 (n : Nat) (m : Bytes) : Bytes := sponge (200 - 2 * n) 0x06 n m
def shake128 (n : Nat) (m : Bytes) : Bytes := sponge 168 0x1F n m
def shake256 (n : Nat) (m : Bytes) : Bytes := sponge 136 0x1F n m

/-! ## HMAC -/

/-- HMAC over a hash with its block length. -/
def hmacWith (hash : Bytes → Bytes) (blk : Nat) (key m : Bytes) : Bytes :=
  let k := if blk < key.length then hash key else key
  let k0 := k ++ List.replicate (blk - k.length) 0
  hash (k0.map (· ^^^ 0x5C) ++ hash (k0.map (· ^^^ 0x36) ++ m))

def hmacSha256 (key m : Bytes) : Bytes := hmacWith sha256 64 key m
def hmacSha384 (key m : Bytes) : Bytes := hmacWith sha384 128 key m
def hmacSha512 (key m : Bytes) : Bytes := hmacWith sha512 128 key m

end Sys2Proof.Machine
end

