-- ==== Sys2Proof/Machine/Rng.lean ====
section
/-! DEFINITION. The random number source: noise cells and their checks, the fuller's pool, the CTR_DRBG expander, its
consumers and the software port (R212–R229). -/

namespace Sys2Proof.Machine

/-! ## Batts (R212, R213) -/

/-- The bits of a batt, earliest first. -/
def battBits (b : BitVec 512) : List Bool := (List.range 512).map (fun i => b.getLsbD i)

/-- How many bits of a batt equal the bit k places earlier. -/
def lagEqual (l : List Bool) (k : Nat) : Nat := ((l.zip (l.drop k)).filter (fun p => p.1 == p.2)).length

/-- The longest run of equal bits. -/
def longestRun (l : List Bool) : Nat :=
  (l.foldl (fun (x : Option Bool × Nat × Nat) b =>
    let run := if x.1 == some b then x.2.1 + 1 else 1
    (some b, run, max x.2.2 run)) (none, 0, 0)).2.2

/-- A count lies within a margin of half of n. -/
def nearHalf (count n margin : Nat) : Bool := decide (2 * count ≤ n + 2 * margin ∧ n ≤ 2 * count + 2 * margin)

/-- The alive checks. -/
def State.battAlive (s : State) (l : List Bool) : Bool :=
  decide (s.fld RNG_XCELL.ALIVE_MIN 0 ≤ 511 - lagEqual l 1 ∧ longestRun l ≤ max 2 (s.fld RNG_XCELL.RCT_CUTOFF 0))

/-- The not-locked checks. -/
def State.battFree (s : State) (l : List Bool) : Bool :=
  nearHalf (l.filter (fun b => b)).length 512 (s.fld RNG_XCELL.APT_MARGIN 0) &&
    (List.range' 1 16).all (fun k => nearHalf (lagEqual l k) (512 - k) (s.fld RNG_XCELL.LAG_MARGIN 0))

/-- One noise cell. -/
def State.cell (s : State) (n : Nat) : NoiseCell := Tbl.get {} s.rng.cells n

/-- The state with one noise cell. -/
def State.setCell (s : State) (n : Nat) (c : NoiseCell) : State :=
  { s with rng := { s.rng with cells := Tbl.set {} s.rng.cells n c } }

/-- A bit of RNG_CELL_EN. -/
def State.cellOn (s : State) (n : Nat) : Bool := bitAt (s.fld RNG_CELL_EN.EN 0) n

/-- The cells that are admitted, as RNG_STS shows them. -/
def State.admitted (s : State) : Nat := mapOf 16 (fun n => (s.cell n).admitted)

/-- Enough cells are admitted (R222). -/
def State.enoughCells (s : State) : Bool :=
  decide (min 16 (max 1 (s.fld RNG_HEALTH_CFG.MIN_CELLS 0)) ≤ countBelow 16 (fun n => (s.cell n).admitted))

/-- The source works: its block is COMING_UP or ON, the tile is awake, and no tamper response has stopped it (R228). -/
def State.rngUp (s : State) : Bool :=
  let st := (s.hdr (pg .rng)).st
  (st == .comingUp || st == .on) && !s.domainsDown && !s.tamp.responding

/-- A cell that stops: only what its health and estimate windows have counted stays (R213, R214, R216). -/
def NoiseCell.stopped (c : NoiseCell) : NoiseCell := { winFails := c.winFails, ones := c.ones, equal := c.equal }

/-- Every enabled cell starts, with a warm-up batt (R214, R222). -/
def State.startCells (s : State) : State :=
  (List.range 16).foldl (fun s n => s.setCell n { (s.cell n).stopped with running := s.cellOn n }) s

/-- Every cell stops and loses its admission (R214, R228). -/
def State.stopCells (s : State) : State :=
  { s with rng := { s.rng with cells := Tbl.mapVals {} NoiseCell.stopped s.rng.cells } }

/-- RNG_CELL_EN is written: cleared bits stop their cells at once; set ones start at the next batt boundary (R214). -/
def State.cellEnWrite (s : State) (en : Nat) : State :=
  let s := s.put RNG_CELL_EN.EN 0 en
  (List.range 16).foldl (fun s n => if bitAt en n then s else s.setCell n (s.cell n).stopped) s

/-! ## RNG_READY (R222, R223) -/

/-- RNG_READY rises and the block reaches ON, once instantiate has completed and enough cells are admitted. -/
def State.rngCheckReady (s : State) : State :=
  if s.rng.seeded && !s.rng.ready && !s.rng.allStall && s.rngUp && s.enoughCells then
    let s := { s with rng := { s.rng with ready := true, phase := .running } }
    (s.raiseEvent (pg .rng) 0).upEnds (pg .rng)
  else s

/-- RNG_READY falls; the key port is not sampled without it (R232). -/
def State.rngNotReady (s : State) : State :=
  if s.rng.ready then
    let s := if s.key.incoming.isNone then s.portDrops else s
    ({ s with rng := { s.rng with ready := false } }).raiseEvent (pg .rng) 1
  else s

/-! ## The fuller (R215, R216) -/

/-- A passing batt is conditioned: its two units enter the pool as far as there is room, and nothing while it is full. -/
def State.condition (s : State) (b : BitVec 512) : State :=
  if 16 ≤ s.rng.pool.length then s
  else
    let h := sha256 (leBytes b.toNat 64)
    let u (i : Nat) : BitVec 128 := BitVec.ofNat 128 (leNat (slice h (16 * i) 16))
    { s with rng := { s.rng with pool := (s.rng.pool ++ [u 0, u 1]).take 16, stallRaised := false } }

/-- The estimate counts of a cell take in a batt. -/
def NoiseCell.estimate (c : NoiseCell) (l : List Bool) : NoiseCell :=
  l.foldl (fun c b => { c with
    ones := c.ones + b2n b, equal := c.equal + b2n (c.last == some b), last := some b }) c

/-- A batt that is checked at its boundary passes or fails (R213, R214). raw: it is being captured and is not
conditioned. -/
def State.checkBatt (s : State) (n : Nat) (b : BitVec 512) (raw : Bool) : State :=
  let l := battBits b
  let alive := s.battAlive l
  let free := s.battFree l
  let c := s.cell n
  if alive && free then
    let s := s.bump RNG_CELL_CNT.PASS n 1
    let s := if c.failed then s.transient (pg .rng) else s
    if raw then s.setCell n { c with failed := false }
    else
      let passes := min 2 (c.passes + 1)
      let adm := c.admitted || passes == 2
      let s := s.setCell n { c with failed := false, passes := passes, admitted := adm }
      if adm then s.condition b else s
  else
    let s := s.bump RNG_CELL_CNT.FAIL n 1
    let s := s.perfCount 76 1
    let s := if alive then s else s.put RNG_CELL_FLAGS.ALIVE_FAIL 0 (s.fld RNG_CELL_FLAGS.ALIVE_FAIL 0 ||| 2 ^ n)
    let s := if free then s else s.put RNG_CELL_FLAGS.LOCK_FAIL 0 (s.fld RNG_CELL_FLAGS.LOCK_FAIL 0 ||| 2 ^ n)
    let s := if c.failed then s.lasting (pg .rng) else s
    let s := s.setCell n { c with
      failed := true, passes := if c.admitted then c.passes else 0, winFails := c.winFails + 1 }
    let thr := s.fld RNG_HEALTH_CFG.THRESH 0
    if thr != 0 && decide (thr ≤ c.winFails + 1) && !s.rng.healthRaised then
      ({ s with rng := { s.rng with healthRaised := true } }).raiseEvent (pg .rng) 2
    else s

/-- The batt of a cell that is captured is written out, until LEN units are on their way (R226). -/
def State.captureBatt (s : State) (b : BitVec 512) : State :=
  let k := s.rng.rawNext
  if max 1 (s.fld RNG_XRAW.LEN 0) ≤ k then s
  else
    let s := { s with rng := { s.rng with rawNext := k + 1 } }
    (s.startWrite .rawCapture (ownAttr false true false) (64 * (s.fld RNG_XRAW_BASE.BASE 0 + k)) (leBytes b.toNat 64) none).2

/-- A unit of a raw capture is written, or has failed, which stops the capture with ERR. At LEN units EN clears, DONE is set and
V193 is raised (R226). -/
def State.rawWritten (s : State) (failed : Bool) : State :=
  if s.rng.raw.isNone then s
  else if failed then
    let s := s.dropXfers (fun k => k == .rawCapture)
    (s.rawEnd.putFlag RNG_XRAW.EN 0 false).putFlag RNG_XRAW_STS.ERR 0 true
  else
    let k := s.fld RNG_XRAW_STS.WRITTEN 0 + 1
    let s := s.put RNG_XRAW_STS.WRITTEN 0 k
    if max 1 (s.fld RNG_XRAW.LEN 0) ≤ k then
      ((s.rawEnd.putFlag RNG_XRAW.EN 0 false).putFlag RNG_XRAW_STS.DONE 0 true).raiseEvent (pg .rng) 6
    else s

/-- One cell at a batt boundary. -/
def State.cellBatt (s : State) (n : Nat) (b : BitVec 512) : State :=
  let c := s.cell n
  if !s.cellOn n then s
  else if !c.running then s.setCell n { c.stopped with running := true }
  else
    let s := s.setCell n (c.estimate (battBits b))
    if s.rng.raw == some n then (s.checkBatt n b true).captureBatt b
    else if c.warm then s.setCell n { s.cell n with warm := false }
    else s.checkBatt n b false

/-- A raw capture of a cell begins: the cell loses its admission (R214, R226). -/
def State.rawStart (s : State) (cell : Nat) : State :=
  let s := s.setCell cell { s.cell cell with admitted := false, passes := 0 }
  { s with rng := { s.rng with raw := some cell } }

/-- Raw captures start, change cell or stop at a batt boundary (R226, R229). They run while the tile is in TEST and the page's
expert lock is open. -/
def State.rawBoundary (s : State) : State :=
  let want := s.flag RNG_XRAW.EN 0 && s.tile.st == .test && (s.hdr (pg .rng)).lock == .opened
  let cell := s.fld RNG_XRAW.CELL 0
  match s.rng.raw, want with
  | none, false => s
  | none, true => (s.put RNG_XRAW_STS.WRITTEN 0 0).rawStart cell
  | some _, false => ((s.dropXfers (fun k => k == .rawCapture)).rawEnd).putFlag RNG_XRAW.EN 0 false
  | some c, true =>
    if c = cell then s
    else
      let k := s.rng.rawNext
      let s := s.rawEnd.rawStart cell
      { s with rng := { s.rng with rawNext := k } }

/-- A batt boundary of all cells (R212–R216, R222, R226). -/
def State.battBoundary (s : State) (batts : List (BitVec 512)) : State :=
  if !s.rngUp then s
  else
    let s := (List.range 16).foldl (fun s n => s.cellBatt n (batts.getD n 0)) s
    let s := s.rawBoundary
    let ph : RngPhase := match s.rng.phase with
      | .warmUp => .startTest
      | p => if p == .startTest && decide (3 ≤ s.rng.pool.length) && !s.rng.seeded then .instantiate else p
    ({ s with rng := { s.rng with phase := ph } }).rngCheckReady

/-- A health window ends (R213). -/
def State.healthEnd (s : State) : State :=
  let s := (List.range 16).foldl (fun s n => s.setCell n { s.cell n with winFails := 0 }) s
  { s with rng := { s.rng with healthRaised := false } }

/-- An estimate window ends (R216). -/
def State.estimateEnd (s : State) : State :=
  if !s.rngUp then s
  else
    let s := (List.range 16).foldl (fun s n =>
      let c := s.cell n
      let s := (s.put RNG_CELL_EST.EQUAL n c.equal).put RNG_CELL_EST.ONES n c.ones
      s.setCell n { c with ones := 0, equal := 0, last := none }) s
    s.raiseEvent (pg .rng) 3

/-- No batt has entered a pool that is not full for STALL_TMO (R217). -/
def State.fullerStall (s : State) : State :=
  if s.rngUp && s.fld RNG_TMO.STALL_TMO 0 != 0 && decide (s.rng.pool.length < 16) && !s.rng.stallRaised then
    ({ s with rng := { s.rng with stallRaised := true } }).raiseEvent (pg .rng) 7
  else s

/-! ## The expander (R218, R219) -/

/-- The block after V: V counts up, modulo 2^128. -/
def drbgBlock (key : BitVec 256) (v : BitVec 128) : Bytes := aes (beBytes key.toNat 32) (beBytes v.toNat 16)

/-- n output blocks of the DRBG and the V after them. -/
def drbgBlocks (key : BitVec 256) : Nat → BitVec 128 → Bytes × BitVec 128
  | 0, v => ([], v)
  | n + 1, v =>
    let v := v + 1
    let (r, v') := drbgBlocks key n v
    (drbgBlock key v ++ r, v')

/-- The update step of CTR_DRBG with 48 bytes. -/
def drbgUpdate (key : BitVec 256) (v : BitVec 128) (data : Bytes) : BitVec 256 × BitVec 128 :=
  let t := xorBytes (drbgBlocks key 3 v).1 data
  (BitVec.ofNat 256 (beNat (t.take 32)), BitVec.ofNat 128 (beNat (t.drop 32)))

/-- The DRBG takes a seed. -/
def State.drbgSeed (s : State) (key : BitVec 256) (v : BitVec 128) : State :=
  let seed := (s.rng.pool.take 3).flatMap (fun u => leBytes u.toNat 16)
  let (k, v) := drbgUpdate key v seed
  let s := { s with rng := { s.rng with pool := s.rng.pool.drop 3, key := k, v := v, count := 0, seeded := true } }
  (s.bump RNG_RESEEDS.COUNT 0 1).perfCount 75 1

/-- Instantiate, from three pool units (R218, R222). -/
def State.instantiate (s : State) : State :=
  if s.rngUp && !s.rng.seeded && decide (3 ≤ s.rng.pool.length) then (s.drbgSeed 0 0).rngCheckReady else s

/-- The nominal interval, L and R (R219, R230). -/
def State.rngNominal (s : State) : Nat := 1024 * min 64 (max 1 (s.fld RNG_RESEED_CFG.NOMINAL 0))
def State.rngLimit (s : State) : Nat := 2 ^ min 20 (max 16 (s.fld RNG_RESEED_CFG.LIMIT_LOG2 0))
def State.rngReserve (s : State) : Nat := min 1048576 (s.fld RNG_PRIV_RESERVE.RESERVE 0)

/-- A reseed takes place at this boundary. -/
def State.reseedDue (s : State) : Bool :=
  s.rng.seeded && s.rngUp && decide (3 ≤ s.rng.pool.length) && (s.rng.force || decide (s.rngNominal ≤ s.rng.count))

/-- The flags of the table of R219 follow the counter and the levels while no reseed is due, and a row that is entered is reported.
DEDUCED (log 126): a level that is raised above the counter takes its row's flag back. -/
def State.rngLevels (s : State) : State :=
  if s.reseedDue || !s.rng.seeded then s
  else
    let was := s.rng
    let n := s.rng.count
    let s := { s with rng := { s.rng with
      stretched := decide (s.rngNominal ≤ n), ordStall := decide (s.rngLimit ≤ n)
      allStall := decide (s.rngLimit + s.rngReserve ≤ n) } }
    let s := if s.rng.stretched && !was.stretched then s.raiseEvent (pg .rng) 4 else s
    let s := if s.rng.ordStall && !was.ordStall then s.raiseEvent (pg .rng) 5 else s
    if s.rng.allStall && !was.allStall then s.rngNotReady
    else if was.allStall && !s.rng.allStall then s.rngCheckReady
    else s

/-- A reseed that is due takes place: the counter returns to 0 and every flag of R219 clears. -/
def State.reseed (s : State) : State :=
  if !s.reseedDue then s
  else
    let was := s.rng.allStall
    let s := s.drbgSeed s.rng.key s.rng.v
    let s := { s with rng := { s.rng with stretched := false, ordStall := false, allStall := false, force := false } }
    if was then ({ s with rng := { s.rng with ready := true } }).raiseEvent (pg .rng) 0 else s

/-- One generate call of n bytes; the counter counts it (R218, R219). -/
def State.generate (s : State) (n : Nat) : Bytes × State :=
  let (out, v) := drbgBlocks s.rng.key ((n + 15) / 16) s.rng.v
  let (k, v) := drbgUpdate s.rng.key v (List.replicate 48 0)
  let s := { s with rng := { s.rng with key := k, v := v, count := s.rng.count + 1 } }
  (out.take n, (s.perfCount 74 1).rngLevels)

/-! ## Consumers (R220, R224, R225) -/

/-- A RANDOM request's fields are as R224 requires: none or the status it completes with. -/
def randomRefusal (d : Desc) : Option Nat :=
  if d.object ≠ 0 ∨ d.src ≠ 0 ∨ d.srcLen ≠ 0 ∨ d.aux0 ≠ 0 ∨ d.aux1 ≠ 0 then some stInvalidOperand
  else if d.secretHandoff then
    (if d.dstLen = 0 ∧ 1 ≤ d.auxLen ∧ d.auxLen ≤ 64 then none else some stLengthMismatch)
  else if 1 ≤ d.dstLen ∧ d.auxLen = 0 then none
  else some stLengthMismatch

/-- The bytes a RANDOM request delivers. -/
def randomLen (d : Desc) : Nat := if d.secretHandoff then d.auxLen else d.dstLen

/-- The bytes that the RANDOM request at the head still needs. -/
def State.randomNeed (s : State) : Nat :=
  match s.rng.jobs with
  | [] => 0
  | j :: _ => if (randomRefusal j.elem.d).isSome then 0 else randomLen j.elem.d - s.rng.granted.length

/-- The ordinary consumer in each place of the rotation of R220 that waits: 0 the big-number engine, 1 the queue-engine
port, 2 the software port, 3 the trace seed. -/
def State.ordWaiter (s : State) (i : Nat) : Option RngUse :=
  match i with
  | 0 => s.rng.ordWait.find? (fun u => match u with | .bignum _ _ | .resplit _ => true | _ => false)
  | 1 => if s.randomNeed = 0 then none else some .random
  | 2 => if s.rng.swFifo.length ≤ 8 then some .swPort else none
  | _ => s.rng.ordWait.find? (fun u => u == .traceSeed)

/-- A use is key custody's. -/
def RngUse.isKey : RngUse → Bool
  | .storeSalt | .rootSplit | .session | .rootLoad => true
  | _ => false

/-- The privileged consumer that is served next: key custody and the pounce masker alternate when both wait. -/
def State.privNext (s : State) : Option RngUse :=
  let k := s.rng.privWait.find? (fun u => u.isKey)
  let p := s.rng.privWait.find? (fun u => !u.isKey)
  match k, p with
  | some a, some b => some (if s.rng.lastKey then b else a)
  | some a, none => some a
  | none, b => b

/-- The ordinary consumer that is served next, in rotation from the one after the last. -/
def State.ordNext (s : State) : Option (Nat × RngUse) :=
  ((List.range' 1 4).map (fun i => (s.rng.lastOrd + i) % 4)).findSome? (fun i => (s.ordWaiter i).map (fun u => (i, u)))

/-- The words of a string of bytes, for the software FIFO. -/
def swWords (b : Bytes) : List W32 := (List.range (b.length / 4)).map (fun i => BitVec.ofNat 32 (leNat (slice b (4 * i) 4)))

/-- The root latch's shares of a root under fresh random bytes (R235). -/
def splitRoot (root rnd : Bytes) : Bytes × Bytes := (rnd, xorBytes root rnd)

/-- The root in the latch. -/
def State.rootBytes (s : State) : Option Bytes := s.key.root.map (fun p => xorBytes p.1 p.2)

/-- The root latch is split again (R235). -/
def State.resplitRoot (s : State) (rnd : Bytes) : State :=
  match s.rootBytes with
  | some r => { s with key := { s.key with root := some (splitRoot r rnd) } }
  | none => s

/-- WRAP and TREE are wanted: the store is in use, or an INIT has its new salt (R108, R238). -/
def State.wantsStoreKeys (s : State) : Bool :=
  s.ctx.store == .ready || s.ctx.store == .flushing ||
    (s.ctx.store == .initialising && s.ctx.cmd.any (fun c => c.op == 1) && !s.rng.privWait.contains .storeSalt)

/-- Key custody derives the root's HMAC states, and WRAP and TREE where they are wanted: at a root load, at a wake, and when
the KEY block reaches ON with a root in the latch. -/
def State.askDerive (s : State) : State :=
  if s.key.root.isSome then
    { s with key := { s.key with
      derive := [Deriv.rootStates] ++ (if s.wantsStoreKeys then [Deriv.storeKeys] else []) } }
  else s

/-- The root load: the shares of the root that has come in are split with fresh bytes, and the derivations from the root are due
(R233–R236, R238). -/
def State.loadRoot (s : State) (rnd : Bytes) : State :=
  match s.key.incoming with
  | none => s
  | some (uid, root) =>
    let s := if s.key.retry then s.transient (pg .key) else s
    let s := s.put KEY_PORT_STS.ATTEMPTS 0 0
    let s := s.put TILE_UID.UID 0 uid
    let s := { s with key := { s.key with
      root := some (splitRoot root rnd), incoming := none, port := .loaded, req := false, retry := false, words := [] } }
    s.askDerive

/-- The bytes that a consumer draws in one call; the root is split again with the call of bank 0 in a pass (R235). -/
def State.useBytes (s : State) : RngUse → Nat
  | .storeSalt => 16
  | .rootSplit | .rootLoad => 48
  | .session => 8
  | .pounce b => if b = 0 && !s.key.fresh then 92 else if b < 64 then 44 else 128
  | .bignum _ n => n
  | .resplit _ => 32
  | .random => min 4096 s.randomNeed
  | .swPort => 32
  | .traceSeed => 4

/-- A consumer takes what it asked for, on its private wire (R220). -/
def State.deliverRandom (s : State) (u : RngUse) (b : Bytes) : State :=
  match u with
  | .storeSalt =>
    { s with
      ctx := { s.ctx with salt := BitVec.ofNat 128 (leNat b.reverse) }
      key := { s.key with derive := s.key.derive ++ [Deriv.storeKeys] } }
  | .rootSplit => s.resplitRoot b
  | .rootLoad => s.loadRoot b
  | .session =>
    let s := s.put KEY_SESSION.SESSION 0 (leNat b)
    { s with key := { s.key with sessionDrawn := true } }
  | .pounce k =>
    let x := Tbl.get {} s.key.banks k
    let n := if k < 64 then 44 else 128
    let s := { s with key := { s.key with
      banks := Tbl.set {} s.key.banks k { x with arrived := some (BitVec.ofNat 1024 (leNat (b.take n))) } } }
    if k = 0 && !s.key.fresh then s.resplitRoot (b.drop 44) else s
  | .bignum ch _ =>
    let c := Tbl.get {} s.bignum.chans ch
    { s with bignum := { s.bignum with chans := Tbl.set {} s.bignum.chans ch { c with rnd := some b, rndWait := false } } }
  | .resplit ch =>
    let c := Tbl.get {} s.bignum.chans ch
    { s with bignum := { s.bignum with chans := Tbl.set {} s.bignum.chans ch { c with splitRnd := some b } } }
  | .random =>
    { s with rng := { s.rng with
      granted := s.rng.granted ++ b
      jobs := match s.rng.jobs with
        | [] => []
        | j :: rest => { j with elem := j.elem.stamp 4 s.now } :: rest } }
  | .swPort => { s with rng := { s.rng with swFifo := s.rng.swFifo ++ swWords b } }
  | .traceSeed => { s with perf := { s.perf with seed := some (BitVec.ofNat 32 (leNat b)) } }

/-- The expander grants one call to a consumer. -/
def State.grantCall (s : State) (u : RngUse) : State :=
  let (b, s) := s.generate (s.useBytes u)
  s.deliverRandom u b

/-- The next call, in the order of R220: a due reseed runs first. Ordinary consumers stall at L, all of them at L + R
(R219); nothing is delivered before RNG_READY (R223). -/
def State.generateCall (s : State) : State :=
  let s := s.reseed
  if !s.rng.ready || decide (s.rngLimit + s.rngReserve ≤ s.rng.count) || !s.rngUp then s
  else
    match s.privNext with
    | some u =>
      let s := { s with rng := { s.rng with privWait := s.rng.privWait.erase u, lastKey := u.isKey } }
      s.grantCall u
    | none =>
      if s.rngLimit ≤ s.rng.count then s
      else
        match s.ordNext with
        | some (i, u) =>
          let s := { s with rng := { s.rng with ordWait := s.rng.ordWait.erase u, lastOrd := i } }
          s.grantCall u
        | none => s

/-- RNG_READY has not risen 600 µs after the cells start (R222). -/
def State.readyTimeout (s : State) : State :=
  if s.rngUp && !s.rng.ready && !s.rng.allStall && s.rng.phase != .waitCells then
    ({ s with rng := { s.rng with phase := .waitCells } }).raiseEvent (pg .rng) 1
  else s

/-- The RANDOM request at the head leaves the queue-engine port. -/
def State.randomPop (s : State) : State :=
  { s with rng := { s.rng with jobs := s.rng.jobs.drop 1, granted := [] } }

/-- The RANDOM request at the head is refused, or delivers its bytes once they are all granted, unless its producer stalls (R149,
R224). -/
def State.randomServe (s : State) : State :=
  match (if s.stalling 23 then [] else s.rng.jobs) with
  | [] => s
  | j :: _ =>
    let d := j.elem.d
    match randomRefusal d with
    | some st => s.randomPop.endJobWith 23 j st
    | none =>
      if (s.hdr (pg .rng)).st == .fenced then s.randomPop.endJobWith 23 j stFenced
      else if s.randomNeed = 0 then
        let b := s.rng.granted
        let s := s.randomPop.fnCount j.elem.func 26 b.length
        if d.secretHandoff then (s.putSecret j.elem b).endJobWith 23 j stOk
        else s.writeResult 23 j { status := stOk, outLen := b.length } d.dst b none
      else s

/-- No call was granted to the RANDOM request at the head for RAND_TMO (R224); a grant in the same cycle wins (R229). -/
def State.randomTimeout (s : State) : State :=
  match s.rng.jobs with
  | [] => s
  | j :: _ => if s.randomNeed = 0 then s else s.randomPop.endJobWith 23 j stRngUnavailable

/-- Every RANDOM request completes with a status. -/
def State.randomAbort (s : State) (status : Nat) : State :=
  let js := s.rng.jobs
  let s := { s with rng := { s.rng with jobs := [], granted := [] } }
  js.foldl (fun s j => s.endJobWith 23 j status) s

/-- A 64-bit read of RNG_SW_DATA (R225). -/
def State.swRead (s : State) : W64 × State :=
  match s.rng.swFifo with
  | [] => (0, s)
  | w :: rest =>
    (BitVec.ofNat 64 (2 ^ 63 + w.toNat), { s with rng := { s.rng with swFifo := rest } })

/-- The pool, the DRBG state and the software FIFO are zeroized and RNG_READY falls (R227, R228). A raw capture ends, and EN clears
(R226; log 69). -/
def State.rngWipe (s : State) : State :=
  let s := s.rngNotReady
  let s := if s.rng.raw.isSome then (s.dropXfers (fun k => k == .rawCapture)).putFlag RNG_XRAW.EN 0 false else s
  { s with rng := { s.rng with
    pool := [], key := 0, v := 0, seeded := false, count := 0, stretched := false, ordStall := false, allStall := false
    force := false, swFifo := [], phase := .off, raw := none, rawNext := 0 } }

/-- The RNG block begins to come up: the cells start (R222). -/
def State.rngStart (s : State) : State :=
  let s := s.startCells
  { s with rng := { s.rng with phase := .warmUp } }

/-- The RNG block stops: cells, pool, DRBG state and FIFO (R228). -/
def State.rngStop (s : State) : State :=
  let s := s.rngWipe
  { s with rng := { s.rng with cells := [] } }

end Sys2Proof.Machine
end

