-- ==== Sys2Proof/Machine/Custody.lean ====
section
/-! DEFINITION. Key custody: the key port and the root latch, the KDF and the derived keys, unwrapping, KDF requests,
CTX_INSTALL and CTX_ARM_NEXT, the pounce, zeroization and attestation (R124, R130–R132, R231–R252). -/

namespace Sys2Proof.Machine

/-! ## The KDF (R237, R238) -/

/-- The SP 800-108r1 counter-mode KDF over a fixed input that stands between [i]32 and [L]32; n bytes of output. -/
def kdfFixed (ki fixed : Bytes) (n : Nat) : Bytes :=
  ((List.range ((n + 47) / 48)).flatMap (fun i =>
    hmacSha384 ki (beBytes (i + 1) 4 ++ fixed ++ beBytes (8 * n) 4))).take n

/-- The KDF with a label and a context. -/
def kdf (ki label ctx : Bytes) (n : Nat) : Bytes := kdfFixed ki (label ++ [0] ++ ctx) n

def labelWrap : Bytes := [0x57, 0x52, 0x41, 0x50]
def labelTree : Bytes := [0x54, 0x52, 0x45, 0x45]
def labelAttest : Bytes := [0x41, 0x54, 0x54, 0x45, 0x53, 0x54]
def labelSlotWrap : Bytes := [0x53, 0x4C, 0x4F, 0x54, 0x57, 0x52, 0x41, 0x50]

/-- The label FUNC-n, with n in decimal. -/
def labelFunc (n : Nat) : Bytes :=
  [0x46, 0x55, 0x4E, 0x43, 0x2D] ++ (if n < 10 then [] else [BitVec.ofNat 8 (0x30 + n / 10)]) ++
    [BitVec.ofNat 8 (0x30 + n % 10)]

/-- TILE_UID as bytes. -/
def State.uidBytes (s : State) : Bytes := leBytes (s.fld TILE_UID.UID 0) 8

/-- FUNC-n (R238). -/
def State.funcKey (s : State) (root : Bytes) (n : Nat) : Bytes :=
  kdf root (labelFunc n) (s.uidBytes ++ leBytes (s.fld KEY_FGEN.GEN n) 4) 32

/-- SLOTWRAP (R238). -/
def State.slotWrap (s : State) (root : Bytes) : Bytes :=
  kdf root labelSlotWrap (s.uidBytes ++ leBytes (s.fld KEY_SESSION.SESSION 0) 8) 32

/-! ## Unwrapping (R240) -/

/-- A blob of a fixed length need, or of any length its form implies: the key material or the status. -/
def unwrapBlob (key blob : Bytes) (need : Option Nat) : Except Nat Bytes :=
  let fits (p : Bytes) : Except Nat Bytes :=
    match need with
    | none => .ok p
    | some n => if p.length = n then .ok p else .error stLengthMismatch
  match kwUnwrap key blob with
  | some p => fits p
  | none =>
    match kwpUnwrap key blob with
    | some p => fits p
    | none => .error stAuthFail

/-! ## Serial work (R231) -/

/-- Key custody works: its block is ON, or finishes what it holds before it goes OFF (R37, R247). -/
def State.keyWorks (s : State) : Bool := s.blk (pg .key) == .on || s.blk (pg .key) == .goingDown

/-- Key custody can run a queued request: it has no operation of its own to run, and its producer does not stall (R149). -/
def State.keyFree (s : State) : Bool := s.keyWorks && s.key.derive.isEmpty && s.key.attest.isNone && !s.stalling 21

/-- The queued request that key custody takes next, in arrival order; those parked in the miss buffer are not there. -/
def State.keyHead (s : State) : Option Job := s.key.jobs.find? (fun j => !j.parked)

/-- The output length of a KDF request (R241). -/
def kdfLen (d : Desc) : Nat := bitsOf d.aux1 15 0

/-- A KDF request's fields, given the secret its chain holds: none, or the status it completes with (R241). -/
def kdfRefusal (d : Desc) (secret : Option Bytes) : Option Nat :=
  let n := kdfLen d
  if n = 0 ∨ (if d.secretHandoff then 64 else 1024) < n ∨ bitsOf d.aux1 63 16 ≠ 0 then some stInvalidOperand
  else if d.srcLen = 0 ∨ 4096 < d.srcLen then some stLengthMismatch
  else if secret.isSome then
    (if d.aux0 ≠ 0 ∨ d.auxLen ≠ 0 then some stLengthMismatch
     else if !d.secretHandoff && d.dstLen < n then some stOutputTooSmall else none)
  else if d.auxLen < 16 ∨ 136 < d.auxLen then some stLengthMismatch
  else if !d.secretHandoff && d.dstLen < n then some stOutputTooSmall
  else none

/-- A queued request derives a key on channel 255: a KDF request, and an import of a blob, once its input is in. -/
def State.usesKdf (s : State) (j : Job) : Bool :=
  let d := j.elem.d
  j.ready && !j.failed &&
    (if d.opcode == 0x23 then (kdfRefusal d (s.secret j.elem)).isNone
     else if d.opcode == 0x40 || d.opcode == 0x41 then d.srcLen == 56 && j.phase != 0
     else true)

/-- Key custody has work for channel 255: an operation of its own, or the request at its head (R231). -/
def State.keyWantsKdf (s : State) : Bool :=
  s.keyWorks &&
    (if !s.key.derive.isEmpty then s.key.root.isSome
     else if s.key.attest.isSome then true
     else !s.stalling 21 && s.keyHead.any (fun j => s.usesKdf j &&
       (s.key.rootStates || (j.elem.d.opcode == 0x23 && (s.secret j.elem).isSome))))

/-- The digest engine serves key custody (R178): while ON, while it finishes LOADs before it goes OFF (R184), and while it
restores its slot image (R185). DEDUCED (log 110). -/
def State.kdfServed (s : State) : Bool :=
  match s.blk (pg .digest) with
  | .on => true
  | .goingDown => s.key.jobs.any (fun j => j.elem.d.opcode == 0x21)
  | .comingUp => s.digest.image.isSome
  | _ => false

/-- The KDF is denied: the DIGEST block or channel 255 is FENCED (R183). -/
def State.kdfDenied (s : State) : Bool := s.blk (pg .digest) == .fenced || (s.dgChan 255).st == .fenced

/-- The request at the head of key custody has its core: P4 (R355). -/
def State.kdfTaken (s : State) : State :=
  match s.keyHead with
  | none => s
  | some j =>
    if s.kdfOnCore && s.key.derive.isEmpty && s.key.attest.isNone && s.usesKdf j then
      { s with key := { s.key with jobs := updJob s.key.jobs j.id (fun j => { j with elem := j.elem.stamp 4 s.now }) } }
    else s

/-- Channel 255 is held while key custody has work for it and the digest engine serves it. -/
def State.kdfSync (s : State) : State := if s.keyWantsKdf && s.kdfServed then s.kdfSeat.kdfTaken else s.kdfLeave

/-- A KDF request of the channel ends: it is zeroized and its core handed back, before the next takes one (R178). -/
def State.kdfNext (s : State) : State := s.kdfLeave.kdfSync

/-- Key custody can derive a key from the root: the root's states are ready and channel 255 is on a core. -/
def State.keyDerives (s : State) : Bool := s.keyFree && s.key.rootStates && s.kdfOnCore

/-- Bytes of the fixed input of FUNC-n beside the PRF's counters: label, zero and context (R238). -/
def funcFixed : Nat := 20

/-- A queued request leaves key custody. -/
def State.keyDrop (s : State) (j : Job) : State :=
  let r := { s with key := { s.key with jobs := dropJob s.key.jobs j.id } }
  if s.keyHead.any (fun h => h.id == j.id) then r.kdfNext else r

/-- A queued request that key custody has taken ends with a status; the chain's secret that it could read is zeroized (R15,
R355). -/
def State.keyEnd (s : State) (j : Job) (k : Compl) : State :=
  ((s.keyDrop j).putSecret j.elem []).endJob 21 { j with elem := j.elem.stamp 4 s.now } k

/-- Event 120 and, for an unwrap, 122 (R350). -/
def State.keyOp (s : State) (unwrapped : Bool) : State := (s.perfCount 120 1).perfCount 122 (b2n unwrapped)

/-! ## Derivations (R234, R238) -/

/-- The compressions of a derivation of key custody's own. -/
def deriveCost (d : Deriv) : Nat :=
  match d with
  | .rootStates => 2
  | .storeKeys => 2 * kdfBlocks (labelWrap.length + 1 + 16) 32

/-- One derivation of key custody's own. WRAP and TREE end an INIT that waits for them (R108). -/
def State.deriveOne (s : State) (root : Bytes) (d : Deriv) : State :=
  let s := s.kdfCount (deriveCost d)
  match d with
  | .rootStates => { s with key := { s.key with rootStates := true } }
  | .storeKeys =>
    let salt := beBytes s.ctx.salt.toNat 16
    let k (l : Bytes) : BitVec 256 := bytesBv 256 (kdf root l salt 32)
    let s := { s with key := { s.key with wrap := some (k labelWrap), tree := some (k labelTree) } }
    match s.ctx.cmd with
    | some c =>
      if c.op = 1 ∧ s.ctx.store = .initialising then { s with ctx := { s.ctx with cmd := some { c with result := some 0 } } }
      else s
    | none => s

/-- The derivations that are due run on channel 255 (R178, R231, R238). -/
def State.keyDerive (s : State) : State :=
  let s := s.kdfSync
  match s.rootBytes with
  | none => s
  | some root =>
    if s.keyWorks && s.kdfOnCore && !s.key.derive.isEmpty then
      let ds := s.key.derive
      let s := ds.foldl (fun s d => (s.deriveOne root d).keyOp false) s
      ({ s with key := { s.key with derive := [] } }).kdfNext
    else s

/-! ## The key port (R232–R234) -/

/-- No tamper input is active. -/
def State.tampQuiet (s : State) : Bool := (List.range 4).all (fun i => !(Tbl.get {} s.tamp.quals i).raw)

/-- The key port is sampled (R232). -/
def State.portSampled (s : State) : Bool :=
  s.rng.ready && s.key.root.isNone && s.tile.st == .bringUp && s.isOn (pg .key) && s.tampQuiet

/-- key_req rises (R233). -/
def State.portRequest (s : State) : State :=
  if s.portSampled && s.key.port == .waiting then
    { s with key := { s.key with port := .request, req := true, words := [] } }
  else s

/-- A transfer is refused: one retry, and after it the lasting failure (R234). -/
def State.portRefuse (s : State) (cause : Nat) : State :=
  let s := s.put KEY_PORT_STS.CAUSE 0 cause
  let s := s.bump KEY_PORT_STS.ATTEMPTS 0 1
  let s := { s with key := { s.key with req := false, words := [] } }
  if s.key.retry then
    let s := { s with key := { s.key with port := .failed, retry := false } }
    (s.lasting (pg .key)).raiseFault (pg .key) 8
  else { s with key := { s.key with port := .retryWait, retry := true } }

/-- 64 CCLK cycles after a refusal key_req rises once more (R234). -/
def State.portRetryWait (s : State) : State :=
  if s.key.port == .retryWait then
    if s.portSampled then { s with key := { s.key with port := .request, req := true } } else s.portReset
  else s

/-- PORT_RETRY starts a new pair of attempts (R234, R253). -/
def State.portRetry (s : State) : State :=
  if s.key.port == .failed && s.key.root.isNone then s.portReset.portRequest else s.seq (pg .key)

/-- Words that arrive while key_req is low (R233). -/
def State.strayWords (s : State) (n : Nat) : State := s.bump KEY_PORT_STS.STRAY 0 n

/-- A transfer is accepted: its root waits for the random bytes that split it, drawn by privileged calls with those of
KEY_SESSION at the first load since PD0 came up (R220, R235, R236). -/
def State.acceptRoot (s : State) (uid : Nat) (root : Bytes) : State :=
  let asks := (if s.key.sessionDrawn then [] else [RngUse.session]) ++ [RngUse.rootLoad]
  { s with
    key := { s.key with incoming := some (uid, root), port := .receiving, req := false, words := [] }
    rng := { s.rng with privWait := s.rng.privWait ++ asks } }

/-- The words of a transfer that has ended with key_last are judged (R233). -/
def State.judgeTransfer (s : State) (ws : List W32) : State :=
  let b := ws.flatMap (fun w => leBytes w.toNat 4)
  let root := slice b 8 48
  if ws.length ≠ 15 then s.portRefuse 2
  else if crc32 (slice b 0 56) ≠ numAt b 56 4 then s.portRefuse 3
  else if root.all (· == 0) || root.all (· == 0xFF) then s.portRefuse 4
  else s.acceptRoot (numAt b 0 8) root

/-- Words arrive on the key port, key_last with the one at place last if there is such a word; the words after it find
key_req low (R233). -/
def State.portWords (s : State) (ws : List W32) (last : Nat) : State :=
  if !s.key.req then s.strayWords ws.length
  else if !s.portSampled then s.portReset.strayWords ws.length
  else if last < ws.length then
    let all := s.key.words ++ ws.take (last + 1)
    (s.judgeTransfer all).strayWords (ws.length - (last + 1))
  else if ws.isEmpty then s
  else { s with key := { s.key with port := .receiving, words := s.key.words ++ ws } }

/-- key_last has not come within KEY_XPORT.TMO (R233); a port that is not sampled any more drops the transfer (R232). -/
def State.portTimeout (s : State) : State :=
  if !s.key.req then s else if s.portSampled then s.portRefuse 1 else s.portReset

/-! ## KDF requests (R241) -/

/-- What key custody reads for an element as it is dispatched: part, address and length. The key material of a context is read after
the lookup (R101, R112). -/
def State.keyReads (s : State) (e : Elem) : List (Nat × Nat × Nat) :=
  let d := e.d
  if d.opcode = 0x23 then
    let sec := s.secret e
    if (kdfRefusal d sec).isSome then []
    else [(0, d.src, d.srcLen)] ++ (if sec.isSome then [] else [(1, d.aux0, d.auxLen)])
  else []

/-- An element is dispatched to key custody: its reads begin (R63). -/
def State.keyDispatch (s : State) (e : Elem) : State :=
  let (j, s) := s.newJob e
  let (j, s) := (s.keyReads e).foldl (fun (p : Job × State) r => p.2.readPart p.1 r.1 r.2.1 r.2.2) (j, s)
  ({ s with key := { s.key with jobs := s.key.jobs ++ [j] } }).kdfSync

/-- A KDF request is counted (R350, R351). -/
def State.kdfTally (s : State) (j : Job) (unwrapped : Bool) : State :=
  ((s.perfCount 121 1).fnCount j.elem.func 24 1).keyOp unwrapped

/-- The output of a KDF request goes to the chain buffer or to DST (R241). -/
def State.kdfOutput (s : State) (j : Job) (out : Bytes) : State :=
  if j.elem.d.secretHandoff then (((s.keyDrop j).putSecret j.elem out).endJob 21 j { status := stOk })
  else
    ((s.keyDrop j).putSecret j.elem []).writeResult 21 j { status := stOk, outLen := out.length } j.elem.d.dst out none

/-- The compressions of a KDF request: FUNC-n where its key is a blob, the states of its key, and its output (R237, R238).
DEDUCED (log 109). -/
def kdfCost (d : Desc) (blob : Bool) : Nat :=
  (if blob then kdfBlocks funcFixed 32 else 0) + 2 + kdfBlocks d.srcLen (kdfLen d)

/-- The KDF request at the head runs (R177, R183, R241). -/
def State.kdfRun (s : State) : State :=
  let s := s.kdfSync
  match s.keyHead with
  | none => s
  | some j =>
    let d := j.elem.d
    let sec := s.secret j.elem
    if d.opcode ≠ 0x23 || !s.keyFree || !j.ready then s
    else
      match kdfRefusal d sec with
      | some st => (s.kdfTally j false).keyEnd j { status := st }
      | none =>
        if j.failed then (s.kdfTally j false).keyEnd j { status := stFabricError }
        else if s.kdfDenied then (s.kdfTally j false).keyEnd j { status := stFenced }
        else if !s.kdfOnCore || (sec.isNone && !s.key.rootStates) then s
        else
          let s := (s.kdfTally j sec.isNone).kdfCount (kdfCost d sec.isNone)
          let ki : Except Nat Bytes := match sec with
            | some b => .ok b
            | none => unwrapBlob (s.funcKey (s.rootBytes.getD []) j.elem.func) (j.part 1) none
          match ki with
          | .error st => s.keyEnd j { status := st }
          | .ok key => s.kdfOutput j (kdfFixed key (j.part 0) (kdfLen d))

/-! ## Key material of a context (R124, R130) -/

/-- The 44 bytes of key ‖ salt that a CTX_INSTALL or CTX_ARM_NEXT brings, or its status. A FENCED digest engine derives no
key for a blob (R183). -/
def State.material (s : State) (j : Job) : Except Nat Bytes :=
  if j.elem.d.srcLen = 56 then
    (if j.failed then .error stFabricError
     else if s.kdfDenied then .error stFenced
     else unwrapBlob (s.funcKey (s.rootBytes.getD []) j.elem.func) (j.part 0) (some 44))
  else
    match s.secret j.elem with
    | some b => if b.length = 44 then .ok b else .error stLengthMismatch
    | none => .error stLengthMismatch

/-- SRC_LEN names a form of key material that is there (R124, R131 row 5). -/
def State.materialLenBad (s : State) (e : Elem) : Bool :=
  !(e.d.srcLen == 56 || (e.d.srcLen == 0 && (s.secret e).any (fun b => b.length == 44)))

/-- The blob of a job waits for channel 255 (R178). -/
def State.blobWaits (s : State) (j : Job) : Bool :=
  j.elem.d.srcLen == 56 && !j.failed && !s.kdfDenied && !s.keyDerives

/-- The derivation of FUNC-n for a job's blob is counted. -/
def State.blobCount (s : State) (j : Job) : State := if s.usesKdf j then s.kdfCount (kdfBlocks funcFixed 32) else s

/-- The parameters of a CTX_INSTALL are refused (R124). -/
def installBad (d : Desc) : Bool :=
  let a := d.aux1
  let suite := bitsOf a 15 8
  let sc := bitAt a 5
  !isSuite suite || (sc && (bitAt a 4 || bitAt a 3)) || (isEsp suite && decide (512 < bitsOf a 31 20)) ||
    bitsOf a 19 18 == 3 || bitAt a 0 || (isRaw suite && d.aux0 != 0) || (isEsp suite && bitsOf d.aux0 63 32 != 0) ||
    d.dst != 0 || d.dstLen != 0

/-- A slot that takes new key material (R124, R132). -/
def State.newSlot (s : State) (x : Slot) (suite : Nat) (esn sends : Bool) (an : Nat) (m : Bytes) (st : SlotSt) : Slot :=
  { x with
    key := bytesBv 256 (m.take 32), salt := BitVec.ofNat 96 (beNat (slice m 32 12)), an := an, st := st
    hpow := hPowers suite (m.take 32), pn := 1, thresh := if sends then s.threshOf suite esn else 0
    reported := false, gen := x.gen + 1 }

/-- The context that a CTX_INSTALL writes (R124). -/
def State.installCtx (s : State) (e : Elem) (m : Bytes) : Ctx :=
  let a := e.d.aux1
  let suite := bitsOf a 15 8
  let rx := bitAt a 7
  let sends := isRaw suite || !rx
  let esn := bitAt a 2
  { sciSpi := BitVec.ofNat 64 e.d.aux0, ssci := if isXpn suite then BitVec.ofNat 32 (bitsOf a 63 32) else 0, handle := e.d.object, suite := suite
    owner := e.func, st := .live, rx := rx, conf := bitAt a 6, sc := bitAt a 5, es := bitAt a 4, scb := bitAt a 3
    esn := esn, replayProt := bitAt a 1, confOffset := bitsOf a 19 18
    window := if sends then 0 else bitsOf a 31 20
    a := s.newSlot {} suite esn sends (bitsOf a 17 16) m .active }

/-- An install has ended: what waited for it in the miss buffer is looked up again (R119); owner is that of the new context,
none where there is none. -/
def State.installEnds (s : State) (h : Nat) (owner : Option Nat) : State :=
  match s.miss? h with
  | some m =>
    match owner with
    | some f => (s.dropMiss h).releaseLive f m.waiting
    | none => (s.dropMiss h).releaseElems m.waiting
  | none => s

/-- An install fails: the way returns to FREE (R124). -/
def State.installFail (s : State) (j : Job) (st : Nat) : State :=
  let h := j.elem.d.object
  let s := match s.findWay h with
    | some k => s.wipeWay k
    | none => s
  (s.keyEnd j { status := st }).installEnds h none

/-- CTX_INSTALL at the head of key custody: its lookup first, and once its way is reserved the install (R121, R124). -/
def State.ctxInstall (s : State) : State :=
  let s := s.kdfSync
  match s.keyHead with
  | some j =>
    let d := j.elem.d
    if d.opcode ≠ 0x40 || !s.keyFree || !j.ready then s
    else if s.blk (pg .ctx) == .fenced then s.keyEnd j { status := stFenced }
    else if !s.isOn (pg .ctx) || !s.masks (d.object % 64) then s
    else if j.phase = 0 then (s.jobLookup j true).2.kdfSync
    else if !installBad d && !s.materialLenBad j.elem && s.blobWaits j then s
    else
      let s := (s.keyOp (d.srcLen == 56)).blobCount j
      if installBad d then s.installFail j stInvalidOperand
      else if s.materialLenBad j.elem then s.installFail j stLengthMismatch
      else
        match s.material j with
        | .error st => s.installFail j st
        | .ok m =>
          match s.findWay d.object with
          | none => s.installFail j stNoContext
          | some k =>
            let c := s.installCtx j.elem m
            let s := s.setWay k { s.way k with
              st := .live, hit := true, age := 0, dirty := true, ctx := c.mask (s.bank (k / 64)).fresh
              pass := (s.bank (k / 64)).freshPass }
            ((s.keyEnd j { status := stOk }).installEnds d.object (some j.elem.func)).fnCount j.elem.func 27 1
  | none => s

/-- The arm of an epoch is late: a flip to it or beyond is scheduled and its guard has begun (R131 row 7). -/
def State.armLate (s : State) (et : Nat) : Bool :=
  s.epochClosed && decide (et ≤ s.epoch.pend)

/-- Rows 1 to 3 of R131. -/
def armBad (c : Ctx) (d : Desc) : Bool :=
  isEsp c.suite || bitsOf d.aux0 31 2 != 0 || d.aux1 != 0 || d.dst != 0 || d.dstLen != 0 ||
    (isMacsec c.suite && bitsOf d.aux0 1 0 == (c.slot c.activeB).an)

/-- The armed context (R132). -/
def State.armCtx (s : State) (c : Ctx) (et an : Nat) (m : Bytes) : Ctx :=
  let x := c.slot (!c.activeB)
  let x := x.retireKey (s.slotInUse c.handle (!c.activeB) x.gen)
  { c.setSlot (!c.activeB) (s.newSlot x c.suite c.esn c.sends an m .armed) with epochId := et - 1 }

/-- CTX_ARM_NEXT at the head of key custody (R121, R130–R132). -/
def State.ctxArm (s : State) : State :=
  let s := s.kdfSync
  match s.keyHead with
  | some j =>
    let d := j.elem.d
    if d.opcode ≠ 0x41 || !s.keyFree || !j.ready then s
    else if s.blk (pg .ctx) == .fenced then s.keyEnd j { status := stFenced, value := s.armEpoch d }
    else if !s.isOn (pg .ctx) || !s.masks (d.object % 64) then s
    else
      match s.jobLookup (if j.phase = 0 then j else { j with elem := { j.elem with waited := true } }) false with
      | (none, s) => s
      | (some k, s) =>
        if j.phase = 0 then (s.readMaterial j.elem).kdfSync else
        let c := s.clearCtx k
        if !armBad c d && !s.materialLenBad j.elem && s.blobWaits j then s else
        let s := (s.keyOp (d.srcLen == 56)).blobCount j
        let et := s.armEpoch d
        let done (s : State) (st : Nat) : State := s.keyEnd j { status := st, value := et }
        if armBad c d then done s stInvalidOperand
        else if s.materialLenBad j.elem then done s stLengthMismatch
        else
          match s.material j with
          | .error st => done s st
          | .ok m =>
            if et ≤ s.fld EPOCH_CUR.EPOCH 0 then done s stInvalidOperand
            else if s.armLate et then
              let s := s.raiseEvent (pg .hatband) 14
              let s := s.bump EPOCH_MISS.LATE_ARMS 0 1
              let s := (s.put EPOCH_MISS_HANDLE.HANDLE 0 d.object).putFlag EPOCH_MISS_HANDLE.VALID 0 true
              (done s stKeyNotArmed).fnCount j.elem.func 29 1
            else
              let s := (s.freshWay k).modCtx k (fun c => s.armCtx c et (bitsOf d.aux0 1 0) m)
              let s := if et = s.epoch.pend then s.bump EPOCH_ARMED.COUNT 0 1 else s
              (done s stOk).fnCount j.elem.func 28 1
  | none => s

/-- Every queued request of key custody completes with a status; those of other engines' loads leave without one here. -/
def State.keyAbort (s : State) (status : Nat) : State :=
  let js := s.key.jobs
  let s := ({ s with key := { s.key with jobs := [] } }).kdfSync
  js.foldl (fun s j =>
    if j.elem.d.opcode = 0x23 ∨ j.elem.d.opcode = 0x40 ∨ j.elem.d.opcode = 0x41 then
      s.endJob 21 j { status := status, value := s.refusedValue j.elem } else s) s

/-! ## The pounce (R242–R246) -/

/-- A pounce bank belongs to a block that is ON, and is not a fenced bank of the context cache (R330). The banks of the slots are up too while the slot image is restored into them
(R185; log 110). -/
def State.bankUp (s : State) (b : Nat) : Bool :=
  if b < 64 then s.isOn (pg .ctx) && !s.ctx.badBanks.contains b
  else s.isOn (pg .digest) || (s.blk (pg .digest) == .comingUp && s.digest.image.isSome)

/-- The masker asks for the key of the next bank of the pass, skipping banks whose block is not ON (R243, R246); fuel
bounds the banks skipped. -/
def State.pounceNext (s : State) : Nat → State
  | 0 => s
  | fuel + 1 =>
    match firstBelow 72 (fun b => !(s.bank b).done) with
    | none => s
    | some b =>
      if s.bankUp b then { s with rng := { s.rng with privWait := s.rng.privWait ++ [RngUse.pounce b] } }
      else (s.setBank b { s.bank b with done := true }).pounceNext fuel

/-- The root latch asks for the bytes of another split, if none are on their way. -/
def State.rootSplitAsk (s : State) : State :=
  if s.key.root.isSome && !s.rng.privWait.contains .rootSplit then
    { s with rng := { s.rng with privWait := s.rng.privWait ++ [RngUse.rootSplit] } }
  else s

/-- The root latch is split again by a call of its own in a pass that skips context bank 0, whose call would bring the bytes
(R235). DESIGN CHOICE (log 111). -/
def State.passSplit (s : State) : State := if s.bankUp 0 then s else s.rootSplitAsk

/-- Every line of a bank whose pass bit is p is combined with a difference of pounce keys, and its pass bit toggles (R242–R244).
Ways and slots that hold nothing are skipped. -/
def State.remask (s : State) (b : Nat) (p : Bool) (x : BitVec 1024) : State :=
  if b < 64 then
    { s with ctx := { s.ctx with ways := s.ctx.ways.map (fun w =>
      if w.1 / 64 == b && w.2.st != .free && w.2.st != .filling && w.2.pass == p then
        (w.1, { w.2 with ctx := w.2.ctx.mask x, pass := !p }) else w) } }
  else
    { s with digest := { s.digest with slots := s.digest.slots.map (fun w =>
      if w.1 % 8 == b - 64 && w.2.st == .loaded && w.2.pass == p then
        (w.1, { w.2 with bytes := w.2.bytes ^^^ x, pass := !p }) else w) } }

/-- A bank that holds K and K' re-masks itself to K' and zeroizes K (R243). -/
def State.bankFinish (s : State) (b : Nat) : State :=
  let x := s.bank b
  match x.arrived with
  | none => s
  | some k => (s.remask b x.passBit (x.key ^^^ k)).setBank b { key := k, held := true, passBit := !x.passBit, done := true }

/-- A bank ends with one key, and its turn in a pass is still to come. -/
def State.bankBack (s : State) (b : Nat) : State :=
  let s := s.bankFinish b
  s.setBank b { s.bank b with done := false }

/-- Every bank ends with one key. -/
def State.banksBack (s : State) : State := (List.range 72).foldl (fun s b => s.bankBack b) s

/-- The pass that runs, or none: a pass proper or, fresh, a draw for banks that came up. -/
def State.setPass (s : State) (on fresh : Bool) : State :=
  { s with key := { s.key with pouncing := on, fresh := fresh, overdue := false } }

/-- No bank holds a pounce key. -/
def State.noBanks (s : State) : State := { s with key := { s.key with banks := [] } }

/-- A pass starts. -/
def State.pounceStart (s : State) : State := (s.passSplit.banksBack.setPass true false).pounceNext 73

/-- A pass stops: no call of it remains asked for (R244, R246). A bank that holds K and K' ends with K', so that every line keeps its
mask. -/
def State.pounceStop (s : State) : State :=
  let s := { s with
    rng := { s.rng with privWait := s.rng.privWait.filter (fun u => match u with | .pounce _ => false | _ => true) } }
  (s.setPass false false).banksBack

/-- A pass falls due; with one running it is merged (R243, R245). A draw for banks that had come up becomes part of it. -/
def State.pounceDue (s : State) : State :=
  if s.isOn (pg .key) && !s.asleep && !s.key.noMask then
    if !s.key.pouncing then s.pounceStart
    else if s.key.fresh then s.pounceStop.pounceStart
    else s
  else s

/-- Keys are drawn for banks that come up without one: no pass, so nothing is counted or raised for it (R246, R247). -/
def State.pounceDraw (s : State) : State :=
  if s.isOn (pg .key) && !s.asleep && !s.key.pouncing && !s.key.noMask then
    let s := (List.range 72).foldl (fun s b => s.setBank b { s.bank b with done := (s.bank b).held, arrived := none }) s
    (s.setPass true true).pounceNext 73
  else s

/-- A bank that has no pounce key draws one, once key custody and its block are ON (R246, R247). -/
def State.pounceFresh (s : State) : State :=
  if s.isOn (pg .key) && (List.range 72).any (fun b => s.bankUp b && !(s.bank b).held) then s.pounceDraw else s

/-- A draw for banks that came up has ended. -/
def State.drawEnds (s : State) : State :=
  if s.key.fresh && (List.range 72).all (fun b => (s.bank b).done) then s.pounceStop.pounceFresh else s

/-- Frames in lanes may read their key line again in the pounce slot as their bank is re-masked: how many is free, because the model
has no time within a frame (R244, R350; log 127). -/
def State.laneRereads (s : State) (b : Nat) : State :=
  let n := (s.frames.list.filter (fun f => f.st == .inLane && (s.findWay f.elem.d.object).any (fun k => k / 64 == b))).length
  if n = 0 then s
  else
    let (i, s) := s.takeFree
    s.perfCount 78 ((Config.freeValue 32 i).toNat % (n + 1))

/-- A bank whose new key K' has arrived re-masks itself from K to K' and zeroizes K (R243). -/
def State.pounceBank (s : State) (b : Nat) : State :=
  if (s.bank b).arrived.isNone then s
  else
    let s := (s.laneRereads b).bankFinish b
    if s.key.pouncing then (s.pounceNext 73).drawEnds else s

/-- No bank has finished the pass that comes next (R243). -/
def State.banksUndone (s : State) : State :=
  (List.range 72).foldl (fun s b => s.setBank b { s.bank b with done := false }) s

/-- No pass runs (R243). -/
def State.passEnded (s : State) : State := { s with key := { s.key with pouncing := false, overdue := false } }

/-- The last bank of a pass has finished (R243). -/
def State.pounceDone (s : State) : State :=
  if s.key.pouncing && !s.key.fresh && (List.range 72).all (fun b => (s.bank b).done) then
    let s := s.banksUndone.passEnded
    let s := s.put KEY_POUNCE_STS.PASSES 0 (s.fld KEY_POUNCE_STS.PASSES 0 + 1)
    let s := s.put KEY_POUNCE_LAST.TIME 0 s.now
    ((s.perfCount 77 1).raiseEvent (pg .key) 1).pounceFresh
  else s

/-- A pass still runs when the next falls due (R245). -/
def State.pounceOverdue (s : State) : State :=
  if s.key.pouncing && !s.key.fresh && !s.key.overdue then
    let s := s.bump KEY_POUNCE_CNT.OVERDUE 0 1
    ({ s with key := { s.key with overdue := true } }).raiseEvent (pg .key) 2
  else s

/-- The banks of a block are zeroized as it leaves ON; a running pass skips them (R246), and splits the root by a call of its own if it
still waited for that of bank 0 (R235; log 111). After FENCE_KEYS they stay until CLEAR_ALARM (R247). -/
def State.pounceDrop (s : State) (lo n : Nat) : State :=
  if s.key.noMask then s else
  let asked (u : RngUse) : Bool := match u with | .pounce b => decide (lo ≤ b ∧ b < lo + n) | _ => false
  let was := s.rng.privWait.any asked || (List.range' lo n).any (fun b => (s.bank b).arrived.isSome)
  let split := s.key.pouncing && !s.key.fresh && lo == 0 && s.rng.privWait.contains (.pounce 0)
  let s := { s with rng := { s.rng with privWait := s.rng.privWait.filter (fun u => !asked u) } }
  let s := if split then s.rootSplitAsk else s
  let s := (List.range' lo n).foldl (fun s b => s.setBank b { done := s.key.pouncing }) s
  if s.key.pouncing && was then (s.pounceNext 73).drawEnds else s.drawEnds

/-! ## Zeroization (R235, R247) -/

/-- WRAP, TREE and the root's HMAC states are zeroized, and no derivation is left to run. -/
def State.clearDerived (s : State) : State :=
  { s with key := { s.key with wrap := none, tree := none, rootStates := false, derive := [] } }

/-- The secrets in the chain buffer are zeroized. -/
def State.clearSecrets (s : State) : State :=
  { s with qeng := { s.qeng with
    cbuf := (s.qeng.cbuf.map (fun p => (p.1, { p.2 with secret := [] }))).filter (fun p => p.2.taken) } }

/-- Every pounce key is lost with PD37, but those that FENCE_KEYS keeps until CLEAR_ALARM (R247). -/
def State.losePounce (s : State) : State :=
  let s := s.pounceStop
  if s.key.noMask then s else s.noBanks

/-- Every pounce key is zeroized. -/
def State.clearPounce (s : State) : State := s.pounceStop.noBanks

/-- The slot image is given up: G counts and IMAGE clears (R185). -/
def State.dropImage (s : State) : State :=
  { s with digest := { s.digest with gen := (s.digest.gen + 1) % 2 ^ 32, image := none } }

/-- A running attestation ends: its response is zero (R251). -/
def State.attestAbort (s : State) : State :=
  if s.key.attest.isSome then
    let s := { s with key := { s.key with attest := none } }
    let s := (List.range 6).foldl (fun s i => s.setReg .KEY_ATT_RESP i 0) s
    (s.putFlag KEY_ATT_STS.ABORTED 0 true).putFlag KEY_ATT_STS.DONE 0 true
  else s

/-- KEY_FGEN is zeroized. -/
def State.clearFgen (s : State) : State := (List.range 64).foldl (fun s f => s.setReg .KEY_FGEN f 0) s

/-- The root latch is cleared, and KEY_FGEN with it (R235, R239). -/
def State.clearLatch (s : State) : State :=
  let s := if s.key.root.isSome then s.bump KEY_COUNTS.ZEROIZE 0 1 else s
  let s := { s with key := { s.key with root := none } }
  (s.portReset.setReg .TILE_UID 0 0).clearFgen

/-- The root latch is cleared, which gives up the slot image (R185). -/
def State.clearRoot (s : State) : State := s.clearLatch.dropImage

/-- Everything that KEY_CMD ZEROIZE clears besides the root latch (R247). -/
def State.clearKeys (s : State) : State := s.attestAbort.clearDerived.clearPounce.clearSecrets.kdfSync

/-- KEY_CMD ZEROIZE may run (R248). -/
def State.zeroizeOk (s : State) : Bool :=
  (s.tile.st == .bringUp || s.tile.st == .test || s.tile.st == .fenced) &&
    (s.ctx.store == .uninit || (s.ctx.store == .ready && s.ctx.ways.all (fun p => !p.2.dirty && p.2.wbVersion == 0) &&
      s.ctx.nodes.all (fun p => !p.2.dirty && p.2.writing.isNone)))

/-- KEY_CMD ZEROIZE (R247, R248). -/
def State.zeroize (s : State) : State :=
  if s.zeroizeOk then (s.clearRoot.clearKeys).raiseEvent (pg .tamper) 4 else s.seq (pg .key)

/-! ## Attestation (R249–R251) -/

/-- TILE_STATE as it reads (R42). -/
def State.tileWord (s : State) : Nat :=
  b2n s.keeper * 2 ^ 11 + b2n s.holdover * 2 ^ 10 + b2n s.key.root.isSome * 2 ^ 9 + b2n s.rng.ready * 2 ^ 8 +
    s.tile.prev.code * 16 + s.tile.st.code

/-- TILE_WINDOW as it reads (R42). -/
def State.windowWord (s : State) : Nat := s.tile.windowBase.toNat * 2 ^ 28 + ((s.tile.addr.map (·.toNat)).getD 0) * 2 ^ 22

/-- The settings of a register: its RWX fields and TAMP_XIN_CFG.SEAL, everything else zero (R250). -/
def State.settings (s : State) (r : Reg) (n : Nat) : Nat :=
  r.desc.flds.foldl (fun a f =>
    if f.acc == .rwx || (r == .TAMP_XIN_CFG && f.lo == TAMP_XIN_CFG.SEAL.lo) then a + s.fld f n * 2 ^ f.lo else a) 0

/-- A record put into a list that rises by offset. -/
def insertRec (x : Nat × Reg × Nat) : List (Nat × Reg × Nat) → List (Nat × Reg × Nat)
  | [] => [x]
  | y :: t => if x.1 < y.1 then x :: y :: t else y :: insertRec x t

/-- The expert registers of one page, by ascending window offset, with their instances. -/
def expertRegs (p : PageRef) : List (Nat × Reg × Nat) :=
  let rs := allRegs.filter (fun r => r.desc.page == p.kind && decide (0x800 ≤ r.desc.off))
  (rs.flatMap (fun r => (List.range r.desc.count).map (fun i =>
    (pageNum p * 4096 + r.desc.off + r.desc.stride * i, r, p.inst * r.desc.count + i)))).foldl (fun l x => insertRec x l) []

/-- The records of every expert register of the tile (R250). -/
def State.expertBytes (s : State) : Bytes :=
  (allPages.filterMap pageOf).flatMap (fun p =>
    if p.kind == .result then []
    else (expertRegs p).flatMap (fun x =>
      leBytes x.1 4 ++ leBytes (s.settings x.2.1 x.2.2) (if x.2.1.desc.wide then 8 else 4)))

/-- The message M (R249). -/
def State.attestMsg (s : State) : Bytes :=
  (List.range 4).flatMap (fun k => leBytes (s.fld KEY_ATT_CHAL.CHAL k) 8) ++ s.uidBytes ++ leBytes s.windowWord 8 ++
    sha384 s.expertBytes ++ leBytes (s.fld KEY_COUNTS.ZEROIZE 0) 4 ++ leBytes (s.fld KEY_COUNTS.TAMPER 0) 4 ++
    leBytes (s.fld KEY_SESSION.SESSION 0) 8 ++ leBytes (s.reg .TILE_IDENT 0).toNat 4 ++ leBytes s.tileWord 4 ++
    leBytes s.now 8

/-- Some page's expert lock is open or armed. -/
def State.anyLock (s : State) : Bool := s.hdrs.any (fun p => p.2.lock != .closed)

/-- KEY_CMD ATTEST: M is formed, or the attestation is refused (R251). -/
def State.attestStart (s : State) : State :=
  if s.key.attest.isSome || !s.isOn (pg .key) then s.seq (pg .key)
  else
    let s := s.putFlag KEY_ATT_STS.ABORTED 0 false
    if s.key.root.isNone || s.anyLock then
      (s.putFlag KEY_ATT_STS.REFUSED 0 true).putFlag KEY_ATT_STS.DONE 0 true
    else
      let m := s.attestMsg
      ({ s.putFlag KEY_ATT_STS.REFUSED 0 false with key := { s.key with attest := some m } }).kdfSync

/-- The 64-bit words of a string of bytes go into consecutive instances of a register. -/
def State.putWords (s : State) (r : Reg) (b : Bytes) : State :=
  (List.range (b.length / 8)).foldl (fun s k => s.setReg r k (BitVec.ofNat 64 (numAt b (8 * k) 8))) s

/-- SHA-384 compressions of a message of n bytes. -/
def sha384Blocks (n : Nat) : Nat := (n + 17 + 127) / 128

/-- The compressions of an attestation: the expert digest, ATTEST, its states, and the tag over M (R249–R251). DEDUCED (log 109). -/
def State.attestCost (s : State) : Nat :=
  sha384Blocks s.expertBytes.length + kdfBlocks (labelAttest.length + 1 + 8) 48 + 2 + hmacBlocks 128

/-- The attestation that runs computes its tag on channel 255 and ends (R251). -/
def State.attestDone (s : State) : State :=
  let s := s.kdfSync
  match s.key.attest, s.rootBytes with
  | some m, some root =>
    if s.keyWorks && s.kdfOnCore && s.key.derive.isEmpty then
      let s := s.kdfCount s.attestCost
      let tag := hmacSha384 (kdf root labelAttest s.uidBytes 48) m
      let s := ((s.putWords .KEY_ATT_MSG m).putWords .KEY_ATT_RESP tag).keyOp false
      let s := ({ s with key := { s.key with attest := none } }).kdfNext
      (s.putFlag KEY_ATT_STS.DONE 0 true).raiseEvent (pg .key) 0
    else s
  | _, _ => s

/-- The work that channel 255 does for key custody now, and its compressions: 0 derivations of its own, 1 an attestation, else the
opcode of the request at its head (R187, R231). -/
def State.kdfDoes (s : State) : Option (Nat × Nat) :=
  if !s.key.derive.isEmpty then some (0, (s.key.derive.map deriveCost).sum)
  else if s.key.attest.isSome then some (1, s.attestCost)
  else (s.keyHead.filter (fun j => s.usesKdf j)).map (fun j =>
    (j.elem.d.opcode, if j.elem.d.opcode = 0x23 then kdfCost j.elem.d (s.secret j.elem).isNone else kdfBlocks funcFixed 32))

/-! ## Errors (R252) -/

/-- An error of key custody's data path: its repeat cleared it, or everything but the root latch is zeroized, KEY_FGEN too. Answers
whether the tile is fenced. -/
def State.keyError (s : State) (cleared : Bool) : Bool × State :=
  if !s.keyWorks then (false, s)
  else if cleared then (false, s.transient (pg .key))
  else (true, ((s.lasting (pg .key)).clearKeys.clearFgen).raiseFault (pg .key) 9)

end Sys2Proof.Machine
end

