-- ==== Sys2Proof/Machine/Digest.lean ====
section
/-! DEFINITION. The digest engine: algorithms, channels and cores, keyed-digest slots, the RESULT page, errors and the slot
image (R170–R187). -/

namespace Sys2Proof.Machine

/-! ## Algorithms (R170) -/

def isSha2 (alg : Nat) : Bool := decide (1 ≤ alg ∧ alg ≤ 5)
def isSha3 (alg : Nat) : Bool := decide (0x11 ≤ alg ∧ alg ≤ 0x14)
def isShake (alg : Nat) : Bool := alg == 0x21 || alg == 0x22
def isDigestAlg (alg : Nat) : Bool := isSha2 alg || isSha3 alg || isShake alg

/-- The width of a SHA-2 algorithm. -/
def sha2Of (alg : Nat) : Sha2 := if alg ≤ 2 then sha2Narrow else sha2Wide

/-- The initial value of a SHA-2 algorithm. -/
def sha2Iv (alg : Nat) : List Nat :=
  if alg = 1 then iv224 else if alg = 2 then iv256 else if alg = 3 then iv384 else if alg = 4 then iv512
  else ivT name512_256

/-- Output bytes; xof for the SHAKEs. -/
def digestOut (alg xof : Nat) : Nat :=
  if isShake alg then xof
  else if alg = 1 ∨ alg = 0x11 then 28 else if alg = 3 ∨ alg = 0x13 then 48 else if alg = 4 ∨ alg = 0x14 then 64 else 32

/-- Block bytes. -/
def digestBlk (alg : Nat) : Nat :=
  if isSha2 alg then 2 * (sha2Of alg).w
  else if alg = 0x21 then 168 else if alg = 0x22 then 136 else 200 - 2 * digestOut alg 0

/-- The digest of a message. -/
def digestOf (alg xof : Nat) (m : Bytes) : Bytes :=
  if isSha2 alg then sha2 (sha2Of alg) (sha2Iv alg) (digestOut alg 0) m
  else if isSha3 alg then sha3 (digestOut alg 0) m
  else if alg = 0x21 then shake128 xof m
  else shake256 xof m

/-- The 128 bytes of a slot for a key, with the length K0 has, none where the length is not supported (R179, R180). DESIGN CHOICE
(log 125): the key length in the tag of a SHA-3 slot is the length of K0, which a key longer than a block has after it is hashed. -/
def slotImage (alg : Nat) (key : Bytes) : Option (Bytes × Nat) :=
  let blk := digestBlk alg
  let k := if blk < key.length then digestOf alg 0 key else key
  if key.length = 0 ∨ 4096 < key.length then none
  else if isSha2 alg then
    let p := sha2Of alg
    let k0 := k ++ zeros (blk - k.length)
    let st (x : Byte) : Bytes := slice (sha2Bytes p (sha2Blocks p (sha2Iv alg) (k0.map (fun b => b ^^^ x)))) 0 64
    some (st 0x36 ++ st 0x5C, 0)
  else if 128 < k.length then none
  else some (slice k 0 128, k.length)

/-- The tag of a message under a slot's bytes (R179). -/
def slotTag (alg : Nat) (b : Bytes) (m : Bytes) : Bytes :=
  let n := digestOut alg 0
  let blk := digestBlk alg
  if isSha2 alg then
    let p := sha2Of alg
    sha2After p (sha2Words p (slice b 64 64)) blk n (sha2After p (sha2Words p (slice b 0 64)) blk n m)
  else hmacWith (sha3 n) blk (b.take blk) m

/-- Blocks that the last part of a message costs beyond whole blocks before it: a message of len bytes in all of which pre
came earlier (R23, R170, R179). -/
def finalBlocks (alg : Nat) (keyed : Bool) (xof pre len : Nat) : Nat :=
  let blk := digestBlk alg
  if isSha2 alg then (len + 1 + blk / 8 + blk - 1) / blk - pre / blk + b2n keyed
  else len / blk + 1 - pre / blk + (if isShake alg then (xof - 1) / blk else 0) + (if keyed then 3 else 0)

/-! ## Reasons (R173) -/

def rsnDgArmed : Nat := 0x25
def rsnDgState : Nat := 0x23
def rsnDgFabric : Nat := 0x2C
def rsnDgFenced : Nat := 0x2E

/-! ## Access -/

/-- One keyed-digest slot. -/
def State.kdSlot (s : State) (n : Nat) : KdSlot := Tbl.get {} s.digest.slots n

/-- The state with one keyed-digest slot. -/
def State.setKdSlot (s : State) (n : Nat) (x : KdSlot) : State :=
  { s with digest := { s.digest with slots := Tbl.set {} s.digest.slots n x } }

/-- The pounce key that covers a keyed-digest slot (R242). -/
def State.slotKey (s : State) (n : Nat) : BitVec 1024 := (s.bank (64 + n % 8)).covers (s.kdSlot n).pass

/-- A slot as it is written now, with its bytes in clear: masked with the key, and with the pass bit, that R244 gives. -/
def State.maskSlot (s : State) (n : Nat) (x : KdSlot) : KdSlot :=
  let b := s.bank (64 + n % 8)
  { x with bytes := x.bytes ^^^ b.fresh, pass := b.freshPass }

/-- The state with one RESULT slot. -/
def State.setResult (s : State) (n : Nat) (x : ResSlot) : State :=
  { s with digest := { s.digest with results := Tbl.set {} s.digest.results n x } }

/-- A FREE ordinary channel (R23). -/
def State.dgFree (s : State) : Option Nat := firstBelow s.dgOrdinary (fun c => (s.dgChan c).st == .free)

/-- An error of the channel memory or the slot store is recorded (R186). -/
def State.dgError (s : State) (kind index : Nat) : State :=
  let s :=
    if s.flag DG_ERR_INFO.VALID 0 then s
    else ((s.putFlag DG_ERR_INFO.VALID 0 true).put DG_ERR_INFO.KIND 0 kind).put DG_ERR_INFO.INDEX 0 index
  s.bump DG_ERR_INFO.COUNT 0 1

/-! ## The rows of R173 -/

/-- XOF_LEN does not fit the algorithm, where it is known, or the part; a LOAD or CLEAR has no part. -/
def xofBad (alg : Option Nat) (d : Desc) : Bool :=
  match alg with
  | none => false
  | some a => if isShake a && !dgMore d && !dgLoad d && !dgClear d then dgXof d == 0 else dgXof d != 0

/-- Row 1; alg is the algorithm of the message where it is known, 0 for an HMAC. -/
def dgRow1 (d : Desc) (alg : Option Nat) : Bool :=
  let set := dgLoad d || dgClear d
  let noDst := d.resultReg || (d.opcode == 0x22 && dgMore d)
  d.auxLen != 0 || bitsOf d.aux1 63 36 != 0 || bitsOf d.aux1 15 11 != 0 ||
    (if d.resultReg then d.aux0 / 64 != 0 else d.aux0 != 0) || (dgLoad d && dgClear d) ||
    ((set || d.resultReg) && dgMore d) || (set && (d.opcode != 0x21 || d.resultReg)) ||
    (dgAlg d != 0 && !(d.opcode == 0x20 || dgLoad d)) || (noDst && (d.dst != 0 || d.dstLen != 0)) || xofBad alg d

/-- The RESULT slot a request names is restricted to another function (row 7). -/
def State.dgRow7 (s : State) (e : Elem) : Bool :=
  let r := e.d.aux0 % 64
  let b := bitsOf (s.reg .DG_RES_FUNC (r / 4)).toNat (8 * (r % 4) + 7) (8 * (r % 4))
  e.d.resultReg && bitAt b 7 && b % 64 != e.func

/-- The channels that a function holds but the one given: HELD ones and those whose running part says MORE. -/
def State.dgHeldBy (s : State) (f : Nat) (own : Option Nat) : Nat :=
  (s.digest.chans.filter (fun p => some p.1 != own && p.2.owner == f &&
    (p.2.st == .held || (p.2.st == .busy && p.2.job.any (fun j => dgMore j.elem.d))))).length

/-- Row 8; own is the channel that the request has already. -/
def State.dgRow8 (s : State) (e : Elem) (own : Option Nat) : Bool :=
  e.d.opcode != 0x22 && dgMore e.d && decide (min 64 (max 1 (s.fld DG_HOLD.MAX_PER_FN 0)) ≤ s.dgHeldBy e.func own)

/-- Row 9, for a message of an algorithm. -/
def dgRow9 (d : Desc) (alg : Nat) : Bool :=
  !dgMore d && !dgLoad d && !dgClear d &&
    (if d.resultReg then decide (64 < digestOut alg (dgXof d)) else decide (d.dstLen < digestOut alg (dgXof d)))

/-- Rows 7 to 10, for a message of an algorithm of which len bytes came before: the status and reason of a refusal. -/
def State.dgLate (s : State) (e : Elem) (own : Option Nat) (alg len : Nat) : Option (Nat × Nat) :=
  if s.dgRow7 e then some (stOwnerMismatch, 0x27)
  else if s.dgRow8 e own then some (stInvalidOperand, 0x2D)
  else if dgRow9 e.d alg then some (stOutputTooSmall, 0x28)
  else if 2 ^ 61 - 1 < len + e.d.srcLen then some (stLengthMismatch, 0x29)
  else none

/-- A digest request is refused; nothing changes (R173). -/
def State.dgRefuse (s : State) (e : Elem) (st reason : Nat) : State := s.push 16 { elem := e, status := st, reason := reason }

/-! ## Requests -/

/-- A RESULT slot is cleared as its request is dispatched (R182). -/
def State.clearResult (s : State) (d : Desc) : State := if d.resultReg then s.setResult (d.aux0 % 64) {} else s

/-- The reads of a part begin; it waits for a core at once if it has none. -/
def State.dgBegin (s : State) (c : Nat) (j : Job) : State :=
  let (j, s) := s.readPart j 0 j.elem.d.src j.elem.d.srcLen
  let s := s.setDgChan c { s.dgChan c with job := some j }
  if j.ready then s.dgReady c else s

/-- A channel becomes FREE, zeroized; later parts of its message find it so (R173 row 3). -/
def State.dgEnd (s : State) (c : Nat) : State :=
  let x := s.dgChan c
  let s := (s.leaveCore c).setDgChan c {}
  let s := { s with digest := { s.digest with
    slotWait := s.digest.slotWait.filter (fun (j : Job) => !x.job.any (fun k => k.id == j.id))
    cores := Tbl.mapVals {} (fun (y : DCore) => { y with
      ownRerun := if y.ownRerun == some c then none else y.ownRerun, after := y.after.filter (· != c) }) s.digest.cores } }
  x.next.foldl (fun s j => s.dgRefuse j.elem stInvalidOperand rsnDgState) s

/-- A job is a LOAD or a CLEAR of a slot. -/
def Job.setsSlot (j : Job) (n : Nat) : Bool :=
  j.elem.d.opcode == 0x21 && j.elem.d.object == n && (dgLoad j.elem.d || dgClear j.elem.d)

/-- A LOAD or CLEAR of a slot is under way on some channel. -/
def State.slotBusy (s : State) (n : Nat) : Bool :=
  s.digest.chans.any (fun p => p.2.job.any (fun j => j.setsSlot n && !s.digest.slotWait.any (fun k => k.id == j.id)))

/-- A slot as the requests dispatched for it so far leave it: LOADING from the dispatch of a LOAD, EMPTY from that of a CLEAR, each
acting on the result of those before it (R180, R181). -/
def State.slotNow (s : State) (n : Nat) : KdSlot :=
  match (s.digest.slotWait.filter (fun j => j.setsSlot n)).getLast? with
  | some j => if dgLoad j.elem.d then { st := .loading, owner := j.elem.func, alg := dgAlg j.elem.d } else {}
  | none => if s.slotBusy n && (s.kdSlot n).st != .loading then {} else s.kdSlot n

/-- An HMAC request that has its channel meets its slot. An HMAC whose slot is LOADED no more has waited for a LOAD that failed, or
for the mask of a slot that an ECC error emptied: no key is there (R180, R181, R183). -/
def State.slotStart (s : State) (c : Nat) (j : Job) : State :=
  let e := j.elem
  let n := e.d.object
  let x := s.kdSlot n
  if dgLoad e.d then
    let s := s.setKdSlot n { st := .loading, owner := e.func, alg := dgAlg e.d }
    let (j, s) := s.readPart j 0 e.d.src e.d.srcLen
    let s := s.setDgChan c { s.dgChan c with job := some j }
    ({ s with key := { s.key with jobs := s.key.jobs ++ [j] } }).kdfSync
  else if dgClear e.d then s.setDgChan c { s.dgChan c with job := some { j with elem := e.stamp 4 s.now } }
  else if x.st != .loaded || x.owner != e.func then
    (s.endJob 16 j { status := stKeyNotArmed, reason := rsnDgArmed, value := c }).setDgChan c {}
  else
    let s := s.setDgChan c { s.dgChan c with alg := x.alg, keyed := some (x.bytes ^^^ s.slotKey n), job := some j }
    s.dgBegin c j

/-- The channel of a job. -/
def State.dgChanOf (s : State) (id : Nat) : Option Nat :=
  (s.digest.chans.find? (fun p => p.2.job.any (fun j => j.id == id))).map (fun p => p.1)

/-- Key custody supplies the mask of the bank of a request's slot (R14, R242). -/
def State.slotMasked (s : State) (d : Desc) : Bool := s.masks (64 + d.object % 8)

/-- A request can begin on its slot: an HMAC uses the slot, and needs its mask. -/
def State.slotOpen (s : State) (d : Desc) : Bool := dgLoad d || dgClear d || s.slotMasked d

/-- A slot is free again: what waits for it goes on in dispatch order, up to the next LOAD or CLEAR, which so waits for every HMAC
before it to copy the slot (R181); fuel bounds the requests. -/
def State.slotNext (s : State) (n : Nat) : Nat → State
  | 0 => s
  | fuel + 1 =>
    if s.slotBusy n then s
    else
      match s.digest.slotWait.find? (fun j => j.elem.d.object == n) with
      | none => s
      | some j =>
        if !s.slotOpen j.elem.d then s else
        let s := { s with digest := { s.digest with slotWait := dropJob s.digest.slotWait j.id } }
        match s.dgChanOf j.id with
        | none => s.slotNext n fuel
        | some c => (s.slotStart c j).slotNext n fuel

/-- Everything that waits for a slot goes on as far as it can: the masks of a bank may have come (R14). -/
def State.slotsGo (s : State) : State :=
  let l := s.digest.slotWait
  l.foldl (fun s j => s.slotNext j.elem.d.object (l.length + 1)) s

/-- Rows 5 to 10 for an HMAC, on its slot as what was dispatched before it leaves it (R173, R181). -/
def State.slotRefusal (s : State) (e : Elem) : Option (Nat × Nat) :=
  let x := s.slotNow e.d.object
  if x.st != .empty && x.owner != e.func then some (stOwnerMismatch, 0x26)
  else if dgLoad e.d || dgClear e.d then none
  else if x.st == .empty then some (stKeyNotArmed, rsnDgArmed)
  else s.dgLate e none x.alg 0

/-- A digest element is dispatched: it is refused by R173, or takes its channel; answers false where no ordinary channel is
FREE (R23, R63). -/
def State.digestDispatch (s : State) (e : Elem) : Bool × State :=
  let d := e.d
  let count (s : State) : State := s.fnCount e.func 19 1
  if d.opcode = 0x22 then
    let c := d.object
    let x := s.dgChan c
    let held := x.st == .held || x.st == .busy
    let s := count s
    if dgRow1 d (if held && decide (c < s.dgOrdinary) then some x.alg else none) then (true, s.dgRefuse e stInvalidOperand 0x22)
    else
      let lastMore := match x.next.getLast? with
        | some j => dgMore j.elem.d
        | none => x.job.any (fun j => dgMore j.elem.d)
      if s.dgOrdinary ≤ c || !(x.st == .held || (x.st == .busy && lastMore)) then (true, s.dgRefuse e stInvalidOperand rsnDgState)
      else if x.owner ≠ e.func then (true, s.dgRefuse e stOwnerMismatch 0x24)
      else
        let len := x.msg.length + ((x.job.toList ++ x.next).map (fun j => j.elem.d.srcLen)).sum
        match s.dgLate e (some c) x.alg len with
        | some r => (true, s.dgRefuse e r.1 r.2)
        | none =>
          let s := s.clearResult d
          let (j, s) := s.newJob (e.onUnit c)
          if x.st == .held then (true, (s.setDgChan c { x with st := .busy }).dgBegin c j)
          else
            let (j, s) := s.readPart j 0 d.src d.srcLen
            (true, s.setDgChan c { s.dgChan c with next := (s.dgChan c).next ++ [j] })
  else
    match s.dgFree with
    | none => (false, s)
    | some c =>
      let s := count s
      let alg := if d.opcode = 0x20 ∨ dgLoad d then dgAlg d else 0
      if dgRow1 d (some alg) then (true, s.dgRefuse e stInvalidOperand 0x22)
      else if (d.opcode == 0x20 || dgLoad d) && (!isDigestAlg alg || (dgLoad d && isShake alg)) then
        (true, s.dgRefuse e stInvalidOperand 0x21)
      else if d.opcode = 0x20 then
        match s.dgLate e none alg 0 with
        | some r => (true, s.dgRefuse e r.1 r.2)
        | none =>
          let s := s.clearResult d
          let (j, s) := s.newJob (e.onUnit c)
          (true, (s.setDgChan c { st := .busy, owner := e.func, alg := alg }).dgBegin c j)
      else
        match s.slotRefusal e with
        | some r => (true, s.dgRefuse e r.1 r.2)
        | none =>
          let waits := s.slotBusy d.object || s.digest.slotWait.any (fun k => k.elem.d.object == d.object) || !s.slotOpen d
          let s := s.clearResult d
          let (j, s) := s.newJob (e.onUnit c)
          let s := s.setDgChan c { st := .busy, owner := e.func, alg := alg, job := some j }
          if waits then (true, { s with digest := { s.digest with slotWait := s.digest.slotWait ++ [j] } })
          else (true, s.slotStart c j)

/-- A message ends with a failure: its channel is FREE (R173, R184). -/
def State.dgFail (s : State) (c p st reason : Nat) : State :=
  match (s.dgChan c).job with
  | none => s
  | some j => (s.endJob p j { status := st, reason := reason, value := c }).dgEnd c

/-- The next part of a message that stays HELD begins, or the channel is HELD (R174, R175). A part whose SRC read has failed ends
the message (R173). -/
def State.dgHold (s : State) (c : Nat) : State :=
  let x := s.dgChan c
  match x.next with
  | [] => s.setDgChan c { x with st := .held, job := none }
  | j :: rest =>
    let s := s.setDgChan c { x with job := some j, next := rest }
    if !j.ready then s
    else if j.failed then s.dgFail c 16 stFabricError rsnDgFabric
    else s.dgReady c

/-- Blocks absorbed by a core for a function are counted. -/
def State.dgCount (s : State) (n f k : Nat) : State :=
  (s.coreCount n k).fnCount f 20 k

/-- The output of a finished message goes to its RESULT slot or to DST (R182). -/
def State.dgOutput (s : State) (c n : Nat) (j : Job) (out : Bytes) : State :=
  let d := j.elem.d
  let k : Compl := { status := stOk, outLen := out.length, value := c }
  if d.resultReg then
    let s := s.setResult (d.aux0 % 64) { valid := true, len := out.length, bytes := bytesBv 512 out }
    s.endJob (16 + n) j k
  else s.writeResult (16 + n) j k d.dst out none

/-- The request for which a channel works was retried: its own, that of the big-number channel it serves, or that of key custody
(R183). -/
def State.markRetried (s : State) (c : Nat) : State :=
  let x := s.dgChan c
  let again (j : Job) : Job := { j with retried := true }
  let s := s.setDgChan c { x with job := x.job.map again }
  let s := match x.serves with
    | some b =>
      let y := Tbl.get {} s.bignum.chans b
      { s with bignum := { s.bignum with chans := Tbl.set {} s.bignum.chans b { y with queue := match y.queue with
        | [] => []
        | j :: rest => again j :: rest } } }
    | none => s
  match (if c = 255 then s.keyHead else none) with
  | some h => { s with key := { s.key with jobs := updJob s.key.jobs h.id again } }
  | none => s

/-- A core detects an error in the slice of its channel (R183): the output is withdrawn and the slice re-run, and the core runs its
check. Answers whether the engine is fenced: the slice was being re-run. -/
def State.dcoreErr (s : State) (n cause : Nat) : Bool × State :=
  match (s.dcore n).chan with
  | none => (false, s)
  | some c =>
    if !s.coreFit n then (false, s)
    else
      let s :=
        if s.flag DCORE_ERR.VALID n then s
        else ((s.putFlag DCORE_ERR.VALID n true).put DCORE_ERR.CAUSE n cause).put DCORE_ERR.CHANNEL n c
      let s := (s.bump DCORE_ERR.COUNT n 1).raiseFault (corePg n) 8
      let x := s.dgChan c
      let s := s.setDcore n { s.dcore n with chan := none, check := .waiting, erring := true }
      let s := s.setDgChan c { x with rerun := true, core := none }
      if x.rerun then (true, s.dgError 5 c)
      else
        let s := s.markRetried c
        let on := (List.range 4).filter (fun m => m != n && s.coreFit m)
        match (on.find? (fun m => s.coreFree m)) <|> on.head? with
        | none => (false, s.setDcore n { s.dcore n with ownRerun := some c })
        | some m => (false, (s.takePriv c m).raiseEvent (corePg n) 0)

/-- The error that DCORE_XINJECT asks for falls into the slice on a core (R187). -/
def State.injectError (s : State) (n : Nat) : Bool × State :=
  (s.putFlag DCORE_XINJECT.ARM n false).dcoreErr n (s.fld DCORE_XINJECT.CAUSE n)

/-- The part of a channel on a core is absorbed; a final part finishes the message (R172, R175). Answers whether the engine
is fenced by an error that DCORE_XINJECT asked for. -/
def State.digestRun (s : State) (op c : Nat) : Bool × State :=
  let x := s.dgChan c
  match x.job, x.core with
  | some j, some n =>
    let d := j.elem.d
    if d.opcode ≠ op || x.st != .busy || !j.ready || !s.coreFit n || dgLoad d || dgClear d then (false, s)
    else
      let data := j.part 0
      let pre := x.msg.length
      let len := pre + data.length
      let k := if dgMore d then len / digestBlk x.alg - pre / digestBlk x.alg
               else finalBlocks x.alg x.keyed.isSome (dgXof d) pre len
      if s.coreInjects n k then s.injectError n
      else
        let s := s.dgCount n j.elem.func k
        if dgMore d then
          let s := s.endJob (16 + n) j { status := stOk, value := c }
          let s := (s.leaveCore c).setDgChan c { (s.leaveCore c).dgChan c with msg := x.msg ++ data, rerun := false }
          (false, (s.dgHold c).takeCores 4)
        else
          let m := x.msg ++ data
          let out := match x.keyed with
            | some b => slotTag x.alg (bvBytes b 128) m
            | none => digestOf x.alg (dgXof d) m
          let s := s.dgOutput c n j out
          (false, (s.dgEnd c).takeCores 4)
  | _, _ => (false, s)

/-- A LOAD ends: its channel is FREE and the slot's waiters go on. -/
def State.loadEnds (s : State) (c : Nat) (j : Job) (st reason : Nat) (x : KdSlot) : State :=
  let n := j.elem.d.object
  let s := (s.keyDrop j).setKdSlot n x
  let p := 16 + (s.dgChan c).core.getD 0
  let s := ((s.endJob p j { status := st, reason := reason, value := c }).dgEnd c).fnCount j.elem.func 21 1
  (s.slotNext n (s.digest.slotWait.length + 1)).takeCores 4

/-- Blocks that a LOAD of a key of n bytes absorbs: K into K0 where it is longer than a block, and the two states of R179 for
SHA-2 (R180). -/
def loadBlocks (alg n : Nat) : Nat :=
  (if digestBlk alg < n then finalBlocks alg false 0 0 n else 0) + (if isSha2 alg then 2 else 0)

/-- The slot that a LOAD fills, for an unwrapped key (R179, R180). -/
def State.loadSlot (s : State) (c : Nat) (j : Job) (key : Bytes) : State :=
  let d := j.elem.d
  match slotImage (dgAlg d) key with
  | none => s.loadEnds c j stInvalidOperand 0x2B {}
  | some (b, klen) =>
    s.loadEnds c j stOk 0 (s.maskSlot d.object { st := .loaded, owner := j.elem.func, alg := dgAlg d, klen := klen,
                                                 bytes := bytesBv 1024 b })

/-- The channel of a LOAD holds the unwrapped key: it computes what the slot holds, on a core if that takes one, and writes the
slot (R179, R180). Answers whether the engine is fenced by an error that DCORE_XINJECT asked for. -/
def State.loadWrite (s : State) (c : Nat) (j : Job) : Bool × State :=
  let key := j.part 3
  let k := loadBlocks (dgAlg j.elem.d) key.length
  if !s.slotMasked j.elem.d then (false, s)
  else
    match (s.dgChan c).core with
    | some n => if s.coreInjects n k then s.injectError n else (false, (s.dgCount n j.elem.func k).loadSlot c j key)
    | none => if decide (0 < k) || s.stalling 16 then (false, s) else (false, s.loadSlot c j key)

/-- HMAC with LOAD: key custody unwraps the key into the channel, which waits for a core with it (R180). Answers as loadWrite does. -/
def State.hmacLoad (s : State) (c : Nat) : Bool × State :=
  let s := s.kdfSync
  match (s.dgChan c).job with
  | none => (false, s)
  | some j =>
    let d := j.elem.d
    if !dgLoad d || d.opcode ≠ 0x21 || !j.ready then (false, s)
    else if j.phase = 1 then s.loadWrite c j
    else
      match s.keyHead, s.rootBytes with
      | some h, some root =>
        if h.id ≠ j.id || !s.keyDerives || s.stalling 16 then (false, s)
        else
          match s.kdfInjects (kdfBlocks funcFixed 32) with
          | some n => s.injectError n
          | none =>
            let j := { j with retried := j.retried || h.retried }
            let s := (s.keyOp true).kdfCount (kdfBlocks funcFixed 32)
            match unwrapBlob (s.funcKey root j.elem.func) (j.part 0) none with
            | .error _ => (false, s.loadEnds c j stAuthFail 0x2A {})
            | .ok key =>
              let j := { j with phase := 1, parts := Tbl.ins (Tbl.del j.parts 0) 3 key }
              let s := (s.keyDrop j).setDgChan c { s.dgChan c with job := some j }
              let s := s.dgReady c
              s.loadWrite c ((s.dgChan c).job.getD j)
      | _, _ => (false, s)

/-- HMAC with CLEAR (R180); it waits while its producer stalls (R149). -/
def State.hmacClear (s : State) (c : Nat) : State :=
  match (s.dgChan c).job with
  | some j =>
    let d := j.elem.d
    if !dgClear d || d.opcode ≠ 0x21 || s.digest.slotWait.any (fun k => k.id == j.id) || s.stalling 16 then s
    else s.loadEnds c j stOk 0 {}
  | none => s

/-- The SRC read of a digest job has ended. -/
def State.digestBytes (s : State) (c : Nat) (j : Job) : State :=
  let x := s.dgChan c
  if x.job.any (fun k => k.id == j.id) then
    let s := s.setDgChan c { x with job := some j }
    if dgLoad j.elem.d && j.elem.d.opcode == 0x21 then
      if j.failed then s.loadEnds c j stFabricError rsnDgFabric {}
      else ({ s with key := { s.key with jobs := updJob s.key.jobs j.id (fun _ => j) } }).kdfSync
    else if j.failed then s.dgFail c 16 stFabricError rsnDgFabric
    else s.dgReady c
  else s.setDgChan c { x with next := updJob x.next j.id (fun _ => j) }

/-- A channel's budget is spent and another channel waits: its core switches, to the channel that was displaced from it first
(R176, R177). The KDF has no budget, and a core whose producer stalls takes no channel (R149). -/
def State.budgetExpiry (s : State) (n : Nat) : State :=
  if s.coreFit n && !s.stalling (16 + n) && (s.dcore n).chan.isSome && (s.dcore n).chan != some 255 then
    if !(s.dcore n).after.isEmpty then (s.handBack n false).resumeOn n
    else
      match s.dgLongest with
      | some c => (((s.handBack n false).takeCore c n).perfCount 40 1)
      | none => s
  else s

/-- A HELD channel's hold has timed out (R174). -/
def State.holdTimeout (s : State) (c : Nat) : State :=
  if (s.dgChan c).st == .held && s.fld DG_HOLD.TMO 0 != 0 then
    ((s.dgEnd c).bump DG_HOLD_CNT.EXPIRED 0 1).raiseEvent (pg .digest) 0
  else s

/-- HELD channels that satisfy p are zeroized. -/
def State.dropHeld (s : State) (p : DgChan → Bool) : State :=
  { s with digest := { s.digest with chans := s.digest.chans.filter (fun q => !(q.2.st == .held && p q.2)) } }

/-! ## Checks and errors (R183, R187) -/

/-- The check of a core ends. Answers the level of the fence that follows: 3 the core, 4 the engine, 0 none. -/
def State.dcoreCheckEnd (s : State) (n : Nat) (pass : Bool) : Nat × State :=
  let x := s.dcore n
  if x.check == .idle || !s.isOn (corePg n) then (0, s)
  else
    let s := (s.putFlag DCORE_CHECK.DONE n true).putFlag DCORE_CHECK.PASS n pass
    let s := (s.putFlag DCORE_CHECK.RUN n false).raiseEvent (corePg n) 1
    let s := s.setDcore n { x with check := .idle, erring := false, ownRerun := none }
    if pass then
      let s := if x.erring then s.transient (corePg n) else s
      match x.ownRerun with
      | some c => (0, (s.takeCore c n).raiseEvent (corePg n) 0)
      | none => (0, s.kdfSync.coresGo)
    else
      let s :=
        if s.flag DCORE_ERR.VALID n then s
        else (s.putFlag DCORE_ERR.VALID n true).put DCORE_ERR.CAUSE n 3
      let s := ((s.bump DCORE_ERR.COUNT n 1).raiseFault (corePg n) 9).lasting (corePg n)
      match x.ownRerun with
      | some c => (4, s.dgError 5 c)
      | none => (3, s)

/-- DCORE_CHECK.RUN: the channel is handed back and the check runs; ignored unless the core is ON (R187). -/
def State.dcoreCheckAsk (s : State) (n : Nat) : State :=
  if s.isOn (corePg n) && (s.dcore n).check == .idle then
    let s := (s.putFlag DCORE_CHECK.RUN n true).putFlag DCORE_CHECK.DONE n false
    let s := s.handBack n false
    (s.setDcore n { s.dcore n with check := .waiting }).kdfSync.takeCores 4
  else s

/-- A core stops: its channel, and those that were displaced from it, wait for another one (R176). -/
def State.coreStops (s : State) (n : Nat) : State := (s.handBack n false).setDcore n {}

/-- A core leaves ON, and the others take what waits. -/
def State.coreLeaves (s : State) (n : Nat) : State := (s.coreStops n).kdfSync.takeCores 4

/-- The request of key custody that channel 255 served ends with FENCED; an operation of its own stays due (R183). -/
def State.kdfLost (s : State) : State :=
  match s.keyHead with
  | none => s
  | some j =>
    if !s.usesKdf j then s
    else if j.elem.d.opcode = 0x40 then s.installFail j stFenced
    else if j.elem.d.opcode = 0x41 then s.keyEnd j { status := stFenced, value := s.armEpoch j.elem.d }
    else if j.elem.d.opcode = 0x23 then s.keyEnd j { status := stFenced }
    else
      match s.dgChanOf j.id with
      | some c => s.loadEnds c j stFenced rsnDgFenced {}
      | none => s

/-- An error in a channel's state: a single-bit one is corrected and counted; a double-bit one ends the channel's request with
FENCED and fences the channel, in whatever state it was, which the fault log records (R175, R183, R186, R335). -/
def State.dgStateEcc (s : State) (c : Nat) (corrected : Bool) : State :=
  let x := s.dgChan c
  if corrected then s.dgError 1 c
  else if x.st == .fenced then s
  else
    let s := (s.dgError 2 c).raiseFault (pg .digest) 8
    let s :=
      match x.job with
      | some j =>
        if dgLoad j.elem.d && j.elem.d.opcode == 0x21 && !s.digest.slotWait.any (fun k => k.id == j.id) then
          s.loadEnds c j stFenced rsnDgFenced {}
        else s.dgFail c (16 + x.core.getD 0) stFenced rsnDgFenced
      | none => s.dgEnd c
    let s := (s.setDgChan c { st := .fenced }).logFence 3 0x08 (PageKind.code .digest) c
    (if c = 255 ∧ x.st = .busy then s.kdfLost else s).slotsGo.takeCores 4

/-- An error in the slot store: a single-bit one is corrected and counted; a double-bit one in a LOADED slot empties it
(R183, R186). -/
def State.slotEcc (s : State) (n : Nat) (corrected : Bool) : State :=
  if corrected then s.dgError 3 n
  else if (s.kdSlot n).st == .loaded then ((s.dgError 4 n).raiseFault (pg .digest) 8).setKdSlot n {}
  else s

/-! ## Clearing (R184) -/

/-- Every request in the digest engine completes with a status, and every channel but the FENCED ones is zeroized. -/
def State.digestAbort (s : State) (status reason : Nat) : State :=
  let js := s.digest.chans.flatMap (fun (p : Nat × DgChan) => (p.2.job.toList ++ p.2.next).map (fun j => (p.1, p.2.core, j)))
  let loads := (js.filter (fun p => dgLoad p.2.2.elem.d)).map (fun p => p.2.2)
  let s := { s with
    digest := { s.digest with
      chans := s.digest.chans.filter (fun (p : Nat × DgChan) => p.2.st == DgSt.fenced)
      cores := Tbl.mapVals {} (fun (x : DCore) => { x with chan := none, ownRerun := none, after := [] }) s.digest.cores
      slotWait := [], bnWait := [] }
    key := { s.key with jobs := s.key.jobs.filter (fun k => !loads.any (fun j => j.id == k.id)) } }
  let s := { s with digest := { s.digest with slots := s.digest.slots.filter (fun (p : Nat × KdSlot) => p.2.st != KdSt.loading) } }
  js.foldl (fun s p => s.endJob (16 + p.2.1.getD 0) p.2.2 { status := status, reason := reason, value := p.1 }) s

/-- Channels, slots and RESULT slots are zeroized. -/
def State.digestWipe (s : State) : State :=
  { s with digest := { s.digest with chans := [], slots := [], results := [], slotWait := [], bnWait := [] } }

/-- No channel is BUSY. -/
def State.digestIdle (s : State) : Bool := s.digest.chans.all (fun (p : Nat × DgChan) => p.2.st != DgSt.busy)

/-! ## The slot image (R185) -/

/-- The 136 bytes of a slot in the image. DESIGN CHOICE (log 125): the state code of a LOADED slot is 2, and an entry of any other
slot is all zero. -/
def State.slotEntry (s : State) (n : Nat) : Bytes :=
  let x := s.kdSlot n
  if x.st = .loaded then
    bvBytes (x.bytes ^^^ s.slotKey n) 128 ++ leBytes (x.owner + x.alg * 2 ^ 8 + 2 * 2 ^ 16 + x.klen * 2 ^ 24) 8
  else zeros 136

/-- The IV of the image of a generation. -/
def imageIv (g : Nat) : Bytes := zeros 8 ++ beBytes g 4

/-- The compressions that derive SLOTWRAP (R237, R238). -/
def slotWrapCost : Nat := kdfBlocks (labelSlotWrap.length + 1 + 16) 32

/-- The slot image is sealed and its write begins: G counts first (R185). -/
def State.saveImage (s : State) (root : Bytes) : State :=
  let g := (s.digest.gen + 1) % 2 ^ 32
  let s := { s with digest := { s.digest with gen := g } }
  let aad := leBytes g 8 ++ zeros 8
  let (c, t) := gcmSeal (s.slotWrap root) (imageIv g) aad ((List.range 4096).flatMap (fun n => s.slotEntry n))
  (s.startWrite .slotSave (ownAttr true true false) (4096 * s.fld DG_SAVE_BASE.BASE 0) (aad ++ c ++ t) none).2

/-- The slot that 136 bytes of the image hold, masked for its bank. DESIGN CHOICE (log 125): a state code other than 2 gives an EMPTY
slot. -/
def State.slotOfEntry (s : State) (n : Nat) (b : Bytes) : KdSlot :=
  let tag := numAt b 128 8
  if bitsOf tag 17 16 = 2 then
    s.maskSlot n { st := .loaded, owner := bitsOf tag 5 0, alg := bitsOf tag 15 8, klen := bitsOf tag 31 24
                   bytes := bytesBv 1024 (slice b 0 128) }
  else {}

/-- The image that was read is opened: a wrong tag or G leaves every slot EMPTY and sets RESTORE_FAIL (R185). -/
def State.restoreImage (s : State) (root b : Bytes) : State :=
  let aad := slice b 0 16
  let g := numAt b 0 8
  let ok := s.digest.image == some g && g == s.digest.gen
  let plain := if ok then gcmOpen (s.slotWrap root) (imageIv g) aad (slice b 16 557056) (slice b 557072 16) else none
  let s := { s with digest := { s.digest with image := none, slots := [] } }
  match plain with
  | some p => (List.range 4096).foldl (fun s n => s.setKdSlot n (s.slotOfEntry n (slice p (136 * n) 136))) s
  | none => (s.putFlag DG_SAVE_STS.RESTORE_FAIL 0 true).raiseFault (pg .digest) 9

end Sys2Proof.Machine
end

