-- ==== Sys2Proof/Machine/Ecc.lean ====
section
/-! DEFINITION. The integer arithmetic of the big-number engine: modular exponentiation, RSA by CRT, the NIST curves of FIPS
186-5, X25519 (RFC 7748) and Ed25519 (RFC 8032). The spec names these standards (R193, R196); their text is PRESUMED. -/

namespace Sys2Proof.Machine

/-- b to the power e modulo m. -/
def modPow (m b e : Nat) : Nat :=
  (List.range (e.log2 + 1)).foldr (fun i a => let a := a * a % m; if bitAt e i then a * b % m else a) (1 % m)

/-- The inverse of a modulo a prime. -/
def primeInv (p a : Nat) : Nat := modPow p a (p - 2)

/-- a − b modulo p, for b below p. -/
def modSub (p a b : Nat) : Nat := (a + (p - b % p)) % p

/-! ## RSA -/

/-- The numbers of an RSA private key (R194). -/
structure RsaKey where
  n : Nat
  e : Nat
  p : Nat
  q : Nat
  dp : Nat
  dq : Nat
  qinv : Nat

/-- An RSA private key of modulus length l from its bytes (R194). -/
def rsaKey (l : Nat) (b : Bytes) : RsaKey :=
  let h := l / 2
  let at_ (o n : Nat) := beNat (slice b o n)
  { n := at_ 0 l, e := at_ l 8, p := at_ (l + 8) h, q := at_ (l + 8 + h) h, dp := at_ (l + 8 + 2 * h) h,
    dq := at_ (l + 8 + 3 * h) h, qinv := at_ (l + 8 + 4 * h) h }

/-- The check of an RSA private key at LOAD (R194). -/
def rsaKeyOk (l : Nat) (k : RsaKey) : Bool :=
  l % 2 == 0 && decide (64 ≤ l) && decide (l ≤ 1024) && k.n == k.p * k.q && k.n % 2 == 1 && k.e % 2 == 1 && decide (3 ≤ k.e)

/-- C^d mod n by CRT. -/
def rsaPrivate (k : RsaKey) (c : Nat) : Nat :=
  let m1 := modPow k.p (c % k.p) k.dp
  let m2 := modPow k.q (c % k.q) k.dq
  m2 + k.q * (k.qinv * modSub k.p m1 m2 % k.p)

/-! ## The NIST curves -/

/-- A curve y² = x³ − 3x + b over the integers modulo p, with a base point of order n. -/
structure Curve where
  /-- bytes of a field element and of a scalar -/
  len : Nat
  p : Nat
  b : Nat
  n : Nat
  gx : Nat
  gy : Nat

/-- A point, none the identity. -/
abbrev Pt := Option (Nat × Nat)

def p256 : Curve :=
  { len := 32
    p := 0xffffffff00000001000000000000000000000000ffffffffffffffffffffffff
    b := 0x5ac635d8aa3a93e7b3ebbd55769886bc651d06b0cc53b0f63bce3c3e27d2604b
    n := 0xffffffff00000000ffffffffffffffffbce6faada7179e84f3b9cac2fc632551
    gx := 0x6b17d1f2e12c4247f8bce6e563a440f277037d812deb33a0f4a13945d898c296
    gy := 0x4fe342e2fe1a7f9b8ee7eb4a7c0f9e162bce33576b315ececbb6406837bf51f5 }

def p384 : Curve :=
  { len := 48
    p := 0xfffffffffffffffffffffffffffffffffffffffffffffffffffffffffffffffeffffffff0000000000000000ffffffff
    b := 0xb3312fa7e23ee7e4988e056be3f82d19181d9c6efe8141120314088f5013875ac656398d8a2ed19d2a85c8edd3ec2aef
    n := 0xffffffffffffffffffffffffffffffffffffffffffffffffc7634d81f4372ddf581a0db248b0a77aecec196accc52973
    gx := 0xaa87ca22be8b05378eb1c71ef320ad746e1d3b628ba79b9859f741e082542a385502f25dbf55296c3a545e3872760ab7
    gy := 0x3617de4a96262c6f5d9e98bf9292dc29f8f41dbd289a147ce9da3113b5f0b8c00a60b1ce1d7e819d7a431d7c90ea0e5f }

def p521 : Curve :=
  { len := 66
    p := 2 ^ 521 - 1
    b := 0x51953eb9618e1c9a1f929a21a0b68540eea2da725b99b315f3b8b489918ef109e156193951ec7e937b1652c0bd3bb1bf073573df883d2c34f1ef451fd46b503f00
    n := 0x1fffffffffffffffffffffffffffffffffffffffffffffffffffffffffffffffffa51868783bf2f966b7fcc0148f709a5d03bb5c9b8899c47aebb6fb71e91386409
    gx := 0xc6858e06b70404e9cd9e3ecb662395b4429c648139053fb521f828af606b4d3dbaa14b5e77efe75928fe1dc127a2ffa8de3348b3c1856a429bf97e7e31c2e5bd66
    gy := 0x11839296a789a3bc0045c8a5fb42c7d1bd998f54449579b446817afbd17273e662c97ee72995ef42640c550b9013fad0761353c7086a272c24088be94769fd16650 }

/-- The curve of a PARAM of R192. -/
def curveOf (param : Nat) : Curve := if param = 1 then p256 else if param = 2 then p384 else p521

/-- A point lies on the curve. -/
def Curve.on (c : Curve) (x y : Nat) : Bool :=
  decide (x < c.p) && decide (y < c.p) && y * y % c.p == (x * x * x + modSub c.p c.b (3 * x)) % c.p

/-- The sum of two points. -/
def Curve.add (c : Curve) (u v : Pt) : Pt :=
  match u, v with
  | none, _ => v
  | _, none => u
  | some (x1, y1), some (x2, y2) =>
    if x1 = x2 ∧ (y1 + y2) % c.p = 0 then none
    else
      let l :=
        if x1 = x2 then (3 * x1 * x1 + (c.p - 3)) % c.p * primeInv c.p (2 * y1 % c.p) % c.p
        else modSub c.p y2 y1 * primeInv c.p (modSub c.p x2 x1) % c.p
      let x3 := modSub c.p (modSub c.p (l * l) x1) x2
      some (x3, modSub c.p (l * modSub c.p x1 x3) y1)

/-- k times a point. -/
def Curve.mul (c : Curve) (k : Nat) (u : Pt) : Pt :=
  (List.range (k.log2 + 1)).foldr (fun i a => let a := c.add a a; if bitAt k i then c.add a u else a) none

/-- The base point. -/
def Curve.base (c : Curve) : Pt := some (c.gx, c.gy)

/-- The encoding 0x04 ‖ X ‖ Y of a point (R193); the identity has none and is not written. -/
def Curve.encode (c : Curve) (u : Pt) : Bytes :=
  match u with
  | none => []
  | some (x, y) => 4 :: (beBytes x c.len ++ beBytes y c.len)

/-- A point from its encoding, checked as R196 states for ECDH. -/
def Curve.decode (c : Curve) (b : Bytes) : Pt :=
  let x := beNat (slice b 1 c.len)
  let y := beNat (slice b (1 + c.len) c.len)
  if b.length == 1 + 2 * c.len && b.head? == some 4 && c.on x y then some (x, y) else none

/-- The number of a hash, cut to the order's bit length (R196). -/
def Curve.hashNum (c : Curve) (h : Bytes) : Nat := beNat h / 2 ^ (8 * h.length - (c.n.log2 + 1))

/-- An ECDSA signature with the nonce k, none where r or s is zero. -/
def ecdsaWith (c : Curve) (d z k : Nat) : Option Bytes :=
  match c.mul k c.base with
  | none => none
  | some (x, _) =>
    let r := x % c.n
    let s := primeInv c.n k * ((z + r * d) % c.n) % c.n
    if r = 0 ∨ s = 0 then none else some (beBytes r c.len ++ beBytes s c.len)

/-- ECDSA verification (FIPS 186-5). -/
def ecdsaVerify (c : Curve) (q : Pt) (r s z : Nat) : Bool :=
  if r = 0 ∨ c.n ≤ r ∨ s = 0 ∨ c.n ≤ s then false
  else
    let w := primeInv c.n s
    match c.add (c.mul (z * w % c.n) c.base) (c.mul (r * w % c.n) q) with
    | none => false
    | some (x, _) => x % c.n == r

/-! ## X25519 -/

/-- The prime 2^255 − 19. -/
def p25519 : Nat := 2 ^ 255 - 19

/-- The scalar of X25519 and Ed25519, clamped (RFC 7748). -/
def clamp (b : Bytes) : Nat :=
  let k := leNat b
  k % 2 ^ 254 - k % 8 + 2 ^ 254

/-- One step of the ladder, with the bit swapped in. -/
def ladderStep (x1 : Nat) (bit : Bool) (v : Nat × Nat × Nat × Nat) : Nat × Nat × Nat × Nat :=
  let p := p25519
  let (x2, z2, x3, z3) := if bit then (v.2.2.1, v.2.2.2, v.1, v.2.1) else v
  let a := (x2 + z2) % p
  let b := modSub p x2 z2
  let c := (x3 + z3) % p
  let d := modSub p x3 z3
  let aa := a * a % p
  let bb := b * b % p
  let e := modSub p aa bb
  let da := d * a % p
  let cb := c * b % p
  let s := (da + cb) % p
  let t := modSub p da cb
  let r := (aa * bb % p, e * ((aa + 121665 * e) % p) % p, s * s % p, x1 * (t * t % p) % p)
  if bit then (r.2.2.1, r.2.2.2, r.1, r.2.1) else r

/-- The X25519 function. -/
def x25519 (k u : Bytes) : Bytes :=
  let n := clamp k
  let x1 := leNat u % 2 ^ 255 % p25519
  let v := (List.range 255).foldr (fun i v => ladderStep x1 (bitAt n i) v) (1, 0, x1, 1)
  leBytes (v.1 * primeInv p25519 v.2.1 % p25519) 32

/-- The u coordinate of the base point. -/
def x25519Base : Bytes := leBytes 9 32

/-! ## Ed25519 -/

def edD : Nat := (p25519 - 121665) * primeInv p25519 121666 % p25519
def edL : Nat := 2 ^ 252 + 27742317777372353535851937790883648493

/-- The sum of two points of the twisted Edwards curve, complete. -/
def edAdd (u v : Nat × Nat) : Nat × Nat :=
  let p := p25519
  let t := edD * (u.1 * v.1 % p) % p * (u.2 * v.2 % p) % p
  ((u.1 * v.2 + u.2 * v.1) % p * primeInv p ((1 + t) % p) % p,
    (u.2 * v.2 + u.1 * v.1) % p * primeInv p (modSub p 1 t) % p)

/-- k times a point. -/
def edMul (k : Nat) (u : Nat × Nat) : Nat × Nat :=
  (List.range (k.log2 + 1)).foldr (fun i a => let a := edAdd a a; if bitAt k i then edAdd a u else a) (0, 1)

/-- The x coordinate of a y with a given sign bit. -/
def edX (y : Nat) (sign : Bool) : Option Nat :=
  let p := p25519
  let a := modSub p (y * y) 1 * primeInv p ((edD * (y * y % p) + 1) % p) % p
  let x := modPow p a ((p + 3) / 8)
  let x := if x * x % p = a then x else x * modPow p 2 ((p - 1) / 4) % p
  if x * x % p ≠ a then none
  else if x = 0 ∧ sign then none
  else some (if (x % 2 == 1) == sign then x else (p - x) % p)

/-- The base point. -/
def edBase : Nat × Nat :=
  let y := 4 * primeInv p25519 5 % p25519
  (((edX y false).getD 0), y)

/-- The encoding of a point. -/
def edEncode (u : Nat × Nat) : Bytes := leBytes (u.2 + u.1 % 2 * 2 ^ 255) 32

/-- A point from its canonical encoding. -/
def edDecode (b : Bytes) : Option (Nat × Nat) :=
  let v := leNat b
  let y := v % 2 ^ 255
  if p25519 ≤ y then none else (edX y (bitAt v 255)).map (fun x => (x, y))

/-- The public key of a seed. -/
def edPublic (seed : Bytes) : Bytes := edEncode (edMul (clamp ((sha512 seed).take 32)) edBase)

/-- The signature of a message. -/
def edSign (seed m m' : Bytes) : Bytes :=
  let h := sha512 seed
  let a := clamp (h.take 32)
  let pub := edEncode (edMul a edBase)
  let r := leNat (sha512 (h.drop 32 ++ m)) % edL
  let rb := edEncode (edMul r edBase)
  let k := leNat (sha512 (rb ++ pub ++ m')) % edL
  rb ++ leBytes ((r + k * a) % edL) 32

/-- Cofactorless verification, with S below the group order and A and R canonical (R196). -/
def edVerify (pub sig m : Bytes) : Bool :=
  let rb := sig.take 32
  let s := leNat (sig.drop 32)
  match edDecode pub, edDecode rb with
  | some a, some r =>
    decide (s < edL) && edMul s edBase == edAdd r (edMul (leNat (sha512 (rb ++ pub ++ m)) % edL) a)
  | _, _ => false

end Sys2Proof.Machine
end

