-- ==== Sys2Proof/Machine/Lattice.lean ====
section
/-! DEFINITION. The arithmetic that ML-KEM and ML-DSA share: transforms, coefficient packing and sampling (R188, R193). FIPS
203 and FIPS 204 are named by the spec; their text is PRESUMED. -/

namespace Sys2Proof.Machine

/-- A polynomial of 256 coefficients, each below the modulus. -/
abbrev Poly := List Nat

/-- The bits of a number below 2^n in reverse order. -/
def bitRev : Nat → Nat → Nat
  | 0, _ => 0
  | n + 1, k => k % 2 * 2 ^ n + bitRev n (k / 2)

/-- b to the power e modulo q. -/
def powQ (q b e : Nat) : Nat :=
  (List.range (e.log2 + 1)).foldr (fun i a => let a := a * a % q; if bitAt e i then a * b % q else a) (1 % q)

def polyAdd (q : Nat) (a b : Poly) : Poly := List.zipWith (fun x y => (x + y) % q) a b
def polySub (q : Nat) (a b : Poly) : Poly := List.zipWith (fun x y => (x + (q - y % q)) % q) a b

/-- The transform: d levels, from the node k of its tree of roots z. -/
def nttFrom (q : Nat) (z : Nat → Nat) : Nat → Nat → Poly → Poly
  | 0, _, f => f
  | d + 1, k, f =>
    let m := f.length / 2
    let lo := f.take m
    let hi := (f.drop m).map (fun x => z k * x % q)
    nttFrom q z d (2 * k) (polyAdd q lo hi) ++ nttFrom q z d (2 * k + 1) (polySub q lo hi)

/-- The inverse transform. -/
def inttFrom (q : Nat) (z : Nat → Nat) : Nat → Nat → Poly → Poly
  | 0, _, f => f
  | d + 1, k, f =>
    let m := f.length / 2
    let a := inttFrom q z d (2 * k) (f.take m)
    let b := inttFrom q z d (2 * k + 1) (f.drop m)
    let half := (q + 1) / 2
    let w := half * powQ q (z k) (q - 2) % q
    (polyAdd q a b).map (fun x => half * x % q) ++ (polySub q a b).map (fun x => w * x % q)

/-- The bits of a string, least significant first in each byte. -/
def bitsOfBytes (b : Bytes) : List Bool := b.flatMap (fun x => (List.range 8).map (fun i => bitAt x.toNat i))

/-- A string of n-bit numbers packed least significant bit first. -/
def packBits (n : Nat) (l : List Nat) : Bytes :=
  leBytes (l.foldr (fun x a => x % 2 ^ n + 2 ^ n * a) 0) ((n * l.length + 7) / 8)

/-- 256 numbers of n bits each from a string. -/
def unpackBits (n : Nat) (b : Bytes) : List Nat :=
  let v := leNat b
  (List.range 256).map (fun i => v / 2 ^ (n * i) % 2 ^ n)

/-- The strings of n bytes that a string is made of. -/
def chunks (n k : Nat) (b : Bytes) : List Bytes := (List.range k).map (fun i => slice b (n * i) n)

/-- The three-byte groups of a string. -/
def triples : Bytes → List (Nat × Nat × Nat)
  | a :: b :: c :: t => (a.toNat, b.toNat, c.toNat) :: triples t
  | _ => []

/-- The first 256 of a list of candidates. -/
def first256 (l : List Nat) : Poly := l.take 256 ++ List.replicate (256 - l.length) 0

end Sys2Proof.Machine
end

