-- ==== Sys2Proof/Machine/Mldsa.lean ====
section
/-! DEFINITION. ML-DSA (FIPS 204), in the three parameter sets of R192. -/

namespace Sys2Proof.Machine

/-- A parameter set of ML-DSA. -/
structure DsaSet where
  tau : Nat
  lambda : Nat
  /-- gamma1 is 2 to this power -/
  g1 : Nat
  gamma2 : Nat
  k : Nat
  l : Nat
  eta : Nat
  beta : Nat
  omega : Nat

def dsaQ : Nat := 8380417

/-- The parameter set of a PARAM of R192. -/
def dsaSet (param : Nat) : DsaSet :=
  if param = 0x21 then ⟨39, 128, 17, (dsaQ - 1) / 88, 4, 4, 2, 78, 80⟩
  else if param = 0x22 then ⟨49, 192, 19, (dsaQ - 1) / 32, 6, 5, 4, 196, 55⟩
  else ⟨60, 256, 19, (dsaQ - 1) / 32, 8, 7, 2, 120, 75⟩

def dsaZeta (k : Nat) : Nat := powQ dsaQ 1753 (bitRev 8 k)
def dsaNtt (f : Poly) : Poly := nttFrom dsaQ dsaZeta 8 1 f
def dsaIntt (f : Poly) : Poly := inttFrom dsaQ dsaZeta 8 1 f
def dsaMul (a b : Poly) : Poly := List.zipWith (fun x y => x * y % dsaQ) a b
def dsaDot (u v : List Poly) : Poly := (List.zipWith dsaMul u v).foldl (polyAdd dsaQ) (List.replicate 256 0)

/-- The distance of a coefficient from zero modulo q. -/
def dsaAbs (x : Nat) : Nat := min x (dsaQ - x)

/-- Every coefficient of a vector lies nearer to zero than a bound. -/
def dsaShort (v : List Poly) (bound : Nat) : Bool := v.all (fun f => f.all (fun x => decide (dsaAbs x < bound)))

/-- A uniform transform from a seed (RejNTTPoly). -/
def dsaUniform (seed : Bytes) : Poly :=
  first256 ((triples (shake128 1344 seed)).filterMap (fun t =>
    let z := t.1 + 256 * t.2.1 + 65536 * (t.2.2 % 128)
    if z < dsaQ then some z else none))

/-- A polynomial with coefficients of at most eta from a seed (RejBoundedPoly). -/
def dsaBounded (eta : Nat) (seed : Bytes) : Poly :=
  first256 ((shake256 1088 seed).flatMap (fun b =>
    [b.toNat % 16, b.toNat / 16].filterMap (fun x =>
      if eta = 2 then (if x < 15 then some ((dsaQ + 2 - x % 5) % dsaQ) else none)
      else if x < 9 then some ((dsaQ + 4 - x) % dsaQ) else none)))

/-- The matrix (ExpandA), by rows. -/
def dsaMatrix (p : DsaSet) (rho : Bytes) : List (List Poly) :=
  (List.range p.k).map (fun r => (List.range p.l).map (fun c => dsaUniform (rho ++ leBytes c 1 ++ leBytes r 1)))

/-- The matrix times a vector of transforms, back from the transform. -/
def dsaApply (a : List (List Poly)) (v : List Poly) : List Poly := a.map (fun row => dsaIntt (dsaDot row v))

def vecAdd (u v : List Poly) : List Poly := List.zipWith (polyAdd dsaQ) u v
def vecSub (u v : List Poly) : List Poly := List.zipWith (polySub dsaQ) u v

/-- Power2Round: the high and the low part of a coefficient. -/
def dsaPower2 (x : Nat) : Nat × Nat :=
  let lo := x % 2 ^ 13
  if 2 ^ 12 < lo then (x / 2 ^ 13 + 1, (dsaQ + lo - 2 ^ 13) % dsaQ) else (x / 2 ^ 13, lo)

/-- Decompose: the high part, and the low part modulo q with its sign, true above zero. -/
def dsaDecompose (p : DsaSet) (x : Nat) : Nat × Nat × Bool :=
  let a := 2 * p.gamma2
  let r0 := x % a
  if p.gamma2 < r0 then
    if x + a - r0 = dsaQ - 1 then (0, (dsaQ - (a - r0) - 1) % dsaQ, false)
    else ((x + a - r0) / a, dsaQ - (a - r0), false)
  else if x - r0 = dsaQ - 1 then (0, (dsaQ + r0 - 1) % dsaQ, decide (1 < r0))
  else (x / a, r0, decide (0 < r0))

def dsaHigh (p : DsaSet) (x : Nat) : Nat := (dsaDecompose p x).1
def dsaLow (p : DsaSet) (x : Nat) : Nat := (dsaDecompose p x).2.1

/-- Signed coefficients b − w packed in n bits (BitPack). -/
def dsaPack (n b : Nat) (f : Poly) : Bytes := packBits n (f.map (fun x => (b + dsaQ - x) % dsaQ))
def dsaUnpack (n b : Nat) (s : Bytes) : Poly := (unpackBits n s).map (fun y => (b + dsaQ - y) % dsaQ)

def dsaEtaBits (p : DsaSet) : Nat := if p.eta = 2 then 3 else 4

/-- The encoded high bits (w1Encode). -/
def dsaW1 (p : DsaSet) (v : List Poly) : Bytes := v.flatMap (packBits (if p.gamma2 = (dsaQ - 1) / 88 then 6 else 4))

/-- pk from rho and t1, and the public value t of a private key. -/
def dsaPk (rho : Bytes) (t1 : List Poly) : Bytes := rho ++ t1.flatMap (packBits 10)
def dsaT (p : DsaSet) (rho : Bytes) (s1 s2 : List Poly) : List Poly :=
  vecAdd (dsaApply (dsaMatrix p rho) (s1.map dsaNtt)) s2

/-- The key pair of a seed: pk and sk. -/
def dsaKeyGen (p : DsaSet) (xi : Bytes) : Bytes × Bytes :=
  let h := shake256 128 (xi ++ leBytes p.k 1 ++ leBytes p.l 1)
  let rho := h.take 32
  let rho' := slice h 32 64
  let key := h.drop 96
  let s1 := (List.range p.l).map (fun r => dsaBounded p.eta (rho' ++ leBytes r 2))
  let s2 := (List.range p.k).map (fun r => dsaBounded p.eta (rho' ++ leBytes (r + p.l) 2))
  let t := dsaT p rho s1 s2
  let pk := dsaPk rho (t.map (fun f => f.map (fun x => (dsaPower2 x).1)))
  let t0 := t.map (fun f => f.map (fun x => (dsaPower2 x).2))
  (pk, rho ++ key ++ shake256 64 pk ++ (s1 ++ s2).flatMap (dsaPack (dsaEtaBits p) p.eta) ++ t0.flatMap (dsaPack 13 (2 ^ 12)))

/-- One step of SampleInBall: the bytes left and the coefficients. -/
def ballStep (signs : Nat) (tau : Nat) (v : Bytes × Poly) (i : Nat) : Bytes × Poly :=
  let rest := v.1.dropWhile (fun b => decide (i < b.toNat))
  let j := (rest.headD 0).toNat
  let c := v.2.set i (v.2.getD j 0)
  (rest.drop 1, c.set j (if bitAt signs (i + tau - 256) then dsaQ - 1 else 1))

/-- SampleInBall. -/
def dsaBall (p : DsaSet) (seed : Bytes) : Poly :=
  let s := shake256 680 seed
  ((List.range' (256 - p.tau) p.tau).foldl (ballStep (leNat (s.take 8)) p.tau) (s.drop 8, List.replicate 256 0)).2

/-- The mask of one attempt (ExpandMask). -/
def dsaMask (p : DsaSet) (rho : Bytes) (kappa : Nat) : List Poly :=
  (List.range p.l).map (fun r =>
    dsaUnpack (p.g1 + 1) (2 ^ p.g1) (shake256 (32 * (p.g1 + 1)) (rho ++ leBytes (kappa + r) 2)))

/-- HintBitPack. -/
def dsaHintPack (p : DsaSet) (h : List (List Bool)) : Bytes :=
  let ones := h.map (fun f => (List.range 256).filter (fun j => f.getD j false))
  let pos := ones.flatMap (fun l => l.map (BitVec.ofNat 8))
  pos ++ List.replicate (p.omega - pos.length) 0 ++
    (List.range p.k).map (fun i => BitVec.ofNat 8 (((ones.take (i + 1)).map (·.length)).sum))

/-- HintBitUnpack, none where the packing is not the one of HintBitPack. -/
def dsaHintUnpack (p : DsaSet) (b : Bytes) : Option (List (List Bool)) :=
  let n (i : Nat) := (b.getD i 0).toNat
  let lim (i : Nat) := if i = 0 then 0 else n (p.omega + i - 1)
  let ok := (List.range p.k).all (fun i =>
      decide (lim i ≤ lim (i + 1)) && decide (lim (i + 1) ≤ p.omega) &&
        (List.range p.omega).all (fun j => !(decide (lim i < j) && decide (j < lim (i + 1))) || decide (n (j - 1) < n j))) &&
    (List.range p.omega).all (fun j => decide (j < lim p.k) || n j == 0)
  if ok then
    some ((List.range p.k).map (fun i =>
      let set_ := (List.range p.omega).filterMap (fun j => if lim i ≤ j ∧ j < lim (i + 1) then some (n j) else none)
      (List.range 256).map (fun j => set_.contains j)))
  else none

/-- UseHint. -/
def dsaUseHint (p : DsaSet) (h : Bool) (x : Nat) : Nat :=
  let m := (dsaQ - 1) / (2 * p.gamma2)
  let (r1, _, up) := dsaDecompose p x
  if h then (if up then (r1 + 1) % m else (r1 + m - 1) % m) else r1

/-- The message representative of a message with its context. -/
def dsaMsg (ctx m : Bytes) : Bytes := 0 :: (leBytes ctx.length 1 ++ ctx ++ m)

/-- A private key taken apart: rho, K, tr, s1, s2, t0. -/
structure DsaKey where
  rho : Bytes
  key : Bytes
  tr : Bytes
  s1 : List Poly
  s2 : List Poly
  t0 : List Poly

def dsaKey (p : DsaSet) (sk : Bytes) : DsaKey :=
  let n := 32 * dsaEtaBits p
  let un (off k : Nat) := (chunks n k (sk.drop off)).map (dsaUnpack (dsaEtaBits p) p.eta)
  { rho := sk.take 32, key := slice sk 32 32, tr := slice sk 64 64, s1 := un 128 p.l, s2 := un (128 + n * p.l) p.k,
    t0 := (chunks 416 p.k (sk.drop (128 + n * (p.l + p.k)))).map (dsaUnpack 13 (2 ^ 12)) }

/-- The public key of a private key. -/
def dsaPublic (p : DsaSet) (sk : Bytes) : Bytes :=
  let k := dsaKey p sk
  dsaPk k.rho ((dsaT p k.rho k.s1 k.s2).map (fun f => f.map (fun x => (dsaPower2 x).1)))

/-- One signing attempt: the signature, none where it is rejected. -/
def dsaAttempt (p : DsaSet) (k : DsaKey) (mu rho : Bytes) (kappa : Nat) : Option Bytes :=
  let y := dsaMask p rho kappa
  let w := dsaApply (dsaMatrix p k.rho) (y.map dsaNtt)
  let ct := shake256 (p.lambda / 4) (mu ++ dsaW1 p (w.map (fun f => f.map (dsaHigh p))))
  let c := dsaNtt (dsaBall p ct)
  let times (v : List Poly) := v.map (fun f => dsaIntt (dsaMul c (dsaNtt f)))
  let z := vecAdd y (times k.s1)
  let r := vecSub w (times k.s2)
  let ct0 := times k.t0
  let h := List.zipWith (fun f g => List.zipWith (fun a b => dsaHigh p ((a + b) % dsaQ) != dsaHigh p a) f g) r ct0
  if !dsaShort z (2 ^ p.g1 - p.beta) || !dsaShort (r.map (fun f => f.map (dsaLow p))) (p.gamma2 - p.beta) then none
  else if !dsaShort ct0 p.gamma2 || decide (p.omega < (h.map (fun f => f.count true)).sum) then none
  else some (ct ++ z.flatMap (dsaPack (p.g1 + 1) (2 ^ p.g1)) ++ dsaHintPack p h)

/-- Attempts with rising counters: the first signature, and how many attempts it took. -/
def dsaLoop (p : DsaSet) (k : DsaKey) (mu rho : Bytes) : Nat → Nat → Option Bytes × Nat
  | 0, n => (none, n)
  | fuel + 1, n =>
    match dsaAttempt p k mu rho (n * p.l) with
    | some s => (some s, n + 1)
    | none => dsaLoop p k mu rho fuel (n + 1)

/-- The signature of a message under its context, with the 32 bytes rnd, and the attempts. A mask counter has 16 bits, so
the attempts end there. -/
def dsaSign (p : DsaSet) (sk ctx m rnd : Bytes) : Option Bytes × Nat :=
  let k := dsaKey p sk
  let mu := shake256 64 (k.tr ++ dsaMsg ctx m)
  dsaLoop p k mu (shake256 64 (k.key ++ rnd ++ mu)) (65536 / p.l) 0

/-- Verification. -/
def dsaVerify (p : DsaSet) (pk ctx m sig : Bytes) : Bool :=
  let rho := pk.take 32
  let t1 := (chunks 320 p.k (pk.drop 32)).map (unpackBits 10)
  let ct := sig.take (p.lambda / 4)
  let zl := 32 * (p.g1 + 1)
  let z := (chunks zl p.l (sig.drop (p.lambda / 4))).map (dsaUnpack (p.g1 + 1) (2 ^ p.g1))
  match dsaHintUnpack p (sig.drop (p.lambda / 4 + zl * p.l)) with
  | none => false
  | some h =>
    let mu := shake256 64 (shake256 64 pk ++ dsaMsg ctx m)
    let c := dsaNtt (dsaBall p ct)
    let az := (dsaMatrix p rho).map (fun row => dsaDot row (z.map dsaNtt))
    let t := t1.map (fun f => dsaMul c (dsaNtt (f.map (fun x => x * 2 ^ 13 % dsaQ))))
    let w := (List.zipWith (polySub dsaQ) az t).map dsaIntt
    let w1 := List.zipWith (fun f g => List.zipWith (dsaUseHint p) f g) h w
    dsaShort z (2 ^ p.g1 - p.beta) && shake256 (p.lambda / 4) (mu ++ dsaW1 p w1) == ct

end Sys2Proof.Machine
end

