-- ==== Sys2Proof/Machine/Mlkem.lean ====
section
/-! DEFINITION. ML-KEM (FIPS 203), in the three parameter sets of R192. -/

namespace Sys2Proof.Machine

/-- A parameter set of ML-KEM. -/
structure KemSet where
  k : Nat
  eta1 : Nat
  du : Nat
  dv : Nat

/-- The parameter set of a PARAM of R192. -/
def kemSet (param : Nat) : KemSet :=
  if param = 0x11 then ⟨2, 3, 10, 4⟩ else if param = 0x12 then ⟨3, 2, 10, 4⟩ else ⟨4, 2, 11, 5⟩

def kemQ : Nat := 3329
def kemZeta (k : Nat) : Nat := powQ kemQ 17 (bitRev 7 k)
def kemNtt (f : Poly) : Poly := nttFrom kemQ kemZeta 7 1 f
def kemIntt (f : Poly) : Poly := inttFrom kemQ kemZeta 7 1 f

/-- The product of two transforms, pair by pair from pair i. -/
def kemPairs : Nat → Poly → Poly → Poly
  | i, a0 :: a1 :: a, b0 :: b1 :: b =>
    let g := powQ kemQ 17 (2 * bitRev 7 i + 1)
    (a0 * b0 + a1 * b1 % kemQ * g) % kemQ :: (a0 * b1 + a1 * b0) % kemQ :: kemPairs (i + 1) a b
  | _, _, _ => []

/-- The inner product of two vectors of transforms. -/
def kemDot (u v : List Poly) : Poly :=
  (List.zipWith (kemPairs 0) u v).foldl (polyAdd kemQ) (List.replicate 256 0)

/-- A uniform transform from a seed (SampleNTT). -/
def kemSample (seed : Bytes) : Poly :=
  first256 ((triples (shake128 1344 seed)).flatMap (fun t =>
    let d1 := t.1 + 256 * (t.2.1 % 16)
    let d2 := t.2.1 / 16 + 16 * t.2.2
    (if d1 < kemQ then [d1] else []) ++ (if d2 < kemQ then [d2] else [])))

/-- The numbers of set bits in successive groups of n bits. -/
def bitSums (n : Nat) (b : Bytes) (count : Nat) : List Nat :=
  let v := leNat b
  (List.range count).map (fun i => countBelow n (fun j => bitAt v (n * i + j)))

/-- A centred binomial polynomial from a seed and a counter (SamplePolyCBD of PRF). -/
def kemNoise (eta : Nat) (seed : Bytes) (n : Nat) : Poly :=
  let s := bitSums eta (shake256 (64 * eta) (seed ++ leBytes n 1)) 512
  (List.range 256).map (fun i => (s.getD (2 * i) 0 + (kemQ - s.getD (2 * i + 1) 0)) % kemQ)

/-- Row i of the matrix, or of its transpose. -/
def kemRow (rho : Bytes) (k i : Nat) (transposed : Bool) : List Poly :=
  (List.range k).map (fun j =>
    kemSample (rho ++ (if transposed then leBytes i 1 ++ leBytes j 1 else leBytes j 1 ++ leBytes i 1)))

def kemCompress (d x : Nat) : Nat := (2 ^ (d + 1) * x + kemQ) / (2 * kemQ) % 2 ^ d
def kemDecompress (d y : Nat) : Nat := (kemQ * y + 2 ^ (d - 1)) / 2 ^ d

/-- The key pair of the seeds d and z: ek and dk. -/
def kemKeyGen (p : KemSet) (d z : Bytes) : Bytes × Bytes :=
  let g := sha3 64 (d ++ leBytes p.k 1)
  let rho := g.take 32
  let sigma := g.drop 32
  let s := (List.range p.k).map (fun i => kemNtt (kemNoise p.eta1 sigma i))
  let e := (List.range p.k).map (fun i => kemNtt (kemNoise p.eta1 sigma (p.k + i)))
  let t := (List.range p.k).map (fun i => polyAdd kemQ (kemDot (kemRow rho p.k i false) s) (e.getD i []))
  let ek := t.flatMap (packBits 12) ++ rho
  (ek, s.flatMap (packBits 12) ++ ek ++ sha3 32 ek ++ z)

/-- The encryption of a 32-byte message under ek with the randomness r. -/
def kemEncrypt (p : KemSet) (ek m r : Bytes) : Bytes :=
  let t := (chunks 384 p.k ek).map (unpackBits 12)
  let rho := slice ek (384 * p.k) 32
  let y := (List.range p.k).map (fun i => kemNtt (kemNoise p.eta1 r i))
  let u := (List.range p.k).map (fun i =>
    polyAdd kemQ (kemIntt (kemDot (kemRow rho p.k i true) y)) (kemNoise 2 r (p.k + i)))
  let mu := (bitsOfBytes m).map (fun b => kemDecompress 1 (b2n b))
  let v := polyAdd kemQ (polyAdd kemQ (kemIntt (kemDot t y)) (kemNoise 2 r (2 * p.k))) mu
  u.flatMap (fun f => packBits p.du (f.map (kemCompress p.du))) ++ packBits p.dv (v.map (kemCompress p.dv))

/-- The message that a ciphertext holds under the key part of dk. -/
def kemDecrypt (p : KemSet) (sk c : Bytes) : Bytes :=
  let u := (chunks (32 * p.du) p.k c).map (fun b => (unpackBits p.du b).map (kemDecompress p.du))
  let v := (unpackBits p.dv (slice c (32 * p.du * p.k) (32 * p.dv))).map (kemDecompress p.dv)
  let s := (chunks 384 p.k sk).map (unpackBits 12)
  let w := polySub kemQ v (kemIntt (kemDot s (u.map kemNtt)))
  packBits 1 (w.map (kemCompress 1))

/-- The shared key and the ciphertext of a message m under ek. -/
def kemEncaps (p : KemSet) (ek m : Bytes) : Bytes × Bytes :=
  let g := sha3 64 (m ++ sha3 32 ek)
  (g.take 32, kemEncrypt p ek m (g.drop 32))

/-- The shared key of a ciphertext under dk, with implicit rejection. -/
def kemDecaps (p : KemSet) (dk c : Bytes) : Bytes :=
  let ek := slice dk (384 * p.k) (384 * p.k + 32)
  let h := slice dk (768 * p.k + 32) 32
  let z := slice dk (768 * p.k + 64) 32
  let m := kemDecrypt p dk c
  let g := sha3 64 (m ++ h)
  if kemEncrypt p ek m (g.drop 32) = c then g.take 32 else shake256 32 (z ++ c)

/-- The encapsulation key check. -/
def kemEkOk (p : KemSet) (ek : Bytes) : Bool :=
  (chunks 384 p.k ek).all (fun b => (unpackBits 12 b).all (fun x => decide (x < kemQ)))

/-- The decapsulation key check. -/
def kemDkOk (p : KemSet) (dk : Bytes) : Bool :=
  sha3 32 (slice dk (384 * p.k) (384 * p.k + 32)) == slice dk (768 * p.k + 32) 32

end Sys2Proof.Machine
end

