-- ==== Sys2Proof/Machine/Bignum.lean ====
section
/-! DEFINITION. The big-number engine: channels, requests, units, held keys and their faults (R188–R211,
09_big_number_engine.md). -/

namespace Sys2Proof.Machine

/-! ## Channels and units -/

def State.bnChan (s : State) (c : Nat) : BnChan := Tbl.get {} s.bignum.chans c
def State.setBnChan (s : State) (c : Nat) (x : BnChan) : State :=
  { s with bignum := { s.bignum with chans := Tbl.set {} s.bignum.chans c x } }
def State.updBnChan (s : State) (c : Nat) (f : BnChan → BnChan) : State := s.setBnChan c (f (s.bnChan c))

def State.bnUnit (s : State) (u : BnUnit) : BnUnitSt := match u with | .ia => s.bignum.ia | .ntt => s.bignum.ntt
def State.setBnUnit (s : State) (u : BnUnit) (x : BnUnitSt) : State :=
  match u with
  | .ia => { s with bignum := { s.bignum with ia := x } }
  | .ntt => { s with bignum := { s.bignum with ntt := x } }

/-- The unit an opcode uses (R188). -/
def bnUnitOf (opcode : Nat) : BnUnit := if 0x38 ≤ opcode then .ntt else .ia

/-- A big-number opcode (R408). -/
def bnOpcode (op : Nat) : Bool := decide (0x30 ≤ op) && decide (op ≤ 0x3C) && op != 0x37

def bnAction (d : Desc) : Nat := bitsOf d.aux1 10 8
def bnParam (d : Desc) : Nat := bitsOf d.aux1 7 0

/-- The request that a channel runs. -/
def BnChan.head (x : BnChan) : Option Job := x.queue.head?

/-- The channels with their numbers, lowest first. -/
def State.bnList (s : State) : List (Nat × BnChan) := s.bignum.chans

/-- The administrator has assigned the channel to a function (R189). -/
def State.bnOwned (s : State) (c f : Nat) : Bool := s.flag BN_CHAN_CFG.VALID c && s.fld BN_CHAN_CFG.FUNC c == f

/-! ## Requests: shapes and refusals (R192–R195) -/

/-- The actions that an opcode accepts (R192). -/
def bnActions (op : Nat) : List Nat :=
  if op = 0x30 then [0, 1, 2, 4]
  else if op = 0x31 ∨ op = 0x32 ∨ op = 0x34 ∨ op = 0x35 ∨ op = 0x3B then [1, 2, 3, 4]
  else if op = 0x38 then [3]
  else if op = 0x3A then [1, 2, 4]
  else [0]

/-- The parameter sets that an opcode accepts (R192). -/
def bnParams (op : Nat) : List Nat :=
  if op = 0x30 then [0x30]
  else if op = 0x31 ∨ op = 0x32 ∨ op = 0x33 then [1, 2, 3]
  else if op = 0x34 then [4]
  else if op = 0x35 ∨ op = 0x36 then [5]
  else if op = 0x3B ∨ op = 0x3C then [0x21, 0x22, 0x23]
  else [0x11, 0x12, 0x13]

def kemEkLen (p : Nat) : Nat := 384 * (kemSet p).k + 32
def kemCtLen (p : Nat) : Nat := 32 * ((kemSet p).du * (kemSet p).k + (kemSet p).dv)
def dsaPkLen (p : Nat) : Nat := 32 + 320 * (dsaSet p).k
def dsaSigLen (p : Nat) : Nat :=
  let x := dsaSet p
  x.lambda / 4 + 32 * (x.g1 + 1) * x.l + x.omega + x.k

/-- The bytes of a private key (R194), for RSA with the modulus length l. -/
def bnKeyLen (op param l : Nat) : Nat :=
  if op = 0x30 then 7 * l / 2 + 8
  else if param ≤ 3 then (curveOf param).len
  else if param ≤ 5 then 32
  else if param < 0x20 then 768 * (kemSet param).k + 96
  else
    let x := dsaSet param
    128 + 32 * ((x.k + x.l) * dsaEtaBits x + 13 * x.k)

/-- The length of the output to DST or to the chain buffer, 0 where there is none (R193). -/
def bnOutLen (d : Desc) : Nat :=
  let op := d.opcode
  let p := bnParam d
  let n := (curveOf p).len
  match bnAction d with
  | 2 | 4 => 0
  | 3 =>
    if op = 0x31 ∨ op = 0x32 then 2 * n + 1
    else if op = 0x38 then kemEkLen p
    else if op = 0x3B then dsaPkLen p
    else 32
  | _ =>
    if op = 0x30 then d.auxLen
    else if op = 0x31 then n
    else if op = 0x32 then 2 * n
    else if op = 0x34 ∨ op = 0x39 ∨ op = 0x3A then 32
    else if op = 0x35 then 64
    else if op = 0x3B then dsaSigLen p
    else 0

/-- SRC_LEN and AUX_LEN are as R193 and R194 state. -/
def bnLenOk (d : Desc) : Bool :=
  let op := d.opcode
  let p := bnParam d
  let n := (curveOf p).len
  let a := d.auxLen
  let l := d.srcLen
  let k := bnKeyLen op p a
  match bnAction d with
  | 2 => (op == 0x30 || a == 0) && l == 8 + 8 * ((k + 7) / 8)
  | 4 => a == 0 && l == 0
  | 3 => a == 0 && l == 0
  | _ =>
    if op = 0x30 then
      if bnAction d = 0 then decide (1 ≤ a) && decide (a ≤ 1024) && decide (2 * a + 1 ≤ l) && decide (l ≤ 3 * a) else l == a
    else if op = 0x31 then a == 0 && l == 2 * n + 1
    else if op = 0x32 then a == 0 && decide (1 ≤ l) && decide (l ≤ 64)
    else if op = 0x33 then decide (1 ≤ a) && decide (a ≤ 64) && l == 4 * n + 1 + a
    else if op = 0x34 then a == 0 && l == 32
    else if op = 0x35 then a == 0
    else if op = 0x36 then a == 0 && decide (96 ≤ l)
    else if op = 0x39 then a == 0 && l == kemEkLen p
    else if op = 0x3A then a == 0 && l == kemCtLen p
    else if op = 0x3B then decide (a ≤ 255) && decide (a ≤ l)
    else decide (a ≤ 255) && decide (dsaPkLen p + dsaSigLen p + a ≤ l)

/-- The action puts a secret into the chain's entry (R195 row 3, R206). -/
def bnSecretOk (d : Desc) : Bool :=
  if d.opcode = 0x39 then bnAction d == 0
  else (d.opcode == 0x31 || d.opcode == 0x34 || d.opcode == 0x3A) && bnAction d == 1 && !(d.opcode == 0x31 && bnParam d == 3)

/-- R193 names DST for a request: it has an output. -/
def bnNamesDst (d : Desc) : Bool :=
  bnAction d != 2 && bnAction d != 4 && d.opcode != 0x33 && d.opcode != 0x36 && d.opcode != 0x3C

/-- A field that R193 leaves unnamed is not zero. DST belongs to an output that goes there. -/
def bnUnnamed (d : Desc) : Bool :=
  (d.opcode != 0x39 && d.aux0 != 0) || ((!bnNamesDst d || d.secretHandoff) && (d.dst != 0 || d.dstLen != 0))

/-- The first row of R195 that applies to a request at a channel: status and reason. -/
def State.bnRefusal (s : State) (c : Nat) (e : Elem) : Option (Nat × Nat) :=
  let d := e.d
  let x := s.bnChan c
  if x.st = .fenced ∨ (s.bnUnit (bnUnitOf d.opcode)).fenced then some (stFenced, 0x30)
  else if !s.bnOwned c e.func then some (stOwnerMismatch, 0x37)
  else if d.aux1 / 2 ^ 11 ≠ 0 || !(bnActions d.opcode).contains (bnAction d) || bnUnnamed d ||
      (d.secretHandoff && !bnSecretOk d) then some (stInvalidOperand, 0x32)
  else if !(bnParams d.opcode).contains (bnParam d) then some (stInvalidOperand, 0x31)
  else if !bnLenOk d then some (stLengthMismatch, 0x33)
  else if !d.secretHandoff && decide (d.dstLen < bnOutLen d) then some (stOutputTooSmall, 0x34)
  else if bnAction d ≠ 1 then none
  else
    match x.key with
    | none => some (stKeyNotArmed, 0x35)
    | some k =>
      if k.param ≠ bnParam d ∨ (d.opcode = 0x30 ∧ k.len ≠ d.auxLen) then some (stInvalidOperand, 0x36) else none

/-! ## Held keys (R190, R202) -/

/-- The key mask generator's keystream for a channel under a mask seed. DESIGN CHOICE (log 123): the nonce is the channel number as 12
bytes, lowest first, and the block counter starts at 0. -/
def bnMask (c : Nat) (seed : BitVec 256) (n : Nat) : Bytes := chachaStream (leBytes seed.toNat 32) (leBytes c 12) 0 n

/-- The private key that a channel holds. -/
def HeldKey.bytes (k : HeldKey) (c : Nat) : Bytes := xorBytes k.share (bnMask c k.seed k.share.length)

/-- A key under a mask seed. -/
def heldKey (c param len : Nat) (key : Bytes) (seed : BitVec 256) : HeldKey :=
  { param := param, len := len, share := xorBytes key (bnMask c seed key.length), seed := seed }

/-- A held key split again with a fresh seed. -/
def HeldKey.resplit (k : HeldKey) (c : Nat) (seed : BitVec 256) : HeldKey := heldKey c k.param k.len (k.bytes c) seed

/-- The fresh mask seed among the bytes of a call. -/
def seedOf (b : Bytes) : BitVec 256 := bytesBv 256 (b.take 32)

/-- The bytes a request draws from the private wire when it starts: a mask seed, and blinding, key or nonce values
(R201). -/
def bnDraws (d : Desc) : Nat := if bnAction d = 2 then 32 else if bnAction d = 1 ∨ bnAction d = 3 then 128 else 0

/-- The request needs the digest engine (R200). -/
def bnHashes (d : Desc) : Bool :=
  (d.opcode == 0x35 || d.opcode == 0x36 || decide (0x38 ≤ d.opcode)) && bnAction d != 4 &&
    !(bnAction d == 2 && d.opcode != 0x3A)

/-- The request streams its message from SRC through the digest engine, and so reads it again for a recompute (R193, R204). -/
def bnStreams (d : Desc) : Bool :=
  d.opcode == 0x36 || d.opcode == 0x3C || ((d.opcode == 0x35 || d.opcode == 0x3B) && bnAction d == 1)

/-- ED25519_SIGN reads its message twice (R193). -/
def bnReadsTwice (d : Desc) : Bool := d.opcode == 0x35 && bnAction d == 1 && d.srcLen != 0

/-- The engine asks the private wire for a call for a channel, in place of an earlier wish (R200). -/
def State.bnDraw (s : State) (c n : Nat) : State :=
  let mine (u : RngUse) : Bool := match u with | .bignum ch _ => ch == c | _ => false
  { s with rng := { s.rng with
    ordWait := s.rng.ordWait.filter (fun u => !mine u) ++ (if n = 0 then [] else [RngUse.bignum c n]) } }

/-! ## Units (R197, R199) -/

/-- A channel of those waiting for a unit that was waiting before the other. -/
def earliest (l : List (Nat × BnChan)) : Option Nat :=
  (l.foldl (fun (b : Option (Nat × BnChan)) p =>
    match b with
    | none => some p
    | some q => if p.2.since < q.2.since then some p else b) none).map (fun p => p.1)

/-- The channels that wait for a unit. -/
def State.bnWaiters (s : State) (u : BnUnit) : List (Nat × BnChan) :=
  s.bnList.filter (fun p => p.2.st == .waiting && p.2.head.any (fun j => bnUnitOf j.elem.d.opcode == u))

def State.bnPriv (s : State) (c : Nat) : Bool := s.flag BN_CHAN_CFG.PRIV c

/-- The channel that a freed unit takes: a privileged one, the displaced one, or the one that has waited longest. -/
def State.bnNext (s : State) (u : BnUnit) : Option Nat :=
  let w := s.bnWaiters u
  earliest (w.filter (fun p => s.bnPriv p.1)) <|> earliest (w.filter (fun p => p.2.displaced)) <|> earliest w

/-- A unit is free to take a channel: producer P20 does not stall (R149). -/
def State.bnUnitFree (s : State) (u : BnUnit) : Bool :=
  let x := s.bnUnit u
  x.chan.isNone && !x.fenced && x.check == .idle && !s.stalling 20

/-- A channel that begins to use its held key splits it again, with the fresh seed of its request (R202). -/
def BnChan.useSplit (x : BnChan) (c : Nat) : BnChan :=
  if x.head.any (fun j => bnAction j.elem.d == 1) then
    { x with key := x.key.map (fun k => k.resplit c (seedOf (x.rnd.getD []))) }
  else x

/-- A channel takes a unit. -/
def State.bnTake (s : State) (u : BnUnit) (c : Nat) : State :=
  (s.setBnUnit u { s.bnUnit u with chan := some c }).updBnChan c (fun x => { x.useSplit c with
    st := .running, displaced := false, onUnit := true
    queue := match x.queue with
      | [] => []
      | j :: rest => { j with elem := j.elem.stamp 4 s.now } :: rest })

/-- A unit that is free takes the next channel. -/
def State.bnGive (s : State) (u : BnUnit) : State :=
  if s.bnUnitFree u then
    match s.bnNext u with
    | some c => (s.perfCount 44 1).bnTake u c
    | none => s
  else s

/-- A channel leaves the unit it is on. -/
def State.bnLeave (s : State) (c : Nat) : State :=
  let off (s : State) (u : BnUnit) : State :=
    if (s.bnUnit u).chan = some c then (s.setBnUnit u { s.bnUnit u with chan := none }).bnGive u else s
  off (off s .ia) .ntt

/-- A channel becomes WAITING; an idle unit is taken at once, by the channel that has waited longest. -/
def State.bnWait (s : State) (c : Nat) : State :=
  match (s.bnChan c).head with
  | none => s
  | some j =>
    let u := bnUnitOf j.elem.d.opcode
    let s := { s with bignum := { s.bignum with clock := s.bignum.clock + 1 } }
    let s := s.updBnChan c (fun x => { x with st := .waiting, since := s.bignum.clock })
    if s.bnUnitFree u then s.bnTake u ((s.bnNext u).getD c) else s

/-! ## Digest work (R178, R200) -/

/-- The algorithm that a reserved channel runs for a request: SHA-512 for Ed25519, and for the lattice schemes one of theirs, of
which the spec does not say which runs when (log 112). -/
def bnAlg (d : Desc) (free : Nat) : Nat :=
  if d.opcode < 0x38 then 4 else [0x12, 0x14, 0x21, 0x22].getD (free % 4) 0

/-- The reserved digest channel that serves a big-number channel. -/
def State.dgServing (s : State) (c : Nat) : Option Nat :=
  (s.digest.chans.find? (fun p => p.2.st == .busy && p.2.serves == some c)).map (fun p => p.1)

/-- A free reserved channel of the big-number engine. DESIGN CHOICE (log 112): the lowest-numbered. -/
def State.dgReserved (s : State) : Option Nat :=
  (List.range' s.dgOrdinary (255 - s.dgOrdinary)).find? (fun d => (s.dgChan d).st == .free)

/-- Big-number channels that wait are given reserved channels in arrival order while the DIGEST block is ON; fuel bounds their
number (R178). -/
def State.bnGrant (s : State) : Nat → State
  | 0 => s
  | fuel + 1 =>
    if !s.isOn (pg .digest) then s
    else
      match s.digest.bnWait, s.dgReserved with
      | c :: rest, some d =>
        match (s.bnChan c).head with
        | none => ({ s with digest := { s.digest with bnWait := rest } }).bnGrant fuel
        | some j =>
          let (n, s) := s.takeFree
          let s := { s with digest := { s.digest with bnWait := rest } }
          let alg := bnAlg j.elem.d (Config.freeValue 2 n).toNat
          ((s.setDgChan d { st := .busy, serves := some c, alg := alg }).dgReady d).bnGrant fuel
      | _, _ => s

/-- A channel's request needs digest output: it is BLOCKED until the output is in its scratch. With the DIGEST block FENCED the
request is to end FENCED (R200). -/
def State.bnHashAsk (s : State) (c : Nat) : State :=
  match (s.bnChan c).head with
  | none => s
  | some j =>
    if s.blk (pg .digest) == .fenced then
      s.updBnChan c (fun x => { x with st := .running, queue := updJob x.queue j.id (fun k => { k with phase := 4 }) })
    else
      let s := s.updBnChan c (fun x => { x with st := .blocked, hash := true })
      match s.dgServing c with
      | some d => s.dgReady d
      | none => ({ s with digest := { s.digest with bnWait := s.digest.bnWait ++ [c] } }).bnGrant 64

/-- A channel's operation ends: the reserved channel that it held is zeroized and serves the next (R178). -/
def State.bnHashDrop (s : State) (c : Nat) : State :=
  let s := { s with digest := { s.digest with bnWait := s.digest.bnWait.filter (· != c) } }
  let s := s.updBnChan c (fun x => { x with hash := false, hashed := false })
  match s.dgServing c with
  | none => s
  | some d => (((s.leaveCore d).setDgChan d {}).bnGrant 64).takeCores 4

/-- A channel goes on: it waits for digest output if its request still needs it, else for its unit (R197, R200). -/
def State.bnProceed (s : State) (c : Nat) : State :=
  let x := s.bnChan c
  if x.head.any (fun j => bnHashes j.elem.d) && !x.hashed then s.bnHashAsk c else s.bnWait c

/-! ## A request's course -/

/-- A channel's key goes, and what was due for it. -/
def State.bnKeyGone (s : State) (c : Nat) : State :=
  let s := s.updBnChan c (fun x => { x with key := none, resplit := false, splitRnd := none })
  { s with rng := { s.rng with ordWait := s.rng.ordWait.filter (fun u => u != RngUse.resplit c) } }

/-- The check that follows a channel's failed recompute has not ended (R204). -/
def State.bnJudged (s : State) (c : Nat) : Bool := s.bignum.ia.failed == some c || s.bignum.ntt.failed == some c

/-- The head of a channel's queue begins, or waits for what it still needs. -/
def State.bnSettle (s : State) (c : Nat) : State :=
  let x := s.bnChan c
  if x.st = .fenced || s.bnJudged c then s
  else
    match x.head with
    | none => s.setBnChan c { x with st := .idle }
    | some j =>
      if x.st = .running ∨ x.st = .waiting then s
      else if j.phase = 0 then
        let d := j.elem.d
        if (s.bnRefusal c j.elem).isSome ∨ bnAction d = 4 then
          s.setBnChan c { x with st := .running, queue := updJob x.queue j.id (fun k => { k with phase := 3 }) }
        else
          let (j, s) := s.readPart { j with phase := 1 } 0 d.src d.srcLen
          let s := s.bnDraw c (bnDraws d)
          let s := if bnAction d = 2 ∨ bnAction d = 3 then s.bnKeyGone c else s
          let s := s.updBnChan c (fun x => { x with
            st := .blocked
            queue := updJob x.queue j.id (fun _ => j)
            rnd := none
            rndWait := bnDraws d != 0 })
          let s := if bnAction d = 2 then ({ s with key := { s.key with jobs := s.key.jobs ++ [j] } }).kdfSync else s
          if j.ready && bnDraws d == 0 then s.bnProceed c else s
      else if j.ready && !x.rndWait && !x.hash then s.bnProceed c
      else s

/-- A big-number element is dispatched; answers false where its channel's queue is full (R189, R63). -/
def State.bnDispatch (s : State) (e : Elem) : Bool × State :=
  let c := e.d.object
  if 8 ≤ (s.bnChan c).queue.length then (false, s)
  else
    let (j, s) := s.newJob (e.onUnit c)
    let s := (s.fnCount e.func 22 1).updBnChan c (fun x => { x with queue := x.queue ++ [j] })
    (true, s.bnSettle c)

/-- No channel has a request: event IDLE (R211). -/
def State.bnIdle (s : State) : Bool := s.bnList.all (fun p => p.2.queue.isEmpty)

/-- A resplit that is due takes place, once its seed is there (R202). -/
def State.bnResplit (s : State) (c : Nat) : State :=
  s.updBnChan c (fun x =>
    match x.resplit, x.key, x.splitRnd with
    | true, some k, some b => { x with key := some (k.resplit c (seedOf b)), resplit := false, splitRnd := none }
    | _, _, _ => x)

/-- The request of a channel leaves it: its unit is free, its working area zeroized, and what waits goes on. -/
def State.bnDrop (s : State) (c : Nat) (j : Job) : State :=
  let s := s.keyDrop j
  let s := ((s.bnLeave c).bnDraw c 0).bnHashDrop c
  let s := s.updBnChan c (fun x => { x with
    st := if x.st = .fenced then .fenced else .idle
    queue := dropJob x.queue j.id
    rnd := none, rndWait := false, recompute := false, displaced := false, onUnit := false })
  let s := (s.bnResplit c).bnSettle c
  if s.bnIdle && s.fld BN_IDLE.HOLDOFF 0 == 0 then s.raiseEvent (pg .bignum) 0 else s

/-- DETAIL of a big-number completion (R207); the time on the unit is free, and zero where the request never had one. -/
def State.bnDetail (s : State) (c attempts : Nat) (held : Bool) (k : Compl) : Compl × State :=
  let (n, s) := if held then s.takeFree else (0, s)
  let t := if held then (Config.freeValue 32 n).toNat else 0
  ({ k with flags := b2n (s.bnChan c).key.isSome, value := t * 2 ^ 16 + attempts % 256 * 2 ^ 8 + c % 256 }, s)

/-- The chain's entry stays empty after a request that ends with another status than OK (R206). -/
def State.bnNoSecret (s : State) (j : Job) : State := if j.elem.d.secretHandoff then s.putSecret j.elem [] else s

/-- A request completes with a status and writes nothing. How often MLDSA_SIGN had tried by then is free (R207). A tamper response has
wiped every key by then (R323). -/
def State.bnClose (s : State) (c : Nat) (j : Job) (st reason : Nat) : State :=
  let held := (s.bnChan c).onUnit && (s.bnChan c).head.any (fun h => h.id == j.id)
  let signs := held && j.elem.d.opcode == 0x3B && bnAction j.elem.d == 1
  let (n, s) := if signs then s.takeFree else (0, s)
  let tries := if signs then (Config.freeValue 8 n).toNat else 0
  let (k, s) := (s.bnNoSecret j).bnDetail c tries held { status := st, reason := reason }
  s.endJob 20 j (if st = stAbortedAlarm then { k with flags := 0 } else k)

/-- The request of a channel ends with a status and writes nothing. -/
def State.bnEnd (s : State) (c : Nat) (j : Job) (st reason : Nat) : State := (s.bnClose c j st reason).bnDrop c j

/-- An error goes into BN_ERR_INFO (R211). -/
def State.bnError (s : State) (kind : Nat) (u : BnUnit) (c : Nat) : State :=
  let s :=
    if s.flag BN_ERR_INFO.VALID 0 then s
    else (((s.putFlag BN_ERR_INFO.VALID 0 true).put BN_ERR_INFO.KIND 0 kind).put BN_ERR_INFO.UNIT 0
      (match u with | .ia => 0 | .ntt => 1)).put BN_ERR_INFO.CHANNEL 0 c
  s.bump BN_ERR_INFO.COUNT 0 1

/-- The recompute of a request needs nothing from outside: it draws no values, reads nothing again and hashes nothing. -/
def bnAtOnce (d : Desc) : Bool := bnDraws d == 0 && !bnStreams d && !bnHashes d

/-- A detected error in the request that a channel runs on a unit: the output is withdrawn; the first is followed by a
recompute with fresh values, the second by the unit's check (R203, R204). A recompute that waits for nothing keeps the unit. -/
def State.bnCheckFail (s : State) (c : Nat) (u : BnUnit) (cause : Nat) : State :=
  let x := s.bnChan c
  match x.head with
  | none => s
  | some j =>
    if (s.bnUnit u).chan ≠ some c then s
    else
      let s := s.bnError cause u c
      if x.recompute then
        let s := (s.setBnUnit u { s.bnUnit u with chan := none, check := .running, failed := some c }).raiseFault (pg .bignum) 8
        s.updBnChan c (fun x => { x with st := .blocked })
      else
        let d := j.elem.d
        let n := bnDraws d
        let j := { j with retried := true, parts := if bnStreams d then [] else j.parts }
        if bnAtOnce d then
          s.updBnChan c (fun x => { x with recompute := true, queue := updJob x.queue j.id (fun _ => j) })
        else
        let s := (s.bnLeave c).bnDraw c n
        let (j, s) := if bnStreams d then s.readPart j 0 d.src d.srcLen else (j, s)
        let s := s.updBnChan c (fun x => { x with
          st := .blocked, recompute := true, rnd := none, rndWait := n != 0, hashed := false
          queue := updJob x.queue j.id (fun _ => j) })
        if n = 0 && j.ready then s.bnProceed c else s

/-! ## The operations (R193, R196, R201, R203) -/

/-- What an operation comes to. -/
inductive BnOut where
  /-- it ends OK: the output, the ciphertext for AUX0, a new key with its RSA length, and the signing attempts -/
  | done (out aux : Bytes) (key : Option (Bytes × Nat)) (attempts : Nat)
  /-- it ends with a status and a reason -/
  | fail (status reason : Nat)
  /-- its end-of-operation check fails -/
  | check

/-- A number of 1 to n − 1 from the bytes drawn. -/
def scalarOf (n attempt : Nat) (b : Bytes) : Nat := (Config.bnRandom attempt b).toNat % (n - 1) + 1

/-- 32 bytes from the bytes drawn. -/
def seed32 (attempt : Nat) (b : Bytes) : Bytes := leBytes (Config.bnRandom attempt b).toNat 32

/-- ECDSA with nonces drawn until r and s are not zero; fuel bounds the draws. -/
def ecdsaSign (c : Curve) (d z : Nat) (b : Bytes) : Nat → Nat → Option Bytes
  | 0, _ => none
  | fuel + 1, i =>
    match ecdsaWith c d z (scalarOf c.n i b) with
    | some r => some r
    | none => ecdsaSign c d z b fuel (i + 1)

def bnBad : BnOut := .fail stInvalidOperand 0x38
def bnVerdict (ok : Bool) : BnOut := if ok then .done [] [] none 0 else .fail stAuthFail 0x3A

/-- GEN and MLKEM_KEYGEN: the public key and the private key. -/
def bnGen (op p : Nat) (rnd : Bytes) : BnOut :=
  if op = 0x31 ∨ op = 0x32 then
    let c := curveOf p
    let d := scalarOf c.n 0 rnd
    .done (c.encode (c.mul d c.base)) [] (some (beBytes d c.len, 0)) 0
  else if op = 0x34 then .done (x25519 (seed32 0 rnd) x25519Base) [] (some (seed32 0 rnd, 0)) 0
  else if op = 0x35 then .done (edPublic (seed32 0 rnd)) [] (some (seed32 0 rnd, 0)) 0
  else if op = 0x38 then
    let (ek, dk) := kemKeyGen (kemSet p) (seed32 0 rnd) (seed32 1 rnd)
    .done ek [] (some (dk, 0)) 0
  else
    let (pk, sk) := dsaKeyGen (dsaSet p) (seed32 0 rnd)
    .done pk [] (some (sk, 0)) 0

/-- An operation with the held key; src' is SRC as ED25519_SIGN reads it the second time. -/
def bnPrivate (d : Desc) (key src src' rnd : Bytes) : BnOut :=
  let op := d.opcode
  let p := bnParam d
  let c := curveOf p
  if op = 0x30 then
    let k := rsaKey d.auxLen key
    let m := beNat src
    if k.n ≤ m then bnBad
    else
      let r := rsaPrivate k m
      if modPow k.n r k.e = m then .done (beBytes r d.auxLen) [] none 0 else .check
  else if op = 0x31 then
    match c.decode src with
    | none => bnBad
    | some q =>
      match c.mul (beNat key) (some q) with
      | none => bnBad
      | some (x, _) => .done (beBytes x c.len) [] none 0
  else if op = 0x32 then
    match ecdsaSign c (beNat key) (c.hashNum src) rnd 16 0 with
    | some r => .done r [] none 0
    | none => .check
  else if op = 0x34 then
    let r := x25519 key src
    if r.all (fun b => b == 0) then bnBad else .done r [] none 0
  else if op = 0x35 then .done (edSign key src src') [] none 0
  else if op = 0x3A then .done (kemDecaps (kemSet p) key src) [] none 0
  else
    let x := dsaSet p
    let ctx := src.take d.auxLen
    let m := src.drop d.auxLen
    let (r, n) := dsaSign x key ctx m (seed32 0 rnd)
    match r with
    | none => .check
    | some sig => if dsaVerify x (dsaPublic x key) ctx m sig then .done sig [] none (min 255 n) else .check

/-- A public operation; m is the message that MLKEM_ENCAPS encapsulates, free because public operations draw no values. -/
def bnPublic (d : Desc) (src m : Bytes) : BnOut :=
  let op := d.opcode
  let p := bnParam d
  let c := curveOf p
  if op = 0x30 then
    let l := d.auxLen
    let n := beNat (src.take l)
    let b := beNat (slice src l l)
    if n % 2 = 0 ∨ n < 3 ∨ src.head? = some 0 ∨ n ≤ b then bnBad
    else .done (beBytes (modPow n b (beNat (src.drop (2 * l)))) l) [] none 0
  else if op = 0x33 then
    match c.decode (src.take (2 * c.len + 1)) with
    | none => bnBad
    | some q =>
      let at_ (i n : Nat) := slice src (2 * c.len + 1 + i) n
      bnVerdict (ecdsaVerify c (some q) (beNat (at_ 0 c.len)) (beNat (at_ c.len c.len))
        (c.hashNum (at_ (2 * c.len) d.auxLen)))
  else if op = 0x36 then bnVerdict (edVerify (src.take 32) (slice src 32 64) (src.drop 96))
  else if op = 0x39 then
    if kemEkOk (kemSet p) src then
      let (k, ct) := kemEncaps (kemSet p) src m
      .done k ct none 0
    else bnBad
  else
    let a := dsaPkLen p
    let b := a + dsaSigLen p
    bnVerdict (dsaVerify (dsaSet p) (src.take a) (slice src b d.auxLen) (src.drop (b + d.auxLen)) (slice src a (b - a)))

/-- The check of a loaded key (R194). -/
def bnKeyOk (op p l : Nat) (key : Bytes) : Bool :=
  if op = 0x30 then rsaKeyOk l (rsaKey l key)
  else if p ≤ 3 then
    let d := beNat key
    decide (1 ≤ d) && decide (d < (curveOf p).n)
  else if p = 0x11 ∨ p = 0x12 ∨ p = 0x13 then kemDkOk (kemSet p) key
  else true

/-- LOAD of an unwrapped blob (R194, R240). -/
def bnLoad (d : Desc) (blobKey blob : Bytes) : BnOut :=
  let p := bnParam d
  match unwrapBlob blobKey blob (some (bnKeyLen d.opcode p d.auxLen)) with
  | .error st => .fail st (if st = stAuthFail then 0x3B else 0x33)
  | .ok key =>
    if bnKeyOk d.opcode p d.auxLen key then .done [] [] (some (key, if d.opcode = 0x30 then d.auxLen else 0)) 0
    else .fail stInvalidOperand 0x3C

/-- An injected error is due in the request that ends on a unit (R211). -/
def State.bnInjects (s : State) (u : BnUnit) (x : BnChan) : Bool :=
  s.tile.st == .test && (x.recompute && x.head.any (fun j => j.phase == 2) ||
    s.flag BN_XINJECT.ARM 0 && s.fld BN_XINJECT.UNIT 0 == (match u with | .ia => 0 | .ntt => 1) &&
      decide (s.fld BN_XINJECT.AFTER 0 ≤ s.bignum.injectCount))

/-- The error is injected: ARM clears itself, and BOTH leaves the recompute to fail. -/
def State.bnInject (s : State) (c : Nat) (u : BnUnit) (j : Job) : State :=
  let both := s.flag BN_XINJECT.ARM 0 && s.flag BN_XINJECT.BOTH 0
  let s := s.putFlag BN_XINJECT.ARM 0 false
  let s := s.updBnChan c (fun x => { x with queue := updJob x.queue j.id (fun k => { k with phase := if both then 2 else 1 }) })
  s.bnCheckFail c u (s.fld BN_XINJECT.CAUSE 0)

/-- The operation of a channel has come to its end on the unit (R203, R206, R207). DESIGN CHOICE (log 123): AFTER of BN_XINJECT counts
the operations that end OK, of both units together; the channel goes on to its next request as the writes of this one begin, before
its completion is pushed. -/
def State.bnFinish (s : State) (c : Nat) (j : Job) (u : BnUnit) (r : BnOut) : State :=
  let d := j.elem.d
  let x := s.bnChan c
  let rnd := x.rnd.getD []
  match r with
  | .check => s.bnCheckFail c u 1
  | .fail st reason => (if x.recompute then s.transient (pg .bignum) else s).bnEnd c j st reason
  | .done out aux key attempts =>
    let s := if x.recompute then s.transient (pg .bignum) else s
    let s := { s with bignum := { s.bignum with injectCount := s.bignum.injectCount + 1 } }
    let s := s.updBnChan c (fun x => { x with key :=
      match key with
      | some (k, l) => some (heldKey c (bnParam d) l k (seedOf rnd))
      | none => x.key })
    let (k, s) := s.bnDetail c attempts true { status := stOk }
    let n := if d.secretHandoff then 0 else out.length
    let k := { k with outLen := n }
    let s := s.bnDrop c j
    let parts := (if n = 0 then [] else [(d.dst, out)]) ++ (if aux.isEmpty then [] else [(d.aux0, aux)])
    let secret := if d.secretHandoff then out else []
    if parts.isEmpty then (if d.secretHandoff then s.putSecret j.elem secret else s).endJob 20 j k
    else
      let k := { k with elem := j.elem.worked k.status s.now, retried := k.retried || j.retried }
      let s := { s with finishes := s.finishes ++ [({ job := j.id, producer := 20, compl := k, secret := secret } : Finish)] }
      parts.foldl (fun s p => (s.startWrite (.elemWrite j.id) j.elem.attr p.1 p.2 none).2) s

/-- The kind of a request, as the table of operations splits them: 2 LOAD, 3 GEN, 4 CLEAR, 0 the operation of its opcode.
MLKEM_KEYGEN's GEN is its operation. -/
def bnKind (d : Desc) : Nat :=
  if d.opcode = 0x38 then 0
  else if bnAction d = 2 ∨ bnAction d = 3 ∨ bnAction d = 4 then bnAction d else 0

/-- The digest output of a channel's request, on a core, comes to its scratch, or a FENCED digest engine denies it. How many blocks it
took is free (log 112). The second read of ED25519_SIGN's message follows its first pass (R178, R193, R200). Answers whether the
digest engine is fenced by an error that DCORE_XINJECT asked for (R187). -/
def State.bnServe (s : State) (c : Nat) : Bool × State :=
  if !(s.bnChan c).hash then (false, s)
  else
    match s.dgServing c with
    | none => (false, if s.blk (pg .digest) == .fenced then s.bnHashAsk c else s)
    | some d =>
      match (s.dgChan d).core, (s.bnChan c).head with
      | some n, some j =>
        let (i, s) := s.takeFree
        let k := (Config.freeValue 32 i).toNat
        if s.coreInjects n k then s.injectError n else
        let s := (s.coreCount n k).leaveCore d
        let s := (s.setDgChan d { s.dgChan d with rerun := false }).takeCores 4
        if bnReadsTwice j.elem.d && !j.parts.any (fun p => p.1 == 1) then
          let (j, s) := s.readPart j 1 j.elem.d.src j.elem.d.srcLen
          (false, s.updBnChan c (fun x => { x with hash := false, queue := updJob x.queue j.id (fun _ => j) }))
        else (false, (s.updBnChan c (fun x => { x with hash := false, hashed := true })).bnSettle c)
      | _, _ => (false, s)

/-- A LOAD at its end on the unit: key custody unwraps its blob (R178, R183, R194). Answers as bnServe does. -/
def State.bnUnwrap (s : State) (c : Nat) (j : Job) (u : BnUnit) : Bool × State :=
  if s.kdfDenied then (false, s.bnEnd c j stFenced 0x30)
  else
    let s := s.kdfSync
    match s.keyHead, s.rootBytes with
    | some h, some root =>
      if h.id ≠ j.id ∨ !s.keyDerives then (false, s)
      else
        match s.kdfInjects (kdfBlocks funcFixed 32) with
        | some n => s.injectError n
        | none =>
          let j := { j with retried := j.retried || h.retried }
          (false, ((s.keyOp true).kdfCount (kdfBlocks funcFixed 32)).bnFinish c j u
            (bnLoad j.elem.d (s.funcKey root j.elem.func) (j.part 0)))
    | _, _ => (false, s)

/-- The request that a channel runs on its unit has its outcome. -/
def State.bnOutcome (s : State) (c : Nat) (j : Job) (u : BnUnit) : Bool × State :=
  let d := j.elem.d
  let rnd := (s.bnChan c).rnd.getD []
  match bnAction d with
  | 0 =>
    let (n, s) := if d.opcode = 0x39 then s.takeFree else (0, s)
    (false, s.bnFinish c j u (bnPublic d (j.part 0) (leBytes (Config.freeValue 256 n).toNat 32)))
  | 1 =>
    let key := ((s.bnChan c).key.map (fun k => k.bytes c)).getD []
    (false, s.bnFinish c j u (bnPrivate d key (j.part 0) (j.part 1) rnd))
  | 3 => (false, s.bnFinish c j u (bnGen d.opcode (bnParam d) rnd))
  | _ => s.bnUnwrap c j u

/-- The request that a channel runs comes to its end: it is refused by R195, waits for the digest engine or key custody, or
has its outcome. Answers as bnServe does. -/
def State.bnRun (s : State) (c : Nat) : Bool × State :=
  let (fences, s) := s.bnServe c
  if fences then (true, s) else
  match (s.bnChan c).head with
  | none => (false, s)
  | some j =>
    let d := j.elem.d
    let u := bnUnitOf d.opcode
    match (if j.phase = 0 ∨ j.phase = 3 then s.bnRefusal c j.elem else none) with
    | some (st, reason) => (false, s.bnEnd c j st reason)
    | none =>
      if bnAction d = 4 then (false, (s.bnKeyGone c).bnEnd c j stOk 0)
      else if j.phase = 4 then (false, s.bnEnd c j stFenced 0x30)
      else if j.phase = 0 ∨ j.phase = 3 then
        (false, (s.updBnChan c (fun x => { x with
          st := .blocked, queue := updJob x.queue j.id (fun k => { k with phase := 0 }) })).bnSettle c)
      else
        let s := s.bnSettle c
        match (s.bnChan c).head with
        | none => (false, s)
        | some j =>
          if (s.bnChan c).st ≠ .running then (false, s)
          else if s.bnInjects u (s.bnChan c) then (false, s.bnInject c u j)
          else s.bnOutcome c j u

/-- The operation of an opcode at a channel, where its head is one. -/
def State.bnOp (s : State) (op kind c : Nat) : Bool × State :=
  let s := (s.bnGive .ia).bnGive .ntt
  match (s.bnChan c).head with
  | some j => if bnKind j.elem.d = kind ∧ (kind ≠ 0 ∨ j.elem.d.opcode = op) then s.bnRun c else (false, s)
  | none => (false, s)

/-! ## What else happens to a channel -/

/-- Values have arrived on the private wire for some channel (R200, R202). -/
def State.bnPoll (s : State) : State :=
  s.bnList.foldl (fun s p =>
    let x := s.bnChan p.1
    if x.queue.isEmpty then s.bnResplit p.1 else if x.rnd.isSome then s.bnSettle p.1 else s) s

/-- The SRC read of a request has ended (R200, R194). -/
def State.bnBytes (s : State) (c : Nat) (j : Job) : State :=
  let s := s.updBnChan c (fun x => { x with queue := updJob x.queue j.id (fun _ => j) })
  let s := ({ s with key := { s.key with jobs := updJob s.key.jobs j.id (fun _ => j) } }).kdfSync
  if j.failed then s.bnEnd c j stFabricError 0x3F else s.bnSettle c

/-- The channel that holds a job. -/
def State.bnChanOf (s : State) (id : Nat) : Option Nat :=
  (s.bnList.find? (fun p => p.2.queue.any (fun j => j.id == id))).map (fun p => p.1)

/-- A request has waited BN_XRNG.TMO for a value (R200); 0 waits without limit. -/
def State.bnRngTimeout (s : State) (c : Nat) : State :=
  let x := s.bnChan c
  match x.head with
  | some j =>
    if x.rndWait ∧ s.fld BN_XRNG.TMO 0 ≠ 0 then
      (s.bnError 6 (bnUnitOf j.elem.d.opcode) c).bnEnd c j stRngUnavailable 0x3E
    else s
  | none => s

/-- The resplit period of a held key has passed (R202). -/
def State.bnResplitDue (s : State) (c : Nat) : State :=
  let x := s.bnChan c
  if x.key.isNone ∨ s.fld BN_XRESPLIT.PERIOD 0 = 0 ∨ !s.isOn (pg .bignum) then s
  else
    let s := s.setBnChan c { x with resplit := true }
    if x.splitRnd.isSome || s.rng.ordWait.contains (.resplit c) then s
    else { s with rng := { s.rng with ordWait := s.rng.ordWait ++ [RngUse.resplit c] } }

/-- A unit's budget is spent at a boundary (R197); a channel that a privileged one displaces then resumes first (R199, R208). -/
def State.bnBudget (s : State) (u : BnUnit) : State :=
  match (s.bnUnit u).chan with
  | none => s
  | some c =>
    if (s.bnWaiters u).isEmpty then s
    else
      let s := { s with bignum := { s.bignum with clock := s.bignum.clock + 1 } }
      let s := s.setBnUnit u { s.bnUnit u with chan := none }
      let s := s.bnGive u
      let first := (s.bnUnit u).chan.any (fun d => s.bnPriv d)
      s.updBnChan c (fun x => { x with st := .waiting, displaced := first, since := s.bignum.clock })

/-- A privileged channel takes its unit at a boundary, whatever the running channel; the one it displaces resumes first (R199). -/
def State.bnPreempt (s : State) (u : BnUnit) : State :=
  match (s.bnUnit u).chan, earliest ((s.bnWaiters u).filter (fun p => s.bnPriv p.1)) with
  | some c, some p =>
    let s := { s with bignum := { s.bignum with clock := s.bignum.clock + 1 } }
    let s := s.updBnChan c (fun x => { x with st := .waiting, displaced := true, since := s.bignum.clock })
    ((s.perfCount 44 1).perfCount 45 1).bnTake u p
  | _, _ => s

/-- A queued request completes FENCED, and so does the one that its channel runs. -/
def State.bnQuit (s : State) (c : Nat) (j : Job) : State :=
  if (s.bnChan c).head.any (fun h => h.id == j.id) then s.bnEnd c j stFenced 0x30
  else (s.bnClose c j stFenced 0x30).updBnChan c (fun x => { x with queue := dropJob x.queue j.id })

/-- Every request that waits for a unit, or is on it, completes FENCED; the other unit runs on (R204). -/
def State.bnFenceUnit (s : State) (u : BnUnit) : State :=
  let js := s.bnList.flatMap (fun p =>
    (p.2.queue.filter (fun j => bnUnitOf j.elem.d.opcode == u)).map (fun j => (p.1, j)))
  js.foldl (fun s p => s.bnQuit p.1 p.2) s

/-- No check of a unit runs any more; RUN of BN_CHECK is done when neither unit's does (R211). -/
def State.bnCheckOver (s : State) (u : BnUnit) : State :=
  let s := s.setBnUnit u { s.bnUnit u with check := .idle, failed := none }
  let was := s.bignum.runIa || s.bignum.runNtt
  let s := { s with bignum := { s.bignum with
    runIa := s.bignum.runIa && u != BnUnit.ia, runNtt := s.bignum.runNtt && u != BnUnit.ntt } }
  if was && !(s.bignum.runIa || s.bignum.runNtt) then (s.putFlag BN_CHECK.DONE 0 true).putFlag BN_CHECK.RUN 0 false else s

/-- A unit is FENCED with a cause, which the fault log records: what needs it completes FENCED (R204, R330, R335). DEDUCED
(log 55): INSTANCE of such a record is 0 for the integer array and 1 for the NTT unit. -/
def State.bnUnitLost (s : State) (u : BnUnit) (cause : Nat) : State :=
  let s := s.bnCheckOver u
  let s := s.setBnUnit u { s.bnUnit u with fenced := true }
  let s := (s.raiseFault (pg .bignum) 9).logFence 3 cause (PageKind.code .bignum) (match u with | .ia => 0 | .ntt => 1)
  s.bnFenceUnit u

/-- Both units are FENCED. -/
def State.bnBothLost (s : State) : Bool := s.bignum.ia.fenced && s.bignum.ntt.fenced

/-- The recompute of a channel's request has failed, and the unit's check has ended: a unit that passes it leaves the fault to the
channel, which is FENCED, and the fault log records that (R204, R335). -/
def State.bnJudge (s : State) (c : Nat) (pass : Bool) : State :=
  let s := s.lasting (pg .bignum)
  let s :=
    if pass then
      (((s.bnKeyGone c).updBnChan c (fun x => { x with st := .fenced })).raiseFault (pg .bignum) 10).logFence 3 0x01
        (PageKind.code .bignum) c
    else s
  match (s.bnChan c).head with
  | some j => if (s.bnChan c).recompute then s.bnEnd c j stBignumFault 0x3D else s
  | none => s

/-- A unit's check ends (R204, R211). Answers whether both units are FENCED, so that the block is. -/
def State.bnUnitCheckDone (s : State) (u : BnUnit) (pass : Bool) : Bool × State :=
  let x := s.bnUnit u
  if x.check ≠ .running then (false, s)
  else
    let s := (s.bnCheckOver u).setBnUnit u { x with check := .idle, failed := none, fenced := !pass }
    let s := match u with
      | .ia => s.putFlag BN_CHECK.PASS_IA 0 pass
      | .ntt => s.putFlag BN_CHECK.PASS_NTT 0 pass
    let s := match x.failed with
      | some c => s.bnJudge c pass
      | none => s
    if pass then (false, s.bnGive u)
    else
      let s := s.bnUnitLost u 0x01
      (s.bnBothLost, s)

/-- BN_CHECK.RUN: the units' running channels are handed back and the checks run (R211). A FENCED unit's counts as over. -/
def State.bnCheckRun (s : State) : State :=
  if !s.isOn (pg .bignum) then s.putFlag BN_CHECK.RUN 0 false
  else
    let one (s : State) (u : BnUnit) : State :=
      let x := s.bnUnit u
      if x.fenced || x.check == .running then s
      else
        let s := s.setBnUnit u { x with chan := none, check := .running }
        match x.chan with
        | some c =>
          let s := { s with bignum := { s.bignum with clock := s.bignum.clock + 1 } }
          s.updBnChan c (fun y => { y with st := .waiting, since := s.bignum.clock })
        | none => s
    let s := one (one s .ia) .ntt
    let s := { s with bignum := { s.bignum with
      runIa := !s.bignum.ia.fenced, runNtt := !s.bignum.ntt.fenced } }
    let busy := s.bignum.runIa || s.bignum.runNtt
    (s.putFlag BN_CHECK.DONE 0 (!busy)).putFlag BN_CHECK.RUN 0 busy

/-- An ECC error in a channel's scratch: a single-bit one is corrected and counted; an uncorrectable one in the key area takes the
key (R204, R205, R208). DESIGN CHOICE (log 123): BN_ERR_INFO.UNIT is 0 for a channel with no request. -/
def State.bnKeyEcc (s : State) (c : Nat) (corrected : Bool) : State :=
  let x := s.bnChan c
  let u := match x.head with | some j => bnUnitOf j.elem.d.opcode | none => .ia
  if corrected then s.bnError 5 u c
  else if x.key.isNone then s
  else
    let s := ((s.bnKeyGone c).bnError 4 u c).raiseFault (pg .bignum) 11
    match x.head with
    | some j => s.bnEnd c j stBignumFault 0x3F
    | none => s

/-- A write of BN_CHAN_CFG_n (R208, R204): what of it takes effect. -/
def State.bnChanCfg (s : State) (c : Nat) (v : W64) : State :=
  let x := s.bnChan c
  let valid := fget v 31 31
  let func := fget v 29 24
  let dv := valid != s.fld BN_CHAN_CFG.VALID c
  let df := func != s.fld BN_CHAN_CFG.FUNC c
  let ok := (!dv || x.st == .idle || x.st == .fenced) && (!df || x.st == .idle)
  if !ok then s.seq (pg .bignum)
  else
    let s := ((s.put BN_CHAN_CFG.VALID c valid).put BN_CHAN_CFG.FUNC c func).put BN_CHAN_CFG.PRIV c (fget v 30 30)
    let s := if dv || df then ((s.bnKeyGone c).updBnChan c (fun x => { x with rnd := none })).bnDraw c 0 else s
    if x.st = .fenced ∧ valid = 0 then ((s.bnKeyGone c).updBnChan c (fun x => { x with st := .idle })).bnSettle c else s

/-! ## The whole engine (R209) -/

/-- Every reserved digest channel that a big-number channel holds, or waits for, is given up. -/
def State.bnHashEnds (s : State) : State :=
  let s := { s with digest := { s.digest with bnWait := [] } }
  s.bnList.foldl (fun s p => s.bnHashDrop p.1) s

/-- The digest engine is FENCED: every request whose digest work it can serve no more completes with a status (R183, R200). -/
def State.bnUnserved (s : State) (status : Nat) : State :=
  s.bnList.foldl (fun s p =>
    match (s.bnChan p.1).head with
    | some j => if (s.bnChan p.1).hash then s.bnEnd p.1 j status 0x30 else s
    | none => s) s

/-- An error in the state of a digest channel (R175, R183). The request of the big-number channel that a reserved one serves ends
with FENCED (log 112). -/
def State.digestStateEcc (s : State) (d : Nat) (corrected : Bool) : State :=
  let x := s.dgChan d
  let s := s.dgStateEcc d corrected
  if corrected || x.st == .fenced then s
  else
    match x.serves with
    | none => s
    | some c =>
      match (s.bnChan c).head with
      | some j => if (s.bnChan c).hash then s.bnEnd c j stFenced 0x30 else s
      | none => s

/-- Every request completes with a status; queued loads leave key custody. -/
def State.bnAbort (s : State) (status reason : Nat) : State :=
  let js := s.bnList.flatMap (fun p => p.2.queue.map (fun j => (p.1, j)))
  let s := js.foldl (fun s p => s.bnClose p.1 p.2 status reason) s
  let s := s.bnHashEnds
  { s with
    bignum := { s.bignum with
      chans := Tbl.mapVals {} (fun (x : BnChan) => { x with
        queue := [], rnd := none, rndWait := false, recompute := false, displaced := false, onUnit := false
        st := if x.st = .fenced then .fenced else .idle }) s.bignum.chans
      ia := { s.bignum.ia with chan := none, failed := none }
      ntt := { s.bignum.ntt with chan := none, failed := none } }
    key := { s.key with jobs := s.key.jobs.filter (fun (k : Job) => !js.any (fun p => p.2.id == k.id)) }
    rng := { s.rng with ordWait := s.rng.ordWait.filter (fun u => match u with | .bignum _ _ => false | _ => true) } }

/-- Work that waited only for a producer to push goes on (R149): key custody, the digest cores, the big-number units. -/
def State.enginesGo (s : State) : State := ((s.kdfSync.coresGo).bnGive .ia).bnGive .ntt

/-- Scratch and held keys are zeroized; FENCED channels and units are back at their reset state, and no check runs. -/
def State.bnWipe (s : State) : State :=
  let s := s.bnHashEnds.putFlag BN_CHECK.RUN 0 false
  { s with
    bignum := { clock := s.bignum.clock }
    rng := { s.rng with ordWait := s.rng.ordWait.filter (fun u => match u with | .bignum _ _ | .resplit _ => false | _ => true) } }

end Sys2Proof.Machine
end

