-- ==== Sys2Proof/Machine/Dma.lean ====
section
/-! DEFINITION. The DMA engine: channels, hand-over, beats, rings, barriers and errors (R254–R270, 12_dma_engine.md). -/

namespace Sys2Proof.Machine

/-! ## Channels -/

def State.dch (s : State) (c : Nat) : Dch := Tbl.get {} s.dma.chans c
def State.setDch (s : State) (c : Nat) (x : Dch) : State :=
  { s with dma := { s.dma with chans := Tbl.set {} s.dma.chans c x } }
def State.updDch (s : State) (c : Nat) (f : Dch → Dch) : State := s.setDch c (f (s.dch c))
def dchPg (c : Nat) : PageRef := ⟨.dmaChannel, c⟩

/-- The code of a channel state (R270). -/
def DchSt.code : DchSt → Nat
  | .idle => 0 | .copying => 1 | .running => 2 | .ending => 3 | .halted => 4

/-- The attributes of a channel's accesses (R254, R373). -/
def State.dchAttr (s : State) (c : Nat) (ro bar : Bool) : Attr :=
  let h := s.hdr (dchPg c)
  if h.ownerValid then fnAttr h.ownerFunc.toNat ro bar else ownAttr false ro bar

/-- The channel is in ring mode (R255). -/
def State.dchRing (s : State) (c : Nat) : Bool := s.flag DCH_CFG.RING c

/-- The size of a channel's ring, and the address of an entry (R258). -/
def State.dchSize (s : State) (c : Nat) : Nat := 2 ^ min 12 (max 4 (s.fld DCH_CFG.RING_LOG2 c))
def State.dchEntry (s : State) (c i : Nat) : Nat := s.fld DCH_RING_BASE.BASE c * 4096 + 32 * i

/-- The length of the current transfer. -/
def State.dchLen (s : State) (c : Nat) : Nat := s.fld DCH_CUR_CTL.LENGTH c

/-- The channel has nothing under way (R267). -/
def State.dchQuiet (s : State) (c : Nat) : Bool := (s.dch c).st == .idle || (s.dch c).st == .halted

/-- The fields of W0 that the control registers hold (R257, R270). -/
def dchCtl (w : W64) : W64 := w &&& 0x6F000000FFFFFFFF

/-! ## Address patterns (R259–R261) -/

/-- The beat of a side that begins at an offset of the transfer: its address and its bytes. -/
def sideBeat (mode addr x2d off len : Nat) : Nat × Nat :=
  if mode = 1 then (addr, min 128 (len - off))
  else if mode = 2 then
    let line := x2d % 65536 + 1
    let a := (addr + off / line * (x2d / 2 ^ 32) + off % line) % 2 ^ 64
    (a, min (128 - a % 128) (min (line - off % line) (len - off)))
  else
    let a := (addr + off) % 2 ^ 64
    (a, min (128 - a % 128) (len - off))

def State.readBeat (s : State) (c : Nat) : Nat × Nat :=
  sideBeat (s.fld DCH_CUR_CTL.SRC_MODE c) (s.fld DCH_CUR_SRC.ADDR c) (s.dch c).x2dSrc.toNat (s.dch c).rdOff (s.dchLen c)

def State.writeBeat (s : State) (c : Nat) : Nat × Nat :=
  sideBeat (s.fld DCH_CUR_CTL.DST_MODE c) (s.fld DCH_CUR_DST.ADDR c) (s.dch c).x2dDst.toNat (s.dch c).wrOff (s.dchLen c)

/-- 2-D sides are allowed now (R261). -/
def State.dma2d (s : State) : Bool :=
  s.tile.st == .bringUp || s.tile.st == .test || ((s.hdr (pg .dma)).lock == .opened && s.flag DMA_XRECOVER.EN 0)

/-- The first row of R259 that applies at a transfer's start: the status it is refused with. -/
def State.dmaRefusal (s : State) (c : Nat) : Option Nat :=
  let x := s.dch c
  let sm := s.fld DCH_CUR_CTL.SRC_MODE c
  let dm := s.fld DCH_CUR_CTL.DST_MODE c
  let len := s.dchLen c
  let crooked (m a : Nat) : Bool := m == 1 && (a % 128 != 0 || len % 128 != 0)
  let area (g : Nat) : Nat := (g % 65536 + 1) * (g / 65536 % 65536)
  if sm = 3 ∨ dm = 3 ∨ (s.dchRing c ∧ x.bad) then some stBadOpcode
  else if len = 0 then some stLengthMismatch
  else if (sm = 2 ∨ dm = 2) ∧ !s.dma2d then some stInvalidOperand
  else if crooked sm (s.fld DCH_CUR_SRC.ADDR c) || crooked dm (s.fld DCH_CUR_DST.ADDR c) then some stInvalidOperand
  else if (sm = 2 ∧ area x.x2dSrc.toNat ≠ len) ∨ (dm = 2 ∧ area x.x2dDst.toNat ≠ len) then some stLengthMismatch
  else none

/-! ## The buffer -/

/-- The bytes that lie without a gap from an offset on. -/
def runFrom : Nat → Tbl Bytes → Bytes
  | _, [] => []
  | o, (k, b) :: t => if k ≤ o ∧ o < k + b.length then b.drop (o - k) ++ runFrom (k + b.length) t else []

/-- The buffer without what lies below an offset. -/
def dropBelow (o : Nat) (t : Tbl Bytes) : Tbl Bytes :=
  t.filterMap (fun p => if p.1 + p.2.length ≤ o then none else if p.1 < o then some (o, p.2.drop (o - p.1)) else some p)

/-- The prefix whose every write returned OK, kept at key 0, swallows the writes that now touch it. -/
def joinOk : Nat → Tbl Nat → Nat → Tbl Nat
  | 0, t, p => Tbl.set 0 t 0 p
  | fuel + 1, t, p =>
    let n := Tbl.get 0 t p
    if p ≠ 0 ∧ n ≠ 0 then joinOk fuel (Tbl.del t p) (p + n) else Tbl.set 0 t 0 p

/-- A write of n bytes at an offset returned OK. -/
def okWrite (t : Tbl Nat) (off n : Nat) : Tbl Nat :=
  let p := Tbl.get 0 t 0
  if off = p then joinOk t.length (Tbl.del t 0) (p + n) else Tbl.set 0 t off n

/-- MOVED (R257). -/
def Dch.moved (x : Dch) : Nat := Tbl.get 0 x.okW 0

/-! ## Beats (R260, R262) -/

/-- The read beats of a channel that are outstanding. -/
def State.dmaReads (s : State) (c : Nat) : Nat :=
  (s.fab.xfers.filter (fun x => !x.dropped && (match x.kind with | .dmaRead d _ => d == c | _ => false))).length

/-- The channel can use a read beat: it runs, has bytes left to ask for, its buffer has room for them, and fewer than 32 read beats
are outstanding (R260). -/
def State.canRead (s : State) (c : Nat) : Bool :=
  let x := s.dch c
  x.st == .running && x.failed.isNone && decide (x.rdOff < s.dchLen c) &&
    decide (x.rdOff - x.wrOff + (s.readBeat c).2 ≤ 4096) && decide (s.dmaReads c < 32)

/-- The channel can use a write beat: its buffer holds the beat's data. -/
def State.canWrite (s : State) (c : Nat) : Bool :=
  let x := s.dch c
  x.st == .running && x.failed.isNone && decide (x.wrOff < s.dchLen c) &&
    decide ((s.writeBeat c).2 ≤ (runFrom x.wrOff x.buf).length)

/-- The channel that takes the next beat of a kind: the highest priority, and within it the holder for up to BURST beats,
then the next in rotation. -/
def State.pickDma (s : State) (can : Nat → Bool) (holder run : Nat) : Option Nat :=
  let cs := (List.range 16).filter can
  let top := cs.foldl (fun m c => max m (s.fld DCH_CFG.PRIO c)) 0
  let cs := cs.filter (fun c => s.fld DCH_CFG.PRIO c == top)
  let burst := min 32 (max 1 (s.fld DMA_ARB.BURST 0))
  if cs.contains holder && decide (run < burst) then some holder
  else (cs.find? (fun c => decide (holder < c))) <|> cs.head?

def State.issueRead (s : State) (c : Nat) : State :=
  let x := s.dch c
  let (a, n) := s.readBeat c
  let s := { s with dma := { s.dma with rdRun := if s.dma.rdHolder = c then s.dma.rdRun + 1 else 1, rdHolder := c } }
  let s := s.setDch c { x with rdOff := x.rdOff + n, inRead := x.inRead + n }
  ((s.startRead (.dmaRead c x.rdOff) (s.dchAttr c true false) a n none).2).perfCount 79 1

def State.issueWrite (s : State) (c : Nat) : State :=
  let x := s.dch c
  let (a, n) := s.writeBeat c
  let data := (runFrom x.wrOff x.buf).take n
  let s := { s with dma := { s.dma with wrRun := if s.dma.wrHolder = c then s.dma.wrRun + 1 else 1, wrHolder := c } }
  let bit := 2 ^ portOf a
  let s := s.setDch c { x with
    wrOff := x.wrOff + n, inWrite := x.inWrite + 1, buf := dropBelow (x.wrOff + n) x.buf
    ports := if x.ports / bit % 2 = 1 then x.ports else x.ports + bit }
  ((s.startWrite (.dmaWrite c x.wrOff n) (s.dchAttr c true false) a data none).2).perfCount 80 1

/-- Cycle by cycle one read beat and one write beat are given out, until no channel can use one; fuel bounds the cycles. -/
def State.pumpDma (s : State) : Nat → State
  | 0 => s
  | fuel + 1 =>
    match s.pickDma s.canRead s.dma.rdHolder s.dma.rdRun, s.pickDma s.canWrite s.dma.wrHolder s.dma.wrRun with
    | none, none => s
    | r, w =>
      let s := match r with | some c => s.issueRead c | none => s
      let s := match w with | some c => s.issueWrite c | none => s
      s.pumpDma fuel

/-- Beats for the 64 KiB that the buffers hold at most. -/
def State.dmaBeats (s : State) : State := s.pumpDma 140000

/-! ## The end of a transfer -/

/-- W3 of a transfer with a status (R257). -/
def State.dmaW3 (s : State) (c st : Nat) : W64 :=
  let x := s.dch c
  BitVec.ofNat 64 (st * 2 ^ 56 + b2n x.retried * 2 ^ 55 + x.moved)

/-- The status is due: in ring mode the write-back of W3 begins (R258). -/
def State.dmaStatus (s : State) (c st : Nat) : State :=
  let s := s.updDch c (fun x => { x with st := .ending, status := some st })
  if s.dchRing c then
    match (s.dch c).curIdx with
    | some i =>
      let s := s.updDch c (fun x => { x with wb := 1 })
      (s.startWrite (.dmaW3 c) (s.dchAttr c true false) (s.dchEntry c i + 24) (leBytes (s.dmaW3 c st).toNat 8) none).2
    | none => s
  else s

/-- The status of a transfer whose data is over. -/
def Dch.endStatus (x : Dch) : Nat := (x.refused).getD (if x.failed.isSome then stFabricError else stOk)

/-- Every write of the current transfer has its response: the barriers begin, or the status is due (R263, R264). -/
def State.dmaCheck (s : State) (c : Nat) : State :=
  let x := s.dch c
  if x.st ≠ .running || x.inWrite ≠ 0 || !(x.failed.isSome || x.wrOff == s.dchLen c) then s
  else if s.flag DCH_CUR_CTL.BARRIER c && x.ports != 0 then
    let ps := (List.range 4).filter (fun p => bitAt x.ports p)
    let s := s.setDch c { x with st := .ending, barriers := ps.length }
    ps.foldl (fun s p => s.startBarrier (.dmaBarrier c) (s.dchAttr c false false) p) s
  else s.dmaStatus c x.endStatus

/-- The copied transfer is judged and runs, or ends with its refusal (R259). -/
def State.dmaStart (s : State) (c : Nat) : State :=
  match s.dmaRefusal c with
  | some st => (s.updDch c (fun x => { x with refused := some st })).dmaStatus c st
  | none => s.dmaBeats

/-- The copy from shadow to current, if the shadow set is armed; otherwise the channel is IDLE (R256). While its producer P24 stalls
the engine takes no new transfer (R149). -/
def State.dmaCopy (s : State) (c : Nat) : State :=
  let x := s.dch c
  if !s.flag DCH_ARM.SHD_ARM c || !(s.hdr (dchPg c)).en || !s.isOn (dchPg c) || s.stalling 24 then
    s.setDch c { x with st := .idle, curIdx := none }
  else
    let s := s.setReg .DCH_CUR_CTL c (s.reg .DCH_SHD_CTL c)
    let s := s.setReg .DCH_CUR_SRC c (s.reg .DCH_SHD_SRC c)
    let s := s.setReg .DCH_CUR_DST c (s.reg .DCH_SHD_DST c)
    let s := (((s.setReg .DCH_SHD_CTL c 0).setReg .DCH_SHD_SRC c 0).setReg .DCH_SHD_DST c 0).putFlag DCH_ARM.SHD_ARM c false
    let s := s.setDch c {
      st := .running, curIdx := x.shdIdx, polling := x.polling, w0 := x.shdW0, bad := x.shdBad
      x2dSrc := s.reg .DCH_X2D_SRC c, x2dDst := s.reg .DCH_X2D_DST c
      twoD := s.fld DCH_CUR_CTL.SRC_MODE c == 2 || s.fld DCH_CUR_CTL.DST_MODE c == 2 }
    s.dmaStart c

/-- SHD_ARM is 1: an IDLE channel starts the copy. -/
def State.dmaArmed (s : State) (c : Nat) : State := if (s.dch c).st == .idle then s.dmaCopy c else s

/-- Channels that waited for producer P24 copy their armed shadow sets (R149). -/
def State.dmaGoOn (s : State) : State :=
  if s.stalling 24 then s
  else (List.range 16).foldl (fun s c => if s.flag DCH_ARM.SHD_ARM c then s.dmaArmed c else s) s

/-- An error goes into DCH_ERR (R270). -/
def State.dchError (s : State) (c kind : Nat) : State :=
  let s := if s.flag DCH_ERR.VALID c then s else (s.putFlag DCH_ERR.VALID c true).put DCH_ERR.KIND c kind
  s.bump DCH_ERR.COUNT c 1

/-- The transfer has ended: its status shows, its vectors count, and the channel goes on or halts (R256, R264, R268). -/
def State.dmaEnds (s : State) (c : Nat) : State :=
  let x := s.dch c
  match x.status with
  | none => s
  | some st =>
    let s := s.setReg .DCH_LAST c (s.dmaW3 c st)
    let s := s.put DCH_STS.ENDED c ((s.fld DCH_STS.ENDED c + 1) % 65536)
    let h := s.hdr (dchPg c)
    let s := if h.ownerValid then (s.fnCount h.ownerFunc.toNat 31 x.moved).fnCount h.ownerFunc.toNat 32 1 else s
    let s := s.setDch c { x with status := none, wb := 0, buf := [], twoD := false }
    if st = stOk then
      let s := if s.flag DCH_CUR_CTL.IRQ c then (s.raiseEvent (dchPg c) 0).pushEvent (128 + c) else s
      s.dmaCopy c
    else
      let s := s.dchError c (match x.refused, x.failed with | some _, _ => 4 | none, some true => 2 | none, _ => 1)
      let s := (s.raiseFault (dchPg c) 8).pushEvent (144 + c)
      s.updDch c (fun x => { x with st := .halted, curIdx := none })

/-- The status of a finished transfer is written (R256): in register mode to DCH_LAST_c, in ring mode once the write-back
of W0 has its response. -/
def State.dmaTransferEnd (s : State) (c : Nat) : State :=
  if s.dchRing c then
    match s.takeMail (fun k => k == .dmaW0 c) with
    | some (_, s) => s.dmaEnds c
    | none => s
  else if (s.dch c).st == .ending then s.dmaEnds c
  else s

/-! ## What comes back from the fabric -/

/-- A beat or a barrier succeeded on its retry (R264). -/
def State.dmaRetried (s : State) (c : Nat) (x : Xfer) : State :=
  if x.retried && x.failed.isNone then (s.updDch c (fun y => { y with retried := true })).transient (dchPg c) else s

/-- A beat failed its retry: the transfer stops and discards its buffer (R264). -/
def State.dmaBeatFails (s : State) (c : Nat) (write : Bool) : State :=
  let s := s.lasting (dchPg c)
  let s := s.dropXfers (fun k => match k with | .dmaRead d _ => d == c | _ => false)
  (s.updDch c (fun x => { x with failed := x.failed <|> some write, buf := [], inRead := 0 }))

/-- A read beat has ended. -/
def State.dmaReadEnds (s : State) (c off : Nat) (x : Xfer) : State :=
  let s := s.dmaRetried c x
  if x.failed.isSome then (s.dmaBeatFails c false).dmaCheck c
  else
    let b := x.bytes
    (s.updDch c (fun y => { y with buf := Tbl.ins y.buf off b, inRead := y.inRead - b.length })).dmaBeats

/-- A write beat has ended. -/
def State.dmaWriteEnds (s : State) (c off n : Nat) (x : Xfer) : State :=
  let s := s.dmaRetried c x
  let s := s.updDch c (fun y => { y with
    inWrite := y.inWrite - 1, okW := if x.failed.isSome then y.okW else okWrite y.okW off n })
  let s := if x.failed.isSome then s.dmaBeatFails c true else s
  (s.dmaCheck c).dmaBeats

/-- A barrier has ended; with the last one the status is due (R263). -/
def State.dmaBarrierEnds (s : State) (c : Nat) (x : Xfer) : State :=
  let s := s.dmaRetried c x
  let s := if x.failed.isSome then s.dmaBeatFails c true else s
  let s := s.updDch c (fun y => { y with barriers := y.barriers - 1 })
  if (s.dch c).barriers = 0 then s.dmaStatus c (s.dch c).endStatus else s

/-- W3 is written: the write-back of W0 begins, with OWN clear (R258). Answers whether the channel is to be FENCED, because
a write-back failed its retry (R264). -/
def State.dmaW3Ends (s : State) (c : Nat) (x : Xfer) : Bool × State :=
  if x.failed.isSome then (true, s)
  else
    let s := if x.retried then s.transient (dchPg c) else s
    match (s.dch c).curIdx with
    | some i =>
      let s := s.updDch c (fun y => { y with wb := 2 })
      (false, (s.startWrite (.dmaW0 c) (s.dchAttr c false true) (s.dchEntry c i)
        (leBytes ((s.dch c).w0.toNat % 2 ^ 63) 8) none).2)
    | none => (false, s)

/-- W0's write has ended: it waits for DMA_TRANSFER_END, or the channel is to be FENCED. -/
def State.dmaW0Ends (s : State) (c : Nat) (x : Xfer) : Bool × State :=
  if x.failed.isSome then (true, s) else (false, (if x.retried then s.transient (dchPg c) else s).post x)

/-- What a failed write-back leaves beside the fence: its transfer is over and cannot report, so that a channel that goes down reaches
the end of its shut-down (R37, R264, R268). -/
def State.dmaWbFail (s : State) (c : Nat) : State :=
  (((s.lasting (dchPg c)).dchError c 3).raiseFault (dchPg c) 9).updDch c (fun x => { x with
    st := .halted, status := none, wb := 0, curIdx := none })

/-! ## Rings (R258) -/

/-- The channel reads the entry at its head. Polling stops when sleep is entered (R267). -/
def State.dmaPoll (s : State) (c : Nat) : State :=
  let x := s.dch c
  let i := s.fld DCH_RING_HEAD.INDEX c
  if !s.dchRing c || s.flag DCH_ARM.SHD_ARM c || x.st == .halted || x.polling.isSome || x.curIdx == some i ||
      !s.isOn (dchPg c) || s.pwr.phase != .awake then s
  else
    (s.setDch c { x with polling := some i }).startRead (.dmaDesc c) (s.dchAttr c true false) (s.dchEntry c i) 32 none |>.2

/-- The poll interval has passed; POLL = 0 polls only on KICK. -/
def State.dmaRingPoll (s : State) (c : Nat) : State := if s.fld DCH_CFG.POLL c = 0 then s else s.dmaPoll c

/-- The read of a descriptor that is under way is dropped. Answers whether there was one. -/
def State.dmaUnpoll (s : State) (c : Nat) : Bool × State :=
  ((s.dch c).polling.isSome,
    (s.dropXfers (fun k => match k with | .dmaDesc d => d == c | _ => false)).updDch c (fun x => { x with polling := none }))

/-- The ring has been moved: a read of the entry at the old head is dropped, and the entry at the new one read instead. -/
def State.dmaRepoll (s : State) (c : Nat) : State :=
  let (was, s) := s.dmaUnpoll c
  if was then s.dmaPoll c else s

/-- A descriptor has been read: an owned one fills the shadow set, and the head advances. -/
def State.dmaDescEnds (s : State) (c : Nat) (x : Xfer) : State :=
  let i := (s.dch c).polling.getD 0
  let s := s.updDch c (fun y => { y with polling := none })
  if x.failed.isSome then s.lasting (dchPg c)
  else
    let s := if x.retried then s.transient (dchPg c) else s
    let w (k : Nat) : W64 := BitVec.ofNat 64 (leNat (slice x.bytes (8 * k) 8))
    let w0 := w 0
    if fget w0 63 63 = 0 then s
    else
      let bad := fget w0 60 60 != 0 || fget w0 55 32 != 0 || fget (w 3) 54 32 != 0
      let s := ((s.setReg .DCH_SHD_CTL c (dchCtl w0)).setReg .DCH_SHD_SRC c (w 1)).setReg .DCH_SHD_DST c (w 2)
      let s := s.put DCH_RING_HEAD.INDEX c ((i + 1) % s.dchSize c)
      let s := (s.updDch c (fun y => { y with shdIdx := some i, shdW0 := w0, shdBad := bad })).putFlag DCH_ARM.SHD_ARM c true
      s.dmaArmed c

/-! ## Commands (R264–R266) -/

/-- RESUME (R264): the channel is IDLE, and an armed shadow is copied. -/
def State.dmaResume (s : State) (c : Nat) : State :=
  if (s.dch c).st == .halted then (s.updDch c (fun x => { x with st := .idle })).dmaCopy c else s

/-- The accesses of a channel. -/
def ofDch (c : Nat) (k : XKind) : Bool :=
  match k with
  | .dmaRead d _ | .dmaWrite d _ _ | .dmaDesc d | .dmaW3 d | .dmaW0 d | .dmaBarrier d => d == c
  | _ => false

/-- Everything of a channel is dropped at once and both sets are zeroed (R265, R267). -/
def State.dmaDrop (s : State) (c : Nat) : State :=
  let s := s.dropXfers (ofDch c)
  let s := ((s.setReg .DCH_SHD_CTL c 0).setReg .DCH_SHD_SRC c 0).setReg .DCH_SHD_DST c 0
  let s := ((s.setReg .DCH_CUR_CTL c 0).setReg .DCH_CUR_SRC c 0).setReg .DCH_CUR_DST c 0
  (s.putFlag DCH_ARM.SHD_ARM c false).setDch c { movedFree := (s.dch c).movedFree }

/-- The running transfer is abandoned with everything else; MOVED is undefined until the next one starts (R265, R267). -/
def State.dmaAbandon (s : State) (c : Nat) : State :=
  let (n, s) := s.dmaDrop c |>.takeFree
  s.updDch c (fun y => { y with movedFree := some n })

/-- A channel in ring mode that is about to drop everything: a transfer whose write-back has returned has ended first (R266), and the
head goes back to the entry that was running, or to the one whose copy sat in the shadow set (R265). -/
def State.dmaHeadBack (s : State) (c : Nat) : State :=
  if !s.dchRing c then s
  else
    let s := s.dmaTransferEnd c
    let x := s.dch c
    match x.curIdx <|> (if s.flag DCH_ARM.SHD_ARM c then x.shdIdx else none) with
    | some i => s.put DCH_RING_HEAD.INDEX c i
    | none => s

/-- DISABLE (R265). -/
def State.dmaDisable (s : State) (c : Nat) : State := (s.dmaHeadBack c).dmaAbandon c

/-- A tamper response drops a channel as DISABLE does (R267, R323); CUR_MOVED of one that ran is undefined. -/
def State.dmaTampered (s : State) (c : Nat) : State :=
  let s := s.dmaHeadBack c
  if s.dchQuiet c then s.dmaDrop c else s.dmaAbandon c

end Sys2Proof.Machine
end

