-- ==== Sys2Proof/Machine/Hatband.lean ====
section
/-! DEFINITION. The Hatband: cells and their forwarding, addresses, chain time, epochs and messages (R136–R146 of
06_hitless_rekey.md, R271–R291 of 13_hatband_chain.md). -/

namespace Sys2Proof.Machine

/-! ## Cells (R274–R277) -/

/-- Byte i of a cell. -/
def cellByte (c : Cell) (i : Nat) : Nat := c.toNat / 2 ^ (8 * i) % 256

/-- The n bytes from byte i of a cell as a little-endian number. -/
def cellNum (c : Cell) (i n : Nat) : Nat := c.toNat / 2 ^ (8 * i) % 2 ^ (8 * n)

/-- A cell with n bytes from byte i replaced. -/
def cellPut (c : Cell) (i n v : Nat) : Cell := BitVec.ofNat 112 (putBits c.toNat (8 * (i + n) - 1) (8 * i) v)

/-- The CRC of a cell (R275). -/
def cellCrc (c : Cell) : BitVec 16 := BitVec.ofNat 16 (crc16 0xFFFF (leBytes c.toNat 14))

/-- The transceiver has a line to receive on: PD0 is up and hb_in is in sync. -/
def State.hbLive (s : State) : Bool := s.tile.st != .powerOff && s.hb.upSync

/-- An ENUM cell would give this tile its address (R278). -/
def State.enumTakes (s : State) (c : Cell) : Bool :=
  s.tile.addr.isNone && !s.hb.bypass && decide (cellByte c 1 ≤ 63)

/-- What hb_out carries between cells (R272). -/
inductive HbLine where
  /-- electrical idle (R296) -/
  | electricalIdle
  | idle
  | hold
deriving DecidableEq, Repr

/-- The Hatband transmitter runs on a qualified SBOSC/4 (R283, R297 step 3). -/
def State.txOnSbosc (s : State) : Bool := s.clk.sbOk && (s.hb.holdover || s.clk.ref == .sbosc)

/-- What hb_out carries between cells: electrical idle without PD0, and from a trip of HBREF until the transmitter has a qualified
clock; HOLD in holdover, and IDLE otherwise (R274, R283, R288, R296). -/
def State.hbLine (s : State) : HbLine :=
  if s.tile.st == .powerOff || (s.clk.monBad.getLsbD 0 && !s.txOnSbosc) then .electricalIdle
  else if s.holdover || s.clk.monBad.getLsbD 0 then .hold
  else .idle

/-- The cell as the tile forwards it (R274, R278, R280): ENUM's address and the hop count and delay of TIME and LOOP change. The
characters by which the elastic buffer holds it are part of the delay (R284). -/
def State.hbForward (s : State) (c : Cell) : Cell :=
  if cellByte c 0 = 1 then (if s.enumTakes c then cellPut c 1 1 (cellByte c 1 + 1) else c)
  else if cellByte c 0 = 3 ∨ cellByte c 0 = 4 then
    cellPut (cellPut c 1 1 ((cellByte c 1 + 1) % 256)) 10 3
      ((cellNum c 10 3 + s.fld HB_WIRE_IN.DELAY 0 + 1536 + 128 * s.hb.elastic) % 2 ^ 24)
  else c

/-- A cell goes out on hb_out with its CRC, unless that is at electrical idle. -/
def State.hbSend (s : State) (c : Cell) : State :=
  if s.hbLine == .electricalIdle then s else { s with hb := { s.hb with out := some (c, cellCrc c) } }

/-- A cell arrives, to be forwarded. Behind a cell of the tile's own that is going out it is held for at most 17 characters, and
behind a held one for at most as long as that (R284). How long is free: the commands do not say when they fall within a cell
(log 25). -/
def State.elasticTake (s : State) : State :=
  let most := if s.hb.sending.isSome then 17 else s.hb.elastic
  if most = 0 then s
  else
    let (k, s) := s.takeFree
    { s with hb := { s.hb with sending := none, elastic := (Config.freeValue 64 k).toNat % (most + 1) } }

/-- A cell that arrives is forwarded (R274). -/
def State.hbPass (s : State) (c : Cell) : State :=
  let s := s.elasticTake
  s.hbSend (s.hbForward c)

/-- A cell that arrives is forwarded stomped (R275). -/
def State.hbStomp (s : State) (c : Cell) : State :=
  let s := s.elasticTake
  let f := s.hbForward c
  if s.hbLine == .electricalIdle then s else { s with hb := { s.hb with out := some (f, cellCrc f ^^^ 0xFFFF) } }

def State.hbIgnored (s : State) : State := s.bump HB_CNT.IGNORED 0 1

/-- The address of the tile as a number. -/
def State.addrNum (s : State) : Option Nat := s.tile.addr.map (·.toNat)

/-- For the address-bearing types: whether byte 1 may be the tile's address, and whether it may be 0xFF (R276). -/
def cellAddrs (t : Nat) : Bool × Bool :=
  if t = 0x07 then (false, true) else if t = 0x0A then (true, false) else (true, true)

/-- The kind of a cell is enabled (R277, R138). -/
def State.cellEnabled (s : State) (t : Nat) : Bool :=
  if t = 0x07 then s.flag HB_XCELL.ZEROIZE_EN 0
  else if t = 0x08 then s.flag HB_CELL_EN.SLEEP_ALL 0
  else if t = 0x09 then s.flag HB_CELL_EN.WAKE 0
  else if t = 0x0A then s.flag HB_CELL_EN.BYPASS_SET 0
  else if t = 0x0B then s.flag HB_CELL_EN.MSG 0
  else true

/-- Byte 2 and the reserved bytes of an address-bearing cell are as R276 has them. -/
def cellFields (c : Cell) : Bool :=
  let t := cellByte c 0
  let b2 := cellByte c 2
  let origin := decide (b2 ≤ 63) || b2 == 0xFE
  if t = 0x05 then cellNum c 6 8 == 0
  else if t = 0x06 then true
  else if t = 0x07 then origin && cellNum c 3 11 == 0
  else if t = 0x08 then (b2 == 7 || b2 == 8) && cellNum c 3 11 == 0
  else if t = 0x09 then cellNum c 2 12 == 0
  else if t = 0x0A then decide (b2 ≤ 1) && cellNum c 3 11 == 0
  else origin

/-- A cell with a good CRC is received and forwarded. Answers whether the tile acts on it (R277, R286). -/
def State.hbReceive (s : State) (c : Cell) : Bool × State :=
  if !s.hbLive then (false, s)
  else
    let t := cellByte c 0
    let b1 := cellByte c 1
    let s := s.hbPass c
    if s.hb.bypass then (t == 0x0A && s.addrNum == some b1 && cellNum c 2 12 == 0 && s.cellEnabled t, s)
    else if t = 0 ∨ 0x0B < t then (false, s.hbIgnored)
    else if t ≤ 4 then (true, s)
    else
      let own := s.addrNum == some b1
      let ok := cellAddrs t
      if b1 ≠ 0xFF ∧ !own then (false, if 63 < b1 ∨ t = 0x07 then s.hbIgnored else s)
      else if !((own && ok.1) || (b1 == 0xFF && ok.2)) then (false, s.hbIgnored)
      else if !s.cellEnabled t || !cellFields c then (false, s.hbIgnored)
      else (true, s)

/-! ## Addresses (R278, R279) -/

/-- A tile in ADDRESSED with CPLL and FPLL locked enters CLOCKED (R293). -/
def State.clocked (s : State) : State :=
  if s.tile.st == .addressed && s.clk.lock.getLsbD 0 && s.clk.lock.getLsbD 1 then s.enterTile .clocked else s

/-- ENUM: a tile without an address takes byte 1. The decision is the one that the forwarded byte shows. -/
def State.hbEnum (s : State) (c : Cell) : State :=
  if !s.enumTakes c then s
  else
    let s := if s.tile.renumbered then s.putFlag TILE_RESET_CAUSE.RENUM 0 true else s
    let s := { s with
      tile := { s.tile with addr := some (BitVec.ofNat 6 (cellByte c 1)), renumbered := false }
      hb := { s.hb with mustStep := true } }
    let s := if s.tile.st == .aoOnly then (s.enterTile .addressed).clocked else s
    s.raiseEvent (pg .hatband) 0

/-- Every expert lock closes (R36). -/
def State.closeLocks (s : State) : State :=
  s.hdrs.foldl (fun s p => if (s.hdrAt p.1).lock == .closed then s else s.setHdrAt p.1 { s.hdrAt p.1 with lock := .closed }) s

/-- RENUM: the address is cleared and every expert lock closes. -/
def State.hbRenum (s : State) : State :=
  let s := { s with tile := { s.tile with addr := none, renumbered := s.tile.renumbered || s.tile.addr.isSome } }
  let s := s.closeLocks
  if s.tile.st == .addressed then s.enterTile .aoOnly else s

/-! ## Epochs (R136–R142) -/

/-- EPOCH_MISSED (R146). -/
def State.epochMissed (s : State) : State := s.raiseEvent (pg .hatband) 14

/-- E becomes the pending epoch (R138). -/
def State.epochPend (s : State) (e : Nat) : State :=
  let s := { s with epoch := { s.epoch with pend := e, pending := true } }
  (s.put EPOCH_ARMED.COUNT 0 0).raiseEvent (pg .hatband) 12

/-- An arm or a schedule is presented, by a cell or by the administrator: the first row of R138 that applies. Answers
whether it was refused. -/
def State.epochAsk (s : State) (flip : Bool) (e t src : Nat) : Bool × State :=
  let refused : Bool × State := (true, s.putFlag EPOCH_STS.CELL_REFUSED 0 true)
  let same := e == s.epoch.pend && (!flip || t == s.fld EPOCH_TIME.TIME 0)
  if e ≤ s.fld EPOCH_CUR.EPOCH 0 then refused
  else if s.epochClosed && !same then refused
  else if flip && decide (t ≤ s.now) then (true, (s.putFlag EPOCH_STS.CELL_LATE 0 true).epochMissed)
  else if s.epoch.scheduled && e != s.epoch.pend then refused
  else
    let known := e == s.epoch.pend && s.epoch.pending
    let s := if known then s else s.epochPend e
    if flip then
      (false, { s.put EPOCH_TIME.TIME 0 t with epoch := { s.epoch with scheduled := true, src := src } })
    else (false, s)

/-- An EPOCH_ARM or EPOCH_FLIP cell (R137, R138). -/
def State.epochCell (s : State) (c : Cell) : State :=
  if s.flag EPOCH_CTL.CELL_EN 0 then (s.epochAsk (cellByte c 0 == 0x06) (cellNum c 2 4) (cellNum c 6 8) 1).2 else s

/-- ARM and SCHED of EPOCH_CTL (R139): the stored value is E. -/
def State.epochArm (s : State) (flip : Bool) : State :=
  let (bad, s) := s.epochAsk flip s.epoch.stored (s.fld EPOCH_TIME.TIME 0) 2
  if bad then s.seq (pg .hatband) else s

/-- CANCEL (R139). -/
def State.epochCancel (s : State) : State :=
  if s.epochClosed then s.seq (pg .hatband)
  else { s with epoch := { s.epoch with pending := false, scheduled := false, src := 0 } }

/-- Chain time counts nanoseconds, and in steps of 8 ns while no quad of the tile runs (R136). -/
def State.timeStep (s : State) : Nat :=
  if (List.range 4).any (fun q => s.blk ⟨.quad, q⟩ != .off && s.clk.lock.getLsbD (2 + q)) then 1 else 8

/-- Nanoseconds to the first count of chain time that is t or later. -/
def State.nanosTo (s : State) (t : Nat) : Nat := (t - s.now + s.timeStep - 1) / s.timeStep * s.timeStep

/-- Chain time stands at the first count that is t nanoseconds or later. -/
def State.countReaches (s : State) (t : Nat) : State :=
  { s with hb := { s.hb with time := s.hb.time + 16 * s.nanosTo t } }

/-- What n nanoseconds take off a difference that is slewed, in 1/16 ns, and the nanoseconds they leave counted towards the next
step: 1 ns per 1,024 ns (R282). -/
def slewOver (slew : Int) (acc n : Nat) : Int × Nat :=
  if slew = 0 then (0, 0)
  else
    let k : Int := ((16 * ((acc + n) / 1024) : Nat) : Int)
    (max (-k) (min k slew), (acc + n) % 1024)

/-- Chain time stands at the first count that is t nanoseconds or later. The time that passes until then absorbs a slew, counts in
units of 32 QCLK cycles and ages the last TIME cell (R280, R282, R291); a cell of the tile's own and one held behind it have left
within 34 characters (R284). -/
def State.timeReaches (s : State) (t : Nat) : State :=
  let n := s.nanosTo t
  let (d, acc) := slewOver s.hb.slew s.hb.slewAcc n
  let u := (s.hb.nanos + n) / 1000
  let r := s.countReaches t
  let r := { r with hb := { r.hb with
    slew := s.hb.slew - d, slewAcc := acc, ticks := s.hb.ticks + u, nanos := (s.hb.nanos + n) % 1000
    sending := if n < 272 then s.hb.sending else none, elastic := if n < 272 then s.hb.elastic else 0 } }
  r.bump HB_TIME_INFO.AGE 0 u

/-- Chain time has reached T − guard (R140). -/
def State.guardClose (s : State) : State :=
  if s.epoch.scheduled then s.timeReaches (s.fld EPOCH_TIME.TIME 0 - s.epochGuard) else s

/-- At the first count that is T or later a scheduled flip takes effect, or is held in holdover (R136, R141, R142). -/
def State.flipTaken (s : State) : State :=
  if s.holdover && s.flag EPOCH_CTL.HOLD_POLICY 0 then
    let s := { s with epoch := { s.epoch with scheduled := false, src := 0 } }
    ((s.putFlag EPOCH_STS.HELD 0 true).bump EPOCH_MISS.HELD_FLIPS 0 1).epochMissed
  else
    let s := (s.put EPOCH_CUR.EPOCH 0 s.epoch.pend).put EPOCH_LAST.TIME 0 s.now
    let s := { s with epoch := { s.epoch with pending := false, scheduled := false, src := 0 } }
    let s := s.putFlag EPOCH_STS.LAST_HOLDOVER 0 s.holdover
    let s := s.raiseEvent (pg .hatband) 13
    let short := s.fld EPOCH_EXPECT.COUNT 0 != 0 && decide (s.fld EPOCH_ARMED.COUNT 0 < s.fld EPOCH_EXPECT.COUNT 0)
    let s := s.putFlag EPOCH_STS.LAST_SHORT 0 short
    if short then s.epochMissed else s

/-- Chain time has reached T. -/
def State.epochFlipDue (s : State) : State :=
  if s.epoch.scheduled then (s.timeReaches (s.fld EPOCH_TIME.TIME 0)).flipTaken else s

/-! ## Chain time (R280–R283) -/

/-- A signed byte. -/
def signed8 (b : Nat) : Int := if b < 128 then b else (b : Int) - 256

/-- The chain time that a TIME cell gives for its arrival, in 1/16 ns (R280). -/
def State.cellTime (s : State) (c : Cell) : Nat :=
  let hops : Int := cellByte c 1 + 1
  let sum : Int := cellNum c 2 8 * 16 + cellNum c 10 3 + s.fld HB_WIRE_IN.DELAY 0 + hops * signed8 (cellByte c 13)
  (sum % (2 ^ 68 : Int)).toNat

/-- A difference of chain times in ns, signed, in 32 bits, saturating (R291). -/
def stepField (d : Int) : Nat :=
  let n := Int.tdiv d 16
  let n := max (-(2 ^ 31)) (min (2 ^ 31 - 1) n)
  (n % (2 ^ 32 : Int)).toNat

/-- A scheduled flip whose time chain time has passed is due (R142). -/
def State.flipIfPassed (s : State) : State :=
  if s.epoch.scheduled && Nat.ble (s.fld EPOCH_TIME.TIME 0) s.now then s.epochFlipDue else s

/-- A TIME cell is acted on (R282, R283). A step across a scheduled flip takes the flip (R142). -/
def State.hbTime (s : State) (c : Cell) : State :=
  let t := s.cellTime c
  let d : Int := (t : Int) - s.hb.time
  let ends := s.holdover && !s.hb.holdLine
  let step := s.hb.mustStep || ends || decide (16 * s.fld HB_XTIME.STEP_LIM 0 < d.natAbs)
  let s := { s with hb := { s.hb with
    mustStep := false, timed := true, stale := false, slewAcc := 0
    time := if step then t else s.hb.time
    slew := if step then 0 else d
    inherited := s.hb.inherited && !ends
    holdover := s.hb.holdover && !ends } }
  let s := ((s.put HB_TIME_INFO.HOP 0 (cellByte c 1 + 1)).put HB_TIME_INFO.CORR 0 (cellByte c 13)).put HB_TIME_INFO.AGE 0 0
  if step then
    let s := ((s.put HB_TIME_STEP.STEP 0 (stepField d)).bump HB_CNT.STEPS 0 1).raiseEvent (pg .hatband) 1
    s.flipIfPassed
  else s

/-- What 1,000 ns add to the count under a slew, in 1/16 ns (R282). -/
def slewStep (slew : Int) (acc : Nat) : Int × Nat := slewOver slew acc 1000

/-- 32 QCLK cycles, 1,000 ns, pass in which nothing else happens: chain time runs on (R280, R282), a scheduled flip whose time it
passes is taken at the first count that reaches it (R136), and the age of the last TIME cell counts (R291). -/
def State.tick (s : State) : State :=
  if s.tile.st == .powerOff then s
  else
    let (d, acc) := slewStep s.hb.slew s.hb.slewAcc
    let t := s.hb.time + (16000 + d).toNat
    let n := s.hb.ticks + 1
    let s :=
      if s.epoch.scheduled && decide (16 * s.fld EPOCH_TIME.TIME 0 ≤ t) then
        (s.countReaches (s.fld EPOCH_TIME.TIME 0)).flipTaken
      else s
    let s := { s with hb := { s.hb with
      time := max t s.hb.time % 2 ^ 68, slew := s.hb.slew - d, slewAcc := acc, ticks := n, sending := none, elastic := 0 } }
    s.bump HB_TIME_INFO.AGE 0 1

/-- No TIME cell has been acted on for STALE (R282). -/
def State.timeStale (s : State) : State :=
  if s.tile.st == .powerOff || s.fld HB_XTIME.STALE 0 == 0 then s else { s with hb := { s.hb with stale := true } }

/-! ## The line (R273, R283) -/

/-- Upstream loss may cut off a cell: it is completed on hb_out with data padding and a stomped CRC (R275). The command does not
tell whether one is under way, nor what of it has come in; both are free, as the padding is (DESIGN CHOICE, log 25). -/
def State.cellCut (s : State) : State :=
  let (k, s) := s.takeFree
  let v := Config.freeValue 113 k
  if v.getLsbD 112 then s.hbStomp (v.setWidth 112) else s

/-- Upstream loss, between cells or within one (R273, R275, R290). -/
def State.upLoss (s : State) : State :=
  if s.tile.st == .powerOff then s
  else
    let s := if s.hbLive then s.cellCut else s
    ({ s with hb := { s.hb with upSync := false } }).raiseFault (pg .hatband) 8

/-- Sync on hb_in is back, on IDLE unless HOLD is received after it. -/
def State.upSynced (s : State) : State :=
  if s.tile.st == .powerOff then s else { s with hb := { s.hb with upSync := true, holdLine := false } }

/-- The far-end termination of hb_out is checked. -/
def State.termCheck (s : State) (present : Bool) : State :=
  if s.tile.st == .powerOff then s
  else
    let s := { s with hb := { s.hb with downTerm := present } }
    if present then s else s.raiseFault (pg .hatband) 9

/-- HOLD arrives on hb_in: inherited holdover. -/
def State.holdIn (s : State) : State :=
  if s.hbLive then { s with hb := { s.hb with holdLine := true, inherited := true } } else s

/-- A cell whose CRC fails, and that is not stomped (R275). -/
def State.cellCrcFail (s : State) (c : Cell) (crc : BitVec 16) : State :=
  if s.hbLive && crc != cellCrc c && crc != cellCrc c ^^^ 0xFFFF then
    ((s.hbStomp c).bump HB_CNT.CRC_ERR 0 1).raiseFault (pg .hatband) 10
  else s

/-- A stomped cell (R275). -/
def State.cellStomped (s : State) (c : Cell) : State :=
  if s.hbLive then (s.hbStomp c).bump HB_CNT.STOMPED 0 1 else s

/-! ## Cells of the tile's own, bypass and messages (R284–R287) -/

/-- The tile's own ZEROIZE_ALL (R285). -/
def State.ownZeroize (s : State) : Cell := BitVec.ofNat 112 (0x07 + 0xFF * 2 ^ 8 + (s.addrNum.getD 0) * 2 ^ 16)

/-- The tile originates a ZEROIZE_ALL; a tile in bypass originates nothing. At most one cell of its own waits: it takes the place
of one that does, which is counted (R284). DESIGN CHOICE (log 119). -/
def State.originateZeroize (s : State) : State :=
  if s.hb.bypass then s
  else
    let s := if s.hb.own.isSome then s.hbIgnored else s
    { s with hb := { s.hb with own := some s.ownZeroize } }

/-- The tile's own cell can start: its elastic buffer is empty, and hb_out is driven and carries no cell of its own. A cell that
has arrived whole has no start character left in the forwarding path (R284). -/
def State.ownMayStart (s : State) : Bool :=
  s.tile.st != .powerOff && !s.hb.bypass && s.hb.elastic == 0 && s.hb.sending.isNone && s.hbLine != .electricalIdle

/-- The cell that waits goes out on hb_out (R284); it is going out until time passes or another cell arrives. -/
def State.ownSend (s : State) : State :=
  match s.hb.own with
  | none => s
  | some c =>
    if s.ownMayStart then
      let s := s.hbSend c
      { s with hb := { s.hb with own := none, sending := some c } }
    else s

/-- HB_MSG_TX_CTL.BUSY: a message waits, or its last character has not left hb_out (R287). -/
def State.msgBusy (s : State) : Bool :=
  let isMsg (c : Cell) : Bool := cellByte c 0 == 0x0B
  s.hb.own.any isMsg || s.hb.sending.any isMsg

/-- GO of HB_MSG_TX_CTL (R287): BUSY or a destination outside the table refuses it; in bypass nothing is originated, and beside
a ZEROIZE_ALL that waits no second cell is held (R284, log 119). -/
def State.msgGo (s : State) : State :=
  let dest := s.fld HB_MSG_TX_CTL.DEST 0
  if s.msgBusy || (decide (63 < dest) && dest != 0xFF) then s.seq (pg .hatband)
  else if s.hb.bypass then s.hbIgnored
  else
    let c : Cell := BitVec.ofNat 112 (0x0B + dest * 2 ^ 8 + (s.addrNum.getD 0) * 2 ^ 16 +
      s.fld HB_MSG_TX_DATA.DATA 0 * 2 ^ 24 + s.fld HB_MSG_TX_HI.DATA 0 * 2 ^ 88)
    match s.hb.own with
    | none => { s with hb := { s.hb with own := some c } }
    | some _ => s.hbIgnored

/-- A MSG that is acted on (R287). -/
def State.msgIn (s : State) (c : Cell) : State :=
  if 8 ≤ s.hb.rx.length then s.bump HB_MSG_RX_STS.DROPPED 0 1
  else ({ s with hb := { s.hb with rx := s.hb.rx ++ [c] } }).raiseEvent (pg .hatband) 2

/-- POP (R291). -/
def State.msgPop (s : State) : State := { s with hb := { s.hb with rx := s.hb.rx.drop 1 } }

/-- BYPASS_SET is acted on (R286). -/
def State.bypassSet (s : State) (enter : Bool) : State :=
  if enter then
    ({ s with hb := { s.hb with bypass := true, own := none } }).bump HB_CNT.IGNORED 0 (b2n s.hb.own.isSome)
  else { s with hb := { s.hb with bypass := false } }

end Sys2Proof.Machine
end

