-- ==== Sys2Proof/Machine/Framing.lean ====
section
/-! DEFINITION. What a lane does with the bytes of one frame: IVs, MACsec, ESP and the raw formats (R79–R88, R95). -/

namespace Sys2Proof.Machine

/-! ## Lane reasons (R95) -/

def rsnIcv : Nat := 0x01
def rsnSecTag : Nat := 0x02
def rsnIdentity : Nat := 0x03
def rsnLeft : Nat := 0x05
def rsnSeen : Nat := 0x06
def rsnSl : Nat := 0x07
def rsnTrailer : Nat := 0x08
def rsnSpace : Nat := 0x09
def rsnFabric : Nat := 0x0A
def rsnAux : Nat := 0x0B
def rsnFields : Nat := 0x0C

/-- The frame's outcome in a lane, before its commit. -/
structure Outcome where
  /-- STATUS -/
  status : Nat
  /-- REASON -/
  reason : Nat
  /-- the bytes written to DST; none where the failure was decided at c0–c7 or writes an undefined result -/
  out : Bytes := []
  /-- OUT_LEN -/
  outLen : Nat := 0
  /-- octets that S1 counts (R104) -/
  octets : Nat := 0
  /-- the failure was decided after c7: DST is undefined over the required length (R93) -/
  late : Bool := false
deriving DecidableEq, Repr

/-- A failure decided at c0–c7. -/
def early (status reason : Nat) : Outcome := { status := status, reason := reason }

/-- A failure decided later. -/
def lateFail (status reason : Nat) : Outcome := { status := status, reason := reason, late := true }

/-! ## IV and AEAD -/

/-- The IV of a frame (R79), its salt given most significant byte first. -/
def frameIv (c : Ctx) (salt : Bytes) (pn : Nat) : Bytes :=
  if isEsp c.suite then salt.take 4 ++ beBytes pn 8
  else if isRaw c.suite then xorBytes salt (zeros 4 ++ beBytes pn 8)
  else if isXpn c.suite then xorBytes salt (beBytes c.ssci.toNat 4 ++ beBytes pn 8)
  else beBytes c.sciSpi.toNat 8 ++ beBytes (pn % 2 ^ 32) 4

/-- Ciphertext and tag under the suite. -/
def aeadSeal (suite : Nat) (key iv aad p : Bytes) : Bytes × Bytes :=
  if isChacha suite then
    let c := chachaCrypt key iv p
    (c, chachaTag key iv aad c)
  else gcmSeal (aesKey suite key) iv aad p

/-- Plaintext under the suite, none if the tag differs. -/
def aeadOpen (suite : Nat) (key iv aad c tag : Bytes) : Option Bytes :=
  if isChacha suite then
    if chachaTag key iv aad c = tag then some (chachaCrypt key iv c) else none
  else gcmOpen (aesKey suite key) iv aad c tag

/-! ## MACsec (R81, R82) -/

/-- The confidentiality offset in bytes (R103); 0b11 is not used. -/
def Ctx.offset (c : Ctx) : Nat :=
  match c.confOffset with
  | 1 => 30 | 2 => 50 | _ => 0

/-- The TCI and AN byte of a protected frame. -/
def Ctx.tci (c : Ctx) (an : Nat) : Nat :=
  b2n c.es * 64 + b2n c.sc * 32 + b2n c.scb * 16 + b2n c.conf * 8 + b2n c.conf * 4 + an % 4

/-- The SecTAG of a protected frame. -/
def secTag (c : Ctx) (an pn n : Nat) : Bytes :=
  [0x88, 0xE5, BitVec.ofNat 8 (c.tci an), BitVec.ofNat 8 (if n < 48 then n else 0)] ++ beBytes (pn % 2 ^ 32) 4 ++
    (if c.sc then beBytes c.sciSpi.toNat 8 else [])

/-- The secure data split into what is sent in clear and what is encrypted. -/
def splitSecure (enc : Bool) (off : Nat) (b : Bytes) : Bytes × Bytes :=
  if enc then (b.take off, b.drop off) else (b, [])

/-- MACSEC_PROTECT. -/
def macsecProtect (c : Ctx) (key salt : Bytes) (an pn : Nat) (src : Bytes) : Outcome :=
  let addr := src.take 12
  let data := src.drop 12
  let tag := secTag c an pn data.length
  let (clear, enc) := splitSecure c.conf c.offset data
  let (ct, icv) := aeadSeal c.suite key (frameIv c salt pn) (addr ++ tag ++ clear) enc
  let out := addr ++ tag ++ clear ++ ct ++ icv
  { status := stOk, reason := 0, out := out, outLen := out.length, octets := data.length }

/-- A byte of a frame as a number. -/
def octet (b : Bytes) (i : Nat) : Nat := (b.getD i 0).toNat

/-- The length of the SecTAG that a received frame declares. -/
def tagLen (b : Bytes) : Nat := if bitAt (octet b 14) 5 then 16 else 8

/-- Check 1 of R82: the SecTAG's form. -/
def secTagBad (b : Bytes) : Bool :=
  let t := octet b 14
  octet b 12 != 0x88 || octet b 13 != 0xE5 || bitAt t 7 || bitAt t 3 != bitAt t 2 ||
    (bitAt t 5 && (bitAt t 6 || bitAt t 4))

/-- Check 2 of R82: the length of a frame of len bytes that begins with b. -/
def secLenBad (b : Bytes) (len : Nat) : Bool :=
  let sc := bitAt (octet b 14) 5
  let n := len - 12 - tagLen b - 16
  let sl := octet b 15
  (sc && decide (len < 44)) || decide (47 < sl) || (sl != 0 && sl != n) || (sl == 0 && decide (n < 48))

/-- Check 5 of R82: the identity. -/
def sciBad (c : Ctx) (b : Bytes) : Bool :=
  let t := octet b 14
  if bitAt t 5 then beNat (slice b 20 8) != c.sciSpi.toNat
  else bitAt t 6 && beNat (slice b 6 6 ++ [0x00, 0x01]) != c.sciSpi.toNat

/-- MACSEC_VALIDATE, by the checks of R82 in order. -/
def macsecValidate (c : Ctx) (key salt : Bytes) (pn : Nat) (d : Desc) (b : Bytes) : Outcome :=
  let t := octet b 14
  let tl := tagLen b
  if secTagBad b then early stAuthFail rsnSecTag
  else if secLenBad b b.length then early stLengthMismatch rsnSl
  else if d.dstLen < b.length - tl - 16 then early stOutputTooSmall rsnSpace
  else if t % 4 ≠ bitsOf d.aux0 33 32 ∨ beNat (slice b 16 4) ≠ bitsOf d.aux0 31 0 then early stAuthFail rsnAux
  else if sciBad c b then early stAuthFail rsnIdentity
  else
    let addr := b.take 12
    let tag := slice b 12 tl
    let data := slice b (12 + tl) (b.length - 12 - tl - 16)
    let icv := b.drop (b.length - 16)
    let (clear, enc) := splitSecure (bitAt t 3) c.offset data
    match aeadOpen c.suite key (frameIv c salt pn) (addr ++ tag ++ clear) enc icv with
    | none => lateFail stAuthFail rsnIcv
    | some p =>
      let out := addr ++ clear ++ p
      { status := stOk, reason := 0, out := out, outLen := out.length, octets := data.length }

/-! ## ESP (R85, R86) -/

/-- The AAD of an ESP packet. -/
def espAad (c : Ctx) (seq : Nat) : Bytes :=
  let spi := beBytes (c.sciSpi.toNat % 2 ^ 32) 4
  if c.esn then spi ++ beBytes seq 8 else spi ++ beBytes (seq % 2 ^ 32) 4

/-- The pad bytes: 0x01, 0x02 and so on. -/
def espPad (n : Nat) : Bytes := (List.range n).map (fun i => BitVec.ofNat 8 (i + 1))

/-- ESP_ENCRYPT. -/
def espEncrypt (c : Ctx) (key salt : Bytes) (pn : Nat) (d : Desc) (src : Bytes) : Outcome :=
  let n := (4 - (src.length + 2) % 4) % 4
  let pt := src ++ espPad n ++ [BitVec.ofNat 8 n, BitVec.ofNat 8 d.aux0]
  let (ct, icv) := aeadSeal c.suite key (frameIv c salt pn) (espAad c pn) pt
  let out := beBytes (c.sciSpi.toNat % 2 ^ 32) 4 ++ beBytes (pn % 2 ^ 32) 4 ++ beBytes pn 8 ++ ct ++ icv
  { status := stOk, reason := 0, out := out, outLen := out.length, octets := src.length }

/-- ESP_DECRYPT. -/
def espDecrypt (c : Ctx) (key salt : Bytes) (seq : Nat) (d : Desc) (b : Bytes) : Outcome :=
  if beNat (slice b 0 4) ≠ c.sciSpi.toNat % 2 ^ 32 then early stAuthFail rsnIdentity
  else if beNat (slice b 4 4) ≠ bitsOf d.aux0 31 0 then early stAuthFail rsnAux
  else
    let ct := slice b 16 (b.length - 32)
    match aeadOpen c.suite key (frameIv c salt seq) (espAad c seq) ct (b.drop (b.length - 16)) with
    | none => lateFail stAuthFail rsnIcv
    | some pt =>
      let n := octet pt (pt.length - 2)
      let body := pt.take (pt.length - 2)
      if body.length < n ∨ body.drop (body.length - n) ≠ espPad n then lateFail stLengthMismatch rsnTrailer
      else
        { status := stOk, reason := octet pt (pt.length - 1), out := body, outLen := body.length - n,
          octets := body.length - n }

/-! ## Raw suites (R88) -/

/-- GCM_SEAL and CHACHA_SEAL. -/
def rawSeal (c : Ctx) (key salt : Bytes) (pn : Nat) (d : Desc) (src : Bytes) : Outcome :=
  let aad := src.take d.auxLen
  let p := src.drop d.auxLen
  let (ct, tag) := aeadSeal c.suite key (frameIv c salt pn) aad p
  let out := aad ++ ct ++ tag
  { status := stOk, reason := 0, out := out, outLen := out.length, octets := p.length }

/-- GCM_OPEN and CHACHA_OPEN. -/
def rawOpen (c : Ctx) (key salt : Bytes) (pn : Nat) (d : Desc) (src : Bytes) : Outcome :=
  let aad := src.take d.auxLen
  let ct := slice src d.auxLen (src.length - d.auxLen - 16)
  match aeadOpen c.suite key (frameIv c salt pn) aad ct (src.drop (src.length - 16)) with
  | none => lateFail stAuthFail rsnIcv
  | some p =>
    let out := aad ++ p
    { status := stOk, reason := 0, out := out, outLen := out.length, octets := p.length }

/-! ## Descriptor fields (R80) -/

/-- The output length that a frame needs, the larger one for MACSEC_VALIDATE. -/
def needLen (c : Ctx) (d : Desc) : Nat :=
  match d.opcode with
  | 0x10 => d.srcLen + (if c.sc then 32 else 24)
  | 0x11 => d.srcLen - 24
  | 0x12 => 32 + (d.srcLen + 2 + 3) / 4 * 4
  | 0x13 => d.srcLen - 34
  | 0x14 => d.srcLen + 16
  | 0x16 => d.srcLen + 16
  | _ => d.srcLen - 16

/-- The smallest SRC_LEN of a frame opcode. -/
def minLen (op : Nat) : Nat :=
  match op with
  | 0x10 => 14 | 0x11 => 36 | 0x12 => 1 | 0x13 => 36 | 0x14 => 1 | 0x16 => 1 | _ => 16

/-- SRC_LEN, AUX_LEN, AUX0 and AUX1 keep the table of R80. -/
def fieldsGood (d : Desc) : Bool :=
  let n := d.srcLen
  decide (minLen d.opcode ≤ n ∧ n ≤ 16384) && d.aux1 == 0 &&
    (match d.opcode with
     | 0x10 => d.auxLen == 0 && d.aux0 == 0
     | 0x11 => d.auxLen == 0 && decide (d.aux0 < 2 ^ 34)
     | 0x12 => d.auxLen == 0 && decide (d.aux0 < 2 ^ 8)
     | 0x13 => d.auxLen == 0 && decide (d.aux0 < 2 ^ 32)
     | 0x14 => decide (d.auxLen ≤ n) && d.aux0 == 0
     | 0x16 => decide (d.auxLen ≤ n) && d.aux0 == 0
     | _ => decide (d.auxLen + 16 ≤ n))

/-- The suite and the direction of a context fit a frame opcode (R78). -/
def opcodeFits (c : Ctx) (op : Nat) : Bool :=
  match op with
  | 0x10 => isMacsec c.suite && !c.rx
  | 0x11 => isMacsec c.suite && c.rx
  | 0x12 => isEsp c.suite && !c.rx
  | 0x13 => isEsp c.suite && c.rx
  | 0x14 => c.suite == 0x10 || c.suite == 0x11
  | 0x15 => c.suite == 0x10 || c.suite == 0x11
  | _ => c.suite == 0x12

/-- The opcode takes its PN from the context. -/
def takesPn (op : Nat) : Bool := op == 0x10 || op == 0x12 || op == 0x14 || op == 0x16

/-- What a lane makes of a frame, by its opcode. -/
def laneRun (c : Ctx) (key salt : Bytes) (an pn : Nat) (d : Desc) (src : Bytes) : Outcome :=
  match d.opcode with
  | 0x10 => macsecProtect c key salt an pn src
  | 0x11 => macsecValidate c key salt pn d src
  | 0x12 => espEncrypt c key salt pn d src
  | 0x13 => espDecrypt c key salt pn d src
  | 0x14 => rawSeal c key salt pn d src
  | 0x16 => rawSeal c key salt pn d src
  | _ => rawOpen c key salt pn d src

/-! ## PN recovery and replay (R83, R87, R91, R92) -/

/-- The 64-bit PN of a received MACsec frame (R83), cut to 64 bits. -/
def recoverPn (c : Ctx) (l low : Nat) : Nat :=
  if isXpn c.suite then
    if l % 2 ^ 32 ≤ low then l / 2 ^ 32 * 2 ^ 32 + low else (l / 2 ^ 32 + 1) % 2 ^ 32 * 2 ^ 32 + low
  else low

/-- The 64-bit sequence number of a received ESP packet, as RFC 4303 Appendix A infers it (R87); a window of 0 infers as
one of 1. DESIGN CHOICE (log 97): where Th is 0 and the window straddles zero, Th − 1 is taken as 0. -/
def inferSeq (c : Ctx) (low : Nat) : Nat :=
  if !c.esn then low
  else
    let w := max 1 c.window
    let right := c.a.pn
    let th := right / 2 ^ 32
    let tl := right % 2 ^ 32
    if w - 1 ≤ tl then (if tl + 1 - w ≤ low then th * 2 ^ 32 + low else (th + 1) % 2 ^ 32 * 2 ^ 32 + low)
    else if tl + 2 ^ 32 + 1 - w ≤ low then (th - 1) * 2 ^ 32 + low
    else th * 2 ^ 32 + low

/-- The replay reason of an ESP sequence number, 0 where it is neither left of the window nor seen. -/
def espReplay (c : Ctx) (seq : Nat) : Nat :=
  let right := c.a.pn
  if c.window = 0 then 0
  else if right < seq then 0
  else if seq + c.window ≤ right then rsnLeft
  else if c.bitmap.getLsbD (right - seq) then rsnSeen
  else 0

/-- The slot whose AN a received MACsec frame names. -/
def Ctx.rxSlot (c : Ctx) (an : Nat) : Option Bool :=
  let on (b : Bool) : Bool := (c.slot b).st != .empty && (c.slot b).an == an
  if on c.activeB then some c.activeB else if on (!c.activeB) then some (!c.activeB) else none

/-- The commit of a receive frame: its replay reason, 0 for none, and the context after it (R92). -/
def commitRx (c : Ctx) (slotB : Bool) (pn : Nat) : Nat × Ctx :=
  if isEsp c.suite then
    let right := c.a.pn
    if c.window = 0 then (0, { c with a := { c.a with pn := max right pn } })
    else
      let r := espReplay c pn
      if r ≠ 0 then (r, c)
      else if right < pn then
        (0, { c with a := { c.a with pn := pn }, bitmap := (c.bitmap <<< (pn - right)) ||| 1 })
      else (0, { c with bitmap := c.bitmap ||| (1 <<< (right - pn)) })
  else
    let x := c.slot slotB
    let l := x.pn
    let l' := max l (pn + 1 - c.window)
    if l ≤ pn then (0, c.setSlot slotB { x with pn := l' })
    else if c.replayProt then (rsnLeft, c)
    else (0, c.setSlot slotB { x with pn := l' })

end Sys2Proof.Machine
end

