-- ==== Sys2Proof/Machine/Rings.lean ====
section
/-! DEFINITION. Request rings: polling and prefetch, ownership and torn reads, tagging at acceptance, queue states and
queue fences (R45–R56, R61, R64–R66, R354). -/

namespace Sys2Proof.Machine

/-- RQ_POLL.MAX_INT, at least MIN_INT. -/
def State.maxInt (s : State) (q : Nat) : Nat := max (s.minInt q) (s.fld RQ_POLL.MAX_INT q)

/-- A kick: the queue polls and returns to ACTIVE with its interval at MIN_INT, or to HELD while its CQ is full. It is
ignored while the queue is DISABLED, DRAINING or FENCED (R56, R65, R68). -/
def State.rqKick (s : State) (q : Nat) : State :=
  let x := s.rq q
  if x.st.accepts then
    let st := if x.st == .dozing then (if (s.cq (s.fld RQ_CFG.CQ q)).full then .held else .active) else x.st
    (s.setRq q { x with st := st, interval := s.minInt q, emptyMax := 0 }).rqRead q
  else s

/-- One step of the tagging LFSR, x^32 + x^22 + x^2 + x + 1 (R354). -/
def lfsrStep (v : W32) : W32 :=
  let b := v.getLsbD 31 ^^ v.getLsbD 21 ^^ v.getLsbD 1 ^^ v.getLsbD 0
  (v <<< 1) ||| (if b then 1 else 0)

/-- The tag decision at the acceptance of a descriptor (R354, R355). -/
def State.tagAccept (s : State) (d : Desc) (f : Nat) : Option TraceTag × State :=
  if !s.isOn (pg .perf) then (none, s)
  else
    let seeded := s.perf.seeded
    let v := if seeded then lfsrStep s.perf.lfsr else s.perf.lfsr
    let s := { s with perf := { s.perf with lfsr := v } }
    let k := min 24 s.perf.k
    let random := seeded && s.flag PERF_TAG_CFG.SAMPLE_EN 0 && v.toNat % 2 ^ k == 0
    if d.tagMe || random then
      if 64 ≤ s.perf.inflight then (none, s.perfCount 125 1)
      else
        let s := { s with perf := { s.perf with inflight := s.perf.inflight + 1 } }
        (some { forced := d.tagMe, gen := s.fld PERF_STS.GEN 0, stamps := [(0, s.now)] }, (s.perfCount 95 1).fnCount f 43 1)
    else (none, s)

/-- Entries that wait in the prefetch cache are accepted in ring order from the queue's next index, with the lap increased
where the index passes the end of the ring (R46, R51). fuel bounds their number; answers how many were accepted. -/
def State.acceptFrom (s : State) (q : Nat) : Nat → Nat × State
  | 0 => (0, s)
  | fuel + 1 =>
    let x := s.rq q
    let i := s.fld RQ_HEAD.INDEX q
    let lap := s.fld RQ_HEAD.LAP q
    match x.ahead.find? (fun a => a.1 == i) with
    | none => (0, s)
    | some a =>
      let f := s.fld RQ_CFG.FUNC q
      let (tag, s) := s.tagAccept a.2 f
      let s := s.setRq q { x with
        acc := x.acc ++ [{ idx := i, lap := lap, d := a.2, tag := tag }]
        ahead := x.ahead.filter (fun b => b.1 != i) }
      let wrap := decide (2 ^ s.rqLog q ≤ i + 1)
      let s := s.put RQ_HEAD.INDEX q (if wrap then 0 else i + 1)
      let s := if wrap then s.put RQ_HEAD.LAP q ((lap + 1) % 65536) else s
      let s := (s.perfCount 57 1).fnCount f 0 1
      let (n, s) := s.acceptFrom q fuel
      (n + 1, s)

/-- A descriptor is owned for a lap (R51). -/
def Desc.ownedFor (d : Desc) (lap : Nat) : Bool := d.own && d.gen == lap % 16 && d.genEcho == d.gen

/-- A read of a descriptor is torn (R52). -/
def Desc.tornFor (d : Desc) (lap : Nat) : Bool := d.own && d.gen == lap % 16 && d.genEcho != d.gen

/-- A torn read is counted and recorded (R52). -/
def State.tornRead (s : State) (q i f : Nat) : State :=
  let s := s.bump RQ_ERR.TORN q 1
  let s := s.bump QENG_TORN_CNT.COUNT 0 1
  let s := s.putFlag QENG_TORN_LAST.VALID 0 true
  let s := s.put QENG_TORN_LAST.RQ 0 q
  let s := s.put QENG_TORN_LAST.INDEX 0 i
  ((s.raiseFault (pg .qeng) 8).perfCount 60 1).fnCount f 39 1

/-- RQ_HEAD moves back to the first entry accepted and not issued, lap included, and those entries leave the prefetch
cache (R65, R308). -/
def State.rewind (s : State) (q : Nat) : State :=
  let x := s.rq q
  let s := s.untag (x.acc.map (fun a => a.tag))
  match x.acc with
  | [] => s.setRq q { x with ahead := [] }
  | a :: _ =>
    let s := s.put RQ_HEAD.INDEX q a.idx
    let s := s.put RQ_HEAD.LAP q a.lap
    s.setRq q { x with acc := [], ahead := [], cbufWait := false }

/-- The queue engine stops accepting and issuing on every queue, and rewinds (R308, R323, R334). -/
def State.rewindAll (s : State) : State :=
  let s := s.issueRest.dropXfers (fun k => match k with | .desc _ _ => true | _ => false)
  s.liveRqs.foldl (fun s q => ((s.rewind q).updRq q (fun x => { x with fetching := false, more := false })).rqDrainEnd q) s

/-- A chain ends early, and its function counts one if elements of it are left (R61, R351). -/
def State.chainFenced (s : State) (c : Chain) (status : Nat) : State :=
  let s := s.abortChain c status 0
  match c.rest with
  | [] => s
  | e :: _ => s.fnCount e.func 34 1

/-- A queue's chains end early with FENCED: their elements issued and not dispatched complete without running (R61). -/
def State.fenceChains (s : State) (p : Elem → Bool) (status : Nat) : State :=
  let s := s.issueRest
  let hit (c : Chain) : Bool := c.rest.any p
  let chains := s.qeng.chains.filter hit
  let first := s.qeng.issued.filter (fun e => e.chain.isSome && p e)
  let s := { s with qeng := { s.qeng with issued := s.qeng.issued.filter (fun e => !(e.chain.isSome && p e)) } }
  let s := first.foldl (fun s e => (s.unhold e.rq).pushAborted status 0 e) s
  chains.foldl (fun s c => s.chainFenced c status) s

/-- A queue enters FENCED: RQ_ERR is filled, RQ_FENCED is set and V64 + f counts, once for all queues of a fenced function
(R333), which also ends what a failed fetch left to issue. With keep it goes on issuing the entries
accepted before (R64); otherwise they leave and RQ_HEAD moves back (R65). -/
def State.fenceQueue (s : State) (q cause : Nat) (keep : Bool) : State :=
  let x := s.rq q
  if x.st == .fenced && x.fetchFenced && cause == 3 then
    ((s.issueRest.rewind q).updRq q (fun x => { x with fetchFenced := false })).fenceChains (fun e => e.rq == q) stFenced
  else if x.st == .disabled || x.st == .fenced then s
  else
    let s := s.issueRest.dropXfers (fun k => k.descOf q)
    let s := if keep then s else s.rewind q
    let s := s.updRq q (fun x => { x with st := .fenced, fetching := false, more := false, ahead := [], fetchFenced := keep })
    let s := s.fenceChains (fun e => e.rq == q) stFenced
    let s := s.putFlag RQ_ERR.FENCED q true
    let s := s.put RQ_ERR.CAUSE q cause
    let s := s.raiseFault (pg .qeng) 9
    if cause == 3 then s else s.countVec (64 + s.fld RQ_CFG.FUNC q) 1

/-- A poll found the next entry not owned: the interval doubles up to MAX_INT, and after AFTER empty polls there an ACTIVE
queue dozes (R55, R56). A HELD queue does not doze (R65). -/
def State.emptyPoll (s : State) (q : Nat) : State :=
  let x := s.rq q
  let cur := max x.interval (s.minInt q)
  if cur < s.maxInt q then s.setRq q { x with interval := min (2 * cur) (s.maxInt q) }
  else
    let n := x.emptyMax + 1
    let after := s.fld RQ_XDOZE.AFTER q
    if after != 0 && decide (after ≤ n) && x.st == .active && x.acc.isEmpty then
      s.setRq q { x with st := .dozing, emptyMax := n }
    else s.setRq q { x with emptyMax := n }

/-- One descriptor of a returned group: owned entries wait in the prefetch cache, the others are discarded (R51, R52). -/
def State.readEntry (s : State) (q : Nat) (i : Nat) (d : Desc) : State :=
  let lap := s.fld RQ_HEAD.LAP q
  let f := s.fld RQ_CFG.FUNC q
  let s := (s.perfCount 58 1).fnCount f 37 1
  let s := s.updRq q (fun x => { x with tornRuns := Tbl.upd 0 x.tornRuns i (fun k => if d.tornFor lap then k + 1 else 0) })
  if d.ownedFor lap then s.updRq q (fun x => { x with ahead := x.ahead.filter (fun a => a.1 != i) ++ [(i, d)] })
  else
    let s := s.updRq q (fun x => { x with ahead := x.ahead.filter (fun a => a.1 != i) })
    let s := (s.perfCount 59 1).fnCount f 38 1
    if d.tornFor lap then s.tornRead q i f else s

/-- The descriptors of a group in its bytes, with their ring indexes. -/
def groupDescs (i : Nat) (b : Bytes) : List (Nat × Desc) :=
  (List.range (b.length / 64)).map (fun k => (i + k, Desc.ofBytes (slice b (64 * k) 64)))

/-- A group of descriptors has returned: entries owned for the lap are accepted in ring order, torn reads are counted and
fence the queue at the limit, an empty poll lengthens the interval (R51, R52, R55, R65). A DRAINING queue accepts none of
them, and its torn reads count still (R65). -/
def State.descReturned (s : State) (q i : Nat) (b : Bytes) (retried : Bool) : State :=
  let k := s.irq.msgs.length
  let s := s.updRq q (fun x => { x with fetching := false })
  let s := if retried then s.transient (pg .qeng) else s
  let draining := (s.rq q).st == .draining
  if !((s.rq q).st.accepts || draining) || s.qStopped then s
  else
    let ds := groupDescs i b
    let s := ds.foldl (fun s d => s.readEntry q d.1 d.2) s
    let lim := s.fld RQ_XTORN.LIMIT q
    if lim != 0 && (s.rq q).tornRuns.any (fun r => decide (lim ≤ r.2)) then
      ((s.fenceQueue q 2 false).logFence 0 0x13 21 q).ascending k
    else if draining then s.updRq q (fun x => { x with ahead := [] })
    else
      let (n, s) := s.acceptFrom q 16
      if n = 0 then (s.emptyPoll q).updRq q (fun x => { x with more := false })
      else
        let s := s.updRq q (fun x => { x with
          interval := s.minInt q, emptyMax := 0
          st := if x.st == .dozing then (if (s.cq (s.fld RQ_CFG.CQ q)).full then .held else .active) else x.st })
        let s := s.updRq q (fun x => { x with more := decide (ds.length ≤ n) })
        s.refill q

/-- A descriptor fetch failed after its retry: the queue is fenced and goes on issuing what it accepted (R64). -/
def State.descFailed (s : State) (q : Nat) : State :=
  let s := s.updRq q (fun x => { x with fetching := false })
  let st := (s.rq q).st
  if st == .disabled || st == .fenced then s
  else ((s.lasting (pg .qeng)).fenceQueue q 1 true).logFence 0 0x12 21 q

/-- A queue is enabled when the CQ it is bound to is ON and owned by its function and the function is not fenced; it
resumes at RQ_HEAD (R65, R333). -/
def State.rqBindOk (s : State) (q : Nat) : Bool :=
  let c := s.fld RQ_CFG.CQ q
  let f := s.fld RQ_CFG.FUNC q
  (s.cq c).st == .on && s.fld CQ_CFG.FUNC c == f && !bitAt (s.fld FLT_FUNC.MAP (f / 32)) (f % 32)

/-- RQ_CFG.EN is written 1 (R65). DESIGN CHOICE (log 95): a queue whose bound CQ is FULL enters HELD at once. -/
def State.rqEnable (s : State) (q : Nat) : State :=
  let x := s.rq q
  match x.st with
  | .disabled =>
    if s.rqBindOk q then
      let s := s.putFlag RQ_CFG.EN q true
      let full := (s.cq (s.fld RQ_CFG.CQ q)).full
      let s := s.setRq q { x with
        st := if full then .held else .active, interval := s.minInt q, emptyMax := 0, tornRuns := [], fetchFenced := false,
        more := false, ahead := [], acc := [], credit := 0, ordNext := x.ordNext }
      s.rqRead q
    else (s.putFlag RQ_CFG.EN q false).seq (pg .qeng)
  | .draining | .fenced => s.seq (pg .qeng)
  | _ => s

/-- RQ_CFG.EN is written 0 (R65). DESIGN CHOICE (log 94): entries that a queue FENCED under R64 accepted and has not issued leave
without a completion, and RQ_HEAD stays. A descriptor read under way goes on while the queue drains: it can still fence it. -/
def State.rqDisable (s : State) (q : Nat) : State :=
  let x := s.rq q
  match x.st with
  | .active | .dozing | .held =>
    let s := s.putFlag RQ_CFG.EN q false
    (s.setRq q { x with st := .draining, ahead := [], more := false }).rqDrainEnd q
  | .fenced =>
    let s := ((s.putFlag RQ_CFG.EN q false).putFlag RQ_ERR.FENCED q false).untag (x.acc.map (fun a => a.tag))
    s.setRq q { x with
      st := .disabled, acc := [], fetchFenced := false, credit := 0, cbufWait := false, missHold := false }
  | _ => s.putFlag RQ_CFG.EN q false

/-- CQ_CFG.EN is written 1: releases are taken from CQ_HEAD, and the consumer index is placed at the latest position with
its index that is not after it (R158). DESIGN CHOICE (log 116): an index at or above the ring size, which a write while the
queue is DISABLED can leave, is taken modulo the ring size. -/
def State.cqEnable (s : State) (c : Nat) : State :=
  let x := s.cq c
  let f := s.fld CQ_CFG.FUNC c
  match x.st with
  | .disabled =>
    if bitAt (s.fld FLT_FUNC.MAP (f / 32)) (f % 32) then (s.putFlag CQ_CFG.EN c false).seq (pg .qeng)
    else
      let size := 2 ^ s.cqLog c
      let i := s.fld CQ_HEAD.INDEX c
      let head := (s.fld CQ_HEAD.LAP c + 1) * size + i
      let cons := s.fld CQ_CONS.INDEX c % size
      let pos := if cons ≤ i then head - (i - cons) else head - i - (size - cons)
      (s.putFlag CQ_CFG.EN c true).setCq c { x with
        st := .on, nextPos := head, pub := head, cons := pos, held := [], writing := [], mirror := none, full := false }
  | .draining | .fenced => s.seq (pg .qeng)
  | .on => s

/-- CQ_CFG.EN is written 0 (R158). -/
def State.cqDisable (s : State) (c : Nat) : State :=
  let x := s.cq c
  match x.st with
  | .on =>
    if (s.boundRqs c).isEmpty then ((s.putFlag CQ_CFG.EN c false).setCq c { x with st := .draining }).cqDrainEnd c
    else s.seq (pg .qeng)
  | .fenced =>
    ((s.putFlag CQ_CFG.EN c false).putFlag CQ_ERR.FENCED c false).setCq c { x with st := .disabled }
  | _ => s.putFlag CQ_CFG.EN c false

/-- A consumer index is written: it frees the entries below it and lets held ones be written. An index outside the range
from the present one to the published one is ignored and sets BAD_CONS (R152, R157). -/
def State.cqConsume (s : State) (c i : Nat) : State :=
  let x := s.cq c
  let size := 2 ^ s.cqLog c
  if x.st != .disabled then
    let d := (i + size - x.cons % size) % size
    if i < size ∧ x.cons + d ≤ x.pub then
      let s := s.put CQ_CONS.INDEX c i
      let s := s.setCq c { x with cons := x.cons + d }
      if x.st == .fenced then s else s.writeHeld c (x.held.length + 1)
    else s.putFlag CQ_ERR.BAD_CONS c true
  else s.put CQ_CONS.INDEX c i

end Sys2Proof.Machine
end

