-- ==== Sys2Proof/Machine/Lanes.lean ====
section
/-! DEFINITION. Quads, staging and lanes: the dispatch of frames, what a lane pushes, errors, replays and checks
(R16, R70–R74, R76, R89–R100, R307). -/

namespace Sys2Proof.Machine

/-! ## Lanes, quads and frames -/

/-- One lane. -/
def State.lane (s : State) (n : Nat) : Lane := Tbl.get {} s.frames.lanes n

/-- The state with one lane. -/
def State.setLane (s : State) (n : Nat) (x : Lane) : State :=
  { s with frames := { s.frames with lanes := Tbl.set {} s.frames.lanes n x } }

/-- The state with one lane changed. -/
def State.updLane (s : State) (n : Nat) (f : Lane → Lane) : State := s.setLane n (f (s.lane n))

/-- One quad. -/
def State.quad (s : State) (q : Nat) : Quad := Tbl.get {} s.frames.quads q

/-- The state with one quad. -/
def State.setQuad (s : State) (q : Nat) (x : Quad) : State :=
  { s with frames := { s.frames with quads := Tbl.set {} s.frames.quads q x } }

/-- The state with one quad changed. -/
def State.updQuad (s : State) (q : Nat) (f : Quad → Quad) : State := s.setQuad q (f (s.quad q))

/-- One frame by number. -/
def State.frame? (s : State) (i : Nat) : Option Frame := s.frames.list.find? (fun f => f.id == i)

/-- The state with one frame changed. -/
def State.updFrame (s : State) (i : Nat) (g : Frame → Frame) : State :=
  { s with frames := { s.frames with list := s.frames.list.map (fun (f : Frame) => if f.id == i then g f else f) } }

/-- The pages of a lane and of a quad. -/
def lanePg (n : Nat) : PageRef := ⟨.lane, n⟩
def quadPg (q : Nat) : PageRef := ⟨.quad, q⟩

/-- The lanes of a quad. -/
def quadLanes (q : Nat) : List Nat := [4 * q, 4 * q + 1, 4 * q + 2, 4 * q + 3]

/-- QPLL_q is locked. -/
def State.quadClock (s : State) (q : Nat) : Bool := s.clk.lock.getLsbD (2 + q) && !s.clk.safe

/-- The most frames a lane of a quad holds. -/
def State.laneMax (s : State) (q : Nat) : Nat :=
  let m := s.fld QUAD_XLANE.MAX_INFLIGHT q
  min 20 (max 1 m)

/-- A lane meets R70 apart from its frame count. A parked or unparking lane is not eligible (R307), nor one that stalls as a
producer (R149). -/
def State.laneFit (s : State) (n : Nat) : Bool :=
  let x := s.lane n
  s.isOn (lanePg n) && bitAt (s.fld QUAD_LANE_EN.LANES (n / 4)) (n % 4) && !s.stalling n &&
    (x.check == .idle || (x.check == .due && !x.frames.isEmpty)) && !x.parked && !x.unparking

/-- A lane is eligible (R70). -/
def State.eligible (s : State) (n : Nat) : Bool :=
  s.laneFit n && decide ((s.lane n).frames.length < s.laneMax (n / 4))

/-- The lane that the dispatch port of a quad picks of some: the one with the fewest frames, ties rotating from the lane after the
one chosen last (R70). -/
def State.pickOf (s : State) (q : Nat) (ok : Nat → Bool) : Option Nat :=
  let last := (s.quad q).lastLane
  let order := (List.range 4).map (fun i => 4 * q + (last + 1 + i) % 4)
  (order.filter ok).foldl (fun b n =>
    match b with
    | none => some n
    | some m => if (s.lane n).frames.length < (s.lane m).frames.length then some n else b) none

/-- The lane that a new frame goes to: an eligible one for which no replay waits (R70, R96). -/
def State.pickLane (s : State) (q : Nat) : Option Nat :=
  s.pickOf q (fun n =>
    s.eligible n && !s.frames.list.any (fun f => f.quad == q && f.st == .replay && f.replayTo.contains n))

/-- The staging bank's size (R71). -/
def stagingSize : Nat := 393216

/-- Bytes of the staging bank held change; the high-water mark follows (R71, R100). -/
def State.stage (s : State) (q : Nat) (add sub : Nat) : State :=
  let s := s.updQuad q (fun x => { x with staged := x.staged + add - sub })
  let n := (s.quad q).staged
  if s.fld QUAD_STAGE_HWM.HWM q < n then s.put QUAD_STAGE_HWM.HWM q n else s

/-- A quad can take an element of its needs now (R71): it is ON with its clock, not parked, has room and an eligible
lane. -/
def State.quadTakes (s : State) (q n : Nat) : Bool :=
  s.isOn (quadPg q) && !(s.quad q).parked && s.quadClock q && decide ((s.quad q).staged + n ≤ stagingSize) &&
    (quadLanes q).any (fun l => s.eligible l)

/-- The quads that QUAD_MASK of a queue names. -/
def State.maskQuads (s : State) (rq : Nat) : List Nat :=
  (List.range 4).filter (fun q => bitAt (s.fld RQ_CFG.QUAD_MASK rq) q)

/-- The quad with the fewest bytes staged among those that can take an element; ties rotate (R63). -/
def State.pickQuad (s : State) (rq n : Nat) : Option Nat :=
  let order := (List.range 4).map (fun i => (s.frames.lastQuad + 1 + i) % 4)
  (order.filter (fun q => (s.maskQuads rq).contains q && s.quadTakes q n)).foldl (fun b q =>
    match b with
    | none => some q
    | some m => if (s.quad q).staged < (s.quad m).staged then some q else b) none

/-! ## Parking (R307) -/

/-- A lane is unparked; it accepts frames once LANE_UNPARK_DONE has come. -/
def State.unparkLane (s : State) (n : Nat) : State := s.updLane n (fun x => { x with parked := false, unparking := true })

/-- The dispatch port of a quad unparks its lowest-numbered parked lane when no unparked lane is eligible, or every one of
them holds at least two frames. -/
def State.unparkNeed (s : State) (q : Nat) : State :=
  let fit := (quadLanes q).filter (fun n => s.eligible n)
  if fit.all (fun n => decide (2 ≤ (s.lane n).frames.length)) && !(quadLanes q).any (fun n => (s.lane n).unparking) then
    match (quadLanes q).find? (fun n => (s.lane n).parked && s.isOn (lanePg n)) with
    | some n => s.unparkLane n
    | none => s
  else s

/-- A parked quad starts to wake: QPLL_q restarts (R307). -/
def State.unparkQuad (s : State) (q : Nat) : State :=
  { s.updQuad q (fun x => { x with parked := false }) with
    clk := { s.clk with parkStop := s.clk.parkStop &&& ~~~((1 : BitVec 6) <<< (2 + q)) } }

/-- No unparked quad of the mask can take an element: a parked lane of the mask begins to wake, and a parked quad of it, unless one
that the element waits for is waking already (R307). -/
def State.wakeUnits (s : State) (rq : Nat) : State :=
  let qs := s.maskQuads rq
  let s := (qs.filter (fun q => s.isOn (quadPg q) && !(s.quad q).parked)).foldl (fun s q => s.unparkNeed q) s
  if qs.any (fun q => s.isOn (quadPg q) && !(s.quad q).parked && !s.quadClock q) then s
  else
  match qs.find? (fun q => s.isOn (quadPg q) && (s.quad q).parked) with
  | some q => s.unparkQuad q
  | none => s

/-! ## The end of a frame -/

/-- Free bytes: what a frame's failure decided after c7 leaves in DST (R93). -/
def State.freeBytes (s : State) (n : Nat) : Bytes × State :=
  let (k, s) := s.takeFree
  (leBytes (Config.freeValue (8 * n) k).toNat n, s)

/-- The frame leaves its lane. -/
def State.leaveLane (s : State) (f : Frame) : State :=
  s.updLane f.lane (fun x =>
    let l := x.frames.filter (· != f.id)
    { x with frames := l, keyZero := x.keyZero || l.isEmpty })

/-- A frame is gone from its quad, with the staging bytes it still held, and its context's pin count falls (R74, R135). -/
def State.dropFrame (s : State) (f : Frame) : State :=
  let s := { s with frames := { s.frames with list := s.frames.list.filter (fun (g : Frame) => g.id != f.id) } }
  (s.stage f.quad 0 (f.resv + f.outHeld)).unpin f.elem.d.object

/-- A frame that was dispatched and not pushed ends with a status: its reads and writes are dropped, it leaves its lane and
its context's pin count falls (R74). Its completion goes through producer p. -/
def State.endFrame (s : State) (f : Frame) (p status reason : Nat) : State :=
  let s := s.dropXfers (fun k => k == .frameSrc f.id || k == .frameDst f.id)
  let s := s.leaveLane f
  let s := s.dropFrame f
  s.push p { elem := f.elem, status := status, reason := reason, retried := f.retried, flags := f.an % 4,
             value := f.pn % 2 ^ 48 }

/-- The completion of a frame that was pushed is withdrawn from the crown path (R96): it no longer counts as one that has
reached the crown. -/
def State.withdraw (s : State) (f : Frame) : State :=
  let at_ (c : Compl) : Bool := c.frame == some f.id
  let crowned := s.crown.waiting.any at_
  let s := match f.elem.chain with
    | some c => s.updChain c (fun x => { x with ready := false })
    | none => s
  let s := { s with crown := { s.crown with
    fifos := (s.crown.fifos.map (fun p => (p.1, p.2.filter (fun c => !at_ c)))).filter (fun p => !p.2.isEmpty)
    stalled := s.crown.stalled.filter (fun p => !at_ p.2)
    waiting := s.crown.waiting.filter (fun c => !at_ c) } }
  if crowned then s.updRq f.elem.rq (fun x => { x with inflight := x.inflight + 1 }) else s

/-- A held completion of a frame is changed wherever it waits. -/
def State.mapCompl (s : State) (i : Nat) (g : Compl → Compl) : State :=
  let h (c : Compl) : Compl := if c.frame == some i then g c else c
  { s with crown := { s.crown with
    fifos := s.crown.fifos.map (fun p => (p.1, p.2.map h))
    stalled := s.crown.stalled.map (fun p => (p.1, h p.2))
    waiting := s.crown.waiting.map h } }

/-- The completion of a pushed frame takes its final form. One that has reached the crown and fails there ends its chain: the
elements not yet dispatched complete with CHAIN_ABORTED (R21, R94; DEDUCED, log 93). -/
def State.settle (s : State) (f : Frame) (g : Compl → Compl) (fails : Bool) : State :=
  let crowned := s.crown.waiting.any (fun c => c.frame == some f.id)
  let s := s.mapCompl f.id g
  let s := s.dropFrame f
  (if crowned && fails then s.chainOff f.elem else s).releaseWaiting

/-- A frame that was pushed and whose DST writes are outstanding ends with a status instead of its own. -/
def State.endPushed (s : State) (f : Frame) (status reason : Nat) : State :=
  let s := s.dropXfers (fun k => k == .frameDst f.id)
  s.settle f (fun c => { c with status := status, reason := reason, outLen := 0, frame := none }) true

/-- Frames of some kind end with a status, wherever they stand. -/
def State.endFrames (s : State) (p : Frame → Bool) (status : Nat) : State :=
  (s.frames.list.filter p).foldl (fun s f =>
    match f.st with
    | .pushed => s.endPushed f status 0
    | .reading => s.endFrame f 25 status 0
    | _ => s.endFrame f f.lane status 0) s

/-! ## Dispatch (R16, R63, R72, R78, R80, R83, R87, R89–R91) -/

/-- The statistics of a context change (R104). -/
def State.stat (s : State) (k : Nat) (g : Ctx → Ctx) : State := s.modCtx k g

/-- The counter of a failure status: S2 AUTH_FAIL, S3 REPLAY, S4 lengths, S5 PN_EXHAUSTED and KEY_NOT_ARMED. -/
def Ctx.countFail (c : Ctx) (status : Nat) : Ctx :=
  if status = stAuthFail then { c with s2 := c.s2 + 1 }
  else if status = stReplay then { c with s3 := c.s3 + 1 }
  else if status = stLengthMismatch ∨ status = stOutputTooSmall then { c with s4 := c.s4 + 1 }
  else if status = stPnExhausted ∨ status = stKeyNotArmed then { c with s5 := c.s5 + 1 }
  else c

/-- What dispatch decides about a frame whose context is found: its refusal, or its slot and PN. -/
inductive Admit where
  | refused (status reason an pn : Nat)
  | run (slotB : Bool) (pn : Nat)
deriving DecidableEq, Repr

/-- The dispatch decision of a frame (R78, R80, R89–R91). -/
def admission (c : Ctx) (d : Desc) : Admit :=
  let op := d.opcode
  if !opcodeFits c op then .refused stBadOpcode 0x17 0 0
  else if !fieldsGood d then .refused stLengthMismatch rsnFields 0 0
  else if op ≠ 0x11 ∧ d.dstLen < needLen c d then .refused stOutputTooSmall rsnSpace 0 0
  else if takesPn op then
    let x := c.slot c.activeB
    if x.st ≠ .active then .refused stKeyNotArmed 0 0 0
    else if x.pn = 0 ∨ highestPn c.suite c.esn < x.pn then .refused stPnExhausted 0 x.an 0
    else .run c.activeB x.pn
  else if op = 0x11 then
    let an := bitsOf d.aux0 33 32
    match c.rxSlot an with
    | none => .refused stKeyNotArmed 0 0 0
    | some b =>
      let l := (c.slot b).pn
      let pn := recoverPn c l (bitsOf d.aux0 31 0)
      if c.replayProt ∧ pn < l then .refused stReplay rsnLeft an pn else .run b pn
  else if op = 0x13 then
    if c.a.st ≠ .active then .refused stKeyNotArmed 0 0 0
    else
      let seq := inferSeq c d.aux0
      let r := espReplay c seq
      if r ≠ 0 then .refused stReplay r c.a.an seq else .run false seq
  else
    if (c.slot c.activeB).st ≠ .active then .refused stKeyNotArmed 0 0 0 else .run c.activeB d.aux0

/-- The assigned PN advances NEXT_PN and reports the threshold once (R89, R90). -/
def State.assignPn (s : State) (k : Nat) (b : Bool) (pn f : Nat) : State :=
  let c := s.clearCtx k
  let x := c.slot b
  let hit := x.thresh == pn && !x.reported
  let s := s.modCtx k (fun c =>
    c.setSlot b { c.slot b with pn := (pn + 1) % 2 ^ 64, reported := x.reported || hit })
  if hit then
    let s := s.putFlag CTX_PN_HANDLE.VALID 0 true
    let s := s.putFlag CTX_PN_HANDLE.SLOT 0 b
    let s := s.put CTX_PN_HANDLE.HANDLE 0 c.handle
    (s.raiseEvent (pg .ctx) 4).fnCount f 18 1
  else s

/-- An element that was issued is no longer waiting for dispatch: it leaves the prefetch cache, which is refilled (R54, R55), and
its queue is no longer held at it. -/
def State.unissue (s : State) (n : Nat) : State :=
  match s.qeng.issued[n]? with
  | none => s
  | some e => (({ s with qeng := { s.qeng with issued := s.qeng.issued.eraseIdx n } }).unhold e.rq).refill e.rq

/-- The frame element at place n of those issued, if no element of its queue waits ahead of it. -/
def State.frameAt (s : State) (n : Nat) : Option Elem :=
  match s.qeng.issued[n]? with
  | none => none
  | some e =>
    if e.d.isFrame && !((s.qeng.issued.take n).any (fun x => x.rq == e.rq && x.chain.isNone)) then some e else none

/-- The tile enters RUN with its first dispatch (R43). -/
def State.enterRun (s : State) : State := if s.tile.st == .ready then s.enterTile .run else s

/-- A frame goes to a quad: it is pinned, its SRC read begins through the quad's port and its staging bytes are taken
(R16, R17, R71, R74). -/
def State.quadAccept (s : State) (e : Elem) (k q : Nat) (b : Bool) (pn n : Nat) : State :=
  let x := (s.clearCtx k).slot b
  let i := s.frames.next
  let f : Frame := { id := i, elem := e.stamp 2 s.now, quad := q, slotB := b, gen := x.gen, an := x.an, pn := pn,
                     resv := e.d.srcLen, outHeld := n - e.d.srcLen }
  let s := { s with frames := { s.frames with list := s.frames.list ++ [f], next := i + 1, lastQuad := q } }
  let s := s.updWay k (fun w => { w with pins := w.pins + 1 })
  let s := s.stage q n 0
  let s := s.perfCount (96 + q) 1
  ((s.startRead (.frameSrc i) e.attr e.d.src e.d.srcLen (some q)).2).unparkNeed q

/-- Elements are dispatched: in READY and RUN, while the queue engine does not stall as a producer (R149). -/
def State.dispatching (s : State) : Bool := (s.tile.st == .ready || s.tile.st == .run) && !s.stalling 25

/-- FRAME_DISPATCH: R72 first, then the lookup, then the dispatch checks; a frame that a quad can take gets its PN or has
its replay checked. Where no quad can take it now nothing happens but a unit's wake. A frame waits while the context store logic
stalls as a producer (R149), or key custody supplies no mask for its context (R14). -/
def State.frameDispatch (s : State) (n : Nat) : State :=
  match s.frameAt n with
  | none => s
  | some e =>
    if !s.dispatching then s
    else if (s.maskQuads e.rq).all (fun q => s.blk (quadPg q) == .off || s.blk (quadPg q) == .fenced) ||
        s.blk (pg .ctx) == .fenced then
      ((s.unissue n).enterRun).pushStatus 25 e stFenced
    else if !s.isOn (pg .ctx) || s.stalling 22 then s
    else
      let e := e.stamp 2 s.now
      match s.lookup e false with
      | (.refused st, t) => ((t.unissue n).enterRun).pushStatus 22 e st
      | (.parked, t) => (t.unissue n).enterRun
      | (.held, _) => s.updRq e.rq (fun x => { x with missHold := true })
      | (.found k, t) =>
        let e := e.stamp 3 s.now
        let c := t.clearCtx k
        if !s.masks (k / 64) then s
        else
          match admission c e.d with
          | .refused st r an pn =>
            let t := if st = stBadOpcode then t else t.stat k (fun c => c.countFail st)
            ((t.unissue n).enterRun).push 25
              { elem := e, status := st, reason := r, flags := an % 4, value := pn % 2 ^ 48 }
          | .run b pn =>
            let need := e.d.srcLen + needLen c e.d
            match s.pickQuad e.rq need with
            | none => s.wakeUnits e.rq
            | some q =>
              let t := if takesPn e.d.opcode then t.assignPn k b pn e.func else t
              ((t.unissue n).enterRun).quadAccept e k q b pn need

/-- A page-in that has failed ends; the frames of a way that was being read again end with its status (R111, R120). -/
def State.pageinFailed (s : State) (h : Nat) : State :=
  match s.pageinFail h with
  | (some st, s) => s.endFrames (fun f => f.elem.d.object == h && f.st != .pushed) st
  | (none, s) => s

/-! ## Staging (R16, R94) -/

/-- The first 128 bytes of a frame, or all of a shorter one, are in staging. -/
def Frame.startable (f : Frame) : Bool :=
  let n := min 128 f.elem.d.srcLen
  decide (n ≤ (f.src.map (fun p => min (p.1 + p.2.length) n - min p.1 n)).sum) || f.complete

/-- The key and the salt of the slot a frame was dispatched with, as it stands now, the salt most significant byte first: an old
key line while it is kept (R135). -/
def frameKey (c : Ctx) (f : Frame) : Bytes × Bytes :=
  let x := c.slot f.slotB
  if x.gen = f.gen ∧ (Tbl.get (0, 0, 0) x.old f.gen) = (0, 0, 0) then (bvBytes x.key 32, beBytes x.salt.toNat 12)
  else
    let o := Tbl.get (0, 0, 0) x.old f.gen
    (bvBytes o.1 32, beBytes o.2.1.toNat 12)

/-- What the way of a frame's context loads into the lane; nothing where the way is gone. -/
def State.loadKey (s : State) (f : Frame) : Bytes × Bytes :=
  match s.findWay f.elem.d.object with
  | some k => frameKey (s.clearCtx k) f
  | none => ([], [])

/-- The way of a frame's context is not being read again and key custody supplies the mask of its key line, or the context is gone
(R14, R120). -/
def State.keyReady (s : State) (f : Frame) : Bool :=
  match s.findWay f.elem.d.object with
  | some k => (s.way k).st != .filling && s.masks (k / 64)
  | none => true

/-- The bytes of a frame's input, as far as they are in. -/
def Frame.input (f : Frame) : Bytes := f.src.flatMap (fun p => p.2)

/-- The output bytes that a received MACsec frame does not need once check 2 has found SC = 1 (R71). -/
def Frame.spare (f : Frame) : Nat :=
  let b := f.input
  if f.st == .reading && f.elem.d.opcode == 0x11 && bitAt (octet b 14) 5 && !secTagBad b && !secLenBad b f.elem.d.srcLen then
    min 8 f.outHeld
  else 0

/-- A frame is handed to a lane: cycle c0. Its header is parsed and the lane loads its key (R71, R75, R76). -/
def State.toLane (s : State) (f : Frame) (n : Nat) : State :=
  let spare := f.spare
  let key := s.loadKey f
  let s := s.stage f.quad 0 spare
  let s := s.updFrame f.id (fun f => { f with
    st := .inLane, lane := n, elem := (f.elem.stamp 4 s.now).onUnit n, key := key, outHeld := f.outHeld - spare })
  let s := s.updLane n (fun x => { x with frames := x.frames ++ [f.id], keyZero := false })
  s.updQuad (n / 4) (fun x => { x with lastLane := n % 4 })

/-- The error of a lane is recorded (R99). -/
def State.laneRecord (s : State) (n cause stage : Nat) : State :=
  let s :=
    if s.flag LANE_ERR.VALID n then s
    else ((s.putFlag LANE_ERR.VALID n true).put LANE_ERR.CAUSE n cause).put LANE_ERR.STAGE n stage
  s.bump LANE_ERR.COUNT n 1

/-- A free value for LANE_ERR.STAGE: the spec names no stage for an injected error or a failed check (log 99). -/
def State.freeStage (s : State) : Nat × State :=
  let (k, s) := s.takeFree
  ((Config.freeValue 5 k).toNat % 18, s)

/-- A frame whose retry has failed ends with FENCED; the caller fences the quad, whatever the check of the erring lane still
finds. LASTING counts at the lane, or at the quad where the error was the staging bank's (R96, R100, R329). -/
def State.retryFailed (s : State) (f : Frame) (origin : Nat) : State :=
  let s := s.raiseFault (quadPg f.quad) 9
  let s := if f.st == .pushed then s.endPushed f stFenced 0 else s.endFrame f f.lane stFenced 0
  let s := s.lasting (if f.bankErr then quadPg f.quad else lanePg origin)
  if (s.lane origin).erring then s.updLane origin (fun x => { x with replayFailed := true }) else s

/-- A frame waits for its replay, in the lanes that are eligible for it now, or in its own lane alone (R96). -/
def State.toReplay (s : State) (f : Frame) : State :=
  let other := (quadLanes f.quad).filter (fun m => m != f.lane && s.laneFit m)
  s.updFrame f.id (fun g => { g with
    st := .replay, replayOf := some f.lane, replayTo := if other.isEmpty then [f.lane] else other })

/-- A lane detects an error in one of its frames (R96): the frame waits for its replay and the lane for its check. An error in a
replay, or in the only frame left in an erring lane where no other lane is eligible, is the failed retry. Answers whether the
quad is to be fenced. -/
def State.laneErr (s : State) (n cause stage : Nat) (f : Frame) : Bool × State :=
  let s := (s.laneRecord n cause stage).raiseFault (lanePg n) 8
  let x := s.lane n
  let alone := !(quadLanes f.quad).any (fun m => m != n && s.laneFit m)
  match f.replayOf with
  | some o => (true, s.retryFailed f o)
  | none =>
    if x.erring && x.frames == [f.id] && alone then (true, s.retryFailed f n)
    else
      let s := s.leaveLane f
      let s := s.toReplay f
      let s := s.updLane n (fun x => { x with
        check := .waiting, erring := true, ownReplay := if alone then x.ownReplay ++ [f.id] else x.ownReplay })
      (false, s)

/-- FRAME_STAGED: the oldest frame of a quad whose first bytes are in goes to a lane (R16, R70); answers whether the quad is to be
fenced for an error that LANE_XINJECT asked for (R99). A frame whose context is not resident any more is handed to no lane: it
completes with FENCED (R16; DESIGN CHOICE, log 102). -/
def State.frameStaged (s : State) (q : Nat) : Bool × State :=
  match s.frames.list.find? (fun f => f.quad == q && f.st == .reading && f.startable && s.keyReady f) with
  | none => (false, s)
  | some f =>
    if (s.findWay f.elem.d.object).isNone then (false, s.endFrame f 25 stFenced 0)
    else
    match s.pickLane q with
    | none => (false, s.unparkNeed q)
    | some n =>
      if !s.quadClock q then (false, s)
      else
        let s := (s.toLane f n).unparkNeed q
        let s := (s.perfCount (16 + n) f.elem.d.srcLen)
        if s.tile.st == .test && s.flag LANE_XINJECT.ARM n then
          if s.fld LANE_XINJECT.AFTER n ≤ (s.lane n).injectCount then
            let s := s.putFlag LANE_XINJECT.ARM n false
            let (stage, s) := s.freeStage
            match s.frame? f.id with
            | some g => s.laneErr n (s.fld LANE_XINJECT.CAUSE n) stage g
            | none => (false, s)
          else (false, s.updLane n (fun x => { x with injectCount := x.injectCount + 1 }))
        else (false, s)

/-! ## What a lane pushes (R75, R92–R95) -/

/-- AUTH_FAIL completions of a quad are counted in windows; V249 once per window at THRESHOLD, and a THRESHOLD of 0 disables the
count (R98). -/
def State.authFail (s : State) (q : Nat) : State :=
  let s := s.perfCount (104 + q) 1
  let t := s.fld QUAD_AFAIL.THRESHOLD q
  if t = 0 then s
  else
    let s := s.bump QUAD_AFAIL_CNT.COUNT q 1
    if decide (t ≤ s.fld QUAD_AFAIL_CNT.COUNT q) && !(s.quad q).afailRaised then
      (s.updQuad q (fun x => { x with afailRaised := true })).raiseEvent (quadPg q) 0
    else s

/-- The statistics of a context count a frame that has completed (R104). -/
def State.countFrame (s : State) (f : Frame) (status octets : Nat) : State :=
  match s.findWay f.elem.d.object with
  | none => s
  | some k =>
    s.stat k (fun c =>
      if status = stOk then { c with s0 := c.s0 + 1, s1 := c.s1 + BitVec.ofNat 64 octets } else c.countFail status)

/-- The commit of a receive frame that a lane has finished: the outcome as it completes (R92). The commit asks only that the way
holds the context (DESIGN CHOICE, log 100), and an L of 2^64 does not fit its field: it takes a free value (log 101). -/
def State.commitFrame (s : State) (f : Frame) (o : Outcome) : Outcome × State :=
  match s.findWay f.elem.d.object with
  | none => ({ o with status := if o.status = 0 then stFenced else o.status, reason := if o.status = 0 then 0 else o.reason }, s)
  | some k =>
    let c := s.clearCtx k
    let rx := f.elem.d.opcode == 0x11 || f.elem.d.opcode == 0x13
    if o.status = 0 ∧ rx then
      let (r, c') := commitRx c f.slotB f.pn
      let o := if r ≠ 0 then { lateFail stReplay r with octets := 0 } else o
      let x := c'.slot f.slotB
      if 2 ^ 64 ≤ x.pn then
        let (i, s) := s.takeFree
        (o, s.modCtx k (fun _ => c'.setSlot f.slotB { x with pn := (Config.freeValue 64 i).toNat }))
      else (o, s.modCtx k (fun _ => c'))
    else (o, s)

/-- A replay has ended well: TRANSIENT of the lane that erred counts, once its check has passed too (R96); for an error of the
staging bank that of the quad (R100, R329). -/
def State.replayed (s : State) (f : Frame) : State :=
  match f.replayOf with
  | none => s
  | some o =>
    if f.bankErr then s.transient (quadPg f.quad)
    else if f.checkPassed then s.transient (lanePg o)
    else if (s.lane o).erring then s.updLane o (fun x => { x with replayedOk := x.replayedOk + 1 })
    else s

/-- A frame is counted as its completion is first pushed, not again after a replay of the pushed frame (R98, R350, R351). -/
def State.countPush (s : State) (f : Frame) (o : Outcome) : State :=
  if f.committed.isSome then s
  else
    let d := f.elem.d
    let s := (s.perfCount f.lane 1).fnCount f.elem.func (if takesPn d.opcode then 11 else 12) (b2n (o.status == 0))
    let s := (s.fnCount f.elem.func 13 d.srcLen).fnCount f.elem.func 14 (if o.status = 0 then o.outLen else 0)
    if o.status = stAuthFail then s.authFail f.quad else s

/-- A frame's result bytes go to DST, its staging input is freed and its completion is pushed (R71, R75, R94). -/
def State.pushFrame (s : State) (f : Frame) (o : Outcome) : State :=
  let d := f.elem.d
  let n := if f.replayOf.isSome then true else f.retried
  let (data, s) := if o.late then s.freeBytes (min d.dstLen (f.outHeld)) else (o.out, s)
  let s := s.replayed f
  let s := (s.leaveLane f).countPush f o
  let e := f.elem.stamp 5 s.now
  let k : Compl := { elem := e, status := o.status, outLen := o.outLen, reason := o.reason, retried := n, flags := f.an % 4,
                     value := f.pn % 2 ^ 48 }
  if data.isEmpty then ((s.countFrame f o.status o.octets).dropFrame f).push f.lane k
  else
    let s := s.stage f.quad 0 (f.resv + (f.outHeld - data.length))
    let s := s.updFrame f.id (fun g => { g with
      st := .pushed, committed := some (o.status, o.reason), resv := 0, outHeld := data.length, elem := e, retried := n,
      octets := o.octets, key := ([], []) })
    ((s.startWrite (.frameDst f.id) e.attr d.dst data (some f.quad)).2).push f.lane { k with frame := some f.id }

/-- A lane finishes the frame at its head, if it is of the given opcode and its input is in or has failed (R75, R94). A
replay of a frame whose commit was made carries the status that the commit decided (R96). DESIGN CHOICE (log 102): a frame whose
context was dropped from its way meanwhile completes with FENCED. DESIGN CHOICE (log 117): a frame whose SRC failed for good
completes with FABRIC_ERROR, also where an early check of c0 to c7 had failed: the spec does not say which of the two wins. -/
def State.laneFinish (s : State) (n op : Nat) : State :=
  match (s.lane n).frames.head?.bind (fun i => s.frame? i) with
  | none => s
  | some f =>
    if f.elem.d.opcode ≠ op ∨ !s.quadClock f.quad then s
    else if f.failed then s.pushFrame f (lateFail stFabricError rsnFabric)
    else if !f.complete then s
    else
      match s.findWay f.elem.d.object with
      | none =>
        s.pushFrame f (match f.committed with
          | some (st, r) => if st = stOk then lateFail stFenced 0 else lateFail st r
          | none => lateFail stFenced 0)
      | some k =>
        if (s.way k).st == .filling then s else
        let o := laneRun (s.clearCtx k) f.key.1 f.key.2 f.an f.pn f.elem.d f.input
        match f.committed with
        | some (st, r) => s.pushFrame f (if st = o.status then o else lateFail st r)
        | none =>
          let (o, s) := s.commitFrame f o
          s.pushFrame f o

/-- The write responses of a frame's DST bytes are all in: its completion is free to be released, as FABRIC_ERROR if a
write failed twice, and the context counts it (R94, R104, R153). -/
def State.frameDstDone (s : State) (i : Nat) : State :=
  match s.takeMail (fun k => k == .frameDst i) with
  | none => s
  | some (x, s) =>
    match s.frame? i with
    | none => s
    | some f =>
      let bad := x.failed.isSome
      let s := s.xferRetry (quadPg f.quad) x
      let s := if bad then s else s.countFrame f ((f.committed.map (fun p => p.1)).getD 0) f.octets
      s.settle f (fun c =>
        if bad then { c with status := stFabricError, reason := rsnFabric, outLen := 0, frame := none }
        else { c with retried := c.retried || x.retried, frame := none }) bad

/-! ## SRC data (R94) -/

/-- Bytes of a frame's SRC arrive. -/
def State.frameBytes (s : State) (i off : Nat) (b : Bytes) : State :=
  s.updFrame i (fun f => { f with src := Tbl.ins (Tbl.del f.src off) off b })

/-- The read of a frame's SRC has ended. A successful re-read counts in TRANSIENT, a failed one in LASTING; a frame whose
first 128 bytes are missing never reaches a lane (R94). -/
def State.frameSrcDone (s : State) (i : Nat) (x : Xfer) : State :=
  match s.frame? i with
  | none => s
  | some f =>
    let re := x.retried || f.reread
    let qp := quadPg f.quad
    if x.failed.isNone then
      let s := if re then s.transient qp else s
      s.updFrame i (fun f => { f with complete := true, retried := f.retried || re })
    else
      let s := s.lasting qp
      let f := { f with failed := true }
      if f.st == .reading && !f.startable then s.endFrame f 25 stFabricError rsnFabric
      else s.updFrame i (fun f => { f with failed := true })

/-! ## Replay and checks (R96, R99) -/

/-- A lane can take a replay: an eligible one of those the replay may go to, or any where none of them serves any more; its own
lane, after its check, also while that goes down (R96). -/
def State.replayFit (s : State) (f : Frame) (n : Nat) : Bool :=
  let own := f.replayTo == [n] && s.blk (lanePg n) == .goingDown && (s.lane n).check == .idle && !s.stalling n &&
    decide ((s.lane n).frames.length < s.laneMax (n / 4))
  own || (s.eligible n && (f.replayTo.contains n || !f.replayTo.any (fun m => s.laneFit m || s.blk (lanePg m) == .on)))

/-- LANE_REPLAY_START: the oldest frame that waits for its replay and has a lane goes to it (R96); one whose context is gone
completes with FENCED (DESIGN CHOICE, log 102). -/
def State.replayStart (s : State) (q : Nat) : State :=
  match s.frames.list.find? (fun f => f.quad == q && f.st == .replay && s.keyReady f && (quadLanes q).any (fun n => s.replayFit f n)) with
  | none => s
  | some f =>
    if !s.quadClock q then s
    else if (s.findWay f.elem.d.object).isNone then s.endFrame f f.lane stFenced 0
    else
      match s.pickOf q (fun n => s.replayFit f n) with
      | none => s
      | some n =>
        let o := f.replayOf.getD n
        let s := s.toLane f n
        let s := s.bump QUAD_REPLAY.COUNT q 1
        let s := s.updLane o (fun x => { x with ownReplay := x.ownReplay.filter (· != f.id) })
        if n = o then s else s.raiseEvent (lanePg o) 0

/-- A lane that leaves its block states, or sleeps: it holds nothing, and a check that was pending is dropped (R99). -/
def State.laneClear (s : State) (n : Nat) : State := (s.setLane n {}).putFlag LANE_CHECK.RUN n false

/-- A lane holds no frame and owes no check and no replay of its own (R37, R96). -/
def State.laneIdle (s : State) (n : Nat) : Bool :=
  let x := s.lane n
  x.frames.isEmpty && !x.erring && !s.frames.list.any (fun f => f.st == .replay && f.replayTo == [n])

/-- The frames that waited for a lane's own check end with FENCED. -/
def State.ownFail (s : State) (n : Nat) (l : List Nat) : State :=
  l.foldl (fun s i =>
    match s.frame? i with
    | some f => if f.st == .pushed then s.endPushed f stFenced 0 else s.endFrame f n stFenced 0
    | none => s) s

/-- The check after an error has passed: TRANSIENT counts each erring frame whose replay has succeeded, and will count those whose
replay is still to come (R96). -/
def State.checkPassed (s : State) (n k : Nat) : State :=
  let s := { s with frames := { s.frames with list := s.frames.list.map (fun (f : Frame) =>
    if f.replayOf == some n && !f.bankErr then { f with checkPassed := true } else f) } }
  (List.range k).foldl (fun s _ => s.transient (lanePg n)) s

/-- The check of a lane ends once the frames in it have finished. Answers whether the lane is to be fenced, with its record and
counts; where the replay failed its quad is fenced already (R96, R99). -/
def State.laneCheckEnd (s : State) (n : Nat) (pass : Bool) : Bool × State :=
  let x := s.lane n
  if x.check == .idle || !x.frames.isEmpty || !(s.isOn (lanePg n) || (s.blk (lanePg n) == .goingDown && x.erring)) then (false, s)
  else
    let s := s.putFlag LANE_CHECK.DONE n true
    let s := s.putFlag LANE_CHECK.PASS n pass
    let s := s.raiseEvent (lanePg n) 1
    let s := s.setLane n { x with check := .idle, erring := false, replayFailed := false, ownReplay := [], replayedOk := 0 }
    let s := s.putFlag LANE_CHECK.RUN n false
    if pass then (false, if x.erring then s.checkPassed n x.replayedOk else s)
    else
      let (stage, s) := s.freeStage
      let s := (s.laneRecord n 5 stage).raiseFault (lanePg n) 9
      if x.erring && x.replayFailed then (false, s)
      else (true, (s.lasting (lanePg n)).ownFail n x.ownReplay)

/-- A check is asked for: the lane takes no new frame and finishes those in it (R99). -/
def State.laneCheckAsk (s : State) (n : Nat) : State :=
  if s.isOn (lanePg n) && (s.lane n).check != .waiting then
    s.updLane n (fun x => { x with check := .waiting })
  else s

/-- The check period of a lane has passed: its check runs once it holds no frame (R99). -/
def State.laneCheckDue (s : State) (n : Nat) : State :=
  if s.isOn (lanePg n) && (s.lane n).check == .idle && s.fld LANE_XCHECK.PERIOD n != 0 then
    s.updLane n (fun x => { x with check := .due })
  else s

/-- An uncorrectable staging error (R100): input bytes are read once more as short data is (R94); an error in output bytes
replays the frame, and one in a replay's is the failed retry (R96). Answers whether the quad is to be fenced. -/
def State.stagingEcc (s : State) (i : Nat) (output : Bool) : Bool × State :=
  match s.frame? i with
  | none => (false, s)
  | some f =>
    let s := s.raiseFault (quadPg f.quad) 10
    if output then
      match f.st, f.replayOf with
      | .pushed, some o => (true, s.retryFailed f o)
      | .inLane, some o => (true, s.retryFailed f o)
      | .pushed, none =>
        let s := s.dropXfers (fun k => k == .frameDst i)
        (false, ((s.withdraw f).toReplay f).updFrame i (fun g => { g with bankErr := true }))
      | .inLane, none => (false, ((s.leaveLane f).toReplay f).updFrame i (fun g => { g with bankErr := true }))
      | _, _ => (false, s)
    else
      match f.st with
      | .pushed => (false, s)
      | _ =>
        if f.reread then
          (false, s.frameSrcDone i { id := 0, kind := .frameSrc i, left := 0, retried := true, failed := some .short })
        else
          let s := s.dropXfers (fun k => k == .frameSrc i)
          let s := s.updFrame i (fun f => { f with src := [], complete := false, reread := true })
          (false, (s.startRead (.frameSrc i) f.elem.attr f.elem.d.src f.elem.d.srcLen (some f.quad)).2)

end Sys2Proof.Machine
end

