-- ==== Sys2Proof/Machine/Blocks.lean ====
section
/-! DEFINITION. The block states: clock enables, power-up, shut-down, wipe and fences of the blocks and of the tile's units
(R31, R37–R41, R73, R165, R184, R209, R228, R246, R254, R267, R303, R304, R349, R358, R406, R407). -/

namespace Sys2Proof.Machine

/-! ## Blocks and their clock enables -/

/-- The block's bit in CLK_EN and CLK_RUN, and the page's that follows it (R31, R316). -/
def clkBit (p : PageRef) : Option Nat :=
  match p.kind with
  | .qeng | .rq | .cq | .function => some 0
  | .dma | .dmaChannel => some 1
  | .crown => some 2
  | .digest | .result => some 3
  | .bignum => some 4
  | .rng => some 5
  | .key => some 6
  | .ctx => some 7
  | .perf => some 8
  | .quad => some (12 + p.inst)
  | .dcore => some (16 + p.inst)
  | .lane => some (32 + p.inst)
  | _ => none

/-- A KT0808 mask covers a block with 1 (R304). -/
def maskCovers (m : Nat) (p : PageRef) : Bool :=
  match p.kind with
  | .lane => bitAt m (p.inst / 2)
  | .quad => bitsOf m (2 * p.inst + 1) (2 * p.inst) != 0
  | .digest | .dcore | .result => bitAt m 8
  | .bignum => bitAt m 9
  | .rng => bitAt m 10
  | .dma | .dmaChannel => bitAt m 11
  | .qeng | .crown | .rq | .cq | .function => bitAt m 12
  | .ctx => bitAt m 13
  | .key => bitAt m 14
  | .perf => bitAt m 15
  | _ => false

/-- The blocks with a header of their own (R406): those of a single page, quads, lanes, digest cores, DMA channels. -/
def allBlocks : List PageRef :=
  [pg .rng, pg .key, pg .ctx, pg .qeng, pg .crown, pg .digest, pg .bignum, pg .dma, pg .perf] ++
    (List.range 4).map (fun n => ⟨.quad, n⟩) ++ (List.range 16).map (fun n => ⟨.lane, n⟩) ++
    (List.range 4).map (fun n => ⟨.dcore, n⟩) ++ (List.range 16).map (fun n => ⟨.dmaChannel, n⟩)

/-- The enable of a block as CLK_EN reads it: its bit, or the RUN_EN mask's in COMPAT_MODE (R303, R304). -/
def State.clkEnBit (s : State) (p : PageRef) : Bool :=
  if s.flag CLK_COMPAT.COMPAT_MODE 0 then maskCovers (s.fld CLK_RUN_EN.MASK 0) p
  else
    match clkBit p with
    | some b => (s.reg .CLK_EN 0).getLsbD b
    | none => true

/-- The block's clock enable acts as 1 for a block that would come up: a quad needs QPLL_q locked or to be parked, a lane
its quad ON, a DMA channel the DMA engine ON (R73, R254, R293). -/
def State.clkActs (s : State) (p : PageRef) : Bool :=
  s.clkEnBit p &&
    (match p.kind with
     | .quad => s.quadClock p.inst || (s.quad p.inst).parked
     | .lane => s.isOn (quadPg (p.inst / 4))
     | .dmaChannel => s.isOn (pg .dma)
     | _ => true)

/-- Frames of a quad that no lane has taken yet. -/
def State.stagedFrames (s : State) (q : Nat) : Bool :=
  s.frames.list.any (fun f => f.quad == q && (f.st == .reading || f.st == .replay))

/-- The block's clock enable acts as 1 for a block that runs. The lanes of a quad that goes down stay until every element
in its staging bank has been handed to them (R73). -/
def State.clkHolds (s : State) (p : PageRef) : Bool :=
  match p.kind with
  | .lane =>
    let q := p.inst / 4
    (s.clkEnBit p && s.isOn (quadPg q)) || (s.blk (quadPg q) == .goingDown && s.stagedFrames q)
  | .dmaChannel => s.clkEnBit p && s.isOn (pg .dma)
  | _ => s.clkEnBit p

/-- The clock that a block lies on runs: LCLK of its quad, which stops for a lane that is parked, or FCLK (R292, R303, R307). -/
def State.clkSource (s : State) (p : PageRef) : Bool :=
  match p.kind with
  | .lane => s.clk.lock.getLsbD (2 + p.inst / 4) && !(s.lane p.inst).parked
  | .quad => s.clk.lock.getLsbD (2 + p.inst)
  | _ => s.clk.lock.getLsbD 1

/-- The block's clock actually runs: its CLK_RUN bit (R303). -/
def State.clkRuns (s : State) (p : PageRef) : Bool :=
  (s.blk p != .off || s.clkActs p) && s.clkSource p && s.pwr.core && !s.domainsDown

/-- CLK_EN as it reads, or CLK_RUN, from what holds of each block. -/
def clkWord (on : PageRef → Bool) : Nat :=
  allBlocks.foldl (fun a p =>
    match p.kind, clkBit p with
    | .dmaChannel, _ => a
    | _, some b => if on p then a + 2 ^ b else a
    | _, none => a) 0

/-- The fabric, the clocks and the domains let the tile work (R296, R306). -/
def State.working (s : State) : Bool := s.pwr.core && !s.domainsDown && !s.clk.safe

/-- A step of the tile's work: frozen while the outputs are held safe, and absent while the domains are down (R296). -/
def State.whileWorking (s : State) (f : State → State) : State := if s.working then f s else s

/-! ## Work in flight -/

/-- What producers are still writing for: their elements complete with a status instead. -/
def State.abortFinishes (s : State) (p : Finish → Bool) (status reason : Nat) : State :=
  let l := s.finishes.filter p
  let s := s.dropXfers (fun k => match k with | .elemWrite j => l.any (fun f => f.job == j) | _ => false)
  let s := { s with finishes := s.finishes.filter (fun f => !p f) }
  l.foldl (fun s f =>
    let s := match f.audit with
      | some (h, n) => s.auditClear h n false
      | none => s
    s.push f.producer { f.compl with
      status := status, reason := reason, outLen := 0
      flags := if f.producer = 20 ∧ status = stAbortedAlarm then 0 else f.compl.flags }) s

/-- Some producer still waits for the writes of its results. -/
def State.finishing (s : State) (producer : Nat) : Bool := s.finishes.any (fun f => f.producer == producer)

/-- The numbers of the jobs that some engine holds. -/
def State.heldJobs (s : State) : List Nat :=
  (s.ctx.jobs ++ s.key.jobs ++ s.rng.jobs ++ s.digest.chans.flatMap (fun p => p.2.job.toList ++ p.2.next) ++
    s.bignum.chans.flatMap (fun p => p.2.queue)).map (fun (j : Job) => j.id)

/-- Reads for jobs that no engine holds any more are taken and discarded (R378). -/
def State.dropReads (s : State) : State :=
  let live := s.heldJobs
  s.dropXfers (fun k => match k with | .elemRead j _ => !live.contains j | _ => false)

/-- Elements issued and not yet dispatched complete with a status, and so do the chains' elements (R61). -/
def State.abortIssued (s : State) (status : Nat) : State :=
  let s := s.issueRest
  let l := s.qeng.issued
  let s := { s with qeng := { s.qeng with issued := [] } }
  let s := l.foldl (fun s e => (s.unhold e.rq).pushAborted status 0 e) s
  s.qeng.chains.foldl (fun s c => s.chainFenced c status) s

/-! ## Wipes -/

/-- Dirty ways that satisfy p are lost without a write-back (R334). -/
def State.loseWays (s : State) (p : Nat → Bool) : State :=
  let n := (s.ctx.ways.filter (fun w => p w.1 && (w.2.dirty || w.2.st == .writing))).length
  s.bump FLT_DIRTY_LOST.COUNT 0 n

/-- The register file without the entries of some registers: they read their reset values. -/
def State.resetRegs (s : State) (p : Reg → Bool) : State :=
  let gone := (allRegs.filter p).map (fun r => r.idx)
  { s with regs := s.regs.filter (fun e => !gone.contains (e.1 % 512)) }

/-- The counters return to zero and the tags end (R349, R358). -/
def State.perfOff (s : State) : State :=
  let s := s.resetRegs (fun r => r == .PERF_CNT || r == .FN_CNT)
  { s with perf := { s.perf with inflight := 0, seeded := false, seed := none, lfsr := 0 } }

/-- What the crown holds is lost: completions in FIFOs, waiting and held ones, grants. A CQ's next index goes back to the
published one, and every count of elements in flight is 0. The vector events of the DMA engine stay in its FIFO. Tagged
completions lost so leave the record of a discarded entry (R356). -/
def State.crownWipe (s : State) : State :=
  let s := (s.traceDiscard s.unwritten).dropXfers (fun k => match k with | .cqEntry _ _ | .cqMirror _ _ => true | _ => false)
  let s := { s with
    crown := { s.crown with
      fifos := s.crown.fifos.filter (fun p => p.1 == 24), stalled := s.crown.stalled.filter (fun p => p.1 == 24)
      waiting := [], chainPos := [], chainFloor := s.qeng.nextChain
      cqs := Tbl.mapVals {} (fun (x : Cq) => { x with
        held := [], writing := [], mirror := none, full := false, grants := 0, nextPos := x.pub }) s.crown.cqs }
    qeng := { s.qeng with
      rqs := Tbl.mapVals {} (fun (x : Rq) => { x with
        inflight := 0, ordRel := x.ordNext, st := if x.st == RqState.held then RqState.active else x.st }) s.qeng.rqs } }
  s.liveRqs.foldl (fun s q => s.rqDrainEnd q) s

/-- What a block loses as it enters OFF. -/
def State.wipeBlock (s : State) (p : PageRef) : State :=
  match p.kind with
  | .lane => s.laneClear p.inst
  | .quad => (s.unparkQuad p.inst).setQuad p.inst {}
  | .dcore => s.setDcore p.inst {}
  | .digest => (s.digestWipe).pounceDrop 64 8
  | .bignum => s.bnWipe
  | .rng => s.rngStop
  | .key => s.clearDerived.losePounce.clearSecrets.attestAbort.portDrops.kdfSync
  | .ctx =>
    let s := (s.loseWays (fun _ => true)).ctxDropCaches.pounceDrop 0 64
    { s with ctx := { s.ctx with
      badBanks := [], cmd := none, autoFlush := false
      store := if s.ctx.store == .flushing then .ready else s.ctx.store } }
  | .qeng => s.rewindAll
  | .crown => s.crownWipe
  | .dma => { s with dma := {} }
  | .dmaChannel => s.dmaDrop p.inst
  | .perf => s.perfOff
  | _ => s

/-! ## Coming up and going down -/

/-- What happens as a block enters COMING_UP: the noise cells start, and the digest engine reads a slot image that is to
be restored, into banks with pounce keys (R185, R222, R242). -/
def State.upStarts (s : State) (p : PageRef) : State :=
  match p.kind with
  | .rng => s.rngStart
  | .digest =>
    if s.digest.image.isSome then
      (s.startRead .slotRestore (ownAttr true true false) (4096 * s.fld DG_SAVE_BASE.BASE 0) (16 + 4096 * 136 + 16) none).2.pounceFresh
    else s
  | _ => s

/-- An OFF block with EN = 1 whose clock enable acts comes up (R37). -/
def State.tryUp (s : State) (p : PageRef) : State :=
  let h := s.hdr p
  if h.st == .off && h.en && s.clkActs p && s.pwr.core && s.tile.st != .alarmed then
    ((s.setBlk p .comingUp).updHdr p (fun h => { h with rearm := false })).upStarts p
  else s

/-- What happens as a block that was ON begins to go down (R37): what each chapter lets finish goes on. -/
def State.downStarts (s : State) (p : PageRef) : State :=
  match p.kind with
  | .rng =>
    let s := (s.rngNotReady.randomAbort stRngUnavailable).stopCells.dropReads
    { s with rng := { s.rng with swFifo := [] } }
  | .key => s.portDrops
  | .ctx =>
    if (s.ctx.store == .ready || s.ctx.store == .flushing) && s.key.wrap.isSome && s.key.tree.isSome then
      ({ s with ctx := { s.ctx with autoFlush := true } }).flushStart.flushCheck
    else s
  | .digest => (s.dropHeld (fun _ => true)).kdfSync
  | .dcore => s.coreLeaves p.inst
  | .qeng => s.rewindAll
  | _ => s

/-- A block leaves ON for GOING_DOWN. -/
def State.goDown (s : State) (p : PageRef) : State :=
  let s := if p.kind == .perf then s.perfCount 127 s.perf.inflight else s
  (s.setBlk p .goingDown).downStarts p

/-- A block's EN goes to 0 (R37). -/
def State.enOff (s : State) (p : PageRef) : State :=
  let s := s.updHdr p (fun h => { h with en := false, rearm := false })
  if (s.hdr p).st == .on then s.goDown p else s

/-- One block meets its clock enable as it now acts (R37). -/
def State.follow (s : State) (p : PageRef) : State :=
  match (s.hdr p).st with
  | .off => s.tryUp p
  | .comingUp | .on | .goingDown => if s.clkHolds p then s else s.enOff p
  | .fenced => s

/-- Every block meets its clock enable: quads before their lanes, the DMA engine before its channels. -/
def State.followAll (s : State) : State := allBlocks.foldl (fun s p => s.follow p) s

/-- The lanes of a quad, or the channels of the DMA engine, follow it. -/
def State.followUnder (s : State) (p : PageRef) : State :=
  match p.kind with
  | .quad => (quadLanes p.inst).foldl (fun s n => s.follow (lanePg n)) s
  | .dma => (List.range 16).foldl (fun s c => s.follow (dchPg c)) s
  | _ => s

/-- The lanes of every quad follow it: the staging bank of one that goes down may have emptied (R73). -/
def State.lanesFollow (s : State) : State :=
  (List.range 4).foldl (fun s q => if s.blk (quadPg q) == .goingDown then s.followUnder (quadPg q) else s) s

/-- What happens as a block reaches ON (R349, R354, R342, R238, R246). -/
def State.upEnded (s : State) (p : PageRef) : State :=
  match p.kind with
  | .perf =>
    let s := s.put PERF_STS.GEN 0 ((s.fld PERF_STS.GEN 0 + 1) % 65536)
    { s with rng := { s.rng with
      ordWait := s.rng.ordWait.filter (fun u => u != RngUse.traceSeed) ++ [RngUse.traceSeed] } }
  | .key => s.askDerive.pounceFresh.kdfSync
  | .ctx => s.pounceFresh
  | .digest => (s.pounceFresh.kdfSync).bnGrant 64
  | .quad | .dma => s.followUnder p
  | .dcore => s.kdfSync.coresGo
  | _ => s

/-- The initialisation of a block can end: the random number source at RNG_READY, the context store with WRAP and TREE
while STORE is READY, the digest engine with its slot image restored, a quad with its PLL locked (R407). -/
def State.initReady (s : State) (p : PageRef) : Bool :=
  match p.kind with
  | .rng => s.rng.ready
  | .ctx => s.ctx.store != .ready || (s.key.wrap.isSome && s.key.tree.isSome)
  | .digest => s.digest.image.isNone
  | .quad => s.quadClock p.inst
  | _ => true

/-- The domains of a block in COMING_UP are up, and its initialisation still waits for something else: PWR_WAIT falls (R33). -/
def State.domainsUp (s : State) (p : PageRef) : State :=
  if (s.hdr p).st == .comingUp then s.updHdr p (fun h => { h with pwrWait := false }) else s

/-- Initialisation is complete (R37). -/
def State.initDone (s : State) (p : PageRef) : State :=
  if (s.hdr p).st == .comingUp then
    let s := s.setBlk p .on
    if (s.hdr p).en then s.upEnded p
    else
      match p.kind with
      | .quad | .dma => s.goDown p
      | _ => (s.upEnded p).goDown p
  else s

/-- The slot image that has been read is opened before DIGEST reaches ON, once the root's HMAC states are there, channel 255 is on
a core for SLOTWRAP and the banks of the slots have keys (R185, R238, R242). A read that failed leaves every slot EMPTY. -/
def State.slotsBack (s : State) : State :=
  if s.blk (pg .digest) != .comingUp then s
  else
    match s.rootBytes with
    | none => s
    | some root =>
      if !s.key.rootStates || !(List.range 8).all (fun b => s.masks (64 + b)) then s
      else
        let t := s.kdfSeat
        if !t.kdfOnCore then t
        else
          match t.takeMail (fun k => k == .slotRestore) with
          | some (x, s) =>
            let s := (s.xferRetry (pg .digest) x).kdfCount slotWrapCost
            (s.restoreImage root (if x.failed.isSome then [] else x.bytes)).kdfNext
          | none => s

/-- What some producers have finished has reached the crown (R37, R149). -/
def State.pushed (s : State) (ps : List Nat) : Bool := ps.all (fun p => (s.fifo p).isEmpty && !s.stalling p)

/-- The shut-down of a block can end (R37, R73, R165, R184, R209, R228, R254, R267). -/
def State.downReady (s : State) (p : PageRef) : Bool :=
  match p.kind with
  | .lane => s.laneIdle p.inst && s.pushed [p.inst]
  | .quad =>
    s.frames.list.all (fun f => f.quad != p.inst) &&
      (quadLanes p.inst).all (fun n => s.blk (lanePg n) == .off || s.blk (lanePg n) == .fenced)
  | .dcore => (s.dcore p.inst).chan.isNone
  | .digest => s.digestIdle && s.digest.slotWait.isEmpty && [16, 17, 18, 19].all (fun p => !s.finishing p) && s.pushed [16, 17, 18, 19]
  | .bignum => s.bnIdle && !s.finishing 20 && s.pushed [20]
  | .rng => s.rng.jobs.isEmpty && !s.finishing 23 && s.pushed [23]
  | .key => s.key.jobs.isEmpty && s.key.attest.isNone && !s.finishing 21 && s.pushed [21]
  | .ctx => s.ctx.misses.isEmpty && s.ctx.jobs.isEmpty && s.ctx.cmd.isNone && s.ctx.store != .flushing && !s.finishing 22 &&
      s.pushed [22]
  | .qeng => s.qeng.issuing.isEmpty && s.qeng.issued.isEmpty && s.qeng.chains.isEmpty &&
      s.qeng.rqs.all (fun q => q.2.inflight == 0)
  | .crown => s.granted == 0 && s.crown.cqs.all (fun c => c.2.writing.isEmpty && c.2.mirror.isNone)
  | .dma => (List.range 16).all (fun c => s.blk (dchPg c) == .off || s.blk (dchPg c) == .fenced)
  | .dmaChannel => s.dchQuiet p.inst
  | .perf => !s.xferPending (fun k => match k with | .trace _ _ _ | .traceMirror _ _ => true | _ => false)
  | _ => true

/-! ## Fences -/

/-- The level at which a block is fenced (R330). -/
def fenceLevel (p : PageRef) : Nat :=
  match p.kind with
  | .lane | .dcore | .dmaChannel => 3
  | _ => 4

/-- A fenced block's requests in flight complete with FENCED, or with the status of a tile fence's cause; what siblings can
take goes to them (R37). -/
def State.abortBlock (s : State) (p : PageRef) (st : Nat) : State :=
  match p.kind with
  | .lane =>
    let l := (s.lane p.inst).frames
    let s := s.endFrames (fun f => f.st == .inLane && l.contains f.id) st
    s.laneClear p.inst
  | .quad => s.endFrames (fun f => f.quad == p.inst) st
  | .dcore => s.coreStops p.inst
  | .digest =>
    let s := (s.digestAbort st rsnDgFenced).abortFinishes (fun f => decide (16 ≤ f.producer ∧ f.producer ≤ 19)) st rsnDgFenced
    (s.bnUnserved st).dropReads
  | .bignum => ((s.bnAbort st 0x30).abortFinishes (fun f => f.producer == 20) st 0x30).dropReads
  | .rng => ((s.randomAbort st).abortFinishes (fun f => f.producer == 23) st 0).stopCells.rngWipe
  | .key => ((s.keyAbort st).abortFinishes (fun f => f.producer == 21) st 0).dropReads.portDrops
  | .ctx =>
    let s := s.endFrames (fun f => f.st != .pushed) st
    ((s.ctxAbort st).abortFinishes (fun f => f.producer == 22) st 0).dropReads
  | .qeng => s.rewindAll.abortIssued st
  | .dma => (List.range 16).foldl (fun s c => s.dmaDrop c) s
  | .dmaChannel => s.dmaDrop p.inst
  | .perf => if s.isOn p then s.perfCount 127 s.perf.inflight else s
  | _ => s

/-- A block enters FENCED: PAGE_FENCE is filled, a DMA channel's vector counts (R268), and the record is logged, unless it is the
tile's fence (R33, R37, R335).
The lanes of a fenced quad and the channels of a fenced DMA engine go down, and a quad that goes down may have lost what it held
in staging (R73). -/
def State.enterFenced (s : State) (p : PageRef) (r : FenceRec) : State :=
  let s := s.abortBlock p stFenced
  let s := s.setBlk p .fenced
  let s := if p.kind == .dcore then s.kdfSync.takeCores 4 else s
  let s := (s.updHdr p (fun h => { h with fence := r, rearm := false, pendFence := none })).raiseFault p 7
  let s := if p.kind == .dmaChannel then (s.raiseFault p 8).pushEvent (144 + p.inst) else s
  let s := if r.level == 5 then s else s.logFence r.level r.cause (PageKind.code p.kind) p.inst
  (s.followUnder p).lanesFollow

/-- A block is fenced (R37): at once from COMING_UP or ON, after the shut-down from GOING_DOWN; an OFF block stays OFF. -/
def State.fenceBlock (s : State) (p : PageRef) (r : FenceRec) : State :=
  let h := s.hdr p
  match h.st with
  | .off | .fenced => s
  | .goingDown => if h.pendFence.isSome then s else s.setHdr p { h with pendFence := some r, rearm := false }
  | .comingUp | .on => s.enterFenced p r

/-- A block is fenced at its own level with a cause; the messages of the fence go in ascending vector number (R163). -/
def State.fence (s : State) (p : PageRef) (cause : Nat) : State :=
  (s.fenceBlock p ⟨cause, fenceLevel p, false⟩).ascending s.irq.msgs.length

/-- A unit of the big-number engine is fenced with a cause; with both units FENCED the block is (R204, R305, R314). -/
def State.fenceBnUnit (s : State) (u : BnUnit) (cause : Nat) : State :=
  if s.blk (pg .bignum) == .off || s.blk (pg .bignum) == .fenced || (s.bnUnit u).fenced then s
  else
    let s := s.bnUnitLost u cause
    if s.bnBothLost then s.fence (pg .bignum) 0x0E else s

/-- The shut-down of a block ends: it is wiped and OFF, or FENCED if a fence waited for it, or comes up again if REARM is
set (R37, R38). -/
def State.shutdownDone (s : State) (p : PageRef) : State :=
  let h := s.hdr p
  if h.st != .goingDown || !s.downReady p then s
  else
    let s := s.wipeBlock p
    match h.pendFence with
    | some r => s.enterFenced p r
    | none =>
      let s := (s.setBlk p .off).tryUp p
      match p.kind with
      | .lane | .dmaChannel => s
      | _ => s.followUnder p

/-- PAGE_CTL.EN is written (R37, R38, R406). While the tile is ALARMED a write of 1 is ignored and sets SEQ (R326). DESIGN
CHOICE (log 90): EN = 1 in COMING_UP after EN = 0 lets the block stay ON. -/
def State.enWrite (s : State) (p : PageRef) (en : Bool) : State :=
  if !(PageKind.block p.kind) then s
  else if s.tile.st == .alarmed && en then s.seq p
  else
    let h := s.hdr p
    match h.st, en with
    | .off, true => (s.setHdr p { h with en := true }).tryUp p
    | .off, false => s.setHdr p { h with en := false, rearm := false }
    | .comingUp, _ => s.setHdr p { h with en := en }
    | .on, true => s.setHdr p { h with en := true }
    | .on, false => (s.enOff p).followUnder p
    | .goingDown, true => s.setHdr p { h with en := true, rearm := true }
    | .goingDown, false => s.setHdr p { h with en := false, rearm := false }
    | .fenced, true => s
    | .fenced, false =>
      let s := s.wipeBlock p
      let s := (s.setHdr p { s.hdr p with en := false }).setBlk p .off
      s.followUnder p

/-- A block has stayed in COMING_UP or GOING_DOWN beyond the limit (R39): SEQ is set and it is fenced at once. -/
def State.transTimeout (s : State) (p : PageRef) : State :=
  let st := (s.hdr p).st
  if st == .comingUp || st == .goingDown then (s.enterFenced p ⟨0x05, fenceLevel p, false⟩).seq p else s

/-- A block goes to OFF at once, wiped, with EN cleared (R37's last row, R43). -/
def State.forceOff (s : State) (p : PageRef) : State :=
  let s := s.wipeBlock p
  let s := s.updHdr p (fun h => { h with en := false, rearm := false, pendFence := none })
  s.setBlk p .off

/-- Every block of the domains other than PD0, PD1 and PD110 goes to OFF, wiped. -/
def State.allOff (s : State) : State :=
  let s := allBlocks.foldl (fun s p => s.forceOff p) s
  { s with frames := { s.frames with list := [] } }

/-! ## Soft reset (R40) -/

/-- The instances of a register that lie on a page: the n-th page of its kind holds count of them. -/
def pageRegs (p : PageRef) : List (Reg × Nat) :=
  (allRegs.filter (fun r => r.desc.page == p.kind)).flatMap (fun r =>
    (List.range r.desc.count).map (fun i => (r, p.inst * r.desc.count + i)))

/-- Every body register of a page returns to its reset value, with what the block keeps for it. KEY_COUNTS and KEY_SESSION last
until vdd_ao is lost (R236, R253; log 91). -/
def State.resetBody (s : State) (p : PageRef) : State :=
  let goes (r : Reg) : Bool :=
    r != .KEY_COUNTS && r != .KEY_SESSION && (p.kind != .function || r.desc.flds.any (fun f => f.acc != .ro && f.acc != .rc))
  let s := (pageRegs p).foldl (fun s x => if goes x.1 then s.clearReg x.1 x.2 else s) s
  match p.kind with
  | .rq => (List.range 16).foldl (fun s i => s.setRq (16 * p.inst + i) {}) s
  | .cq => (List.range 16).foldl (fun s i => s.setCq (16 * p.inst + i) {}) s
  | .dmaChannel => s.setDch p.inst {}
  | .digest => { s with digest := { s.digest with image := none, saved := 0 } }
  | .rng => { s with rng := { s.rng with force := false } }
  | _ => s

/-- A soft reset starts: it acts only while the block is OFF (R40, R406). -/
def State.softReset (s : State) (p : PageRef) : State :=
  if (PageKind.fixed p.kind) || p.kind == .result || s.blk p != .off then s.seq p
  else
    let s := s.resetBody p
    s.updHdr p (fun h => { h with
      softReset := true, lock := .closed, fault := 0, faultEn := 0, event := 0, eventEn := 0, transient := 0, lasting := 0 })

end Sys2Proof.Machine
end

