-- ==== Sys2Proof/Machine/Tamper.lean ====
section
/-! DEFINITION. Function and tile fences, the qualifiers and sensors, and the tamper response (R318–R338, R346, R97, R247,
R285). -/

namespace Sys2Proof.Machine

/-! ## Functions (R333) -/

/-- A function is fenced. -/
def State.fnFenced (s : State) (f : Nat) : Bool := bitAt (s.fld FLT_FUNC.MAP (f / 32)) (f % 32)

/-- A function is fenced: its queues, its DMA channels and its HELD digest channels stop; V64 + f is raised and one record
is logged. A function that is fenced already is fenced once. -/
def State.functionFence (s : State) (f cause : Nat) : State :=
  if s.fnFenced f then s
  else
    let s := s.put FLT_FUNC.MAP (f / 32) (s.fld FLT_FUNC.MAP (f / 32) + 2 ^ (f % 32))
    let s := (List.range 256).foldl (fun s q => if s.fld RQ_CFG.FUNC q == f then s.fenceQueue q 3 false else s) s
    let s := s.fenceChains (fun e => e.func == f) stFenced
    let s := (List.range 64).foldl (fun s c => if s.fld CQ_CFG.FUNC c == f then s.fenceCq c 3 else s) s
    let s := (List.range 16).foldl (fun s c =>
      let h := s.hdr (dchPg c)
      if h.ownerValid && h.ownerFunc.toNat == f then s.dmaDisable c else s) s
    let s := s.dropHeld (fun x => x.owner == f)
    (s.countVec (64 + f) 1).logFence 1 cause 23 f

/-- Every queue and CQ of a function is DISABLED. -/
def State.fnQuiet (s : State) (f : Nat) : Bool :=
  (List.range 256).all (fun q => s.fld RQ_CFG.FUNC q != f || (s.rq q).st == .disabled) &&
    (List.range 64).all (fun c => s.fld CQ_CFG.FUNC c != f || (s.cq c).st == .disabled)

/-- A write of 1 to the bit of a function ends its fence, once every queue of it is DISABLED (R333). -/
def State.functionClear (s : State) (f : Nat) : State :=
  if !s.fnFenced f then s
  else if s.fnQuiet f then s.put FLT_FUNC.MAP (f / 32) (s.fld FLT_FUNC.MAP (f / 32) - 2 ^ (f % 32))
  else s.seq (pg .tamper)

/-- Every queue and CQ that is not DISABLED reads FENCED after a tile fence or an alarm, its cause as it was (R346), and
RQ_FENCED is set where a queue is (R67). -/
def State.fenceQueues (s : State) : State :=
  let s := if s.liveRqs.isEmpty then s else s.raiseFault (pg .qeng) 9
  let s := s.liveRqs.foldl (fun s q =>
    (s.updRq q (fun x => { x with st := .fenced, fetching := false, ahead := [], fetchFenced := false })).putFlag
      RQ_ERR.FENCED q true) s
  (List.range 64).foldl (fun s c => s.fenceCq c (s.fld CQ_ERR.CAUSE c)) s

/-! ## Work that stops -/

/-- The page-ins under way stop, and what waits for them or in the context store logic completes with a status;
write-backs go on. -/
def State.ctxHalt (s : State) (st : Nat) : State :=
  let ms := s.ctx.misses.filter (fun m => !m.leafOnly)
  let gone (h : Nat) : Bool := ms.any (fun m => m.handle == h)
  let s := s.dropXfers (fun k => match k with
    | .ctxRecord h => gone h
    | .treeNode h _ _ => gone h
    | _ => false)
  let s := ({ s with ctx := { s.ctx with misses := s.ctx.misses.filter (fun m => m.leafOnly) } }).unholdAll
  let fill := (s.ctx.ways.filter (fun w => w.2.st == .filling)).map (fun w => w.1)
  let s := fill.foldl (fun s k => s.wipeWay k) s
  let s := ms.foldl (fun s m => m.waiting.foldl (fun s e => s.failWaiting e st) s) s
  let jobs := s.ctx.jobs
  let s := { s with ctx := { s.ctx with jobs := [] } }
  jobs.foldl (fun s j => s.endJobWith 22 j st) s

/-- Everything in flight completes with a status; the context store's own writes go on. -/
def State.haltAll (s : State) (st : Nat) : State :=
  let s := s.abortIssued st
  let s := s.endFrames (fun _ => true) st
  let s := s.ctxHalt st
  let s := s.keyAbort st
  let fences := st == stFenced
  let s := s.digestAbort st (if fences then rsnDgFenced else 0)
  let s := s.bnAbort st (if fences then 0x30 else 0)
  let s := s.randomAbort st
  let s := s.abortFinishes (fun f => decide (16 ≤ f.producer ∧ f.producer ≤ 19)) st (if fences then rsnDgFenced else 0)
  let s := s.abortFinishes (fun f => f.producer == 20) st (if fences then 0x30 else 0)
  (s.abortFinishes (fun _ => true) st 0).dropReads

/-- A self-test that runs ends with DONE = 0 (R345). -/
def State.selftestDrop (s : State) : State := s.putFlag TILE_SELFTEST_STS.BUSY 0 false

/-- The queue engine stops and rewinds, a sleep entry is abandoned (R323 step 1, R334 step 1). -/
def State.stopWork (s : State) : State :=
  let s := s.rewindAll
  if s.pwr.phase == .draining || s.pwr.phase == .saving || (s.pwr.phase == .committed && !s.asleep) then
    ({ s with pwr := { s.pwr with phase := .awake, abandon := false, wakeLatched := false } }).raiseEvent (pg .power) 2
  else s

/-! ## The tile fence (R334) -/

/-- The states in which FENCE_TILE is allowed (R43). -/
def State.fenceable (s : State) : Bool :=
  s.tile.st == .bringUp || s.tile.st == .ready || s.tile.st == .run || s.tile.st == .test

/-- A fault fences the tile in these states, and also before its core is on and in a wake that fails (R301, R305, R330). DESIGN CHOICE
(log 121). -/
def State.fenceFalls (s : State) : Bool :=
  s.fenceable || s.tile.st == .addressed || s.tile.st == .clocked || (s.asleep && s.pwr.phase == .awake)

/-- A tile fence begins: steps 1 to 3. A tile that is being fenced, or responds to a tamper event, is not fenced again: beside a
tamper response the fault is logged and not acted on (R329). -/
def State.tileFence (s : State) (cause : Nat) (forced : Bool) : State :=
  if s.tamp.responding then (if cause = 0x0A ∨ cause = 0x0D then s else s.logFence 5 cause 1 0)
  else if !s.fenceFalls || s.tile.fencing.isSome then s
  else
    let s := { s with tile := { s.tile with fencing := some cause, fence := ⟨cause, 5, forced⟩ } }
    let s := s.stopWork.haltAll stFenced
    let s := s.selftestDrop
    if s.clk.lock.getLsbD 1 && s.key.wrap.isSome && s.key.tree.isSome && s.ctx.store == .ready && s.isOn (pg .ctx) then
      ({ s with ctx := { s.ctx with autoFlush := true } }).flushStart.flushCheck
    else s

/-- The functions that have a request queue or a CQ that is not DISABLED (R334). -/
def State.liveFns (s : State) : List Nat :=
  (List.range 64).filter (fun f => s.liveRqs.any (fun q => s.fld RQ_CFG.FUNC q == f) ||
    (List.range 64).any (fun c => (s.cq c).st != .disabled && s.fld CQ_CFG.FUNC c == f))

/-- The order in which the blocks are fenced: units before what they stand under. -/
def fenceOrder : List PageRef :=
  (List.range 16).map (fun n => ⟨.lane, n⟩) ++ (List.range 4).map (fun n => ⟨.quad, n⟩) ++
    (List.range 4).map (fun n => ⟨.dcore, n⟩) ++ (List.range 16).map (fun n => ⟨.dmaChannel, n⟩) ++
    [pg .rng, pg .key, pg .ctx, pg .qeng, pg .crown, pg .digest, pg .bignum, pg .dma, pg .perf]

/-- No way is dirty: what was not written back is lost. -/
def State.noneDirty (s : State) : State :=
  { s with ctx := { s.ctx with
      ways := Tbl.mapVals {} (fun (w : Way) => { w with dirty := false, flushing := false }) s.ctx.ways } }

/-- The flush of a tile fence runs no more. -/
def State.flushOver (s : State) : State :=
  { s with
    ctx := { s.ctx with
      autoFlush := false, store := if s.ctx.store == StoreSt.flushing then StoreSt.ready else s.ctx.store }
    tile := { s.tile with fencing := none } }

/-- The flush of a tile fence has ended, or its 2 ms have passed: steps 4 and 5. What was not written back is lost. -/
def State.tileFenceEnd (s : State) : State :=
  match s.tile.fencing with
  | none => s
  | some _ =>
    let r := s.tile.fence
    let s := s.loseWays (fun _ => true)
    let s := s.noneDirty
    let fs := s.liveFns
    let s := s.fenceQueues
    let s := fenceOrder.foldl (fun s p => s.fenceBlock p r) s
    let s := s.flushOver
    let s := ((s.enterTile .fenced).closeLocks.raiseFault (pg .tile) 7).logFence 5 r.cause 1 0
    fs.foldl (fun s f => s.countVec (64 + f) 1) s

/-- Steps 4 and 5 of a tile fence; the messages of the cycle go in ascending vector number (R163). -/
def State.tileFenceEnds (s : State) : State := s.tileFenceEnd.ascending s.irq.msgs.length

/-! ## What a tamper response removes (R322, R325) -/

/-- The channel table of the big-number engine returns to reset (R209). -/
def State.bnCfgReset (s : State) : State := s.resetRegs (fun r => r == .BN_CHAN_CFG)

/-- The pounce keys are held back: no mask is supplied (R247). -/
def State.noMasks (s : State) : State := { s with key := { s.key with noMask := true } }

/-- The secrets of the tile are removed for a class: 2 is FENCE_KEYS, which keeps the root and holds back the pounce keys. DESIGN
CHOICE (log 122): a response that clears the root latch too raises G once, where R185 lists both events. -/
def State.removeSecrets (s : State) (cls : Nat) : State :=
  let s := s.loseWays (fun _ => true)
  let s := s.attestAbort.clearDerived.clearSecrets
  let s :=
    if cls = 2 then
      s.portDrops.pounceStop.noMasks.dropImage
    else s.clearPounce.clearRoot
  let s := s.ctxWipe.digestWipe.bnWipe.bnCfgReset.rngStop.closeLocks
  (List.range 16).foldl (fun s n => s.updLane n (fun x => { x with keyZero := true })) s

/-- WIPING reads 1 until TAMPER_WIPE_DONE. -/
def State.startWipe (s : State) (cls : Nat) : State :=
  let s := s.removeSecrets cls
  { s with tamp := { s.tamp with wiping := true, cls := cls } }

/-- The tile is ALARMED (R323 step 6). -/
def State.enterAlarmed (s : State) : State := (s.enterTile .alarmed).putFlag TILE_RESET_CAUSE.ALARM 0 true

/-- How strong a class is (R337). -/
def classRank (cls : Nat) : Nat := if cls = 1 then 3 else if cls = 2 then 1 else 2

/-- A ZEROIZE_AND_BROADCAST event originates one ZEROIZE_ALL (R285, R322). -/
def State.broadcast (s : State) (cls : Nat) : State := if cls = 1 then s.originateZeroize else s

/-- A tamper response begins, or joins the one that runs, be it only that its wipe runs (R323–R326, R337). A tile fence that it
meets is logged and goes no further (R329). Secrets are removed at once, and the completions
with ABORTED_ALARM reach the crown when the wipe has ended. -/
def State.respond (s : State) (cls : Nat) : State :=
  if s.tamp.responding || s.tamp.wiping then
    if classRank s.tamp.cls < classRank cls then
      let s := if s.tamp.cls = 2 then s.clearPounce.clearLatch else s
      ({ s with tamp := { s.tamp with cls := cls } }).broadcast cls
    else s
  else
    let s := s.broadcast cls
    match s.tile.st with
    | .powerOff => s
    | .aoOnly | .addressed | .clocked => (s.startWipe cls).enterAlarmed
    | .alarmed => s.startWipe cls
    | .sleep | .deepSleep =>
      let s := s.startWipe (if cls = 2 then 0 else cls)
      { s with pwr := { s.pwr with alarmed := true }, tamp := { s.tamp with cls := cls } }
    | _ =>
      let s := match s.tile.fencing with
        | some c => s.logFence 5 c 1 0
        | none => s
      let s := { s with tile := { s.tile with fencing := none }, tamp := { s.tamp with responding := true } }
      let s := s.stopWork.haltAll stAbortedAlarm
      let s := (List.range 16).foldl (fun s c => s.dmaTampered c) s
      let s := (s.ctxAbort stAbortedAlarm).selftestDrop
      s.startWipe cls

/-- A tamper event: it is counted and recorded, and its response starts (R321). -/
def State.tamperEvent (s : State) (src cls : Nat) : State :=
  let s := s.bump KEY_COUNTS.TAMPER 0 1
  let s := s.put TAMP_LAST.SOURCE 0 src
  let s := s.put TAMP_LAST.TIME 0 (s.now % 2 ^ 56)
  let c := s.fld TAMP_STS.CAUSE 0
  let t := if bitAt c src then s else s.put TAMP_STS.CAUSE 0 (c + 2 ^ src)
  (t.respond cls).ascending s.irq.msgs.length

/-- The wipe has ended (R323 steps 3 and 4): V227 is raised, and the elements that were aborted go to the crown. -/
def State.wipeDone (s : State) : State :=
  if !s.tamp.wiping then s
  else
    let s := { s with tamp := { s.tamp with wiping := false, draining := s.tamp.responding } }
    s.raiseEvent (pg .tamper) 4

/-- The crown holds nothing that is to be written or published any more. -/
def State.crownDrained (s : State) : Bool :=
  s.crown.fifos.isEmpty && s.crown.stalled.isEmpty && s.crown.waiting.isEmpty &&
    s.crown.cqs.all (fun c => c.2.held.isEmpty && c.2.writing.isEmpty && c.2.mirror.isNone &&
      (c.2.pub == c.2.nextPos || !(c.2.st == .on || c.2.st == .draining)))

/-- The drain limit has passed: entries still unwritten are discarded and counted; the mirror stays at the last entry
written (R323 step 4). -/
def State.drainTimeout (s : State) : State :=
  if !s.tamp.draining then s
  else
    let ks := s.unwritten
    let lost (x : Cq) : Nat := x.nextPos - x.held.length - x.qualified
    let n := ks.length + (s.crown.cqs.map (fun c => lost c.2)).sum
    let s := s.traceDiscard ks
    let s := s.dropXfers (fun k => match k with
      | .cqEntry _ _ => true
      | .cqMirror c _ => decide ((s.cq c).qualified ≤ (s.cq c).pub)
      | _ => false)
    let s := { s with crown := { s.crown with
      fifos := s.crown.fifos.filter (fun p => p.1 == 24), stalled := s.crown.stalled.filter (fun p => p.1 == 24)
      waiting := [], chainPos := [], chainFloor := s.qeng.nextChain
      cqs := Tbl.mapVals {} (fun (x : Cq) => { x with
        held := [], writing := [], full := false, grants := 0, nextPos := x.qualified
        mirror := if x.qualified ≤ x.pub then none else x.mirror }) s.crown.cqs } }
    s.bump TAMP_STS.DISCARDED 0 n

/-- The drain of the crown has ended: every block goes OFF, CLK_EN clears, and the tile is ALARMED (R323 steps 5 and 6). -/
def State.drainDone (s : State) : State :=
  if !s.tamp.draining || !s.crownDrained then s
  else
    let s := s.fenceQueues.allOff
    let s := s.setReg .CLK_EN 0 0
    let s := if s.flag CLK_COMPAT.COMPAT_MODE 0 then s.setReg .CLK_RUN_EN 0 0 else s
    ({ s with tamp := { s.tamp with draining := false, responding := false } }).enterAlarmed

/-! ## Qualifiers (R318, R319) -/

/-- One qualifier. -/
def State.qual (s : State) (i : Nat) : Qual := Tbl.get {} s.tamp.quals i

/-- The state with one qualifier. -/
def State.setQual (s : State) (i : Nat) (x : Qual) : State :=
  { s with tamp := { s.tamp with quals := Tbl.set {} s.tamp.quals i x } }

/-- EN and class of tamp_in[i]: 0b11 acts as ZEROIZE_TILE (R338). -/
def State.tampEn (s : State) (i : Nat) : Bool := bitAt (s.reg .TAMP_XIN_CFG 0).toNat (4 * i + 3)
def State.tampClass (s : State) (i : Nat) : Nat :=
  let c := bitsOf (s.reg .TAMP_XIN_CFG 0).toNat (4 * i + 1) (4 * i)
  if c = 3 then 0 else c

/-- The event of a qualifier goes to its user: tamper response, or the source HBLINE. Q4's user is the wake logic. A
disabled input's event reaches no user (R319, R321). -/
def State.qualEvent (s : State) (i : Nat) : State :=
  if i < 4 then
    if s.tampEn i then (s.raiseEvent (pg .tamper) i).tamperEvent i (s.tampClass i) else s
  else if i = 5 then
    let c := s.fld TAMP_XSENS_CFG.HBLINE 0
    if c = 3 then s else s.tamperEvent 8 c
  else s

/-- An input is sampled active; while a tamper input is, the key port is not sampled (R232). -/
def State.qualActive (s : State) (i : Nat) : State :=
  if s.tile.st == .powerOff || 6 ≤ i then s
  else
    let x := s.qual i
    if x.raw then s
    else
      let x := { x with raw := true, edges := satAdd x.edges 1 255 }
      let s := if i < 4 then s.portDrops else s
      s.setQual i (match x.st with
        | .idle => { x with st := .qualifying }
        | .qualifying => x
        | .latched => { x with chatter := true }
        | .armable => { x with st := .latched })

/-- An input has been active for 8 QCLK cycles: it latches and its event is delivered. Answers whether it did. -/
def State.qualHeld (s : State) (i : Nat) : Bool × State :=
  let x := s.qual i
  if s.tile.st == .powerOff || x.st != .qualifying || 6 ≤ i then (false, s)
  else (true, (s.setQual i { x with st := .latched }).qualEvent i)

/-- An input is sampled inactive before its 8th cycle, or while it is latched or armable. CHATTER_LIM short pulses latch it
as if it had been held. Answers whether they did. -/
def State.qualShort (s : State) (i : Nat) : Bool × State :=
  let x := s.qual i
  if s.tile.st == .powerOff || 6 ≤ i then (false, s)
  else if x.st != .qualifying then (false, s.setQual i { x with raw := false })
  else
    let n := satAdd x.short 1 255
    if max 1 (s.fld TAMP_XQUAL.CHATTER_LIM 0) ≤ n then
      (true, (s.setQual i { x with raw := false, short := n, chatter := true, st := .latched }).qualEvent i)
    else (false, s.setQual i { x with raw := false, short := n, st := .idle })

/-- An input has been inactive for REARM without a break. -/
def State.qualRearm (s : State) (i : Nat) : State :=
  let x := s.qual i
  if s.tile.st == .powerOff || 6 ≤ i then s
  else
    match x.st with
    | .idle => s.setQual i { x with raw := false, short := 0 }
    | .latched => s.setQual i { x with raw := false, st := .armable }
    | .qualifying | .armable => s

/-- Qi is cleared by TAMP_QUAL_CLR: an IDLE or ARMABLE one, and Q0–Q3 not while the tile is ALARMED (R319). -/
def State.qualClear (s : State) (i : Nat) : State :=
  let x := s.qual i
  if x.st == .qualifying || x.st == .latched then s.seq (pg .tamper)
  else if i < 4 && s.tile.st == .alarmed then s
  else s.setQual i { raw := x.raw }

/-- TAMP_QUAL_CLR is written. -/
def State.qualClrWrite (s : State) (v : Nat) : State :=
  (List.range 6).foldl (fun s i => if bitAt v i then s.qualClear i else s) s

/-! ## Sensors (R320) -/

/-- A sensor's bit in TAMP_SENS_STS; its source in CAUSE is four places up. -/
def Sensor.bit : Sensor → Nat
  | .temp => 0 | .clk => 1 | .vcore => 2 | .vsram => 3

/-- The class of a sensor (R338). -/
def State.sensClass (s : State) (x : Sensor) : Nat :=
  match x with
  | .temp => s.fld TAMP_XSENS_CFG.TEMP 0
  | .clk => s.fld TAMP_XSENS_CFG.CLK 0
  | .vcore => s.fld TAMP_XSENS_CFG.VCORE 0
  | .vsram => s.fld TAMP_XSENS_CFG.VSRAM 0

/-- A sensor's condition has held for 8 samples: its bit latches, its vector is raised, and it is a tamper event unless its
class is REPORT_ONLY. A latched sensor gives no further event (R320, R321). -/
def State.sensorQualify (s : State) (x : Sensor) : State :=
  let b := Sensor.bit x
  let l := s.fld TAMP_SENS_STS.LATCHED 0
  if s.tile.st == .powerOff then s
  else
    let s := { s with tamp := { s.tamp with sensActive := s.tamp.sensActive ||| BitVec.ofNat 4 (2 ^ b) } }
    if bitAt l b then s
    else
      let s := s.put TAMP_SENS_STS.LATCHED 0 (l + 2 ^ b)
      let s := match x with
        | .temp | .clk => s.raiseEvent (pg .tamper) 5
        | .vcore | .vsram => s.raiseFault (pg .power) 10
      let c := s.sensClass x
      if c = 3 then s else s.tamperEvent (4 + b) c

/-- A sensor's condition has been absent for REARM. -/
def State.sensorRearm (s : State) (x : Sensor) : State :=
  { s with tamp := { s.tamp with
    sensActive := s.tamp.sensActive &&& ~~~ BitVec.ofNat 4 (2 ^ Sensor.bit x) } }

/-- TAMP_SENS_STS is written: a bit whose condition is still there, or was less than REARM ago, stays (R338). -/
def State.sensClrWrite (s : State) (v : Nat) : State :=
  let l := s.fld TAMP_SENS_STS.LATCHED 0
  s.put TAMP_SENS_STS.LATCHED 0 (mapOf 4 (fun b => bitAt l b && (!bitAt v b || s.tamp.sensActive.getLsbD b)))

/-! ## The end of an alarm (R327) -/

/-- CLEAR_ALARM is accepted. -/
def State.clearOk (s : State) : Bool :=
  let c := s.fld TAMP_STS.CAUSE 0
  s.tile.st == .alarmed && !s.tamp.wiping && !s.tamp.draining &&
    (List.range 4).all (fun i => !bitAt c i || (s.qual i).st == .armable || (s.qual i).st == .idle) &&
    (List.range 4).all (fun b => !bitAt c (4 + b) || !s.tamp.sensActive.getLsbD b)

/-- CLEAR_ALARM. The pounce keys that FENCE_KEYS held back are zeroized, and mask supply resumes (R247). -/
def State.clearAlarm (s : State) : State :=
  if !s.clearOk then s.seq (pg .tamper)
  else
    let c := s.fld TAMP_STS.CAUSE 0
    let s := (List.range 4).foldl (fun s i => if bitAt c i then s.setQual i { raw := (s.qual i).raw } else s) s
    let s := (s.put TAMP_STS.CAUSE 0 0).put TAMP_STS.DISCARDED 0 0
    let s := if s.key.noMask then s.clearPounce else s
    let s := { s with key := { s.key with noMask := false } }
    s.enterTile
      (if s.pwr.core then .bringUp
       else if s.tile.addr.isNone then .aoOnly
       else if s.clk.lock.getLsbD 0 && s.clk.lock.getLsbD 1 then .clocked
       else .addressed)

/-- TAMP_XIN_CFG is written with SEAL = 1: the write is applied, then sealed (R337). -/
def State.seal (s : State) : State := s.putFlag TAMP_XIN_CFG.SEAL 0 true

end Sys2Proof.Machine
end

