-- ==== Sys2Proof/Machine/Clock.lean ====
section
/-! DEFINITION. References, PLLs and the safe state of the outputs (R292–R304). -/

namespace Sys2Proof.Machine

/-- The state with its clock part changed. -/
def State.updClk (s : State) (f : Clk → Clk) : State := { s with clk := f s.clk }

/-- PD0 is up: the clock logic works. -/
def State.pd0 (s : State) : Bool := s.tile.st != .powerOff

/-- A PLL is enabled by its bit of CLK_PLL_EN: 0 CPLL, 1 FPLL, 2 + q QPLL_q. -/
def State.pllEn (s : State) (i : Nat) : Bool := (s.reg .CLK_PLL_EN 0).getLsbD i

/-- The reference in use is qualified. -/
def State.refGood (s : State) : Bool :=
  match s.clk.ref with
  | .hbref => s.clk.hbOk
  | .sbosc => s.clk.sbOk
  | .none | .switching => false

/-- The PLLs use a reference, or a switch to it is under way. -/
def State.uses (s : State) (r : Ref) : Bool := s.clk.ref == r || (s.clk.ref == .switching && s.clk.target == r)

/-- The outputs are held safe; the PLLs in m are those whose lock the release waits for (R296). -/
def State.holdSafe (s : State) (m : BitVec 6) : State :=
  s.updClk (fun c => { c with safe := true, await := c.await ||| (c.lock &&& m), lock := c.lock &&& ~~~m })

/-- A switch of the PLL reference begins (R299). -/
def State.beginSwitch (s : State) (r : Ref) : State :=
  let from_ := if s.clk.ref == .switching then s.clk.target else s.clk.ref
  let s := s.holdSafe 0x3F
  s.updClk (fun c => { c with from_ := from_, target := r, ref := .switching, restart := 0 })

/-- SBOSC stops, unless SBOSC_STANDBY keeps it running. -/
def State.stopSbosc (s : State) : State :=
  if s.flag CLK_REF_CFG.SBOSC_STANDBY 0 then s
  else s.updClk (fun c => { c with sbOn := false, sbOk := false, counting := false, sbEdge := false })

/-- Chain time and the Hatband transmitter run on SBOSC/4 from now on while HBREF is not qualified (R283, R297). -/
def State.holdoverBegins (s : State) : State :=
  if s.clk.hbOk then s else { s with hb := { s.hb with holdover := true } }

/-- The outputs are released once every PLL that was locked has locked again on a qualified reference (R296, R297 step 4); the
messages held meanwhile go in ascending vector number. A fallback whose HBREF is back returns if AUTO_RETURN is set (R300). -/
def State.releaseSafe (s : State) : State :=
  if !s.clk.safe || s.clk.await != 0 || !s.refGood then s
  else
    let fell := s.clk.fallback && s.clk.ref == .sbosc
    let s := s.updClk (fun c => { c with safe := false, fallback := false, commanded := false })
    let s := if fell then (s.bump CLK_FB_CNT.FALLBACKS 0 1).raiseEvent (pg .clock) 0 else s
    let s := (s.ascending 0).pumpPorts
    if fell && s.clk.hbOk && s.flag CLK_REF_CFG.AUTO_RETURN 0 then s.beginSwitch .hbref else s

/-- A switch is made: the PLLs relock on the new reference (R299). -/
def State.switchMade (s : State) : State :=
  let t := s.clk.target
  let s := s.updClk (fun c => { c with ref := t, target := .none, from_ := .none })
  let s := if t == .sbosc then s.holdoverBegins else s.stopSbosc
  s.releaseSafe

/-- The outgoing clock of a switch still shows edges, be it qualified or not (R299). -/
def State.fromRuns (s : State) : Bool :=
  match s.clk.from_ with
  | .hbref => s.clk.hbEdge
  | .sbosc => s.clk.sbEdge
  | .none | .switching => false

/-- The incoming clock of a switch is qualified. -/
def State.targetGood (s : State) : Bool :=
  match s.clk.target with
  | .hbref => s.clk.hbOk
  | .sbosc => s.clk.sbOk
  | .none | .switching => false

/-- A switch whose clocks both show edges is made by its handshake (R299). -/
def State.handshake (s : State) : State :=
  if s.pd0 && s.clk.ref == .switching && s.fromRuns && s.targetGood then s.switchMade else s

/-- The handshake of a switch times out: the switch is forced (R299). -/
def State.switchTimeout (s : State) : State :=
  if s.clk.ref == .switching && s.targetGood then
    ((s.bump CLK_FB_CNT.FORCED 0 1).raiseFault (pg .clock) 10).switchMade
  else s

/-- SBOSC starts (R297 step 2). -/
def State.startSbosc (s : State) : State := s.updClk (fun c => { c with sbOn := true })

/-- The PLLs take up SBOSC/4 where no reference was in use: there is nothing to switch from (R300). DESIGN CHOICE (log 120). -/
def State.adoptSbosc (s : State) : State :=
  ((s.updClk (fun c => { c with ref := .sbosc, commanded := false })).holdoverBegins).releaseSafe

/-- The monitors' trips are suppressed while QCLK is in error (R295). DESIGN CHOICE (log 120): until its sensor rearms. -/
def State.tripsMuted (s : State) : Bool := s.tamp.sensActive.getLsbD 1

/-- A clock is outside its limits: its bit of MON_BAD (R295). -/
def State.monTrip (s : State) (mon : Nat) : State :=
  s.updClk (fun c => { c with monBad := c.monBad ||| ((1 : BitVec 8) <<< mon) })

/-- A trip restarts the count of SBOSC (R298). -/
def State.countRestart (s : State) : State :=
  if !s.clk.counting || s.tripsMuted then s
  else
    let s := ((s.monTrip 1).bump CLK_FB_CNT.RESTARTS 0 1).raiseFault (pg .clock) 9
    if s.fld CLK_FB_CNT.RESTARTS 0 == 3 then (s.updClk (fun c => { c with lasting := true })).raiseFault (pg .clock) 1 else s

/-- HBREF trips (R296, R297). -/
def State.hbrefTrip (s : State) : State :=
  let used := s.uses .hbref
  let s := s.updClk (fun c => { c with hbOk := false })
  if used then
    let s := (s.holdSafe 0x3F).raiseFault (pg .clock) 8
    if s.flag CLK_REF_CFG.AUTO_FALLBACK 0 then
      let s := s.startSbosc.updClk (fun c => { c with fallback := true })
      if s.clk.sbOk then s.beginSwitch .sbosc else s
    else s
  else if s.clk.ref == .sbosc then s.holdoverBegins
  else s

/-- SBOSC/4 trips: during its count the count restarts; in use the outputs are held, and the PLLs go to HBREF if that is
qualified (R296, R298, R302). -/
def State.sboscTrip (s : State) : State :=
  if s.clk.counting then s.countRestart
  else
    let used := s.uses .sbosc
    let s := s.updClk (fun c => { c with sbOk := false })
    if used then
      let s := (s.holdSafe 0x3F).raiseFault (pg .clock) 8
      if s.clk.hbOk then s.beginSwitch .hbref else s
    else s

/-- A PLL that was locked has lost its lock or its output: it is held and restarted once (R296, R301). QPLL_q holds its quad
only. -/
def State.pllLost (s : State) (i : Nat) : State :=
  if 6 ≤ i || !s.clk.lock.getLsbD i then s
  else
    let b : BitVec 6 := (1 : BitVec 6) <<< i
    let s := s.updClk (fun c => { c with restart := c.restart ||| b })
    if i < 2 then s.holdSafe b else s.updClk (fun c => { c with lock := c.lock &&& ~~~b })

/-- CLOCK_TRIP: the stop or the window detector of a clock trips (R295, R296). -/
def State.clockTrip (s : State) (mon : Nat) (stop : Bool) : State :=
  if !s.pd0 || 8 ≤ mon || s.tripsMuted then s
  else
    let s := (s.monTrip mon).updClk (fun c => { c with
      hbEdge := c.hbEdge && !(stop && mon == 0), sbEdge := c.sbEdge && !(stop && mon == 1) })
    if mon = 0 then s.hbrefTrip else if mon = 1 then s.sboscTrip else s.pllLost (mon - 2)

/-- RESTARTS and LASTING clear when a source qualifies (R298). -/
def State.sourceGood (s : State) (mon : Nat) : State :=
  (s.put CLK_FB_CNT.RESTARTS 0 0).updClk (fun c => { c with
    lasting := false, monBad := c.monBad &&& ~~~((1 : BitVec 8) <<< mon) })

/-- HBREF qualifies (R295, R298, R300, R302). -/
def State.hbrefQualify (s : State) : State :=
  if !s.pd0 || s.clk.hbOk || !s.hb.upSync then s
  else
    let s := (s.sourceGood 0).updClk (fun c => { c with hbOk := true, hbEdge := true })
    match s.clk.ref with
    | .none => (s.updClk (fun c => { c with ref := .hbref })).releaseSafe
    | .hbref =>
      let s := s.updClk (fun c => { c with counting := false, fallback := false, commanded := false })
      s.stopSbosc.releaseSafe
    | .sbosc =>
      if !s.clk.sbOk then (s.updClk (fun c => { c with counting := false })).beginSwitch .hbref
      else if s.flag CLK_REF_CFG.AUTO_RETURN 0 then s.beginSwitch .hbref
      else s
    | .switching =>
      if s.clk.target == .sbosc && !s.clk.sbOk then
        let s := s.updClk (fun c => { c with
          ref := .hbref, target := .none, from_ := .none, counting := false, fallback := false, commanded := false })
        s.stopSbosc.releaseSafe
      else s

/-- The count of SBOSC begins (R297). -/
def State.sboscCountStart (s : State) : State :=
  if s.clk.sbOn && !s.clk.sbOk && !s.clk.counting then s.updClk (fun c => { c with counting := true }) else s

/-- SBOSC is judged stable; a fallback or a command that waits for it switches (R295, R297, R300). -/
def State.sboscJudged (s : State) : State :=
  if !s.clk.counting then s
  else
    let s := (s.sourceGood 1).updClk (fun c => { c with counting := false, sbOk := true, sbEdge := true })
    match s.clk.ref with
    | .hbref => if (s.clk.fallback && !s.clk.hbOk) || s.clk.commanded then s.beginSwitch .sbosc else s
    | .sbosc => s.releaseSafe
    | .none => if s.clk.commanded then s.adoptSbosc else s
    | .switching => s

/-- The domains outside PD0 stay down: their PLLs stand still (R306, R308). -/
def State.pllsDown (s : State) : Bool := s.domainsDown && s.pwr.phase != .waking

/-- PLL_LOCK: a PLL that runs on a qualified reference reports lock (R293, R296, R301). A switch whose clocks both run is made
by then. -/
def State.pllLock (s : State) (i : Nat) : State :=
  if !s.pd0 || 6 ≤ i || !s.pllEn i || s.clk.lock.getLsbD i || s.clk.parkStop.getLsbD i || s.pllsDown then s
  else
    let s := s.handshake
    if !s.refGood || s.clk.lock.getLsbD i then s
    else
      let b : BitVec 6 := (1 : BitVec 6) <<< i
      let retried := s.clk.restart.getLsbD i
      let s := s.updClk (fun c => { c with
        lock := c.lock ||| b, restart := c.restart &&& ~~~b, await := c.await &&& ~~~b
        monBad := c.monBad &&& ~~~((1 : BitVec 8) <<< (i + 2)) })
      let s := if retried then s.transient (if i < 2 then pg .clock else quadPg (i - 2)) else s
      s.releaseSafe.clocked.followAll

/-- PLL_UNLOCK: a PLL loses lock while its reference stays qualified (R301). -/
def State.pllUnlock (s : State) (i : Nat) : State := if s.refGood then s.pllLost i else s

/-- PLL_RELOCK_TIMEOUT: the one restart failed (R301). -/
def State.pllRelockTimeout (s : State) (i : Nat) : State :=
  if 6 ≤ i || !s.clk.restart.getLsbD i then s
  else
    let s := s.updClk (fun c => { c with restart := c.restart &&& ~~~((1 : BitVec 6) <<< i) })
    if i < 2 then
      let s := (s.lasting (pg .clock)).raiseFault (pg .clock) (11 + i)
      s.tileFence 0x03 false
    else
      let p := quadPg (i - 2)
      ((s.lasting p).raiseFault p 8).fence p 0x03

/-- CLK_CMD with its key (R300, R302, R316). -/
def State.clkCommand (s : State) (cmd : Nat) : State :=
  if cmd != 1 && cmd != 2 then s.seq (pg .clock)
  else if s.clk.ref == .switching || s.clk.counting || s.clk.commanded then s.seq (pg .clock)
  else if cmd = 1 then
    if !s.clk.hbOk then s.seq (pg .clock)
    else if s.clk.ref == .hbref then s
    else (s.updClk (fun c => { c with commanded := true })).beginSwitch .hbref
  else if s.clk.ref == .sbosc then s
  else
    let s := s.startSbosc.updClk (fun c => { c with commanded := true })
    if !s.clk.sbOk then s
    else if s.clk.ref == .none then s.adoptSbosc
    else s.beginSwitch .sbosc

/-- A PLL is stopped by its enable bit: a lock under way is abandoned, and the release no longer waits for it (R302). -/
def State.pllStop (s : State) (i : Nat) : State :=
  let b : BitVec 6 := (1 : BitVec 6) <<< i
  let s := s.updClk (fun c => { c with
    lock := c.lock &&& ~~~b, restart := c.restart &&& ~~~b, await := c.await &&& ~~~b, parkStop := c.parkStop &&& ~~~b })
  let s := s.setReg .CLK_PLL_EN 0 (s.reg .CLK_PLL_EN 0 &&& ~~~((1 : W64) <<< i))
  let s := if i < 2 && s.tile.st == .clocked then s.enterTile .addressed else s
  s.releaseSafe

/-- One bit of CLK_PLL_EN is written (R293). -/
def State.pllEnBit (s : State) (i : Nat) (en : Bool) : State :=
  if en then s.setReg .CLK_PLL_EN 0 (s.reg .CLK_PLL_EN 0 ||| ((1 : W64) <<< i))
  else if !s.pllEn i then s
  else
    let may := if i < 2 then s.tile.st == .addressed || s.tile.st == .clocked else s.blk (quadPg (i - 2)) == .off
    if may then s.pllStop i else s.seq (pg .clock)

/-- CLK_PLL_EN is written, each bit judged for itself. -/
def State.pllEnWrite (s : State) (v : Nat) : State := (List.range 6).foldl (fun s i => s.pllEnBit i (bitAt v i)) s

/-- CLK_EN is written (R303, R304, R326). Its implemented bits are 0–8, 12–19 and 32–47. -/
def State.clkEnWritten (s : State) (v : W64) : State :=
  if s.flag CLK_COMPAT.COMPAT_MODE 0 then s.seq (pg .clock)
  else
    let v := v &&& 0x0000FFFF000FF1FF
    let old := s.reg .CLK_EN 0
    if s.tile.st == .alarmed then
      let s := if v &&& ~~~old == 0 then s else s.seq (pg .clock)
      (s.setReg .CLK_EN 0 (v &&& old)).followAll
    else (s.setReg .CLK_EN 0 v).followAll

/-- CLK_REF_CFG has been written: SBOSC runs while STANDBY asks for it, and AUTO_RETURN acts on an HBREF that is back
(R297, R300). -/
def State.refCfgWritten (s : State) : State :=
  let s :=
    if s.flag CLK_REF_CFG.SBOSC_STANDBY 0 then s.startSbosc
    else if s.uses .sbosc || s.clk.fallback || s.clk.commanded then s
    else s.stopSbosc
  if s.flag CLK_REF_CFG.AUTO_RETURN 0 && s.clk.ref == .sbosc && s.clk.hbOk then s.beginSwitch .hbref else s

/-- CLK_STS.SAFE: some output is held, be it those of one quad whose PLL restarts (R296). -/
def State.safeShown (s : State) : Bool := s.clk.safe || s.clk.restart >>> 2 != 0

/-- 32 QCLK cycles pass with no command: chain time runs on, and a switch whose clocks both run is made. -/
def State.idles (s : State) : State := s.tick.handshake

end Sys2Proof.Machine
end

