-- ==== Sys2Proof/Machine/Irq.lean ====
section
/-! DEFINITION. Moderation, messages and flushes of the interrupt vectors, and the registers that show them (R160–R168,
R312, R366). -/

namespace Sys2Proof.Machine

/-- Messages can go out: the tile has an address, is awake with PD1 on, and its outputs are not held (R163, R312, R366). -/
def State.evtOpen (s : State) : Bool := s.tile.addr.isSome && !s.asleep && s.pwr.core && !s.clk.safe

/-- The function of a vector: V0–V63 take that of their CQ (R168). -/
def State.vecFunc (s : State) (v : Nat) : Nat := if v < 64 then s.fld CQ_CFG.FUNC v else s.fld IRQ_VEC_CFG.FUNC v

/-- The message of a vector under the address the tile holds (R163). -/
def State.msgWord (s : State) (v : Nat) : W32 :=
  let client := s.flag IRQ_VEC_CFG.DEST v
  BitVec.ofNat 32 ((if client then s.vecFunc v * 2 ^ 24 else 2 ^ 31) + s.addrNum.getD 0 * 2 ^ 16 + v % 256)

/-- A moderation timer has run for TIMER × 2^SCALE QCLK cycles (R162). -/
def State.vecTimer (s : State) (v : Nat) : State :=
  let x := s.vec v
  if s.asleep || x.timer != .running || s.fld IRQ_VEC_CFG.TIMER v == 0 then s
  else (s.setVec v { x with timer := .expired }).judge v

/-- A flushed message has been accepted; with the last one V219 is raised, if the flush is HOST_SLEEP's (R164). -/
def State.flushed1 (s : State) (v : Nat) : State :=
  if !s.irq.flush.contains v then s
  else
    let l := s.irq.flush.filter (· != v)
    if l.isEmpty && s.irq.flushAck then
      ({ s with irq := { s.irq with flush := l, flushAck := false } }).raiseEvent (pg .irq) 0
    else { s with irq := { s.irq with flush := l } }

/-- The event channel accepts the message at its head: the captured count is subtracted. A vector that a flush met while its
message waited sends what it has counted since (R162–R164). -/
def State.msgAccepted (s : State) : State :=
  if !s.evtOpen then s
  else
    match s.irq.msgs with
    | [] => s
    | v :: rest =>
      let s := { s with irq := { s.irq with msgs := rest, lastMsg := some (s.msgWord v) } }
      let s := (s.bump IRQ_MSG_CNT.COUNT 0 1).perfCount 70 1
      let s := if s.flag IRQ_VEC_CFG.DEST v then s.fnCount (s.vecFunc v) 42 1 else s
      let x := s.vec v
      let s := s.setVec v { x with count := x.count - x.captured.getD 0, captured := none, flushPend := false }
      let again := s.vecDue v
      let s := if x.flushPend && again then s else s.flushed1 v
      if again then s.formMsg v else s.setVec v { s.vec v with duePend := false }

/-- A vector sends at once, if it is enabled and has a count; one whose message waits sends again after it. -/
def State.sendNow (s : State) (v : Nat) : State :=
  let x := s.vec v
  if s.flag IRQ_VEC_CFG.EN v && decide (1 ≤ x.count) then
    if x.captured.isSome then s.setVec v { x with duePend := true } else s.formMsg v
  else s

/-- The vectors that a flush sends. -/
def State.flushSet (s : State) : List Nat :=
  (List.range 250).filter (fun v => s.flag IRQ_VEC_CFG.EN v && decide (1 ≤ (s.vec v).count))

/-- A flush begins: every enabled vector with a count sends at once, in ascending order (R164 step 1, R165). -/
def State.irqFlush (s : State) (ack : Bool) : State :=
  let l := s.flushSet
  let s := l.foldl (fun s v => (s.setVec v { s.vec v with flushPend := (s.vec v).captured.isSome }).sendNow v) s
  if l.isEmpty then if ack then s.raiseEvent (pg .irq) 0 else s
  else { s with irq := { s.irq with flush := l, flushAck := s.irq.flushAck || ack } }

/-- HOST_SLEEP is written (R164). -/
def State.hostSleep (s : State) (on : Bool) : State :=
  let was := s.flag IRQ_CTL.HOST_SLEEP 0
  let s := s.putFlag IRQ_CTL.HOST_SLEEP 0 on
  if on && !was then s.irqFlush true
  else if on then s
  else { s with irq := { s.irq with wakeOut := false } }

/-- IRQ_FLUSH is written (R168). -/
def State.irqFlushWrite (s : State) (all : Bool) (v : Nat) : State :=
  if all then s.flushSet.foldl (fun s v => s.sendNow v) s else if v < 250 then s.sendNow v else s

/-- IRQ_VEC_CFG_v is written: DEST and FUNC of V0–V63 are fixed, V250–V255 have no configuration. A vector is judged when its
EN becomes 1, and a timer that had expired runs on under a new TIMER or SCALE (R162, R168). -/
def State.vecCfgWrite (s : State) (v : Nat) (x : W64) : State :=
  if 250 ≤ v then s
  else
    let was := s.flag IRQ_VEC_CFG.EN v
    let old := [s.fld IRQ_VEC_CFG.TIMER v, s.fld IRQ_VEC_CFG.SCALE v]
    let m : W64 := if v < 64 then 0xC00FFFFF else 0xFF8FFFFF
    let s := s.setReg .IRQ_VEC_CFG v ((s.reg .IRQ_VEC_CFG v &&& ~~~m) ||| (x &&& m))
    let x := s.vec v
    let s := if x.timer == .expired && old != [s.fld IRQ_VEC_CFG.TIMER v, s.fld IRQ_VEC_CFG.SCALE v] then
        s.setVec v { x with timer := .running }
      else s
    if !was && s.flag IRQ_VEC_CFG.EN v then s.judge v else s

/-- The vectors that count when enable bits of a page rise over source bits that are set (R160); while the tile sleeps such a
bit is judged at the wake (R312). -/
def State.enableRose (s : State) (p : PageRef) (vec : PageRef → Nat → Option Nat) (base rose : Nat) : State :=
  ((List.range 32).foldl (fun s b =>
    if bitAt rose b then
      if s.asleep then
        if s.pwr.latched.contains (pageNum p, base + b) then s
        else { s with pwr := { s.pwr with latched := s.pwr.latched ++ [(pageNum p, base + b)] } }
      else
        match vec p b with
        | some v => s.countVec v 1
        | none => s
    else s) s).ascending s.irq.msgs.length

/-- The event enables of a page are written (R33, R160). -/
def State.eventEnWrite (s : State) (p : PageRef) (v : BitVec 32) : State :=
  let h := s.hdr p
  (s.setHdr p { h with eventEn := v }).enableRose p eventVec 0 (v &&& ~~~h.eventEn &&& h.event).toNat

/-- The fault enables of a page are written. -/
def State.faultEnWrite (s : State) (p : PageRef) (v : BitVec 16) : State :=
  let h := s.hdr p
  (s.setHdr p { h with faultEn := v }).enableRose p faultVec 32 (v &&& ~~~h.faultEn &&& h.fault).toNat

/-- A vector is due, or its message waits for the channel. -/
def State.isDue (s : State) (v : Nat) : Bool := (s.vec v).captured.isSome || s.vecDue v

/-- CROWN_STS.DRAINED: no grant is outstanding, no mirror write is pending, no vector is due (R165). -/
def State.drained (s : State) : Bool :=
  s.granted == 0 &&
    s.crown.cqs.all (fun c => c.2.mirror.isNone && c.2.held.isEmpty && c.2.writing.isEmpty &&
      (c.2.pub == c.2.nextPos || !(c.2.st == .on || c.2.st == .draining))) &&
    s.irq.vecs.all (fun v => !s.isDue v.1)

/-- The source bits that rose while the tile slept are judged at the wake: each that is still set with its enable at 1
counts one event (R312). -/
def State.judgeLatched (s : State) : State :=
  let l := s.pwr.latched
  let s := { s with pwr := { s.pwr with latched := [] } }
  l.foldl (fun s x =>
    match pageOf x.1 with
    | none => s
    | some p =>
      let h := s.hdr p
      if x.2 < 32 then
        match eventVec p x.2 with
        | some v => if h.event.getLsbD x.2 && h.eventEn.getLsbD x.2 then s.countVec v 1 else s
        | none => s
      else
        match faultVec p (x.2 - 32) with
        | some v => if h.fault.getLsbD (x.2 - 32) && h.faultEn.getLsbD (x.2 - 32) then s.countVec v 1 else s
        | none => s) s

end Sys2Proof.Machine
end

