-- ==== Sys2Proof/Machine/Power.lean ====
section
/-! DEFINITION. Domains, sleep entry, wake, parking and power faults (R43, R305–R315, R185, R228, R304, R325). -/

namespace Sys2Proof.Machine

/-- The state with its power part changed. -/
def State.updPwr (s : State) (f : Pwr → Pwr) : State := { s with pwr := f s.pwr }

/-- PD1 and PD110 are on (R294). -/
def State.coreUp (s : State) : State := s.updPwr (fun w => { w with core := true })

/-! ## Domains (R12, R306) -/

/-- The blocks that lie in a power domain; none in PD0, PD1 and PD110. DMA channels 4k to 4k + 3 lie in PD(4 + k), and the engine
itself in PD4 (R254). -/
def domBlocks (d : Nat) : List PageRef :=
  if d < 2 then []
  else if d < 4 then [pg .qeng]
  else if d = 4 then [pg .dma]
  else if d < 8 then (List.range' (4 * (d - 4)) 4).map dchPg
  else if d < 24 then [lanePg (d - 8)]
  else if d < 28 then [quadPg (d - 24)]
  else if d < 32 then [⟨.dcore, d - 28⟩]
  else if d < 34 then [pg .bignum]
  else if d = 34 then [pg .crown]
  else if d < 37 then [pg .rng]
  else if d = 37 then [pg .key]
  else if d < 102 then [pg .ctx]
  else if d < 106 then [quadPg (d - 102)]
  else if d = 106 then [pg .ctx]
  else if d < 109 then [pg .digest]
  else if d = 109 then [pg .bignum]
  else if d = 111 then [pg .perf]
  else []

/-- Some block of a domain is not OFF; a domain without blocks counts as used. -/
def State.domUsed (s : State) (d : Nat) : Bool :=
  (domBlocks d).isEmpty || (domBlocks d).any (fun p => s.blk p != .off)

/-- A domain is on (R306): PD0, PD1 and PD110 with the core supply, any other while some block of it is not OFF (log 113). -/
def State.domOn (s : State) (d : Nat) : Bool :=
  if d = 0 then true
  else if !s.pwr.core || s.domainsDown || 112 ≤ d then false
  else s.domUsed d

/-- The domains that SLEEP holds in retention. -/
def domRetains (d : Nat) : Bool :=
  d == 1 || (decide (2 ≤ d) && decide (d < 8)) || d == 34 || (decide (36 ≤ d) && decide (d < 102)) ||
    (decide (106 ≤ d) && decide (d < 110)) || d == 111

/-- A domain is in retention (R306): only one that was on at entry. -/
def State.domRet (s : State) (d : Nat) : Bool :=
  s.tile.st == .sleep && s.domainsDown && domRetains d && s.domUsed d

/-! ## Faults of domains (R305, R314, R315) -/

/-- A power fault is recorded. -/
def State.pwrRecord (s : State) (kind d : Nat) : State :=
  let s :=
    if s.flag PWR_FAULT_INFO.VALID 0 then s
    else ((s.putFlag PWR_FAULT_INFO.VALID 0 true).put PWR_FAULT_INFO.KIND 0 kind).put PWR_FAULT_INFO.DOMAIN 0 d
  s.bump PWR_FAULT_INFO.COUNT 0 1

/-- A bank of the context cache is fenced: its ways are lost and its handles are refused until the block is OFF (R330). -/
def State.fenceBank (s : State) (b : Nat) : State :=
  if s.ctx.badBanks.contains b then s
  else
    let s := s.loseWays (fun k => k / 64 == b)
    let s := { s with ctx := { s.ctx with
      ways := s.ctx.ways.filter (fun w => w.1 / 64 != b), badBanks := s.ctx.badBanks ++ [b] } }
    s.pounceDrop b 1

/-- What owns a domain is fenced at the domain's level. -/
def State.fenceDomain (s : State) (d cause : Nat) : State :=
  if d = 1 ∨ d = 110 then s.tileFence cause false
  else if 38 ≤ d ∧ d < 102 then (s.fenceBank (d - 38)).logFence 3 cause (PageKind.code .ctx) (d - 38)
  else if d = 32 then s.fenceBnUnit .ia cause
  else if d = 33 then s.fenceBnUnit .ntt cause
  else
    (domBlocks d).foldl (fun s p => s.fence p cause) s


/-- A domain that is on loses power good (R305). -/
def State.pgoodLost (s : State) (d : Nat) : State :=
  if d = 0 || 112 ≤ d || !s.domOn d then s
  else (((s.pwrRecord 2 d).raiseFault (pg .power) 8).fenceDomain d 0x06).ascending s.irq.msgs.length

/-- A supply glitch (R315). -/
def State.supplyGlitch (s : State) (sram : Bool) : State :=
  if !s.pd0 then s else (s.pwrRecord (if sram then 6 else 5) 0).raiseFault (pg .power) 10

/-! ## The keep (R313) -/

/-- A register lies in PD0: on a page of the port keeper, or one of those of KEY and PERF that do (R236, R239, R253, R349). -/
def Reg.inPd0 (r : Reg) : Bool :=
  (PageKind.keeper r.desc.page) || r == .KEY_COUNTS || r == .KEY_SESSION || r == .KEY_FGEN || r == .PERF_STS

/-- The writable bits of a register. -/
def Reg.writable (r : Reg) : W64 :=
  r.desc.flds.foldl (fun m f => if f.acc == .rw || f.acc == .rwx then fset m f.hi f.lo (2 ^ (f.hi - f.lo + 1) - 1) else m) 0

/-- A register of a channel's shadow set, which DEEP_SLEEP loses (R267). -/
def Reg.shadow (r : Reg) : Bool := r == .DCH_SHD_CTL || r == .DCH_SHD_SRC || r == .DCH_SHD_DST || r == .DCH_ARM

/-- What the keep holds of the register file. -/
def State.keepRegs (s : State) : Tbl W64 :=
  s.regs.filterMap (fun e =>
    match allRegs[e.1 % 512]? with
    | none => none
    | some r =>
      if r.inPd0 || r.shadow then none
      else
        let d := r.resetAt (e.1 / 512)
        let v := (e.2 &&& r.writable) ||| (d &&& ~~~r.writable)
        if v = d then none else some (e.1, v))

/-- The keep is written. -/
def State.writeKeep (s : State) : State :=
  s.updPwr (fun w => { w with keep := some {
    regs := s.keepRegs
    en := (allBlocks.filter (fun p => (s.hdr p).en)).map pageNum } })

/-- The registers of PD0 with those given beside them. -/
def State.withRegs (s : State) (t : Tbl W64) : State :=
  let own := s.regs.filter (fun e => match allRegs[e.1 % 512]? with | some r => r.inPd0 | none => false)
  { s with regs := t.foldl (fun a e => Tbl.set (regDefault e.1) a e.1 e.2) own }

/-- The headers outside PD0 after DEEP_SLEEP: enables and owners are configuration, and are reset with it when the keep is
lost; states stay; the rest is at reset. -/
def State.wakeHdrs (s : State) (keep : Option Keep) : State :=
  allPages.foldl (fun s n =>
    match pageOf n with
    | none => s
    | some p =>
      if PageKind.keeper p.kind then s
      else
        let h := s.hdrAt n
        let d := Hdr.resetAt n
        match keep with
        | none => s.setHdrAt n d
        | some k => s.setHdrAt n { d with
            st := h.st, prev := h.prev, en := k.en.contains n || d.en, faultEn := h.faultEn, eventEn := h.eventEn
            ownerValid := h.ownerValid, ownerFunc := h.ownerFunc }) s

/-! ## Ramps that fail (R305) -/

/-- A domain ramps: in a wake until the domains are up, with a block of it that comes up, and PD1 and PD110 by CORE_ON, which is one
step with the entry to BRING_UP in this model, so that they still ramp until a block leaves OFF (R294, R305, R339; log 121). -/
def State.ramps (s : State) (d : Nat) : Bool :=
  (s.pwr.phase == .waking && !s.pwr.restored) || (domBlocks d).any (fun p => s.blk p == .comingUp) ||
    ((d == 1 || d == 110) && s.tile.st == .bringUp && s.tile.prev == .clocked && allBlocks.all (fun p => s.blk p == .off))

/-- PD1 or PD110 has failed to come up: it is off, a wake that runs ends there, and what DEEP_SLEEP has switched off is at reset
(log 121). -/
def State.coreFails (s : State) : State :=
  let s :=
    if s.tile.st == .deepSleep then
      let s := (s.withRegs []).wakeHdrs none
      { s with qeng := {}, crown := {}, frames := {} }
    else s
  s.updPwr (fun w => { w with core := false, phase := .awake, restored := false, deep := false, keep := none })

/-- A domain without power good is tried once more; a second failure fences what owns it (R305). In a wake that ends in ALARMED the
fence of the tile is logged and not acted on (R329). -/
def State.pgoodTimeout (s : State) (d : Nat) (retryOk : Bool) : State :=
  if !s.pwr.core || !s.ramps d || 112 ≤ d || d = 0 then s
  else if retryOk then s.transient (pg .power)
  else
    let m := s.irq.msgs.length
    let s := ((s.lasting (pg .power)).pwrRecord 1 d).raiseFault (pg .power) 8
    let core := d == 1 || d == 110
    let s :=
      if core && s.pwr.alarmed then s.logFence 5 0x06 1 0
      else (if core then s.coreFails else s).fenceDomain d 0x06
    s.ascending m

/-! ## Sleep entry (R308, R309) -/

/-- GO is accepted: the tile is in READY or RUN with its outputs free, awake, and the target is SLEEP or DEEP_SLEEP. -/
def State.sleepOk (s : State) (target : Nat) : Bool :=
  (s.tile.st == .ready || s.tile.st == .run) && !s.safeShown && s.pwr.phase == .awake && (target == 1 || target == 2)

/-- The entry begins: DRAINING. -/
def State.sleepStart (s : State) (target : Nat) : State :=
  (s.updPwr (fun w => { w with phase := .draining, deep := target == 2, wakeLatched := false, abandon := false })).rewindAll

/-- PWR_SLEEP.GO. -/
def State.sleepGo (s : State) (target : Nat) : State :=
  if s.sleepOk target then s.sleepStart target else s.seq (pg .power)

/-- The entry is abandoned: the queue engine resumes from the rewound heads (R309). -/
def State.sleepAbandon (s : State) : State :=
  ((s.updPwr (fun w => { w with phase := .awake, abandon := false, wakeLatched := false })).raiseEvent (pg .power) 2).kdfSync

/-- A save step that has begun: FLUSH or the write of the slot image. -/
def State.saveStep (s : State) : Bool := s.ctx.store == .flushing || s.xferPending (fun k => k == .slotSave)

/-- The entry is to be abandoned, once a save step that has begun has ended. -/
def State.sleepCancel (s : State) : State :=
  if s.pwr.phase == .saving && s.saveStep then s.updPwr (fun w => { w with abandon := true }) else s.sleepAbandon

/-- The tile's work has drained (R308 step 1); a fence sequence or tamper response that runs is waited for. -/
def State.sleepDrained (s : State) : Bool :=
  s.drained &&
    (List.range 16).all (fun c => (s.dch c).st != .copying && (s.dch c).st != .running && (s.dch c).st != .ending) &&
    s.bnIdle && s.digestIdle && s.digest.slotWait.isEmpty &&
    s.key.jobs.isEmpty && s.key.derive.isEmpty && s.key.attest.isNone &&
    s.ctx.misses.all (fun m => m.leafOnly) && s.tile.st == .ready && !s.tamp.responding && s.tile.fencing.isNone

/-- FLUSH runs as part of an entry, if the store is there to be written. -/
def State.flushForSleep (s : State) : State :=
  if (s.ctx.store == .ready || s.ctx.store == .flushing) && s.isOn (pg .ctx) && s.key.wrap.isSome && s.key.tree.isSome then
    ({ s with ctx := { s.ctx with autoFlush := true } }).flushStart.flushCheck
  else s

/-- A block goes OFF before SLEEP commits, because its bit of SLEEP_EN is 0 (R304). -/
def State.sleepOff (s : State) (p : PageRef) : Bool :=
  s.flag CLK_COMPAT.COMPAT_MODE 0 && !maskCovers (s.fld CLK_SLEEP_EN.MASK 0) p &&
    (p.kind == .lane || p.kind == .quad || (clkBit p).isSome) && s.blk p != .off && s.blk p != .fenced

/-- COMMITTED: interrupts are flushed (R308 step 3). -/
def State.sleepCommitted (s : State) : State :=
  (s.updPwr (fun w => { w with phase := .committed })).irqFlush false

/-- The slot image is to be written (R185). -/
def State.imageWanted (s : State) : Bool :=
  s.flag DG_SAVE_CTL.EN 0 && s.isOn (pg .digest) && s.key.root.isSome && s.key.rootStates

/-- SAVING goes on after FLUSH: the slot image is sealed under SLOTWRAP, which channel 255 derives, and written, if one is
wanted (R178, R185, R238). -/
def State.saveNext (s : State) : State :=
  if s.ctx.store == .flushing || s.xferPending (fun k => k == .slotSave) || s.digest.image.isSome || !s.imageWanted then s
  else
    match s.rootBytes with
    | some root =>
      let s := s.kdfSeat
      if s.kdfOnCore then ((s.kdfCount slotWrapCost).saveImage root).kdfNext else s
    | none => s

/-- SLEEP_DRAIN_DONE: the drain conditions are met (R308). -/
def State.sleepDrainDone (s : State) : State :=
  if s.pwr.phase != .draining || !s.sleepDrained then s
  else if s.pwr.deep then
    let s := { s with digest := { s.digest with image := none } }
    (s.updPwr (fun w => { w with phase := .saving })).flushForSleep.saveNext
  else
    let s := if s.sleepOff (pg .ctx) then s.flushForSleep else s
    s.sleepCommitted

/-- The write of the slot image has ended: IMAGE and GEN show a good one, and SAVE_DONE is set (R185, R186). -/
def State.imageWritten (s : State) : State :=
  match s.takeMail (fun k => k == .slotSave) with
  | none => s
  | some (x, s) =>
    let s := s.xferRetry (pg .digest) x
    if x.failed.isSome then s
    else ({ s with digest := { s.digest with image := some s.digest.gen, saved := s.digest.gen } }).raiseEvent (pg .digest) 1

/-- SLEEP_SAVE_DONE: the running save step has ended. After the last one the keep is written and V221 is raised. -/
def State.sleepSaveDone (s : State) : State :=
  if s.pwr.phase != .saving || s.ctx.store == .flushing || s.fab.xfers.any (fun x => x.kind == .slotSave && !x.dropped) then s
  else
    let wrote := s.fab.mail.any (fun x => x.kind == .slotSave)
    let s := s.imageWritten
    if s.pwr.abandon then s.sleepAbandon
    else if s.imageWanted && !wrote && s.digest.image.isNone then s.saveNext
    else (s.writeKeep.raiseEvent (pg .power) 1).sleepCommitted

/-- DRAINING and SAVING have taken longer than DRAIN_TMO. -/
def State.sleepTimeout (s : State) : State :=
  if s.pwr.phase == .draining || s.pwr.phase == .saving then s.sleepCancel else s

/-- What the domains that go down lose. In SLEEP the lanes, quads, digest cores and noise cells are off. -/
def State.sleepLoses (s : State) : State :=
  let s := (List.range 16).foldl (fun s n => s.laneClear n) s
  let s := (List.range 4).foldl (fun s q => s.setQuad q {}) s
  let s := (List.range 4).foldl (fun s n => s.setDcore n {}) s
  s.stopCells.pounceStop

/-- What DEEP_SLEEP loses besides: everything outside PD0 but what the keep holds. -/
def State.deepLoses (s : State) : State :=
  let s := (s.loseWays (fun _ => true)).ctxDropCaches
  let s := (s.pounceDrop 0 72).clearDerived.clearPounce.clearSecrets.attestAbort
  let im := s.digest.image
  let s := s.digestWipe.bnWipe.rngStop.perfOff
  let s := { s with
    digest := { s.digest with image := im }
    dma := {}
    irq := { s.irq with vecs := [], msgs := [], flush := [], flushAck := false }
    ctx := { s.ctx with badBanks := [], cmd := none } }
  { s with perf := { s.perf with rings := Tbl.mapVals {} (fun (x : TrcRing) => { x with writing := [], mirror := false }) s.perf.rings } }

/-- SLEEP_COMMIT: every flushed message is accepted; domains go down and the PLLs stop (R308 step 3). -/
def State.sleepCommit (s : State) : State :=
  if s.pwr.phase != .committed || s.asleep || !s.irq.msgs.isEmpty || s.clk.safe || s.ctx.store == .flushing then s
  else
    let deep := s.pwr.deep
    let s :=
      if deep then s
      else
        (allBlocks.filter (fun p => s.sleepOff p)).foldl (fun s p =>
          (((s.setBlk p .goingDown).wipeBlock p).setBlk p .off)) s
    let s := s.sleepLoses
    let s := if deep then s.deepLoses else s
    let s := s.updClk (fun c => { c with lock := 0, await := 0, restart := 0, parkStop := 0 })
    let s := { s with tile := { s.tile with wdogExpired := false } }
    let s := s.enterTile (if deep then .deepSleep else .sleep)
    let latched := s.pwr.wakeLatched
    s.updPwr (fun w => { w with
      phase := if latched then .waking else .asleep, wakeLatched := false, restored := false, alarmed := false })

/-! ## Wake (R310–R314) -/

/-- A wake source qualifies: its bit is recorded, and an entry is abandoned before COMMITTED, latched until ASLEEP, or the
sleeping tile begins to wake (R309, R310). -/
def State.wakeSource (s : State) (bit : Nat) : State :=
  if s.pwr.phase == .awake then s
  else
    let c := s.fld PWR_WAKE_CAUSE.CAUSE 0
    let s := (s.put PWR_WAKE_CAUSE.CAUSE 0 (if bitAt c bit then c else c + 2 ^ bit)).putFlag PWR_WAKE_CAUSE.VALID 0 true
    match s.pwr.phase with
    | .draining | .saving => s.sleepCancel
    | .committed => s.updPwr (fun w => { w with wakeLatched := true })
    | .asleep => s.updPwr (fun w => { w with phase := .waking })
    | .awake | .waking => s

/-- Q4's event goes to the wake logic (R310, R318). -/
def State.wakePinEvent (s : State) : State := if s.flag PWR_WAKE_CFG.PIN 0 then s.wakeSource 0 else s

/-- tile_wake_in qualifies: Q4 latches and the wake logic sees one event. -/
def State.wakePin (s : State) : State :=
  let x := s.qual 4
  if !s.pd0 || x.st == .latched || x.st == .armable then s
  else
    (s.setQual 4 { x with st := .latched, raw := true, edges := if x.raw then x.edges else satAdd x.edges 1 255 }).wakePinEvent

/-- PWR_CMD with its key (R294, R309, R310, R317). -/
def State.pwrCommand (s : State) (cmd : Nat) : State :=
  if cmd = 1 then
    if s.tile.st == .clocked then s.coreUp.enterTile .bringUp else s.seq (pg .power)
  else if cmd = 2 then if s.pwr.phase == .awake then s.seq (pg .power) else s.wakeSource 4
  else if cmd = 3 then
    if s.pwr.phase == .draining || s.pwr.phase == .saving then s.sleepCancel else s.seq (pg .power)
  else s.seq (pg .power)

/-- The wake timer expires (R310). -/
def State.wakeTimer (s : State) : State :=
  if s.flag PWR_WAKE_CFG.TIMER_EN 0 && (s.pwr.phase == .asleep || s.pwr.phase == .waking) then s.wakeSource 3 else s

/-- A tamper event came while the tile slept: the wake ends in ALARMED with every block OFF, and every queue and CQ that is not
DISABLED reads FENCED (R325, R346). -/
def State.wakeAlarmed (s : State) : State :=
  let m := s.irq.msgs.length
  let s := s.updPwr (fun w => { w with phase := .awake, alarmed := false, restored := false, deep := false })
  let s := { s.enterAlarmed with clk := { s.clk with lock := BitVec.ofNat 6 (s.fld CLK_PLL_EN.CPLL 0 + 2 * s.fld CLK_PLL_EN.FPLL 0) } }
  let s := s.fenceQueues.allOff.setReg .CLK_EN 0 0
  let s := if s.flag CLK_COMPAT.COMPAT_MODE 0 then s.setReg .CLK_RUN_EN 0 0 else s
  (s.closeLocks.raiseEvent (pg .power) 0).judgeLatched.ascending m

/-- The enabled PLLs lock on the qualified reference as part of the wake (R311). -/
def State.wakePlls (s : State) : State :=
  s.updClk (fun c => { c with lock := (s.reg .CLK_PLL_EN 0).setWidth 6, await := 0, restart := 0 })

/-- What a domain holds is zeroized (R12, R314): the registers of PD1, the tree-node cache, the keyed-digest slots, the digest
channels' state, or what its block loses as it enters OFF. A cache bank is wiped by its fence. The dirty ways cannot be written
back without the registers of PD1. -/
def State.domZero (s : State) (d : Nat) : State :=
  if d = 1 then ((s.loseWays (fun _ => true)).ctxDropCaches).withRegs []
  else if 38 ≤ d ∧ d < 102 then s
  else if d = 106 then { s with ctx := { s.ctx with nodes := [], owed := [] } }
  else if d = 107 then { s with digest := { s.digest with slots := [] } }
  else if d = 108 then { s with digest := { s.digest with chans := [] } }
  else (domBlocks d).foldl (fun s p => s.wipeBlock p) s

/-- A retained domain whose check words differ is zeroized and what owns it is fenced (R314). -/
def State.retentionBad (s : State) (d : Nat) : State :=
  ((((s.pwrRecord 3 d).raiseFault (pg .power) 9).domZero d).fenceDomain d 0x07).ascending s.irq.msgs.length

/-- The tile is awake: locks are closed, V220 is raised, latched sources are judged, the pass of the pounce masker and the
noise cells start (R36, R311, R312). -/
def State.wakeEnds (s : State) : State :=
  let s := s.updPwr (fun w => { w with phase := .awake, restored := false, deep := false })
  let s := (s.enterTile .ready).closeLocks
  let s := (s.raiseEvent (pg .power) 0).judgeLatched.ascending s.irq.msgs.length
  s.pumpPorts

/-- A wake from SLEEP ends. -/
def State.wakeSleep (s : State) (bad : List Nat) : State :=
  let hit := bad.filter (fun d => s.domRet d)
  let s := s.wakePlls.wakeEnds
  let s := hit.foldl (fun s d => s.retentionBad d) s
  let s := s.pounceDue
  let s := if s.key.root.isSome then { s with rng := { s.rng with privWait := s.rng.privWait ++ [.rootSplit] } } else s
  let s :=
    if s.isOn (pg .rng) then
      let s := s.startCells
      ({ s with rng := { s.rng with count := max s.rng.count s.rngNominal } }).rngLevels
    else s
  s.coresGo.kdfSync.followAll

/-- The keep failed its CRC: everything outside PD0 is at reset and the wake ends in BRING_UP (R313). -/
def State.keepLost (s : State) : State :=
  let s := (s.withRegs []).wakeHdrs none
  let s := { s with qeng := {}, crown := {}, frames := {} }
  let s := s.updPwr (fun w => { w with phase := .awake, restored := false, deep := false, keepFail := true, keep := none })
  let s := (s.enterTile .bringUp).closeLocks
  let s := (s.pwrRecord 4 0).raiseFault (pg .power) 9
  (s.putFlag TILE_RESET_CAUSE.WAKE_DEEP 0 true).raiseEvent (pg .power) 0

/-- The keep is restored, and the blocks that were not OFF come up, except those that DEEPSLEEP_EN leaves OFF (R304, R313). Lanes and DMA
channels leave OFF once their quad, or the DMA engine, is ON (R73, R254). -/
def State.keepBack (s : State) (k : Keep) : State :=
  let s := (s.withRegs k.regs).wakeHdrs (some k)
  let s := s.updPwr (fun w => { w with restored := true, keepFail := false, keep := none })
  let s := { s with qeng := { s.qeng with rqs := Tbl.mapVals {} (fun (x : Rq) => { x with fetching := false, ahead := [] }) s.qeng.rqs } }
  allBlocks.foldl (fun s p =>
    let h := s.hdr p
    let cut := s.flag CLK_COMPAT.COMPAT_MODE 0 && !maskCovers (s.fld CLK_DEEPSLEEP_EN.MASK 0) p && p.kind != .dmaChannel
    if cut then s.setHdr p { h with en := false, st := .off }
    else if h.st == .off || h.st == .fenced then s
    else if h.en && p.kind != .lane && p.kind != .dmaChannel then (s.setHdr p { h with st := .comingUp }).upStarts p
    else s.setHdr p { h with st := .off }) s

/-- A wake from DEEP_SLEEP ends, once no block is coming up any more (R311). -/
def State.deepEnds (s : State) : State :=
  if allBlocks.any (fun p => (s.hdr p).st == .comingUp) then s
  else (s.putFlag TILE_RESET_CAUSE.WAKE_DEEP 0 true).wakeEnds.pounceFresh.followAll

/-- The domains that a tamper response has wiped while the tile slept: they come up without a retention check (R325). -/
def tamperWiped (d : Nat) : Bool :=
  d == 36 || d == 37 || (decide (38 ≤ d) && decide (d < 102)) || (decide (106 ≤ d) && decide (d < 110))

/-- A wake runs as R311 has it, and ends in ALARMED (R325): the retention checks of a wake from SLEEP, or the keep of one from
DEEP_SLEEP. A check that fails in PD1 is logged and not acted on (R329). -/
def State.alarmedWake (s : State) (keepOk : Bool) (bad : List Nat) : State :=
  if s.tile.st == .sleep then
    let s := (bad.filter (fun d => s.domRet d && !tamperWiped d)).foldl (fun s d =>
      let s := s.retentionBad d
      if d = 1 then s.logFence 5 0x07 1 0 else s) s
    s.wakeAlarmed
  else
    let s :=
      match keepOk, s.pwr.keep with
      | true, some k => ((s.withRegs k.regs).wakeHdrs (some k)).updPwr (fun w => { w with keepFail := false, keep := none })
      | _, _ =>
        let s := ((s.withRegs []).wakeHdrs none).updPwr (fun w => { w with keepFail := true, keep := none })
        (s.pwrRecord 4 0).raiseFault (pg .power) 9
    (s.putFlag TILE_RESET_CAUSE.WAKE_DEEP 0 true).wakeAlarmed

/-- WAKE_COMPLETE: the domains are up. A wake from DEEP_SLEEP restores the keep at its first run and returns to READY once the
blocks have come up. A wake waits for a qualified reference (R302). -/
def State.wakeComplete (s : State) (keepOk : Bool) (bad : List Nat) : State :=
  if s.pwr.phase != .waking || !s.refGood then s
  else if s.pwr.alarmed then s.releaseSafe.alarmedWake keepOk bad
  else if s.tile.st == .sleep then s.releaseSafe.wakeSleep bad
  else if s.pwr.restored then s.deepEnds
  else
    let s := s.releaseSafe.wakePlls
    match keepOk, s.pwr.keep with
    | true, some k => (s.keepBack k).deepEnds
    | _, _ => s.keepLost.judgeLatched.ascending s.irq.msgs.length

/-! ## Parking (R307) -/

/-- A lane that has held no frame for LANE_IDLE is parked. -/
def State.lanePark (s : State) (n : Nat) : State :=
  let x := s.lane n
  if s.flag PWR_PARK.LANE_EN 0 && decide (n < 16) && s.isOn (lanePg n) && x.frames.isEmpty && x.check == .idle && !x.parked &&
      !x.unparking then (s.setLane n { x with parked := true }).perfCount (108 + n / 4) 1
  else s

/-- An unparked lane accepts frames. -/
def State.laneUnparkDone (s : State) (n : Nat) : State := s.updLane n (fun x => { x with unparking := false })

/-- A quad that has had no element for QUAD_IDLE is parked: QPLL_q stops. -/
def State.quadPark (s : State) (q : Nat) : State :=
  let idle := (quadLanes q).all (fun n => (s.lane n).parked || s.blk (lanePg n) == .off || s.blk (lanePg n) == .fenced)
  if s.flag PWR_PARK.QUAD_EN 0 && decide (q < 4) && s.isOn (quadPg q) && !(s.quad q).parked && idle &&
      (s.quad q).staged == 0 && s.frames.list.all (fun f => f.quad != q) then
    let b : BitVec 6 := (1 : BitVec 6) <<< (2 + q)
    (s.updQuad q (fun x => { x with parked := true })).updClk (fun c => { c with
      parkStop := c.parkStop ||| b, lock := c.lock &&& ~~~b, restart := c.restart &&& ~~~b, await := c.await &&& ~~~b })
  else s

/-! ## vdd_ao (R339, R383) -/

/-- vdd_ao is lost: everything is lost. The commands that wait, and the model's count of free values, are the
surroundings'. -/
def State.aoLoss (s : State) : State := { State.reset with pending := s.pending, freeCtr := s.freeCtr }

/-- vdd_ao qualifies: PD0 comes out of reset and the strap is sampled (R361, R383). -/
def State.aoUp (s : State) (base : BitVec 36) : State :=
  if s.tile.st != .powerOff then s
  else { s.aoLoss with tile := { State.reset.tile with st := .aoOnly, prev := .powerOff, windowBase := base } }

end Sys2Proof.Machine
end

