-- ==== Sys2Proof/Machine/Sched.lean ====
section
/-! DEFINITION. Issue by weighted round robin, chains, and dispatch to the engines (R15, R20, R21, R49, R50, R57–R63, R151,
R156, R408). -/

namespace Sys2Proof.Machine

/-! ## The checks at issue (R50, R60) -/

/-- The opcodes of R49 and R408. -/
def isOpcode (op : Nat) : Bool :=
  (decide (0x10 ≤ op) && decide (op ≤ 0x17)) || (decide (0x20 ≤ op) && decide (op ≤ 0x23)) ||
    (decide (0x30 ≤ op) && decide (op ≤ 0x3C) && op != 0x37) || (decide (0x40 ≤ op) && decide (op ≤ 0x43)) ||
    op == 0x50 || op == 0x60

/-- The big-number opcodes. -/
def isBignumOp (op : Nat) : Bool := decide (0x30 ≤ op) && decide (op ≤ 0x3C)

/-- The opcodes that may hand a secret on (R60). -/
def givesSecret (op : Nat) : Bool := [0x23, 0x50, 0x31, 0x34, 0x39, 0x3A].contains op

/-- The opcodes that may follow an element with SECRET_HANDOFF (R60). -/
def takesSecret (op : Nat) : Bool := op == 0x23 || op == 0x40 || op == 0x41

/-- A reserved bit of W0 or W7 is not zero. -/
def Desc.reservedSet (d : Desc) : Bool :=
  fget d.w0 58 56 != 0 || fget d.w0 47 46 != 0 || fget d.w0 39 28 != 0 || fget d.w7 59 0 != 0

/-- OBJECT is outside its opcode's range. -/
def Desc.objectBad (d : Desc) : Bool :=
  let op := d.opcode
  (op == 0x21 && decide (4095 < d.object)) || (op == 0x22 && decide (255 < d.object)) ||
    (isBignumOp op && decide (63 < d.object)) ||
    ((op == 0x20 || op == 0x23 || op == 0x50 || op == 0x60) && d.object != 0)

/-- The first check of R50 that a descriptor fails, as its issue reason (R148). -/
def issueReason (d : Desc) (quadMask : Nat) : Option Nat :=
  if !isOpcode d.opcode then some 0x10
  else if d.reservedSet then some 0x11
  else if d.objectBad then some 0x12
  else if d.isFrame && quadMask == 0 then some 0x13
  else if d.resultReg && (!(d.opcode == 0x20 || d.opcode == 0x21 || d.opcode == 0x22) || decide (60 ≤ d.aux0 % 64)) then
    some 0x14
  else if d.secretHandoff && (!d.chain || d.dstLen != 0 || !givesSecret d.opcode) then some 0x15
  else none

/-- The first element of a unit of issue that fails a check, with its reason, from position i on. -/
def unitFault (quadMask : Nat) : Nat → Bool → List Desc → Option (Nat × Nat)
  | _, _, [] => none
  | i, after, d :: rest =>
    match issueReason d quadMask with
    | some r => some (i, r)
    | none =>
      if after && !takesSecret d.opcode then some (i, 0x15)
      else if i = 7 ∧ d.chain then some (i, 0x16)
      else unitFault quadMask (i + 1) d.secretHandoff rest

/-! ## Dispatch (R63) -/

/-- What an element completes with that meets a FENCED engine: a digest request reports 0x2E and the channel it names, a
big-number request 0x30 and its channel (R173, R207, R209). -/
def State.engineFenced (s : State) (p : PageRef) (e : Elem) : Compl :=
  match p.kind with
  | .digest => { elem := e, status := stFenced, reason := 0x2E, value := if e.d.opcode = 0x22 then e.d.object % 256 else 0 }
  | .bignum => { elem := e, status := stFenced, reason := 0x30, value := e.d.object % 256,
                 flags := b2n (s.bnChan e.d.object).key.isSome }
  | _ => { elem := e, status := stFenced, value := s.refusedValue e }

/-- An engine that serves its elements takes one, unless its producer stalls (R149); a FENCED one completes it with FENCED;
otherwise the element waits. -/
def State.toEngine (s : State) (p : PageRef) (producer : Nat) (e : Elem) (f : State → Bool × State) : Bool × State :=
  match s.blk p with
  | .on => if s.stalling producer then (false, s) else f s
  | .fenced => (true, s.push 25 (s.engineFenced p e))
  | _ => (false, s)

/-- A digest element that would complete as it is dispatched waits while the producer of such completions stalls (R149). -/
def State.digestTake (s : State) (e : Elem) : Bool × State :=
  let r := s.digestDispatch e
  if s.stalling 16 && r.2.crown.stalled.length != s.crown.stalled.length then (false, s) else r

/-- An element other than a frame or a MARKER goes to its engine; answers false where the engine cannot take it. -/
def State.route (s : State) (e : Elem) : Bool × State :=
  let op := e.d.opcode
  let e := e.stamp 2 s.now
  if op = 0x20 ∨ op = 0x21 ∨ op = 0x22 then s.toEngine (pg .digest) 26 e (fun s => s.digestTake e)
  else if isBignumOp op then s.toEngine (pg .bignum) 20 e (fun s => s.bnDispatch e)
  else if (op = 0x40 ∨ op = 0x41) ∧ s.stalling 22 then (false, s)
  else if op = 0x23 ∨ op = 0x40 ∨ op = 0x41 then s.toEngine (pg .key) 21 e (fun s => (true, s.keyDispatch e))
  else if op = 0x50 then
    if s.stalling 23 then (false, s) else
    let s := (s.perfCount 124 1).fnCount e.func 25 1
    let (j, s) := s.newJob e
    (true, { s with rng := { s.rng with jobs := s.rng.jobs ++ [j] } })
  else
    s.toEngine (pg .ctx) 22 e (fun s =>
      let (j, s) := s.newJob e
      (true, { s with ctx := { s.ctx with jobs := s.ctx.jobs ++ [j] } }))

/-- A quad of the queue's mask can take a frame now, or begins to wake for it (R63, R71, R72, R307). -/
def State.quadsTake (s : State) (e : Elem) : Bool :=
  let qs := s.maskQuads e.rq
  qs.all (fun q => s.blk (quadPg q) == .off || s.blk (quadPg q) == .fenced) ||
    s.blk (pg .ctx) == .fenced ||
    (s.isOn (pg .ctx) &&
      (qs.any (fun q => s.quadTakes q e.d.srcLen) ||
        qs.any (fun q => s.isOn (quadPg q) && ((s.quad q).parked || (quadLanes q).any (fun n => (s.lane n).parked)))))

/-- The engine that an element is bound for can take a request (R57). -/
def State.engineTakes (s : State) (e : Elem) : Bool :=
  if e.d.isFrame then s.quadsTake e else if e.d.opcode = 0x60 then true else (s.route e).1

/-- The element at place n of those issued, if no element of its queue waits ahead of it. -/
def State.issuedAt (s : State) (n : Nat) : Option Elem :=
  match s.qeng.issued[n]? with
  | none => none
  | some e => if (s.qeng.issued.take n).any (fun x => x.rq == e.rq && x.chain.isNone) then none else some e

/-- The first element of a chain that sets SECRET_HANDOFF takes a chain-buffer entry (R15). -/
def State.takeCbuf (s : State) (e : Elem) : State :=
  match e.chain.bind (fun i => s.chain? i) with
  | none => s
  | some ch =>
    if !e.d.secretHandoff || ch.cbuf.isSome then s
    else
      match firstBelow 64 (fun i => !(Tbl.get {} s.qeng.cbuf i).taken) with
      | none => s
      | some i =>
        { s with qeng := { s.qeng with
          cbuf := Tbl.set {} s.qeng.cbuf i { taken := true }
          chains := s.qeng.chains.map (fun (c : Chain) => if c.id == ch.id then { c with cbuf := some i } else c) } }

/-- DISPATCH: an issued element goes to its engine. -/
def State.dispatch (s : State) (n : Nat) : State :=
  match s.issuedAt n with
  | none => s
  | some e =>
    if !s.dispatching || e.d.isFrame || e.d.opcode == 0x60 then s
    else
      let (ok, t) := ((s.unissue n).takeCbuf e).route e
      if ok then (t.lookupDispatched e).enterRun else s

/-- MARKER: completes OK with OUT_LEN 0 (R62). -/
def State.marker (s : State) (n : Nat) : State :=
  match s.issuedAt n with
  | none => s
  | some e => if !s.dispatching || e.d.opcode != 0x60 then s else ((s.unissue n).enterRun).pushStatus 25 e stOk

/-- CHAIN_NEXT_DISPATCH: the chain sequencer dispatches the next element of a chain whose predecessor has completed (R59). A
frame goes to dispatch, ahead of nothing. -/
def State.chainNext (s : State) (i : Nat) : State :=
  match s.chain? i with
  | none => s
  | some ch =>
    match ch.rest with
    | [] => s
    | e :: rest =>
      if !ch.ready || !s.dispatching then s
      else
        let t := s.updChain i (fun c => { c with rest := rest, ready := false })
        if e.d.isFrame then { t with qeng := { t.qeng with issued := t.qeng.issued ++ [e] } }
        else if e.d.opcode = 0x60 then (t.refill e.rq).enterRun.pushStatus 25 e stOk
        else
          let (ok, u) := ((t.refill e.rq).takeCbuf e).route e
          if ok then (u.lookupDispatched e).enterRun else s

/-! ## Issue (R57–R62) -/

/-- The element that an accepted descriptor becomes: the queue's function is attached (R63). -/
def State.elemOf (s : State) (q : Nat) (a : Accepted) : Elem :=
  { rq := q, idx := a.idx, lap := a.lap, func := s.fld RQ_CFG.FUNC q, cq := s.fld RQ_CFG.CQ q, d := a.d, tag := a.tag }

/-- How many descriptors at the head of a queue are issued together: 1, or a whole chain of at most 8; none while a chain is
not accepted whole (R59, R60). -/
def unitLen (i : Nat) : List Accepted → Option Nat
  | [] => none
  | a :: rest => if !a.d.chain ∨ i = 7 then some (i + 1) else unitLen (i + 1) rest

/-- Free chain-buffer entries that no issued chain is still to take. -/
def State.cbufFree (s : State) : Nat :=
  let free := countBelow 64 (fun i => !(Tbl.get {} s.qeng.cbuf i).taken)
  let due := s.qeng.chains.filter (fun c =>
    c.cbuf.isNone && (c.rest.any (fun e => e.d.secretHandoff) ||
      s.qeng.issuing.any (fun e => e.1.chain == some c.id && e.1.d.secretHandoff) ||
      s.qeng.issued.any (fun e => e.chain == some c.id && e.d.secretHandoff)))
  free - due.length

/-- The unit of issue at the head of a queue. -/
def State.headUnit (s : State) (q : Nat) : List Accepted :=
  let l := (s.rq q).acc
  l.take ((unitLen 0 l).getD 0)

/-- The head of a queue needs a chain-buffer entry and none is free (R15). -/
def State.needsCbuf (s : State) (q : Nat) : Bool :=
  let u := s.headUnit q
  u.any (fun a => a.d.secretHandoff) && (unitFault (s.fld RQ_CFG.QUAD_MASK q) 0 false (u.map (fun a => a.d))).isNone &&
    s.cbufFree == 0

/-- A queue is eligible apart from its credit (R57, R59, R62, R151). -/
def State.issuable (s : State) (q : Nat) : Bool :=
  let x := s.rq q
  let u := s.headUnit q
  match u with
  | [] => false
  | a :: _ =>
    let c := s.fld RQ_CFG.CQ q
    (x.st == .active || x.st == .draining || (x.st == .fenced && x.fetchFenced)) && !(s.cq c).full && !x.missHold &&
      !(a.d.barrier && x.inflight != 0) && s.canGrant c u.length &&
      (u.length == 1 || decide (s.qeng.chains.length < 64)) &&
      ((unitFault (s.fld RQ_CFG.QUAD_MASK q) 0 false (u.map (fun a => a.d))).isSome ||
        (s.engineTakes (s.elemOf q a) && !s.needsCbuf q))

/-- The queues that have accepted entries, ascending. -/
def State.readyRqs (s : State) : List Nat := (s.qeng.rqs.filter (fun p => !p.2.acc.isEmpty)).map (fun p => p.1)

/-- A list of queues, rotated so that those from n on come first. -/
def rotateFrom (n : Nat) (l : List Nat) : List Nat := l.filter (fun q => n ≤ q) ++ l.filter (fun q => q < n)

/-- A round starts: queues with accepted entries add their WEIGHT, the others lose their credit; WEIGHT and BURST are taken as
they stand (R57, R58). DESIGN CHOICE (log 96): the first round of all starts at the lowest-numbered queue with accepted
entries. -/
def State.newRound (s : State) : State :=
  let l := s.readyRqs
  let s := { s with qeng := { s.qeng with rqs := Tbl.mapVals {} (fun (x : Rq) => { x with
    credit := if x.acc.isEmpty then 0 else x.credit }) s.qeng.rqs } }
  let s := l.foldl (fun s q => s.updRq q (fun x =>
    let w := max 1 (s.fld RQ_SCHED.WEIGHT q)
    { x with weight := w, burst := min 64 (max 1 (s.fld RQ_SCHED.BURST q)), credit := x.credit + Int.ofNat w })) s
  let first := match s.qeng.roundStart with
    | none => l.head?.getD 0
    | some r => (rotateFrom (r + 1) l).head?.getD 0
  { s with qeng := { s.qeng with roundStart := some first, next := first, visitLeft := 0 } }

/-- An ordering number for an ORDERED element (R156). -/
def State.numbered (s : State) (e : Elem) : Elem × State :=
  if e.d.ordered then
    let n := (s.rq e.rq).ordNext
    ({ e with ord := some n }, s.updRq e.rq (fun x => { x with ordNext := (n + 1) % 65536 }))
  else (e, s)

/-- The elements of a unit, with their ordering numbers. -/
def State.numberAll (s : State) : List Elem → List Elem × State
  | [] => ([], s)
  | e :: rest =>
    let (e, s) := s.numbered e
    let (l, s) := s.numberAll rest
    (e :: l, s)

/-- The elements of a unit as they are to be issued: those of a chain carry its number, and those of a refused unit complete, the
failing one with BAD_OPCODE, the others with CHAIN_ABORTED (R60). -/
def unitElems (es : List Elem) (id : Nat) (bad : Option (Nat × Nat)) : List (Elem × Option Compl) :=
  let es := if es.length ≤ 1 then es else es.zipIdx.map (fun (p : Elem × Nat) => { p.1 with chain := some id, pos := p.2 })
  match bad with
  | none => es.map (fun e => (e, none))
  | some (i, r) =>
    es.zipIdx.map (fun (p : Elem × Nat) =>
      (p.1, some (if p.2 = i then { elem := p.1, status := stBadOpcode, reason := r }
        else { elem := p.1, status := stChainAborted, value := i })))

/-- The issue of the unit at the head of a queue begins: its elements leave the accepted entries, are charged to the queue's
credit and to its CQ, and take their ordering numbers (R57, R60, R151, R156). -/
def State.startUnit (s : State) (q : Nat) : State :=
  let u := s.headUnit q
  let n := u.length
  let bad := unitFault (s.fld RQ_CFG.QUAD_MASK q) 0 false (u.map (fun a => a.d))
  let s := s.updRq q (fun x => { x with acc := x.acc.drop n, credit := x.credit - Int.ofNat n, cbufWait := false })
  let s := s.grant (s.fld RQ_CFG.CQ q) n
  let (es, s) := s.numberAll (u.map (fun a => s.elemOf q a))
  let id := s.qeng.nextChain
  { s with qeng := { s.qeng with
    nextChain := if n ≤ 1 then id else id + 1
    issuing := unitElems es id bad } }

/-- A visit ends: the next queue follows. -/
def State.visitEnds (s : State) : State :=
  { s with qeng := { s.qeng with next := (s.qeng.next + 1) % 256, visitLeft := 0 } }

/-- The queue that the scheduler visits next, if one is eligible: the first from NEXT on that has credit. -/
def State.visitQueue (s : State) : Option Nat :=
  (rotateFrom s.qeng.next s.readyRqs).find? (fun q => decide (0 < (s.rq q).credit) && s.issuable q)

/-- A queue is held back by its credit alone (R57). -/
def State.creditHeld (s : State) : Bool := s.readyRqs.any (fun q => decide ((s.rq q).credit ≤ 0) && s.issuable q)

/-- A visit issues the unit at the head of a queue; it ends with BURST or the credit used up (R57). -/
def State.visit (s : State) (q : Nat) : State :=
  let s :=
    if q = s.qeng.next ∧ s.qeng.visitLeft ≠ 0 then s
    else { s with qeng := { s.qeng with next := q, visitLeft := (s.rq q).burst } }
  let n := (s.headUnit q).length
  let left := s.qeng.visitLeft
  let s := s.startUnit q
  let s := { s with qeng := { s.qeng with visitLeft := left - n } }
  if decide (left ≤ n) || decide ((s.rq q).credit ≤ (0 : Int)) then s.visitEnds else s

/-- The work of one FCLK cycle, with room for so many frame elements and other elements: the unit under way is issued on, a chain
of several over as many cycles as its elements need, then the visits go on, unless PAUSE is set (R67); fuel bounds the steps
(R57, R58). -/
def State.visits (s : State) : Nat → Nat → Nat → State
  | 0, _, _ => s
  | fuel + 1, frames, others =>
    match s.qeng.issuing with
    | (e, _) :: _ =>
      if (if e.d.isFrame then frames else others) = 0 then s
      else
        let q := e.rq
        let s := s.issueOne
        let s := if s.qeng.issuing.isEmpty then (s.refill q).rqDrainEnd q else s
        s.visits fuel (if e.d.isFrame then frames - 1 else frames) (if e.d.isFrame then others else others - 1)
    | [] =>
      if s.flag QENG_CTL.PAUSE 0 then s
      else
      match s.visitQueue with
      | none =>
        if s.creditHeld then s.newRound.visits fuel frames others
        else if s.qeng.visitLeft = 0 then s
        else s.visitEnds
      | some q =>
        let frame := (s.headUnit q).head?.any (fun a => a.d.isFrame)
        if (if frame then frames else others) = 0 then s else (s.visit q).visits fuel frames others

/-- Queues whose head waits for a chain-buffer entry show CBUF_WAIT (R15, R67). -/
def State.markCbuf (s : State) : State :=
  s.readyRqs.foldl (fun s q =>
    let x := s.rq q
    let w := s.needsCbuf q
    let s := s.setRq q { x with cbufWait := w }
    if w && !x.cbufWait then (s.perfCount 62 1).raiseEvent (pg .qeng) 0 else s) s

/-- SCHED_ISSUE: one FCLK cycle of issue, at most four frame elements and one other (R58). Nothing is issued outside READY and
RUN or while the queue engine has stopped; under PAUSE only the unit whose issue is under way is issued on, and then PAUSED
holds (R67). -/
def State.schedIssue (s : State) : State :=
  if !s.dispatching || !s.isOn (pg .qeng) || s.qStopped then s
  else if s.flag QENG_CTL.PAUSE 0 then s.visits 64 4 1
  else s.markCbuf.visits 64 4 1

end Sys2Proof.Machine
end

