-- ==== Sys2Proof/Machine/Deliver.lean ====
section
/-! DEFINITION. What happens as a fabric transfer ends: each goes to the unit that started it, at once, or waits for the
command that takes it (R54, R71, R94, R110, R117, R122, R153, R155, R226, R258, R357, R371, R376–R378). -/

namespace Sys2Proof.Machine

/-! ## Elements of the engines -/

/-- The lists of jobs of every engine, with one job changed. -/
def State.updAnyJob (s : State) (i : Nat) (f : Job → Job) : State :=
  let dg (x : DgChan) : DgChan := { x with
    job := x.job.map (fun (j : Job) => if j.id == i then f j else j), next := updJob x.next i f }
  { s with
    ctx := { s.ctx with jobs := updJob s.ctx.jobs i f }
    key := { s.key with jobs := updJob s.key.jobs i f }
    rng := { s.rng with jobs := updJob s.rng.jobs i f }
    digest := { s.digest with
      chans := Tbl.mapVals {} dg s.digest.chans, slotWait := updJob s.digest.slotWait i f }
    bignum := { s.bignum with chans := Tbl.mapVals {} (fun (x : BnChan) => { x with queue := updJob x.queue i f }) s.bignum.chans } }

/-- The page of the engine that holds a job. -/
def State.jobPage (s : State) (i : Nat) : PageRef :=
  if (s.dgChanOf i).isSome || s.digest.slotWait.any (fun (j : Job) => j.id == i) then pg .digest
  else if (s.bnChanOf i).isSome then pg .bignum
  else if s.key.jobs.any (fun (j : Job) => j.id == i) then pg .key
  else if s.rng.jobs.any (fun (j : Job) => j.id == i) then pg .rng
  else pg .ctx

/-- The page of a producer of results other than frames (R149). -/
def producerPage (producer : Nat) : PageRef :=
  if 16 ≤ producer ∧ producer ≤ 19 then pg .digest else if producer = 20 then pg .bignum else if producer = 21 then pg .key
  else if producer = 23 then pg .rng else pg .ctx

/-- A buffer of an element has been read, or its read has failed. -/
def State.partRead (s : State) (i part : Nat) (x : Xfer) : State :=
  let s := s.xferRetry (s.jobPage i) x
  let s := s.updAnyJob i (fun j => { j with
    need := j.need - 1
    parts := if x.failed.isSome then j.parts else Tbl.ins (Tbl.del j.parts part) part x.bytes
    failed := j.failed || x.failed.isSome
    retried := j.retried || x.retried })
  match s.dgChanOf i with
  | some c =>
    match (s.dgChan c).job with
    | some j => if j.id == i then s.digestBytes c j else s
    | none => s
  | none =>
    match s.bnChanOf i with
    | some c =>
      match (s.bnChan c).queue.find? (fun (j : Job) => j.id == i) with
      | some j => s.bnBytes c j
      | none => s
    | none => s.kdfSync

/-- The reason of a result that could not be written, by producer. -/
def writeReason (producer : Nat) : Nat :=
  if 16 ≤ producer ∧ producer ≤ 19 then rsnDgFabric else if producer = 20 then 0x3F else 0

/-- The result of an element is written: its completion is pushed once no write of it is outstanding, with FABRIC_ERROR if one
failed twice (R153). DETAIL keeps the channel, and KEY_HELD (R148, R207); a secret goes to its chain with an OK (R206). -/
def State.resultWritten (s : State) (i : Nat) (x : Xfer) : State :=
  match s.finishes.find? (fun (f : Finish) => f.job == i) with
  | none => s
  | some f =>
    let s := s.xferRetry (producerPage f.producer) x
    let k := f.compl
    let k := if x.failed.isSome then { k with
        status := stFabricError, reason := writeReason f.producer, outLen := 0
        flags := if f.producer = 20 then k.flags else 0
        value := if 16 ≤ f.producer ∧ f.producer ≤ 20 then k.value else 0 }
      else { k with retried := k.retried || x.retried }
    if s.xferPending (fun y => y == .elemWrite i) then
      { s with finishes := s.finishes.map (fun (g : Finish) => if g.job == i then { g with compl := k } else g) }
    else
      let s := { s with finishes := s.finishes.filter (fun (g : Finish) => g.job != i) }
      let s := match f.audit with
        | some (h, l) => s.auditClear h l (k.status == stOk)
        | none => s
      let s := if f.secret.isEmpty then s else s.putSecret k.elem (if k.status = stOk then f.secret else [])
      s.push f.producer k

/-! ## The context store -/

/-- The state with the miss-buffer entry of a handle changed, if there is one. -/
def State.updMiss (s : State) (h : Nat) (f : Miss → Miss) : State :=
  match s.miss? h with
  | none => s
  | some m => s.setMiss (f m)

/-- What waits for a page-in carries the mark of a re-read (R148). -/
def Miss.noteRetry (m : Miss) (x : Xfer) : Miss :=
  if x.retried then { m with waiting := m.waiting.map (fun (e : Elem) => { e with refetched := true }) } else m

/-- A record has been read for a page-in. -/
def State.recordRead (s : State) (h : Nat) (x : Xfer) : State :=
  (if x.retried && x.failed.isNone then s.transient (pg .ctx) else s).updMiss h (fun m => { m.noteRetry x with
    reads := m.reads - 1
    record := if x.failed.isSome then m.record else some x.bytes
    readFail := m.readFail <|> x.failed.map (fun f => (0, f)) })

/-- A node has been read for a page-in. -/
def State.nodeRead (s : State) (h lvl : Nat) (x : Xfer) : State :=
  let s := s.perfCount 52 (b2n x.failed.isNone)
  (if x.retried && x.failed.isNone then s.transient (pg .ctx) else s).updMiss h (fun m => { m.noteRetry x with
    reads := m.reads - 1
    nodes := if x.failed.isSome then m.nodes else Tbl.ins (Tbl.del m.nodes lvl) lvl x.bytes
    readFail := m.readFail <|> x.failed.map (fun f => (lvl, f)) })

/-- The learn mirror is due: every record is in memory, and no mirror write is in flight. -/
def State.learnStep (s : State) : State :=
  if s.ctx.learnWriting = 0 && s.ctx.learnMirror.isNone then s.learnMirrorWrite else s

/-- A learn record is written. -/
def State.learnWritten (s : State) : State :=
  ({ s with ctx := { s.ctx with learnWriting := s.ctx.learnWriting - 1 } }).learnStep

/-- The learn mirror is written: event LEARN (R122). -/
def State.learnMirrored (s : State) (x : Xfer) : State :=
  let pos := s.ctx.learnMirror.getD 0
  let s := { s with ctx := { s.ctx with learnMirror := none } }
  let s := if x.failed.isSome then s else s.raiseEvent (pg .ctx) 0
  if pos < s.ctx.learnPos then s.learnStep else s

/-! ## Trace rings (R357) -/

/-- The mirror of a trace ring is written up to the first record that is not in memory. -/
def State.traceMirrorWrite (s : State) (r : Nat) : State :=
  let x := s.ring r
  let pos := x.writing.foldl min x.pos
  if x.mirror || pos ≤ x.pub then s
  else
    let size := 2 ^ s.ringLog r
    let s := s.setRing r { x with mirror := true, pub := pos }
    (s.startWrite (.traceMirror r x.run) (ringAttr r false true) (s.ringMirror r)
      (leBytes (pos / size % 2 ^ 32 * 2 ^ 32 + pos % size) 8) none).2

/-- The write of the trace record at an absolute position has ended. A written record counts; a failed one is dropped and
counts as such, clears the ring's EN and sets its ERR, and its position stays unpublished until the ring starts again. A write
of an earlier run of the ring completes and moves no position of this one (R350, R351, R357, R358). -/
def State.traceWritten (s : State) (r pos run : Nat) (x : Xfer) : State :=
  let y := s.ring r
  let s := if x.failed.isSome || run != y.run then s
    else s.setRing r { y with writing := y.writing.filter (· != pos) }
  let s := s.perfCount (if x.failed.isSome then 127 else 126) 1
  let s := if r < 64 then s.fnCount r (if x.failed.isSome then 45 else 44) 1 else s
  if x.failed.isSome then
    if r = 64 then (s.putFlag PERF_TRC_CFG.EN 0 false).putFlag PERF_TRC_CFG.ERR 0 true
    else (s.putFlag FN_TRC_CFG.EN r false).putFlag FN_TRC_CFG.ERR r true
  else s.traceMirrorWrite r

/-- The mirror of a trace ring is written. -/
def State.traceMirrored (s : State) (r run : Nat) : State :=
  if run = (s.ring r).run then (s.setRing r { s.ring r with mirror := false }).traceMirrorWrite r else s

/-! ## Ended transfers -/

/-- A write-back of a DMA descriptor has ended; the channel is FENCED if it failed twice (R264). -/
def State.dmaWbEnds (s : State) (c : Nat) (r : Bool × State) : State :=
  if r.1 then (r.2.dmaWbFail c).fence (dchPg c) 0x09 else r.2

/-- An ended transfer goes to its unit, or waits for the command that takes it. -/
def State.deliver (s : State) (x : Xfer) : State :=
  match x.kind with
  | .frameSrc i => (s.frameSrcDone i x).lanesFollow
  | .elemRead j part => s.partRead j part x
  | .elemWrite j => s.resultWritten j x
  | .ctxRecord h => s.recordRead h x
  | .treeNode h lvl _ => s.nodeRead h lvl x
  | .learnRecord => (s.xferRetry (pg .ctx) x).learnWritten
  | .learnMirror => (s.xferRetry (pg .ctx) x).learnMirrored x
  | .trace r pos run => (s.xferRetry (pg .perf) x).traceWritten r pos run x
  | .traceMirror r run => (s.xferRetry (pg .perf) x).traceMirrored r run
  | .dmaRead c off => s.dmaReadEnds c off x
  | .dmaWrite c off n => s.dmaWriteEnds c off n x
  | .dmaBarrier c => s.dmaBarrierEnds c x
  | .dmaDesc c => s.dmaDescEnds c x
  | .dmaW3 c => s.dmaWbEnds c (s.dmaW3Ends c x)
  | .dmaW0 c => s.dmaWbEnds c (s.dmaW0Ends c x)
  | .rawCapture => (s.xferRetry (pg .rng) x).rawWritten x.failed.isSome
  | .desc _ _ | .frameDst _ | .cqEntry _ _ | .cqMirror _ _ | .ctxWriteback _ | .nodeWriteback _ _ | .slotSave | .slotRestore =>
    s.post x

/-- The end of a transfer, if an access was its last. -/
def State.ended (r : Option Xfer × State) : State :=
  match r.1 with
  | some x => r.2.deliver x
  | none => r.2

/-- FABRIC_READ_RESPONSE. The bytes of a frame go into staging as they come (R16, R94). -/
def State.fabRead (s : State) (p i : Nat) (resp : BitVec 2) (n : Nat) (data : Bytes) : State :=
  let q := Tbl.get none (s.port p).reads i
  let r := s.readResponse p i resp n data
  match q with
  | some q =>
    match s.xfer q.xfer with
    | some x =>
      match x.kind with
      | .frameSrc f =>
        if s.fabricOn && resp = 0 && decide (q.bytes ≤ n) && !x.dropped then
          State.ended (r.1, r.2.frameBytes f q.off (slice data 0 q.bytes))
        else State.ended r
      | _ => State.ended r
    | none => State.ended r
  | none => State.ended r

/-- FABRIC_WRITE_RESPONSE. -/
def State.fabWrite (s : State) (p i : Nat) (resp : BitVec 2) : State := State.ended (s.writeResponse p i resp)

/-- FABRIC_TIMEOUT. -/
def State.fabTimeout (s : State) (p : Nat) (write : Bool) (i : Nat) : State := State.ended (s.accessTimeout p write i)

/-! ## Descriptors and completion rings -/

/-- DESC_FETCH_DONE: a group of descriptors that has been read is taken. -/
def State.descDone (s : State) (q : Nat) : State :=
  match s.fab.mail.find? (fun x => (match x.kind with | .desc r _ => r == q | _ => false) && x.failed.isNone) with
  | none => s
  | some x =>
    let s := { s with fab := { s.fab with mail := s.fab.mail.filter (fun y => y.id != x.id) } }
    match x.kind with
    | .desc _ i => s.descReturned q i x.bytes x.retried
    | _ => s

/-- DESC_FETCH_FAIL: a fetch has failed after its retry (R64). -/
def State.descFail (s : State) (q : Nat) : State :=
  match s.fab.mail.find? (fun x => (match x.kind with | .desc r _ => r == q | _ => false) && x.failed.isSome) with
  | none => s
  | some x => ({ s with fab := { s.fab with mail := s.fab.mail.filter (fun y => y.id != x.id) } }).descFailed q

/-- The write of an entry or a mirror of a CQ that has ended as asked. -/
def State.cqMail (s : State) (c : Nat) (p : Xfer → Bool) : Option (Xfer × State) :=
  (s.fab.mail.find? (fun x => (match x.kind with
    | .cqEntry d _ => d == c
    | .cqMirror d _ => d == c
    | _ => false) && p x)).map (fun x =>
      (x, { s with fab := { s.fab with mail := s.fab.mail.filter (fun y => y.id != x.id) } }))

/-- ENTRY_WRITE_DONE: an entry is in memory and its grant returns (R151, R153). -/
def State.entryDone (s : State) (c : Nat) : State :=
  match s.cqMail c (fun x => x.failed.isNone && (match x.kind with | .cqEntry _ _ => true | _ => false)) with
  | none => s
  | some (x, s) =>
    match x.kind with
    | .cqEntry _ pos =>
      let s := if x.retried then s.transient (pg .crown) else s
      (s.updCq c (fun y => { y with writing := y.writing.filter (· != pos) })).ungrant c
    | _ => s

/-- ENTRY_WRITE_FAIL: an entry or mirror write failed after its retry: the CQ and its function are fenced (R155). -/
def State.entryFail (s : State) (c : Nat) : State :=
  match s.cqMail c (fun x => x.failed.isSome) with
  | none => s
  | some (x, s) =>
    let cause := match x.kind with | .cqEntry _ _ => 1 | _ => 2
    let s := ((s.lasting (pg .crown)).raiseFault (pg .crown) 9).fenceCq c cause
    s.functionFence (s.fld CQ_CFG.FUNC c) 0x10

/-- An uncorrectable ECC error in an entry that a CQ holds: it is fenced, and its function, as after a failed write (R155, R166). -/
def State.entryEcc (s : State) (c : Nat) : State :=
  if (s.cq c).held.isEmpty then s
  else ((s.raiseFault (pg .crown) 8).fenceCq c 4).functionFence (s.fld CQ_CFG.FUNC c) 0x10

/-- MIRROR_WRITE_DONE: the entries below the mirror are published, and the CQ's vector counts them (R153, R160). -/
def State.mirrorDone (s : State) (c : Nat) : State :=
  match s.cqMail c (fun x => x.failed.isNone && (match x.kind with | .cqMirror _ _ => true | _ => false)) with
  | none => s
  | some (x, s) =>
    match x.kind with
    | .cqMirror _ pos =>
      let s := if x.retried then s.transient (pg .crown) else s
      let y := s.cq c
      let size := 2 ^ s.cqLog c
      let s := s.setCq c { y with mirror := none, pub := pos }
      let s := (s.put CQ_HEAD.LAP c ((pos / size + 2 ^ 32 - 1) % 2 ^ 32)).put CQ_HEAD.INDEX c (pos % size)
      (s.countVec c (pos - y.pub)).cqDrainEnd c
    | _ => s

end Sys2Proof.Machine
end

