-- ==== Sys2Proof/Machine/RegRead.lean ====
section
/-! DEFINITION. What the registers of the window read as: the fields that show the present state of a block, and every other
field as stored (R10, R27, R37, R42, R67–R69, R99, R100, R129, R146, R166–R169, R186, R187, R211, R230, R253, R269, R270,
R291, R316, R317, R338, R359, R360, R379). -/

namespace Sys2Proof.Machine

/-- A word put together from values and the places of their lowest bits. -/
def pack (l : List (Nat × Nat)) : Nat := l.foldl (fun a x => a + x.1 * 2 ^ x.2) 0

/-- A flag at its place. -/
def flagAt (b : Bool) (lo : Nat) : Nat × Nat := (b2n b, lo)

/-! ## Codes -/

/-- The code of a request queue's state (R65). -/
def RqState.code : RqState → Nat
  | .disabled => 0 | .active => 1 | .dozing => 2 | .held => 3 | .draining => 4 | .fenced => 5

/-- The code of a CQ's state (R158). -/
def CqState.code : CqState → Nat
  | .disabled => 0 | .on => 1 | .draining => 2 | .fenced => 3

/-- The code of STORE (R127). -/
def StoreSt.code : StoreSt → Nat
  | .uninit => 0 | .initialising => 1 | .ready => 2 | .flushing => 3

/-- The code of a big-number channel's state (R211). -/
def BnSt.code : BnSt → Nat
  | .idle => 0 | .running => 1 | .waiting => 2 | .blocked => 3 | .fenced => 4

/-- The code of PHASE of the random number source (R230). -/
def RngPhase.code : RngPhase → Nat
  | .off => 0 | .warmUp => 1 | .startTest => 2 | .instantiate => 3 | .running => 4 | .waitCells => 5

/-- The code of PORT_STATE (R253). -/
def PortSt.code : PortSt → Nat
  | .waiting => 0 | .request => 1 | .receiving => 2 | .loaded => 3 | .retryWait => 4 | .failed => 5

/-- PORT_STATE: DISABLED in TEST and ALARMED (R232). -/
def State.portCode (s : State) : Nat := if s.tile.st == .test || s.tile.st == .alarmed then 6 else s.key.port.code

/-- The code of CLK_STS.REF (R316). -/
def Ref.code : Ref → Nat
  | .none => 0 | .hbref => 1 | .sbosc => 2 | .switching => 3

/-- The code of PHASE of the power sequencer (R317). -/
def Phase.code : Phase → Nat
  | .awake => 0 | .draining => 1 | .saving => 2 | .committed => 3 | .asleep => 4 | .waking => 5

/-- The code of a qualifier's state (R338). -/
def QualSt.code : QualSt → Nat
  | .idle => 0 | .qualifying => 1 | .latched => 2 | .armable => 3

/-! ## The TILE page -/

/-- TILE_FAULT_SUMMARY.TYPE with its reserved bit 0: the page types that have an enabled fault (R42). -/
def State.faultSummary (s : State) : Nat :=
  mapOf 24 (fun t => allPages.any (fun n =>
    match pageOf n with
    | some p => PageKind.code p.kind == t && (s.hdrAt n).fault &&& (s.hdrAt n).faultEn != 0
    | none => false))

/-- The reads outstanding on a fabric port. -/
def State.readsOut (s : State) (p : Nat) : Nat := (s.port p).reads.length + (s.port p).deadReads.length

/-! ## The queue engine and the crown -/

/-- The queues in some states. -/
def State.rqsIn (s : State) (p : RqState → Bool) : Nat := countBelow 256 (fun q => p (s.rq q).st)

/-- RQ_STS.CHAIN_WAIT: the chain at the head of a queue is not wholly accepted (R59). -/
def State.chainWait (s : State) (q : Nat) : Bool :=
  let l := (s.rq q).acc
  !l.isEmpty && (unitLen 0 l).isNone

/-- RQ_STS as it reads (R68). -/
def State.rqSts (s : State) (q : Nat) : Nat :=
  let x := s.rq q
  pack [(x.inflight, 16), flagAt (s.chainWait q) 7, flagAt x.cbufWait 6, flagAt x.missHold 5, (x.st.code, 0)]

/-- The queue, or the CQ, that a FUNCTION page shows belongs to its function (R69, R169). -/
def State.ownsRq (s : State) (f q : Nat) : Bool := s.fld RQ_CFG.FUNC q == f

/-- As above, for a CQ. -/
def State.ownsCq (s : State) (f c : Nat) : Bool := s.fld CQ_CFG.FUNC c == f

/-- FN_RQ_VIEW (R69). -/
def State.rqView (s : State) (f : Nat) : Nat :=
  let q := s.fld FN_RQ_SEL.RQ f
  let x := s.rq q
  if s.ownsRq f q then
    pack [(1, 31), (s.fld RQ_CFG.CQ q, 8), flagAt (s.chainWait q || x.cbufWait) 4, flagAt x.missHold 3, (x.st.code, 0)]
  else 0

/-- CQ_STS (R167). -/
def State.cqSts (s : State) (c : Nat) : Nat :=
  let x := s.cq c
  pack [(x.held.length, 16), flagAt x.full 4, (x.st.code, 0)]

/-! ## Engines -/

/-- The ways of the context cache that satisfy p. -/
def State.countWays (s : State) (p : Way → Bool) : Nat := (s.ctx.ways.filter (fun x => p x.2)).length

/-- LANE_STS (R99). -/
def State.laneSts (s : State) (n : Nat) : Nat :=
  let x := s.lane n
  pack [(x.frames.length, 16), flagAt x.keyZero 3, flagAt (x.check != .idle && x.frames.isEmpty) 2,
    flagAt (s.laneFit n) 1, flagAt x.frames.isEmpty 0]

/-- DCORE_STS (R187). -/
def State.dcoreSts (s : State) (n : Nat) : Nat :=
  let x := s.dcore n
  let c := x.chan.getD 0
  pack [flagAt x.chan.isSome 31, flagAt (x.check == .waiting && x.chan.isNone) 30, (c, 16),
    (if x.chan.isSome then (s.dgChan c).alg % 256 else 0, 0)]

/-- The read-only fields of BN_CHAN_CFG (R211). DESIGN CHOICE (log 123): after tile SLEEP, which retains held keys, KEY_HELD tells of
them, though R209's last sentence has it read 0. -/
def State.bnChanSts (s : State) (c : Nat) : Nat :=
  if s.blk (pg .bignum) == .off then 0
  else
    let x := s.bnChan c
    pack [(x.queue.length % 16, 16), flagAt x.key.isSome 15, (x.st.code, 12),
      (match x.key with
        | some k => k.param % 256
        | none => 0, 0)]

/-- A serial operation of R231 runs. -/
def State.keyBusy (s : State) : Bool :=
  !s.key.derive.isEmpty || s.key.attest.isSome || s.keyHead.any (fun j => j.ready)

/-- HB_STS.TIME_SRC (R291). Holdover of the tile's own reads as inherited once chain time runs on HBREF again and HOLD has come in
(R300). -/
def State.timeSrc (s : State) : Nat :=
  if s.hb.holdover && !(s.hb.inherited && s.clk.hbOk) then 2 else if s.hb.inherited then 3 else if s.hb.timed then 1 else 0

/-! ## Registers -/

/-- The live fields of the registers of the tile, the queue engine and the crown. -/
def State.live1 (s : State) (r : Reg) (n : Nat) : Nat :=
  match r with
  | .TILE_STATE => s.tileWord
  | .TILE_WINDOW => s.windowWord
  | .TILE_FAULT_SUMMARY => s.faultSummary
  | .FAB_OUTSTANDING => pack [(s.readsOut 0, 0), (s.readsOut 1, 16), (s.readsOut 2, 32), (s.readsOut 3, 48)]
  | .QENG_STS => pack [flagAt s.paused 31, (s.rqsIn (fun x => x == .active || x == .held), 16),
      (s.rqsIn (fun x => x == .dozing), 0)]
  | .QENG_RES => pack [(countBelow 64 (fun i => !(Tbl.get {} s.qeng.cbuf i).taken), 16), (s.missBusy, 0)]
  | .QENG_RR => pack [(s.qeng.roundStart.getD 0, 8), (s.qeng.next, 0)]
  | .QENG_FENCED => mapOf 64 (fun j => (s.rq (64 * n + j)).st == .fenced)
  | .RQ_STS => s.rqSts n
  | .FN_RQ_VIEW => s.rqView n
  | .FN_RQ_HEAD => if s.ownsRq n (s.fld FN_RQ_SEL.RQ n) then (s.reg .RQ_HEAD (s.fld FN_RQ_SEL.RQ n)).toNat else 0
  | .FN_RQ_OWNED => mapOf 64 (fun j => s.ownsRq (n / 4) (64 * (n % 4) + j))
  | .CROWN_STS => pack [flagAt s.drained 31, flagAt (s.crown.cqs.any (fun c => !c.2.held.isEmpty)) 30,
      (mapOf 26 (fun p => decide (8 ≤ (s.fifo p).length)), 0)]
  | .CROWN_POOL => pack [((s.crown.waiting.filter (fun k => !s.orderTurn k.elem)).length, 16), (10240 - s.granted, 0)]
  | .CROWN_PTR => s.crownPtr
  | .CQ_STS => s.cqSts n
  | .FN_CQ_VIEW =>
      let c := s.fld FN_CQ_SEL.CQ n
      if s.ownsCq n c then 2 ^ 31 + s.cqSts c else 0
  | .FN_CQ_OWNED => mapOf 64 (fun j => s.ownsCq n j)
  | .IRQ_STS => pack [flagAt (!s.irq.flush.isEmpty) 31, flagAt s.irq.wakeOut 30, flagAt (s.clk.safe && !s.irq.msgs.isEmpty) 29,
      ((s.irq.vecs.filter (fun v => s.isDue v.1)).length, 0)]
  | .IRQ_PEND => mapOf 64 (fun j => decide (0 < (s.vec (64 * n + j)).count))
  | .IRQ_SEL_STS =>
      let x := s.vec (s.fld IRQ_SEL.VECTOR 0)
      pack [(x.count, 16), flagAt (x.timer == .running && s.fld IRQ_VEC_CFG.TIMER (s.fld IRQ_SEL.VECTOR 0) != 0) 15, flagAt x.captured.isSome 14]
  | .IRQ_VEC_CFG => if n < 64 then pack [(1, 29), (s.fld CQ_CFG.FUNC n, 23)] else 0
  | .FN_PERF_GEN => s.fld PERF_STS.GEN 0
  | .PERF_STS => pack [flagAt s.perf.seeded 31, (s.perf.inflight, 16)]
  | _ => 0

/-- The live fields of the registers of the lanes, the stores and the engines. -/
def State.live2 (s : State) (r : Reg) (n : Nat) : Nat :=
  match r with
  | .LANE_STS => s.laneSts n
  | .QUAD_STS => pack [flagAt (s.clk.lock.getLsbD (2 + n)) 31,
      (mapOf 4 (fun i => s.blk (lanePg (4 * n + i)) == .fenced), 24), ((s.quad n).staged, 0)]
  | .CTX_STS => pack [(s.ctx.store.code, 30), (s.missBusy, 16), flagAt (s.ctx.misses.any (fun m => m.wayWait)) 0]
  | .CTX_OCC => pack [(s.countWays (fun w => w.isDirty), 16),
      (s.countWays (fun w => w.st == .live || w.st == .writing || w.st == .fenced), 0)]
  | .CTX_TREE_INFO => pack [(s.levels, 28), (s.levelNodes s.levels, 24), (s.treePages, 0)]
  | .CTX_CMD_STS => pack [flagAt s.ctx.cmd.isSome 31]
  | .DG_STS => pack [(mapOf 4 (fun i => (s.dcore i).chan.isSome), 28),
      (countBelow s.dgOrdinary (fun c => (s.dgChan c).st == .free), 16),
      (countBelow 256 (fun c => (s.dgChan c).st == .held), 0)]
  | .DG_SLOTS => (s.digest.slots.filter (fun x => x.2.st == .loaded && (s.slotNow x.1).st == .loaded)).length
  | .DG_SAVE_STS => pack [flagAt s.digest.image.isSome 31, (s.digest.saved % 65536, 0)]
  | .DCORE_STS => s.dcoreSts n
  | .BN_STS => pack [flagAt s.bignum.ia.chan.isSome 31, flagAt s.bignum.ntt.chan.isSome 30, flagAt s.bignum.ia.fenced 29,
      flagAt s.bignum.ntt.fenced 28, (countBelow 64 (fun c => (s.bnChan c).st == .waiting), 16),
      (countBelow 64 (fun c => (s.bnChan c).key.isSome), 0)]
  | .BN_CHAN_CFG => s.bnChanSts n
  | .RNG_STS => pack [flagAt s.rng.ready 31, flagAt s.rng.stretched 30, flagAt s.rng.ordStall 29, flagAt s.rng.allStall 28,
      flagAt (s.blk (pg .rng) == .fenced) 27, (s.rng.phase.code, 24), (s.rng.pool.length, 16),
      (mapOf 16 (fun i => (s.cell i).admitted), 0)]
  | .RNG_RESEED_CFG => pack [flagAt s.rng.force 31]
  | .RNG_RESEED_CNT => s.rng.count
  | .RNG_XRAW_STS => pack [flagAt s.rng.raw.isSome 31]
  | .KEY_STS => pack [flagAt s.key.root.isSome 31, flagAt (s.key.wrap.isSome && s.key.tree.isSome) 30, (s.portCode, 26),
      flagAt (s.key.pouncing && !s.key.fresh) 2, flagAt s.key.attest.isSome 1, flagAt s.keyBusy 0]
  | .KEY_POUNCE_STS => pack [flagAt (s.key.pouncing && !s.key.fresh) 31, flagAt s.key.overdue 30]
  | .DMA_STS => pack [(mapOf 16 (fun c => (s.dch c).st == .copying || (s.dch c).st == .running || (s.dch c).st == .ending), 16),
      (mapOf 16 (fun c => (s.dch c).st == .halted), 0)]
  | .DCH_STS => pack [((s.dch n).st.code, 29), ((s.dch n).buf.foldl (fun a b => a + b.2.length) 0, 16)]
  | .DCH_CUR_MOVED =>
      (match (s.dch n).movedFree with
        | some i => (Config.freeValue 32 i).toNat
        | none => (s.dch n).moved)
  | _ => 0

/-- The live fields of the registers of the Hatband, the clocks, the power sequencer and the tamper logic. -/
def State.live3 (s : State) (r : Reg) (n : Nat) : Nat :=
  match r with
  | .EPOCH_PEND => s.epoch.pend
  | .EPOCH_STS => pack [flagAt s.epoch.pending 31, flagAt s.epoch.scheduled 30,
      flagAt s.epochClosed 29, (s.epoch.src, 27)]
  | .HB_STS => pack [flagAt s.hb.upSync 31, flagAt s.hb.downTerm 30, flagAt s.tile.addr.isSome 29, flagAt s.hb.bypass 28,
      (s.timeSrc, 26), flagAt s.hb.stale 25, (s.hb.elastic, 16), (s.addrNum.getD 0, 0)]
  | .HB_TIME => s.now
  | .HB_MSG_TX_CTL => pack [flagAt s.msgBusy 30]
  | .HB_MSG_RX_DATA => cellNum (s.hb.rx.headD 0) 3 8
  | .HB_MSG_RX_HI => pack [(cellByte (s.hb.rx.headD 0) 2, 24), (cellNum (s.hb.rx.headD 0) 11 3, 0)]
  | .HB_MSG_RX_STS => pack [flagAt (!s.hb.rx.isEmpty) 31, (s.hb.rx.length, 24)]
  | .CLK_STS => pack [flagAt s.safeShown 31, flagAt s.clk.lasting 30, (s.clk.ref.code, 28), flagAt s.clk.hbOk 27,
      flagAt s.clk.sbOk 26, flagAt s.clk.sbOn 25, flagAt s.clk.counting 24, (s.clk.monBad.toNat, 16), (s.clk.lock.toNat, 0)]
  | .CLK_RUN => clkWord s.clkRuns
  | .PWR_STS => pack [(s.pwr.phase.code, 28), flagAt s.pwr.keepFail 27, (countBelow 112 s.domOn, 16), (countBelow 112 s.domRet, 0)]
  | .PWR_PARK_STS => pack [(mapOf 4 (fun q => (s.quad q).parked), 16), (mapOf 16 (fun i => (s.lane i).parked), 0)]
  | .PWR_DOM_ON => mapOf 64 (fun j => decide (64 * n + j < 112) && s.domOn (64 * n + j))
  | .PWR_DOM_RET => mapOf 64 (fun j => decide (64 * n + j < 112) && s.domRet (64 * n + j))
  | .TAMP_STS => pack [flagAt (s.tile.st == .alarmed) 31, flagAt s.tamp.wiping 30, flagAt s.tamp.draining 29,
      flagAt (s.flag TAMP_XIN_CFG.SEAL 0) 28, (s.tamp.cls, 26)]
  | .TAMP_QUAL =>
      let x := s.qual n
      pack [(x.st.code, 30), flagAt x.chatter 29, flagAt x.raw 28, (x.edges, 8), (x.short, 0)]
  | _ => 0

/-- The registers that show nothing but the present state of their page's block, which read their reset values while the
block is OFF (R37). -/
def Reg.liveStatus : Reg → Bool
  | .QENG_STS | .QENG_RES | .QENG_RR | .RQ_STS | .LANE_STS | .QUAD_STS | .CTX_STS | .CTX_OCC | .CROWN_STS | .CROWN_POOL
  | .CROWN_PTR | .CQ_STS | .DG_STS | .DG_SLOTS | .DCORE_STS | .BN_STS | .RNG_STS | .RNG_RESEED_CNT | .KEY_STS | .DMA_STS
  | .DCH_STS | .QENG_FENCED | .FN_RQ_VIEW | .FN_RQ_HEAD | .FN_CQ_VIEW => true
  | _ => false

/-- The registers whose every field is live, stored bits of theirs being none. -/
def Reg.allLive : Reg → Bool
  | .TILE_STATE | .TILE_WINDOW | .TILE_FAULT_SUMMARY | .FAB_OUTSTANDING | .FN_RQ_VIEW | .FN_RQ_HEAD | .FN_RQ_OWNED
  | .FN_CQ_VIEW | .FN_CQ_OWNED | .QENG_FENCED | .CTX_TREE_INFO | .DCH_CUR_MOVED | .EPOCH_PEND | .HB_STS | .HB_TIME
  | .HB_MSG_RX_DATA | .HB_MSG_RX_HI | .CLK_STS | .CLK_RUN | .PWR_STS | .PWR_PARK_STS | .PWR_DOM_ON | .PWR_DOM_RET
  | .TAMP_QUAL | .IRQ_STS | .IRQ_PEND | .IRQ_SEL_STS | .FN_PERF_GEN | .RNG_SW_DATA => true
  | r => r.liveStatus && r != .DCH_STS

/-- The page that instance n of a register lies on. -/
def regPage (r : Reg) (n : Nat) : PageRef := ⟨r.desc.page, n / r.desc.count⟩

/-- What instance n of a register reads as. In COMPAT_MODE CLK_EN reads what the masks make of it (R304). -/
def State.readReg (s : State) (r : Reg) (n : Nat) : W64 :=
  if r.liveStatus && s.blk (regPage r n) == .off then r.reset
  else if r == .CLK_EN && s.flag CLK_COMPAT.COMPAT_MODE 0 then BitVec.ofNat 64 (clkWord s.clkEnBit)
  else
    let v := BitVec.ofNat 64 (s.live1 r n + s.live2 r n + s.live3 r n)
    if r.allLive then v else s.reg r n ||| v

end Sys2Proof.Machine
end

