-- ==== Sys2Proof/Machine/Tile.lean ====
section
/-! DEFINITION. The TILE page's commands: bring-up, test, tile fences, the watchdog, the self-test and register parity (R41,
R43, R44, R334, R344, R345), with the counting of requests for tracing and the test wrapper (R354, R357, R384). -/

namespace Sys2Proof.Machine

/-! ## TILE_CMD (R43) -/

/-- BRING_UP_DONE. It is refused while a self-test runs (R345). -/
def State.bringUpDone (s : State) : State :=
  if s.tile.st == .bringUp && s.rng.ready && s.key.root.isSome && !s.flag TILE_SELFTEST_STS.BUSY 0 then
    s.enterTile .ready
  else s.seq (pg .tile)

/-- ENTER_TEST: the root latch and what key custody derived from it are zeroized, and V227 is raised (R247). -/
def State.enterTest (s : State) : State :=
  if s.tile.st == .bringUp || s.tile.st == .ready then
    ((s.attestAbort.clearRoot.clearDerived.clearSecrets).enterTile .test).raiseEvent (pg .tamper) 4
  else s.seq (pg .tile)

/-- Every block but those of PD0 and PD1 goes to OFF with wipe; what was in flight completes with FENCED. -/
def State.blocksOff (s : State) : State := (s.haltAll stFenced).selftestDrop.allOff

/-- LEAVE_TEST. -/
def State.leaveTest (s : State) : State :=
  if s.tile.st == .test then
    (s.blocksOff.putFlag TILE_RESET_CAUSE.TEST_EXIT 0 true).enterTile .bringUp
  else s.seq (pg .tile)

/-- FENCE_TILE, with cause 0x0D (R331). -/
def State.fenceTile (s : State) : State := if s.fenceable then s.tileFence 0x0D false else s.seq (pg .tile)

/-- UNFENCE_TILE. In BRING_UP PD1 and PD110 are on (R306), also where the fence came before they were (log 121). -/
def State.unfenceTile (s : State) : State :=
  if s.tile.st == .fenced then
    (s.blocksOff.putFlag TILE_RESET_CAUSE.UNFENCE 0 true).coreUp.enterTile .bringUp
  else s.seq (pg .tile)

/-- TILE_CMD with its key. -/
def State.tileCommand (s : State) (cmd : Nat) : State :=
  match cmd with
  | 1 => s.bringUpDone
  | 2 => s.enterTest
  | 3 => s.leaveTest
  | 4 => s.fenceTile
  | 5 => s.unfenceTile
  | _ => s.seq (pg .tile)

/-- No request is in flight in the tile. -/
def State.nothingInFlight (s : State) : Bool :=
  s.qeng.issued.isEmpty && s.qeng.chains.isEmpty && s.qeng.rqs.all (fun q => q.2.inflight == 0)

/-- A tile in RUN that has had no request in flight for 1,024 LCLK cycles returns to READY (R43). -/
def State.runIdle (s : State) : State :=
  if s.tile.st == .run && s.nothingInFlight then s.enterTile .ready else s

/-! ## The watchdog (R44) -/

/-- A write to TILE_WDOG_KICK. -/
def State.wdogKick (s : State) : State := { s with tile := { s.tile with wdogExpired := false } }

/-- A period passes without a kick: WDOG is set at each (R161). The second expiry fences the tile if ACTION asks for it. -/
def State.wdogExpiry (s : State) : State :=
  if !s.flag TILE_WDOG_CTL.EN 0 || s.asleep || s.tile.st == .alarmed then s
  else
  let expired := s.tile.wdogExpired
  let s := ({ s with tile := { s.tile with wdogExpired := true } }).raiseEvent (pg .tile) 1
  if expired && s.fld TILE_WDOG_CTL.ACTION 0 == 1 && s.fenceable && s.tile.fencing.isNone && !s.tamp.responding then
    ({ s with tile := { s.tile with wdogFenced := true } }).tileFence 0x0B false
  else s

/-! ## The self-test (R344, R345) -/

/-- The units of a group of SEL that are ON, by number within the group. -/
def State.selfUnits (s : State) (g : Nat) : List Nat :=
  match g with
  | 0 => (List.range 16).filter (fun n => s.isOn (lanePg n))
  | 1 => (List.range 4).filter (fun n => s.isOn (corePg n))
  | 2 => if s.isOn (pg .bignum) then (if s.bignum.ia.fenced then [] else [0]) ++ (if s.bignum.ntt.fenced then [] else [1]) else []
  | 3 => if s.isOn (pg .rng) then [0] else []
  | 4 => if s.isOn (pg .ctx) then [0] else []
  | 5 => if s.isOn (pg .key) then [0] else []
  | _ => []

/-- GO of TILE_SELFTEST. -/
def State.selftestGo (s : State) : State :=
  if (s.tile.st == .bringUp || s.tile.st == .test) && !s.flag TILE_SELFTEST_STS.BUSY 0 then
    let sel := s.fld TILE_SELFTEST.SEL 0
    let ran := mapOf 6 (fun g => bitAt sel g && !(s.selfUnits g).isEmpty)
    s.setReg .TILE_SELFTEST_STS 0 (BitVec.ofNat 64 (pack [(1, 31), (ran, 16)]))
  else s.seq (pg .tile)

/-- A unit has failed its check twice: it is fenced as its chapter sets out. -/
def State.selfFail (s : State) (g n : Nat) : State :=
  match g with
  | 0 => (((s.laneRecord n 5 0).raiseFault (lanePg n) 9).lasting (lanePg n)).fence (lanePg n) 0x01
  | 1 =>
    let s := if s.flag DCORE_ERR.VALID n then s else (s.putFlag DCORE_ERR.VALID n true).put DCORE_ERR.CAUSE n 3
    (((s.bump DCORE_ERR.COUNT n 1).raiseFault (corePg n) 9).lasting (corePg n)).fence (corePg n) 0x01
  | 2 =>
    let u := if n = 0 then BnUnit.ia else BnUnit.ntt
    (s.lasting (pg .bignum)).fenceBnUnit u 0x01
  | 3 => ((s.lasting (pg .rng)).raiseFault (pg .rng) 8).fence (pg .rng) 0x01
  | 4 => (s.lasting (pg .ctx)).fence (pg .ctx) 0x01
  | _ => (s.keyError false).2.tileFence 0x0C false

/-- The units that failed among those of a group: which ones is free, at least one. -/
def pickFailed (units : List Nat) (free : Nat) : List Nat :=
  let l := units.filter (fun n => bitAt free n)
  if l.isEmpty then units.take 1 else l

/-- A unit has failed its check once and passed the repeat (R329, R345). -/
def State.selfRetry (s : State) (g n : Nat) : State :=
  s.transient (match g with
    | 0 => lanePg n | 1 => corePg n | 2 => pg .bignum | 3 => pg .rng | 4 => pg .ctx | _ => pg .key)

/-- The self-test ends; failed are the groups of which a unit failed twice, retried those of which another failed once and passed its
repeat. -/
def State.selftestDone (s : State) (failed retried : Nat) : State :=
  if !s.flag TILE_SELFTEST_STS.BUSY 0 then s
  else
    let m := s.irq.msgs.length
    let ran := s.fld TILE_SELFTEST_STS.RAN 0
    let bad := mapOf 6 (fun g => bitAt failed g && bitAt ran g && !(s.selfUnits g).isEmpty)
    let s := s.setReg .TILE_SELFTEST_STS 0 (BitVec.ofNat 64 (pack [(1, 30), flagAt (bad != 0) 29, (ran, 16), (bad, 0)]))
    let s := s.raiseEvent (pg .tile) 0
    let s := if bad != 0 then s.raiseFault (pg .tile) 8 else s
    let s := (List.range 6).foldl (fun s g =>
      if bitAt bad g then
        let (k, s) := s.takeFree
        (pickFailed (s.selfUnits g) (Config.freeValue 16 k).toNat).foldl (fun s n => s.selfFail g n) s
      else s) s
    let s := (List.range 6).foldl (fun s g =>
      if bitAt retried g && bitAt ran g && !(s.selfUnits g).isEmpty then
        let (k, s) := s.takeFree
        (pickFailed (s.selfUnits g) (Config.freeValue 16 k).toNat).foldl (fun s n => s.selfRetry g n) s
      else s) s
    s.ascending m

/-! ## Consumer indices of the trace rings (R357) -/

/-- A ring position: the latest one that is not after pos and has an index. -/
def placeCons (pos size i : Nat) : Nat := pos - (pos + size - i % size) % size

/-- The consumer index of a trace ring is written. -/
def State.ringCons (s : State) (r i : Nat) : State :=
  let x := s.ring r
  (s.setRing r { x with cons := placeCons x.pos (2 ^ s.ringLog r) i }).ringLevel r

/-! ## Register parity (R41) -/

/-- The place of a register in the window: register, instance and whether the word is its high half. -/
def regAt (p : PageRef) (off : Nat) : Option (Reg × Nat × Bool) :=
  allRegs.findSome? (fun r =>
    let d := r.desc
    if d.page != p.kind || off < d.off then none
    else
      let i := if d.stride = 0 then 0 else (off - d.off) / d.stride
      let b := (off - d.off) - i * d.stride
      if d.count ≤ i || (if d.wide then 8 else 4) ≤ b then none else some (r, p.inst * d.count + i, decide (4 ≤ b)))

/-- A register has a field that can be written. -/
def Reg.writes (r : Reg) : Bool := r.desc.flds.any (fun f => f.acc != .ro && f.acc != .rc)

/-- The block that a parity error on a page fences: none stands for the tile. DESIGN CHOICE (log 89): the pages TILE, HATBAND,
CLOCK, POWER, IRQ and TAMPER stand for no block (R406), and an error in one of their body registers fences the tile. -/
def parityBlock (p : PageRef) (header : Bool) : Option PageRef :=
  if header || (PageKind.fixed p.kind) then none else some (statePage p)

/-- A header register is reloaded with its reset value. -/
def State.headerReload (s : State) (p : PageRef) (off : Nat) : State :=
  let r := Hdr.resetAt (pageNum p)
  match off with
  | 0x04 => s.updHdr p (fun h => { h with en := r.en })
  | 0x0C => s.updHdr p (fun h => { h with fault := 0 })
  | 0x10 => s.updHdr p (fun h => { h with faultEn := 0 })
  | 0x14 => s.updHdr p (fun h => { h with event := 0 })
  | 0x18 => s.updHdr p (fun h => { h with eventEn := 0 })
  | 0x1C => s.updHdr p (fun h => { h with lock := .closed })
  | 0x20 => s.updHdr p (fun h => { h with ownerValid := r.ownerValid, ownerFunc := r.ownerFunc })
  | 0x28 =>
    if (PageKind.fixed p.kind) then { s with tile := { s.tile with fence := ⟨0, 0, false⟩ } }
    else s.updHdr (statePage p) (fun h => { h with fence := ⟨0, 0, false⟩ })
  | _ => s

/-- A body register is reloaded with its reset value, with what its block keeps for it. -/
def State.reload (s : State) (r : Reg) (n : Nat) : State :=
  let s := s.clearReg r n
  match r with
  | .EPOCH_PEND => { s with epoch := { s.epoch with pend := 0, stored := 0 } }
  | .RNG_RESEED_CFG => { s with rng := { s.rng with force := false } }
  | .CTX_LEARN_CONS => { s with ctx := { s.ctx with learnCons := placeCons s.ctx.learnPos (2 ^ s.learnLog) 0 } }
  | .FN_TRC_CONS => s.ringCons n 0
  | .PERF_TRC_CONS => s.ringCons 64 0
  | _ => s

/-- The error of a register of a page: PARITY, V243, and the fence of what holds the register. -/
def State.parityFault (s : State) (p : PageRef) (header : Bool) : State :=
  let s :=
    match parityBlock p header with
    | none => s.tileFence 0x04 false
    | some b => s.fence b 0x04
  (s.lasting p).raiseFault p 2

/-- A register fails its parity check. -/
def State.parityError (s : State) (woff : Nat) : State :=
  let off := woff % 4096 / 4 * 4
  match pageOf (woff / 4096) with
  | none => s
  | some p =>
    if off < 0x40 then
      if [0x04, 0x0C, 0x10, 0x14, 0x18, 0x1C, 0x20, 0x28].contains off then ((s.headerReload p off).parityFault p true).ascending s.irq.msgs.length else s
    else
      match regAt p off with
      | none => s
      | some (r, n, _) => if r.writes then ((s.reload r n).parityFault p false).ascending s.irq.msgs.length else s

/-! ## Tracing (R354, R357) -/

/-- PERF_TAG_CFG has been written: a new seed is asked for, and random tagging stops until it arrives. -/
def State.tagCfgWritten (s : State) : State :=
  let s := { s with perf := { s.perf with seeded := false, seed := none } }
  if s.isOn (pg .perf) then
    { s with rng := { s.rng with ordWait := s.rng.ordWait.filter (fun u => u != RngUse.traceSeed) ++ [RngUse.traceSeed] } }
  else s

/-- The seed arrives; a seed of zero is drawn again. -/
def State.seedArrive (s : State) : State :=
  match s.perf.seed with
  | none => s
  | some v =>
    if !s.isOn (pg .perf) then s
    else if v == 0 then s.tagCfgWritten
    else { s with perf := { s.perf with seed := none, seeded := true, lfsr := v, k := s.fld PERF_TAG_CFG.K 0 } }

/-- A trace ring is enabled: it starts at index 0 of lap 0. Writes of its last run that are still under way are none of this
one's (R358). -/
def State.ringStart (s : State) (r : Nat) : State :=
  let s := s.setRing r { run := (s.ring r).run + 1 }
  if r < 64 then s.setReg .FN_TRC_CONS r 0 else s.setReg .PERF_TRC_CONS 0 0

/-! ## The test wrapper (R384) -/

/-- Every block of PD2 to PD111 is OFF. -/
def State.allBlocksOff (s : State) : Bool := allBlocks.all (fun p => s.blk p == .off)

/-- An instruction of the wrapper may be accepted. -/
def State.wrapAllowed (s : State) (code : Nat) : Bool :=
  match code with
  | 0 | 1 | 2 => true
  | 4 => s.tile.st == .test
  | 5 | 6 => s.tile.st == .test && s.allBlocksOff
  | _ => false

/-- An instruction is loaded; outside its condition it acts as WS_BYPASS and sets REFUSED. -/
def State.wrapLoad (s : State) (code : BitVec 4) : State :=
  if s.wrapAllowed code.toNat then
    let w := { s.wrap with code := code, refused := false, extest := false }
    { s with wrap := if code = 6 then { w with mbistDone := false, mbistFail := false } else w }
  else { s with wrap := { s.wrap with code := 0, refused := true, extest := false } }

/-- wrstn low. -/
def State.wrapReset (s : State) : State := { s with wrap := { s.wrap with code := 0, extest := false } }

/-- The memory test that WP_MBIST started ends. -/
def State.mbistDone (s : State) (fail : Bool) : State :=
  if s.wrap.code = 6 ∧ !s.wrap.mbistDone then { s with wrap := { s.wrap with mbistDone := true, mbistFail := fail } } else s

/-- The width of the data register that an instruction selects, none for the boundary cells and the scan chains. -/
def wrapWidth (code : BitVec 4) : Option Nat :=
  match code.toNat with
  | 1 => some 32
  | 2 => some 8
  | 4 | 5 => none
  | _ => some 1

/-- What a capture takes into the data register. -/
def State.wrapCapture (s : State) : BitVec 32 :=
  match s.wrap.code.toNat with
  | 1 => (s.reg .TILE_IDENT 0).setWidth 32
  | 2 => BitVec.ofNat 32 (pack [flagAt s.wrap.refused 0, flagAt (s.tile.st == .test) 1, flagAt s.wrap.mbistDone 2,
      flagAt s.wrap.mbistFail 3])
  | _ => 0

/-- A cycle of wrck. What leaves a boundary cell or a scan chain is free. -/
def State.wrapData (s : State) (op : WrapperOp) : State :=
  match op with
  | .capture => { s with wrap := { s.wrap with shift := s.wrapCapture } }
  | .shift wsi =>
    match wrapWidth s.wrap.code with
    | some n =>
      let v := s.wrap.shift.toNat
      { s with wrap := { s.wrap with
        wso := bitAt v 0, shift := BitVec.ofNat 32 (v % 2 ^ n / 2 + b2n wsi * 2 ^ (n - 1)) } }
    | none =>
      let (k, s) := s.takeFree
      { s with wrap := { s.wrap with wso := (Config.freeValue 1 k).getLsbD 0 } }
  | .update => if s.wrap.code = 4 then { s with wrap := { s.wrap with extest := true } } else s

end Sys2Proof.Machine
end

