-- ==== Sys2Proof/Machine/RegWrite.lean ====
section
/-! DEFINITION. What a write to a register of the window does: the fields that take the value (R10), and the effect that each
register's chapter gives the write (R43, R44, R46, R65–R69, R99, R127, R129, R139, R146, R158, R166–R169, R186, R187, R211,
R230, R253, R255, R265, R266, R269, R270, R291, R316, R317, R338, R344, R357–R360, R379). -/

namespace Sys2Proof.Machine

/-! ## Fields (R10) -/

/-- The bits of a field in its register. -/
def Fld.bits (f : Fld) : W64 := BitVec.ofNat 64 ((2 ^ (f.hi - f.lo + 1) - 1) * 2 ^ f.lo)

/-- The bits of a register's fields of some access codes. -/
def Reg.bitsOf (r : Reg) (p : Acc → Bool) : W64 :=
  r.desc.flds.foldl (fun a f => if p f.acc then a ||| f.bits else a) 0

/-- The page's expert lock is open. -/
def State.lockOpen (s : State) (p : PageRef) : Bool := (s.hdr p).lock == .opened

/-- The register as it would read with the written bits of its RW and RWX fields in place. -/
def State.merged (s : State) (r : Reg) (n : Nat) (v mask : W64) : W64 :=
  let m := r.bitsOf (fun a => a == .rw || a == .rwx) &&& mask
  (s.reg r n &&& ~~~m) ||| (v &&& m)

/-- A write takes its plain effect: RW and RWX fields hold what is written, and a 1 clears a W1C bit. In an expert region a
W1C bit is cleared only while the lock is open (R35). -/
def State.store (s : State) (r : Reg) (n : Nat) (v mask : W64) : State :=
  let c :=
    if r.desc.off < 0x800 || s.lockOpen (regPage r n) || r == .IRQ_VEC_CFG then
      r.bitsOf (fun a => a == .w1c) &&& v &&& mask
    else 0
  s.setReg r n (s.merged r n v mask &&& ~~~c)

/-- The registers whose VALID bit holds a record: a 1 written to it clears the record and its count; with the register that
completes the record. -/
def Reg.record : Reg → Option (Option Reg)
  | .ACCESS_ERR_INFO => some (some .ACCESS_ERR_ADDR)
  | .FAB_ERR_INFO => some (some .FAB_ERR_ADDR)
  | .CTX_ERR_INFO => some (some .CTX_ERR_HANDLE)
  | .QENG_TORN_LAST | .LANE_ERR | .CTX_PN_HANDLE | .EPOCH_MISS_HANDLE | .DG_ERR_INFO | .DCORE_ERR | .BN_ERR_INFO | .DCH_ERR
  | .PWR_WAKE_CAUSE | .PWR_FAULT_INFO => some none
  | _ => none

/-- A write to a record register. -/
def State.recordWrite (s : State) (r : Reg) (n : Nat) (other : Option Reg) (v mask : W64) : State :=
  if (v &&& mask).getLsbD 31 then
    let s := s.clearReg r n
    match other with
    | some o => s.clearReg o n
    | none => s
  else s

/-! ## Keyed commands -/

/-- A command register with KEY and CMD: 0xC0DE opens it, anything else sets SEQ of its page. -/
def State.keyed (s : State) (p : PageRef) (w : W64) (f : Nat → State) : State :=
  if fget w 31 16 = 0xC0DE then f (fget w 3 0) else s.seq p

/-! ## Queues -/

/-- RQ_CFG is written: the other fields take effect only while the queue is DISABLED, and before EN acts (R65, R66). -/
def State.rqCfgWrite (s : State) (q : Nat) (m : W64) : State :=
  let other : W64 := 0x1F3F3F0F
  let en := m.getLsbD 31
  let s :=
    if (s.rq q).st == .disabled then s.setReg .RQ_CFG q (m &&& other)
    else if (m ^^^ s.reg .RQ_CFG q) &&& other == 0 then s
    else s.seq (pg .qeng)
  if en then s.rqEnable q else s.rqDisable q

/-- CQ_CFG is written (R158). -/
def State.cqCfgWrite (s : State) (c : Nat) (m : W64) : State :=
  let other : W64 := 0x1F3F0000
  let en := m.getLsbD 31
  let s :=
    if (s.cq c).st == .disabled then s.setReg .CQ_CFG c (m &&& other)
    else if (m ^^^ s.reg .CQ_CFG c) &&& other == 0 then s
    else s.seq (pg .qeng)
  if en then s.cqEnable c else s.cqDisable c

/-- A register of a request queue that can be written only while the queue is DISABLED, and only if ok (R66). -/
def State.rqWrite (s : State) (r : Reg) (q : Nat) (v mask : W64) (ok : Bool) : State :=
  if (s.rq q).st == .disabled && ok then s.store r q v mask else s.seq (pg .qeng)

/-- A register of a CQ that can be written only while the CQ is DISABLED, and only if ok (R158). -/
def State.cqWrite (s : State) (r : Reg) (c : Nat) (v mask : W64) (ok : Bool) : State :=
  if (s.cq c).st == .disabled && ok then s.store r c v mask else s.seq (pg .qeng)

/-! ## Rings that restart when they are enabled -/

/-- The configuration of a ring with EN, SIZE_LOG2 and other fields: the size is written only while EN = 0. Answers whether
EN rose. -/
def State.ringCfg (s : State) (r : Reg) (n : Nat) (v mask : W64) : Bool × State :=
  let was := (s.reg r n).getLsbD 31
  let s := s.store r n v (if was then mask &&& ~~~(0x1F000000 : W64) else mask)
  (!was && (s.reg r n).getLsbD 31, s)

/-- The learn ring is enabled: it starts at index 0 of lap 0 (R129). -/
def State.learnStart (s : State) : State :=
  { s.setReg .CTX_LEARN_CONS 0 0 with ctx := { s.ctx with learnPos := 0, learnCons := 0, learnMirror := none } }

/-- The consumer index of the learn ring is written. -/
def State.learnConsume (s : State) (i : Nat) : State :=
  { s with ctx := { s.ctx with learnCons := placeCons s.ctx.learnPos (2 ^ s.learnLog) i } }

/-! ## Pages -/

/-- Writes to the TILE page and to the pages of queues, CQs, functions, the crown and the interrupt unit. v holds the value,
mask the bits that the access covers, m the value merged with what the register holds. -/
def State.write1 (s : State) (r : Reg) (n : Nat) (v mask m : W64) : Option State :=
  let w := v &&& mask
  match r with
  | .TILE_CMD => some (s.keyed (pg .tile) w s.tileCommand)
  | .TILE_WDOG_CTL =>
    let s := s.store r n v mask
    some (if s.flag TILE_WDOG_CTL.EN 0 then s else s.wdogKick)
  | .TILE_WDOG_KICK => some s.wdogKick
  | .TILE_SELFTEST =>
    let s := s.store r n v mask
    some (if w.getLsbD 31 then s.selftestGo else s)
  | .RQ_BASE => some (s.rqWrite r n v mask true)
  | .RQ_HEAD => some (s.rqWrite r n v mask (decide (fget m 15 0 < 2 ^ s.rqLog n)))
  | .RQ_CFG => some (s.rqCfgWrite n m)
  | .RQ_KICK => some (s.rqKick n)
  | .FN_RQ_KICK => some (if s.ownsRq n (fget w 7 0) then s.rqKick (fget w 7 0) else s)
  | .CQ_BASE | .CQ_MIRROR => some (s.cqWrite r n v mask true)
  | .CQ_HEAD => some (s.cqWrite r n v mask (mask == BitVec.allOnes 64 && decide (fget v 15 0 < 2 ^ s.cqLog n)))
  | .CQ_CFG => some (s.cqCfgWrite n m)
  | .CQ_CONS => some (s.cqConsume n (fget w 15 0))
  | .FN_CQ_CONS => some (if s.ownsCq n (fget w 21 16) then s.cqConsume (fget w 21 16) (fget w 15 0) else s)
  | .IRQ_CTL => some (s.hostSleep (w.getLsbD 0))
  | .IRQ_FLUSH => some (s.irqFlushWrite (w.getLsbD 31) (fget w 7 0))
  | .IRQ_VEC_CFG => some (s.vecCfgWrite n m)
  | .IRQ_XFORCE =>
    let s := (s.store r n v mask).putFlag IRQ_XFORCE.GO 0 false
    some (if w.getLsbD 31 then s.countVec (fget w 7 0) 1 else s)
  | .FN_TRC_BASE | .FN_TRC_MIRROR => some (if s.flag FN_TRC_CFG.EN n then s else s.store r n v mask)
  | .FN_TRC_CFG =>
    let (rose, s) := s.ringCfg r n v mask
    some (if rose then s.ringStart n else s)
  | .FN_TRC_CONS => some ((s.store r n v mask).ringCons n (fget w 15 0))
  | _ => none

/-- Writes to the pages of the lanes, the stores, the engines and the random number source. -/
def State.write2 (s : State) (r : Reg) (n : Nat) (v mask _m : W64) : Option State :=
  let w := v &&& mask
  match r with
  | .LANE_CHECK =>
    some (if w.getLsbD 0 && s.isOn (lanePg n) then
      ((s.putFlag LANE_CHECK.RUN n true).putFlag LANE_CHECK.DONE n false).laneCheckAsk n else s)
  | .LANE_XINJECT =>
    let s := s.store r n v mask
    some (if w.getLsbD 31 then s.updLane n (fun x => { x with injectCount := 0 }) else s)
  | .CTX_STORE_BASE | .CTX_TREE_BASE =>
    let ok := s.ctx.store == .uninit ||
      (s.ctx.store == .ready && s.paused && s.missBusy == 0 && s.ctx.ways.all (fun x => !x.2.isDirty))
    some (if ok then s.store r n v mask else s.seq (pg .ctx))
  | .CTX_CFG => some (if s.ctx.store == .uninit then s.store r n v mask else s.seq (pg .ctx))
  | .CTX_CMD =>
    some (match fget w 31 28 with
      | 1 => s.ctxInit
      | 2 => s.ctxFlush
      | 3 => s.ctxRetireHandle (fget w 27 0)
      | op => if s.ctx.cmd.isSome then s.seq (pg .ctx) else s.ctxRefuse op)
  | .CTX_LEARN_BASE | .CTX_LEARN_MIRROR => some (if s.flag CTX_LEARN_CFG.EN 0 then s else s.store r n v mask)
  | .CTX_LEARN_CFG =>
    let (rose, s) := s.ringCfg r n v mask
    some (if rose then s.learnStart else s)
  | .CTX_LEARN_CONS => some ((s.store r n v mask).learnConsume (fget w 15 0))
  | .DG_SAVE_BASE => some (if s.flag DG_SAVE_CTL.EN 0 then s else s.store r n v mask)
  | .DG_XRESERVE => some (if s.blk (pg .digest) == .off then s.store r n v mask else s)
  | .DCORE_CHECK => some (if w.getLsbD 0 then s.dcoreCheckAsk n else s)
  | .DCORE_XINJECT =>
    let s := s.store r n v mask
    some (if w.getLsbD 31 then s.setDcore n { s.dcore n with injectCount := 0 } else s)
  | .BN_CHECK => some (if w.getLsbD 0 then s.bnCheckRun else s)
  | .BN_CHAN_CFG => some (s.bnChanCfg n w)
  | .BN_XINJECT =>
    let s := s.store r n v mask
    some (if w.getLsbD 31 then { s with bignum := { s.bignum with injectCount := 0 } } else s)
  | .RNG_CELL_EN => some (s.cellEnWrite (fget w 15 0))
  | .RNG_RESEED_CFG =>
    let s := s.store r n v mask
    some (if w.getLsbD 31 then { s with rng := { s.rng with force := true } } else s).rngLevels
  | .RNG_PRIV_RESERVE => some (s.store r n v mask).rngLevels
  | .RNG_HEALTH_CFG => some (s.store r n v mask).rngCheckReady
  | .KEY_CMD => some (s.keyed (pg .key) w (fun c =>
      match c with
      | 1 => s.zeroize
      | 2 => s.attestStart
      | 3 => s.pounceDue
      | 4 => s.portRetry
      | _ => s.seq (pg .key)))
  | .KEY_ATT_CHAL => some (if s.keyBusy then s.seq (pg .key) else s.store r n v mask)
  | _ => none

/-- DCH_CFG, DCH_RING_BASE and DCH_RING_HEAD can be written (R266). -/
def State.dchConfigurable (s : State) (c : Nat) : Bool :=
  ((s.dch c).st == .idle || (s.dch c).st == .halted) && !s.flag DCH_ARM.SHD_ARM c

/-- Writes to the pages of the DMA channels, the Hatband, the clocks, the power sequencer, the tamper logic and tracing. -/
def State.write3 (s : State) (r : Reg) (n : Nat) (v mask m : W64) : Option State :=
  let w := v &&& mask
  match r with
  | .DCH_CFG =>
    some (if s.dchConfigurable n then ((s.store r n v mask).dmaUnpoll n).2 else s.seq (dchPg n))
  | .DCH_RING_BASE => some (if s.dchConfigurable n then (s.store r n v mask).dmaRepoll n else s.seq (dchPg n))
  | .DCH_RING_HEAD =>
    some (if s.dchConfigurable n && decide (fget w 11 0 < s.dchSize n) then (s.store r n v mask).dmaRepoll n
      else s.seq (dchPg n))
  | .DCH_CTL =>
    some (if w.getLsbD 3 then s.dmaDisable n
      else
        let s := if w.getLsbD 2 then s.dmaResume n else s
        if w.getLsbD 1 then s.dmaPoll n else s)
  | .DCH_ARM =>
    some (if s.dchRing n then s.seq (dchPg n)
      else if w.getLsbD 0 then (s.putFlag DCH_ARM.SHD_ARM n true).dmaArmed n
      else s.putFlag DCH_ARM.SHD_ARM n false)
  | .DCH_SHD_CTL | .DCH_SHD_SRC | .DCH_SHD_DST => some (if s.dchRing n then s.seq (dchPg n) else s.store r n v mask)
  | .DCH_X2D_SRC | .DCH_X2D_DST =>
    some (if (s.dch n).st != .idle && (s.dch n).st != .halted && (s.dch n).twoD then s.seq (dchPg n) else s.store r n v mask)
  | .EPOCH_PEND =>
    some (if s.epoch.scheduled then s.seq (pg .hatband) else { s with epoch := { s.epoch with stored := w.toNat } })
  | .EPOCH_TIME =>
    some (if mask == BitVec.allOnes 64 && !s.epoch.scheduled then s.store r n v mask else s.seq (pg .hatband))
  | .EPOCH_CTL =>
    let s := s.store r n v mask
    let s := if w.getLsbD 0 then s.epochArm false else s
    let s := if w.getLsbD 1 then s.epochArm true else s
    some (if w.getLsbD 2 then s.epochCancel else s)
  | .HB_MSG_TX_CTL =>
    let s := s.store r n v mask
    some (if w.getLsbD 31 then s.msgGo else s)
  | .HB_MSG_RX_STS => some (if w.getLsbD 0 then s.msgPop else s)
  | .CLK_REF_CFG => some (s.store r n v mask).refCfgWritten
  | .CLK_CMD => some (s.keyed (pg .clock) w s.clkCommand)
  | .CLK_PLL_EN => some (s.pllEnWrite (fget w 5 0))
  | .CLK_EN => some (s.clkEnWritten m)
  | .CLK_COMPAT | .CLK_RUN_EN | .CLK_SLEEP_EN | .CLK_DEEPSLEEP_EN => some (s.store r n v mask).followAll
  | .PWR_CMD => some (s.keyed (pg .power) w s.pwrCommand)
  | .PWR_SLEEP =>
    let s := s.store r n v mask
    some (if w.getLsbD 31 then s.sleepGo (fget w 1 0) else s)
  | .TAMP_CMD => some (s.keyed (pg .tamper) w (fun c => if c = 1 then s.clearAlarm else s.seq (pg .tamper)))
  | .TAMP_QUAL_CLR => some (s.qualClrWrite (fget w 5 0))
  | .TAMP_SENS_STS => some (s.sensClrWrite (fget w 3 0))
  | .FLT_FUNC =>
    some ((List.range 32).foldl (fun s j => if w.getLsbD j then s.functionClear (32 * n + j) else s) s)
  | .FLT_FUNC_FORCE =>
    let s := s.store r n v mask
    some (if w.getLsbD 31 then s.functionFence (fget w 5 0) 0x11 else s)
  | .TAMP_XIN_CFG =>
    some (if s.flag TAMP_XIN_CFG.SEAL 0 then s
      else
        let s := s.store r n v mask
        if w.getLsbD 31 then s.seal else s)
  | .TAMP_XSENS_CFG => some (if s.flag TAMP_XIN_CFG.SEAL 0 then s else s.store r n v mask)
  | .PERF_TAG_CFG => some (s.store r n v mask).tagCfgWritten
  | .PERF_TRC_BASE | .PERF_TRC_MIRROR => some (if s.flag PERF_TRC_CFG.EN 0 then s else s.store r n v mask)
  | .PERF_TRC_CFG =>
    let (rose, s) := s.ringCfg r n v mask
    some (if rose then s.ringStart 64 else s)
  | .PERF_TRC_CONS => some ((s.store r n v mask).ringCons 64 (fget w 15 0))
  | _ => none

/-- A write to instance n of a register: v holds the value at the register's bits, mask the bits the access covers. -/
def State.writeReg (s : State) (r : Reg) (n : Nat) (v mask : W64) : State :=
  match r.record with
  | some other => s.recordWrite r n other v mask
  | none =>
    let m := s.merged r n v mask
    match s.write1 r n v mask m with
    | some t => t
    | none =>
      match s.write2 r n v mask m with
      | some t => t
      | none =>
        match s.write3 r n v mask m with
        | some t => t
        | none => s.store r n v mask

end Sys2Proof.Machine
end

