-- ==== Sys2Proof/Machine/ControlPort.lean ====
section
/-! DEFINITION. The control port: which accesses the tile takes (R25, R364), how it decides each (R28–R32), and what a read
or a write of a page's header and body does (R33–R41). -/

namespace Sys2Proof.Machine

/-! ## Addresses -/

/-- The access falls in the window of a tile that has an address (R24, R25). -/
def State.cpAddressed (s : State) (a : Access) : Bool :=
  match s.tile.addr with
  | none => false
  | some n => decide (a.addr.toNat / 2 ^ 28 = s.tile.windowBase.toNat ∧ bitsOf a.addr.toNat 27 22 = BitVec.toNat n)

/-- The offset of an access in the window. -/
def accOff (a : Access) : Nat := bitsOf a.addr.toNat 21 0

/-- The page an access addresses, none where the offset is unmapped. -/
def accPage (a : Access) : Option PageRef := pageOf ((accOff a) / 4096)

/-- The offset of an access in its page. -/
def accPo (a : Access) : Nat := (accOff a) % 4096

/-- The access that reaches a page at an offset of the window of this tile. -/
def State.accessTo (s : State) (p : PageRef) (off bytes : Nat) (data : W64) (req : Req) : Access :=
  { addr := BitVec.ofNat 64
      (s.tile.windowBase.toNat * 2 ^ 28 + (s.tile.addr.getD 0).toNat * 2 ^ 22 + pageNum p * 4096 + off)
    bytes := bytes, data := data, req := req, tag := 0 }

/-! ## Header reads (R33, R34, R36) -/

/-- PAGE_STATE. -/
def State.pageState (s : State) (p : PageRef) : Nat :=
  let q := statePage p
  let h := s.hdr q
  pack [flagAt h.pwrWait 9, flagAt ((PageKind.block q.kind) && h.en && h.st == .off && !s.clkActs q) 8,
    (h.prev.code, 4), flagAt h.rearm 3, (h.st.code, 0)]

/-- PAGE_LOCK. -/
def Lock.code : Lock → Nat
  | .closed => 0 | .armed => 2 | .opened => 1

/-- PAGE_FENCE. -/
def State.pageFence (s : State) (p : PageRef) : Nat :=
  let r := if (PageKind.fixed p.kind) then s.tile.fence else (s.hdr (statePage p)).fence
  pack [(r.cause, 16), (r.level, 8), flagAt r.forced 1]

/-- A header register as it reads. -/
def State.headerWord (s : State) (p : PageRef) (off : Nat) : Nat :=
  let h := s.hdr p
  match off with
  | 0x00 => pack [(PageKind.code p.kind, 24), (1, 20), (p.inst, 0)]
  | 0x04 => pack [flagAt h.softReset 1, flagAt (s.hdr (statePage p)).en 0]
  | 0x08 => s.pageState p
  | 0x0C => h.fault.toNat
  | 0x10 => h.faultEn.toNat
  | 0x14 => h.event.toNat
  | 0x18 => h.eventEn.toNat
  | 0x1C => h.lock.code
  | 0x20 => pack [flagAt h.ownerValid 31, (h.ownerFunc.toNat, 0)]
  | 0x24 => pack [(h.lasting.toNat, 16), (h.transient.toNat, 0)]
  | 0x28 => s.pageFence p
  | _ => 0

/-- A read of a header register; a read of PAGE_RETRY clears both counts (R34). -/
def State.headerRead (s : State) (p : PageRef) (off : Nat) : State × Nat :=
  (if off = 0x24 then s.updHdr p (fun h => { h with transient := 0, lasting := 0 }) else s, s.headerWord p off)

/-! ## Header writes -/

/-- A write to PAGE_LOCK (R36). -/
def State.lockWrite (s : State) (p : PageRef) (v : W32) : State :=
  let put (l : Lock) : State := s.updHdr p (fun h => { h with lock := l })
  match (s.hdr p).lock with
  | .closed => if v = 0xEA01 then put .armed else s
  | .armed => if v = 0xEA02 then put .opened else if v = 0xEA01 then s else (put .closed).seq p
  | .opened => if v = 0xEA01 then put .armed else if v = 0xEA02 then s else put .closed

/-- The 64 cycles of an armed lock pass (R36). -/
def State.lockTimeout (s : State) (p : PageRef) : State :=
  if (s.hdr p).lock == .armed then (s.updHdr p (fun h => { h with lock := .closed })).seq p else s

/-- A write to PAGE_OWNER: it takes effect only while the page's block is OFF, and sets SEQ at any other time; its fields can be
written on DMA channel pages alone (R33, R34). -/
def State.ownerWrite (s : State) (p : PageRef) (v : W32) : State :=
  if s.blk p != .off then s.seq p
  else if p.kind != .dmaChannel then s
  else s.updHdr p (fun h => { h with ownerValid := v.getLsbD 31, ownerFunc := v.setWidth 6 })

/-- A write of 1 to PAGE_FENCE.FORCE (R34, R406). -/
def State.fenceForce (s : State) (p : PageRef) : State :=
  if p.kind == .tile then (if s.fenceable then s.tileFence 0x0A true else s.seq p)
  else if (PageKind.block p.kind) then s.fenceBlock p ⟨0x0A, fenceLevel p, true⟩
  else s

/-- A write to PAGE_CTL: SOFT_RESET is judged before EN acts. -/
def State.ctlWrite (s : State) (p : PageRef) (v : W32) : State :=
  let s := if v.getLsbD 1 then s.softReset p else s
  if (PageKind.block p.kind) then s.enWrite p (v.getLsbD 0) else s

/-- A write to a header register. A client's writes reach the fault and event registers alone (R32). -/
def State.headerWrite (s : State) (p : PageRef) (off : Nat) (v : W32) (priv : Bool) : State :=
  match off with
  | 0x04 => if priv then s.ctlWrite p v else s
  | 0x0C => s.updHdr p (fun h => { h with fault := h.fault &&& ~~~(v.setWidth 16) })
  | 0x10 => s.faultEnWrite p (v.setWidth 16)
  | 0x14 => s.updHdr p (fun h => { h with event := h.event &&& ~~~v })
  | 0x18 => s.eventEnWrite p (v &&& 0x8000FFFF)
  | 0x1C => if priv then s.lockWrite p v else s
  | 0x20 => if priv then s.ownerWrite p v else s
  | 0x28 => if priv && v.getLsbD 0 then s.fenceForce p else s
  | _ => s

/-! ## Body reads -/

/-- What a read leaves: the RC bits that it covers are cleared, and a free value that it showed is used up. -/
def State.afterRead (s : State) (r : Reg) (n : Nat) (mask : W64) : State :=
  let m := r.bitsOf (fun a => a == .rc) &&& mask
  let s := if m = 0 then s else s.setReg r n (s.reg r n &&& ~~~m)
  let s := match r with
    | .QUAD_STAGE_HWM => s.put QUAD_STAGE_HWM.HWM n (s.quad n).staged
    | .CROWN_POOL_HWM => s.put CROWN_POOL_HWM.HWM n s.granted
    | _ => s
  if r == .HB_STS then { s with freeCtr := s.freeCtr + 1 } else s

/-- A byte of the RESULT page's body (R182). -/
def State.resultByte (s : State) (off : Nat) : Nat :=
  if 0x40 ≤ off ∧ off < 0x7C then
    let x := Tbl.get {} s.digest.results (off - 0x40)
    pack [flagAt x.valid 7, (x.len, 0)]
  else if 0x80 ≤ off ∧ off < 0xF80 then
    bitsOf (Tbl.get {} s.digest.results ((off - 0x80) / 64)).bytes.toNat (8 * (off % 64) + 7) (8 * (off % 64))
  else 0

/-- The registers of which a read of the low half latches the high half: chain time (R291) and the counters (R348). -/
def Reg.latches : Reg → Bool
  | .HB_TIME | .PERF_CNT | .FN_CNT => true
  | _ => false

/-- The latch of a high half holds x. -/
def State.setHalf (s : State) (r : Reg) (n : Nat) (x : Option W32) : State :=
  { s with cp := { s.cp with halves := Tbl.set none s.cp.halves (regKey r n) x } }

/-- A 32-bit word of a page's body as it reads, and what the read leaves. A read of the low half of HB_TIME or of a counter
latches the high half, which the next read of that half returns (R291, R348); RNG_SW_DATA is read by 64-bit accesses alone
(R225). -/
def State.wordRead (s : State) (p : PageRef) (off : Nat) : State × Nat :=
  if p.kind == .result then
    (s, pack ((List.range 4).map (fun i => (s.resultByte (off + i), 8 * i))))
  else
    match regAt p off with
    | none => (s, 0)
    | some (r, n, hi) =>
      let v := (s.readReg r n).toNat
      if r == .RNG_SW_DATA then (s, 0)
      else if r.latches then
        if hi then
          (s.setHalf r n none,
            match Tbl.get none s.cp.halves (regKey r n) with
            | some x => x.toNat
            | none => bitsOf v 63 32)
        else (s.setHalf r n (some (BitVec.ofNat 32 (v / 2 ^ 32))), bitsOf v 31 0)
      else if hi then (s.afterRead r n 0xFFFFFFFF00000000, bitsOf v 63 32)
      else (s.afterRead r n 0xFFFFFFFF, bitsOf v 31 0)

/-- A read of a page: a 64-bit access to a 64-bit register is one read of it, any other acts word by word, the lower offset
first (R28). -/
def State.pageRead (s : State) (p : PageRef) (off bytes : Nat) : State × Nat :=
  let word (s : State) (o : Nat) : State × Nat := if o < 0x40 then s.headerRead p o else s.wordRead p o
  if bytes = 4 then word s off
  else
    match (if off < 0x40 then none else regAt p off) with
    | some (r, n, false) =>
      if r.desc.wide then
        if r == .RNG_SW_DATA then
          let (v, s) := s.swRead
          (s, v.toNat)
        else if r.latches then (s.setHalf r n none, (s.readReg r n).toNat)
        else (s.afterRead r n (BitVec.allOnes 64), (s.readReg r n).toNat)
      else
        let (s, a) := word s off
        let (s, b) := word s (off + 4)
        (s, a + b * 2 ^ 32)
    | _ =>
      let (s, a) := word s off
      let (s, b) := word s (off + 4)
      (s, a + b * 2 ^ 32)

/-! ## Body writes -/

/-- A write of a 32-bit word of a page's body. -/
def State.wordWrite (s : State) (p : PageRef) (off : Nat) (v : W32) : State :=
  if p.kind == .result then s
  else
    match regAt p off with
    | none => s
    | some (r, n, hi) =>
      if hi then s.writeReg r n (v.setWidth 64 <<< 32) 0xFFFFFFFF00000000
      else s.writeReg r n (v.setWidth 64) 0xFFFFFFFF

/-- A write to a page, as a read. -/
def State.pageWrite (s : State) (p : PageRef) (off bytes : Nat) (v : W64) (priv : Bool) : State :=
  let word (s : State) (o : Nat) (x : W32) : State :=
    if o < 0x40 then s.headerWrite p o x priv else s.wordWrite p o x
  let halves : State := word (word s off (v.setWidth 32)) (off + 4) ((v >>> 32).setWidth 32)
  if bytes = 4 then word s off (v.setWidth 32)
  else
    match (if off < 0x40 then none else regAt p off) with
    | some (r, n, false) => if r.desc.wide then s.writeReg r n v (BitVec.allOnes 64) else halves
    | _ => halves

/-! ## The decision (R29) -/

/-- The requester can reach the page and the region (R32). -/
def State.reaches (s : State) (write : Bool) (p : PageRef) (po : Nat) (req : Req) : Bool :=
  if req.priv then !(p.kind == .result && write && decide (0x40 ≤ po))
  else
    match p.kind with
    | .result => !write
    | .function => p.inst == req.func.toNat && decide (po < 0x800)
    | .dmaChannel => (s.hdr p).ownerValid && (s.hdr p).ownerFunc == req.func && decide (po < 0x800)
    | _ => false

/-- The block whose clock enable gates a page (R31). -/
def gateOf (p : PageRef) : PageRef :=
  match p.kind with
  | .rq | .cq | .function => pg .qeng
  | .result => pg .digest
  | .dmaChannel => pg .dma
  | _ => p

/-- The page is gated: its block's CLK_RUN bit is 0 (R303); that of a parked quad is not (R307). -/
def State.gated (s : State) (p : PageRef) : Bool :=
  !(PageKind.fixed p.kind) && !s.clkRuns (gateOf p) && !(p.kind == .quad && (s.quad p.inst).parked)

/-- The access touches a register with an RWX field. -/
def touchesExpert (p : PageRef) (off bytes : Nat) : Bool :=
  (List.range (bytes / 4)).any (fun i =>
    match (if off + 4 * i < 0x40 then none else regAt p (off + 4 * i)) with
    | some (r, _, _) => r.desc.flds.any (fun f => f.acc == .rwx)
    | none => false)

/-- The answer to an access. -/
def State.respond' (s : State) (code : RspCode) (v : W64) (a : Access) : State :=
  { s with cp := { s.cp with rsp := [⟨code, v, a.tag⟩] } }

/-- A refused access is logged: the first one in full, and every one in COUNT (R42). -/
def State.logRefusal (s : State) (write : Bool) (a : Access) (cause : Nat) : State :=
  let s :=
    if s.flag ACCESS_ERR_INFO.VALID 0 then s
    else
      let s := (s.put ACCESS_ERR_ADDR.OFFSET 0 (accOff a)).putFlag ACCESS_ERR_INFO.VALID 0 true
      let s := (s.put ACCESS_ERR_INFO.CAUSE 0 cause).putFlag ACCESS_ERR_INFO.WRITE 0 write
      (s.putFlag ACCESS_ERR_INFO.PRIV 0 a.req.priv).put ACCESS_ERR_INFO.FUNC 0 a.req.func.toNat
  s.bump ACCESS_ERR_INFO.COUNT 0 1

/-- An access is refused with ERR; under RAZ_WI those of rows 5 and 7 are answered OK (R42). -/
def State.refuse (s : State) (write : Bool) (a : Access) (cause : Nat) : State :=
  let s := s.logRefusal write a cause
  s.respond' (if (cause == 3 || cause == 4) && s.flag TILE_ERR_MODE.RAZ_WI 0 then .ok else .err) 0 a

/-- Row 9: the access is performed. -/
def State.perform (s : State) (write : Bool) (p : PageRef) (a : Access) : State :=
  if write then (s.pageWrite p (accPo a) a.bytes a.data a.req.priv).respond' .ok 0 a
  else
    let (s, v) := s.pageRead p (accPo a) a.bytes
    s.respond' .ok (BitVec.ofNat 64 v) a

/-- Rows 4 to 9, once the page is known and PD1 or the port keeper serves it. -/
def State.cpServe (s : State) (write : Bool) (p : PageRef) (a : Access) : State :=
  if (a.bytes != 4 && a.bytes != 8) || a.addr.toNat % a.bytes != 0 then s.refuse write a 2
  else if !s.reaches write p (accPo a) a.req then (s.raiseFault p 3).refuse write a 3
  else if s.tile.st == .fenced && write && !(PageKind.fixed p.kind) then s.refuse write a 5
  else if s.gated p && decide (0x40 ≤ accPo a) then (s.raiseFault p 4).refuse write a 4
  else if write && touchesExpert p (accPo a) a.bytes && !s.lockOpen p then (s.raiseFault p 6).respond' .ok 0 a
  else s.perform write p a

/-- The port keeper serves a page (R30). -/
def keeperServes : Option PageRef → Bool
  | some p => (PageKind.keeper p.kind)
  | none => false

/-- The port keeper answers in PD1's place, or a sleep entry has committed to it: pages that it does not serve get RETRY (R29,
R309). -/
def State.keeperAnswers (s : State) : Bool := s.keeper || s.pwr.phase == .committed

/-- The first row of R29 that applies, for an access within the window. -/
def State.cpDecide (s : State) (write : Bool) (a : Access) : State :=
  if s.pwr.phase == .waking then s.respond' .retry 0 a
  else if s.keeperAnswers && !keeperServes (accPage a) then
    (if s.asleep || s.pwr.phase == .committed then s.wakeSource 2 else s).respond' .retry 0 a
  else
    match (accPage a) with
    | none => s.refuse write a 1
    | some p => s.cpServe write p a

/-- An access to a page waits: the page is in soft reset, and the port keeper does not answer for it (R29, R40, R367). -/
def State.waitsOn (s : State) (p : PageRef) : Bool :=
  (s.hdr p).softReset && (!s.keeperAnswers || (PageKind.keeper p.kind))

/-- An access to its page stalls: the page is in soft reset, or an earlier access waits (R40, R364). -/
def State.stalls (s : State) (a : Access) : Bool :=
  !s.cp.stalled.isEmpty ||
    (match (accPage a) with
      | some p => s.waitsOn p
      | none => false)

/-- No access is answered. -/
def State.noRsp (s : State) : State := { s with cp := { s.cp with rsp := [] } }

/-- An access arrives at the control port. Outside the window it is dropped (R25, R364); with 8 outstanding it is not
accepted. -/
def State.cpAccess (s : State) (write : Bool) (a : Access) : State :=
  if !s.cpAddressed a then s.noRsp
  else if s.stalls a then
    if s.cp.stalled.length < 8 then
      { s with cp := { s.cp with rsp := [], stalled := s.cp.stalled ++ [(write, a)] } }
    else s.noRsp
  else s.cpDecide write a

/-- A write of a 32-bit register of this tile by its page and offset. -/
def State.cpWrite32 (s : State) (p : PageRef) (off : Nat) (v : W32) (req : Req) : State :=
  s.cpAccess true (s.accessTo p off 4 (v.setWidth 64) req)

/-- A write of a 64-bit register. -/
def State.cpWrite64 (s : State) (p : PageRef) (off : Nat) (v : W64) (req : Req) : State :=
  s.cpAccess true (s.accessTo p off 8 v req)

/-- A write of a named register: instance n of a 32-bit one. -/
def State.cpReg (s : State) (r : Reg) (n : Nat) (v : W32) (req : Req) : State :=
  s.cpWrite32 (regPage r n) (r.desc.off + n % r.desc.count * r.desc.stride) v req

/-- The accesses that go on waiting. -/
def State.keepStalled (s : State) (l : List (Bool × Access)) : State :=
  { s with cp := { s.cp with rsp := [], stalled := l } }

/-- Responses go out before those of the rest of the step (R364). -/
def State.rspFirst (s : State) (l : List Rsp) : State := { s with cp := { s.cp with rsp := l ++ s.cp.rsp } }

/-- Stalled accesses are performed in order and answered in that order, up to the first that goes on waiting (R364). -/
def State.runStalled (s : State) : List (Bool × Access) → State
  | [] => s.keepStalled []
  | (write, a) :: rest =>
    if (match (accPage a) with
        | some p => s.waitsOn p
        | none => false) then s.keepStalled ((write, a) :: rest)
    else
      let s := s.cpDecide write a
      (s.runStalled rest).rspFirst s.cp.rsp

/-- A soft reset completes, and what waited for it goes on (R40). -/
def State.softResetDone (s : State) (p : PageRef) : State :=
  let s := if (s.hdr p).softReset then s.updHdr p (fun h => { h with softReset := false }) else s
  s.runStalled s.cp.stalled

/-- The port keeper has taken the control port: the outputs are held, or the tile sleeps. The accesses that wait for a page it
does not serve are answered RETRY (R29, R367). -/
def State.keeperTakes (s : State) : State :=
  if s.keeper && !s.cp.stalled.isEmpty then s.runStalled s.cp.stalled else s

end Sys2Proof.Machine
end

