-- ==== Sys2Proof/Machine/Exec.lean ====
section
/-! DEFINITION. What the meanings of the commands share: the outcome of a command, commands that name a unit, register
writes, and the fences that follow a unit's answer. A command whose cause is absent changes nothing. -/

namespace Sys2Proof.Machine

/-- What a step answers. -/
abbrev Out := Host.Outcome State Fault Refusal

/-! ## Commands that name a unit -/

/-- The effect of a command that names one of k units; there is no unit n from k on. -/
def State.unit (s : State) (n k : Nat) (f : State → State) : State := if n < k then f s else s

/-- As above, for work of the tile. -/
def State.work (s : State) (n k : Nat) (f : State → State) : State := s.unit n k (fun s => s.whileWorking f)

/-- The page is in the map (R26). -/
def pageOk (p : PageRef) : Bool := decide (p.inst < PageKind.count p.kind)

/-- The effect of a command that names a page. -/
def State.onPage (s : State) (p : PageRef) (f : State → State) : State := if pageOk p then f s else s

/-- A write of a header register of a page. -/
def State.hdrWrite (s : State) (p : PageRef) (off : Nat) (v : W32) (req : Req) : State :=
  s.onPage p (fun s => s.cpWrite32 p off v req)

/-- A write of instance n of a 32-bit register of which there are k. -/
def State.regWrite (s : State) (r : Reg) (n k : Nat) (v : W32) (req : Req) : State := s.unit n k (fun s => s.cpReg r n v req)

/-- A word with a value in a field. -/
def Fld.word (f : Fld) (x : Nat) : W32 := BitVec.ofNat 32 (x % 2 ^ (f.hi - f.lo + 1) * 2 ^ f.lo)

/-- The word that asks for a command behind its key. -/
def cmdWord (cmd : Nat) : W32 := BitVec.ofNat 32 (0xC0DE0000 + cmd)

/-- What a register's writable fields hold, as a word that writes them as they stand; its W1S and W1C bits are 0 in it, so that
nothing else is asked for (R10). -/
def State.asItStands (s : State) (r : Reg) (n : Nat) : W32 :=
  (s.reg r n &&& r.bitsOf (fun a => a == .rw || a == .rwx)).setWidth 32

/-- That word with a bit of a field set. -/
def State.withBit (s : State) (f : Fld) (n : Nat) : W32 := s.asItStands f.reg n ||| f.word 1

/-- That word with a bit of a field cleared. -/
def State.withoutBit (s : State) (f : Fld) (n : Nat) : W32 := s.asItStands f.reg n &&& ~~~f.word 1

/-! ## Cells -/

/-- A Hatband cell of a type is received; if the tile acts on it, f is what it does (R277). -/
def State.onCell (s : State) (t : Nat) (c : Cell) (f : State → State) : State :=
  if cellByte c 0 = t then
    let (acts, s) := s.hbReceive c
    if acts then f s else s
  else s

/-! ## Fences that follow a unit's answer -/

/-- A quad whose replay failed (R96). -/
def State.quadFails (s : State) (q : Nat) : State := s.fence (quadPg q) 0x02

/-- The state after a step of a quad that may have to be fenced. -/
def quadAfter (q : Nat) (r : Bool × State) : State := if r.1 then r.2.quadFails q else r.2

/-- The lanes follow their quads after a step of frames (R73). -/
def State.frameStep (s : State) : State := s.lanesFollow

/-- The digest engine is fenced: a re-run failed (R183). -/
def digestAfter (r : Bool × State) : State :=
  if r.1 then (r.2.raiseFault (pg .digest) 8).fence (pg .digest) 0x02 else r.2

/-- Work of key custody on channel 255 comes to its end, unless DCORE_XINJECT asks for an error in its blocks (R183, R187). The kind is
0 for derivations, 1 for an attestation, else an opcode. -/
def State.kdfStep (s : State) (kind : Nat) (f : State → State) : State :=
  let s := s.kdfSync
  match (s.kdfDoes.filter (fun w => w.1 == kind)).bind (fun w => s.kdfInjects w.2) with
  | some n => digestAfter (s.injectError n)
  | none => f s

/-- The random number source's block has left COMING_UP by the step from s to t (R37). -/
def rngAfter (s t : State) : State :=
  if s.blk (pg .rng) == .comingUp && t.blk (pg .rng) == .goingDown then t.downStarts (pg .rng) else t

/-- The initialisation of a block ends, if it can; a slot image that has been read is opened first (R185). -/
def State.initEnds (s : State) (p : PageRef) : State :=
  let s := if p.kind == .digest then s.slotsBack else s
  if s.initReady p then s.initDone p else s.domainsUp p

/-- The shut-down of a block ends, if it can. -/
def State.downEnds (s : State) (p : PageRef) : State := if s.downReady p then s.shutdownDone p else s

end Sys2Proof.Machine
end

