-- ==== Sys2Proof/Machine/ExecBignum.lean ====
section
/-! DEFINITION. The meanings of the commands of the big-number engine. -/

namespace Sys2Proof.Machine

/-- The operation of a channel comes to its end, if it is of the given opcode and kind. -/
def State.bnCommand (s : State) (ch op kind : Nat) : State := s.work ch 64 (fun s => digestAfter (s.bnOp op kind ch))

/-- MODEXP (R188–R207). -/
def execModexp (ch : Nat) (s : State) : Out := .next (s.bnCommand ch 0x30 0)

/-- ECDH (R188–R207). -/
def execEcdh (ch : Nat) (s : State) : Out := .next (s.bnCommand ch 0x31 0)

/-- ECDSA_SIGN (R188–R207). -/
def execEcdsaSign (ch : Nat) (s : State) : Out := .next (s.bnCommand ch 0x32 0)

/-- ECDSA_VERIFY (R188–R203). -/
def execEcdsaVerify (ch : Nat) (s : State) : Out := .next (s.bnCommand ch 0x33 0)

/-- X25519 (R188–R207). -/
def execX25519 (ch : Nat) (s : State) : Out := .next (s.bnCommand ch 0x34 0)

/-- ED25519_SIGN (R188–R203). -/
def execEd25519Sign (ch : Nat) (s : State) : Out := .next (s.bnCommand ch 0x35 0)

/-- ED25519_VERIFY (R188–R203). -/
def execEd25519Verify (ch : Nat) (s : State) : Out := .next (s.bnCommand ch 0x36 0)

/-- MLKEM_KEYGEN (R188–R203). -/
def execMlkemKeygen (ch : Nat) (s : State) : Out := .next (s.bnCommand ch 0x38 0)

/-- MLKEM_ENCAPS (R188–R206). -/
def execMlkemEncaps (ch : Nat) (s : State) : Out := .next (s.bnCommand ch 0x39 0)

/-- MLKEM_DECAPS (R188–R207). -/
def execMlkemDecaps (ch : Nat) (s : State) : Out := .next (s.bnCommand ch 0x3A 0)

/-- MLDSA_SIGN (R188–R207). -/
def execMldsaSign (ch : Nat) (s : State) : Out := .next (s.bnCommand ch 0x3B 0)

/-- MLDSA_VERIFY (R188–R203). -/
def execMldsaVerify (ch : Nat) (s : State) : Out := .next (s.bnCommand ch 0x3C 0)

/-- BN_KEY_LOAD (R190, R191, R194, R195): the LOAD of any opcode. -/
def execBnKeyLoad (ch : Nat) (s : State) : Out := .next (s.bnCommand ch 0 2)

/-- BN_KEY_GEN (R190, R191, R193, R195): the GEN of any opcode. -/
def execBnKeyGen (ch : Nat) (s : State) : Out := .next (s.bnCommand ch 0 3)

/-- BN_KEY_CLEAR (R190, R191, R195). -/
def execBnKeyClear (ch : Nat) (s : State) : Out := .next (s.bnCommand ch 0 4)

/-- BN_BUDGET_EXPIRY (R197, R198). -/
def execBnBudgetExpiry (unit : BnUnit) (s : State) : Out := .next (s.whileWorking (fun s => s.bnBudget unit))

/-- BN_PRIV_PREEMPT (R199). -/
def execBnPrivPreempt (unit : BnUnit) (s : State) : Out := .next (s.whileWorking (fun s => s.bnPreempt unit))

/-- BN_RNG_TIMEOUT (R200). -/
def execBnRngTimeout (ch : Nat) (s : State) : Out := .next (s.work ch 64 (fun s => s.bnRngTimeout ch))

/-- BN_RESPLIT_DUE (R202). -/
def execBnResplitDue (ch : Nat) (s : State) : Out := .next (s.work ch 64 (fun s => s.bnResplitDue ch))

/-- BN_CHECK_FAIL (R203, R204). -/
def execBnCheckFail (ch : Nat) (unit : BnUnit) (cause : Nat) (s : State) : Out :=
  .next (s.work ch 64 (fun s => s.bnCheckFail ch unit cause))

/-- BN_UNIT_CHECK_DONE (R204, R211): with both units FENCED the block is. -/
def execBnUnitCheckDone (unit : BnUnit) (pass : Bool) (s : State) : Out :=
  .next (s.whileWorking (fun s =>
    let (both, s) := s.bnUnitCheckDone unit pass
    if both then s.fence (pg .bignum) 0x0E else s))

/-- BN_KEY_ECC (R204, R205): an uncorrectable error in the key area, or a corrected one in the scratch. -/
def execBnKeyEcc (ch : EccError) (s : State) : Out :=
  .next (s.work ch.unit 64 (fun s => s.bnKeyEcc ch.unit ch.corrected))

/-- BN_CHECK_RUN (R211). -/
def execBnCheckRun (req : Req) (s : State) : Out := .next (s.cpReg .BN_CHECK 0 (BN_CHECK.RUN.word 1) req)

/-- BN_CHAN_CFG_WRITE (R189, R208). -/
def execBnChanCfgWrite (ch : Nat) (value : W32) (req : Req) (s : State) : Out :=
  .next (s.regWrite .BN_CHAN_CFG ch 64 value req)

/-- BN_IDLE_HOLDOFF (R211): no channel has a request, and the event IDLE is set. -/
def execBnIdleHoldoff (s : State) : Out := 
  .next (s.whileWorking (fun s => if s.bnIdle && s.isOn (pg .bignum) then s.raiseEvent (pg .bignum) 0 else s))

/-- BN_ERROR_INJECT (R211). -/
def execBnErrorInject (value : W32) (req : Req) (s : State) : Out :=
  .next (s.cpReg .BN_XINJECT 0 (value ||| BN_XINJECT.ARM.word 1) req)

end Sys2Proof.Machine
end

