-- ==== Sys2Proof/Machine/ExecClock.lean ====
section
/-! DEFINITION. The meanings of the commands of the clock logic. -/

namespace Sys2Proof.Machine

/-- CLOCK_TRIP (R295–R298, R301): of the stop detector, or of the window detector. -/
def execClockTrip (mon : MonTrip) (s : State) : Out :=
  .next (s.unit mon.mon 8 (fun s => (s.clockTrip mon.mon mon.stop).keeperTakes))

/-- HBREF_QUALIFY (R295, R298, R300). -/
def execHbrefQualify (s : State) : Out := .next s.hbrefQualify.keeperTakes

/-- SBOSC_COUNT_START (R297). -/
def execSboscCountStart (s : State) : Out := .next s.sboscCountStart

/-- SBOSC_JUDGED (R295, R297). -/
def execSboscJudged (s : State) : Out := .next s.sboscJudged.keeperTakes

/-- SBOSC_COUNT_RESTART (R298). -/
def execSboscCountRestart (s : State) : Out := .next s.countRestart

/-- SWITCH_HANDSHAKE_TIMEOUT (R299). -/
def execSwitchHandshakeTimeout (s : State) : Out := .next s.switchTimeout

/-- PLL_LOCK (R293, R296, R301). -/
def execPllLock (pll : Nat) (s : State) : Out := .next (s.unit pll 6 (fun s => (s.pllLock pll).followAll.keeperTakes))

/-- PLL_UNLOCK (R301). -/
def execPllUnlock (pll : Nat) (s : State) : Out := .next (s.unit pll 6 (fun s => (s.pllUnlock pll).keeperTakes))

/-- PLL_RELOCK_TIMEOUT (R301). -/
def execPllRelockTimeout (pll : Nat) (s : State) : Out := .next (s.unit pll 6 (fun s => s.pllRelockTimeout pll))

/-- USE_HBREF (R300). -/
def execUseHbref (req : Req) (s : State) : Out := .next (s.cpReg .CLK_CMD 0 (cmdWord 1) req)

/-- USE_SBOSC (R300). -/
def execUseSbosc (req : Req) (s : State) : Out := .next (s.cpReg .CLK_CMD 0 (cmdWord 2) req)

/-- CLK_PLL_EN_WRITE (R293, R302). -/
def execClkPllEnWrite (value : W32) (req : Req) (s : State) : Out := .next (s.cpReg .CLK_PLL_EN 0 value req)

/-- CLK_EN_WRITE (R303): a 64-bit write. -/
def execClkEnWrite (value : W64) (req : Req) (s : State) : Out :=
  .next (s.cpWrite64 (pg .clock) (Reg.desc .CLK_EN).off value req)

/-- CLK_COMPAT_WRITE (R304). -/
def execClkCompatWrite (value : W32) (req : Req) (s : State) : Out := .next (s.cpReg .CLK_COMPAT 0 value req)

/-- CLK_MASK_WRITE (R304). -/
def execClkMaskWrite (mask : CompatMask) (value : W32) (req : Req) (s : State) : Out :=
  .next (s.cpReg (match mask with | .run => .CLK_RUN_EN | .sleep => .CLK_SLEEP_EN | .deepSleep => .CLK_DEEPSLEEP_EN) 0
    value req)

end Sys2Proof.Machine
end

