-- ==== Sys2Proof/Machine/ExecContext.lean ====
section
/-! DEFINITION. The meanings of the commands of the context store and of the epoch logic. -/

namespace Sys2Proof.Machine

/-- PAGEIN_DONE (R109–R111): the reads for a handle are in. -/
def execPageinDone (handle : Nat) (s : State) : Out := .next (s.whileWorking (fun s => s.pageinDone handle))

/-- PAGEIN_FAIL (R111, R112, R115). -/
def execPageinFail (handle : Nat) (s : State) : Out := .next (s.whileWorking (fun s => (s.pageinFailed handle).frameStep))

/-- MISS_WAY_ALLOCATE (R113). -/
def execMissWayAllocate (bank : Nat) (s : State) : Out := .next (s.work bank 64 (fun s => s.missAllocate bank))

/-- SWEEP_PASS (R115, R116). -/
def execSweepPass (s : State) : Out := .next (s.whileWorking (fun s => s.sweep))

/-- CTX_WRITEBACK_DONE (R115, R117). -/
def execCtxWritebackDone (handle : Nat) (s : State) : Out := .next (s.whileWorking (fun s => s.writebackDone handle))

/-- CTX_WRITEBACK_FAIL (R117): of a context, or of the node whose lowest handle this is. -/
def execCtxWritebackFail (handle : Nat) (s : State) : Out := .next (s.whileWorking (fun s => s.writebackFail handle))

/-- NODE_WRITEBACK_DONE (R117): the node by its level and index, as nodeKey numbers it. -/
def execNodeWritebackDone (node : Nat) (s : State) : Out :=
  .next (s.whileWorking (fun s => s.nodeDone (node / 2 ^ 32) (node % 2 ^ 32)))

/-- CTX_ECC_CORRECTED (R120). -/
def execCtxEccCorrected (target : CacheRef) (s : State) : Out := .next (s.whileWorking (fun s => s.eccCorrected target))

/-- CTX_ECC_UNCORRECTABLE (R120): an error that the bad table has no room for fences the block. -/
def execCtxEccUncorrectable (target : CacheRef) (s : State) : Out :=
  .next (s.whileWorking (fun s =>
    match target with
    | .way b w => if b < 64 ∧ w < 64 then s.eccWay (64 * b + w) else s
    | .node l i =>
      let (full, s) := s.eccNode l i
      if full then s.fence (pg .ctx) 0x08 else s))

/-- CTX_INSTALL (R121, R124). -/
def execCtxInstall (s : State) : Out := .next (s.whileWorking (fun s => s.kdfStep 0x40 State.ctxInstall))

/-- CTX_ARM_NEXT (R130–R132). -/
def execCtxArmNext (s : State) : Out := .next (s.whileWorking (fun s => s.kdfStep 0x41 State.ctxArm))

/-- CTX_RETIRE (R125). -/
def execCtxRetire (s : State) : Out := .next (s.whileWorking (fun s => s.ctxRetire))

/-- CTX_AUDIT (R126). -/
def execCtxAudit (s : State) : Out := .next (s.whileWorking (fun s => s.ctxAudit))

/-- A write of CTX_CMD. -/
def State.ctxCmdWrite (s : State) (op handle : Nat) (req : Req) : State :=
  s.cpReg .CTX_CMD 0 (CTX_CMD.OP.word op ||| CTX_CMD.HANDLE.word handle) req

/-- CTX_INIT (R127). -/
def execCtxInit (req : Req) (s : State) : Out := .next (s.ctxCmdWrite 1 0 req)

/-- CTX_FLUSH (R127). -/
def execCtxFlush (req : Req) (s : State) : Out := .next (s.ctxCmdWrite 2 0 req)

/-- RETIRE_HANDLE (R127). -/
def execRetireHandle (handle : Nat) (req : Req) (s : State) : Out := .next (s.ctxCmdWrite 3 handle req)

/-- CTX_CMD_DONE (R127). -/
def execCtxCmdDone (s : State) : Out := .next (s.whileWorking (fun s => s.ctxCmdDone))

/-- LEARN_ENABLE (R122, R129): EN is written 1. -/
def execLearnEnable (value : W32) (req : Req) (s : State) : Out :=
  .next (s.cpReg .CTX_LEARN_CFG 0 (value ||| CTX_LEARN_CFG.EN.word 1) req)

/-- EPOCH_ARM (R137, R138). -/
def execEpochArm (cell : Cell) (s : State) : Out := .next (s.onCell 0x05 cell (fun s => s.epochCell cell))

/-- EPOCH_FLIP (R137, R138). -/
def execEpochFlip (cell : Cell) (s : State) : Out := .next (s.onCell 0x06 cell (fun s => s.epochCell cell))

/-- EPOCH_CTL_ARM (R139). -/
def execEpochCtlArm (req : Req) (s : State) : Out := .next (s.cpReg .EPOCH_CTL 0 (s.withBit EPOCH_CTL.ARM 0) req)

/-- EPOCH_CTL_SCHED (R139). -/
def execEpochCtlSched (req : Req) (s : State) : Out := .next (s.cpReg .EPOCH_CTL 0 (s.withBit EPOCH_CTL.SCHED 0) req)

/-- EPOCH_CTL_CANCEL (R139). -/
def execEpochCtlCancel (req : Req) (s : State) : Out := .next (s.cpReg .EPOCH_CTL 0 (s.withBit EPOCH_CTL.CANCEL 0) req)

/-- EPOCH_GUARD_CLOSE (R140). -/
def execEpochGuardClose (s : State) : Out := .next s.guardClose

/-- EPOCH_FLIP_DUE (R136, R141, R142). -/
def execEpochFlipDue (s : State) : Out := .next s.epochFlipDue

end Sys2Proof.Machine
end

