-- ==== Sys2Proof/Machine/ExecCrown.lean ====
section
/-! DEFINITION. The meanings of the commands of the crown, the completion queues and the interrupt unit. -/

namespace Sys2Proof.Machine

/-- The crown accepts and publishes: its block is ON or going down (R165), and no wipe holds it back (R323). -/
def State.crownRuns (s : State) : Bool :=
  (s.isOn (pg .crown) || s.blk (pg .crown) == .goingDown) && !s.tamp.wiping

/-- CROWN_ACCEPT (R149–R157): one FCLK cycle. -/
def execCrownAccept (s : State) : Out := .next (s.whileWorking (fun s => if s.crownRuns then s.crownCycle.dmaGoOn.enginesGo else s))

/-- ENTRY_WRITE_DONE (R151, R153). -/
def execEntryWriteDone (cq : Nat) (s : State) : Out := .next (s.work cq 64 (fun s => s.entryDone cq))

/-- ENTRY_WRITE_FAIL (R155, R166): an entry or mirror write failed after its retry, or a held entry has an uncorrectable ECC
error. -/
def execEntryWriteFail (cq : EntryFault) (s : State) : Out :=
  .next (s.work cq.cq 64 (fun s => if cq.ecc then s.entryEcc cq.cq else s.entryFail cq.cq))

/-- MIRROR_WRITE_ISSUE (R153). -/
def execMirrorWriteIssue (cq : Nat) (s : State) : Out :=
  .next (s.work cq 64 (fun s => if s.crownRuns then s.issueMirror cq else s))

/-- MIRROR_WRITE_DONE (R153, R160). -/
def execMirrorWriteDone (cq : Nat) (s : State) : Out := .next (s.work cq 64 (fun s => s.mirrorDone cq))

/-- CQ_CONS_WRITE (R152, R157). -/
def execCqConsWrite (cq : Nat) (value : W32) (req : Req) (s : State) : Out := .next (s.regWrite .CQ_CONS cq 64 value req)

/-- FN_CQ_CONS_WRITE (R169). -/
def execFnCqConsWrite (fn : Nat) (value : W32) (req : Req) (s : State) : Out :=
  .next (s.regWrite .FN_CQ_CONS fn 64 value req)

/-- CQ_ENABLE (R158): EN is written 1. -/
def execCqEnable (cq : Nat) (value : W32) (req : Req) (s : State) : Out :=
  .next (s.regWrite .CQ_CFG cq 64 (value ||| CQ_CFG.EN.word 1) req)

/-- CQ_DISABLE (R158): EN is written 0, the other fields as they stand. -/
def execCqDisable (cq : Nat) (req : Req) (s : State) : Out :=
  .next (s.regWrite .CQ_CFG cq 64 (s.withoutBit CQ_CFG.EN cq) req)

/-- VECTOR_TIMER_EXPIRY (R162). -/
def execVectorTimerExpiry (v : Nat) (s : State) : Out := .next (s.unit v 256 (fun s => s.vecTimer v))

/-- EVENT_MSG_ACCEPTED (R162, R164). -/
def execEventMsgAccepted (s : State) : Out := .next s.msgAccepted

/-- HOST_SLEEP_ENTER (R164, R168). -/
def execHostSleepEnter (req : Req) (s : State) : Out := .next (s.cpReg .IRQ_CTL 0 (IRQ_CTL.HOST_SLEEP.word 1) req)

/-- HOST_SLEEP_EXIT (R164, R168). -/
def execHostSleepExit (req : Req) (s : State) : Out := .next (s.cpReg .IRQ_CTL 0 (IRQ_CTL.HOST_SLEEP.word 0) req)

/-- IRQ_FLUSH_ALL (R168). -/
def execIrqFlushAll (req : Req) (s : State) : Out := .next (s.cpReg .IRQ_FLUSH 0 (IRQ_FLUSH.ALL.word 1) req)

/-- IRQ_FLUSH_VECTOR (R168). -/
def execIrqFlushVector (v : Nat) (req : Req) (s : State) : Out :=
  .next (s.unit v 256 (fun s => s.cpReg .IRQ_FLUSH 0 (IRQ_FLUSH.VECTOR.word v) req))

/-- IRQ_FORCE_EVENT (R160, R168). -/
def execIrqForceEvent (v : Nat) (req : Req) (s : State) : Out :=
  .next (s.unit v 256 (fun s => s.cpReg .IRQ_XFORCE 0 (IRQ_XFORCE.GO.word 1 ||| IRQ_XFORCE.VECTOR.word v) req))

/-- IRQ_VEC_CFG_WRITE (R160, R162, R168). -/
def execIrqVecCfgWrite (v : Nat) (value : W32) (req : Req) (s : State) : Out :=
  .next (s.regWrite .IRQ_VEC_CFG v 256 value req)

/-- PAGE_EVENT_EN_WRITE (R33, R160). -/
def execPageEventEnWrite (page : PageRef) (value : W32) (req : Req) (s : State) : Out :=
  .next (s.hdrWrite page 0x18 value req)

end Sys2Proof.Machine
end

