-- ==== Sys2Proof/Machine/ExecDigest.lean ====
section
/-! DEFINITION. The meanings of the commands of the digest engine. -/

namespace Sys2Proof.Machine

/-- The part of a channel is absorbed, if it is of the given opcode. -/
def State.digestOp (s : State) (ch op : Nat) : State := s.work ch 256 (fun s => digestAfter (s.digestRun op ch))

/-- DIGEST (R170–R176, R182). -/
def execDigest (ch : Nat) (s : State) : Out := .next (s.digestOp ch 0x20)

/-- HMAC (R170–R176, R179, R182). -/
def execHmac (ch : Nat) (s : State) : Out := .next (s.digestOp ch 0x21)

/-- DIGEST_CONTINUE (R172–R176, R182). -/
def execDigestContinue (ch : Nat) (s : State) : Out := .next (s.digestOp ch 0x22)

/-- HMAC_LOAD (R179–R181). -/
def execHmacLoad (ch : Nat) (s : State) : Out := .next (s.work ch 256 (fun s => digestAfter (s.hmacLoad ch)))

/-- HMAC_CLEAR (R180, R181). -/
def execHmacClear (ch : Nat) (s : State) : Out := .next (s.work ch 256 (fun s => s.hmacClear ch))

/-- DIGEST_BUDGET_EXPIRY (R176, R177). -/
def execDigestBudgetExpiry (core : Nat) (s : State) : Out := .next (s.work core 4 (fun s => s.budgetExpiry core))

/-- DIGEST_HOLD_TIMEOUT (R174, R175). -/
def execDigestHoldTimeout (ch : Nat) (s : State) : Out := .next (s.work ch 256 (fun s => s.holdTimeout ch))

/-- DCORE_ERROR (R183). -/
def execDcoreError (core cause : Nat) (s : State) : Out :=
  .next (s.work core 4 (fun s => digestAfter (s.dcoreErr core cause)))

/-- DCORE_CHECK_DONE (R183, R187): the core is fenced after a failed check, the engine when it was the last resort. -/
def execDcoreCheckDone (core : Nat) (pass : Bool) (s : State) : Out :=
  .next (s.work core 4 (fun s =>
    let (level, s) := s.dcoreCheckEnd core pass
    if level = 3 then s.fence (corePg core) 0x01 else digestAfter (level == 4, s)))

/-- DCORE_CHECK_RUN (R187). -/
def execDcoreCheckRun (core : Nat) (req : Req) (s : State) : Out :=
  .next (s.regWrite .DCORE_CHECK core 4 (DCORE_CHECK.RUN.word 1) req)

/-- DCORE_ERROR_INJECT (R187). -/
def execDcoreErrorInject (core : Nat) (value : W32) (req : Req) (s : State) : Out :=
  .next (s.regWrite .DCORE_XINJECT core 4 (value ||| DCORE_XINJECT.ARM.word 1) req)

/-- DIGEST_STATE_ECC (R183, R186): a double-bit error, or a corrected one. -/
def execDigestStateEcc (ch : EccError) (s : State) : Out :=
  .next (s.work ch.unit 256 (fun s => s.digestStateEcc ch.unit ch.corrected))

/-- SLOT_ECC_ERROR (R183, R186): a double-bit error, or a corrected one. -/
def execSlotEccError (slot : EccError) (s : State) : Out :=
  .next (s.work slot.unit 4096 (fun s => s.slotEcc slot.unit slot.corrected))

end Sys2Proof.Machine
end

