-- ==== Sys2Proof/Machine/ExecDma.lean ====
section
/-! DEFINITION. The meanings of the commands of the DMA engine. -/

namespace Sys2Proof.Machine

/-- A write of DCH_CTL with one of its bits set. -/
def State.dchControl (s : State) (ch : Nat) (f : Fld) (req : Req) : State := s.regWrite .DCH_CTL ch 16 (f.word 1) req

/-- DMA_SHD_ARM (R256, R259). -/
def execDmaShdArm (ch : Nat) (req : Req) (s : State) : Out := .next (s.regWrite .DCH_ARM ch 16 (DCH_ARM.SHD_ARM.word 1) req)

/-- DMA_TRANSFER_END (R256–R259, R268). -/
def execDmaTransferEnd (ch : Nat) (s : State) : Out := .next (s.work ch 16 (fun s => s.dmaTransferEnd ch))

/-- DMA_RING_POLL (R258). -/
def execDmaRingPoll (ch : Nat) (s : State) : Out := .next (s.work ch 16 (fun s => s.dmaRingPoll ch))

/-- DMA_KICK (R258, R265). -/
def execDmaKick (ch : Nat) (req : Req) (s : State) : Out := .next (s.dchControl ch DCH_CTL.KICK req)

/-- DMA_RESUME (R264, R265). -/
def execDmaResume (ch : Nat) (req : Req) (s : State) : Out := .next (s.dchControl ch DCH_CTL.RESUME req)

/-- DMA_DISABLE (R265). -/
def execDmaDisable (ch : Nat) (req : Req) (s : State) : Out := .next (s.dchControl ch DCH_CTL.DISABLE req)

end Sys2Proof.Machine
end

