-- ==== Sys2Proof/Machine/ExecFrame.lean ====
section
/-! DEFINITION. The meanings of the commands of the cipher lanes: dispatch of frames, the eight frame operations, errors,
replays and checks. -/

namespace Sys2Proof.Machine

/-- A lane finishes the frame at its head, if that is of the given opcode (R75). -/
def State.laneOp (s : State) (lane op : Nat) : State := s.work lane 16 (fun s => (s.laneFinish lane op).frameStep)

/-- FRAME_DISPATCH (R16, R63, R72, R89, R91, R121). -/
def execFrameDispatch (n : Nat) (s : State) : Out := .next (s.whileWorking (fun s => s.frameDispatch n))

/-- FRAME_STAGED (R16, R17, R70). -/
def execFrameStaged (quad : Nat) (s : State) : Out :=
  .next (s.work quad 4 (fun s => (quadAfter quad (s.frameStaged quad)).frameStep))

/-- MACSEC_PROTECT (R81). -/
def execMacsecProtect (lane : Nat) (s : State) : Out := .next (s.laneOp lane 0x10)

/-- MACSEC_VALIDATE (R82). -/
def execMacsecValidate (lane : Nat) (s : State) : Out := .next (s.laneOp lane 0x11)

/-- ESP_ENCRYPT (R85). -/
def execEspEncrypt (lane : Nat) (s : State) : Out := .next (s.laneOp lane 0x12)

/-- ESP_DECRYPT (R86). -/
def execEspDecrypt (lane : Nat) (s : State) : Out := .next (s.laneOp lane 0x13)

/-- GCM_SEAL (R88). -/
def execGcmSeal (lane : Nat) (s : State) : Out := .next (s.laneOp lane 0x14)

/-- GCM_OPEN (R88). -/
def execGcmOpen (lane : Nat) (s : State) : Out := .next (s.laneOp lane 0x15)

/-- CHACHA_SEAL (R88). -/
def execChachaSeal (lane : Nat) (s : State) : Out := .next (s.laneOp lane 0x16)

/-- CHACHA_OPEN (R88). -/
def execChachaOpen (lane : Nat) (s : State) : Out := .next (s.laneOp lane 0x17)

/-- FRAME_DST_WRITES_DONE (R94, R153). -/
def execFrameDstWritesDone (frame : Nat) (s : State) : Out :=
  .next (s.whileWorking (fun s => (s.frameDstDone frame).frameStep))

/-- LANE_ERROR (R96): the error is in the n-th frame of the lane. -/
def execLaneError (lane n cause stage : Nat) (s : State) : Out :=
  .next (s.work lane 16 (fun s =>
    match (s.lane lane).frames[n]?.bind (fun i => s.frame? i) with
    | some f => if s.isOn (lanePg lane) || s.blk (lanePg lane) == .goingDown then (quadAfter f.quad (s.laneErr lane cause stage f)).frameStep else s
    | none => s))

/-- LANE_REPLAY_START (R96). -/
def execLaneReplayStart (quad : Nat) (s : State) : Out := .next (s.work quad 4 (fun s => (s.replayStart quad).frameStep))

/-- LANE_CHECK_DONE (R96, R99): the lane is fenced after a failed check. -/
def execLaneCheckDone (lane : Nat) (pass : Bool) (s : State) : Out :=
  .next (s.work lane 16 (fun s =>
    let (bad, s) := s.laneCheckEnd lane pass
    (if bad then s.fence (lanePg lane) 0x01 else s).frameStep))

/-- LANE_CHECK_RUN (R99). -/
def execLaneCheckRun (lane : Nat) (req : Req) (s : State) : Out :=
  .next (s.regWrite .LANE_CHECK lane 16 (LANE_CHECK.RUN.word 1) req)

/-- LANE_PERIODIC_CHECK (R99). -/
def execLanePeriodicCheck (lane : Nat) (s : State) : Out := .next (s.work lane 16 (fun s => s.laneCheckDue lane))

/-- LANE_ERROR_INJECT (R99). -/
def execLaneErrorInject (lane : Nat) (value : W32) (req : Req) (s : State) : Out :=
  .next (s.regWrite .LANE_XINJECT lane 16 (value ||| LANE_XINJECT.ARM.word 1) req)

/-- AFAIL_WINDOW_END (R98): the count and the quad's report start again. -/
def execAfailWindowEnd (quad : Nat) (s : State) : Out :=
  .next (s.work quad 4 (fun s =>
    (s.put QUAD_AFAIL_CNT.COUNT quad 0).setQuad quad { s.quad quad with afailRaised := false }))

/-- STAGING_ECC_ERROR (R100). -/
def execStagingEccError (frame : Nat) (output : Bool) (s : State) : Out :=
  .next (s.whileWorking (fun s => (quadAfter (((s.frame? frame).map (fun f => f.quad)).getD 0) (s.stagingEcc frame output)).frameStep))

end Sys2Proof.Machine
end

