-- ==== Sys2Proof/Machine/ExecHatband.lean ====
section
/-! DEFINITION. The meanings of the cells and the line events of the Hatband. -/

namespace Sys2Proof.Machine

/-- ENUM (R278). The cell's address byte is judged as it arrives. -/
def execEnum (cell : Cell) (s : State) : Out := .next (s.onCell 0x01 cell (fun s => s.hbEnum cell))

/-- RENUM (R279). -/
def execRenum (cell : Cell) (s : State) : Out := .next (s.onCell 0x02 cell (fun s => s.hbRenum))

/-- TIME (R280, R282). -/
def execTime (cell : Cell) (s : State) : Out := .next (s.onCell 0x03 cell (fun s => s.hbTime cell))

/-- LOOP (R281): it is forwarded with D accumulated. -/
def execLoop (cell : Cell) (s : State) : Out := .next (s.onCell 0x04 cell (fun s => s))

/-- ZEROIZE_ALL (R285, R320): a tamper event of class ZEROIZE_TILE. -/
def execZeroizeAll (cell : Cell) (s : State) : Out := .next (s.onCell 0x07 cell (fun s => s.tamperEvent 9 0))

/-- SLEEP_ALL (R285, R308): ignored and counted where the entry is not allowed. -/
def execSleepAll (cell : Cell) (s : State) : Out :=
  .next (s.onCell 0x08 cell (fun s =>
    let target := cellByte cell 2 - 6
    if s.sleepOk target then s.sleepStart target else s.hbIgnored))

/-- WAKE (R285, R310). -/
def execWake (cell : Cell) (s : State) : Out :=
  .next (s.onCell 0x09 cell (fun s => if s.flag PWR_WAKE_CFG.CELL 0 then s.wakeSource 1 else s))

/-- BYPASS_ENTER (R286). -/
def execBypassEnter (cell : Cell) (s : State) : Out :=
  .next (if cellByte cell 2 = 1 then s.onCell 0x0A cell (fun s => s.bypassSet true) else s)

/-- BYPASS_LEAVE (R286). -/
def execBypassLeave (cell : Cell) (s : State) : Out :=
  .next (if cellByte cell 2 = 0 then s.onCell 0x0A cell (fun s => s.bypassSet false) else s)

/-- MSG (R287). -/
def execMsg (cell : Cell) (s : State) : Out := .next (s.onCell 0x0B cell (fun s => s.msgIn cell))

/-- MSG_SEND (R287): GO is written 1. -/
def execMsgSend (value : W32) (req : Req) (s : State) : Out :=
  .next (s.cpReg .HB_MSG_TX_CTL 0 (value ||| HB_MSG_TX_CTL.GO.word 1) req)

/-- MSG_POP (R291). -/
def execMsgPop (req : Req) (s : State) : Out := .next (s.cpReg .HB_MSG_RX_STS 0 (HB_MSG_RX_STS.POP.word 1) req)

/-- OWN_CELL_SEND (R284). -/
def execOwnCellSend (s : State) : Out := .next s.ownSend

/-- CELL_CRC_FAIL (R275). -/
def execCellCrcFail (cell : Cell) (crc : BitVec 16) (s : State) : Out := .next (s.cellCrcFail cell crc)

/-- STOMPED_CELL (R275). -/
def execStompedCell (cell : Cell) (s : State) : Out := .next (s.cellStomped cell)

/-- UNKNOWN_CELL (R276, R277): a cell that the tile acts on is none. -/
def execUnknownCell (cell : Cell) (s : State) : Out :=
  .next (let r := s.hbReceive cell
    if r.1 then s else r.2)

/-- UPSTREAM_LOSS (R273). -/
def execUpstreamLoss (s : State) : Out := .next s.upLoss

/-- UPSTREAM_SYNC (R273). -/
def execUpstreamSync (s : State) : Out := .next s.upSynced

/-- DOWNSTREAM_TERM_CHECK (R273). -/
def execDownstreamTermCheck (present : Bool) (s : State) : Out := .next (s.termCheck present)

/-- HOLD_RECEIVED (R283). -/
def execHoldReceived (s : State) : Out := .next s.holdIn

/-- TIME_STALE (R282). -/
def execTimeStale (s : State) : Out := .next s.timeStale

end Sys2Proof.Machine
end

