-- ==== Sys2Proof/Machine/ExecKey.lean ====
section
/-! DEFINITION. The meanings of the commands of key custody. -/

namespace Sys2Proof.Machine

/-- A write of KEY_CMD. -/
def State.keyCommand (s : State) (cmd : Nat) (req : Req) : State := s.cpReg .KEY_CMD 0 (cmdWord cmd) req

/-- KEY_PORT_REQUEST (R232, R233). -/
def execKeyPortRequest (s : State) : Out := .next (s.whileWorking (fun s => s.portRequest))

/-- ROOT_TRANSFER (R233–R236): words on the key port, key_last with the one at place last. -/
def execRootTransfer (words : List W32) (last : Nat) (s : State) : Out :=
  .next (s.whileWorking (fun s => s.portWords words last))

/-- KEY_PORT_TIMEOUT (R233, R234). -/
def execKeyPortTimeout (s : State) : Out := .next (s.whileWorking (fun s => s.portTimeout))

/-- KEY_PORT_RETRY_WAIT (R234). -/
def execKeyPortRetryWait (s : State) : Out := .next (s.whileWorking (fun s => s.portRetryWait))

/-- KEY_PORT_STRAY_WORD (R233): a word while key_req is low. -/
def execKeyPortStrayWord (s : State) : Out :=
  .next (s.whileWorking (fun s => if s.key.req then s else s.strayWords 1))

/-- KEY_DERIVE (R231, R238). -/
def execKeyDerive (s : State) : Out := .next (s.whileWorking (fun s => s.kdfStep 0 State.keyDerive))

/-- KDF (R237, R240, R241). -/
def execKdf (s : State) : Out := .next (s.whileWorking (fun s => s.kdfStep 0x23 State.kdfRun))

/-- ZEROIZE (R247, R248). -/
def execZeroize (req : Req) (s : State) : Out := .next (s.keyCommand 1 req)

/-- ATTEST (R249–R251). -/
def execAttest (req : Req) (s : State) : Out := .next (s.keyCommand 2 req)

/-- ATTEST_DONE (R251). -/
def execAttestDone (s : State) : Out := .next (s.whileWorking (fun s => s.kdfStep 1 State.attestDone))

/-- POUNCE_NOW (R243). -/
def execPounceNow (req : Req) (s : State) : Out := .next (s.keyCommand 3 req)

/-- PORT_RETRY (R234). -/
def execPortRetry (req : Req) (s : State) : Out := .next (s.keyCommand 4 req)

/-- POUNCE_DUE (R243). -/
def execPounceDue (s : State) : Out := .next (s.whileWorking (fun s => s.pounceDue))

/-- POUNCE_BANK_REMASK (R235, R242–R244). -/
def execPounceBankRemask (bank : Nat) (s : State) : Out := .next (s.work bank 72 (fun s => (s.pounceBank bank).slotsGo))

/-- POUNCE_PASS_DONE (R243). -/
def execPouncePassDone (s : State) : Out := .next (s.whileWorking (fun s => s.pounceDone))

/-- POUNCE_OVERDUE (R245). -/
def execPounceOverdue (s : State) : Out := .next (s.whileWorking (fun s => s.pounceOverdue))

/-- KEY_DATAPATH_ERROR (R252): its repeat cleared it, or the tile is fenced. -/
def execKeyDatapathError (cleared : Bool) (s : State) : Out :=
  .next (s.whileWorking (fun s =>
    let (fences, s) := s.keyError cleared
    if fences then s.tileFence 0x0C false else s))

end Sys2Proof.Machine
end

