-- ==== Sys2Proof/Machine/ExecPort.lean ====
section
/-! DEFINITION. The meanings of the commands of the control port, the page headers and the TILE page. -/

namespace Sys2Proof.Machine

/-- REGISTER_WRITE (R29). -/
def execRegisterWrite (a : Access) (s : State) : Out := .next (s.cpAccess true a)

/-- REGISTER_READ (R29). -/
def execRegisterRead (a : Access) (s : State) : Out := .next (s.cpAccess false a)

/-- CP_UNADDRESSED_ACCESS (R25, R364): the request is dropped without a response. -/
def execCpUnaddressedAccess (_write : Bool) (a : Access) (s : State) : Out :=
  .next (if s.cpAddressed a then s else s.noRsp)

/-- PAGE_LOCK_WRITE (R36). -/
def execPageLockWrite (page : PageRef) (value : W32) (req : Req) (s : State) : Out := .next (s.hdrWrite page 0x1C value req)

/-- LOCK_ARM_TIMEOUT (R36). -/
def execLockArmTimeout (page : PageRef) (s : State) : Out := .next (s.onPage page (fun s => s.lockTimeout page))

/-- BLOCK_EN_WRITE (R37). -/
def execBlockEnWrite (page : PageRef) (en : Bool) (req : Req) (s : State) : Out :=
  .next (s.hdrWrite page 0x04 (if en then 1 else 0) req)

/-- BLOCK_INIT_DONE (R37). -/
def execBlockInitDone (page : PageRef) (s : State) : Out :=
  .next (s.onPage page (fun s => s.whileWorking (fun s => s.initEnds page)))

/-- BLOCK_SHUTDOWN_DONE (R37). -/
def execBlockShutdownDone (page : PageRef) (s : State) : Out :=
  .next (s.onPage page (fun s => s.whileWorking (fun s => s.downEnds page)))

/-- TRANSITION_TIMEOUT (R39). -/
def execTransitionTimeout (page : PageRef) (s : State) : Out :=
  .next (s.onPage page (fun s => s.whileWorking (fun s => s.transTimeout page)))

/-- SOFT_RESET (R40): EN is written as it stands. -/
def execSoftReset (page : PageRef) (req : Req) (s : State) : Out :=
  .next (s.hdrWrite page 0x04 (if (s.hdr (statePage page)).en then 3 else 2) req)

/-- SOFT_RESET_DONE (R40). -/
def execSoftResetDone (page : PageRef) (s : State) : Out := .next (s.onPage page (fun s => s.softResetDone page))

/-- PAGE_OWNER_WRITE (R34). -/
def execPageOwnerWrite (page : PageRef) (value : W32) (req : Req) (s : State) : Out := .next (s.hdrWrite page 0x20 value req)

/-- PAGE_FENCE_FORCE (R34, R406). -/
def execPageFenceForce (page : PageRef) (req : Req) (s : State) : Out := .next (s.hdrWrite page 0x28 1 req)

/-- REGISTER_PARITY_ERROR (R41). -/
def execRegisterParityError (off : BitVec 22) (s : State) : Out := .next (s.parityError off.toNat)

/-- BRING_UP_DONE (R43). -/
def execBringUpDone (req : Req) (s : State) : Out := .next (s.cpReg .TILE_CMD 0 (cmdWord 1) req)

/-- ENTER_TEST (R43). -/
def execEnterTest (req : Req) (s : State) : Out := .next (s.cpReg .TILE_CMD 0 (cmdWord 2) req)

/-- LEAVE_TEST (R43). -/
def execLeaveTest (req : Req) (s : State) : Out := .next (s.cpReg .TILE_CMD 0 (cmdWord 3) req)

/-- FENCE_TILE (R43, R334). -/
def execFenceTile (req : Req) (s : State) : Out := .next (s.cpReg .TILE_CMD 0 (cmdWord 4) req)

/-- UNFENCE_TILE (R43). -/
def execUnfenceTile (req : Req) (s : State) : Out := .next (s.cpReg .TILE_CMD 0 (cmdWord 5) req)

/-- RUN_IDLE_TIMEOUT (R43). -/
def execRunIdleTimeout (s : State) : Out := .next (s.whileWorking (fun s => s.runIdle))

/-- WDOG_KICK (R44). -/
def execWdogKick (value : W32) (req : Req) (s : State) : Out := .next (s.cpReg .TILE_WDOG_KICK 0 value req)

/-- WDOG_EXPIRY (R44). -/
def execWdogExpiry (s : State) : Out := .next s.wdogExpiry

end Sys2Proof.Machine
end

