-- ==== Sys2Proof/Machine/ExecPower.lean ====
section
/-! DEFINITION. The meanings of the commands of the power sequencer, the sleep states and parking. -/

namespace Sys2Proof.Machine

/-- CORE_ON (R294). -/
def execCoreOn (req : Req) (s : State) : Out := .next (s.cpReg .PWR_CMD 0 (cmdWord 1) req)

/-- WAKE_COMMAND (R310). -/
def execWakeCommand (req : Req) (s : State) : Out := .next (s.cpReg .PWR_CMD 0 (cmdWord 2) req)

/-- CANCEL_SLEEP (R309). -/
def execCancelSleep (req : Req) (s : State) : Out := .next (s.cpReg .PWR_CMD 0 (cmdWord 3) req)

/-- SLEEP_GO (R308). -/
def execSleepGo (target : BitVec 2) (req : Req) (s : State) : Out :=
  .next (s.cpReg .PWR_SLEEP 0 (PWR_SLEEP.GO.word 1 ||| PWR_SLEEP.TARGET.word target.toNat) req)

/-- SLEEP_DRAIN_DONE (R308). -/
def execSleepDrainDone (s : State) : Out := .next (s.whileWorking (fun s => s.sleepDrainDone))

/-- SLEEP_SAVE_DONE (R185, R308, R313). -/
def execSleepSaveDone (s : State) : Out := .next (s.whileWorking (fun s => s.sleepSaveDone))

/-- SLEEP_COMMIT (R306, R308). -/
def execSleepCommit (s : State) : Out := .next s.sleepCommit.keeperTakes

/-- DRAIN_TIMEOUT (R309). -/
def execDrainTimeout (s : State) : Out := .next s.sleepTimeout

/-- WAKE_PIN (R310). -/
def execWakePin (s : State) : Out := .next s.wakePin

/-- WAKE_ACCESS (R29, R30, R310): an access as any other. -/
def execWakeAccess (write : Bool) (a : Access) (s : State) : Out := .next (s.cpAccess write a)

/-- WAKE_TIMER (R310). -/
def execWakeTimer (s : State) : Out := .next s.wakeTimer

/-- WAKE_COMPLETE (R311–R314). -/
def execWakeComplete (keepOk : Bool) (bad : List Nat) (s : State) : Out := .next (s.wakeComplete keepOk bad)

/-- PGOOD_TIMEOUT (R305). -/
def execPgoodTimeout (pd : Nat) (retryOk : Bool) (s : State) : Out :=
  .next (s.unit pd 112 (fun s => s.pgoodTimeout pd retryOk))

/-- PGOOD_LOST (R305). -/
def execPgoodLost (pd : Nat) (s : State) : Out := .next (s.unit pd 112 (fun s => s.pgoodLost pd))

/-- SUPPLY_GLITCH (R315). -/
def execSupplyGlitch (sram : Bool) (s : State) : Out := .next (s.supplyGlitch sram)

/-- LANE_PARK (R307). -/
def execLanePark (lane : Nat) (s : State) : Out := .next (s.work lane 16 (fun s => s.lanePark lane))

/-- LANE_UNPARK_DONE (R307). -/
def execLaneUnparkDone (lane : Nat) (s : State) : Out := .next (s.work lane 16 (fun s => s.laneUnparkDone lane))

/-- QUAD_PARK (R307). -/
def execQuadPark (quad : Nat) (s : State) : Out := .next (s.work quad 4 (fun s => s.quadPark quad))

/-- VDD_AO_UP (R339, R383). -/
def execVddAoUp (windowBase : BitVec 36) (s : State) : Out := .next (s.aoUp windowBase)

/-- VDD_AO_LOSS (R288). -/
def execVddAoLoss (s : State) : Out := .next s.aoLoss

end Sys2Proof.Machine
end

