-- ==== Sys2Proof/Machine/ExecQueue.lean ====
section
/-! DEFINITION. The meanings of the commands of the request queues, the scheduler and the chains. -/

namespace Sys2Proof.Machine

/-- RQ_POLL (R54, R55): the queue reads the next entries of its ring. -/
def execRqPoll (rq : Nat) (s : State) : Out :=
  .next (s.work rq 256 (fun s => if (s.rq rq).st == .active || (s.rq rq).st == .held then s.rqRead rq else s))

/-- RQ_DOZE_POLL (R56): with INT = 0 a dozing queue is polled only on a kick. -/
def execRqDozePoll (rq : Nat) (s : State) : Out :=
  .next (s.work rq 256 (fun s => if (s.rq rq).st == .dozing && s.fld RQ_XDOZE.INT rq != 0 then s.rqRead rq else s))

/-- RQ_KICK (R56). -/
def execRqKick (rq : Nat) (value : W32) (req : Req) (s : State) : Out := .next (s.regWrite .RQ_KICK rq 256 value req)

/-- FN_RQ_KICK (R56, R69). -/
def execFnRqKick (fn : Nat) (value : W32) (req : Req) (s : State) : Out := .next (s.regWrite .FN_RQ_KICK fn 64 value req)

/-- DESC_FETCH_DONE (R51, R52, R54). -/
def execDescFetchDone (rq : Nat) (s : State) : Out := .next (s.work rq 256 (fun s => s.descDone rq))

/-- DESC_FETCH_FAIL (R64). -/
def execDescFetchFail (rq : Nat) (s : State) : Out := .next (s.work rq 256 (fun s => s.descFail rq))

/-- SCHED_ISSUE (R57–R62). -/
def execSchedIssue (s : State) : Out := .next (s.whileWorking (fun s => s.schedIssue))

/-- CHAIN_NEXT_DISPATCH (R59). -/
def execChainNextDispatch (chain : Nat) (s : State) : Out := .next (s.whileWorking (fun s => s.chainNext chain))

/-- DISPATCH (R63). -/
def execDispatch (n : Nat) (s : State) : Out := .next (s.whileWorking (fun s => s.dispatch n))

/-- MARKER (R62). -/
def execMarker (n : Nat) (s : State) : Out := .next (s.whileWorking (fun s => s.marker n))

/-- RQ_ENABLE (R65, R66): EN is written 1. -/
def execRqEnable (rq : Nat) (value : W32) (req : Req) (s : State) : Out :=
  .next (s.regWrite .RQ_CFG rq 256 (value ||| RQ_CFG.EN.word 1) req)

/-- RQ_DISABLE (R65): EN is written 0, the other fields as they stand. -/
def execRqDisable (rq : Nat) (req : Req) (s : State) : Out :=
  .next (s.regWrite .RQ_CFG rq 256 (s.withoutBit RQ_CFG.EN rq) req)

/-- QENG_PAUSE (R67). -/
def execQengPause (pause : Bool) (req : Req) (s : State) : Out :=
  .next (s.cpReg .QENG_CTL 0 (QENG_CTL.PAUSE.word (b2n pause)) req)

end Sys2Proof.Machine
end

