-- ==== Sys2Proof/Machine/ExecRng.lean ====
section
/-! DEFINITION. The meanings of the commands of the random number source. -/

namespace Sys2Proof.Machine

/-- A step of the source, after which its block may have reached ON (R222). -/
def State.rngWork (s : State) (f : State → State) : State := s.whileWorking (fun s => rngAfter s (f s))

/-- BATT_BOUNDARY (R212–R216, R222, R226): the batts of cells 0 to 15. -/
def execBattBoundary (batts : List (BitVec 512)) (s : State) : Out := .next (s.rngWork (fun s => s.battBoundary batts))

/-- HEALTH_WINDOW_END (R213). -/
def execHealthWindowEnd (s : State) : Out := .next (s.whileWorking (fun s => s.healthEnd))

/-- ESTIMATE_WINDOW_END (R216). -/
def execEstimateWindowEnd (s : State) : Out := .next (s.whileWorking (fun s => s.estimateEnd))

/-- FULLER_STALL_TIMEOUT (R217). -/
def execFullerStallTimeout (s : State) : Out := .next (s.whileWorking (fun s => s.fullerStall))

/-- INSTANTIATE (R218, R222). -/
def execInstantiate (s : State) : Out := .next (s.rngWork (fun s => s.instantiate))

/-- RESEED (R219). -/
def execReseed (s : State) : Out := .next (s.rngWork (fun s => s.reseed))

/-- GENERATE_CALL (R219–R221); what the big-number engine waited for goes on with it (R200). -/
def execGenerateCall (s : State) : Out := .next (s.rngWork (fun s => s.generateCall.bnPoll.kdfSync))

/-- RNG_READY_TIMEOUT (R222). -/
def execRngReadyTimeout (s : State) : Out := .next (s.whileWorking (fun s => s.readyTimeout))

/-- RANDOM (R224): the request at the head. -/
def execRandom (s : State) : Out := .next (s.whileWorking (fun s => s.randomServe))

/-- RANDOM_TIMEOUT (R224). -/
def execRandomTimeout (s : State) : Out := .next (s.whileWorking (fun s => s.randomTimeout))

/-- RNG_SW_DATA_READ (R225): a 64-bit read. -/
def execRngSwDataRead (req : Req) (s : State) : Out :=
  .next (s.cpAccess false (s.accessTo (pg .rng) (Reg.desc .RNG_SW_DATA).off 8 0 req))

/-- RNG_CELL_EN_WRITE (R214). -/
def execRngCellEnWrite (value : W32) (req : Req) (s : State) : Out := .next (s.cpReg .RNG_CELL_EN 0 value req)

/-- RESEED_FORCE (R219): FORCE is written 1, the other fields as they stand. -/
def execReseedForce (req : Req) (s : State) : Out := .next (s.cpReg .RNG_RESEED_CFG 0 (s.withBit RNG_RESEED_CFG.FORCE 0) req)

/-- RAW_CAPTURE_START (R226): EN is written 1. -/
def execRawCaptureStart (value : W32) (req : Req) (s : State) : Out :=
  .next (s.cpReg .RNG_XRAW 0 (value ||| RNG_XRAW.EN.word 1) req)

/-- RNG_DATAPATH_ERROR (R227): its repeat cleared it, or the source is fenced. -/
def execRngDatapathError (cleared : Bool) (s : State) : Out :=
  .next (s.whileWorking (fun s =>
    if !s.rngUp then s
    else if cleared then s.transient (pg .rng)
    else (((s.lasting (pg .rng)).raiseFault (pg .rng) 8).fence (pg .rng) 0x01)))

end Sys2Proof.Machine
end

