-- ==== Sys2Proof/Machine/ExecTamper.lean ====
section
/-! DEFINITION. The meanings of the commands of the tamper logic, the fences of functions and of the tile, and the
self-test. -/

namespace Sys2Proof.Machine

/-- An event of a qualifier goes to the wake logic if it is Q4's (R318). -/
def qualAfter (input : Nat) (r : Bool × State) : State := if r.1 && input == 4 then r.2.wakePinEvent else r.2

/-- QUAL_INPUT_ACTIVE (R318). -/
def execQualInputActive (input : Nat) (s : State) : Out := .next (s.unit input 6 (fun s => s.qualActive input))

/-- QUAL_HOLD_DONE (R318–R326). -/
def execQualHoldDone (input : Nat) (s : State) : Out :=
  .next (s.unit input 6 (fun s => qualAfter input (s.qualHeld input)))

/-- QUAL_SHORT_PULSE (R318). -/
def execQualShortPulse (input : Nat) (s : State) : Out :=
  .next (s.unit input 6 (fun s => qualAfter input (s.qualShort input)))

/-- QUAL_REARM_EXPIRY (R318). -/
def execQualRearmExpiry (input : Nat) (s : State) : Out := .next (s.unit input 6 (fun s => s.qualRearm input))

/-- TAMP_QUAL_CLR (R318, R319). -/
def execTampQualClr (value : W32) (req : Req) (s : State) : Out := .next (s.cpReg .TAMP_QUAL_CLR 0 value req)

/-- SENSOR_QUALIFY (R320–R326). -/
def execSensorQualify (sensor : Sensor) (s : State) : Out := .next (s.sensorQualify sensor)

/-- SENSOR_REARM_EXPIRY (R320, R338). -/
def execSensorRearmExpiry (sensor : Sensor) (s : State) : Out := .next (s.sensorRearm sensor)

/-- TAMPER_WIPE_DONE (R322, R323). -/
def execTamperWipeDone (s : State) : Out := .next s.wipeDone

/-- TAMPER_DRAIN_TIMEOUT (R323). -/
def execTamperDrainTimeout (s : State) : Out := .next s.drainTimeout

/-- TAMPER_DRAIN_DONE (R323, R326). -/
def execTamperDrainDone (s : State) : Out := .next s.drainDone

/-- CLEAR_ALARM (R327). -/
def execClearAlarm (req : Req) (s : State) : Out := .next (s.cpReg .TAMP_CMD 0 (cmdWord 1) req)

/-- TAMP_SEAL (R321, R337): SEAL is written 1, the other fields as they stand. -/
def execTampSeal (req : Req) (s : State) : Out := .next (s.cpReg .TAMP_XIN_CFG 0 (s.withBit TAMP_XIN_CFG.SEAL 0) req)

/-- FLT_FUNC_FORCE (R333). -/
def execFltFuncForce (fn : Nat) (req : Req) (s : State) : Out :=
  .next (s.unit fn 64 (fun s => s.cpReg .FLT_FUNC_FORCE 0 (FLT_FUNC_FORCE.GO.word 1 ||| FLT_FUNC_FORCE.FUNC.word fn) req))

/-- FLT_FUNC_CLEAR (R333). -/
def execFltFuncClear (fn : Nat) (req : Req) (s : State) : Out :=
  .next (s.unit fn 64 (fun s => s.cpReg .FLT_FUNC (fn / 32) (BitVec.ofNat 32 (2 ^ (fn % 32))) req))

/-- TILE_FENCE_FLUSH_DONE (R334). -/
def execTileFenceFlushDone (s : State) : Out := .next s.tileFenceEnds

/-- SELFTEST_GO (R344, R345). -/
def execSelftestGo (sel : BitVec 6) (req : Req) (s : State) : Out :=
  .next (s.cpReg .TILE_SELFTEST 0 (TILE_SELFTEST.GO.word 1 ||| TILE_SELFTEST.SEL.word sel.toNat) req)

/-- SELFTEST_DONE (R345, R329): the groups of which a unit failed twice, and those of which a check passed at its
repeat. -/
def execSelftestDone (failed : SelftestEnd) (s : State) : Out :=
  .next (s.whileWorking (fun s => s.selftestDone failed.failed.toNat failed.retried.toNat))

end Sys2Proof.Machine
end

