-- ==== Sys2Proof/Machine/ExecTrace.lean ====
section
/-! DEFINITION. The meanings of the commands of tracing, of the fabric ports and of the test wrapper. -/

namespace Sys2Proof.Machine

/-- PERF_TAG_CFG_WRITE (R354, R358). -/
def execPerfTagCfgWrite (value : W32) (req : Req) (s : State) : Out := .next (s.cpReg .PERF_TAG_CFG 0 value req)

/-- PERF_SEED_ARRIVE (R354). -/
def execPerfSeedArrive (s : State) : Out := .next (s.whileWorking (fun s => s.seedArrive))

/-- PERF_TRC_ENABLE (R357, R359): EN is written 1. -/
def execPerfTrcEnable (value : W32) (req : Req) (s : State) : Out :=
  .next (s.cpReg .PERF_TRC_CFG 0 (value ||| PERF_TRC_CFG.EN.word 1) req)

/-- FABRIC_READ_RESPONSE (R371, R377, R378): on a port, for an ID, with the bytes it carries. -/
def execFabricReadResponse (port id : Nat) (resp : BitVec 2) (bytes : Nat) (data : Bytes) (s : State) : Out :=
  .next (s.unit port 4 (fun s => s.fabRead port id resp bytes data))

/-- FABRIC_WRITE_RESPONSE (R371, R377). -/
def execFabricWriteResponse (port id : Nat) (resp : BitVec 2) (s : State) : Out :=
  .next (s.unit port 4 (fun s => s.fabWrite port id resp))

/-- FABRIC_TIMEOUT (R376, R377). -/
def execFabricTimeout (port : Nat) (write : Bool) (id : Nat) (s : State) : Out :=
  .next (s.unit port 4 (fun s => s.fabTimeout port write id))

/-- FABRIC_LATE_RESPONSE (R376, R378). -/
def execFabricLateResponse (port : Nat) (write : Bool) (id : Nat) (s : State) : Out :=
  .next (s.unit port 4 (fun s => s.lateResponse port write id))

/-- WRAPPER_INSTRUCTION (R384). -/
def execWrapperInstruction (code : BitVec 4) (s : State) : Out := .next (s.wrapLoad code)

/-- WRAPPER_RESET (R384). -/
def execWrapperReset (s : State) : Out := .next s.wrapReset

/-- MBIST_DONE (R384). -/
def execMbistDone (fail : Bool) (s : State) : Out := .next (s.mbistDone fail)

/-- WRAPPER_DATA_SHIFT (R384). -/
def execWrapperDataShift (op : WrapperOp) (s : State) : Out := .next (s.wrapData op)

end Sys2Proof.Machine
end

