-- ==== Sys2Proof/Machine/Dispatch.lean ====
section
/-! DEFINITION. What each command does: one arm per command, each a direct call of its meaning. -/

namespace Sys2Proof.Machine

/-- The effect of a command on everything but the queue of waiting commands. -/
def exec (i : Instr) (s : State) : Host.Outcome State Fault Refusal :=
  match i with
  | .registerWrite a => Sys2Proof.Machine.execRegisterWrite a s
  | .cpUnaddressedAccess write a => Sys2Proof.Machine.execCpUnaddressedAccess write a s
  | .pageLockWrite page value req => Sys2Proof.Machine.execPageLockWrite page value req s
  | .lockArmTimeout page => Sys2Proof.Machine.execLockArmTimeout page s
  | .blockEnWrite page en req => Sys2Proof.Machine.execBlockEnWrite page en req s
  | .blockInitDone page => Sys2Proof.Machine.execBlockInitDone page s
  | .blockShutdownDone page => Sys2Proof.Machine.execBlockShutdownDone page s
  | .transitionTimeout page => Sys2Proof.Machine.execTransitionTimeout page s
  | .softReset page req => Sys2Proof.Machine.execSoftReset page req s
  | .softResetDone page => Sys2Proof.Machine.execSoftResetDone page s
  | .pageOwnerWrite page value req => Sys2Proof.Machine.execPageOwnerWrite page value req s
  | .pageFenceForce page req => Sys2Proof.Machine.execPageFenceForce page req s
  | .registerParityError off => Sys2Proof.Machine.execRegisterParityError off s
  | .bringUpDone req => Sys2Proof.Machine.execBringUpDone req s
  | .enterTest req => Sys2Proof.Machine.execEnterTest req s
  | .leaveTest req => Sys2Proof.Machine.execLeaveTest req s
  | .fenceTile req => Sys2Proof.Machine.execFenceTile req s
  | .unfenceTile req => Sys2Proof.Machine.execUnfenceTile req s
  | .runIdleTimeout => Sys2Proof.Machine.execRunIdleTimeout s
  | .wdogKick value req => Sys2Proof.Machine.execWdogKick value req s
  | .wdogExpiry => Sys2Proof.Machine.execWdogExpiry s
  | .rqPoll rq => Sys2Proof.Machine.execRqPoll rq s
  | .rqDozePoll rq => Sys2Proof.Machine.execRqDozePoll rq s
  | .rqKick rq value req => Sys2Proof.Machine.execRqKick rq value req s
  | .fnRqKick fn value req => Sys2Proof.Machine.execFnRqKick fn value req s
  | .descFetchDone rq => Sys2Proof.Machine.execDescFetchDone rq s
  | .descFetchFail rq => Sys2Proof.Machine.execDescFetchFail rq s
  | .schedIssue => Sys2Proof.Machine.execSchedIssue s
  | .chainNextDispatch chain => Sys2Proof.Machine.execChainNextDispatch chain s
  | .dispatch n => Sys2Proof.Machine.execDispatch n s
  | .marker n => Sys2Proof.Machine.execMarker n s
  | .rqEnable rq value req => Sys2Proof.Machine.execRqEnable rq value req s
  | .rqDisable rq req => Sys2Proof.Machine.execRqDisable rq req s
  | .qengPause pause req => Sys2Proof.Machine.execQengPause pause req s
  | .frameDispatch n => Sys2Proof.Machine.execFrameDispatch n s
  | .frameStaged quad => Sys2Proof.Machine.execFrameStaged quad s
  | .macsecProtect lane => Sys2Proof.Machine.execMacsecProtect lane s
  | .macsecValidate lane => Sys2Proof.Machine.execMacsecValidate lane s
  | .espEncrypt lane => Sys2Proof.Machine.execEspEncrypt lane s
  | .espDecrypt lane => Sys2Proof.Machine.execEspDecrypt lane s
  | .gcmSeal lane => Sys2Proof.Machine.execGcmSeal lane s
  | .gcmOpen lane => Sys2Proof.Machine.execGcmOpen lane s
  | .chachaSeal lane => Sys2Proof.Machine.execChachaSeal lane s
  | .chachaOpen lane => Sys2Proof.Machine.execChachaOpen lane s
  | .frameDstWritesDone frame => Sys2Proof.Machine.execFrameDstWritesDone frame s
  | .laneError lane n cause stage => Sys2Proof.Machine.execLaneError lane n cause stage s
  | .laneReplayStart quad => Sys2Proof.Machine.execLaneReplayStart quad s
  | .laneCheckDone lane pass => Sys2Proof.Machine.execLaneCheckDone lane pass s
  | .laneCheckRun lane req => Sys2Proof.Machine.execLaneCheckRun lane req s
  | .lanePeriodicCheck lane => Sys2Proof.Machine.execLanePeriodicCheck lane s
  | .laneErrorInject lane value req => Sys2Proof.Machine.execLaneErrorInject lane value req s
  | .afailWindowEnd quad => Sys2Proof.Machine.execAfailWindowEnd quad s
  | .stagingEccError frame output => Sys2Proof.Machine.execStagingEccError frame output s
  | .pageinDone handle => Sys2Proof.Machine.execPageinDone handle s
  | .pageinFail handle => Sys2Proof.Machine.execPageinFail handle s
  | .missWayAllocate bank => Sys2Proof.Machine.execMissWayAllocate bank s
  | .sweepPass => Sys2Proof.Machine.execSweepPass s
  | .ctxWritebackDone handle => Sys2Proof.Machine.execCtxWritebackDone handle s
  | .ctxWritebackFail handle => Sys2Proof.Machine.execCtxWritebackFail handle s
  | .nodeWritebackDone node => Sys2Proof.Machine.execNodeWritebackDone node s
  | .ctxEccCorrected target => Sys2Proof.Machine.execCtxEccCorrected target s
  | .ctxEccUncorrectable target => Sys2Proof.Machine.execCtxEccUncorrectable target s
  | .ctxInstall => Sys2Proof.Machine.execCtxInstall s
  | .ctxArmNext => Sys2Proof.Machine.execCtxArmNext s
  | .ctxRetire => Sys2Proof.Machine.execCtxRetire s
  | .ctxAudit => Sys2Proof.Machine.execCtxAudit s
  | .ctxInit req => Sys2Proof.Machine.execCtxInit req s
  | .ctxFlush req => Sys2Proof.Machine.execCtxFlush req s
  | .retireHandle handle req => Sys2Proof.Machine.execRetireHandle handle req s
  | .ctxCmdDone => Sys2Proof.Machine.execCtxCmdDone s
  | .learnEnable value req => Sys2Proof.Machine.execLearnEnable value req s
  | .epochArm cell => Sys2Proof.Machine.execEpochArm cell s
  | .epochFlip cell => Sys2Proof.Machine.execEpochFlip cell s
  | .epochCtlArm req => Sys2Proof.Machine.execEpochCtlArm req s
  | .epochCtlSched req => Sys2Proof.Machine.execEpochCtlSched req s
  | .epochCtlCancel req => Sys2Proof.Machine.execEpochCtlCancel req s
  | .epochGuardClose => Sys2Proof.Machine.execEpochGuardClose s
  | .epochFlipDue => Sys2Proof.Machine.execEpochFlipDue s
  | .crownAccept => Sys2Proof.Machine.execCrownAccept s
  | .entryWriteDone cq => Sys2Proof.Machine.execEntryWriteDone cq s
  | .entryWriteFail cq => Sys2Proof.Machine.execEntryWriteFail cq s
  | .mirrorWriteIssue cq => Sys2Proof.Machine.execMirrorWriteIssue cq s
  | .mirrorWriteDone cq => Sys2Proof.Machine.execMirrorWriteDone cq s
  | .cqConsWrite cq value req => Sys2Proof.Machine.execCqConsWrite cq value req s
  | .fnCqConsWrite fn value req => Sys2Proof.Machine.execFnCqConsWrite fn value req s
  | .cqEnable cq value req => Sys2Proof.Machine.execCqEnable cq value req s
  | .cqDisable cq req => Sys2Proof.Machine.execCqDisable cq req s
  | .vectorTimerExpiry v => Sys2Proof.Machine.execVectorTimerExpiry v s
  | .eventMsgAccepted => Sys2Proof.Machine.execEventMsgAccepted s
  | .hostSleepEnter req => Sys2Proof.Machine.execHostSleepEnter req s
  | .hostSleepExit req => Sys2Proof.Machine.execHostSleepExit req s
  | .irqFlushAll req => Sys2Proof.Machine.execIrqFlushAll req s
  | .irqFlushVector v req => Sys2Proof.Machine.execIrqFlushVector v req s
  | .irqForceEvent v req => Sys2Proof.Machine.execIrqForceEvent v req s
  | .irqVecCfgWrite v value req => Sys2Proof.Machine.execIrqVecCfgWrite v value req s
  | .pageEventEnWrite page value req => Sys2Proof.Machine.execPageEventEnWrite page value req s
  | .digest ch => Sys2Proof.Machine.execDigest ch s
  | .hmac ch => Sys2Proof.Machine.execHmac ch s
  | .digestContinue ch => Sys2Proof.Machine.execDigestContinue ch s
  | .hmacLoad ch => Sys2Proof.Machine.execHmacLoad ch s
  | .hmacClear ch => Sys2Proof.Machine.execHmacClear ch s
  | .digestBudgetExpiry core => Sys2Proof.Machine.execDigestBudgetExpiry core s
  | .digestHoldTimeout ch => Sys2Proof.Machine.execDigestHoldTimeout ch s
  | .dcoreError core cause => Sys2Proof.Machine.execDcoreError core cause s
  | .dcoreCheckDone core pass => Sys2Proof.Machine.execDcoreCheckDone core pass s
  | .dcoreCheckRun core req => Sys2Proof.Machine.execDcoreCheckRun core req s
  | .dcoreErrorInject core value req => Sys2Proof.Machine.execDcoreErrorInject core value req s
  | .digestStateEcc ch => Sys2Proof.Machine.execDigestStateEcc ch s
  | .slotEccError slot => Sys2Proof.Machine.execSlotEccError slot s
  | .modexp ch => Sys2Proof.Machine.execModexp ch s
  | .ecdh ch => Sys2Proof.Machine.execEcdh ch s
  | .ecdsaSign ch => Sys2Proof.Machine.execEcdsaSign ch s
  | .ecdsaVerify ch => Sys2Proof.Machine.execEcdsaVerify ch s
  | .x25519 ch => Sys2Proof.Machine.execX25519 ch s
  | .ed25519Sign ch => Sys2Proof.Machine.execEd25519Sign ch s
  | .ed25519Verify ch => Sys2Proof.Machine.execEd25519Verify ch s
  | .mlkemKeygen ch => Sys2Proof.Machine.execMlkemKeygen ch s
  | .mlkemEncaps ch => Sys2Proof.Machine.execMlkemEncaps ch s
  | .mlkemDecaps ch => Sys2Proof.Machine.execMlkemDecaps ch s
  | .mldsaSign ch => Sys2Proof.Machine.execMldsaSign ch s
  | .mldsaVerify ch => Sys2Proof.Machine.execMldsaVerify ch s
  | .bnKeyLoad ch => Sys2Proof.Machine.execBnKeyLoad ch s
  | .bnKeyGen ch => Sys2Proof.Machine.execBnKeyGen ch s
  | .bnKeyClear ch => Sys2Proof.Machine.execBnKeyClear ch s
  | .bnBudgetExpiry unit => Sys2Proof.Machine.execBnBudgetExpiry unit s
  | .bnPrivPreempt unit => Sys2Proof.Machine.execBnPrivPreempt unit s
  | .bnRngTimeout ch => Sys2Proof.Machine.execBnRngTimeout ch s
  | .bnResplitDue ch => Sys2Proof.Machine.execBnResplitDue ch s
  | .bnCheckFail ch unit cause => Sys2Proof.Machine.execBnCheckFail ch unit cause s
  | .bnUnitCheckDone unit pass => Sys2Proof.Machine.execBnUnitCheckDone unit pass s
  | .bnKeyEcc ch => Sys2Proof.Machine.execBnKeyEcc ch s
  | .bnCheckRun req => Sys2Proof.Machine.execBnCheckRun req s
  | .bnChanCfgWrite ch value req => Sys2Proof.Machine.execBnChanCfgWrite ch value req s
  | .bnIdleHoldoff => Sys2Proof.Machine.execBnIdleHoldoff s
  | .bnErrorInject value req => Sys2Proof.Machine.execBnErrorInject value req s
  | .battBoundary batts => Sys2Proof.Machine.execBattBoundary batts s
  | .healthWindowEnd => Sys2Proof.Machine.execHealthWindowEnd s
  | .estimateWindowEnd => Sys2Proof.Machine.execEstimateWindowEnd s
  | .fullerStallTimeout => Sys2Proof.Machine.execFullerStallTimeout s
  | .instantiate => Sys2Proof.Machine.execInstantiate s
  | .reseed => Sys2Proof.Machine.execReseed s
  | .generateCall => Sys2Proof.Machine.execGenerateCall s
  | .rngReadyTimeout => Sys2Proof.Machine.execRngReadyTimeout s
  | .random => Sys2Proof.Machine.execRandom s
  | .randomTimeout => Sys2Proof.Machine.execRandomTimeout s
  | .rngSwDataRead req => Sys2Proof.Machine.execRngSwDataRead req s
  | .rngCellEnWrite value req => Sys2Proof.Machine.execRngCellEnWrite value req s
  | .reseedForce req => Sys2Proof.Machine.execReseedForce req s
  | .rawCaptureStart value req => Sys2Proof.Machine.execRawCaptureStart value req s
  | .rngDatapathError cleared => Sys2Proof.Machine.execRngDatapathError cleared s
  | .keyPortRequest => Sys2Proof.Machine.execKeyPortRequest s
  | .rootTransfer words last => Sys2Proof.Machine.execRootTransfer words last s
  | .keyPortTimeout => Sys2Proof.Machine.execKeyPortTimeout s
  | .keyPortRetryWait => Sys2Proof.Machine.execKeyPortRetryWait s
  | .keyDerive => Sys2Proof.Machine.execKeyDerive s
  | .kdf => Sys2Proof.Machine.execKdf s
  | .zeroize req => Sys2Proof.Machine.execZeroize req s
  | .attest req => Sys2Proof.Machine.execAttest req s
  | .attestDone => Sys2Proof.Machine.execAttestDone s
  | .pounceNow req => Sys2Proof.Machine.execPounceNow req s
  | .portRetry req => Sys2Proof.Machine.execPortRetry req s
  | .pounceDue => Sys2Proof.Machine.execPounceDue s
  | .pounceBankRemask bank => Sys2Proof.Machine.execPounceBankRemask bank s
  | .pouncePassDone => Sys2Proof.Machine.execPouncePassDone s
  | .pounceOverdue => Sys2Proof.Machine.execPounceOverdue s
  | .keyDatapathError cleared => Sys2Proof.Machine.execKeyDatapathError cleared s
  | .dmaShdArm ch req => Sys2Proof.Machine.execDmaShdArm ch req s
  | .dmaTransferEnd ch => Sys2Proof.Machine.execDmaTransferEnd ch s
  | .dmaRingPoll ch => Sys2Proof.Machine.execDmaRingPoll ch s
  | .dmaKick ch req => Sys2Proof.Machine.execDmaKick ch req s
  | .dmaResume ch req => Sys2Proof.Machine.execDmaResume ch req s
  | .dmaDisable ch req => Sys2Proof.Machine.execDmaDisable ch req s
  | .enum cell => Sys2Proof.Machine.execEnum cell s
  | .renum cell => Sys2Proof.Machine.execRenum cell s
  | .time cell => Sys2Proof.Machine.execTime cell s
  | .loop cell => Sys2Proof.Machine.execLoop cell s
  | .zeroizeAll cell => Sys2Proof.Machine.execZeroizeAll cell s
  | .sleepAll cell => Sys2Proof.Machine.execSleepAll cell s
  | .wake cell => Sys2Proof.Machine.execWake cell s
  | .bypassEnter cell => Sys2Proof.Machine.execBypassEnter cell s
  | .bypassLeave cell => Sys2Proof.Machine.execBypassLeave cell s
  | .msg cell => Sys2Proof.Machine.execMsg cell s
  | .msgSend value req => Sys2Proof.Machine.execMsgSend value req s
  | .msgPop req => Sys2Proof.Machine.execMsgPop req s
  | .ownCellSend => Sys2Proof.Machine.execOwnCellSend s
  | .cellCrcFail cell crc => Sys2Proof.Machine.execCellCrcFail cell crc s
  | .stompedCell cell => Sys2Proof.Machine.execStompedCell cell s
  | .unknownCell cell => Sys2Proof.Machine.execUnknownCell cell s
  | .upstreamLoss => Sys2Proof.Machine.execUpstreamLoss s
  | .upstreamSync => Sys2Proof.Machine.execUpstreamSync s
  | .downstreamTermCheck present => Sys2Proof.Machine.execDownstreamTermCheck present s
  | .holdReceived => Sys2Proof.Machine.execHoldReceived s
  | .timeStale => Sys2Proof.Machine.execTimeStale s
  | .clockTrip mon => Sys2Proof.Machine.execClockTrip mon s
  | .hbrefQualify => Sys2Proof.Machine.execHbrefQualify s
  | .sboscCountStart => Sys2Proof.Machine.execSboscCountStart s
  | .sboscJudged => Sys2Proof.Machine.execSboscJudged s
  | .sboscCountRestart => Sys2Proof.Machine.execSboscCountRestart s
  | .switchHandshakeTimeout => Sys2Proof.Machine.execSwitchHandshakeTimeout s
  | .pllLock pll => Sys2Proof.Machine.execPllLock pll s
  | .pllUnlock pll => Sys2Proof.Machine.execPllUnlock pll s
  | .pllRelockTimeout pll => Sys2Proof.Machine.execPllRelockTimeout pll s
  | .useHbref req => Sys2Proof.Machine.execUseHbref req s
  | .useSbosc req => Sys2Proof.Machine.execUseSbosc req s
  | .clkPllEnWrite value req => Sys2Proof.Machine.execClkPllEnWrite value req s
  | .clkEnWrite value req => Sys2Proof.Machine.execClkEnWrite value req s
  | .clkCompatWrite value req => Sys2Proof.Machine.execClkCompatWrite value req s
  | .clkMaskWrite mask value req => Sys2Proof.Machine.execClkMaskWrite mask value req s
  | .coreOn req => Sys2Proof.Machine.execCoreOn req s
  | .wakeCommand req => Sys2Proof.Machine.execWakeCommand req s
  | .cancelSleep req => Sys2Proof.Machine.execCancelSleep req s
  | .sleepGo target req => Sys2Proof.Machine.execSleepGo target req s
  | .sleepDrainDone => Sys2Proof.Machine.execSleepDrainDone s
  | .sleepSaveDone => Sys2Proof.Machine.execSleepSaveDone s
  | .sleepCommit => Sys2Proof.Machine.execSleepCommit s
  | .drainTimeout => Sys2Proof.Machine.execDrainTimeout s
  | .wakePin => Sys2Proof.Machine.execWakePin s
  | .wakeAccess write a => Sys2Proof.Machine.execWakeAccess write a s
  | .wakeTimer => Sys2Proof.Machine.execWakeTimer s
  | .wakeComplete keepOk bad => Sys2Proof.Machine.execWakeComplete keepOk bad s
  | .pgoodTimeout pd retryOk => Sys2Proof.Machine.execPgoodTimeout pd retryOk s
  | .pgoodLost pd => Sys2Proof.Machine.execPgoodLost pd s
  | .supplyGlitch sram => Sys2Proof.Machine.execSupplyGlitch sram s
  | .lanePark lane => Sys2Proof.Machine.execLanePark lane s
  | .quadPark quad => Sys2Proof.Machine.execQuadPark quad s
  | .vddAoUp windowBase => Sys2Proof.Machine.execVddAoUp windowBase s
  | .vddAoLoss => Sys2Proof.Machine.execVddAoLoss s
  | .qualInputActive input => Sys2Proof.Machine.execQualInputActive input s
  | .qualHoldDone input => Sys2Proof.Machine.execQualHoldDone input s
  | .qualShortPulse input => Sys2Proof.Machine.execQualShortPulse input s
  | .qualRearmExpiry input => Sys2Proof.Machine.execQualRearmExpiry input s
  | .tampQualClr value req => Sys2Proof.Machine.execTampQualClr value req s
  | .sensorQualify sensor => Sys2Proof.Machine.execSensorQualify sensor s
  | .tamperWipeDone => Sys2Proof.Machine.execTamperWipeDone s
  | .tamperDrainTimeout => Sys2Proof.Machine.execTamperDrainTimeout s
  | .tamperDrainDone => Sys2Proof.Machine.execTamperDrainDone s
  | .clearAlarm req => Sys2Proof.Machine.execClearAlarm req s
  | .tampSeal req => Sys2Proof.Machine.execTampSeal req s
  | .fltFuncForce fn req => Sys2Proof.Machine.execFltFuncForce fn req s
  | .fltFuncClear fn req => Sys2Proof.Machine.execFltFuncClear fn req s
  | .tileFenceFlushDone => Sys2Proof.Machine.execTileFenceFlushDone s
  | .selftestGo sel req => Sys2Proof.Machine.execSelftestGo sel req s
  | .selftestDone failed => Sys2Proof.Machine.execSelftestDone failed s
  | .perfTagCfgWrite value req => Sys2Proof.Machine.execPerfTagCfgWrite value req s
  | .perfSeedArrive => Sys2Proof.Machine.execPerfSeedArrive s
  | .perfTrcEnable value req => Sys2Proof.Machine.execPerfTrcEnable value req s
  | .fabricReadResponse port id resp bytes data => Sys2Proof.Machine.execFabricReadResponse port id resp bytes data s
  | .fabricWriteResponse port id resp => Sys2Proof.Machine.execFabricWriteResponse port id resp s
  | .fabricTimeout port write id => Sys2Proof.Machine.execFabricTimeout port write id s
  | .fabricLateResponse port write id => Sys2Proof.Machine.execFabricLateResponse port write id s
  | .wrapperInstruction code => Sys2Proof.Machine.execWrapperInstruction code s
  | .wrapperReset => Sys2Proof.Machine.execWrapperReset s
  | .registerRead a => Sys2Proof.Machine.execRegisterRead a s
  | .keyPortStrayWord => Sys2Proof.Machine.execKeyPortStrayWord s
  | .sensorRearmExpiry sensor => Sys2Proof.Machine.execSensorRearmExpiry sensor s
  | .laneUnparkDone lane => Sys2Proof.Machine.execLaneUnparkDone lane s
  | .mbistDone fail => Sys2Proof.Machine.execMbistDone fail s
  | .wrapperDataShift op => Sys2Proof.Machine.execWrapperDataShift op s

end Sys2Proof.Machine
end

