-- ==== Sys2Proof/Machine/Step.lean ====
section
/-! DEFINITION. One step of the tile: the command at the front of the queue takes effect. -/

namespace Sys2Proof.Machine

/-- The command at the front of the queue runs with the rest of the queue behind it. With no command waiting 32 QCLK cycles
pass: chain time and the age of the last TIME cell run on, a scheduled flip whose time has come takes place, and the handshake of
a reference switch ends (DESIGN CHOICE, notes/assumptions/1.md). -/
def step (s : State) : Host.Outcome State Fault Refusal :=
  match s.pending with
  | [] => .next s.idles
  | c :: rest => exec c { s with pending := rest }

/-- The state with the command that a word spells put at the front of its queue, unchanged where it spells none. -/
def State.withFetchWord (s : State) (nbits w : Nat) : State :=
  match decodeTableWord nbits w with
  | some c => { s with pending := c :: s.pending }
  | none => s

end Sys2Proof.Machine
end

