-- ==== Sys2Proof/Safety.lean ====
section
/-! DEFINITION. The terms in which claims are stated: when the control port performs a request, what its answer leaves, and
the canonical form of the machine's tables. -/

namespace Sys2Proof.Machine

/-! ## Requests that the control port performs -/

/-- Rows 1 to 8 of R29 do not apply to an administrator's request for a page, none waits before it, and the page exists: the
request is performed (row 9). The body of a page can also be gated (row 7). -/
structure State.Open (s : State) (p : PageRef) (body : Bool) (req : Req) : Prop where
  /-- the page is in the map (R26) -/
  inMap : pageOk p = true
  /-- the tile has an address (R25) -/
  addressed : s.tile.addr.isSome = true
  /-- no earlier request stalls (R364) -/
  nothingStalled : s.cp.stalled = []
  /-- the page is not in soft reset (R40) -/
  notInReset : (s.hdr p).softReset = false
  /-- the request is an administrator's (R32) -/
  administrator : req.priv = true
  /-- no domain is being woken (R29, row 2) -/
  notWaking : s.pwr.phase ≠ Phase.waking
  /-- the page is served while the port keeper stands behind the port (R29, row 3; R30) -/
  served : (s.keeper = false ∧ s.pwr.phase ≠ Phase.committed) ∨ PageKind.keeper p.kind = true
  /-- the tile is not FENCED, or the page is one of those that stay reachable (R29, row 6) -/
  notFenced : s.tile.st ≠ TileState.fenced ∨ PageKind.fixed p.kind = true
  /-- the page's body is not gated (R29, row 7; R31) -/
  notGated : body = true → s.gated p = false

/-- As above for a write of instance n of a register, with the expert lock open where the register needs it (R36). -/
structure State.OpenReg (s : State) (r : Reg) (n : Nat) (req : Req) : Prop where
  /-- the page is reached -/
  page : s.Open (regPage r n) true req
  /-- the expert lock of the page is open, if the register lies behind it -/
  unlocked : (r.desc.flds.any (fun f => f.acc == .rwx)) = true → s.lockOpen (regPage r n) = true

/-- The offset of instance n of a register in its page. -/
def regOff (r : Reg) (n : Nat) : Nat := r.desc.off + n % r.desc.count * r.desc.stride

/-- The answer to a performed write stands at the control port: OK with no data. -/
def State.answeredOk (s : State) : State := { s with cp := { s.cp with rsp := [⟨.ok, 0, 0⟩] } }

/-- The registers whose write does more than its fields say: commands, and registers that take a value only in some states. -/
def Reg.acts : Reg → Bool
  | .TILE_CMD | .TILE_WDOG_CTL | .TILE_WDOG_KICK | .RQ_BASE | .RQ_CFG | .RQ_HEAD | .RQ_KICK | .FN_RQ_KICK
  | .LANE_CHECK | .LANE_XINJECT | .CTX_STORE_BASE | .CTX_TREE_BASE | .CTX_CFG | .CTX_CMD | .CTX_LEARN_BASE
  | .CTX_LEARN_MIRROR | .CTX_LEARN_CFG | .CTX_LEARN_CONS | .EPOCH_PEND | .EPOCH_TIME | .EPOCH_CTL | .CQ_BASE
  | .CQ_MIRROR | .CQ_HEAD | .CQ_CFG | .CQ_CONS | .IRQ_CTL | .IRQ_FLUSH | .IRQ_VEC_CFG | .IRQ_XFORCE | .FN_CQ_CONS
  | .DG_SAVE_BASE | .DG_XRESERVE | .DCORE_CHECK | .DCORE_XINJECT | .BN_CHECK | .BN_CHAN_CFG | .BN_XINJECT
  | .RNG_HEALTH_CFG | .RNG_CELL_EN | .RNG_RESEED_CFG | .RNG_PRIV_RESERVE | .KEY_CMD | .KEY_ATT_CHAL | .DCH_CFG | .DCH_CTL | .DCH_ARM | .DCH_SHD_CTL
  | .DCH_SHD_SRC | .DCH_SHD_DST | .DCH_RING_BASE | .DCH_RING_HEAD | .DCH_X2D_SRC | .DCH_X2D_DST | .HB_MSG_TX_CTL
  | .HB_MSG_RX_STS | .CLK_REF_CFG | .CLK_CMD | .CLK_PLL_EN | .CLK_EN | .CLK_COMPAT | .CLK_RUN_EN | .CLK_SLEEP_EN
  | .CLK_DEEPSLEEP_EN | .PWR_CMD | .PWR_SLEEP | .TAMP_CMD | .TAMP_QUAL_CLR | .TAMP_SENS_STS | .FLT_FUNC
  | .FLT_FUNC_FORCE | .TAMP_XIN_CFG | .TAMP_XSENS_CFG | .TILE_SELFTEST | .PERF_TAG_CFG | .PERF_TRC_BASE
  | .PERF_TRC_MIRROR | .PERF_TRC_CFG | .PERF_TRC_CONS | .FN_TRC_BASE | .FN_TRC_MIRROR | .FN_TRC_CFG | .FN_TRC_CONS => true
  | _ => false

/-- A write of the register takes its fields alone (R10): it neither starts anything nor clears a record. -/
def Reg.plain (r : Reg) : Bool := !r.acts && r.record.isNone

/-! ## The canonical form of the tables -/

/-- Each header stands once, in the order of the pages, and none that is as at reset is listed. -/
def hdrsOk (t : Tbl Hdr) : Bool := Tbl.wf Hdr.resetAt t

/-- Each register stands once, in the order of the places, and none that holds its reset value is listed. -/
def regsOk (t : Tbl W64) : Bool := Tbl.wf regDefault t

/-- The register file and the headers have their canonical form, so that states with equal registers and headers are equal in
both. -/
def State.Canonical (s : State) : Prop := regsOk s.regs = true ∧ hdrsOk s.hdrs = true

/-! ## Frames -/

/-- The parts of the tile whose change a command can be held to. -/
inductive Part where
  /-- the chain address -/
  | addr
  /-- the tile state machine but for the address and the strapped base -/
  | tile
  /-- the control port: its answer and what stalls -/
  | cp
  /-- a register that only software writes -/
  | config
  /-- the register file -/
  | regs
  /-- what the page headers hold beside the bits below: block states, enables, locks, owners, fences -/
  | blocks
  /-- the fault and event bits and the retry counts of the page headers -/
  | hdrs
  /-- the interrupt unit -/
  | irq
  /-- the queue engine -/
  | qeng
  /-- the crown -/
  | crown
  /-- the fabric ports -/
  | fab
  /-- quads, lanes and frames -/
  | frames
  /-- the context store -/
  | ctx
  /-- the epoch logic -/
  | epoch
  /-- the digest engine -/
  | digest
  /-- the big-number engine -/
  | bignum
  /-- the random number source -/
  | rng
  /-- the root and the keys WRAP and TREE -/
  | custody
  /-- the rest of key custody -/
  | key
  /-- the DMA engine -/
  | dma
  /-- the Hatband -/
  | hb
  /-- the clocks -/
  | clk
  /-- the power sequencer, but for the events latched in sleep -/
  | pwr
  /-- the tamper logic -/
  | tamp
  /-- performance and trace -/
  | perf
  /-- the test wrapper -/
  | wrap
  /-- results under way to memory -/
  | finishes
deriving DecidableEq, Repr

/-- Registers that hold what software wrote: no unit of the tile writes them by itself. -/
def Reg.configured : Reg → Bool
  | .TILE_SCRATCH | .TILE_WDOG_CTL | .TILE_ERR_MODE | .TILE_TRANS_TMO | .QENG_CTL | .QENG_XFETCH | .RQ_BASE
  | .RQ_SCHED | .RQ_POLL | .RQ_XPREF | .RQ_XDOZE | .RQ_XTORN | .FN_RQ_SEL | .LANE_XCHECK | .QUAD_LANE_EN | .QUAD_AFAIL
  | .QUAD_XLANE | .CTX_STORE_BASE | .CTX_TREE_BASE | .CTX_CFG | .CTX_PN_MARGIN | .CTX_LEARN_BASE | .CTX_LEARN_MIRROR
  | .CTX_XSWEEP | .CTX_XMISS | .EPOCH_CTL | .EPOCH_EXPECT | .EPOCH_RXOVL | .EPOCH_XGUARD | .CROWN_XPRIO | .CQ_BASE
  | .CQ_MIRROR | .CQ_XQUOTA | .CQ_XCOALESCE | .IRQ_SEL | .FN_CQ_SEL | .DG_SLICE | .DG_HOLD | .DG_RES_FUNC
  | .DG_SAVE_BASE | .DG_SAVE_CTL | .DG_XRESERVE | .BN_SLICE | .BN_IDLE | .BN_XRNG | .BN_XRESPLIT | .RNG_RESEED_CFG
  | .RNG_PRIV_RESERVE | .RNG_HEALTH_CFG | .RNG_TMO | .RNG_EST_CFG | .RNG_XRAW_BASE | .RNG_XCELL | .KEY_ATT_CHAL
  | .KEY_XPOUNCE | .KEY_XPORT | .DMA_ARB | .DMA_XRECOVER | .DCH_CFG | .DCH_RING_BASE | .DCH_X2D_SRC | .DCH_X2D_DST
  | .HB_CELL_EN | .HB_WIRE_IN | .HB_MSG_TX_DATA | .HB_XTIME | .HB_XCELL | .CLK_REF_CFG | .CLK_COMPAT | .CLK_SLEEP_EN
  | .CLK_DEEPSLEEP_EN | .CLK_XMON | .CLK_XSWITCH | .PWR_SLEEP | .PWR_WAKE_CFG | .PWR_PARK | .PWR_XSEQ
  | .TAMP_XSENS_CFG | .TAMP_XQUAL | .PERF_TAG_CFG | .PERF_TRC_BASE | .PERF_TRC_MIRROR | .PERF_WATCH | .PERF_XFREEZE
  | .FN_TRC_BASE | .FN_TRC_MIRROR | .FAB_XTMO => true
  | _ => false

/-- A header without its fault and event bits and its retry counts. -/
def Hdr.state (h : Hdr) : Hdr := { h with fault := 0, event := 0, transient := 0, lasting := 0 }

/-- What a command keeps whose effect lies within the parts F: every part outside F is as before; and whatever it does, the
queue of commands and the strapped base stay, jobs and free values are counted upwards, and registers and headers keep their
canonical form. -/
structure State.Within (F : Part → Bool) (s t : State) : Prop where
  pending : t.pending = s.pending
  base : t.tile.windowBase = s.tile.windowBase
  job : s.nextJob ≤ t.nextJob
  free : s.freeCtr ≤ t.freeCtr
  canonical : s.Canonical → t.Canonical
  addr : F .addr = false → t.tile.addr = s.tile.addr
  tile : F .tile = false → { t.tile with addr := none } = { s.tile with addr := none }
  config : F .config = false → ∀ r n, Reg.configured r = true → t.reg r n = s.reg r n
  custody : F .custody = false → t.key.root = s.key.root ∧ t.key.wrap = s.key.wrap ∧ t.key.tree = s.key.tree
  key : F .key = false →
    { t.key with root := none, wrap := none, tree := none } = { s.key with root := none, wrap := none, tree := none }
  blocks : F .blocks = false → ∀ p, Hdr.state (t.hdrAt p) = Hdr.state (s.hdrAt p)
  pwr : F .pwr = false → { t.pwr with latched := [] } = { s.pwr with latched := [] }
  cp : F .cp = false → t.cp = s.cp
  regs : F .regs = false → t.regs = s.regs
  hdrs : F .hdrs = false → t.hdrs = s.hdrs
  irq : F .irq = false → t.irq = s.irq
  qeng : F .qeng = false → t.qeng = s.qeng
  crown : F .crown = false → t.crown = s.crown
  fab : F .fab = false → t.fab = s.fab
  frames : F .frames = false → t.frames = s.frames
  ctx : F .ctx = false → t.ctx = s.ctx
  epoch : F .epoch = false → t.epoch = s.epoch
  digest : F .digest = false → t.digest = s.digest
  bignum : F .bignum = false → t.bignum = s.bignum
  rng : F .rng = false → t.rng = s.rng
  dma : F .dma = false → t.dma = s.dma
  hb : F .hb = false → t.hb = s.hb
  clk : F .clk = false → t.clk = s.clk
  tamp : F .tamp = false → t.tamp = s.tamp
  perf : F .perf = false → t.perf = s.perf
  wrap : F .wrap = false → t.wrap = s.wrap
  finishes : F .finishes = false → t.finishes = s.finishes

/-- A set of parts given by a list. -/
def only (l : List Part) (p : Part) : Bool := l.contains p

/-- The parts of the tile within which the effect of a command lies. -/
def partsOf : Instr → List Part
  | .registerWrite _ | .pageLockWrite _ _ _ | .blockEnWrite _ _ _ | .softReset _ _ | .softResetDone _
  | .pageOwnerWrite _ _ _ | .pageFenceForce _ _ | .bringUpDone _ | .enterTest _ | .leaveTest _ | .fenceTile _
  | .unfenceTile _ | .wdogKick _ _ | .rqKick _ _ _ | .fnRqKick _ _ _ | .rqEnable _ _ _ | .rqDisable _ _
  | .qengPause _ _ | .laneCheckRun _ _ | .laneErrorInject _ _ _ | .ctxInit _ | .ctxFlush _ | .retireHandle _ _
  | .learnEnable _ _ | .epochCtlArm _ | .epochCtlSched _ | .epochCtlCancel _ | .cqConsWrite _ _ _
  | .fnCqConsWrite _ _ _ | .cqEnable _ _ _ | .cqDisable _ _ | .hostSleepEnter _ | .hostSleepExit _ | .irqFlushAll _
  | .irqFlushVector _ _ | .irqForceEvent _ _ | .irqVecCfgWrite _ _ _ | .pageEventEnWrite _ _ _ | .dcoreCheckRun _ _
  | .dcoreErrorInject _ _ _ | .bnCheckRun _ | .bnChanCfgWrite _ _ _ | .bnErrorInject _ _ | .rngSwDataRead _
  | .rngCellEnWrite _ _ | .reseedForce _ | .rawCaptureStart _ _ | .zeroize _ | .attest _ | .pounceNow _
  | .portRetry _ | .dmaShdArm _ _ | .dmaKick _ _ | .dmaResume _ _ | .dmaDisable _ _ | .msgSend _ _ | .msgPop _
  | .clockTrip _ | .hbrefQualify | .sboscJudged | .pllLock _ | .pllUnlock _ | .useHbref _ | .useSbosc _
  | .clkPllEnWrite _ _ | .clkEnWrite _ _ | .clkCompatWrite _ _ | .clkMaskWrite _ _ _ | .coreOn _ | .wakeCommand _
  | .cancelSleep _ | .sleepGo _ _ | .sleepCommit | .wakeAccess _ _ | .tampQualClr _ _ | .clearAlarm _ | .tampSeal _
  | .fltFuncForce _ _ | .fltFuncClear _ _ | .selftestGo _ _ | .perfTagCfgWrite _ _ | .perfTrcEnable _ _
  | .registerRead _ =>
    [.tile, .cp, .config, .regs, .blocks, .hdrs, .irq, .qeng, .crown, .fab, .frames, .ctx, .epoch, .digest, .bignum,
      .rng, .custody, .key, .dma, .hb, .clk, .pwr, .tamp, .perf, .wrap, .finishes]
  | .cpUnaddressedAccess _ _ =>
    [.cp]
  | .lockArmTimeout _ =>
    [.blocks, .hdrs, .irq]
  | .blockInitDone _ | .battBoundary _ | .instantiate =>
    [.regs, .blocks, .hdrs, .irq, .qeng, .crown, .fab, .ctx, .digest, .rng, .key, .perf]
  | .blockShutdownDone _ =>
    [.regs, .blocks, .hdrs, .irq, .qeng, .crown, .fab, .frames, .ctx, .digest, .bignum, .rng, .custody, .key, .dma,
      .clk, .perf, .finishes]
  | .transitionTimeout _ | .frameStaged _ | .laneError _ _ _ _ | .laneCheckDone _ _ | .stagingEccError _ _
  | .ctxEccUncorrectable _ | .digest _ | .hmac _ | .digestContinue _ | .dcoreError _ _ | .dcoreCheckDone _ _
  | .bnUnitCheckDone _ _ | .rngDatapathError _ | .fabricReadResponse _ _ _ _ _ | .fabricWriteResponse _ _ _
  | .fabricTimeout _ _ _ | .ctxInstall | .ctxArmNext | .hmacLoad _ | .modexp _ | .ecdh _ | .ecdsaSign _
  | .ecdsaVerify _ | .x25519 _ | .ed25519Sign _ | .ed25519Verify _ | .mlkemKeygen _ | .mlkemEncaps _ | .mlkemDecaps _
  | .mldsaSign _ | .mldsaVerify _ | .bnKeyLoad _ | .bnKeyGen _ | .bnKeyClear _ | .kdf | .attestDone =>
    [.regs, .blocks, .hdrs, .irq, .qeng, .crown, .fab, .frames, .ctx, .digest, .bignum, .rng, .key, .dma, .perf,
      .finishes]
  | .registerParityError _ =>
    [.tile, .config, .regs, .blocks, .hdrs, .irq, .qeng, .crown, .fab, .frames, .ctx, .epoch, .digest, .bignum, .rng,
      .key, .dma, .pwr, .perf, .finishes]
  | .runIdleTimeout =>
    [.tile, .regs, .blocks, .hdrs, .rng, .key, .wrap]
  | .wdogExpiry =>
    [.tile, .regs, .hdrs, .irq, .qeng, .crown, .fab, .frames, .ctx, .digest, .bignum, .rng, .key, .pwr, .perf,
      .finishes]
  | .rqPoll _ | .rqDozePoll _ =>
    [.regs, .hdrs, .irq, .qeng, .fab]
  | .descFetchDone _ | .descFetchFail _ =>
    [.regs, .hdrs, .irq, .qeng, .crown, .fab, .perf]
  | .schedIssue =>
    [.regs, .hdrs, .irq, .qeng, .crown, .fab]
  | .chainNextDispatch _ | .dispatch _ =>
    [.tile, .regs, .blocks, .hdrs, .irq, .qeng, .crown, .fab, .ctx, .digest, .bignum, .rng, .key, .wrap]
  | .marker _ =>
    [.tile, .regs, .blocks, .hdrs, .irq, .qeng, .crown, .fab, .rng, .key, .wrap]
  | .frameDispatch _ =>
    [.tile, .regs, .blocks, .hdrs, .irq, .qeng, .crown, .fab, .frames, .ctx, .rng, .key, .clk, .wrap]
  | .macsecProtect _ | .macsecValidate _ | .espEncrypt _ | .espDecrypt _ | .gcmSeal _ | .gcmOpen _ | .chachaSeal _
  | .chachaOpen _ | .frameDstWritesDone _ | .laneReplayStart _ | .pageinFail _ =>
    [.regs, .blocks, .hdrs, .irq, .qeng, .crown, .fab, .frames, .ctx, .digest, .rng, .key, .perf]
  | .lanePark _ =>
    [.regs, .hdrs, .irq, .frames]
  | .lanePeriodicCheck _ | .laneUnparkDone _ =>
    [.frames]
  | .afailWindowEnd _ =>
    [.regs, .frames]
  | .pageinDone _ | .sweepPass | .ctxWritebackDone _ | .ctxWritebackFail _ | .nodeWritebackDone _ | .ctxRetire =>
    [.regs, .hdrs, .irq, .qeng, .crown, .fab, .ctx, .key]
  | .missWayAllocate _ =>
    [.regs, .hdrs, .irq, .fab, .ctx]
  | .ctxEccCorrected _ | .eventMsgAccepted | .supplyGlitch _ =>
    [.regs, .hdrs, .irq]
  | .ctxAudit =>
    [.regs, .hdrs, .irq, .qeng, .crown, .fab, .ctx, .key, .finishes]
  | .ctxCmdDone =>
    [.regs, .ctx]
  | .epochArm _ | .epochFlip _ | .epochFlipDue | .time _ =>
    [.regs, .hdrs, .irq, .epoch, .hb]
  | .epochGuardClose | .loop _ | .bypassEnter _ | .bypassLeave _ | .stompedCell _ | .unknownCell _ =>
    [.regs, .hb]
  | .crownAccept =>
    [.regs, .hdrs, .irq, .qeng, .crown, .fab, .ctx, .digest, .bignum, .key, .dma, .perf]
  | .entryWriteDone _ =>
    [.hdrs, .irq, .crown, .fab]
  | .entryWriteFail _ =>
    [.regs, .hdrs, .irq, .qeng, .crown, .fab, .digest, .dma, .perf]
  | .mirrorWriteIssue _ | .mirrorWriteDone _ =>
    [.regs, .hdrs, .irq, .crown, .fab]
  | .vectorTimerExpiry _ =>
    [.irq]
  | .hmacClear _ =>
    [.regs, .hdrs, .irq, .crown, .fab, .digest, .key]
  | .digestBudgetExpiry _ | .slotEccError _ =>
    [.regs, .hdrs, .irq, .digest]
  | .digestHoldTimeout _ =>
    [.regs, .hdrs, .irq, .crown, .digest]
  | .digestStateEcc _ =>
    [.regs, .hdrs, .irq, .qeng, .crown, .fab, .ctx, .digest, .bignum, .rng, .key]
  | .bnBudgetExpiry _ | .bnPrivPreempt _ =>
    [.regs, .hdrs, .irq, .bignum]
  | .bnRngTimeout _ | .bnKeyEcc _ =>
    [.regs, .hdrs, .irq, .qeng, .crown, .fab, .digest, .bignum, .rng, .key]
  | .bnResplitDue _ =>
    [.bignum, .rng]
  | .bnCheckFail _ _ _ =>
    [.regs, .hdrs, .irq, .fab, .digest, .bignum, .rng]
  | .bnIdleHoldoff =>
    [.hdrs, .irq]
  | .healthWindowEnd =>
    [.rng]
  | .estimateWindowEnd =>
    [.regs, .hdrs, .irq, .rng]
  | .fullerStallTimeout | .rngReadyTimeout =>
    [.hdrs, .irq, .rng]
  | .reseed =>
    [.regs, .hdrs, .irq, .qeng, .crown, .fab, .ctx, .digest, .rng, .key, .perf]
  | .generateCall =>
    [.regs, .blocks, .hdrs, .irq, .qeng, .crown, .fab, .ctx, .digest, .bignum, .rng, .custody, .key, .perf]
  | .random =>
    [.regs, .hdrs, .irq, .qeng, .crown, .fab, .rng, .finishes]
  | .randomTimeout =>
    [.hdrs, .irq, .crown, .rng]
  | .keyPortRequest =>
    [.key]
  | .rootTransfer _ _ | .keyPortTimeout | .pouncePassDone =>
    [.regs, .hdrs, .irq, .rng, .key]
  | .keyPortRetryWait =>
    [.rng, .key]
  | .pounceDue =>
    [.ctx, .digest, .rng, .key]
  | .keyDerive =>
    [.regs, .blocks, .hdrs, .irq, .qeng, .crown, .fab, .frames, .ctx, .digest, .bignum, .rng, .custody, .key, .dma,
      .perf, .finishes]
  | .pounceBankRemask _ =>
    [.regs, .hdrs, .irq, .crown, .fab, .ctx, .digest, .rng, .key]
  | .pounceOverdue =>
    [.regs, .hdrs, .irq, .key]
  | .keyDatapathError _ =>
    [.tile, .regs, .hdrs, .irq, .qeng, .crown, .fab, .frames, .ctx, .digest, .bignum, .rng, .custody, .key, .pwr,
      .perf, .finishes]
  | .dmaTransferEnd _ =>
    [.regs, .hdrs, .irq, .crown, .fab, .dma]
  | .dmaRingPoll _ =>
    [.regs, .hdrs, .irq, .fab, .dma]
  | .enum _ =>
    [.addr, .tile, .regs, .blocks, .hdrs, .irq, .rng, .key, .hb, .wrap]
  | .renum _ =>
    [.addr, .tile, .regs, .blocks, .hdrs, .rng, .key, .hb, .wrap]
  | .zeroizeAll _ | .qualHoldDone _ | .qualShortPulse _ | .sensorQualify _ =>
    [.tile, .regs, .blocks, .hdrs, .irq, .qeng, .crown, .fab, .frames, .ctx, .digest, .bignum, .rng, .custody, .key,
      .dma, .hb, .pwr, .tamp, .perf, .wrap, .finishes]
  | .sleepAll _ =>
    [.regs, .hdrs, .irq, .qeng, .crown, .fab, .hb, .pwr, .perf]
  | .wake _ =>
    [.regs, .hdrs, .irq, .digest, .key, .hb, .pwr]
  | .msg _ | .cellCrcFail _ _ =>
    [.regs, .hdrs, .irq, .hb]
  | .ownCellSend | .upstreamSync | .holdReceived | .timeStale =>
    [.hb]
  | .upstreamLoss | .downstreamTermCheck _ =>
    [.hdrs, .irq, .hb]
  | .sboscCountStart =>
    [.clk]
  | .sboscCountRestart =>
    [.regs, .hdrs, .irq, .clk]
  | .switchHandshakeTimeout =>
    [.regs, .hdrs, .irq, .fab, .hb, .clk]
  | .pllRelockTimeout _ =>
    [.tile, .regs, .blocks, .hdrs, .irq, .qeng, .crown, .fab, .frames, .ctx, .digest, .bignum, .rng, .key, .dma,
      .clk, .pwr, .perf, .finishes]
  | .sleepDrainDone =>
    [.regs, .hdrs, .irq, .qeng, .crown, .fab, .ctx, .digest, .key, .pwr]
  | .sleepSaveDone =>
    [.regs, .hdrs, .irq, .fab, .digest, .key, .pwr]
  | .drainTimeout | .wakeTimer =>
    [.regs, .hdrs, .irq, .digest, .key, .pwr]
  | .wakePin =>
    [.regs, .hdrs, .irq, .digest, .key, .pwr, .tamp]
  | .wakeComplete _ _ =>
    [.tile, .config, .regs, .blocks, .hdrs, .irq, .qeng, .crown, .fab, .frames, .ctx, .digest, .bignum, .rng,
      .custody, .key, .dma, .clk, .pwr, .perf, .wrap, .finishes]
  | .pgoodTimeout _ _ =>
    [.tile, .config, .regs, .blocks, .hdrs, .irq, .qeng, .crown, .fab, .frames, .ctx, .digest, .bignum, .rng, .key,
      .dma, .pwr, .perf, .finishes]
  | .pgoodLost _ =>
    [.tile, .regs, .blocks, .hdrs, .irq, .qeng, .crown, .fab, .frames, .ctx, .digest, .bignum, .rng, .key, .dma,
      .pwr, .perf, .finishes]
  | .quadPark _ =>
    [.frames, .clk]
  | .qualInputActive _ =>
    [.rng, .key, .tamp]
  | .qualRearmExpiry _ | .sensorRearmExpiry _ =>
    [.tamp]
  | .tamperWipeDone =>
    [.hdrs, .irq, .tamp]
  | .tamperDrainTimeout =>
    [.regs, .hdrs, .irq, .crown, .fab, .perf]
  | .tamperDrainDone =>
    [.tile, .regs, .blocks, .hdrs, .irq, .qeng, .crown, .fab, .frames, .ctx, .digest, .bignum, .rng, .custody, .key,
      .dma, .clk, .tamp, .perf, .wrap]
  | .tileFenceFlushDone =>
    [.tile, .regs, .blocks, .hdrs, .irq, .qeng, .crown, .fab, .frames, .ctx, .digest, .bignum, .rng, .key, .dma,
      .perf, .wrap, .finishes]
  | .selftestDone _ =>
    [.tile, .regs, .blocks, .hdrs, .irq, .qeng, .crown, .fab, .frames, .ctx, .digest, .bignum, .rng, .custody, .key,
      .dma, .pwr, .perf, .finishes]
  | .perfSeedArrive =>
    [.rng, .perf]
  | .fabricLateResponse _ _ _ =>
    [.regs, .hdrs, .irq, .fab]
  | .wrapperInstruction _ | .wrapperReset | .mbistDone _ | .wrapperDataShift _ =>
    [.wrap]
  | .keyPortStrayWord =>
    [.regs]
  | .vddAoUp _ | .vddAoLoss =>
    [.addr, .tile, .cp, .config, .regs, .blocks, .hdrs, .irq, .qeng, .crown, .fab, .frames, .ctx, .epoch, .digest,
      .bignum, .rng, .custody, .key, .dma, .hb, .clk, .pwr, .tamp, .perf, .wrap, .finishes]

end Sys2Proof.Machine
end

