-- ==== Sys2Proof/Terms.lean ====
section
/-! DEFINITION. More of the terms in which claims are stated: completions on their way to the crown, writes that a client may make
too, and registers that have taken what was written. -/

namespace Sys2Proof.Machine

/-- The time that a step on an empty queue lets pass reaches the time of a scheduled flip (R136, log entry 1). -/
def State.flipComes (s : State) : Bool :=
  s.tile.st != .powerOff && s.epoch.scheduled &&
    decide (16 * s.fld EPOCH_TIME.TIME 0 ≤ s.hb.time + (16000 + (slewStep s.hb.slew s.hb.slewAcc).1).toNat)

/-- A switch of the reference is under way whose two clocks both show edges: its handshake ends now (R299, log entry 120). -/
def State.switchDue (s : State) : Bool := s.clk.ref == .switching && s.fromRuns && s.targetGood

/-- No core is to meet an error that DCORE_XINJECT asks for (R187). -/
def State.NoInjection (s : State) : Prop := s.tile.st = .test → ∀ n, n < 4 → s.flag DCORE_XINJECT.ARM n = false

/-- The completions that a producer has pushed and the crown has not taken: those in its FIFO and those that stall behind it
(R149). -/
def State.produced (s : State) (p : Nat) : List Compl :=
  s.fifo p ++ (s.crown.stalled.filter (fun x => x.1 == p)).map (fun x => x.2)

/-- From s to t, producer p has pushed one completion, of element e, with a status and a reason; what it had pushed before
is still there. -/
def State.Completes (s t : State) (p : Nat) (e : Elem) (status reason : Nat) : Prop :=
  ∃ k : Compl, (t.produced p).Perm (k :: s.produced p) ∧ k.status = status ∧ k.reason = reason ∧ k.elem.rq = e.rq ∧
    k.elem.idx = e.idx ∧ k.elem.lap = e.lap ∧ k.elem.func = e.func ∧ k.elem.cq = e.cq ∧ k.elem.d = e.d

/-- A write of instance n of a register is performed, be it an administrator's or, where R32 lets one reach the register, a
client's. -/
def State.Reach (s : State) (r : Reg) (n : Nat) (req : Req) : Prop :=
  s.OpenReg r n { req with priv := true } ∧ s.reaches true (regPage r n) (regOff r n) req = true

/-- From s to t a register has taken a written word: its RW and RWX fields hold it, its W1C bits written 1 are cleared, its other
bits stay (R10). -/
def State.Took (s t : State) (r : Reg) (n : Nat) (v : W32) : Prop :=
  ∀ i, i < 32 → (t.reg r n).getLsbD i =
    (if (r.bitsOf (fun a => a == .rw || a == .rwx)).getLsbD i then v.getLsbD i
     else if (r.bitsOf (fun a => a == .w1c)).getLsbD i then (s.reg r n).getLsbD i && !v.getLsbD i
     else (s.reg r n).getLsbD i)

/-- The request j stands alone at big-number channel c, which runs on the unit of its opcode with its input read, and no error is
to be injected into it (R197, R200, R211). -/
structure State.BnEnds (s : State) (c : Nat) (j : Job) : Prop where
  /-- the tile works -/
  works : s.working = true
  /-- the channel exists -/
  channel : c < 64
  /-- its queue holds the request alone -/
  alone : (s.bnChan c).queue = [j]
  /-- it is RUNNING -/
  running : (s.bnChan c).st = .running
  /-- it is on the unit -/
  onUnit : (s.bnUnit (bnUnitOf j.elem.d.opcode)).chan = some c
  /-- the request was accepted -/
  accepted : j.phase = 1
  /-- its input is in -/
  input : j.ready = true
  /-- its digest output is in -/
  hashed : (s.bnChan c).hash = false
  /-- no error is due in it -/
  clean : s.bnInjects (bnUnitOf j.elem.d.opcode) (s.bnChan c) = false

/-- From s to t the request j of channel c ends with status OK, an output and, for MLKEM_ENCAPS, a ciphertext: it leaves the
channel and the unit. What goes to memory is written and the completion waits for the responses; a secret goes to the chain's
entry (R193, R206). -/
def State.BnDone (s t : State) (c : Nat) (j : Job) (out aux : Bytes) : Prop :=
  let d := j.elem.d
  let parts := (if d.secretHandoff ∨ out = [] then [] else [(d.dst, out)]) ++ (if aux = [] then [] else [(d.aux0, aux)])
  (t.bnChan c).queue = [] ∧ (t.bnUnit (bnUnitOf d.opcode)).chan ≠ some c ∧
  (parts = [] → s.Completes t 20 j.elem stOk 0 ∧
    ∀ i x, d.secretHandoff = true → s.cbEntry j.elem = some (i, x) →
      Tbl.get {} t.qeng.cbuf i = { x with secret := out }) ∧
  (parts ≠ [] → ∃ f, t.finishes = s.finishes ++ [f] ∧ f.job = j.id ∧ f.producer = 20 ∧ f.compl.status = stOk ∧
    f.compl.outLen = (if d.secretHandoff then 0 else out.length) ∧ f.secret = (if d.secretHandoff then out else []) ∧
    t.fab = (parts.foldl (fun s p => (s.startWrite (.elemWrite j.id) j.elem.attr p.1 p.2 none).2) s).fab)

/-- From s to t the request j of channel c ends with a status and a reason, and leaves the channel. -/
def State.BnStops (s t : State) (c : Nat) (j : Job) (status reason : Nat) : Prop :=
  s.Completes t 20 j.elem status reason ∧ (t.bnChan c).queue = [] ∧
    ∀ i x, j.elem.d.secretHandoff = true → s.cbEntry j.elem = some (i, x) → Tbl.get {} t.qeng.cbuf i = { x with secret := [] }

/-- From s to t big-number channel c keeps its key, under whatever mask (R190, R202). -/
def State.BnKeeps (s t : State) (c : Nat) : Prop :=
  ((t.bnChan c).key.map (fun k => (k.param, k.len, k.bytes c))) = ((s.bnChan c).key.map (fun k => (k.param, k.len, k.bytes c)))

/-- From s to t the DMA engine has pushed one event of a vector (R149). -/
def State.Signals (s t : State) (v : Nat) : Prop :=
  ∃ k : Compl, (t.produced 24).Perm (k :: s.produced 24) ∧ k.vec = some v

/-- From s to t the armed shadow set of DMA channel c has become its current set: it is zero and not armed any more, and the
transfer runs, or ends with the status of the first row of R259 that refuses it. -/
def State.DmaStarts (s t : State) (c : Nat) : Prop :=
  t.reg .DCH_CUR_CTL c = s.reg .DCH_SHD_CTL c ∧ t.reg .DCH_CUR_SRC c = s.reg .DCH_SHD_SRC c ∧
  t.reg .DCH_CUR_DST c = s.reg .DCH_SHD_DST c ∧ t.reg .DCH_SHD_CTL c = 0 ∧ t.reg .DCH_SHD_SRC c = 0 ∧
  t.reg .DCH_SHD_DST c = 0 ∧ t.flag DCH_ARM.SHD_ARM c = false ∧ (t.dch c).curIdx = (s.dch c).shdIdx ∧
  (t.dmaRefusal c = none → (t.dch c).st = .running) ∧
  ∀ st, t.dmaRefusal c = some st → (t.dch c).st = .ending ∧ (t.dch c).status = some st

/-- The cell that leaves hb_out where c came in and was held for k characters (R274, R278, R280, R284): an ENUM that gives the tile
its address leaves with the next one, TIME and LOOP with one hop more and the delay of the wire, of the tile and of those
characters added; every other cell leaves unchanged. -/
def State.forwarded (s : State) (c : Cell) (k : Nat) : Cell :=
  if cellByte c 0 = 1 ∧ s.tile.addr = none ∧ s.hb.bypass = false ∧ cellByte c 1 ≤ 63 then cellPut c 1 1 (cellByte c 1 + 1)
  else if cellByte c 0 = 3 ∨ cellByte c 0 = 4 then
    cellPut (cellPut c 1 1 ((cellByte c 1 + 1) % 256)) 10 3 ((cellNum c 10 3 + s.fld HB_WIRE_IN.DELAY 0 + 1536 + 128 * k) % 2 ^ 24)
  else c

/-- From s to t the cell c that came in has left hb_out, its CRC changed by stomp. Behind a cell of the tile's own that is going out it
was held for at most 17 characters, behind a held one for at most as many as that, and otherwise not at all (R284). Where hb_out is
at electrical idle nothing leaves (R296). -/
def State.SentOn (s t : State) (c : Cell) (stomp : BitVec 16) : Prop :=
  t.hb.sending = none ∧ t.hb.elastic ≤ (if s.hb.sending.isSome then 17 else s.hb.elastic) ∧
  t.hb.out = (if s.hbLine = .electricalIdle then s.hb.out
    else some (s.forwarded c t.hb.elastic, cellCrc (s.forwarded c t.hb.elastic) ^^^ stomp))

/-- From s to t the cell c that came in has left hb_out, and nothing else has happened. -/
def State.OnlySentOn (s t : State) (c : Cell) : Prop :=
  s.SentOn t c 0 ∧
    t = { s with hb := { s.hb with out := t.hb.out, sending := none, elastic := t.hb.elastic }, freeCtr := t.freeCtr }

/-- The tile acts on a cell of an address-bearing type t (R277): it is on line and not in bypass, the cell names it or all tiles where
R276 lets it, the kind is enabled, and its other bytes are as R276 has them. -/
def State.ActsOn (s : State) (t : Nat) (c : Cell) : Prop :=
  s.hbLive = true ∧ s.hb.bypass = false ∧ cellByte c 0 = t ∧
  (cellByte c 1 = 0xFF ∧ t ≠ 0x0A ∨ t ≠ 0x07 ∧ ∃ a, s.tile.addr = some a ∧ a.toNat = cellByte c 1) ∧
  s.cellEnabled t = true ∧ cellFields c = true

/-- From s to t the entry to SLEEP or DEEP_SLEEP has begun (R308): the tile drains, and what the queues had accepted and not issued
is theirs again. -/
def State.SleepBegins (s t : State) (deep : Bool) : Prop :=
  t.pwr = { s.pwr with phase := .draining, deep := deep, wakeLatched := false, abandon := false } ∧ t.tile.st = s.tile.st ∧
  ∀ q, q < 256 → (s.rq q).st ≠ .disabled → (t.rq q).acc = [] ∧ (t.rq q).fetching = false

/-- From s to t the wake source with a bit of CAUSE has qualified while the tile enters sleep, sleeps or wakes (R309, R310): an entry
is abandoned before COMMITTED, at once or when the save step that runs has ended, and wakes the tile at its end after it; a tile that
sleeps begins to wake. -/
def State.Wakes (s t : State) (bit : Nat) : Prop :=
  bitAt (t.fld PWR_WAKE_CAUSE.CAUSE 0) bit = true ∧ t.flag PWR_WAKE_CAUSE.VALID 0 = true ∧
  (s.pwr.phase = .asleep ∨ s.pwr.phase = .waking → t.pwr = { s.pwr with phase := .waking }) ∧
  (s.pwr.phase = .committed → t.pwr = { s.pwr with wakeLatched := true }) ∧
  (s.pwr.phase = .draining ∨ s.pwr.phase = .saving ∧ s.saveStep = false →
    t.pwr.phase = .awake ∧ (t.hdr (pg .power)).event.getLsbD 2 = true) ∧
  (s.pwr.phase = .saving → s.saveStep = true → t.pwr = { s.pwr with abandon := true })

/-- What the tamper response of a class has removed from s to t (R322, R325); while the tile sleeps FENCE_KEYS removes the root too. -/
def State.SecretsGone (s t : State) (cls : Nat) : Prop :=
  t.key.wrap = none ∧ t.key.tree = none ∧ t.key.rootStates = false ∧ t.key.derive = [] ∧ t.key.attest = none ∧
  t.ctx.ways = [] ∧ t.ctx.nodes = [] ∧ t.ctx.store = .uninit ∧ t.ctx.salt = 0 ∧ t.digest.slots = [] ∧ t.digest.chans = [] ∧
  t.digest.results = [] ∧ t.digest.image = none ∧ t.digest.gen = (s.digest.gen + 1) % 2 ^ 32 ∧ t.rng.pool = [] ∧ t.rng.swFifo = [] ∧
  t.rng.ready = false ∧ (∀ i x, (i, x) ∈ t.qeng.cbuf → x.secret = []) ∧
  (if cls = 2 ∧ s.asleep = false then t.key.root = s.key.root ∧ t.key.noMask = true ∧
     ∀ b, b < 72 → (s.bank b).arrived = none → (t.bank b).key = (s.bank b).key
   else t.key.root = none ∧ t.key.banks = [] ∧ (∀ f, f < 64 → t.reg .KEY_FGEN f = 0) ∧
     t.fld KEY_COUNTS.ZEROIZE 0 = min (s.fld KEY_COUNTS.ZEROIZE 0 + (if s.key.root.isSome then 1 else 0)) 0xFFFFFFFF)

/-- From s to t a tamper event of a source and a class has been taken (R321–R326): it is counted and recorded, and its response
starts, or joins the one that runs, be it only that its wipe runs, and raises the class of that. The tile's own ZEROIZE_ALL takes the
place of a message that waits (log entry 119). -/
def State.TamperTaken (s t : State) (src cls : Nat) : Prop :=
  t.fld KEY_COUNTS.TAMPER 0 = min (s.fld KEY_COUNTS.TAMPER 0 + 1) 0xFFFFFFFF ∧ t.fld TAMP_LAST.SOURCE 0 = src ∧
  t.fld TAMP_LAST.TIME 0 = s.now % 2 ^ 56 ∧
  (∀ k, bitAt (t.fld TAMP_STS.CAUSE 0) k = (bitAt (s.fld TAMP_STS.CAUSE 0) k || k == src)) ∧
  (s.tamp.responding = false → s.tamp.wiping = false → t.tamp.wiping = true ∧ t.tamp.cls = cls ∧ s.SecretsGone t cls ∧
    (s.tile.st = .aoOnly ∨ s.tile.st = .addressed ∨ s.tile.st = .clocked →
      t.tile.st = .alarmed ∧ t.flag TILE_RESET_CAUSE.ALARM 0 = true) ∧
    (s.asleep = true → t.pwr.alarmed = true ∧ t.tile.st = s.tile.st) ∧
    (s.tile.st ∈ [.bringUp, .ready, .run, .test, .fenced] → t.tamp.responding = true ∧ t.tile.st = s.tile.st)) ∧
  (s.tamp.responding = true ∨ s.tamp.wiping = true → t.tamp.wiping = s.tamp.wiping ∧ t.tamp.responding = s.tamp.responding ∧
    t.digest.gen = s.digest.gen ∧ t.tile.st = s.tile.st ∧
    (classRank s.tamp.cls < classRank cls → t.tamp.cls = cls ∧ (s.tamp.cls = 2 → t.key.root = none ∧ t.key.banks = [])) ∧
    (classRank cls ≤ classRank s.tamp.cls → t.tamp.cls = s.tamp.cls ∧ t.key = s.key)) ∧
  (cls = 1 → s.tamp.responding = false ∧ s.tamp.wiping = false ∨ classRank s.tamp.cls < classRank cls → s.hb.bypass = false →
    t.hb.own = some s.ownZeroize)

/-- From s to t the outputs are held safe, and every PLL that was locked has to lock again before they are released (R296). -/
def State.HeldSafe (s t : State) : Prop :=
  t.clk.safe = true ∧ t.clk.lock = 0 ∧ t.clk.await = s.clk.await ||| s.clk.lock

/-- From s to t a switch of the PLL reference to r has begun (R299). -/
def State.SwitchesTo (s t : State) (r : Ref) : Prop := t.clk.ref = .switching ∧ t.clk.target = r ∧ s.HeldSafe t

/-- From s to t PLL i has lost its lock and is in its one restart (R301); CPLL and FPLL hold the outputs (R296). -/
def State.PllRestarts (s t : State) (i : Nat) : Prop :=
  t.clk.lock.getLsbD i = false ∧ t.clk.restart.getLsbD i = true ∧
  (∀ k, k ≠ i → t.clk.lock.getLsbD k = s.clk.lock.getLsbD k) ∧ t.clk.ref = s.clk.ref ∧
  (if i < 2 then t.clk.safe = true ∧ t.clk.await.getLsbD i = true else t.clk.safe = s.clk.safe ∧ t.clk.await = s.clk.await)

/-- From s to t a sleep entry that DRAIN_TMO, CANCEL_SLEEP or a wake source stops is abandoned, or finishes first the save step that
runs (R309). -/
def State.EntryStops (s t : State) : Prop :=
  (s.pwr.phase = .draining ∨ s.pwr.phase = .saving ∧ s.saveStep = false →
    t.pwr.phase = .awake ∧ (t.hdr (pg .power)).event.getLsbD 2 = true) ∧
  (s.pwr.phase = .saving → s.saveStep = true → t.pwr = { s.pwr with abandon := true })

/-- From s to t a power fault of a kind is recorded for domain d (R305, R315, R317). -/
def State.PowerFault (s t : State) (kind d : Nat) : Prop :=
  t.fld PWR_FAULT_INFO.COUNT 0 = min (s.fld PWR_FAULT_INFO.COUNT 0 + 1) 0xFFFF ∧
  (s.flag PWR_FAULT_INFO.VALID 0 = false → t.flag PWR_FAULT_INFO.VALID 0 = true ∧ t.fld PWR_FAULT_INFO.KIND 0 = kind ∧
    t.fld PWR_FAULT_INFO.DOMAIN 0 = d)

/-- From s to t the domain d has failed for good (R305): what owns it is fenced with cause 0x06: the tile, a bank of the context cache, a unit of the big-number engine, and the block with its last one,
or the blocks in the domain. -/
def State.DomainFails (s t : State) (kind d : Nat) : Prop :=
  s.PowerFault t kind d ∧ (t.hdr (pg .power)).fault.getLsbD 8 = true ∧
  (d = 1 ∨ d = 110 → s.fenceFalls = true → s.tile.fencing = none → s.tamp.responding = false →
    t.tile.fencing = some 0x06 ∧ t.tile.fence = ⟨0x06, 5, false⟩) ∧
  (d = 1 ∨ d = 110 → s.fenceFalls = true → s.tamp.responding = true → t.tile.fencing = s.tile.fencing ∧
    t.fld FLT_LOG_IDX.TOTAL 0 = min (s.fld FLT_LOG_IDX.TOTAL 0 + 1) 0xFFFF) ∧
  (38 ≤ d → d < 102 → (d - 38) ∈ t.ctx.badBanks ∧ ∀ i, i / 64 = d - 38 → (d - 38) ∉ s.ctx.badBanks → (t.way i).st = .free) ∧
  (∀ u : BnUnit, d = (match u with | .ia => 32 | .ntt => 33) → s.blk (pg .bignum) = .on ∨ s.blk (pg .bignum) = .comingUp →
    (t.bnUnit u).fenced = true ∧ (s.bnBothLost = false → t.bnBothLost = true → t.blk (pg .bignum) = .fenced ∧
      (t.hdr (pg .bignum)).fence = ⟨0x0E, fenceLevel (pg .bignum), false⟩)) ∧
  (d < 32 ∨ 34 ≤ d → d < 38 ∨ 102 ≤ d → ∀ p ∈ domBlocks d, s.blk p = .on ∨ s.blk p = .comingUp →
    t.blk p = .fenced ∧ (t.hdr p).fence = ⟨0x06, fenceLevel p, false⟩)

/-- From s to t the event of qualifier i has gone to its user (R318, R319, R321): Q0–Q3 to the tamper response, if enabled, Q4 to the
wake logic, Q5 to the source HBLINE, unless its class is REPORT_ONLY. -/
def State.QualDelivers (s t : State) (i : Nat) : Prop :=
  (i < 4 → s.tampEn i = true → (t.hdr (pg .tamper)).event.getLsbD i = true ∧ s.TamperTaken t i (s.tampClass i)) ∧
  (i = 5 → s.fld TAMP_XSENS_CFG.HBLINE 0 ≠ 3 → s.TamperTaken t 8 (s.fld TAMP_XSENS_CFG.HBLINE 0)) ∧
  (i < 4 ∧ s.tampEn i = false ∨ i = 5 ∧ s.fld TAMP_XSENS_CFG.HBLINE 0 = 3 →
    t.regs = s.regs ∧ t.key = s.key ∧ t.tile = s.tile ∧ t.pwr = s.pwr) ∧
  (i = 4 → s.flag PWR_WAKE_CFG.PIN 0 = true → s.pwr.phase ≠ .awake → s.Wakes t 0) ∧
  (i = 4 → s.flag PWR_WAKE_CFG.PIN 0 = false ∨ s.pwr.phase = .awake → t.pwr = s.pwr)

/-- From s to t the fence of function f has stopped what is the function's (R333). -/
def State.FunctionFenced (s t : State) (f : Nat) : Prop :=
  t.fnFenced f = true ∧ t.fld FLT_LOG_IDX.TOTAL 0 = min (s.fld FLT_LOG_IDX.TOTAL 0 + 1) 0xFFFF ∧
  (∀ q, q < 256 → s.fld RQ_CFG.FUNC q = f → (s.rq q).st = .active ∨ (s.rq q).st = .held ∨ (s.rq q).st = .dozing →
    (t.rq q).st = .fenced ∧ (t.rq q).acc = [] ∧ t.fld RQ_ERR.CAUSE q = 3) ∧
  (∀ c, c < 64 → s.fld CQ_CFG.FUNC c = f → (s.cq c).st = .on →
    (t.cq c).st = .fenced ∧ (t.cq c).held = [] ∧ t.fld CQ_ERR.CAUSE c = 3) ∧
  (∀ c, c < 16 → (s.hdr (dchPg c)).ownerValid = true → (s.hdr (dchPg c)).ownerFunc.toNat = f → (t.dch c).st = .idle ∧
    t.flag DCH_ARM.SHD_ARM c = false)

/-- The page of unit n of a group of the self-test (R344). -/
def selfPage (g n : Nat) : PageRef :=
  match g with
  | 0 => lanePg n
  | 1 => corePg n
  | 2 => pg .bignum
  | 3 => pg .rng
  | 4 => pg .ctx
  | _ => pg .key

/-- The transfers that, ended, wait for the command that takes them. -/
def XKind.waits : XKind → Bool
  | .desc _ _ | .frameDst _ | .cqEntry _ _ | .cqMirror _ _ | .ctxWriteback _ | .nodeWriteback _ _ | .slotSave | .slotRestore => true
  | _ => false

/-- How a read response fails (R371, R378): by its code, or because it carries too few bytes. -/
def readFailure (resp : BitVec 2) (n need : Nat) : Option FabFail :=
  if resp = 0 then (if n < need then some .short else none) else if resp = 2 then some .poison else some .err

/-- From s to t a failure of an access on port p that remains after its retry has been classified (R377, R379). -/
def State.Classified (s t : State) (p : Nat) (q : FabReq) (f : FabFail) : Prop :=
  t.fld FAB_ERR_INFO.COUNT 0 = min (s.fld FAB_ERR_INFO.COUNT 0 + 1) 0xFFFF ∧ t.flag FAB_ERR_INFO.VALID 0 = true ∧
  (s.flag FAB_ERR_INFO.VALID 0 = false → t.fld FAB_ERR_INFO.KIND 0 = f.code ∧ t.fld FAB_ERR_INFO.OP 0 = q.op.code ∧
    t.fld FAB_ERR_INFO.PORT 0 = p ∧ t.fld FAB_ERR_INFO.FUNC 0 = q.attr.func % 64 ∧
    t.flag FAB_ERR_INFO.PRIV 0 = q.attr.priv ∧ t.fld FAB_ERR_ADDR.ADDR 0 = q.addr % 2 ^ 64) ∧
  (f = .timeout → (t.hdr (pg .tile)).fault.getLsbD 12 = true) ∧
  (f ≠ .timeout → q.op = .read → (t.hdr (pg .tile)).fault.getLsbD 9 = true ∧
    (f = .poison → (t.hdr (pg .tile)).fault.getLsbD 11 = true)) ∧
  (f ≠ .timeout → q.op ≠ .read → (t.hdr (pg .tile)).fault.getLsbD 10 = true)

/-- From s to t one access of transfer x is done; x is what the transfer has become, ended with its last access. Aborted work ends
without a word (R378). -/
def State.AccessDone (s t : State) (i : Nat) (x : Xfer) : Prop :=
  (1 < x.left → t.xfer i = some { x with left := x.left - 1 } ∧ t.fab.mail = s.fab.mail) ∧
  (x.left ≤ 1 → x.dropped = true → t.xfer i = none ∧ t.fab.mail = s.fab.mail) ∧
  (x.left ≤ 1 → x.dropped = false → x.kind.waits = true → t.xfer i = none ∧ t.fab.mail = s.fab.mail ++ [{ x with left := 0 }])

/-- From s to t access q of transfer x has failed on port p (R377, R378): a first failure is tried once more, under a new ID,
and the failure of the retry is classified; nothing is retried or classified for aborted work. -/
def State.AccessFails (s t : State) (p : Nat) (q : FabReq) (x : Xfer) (f : FabFail) : Prop :=
  (q.retry = false → x.dropped = false → t.xfer q.xfer = some { x with retried := true } ∧ t.fab.mail = s.fab.mail ∧
    t.fld FAB_ERR_INFO.COUNT 0 = s.fld FAB_ERR_INFO.COUNT 0 ∧
    ({ q with retry := true } ∈ (t.port p).queue ∨ ∃ j, Tbl.get none (t.port p).reads j = some { q with retry := true } ∨
      Tbl.get none (t.port p).writes j = some { q with retry := true })) ∧
  (q.retry = true ∨ x.dropped = true → s.AccessDone t q.xfer { x with failed := x.failed <|> some f }) ∧
  (q.retry = true → x.dropped = false → s.Classified t p q f) ∧
  (x.dropped = true → t.fld FAB_ERR_INFO.COUNT 0 = s.fld FAB_ERR_INFO.COUNT 0)

end Sys2Proof.Machine
end

