-- ==== Sys2Proof/Certificates/Slice0/Obligations.lean ====
section
/-! DEFINITION. The statements for the provers: what each family of commands does, and what holds of every step. A statement
whose last clauses say `exec … = .next …` says that the command completes. -/

open Sys2Proof Sys2Proof.Machine

/-- The queue: a step takes the command at the front and runs it with the queue's rest behind it. -/
def Obligations.StepRunsTheFrontCommand : Prop :=
  ∀ (s : State) (c : Instr), step { s with pending := c :: s.pending } = exec c s

/-- DESIGN CHOICE (log entry 1): on an empty queue time passes and nothing else happens, but that a scheduled flip whose time it
reaches takes place as EPOCH_FLIP_DUE has it, and that a reference switch whose two clocks run is made; a tile without power does
not move. -/
def Obligations.IdleStepPassesTimeAlone : Prop :=
  ∀ (s : State), s.pending = [] →
    ∃ t, step s = .next t ∧ (s.tile.st = TileState.powerOff → t = s) ∧
      s.Within (only [.regs, .hdrs, .irq, .fab, .epoch, .hb, .clk]) t ∧
      (s.switchDue = false → s.flipComes = false →
        s.Within (only [.regs, .hb]) t ∧ ∀ r n, r ≠ .HB_TIME_INFO → t.reg r n = s.reg r n) ∧
      (s.switchDue = false → s.flipComes = true →
        ∃ u, exec .epochFlipDue s = .next u ∧ t.epoch = u.epoch ∧ t.hdrs = u.hdrs ∧ t.irq = u.irq ∧ t.clk = s.clk ∧
          ∀ r n, r ≠ .HB_TIME_INFO → t.reg r n = u.reg r n) ∧
      (s.switchDue = true → s.tile.st ≠ TileState.powerOff → s.clk.fallback = false →
        t.clk.ref = s.clk.target ∧ t.clk.target = Ref.none ∧ t.clk.lock = s.clk.lock)

/-- From every state whose register file and headers have their canonical form (strictly rising places, nothing that reads as
unlisted), each step leaves them in it. -/
def Obligations.StepKeepsTheTablesCanonical : Prop :=
  ∀ (s t : State), s.Canonical → step s = .next t → t.Canonical

/-- The reset state has the canonical form. -/
def Obligations.ResetTablesAreCanonical : Prop := State.reset.Canonical

/-- Every command but the two of the always-on supply completes in every state, and its effect lies within the parts of the tile
that partsOf gives it; nothing but an ENUM or RENUM cell changes the chain address, and no command changes the commands that
wait. The model's own readings in it are those of log entry 85. -/
def Obligations.EveryCommandStaysWithinItsParts : Prop :=
  ∀ (c : Instr) (s : State), (∀ b, c ≠ .vddAoUp b) → c ≠ .vddAoLoss →
    ∃ t, exec c s = .next t ∧ s.Within (only (partsOf c)) t ∧ t.pending = s.pending ∧
      ((∀ x, c ≠ .enum x) → (∀ x, c ≠ .renum x) → t.tile.addr = s.tile.addr)

/-- R33, R42, R44, R39, R406: what reset leaves in the TILE page, in the headers and in the state machine. -/
def Obligations.ResetLeavesTheStatedValues : Prop :=
  State.reset.tile.st = TileState.powerOff ∧ State.reset.tile.addr = none ∧ State.reset.pending = [] ∧
  State.reset.reg .TILE_RESET_CAUSE 0 = 1 ∧ State.reset.reg .TILE_SCRATCH 0 = 0 ∧
  State.reset.fld TILE_WDOG_CTL.PERIOD 0 = 0x100 ∧ State.reset.fld TILE_TRANS_TMO.LIMIT 0 = 0x20000 ∧
  (∀ p, pageOk p = true → PageKind.fixed p.kind = true → (State.reset.hdr p).st = BlkState.on ∧ (State.reset.hdr p).en = true) ∧
  (∀ p, pageOk p = true → PageKind.fixed p.kind = false → (State.reset.hdr p).st = BlkState.off ∧ (State.reset.hdr p).en = false) ∧
  (∀ p, pageOk p = true → (State.reset.hdr p).lock = Lock.closed ∧ (State.reset.hdr p).fault = 0 ∧ (State.reset.hdr p).event = 0 ∧
    (State.reset.hdr p).ownerValid = (p.kind == PageKind.function))

/-- R168: after reset IRQ_VEC_CFG of V0 to V63 shows DEST 1 and that of V64 to V127 the function it belongs to. -/
def Obligations.ResetBindsTheVectors : Prop :=
  (∀ v, v < 64 → State.reset.fld IRQ_VEC_CFG.DEST v = 1) ∧
  (∀ v, 64 ≤ v → v < 128 → State.reset.fld IRQ_VEC_CFG.FUNC v = v - 64) ∧
  (∀ v, 250 ≤ v → State.reset.reg .IRQ_VEC_CFG v = 0)

/-- R10, R29 (row 9), R35: a performed 32-bit write of a register without an effect of its own leaves what was written in its
RW and RWX fields and clears the W1C bits written 1; every other bit, every other register and every header stays. -/
def Obligations.RegisterWriteTakesItsFields : Prop :=
  ∀ (s : State) (r : Reg) (n : Nat) (v : W32) (req : Req), r.plain = true → s.OpenReg r n req →
    (r.desc.off < 0x800 ∨ s.lockOpen (regPage r n) = true) →
    ∃ t, exec (.registerWrite (s.accessTo (regPage r n) (regOff r n) 4 (v.setWidth 64) req)) s = .next t ∧
      (∀ i, i < 32 → (t.reg r n).getLsbD i =
        (if (r.bitsOf (fun a => a == .rw || a == .rwx)).getLsbD i then v.getLsbD i
         else if (r.bitsOf (fun a => a == .w1c)).getLsbD i then (s.reg r n).getLsbD i && !v.getLsbD i
         else (s.reg r n).getLsbD i)) ∧
      (∀ i, 32 ≤ i → (t.reg r n).getLsbD i = (s.reg r n).getLsbD i) ∧
      (∀ r' n', r' ≠ r ∨ n' ≠ n → t.reg r' n' = s.reg r' n') ∧ t.hdrs = s.hdrs ∧ t.cp.rsp = [⟨.ok, 0, 0⟩]

/-- R25, R29 (rows 1, 8 and 9), R33: an access outside the window, or while the tile has no address, is dropped; PAGE_ID and a
scratch register read as the spec gives them and a read changes no register; a write to an RWX field while the lock is closed
is ignored, answered OK and sets LOCK_VIOL. -/
def Obligations.ControlPortAnswers : Prop :=
  (∀ (s : State) (w : Bool) (a : Access), s.cpAddressed a = false →
    exec (.cpUnaddressedAccess w a) s = .next { s with cp := { s.cp with rsp := [] } } ∧
    exec (.registerWrite a) s = .next { s with cp := { s.cp with rsp := [] } } ∧
    exec (.registerRead a) s = .next { s with cp := { s.cp with rsp := [] } }) ∧
  (∀ (s : State) (p : PageRef) (req : Req), s.Open p false req →
    exec (.registerRead (s.accessTo p 0 4 0 req)) s = .next { s with cp := { s.cp with
      rsp := [⟨.ok, BitVec.ofNat 64 (PageKind.code p.kind * 2 ^ 24 + 2 ^ 20 + p.inst), 0⟩] } }) ∧
  (∀ (s : State) (req : Req), s.Open (pg .tile) true req →
    exec (.registerRead (s.accessTo (pg .tile) 0x64 4 0 req)) s = .next { s with cp := { s.cp with
      rsp := [⟨.ok, (s.reg .TILE_SCRATCH 0).setWidth 32 |>.setWidth 64, 0⟩] } }) ∧
  (∀ (s : State) (r : Reg) (n : Nat) (v : W32) (req : Req), s.Open (regPage r n) true req →
    r.desc.flds.any (fun f => f.acc == .rwx) = true → s.lockOpen (regPage r n) = false →
    ∃ t, exec (.registerWrite (s.accessTo (regPage r n) (regOff r n) 4 (v.setWidth 64) req)) s = .next t ∧
      t.regs = s.regs ∧ (t.hdr (regPage r n)).fault.getLsbD 6 = true ∧ t.cp.rsp = [⟨.ok, 0, 0⟩])

/-- R36: the expert lock moves as the table states on every write to PAGE_LOCK, and when the 64 cycles of an armed lock pass;
every other header, and every register, stays. -/
def Obligations.ExpertLockFollowsItsTable : Prop :=
  (∀ (s : State) (p : PageRef) (v : W32) (req : Req), s.Open p false req →
    ∃ t, exec (.pageLockWrite p v req) s = .next t ∧
      (t.hdr p).lock =
        (if v = 0xEA01 then Lock.armed
         else if v = 0xEA02 ∧ (s.hdr p).lock ≠ Lock.closed then Lock.opened else Lock.closed) ∧
      ((s.hdr p).lock = Lock.armed → v ≠ 0xEA01 → v ≠ 0xEA02 → (t.hdr p).fault.getLsbD 5 = true) ∧
      ((s.hdr p).lock ≠ Lock.armed ∨ v = 0xEA01 ∨ v = 0xEA02 → (t.hdr p).fault = (s.hdr p).fault) ∧
      t.regs = s.regs ∧ ∀ q, pageNum q ≠ pageNum p → t.hdr q = s.hdr q) ∧
  (∀ (s : State) (p : PageRef), pageOk p = true → (s.hdr p).lock = Lock.armed →
    ∃ t, exec (.lockArmTimeout p) s = .next t ∧ (t.hdr p).lock = Lock.closed ∧ (t.hdr p).fault.getLsbD 5 = true ∧
      t.regs = s.regs ∧ ∀ q, pageNum q ≠ pageNum p → t.hdr q = s.hdr q)

/-- R37, R39: the block states. A block comes up when EN and its clock enable are 1 and waits for the clock otherwise, goes
down when EN is cleared, is ON when its initialisation ends, is OFF, or FENCED if a fence waited for it, when its shut-down
ends, and is fenced with cause 0x05 when it has been in a transition for too long. -/
def Obligations.BlockStatesFollowTheirTable : Prop :=
  (∀ (s : State) (p : PageRef) (req : Req), s.Open p false req → PageKind.block p.kind = true →
    s.tile.st ≠ TileState.alarmed → s.pwr.core = true → (s.hdr p).st = BlkState.off →
    ∃ t, exec (.blockEnWrite p true req) s = .next t ∧ (t.hdr p).en = true ∧
      (t.hdr p).st = (if s.clkActs p then BlkState.comingUp else BlkState.off) ∧ t.tile = s.tile) ∧
  (∀ (s : State) (p : PageRef) (req : Req), s.Open p false req → PageKind.block p.kind = true →
    (s.hdr p).st = BlkState.on →
    ∃ t, exec (.blockEnWrite p false req) s = .next t ∧ (t.hdr p).en = false ∧ (t.hdr p).st = BlkState.goingDown ∧
      t.tile = s.tile) ∧
  (∀ (s : State) (p : PageRef), pageOk p = true → PageKind.block p.kind = true → s.working = true →
    (s.hdr p).st = BlkState.comingUp → (s.hdr p).en = true → s.initReady p = true → p.kind ≠ PageKind.digest →
    ∃ t, exec (.blockInitDone p) s = .next t ∧ (t.hdr p).st = BlkState.on ∧ (t.hdr p).en = true ∧ t.tile = s.tile) ∧
  (∀ (s : State) (p : PageRef), pageOk p = true → PageKind.block p.kind = true → s.working = true →
    (s.hdr p).st = BlkState.goingDown → (s.hdr p).en = false → s.downReady p = true →
    ∃ t, exec (.blockShutdownDone p) s = .next t ∧ t.tile = s.tile ∧
      (t.hdr p).st = (if (s.hdr p).pendFence.isSome then BlkState.fenced else BlkState.off) ∧
      ∀ r, (s.hdr p).pendFence = some r → (t.hdr p).fence = r) ∧
  (∀ (s : State) (p : PageRef), pageOk p = true → PageKind.block p.kind = true → s.working = true →
    (s.hdr p).st = BlkState.comingUp ∨ (s.hdr p).st = BlkState.goingDown →
    ∃ t, exec (.transitionTimeout p) s = .next t ∧ (t.hdr p).st = BlkState.fenced ∧
      (t.hdr p).fence = ⟨0x05, fenceLevel p, false⟩ ∧ (t.hdr p).fault.getLsbD 5 = true ∧ t.tile = s.tile)

/-- R40, R406: a soft reset acts on every page whose block is OFF: it returns the page's registers, faults, events, enables and
retry counts to their reset values (log 91 names what outlasts it, and a FUNCTION page keeps what cannot be written), an RQ page its
queues too, closes the lock and leaves PAGE_OWNER. SOFT_RESET reads 1 until it completes; a write to the page stalls meanwhile, and what
stalls is performed then; R364: reads that stalled are all answered, in the order in which they came. In every other state, and on a fixed page or RESULT, the write sets SEQ. -/
def Obligations.SoftResetActsWhileOff : Prop :=
  (∀ (s : State) (p : PageRef) (req : Req), s.Open p false req → PageKind.fixed p.kind = false → p.kind ≠ PageKind.result →
    s.blk p = BlkState.off →
    (PageKind.block p.kind = true → (s.hdr p).en = true → s.clkActs p = false ∧ s.tile.st ≠ TileState.alarmed) →
    ∃ t, exec (.softReset p req) s = .next t ∧ (t.hdr p).softReset = true ∧ (t.hdr p).lock = Lock.closed ∧
      (t.hdr p).fault = 0 ∧ (t.hdr p).faultEn = 0 ∧ (t.hdr p).event = 0 ∧ (t.hdr p).eventEn = 0 ∧
      (t.hdr p).transient = 0 ∧ (t.hdr p).lasting = 0 ∧ (t.hdr p).ownerValid = (s.hdr p).ownerValid ∧
      (t.hdr p).ownerFunc = (s.hdr p).ownerFunc ∧ (t.hdr p).en = (s.hdr p).en ∧
      (∀ r n, regPage r n = p → r ≠ .KEY_COUNTS → r ≠ .KEY_SESSION →
        (p.kind = PageKind.function → ∃ f ∈ r.desc.flds, f.acc ≠ .ro ∧ f.acc ≠ .rc) → t.reg r n = r.resetAt n) ∧
      (∀ r n, regPage r n ≠ p → t.reg r n = s.reg r n) ∧
      (p.kind = PageKind.rq → ∀ q, q / 16 = p.inst → t.rq q = {}) ∧ (p.kind = PageKind.cq → ∀ c, c / 16 = p.inst → t.cq c = {})) ∧
  (∀ (s : State) (p : PageRef) (req : Req), s.Open p false req →
    PageKind.fixed p.kind = true ∨ p.kind = PageKind.result ∨ s.blk p ≠ BlkState.off →
    (PageKind.block p.kind = true → (s.hdr p).en = true ∨ (s.hdr p).st = BlkState.comingUp ∨ (s.hdr p).st = BlkState.goingDown) →
    ∃ t, exec (.softReset p req) s = .next t ∧ (t.hdr p).fault.getLsbD 5 = true ∧ t.regs = s.regs ∧
      (t.hdr p).softReset = false) ∧
  (∀ (s : State) (p : PageRef), pageOk p = true → (s.hdr p).softReset = true →
    (s.cp.stalled = [] → ∃ t, exec (.softResetDone p) s = .next t ∧ (t.hdr p).softReset = false ∧ t.regs = s.regs) ∧
    (∀ w a, s.cp.stalled = [(w, a)] → accPage a = some p →
      ∃ t, exec (.softResetDone p) s = .next t ∧ t.cp.stalled = []) ∧
    ((∀ x ∈ s.cp.stalled, x.1 = false ∧ ∀ q, accPage x.2 = some q → q = p ∨ (s.hdr q).softReset = false) →
      ∃ t, exec (.softResetDone p) s = .next t ∧ t.cp.stalled = [] ∧
        t.cp.rsp.map (fun r => r.tag) = s.cp.stalled.map (fun x => x.2.tag))) ∧
  (∀ (s : State) (a : Access) (p : PageRef), s.cpAddressed a = true → accPage a = some p → (s.hdr p).softReset = true →
    s.cp.stalled = [] → s.keeper = false → s.pwr.phase ≠ Phase.committed →
    ∃ t, exec (.registerWrite a) s = .next t ∧ t.cp.stalled = [(true, a)] ∧ t.cp.rsp = [] ∧ t.regs = s.regs)

/-- R34, R406, R41: a DMA channel's owner is written while the channel is OFF; FORCE fences a block; a register that fails its
parity check reads its reset value again, PARITY is set and what holds it is fenced. -/
def Obligations.OwnerForceAndParity : Prop :=
  (∀ (s : State) (c : Nat) (v : W32) (req : Req), s.Open ⟨.dmaChannel, c⟩ false req → s.blk ⟨.dmaChannel, c⟩ = BlkState.off →
    ∃ t, exec (.pageOwnerWrite ⟨.dmaChannel, c⟩ v req) s = .next t ∧
      (t.hdr ⟨.dmaChannel, c⟩).ownerValid = v.getLsbD 31 ∧ (t.hdr ⟨.dmaChannel, c⟩).ownerFunc = v.setWidth 6 ∧
      t.regs = s.regs ∧ ∀ q, pageNum q ≠ pageNum ⟨.dmaChannel, c⟩ → t.hdr q = s.hdr q) ∧
  (∀ (s : State) (p : PageRef) (req : Req), s.Open p false req → PageKind.block p.kind = true →
    (s.hdr p).st = BlkState.comingUp ∨ (s.hdr p).st = BlkState.on →
    ∃ t, exec (.pageFenceForce p req) s = .next t ∧ (t.hdr p).st = BlkState.fenced ∧
      (t.hdr p).fence = ⟨0x0A, fenceLevel p, true⟩ ∧ t.tile = s.tile) ∧
  (∀ (s : State) (r : Reg) (n : Nat) (off : BitVec 22), off.toNat = pageNum (regPage r n) * 4096 + regOff r n →
    pageOk (regPage r n) = true → r.writes = true → PageKind.fixed (regPage r n).kind = false →
    Reg.configured r = true → s.blk (regPage r n) = BlkState.on →
    ∃ t, exec (.registerParityError off) s = .next t ∧ t.reg r n = r.resetAt n ∧
      (t.hdr (regPage r n)).fault.getLsbD 2 = true ∧ t.blk (regPage r n) = BlkState.fenced ∧
      (t.hdr (statePage (regPage r n))).fence = ⟨0x04, fenceLevel (statePage (regPage r n)), false⟩)

/-- R43: the commands of TILE_CMD in the states that list them, the others refused with SEQ, and the return from RUN to READY.
The model's own readings in it are those of log entry 36. -/
def Obligations.TileCommandsMoveTheTile : Prop :=
  (∀ (s : State) (req : Req), s.OpenReg .TILE_CMD 0 req → s.tile.st = TileState.bringUp → s.rng.ready = true →
    s.key.root.isSome = true → s.flag TILE_SELFTEST_STS.BUSY 0 = false →
    ∃ t, exec (.bringUpDone req) s = .next t ∧ t.tile = { s.tile with st := TileState.ready, prev := TileState.bringUp } ∧
      t.key.root = s.key.root ∧ t.regs = s.regs ∧ t.hdrs = s.hdrs ∧ t.cp.rsp = [⟨.ok, 0, 0⟩]) ∧
  (∀ (s : State) (req : Req), s.OpenReg .TILE_CMD 0 req →
    s.tile.st = TileState.bringUp ∨ s.tile.st = TileState.ready →
    ∃ t, exec (.enterTest req) s = .next t ∧ t.tile.st = TileState.test ∧ t.tile.prev = s.tile.st ∧ t.key.root = none ∧
      t.key.wrap = none ∧ t.key.tree = none ∧ (t.hdr (pg .tamper)).event.getLsbD 4 = true) ∧
  (∀ (s : State) (req : Req), s.OpenReg .TILE_CMD 0 req → s.tile.st = TileState.test →
    ∃ t, exec (.leaveTest req) s = .next t ∧ t.tile.st = TileState.bringUp ∧ t.flag TILE_RESET_CAUSE.TEST_EXIT 0 = true ∧
      ∀ p ∈ allBlocks, (t.hdr p).st = BlkState.off) ∧
  (∀ (s : State) (req : Req), s.OpenReg .TILE_CMD 0 req → s.fenceable = true → s.tile.fencing = none →
    s.tamp.responding = false →
    ∃ t, exec (.fenceTile req) s = .next t ∧ t.tile.fencing = some 0x0D ∧ t.tile.fence = ⟨0x0D, 5, false⟩ ∧
      t.tile.st = s.tile.st ∧ t.tile.addr = s.tile.addr) ∧
  (∀ (s : State) (req : Req), s.OpenReg .TILE_CMD 0 req → s.fenceable = true →
    s.tile.fencing.isSome = true ∨ s.tamp.responding = true → exec (.fenceTile req) s = .next s.answeredOk) ∧
  (∀ (s : State) (req : Req) (c : Instr), s.OpenReg .TILE_CMD 0 req →
    (c = .bringUpDone req ∧ (s.tile.st ≠ TileState.bringUp ∨ s.rng.ready = false ∨ s.key.root = none) ∨
      c = .enterTest req ∧ s.tile.st ≠ TileState.bringUp ∧ s.tile.st ≠ TileState.ready ∨
      c = .leaveTest req ∧ s.tile.st ≠ TileState.test ∨ c = .fenceTile req ∧ s.fenceable = false ∨
      c = .unfenceTile req ∧ s.tile.st ≠ TileState.fenced) →
    ∃ t, exec c s = .next t ∧ (t.hdr (pg .tile)).fault.getLsbD 5 = true ∧ t.tile = s.tile ∧ t.key = s.key ∧ t.regs = s.regs) ∧
  (∀ (s : State) (req : Req), s.OpenReg .TILE_CMD 0 req → s.tile.st = TileState.fenced →
    ∃ t, exec (.unfenceTile req) s = .next t ∧ t.tile.st = TileState.bringUp ∧ t.tile.addr = s.tile.addr ∧
      t.flag TILE_RESET_CAUSE.UNFENCE 0 = true ∧
      (s.tile.wdogFenced = true → t.flag TILE_RESET_CAUSE.WATCHDOG 0 = true) ∧ ∀ p ∈ allBlocks, (t.hdr p).st = BlkState.off) ∧
  (∀ (s : State), s.working = true → s.tile.st = TileState.run → s.nothingInFlight = true →
    exec .runIdleTimeout s = .next { s with tile := { s.tile with st := TileState.ready, prev := TileState.run } })

/-- R44, R161: a kick restarts the watchdog's count; each expiry without a kick raises V242's event, the second fences the tile
with cause 0x0B if ACTION asks for it and the tile can be fenced. It does not run while EN = 0, in SLEEP, DEEP_SLEEP and ALARMED.
The model's own readings in it are those of log entry 19. -/
def Obligations.WatchdogExpiresInTwoSteps : Prop :=
  (∀ (s : State) (v : W32) (req : Req), s.OpenReg .TILE_WDOG_KICK 0 req →
    exec (.wdogKick v req) s = .next ({ s with tile := { s.tile with wdogExpired := false } }).answeredOk) ∧
  (∀ (s : State), s.flag TILE_WDOG_CTL.EN 0 = true → s.asleep = false → s.tile.st ≠ TileState.alarmed →
    s.tile.wdogExpired = false →
    ∃ t, exec .wdogExpiry s = .next t ∧ t.tile = { s.tile with wdogExpired := true } ∧
      (t.hdr (pg .tile)).event.getLsbD 1 = true ∧ t.regs = s.regs) ∧
  (∀ (s : State), s.flag TILE_WDOG_CTL.EN 0 = true → s.asleep = false → s.tile.wdogExpired = true →
    s.fld TILE_WDOG_CTL.ACTION 0 = 1 → s.fenceable = true → s.tile.fencing = none → s.tamp.responding = false →
    ∃ t, exec .wdogExpiry s = .next t ∧ t.tile.fencing = some 0x0B ∧ t.tile.fence = ⟨0x0B, 5, false⟩ ∧
      t.tile.wdogFenced = true ∧ (t.hdr (pg .tile)).event.getLsbD 1 = true) ∧
  (∀ (s : State), s.flag TILE_WDOG_CTL.EN 0 = true → s.asleep = false → s.tile.st ≠ TileState.alarmed →
    s.tile.wdogExpired = true →
    s.fld TILE_WDOG_CTL.ACTION 0 ≠ 1 ∨ s.fenceable = false ∨ s.tile.fencing.isSome = true ∨ s.tamp.responding = true →
    ∃ t, exec .wdogExpiry s = .next t ∧ t.tile = s.tile ∧ (t.hdr (pg .tile)).event.getLsbD 1 = true ∧ t.regs = s.regs) ∧
  (∀ (s : State), s.flag TILE_WDOG_CTL.EN 0 = false ∨ s.asleep = true ∨ s.tile.st = TileState.alarmed →
    exec .wdogExpiry s = .next s)

/-- R27: within a mapped page, an offset that holds no register reads as zero and ignores writes. The registers are those of the
header (R33), those of the page's chapter, and the results of the RESULT page, which no write reaches (R32). -/
def Obligations.HolesReadZeroAndIgnoreWrites : Prop :=
  ∀ (s : State) (p : PageRef) (off bytes : Nat) (v : W64) (req : Req), s.Open p (decide (0x40 ≤ off)) req → off < 4096 →
    bytes = 4 ∨ bytes = 8 → off % bytes = 0 →
    (∀ o, o = off ∨ o + 4 = off + bytes → if o < 0x40 then 0x2C ≤ o
      else regAt p o = none ∧ (p.kind = PageKind.result → 0x7C ≤ o ∧ o < 0x80 ∨ 0xF80 ≤ o)) →
    exec (.registerRead (s.accessTo p off bytes v req)) s = .next { s with cp := { s.cp with rsp := [⟨.ok, 0, 0⟩] } } ∧
    ((p.kind = PageKind.result → off < 0x40) →
      exec (.registerWrite (s.accessTo p off bytes v req)) s = .next s.answeredOk)

/-- R141: at each flip, when EPOCH_EXPECT is not 0 and EPOCH_ARMED is below it, LAST_SHORT is set and V210's event is raised;
the flip takes place all the same, and EPOCH_ARMED keeps its count until a new pending epoch is set. -/
def Obligations.ShortFlipIsReported : Prop :=
  (∀ (s : State), s.epoch.scheduled = true → (s.holdover && s.flag EPOCH_CTL.HOLD_POLICY 0) = false →
    s.fld EPOCH_EXPECT.COUNT 0 ≠ 0 → s.fld EPOCH_ARMED.COUNT 0 < s.fld EPOCH_EXPECT.COUNT 0 →
    ∃ t, exec .epochFlipDue s = .next t ∧ t.flag EPOCH_STS.LAST_SHORT 0 = true ∧
      (t.hdr (pg .hatband)).event.getLsbD 14 = true ∧ t.fld EPOCH_CUR.EPOCH 0 = s.epoch.pend % 2 ^ 32 ∧
      t.epoch.scheduled = false ∧ t.epoch.pending = false ∧ t.fld EPOCH_ARMED.COUNT 0 = s.fld EPOCH_ARMED.COUNT 0) ∧
  (∀ (s : State) (req : Req), s.OpenReg .EPOCH_CTL 0 req → s.epoch.scheduled = false →
    s.fld EPOCH_CUR.EPOCH 0 < s.epoch.stored → s.epoch.stored ≠ s.epoch.pend ∨ s.epoch.pending = false →
    ∃ t, exec (.epochCtlArm req) s = .next t ∧ t.epoch.pend = s.epoch.stored ∧ t.epoch.pending = true ∧
      t.fld EPOCH_ARMED.COUNT 0 = 0)

/-- R294: in CLOCKED, CORE_ON switches PD1 and PD110 on, moves the control-port target from the port keeper to PD1, and the tile
enters BRING_UP; until then the port keeper answers. -/
def Obligations.CoreOnEntersBringUp : Prop :=
  ∀ (s : State) (req : Req), s.OpenReg .PWR_CMD 0 req → s.tile.st = TileState.clocked → s.clk.safe = false →
    s.keeper = true ∧
    ∃ t, exec (.coreOn req) s = .next t ∧ t.pwr.core = true ∧ t.tile.st = TileState.bringUp ∧
      t.tile.prev = TileState.clocked ∧ t.keeper = false ∧ t.tile.addr = s.tile.addr ∧ t.regs = s.regs

/-- R54, R55, R56: a poll of an ACTIVE or HELD queue, and of a DOZING one whose INT is not 0, reads the next group of descriptors of
its ring, as many as GROUP, the room in its prefetch cache and the end of the ring allow; nothing else of any queue changes. With no
room, or a read under way, nothing is read. -/
def Obligations.PollsReadTheNextGroup : Prop :=
  (∀ (s : State) (q n : Nat), s.working = true → q < 256 → (s.rq q).st = RqState.active ∨ (s.rq q).st = RqState.held →
    s.isOn (pg .qeng) = true → s.qStopped = false → (s.rq q).fetching = false →
    n = min s.fetchGroup (min (s.prefDepth q - s.prefetched q) (2 ^ s.rqLog q - s.fld RQ_HEAD.INDEX q)) → n ≠ 0 →
    ∃ t, exec (.rqPoll q) s = .next t ∧ t.rq q = { s.rq q with fetching := true } ∧ (∀ r, r ≠ q → t.rq r = s.rq r) ∧
      t.fab = (s.startRead (.desc q (s.fld RQ_HEAD.INDEX q)) (fnAttr (s.fld RQ_CFG.FUNC q) false false)
        (4096 * s.fld RQ_BASE.BASE q + 64 * s.fld RQ_HEAD.INDEX q) (64 * n) none).2.fab) ∧
  (∀ (s : State) (q n : Nat), s.working = true → q < 256 → (s.rq q).st = RqState.dozing → s.fld RQ_XDOZE.INT q ≠ 0 →
    s.isOn (pg .qeng) = true → s.qStopped = false → (s.rq q).fetching = false →
    n = min s.fetchGroup (min (s.prefDepth q - s.prefetched q) (2 ^ s.rqLog q - s.fld RQ_HEAD.INDEX q)) → n ≠ 0 →
    ∃ t, exec (.rqDozePoll q) s = .next t ∧ t.rq q = { s.rq q with fetching := true } ∧ (∀ r, r ≠ q → t.rq r = s.rq r) ∧
      t.fab = (s.startRead (.desc q (s.fld RQ_HEAD.INDEX q)) (fnAttr (s.fld RQ_CFG.FUNC q) false false)
        (4096 * s.fld RQ_BASE.BASE q + 64 * s.fld RQ_HEAD.INDEX q) (64 * n) none).2.fab) ∧
  (∀ (s : State) (q : Nat), (s.rq q).st = RqState.dozing → s.fld RQ_XDOZE.INT q = 0 → exec (.rqDozePoll q) s = .next s) ∧
  (∀ (s : State) (q : Nat), (s.rq q).fetching = true ∨ s.prefDepth q ≤ s.prefetched q →
    exec (.rqPoll q) s = .next s ∧ exec (.rqDozePoll q) s = .next s)

/-- R56, R65, R69: a kick, by the administrator or by the client that owns the queue, returns a queue that accepts entries to its
shortest interval and from DOZING to ACTIVE, or to HELD while its CQ is full, and polls it; a queue that does not accept entries
ignores it, and a client's kick of a queue of another function is ignored. -/
def Obligations.KicksWakeTheQueue : Prop :=
  (∀ (s : State) (q n : Nat) (x : Rq) (c : Instr), q < 256 → (s.rq q).st.accepts = true →
    (∃ v req, c = .rqKick q v req ∧ s.OpenReg .RQ_KICK q req) ∨
      (∃ f v req, c = .fnRqKick f v req ∧ f < 64 ∧ s.Reach .FN_RQ_KICK f req ∧ fget (v.setWidth 64) 7 0 = q ∧
        s.ownsRq f q = true) →
    x = { s.rq q with
      st := if (s.rq q).st = RqState.dozing then
        (if (s.cq (s.fld RQ_CFG.CQ q)).full then RqState.held else RqState.active) else (s.rq q).st
      interval := s.minInt q, emptyMax := 0 } →
    n = min s.fetchGroup (min (s.prefDepth q - s.prefetched q) (2 ^ s.rqLog q - s.fld RQ_HEAD.INDEX q)) →
    ∃ t, exec c s = .next t ∧ (∀ r, r ≠ q → t.rq r = s.rq r) ∧ t.cp.rsp = [⟨.ok, 0, 0⟩] ∧
      (s.isOn (pg .qeng) = true → s.qStopped = false → (s.rq q).fetching = false → n ≠ 0 → t.rq q = { x with fetching := true } ∧
        t.fab = (s.startRead (.desc q (s.fld RQ_HEAD.INDEX q)) (fnAttr (s.fld RQ_CFG.FUNC q) false false)
          (4096 * s.fld RQ_BASE.BASE q + 64 * s.fld RQ_HEAD.INDEX q) (64 * n) none).2.fab) ∧
      (s.isOn (pg .qeng) = false ∨ s.qStopped = true ∨ (s.rq q).fetching = true ∨ n = 0 → t.rq q = x ∧ t.fab = s.fab)) ∧
  (∀ (s : State) (q : Nat) (v : W32) (req : Req), q < 256 → s.OpenReg .RQ_KICK q req → (s.rq q).st.accepts = false →
    exec (.rqKick q v req) s = .next s.answeredOk) ∧
  (∀ (s : State) (f q : Nat) (v : W32) (req : Req), f < 64 → s.Reach .FN_RQ_KICK f req → fget (v.setWidth 64) 7 0 = q →
    s.ownsRq f q = false ∨ (s.rq q).st.accepts = false → exec (.fnRqKick f v req) s = .next s.answeredOk)

/-- R46, R51, R55: a returned descriptor that its lap owns is accepted in ring order and the queue's index moves on; where it passes the
end of the ring it is 0 again and the lap count goes up by 1, from 0xFFFF to 0; while the cache has room the next one is read at
once. One that is not owned is not accepted, and the
interval doubles up to MAX_INT. R64, R65: a fetch that failed fences the queue with cause 1, also one that drains, and what it
accepted before stays to be issued; a draining queue accepts nothing that returns. -/
def Obligations.FetchedDescriptorsAreAccepted : Prop :=
  (∀ (s : State) (q i : Nat) (x : Xfer), s.working = true → q < 256 → s.fab.mail = [x] → x.kind = .desc q i →
    x.failed = none → x.retried = false → x.bytes.length = 64 → (s.rq q).st.accepts = true → s.qStopped = false →
    s.fld RQ_HEAD.INDEX q = i → i < 2 ^ s.rqLog q → (s.rq q).ahead = [] → (s.rq q).tornRuns = [] →
    (Desc.ofBytes x.bytes).ownedFor (s.fld RQ_HEAD.LAP q) = true →
    ∃ t a, exec (.descFetchDone q) s = .next t ∧ (t.rq q).acc = (s.rq q).acc ++ [a] ∧ a.idx = i ∧
      a.lap = s.fld RQ_HEAD.LAP q ∧ a.d = Desc.ofBytes x.bytes ∧ (t.rq q).interval = s.minInt q ∧
      (t.rq q).more = true ∧ ((t.rq q).fetching = true ↔ s.isOn (pg .qeng) = true ∧ s.prefetched q + 1 < s.prefDepth q) ∧
      t.fld RQ_HEAD.INDEX q = (if i + 1 = 2 ^ s.rqLog q then 0 else i + 1) ∧
      t.fld RQ_HEAD.LAP q = (if i + 1 = 2 ^ s.rqLog q then (s.fld RQ_HEAD.LAP q + 1) % 65536 else s.fld RQ_HEAD.LAP q)) ∧
  (∀ (s : State) (q i : Nat) (x : Xfer), s.working = true → q < 256 → s.fab.mail = [x] → x.kind = .desc q i →
    x.failed = none → x.retried = false → x.bytes.length = 64 → (s.rq q).st.accepts = true → s.qStopped = false →
    (s.rq q).ahead = [] → (s.rq q).tornRuns = [] → (Desc.ofBytes x.bytes).own = false →
    max (s.rq q).interval (s.minInt q) < s.maxInt q →
    ∃ t, exec (.descFetchDone q) s = .next t ∧ (t.rq q).acc = (s.rq q).acc ∧ (t.rq q).fetching = false ∧
      (t.rq q).interval = min (2 * max (s.rq q).interval (s.minInt q)) (s.maxInt q) ∧
      t.fld RQ_HEAD.INDEX q = s.fld RQ_HEAD.INDEX q ∧ t.fld RQ_HEAD.LAP q = s.fld RQ_HEAD.LAP q) ∧
  (∀ (s : State) (q i : Nat) (x : Xfer) (f : FabFail), s.working = true → q < 256 → s.fab.mail = [x] → x.kind = .desc q i →
    x.failed = some f → (s.rq q).st.accepts = true ∨ (s.rq q).st = RqState.draining →
    ∃ t, exec (.descFetchFail q) s = .next t ∧ (t.rq q).st = RqState.fenced ∧ (t.rq q).fetchFenced = true ∧
      (t.rq q).acc = (s.rq q).acc ∧ t.flag RQ_ERR.FENCED q = true ∧ t.fld RQ_ERR.CAUSE q = 1 ∧
      (t.hdr (pg .qeng)).fault.getLsbD 9 = true) ∧
  (∀ (s : State) (q i : Nat) (x : Xfer), s.working = true → q < 256 → s.fab.mail = [x] → x.kind = .desc q i →
    x.failed = none → x.retried = false → x.bytes.length = 64 → (s.rq q).st = RqState.draining → s.qStopped = false →
    (s.rq q).tornRuns = [] → (Desc.ofBytes x.bytes).ownedFor (s.fld RQ_HEAD.LAP q) = true →
    ∃ t, exec (.descFetchDone q) s = .next t ∧ (t.rq q).st = RqState.draining ∧ (t.rq q).acc = (s.rq q).acc ∧
      (t.rq q).ahead = [] ∧ (t.rq q).fetching = false ∧ t.fld RQ_HEAD.INDEX q = s.fld RQ_HEAD.INDEX q ∧
      t.fld RQ_HEAD.LAP q = s.fld RQ_HEAD.LAP q)

/-- R57, R58, R60, R151: a cycle of issue, at which CBUF_WAIT shows already what it is to show. One accepted element of the only
queue that has one, eligible and with credit, is issued and its completion slot granted; one that fails a check of R50 completes
with BAD_OPCODE and the reason of the check. The next element of a chain whose issue is under way joins its chain, also under PAUSE.
No other issue begins while PAUSE is set, and nothing is issued outside READY and RUN, or while the queue engine has stopped. The model's own readings in it are those of
log entries 49 and 103. -/
def Obligations.IssueTakesTheHead : Prop :=
  (∀ (s : State) (q : Nat) (a : Accepted), s.working = true → s.dispatching = true → s.isOn (pg .qeng) = true →
    s.flag QENG_CTL.PAUSE 0 = false → s.qStopped = false → s.qeng.issuing = [] → s.markCbuf = s → s.readyRqs = [q] →
    (s.rq q).acc = [a] → a.d.chain = false →
    a.d.secretHandoff = false → issueReason a.d (s.fld RQ_CFG.QUAD_MASK q) = none → 0 < (s.rq q).credit →
    s.issuable q = true →
    ∃ t e, exec .schedIssue s = .next t ∧ t.qeng.issued = s.qeng.issued ++ [e] ∧ e.rq = q ∧ e.idx = a.idx ∧ e.lap = a.lap ∧
      e.d = a.d ∧ e.func = s.fld RQ_CFG.FUNC q ∧ e.cq = s.fld RQ_CFG.CQ q ∧ (t.rq q).acc = [] ∧
      (t.rq q).inflight = (s.rq q).inflight + 1 ∧ (t.rq q).credit = (s.rq q).credit - 1 ∧
      (t.cq (s.fld RQ_CFG.CQ q)).grants = (s.cq (s.fld RQ_CFG.CQ q)).grants + 1) ∧
  (∀ (s : State) (q r : Nat) (a : Accepted), s.working = true → s.dispatching = true → s.isOn (pg .qeng) = true →
    s.flag QENG_CTL.PAUSE 0 = false → s.qStopped = false → s.qeng.issuing = [] → s.markCbuf = s → s.readyRqs = [q] →
    (s.rq q).acc = [a] → a.d.chain = false →
    issueReason a.d (s.fld RQ_CFG.QUAD_MASK q) = some r → 0 < (s.rq q).credit →
    s.issuable q = true →
    ∃ t, exec .schedIssue s = .next t ∧ s.Completes t 25 (s.elemOf q a) stBadOpcode r ∧
      t.qeng.issued = s.qeng.issued ∧ (t.rq q).acc = []) ∧
  (∀ (s : State) (c : Nat) (ch : Chain) (e : Elem), s.working = true → s.dispatching = true → s.isOn (pg .qeng) = true →
    s.qStopped = false → s.qeng.issuing = [(e, none)] → s.readyRqs = [] → e.chain = some c →
    e.pos ≠ 0 → s.chain? c = some ch →
    ∃ t x, exec .schedIssue s = .next t ∧ t.qeng.issuing = [] ∧ t.chain? c = some { ch with rest := ch.rest ++ [x] } ∧ x.d = e.d ∧
      x.rq = e.rq ∧ x.idx = e.idx ∧ x.pos = e.pos ∧ (t.rq e.rq).inflight = (s.rq e.rq).inflight + 1 ∧
      t.qeng.issued = s.qeng.issued) ∧
  (∀ (s : State), (s.flag QENG_CTL.PAUSE 0 = true ∧ s.qeng.issuing = []) ∨ s.dispatching = false ∨ s.isOn (pg .qeng) = false ∨
      s.qStopped = true →
    exec .schedIssue s = .next s)

/-- R59, R62, R63, R43, R149: dispatch of issued elements in READY and RUN. MARKER completes OK; RANDOM goes to the random number
source in arrival order, unless its producer stalls; a digest request that meets a FENCED DIGEST block completes with FENCED and
reason 0x2E, and waits while the block is OFF or in a transition; the next element of a chain goes on when its predecessor has
completed. The first dispatch takes the tile to RUN. The model's own readings in it are those of log entry 49. -/
def Obligations.DispatchFollowsTheOpcode : Prop :=
  (∀ (s : State) (n : Nat) (e : Elem), s.working = true → s.dispatching = true → s.issuedAt n = some e → e.d.opcode = 0x60 →
    ∃ t, exec (.marker n) s = .next t ∧ s.Completes t 25 e stOk 0 ∧ t.qeng.issued = s.qeng.issued.eraseIdx n ∧
      t.tile.st = TileState.run) ∧
  (∀ (s : State) (n : Nat) (e : Elem), s.working = true → s.dispatching = true → s.issuedAt n = some e → e.d.opcode = 0x50 →
    s.stalling 23 = false →
    ∃ t j, exec (.dispatch n) s = .next t ∧ t.rng.jobs = s.rng.jobs ++ [j] ∧ j.elem.d = e.d ∧
      j.elem.rq = e.rq ∧ j.elem.idx = e.idx ∧ j.elem.func = e.func ∧ t.qeng.issued = s.qeng.issued.eraseIdx n ∧
      t.tile.st = TileState.run) ∧
  (∀ (s : State) (n : Nat) (e : Elem), s.working = true → s.dispatching = true → s.issuedAt n = some e →
    e.d.opcode = 0x20 ∨ e.d.opcode = 0x21 ∨ e.d.opcode = 0x22 →
    (s.blk (pg .digest) = BlkState.fenced →
      ∃ t, exec (.dispatch n) s = .next t ∧ s.Completes t 25 e stFenced 0x2E ∧ t.qeng.issued = s.qeng.issued.eraseIdx n ∧
        t.tile.st = TileState.run) ∧
    (s.blk (pg .digest) = BlkState.off ∨ s.blk (pg .digest) = BlkState.comingUp ∨ s.blk (pg .digest) = BlkState.goingDown →
      exec (.dispatch n) s = .next s)) ∧
  (∀ (s : State) (i : Nat) (ch : Chain) (e : Elem) (rest : List Elem), s.working = true → s.dispatching = true →
    s.chain? i = some ch → ch.rest = e :: rest → ch.ready = true → e.d.isFrame = true →
    exec (.chainNextDispatch i) s = .next { s with qeng := { s.qeng with
      chains := s.qeng.chains.map (fun (c : Chain) => if c.id == i then { c with rest := rest, ready := false } else c)
      issued := s.qeng.issued ++ [e] } }) ∧
  (∀ (s : State) (i : Nat) (ch : Chain) (e : Elem) (rest : List Elem), s.working = true → s.dispatching = true →
    s.chain? i = some ch → ch.rest = e :: rest → ch.ready = true → e.d.opcode = 0x60 →
    ∃ t, exec (.chainNextDispatch i) s = .next t ∧ t.chain? i = some { ch with rest := rest, ready := false } ∧
      s.Completes t 25 e stOk 0 ∧ t.tile.st = TileState.run) ∧
  (∀ (s : State) (i : Nat) (ch : Chain), s.chain? i = some ch → ch.ready = false →
    exec (.chainNextDispatch i) s = .next s)

/-- R65, R66: EN = 1 on a DISABLED queue takes the value's fields and, where its CQ is ON and its function's and the function is not
fenced, enables it at RQ_HEAD, in HELD while the CQ is full, and reads its first group; where the binding fails EN reads 0 and SEQ is
set. EN = 1 is refused with SEQ while the queue drains or is fenced, and changes nothing of a queue that runs, where another field
that differs sets SEQ. EN = 0 drains a queue that runs: what was read and not accepted is discarded, a read under way goes on, and it is
DISABLED once nothing of it is accepted, being issued or in flight. EN = 0 returns a FENCED queue to DISABLED; at one that drains or is
DISABLED it only clears EN. R67: PAUSE takes the written bit. The model's own readings in it are those of log entries 14, 82, 94 and
95. -/
def Obligations.QueuesAreEnabledAndDrained : Prop :=
  (∀ (s : State) (q : Nat) (v : W32) (req : Req) (f c : Nat), q < 256 → s.OpenReg .RQ_CFG q req →
    (s.rq q).st = RqState.disabled → f = fget (v.setWidth 64) 21 16 → c = fget (v.setWidth 64) 13 8 →
    (s.cq c).st = CqState.on → s.fld CQ_CFG.FUNC c = f → bitAt (s.fld FLT_FUNC.MAP (f / 32)) (f % 32) = false →
    ∃ t, exec (.rqEnable q v req) s = .next t ∧
      (t.rq q).st = (if (s.cq c).full then RqState.held else RqState.active) ∧ (t.rq q).interval = s.minInt q ∧
      (t.rq q).acc = [] ∧ t.flag RQ_CFG.EN q = true ∧ t.fld RQ_CFG.FUNC q = f ∧ t.fld RQ_CFG.CQ q = c ∧
      t.fld RQ_CFG.SIZE_LOG2 q = fget (v.setWidth 64) 28 24 ∧ t.fld RQ_CFG.QUAD_MASK q = fget (v.setWidth 64) 3 0 ∧
      t.fld RQ_HEAD.INDEX q = s.fld RQ_HEAD.INDEX q ∧ t.fld RQ_HEAD.LAP q = s.fld RQ_HEAD.LAP q ∧
      (s.isOn (pg .qeng) = true → s.qStopped = false → s.qeng.issuing = [] → s.qeng.issued = [] → s.qeng.chains = [] →
        s.fld RQ_HEAD.INDEX q < 2 ^ t.rqLog q → (t.rq q).fetching = true)) ∧
  (∀ (s : State) (q : Nat) (v : W32) (req : Req) (f c : Nat), q < 256 → s.OpenReg .RQ_CFG q req →
    (s.rq q).st = RqState.disabled → f = fget (v.setWidth 64) 21 16 → c = fget (v.setWidth 64) 13 8 →
    (s.cq c).st ≠ CqState.on ∨ s.fld CQ_CFG.FUNC c ≠ f ∨ bitAt (s.fld FLT_FUNC.MAP (f / 32)) (f % 32) = true →
    ∃ t, exec (.rqEnable q v req) s = .next t ∧ (t.hdr (pg .qeng)).fault.getLsbD 5 = true ∧ t.qeng = s.qeng ∧
      t.flag RQ_CFG.EN q = false ∧ t.fld RQ_CFG.FUNC q = f ∧ t.fld RQ_CFG.CQ q = c) ∧
  (∀ (s : State) (q : Nat) (v : W32) (req : Req), q < 256 → s.OpenReg .RQ_CFG q req →
    (s.rq q).st = RqState.draining ∨ (s.rq q).st = RqState.fenced →
    ∃ t, exec (.rqEnable q v req) s = .next t ∧ (t.hdr (pg .qeng)).fault.getLsbD 5 = true ∧ t.qeng = s.qeng ∧ t.regs = s.regs) ∧
  (∀ (s : State) (q : Nat) (v : W32) (req : Req), q < 256 → s.OpenReg .RQ_CFG q req → (s.rq q).st.accepts = true →
    ((v.setWidth 64 ^^^ s.reg .RQ_CFG q) &&& 0x1F3F3F0F = 0 → exec (.rqEnable q v req) s = .next s.answeredOk) ∧
    ((v.setWidth 64 ^^^ s.reg .RQ_CFG q) &&& 0x1F3F3F0F ≠ 0 →
      ∃ t, exec (.rqEnable q v req) s = .next t ∧ (t.hdr (pg .qeng)).fault.getLsbD 5 = true ∧ t.qeng = s.qeng ∧
        t.regs = s.regs)) ∧
  (∀ (s : State) (q : Nat) (req : Req), q < 256 → s.OpenReg .RQ_CFG q req → (s.rq q).st.accepts = true →
    ∃ t, exec (.rqDisable q req) s = .next t ∧ t.flag RQ_CFG.EN q = false ∧ (t.rq q).acc = (s.rq q).acc ∧ (t.rq q).ahead = [] ∧
      (t.rq q).st = (if (s.rq q).acc = [] ∧ (s.rq q).inflight = 0 ∧ s.issuingOf q = false then RqState.disabled else RqState.draining) ∧
      ((t.rq q).st = RqState.draining → t.fab = s.fab ∧ (t.rq q).fetching = (s.rq q).fetching) ∧
      t.fld RQ_CFG.FUNC q = s.fld RQ_CFG.FUNC q ∧ t.fld RQ_CFG.CQ q = s.fld RQ_CFG.CQ q ∧
      t.fld RQ_HEAD.INDEX q = s.fld RQ_HEAD.INDEX q ∧ t.fld RQ_HEAD.LAP q = s.fld RQ_HEAD.LAP q) ∧
  (∀ (s : State) (q : Nat) (req : Req), q < 256 → s.OpenReg .RQ_CFG q req → (s.rq q).st = RqState.fenced →
    ∃ t, exec (.rqDisable q req) s = .next t ∧ t.flag RQ_CFG.EN q = false ∧ (t.rq q).st = RqState.disabled ∧ (t.rq q).acc = [] ∧
      t.flag RQ_ERR.FENCED q = false ∧ t.fld RQ_HEAD.INDEX q = s.fld RQ_HEAD.INDEX q) ∧
  (∀ (s : State) (q : Nat) (req : Req), q < 256 → s.OpenReg .RQ_CFG q req →
    (s.rq q).st = RqState.draining ∨ (s.rq q).st = RqState.disabled →
    ∃ t, exec (.rqDisable q req) s = .next t ∧ t.flag RQ_CFG.EN q = false ∧ t.qeng = s.qeng ∧ t.hdrs = s.hdrs) ∧
  (∀ (s : State) (b : Bool) (req : Req), s.OpenReg .QENG_CTL 0 req →
    ∃ t, exec (.qengPause b req) s = .next t ∧ t.flag QENG_CTL.PAUSE 0 = b ∧ t.qeng = s.qeng ∧ t.hdrs = s.hdrs ∧
      (∀ r n, r ≠ .QENG_CTL → t.reg r n = s.reg r n))

/-- R16, R63, R71, R72, R89, R121: dispatch of a frame. One whose context is found, whose fields are good and for which a quad of
its queue's mask has room goes there: its bytes are charged to the quad's staging, a transmit frame takes NEXT_PN, and the tile
enters RUN. One that the lookup refuses completes with that status, and one whose mask names no quad that could serve it
with FENCED. A frame whose first bytes are in goes to the lane that the dispatch port picks, with the key of its slot; one whose
context is not resident any more completes with FENCED (the model's choice, log entry 102). -/
def Obligations.FramesAreDispatched : Prop :=
  (∀ (s u : State) (n k q pn need : Nat) (b : Bool) (e : Elem), s.working = true → s.dispatching = true →
    s.frameAt n = some e →
    (∃ p, p ∈ s.maskQuads e.rq ∧ s.blk (quadPg p) ≠ BlkState.off ∧ s.blk (quadPg p) ≠ BlkState.fenced) →
    s.isOn (pg .ctx) = true → s.stalling 22 = false → s.lookup (e.stamp 2 s.now) false = (.found k, u) →
    s.masks (k / 64) = true → admission (u.clearCtx k) e.d = .run b pn → need = e.d.srcLen + needLen (u.clearCtx k) e.d →
    s.pickQuad e.rq need = some q →
    ∃ t f, exec (.frameDispatch n) s = .next t ∧ t.frames.list = s.frames.list ++ [f] ∧ f.quad = q ∧ f.slotB = b ∧
      f.pn = pn ∧ f.st = FrameSt.reading ∧ f.elem.d = e.d ∧ f.elem.rq = e.rq ∧ f.elem.idx = e.idx ∧
      (t.quad q).staged = (s.quad q).staged + need ∧
      (takesPn e.d.opcode = true → ((t.clearCtx k).slot b).pn = (pn + 1) % 2 ^ 64) ∧
      t.qeng.issued = s.qeng.issued.eraseIdx n ∧ t.tile.st = TileState.run) ∧
  (∀ (s u : State) (n st : Nat) (e : Elem), s.working = true → s.dispatching = true → s.frameAt n = some e →
    (∃ p, p ∈ s.maskQuads e.rq ∧ s.blk (quadPg p) ≠ BlkState.off ∧ s.blk (quadPg p) ≠ BlkState.fenced) →
    s.isOn (pg .ctx) = true → s.stalling 22 = false → s.lookup (e.stamp 2 s.now) false = (.refused st, u) →
    ∃ t, exec (.frameDispatch n) s = .next t ∧ s.Completes t 22 e st 0 ∧ t.qeng.issued = s.qeng.issued.eraseIdx n ∧
      t.frames = s.frames ∧ t.tile.st = TileState.run) ∧
  (∀ (s : State) (n : Nat) (e : Elem), s.working = true → s.dispatching = true → s.frameAt n = some e →
    (∀ p, p ∈ s.maskQuads e.rq → s.blk (quadPg p) = BlkState.off ∨ s.blk (quadPg p) = BlkState.fenced) →
    ∃ t, exec (.frameDispatch n) s = .next t ∧ s.Completes t 25 e stFenced 0 ∧ t.qeng.issued = s.qeng.issued.eraseIdx n ∧
      t.frames = s.frames ∧ t.tile.st = TileState.run) ∧
  (∀ (s : State) (q n : Nat) (f : Frame), s.working = true → q < 4 →
    s.frames.list.find? (fun f => f.quad == q && f.st == .reading && f.startable && s.keyReady f) = some f →
    (s.findWay f.elem.d.object).isSome = true → s.pickLane q = some n → s.quadClock q = true → (s.tile.st = TileState.test → s.flag LANE_XINJECT.ARM n = false) →
    ∃ t g, exec (.frameStaged q) s = .next t ∧ t.frame? f.id = some g ∧ g.st = FrameSt.inLane ∧ g.lane = n ∧
      g.key = s.loadKey f ∧ (t.lane n).frames = (s.lane n).frames ++ [f.id] ∧ (t.quad q).lastLane = n % 4) ∧
  (∀ (s : State) (q : Nat) (f : Frame), s.working = true → q < 4 →
    s.frames.list.find? (fun f => f.quad == q && f.st == .reading && f.startable && s.keyReady f) = some f →
    s.findWay f.elem.d.object = none →
    ∃ t, exec (.frameStaged q) s = .next t ∧ s.Completes t 25 f.elem stFenced 0 ∧ t.frame? f.id = none)

/-- R75, R81, R82, R85, R86, R88, R91–R95: each of the eight frame opcodes, for the frame at the head of a lane whose bytes are all
in. The lane makes of it what its opcode says; a received frame that the replay state refuses at its commit completes with REPLAY.
It leaves the lane with one completion, and what a frame that succeeds has made is written to its DST. -/
def Obligations.LanesRunTheirFrames : Prop :=
  ∀ (s : State) (c : Instr) (n op k st r late : Nat) (f : Frame) (l : List Nat) (o : Outcome), s.working = true → n < 16 →
    (c, op) ∈ [(Instr.macsecProtect n, 0x10), (.macsecValidate n, 0x11), (.espEncrypt n, 0x12), (.espDecrypt n, 0x13),
      (.gcmSeal n, 0x14), (.gcmOpen n, 0x15), (.chachaSeal n, 0x16), (.chachaOpen n, 0x17)] →
    (s.lane n).frames = f.id :: l → s.frame? f.id = some f → f.elem.d.opcode = op → f.lane = n →
    s.quadClock f.quad = true → f.failed = false → f.complete = true → f.committed = none →
    s.findWay f.elem.d.object = some k → (s.way k).st ≠ WaySt.filling →
    o = laneRun (s.clearCtx k) f.key.1 f.key.2 f.an f.pn f.elem.d f.input →
    late = (commitRx (s.clearCtx k) f.slotB f.pn).1 →
    (st, r) = (if o.status = stOk ∧ (op = 0x11 ∨ op = 0x13) ∧ late ≠ 0 then (stReplay, late) else (o.status, o.reason)) →
    ∃ t, exec c s = .next t ∧ s.Completes t n f.elem st r ∧ f.id ∉ (t.lane n).frames ∧
      (st = stOk → o.late = false → o.out ≠ [] →
        t.fab = (s.startWrite (.frameDst f.id) f.elem.attr f.elem.d.dst o.out (some f.quad)).2.fab)

/-- R94, R98, R100: the end of a frame's DST writes frees its staging bytes and its completion, which is FABRIC_ERROR if a write
failed for good; the end of a window starts the AUTH_FAIL count again; a staging error in input bytes has them read once more, and
one in output bytes has the frame replayed. The model's own readings in it are those of log entry 80. -/
def Obligations.FramesEndWithTheirWrites : Prop :=
  (∀ (s : State) (i : Nat) (x : Xfer) (f : Frame), s.working = true → s.fab.mail = [x] → x.kind = .frameDst i →
    s.frame? i = some f →
    ∃ t, exec (.frameDstWritesDone i) s = .next t ∧ t.frame? i = none ∧
      (t.quad f.quad).staged = (s.quad f.quad).staged - (f.resv + f.outHeld) ∧
      ∀ p k, k ∈ s.fifo p → k.frame = some i → ∃ k', k' ∈ t.fifo p ∧ k'.elem = k.elem ∧ k'.frame = none ∧
        k'.status = (if x.failed.isSome then stFabricError else k.status)) ∧
  (∀ (s : State) (q : Nat), s.working = true → q < 4 →
    ∃ t, exec (.afailWindowEnd q) s = .next t ∧ t.fld QUAD_AFAIL_CNT.COUNT q = 0 ∧ (t.quad q).afailRaised = false ∧
      (t.quad q).staged = (s.quad q).staged ∧ t.hdrs = s.hdrs ∧ ∀ r n, r ≠ .QUAD_AFAIL_CNT ∨ n ≠ q → t.reg r n = s.reg r n) ∧
  (∀ (s : State) (i : Nat) (f : Frame), s.working = true → s.frame? i = some f →
    f.st = FrameSt.reading ∨ f.st = FrameSt.inLane → f.reread = false →
    ∃ t g, exec (.stagingEccError i false) s = .next t ∧ t.frame? i = some g ∧ g.src = [] ∧ g.complete = false ∧
      g.reread = true ∧ g.st = f.st ∧ (t.hdr (quadPg f.quad)).fault.getLsbD 10 = true) ∧
  (∀ (s : State) (i : Nat) (f : Frame), s.working = true → s.frame? i = some f → f.st = FrameSt.inLane → f.replayOf = none →
    ∃ t g, exec (.stagingEccError i true) s = .next t ∧ t.frame? i = some g ∧ g.st = FrameSt.replay ∧
      g.replayOf = some f.lane ∧ i ∉ (t.lane f.lane).frames ∧ (t.hdr (quadPg f.quad)).fault.getLsbD 10 = true)

/-- R96, R99: a lane that detects an error records it, gives the frame up for a replay on a sibling and owes a check; an error in a
replay, of the only frame of its quad, is the failed retry, and fences the quad. A replay goes to a lane that may take it, and
counts; a frame whose context is gone completes with FENCED in its place. A check that passes frees the lane, one that fails
fences it; RUN asks for one, and so does the period; LANE_XINJECT takes what is written and counts its frames from zero. The
model's own readings in it are those of log entries 20, 80, 81, 82 and 102. -/
def Obligations.LaneErrorsAreReplayedAndChecked : Prop :=
  (∀ (s : State) (n i c st : Nat) (f : Frame), s.working = true → n < 16 → 1 ≤ c → c ≤ 4 → st < 18 →
    (s.lane n).frames[i]? = some f.id → s.frame? f.id = some f → f.lane = n → f.replayOf = none →
    s.isOn (lanePg n) = true ∨ s.blk (lanePg n) = BlkState.goingDown →
    (quadLanes f.quad).any (fun m => m != n && s.laneFit m) = true →
    ∃ t g, exec (.laneError n i c st) s = .next t ∧ t.frame? f.id = some g ∧ g.st = FrameSt.replay ∧ g.replayOf = some n ∧
      f.id ∉ (t.lane n).frames ∧ (t.lane n).check = CheckSt.waiting ∧ (t.lane n).erring = true ∧
      (t.hdr (lanePg n)).fault.getLsbD 8 = true ∧ t.flag LANE_ERR.VALID n = true ∧
      (s.flag LANE_ERR.VALID n = false → t.fld LANE_ERR.CAUSE n = c ∧ t.fld LANE_ERR.STAGE n = st) ∧
      t.fld LANE_ERR.COUNT n = min (s.fld LANE_ERR.COUNT n + 1) 0xFFFF) ∧
  (∀ (s : State) (n i c st o : Nat) (f : Frame), s.working = true → n < 16 → (s.lane n).frames[i]? = some f.id →
    s.frame? f.id = some f → f.lane = n → f.replayOf = some o → f.st = FrameSt.inLane → (s.lane o).erring = true →
    s.isOn (lanePg n) = true ∨ s.blk (lanePg n) = BlkState.goingDown →
    f.quad < 4 → s.isOn (quadPg f.quad) = true → (∀ g, g ∈ s.frames.list → g.quad = f.quad → g = f) →
    ∃ t, exec (.laneError n i c st) s = .next t ∧ s.Completes t n f.elem stFenced 0 ∧ t.frame? f.id = none ∧
      (t.hdr (quadPg f.quad)).fault.getLsbD 9 = true ∧ t.blk (quadPg f.quad) = BlkState.fenced ∧
      (t.hdr (quadPg f.quad)).fence = ⟨0x02, 4, false⟩) ∧
  (∀ (s : State) (q n : Nat) (f : Frame), s.working = true → q < 4 →
    s.frames.list.find? (fun f => f.quad == q && f.st == .replay && s.keyReady f &&
      (quadLanes q).any (fun n => s.replayFit f n)) = some f →
    s.quadClock q = true → s.pickOf q (fun n => s.replayFit f n) = some n → s.findWay f.elem.d.object ≠ none →
    ∃ t g, exec (.laneReplayStart q) s = .next t ∧ t.frame? f.id = some g ∧ g.st = FrameSt.inLane ∧ g.lane = n ∧
      (t.lane n).frames = (s.lane n).frames ++ [f.id] ∧
      t.fld QUAD_REPLAY.COUNT q = min (s.fld QUAD_REPLAY.COUNT q + 1) 0xFFFFFFFF) ∧
  (∀ (s : State) (q : Nat) (f : Frame), s.working = true → q < 4 →
    s.frames.list.find? (fun f => f.quad == q && f.st == .replay && s.keyReady f &&
      (quadLanes q).any (fun n => s.replayFit f n)) = some f →
    s.quadClock q = true → s.findWay f.elem.d.object = none → f.lane < 16 →
    ∃ t, exec (.laneReplayStart q) s = .next t ∧ s.Completes t f.lane f.elem stFenced 0 ∧ t.frame? f.id = none) ∧
  (∀ (s : State) (n : Nat) (pass : Bool), s.working = true → n < 16 → (s.lane n).check ≠ CheckSt.idle →
    (s.lane n).frames = [] → s.isOn (lanePg n) = true → (s.lane n).erring = false →
    ∃ t, exec (.laneCheckDone n pass) s = .next t ∧ t.flag LANE_CHECK.DONE n = true ∧ t.flag LANE_CHECK.PASS n = pass ∧
      t.flag LANE_CHECK.RUN n = false ∧ (t.lane n).check = CheckSt.idle ∧ (t.hdr (lanePg n)).event.getLsbD 1 = true ∧
      (pass = false → t.blk (lanePg n) = BlkState.fenced ∧ (t.hdr (lanePg n)).fence = ⟨0x01, 3, false⟩ ∧
        (t.hdr (lanePg n)).fault.getLsbD 9 = true)) ∧
  (∀ (s : State) (n : Nat) (req : Req), n < 16 → s.OpenReg .LANE_CHECK n req → s.isOn (lanePg n) = true →
    ∃ t, exec (.laneCheckRun n req) s = .next t ∧ t.flag LANE_CHECK.RUN n = true ∧ t.flag LANE_CHECK.DONE n = false ∧
      (t.lane n).check = CheckSt.waiting ∧ (t.lane n).frames = (s.lane n).frames) ∧
  (∀ (s : State) (n : Nat), s.working = true → n < 16 → s.isOn (lanePg n) = true → (s.lane n).check = CheckSt.idle →
    s.fld LANE_XCHECK.PERIOD n ≠ 0 →
    ∃ t, exec (.lanePeriodicCheck n) s = .next t ∧ t.lane n = { s.lane n with check := CheckSt.due } ∧
      ∀ m, m ≠ n → t.lane m = s.lane m) ∧
  (∀ (s : State) (n : Nat) (v : W32) (req : Req), n < 16 → s.OpenReg .LANE_XINJECT n req →
    ∃ t, exec (.laneErrorInject n v req) s = .next t ∧ s.Took t .LANE_XINJECT n (v ||| LANE_XINJECT.ARM.word 1) ∧
      t.lane n = { s.lane n with injectCount := 0 } ∧ ∀ m, m ≠ n → t.lane m = s.lane m)

/-- R110, R111, R112, R113, R115: the end of a page-in. With good nodes and a good LIVE record the way takes the context and the
frames that waited go back to dispatch; a leaf counter of 0 is a handle without a context: what waited completes NO_CONTEXT and the
way is FREE. A read that failed for good completes it with FABRIC_ERROR, a record of the wrong version or MAC with ROLLBACK or
CONTEXT_INTEGRITY, and the bad table lists the handle. A miss that waits takes a FREE way of its bank. The model's own
readings in it are those of log entry 61. -/
def Obligations.PageInsEndAsTheyFind : Prop :=
  (∀ (s u : State) (h k v : Nat) (wrap tree r b : Bytes) (m : Miss) (c : Ctx), s.working = true → s.miss? h = some m →
    s.wrapKey = some wrap → s.treeKey = some tree → m.reads = 0 → m.wayWait = false → m.installing = false →
    m.readFail = none → m.verdict = none → m.record = some r → m.leafOnly = false → m.low = 1 →
    s.verifyNodes tree m (List.range' 1 s.levels).reverse = (.good, u) → v = (u.node 1 (h / 8)).c.getD (h % 8) 0 →
    v ≠ 0 → openRecord wrap h r = some b → c = Ctx.ofBytes b → c.version = v → c.handle = h → c.st = CtxState.live →
    s.masks (h % 64) = true → s.findWay h = some k → k / 64 = h % 64 → (∀ e, e ∈ m.waiting → e.d.isFrame = true) →
    ∃ t, exec (.pageinDone h) s = .next t ∧ (t.way k).st = WaySt.live ∧ (t.way k).hit = true ∧ (t.way k).dirty = false ∧
      (t.clearCtx k).handle = h ∧ (t.clearCtx k).owner = c.owner ∧ (t.clearCtx k).a.key = c.a.key ∧
      (t.clearCtx k).b.key = c.b.key ∧ (t.clearCtx k).a.pn = c.a.pn ∧ t.miss? h = none ∧
      t.qeng.issued.length = s.qeng.issued.length + m.waiting.length) ∧
  (∀ (s u : State) (h k : Nat) (wrap tree r : Bytes) (m : Miss) (e : Elem), s.working = true → s.miss? h = some m →
    s.wrapKey = some wrap → s.treeKey = some tree → m.reads = 0 → m.wayWait = false → m.installing = false →
    m.readFail = none → m.verdict = none → m.record = some r → m.leafOnly = false → m.low = 1 →
    s.verifyNodes tree m (List.range' 1 s.levels).reverse = (.good, u) → (u.node 1 (h / 8)).c.getD (h % 8) 0 = 0 →
    s.findWay h = some k → m.waiting = [e] → e.d.isFrame = true →
    ∃ t, exec (.pageinDone h) s = .next t ∧ (t.way k).st = WaySt.free ∧ s.Completes t 22 e stNoContext 0 ∧
      t.miss? h = none) ∧
  (∀ (s : State) (h k l : Nat) (f : FabFail) (m : Miss) (e : Elem), s.working = true → s.miss? h = some m →
    m.readFail = some (l, f) → m.reads = 0 → m.low = 1 → m.leafOnly = false → s.findWay h = some k → m.waiting = [e] →
    ∃ t, exec (.pageinFail h) s = .next t ∧ (t.way k).st = WaySt.free ∧ s.Completes t 22 e stFabricError 0 ∧
      t.miss? h = none ∧ (t.hdr (pg .ctx)).fault.getLsbD 1 = true) ∧
  (∀ (s : State) (h k i : Nat) (f : PageFail) (st : Nat) (m : Miss) (e : Elem), s.working = true → h < 2 ^ 28 →
    s.miss? h = some m → m.readFail = none → m.verdict = some f →
    (f, st) = (PageFail.record, stContextIntegrity) ∨ (f, st) = (PageFail.rollback, stRollback) →
    m.reads = 0 → m.low = 1 → m.leafOnly = false → s.findWay h = some k → m.waiting = [e] → s.badStatus h = none → i < 16 →
    s.flag CTX_BAD.VALID i = false →
    ∃ t, exec (.pageinFail h) s = .next t ∧ (t.way k).st = WaySt.free ∧ s.Completes t 22 e st 0 ∧ t.miss? h = none ∧
      t.badStatus h = some st) ∧
  (∀ (s : State) (b k : Nat) (m : Miss), s.working = true → b < 64 → s.ctx.misses = [m] → m.wayWait = true →
    m.handle % 64 = b → s.freeWay b = some k →
    ∃ t x, exec (.missWayAllocate b) s = .next t ∧ (t.way k).st = WaySt.filling ∧ (t.way k).handle = m.handle ∧
      t.miss? m.handle = some x ∧ x.wayWait = false ∧ x.waiting = m.waiting) ∧
  (∀ (s : State) (b : Nat) (m : Miss), b < 64 → s.ctx.misses = [m] → m.handle % 64 = b → s.freeWay b = none →
    exec (.missWayAllocate b) s = .next s)

/-- R115, R116: a pass of the sweeper counts, raises its event and ages every LIVE way that no retire holds: one that was hit since
the last pass has its hit bit cleared, one that was not is a pass older, and one that is old enough, clean and unpinned is
evicted. -/
def Obligations.SweeperAgesTheWays : Prop :=
  ∀ (s : State), s.working = true → s.isOn (pg .ctx) = true → s.fld CTX_SWEEP.INT 0 ≠ 0 → s.asleep = false →
    s.ctx.store ≠ StoreSt.flushing → Tbl.wf (fun _ => ({} : Way)) s.ctx.ways = true →
    ∃ t, exec .sweepPass s = .next t ∧ t.fld CTX_SWEEP.PASSES 0 = (s.fld CTX_SWEEP.PASSES 0 + 1) % 65536 ∧
      (t.hdr (pg .ctx)).event.getLsbD 1 = true ∧
      ∀ k, (s.way k).st = WaySt.live → (s.way k).retiring = false →
        ((s.way k).hit = true → t.way k = { s.way k with hit := false, age := 0 }) ∧
        ((s.way k).hit = false → min 3 ((s.way k).age + 1) < max 1 (s.fld CTX_XSWEEP.AGE 0) →
          t.way k = { s.way k with age := min 3 ((s.way k).age + 1) }) ∧
        ((s.way k).hit = false → max 1 (s.fld CTX_XSWEEP.AGE 0) ≤ min 3 ((s.way k).age + 1) → (s.way k).pins = 0 →
          (s.way k).wbVersion = 0 → (s.way k).dirty = false → t.way k = {})

/-- R115, R117, R125: the end of a write-back. One answered OK gives the leaf counter the version it sealed and frees the way, or
leaves it LIVE where it was changed meanwhile; that of a retired context's EMPTY record frees the way and completes its CTX_RETIRE, and
one that was out before the retire leaves the way to the frames that use it; that of a node gives the node's counter in its parent,
where that is cached, or in the root, the value it was sealed under. One that failed for good fences the way, or
leaves the node dirty, and raises V198's fault. The model's own readings in it are those of log entry 81. -/
def Obligations.WriteBacksEnd : Prop :=
  (∀ (s : State) (h k : Nat) (x : Xfer), s.working = true → s.fab.mail = [x] → x.kind = .ctxWriteback h → x.failed = none →
    s.findWay h = some k → (s.way k).st = WaySt.writing → (s.way k).wbVersion ≠ 0 → (s.way k).retiring = false →
    (s.way k).flushing = false → (s.node 1 (h / 8)).c ≠ [] →
    ∃ t, exec (.ctxWritebackDone h) s = .next t ∧
      (t.node 1 (h / 8)).c = (s.node 1 (h / 8)).c.set (h % 8) (s.way k).wbVersion ∧ (t.node 1 (h / 8)).dirty = true ∧
      ((s.way k).dirty = false → t.way k = {}) ∧
      ((s.way k).dirty = true → (t.way k).st = WaySt.live ∧ (t.way k).dirty = true ∧ (t.way k).wbVersion = 0 ∧
        (t.way k).ctx = { (s.way k).ctx with version := (s.way k).wbVersion })) ∧
  (∀ (s : State) (h k : Nat) (x : Xfer) (j : Job), s.working = true → s.fab.mail = [x] → x.kind = .ctxWriteback h →
    x.failed = none → s.findWay h = some k → (s.way k).wbVersion ≠ 0 → (s.way k).retiring = true → (s.way k).dirty = false →
    (s.way k).ctx.st = CtxState.empty → s.retiringHandle h = false → s.ctx.jobs = [j] → j.elem.d.opcode = 0x42 → j.elem.d.object = h → j.phase = 2 →
    ∃ t, exec (.ctxWritebackDone h) s = .next t ∧ t.way k = {} ∧ s.Completes t 22 j.elem stOk 0 ∧ t.ctx.jobs = []) ∧
  (∀ (s : State) (h k : Nat) (x : Xfer), s.working = true → s.fab.mail = [x] → x.kind = .ctxWriteback h →
    x.failed = none → s.findWay h = some k → (s.way k).wbVersion ≠ 0 → (s.way k).retiring = true →
    (s.way k).ctx.st ≠ CtxState.empty → s.ctx.store ≠ StoreSt.flushing →
    ∃ t, exec (.ctxWritebackDone h) s = .next t ∧ (t.way k).retiring = true ∧ (t.way k).st = (s.way k).st ∧
      (t.way k).pins = (s.way k).pins ∧ (t.way k).wbVersion = 0 ∧ t.ctx.jobs = s.ctx.jobs) ∧
  (∀ (s : State) (h k : Nat) (x : Xfer) (f : FabFail), s.working = true → s.fab.mail = [x] → x.kind = .ctxWriteback h →
    x.failed = some f → s.findWay h = some k → (s.way k).retiring = false →
    ∃ t, exec (.ctxWritebackFail h) s = .next t ∧ (t.way k).st = WaySt.fenced ∧ (t.way k).dirty = true ∧
      (t.way k).wbVersion = 0 ∧ (t.way k).ctx.st = CtxState.fenced ∧ (t.hdr (pg .ctx)).fault.getLsbD 10 = true ∧
      (t.hdr (pg .ctx)).fault.getLsbD 1 = true) ∧
  (∀ (s : State) (l i : Nat) (x : Xfer) (f : FabFail), s.working = true → s.fab.mail = [x] → x.kind = .nodeWriteback l i →
    x.failed = some f →
    ∃ t, exec (.ctxWritebackFail (i * 8 ^ l)) s = .next t ∧ (t.node l i).c = (s.node l i).c ∧ (t.node l i).dirty = true ∧
      (t.node l i).writing = none ∧ (t.node l i).failed = true ∧ (t.hdr (pg .ctx)).fault.getLsbD 10 = true) ∧
  (∀ (s : State) (l i p : Nat) (x : Xfer), s.working = true → s.fab.mail = [x] → x.kind = .nodeWriteback l i → i < 2 ^ 32 →
    x.failed = none → (s.node l i).writing = some p → s.ctx.store ≠ StoreSt.flushing →
    ∃ t, exec (.nodeWritebackDone (l * 2 ^ 32 + i)) s = .next t ∧ (t.node l i).writing = none ∧
      (t.node l i).c = (s.node l i).c ∧
      (l = s.levels → t.ctx.root = s.ctx.root.set i p) ∧
      (l ≠ s.levels → s.cached (l + 1) (i / 8) = true → (t.node (l + 1) (i / 8)).c = (s.node (l + 1) (i / 8)).c.set (i % 8) p ∧
        (t.node (l + 1) (i / 8)).dirty = true))

/-- R120, R129: errors of the cache. A corrected one is recorded and raises V200's event; an uncorrectable one fences a dirty way,
frees a clean one that no frame pins, so that its context is read again, and takes a dirty node's subtree into the bad table; with
the table full the CTX block is fenced and every context request fails. -/
def Obligations.CacheErrorsAreContained : Prop :=
  (∀ (s : State) (b w : Nat), s.working = true → (s.way (64 * b + w)).st ≠ WaySt.free →
    ∃ t, exec (.ctxEccCorrected (.way b w)) s = .next t ∧ (t.hdr (pg .ctx)).event.getLsbD 2 = true ∧ t.ctx = s.ctx ∧
      t.flag CTX_ERR_INFO.VALID 0 = true ∧ t.fld CTX_ERR_INFO.COUNT 0 = min (s.fld CTX_ERR_INFO.COUNT 0 + 1) 0xFFFF ∧
      (s.flag CTX_ERR_INFO.VALID 0 = false → t.fld CTX_ERR_INFO.KIND 0 = 4)) ∧
  (∀ (s : State) (l i : Nat), s.working = true → s.cached l i = true →
    ∃ t, exec (.ctxEccCorrected (.node l i)) s = .next t ∧ (t.hdr (pg .ctx)).event.getLsbD 2 = true ∧ t.ctx = s.ctx ∧
      t.flag CTX_ERR_INFO.VALID 0 = true) ∧
  (∀ (s : State) (b w : Nat), s.working = true → b < 64 → w < 64 → (s.way (64 * b + w)).st ≠ WaySt.free →
    (s.way (64 * b + w)).st ≠ WaySt.filling → (s.way (64 * b + w)).dirty = true →
    ∃ t, exec (.ctxEccUncorrectable (.way b w)) s = .next t ∧ (t.way (64 * b + w)).st = WaySt.fenced ∧
      (t.way (64 * b + w)).dirty = true ∧ (t.way (64 * b + w)).handle = (s.way (64 * b + w)).handle ∧
      (t.hdr (pg .ctx)).fault.getLsbD 11 = true) ∧
  (∀ (s : State) (b w : Nat), s.working = true → b < 64 → w < 64 → (s.way (64 * b + w)).st = WaySt.live →
    (s.way (64 * b + w)).dirty = false → (s.way (64 * b + w)).wbVersion = 0 → (s.way (64 * b + w)).pins = 0 →
    ∃ t, exec (.ctxEccUncorrectable (.way b w)) s = .next t ∧ t.way (64 * b + w) = {} ∧
      t.ctx.eccDropped = s.ctx.eccDropped ++ [(s.way (64 * b + w)).handle] ∧ (t.hdr (pg .ctx)).fault = (s.hdr (pg .ctx)).fault) ∧
  (∀ (s : State) (l i e : Nat), s.working = true → l < 16 → i * 8 ^ l < 2 ^ 28 → s.cached l i = true → (s.node l i).dirty = true →
    e < 16 → s.flag CTX_BAD.VALID e = false →
    ∃ t, exec (.ctxEccUncorrectable (.node l i)) s = .next t ∧ (t.node l i).c = [] ∧
      (t.hdr (pg .ctx)).fault.getLsbD 11 = true ∧ ∀ h, h / 8 ^ l = i → (t.badStatus h).isSome = true) ∧
  (∀ (s : State) (l i : Nat), s.working = true → s.cached l i = true → (s.node l i).dirty = true →
    (∀ e, e < 16 → s.flag CTX_BAD.VALID e = true) → s.isOn (pg .ctx) = true →
    ∃ t, exec (.ctxEccUncorrectable (.node l i)) s = .next t ∧ t.ctx.allFenced = true ∧ t.blk (pg .ctx) = BlkState.fenced ∧
      (t.hdr (pg .ctx)).fence = ⟨0x08, fenceLevel (pg .ctx), false⟩)

/-- R119, R121, R124, R130–R132: CTX_INSTALL and CTX_ARM_NEXT at the head of key custody with their key material unwrapped, while no
error is injected into the digest cores. An
install makes its way a LIVE context of its function, with the key active in slot A from PN 1; one with bad parameters completes with
INVALID_OPERAND. An arm puts the key into the inactive slot for its epoch and counts if the epoch is the pending one; a late one
completes with KEY_NOT_ARMED and is counted. The model's own readings in it are those of log entries 30 and 64. -/
def Obligations.ContextsAreInstalledAndArmed : Prop :=
  (∀ (s : State) (j : Job) (m : Bytes) (k : Nat), s.working = true → s.kdfSync = s → s.NoInjection → s.keyHead = some j →
    j.elem.d.opcode = 0x40 → s.keyFree = true → j.ready = true → s.isOn (pg .ctx) = true →
    s.masks (j.elem.d.object % 64) = true → j.phase ≠ 0 → installBad j.elem.d = false → s.materialLenBad j.elem = false →
    s.blobWaits j = false → s.material j = .ok m → s.findWay j.elem.d.object = some k →
    ∃ t, exec .ctxInstall s = .next t ∧ s.Completes t 21 j.elem stOk 0 ∧ (t.way k).st = WaySt.live ∧ (t.way k).dirty = true ∧
      (t.way k).hit = true ∧ (t.clearCtx k).st = CtxState.live ∧ (t.clearCtx k).handle = j.elem.d.object ∧
      (t.clearCtx k).owner = j.elem.func ∧ (t.clearCtx k).suite = bitsOf j.elem.d.aux1 15 8 ∧
      (t.clearCtx k).rx = bitAt j.elem.d.aux1 7 ∧ (t.clearCtx k).sciSpi = BitVec.ofNat 64 j.elem.d.aux0 ∧
      (t.clearCtx k).activeB = false ∧ (t.clearCtx k).a.st = SlotSt.active ∧ (t.clearCtx k).a.pn = 1 ∧
      (t.clearCtx k).a.key = bytesBv 256 (m.take 32) ∧ (t.clearCtx k).a.an = bitsOf j.elem.d.aux1 17 16 ∧
      (t.clearCtx k).b.st = SlotSt.empty) ∧
  (∀ (s : State) (j : Job), s.working = true → s.kdfSync = s → s.NoInjection → s.keyHead = some j → j.elem.d.opcode = 0x40 → s.keyFree = true →
    j.ready = true → s.isOn (pg .ctx) = true → s.masks (j.elem.d.object % 64) = true → j.phase ≠ 0 →
    installBad j.elem.d = true →
    ∃ t, exec .ctxInstall s = .next t ∧ s.Completes t 21 j.elem stInvalidOperand 0 ∧
      ∀ k, s.findWay j.elem.d.object = some k → t.way k = {}) ∧
  (∀ (s u : State) (j : Job) (m : Bytes) (k et : Nat), s.working = true → s.kdfSync = s → s.NoInjection → s.keyHead = some j →
    j.elem.d.opcode = 0x41 → s.keyFree = true → j.ready = true → s.isOn (pg .ctx) = true →
    s.masks (j.elem.d.object % 64) = true → s.jobLookup { j with elem := { j.elem with waited := true } } false = (some k, u) → j.phase ≠ 0 →
    armBad (u.clearCtx k) j.elem.d = false → u.materialLenBad j.elem = false → u.blobWaits j = false → u.material j = .ok m →
    et = u.armEpoch j.elem.d → u.fld EPOCH_CUR.EPOCH 0 < et → u.armLate et = false →
    ∃ t, exec .ctxArmNext s = .next t ∧ s.Completes t 21 j.elem stOk 0 ∧ (t.way k).dirty = true ∧
      (t.clearCtx k).epochId = et - 1 ∧ (t.clearCtx k).activeB = (u.clearCtx k).activeB ∧
      (t.clearCtx k).slot (u.clearCtx k).activeB = (u.clearCtx k).slot (u.clearCtx k).activeB ∧
      ((t.clearCtx k).slot (!(u.clearCtx k).activeB)).st = SlotSt.armed ∧
      ((t.clearCtx k).slot (!(u.clearCtx k).activeB)).pn = 1 ∧
      ((t.clearCtx k).slot (!(u.clearCtx k).activeB)).key = bytesBv 256 (m.take 32) ∧
      ((t.clearCtx k).slot (!(u.clearCtx k).activeB)).an = bitsOf j.elem.d.aux0 1 0 ∧
      t.fld EPOCH_ARMED.COUNT 0 =
        (if et = s.epoch.pend then min (s.fld EPOCH_ARMED.COUNT 0 + 1) 0xFFFFFFFF else s.fld EPOCH_ARMED.COUNT 0)) ∧
  (∀ (s u : State) (j : Job) (m : Bytes) (k et : Nat), s.working = true → s.kdfSync = s → s.NoInjection → s.keyHead = some j →
    j.elem.d.opcode = 0x41 → s.keyFree = true → j.ready = true → s.isOn (pg .ctx) = true →
    s.masks (j.elem.d.object % 64) = true → s.jobLookup { j with elem := { j.elem with waited := true } } false = (some k, u) → j.phase ≠ 0 →
    armBad (u.clearCtx k) j.elem.d = false → u.materialLenBad j.elem = false → u.blobWaits j = false → u.material j = .ok m →
    et = u.armEpoch j.elem.d → u.fld EPOCH_CUR.EPOCH 0 < et → u.armLate et = true →
    ∃ t, exec .ctxArmNext s = .next t ∧ s.Completes t 21 j.elem stKeyNotArmed 0 ∧ t.clearCtx k = u.clearCtx k ∧
      (t.hdr (pg .hatband)).event.getLsbD 14 = true ∧
      t.fld EPOCH_MISS.LATE_ARMS 0 = min (s.fld EPOCH_MISS.LATE_ARMS 0 + 1) 0xFFFF)

/-- R115, R117, R125, R126: CTX_RETIRE zeroizes the keys of its context and writes the EMPTY record, once no frame uses the
way, which is held for it from the start; CTX_AUDIT writes its 192 bytes to DST, or completes with OUTPUT_TOO_SMALL. The
model's own readings in it are those of log entries 30 and 106. -/
def Obligations.ContextsAreRetiredAndAudited : Prop :=
  (∀ (s : State) (j : Job) (wrap : Bytes) (k h v : Nat), s.working = true → s.ctxJob 0x42 = some j → j.phase = 1 →
    s.findWay j.elem.d.object = some k → h = (s.way k).handle → (s.way k).st = WaySt.live → (s.way k).pins = 0 →
    (s.way k).retiring = true → (s.way k).wbVersion = 0 → s.wrapKey = some wrap → (s.node 1 (h / 8)).c[h % 8]? = some v → v + 1 < 2 ^ 56 →
    ∃ t, exec .ctxRetire s = .next t ∧ (t.way k).retiring = true ∧ (t.way k).st = WaySt.writing ∧ (t.way k).wbVersion = v + 1 ∧
      (t.clearCtx k).st = CtxState.empty ∧ (t.clearCtx k).a.key = 0 ∧ (t.clearCtx k).b.key = 0 ∧
      t.ctx.jobs = updJob s.ctx.jobs j.id (fun x => { x with phase := 2 }) ∧
      t.fab = (s.startWrite (.ctxWriteback h) storeAttr (s.recordAddr h)
        (sealRecord wrap h (v + 1) ({ version := v + 1, handle := h } : Ctx).bytes) none).2.fab) ∧
  (∀ (s : State) (j : Job) (k : Nat), s.working = true → s.ctxJob 0x42 = some j → j.phase = 1 →
    s.findWay j.elem.d.object = some k → (s.way k).retiring = true → (s.way k).pins ≠ 0 →
    ∃ t, exec .ctxRetire s = .next t ∧ t.way k = { s.way k with retiring := true, evictPend := false } ∧ t.fab = s.fab) ∧
  (∀ (s : State) (j : Job) (k : Nat), s.working = true → s.ctxJob 0x43 = some j → j.phase = 1 →
    s.findWay j.elem.d.object = some k → (s.way k).st = WaySt.live ∨ (s.way k).st = WaySt.writing → (s.way k).retiring = false →
    (s.way k).ctx.owner = j.elem.func → s.masks (k / 64) = true → 192 ≤ j.elem.d.dstLen →
    ∃ t f, exec .ctxAudit s = .next t ∧ t.finishes = s.finishes ++ [f] ∧ f.job = j.id ∧ f.producer = 22 ∧
      f.compl.status = stOk ∧ f.compl.outLen = 192 ∧ f.compl.elem.d = j.elem.d ∧ t.ctx.jobs = dropJob s.ctx.jobs j.id ∧
      t.fab = (s.startWrite (.elemWrite j.id) j.elem.attr j.elem.d.dst (s.clearCtx k).audit none).2.fab) ∧
  (∀ (s : State) (j : Job) (k : Nat), s.working = true → s.ctxJob 0x43 = some j → j.phase = 1 →
    s.findWay j.elem.d.object = some k → (s.way k).st = WaySt.live ∨ (s.way k).st = WaySt.writing → (s.way k).retiring = false →
    (s.way k).ctx.owner = j.elem.func → s.masks (k / 64) = true → j.elem.d.dstLen < 192 →
    ∃ t, exec .ctxAudit s = .next t ∧ s.Completes t 22 j.elem stOutputTooSmall 0 ∧ t.fab = s.fab)

/-- R122, R127, R129: the operations of CTX_CMD. INIT empties the caches and asks for a new salt; FLUSH marks what is dirty and is
over at once where nothing is; RETIRE_HANDLE writes the EMPTY record, by the way that holds the context or without one. An
operation that may not start sets RESULT 1, DONE and SEQ; while one runs another sets SEQ alone. At its end RESULT and DONE are set.
EN of the learn ring starts it at index 0. The model's own readings in it are those of log entries 15, 28, 62 and 82. -/
def Obligations.StoreCommandsRun : Prop :=
  (∀ (s : State) (req : Req), s.OpenReg .CTX_CMD 0 req → s.ctx.cmd = none → s.key.root.isSome = true → s.rng.ready = true →
    s.ctx.store = StoreSt.uninit ∨ (s.ctx.store = StoreSt.ready ∧ s.flag QENG_CTL.PAUSE 0 = true ∧ s.missBusy = 0) →
    ∃ t, exec (.ctxInit req) s = .next t ∧ t.ctx.store = StoreSt.initialising ∧ t.ctx.ways = [] ∧ t.ctx.nodes = [] ∧
      t.ctx.misses = [] ∧ t.ctx.root = List.replicate 8 0 ∧ t.ctx.cmd = some { op := 1 } ∧ t.key.wrap = none ∧ t.key.tree = none ∧
      RngUse.storeSalt ∈ t.rng.privWait ∧ t.flag CTX_CMD_STS.DONE 0 = false ∧ ∀ i, i < 16 → t.flag CTX_BAD.VALID i = false) ∧
  (∀ (s : State) (k : Nat) (req : Req), s.OpenReg .CTX_CMD 0 req → s.ctx.cmd = none → s.ctx.store = StoreSt.ready →
    (s.way k).dirty = true →
    (∀ v, (s.node 1 ((s.way k).handle / 8)).c[(s.way k).handle % 8]? = some v → v + 1 < 2 ^ 56) →
    ∃ t, exec (.ctxFlush req) s = .next t ∧ t.ctx.store = StoreSt.flushing ∧ (t.way k).flushing = true ∧
      t.ctx.cmd = some { op := 2 } ∧ t.flag CTX_CMD_STS.DONE 0 = false) ∧
  (∀ (s : State) (req : Req), s.OpenReg .CTX_CMD 0 req → s.ctx.cmd = none → s.ctx.store = StoreSt.ready →
    s.ctx.ways.all (fun p => !p.2.dirty && p.2.wbVersion == 0 && p.2.st != .writing && !p.2.flushing) = true → s.ctx.owed = [] →
    s.ctx.nodes.all (fun p => !p.2.dirty && p.2.writing.isNone) = true →
    ∃ t, exec (.ctxFlush req) s = .next t ∧ t.ctx.store = StoreSt.ready ∧ t.ctx.cmd = some { op := 2, result := some 0 } ∧
      t.fab = s.fab) ∧
  (∀ (s : State) (wrap : Bytes) (h v : Nat) (req : Req), s.OpenReg .CTX_CMD 0 req → s.ctx.cmd = none →
    s.ctx.store = StoreSt.ready → h < 2 ^ 28 → h < s.ctxCount →
    (∀ i, i < 16 → s.badCovers i h = true → s.fld CTX_BAD.LEVEL i = 0) → s.miss? h = none → s.findWay h = none →
    s.wrapKey = some wrap → (s.node 1 (h / 8)).c[h % 8]? = some v → v + 1 < 2 ^ 56 →
    ∃ t, exec (.retireHandle h req) s = .next t ∧ t.ctx.cmd = some { op := 3, handle := h, version := v + 1 } ∧
      t.fab = (s.startWrite (.ctxWriteback h) storeAttr (s.recordAddr h)
        (sealRecord wrap h (v + 1) ({ version := v + 1, handle := h } : Ctx).bytes) none).2.fab) ∧
  (∀ (s : State) (h k v : Nat) (wrap : Bytes) (req : Req), s.OpenReg .CTX_CMD 0 req → s.ctx.cmd = none →
    s.ctx.store = StoreSt.ready → h < 2 ^ 28 → h < s.ctxCount →
    (∀ i, i < 16 → s.badCovers i h = true → s.fld CTX_BAD.LEVEL i = 0) → s.miss? h = none → s.findWay h = some k →
    (s.way k).handle = h → (s.way k).pins = 0 → (s.way k).wbVersion = 0 → s.wrapKey = some wrap →
    (s.node 1 (h / 8)).c[h % 8]? = some v → v + 1 < 2 ^ 56 →
    ∃ t, exec (.retireHandle h req) s = .next t ∧ t.ctx.cmd = some { op := 3, handle := h } ∧ (t.way k).retiring = true ∧
      (t.way k).wbVersion = v + 1 ∧ (t.clearCtx k).st = CtxState.empty ∧ (t.clearCtx k).a.key = 0 ∧ (t.clearCtx k).b.key = 0) ∧
  (∀ (s : State) (h : Nat) (req : Req), s.OpenReg .CTX_CMD 0 req → s.ctx.cmd = none → h < 2 ^ 28 →
    s.ctx.store ≠ StoreSt.ready ∨ s.ctxCount ≤ h →
    ∃ t, exec (.retireHandle h req) s = .next t ∧ t.fld CTX_CMD_STS.RESULT 0 = 1 ∧ t.flag CTX_CMD_STS.DONE 0 = true ∧
      t.fld CTX_CMD_STS.OP 0 = 3 ∧ (t.hdr (pg .ctx)).fault.getLsbD 5 = true ∧ t.ctx = s.ctx) ∧
  (∀ (s : State) (c : Instr) (h : Nat) (req : Req), s.OpenReg .CTX_CMD 0 req → s.ctx.cmd.isSome = true →
    c = .ctxInit req ∨ c = .ctxFlush req ∨ c = .retireHandle h req →
    ∃ t, exec c s = .next t ∧ (t.hdr (pg .ctx)).fault.getLsbD 5 = true ∧ t.ctx = s.ctx ∧ t.regs = s.regs) ∧
  (∀ (s : State) (c : CtxCmd) (r : Nat), s.working = true → s.ctx.cmd = some c → c.result = some r → r < 4 →
    ∃ t, exec .ctxCmdDone s = .next t ∧ t.ctx.cmd = none ∧ t.flag CTX_CMD_STS.DONE 0 = true ∧ t.fld CTX_CMD_STS.RESULT 0 = r ∧
      t.ctx.store = (if c.op = 1 ∧ r = 0 then StoreSt.ready else s.ctx.store)) ∧
  (∀ (s : State) (v : W32) (req : Req), s.OpenReg .CTX_LEARN_CFG 0 req → s.flag CTX_LEARN_CFG.EN 0 = false →
    ∃ t, exec (.learnEnable v req) s = .next t ∧ t.flag CTX_LEARN_CFG.EN 0 = true ∧
      t.fld CTX_LEARN_CFG.SIZE_LOG2 0 = fget (v.setWidth 64) 28 24 ∧ t.fld CTX_LEARN_CFG.HOLDOFF 0 = fget (v.setWidth 64) 15 0 ∧
      t.fld CTX_LEARN_CONS.INDEX 0 = 0 ∧ t.ctx.learnPos = 0 ∧ t.ctx.learnCons = 0)

/-- R137–R140: epochs by cell and by command. A cell that the tile acts on presents its epoch: one above EPOCH_CUR that no schedule
stands against becomes pending and, in a flip cell, is scheduled for its time, unless that has passed; one that is not above
EPOCH_CUR, or not the scheduled one, is refused. SCHED presents what is stored, CANCEL withdraws a schedule whose guard has not
begun, and once chain time has come to T − guard the schedule is closed. The model's own readings in it are those of log entries 2 and 82. -/
def Obligations.EpochsArePresented : Prop :=
  (∀ (s : State) (c : Cell), cellByte c 0 = 5 → (s.hbReceive c).1 = true → s.flag EPOCH_CTL.CELL_EN 0 = true →
    s.fld EPOCH_CUR.EPOCH 0 < cellNum c 2 4 → s.epoch.scheduled = false →
    cellNum c 2 4 ≠ s.epoch.pend ∨ s.epoch.pending = false →
    ∃ t, exec (.epochArm c) s = .next t ∧ t.epoch = { s.epoch with pend := cellNum c 2 4, pending := true } ∧
      t.fld EPOCH_ARMED.COUNT 0 = 0 ∧ (t.hdr (pg .hatband)).event.getLsbD 12 = true) ∧
  (∀ (s : State) (c : Cell), cellByte c 0 = 5 → (s.hbReceive c).1 = true → s.flag EPOCH_CTL.CELL_EN 0 = true →
    cellNum c 2 4 ≤ s.fld EPOCH_CUR.EPOCH 0 ∨ (s.epoch.scheduled = true ∧ cellNum c 2 4 ≠ s.epoch.pend) →
    ∃ t, exec (.epochArm c) s = .next t ∧ t.epoch = s.epoch ∧ t.flag EPOCH_STS.CELL_REFUSED 0 = true) ∧
  (∀ (s : State) (c : Cell), cellByte c 0 = 6 → (s.hbReceive c).1 = true → s.flag EPOCH_CTL.CELL_EN 0 = true →
    s.fld EPOCH_CUR.EPOCH 0 < cellNum c 2 4 → s.epoch.scheduled = false → s.now < cellNum c 6 8 →
    ∃ t, exec (.epochFlip c) s = .next t ∧
      t.epoch = { s.epoch with pend := cellNum c 2 4, pending := true, scheduled := true, src := 1 } ∧
      t.fld EPOCH_TIME.TIME 0 = cellNum c 6 8) ∧
  (∀ (s : State) (c : Cell), cellByte c 0 = 6 → (s.hbReceive c).1 = true → s.flag EPOCH_CTL.CELL_EN 0 = true →
    s.fld EPOCH_CUR.EPOCH 0 < cellNum c 2 4 → s.epoch.scheduled = false → cellNum c 6 8 ≤ s.now →
    ∃ t, exec (.epochFlip c) s = .next t ∧ t.epoch = s.epoch ∧ t.flag EPOCH_STS.CELL_LATE 0 = true ∧
      (t.hdr (pg .hatband)).event.getLsbD 14 = true) ∧
  (∀ (s : State) (req : Req), s.OpenReg .EPOCH_CTL 0 req → s.fld EPOCH_CUR.EPOCH 0 < s.epoch.stored →
    s.epoch.scheduled = false → s.now < s.fld EPOCH_TIME.TIME 0 →
    ∃ t, exec (.epochCtlSched req) s = .next t ∧
      t.epoch = { s.epoch with pend := s.epoch.stored, pending := true, scheduled := true, src := 2 } ∧
      t.fld EPOCH_TIME.TIME 0 = s.fld EPOCH_TIME.TIME 0) ∧
  (∀ (s : State) (req : Req), s.OpenReg .EPOCH_CTL 0 req → s.epoch.stored ≤ s.fld EPOCH_CUR.EPOCH 0 →
    ∃ t, exec (.epochCtlSched req) s = .next t ∧ t.epoch = s.epoch ∧ t.flag EPOCH_STS.CELL_REFUSED 0 = true ∧
      (t.hdr (pg .hatband)).fault.getLsbD 5 = true) ∧
  (∀ (s : State) (req : Req), s.OpenReg .EPOCH_CTL 0 req →
    s.epoch.scheduled = false ∨ s.now + s.epochGuard < s.fld EPOCH_TIME.TIME 0 →
    ∃ t, exec (.epochCtlCancel req) s = .next t ∧
      t.epoch = { s.epoch with pending := false, scheduled := false, src := 0 }) ∧
  (∀ (s : State) (req : Req), s.OpenReg .EPOCH_CTL 0 req → s.epoch.scheduled = true →
    s.fld EPOCH_TIME.TIME 0 ≤ s.now + s.epochGuard →
    ∃ t, exec (.epochCtlCancel req) s = .next t ∧ t.epoch = s.epoch ∧ (t.hdr (pg .hatband)).fault.getLsbD 5 = true) ∧
  (∀ (s : State), s.epoch.scheduled = true →
    ∃ t, exec .epochGuardClose s = .next t ∧ t.epoch = s.epoch ∧ t.hdrs = s.hdrs ∧ t.epochClosed = true ∧ s.now ≤ t.now ∧
      ∀ r n, r ≠ .HB_TIME_INFO → t.reg r n = s.reg r n)

/-- R149, R150, R152, R153, R155, R160: the crown. A completion at a FIFO's head that the cycle takes, and that nothing holds back,
takes the next position of its CQ, and its entry is written. The answer to that write returns its grant; one that failed fences the
CQ, and its function, and so does an uncorrectable error of a held entry. A mirror publishes what is written, and its answer moves
CQ_HEAD and counts at the CQ's vector. The model's own readings in it are those of log entry 59. -/
def Obligations.CompletionsReachMemory : Prop :=
  (∀ (s : State) (p c : Nat) (k : Compl) (rest : List Compl), s.working = true → s.crownRuns = true → s.taken = [p] →
    p ≠ 24 → s.fifo p = k :: rest → k.vec = none → k.frame = none → k.elem.ord = none → k.elem.chain = none → s.crown.waiting = [] →
    s.crown.stalled = [] → c = k.elem.cq → (s.cq c).st = CqState.on → (s.cq c).held = [] →
    (s.cq c).outstanding + 1 < 2 ^ s.cqLog c →
    ∃ t, exec .crownAccept s = .next t ∧ t.fifo p = rest ∧ t.crown.ptr = s.nextPtr ∧
      (t.cq c).nextPos = (s.cq c).nextPos + 1 ∧ (t.cq c).writing = (s.cq c).writing ++ [(s.cq c).nextPos] ∧
      (∃ x, x ∈ t.fab.xfers ∧ x.kind = .cqEntry c (s.cq c).nextPos) ∧
      (t.rq k.elem.rq).inflight = (s.rq k.elem.rq).inflight - 1) ∧
  (∀ (s : State) (c pos : Nat) (x : Xfer), s.working = true → c < 64 → s.fab.mail = [x] → x.kind = .cqEntry c pos →
    x.failed = none →
    ∃ t, exec (.entryWriteDone c) s = .next t ∧ (t.cq c).writing = (s.cq c).writing.filter (· != pos) ∧
      (t.cq c).grants = (s.cq c).grants - 1 ∧ (t.cq c).nextPos = (s.cq c).nextPos ∧ (t.cq c).pub = (s.cq c).pub) ∧
  (∀ (s : State) (c pos cause f : Nat) (x : Xfer) (e : FabFail), s.working = true → c < 64 → s.fab.mail = [x] →
    x.failed = some e → (x.kind = .cqEntry c pos ∧ cause = 1) ∨ (x.kind = .cqMirror c pos ∧ cause = 2) →
    (s.cq c).st = CqState.on → f = s.fld CQ_CFG.FUNC c →
    ∃ t, exec (.entryWriteFail ⟨c, false⟩) s = .next t ∧ (t.cq c).st = CqState.fenced ∧ (t.cq c).nextPos = (s.cq c).pub ∧
      t.flag CQ_ERR.FENCED c = true ∧ t.fld CQ_ERR.CAUSE c = cause ∧ (t.hdr (pg .crown)).fault.getLsbD 9 = true ∧
      bitAt (t.fld FLT_FUNC.MAP (f / 32)) (f % 32) = true) ∧
  (∀ (s : State) (c f : Nat), s.working = true → c < 64 → (s.cq c).held ≠ [] → (s.cq c).st = CqState.on →
    f = s.fld CQ_CFG.FUNC c →
    ∃ t, exec (.entryWriteFail ⟨c, true⟩) s = .next t ∧ (t.cq c).st = CqState.fenced ∧ t.flag CQ_ERR.FENCED c = true ∧
      t.fld CQ_ERR.CAUSE c = 4 ∧ (t.hdr (pg .crown)).fault.getLsbD 8 = true ∧
      bitAt (t.fld FLT_FUNC.MAP (f / 32)) (f % 32) = true) ∧
  (∀ (s : State) (c pos size : Nat), s.working = true → c < 64 → s.crownRuns = true →
    (s.cq c).st = CqState.on ∨ (s.cq c).st = CqState.draining → (s.cq c).mirror = none → pos = (s.cq c).qualified →
    (s.cq c).pub < pos → size = 2 ^ s.cqLog c →
    ∃ t, exec (.mirrorWriteIssue c) s = .next t ∧ t.cq c = { s.cq c with mirror := some pos } ∧
      t.fab = (s.startWrite (.cqMirror c pos) (fnAttr (s.fld CQ_CFG.FUNC c) false true) (8 * s.fld CQ_MIRROR.ADDR c)
        (leBytes ((pos / size + 2 ^ 32 - 1) % 2 ^ 32 * 2 ^ 32 + pos % size) 8) none).2.fab) ∧
  (∀ (s : State) (c pos size : Nat) (x : Xfer), s.working = true → c < 64 → s.fab.mail = [x] → x.kind = .cqMirror c pos →
    x.failed = none → (s.cq c).pub < pos → size = 2 ^ s.cqLog c →
    ∃ t, exec (.mirrorWriteDone c) s = .next t ∧ (t.cq c).pub = pos ∧ (t.cq c).mirror = none ∧
      t.fld CQ_HEAD.INDEX c = pos % size ∧ t.fld CQ_HEAD.LAP c = (pos / size + 2 ^ 32 - 1) % 2 ^ 32 ∧
      (t.vec c).count = min ((s.vec c).count + (pos - (s.cq c).pub)) 0xFFFF)

/-- R152, R157, R158, R169: the consumer index, written by the administrator or by the client that owns the CQ, frees the entries
below it; one outside the range from the present index to the published one sets BAD_CONS. EN = 1 enables a DISABLED CQ at CQ_HEAD,
unless its function is fenced; EN = 0 drains one that no queue is bound to, and returns a FENCED one to DISABLED. The model's
own readings in it are those of log entries 14 and 82. -/
def Obligations.CompletionQueuesAreKept : Prop :=
  (∀ (s : State) (c i d : Nat) (v : W32) (req : Req), c < 64 → s.OpenReg .CQ_CONS c req → (s.cq c).st ≠ CqState.disabled →
    i = fget (v.setWidth 64) 15 0 → i < 2 ^ s.cqLog c → d = (i + 2 ^ s.cqLog c - (s.cq c).cons % 2 ^ s.cqLog c) % 2 ^ s.cqLog c →
    (s.cq c).cons + d ≤ (s.cq c).pub →
    ∃ t, exec (.cqConsWrite c v req) s = .next t ∧ (t.cq c).cons = (s.cq c).cons + d ∧ t.fld CQ_CONS.INDEX c = i ∧
      (t.cq c).pub = (s.cq c).pub ∧ (t.cq c).nextPos = (s.cq c).nextPos) ∧
  (∀ (s : State) (c i d : Nat) (v : W32) (req : Req), c < 64 → s.OpenReg .CQ_CONS c req → (s.cq c).st ≠ CqState.disabled →
    i = fget (v.setWidth 64) 15 0 → d = (i + 2 ^ s.cqLog c - (s.cq c).cons % 2 ^ s.cqLog c) % 2 ^ s.cqLog c →
    2 ^ s.cqLog c ≤ i ∨ (s.cq c).pub < (s.cq c).cons + d →
    ∃ t, exec (.cqConsWrite c v req) s = .next t ∧ t.flag CQ_ERR.BAD_CONS c = true ∧ t.cq c = s.cq c ∧
      t.fld CQ_CONS.INDEX c = s.fld CQ_CONS.INDEX c) ∧
  (∀ (s : State) (f c i d : Nat) (v : W32) (req : Req), f < 64 → s.Reach .FN_CQ_CONS f req → c = fget (v.setWidth 64) 21 16 →
    s.ownsCq f c = true → (s.cq c).st ≠ CqState.disabled → i = fget (v.setWidth 64) 15 0 → i < 2 ^ s.cqLog c →
    d = (i + 2 ^ s.cqLog c - (s.cq c).cons % 2 ^ s.cqLog c) % 2 ^ s.cqLog c → (s.cq c).cons + d ≤ (s.cq c).pub →
    ∃ t, exec (.fnCqConsWrite f v req) s = .next t ∧ (t.cq c).cons = (s.cq c).cons + d ∧ t.fld CQ_CONS.INDEX c = i) ∧
  (∀ (s : State) (f : Nat) (v : W32) (req : Req), f < 64 → s.Reach .FN_CQ_CONS f req →
    s.ownsCq f (fget (v.setWidth 64) 21 16) = false → exec (.fnCqConsWrite f v req) s = .next s.answeredOk) ∧
  (∀ (s : State) (c f size : Nat) (v : W32) (req : Req), c < 64 → s.OpenReg .CQ_CFG c req → (s.cq c).st = CqState.disabled →
    f = fget (v.setWidth 64) 21 16 → bitAt (s.fld FLT_FUNC.MAP (f / 32)) (f % 32) = false →
    size = 2 ^ min 16 (max 6 (fget (v.setWidth 64) 28 24)) →
    ∃ t, exec (.cqEnable c v req) s = .next t ∧ (t.cq c).st = CqState.on ∧ (t.cq c).held = [] ∧ (t.cq c).full = false ∧
      (t.cq c).nextPos = (s.fld CQ_HEAD.LAP c + 1) * size + s.fld CQ_HEAD.INDEX c ∧ (t.cq c).pub = (t.cq c).nextPos ∧
      t.flag CQ_CFG.EN c = true ∧ t.fld CQ_CFG.FUNC c = f ∧ t.fld CQ_CFG.SIZE_LOG2 c = fget (v.setWidth 64) 28 24) ∧
  (∀ (s : State) (c : Nat) (req : Req), c < 64 → s.OpenReg .CQ_CFG c req → (s.cq c).st = CqState.on → s.boundRqs c = [] →
    ∃ t, exec (.cqDisable c req) s = .next t ∧ t.flag CQ_CFG.EN c = false ∧ t.fld CQ_CFG.FUNC c = s.fld CQ_CFG.FUNC c ∧
      (t.cq c).st = (if (s.cq c).grants = 0 ∧ (s.cq c).held = [] ∧ (s.cq c).writing = [] ∧ (s.cq c).mirror = none ∧
        (s.cq c).pub = (s.cq c).nextPos then CqState.disabled else CqState.draining)) ∧
  (∀ (s : State) (c : Nat) (req : Req), c < 64 → s.OpenReg .CQ_CFG c req → (s.cq c).st = CqState.on → s.boundRqs c ≠ [] →
    ∃ t, exec (.cqDisable c req) s = .next t ∧ t.cq c = s.cq c ∧ (t.hdr (pg .qeng)).fault.getLsbD 5 = true) ∧
  (∀ (s : State) (c : Nat) (req : Req), c < 64 → s.OpenReg .CQ_CFG c req → (s.cq c).st = CqState.fenced →
    ∃ t, exec (.cqDisable c req) s = .next t ∧ (t.cq c).st = CqState.disabled ∧ t.flag CQ_ERR.FENCED c = false ∧
      t.flag CQ_CFG.EN c = false)

/-- R33, R160, R162–R164, R168: the interrupt vectors. A timer that has run makes an enabled vector with a count send; an accepted
message takes off the count it captured, and the last one of HOST_SLEEP's flush raises V219's event. HOST_SLEEP = 1 sends what is
counted and 0 takes the wake signal down; a flush sends at once; a forced event counts; IRQ_VEC_CFG takes its fields, DEST and FUNC
of V64 to V249 only; an enable bit that rises over an event counts it. The model's own readings in it are those of log entries
32, 47 and 115. -/
def Obligations.VectorsCountAndSend : Prop :=
  (∀ (s : State) (v : Nat), v < 256 → s.asleep = false → (s.vec v).timer = Timer.running → s.fld IRQ_VEC_CFG.TIMER v ≠ 0 →
    ∃ t, exec (.vectorTimerExpiry v) s = .next t ∧ (t.vec v).count = (s.vec v).count ∧
      (if s.flag IRQ_VEC_CFG.EN v = true ∧ (s.vec v).captured = none ∧ 1 ≤ (s.vec v).count then
        (t.vec v).captured = some (s.vec v).count ∧ (t.vec v).timer = Timer.stopped ∧ t.irq.msgs = s.irq.msgs ++ [v]
      else t.vec v = { s.vec v with timer := .expired } ∧ t.irq.msgs = s.irq.msgs)) ∧
  (∀ (s : State) (v n : Nat) (rest : List Nat), s.evtOpen = true → s.irq.msgs = v :: rest → (s.vec v).captured = some n →
    s.irq.flushAck = false → (∀ i, i < 4 → s.flag PERF_WATCH.EN i = true → s.fld PERF_WATCH.EVENT i ≠ 70) →
    ∃ t, exec .eventMsgAccepted s = .next t ∧ t.irq.lastMsg = some (s.msgWord v) ∧ (t.vec v).count = (s.vec v).count - n ∧
      t.fld IRQ_MSG_CNT.COUNT 0 = min (s.fld IRQ_MSG_CNT.COUNT 0 + 1) 0xFFFFFFFF ∧
      ((s.vec v).count ≤ n → t.irq.msgs = rest ∧ (t.vec v).captured = none)) ∧
  (∀ (s : State) (v n : Nat) (rest : List Nat), s.evtOpen = true → s.irq.msgs = v :: rest → (s.vec v).captured = some n →
    s.irq.flushAck = true → s.irq.flush = [v] → (s.vec v).flushPend = false →
    ∃ t, exec .eventMsgAccepted s = .next t ∧ t.irq.flush = [] ∧ t.irq.flushAck = false ∧
      (t.hdr (pg .irq)).event.getLsbD 0 = true) ∧
  (∀ (s : State) (req : Req), s.OpenReg .IRQ_CTL 0 req → s.flag IRQ_CTL.HOST_SLEEP 0 = false →
    ∃ t, exec (.hostSleepEnter req) s = .next t ∧ t.flag IRQ_CTL.HOST_SLEEP 0 = true ∧
      (s.flushSet = [] → (t.hdr (pg .irq)).event.getLsbD 0 = true) ∧
      (s.flushSet ≠ [] → t.irq.flush = s.flushSet ∧ t.irq.flushAck = true) ∧
      ∀ v, v ∈ s.flushSet → (s.vec v).captured = none → (t.vec v).captured = some (s.vec v).count ∧ v ∈ t.irq.msgs) ∧
  (∀ (s : State) (req : Req), s.OpenReg .IRQ_CTL 0 req →
    ∃ t, exec (.hostSleepExit req) s = .next t ∧ t.flag IRQ_CTL.HOST_SLEEP 0 = false ∧ t.irq = { s.irq with wakeOut := false }) ∧
  (∀ (s : State) (req : Req), s.OpenReg .IRQ_FLUSH 0 req →
    ∃ t, exec (.irqFlushAll req) s = .next t ∧ t.irq.flush = s.irq.flush ∧ ∀ v, v ∈ s.flushSet →
      ((s.vec v).captured = none → (t.vec v).captured = some (s.vec v).count ∧ v ∈ t.irq.msgs) ∧
      ((s.vec v).captured ≠ none → (t.vec v).duePend = true)) ∧
  (∀ (s : State) (v : Nat) (req : Req), v < 250 → s.OpenReg .IRQ_FLUSH 0 req → s.flag IRQ_VEC_CFG.EN v = true →
    1 ≤ (s.vec v).count →
    ∃ t, exec (.irqFlushVector v req) s = .next t ∧ (t.vec v).count = (s.vec v).count ∧ (∀ w, w ≠ v → t.vec w = s.vec w) ∧
      ((s.vec v).captured = none → (t.vec v).captured = some (s.vec v).count ∧ t.irq.msgs = s.irq.msgs ++ [v]) ∧
      ((s.vec v).captured ≠ none → (t.vec v).duePend = true ∧ t.irq.msgs = s.irq.msgs)) ∧
  (∀ (s : State) (v : Nat) (req : Req), v < 250 → s.OpenReg .IRQ_XFORCE 0 req →
    ∃ t, exec (.irqForceEvent v req) s = .next t ∧ (t.vec v).count = min ((s.vec v).count + 1) 0xFFFF ∧
      (∀ w, w ≠ v → t.vec w = s.vec w) ∧ t.hdrs = s.hdrs) ∧
  (∀ (s : State) (v : Nat) (x : W32) (req : Req), v < 250 → s.OpenReg .IRQ_VEC_CFG v req →
    ∃ t, exec (.irqVecCfgWrite v x req) s = .next t ∧ t.flag IRQ_VEC_CFG.EN v = x.getLsbD 31 ∧
      t.flag IRQ_VEC_CFG.WAKE v = x.getLsbD 30 ∧ t.fld IRQ_VEC_CFG.SCALE v = fget (x.setWidth 64) 19 16 ∧
      t.fld IRQ_VEC_CFG.TIMER v = fget (x.setWidth 64) 15 8 ∧ t.fld IRQ_VEC_CFG.COUNT_THR v = fget (x.setWidth 64) 7 0 ∧
      t.fld IRQ_VEC_CFG.FUNC v = (if v < 64 then s.fld IRQ_VEC_CFG.FUNC v else fget (x.setWidth 64) 28 23) ∧
      t.fld IRQ_VEC_CFG.DEST v = (if v < 64 then s.fld IRQ_VEC_CFG.DEST v else fget (x.setWidth 64) 29 29)) ∧
  (∀ (s : State) (v : Nat) (x : W32) (req : Req), 250 ≤ v → v < 256 → s.OpenReg .IRQ_VEC_CFG v req →
    exec (.irqVecCfgWrite v x req) s = .next s.answeredOk) ∧
  (∀ (s : State) (p : PageRef) (v : W32) (req : Req), s.Open p false req → s.asleep = false →
    ∃ t, exec (.pageEventEnWrite p v req) s = .next t ∧ (t.hdr p).eventEn = v &&& 0x8000FFFF ∧
      (t.hdr p).event = (s.hdr p).event ∧ t.regs = s.regs ∧
      ∀ b w, b < 16 → eventVec p b = some w → (s.hdr p).event.getLsbD b = true → (s.hdr p).eventEn.getLsbD b = false →
        v.getLsbD b = true → (∀ b', b' ≠ b → eventVec p b' = some w → (s.hdr p).event.getLsbD b' = true → v.getLsbD b' = false) →
        (t.vec w).count = min ((s.vec w).count + 1) 0xFFFF)

/-- R170, R172, R174–R176, R179, R182, R183: a part of a message on a core: DIGEST, HMAC or DIGEST_CONTINUE. One with MORE is
absorbed, completes OK and leaves the channel HELD. A final one frees the channel; its output, the digest or the tag under the slot's
bytes, goes to the RESULT slot that it names, or to DST. The model's own readings in it are those of log entries 70 and 71. -/
def Obligations.DigestsRunOnTheirCores : Prop :=
  (∀ (s : State) (c : Instr) (ch n op : Nat) (j : Job), s.working = true → ch < 256 → n < 4 →
    (c, op) ∈ [(Instr.digest ch, 0x20), (.hmac ch, 0x21), (.digestContinue ch, 0x22)] → (s.dgChan ch).job = some j →
    (s.dgChan ch).core = some n → (s.dgChan ch).st = DgSt.busy → j.elem.d.opcode = op → j.ready = true → s.coreFit n = true →
    dgLoad j.elem.d = false → dgClear j.elem.d = false → s.flag DCORE_XINJECT.ARM n = false → dgMore j.elem.d = true →
    (s.dgChan ch).next = [] →
    ∃ t, exec c s = .next t ∧ s.Completes t (16 + n) j.elem stOk 0 ∧ (t.dgChan ch).st = DgSt.held ∧ (t.dgChan ch).job = none ∧
      (t.dgChan ch).msg = (s.dgChan ch).msg ++ j.part 0 ∧ (t.dgChan ch).alg = (s.dgChan ch).alg ∧
      (t.dgChan ch).owner = (s.dgChan ch).owner ∧ (t.dgChan ch).keyed = (s.dgChan ch).keyed) ∧
  (∀ (s : State) (c : Instr) (ch n op : Nat) (j : Job) (out : Bytes), s.working = true → ch < 256 → n < 4 →
    (c, op) ∈ [(Instr.digest ch, 0x20), (.hmac ch, 0x21), (.digestContinue ch, 0x22)] → (s.dgChan ch).job = some j →
    (s.dgChan ch).core = some n → (s.dgChan ch).st = DgSt.busy → j.elem.d.opcode = op → j.ready = true → s.coreFit n = true →
    dgLoad j.elem.d = false → dgClear j.elem.d = false → s.flag DCORE_XINJECT.ARM n = false → dgMore j.elem.d = false →
    (s.dgChan ch).next = [] →
    out = (match (s.dgChan ch).keyed with
      | some b => slotTag (s.dgChan ch).alg (bvBytes b 128) ((s.dgChan ch).msg ++ j.part 0)
      | none => digestOf (s.dgChan ch).alg (dgXof j.elem.d) ((s.dgChan ch).msg ++ j.part 0)) →
    ∃ t, exec c s = .next t ∧ t.dgChan ch = {} ∧
      (j.elem.d.resultReg = true → s.Completes t (16 + n) j.elem stOk 0 ∧
        Tbl.get {} t.digest.results (j.elem.d.aux0 % 64) = ⟨true, out.length, bytesBv 512 out⟩) ∧
      (j.elem.d.resultReg = false → out ≠ [] → ∃ f, t.finishes = s.finishes ++ [f] ∧ f.job = j.id ∧ f.producer = 16 + n ∧
        f.compl.status = stOk ∧ f.compl.outLen = out.length ∧
        t.fab = (s.startWrite (.elemWrite j.id) j.elem.attr j.elem.d.dst out none).2.fab))

/-- R179–R181: while no error is injected into the cores, LOAD writes the slot with what it computes from the unwrapped key, under its
bank's mask, and a blob that does not unwrap leaves it EMPTY with AUTH_FAIL; CLEAR empties the slot. The channel is FREE after each. R183, R186: a double-bit error of a
LOADED slot empties it, and a corrected one is recorded. The model's own readings in it are those of log entry 71. -/
def Obligations.SlotsAreLoadedAndCleared : Prop :=
  (∀ (s : State) (ch n klen : Nat) (j : Job) (b : Bytes), s.working = true → ch < 256 → s.kdfSync = s →
    (s.dgChan ch).job = some j → (s.dgChan ch).core = some n → (s.dgChan ch).next = [] → s.digest.slotWait = [] →
    j.elem.d.opcode = 0x21 → dgLoad j.elem.d = true → j.ready = true → j.phase = 1 → s.slotMasked j.elem.d = true →
    s.NoInjection → slotImage (dgAlg j.elem.d) (j.part 3) = some (b, klen) → s.keyHead.all (fun h => h.id != j.id) = true →
    ∃ t, exec (.hmacLoad ch) s = .next t ∧ s.Completes t (16 + n) j.elem stOk 0 ∧ t.dgChan ch = {} ∧
      (t.kdSlot j.elem.d.object).st = KdSt.loaded ∧ (t.kdSlot j.elem.d.object).owner = j.elem.func ∧
      (t.kdSlot j.elem.d.object).alg = dgAlg j.elem.d ∧ (t.kdSlot j.elem.d.object).klen = klen ∧
      (t.kdSlot j.elem.d.object).bytes ^^^ t.slotKey j.elem.d.object = bytesBv 1024 b) ∧
  (∀ (s : State) (ch e : Nat) (j h : Job) (root : Bytes), s.working = true → ch < 256 → s.kdfSync = s →
    (s.dgChan ch).job = some j → (s.dgChan ch).core = none → (s.dgChan ch).serves = none → (s.dgChan ch).next = [] → s.digest.slotWait = [] →
    j.elem.d.opcode = 0x21 → dgLoad j.elem.d = true → j.ready = true → j.phase = 0 → s.keyHead = some h → h.id = j.id →
    s.rootBytes = some root → s.keyDerives = true → s.NoInjection → s.stalling 16 = false → unwrapBlob (s.funcKey root j.elem.func) (j.part 0) none = .error e →
    ∃ t p, exec (.hmacLoad ch) s = .next t ∧ 16 ≤ p ∧ p ≤ 19 ∧ s.Completes t p j.elem stAuthFail 0x2A ∧ t.dgChan ch = {} ∧
      t.kdSlot j.elem.d.object = {}) ∧
  (∀ (s : State) (ch : Nat) (j : Job), s.working = true → ch < 256 → (s.dgChan ch).job = some j → (s.dgChan ch).next = [] →
    s.digest.slotWait = [] → j.elem.d.opcode = 0x21 → dgClear j.elem.d = true →
    s.keyHead.all (fun h => h.id != j.id) = true → s.stalling 16 = false →
    ∃ t, exec (.hmacClear ch) s = .next t ∧ s.Completes t (16 + (s.dgChan ch).core.getD 0) j.elem stOk 0 ∧ t.dgChan ch = {} ∧
      t.kdSlot j.elem.d.object = {}) ∧
  (∀ (s : State) (n : Nat), s.working = true → n < 4096 → (s.kdSlot n).st = KdSt.loaded →
    ∃ t, exec (.slotEccError ⟨n, false⟩) s = .next t ∧ t.kdSlot n = {} ∧ (∀ m, m ≠ n → t.kdSlot m = s.kdSlot m) ∧
      (t.hdr (pg .digest)).fault.getLsbD 8 = true ∧ t.flag DG_ERR_INFO.VALID 0 = true) ∧
  (∀ (s : State) (n : Nat), s.working = true → n < 4096 →
    ∃ t, exec (.slotEccError ⟨n, true⟩) s = .next t ∧ t.digest = s.digest ∧ t.hdrs = s.hdrs ∧
      t.fld DG_ERR_INFO.COUNT 0 = min (s.fld DG_ERR_INFO.COUNT 0 + 1) 0xFFF)

/-- R174–R177: a spent budget gives the core to the channel that was displaced from it, or to the one that waited longest; a HELD
channel whose hold time has passed is freed and counted. R183, R186: a double-bit error of a channel's state ends its request with
FENCED and fences the channel, which the fault log records (R335); a corrected one is recorded. The model's own readings in it are
those of log entry 71. -/
def Obligations.DigestChannelsShareAndEnd : Prop :=
  (∀ (s : State) (n c d : Nat), s.working = true → n < 4 → s.coreFit n = true → (s.dcore n).chan = some c → c ≠ 255 →
    s.stalling (16 + n) = false → (s.dgChan c).core = some n → (s.dcore n).after = [] → s.dgLongest = some d → d ≠ c →
    ∃ t, exec (.digestBudgetExpiry n) s = .next t ∧ (t.dcore n).chan = some d ∧ (t.dgChan d).core = some n ∧
      (t.dgChan c).core = none ∧ (t.dgChan c).msg = (s.dgChan c).msg ∧ (t.dgChan c).st = (s.dgChan c).st) ∧
  (∀ (s : State) (n c d : Nat) (rest : List Nat), s.working = true → n < 4 → s.coreFit n = true → (s.dcore n).chan = some c →
    c ≠ 255 → s.stalling (16 + n) = false → (s.dcore n).after = d :: rest → (s.dgChan d).st = DgSt.busy →
    (s.dgChan d).core = none →
    ∃ t, exec (.digestBudgetExpiry n) s = .next t ∧ (t.dcore n).chan = some d ∧ (t.dgChan d).core = some n ∧
      (t.dcore n).after = rest) ∧
  (∀ (s : State) (ch : Nat), s.working = true → ch < 256 → (s.dgChan ch).st = DgSt.held → s.fld DG_HOLD.TMO 0 ≠ 0 →
    ∃ t, exec (.digestHoldTimeout ch) s = .next t ∧ t.dgChan ch = {} ∧ (t.hdr (pg .digest)).event.getLsbD 0 = true ∧
      t.fld DG_HOLD_CNT.EXPIRED 0 = min (s.fld DG_HOLD_CNT.EXPIRED 0 + 1) 0xFFFF) ∧
  (∀ (s : State) (ch : Nat), s.working = true → ch < 256 → (s.dgChan ch).st ≠ DgSt.fenced →
    ∃ t, exec (.digestStateEcc ⟨ch, false⟩) s = .next t ∧ t.dgChan ch = { st := .fenced } ∧
      (t.hdr (pg .digest)).fault.getLsbD 8 = true ∧ t.flag DG_ERR_INFO.VALID 0 = true ∧
      t.fld FLT_LOG_IDX.TOTAL 0 = min (s.fld FLT_LOG_IDX.TOTAL 0 + 1) 0xFFFF ∧
      ∀ j, (s.dgChan ch).job = some j → (s.dgChan ch).next = [] → s.digest.slotWait = [] → dgLoad j.elem.d = false → ch ≠ 255 →
        s.Completes t (16 + (s.dgChan ch).core.getD 0) j.elem stFenced rsnDgFenced) ∧
  (∀ (s : State) (ch : Nat), s.working = true → ch < 256 →
    ∃ t, exec (.digestStateEcc ⟨ch, true⟩) s = .next t ∧ t.digest = s.digest ∧ t.hdrs = s.hdrs ∧
      t.fld DG_ERR_INFO.COUNT 0 = min (s.fld DG_ERR_INFO.COUNT 0 + 1) 0xFFF)

/-- R183, R187: a core that detects an error records it, owes a check, and its channel goes on with another core; an error in the
re-run fences the engine. A check that passes frees the core and one that fails fences it; RUN hands the channel back and asks for a
check; DCORE_XINJECT takes what is written and counts its blocks from zero. The model's own readings in it are those of log
entries 20 and 82. -/
def Obligations.DigestCoresAreChecked : Prop :=
  (∀ (s : State) (n c cause m : Nat), s.working = true → n < 4 → 1 ≤ cause → cause ≤ 2 → (s.dcore n).chan = some c →
    s.coreFit n = true → (s.dgChan c).rerun = false → m < 4 → m ≠ n → s.coreFit m = true →
    ∃ t k, exec (.dcoreError n cause) s = .next t ∧ k ≠ n ∧ (t.dcore k).chan = some c ∧ (t.dgChan c).core = some k ∧
      (t.dgChan c).rerun = true ∧ (t.dgChan c).msg = (s.dgChan c).msg ∧ (t.dcore n).chan = none ∧
      (t.dcore n).check = CheckSt.waiting ∧ (t.hdr (corePg n)).fault.getLsbD 8 = true ∧ t.flag DCORE_ERR.VALID n = true ∧
      (s.flag DCORE_ERR.VALID n = false → t.fld DCORE_ERR.CAUSE n = cause) ∧
      t.fld DCORE_ERR.COUNT n = min (s.fld DCORE_ERR.COUNT n + 1) 0xFFFF) ∧
  (∀ (s : State) (n c cause : Nat), s.working = true → n < 4 → (s.dcore n).chan = some c → s.coreFit n = true →
    (s.dgChan c).rerun = true → s.isOn (pg .digest) = true →
    ∃ t, exec (.dcoreError n cause) s = .next t ∧ t.blk (pg .digest) = BlkState.fenced ∧
      (t.hdr (pg .digest)).fence = ⟨0x02, fenceLevel (pg .digest), false⟩ ∧ (t.hdr (pg .digest)).fault.getLsbD 8 = true) ∧
  (∀ (s : State) (n : Nat), s.working = true → n < 4 → (s.dcore n).check ≠ CheckSt.idle → s.isOn (corePg n) = true →
    ∃ t, exec (.dcoreCheckDone n true) s = .next t ∧ t.flag DCORE_CHECK.DONE n = true ∧ t.flag DCORE_CHECK.PASS n = true ∧
      t.flag DCORE_CHECK.RUN n = false ∧ (t.dcore n).check = CheckSt.idle ∧ (t.hdr (corePg n)).event.getLsbD 1 = true ∧
      t.isOn (corePg n) = true) ∧
  (∀ (s : State) (n : Nat), s.working = true → n < 4 → (s.dcore n).check ≠ CheckSt.idle → s.isOn (corePg n) = true →
    (s.dcore n).ownRerun = none →
    ∃ t, exec (.dcoreCheckDone n false) s = .next t ∧ t.flag DCORE_CHECK.DONE n = true ∧ t.flag DCORE_CHECK.PASS n = false ∧
      t.blk (corePg n) = BlkState.fenced ∧ (t.hdr (corePg n)).fence = ⟨0x01, 3, false⟩ ∧
      (t.hdr (corePg n)).fault.getLsbD 9 = true) ∧
  (∀ (s : State) (n : Nat) (req : Req), n < 4 → s.OpenReg .DCORE_CHECK n req → s.isOn (corePg n) = true →
    (s.dcore n).check = CheckSt.idle →
    ∃ t, exec (.dcoreCheckRun n req) s = .next t ∧ t.flag DCORE_CHECK.RUN n = true ∧ t.flag DCORE_CHECK.DONE n = false ∧
      (t.dcore n).check = CheckSt.waiting ∧ (t.dcore n).chan = none) ∧
  (∀ (s : State) (n : Nat) (v : W32) (req : Req), n < 4 → s.OpenReg .DCORE_XINJECT n req →
    ∃ t, exec (.dcoreErrorInject n v req) s = .next t ∧ s.Took t .DCORE_XINJECT n (v ||| DCORE_XINJECT.ARM.word 1) ∧
      t.dcore n = { s.dcore n with injectCount := 0 } ∧ t.digest.chans = s.digest.chans)

/-- R188, R193, R195–R203, R206, R207: an operation that has its input, its random values and its digest output comes to its end on
its unit: MODEXP, ECDH, ECDSA, X25519, Ed25519, ML-KEM and ML-DSA. Its result goes to DST, to AUX0 or to the chain's entry; one that
fails a check completes with the status and the reason of the check; a private operation leaves the key as it is, under a fresh
mask. A request that R195 refuses completes with what its first row says. The model's own readings in it are those of log
entries 70, 73, 74, 75 and 112. -/
def Obligations.BigNumberOperationsEnd : Prop :=
  (∀ (s : State) (c : Instr) (ch op : Nat) (j : Job), s.BnEnds ch j → j.elem.d.opcode = op → bnAction j.elem.d = 0 →
    (c, op) ∈ [(Instr.modexp ch, 0x30), (.ecdsaVerify ch, 0x33), (.ed25519Verify ch, 0x36), (.mldsaVerify ch, 0x3C)] →
    ∃ t, exec c s = .next t ∧ s.BnKeeps t ch ∧
      (∀ out, (∀ m, bnPublic j.elem.d (j.part 0) m = .done out [] none 0) → s.BnDone t ch j out []) ∧
      (∀ st r, (∀ m, bnPublic j.elem.d (j.part 0) m = .fail st r) → s.BnStops t ch j st r)) ∧
  (∀ (s : State) (ch : Nat) (j : Job), s.BnEnds ch j → j.elem.d.opcode = 0x39 → bnAction j.elem.d = 0 →
    ∃ t m, exec (.mlkemEncaps ch) s = .next t ∧ m.length = 32 ∧ s.BnKeeps t ch ∧
      (kemEkOk (kemSet (bnParam j.elem.d)) (j.part 0) = true →
        s.BnDone t ch j (kemEncaps (kemSet (bnParam j.elem.d)) (j.part 0) m).1
          (kemEncaps (kemSet (bnParam j.elem.d)) (j.part 0) m).2) ∧
      (kemEkOk (kemSet (bnParam j.elem.d)) (j.part 0) = false → s.BnStops t ch j stInvalidOperand 0x38)) ∧
  (∀ (s : State) (c : Instr) (ch op : Nat) (j : Job) (k : HeldKey), s.BnEnds ch j → j.elem.d.opcode = op →
    bnAction j.elem.d = 1 → (s.bnChan ch).key = some k →
    (c, op) ∈ [(Instr.modexp ch, 0x30), (.ecdh ch, 0x31), (.ecdsaSign ch, 0x32), (.x25519 ch, 0x34), (.ed25519Sign ch, 0x35),
      (.mlkemDecaps ch, 0x3A), (.mldsaSign ch, 0x3B)] →
    ∃ t, exec c s = .next t ∧ s.BnKeeps t ch ∧
      (∀ out n, bnPrivate j.elem.d (k.bytes ch) (j.part 0) (j.part 1) ((s.bnChan ch).rnd.getD []) = .done out [] none n →
        s.BnDone t ch j out []) ∧
      (∀ st r, bnPrivate j.elem.d (k.bytes ch) (j.part 0) (j.part 1) ((s.bnChan ch).rnd.getD []) = .fail st r →
        s.BnStops t ch j st r)) ∧
  (∀ (s : State) (ch l n : Nat) (j : Job) (out key : Bytes), s.BnEnds ch j → j.elem.d.opcode = 0x38 → bnAction j.elem.d = 3 →
    bnGen 0x38 (bnParam j.elem.d) ((s.bnChan ch).rnd.getD []) = .done out [] (some (key, l)) n →
    ∃ t, exec (.mlkemKeygen ch) s = .next t ∧ s.BnDone t ch j out [] ∧
      (t.bnChan ch).key.map (fun k => (k.param, k.len, k.bytes ch)) = some (bnParam j.elem.d, l, key)) ∧
  (∀ (s : State) (c : Instr) (ch op st r : Nat) (j : Job), s.working = true → ch < 64 → (s.bnChan ch).queue = [j] →
    j.phase = 3 → (s.bnChan ch).hash = false → (∀ u, s.bnWaiters u = []) → bnKind j.elem.d = 0 → j.elem.d.opcode = op →
    s.bnRefusal ch j.elem = some (st, r) →
    (c, op) ∈ [(Instr.modexp ch, 0x30), (.ecdh ch, 0x31), (.ecdsaSign ch, 0x32), (.ecdsaVerify ch, 0x33), (.x25519 ch, 0x34),
      (.ed25519Sign ch, 0x35), (.ed25519Verify ch, 0x36), (.mlkemKeygen ch, 0x38), (.mlkemEncaps ch, 0x39), (.mlkemDecaps ch, 0x3A),
      (.mldsaSign ch, 0x3B), (.mldsaVerify ch, 0x3C)] →
    ∃ t, exec c s = .next t ∧ s.BnStops t ch j st r ∧ s.BnKeeps t ch)

/-- R190, R194, R202, R204, R205, R208: LOAD and GEN leave a key in the channel and CLEAR takes it, whatever the opcode; a LOAD that
fails completes with its status; a LOAD is stated while no error is injected into the digest cores. A resplit that is due asks for its seed. A write of a channel's configuration takes the key
where VALID or FUNC changes, and sets SEQ where the channel's state does not allow the change. An uncorrectable error takes the
key and ends the request; a corrected one is recorded. The model's own readings in it are those of log entries 73, 74, 75 and
112. -/
def Obligations.BigNumberKeysAreHeld : Prop :=
  (∀ (s : State) (ch l n : Nat) (j : Job) (out key : Bytes), s.BnEnds ch j → j.elem.d.opcode ≠ 0x38 → bnAction j.elem.d = 3 →
    bnGen j.elem.d.opcode (bnParam j.elem.d) ((s.bnChan ch).rnd.getD []) = .done out [] (some (key, l)) n →
    ∃ t, exec (.bnKeyGen ch) s = .next t ∧ s.BnDone t ch j out [] ∧
      (t.bnChan ch).key.map (fun k => (k.param, k.len, k.bytes ch)) = some (bnParam j.elem.d, l, key)) ∧
  (∀ (s : State) (ch : Nat) (j h : Job) (root : Bytes), s.BnEnds ch j → j.elem.d.opcode ≠ 0x38 → bnAction j.elem.d = 2 →
    s.kdfDenied = false → s.kdfSync = s → s.NoInjection → s.keyHead = some h → h.id = j.id → s.rootBytes = some root → s.keyDerives = true →
    ∃ t, exec (.bnKeyLoad ch) s = .next t ∧
      (∀ key l, bnLoad j.elem.d (s.funcKey root j.elem.func) (j.part 0) = .done [] [] (some (key, l)) 0 → s.BnDone t ch j [] [] ∧
        (t.bnChan ch).key.map (fun k => (k.param, k.len, k.bytes ch)) = some (bnParam j.elem.d, l, key)) ∧
      (∀ st r, bnLoad j.elem.d (s.funcKey root j.elem.func) (j.part 0) = .fail st r → s.BnStops t ch j st r)) ∧
  (∀ (s : State) (ch : Nat) (j : Job), s.working = true → ch < 64 → (s.bnChan ch).queue = [j] → j.phase = 3 →
    (s.bnChan ch).hash = false → j.elem.d.opcode ≠ 0x38 → bnAction j.elem.d = 4 → s.bnRefusal ch j.elem = none →
    ∃ t, exec (.bnKeyClear ch) s = .next t ∧ s.BnStops t ch j stOk 0 ∧ (t.bnChan ch).key = none) ∧
  (∀ (s : State) (ch : Nat), s.working = true → ch < 64 → (s.bnChan ch).key.isSome = true → s.fld BN_XRESPLIT.PERIOD 0 ≠ 0 →
    s.isOn (pg .bignum) = true → (s.bnChan ch).splitRnd = none → RngUse.resplit ch ∉ s.rng.ordWait →
    ∃ t, exec (.bnResplitDue ch) s = .next t ∧ t.bnChan ch = { s.bnChan ch with resplit := true } ∧
      t.rng.ordWait = s.rng.ordWait ++ [RngUse.resplit ch]) ∧
  (∀ (s : State) (ch : Nat) (v : W32) (req : Req), ch < 64 → s.OpenReg .BN_CHAN_CFG ch req → (s.bnChan ch).st = .idle →
    ∃ t, exec (.bnChanCfgWrite ch v req) s = .next t ∧ t.flag BN_CHAN_CFG.VALID ch = v.getLsbD 31 ∧
      t.flag BN_CHAN_CFG.PRIV ch = v.getLsbD 30 ∧ t.fld BN_CHAN_CFG.FUNC ch = fget (v.setWidth 64) 29 24 ∧
      (t.bnChan ch).key = (if s.flag BN_CHAN_CFG.VALID ch = v.getLsbD 31 ∧ s.fld BN_CHAN_CFG.FUNC ch = fget (v.setWidth 64) 29 24
        then (s.bnChan ch).key else none) ∧ t.hdrs = s.hdrs) ∧
  (∀ (s : State) (ch : Nat) (v : W32) (req : Req), ch < 64 → s.OpenReg .BN_CHAN_CFG ch req → (s.bnChan ch).st ≠ .idle →
    s.fld BN_CHAN_CFG.FUNC ch ≠ fget (v.setWidth 64) 29 24 →
    ∃ t, exec (.bnChanCfgWrite ch v req) s = .next t ∧ t.regs = s.regs ∧ t.bignum = s.bignum ∧
      (t.hdr (pg .bignum)).fault.getLsbD 5 = true) ∧
  (∀ (s : State) (ch : Nat), s.working = true → ch < 64 → (s.bnChan ch).key.isSome = true →
    ∃ t, exec (.bnKeyEcc ⟨ch, false⟩) s = .next t ∧ (t.bnChan ch).key = none ∧ (t.hdr (pg .bignum)).fault.getLsbD 11 = true ∧
      t.flag BN_ERR_INFO.VALID 0 = true ∧ ∀ j, (s.bnChan ch).queue = [j] → s.BnStops t ch j stBignumFault 0x3F) ∧
  (∀ (s : State) (ch : Nat), s.working = true → ch < 64 →
    ∃ t, exec (.bnKeyEcc ⟨ch, true⟩) s = .next t ∧ t.bignum = s.bignum ∧ t.hdrs = s.hdrs ∧ t.flag BN_ERR_INFO.VALID 0 = true ∧
      t.fld BN_ERR_INFO.COUNT 0 = min (s.fld BN_ERR_INFO.COUNT 0 + 1) 0xFFFF)

/-- R197–R200, R211: a spent budget gives the unit to a waiter; a privileged one takes it at once, and the channel that it displaces
waits. A request that waits too long for random values completes with RNG_UNAVAILABLE. IDLE is set when no channel has a request.
The model's own readings in it are those of log entry 73. -/
def Obligations.BigNumberUnitsAreShared : Prop :=
  (∀ (s : State) (u : BnUnit) (c d : Nat), s.working = true → (s.bnUnit u).chan = some c → (s.bnUnit u).fenced = false →
    (s.bnUnit u).check = .idle → s.stalling 20 = false → s.bnNext u = some d → d ≠ c →
    ∃ t, exec (.bnBudgetExpiry u) s = .next t ∧ (t.bnUnit u).chan = some d ∧ (t.bnChan d).st = .running ∧
      (t.bnChan c).st = .waiting ∧ (t.bnChan c).displaced = s.bnPriv d ∧ (t.bnChan c).queue = (s.bnChan c).queue) ∧
  (∀ (s : State) (u : BnUnit) (c d : Nat), s.working = true → (s.bnUnit u).chan = some c →
    earliest ((s.bnWaiters u).filter (fun p => s.bnPriv p.1)) = some d → d ≠ c →
    ∃ t, exec (.bnPrivPreempt u) s = .next t ∧ (t.bnUnit u).chan = some d ∧ (t.bnChan d).st = .running ∧
      (t.bnChan c).st = .waiting ∧ (t.bnChan c).displaced = true ∧ (t.bnChan c).queue = (s.bnChan c).queue) ∧
  (∀ (s : State) (ch : Nat) (j : Job), s.working = true → ch < 64 → (s.bnChan ch).queue = [j] → (s.bnChan ch).rndWait = true →
    s.fld BN_XRNG.TMO 0 ≠ 0 →
    ∃ t, exec (.bnRngTimeout ch) s = .next t ∧ s.BnStops t ch j stRngUnavailable 0x3E ∧ t.flag BN_ERR_INFO.VALID 0 = true ∧
      (s.flag BN_ERR_INFO.VALID 0 = false → t.fld BN_ERR_INFO.KIND 0 = 6 ∧ t.fld BN_ERR_INFO.CHANNEL 0 = ch)) ∧
  (∀ (s : State), s.working = true → s.bnIdle = true → s.isOn (pg .bignum) = true →
    ∃ t, exec .bnIdleHoldoff s = .next t ∧ (t.hdr (pg .bignum)).event.getLsbD 0 = true ∧ t.bignum = s.bignum ∧ t.regs = s.regs)

/-- R203, R204, R211: the first error of a request withdraws its output and has it computed again with fresh values, its input read
again where it streams; the second has its unit checked. A check that passes fences the channel whose recompute failed, one that
fails fences the unit, and with both units FENCED the block. RUN has both units checked, and BN_XINJECT takes what is written and
counts operations from zero. The model's own readings in it are those of log entries 20, 73 and 82. -/
def Obligations.BigNumberErrorsAreChecked : Prop :=
  (∀ (s : State) (ch cause : Nat) (u : BnUnit) (j : Job), s.working = true → ch < 64 → 1 ≤ cause → cause ≤ 2 →
    (s.bnChan ch).queue = [j] → (s.bnUnit u).chan = some ch → (s.bnChan ch).recompute = false →
    ∃ t k, exec (.bnCheckFail ch u cause) s = .next t ∧ (t.bnChan ch).queue = [k] ∧ k.id = j.id ∧ k.elem.d = j.elem.d ∧
      k.retried = true ∧ (t.bnChan ch).recompute = true ∧ s.BnKeeps t ch ∧
      (bnAtOnce j.elem.d = false → (t.bnChan ch).rnd = none ∧ (t.bnChan ch).rndWait = decide (bnDraws j.elem.d ≠ 0)) ∧
      (bnAtOnce j.elem.d = true → (t.bnUnit u).chan = some ch) ∧
      (bnStreams j.elem.d = true → j.elem.d.srcLen ≠ 0 →
        t.fab = (s.startRead (.elemRead j.id 0) j.elem.attr j.elem.d.src j.elem.d.srcLen none).2.fab) ∧
      t.flag BN_ERR_INFO.VALID 0 = true ∧ (s.flag BN_ERR_INFO.VALID 0 = false → t.fld BN_ERR_INFO.KIND 0 = cause) ∧
      t.fld BN_ERR_INFO.COUNT 0 = min (s.fld BN_ERR_INFO.COUNT 0 + 1) 0xFFFF) ∧
  (∀ (s : State) (ch cause : Nat) (u : BnUnit), s.working = true → ch < 64 → (s.bnChan ch).queue ≠ [] →
    (s.bnUnit u).chan = some ch → (s.bnChan ch).recompute = true →
    ∃ t, exec (.bnCheckFail ch u cause) s = .next t ∧ (t.bnUnit u).check = .running ∧ (t.bnUnit u).chan = none ∧
      (t.bnUnit u).failed = some ch ∧ (t.bnChan ch).queue = (s.bnChan ch).queue ∧
      (t.hdr (pg .bignum)).fault.getLsbD 8 = true) ∧
  (∀ (s : State) (u : BnUnit) (ch : Nat) (j : Job), s.working = true → (s.bnUnit u).check = .running →
    (s.bnUnit u).failed = some ch → (s.bnChan ch).queue = [j] → (s.bnChan ch).recompute = true →
    ∃ t, exec (.bnUnitCheckDone u true) s = .next t ∧ s.BnStops t ch j stBignumFault 0x3D ∧ (t.bnChan ch).st = .fenced ∧
      (t.bnChan ch).key = none ∧ (t.hdr (pg .bignum)).fault.getLsbD 10 = true ∧ (t.bnUnit u).check = .idle ∧
      (t.bnUnit u).fenced = false) ∧
  (∀ (s : State) (u w : BnUnit), s.working = true → (s.bnUnit u).check = .running → w ≠ u →
    ∃ t, exec (.bnUnitCheckDone u false) s = .next t ∧ (t.hdr (pg .bignum)).fault.getLsbD 9 = true ∧
      ((s.bnUnit w).fenced = false → (t.bnUnit u).fenced = true ∧ (t.bnUnit w).fenced = false) ∧
      ((s.bnUnit w).fenced = true → s.isOn (pg .bignum) = true → t.blk (pg .bignum) = BlkState.fenced ∧
        (t.hdr (pg .bignum)).fence = ⟨0x0E, fenceLevel (pg .bignum), false⟩)) ∧
  (∀ (s : State) (req : Req), s.OpenReg .BN_CHECK 0 req → s.isOn (pg .bignum) = true →
    (∀ u, (s.bnUnit u).fenced = false ∧ (s.bnUnit u).check = .idle) →
    ∃ t, exec (.bnCheckRun req) s = .next t ∧ t.flag BN_CHECK.RUN 0 = true ∧ t.flag BN_CHECK.DONE 0 = false ∧
      (∀ u, (t.bnUnit u).check = .running ∧ (t.bnUnit u).chan = none) ∧
      (∀ u c, (s.bnUnit u).chan = some c → (t.bnChan c).st = .waiting ∧ (t.bnChan c).queue = (s.bnChan c).queue)) ∧
  (∀ (s : State) (v : W32) (req : Req), s.OpenReg .BN_XINJECT 0 req →
    ∃ t, exec (.bnErrorInject v req) s = .next t ∧ s.Took t .BN_XINJECT 0 (v ||| BN_XINJECT.ARM.word 1) ∧
      t.bignum = { s.bignum with injectCount := 0 })

/-- R212–R217: at a batt boundary a running cell's batt is checked: one that passes brings its cell nearer to admission and, from an
admitted one, enters the pool as two units, and one that fails is recorded and counted; an enabled cell that does not run starts.
The windows start their counts again, V194 is raised when the pool stays short, and a cell whose enable is cleared stops. The
model's own readings in it are those of log entry 69. -/
def Obligations.NoiseCellsAreChecked : Prop :=
  (∀ (s : State) (batts : List (BitVec 512)) (n : Nat), s.working = true → s.rngUp = true → s.blk (pg .rng) = BlkState.on →
    s.rng.raw = none → s.flag RNG_XRAW.EN 0 = false → n < 16 →
    ∃ t, exec (.battBoundary batts) s = .next t ∧
      (s.cellOn n = false → t.cell n = s.cell n) ∧
      (s.cellOn n = true → (s.cell n).running = false → t.cell n = { (s.cell n).stopped with running := true }) ∧
      (s.cellOn n = true → (s.cell n).running = true → (s.cell n).warm = true →
        t.cell n = { (s.cell n).estimate (battBits (batts.getD n 0)) with warm := false }) ∧
      (s.cellOn n = true → (s.cell n).running = true → (s.cell n).warm = false →
        s.battAlive (battBits (batts.getD n 0)) = true → s.battFree (battBits (batts.getD n 0)) = true →
        t.cell n = { (s.cell n).estimate (battBits (batts.getD n 0)) with
          failed := false, passes := min 2 ((s.cell n).passes + 1)
          admitted := (s.cell n).admitted || min 2 ((s.cell n).passes + 1) == 2 } ∧
        t.fld RNG_CELL_CNT.PASS n = min (s.fld RNG_CELL_CNT.PASS n + 1) 0xFFFFFFFF ∧
        (s.fld RNG_CELL_EN.EN 0 = 2 ^ n → (s.cell n).admitted = true → s.rng.pool.length < 16 →
          t.rng.pool = (s.rng.pool ++ (List.range 2).map (fun i =>
            BitVec.ofNat 128 (leNat (slice (sha256 (leBytes (batts.getD n 0).toNat 64)) (16 * i) 16)))).take 16)) ∧
      (s.cellOn n = true → (s.cell n).running = true → (s.cell n).warm = false →
        s.battAlive (battBits (batts.getD n 0)) = false ∨ s.battFree (battBits (batts.getD n 0)) = false →
        (t.cell n).failed = true ∧ (t.cell n).winFails = (s.cell n).winFails + 1 ∧ (t.cell n).admitted = (s.cell n).admitted ∧
        t.fld RNG_CELL_CNT.FAIL n = min (s.fld RNG_CELL_CNT.FAIL n + 1) 0xFFFFFFFF ∧
        (s.battAlive (battBits (batts.getD n 0)) = false → bitAt (t.fld RNG_CELL_FLAGS.ALIVE_FAIL 0) n = true) ∧
        (s.battFree (battBits (batts.getD n 0)) = false → bitAt (t.fld RNG_CELL_FLAGS.LOCK_FAIL 0) n = true) ∧
        (s.fld RNG_HEALTH_CFG.THRESH 0 = (s.cell n).winFails + 1 → (t.hdr (pg .rng)).event.getLsbD 2 = true ∨
          s.rng.healthRaised = true))) ∧
  (∀ (s : State), s.working = true →
    ∃ t, exec .healthWindowEnd s = .next t ∧ (∀ n, n < 16 → t.cell n = { s.cell n with winFails := 0 }) ∧ t.regs = s.regs) ∧
  (∀ (s : State) (n : Nat), s.working = true → s.rngUp = true → n < 16 →
    ∃ t, exec .estimateWindowEnd s = .next t ∧ t.cell n = { s.cell n with ones := 0, equal := 0, last := none } ∧
      t.fld RNG_CELL_EST.ONES n = (s.cell n).ones % 2 ^ 32 ∧ t.fld RNG_CELL_EST.EQUAL n = (s.cell n).equal % 2 ^ 32 ∧
      (t.hdr (pg .rng)).event.getLsbD 3 = true) ∧
  (∀ (s : State), s.working = true → s.rngUp = true → s.fld RNG_TMO.STALL_TMO 0 ≠ 0 → s.rng.pool.length < 16 →
    s.rng.stallRaised = false →
    ∃ t, exec .fullerStallTimeout s = .next t ∧ (t.hdr (pg .rng)).event.getLsbD 7 = true ∧ t.regs = s.regs ∧
      t.rng = { s.rng with stallRaised := true }) ∧
  (∀ (s : State) (v : W32) (req : Req), s.OpenReg .RNG_CELL_EN 0 req →
    ∃ t, exec (.rngCellEnWrite v req) s = .next t ∧ t.fld RNG_CELL_EN.EN 0 = fget (v.setWidth 64) 15 0 ∧
      ∀ n, n < 16 → t.cell n = (if v.getLsbD n = true then s.cell n else (s.cell n).stopped))

/-- R226, R229: a raw capture takes its cell at a batt boundary while the tile is in TEST and the lock is open, and each batt of the
cell is written to the next unit of its buffer. The model's own readings in it are those of log entries 69 and 82. -/
def Obligations.RawCapturesAreWritten : Prop :=
  (∀ (s : State) (v : W32) (req : Req), s.OpenReg .RNG_XRAW 0 req →
    ∃ t, exec (.rawCaptureStart v req) s = .next t ∧ s.Took t .RNG_XRAW 0 (v ||| RNG_XRAW.EN.word 1) ∧ t.rng = s.rng) ∧
  (∀ (s : State) (batts : List (BitVec 512)), s.working = true → s.rngUp = true → s.blk (pg .rng) = BlkState.on →
    s.rng.raw = none → s.flag RNG_XRAW.EN 0 = true → s.tile.st = TileState.test → (s.hdr (pg .rng)).lock = Lock.opened →
    ∃ t, exec (.battBoundary batts) s = .next t ∧ t.rng.raw = some (s.fld RNG_XRAW.CELL 0) ∧ t.fld RNG_XRAW_STS.WRITTEN 0 = 0 ∧
      (t.cell (s.fld RNG_XRAW.CELL 0)).admitted = false) ∧
  (∀ (s : State) (batts : List (BitVec 512)) (n : Nat), s.working = true → s.rngUp = true → s.blk (pg .rng) = BlkState.on →
    s.rng.raw = some n → s.flag RNG_XRAW.EN 0 = true → s.tile.st = TileState.test → (s.hdr (pg .rng)).lock = Lock.opened →
    s.fld RNG_XRAW.CELL 0 = n → s.cellOn n = true → (s.cell n).running = true → s.rng.rawNext < max 1 (s.fld RNG_XRAW.LEN 0) →
    ∃ t, exec (.battBoundary batts) s = .next t ∧ t.rng.raw = some n ∧ t.rng.rawNext = s.rng.rawNext + 1 ∧
      t.fab = (s.startWrite .rawCapture (ownAttr false true false) (64 * (s.fld RNG_XRAW_BASE.BASE 0 + s.rng.rawNext))
        (leBytes (batts.getD n 0).toNat 64) none).2.fab)

/-- R218–R225, R227: instantiate and reseed take three units of the pool into the expander; FORCE asks for a reseed; a generate call
serves the next consumer in the order of R220, moves the expander on and counts. A RANDOM request delivers what was granted, or
completes with what R224 says; the software port hands out a word at each read; an error that stays fences the source. The
model's own readings in it are those of log entries 69, 70 and 82. -/
def Obligations.ExpanderSeedsAndServes : Prop :=
  (∀ (s : State), s.working = true → s.rngUp = true → (s.hdr (pg .rng)).en = true → s.rng.seeded = false → 3 ≤ s.rng.pool.length →
    ∃ t, exec .instantiate s = .next t ∧ t.rng.seeded = true ∧ t.rng.count = 0 ∧ t.rng.pool = s.rng.pool.drop 3 ∧
      (t.rng.key, t.rng.v) = drbgUpdate 0 0 ((s.rng.pool.take 3).flatMap (fun u => leBytes u.toNat 16)) ∧
      t.fld RNG_RESEEDS.COUNT 0 = min (s.fld RNG_RESEEDS.COUNT 0 + 1) 0xFFFFFFFF ∧
      (s.enoughCells = true → s.rng.ready = false → s.rng.allStall = false → t.rng.ready = true ∧ t.rng.phase = .running ∧
        t.blk (pg .rng) = BlkState.on ∧ (t.hdr (pg .rng)).event.getLsbD 0 = true)) ∧
  (∀ (s : State), s.working = true → s.reseedDue = true →
    ∃ t, exec .reseed s = .next t ∧ t.rng.count = 0 ∧ t.rng.pool = s.rng.pool.drop 3 ∧ t.rng.force = false ∧
      t.rng.stretched = false ∧ t.rng.ordStall = false ∧ t.rng.allStall = false ∧
      t.rng.ready = (s.rng.ready || s.rng.allStall) ∧
      (t.rng.key, t.rng.v) = drbgUpdate s.rng.key s.rng.v ((s.rng.pool.take 3).flatMap (fun u => leBytes u.toNat 16))) ∧
  (∀ (s : State) (u : RngUse), s.working = true → s.rngUp = true → s.reseedDue = false → s.rng.ready = true →
    s.rng.count < s.rngLimit + s.rngReserve → s.privNext = some u →
    ∃ t, exec .generateCall s = .next t ∧ t.rng.privWait = s.rng.privWait.erase u ∧ t.rng.lastKey = u.isKey ∧
      t.rng.count = s.rng.count + 1 ∧
      (t.rng.key, t.rng.v) =
        drbgUpdate s.rng.key (drbgBlocks s.rng.key ((s.useBytes u + 15) / 16) s.rng.v).2 (List.replicate 48 0) ∧
      (u = .session → t.fld KEY_SESSION.SESSION 0 = leNat ((drbgBlocks s.rng.key 1 s.rng.v).1.take 8)) ∧
      (∀ b, u = .pounce b → (t.bank b).arrived.isSome = true ∧ (t.bank b).key = (s.bank b).key)) ∧
  (∀ (s : State) (u : RngUse) (i : Nat), s.working = true → s.rngUp = true → s.reseedDue = false → s.rng.ready = true →
    s.rng.count < s.rngLimit → s.privNext = none → s.ordNext = some (i, u) →
    ∃ t, exec .generateCall s = .next t ∧ t.rng.lastOrd = i ∧ t.rng.count = s.rng.count + 1 ∧
      (t.rng.key, t.rng.v) =
        drbgUpdate s.rng.key (drbgBlocks s.rng.key ((s.useBytes u + 15) / 16) s.rng.v).2 (List.replicate 48 0) ∧
      (u = .random → t.rng.granted =
        s.rng.granted ++ (drbgBlocks s.rng.key ((s.useBytes u + 15) / 16) s.rng.v).1.take (s.useBytes u)) ∧
      (u = .swPort → t.rng.swFifo = s.rng.swFifo ++ swWords (drbgBlocks s.rng.key 2 s.rng.v).1)) ∧
  (∀ (s : State), s.working = true → s.rngUp = true → s.rng.ready = false → s.rng.allStall = false → s.rng.phase ≠ .waitCells →
    ∃ t, exec .rngReadyTimeout s = .next t ∧ t.rng = { s.rng with phase := .waitCells } ∧ t.regs = s.regs ∧
      (t.hdr (pg .rng)).event.getLsbD 1 = true) ∧
  (∀ (s : State) (req : Req), s.OpenReg .RNG_RESEED_CFG 0 req →
    ∃ t, exec (.reseedForce req) s = .next t ∧ t.rng.force = true ∧ t.rng.count = s.rng.count ∧
      t.fld RNG_RESEED_CFG.NOMINAL 0 = s.fld RNG_RESEED_CFG.NOMINAL 0 ∧
      t.fld RNG_RESEED_CFG.LIMIT_LOG2 0 = s.fld RNG_RESEED_CFG.LIMIT_LOG2 0) ∧
  (∀ (s : State) (j : Job) (rest : List Job), s.working = true → s.rng.jobs = j :: rest → s.stalling 23 = false →
    ∃ t, exec .random s = .next t ∧
      (∀ st, randomRefusal j.elem.d = some st → t.rng.jobs = rest ∧ s.Completes t 23 j.elem st 0) ∧
      (randomRefusal j.elem.d = none → s.blk (pg .rng) = BlkState.fenced → t.rng.jobs = rest ∧ s.Completes t 23 j.elem stFenced 0) ∧
      (randomRefusal j.elem.d = none → s.blk (pg .rng) ≠ BlkState.fenced → s.randomNeed = 0 → j.elem.d.secretHandoff = false →
        t.rng.jobs = rest ∧ t.rng.granted = [] ∧
        t.fab = (s.startWrite (.elemWrite j.id) j.elem.attr j.elem.d.dst s.rng.granted none).2.fab ∧
        ∃ f, t.finishes = s.finishes ++ [f] ∧ f.job = j.id ∧ f.producer = 23 ∧ f.compl.status = stOk ∧
          f.compl.outLen = s.rng.granted.length) ∧
      (randomRefusal j.elem.d = none → s.blk (pg .rng) ≠ BlkState.fenced → s.randomNeed = 0 → j.elem.d.secretHandoff = true →
        t.rng.jobs = rest ∧ t.rng.granted = [] ∧ s.Completes t 23 j.elem stOk 0 ∧
        ∀ i x, s.cbEntry j.elem = some (i, x) → Tbl.get {} t.qeng.cbuf i = { x with secret := s.rng.granted })) ∧
  (∀ (s : State) (j : Job) (rest : List Job), s.working = true → s.rng.jobs = j :: rest → s.randomNeed ≠ 0 →
    ∃ t, exec .randomTimeout s = .next t ∧ t.rng.jobs = rest ∧ t.rng.granted = [] ∧
      s.Completes t 23 j.elem stRngUnavailable 0) ∧
  (∀ (s : State) (req : Req), s.Open (pg .rng) true req →
    (∀ w rest, s.rng.swFifo = w :: rest →
      exec (.rngSwDataRead req) s = .next { s with
        rng := { s.rng with swFifo := rest }
        cp := { s.cp with rsp := [⟨.ok, BitVec.ofNat 64 (2 ^ 63 + w.toNat), 0⟩] } }) ∧
    (s.rng.swFifo = [] → exec (.rngSwDataRead req) s = .next s.answeredOk)) ∧
  (∀ (s : State), s.working = true → s.rngUp = true →
    (∃ t, exec (.rngDatapathError true) s = .next t ∧ t.rng = s.rng ∧ (t.hdr (pg .rng)).fault.getLsbD 0 = true ∧
      t.blk (pg .rng) = s.blk (pg .rng)) ∧
    (∃ t, exec (.rngDatapathError false) s = .next t ∧ t.blk (pg .rng) = BlkState.fenced ∧ t.rng.ready = false ∧
      (t.hdr (pg .rng)).fault.getLsbD 8 = true ∧ (t.hdr (pg .rng)).fence = ⟨0x01, fenceLevel (pg .rng), false⟩))

/-- R232–R236: the key port is sampled while its conditions hold: key_req rises, words are taken until key_last, and a transfer that is
right waits for the random bytes that split its root. One that is not is refused with its cause, tried once more after the retry
wait, and then fails; PORT_RETRY starts again. Words while key_req is low are counted. The model's own readings in it are
those of log entries 65 and 66. -/
def Obligations.RootComesInOnTheKeyPort : Prop :=
  (∀ (s : State), s.working = true → s.portSampled = true → s.key.port = .waiting →
    exec .keyPortRequest s = .next { s with key := { s.key with port := .request, req := true, words := [] } }) ∧
  (∀ (s : State) (ws : List W32) (last : Nat) (all : List W32) (b : Bytes), s.working = true → s.key.req = true →
    s.portSampled = true → last < ws.length → all = s.key.words ++ ws.take (last + 1) →
    b = all.flatMap (fun w => leBytes w.toNat 4) →
    ∃ t, exec (.rootTransfer ws last) s = .next t ∧ t.key.req = false ∧ t.key.words = [] ∧
      t.fld KEY_PORT_STS.STRAY 0 = min (s.fld KEY_PORT_STS.STRAY 0 + (ws.length - (last + 1))) 0xFFFF ∧
      (all.length = 15 → crc32 (slice b 0 56) = numAt b 56 4 → (slice b 8 48).all (· == 0) = false →
        (slice b 8 48).all (· == 0xFF) = false →
        t.key.incoming = some (numAt b 0 8, slice b 8 48) ∧ t.key.port = .receiving ∧
        t.rng.privWait = s.rng.privWait ++ (if s.key.sessionDrawn then [] else [RngUse.session]) ++ [RngUse.rootLoad]) ∧
      (∀ c, (all.length ≠ 15 ∧ c = 2 ∨ all.length = 15 ∧ crc32 (slice b 0 56) ≠ numAt b 56 4 ∧ c = 3 ∨
          all.length = 15 ∧ crc32 (slice b 0 56) = numAt b 56 4 ∧
            ((slice b 8 48).all (· == 0) = true ∨ (slice b 8 48).all (· == 0xFF) = true) ∧ c = 4) →
        t.fld KEY_PORT_STS.CAUSE 0 = c ∧ t.fld KEY_PORT_STS.ATTEMPTS 0 = min (s.fld KEY_PORT_STS.ATTEMPTS 0 + 1) 15 ∧
        t.key.incoming = s.key.incoming ∧ t.key.retry = !s.key.retry ∧
        t.key.port = (if s.key.retry then .failed else .retryWait) ∧
        (s.key.retry = true → (t.hdr (pg .key)).fault.getLsbD 8 = true ∧ (t.hdr (pg .key)).fault.getLsbD 1 = true))) ∧
  (∀ (s : State) (ws : List W32) (last : Nat), s.working = true → s.key.req = true → s.portSampled = true → ws ≠ [] →
    ws.length ≤ last →
    exec (.rootTransfer ws last) s = .next { s with key := { s.key with port := .receiving, words := s.key.words ++ ws } }) ∧
  (∀ (s : State), s.working = true → s.key.req = true → s.portSampled = true →
    ∃ t, exec .keyPortTimeout s = .next t ∧ t.fld KEY_PORT_STS.CAUSE 0 = 1 ∧ t.key.req = false ∧ t.key.words = [] ∧
      t.key.port = (if s.key.retry then .failed else .retryWait) ∧ t.key.retry = !s.key.retry) ∧
  (∀ (s : State), s.working = true → s.key.port = .retryWait → s.portSampled = true →
    exec .keyPortRetryWait s = .next { s with key := { s.key with port := .request, req := true } }) ∧
  (∀ (s : State) (req : Req), s.OpenReg .KEY_CMD 0 req → s.key.port = .failed → s.key.root = none →
    ∃ t, exec (.portRetry req) s = .next t ∧ t.key.req = s.portSampled ∧ t.key.retry = false ∧ t.key.incoming = none ∧
      t.key.port = (if s.portSampled then .request else .waiting) ∧ t.regs = s.regs ∧ t.hdrs = s.hdrs) ∧
  (∀ (s : State) (req : Req), s.OpenReg .KEY_CMD 0 req → s.key.port ≠ .failed ∨ s.key.root ≠ none →
    ∃ t, exec (.portRetry req) s = .next t ∧ t.key = s.key ∧ (t.hdr (pg .key)).fault.getLsbD 5 = true) ∧
  (∀ (s : State), s.working = true → s.key.req = false →
    ∃ t, exec .keyPortStrayWord s = .next t ∧ t.fld KEY_PORT_STS.STRAY 0 = min (s.fld KEY_PORT_STS.STRAY 0 + 1) 0xFFFF ∧
      t.key = s.key)

/-- R237–R241, R247–R252: while no error is injected into the digest cores, key custody derives from the root what is due; a KDF request delivers its output, or completes with the
status of its refusal or of its blob. ZEROIZE clears the root and everything derived from it where R248 lets it run. ATTEST forms
the message while no lock is open and a root is loaded, and its tag follows. An error of the data path that stays zeroizes what
key custody holds but the root, and the tile is fenced. The model's own readings in it are those of log entries 67, 70, 109
and 110. -/
def Obligations.KeysAreDerivedAndZeroized : Prop :=
  (∀ (s : State) (root : Bytes), s.working = true → s.kdfSync = s → s.NoInjection → s.rootBytes = some root → s.keyWorks = true →
    s.kdfOnCore = true → s.key.derive ≠ [] →
    ∃ t, exec .keyDerive s = .next t ∧ t.key.derive = [] ∧ t.key.root = s.key.root ∧
      (Deriv.rootStates ∈ s.key.derive → t.key.rootStates = true) ∧
      (Deriv.storeKeys ∈ s.key.derive →
        t.key.wrap = some (bytesBv 256 (kdf root labelWrap (beBytes s.ctx.salt.toNat 16) 32)) ∧
        t.key.tree = some (bytesBv 256 (kdf root labelTree (beBytes s.ctx.salt.toNat 16) 32)))) ∧
  (∀ (s : State) (j : Job) (st : Nat), s.working = true → s.kdfSync = s → s.NoInjection → s.keyHead = some j → j.elem.d.opcode = 0x23 →
    s.keyFree = true → j.ready = true → kdfRefusal j.elem.d (s.secret j.elem) = some st →
    ∃ t, exec .kdf s = .next t ∧ s.Completes t 21 j.elem st 0 ∧ t.key.jobs = dropJob s.key.jobs j.id) ∧
  (∀ (s : State) (j : Job) (ki : Except Nat Bytes), s.working = true → s.kdfSync = s → s.NoInjection → s.keyHead = some j →
    j.elem.d.opcode = 0x23 → s.keyFree = true → j.ready = true → j.failed = false → kdfRefusal j.elem.d (s.secret j.elem) = none →
    s.kdfDenied = false → s.kdfOnCore = true → (s.secret j.elem = none → s.key.rootStates = true) →
    ki = (match s.secret j.elem with
      | some b => .ok b
      | none => unwrapBlob (s.funcKey (s.rootBytes.getD []) j.elem.func) (j.part 1) none) →
    ∃ t, exec .kdf s = .next t ∧ t.key.jobs = dropJob s.key.jobs j.id ∧
      (∀ st, ki = .error st → s.Completes t 21 j.elem st 0) ∧
      (∀ key out, ki = .ok key → out = kdfFixed key (j.part 0) (kdfLen j.elem.d) →
        (j.elem.d.secretHandoff = true → s.Completes t 21 j.elem stOk 0 ∧
          ∀ i x, s.cbEntry j.elem = some (i, x) → Tbl.get {} t.qeng.cbuf i = { x with secret := out }) ∧
        (j.elem.d.secretHandoff = false → out ≠ [] →
          t.fab = (s.startWrite (.elemWrite j.id) j.elem.attr j.elem.d.dst out none).2.fab ∧
          ∃ f, t.finishes = s.finishes ++ [f] ∧ f.job = j.id ∧ f.producer = 21 ∧ f.compl.status = stOk ∧
            f.compl.outLen = out.length))) ∧
  (∀ (s : State) (req : Req), s.OpenReg .KEY_CMD 0 req → s.zeroizeOk = true →
    ∃ t, exec (.zeroize req) s = .next t ∧ t.key.root = none ∧ t.key.rootStates = false ∧ t.key.wrap = none ∧
      t.key.tree = none ∧ t.key.derive = [] ∧ t.key.attest = none ∧ t.key.banks = [] ∧ t.key.incoming = none ∧
      (∀ f, f < 64 → t.reg .KEY_FGEN f = 0) ∧ t.reg .TILE_UID 0 = 0 ∧ t.digest.image = none ∧
      (∀ i x, (i, x) ∈ t.qeng.cbuf → x.secret = []) ∧
      t.fld KEY_COUNTS.ZEROIZE 0 = min (s.fld KEY_COUNTS.ZEROIZE 0 + (if s.key.root.isSome then 1 else 0)) 0xFFFFFFFF ∧
      (t.hdr (pg .tamper)).event.getLsbD 4 = true) ∧
  (∀ (s : State) (req : Req), s.OpenReg .KEY_CMD 0 req → s.zeroizeOk = false →
    ∃ t, exec (.zeroize req) s = .next t ∧ t.key = s.key ∧ t.regs = s.regs ∧ (t.hdr (pg .key)).fault.getLsbD 5 = true) ∧
  (∀ (s : State) (req : Req), s.OpenReg .KEY_CMD 0 req → s.isOn (pg .key) = true → s.key.attest = none →
    ∃ t, exec (.attest req) s = .next t ∧
      (s.key.root.isSome = true → s.anyLock = false → t.key.attest = some s.attestMsg ∧
        t.flag KEY_ATT_STS.REFUSED 0 = false ∧ t.flag KEY_ATT_STS.ABORTED 0 = false) ∧
      (s.key.root = none ∨ s.anyLock = true → t.key.attest = none ∧ t.flag KEY_ATT_STS.REFUSED 0 = true ∧
        t.flag KEY_ATT_STS.DONE 0 = true)) ∧
  (∀ (s : State) (m root : Bytes), s.working = true → s.kdfSync = s → s.NoInjection → s.key.attest = some m → m.length = 128 →
    s.rootBytes = some root → s.keyWorks = true → s.kdfOnCore = true → s.key.derive = [] →
    ∃ t, exec .attestDone s = .next t ∧ t.key.attest = none ∧ t.flag KEY_ATT_STS.DONE 0 = true ∧
      (t.hdr (pg .key)).event.getLsbD 0 = true ∧
      (∀ k, k < 16 → t.reg .KEY_ATT_MSG k = BitVec.ofNat 64 (numAt m (8 * k) 8)) ∧
      (∀ k, k < 6 → t.reg .KEY_ATT_RESP k =
        BitVec.ofNat 64 (numAt (hmacSha384 (kdf root labelAttest s.uidBytes 48) m) (8 * k) 8))) ∧
  (∀ (s : State), s.working = true → s.keyWorks = true →
    (∃ t, exec (.keyDatapathError true) s = .next t ∧ t.key = s.key ∧ t.regs = s.regs ∧ t.tile = s.tile ∧
      (t.hdr (pg .key)).fault.getLsbD 0 = true) ∧
    (∃ t, exec (.keyDatapathError false) s = .next t ∧ t.key.root = s.key.root ∧ t.key.wrap = none ∧ t.key.tree = none ∧
      t.key.rootStates = false ∧ t.key.banks = [] ∧ (t.hdr (pg .key)).fault.getLsbD 9 = true ∧
      (s.fenceable = true → s.tile.fencing = none → s.tamp.responding = false →
        t.tile.fencing = some 0x0C ∧ t.tile.fence = ⟨0x0C, 5, false⟩)))

/-- R242–R246: a pounce pass asks for a key for each bank, from the first; a bank whose new key has come is masked with it, and what
its ways and slots hold stays as it was under the old one. The pass ends after the last bank, and one that is still running when
the next falls due is counted. The model's own readings in it are those of log entries 68 and 111. -/
def Obligations.PounceRemasksTheBanks : Prop :=
  (∀ (s : State) (c : Instr), s.working = true → s.isOn (pg .key) = true → s.asleep = false → s.key.noMask = false →
    s.isOn (pg .ctx) = true → 0 ∉ s.ctx.badBanks → s.key.pouncing = false →
    c = .pounceDue ∨ (∃ req, c = .pounceNow req ∧ s.OpenReg .KEY_CMD 0 req) →
    ∃ t, exec c s = .next t ∧ t.key.pouncing = true ∧ t.key.fresh = false ∧ t.key.overdue = false ∧
      t.rng.privWait = s.rng.privWait ++ [RngUse.pounce 0] ∧
      ∀ b, b < 72 → ((s.bank b).arrived = none → t.bank b = { s.bank b with done := false }) ∧
        ∀ k, (s.bank b).arrived = some k → (t.bank b).key = k ∧ (t.bank b).done = false ∧ (t.bank b).arrived = none) ∧
  (∀ (s : State), s.working = true → s.key.pouncing = true → s.key.fresh = false → exec .pounceDue s = .next s) ∧
  (∀ (s : State) (b : Nat) (k : BitVec 1024), s.working = true → b < 72 → (s.bank b).arrived = some k →
    s.digest.slotWait = [] →
    ∃ t, exec (.pounceBankRemask b) s = .next t ∧ (t.bank b).key = k ∧ (t.bank b).held = true ∧ (t.bank b).arrived = none ∧
      (t.bank b).passBit = !(s.bank b).passBit ∧
      (∀ i, i / 64 = b → b < 64 → (s.way i).st ≠ .free → (s.way i).st ≠ .filling → t.clearCtx i = s.clearCtx i ∧
        (t.way i).pass = (t.bank b).passBit) ∧
      (∀ n, n % 8 + 64 = b → (s.kdSlot n).st = .loaded →
        (t.kdSlot n).bytes ^^^ t.slotKey n = (s.kdSlot n).bytes ^^^ s.slotKey n ∧ (t.kdSlot n).pass = (t.bank b).passBit)) ∧
  (∀ (s : State), s.working = true → s.key.pouncing = true → s.key.fresh = false → (∀ b, b < 72 → (s.bank b).done = true) →
    ∃ t, exec .pouncePassDone s = .next t ∧
      t.fld KEY_POUNCE_STS.PASSES 0 = (s.fld KEY_POUNCE_STS.PASSES 0 + 1) % 65536 ∧
      t.fld KEY_POUNCE_LAST.TIME 0 = s.now % 2 ^ 64 ∧ (t.hdr (pg .key)).event.getLsbD 1 = true ∧
      ((∀ b, b < 72 → s.bankUp b = true → (s.bank b).held = true) → t.key.pouncing = false)) ∧
  (∀ (s : State), s.working = true → s.key.pouncing = true → s.key.fresh = false → s.key.overdue = false →
    ∃ t, exec .pounceOverdue s = .next t ∧ t.key = { s.key with overdue := true } ∧
      t.fld KEY_POUNCE_CNT.OVERDUE 0 = min (s.fld KEY_POUNCE_CNT.OVERDUE 0 + 1) 0xFFFF ∧
      (t.hdr (pg .key)).event.getLsbD 2 = true)

/-- R255–R259, R264, R265, R268: arming the shadow set of an IDLE DMA channel starts its transfer. A transfer that has ended leaves
its status word and counts, with its vectors; the channel goes on with an armed shadow set, is IDLE without one, or halts on an
error until RESUME. A poll and a kick read the ring's entry at the head. DISABLE drops everything of the channel. The model's
own readings in it are those of log entries 17, 76, 77 and 82. -/
def Obligations.DmaTransfersStartAndEnd : Prop :=
  (∀ (s : State) (c : Nat) (req : Req), c < 16 → s.Reach .DCH_ARM c req → s.dchRing c = false →
    ∃ t, exec (.dmaShdArm c req) s = .next t ∧
      ((s.dch c).st = .idle → (s.hdr (dchPg c)).en = true → s.isOn (dchPg c) = true → s.stalling 24 = false → s.DmaStarts t c) ∧
      ((s.dch c).st ≠ .idle → t.flag DCH_ARM.SHD_ARM c = true ∧ t.dma = s.dma)) ∧
  (∀ (s : State) (c : Nat) (req : Req), c < 16 → s.Reach .DCH_ARM c req → s.dchRing c = true →
    ∃ t, exec (.dmaShdArm c req) s = .next t ∧ (t.hdr (dchPg c)).fault.getLsbD 5 = true ∧ t.dma = s.dma ∧
      t.flag DCH_ARM.SHD_ARM c = s.flag DCH_ARM.SHD_ARM c) ∧
  (∀ (s : State) (c st : Nat), s.working = true → c < 16 →
    s.dchRing c = false ∧ (s.dch c).st = .ending ∨ s.dchRing c = true ∧ (∃ x, s.fab.mail = [x] ∧ x.kind = .dmaW0 c) →
    (s.dch c).status = some st →
    ∃ t, exec (.dmaTransferEnd c) s = .next t ∧ t.reg .DCH_LAST c = s.dmaW3 c st ∧
      t.fld DCH_STS.ENDED c = (s.fld DCH_STS.ENDED c + 1) % 65536 ∧
      (st = stOk → s.flag DCH_CUR_CTL.IRQ c = true → (t.hdr (dchPg c)).event.getLsbD 0 = true ∧ s.Signals t (128 + c)) ∧
      (st = stOk → s.flag DCH_ARM.SHD_ARM c = false → (t.dch c).st = .idle ∧ (t.dch c).curIdx = none) ∧
      (st = stOk → s.flag DCH_ARM.SHD_ARM c = true → (s.hdr (dchPg c)).en = true → s.isOn (dchPg c) = true →
        t.stalling 24 = false → s.DmaStarts t c) ∧
      (st ≠ stOk → (t.dch c).st = .halted ∧ (t.dch c).curIdx = none ∧ (t.hdr (dchPg c)).fault.getLsbD 8 = true ∧
        s.Signals t (144 + c) ∧ t.fld DCH_ERR.COUNT c = min (s.fld DCH_ERR.COUNT c + 1) 0xFFFF ∧
        (s.flag DCH_ERR.VALID c = false → t.flag DCH_ERR.VALID c = true ∧ t.fld DCH_ERR.KIND c =
          (if (s.dch c).refused.isSome then 4 else if (s.dch c).failed = some true then 2 else 1)))) ∧
  (∀ (s : State) (k : Instr) (c i : Nat), s.working = true → c < 16 →
    (k = .dmaRingPoll c ∧ s.fld DCH_CFG.POLL c ≠ 0 ∨ ∃ req, k = .dmaKick c req ∧ s.Reach .DCH_CTL c req) →
    i = s.fld DCH_RING_HEAD.INDEX c → s.dchRing c = true → s.flag DCH_ARM.SHD_ARM c = false → (s.dch c).st ≠ .halted →
    (s.dch c).polling = none → (s.dch c).curIdx ≠ some i → s.isOn (dchPg c) = true → s.pwr.phase = Phase.awake →
    ∃ t, exec k s = .next t ∧ t.dch c = { s.dch c with polling := some i } ∧
      t.fab = (s.startRead (.dmaDesc c) (s.dchAttr c true false) (s.dchEntry c i) 32 none).2.fab) ∧
  (∀ (s : State) (c : Nat), s.fld DCH_CFG.POLL c = 0 → exec (.dmaRingPoll c) s = .next s) ∧
  (∀ (s : State) (c : Nat) (req : Req), c < 16 → s.Reach .DCH_CTL c req →
    ∃ t, exec (.dmaResume c req) s = .next t ∧
      ((s.dch c).st = .halted → s.flag DCH_ARM.SHD_ARM c = false → (t.dch c).st = .idle ∧ t.fab = s.fab) ∧
      ((s.dch c).st = .halted → s.flag DCH_ARM.SHD_ARM c = true → (s.hdr (dchPg c)).en = true → s.isOn (dchPg c) = true →
        s.stalling 24 = false → s.DmaStarts t c) ∧
      ((s.dch c).st ≠ .halted → t.dma = s.dma ∧ t.regs = s.regs)) ∧
  (∀ (s : State) (c : Nat) (req : Req), c < 16 → s.Reach .DCH_CTL c req →
    ∃ t, exec (.dmaDisable c req) s = .next t ∧ (t.dch c).st = .idle ∧ (t.dch c).curIdx = none ∧ (t.dch c).status = none ∧
      (t.dch c).movedFree.isSome = true ∧ t.flag DCH_ARM.SHD_ARM c = false ∧ t.xferPending (ofDch c) = false ∧
      t.reg .DCH_SHD_CTL c = 0 ∧ t.reg .DCH_CUR_CTL c = 0 ∧ t.reg .DCH_CUR_SRC c = 0 ∧ t.reg .DCH_CUR_DST c = 0 ∧
      (s.dchRing c = false → t.fld DCH_RING_HEAD.INDEX c = s.fld DCH_RING_HEAD.INDEX c) ∧
      (∀ i, s.dchRing c = true → s.fab.mail = [] → (s.dch c).curIdx = some i → i < 4096 → t.fld DCH_RING_HEAD.INDEX c = i))

/-- R273–R283: a cell that comes in leaves hb_out as R274 forwards it. ENUM gives a tile without an address its own, RENUM takes it
and closes the locks, TIME sets or slews chain time, LOOP is forwarded. A broken cell leaves stomped and is counted, as one that came
stomped and one of no known type. The line's loss, its return, HOLD and stale time show; a cell that the loss cuts off, if there is one,
leaves whole and stomped. The model's own readings in it are those of log entries 25, 78, 81, 86 and 119. -/
def Obligations.CellsAreForwardedAndTimeKept : Prop :=
  (∀ (s : State) (c : Cell), s.hbLive = true → s.hb.bypass = false → cellByte c 0 = 0x01 →
    ∃ t, exec (.enum c) s = .next t ∧ s.SentOn t c 0 ∧
      (s.tile.addr = none → cellByte c 1 ≤ 63 → t.tile.addr = some (BitVec.ofNat 6 (cellByte c 1)) ∧
        t.tile.st = (if s.tile.st = .aoOnly then
          (if s.clk.lock.getLsbD 0 && s.clk.lock.getLsbD 1 then .clocked else .addressed) else s.tile.st) ∧ (t.hdr (pg .hatband)).event.getLsbD 0 = true ∧
        (s.tile.renumbered = true → t.flag TILE_RESET_CAUSE.RENUM 0 = true)) ∧
      (s.tile.addr ≠ none ∨ 63 < cellByte c 1 → t.tile = s.tile ∧ t.regs = s.regs ∧ t.hdrs = s.hdrs)) ∧
  (∀ (s : State) (c : Cell), s.hbLive = true → s.hb.bypass = false → cellByte c 0 = 0x02 →
    ∃ t, exec (.renum c) s = .next t ∧ s.SentOn t c 0 ∧ t.tile.addr = none ∧
      t.tile.st = (if s.tile.st = .addressed then .aoOnly else s.tile.st) ∧ (∀ p, (t.hdrAt p).lock = Lock.closed) ∧
      t.qeng = s.qeng ∧ t.frames = s.frames ∧ t.irq = s.irq) ∧
  (∀ (s : State) (c : Cell) (d x : Int), s.hbLive = true → s.hb.bypass = false → cellByte c 0 = 0x03 →
    x = (cellNum c 2 8 * 16 + cellNum c 10 3 + s.fld HB_WIRE_IN.DELAY 0 + (cellByte c 1 + 1) * signed8 (cellByte c 13)) % 2 ^ 68 →
    d = x - s.hb.time →
    ∃ t, exec (.time c) s = .next t ∧ s.SentOn t c 0 ∧
      t.fld HB_TIME_INFO.HOP 0 = (cellByte c 1 + 1) % 256 ∧ t.fld HB_TIME_INFO.CORR 0 = cellByte c 13 ∧ t.fld HB_TIME_INFO.AGE 0 = 0 ∧ t.hb.timed = true ∧ t.hb.stale = false ∧
      ((s.hb.mustStep = true ∨ s.holdover = true ∧ s.hb.holdLine = false ∨ 16 * s.fld HB_XTIME.STEP_LIM 0 < d.natAbs) →
        (t.hb.time : Int) = x ∧ t.hb.slew = 0 ∧ t.hb.mustStep = false ∧ (t.hdr (pg .hatband)).event.getLsbD 1 = true ∧
        t.fld HB_CNT.STEPS 0 = min (s.fld HB_CNT.STEPS 0 + 1) 0xFFFF) ∧
      (s.hb.mustStep = false → (s.holdover = false ∨ s.hb.holdLine = true) → d.natAbs ≤ 16 * s.fld HB_XTIME.STEP_LIM 0 →
        t.hb.time = s.hb.time ∧ t.hb.slew = d ∧ t.fld HB_CNT.STEPS 0 = s.fld HB_CNT.STEPS 0)) ∧
  (∀ (s : State) (c : Cell), s.hbLive = true → s.hb.bypass = false → cellByte c 0 = 0x04 →
    ∃ t, exec (.loop c) s = .next t ∧ s.OnlySentOn t c) ∧
  (∀ (s : State) (c : Cell) (crc : BitVec 16), s.hbLive = true → crc ≠ cellCrc c → crc ≠ cellCrc c ^^^ 0xFFFF →
    ∃ t, exec (.cellCrcFail c crc) s = .next t ∧ s.SentOn t c 0xFFFF ∧
      t.fld HB_CNT.CRC_ERR 0 = min (s.fld HB_CNT.CRC_ERR 0 + 1) 0xFFFF ∧ (t.hdr (pg .hatband)).fault.getLsbD 10 = true ∧
      t.tile = s.tile) ∧
  (∀ (s : State) (c : Cell), s.hbLive = true →
    ∃ t, exec (.stompedCell c) s = .next t ∧ s.SentOn t c 0xFFFF ∧
      t.fld HB_CNT.STOMPED 0 = min (s.fld HB_CNT.STOMPED 0 + 1) 0xFFFF ∧ t.tile = s.tile ∧ t.hdrs = s.hdrs) ∧
  (∀ (s : State) (c : Cell), s.hbLive = true → s.hb.bypass = false → cellByte c 0 = 0 ∨ 0x0B < cellByte c 0 →
    ∃ t, exec (.unknownCell c) s = .next t ∧ s.SentOn t c 0 ∧
      t.fld HB_CNT.IGNORED 0 = min (s.fld HB_CNT.IGNORED 0 + 1) 0xFFFF ∧ t.tile = s.tile ∧ t.hdrs = s.hdrs) ∧
  (∀ (s : State), s.tile.st ≠ TileState.powerOff →
    (∃ t, exec .upstreamLoss s = .next t ∧ t.hb.upSync = false ∧
      (t.hdr (pg .hatband)).fault.getLsbD 8 = true ∧ t.tile = s.tile ∧ t.regs = s.regs ∧
      (s.hb.upSync = false → t.hb = { s.hb with upSync := false }) ∧
      (t.hb = { s.hb with upSync := false } ∨ ∃ c : Cell, s.SentOn t c 0xFFFF)) ∧
    exec .upstreamSync s = .next { s with hb := { s.hb with upSync := true, holdLine := false } } ∧
    (∀ b, ∃ t, exec (.downstreamTermCheck b) s = .next t ∧ t.hb = { s.hb with downTerm := b } ∧
      (b = false → (t.hdr (pg .hatband)).fault.getLsbD 9 = true) ∧ (b = true → t.hdrs = s.hdrs)) ∧
    (s.fld HB_XTIME.STALE 0 ≠ 0 → exec .timeStale s = .next { s with hb := { s.hb with stale := true } })) ∧
  (∀ (s : State), s.hbLive = true →
    exec .holdReceived s = .next { s with hb := { s.hb with holdLine := true, inherited := true } })

/-- R276, R277, R284–R287, R320: the cells that give orders. One that is addressed elsewhere only passes. ZEROIZE_ALL is a tamper
event; SLEEP_ALL begins a sleep entry; WAKE wakes; BYPASS_SET begins and ends bypass; MSG is held for software, up to eight. A
message of the tile's own waits until it is sent, at most one cell of its own at a time; POP removes the oldest that came. The
model's own readings in it are those of log entries 25, 58, 78, 81, 82 and 119. -/
def Obligations.ChainOrdersAndMessagesAreTaken : Prop :=
  (∀ (s : State) (c : Cell), s.hbLive = true → s.hb.bypass = false → cellByte c 0 = 0x07 → cellByte c 1 ≠ 0xFF →
    ∃ t, exec (.zeroizeAll c) s = .next t ∧ s.SentOn t c 0 ∧ t.fld HB_CNT.IGNORED 0 = min (s.fld HB_CNT.IGNORED 0 + 1) 0xFFFF ∧
      t = { s with regs := t.regs, freeCtr := t.freeCtr, hb := { s.hb with out := t.hb.out, sending := none, elastic := t.hb.elastic } }) ∧
  (∀ (s : State) (c : Cell) (k : Instr), s.hbLive = true → s.hb.bypass = false → cellByte c 1 ≤ 63 →
    (∀ a, s.tile.addr = some a → a.toNat ≠ cellByte c 1) →
    (k = .sleepAll c ∧ cellByte c 0 = 0x08 ∨ k = .wake c ∧ cellByte c 0 = 0x09 ∨
      k = .bypassEnter c ∧ cellByte c 0 = 0x0A ∧ cellByte c 2 = 1 ∨ k = .bypassLeave c ∧ cellByte c 0 = 0x0A ∧ cellByte c 2 = 0 ∨
      k = .msg c ∧ cellByte c 0 = 0x0B) →
    ∃ t, exec k s = .next t ∧ s.OnlySentOn t c) ∧
  (∀ (s : State) (c : Cell), s.ActsOn 0x07 c →
    ∃ t, exec (.zeroizeAll c) s = .next t ∧ s.SentOn t c 0 ∧ s.TamperTaken t 9 0) ∧
  (∀ (s : State) (c : Cell), s.ActsOn 0x08 c →
    ∃ t, exec (.sleepAll c) s = .next t ∧ s.SentOn t c 0 ∧
      (s.sleepOk (cellByte c 2 - 6) = true → s.SleepBegins t (cellByte c 2 == 8)) ∧
      (s.sleepOk (cellByte c 2 - 6) = false → t.pwr = s.pwr ∧ t.qeng = s.qeng ∧
        t.fld HB_CNT.IGNORED 0 = min (s.fld HB_CNT.IGNORED 0 + 1) 0xFFFF)) ∧
  (∀ (s : State) (c : Cell), s.ActsOn 0x09 c →
    ∃ t, exec (.wake c) s = .next t ∧ s.SentOn t c 0 ∧
      (s.flag PWR_WAKE_CFG.CELL 0 = true → s.pwr.phase ≠ .awake → s.Wakes t 1) ∧
      (s.flag PWR_WAKE_CFG.CELL 0 = false ∨ s.pwr.phase = .awake → t.pwr = s.pwr ∧ t.regs = s.regs)) ∧
  (∀ (s : State) (c : Cell), s.ActsOn 0x0A c → cellByte c 2 = 1 →
    ∃ t, exec (.bypassEnter c) s = .next t ∧ s.SentOn t c 0 ∧
      t.hb = { s.hb with out := t.hb.out, sending := none, elastic := t.hb.elastic, bypass := true, own := none } ∧
      t.fld HB_CNT.IGNORED 0 = min (s.fld HB_CNT.IGNORED 0 + (if s.hb.own.isSome then 1 else 0)) 0xFFFF ∧ t.tile = s.tile) ∧
  (∀ (s : State) (c : Cell) (a : BitVec 6), s.hbLive = true → s.hb.bypass = true → cellByte c 0 = 0x0A → s.tile.addr = some a →
    a.toNat = cellByte c 1 → cellNum c 2 12 = 0 → s.flag HB_CELL_EN.BYPASS_SET 0 = true →
    ∃ t, exec (.bypassLeave c) s = .next t ∧ s.SentOn t c 0 ∧ t = { s with freeCtr := t.freeCtr, hb := { s.hb with
      out := t.hb.out, sending := none, elastic := t.hb.elastic, bypass := false } }) ∧
  (∀ (s : State) (c : Cell), s.ActsOn 0x0B c →
    ∃ t, exec (.msg c) s = .next t ∧ s.SentOn t c 0 ∧
      (s.hb.rx.length < 8 → t.hb.rx = s.hb.rx ++ [c] ∧ (t.hdr (pg .hatband)).event.getLsbD 2 = true) ∧
      (8 ≤ s.hb.rx.length → t.hb.rx = s.hb.rx ∧
        t.fld HB_MSG_RX_STS.DROPPED 0 = min (s.fld HB_MSG_RX_STS.DROPPED 0 + 1) 0xFFFF)) ∧
  (∀ (s : State) (v : W32) (req : Req) (d : Nat), s.OpenReg .HB_MSG_TX_CTL 0 req → d = fget (v.setWidth 64) 7 0 →
    ∃ t, exec (.msgSend v req) s = .next t ∧
      (d ≤ 63 ∨ d = 0xFF → s.msgBusy = false → s.hb.bypass = true → t.hb = s.hb ∧
        t.fld HB_CNT.IGNORED 0 = min (s.fld HB_CNT.IGNORED 0 + 1) 0xFFFF) ∧
      (d ≤ 63 ∨ d = 0xFF → s.msgBusy = false → s.hb.bypass = false → s.hb.own ≠ none → t.hb = s.hb ∧
        t.fld HB_CNT.IGNORED 0 = min (s.fld HB_CNT.IGNORED 0 + 1) 0xFFFF) ∧
      (d ≤ 63 ∨ d = 0xFF → s.msgBusy = false → s.hb.bypass = false → s.hb.own = none →
        ∃ c, t.hb = { s.hb with own := some c } ∧ cellByte c 0 = 0x0B ∧
        cellByte c 1 = d ∧ (∀ a, s.tile.addr = some a → cellByte c 2 = a.toNat) ∧
        cellNum c 3 8 = s.fld HB_MSG_TX_DATA.DATA 0 ∧ cellNum c 11 3 = s.fld HB_MSG_TX_HI.DATA 0) ∧
      (s.msgBusy = true ∨ 63 < d ∧ d ≠ 0xFF → t.hb = s.hb ∧ (t.hdr (pg .hatband)).fault.getLsbD 5 = true)) ∧
  (∀ (s : State) (req : Req), s.OpenReg .HB_MSG_RX_STS 0 req →
    ∃ t, exec (.msgPop req) s = .next t ∧ t.hb = { s.hb with rx := s.hb.rx.drop 1 } ∧ t.regs = s.regs ∧ t.hdrs = s.hdrs) ∧
  (∀ (s : State) (c : Cell), s.hb.own = some c →
    (s.ownMayStart = true → exec .ownCellSend s = .next { s with hb := { s.hb with
      out := some (c, cellCrc c), own := none, sending := some c } }) ∧
    (s.ownMayStart = false → exec .ownCellSend s = .next s))

/-- R295–R304: a monitor's trip holds the outputs where its clock is in use, and starts the fallback that R297 names; a reference that
qualifies is used as R298, R300 and R302 say; a switch that is not answered is forced. A PLL that locks releases what waits for it, one
that loses lock is restarted once, and one that does not come back fences its quad or the tile. Commands and enables of the clocks.
The model's own readings in it are those of log entries 40, 41, 42, 78, 82, 120 and 121. -/
def Obligations.ClocksFallBackAndLock : Prop :=
  (∀ (s : State) (m : Nat) (stop : Bool), s.tile.st ≠ TileState.powerOff → s.tamp.sensActive.getLsbD 1 = false →
    s.cp.stalled = [] → m < 8 →
    ∃ t, exec (.clockTrip ⟨m, stop⟩) s = .next t ∧ t.clk.monBad.getLsbD m = true ∧
      t.clk.hbEdge = (s.clk.hbEdge && !(stop && m == 0)) ∧ t.clk.sbEdge = (s.clk.sbEdge && !(stop && m == 1)) ∧
      (m = 0 → t.clk.hbOk = false) ∧
      (m = 0 → s.uses .hbref = true → s.HeldSafe t ∧ (t.hdr (pg .clock)).fault.getLsbD 8 = true ∧
        (s.flag CLK_REF_CFG.AUTO_FALLBACK 0 = true → t.clk.sbOn = true ∧ t.clk.fallback = true) ∧
        (s.flag CLK_REF_CFG.AUTO_FALLBACK 0 = true → s.clk.sbOk = true → s.SwitchesTo t .sbosc) ∧
        (s.flag CLK_REF_CFG.AUTO_FALLBACK 0 = false ∨ s.clk.sbOk = false → t.clk.ref = s.clk.ref)) ∧
      (m = 0 → s.uses .hbref = false → t.clk.safe = s.clk.safe ∧ t.clk.lock = s.clk.lock ∧ t.clk.ref = s.clk.ref ∧
        (s.clk.ref = .sbosc → t.hb.holdover = true)) ∧
      (m = 1 → s.clk.counting = true → t.clk.counting = true ∧ t.clk.safe = s.clk.safe ∧ t.clk.lock = s.clk.lock ∧
        t.fld CLK_FB_CNT.RESTARTS 0 = min (s.fld CLK_FB_CNT.RESTARTS 0 + 1) 255 ∧ (t.hdr (pg .clock)).fault.getLsbD 9 = true) ∧
      (m = 1 → s.clk.counting = false → t.clk.sbOk = false) ∧
      (m = 1 → s.clk.counting = false → s.uses .sbosc = true → s.HeldSafe t ∧ (t.hdr (pg .clock)).fault.getLsbD 8 = true ∧
        (s.clk.hbOk = true → s.SwitchesTo t .hbref)) ∧
      (m = 1 → s.clk.counting = false → s.uses .sbosc = false → t.clk.safe = s.clk.safe ∧ t.clk.lock = s.clk.lock) ∧
      (∀ i, m = i + 2 → s.clk.lock.getLsbD i = true → s.PllRestarts t i) ∧
      (∀ i, m = i + 2 → s.clk.lock.getLsbD i = false → t.clk.lock = s.clk.lock ∧ t.clk.safe = s.clk.safe)) ∧
  (∀ (s : State) (m : Nat) (stop : Bool), s.tamp.sensActive.getLsbD 1 = true → s.cp.stalled = [] →
    exec (.clockTrip ⟨m, stop⟩) s = .next s) ∧
  (∀ (s : State), s.tile.st ≠ TileState.powerOff → s.clk.hbOk = false → s.hb.upSync = true → s.cp.stalled = [] →
    ∃ t, exec .hbrefQualify s = .next t ∧ t.clk.hbOk = true ∧ t.clk.monBad.getLsbD 0 = false ∧ t.clk.lasting = false ∧
      t.fld CLK_FB_CNT.RESTARTS 0 = 0 ∧
      (s.clk.ref = .none → t.clk.ref = .hbref) ∧
      (s.clk.ref = .hbref → t.clk.ref = .hbref ∧ t.clk.counting = false ∧ t.clk.fallback = false ∧
        (s.clk.await = 0 → t.clk.safe = false)) ∧
      (s.clk.ref = .sbosc → s.clk.sbOk = false ∨ s.flag CLK_REF_CFG.AUTO_RETURN 0 = true → s.SwitchesTo t .hbref) ∧
      (s.clk.ref = .sbosc → s.clk.sbOk = true → s.flag CLK_REF_CFG.AUTO_RETURN 0 = false → t.clk.ref = .sbosc ∧
        t.clk.lock = s.clk.lock) ∧
      (s.clk.ref = .switching → s.clk.target ≠ .sbosc ∨ s.clk.sbOk = true → t.clk.ref = .switching ∧ t.clk.target = s.clk.target) ∧
      (s.clk.ref = .switching → s.clk.target = .sbosc → s.clk.sbOk = false → t.clk.ref = .hbref ∧ t.clk.counting = false ∧
        t.clk.fallback = false ∧ (s.clk.await = 0 → t.clk.safe = false))) ∧
  (∀ (s : State), s.clk.sbOn = true → s.clk.sbOk = false →
    exec .sboscCountStart s = .next { s with clk := { s.clk with counting := true } }) ∧
  (∀ (s : State), s.clk.counting = true → s.cp.stalled = [] →
    ∃ t, exec .sboscJudged s = .next t ∧ t.clk.sbOk = true ∧ t.clk.counting = false ∧ t.fld CLK_FB_CNT.RESTARTS 0 = 0 ∧
      (s.clk.ref = .hbref → s.clk.fallback = true ∧ s.clk.hbOk = false ∨ s.clk.commanded = true → s.SwitchesTo t .sbosc) ∧
      (s.clk.ref = .hbref → (s.clk.fallback = false ∨ s.clk.hbOk = true) → s.clk.commanded = false →
        t.clk.ref = .hbref ∧ t.clk.lock = s.clk.lock) ∧
      (s.clk.ref = .sbosc → s.clk.await = 0 → s.clk.fallback = false → t.clk.safe = false ∧ t.clk.ref = .sbosc) ∧
      (s.clk.ref = .none → s.clk.commanded = true → s.clk.fallback = false → t.clk.ref = .sbosc ∧ t.clk.commanded = false ∧
        t.hb.holdover = (s.hb.holdover || !s.clk.hbOk))) ∧
  (∀ (s : State), s.clk.counting = false ∨ s.tamp.sensActive.getLsbD 1 = true → exec .sboscCountRestart s = .next s) ∧
  (∀ (s : State), s.clk.counting = true → s.tamp.sensActive.getLsbD 1 = false →
    ∃ t, exec .sboscCountRestart s = .next t ∧ t.clk.counting = true ∧ t.clk.monBad.getLsbD 1 = true ∧ t.clk.ref = s.clk.ref ∧ t.clk.safe = s.clk.safe ∧
      t.fld CLK_FB_CNT.RESTARTS 0 = min (s.fld CLK_FB_CNT.RESTARTS 0 + 1) 255 ∧ (t.hdr (pg .clock)).fault.getLsbD 9 = true ∧
      (s.fld CLK_FB_CNT.RESTARTS 0 = 2 → t.clk.lasting = true ∧ (t.hdr (pg .clock)).fault.getLsbD 1 = true)) ∧
  (∀ (s : State), s.clk.ref = .switching → s.targetGood = true →
    ∃ t, exec .switchHandshakeTimeout s = .next t ∧ t.fld CLK_FB_CNT.FORCED 0 = min (s.fld CLK_FB_CNT.FORCED 0 + 1) 255 ∧
      (t.hdr (pg .clock)).fault.getLsbD 10 = true ∧
      (s.clk.target = .hbref ∨ s.clk.hbOk = false ∨ s.clk.await ≠ 0 → t.clk.ref = s.clk.target) ∧
      (s.clk.target = .sbosc → s.clk.hbOk = false → t.hb.holdover = true)) ∧
  (∀ (s : State) (i : Nat), s.tile.st ≠ TileState.powerOff → i < 6 → s.pllEn i = true → s.clk.lock.getLsbD i = false →
    s.clk.parkStop.getLsbD i = false → s.pllsDown = false → s.cp.stalled = [] →
    (s.refGood = true ∧ s.clk.fallback = false ∨ s.clk.ref = .switching ∧ s.clk.target = .hbref ∧ s.clk.hbOk = true ∧
      s.fromRuns = true) →
    ∃ t, exec (.pllLock i) s = .next t ∧ t.clk.lock.getLsbD i = true ∧ t.clk.restart.getLsbD i = false ∧
      t.clk.monBad.getLsbD (i + 2) = false ∧
      t.clk.await.getLsbD i = false ∧ (∀ k, k ≠ i → t.clk.lock.getLsbD k = s.clk.lock.getLsbD k) ∧
      (s.clk.ref = .switching → t.clk.ref = .hbref) ∧
      ((∀ k, k ≠ i → s.clk.await.getLsbD k = false) → t.clk.safe = false) ∧
      (s.tile.st = .addressed → t.clk.lock.getLsbD 0 = true → t.clk.lock.getLsbD 1 = true → t.tile.st = .clocked) ∧
      (s.clk.restart.getLsbD i = true → (t.hdr (if i < 2 then pg .clock else quadPg (i - 2))).fault.getLsbD 0 = true)) ∧
  (∀ (s : State) (i : Nat), i < 6 → s.refGood = true → s.clk.lock.getLsbD i = true → s.cp.stalled = [] →
    ∃ t, exec (.pllUnlock i) s = .next t ∧ s.PllRestarts t i) ∧
  (∀ (s : State) (i : Nat), i < 6 → s.clk.restart.getLsbD i = true →
    ∃ t, exec (.pllRelockTimeout i) s = .next t ∧ t.clk.restart.getLsbD i = false ∧
      (i < 2 → (t.hdr (pg .clock)).fault.getLsbD (11 + i) = true ∧ (t.hdr (pg .clock)).fault.getLsbD 1 = true ∧
        (s.fenceFalls = true → s.tile.fencing = none → s.tamp.responding = false →
          t.tile.fencing = some 0x03 ∧ t.tile.fence = ⟨0x03, 5, false⟩) ∧
        (s.tamp.responding = true → t.tile = s.tile ∧
          t.fld FLT_LOG_IDX.TOTAL 0 = min (s.fld FLT_LOG_IDX.TOTAL 0 + 1) 0xFFFF)) ∧
      (2 ≤ i → (t.hdr (quadPg (i - 2))).fault.getLsbD 8 = true ∧
        (s.blk (quadPg (i - 2)) = BlkState.on → t.blk (quadPg (i - 2)) = BlkState.fenced ∧
          (t.hdr (quadPg (i - 2))).fence = ⟨0x03, fenceLevel (quadPg (i - 2)), false⟩))) ∧
  (∀ (s : State) (req : Req), s.OpenReg .CLK_CMD 0 req →
    (∃ t, exec (.useHbref req) s = .next t ∧
      (s.clk.ref ≠ .switching → s.clk.counting = false → s.clk.commanded = false → s.clk.hbOk = true → s.clk.ref ≠ .hbref →
        s.SwitchesTo t .hbref) ∧
      (s.clk.ref = .hbref → s.clk.counting = false → s.clk.commanded = false → s.clk.hbOk = true → t.clk = s.clk ∧ t.hdrs = s.hdrs) ∧
      (s.clk.ref = .switching ∨ s.clk.counting = true ∨ s.clk.commanded = true ∨ s.clk.hbOk = false → t.clk = s.clk ∧
        (t.hdr (pg .clock)).fault.getLsbD 5 = true)) ∧
    (∃ t, exec (.useSbosc req) s = .next t ∧
      (s.clk.ref = .hbref → s.clk.counting = false → s.clk.commanded = false → s.clk.sbOk = true → s.SwitchesTo t .sbosc) ∧
      (s.clk.ref = .none → s.clk.counting = false → s.clk.commanded = false → s.clk.sbOk = true → s.clk.fallback = false →
        t.clk.ref = .sbosc ∧ t.clk.commanded = false) ∧
      (s.clk.ref ≠ .switching → s.clk.counting = false → s.clk.commanded = false → s.clk.sbOk = false → s.clk.ref ≠ .sbosc →
        t.clk = { s.clk with sbOn := true, commanded := true }) ∧
      (s.clk.ref = .sbosc → s.clk.counting = false → s.clk.commanded = false → t.clk = s.clk ∧ t.hdrs = s.hdrs) ∧
      (s.clk.ref = .switching ∨ s.clk.counting = true ∨ s.clk.commanded = true → t.clk = s.clk ∧
        (t.hdr (pg .clock)).fault.getLsbD 5 = true))) ∧
  (∀ (s : State) (v : W32) (req : Req) (may : Nat → Prop), s.OpenReg .CLK_PLL_EN 0 req →
    (∀ i, may i ↔ (i < 2 ∧ (s.tile.st = .addressed ∨ s.tile.st = .clocked) ∨ 2 ≤ i ∧ s.blk (quadPg (i - 2)) = BlkState.off)) →
    ∃ t, exec (.clkPllEnWrite v req) s = .next t ∧ ∀ i, i < 6 →
      (t.pllEn i = true ↔ v.getLsbD i = true ∨ s.pllEn i = true ∧ ¬may i) ∧
      (v.getLsbD i = false → s.pllEn i = true → may i → t.clk.lock.getLsbD i = false ∧ t.clk.await.getLsbD i = false) ∧
      (v.getLsbD i = false → s.pllEn i = true → ¬may i → (t.hdr (pg .clock)).fault.getLsbD 5 = true)) ∧
  (∀ (s : State) (v : W64) (req : Req), s.OpenReg .CLK_EN 0 req →
    ∃ t, exec (.clkEnWrite v req) s = .next t ∧
      (s.flag CLK_COMPAT.COMPAT_MODE 0 = true → t.reg .CLK_EN 0 = s.reg .CLK_EN 0 ∧ (t.hdr (pg .clock)).fault.getLsbD 5 = true) ∧
      (s.flag CLK_COMPAT.COMPAT_MODE 0 = false → s.tile.st ≠ .alarmed → t.reg .CLK_EN 0 = v &&& 0x0000FFFF000FF1FF) ∧
      (s.flag CLK_COMPAT.COMPAT_MODE 0 = false → s.tile.st = .alarmed →
        t.reg .CLK_EN 0 = v &&& 0x0000FFFF000FF1FF &&& s.reg .CLK_EN 0)) ∧
  (∀ (s : State) (v : W32) (req : Req), s.OpenReg .CLK_COMPAT 0 req →
    ∃ t, exec (.clkCompatWrite v req) s = .next t ∧ s.Took t .CLK_COMPAT 0 v ∧ t.reg .CLK_EN 0 = s.reg .CLK_EN 0) ∧
  (∀ (s : State) (k : CompatMask) (r : Reg) (v : W32) (req : Req),
    r = (match k with | .run => .CLK_RUN_EN | .sleep => .CLK_SLEEP_EN | .deepSleep => .CLK_DEEPSLEEP_EN) → s.OpenReg r 0 req →
    ∃ t, exec (.clkMaskWrite k v req) s = .next t ∧ s.Took t r 0 v ∧ t.reg .CLK_COMPAT 0 = s.reg .CLK_COMPAT 0)

/-- R305–R315, R339: the way into SLEEP and DEEP_SLEEP, what a wake source does on it and in them, and the wake. A domain that fails
fences what owns it, a glitch is recorded; lanes and quads park. vdd_ao brings PD0 up with the strapped base, and takes all with it.
The model's own readings in it are those of log entries 43, 44, 45, 46, 82 and 121. -/
def Obligations.TheTileSleepsWakesAndParks : Prop :=
  (∀ (s : State) (g : BitVec 2) (req : Req), s.OpenReg .PWR_SLEEP 0 req →
    ∃ t, exec (.sleepGo g req) s = .next t ∧
      (s.sleepOk g.toNat = true → s.SleepBegins t (g == 2)) ∧
      (s.sleepOk g.toNat = false → t.pwr = { s.pwr with latched := t.pwr.latched } ∧ t.qeng = s.qeng ∧ (t.hdr (pg .power)).fault.getLsbD 5 = true)) ∧
  (∀ (s : State) (req : Req), s.OpenReg .PWR_CMD 0 req →
    (∃ t, exec (.cancelSleep req) s = .next t ∧ s.EntryStops t ∧
      (s.pwr.phase ≠ .draining → s.pwr.phase ≠ .saving → t.pwr = { s.pwr with latched := t.pwr.latched } ∧ (t.hdr (pg .power)).fault.getLsbD 5 = true)) ∧
    (∃ t, exec (.wakeCommand req) s = .next t ∧ (s.pwr.phase ≠ .awake → s.Wakes t 4) ∧
      (s.pwr.phase = .awake → t.pwr = { s.pwr with latched := t.pwr.latched } ∧ (t.hdr (pg .power)).fault.getLsbD 5 = true))) ∧
  (∀ (s : State), s.working = true → s.pwr.phase = .draining →
    ∃ t, exec .sleepDrainDone s = .next t ∧
      (s.sleepDrained = false → t = s) ∧
      (s.sleepDrained = true → s.pwr.deep = true → t.pwr = { s.pwr with phase := .saving } ∧ t.digest.image = none) ∧
      (s.sleepDrained = true → s.pwr.deep = false → t.pwr = { s.pwr with phase := .committed })) ∧
  (∀ (s : State), s.working = true → s.pwr.phase = .saving → s.ctx.store ≠ .flushing →
    s.fab.xfers.any (fun x => x.kind == .slotSave && !x.dropped) = false →
    ∃ t, exec .sleepSaveDone s = .next t ∧
      (∀ x, s.fab.mail = [x] → x.kind = .slotSave → x.failed = none →
        t.digest.image = some s.digest.gen ∧ t.digest.saved = s.digest.gen ∧ (t.hdr (pg .digest)).event.getLsbD 1 = true) ∧
      (s.pwr.abandon = true → t.pwr.phase = .awake ∧ (t.hdr (pg .power)).event.getLsbD 2 = true) ∧
      (s.pwr.abandon = false → s.imageWanted = false ∨ s.digest.image.isSome = true ∨ (∃ x, s.fab.mail = [x] ∧ x.kind = .slotSave) →
        t.pwr.phase = .committed ∧ (t.hdr (pg .power)).event.getLsbD 1 = true ∧
        t.pwr.keep = some { regs := s.keepRegs, en := (allBlocks.filter (fun p => (s.hdr p).en)).map pageNum })) ∧
  (∀ (s : State), s.pwr.phase = .committed → s.asleep = false → s.irq.msgs = [] → s.clk.safe = false → s.ctx.store ≠ .flushing →
    s.cp.stalled = [] →
    ∃ t, exec .sleepCommit s = .next t ∧ t.tile.st = (if s.pwr.deep then .deepSleep else .sleep) ∧ t.tile.prev = s.tile.st ∧
      t.pwr.phase = (if s.pwr.wakeLatched then .waking else .asleep) ∧ t.pwr.restored = false ∧ t.clk.lock = 0 ∧
      t.key.root = s.key.root ∧ (∀ n, n < 16 → (t.lane n).frames = []) ∧
      (s.pwr.deep = true → t.ctx.ways = [] ∧ t.key.wrap = none ∧ t.key.tree = none ∧ t.key.banks = [] ∧ t.irq.vecs = [] ∧
        t.rng.pool = [] ∧ t.dma.chans = [] ∧ t.digest.image = s.digest.image) ∧
      (s.pwr.deep = false → s.flag CLK_COMPAT.COMPAT_MODE 0 = false → t.ctx.ways = s.ctx.ways ∧ t.key.wrap = s.key.wrap ∧
        t.digest.slots = s.digest.slots)) ∧
  (∀ (s : State), s.pwr.phase = .draining ∨ s.pwr.phase = .saving →
    ∃ t, exec .drainTimeout s = .next t ∧ s.EntryStops t) ∧
  (∀ (s : State), s.tile.st ≠ TileState.powerOff → (s.qual 4).st = .idle ∨ (s.qual 4).st = .qualifying →
    ∃ t, exec .wakePin s = .next t ∧ (t.qual 4).st = .latched ∧ (t.qual 4).raw = true ∧
      (s.flag PWR_WAKE_CFG.PIN 0 = true → s.pwr.phase ≠ .awake → s.Wakes t 0) ∧
      (s.flag PWR_WAKE_CFG.PIN 0 = false ∨ s.pwr.phase = .awake → t.pwr = s.pwr)) ∧
  (∀ (s : State) (w : Bool) (a : Access) (p : PageRef), s.cpAddressed a = true → s.stalls a = false → accPage a = some p →
    PageKind.keeper p.kind = false → s.asleep = true ∧ s.pwr.phase = .asleep ∨ s.pwr.phase = .committed →
    ∃ t, exec (.wakeAccess w a) s = .next t ∧ s.Wakes t 2 ∧ t.cp.rsp = [⟨.retry, 0, a.tag⟩]) ∧
  (∀ (s : State), s.flag PWR_WAKE_CFG.TIMER_EN 0 = true → s.pwr.phase = .asleep ∨ s.pwr.phase = .waking →
    ∃ t, exec .wakeTimer s = .next t ∧ s.Wakes t 3) ∧
  (∀ (s : State) (keepOk : Bool) (bad : List Nat), s.pwr.phase = .waking → s.refGood = true →
    ∃ t, exec (.wakeComplete keepOk bad) s = .next t ∧
      (s.pwr.alarmed = true → t.tile.st = .alarmed ∧ t.pwr.phase = .awake ∧ t.pwr.alarmed = false ∧ t.reg .CLK_EN 0 = 0 ∧
        (t.hdr (pg .power)).event.getLsbD 0 = true ∧ ∀ p ∈ allBlocks, (t.hdr p).st = .off) ∧
      (s.pwr.alarmed = false → s.tile.st = .sleep → t.tile.st = .ready ∧ t.pwr.phase = .awake ∧ t.pwr.restored = false ∧
        (t.hdr (pg .power)).event.getLsbD 0 = true ∧
        ((∃ d ∈ bad, s.domRet d = true) → (t.hdr (pg .power)).fault.getLsbD 9 = true) ∧
        (bad = [] → s.key.root.isSome = true → RngUse.rootSplit ∈ t.rng.privWait)) ∧
      (s.pwr.alarmed = false → s.tile.st = .deepSleep → s.pwr.restored = false → keepOk = false ∨ s.pwr.keep = none →
        t.tile.st = .bringUp ∧ t.pwr.phase = .awake ∧ t.pwr.keepFail = true ∧ t.flag TILE_RESET_CAUSE.WAKE_DEEP 0 = true ∧
        (t.hdr (pg .power)).fault.getLsbD 9 = true ∧ ∀ r n, r.inPd0 = false → t.reg r n = r.resetAt n) ∧
      (∀ k, s.pwr.alarmed = false → s.tile.st = .deepSleep → s.pwr.restored = false → keepOk = true → s.pwr.keep = some k →
        t.pwr.keep = none ∧
        ((∀ p ∈ allBlocks, (s.hdr p).st = .off ∨ (s.hdr p).st = .fenced) → t.tile.st = .ready ∧ t.pwr.phase = .awake ∧
          t.flag TILE_RESET_CAUSE.WAKE_DEEP 0 = true ∧ (t.hdr (pg .power)).event.getLsbD 0 = true) ∧
        (∀ p ∈ allBlocks, (s.hdr p).st = .on → k.en.contains (pageNum p) = true → s.flag CLK_COMPAT.COMPAT_MODE 0 = false →
          k.regs = [] → (t.hdr p).st = .comingUp ∧ t.tile.st = .deepSleep ∧ t.pwr.restored = true)) ∧
      (s.pwr.alarmed = false → s.tile.st = .deepSleep → s.pwr.restored = true →
        (∀ p ∈ allBlocks, (s.hdr p).st ≠ .comingUp) → t.tile.st = .ready ∧ t.pwr.phase = .awake ∧
        t.flag TILE_RESET_CAUSE.WAKE_DEEP 0 = true)) ∧
  (∀ (s : State) (d : Nat) (ok : Bool), s.pwr.core = true → 0 < d → d < 112 →
    s.pwr.phase = .waking ∧ s.pwr.restored = false ∧ s.pwr.alarmed = false ∨ (∃ p ∈ domBlocks d, s.blk p = .comingUp) ∨
      (d = 1 ∨ d = 110) ∧ s.pwr.phase = .awake ∧ s.pwr.alarmed = false ∧ s.tile.st = .bringUp ∧ s.tile.prev = .clocked ∧
        (∀ p ∈ allBlocks, s.blk p = .off) →
    ∃ t, exec (.pgoodTimeout d ok) s = .next t ∧
      (ok = true → (t.hdr (pg .power)).fault.getLsbD 0 = true ∧ t.regs = s.regs ∧ t.tile = s.tile) ∧
      (ok = false → (t.hdr (pg .power)).fault.getLsbD 1 = true ∧ s.DomainFails t 1 d ∧
        (d = 1 ∨ d = 110 → t.pwr.core = false ∧ t.pwr.phase = .awake))) ∧
  (∀ (s : State) (d : Nat), 0 < d → d < 112 → s.domOn d = true →
    ∃ t, exec (.pgoodLost d) s = .next t ∧ s.DomainFails t 2 d) ∧
  (∀ (s : State) (sram : Bool), s.tile.st ≠ TileState.powerOff →
    ∃ t, exec (.supplyGlitch sram) s = .next t ∧ s.PowerFault t (if sram then 6 else 5) 0 ∧
      (t.hdr (pg .power)).fault.getLsbD 10 = true ∧ t.tile = s.tile) ∧
  (∀ (s : State) (n : Nat), s.working = true → n < 16 →
    (s.flag PWR_PARK.LANE_EN 0 = true → s.isOn (lanePg n) = true → (s.lane n).frames = [] → (s.lane n).check = .idle →
      (s.lane n).unparking = false → ∃ t, exec (.lanePark n) s = .next t ∧ t.lane n = { s.lane n with parked := true }) ∧
    (∃ t, exec (.laneUnparkDone n) s = .next t ∧ t.lane n = { s.lane n with unparking := false } ∧ t.regs = s.regs)) ∧
  (∀ (s : State) (q : Nat), s.working = true → q < 4 → s.flag PWR_PARK.QUAD_EN 0 = true → s.isOn (quadPg q) = true →
    (s.quad q).parked = false → (s.quad q).staged = 0 → s.frames.list.all (fun f => f.quad != q) = true →
    (∀ n, n / 4 = q → (s.lane n).parked = true ∨ s.blk (lanePg n) = .off ∨ s.blk (lanePg n) = .fenced) →
    ∃ t, exec (.quadPark q) s = .next t ∧ (t.quad q).parked = true ∧ t.clk.lock.getLsbD (2 + q) = false ∧
      t.clk.parkStop.getLsbD (2 + q) = true ∧ t.regs = s.regs) ∧
  (∀ (s : State) (b : BitVec 36), s.tile.st = TileState.powerOff →
    exec (.vddAoUp b) s = .next { State.reset with
      pending := s.pending, freeCtr := s.freeCtr
      tile := { State.reset.tile with st := .aoOnly, prev := .powerOff, windowBase := b } }) ∧
  (∀ (s : State), exec .vddAoLoss s = .next { State.reset with pending := s.pending, freeCtr := s.freeCtr })

/-- R318–R327, R333–R338, R344, R345: qualifiers and sensors latch once and send their events to their users; the tamper response
wipes, drains and ends in ALARMED, which CLEAR_ALARM leaves. Functions and the tile are fenced; the self-test runs and reports.
The model's own readings in it are those of log entries 37, 56, 57, 58, 82, 119, 121 and 122. -/
def Obligations.TamperEventsQualifyAndRespond : Prop :=
  (∀ (s : State) (i : Nat), s.tile.st ≠ TileState.powerOff → i < 6 →
    ((s.qual i).raw = true → exec (.qualInputActive i) s = .next s) ∧
    ((s.qual i).raw = false → ∃ t, exec (.qualInputActive i) s = .next t ∧ t.regs = s.regs ∧ t.hdrs = s.hdrs ∧
      (t.qual i).raw = true ∧ (t.qual i).edges = min ((s.qual i).edges + 1) 255 ∧ (t.qual i).short = (s.qual i).short ∧
      (t.qual i).st = (match (s.qual i).st with
        | .idle => QualSt.qualifying | .armable => .latched | x => x) ∧
      (t.qual i).chatter = ((s.qual i).chatter || (s.qual i).st == .latched) ∧
      (∀ j, j ≠ i → t.qual j = s.qual j))) ∧
  (∀ (s : State) (i : Nat), s.tile.st ≠ TileState.powerOff → i < 6 → (s.qual i).st = .qualifying →
    (∃ t, exec (.qualHoldDone i) s = .next t ∧ t.qual i = { s.qual i with st := .latched } ∧ s.QualDelivers t i) ∧
    (max 1 (s.fld TAMP_XQUAL.CHATTER_LIM 0) ≤ min ((s.qual i).short + 1) 255 →
      ∃ t, exec (.qualShortPulse i) s = .next t ∧ s.QualDelivers t i ∧
        t.qual i = { s.qual i with raw := false, short := min ((s.qual i).short + 1) 255, chatter := true, st := .latched }) ∧
    (min ((s.qual i).short + 1) 255 < max 1 (s.fld TAMP_XQUAL.CHATTER_LIM 0) →
      exec (.qualShortPulse i) s = .next (s.setQual i
        { s.qual i with raw := false, short := min ((s.qual i).short + 1) 255, st := .idle }))) ∧
  (∀ (s : State) (i : Nat), s.tile.st ≠ TileState.powerOff → i < 6 →
    ((s.qual i).st ≠ .qualifying → exec (.qualHoldDone i) s = .next s ∧
      exec (.qualShortPulse i) s = .next (s.setQual i { s.qual i with raw := false })) ∧
    (∃ t, exec (.qualRearmExpiry i) s = .next t ∧ t = { s with tamp := t.tamp } ∧
      t.qual i = (match (s.qual i).st with
        | .idle => { s.qual i with raw := false, short := 0 }
        | .latched => { s.qual i with raw := false, st := .armable }
        | .qualifying | .armable => s.qual i))) ∧
  (∀ (s : State) (v : W32) (req : Req), s.OpenReg .TAMP_QUAL_CLR 0 req →
    ∃ t, exec (.tampQualClr v req) s = .next t ∧ ∀ i, i < 6 →
      t.qual i = (if v.getLsbD i = true ∧ ((s.qual i).st = .idle ∨ (s.qual i).st = .armable) ∧ ¬(i < 4 ∧ s.tile.st = .alarmed)
        then { raw := (s.qual i).raw } else s.qual i) ∧
      (v.getLsbD i = true → (s.qual i).st = .qualifying ∨ (s.qual i).st = .latched →
        (t.hdr (pg .tamper)).fault.getLsbD 5 = true)) ∧
  (∀ (s : State) (x : Sensor), s.tile.st ≠ TileState.powerOff →
    ∃ t, exec (.sensorQualify x) s = .next t ∧ t.tamp.sensActive.getLsbD (Sensor.bit x) = true ∧
      (bitAt (s.fld TAMP_SENS_STS.LATCHED 0) (Sensor.bit x) = true →
        t = { s with tamp := { s.tamp with sensActive := t.tamp.sensActive } }) ∧
      (bitAt (s.fld TAMP_SENS_STS.LATCHED 0) (Sensor.bit x) = false →
        bitAt (t.fld TAMP_SENS_STS.LATCHED 0) (Sensor.bit x) = true ∧
        (x = .temp ∨ x = .clk → (t.hdr (pg .tamper)).event.getLsbD 5 = true) ∧
        (x = .vcore ∨ x = .vsram → (t.hdr (pg .power)).fault.getLsbD 10 = true) ∧
        (s.sensClass x ≠ 3 → s.TamperTaken t (4 + Sensor.bit x) (s.sensClass x)) ∧
        (s.sensClass x = 3 → t.key = s.key ∧ t.tile = s.tile ∧ t.tamp = { s.tamp with sensActive := t.tamp.sensActive }))) ∧
  (∀ (s : State) (x : Sensor),
    ∃ t, exec (.sensorRearmExpiry x) s = .next t ∧ t = { s with tamp := { s.tamp with sensActive := t.tamp.sensActive } } ∧
      ∀ y : Sensor, t.tamp.sensActive.getLsbD (Sensor.bit y) = (s.tamp.sensActive.getLsbD (Sensor.bit y) && y != x)) ∧
  (∀ (s : State),
    (s.tamp.wiping = false → exec .tamperWipeDone s = .next s) ∧
    (s.tamp.wiping = true → ∃ t, exec .tamperWipeDone s = .next t ∧
      t.tamp = { s.tamp with wiping := false, draining := s.tamp.responding } ∧
      (t.hdr (pg .tamper)).event.getLsbD 4 = true ∧ t.regs = s.regs ∧ t.crown = s.crown)) ∧
  (∀ (s : State), s.tamp.draining = true →
    (∃ t, exec .tamperDrainTimeout s = .next t ∧ (∀ p, p ≠ 24 → t.produced p = []) ∧ t.crown.waiting = [] ∧
      (∀ c, (t.cq c).held = [] ∧ (t.cq c).writing = [] ∧ (t.cq c).pub = (s.cq c).pub) ∧
      (s.crown.fifos = [] → s.crown.stalled = [] → s.crown.cqs = [] →
        t.fld TAMP_STS.DISCARDED 0 = min (s.fld TAMP_STS.DISCARDED 0 + s.crown.waiting.length) 0xFFFF)) ∧
    (s.crownDrained = false → exec .tamperDrainDone s = .next s) ∧
    (s.crownDrained = true → ∃ t, exec .tamperDrainDone s = .next t ∧ t.tile.st = .alarmed ∧ t.tile.prev = s.tile.st ∧
      t.flag TILE_RESET_CAUSE.ALARM 0 = true ∧ t.tamp = { s.tamp with draining := false, responding := false } ∧
      t.reg .CLK_EN 0 = 0 ∧ (∀ p ∈ allBlocks, (t.hdr p).st = .off) ∧
      (∀ q, q < 256 → (s.rq q).st ≠ .disabled → (t.rq q).st = .fenced ∧ t.flag RQ_ERR.FENCED q = true) ∧
      (∀ c, c < 64 → (s.cq c).st ≠ .disabled → (t.cq c).st = .fenced))) ∧
  (∀ (s : State) (req : Req), s.OpenReg .TAMP_CMD 0 req →
    ∃ t, exec (.clearAlarm req) s = .next t ∧
      (s.clearOk = false → t.tile = s.tile ∧ t.tamp = s.tamp ∧ t.key = s.key ∧ (t.hdr (pg .tamper)).fault.getLsbD 5 = true) ∧
      (s.clearOk = true → t.fld TAMP_STS.CAUSE 0 = 0 ∧ t.fld TAMP_STS.DISCARDED 0 = 0 ∧ t.key.noMask = false ∧
        (s.key.noMask = true → t.key.banks = []) ∧
        (∀ i, i < 4 → bitAt (s.fld TAMP_STS.CAUSE 0) i = true → t.qual i = { raw := (s.qual i).raw }) ∧
        t.tile.prev = .alarmed ∧
        t.tile.st = (if s.pwr.core then .bringUp else if s.tile.addr = none then .aoOnly
          else if s.clk.lock.getLsbD 0 && s.clk.lock.getLsbD 1 then .clocked else .addressed))) ∧
  (∀ (s : State) (req : Req), s.OpenReg .TAMP_XIN_CFG 0 req →
    ∃ t, exec (.tampSeal req) s = .next t ∧ t.flag TAMP_XIN_CFG.SEAL 0 = true ∧
      ∀ i, i ≠ 31 → (t.reg .TAMP_XIN_CFG 0).getLsbD i = (s.reg .TAMP_XIN_CFG 0).getLsbD i) ∧
  (∀ (s : State) (f : Nat) (req : Req), f < 64 → s.OpenReg .FLT_FUNC_FORCE 0 req →
    ∃ t, exec (.fltFuncForce f req) s = .next t ∧ (s.fnFenced f = false → s.FunctionFenced t f) ∧
      (s.fnFenced f = true → t.fnFenced f = true ∧ t.qeng = s.qeng ∧ t.crown = s.crown ∧
        t.fld FLT_LOG_IDX.TOTAL 0 = s.fld FLT_LOG_IDX.TOTAL 0)) ∧
  (∀ (s : State) (f : Nat) (req : Req), f < 64 → s.OpenReg .FLT_FUNC (f / 32) req →
    ∃ t, exec (.fltFuncClear f req) s = .next t ∧
      (s.fnFenced f = true → s.fnQuiet f = true → ∀ g, g < 64 → t.fnFenced g = (s.fnFenced g && g != f)) ∧
      (s.fnFenced f = true → s.fnQuiet f = false → t.regs = s.regs ∧ (t.hdr (pg .tamper)).fault.getLsbD 5 = true) ∧
      (s.fnFenced f = false → t.regs = s.regs ∧ t.hdrs = s.hdrs)) ∧
  (∀ (s : State),
    (s.tile.fencing = none → exec .tileFenceFlushDone s = .next s) ∧
    (s.tile.fencing ≠ none → ∃ t, exec .tileFenceFlushDone s = .next t ∧ t.tile.st = .fenced ∧ t.tile.prev = s.tile.st ∧
      t.tile.fencing = none ∧ (t.hdr (pg .tile)).fault.getLsbD 7 = true ∧ t.anyLock = false ∧
      (∀ p ∈ allBlocks, s.blk p = .on ∨ s.blk p = .comingUp → t.blk p = .fenced ∧ (t.hdr p).fence = s.tile.fence) ∧
      (∀ p ∈ allBlocks, s.blk p = .goingDown → (s.hdr p).pendFence = none → (t.hdr p).pendFence = some s.tile.fence) ∧
      (∀ q, q < 256 → (s.rq q).st ≠ .disabled → (t.rq q).st = .fenced))) ∧
  (∀ (s : State) (sel : BitVec 6) (req : Req), s.OpenReg .TILE_SELFTEST 0 req →
    ∃ t, exec (.selftestGo sel req) s = .next t ∧
      (s.tile.st = .bringUp ∨ s.tile.st = .test → s.flag TILE_SELFTEST_STS.BUSY 0 = false →
        t.flag TILE_SELFTEST_STS.BUSY 0 = true ∧ t.flag TILE_SELFTEST_STS.DONE 0 = false ∧
        t.fld TILE_SELFTEST_STS.FAILED 0 = 0 ∧
        ∀ g, g < 6 → bitAt (t.fld TILE_SELFTEST_STS.RAN 0) g = (sel.getLsbD g && !(s.selfUnits g).isEmpty)) ∧
      (s.tile.st ≠ .bringUp ∧ s.tile.st ≠ .test ∨ s.flag TILE_SELFTEST_STS.BUSY 0 = true →
        t.reg .TILE_SELFTEST_STS 0 = s.reg .TILE_SELFTEST_STS 0 ∧ (t.hdr (pg .tile)).fault.getLsbD 5 = true)) ∧
  (∀ (s : State) (failed retried : BitVec 6), s.working = true → s.flag TILE_SELFTEST_STS.BUSY 0 = true →
    ∃ t, exec (.selftestDone ⟨failed, retried⟩) s = .next t ∧ (t.hdr (pg .tile)).event.getLsbD 0 = true ∧
      t.flag TILE_SELFTEST_STS.BUSY 0 = false ∧ t.flag TILE_SELFTEST_STS.DONE 0 = true ∧
      t.fld TILE_SELFTEST_STS.RAN 0 = s.fld TILE_SELFTEST_STS.RAN 0 ∧
      (∀ g, g < 6 → bitAt (t.fld TILE_SELFTEST_STS.FAILED 0) g =
        (failed.getLsbD g && bitAt (s.fld TILE_SELFTEST_STS.RAN 0) g && !(s.selfUnits g).isEmpty)) ∧
      ((∃ g, g < 6 ∧ failed.getLsbD g = true ∧ bitAt (s.fld TILE_SELFTEST_STS.RAN 0) g = true ∧ s.selfUnits g ≠ []) →
        t.flag TILE_SELFTEST_STS.FAIL 0 = true ∧ (t.hdr (pg .tile)).fault.getLsbD 8 = true) ∧
      (failed = 0 → ∀ g, g < 6 → retried.getLsbD g = true → bitAt (s.fld TILE_SELFTEST_STS.RAN 0) g = true → s.selfUnits g ≠ [] →
        ∃ n ∈ s.selfUnits g, (t.hdr (selfPage g n)).fault.getLsbD 0 = true))

/-- R354, R357, R371, R376–R379, R384: a tag configuration asks for a seed, which starts the LFSR; a ring starts over as it is
enabled; each access ends well, is tried once more, or fails for good; a late response is counted; the wrapper takes an instruction
only where it is allowed. The model's own readings in it are those of log entries 15, 21, 22, 33, 34, 82 and 85. -/
def Obligations.SeedsPortsAndTheWrapperAnswer : Prop :=
  (∀ (s : State) (v : W32) (req : Req), s.OpenReg .PERF_TAG_CFG 0 req →
    ∃ t, exec (.perfTagCfgWrite v req) s = .next t ∧ s.Took t .PERF_TAG_CFG 0 v ∧ t.perf.seeded = false ∧ t.perf.seed = none ∧
      t.perf.k = s.perf.k ∧ (s.isOn (pg .perf) = true → RngUse.traceSeed ∈ t.rng.ordWait)) ∧
  (∀ (s : State), s.working = true → s.isOn (pg .perf) = true →
    (s.perf.seed = none → exec .perfSeedArrive s = .next s) ∧
    (∀ v, s.perf.seed = some v → v ≠ 0 → exec .perfSeedArrive s = .next
      { s with perf := { s.perf with seed := none, seeded := true, lfsr := v, k := s.fld PERF_TAG_CFG.K 0 } }) ∧
    (s.perf.seed = some 0 → ∃ t, exec .perfSeedArrive s = .next t ∧ t.perf.seeded = false ∧ t.perf.seed = none ∧
      RngUse.traceSeed ∈ t.rng.ordWait)) ∧
  (∀ (s : State) (v : W32) (req : Req), s.OpenReg .PERF_TRC_CFG 0 req →
    ∃ t, exec (.perfTrcEnable v req) s = .next t ∧ t.flag PERF_TRC_CFG.EN 0 = true ∧
      (s.flag PERF_TRC_CFG.EN 0 = false → s.Took t .PERF_TRC_CFG 0 (v ||| PERF_TRC_CFG.EN.word 1) ∧ t.ring 64 = { run := (s.ring 64).run + 1 } ∧
        t.reg .PERF_TRC_CONS 0 = 0) ∧
      (s.flag PERF_TRC_CFG.EN 0 = true → t.fld PERF_TRC_CFG.SIZE_LOG2 0 = s.fld PERF_TRC_CFG.SIZE_LOG2 0 ∧ t.perf = s.perf)) ∧
  (∀ (s : State) (p i n : Nat) (resp : BitVec 2) (data : Bytes), s.fabricOn = true → p < 4 →
    (∀ q x, Tbl.get none (s.port p).reads i = some q → s.xfer q.xfer = some x →
      ∃ t, exec (.fabricReadResponse p i resp n data) s = .next t ∧
        (∀ f, readFailure resp n q.bytes = some f → s.AccessFails t p q x f) ∧
        (readFailure resp n q.bytes = none → q.op = .read → (∀ f, x.kind ≠ .frameSrc f) →
          s.AccessDone t q.xfer { x with got := Tbl.ins x.got q.off (slice data 0 q.bytes) }) ∧
        ((s.port p).queue = [] → q.retry = true ∨ readFailure resp n q.bytes = none → x.kind.waits = true →
          Tbl.get none (t.port p).reads i = none)) ∧
    (Tbl.get none (s.port p).reads i = none → ∃ t, exec (.fabricReadResponse p i resp n data) s = .next t ∧
      t.fld FAB_LATE.COUNT 0 = min (s.fld FAB_LATE.COUNT 0 + 1) 0xFFFFFFFF ∧ i ∉ (t.port p).deadReads ∧ t.fab.mail = s.fab.mail)) ∧
  (∀ (s : State) (p i : Nat) (resp : BitVec 2), s.fabricOn = true → p < 4 →
    (∀ q x, Tbl.get none (s.port p).writes i = some q → s.xfer q.xfer = some x →
      ∃ t, exec (.fabricWriteResponse p i resp) s = .next t ∧
        (resp ≠ 0 → s.AccessFails t p q x .err) ∧
        (resp = 0 → q.op ≠ .read → s.AccessDone t q.xfer x) ∧
        ((s.port p).queue = [] → q.retry = true ∨ resp = 0 → x.kind.waits = true → Tbl.get none (t.port p).writes i = none)) ∧
    (Tbl.get none (s.port p).writes i = none → ∃ t, exec (.fabricWriteResponse p i resp) s = .next t ∧
      t.fld FAB_LATE.COUNT 0 = min (s.fld FAB_LATE.COUNT 0 + 1) 0xFFFFFFFF ∧ i ∉ (t.port p).deadWrites ∧ t.fab.mail = s.fab.mail)) ∧
  (∀ (s : State) (p i : Nat) (w : Bool), s.fabricOn = true → p < 4 →
    (∀ q x, Tbl.get none (if w then (s.port p).writes else (s.port p).reads) i = some q → s.xfer q.xfer = some x →
      ∃ t, exec (.fabricTimeout p w i) s = .next t ∧ s.AccessFails t p q x .timeout ∧
        i ∈ (if w then (t.port p).deadWrites else (t.port p).deadReads) ∧
        Tbl.get none (if w then (t.port p).writes else (t.port p).reads) i = none) ∧
    (Tbl.get none (if w then (s.port p).writes else (s.port p).reads) i = none →
      exec (.fabricTimeout p w i) s = .next s ∧
      ∃ t, exec (.fabricLateResponse p w i) s = .next t ∧ t.fab.mail = s.fab.mail ∧
        t.fld FAB_LATE.COUNT 0 = min (s.fld FAB_LATE.COUNT 0 + 1) 0xFFFFFFFF ∧
        i ∉ (if w then (t.port p).deadWrites else (t.port p).deadReads))) ∧
  (∀ (s : State), s.fabricOn = false → ∀ (p i n : Nat) (resp : BitVec 2) (data : Bytes) (w : Bool),
    exec (.fabricReadResponse p i resp n data) s = .next s ∧ exec (.fabricWriteResponse p i resp) s = .next s ∧
    exec (.fabricTimeout p w i) s = .next s ∧ exec (.fabricLateResponse p w i) s = .next s) ∧
  (∀ (s : State) (code : BitVec 4),
    (s.wrapAllowed code.toNat = true → ∃ t, exec (.wrapperInstruction code) s = .next t ∧ t = { s with wrap := t.wrap } ∧
      t.wrap.code = code ∧ t.wrap.refused = false ∧ t.wrap.extest = false ∧ (code = 6 → t.wrap.mbistDone = false)) ∧
    (s.wrapAllowed code.toNat = false → exec (.wrapperInstruction code) s =
      .next { s with wrap := { s.wrap with code := 0, refused := true, extest := false } })) ∧
  (∀ (s : State), exec .wrapperReset s = .next { s with wrap := { s.wrap with code := 0, extest := false } }) ∧
  (∀ (s : State) (fail : Bool),
    (s.wrap.code = 6 → s.wrap.mbistDone = false →
      exec (.mbistDone fail) s = .next { s with wrap := { s.wrap with mbistDone := true, mbistFail := fail } }) ∧
    (s.wrap.code ≠ 6 ∨ s.wrap.mbistDone = true → exec (.mbistDone fail) s = .next s)) ∧
  (∀ (s : State) (wsi : Bool),
    (∃ t, exec (.wrapperDataShift .capture) s = .next t ∧ t = { s with wrap := t.wrap } ∧
      (s.wrap.code = 1 → t.wrap.shift = (s.reg .TILE_IDENT 0).setWidth 32) ∧
      (s.wrap.code = 2 → ∀ i, i < 32 → t.wrap.shift.getLsbD i = (i == 0 && s.wrap.refused || i == 1 && s.tile.st == .test ||
        i == 2 && s.wrap.mbistDone || i == 3 && s.wrap.mbistFail))) ∧
    (∀ n, wrapWidth s.wrap.code = some n → ∃ t, exec (.wrapperDataShift (.shift wsi)) s = .next t ∧ t = { s with wrap := t.wrap } ∧
      t.wrap.wso = s.wrap.shift.getLsbD 0 ∧
      ∀ i, i < n → t.wrap.shift.getLsbD i = (if i + 1 = n then wsi else s.wrap.shift.getLsbD (i + 1))) ∧
    (wrapWidth s.wrap.code = none → ∃ t, exec (.wrapperDataShift (.shift wsi)) s = .next t ∧
      t = { s with wrap := { s.wrap with wso := t.wrap.wso }, freeCtr := t.freeCtr }) ∧
    (∃ t, exec (.wrapperDataShift .update) s = .next t ∧
      t = { s with wrap := { s.wrap with extest := s.wrap.extest || s.wrap.code == 4 } }))
end

