-- ==== Sys2Proof/Laws/Port.lean ====
section
/-! SUPPORT. What the control port does with a request that it performs. -/

namespace Sys2Proof.Machine

set_option Elab.async false

/-- Every page number of an existing page finds the page. -/
theorem pageOf_pageNum (p : PageRef) (h : pageOk p = true) : pageOf (pageNum p) = some p := by
  obtain ⟨k, i⟩ := p
  have h := of_decide_eq_true h
  cases k <;> dsimp only [PageKind.count] at h <;> interval_cases i <;> decide

/-- A page number lies within the window. -/
theorem pageNum_lt (p : PageRef) (h : pageOk p = true) : pageNum p < 320 := by
  obtain ⟨k, i⟩ := p
  have h := of_decide_eq_true h
  cases k <;> dsimp only [PageKind.count] at h <;> simp only [pageNum] <;> omega

/-- The address of a request built for a place of this tile's window. -/
theorem accessTo_addr (s : State) (p : PageRef) (off bytes : Nat) (v : W64) (req : Req) (h : pageOk p = true)
    (ho : off < 4096) :
    (s.accessTo p off bytes v req).addr.toNat =
      s.tile.windowBase.toNat * 2 ^ 28 + (s.tile.addr.getD 0).toNat * 2 ^ 22 + pageNum p * 4096 + off := by
  have h1 := pageNum_lt p h
  have h2 := s.tile.windowBase.isLt
  have h3 := (s.tile.addr.getD 0).isLt
  simp only [State.accessTo, BitVec.toNat_ofNat]
  omega

theorem accOff_accessTo (s : State) (p : PageRef) (off bytes : Nat) (v : W64) (req : Req) (h : pageOk p = true)
    (ho : off < 4096) : accOff (s.accessTo p off bytes v req) = pageNum p * 4096 + off := by
  have h1 := pageNum_lt p h
  have h3 := (s.tile.addr.getD 0).isLt
  simp only [accOff, accessTo_addr s p off bytes v req h ho, bitsOf]
  omega

theorem accPage_accessTo (s : State) (p : PageRef) (off bytes : Nat) (v : W64) (req : Req) (h : pageOk p = true)
    (ho : off < 4096) : accPage (s.accessTo p off bytes v req) = some p := by
  simp only [accPage, accOff_accessTo s p off bytes v req h ho]
  rw [show (pageNum p * 4096 + off) / 4096 = pageNum p by omega]
  exact pageOf_pageNum p h

theorem accPo_accessTo (s : State) (p : PageRef) (off bytes : Nat) (v : W64) (req : Req) (h : pageOk p = true)
    (ho : off < 4096) : accPo (s.accessTo p off bytes v req) = off := by
  simp only [accPo, accOff_accessTo s p off bytes v req h ho]
  omega

theorem cpAddressed_accessTo (s : State) (p : PageRef) (off bytes : Nat) (v : W64) (req : Req) (h : pageOk p = true)
    (ho : off < 4096) (ha : s.tile.addr.isSome = true) : s.cpAddressed (s.accessTo p off bytes v req) = true := by
  have h1 := pageNum_lt p h
  obtain ⟨n, hn⟩ := Option.isSome_iff_exists.mp ha
  have h3 := n.isLt
  have hA := accessTo_addr s p off bytes v req h ho
  simp only [hn, Option.getD_some] at hA
  simp only [State.cpAddressed, hn, hA, bitsOf, decide_eq_true_eq]
  omega

/-- A write that the port performs takes its effect and is answered OK. -/
theorem cpWrite_open (s : State) (p : PageRef) (off bytes : Nat) (v : W64) (req : Req)
    (h : s.Open p (decide (0x40 ≤ off)) req) (ho : off < 4096) (hb : bytes = 4 ∨ bytes = 8) (ha : off % bytes = 0)
    (hr : p.kind = PageKind.result → off < 0x40)
    (hl : touchesExpert p off bytes = true → s.lockOpen p = true) :
    s.cpAccess true (s.accessTo p off bytes v req) = (s.pageWrite p off bytes v true).answeredOk := by
  have hP := accPage_accessTo s p off bytes v req h.inMap ho
  have hO := accPo_accessTo s p off bytes v req h.inMap ho
  have hA := accessTo_addr s p off bytes v req h.inMap ho
  have hal : (s.accessTo p off bytes v req).addr.toNat % bytes = 0 := by
    rw [hA]; rcases hb with rfl | rfl <;> omega
  have hst : s.stalls (s.accessTo p off bytes v req) = false := by
    simp [State.stalls, State.waitsOn, hP, h.nothingStalled, h.notInReset]
  have hre : s.reaches true p off req = true := by
    simp only [State.reaches, h.administrator, if_true]
    cases hk : p.kind <;> simp
    have := hr hk; omega
  have hbytes : (s.accessTo p off bytes v req).bytes = bytes := rfl
  have hreq : (s.accessTo p off bytes v req).req = req := rfl
  have hdata : (s.accessTo p off bytes v req).data = v := rfl
  have htag : (s.accessTo p off bytes v req).tag = 0 := rfl
  have hkeep : (s.keeperAnswers && !keeperServes (some p)) = false := by
    rcases h.served with ⟨h1, h2⟩ | h1
    · simp [State.keeperAnswers, h1, h2]
    · simp [keeperServes, h1]
  have hw : (s.pwr.phase == .waking) = false := by simpa using h.notWaking
  have hf : (s.tile.st == .fenced && true && !(PageKind.fixed p.kind)) = false := by
    rcases h.notFenced with h1 | h1 <;> simp [h1]
  have hg : (s.gated p && decide (0x40 ≤ off)) = false := by
    by_cases hx : 0x40 ≤ off
    · simp [h.notGated (by simpa using hx)]
    · simp [hx]
  have he : (true && touchesExpert p off bytes && !s.lockOpen p) = false := by
    by_cases hx : touchesExpert p off bytes = true
    · simp [hl hx]
    · simp [hx]
  have hbb : ((bytes != 4 && bytes != 8) || (s.accessTo p off bytes v req).addr.toNat % bytes != 0) = false := by
    rw [hal]; rcases hb with rfl | rfl <;> rfl
  simp only [State.cpAccess, cpAddressed_accessTo s p off bytes v req h.inMap ho h.addressed, Bool.not_true,
    hst, State.cpDecide, hP, hO, hw, hkeep, State.cpServe, hbytes, hreq, hbb, hre, hf, hg, he, State.perform,
    h.administrator, hdata, State.respond', htag, if_false, if_true, Bool.false_eq_true]
  rfl

/-- A read that the port performs answers OK with what the page reads as. -/
theorem cpRead_open (s : State) (p : PageRef) (off bytes : Nat) (v : W64) (req : Req)
    (h : s.Open p (decide (0x40 ≤ off)) req) (ho : off < 4096) (hb : bytes = 4 ∨ bytes = 8) (ha : off % bytes = 0) :
    s.cpAccess false (s.accessTo p off bytes v req) =
      { (s.pageRead p off bytes).1 with
        cp := { (s.pageRead p off bytes).1.cp with rsp := [⟨.ok, BitVec.ofNat 64 (s.pageRead p off bytes).2, 0⟩] } } := by
  have hP := accPage_accessTo s p off bytes v req h.inMap ho
  have hO := accPo_accessTo s p off bytes v req h.inMap ho
  have hA := accessTo_addr s p off bytes v req h.inMap ho
  have hal : (s.accessTo p off bytes v req).addr.toNat % bytes = 0 := by
    rw [hA]; rcases hb with rfl | rfl <;> omega
  have hst : s.stalls (s.accessTo p off bytes v req) = false := by
    simp [State.stalls, State.waitsOn, hP, h.nothingStalled, h.notInReset]
  have hre : s.reaches false p off req = true := by
    simp [State.reaches, h.administrator]
  have hbytes : (s.accessTo p off bytes v req).bytes = bytes := rfl
  have hreq : (s.accessTo p off bytes v req).req = req := rfl
  have hkeep : (s.keeperAnswers && !keeperServes (some p)) = false := by
    rcases h.served with ⟨h1, h2⟩ | h1
    · simp [State.keeperAnswers, h1, h2]
    · simp [keeperServes, h1]
  have hw : (s.pwr.phase == .waking) = false := by simpa using h.notWaking
  have hg : (s.gated p && decide (0x40 ≤ off)) = false := by
    by_cases hx : 0x40 ≤ off
    · simp [h.notGated (by simpa using hx)]
    · simp [hx]
  have hbb : ((bytes != 4 && bytes != 8) || (s.accessTo p off bytes v req).addr.toNat % bytes != 0) = false := by
    rw [hal]; rcases hb with rfl | rfl <;> rfl
  simp only [State.cpAccess, cpAddressed_accessTo s p off bytes v req h.inMap ho h.addressed, Bool.not_true,
    hst, State.cpDecide, hP, hO, hw, hkeep, State.cpServe, hbytes, hreq, hbb, hre, hg, State.perform,
    State.respond', Bool.and_false, Bool.false_and, if_false, if_true, Bool.false_eq_true]
  rfl

/-- A write of a header register that the port performs. -/
theorem hdrWrite_open (s : State) (p : PageRef) (off : Nat) (v : W32) (req : Req) (h : s.Open p false req)
    (ho : off < 0x40) (ha : off % 4 = 0) : s.hdrWrite p off v req = (s.headerWrite p off v true).answeredOk := by
  have hd : decide (0x40 ≤ off) = false := by simpa using ho
  have ht : touchesExpert p off 4 = false := by
    simp [touchesExpert, show off < 64 from ho]
  have hw := cpWrite_open s p off 4 (v.setWidth 64) req (hd ▸ h) (by omega) (Or.inl rfl) ha (fun _ => ho)
    (fun e => by rw [ht] at e; cases e)
  simp only [State.hdrWrite, State.onPage, h.inMap, if_true, State.cpWrite32, hw, State.pageWrite, ho]
  congr 2
  ext i hi
  simp

end Sys2Proof.Machine
end

