-- ==== Sys2Proof/Laws/Map.lean ====
section
/-! SUPPORT. The register map: which register stands at an offset, and what the port's write of a named register does. -/

namespace Sys2Proof.Machine

set_option Elab.async false

/-- How many instances of each register a page holds: at least one. -/
theorem count_pos (r : Reg) : 0 < r.desc.count := by
  cases r <;> exact Nat.succ_pos _

/-- The map on page instance j is the map on instance 0, with the numbers moved on. -/
theorem regAt_inst (k : PageKind) (j off : Nat) :
    regAt ⟨k, j⟩ off = (regAt ⟨k, 0⟩ off).map (fun x => (x.1, j * x.1.desc.count + x.2.1, x.2.2)) := by
  unfold regAt
  rw [List.map_findSome?]
  congr 1
  funext r
  dsimp only [Function.comp]
  generalize (if r.desc.stride = 0 then 0 else (off - r.desc.off) / r.desc.stride) = i
  generalize (if r.desc.wide = true then 8 else 4) = w
  by_cases h1 : (r.desc.page != k || decide (off < r.desc.off)) = true
  · simp only [h1, if_true, Option.map_none]
  · simp only [h1]
    by_cases h2 : (decide (r.desc.count ≤ i) || decide (w ≤ off - r.desc.off - i * r.desc.stride)) = true
    · simp [h2]
    · simp [h2]

/-- The registers of each page, in the order of the map. -/
def kindRegs : PageKind → List Reg
  | .tile => [.TILE_IDENT, .TILE_STATE, .TILE_CMD, .TILE_RESET_CAUSE, .TILE_WINDOW, .TILE_UID] ++
    [.TILE_FAULT_SUMMARY, .TILE_SCRATCH, .ACCESS_ERR_ADDR, .ACCESS_ERR_INFO, .TILE_WDOG_CTL, .TILE_WDOG_KICK] ++
    [.TILE_ERR_MODE, .TILE_TRANS_TMO, .TILE_SELFTEST, .TILE_SELFTEST_STS, .FAB_ERR_ADDR, .FAB_ERR_INFO] ++
    [.FAB_LATE, .FAB_OUTSTANDING, .FAB_XTMO]
  | .hatband => [.EPOCH_CUR, .EPOCH_PEND, .EPOCH_TIME, .EPOCH_LAST, .EPOCH_CTL, .EPOCH_STS] ++
    [.EPOCH_ARMED, .EPOCH_EXPECT, .EPOCH_RXOVL, .EPOCH_MISS, .EPOCH_MISS_HANDLE, .EPOCH_XGUARD] ++
    [.HB_STS, .HB_CELL_EN, .HB_WIRE_IN, .HB_TIME, .HB_TIME_INFO, .HB_TIME_STEP] ++
    [.HB_CNT, .HB_MSG_TX_DATA, .HB_MSG_TX_HI, .HB_MSG_TX_CTL, .HB_MSG_RX_DATA, .HB_MSG_RX_HI] ++
    [.HB_MSG_RX_STS, .HB_XTIME, .HB_XCELL]
  | .clock => [.CLK_STS, .CLK_REF_CFG, .CLK_CMD, .CLK_PLL_EN, .CLK_EN, .CLK_RUN] ++
    [.CLK_FB_CNT, .CLK_COMPAT, .CLK_RUN_EN, .CLK_SLEEP_EN, .CLK_DEEPSLEEP_EN, .CLK_XMON] ++
    [.CLK_XSWITCH]
  | .power => [.PWR_STS, .PWR_CMD, .PWR_SLEEP, .PWR_WAKE_CFG, .PWR_WAKE_CAUSE, .PWR_PARK] ++
    [.PWR_PARK_STS, .PWR_FAULT_INFO, .PWR_DOM_ON, .PWR_DOM_RET, .PWR_XSEQ]
  | .irq => [.IRQ_CTL, .IRQ_STS, .IRQ_FLUSH, .IRQ_MSG_CNT, .IRQ_PEND, .IRQ_SEL] ++
    [.IRQ_SEL_STS, .IRQ_VEC_CFG, .IRQ_XFORCE]
  | .tamper => [.TAMP_STS, .TAMP_CMD, .TAMP_QUAL_CLR, .TAMP_SENS_STS, .TAMP_QUAL, .TAMP_LAST] ++
    [.FLT_FUNC, .FLT_FUNC_FORCE, .FLT_DIRTY_LOST, .FLT_LOG_IDX, .FLT_LOG, .TAMP_XIN_CFG] ++
    [.TAMP_XSENS_CFG, .TAMP_XQUAL]
  | .rng => [.RNG_CELL_EN, .RNG_STS, .RNG_RESEED_CFG, .RNG_RESEED_CNT, .RNG_PRIV_RESERVE, .RNG_HEALTH_CFG] ++
    [.RNG_TMO, .RNG_CELL_FLAGS, .RNG_SW_DATA, .RNG_EST_CFG, .RNG_RESEEDS, .RNG_CELL_CNT] ++
    [.RNG_CELL_EST, .RNG_XRAW, .RNG_XRAW_BASE, .RNG_XRAW_STS, .RNG_XCELL]
  | .key => [.KEY_STS, .KEY_CMD, .KEY_PORT_STS, .KEY_POUNCE_STS, .KEY_POUNCE_CNT, .KEY_POUNCE_LAST] ++
    [.KEY_COUNTS, .KEY_SESSION, .KEY_ATT_CHAL, .KEY_ATT_STS, .KEY_ATT_MSG, .KEY_ATT_RESP] ++
    [.KEY_FGEN, .KEY_XPOUNCE, .KEY_XPORT]
  | .ctx => [.CTX_STORE_BASE, .CTX_TREE_BASE, .CTX_CFG, .CTX_STS, .CTX_OCC, .CTX_TREE_INFO] ++
    [.CTX_CMD, .CTX_CMD_STS, .CTX_SWEEP, .CTX_PN_MARGIN, .CTX_LEARN_BASE, .CTX_LEARN_MIRROR] ++
    [.CTX_LEARN_CFG, .CTX_LEARN_CONS, .CTX_LEARN_DROP, .CTX_ERR_HANDLE, .CTX_ERR_INFO, .CTX_PN_HANDLE] ++
    [.CTX_BAD, .CTX_XSWEEP, .CTX_XMISS]
  | .qeng => [.QENG_CTL, .QENG_STS, .QENG_RES, .QENG_RR, .QENG_TORN_LAST, .QENG_TORN_CNT] ++
    [.QENG_FENCED, .QENG_XFETCH]
  | .crown => [.CROWN_STS, .CROWN_POOL, .CROWN_POOL_HWM, .CROWN_STALL_CNT, .CROWN_PTR, .CROWN_XPRIO]
  | .digest => [.DG_STS, .DG_SLICE, .DG_HOLD, .DG_HOLD_CNT, .DG_SLOTS, .DG_ERR_INFO] ++
    [.DG_RES_FUNC, .DG_SAVE_BASE, .DG_SAVE_CTL, .DG_SAVE_STS, .DG_XRESERVE]
  | .bignum => [.BN_STS, .BN_SLICE, .BN_IDLE, .BN_ERR_INFO, .BN_CHECK, .BN_CHAN_CFG] ++
    [.BN_XRNG, .BN_XRESPLIT, .BN_XINJECT]
  | .dma => [.DMA_STS, .DMA_ARB, .DMA_XRECOVER]
  | .perf => [.PERF_STS, .PERF_TAG_CFG, .PERF_TRC_BASE, .PERF_TRC_MIRROR, .PERF_TRC_CFG, .PERF_TRC_CONS] ++
    [.PERF_WATCH, .PERF_CNT, .PERF_XFREEZE]
  | .result => []
  | .lane => [.LANE_STS, .LANE_ERR, .LANE_CHECK, .LANE_XINJECT, .LANE_XCHECK]
  | .quad => [.QUAD_LANE_EN, .QUAD_STS, .QUAD_STAGE_HWM, .QUAD_REPLAY, .QUAD_AFAIL, .QUAD_AFAIL_CNT] ++
    [.QUAD_XLANE]
  | .dcore => [.DCORE_STS, .DCORE_ERR, .DCORE_CHECK, .DCORE_BLOCKS, .DCORE_XINJECT]
  | .dmaChannel => [.DCH_CFG, .DCH_CTL, .DCH_STS, .DCH_ARM, .DCH_SHD_CTL, .DCH_SHD_SRC] ++
    [.DCH_SHD_DST, .DCH_CUR_CTL, .DCH_CUR_SRC, .DCH_CUR_DST, .DCH_CUR_MOVED, .DCH_ERR] ++
    [.DCH_LAST, .DCH_RING_BASE, .DCH_RING_HEAD, .DCH_X2D_SRC, .DCH_X2D_DST]
  | .rq => [.RQ_BASE, .RQ_CFG, .RQ_SCHED, .RQ_POLL, .RQ_HEAD, .RQ_STS] ++
    [.RQ_KICK, .RQ_ERR, .RQ_XPREF, .RQ_XDOZE, .RQ_XTORN]
  | .cq => [.CQ_BASE, .CQ_MIRROR, .CQ_HEAD, .CQ_CFG, .CQ_CONS, .CQ_STS] ++
    [.CQ_ERR, .CQ_XQUOTA, .CQ_XCOALESCE]
  | .function => [.FN_RQ_SEL, .FN_RQ_VIEW, .FN_RQ_HEAD, .FN_RQ_KICK, .FN_RQ_OWNED, .FN_CQ_SEL] ++
    [.FN_CQ_VIEW, .FN_CQ_CONS, .FN_CQ_OWNED, .FN_TRC_BASE, .FN_TRC_MIRROR, .FN_TRC_CFG] ++
    [.FN_TRC_CONS, .FN_PERF_GEN, .FN_CNT]


/-- They are those of the map. -/
theorem kindRegs_eq (k : PageKind) : allRegs.filter (fun r => r.desc.page == k) = kindRegs k := by
  cases k <;> decide +kernel

/-- What the map has to say of one register for an offset of a page. -/
def regHit (p : PageRef) (off : Nat) (r : Reg) : Option (Reg × Nat × Bool) :=
  let d := r.desc
  if d.page != p.kind || off < d.off then none
  else
    let i := if d.stride = 0 then 0 else (off - d.off) / d.stride
    let b := (off - d.off) - i * d.stride
    if d.count ≤ i || (if d.wide then 8 else 4) ≤ b then none else some (r, p.inst * d.count + i, decide (4 ≤ b))

/-- The map looks at the registers of the page alone. -/
theorem regAt_eq (p : PageRef) (off : Nat) : regAt p off = (kindRegs p.kind).findSome? (regHit p off) := by
  rw [← kindRegs_eq]
  show allRegs.findSome? (regHit p off) = _
  induction allRegs with
  | nil => rfl
  | cons r t ih =>
    by_cases h : r.desc.page = p.kind
    · have hb : (r.desc.page == p.kind) = true := by simpa using h
      simp only [List.findSome?_cons, List.filter_cons, hb, if_true, ih]
    · have hb : (r.desc.page == p.kind) = false := by simpa using h
      have hn : regHit p off r = none := by simp [regHit, h]
      simp only [List.findSome?_cons, List.filter_cons, hb, hn, ih, Bool.false_eq_true, if_false]

/-- On instance 0 of a page, every instance of its registers stands at its offset. -/
def mapGood (k : PageKind) : Bool :=
  (kindRegs k).all (fun r => (List.range r.desc.count).all (fun i =>
    decide ((kindRegs k).findSome? (regHit ⟨k, 0⟩ (r.desc.off + i * r.desc.stride)) = some (r, i, false))))

theorem mapGood_all (k : PageKind) : mapGood k = true := by cases k <;> decide +kernel

/-- The number of a register is its place in the map. -/
theorem allRegs_idx (r : Reg) : allRegs[r.idx]? = some r := by cases r <;> rfl

theorem mem_allRegs (r : Reg) : r ∈ allRegs := List.mem_of_getElem? (allRegs_idx r)

/-- Every register is one of its page's. -/
theorem mem_kindRegs (r : Reg) : r ∈ kindRegs r.desc.page := by
  rw [← kindRegs_eq]
  simp only [List.mem_filter, beq_self_eq_true, and_true]
  exact mem_allRegs r

/-- Every register stands at its place in the map. -/
theorem regAt_reg (r : Reg) (n : Nat) : regAt (regPage r n) (regOff r n) = some (r, n, false) := by
  have h := mapGood_all r.desc.page
  simp only [mapGood, List.all_eq_true, List.mem_range, decide_eq_true_eq] at h
  have h := h r (mem_kindRegs r) (n % r.desc.count) (Nat.mod_lt _ (count_pos r))
  rw [regPage, regAt_inst, regAt_eq]
  simp only [regOff, h, Option.map_some]
  rw [Nat.mul_comm, Nat.div_add_mod]

/-- Offsets of registers lie in a page's body, on words, those of 64-bit registers on double words. -/
def offGood (r : Reg) : Bool :=
  decide (0x40 ≤ r.desc.off) && decide (r.desc.off + r.desc.count * r.desc.stride + 8 ≤ 4104) &&
    decide (r.desc.off % 4 = 0) && decide (r.desc.stride % 4 = 0) && decide (r.desc.off < 4096) &&
    (!r.desc.wide || (decide (r.desc.off % 8 = 0) && decide (r.desc.stride % 8 = 0))) && r.desc.page != .result

theorem offGood_all (r : Reg) : offGood r = true :=
  List.all_eq_true.mp (show allRegs.all offGood = true by decide +kernel) r (mem_allRegs r)

theorem regOff_ge (r : Reg) (n : Nat) : 0x40 ≤ regOff r n := by
  have h := offGood_all r
  simp only [offGood, Bool.and_eq_true, decide_eq_true_eq] at h
  unfold regOff
  omega

theorem regOff_lt (r : Reg) (n : Nat) : regOff r n < 4096 := by
  have h := offGood_all r
  simp only [offGood, Bool.and_eq_true, decide_eq_true_eq] at h
  have hc := Nat.mod_lt n (count_pos r)
  unfold regOff
  have hm : n % r.desc.count * r.desc.stride + r.desc.stride ≤ r.desc.count * r.desc.stride := by
    rw [← Nat.succ_mul]; exact Nat.mul_le_mul_right _ hc
  rcases Nat.eq_zero_or_pos r.desc.stride with h0 | h0
  · simp only [h0, Nat.mul_zero]; omega
  · omega

theorem regOff_mod4 (r : Reg) (n : Nat) : regOff r n % 4 = 0 := by
  have h := offGood_all r
  simp only [offGood, Bool.and_eq_true, decide_eq_true_eq] at h
  have hm : n % r.desc.count * r.desc.stride % 4 = 0 := by
    rw [Nat.mul_mod, h.1.1.1.2, Nat.mul_zero, Nat.zero_mod]
  unfold regOff
  omega

theorem regOff_mod8 (r : Reg) (n : Nat) (hw : r.desc.wide = true) : regOff r n % 8 = 0 := by
  have h := offGood_all r
  simp only [offGood, Bool.and_eq_true, decide_eq_true_eq, hw, Bool.not_true, Bool.false_or] at h
  have hm : n % r.desc.count * r.desc.stride % 8 = 0 := by
    rw [Nat.mul_mod, h.1.2.2, Nat.mul_zero, Nat.zero_mod]
  unfold regOff
  omega

theorem page_not_result (r : Reg) (n : Nat) : (regPage r n).kind ≠ PageKind.result := by
  have h := offGood_all r
  simp only [offGood, Bool.and_eq_true, bne_iff_ne, ne_eq] at h
  exact h.2

/-- A word access to a register touches the expert region where the register does. -/
theorem touchesExpert_reg (r : Reg) (n : Nat) :
    touchesExpert (regPage r n) (regOff r n) 4 = r.desc.flds.any (fun f => f.acc == .rwx) := by
  have h1 := regOff_ge r n
  simp [touchesExpert, regAt_reg, show ¬ regOff r n < 64 by omega, List.range_succ]

/-- A write of a named register that the port performs is a write of that register, answered OK (R28, R29, R36). -/
theorem cpReg_open (s : State) (r : Reg) (n : Nat) (v : W32) (req : Req) (h : s.OpenReg r n req) :
    s.cpReg r n v req = (s.writeReg r n (v.setWidth 64) 0xFFFFFFFF).answeredOk := by
  have h1 := regOff_ge r n
  have hb : decide (0x40 ≤ regOff r n) = true := by simpa using h1
  show s.cpAccess true (s.accessTo (regPage r n) (regOff r n) 4 (v.setWidth 64) req) = _
  rw [cpWrite_open s _ _ 4 _ req (hb ▸ h.page) (regOff_lt r n) (Or.inl rfl) (regOff_mod4 r n)
    (fun e => absurd e (page_not_result r n))
    (fun e => h.unlocked (touchesExpert_reg r n ▸ e))]
  have hn : ¬ regOff r n < 64 := by omega
  have hk : ((regPage r n).kind == PageKind.result) = false := by simpa using page_not_result r n
  simp only [State.pageWrite, if_true, hn, if_false, State.wordWrite, regAt_reg, hk, Bool.false_eq_true]
  congr 2
  ext i hi
  simp

end Sys2Proof.Machine
end

