-- ==== Sys2Proof/Laws/Tbl.lean ====
section
/-! SUPPORT. The laws of the tables: what a read gives after a write, and that writes keep the canonical form. -/

namespace Sys2Proof.Machine

set_option Elab.async false

variable {α : Type}

theorem Tbl.get_del_same (d : α) (t : Tbl α) (k : Nat) : Tbl.get d (Tbl.del t k) k = d := by
  induction t with
  | nil => rfl
  | cons e t ih =>
    by_cases h : e.1 = k <;> simp [Tbl.del, Tbl.get, h, ih]

theorem Tbl.get_del_ne (d : α) (t : Tbl α) {k j : Nat} (h : j ≠ k) : Tbl.get d (Tbl.del t k) j = Tbl.get d t j := by
  induction t with
  | nil => rfl
  | cons e t ih =>
    by_cases hk : e.1 = k
    · have : e.1 ≠ j := fun e' => h (e'.symm.trans hk)
      simp [Tbl.del, Tbl.get, hk, ih]; simp [← hk, this]
    · simp only [Tbl.del, hk, if_false, Tbl.get, ih]

/-- A key that is not listed reads as the default. -/
theorem Tbl.get_ins_same (d : α) (t : Tbl α) (k : Nat) (v : α) (h : ∀ e ∈ t, e.1 ≠ k) :
    Tbl.get d (Tbl.ins t k v) k = v := by
  induction t with
  | nil => simp [Tbl.ins, Tbl.get]
  | cons e t ih =>
    have he : e.1 ≠ k := h e (by simp)
    by_cases hk : k < e.1
    · simp [Tbl.ins, Tbl.get, hk]
    · simp [Tbl.ins, Tbl.get, hk, he, ih (fun e' h' => h e' (by simp [h']))]

theorem Tbl.get_ins_ne (d : α) (t : Tbl α) (k : Nat) (v : α) {j : Nat} (h : j ≠ k) :
    Tbl.get d (Tbl.ins t k v) j = Tbl.get d t j := by
  induction t with
  | nil => simp [Tbl.ins, Tbl.get, Ne.symm h]
  | cons e t ih =>
    by_cases hk : k < e.1
    · simp [Tbl.ins, Tbl.get, hk, Ne.symm h]
    · simp only [Tbl.ins, hk, if_false, Tbl.get, ih]

theorem Tbl.del_ne (t : Tbl α) (k : Nat) : ∀ e ∈ Tbl.del t k, e.1 ≠ k := by
  induction t with
  | nil => simp [Tbl.del]
  | cons e t ih =>
    by_cases h : e.1 = k
    · simpa [Tbl.del, h] using ih
    · simpa [Tbl.del, h] using ih

/-- A read after a write of the same key gives the value written. -/
@[simp] theorem Tbl.get_set_same [DecidableEq α] (d : α) (t : Tbl α) (k : Nat) (v : α) :
    Tbl.get d (Tbl.set d t k v) k = v := by
  unfold Tbl.set
  split
  · next h => rw [Tbl.get_del_same, h]
  · exact Tbl.get_ins_same d _ k v (Tbl.del_ne t k)

/-- A write leaves every other key alone. -/
theorem Tbl.get_set_ne [DecidableEq α] (d d' : α) (t : Tbl α) (k : Nat) (v : α) {j : Nat} (h : j ≠ k) :
    Tbl.get d' (Tbl.set d t k v) j = Tbl.get d' t j := by
  unfold Tbl.set
  split
  · exact Tbl.get_del_ne d' t h
  · rw [Tbl.get_ins_ne d' _ k v h, Tbl.get_del_ne d' t h]

/-! ## The canonical form -/

theorem Tbl.above_mono (t : Tbl α) {m n : Nat} (h : m ≤ n) (ha : Tbl.above t n = true) : Tbl.above t m = true := by
  cases t with
  | nil => rfl
  | cons e t =>
    simp only [Tbl.above, Bool.and_eq_true, decide_eq_true_eq] at ha ⊢
    exact ⟨by omega, ha.2⟩

theorem Tbl.above_del (t : Tbl α) (k m : Nat) (h : Tbl.above t m = true) : Tbl.above (Tbl.del t k) m = true := by
  induction t generalizing m with
  | nil => rfl
  | cons e t ih =>
    simp only [Tbl.above, Bool.and_eq_true, decide_eq_true_eq] at h
    by_cases hk : e.1 = k
    · simp only [Tbl.del, hk, if_true]
      exact ih m (Tbl.above_mono t (by omega) h.2)
    · simp only [Tbl.del, hk, if_false, Tbl.above, Bool.and_eq_true, decide_eq_true_eq]
      exact ⟨h.1, ih _ h.2⟩

theorem Tbl.above_ins (t : Tbl α) (k m : Nat) (v : α) (hk : m < k) (hn : ∀ e ∈ t, e.1 ≠ k) (h : Tbl.above t m = true) :
    Tbl.above (Tbl.ins t k v) m = true := by
  induction t generalizing m with
  | nil => simp [Tbl.ins, Tbl.above, hk]
  | cons e t ih =>
    simp only [Tbl.above, Bool.and_eq_true, decide_eq_true_eq] at h
    by_cases hl : k < e.1
    · simp [Tbl.ins, hl, Tbl.above, hk, h.2]
    · have he : e.1 ≠ k := hn e (by simp)
      simp only [Tbl.ins, hl, if_false, Tbl.above, Bool.and_eq_true, decide_eq_true_eq]
      exact ⟨h.1, ih e.1 (by omega) (fun e' h' => hn e' (by simp [h'])) h.2⟩

theorem Tbl.rising_iff (t : Tbl α) : Tbl.rising t = true ↔ t = [] ∨ ∃ e u, t = e :: u ∧ Tbl.above u e.1 = true := by
  cases t with
  | nil => simp [Tbl.rising]
  | cons e u => simp [Tbl.rising]

theorem Tbl.rising_of_above (t : Tbl α) (m : Nat) (h : Tbl.above t m = true) : Tbl.rising t = true := by
  cases t with
  | nil => rfl
  | cons e u =>
    simp only [Tbl.above, Bool.and_eq_true] at h
    exact h.2

theorem Tbl.rising_del (t : Tbl α) (k : Nat) (h : Tbl.rising t = true) : Tbl.rising (Tbl.del t k) = true := by
  cases t with
  | nil => rfl
  | cons e u =>
    simp only [Tbl.rising] at h
    by_cases hk : e.1 = k
    · simp only [Tbl.del, hk, if_true]
      exact Tbl.rising_of_above _ e.1 (Tbl.above_del u k _ h)
    · simp only [Tbl.del, hk, if_false, Tbl.rising]
      exact Tbl.above_del u k _ h

theorem Tbl.rising_ins (t : Tbl α) (k : Nat) (v : α) (hn : ∀ e ∈ t, e.1 ≠ k) (h : Tbl.rising t = true) :
    Tbl.rising (Tbl.ins t k v) = true := by
  cases t with
  | nil => rfl
  | cons e u =>
    simp only [Tbl.rising] at h
    have he : e.1 ≠ k := hn e (by simp)
    by_cases hl : k < e.1
    · simp [Tbl.ins, hl, Tbl.rising, Tbl.above, h]
    · simp only [Tbl.ins, hl, if_false, Tbl.rising]
      exact Tbl.above_ins u k e.1 v (by omega) (fun e' h' => hn e' (by simp [h'])) h

theorem Tbl.mem_del (t : Tbl α) (k : Nat) (e : Nat × α) (h : e ∈ Tbl.del t k) : e ∈ t := by
  induction t with
  | nil => simp [Tbl.del] at h
  | cons e' t ih =>
    by_cases hk : e'.1 = k
    · simp only [Tbl.del, hk, if_true] at h; simp [ih h]
    · simp only [Tbl.del, hk, if_false, List.mem_cons] at h
      rcases h with rfl | h
      · simp
      · simp [ih h]

theorem Tbl.mem_ins (t : Tbl α) (k : Nat) (v : α) (e : Nat × α) (h : e ∈ Tbl.ins t k v) : e = (k, v) ∨ e ∈ t := by
  induction t with
  | nil => simpa [Tbl.ins] using h
  | cons e' t ih =>
    by_cases hk : k < e'.1
    · simpa [Tbl.ins, hk] using h
    · simp only [Tbl.ins, hk, if_false, List.mem_cons] at h ⊢
      rcases h with rfl | h
      · simp
      · rcases ih h with h | h <;> simp [h]

/-- A write keeps the canonical form. -/
theorem Tbl.wf_set [DecidableEq α] (d : Nat → α) (t : Tbl α) (k : Nat) (v : α) (h : Tbl.wf d t = true) :
    Tbl.wf d (Tbl.set (d k) t k v) = true := by
  simp only [Tbl.wf, Bool.and_eq_true, List.all_eq_true, decide_eq_true_eq] at h ⊢
  unfold Tbl.set
  split
  · exact ⟨Tbl.rising_del t k h.1, fun e he => h.2 e (Tbl.mem_del t k e he)⟩
  · next hv =>
    refine ⟨Tbl.rising_ins _ k v (Tbl.del_ne t k) (Tbl.rising_del t k h.1), fun e he => ?_⟩
    rcases Tbl.mem_ins _ k v e he with rfl | he
    · exact hv
    · exact h.2 e (Tbl.mem_del t k e he)

theorem Tbl.above_filter (t : Tbl α) (p : Nat × α → Bool) (m : Nat) (h : Tbl.above t m = true) :
    Tbl.above (t.filter p) m = true := by
  induction t generalizing m with
  | nil => rfl
  | cons e t ih =>
    simp only [Tbl.above, Bool.and_eq_true, decide_eq_true_eq] at h
    by_cases hp : p e = true
    · simp only [List.filter_cons, hp, if_true, Tbl.above, Bool.and_eq_true, decide_eq_true_eq]
      exact ⟨h.1, ih _ h.2⟩
    · simp only [List.filter_cons, hp]
      exact ih m (Tbl.above_mono t (by omega) h.2)

/-- Taking entries away keeps the canonical form. -/
theorem Tbl.wf_filter [DecidableEq α] (d : Nat → α) (t : Tbl α) (p : Nat × α → Bool) (h : Tbl.wf d t = true) :
    Tbl.wf d (t.filter p) = true := by
  simp only [Tbl.wf, Bool.and_eq_true, List.all_eq_true, decide_eq_true_eq, List.mem_filter] at h ⊢
  refine ⟨?_, fun e he => h.2 e he.1⟩
  cases t with
  | nil => rfl
  | cons e u =>
    have hr := h.1
    simp only [Tbl.rising] at hr
    by_cases hp : p e = true
    · simp only [List.filter_cons, hp, if_true, Tbl.rising]
      exact Tbl.above_filter u p _ hr
    · simp only [List.filter_cons, hp]
      exact Tbl.rising_of_above _ e.1 (Tbl.above_filter u p _ hr)

end Sys2Proof.Machine
end

