-- ==== Sys2Proof/Laws/Within.lean ====
section
/-! SUPPORT. How the frame of an operation (State.Within) is put together from those of the operations it calls. -/

namespace Sys2Proof.Machine

set_option Elab.async false

variable {F : Part → Bool} {s t u : State}

/-- All parts of a list may change. -/
def Part.All (F : Part → Bool) (l : List Part) : Prop := ∀ p ∈ l, F p = true

/-- One list of parts lies in another. -/
def Part.sub (l k : List Part) : Bool := l.all (fun p => k.contains p)

theorem Part.All.mono {l k : List Part} (h : Part.All F k) (e : Part.sub l k = true) : Part.All F l := by
  intro p hp
  have := List.all_eq_true.mp e p hp
  exact h p (List.contains_iff_mem.mp this)

theorem Part.All.one {p : Part} {k : List Part} (h : Part.All F k) (e : k.contains p = true) : F p = true :=
  h p (List.contains_iff_mem.mp e)

theorem Part.all_only (l : List Part) : Part.All (only l) l := fun _ hp => List.contains_iff_mem.mpr hp

theorem no_change {p : Part} {P : Prop} (h : F p = true) (e : F p = false) : P := by rw [h] at e; cases e

theorem Within.refl (s : State) : s.Within F s where
  pending := rfl
  base := rfl
  job := Nat.le_refl _
  free := Nat.le_refl _
  canonical := id
  addr := fun _ => rfl
  tile := fun _ => rfl
  config := fun _ _ _ _ => rfl
  custody := fun _ => ⟨rfl, rfl, rfl⟩
  key := fun _ => rfl
  blocks := fun _ _ => rfl
  pwr := fun _ => rfl
  cp := fun _ => rfl
  regs := fun _ => rfl
  hdrs := fun _ => rfl
  irq := fun _ => rfl
  qeng := fun _ => rfl
  crown := fun _ => rfl
  fab := fun _ => rfl
  frames := fun _ => rfl
  ctx := fun _ => rfl
  epoch := fun _ => rfl
  digest := fun _ => rfl
  bignum := fun _ => rfl
  rng := fun _ => rfl
  dma := fun _ => rfl
  hb := fun _ => rfl
  clk := fun _ => rfl
  tamp := fun _ => rfl
  perf := fun _ => rfl
  wrap := fun _ => rfl
  finishes := fun _ => rfl

theorem Within.trans (h : s.Within F t) (k : t.Within F u) : s.Within F u where
  pending := k.pending.trans h.pending
  base := k.base.trans h.base
  job := Nat.le_trans h.job k.job
  free := Nat.le_trans h.free k.free
  canonical := fun c => k.canonical (h.canonical c)
  addr := fun e => (k.addr e).trans (h.addr e)
  tile := fun e => (k.tile e).trans (h.tile e)
  config := fun e r n c => (k.config e r n c).trans (h.config e r n c)
  custody := fun e => ⟨(k.custody e).1.trans (h.custody e).1, (k.custody e).2.1.trans (h.custody e).2.1,
    (k.custody e).2.2.trans (h.custody e).2.2⟩
  key := fun e => (k.key e).trans (h.key e)
  blocks := fun e p => (k.blocks e p).trans (h.blocks e p)
  pwr := fun e => (k.pwr e).trans (h.pwr e)
  cp := fun e => (k.cp e).trans (h.cp e)
  regs := fun e => (k.regs e).trans (h.regs e)
  hdrs := fun e => (k.hdrs e).trans (h.hdrs e)
  irq := fun e => (k.irq e).trans (h.irq e)
  qeng := fun e => (k.qeng e).trans (h.qeng e)
  crown := fun e => (k.crown e).trans (h.crown e)
  fab := fun e => (k.fab e).trans (h.fab e)
  frames := fun e => (k.frames e).trans (h.frames e)
  ctx := fun e => (k.ctx e).trans (h.ctx e)
  epoch := fun e => (k.epoch e).trans (h.epoch e)
  digest := fun e => (k.digest e).trans (h.digest e)
  bignum := fun e => (k.bignum e).trans (h.bignum e)
  rng := fun e => (k.rng e).trans (h.rng e)
  dma := fun e => (k.dma e).trans (h.dma e)
  hb := fun e => (k.hb e).trans (h.hb e)
  clk := fun e => (k.clk e).trans (h.clk e)
  tamp := fun e => (k.tamp e).trans (h.tamp e)
  perf := fun e => (k.perf e).trans (h.perf e)
  wrap := fun e => (k.wrap e).trans (h.wrap e)
  finishes := fun e => (k.finishes e).trans (h.finishes e)

/-- More parts may change. -/
theorem Within.wider {G : Part → Bool} (h : s.Within F t) (e : ∀ p, F p = true → G p = true) : s.Within G t where
  pending := h.pending
  base := h.base
  job := h.job
  free := h.free
  canonical := h.canonical
  addr := fun d => h.addr (Bool.eq_false_iff.mpr (fun c => Bool.eq_false_iff.mp d (e _ c)))
  tile := fun d => h.tile (Bool.eq_false_iff.mpr (fun c => Bool.eq_false_iff.mp d (e _ c)))
  config := fun d => h.config (Bool.eq_false_iff.mpr (fun c => Bool.eq_false_iff.mp d (e _ c)))
  custody := fun d => h.custody (Bool.eq_false_iff.mpr (fun c => Bool.eq_false_iff.mp d (e _ c)))
  key := fun d => h.key (Bool.eq_false_iff.mpr (fun c => Bool.eq_false_iff.mp d (e _ c)))
  blocks := fun d => h.blocks (Bool.eq_false_iff.mpr (fun c => Bool.eq_false_iff.mp d (e _ c)))
  pwr := fun d => h.pwr (Bool.eq_false_iff.mpr (fun c => Bool.eq_false_iff.mp d (e _ c)))
  cp := fun d => h.cp (Bool.eq_false_iff.mpr (fun c => Bool.eq_false_iff.mp d (e _ c)))
  regs := fun d => h.regs (Bool.eq_false_iff.mpr (fun c => Bool.eq_false_iff.mp d (e _ c)))
  hdrs := fun d => h.hdrs (Bool.eq_false_iff.mpr (fun c => Bool.eq_false_iff.mp d (e _ c)))
  irq := fun d => h.irq (Bool.eq_false_iff.mpr (fun c => Bool.eq_false_iff.mp d (e _ c)))
  qeng := fun d => h.qeng (Bool.eq_false_iff.mpr (fun c => Bool.eq_false_iff.mp d (e _ c)))
  crown := fun d => h.crown (Bool.eq_false_iff.mpr (fun c => Bool.eq_false_iff.mp d (e _ c)))
  fab := fun d => h.fab (Bool.eq_false_iff.mpr (fun c => Bool.eq_false_iff.mp d (e _ c)))
  frames := fun d => h.frames (Bool.eq_false_iff.mpr (fun c => Bool.eq_false_iff.mp d (e _ c)))
  ctx := fun d => h.ctx (Bool.eq_false_iff.mpr (fun c => Bool.eq_false_iff.mp d (e _ c)))
  epoch := fun d => h.epoch (Bool.eq_false_iff.mpr (fun c => Bool.eq_false_iff.mp d (e _ c)))
  digest := fun d => h.digest (Bool.eq_false_iff.mpr (fun c => Bool.eq_false_iff.mp d (e _ c)))
  bignum := fun d => h.bignum (Bool.eq_false_iff.mpr (fun c => Bool.eq_false_iff.mp d (e _ c)))
  rng := fun d => h.rng (Bool.eq_false_iff.mpr (fun c => Bool.eq_false_iff.mp d (e _ c)))
  dma := fun d => h.dma (Bool.eq_false_iff.mpr (fun c => Bool.eq_false_iff.mp d (e _ c)))
  hb := fun d => h.hb (Bool.eq_false_iff.mpr (fun c => Bool.eq_false_iff.mp d (e _ c)))
  clk := fun d => h.clk (Bool.eq_false_iff.mpr (fun c => Bool.eq_false_iff.mp d (e _ c)))
  tamp := fun d => h.tamp (Bool.eq_false_iff.mpr (fun c => Bool.eq_false_iff.mp d (e _ c)))
  perf := fun d => h.perf (Bool.eq_false_iff.mpr (fun c => Bool.eq_false_iff.mp d (e _ c)))
  wrap := fun d => h.wrap (Bool.eq_false_iff.mpr (fun c => Bool.eq_false_iff.mp d (e _ c)))
  finishes := fun d => h.finishes (Bool.eq_false_iff.mpr (fun c => Bool.eq_false_iff.mp d (e _ c)))

/-! ## A change of one part -/

theorem within_cp {x} (hF : F .cp = true) (h : s.Within F t) : s.Within F { t with cp := x } :=
  { h with cp := no_change hF }

theorem within_irq {x} (hF : F .irq = true) (h : s.Within F t) : s.Within F { t with irq := x } :=
  { h with irq := no_change hF }

theorem within_qeng {x} (hF : F .qeng = true) (h : s.Within F t) : s.Within F { t with qeng := x } :=
  { h with qeng := no_change hF }

theorem within_crown {x} (hF : F .crown = true) (h : s.Within F t) : s.Within F { t with crown := x } :=
  { h with crown := no_change hF }

theorem within_fab {x} (hF : F .fab = true) (h : s.Within F t) : s.Within F { t with fab := x } :=
  { h with fab := no_change hF }

theorem within_frames {x} (hF : F .frames = true) (h : s.Within F t) : s.Within F { t with frames := x } :=
  { h with frames := no_change hF }

theorem within_ctx {x} (hF : F .ctx = true) (h : s.Within F t) : s.Within F { t with ctx := x } :=
  { h with ctx := no_change hF }

theorem within_epoch {x} (hF : F .epoch = true) (h : s.Within F t) : s.Within F { t with epoch := x } :=
  { h with epoch := no_change hF }

theorem within_digest {x} (hF : F .digest = true) (h : s.Within F t) : s.Within F { t with digest := x } :=
  { h with digest := no_change hF }

theorem within_bignum {x} (hF : F .bignum = true) (h : s.Within F t) : s.Within F { t with bignum := x } :=
  { h with bignum := no_change hF }

theorem within_rng {x} (hF : F .rng = true) (h : s.Within F t) : s.Within F { t with rng := x } :=
  { h with rng := no_change hF }

theorem within_dma {x} (hF : F .dma = true) (h : s.Within F t) : s.Within F { t with dma := x } :=
  { h with dma := no_change hF }

theorem within_hb {x} (hF : F .hb = true) (h : s.Within F t) : s.Within F { t with hb := x } :=
  { h with hb := no_change hF }

theorem within_clk {x} (hF : F .clk = true) (h : s.Within F t) : s.Within F { t with clk := x } :=
  { h with clk := no_change hF }

theorem within_tamp {x} (hF : F .tamp = true) (h : s.Within F t) : s.Within F { t with tamp := x } :=
  { h with tamp := no_change hF }

theorem within_perf {x} (hF : F .perf = true) (h : s.Within F t) : s.Within F { t with perf := x } :=
  { h with perf := no_change hF }

theorem within_wrap {x} (hF : F .wrap = true) (h : s.Within F t) : s.Within F { t with wrap := x } :=
  { h with wrap := no_change hF }

theorem within_finishes {x} (hF : F .finishes = true) (h : s.Within F t) : s.Within F { t with finishes := x } :=
  { h with finishes := no_change hF }

theorem within_tile {x : Tile} (hF : F .tile = true) (h : s.Within F t) (hb : x.windowBase = t.tile.windowBase := by rfl)
    (ha : x.addr = t.tile.addr := by rfl) : s.Within F { t with tile := x } :=
  { h with tile := no_change hF, base := hb.trans h.base, addr := fun e => ha.trans (h.addr e) }

theorem within_addr {x : Tile} (hA : F .addr = true) (hF : F .tile = true) (h : s.Within F t)
    (hb : x.windowBase = t.tile.windowBase := by rfl) : s.Within F { t with tile := x } :=
  { h with tile := no_change hF, base := hb.trans h.base, addr := no_change hA }

theorem within_key {x : Key} (hF : F .key = true) (h : s.Within F t) (hr : x.root = t.key.root := by rfl)
    (hw : x.wrap = t.key.wrap := by rfl) (ht : x.tree = t.key.tree := by rfl) : s.Within F { t with key := x } :=
  { h with
    key := no_change hF
    custody := fun e => ⟨hr.trans (h.custody e).1, hw.trans (h.custody e).2.1, ht.trans (h.custody e).2.2⟩ }

theorem within_custody {x : Key} (hC : F .custody = true) (hF : F .key = true) (h : s.Within F t) :
    s.Within F { t with key := x } :=
  { h with key := no_change hF, custody := no_change hC }

theorem within_pwr {x : Pwr} (hF : F .pwr = true) (h : s.Within F t) : s.Within F { t with pwr := x } :=
  { h with pwr := no_change hF }

theorem within_latched {l : List (Nat × Nat)} (h : s.Within F t) :
    s.Within F { t with pwr := { t.pwr with latched := l } } :=
  { h with pwr := fun e => h.pwr e }

theorem within_free {n : Nat} (h : s.Within F t) (hn : t.freeCtr ≤ n := by exact Nat.le_succ _) :
    s.Within F { t with freeCtr := n } :=
  { h with free := Nat.le_trans h.free hn }

theorem within_nextJob {n : Nat} (h : s.Within F t) (hn : t.nextJob ≤ n := by exact Nat.le_succ _) :
    s.Within F { t with nextJob := n } :=
  { h with job := Nat.le_trans h.job hn }

/-- A change of several parts: each part is as it was, or may change. -/
theorem within_mk {tile' cp' irq' qeng' crown' fab' frames' ctx' epoch' digest' bignum' rng' key' dma' hb' clk' pwr' tamp' perf' wrap' finishes' nextJob' freeCtr'}
    (h : s.Within F t)
    (htile : F .tile = true ∨ tile' = t.tile)
    (haddr : F .addr = true ∨ tile'.addr = t.tile.addr)
    (hcp : F .cp = true ∨ cp' = t.cp)
    (hirq : F .irq = true ∨ irq' = t.irq)
    (hqeng : F .qeng = true ∨ qeng' = t.qeng)
    (hcrown : F .crown = true ∨ crown' = t.crown)
    (hfab : F .fab = true ∨ fab' = t.fab)
    (hframes : F .frames = true ∨ frames' = t.frames)
    (hctx : F .ctx = true ∨ ctx' = t.ctx)
    (hepoch : F .epoch = true ∨ epoch' = t.epoch)
    (hdigest : F .digest = true ∨ digest' = t.digest)
    (hbignum : F .bignum = true ∨ bignum' = t.bignum)
    (hrng : F .rng = true ∨ rng' = t.rng)
    (hkey : F .key = true ∨ key' = t.key)
    (hcustody : F .custody = true ∨ (key'.root = t.key.root ∧ key'.wrap = t.key.wrap ∧ key'.tree = t.key.tree))
    (hdma : F .dma = true ∨ dma' = t.dma)
    (hhb : F .hb = true ∨ hb' = t.hb)
    (hclk : F .clk = true ∨ clk' = t.clk)
    (hpwr : F .pwr = true ∨ pwr' = t.pwr)
    (htamp : F .tamp = true ∨ tamp' = t.tamp)
    (hperf : F .perf = true ∨ perf' = t.perf)
    (hwrap : F .wrap = true ∨ wrap' = t.wrap)
    (hfinishes : F .finishes = true ∨ finishes' = t.finishes)
    (hb : tile'.windowBase = t.tile.windowBase := by rfl)
    (hj : t.nextJob ≤ nextJob' := by first | exact Nat.le_refl _ | exact Nat.le_succ _)
    (hf : t.freeCtr ≤ freeCtr' := by first | exact Nat.le_refl _ | exact Nat.le_succ _) :
    s.Within F (State.mk tile' cp' t.regs t.hdrs irq' qeng' crown' fab' frames' ctx' epoch' digest' bignum' rng' key' dma' hb' clk' pwr' tamp' perf' wrap' finishes' nextJob' freeCtr' t.pending) where
  pending := h.pending
  base := hb.trans h.base
  job := Nat.le_trans h.job hj
  free := Nat.le_trans h.free hf
  canonical := h.canonical
  addr := fun e => haddr.elim (fun c => no_change c e) (fun c => c.trans (h.addr e))
  tile := fun e => htile.elim (fun c => no_change c e) (fun c => c ▸ h.tile e)
  config := h.config
  custody := fun e => hcustody.elim (fun c => no_change c e) (fun c =>
    ⟨c.1.trans (h.custody e).1, c.2.1.trans (h.custody e).2.1, c.2.2.trans (h.custody e).2.2⟩)
  key := fun e => hkey.elim (fun c => no_change c e) (fun c => c ▸ h.key e)
  blocks := h.blocks
  pwr := fun e => hpwr.elim (fun c => no_change c e) (fun c => c ▸ h.pwr e)
  cp := fun e => hcp.elim (fun c => no_change c e) (fun c => c.trans (h.cp e))
  regs := h.regs
  hdrs := h.hdrs
  irq := fun e => hirq.elim (fun c => no_change c e) (fun c => c.trans (h.irq e))
  qeng := fun e => hqeng.elim (fun c => no_change c e) (fun c => c.trans (h.qeng e))
  crown := fun e => hcrown.elim (fun c => no_change c e) (fun c => c.trans (h.crown e))
  fab := fun e => hfab.elim (fun c => no_change c e) (fun c => c.trans (h.fab e))
  frames := fun e => hframes.elim (fun c => no_change c e) (fun c => c.trans (h.frames e))
  ctx := fun e => hctx.elim (fun c => no_change c e) (fun c => c.trans (h.ctx e))
  epoch := fun e => hepoch.elim (fun c => no_change c e) (fun c => c.trans (h.epoch e))
  digest := fun e => hdigest.elim (fun c => no_change c e) (fun c => c.trans (h.digest e))
  bignum := fun e => hbignum.elim (fun c => no_change c e) (fun c => c.trans (h.bignum e))
  rng := fun e => hrng.elim (fun c => no_change c e) (fun c => c.trans (h.rng e))
  dma := fun e => hdma.elim (fun c => no_change c e) (fun c => c.trans (h.dma e))
  hb := fun e => hhb.elim (fun c => no_change c e) (fun c => c.trans (h.hb e))
  clk := fun e => hclk.elim (fun c => no_change c e) (fun c => c.trans (h.clk e))
  tamp := fun e => htamp.elim (fun c => no_change c e) (fun c => c.trans (h.tamp e))
  perf := fun e => hperf.elim (fun c => no_change c e) (fun c => c.trans (h.perf e))
  wrap := fun e => hwrap.elim (fun c => no_change c e) (fun c => c.trans (h.wrap e))
  finishes := fun e => hfinishes.elim (fun c => no_change c e) (fun c => c.trans (h.finishes e))

/-! ## Choices and loops -/

/-- A choice between two states. -/
theorem within_ite {c : Prop} [Decidable c] (h : c → s.Within F t) (k : ¬ c → s.Within F u) :
    s.Within F (if c then t else u) := by
  split
  · exact h ‹_›
  · exact k ‹_›

theorem within_ite_snd {α : Type} {p q : α × State} {c : Prop} [Decidable c] (h : c → s.Within F p.2)
    (k : ¬ c → s.Within F q.2) : s.Within F (if c then p else q).2 := by
  split
  · exact h ‹_›
  · exact k ‹_›

theorem within_ite_fst {α : Type} {p q : State × α} {c : Prop} [Decidable c] (h : c → s.Within F p.1)
    (k : ¬ c → s.Within F q.1) : s.Within F (if c then p else q).1 := by
  split
  · exact h ‹_›
  · exact k ‹_›

theorem within_pair_snd {α : Type} {a : α} (h : s.Within F t) : s.Within F (a, t).2 := h

theorem within_pair_fst {α : Type} {a : α} (h : s.Within F t) : s.Within F (t, a).1 := h

/-- A loop over a list. -/
theorem within_foldl {α : Type} {f : State → α → State} (hf : ∀ t x, s.Within F t → s.Within F (f t x)) (l : List α)
    {t : State} (h : s.Within F t) : s.Within F (l.foldl f t) := by
  induction l generalizing t with
  | nil => exact h
  | cons x l ih => exact ih (hf t x h)

theorem within_foldl_snd {α β : Type} {f : β × State → α → β × State}
    (hf : ∀ t x, s.Within F t.2 → s.Within F (f t x).2) (l : List α) {t : β × State} (h : s.Within F t.2) :
    s.Within F (l.foldl f t).2 := by
  induction l generalizing t with
  | nil => exact h
  | cons x l ih => exact ih (hf t x h)

theorem within_foldl_fst {α β : Type} {f : State × β → α → State × β}
    (hf : ∀ t x, s.Within F t.1 → s.Within F (f t x).1) (l : List α) {t : State × β} (h : s.Within F t.1) :
    s.Within F (l.foldl f t).1 := by
  induction l generalizing t with
  | nil => exact h
  | cons x l ih => exact ih (hf t x h)

/-- The state that a pair was taken apart into. -/
theorem within_snd {α : Type} {a : α} {p : α × State} (e : p = (a, t)) (h : s.Within F p.2) : s.Within F t := by
  subst e; exact h

theorem within_fst {α : Type} {a : α} {p : State × α} (e : p = (t, a)) (h : s.Within F p.1) : s.Within F t := by
  subst e; exact h

/-- The state that an operation may answer. -/
def WithinOpt (F : Part → Bool) (s : State) (o : Option State) : Prop := ∀ t, o = some t → s.Within F t

theorem within_some {o : Option State} (e : o = some t) (h : WithinOpt F s o) : s.Within F t := h t e

theorem withinOpt_ite {o p : Option State} {c : Prop} [Decidable c] (h : c → WithinOpt F s o)
    (k : ¬ c → WithinOpt F s p) : WithinOpt F s (if c then o else p) := by
  split
  · exact h ‹_›
  · exact k ‹_›

theorem withinOpt_none : WithinOpt F s none := fun _ e => by cases e

theorem withinOpt_some (h : s.Within F t) : WithinOpt F s (some t) := fun _ e => by cases e; exact h

/-! ## The register file and the headers -/

theorem idx_lt (r : Reg) : r.idx < 512 := by
  obtain ⟨h, _⟩ := List.getElem?_eq_some_iff.mp (allRegs_idx r)
  exact Nat.lt_of_lt_of_le h (show allRegs.length ≤ 512 by decide +kernel)

theorem regKey_mod (r : Reg) (n : Nat) : regKey r n % 512 = r.idx := by
  have := idx_lt r
  unfold regKey; omega

theorem regKey_div (r : Reg) (n : Nat) : regKey r n / 512 = n := by
  have := idx_lt r
  unfold regKey; omega

theorem regDefault_key (r : Reg) (n : Nat) : regDefault (regKey r n) = r.resetAt n := by
  simp only [regDefault, regKey_mod, regKey_div, allRegs_idx]

/-- Places of different registers, or of different instances, differ. -/
theorem regKey_inj {r r' : Reg} {n n' : Nat} (h : regKey r n = regKey r' n') : r = r' ∧ n = n' := by
  have h1 := congrArg (· % 512) h
  have h2 := congrArg (· / 512) h
  simp only [regKey_mod, regKey_div] at h1 h2
  have h3 := allRegs_idx r
  rw [h1, allRegs_idx r'] at h3
  exact ⟨(Option.some.inj h3).symm, h2⟩

@[simp] theorem reg_setReg_same (s : State) (r : Reg) (n : Nat) (v : W64) : (s.setReg r n v).reg r n = v := by
  simp [State.reg, State.setReg]

theorem reg_setReg_ne (s : State) {r r' : Reg} {n n' : Nat} (v : W64) (h : r' ≠ r ∨ n' ≠ n) :
    (s.setReg r n v).reg r' n' = s.reg r' n' := by
  simp only [State.reg, State.setReg]
  apply Tbl.get_set_ne
  intro e
  obtain ⟨rfl, rfl⟩ := regKey_inj e
  rcases h with h | h <;> exact h rfl

theorem setReg_canonical (s : State) (r : Reg) (n : Nat) (v : W64) (h : s.Canonical) : (s.setReg r n v).Canonical := by
  refine ⟨?_, h.2⟩
  have := Tbl.wf_set regDefault s.regs (regKey r n) v h.1
  rwa [regDefault_key] at this

theorem setHdrAt_canonical (s : State) (p : Nat) (x : Hdr) (h : s.Canonical) : (s.setHdrAt p x).Canonical :=
  ⟨h.1, Tbl.wf_set Hdr.resetAt s.hdrs p x h.2⟩

/-- A register that is not one of those that only software writes. -/
theorem not_configured {b : Bool} {P : Prop} (h : b = false) (e : b = true) : P := by rw [h] at e; cases e

/-- A register is written. -/
theorem setReg_within (hF : Part.All F [.regs]) {r : Reg} {n : Nat} {v : W64}
    (hc : Reg.configured r = true → F .config = true) (h : s.Within F t) : s.Within F (t.setReg r n v) :=
  { h with
    regs := no_change (hF.one rfl)
    canonical := fun c => setReg_canonical t r n v (h.canonical c)
    config := fun e r' n' c' => by
      by_cases hr : r' = r ∧ n' = n
      · rw [hr.1] at c'; exact no_change (hc c') e
      · rw [reg_setReg_ne t v (by by_cases h1 : r' = r <;> simp_all)]
        exact h.config e r' n' c' }

theorem put_within (hF : Part.All F [.regs]) {f : Fld} {n x : Nat} (hc : Reg.configured f.reg = true → F .config = true)
    (h : s.Within F t) : s.Within F (t.put f n x) := setReg_within hF hc h

theorem putFlag_within (hF : Part.All F [.regs]) {f : Fld} {n : Nat} {b : Bool}
    (hc : Reg.configured f.reg = true → F .config = true) (h : s.Within F t) : s.Within F (t.putFlag f n b) :=
  setReg_within hF hc h

theorem bump_within (hF : Part.All F [.regs]) {f : Fld} {n k : Nat} (hc : Reg.configured f.reg = true → F .config = true)
    (h : s.Within F t) : s.Within F (t.bump f n k) := setReg_within hF hc h

theorem clearReg_within (hF : Part.All F [.regs]) {r : Reg} {n : Nat} (hc : Reg.configured r = true → F .config = true)
    (h : s.Within F t) : s.Within F (t.clearReg r n) := setReg_within hF hc h

/-- A header is written. -/
theorem setHdrAt_within (hF : Part.All F [.blocks, .hdrs]) {p : Nat} {x : Hdr} (h : s.Within F t) :
    s.Within F (t.setHdrAt p x) :=
  { h with
    hdrs := no_change (hF.one rfl)
    blocks := no_change (hF.one rfl)
    canonical := fun c => setHdrAt_canonical t p x (h.canonical c) }

/-- Fault and event bits or retry counts of a header are written. -/
theorem setHdrAt_bits (hF : Part.All F [.hdrs]) {p : Nat} {x : Hdr} (hx : Hdr.state x = Hdr.state (t.hdrAt p))
    (h : s.Within F t) : s.Within F (t.setHdrAt p x) :=
  { h with
    hdrs := no_change (hF.one rfl)
    canonical := fun c => setHdrAt_canonical t p x (h.canonical c)
    blocks := fun e q => by
      rw [← h.blocks e q]
      by_cases hq : q = p
      · subst hq
        simp only [State.hdrAt, State.setHdrAt, Tbl.get_set_same]
        exact hx
      · simp only [State.hdrAt, State.setHdrAt]
        rw [Tbl.get_set_ne _ _ _ _ _ hq] }

theorem setHdr_within (hF : Part.All F [.blocks, .hdrs]) {p : PageRef} {x : Hdr} (h : s.Within F t) :
    s.Within F (t.setHdr p x) := setHdrAt_within hF h

theorem setHdr_bits (hF : Part.All F [.hdrs]) {p : PageRef} {x : Hdr} (hx : Hdr.state x = Hdr.state (t.hdr p))
    (h : s.Within F t) : s.Within F (t.setHdr p x) := setHdrAt_bits hF hx h

theorem updHdr_within (hF : Part.All F [.blocks, .hdrs]) {p : PageRef} {f : Hdr → Hdr} (h : s.Within F t) :
    s.Within F (t.updHdr p f) := setHdrAt_within hF h

theorem updHdr_bits (hF : Part.All F [.hdrs]) {p : PageRef} {f : Hdr → Hdr} (hx : ∀ x, Hdr.state (f x) = Hdr.state x)
    (h : s.Within F t) : s.Within F (t.updHdr p f) := setHdrAt_bits hF (hx _) h

/-- The counters go back to their reset values. -/
theorem resetRegs_within (hF : Part.All F [.regs]) {p : Reg → Bool}
    (hc : (∃ r, p r = true ∧ Reg.configured r = true) → F .config = true) (h : s.Within F t) :
    s.Within F (t.resetRegs p) :=
  { h with
    regs := no_change (hF.one rfl)
    canonical := fun c => ⟨Tbl.wf_filter regDefault t.regs _ (h.canonical c).1, (h.canonical c).2⟩
    config := fun e r n c => by
      rw [← h.config e r n c]
      have hp : p r = false := by
        cases hp : p r with
        | false => rfl
        | true => exact no_change (hc ⟨r, hp, c⟩) e
      show Tbl.get _ (t.regs.filter _) _ = Tbl.get _ t.regs _
      have hk : (((allRegs.filter p).map (fun r => r.idx)).contains (regKey r n % 512)) = false := by
        rw [regKey_mod]
        apply Bool.eq_false_iff.mpr
        intro hm
        obtain ⟨q, hq, e⟩ := List.mem_map.mp (List.contains_iff_mem.mp hm)
        obtain ⟨_, hq⟩ := List.mem_filter.mp hq
        have h1 := allRegs_idx q
        rw [e, allRegs_idx r] at h1
        cases h1
        rw [hp] at hq; cases hq
      induction t.regs with
      | nil => rfl
      | cons x l ih =>
        by_cases hx : x.1 = regKey r n
        · simp only [List.filter_cons, hx, hk, Bool.not_false, if_true, Tbl.get]
        · by_cases hy : (!((allRegs.filter p).map (fun r => r.idx)).contains (x.1 % 512)) = true
          · simp only [List.filter_cons, hy, if_true, Tbl.get, hx, if_false, ih]
          · simp only [List.filter_cons, hy, Tbl.get, hx, if_false]; exact ih }

theorem perfOff_within (hF : Part.All F [.regs, .perf]) (h : s.Within F t) : s.Within F (State.perfOff t) := by
  unfold State.perfOff
  refine within_perf (hF.one rfl) (resetRegs_within (hF.mono rfl) (fun ⟨r, hp, hc⟩ => ?_) h)
  rcases Bool.or_eq_true_iff.mp hp with e | e <;> (rw [eq_of_beq e] at hc; cases hc)

theorem bnCfgReset_within (hF : Part.All F [.regs]) (h : s.Within F t) : s.Within F (State.bnCfgReset t) := by
  unfold State.bnCfgReset
  refine resetRegs_within (hF.mono rfl) (fun ⟨r, hp, hc⟩ => ?_) h
  rw [eq_of_beq hp] at hc; cases hc

/-- A register block is written from bytes. -/
theorem putWords_within (hF : Part.All F [.regs]) {r : Reg} {b : Bytes} (hc : Reg.configured r = true → F .config = true)
    (h : s.Within F t) : s.Within F (State.putWords t r b) := by
  unfold State.putWords
  exact within_foldl (fun u x hu => setReg_within hF hc hu) _ h

/-- The registers of PD0 with others put in. -/
theorem withRegs_within (hF : Part.All F [.regs, .config]) {l : Tbl W64} (h : s.Within F t) : s.Within F (t.withRegs l) :=
  { h with
    regs := no_change (hF.one rfl)
    config := no_change (hF.one rfl)
    canonical := fun c => by
      refine ⟨?_, (h.canonical c).2⟩
      show regsOk (l.foldl (fun a e => Tbl.set (regDefault e.1) a e.1 e.2) _) = true
      generalize hw : t.regs.filter _ = w
      have hw' : regsOk w = true := hw ▸ Tbl.wf_filter regDefault t.regs _ (h.canonical c).1
      clear hw
      induction l generalizing w with
      | nil => exact hw'
      | cons e l ih => exact ih _ (Tbl.wf_set regDefault w e.1 e.2 hw') }

/-- A mail that is taken out. -/
theorem takeMail_within (hF : Part.All F [.fab]) {p : XKind → Bool} {x : Xfer} (h : s.Within F t)
    (e : t.takeMail p = some (x, u)) : s.Within F u := by
  unfold State.takeMail at e
  cases hf : t.fab.mail.find? (fun x => p x.kind) with
  | none => rw [hf] at e; cases e
  | some y =>
    rw [hf] at e
    cases e
    exact within_fab (hF.one rfl) h

theorem cqMail_within (hF : Part.All F [.fab]) {c : Nat} {p : Xfer → Bool} {x : Xfer} (h : s.Within F t)
    (e : t.cqMail c p = some (x, u)) : s.Within F u := by
  unfold State.cqMail at e
  cases hf : t.fab.mail.find? _ with
  | none => rw [hf] at e; cases e
  | some y =>
    rw [hf] at e
    cases e
    exact within_fab (hF.one rfl) h

end Sys2Proof.Machine
end

