-- ==== Sys2Proof/Laws/FrameOps.lean ====
section
/-! SUPPORT. The frames of the operations of Machine/Ops.lean: the parts that each may change. -/

namespace Sys2Proof.Machine

set_option Elab.async false

theorem logFence_within {F : Part → Bool} {s : State} (hF : Part.All F [.regs]) {a1 : State} (a2) (a3) (a4) (a5) (k1 :
    s.Within F a1) :
    s.Within F (State.logFence a1 a2 a3 a4 a5) := by
  unfold State.logFence
  extract_lets +onlyGivenNames y0
  extract_lets +onlyGivenNames y1
  extract_lets +onlyGivenNames y2
  have h3 : s.Within F y2 := by
    unfold y2
    refine setReg_within (hF.mono rfl) (not_configured rfl) ?_
    with_reducible assumption
  extract_lets +onlyGivenNames y4
  have h5 : s.Within F y4 := by
    unfold y4
    refine put_within (hF.mono rfl) (not_configured rfl) ?_
    with_reducible assumption
  refine bump_within (hF.mono rfl) (not_configured rfl) ?_
  with_reducible assumption

theorem wdogFollows_within {F : Part → Bool} {s : State} (hF : Part.All F [.tile, .regs]) {a1 : State} (a2) (a3) (k1 :
    s.Within F a1) :
    s.Within F (State.wdogFollows a1 a2 a3) := by
  unfold State.wdogFollows
  extract_lets +onlyGivenNames y0
  extract_lets +onlyGivenNames y1
  have h2 : s.Within F y1 := by
    unfold y1
    refine within_ite (fun _ => ?_) (fun _ => ?_)
    · refine within_tile (hF.one rfl) ?_
      with_reducible assumption
    · with_reducible assumption
  refine within_ite (fun _ => ?_) (fun _ => ?_)
  · refine putFlag_within (hF.mono rfl) (not_configured rfl) ?_
    refine within_tile (hF.one rfl) ?_
    with_reducible assumption
  · with_reducible assumption

theorem setVec_within {F : Part → Bool} {s : State} (hF : Part.All F [.irq]) {a1 : State} (a2) (a3) (k1 : s.Within F
    a1) :
    s.Within F (State.setVec a1 a2 a3) := by
  unfold State.setVec
  refine within_irq (hF.one rfl) ?_
  with_reducible assumption

theorem ascending_within {F : Part → Bool} {s : State} (hF : Part.All F [.irq]) {a1 : State} (a2) (k1 : s.Within F a1)
    :
    s.Within F (State.ascending a1 a2) := by
  unfold State.ascending
  extract_lets +onlyGivenNames y0
  refine within_irq (hF.one rfl) ?_
  with_reducible assumption

theorem takeFree_within {F : Part → Bool} {s : State} (hF : Part.All F []) {a1 : State} (k1 : s.Within F a1) :
    s.Within F (State.takeFree a1).2 := by
  unfold State.takeFree
  refine within_pair_snd ?_
  refine within_free ?_
  with_reducible assumption

theorem setBlk_within {F : Part → Bool} {s : State} (hF : Part.All F [.blocks, .hdrs]) {a1 : State} (a2) (a3) (k1 :
    s.Within F a1) :
    s.Within F (State.setBlk a1 a2 a3) := by
  unfold State.setBlk
  extract_lets +onlyGivenNames y0
  refine within_ite (fun _ => ?_) (fun _ => ?_)
  · with_reducible assumption
  · refine within_ite (fun _ => ?_) (fun _ => ?_)
    · apply setHdr_within (hF.mono rfl)
      with_reducible assumption
    · extract_lets +onlyGivenNames y1
      have h2 : s.Within F y1 := by
        unfold y1
        apply setHdr_within (hF.mono rfl)
        with_reducible assumption
      apply within_foldl
      · intro u3 x4 h5
        refine setHdrAt_bits (hF.mono rfl) rfl ?_
        with_reducible assumption
      · with_reducible assumption

theorem rawEnd_within {F : Part → Bool} {s : State} (hF : Part.All F [.rng]) {a1 : State} (k1 : s.Within F a1) :
    s.Within F (State.rawEnd a1) := by
  unfold State.rawEnd
  split
  · rename_i x0 e1
    with_reducible assumption
  · rename_i x2 x3 e4
    refine within_rng (hF.one rfl) ?_
    with_reducible assumption

theorem portReset_within {F : Part → Bool} {s : State} (hF : Part.All F [.rng, .key]) {a1 : State} (k1 : s.Within F
    a1) :
    s.Within F (State.portReset a1) := by
  unfold State.portReset
  refine within_mk ?_ (.inr rfl) (.inr rfl) (.inr rfl) (.inr rfl) (.inr rfl) (.inr rfl) (.inr rfl) (.inr rfl) (.inr rfl) (.inr rfl) (.inr rfl) (.inr rfl) (.inl (hF.one rfl)) (.inl (hF.one rfl)) (.inr ⟨rfl, rfl, rfl⟩) (.inr rfl) (.inr rfl) (.inr rfl) (.inr rfl) (.inr rfl) (.inr rfl) (.inr rfl) (.inr rfl)
  with_reducible assumption

theorem fnCount_within {F : Part → Bool} {s : State} (hF : Part.All F [.regs]) {a1 : State} (a2) (a3) (a4) (k1 :
    s.Within F a1) :
    s.Within F (State.fnCount a1 a2 a3 a4) := by
  unfold State.fnCount
  refine within_ite (fun _ => ?_) (fun _ => ?_)
  · refine put_within (hF.mono rfl) (not_configured rfl) ?_
    with_reducible assumption
  · with_reducible assumption

theorem leavesTest_within {F : Part → Bool} {s : State} (hF : Part.All F [.regs, .rng, .wrap]) {a1 : State} (k1 :
    s.Within F a1) :
    s.Within F (State.leavesTest a1) := by
  unfold State.leavesTest
  extract_lets +onlyGivenNames y0
  extract_lets +onlyGivenNames y1
  have h2 : s.Within F y1 := by
    unfold y1
    refine within_wrap (hF.one rfl) ?_
    with_reducible assumption
  refine within_ite (fun _ => ?_) (fun _ => ?_)
  · refine putFlag_within (hF.mono rfl) (not_configured rfl) ?_
    apply rawEnd_within (hF.mono rfl)
    with_reducible assumption
  · with_reducible assumption

theorem portDrops_within {F : Part → Bool} {s : State} (hF : Part.All F [.rng, .key]) {a1 : State} (k1 : s.Within F
    a1) :
    s.Within F (State.portDrops a1) := by
  unfold State.portDrops
  refine within_ite (fun _ => ?_) (fun _ => ?_)
  · apply portReset_within (hF.mono rfl)
    with_reducible assumption
  · with_reducible assumption

theorem formMsg_within {F : Part → Bool} {s : State} (hF : Part.All F [.irq]) {a1 : State} (a2) (k1 : s.Within F a1) :
    s.Within F (State.formMsg a1 a2) := by
  unfold State.formMsg
  extract_lets +onlyGivenNames y0
  extract_lets +onlyGivenNames y1
  have h2 : s.Within F y1 := by
    unfold y1
    apply setVec_within (hF.mono rfl)
    with_reducible assumption
  refine within_irq (hF.one rfl) ?_
  with_reducible assumption

theorem upEnds_within {F : Part → Bool} {s : State} (hF : Part.All F [.blocks, .hdrs]) {a1 : State} (a2) (k1 :
    s.Within F a1) :
    s.Within F (State.upEnds a1 a2) := by
  unfold State.upEnds
  refine within_ite (fun _ => ?_) (fun _ => ?_)
  · with_reducible assumption
  · extract_lets +onlyGivenNames y0
    have h1 : s.Within F y0 := by
      unfold y0
      apply setBlk_within (hF.mono rfl)
      with_reducible assumption
    refine within_ite (fun _ => ?_) (fun _ => ?_)
    · with_reducible assumption
    · apply setBlk_within (hF.mono rfl)
      with_reducible assumption

theorem enterTile_within {F : Part → Bool} {s : State} (hF : Part.All F [.tile, .regs, .blocks, .hdrs, .rng, .key,
    .wrap]) {a1 : State} (a2) (k1 : s.Within F a1) :
    s.Within F (State.enterTile a1 a2) := by
  unfold State.enterTile
  extract_lets +onlyGivenNames y0
  extract_lets +onlyGivenNames y1
  extract_lets +onlyGivenNames y2
  have h3 : s.Within F y2 := by
    unfold y2
    refine within_tile (hF.one rfl) ?_
    with_reducible assumption
  extract_lets +onlyGivenNames y4
  have h5 : s.Within F y4 := by
    unfold y4
    refine within_ite (fun _ => ?_) (fun _ => ?_)
    · apply leavesTest_within (hF.mono rfl)
      with_reducible assumption
    · with_reducible assumption
  extract_lets +onlyGivenNames y6
  have h7 : s.Within F y6 := by
    unfold y6
    refine within_ite (fun _ => ?_) (fun _ => ?_)
    · apply portDrops_within (hF.mono rfl)
      with_reducible assumption
    · with_reducible assumption
  extract_lets +onlyGivenNames y8
  have h9 : s.Within F y8 := by
    unfold y8
    apply wdogFollows_within (hF.mono rfl)
    with_reducible assumption
  refine within_ite (fun _ => ?_) (fun _ => ?_)
  · with_reducible assumption
  · apply within_foldl
    · intro u10 x11 h12
      extract_lets +onlyGivenNames y13
      apply setHdrAt_within (hF.mono rfl)
      with_reducible assumption
    · with_reducible assumption

theorem judge_within {F : Part → Bool} {s : State} (hF : Part.All F [.irq]) {a1 : State} (a2) (k1 : s.Within F a1) :
    s.Within F (State.judge a1 a2) := by
  unfold State.judge
  refine within_ite (fun _ => ?_) (fun _ => ?_)
  · apply formMsg_within (hF.mono rfl)
    with_reducible assumption
  · with_reducible assumption

theorem countVec_within {F : Part → Bool} {s : State} (hF : Part.All F [.irq]) {a1 : State} (a2) (a3) (k1 : s.Within F
    a1) :
    s.Within F (State.countVec a1 a2 a3) := by
  unfold State.countVec
  refine within_ite (fun _ => ?_) (fun _ => ?_)
  · with_reducible assumption
  · extract_lets +onlyGivenNames y0
    extract_lets +onlyGivenNames y1
    have h2 : s.Within F y1 := by
      unfold y1
      apply setVec_within (hF.mono rfl)
      with_reducible assumption
    refine within_ite (fun _ => ?_) (fun _ => ?_)
    · extract_lets +onlyGivenNames y3
      extract_lets +onlyGivenNames y4
      have h5 : s.Within F y4 := by
        unfold y4
        refine within_irq (hF.one rfl) ?_
        with_reducible assumption
      refine within_ite (fun _ => ?_) (fun _ => ?_)
      · apply setVec_within (hF.mono rfl)
        with_reducible assumption
      · refine within_ite (fun _ => ?_) (fun _ => ?_)
        · apply formMsg_within (hF.mono rfl)
          with_reducible assumption
        · with_reducible assumption
    · apply judge_within (hF.mono rfl)
      with_reducible assumption

theorem raiseFault_within {F : Part → Bool} {s : State} (hF : Part.All F [.hdrs, .irq]) {a1 : State} (a2) (a3) (k1 :
    s.Within F a1) :
    s.Within F (State.raiseFault a1 a2 a3) := by
  unfold State.raiseFault
  extract_lets +onlyGivenNames y0
  refine within_ite (fun _ => ?_) (fun _ => ?_)
  · with_reducible assumption
  · extract_lets +onlyGivenNames y1
    have h2 : s.Within F y1 := by
      unfold y1
      refine setHdr_bits (hF.mono rfl) rfl ?_
      with_reducible assumption
    refine within_ite (fun _ => ?_) (fun _ => ?_)
    · refine within_latched ?_
      with_reducible assumption
    · split
      · rename_i x3 x4 e5
        refine within_ite (fun _ => ?_) (fun _ => ?_)
        · apply countVec_within (hF.mono rfl)
          with_reducible assumption
        · with_reducible assumption
      · rename_i x6 e7
        with_reducible assumption

theorem raiseEvent_within {F : Part → Bool} {s : State} (hF : Part.All F [.hdrs, .irq]) {a1 : State} (a2) (a3) (k1 :
    s.Within F a1) :
    s.Within F (State.raiseEvent a1 a2 a3) := by
  unfold State.raiseEvent
  extract_lets +onlyGivenNames y0
  refine within_ite (fun _ => ?_) (fun _ => ?_)
  · with_reducible assumption
  · extract_lets +onlyGivenNames y1
    have h2 : s.Within F y1 := by
      unfold y1
      refine setHdr_bits (hF.mono rfl) rfl ?_
      with_reducible assumption
    refine within_ite (fun _ => ?_) (fun _ => ?_)
    · refine within_latched ?_
      with_reducible assumption
    · split
      · rename_i x3 x4 e5
        refine within_ite (fun _ => ?_) (fun _ => ?_)
        · apply countVec_within (hF.mono rfl)
          with_reducible assumption
        · with_reducible assumption
      · rename_i x6 e7
        with_reducible assumption

theorem seq_within {F : Part → Bool} {s : State} (hF : Part.All F [.hdrs, .irq]) {a1 : State} (a2) (k1 : s.Within F
    a1) :
    s.Within F (State.seq a1 a2) := by
  unfold State.seq
  apply raiseFault_within (hF.mono rfl)
  with_reducible assumption

theorem transient_within {F : Part → Bool} {s : State} (hF : Part.All F [.hdrs, .irq]) {a1 : State} (a2) (k1 :
    s.Within F a1) :
    s.Within F (State.transient a1 a2) := by
  unfold State.transient
  extract_lets +onlyGivenNames y0
  have h1 : s.Within F y0 := by
    unfold y0
    refine updHdr_bits (hF.mono rfl) (fun _ => rfl) ?_
    with_reducible assumption
  apply raiseFault_within (hF.mono rfl)
  with_reducible assumption

theorem lasting_within {F : Part → Bool} {s : State} (hF : Part.All F [.hdrs, .irq]) {a1 : State} (a2) (k1 : s.Within
    F a1) :
    s.Within F (State.lasting a1 a2) := by
  unfold State.lasting
  extract_lets +onlyGivenNames y0
  have h1 : s.Within F y0 := by
    unfold y0
    refine updHdr_bits (hF.mono rfl) (fun _ => rfl) ?_
    with_reducible assumption
  apply raiseFault_within (hF.mono rfl)
  with_reducible assumption

theorem watch_within {F : Part → Bool} {s : State} (hF : Part.All F [.hdrs, .irq]) {a1 : State} (a2) (a3) (a4) (a5)
    (k1 : s.Within F a1) :
    s.Within F (State.watch a1 a2 a3 a4 a5) := by
  unfold State.watch
  extract_lets +onlyGivenNames y0
  refine within_ite (fun _ => ?_) (fun _ => ?_)
  · apply raiseEvent_within (hF.mono rfl)
    with_reducible assumption
  · with_reducible assumption

theorem perfCount_within {F : Part → Bool} {s : State} (hF : Part.All F [.regs, .hdrs, .irq]) {a1 : State} (a2) (a3)
    (k1 : s.Within F a1) :
    s.Within F (State.perfCount a1 a2 a3) := by
  unfold State.perfCount
  refine within_ite (fun _ => ?_) (fun _ => ?_)
  · extract_lets +onlyGivenNames y0
    extract_lets +onlyGivenNames y1
    have h2 : s.Within F y1 := by
      unfold y1
      refine put_within (hF.mono rfl) (not_configured rfl) ?_
      with_reducible assumption
    apply within_foldl
    · intro u3 x4 h5
      apply watch_within (hF.mono rfl)
      with_reducible assumption
    · with_reducible assumption
  · with_reducible assumption

theorem xferRetry_within {F : Part → Bool} {s : State} (hF : Part.All F [.hdrs, .irq]) {a1 : State} (a2) (a3) (k1 :
    s.Within F a1) :
    s.Within F (State.xferRetry a1 a2 a3) := by
  unfold State.xferRetry
  refine within_ite (fun _ => ?_) (fun _ => ?_)
  · apply lasting_within (hF.mono rfl)
    with_reducible assumption
  · refine within_ite (fun _ => ?_) (fun _ => ?_)
    · apply transient_within (hF.mono rfl)
      with_reducible assumption
    · with_reducible assumption

end Sys2Proof.Machine
end

