-- ==== Sys2Proof/Laws/FrameFabric.lean ====
section
/-! SUPPORT. The frames of the operations of Machine/Fabric.lean: the parts that each may change. -/

namespace Sys2Proof.Machine

set_option Elab.async false

theorem setPort_within {F : Part → Bool} {s : State} (hF : Part.All F [.fab]) {a1 : State} (a2) (a3) (k1 : s.Within F
    a1) :
    s.Within F (State.setPort a1 a2 a3) := by
  unfold State.setPort
  refine within_fab (hF.one rfl) ?_
  with_reducible assumption

theorem updXfer_within {F : Part → Bool} {s : State} (hF : Part.All F [.fab]) {a1 : State} (a2) (a3) (k1 : s.Within F
    a1) :
    s.Within F (State.updXfer a1 a2 a3) := by
  unfold State.updXfer
  refine within_fab (hF.one rfl) ?_
  with_reducible assumption

theorem endXfer_within {F : Part → Bool} {s : State} (hF : Part.All F [.fab]) {a1 : State} (a2) (k1 : s.Within F a1) :
    s.Within F (State.endXfer a1 a2) := by
  unfold State.endXfer
  refine within_fab (hF.one rfl) ?_
  with_reducible assumption

theorem post_within {F : Part → Bool} {s : State} (hF : Part.All F [.fab]) {a1 : State} (a2) (k1 : s.Within F a1) :
    s.Within F (State.post a1 a2) := by
  unfold State.post
  refine within_fab (hF.one rfl) ?_
  with_reducible assumption

theorem classify_within {F : Part → Bool} {s : State} (hF : Part.All F [.regs, .hdrs, .irq]) {a1 : State} (a2) (a3)
    (a4) (k1 : s.Within F a1) :
    s.Within F (State.classify a1 a2 a3 a4) := by
  unfold State.classify
  extract_lets +onlyGivenNames y0
  have h1 : s.Within F y0 := by
    unfold y0
    apply perfCount_within (hF.mono rfl)
    with_reducible assumption
  extract_lets +onlyGivenNames y2
  have h3 : s.Within F y2 := by
    unfold y2
    refine put_within (hF.mono rfl) (not_configured rfl) ?_
    with_reducible assumption
  extract_lets +onlyGivenNames y4
  have h5 : s.Within F y4 := by
    unfold y4
    refine putFlag_within (hF.mono rfl) (not_configured rfl) ?_
    with_reducible assumption
  extract_lets +onlyGivenNames y6
  have h7 : s.Within F y6 := by
    unfold y6
    refine put_within (hF.mono rfl) (not_configured rfl) ?_
    with_reducible assumption
  extract_lets +onlyGivenNames y8
  have h9 : s.Within F y8 := by
    unfold y8
    refine put_within (hF.mono rfl) (not_configured rfl) ?_
    with_reducible assumption
  extract_lets +onlyGivenNames y10
  have h11 : s.Within F y10 := by
    unfold y10
    refine put_within (hF.mono rfl) (not_configured rfl) ?_
    with_reducible assumption
  extract_lets +onlyGivenNames y12
  have h13 : s.Within F y12 := by
    unfold y12
    refine putFlag_within (hF.mono rfl) (not_configured rfl) ?_
    with_reducible assumption
  extract_lets +onlyGivenNames y14
  have h15 : s.Within F y14 := by
    unfold y14
    refine within_ite (fun _ => ?_) (fun _ => ?_)
    · with_reducible assumption
    · refine put_within (hF.mono rfl) (not_configured rfl) ?_
      with_reducible assumption
  extract_lets +onlyGivenNames y16
  have h17 : s.Within F y16 := by
    unfold y16
    refine bump_within (hF.mono rfl) (not_configured rfl) ?_
    with_reducible assumption
  split
  · rename_i x18 x19
    apply raiseFault_within (hF.mono rfl)
    with_reducible assumption
  · rename_i x20 x21 e22
    apply raiseFault_within (hF.mono rfl)
    apply raiseFault_within (hF.mono rfl)
    with_reducible assumption
  · rename_i x23 x24 x25 e26 e27 e28
    apply raiseFault_within (hF.mono rfl)
    with_reducible assumption
  · rename_i x29 x30 x31 e32 e33 e34
    apply raiseFault_within (hF.mono rfl)
    with_reducible assumption

theorem newXfer_within {F : Part → Bool} {s : State} (hF : Part.All F [.fab]) {a1 : State} (a2) (a3) (k1 : s.Within F
    a1) :
    s.Within F (State.newXfer a1 a2 a3).2 := by
  unfold State.newXfer
  extract_lets +onlyGivenNames y0
  refine within_pair_snd ?_
  refine within_fab (hF.one rfl) ?_
  with_reducible assumption

theorem issueReq_within {F : Part → Bool} {s : State} (hF : Part.All F [.regs, .hdrs, .irq, .fab]) {a1 : State} (a2)
    (a3) (k1 : s.Within F a1) :
    s.Within F (State.issueReq a1 a2 a3) := by
  unfold State.issueReq
  extract_lets +onlyGivenNames y0
  extract_lets +onlyGivenNames y1
  have h2 : s.Within F y1 := by
    unfold y1
    apply setPort_within (hF.mono rfl)
    with_reducible assumption
  refine within_ite (fun _ => ?_) (fun _ => ?_)
  · with_reducible assumption
  · split
    · rename_i x3 e4
      split
      · rename_i x5 x6 e7
        apply perfCount_within (hF.mono rfl)
        apply setPort_within (hF.mono rfl)
        with_reducible assumption
      · rename_i x8 e9
        with_reducible assumption
    · rename_i x10 e11
      split
      · rename_i x12 x13 e14
        apply perfCount_within (hF.mono rfl)
        apply setPort_within (hF.mono rfl)
        with_reducible assumption
      · rename_i x15 e16
        with_reducible assumption
    · rename_i x17 e18
      split
      · rename_i x19 x20 e21
        apply setPort_within (hF.mono rfl)
        with_reducible assumption
      · rename_i x22 e23
        with_reducible assumption

theorem dropXfers_within {F : Part → Bool} {s : State} (hF : Part.All F [.fab]) {a1 : State} (a2) (k1 : s.Within F a1)
    :
    s.Within F (State.dropXfers a1 a2) := by
  unfold State.dropXfers
  extract_lets +onlyGivenNames y0
  extract_lets +onlyGivenNames y1
  extract_lets +onlyGivenNames y2
  extract_lets +onlyGivenNames y3
  extract_lets +onlyGivenNames y4
  extract_lets +onlyGivenNames y5
  have h6 : s.Within F y5 := by
    unfold y5
    refine within_fab (hF.one rfl) ?_
    with_reducible assumption
  apply within_foldl
  · intro u7 x8 h9
    apply setPort_within (hF.mono rfl)
    with_reducible assumption
  · with_reducible assumption

theorem startBarrier_within {F : Part → Bool} {s : State} (hF : Part.All F [.regs, .hdrs, .irq, .fab]) {a1 : State}
    (a2) (a3) (a4) (k1 : s.Within F a1) :
    s.Within F (State.startBarrier a1 a2 a3 a4) := by
  unfold State.startBarrier
  split
  rename_i x0 x1 u2 e3
  have h4 : s.Within F u2 := by
    refine within_snd e3 ?_
    apply newXfer_within (hF.mono rfl)
    with_reducible assumption
  apply issueReq_within (hF.mono rfl)
  with_reducible assumption

theorem accessEnded_within {F : Part → Bool} {s : State} (hF : Part.All F [.regs, .hdrs, .irq, .fab]) {a1 : State}
    (a2) (a3) (a4) (k1 : s.Within F a1) :
    s.Within F (State.accessEnded a1 a2 a3 a4).2 := by
  unfold State.accessEnded
  split
  · rename_i x0 e1
    refine within_pair_snd ?_
    with_reducible assumption
  · rename_i x2 x3 e4
    split
    · rename_i x5 x6
      refine within_ite_snd (fun _ => ?_) (fun _ => ?_)
      · refine within_pair_snd ?_
        apply perfCount_within (hF.mono rfl)
        apply issueReq_within (hF.mono rfl)
        apply updXfer_within (hF.mono rfl)
        with_reducible assumption
      · extract_lets +onlyGivenNames y7
        have h8 : s.Within F y7 := by
          unfold y7
          refine within_ite (fun _ => ?_) (fun _ => ?_)
          · with_reducible assumption
          · apply classify_within (hF.mono rfl)
            with_reducible assumption
        extract_lets +onlyGivenNames y9
        extract_lets +onlyGivenNames y10
        have h11 : s.Within F y10 := by
          unfold y10
          apply updXfer_within (hF.mono rfl)
          with_reducible assumption
        refine within_ite_snd (fun _ => ?_) (fun _ => ?_)
        · refine within_pair_snd ?_
          apply endXfer_within (hF.mono rfl)
          with_reducible assumption
        · refine within_pair_snd ?_
          with_reducible assumption
    · rename_i x12 x13
      extract_lets +onlyGivenNames y14
      extract_lets +onlyGivenNames y15
      have h16 : s.Within F y15 := by
        unfold y15
        apply updXfer_within (hF.mono rfl)
        with_reducible assumption
      extract_lets +onlyGivenNames y17
      have h18 : s.Within F y17 := by
        unfold y17
        refine within_ite (fun _ => ?_) (fun _ => ?_)
        · apply perfCount_within (hF.mono rfl)
          with_reducible assumption
        · with_reducible assumption
      refine within_ite_snd (fun _ => ?_) (fun _ => ?_)
      · refine within_pair_snd ?_
        apply endXfer_within (hF.mono rfl)
        with_reducible assumption
      · refine within_pair_snd ?_
        with_reducible assumption

theorem pumpPort_within {F : Part → Bool} {s : State} (hF : Part.All F [.regs, .hdrs, .irq, .fab]) {a1 : State} (a2)
    (k1 : s.Within F a1) :
    s.Within F (State.pumpPort a1 a2) := by
  unfold State.pumpPort
  extract_lets +onlyGivenNames y0
  apply within_foldl
  · intro u1 x2 h3
    apply issueReq_within (hF.mono rfl)
    with_reducible assumption
  · apply setPort_within (hF.mono rfl)
    with_reducible assumption

theorem startRead_within {F : Part → Bool} {s : State} (hF : Part.All F [.regs, .hdrs, .irq, .fab]) {a1 : State} (a2)
    (a3) (a4) (a5) (a6) (k1 : s.Within F a1) :
    s.Within F (State.startRead a1 a2 a3 a4 a5 a6).2 := by
  unfold State.startRead
  extract_lets +onlyGivenNames y0
  split
  rename_i x1 x2 u3 e4
  have h5 : s.Within F u3 := by
    refine within_snd e4 ?_
    apply newXfer_within (hF.mono rfl)
    with_reducible assumption
  refine within_pair_snd ?_
  apply within_foldl
  · intro u6 x7 h8
    apply issueReq_within (hF.mono rfl)
    with_reducible assumption
  · with_reducible assumption

theorem startWrite_within {F : Part → Bool} {s : State} (hF : Part.All F [.regs, .hdrs, .irq, .fab]) {a1 : State} (a2)
    (a3) (a4) (a5) (a6) (k1 : s.Within F a1) :
    s.Within F (State.startWrite a1 a2 a3 a4 a5 a6).2 := by
  unfold State.startWrite
  extract_lets +onlyGivenNames y0
  split
  rename_i x1 x2 u3 e4
  have h5 : s.Within F u3 := by
    refine within_snd e4 ?_
    apply newXfer_within (hF.mono rfl)
    with_reducible assumption
  refine within_pair_snd ?_
  apply within_foldl
  · intro u6 x7 h8
    apply issueReq_within (hF.mono rfl)
    with_reducible assumption
  · with_reducible assumption

theorem accessTimeout_within {F : Part → Bool} {s : State} (hF : Part.All F [.regs, .hdrs, .irq, .fab]) {a1 : State}
    (a2) (a3) (a4) (k1 : s.Within F a1) :
    s.Within F (State.accessTimeout a1 a2 a3 a4).2 := by
  unfold State.accessTimeout
  refine within_ite_snd (fun _ => ?_) (fun _ => ?_)
  · refine within_pair_snd ?_
    with_reducible assumption
  · extract_lets +onlyGivenNames y0
    refine within_ite_snd (fun _ => ?_) (fun _ => ?_)
    · split
      · rename_i x1 e2
        refine within_pair_snd ?_
        with_reducible assumption
      · rename_i x3 x4 e5
        apply accessEnded_within (hF.mono rfl)
        apply setPort_within (hF.mono rfl)
        with_reducible assumption
    · split
      · rename_i x6 e7
        refine within_pair_snd ?_
        with_reducible assumption
      · rename_i x8 x9 e10
        apply accessEnded_within (hF.mono rfl)
        apply setPort_within (hF.mono rfl)
        with_reducible assumption

theorem pumpPorts_within {F : Part → Bool} {s : State} (hF : Part.All F [.regs, .hdrs, .irq, .fab]) {a1 : State} (k1 :
    s.Within F a1) :
    s.Within F (State.pumpPorts a1) := by
  unfold State.pumpPorts
  apply within_foldl
  · intro u0 x1 h2
    apply pumpPort_within (hF.mono rfl)
    with_reducible assumption
  · with_reducible assumption

theorem lateResponse_within {F : Part → Bool} {s : State} (hF : Part.All F [.regs, .hdrs, .irq, .fab]) {a1 : State}
    (a2) (a3) (a4) (k1 : s.Within F a1) :
    s.Within F (State.lateResponse a1 a2 a3 a4) := by
  unfold State.lateResponse
  extract_lets +onlyGivenNames y0
  refine within_ite (fun _ => ?_) (fun _ => ?_)
  · with_reducible assumption
  · extract_lets +onlyGivenNames y1
    apply pumpPort_within (hF.mono rfl)
    refine bump_within (hF.mono rfl) (not_configured rfl) ?_
    apply setPort_within (hF.mono rfl)
    with_reducible assumption

theorem freeRead_within {F : Part → Bool} {s : State} (hF : Part.All F [.fab]) {a1 : State} (a2) (a3) (k1 : s.Within F
    a1) :
    s.Within F (State.freeRead a1 a2 a3) := by
  unfold State.freeRead
  apply setPort_within (hF.mono rfl)
  with_reducible assumption

theorem freeWrite_within {F : Part → Bool} {s : State} (hF : Part.All F [.fab]) {a1 : State} (a2) (a3) (k1 : s.Within F
    a1) :
    s.Within F (State.freeWrite a1 a2 a3) := by
  unfold State.freeWrite
  apply setPort_within (hF.mono rfl)
  with_reducible assumption

theorem readResponse_within {F : Part → Bool} {s : State} (hF : Part.All F [.regs, .hdrs, .irq, .fab]) {a1 : State}
    (a2) (a3) (a4) (a5) (a6) (k1 : s.Within F a1) :
    s.Within F (State.readResponse a1 a2 a3 a4 a5 a6).2 := by
  unfold State.readResponse
  refine within_ite_snd (fun _ => ?_) (fun _ => ?_)
  · refine within_pair_snd ?_
    with_reducible assumption
  · split
    · rename_i x1 e2
      refine within_pair_snd ?_
      apply lateResponse_within (hF.mono rfl)
      with_reducible assumption
    · rename_i x3 x4 e5
      extract_lets +onlyGivenNames y8
      split
      rename_i x9 x10 u11 e12
      have h13 : s.Within F u11 := by
        refine within_snd e12 ?_
        apply accessEnded_within (hF.mono rfl)
        with_reducible assumption
      refine within_pair_snd ?_
      apply pumpPort_within (hF.mono rfl)
      apply freeRead_within (hF.mono rfl)
      with_reducible assumption

theorem writeResponse_within {F : Part → Bool} {s : State} (hF : Part.All F [.regs, .hdrs, .irq, .fab]) {a1 : State}
    (a2) (a3) (a4) (k1 : s.Within F a1) :
    s.Within F (State.writeResponse a1 a2 a3 a4).2 := by
  unfold State.writeResponse
  refine within_ite_snd (fun _ => ?_) (fun _ => ?_)
  · refine within_pair_snd ?_
    with_reducible assumption
  · split
    · rename_i x1 e2
      refine within_pair_snd ?_
      apply lateResponse_within (hF.mono rfl)
      with_reducible assumption
    · rename_i x3 x4 e5
      split
      rename_i x9 x10 u11 e12
      have h13 : s.Within F u11 := by
        refine within_snd e12 ?_
        apply accessEnded_within (hF.mono rfl)
        with_reducible assumption
      refine within_pair_snd ?_
      apply pumpPort_within (hF.mono rfl)
      apply freeWrite_within (hF.mono rfl)
      with_reducible assumption

end Sys2Proof.Machine
end

