-- ==== Sys2Proof/Laws/FrameCrown.lean ====
section
/-! SUPPORT. The frames of the operations of Machine/Crown.lean: the parts that each may change. -/

namespace Sys2Proof.Machine

set_option Elab.async false

theorem dropChain_within {F : Part → Bool} {s : State} (hF : Part.All F [.qeng]) {a1 : State} (a2) (k1 : s.Within F
    a1) :
    s.Within F (State.dropChain a1 a2) := by
  unfold State.dropChain
  refine within_qeng (hF.one rfl) ?_
  with_reducible assumption

theorem setRq_within {F : Part → Bool} {s : State} (hF : Part.All F [.qeng]) {a1 : State} (a2) (a3) (k1 : s.Within F
    a1) :
    s.Within F (State.setRq a1 a2 a3) := by
  unfold State.setRq
  refine within_qeng (hF.one rfl) ?_
  with_reducible assumption

theorem setCq_within {F : Part → Bool} {s : State} (hF : Part.All F [.crown]) {a1 : State} (a2) (a3) (k1 : s.Within F
    a1) :
    s.Within F (State.setCq a1 a2 a3) := by
  unfold State.setCq
  refine within_crown (hF.one rfl) ?_
  with_reducible assumption

theorem setFifo_within {F : Part → Bool} {s : State} (hF : Part.All F [.crown]) {a1 : State} (a2) (a3) (k1 : s.Within
    F a1) :
    s.Within F (State.setFifo a1 a2 a3) := by
  unfold State.setFifo
  refine within_crown (hF.one rfl) ?_
  with_reducible assumption

theorem freeCbuf_within {F : Part → Bool} {s : State} (hF : Part.All F [.qeng]) {a1 : State} (a2) (k1 : s.Within F a1)
    :
    s.Within F (State.freeCbuf a1 a2) := by
  unfold State.freeCbuf
  refine within_qeng (hF.one rfl) ?_
  with_reducible assumption

theorem chainReleased_within {F : Part → Bool} {s : State} (hF : Part.All F [.crown]) {a1 : State} (a2) (k1 : s.Within
    F a1) :
    s.Within F (State.chainReleased a1 a2) := by
  unfold State.chainReleased
  split
  · rename_i x0 e1
    with_reducible assumption
  · rename_i x2 x3 e4
    refine within_crown (hF.one rfl) ?_
    with_reducible assumption

theorem updChain_within {F : Part → Bool} {s : State} (hF : Part.All F [.qeng]) {a1 : State} (a2) (a3) (k1 : s.Within
    F a1) :
    s.Within F (State.updChain a1 a2 a3) := by
  unfold State.updChain
  refine within_qeng (hF.one rfl) ?_
  with_reducible assumption

theorem setRing_within {F : Part → Bool} {s : State} (hF : Part.All F [.perf]) {a1 : State} (a2) (a3) (k1 : s.Within F
    a1) :
    s.Within F (State.setRing a1 a2 a3) := by
  unfold State.setRing
  refine within_perf (hF.one rfl) ?_
  with_reducible assumption

theorem untag_within {F : Part → Bool} {s : State} (hF : Part.All F [.perf]) {a1 : State} (a2) (k1 : s.Within F a1) :
    s.Within F (State.untag a1 a2) := by
  unfold State.untag
  extract_lets +onlyGivenNames y0
  extract_lets +onlyGivenNames y1
  refine within_perf (hF.one rfl) ?_
  with_reducible assumption

theorem unholdAll_within {F : Part → Bool} {s : State} (hF : Part.All F [.qeng]) {a1 : State} (k1 : s.Within F a1) :
    s.Within F (State.unholdAll a1) := by
  unfold State.unholdAll
  refine within_qeng (hF.one rfl) ?_
  with_reducible assumption

theorem chainOn_within {F : Part → Bool} {s : State} (hF : Part.All F [.qeng]) {a1 : State} (a2) (a3) (k1 : s.Within F
    a1) :
    s.Within F (State.chainOn a1 a2 a3) := by
  unfold State.chainOn
  extract_lets +onlyGivenNames y0
  have h1 : s.Within F y0 := by
    unfold y0
    split
    · rename_i x2 e3
      with_reducible assumption
    · rename_i x4 x5 e6
      refine within_ite (fun _ => ?_) (fun _ => ?_)
      · with_reducible assumption
      · apply updChain_within (hF.mono rfl)
        apply freeCbuf_within (hF.mono rfl)
        with_reducible assumption
  extract_lets +onlyGivenNames y7
  refine within_ite (fun _ => ?_) (fun _ => ?_)
  · apply dropChain_within (hF.mono rfl)
    with_reducible assumption
  · refine within_ite (fun _ => ?_) (fun _ => ?_)
    · apply updChain_within (hF.mono rfl)
      with_reducible assumption
    · with_reducible assumption

theorem rqRead_within {F : Part → Bool} {s : State} (hF : Part.All F [.regs, .hdrs, .irq, .qeng, .fab]) {a1 : State}
    (a2) (k1 : s.Within F a1) :
    s.Within F (State.rqRead a1 a2) := by
  unfold State.rqRead
  extract_lets +onlyGivenNames y0
  extract_lets +onlyGivenNames y1
  extract_lets +onlyGivenNames y2
  extract_lets +onlyGivenNames y3
  refine within_ite (fun _ => ?_) (fun _ => ?_)
  · extract_lets +onlyGivenNames y4
    have h5 : s.Within F y4 := by
      unfold y4
      apply setRq_within (hF.mono rfl)
      with_reducible assumption
    apply startRead_within (hF.mono rfl)
    with_reducible assumption
  · with_reducible assumption

theorem updCq_within {F : Part → Bool} {s : State} (hF : Part.All F [.crown]) {a1 : State} (a2) (a3) (k1 : s.Within F
    a1) :
    s.Within F (State.updCq a1 a2 a3) := by
  unfold State.updCq
  apply setCq_within (hF.mono rfl)
  with_reducible assumption

theorem updRq_within {F : Part → Bool} {s : State} (hF : Part.All F [.qeng]) {a1 : State} (a2) (a3) (k1 : s.Within F
    a1) :
    s.Within F (State.updRq a1 a2 a3) := by
  unfold State.updRq
  apply setRq_within (hF.mono rfl)
  with_reducible assumption

theorem issueMirror_within {F : Part → Bool} {s : State} (hF : Part.All F [.regs, .hdrs, .irq, .crown, .fab]) {a1 :
    State} (a2) (k1 : s.Within F a1) :
    s.Within F (State.issueMirror a1 a2) := by
  unfold State.issueMirror
  extract_lets +onlyGivenNames y0
  extract_lets +onlyGivenNames y1
  refine within_ite (fun _ => ?_) (fun _ => ?_)
  · extract_lets +onlyGivenNames y2
    extract_lets +onlyGivenNames y3
    extract_lets +onlyGivenNames y4
    have h5 : s.Within F y4 := by
      unfold y4
      apply setCq_within (hF.mono rfl)
      with_reducible assumption
    extract_lets +onlyGivenNames y6
    have h7 : s.Within F y6 := by
      unfold y6
      apply perfCount_within (hF.mono rfl)
      with_reducible assumption
    apply startWrite_within (hF.mono rfl)
    with_reducible assumption
  · with_reducible assumption

theorem push_within {F : Part → Bool} {s : State} (hF : Part.All F [.hdrs, .irq, .crown]) {a1 : State} (a2) (a3) (k1 :
    s.Within F a1) :
    s.Within F (State.push a1 a2 a3) := by
  unfold State.push
  extract_lets +onlyGivenNames y0
  extract_lets +onlyGivenNames y1
  refine within_ite (fun _ => ?_) (fun _ => ?_)
  · extract_lets +onlyGivenNames y2
    have h3 : s.Within F y2 := by
      unfold y2
      apply setFifo_within (hF.mono rfl)
      with_reducible assumption
    refine within_ite (fun _ => ?_) (fun _ => ?_)
    · apply raiseEvent_within (hF.mono rfl)
      with_reducible assumption
    · with_reducible assumption
  · refine within_crown (hF.one rfl) ?_
    with_reducible assumption

theorem ringLevel_within {F : Part → Bool} {s : State} (hF : Part.All F [.hdrs, .irq, .perf]) {a1 : State} (a2) (k1 :
    s.Within F a1) :
    s.Within F (State.ringLevel a1 a2) := by
  unfold State.ringLevel
  extract_lets +onlyGivenNames y0
  extract_lets +onlyGivenNames y1
  extract_lets +onlyGivenNames y2
  extract_lets +onlyGivenNames y3
  extract_lets +onlyGivenNames y4
  extract_lets +onlyGivenNames y5
  have h6 : s.Within F y5 := by
    unfold y5
    apply setRing_within (hF.mono rfl)
    with_reducible assumption
  refine within_ite (fun _ => ?_) (fun _ => ?_)
  · extract_lets +onlyGivenNames y7
    have h8 : s.Within F y7 := by
      unfold y7
      refine within_ite (fun _ => ?_) (fun _ => ?_)
      · apply raiseEvent_within (hF.mono rfl)
        with_reducible assumption
      · with_reducible assumption
    refine within_ite (fun _ => ?_) (fun _ => ?_)
    · apply raiseEvent_within (hF.mono rfl)
      with_reducible assumption
    · with_reducible assumption
  · with_reducible assumption

theorem unstall_within {F : Part → Bool} {s : State} (hF : Part.All F [.hdrs, .irq, .crown]) {a1 : State} (k1 :
    s.Within F a1) :
    s.Within F (State.unstall a1) := by
  unfold State.unstall
  extract_lets +onlyGivenNames y0
  extract_lets +onlyGivenNames y1
  extract_lets +onlyGivenNames y2
  have h3 : s.Within F y2 := by
    unfold y2
    refine within_crown (hF.one rfl) ?_
    with_reducible assumption
  apply within_foldl
  · intro u4 x5 h6
    extract_lets +onlyGivenNames y7
    refine within_ite (fun _ => ?_) (fun _ => ?_)
    · extract_lets +onlyGivenNames y8
      have h9 : s.Within F y8 := by
        unfold y8
        apply setFifo_within (hF.mono rfl)
        with_reducible assumption
      refine within_ite (fun _ => ?_) (fun _ => ?_)
      · apply raiseEvent_within (hF.mono rfl)
        with_reducible assumption
      · with_reducible assumption
    · refine within_crown (hF.one rfl) ?_
      with_reducible assumption
  · with_reducible assumption

theorem cqDrainEnd_within {F : Part → Bool} {s : State} (hF : Part.All F [.crown]) {a1 : State} (a2) (k1 : s.Within F
    a1) :
    s.Within F (State.cqDrainEnd a1 a2) := by
  unfold State.cqDrainEnd
  extract_lets +onlyGivenNames y0
  refine within_ite (fun _ => ?_) (fun _ => ?_)
  · apply setCq_within (hF.mono rfl)
    with_reducible assumption
  · with_reducible assumption

theorem rqDrainEnd_within {F : Part → Bool} {s : State} (hF : Part.All F [.qeng, .fab]) {a1 : State} (a2) (k1 :
    s.Within F a1) :
    s.Within F (State.rqDrainEnd a1 a2) := by
  unfold State.rqDrainEnd
  extract_lets +onlyGivenNames y0
  refine within_ite (fun _ => ?_) (fun _ => ?_)
  · apply setRq_within (hF.mono rfl)
    apply dropXfers_within (hF.mono rfl)
    with_reducible assumption
  · with_reducible assumption

theorem setFull_within {F : Part → Bool} {s : State} (hF : Part.All F [.qeng, .crown]) {a1 : State} (a2) (a3) (k1 :
    s.Within F a1) :
    s.Within F (State.setFull a1 a2 a3) := by
  unfold State.setFull
  extract_lets +onlyGivenNames y0
  have h1 : s.Within F y0 := by
    unfold y0
    apply updCq_within (hF.mono rfl)
    with_reducible assumption
  apply within_foldl
  · intro u2 x3 h4
    apply updRq_within (hF.mono rfl)
    with_reducible assumption
  · with_reducible assumption

theorem unhold_within {F : Part → Bool} {s : State} (hF : Part.All F [.qeng]) {a1 : State} (a2) (k1 : s.Within F a1) :
    s.Within F (State.unhold a1 a2) := by
  unfold State.unhold
  apply updRq_within (hF.mono rfl)
  with_reducible assumption

theorem traceTo_within {F : Part → Bool} {s : State} (hF : Part.All F [.regs, .hdrs, .irq, .fab, .perf]) {a1 : State}
    (a2) (a3) (a4) (k1 : s.Within F a1) :
    s.Within F (State.traceTo a1 a2 a3 a4) := by
  unfold State.traceTo
  refine within_ite (fun _ => ?_) (fun _ => ?_)
  · with_reducible assumption
  · extract_lets +onlyGivenNames y0
    extract_lets +onlyGivenNames y1
    refine within_ite (fun _ => ?_) (fun _ => ?_)
    · extract_lets +onlyGivenNames y2
      have h3 : s.Within F y2 := by
        unfold y2
        apply perfCount_within (hF.mono rfl)
        with_reducible assumption
      refine within_ite (fun _ => ?_) (fun _ => ?_)
      · apply fnCount_within (hF.mono rfl)
        with_reducible assumption
      · with_reducible assumption
    · extract_lets +onlyGivenNames y4
      have h5 : s.Within F y4 := by
        unfold y4
        apply setRing_within (hF.mono rfl)
        with_reducible assumption
      split
      rename_i x6 x7 u8 e9
      have h10 : s.Within F u8 := by
        refine within_snd e9 ?_
        apply startWrite_within (hF.mono rfl)
        with_reducible assumption
      apply ringLevel_within (hF.mono rfl)
      with_reducible assumption

theorem ungrant_within {F : Part → Bool} {s : State} (hF : Part.All F [.crown]) {a1 : State} (a2) (k1 : s.Within F a1)
    :
    s.Within F (State.ungrant a1 a2) := by
  unfold State.ungrant
  apply cqDrainEnd_within (hF.mono rfl)
  apply updCq_within (hF.mono rfl)
  with_reducible assumption

theorem pushEvent_within {F : Part → Bool} {s : State} (hF : Part.All F [.hdrs, .irq, .crown]) {a1 : State} (a2) (k1 :
    s.Within F a1) :
    s.Within F (State.pushEvent a1 a2) := by
  unfold State.pushEvent
  apply push_within (hF.mono rfl)
  with_reducible assumption

theorem issueOne_within {F : Part → Bool} {s : State} (hF : Part.All F [.regs, .hdrs, .irq, .qeng, .crown]) {a1 :
    State} (k1 : s.Within F a1) :
    s.Within F (State.issueOne a1) := by
  unfold State.issueOne
  split
  · rename_i x0 e1
    with_reducible assumption
  · rename_i x2 x3 x4 x5 e6
    extract_lets +onlyGivenNames y7
    extract_lets +onlyGivenNames y8
    have h9 : s.Within F y8 := by
      unfold y8
      refine within_qeng (hF.one rfl) ?_
      with_reducible assumption
    extract_lets +onlyGivenNames y10
    have h11 : s.Within F y10 := by
      unfold y10
      apply updRq_within (hF.mono rfl)
      with_reducible assumption
    split
    · rename_i x12 x13
      apply push_within (hF.mono rfl)
      with_reducible assumption
    · rename_i x14
      extract_lets +onlyGivenNames y15
      have h16 : s.Within F y15 := by
        unfold y15
        apply fnCount_within (hF.mono rfl)
        with_reducible assumption
      extract_lets +onlyGivenNames y17
      split
      · rename_i x18 e19
        refine within_qeng (hF.one rfl) ?_
        with_reducible assumption
      · rename_i x20 x21 e22
        refine within_ite (fun _ => ?_) (fun _ => ?_)
        · extract_lets +onlyGivenNames y23
          have h24 : s.Within F y23 := by
            unfold y23
            apply fnCount_within (hF.mono rfl)
            apply perfCount_within (hF.mono rfl)
            with_reducible assumption
          refine within_qeng (hF.one rfl) ?_
          with_reducible assumption
        · refine within_qeng (hF.one rfl) ?_
          with_reducible assumption

theorem pushAborted_within {F : Part → Bool} {s : State} (hF : Part.All F [.hdrs, .irq, .crown]) {a1 : State} (a2)
    (a3) (a4) (k1 : s.Within F a1) :
    s.Within F (State.pushAborted a1 a2 a3 a4) := by
  unfold State.pushAborted
  apply push_within (hF.mono rfl)
  with_reducible assumption

theorem pushStatus_within {F : Part → Bool} {s : State} (hF : Part.All F [.hdrs, .irq, .crown]) {a1 : State} (a2) (a3)
    (a4) (k1 : s.Within F a1) :
    s.Within F (State.pushStatus a1 a2 a3 a4) := by
  unfold State.pushStatus
  apply push_within (hF.mono rfl)
  with_reducible assumption

theorem grant_within {F : Part → Bool} {s : State} (hF : Part.All F [.regs, .crown]) {a1 : State} (a2) (a3) (k1 :
    s.Within F a1) :
    s.Within F (State.grant a1 a2 a3) := by
  unfold State.grant
  extract_lets +onlyGivenNames y0
  have h1 : s.Within F y0 := by
    unfold y0
    apply updCq_within (hF.mono rfl)
    with_reducible assumption
  refine within_ite (fun _ => ?_) (fun _ => ?_)
  · refine put_within (hF.mono rfl) (not_configured rfl) ?_
    with_reducible assumption
  · with_reducible assumption

theorem refill_within {F : Part → Bool} {s : State} (hF : Part.All F [.regs, .hdrs, .irq, .qeng, .fab]) {a1 : State}
    (a2) (k1 : s.Within F a1) :
    s.Within F (State.refill a1 a2) := by
  unfold State.refill
  refine within_ite (fun _ => ?_) (fun _ => ?_)
  · apply rqRead_within (hF.mono rfl)
    with_reducible assumption
  · with_reducible assumption

theorem traceEnd_within {F : Part → Bool} {s : State} (hF : Part.All F [.regs, .hdrs, .irq, .fab, .perf]) {a1 : State}
    (a2) (a3) (k1 : s.Within F a1) :
    s.Within F (State.traceEnd a1 a2 a3) := by
  unfold State.traceEnd
  split
  · rename_i x0 e1
    with_reducible assumption
  · rename_i x2 x3 e4
    refine within_ite (fun _ => ?_) (fun _ => ?_)
    · with_reducible assumption
    · extract_lets +onlyGivenNames y5
      extract_lets +onlyGivenNames y6
      have h7 : s.Within F y6 := by
        unfold y6
        refine within_perf (hF.one rfl) ?_
        with_reducible assumption
      extract_lets +onlyGivenNames y8
      have h9 : s.Within F y8 := by
        unfold y8
        apply traceTo_within (hF.mono rfl)
        with_reducible assumption
      extract_lets +onlyGivenNames y10
      refine within_ite (fun _ => ?_) (fun _ => ?_)
      · with_reducible assumption
      · apply traceTo_within (hF.mono rfl)
        with_reducible assumption

theorem issueRest_within {F : Part → Bool} {s : State} (hF : Part.All F [.regs, .hdrs, .irq, .qeng, .crown]) {a1 :
    State} (k1 : s.Within F a1) :
    s.Within F (State.issueRest a1) := by
  unfold State.issueRest
  apply within_foldl
  · intro u0 x1 h2
    apply issueOne_within (hF.mono rfl)
    with_reducible assumption
  · with_reducible assumption

theorem abortChain_within {F : Part → Bool} {s : State} (hF : Part.All F [.regs, .hdrs, .irq, .qeng, .crown, .fab])
    {a1 : State} (a2) (a3) (a4) (k1 : s.Within F a1) :
    s.Within F (State.abortChain a1 a2 a3 a4) := by
  unfold State.abortChain
  extract_lets +onlyGivenNames y0
  have h1 : s.Within F y0 := by
    unfold y0
    apply dropChain_within (hF.mono rfl)
    with_reducible assumption
  extract_lets +onlyGivenNames y2
  have h3 : s.Within F y2 := by
    unfold y2
    split
    · rename_i x4 e5
      with_reducible assumption
    · rename_i x6 x7 e8
      apply freeCbuf_within (hF.mono rfl)
      with_reducible assumption
  extract_lets +onlyGivenNames y9
  have h10 : s.Within F y9 := by
    unfold y9
    apply within_foldl
    · intro u11 x12 h13
      apply pushAborted_within (hF.mono rfl)
      with_reducible assumption
    · with_reducible assumption
  split
  · rename_i x14 e15
    with_reducible assumption
  · rename_i x16 x17 x18 e19
    apply refill_within (hF.mono rfl)
    with_reducible assumption

theorem recallChain_within {F : Part → Bool} {s : State} (hF : Part.All F [.qeng, .ctx]) {a1 : State} (a2) (k1 :
    s.Within F a1) :
    s.Within F (State.recallChain a1 a2).2 := by
  unfold State.recallChain
  extract_lets +onlyGivenNames y0
  extract_lets +onlyGivenNames y1
  refine within_pair_snd ?_
  apply within_foldl
  · intro u2 x3 h4
    apply unhold_within (hF.mono rfl)
    with_reducible assumption
  · refine within_mk ?_ (.inr rfl) (.inr rfl) (.inr rfl) (.inr rfl) (.inl (hF.one rfl)) (.inr rfl) (.inr rfl) (.inr rfl) (.inl (hF.one rfl)) (.inr rfl) (.inr rfl) (.inr rfl) (.inr rfl) (.inr rfl) (.inr ⟨rfl, rfl, rfl⟩) (.inr rfl) (.inr rfl) (.inr rfl) (.inr rfl) (.inr rfl) (.inr rfl) (.inr rfl) (.inr rfl)
    with_reducible assumption

theorem traceDiscard_within {F : Part → Bool} {s : State} (hF : Part.All F [.regs, .hdrs, .irq, .fab, .perf]) {a1 :
    State} (a2) (k1 : s.Within F a1) :
    s.Within F (State.traceDiscard a1 a2) := by
  unfold State.traceDiscard
  apply within_foldl
  · intro u0 x1 h2
    apply traceEnd_within (hF.mono rfl)
    with_reducible assumption
  · with_reducible assumption

theorem writeEntry_within {F : Part → Bool} {s : State} (hF : Part.All F [.regs, .hdrs, .irq, .crown, .fab, .perf])
    {a1 : State} (a2) (a3) (a4) (k1 : s.Within F a1) :
    s.Within F (State.writeEntry a1 a2 a3 a4) := by
  unfold State.writeEntry
  extract_lets +onlyGivenNames y0
  extract_lets +onlyGivenNames y1
  extract_lets +onlyGivenNames y2
  extract_lets +onlyGivenNames y3
  have h4 : s.Within F y3 := by
    unfold y3
    apply updCq_within (hF.mono rfl)
    with_reducible assumption
  extract_lets +onlyGivenNames y5
  split
  rename_i x6 x7 u8 e9
  have h10 : s.Within F u8 := by
    refine within_snd e9 ?_
    apply startWrite_within (hF.mono rfl)
    with_reducible assumption
  extract_lets +onlyGivenNames y11
  have h12 : s.Within F y11 := by
    unfold y11
    apply perfCount_within (hF.mono rfl)
    with_reducible assumption
  extract_lets +onlyGivenNames y13
  have h14 : s.Within F y13 := by
    unfold y13
    apply perfCount_within (hF.mono rfl)
    with_reducible assumption
  extract_lets +onlyGivenNames y15
  extract_lets +onlyGivenNames y16
  have h17 : s.Within F y16 := by
    unfold y16
    apply fnCount_within (hF.mono rfl)
    with_reducible assumption
  extract_lets +onlyGivenNames y18
  have h19 : s.Within F y18 := by
    unfold y18
    apply perfCount_within (hF.mono rfl)
    with_reducible assumption
  extract_lets +onlyGivenNames y20
  have h21 : s.Within F y20 := by
    unfold y20
    apply fnCount_within (hF.mono rfl)
    with_reducible assumption
  extract_lets +onlyGivenNames y22
  have h23 : s.Within F y22 := by
    unfold y22
    apply fnCount_within (hF.mono rfl)
    with_reducible assumption
  extract_lets +onlyGivenNames y24
  have h25 : s.Within F y24 := by
    unfold y24
    apply fnCount_within (hF.mono rfl)
    with_reducible assumption
  extract_lets +onlyGivenNames y26
  have h27 : s.Within F y26 := by
    unfold y26
    apply fnCount_within (hF.mono rfl)
    with_reducible assumption
  apply traceEnd_within (hF.mono rfl)
  with_reducible assumption

theorem chainOff_within {F : Part → Bool} {s : State} (hF : Part.All F [.regs, .hdrs, .irq, .qeng, .crown, .fab,
    .ctx]) {a1 : State} (a2) (k1 : s.Within F a1) :
    s.Within F (State.chainOff a1 a2) := by
  unfold State.chainOff
  split
  · rename_i x0 e1
    with_reducible assumption
  · rename_i x2 x3 e4
    split
    rename_i x5 x6 u7 e8
    have h9 : s.Within F u7 := by
      refine within_snd e8 ?_
      apply recallChain_within (hF.mono rfl)
      apply issueRest_within (hF.mono rfl)
      with_reducible assumption
    apply fnCount_within (hF.mono rfl)
    apply abortChain_within (hF.mono rfl)
    with_reducible assumption

theorem reached_within {F : Part → Bool} {s : State} (hF : Part.All F [.regs, .hdrs, .irq, .qeng, .crown, .fab, .ctx])
    {a1 : State} (a2) (k1 : s.Within F a1) :
    s.Within F (State.reached a1 a2) := by
  unfold State.reached
  extract_lets +onlyGivenNames y0
  extract_lets +onlyGivenNames y1
  have h2 : s.Within F y1 := by
    unfold y1
    apply updRq_within (hF.mono rfl)
    with_reducible assumption
  extract_lets +onlyGivenNames y3
  have h4 : s.Within F y3 := by
    unfold y3
    refine within_ite (fun _ => ?_) (fun _ => ?_)
    · split
      · rename_i x5 e6
        with_reducible assumption
      · rename_i x7 x8 e9
        apply chainOn_within (hF.mono rfl)
        with_reducible assumption
    · apply chainOff_within (hF.mono rfl)
      with_reducible assumption
  apply rqDrainEnd_within (hF.mono rfl)
  with_reducible assumption

theorem writeHeld_within {F : Part → Bool} {s : State} (hF : Part.All F [.regs, .hdrs, .irq, .qeng, .crown, .fab,
    .perf]) {a1 : State} (a2) (a3) (k1 : s.Within F a1) :
    s.Within F (State.writeHeld a1 a2 a3) := by
  induction' a3 with x ih generalizing a1 a2
  · rw [State.writeHeld]
    with_reducible assumption
  · rw [State.writeHeld]
    split
    · rename_i x0 e1
      refine within_ite (fun _ => ?_) (fun _ => ?_)
      · apply setFull_within (hF.mono rfl)
        with_reducible assumption
      · with_reducible assumption
    · rename_i x2 x3 x4 e5
      refine within_ite (fun _ => ?_) (fun _ => ?_)
      · apply ih
        apply writeEntry_within (hF.mono rfl)
        apply setCq_within (hF.mono rfl)
        with_reducible assumption
      · with_reducible assumption

theorem fenceCq_within {F : Part → Bool} {s : State} (hF : Part.All F [.regs, .hdrs, .irq, .qeng, .crown, .fab,
    .perf]) {a1 : State} (a2) (a3) (k1 : s.Within F a1) :
    s.Within F (State.fenceCq a1 a2 a3) := by
  unfold State.fenceCq
  extract_lets +onlyGivenNames y0
  refine within_ite (fun _ => ?_) (fun _ => ?_)
  · extract_lets +onlyGivenNames y1
    have h2 : s.Within F y1 := by
      unfold y1
      apply dropXfers_within (hF.mono rfl)
      with_reducible assumption
    extract_lets +onlyGivenNames y3
    extract_lets +onlyGivenNames y4
    have h5 : s.Within F y4 := by
      unfold y4
      apply traceDiscard_within (hF.mono rfl)
      with_reducible assumption
    extract_lets +onlyGivenNames y6
    have h7 : s.Within F y6 := by
      unfold y6
      apply setCq_within (hF.mono rfl)
      with_reducible assumption
    extract_lets +onlyGivenNames y8
    have h9 : s.Within F y8 := by
      unfold y8
      refine putFlag_within (hF.mono rfl) (not_configured rfl) ?_
      with_reducible assumption
    extract_lets +onlyGivenNames y10
    have h11 : s.Within F y10 := by
      unfold y10
      refine put_within (hF.mono rfl) (not_configured rfl) ?_
      with_reducible assumption
    apply within_foldl
    · intro u12 x13 h14
      apply updRq_within (hF.mono rfl)
      with_reducible assumption
    · with_reducible assumption
  · with_reducible assumption

theorem release_within {F : Part → Bool} {s : State} (hF : Part.All F [.regs, .hdrs, .irq, .qeng, .crown, .fab,
    .perf]) {a1 : State} (a2) (k1 : s.Within F a1) :
    s.Within F (State.release a1 a2) := by
  unfold State.release
  extract_lets +onlyGivenNames y0
  extract_lets +onlyGivenNames y1
  refine within_ite (fun _ => ?_) (fun _ => ?_)
  · apply traceEnd_within (hF.mono rfl)
    apply ungrant_within (hF.mono rfl)
    with_reducible assumption
  · extract_lets +onlyGivenNames y2
    have h3 : s.Within F y2 := by
      unfold y2
      apply setCq_within (hF.mono rfl)
      with_reducible assumption
    refine within_ite (fun _ => ?_) (fun _ => ?_)
    · apply fnCount_within (hF.mono rfl)
      apply updCq_within (hF.mono rfl)
      with_reducible assumption
    · refine within_ite (fun _ => ?_) (fun _ => ?_)
      · apply writeEntry_within (hF.mono rfl)
        with_reducible assumption
      · extract_lets +onlyGivenNames y4
        have h5 : s.Within F y4 := by
          unfold y4
          apply updCq_within (hF.mono rfl)
          with_reducible assumption
        extract_lets +onlyGivenNames y6
        have h7 : s.Within F y6 := by
          unfold y6
          apply fnCount_within (hF.mono rfl)
          with_reducible assumption
        extract_lets +onlyGivenNames y8
        have h9 : s.Within F y8 := by
          unfold y8
          refine bump_within (hF.mono rfl) (not_configured rfl) ?_
          with_reducible assumption
        extract_lets +onlyGivenNames y10
        have h11 : s.Within F y10 := by
          unfold y10
          apply raiseEvent_within (hF.mono rfl)
          with_reducible assumption
        extract_lets +onlyGivenNames y12
        have h13 : s.Within F y12 := by
          unfold y12
          apply raiseEvent_within (hF.mono rfl)
          with_reducible assumption
        apply setFull_within (hF.mono rfl)
        with_reducible assumption

theorem releaseAll_within {F : Part → Bool} {s : State} (hF : Part.All F [.regs, .hdrs, .irq, .qeng, .crown, .fab,
    .perf]) {a1 : State} (a2) (k1 : s.Within F a1) :
    s.Within F (State.releaseAll a1 a2) := by
  induction' a2 with x ih generalizing a1
  · rw [State.releaseAll]
    with_reducible assumption
  · rw [State.releaseAll]
    split
    · rename_i x0 e1
      with_reducible assumption
    · rename_i x2 x3 e4
      split
      · rename_i x5 e6
        with_reducible assumption
      · rename_i x7 x8 e9
        extract_lets +onlyGivenNames y10
        extract_lets +onlyGivenNames y11
        have h12 : s.Within F y11 := by
          unfold y11
          refine within_crown (hF.one rfl) ?_
          with_reducible assumption
        extract_lets +onlyGivenNames y13
        have h14 : s.Within F y13 := by
          unfold y13
          split
          · rename_i x15 e16
            with_reducible assumption
          · rename_i x17 x18 e19
            apply updRq_within (hF.mono rfl)
            with_reducible assumption
        apply ih
        apply release_within (hF.mono rfl)
        apply chainReleased_within (hF.mono rfl)
        with_reducible assumption

theorem takeFrom_within {F : Part → Bool} {s : State} (hF : Part.All F [.regs, .hdrs, .irq, .qeng, .crown, .fab,
    .ctx]) {a1 : State} (a2) (k1 : s.Within F a1) :
    s.Within F (State.takeFrom a1 a2) := by
  unfold State.takeFrom
  split
  · rename_i x0 e1
    with_reducible assumption
  · rename_i x2 x3 x4 e5
    extract_lets +onlyGivenNames y6
    have h7 : s.Within F y6 := by
      unfold y6
      apply setFifo_within (hF.mono rfl)
      with_reducible assumption
    split
    · rename_i x8 x9 e10
      apply countVec_within (hF.mono rfl)
      with_reducible assumption
    · rename_i x11 e12
      extract_lets +onlyGivenNames y13
      have h14 : s.Within F y13 := by
        unfold y13
        apply perfCount_within (hF.mono rfl)
        with_reducible assumption
      extract_lets +onlyGivenNames y15
      extract_lets +onlyGivenNames y16
      have h17 : s.Within F y16 := by
        unfold y16
        apply perfCount_within (hF.mono rfl)
        with_reducible assumption
      extract_lets +onlyGivenNames y18
      have h19 : s.Within F y18 := by
        unfold y18
        apply fnCount_within (hF.mono rfl)
        with_reducible assumption
      extract_lets +onlyGivenNames y20
      extract_lets +onlyGivenNames y21
      have h22 : s.Within F y21 := by
        unfold y21
        refine within_crown (hF.one rfl) ?_
        with_reducible assumption
      apply reached_within (hF.mono rfl)
      with_reducible assumption

theorem releaseWaiting_within {F : Part → Bool} {s : State} (hF : Part.All F [.regs, .hdrs, .irq, .qeng, .crown, .fab,
    .perf]) {a1 : State} (k1 : s.Within F a1) :
    s.Within F (State.releaseWaiting a1) := by
  unfold State.releaseWaiting
  apply releaseAll_within (hF.mono rfl)
  with_reducible assumption

theorem crownCycle_within {F : Part → Bool} {s : State} (hF : Part.All F [.regs, .hdrs, .irq, .qeng, .crown, .fab,
    .ctx, .perf]) {a1 : State} (k1 : s.Within F a1) :
    s.Within F (State.crownCycle a1) := by
  unfold State.crownCycle
  extract_lets +onlyGivenNames y0
  extract_lets +onlyGivenNames y1
  extract_lets +onlyGivenNames y2
  have h3 : s.Within F y2 := by
    unfold y2
    refine bump_within (hF.mono rfl) (not_configured rfl) ?_
    with_reducible assumption
  extract_lets +onlyGivenNames y4
  extract_lets +onlyGivenNames y5
  have h6 : s.Within F y5 := by
    unfold y5
    apply within_foldl
    · intro u7 x8 h9
      apply takeFrom_within (hF.mono rfl)
      with_reducible assumption
    · with_reducible assumption
  extract_lets +onlyGivenNames y10
  extract_lets +onlyGivenNames y11
  have h12 : s.Within F y11 := by
    unfold y11
    refine within_crown (hF.one rfl) ?_
    with_reducible assumption
  apply ascending_within (hF.mono rfl)
  apply releaseWaiting_within (hF.mono rfl)
  apply unstall_within (hF.mono rfl)
  with_reducible assumption

end Sys2Proof.Machine
end

