-- ==== Sys2Proof/Laws/FrameJobs.lean ====
section
/-! SUPPORT. The frames of the operations of Machine/Jobs.lean: the parts that each may change. -/

namespace Sys2Proof.Machine

set_option Elab.async false

theorem readPart_within {F : Part → Bool} {s : State} (hF : Part.All F [.regs, .hdrs, .irq, .fab]) {a1 : State} (a2)
    (a3) (a4) (a5) (k1 : s.Within F a1) :
    s.Within F (State.readPart a1 a2 a3 a4 a5).2 := by
  unfold State.readPart
  refine within_ite_snd (fun _ => ?_) (fun _ => ?_)
  · refine within_pair_snd ?_
    with_reducible assumption
  · refine within_pair_snd ?_
    apply startRead_within (hF.mono rfl)
    with_reducible assumption

theorem writeResult_within {F : Part → Bool} {s : State} (hF : Part.All F [.regs, .hdrs, .irq, .crown, .fab,
    .finishes]) {a1 : State} (a2) (a3) (a4) (a5) (a6) (a7) (k1 : s.Within F a1) :
    s.Within F (State.writeResult a1 a2 a3 a4 a5 a6 a7) := by
  unfold State.writeResult
  extract_lets +onlyGivenNames y0
  refine within_ite (fun _ => ?_) (fun _ => ?_)
  · apply push_within (hF.mono rfl)
    with_reducible assumption
  · extract_lets +onlyGivenNames y1
    have h2 : s.Within F y1 := by
      unfold y1
      refine within_finishes (hF.one rfl) ?_
      with_reducible assumption
    apply startWrite_within (hF.mono rfl)
    with_reducible assumption

theorem endJob_within {F : Part → Bool} {s : State} (hF : Part.All F [.hdrs, .irq, .crown]) {a1 : State} (a2) (a3)
    (a4) (k1 : s.Within F a1) :
    s.Within F (State.endJob a1 a2 a3 a4) := by
  unfold State.endJob
  apply push_within (hF.mono rfl)
  with_reducible assumption

theorem newJob_within {F : Part → Bool} {s : State} (hF : Part.All F []) {a1 : State} (a2) (k1 : s.Within F a1) :
    s.Within F (State.newJob a1 a2).2 := by
  unfold State.newJob
  refine within_pair_snd ?_
  refine within_nextJob ?_
  with_reducible assumption

theorem putSecret_within {F : Part → Bool} {s : State} (hF : Part.All F [.qeng]) {a1 : State} (a2) (a3) (k1 : s.Within
    F a1) :
    s.Within F (State.putSecret a1 a2 a3) := by
  unfold State.putSecret
  split
  · rename_i x0 e1
    with_reducible assumption
  · rename_i x2 x3 x4 e5
    refine within_qeng (hF.one rfl) ?_
    with_reducible assumption

theorem endJobWith_within {F : Part → Bool} {s : State} (hF : Part.All F [.hdrs, .irq, .crown]) {a1 : State} (a2) (a3)
    (a4) (k1 : s.Within F a1) :
    s.Within F (State.endJobWith a1 a2 a3 a4) := by
  unfold State.endJobWith
  apply endJob_within (hF.mono rfl)
  with_reducible assumption

end Sys2Proof.Machine
end

