-- ==== Sys2Proof/Laws/FrameCores.lean ====
section
/-! SUPPORT. The frames of the operations of Machine/Cores.lean: the parts that each may change. -/

namespace Sys2Proof.Machine

set_option Elab.async false

theorem setDgChan_within {F : Part → Bool} {s : State} (hF : Part.All F [.digest]) {a1 : State} (a2) (a3) (k1 :
    s.Within F a1) :
    s.Within F (State.setDgChan a1 a2 a3) := by
  unfold State.setDgChan
  refine within_digest (hF.one rfl) ?_
  with_reducible assumption

theorem setDcore_within {F : Part → Bool} {s : State} (hF : Part.All F [.digest]) {a1 : State} (a2) (a3) (k1 :
    s.Within F a1) :
    s.Within F (State.setDcore a1 a2 a3) := by
  unfold State.setDcore
  refine within_digest (hF.one rfl) ?_
  with_reducible assumption

theorem coreCount_within {F : Part → Bool} {s : State} (hF : Part.All F [.regs, .hdrs, .irq, .digest]) {a1 : State}
    (a2) (a3) (k1 : s.Within F a1) :
    s.Within F (State.coreCount a1 a2 a3) := by
  unfold State.coreCount
  extract_lets +onlyGivenNames y0
  extract_lets +onlyGivenNames y1
  have h2 : s.Within F y1 := by
    unfold y1
    refine within_ite (fun _ => ?_) (fun _ => ?_)
    · apply setDcore_within (hF.mono rfl)
      with_reducible assumption
    · with_reducible assumption
  refine bump_within (hF.mono rfl) (not_configured rfl) ?_
  apply perfCount_within (hF.mono rfl)
  with_reducible assumption

theorem handBack_within {F : Part → Bool} {s : State} (hF : Part.All F [.digest]) {a1 : State} (a2) (a3) (k1 :
    s.Within F a1) :
    s.Within F (State.handBack a1 a2 a3) := by
  unfold State.handBack
  split
  · rename_i x0 e1
    with_reducible assumption
  · rename_i x2 x3 e4
    extract_lets +onlyGivenNames y5
    extract_lets +onlyGivenNames y6
    have h7 : s.Within F y6 := by
      unfold y6
      apply setDgChan_within (hF.mono rfl)
      with_reducible assumption
    extract_lets +onlyGivenNames y8
    extract_lets +onlyGivenNames y9
    have h10 : s.Within F y9 := by
      unfold y9
      refine within_digest (hF.one rfl) ?_
      with_reducible assumption
    apply setDcore_within (hF.mono rfl)
    with_reducible assumption

theorem takeCore_within {F : Part → Bool} {s : State} (hF : Part.All F [.digest]) {a1 : State} (a2) (a3) (k1 :
    s.Within F a1) :
    s.Within F (State.takeCore a1 a2 a3) := by
  unfold State.takeCore
  extract_lets +onlyGivenNames y0
  extract_lets +onlyGivenNames y1
  apply setDcore_within (hF.mono rfl)
  apply setDgChan_within (hF.mono rfl)
  with_reducible assumption

theorem resumeOn_within {F : Part → Bool} {s : State} (hF : Part.All F [.regs, .hdrs, .irq, .digest]) {a1 : State}
    (a2) (k1 : s.Within F a1) :
    s.Within F (State.resumeOn a1 a2) := by
  unfold State.resumeOn
  split
  · rename_i x0 e1
    with_reducible assumption
  · rename_i x2 x3 x4 e5
    refine within_ite (fun _ => ?_) (fun _ => ?_)
    · with_reducible assumption
    · extract_lets +onlyGivenNames y6
      extract_lets +onlyGivenNames y7
      have h8 : s.Within F y7 := by
        unfold y7
        apply setDcore_within (hF.mono rfl)
        with_reducible assumption
      refine within_ite (fun _ => ?_) (fun _ => ?_)
      · apply takeCore_within (hF.mono rfl)
        apply perfCount_within (hF.mono rfl)
        with_reducible assumption
      · with_reducible assumption

theorem takeCores_within {F : Part → Bool} {s : State} (hF : Part.All F [.digest]) {a1 : State} (a2) (k1 : s.Within F
    a1) :
    s.Within F (State.takeCores a1 a2) := by
  induction' a2 with x ih generalizing a1
  · rw [State.takeCores]
    with_reducible assumption
  · rw [State.takeCores]
    split
    · rename_i x0 x1 x2 x3 e4 e5
      apply ih
      apply takeCore_within (hF.mono rfl)
      with_reducible assumption
    · rename_i x6 x7 e8
      with_reducible assumption

theorem takePriv_within {F : Part → Bool} {s : State} (hF : Part.All F [.regs, .hdrs, .irq, .digest]) {a1 : State}
    (a2) (a3) (k1 : s.Within F a1) :
    s.Within F (State.takePriv a1 a2 a3) := by
  unfold State.takePriv
  split
  · rename_i x0 e1
    apply takeCore_within (hF.mono rfl)
    with_reducible assumption
  · rename_i x2 x3 e4
    extract_lets +onlyGivenNames y5
    have h6 : s.Within F y5 := by
      unfold y5
      apply setDgChan_within (hF.mono rfl)
      with_reducible assumption
    extract_lets +onlyGivenNames y7
    extract_lets +onlyGivenNames y8
    have h9 : s.Within F y8 := by
      unfold y8
      apply setDcore_within (hF.mono rfl)
      with_reducible assumption
    apply takeCore_within (hF.mono rfl)
    apply perfCount_within (hF.mono rfl)
    with_reducible assumption

theorem kdfCount_within {F : Part → Bool} {s : State} (hF : Part.All F [.regs, .hdrs, .irq, .digest]) {a1 : State}
    (a2) (k1 : s.Within F a1) :
    s.Within F (State.kdfCount a1 a2) := by
  unfold State.kdfCount
  split
  · rename_i x0 e1
    with_reducible assumption
  · rename_i x2 x3 e4
    apply coreCount_within (hF.mono rfl)
    with_reducible assumption

theorem kdfSeat_within {F : Part → Bool} {s : State} (hF : Part.All F [.regs, .hdrs, .irq, .digest]) {a1 : State} (k1
    : s.Within F a1) :
    s.Within F (State.kdfSeat a1) := by
  unfold State.kdfSeat
  extract_lets +onlyGivenNames y0
  refine within_ite (fun _ => ?_) (fun _ => ?_)
  · with_reducible assumption
  · extract_lets +onlyGivenNames y1
    have h2 : s.Within F y1 := by
      unfold y1
      apply setDgChan_within (hF.mono rfl)
      with_reducible assumption
    split
    · rename_i x3 e4
      with_reducible assumption
    · rename_i x5 x6 e7
      apply takePriv_within (hF.mono rfl)
      apply perfCount_within (hF.mono rfl)
      with_reducible assumption

theorem coresGo_within {F : Part → Bool} {s : State} (hF : Part.All F [.regs, .hdrs, .irq, .digest]) {a1 : State} (k1
    : s.Within F a1) :
    s.Within F (State.coresGo a1) := by
  unfold State.coresGo
  apply takeCores_within (hF.mono rfl)
  apply within_foldl
  · intro u0 x1 h2
    refine within_ite (fun _ => ?_) (fun _ => ?_)
    · apply resumeOn_within (hF.mono rfl)
      with_reducible assumption
    · with_reducible assumption
  · with_reducible assumption

theorem leaveCore_within {F : Part → Bool} {s : State} (hF : Part.All F [.regs, .hdrs, .irq, .digest]) {a1 : State}
    (a2) (k1 : s.Within F a1) :
    s.Within F (State.leaveCore a1 a2) := by
  unfold State.leaveCore
  split
  · rename_i x0 e1
    with_reducible assumption
  · rename_i x2 x3 e4
    apply resumeOn_within (hF.mono rfl)
    apply setDcore_within (hF.mono rfl)
    apply setDgChan_within (hF.mono rfl)
    with_reducible assumption

theorem dgReady_within {F : Part → Bool} {s : State} (hF : Part.All F [.digest]) {a1 : State} (a2) (k1 : s.Within F
    a1) :
    s.Within F (State.dgReady a1 a2) := by
  unfold State.dgReady
  extract_lets +onlyGivenNames y0
  extract_lets +onlyGivenNames y1
  have h2 : s.Within F y1 := by
    unfold y1
    apply setDgChan_within (hF.mono rfl)
    with_reducible assumption
  apply takeCores_within (hF.mono rfl)
  refine within_digest (hF.one rfl) ?_
  with_reducible assumption

theorem kdfLeave_within {F : Part → Bool} {s : State} (hF : Part.All F [.regs, .hdrs, .irq, .digest]) {a1 : State} (k1
    : s.Within F a1) :
    s.Within F (State.kdfLeave a1) := by
  unfold State.kdfLeave
  refine within_ite (fun _ => ?_) (fun _ => ?_)
  · apply takeCores_within (hF.mono rfl)
    apply setDgChan_within (hF.mono rfl)
    apply leaveCore_within (hF.mono rfl)
    with_reducible assumption
  · with_reducible assumption

end Sys2Proof.Machine
end

