-- ==== Sys2Proof/Laws/FrameContext.lean ====
section
/-! SUPPORT. The frames of the operations of Machine/Context.lean: the parts that each may change. -/

namespace Sys2Proof.Machine

set_option Elab.async false

theorem setWay_within {F : Part → Bool} {s : State} (hF : Part.All F [.ctx]) {a1 : State} (a2) (a3) (k1 : s.Within F
    a1) :
    s.Within F (State.setWay a1 a2 a3) := by
  unfold State.setWay
  refine within_ctx (hF.one rfl) ?_
  with_reducible assumption

theorem learnMirrorWrite_within {F : Part → Bool} {s : State} (hF : Part.All F [.regs, .hdrs, .irq, .fab, .ctx]) {a1 :
    State} (k1 : s.Within F a1) :
    s.Within F (State.learnMirrorWrite a1) := by
  unfold State.learnMirrorWrite
  extract_lets +onlyGivenNames y0
  extract_lets +onlyGivenNames y1
  extract_lets +onlyGivenNames y2
  extract_lets +onlyGivenNames y3
  extract_lets +onlyGivenNames y4
  have h5 : s.Within F y4 := by
    unfold y4
    refine within_ctx (hF.one rfl) ?_
    with_reducible assumption
  apply startWrite_within (hF.mono rfl)
  with_reducible assumption

theorem owe_within {F : Part → Bool} {s : State} (hF : Part.All F [.ctx]) {a1 : State} (a2) (a3) (a4) (k1 : s.Within F
    a1) :
    s.Within F (State.owe a1 a2 a3 a4) := by
  unfold State.owe
  refine within_ctx (hF.one rfl) ?_
  with_reducible assumption

theorem setBank_within {F : Part → Bool} {s : State} (hF : Part.All F [.key]) {a1 : State} (a2) (a3) (k1 : s.Within F
    a1) :
    s.Within F (State.setBank a1 a2 a3) := by
  unfold State.setBank
  refine within_key (hF.one rfl) ?_
  with_reducible assumption

theorem dropMiss_within {F : Part → Bool} {s : State} (hF : Part.All F [.qeng, .ctx]) {a1 : State} (a2) (k1 : s.Within
    F a1) :
    s.Within F (State.dropMiss a1 a2) := by
  unfold State.dropMiss
  apply unholdAll_within (hF.mono rfl)
  refine within_ctx (hF.one rfl) ?_
  with_reducible assumption

theorem dropOwed_within {F : Part → Bool} {s : State} (hF : Part.All F [.ctx]) {a1 : State} (a2) (a3) (k1 : s.Within F
    a1) :
    s.Within F (State.dropOwed a1 a2 a3) := by
  unfold State.dropOwed
  refine within_ctx (hF.one rfl) ?_
  with_reducible assumption

theorem setMiss_within {F : Part → Bool} {s : State} (hF : Part.All F [.ctx]) {a1 : State} (a2) (k1 : s.Within F a1) :
    s.Within F (State.setMiss a1 a2) := by
  unfold State.setMiss
  refine within_ctx (hF.one rfl) ?_
  with_reducible assumption

theorem ctxError_within {F : Part → Bool} {s : State} (hF : Part.All F [.regs]) {a1 : State} (a2) (a3) (a4) (k1 :
    s.Within F a1) :
    s.Within F (State.ctxError a1 a2 a3 a4) := by
  unfold State.ctxError
  extract_lets +onlyGivenNames y0
  have h1 : s.Within F y0 := by
    unfold y0
    refine put_within (hF.mono rfl) (not_configured rfl) ?_
    with_reducible assumption
  extract_lets +onlyGivenNames y2
  have h3 : s.Within F y2 := by
    unfold y2
    refine putFlag_within (hF.mono rfl) (not_configured rfl) ?_
    with_reducible assumption
  extract_lets +onlyGivenNames y4
  have h5 : s.Within F y4 := by
    unfold y4
    refine put_within (hF.mono rfl) (not_configured rfl) ?_
    with_reducible assumption
  extract_lets +onlyGivenNames y6
  have h7 : s.Within F y6 := by
    unfold y6
    refine within_ite (fun _ => ?_) (fun _ => ?_)
    · with_reducible assumption
    · refine put_within (hF.mono rfl) (not_configured rfl) ?_
      with_reducible assumption
  refine bump_within (hF.mono rfl) (not_configured rfl) ?_
  with_reducible assumption

theorem setNode_within {F : Part → Bool} {s : State} (hF : Part.All F [.ctx]) {a1 : State} (a2) (a3) (a4) (k1 :
    s.Within F a1) :
    s.Within F (State.setNode a1 a2 a3 a4) := by
  unfold State.setNode
  refine within_ctx (hF.one rfl) ?_
  with_reducible assumption

theorem failWaiting_within {F : Part → Bool} {s : State} (hF : Part.All F [.hdrs, .irq, .qeng, .crown, .ctx, .key])
    {a1 : State} (a2) (a3) (k1 : s.Within F a1) :
    s.Within F (State.failWaiting a1 a2 a3) := by
  unfold State.failWaiting
  extract_lets +onlyGivenNames y0
  extract_lets +onlyGivenNames y1
  extract_lets +onlyGivenNames y2
  have h3 : s.Within F y2 := by
    unfold y2
    refine within_mk ?_ (.inr rfl) (.inr rfl) (.inr rfl) (.inr rfl) (.inr rfl) (.inr rfl) (.inr rfl) (.inr rfl) (.inl (hF.one rfl)) (.inr rfl) (.inr rfl) (.inr rfl) (.inr rfl) (.inl (hF.one rfl)) (.inr ⟨rfl, rfl, rfl⟩) (.inr rfl) (.inr rfl) (.inr rfl) (.inr rfl) (.inr rfl) (.inr rfl) (.inr rfl) (.inr rfl)
    with_reducible assumption
  apply push_within (hF.mono rfl)
  apply unhold_within (hF.mono rfl)
  with_reducible assumption

theorem retireCmdEnds_within {F : Part → Bool} {s : State} (hF : Part.All F [.ctx]) {a1 : State} (a2) (a3) (k1 :
    s.Within F a1) :
    s.Within F (State.retireCmdEnds a1 a2 a3) := by
  unfold State.retireCmdEnds
  split
  · rename_i x0 x1 e2
    refine within_ite (fun _ => ?_) (fun _ => ?_)
    · refine within_ctx (hF.one rfl) ?_
      with_reducible assumption
    · with_reducible assumption
  · rename_i x3 e4
    with_reducible assumption

theorem listBad_within {F : Part → Bool} {s : State} (hF : Part.All F [.regs]) {a1 : State} (a2) (a3) (a4) (k1 :
    s.Within F a1) :
    s.Within F (State.listBad a1 a2 a3 a4).2 := by
  unfold State.listBad
  split
  · rename_i x0 e1
    refine within_pair_snd ?_
    with_reducible assumption
  · rename_i x2 x3 e4
    refine within_pair_snd ?_
    refine setReg_within (hF.mono rfl) (not_configured rfl) ?_
    with_reducible assumption

theorem postLearn_within {F : Part → Bool} {s : State} (hF : Part.All F [.regs, .hdrs, .irq, .fab, .ctx]) {a1 : State}
    (a2) (k1 : s.Within F a1) :
    s.Within F (State.postLearn a1 a2) := by
  unfold State.postLearn
  extract_lets +onlyGivenNames y0
  refine within_ite (fun _ => ?_) (fun _ => ?_)
  · with_reducible assumption
  · extract_lets +onlyGivenNames y1
    refine within_ite (fun _ => ?_) (fun _ => ?_)
    · refine bump_within (hF.mono rfl) (not_configured rfl) ?_
      with_reducible assumption
    · refine within_ite (fun _ => ?_) (fun _ => ?_)
      · refine bump_within (hF.mono rfl) (not_configured rfl) ?_
        with_reducible assumption
      · extract_lets +onlyGivenNames y2
        extract_lets +onlyGivenNames y3
        extract_lets +onlyGivenNames y4
        have h5 : s.Within F y4 := by
          unfold y4
          refine within_ctx (hF.one rfl) ?_
          with_reducible assumption
        extract_lets +onlyGivenNames y6
        have h7 : s.Within F y6 := by
          unfold y6
          apply fnCount_within (hF.mono rfl)
          apply perfCount_within (hF.mono rfl)
          with_reducible assumption
        apply startWrite_within (hF.mono rfl)
        with_reducible assumption

theorem releaseElems_within {F : Part → Bool} {s : State} (hF : Part.All F [.qeng, .ctx, .key]) {a1 : State} (a2) (k1
    : s.Within F a1) :
    s.Within F (State.releaseElems a1 a2) := by
  unfold State.releaseElems
  extract_lets +onlyGivenNames y0
  extract_lets +onlyGivenNames y1
  extract_lets +onlyGivenNames y2
  have h3 : s.Within F y2 := by
    unfold y2
    apply unholdAll_within (hF.mono rfl)
    with_reducible assumption
  refine within_mk ?_ (.inr rfl) (.inr rfl) (.inr rfl) (.inr rfl) (.inl (hF.one rfl)) (.inr rfl) (.inr rfl) (.inr rfl) (.inl (hF.one rfl)) (.inr rfl) (.inr rfl) (.inr rfl) (.inr rfl) (.inl (hF.one rfl)) (.inr ⟨rfl, rfl, rfl⟩) (.inr rfl) (.inr rfl) (.inr rfl) (.inr rfl) (.inr rfl) (.inr rfl) (.inr rfl) (.inr rfl)
  with_reducible assumption

theorem writeNode_within {F : Part → Bool} {s : State} (hF : Part.All F [.regs, .hdrs, .irq, .fab, .ctx]) {a1 : State}
    (a2) (a3) (k1 : s.Within F a1) :
    s.Within F (State.writeNode a1 a2 a3) := by
  unfold State.writeNode
  extract_lets +onlyGivenNames y0
  split
  · rename_i x1 x2 x3 x4 e5 e6
    refine within_ite (fun _ => ?_) (fun _ => ?_)
    · with_reducible assumption
    · refine within_ite (fun _ => ?_) (fun _ => ?_)
      · refine within_ite (fun _ => ?_) (fun _ => ?_)
        · with_reducible assumption
        · apply raiseFault_within (hF.mono rfl)
          apply ctxError_within (hF.mono rfl)
          apply setNode_within (hF.mono rfl)
          with_reducible assumption
      · extract_lets +onlyGivenNames y7
        have h8 : s.Within F y7 := by
          unfold y7
          apply setNode_within (hF.mono rfl)
          with_reducible assumption
        extract_lets +onlyGivenNames y9
        extract_lets +onlyGivenNames y10
        have h11 : s.Within F y10 := by
          unfold y10
          apply perfCount_within (hF.mono rfl)
          with_reducible assumption
        apply startWrite_within (hF.mono rfl)
        with_reducible assumption
  · rename_i x12 x13 e14
    with_reducible assumption

theorem startMissReads_within {F : Part → Bool} {s : State} (hF : Part.All F [.regs, .hdrs, .irq, .fab, .ctx]) {a1 :
    State} (a2) (a3) (a4) (k1 : s.Within F a1) :
    s.Within F (State.startMissReads a1 a2 a3 a4) := by
  unfold State.startMissReads
  extract_lets +onlyGivenNames y0
  have h1 : s.Within F y0 := by
    unfold y0
    apply setMiss_within (hF.mono rfl)
    with_reducible assumption
  extract_lets +onlyGivenNames y2
  have h3 : s.Within F y2 := by
    unfold y2
    apply within_foldl
    · intro u4 x5 h6
      apply startRead_within (hF.mono rfl)
      with_reducible assumption
    · with_reducible assumption
  refine within_ite (fun _ => ?_) (fun _ => ?_)
  · apply startRead_within (hF.mono rfl)
    with_reducible assumption
  · with_reducible assumption

theorem wipeWay_within {F : Part → Bool} {s : State} (hF : Part.All F [.ctx]) {a1 : State} (a2) (k1 : s.Within F a1) :
    s.Within F (State.wipeWay a1 a2) := by
  unfold State.wipeWay
  apply setWay_within (hF.mono rfl)
  with_reducible assumption

theorem releaseLive_within {F : Part → Bool} {s : State} (hF : Part.All F [.hdrs, .irq, .qeng, .crown, .ctx, .key])
    {a1 : State} (a2) (a3) (k1 : s.Within F a1) :
    s.Within F (State.releaseLive a1 a2 a3) := by
  unfold State.releaseLive
  extract_lets +onlyGivenNames y0
  extract_lets +onlyGivenNames y1
  have h2 : s.Within F y1 := by
    unfold y1
    apply releaseElems_within (hF.mono rfl)
    with_reducible assumption
  apply within_foldl
  · intro u3 x4 h5
    apply failWaiting_within (hF.mono rfl)
    with_reducible assumption
  · with_reducible assumption

theorem touchNode_within {F : Part → Bool} {s : State} (hF : Part.All F [.ctx]) {a1 : State} (a2) (a3) (k1 : s.Within
    F a1) :
    s.Within F (State.touchNode a1 a2 a3) := by
  unfold State.touchNode
  extract_lets +onlyGivenNames y0
  refine within_ite (fun _ => ?_) (fun _ => ?_)
  · with_reducible assumption
  · extract_lets +onlyGivenNames y1
    have h2 : s.Within F y1 := by
      unfold y1
      apply setNode_within (hF.mono rfl)
      with_reducible assumption
    refine within_ctx (hF.one rfl) ?_
    with_reducible assumption

theorem updWay_within {F : Part → Bool} {s : State} (hF : Part.All F [.ctx]) {a1 : State} (a2) (a3) (k1 : s.Within F
    a1) :
    s.Within F (State.updWay a1 a2 a3) := by
  unfold State.updWay
  apply setWay_within (hF.mono rfl)
  with_reducible assumption

theorem flushStart_within {F : Part → Bool} {s : State} (hF : Part.All F [.ctx]) {a1 : State} (k1 : s.Within F a1) :
    s.Within F (State.flushStart a1) := by
  unfold State.flushStart
  extract_lets +onlyGivenNames y0
  extract_lets +onlyGivenNames y1
  have h2 : s.Within F y1 := by
    unfold y1
    apply within_foldl
    · intro u3 x4 h5
      apply updWay_within (hF.mono rfl)
      with_reducible assumption
    · with_reducible assumption
  refine within_ctx (hF.one rfl) ?_
  with_reducible assumption

theorem beginPagein_within {F : Part → Bool} {s : State} (hF : Part.All F [.regs, .hdrs, .irq, .fab, .ctx]) {a1 :
    State} (a2) (k1 : s.Within F a1) :
    s.Within F (State.beginPagein a1 a2) := by
  unfold State.beginPagein
  split
  · rename_i x0 e1
    with_reducible assumption
  · rename_i x2 x3 e4
    apply startMissReads_within (hF.mono rfl)
    apply perfCount_within (hF.mono rfl)
    with_reducible assumption

theorem purgeOld_within {F : Part → Bool} {s : State} (hF : Part.All F [.ctx]) {a1 : State} (a2) (k1 : s.Within F a1)
    :
    s.Within F (State.purgeOld a1 a2) := by
  unfold State.purgeOld
  extract_lets +onlyGivenNames y0
  extract_lets +onlyGivenNames y1
  apply updWay_within (hF.mono rfl)
  with_reducible assumption

theorem wayFailed_within {F : Part → Bool} {s : State} (hF : Part.All F [.regs, .hdrs, .irq, .qeng, .crown, .ctx,
    .key]) {a1 : State} (a2) (a3) (k1 : s.Within F a1) :
    s.Within F (State.wayFailed a1 a2 a3) := by
  unfold State.wayFailed
  extract_lets +onlyGivenNames y0
  extract_lets +onlyGivenNames y1
  have h2 : s.Within F y1 := by
    unfold y1
    apply raiseFault_within (hF.mono rfl)
    apply ctxError_within (hF.mono rfl)
    with_reducible assumption
  extract_lets +onlyGivenNames y3
  have h4 : s.Within F y3 := by
    unfold y3
    apply updWay_within (hF.mono rfl)
    with_reducible assumption
  split
  · rename_i x5 x6 e7
    refine within_ite (fun _ => ?_) (fun _ => ?_)
    · apply failWaiting_within (hF.mono rfl)
      with_reducible assumption
    · with_reducible assumption
  · rename_i x8 e9
    refine within_ite (fun _ => ?_) (fun _ => ?_)
    · apply retireCmdEnds_within (hF.mono rfl)
      with_reducible assumption
    · with_reducible assumption

theorem modCtx_within {F : Part → Bool} {s : State} (hF : Part.All F [.ctx]) {a1 : State} (a2) (a3) (k1 : s.Within F
    a1) :
    s.Within F (State.modCtx a1 a2 a3) := by
  unfold State.modCtx
  extract_lets +onlyGivenNames y0
  apply updWay_within (hF.mono rfl)
  with_reducible assumption

theorem freshWay_within {F : Part → Bool} {s : State} (hF : Part.All F [.ctx]) {a1 : State} (a2) (k1 : s.Within F a1)
    :
    s.Within F (State.freshWay a1 a2) := by
  unfold State.freshWay
  extract_lets +onlyGivenNames y0
  extract_lets +onlyGivenNames y1
  apply updWay_within (hF.mono rfl)
  with_reducible assumption

theorem setParentCounter_within {F : Part → Bool} {s : State} (hF : Part.All F [.ctx]) {a1 : State} (a2) (a3) (a4) (k1
    : s.Within F a1) :
    s.Within F (State.setParentCounter a1 a2 a3 a4) := by
  unfold State.setParentCounter
  refine within_ite (fun _ => ?_) (fun _ => ?_)
  · refine within_ctx (hF.one rfl) ?_
    with_reducible assumption
  · refine within_ite (fun _ => ?_) (fun _ => ?_)
    · apply owe_within (hF.mono rfl)
      with_reducible assumption
    · extract_lets +onlyGivenNames y0
      apply touchNode_within (hF.mono rfl)
      apply setNode_within (hF.mono rfl)
      with_reducible assumption

theorem allocWay_within {F : Part → Bool} {s : State} (hF : Part.All F [.regs, .hdrs, .irq, .fab, .ctx]) {a1 : State}
    (a2) (k1 : s.Within F a1) :
    s.Within F (State.allocWay a1 a2) := by
  unfold State.allocWay
  split
  · rename_i x0 e1
    with_reducible assumption
  · rename_i x2 x3 e4
    apply beginPagein_within (hF.mono rfl)
    apply setWay_within (hF.mono rfl)
    with_reducible assumption

theorem lookupEpoch_within {F : Part → Bool} {s : State} (hF : Part.All F [.ctx]) {a1 : State} (a2) (k1 : s.Within F
    a1) :
    s.Within F (State.lookupEpoch a1 a2) := by
  unfold State.lookupEpoch
  extract_lets +onlyGivenNames y0
  extract_lets +onlyGivenNames y1
  have h2 : s.Within F y1 := by
    unfold y1
    refine within_ite (fun _ => ?_) (fun _ => ?_)
    · apply modCtx_within (hF.mono rfl)
      with_reducible assumption
    · with_reducible assumption
  extract_lets +onlyGivenNames y3
  refine within_ite (fun _ => ?_) (fun _ => ?_)
  · apply modCtx_within (hF.mono rfl)
    with_reducible assumption
  · with_reducible assumption

theorem rereadNode_within {F : Part → Bool} {s : State} (hF : Part.All F [.regs, .hdrs, .irq, .fab, .ctx]) {a1 :
    State} (a2) (a3) (k1 : s.Within F a1) :
    s.Within F (State.rereadNode a1 a2 a3) := by
  unfold State.rereadNode
  split
  · rename_i x0 e1
    with_reducible assumption
  · rename_i x2 x3 e4
    extract_lets +onlyGivenNames y5
    apply beginPagein_within (hF.mono rfl)
    refine within_ctx (hF.one rfl) ?_
    with_reducible assumption

theorem newLeafMiss_within {F : Part → Bool} {s : State} (hF : Part.All F [.regs, .hdrs, .irq, .fab, .ctx]) {a1 :
    State} (a2) (k1 : s.Within F a1) :
    s.Within F (State.newLeafMiss a1 a2) := by
  unfold State.newLeafMiss
  split
  · rename_i x0 x1 e2
    refine within_ite (fun _ => ?_) (fun _ => ?_)
    · apply beginPagein_within (hF.mono rfl)
      apply setMiss_within (hF.mono rfl)
      with_reducible assumption
    · with_reducible assumption
  · rename_i x3 e4
    apply beginPagein_within (hF.mono rfl)
    refine within_ctx (hF.one rfl) ?_
    with_reducible assumption

theorem sealWay_within {F : Part → Bool} {s : State} (hF : Part.All F [.regs, .hdrs, .irq, .qeng, .crown, .fab, .ctx,
    .key]) {a1 : State} (a2) (k1 : s.Within F a1) :
    s.Within F (State.sealWay a1 a2) := by
  unfold State.sealWay
  extract_lets +onlyGivenNames y0
  extract_lets +onlyGivenNames y1
  split
  · rename_i x2 x3 x4 x5 e6 e7
    refine within_ite (fun _ => ?_) (fun _ => ?_)
    · apply wayFailed_within (hF.mono rfl)
      with_reducible assumption
    · extract_lets +onlyGivenNames y8
      extract_lets +onlyGivenNames y9
      extract_lets +onlyGivenNames y10
      have h11 : s.Within F y10 := by
        unfold y10
        apply updWay_within (hF.mono rfl)
        with_reducible assumption
      extract_lets +onlyGivenNames y12
      have h13 : s.Within F y12 := by
        unfold y12
        apply perfCount_within (hF.mono rfl)
        apply touchNode_within (hF.mono rfl)
        with_reducible assumption
      apply startWrite_within (hF.mono rfl)
      with_reducible assumption
  · rename_i x14 x15 e16
    with_reducible assumption

theorem writeBack_within {F : Part → Bool} {s : State} (hF : Part.All F [.regs, .hdrs, .irq, .qeng, .crown, .fab,
    .ctx, .key]) {a1 : State} (a2) (k1 : s.Within F a1) :
    s.Within F (State.writeBack a1 a2) := by
  unfold State.writeBack
  extract_lets +onlyGivenNames y0
  refine within_ite (fun _ => ?_) (fun _ => ?_)
  · with_reducible assumption
  · refine within_ite (fun _ => ?_) (fun _ => ?_)
    · apply sealWay_within (hF.mono rfl)
      with_reducible assumption
    · apply newLeafMiss_within (hF.mono rfl)
      apply updWay_within (hF.mono rfl)
      with_reducible assumption

theorem newMiss_within {F : Part → Bool} {s : State} (hF : Part.All F [.regs, .hdrs, .irq, .fab, .ctx]) {a1 : State}
    (a2) (a3) (k1 : s.Within F a1) :
    s.Within F (State.newMiss a1 a2 a3) := by
  unfold State.newMiss
  extract_lets +onlyGivenNames y0
  extract_lets +onlyGivenNames y1
  have h2 : s.Within F y1 := by
    unfold y1
    refine within_ctx (hF.one rfl) ?_
    with_reducible assumption
  apply allocWay_within (hF.mono rfl)
  with_reducible assumption

theorem joinMiss_within {F : Part → Bool} {s : State} (hF : Part.All F [.regs, .hdrs, .irq, .fab, .ctx]) {a1 : State}
    (a2) (a3) (k1 : s.Within F a1) :
    s.Within F (State.joinMiss a1 a2 a3).2 := by
  unfold State.joinMiss
  split
  · rename_i x0 e1
    refine within_ite_snd (fun _ => ?_) (fun _ => ?_)
    · refine within_pair_snd ?_
      apply fnCount_within (hF.mono rfl)
      apply newMiss_within (hF.mono rfl)
      with_reducible assumption
    · refine within_pair_snd ?_
      with_reducible assumption
  · rename_i x2 x3 e4
    refine within_ite_snd (fun _ => ?_) (fun _ => ?_)
    · refine within_ite_snd (fun _ => ?_) (fun _ => ?_)
      · refine within_pair_snd ?_
        apply fnCount_within (hF.mono rfl)
        apply allocWay_within (hF.mono rfl)
        apply setMiss_within (hF.mono rfl)
        with_reducible assumption
      · refine within_pair_snd ?_
        with_reducible assumption
    · refine within_ite_snd (fun _ => ?_) (fun _ => ?_)
      · refine within_pair_snd ?_
        apply fnCount_within (hF.mono rfl)
        apply perfCount_within (hF.mono rfl)
        apply setMiss_within (hF.mono rfl)
        with_reducible assumption
      · refine within_pair_snd ?_
        with_reducible assumption

theorem emptyWay_within {F : Part → Bool} {s : State} (hF : Part.All F [.regs, .hdrs, .irq, .qeng, .crown, .fab, .ctx,
    .key]) {a1 : State} (a2) (k1 : s.Within F a1) :
    s.Within F (State.emptyWay a1 a2) := by
  unfold State.emptyWay
  apply writeBack_within (hF.mono rfl)
  apply updWay_within (hF.mono rfl)
  with_reducible assumption

theorem flushMore_within {F : Part → Bool} {s : State} (hF : Part.All F [.regs, .hdrs, .irq, .qeng, .crown, .fab,
    .ctx, .key]) {a1 : State} (k1 : s.Within F a1) :
    s.Within F (State.flushMore a1) := by
  unfold State.flushMore
  extract_lets +onlyGivenNames y0
  extract_lets +onlyGivenNames y1
  have h2 : s.Within F y1 := by
    unfold y1
    apply within_foldl
    · intro u3 x4 h5
      apply writeBack_within (hF.mono rfl)
      with_reducible assumption
    · with_reducible assumption
  refine within_ite (fun _ => ?_) (fun _ => ?_)
  · with_reducible assumption
  · extract_lets +onlyGivenNames y6
    split
    · rename_i x7 e8
      with_reducible assumption
    · rename_i x9 x10 x11 e12
      extract_lets +onlyGivenNames y13
      apply within_foldl
      · intro u14 x15 h16
        apply writeNode_within (hF.mono rfl)
        with_reducible assumption
      · with_reducible assumption

theorem evict_within {F : Part → Bool} {s : State} (hF : Part.All F [.regs, .hdrs, .irq, .qeng, .crown, .fab, .ctx,
    .key]) {a1 : State} (a2) (k1 : s.Within F a1) :
    s.Within F (State.evict a1 a2) := by
  unfold State.evict
  extract_lets +onlyGivenNames y0
  refine within_ite (fun _ => ?_) (fun _ => ?_)
  · apply updWay_within (hF.mono rfl)
    with_reducible assumption
  · refine within_ite (fun _ => ?_) (fun _ => ?_)
    · apply updWay_within (hF.mono rfl)
      with_reducible assumption
    · extract_lets +onlyGivenNames y1
      have h2 : s.Within F y1 := by
        unfold y1
        apply perfCount_within (hF.mono rfl)
        with_reducible assumption
      refine within_ite (fun _ => ?_) (fun _ => ?_)
      · apply writeBack_within (hF.mono rfl)
        with_reducible assumption
      · apply wipeWay_within (hF.mono rfl)
        with_reducible assumption

theorem unpin_within {F : Part → Bool} {s : State} (hF : Part.All F [.regs, .hdrs, .irq, .qeng, .crown, .fab, .ctx,
    .key]) {a1 : State} (a2) (k1 : s.Within F a1) :
    s.Within F (State.unpin a1 a2) := by
  unfold State.unpin
  split
  · rename_i x0 e1
    with_reducible assumption
  · rename_i x2 x3 e4
    extract_lets +onlyGivenNames y5
    have h6 : s.Within F y5 := by
      unfold y5
      apply purgeOld_within (hF.mono rfl)
      apply updWay_within (hF.mono rfl)
      with_reducible assumption
    extract_lets +onlyGivenNames y7
    refine within_ite (fun _ => ?_) (fun _ => ?_)
    · with_reducible assumption
    · refine within_ite (fun _ => ?_) (fun _ => ?_)
      · apply emptyWay_within (hF.mono rfl)
        with_reducible assumption
      · refine within_ite (fun _ => ?_) (fun _ => ?_)
        · apply writeBack_within (hF.mono rfl)
          with_reducible assumption
        · refine within_ite (fun _ => ?_) (fun _ => ?_)
          · apply evict_within (hF.mono rfl)
            apply updWay_within (hF.mono rfl)
            with_reducible assumption
          · with_reducible assumption

theorem retireWay_within {F : Part → Bool} {s : State} (hF : Part.All F [.regs, .hdrs, .irq, .qeng, .crown, .fab,
    .ctx, .key]) {a1 : State} (a2) (k1 : s.Within F a1) :
    s.Within F (State.retireWay a1 a2) := by
  unfold State.retireWay
  extract_lets +onlyGivenNames y0
  have h1 : s.Within F y0 := by
    unfold y0
    apply updWay_within (hF.mono rfl)
    with_reducible assumption
  extract_lets +onlyGivenNames y2
  refine within_ite (fun _ => ?_) (fun _ => ?_)
  · with_reducible assumption
  · apply emptyWay_within (hF.mono rfl)
    with_reducible assumption

theorem flushCheck_within {F : Part → Bool} {s : State} (hF : Part.All F [.regs, .hdrs, .irq, .qeng, .crown, .fab,
    .ctx, .key]) {a1 : State} (k1 : s.Within F a1) :
    s.Within F (State.flushCheck a1) := by
  unfold State.flushCheck
  refine within_ite (fun _ => ?_) (fun _ => ?_)
  · with_reducible assumption
  · extract_lets +onlyGivenNames y0
    have h1 : s.Within F y0 := by
      unfold y0
      apply flushMore_within (hF.mono rfl)
      with_reducible assumption
    refine within_ite (fun _ => ?_) (fun _ => ?_)
    · extract_lets +onlyGivenNames y2
      extract_lets +onlyGivenNames y3
      have h4 : s.Within F y3 := by
        unfold y3
        refine within_ctx (hF.one rfl) ?_
        with_reducible assumption
      split
      · rename_i x5 x6 e7
        refine within_ite (fun _ => ?_) (fun _ => ?_)
        · refine within_ctx (hF.one rfl) ?_
          with_reducible assumption
        · with_reducible assumption
      · rename_i x8 e9
        with_reducible assumption
    · with_reducible assumption

theorem lookup_within {F : Part → Bool} {s : State} (hF : Part.All F [.regs, .hdrs, .irq, .fab, .ctx]) {a1 : State}
    (a2) (a3) (k1 : s.Within F a1) :
    s.Within F (State.lookup a1 a2 a3).2 := by
  unfold State.lookup
  extract_lets +onlyGivenNames y0
  extract_lets +onlyGivenNames y1
  extract_lets +onlyGivenNames y2
  have h3 : s.Within F y2 := by
    unfold y2
    apply fnCount_within (hF.mono rfl)
    apply perfCount_within (hF.mono rfl)
    with_reducible assumption
  refine within_ite_snd (fun _ => ?_) (fun _ => ?_)
  · refine within_pair_snd ?_
    with_reducible assumption
  · refine within_ite_snd (fun _ => ?_) (fun _ => ?_)
    · refine within_pair_snd ?_
      with_reducible assumption
    · refine within_ite_snd (fun _ => ?_) (fun _ => ?_)
      · refine within_pair_snd ?_
        with_reducible assumption
      · split
        · rename_i x4 x5 e6
          refine within_pair_snd ?_
          with_reducible assumption
        · rename_i x7 e8
          refine within_ite_snd (fun _ => ?_) (fun _ => ?_)
          · refine within_pair_snd ?_
            with_reducible assumption
          · split
            · rename_i x9 e10
              apply joinMiss_within (hF.mono rfl)
              with_reducible assumption
            · rename_i x11 x12 e13
              extract_lets +onlyGivenNames y14
              refine within_ite_snd (fun _ => ?_) (fun _ => ?_)
              · refine within_pair_snd ?_
                with_reducible assumption
              · refine within_ite_snd (fun _ => ?_) (fun _ => ?_)
                · apply joinMiss_within (hF.mono rfl)
                  with_reducible assumption
                · refine within_ite_snd (fun _ => ?_) (fun _ => ?_)
                  · refine within_pair_snd ?_
                    with_reducible assumption
                  · refine within_ite_snd (fun _ => ?_) (fun _ => ?_)
                    · refine within_pair_snd ?_
                      with_reducible assumption
                    · extract_lets +onlyGivenNames y15
                      have h16 : s.Within F y15 := by
                        unfold y15
                        apply perfCount_within (hF.mono rfl)
                        with_reducible assumption
                      extract_lets +onlyGivenNames y17
                      have h18 : s.Within F y17 := by
                        unfold y17
                        apply updWay_within (hF.mono rfl)
                        with_reducible assumption
                      refine within_ite_snd (fun _ => ?_) (fun _ => ?_)
                      · refine within_pair_snd ?_
                        with_reducible assumption
                      · refine within_pair_snd ?_
                        apply lookupEpoch_within (hF.mono rfl)
                        with_reducible assumption

end Sys2Proof.Machine
end

