-- ==== Sys2Proof/Laws/FramePagein.lean ====
section
/-! SUPPORT. The frames of the operations of Machine/Pagein.lean: the parts that each may change. -/

namespace Sys2Proof.Machine

set_option Elab.async false

theorem leafVersion_within {F : Part → Bool} {s : State} (hF : Part.All F [.ctx]) {a1 : State} (a2) (a3) (k1 :
    s.Within F a1) :
    s.Within F (State.leafVersion a1 a2 a3) := by
  unfold State.leafVersion
  extract_lets +onlyGivenNames y0
  refine within_ite (fun _ => ?_) (fun _ => ?_)
  · apply owe_within (hF.mono rfl)
    with_reducible assumption
  · apply touchNode_within (hF.mono rfl)
    apply setNode_within (hF.mono rfl)
    with_reducible assumption

theorem ctxStart_within {F : Part → Bool} {s : State} (hF : Part.All F [.regs, .ctx]) {a1 : State} (a2) (k1 : s.Within
    F a1) :
    s.Within F (State.ctxStart a1 a2) := by
  unfold State.ctxStart
  extract_lets +onlyGivenNames y0
  have h1 : s.Within F y0 := by
    unfold y0
    refine put_within (hF.mono rfl) (not_configured rfl) ?_
    with_reducible assumption
  extract_lets +onlyGivenNames y2
  have h3 : s.Within F y2 := by
    unfold y2
    refine putFlag_within (hF.mono rfl) (not_configured rfl) ?_
    with_reducible assumption
  refine within_ctx (hF.one rfl) ?_
  with_reducible assumption

theorem retireWrite_within {F : Part → Bool} {s : State} (hF : Part.All F [.regs, .hdrs, .irq, .fab, .ctx]) {a1 :
    State} (a2) (k1 : s.Within F a1) :
    s.Within F (State.retireWrite a1 a2) := by
  unfold State.retireWrite
  split
  · rename_i x0 x1 x2 x3 x4 x5 e6 e7 e8
    refine within_ite (fun _ => ?_) (fun _ => ?_)
    · apply retireCmdEnds_within (hF.mono rfl)
      with_reducible assumption
    · extract_lets +onlyGivenNames y9
      have h10 : s.Within F y9 := by
        unfold y9
        apply touchNode_within (hF.mono rfl)
        with_reducible assumption
      extract_lets +onlyGivenNames y11
      extract_lets +onlyGivenNames y12
      have h13 : s.Within F y12 := by
        unfold y12
        refine within_ctx (hF.one rfl) ?_
        with_reducible assumption
      extract_lets +onlyGivenNames y14
      apply startWrite_within (hF.mono rfl)
      with_reducible assumption
  · rename_i x15 x16 x17 e18
    with_reducible assumption

theorem pageinFill_within {F : Part → Bool} {s : State} (hF : Part.All F [.hdrs, .irq, .qeng, .crown, .ctx, .key]) {a1
    : State} (a2) (a3) (k1 : s.Within F a1) :
    s.Within F (State.pageinFill a1 a2 a3) := by
  unfold State.pageinFill
  split
  · rename_i x0 e1
    apply dropMiss_within (hF.mono rfl)
    with_reducible assumption
  · rename_i x2 x3 e4
    extract_lets +onlyGivenNames y5
    extract_lets +onlyGivenNames y6
    extract_lets +onlyGivenNames y7
    extract_lets +onlyGivenNames y8
    extract_lets +onlyGivenNames y9
    extract_lets +onlyGivenNames y10
    have h11 : s.Within F y10 := by
      unfold y10
      apply setWay_within (hF.mono rfl)
      with_reducible assumption
    extract_lets +onlyGivenNames y12
    have h13 : s.Within F y12 := by
      unfold y12
      apply dropMiss_within (hF.mono rfl)
      with_reducible assumption
    extract_lets +onlyGivenNames y14
    extract_lets +onlyGivenNames y15
    extract_lets +onlyGivenNames y16
    have h17 : s.Within F y16 := by
      unfold y16
      refine within_ite (fun _ => ?_) (fun _ => ?_)
      · apply transient_within (hF.mono rfl)
        refine within_ctx (hF.one rfl) ?_
        with_reducible assumption
      · with_reducible assumption
    extract_lets +onlyGivenNames y18
    refine within_ite (fun _ => ?_) (fun _ => ?_)
    · apply releaseLive_within (hF.mono rfl)
      with_reducible assumption
    · apply releaseElems_within (hF.mono rfl)
      with_reducible assumption

theorem pageinBad_within {F : Part → Bool} {s : State} (hF : Part.All F [.regs, .hdrs, .irq, .fab, .ctx]) {a1 : State}
    (a2) (a3) (a4) (k1 : s.Within F a1) :
    s.Within F (State.pageinBad a1 a2 a3 a4) := by
  unfold State.pageinBad
  refine within_ite (fun _ => ?_) (fun _ => ?_)
  · apply setMiss_within (hF.mono rfl)
    with_reducible assumption
  · extract_lets +onlyGivenNames y0
    extract_lets +onlyGivenNames y1
    apply startMissReads_within (hF.mono rfl)
    with_reducible assumption

theorem ctxAbort_within {F : Part → Bool} {s : State} (hF : Part.All F [.hdrs, .irq, .qeng, .crown, .fab, .ctx, .key])
    {a1 : State} (a2) (k1 : s.Within F a1) :
    s.Within F (State.ctxAbort a1 a2) := by
  unfold State.ctxAbort
  extract_lets +onlyGivenNames y0
  extract_lets +onlyGivenNames y1
  have h2 : s.Within F y1 := by
    unfold y1
    apply dropXfers_within (hF.mono rfl)
    with_reducible assumption
  extract_lets +onlyGivenNames y3
  extract_lets +onlyGivenNames y4
  have h5 : s.Within F y4 := by
    unfold y4
    apply unholdAll_within (hF.mono rfl)
    refine within_ctx (hF.one rfl) ?_
    with_reducible assumption
  extract_lets +onlyGivenNames y6
  have h7 : s.Within F y6 := by
    unfold y6
    apply within_foldl
    · intro u8 x9 h10
      apply failWaiting_within (hF.mono rfl)
      with_reducible assumption
    · with_reducible assumption
  extract_lets +onlyGivenNames y11
  extract_lets +onlyGivenNames y12
  extract_lets +onlyGivenNames y13
  have h14 : s.Within F y13 := by
    unfold y13
    refine within_ctx (hF.one rfl) ?_
    with_reducible assumption
  apply within_foldl
  · intro u15 x16 h17
    apply endJobWith_within (hF.mono rfl)
    with_reducible assumption
  · with_reducible assumption

theorem ctxCmdDone_within {F : Part → Bool} {s : State} (hF : Part.All F [.regs, .ctx]) {a1 : State} (k1 : s.Within F
    a1) :
    s.Within F (State.ctxCmdDone a1) := by
  unfold State.ctxCmdDone
  split
  · rename_i x0 x1 e2
    split
    · rename_i x3 x4 e5
      extract_lets +onlyGivenNames y6
      extract_lets +onlyGivenNames y7
      have h8 : s.Within F y7 := by
        unfold y7
        refine within_ctx (hF.one rfl) ?_
        with_reducible assumption
      refine putFlag_within (hF.mono rfl) (not_configured rfl) ?_
      refine put_within (hF.mono rfl) (not_configured rfl) ?_
      with_reducible assumption
    · rename_i x9 e10
      with_reducible assumption
  · rename_i x11 e12
    with_reducible assumption

theorem auditClear_within {F : Part → Bool} {s : State} (hF : Part.All F [.regs, .hdrs, .irq, .qeng, .crown, .fab,
    .ctx, .key]) {a1 : State} (a2) (a3) (a4) (k1 : s.Within F a1) :
    s.Within F (State.auditClear a1 a2 a3 a4) := by
  unfold State.auditClear
  split
  · rename_i x0 e1
    with_reducible assumption
  · rename_i x2 x3 e4
    extract_lets +onlyGivenNames y5
    extract_lets +onlyGivenNames y6
    have h7 : s.Within F y6 := by
      unfold y6
      refine within_ite (fun _ => ?_) (fun _ => ?_)
      · apply modCtx_within (hF.mono rfl)
        with_reducible assumption
      · with_reducible assumption
    apply unpin_within (hF.mono rfl)
    with_reducible assumption

theorem readMaterial_within {F : Part → Bool} {s : State} (hF : Part.All F [.regs, .hdrs, .irq, .fab, .key]) {a1 :
    State} (a2) (k1 : s.Within F a1) :
    s.Within F (State.readMaterial a1 a2) := by
  unfold State.readMaterial
  split
  · rename_i x0 e1
    with_reducible assumption
  · rename_i x2 x3 e4
    extract_lets +onlyGivenNames y5
    split
    rename_i x6 x7 u8 e9
    have h10 : s.Within F u8 := by
      refine within_snd e9 ?_
      refine within_ite_snd (fun _ => ?_) (fun _ => ?_)
      · apply readPart_within (hF.mono rfl)
        with_reducible assumption
      · refine within_pair_snd ?_
        with_reducible assumption
    refine within_key (hF.one rfl) ?_
    with_reducible assumption

theorem clearBad_within {F : Part → Bool} {s : State} (hF : Part.All F [.regs]) {a1 : State} (a2) (k1 : s.Within F a1)
    :
    s.Within F (State.clearBad a1 a2) := by
  unfold State.clearBad
  split
  · rename_i x0 x1 e2
    refine setReg_within (hF.mono rfl) (not_configured rfl) ?_
    with_reducible assumption
  · rename_i x3 e4
    with_reducible assumption

theorem eccWay_within {F : Part → Bool} {s : State} (hF : Part.All F [.regs, .hdrs, .irq, .fab, .ctx]) {a1 : State}
    (a2) (k1 : s.Within F a1) :
    s.Within F (State.eccWay a1 a2) := by
  unfold State.eccWay
  extract_lets +onlyGivenNames y0
  refine within_ite (fun _ => ?_) (fun _ => ?_)
  · with_reducible assumption
  · extract_lets +onlyGivenNames y1
    have h2 : s.Within F y1 := by
      unfold y1
      apply ctxError_within (hF.mono rfl)
      with_reducible assumption
    refine within_ite (fun _ => ?_) (fun _ => ?_)
    · extract_lets +onlyGivenNames y3
      have h4 : s.Within F y3 := by
        unfold y3
        apply raiseFault_within (hF.mono rfl)
        apply lasting_within (hF.mono rfl)
        with_reducible assumption
      apply updWay_within (hF.mono rfl)
      with_reducible assumption
    · extract_lets +onlyGivenNames y5
      have h6 : s.Within F y5 := by
        unfold y5
        apply wipeWay_within (hF.mono rfl)
        with_reducible assumption
      extract_lets +onlyGivenNames y7
      extract_lets +onlyGivenNames y8
      have h9 : s.Within F y8 := by
        unfold y8
        refine within_ctx (hF.one rfl) ?_
        with_reducible assumption
      refine within_ite (fun _ => ?_) (fun _ => ?_)
      · with_reducible assumption
      · extract_lets +onlyGivenNames y10
        extract_lets +onlyGivenNames y11
        have h12 : s.Within F y11 := by
          unfold y11
          apply setWay_within (hF.mono rfl)
          with_reducible assumption
        apply beginPagein_within (hF.mono rfl)
        refine within_ctx (hF.one rfl) ?_
        with_reducible assumption

theorem rereadOwed_within {F : Part → Bool} {s : State} (hF : Part.All F [.regs, .hdrs, .irq, .fab, .ctx]) {a1 :
    State} (k1 : s.Within F a1) :
    s.Within F (State.rereadOwed a1) := by
  unfold State.rereadOwed
  apply within_foldl
  · intro u0 x1 h2
    refine within_ite (fun _ => ?_) (fun _ => ?_)
    · with_reducible assumption
    · apply rereadNode_within (hF.mono rfl)
      with_reducible assumption
  · with_reducible assumption

theorem jobLookup_within {F : Part → Bool} {s : State} (hF : Part.All F [.regs, .hdrs, .irq, .qeng, .crown, .fab,
    .ctx, .key]) {a1 : State} (a2) (a3) (k1 : s.Within F a1) :
    s.Within F (State.jobLookup a1 a2 a3).2 := by
  unfold State.jobLookup
  split
  · rename_i x0 x1 u2 e3
    have h4 : s.Within F u2 := by
      refine within_snd e3 ?_
      apply lookup_within (hF.mono rfl)
      apply unhold_within (hF.mono rfl)
      with_reducible assumption
    refine within_pair_snd ?_
    apply endJob_within (hF.mono rfl)
    refine within_mk ?_ (.inr rfl) (.inr rfl) (.inr rfl) (.inr rfl) (.inr rfl) (.inr rfl) (.inr rfl) (.inr rfl) (.inl (hF.one rfl)) (.inr rfl) (.inr rfl) (.inr rfl) (.inr rfl) (.inl (hF.one rfl)) (.inr ⟨rfl, rfl, rfl⟩) (.inr rfl) (.inr rfl) (.inr rfl) (.inr rfl) (.inr rfl) (.inr rfl) (.inr rfl) (.inr rfl)
    with_reducible assumption
  · rename_i x5 u6 e7
    have h8 : s.Within F u6 := by
      refine within_snd e7 ?_
      apply lookup_within (hF.mono rfl)
      apply unhold_within (hF.mono rfl)
      with_reducible assumption
    refine within_pair_snd ?_
    refine within_mk ?_ (.inr rfl) (.inr rfl) (.inr rfl) (.inr rfl) (.inr rfl) (.inr rfl) (.inr rfl) (.inr rfl) (.inl (hF.one rfl)) (.inr rfl) (.inr rfl) (.inr rfl) (.inr rfl) (.inl (hF.one rfl)) (.inr ⟨rfl, rfl, rfl⟩) (.inr rfl) (.inr rfl) (.inr rfl) (.inr rfl) (.inr rfl) (.inr rfl) (.inr rfl) (.inr rfl)
    with_reducible assumption
  · rename_i x9 u10 e11
    have h12 : s.Within F u10 := by
      refine within_snd e11 ?_
      apply lookup_within (hF.mono rfl)
      apply unhold_within (hF.mono rfl)
      with_reducible assumption
    refine within_pair_snd ?_
    apply updRq_within (hF.mono rfl)
    with_reducible assumption
  · rename_i x13 x14 u15 e16
    have h17 : s.Within F u15 := by
      refine within_snd e16 ?_
      apply lookup_within (hF.mono rfl)
      apply unhold_within (hF.mono rfl)
      with_reducible assumption
    refine within_pair_snd ?_
    with_reducible assumption

theorem eccCorrected_within {F : Part → Bool} {s : State} (hF : Part.All F [.regs, .hdrs, .irq]) {a1 : State} (a2) (k1
    : s.Within F a1) :
    s.Within F (State.eccCorrected a1 a2) := by
  unfold State.eccCorrected
  split
  · rename_i x0 x1 x2
    extract_lets +onlyGivenNames y3
    refine within_ite (fun _ => ?_) (fun _ => ?_)
    · with_reducible assumption
    · apply raiseEvent_within (hF.mono rfl)
      apply ctxError_within (hF.mono rfl)
      with_reducible assumption
  · rename_i x4 x5 x6
    refine within_ite (fun _ => ?_) (fun _ => ?_)
    · apply raiseEvent_within (hF.mono rfl)
      apply ctxError_within (hF.mono rfl)
      with_reducible assumption
    · with_reducible assumption

theorem pageinReport_within {F : Part → Bool} {s : State} (hF : Part.All F [.regs, .hdrs, .irq, .ctx]) {a1 : State}
    (a2) (a3) (a4) (k1 : s.Within F a1) :
    s.Within F (State.pageinReport a1 a2 a3 a4).2 := by
  unfold State.pageinReport
  extract_lets +onlyGivenNames y0
  have h1 : s.Within F y0 := by
    unfold y0
    apply lasting_within (hF.mono rfl)
    with_reducible assumption
  split
  · rename_i x2 x3
    refine within_pair_snd ?_
    apply ctxError_within (hF.mono rfl)
    with_reducible assumption
  · rename_i x4 x5
    extract_lets +onlyGivenNames y6
    refine within_pair_snd ?_
    apply dropOwed_within (hF.mono rfl)
    apply listBad_within (hF.mono rfl)
    apply raiseFault_within (hF.mono rfl)
    apply ctxError_within (hF.mono rfl)
    with_reducible assumption
  · rename_i x7
    refine within_pair_snd ?_
    apply listBad_within (hF.mono rfl)
    apply raiseFault_within (hF.mono rfl)
    apply ctxError_within (hF.mono rfl)
    with_reducible assumption
  · rename_i x8
    refine within_pair_snd ?_
    apply listBad_within (hF.mono rfl)
    apply raiseFault_within (hF.mono rfl)
    apply ctxError_within (hF.mono rfl)
    with_reducible assumption

theorem sweepWay_within {F : Part → Bool} {s : State} (hF : Part.All F [.regs, .hdrs, .irq, .qeng, .crown, .fab, .ctx,
    .key]) {a1 : State} (a2) (k1 : s.Within F a1) :
    s.Within F (State.sweepWay a1 a2) := by
  unfold State.sweepWay
  extract_lets +onlyGivenNames y0
  refine within_ite (fun _ => ?_) (fun _ => ?_)
  · refine within_ite (fun _ => ?_) (fun _ => ?_)
    · apply updWay_within (hF.mono rfl)
      with_reducible assumption
    · extract_lets +onlyGivenNames y1
      extract_lets +onlyGivenNames y2
      have h3 : s.Within F y2 := by
        unfold y2
        apply updWay_within (hF.mono rfl)
        with_reducible assumption
      refine within_ite (fun _ => ?_) (fun _ => ?_)
      · apply evict_within (hF.mono rfl)
        with_reducible assumption
      · with_reducible assumption
  · refine within_ite (fun _ => ?_) (fun _ => ?_)
    · apply writeBack_within (hF.mono rfl)
      with_reducible assumption
    · with_reducible assumption

theorem ctxJobsEnd_within {F : Part → Bool} {s : State} (hF : Part.All F [.hdrs, .irq, .crown, .ctx, .finishes]) {a1 :
    State} (a2) (k1 : s.Within F a1) :
    s.Within F (State.ctxJobsEnd a1 a2) := by
  unfold State.ctxJobsEnd
  extract_lets +onlyGivenNames y0
  extract_lets +onlyGivenNames y1
  extract_lets +onlyGivenNames y2
  have h3 : s.Within F y2 := by
    unfold y2
    refine within_mk ?_ (.inr rfl) (.inr rfl) (.inr rfl) (.inr rfl) (.inr rfl) (.inr rfl) (.inr rfl) (.inr rfl) (.inl (hF.one rfl)) (.inr rfl) (.inr rfl) (.inr rfl) (.inr rfl) (.inr rfl) (.inr ⟨rfl, rfl, rfl⟩) (.inr rfl) (.inr rfl) (.inr rfl) (.inr rfl) (.inr rfl) (.inr rfl) (.inr rfl) (.inl (hF.one rfl))
    with_reducible assumption
  apply within_foldl
  · intro u4 x5 h6
    apply endJobWith_within (hF.mono rfl)
    with_reducible assumption
  · with_reducible assumption

theorem ctxRefuse_within {F : Part → Bool} {s : State} (hF : Part.All F [.regs, .hdrs, .irq]) {a1 : State} (a2) (k1 :
    s.Within F a1) :
    s.Within F (State.ctxRefuse a1 a2) := by
  unfold State.ctxRefuse
  extract_lets +onlyGivenNames y0
  have h1 : s.Within F y0 := by
    unfold y0
    refine put_within (hF.mono rfl) (not_configured rfl) ?_
    with_reducible assumption
  extract_lets +onlyGivenNames y2
  have h3 : s.Within F y2 := by
    unfold y2
    refine put_within (hF.mono rfl) (not_configured rfl) ?_
    with_reducible assumption
  apply seq_within (hF.mono rfl)
  refine putFlag_within (hF.mono rfl) (not_configured rfl) ?_
  with_reducible assumption

theorem putNode_within {F : Part → Bool} {s : State} (hF : Part.All F [.ctx]) {a1 : State} (a2) (a3) (a4) (k1 :
    s.Within F a1) :
    s.Within F (State.putNode a1 a2 a3 a4) := by
  unfold State.putNode
  extract_lets +onlyGivenNames y0
  extract_lets +onlyGivenNames y1
  extract_lets +onlyGivenNames y2
  have h3 : s.Within F y2 := by
    unfold y2
    apply setNode_within (hF.mono rfl)
    with_reducible assumption
  refine within_ctx (hF.one rfl) ?_
  with_reducible assumption

theorem ctxDropCaches_within {F : Part → Bool} {s : State} (hF : Part.All F [.ctx]) {a1 : State} (k1 : s.Within F a1)
    :
    s.Within F (State.ctxDropCaches a1) := by
  unfold State.ctxDropCaches
  refine within_ctx (hF.one rfl) ?_
  with_reducible assumption

theorem retireEnds_within {F : Part → Bool} {s : State} (hF : Part.All F [.regs, .hdrs, .irq, .crown, .ctx]) {a1 :
    State} (a2) (k1 : s.Within F a1) :
    s.Within F (State.retireEnds a1 a2) := by
  unfold State.retireEnds
  extract_lets +onlyGivenNames y0
  extract_lets +onlyGivenNames y1
  have h2 : s.Within F y1 := by
    unfold y1
    split
    · rename_i x3 x4 e5
      extract_lets +onlyGivenNames y6
      have h7 : s.Within F y6 := by
        unfold y6
        refine within_ctx (hF.one rfl) ?_
        with_reducible assumption
      apply fnCount_within (hF.mono rfl)
      apply endJobWith_within (hF.mono rfl)
      with_reducible assumption
    · rename_i x8 e9
      with_reducible assumption
  split
  · rename_i x10 x11 e12
    refine within_ite (fun _ => ?_) (fun _ => ?_)
    · refine within_ctx (hF.one rfl) ?_
      with_reducible assumption
    · with_reducible assumption
  · rename_i x13 e14
    with_reducible assumption

theorem writebackFail_within {F : Part → Bool} {s : State} (hF : Part.All F [.regs, .hdrs, .irq, .qeng, .crown, .fab,
    .ctx, .key]) {a1 : State} (a2) (k1 : s.Within F a1) :
    s.Within F (State.writebackFail a1 a2) := by
  unfold State.writebackFail
  split
  · rename_i x0 e1
    with_reducible assumption
  · rename_i x2 x3 e4
    extract_lets +onlyGivenNames y5
    extract_lets +onlyGivenNames y6
    have h7 : s.Within F y6 := by
      unfold y6
      refine within_fab (hF.one rfl) ?_
      with_reducible assumption
    extract_lets +onlyGivenNames y8
    have h9 : s.Within F y8 := by
      unfold y8
      apply lasting_within (hF.mono rfl)
      with_reducible assumption
    split
    · rename_i x10 x11 x12 e13
      extract_lets +onlyGivenNames y14
      apply raiseFault_within (hF.mono rfl)
      apply ctxError_within (hF.mono rfl)
      apply setNode_within (hF.mono rfl)
      with_reducible assumption
    · rename_i x15 e16
      split
      · rename_i x17 x18 e19
        apply wayFailed_within (hF.mono rfl)
        with_reducible assumption
      · rename_i x20 e21
        refine within_ite (fun _ => ?_) (fun _ => ?_)
        · apply retireCmdEnds_within (hF.mono rfl)
          apply raiseFault_within (hF.mono rfl)
          apply ctxError_within (hF.mono rfl)
          with_reducible assumption
        · with_reducible assumption

theorem pageinDrop_within {F : Part → Bool} {s : State} (hF : Part.All F [.hdrs, .irq, .qeng, .crown, .fab, .ctx,
    .key]) {a1 : State} (a2) (k1 : s.Within F a1) :
    s.Within F (State.pageinDrop a1 a2) := by
  unfold State.pageinDrop
  split
  · rename_i x0 e1
    with_reducible assumption
  · rename_i x2 x3 e4
    refine within_ite (fun _ => ?_) (fun _ => ?_)
    · with_reducible assumption
    · extract_lets +onlyGivenNames y5
      have h6 : s.Within F y5 := by
        unfold y5
        apply dropXfers_within (hF.mono rfl)
        with_reducible assumption
      extract_lets +onlyGivenNames y7
      have h8 : s.Within F y7 := by
        unfold y7
        split
        · rename_i x9 x10 e11
          apply wipeWay_within (hF.mono rfl)
          apply dropMiss_within (hF.mono rfl)
          with_reducible assumption
        · rename_i x12 e13
          apply dropMiss_within (hF.mono rfl)
          with_reducible assumption
      apply within_foldl
      · intro u14 x15 h16
        apply failWaiting_within (hF.mono rfl)
        with_reducible assumption
      · with_reducible assumption

theorem nodeDone_within {F : Part → Bool} {s : State} (hF : Part.All F [.regs, .hdrs, .irq, .qeng, .crown, .fab, .ctx,
    .key]) {a1 : State} (a2) (a3) (k1 : s.Within F a1) :
    s.Within F (State.nodeDone a1 a2 a3) := by
  unfold State.nodeDone
  split
  · rename_i x0 e1
    with_reducible assumption
  · rename_i x2 x3 u4 e5
    have h6 : s.Within F u4 := by
      refine takeMail_within (hF.mono rfl) ?_ e5
      with_reducible assumption
    refine within_ite (fun _ => ?_) (fun _ => ?_)
    · apply post_within (hF.mono rfl)
      with_reducible assumption
    · extract_lets +onlyGivenNames y7
      split
      · rename_i x8 e9
        with_reducible assumption
      · rename_i x10 x11 e12
        extract_lets +onlyGivenNames y13
        have h14 : s.Within F y13 := by
          unfold y13
          refine within_ite (fun _ => ?_) (fun _ => ?_)
          · apply transient_within (hF.mono rfl)
            with_reducible assumption
          · with_reducible assumption
        apply flushCheck_within (hF.mono rfl)
        apply setParentCounter_within (hF.mono rfl)
        apply setNode_within (hF.mono rfl)
        with_reducible assumption

theorem missAllocate_within {F : Part → Bool} {s : State} (hF : Part.All F [.regs, .hdrs, .irq, .fab, .ctx]) {a1 :
    State} (a2) (k1 : s.Within F a1) :
    s.Within F (State.missAllocate a1 a2) := by
  unfold State.missAllocate
  split
  · rename_i x0 e1
    with_reducible assumption
  · rename_i x2 x3 e4
    apply allocWay_within (hF.mono rfl)
    with_reducible assumption

theorem dropSubtree_within {F : Part → Bool} {s : State} (hF : Part.All F [.ctx]) {a1 : State} (a2) (a3) (k1 :
    s.Within F a1) :
    s.Within F (State.dropSubtree a1 a2 a3) := by
  unfold State.dropSubtree
  apply dropOwed_within (hF.mono rfl)
  refine within_ctx (hF.one rfl) ?_
  with_reducible assumption

theorem sweep_within {F : Part → Bool} {s : State} (hF : Part.All F [.regs, .hdrs, .irq, .qeng, .crown, .fab, .ctx,
    .key]) {a1 : State} (k1 : s.Within F a1) :
    s.Within F (State.sweep a1) := by
  unfold State.sweep
  refine within_ite (fun _ => ?_) (fun _ => ?_)
  · with_reducible assumption
  · extract_lets +onlyGivenNames y0
    have h1 : s.Within F y0 := by
      unfold y0
      apply rereadOwed_within (hF.mono rfl)
      with_reducible assumption
    extract_lets +onlyGivenNames y2
    have h3 : s.Within F y2 := by
      unfold y2
      apply within_foldl
      · intro u4 x5 h6
        apply sweepWay_within (hF.mono rfl)
        with_reducible assumption
      · with_reducible assumption
    extract_lets +onlyGivenNames y7
    extract_lets +onlyGivenNames y8
    have h9 : s.Within F y8 := by
      unfold y8
      apply within_foldl
      · intro u10 x11 h12
        apply writeNode_within (hF.mono rfl)
        with_reducible assumption
      · with_reducible assumption
    extract_lets +onlyGivenNames y13
    have h14 : s.Within F y13 := by
      unfold y13
      refine put_within (hF.mono rfl) (not_configured rfl) ?_
      with_reducible assumption
    apply flushCheck_within (hF.mono rfl)
    apply raiseEvent_within (hF.mono rfl)
    with_reducible assumption

theorem ctxInit_within {F : Part → Bool} {s : State} (hF : Part.All F [.regs, .hdrs, .irq, .crown, .fab, .ctx, .rng,
    .custody, .key, .finishes]) {a1 : State} (k1 : s.Within F a1) :
    s.Within F (State.ctxInit a1) := by
  unfold State.ctxInit
  extract_lets +onlyGivenNames y0
  extract_lets +onlyGivenNames y1
  refine within_ite (fun _ => ?_) (fun _ => ?_)
  · apply seq_within (hF.mono rfl)
    with_reducible assumption
  · refine within_ite (fun _ => ?_) (fun _ => ?_)
    · apply ctxRefuse_within (hF.mono rfl)
      with_reducible assumption
    · extract_lets +onlyGivenNames y2
      have h3 : s.Within F y2 := by
        unfold y2
        apply dropXfers_within (hF.mono rfl)
        with_reducible assumption
      extract_lets +onlyGivenNames y4
      have h5 : s.Within F y4 := by
        unfold y4
        apply within_foldl
        · intro u6 x7 h8
          refine setReg_within (hF.mono rfl) (not_configured rfl) ?_
          with_reducible assumption
        · with_reducible assumption
      extract_lets +onlyGivenNames y9
      have h10 : s.Within F y9 := by
        unfold y9
        apply ctxJobsEnd_within (hF.mono rfl)
        with_reducible assumption
      extract_lets +onlyGivenNames y11
      extract_lets +onlyGivenNames y12
      extract_lets +onlyGivenNames y13
      extract_lets +onlyGivenNames y14
      have h15 : s.Within F y14 := by
        unfold y14
        refine within_mk ?_ (.inr rfl) (.inr rfl) (.inr rfl) (.inr rfl) (.inr rfl) (.inr rfl) (.inr rfl) (.inr rfl) (.inl (hF.one rfl)) (.inr rfl) (.inr rfl) (.inr rfl) (.inl (hF.one rfl)) (.inl (hF.one rfl)) (.inl (hF.one rfl)) (.inr rfl) (.inr rfl) (.inr rfl) (.inr rfl) (.inr rfl) (.inr rfl) (.inr rfl) (.inr rfl)
        with_reducible assumption
      apply ctxStart_within (hF.mono rfl)
      with_reducible assumption

theorem enterNode_within {F : Part → Bool} {s : State} (hF : Part.All F [.regs, .hdrs, .irq, .fab, .ctx]) {a1 : State}
    (a2) (a3) (a4) (k1 : s.Within F a1) :
    s.Within F (State.enterNode a1 a2 a3 a4).2 := by
  unfold State.enterNode
  extract_lets +onlyGivenNames y0
  have h1 : ∀ z0, s.Within F z0 → s.Within F (y0 z0) := by
    unfold y0
    intro u2 h3
    apply putNode_within (hF.mono rfl)
    with_reducible assumption
  refine within_ite_snd (fun _ => ?_) (fun _ => ?_)
  · refine within_pair_snd ?_
    apply h1
    with_reducible assumption
  · split
    · rename_i x4 e5
      refine within_pair_snd ?_
      with_reducible assumption
    · rename_i x6 x7 x8 x9 e10
      refine within_ite_snd (fun _ => ?_) (fun _ => ?_)
      · refine within_pair_snd ?_
        apply writeNode_within (hF.mono rfl)
        with_reducible assumption
      · refine within_pair_snd ?_
        apply h1
        apply setNode_within (hF.mono rfl)
        with_reducible assumption

theorem eccNode_within {F : Part → Bool} {s : State} (hF : Part.All F [.regs, .hdrs, .irq, .fab, .ctx]) {a1 : State}
    (a2) (a3) (k1 : s.Within F a1) :
    s.Within F (State.eccNode a1 a2 a3).2 := by
  unfold State.eccNode
  extract_lets +onlyGivenNames y0
  refine within_ite_snd (fun _ => ?_) (fun _ => ?_)
  · refine within_pair_snd ?_
    with_reducible assumption
  · extract_lets +onlyGivenNames y1
    extract_lets +onlyGivenNames y2
    have h3 : s.Within F y2 := by
      unfold y2
      apply ctxError_within (hF.mono rfl)
      with_reducible assumption
    refine within_ite_snd (fun _ => ?_) (fun _ => ?_)
    · extract_lets +onlyGivenNames y4
      have h5 : s.Within F y4 := by
        unfold y4
        apply raiseFault_within (hF.mono rfl)
        apply lasting_within (hF.mono rfl)
        with_reducible assumption
      extract_lets +onlyGivenNames y6
      have h7 : s.Within F y6 := by
        unfold y6
        apply dropXfers_within (hF.mono rfl)
        with_reducible assumption
      split
      · rename_i x8 u9 e10
        have h11 : s.Within F u9 := by
          refine within_snd e10 ?_
          apply listBad_within (hF.mono rfl)
          apply dropSubtree_within (hF.mono rfl)
          with_reducible assumption
        refine within_pair_snd ?_
        with_reducible assumption
      · rename_i x12 u13 e14
        have h15 : s.Within F u13 := by
          refine within_snd e14 ?_
          apply listBad_within (hF.mono rfl)
          apply dropSubtree_within (hF.mono rfl)
          with_reducible assumption
        refine within_pair_snd ?_
        refine within_ctx (hF.one rfl) ?_
        with_reducible assumption
    · extract_lets +onlyGivenNames y16
      have h17 : s.Within F y16 := by
        unfold y16
        apply rereadNode_within (hF.mono rfl)
        apply setNode_within (hF.mono rfl)
        with_reducible assumption
      refine within_pair_snd ?_
      refine within_ctx (hF.one rfl) ?_
      with_reducible assumption

theorem wayWritten_within {F : Part → Bool} {s : State} (hF : Part.All F [.regs, .hdrs, .irq, .qeng, .crown, .fab,
    .ctx, .key]) {a1 : State} (a2) (a3) (k1 : s.Within F a1) :
    s.Within F (State.wayWritten a1 a2 a3) := by
  unfold State.wayWritten
  extract_lets +onlyGivenNames y0
  refine within_ite (fun _ => ?_) (fun _ => ?_)
  · refine within_ite (fun _ => ?_) (fun _ => ?_)
    · with_reducible assumption
    · refine within_ite (fun _ => ?_) (fun _ => ?_)
      · apply writeBack_within (hF.mono rfl)
        with_reducible assumption
      · apply retireEnds_within (hF.mono rfl)
        apply wipeWay_within (hF.mono rfl)
        refine within_ite (fun _ => ?_) (fun _ => ?_)
        · apply clearBad_within (hF.mono rfl)
          with_reducible assumption
        · with_reducible assumption
  · refine within_ite (fun _ => ?_) (fun _ => ?_)
    · refine within_ite (fun _ => ?_) (fun _ => ?_)
      · with_reducible assumption
      · apply wipeWay_within (hF.mono rfl)
        with_reducible assumption
    · refine within_ite (fun _ => ?_) (fun _ => ?_)
      · apply updWay_within (hF.mono rfl)
        with_reducible assumption
      · refine within_ite (fun _ => ?_) (fun _ => ?_)
        · refine within_ite (fun _ => ?_) (fun _ => ?_)
          · apply updWay_within (hF.mono rfl)
            with_reducible assumption
          · apply wipeWay_within (hF.mono rfl)
            with_reducible assumption
        · with_reducible assumption

theorem ctxFlush_within {F : Part → Bool} {s : State} (hF : Part.All F [.regs, .hdrs, .irq, .qeng, .crown, .fab, .ctx,
    .key]) {a1 : State} (k1 : s.Within F a1) :
    s.Within F (State.ctxFlush a1) := by
  unfold State.ctxFlush
  refine within_ite (fun _ => ?_) (fun _ => ?_)
  · apply seq_within (hF.mono rfl)
    with_reducible assumption
  · refine within_ite (fun _ => ?_) (fun _ => ?_)
    · apply ctxRefuse_within (hF.mono rfl)
      with_reducible assumption
    · apply flushCheck_within (hF.mono rfl)
      apply flushStart_within (hF.mono rfl)
      apply ctxStart_within (hF.mono rfl)
      with_reducible assumption

theorem ctxRetireHandle_within {F : Part → Bool} {s : State} (hF : Part.All F [.regs, .hdrs, .irq, .qeng, .crown,
    .fab, .ctx, .key]) {a1 : State} (a2) (k1 : s.Within F a1) :
    s.Within F (State.ctxRetireHandle a1 a2) := by
  unfold State.ctxRetireHandle
  refine within_ite (fun _ => ?_) (fun _ => ?_)
  · apply seq_within (hF.mono rfl)
    with_reducible assumption
  · refine within_ite (fun _ => ?_) (fun _ => ?_)
    · apply ctxRefuse_within (hF.mono rfl)
      with_reducible assumption
    · refine within_ite (fun _ => ?_) (fun _ => ?_)
      · apply ctxStart_within (hF.mono rfl)
        with_reducible assumption
      · extract_lets +onlyGivenNames y0
        have h1 : s.Within F y0 := by
          unfold y0
          apply pageinDrop_within (hF.mono rfl)
          apply ctxStart_within (hF.mono rfl)
          with_reducible assumption
        refine within_ite (fun _ => ?_) (fun _ => ?_)
        · apply newLeafMiss_within (hF.mono rfl)
          with_reducible assumption
        · split
          · rename_i x2 x3 e4
            apply retireWay_within (hF.mono rfl)
            with_reducible assumption
          · rename_i x5 e6
            apply retireWrite_within (hF.mono rfl)
            with_reducible assumption

theorem lookupDispatched_within {F : Part → Bool} {s : State} (hF : Part.All F [.regs, .hdrs, .irq, .qeng, .crown,
    .fab, .ctx, .key]) {a1 : State} (a2) (k1 : s.Within F a1) :
    s.Within F (State.lookupDispatched a1 a2) := by
  unfold State.lookupDispatched
  refine within_ite (fun _ => ?_) (fun _ => ?_)
  · apply failWaiting_within (hF.mono rfl)
    with_reducible assumption
  · refine within_ite (fun _ => ?_) (fun _ => ?_)
    · with_reducible assumption
    · split
      · rename_i x0 e1
        with_reducible assumption
      · rename_i x2 x3 e4
        refine within_ite (fun _ => ?_) (fun _ => ?_)
        · apply jobLookup_within (hF.mono rfl)
          with_reducible assumption
        · refine within_ite (fun _ => ?_) (fun _ => ?_)
          · split
            · rename_i x5 u6 e7
              have h8 : s.Within F u6 := by
                refine within_snd e7 ?_
                apply jobLookup_within (hF.mono rfl)
                with_reducible assumption
              with_reducible assumption
            · rename_i x9 x10 u11 e12
              have h13 : s.Within F u11 := by
                refine within_snd e12 ?_
                apply jobLookup_within (hF.mono rfl)
                with_reducible assumption
              apply readMaterial_within (hF.mono rfl)
              with_reducible assumption
          · refine within_ite (fun _ => ?_) (fun _ => ?_)
            · with_reducible assumption
            · split
              · rename_i x14 u15 e16
                have h17 : s.Within F u15 := by
                  refine within_snd e16 ?_
                  apply jobLookup_within (hF.mono rfl)
                  with_reducible assumption
                with_reducible assumption
              · rename_i x18 x19 u20 e21
                have h22 : s.Within F u20 := by
                  refine within_snd e21 ?_
                  apply jobLookup_within (hF.mono rfl)
                  with_reducible assumption
                extract_lets +onlyGivenNames y23
                extract_lets +onlyGivenNames y24
                have h25 : s.Within F y24 := by
                  unfold y24
                  refine within_ctx (hF.one rfl) ?_
                  with_reducible assumption
                refine within_ite (fun _ => ?_) (fun _ => ?_)
                · apply updWay_within (hF.mono rfl)
                  with_reducible assumption
                · with_reducible assumption

theorem jobWay_within {F : Part → Bool} {s : State} (hF : Part.All F [.regs, .hdrs, .irq, .qeng, .crown, .fab, .ctx,
    .key]) {a1 : State} (a2) (k1 : s.Within F a1) :
    s.Within F (State.jobWay a1 a2).2 := by
  unfold State.jobWay
  split
  · rename_i x0 x1 x2 e3 e4
    extract_lets +onlyGivenNames y5
    refine within_ite_snd (fun _ => ?_) (fun _ => ?_)
    · refine within_pair_snd ?_
      with_reducible assumption
    · refine within_ite_snd (fun _ => ?_) (fun _ => ?_)
      · refine within_pair_snd ?_
        apply updWay_within (hF.mono rfl)
        with_reducible assumption
      · apply jobLookup_within (hF.mono rfl)
        with_reducible assumption
  · rename_i x6 x7 e8
    apply jobLookup_within (hF.mono rfl)
    with_reducible assumption

theorem ctxWipe_within {F : Part → Bool} {s : State} (hF : Part.All F [.ctx]) {a1 : State} (k1 : s.Within F a1) :
    s.Within F (State.ctxWipe a1) := by
  unfold State.ctxWipe
  extract_lets +onlyGivenNames y0
  have h1 : s.Within F y0 := by
    unfold y0
    apply ctxDropCaches_within (hF.mono rfl)
    with_reducible assumption
  refine within_ctx (hF.one rfl) ?_
  with_reducible assumption

theorem retireLost_within {F : Part → Bool} {s : State} (hF : Part.All F [.regs, .hdrs, .irq, .qeng, .crown, .fab,
    .ctx, .key]) {a1 : State} (a2) (a3) (k1 : s.Within F a1) :
    s.Within F (State.retireLost a1 a2 a3) := by
  unfold State.retireLost
  split
  · rename_i x0 x1 e2
    apply failWaiting_within (hF.mono rfl)
    with_reducible assumption
  · rename_i x3 e4
    refine within_ite (fun _ => ?_) (fun _ => ?_)
    · refine within_ite (fun _ => ?_) (fun _ => ?_)
      · apply retireWrite_within (hF.mono rfl)
        with_reducible assumption
      · apply newLeafMiss_within (hF.mono rfl)
        with_reducible assumption
    · with_reducible assumption

theorem leafArrived_within {F : Part → Bool} {s : State} (hF : Part.All F [.regs, .hdrs, .irq, .qeng, .crown, .fab,
    .ctx, .key]) {a1 : State} (a2) (k1 : s.Within F a1) :
    s.Within F (State.leafArrived a1 a2) := by
  unfold State.leafArrived
  extract_lets +onlyGivenNames y0
  have h1 : s.Within F y0 := by
    unfold y0
    apply dropMiss_within (hF.mono rfl)
    with_reducible assumption
  split
  · rename_i x2 x3 e4
    refine within_ite (fun _ => ?_) (fun _ => ?_)
    · apply retireWay_within (hF.mono rfl)
      with_reducible assumption
    · refine within_ite (fun _ => ?_) (fun _ => ?_)
      · apply writeBack_within (hF.mono rfl)
        with_reducible assumption
      · with_reducible assumption
  · rename_i x5 e6
    refine within_ite (fun _ => ?_) (fun _ => ?_)
    · apply retireWrite_within (hF.mono rfl)
      with_reducible assumption
    · with_reducible assumption

theorem writebackDone_within {F : Part → Bool} {s : State} (hF : Part.All F [.regs, .hdrs, .irq, .qeng, .crown, .fab,
    .ctx, .key]) {a1 : State} (a2) (k1 : s.Within F a1) :
    s.Within F (State.writebackDone a1 a2) := by
  unfold State.writebackDone
  split
  · rename_i x0 e1
    with_reducible assumption
  · rename_i x2 x3 u4 e5
    have h6 : s.Within F u4 := by
      refine takeMail_within (hF.mono rfl) ?_ e5
      with_reducible assumption
    refine within_ite (fun _ => ?_) (fun _ => ?_)
    · apply post_within (hF.mono rfl)
      with_reducible assumption
    · extract_lets +onlyGivenNames y7
      have h8 : s.Within F y7 := by
        unfold y7
        refine within_ite (fun _ => ?_) (fun _ => ?_)
        · apply transient_within (hF.mono rfl)
          with_reducible assumption
        · with_reducible assumption
      split
      · rename_i x9 x10 e11
        extract_lets +onlyGivenNames y12
        refine within_ite (fun _ => ?_) (fun _ => ?_)
        · with_reducible assumption
        · extract_lets +onlyGivenNames y13
          have h14 : s.Within F y13 := by
            unfold y13
            apply leafVersion_within (hF.mono rfl)
            with_reducible assumption
          extract_lets +onlyGivenNames y15
          have h16 : s.Within F y15 := by
            unfold y15
            apply updWay_within (hF.mono rfl)
            with_reducible assumption
          apply flushCheck_within (hF.mono rfl)
          apply wayWritten_within (hF.mono rfl)
          with_reducible assumption
      · rename_i x17 e18
        split
        · rename_i x19 x20 e21
          refine within_ite (fun _ => ?_) (fun _ => ?_)
          · with_reducible assumption
          · apply retireEnds_within (hF.mono rfl)
            apply clearBad_within (hF.mono rfl)
            apply leafVersion_within (hF.mono rfl)
            with_reducible assumption
        · rename_i x22 e23
          with_reducible assumption

theorem ctxRetire_within {F : Part → Bool} {s : State} (hF : Part.All F [.regs, .hdrs, .irq, .qeng, .crown, .fab,
    .ctx, .key]) {a1 : State} (k1 : s.Within F a1) :
    s.Within F (State.ctxRetire a1) := by
  unfold State.ctxRetire
  split
  · rename_i x0 e1
    with_reducible assumption
  · rename_i x2 x3 e4
    refine within_ite (fun _ => ?_) (fun _ => ?_)
    · with_reducible assumption
    · split
      · rename_i x5 u6 e7
        have h8 : s.Within F u6 := by
          refine within_snd e7 ?_
          apply jobWay_within (hF.mono rfl)
          with_reducible assumption
        with_reducible assumption
      · rename_i x9 x10 u11 e12
        have h13 : s.Within F u11 := by
          refine within_snd e12 ?_
          apply jobWay_within (hF.mono rfl)
          with_reducible assumption
        extract_lets +onlyGivenNames y14
        extract_lets +onlyGivenNames y15
        have h16 : s.Within F y15 := by
          unfold y15
          refine within_ctx (hF.one rfl) ?_
          with_reducible assumption
        apply retireWay_within (hF.mono rfl)
        with_reducible assumption

theorem pageinFail_within {F : Part → Bool} {s : State} (hF : Part.All F [.regs, .hdrs, .irq, .qeng, .crown, .fab,
    .ctx, .key]) {a1 : State} (a2) (k1 : s.Within F a1) :
    s.Within F (State.pageinFail a1 a2).2 := by
  unfold State.pageinFail
  split
  · rename_i x0 e1
    refine within_pair_snd ?_
    with_reducible assumption
  · rename_i x2 x3 e4
    extract_lets +onlyGivenNames y5
    clear_value y5
    split
    · rename_i x6
      refine within_pair_snd ?_
      with_reducible assumption
    · rename_i x7 x8 x9
      refine within_ite_snd (fun _ => ?_) (fun _ => ?_)
      · refine within_pair_snd ?_
        with_reducible assumption
      · split
        rename_i x10 x11 u12 e13
        have h14 : s.Within F u12 := by
          refine within_snd e13 ?_
          apply pageinReport_within (hF.mono rfl)
          with_reducible assumption
        extract_lets +onlyGivenNames y15
        have h16 : s.Within F y15 := by
          unfold y15
          apply dropMiss_within (hF.mono rfl)
          with_reducible assumption
        refine within_ite_snd (fun _ => ?_) (fun _ => ?_)
        · refine within_pair_snd ?_
          apply flushCheck_within (hF.mono rfl)
          with_reducible assumption
        · refine within_ite_snd (fun _ => ?_) (fun _ => ?_)
          · refine within_pair_snd ?_
            refine within_ite (fun _ => ?_) (fun _ => ?_)
            · apply retireCmdEnds_within (hF.mono rfl)
              with_reducible assumption
            · split
              · rename_i x17 x18 e19
                refine within_ite (fun _ => ?_) (fun _ => ?_)
                · apply wayFailed_within (hF.mono rfl)
                  with_reducible assumption
                · with_reducible assumption
              · rename_i x20 e21
                with_reducible assumption
          · extract_lets +onlyGivenNames y22
            have h23 : s.Within F y22 := by
              unfold y22
              split
              · rename_i x24 x25 e26
                refine within_ite (fun _ => ?_) (fun _ => ?_)
                · apply retireLost_within (hF.mono rfl)
                  apply wipeWay_within (hF.mono rfl)
                  with_reducible assumption
                · apply wipeWay_within (hF.mono rfl)
                  with_reducible assumption
              · rename_i x27 e28
                with_reducible assumption
            refine within_pair_snd ?_
            apply within_foldl
            · intro u29 x30 h31
              apply failWaiting_within (hF.mono rfl)
              with_reducible assumption
            · with_reducible assumption

theorem verifyNodes_within {F : Part → Bool} {s : State} (hF : Part.All F [.regs, .hdrs, .irq, .fab, .ctx]) {a1 :
    State} (a2) (a3) (a4) (k1 : s.Within F a1) :
    s.Within F (State.verifyNodes a1 a2 a3 a4).2 := by
  induction' a4 with x xs ih generalizing a1 a2 a3
  · rw [State.verifyNodes]
    refine within_pair_snd ?_
    with_reducible assumption
  · rw [State.verifyNodes]
    refine within_ite_snd (fun _ => ?_) (fun _ => ?_)
    · apply ih
      with_reducible assumption
    · extract_lets +onlyGivenNames y0
      refine within_ite_snd (fun _ => ?_) (fun _ => ?_)
      · refine within_pair_snd ?_
        with_reducible assumption
      · split
        · rename_i x1 e2
          refine within_pair_snd ?_
          with_reducible assumption
        · rename_i x3 x4 e5
          refine within_ite_snd (fun _ => ?_) (fun _ => ?_)
          · split
            · rename_i x6 u7 e8
              have h9 : s.Within F u7 := by
                refine within_snd e8 ?_
                apply enterNode_within (hF.mono rfl)
                apply touchNode_within (hF.mono rfl)
                with_reducible assumption
              extract_lets +onlyGivenNames y10
              extract_lets +onlyGivenNames y11
              extract_lets +onlyGivenNames y12
              have h13 : s.Within F y12 := by
                unfold y12
                refine within_ite (fun _ => ?_) (fun _ => ?_)
                · apply transient_within (hF.mono rfl)
                  refine within_ctx (hF.one rfl) ?_
                  with_reducible assumption
                · with_reducible assumption
              apply ih
              with_reducible assumption
            · rename_i x14 u15 e16
              have h17 : s.Within F u15 := by
                refine within_snd e16 ?_
                apply enterNode_within (hF.mono rfl)
                apply touchNode_within (hF.mono rfl)
                with_reducible assumption
              refine within_pair_snd ?_
              with_reducible assumption
          · refine within_pair_snd ?_
            with_reducible assumption

theorem pageinEmpty_within {F : Part → Bool} {s : State} (hF : Part.All F [.regs, .hdrs, .irq, .qeng, .crown, .fab,
    .ctx, .key]) {a1 : State} (a2) (k1 : s.Within F a1) :
    s.Within F (State.pageinEmpty a1 a2) := by
  unfold State.pageinEmpty
  extract_lets +onlyGivenNames y0
  extract_lets +onlyGivenNames y1
  extract_lets +onlyGivenNames y2
  have h3 : s.Within F y2 := by
    unfold y2
    apply within_foldl
    · intro u4 x5 h6
      extract_lets +onlyGivenNames y7
      have h8 : s.Within F y7 := by
        unfold y7
        refine within_ite (fun _ => ?_) (fun _ => ?_)
        · apply postLearn_within (hF.mono rfl)
          with_reducible assumption
        · with_reducible assumption
      apply failWaiting_within (hF.mono rfl)
      with_reducible assumption
    · with_reducible assumption
  split
  · rename_i x9 x10 e11
    clear_value y0
    clear_value y1
    split
    · rename_i x12
      refine within_ite (fun _ => ?_) (fun _ => ?_)
      · apply retireLost_within (hF.mono rfl)
        apply wipeWay_within (hF.mono rfl)
        apply dropMiss_within (hF.mono rfl)
        with_reducible assumption
      · apply dropMiss_within (hF.mono rfl)
        apply wipeWay_within (hF.mono rfl)
        with_reducible assumption
    · rename_i x13 x14 x15
      apply readMaterial_within (hF.mono rfl)
      apply setMiss_within (hF.mono rfl)
      with_reducible assumption
  · rename_i x16 e17
    clear_value y0
    clear_value y1
    split
    · rename_i x18
      apply dropMiss_within (hF.mono rfl)
      with_reducible assumption
    · rename_i x19 x20 x21
      apply readMaterial_within (hF.mono rfl)
      apply setMiss_within (hF.mono rfl)
      with_reducible assumption

theorem ctxAudit_within {F : Part → Bool} {s : State} (hF : Part.All F [.regs, .hdrs, .irq, .qeng, .crown, .fab, .ctx,
    .key, .finishes]) {a1 : State} (k1 : s.Within F a1) :
    s.Within F (State.ctxAudit a1) := by
  unfold State.ctxAudit
  split
  · rename_i x0 e1
    with_reducible assumption
  · rename_i x2 x3 e4
    split
    · rename_i x5 u6 e7
      have h8 : s.Within F u6 := by
        refine within_snd e7 ?_
        apply jobWay_within (hF.mono rfl)
        with_reducible assumption
      with_reducible assumption
    · rename_i x9 x10 u11 e12
      have h13 : s.Within F u11 := by
        refine within_snd e12 ?_
        apply jobWay_within (hF.mono rfl)
        with_reducible assumption
      refine within_ite (fun _ => ?_) (fun _ => ?_)
      · with_reducible assumption
      · extract_lets +onlyGivenNames y14
        extract_lets +onlyGivenNames y15
        have h16 : s.Within F y15 := by
          unfold y15
          refine within_ctx (hF.one rfl) ?_
          with_reducible assumption
        extract_lets +onlyGivenNames y17
        extract_lets +onlyGivenNames y18
        refine within_ite (fun _ => ?_) (fun _ => ?_)
        · apply endJobWith_within (hF.mono rfl)
          with_reducible assumption
        · extract_lets +onlyGivenNames y19
          extract_lets +onlyGivenNames y20
          extract_lets +onlyGivenNames y21
          have h22 : s.Within F y21 := by
            unfold y21
            refine within_ite (fun _ => ?_) (fun _ => ?_)
            · apply raiseEvent_within (hF.mono rfl)
              with_reducible assumption
            · with_reducible assumption
          extract_lets +onlyGivenNames y23
          extract_lets +onlyGivenNames y24
          have h25 : s.Within F y24 := by
            unfold y24
            refine within_ite (fun _ => ?_) (fun _ => ?_)
            · apply updWay_within (hF.mono rfl)
              with_reducible assumption
            · with_reducible assumption
          apply writeResult_within (hF.mono rfl)
          with_reducible assumption

theorem pageinDone_within {F : Part → Bool} {s : State} (hF : Part.All F [.regs, .hdrs, .irq, .qeng, .crown, .fab,
    .ctx, .key]) {a1 : State} (a2) (k1 : s.Within F a1) :
    s.Within F (State.pageinDone a1 a2) := by
  unfold State.pageinDone
  split
  · rename_i x0 x1 x2 x3 x4 x5 e6 e7 e8
    refine within_ite (fun _ => ?_) (fun _ => ?_)
    · with_reducible assumption
    · split
      · rename_i x9 u10 e11
        have h12 : s.Within F u10 := by
          refine within_snd e11 ?_
          apply verifyNodes_within (hF.mono rfl)
          with_reducible assumption
        with_reducible assumption
      · rename_i x13 x14 u15 e16
        have h17 : s.Within F u15 := by
          refine within_snd e16 ?_
          apply verifyNodes_within (hF.mono rfl)
          with_reducible assumption
        apply startMissReads_within (hF.mono rfl)
        with_reducible assumption
      · rename_i x18 x19 u20 e21
        have h22 : s.Within F u20 := by
          refine within_snd e21 ?_
          apply verifyNodes_within (hF.mono rfl)
          with_reducible assumption
        apply pageinBad_within (hF.mono rfl)
        with_reducible assumption
      · rename_i x23 u24 e25
        have h26 : s.Within F u24 := by
          refine within_snd e25 ?_
          apply verifyNodes_within (hF.mono rfl)
          with_reducible assumption
        extract_lets +onlyGivenNames y27
        have h28 : s.Within F y27 := by
          unfold y27
          apply touchNode_within (hF.mono rfl)
          with_reducible assumption
        refine within_ite (fun _ => ?_) (fun _ => ?_)
        · apply flushCheck_within (hF.mono rfl)
          apply dropMiss_within (hF.mono rfl)
          refine within_ite (fun _ => ?_) (fun _ => ?_)
          · apply transient_within (hF.mono rfl)
            with_reducible assumption
          · with_reducible assumption
        · refine within_ite (fun _ => ?_) (fun _ => ?_)
          · apply flushCheck_within (hF.mono rfl)
            apply leafArrived_within (hF.mono rfl)
            refine within_ite (fun _ => ?_) (fun _ => ?_)
            · apply transient_within (hF.mono rfl)
              with_reducible assumption
            · with_reducible assumption
          · extract_lets +onlyGivenNames y29
            extract_lets +onlyGivenNames y30
            have h31 : ∀ z0, s.Within F z0 → s.Within F (y30 z0) := by
              unfold y30
              intro u32 h33
              refine within_ite (fun _ => ?_) (fun _ => ?_)
              · apply transient_within (hF.mono rfl)
                with_reducible assumption
              · with_reducible assumption
            refine within_ite (fun _ => ?_) (fun _ => ?_)
            · apply flushCheck_within (hF.mono rfl)
              apply pageinEmpty_within (hF.mono rfl)
              apply h31
              with_reducible assumption
            · split
              · rename_i x34 e35
                apply pageinBad_within (hF.mono rfl)
                with_reducible assumption
              · rename_i x36 x37 e38
                extract_lets +onlyGivenNames y39
                refine within_ite (fun _ => ?_) (fun _ => ?_)
                · apply pageinBad_within (hF.mono rfl)
                  with_reducible assumption
                · refine within_ite (fun _ => ?_) (fun _ => ?_)
                  · apply pageinBad_within (hF.mono rfl)
                    with_reducible assumption
                  · refine within_ite (fun _ => ?_) (fun _ => ?_)
                    · apply flushCheck_within (hF.mono rfl)
                      apply pageinEmpty_within (hF.mono rfl)
                      apply h31
                      with_reducible assumption
                    · refine within_ite (fun _ => ?_) (fun _ => ?_)
                      · with_reducible assumption
                      · apply flushCheck_within (hF.mono rfl)
                        apply pageinFill_within (hF.mono rfl)
                        apply h31
                        with_reducible assumption
  · rename_i x40 x41 x42 e43
    with_reducible assumption

end Sys2Proof.Machine
end

