-- ==== Sys2Proof/Laws/FrameRng.lean ====
section
/-! SUPPORT. The frames of the operations of Machine/Rng.lean: the parts that each may change. -/

namespace Sys2Proof.Machine

set_option Elab.async false

theorem randomPop_within {F : Part → Bool} {s : State} (hF : Part.All F [.rng]) {a1 : State} (k1 : s.Within F a1) :
    s.Within F (State.randomPop a1) := by
  unfold State.randomPop
  refine within_rng (hF.one rfl) ?_
  with_reducible assumption

theorem condition_within {F : Part → Bool} {s : State} (hF : Part.All F [.rng]) {a1 : State} (a2) (k1 : s.Within F a1)
    :
    s.Within F (State.condition a1 a2) := by
  unfold State.condition
  refine within_ite (fun _ => ?_) (fun _ => ?_)
  · with_reducible assumption
  · extract_lets +onlyGivenNames y0
    extract_lets +onlyGivenNames y1
    refine within_rng (hF.one rfl) ?_
    with_reducible assumption

theorem drbgSeed_within {F : Part → Bool} {s : State} (hF : Part.All F [.regs, .hdrs, .irq, .rng]) {a1 : State} (a2)
    (a3) (k1 : s.Within F a1) :
    s.Within F (State.drbgSeed a1 a2 a3) := by
  unfold State.drbgSeed
  extract_lets +onlyGivenNames y0
  split
  rename_i x1 x2 x3 e4
  extract_lets +onlyGivenNames y5
  extract_lets +onlyGivenNames y6
  have h7 : s.Within F y6 := by
    unfold y6
    refine within_rng (hF.one rfl) ?_
    with_reducible assumption
  apply perfCount_within (hF.mono rfl)
  refine bump_within (hF.mono rfl) (not_configured rfl) ?_
  with_reducible assumption

theorem rngCheckReady_within {F : Part → Bool} {s : State} (hF : Part.All F [.blocks, .hdrs, .irq, .rng]) {a1 : State}
    (k1 : s.Within F a1) :
    s.Within F (State.rngCheckReady a1) := by
  unfold State.rngCheckReady
  refine within_ite (fun _ => ?_) (fun _ => ?_)
  · extract_lets +onlyGivenNames y0
    extract_lets +onlyGivenNames y1
    have h2 : s.Within F y1 := by
      unfold y1
      refine within_rng (hF.one rfl) ?_
      with_reducible assumption
    apply upEnds_within (hF.mono rfl)
    apply raiseEvent_within (hF.mono rfl)
    with_reducible assumption
  · with_reducible assumption

theorem swRead_within {F : Part → Bool} {s : State} (hF : Part.All F [.rng]) {a1 : State} (k1 : s.Within F a1) :
    s.Within F (State.swRead a1).2 := by
  unfold State.swRead
  split
  · rename_i x0 e1
    refine within_pair_snd ?_
    with_reducible assumption
  · rename_i x2 x3 x4 e5
    refine within_pair_snd ?_
    refine within_rng (hF.one rfl) ?_
    with_reducible assumption

theorem captureBatt_within {F : Part → Bool} {s : State} (hF : Part.All F [.regs, .hdrs, .irq, .fab, .rng]) {a1 :
    State} (a2) (k1 : s.Within F a1) :
    s.Within F (State.captureBatt a1 a2) := by
  unfold State.captureBatt
  extract_lets +onlyGivenNames y0
  refine within_ite (fun _ => ?_) (fun _ => ?_)
  · with_reducible assumption
  · extract_lets +onlyGivenNames y1
    extract_lets +onlyGivenNames y2
    have h3 : s.Within F y2 := by
      unfold y2
      refine within_rng (hF.one rfl) ?_
      with_reducible assumption
    apply startWrite_within (hF.mono rfl)
    with_reducible assumption

theorem resplitRoot_within {F : Part → Bool} {s : State} (hF : Part.All F [.custody, .key]) {a1 : State} (a2) (k1 :
    s.Within F a1) :
    s.Within F (State.resplitRoot a1 a2) := by
  unfold State.resplitRoot
  split
  · rename_i x0 x1 e2
    refine within_custody (hF.one rfl) (hF.one rfl) ?_
    with_reducible assumption
  · rename_i x3 e4
    with_reducible assumption

theorem stopCells_within {F : Part → Bool} {s : State} (hF : Part.All F [.rng]) {a1 : State} (k1 : s.Within F a1) :
    s.Within F (State.stopCells a1) := by
  unfold State.stopCells
  refine within_rng (hF.one rfl) ?_
  with_reducible assumption

theorem fullerStall_within {F : Part → Bool} {s : State} (hF : Part.All F [.hdrs, .irq, .rng]) {a1 : State} (k1 :
    s.Within F a1) :
    s.Within F (State.fullerStall a1) := by
  unfold State.fullerStall
  refine within_ite (fun _ => ?_) (fun _ => ?_)
  · apply raiseEvent_within (hF.mono rfl)
    refine within_rng (hF.one rfl) ?_
    with_reducible assumption
  · with_reducible assumption

theorem randomAbort_within {F : Part → Bool} {s : State} (hF : Part.All F [.hdrs, .irq, .crown, .rng]) {a1 : State}
    (a2) (k1 : s.Within F a1) :
    s.Within F (State.randomAbort a1 a2) := by
  unfold State.randomAbort
  extract_lets +onlyGivenNames y0
  extract_lets +onlyGivenNames y1
  extract_lets +onlyGivenNames y2
  have h3 : s.Within F y2 := by
    unfold y2
    refine within_rng (hF.one rfl) ?_
    with_reducible assumption
  apply within_foldl
  · intro u4 x5 h6
    apply endJobWith_within (hF.mono rfl)
    with_reducible assumption
  · with_reducible assumption

theorem readyTimeout_within {F : Part → Bool} {s : State} (hF : Part.All F [.hdrs, .irq, .rng]) {a1 : State} (k1 :
    s.Within F a1) :
    s.Within F (State.readyTimeout a1) := by
  unfold State.readyTimeout
  refine within_ite (fun _ => ?_) (fun _ => ?_)
  · apply raiseEvent_within (hF.mono rfl)
    refine within_rng (hF.one rfl) ?_
    with_reducible assumption
  · with_reducible assumption

theorem setCell_within {F : Part → Bool} {s : State} (hF : Part.All F [.rng]) {a1 : State} (a2) (a3) (k1 : s.Within F
    a1) :
    s.Within F (State.setCell a1 a2 a3) := by
  unfold State.setCell
  refine within_rng (hF.one rfl) ?_
  with_reducible assumption

theorem rngNotReady_within {F : Part → Bool} {s : State} (hF : Part.All F [.hdrs, .irq, .rng, .key]) {a1 : State} (k1
    : s.Within F a1) :
    s.Within F (State.rngNotReady a1) := by
  unfold State.rngNotReady
  refine within_ite (fun _ => ?_) (fun _ => ?_)
  · extract_lets +onlyGivenNames y0
    have h1 : s.Within F y0 := by
      unfold y0
      refine within_ite (fun _ => ?_) (fun _ => ?_)
      · apply portDrops_within (hF.mono rfl)
        with_reducible assumption
      · with_reducible assumption
    apply raiseEvent_within (hF.mono rfl)
    refine within_rng (hF.one rfl) ?_
    with_reducible assumption
  · with_reducible assumption

theorem askDerive_within {F : Part → Bool} {s : State} (hF : Part.All F [.key]) {a1 : State} (k1 : s.Within F a1) :
    s.Within F (State.askDerive a1) := by
  unfold State.askDerive
  refine within_ite (fun _ => ?_) (fun _ => ?_)
  · refine within_key (hF.one rfl) ?_
    with_reducible assumption
  · with_reducible assumption

theorem rawWritten_within {F : Part → Bool} {s : State} (hF : Part.All F [.regs, .hdrs, .irq, .fab, .rng]) {a1 :
    State} (a2) (k1 : s.Within F a1) :
    s.Within F (State.rawWritten a1 a2) := by
  unfold State.rawWritten
  refine within_ite (fun _ => ?_) (fun _ => ?_)
  · with_reducible assumption
  · refine within_ite (fun _ => ?_) (fun _ => ?_)
    · extract_lets +onlyGivenNames y0
      have h1 : s.Within F y0 := by
        unfold y0
        apply dropXfers_within (hF.mono rfl)
        with_reducible assumption
      refine putFlag_within (hF.mono rfl) (not_configured rfl) ?_
      refine putFlag_within (hF.mono rfl) (not_configured rfl) ?_
      apply rawEnd_within (hF.mono rfl)
      with_reducible assumption
    · extract_lets +onlyGivenNames y2
      extract_lets +onlyGivenNames y3
      have h4 : s.Within F y3 := by
        unfold y3
        refine put_within (hF.mono rfl) (not_configured rfl) ?_
        with_reducible assumption
      refine within_ite (fun _ => ?_) (fun _ => ?_)
      · apply raiseEvent_within (hF.mono rfl)
        refine putFlag_within (hF.mono rfl) (not_configured rfl) ?_
        refine putFlag_within (hF.mono rfl) (not_configured rfl) ?_
        apply rawEnd_within (hF.mono rfl)
        with_reducible assumption
      · with_reducible assumption

theorem instantiate_within {F : Part → Bool} {s : State} (hF : Part.All F [.regs, .blocks, .hdrs, .irq, .rng]) {a1 :
    State} (k1 : s.Within F a1) :
    s.Within F (State.instantiate a1) := by
  unfold State.instantiate
  refine within_ite (fun _ => ?_) (fun _ => ?_)
  · apply rngCheckReady_within (hF.mono rfl)
    apply drbgSeed_within (hF.mono rfl)
    with_reducible assumption
  · with_reducible assumption

theorem healthEnd_within {F : Part → Bool} {s : State} (hF : Part.All F [.rng]) {a1 : State} (k1 : s.Within F a1) :
    s.Within F (State.healthEnd a1) := by
  unfold State.healthEnd
  extract_lets +onlyGivenNames y0
  have h1 : s.Within F y0 := by
    unfold y0
    apply within_foldl
    · intro u2 x3 h4
      apply setCell_within (hF.mono rfl)
      with_reducible assumption
    · with_reducible assumption
  refine within_rng (hF.one rfl) ?_
  with_reducible assumption

theorem rngLevels_within {F : Part → Bool} {s : State} (hF : Part.All F [.blocks, .hdrs, .irq, .rng, .key]) {a1 :
    State} (k1 : s.Within F a1) :
    s.Within F (State.rngLevels a1) := by
  unfold State.rngLevels
  refine within_ite (fun _ => ?_) (fun _ => ?_)
  · with_reducible assumption
  · extract_lets +onlyGivenNames y0
    extract_lets +onlyGivenNames y1
    extract_lets +onlyGivenNames y2
    have h3 : s.Within F y2 := by
      unfold y2
      refine within_rng (hF.one rfl) ?_
      with_reducible assumption
    extract_lets +onlyGivenNames y4
    have h5 : s.Within F y4 := by
      unfold y4
      refine within_ite (fun _ => ?_) (fun _ => ?_)
      · apply raiseEvent_within (hF.mono rfl)
        with_reducible assumption
      · with_reducible assumption
    extract_lets +onlyGivenNames y6
    have h7 : s.Within F y6 := by
      unfold y6
      refine within_ite (fun _ => ?_) (fun _ => ?_)
      · apply raiseEvent_within (hF.mono rfl)
        with_reducible assumption
      · with_reducible assumption
    refine within_ite (fun _ => ?_) (fun _ => ?_)
    · apply rngNotReady_within (hF.mono rfl)
      with_reducible assumption
    · refine within_ite (fun _ => ?_) (fun _ => ?_)
      · apply rngCheckReady_within (hF.mono rfl)
        with_reducible assumption
      · with_reducible assumption

theorem reseed_within {F : Part → Bool} {s : State} (hF : Part.All F [.regs, .hdrs, .irq, .rng]) {a1 : State} (k1 :
    s.Within F a1) :
    s.Within F (State.reseed a1) := by
  unfold State.reseed
  refine within_ite (fun _ => ?_) (fun _ => ?_)
  · with_reducible assumption
  · extract_lets +onlyGivenNames y0
    extract_lets +onlyGivenNames y1
    have h2 : s.Within F y1 := by
      unfold y1
      apply drbgSeed_within (hF.mono rfl)
      with_reducible assumption
    extract_lets +onlyGivenNames y3
    extract_lets +onlyGivenNames y4
    have h5 : s.Within F y4 := by
      unfold y4
      refine within_rng (hF.one rfl) ?_
      with_reducible assumption
    refine within_ite (fun _ => ?_) (fun _ => ?_)
    · apply raiseEvent_within (hF.mono rfl)
      refine within_rng (hF.one rfl) ?_
      with_reducible assumption
    · with_reducible assumption

theorem rawStart_within {F : Part → Bool} {s : State} (hF : Part.All F [.rng]) {a1 : State} (a2) (k1 : s.Within F a1)
    :
    s.Within F (State.rawStart a1 a2) := by
  unfold State.rawStart
  extract_lets +onlyGivenNames y0
  extract_lets +onlyGivenNames y1
  have h2 : s.Within F y1 := by
    unfold y1
    apply setCell_within (hF.mono rfl)
    with_reducible assumption
  refine within_rng (hF.one rfl) ?_
  with_reducible assumption

theorem checkBatt_within {F : Part → Bool} {s : State} (hF : Part.All F [.regs, .hdrs, .irq, .rng]) {a1 : State} (a2)
    (a3) (a4) (k1 : s.Within F a1) :
    s.Within F (State.checkBatt a1 a2 a3 a4) := by
  unfold State.checkBatt
  extract_lets +onlyGivenNames y0
  extract_lets +onlyGivenNames y1
  extract_lets +onlyGivenNames y2
  extract_lets +onlyGivenNames y3
  refine within_ite (fun _ => ?_) (fun _ => ?_)
  · extract_lets +onlyGivenNames y4
    have h5 : s.Within F y4 := by
      unfold y4
      refine bump_within (hF.mono rfl) (not_configured rfl) ?_
      with_reducible assumption
    extract_lets +onlyGivenNames y6
    have h7 : s.Within F y6 := by
      unfold y6
      refine within_ite (fun _ => ?_) (fun _ => ?_)
      · apply transient_within (hF.mono rfl)
        with_reducible assumption
      · with_reducible assumption
    refine within_ite (fun _ => ?_) (fun _ => ?_)
    · apply setCell_within (hF.mono rfl)
      with_reducible assumption
    · extract_lets +onlyGivenNames y8
      extract_lets +onlyGivenNames y9
      extract_lets +onlyGivenNames y10
      have h11 : s.Within F y10 := by
        unfold y10
        apply setCell_within (hF.mono rfl)
        with_reducible assumption
      refine within_ite (fun _ => ?_) (fun _ => ?_)
      · apply condition_within (hF.mono rfl)
        with_reducible assumption
      · with_reducible assumption
  · extract_lets +onlyGivenNames y12
    have h13 : s.Within F y12 := by
      unfold y12
      refine bump_within (hF.mono rfl) (not_configured rfl) ?_
      with_reducible assumption
    extract_lets +onlyGivenNames y14
    have h15 : s.Within F y14 := by
      unfold y14
      apply perfCount_within (hF.mono rfl)
      with_reducible assumption
    extract_lets +onlyGivenNames y16
    have h17 : s.Within F y16 := by
      unfold y16
      refine within_ite (fun _ => ?_) (fun _ => ?_)
      · with_reducible assumption
      · refine put_within (hF.mono rfl) (not_configured rfl) ?_
        with_reducible assumption
    extract_lets +onlyGivenNames y18
    have h19 : s.Within F y18 := by
      unfold y18
      refine within_ite (fun _ => ?_) (fun _ => ?_)
      · with_reducible assumption
      · refine put_within (hF.mono rfl) (not_configured rfl) ?_
        with_reducible assumption
    extract_lets +onlyGivenNames y20
    have h21 : s.Within F y20 := by
      unfold y20
      refine within_ite (fun _ => ?_) (fun _ => ?_)
      · apply lasting_within (hF.mono rfl)
        with_reducible assumption
      · with_reducible assumption
    extract_lets +onlyGivenNames y22
    have h23 : s.Within F y22 := by
      unfold y22
      apply setCell_within (hF.mono rfl)
      with_reducible assumption
    extract_lets +onlyGivenNames y24
    refine within_ite (fun _ => ?_) (fun _ => ?_)
    · apply raiseEvent_within (hF.mono rfl)
      refine within_rng (hF.one rfl) ?_
      with_reducible assumption
    · with_reducible assumption

theorem randomServe_within {F : Part → Bool} {s : State} (hF : Part.All F [.regs, .hdrs, .irq, .qeng, .crown, .fab,
    .rng, .finishes]) {a1 : State} (k1 : s.Within F a1) :
    s.Within F (State.randomServe a1) := by
  unfold State.randomServe
  split
  · rename_i x0 e1
    with_reducible assumption
  · rename_i x2 x3 x4 e5
    extract_lets +onlyGivenNames y6
    split
    · rename_i x7 x8 e9
      apply endJobWith_within (hF.mono rfl)
      apply randomPop_within (hF.mono rfl)
      with_reducible assumption
    · rename_i x10 e11
      refine within_ite (fun _ => ?_) (fun _ => ?_)
      · apply endJobWith_within (hF.mono rfl)
        apply randomPop_within (hF.mono rfl)
        with_reducible assumption
      · refine within_ite (fun _ => ?_) (fun _ => ?_)
        · extract_lets +onlyGivenNames y12
          extract_lets +onlyGivenNames y13
          have h14 : s.Within F y13 := by
            unfold y13
            apply fnCount_within (hF.mono rfl)
            apply randomPop_within (hF.mono rfl)
            with_reducible assumption
          refine within_ite (fun _ => ?_) (fun _ => ?_)
          · apply endJobWith_within (hF.mono rfl)
            apply putSecret_within (hF.mono rfl)
            with_reducible assumption
          · apply writeResult_within (hF.mono rfl)
            with_reducible assumption
        · with_reducible assumption

theorem randomTimeout_within {F : Part → Bool} {s : State} (hF : Part.All F [.hdrs, .irq, .crown, .rng]) {a1 : State}
    (k1 : s.Within F a1) :
    s.Within F (State.randomTimeout a1) := by
  unfold State.randomTimeout
  split
  · rename_i x0 e1
    with_reducible assumption
  · rename_i x2 x3 x4 e5
    refine within_ite (fun _ => ?_) (fun _ => ?_)
    · with_reducible assumption
    · apply endJobWith_within (hF.mono rfl)
      apply randomPop_within (hF.mono rfl)
      with_reducible assumption

theorem cellEnWrite_within {F : Part → Bool} {s : State} (hF : Part.All F [.regs, .rng]) {a1 : State} (a2) (k1 :
    s.Within F a1) :
    s.Within F (State.cellEnWrite a1 a2) := by
  unfold State.cellEnWrite
  extract_lets +onlyGivenNames y0
  have h1 : s.Within F y0 := by
    unfold y0
    refine put_within (hF.mono rfl) (not_configured rfl) ?_
    with_reducible assumption
  apply within_foldl
  · intro u2 x3 h4
    refine within_ite (fun _ => ?_) (fun _ => ?_)
    · with_reducible assumption
    · apply setCell_within (hF.mono rfl)
      with_reducible assumption
  · with_reducible assumption

theorem loadRoot_within {F : Part → Bool} {s : State} (hF : Part.All F [.regs, .hdrs, .irq, .custody, .key]) {a1 :
    State} (a2) (k1 : s.Within F a1) :
    s.Within F (State.loadRoot a1 a2) := by
  unfold State.loadRoot
  split
  · rename_i x0 e1
    with_reducible assumption
  · rename_i x2 x3 x4 e5
    extract_lets +onlyGivenNames y6
    have h7 : s.Within F y6 := by
      unfold y6
      refine within_ite (fun _ => ?_) (fun _ => ?_)
      · apply transient_within (hF.mono rfl)
        with_reducible assumption
      · with_reducible assumption
    extract_lets +onlyGivenNames y8
    have h9 : s.Within F y8 := by
      unfold y8
      refine put_within (hF.mono rfl) (not_configured rfl) ?_
      with_reducible assumption
    extract_lets +onlyGivenNames y10
    have h11 : s.Within F y10 := by
      unfold y10
      refine put_within (hF.mono rfl) (not_configured rfl) ?_
      with_reducible assumption
    extract_lets +onlyGivenNames y12
    extract_lets +onlyGivenNames y13
    have h14 : s.Within F y13 := by
      unfold y13
      refine within_custody (hF.one rfl) (hF.one rfl) ?_
      with_reducible assumption
    apply askDerive_within (hF.mono rfl)
    with_reducible assumption

theorem estimateEnd_within {F : Part → Bool} {s : State} (hF : Part.All F [.regs, .hdrs, .irq, .rng]) {a1 : State} (k1
    : s.Within F a1) :
    s.Within F (State.estimateEnd a1) := by
  unfold State.estimateEnd
  refine within_ite (fun _ => ?_) (fun _ => ?_)
  · with_reducible assumption
  · extract_lets +onlyGivenNames y0
    have h1 : s.Within F y0 := by
      unfold y0
      apply within_foldl
      · intro u2 x3 h4
        extract_lets +onlyGivenNames y5
        extract_lets +onlyGivenNames y6
        have h7 : s.Within F y6 := by
          unfold y6
          refine put_within (hF.mono rfl) (not_configured rfl) ?_
          refine put_within (hF.mono rfl) (not_configured rfl) ?_
          with_reducible assumption
        apply setCell_within (hF.mono rfl)
        with_reducible assumption
      · with_reducible assumption
    apply raiseEvent_within (hF.mono rfl)
    with_reducible assumption

theorem rngWipe_within {F : Part → Bool} {s : State} (hF : Part.All F [.regs, .hdrs, .irq, .fab, .rng, .key]) {a1 :
    State} (k1 : s.Within F a1) :
    s.Within F (State.rngWipe a1) := by
  unfold State.rngWipe
  extract_lets +onlyGivenNames y0
  have h1 : s.Within F y0 := by
    unfold y0
    apply rngNotReady_within (hF.mono rfl)
    with_reducible assumption
  extract_lets +onlyGivenNames y2
  have h3 : s.Within F y2 := by
    unfold y2
    refine within_ite (fun _ => ?_) (fun _ => ?_)
    · refine putFlag_within (hF.mono rfl) (not_configured rfl) ?_
      apply dropXfers_within (hF.mono rfl)
      with_reducible assumption
    · with_reducible assumption
  refine within_rng (hF.one rfl) ?_
  with_reducible assumption

theorem startCells_within {F : Part → Bool} {s : State} (hF : Part.All F [.rng]) {a1 : State} (k1 : s.Within F a1) :
    s.Within F (State.startCells a1) := by
  unfold State.startCells
  apply within_foldl
  · intro u0 x1 h2
    apply setCell_within (hF.mono rfl)
    with_reducible assumption
  · with_reducible assumption

theorem rawBoundary_within {F : Part → Bool} {s : State} (hF : Part.All F [.regs, .fab, .rng]) {a1 : State} (k1 :
    s.Within F a1) :
    s.Within F (State.rawBoundary a1) := by
  unfold State.rawBoundary
  extract_lets +onlyGivenNames y0
  extract_lets +onlyGivenNames y1
  split
  · rename_i x2 x3 e4 e5
    with_reducible assumption
  · rename_i x6 x7 e8 e9
    apply rawStart_within (hF.mono rfl)
    refine put_within (hF.mono rfl) (not_configured rfl) ?_
    with_reducible assumption
  · rename_i x10 x11 x12 e13 e14
    refine putFlag_within (hF.mono rfl) (not_configured rfl) ?_
    apply rawEnd_within (hF.mono rfl)
    apply dropXfers_within (hF.mono rfl)
    with_reducible assumption
  · rename_i x15 x16 x17 e18 e19
    refine within_ite (fun _ => ?_) (fun _ => ?_)
    · with_reducible assumption
    · extract_lets +onlyGivenNames y20
      extract_lets +onlyGivenNames y21
      have h22 : s.Within F y21 := by
        unfold y21
        apply rawStart_within (hF.mono rfl)
        apply rawEnd_within (hF.mono rfl)
        with_reducible assumption
      refine within_rng (hF.one rfl) ?_
      with_reducible assumption

theorem deliverRandom_within {F : Part → Bool} {s : State} (hF : Part.All F [.regs, .hdrs, .irq, .ctx, .bignum, .rng,
    .custody, .key, .perf]) {a1 : State} (a2) (a3) (k1 : s.Within F a1) :
    s.Within F (State.deliverRandom a1 a2 a3) := by
  unfold State.deliverRandom
  split
  · rename_i x0
    refine within_mk ?_ (.inr rfl) (.inr rfl) (.inr rfl) (.inr rfl) (.inr rfl) (.inr rfl) (.inr rfl) (.inr rfl) (.inl (hF.one rfl)) (.inr rfl) (.inr rfl) (.inr rfl) (.inr rfl) (.inl (hF.one rfl)) (.inr ⟨rfl, rfl, rfl⟩) (.inr rfl) (.inr rfl) (.inr rfl) (.inr rfl) (.inr rfl) (.inr rfl) (.inr rfl) (.inr rfl)
    with_reducible assumption
  · rename_i x1
    apply resplitRoot_within (hF.mono rfl)
    with_reducible assumption
  · rename_i x2
    apply loadRoot_within (hF.mono rfl)
    with_reducible assumption
  · rename_i x3
    extract_lets +onlyGivenNames y4
    have h5 : s.Within F y4 := by
      unfold y4
      refine put_within (hF.mono rfl) (not_configured rfl) ?_
      with_reducible assumption
    refine within_key (hF.one rfl) ?_
    with_reducible assumption
  · rename_i x6 x7
    extract_lets +onlyGivenNames y8
    extract_lets +onlyGivenNames y9
    extract_lets +onlyGivenNames y10
    extract_lets +onlyGivenNames y11
    have h12 : s.Within F y11 := by
      unfold y11
      refine within_key (hF.one rfl) ?_
      with_reducible assumption
    refine within_ite (fun _ => ?_) (fun _ => ?_)
    · apply resplitRoot_within (hF.mono rfl)
      with_reducible assumption
    · with_reducible assumption
  · rename_i x13 x14 x15
    extract_lets +onlyGivenNames y16
    refine within_bignum (hF.one rfl) ?_
    with_reducible assumption
  · rename_i x17 x18
    extract_lets +onlyGivenNames y19
    refine within_bignum (hF.one rfl) ?_
    with_reducible assumption
  · rename_i x20
    refine within_rng (hF.one rfl) ?_
    with_reducible assumption
  · rename_i x21
    refine within_rng (hF.one rfl) ?_
    with_reducible assumption
  · rename_i x22
    refine within_perf (hF.one rfl) ?_
    with_reducible assumption

theorem rngStart_within {F : Part → Bool} {s : State} (hF : Part.All F [.rng]) {a1 : State} (k1 : s.Within F a1) :
    s.Within F (State.rngStart a1) := by
  unfold State.rngStart
  extract_lets +onlyGivenNames y0
  have h1 : s.Within F y0 := by
    unfold y0
    apply startCells_within (hF.mono rfl)
    with_reducible assumption
  refine within_rng (hF.one rfl) ?_
  with_reducible assumption

theorem cellBatt_within {F : Part → Bool} {s : State} (hF : Part.All F [.regs, .hdrs, .irq, .fab, .rng]) {a1 : State}
    (a2) (a3) (k1 : s.Within F a1) :
    s.Within F (State.cellBatt a1 a2 a3) := by
  unfold State.cellBatt
  extract_lets +onlyGivenNames y0
  refine within_ite (fun _ => ?_) (fun _ => ?_)
  · with_reducible assumption
  · refine within_ite (fun _ => ?_) (fun _ => ?_)
    · apply setCell_within (hF.mono rfl)
      with_reducible assumption
    · extract_lets +onlyGivenNames y1
      have h2 : s.Within F y1 := by
        unfold y1
        apply setCell_within (hF.mono rfl)
        with_reducible assumption
      refine within_ite (fun _ => ?_) (fun _ => ?_)
      · apply captureBatt_within (hF.mono rfl)
        apply checkBatt_within (hF.mono rfl)
        with_reducible assumption
      · refine within_ite (fun _ => ?_) (fun _ => ?_)
        · apply setCell_within (hF.mono rfl)
          with_reducible assumption
        · apply checkBatt_within (hF.mono rfl)
          with_reducible assumption

theorem generate_within {F : Part → Bool} {s : State} (hF : Part.All F [.regs, .blocks, .hdrs, .irq, .rng, .key]) {a1
    : State} (a2) (k1 : s.Within F a1) :
    s.Within F (State.generate a1 a2).2 := by
  unfold State.generate
  split
  rename_i x0 x1 x2 e3
  split
  rename_i x4 x5 x6 e7
  extract_lets +onlyGivenNames y8
  extract_lets +onlyGivenNames y9
  have h10 : s.Within F y9 := by
    unfold y9
    refine within_rng (hF.one rfl) ?_
    with_reducible assumption
  refine within_pair_snd ?_
  apply rngLevels_within (hF.mono rfl)
  apply perfCount_within (hF.mono rfl)
  with_reducible assumption

theorem rngStop_within {F : Part → Bool} {s : State} (hF : Part.All F [.regs, .hdrs, .irq, .fab, .rng, .key]) {a1 :
    State} (k1 : s.Within F a1) :
    s.Within F (State.rngStop a1) := by
  unfold State.rngStop
  extract_lets +onlyGivenNames y0
  have h1 : s.Within F y0 := by
    unfold y0
    apply rngWipe_within (hF.mono rfl)
    with_reducible assumption
  refine within_rng (hF.one rfl) ?_
  with_reducible assumption

theorem battBoundary_within {F : Part → Bool} {s : State} (hF : Part.All F [.regs, .blocks, .hdrs, .irq, .fab, .rng])
    {a1 : State} (a2) (k1 : s.Within F a1) :
    s.Within F (State.battBoundary a1 a2) := by
  unfold State.battBoundary
  refine within_ite (fun _ => ?_) (fun _ => ?_)
  · with_reducible assumption
  · extract_lets +onlyGivenNames y0
    have h1 : s.Within F y0 := by
      unfold y0
      apply within_foldl
      · intro u2 x3 h4
        apply cellBatt_within (hF.mono rfl)
        with_reducible assumption
      · with_reducible assumption
    extract_lets +onlyGivenNames y5
    have h6 : s.Within F y5 := by
      unfold y5
      apply rawBoundary_within (hF.mono rfl)
      with_reducible assumption
    extract_lets +onlyGivenNames y7
    apply rngCheckReady_within (hF.mono rfl)
    refine within_rng (hF.one rfl) ?_
    with_reducible assumption

theorem grantCall_within {F : Part → Bool} {s : State} (hF : Part.All F [.regs, .blocks, .hdrs, .irq, .ctx, .bignum,
    .rng, .custody, .key, .perf]) {a1 : State} (a2) (k1 : s.Within F a1) :
    s.Within F (State.grantCall a1 a2) := by
  unfold State.grantCall
  split
  rename_i x0 x1 u2 e3
  have h4 : s.Within F u2 := by
    refine within_snd e3 ?_
    apply generate_within (hF.mono rfl)
    with_reducible assumption
  apply deliverRandom_within (hF.mono rfl)
  with_reducible assumption

theorem generateCall_within {F : Part → Bool} {s : State} (hF : Part.All F [.regs, .blocks, .hdrs, .irq, .ctx,
    .bignum, .rng, .custody, .key, .perf]) {a1 : State} (k1 : s.Within F a1) :
    s.Within F (State.generateCall a1) := by
  unfold State.generateCall
  extract_lets +onlyGivenNames y0
  have h1 : s.Within F y0 := by
    unfold y0
    apply reseed_within (hF.mono rfl)
    with_reducible assumption
  refine within_ite (fun _ => ?_) (fun _ => ?_)
  · with_reducible assumption
  · split
    · rename_i x2 x3 e4
      extract_lets +onlyGivenNames y5
      extract_lets +onlyGivenNames y6
      have h7 : s.Within F y6 := by
        unfold y6
        refine within_rng (hF.one rfl) ?_
        with_reducible assumption
      apply grantCall_within (hF.mono rfl)
      with_reducible assumption
    · rename_i x8 e9
      refine within_ite (fun _ => ?_) (fun _ => ?_)
      · with_reducible assumption
      · split
        · rename_i x10 x11 x12 e13
          extract_lets +onlyGivenNames y14
          extract_lets +onlyGivenNames y15
          have h16 : s.Within F y15 := by
            unfold y15
            refine within_rng (hF.one rfl) ?_
            with_reducible assumption
          apply grantCall_within (hF.mono rfl)
          with_reducible assumption
        · rename_i x17 e18
          with_reducible assumption

end Sys2Proof.Machine
end

