-- ==== Sys2Proof/Laws/FrameCustody.lean ====
section
/-! SUPPORT. The frames of the operations of Machine/Custody.lean: the parts that each may change. -/

namespace Sys2Proof.Machine

set_option Elab.async false

theorem clearFgen_within {F : Part → Bool} {s : State} (hF : Part.All F [.regs]) {a1 : State} (k1 : s.Within F a1) :
    s.Within F (State.clearFgen a1) := by
  unfold State.clearFgen
  apply within_foldl
  · intro u0 x1 h2
    refine setReg_within (hF.mono rfl) (not_configured rfl) ?_
    with_reducible assumption
  · with_reducible assumption

theorem remask_within {F : Part → Bool} {s : State} (hF : Part.All F [.ctx, .digest]) {a1 : State} (a2) (a3) (a4) (k1
    : s.Within F a1) :
    s.Within F (State.remask a1 a2 a3 a4) := by
  unfold State.remask
  refine within_ite (fun _ => ?_) (fun _ => ?_)
  · refine within_ctx (hF.one rfl) ?_
    with_reducible assumption
  · refine within_digest (hF.one rfl) ?_
    with_reducible assumption

theorem strayWords_within {F : Part → Bool} {s : State} (hF : Part.All F [.regs]) {a1 : State} (a2) (k1 : s.Within F
    a1) :
    s.Within F (State.strayWords a1 a2) := by
  unfold State.strayWords
  refine bump_within (hF.mono rfl) (not_configured rfl) ?_
  with_reducible assumption

theorem portRefuse_within {F : Part → Bool} {s : State} (hF : Part.All F [.regs, .hdrs, .irq, .key]) {a1 : State} (a2)
    (k1 : s.Within F a1) :
    s.Within F (State.portRefuse a1 a2) := by
  unfold State.portRefuse
  extract_lets +onlyGivenNames y0
  have h1 : s.Within F y0 := by
    unfold y0
    refine put_within (hF.mono rfl) (not_configured rfl) ?_
    with_reducible assumption
  extract_lets +onlyGivenNames y2
  have h3 : s.Within F y2 := by
    unfold y2
    refine bump_within (hF.mono rfl) (not_configured rfl) ?_
    with_reducible assumption
  extract_lets +onlyGivenNames y4
  extract_lets +onlyGivenNames y5
  have h6 : s.Within F y5 := by
    unfold y5
    refine within_key (hF.one rfl) ?_
    with_reducible assumption
  refine within_ite (fun _ => ?_) (fun _ => ?_)
  · extract_lets +onlyGivenNames y7
    extract_lets +onlyGivenNames y8
    have h9 : s.Within F y8 := by
      unfold y8
      refine within_key (hF.one rfl) ?_
      with_reducible assumption
    apply raiseFault_within (hF.mono rfl)
    apply lasting_within (hF.mono rfl)
    with_reducible assumption
  · refine within_key (hF.one rfl) ?_
    with_reducible assumption

theorem installEnds_within {F : Part → Bool} {s : State} (hF : Part.All F [.hdrs, .irq, .qeng, .crown, .ctx, .key])
    {a1 : State} (a2) (a3) (k1 : s.Within F a1) :
    s.Within F (State.installEnds a1 a2 a3) := by
  unfold State.installEnds
  split
  · rename_i x0 x1 e2
    split
    · rename_i x3 x4
      apply releaseLive_within (hF.mono rfl)
      apply dropMiss_within (hF.mono rfl)
      with_reducible assumption
    · rename_i x5
      apply releaseElems_within (hF.mono rfl)
      apply dropMiss_within (hF.mono rfl)
      with_reducible assumption
  · rename_i x6 e7
    with_reducible assumption

theorem acceptRoot_within {F : Part → Bool} {s : State} (hF : Part.All F [.rng, .key]) {a1 : State} (a2) (a3) (k1 :
    s.Within F a1) :
    s.Within F (State.acceptRoot a1 a2 a3) := by
  unfold State.acceptRoot
  extract_lets +onlyGivenNames y0
  refine within_mk ?_ (.inr rfl) (.inr rfl) (.inr rfl) (.inr rfl) (.inr rfl) (.inr rfl) (.inr rfl) (.inr rfl) (.inr rfl) (.inr rfl) (.inr rfl) (.inr rfl) (.inl (hF.one rfl)) (.inl (hF.one rfl)) (.inr ⟨rfl, rfl, rfl⟩) (.inr rfl) (.inr rfl) (.inr rfl) (.inr rfl) (.inr rfl) (.inr rfl) (.inr rfl) (.inr rfl)
  with_reducible assumption

theorem keyOp_within {F : Part → Bool} {s : State} (hF : Part.All F [.regs, .hdrs, .irq]) {a1 : State} (a2) (k1 :
    s.Within F a1) :
    s.Within F (State.keyOp a1 a2) := by
  unfold State.keyOp
  apply perfCount_within (hF.mono rfl)
  apply perfCount_within (hF.mono rfl)
  with_reducible assumption

theorem attestAbort_within {F : Part → Bool} {s : State} (hF : Part.All F [.regs, .key]) {a1 : State} (k1 : s.Within F
    a1) :
    s.Within F (State.attestAbort a1) := by
  unfold State.attestAbort
  refine within_ite (fun _ => ?_) (fun _ => ?_)
  · extract_lets +onlyGivenNames y0
    extract_lets +onlyGivenNames y1
    have h2 : s.Within F y1 := by
      unfold y1
      refine within_key (hF.one rfl) ?_
      with_reducible assumption
    extract_lets +onlyGivenNames y3
    have h4 : s.Within F y3 := by
      unfold y3
      apply within_foldl
      · intro u5 x6 h7
        refine setReg_within (hF.mono rfl) (not_configured rfl) ?_
        with_reducible assumption
      · with_reducible assumption
    refine putFlag_within (hF.mono rfl) (not_configured rfl) ?_
    refine putFlag_within (hF.mono rfl) (not_configured rfl) ?_
    with_reducible assumption
  · with_reducible assumption

theorem banksUndone_within {F : Part → Bool} {s : State} (hF : Part.All F [.key]) {a1 : State} (k1 : s.Within F a1) :
    s.Within F (State.banksUndone a1) := by
  unfold State.banksUndone
  apply within_foldl
  · intro u0 x1 h2
    apply setBank_within (hF.mono rfl)
    with_reducible assumption
  · with_reducible assumption

theorem noBanks_within {F : Part → Bool} {s : State} (hF : Part.All F [.key]) {a1 : State} (k1 : s.Within F a1) :
    s.Within F (State.noBanks a1) := by
  unfold State.noBanks
  refine within_key (hF.one rfl) ?_
  with_reducible assumption

theorem blobCount_within {F : Part → Bool} {s : State} (hF : Part.All F [.regs, .hdrs, .irq, .digest]) {a1 : State}
    (a2) (k1 : s.Within F a1) :
    s.Within F (State.blobCount a1 a2) := by
  unfold State.blobCount
  refine within_ite (fun _ => ?_) (fun _ => ?_)
  · apply kdfCount_within (hF.mono rfl)
    with_reducible assumption
  · with_reducible assumption

theorem clearDerived_within {F : Part → Bool} {s : State} (hF : Part.All F [.custody, .key]) {a1 : State} (k1 :
    s.Within F a1) :
    s.Within F (State.clearDerived a1) := by
  unfold State.clearDerived
  refine within_custody (hF.one rfl) (hF.one rfl) ?_
  with_reducible assumption

theorem pounceNext_within {F : Part → Bool} {s : State} (hF : Part.All F [.rng, .key]) {a1 : State} (a2) (k1 :
    s.Within F a1) :
    s.Within F (State.pounceNext a1 a2) := by
  induction' a2 with x ih generalizing a1
  · rw [State.pounceNext]
    with_reducible assumption
  · rw [State.pounceNext]
    split
    · rename_i x0 e1
      with_reducible assumption
    · rename_i x2 x3 e4
      refine within_ite (fun _ => ?_) (fun _ => ?_)
      · refine within_rng (hF.one rfl) ?_
        with_reducible assumption
      · apply ih
        apply setBank_within (hF.mono rfl)
        with_reducible assumption

theorem deriveOne_within {F : Part → Bool} {s : State} (hF : Part.All F [.regs, .hdrs, .irq, .ctx, .digest, .custody,
    .key]) {a1 : State} (a2) (a3) (k1 : s.Within F a1) :
    s.Within F (State.deriveOne a1 a2 a3) := by
  unfold State.deriveOne
  extract_lets +onlyGivenNames y0
  have h1 : s.Within F y0 := by
    unfold y0
    apply kdfCount_within (hF.mono rfl)
    with_reducible assumption
  split
  · rename_i x2
    refine within_key (hF.one rfl) ?_
    with_reducible assumption
  · rename_i x3
    extract_lets +onlyGivenNames y4
    extract_lets +onlyGivenNames y5
    extract_lets +onlyGivenNames y6
    extract_lets +onlyGivenNames y7
    have h8 : s.Within F y7 := by
      unfold y7
      refine within_custody (hF.one rfl) (hF.one rfl) ?_
      with_reducible assumption
    split
    · rename_i x9 x10 e11
      refine within_ite (fun _ => ?_) (fun _ => ?_)
      · refine within_ctx (hF.one rfl) ?_
        with_reducible assumption
      · with_reducible assumption
    · rename_i x12 e13
      with_reducible assumption

theorem dropImage_within {F : Part → Bool} {s : State} (hF : Part.All F [.digest]) {a1 : State} (k1 : s.Within F a1) :
    s.Within F (State.dropImage a1) := by
  unfold State.dropImage
  refine within_digest (hF.one rfl) ?_
  with_reducible assumption

theorem clearSecrets_within {F : Part → Bool} {s : State} (hF : Part.All F [.qeng]) {a1 : State} (k1 : s.Within F a1)
    :
    s.Within F (State.clearSecrets a1) := by
  unfold State.clearSecrets
  refine within_qeng (hF.one rfl) ?_
  with_reducible assumption

theorem passEnded_within {F : Part → Bool} {s : State} (hF : Part.All F [.key]) {a1 : State} (k1 : s.Within F a1) :
    s.Within F (State.passEnded a1) := by
  unfold State.passEnded
  refine within_key (hF.one rfl) ?_
  with_reducible assumption

theorem pounceOverdue_within {F : Part → Bool} {s : State} (hF : Part.All F [.regs, .hdrs, .irq, .key]) {a1 : State}
    (k1 : s.Within F a1) :
    s.Within F (State.pounceOverdue a1) := by
  unfold State.pounceOverdue
  refine within_ite (fun _ => ?_) (fun _ => ?_)
  · extract_lets +onlyGivenNames y0
    have h1 : s.Within F y0 := by
      unfold y0
      refine bump_within (hF.mono rfl) (not_configured rfl) ?_
      with_reducible assumption
    apply raiseEvent_within (hF.mono rfl)
    refine within_key (hF.one rfl) ?_
    with_reducible assumption
  · with_reducible assumption

theorem rootSplitAsk_within {F : Part → Bool} {s : State} (hF : Part.All F [.rng]) {a1 : State} (k1 : s.Within F a1) :
    s.Within F (State.rootSplitAsk a1) := by
  unfold State.rootSplitAsk
  refine within_ite (fun _ => ?_) (fun _ => ?_)
  · refine within_rng (hF.one rfl) ?_
    with_reducible assumption
  · with_reducible assumption

theorem portRequest_within {F : Part → Bool} {s : State} (hF : Part.All F [.key]) {a1 : State} (k1 : s.Within F a1) :
    s.Within F (State.portRequest a1) := by
  unfold State.portRequest
  refine within_ite (fun _ => ?_) (fun _ => ?_)
  · refine within_key (hF.one rfl) ?_
    with_reducible assumption
  · with_reducible assumption

theorem portRetryWait_within {F : Part → Bool} {s : State} (hF : Part.All F [.rng, .key]) {a1 : State} (k1 : s.Within
    F a1) :
    s.Within F (State.portRetryWait a1) := by
  unfold State.portRetryWait
  refine within_ite (fun _ => ?_) (fun _ => ?_)
  · refine within_ite (fun _ => ?_) (fun _ => ?_)
    · refine within_key (hF.one rfl) ?_
      with_reducible assumption
    · apply portReset_within (hF.mono rfl)
      with_reducible assumption
  · with_reducible assumption

theorem laneRereads_within {F : Part → Bool} {s : State} (hF : Part.All F [.regs, .hdrs, .irq]) {a1 : State} (a2) (k1
    : s.Within F a1) :
    s.Within F (State.laneRereads a1 a2) := by
  unfold State.laneRereads
  extract_lets +onlyGivenNames y0
  refine within_ite (fun _ => ?_) (fun _ => ?_)
  · with_reducible assumption
  · split
    rename_i x1 x2 u3 e4
    have h5 : s.Within F u3 := by
      refine within_snd e4 ?_
      apply takeFree_within (hF.mono rfl)
      with_reducible assumption
    apply perfCount_within (hF.mono rfl)
    with_reducible assumption

theorem kdfTaken_within {F : Part → Bool} {s : State} (hF : Part.All F [.key]) {a1 : State} (k1 : s.Within F a1) :
    s.Within F (State.kdfTaken a1) := by
  unfold State.kdfTaken
  split
  · rename_i x0 e1
    with_reducible assumption
  · rename_i x2 x3 e4
    refine within_ite (fun _ => ?_) (fun _ => ?_)
    · refine within_key (hF.one rfl) ?_
      with_reducible assumption
    · with_reducible assumption

theorem setPass_within {F : Part → Bool} {s : State} (hF : Part.All F [.key]) {a1 : State} (a2) (a3) (k1 : s.Within F
    a1) :
    s.Within F (State.setPass a1 a2 a3) := by
  unfold State.setPass
  refine within_key (hF.one rfl) ?_
  with_reducible assumption

theorem passSplit_within {F : Part → Bool} {s : State} (hF : Part.All F [.rng]) {a1 : State} (k1 : s.Within F a1) :
    s.Within F (State.passSplit a1) := by
  unfold State.passSplit
  refine within_ite (fun _ => ?_) (fun _ => ?_)
  · with_reducible assumption
  · apply rootSplitAsk_within (hF.mono rfl)
    with_reducible assumption

theorem clearLatch_within {F : Part → Bool} {s : State} (hF : Part.All F [.regs, .rng, .custody, .key]) {a1 : State}
    (k1 : s.Within F a1) :
    s.Within F (State.clearLatch a1) := by
  unfold State.clearLatch
  extract_lets +onlyGivenNames y0
  have h1 : s.Within F y0 := by
    unfold y0
    refine within_ite (fun _ => ?_) (fun _ => ?_)
    · refine bump_within (hF.mono rfl) (not_configured rfl) ?_
      with_reducible assumption
    · with_reducible assumption
  extract_lets +onlyGivenNames y2
  extract_lets +onlyGivenNames y3
  have h4 : s.Within F y3 := by
    unfold y3
    refine within_custody (hF.one rfl) (hF.one rfl) ?_
    with_reducible assumption
  apply clearFgen_within (hF.mono rfl)
  refine setReg_within (hF.mono rfl) (not_configured rfl) ?_
  apply portReset_within (hF.mono rfl)
  with_reducible assumption

theorem kdfSync_within {F : Part → Bool} {s : State} (hF : Part.All F [.regs, .hdrs, .irq, .digest, .key]) {a1 :
    State} (k1 : s.Within F a1) :
    s.Within F (State.kdfSync a1) := by
  unfold State.kdfSync
  refine within_ite (fun _ => ?_) (fun _ => ?_)
  · apply kdfTaken_within (hF.mono rfl)
    apply kdfSeat_within (hF.mono rfl)
    with_reducible assumption
  · apply kdfLeave_within (hF.mono rfl)
    with_reducible assumption

theorem pounceDraw_within {F : Part → Bool} {s : State} (hF : Part.All F [.rng, .key]) {a1 : State} (k1 : s.Within F
    a1) :
    s.Within F (State.pounceDraw a1) := by
  unfold State.pounceDraw
  refine within_ite (fun _ => ?_) (fun _ => ?_)
  · extract_lets +onlyGivenNames y0
    have h1 : s.Within F y0 := by
      unfold y0
      apply within_foldl
      · intro u2 x3 h4
        apply setBank_within (hF.mono rfl)
        with_reducible assumption
      · with_reducible assumption
    apply pounceNext_within (hF.mono rfl)
    apply setPass_within (hF.mono rfl)
    with_reducible assumption
  · with_reducible assumption

theorem bankFinish_within {F : Part → Bool} {s : State} (hF : Part.All F [.ctx, .digest, .key]) {a1 : State} (a2) (k1
    : s.Within F a1) :
    s.Within F (State.bankFinish a1 a2) := by
  unfold State.bankFinish
  extract_lets +onlyGivenNames y0
  split
  · rename_i x1 e2
    with_reducible assumption
  · rename_i x3 x4 e5
    apply setBank_within (hF.mono rfl)
    apply remask_within (hF.mono rfl)
    with_reducible assumption

theorem portTimeout_within {F : Part → Bool} {s : State} (hF : Part.All F [.regs, .hdrs, .irq, .rng, .key]) {a1 :
    State} (k1 : s.Within F a1) :
    s.Within F (State.portTimeout a1) := by
  unfold State.portTimeout
  refine within_ite (fun _ => ?_) (fun _ => ?_)
  · with_reducible assumption
  · refine within_ite (fun _ => ?_) (fun _ => ?_)
    · apply portRefuse_within (hF.mono rfl)
      with_reducible assumption
    · apply portReset_within (hF.mono rfl)
      with_reducible assumption

theorem portRetry_within {F : Part → Bool} {s : State} (hF : Part.All F [.hdrs, .irq, .rng, .key]) {a1 : State} (k1 :
    s.Within F a1) :
    s.Within F (State.portRetry a1) := by
  unfold State.portRetry
  refine within_ite (fun _ => ?_) (fun _ => ?_)
  · apply portRequest_within (hF.mono rfl)
    apply portReset_within (hF.mono rfl)
    with_reducible assumption
  · apply seq_within (hF.mono rfl)
    with_reducible assumption

theorem kdfTally_within {F : Part → Bool} {s : State} (hF : Part.All F [.regs, .hdrs, .irq]) {a1 : State} (a2) (a3)
    (k1 : s.Within F a1) :
    s.Within F (State.kdfTally a1 a2 a3) := by
  unfold State.kdfTally
  apply keyOp_within (hF.mono rfl)
  apply fnCount_within (hF.mono rfl)
  apply perfCount_within (hF.mono rfl)
  with_reducible assumption

theorem judgeTransfer_within {F : Part → Bool} {s : State} (hF : Part.All F [.regs, .hdrs, .irq, .rng, .key]) {a1 :
    State} (a2) (k1 : s.Within F a1) :
    s.Within F (State.judgeTransfer a1 a2) := by
  unfold State.judgeTransfer
  extract_lets +onlyGivenNames y0
  extract_lets +onlyGivenNames y1
  refine within_ite (fun _ => ?_) (fun _ => ?_)
  · apply portRefuse_within (hF.mono rfl)
    with_reducible assumption
  · refine within_ite (fun _ => ?_) (fun _ => ?_)
    · apply portRefuse_within (hF.mono rfl)
      with_reducible assumption
    · refine within_ite (fun _ => ?_) (fun _ => ?_)
      · apply portRefuse_within (hF.mono rfl)
        with_reducible assumption
      · apply acceptRoot_within (hF.mono rfl)
        with_reducible assumption

theorem bankBack_within {F : Part → Bool} {s : State} (hF : Part.All F [.ctx, .digest, .key]) {a1 : State} (a2) (k1 :
    s.Within F a1) :
    s.Within F (State.bankBack a1 a2) := by
  unfold State.bankBack
  extract_lets +onlyGivenNames y0
  have h1 : s.Within F y0 := by
    unfold y0
    apply bankFinish_within (hF.mono rfl)
    with_reducible assumption
  apply setBank_within (hF.mono rfl)
  with_reducible assumption

theorem portWords_within {F : Part → Bool} {s : State} (hF : Part.All F [.regs, .hdrs, .irq, .rng, .key]) {a1 : State}
    (a2) (a3) (k1 : s.Within F a1) :
    s.Within F (State.portWords a1 a2 a3) := by
  unfold State.portWords
  refine within_ite (fun _ => ?_) (fun _ => ?_)
  · apply strayWords_within (hF.mono rfl)
    with_reducible assumption
  · refine within_ite (fun _ => ?_) (fun _ => ?_)
    · apply strayWords_within (hF.mono rfl)
      apply portReset_within (hF.mono rfl)
      with_reducible assumption
    · refine within_ite (fun _ => ?_) (fun _ => ?_)
      · extract_lets +onlyGivenNames y0
        apply strayWords_within (hF.mono rfl)
        apply judgeTransfer_within (hF.mono rfl)
        with_reducible assumption
      · refine within_ite (fun _ => ?_) (fun _ => ?_)
        · with_reducible assumption
        · refine within_key (hF.one rfl) ?_
          with_reducible assumption

theorem keyDispatch_within {F : Part → Bool} {s : State} (hF : Part.All F [.regs, .hdrs, .irq, .fab, .digest, .key])
    {a1 : State} (a2) (k1 : s.Within F a1) :
    s.Within F (State.keyDispatch a1 a2) := by
  unfold State.keyDispatch
  split
  rename_i x0 x1 u2 e3
  have h4 : s.Within F u2 := by
    refine within_snd e3 ?_
    apply newJob_within (hF.mono rfl)
    with_reducible assumption
  split
  rename_i x5 x6 u7 e8
  have h9 : s.Within F u7 := by
    refine within_snd e8 ?_
    apply within_foldl_snd
    · intro x10 x11 h12
      apply readPart_within (hF.mono rfl)
      with_reducible assumption
    · refine within_pair_snd ?_
      with_reducible assumption
  apply kdfSync_within (hF.mono rfl)
  refine within_key (hF.one rfl) ?_
  with_reducible assumption

theorem clearRoot_within {F : Part → Bool} {s : State} (hF : Part.All F [.regs, .digest, .rng, .custody, .key]) {a1 :
    State} (k1 : s.Within F a1) :
    s.Within F (State.clearRoot a1) := by
  unfold State.clearRoot
  apply dropImage_within (hF.mono rfl)
  apply clearLatch_within (hF.mono rfl)
  with_reducible assumption

theorem kdfNext_within {F : Part → Bool} {s : State} (hF : Part.All F [.regs, .hdrs, .irq, .digest, .key]) {a1 :
    State} (k1 : s.Within F a1) :
    s.Within F (State.kdfNext a1) := by
  unfold State.kdfNext
  apply kdfSync_within (hF.mono rfl)
  apply kdfLeave_within (hF.mono rfl)
  with_reducible assumption

theorem keyAbort_within {F : Part → Bool} {s : State} (hF : Part.All F [.regs, .hdrs, .irq, .crown, .digest, .key])
    {a1 : State} (a2) (k1 : s.Within F a1) :
    s.Within F (State.keyAbort a1 a2) := by
  unfold State.keyAbort
  extract_lets +onlyGivenNames y0
  extract_lets +onlyGivenNames y1
  extract_lets +onlyGivenNames y2
  have h3 : s.Within F y2 := by
    unfold y2
    apply kdfSync_within (hF.mono rfl)
    refine within_key (hF.one rfl) ?_
    with_reducible assumption
  apply within_foldl
  · intro u4 x5 h6
    refine within_ite (fun _ => ?_) (fun _ => ?_)
    · apply endJob_within (hF.mono rfl)
      with_reducible assumption
    · with_reducible assumption
  · with_reducible assumption

theorem attestStart_within {F : Part → Bool} {s : State} (hF : Part.All F [.regs, .hdrs, .irq, .digest, .key]) {a1 :
    State} (k1 : s.Within F a1) :
    s.Within F (State.attestStart a1) := by
  unfold State.attestStart
  refine within_ite (fun _ => ?_) (fun _ => ?_)
  · apply seq_within (hF.mono rfl)
    with_reducible assumption
  · extract_lets +onlyGivenNames y0
    have h1 : s.Within F y0 := by
      unfold y0
      refine putFlag_within (hF.mono rfl) (not_configured rfl) ?_
      with_reducible assumption
    refine within_ite (fun _ => ?_) (fun _ => ?_)
    · refine putFlag_within (hF.mono rfl) (not_configured rfl) ?_
      refine putFlag_within (hF.mono rfl) (not_configured rfl) ?_
      with_reducible assumption
    · extract_lets +onlyGivenNames y2
      apply kdfSync_within (hF.mono rfl)
      extract_lets +onlyGivenNames y3
      have h4 : s.Within F y3 := by
        unfold y3
        refine putFlag_within (hF.mono rfl) (not_configured rfl) ?_
        with_reducible assumption
      refine within_key (hF.one rfl) ?_
      with_reducible assumption

theorem pounceFresh_within {F : Part → Bool} {s : State} (hF : Part.All F [.rng, .key]) {a1 : State} (k1 : s.Within F
    a1) :
    s.Within F (State.pounceFresh a1) := by
  unfold State.pounceFresh
  refine within_ite (fun _ => ?_) (fun _ => ?_)
  · apply pounceDraw_within (hF.mono rfl)
    with_reducible assumption
  · with_reducible assumption

theorem banksBack_within {F : Part → Bool} {s : State} (hF : Part.All F [.ctx, .digest, .key]) {a1 : State} (k1 :
    s.Within F a1) :
    s.Within F (State.banksBack a1) := by
  unfold State.banksBack
  apply within_foldl
  · intro u0 x1 h2
    apply bankBack_within (hF.mono rfl)
    with_reducible assumption
  · with_reducible assumption

theorem attestDone_within {F : Part → Bool} {s : State} (hF : Part.All F [.regs, .hdrs, .irq, .digest, .key]) {a1 :
    State} (k1 : s.Within F a1) :
    s.Within F (State.attestDone a1) := by
  unfold State.attestDone
  extract_lets +onlyGivenNames y0
  have h1 : s.Within F y0 := by
    unfold y0
    apply kdfSync_within (hF.mono rfl)
    with_reducible assumption
  split
  · rename_i x2 x3 x4 x5 e6 e7
    refine within_ite (fun _ => ?_) (fun _ => ?_)
    · extract_lets +onlyGivenNames y8
      have h9 : s.Within F y8 := by
        unfold y8
        apply kdfCount_within (hF.mono rfl)
        with_reducible assumption
      extract_lets +onlyGivenNames y10
      extract_lets +onlyGivenNames y11
      have h12 : s.Within F y11 := by
        unfold y11
        apply keyOp_within (hF.mono rfl)
        refine putWords_within (hF.mono rfl) (not_configured rfl) ?_
        refine putWords_within (hF.mono rfl) (not_configured rfl) ?_
        with_reducible assumption
      extract_lets +onlyGivenNames y13
      extract_lets +onlyGivenNames y14
      have h15 : s.Within F y14 := by
        unfold y14
        apply kdfNext_within (hF.mono rfl)
        refine within_key (hF.one rfl) ?_
        with_reducible assumption
      apply raiseEvent_within (hF.mono rfl)
      refine putFlag_within (hF.mono rfl) (not_configured rfl) ?_
      with_reducible assumption
    · with_reducible assumption
  · rename_i x16 x17 e18
    with_reducible assumption

theorem keyDerive_within {F : Part → Bool} {s : State} (hF : Part.All F [.regs, .hdrs, .irq, .ctx, .digest, .custody,
    .key]) {a1 : State} (k1 : s.Within F a1) :
    s.Within F (State.keyDerive a1) := by
  unfold State.keyDerive
  extract_lets +onlyGivenNames y0
  have h1 : s.Within F y0 := by
    unfold y0
    apply kdfSync_within (hF.mono rfl)
    with_reducible assumption
  split
  · rename_i x2 e3
    with_reducible assumption
  · rename_i x4 x5 e6
    refine within_ite (fun _ => ?_) (fun _ => ?_)
    · extract_lets +onlyGivenNames y7
      extract_lets +onlyGivenNames y8
      have h9 : s.Within F y8 := by
        unfold y8
        apply within_foldl
        · intro u10 x11 h12
          apply keyOp_within (hF.mono rfl)
          apply deriveOne_within (hF.mono rfl)
          with_reducible assumption
        · with_reducible assumption
      apply kdfNext_within (hF.mono rfl)
      refine within_key (hF.one rfl) ?_
      with_reducible assumption
    · with_reducible assumption

theorem keyDrop_within {F : Part → Bool} {s : State} (hF : Part.All F [.regs, .hdrs, .irq, .digest, .key]) {a1 :
    State} (a2) (k1 : s.Within F a1) :
    s.Within F (State.keyDrop a1 a2) := by
  unfold State.keyDrop
  extract_lets +onlyGivenNames y0
  extract_lets +onlyGivenNames y1
  have h2 : s.Within F y1 := by
    unfold y1
    refine within_key (hF.one rfl) ?_
    with_reducible assumption
  refine within_ite (fun _ => ?_) (fun _ => ?_)
  · apply kdfNext_within (hF.mono rfl)
    with_reducible assumption
  · with_reducible assumption

theorem pounceDone_within {F : Part → Bool} {s : State} (hF : Part.All F [.regs, .hdrs, .irq, .rng, .key]) {a1 :
    State} (k1 : s.Within F a1) :
    s.Within F (State.pounceDone a1) := by
  unfold State.pounceDone
  refine within_ite (fun _ => ?_) (fun _ => ?_)
  · extract_lets +onlyGivenNames y0
    have h1 : s.Within F y0 := by
      unfold y0
      apply passEnded_within (hF.mono rfl)
      apply banksUndone_within (hF.mono rfl)
      with_reducible assumption
    extract_lets +onlyGivenNames y2
    have h3 : s.Within F y2 := by
      unfold y2
      refine put_within (hF.mono rfl) (not_configured rfl) ?_
      with_reducible assumption
    extract_lets +onlyGivenNames y4
    have h5 : s.Within F y4 := by
      unfold y4
      refine put_within (hF.mono rfl) (not_configured rfl) ?_
      with_reducible assumption
    apply pounceFresh_within (hF.mono rfl)
    apply raiseEvent_within (hF.mono rfl)
    apply perfCount_within (hF.mono rfl)
    with_reducible assumption
  · with_reducible assumption

theorem pounceStart_within {F : Part → Bool} {s : State} (hF : Part.All F [.ctx, .digest, .rng, .key]) {a1 : State}
    (k1 : s.Within F a1) :
    s.Within F (State.pounceStart a1) := by
  unfold State.pounceStart
  apply pounceNext_within (hF.mono rfl)
  apply setPass_within (hF.mono rfl)
  apply banksBack_within (hF.mono rfl)
  apply passSplit_within (hF.mono rfl)
  with_reducible assumption

theorem kdfOutput_within {F : Part → Bool} {s : State} (hF : Part.All F [.regs, .hdrs, .irq, .qeng, .crown, .fab,
    .digest, .key, .finishes]) {a1 : State} (a2) (a3) (k1 : s.Within F a1) :
    s.Within F (State.kdfOutput a1 a2 a3) := by
  unfold State.kdfOutput
  refine within_ite (fun _ => ?_) (fun _ => ?_)
  · apply endJob_within (hF.mono rfl)
    apply putSecret_within (hF.mono rfl)
    apply keyDrop_within (hF.mono rfl)
    with_reducible assumption
  · apply writeResult_within (hF.mono rfl)
    apply putSecret_within (hF.mono rfl)
    apply keyDrop_within (hF.mono rfl)
    with_reducible assumption

theorem keyEnd_within {F : Part → Bool} {s : State} (hF : Part.All F [.regs, .hdrs, .irq, .qeng, .crown, .digest,
    .key]) {a1 : State} (a2) (a3) (k1 : s.Within F a1) :
    s.Within F (State.keyEnd a1 a2 a3) := by
  unfold State.keyEnd
  apply endJob_within (hF.mono rfl)
  apply putSecret_within (hF.mono rfl)
  apply keyDrop_within (hF.mono rfl)
  with_reducible assumption

theorem pounceStop_within {F : Part → Bool} {s : State} (hF : Part.All F [.ctx, .digest, .rng, .key]) {a1 : State} (k1
    : s.Within F a1) :
    s.Within F (State.pounceStop a1) := by
  unfold State.pounceStop
  extract_lets +onlyGivenNames y0
  extract_lets +onlyGivenNames y1
  have h2 : s.Within F y1 := by
    unfold y1
    refine within_rng (hF.one rfl) ?_
    with_reducible assumption
  apply banksBack_within (hF.mono rfl)
  apply setPass_within (hF.mono rfl)
  with_reducible assumption

theorem installFail_within {F : Part → Bool} {s : State} (hF : Part.All F [.regs, .hdrs, .irq, .qeng, .crown, .ctx,
    .digest, .key]) {a1 : State} (a2) (a3) (k1 : s.Within F a1) :
    s.Within F (State.installFail a1 a2 a3) := by
  unfold State.installFail
  extract_lets +onlyGivenNames y0
  extract_lets +onlyGivenNames y1
  have h2 : s.Within F y1 := by
    unfold y1
    split
    · rename_i x3 x4 e5
      apply wipeWay_within (hF.mono rfl)
      with_reducible assumption
    · rename_i x6 e7
      with_reducible assumption
  apply installEnds_within (hF.mono rfl)
  apply keyEnd_within (hF.mono rfl)
  with_reducible assumption

theorem kdfRun_within {F : Part → Bool} {s : State} (hF : Part.All F [.regs, .hdrs, .irq, .qeng, .crown, .fab,
    .digest, .key, .finishes]) {a1 : State} (k1 : s.Within F a1) :
    s.Within F (State.kdfRun a1) := by
  unfold State.kdfRun
  extract_lets +onlyGivenNames y0
  have h1 : s.Within F y0 := by
    unfold y0
    apply kdfSync_within (hF.mono rfl)
    with_reducible assumption
  split
  · rename_i x2 e3
    with_reducible assumption
  · rename_i x4 x5 e6
    extract_lets +onlyGivenNames y7
    extract_lets +onlyGivenNames y8
    refine within_ite (fun _ => ?_) (fun _ => ?_)
    · with_reducible assumption
    · split
      · rename_i x9 x10 e11
        apply keyEnd_within (hF.mono rfl)
        apply kdfTally_within (hF.mono rfl)
        with_reducible assumption
      · rename_i x12 e13
        refine within_ite (fun _ => ?_) (fun _ => ?_)
        · apply keyEnd_within (hF.mono rfl)
          apply kdfTally_within (hF.mono rfl)
          with_reducible assumption
        · refine within_ite (fun _ => ?_) (fun _ => ?_)
          · apply keyEnd_within (hF.mono rfl)
            apply kdfTally_within (hF.mono rfl)
            with_reducible assumption
          · refine within_ite (fun _ => ?_) (fun _ => ?_)
            · with_reducible assumption
            · extract_lets +onlyGivenNames y14
              have h15 : s.Within F y14 := by
                unfold y14
                apply kdfCount_within (hF.mono rfl)
                apply kdfTally_within (hF.mono rfl)
                with_reducible assumption
              extract_lets +onlyGivenNames y16
              clear_value y0
              clear_value y7
              clear_value y8
              clear_value y14
              clear_value y16
              split
              · rename_i x17 x18
                apply keyEnd_within (hF.mono rfl)
                with_reducible assumption
              · rename_i x19 x20
                apply kdfOutput_within (hF.mono rfl)
                with_reducible assumption

theorem losePounce_within {F : Part → Bool} {s : State} (hF : Part.All F [.ctx, .digest, .rng, .key]) {a1 : State} (k1
    : s.Within F a1) :
    s.Within F (State.losePounce a1) := by
  unfold State.losePounce
  extract_lets +onlyGivenNames y0
  have h1 : s.Within F y0 := by
    unfold y0
    apply pounceStop_within (hF.mono rfl)
    with_reducible assumption
  refine within_ite (fun _ => ?_) (fun _ => ?_)
  · with_reducible assumption
  · apply noBanks_within (hF.mono rfl)
    with_reducible assumption

theorem ctxArm_within {F : Part → Bool} {s : State} (hF : Part.All F [.regs, .hdrs, .irq, .qeng, .crown, .fab, .ctx,
    .digest, .key]) {a1 : State} (k1 : s.Within F a1) :
    s.Within F (State.ctxArm a1) := by
  unfold State.ctxArm
  extract_lets +onlyGivenNames y0
  have h1 : s.Within F y0 := by
    unfold y0
    apply kdfSync_within (hF.mono rfl)
    with_reducible assumption
  split
  · rename_i x2 x3 e4
    extract_lets +onlyGivenNames y5
    refine within_ite (fun _ => ?_) (fun _ => ?_)
    · with_reducible assumption
    · refine within_ite (fun _ => ?_) (fun _ => ?_)
      · apply keyEnd_within (hF.mono rfl)
        with_reducible assumption
      · refine within_ite (fun _ => ?_) (fun _ => ?_)
        · with_reducible assumption
        · split
          · rename_i x6 u7 e8
            have h9 : s.Within F u7 := by
              refine within_snd e8 ?_
              apply jobLookup_within (hF.mono rfl)
              with_reducible assumption
            with_reducible assumption
          · rename_i x10 x11 u12 e13
            have h14 : s.Within F u12 := by
              refine within_snd e13 ?_
              apply jobLookup_within (hF.mono rfl)
              with_reducible assumption
            refine within_ite (fun _ => ?_) (fun _ => ?_)
            · apply kdfSync_within (hF.mono rfl)
              apply readMaterial_within (hF.mono rfl)
              with_reducible assumption
            · extract_lets +onlyGivenNames y15
              refine within_ite (fun _ => ?_) (fun _ => ?_)
              · with_reducible assumption
              · extract_lets +onlyGivenNames y16
                have h17 : s.Within F y16 := by
                  unfold y16
                  apply blobCount_within (hF.mono rfl)
                  apply keyOp_within (hF.mono rfl)
                  with_reducible assumption
                extract_lets +onlyGivenNames y18
                extract_lets +onlyGivenNames y19
                have h20 : ∀ z0, s.Within F z0 → ∀ z1, s.Within F (y19 z0 z1) := by
                  unfold y19
                  intro u21 h22 x23
                  apply keyEnd_within (hF.mono rfl)
                  with_reducible assumption
                refine within_ite (fun _ => ?_) (fun _ => ?_)
                · apply h20
                  with_reducible assumption
                · refine within_ite (fun _ => ?_) (fun _ => ?_)
                  · apply h20
                    with_reducible assumption
                  · split
                    · rename_i x24 x25 e26
                      apply h20
                      with_reducible assumption
                    · rename_i x27 x28 e29
                      refine within_ite (fun _ => ?_) (fun _ => ?_)
                      · apply h20
                        with_reducible assumption
                      · refine within_ite (fun _ => ?_) (fun _ => ?_)
                        · extract_lets +onlyGivenNames y30
                          have h31 : s.Within F y30 := by
                            unfold y30
                            apply raiseEvent_within (hF.mono rfl)
                            with_reducible assumption
                          extract_lets +onlyGivenNames y32
                          have h33 : s.Within F y32 := by
                            unfold y32
                            refine bump_within (hF.mono rfl) (not_configured rfl) ?_
                            with_reducible assumption
                          extract_lets +onlyGivenNames y34
                          have h35 : s.Within F y34 := by
                            unfold y34
                            refine putFlag_within (hF.mono rfl) (not_configured rfl) ?_
                            refine put_within (hF.mono rfl) (not_configured rfl) ?_
                            with_reducible assumption
                          apply fnCount_within (hF.mono rfl)
                          apply h20
                          with_reducible assumption
                        · extract_lets +onlyGivenNames y36
                          have h37 : s.Within F y36 := by
                            unfold y36
                            apply modCtx_within (hF.mono rfl)
                            apply freshWay_within (hF.mono rfl)
                            with_reducible assumption
                          extract_lets +onlyGivenNames y38
                          have h39 : s.Within F y38 := by
                            unfold y38
                            refine within_ite (fun _ => ?_) (fun _ => ?_)
                            · refine bump_within (hF.mono rfl) (not_configured rfl) ?_
                              with_reducible assumption
                            · with_reducible assumption
                          apply fnCount_within (hF.mono rfl)
                          apply h20
                          with_reducible assumption
  · rename_i x40 e41
    with_reducible assumption

theorem clearPounce_within {F : Part → Bool} {s : State} (hF : Part.All F [.ctx, .digest, .rng, .key]) {a1 : State}
    (k1 : s.Within F a1) :
    s.Within F (State.clearPounce a1) := by
  unfold State.clearPounce
  apply noBanks_within (hF.mono rfl)
  apply pounceStop_within (hF.mono rfl)
  with_reducible assumption

theorem drawEnds_within {F : Part → Bool} {s : State} (hF : Part.All F [.ctx, .digest, .rng, .key]) {a1 : State} (k1 :
    s.Within F a1) :
    s.Within F (State.drawEnds a1) := by
  unfold State.drawEnds
  refine within_ite (fun _ => ?_) (fun _ => ?_)
  · apply pounceFresh_within (hF.mono rfl)
    apply pounceStop_within (hF.mono rfl)
    with_reducible assumption
  · with_reducible assumption

theorem pounceDue_within {F : Part → Bool} {s : State} (hF : Part.All F [.ctx, .digest, .rng, .key]) {a1 : State} (k1
    : s.Within F a1) :
    s.Within F (State.pounceDue a1) := by
  unfold State.pounceDue
  refine within_ite (fun _ => ?_) (fun _ => ?_)
  · refine within_ite (fun _ => ?_) (fun _ => ?_)
    · apply pounceStart_within (hF.mono rfl)
      with_reducible assumption
    · refine within_ite (fun _ => ?_) (fun _ => ?_)
      · apply pounceStart_within (hF.mono rfl)
        apply pounceStop_within (hF.mono rfl)
        with_reducible assumption
      · with_reducible assumption
  · with_reducible assumption

theorem pounceBank_within {F : Part → Bool} {s : State} (hF : Part.All F [.regs, .hdrs, .irq, .ctx, .digest, .rng,
    .key]) {a1 : State} (a2) (k1 : s.Within F a1) :
    s.Within F (State.pounceBank a1 a2) := by
  unfold State.pounceBank
  refine within_ite (fun _ => ?_) (fun _ => ?_)
  · with_reducible assumption
  · extract_lets +onlyGivenNames y0
    have h1 : s.Within F y0 := by
      unfold y0
      apply bankFinish_within (hF.mono rfl)
      apply laneRereads_within (hF.mono rfl)
      with_reducible assumption
    refine within_ite (fun _ => ?_) (fun _ => ?_)
    · apply drawEnds_within (hF.mono rfl)
      apply pounceNext_within (hF.mono rfl)
      with_reducible assumption
    · with_reducible assumption

theorem ctxInstall_within {F : Part → Bool} {s : State} (hF : Part.All F [.regs, .hdrs, .irq, .qeng, .crown, .fab,
    .ctx, .digest, .key]) {a1 : State} (k1 : s.Within F a1) :
    s.Within F (State.ctxInstall a1) := by
  unfold State.ctxInstall
  extract_lets +onlyGivenNames y0
  have h1 : s.Within F y0 := by
    unfold y0
    apply kdfSync_within (hF.mono rfl)
    with_reducible assumption
  split
  · rename_i x2 x3 e4
    extract_lets +onlyGivenNames y5
    refine within_ite (fun _ => ?_) (fun _ => ?_)
    · with_reducible assumption
    · refine within_ite (fun _ => ?_) (fun _ => ?_)
      · apply keyEnd_within (hF.mono rfl)
        with_reducible assumption
      · refine within_ite (fun _ => ?_) (fun _ => ?_)
        · with_reducible assumption
        · refine within_ite (fun _ => ?_) (fun _ => ?_)
          · apply kdfSync_within (hF.mono rfl)
            apply jobLookup_within (hF.mono rfl)
            with_reducible assumption
          · refine within_ite (fun _ => ?_) (fun _ => ?_)
            · with_reducible assumption
            · extract_lets +onlyGivenNames y6
              have h7 : s.Within F y6 := by
                unfold y6
                apply blobCount_within (hF.mono rfl)
                apply keyOp_within (hF.mono rfl)
                with_reducible assumption
              refine within_ite (fun _ => ?_) (fun _ => ?_)
              · apply installFail_within (hF.mono rfl)
                with_reducible assumption
              · refine within_ite (fun _ => ?_) (fun _ => ?_)
                · apply installFail_within (hF.mono rfl)
                  with_reducible assumption
                · split
                  · rename_i x8 x9 e10
                    apply installFail_within (hF.mono rfl)
                    with_reducible assumption
                  · rename_i x11 x12 e13
                    split
                    · rename_i x14 e15
                      apply installFail_within (hF.mono rfl)
                      with_reducible assumption
                    · rename_i x16 x17 e18
                      extract_lets +onlyGivenNames y19
                      extract_lets +onlyGivenNames y20
                      extract_lets +onlyGivenNames y21
                      have h22 : s.Within F y21 := by
                        unfold y21
                        apply setWay_within (hF.mono rfl)
                        with_reducible assumption
                      apply fnCount_within (hF.mono rfl)
                      apply installEnds_within (hF.mono rfl)
                      apply keyEnd_within (hF.mono rfl)
                      with_reducible assumption
  · rename_i x23 e24
    with_reducible assumption

theorem pounceDrop_within {F : Part → Bool} {s : State} (hF : Part.All F [.ctx, .digest, .rng, .key]) {a1 : State}
    (a2) (a3) (k1 : s.Within F a1) :
    s.Within F (State.pounceDrop a1 a2 a3) := by
  unfold State.pounceDrop
  refine within_ite (fun _ => ?_) (fun _ => ?_)
  · with_reducible assumption
  · extract_lets +onlyGivenNames y0
    extract_lets +onlyGivenNames y1
    extract_lets +onlyGivenNames y2
    extract_lets +onlyGivenNames y3
    extract_lets +onlyGivenNames y4
    have h5 : s.Within F y4 := by
      unfold y4
      refine within_rng (hF.one rfl) ?_
      with_reducible assumption
    extract_lets +onlyGivenNames y6
    have h7 : s.Within F y6 := by
      unfold y6
      refine within_ite (fun _ => ?_) (fun _ => ?_)
      · apply rootSplitAsk_within (hF.mono rfl)
        with_reducible assumption
      · with_reducible assumption
    extract_lets +onlyGivenNames y8
    have h9 : s.Within F y8 := by
      unfold y8
      apply within_foldl
      · intro u10 x11 h12
        apply setBank_within (hF.mono rfl)
        with_reducible assumption
      · with_reducible assumption
    refine within_ite (fun _ => ?_) (fun _ => ?_)
    · apply drawEnds_within (hF.mono rfl)
      apply pounceNext_within (hF.mono rfl)
      with_reducible assumption
    · apply drawEnds_within (hF.mono rfl)
      with_reducible assumption

theorem clearKeys_within {F : Part → Bool} {s : State} (hF : Part.All F [.regs, .hdrs, .irq, .qeng, .ctx, .digest,
    .rng, .custody, .key]) {a1 : State} (k1 : s.Within F a1) :
    s.Within F (State.clearKeys a1) := by
  unfold State.clearKeys
  apply kdfSync_within (hF.mono rfl)
  apply clearSecrets_within (hF.mono rfl)
  apply clearPounce_within (hF.mono rfl)
  apply clearDerived_within (hF.mono rfl)
  apply attestAbort_within (hF.mono rfl)
  with_reducible assumption

theorem zeroize_within {F : Part → Bool} {s : State} (hF : Part.All F [.regs, .hdrs, .irq, .qeng, .ctx, .digest, .rng,
    .custody, .key]) {a1 : State} (k1 : s.Within F a1) :
    s.Within F (State.zeroize a1) := by
  unfold State.zeroize
  refine within_ite (fun _ => ?_) (fun _ => ?_)
  · apply raiseEvent_within (hF.mono rfl)
    apply clearKeys_within (hF.mono rfl)
    apply clearRoot_within (hF.mono rfl)
    with_reducible assumption
  · apply seq_within (hF.mono rfl)
    with_reducible assumption

theorem keyError_within {F : Part → Bool} {s : State} (hF : Part.All F [.regs, .hdrs, .irq, .qeng, .ctx, .digest,
    .rng, .custody, .key]) {a1 : State} (a2) (k1 : s.Within F a1) :
    s.Within F (State.keyError a1 a2).2 := by
  unfold State.keyError
  refine within_ite_snd (fun _ => ?_) (fun _ => ?_)
  · refine within_pair_snd ?_
    with_reducible assumption
  · refine within_ite_snd (fun _ => ?_) (fun _ => ?_)
    · refine within_pair_snd ?_
      apply transient_within (hF.mono rfl)
      with_reducible assumption
    · refine within_pair_snd ?_
      apply raiseFault_within (hF.mono rfl)
      apply clearFgen_within (hF.mono rfl)
      apply clearKeys_within (hF.mono rfl)
      apply lasting_within (hF.mono rfl)
      with_reducible assumption

end Sys2Proof.Machine
end

