-- ==== Sys2Proof/Laws/FrameDigest.lean ====
section
/-! SUPPORT. The frames of the operations of Machine/Digest.lean: the parts that each may change. -/

namespace Sys2Proof.Machine

set_option Elab.async false

theorem setResult_within {F : Part → Bool} {s : State} (hF : Part.All F [.digest]) {a1 : State} (a2) (a3) (k1 :
    s.Within F a1) :
    s.Within F (State.setResult a1 a2 a3) := by
  unfold State.setResult
  refine within_digest (hF.one rfl) ?_
  with_reducible assumption

theorem dgCount_within {F : Part → Bool} {s : State} (hF : Part.All F [.regs, .hdrs, .irq, .digest]) {a1 : State} (a2)
    (a3) (a4) (k1 : s.Within F a1) :
    s.Within F (State.dgCount a1 a2 a3 a4) := by
  unfold State.dgCount
  apply fnCount_within (hF.mono rfl)
  apply coreCount_within (hF.mono rfl)
  with_reducible assumption

theorem saveImage_within {F : Part → Bool} {s : State} (hF : Part.All F [.regs, .hdrs, .irq, .fab, .digest]) {a1 :
    State} (a2) (k1 : s.Within F a1) :
    s.Within F (State.saveImage a1 a2) := by
  unfold State.saveImage
  extract_lets +onlyGivenNames y0
  extract_lets +onlyGivenNames y1
  extract_lets +onlyGivenNames y2
  have h3 : s.Within F y2 := by
    unfold y2
    refine within_digest (hF.one rfl) ?_
    with_reducible assumption
  extract_lets +onlyGivenNames y4
  split
  rename_i x5 x6 x7 e8
  apply startWrite_within (hF.mono rfl)
  with_reducible assumption

theorem setKdSlot_within {F : Part → Bool} {s : State} (hF : Part.All F [.digest]) {a1 : State} (a2) (a3) (k1 :
    s.Within F a1) :
    s.Within F (State.setKdSlot a1 a2 a3) := by
  unfold State.setKdSlot
  refine within_digest (hF.one rfl) ?_
  with_reducible assumption

theorem dgError_within {F : Part → Bool} {s : State} (hF : Part.All F [.regs]) {a1 : State} (a2) (a3) (k1 : s.Within F
    a1) :
    s.Within F (State.dgError a1 a2 a3) := by
  unfold State.dgError
  extract_lets +onlyGivenNames y0
  have h1 : s.Within F y0 := by
    unfold y0
    refine within_ite (fun _ => ?_) (fun _ => ?_)
    · with_reducible assumption
    · refine put_within (hF.mono rfl) (not_configured rfl) ?_
      refine put_within (hF.mono rfl) (not_configured rfl) ?_
      refine putFlag_within (hF.mono rfl) (not_configured rfl) ?_
      with_reducible assumption
  refine bump_within (hF.mono rfl) (not_configured rfl) ?_
  with_reducible assumption

theorem dropHeld_within {F : Part → Bool} {s : State} (hF : Part.All F [.digest]) {a1 : State} (a2) (k1 : s.Within F
    a1) :
    s.Within F (State.dropHeld a1 a2) := by
  unfold State.dropHeld
  refine within_digest (hF.one rfl) ?_
  with_reducible assumption

theorem dcoreCheckAsk_within {F : Part → Bool} {s : State} (hF : Part.All F [.regs, .hdrs, .irq, .digest, .key]) {a1 :
    State} (a2) (k1 : s.Within F a1) :
    s.Within F (State.dcoreCheckAsk a1 a2) := by
  unfold State.dcoreCheckAsk
  refine within_ite (fun _ => ?_) (fun _ => ?_)
  · extract_lets +onlyGivenNames y0
    have h1 : s.Within F y0 := by
      unfold y0
      refine putFlag_within (hF.mono rfl) (not_configured rfl) ?_
      refine putFlag_within (hF.mono rfl) (not_configured rfl) ?_
      with_reducible assumption
    extract_lets +onlyGivenNames y2
    have h3 : s.Within F y2 := by
      unfold y2
      apply handBack_within (hF.mono rfl)
      with_reducible assumption
    apply takeCores_within (hF.mono rfl)
    apply kdfSync_within (hF.mono rfl)
    apply setDcore_within (hF.mono rfl)
    with_reducible assumption
  · with_reducible assumption

theorem dgBegin_within {F : Part → Bool} {s : State} (hF : Part.All F [.regs, .hdrs, .irq, .fab, .digest]) {a1 :
    State} (a2) (a3) (k1 : s.Within F a1) :
    s.Within F (State.dgBegin a1 a2 a3) := by
  unfold State.dgBegin
  split
  rename_i x0 x1 u2 e3
  have h4 : s.Within F u2 := by
    refine within_snd e3 ?_
    apply readPart_within (hF.mono rfl)
    with_reducible assumption
  extract_lets +onlyGivenNames y5
  extract_lets +onlyGivenNames y6
  have h7 : s.Within F y6 := by
    unfold y6
    apply setDgChan_within (hF.mono rfl)
    with_reducible assumption
  refine within_ite (fun _ => ?_) (fun _ => ?_)
  · apply dgReady_within (hF.mono rfl)
    with_reducible assumption
  · with_reducible assumption

theorem markRetried_within {F : Part → Bool} {s : State} (hF : Part.All F [.digest, .bignum, .key]) {a1 : State} (a2)
    (k1 : s.Within F a1) :
    s.Within F (State.markRetried a1 a2) := by
  unfold State.markRetried
  extract_lets +onlyGivenNames y0
  extract_lets +onlyGivenNames y1
  extract_lets +onlyGivenNames y2
  have h3 : s.Within F y2 := by
    unfold y2
    apply setDgChan_within (hF.mono rfl)
    with_reducible assumption
  extract_lets +onlyGivenNames y4
  extract_lets +onlyGivenNames y5
  have h6 : s.Within F y5 := by
    unfold y5
    split
    · rename_i x7 x8 e9
      extract_lets +onlyGivenNames y10
      refine within_bignum (hF.one rfl) ?_
      with_reducible assumption
    · rename_i x11 e12
      with_reducible assumption
  split
  · rename_i x13 x14 e15
    refine within_key (hF.one rfl) ?_
    with_reducible assumption
  · rename_i x16 e17
    with_reducible assumption

theorem digestAbort_within {F : Part → Bool} {s : State} (hF : Part.All F [.hdrs, .irq, .crown, .digest, .key]) {a1 :
    State} (a2) (a3) (k1 : s.Within F a1) :
    s.Within F (State.digestAbort a1 a2 a3) := by
  unfold State.digestAbort
  extract_lets +onlyGivenNames y0
  extract_lets +onlyGivenNames y1
  extract_lets +onlyGivenNames y2
  extract_lets +onlyGivenNames y3
  extract_lets +onlyGivenNames y4
  have h5 : s.Within F y4 := by
    unfold y4
    refine within_mk ?_ (.inr rfl) (.inr rfl) (.inr rfl) (.inr rfl) (.inr rfl) (.inr rfl) (.inr rfl) (.inr rfl) (.inr rfl) (.inr rfl) (.inl (hF.one rfl)) (.inr rfl) (.inr rfl) (.inl (hF.one rfl)) (.inr ⟨rfl, rfl, rfl⟩) (.inr rfl) (.inr rfl) (.inr rfl) (.inr rfl) (.inr rfl) (.inr rfl) (.inr rfl) (.inr rfl)
    with_reducible assumption
  extract_lets +onlyGivenNames y6
  extract_lets +onlyGivenNames y7
  have h8 : s.Within F y7 := by
    unfold y7
    refine within_digest (hF.one rfl) ?_
    with_reducible assumption
  apply within_foldl
  · intro u9 x10 h11
    apply endJob_within (hF.mono rfl)
    with_reducible assumption
  · with_reducible assumption

theorem digestWipe_within {F : Part → Bool} {s : State} (hF : Part.All F [.digest]) {a1 : State} (k1 : s.Within F a1)
    :
    s.Within F (State.digestWipe a1) := by
  unfold State.digestWipe
  refine within_digest (hF.one rfl) ?_
  with_reducible assumption

theorem budgetExpiry_within {F : Part → Bool} {s : State} (hF : Part.All F [.regs, .hdrs, .irq, .digest]) {a1 : State}
    (a2) (k1 : s.Within F a1) :
    s.Within F (State.budgetExpiry a1 a2) := by
  unfold State.budgetExpiry
  refine within_ite (fun _ => ?_) (fun _ => ?_)
  · refine within_ite (fun _ => ?_) (fun _ => ?_)
    · apply resumeOn_within (hF.mono rfl)
      apply handBack_within (hF.mono rfl)
      with_reducible assumption
    · split
      · rename_i x0 x1 e2
        apply perfCount_within (hF.mono rfl)
        apply takeCore_within (hF.mono rfl)
        apply handBack_within (hF.mono rfl)
        with_reducible assumption
      · rename_i x3 e4
        with_reducible assumption
  · with_reducible assumption

theorem coreStops_within {F : Part → Bool} {s : State} (hF : Part.All F [.digest]) {a1 : State} (a2) (k1 : s.Within F
    a1) :
    s.Within F (State.coreStops a1 a2) := by
  unfold State.coreStops
  apply setDcore_within (hF.mono rfl)
  apply handBack_within (hF.mono rfl)
  with_reducible assumption

theorem dgRefuse_within {F : Part → Bool} {s : State} (hF : Part.All F [.hdrs, .irq, .crown]) {a1 : State} (a2) (a3)
    (a4) (k1 : s.Within F a1) :
    s.Within F (State.dgRefuse a1 a2 a3 a4) := by
  unfold State.dgRefuse
  apply push_within (hF.mono rfl)
  with_reducible assumption

theorem dcoreCheckEnd_within {F : Part → Bool} {s : State} (hF : Part.All F [.regs, .hdrs, .irq, .digest, .key]) {a1 :
    State} (a2) (a3) (k1 : s.Within F a1) :
    s.Within F (State.dcoreCheckEnd a1 a2 a3).2 := by
  unfold State.dcoreCheckEnd
  extract_lets +onlyGivenNames y0
  refine within_ite_snd (fun _ => ?_) (fun _ => ?_)
  · refine within_pair_snd ?_
    with_reducible assumption
  · extract_lets +onlyGivenNames y1
    have h2 : s.Within F y1 := by
      unfold y1
      refine putFlag_within (hF.mono rfl) (not_configured rfl) ?_
      refine putFlag_within (hF.mono rfl) (not_configured rfl) ?_
      with_reducible assumption
    extract_lets +onlyGivenNames y3
    have h4 : s.Within F y3 := by
      unfold y3
      apply raiseEvent_within (hF.mono rfl)
      refine putFlag_within (hF.mono rfl) (not_configured rfl) ?_
      with_reducible assumption
    extract_lets +onlyGivenNames y5
    have h6 : s.Within F y5 := by
      unfold y5
      apply setDcore_within (hF.mono rfl)
      with_reducible assumption
    refine within_ite_snd (fun _ => ?_) (fun _ => ?_)
    · extract_lets +onlyGivenNames y7
      have h8 : s.Within F y7 := by
        unfold y7
        refine within_ite (fun _ => ?_) (fun _ => ?_)
        · apply transient_within (hF.mono rfl)
          with_reducible assumption
        · with_reducible assumption
      split
      · rename_i x9 x10 e11
        refine within_pair_snd ?_
        apply raiseEvent_within (hF.mono rfl)
        apply takeCore_within (hF.mono rfl)
        with_reducible assumption
      · rename_i x12 e13
        refine within_pair_snd ?_
        apply coresGo_within (hF.mono rfl)
        apply kdfSync_within (hF.mono rfl)
        with_reducible assumption
    · extract_lets +onlyGivenNames y14
      have h15 : s.Within F y14 := by
        unfold y14
        refine within_ite (fun _ => ?_) (fun _ => ?_)
        · with_reducible assumption
        · refine put_within (hF.mono rfl) (not_configured rfl) ?_
          refine putFlag_within (hF.mono rfl) (not_configured rfl) ?_
          with_reducible assumption
      extract_lets +onlyGivenNames y16
      have h17 : s.Within F y16 := by
        unfold y16
        apply lasting_within (hF.mono rfl)
        apply raiseFault_within (hF.mono rfl)
        refine bump_within (hF.mono rfl) (not_configured rfl) ?_
        with_reducible assumption
      split
      · rename_i x18 x19 e20
        refine within_pair_snd ?_
        apply dgError_within (hF.mono rfl)
        with_reducible assumption
      · rename_i x21 e22
        refine within_pair_snd ?_
        with_reducible assumption

theorem slotEcc_within {F : Part → Bool} {s : State} (hF : Part.All F [.regs, .hdrs, .irq, .digest]) {a1 : State} (a2)
    (a3) (k1 : s.Within F a1) :
    s.Within F (State.slotEcc a1 a2 a3) := by
  unfold State.slotEcc
  refine within_ite (fun _ => ?_) (fun _ => ?_)
  · apply dgError_within (hF.mono rfl)
    with_reducible assumption
  · refine within_ite (fun _ => ?_) (fun _ => ?_)
    · apply setKdSlot_within (hF.mono rfl)
      apply raiseFault_within (hF.mono rfl)
      apply dgError_within (hF.mono rfl)
      with_reducible assumption
    · with_reducible assumption

theorem dgEnd_within {F : Part → Bool} {s : State} (hF : Part.All F [.regs, .hdrs, .irq, .crown, .digest]) {a1 :
    State} (a2) (k1 : s.Within F a1) :
    s.Within F (State.dgEnd a1 a2) := by
  unfold State.dgEnd
  extract_lets +onlyGivenNames y0
  extract_lets +onlyGivenNames y1
  have h2 : s.Within F y1 := by
    unfold y1
    apply setDgChan_within (hF.mono rfl)
    apply leaveCore_within (hF.mono rfl)
    with_reducible assumption
  extract_lets +onlyGivenNames y3
  extract_lets +onlyGivenNames y4
  have h5 : s.Within F y4 := by
    unfold y4
    refine within_digest (hF.one rfl) ?_
    with_reducible assumption
  apply within_foldl
  · intro u6 x7 h8
    apply dgRefuse_within (hF.mono rfl)
    with_reducible assumption
  · with_reducible assumption

theorem dgOutput_within {F : Part → Bool} {s : State} (hF : Part.All F [.regs, .hdrs, .irq, .crown, .fab, .digest,
    .finishes]) {a1 : State} (a2) (a3) (a4) (a5) (k1 : s.Within F a1) :
    s.Within F (State.dgOutput a1 a2 a3 a4 a5) := by
  unfold State.dgOutput
  extract_lets +onlyGivenNames y0
  extract_lets +onlyGivenNames y1
  refine within_ite (fun _ => ?_) (fun _ => ?_)
  · extract_lets +onlyGivenNames y2
    have h3 : s.Within F y2 := by
      unfold y2
      apply setResult_within (hF.mono rfl)
      with_reducible assumption
    apply endJob_within (hF.mono rfl)
    with_reducible assumption
  · apply writeResult_within (hF.mono rfl)
    with_reducible assumption

theorem slotStart_within {F : Part → Bool} {s : State} (hF : Part.All F [.regs, .hdrs, .irq, .crown, .fab, .digest,
    .key]) {a1 : State} (a2) (a3) (k1 : s.Within F a1) :
    s.Within F (State.slotStart a1 a2 a3) := by
  unfold State.slotStart
  extract_lets +onlyGivenNames y0
  extract_lets +onlyGivenNames y1
  extract_lets +onlyGivenNames y2
  refine within_ite (fun _ => ?_) (fun _ => ?_)
  · extract_lets +onlyGivenNames y3
    have h4 : s.Within F y3 := by
      unfold y3
      apply setKdSlot_within (hF.mono rfl)
      with_reducible assumption
    split
    rename_i x5 x6 u7 e8
    have h9 : s.Within F u7 := by
      refine within_snd e8 ?_
      apply readPart_within (hF.mono rfl)
      with_reducible assumption
    extract_lets +onlyGivenNames y10
    extract_lets +onlyGivenNames y11
    have h12 : s.Within F y11 := by
      unfold y11
      apply setDgChan_within (hF.mono rfl)
      with_reducible assumption
    apply kdfSync_within (hF.mono rfl)
    refine within_key (hF.one rfl) ?_
    with_reducible assumption
  · refine within_ite (fun _ => ?_) (fun _ => ?_)
    · apply setDgChan_within (hF.mono rfl)
      with_reducible assumption
    · refine within_ite (fun _ => ?_) (fun _ => ?_)
      · apply setDgChan_within (hF.mono rfl)
        apply endJob_within (hF.mono rfl)
        with_reducible assumption
      · extract_lets +onlyGivenNames y13
        extract_lets +onlyGivenNames y14
        have h15 : s.Within F y14 := by
          unfold y14
          apply setDgChan_within (hF.mono rfl)
          with_reducible assumption
        apply dgBegin_within (hF.mono rfl)
        with_reducible assumption

theorem clearResult_within {F : Part → Bool} {s : State} (hF : Part.All F [.digest]) {a1 : State} (a2) (k1 : s.Within
    F a1) :
    s.Within F (State.clearResult a1 a2) := by
  unfold State.clearResult
  refine within_ite (fun _ => ?_) (fun _ => ?_)
  · apply setResult_within (hF.mono rfl)
    with_reducible assumption
  · with_reducible assumption

theorem restoreImage_within {F : Part → Bool} {s : State} (hF : Part.All F [.regs, .hdrs, .irq, .digest]) {a1 : State}
    (a2) (a3) (k1 : s.Within F a1) :
    s.Within F (State.restoreImage a1 a2 a3) := by
  unfold State.restoreImage
  extract_lets +onlyGivenNames y0
  extract_lets +onlyGivenNames y1
  extract_lets +onlyGivenNames y2
  extract_lets +onlyGivenNames y3
  extract_lets +onlyGivenNames y4
  extract_lets +onlyGivenNames y5
  have h6 : s.Within F y5 := by
    unfold y5
    refine within_digest (hF.one rfl) ?_
    with_reducible assumption
  clear_value y0
  clear_value y1
  clear_value y2
  clear_value y3
  split
  · rename_i x7 x8
    apply within_foldl
    · intro u9 x10 h11
      apply setKdSlot_within (hF.mono rfl)
      with_reducible assumption
    · with_reducible assumption
  · rename_i x12
    apply raiseFault_within (hF.mono rfl)
    refine putFlag_within (hF.mono rfl) (not_configured rfl) ?_
    with_reducible assumption

theorem dcoreErr_within {F : Part → Bool} {s : State} (hF : Part.All F [.regs, .hdrs, .irq, .digest, .bignum, .key])
    {a1 : State} (a2) (a3) (k1 : s.Within F a1) :
    s.Within F (State.dcoreErr a1 a2 a3).2 := by
  unfold State.dcoreErr
  split
  · rename_i x0 e1
    refine within_pair_snd ?_
    with_reducible assumption
  · rename_i x2 x3 e4
    refine within_ite_snd (fun _ => ?_) (fun _ => ?_)
    · refine within_pair_snd ?_
      with_reducible assumption
    · extract_lets +onlyGivenNames y5
      have h6 : s.Within F y5 := by
        unfold y5
        refine within_ite (fun _ => ?_) (fun _ => ?_)
        · with_reducible assumption
        · refine put_within (hF.mono rfl) (not_configured rfl) ?_
          refine put_within (hF.mono rfl) (not_configured rfl) ?_
          refine putFlag_within (hF.mono rfl) (not_configured rfl) ?_
          with_reducible assumption
      extract_lets +onlyGivenNames y7
      have h8 : s.Within F y7 := by
        unfold y7
        apply raiseFault_within (hF.mono rfl)
        refine bump_within (hF.mono rfl) (not_configured rfl) ?_
        with_reducible assumption
      extract_lets +onlyGivenNames y9
      extract_lets +onlyGivenNames y10
      extract_lets +onlyGivenNames y11
      have h12 : s.Within F y11 := by
        unfold y11
        apply setDcore_within (hF.mono rfl)
        with_reducible assumption
      extract_lets +onlyGivenNames y13
      have h14 : s.Within F y13 := by
        unfold y13
        apply setDgChan_within (hF.mono rfl)
        with_reducible assumption
      refine within_ite_snd (fun _ => ?_) (fun _ => ?_)
      · refine within_pair_snd ?_
        apply dgError_within (hF.mono rfl)
        with_reducible assumption
      · extract_lets +onlyGivenNames y15
        have h16 : s.Within F y15 := by
          unfold y15
          apply markRetried_within (hF.mono rfl)
          with_reducible assumption
        extract_lets +onlyGivenNames y17
        split
        · rename_i x18 e19
          refine within_pair_snd ?_
          apply setDcore_within (hF.mono rfl)
          with_reducible assumption
        · rename_i x20 x21 e22
          refine within_pair_snd ?_
          apply raiseEvent_within (hF.mono rfl)
          apply takePriv_within (hF.mono rfl)
          with_reducible assumption

theorem coreLeaves_within {F : Part → Bool} {s : State} (hF : Part.All F [.regs, .hdrs, .irq, .digest, .key]) {a1 :
    State} (a2) (k1 : s.Within F a1) :
    s.Within F (State.coreLeaves a1 a2) := by
  unfold State.coreLeaves
  apply takeCores_within (hF.mono rfl)
  apply kdfSync_within (hF.mono rfl)
  apply coreStops_within (hF.mono rfl)
  with_reducible assumption

theorem injectError_within {F : Part → Bool} {s : State} (hF : Part.All F [.regs, .hdrs, .irq, .digest, .bignum,
    .key]) {a1 : State} (a2) (k1 : s.Within F a1) :
    s.Within F (State.injectError a1 a2).2 := by
  unfold State.injectError
  apply dcoreErr_within (hF.mono rfl)
  refine putFlag_within (hF.mono rfl) (not_configured rfl) ?_
  with_reducible assumption

theorem slotNext_within {F : Part → Bool} {s : State} (hF : Part.All F [.regs, .hdrs, .irq, .crown, .fab, .digest,
    .key]) {a1 : State} (a2) (a3) (k1 : s.Within F a1) :
    s.Within F (State.slotNext a1 a2 a3) := by
  induction' a3 with x ih generalizing a1 a2
  · rw [State.slotNext]
    with_reducible assumption
  · rw [State.slotNext]
    refine within_ite (fun _ => ?_) (fun _ => ?_)
    · with_reducible assumption
    · split
      · rename_i x0 e1
        with_reducible assumption
      · rename_i x2 x3 e4
        refine within_ite (fun _ => ?_) (fun _ => ?_)
        · with_reducible assumption
        · extract_lets +onlyGivenNames y5
          extract_lets +onlyGivenNames y6
          have h7 : s.Within F y6 := by
            unfold y6
            refine within_digest (hF.one rfl) ?_
            with_reducible assumption
          split
          · rename_i x8 e9
            apply ih
            with_reducible assumption
          · rename_i x10 x11 e12
            apply ih
            apply slotStart_within (hF.mono rfl)
            with_reducible assumption

theorem digestDispatch_within {F : Part → Bool} {s : State} (hF : Part.All F [.regs, .hdrs, .irq, .crown, .fab,
    .digest, .key]) {a1 : State} (a2) (k1 : s.Within F a1) :
    s.Within F (State.digestDispatch a1 a2).2 := by
  unfold State.digestDispatch
  extract_lets +onlyGivenNames y0
  extract_lets +onlyGivenNames y1
  have h2 : ∀ z0, s.Within F z0 → s.Within F (y1 z0) := by
    unfold y1
    intro u3 h4
    apply fnCount_within (hF.mono rfl)
    with_reducible assumption
  refine within_ite_snd (fun _ => ?_) (fun _ => ?_)
  · extract_lets +onlyGivenNames y5
    extract_lets +onlyGivenNames y6
    extract_lets +onlyGivenNames y7
    extract_lets +onlyGivenNames y8
    have h9 : s.Within F y8 := by
      unfold y8
      apply h2
      with_reducible assumption
    refine within_ite_snd (fun _ => ?_) (fun _ => ?_)
    · refine within_pair_snd ?_
      apply dgRefuse_within (hF.mono rfl)
      with_reducible assumption
    · extract_lets +onlyGivenNames y10
      refine within_ite_snd (fun _ => ?_) (fun _ => ?_)
      · refine within_pair_snd ?_
        apply dgRefuse_within (hF.mono rfl)
        with_reducible assumption
      · refine within_ite_snd (fun _ => ?_) (fun _ => ?_)
        · refine within_pair_snd ?_
          apply dgRefuse_within (hF.mono rfl)
          with_reducible assumption
        · extract_lets +onlyGivenNames y11
          split
          · rename_i x12 x13 e14
            refine within_pair_snd ?_
            apply dgRefuse_within (hF.mono rfl)
            with_reducible assumption
          · rename_i x15 e16
            extract_lets +onlyGivenNames y17
            have h18 : s.Within F y17 := by
              unfold y17
              apply clearResult_within (hF.mono rfl)
              with_reducible assumption
            split
            rename_i x19 x20 u21 e22
            have h23 : s.Within F u21 := by
              refine within_snd e22 ?_
              apply newJob_within (hF.mono rfl)
              with_reducible assumption
            refine within_ite_snd (fun _ => ?_) (fun _ => ?_)
            · refine within_pair_snd ?_
              apply dgBegin_within (hF.mono rfl)
              apply setDgChan_within (hF.mono rfl)
              with_reducible assumption
            · split
              rename_i x24 x25 u26 e27
              have h28 : s.Within F u26 := by
                refine within_snd e27 ?_
                apply readPart_within (hF.mono rfl)
                with_reducible assumption
              refine within_pair_snd ?_
              apply setDgChan_within (hF.mono rfl)
              with_reducible assumption
  · split
    · rename_i x29 e30
      refine within_pair_snd ?_
      with_reducible assumption
    · rename_i x31 x32 e33
      extract_lets +onlyGivenNames y34
      have h35 : s.Within F y34 := by
        unfold y34
        apply h2
        with_reducible assumption
      extract_lets +onlyGivenNames y36
      refine within_ite_snd (fun _ => ?_) (fun _ => ?_)
      · refine within_pair_snd ?_
        apply dgRefuse_within (hF.mono rfl)
        with_reducible assumption
      · refine within_ite_snd (fun _ => ?_) (fun _ => ?_)
        · refine within_pair_snd ?_
          apply dgRefuse_within (hF.mono rfl)
          with_reducible assumption
        · refine within_ite_snd (fun _ => ?_) (fun _ => ?_)
          · split
            · rename_i x37 x38 e39
              refine within_pair_snd ?_
              apply dgRefuse_within (hF.mono rfl)
              with_reducible assumption
            · rename_i x40 e41
              extract_lets +onlyGivenNames y42
              have h43 : s.Within F y42 := by
                unfold y42
                apply clearResult_within (hF.mono rfl)
                with_reducible assumption
              split
              rename_i x44 x45 u46 e47
              have h48 : s.Within F u46 := by
                refine within_snd e47 ?_
                apply newJob_within (hF.mono rfl)
                with_reducible assumption
              refine within_pair_snd ?_
              apply dgBegin_within (hF.mono rfl)
              apply setDgChan_within (hF.mono rfl)
              with_reducible assumption
          · split
            · rename_i x49 x50 e51
              refine within_pair_snd ?_
              apply dgRefuse_within (hF.mono rfl)
              with_reducible assumption
            · rename_i x52 e53
              extract_lets +onlyGivenNames y54
              extract_lets +onlyGivenNames y55
              have h56 : s.Within F y55 := by
                unfold y55
                apply clearResult_within (hF.mono rfl)
                with_reducible assumption
              split
              rename_i x57 x58 u59 e60
              have h61 : s.Within F u59 := by
                refine within_snd e60 ?_
                apply newJob_within (hF.mono rfl)
                with_reducible assumption
              extract_lets +onlyGivenNames y62
              have h63 : s.Within F y62 := by
                unfold y62
                apply setDgChan_within (hF.mono rfl)
                with_reducible assumption
              refine within_ite_snd (fun _ => ?_) (fun _ => ?_)
              · refine within_pair_snd ?_
                refine within_digest (hF.one rfl) ?_
                with_reducible assumption
              · refine within_pair_snd ?_
                apply slotStart_within (hF.mono rfl)
                with_reducible assumption

theorem holdTimeout_within {F : Part → Bool} {s : State} (hF : Part.All F [.regs, .hdrs, .irq, .crown, .digest]) {a1 :
    State} (a2) (k1 : s.Within F a1) :
    s.Within F (State.holdTimeout a1 a2) := by
  unfold State.holdTimeout
  refine within_ite (fun _ => ?_) (fun _ => ?_)
  · apply raiseEvent_within (hF.mono rfl)
    refine bump_within (hF.mono rfl) (not_configured rfl) ?_
    apply dgEnd_within (hF.mono rfl)
    with_reducible assumption
  · with_reducible assumption

theorem dgFail_within {F : Part → Bool} {s : State} (hF : Part.All F [.regs, .hdrs, .irq, .crown, .digest]) {a1 :
    State} (a2) (a3) (a4) (a5) (k1 : s.Within F a1) :
    s.Within F (State.dgFail a1 a2 a3 a4 a5) := by
  unfold State.dgFail
  split
  · rename_i x0 e1
    with_reducible assumption
  · rename_i x2 x3 e4
    apply dgEnd_within (hF.mono rfl)
    apply endJob_within (hF.mono rfl)
    with_reducible assumption

theorem slotsGo_within {F : Part → Bool} {s : State} (hF : Part.All F [.regs, .hdrs, .irq, .crown, .fab, .digest,
    .key]) {a1 : State} (k1 : s.Within F a1) :
    s.Within F (State.slotsGo a1) := by
  unfold State.slotsGo
  extract_lets +onlyGivenNames y0
  apply within_foldl
  · intro u1 x2 h3
    apply slotNext_within (hF.mono rfl)
    with_reducible assumption
  · with_reducible assumption

theorem dgHold_within {F : Part → Bool} {s : State} (hF : Part.All F [.regs, .hdrs, .irq, .crown, .digest]) {a1 :
    State} (a2) (k1 : s.Within F a1) :
    s.Within F (State.dgHold a1 a2) := by
  unfold State.dgHold
  extract_lets +onlyGivenNames y0
  split
  · rename_i x1 e2
    apply setDgChan_within (hF.mono rfl)
    with_reducible assumption
  · rename_i x3 x4 x5 e6
    extract_lets +onlyGivenNames y7
    have h8 : s.Within F y7 := by
      unfold y7
      apply setDgChan_within (hF.mono rfl)
      with_reducible assumption
    refine within_ite (fun _ => ?_) (fun _ => ?_)
    · with_reducible assumption
    · refine within_ite (fun _ => ?_) (fun _ => ?_)
      · apply dgFail_within (hF.mono rfl)
        with_reducible assumption
      · apply dgReady_within (hF.mono rfl)
        with_reducible assumption

theorem loadEnds_within {F : Part → Bool} {s : State} (hF : Part.All F [.regs, .hdrs, .irq, .crown, .fab, .digest,
    .key]) {a1 : State} (a2) (a3) (a4) (a5) (a6) (k1 : s.Within F a1) :
    s.Within F (State.loadEnds a1 a2 a3 a4 a5 a6) := by
  unfold State.loadEnds
  extract_lets +onlyGivenNames y0
  extract_lets +onlyGivenNames y1
  have h2 : s.Within F y1 := by
    unfold y1
    apply setKdSlot_within (hF.mono rfl)
    apply keyDrop_within (hF.mono rfl)
    with_reducible assumption
  extract_lets +onlyGivenNames y3
  extract_lets +onlyGivenNames y4
  have h5 : s.Within F y4 := by
    unfold y4
    apply fnCount_within (hF.mono rfl)
    apply dgEnd_within (hF.mono rfl)
    apply endJob_within (hF.mono rfl)
    with_reducible assumption
  apply takeCores_within (hF.mono rfl)
  apply slotNext_within (hF.mono rfl)
  with_reducible assumption

theorem kdfLost_within {F : Part → Bool} {s : State} (hF : Part.All F [.regs, .hdrs, .irq, .qeng, .crown, .fab, .ctx,
    .digest, .key]) {a1 : State} (k1 : s.Within F a1) :
    s.Within F (State.kdfLost a1) := by
  unfold State.kdfLost
  split
  · rename_i x0 e1
    with_reducible assumption
  · rename_i x2 x3 e4
    refine within_ite (fun _ => ?_) (fun _ => ?_)
    · with_reducible assumption
    · refine within_ite (fun _ => ?_) (fun _ => ?_)
      · apply installFail_within (hF.mono rfl)
        with_reducible assumption
      · refine within_ite (fun _ => ?_) (fun _ => ?_)
        · apply keyEnd_within (hF.mono rfl)
          with_reducible assumption
        · refine within_ite (fun _ => ?_) (fun _ => ?_)
          · apply keyEnd_within (hF.mono rfl)
            with_reducible assumption
          · split
            · rename_i x5 x6 e7
              apply loadEnds_within (hF.mono rfl)
              with_reducible assumption
            · rename_i x8 e9
              with_reducible assumption

theorem hmacClear_within {F : Part → Bool} {s : State} (hF : Part.All F [.regs, .hdrs, .irq, .crown, .fab, .digest,
    .key]) {a1 : State} (a2) (k1 : s.Within F a1) :
    s.Within F (State.hmacClear a1 a2) := by
  unfold State.hmacClear
  split
  · rename_i x0 x1 e2
    extract_lets +onlyGivenNames y3
    refine within_ite (fun _ => ?_) (fun _ => ?_)
    · with_reducible assumption
    · apply loadEnds_within (hF.mono rfl)
      with_reducible assumption
  · rename_i x4 e5
    with_reducible assumption

theorem digestBytes_within {F : Part → Bool} {s : State} (hF : Part.All F [.regs, .hdrs, .irq, .crown, .fab, .digest,
    .key]) {a1 : State} (a2) (a3) (k1 : s.Within F a1) :
    s.Within F (State.digestBytes a1 a2 a3) := by
  unfold State.digestBytes
  extract_lets +onlyGivenNames y0
  refine within_ite (fun _ => ?_) (fun _ => ?_)
  · extract_lets +onlyGivenNames y1
    have h2 : s.Within F y1 := by
      unfold y1
      apply setDgChan_within (hF.mono rfl)
      with_reducible assumption
    refine within_ite (fun _ => ?_) (fun _ => ?_)
    · refine within_ite (fun _ => ?_) (fun _ => ?_)
      · apply loadEnds_within (hF.mono rfl)
        with_reducible assumption
      · apply kdfSync_within (hF.mono rfl)
        refine within_key (hF.one rfl) ?_
        with_reducible assumption
    · refine within_ite (fun _ => ?_) (fun _ => ?_)
      · apply dgFail_within (hF.mono rfl)
        with_reducible assumption
      · apply dgReady_within (hF.mono rfl)
        with_reducible assumption
  · apply setDgChan_within (hF.mono rfl)
    with_reducible assumption

theorem digestRun_within {F : Part → Bool} {s : State} (hF : Part.All F [.regs, .hdrs, .irq, .crown, .fab, .digest,
    .bignum, .key, .finishes]) {a1 : State} (a2) (a3) (k1 : s.Within F a1) :
    s.Within F (State.digestRun a1 a2 a3).2 := by
  unfold State.digestRun
  extract_lets +onlyGivenNames y0
  split
  · rename_i x1 x2 x3 x4 e5 e6
    extract_lets +onlyGivenNames y7
    refine within_ite_snd (fun _ => ?_) (fun _ => ?_)
    · refine within_pair_snd ?_
      with_reducible assumption
    · extract_lets +onlyGivenNames y8
      extract_lets +onlyGivenNames y9
      extract_lets +onlyGivenNames y10
      extract_lets +onlyGivenNames y11
      refine within_ite_snd (fun _ => ?_) (fun _ => ?_)
      · apply injectError_within (hF.mono rfl)
        with_reducible assumption
      · extract_lets +onlyGivenNames y12
        have h13 : s.Within F y12 := by
          unfold y12
          apply dgCount_within (hF.mono rfl)
          with_reducible assumption
        refine within_ite_snd (fun _ => ?_) (fun _ => ?_)
        · extract_lets +onlyGivenNames y14
          have h15 : s.Within F y14 := by
            unfold y14
            apply endJob_within (hF.mono rfl)
            with_reducible assumption
          extract_lets +onlyGivenNames y16
          extract_lets +onlyGivenNames y17
          have h18 : s.Within F y17 := by
            unfold y17
            apply setDgChan_within (hF.mono rfl)
            apply leaveCore_within (hF.mono rfl)
            with_reducible assumption
          refine within_pair_snd ?_
          apply takeCores_within (hF.mono rfl)
          apply dgHold_within (hF.mono rfl)
          with_reducible assumption
        · extract_lets +onlyGivenNames y19
          extract_lets +onlyGivenNames y20
          extract_lets +onlyGivenNames y21
          have h22 : s.Within F y21 := by
            unfold y21
            apply dgOutput_within (hF.mono rfl)
            with_reducible assumption
          refine within_pair_snd ?_
          apply takeCores_within (hF.mono rfl)
          apply dgEnd_within (hF.mono rfl)
          with_reducible assumption
  · rename_i x23 x24 e25
    refine within_pair_snd ?_
    with_reducible assumption

theorem loadSlot_within {F : Part → Bool} {s : State} (hF : Part.All F [.regs, .hdrs, .irq, .crown, .fab, .digest,
    .key]) {a1 : State} (a2) (a3) (a4) (k1 : s.Within F a1) :
    s.Within F (State.loadSlot a1 a2 a3 a4) := by
  unfold State.loadSlot
  extract_lets +onlyGivenNames y0
  split
  · rename_i x1 e2
    apply loadEnds_within (hF.mono rfl)
    with_reducible assumption
  · rename_i x3 x4 x5 e6
    apply loadEnds_within (hF.mono rfl)
    with_reducible assumption

theorem loadWrite_within {F : Part → Bool} {s : State} (hF : Part.All F [.regs, .hdrs, .irq, .crown, .fab, .digest,
    .bignum, .key]) {a1 : State} (a2) (a3) (k1 : s.Within F a1) :
    s.Within F (State.loadWrite a1 a2 a3).2 := by
  unfold State.loadWrite
  extract_lets +onlyGivenNames y0
  extract_lets +onlyGivenNames y1
  refine within_ite_snd (fun _ => ?_) (fun _ => ?_)
  · refine within_pair_snd ?_
    with_reducible assumption
  · split
    · rename_i x2 x3 e4
      refine within_ite_snd (fun _ => ?_) (fun _ => ?_)
      · apply injectError_within (hF.mono rfl)
        with_reducible assumption
      · refine within_pair_snd ?_
        apply loadSlot_within (hF.mono rfl)
        apply dgCount_within (hF.mono rfl)
        with_reducible assumption
    · rename_i x5 e6
      refine within_ite_snd (fun _ => ?_) (fun _ => ?_)
      · refine within_pair_snd ?_
        with_reducible assumption
      · refine within_pair_snd ?_
        apply loadSlot_within (hF.mono rfl)
        with_reducible assumption

theorem dgStateEcc_within {F : Part → Bool} {s : State} (hF : Part.All F [.regs, .hdrs, .irq, .qeng, .crown, .fab,
    .ctx, .digest, .key]) {a1 : State} (a2) (a3) (k1 : s.Within F a1) :
    s.Within F (State.dgStateEcc a1 a2 a3) := by
  unfold State.dgStateEcc
  extract_lets +onlyGivenNames y0
  refine within_ite (fun _ => ?_) (fun _ => ?_)
  · apply dgError_within (hF.mono rfl)
    with_reducible assumption
  · refine within_ite (fun _ => ?_) (fun _ => ?_)
    · with_reducible assumption
    · extract_lets +onlyGivenNames y1
      have h2 : s.Within F y1 := by
        unfold y1
        apply raiseFault_within (hF.mono rfl)
        apply dgError_within (hF.mono rfl)
        with_reducible assumption
      extract_lets +onlyGivenNames y3
      have h4 : s.Within F y3 := by
        unfold y3
        split
        · rename_i x5 x6 e7
          refine within_ite (fun _ => ?_) (fun _ => ?_)
          · apply loadEnds_within (hF.mono rfl)
            with_reducible assumption
          · apply dgFail_within (hF.mono rfl)
            with_reducible assumption
        · rename_i x8 e9
          apply dgEnd_within (hF.mono rfl)
          with_reducible assumption
      extract_lets +onlyGivenNames y10
      have h11 : s.Within F y10 := by
        unfold y10
        apply logFence_within (hF.mono rfl)
        apply setDgChan_within (hF.mono rfl)
        with_reducible assumption
      apply takeCores_within (hF.mono rfl)
      apply slotsGo_within (hF.mono rfl)
      refine within_ite (fun _ => ?_) (fun _ => ?_)
      · apply kdfLost_within (hF.mono rfl)
        with_reducible assumption
      · with_reducible assumption

theorem hmacLoad_within {F : Part → Bool} {s : State} (hF : Part.All F [.regs, .hdrs, .irq, .crown, .fab, .digest,
    .bignum, .key]) {a1 : State} (a2) (k1 : s.Within F a1) :
    s.Within F (State.hmacLoad a1 a2).2 := by
  unfold State.hmacLoad
  extract_lets +onlyGivenNames y0
  have h1 : s.Within F y0 := by
    unfold y0
    apply kdfSync_within (hF.mono rfl)
    with_reducible assumption
  split
  · rename_i x2 e3
    refine within_pair_snd ?_
    with_reducible assumption
  · rename_i x4 x5 e6
    extract_lets +onlyGivenNames y7
    refine within_ite_snd (fun _ => ?_) (fun _ => ?_)
    · refine within_pair_snd ?_
      with_reducible assumption
    · refine within_ite_snd (fun _ => ?_) (fun _ => ?_)
      · apply loadWrite_within (hF.mono rfl)
        with_reducible assumption
      · split
        · rename_i x8 x9 x10 x11 e12 e13
          refine within_ite_snd (fun _ => ?_) (fun _ => ?_)
          · refine within_pair_snd ?_
            with_reducible assumption
          · split
            · rename_i x14 x15 e16
              apply injectError_within (hF.mono rfl)
              with_reducible assumption
            · rename_i x17 e18
              extract_lets +onlyGivenNames y19
              extract_lets +onlyGivenNames y20
              have h21 : s.Within F y20 := by
                unfold y20
                apply kdfCount_within (hF.mono rfl)
                apply keyOp_within (hF.mono rfl)
                with_reducible assumption
              split
              · rename_i x22 x23 e24
                refine within_pair_snd ?_
                apply loadEnds_within (hF.mono rfl)
                with_reducible assumption
              · rename_i x25 x26 e27
                extract_lets +onlyGivenNames y28
                extract_lets +onlyGivenNames y29
                extract_lets +onlyGivenNames y30
                have h31 : s.Within F y30 := by
                  unfold y30
                  apply setDgChan_within (hF.mono rfl)
                  apply keyDrop_within (hF.mono rfl)
                  with_reducible assumption
                extract_lets +onlyGivenNames y32
                have h33 : s.Within F y32 := by
                  unfold y32
                  apply dgReady_within (hF.mono rfl)
                  with_reducible assumption
                apply loadWrite_within (hF.mono rfl)
                with_reducible assumption
        · rename_i x34 x35 e36
          refine within_pair_snd ?_
          with_reducible assumption

end Sys2Proof.Machine
end

