-- ==== Sys2Proof/Laws/FrameBignum.lean ====
section
/-! SUPPORT. The frames of the operations of Machine/Bignum.lean: the parts that each may change. -/

namespace Sys2Proof.Machine

set_option Elab.async false

theorem setBnChan_within {F : Part → Bool} {s : State} (hF : Part.All F [.bignum]) {a1 : State} (a2) (a3) (k1 :
    s.Within F a1) :
    s.Within F (State.setBnChan a1 a2 a3) := by
  unfold State.setBnChan
  refine within_bignum (hF.one rfl) ?_
  with_reducible assumption

theorem bnError_within {F : Part → Bool} {s : State} (hF : Part.All F [.regs]) {a1 : State} (a2) (a3) (a4) (k1 :
    s.Within F a1) :
    s.Within F (State.bnError a1 a2 a3 a4) := by
  unfold State.bnError
  extract_lets +onlyGivenNames y0
  have h1 : s.Within F y0 := by
    unfold y0
    refine within_ite (fun _ => ?_) (fun _ => ?_)
    · with_reducible assumption
    · refine put_within (hF.mono rfl) (not_configured rfl) ?_
      refine put_within (hF.mono rfl) (not_configured rfl) ?_
      refine put_within (hF.mono rfl) (not_configured rfl) ?_
      refine putFlag_within (hF.mono rfl) (not_configured rfl) ?_
      with_reducible assumption
  refine bump_within (hF.mono rfl) (not_configured rfl) ?_
  with_reducible assumption

theorem setBnUnit_within {F : Part → Bool} {s : State} (hF : Part.All F [.bignum]) {a1 : State} (a2) (a3) (k1 :
    s.Within F a1) :
    s.Within F (State.setBnUnit a1 a2 a3) := by
  unfold State.setBnUnit
  split
  · rename_i x0
    refine within_bignum (hF.one rfl) ?_
    with_reducible assumption
  · rename_i x1
    refine within_bignum (hF.one rfl) ?_
    with_reducible assumption

theorem bnDraw_within {F : Part → Bool} {s : State} (hF : Part.All F [.rng]) {a1 : State} (a2) (a3) (k1 : s.Within F
    a1) :
    s.Within F (State.bnDraw a1 a2 a3) := by
  unfold State.bnDraw
  extract_lets +onlyGivenNames y0
  refine within_rng (hF.one rfl) ?_
  with_reducible assumption

theorem bnGrant_within {F : Part → Bool} {s : State} (hF : Part.All F [.digest]) {a1 : State} (a2) (k1 : s.Within F
    a1) :
    s.Within F (State.bnGrant a1 a2) := by
  induction' a2 with x ih generalizing a1
  · rw [State.bnGrant]
    with_reducible assumption
  · rw [State.bnGrant]
    refine within_ite (fun _ => ?_) (fun _ => ?_)
    · with_reducible assumption
    · split
      · rename_i x0 x1 x2 x3 x4 e5 e6
        split
        · rename_i x7 e8
          apply ih
          refine within_digest (hF.one rfl) ?_
          with_reducible assumption
        · rename_i x9 x10 e11
          split
          rename_i x12 x13 u14 e15
          have h16 : s.Within F u14 := by
            refine within_snd e15 ?_
            apply takeFree_within (hF.mono rfl)
            with_reducible assumption
          extract_lets +onlyGivenNames y17
          extract_lets +onlyGivenNames y18
          have h19 : s.Within F y18 := by
            unfold y18
            refine within_digest (hF.one rfl) ?_
            with_reducible assumption
          extract_lets +onlyGivenNames y20
          apply ih
          apply dgReady_within (hF.mono rfl)
          apply setDgChan_within (hF.mono rfl)
          with_reducible assumption
      · rename_i x21 x22 e23
        with_reducible assumption

theorem bnNoSecret_within {F : Part → Bool} {s : State} (hF : Part.All F [.qeng]) {a1 : State} (a2) (k1 : s.Within F
    a1) :
    s.Within F (State.bnNoSecret a1 a2) := by
  unfold State.bnNoSecret
  refine within_ite (fun _ => ?_) (fun _ => ?_)
  · apply putSecret_within (hF.mono rfl)
    with_reducible assumption
  · with_reducible assumption

theorem bnDetail_within {F : Part → Bool} {s : State} (hF : Part.All F []) {a1 : State} (a2) (a3) (a4) (a5) (k1 :
    s.Within F a1) :
    s.Within F (State.bnDetail a1 a2 a3 a4 a5).2 := by
  unfold State.bnDetail
  split
  rename_i x0 x1 u2 e3
  have h4 : s.Within F u2 := by
    refine within_snd e3 ?_
    refine within_ite_snd (fun _ => ?_) (fun _ => ?_)
    · apply takeFree_within (hF.mono rfl)
      with_reducible assumption
    · refine within_pair_snd ?_
      with_reducible assumption
  extract_lets +onlyGivenNames y5
  refine within_pair_snd ?_
  with_reducible assumption

theorem bnClose_within {F : Part → Bool} {s : State} (hF : Part.All F [.hdrs, .irq, .qeng, .crown]) {a1 : State} (a2)
    (a3) (a4) (a5) (k1 : s.Within F a1) :
    s.Within F (State.bnClose a1 a2 a3 a4 a5) := by
  unfold State.bnClose
  extract_lets +onlyGivenNames y0
  extract_lets +onlyGivenNames y1
  split
  rename_i x2 x3 u4 e5
  have h6 : s.Within F u4 := by
    refine within_snd e5 ?_
    refine within_ite_snd (fun _ => ?_) (fun _ => ?_)
    · apply takeFree_within (hF.mono rfl)
      with_reducible assumption
    · refine within_pair_snd ?_
      with_reducible assumption
  extract_lets +onlyGivenNames y7
  split
  rename_i x8 x9 u10 e11
  have h12 : s.Within F u10 := by
    refine within_snd e11 ?_
    apply bnDetail_within (hF.mono rfl)
    apply bnNoSecret_within (hF.mono rfl)
    with_reducible assumption
  apply endJob_within (hF.mono rfl)
  with_reducible assumption

theorem bnCheckOver_within {F : Part → Bool} {s : State} (hF : Part.All F [.regs, .bignum]) {a1 : State} (a2) (k1 :
    s.Within F a1) :
    s.Within F (State.bnCheckOver a1 a2) := by
  unfold State.bnCheckOver
  extract_lets +onlyGivenNames y0
  extract_lets +onlyGivenNames y1
  have h2 : s.Within F y1 := by
    unfold y1
    apply setBnUnit_within (hF.mono rfl)
    with_reducible assumption
  extract_lets +onlyGivenNames y3
  extract_lets +onlyGivenNames y4
  extract_lets +onlyGivenNames y5
  have h6 : s.Within F y5 := by
    unfold y5
    refine within_bignum (hF.one rfl) ?_
    with_reducible assumption
  refine within_ite (fun _ => ?_) (fun _ => ?_)
  · refine putFlag_within (hF.mono rfl) (not_configured rfl) ?_
    refine putFlag_within (hF.mono rfl) (not_configured rfl) ?_
    with_reducible assumption
  · with_reducible assumption

theorem updBnChan_within {F : Part → Bool} {s : State} (hF : Part.All F [.bignum]) {a1 : State} (a2) (a3) (k1 :
    s.Within F a1) :
    s.Within F (State.updBnChan a1 a2 a3) := by
  unfold State.updBnChan
  apply setBnChan_within (hF.mono rfl)
  with_reducible assumption

theorem bnResplitDue_within {F : Part → Bool} {s : State} (hF : Part.All F [.bignum, .rng]) {a1 : State} (a2) (k1 :
    s.Within F a1) :
    s.Within F (State.bnResplitDue a1 a2) := by
  unfold State.bnResplitDue
  extract_lets +onlyGivenNames y0
  refine within_ite (fun _ => ?_) (fun _ => ?_)
  · with_reducible assumption
  · extract_lets +onlyGivenNames y1
    have h2 : s.Within F y1 := by
      unfold y1
      apply setBnChan_within (hF.mono rfl)
      with_reducible assumption
    refine within_ite (fun _ => ?_) (fun _ => ?_)
    · with_reducible assumption
    · refine within_rng (hF.one rfl) ?_
      with_reducible assumption

theorem bnHashAsk_within {F : Part → Bool} {s : State} (hF : Part.All F [.digest, .bignum]) {a1 : State} (a2) (k1 :
    s.Within F a1) :
    s.Within F (State.bnHashAsk a1 a2) := by
  unfold State.bnHashAsk
  split
  · rename_i x0 e1
    with_reducible assumption
  · rename_i x2 x3 e4
    refine within_ite (fun _ => ?_) (fun _ => ?_)
    · apply updBnChan_within (hF.mono rfl)
      with_reducible assumption
    · extract_lets +onlyGivenNames y5
      have h6 : s.Within F y5 := by
        unfold y5
        apply updBnChan_within (hF.mono rfl)
        with_reducible assumption
      split
      · rename_i x7 x8 e9
        apply dgReady_within (hF.mono rfl)
        with_reducible assumption
      · rename_i x10 e11
        apply bnGrant_within (hF.mono rfl)
        refine within_digest (hF.one rfl) ?_
        with_reducible assumption

theorem bnResplit_within {F : Part → Bool} {s : State} (hF : Part.All F [.bignum]) {a1 : State} (a2) (k1 : s.Within F
    a1) :
    s.Within F (State.bnResplit a1 a2) := by
  unfold State.bnResplit
  apply updBnChan_within (hF.mono rfl)
  with_reducible assumption

theorem bnKeyGone_within {F : Part → Bool} {s : State} (hF : Part.All F [.bignum, .rng]) {a1 : State} (a2) (k1 :
    s.Within F a1) :
    s.Within F (State.bnKeyGone a1 a2) := by
  unfold State.bnKeyGone
  extract_lets +onlyGivenNames y0
  have h1 : s.Within F y0 := by
    unfold y0
    apply updBnChan_within (hF.mono rfl)
    with_reducible assumption
  refine within_rng (hF.one rfl) ?_
  with_reducible assumption

theorem bnCheckRun_within {F : Part → Bool} {s : State} (hF : Part.All F [.regs, .bignum]) {a1 : State} (k1 : s.Within
    F a1) :
    s.Within F (State.bnCheckRun a1) := by
  unfold State.bnCheckRun
  refine within_ite (fun _ => ?_) (fun _ => ?_)
  · refine putFlag_within (hF.mono rfl) (not_configured rfl) ?_
    with_reducible assumption
  · extract_lets +onlyGivenNames y0
    have h1 : ∀ z0, s.Within F z0 → ∀ z1, s.Within F (y0 z0 z1) := by
      unfold y0
      intro u2 h3 x4
      extract_lets +onlyGivenNames y5
      refine within_ite (fun _ => ?_) (fun _ => ?_)
      · with_reducible assumption
      · extract_lets +onlyGivenNames y6
        have h7 : s.Within F y6 := by
          unfold y6
          apply setBnUnit_within (hF.mono rfl)
          with_reducible assumption
        split
        · rename_i x8 x9 e10
          extract_lets +onlyGivenNames y11
          extract_lets +onlyGivenNames y12
          have h13 : s.Within F y12 := by
            unfold y12
            refine within_bignum (hF.one rfl) ?_
            with_reducible assumption
          apply updBnChan_within (hF.mono rfl)
          with_reducible assumption
        · rename_i x14 e15
          with_reducible assumption
    extract_lets +onlyGivenNames y16
    have h17 : s.Within F y16 := by
      unfold y16
      apply h1
      apply h1
      with_reducible assumption
    extract_lets +onlyGivenNames y18
    extract_lets +onlyGivenNames y19
    have h20 : s.Within F y19 := by
      unfold y19
      refine within_bignum (hF.one rfl) ?_
      with_reducible assumption
    extract_lets +onlyGivenNames y21
    refine putFlag_within (hF.mono rfl) (not_configured rfl) ?_
    refine putFlag_within (hF.mono rfl) (not_configured rfl) ?_
    with_reducible assumption

theorem bnHashDrop_within {F : Part → Bool} {s : State} (hF : Part.All F [.regs, .hdrs, .irq, .digest, .bignum]) {a1 :
    State} (a2) (k1 : s.Within F a1) :
    s.Within F (State.bnHashDrop a1 a2) := by
  unfold State.bnHashDrop
  extract_lets +onlyGivenNames y0
  extract_lets +onlyGivenNames y1
  have h2 : s.Within F y1 := by
    unfold y1
    refine within_digest (hF.one rfl) ?_
    with_reducible assumption
  extract_lets +onlyGivenNames y3
  have h4 : s.Within F y3 := by
    unfold y3
    apply updBnChan_within (hF.mono rfl)
    with_reducible assumption
  split
  · rename_i x5 e6
    with_reducible assumption
  · rename_i x7 x8 e9
    apply takeCores_within (hF.mono rfl)
    apply bnGrant_within (hF.mono rfl)
    apply setDgChan_within (hF.mono rfl)
    apply leaveCore_within (hF.mono rfl)
    with_reducible assumption

theorem bnTake_within {F : Part → Bool} {s : State} (hF : Part.All F [.bignum]) {a1 : State} (a2) (a3) (k1 : s.Within
    F a1) :
    s.Within F (State.bnTake a1 a2 a3) := by
  unfold State.bnTake
  apply updBnChan_within (hF.mono rfl)
  apply setBnUnit_within (hF.mono rfl)
  with_reducible assumption

theorem bnPreempt_within {F : Part → Bool} {s : State} (hF : Part.All F [.regs, .hdrs, .irq, .bignum]) {a1 : State}
    (a2) (k1 : s.Within F a1) :
    s.Within F (State.bnPreempt a1 a2) := by
  unfold State.bnPreempt
  split
  · rename_i x0 x1 x2 x3 e4 e5
    extract_lets +onlyGivenNames y6
    extract_lets +onlyGivenNames y7
    have h8 : s.Within F y7 := by
      unfold y7
      refine within_bignum (hF.one rfl) ?_
      with_reducible assumption
    extract_lets +onlyGivenNames y9
    have h10 : s.Within F y9 := by
      unfold y9
      apply updBnChan_within (hF.mono rfl)
      with_reducible assumption
    apply bnTake_within (hF.mono rfl)
    apply perfCount_within (hF.mono rfl)
    apply perfCount_within (hF.mono rfl)
    with_reducible assumption
  · rename_i x11 x12 e13
    with_reducible assumption

theorem bnWait_within {F : Part → Bool} {s : State} (hF : Part.All F [.bignum]) {a1 : State} (a2) (k1 : s.Within F a1)
    :
    s.Within F (State.bnWait a1 a2) := by
  unfold State.bnWait
  split
  · rename_i x0 e1
    with_reducible assumption
  · rename_i x2 x3 e4
    extract_lets +onlyGivenNames y5
    extract_lets +onlyGivenNames y6
    extract_lets +onlyGivenNames y7
    have h8 : s.Within F y7 := by
      unfold y7
      refine within_bignum (hF.one rfl) ?_
      with_reducible assumption
    extract_lets +onlyGivenNames y9
    have h10 : s.Within F y9 := by
      unfold y9
      apply updBnChan_within (hF.mono rfl)
      with_reducible assumption
    refine within_ite (fun _ => ?_) (fun _ => ?_)
    · apply bnTake_within (hF.mono rfl)
      with_reducible assumption
    · with_reducible assumption

theorem bnGive_within {F : Part → Bool} {s : State} (hF : Part.All F [.regs, .hdrs, .irq, .bignum]) {a1 : State} (a2)
    (k1 : s.Within F a1) :
    s.Within F (State.bnGive a1 a2) := by
  unfold State.bnGive
  refine within_ite (fun _ => ?_) (fun _ => ?_)
  · split
    · rename_i x0 x1 e2
      apply bnTake_within (hF.mono rfl)
      apply perfCount_within (hF.mono rfl)
      with_reducible assumption
    · rename_i x3 e4
      with_reducible assumption
  · with_reducible assumption

theorem bnHashEnds_within {F : Part → Bool} {s : State} (hF : Part.All F [.regs, .hdrs, .irq, .digest, .bignum]) {a1 :
    State} (k1 : s.Within F a1) :
    s.Within F (State.bnHashEnds a1) := by
  unfold State.bnHashEnds
  extract_lets +onlyGivenNames y0
  extract_lets +onlyGivenNames y1
  have h2 : s.Within F y1 := by
    unfold y1
    refine within_digest (hF.one rfl) ?_
    with_reducible assumption
  apply within_foldl
  · intro u3 x4 h5
    apply bnHashDrop_within (hF.mono rfl)
    with_reducible assumption
  · with_reducible assumption

theorem enginesGo_within {F : Part → Bool} {s : State} (hF : Part.All F [.regs, .hdrs, .irq, .digest, .bignum, .key])
    {a1 : State} (k1 : s.Within F a1) :
    s.Within F (State.enginesGo a1) := by
  unfold State.enginesGo
  apply bnGive_within (hF.mono rfl)
  apply bnGive_within (hF.mono rfl)
  apply coresGo_within (hF.mono rfl)
  apply kdfSync_within (hF.mono rfl)
  with_reducible assumption

theorem bnBudget_within {F : Part → Bool} {s : State} (hF : Part.All F [.regs, .hdrs, .irq, .bignum]) {a1 : State}
    (a2) (k1 : s.Within F a1) :
    s.Within F (State.bnBudget a1 a2) := by
  unfold State.bnBudget
  split
  · rename_i x0 e1
    with_reducible assumption
  · rename_i x2 x3 e4
    refine within_ite (fun _ => ?_) (fun _ => ?_)
    · with_reducible assumption
    · extract_lets +onlyGivenNames y5
      extract_lets +onlyGivenNames y6
      have h7 : s.Within F y6 := by
        unfold y6
        refine within_bignum (hF.one rfl) ?_
        with_reducible assumption
      extract_lets +onlyGivenNames y8
      extract_lets +onlyGivenNames y9
      have h10 : s.Within F y9 := by
        unfold y9
        apply setBnUnit_within (hF.mono rfl)
        with_reducible assumption
      extract_lets +onlyGivenNames y11
      have h12 : s.Within F y11 := by
        unfold y11
        apply bnGive_within (hF.mono rfl)
        with_reducible assumption
      extract_lets +onlyGivenNames y13
      apply updBnChan_within (hF.mono rfl)
      with_reducible assumption

theorem bnWipe_within {F : Part → Bool} {s : State} (hF : Part.All F [.regs, .hdrs, .irq, .digest, .bignum, .rng]) {a1
    : State} (k1 : s.Within F a1) :
    s.Within F (State.bnWipe a1) := by
  unfold State.bnWipe
  extract_lets +onlyGivenNames y0
  have h1 : s.Within F y0 := by
    unfold y0
    refine putFlag_within (hF.mono rfl) (not_configured rfl) ?_
    apply bnHashEnds_within (hF.mono rfl)
    with_reducible assumption
  refine within_mk ?_ (.inr rfl) (.inr rfl) (.inr rfl) (.inr rfl) (.inr rfl) (.inr rfl) (.inr rfl) (.inr rfl) (.inr rfl) (.inr rfl) (.inr rfl) (.inl (hF.one rfl)) (.inl (hF.one rfl)) (.inr rfl) (.inr ⟨rfl, rfl, rfl⟩) (.inr rfl) (.inr rfl) (.inr rfl) (.inr rfl) (.inr rfl) (.inr rfl) (.inr rfl) (.inr rfl)
  with_reducible assumption

theorem bnProceed_within {F : Part → Bool} {s : State} (hF : Part.All F [.digest, .bignum]) {a1 : State} (a2) (k1 :
    s.Within F a1) :
    s.Within F (State.bnProceed a1 a2) := by
  unfold State.bnProceed
  extract_lets +onlyGivenNames y0
  refine within_ite (fun _ => ?_) (fun _ => ?_)
  · apply bnHashAsk_within (hF.mono rfl)
    with_reducible assumption
  · apply bnWait_within (hF.mono rfl)
    with_reducible assumption

theorem bnAbort_within {F : Part → Bool} {s : State} (hF : Part.All F [.regs, .hdrs, .irq, .qeng, .crown, .digest,
    .bignum, .rng, .key]) {a1 : State} (a2) (a3) (k1 : s.Within F a1) :
    s.Within F (State.bnAbort a1 a2 a3) := by
  unfold State.bnAbort
  extract_lets +onlyGivenNames y0
  extract_lets +onlyGivenNames y1
  have h2 : s.Within F y1 := by
    unfold y1
    apply within_foldl
    · intro u3 x4 h5
      apply bnClose_within (hF.mono rfl)
      with_reducible assumption
    · with_reducible assumption
  extract_lets +onlyGivenNames y6
  have h7 : s.Within F y6 := by
    unfold y6
    apply bnHashEnds_within (hF.mono rfl)
    with_reducible assumption
  refine within_mk ?_ (.inr rfl) (.inr rfl) (.inr rfl) (.inr rfl) (.inr rfl) (.inr rfl) (.inr rfl) (.inr rfl) (.inr rfl) (.inr rfl) (.inr rfl) (.inl (hF.one rfl)) (.inl (hF.one rfl)) (.inl (hF.one rfl)) (.inr ⟨rfl, rfl, rfl⟩) (.inr rfl) (.inr rfl) (.inr rfl) (.inr rfl) (.inr rfl) (.inr rfl) (.inr rfl) (.inr rfl)
  with_reducible assumption

theorem bnLeave_within {F : Part → Bool} {s : State} (hF : Part.All F [.regs, .hdrs, .irq, .bignum]) {a1 : State} (a2)
    (k1 : s.Within F a1) :
    s.Within F (State.bnLeave a1 a2) := by
  unfold State.bnLeave
  extract_lets +onlyGivenNames y0
  have h1 : ∀ z0, s.Within F z0 → ∀ z1, s.Within F (y0 z0 z1) := by
    unfold y0
    intro u2 h3 x4
    refine within_ite (fun _ => ?_) (fun _ => ?_)
    · apply bnGive_within (hF.mono rfl)
      apply setBnUnit_within (hF.mono rfl)
      with_reducible assumption
    · with_reducible assumption
  apply h1
  apply h1
  with_reducible assumption

theorem bnSettle_within {F : Part → Bool} {s : State} (hF : Part.All F [.regs, .hdrs, .irq, .fab, .digest, .bignum,
    .rng, .key]) {a1 : State} (a2) (k1 : s.Within F a1) :
    s.Within F (State.bnSettle a1 a2) := by
  unfold State.bnSettle
  extract_lets +onlyGivenNames y0
  refine within_ite (fun _ => ?_) (fun _ => ?_)
  · with_reducible assumption
  · split
    · rename_i x1 e2
      apply setBnChan_within (hF.mono rfl)
      with_reducible assumption
    · rename_i x3 x4 e5
      refine within_ite (fun _ => ?_) (fun _ => ?_)
      · with_reducible assumption
      · refine within_ite (fun _ => ?_) (fun _ => ?_)
        · extract_lets +onlyGivenNames y6
          refine within_ite (fun _ => ?_) (fun _ => ?_)
          · apply setBnChan_within (hF.mono rfl)
            with_reducible assumption
          · split
            rename_i x7 x8 u9 e10
            have h11 : s.Within F u9 := by
              refine within_snd e10 ?_
              apply readPart_within (hF.mono rfl)
              with_reducible assumption
            extract_lets +onlyGivenNames y12
            have h13 : s.Within F y12 := by
              unfold y12
              apply bnDraw_within (hF.mono rfl)
              with_reducible assumption
            extract_lets +onlyGivenNames y14
            have h15 : s.Within F y14 := by
              unfold y14
              refine within_ite (fun _ => ?_) (fun _ => ?_)
              · apply bnKeyGone_within (hF.mono rfl)
                with_reducible assumption
              · with_reducible assumption
            extract_lets +onlyGivenNames y16
            have h17 : s.Within F y16 := by
              unfold y16
              apply updBnChan_within (hF.mono rfl)
              with_reducible assumption
            extract_lets +onlyGivenNames y18
            extract_lets +onlyGivenNames y19
            have h20 : s.Within F y19 := by
              unfold y19
              refine within_ite (fun _ => ?_) (fun _ => ?_)
              · apply kdfSync_within (hF.mono rfl)
                refine within_key (hF.one rfl) ?_
                with_reducible assumption
              · with_reducible assumption
            refine within_ite (fun _ => ?_) (fun _ => ?_)
            · apply bnProceed_within (hF.mono rfl)
              with_reducible assumption
            · with_reducible assumption
        · refine within_ite (fun _ => ?_) (fun _ => ?_)
          · apply bnProceed_within (hF.mono rfl)
            with_reducible assumption
          · with_reducible assumption

theorem bnCheckFail_within {F : Part → Bool} {s : State} (hF : Part.All F [.regs, .hdrs, .irq, .fab, .digest, .bignum,
    .rng]) {a1 : State} (a2) (a3) (a4) (k1 : s.Within F a1) :
    s.Within F (State.bnCheckFail a1 a2 a3 a4) := by
  unfold State.bnCheckFail
  extract_lets +onlyGivenNames y0
  split
  · rename_i x1 e2
    with_reducible assumption
  · rename_i x3 x4 e5
    refine within_ite (fun _ => ?_) (fun _ => ?_)
    · with_reducible assumption
    · extract_lets +onlyGivenNames y6
      have h7 : s.Within F y6 := by
        unfold y6
        apply bnError_within (hF.mono rfl)
        with_reducible assumption
      refine within_ite (fun _ => ?_) (fun _ => ?_)
      · extract_lets +onlyGivenNames y8
        extract_lets +onlyGivenNames y9
        have h10 : s.Within F y9 := by
          unfold y9
          apply raiseFault_within (hF.mono rfl)
          apply setBnUnit_within (hF.mono rfl)
          with_reducible assumption
        apply updBnChan_within (hF.mono rfl)
        with_reducible assumption
      · extract_lets +onlyGivenNames y11
        extract_lets +onlyGivenNames y12
        extract_lets +onlyGivenNames y13
        refine within_ite (fun _ => ?_) (fun _ => ?_)
        · apply updBnChan_within (hF.mono rfl)
          with_reducible assumption
        · extract_lets +onlyGivenNames y14
          have h15 : s.Within F y14 := by
            unfold y14
            apply bnDraw_within (hF.mono rfl)
            apply bnLeave_within (hF.mono rfl)
            with_reducible assumption
          split
          rename_i x16 x17 u18 e19
          have h20 : s.Within F u18 := by
            refine within_snd e19 ?_
            refine within_ite_snd (fun _ => ?_) (fun _ => ?_)
            · apply readPart_within (hF.mono rfl)
              with_reducible assumption
            · refine within_pair_snd ?_
              with_reducible assumption
          extract_lets +onlyGivenNames y21
          have h22 : s.Within F y21 := by
            unfold y21
            apply updBnChan_within (hF.mono rfl)
            with_reducible assumption
          refine within_ite (fun _ => ?_) (fun _ => ?_)
          · apply bnProceed_within (hF.mono rfl)
            with_reducible assumption
          · with_reducible assumption

theorem bnInject_within {F : Part → Bool} {s : State} (hF : Part.All F [.regs, .hdrs, .irq, .fab, .digest, .bignum,
    .rng]) {a1 : State} (a2) (a3) (a4) (k1 : s.Within F a1) :
    s.Within F (State.bnInject a1 a2 a3 a4) := by
  unfold State.bnInject
  extract_lets +onlyGivenNames y0
  extract_lets +onlyGivenNames y1
  have h2 : s.Within F y1 := by
    unfold y1
    refine putFlag_within (hF.mono rfl) (not_configured rfl) ?_
    with_reducible assumption
  extract_lets +onlyGivenNames y3
  have h4 : s.Within F y3 := by
    unfold y3
    apply updBnChan_within (hF.mono rfl)
    with_reducible assumption
  apply bnCheckFail_within (hF.mono rfl)
  with_reducible assumption

theorem bnDrop_within {F : Part → Bool} {s : State} (hF : Part.All F [.regs, .hdrs, .irq, .fab, .digest, .bignum,
    .rng, .key]) {a1 : State} (a2) (a3) (k1 : s.Within F a1) :
    s.Within F (State.bnDrop a1 a2 a3) := by
  unfold State.bnDrop
  extract_lets +onlyGivenNames y0
  have h1 : s.Within F y0 := by
    unfold y0
    apply keyDrop_within (hF.mono rfl)
    with_reducible assumption
  extract_lets +onlyGivenNames y2
  have h3 : s.Within F y2 := by
    unfold y2
    apply bnHashDrop_within (hF.mono rfl)
    apply bnDraw_within (hF.mono rfl)
    apply bnLeave_within (hF.mono rfl)
    with_reducible assumption
  extract_lets +onlyGivenNames y4
  have h5 : s.Within F y4 := by
    unfold y4
    apply updBnChan_within (hF.mono rfl)
    with_reducible assumption
  extract_lets +onlyGivenNames y6
  have h7 : s.Within F y6 := by
    unfold y6
    apply bnSettle_within (hF.mono rfl)
    apply bnResplit_within (hF.mono rfl)
    with_reducible assumption
  refine within_ite (fun _ => ?_) (fun _ => ?_)
  · apply raiseEvent_within (hF.mono rfl)
    with_reducible assumption
  · with_reducible assumption

theorem bnChanCfg_within {F : Part → Bool} {s : State} (hF : Part.All F [.regs, .hdrs, .irq, .fab, .digest, .bignum,
    .rng, .key]) {a1 : State} (a2) (a3) (k1 : s.Within F a1) :
    s.Within F (State.bnChanCfg a1 a2 a3) := by
  unfold State.bnChanCfg
  extract_lets +onlyGivenNames y0
  extract_lets +onlyGivenNames y1
  extract_lets +onlyGivenNames y2
  extract_lets +onlyGivenNames y3
  extract_lets +onlyGivenNames y4
  extract_lets +onlyGivenNames y5
  refine within_ite (fun _ => ?_) (fun _ => ?_)
  · apply seq_within (hF.mono rfl)
    with_reducible assumption
  · extract_lets +onlyGivenNames y6
    have h7 : s.Within F y6 := by
      unfold y6
      refine put_within (hF.mono rfl) (not_configured rfl) ?_
      refine put_within (hF.mono rfl) (not_configured rfl) ?_
      refine put_within (hF.mono rfl) (not_configured rfl) ?_
      with_reducible assumption
    extract_lets +onlyGivenNames y8
    have h9 : s.Within F y8 := by
      unfold y8
      refine within_ite (fun _ => ?_) (fun _ => ?_)
      · apply bnDraw_within (hF.mono rfl)
        apply updBnChan_within (hF.mono rfl)
        apply bnKeyGone_within (hF.mono rfl)
        with_reducible assumption
      · with_reducible assumption
    refine within_ite (fun _ => ?_) (fun _ => ?_)
    · apply bnSettle_within (hF.mono rfl)
      apply updBnChan_within (hF.mono rfl)
      apply bnKeyGone_within (hF.mono rfl)
      with_reducible assumption
    · with_reducible assumption

theorem bnDispatch_within {F : Part → Bool} {s : State} (hF : Part.All F [.regs, .hdrs, .irq, .fab, .digest, .bignum,
    .rng, .key]) {a1 : State} (a2) (k1 : s.Within F a1) :
    s.Within F (State.bnDispatch a1 a2).2 := by
  unfold State.bnDispatch
  extract_lets +onlyGivenNames y0
  refine within_ite_snd (fun _ => ?_) (fun _ => ?_)
  · refine within_pair_snd ?_
    with_reducible assumption
  · split
    rename_i x1 x2 u3 e4
    have h5 : s.Within F u3 := by
      refine within_snd e4 ?_
      apply newJob_within (hF.mono rfl)
      with_reducible assumption
    extract_lets +onlyGivenNames y6
    have h7 : s.Within F y6 := by
      unfold y6
      apply updBnChan_within (hF.mono rfl)
      apply fnCount_within (hF.mono rfl)
      with_reducible assumption
    refine within_pair_snd ?_
    apply bnSettle_within (hF.mono rfl)
    with_reducible assumption

theorem bnServe_within {F : Part → Bool} {s : State} (hF : Part.All F [.regs, .hdrs, .irq, .fab, .digest, .bignum,
    .rng, .key]) {a1 : State} (a2) (k1 : s.Within F a1) :
    s.Within F (State.bnServe a1 a2).2 := by
  unfold State.bnServe
  refine within_ite_snd (fun _ => ?_) (fun _ => ?_)
  · refine within_pair_snd ?_
    with_reducible assumption
  · split
    · rename_i x0 e1
      refine within_pair_snd ?_
      refine within_ite (fun _ => ?_) (fun _ => ?_)
      · apply bnHashAsk_within (hF.mono rfl)
        with_reducible assumption
      · with_reducible assumption
    · rename_i x2 x3 e4
      split
      · rename_i x5 x6 x7 x8 e9 e10
        split
        rename_i x11 x12 u13 e14
        have h15 : s.Within F u13 := by
          refine within_snd e14 ?_
          apply takeFree_within (hF.mono rfl)
          with_reducible assumption
        extract_lets +onlyGivenNames y16
        refine within_ite_snd (fun _ => ?_) (fun _ => ?_)
        · apply injectError_within (hF.mono rfl)
          with_reducible assumption
        · extract_lets +onlyGivenNames y17
          have h18 : s.Within F y17 := by
            unfold y17
            apply leaveCore_within (hF.mono rfl)
            apply coreCount_within (hF.mono rfl)
            with_reducible assumption
          extract_lets +onlyGivenNames y19
          extract_lets +onlyGivenNames y20
          have h21 : s.Within F y20 := by
            unfold y20
            apply takeCores_within (hF.mono rfl)
            apply setDgChan_within (hF.mono rfl)
            with_reducible assumption
          refine within_ite_snd (fun _ => ?_) (fun _ => ?_)
          · split
            rename_i x22 x23 u24 e25
            have h26 : s.Within F u24 := by
              refine within_snd e25 ?_
              apply readPart_within (hF.mono rfl)
              with_reducible assumption
            refine within_pair_snd ?_
            apply updBnChan_within (hF.mono rfl)
            with_reducible assumption
          · refine within_pair_snd ?_
            apply bnSettle_within (hF.mono rfl)
            apply updBnChan_within (hF.mono rfl)
            with_reducible assumption
      · rename_i x27 x28 e29
        refine within_pair_snd ?_
        with_reducible assumption

theorem bnPoll_within {F : Part → Bool} {s : State} (hF : Part.All F [.regs, .hdrs, .irq, .fab, .digest, .bignum,
    .rng, .key]) {a1 : State} (k1 : s.Within F a1) :
    s.Within F (State.bnPoll a1) := by
  unfold State.bnPoll
  apply within_foldl
  · intro u0 x1 h2
    extract_lets +onlyGivenNames y3
    refine within_ite (fun _ => ?_) (fun _ => ?_)
    · apply bnResplit_within (hF.mono rfl)
      with_reducible assumption
    · refine within_ite (fun _ => ?_) (fun _ => ?_)
      · apply bnSettle_within (hF.mono rfl)
        with_reducible assumption
      · with_reducible assumption
  · with_reducible assumption

theorem bnEnd_within {F : Part → Bool} {s : State} (hF : Part.All F [.regs, .hdrs, .irq, .qeng, .crown, .fab, .digest,
    .bignum, .rng, .key]) {a1 : State} (a2) (a3) (a4) (a5) (k1 : s.Within F a1) :
    s.Within F (State.bnEnd a1 a2 a3 a4 a5) := by
  unfold State.bnEnd
  apply bnDrop_within (hF.mono rfl)
  apply bnClose_within (hF.mono rfl)
  with_reducible assumption

theorem bnJudge_within {F : Part → Bool} {s : State} (hF : Part.All F [.regs, .hdrs, .irq, .qeng, .crown, .fab,
    .digest, .bignum, .rng, .key]) {a1 : State} (a2) (a3) (k1 : s.Within F a1) :
    s.Within F (State.bnJudge a1 a2 a3) := by
  unfold State.bnJudge
  extract_lets +onlyGivenNames y0
  have h1 : s.Within F y0 := by
    unfold y0
    apply lasting_within (hF.mono rfl)
    with_reducible assumption
  extract_lets +onlyGivenNames y2
  have h3 : s.Within F y2 := by
    unfold y2
    refine within_ite (fun _ => ?_) (fun _ => ?_)
    · apply logFence_within (hF.mono rfl)
      apply raiseFault_within (hF.mono rfl)
      apply updBnChan_within (hF.mono rfl)
      apply bnKeyGone_within (hF.mono rfl)
      with_reducible assumption
    · with_reducible assumption
  split
  · rename_i x4 x5 e6
    refine within_ite (fun _ => ?_) (fun _ => ?_)
    · apply bnEnd_within (hF.mono rfl)
      with_reducible assumption
    · with_reducible assumption
  · rename_i x7 e8
    with_reducible assumption

theorem bnUnserved_within {F : Part → Bool} {s : State} (hF : Part.All F [.regs, .hdrs, .irq, .qeng, .crown, .fab,
    .digest, .bignum, .rng, .key]) {a1 : State} (a2) (k1 : s.Within F a1) :
    s.Within F (State.bnUnserved a1 a2) := by
  unfold State.bnUnserved
  apply within_foldl
  · intro u0 x1 h2
    split
    · rename_i x3 x4 e5
      refine within_ite (fun _ => ?_) (fun _ => ?_)
      · apply bnEnd_within (hF.mono rfl)
        with_reducible assumption
      · with_reducible assumption
    · rename_i x6 e7
      with_reducible assumption
  · with_reducible assumption

theorem digestStateEcc_within {F : Part → Bool} {s : State} (hF : Part.All F [.regs, .hdrs, .irq, .qeng, .crown, .fab,
    .ctx, .digest, .bignum, .rng, .key]) {a1 : State} (a2) (a3) (k1 : s.Within F a1) :
    s.Within F (State.digestStateEcc a1 a2 a3) := by
  unfold State.digestStateEcc
  extract_lets +onlyGivenNames y0
  extract_lets +onlyGivenNames y1
  have h2 : s.Within F y1 := by
    unfold y1
    apply dgStateEcc_within (hF.mono rfl)
    with_reducible assumption
  refine within_ite (fun _ => ?_) (fun _ => ?_)
  · with_reducible assumption
  · split
    · rename_i x3 e4
      with_reducible assumption
    · rename_i x5 x6 e7
      split
      · rename_i x8 x9 e10
        refine within_ite (fun _ => ?_) (fun _ => ?_)
        · apply bnEnd_within (hF.mono rfl)
          with_reducible assumption
        · with_reducible assumption
      · rename_i x11 e12
        with_reducible assumption

theorem bnQuit_within {F : Part → Bool} {s : State} (hF : Part.All F [.regs, .hdrs, .irq, .qeng, .crown, .fab,
    .digest, .bignum, .rng, .key]) {a1 : State} (a2) (a3) (k1 : s.Within F a1) :
    s.Within F (State.bnQuit a1 a2 a3) := by
  unfold State.bnQuit
  refine within_ite (fun _ => ?_) (fun _ => ?_)
  · apply bnEnd_within (hF.mono rfl)
    with_reducible assumption
  · apply updBnChan_within (hF.mono rfl)
    apply bnClose_within (hF.mono rfl)
    with_reducible assumption

theorem bnKeyEcc_within {F : Part → Bool} {s : State} (hF : Part.All F [.regs, .hdrs, .irq, .qeng, .crown, .fab,
    .digest, .bignum, .rng, .key]) {a1 : State} (a2) (a3) (k1 : s.Within F a1) :
    s.Within F (State.bnKeyEcc a1 a2 a3) := by
  unfold State.bnKeyEcc
  extract_lets +onlyGivenNames y0
  extract_lets +onlyGivenNames y1
  refine within_ite (fun _ => ?_) (fun _ => ?_)
  · apply bnError_within (hF.mono rfl)
    with_reducible assumption
  · refine within_ite (fun _ => ?_) (fun _ => ?_)
    · with_reducible assumption
    · extract_lets +onlyGivenNames y2
      have h3 : s.Within F y2 := by
        unfold y2
        apply raiseFault_within (hF.mono rfl)
        apply bnError_within (hF.mono rfl)
        apply bnKeyGone_within (hF.mono rfl)
        with_reducible assumption
      split
      · rename_i x4 x5 e6
        apply bnEnd_within (hF.mono rfl)
        with_reducible assumption
      · rename_i x7 e8
        with_reducible assumption

theorem bnFinish_within {F : Part → Bool} {s : State} (hF : Part.All F [.regs, .hdrs, .irq, .qeng, .crown, .fab,
    .digest, .bignum, .rng, .key, .finishes]) {a1 : State} (a2) (a3) (a4) (a5) (k1 : s.Within F a1) :
    s.Within F (State.bnFinish a1 a2 a3 a4 a5) := by
  unfold State.bnFinish
  extract_lets +onlyGivenNames y0
  extract_lets +onlyGivenNames y1
  extract_lets +onlyGivenNames y2
  split
  · rename_i x3
    apply bnCheckFail_within (hF.mono rfl)
    with_reducible assumption
  · rename_i x4 x5 x6
    apply bnEnd_within (hF.mono rfl)
    refine within_ite (fun _ => ?_) (fun _ => ?_)
    · apply transient_within (hF.mono rfl)
      with_reducible assumption
    · with_reducible assumption
  · rename_i x7 x8 x9 x10 x11
    extract_lets +onlyGivenNames y12
    have h13 : s.Within F y12 := by
      unfold y12
      refine within_ite (fun _ => ?_) (fun _ => ?_)
      · apply transient_within (hF.mono rfl)
        with_reducible assumption
      · with_reducible assumption
    extract_lets +onlyGivenNames y14
    extract_lets +onlyGivenNames y15
    have h16 : s.Within F y15 := by
      unfold y15
      refine within_bignum (hF.one rfl) ?_
      with_reducible assumption
    extract_lets +onlyGivenNames y17
    have h18 : s.Within F y17 := by
      unfold y17
      apply updBnChan_within (hF.mono rfl)
      with_reducible assumption
    split
    rename_i x19 x20 u21 e22
    have h23 : s.Within F u21 := by
      refine within_snd e22 ?_
      apply bnDetail_within (hF.mono rfl)
      with_reducible assumption
    extract_lets +onlyGivenNames y24
    extract_lets +onlyGivenNames y25
    extract_lets +onlyGivenNames y26
    have h27 : s.Within F y26 := by
      unfold y26
      apply bnDrop_within (hF.mono rfl)
      with_reducible assumption
    extract_lets +onlyGivenNames y28
    extract_lets +onlyGivenNames y29
    refine within_ite (fun _ => ?_) (fun _ => ?_)
    · apply endJob_within (hF.mono rfl)
      refine within_ite (fun _ => ?_) (fun _ => ?_)
      · apply putSecret_within (hF.mono rfl)
        with_reducible assumption
      · with_reducible assumption
    · extract_lets +onlyGivenNames y30
      extract_lets +onlyGivenNames y31
      have h32 : s.Within F y31 := by
        unfold y31
        refine within_finishes (hF.one rfl) ?_
        with_reducible assumption
      apply within_foldl
      · intro u33 x34 h35
        apply startWrite_within (hF.mono rfl)
        with_reducible assumption
      · with_reducible assumption

theorem bnRngTimeout_within {F : Part → Bool} {s : State} (hF : Part.All F [.regs, .hdrs, .irq, .qeng, .crown, .fab,
    .digest, .bignum, .rng, .key]) {a1 : State} (a2) (k1 : s.Within F a1) :
    s.Within F (State.bnRngTimeout a1 a2) := by
  unfold State.bnRngTimeout
  extract_lets +onlyGivenNames y0
  split
  · rename_i x1 x2 e3
    refine within_ite (fun _ => ?_) (fun _ => ?_)
    · apply bnEnd_within (hF.mono rfl)
      apply bnError_within (hF.mono rfl)
      with_reducible assumption
    · with_reducible assumption
  · rename_i x4 e5
    with_reducible assumption

theorem bnBytes_within {F : Part → Bool} {s : State} (hF : Part.All F [.regs, .hdrs, .irq, .qeng, .crown, .fab,
    .digest, .bignum, .rng, .key]) {a1 : State} (a2) (a3) (k1 : s.Within F a1) :
    s.Within F (State.bnBytes a1 a2 a3) := by
  unfold State.bnBytes
  extract_lets +onlyGivenNames y0
  have h1 : s.Within F y0 := by
    unfold y0
    apply updBnChan_within (hF.mono rfl)
    with_reducible assumption
  extract_lets +onlyGivenNames y2
  extract_lets +onlyGivenNames y3
  have h4 : s.Within F y3 := by
    unfold y3
    apply kdfSync_within (hF.mono rfl)
    refine within_key (hF.one rfl) ?_
    with_reducible assumption
  refine within_ite (fun _ => ?_) (fun _ => ?_)
  · apply bnEnd_within (hF.mono rfl)
    with_reducible assumption
  · apply bnSettle_within (hF.mono rfl)
    with_reducible assumption

theorem bnFenceUnit_within {F : Part → Bool} {s : State} (hF : Part.All F [.regs, .hdrs, .irq, .qeng, .crown, .fab,
    .digest, .bignum, .rng, .key]) {a1 : State} (a2) (k1 : s.Within F a1) :
    s.Within F (State.bnFenceUnit a1 a2) := by
  unfold State.bnFenceUnit
  extract_lets +onlyGivenNames y0
  apply within_foldl
  · intro u1 x2 h3
    apply bnQuit_within (hF.mono rfl)
    with_reducible assumption
  · with_reducible assumption

theorem bnUnwrap_within {F : Part → Bool} {s : State} (hF : Part.All F [.regs, .hdrs, .irq, .qeng, .crown, .fab,
    .digest, .bignum, .rng, .key, .finishes]) {a1 : State} (a2) (a3) (a4) (k1 : s.Within F a1) :
    s.Within F (State.bnUnwrap a1 a2 a3 a4).2 := by
  unfold State.bnUnwrap
  refine within_ite_snd (fun _ => ?_) (fun _ => ?_)
  · refine within_pair_snd ?_
    apply bnEnd_within (hF.mono rfl)
    with_reducible assumption
  · extract_lets +onlyGivenNames y0
    have h1 : s.Within F y0 := by
      unfold y0
      apply kdfSync_within (hF.mono rfl)
      with_reducible assumption
    split
    · rename_i x2 x3 x4 x5 e6 e7
      refine within_ite_snd (fun _ => ?_) (fun _ => ?_)
      · refine within_pair_snd ?_
        with_reducible assumption
      · split
        · rename_i x8 x9 e10
          apply injectError_within (hF.mono rfl)
          with_reducible assumption
        · rename_i x11 e12
          extract_lets +onlyGivenNames y13
          refine within_pair_snd ?_
          apply bnFinish_within (hF.mono rfl)
          apply kdfCount_within (hF.mono rfl)
          apply keyOp_within (hF.mono rfl)
          with_reducible assumption
    · rename_i x14 x15 e16
      refine within_pair_snd ?_
      with_reducible assumption

theorem bnUnitLost_within {F : Part → Bool} {s : State} (hF : Part.All F [.regs, .hdrs, .irq, .qeng, .crown, .fab,
    .digest, .bignum, .rng, .key]) {a1 : State} (a2) (a3) (k1 : s.Within F a1) :
    s.Within F (State.bnUnitLost a1 a2 a3) := by
  unfold State.bnUnitLost
  extract_lets +onlyGivenNames y0
  have h1 : s.Within F y0 := by
    unfold y0
    apply bnCheckOver_within (hF.mono rfl)
    with_reducible assumption
  extract_lets +onlyGivenNames y2
  extract_lets +onlyGivenNames y3
  have h4 : s.Within F y3 := by
    unfold y3
    apply setBnUnit_within (hF.mono rfl)
    with_reducible assumption
  extract_lets +onlyGivenNames y5
  have h6 : s.Within F y5 := by
    unfold y5
    apply logFence_within (hF.mono rfl)
    apply raiseFault_within (hF.mono rfl)
    with_reducible assumption
  apply bnFenceUnit_within (hF.mono rfl)
  with_reducible assumption

theorem bnOutcome_within {F : Part → Bool} {s : State} (hF : Part.All F [.regs, .hdrs, .irq, .qeng, .crown, .fab,
    .digest, .bignum, .rng, .key, .finishes]) {a1 : State} (a2) (a3) (a4) (k1 : s.Within F a1) :
    s.Within F (State.bnOutcome a1 a2 a3 a4).2 := by
  unfold State.bnOutcome
  extract_lets +onlyGivenNames y0
  extract_lets +onlyGivenNames y1
  split
  · rename_i x2 e3
    split
    rename_i x4 x5 u6 e7
    have h8 : s.Within F u6 := by
      refine within_snd e7 ?_
      refine within_ite_snd (fun _ => ?_) (fun _ => ?_)
      · apply takeFree_within (hF.mono rfl)
        with_reducible assumption
      · refine within_pair_snd ?_
        with_reducible assumption
    refine within_pair_snd ?_
    apply bnFinish_within (hF.mono rfl)
    with_reducible assumption
  · rename_i x9 e10
    extract_lets +onlyGivenNames y11
    refine within_pair_snd ?_
    apply bnFinish_within (hF.mono rfl)
    with_reducible assumption
  · rename_i x12 e13
    refine within_pair_snd ?_
    apply bnFinish_within (hF.mono rfl)
    with_reducible assumption
  · rename_i x14 e15 e16 e17
    apply bnUnwrap_within (hF.mono rfl)
    with_reducible assumption

theorem bnUnitCheckDone_within {F : Part → Bool} {s : State} (hF : Part.All F [.regs, .hdrs, .irq, .qeng, .crown,
    .fab, .digest, .bignum, .rng, .key]) {a1 : State} (a2) (a3) (k1 : s.Within F a1) :
    s.Within F (State.bnUnitCheckDone a1 a2 a3).2 := by
  unfold State.bnUnitCheckDone
  extract_lets +onlyGivenNames y0
  refine within_ite_snd (fun _ => ?_) (fun _ => ?_)
  · refine within_pair_snd ?_
    with_reducible assumption
  · extract_lets +onlyGivenNames y1
    have h2 : s.Within F y1 := by
      unfold y1
      apply setBnUnit_within (hF.mono rfl)
      apply bnCheckOver_within (hF.mono rfl)
      with_reducible assumption
    extract_lets +onlyGivenNames y3
    have h4 : s.Within F y3 := by
      unfold y3
      split
      · rename_i e5
        refine putFlag_within (hF.mono rfl) (not_configured rfl) ?_
        with_reducible assumption
      · rename_i e6
        refine putFlag_within (hF.mono rfl) (not_configured rfl) ?_
        with_reducible assumption
    extract_lets +onlyGivenNames y7
    have h8 : s.Within F y7 := by
      unfold y7
      split
      · rename_i x9 x10 e11
        apply bnJudge_within (hF.mono rfl)
        with_reducible assumption
      · rename_i x12 e13
        with_reducible assumption
    refine within_ite_snd (fun _ => ?_) (fun _ => ?_)
    · refine within_pair_snd ?_
      apply bnGive_within (hF.mono rfl)
      with_reducible assumption
    · extract_lets +onlyGivenNames y14
      have h15 : s.Within F y14 := by
        unfold y14
        apply bnUnitLost_within (hF.mono rfl)
        with_reducible assumption
      refine within_pair_snd ?_
      with_reducible assumption

theorem bnRun_within {F : Part → Bool} {s : State} (hF : Part.All F [.regs, .hdrs, .irq, .qeng, .crown, .fab, .digest,
    .bignum, .rng, .key, .finishes]) {a1 : State} (a2) (k1 : s.Within F a1) :
    s.Within F (State.bnRun a1 a2).2 := by
  unfold State.bnRun
  split
  rename_i x0 x1 u2 e3
  have h4 : s.Within F u2 := by
    refine within_snd e3 ?_
    apply bnServe_within (hF.mono rfl)
    with_reducible assumption
  refine within_ite_snd (fun _ => ?_) (fun _ => ?_)
  · refine within_pair_snd ?_
    with_reducible assumption
  · split
    · rename_i x5 e6
      refine within_pair_snd ?_
      with_reducible assumption
    · rename_i x7 x8 e9
      extract_lets +onlyGivenNames y10
      extract_lets +onlyGivenNames y11
      split
      · rename_i x12 x13 x14 e15
        refine within_pair_snd ?_
        apply bnEnd_within (hF.mono rfl)
        with_reducible assumption
      · rename_i x16 e17
        refine within_ite_snd (fun _ => ?_) (fun _ => ?_)
        · refine within_pair_snd ?_
          apply bnEnd_within (hF.mono rfl)
          apply bnKeyGone_within (hF.mono rfl)
          with_reducible assumption
        · refine within_ite_snd (fun _ => ?_) (fun _ => ?_)
          · refine within_pair_snd ?_
            apply bnEnd_within (hF.mono rfl)
            with_reducible assumption
          · refine within_ite_snd (fun _ => ?_) (fun _ => ?_)
            · refine within_pair_snd ?_
              apply bnSettle_within (hF.mono rfl)
              apply updBnChan_within (hF.mono rfl)
              with_reducible assumption
            · extract_lets +onlyGivenNames y18
              have h19 : s.Within F y18 := by
                unfold y18
                apply bnSettle_within (hF.mono rfl)
                with_reducible assumption
              split
              · rename_i x20 e21
                refine within_pair_snd ?_
                with_reducible assumption
              · rename_i x22 x23 e24
                refine within_ite_snd (fun _ => ?_) (fun _ => ?_)
                · refine within_pair_snd ?_
                  with_reducible assumption
                · refine within_ite_snd (fun _ => ?_) (fun _ => ?_)
                  · refine within_pair_snd ?_
                    apply bnInject_within (hF.mono rfl)
                    with_reducible assumption
                  · apply bnOutcome_within (hF.mono rfl)
                    with_reducible assumption

theorem bnOp_within {F : Part → Bool} {s : State} (hF : Part.All F [.regs, .hdrs, .irq, .qeng, .crown, .fab, .digest,
    .bignum, .rng, .key, .finishes]) {a1 : State} (a2) (a3) (a4) (k1 : s.Within F a1) :
    s.Within F (State.bnOp a1 a2 a3 a4).2 := by
  unfold State.bnOp
  extract_lets +onlyGivenNames y0
  have h1 : s.Within F y0 := by
    unfold y0
    apply bnGive_within (hF.mono rfl)
    apply bnGive_within (hF.mono rfl)
    with_reducible assumption
  split
  · rename_i x2 x3 e4
    refine within_ite_snd (fun _ => ?_) (fun _ => ?_)
    · apply bnRun_within (hF.mono rfl)
      with_reducible assumption
    · refine within_pair_snd ?_
      with_reducible assumption
  · rename_i x5 e6
    refine within_pair_snd ?_
    with_reducible assumption

end Sys2Proof.Machine
end

