-- ==== Sys2Proof/Laws/FrameDma.lean ====
section
/-! SUPPORT. The frames of the operations of Machine/Dma.lean: the parts that each may change. -/

namespace Sys2Proof.Machine

set_option Elab.async false

theorem setDch_within {F : Part → Bool} {s : State} (hF : Part.All F [.dma]) {a1 : State} (a2) (a3) (k1 : s.Within F
    a1) :
    s.Within F (State.setDch a1 a2 a3) := by
  unfold State.setDch
  refine within_dma (hF.one rfl) ?_
  with_reducible assumption

theorem dmaW0Ends_within {F : Part → Bool} {s : State} (hF : Part.All F [.hdrs, .irq, .fab]) {a1 : State} (a2) (a3)
    (k1 : s.Within F a1) :
    s.Within F (State.dmaW0Ends a1 a2 a3).2 := by
  unfold State.dmaW0Ends
  refine within_ite_snd (fun _ => ?_) (fun _ => ?_)
  · refine within_pair_snd ?_
    with_reducible assumption
  · refine within_pair_snd ?_
    apply post_within (hF.mono rfl)
    refine within_ite (fun _ => ?_) (fun _ => ?_)
    · apply transient_within (hF.mono rfl)
      with_reducible assumption
    · with_reducible assumption

theorem dchError_within {F : Part → Bool} {s : State} (hF : Part.All F [.regs]) {a1 : State} (a2) (a3) (k1 : s.Within
    F a1) :
    s.Within F (State.dchError a1 a2 a3) := by
  unfold State.dchError
  extract_lets +onlyGivenNames y0
  have h1 : s.Within F y0 := by
    unfold y0
    refine within_ite (fun _ => ?_) (fun _ => ?_)
    · with_reducible assumption
    · refine put_within (hF.mono rfl) (not_configured rfl) ?_
      refine putFlag_within (hF.mono rfl) (not_configured rfl) ?_
      with_reducible assumption
  refine bump_within (hF.mono rfl) (not_configured rfl) ?_
  with_reducible assumption

theorem updDch_within {F : Part → Bool} {s : State} (hF : Part.All F [.dma]) {a1 : State} (a2) (a3) (k1 : s.Within F
    a1) :
    s.Within F (State.updDch a1 a2 a3) := by
  unfold State.updDch
  apply setDch_within (hF.mono rfl)
  with_reducible assumption

theorem issueRead_within {F : Part → Bool} {s : State} (hF : Part.All F [.regs, .hdrs, .irq, .fab, .dma]) {a1 : State}
    (a2) (k1 : s.Within F a1) :
    s.Within F (State.issueRead a1 a2) := by
  unfold State.issueRead
  extract_lets +onlyGivenNames y0
  split
  rename_i x1 x2 x3 e4
  extract_lets +onlyGivenNames y5
  extract_lets +onlyGivenNames y6
  have h7 : s.Within F y6 := by
    unfold y6
    refine within_dma (hF.one rfl) ?_
    with_reducible assumption
  extract_lets +onlyGivenNames y8
  have h9 : s.Within F y8 := by
    unfold y8
    apply setDch_within (hF.mono rfl)
    with_reducible assumption
  apply perfCount_within (hF.mono rfl)
  apply startRead_within (hF.mono rfl)
  with_reducible assumption

theorem dmaPoll_within {F : Part → Bool} {s : State} (hF : Part.All F [.regs, .hdrs, .irq, .fab, .dma]) {a1 : State}
    (a2) (k1 : s.Within F a1) :
    s.Within F (State.dmaPoll a1 a2) := by
  unfold State.dmaPoll
  extract_lets +onlyGivenNames y0
  extract_lets +onlyGivenNames y1
  refine within_ite (fun _ => ?_) (fun _ => ?_)
  · with_reducible assumption
  · apply startRead_within (hF.mono rfl)
    apply setDch_within (hF.mono rfl)
    with_reducible assumption

theorem dmaDrop_within {F : Part → Bool} {s : State} (hF : Part.All F [.regs, .fab, .dma]) {a1 : State} (a2) (k1 :
    s.Within F a1) :
    s.Within F (State.dmaDrop a1 a2) := by
  unfold State.dmaDrop
  extract_lets +onlyGivenNames y0
  have h1 : s.Within F y0 := by
    unfold y0
    apply dropXfers_within (hF.mono rfl)
    with_reducible assumption
  extract_lets +onlyGivenNames y2
  have h3 : s.Within F y2 := by
    unfold y2
    refine setReg_within (hF.mono rfl) (not_configured rfl) ?_
    refine setReg_within (hF.mono rfl) (not_configured rfl) ?_
    refine setReg_within (hF.mono rfl) (not_configured rfl) ?_
    with_reducible assumption
  extract_lets +onlyGivenNames y4
  have h5 : s.Within F y4 := by
    unfold y4
    refine setReg_within (hF.mono rfl) (not_configured rfl) ?_
    refine setReg_within (hF.mono rfl) (not_configured rfl) ?_
    refine setReg_within (hF.mono rfl) (not_configured rfl) ?_
    with_reducible assumption
  apply setDch_within (hF.mono rfl)
  refine putFlag_within (hF.mono rfl) (not_configured rfl) ?_
  with_reducible assumption

theorem issueWrite_within {F : Part → Bool} {s : State} (hF : Part.All F [.regs, .hdrs, .irq, .fab, .dma]) {a1 :
    State} (a2) (k1 : s.Within F a1) :
    s.Within F (State.issueWrite a1 a2) := by
  unfold State.issueWrite
  extract_lets +onlyGivenNames y0
  split
  rename_i x1 x2 x3 e4
  extract_lets +onlyGivenNames y5
  extract_lets +onlyGivenNames y6
  extract_lets +onlyGivenNames y7
  have h8 : s.Within F y7 := by
    unfold y7
    refine within_dma (hF.one rfl) ?_
    with_reducible assumption
  extract_lets +onlyGivenNames y9
  extract_lets +onlyGivenNames y10
  have h11 : s.Within F y10 := by
    unfold y10
    apply setDch_within (hF.mono rfl)
    with_reducible assumption
  apply perfCount_within (hF.mono rfl)
  apply startWrite_within (hF.mono rfl)
  with_reducible assumption

theorem dmaStatus_within {F : Part → Bool} {s : State} (hF : Part.All F [.regs, .hdrs, .irq, .fab, .dma]) {a1 : State}
    (a2) (a3) (k1 : s.Within F a1) :
    s.Within F (State.dmaStatus a1 a2 a3) := by
  unfold State.dmaStatus
  extract_lets +onlyGivenNames y0
  have h1 : s.Within F y0 := by
    unfold y0
    apply updDch_within (hF.mono rfl)
    with_reducible assumption
  refine within_ite (fun _ => ?_) (fun _ => ?_)
  · split
    · rename_i x2 x3 e4
      extract_lets +onlyGivenNames y5
      have h6 : s.Within F y5 := by
        unfold y5
        apply updDch_within (hF.mono rfl)
        with_reducible assumption
      apply startWrite_within (hF.mono rfl)
      with_reducible assumption
    · rename_i x7 e8
      with_reducible assumption
  · with_reducible assumption

theorem dmaBeatFails_within {F : Part → Bool} {s : State} (hF : Part.All F [.hdrs, .irq, .fab, .dma]) {a1 : State}
    (a2) (a3) (k1 : s.Within F a1) :
    s.Within F (State.dmaBeatFails a1 a2 a3) := by
  unfold State.dmaBeatFails
  extract_lets +onlyGivenNames y0
  have h1 : s.Within F y0 := by
    unfold y0
    apply lasting_within (hF.mono rfl)
    with_reducible assumption
  extract_lets +onlyGivenNames y2
  have h3 : s.Within F y2 := by
    unfold y2
    apply dropXfers_within (hF.mono rfl)
    with_reducible assumption
  apply updDch_within (hF.mono rfl)
  with_reducible assumption

theorem pumpDma_within {F : Part → Bool} {s : State} (hF : Part.All F [.regs, .hdrs, .irq, .fab, .dma]) {a1 : State}
    (a2) (k1 : s.Within F a1) :
    s.Within F (State.pumpDma a1 a2) := by
  induction' a2 with x ih generalizing a1
  · rw [State.pumpDma]
    with_reducible assumption
  · rw [State.pumpDma]
    split
    · rename_i x0 x1 e2 e3
      with_reducible assumption
    · rename_i x4 x5 e6
      extract_lets +onlyGivenNames y7
      have h8 : s.Within F y7 := by
        unfold y7
        split
        · rename_i x9 x10 e11
          apply issueRead_within (hF.mono rfl)
          with_reducible assumption
        · rename_i x12 e13
          with_reducible assumption
      extract_lets +onlyGivenNames y14
      have h15 : s.Within F y14 := by
        unfold y14
        split
        · rename_i x16 x17 e18
          apply issueWrite_within (hF.mono rfl)
          with_reducible assumption
        · rename_i x19 e20
          with_reducible assumption
      apply ih
      with_reducible assumption

theorem dmaWbFail_within {F : Part → Bool} {s : State} (hF : Part.All F [.regs, .hdrs, .irq, .dma]) {a1 : State} (a2)
    (k1 : s.Within F a1) :
    s.Within F (State.dmaWbFail a1 a2) := by
  unfold State.dmaWbFail
  apply updDch_within (hF.mono rfl)
  apply raiseFault_within (hF.mono rfl)
  apply dchError_within (hF.mono rfl)
  apply lasting_within (hF.mono rfl)
  with_reducible assumption

theorem dmaRetried_within {F : Part → Bool} {s : State} (hF : Part.All F [.hdrs, .irq, .dma]) {a1 : State} (a2) (a3)
    (k1 : s.Within F a1) :
    s.Within F (State.dmaRetried a1 a2 a3) := by
  unfold State.dmaRetried
  refine within_ite (fun _ => ?_) (fun _ => ?_)
  · apply transient_within (hF.mono rfl)
    apply updDch_within (hF.mono rfl)
    with_reducible assumption
  · with_reducible assumption

theorem dmaRingPoll_within {F : Part → Bool} {s : State} (hF : Part.All F [.regs, .hdrs, .irq, .fab, .dma]) {a1 :
    State} (a2) (k1 : s.Within F a1) :
    s.Within F (State.dmaRingPoll a1 a2) := by
  unfold State.dmaRingPoll
  refine within_ite (fun _ => ?_) (fun _ => ?_)
  · with_reducible assumption
  · apply dmaPoll_within (hF.mono rfl)
    with_reducible assumption

theorem dmaUnpoll_within {F : Part → Bool} {s : State} (hF : Part.All F [.fab, .dma]) {a1 : State} (a2) (k1 : s.Within
    F a1) :
    s.Within F (State.dmaUnpoll a1 a2).2 := by
  unfold State.dmaUnpoll
  refine within_pair_snd ?_
  apply updDch_within (hF.mono rfl)
  apply dropXfers_within (hF.mono rfl)
  with_reducible assumption

theorem dmaAbandon_within {F : Part → Bool} {s : State} (hF : Part.All F [.regs, .fab, .dma]) {a1 : State} (a2) (k1 :
    s.Within F a1) :
    s.Within F (State.dmaAbandon a1 a2) := by
  unfold State.dmaAbandon
  split
  rename_i x0 x1 u2 e3
  have h4 : s.Within F u2 := by
    refine within_snd e3 ?_
    apply takeFree_within (hF.mono rfl)
    apply dmaDrop_within (hF.mono rfl)
    with_reducible assumption
  apply updDch_within (hF.mono rfl)
  with_reducible assumption

theorem dmaW3Ends_within {F : Part → Bool} {s : State} (hF : Part.All F [.regs, .hdrs, .irq, .fab, .dma]) {a1 : State}
    (a2) (a3) (k1 : s.Within F a1) :
    s.Within F (State.dmaW3Ends a1 a2 a3).2 := by
  unfold State.dmaW3Ends
  refine within_ite_snd (fun _ => ?_) (fun _ => ?_)
  · refine within_pair_snd ?_
    with_reducible assumption
  · extract_lets +onlyGivenNames y0
    have h1 : s.Within F y0 := by
      unfold y0
      refine within_ite (fun _ => ?_) (fun _ => ?_)
      · apply transient_within (hF.mono rfl)
        with_reducible assumption
      · with_reducible assumption
    split
    · rename_i x2 x3 e4
      extract_lets +onlyGivenNames y5
      have h6 : s.Within F y5 := by
        unfold y5
        apply updDch_within (hF.mono rfl)
        with_reducible assumption
      refine within_pair_snd ?_
      apply startWrite_within (hF.mono rfl)
      with_reducible assumption
    · rename_i x7 e8
      refine within_pair_snd ?_
      with_reducible assumption

theorem dmaBeats_within {F : Part → Bool} {s : State} (hF : Part.All F [.regs, .hdrs, .irq, .fab, .dma]) {a1 : State}
    (k1 : s.Within F a1) :
    s.Within F (State.dmaBeats a1) := by
  unfold State.dmaBeats
  apply pumpDma_within (hF.mono rfl)
  with_reducible assumption

theorem dmaCheck_within {F : Part → Bool} {s : State} (hF : Part.All F [.regs, .hdrs, .irq, .fab, .dma]) {a1 : State}
    (a2) (k1 : s.Within F a1) :
    s.Within F (State.dmaCheck a1 a2) := by
  unfold State.dmaCheck
  extract_lets +onlyGivenNames y0
  refine within_ite (fun _ => ?_) (fun _ => ?_)
  · with_reducible assumption
  · refine within_ite (fun _ => ?_) (fun _ => ?_)
    · extract_lets +onlyGivenNames y1
      extract_lets +onlyGivenNames y2
      have h3 : s.Within F y2 := by
        unfold y2
        apply setDch_within (hF.mono rfl)
        with_reducible assumption
      apply within_foldl
      · intro u4 x5 h6
        apply startBarrier_within (hF.mono rfl)
        with_reducible assumption
      · with_reducible assumption
    · apply dmaStatus_within (hF.mono rfl)
      with_reducible assumption

theorem dmaBarrierEnds_within {F : Part → Bool} {s : State} (hF : Part.All F [.regs, .hdrs, .irq, .fab, .dma]) {a1 :
    State} (a2) (a3) (k1 : s.Within F a1) :
    s.Within F (State.dmaBarrierEnds a1 a2 a3) := by
  unfold State.dmaBarrierEnds
  extract_lets +onlyGivenNames y0
  have h1 : s.Within F y0 := by
    unfold y0
    apply dmaRetried_within (hF.mono rfl)
    with_reducible assumption
  extract_lets +onlyGivenNames y2
  have h3 : s.Within F y2 := by
    unfold y2
    refine within_ite (fun _ => ?_) (fun _ => ?_)
    · apply dmaBeatFails_within (hF.mono rfl)
      with_reducible assumption
    · with_reducible assumption
  extract_lets +onlyGivenNames y4
  have h5 : s.Within F y4 := by
    unfold y4
    apply updDch_within (hF.mono rfl)
    with_reducible assumption
  refine within_ite (fun _ => ?_) (fun _ => ?_)
  · apply dmaStatus_within (hF.mono rfl)
    with_reducible assumption
  · with_reducible assumption

theorem dmaRepoll_within {F : Part → Bool} {s : State} (hF : Part.All F [.regs, .hdrs, .irq, .fab, .dma]) {a1 : State}
    (a2) (k1 : s.Within F a1) :
    s.Within F (State.dmaRepoll a1 a2) := by
  unfold State.dmaRepoll
  split
  rename_i x0 x1 u2 e3
  have h4 : s.Within F u2 := by
    refine within_snd e3 ?_
    apply dmaUnpoll_within (hF.mono rfl)
    with_reducible assumption
  refine within_ite (fun _ => ?_) (fun _ => ?_)
  · apply dmaPoll_within (hF.mono rfl)
    with_reducible assumption
  · with_reducible assumption

theorem dmaStart_within {F : Part → Bool} {s : State} (hF : Part.All F [.regs, .hdrs, .irq, .fab, .dma]) {a1 : State}
    (a2) (k1 : s.Within F a1) :
    s.Within F (State.dmaStart a1 a2) := by
  unfold State.dmaStart
  split
  · rename_i x0 x1 e2
    apply dmaStatus_within (hF.mono rfl)
    apply updDch_within (hF.mono rfl)
    with_reducible assumption
  · rename_i x3 e4
    apply dmaBeats_within (hF.mono rfl)
    with_reducible assumption

theorem dmaWriteEnds_within {F : Part → Bool} {s : State} (hF : Part.All F [.regs, .hdrs, .irq, .fab, .dma]) {a1 :
    State} (a2) (a3) (a4) (a5) (k1 : s.Within F a1) :
    s.Within F (State.dmaWriteEnds a1 a2 a3 a4 a5) := by
  unfold State.dmaWriteEnds
  extract_lets +onlyGivenNames y0
  have h1 : s.Within F y0 := by
    unfold y0
    apply dmaRetried_within (hF.mono rfl)
    with_reducible assumption
  extract_lets +onlyGivenNames y2
  have h3 : s.Within F y2 := by
    unfold y2
    apply updDch_within (hF.mono rfl)
    with_reducible assumption
  extract_lets +onlyGivenNames y4
  have h5 : s.Within F y4 := by
    unfold y4
    refine within_ite (fun _ => ?_) (fun _ => ?_)
    · apply dmaBeatFails_within (hF.mono rfl)
      with_reducible assumption
    · with_reducible assumption
  apply dmaBeats_within (hF.mono rfl)
  apply dmaCheck_within (hF.mono rfl)
  with_reducible assumption

theorem dmaReadEnds_within {F : Part → Bool} {s : State} (hF : Part.All F [.regs, .hdrs, .irq, .fab, .dma]) {a1 :
    State} (a2) (a3) (a4) (k1 : s.Within F a1) :
    s.Within F (State.dmaReadEnds a1 a2 a3 a4) := by
  unfold State.dmaReadEnds
  extract_lets +onlyGivenNames y0
  have h1 : s.Within F y0 := by
    unfold y0
    apply dmaRetried_within (hF.mono rfl)
    with_reducible assumption
  refine within_ite (fun _ => ?_) (fun _ => ?_)
  · apply dmaCheck_within (hF.mono rfl)
    apply dmaBeatFails_within (hF.mono rfl)
    with_reducible assumption
  · extract_lets +onlyGivenNames y2
    apply dmaBeats_within (hF.mono rfl)
    apply updDch_within (hF.mono rfl)
    with_reducible assumption

theorem dmaCopy_within {F : Part → Bool} {s : State} (hF : Part.All F [.regs, .hdrs, .irq, .fab, .dma]) {a1 : State}
    (a2) (k1 : s.Within F a1) :
    s.Within F (State.dmaCopy a1 a2) := by
  unfold State.dmaCopy
  extract_lets +onlyGivenNames y0
  refine within_ite (fun _ => ?_) (fun _ => ?_)
  · apply setDch_within (hF.mono rfl)
    with_reducible assumption
  · extract_lets +onlyGivenNames y1
    have h2 : s.Within F y1 := by
      unfold y1
      refine setReg_within (hF.mono rfl) (not_configured rfl) ?_
      with_reducible assumption
    extract_lets +onlyGivenNames y3
    have h4 : s.Within F y3 := by
      unfold y3
      refine setReg_within (hF.mono rfl) (not_configured rfl) ?_
      with_reducible assumption
    extract_lets +onlyGivenNames y5
    have h6 : s.Within F y5 := by
      unfold y5
      refine setReg_within (hF.mono rfl) (not_configured rfl) ?_
      with_reducible assumption
    extract_lets +onlyGivenNames y7
    have h8 : s.Within F y7 := by
      unfold y7
      refine putFlag_within (hF.mono rfl) (not_configured rfl) ?_
      refine setReg_within (hF.mono rfl) (not_configured rfl) ?_
      refine setReg_within (hF.mono rfl) (not_configured rfl) ?_
      refine setReg_within (hF.mono rfl) (not_configured rfl) ?_
      with_reducible assumption
    extract_lets +onlyGivenNames y9
    have h10 : s.Within F y9 := by
      unfold y9
      apply setDch_within (hF.mono rfl)
      with_reducible assumption
    apply dmaStart_within (hF.mono rfl)
    with_reducible assumption

theorem dmaResume_within {F : Part → Bool} {s : State} (hF : Part.All F [.regs, .hdrs, .irq, .fab, .dma]) {a1 : State}
    (a2) (k1 : s.Within F a1) :
    s.Within F (State.dmaResume a1 a2) := by
  unfold State.dmaResume
  refine within_ite (fun _ => ?_) (fun _ => ?_)
  · apply dmaCopy_within (hF.mono rfl)
    apply updDch_within (hF.mono rfl)
    with_reducible assumption
  · with_reducible assumption

theorem dmaEnds_within {F : Part → Bool} {s : State} (hF : Part.All F [.regs, .hdrs, .irq, .crown, .fab, .dma]) {a1 :
    State} (a2) (k1 : s.Within F a1) :
    s.Within F (State.dmaEnds a1 a2) := by
  unfold State.dmaEnds
  extract_lets +onlyGivenNames y0
  split
  · rename_i x1 e2
    with_reducible assumption
  · rename_i x3 x4 e5
    extract_lets +onlyGivenNames y6
    have h7 : s.Within F y6 := by
      unfold y6
      refine setReg_within (hF.mono rfl) (not_configured rfl) ?_
      with_reducible assumption
    extract_lets +onlyGivenNames y8
    have h9 : s.Within F y8 := by
      unfold y8
      refine put_within (hF.mono rfl) (not_configured rfl) ?_
      with_reducible assumption
    extract_lets +onlyGivenNames y10
    extract_lets +onlyGivenNames y11
    have h12 : s.Within F y11 := by
      unfold y11
      refine within_ite (fun _ => ?_) (fun _ => ?_)
      · apply fnCount_within (hF.mono rfl)
        apply fnCount_within (hF.mono rfl)
        with_reducible assumption
      · with_reducible assumption
    extract_lets +onlyGivenNames y13
    have h14 : s.Within F y13 := by
      unfold y13
      apply setDch_within (hF.mono rfl)
      with_reducible assumption
    refine within_ite (fun _ => ?_) (fun _ => ?_)
    · extract_lets +onlyGivenNames y15
      have h16 : s.Within F y15 := by
        unfold y15
        refine within_ite (fun _ => ?_) (fun _ => ?_)
        · apply pushEvent_within (hF.mono rfl)
          apply raiseEvent_within (hF.mono rfl)
          with_reducible assumption
        · with_reducible assumption
      apply dmaCopy_within (hF.mono rfl)
      with_reducible assumption
    · extract_lets +onlyGivenNames y17
      have h18 : s.Within F y17 := by
        unfold y17
        apply dchError_within (hF.mono rfl)
        with_reducible assumption
      extract_lets +onlyGivenNames y19
      have h20 : s.Within F y19 := by
        unfold y19
        apply pushEvent_within (hF.mono rfl)
        apply raiseFault_within (hF.mono rfl)
        with_reducible assumption
      apply updDch_within (hF.mono rfl)
      with_reducible assumption

theorem dmaArmed_within {F : Part → Bool} {s : State} (hF : Part.All F [.regs, .hdrs, .irq, .fab, .dma]) {a1 : State}
    (a2) (k1 : s.Within F a1) :
    s.Within F (State.dmaArmed a1 a2) := by
  unfold State.dmaArmed
  refine within_ite (fun _ => ?_) (fun _ => ?_)
  · apply dmaCopy_within (hF.mono rfl)
    with_reducible assumption
  · with_reducible assumption

theorem dmaTransferEnd_within {F : Part → Bool} {s : State} (hF : Part.All F [.regs, .hdrs, .irq, .crown, .fab, .dma])
    {a1 : State} (a2) (k1 : s.Within F a1) :
    s.Within F (State.dmaTransferEnd a1 a2) := by
  unfold State.dmaTransferEnd
  refine within_ite (fun _ => ?_) (fun _ => ?_)
  · split
    · rename_i x0 x1 u2 e3
      have h4 : s.Within F u2 := by
        refine takeMail_within (hF.mono rfl) ?_ e3
        with_reducible assumption
      apply dmaEnds_within (hF.mono rfl)
      with_reducible assumption
    · rename_i x5 e6
      with_reducible assumption
  · refine within_ite (fun _ => ?_) (fun _ => ?_)
    · apply dmaEnds_within (hF.mono rfl)
      with_reducible assumption
    · with_reducible assumption

theorem dmaDescEnds_within {F : Part → Bool} {s : State} (hF : Part.All F [.regs, .hdrs, .irq, .fab, .dma]) {a1 :
    State} (a2) (a3) (k1 : s.Within F a1) :
    s.Within F (State.dmaDescEnds a1 a2 a3) := by
  unfold State.dmaDescEnds
  extract_lets +onlyGivenNames y0
  extract_lets +onlyGivenNames y1
  have h2 : s.Within F y1 := by
    unfold y1
    apply updDch_within (hF.mono rfl)
    with_reducible assumption
  refine within_ite (fun _ => ?_) (fun _ => ?_)
  · apply lasting_within (hF.mono rfl)
    with_reducible assumption
  · extract_lets +onlyGivenNames y3
    have h4 : s.Within F y3 := by
      unfold y3
      refine within_ite (fun _ => ?_) (fun _ => ?_)
      · apply transient_within (hF.mono rfl)
        with_reducible assumption
      · with_reducible assumption
    extract_lets +onlyGivenNames y5
    extract_lets +onlyGivenNames y6
    refine within_ite (fun _ => ?_) (fun _ => ?_)
    · with_reducible assumption
    · extract_lets +onlyGivenNames y7
      extract_lets +onlyGivenNames y8
      have h9 : s.Within F y8 := by
        unfold y8
        refine setReg_within (hF.mono rfl) (not_configured rfl) ?_
        refine setReg_within (hF.mono rfl) (not_configured rfl) ?_
        refine setReg_within (hF.mono rfl) (not_configured rfl) ?_
        with_reducible assumption
      extract_lets +onlyGivenNames y10
      have h11 : s.Within F y10 := by
        unfold y10
        refine put_within (hF.mono rfl) (not_configured rfl) ?_
        with_reducible assumption
      extract_lets +onlyGivenNames y12
      have h13 : s.Within F y12 := by
        unfold y12
        refine putFlag_within (hF.mono rfl) (not_configured rfl) ?_
        apply updDch_within (hF.mono rfl)
        with_reducible assumption
      apply dmaArmed_within (hF.mono rfl)
      with_reducible assumption

theorem dmaGoOn_within {F : Part → Bool} {s : State} (hF : Part.All F [.regs, .hdrs, .irq, .fab, .dma]) {a1 : State}
    (k1 : s.Within F a1) :
    s.Within F (State.dmaGoOn a1) := by
  unfold State.dmaGoOn
  refine within_ite (fun _ => ?_) (fun _ => ?_)
  · with_reducible assumption
  · apply within_foldl
    · intro u0 x1 h2
      refine within_ite (fun _ => ?_) (fun _ => ?_)
      · apply dmaArmed_within (hF.mono rfl)
        with_reducible assumption
      · with_reducible assumption
    · with_reducible assumption

theorem dmaHeadBack_within {F : Part → Bool} {s : State} (hF : Part.All F [.regs, .hdrs, .irq, .crown, .fab, .dma])
    {a1 : State} (a2) (k1 : s.Within F a1) :
    s.Within F (State.dmaHeadBack a1 a2) := by
  unfold State.dmaHeadBack
  refine within_ite (fun _ => ?_) (fun _ => ?_)
  · with_reducible assumption
  · extract_lets +onlyGivenNames y0
    have h1 : s.Within F y0 := by
      unfold y0
      apply dmaTransferEnd_within (hF.mono rfl)
      with_reducible assumption
    extract_lets +onlyGivenNames y2
    split
    · rename_i x3 x4 e5
      refine put_within (hF.mono rfl) (not_configured rfl) ?_
      with_reducible assumption
    · rename_i x6 e7
      with_reducible assumption

theorem dmaTampered_within {F : Part → Bool} {s : State} (hF : Part.All F [.regs, .hdrs, .irq, .crown, .fab, .dma])
    {a1 : State} (a2) (k1 : s.Within F a1) :
    s.Within F (State.dmaTampered a1 a2) := by
  unfold State.dmaTampered
  extract_lets +onlyGivenNames y0
  have h1 : s.Within F y0 := by
    unfold y0
    apply dmaHeadBack_within (hF.mono rfl)
    with_reducible assumption
  refine within_ite (fun _ => ?_) (fun _ => ?_)
  · apply dmaDrop_within (hF.mono rfl)
    with_reducible assumption
  · apply dmaAbandon_within (hF.mono rfl)
    with_reducible assumption

theorem dmaDisable_within {F : Part → Bool} {s : State} (hF : Part.All F [.regs, .hdrs, .irq, .crown, .fab, .dma]) {a1
    : State} (a2) (k1 : s.Within F a1) :
    s.Within F (State.dmaDisable a1 a2) := by
  unfold State.dmaDisable
  apply dmaAbandon_within (hF.mono rfl)
  apply dmaHeadBack_within (hF.mono rfl)
  with_reducible assumption

end Sys2Proof.Machine
end

