-- ==== Sys2Proof/Laws/FrameHatband.lean ====
section
/-! SUPPORT. The frames of the operations of Machine/Hatband.lean: the parts that each may change. -/

namespace Sys2Proof.Machine

set_option Elab.async false

theorem bypassSet_within {F : Part → Bool} {s : State} (hF : Part.All F [.regs, .hb]) {a1 : State} (a2) (k1 : s.Within
    F a1) :
    s.Within F (State.bypassSet a1 a2) := by
  unfold State.bypassSet
  refine within_ite (fun _ => ?_) (fun _ => ?_)
  · refine bump_within (hF.mono rfl) (not_configured rfl) ?_
    refine within_hb (hF.one rfl) ?_
    with_reducible assumption
  · refine within_hb (hF.one rfl) ?_
    with_reducible assumption

theorem closeLocks_within {F : Part → Bool} {s : State} (hF : Part.All F [.blocks, .hdrs]) {a1 : State} (k1 : s.Within
    F a1) :
    s.Within F (State.closeLocks a1) := by
  unfold State.closeLocks
  apply within_foldl
  · intro u0 x1 h2
    refine within_ite (fun _ => ?_) (fun _ => ?_)
    · with_reducible assumption
    · apply setHdrAt_within (hF.mono rfl)
      with_reducible assumption
  · with_reducible assumption

theorem upSynced_within {F : Part → Bool} {s : State} (hF : Part.All F [.hb]) {a1 : State} (k1 : s.Within F a1) :
    s.Within F (State.upSynced a1) := by
  unfold State.upSynced
  refine within_ite (fun _ => ?_) (fun _ => ?_)
  · with_reducible assumption
  · refine within_hb (hF.one rfl) ?_
    with_reducible assumption

theorem msgIn_within {F : Part → Bool} {s : State} (hF : Part.All F [.regs, .hdrs, .irq, .hb]) {a1 : State} (a2) (k1 :
    s.Within F a1) :
    s.Within F (State.msgIn a1 a2) := by
  unfold State.msgIn
  refine within_ite (fun _ => ?_) (fun _ => ?_)
  · refine bump_within (hF.mono rfl) (not_configured rfl) ?_
    with_reducible assumption
  · apply raiseEvent_within (hF.mono rfl)
    refine within_hb (hF.one rfl) ?_
    with_reducible assumption

theorem epochPend_within {F : Part → Bool} {s : State} (hF : Part.All F [.regs, .hdrs, .irq, .epoch]) {a1 : State}
    (a2) (k1 : s.Within F a1) :
    s.Within F (State.epochPend a1 a2) := by
  unfold State.epochPend
  extract_lets +onlyGivenNames y0
  extract_lets +onlyGivenNames y1
  have h2 : s.Within F y1 := by
    unfold y1
    refine within_epoch (hF.one rfl) ?_
    with_reducible assumption
  apply raiseEvent_within (hF.mono rfl)
  refine put_within (hF.mono rfl) (not_configured rfl) ?_
  with_reducible assumption

theorem clocked_within {F : Part → Bool} {s : State} (hF : Part.All F [.tile, .regs, .blocks, .hdrs, .rng, .key,
    .wrap]) {a1 : State} (k1 : s.Within F a1) :
    s.Within F (State.clocked a1) := by
  unfold State.clocked
  refine within_ite (fun _ => ?_) (fun _ => ?_)
  · apply enterTile_within (hF.mono rfl)
    with_reducible assumption
  · with_reducible assumption

theorem msgPop_within {F : Part → Bool} {s : State} (hF : Part.All F [.hb]) {a1 : State} (k1 : s.Within F a1) :
    s.Within F (State.msgPop a1) := by
  unfold State.msgPop
  refine within_hb (hF.one rfl) ?_
  with_reducible assumption

theorem elasticTake_within {F : Part → Bool} {s : State} (hF : Part.All F [.hb]) {a1 : State} (k1 : s.Within F a1) :
    s.Within F (State.elasticTake a1) := by
  unfold State.elasticTake
  extract_lets +onlyGivenNames y0
  refine within_ite (fun _ => ?_) (fun _ => ?_)
  · with_reducible assumption
  · split
    rename_i x1 x2 u3 e4
    have h5 : s.Within F u3 := by
      refine within_snd e4 ?_
      apply takeFree_within (hF.mono rfl)
      with_reducible assumption
    refine within_hb (hF.one rfl) ?_
    with_reducible assumption

theorem epochCancel_within {F : Part → Bool} {s : State} (hF : Part.All F [.hdrs, .irq, .epoch]) {a1 : State} (k1 :
    s.Within F a1) :
    s.Within F (State.epochCancel a1) := by
  unfold State.epochCancel
  refine within_ite (fun _ => ?_) (fun _ => ?_)
  · apply seq_within (hF.mono rfl)
    with_reducible assumption
  · refine within_epoch (hF.one rfl) ?_
    with_reducible assumption

theorem termCheck_within {F : Part → Bool} {s : State} (hF : Part.All F [.hdrs, .irq, .hb]) {a1 : State} (a2) (k1 :
    s.Within F a1) :
    s.Within F (State.termCheck a1 a2) := by
  unfold State.termCheck
  refine within_ite (fun _ => ?_) (fun _ => ?_)
  · with_reducible assumption
  · extract_lets +onlyGivenNames y0
    extract_lets +onlyGivenNames y1
    have h2 : s.Within F y1 := by
      unfold y1
      refine within_hb (hF.one rfl) ?_
      with_reducible assumption
    refine within_ite (fun _ => ?_) (fun _ => ?_)
    · with_reducible assumption
    · apply raiseFault_within (hF.mono rfl)
      with_reducible assumption

theorem timeStale_within {F : Part → Bool} {s : State} (hF : Part.All F [.hb]) {a1 : State} (k1 : s.Within F a1) :
    s.Within F (State.timeStale a1) := by
  unfold State.timeStale
  refine within_ite (fun _ => ?_) (fun _ => ?_)
  · with_reducible assumption
  · refine within_hb (hF.one rfl) ?_
    with_reducible assumption

theorem hbSend_within {F : Part → Bool} {s : State} (hF : Part.All F [.hb]) {a1 : State} (a2) (k1 : s.Within F a1) :
    s.Within F (State.hbSend a1 a2) := by
  unfold State.hbSend
  refine within_ite (fun _ => ?_) (fun _ => ?_)
  · with_reducible assumption
  · refine within_hb (hF.one rfl) ?_
    with_reducible assumption

theorem epochMissed_within {F : Part → Bool} {s : State} (hF : Part.All F [.hdrs, .irq]) {a1 : State} (k1 : s.Within F
    a1) :
    s.Within F (State.epochMissed a1) := by
  unfold State.epochMissed
  apply raiseEvent_within (hF.mono rfl)
  with_reducible assumption

theorem hbIgnored_within {F : Part → Bool} {s : State} (hF : Part.All F [.regs]) {a1 : State} (k1 : s.Within F a1) :
    s.Within F (State.hbIgnored a1) := by
  unfold State.hbIgnored
  refine bump_within (hF.mono rfl) (not_configured rfl) ?_
  with_reducible assumption

theorem countReaches_within {F : Part → Bool} {s : State} (hF : Part.All F [.hb]) {a1 : State} (a2) (k1 : s.Within F
    a1) :
    s.Within F (State.countReaches a1 a2) := by
  unfold State.countReaches
  refine within_hb (hF.one rfl) ?_
  with_reducible assumption

theorem holdIn_within {F : Part → Bool} {s : State} (hF : Part.All F [.hb]) {a1 : State} (k1 : s.Within F a1) :
    s.Within F (State.holdIn a1) := by
  unfold State.holdIn
  refine within_ite (fun _ => ?_) (fun _ => ?_)
  · refine within_hb (hF.one rfl) ?_
    with_reducible assumption
  · with_reducible assumption

theorem epochAsk_within {F : Part → Bool} {s : State} (hF : Part.All F [.regs, .hdrs, .irq, .epoch]) {a1 : State} (a2)
    (a3) (a4) (a5) (k1 : s.Within F a1) :
    s.Within F (State.epochAsk a1 a2 a3 a4 a5).2 := by
  unfold State.epochAsk
  extract_lets +onlyGivenNames y0
  have h1 : s.Within F y0.2 := by
    unfold y0
    refine within_pair_snd ?_
    refine putFlag_within (hF.mono rfl) (not_configured rfl) ?_
    with_reducible assumption
  extract_lets +onlyGivenNames y2
  refine within_ite_snd (fun _ => ?_) (fun _ => ?_)
  · with_reducible assumption
  · refine within_ite_snd (fun _ => ?_) (fun _ => ?_)
    · with_reducible assumption
    · refine within_ite_snd (fun _ => ?_) (fun _ => ?_)
      · refine within_pair_snd ?_
        apply epochMissed_within (hF.mono rfl)
        refine putFlag_within (hF.mono rfl) (not_configured rfl) ?_
        with_reducible assumption
      · refine within_ite_snd (fun _ => ?_) (fun _ => ?_)
        · with_reducible assumption
        · extract_lets +onlyGivenNames y3
          extract_lets +onlyGivenNames y4
          have h5 : s.Within F y4 := by
            unfold y4
            refine within_ite (fun _ => ?_) (fun _ => ?_)
            · with_reducible assumption
            · apply epochPend_within (hF.mono rfl)
              with_reducible assumption
          refine within_ite_snd (fun _ => ?_) (fun _ => ?_)
          · refine within_pair_snd ?_
            extract_lets +onlyGivenNames y6
            have h7 : s.Within F y6 := by
              unfold y6
              refine put_within (hF.mono rfl) (not_configured rfl) ?_
              with_reducible assumption
            refine within_epoch (hF.one rfl) ?_
            with_reducible assumption
          · refine within_pair_snd ?_
            with_reducible assumption

theorem hbEnum_within {F : Part → Bool} {s : State} (hF : Part.All F [.addr, .tile, .regs, .blocks, .hdrs, .irq, .rng,
    .key, .hb, .wrap]) {a1 : State} (a2) (k1 : s.Within F a1) :
    s.Within F (State.hbEnum a1 a2) := by
  unfold State.hbEnum
  refine within_ite (fun _ => ?_) (fun _ => ?_)
  · with_reducible assumption
  · extract_lets +onlyGivenNames y0
    have h1 : s.Within F y0 := by
      unfold y0
      refine within_ite (fun _ => ?_) (fun _ => ?_)
      · refine putFlag_within (hF.mono rfl) (not_configured rfl) ?_
        with_reducible assumption
      · with_reducible assumption
    extract_lets +onlyGivenNames y2
    extract_lets +onlyGivenNames y3
    extract_lets +onlyGivenNames y4
    have h5 : s.Within F y4 := by
      unfold y4
      refine within_mk ?_ (.inl (hF.one rfl)) (.inl (hF.one rfl)) (.inr rfl) (.inr rfl) (.inr rfl) (.inr rfl) (.inr rfl) (.inr rfl) (.inr rfl) (.inr rfl) (.inr rfl) (.inr rfl) (.inr rfl) (.inr rfl) (.inr ⟨rfl, rfl, rfl⟩) (.inr rfl) (.inl (hF.one rfl)) (.inr rfl) (.inr rfl) (.inr rfl) (.inr rfl) (.inr rfl) (.inr rfl)
      with_reducible assumption
    extract_lets +onlyGivenNames y6
    have h7 : s.Within F y6 := by
      unfold y6
      refine within_ite (fun _ => ?_) (fun _ => ?_)
      · apply clocked_within (hF.mono rfl)
        apply enterTile_within (hF.mono rfl)
        with_reducible assumption
      · with_reducible assumption
    apply raiseEvent_within (hF.mono rfl)
    with_reducible assumption

theorem timeReaches_within {F : Part → Bool} {s : State} (hF : Part.All F [.regs, .hb]) {a1 : State} (a2) (k1 :
    s.Within F a1) :
    s.Within F (State.timeReaches a1 a2) := by
  unfold State.timeReaches
  extract_lets +onlyGivenNames y0
  split
  rename_i x1 x2 x3 e4
  extract_lets +onlyGivenNames y5
  extract_lets +onlyGivenNames y6
  have h7 : s.Within F y6 := by
    unfold y6
    apply countReaches_within (hF.mono rfl)
    with_reducible assumption
  extract_lets +onlyGivenNames y8
  extract_lets +onlyGivenNames y9
  have h10 : s.Within F y9 := by
    unfold y9
    refine within_hb (hF.one rfl) ?_
    with_reducible assumption
  refine bump_within (hF.mono rfl) (not_configured rfl) ?_
  with_reducible assumption

theorem msgGo_within {F : Part → Bool} {s : State} (hF : Part.All F [.regs, .hdrs, .irq, .hb]) {a1 : State} (k1 :
    s.Within F a1) :
    s.Within F (State.msgGo a1) := by
  unfold State.msgGo
  extract_lets +onlyGivenNames y0
  refine within_ite (fun _ => ?_) (fun _ => ?_)
  · apply seq_within (hF.mono rfl)
    with_reducible assumption
  · refine within_ite (fun _ => ?_) (fun _ => ?_)
    · apply hbIgnored_within (hF.mono rfl)
      with_reducible assumption
    · extract_lets +onlyGivenNames y1
      split
      · rename_i x2 e3
        refine within_hb (hF.one rfl) ?_
        with_reducible assumption
      · rename_i x4 x5 e6
        apply hbIgnored_within (hF.mono rfl)
        with_reducible assumption

theorem flipTaken_within {F : Part → Bool} {s : State} (hF : Part.All F [.regs, .hdrs, .irq, .epoch]) {a1 : State} (k1
    : s.Within F a1) :
    s.Within F (State.flipTaken a1) := by
  unfold State.flipTaken
  refine within_ite (fun _ => ?_) (fun _ => ?_)
  · extract_lets +onlyGivenNames y0
    extract_lets +onlyGivenNames y1
    have h2 : s.Within F y1 := by
      unfold y1
      refine within_epoch (hF.one rfl) ?_
      with_reducible assumption
    apply epochMissed_within (hF.mono rfl)
    refine bump_within (hF.mono rfl) (not_configured rfl) ?_
    refine putFlag_within (hF.mono rfl) (not_configured rfl) ?_
    with_reducible assumption
  · extract_lets +onlyGivenNames y3
    have h4 : s.Within F y3 := by
      unfold y3
      refine put_within (hF.mono rfl) (not_configured rfl) ?_
      refine put_within (hF.mono rfl) (not_configured rfl) ?_
      with_reducible assumption
    extract_lets +onlyGivenNames y5
    extract_lets +onlyGivenNames y6
    have h7 : s.Within F y6 := by
      unfold y6
      refine within_epoch (hF.one rfl) ?_
      with_reducible assumption
    extract_lets +onlyGivenNames y8
    have h9 : s.Within F y8 := by
      unfold y8
      refine putFlag_within (hF.mono rfl) (not_configured rfl) ?_
      with_reducible assumption
    extract_lets +onlyGivenNames y10
    have h11 : s.Within F y10 := by
      unfold y10
      apply raiseEvent_within (hF.mono rfl)
      with_reducible assumption
    extract_lets +onlyGivenNames y12
    extract_lets +onlyGivenNames y13
    have h14 : s.Within F y13 := by
      unfold y13
      refine putFlag_within (hF.mono rfl) (not_configured rfl) ?_
      with_reducible assumption
    refine within_ite (fun _ => ?_) (fun _ => ?_)
    · apply epochMissed_within (hF.mono rfl)
      with_reducible assumption
    · with_reducible assumption

theorem hbStomp_within {F : Part → Bool} {s : State} (hF : Part.All F [.hb]) {a1 : State} (a2) (k1 : s.Within F a1) :
    s.Within F (State.hbStomp a1 a2) := by
  unfold State.hbStomp
  extract_lets +onlyGivenNames y0
  have h1 : s.Within F y0 := by
    unfold y0
    apply elasticTake_within (hF.mono rfl)
    with_reducible assumption
  extract_lets +onlyGivenNames y2
  refine within_ite (fun _ => ?_) (fun _ => ?_)
  · with_reducible assumption
  · refine within_hb (hF.one rfl) ?_
    with_reducible assumption

theorem ownSend_within {F : Part → Bool} {s : State} (hF : Part.All F [.hb]) {a1 : State} (k1 : s.Within F a1) :
    s.Within F (State.ownSend a1) := by
  unfold State.ownSend
  split
  · rename_i x0 e1
    with_reducible assumption
  · rename_i x2 x3 e4
    refine within_ite (fun _ => ?_) (fun _ => ?_)
    · extract_lets +onlyGivenNames y5
      have h6 : s.Within F y5 := by
        unfold y5
        apply hbSend_within (hF.mono rfl)
        with_reducible assumption
      refine within_hb (hF.one rfl) ?_
      with_reducible assumption
    · with_reducible assumption

theorem hbRenum_within {F : Part → Bool} {s : State} (hF : Part.All F [.addr, .tile, .regs, .blocks, .hdrs, .rng,
    .key, .wrap]) {a1 : State} (k1 : s.Within F a1) :
    s.Within F (State.hbRenum a1) := by
  unfold State.hbRenum
  extract_lets +onlyGivenNames y0
  extract_lets +onlyGivenNames y1
  have h2 : s.Within F y1 := by
    unfold y1
    refine within_addr (hF.one rfl) (hF.one rfl) ?_
    with_reducible assumption
  extract_lets +onlyGivenNames y3
  have h4 : s.Within F y3 := by
    unfold y3
    apply closeLocks_within (hF.mono rfl)
    with_reducible assumption
  refine within_ite (fun _ => ?_) (fun _ => ?_)
  · apply enterTile_within (hF.mono rfl)
    with_reducible assumption
  · with_reducible assumption

theorem originateZeroize_within {F : Part → Bool} {s : State} (hF : Part.All F [.regs, .hb]) {a1 : State} (k1 :
    s.Within F a1) :
    s.Within F (State.originateZeroize a1) := by
  unfold State.originateZeroize
  refine within_ite (fun _ => ?_) (fun _ => ?_)
  · with_reducible assumption
  · extract_lets +onlyGivenNames y0
    have h1 : s.Within F y0 := by
      unfold y0
      refine within_ite (fun _ => ?_) (fun _ => ?_)
      · apply hbIgnored_within (hF.mono rfl)
        with_reducible assumption
      · with_reducible assumption
    refine within_hb (hF.one rfl) ?_
    with_reducible assumption

theorem hbPass_within {F : Part → Bool} {s : State} (hF : Part.All F [.hb]) {a1 : State} (a2) (k1 : s.Within F a1) :
    s.Within F (State.hbPass a1 a2) := by
  unfold State.hbPass
  extract_lets +onlyGivenNames y0
  have h1 : s.Within F y0 := by
    unfold y0
    apply elasticTake_within (hF.mono rfl)
    with_reducible assumption
  apply hbSend_within (hF.mono rfl)
  with_reducible assumption

theorem guardClose_within {F : Part → Bool} {s : State} (hF : Part.All F [.regs, .hb]) {a1 : State} (k1 : s.Within F
    a1) :
    s.Within F (State.guardClose a1) := by
  unfold State.guardClose
  refine within_ite (fun _ => ?_) (fun _ => ?_)
  · apply timeReaches_within (hF.mono rfl)
    with_reducible assumption
  · with_reducible assumption

theorem epochFlipDue_within {F : Part → Bool} {s : State} (hF : Part.All F [.regs, .hdrs, .irq, .epoch, .hb]) {a1 :
    State} (k1 : s.Within F a1) :
    s.Within F (State.epochFlipDue a1) := by
  unfold State.epochFlipDue
  refine within_ite (fun _ => ?_) (fun _ => ?_)
  · apply flipTaken_within (hF.mono rfl)
    apply timeReaches_within (hF.mono rfl)
    with_reducible assumption
  · with_reducible assumption

theorem hbReceive_within {F : Part → Bool} {s : State} (hF : Part.All F [.regs, .hb]) {a1 : State} (a2) (k1 : s.Within
    F a1) :
    s.Within F (State.hbReceive a1 a2).2 := by
  unfold State.hbReceive
  refine within_ite_snd (fun _ => ?_) (fun _ => ?_)
  · refine within_pair_snd ?_
    with_reducible assumption
  · extract_lets +onlyGivenNames y0
    extract_lets +onlyGivenNames y1
    extract_lets +onlyGivenNames y2
    have h3 : s.Within F y2 := by
      unfold y2
      apply hbPass_within (hF.mono rfl)
      with_reducible assumption
    refine within_ite_snd (fun _ => ?_) (fun _ => ?_)
    · refine within_pair_snd ?_
      with_reducible assumption
    · refine within_ite_snd (fun _ => ?_) (fun _ => ?_)
      · refine within_pair_snd ?_
        apply hbIgnored_within (hF.mono rfl)
        with_reducible assumption
      · refine within_ite_snd (fun _ => ?_) (fun _ => ?_)
        · refine within_pair_snd ?_
          with_reducible assumption
        · extract_lets +onlyGivenNames y4
          extract_lets +onlyGivenNames y5
          refine within_ite_snd (fun _ => ?_) (fun _ => ?_)
          · refine within_pair_snd ?_
            refine within_ite (fun _ => ?_) (fun _ => ?_)
            · apply hbIgnored_within (hF.mono rfl)
              with_reducible assumption
            · with_reducible assumption
          · refine within_ite_snd (fun _ => ?_) (fun _ => ?_)
            · refine within_pair_snd ?_
              apply hbIgnored_within (hF.mono rfl)
              with_reducible assumption
            · refine within_ite_snd (fun _ => ?_) (fun _ => ?_)
              · refine within_pair_snd ?_
                apply hbIgnored_within (hF.mono rfl)
                with_reducible assumption
              · refine within_pair_snd ?_
                with_reducible assumption

theorem cellCut_within {F : Part → Bool} {s : State} (hF : Part.All F [.hb]) {a1 : State} (k1 : s.Within F a1) :
    s.Within F (State.cellCut a1) := by
  unfold State.cellCut
  split
  rename_i x0 x1 u2 e3
  have h4 : s.Within F u2 := by
    refine within_snd e3 ?_
    apply takeFree_within (hF.mono rfl)
    with_reducible assumption
  extract_lets +onlyGivenNames y5
  refine within_ite (fun _ => ?_) (fun _ => ?_)
  · apply hbStomp_within (hF.mono rfl)
    with_reducible assumption
  · with_reducible assumption

theorem epochCell_within {F : Part → Bool} {s : State} (hF : Part.All F [.regs, .hdrs, .irq, .epoch]) {a1 : State}
    (a2) (k1 : s.Within F a1) :
    s.Within F (State.epochCell a1 a2) := by
  unfold State.epochCell
  refine within_ite (fun _ => ?_) (fun _ => ?_)
  · apply epochAsk_within (hF.mono rfl)
    with_reducible assumption
  · with_reducible assumption

theorem cellStomped_within {F : Part → Bool} {s : State} (hF : Part.All F [.regs, .hb]) {a1 : State} (a2) (k1 :
    s.Within F a1) :
    s.Within F (State.cellStomped a1 a2) := by
  unfold State.cellStomped
  refine within_ite (fun _ => ?_) (fun _ => ?_)
  · refine bump_within (hF.mono rfl) (not_configured rfl) ?_
    apply hbStomp_within (hF.mono rfl)
    with_reducible assumption
  · with_reducible assumption

theorem tick_within {F : Part → Bool} {s : State} (hF : Part.All F [.regs, .hdrs, .irq, .epoch, .hb]) {a1 : State} (k1
    : s.Within F a1) :
    s.Within F (State.tick a1) := by
  unfold State.tick
  refine within_ite (fun _ => ?_) (fun _ => ?_)
  · with_reducible assumption
  · split
    rename_i x0 x1 x2 e3
    extract_lets +onlyGivenNames y4
    extract_lets +onlyGivenNames y5
    extract_lets +onlyGivenNames y6
    have h7 : s.Within F y6 := by
      unfold y6
      refine within_ite (fun _ => ?_) (fun _ => ?_)
      · apply flipTaken_within (hF.mono rfl)
        apply countReaches_within (hF.mono rfl)
        with_reducible assumption
      · with_reducible assumption
    extract_lets +onlyGivenNames y8
    extract_lets +onlyGivenNames y9
    have h10 : s.Within F y9 := by
      unfold y9
      refine within_hb (hF.one rfl) ?_
      with_reducible assumption
    refine bump_within (hF.mono rfl) (not_configured rfl) ?_
    with_reducible assumption

theorem epochArm_within {F : Part → Bool} {s : State} (hF : Part.All F [.regs, .hdrs, .irq, .epoch]) {a1 : State} (a2)
    (k1 : s.Within F a1) :
    s.Within F (State.epochArm a1 a2) := by
  unfold State.epochArm
  split
  rename_i x0 x1 u2 e3
  have h4 : s.Within F u2 := by
    refine within_snd e3 ?_
    apply epochAsk_within (hF.mono rfl)
    with_reducible assumption
  refine within_ite (fun _ => ?_) (fun _ => ?_)
  · apply seq_within (hF.mono rfl)
    with_reducible assumption
  · with_reducible assumption

theorem cellCrcFail_within {F : Part → Bool} {s : State} (hF : Part.All F [.regs, .hdrs, .irq, .hb]) {a1 : State} (a2)
    (a3) (k1 : s.Within F a1) :
    s.Within F (State.cellCrcFail a1 a2 a3) := by
  unfold State.cellCrcFail
  refine within_ite (fun _ => ?_) (fun _ => ?_)
  · apply raiseFault_within (hF.mono rfl)
    refine bump_within (hF.mono rfl) (not_configured rfl) ?_
    apply hbStomp_within (hF.mono rfl)
    with_reducible assumption
  · with_reducible assumption

theorem upLoss_within {F : Part → Bool} {s : State} (hF : Part.All F [.hdrs, .irq, .hb]) {a1 : State} (k1 :
    s.Within F a1) :
    s.Within F (State.upLoss a1) := by
  unfold State.upLoss
  refine within_ite (fun _ => ?_) (fun _ => ?_)
  · with_reducible assumption
  · extract_lets +onlyGivenNames y0
    have h1 : s.Within F y0 := by
      unfold y0
      refine within_ite (fun _ => ?_) (fun _ => ?_)
      · apply cellCut_within (hF.mono rfl)
        with_reducible assumption
      · with_reducible assumption
    apply raiseFault_within (hF.mono rfl)
    refine within_hb (hF.one rfl) ?_
    with_reducible assumption

theorem flipIfPassed_within {F : Part → Bool} {s : State} (hF : Part.All F [.regs, .hdrs, .irq, .epoch, .hb]) {a1 :
    State} (k1 : s.Within F a1) :
    s.Within F (State.flipIfPassed a1) := by
  unfold State.flipIfPassed
  refine within_ite (fun _ => ?_) (fun _ => ?_)
  · apply epochFlipDue_within (hF.mono rfl)
    with_reducible assumption
  · with_reducible assumption

theorem hbTime_within {F : Part → Bool} {s : State} (hF : Part.All F [.regs, .hdrs, .irq, .epoch, .hb]) {a1 : State}
    (a2) (k1 : s.Within F a1) :
    s.Within F (State.hbTime a1 a2) := by
  unfold State.hbTime
  extract_lets +onlyGivenNames y0
  extract_lets +onlyGivenNames y1
  extract_lets +onlyGivenNames y2
  extract_lets +onlyGivenNames y3
  extract_lets +onlyGivenNames y4
  extract_lets +onlyGivenNames y5
  have h6 : s.Within F y5 := by
    unfold y5
    refine within_hb (hF.one rfl) ?_
    with_reducible assumption
  extract_lets +onlyGivenNames y7
  have h8 : s.Within F y7 := by
    unfold y7
    refine put_within (hF.mono rfl) (not_configured rfl) ?_
    refine put_within (hF.mono rfl) (not_configured rfl) ?_
    refine put_within (hF.mono rfl) (not_configured rfl) ?_
    with_reducible assumption
  refine within_ite (fun _ => ?_) (fun _ => ?_)
  · extract_lets +onlyGivenNames y9
    have h10 : s.Within F y9 := by
      unfold y9
      apply raiseEvent_within (hF.mono rfl)
      refine bump_within (hF.mono rfl) (not_configured rfl) ?_
      refine put_within (hF.mono rfl) (not_configured rfl) ?_
      with_reducible assumption
    apply flipIfPassed_within (hF.mono rfl)
    with_reducible assumption
  · with_reducible assumption

end Sys2Proof.Machine
end

