-- ==== Sys2Proof/Laws/FrameRings.lean ====
section
/-! SUPPORT. The frames of the operations of Machine/Rings.lean: the parts that each may change. -/

namespace Sys2Proof.Machine

set_option Elab.async false

theorem rqKick_within {F : Part → Bool} {s : State} (hF : Part.All F [.regs, .hdrs, .irq, .qeng, .fab]) {a1 : State}
    (a2) (k1 : s.Within F a1) :
    s.Within F (State.rqKick a1 a2) := by
  unfold State.rqKick
  extract_lets +onlyGivenNames y0
  refine within_ite (fun _ => ?_) (fun _ => ?_)
  · extract_lets +onlyGivenNames y1
    apply rqRead_within (hF.mono rfl)
    apply setRq_within (hF.mono rfl)
    with_reducible assumption
  · with_reducible assumption

theorem rqDisable_within {F : Part → Bool} {s : State} (hF : Part.All F [.regs, .qeng, .fab, .perf]) {a1 : State} (a2)
    (k1 : s.Within F a1) :
    s.Within F (State.rqDisable a1 a2) := by
  unfold State.rqDisable
  extract_lets +onlyGivenNames y0
  split
  · rename_i x1 e2
    extract_lets +onlyGivenNames y3
    have h4 : s.Within F y3 := by
      unfold y3
      refine putFlag_within (hF.mono rfl) (not_configured rfl) ?_
      with_reducible assumption
    apply rqDrainEnd_within (hF.mono rfl)
    apply setRq_within (hF.mono rfl)
    with_reducible assumption
  · rename_i x5 e6
    extract_lets +onlyGivenNames y7
    have h8 : s.Within F y7 := by
      unfold y7
      refine putFlag_within (hF.mono rfl) (not_configured rfl) ?_
      with_reducible assumption
    apply rqDrainEnd_within (hF.mono rfl)
    apply setRq_within (hF.mono rfl)
    with_reducible assumption
  · rename_i x9 e10
    extract_lets +onlyGivenNames y11
    have h12 : s.Within F y11 := by
      unfold y11
      refine putFlag_within (hF.mono rfl) (not_configured rfl) ?_
      with_reducible assumption
    apply rqDrainEnd_within (hF.mono rfl)
    apply setRq_within (hF.mono rfl)
    with_reducible assumption
  · rename_i x13 e14
    extract_lets +onlyGivenNames y15
    have h16 : s.Within F y15 := by
      unfold y15
      apply untag_within (hF.mono rfl)
      refine putFlag_within (hF.mono rfl) (not_configured rfl) ?_
      refine putFlag_within (hF.mono rfl) (not_configured rfl) ?_
      with_reducible assumption
    apply setRq_within (hF.mono rfl)
    with_reducible assumption
  · rename_i x17 e18 e19 e20 e21
    refine putFlag_within (hF.mono rfl) (not_configured rfl) ?_
    with_reducible assumption

theorem cqConsume_within {F : Part → Bool} {s : State} (hF : Part.All F [.regs, .hdrs, .irq, .qeng, .crown, .fab,
    .perf]) {a1 : State} (a2) (a3) (k1 : s.Within F a1) :
    s.Within F (State.cqConsume a1 a2 a3) := by
  unfold State.cqConsume
  extract_lets +onlyGivenNames y0
  extract_lets +onlyGivenNames y1
  refine within_ite (fun _ => ?_) (fun _ => ?_)
  · extract_lets +onlyGivenNames y2
    refine within_ite (fun _ => ?_) (fun _ => ?_)
    · extract_lets +onlyGivenNames y3
      have h4 : s.Within F y3 := by
        unfold y3
        refine put_within (hF.mono rfl) (not_configured rfl) ?_
        with_reducible assumption
      extract_lets +onlyGivenNames y5
      have h6 : s.Within F y5 := by
        unfold y5
        apply setCq_within (hF.mono rfl)
        with_reducible assumption
      refine within_ite (fun _ => ?_) (fun _ => ?_)
      · with_reducible assumption
      · apply writeHeld_within (hF.mono rfl)
        with_reducible assumption
    · refine putFlag_within (hF.mono rfl) (not_configured rfl) ?_
      with_reducible assumption
  · refine put_within (hF.mono rfl) (not_configured rfl) ?_
    with_reducible assumption

theorem cqDisable_within {F : Part → Bool} {s : State} (hF : Part.All F [.regs, .hdrs, .irq, .crown]) {a1 : State}
    (a2) (k1 : s.Within F a1) :
    s.Within F (State.cqDisable a1 a2) := by
  unfold State.cqDisable
  extract_lets +onlyGivenNames y0
  split
  · rename_i x1 e2
    refine within_ite (fun _ => ?_) (fun _ => ?_)
    · apply cqDrainEnd_within (hF.mono rfl)
      apply setCq_within (hF.mono rfl)
      refine putFlag_within (hF.mono rfl) (not_configured rfl) ?_
      with_reducible assumption
    · apply seq_within (hF.mono rfl)
      with_reducible assumption
  · rename_i x3 e4
    apply setCq_within (hF.mono rfl)
    refine putFlag_within (hF.mono rfl) (not_configured rfl) ?_
    refine putFlag_within (hF.mono rfl) (not_configured rfl) ?_
    with_reducible assumption
  · rename_i x5 e6 e7
    refine putFlag_within (hF.mono rfl) (not_configured rfl) ?_
    with_reducible assumption

theorem emptyPoll_within {F : Part → Bool} {s : State} (hF : Part.All F [.qeng]) {a1 : State} (a2) (k1 : s.Within F
    a1) :
    s.Within F (State.emptyPoll a1 a2) := by
  unfold State.emptyPoll
  extract_lets +onlyGivenNames y0
  extract_lets +onlyGivenNames y1
  refine within_ite (fun _ => ?_) (fun _ => ?_)
  · apply setRq_within (hF.mono rfl)
    with_reducible assumption
  · extract_lets +onlyGivenNames y2
    extract_lets +onlyGivenNames y3
    refine within_ite (fun _ => ?_) (fun _ => ?_)
    · apply setRq_within (hF.mono rfl)
      with_reducible assumption
    · apply setRq_within (hF.mono rfl)
      with_reducible assumption

theorem tagAccept_within {F : Part → Bool} {s : State} (hF : Part.All F [.regs, .hdrs, .irq, .perf]) {a1 : State} (a2)
    (a3) (k1 : s.Within F a1) :
    s.Within F (State.tagAccept a1 a2 a3).2 := by
  unfold State.tagAccept
  refine within_ite_snd (fun _ => ?_) (fun _ => ?_)
  · refine within_pair_snd ?_
    with_reducible assumption
  · extract_lets +onlyGivenNames y0
    extract_lets +onlyGivenNames y1
    extract_lets +onlyGivenNames y2
    extract_lets +onlyGivenNames y3
    have h4 : s.Within F y3 := by
      unfold y3
      refine within_perf (hF.one rfl) ?_
      with_reducible assumption
    extract_lets +onlyGivenNames y5
    extract_lets +onlyGivenNames y6
    refine within_ite_snd (fun _ => ?_) (fun _ => ?_)
    · refine within_ite_snd (fun _ => ?_) (fun _ => ?_)
      · refine within_pair_snd ?_
        apply perfCount_within (hF.mono rfl)
        with_reducible assumption
      · extract_lets +onlyGivenNames y7
        extract_lets +onlyGivenNames y8
        have h9 : s.Within F y8 := by
          unfold y8
          refine within_perf (hF.one rfl) ?_
          with_reducible assumption
        refine within_pair_snd ?_
        apply fnCount_within (hF.mono rfl)
        apply perfCount_within (hF.mono rfl)
        with_reducible assumption
    · refine within_pair_snd ?_
      with_reducible assumption

theorem chainFenced_within {F : Part → Bool} {s : State} (hF : Part.All F [.regs, .hdrs, .irq, .qeng, .crown, .fab])
    {a1 : State} (a2) (a3) (k1 : s.Within F a1) :
    s.Within F (State.chainFenced a1 a2 a3) := by
  unfold State.chainFenced
  extract_lets +onlyGivenNames y0
  have h1 : s.Within F y0 := by
    unfold y0
    apply abortChain_within (hF.mono rfl)
    with_reducible assumption
  split
  · rename_i x2 e3
    with_reducible assumption
  · rename_i x4 x5 x6 e7
    apply fnCount_within (hF.mono rfl)
    with_reducible assumption

theorem rqEnable_within {F : Part → Bool} {s : State} (hF : Part.All F [.regs, .hdrs, .irq, .qeng, .fab]) {a1 : State}
    (a2) (k1 : s.Within F a1) :
    s.Within F (State.rqEnable a1 a2) := by
  unfold State.rqEnable
  extract_lets +onlyGivenNames y0
  split
  · rename_i x1 e2
    refine within_ite (fun _ => ?_) (fun _ => ?_)
    · extract_lets +onlyGivenNames y3
      have h4 : s.Within F y3 := by
        unfold y3
        refine putFlag_within (hF.mono rfl) (not_configured rfl) ?_
        with_reducible assumption
      extract_lets +onlyGivenNames y5
      extract_lets +onlyGivenNames y6
      have h7 : s.Within F y6 := by
        unfold y6
        apply setRq_within (hF.mono rfl)
        with_reducible assumption
      apply rqRead_within (hF.mono rfl)
      with_reducible assumption
    · apply seq_within (hF.mono rfl)
      refine putFlag_within (hF.mono rfl) (not_configured rfl) ?_
      with_reducible assumption
  · rename_i x8 e9
    apply seq_within (hF.mono rfl)
    with_reducible assumption
  · rename_i x10 e11
    apply seq_within (hF.mono rfl)
    with_reducible assumption
  · rename_i x12 e13 e14 e15
    with_reducible assumption

theorem tornRead_within {F : Part → Bool} {s : State} (hF : Part.All F [.regs, .hdrs, .irq]) {a1 : State} (a2) (a3)
    (a4) (k1 : s.Within F a1) :
    s.Within F (State.tornRead a1 a2 a3 a4) := by
  unfold State.tornRead
  extract_lets +onlyGivenNames y0
  have h1 : s.Within F y0 := by
    unfold y0
    refine bump_within (hF.mono rfl) (not_configured rfl) ?_
    with_reducible assumption
  extract_lets +onlyGivenNames y2
  have h3 : s.Within F y2 := by
    unfold y2
    refine bump_within (hF.mono rfl) (not_configured rfl) ?_
    with_reducible assumption
  extract_lets +onlyGivenNames y4
  have h5 : s.Within F y4 := by
    unfold y4
    refine putFlag_within (hF.mono rfl) (not_configured rfl) ?_
    with_reducible assumption
  extract_lets +onlyGivenNames y6
  have h7 : s.Within F y6 := by
    unfold y6
    refine put_within (hF.mono rfl) (not_configured rfl) ?_
    with_reducible assumption
  extract_lets +onlyGivenNames y8
  have h9 : s.Within F y8 := by
    unfold y8
    refine put_within (hF.mono rfl) (not_configured rfl) ?_
    with_reducible assumption
  apply fnCount_within (hF.mono rfl)
  apply perfCount_within (hF.mono rfl)
  apply raiseFault_within (hF.mono rfl)
  with_reducible assumption

theorem cqEnable_within {F : Part → Bool} {s : State} (hF : Part.All F [.regs, .hdrs, .irq, .crown]) {a1 : State} (a2)
    (k1 : s.Within F a1) :
    s.Within F (State.cqEnable a1 a2) := by
  unfold State.cqEnable
  extract_lets +onlyGivenNames y0
  extract_lets +onlyGivenNames y1
  split
  · rename_i x2 e3
    refine within_ite (fun _ => ?_) (fun _ => ?_)
    · apply seq_within (hF.mono rfl)
      refine putFlag_within (hF.mono rfl) (not_configured rfl) ?_
      with_reducible assumption
    · extract_lets +onlyGivenNames y4
      extract_lets +onlyGivenNames y5
      extract_lets +onlyGivenNames y6
      extract_lets +onlyGivenNames y7
      extract_lets +onlyGivenNames y8
      apply setCq_within (hF.mono rfl)
      refine putFlag_within (hF.mono rfl) (not_configured rfl) ?_
      with_reducible assumption
  · rename_i x9 e10
    apply seq_within (hF.mono rfl)
    with_reducible assumption
  · rename_i x11 e12
    apply seq_within (hF.mono rfl)
    with_reducible assumption
  · rename_i x13 e14
    with_reducible assumption

theorem rewind_within {F : Part → Bool} {s : State} (hF : Part.All F [.regs, .qeng, .perf]) {a1 : State} (a2) (k1 :
    s.Within F a1) :
    s.Within F (State.rewind a1 a2) := by
  unfold State.rewind
  extract_lets +onlyGivenNames y0
  extract_lets +onlyGivenNames y1
  have h2 : s.Within F y1 := by
    unfold y1
    apply untag_within (hF.mono rfl)
    with_reducible assumption
  split
  · rename_i x3 e4
    apply setRq_within (hF.mono rfl)
    with_reducible assumption
  · rename_i x5 x6 x7 e8
    extract_lets +onlyGivenNames y9
    have h10 : s.Within F y9 := by
      unfold y9
      refine put_within (hF.mono rfl) (not_configured rfl) ?_
      with_reducible assumption
    extract_lets +onlyGivenNames y11
    have h12 : s.Within F y11 := by
      unfold y11
      refine put_within (hF.mono rfl) (not_configured rfl) ?_
      with_reducible assumption
    apply setRq_within (hF.mono rfl)
    with_reducible assumption

theorem acceptFrom_within {F : Part → Bool} {s : State} (hF : Part.All F [.regs, .hdrs, .irq, .qeng, .perf]) {a1 :
    State} (a2) (a3) (k1 : s.Within F a1) :
    s.Within F (State.acceptFrom a1 a2 a3).2 := by
  induction' a3 with x ih generalizing a1 a2
  · rw [State.acceptFrom]
    refine within_pair_snd ?_
    with_reducible assumption
  · rw [State.acceptFrom]
    split
    · rename_i x0 e1
      refine within_pair_snd ?_
      with_reducible assumption
    · rename_i x2 x3 e4
      extract_lets +onlyGivenNames y5
      split
      rename_i x6 x7 u8 e9
      have h10 : s.Within F u8 := by
        refine within_snd e9 ?_
        apply tagAccept_within (hF.mono rfl)
        with_reducible assumption
      extract_lets +onlyGivenNames y11
      have h12 : s.Within F y11 := by
        unfold y11
        apply setRq_within (hF.mono rfl)
        with_reducible assumption
      extract_lets +onlyGivenNames y13
      extract_lets +onlyGivenNames y14
      have h15 : s.Within F y14 := by
        unfold y14
        refine put_within (hF.mono rfl) (not_configured rfl) ?_
        with_reducible assumption
      extract_lets +onlyGivenNames y16
      have h17 : s.Within F y16 := by
        unfold y16
        refine within_ite (fun _ => ?_) (fun _ => ?_)
        · refine put_within (hF.mono rfl) (not_configured rfl) ?_
          with_reducible assumption
        · with_reducible assumption
      extract_lets +onlyGivenNames y18
      have h19 : s.Within F y18 := by
        unfold y18
        apply fnCount_within (hF.mono rfl)
        apply perfCount_within (hF.mono rfl)
        with_reducible assumption
      split
      rename_i x20 x21 u22 e23
      have h24 : s.Within F u22 := by
        refine within_snd e23 ?_
        apply ih
        with_reducible assumption
      refine within_pair_snd ?_
      with_reducible assumption

theorem fenceChains_within {F : Part → Bool} {s : State} (hF : Part.All F [.regs, .hdrs, .irq, .qeng, .crown, .fab])
    {a1 : State} (a2) (a3) (k1 : s.Within F a1) :
    s.Within F (State.fenceChains a1 a2 a3) := by
  unfold State.fenceChains
  extract_lets +onlyGivenNames y0
  have h1 : s.Within F y0 := by
    unfold y0
    apply issueRest_within (hF.mono rfl)
    with_reducible assumption
  extract_lets +onlyGivenNames y2
  extract_lets +onlyGivenNames y3
  extract_lets +onlyGivenNames y4
  extract_lets +onlyGivenNames y5
  extract_lets +onlyGivenNames y6
  have h7 : s.Within F y6 := by
    unfold y6
    refine within_qeng (hF.one rfl) ?_
    with_reducible assumption
  extract_lets +onlyGivenNames y8
  have h9 : s.Within F y8 := by
    unfold y8
    apply within_foldl
    · intro u10 x11 h12
      apply pushAborted_within (hF.mono rfl)
      apply unhold_within (hF.mono rfl)
      with_reducible assumption
    · with_reducible assumption
  apply within_foldl
  · intro u13 x14 h15
    apply chainFenced_within (hF.mono rfl)
    with_reducible assumption
  · with_reducible assumption

theorem rewindAll_within {F : Part → Bool} {s : State} (hF : Part.All F [.regs, .hdrs, .irq, .qeng, .crown, .fab,
    .perf]) {a1 : State} (k1 : s.Within F a1) :
    s.Within F (State.rewindAll a1) := by
  unfold State.rewindAll
  extract_lets +onlyGivenNames y0
  have h1 : s.Within F y0 := by
    unfold y0
    apply dropXfers_within (hF.mono rfl)
    apply issueRest_within (hF.mono rfl)
    with_reducible assumption
  apply within_foldl
  · intro u2 x3 h4
    apply rqDrainEnd_within (hF.mono rfl)
    apply updRq_within (hF.mono rfl)
    apply rewind_within (hF.mono rfl)
    with_reducible assumption
  · with_reducible assumption

theorem readEntry_within {F : Part → Bool} {s : State} (hF : Part.All F [.regs, .hdrs, .irq, .qeng]) {a1 : State} (a2)
    (a3) (a4) (k1 : s.Within F a1) :
    s.Within F (State.readEntry a1 a2 a3 a4) := by
  unfold State.readEntry
  extract_lets +onlyGivenNames y0
  extract_lets +onlyGivenNames y1
  extract_lets +onlyGivenNames y2
  have h3 : s.Within F y2 := by
    unfold y2
    apply fnCount_within (hF.mono rfl)
    apply perfCount_within (hF.mono rfl)
    with_reducible assumption
  extract_lets +onlyGivenNames y4
  have h5 : s.Within F y4 := by
    unfold y4
    apply updRq_within (hF.mono rfl)
    with_reducible assumption
  refine within_ite (fun _ => ?_) (fun _ => ?_)
  · apply updRq_within (hF.mono rfl)
    with_reducible assumption
  · extract_lets +onlyGivenNames y6
    have h7 : s.Within F y6 := by
      unfold y6
      apply updRq_within (hF.mono rfl)
      with_reducible assumption
    extract_lets +onlyGivenNames y8
    have h9 : s.Within F y8 := by
      unfold y8
      apply fnCount_within (hF.mono rfl)
      apply perfCount_within (hF.mono rfl)
      with_reducible assumption
    refine within_ite (fun _ => ?_) (fun _ => ?_)
    · apply tornRead_within (hF.mono rfl)
      with_reducible assumption
    · with_reducible assumption

theorem fenceQueue_within {F : Part → Bool} {s : State} (hF : Part.All F [.regs, .hdrs, .irq, .qeng, .crown, .fab,
    .perf]) {a1 : State} (a2) (a3) (a4) (k1 : s.Within F a1) :
    s.Within F (State.fenceQueue a1 a2 a3 a4) := by
  unfold State.fenceQueue
  extract_lets +onlyGivenNames y0
  refine within_ite (fun _ => ?_) (fun _ => ?_)
  · apply fenceChains_within (hF.mono rfl)
    apply updRq_within (hF.mono rfl)
    apply rewind_within (hF.mono rfl)
    apply issueRest_within (hF.mono rfl)
    with_reducible assumption
  · refine within_ite (fun _ => ?_) (fun _ => ?_)
    · with_reducible assumption
    · extract_lets +onlyGivenNames y1
      have h2 : s.Within F y1 := by
        unfold y1
        apply dropXfers_within (hF.mono rfl)
        apply issueRest_within (hF.mono rfl)
        with_reducible assumption
      extract_lets +onlyGivenNames y3
      have h4 : s.Within F y3 := by
        unfold y3
        refine within_ite (fun _ => ?_) (fun _ => ?_)
        · with_reducible assumption
        · apply rewind_within (hF.mono rfl)
          with_reducible assumption
      extract_lets +onlyGivenNames y5
      have h6 : s.Within F y5 := by
        unfold y5
        apply updRq_within (hF.mono rfl)
        with_reducible assumption
      extract_lets +onlyGivenNames y7
      have h8 : s.Within F y7 := by
        unfold y7
        apply fenceChains_within (hF.mono rfl)
        with_reducible assumption
      extract_lets +onlyGivenNames y9
      have h10 : s.Within F y9 := by
        unfold y9
        refine putFlag_within (hF.mono rfl) (not_configured rfl) ?_
        with_reducible assumption
      extract_lets +onlyGivenNames y11
      have h12 : s.Within F y11 := by
        unfold y11
        refine put_within (hF.mono rfl) (not_configured rfl) ?_
        with_reducible assumption
      extract_lets +onlyGivenNames y13
      have h14 : s.Within F y13 := by
        unfold y13
        apply raiseFault_within (hF.mono rfl)
        with_reducible assumption
      refine within_ite (fun _ => ?_) (fun _ => ?_)
      · with_reducible assumption
      · apply countVec_within (hF.mono rfl)
        with_reducible assumption

theorem descReturned_within {F : Part → Bool} {s : State} (hF : Part.All F [.regs, .hdrs, .irq, .qeng, .crown, .fab,
    .perf]) {a1 : State} (a2) (a3) (a4) (a5) (k1 : s.Within F a1) :
    s.Within F (State.descReturned a1 a2 a3 a4 a5) := by
  unfold State.descReturned
  extract_lets +onlyGivenNames y0
  extract_lets +onlyGivenNames y1
  have h2 : s.Within F y1 := by
    unfold y1
    apply updRq_within (hF.mono rfl)
    with_reducible assumption
  extract_lets +onlyGivenNames y3
  have h4 : s.Within F y3 := by
    unfold y3
    refine within_ite (fun _ => ?_) (fun _ => ?_)
    · apply transient_within (hF.mono rfl)
      with_reducible assumption
    · with_reducible assumption
  extract_lets +onlyGivenNames y5
  refine within_ite (fun _ => ?_) (fun _ => ?_)
  · with_reducible assumption
  · extract_lets +onlyGivenNames y6
    extract_lets +onlyGivenNames y7
    have h8 : s.Within F y7 := by
      unfold y7
      apply within_foldl
      · intro u9 x10 h11
        apply readEntry_within (hF.mono rfl)
        with_reducible assumption
      · with_reducible assumption
    extract_lets +onlyGivenNames y12
    refine within_ite (fun _ => ?_) (fun _ => ?_)
    · apply ascending_within (hF.mono rfl)
      apply logFence_within (hF.mono rfl)
      apply fenceQueue_within (hF.mono rfl)
      with_reducible assumption
    · refine within_ite (fun _ => ?_) (fun _ => ?_)
      · apply updRq_within (hF.mono rfl)
        with_reducible assumption
      · split
        rename_i x13 x14 u15 e16
        have h17 : s.Within F u15 := by
          refine within_snd e16 ?_
          apply acceptFrom_within (hF.mono rfl)
          with_reducible assumption
        refine within_ite (fun _ => ?_) (fun _ => ?_)
        · apply updRq_within (hF.mono rfl)
          apply emptyPoll_within (hF.mono rfl)
          with_reducible assumption
        · extract_lets +onlyGivenNames y18
          have h19 : s.Within F y18 := by
            unfold y18
            apply updRq_within (hF.mono rfl)
            with_reducible assumption
          extract_lets +onlyGivenNames y20
          have h21 : s.Within F y20 := by
            unfold y20
            apply updRq_within (hF.mono rfl)
            with_reducible assumption
          apply refill_within (hF.mono rfl)
          with_reducible assumption

theorem descFailed_within {F : Part → Bool} {s : State} (hF : Part.All F [.regs, .hdrs, .irq, .qeng, .crown, .fab,
    .perf]) {a1 : State} (a2) (k1 : s.Within F a1) :
    s.Within F (State.descFailed a1 a2) := by
  unfold State.descFailed
  extract_lets +onlyGivenNames y0
  have h1 : s.Within F y0 := by
    unfold y0
    apply updRq_within (hF.mono rfl)
    with_reducible assumption
  extract_lets +onlyGivenNames y2
  refine within_ite (fun _ => ?_) (fun _ => ?_)
  · with_reducible assumption
  · apply logFence_within (hF.mono rfl)
    apply fenceQueue_within (hF.mono rfl)
    apply lasting_within (hF.mono rfl)
    with_reducible assumption

end Sys2Proof.Machine
end

