-- ==== Sys2Proof/Laws/FrameLanes.lean ====
section
/-! SUPPORT. The frames of the operations of Machine/Lanes.lean: the parts that each may change. -/

namespace Sys2Proof.Machine

set_option Elab.async false

theorem setLane_within {F : Part → Bool} {s : State} (hF : Part.All F [.frames]) {a1 : State} (a2) (a3) (k1 : s.Within
    F a1) :
    s.Within F (State.setLane a1 a2 a3) := by
  unfold State.setLane
  refine within_frames (hF.one rfl) ?_
  with_reducible assumption

theorem stat_within {F : Part → Bool} {s : State} (hF : Part.All F [.ctx]) {a1 : State} (a2) (a3) (k1 : s.Within F a1)
    :
    s.Within F (State.stat a1 a2 a3) := by
  unfold State.stat
  apply modCtx_within (hF.mono rfl)
  with_reducible assumption

theorem withdraw_within {F : Part → Bool} {s : State} (hF : Part.All F [.qeng, .crown]) {a1 : State} (a2) (k1 :
    s.Within F a1) :
    s.Within F (State.withdraw a1 a2) := by
  unfold State.withdraw
  extract_lets +onlyGivenNames y0
  extract_lets +onlyGivenNames y1
  extract_lets +onlyGivenNames y2
  have h3 : s.Within F y2 := by
    unfold y2
    split
    · rename_i x4 x5 e6
      apply updChain_within (hF.mono rfl)
      with_reducible assumption
    · rename_i x7 e8
      with_reducible assumption
  extract_lets +onlyGivenNames y9
  extract_lets +onlyGivenNames y10
  have h11 : s.Within F y10 := by
    unfold y10
    refine within_crown (hF.one rfl) ?_
    with_reducible assumption
  refine within_ite (fun _ => ?_) (fun _ => ?_)
  · apply updRq_within (hF.mono rfl)
    with_reducible assumption
  · with_reducible assumption

theorem freeBytes_within {F : Part → Bool} {s : State} (hF : Part.All F []) {a1 : State} (a2) (k1 : s.Within F a1) :
    s.Within F (State.freeBytes a1 a2).2 := by
  unfold State.freeBytes
  split
  rename_i x0 x1 u2 e3
  have h4 : s.Within F u2 := by
    refine within_snd e3 ?_
    apply takeFree_within (hF.mono rfl)
    with_reducible assumption
  refine within_pair_snd ?_
  with_reducible assumption

theorem laneRecord_within {F : Part → Bool} {s : State} (hF : Part.All F [.regs]) {a1 : State} (a2) (a3) (a4) (k1 :
    s.Within F a1) :
    s.Within F (State.laneRecord a1 a2 a3 a4) := by
  unfold State.laneRecord
  extract_lets +onlyGivenNames y0
  have h1 : s.Within F y0 := by
    unfold y0
    refine within_ite (fun _ => ?_) (fun _ => ?_)
    · with_reducible assumption
    · refine put_within (hF.mono rfl) (not_configured rfl) ?_
      refine put_within (hF.mono rfl) (not_configured rfl) ?_
      refine putFlag_within (hF.mono rfl) (not_configured rfl) ?_
      with_reducible assumption
  refine bump_within (hF.mono rfl) (not_configured rfl) ?_
  with_reducible assumption

theorem unissue_within {F : Part → Bool} {s : State} (hF : Part.All F [.regs, .hdrs, .irq, .qeng, .fab]) {a1 : State}
    (a2) (k1 : s.Within F a1) :
    s.Within F (State.unissue a1 a2) := by
  unfold State.unissue
  split
  · rename_i x0 e1
    with_reducible assumption
  · rename_i x2 x3 e4
    apply refill_within (hF.mono rfl)
    apply unhold_within (hF.mono rfl)
    refine within_qeng (hF.one rfl) ?_
    with_reducible assumption

theorem assignPn_within {F : Part → Bool} {s : State} (hF : Part.All F [.regs, .hdrs, .irq, .ctx]) {a1 : State} (a2)
    (a3) (a4) (a5) (k1 : s.Within F a1) :
    s.Within F (State.assignPn a1 a2 a3 a4 a5) := by
  unfold State.assignPn
  extract_lets +onlyGivenNames y0
  extract_lets +onlyGivenNames y1
  extract_lets +onlyGivenNames y2
  extract_lets +onlyGivenNames y3
  have h4 : s.Within F y3 := by
    unfold y3
    apply modCtx_within (hF.mono rfl)
    with_reducible assumption
  refine within_ite (fun _ => ?_) (fun _ => ?_)
  · extract_lets +onlyGivenNames y5
    have h6 : s.Within F y5 := by
      unfold y5
      refine putFlag_within (hF.mono rfl) (not_configured rfl) ?_
      with_reducible assumption
    extract_lets +onlyGivenNames y7
    have h8 : s.Within F y7 := by
      unfold y7
      refine putFlag_within (hF.mono rfl) (not_configured rfl) ?_
      with_reducible assumption
    extract_lets +onlyGivenNames y9
    have h10 : s.Within F y9 := by
      unfold y9
      refine put_within (hF.mono rfl) (not_configured rfl) ?_
      with_reducible assumption
    apply fnCount_within (hF.mono rfl)
    apply raiseEvent_within (hF.mono rfl)
    with_reducible assumption
  · with_reducible assumption

theorem freeStage_within {F : Part → Bool} {s : State} (hF : Part.All F []) {a1 : State} (k1 : s.Within F a1) :
    s.Within F (State.freeStage a1).2 := by
  unfold State.freeStage
  split
  rename_i x0 x1 u2 e3
  have h4 : s.Within F u2 := by
    refine within_snd e3 ?_
    apply takeFree_within (hF.mono rfl)
    with_reducible assumption
  refine within_pair_snd ?_
  with_reducible assumption

theorem enterRun_within {F : Part → Bool} {s : State} (hF : Part.All F [.tile, .regs, .blocks, .hdrs, .rng, .key,
    .wrap]) {a1 : State} (k1 : s.Within F a1) :
    s.Within F (State.enterRun a1) := by
  unfold State.enterRun
  refine within_ite (fun _ => ?_) (fun _ => ?_)
  · apply enterTile_within (hF.mono rfl)
    with_reducible assumption
  · with_reducible assumption

theorem updFrame_within {F : Part → Bool} {s : State} (hF : Part.All F [.frames]) {a1 : State} (a2) (a3) (k1 :
    s.Within F a1) :
    s.Within F (State.updFrame a1 a2 a3) := by
  unfold State.updFrame
  refine within_frames (hF.one rfl) ?_
  with_reducible assumption

theorem checkPassed_within {F : Part → Bool} {s : State} (hF : Part.All F [.hdrs, .irq, .frames]) {a1 : State} (a2)
    (a3) (k1 : s.Within F a1) :
    s.Within F (State.checkPassed a1 a2 a3) := by
  unfold State.checkPassed
  extract_lets +onlyGivenNames y0
  extract_lets +onlyGivenNames y1
  have h2 : s.Within F y1 := by
    unfold y1
    refine within_frames (hF.one rfl) ?_
    with_reducible assumption
  apply within_foldl
  · intro u3 x4 h5
    apply transient_within (hF.mono rfl)
    with_reducible assumption
  · with_reducible assumption

theorem commitFrame_within {F : Part → Bool} {s : State} (hF : Part.All F [.ctx]) {a1 : State} (a2) (a3) (k1 :
    s.Within F a1) :
    s.Within F (State.commitFrame a1 a2 a3).2 := by
  unfold State.commitFrame
  split
  · rename_i x0 e1
    refine within_pair_snd ?_
    with_reducible assumption
  · rename_i x2 x3 e4
    extract_lets +onlyGivenNames y5
    extract_lets +onlyGivenNames y6
    refine within_ite_snd (fun _ => ?_) (fun _ => ?_)
    · split
      rename_i x7 x8 x9 e10
      extract_lets +onlyGivenNames y11
      extract_lets +onlyGivenNames y12
      extract_lets +onlyGivenNames y13
      refine within_ite_snd (fun _ => ?_) (fun _ => ?_)
      · split
        rename_i x14 x15 u16 e17
        have h18 : s.Within F u16 := by
          refine within_snd e17 ?_
          apply takeFree_within (hF.mono rfl)
          with_reducible assumption
        refine within_pair_snd ?_
        apply modCtx_within (hF.mono rfl)
        with_reducible assumption
      · refine within_pair_snd ?_
        apply modCtx_within (hF.mono rfl)
        with_reducible assumption
    · refine within_pair_snd ?_
      with_reducible assumption

theorem mapCompl_within {F : Part → Bool} {s : State} (hF : Part.All F [.crown]) {a1 : State} (a2) (a3) (k1 : s.Within
    F a1) :
    s.Within F (State.mapCompl a1 a2 a3) := by
  unfold State.mapCompl
  extract_lets +onlyGivenNames y0
  refine within_crown (hF.one rfl) ?_
  with_reducible assumption

theorem setQuad_within {F : Part → Bool} {s : State} (hF : Part.All F [.frames]) {a1 : State} (a2) (a3) (k1 : s.Within
    F a1) :
    s.Within F (State.setQuad a1 a2 a3) := by
  unfold State.setQuad
  refine within_frames (hF.one rfl) ?_
  with_reducible assumption

theorem updLane_within {F : Part → Bool} {s : State} (hF : Part.All F [.frames]) {a1 : State} (a2) (a3) (k1 : s.Within
    F a1) :
    s.Within F (State.updLane a1 a2 a3) := by
  unfold State.updLane
  apply setLane_within (hF.mono rfl)
  with_reducible assumption

theorem updQuad_within {F : Part → Bool} {s : State} (hF : Part.All F [.frames]) {a1 : State} (a2) (a3) (k1 : s.Within
    F a1) :
    s.Within F (State.updQuad a1 a2 a3) := by
  unfold State.updQuad
  apply setQuad_within (hF.mono rfl)
  with_reducible assumption

theorem frameBytes_within {F : Part → Bool} {s : State} (hF : Part.All F [.frames]) {a1 : State} (a2) (a3) (a4) (k1 :
    s.Within F a1) :
    s.Within F (State.frameBytes a1 a2 a3 a4) := by
  unfold State.frameBytes
  apply updFrame_within (hF.mono rfl)
  with_reducible assumption

theorem laneClear_within {F : Part → Bool} {s : State} (hF : Part.All F [.regs, .frames]) {a1 : State} (a2) (k1 :
    s.Within F a1) :
    s.Within F (State.laneClear a1 a2) := by
  unfold State.laneClear
  refine putFlag_within (hF.mono rfl) (not_configured rfl) ?_
  apply setLane_within (hF.mono rfl)
  with_reducible assumption

theorem countFrame_within {F : Part → Bool} {s : State} (hF : Part.All F [.ctx]) {a1 : State} (a2) (a3) (a4) (k1 :
    s.Within F a1) :
    s.Within F (State.countFrame a1 a2 a3 a4) := by
  unfold State.countFrame
  split
  · rename_i x0 e1
    with_reducible assumption
  · rename_i x2 x3 e4
    apply stat_within (hF.mono rfl)
    with_reducible assumption

theorem toReplay_within {F : Part → Bool} {s : State} (hF : Part.All F [.frames]) {a1 : State} (a2) (k1 : s.Within F
    a1) :
    s.Within F (State.toReplay a1 a2) := by
  unfold State.toReplay
  extract_lets +onlyGivenNames y0
  apply updFrame_within (hF.mono rfl)
  with_reducible assumption

theorem leaveLane_within {F : Part → Bool} {s : State} (hF : Part.All F [.frames]) {a1 : State} (a2) (k1 : s.Within F
    a1) :
    s.Within F (State.leaveLane a1 a2) := by
  unfold State.leaveLane
  apply updLane_within (hF.mono rfl)
  with_reducible assumption

theorem laneCheckDue_within {F : Part → Bool} {s : State} (hF : Part.All F [.frames]) {a1 : State} (a2) (k1 : s.Within
    F a1) :
    s.Within F (State.laneCheckDue a1 a2) := by
  unfold State.laneCheckDue
  refine within_ite (fun _ => ?_) (fun _ => ?_)
  · apply updLane_within (hF.mono rfl)
    with_reducible assumption
  · with_reducible assumption

theorem stage_within {F : Part → Bool} {s : State} (hF : Part.All F [.regs, .frames]) {a1 : State} (a2) (a3) (a4) (k1
    : s.Within F a1) :
    s.Within F (State.stage a1 a2 a3 a4) := by
  unfold State.stage
  extract_lets +onlyGivenNames y0
  have h1 : s.Within F y0 := by
    unfold y0
    apply updQuad_within (hF.mono rfl)
    with_reducible assumption
  extract_lets +onlyGivenNames y2
  refine within_ite (fun _ => ?_) (fun _ => ?_)
  · refine put_within (hF.mono rfl) (not_configured rfl) ?_
    with_reducible assumption
  · with_reducible assumption

theorem authFail_within {F : Part → Bool} {s : State} (hF : Part.All F [.regs, .hdrs, .irq, .frames]) {a1 : State}
    (a2) (k1 : s.Within F a1) :
    s.Within F (State.authFail a1 a2) := by
  unfold State.authFail
  extract_lets +onlyGivenNames y0
  have h1 : s.Within F y0 := by
    unfold y0
    apply perfCount_within (hF.mono rfl)
    with_reducible assumption
  extract_lets +onlyGivenNames y2
  refine within_ite (fun _ => ?_) (fun _ => ?_)
  · with_reducible assumption
  · extract_lets +onlyGivenNames y3
    have h4 : s.Within F y3 := by
      unfold y3
      refine bump_within (hF.mono rfl) (not_configured rfl) ?_
      with_reducible assumption
    refine within_ite (fun _ => ?_) (fun _ => ?_)
    · apply raiseEvent_within (hF.mono rfl)
      apply updQuad_within (hF.mono rfl)
      with_reducible assumption
    · with_reducible assumption

theorem replayed_within {F : Part → Bool} {s : State} (hF : Part.All F [.hdrs, .irq, .frames]) {a1 : State} (a2) (k1 :
    s.Within F a1) :
    s.Within F (State.replayed a1 a2) := by
  unfold State.replayed
  split
  · rename_i x0 e1
    with_reducible assumption
  · rename_i x2 x3 e4
    refine within_ite (fun _ => ?_) (fun _ => ?_)
    · apply transient_within (hF.mono rfl)
      with_reducible assumption
    · refine within_ite (fun _ => ?_) (fun _ => ?_)
      · apply transient_within (hF.mono rfl)
        with_reducible assumption
      · refine within_ite (fun _ => ?_) (fun _ => ?_)
        · apply updLane_within (hF.mono rfl)
          with_reducible assumption
        · with_reducible assumption

theorem unparkQuad_within {F : Part → Bool} {s : State} (hF : Part.All F [.frames, .clk]) {a1 : State} (a2) (k1 :
    s.Within F a1) :
    s.Within F (State.unparkQuad a1 a2) := by
  unfold State.unparkQuad
  extract_lets +onlyGivenNames y0
  have h1 : s.Within F y0 := by
    unfold y0
    apply updQuad_within (hF.mono rfl)
    with_reducible assumption
  refine within_clk (hF.one rfl) ?_
  with_reducible assumption

theorem laneCheckAsk_within {F : Part → Bool} {s : State} (hF : Part.All F [.frames]) {a1 : State} (a2) (k1 : s.Within
    F a1) :
    s.Within F (State.laneCheckAsk a1 a2) := by
  unfold State.laneCheckAsk
  refine within_ite (fun _ => ?_) (fun _ => ?_)
  · apply updLane_within (hF.mono rfl)
    with_reducible assumption
  · with_reducible assumption

theorem unparkLane_within {F : Part → Bool} {s : State} (hF : Part.All F [.frames]) {a1 : State} (a2) (k1 : s.Within F
    a1) :
    s.Within F (State.unparkLane a1 a2) := by
  unfold State.unparkLane
  apply updLane_within (hF.mono rfl)
  with_reducible assumption

theorem dropFrame_within {F : Part → Bool} {s : State} (hF : Part.All F [.regs, .hdrs, .irq, .qeng, .crown, .fab,
    .frames, .ctx, .key]) {a1 : State} (a2) (k1 : s.Within F a1) :
    s.Within F (State.dropFrame a1 a2) := by
  unfold State.dropFrame
  extract_lets +onlyGivenNames y0
  extract_lets +onlyGivenNames y1
  have h2 : s.Within F y1 := by
    unfold y1
    refine within_frames (hF.one rfl) ?_
    with_reducible assumption
  apply unpin_within (hF.mono rfl)
  apply stage_within (hF.mono rfl)
  with_reducible assumption

theorem toLane_within {F : Part → Bool} {s : State} (hF : Part.All F [.regs, .frames]) {a1 : State} (a2) (a3) (k1 :
    s.Within F a1) :
    s.Within F (State.toLane a1 a2 a3) := by
  unfold State.toLane
  extract_lets +onlyGivenNames y0
  extract_lets +onlyGivenNames y1
  extract_lets +onlyGivenNames y2
  have h3 : s.Within F y2 := by
    unfold y2
    apply stage_within (hF.mono rfl)
    with_reducible assumption
  extract_lets +onlyGivenNames y4
  have h5 : s.Within F y4 := by
    unfold y4
    apply updFrame_within (hF.mono rfl)
    with_reducible assumption
  extract_lets +onlyGivenNames y6
  have h7 : s.Within F y6 := by
    unfold y6
    apply updLane_within (hF.mono rfl)
    with_reducible assumption
  apply updQuad_within (hF.mono rfl)
  with_reducible assumption

theorem unparkNeed_within {F : Part → Bool} {s : State} (hF : Part.All F [.frames]) {a1 : State} (a2) (k1 : s.Within F
    a1) :
    s.Within F (State.unparkNeed a1 a2) := by
  unfold State.unparkNeed
  extract_lets +onlyGivenNames y0
  refine within_ite (fun _ => ?_) (fun _ => ?_)
  · split
    · rename_i x1 x2 e3
      apply unparkLane_within (hF.mono rfl)
      with_reducible assumption
    · rename_i x4 e5
      with_reducible assumption
  · with_reducible assumption

theorem countPush_within {F : Part → Bool} {s : State} (hF : Part.All F [.regs, .hdrs, .irq, .frames]) {a1 : State}
    (a2) (a3) (k1 : s.Within F a1) :
    s.Within F (State.countPush a1 a2 a3) := by
  unfold State.countPush
  refine within_ite (fun _ => ?_) (fun _ => ?_)
  · with_reducible assumption
  · extract_lets +onlyGivenNames y0
    extract_lets +onlyGivenNames y1
    have h2 : s.Within F y1 := by
      unfold y1
      apply fnCount_within (hF.mono rfl)
      apply perfCount_within (hF.mono rfl)
      with_reducible assumption
    extract_lets +onlyGivenNames y3
    have h4 : s.Within F y3 := by
      unfold y3
      apply fnCount_within (hF.mono rfl)
      apply fnCount_within (hF.mono rfl)
      with_reducible assumption
    refine within_ite (fun _ => ?_) (fun _ => ?_)
    · apply authFail_within (hF.mono rfl)
      with_reducible assumption
    · with_reducible assumption

theorem pushFrame_within {F : Part → Bool} {s : State} (hF : Part.All F [.regs, .hdrs, .irq, .qeng, .crown, .fab,
    .frames, .ctx, .key]) {a1 : State} (a2) (a3) (k1 : s.Within F a1) :
    s.Within F (State.pushFrame a1 a2 a3) := by
  unfold State.pushFrame
  extract_lets +onlyGivenNames y0
  extract_lets +onlyGivenNames y1
  split
  rename_i x2 x3 u4 e5
  have h6 : s.Within F u4 := by
    refine within_snd e5 ?_
    refine within_ite_snd (fun _ => ?_) (fun _ => ?_)
    · apply freeBytes_within (hF.mono rfl)
      with_reducible assumption
    · refine within_pair_snd ?_
      with_reducible assumption
  extract_lets +onlyGivenNames y7
  have h8 : s.Within F y7 := by
    unfold y7
    apply replayed_within (hF.mono rfl)
    with_reducible assumption
  extract_lets +onlyGivenNames y9
  have h10 : s.Within F y9 := by
    unfold y9
    apply countPush_within (hF.mono rfl)
    apply leaveLane_within (hF.mono rfl)
    with_reducible assumption
  extract_lets +onlyGivenNames y11
  extract_lets +onlyGivenNames y12
  refine within_ite (fun _ => ?_) (fun _ => ?_)
  · apply push_within (hF.mono rfl)
    apply dropFrame_within (hF.mono rfl)
    apply countFrame_within (hF.mono rfl)
    with_reducible assumption
  · extract_lets +onlyGivenNames y13
    have h14 : s.Within F y13 := by
      unfold y13
      apply stage_within (hF.mono rfl)
      with_reducible assumption
    extract_lets +onlyGivenNames y15
    have h16 : s.Within F y15 := by
      unfold y15
      apply updFrame_within (hF.mono rfl)
      with_reducible assumption
    apply push_within (hF.mono rfl)
    apply startWrite_within (hF.mono rfl)
    with_reducible assumption

theorem settle_within {F : Part → Bool} {s : State} (hF : Part.All F [.regs, .hdrs, .irq, .qeng, .crown, .fab,
    .frames, .ctx, .key, .perf]) {a1 : State} (a2) (a3) (a4) (k1 : s.Within F a1) :
    s.Within F (State.settle a1 a2 a3 a4) := by
  unfold State.settle
  extract_lets +onlyGivenNames y0
  extract_lets +onlyGivenNames y1
  have h2 : s.Within F y1 := by
    unfold y1
    apply mapCompl_within (hF.mono rfl)
    with_reducible assumption
  extract_lets +onlyGivenNames y3
  have h4 : s.Within F y3 := by
    unfold y3
    apply dropFrame_within (hF.mono rfl)
    with_reducible assumption
  apply releaseWaiting_within (hF.mono rfl)
  refine within_ite (fun _ => ?_) (fun _ => ?_)
  · apply chainOff_within (hF.mono rfl)
    with_reducible assumption
  · with_reducible assumption

theorem endFrame_within {F : Part → Bool} {s : State} (hF : Part.All F [.regs, .hdrs, .irq, .qeng, .crown, .fab,
    .frames, .ctx, .key]) {a1 : State} (a2) (a3) (a4) (a5) (k1 : s.Within F a1) :
    s.Within F (State.endFrame a1 a2 a3 a4 a5) := by
  unfold State.endFrame
  extract_lets +onlyGivenNames y0
  have h1 : s.Within F y0 := by
    unfold y0
    apply dropXfers_within (hF.mono rfl)
    with_reducible assumption
  extract_lets +onlyGivenNames y2
  have h3 : s.Within F y2 := by
    unfold y2
    apply leaveLane_within (hF.mono rfl)
    with_reducible assumption
  extract_lets +onlyGivenNames y4
  have h5 : s.Within F y4 := by
    unfold y4
    apply dropFrame_within (hF.mono rfl)
    with_reducible assumption
  apply push_within (hF.mono rfl)
  with_reducible assumption

theorem quadAccept_within {F : Part → Bool} {s : State} (hF : Part.All F [.regs, .hdrs, .irq, .fab, .frames, .ctx])
    {a1 : State} (a2) (a3) (a4) (a5) (a6) (a7) (k1 : s.Within F a1) :
    s.Within F (State.quadAccept a1 a2 a3 a4 a5 a6 a7) := by
  unfold State.quadAccept
  extract_lets +onlyGivenNames y0
  extract_lets +onlyGivenNames y1
  extract_lets +onlyGivenNames y2
  extract_lets +onlyGivenNames y3
  extract_lets +onlyGivenNames y4
  have h5 : s.Within F y4 := by
    unfold y4
    refine within_frames (hF.one rfl) ?_
    with_reducible assumption
  extract_lets +onlyGivenNames y6
  have h7 : s.Within F y6 := by
    unfold y6
    apply updWay_within (hF.mono rfl)
    with_reducible assumption
  extract_lets +onlyGivenNames y8
  have h9 : s.Within F y8 := by
    unfold y8
    apply stage_within (hF.mono rfl)
    with_reducible assumption
  extract_lets +onlyGivenNames y10
  have h11 : s.Within F y10 := by
    unfold y10
    apply perfCount_within (hF.mono rfl)
    with_reducible assumption
  apply unparkNeed_within (hF.mono rfl)
  apply startRead_within (hF.mono rfl)
  with_reducible assumption

theorem wakeUnits_within {F : Part → Bool} {s : State} (hF : Part.All F [.frames, .clk]) {a1 : State} (a2) (k1 :
    s.Within F a1) :
    s.Within F (State.wakeUnits a1 a2) := by
  unfold State.wakeUnits
  extract_lets +onlyGivenNames y0
  extract_lets +onlyGivenNames y1
  have h2 : s.Within F y1 := by
    unfold y1
    apply within_foldl
    · intro u3 x4 h5
      apply unparkNeed_within (hF.mono rfl)
      with_reducible assumption
    · with_reducible assumption
  refine within_ite (fun _ => ?_) (fun _ => ?_)
  · with_reducible assumption
  · split
    · rename_i x6 x7 e8
      apply unparkQuad_within (hF.mono rfl)
      with_reducible assumption
    · rename_i x9 e10
      with_reducible assumption

theorem endPushed_within {F : Part → Bool} {s : State} (hF : Part.All F [.regs, .hdrs, .irq, .qeng, .crown, .fab,
    .frames, .ctx, .key, .perf]) {a1 : State} (a2) (a3) (a4) (k1 : s.Within F a1) :
    s.Within F (State.endPushed a1 a2 a3 a4) := by
  unfold State.endPushed
  extract_lets +onlyGivenNames y0
  have h1 : s.Within F y0 := by
    unfold y0
    apply dropXfers_within (hF.mono rfl)
    with_reducible assumption
  apply settle_within (hF.mono rfl)
  with_reducible assumption

theorem frameDispatch_within {F : Part → Bool} {s : State} (hF : Part.All F [.tile, .regs, .blocks, .hdrs, .irq,
    .qeng, .crown, .fab, .frames, .ctx, .rng, .key, .clk, .wrap]) {a1 : State} (a2) (k1 : s.Within F a1) :
    s.Within F (State.frameDispatch a1 a2) := by
  unfold State.frameDispatch
  split
  · rename_i x0 e1
    with_reducible assumption
  · rename_i x2 x3 e4
    refine within_ite (fun _ => ?_) (fun _ => ?_)
    · with_reducible assumption
    · refine within_ite (fun _ => ?_) (fun _ => ?_)
      · apply pushStatus_within (hF.mono rfl)
        apply enterRun_within (hF.mono rfl)
        apply unissue_within (hF.mono rfl)
        with_reducible assumption
      · refine within_ite (fun _ => ?_) (fun _ => ?_)
        · with_reducible assumption
        · extract_lets +onlyGivenNames y5
          split
          · rename_i x6 x7 u8 e9
            have h10 : s.Within F u8 := by
              refine within_snd e9 ?_
              apply lookup_within (hF.mono rfl)
              with_reducible assumption
            apply pushStatus_within (hF.mono rfl)
            apply enterRun_within (hF.mono rfl)
            apply unissue_within (hF.mono rfl)
            with_reducible assumption
          · rename_i x11 u12 e13
            have h14 : s.Within F u12 := by
              refine within_snd e13 ?_
              apply lookup_within (hF.mono rfl)
              with_reducible assumption
            apply enterRun_within (hF.mono rfl)
            apply unissue_within (hF.mono rfl)
            with_reducible assumption
          · rename_i x15 u16 e17
            have h18 : s.Within F u16 := by
              refine within_snd e17 ?_
              apply lookup_within (hF.mono rfl)
              with_reducible assumption
            apply updRq_within (hF.mono rfl)
            with_reducible assumption
          · rename_i x19 x20 u21 e22
            have h23 : s.Within F u21 := by
              refine within_snd e22 ?_
              apply lookup_within (hF.mono rfl)
              with_reducible assumption
            extract_lets +onlyGivenNames y24
            extract_lets +onlyGivenNames y25
            refine within_ite (fun _ => ?_) (fun _ => ?_)
            · with_reducible assumption
            · split
              · rename_i x26 x27 x28 x29 x30 e31
                extract_lets +onlyGivenNames y32
                have h33 : s.Within F y32 := by
                  unfold y32
                  refine within_ite (fun _ => ?_) (fun _ => ?_)
                  · with_reducible assumption
                  · apply stat_within (hF.mono rfl)
                    with_reducible assumption
                apply push_within (hF.mono rfl)
                apply enterRun_within (hF.mono rfl)
                apply unissue_within (hF.mono rfl)
                with_reducible assumption
              · rename_i x34 x35 x36 e37
                extract_lets +onlyGivenNames y38
                split
                · rename_i x39 e40
                  apply wakeUnits_within (hF.mono rfl)
                  with_reducible assumption
                · rename_i x41 x42 e43
                  extract_lets +onlyGivenNames y44
                  have h45 : s.Within F y44 := by
                    unfold y44
                    refine within_ite (fun _ => ?_) (fun _ => ?_)
                    · apply assignPn_within (hF.mono rfl)
                      with_reducible assumption
                    · with_reducible assumption
                  apply quadAccept_within (hF.mono rfl)
                  apply enterRun_within (hF.mono rfl)
                  apply unissue_within (hF.mono rfl)
                  with_reducible assumption

theorem frameSrcDone_within {F : Part → Bool} {s : State} (hF : Part.All F [.regs, .hdrs, .irq, .qeng, .crown, .fab,
    .frames, .ctx, .key]) {a1 : State} (a2) (a3) (k1 : s.Within F a1) :
    s.Within F (State.frameSrcDone a1 a2 a3) := by
  unfold State.frameSrcDone
  split
  · rename_i x0 e1
    with_reducible assumption
  · rename_i x2 x3 e4
    extract_lets +onlyGivenNames y5
    extract_lets +onlyGivenNames y6
    refine within_ite (fun _ => ?_) (fun _ => ?_)
    · extract_lets +onlyGivenNames y7
      have h8 : s.Within F y7 := by
        unfold y7
        refine within_ite (fun _ => ?_) (fun _ => ?_)
        · apply transient_within (hF.mono rfl)
          with_reducible assumption
        · with_reducible assumption
      apply updFrame_within (hF.mono rfl)
      with_reducible assumption
    · extract_lets +onlyGivenNames y9
      have h10 : s.Within F y9 := by
        unfold y9
        apply lasting_within (hF.mono rfl)
        with_reducible assumption
      extract_lets +onlyGivenNames y11
      refine within_ite (fun _ => ?_) (fun _ => ?_)
      · apply endFrame_within (hF.mono rfl)
        with_reducible assumption
      · apply updFrame_within (hF.mono rfl)
        with_reducible assumption

theorem replayStart_within {F : Part → Bool} {s : State} (hF : Part.All F [.regs, .hdrs, .irq, .qeng, .crown, .fab,
    .frames, .ctx, .key]) {a1 : State} (a2) (k1 : s.Within F a1) :
    s.Within F (State.replayStart a1 a2) := by
  unfold State.replayStart
  split
  · rename_i x0 e1
    with_reducible assumption
  · rename_i x2 x3 e4
    refine within_ite (fun _ => ?_) (fun _ => ?_)
    · with_reducible assumption
    · refine within_ite (fun _ => ?_) (fun _ => ?_)
      · apply endFrame_within (hF.mono rfl)
        with_reducible assumption
      · split
        · rename_i x5 e6
          with_reducible assumption
        · rename_i x7 x8 e9
          extract_lets +onlyGivenNames y10
          extract_lets +onlyGivenNames y11
          have h12 : s.Within F y11 := by
            unfold y11
            apply toLane_within (hF.mono rfl)
            with_reducible assumption
          extract_lets +onlyGivenNames y13
          have h14 : s.Within F y13 := by
            unfold y13
            refine bump_within (hF.mono rfl) (not_configured rfl) ?_
            with_reducible assumption
          extract_lets +onlyGivenNames y15
          have h16 : s.Within F y15 := by
            unfold y15
            apply updLane_within (hF.mono rfl)
            with_reducible assumption
          refine within_ite (fun _ => ?_) (fun _ => ?_)
          · with_reducible assumption
          · apply raiseEvent_within (hF.mono rfl)
            with_reducible assumption

theorem laneFinish_within {F : Part → Bool} {s : State} (hF : Part.All F [.regs, .hdrs, .irq, .qeng, .crown, .fab,
    .frames, .ctx, .key]) {a1 : State} (a2) (a3) (k1 : s.Within F a1) :
    s.Within F (State.laneFinish a1 a2 a3) := by
  unfold State.laneFinish
  split
  · rename_i x0 e1
    with_reducible assumption
  · rename_i x2 x3 e4
    refine within_ite (fun _ => ?_) (fun _ => ?_)
    · with_reducible assumption
    · refine within_ite (fun _ => ?_) (fun _ => ?_)
      · apply pushFrame_within (hF.mono rfl)
        with_reducible assumption
      · refine within_ite (fun _ => ?_) (fun _ => ?_)
        · with_reducible assumption
        · split
          · rename_i x5 e6
            apply pushFrame_within (hF.mono rfl)
            with_reducible assumption
          · rename_i x7 x8 e9
            refine within_ite (fun _ => ?_) (fun _ => ?_)
            · with_reducible assumption
            · extract_lets +onlyGivenNames y10
              split
              · rename_i x11 x12 x13 e14
                apply pushFrame_within (hF.mono rfl)
                with_reducible assumption
              · rename_i x15 e16
                split
                rename_i x17 x18 u19 e20
                have h21 : s.Within F u19 := by
                  refine within_snd e20 ?_
                  apply commitFrame_within (hF.mono rfl)
                  with_reducible assumption
                apply pushFrame_within (hF.mono rfl)
                with_reducible assumption

theorem frameDstDone_within {F : Part → Bool} {s : State} (hF : Part.All F [.regs, .hdrs, .irq, .qeng, .crown, .fab,
    .frames, .ctx, .key, .perf]) {a1 : State} (a2) (k1 : s.Within F a1) :
    s.Within F (State.frameDstDone a1 a2) := by
  unfold State.frameDstDone
  split
  · rename_i x0 e1
    with_reducible assumption
  · rename_i x2 x3 u4 e5
    have h6 : s.Within F u4 := by
      refine takeMail_within (hF.mono rfl) ?_ e5
      with_reducible assumption
    split
    · rename_i x7 e8
      with_reducible assumption
    · rename_i x9 x10 e11
      extract_lets +onlyGivenNames y12
      extract_lets +onlyGivenNames y13
      have h14 : s.Within F y13 := by
        unfold y13
        apply xferRetry_within (hF.mono rfl)
        with_reducible assumption
      extract_lets +onlyGivenNames y15
      have h16 : s.Within F y15 := by
        unfold y15
        refine within_ite (fun _ => ?_) (fun _ => ?_)
        · with_reducible assumption
        · apply countFrame_within (hF.mono rfl)
          with_reducible assumption
      apply settle_within (hF.mono rfl)
      with_reducible assumption

theorem ownFail_within {F : Part → Bool} {s : State} (hF : Part.All F [.regs, .hdrs, .irq, .qeng, .crown, .fab,
    .frames, .ctx, .key, .perf]) {a1 : State} (a2) (a3) (k1 : s.Within F a1) :
    s.Within F (State.ownFail a1 a2 a3) := by
  unfold State.ownFail
  apply within_foldl
  · intro u0 x1 h2
    split
    · rename_i x3 x4 e5
      refine within_ite (fun _ => ?_) (fun _ => ?_)
      · apply endPushed_within (hF.mono rfl)
        with_reducible assumption
      · apply endFrame_within (hF.mono rfl)
        with_reducible assumption
    · rename_i x6 e7
      with_reducible assumption
  · with_reducible assumption

theorem retryFailed_within {F : Part → Bool} {s : State} (hF : Part.All F [.regs, .hdrs, .irq, .qeng, .crown, .fab,
    .frames, .ctx, .key, .perf]) {a1 : State} (a2) (a3) (k1 : s.Within F a1) :
    s.Within F (State.retryFailed a1 a2 a3) := by
  unfold State.retryFailed
  extract_lets +onlyGivenNames y0
  have h1 : s.Within F y0 := by
    unfold y0
    apply raiseFault_within (hF.mono rfl)
    with_reducible assumption
  extract_lets +onlyGivenNames y2
  have h3 : s.Within F y2 := by
    unfold y2
    refine within_ite (fun _ => ?_) (fun _ => ?_)
    · apply endPushed_within (hF.mono rfl)
      with_reducible assumption
    · apply endFrame_within (hF.mono rfl)
      with_reducible assumption
  extract_lets +onlyGivenNames y4
  have h5 : s.Within F y4 := by
    unfold y4
    apply lasting_within (hF.mono rfl)
    with_reducible assumption
  refine within_ite (fun _ => ?_) (fun _ => ?_)
  · apply updLane_within (hF.mono rfl)
    with_reducible assumption
  · with_reducible assumption

theorem endFrames_within {F : Part → Bool} {s : State} (hF : Part.All F [.regs, .hdrs, .irq, .qeng, .crown, .fab,
    .frames, .ctx, .key, .perf]) {a1 : State} (a2) (a3) (k1 : s.Within F a1) :
    s.Within F (State.endFrames a1 a2 a3) := by
  unfold State.endFrames
  apply within_foldl
  · intro u0 x1 h2
    split
    · rename_i x3 e4
      apply endPushed_within (hF.mono rfl)
      with_reducible assumption
    · rename_i x5 e6
      apply endFrame_within (hF.mono rfl)
      with_reducible assumption
    · rename_i x7 e8 e9
      apply endFrame_within (hF.mono rfl)
      with_reducible assumption
  · with_reducible assumption

theorem stagingEcc_within {F : Part → Bool} {s : State} (hF : Part.All F [.regs, .hdrs, .irq, .qeng, .crown, .fab,
    .frames, .ctx, .key, .perf]) {a1 : State} (a2) (a3) (k1 : s.Within F a1) :
    s.Within F (State.stagingEcc a1 a2 a3).2 := by
  unfold State.stagingEcc
  split
  · rename_i x0 e1
    refine within_pair_snd ?_
    with_reducible assumption
  · rename_i x2 x3 e4
    extract_lets +onlyGivenNames y5
    have h6 : s.Within F y5 := by
      unfold y5
      apply raiseFault_within (hF.mono rfl)
      with_reducible assumption
    refine within_ite_snd (fun _ => ?_) (fun _ => ?_)
    · split
      · rename_i x7 x8 x9 e10 e11
        refine within_pair_snd ?_
        apply retryFailed_within (hF.mono rfl)
        with_reducible assumption
      · rename_i x12 x13 x14 e15 e16
        refine within_pair_snd ?_
        apply retryFailed_within (hF.mono rfl)
        with_reducible assumption
      · rename_i x17 x18 e19 e20
        extract_lets +onlyGivenNames y21
        have h22 : s.Within F y21 := by
          unfold y21
          apply dropXfers_within (hF.mono rfl)
          with_reducible assumption
        refine within_pair_snd ?_
        apply updFrame_within (hF.mono rfl)
        apply toReplay_within (hF.mono rfl)
        apply withdraw_within (hF.mono rfl)
        with_reducible assumption
      · rename_i x23 x24 e25 e26
        refine within_pair_snd ?_
        apply updFrame_within (hF.mono rfl)
        apply toReplay_within (hF.mono rfl)
        apply leaveLane_within (hF.mono rfl)
        with_reducible assumption
      · rename_i x27 x28 e29 e30 e31 e32
        refine within_pair_snd ?_
        with_reducible assumption
    · split
      · rename_i x33 e34
        refine within_pair_snd ?_
        with_reducible assumption
      · rename_i x35 e36
        refine within_ite_snd (fun _ => ?_) (fun _ => ?_)
        · refine within_pair_snd ?_
          apply frameSrcDone_within (hF.mono rfl)
          with_reducible assumption
        · extract_lets +onlyGivenNames y37
          have h38 : s.Within F y37 := by
            unfold y37
            apply dropXfers_within (hF.mono rfl)
            with_reducible assumption
          extract_lets +onlyGivenNames y39
          have h40 : s.Within F y39 := by
            unfold y39
            apply updFrame_within (hF.mono rfl)
            with_reducible assumption
          refine within_pair_snd ?_
          apply startRead_within (hF.mono rfl)
          with_reducible assumption

theorem laneErr_within {F : Part → Bool} {s : State} (hF : Part.All F [.regs, .hdrs, .irq, .qeng, .crown, .fab,
    .frames, .ctx, .key, .perf]) {a1 : State} (a2) (a3) (a4) (a5) (k1 : s.Within F a1) :
    s.Within F (State.laneErr a1 a2 a3 a4 a5).2 := by
  unfold State.laneErr
  extract_lets +onlyGivenNames y0
  have h1 : s.Within F y0 := by
    unfold y0
    apply raiseFault_within (hF.mono rfl)
    apply laneRecord_within (hF.mono rfl)
    with_reducible assumption
  extract_lets +onlyGivenNames y2
  extract_lets +onlyGivenNames y3
  split
  · rename_i x4 x5 e6
    refine within_pair_snd ?_
    apply retryFailed_within (hF.mono rfl)
    with_reducible assumption
  · rename_i x7 e8
    refine within_ite_snd (fun _ => ?_) (fun _ => ?_)
    · refine within_pair_snd ?_
      apply retryFailed_within (hF.mono rfl)
      with_reducible assumption
    · extract_lets +onlyGivenNames y9
      have h10 : s.Within F y9 := by
        unfold y9
        apply leaveLane_within (hF.mono rfl)
        with_reducible assumption
      extract_lets +onlyGivenNames y11
      have h12 : s.Within F y11 := by
        unfold y11
        apply toReplay_within (hF.mono rfl)
        with_reducible assumption
      extract_lets +onlyGivenNames y13
      have h14 : s.Within F y13 := by
        unfold y13
        apply updLane_within (hF.mono rfl)
        with_reducible assumption
      refine within_pair_snd ?_
      with_reducible assumption

theorem laneCheckEnd_within {F : Part → Bool} {s : State} (hF : Part.All F [.regs, .hdrs, .irq, .qeng, .crown, .fab,
    .frames, .ctx, .key, .perf]) {a1 : State} (a2) (a3) (k1 : s.Within F a1) :
    s.Within F (State.laneCheckEnd a1 a2 a3).2 := by
  unfold State.laneCheckEnd
  extract_lets +onlyGivenNames y0
  refine within_ite_snd (fun _ => ?_) (fun _ => ?_)
  · refine within_pair_snd ?_
    with_reducible assumption
  · extract_lets +onlyGivenNames y1
    have h2 : s.Within F y1 := by
      unfold y1
      refine putFlag_within (hF.mono rfl) (not_configured rfl) ?_
      with_reducible assumption
    extract_lets +onlyGivenNames y3
    have h4 : s.Within F y3 := by
      unfold y3
      refine putFlag_within (hF.mono rfl) (not_configured rfl) ?_
      with_reducible assumption
    extract_lets +onlyGivenNames y5
    have h6 : s.Within F y5 := by
      unfold y5
      apply raiseEvent_within (hF.mono rfl)
      with_reducible assumption
    extract_lets +onlyGivenNames y7
    have h8 : s.Within F y7 := by
      unfold y7
      apply setLane_within (hF.mono rfl)
      with_reducible assumption
    extract_lets +onlyGivenNames y9
    have h10 : s.Within F y9 := by
      unfold y9
      refine putFlag_within (hF.mono rfl) (not_configured rfl) ?_
      with_reducible assumption
    refine within_ite_snd (fun _ => ?_) (fun _ => ?_)
    · refine within_pair_snd ?_
      refine within_ite (fun _ => ?_) (fun _ => ?_)
      · apply checkPassed_within (hF.mono rfl)
        with_reducible assumption
      · with_reducible assumption
    · split
      rename_i x11 x12 u13 e14
      have h15 : s.Within F u13 := by
        refine within_snd e14 ?_
        apply freeStage_within (hF.mono rfl)
        with_reducible assumption
      extract_lets +onlyGivenNames y16
      have h17 : s.Within F y16 := by
        unfold y16
        apply raiseFault_within (hF.mono rfl)
        apply laneRecord_within (hF.mono rfl)
        with_reducible assumption
      refine within_ite_snd (fun _ => ?_) (fun _ => ?_)
      · refine within_pair_snd ?_
        with_reducible assumption
      · refine within_pair_snd ?_
        apply ownFail_within (hF.mono rfl)
        apply lasting_within (hF.mono rfl)
        with_reducible assumption

theorem pageinFailed_within {F : Part → Bool} {s : State} (hF : Part.All F [.regs, .hdrs, .irq, .qeng, .crown, .fab,
    .frames, .ctx, .key, .perf]) {a1 : State} (a2) (k1 : s.Within F a1) :
    s.Within F (State.pageinFailed a1 a2) := by
  unfold State.pageinFailed
  split
  · rename_i x0 x1 u2 e3
    have h4 : s.Within F u2 := by
      refine within_snd e3 ?_
      apply pageinFail_within (hF.mono rfl)
      with_reducible assumption
    apply endFrames_within (hF.mono rfl)
    with_reducible assumption
  · rename_i x5 u6 e7
    have h8 : s.Within F u6 := by
      refine within_snd e7 ?_
      apply pageinFail_within (hF.mono rfl)
      with_reducible assumption
    with_reducible assumption

theorem frameStaged_within {F : Part → Bool} {s : State} (hF : Part.All F [.regs, .hdrs, .irq, .qeng, .crown, .fab,
    .frames, .ctx, .key, .perf]) {a1 : State} (a2) (k1 : s.Within F a1) :
    s.Within F (State.frameStaged a1 a2).2 := by
  unfold State.frameStaged
  split
  · rename_i x0 e1
    refine within_pair_snd ?_
    with_reducible assumption
  · rename_i x2 x3 e4
    refine within_ite_snd (fun _ => ?_) (fun _ => ?_)
    · refine within_pair_snd ?_
      apply endFrame_within (hF.mono rfl)
      with_reducible assumption
    · split
      · rename_i x5 e6
        refine within_pair_snd ?_
        apply unparkNeed_within (hF.mono rfl)
        with_reducible assumption
      · rename_i x7 x8 e9
        refine within_ite_snd (fun _ => ?_) (fun _ => ?_)
        · refine within_pair_snd ?_
          with_reducible assumption
        · extract_lets +onlyGivenNames y10
          have h11 : s.Within F y10 := by
            unfold y10
            apply unparkNeed_within (hF.mono rfl)
            apply toLane_within (hF.mono rfl)
            with_reducible assumption
          extract_lets +onlyGivenNames y12
          have h13 : s.Within F y12 := by
            unfold y12
            apply perfCount_within (hF.mono rfl)
            with_reducible assumption
          refine within_ite_snd (fun _ => ?_) (fun _ => ?_)
          · refine within_ite_snd (fun _ => ?_) (fun _ => ?_)
            · extract_lets +onlyGivenNames y14
              have h15 : s.Within F y14 := by
                unfold y14
                refine putFlag_within (hF.mono rfl) (not_configured rfl) ?_
                with_reducible assumption
              split
              rename_i x16 x17 u18 e19
              have h20 : s.Within F u18 := by
                refine within_snd e19 ?_
                apply freeStage_within (hF.mono rfl)
                with_reducible assumption
              split
              · rename_i x21 x22 e23
                apply laneErr_within (hF.mono rfl)
                with_reducible assumption
              · rename_i x24 e25
                refine within_pair_snd ?_
                with_reducible assumption
            · refine within_pair_snd ?_
              apply updLane_within (hF.mono rfl)
              with_reducible assumption
          · refine within_pair_snd ?_
            with_reducible assumption

end Sys2Proof.Machine
end

