-- ==== Sys2Proof/Laws/FrameBlocks.lean ====
section
/-! SUPPORT. The frames of the operations of Machine/Blocks.lean: the parts that each may change. -/

namespace Sys2Proof.Machine

set_option Elab.async false

theorem dropReads_within {F : Part → Bool} {s : State} (hF : Part.All F [.fab]) {a1 : State} (k1 : s.Within F a1) :
    s.Within F (State.dropReads a1) := by
  unfold State.dropReads
  extract_lets +onlyGivenNames y0
  apply dropXfers_within (hF.mono rfl)
  with_reducible assumption

theorem slotsBack_within {F : Part → Bool} {s : State} (hF : Part.All F [.regs, .hdrs, .irq, .fab, .digest, .key]) {a1
    : State} (k1 : s.Within F a1) :
    s.Within F (State.slotsBack a1) := by
  unfold State.slotsBack
  refine within_ite (fun _ => ?_) (fun _ => ?_)
  · with_reducible assumption
  · split
    · rename_i x0 e1
      with_reducible assumption
    · rename_i x2 x3 e4
      refine within_ite (fun _ => ?_) (fun _ => ?_)
      · with_reducible assumption
      · extract_lets +onlyGivenNames y5
        have h6 : s.Within F y5 := by
          unfold y5
          apply kdfSeat_within (hF.mono rfl)
          with_reducible assumption
        refine within_ite (fun _ => ?_) (fun _ => ?_)
        · with_reducible assumption
        · split
          · rename_i x7 x8 u9 e10
            have h11 : s.Within F u9 := by
              refine takeMail_within (hF.mono rfl) ?_ e10
              with_reducible assumption
            extract_lets +onlyGivenNames y12
            have h13 : s.Within F y12 := by
              unfold y12
              apply kdfCount_within (hF.mono rfl)
              apply xferRetry_within (hF.mono rfl)
              with_reducible assumption
            apply kdfNext_within (hF.mono rfl)
            apply restoreImage_within (hF.mono rfl)
            with_reducible assumption
          · rename_i x14 e15
            with_reducible assumption

theorem whileWorking_within {F : Part → Bool} {s : State} (hF : Part.All F []) {a1 : State} (a2 : State → State) (k1 :
    s.Within F a1) (hf2 : ∀ z0, s.Within F z0 → s.Within F (a2 z0)) :
    s.Within F (State.whileWorking a1 a2) := by
  unfold State.whileWorking
  refine within_ite (fun _ => ?_) (fun _ => ?_)
  · apply hf2
    with_reducible assumption
  · with_reducible assumption

theorem abortFinishes_within {F : Part → Bool} {s : State} (hF : Part.All F [.regs, .hdrs, .irq, .qeng, .crown, .fab,
    .ctx, .key, .finishes]) {a1 : State} (a2) (a3) (a4) (k1 : s.Within F a1) :
    s.Within F (State.abortFinishes a1 a2 a3 a4) := by
  unfold State.abortFinishes
  extract_lets +onlyGivenNames y0
  extract_lets +onlyGivenNames y1
  have h2 : s.Within F y1 := by
    unfold y1
    apply dropXfers_within (hF.mono rfl)
    with_reducible assumption
  extract_lets +onlyGivenNames y3
  have h4 : s.Within F y3 := by
    unfold y3
    refine within_finishes (hF.one rfl) ?_
    with_reducible assumption
  apply within_foldl
  · intro u5 x6 h7
    extract_lets +onlyGivenNames y8
    have h9 : s.Within F y8 := by
      unfold y8
      split
      · rename_i x10 x11 x12 e13
        apply auditClear_within (hF.mono rfl)
        with_reducible assumption
      · rename_i x14 e15
        with_reducible assumption
    apply push_within (hF.mono rfl)
    with_reducible assumption
  · with_reducible assumption

theorem domainsUp_within {F : Part → Bool} {s : State} (hF : Part.All F [.blocks, .hdrs]) {a1 : State} (a2) (k1 :
    s.Within F a1) :
    s.Within F (State.domainsUp a1 a2) := by
  unfold State.domainsUp
  refine within_ite (fun _ => ?_) (fun _ => ?_)
  · apply updHdr_within (hF.mono rfl)
    with_reducible assumption
  · with_reducible assumption

theorem abortIssued_within {F : Part → Bool} {s : State} (hF : Part.All F [.regs, .hdrs, .irq, .qeng, .crown, .fab])
    {a1 : State} (a2) (k1 : s.Within F a1) :
    s.Within F (State.abortIssued a1 a2) := by
  unfold State.abortIssued
  extract_lets +onlyGivenNames y0
  have h1 : s.Within F y0 := by
    unfold y0
    apply issueRest_within (hF.mono rfl)
    with_reducible assumption
  extract_lets +onlyGivenNames y2
  extract_lets +onlyGivenNames y3
  extract_lets +onlyGivenNames y4
  have h5 : s.Within F y4 := by
    unfold y4
    refine within_qeng (hF.one rfl) ?_
    with_reducible assumption
  extract_lets +onlyGivenNames y6
  have h7 : s.Within F y6 := by
    unfold y6
    apply within_foldl
    · intro u8 x9 h10
      apply pushAborted_within (hF.mono rfl)
      apply unhold_within (hF.mono rfl)
      with_reducible assumption
    · with_reducible assumption
  apply within_foldl
  · intro u11 x12 h13
    apply chainFenced_within (hF.mono rfl)
    with_reducible assumption
  · with_reducible assumption

theorem upStarts_within {F : Part → Bool} {s : State} (hF : Part.All F [.regs, .hdrs, .irq, .fab, .rng, .key]) {a1 :
    State} (a2) (k1 : s.Within F a1) :
    s.Within F (State.upStarts a1 a2) := by
  unfold State.upStarts
  split
  · rename_i x0 e1
    apply rngStart_within (hF.mono rfl)
    with_reducible assumption
  · rename_i x2 e3
    refine within_ite (fun _ => ?_) (fun _ => ?_)
    · apply pounceFresh_within (hF.mono rfl)
      apply startRead_within (hF.mono rfl)
      with_reducible assumption
    · with_reducible assumption
  · rename_i x4 e5 e6
    with_reducible assumption

theorem resetBody_within {F : Part → Bool} {s : State} (hF : Part.All F [.config, .regs, .qeng, .crown, .digest, .rng,
    .dma]) {a1 : State} (a2) (k1 : s.Within F a1) :
    s.Within F (State.resetBody a1 a2) := by
  unfold State.resetBody
  extract_lets +onlyGivenNames y0
  extract_lets +onlyGivenNames y1
  have h2 : s.Within F y1 := by
    unfold y1
    apply within_foldl
    · intro u3 x4 h5
      refine within_ite (fun _ => ?_) (fun _ => ?_)
      · refine clearReg_within (hF.mono rfl) (fun _ => hF.one rfl) ?_
        with_reducible assumption
      · with_reducible assumption
    · with_reducible assumption
  split
  · rename_i x6 e7
    apply within_foldl
    · intro u8 x9 h10
      apply setRq_within (hF.mono rfl)
      with_reducible assumption
    · with_reducible assumption
  · rename_i x11 e12
    apply within_foldl
    · intro u13 x14 h15
      apply setCq_within (hF.mono rfl)
      with_reducible assumption
    · with_reducible assumption
  · rename_i x16 e17
    apply setDch_within (hF.mono rfl)
    with_reducible assumption
  · rename_i x18 e19
    refine within_digest (hF.one rfl) ?_
    with_reducible assumption
  · rename_i x20 e21
    refine within_rng (hF.one rfl) ?_
    with_reducible assumption
  · rename_i x22 e23 e24 e25 e26 e27
    with_reducible assumption

theorem crownWipe_within {F : Part → Bool} {s : State} (hF : Part.All F [.regs, .hdrs, .irq, .qeng, .crown, .fab,
    .perf]) {a1 : State} (k1 : s.Within F a1) :
    s.Within F (State.crownWipe a1) := by
  unfold State.crownWipe
  extract_lets +onlyGivenNames y0
  have h1 : s.Within F y0 := by
    unfold y0
    apply dropXfers_within (hF.mono rfl)
    apply traceDiscard_within (hF.mono rfl)
    with_reducible assumption
  extract_lets +onlyGivenNames y2
  extract_lets +onlyGivenNames y3
  extract_lets +onlyGivenNames y4
  have h5 : s.Within F y4 := by
    unfold y4
    refine within_mk ?_ (.inr rfl) (.inr rfl) (.inr rfl) (.inr rfl) (.inl (hF.one rfl)) (.inl (hF.one rfl)) (.inr rfl) (.inr rfl) (.inr rfl) (.inr rfl) (.inr rfl) (.inr rfl) (.inr rfl) (.inr rfl) (.inr ⟨rfl, rfl, rfl⟩) (.inr rfl) (.inr rfl) (.inr rfl) (.inr rfl) (.inr rfl) (.inr rfl) (.inr rfl) (.inr rfl)
    with_reducible assumption
  apply within_foldl
  · intro u6 x7 h8
    apply rqDrainEnd_within (hF.mono rfl)
    with_reducible assumption
  · with_reducible assumption

theorem loseWays_within {F : Part → Bool} {s : State} (hF : Part.All F [.regs]) {a1 : State} (a2) (k1 : s.Within F a1)
    :
    s.Within F (State.loseWays a1 a2) := by
  unfold State.loseWays
  extract_lets +onlyGivenNames y0
  refine bump_within (hF.mono rfl) (not_configured rfl) ?_
  with_reducible assumption

theorem softReset_within {F : Part → Bool} {s : State} (hF : Part.All F [.config, .regs, .blocks, .hdrs, .irq, .qeng,
    .crown, .digest, .rng, .dma]) {a1 : State} (a2) (k1 : s.Within F a1) :
    s.Within F (State.softReset a1 a2) := by
  unfold State.softReset
  refine within_ite (fun _ => ?_) (fun _ => ?_)
  · apply seq_within (hF.mono rfl)
    with_reducible assumption
  · extract_lets +onlyGivenNames y0
    have h1 : s.Within F y0 := by
      unfold y0
      apply resetBody_within (hF.mono rfl)
      with_reducible assumption
    apply updHdr_within (hF.mono rfl)
    with_reducible assumption

theorem abortBlock_within {F : Part → Bool} {s : State} (hF : Part.All F [.regs, .hdrs, .irq, .qeng, .crown, .fab,
    .frames, .ctx, .digest, .bignum, .rng, .key, .dma, .perf, .finishes]) {a1 : State} (a2) (a3) (k1 : s.Within F a1)
    :
    s.Within F (State.abortBlock a1 a2 a3) := by
  unfold State.abortBlock
  split
  · rename_i x0 e1
    extract_lets +onlyGivenNames y2
    extract_lets +onlyGivenNames y3
    have h4 : s.Within F y3 := by
      unfold y3
      apply endFrames_within (hF.mono rfl)
      with_reducible assumption
    apply laneClear_within (hF.mono rfl)
    with_reducible assumption
  · rename_i x5 e6
    apply endFrames_within (hF.mono rfl)
    with_reducible assumption
  · rename_i x7 e8
    apply coreStops_within (hF.mono rfl)
    with_reducible assumption
  · rename_i x9 e10
    extract_lets +onlyGivenNames y11
    have h12 : s.Within F y11 := by
      unfold y11
      apply abortFinishes_within (hF.mono rfl)
      apply digestAbort_within (hF.mono rfl)
      with_reducible assumption
    apply dropReads_within (hF.mono rfl)
    apply bnUnserved_within (hF.mono rfl)
    with_reducible assumption
  · rename_i x13 e14
    apply dropReads_within (hF.mono rfl)
    apply abortFinishes_within (hF.mono rfl)
    apply bnAbort_within (hF.mono rfl)
    with_reducible assumption
  · rename_i x15 e16
    apply rngWipe_within (hF.mono rfl)
    apply stopCells_within (hF.mono rfl)
    apply abortFinishes_within (hF.mono rfl)
    apply randomAbort_within (hF.mono rfl)
    with_reducible assumption
  · rename_i x17 e18
    apply portDrops_within (hF.mono rfl)
    apply dropReads_within (hF.mono rfl)
    apply abortFinishes_within (hF.mono rfl)
    apply keyAbort_within (hF.mono rfl)
    with_reducible assumption
  · rename_i x19 e20
    extract_lets +onlyGivenNames y21
    have h22 : s.Within F y21 := by
      unfold y21
      apply endFrames_within (hF.mono rfl)
      with_reducible assumption
    apply dropReads_within (hF.mono rfl)
    apply abortFinishes_within (hF.mono rfl)
    apply ctxAbort_within (hF.mono rfl)
    with_reducible assumption
  · rename_i x23 e24
    apply abortIssued_within (hF.mono rfl)
    apply rewindAll_within (hF.mono rfl)
    with_reducible assumption
  · rename_i x25 e26
    apply within_foldl
    · intro u27 x28 h29
      apply dmaDrop_within (hF.mono rfl)
      with_reducible assumption
    · with_reducible assumption
  · rename_i x30 e31
    apply dmaDrop_within (hF.mono rfl)
    with_reducible assumption
  · rename_i x32 e33
    refine within_ite (fun _ => ?_) (fun _ => ?_)
    · apply perfCount_within (hF.mono rfl)
      with_reducible assumption
    · with_reducible assumption
  · rename_i x34 e35 e36 e37 e38 e39 e40 e41 e42 e43 e44 e45 e46
    with_reducible assumption

theorem tryUp_within {F : Part → Bool} {s : State} (hF : Part.All F [.regs, .blocks, .hdrs, .irq, .fab, .rng, .key])
    {a1 : State} (a2) (k1 : s.Within F a1) :
    s.Within F (State.tryUp a1 a2) := by
  unfold State.tryUp
  extract_lets +onlyGivenNames y0
  refine within_ite (fun _ => ?_) (fun _ => ?_)
  · apply upStarts_within (hF.mono rfl)
    apply updHdr_within (hF.mono rfl)
    apply setBlk_within (hF.mono rfl)
    with_reducible assumption
  · with_reducible assumption

theorem downStarts_within {F : Part → Bool} {s : State} (hF : Part.All F [.regs, .hdrs, .irq, .qeng, .crown, .fab,
    .ctx, .digest, .rng, .key, .perf]) {a1 : State} (a2) (k1 : s.Within F a1) :
    s.Within F (State.downStarts a1 a2) := by
  unfold State.downStarts
  split
  · rename_i x0 e1
    extract_lets +onlyGivenNames y2
    have h3 : s.Within F y2 := by
      unfold y2
      apply dropReads_within (hF.mono rfl)
      apply stopCells_within (hF.mono rfl)
      apply randomAbort_within (hF.mono rfl)
      apply rngNotReady_within (hF.mono rfl)
      with_reducible assumption
    refine within_rng (hF.one rfl) ?_
    with_reducible assumption
  · rename_i x4 e5
    apply portDrops_within (hF.mono rfl)
    with_reducible assumption
  · rename_i x6 e7
    refine within_ite (fun _ => ?_) (fun _ => ?_)
    · apply flushCheck_within (hF.mono rfl)
      apply flushStart_within (hF.mono rfl)
      refine within_ctx (hF.one rfl) ?_
      with_reducible assumption
    · with_reducible assumption
  · rename_i x8 e9
    apply kdfSync_within (hF.mono rfl)
    apply dropHeld_within (hF.mono rfl)
    with_reducible assumption
  · rename_i x10 e11
    apply coreLeaves_within (hF.mono rfl)
    with_reducible assumption
  · rename_i x12 e13
    apply rewindAll_within (hF.mono rfl)
    with_reducible assumption
  · rename_i x14 e15 e16 e17 e18 e19 e20
    with_reducible assumption

theorem wipeBlock_within {F : Part → Bool} {s : State} (hF : Part.All F [.regs, .hdrs, .irq, .qeng, .crown, .fab,
    .frames, .ctx, .digest, .bignum, .rng, .custody, .key, .dma, .clk, .perf]) {a1 : State} (a2) (k1 : s.Within F a1)
    :
    s.Within F (State.wipeBlock a1 a2) := by
  unfold State.wipeBlock
  split
  · rename_i x0 e1
    apply laneClear_within (hF.mono rfl)
    with_reducible assumption
  · rename_i x2 e3
    apply setQuad_within (hF.mono rfl)
    apply unparkQuad_within (hF.mono rfl)
    with_reducible assumption
  · rename_i x4 e5
    apply setDcore_within (hF.mono rfl)
    with_reducible assumption
  · rename_i x6 e7
    apply pounceDrop_within (hF.mono rfl)
    apply digestWipe_within (hF.mono rfl)
    with_reducible assumption
  · rename_i x8 e9
    apply bnWipe_within (hF.mono rfl)
    with_reducible assumption
  · rename_i x10 e11
    apply rngStop_within (hF.mono rfl)
    with_reducible assumption
  · rename_i x12 e13
    apply kdfSync_within (hF.mono rfl)
    apply portDrops_within (hF.mono rfl)
    apply attestAbort_within (hF.mono rfl)
    apply clearSecrets_within (hF.mono rfl)
    apply losePounce_within (hF.mono rfl)
    apply clearDerived_within (hF.mono rfl)
    with_reducible assumption
  · rename_i x14 e15
    extract_lets +onlyGivenNames y16
    have h17 : s.Within F y16 := by
      unfold y16
      apply pounceDrop_within (hF.mono rfl)
      apply ctxDropCaches_within (hF.mono rfl)
      apply loseWays_within (hF.mono rfl)
      with_reducible assumption
    refine within_ctx (hF.one rfl) ?_
    with_reducible assumption
  · rename_i x18 e19
    apply rewindAll_within (hF.mono rfl)
    with_reducible assumption
  · rename_i x20 e21
    apply crownWipe_within (hF.mono rfl)
    with_reducible assumption
  · rename_i x22 e23
    refine within_dma (hF.one rfl) ?_
    with_reducible assumption
  · rename_i x24 e25
    apply dmaDrop_within (hF.mono rfl)
    with_reducible assumption
  · rename_i x26 e27
    apply perfOff_within (hF.mono rfl)
    with_reducible assumption
  · rename_i x28 e29 e30 e31 e32 e33 e34 e35 e36 e37 e38 e39 e40 e41
    with_reducible assumption

theorem goDown_within {F : Part → Bool} {s : State} (hF : Part.All F [.regs, .blocks, .hdrs, .irq, .qeng, .crown,
    .fab, .ctx, .digest, .rng, .key, .perf]) {a1 : State} (a2) (k1 : s.Within F a1) :
    s.Within F (State.goDown a1 a2) := by
  unfold State.goDown
  extract_lets +onlyGivenNames y0
  have h1 : s.Within F y0 := by
    unfold y0
    refine within_ite (fun _ => ?_) (fun _ => ?_)
    · apply perfCount_within (hF.mono rfl)
      with_reducible assumption
    · with_reducible assumption
  apply downStarts_within (hF.mono rfl)
  apply setBlk_within (hF.mono rfl)
  with_reducible assumption

theorem forceOff_within {F : Part → Bool} {s : State} (hF : Part.All F [.regs, .blocks, .hdrs, .irq, .qeng, .crown,
    .fab, .frames, .ctx, .digest, .bignum, .rng, .custody, .key, .dma, .clk, .perf]) {a1 : State} (a2) (k1 : s.Within
    F a1) :
    s.Within F (State.forceOff a1 a2) := by
  unfold State.forceOff
  extract_lets +onlyGivenNames y0
  have h1 : s.Within F y0 := by
    unfold y0
    apply wipeBlock_within (hF.mono rfl)
    with_reducible assumption
  extract_lets +onlyGivenNames y2
  have h3 : s.Within F y2 := by
    unfold y2
    apply updHdr_within (hF.mono rfl)
    with_reducible assumption
  apply setBlk_within (hF.mono rfl)
  with_reducible assumption

theorem enOff_within {F : Part → Bool} {s : State} (hF : Part.All F [.regs, .blocks, .hdrs, .irq, .qeng, .crown, .fab,
    .ctx, .digest, .rng, .key, .perf]) {a1 : State} (a2) (k1 : s.Within F a1) :
    s.Within F (State.enOff a1 a2) := by
  unfold State.enOff
  extract_lets +onlyGivenNames y0
  have h1 : s.Within F y0 := by
    unfold y0
    apply updHdr_within (hF.mono rfl)
    with_reducible assumption
  refine within_ite (fun _ => ?_) (fun _ => ?_)
  · apply goDown_within (hF.mono rfl)
    with_reducible assumption
  · with_reducible assumption

theorem allOff_within {F : Part → Bool} {s : State} (hF : Part.All F [.regs, .blocks, .hdrs, .irq, .qeng, .crown,
    .fab, .frames, .ctx, .digest, .bignum, .rng, .custody, .key, .dma, .clk, .perf]) {a1 : State} (k1 : s.Within F a1)
    :
    s.Within F (State.allOff a1) := by
  unfold State.allOff
  extract_lets +onlyGivenNames y0
  have h1 : s.Within F y0 := by
    unfold y0
    apply within_foldl
    · intro u2 x3 h4
      apply forceOff_within (hF.mono rfl)
      with_reducible assumption
    · with_reducible assumption
  refine within_frames (hF.one rfl) ?_
  with_reducible assumption

theorem follow_within {F : Part → Bool} {s : State} (hF : Part.All F [.regs, .blocks, .hdrs, .irq, .qeng, .crown,
    .fab, .ctx, .digest, .rng, .key, .perf]) {a1 : State} (a2) (k1 : s.Within F a1) :
    s.Within F (State.follow a1 a2) := by
  unfold State.follow
  split
  · rename_i x0 e1
    apply tryUp_within (hF.mono rfl)
    with_reducible assumption
  · rename_i x2 e3
    refine within_ite (fun _ => ?_) (fun _ => ?_)
    · with_reducible assumption
    · apply enOff_within (hF.mono rfl)
      with_reducible assumption
  · rename_i x4 e5
    refine within_ite (fun _ => ?_) (fun _ => ?_)
    · with_reducible assumption
    · apply enOff_within (hF.mono rfl)
      with_reducible assumption
  · rename_i x6 e7
    refine within_ite (fun _ => ?_) (fun _ => ?_)
    · with_reducible assumption
    · apply enOff_within (hF.mono rfl)
      with_reducible assumption
  · rename_i x8 e9
    with_reducible assumption

theorem followAll_within {F : Part → Bool} {s : State} (hF : Part.All F [.regs, .blocks, .hdrs, .irq, .qeng, .crown,
    .fab, .ctx, .digest, .rng, .key, .perf]) {a1 : State} (k1 : s.Within F a1) :
    s.Within F (State.followAll a1) := by
  unfold State.followAll
  apply within_foldl
  · intro u0 x1 h2
    apply follow_within (hF.mono rfl)
    with_reducible assumption
  · with_reducible assumption

theorem followUnder_within {F : Part → Bool} {s : State} (hF : Part.All F [.regs, .blocks, .hdrs, .irq, .qeng, .crown,
    .fab, .ctx, .digest, .rng, .key, .perf]) {a1 : State} (a2) (k1 : s.Within F a1) :
    s.Within F (State.followUnder a1 a2) := by
  unfold State.followUnder
  split
  · rename_i x0 e1
    apply within_foldl
    · intro u2 x3 h4
      apply follow_within (hF.mono rfl)
      with_reducible assumption
    · with_reducible assumption
  · rename_i x5 e6
    apply within_foldl
    · intro u7 x8 h9
      apply follow_within (hF.mono rfl)
      with_reducible assumption
    · with_reducible assumption
  · rename_i x10 e11 e12
    with_reducible assumption

theorem enWrite_within {F : Part → Bool} {s : State} (hF : Part.All F [.regs, .blocks, .hdrs, .irq, .qeng, .crown,
    .fab, .frames, .ctx, .digest, .bignum, .rng, .custody, .key, .dma, .clk, .perf]) {a1 : State} (a2) (a3) (k1 :
    s.Within F a1) :
    s.Within F (State.enWrite a1 a2 a3) := by
  unfold State.enWrite
  refine within_ite (fun _ => ?_) (fun _ => ?_)
  · with_reducible assumption
  · refine within_ite (fun _ => ?_) (fun _ => ?_)
    · apply seq_within (hF.mono rfl)
      with_reducible assumption
    · extract_lets +onlyGivenNames y0
      split
      · rename_i x1 e2 e3
        apply tryUp_within (hF.mono rfl)
        apply setHdr_within (hF.mono rfl)
        with_reducible assumption
      · rename_i x4 e5 e6
        apply setHdr_within (hF.mono rfl)
        with_reducible assumption
      · rename_i x7 x8 e9 e10
        apply setHdr_within (hF.mono rfl)
        with_reducible assumption
      · rename_i x11 e12 e13
        apply setHdr_within (hF.mono rfl)
        with_reducible assumption
      · rename_i x14 e15 e16
        apply followUnder_within (hF.mono rfl)
        apply enOff_within (hF.mono rfl)
        with_reducible assumption
      · rename_i x17 e18 e19
        apply setHdr_within (hF.mono rfl)
        with_reducible assumption
      · rename_i x20 e21 e22
        apply setHdr_within (hF.mono rfl)
        with_reducible assumption
      · rename_i x23 e24 e25
        with_reducible assumption
      · rename_i x26 e27 e28
        extract_lets +onlyGivenNames y29
        have h30 : s.Within F y29 := by
          unfold y29
          apply wipeBlock_within (hF.mono rfl)
          with_reducible assumption
        extract_lets +onlyGivenNames y31
        extract_lets +onlyGivenNames y32
        have h33 : s.Within F y32 := by
          unfold y32
          apply setBlk_within (hF.mono rfl)
          apply setHdr_within (hF.mono rfl)
          with_reducible assumption
        apply followUnder_within (hF.mono rfl)
        with_reducible assumption

theorem lanesFollow_within {F : Part → Bool} {s : State} (hF : Part.All F [.regs, .blocks, .hdrs, .irq, .qeng, .crown,
    .fab, .ctx, .digest, .rng, .key, .perf]) {a1 : State} (k1 : s.Within F a1) :
    s.Within F (State.lanesFollow a1) := by
  unfold State.lanesFollow
  apply within_foldl
  · intro u0 x1 h2
    refine within_ite (fun _ => ?_) (fun _ => ?_)
    · apply followUnder_within (hF.mono rfl)
      with_reducible assumption
    · with_reducible assumption
  · with_reducible assumption

theorem upEnded_within {F : Part → Bool} {s : State} (hF : Part.All F [.regs, .blocks, .hdrs, .irq, .qeng, .crown,
    .fab, .ctx, .digest, .rng, .key, .perf]) {a1 : State} (a2) (k1 : s.Within F a1) :
    s.Within F (State.upEnded a1 a2) := by
  unfold State.upEnded
  split
  · rename_i x0 e1
    extract_lets +onlyGivenNames y2
    have h3 : s.Within F y2 := by
      unfold y2
      refine put_within (hF.mono rfl) (not_configured rfl) ?_
      with_reducible assumption
    refine within_rng (hF.one rfl) ?_
    with_reducible assumption
  · rename_i x4 e5
    apply kdfSync_within (hF.mono rfl)
    apply pounceFresh_within (hF.mono rfl)
    apply askDerive_within (hF.mono rfl)
    with_reducible assumption
  · rename_i x6 e7
    apply pounceFresh_within (hF.mono rfl)
    with_reducible assumption
  · rename_i x8 e9
    apply bnGrant_within (hF.mono rfl)
    apply kdfSync_within (hF.mono rfl)
    apply pounceFresh_within (hF.mono rfl)
    with_reducible assumption
  · rename_i x10 e11
    apply followUnder_within (hF.mono rfl)
    with_reducible assumption
  · rename_i x12 e13
    apply followUnder_within (hF.mono rfl)
    with_reducible assumption
  · rename_i x14 e15
    apply coresGo_within (hF.mono rfl)
    apply kdfSync_within (hF.mono rfl)
    with_reducible assumption
  · rename_i x16 e17 e18 e19 e20 e21 e22 e23
    with_reducible assumption

theorem initDone_within {F : Part → Bool} {s : State} (hF : Part.All F [.regs, .blocks, .hdrs, .irq, .qeng, .crown,
    .fab, .ctx, .digest, .rng, .key, .perf]) {a1 : State} (a2) (k1 : s.Within F a1) :
    s.Within F (State.initDone a1 a2) := by
  unfold State.initDone
  refine within_ite (fun _ => ?_) (fun _ => ?_)
  · extract_lets +onlyGivenNames y0
    have h1 : s.Within F y0 := by
      unfold y0
      apply setBlk_within (hF.mono rfl)
      with_reducible assumption
    refine within_ite (fun _ => ?_) (fun _ => ?_)
    · apply upEnded_within (hF.mono rfl)
      with_reducible assumption
    · split
      · rename_i x2 e3
        apply goDown_within (hF.mono rfl)
        with_reducible assumption
      · rename_i x4 e5
        apply goDown_within (hF.mono rfl)
        with_reducible assumption
      · rename_i x6 e7 e8
        apply goDown_within (hF.mono rfl)
        apply upEnded_within (hF.mono rfl)
        with_reducible assumption
  · with_reducible assumption

theorem enterFenced_within {F : Part → Bool} {s : State} (hF : Part.All F [.regs, .blocks, .hdrs, .irq, .qeng, .crown,
    .fab, .frames, .ctx, .digest, .bignum, .rng, .key, .dma, .perf, .finishes]) {a1 : State} (a2) (a3) (k1 : s.Within
    F a1) :
    s.Within F (State.enterFenced a1 a2 a3) := by
  unfold State.enterFenced
  extract_lets +onlyGivenNames y0
  have h1 : s.Within F y0 := by
    unfold y0
    apply abortBlock_within (hF.mono rfl)
    with_reducible assumption
  extract_lets +onlyGivenNames y2
  have h3 : s.Within F y2 := by
    unfold y2
    apply setBlk_within (hF.mono rfl)
    with_reducible assumption
  extract_lets +onlyGivenNames y4
  have h5 : s.Within F y4 := by
    unfold y4
    refine within_ite (fun _ => ?_) (fun _ => ?_)
    · apply takeCores_within (hF.mono rfl)
      apply kdfSync_within (hF.mono rfl)
      with_reducible assumption
    · with_reducible assumption
  extract_lets +onlyGivenNames y6
  have h7 : s.Within F y6 := by
    unfold y6
    apply raiseFault_within (hF.mono rfl)
    apply updHdr_within (hF.mono rfl)
    with_reducible assumption
  extract_lets +onlyGivenNames y8
  have h9 : s.Within F y8 := by
    unfold y8
    refine within_ite (fun _ => ?_) (fun _ => ?_)
    · apply pushEvent_within (hF.mono rfl)
      apply raiseFault_within (hF.mono rfl)
      with_reducible assumption
    · with_reducible assumption
  extract_lets +onlyGivenNames y10
  have h11 : s.Within F y10 := by
    unfold y10
    refine within_ite (fun _ => ?_) (fun _ => ?_)
    · with_reducible assumption
    · apply logFence_within (hF.mono rfl)
      with_reducible assumption
  apply lanesFollow_within (hF.mono rfl)
  apply followUnder_within (hF.mono rfl)
  with_reducible assumption

theorem shutdownDone_within {F : Part → Bool} {s : State} (hF : Part.All F [.regs, .blocks, .hdrs, .irq, .qeng,
    .crown, .fab, .frames, .ctx, .digest, .bignum, .rng, .custody, .key, .dma, .clk, .perf, .finishes]) {a1 : State}
    (a2) (k1 : s.Within F a1) :
    s.Within F (State.shutdownDone a1 a2) := by
  unfold State.shutdownDone
  extract_lets +onlyGivenNames y0
  refine within_ite (fun _ => ?_) (fun _ => ?_)
  · with_reducible assumption
  · extract_lets +onlyGivenNames y1
    have h2 : s.Within F y1 := by
      unfold y1
      apply wipeBlock_within (hF.mono rfl)
      with_reducible assumption
    split
    · rename_i x3 x4 e5
      apply enterFenced_within (hF.mono rfl)
      with_reducible assumption
    · rename_i x6 e7
      extract_lets +onlyGivenNames y8
      have h9 : s.Within F y8 := by
        unfold y8
        apply tryUp_within (hF.mono rfl)
        apply setBlk_within (hF.mono rfl)
        with_reducible assumption
      split
      · rename_i x10 e11
        with_reducible assumption
      · rename_i x12 e13
        with_reducible assumption
      · rename_i x14 e15 e16
        apply followUnder_within (hF.mono rfl)
        with_reducible assumption

theorem fenceBlock_within {F : Part → Bool} {s : State} (hF : Part.All F [.regs, .blocks, .hdrs, .irq, .qeng, .crown,
    .fab, .frames, .ctx, .digest, .bignum, .rng, .key, .dma, .perf, .finishes]) {a1 : State} (a2) (a3) (k1 : s.Within
    F a1) :
    s.Within F (State.fenceBlock a1 a2 a3) := by
  unfold State.fenceBlock
  extract_lets +onlyGivenNames y0
  split
  · rename_i x1 e2
    with_reducible assumption
  · rename_i x3 e4
    with_reducible assumption
  · rename_i x5 e6
    refine within_ite (fun _ => ?_) (fun _ => ?_)
    · with_reducible assumption
    · apply setHdr_within (hF.mono rfl)
      with_reducible assumption
  · rename_i x7 e8
    apply enterFenced_within (hF.mono rfl)
    with_reducible assumption
  · rename_i x9 e10
    apply enterFenced_within (hF.mono rfl)
    with_reducible assumption

theorem transTimeout_within {F : Part → Bool} {s : State} (hF : Part.All F [.regs, .blocks, .hdrs, .irq, .qeng,
    .crown, .fab, .frames, .ctx, .digest, .bignum, .rng, .key, .dma, .perf, .finishes]) {a1 : State} (a2) (k1 :
    s.Within F a1) :
    s.Within F (State.transTimeout a1 a2) := by
  unfold State.transTimeout
  extract_lets +onlyGivenNames y0
  refine within_ite (fun _ => ?_) (fun _ => ?_)
  · apply seq_within (hF.mono rfl)
    apply enterFenced_within (hF.mono rfl)
    with_reducible assumption
  · with_reducible assumption

theorem fence_within {F : Part → Bool} {s : State} (hF : Part.All F [.regs, .blocks, .hdrs, .irq, .qeng, .crown, .fab,
    .frames, .ctx, .digest, .bignum, .rng, .key, .dma, .perf, .finishes]) {a1 : State} (a2) (a3) (k1 : s.Within F a1)
    :
    s.Within F (State.fence a1 a2 a3) := by
  unfold State.fence
  apply ascending_within (hF.mono rfl)
  apply fenceBlock_within (hF.mono rfl)
  with_reducible assumption

theorem fenceBnUnit_within {F : Part → Bool} {s : State} (hF : Part.All F [.regs, .blocks, .hdrs, .irq, .qeng, .crown,
    .fab, .frames, .ctx, .digest, .bignum, .rng, .key, .dma, .perf, .finishes]) {a1 : State} (a2) (a3) (k1 : s.Within
    F a1) :
    s.Within F (State.fenceBnUnit a1 a2 a3) := by
  unfold State.fenceBnUnit
  refine within_ite (fun _ => ?_) (fun _ => ?_)
  · with_reducible assumption
  · extract_lets +onlyGivenNames y0
    have h1 : s.Within F y0 := by
      unfold y0
      apply bnUnitLost_within (hF.mono rfl)
      with_reducible assumption
    refine within_ite (fun _ => ?_) (fun _ => ?_)
    · apply fence_within (hF.mono rfl)
      with_reducible assumption
    · with_reducible assumption

end Sys2Proof.Machine
end

