-- ==== Sys2Proof/Laws/State.lean ====
section
/-! SUPPORT. What each update of one part of State leaves of the others, true by unfolding, and what it leaves in its own part. -/

namespace Sys2Proof.Machine

set_option Elab.async false

/-! ### setBnChan: bignum alone -/

@[simp] theorem State.setBnChan_tile (s : State) (c : Nat) (x : BnChan) : (State.setBnChan s c x).tile = s.tile := rfl
@[simp] theorem State.setBnChan_cp (s : State) (c : Nat) (x : BnChan) : (State.setBnChan s c x).cp = s.cp := rfl
@[simp] theorem State.setBnChan_regs (s : State) (c : Nat) (x : BnChan) : (State.setBnChan s c x).regs = s.regs := rfl
@[simp] theorem State.setBnChan_hdrs (s : State) (c : Nat) (x : BnChan) : (State.setBnChan s c x).hdrs = s.hdrs := rfl
@[simp] theorem State.setBnChan_irq (s : State) (c : Nat) (x : BnChan) : (State.setBnChan s c x).irq = s.irq := rfl
@[simp] theorem State.setBnChan_qeng (s : State) (c : Nat) (x : BnChan) : (State.setBnChan s c x).qeng = s.qeng := rfl
@[simp] theorem State.setBnChan_crown (s : State) (c : Nat) (x : BnChan) : (State.setBnChan s c x).crown = s.crown := rfl
@[simp] theorem State.setBnChan_fab (s : State) (c : Nat) (x : BnChan) : (State.setBnChan s c x).fab = s.fab := rfl
@[simp] theorem State.setBnChan_frames (s : State) (c : Nat) (x : BnChan) : (State.setBnChan s c x).frames = s.frames := rfl
@[simp] theorem State.setBnChan_ctx (s : State) (c : Nat) (x : BnChan) : (State.setBnChan s c x).ctx = s.ctx := rfl
@[simp] theorem State.setBnChan_epoch (s : State) (c : Nat) (x : BnChan) : (State.setBnChan s c x).epoch = s.epoch := rfl
@[simp] theorem State.setBnChan_digest (s : State) (c : Nat) (x : BnChan) : (State.setBnChan s c x).digest = s.digest := rfl
@[simp] theorem State.setBnChan_rng (s : State) (c : Nat) (x : BnChan) : (State.setBnChan s c x).rng = s.rng := rfl
@[simp] theorem State.setBnChan_key (s : State) (c : Nat) (x : BnChan) : (State.setBnChan s c x).key = s.key := rfl
@[simp] theorem State.setBnChan_dma (s : State) (c : Nat) (x : BnChan) : (State.setBnChan s c x).dma = s.dma := rfl
@[simp] theorem State.setBnChan_hb (s : State) (c : Nat) (x : BnChan) : (State.setBnChan s c x).hb = s.hb := rfl
@[simp] theorem State.setBnChan_clk (s : State) (c : Nat) (x : BnChan) : (State.setBnChan s c x).clk = s.clk := rfl
@[simp] theorem State.setBnChan_pwr (s : State) (c : Nat) (x : BnChan) : (State.setBnChan s c x).pwr = s.pwr := rfl
@[simp] theorem State.setBnChan_tamp (s : State) (c : Nat) (x : BnChan) : (State.setBnChan s c x).tamp = s.tamp := rfl
@[simp] theorem State.setBnChan_perf (s : State) (c : Nat) (x : BnChan) : (State.setBnChan s c x).perf = s.perf := rfl
@[simp] theorem State.setBnChan_wrap (s : State) (c : Nat) (x : BnChan) : (State.setBnChan s c x).wrap = s.wrap := rfl
@[simp] theorem State.setBnChan_finishes (s : State) (c : Nat) (x : BnChan) : (State.setBnChan s c x).finishes = s.finishes := rfl
@[simp] theorem State.setBnChan_nextJob (s : State) (c : Nat) (x : BnChan) : (State.setBnChan s c x).nextJob = s.nextJob := rfl
@[simp] theorem State.setBnChan_freeCtr (s : State) (c : Nat) (x : BnChan) : (State.setBnChan s c x).freeCtr = s.freeCtr := rfl
@[simp] theorem State.setBnChan_pending (s : State) (c : Nat) (x : BnChan) : (State.setBnChan s c x).pending = s.pending := rfl

/-! ### updClk: clk alone -/

@[simp] theorem State.updClk_tile (s : State) (f : Clk → Clk) : (State.updClk s f).tile = s.tile := rfl
@[simp] theorem State.updClk_cp (s : State) (f : Clk → Clk) : (State.updClk s f).cp = s.cp := rfl
@[simp] theorem State.updClk_regs (s : State) (f : Clk → Clk) : (State.updClk s f).regs = s.regs := rfl
@[simp] theorem State.updClk_hdrs (s : State) (f : Clk → Clk) : (State.updClk s f).hdrs = s.hdrs := rfl
@[simp] theorem State.updClk_irq (s : State) (f : Clk → Clk) : (State.updClk s f).irq = s.irq := rfl
@[simp] theorem State.updClk_qeng (s : State) (f : Clk → Clk) : (State.updClk s f).qeng = s.qeng := rfl
@[simp] theorem State.updClk_crown (s : State) (f : Clk → Clk) : (State.updClk s f).crown = s.crown := rfl
@[simp] theorem State.updClk_fab (s : State) (f : Clk → Clk) : (State.updClk s f).fab = s.fab := rfl
@[simp] theorem State.updClk_frames (s : State) (f : Clk → Clk) : (State.updClk s f).frames = s.frames := rfl
@[simp] theorem State.updClk_ctx (s : State) (f : Clk → Clk) : (State.updClk s f).ctx = s.ctx := rfl
@[simp] theorem State.updClk_epoch (s : State) (f : Clk → Clk) : (State.updClk s f).epoch = s.epoch := rfl
@[simp] theorem State.updClk_digest (s : State) (f : Clk → Clk) : (State.updClk s f).digest = s.digest := rfl
@[simp] theorem State.updClk_bignum (s : State) (f : Clk → Clk) : (State.updClk s f).bignum = s.bignum := rfl
@[simp] theorem State.updClk_rng (s : State) (f : Clk → Clk) : (State.updClk s f).rng = s.rng := rfl
@[simp] theorem State.updClk_key (s : State) (f : Clk → Clk) : (State.updClk s f).key = s.key := rfl
@[simp] theorem State.updClk_dma (s : State) (f : Clk → Clk) : (State.updClk s f).dma = s.dma := rfl
@[simp] theorem State.updClk_hb (s : State) (f : Clk → Clk) : (State.updClk s f).hb = s.hb := rfl
@[simp] theorem State.updClk_pwr (s : State) (f : Clk → Clk) : (State.updClk s f).pwr = s.pwr := rfl
@[simp] theorem State.updClk_tamp (s : State) (f : Clk → Clk) : (State.updClk s f).tamp = s.tamp := rfl
@[simp] theorem State.updClk_perf (s : State) (f : Clk → Clk) : (State.updClk s f).perf = s.perf := rfl
@[simp] theorem State.updClk_wrap (s : State) (f : Clk → Clk) : (State.updClk s f).wrap = s.wrap := rfl
@[simp] theorem State.updClk_finishes (s : State) (f : Clk → Clk) : (State.updClk s f).finishes = s.finishes := rfl
@[simp] theorem State.updClk_nextJob (s : State) (f : Clk → Clk) : (State.updClk s f).nextJob = s.nextJob := rfl
@[simp] theorem State.updClk_freeCtr (s : State) (f : Clk → Clk) : (State.updClk s f).freeCtr = s.freeCtr := rfl
@[simp] theorem State.updClk_pending (s : State) (f : Clk → Clk) : (State.updClk s f).pending = s.pending := rfl

/-! ### setBank: key alone -/

@[simp] theorem State.setBank_tile (s : State) (b : Nat) (x : Bank) : (State.setBank s b x).tile = s.tile := rfl
@[simp] theorem State.setBank_cp (s : State) (b : Nat) (x : Bank) : (State.setBank s b x).cp = s.cp := rfl
@[simp] theorem State.setBank_regs (s : State) (b : Nat) (x : Bank) : (State.setBank s b x).regs = s.regs := rfl
@[simp] theorem State.setBank_hdrs (s : State) (b : Nat) (x : Bank) : (State.setBank s b x).hdrs = s.hdrs := rfl
@[simp] theorem State.setBank_irq (s : State) (b : Nat) (x : Bank) : (State.setBank s b x).irq = s.irq := rfl
@[simp] theorem State.setBank_qeng (s : State) (b : Nat) (x : Bank) : (State.setBank s b x).qeng = s.qeng := rfl
@[simp] theorem State.setBank_crown (s : State) (b : Nat) (x : Bank) : (State.setBank s b x).crown = s.crown := rfl
@[simp] theorem State.setBank_fab (s : State) (b : Nat) (x : Bank) : (State.setBank s b x).fab = s.fab := rfl
@[simp] theorem State.setBank_frames (s : State) (b : Nat) (x : Bank) : (State.setBank s b x).frames = s.frames := rfl
@[simp] theorem State.setBank_ctx (s : State) (b : Nat) (x : Bank) : (State.setBank s b x).ctx = s.ctx := rfl
@[simp] theorem State.setBank_epoch (s : State) (b : Nat) (x : Bank) : (State.setBank s b x).epoch = s.epoch := rfl
@[simp] theorem State.setBank_digest (s : State) (b : Nat) (x : Bank) : (State.setBank s b x).digest = s.digest := rfl
@[simp] theorem State.setBank_bignum (s : State) (b : Nat) (x : Bank) : (State.setBank s b x).bignum = s.bignum := rfl
@[simp] theorem State.setBank_rng (s : State) (b : Nat) (x : Bank) : (State.setBank s b x).rng = s.rng := rfl
@[simp] theorem State.setBank_dma (s : State) (b : Nat) (x : Bank) : (State.setBank s b x).dma = s.dma := rfl
@[simp] theorem State.setBank_hb (s : State) (b : Nat) (x : Bank) : (State.setBank s b x).hb = s.hb := rfl
@[simp] theorem State.setBank_clk (s : State) (b : Nat) (x : Bank) : (State.setBank s b x).clk = s.clk := rfl
@[simp] theorem State.setBank_pwr (s : State) (b : Nat) (x : Bank) : (State.setBank s b x).pwr = s.pwr := rfl
@[simp] theorem State.setBank_tamp (s : State) (b : Nat) (x : Bank) : (State.setBank s b x).tamp = s.tamp := rfl
@[simp] theorem State.setBank_perf (s : State) (b : Nat) (x : Bank) : (State.setBank s b x).perf = s.perf := rfl
@[simp] theorem State.setBank_wrap (s : State) (b : Nat) (x : Bank) : (State.setBank s b x).wrap = s.wrap := rfl
@[simp] theorem State.setBank_finishes (s : State) (b : Nat) (x : Bank) : (State.setBank s b x).finishes = s.finishes := rfl
@[simp] theorem State.setBank_nextJob (s : State) (b : Nat) (x : Bank) : (State.setBank s b x).nextJob = s.nextJob := rfl
@[simp] theorem State.setBank_freeCtr (s : State) (b : Nat) (x : Bank) : (State.setBank s b x).freeCtr = s.freeCtr := rfl
@[simp] theorem State.setBank_pending (s : State) (b : Nat) (x : Bank) : (State.setBank s b x).pending = s.pending := rfl

/-! ### setNode: ctx alone -/

@[simp] theorem State.setNode_tile (s : State) (lvl idx : Nat) (n : Node) :
    (State.setNode s lvl idx n).tile = s.tile := rfl
@[simp] theorem State.setNode_cp (s : State) (lvl idx : Nat) (n : Node) :
    (State.setNode s lvl idx n).cp = s.cp := rfl
@[simp] theorem State.setNode_regs (s : State) (lvl idx : Nat) (n : Node) :
    (State.setNode s lvl idx n).regs = s.regs := rfl
@[simp] theorem State.setNode_hdrs (s : State) (lvl idx : Nat) (n : Node) :
    (State.setNode s lvl idx n).hdrs = s.hdrs := rfl
@[simp] theorem State.setNode_irq (s : State) (lvl idx : Nat) (n : Node) :
    (State.setNode s lvl idx n).irq = s.irq := rfl
@[simp] theorem State.setNode_qeng (s : State) (lvl idx : Nat) (n : Node) :
    (State.setNode s lvl idx n).qeng = s.qeng := rfl
@[simp] theorem State.setNode_crown (s : State) (lvl idx : Nat) (n : Node) :
    (State.setNode s lvl idx n).crown = s.crown := rfl
@[simp] theorem State.setNode_fab (s : State) (lvl idx : Nat) (n : Node) :
    (State.setNode s lvl idx n).fab = s.fab := rfl
@[simp] theorem State.setNode_frames (s : State) (lvl idx : Nat) (n : Node) :
    (State.setNode s lvl idx n).frames = s.frames := rfl
@[simp] theorem State.setNode_epoch (s : State) (lvl idx : Nat) (n : Node) :
    (State.setNode s lvl idx n).epoch = s.epoch := rfl
@[simp] theorem State.setNode_digest (s : State) (lvl idx : Nat) (n : Node) :
    (State.setNode s lvl idx n).digest = s.digest := rfl
@[simp] theorem State.setNode_bignum (s : State) (lvl idx : Nat) (n : Node) :
    (State.setNode s lvl idx n).bignum = s.bignum := rfl
@[simp] theorem State.setNode_rng (s : State) (lvl idx : Nat) (n : Node) :
    (State.setNode s lvl idx n).rng = s.rng := rfl
@[simp] theorem State.setNode_key (s : State) (lvl idx : Nat) (n : Node) :
    (State.setNode s lvl idx n).key = s.key := rfl
@[simp] theorem State.setNode_dma (s : State) (lvl idx : Nat) (n : Node) :
    (State.setNode s lvl idx n).dma = s.dma := rfl
@[simp] theorem State.setNode_hb (s : State) (lvl idx : Nat) (n : Node) :
    (State.setNode s lvl idx n).hb = s.hb := rfl
@[simp] theorem State.setNode_clk (s : State) (lvl idx : Nat) (n : Node) :
    (State.setNode s lvl idx n).clk = s.clk := rfl
@[simp] theorem State.setNode_pwr (s : State) (lvl idx : Nat) (n : Node) :
    (State.setNode s lvl idx n).pwr = s.pwr := rfl
@[simp] theorem State.setNode_tamp (s : State) (lvl idx : Nat) (n : Node) :
    (State.setNode s lvl idx n).tamp = s.tamp := rfl
@[simp] theorem State.setNode_perf (s : State) (lvl idx : Nat) (n : Node) :
    (State.setNode s lvl idx n).perf = s.perf := rfl
@[simp] theorem State.setNode_wrap (s : State) (lvl idx : Nat) (n : Node) :
    (State.setNode s lvl idx n).wrap = s.wrap := rfl
@[simp] theorem State.setNode_finishes (s : State) (lvl idx : Nat) (n : Node) :
    (State.setNode s lvl idx n).finishes = s.finishes := rfl
@[simp] theorem State.setNode_nextJob (s : State) (lvl idx : Nat) (n : Node) :
    (State.setNode s lvl idx n).nextJob = s.nextJob := rfl
@[simp] theorem State.setNode_freeCtr (s : State) (lvl idx : Nat) (n : Node) :
    (State.setNode s lvl idx n).freeCtr = s.freeCtr := rfl
@[simp] theorem State.setNode_pending (s : State) (lvl idx : Nat) (n : Node) :
    (State.setNode s lvl idx n).pending = s.pending := rfl

/-! ### setWay: ctx alone -/

@[simp] theorem State.setWay_tile (s : State) (k : Nat) (w : Way) : (State.setWay s k w).tile = s.tile := rfl
@[simp] theorem State.setWay_cp (s : State) (k : Nat) (w : Way) : (State.setWay s k w).cp = s.cp := rfl
@[simp] theorem State.setWay_regs (s : State) (k : Nat) (w : Way) : (State.setWay s k w).regs = s.regs := rfl
@[simp] theorem State.setWay_hdrs (s : State) (k : Nat) (w : Way) : (State.setWay s k w).hdrs = s.hdrs := rfl
@[simp] theorem State.setWay_irq (s : State) (k : Nat) (w : Way) : (State.setWay s k w).irq = s.irq := rfl
@[simp] theorem State.setWay_qeng (s : State) (k : Nat) (w : Way) : (State.setWay s k w).qeng = s.qeng := rfl
@[simp] theorem State.setWay_crown (s : State) (k : Nat) (w : Way) : (State.setWay s k w).crown = s.crown := rfl
@[simp] theorem State.setWay_fab (s : State) (k : Nat) (w : Way) : (State.setWay s k w).fab = s.fab := rfl
@[simp] theorem State.setWay_frames (s : State) (k : Nat) (w : Way) : (State.setWay s k w).frames = s.frames := rfl
@[simp] theorem State.setWay_epoch (s : State) (k : Nat) (w : Way) : (State.setWay s k w).epoch = s.epoch := rfl
@[simp] theorem State.setWay_digest (s : State) (k : Nat) (w : Way) : (State.setWay s k w).digest = s.digest := rfl
@[simp] theorem State.setWay_bignum (s : State) (k : Nat) (w : Way) : (State.setWay s k w).bignum = s.bignum := rfl
@[simp] theorem State.setWay_rng (s : State) (k : Nat) (w : Way) : (State.setWay s k w).rng = s.rng := rfl
@[simp] theorem State.setWay_key (s : State) (k : Nat) (w : Way) : (State.setWay s k w).key = s.key := rfl
@[simp] theorem State.setWay_dma (s : State) (k : Nat) (w : Way) : (State.setWay s k w).dma = s.dma := rfl
@[simp] theorem State.setWay_hb (s : State) (k : Nat) (w : Way) : (State.setWay s k w).hb = s.hb := rfl
@[simp] theorem State.setWay_clk (s : State) (k : Nat) (w : Way) : (State.setWay s k w).clk = s.clk := rfl
@[simp] theorem State.setWay_pwr (s : State) (k : Nat) (w : Way) : (State.setWay s k w).pwr = s.pwr := rfl
@[simp] theorem State.setWay_tamp (s : State) (k : Nat) (w : Way) : (State.setWay s k w).tamp = s.tamp := rfl
@[simp] theorem State.setWay_perf (s : State) (k : Nat) (w : Way) : (State.setWay s k w).perf = s.perf := rfl
@[simp] theorem State.setWay_wrap (s : State) (k : Nat) (w : Way) : (State.setWay s k w).wrap = s.wrap := rfl
@[simp] theorem State.setWay_finishes (s : State) (k : Nat) (w : Way) : (State.setWay s k w).finishes = s.finishes := rfl
@[simp] theorem State.setWay_nextJob (s : State) (k : Nat) (w : Way) : (State.setWay s k w).nextJob = s.nextJob := rfl
@[simp] theorem State.setWay_freeCtr (s : State) (k : Nat) (w : Way) : (State.setWay s k w).freeCtr = s.freeCtr := rfl
@[simp] theorem State.setWay_pending (s : State) (k : Nat) (w : Way) : (State.setWay s k w).pending = s.pending := rfl

/-! ### setMiss: ctx alone -/

@[simp] theorem State.setMiss_tile (s : State) (m : Miss) : (State.setMiss s m).tile = s.tile := rfl
@[simp] theorem State.setMiss_cp (s : State) (m : Miss) : (State.setMiss s m).cp = s.cp := rfl
@[simp] theorem State.setMiss_regs (s : State) (m : Miss) : (State.setMiss s m).regs = s.regs := rfl
@[simp] theorem State.setMiss_hdrs (s : State) (m : Miss) : (State.setMiss s m).hdrs = s.hdrs := rfl
@[simp] theorem State.setMiss_irq (s : State) (m : Miss) : (State.setMiss s m).irq = s.irq := rfl
@[simp] theorem State.setMiss_qeng (s : State) (m : Miss) : (State.setMiss s m).qeng = s.qeng := rfl
@[simp] theorem State.setMiss_crown (s : State) (m : Miss) : (State.setMiss s m).crown = s.crown := rfl
@[simp] theorem State.setMiss_fab (s : State) (m : Miss) : (State.setMiss s m).fab = s.fab := rfl
@[simp] theorem State.setMiss_frames (s : State) (m : Miss) : (State.setMiss s m).frames = s.frames := rfl
@[simp] theorem State.setMiss_epoch (s : State) (m : Miss) : (State.setMiss s m).epoch = s.epoch := rfl
@[simp] theorem State.setMiss_digest (s : State) (m : Miss) : (State.setMiss s m).digest = s.digest := rfl
@[simp] theorem State.setMiss_bignum (s : State) (m : Miss) : (State.setMiss s m).bignum = s.bignum := rfl
@[simp] theorem State.setMiss_rng (s : State) (m : Miss) : (State.setMiss s m).rng = s.rng := rfl
@[simp] theorem State.setMiss_key (s : State) (m : Miss) : (State.setMiss s m).key = s.key := rfl
@[simp] theorem State.setMiss_dma (s : State) (m : Miss) : (State.setMiss s m).dma = s.dma := rfl
@[simp] theorem State.setMiss_hb (s : State) (m : Miss) : (State.setMiss s m).hb = s.hb := rfl
@[simp] theorem State.setMiss_clk (s : State) (m : Miss) : (State.setMiss s m).clk = s.clk := rfl
@[simp] theorem State.setMiss_pwr (s : State) (m : Miss) : (State.setMiss s m).pwr = s.pwr := rfl
@[simp] theorem State.setMiss_tamp (s : State) (m : Miss) : (State.setMiss s m).tamp = s.tamp := rfl
@[simp] theorem State.setMiss_perf (s : State) (m : Miss) : (State.setMiss s m).perf = s.perf := rfl
@[simp] theorem State.setMiss_wrap (s : State) (m : Miss) : (State.setMiss s m).wrap = s.wrap := rfl
@[simp] theorem State.setMiss_finishes (s : State) (m : Miss) : (State.setMiss s m).finishes = s.finishes := rfl
@[simp] theorem State.setMiss_nextJob (s : State) (m : Miss) : (State.setMiss s m).nextJob = s.nextJob := rfl
@[simp] theorem State.setMiss_freeCtr (s : State) (m : Miss) : (State.setMiss s m).freeCtr = s.freeCtr := rfl
@[simp] theorem State.setMiss_pending (s : State) (m : Miss) : (State.setMiss s m).pending = s.pending := rfl

/-! ### dropMiss: ctx and qeng -/

@[simp] theorem State.dropMiss_tile (s : State) (h : Nat) : (State.dropMiss s h).tile = s.tile := rfl
@[simp] theorem State.dropMiss_cp (s : State) (h : Nat) : (State.dropMiss s h).cp = s.cp := rfl
@[simp] theorem State.dropMiss_regs (s : State) (h : Nat) : (State.dropMiss s h).regs = s.regs := rfl
@[simp] theorem State.dropMiss_hdrs (s : State) (h : Nat) : (State.dropMiss s h).hdrs = s.hdrs := rfl
@[simp] theorem State.dropMiss_irq (s : State) (h : Nat) : (State.dropMiss s h).irq = s.irq := rfl
@[simp] theorem State.dropMiss_crown (s : State) (h : Nat) : (State.dropMiss s h).crown = s.crown := rfl
@[simp] theorem State.dropMiss_fab (s : State) (h : Nat) : (State.dropMiss s h).fab = s.fab := rfl
@[simp] theorem State.dropMiss_frames (s : State) (h : Nat) : (State.dropMiss s h).frames = s.frames := rfl
@[simp] theorem State.dropMiss_epoch (s : State) (h : Nat) : (State.dropMiss s h).epoch = s.epoch := rfl
@[simp] theorem State.dropMiss_digest (s : State) (h : Nat) : (State.dropMiss s h).digest = s.digest := rfl
@[simp] theorem State.dropMiss_bignum (s : State) (h : Nat) : (State.dropMiss s h).bignum = s.bignum := rfl
@[simp] theorem State.dropMiss_rng (s : State) (h : Nat) : (State.dropMiss s h).rng = s.rng := rfl
@[simp] theorem State.dropMiss_key (s : State) (h : Nat) : (State.dropMiss s h).key = s.key := rfl
@[simp] theorem State.dropMiss_dma (s : State) (h : Nat) : (State.dropMiss s h).dma = s.dma := rfl
@[simp] theorem State.dropMiss_hb (s : State) (h : Nat) : (State.dropMiss s h).hb = s.hb := rfl
@[simp] theorem State.dropMiss_clk (s : State) (h : Nat) : (State.dropMiss s h).clk = s.clk := rfl
@[simp] theorem State.dropMiss_pwr (s : State) (h : Nat) : (State.dropMiss s h).pwr = s.pwr := rfl
@[simp] theorem State.dropMiss_tamp (s : State) (h : Nat) : (State.dropMiss s h).tamp = s.tamp := rfl
@[simp] theorem State.dropMiss_perf (s : State) (h : Nat) : (State.dropMiss s h).perf = s.perf := rfl
@[simp] theorem State.dropMiss_wrap (s : State) (h : Nat) : (State.dropMiss s h).wrap = s.wrap := rfl
@[simp] theorem State.dropMiss_finishes (s : State) (h : Nat) : (State.dropMiss s h).finishes = s.finishes := rfl
@[simp] theorem State.dropMiss_nextJob (s : State) (h : Nat) : (State.dropMiss s h).nextJob = s.nextJob := rfl
@[simp] theorem State.dropMiss_freeCtr (s : State) (h : Nat) : (State.dropMiss s h).freeCtr = s.freeCtr := rfl
@[simp] theorem State.dropMiss_pending (s : State) (h : Nat) : (State.dropMiss s h).pending = s.pending := rfl

/-! ### setHalf: cp alone -/

@[simp] theorem State.setHalf_tile (s : State) (r : Reg) (n : Nat) (x : Option W32) :
    (State.setHalf s r n x).tile = s.tile := rfl
@[simp] theorem State.setHalf_regs (s : State) (r : Reg) (n : Nat) (x : Option W32) :
    (State.setHalf s r n x).regs = s.regs := rfl
@[simp] theorem State.setHalf_hdrs (s : State) (r : Reg) (n : Nat) (x : Option W32) :
    (State.setHalf s r n x).hdrs = s.hdrs := rfl
@[simp] theorem State.setHalf_irq (s : State) (r : Reg) (n : Nat) (x : Option W32) :
    (State.setHalf s r n x).irq = s.irq := rfl
@[simp] theorem State.setHalf_qeng (s : State) (r : Reg) (n : Nat) (x : Option W32) :
    (State.setHalf s r n x).qeng = s.qeng := rfl
@[simp] theorem State.setHalf_crown (s : State) (r : Reg) (n : Nat) (x : Option W32) :
    (State.setHalf s r n x).crown = s.crown := rfl
@[simp] theorem State.setHalf_fab (s : State) (r : Reg) (n : Nat) (x : Option W32) :
    (State.setHalf s r n x).fab = s.fab := rfl
@[simp] theorem State.setHalf_frames (s : State) (r : Reg) (n : Nat) (x : Option W32) :
    (State.setHalf s r n x).frames = s.frames := rfl
@[simp] theorem State.setHalf_ctx (s : State) (r : Reg) (n : Nat) (x : Option W32) :
    (State.setHalf s r n x).ctx = s.ctx := rfl
@[simp] theorem State.setHalf_epoch (s : State) (r : Reg) (n : Nat) (x : Option W32) :
    (State.setHalf s r n x).epoch = s.epoch := rfl
@[simp] theorem State.setHalf_digest (s : State) (r : Reg) (n : Nat) (x : Option W32) :
    (State.setHalf s r n x).digest = s.digest := rfl
@[simp] theorem State.setHalf_bignum (s : State) (r : Reg) (n : Nat) (x : Option W32) :
    (State.setHalf s r n x).bignum = s.bignum := rfl
@[simp] theorem State.setHalf_rng (s : State) (r : Reg) (n : Nat) (x : Option W32) :
    (State.setHalf s r n x).rng = s.rng := rfl
@[simp] theorem State.setHalf_key (s : State) (r : Reg) (n : Nat) (x : Option W32) :
    (State.setHalf s r n x).key = s.key := rfl
@[simp] theorem State.setHalf_dma (s : State) (r : Reg) (n : Nat) (x : Option W32) :
    (State.setHalf s r n x).dma = s.dma := rfl
@[simp] theorem State.setHalf_hb (s : State) (r : Reg) (n : Nat) (x : Option W32) :
    (State.setHalf s r n x).hb = s.hb := rfl
@[simp] theorem State.setHalf_clk (s : State) (r : Reg) (n : Nat) (x : Option W32) :
    (State.setHalf s r n x).clk = s.clk := rfl
@[simp] theorem State.setHalf_pwr (s : State) (r : Reg) (n : Nat) (x : Option W32) :
    (State.setHalf s r n x).pwr = s.pwr := rfl
@[simp] theorem State.setHalf_tamp (s : State) (r : Reg) (n : Nat) (x : Option W32) :
    (State.setHalf s r n x).tamp = s.tamp := rfl
@[simp] theorem State.setHalf_perf (s : State) (r : Reg) (n : Nat) (x : Option W32) :
    (State.setHalf s r n x).perf = s.perf := rfl
@[simp] theorem State.setHalf_wrap (s : State) (r : Reg) (n : Nat) (x : Option W32) :
    (State.setHalf s r n x).wrap = s.wrap := rfl
@[simp] theorem State.setHalf_finishes (s : State) (r : Reg) (n : Nat) (x : Option W32) :
    (State.setHalf s r n x).finishes = s.finishes := rfl
@[simp] theorem State.setHalf_nextJob (s : State) (r : Reg) (n : Nat) (x : Option W32) :
    (State.setHalf s r n x).nextJob = s.nextJob := rfl
@[simp] theorem State.setHalf_freeCtr (s : State) (r : Reg) (n : Nat) (x : Option W32) :
    (State.setHalf s r n x).freeCtr = s.freeCtr := rfl
@[simp] theorem State.setHalf_pending (s : State) (r : Reg) (n : Nat) (x : Option W32) :
    (State.setHalf s r n x).pending = s.pending := rfl

/-! ### noRsp: cp alone -/

@[simp] theorem State.noRsp_tile (s : State) : (State.noRsp s).tile = s.tile := rfl
@[simp] theorem State.noRsp_regs (s : State) : (State.noRsp s).regs = s.regs := rfl
@[simp] theorem State.noRsp_hdrs (s : State) : (State.noRsp s).hdrs = s.hdrs := rfl
@[simp] theorem State.noRsp_irq (s : State) : (State.noRsp s).irq = s.irq := rfl
@[simp] theorem State.noRsp_qeng (s : State) : (State.noRsp s).qeng = s.qeng := rfl
@[simp] theorem State.noRsp_crown (s : State) : (State.noRsp s).crown = s.crown := rfl
@[simp] theorem State.noRsp_fab (s : State) : (State.noRsp s).fab = s.fab := rfl
@[simp] theorem State.noRsp_frames (s : State) : (State.noRsp s).frames = s.frames := rfl
@[simp] theorem State.noRsp_ctx (s : State) : (State.noRsp s).ctx = s.ctx := rfl
@[simp] theorem State.noRsp_epoch (s : State) : (State.noRsp s).epoch = s.epoch := rfl
@[simp] theorem State.noRsp_digest (s : State) : (State.noRsp s).digest = s.digest := rfl
@[simp] theorem State.noRsp_bignum (s : State) : (State.noRsp s).bignum = s.bignum := rfl
@[simp] theorem State.noRsp_rng (s : State) : (State.noRsp s).rng = s.rng := rfl
@[simp] theorem State.noRsp_key (s : State) : (State.noRsp s).key = s.key := rfl
@[simp] theorem State.noRsp_dma (s : State) : (State.noRsp s).dma = s.dma := rfl
@[simp] theorem State.noRsp_hb (s : State) : (State.noRsp s).hb = s.hb := rfl
@[simp] theorem State.noRsp_clk (s : State) : (State.noRsp s).clk = s.clk := rfl
@[simp] theorem State.noRsp_pwr (s : State) : (State.noRsp s).pwr = s.pwr := rfl
@[simp] theorem State.noRsp_tamp (s : State) : (State.noRsp s).tamp = s.tamp := rfl
@[simp] theorem State.noRsp_perf (s : State) : (State.noRsp s).perf = s.perf := rfl
@[simp] theorem State.noRsp_wrap (s : State) : (State.noRsp s).wrap = s.wrap := rfl
@[simp] theorem State.noRsp_finishes (s : State) : (State.noRsp s).finishes = s.finishes := rfl
@[simp] theorem State.noRsp_nextJob (s : State) : (State.noRsp s).nextJob = s.nextJob := rfl
@[simp] theorem State.noRsp_freeCtr (s : State) : (State.noRsp s).freeCtr = s.freeCtr := rfl
@[simp] theorem State.noRsp_pending (s : State) : (State.noRsp s).pending = s.pending := rfl

/-! ### setRing: perf alone -/

@[simp] theorem State.setRing_tile (s : State) (r : Nat) (x : TrcRing) : (State.setRing s r x).tile = s.tile := rfl
@[simp] theorem State.setRing_cp (s : State) (r : Nat) (x : TrcRing) : (State.setRing s r x).cp = s.cp := rfl
@[simp] theorem State.setRing_regs (s : State) (r : Nat) (x : TrcRing) : (State.setRing s r x).regs = s.regs := rfl
@[simp] theorem State.setRing_hdrs (s : State) (r : Nat) (x : TrcRing) : (State.setRing s r x).hdrs = s.hdrs := rfl
@[simp] theorem State.setRing_irq (s : State) (r : Nat) (x : TrcRing) : (State.setRing s r x).irq = s.irq := rfl
@[simp] theorem State.setRing_qeng (s : State) (r : Nat) (x : TrcRing) : (State.setRing s r x).qeng = s.qeng := rfl
@[simp] theorem State.setRing_crown (s : State) (r : Nat) (x : TrcRing) : (State.setRing s r x).crown = s.crown := rfl
@[simp] theorem State.setRing_fab (s : State) (r : Nat) (x : TrcRing) : (State.setRing s r x).fab = s.fab := rfl
@[simp] theorem State.setRing_frames (s : State) (r : Nat) (x : TrcRing) : (State.setRing s r x).frames = s.frames := rfl
@[simp] theorem State.setRing_ctx (s : State) (r : Nat) (x : TrcRing) : (State.setRing s r x).ctx = s.ctx := rfl
@[simp] theorem State.setRing_epoch (s : State) (r : Nat) (x : TrcRing) : (State.setRing s r x).epoch = s.epoch := rfl
@[simp] theorem State.setRing_digest (s : State) (r : Nat) (x : TrcRing) : (State.setRing s r x).digest = s.digest := rfl
@[simp] theorem State.setRing_bignum (s : State) (r : Nat) (x : TrcRing) : (State.setRing s r x).bignum = s.bignum := rfl
@[simp] theorem State.setRing_rng (s : State) (r : Nat) (x : TrcRing) : (State.setRing s r x).rng = s.rng := rfl
@[simp] theorem State.setRing_key (s : State) (r : Nat) (x : TrcRing) : (State.setRing s r x).key = s.key := rfl
@[simp] theorem State.setRing_dma (s : State) (r : Nat) (x : TrcRing) : (State.setRing s r x).dma = s.dma := rfl
@[simp] theorem State.setRing_hb (s : State) (r : Nat) (x : TrcRing) : (State.setRing s r x).hb = s.hb := rfl
@[simp] theorem State.setRing_clk (s : State) (r : Nat) (x : TrcRing) : (State.setRing s r x).clk = s.clk := rfl
@[simp] theorem State.setRing_pwr (s : State) (r : Nat) (x : TrcRing) : (State.setRing s r x).pwr = s.pwr := rfl
@[simp] theorem State.setRing_tamp (s : State) (r : Nat) (x : TrcRing) : (State.setRing s r x).tamp = s.tamp := rfl
@[simp] theorem State.setRing_wrap (s : State) (r : Nat) (x : TrcRing) : (State.setRing s r x).wrap = s.wrap := rfl
@[simp] theorem State.setRing_finishes (s : State) (r : Nat) (x : TrcRing) : (State.setRing s r x).finishes = s.finishes := rfl
@[simp] theorem State.setRing_nextJob (s : State) (r : Nat) (x : TrcRing) : (State.setRing s r x).nextJob = s.nextJob := rfl
@[simp] theorem State.setRing_freeCtr (s : State) (r : Nat) (x : TrcRing) : (State.setRing s r x).freeCtr = s.freeCtr := rfl
@[simp] theorem State.setRing_pending (s : State) (r : Nat) (x : TrcRing) : (State.setRing s r x).pending = s.pending := rfl

/-! ### setRq: qeng alone -/

@[simp] theorem State.setRq_tile (s : State) (q : Nat) (x : Rq) : (State.setRq s q x).tile = s.tile := rfl
@[simp] theorem State.setRq_cp (s : State) (q : Nat) (x : Rq) : (State.setRq s q x).cp = s.cp := rfl
@[simp] theorem State.setRq_regs (s : State) (q : Nat) (x : Rq) : (State.setRq s q x).regs = s.regs := rfl
@[simp] theorem State.setRq_hdrs (s : State) (q : Nat) (x : Rq) : (State.setRq s q x).hdrs = s.hdrs := rfl
@[simp] theorem State.setRq_irq (s : State) (q : Nat) (x : Rq) : (State.setRq s q x).irq = s.irq := rfl
@[simp] theorem State.setRq_crown (s : State) (q : Nat) (x : Rq) : (State.setRq s q x).crown = s.crown := rfl
@[simp] theorem State.setRq_fab (s : State) (q : Nat) (x : Rq) : (State.setRq s q x).fab = s.fab := rfl
@[simp] theorem State.setRq_frames (s : State) (q : Nat) (x : Rq) : (State.setRq s q x).frames = s.frames := rfl
@[simp] theorem State.setRq_ctx (s : State) (q : Nat) (x : Rq) : (State.setRq s q x).ctx = s.ctx := rfl
@[simp] theorem State.setRq_epoch (s : State) (q : Nat) (x : Rq) : (State.setRq s q x).epoch = s.epoch := rfl
@[simp] theorem State.setRq_digest (s : State) (q : Nat) (x : Rq) : (State.setRq s q x).digest = s.digest := rfl
@[simp] theorem State.setRq_bignum (s : State) (q : Nat) (x : Rq) : (State.setRq s q x).bignum = s.bignum := rfl
@[simp] theorem State.setRq_rng (s : State) (q : Nat) (x : Rq) : (State.setRq s q x).rng = s.rng := rfl
@[simp] theorem State.setRq_key (s : State) (q : Nat) (x : Rq) : (State.setRq s q x).key = s.key := rfl
@[simp] theorem State.setRq_dma (s : State) (q : Nat) (x : Rq) : (State.setRq s q x).dma = s.dma := rfl
@[simp] theorem State.setRq_hb (s : State) (q : Nat) (x : Rq) : (State.setRq s q x).hb = s.hb := rfl
@[simp] theorem State.setRq_clk (s : State) (q : Nat) (x : Rq) : (State.setRq s q x).clk = s.clk := rfl
@[simp] theorem State.setRq_pwr (s : State) (q : Nat) (x : Rq) : (State.setRq s q x).pwr = s.pwr := rfl
@[simp] theorem State.setRq_tamp (s : State) (q : Nat) (x : Rq) : (State.setRq s q x).tamp = s.tamp := rfl
@[simp] theorem State.setRq_perf (s : State) (q : Nat) (x : Rq) : (State.setRq s q x).perf = s.perf := rfl
@[simp] theorem State.setRq_wrap (s : State) (q : Nat) (x : Rq) : (State.setRq s q x).wrap = s.wrap := rfl
@[simp] theorem State.setRq_finishes (s : State) (q : Nat) (x : Rq) : (State.setRq s q x).finishes = s.finishes := rfl
@[simp] theorem State.setRq_nextJob (s : State) (q : Nat) (x : Rq) : (State.setRq s q x).nextJob = s.nextJob := rfl
@[simp] theorem State.setRq_freeCtr (s : State) (q : Nat) (x : Rq) : (State.setRq s q x).freeCtr = s.freeCtr := rfl
@[simp] theorem State.setRq_pending (s : State) (q : Nat) (x : Rq) : (State.setRq s q x).pending = s.pending := rfl

/-! ### setCq: crown alone -/

@[simp] theorem State.setCq_tile (s : State) (c : Nat) (x : Cq) : (State.setCq s c x).tile = s.tile := rfl
@[simp] theorem State.setCq_cp (s : State) (c : Nat) (x : Cq) : (State.setCq s c x).cp = s.cp := rfl
@[simp] theorem State.setCq_regs (s : State) (c : Nat) (x : Cq) : (State.setCq s c x).regs = s.regs := rfl
@[simp] theorem State.setCq_hdrs (s : State) (c : Nat) (x : Cq) : (State.setCq s c x).hdrs = s.hdrs := rfl
@[simp] theorem State.setCq_irq (s : State) (c : Nat) (x : Cq) : (State.setCq s c x).irq = s.irq := rfl
@[simp] theorem State.setCq_qeng (s : State) (c : Nat) (x : Cq) : (State.setCq s c x).qeng = s.qeng := rfl
@[simp] theorem State.setCq_fab (s : State) (c : Nat) (x : Cq) : (State.setCq s c x).fab = s.fab := rfl
@[simp] theorem State.setCq_frames (s : State) (c : Nat) (x : Cq) : (State.setCq s c x).frames = s.frames := rfl
@[simp] theorem State.setCq_ctx (s : State) (c : Nat) (x : Cq) : (State.setCq s c x).ctx = s.ctx := rfl
@[simp] theorem State.setCq_epoch (s : State) (c : Nat) (x : Cq) : (State.setCq s c x).epoch = s.epoch := rfl
@[simp] theorem State.setCq_digest (s : State) (c : Nat) (x : Cq) : (State.setCq s c x).digest = s.digest := rfl
@[simp] theorem State.setCq_bignum (s : State) (c : Nat) (x : Cq) : (State.setCq s c x).bignum = s.bignum := rfl
@[simp] theorem State.setCq_rng (s : State) (c : Nat) (x : Cq) : (State.setCq s c x).rng = s.rng := rfl
@[simp] theorem State.setCq_key (s : State) (c : Nat) (x : Cq) : (State.setCq s c x).key = s.key := rfl
@[simp] theorem State.setCq_dma (s : State) (c : Nat) (x : Cq) : (State.setCq s c x).dma = s.dma := rfl
@[simp] theorem State.setCq_hb (s : State) (c : Nat) (x : Cq) : (State.setCq s c x).hb = s.hb := rfl
@[simp] theorem State.setCq_clk (s : State) (c : Nat) (x : Cq) : (State.setCq s c x).clk = s.clk := rfl
@[simp] theorem State.setCq_pwr (s : State) (c : Nat) (x : Cq) : (State.setCq s c x).pwr = s.pwr := rfl
@[simp] theorem State.setCq_tamp (s : State) (c : Nat) (x : Cq) : (State.setCq s c x).tamp = s.tamp := rfl
@[simp] theorem State.setCq_perf (s : State) (c : Nat) (x : Cq) : (State.setCq s c x).perf = s.perf := rfl
@[simp] theorem State.setCq_wrap (s : State) (c : Nat) (x : Cq) : (State.setCq s c x).wrap = s.wrap := rfl
@[simp] theorem State.setCq_finishes (s : State) (c : Nat) (x : Cq) : (State.setCq s c x).finishes = s.finishes := rfl
@[simp] theorem State.setCq_nextJob (s : State) (c : Nat) (x : Cq) : (State.setCq s c x).nextJob = s.nextJob := rfl
@[simp] theorem State.setCq_freeCtr (s : State) (c : Nat) (x : Cq) : (State.setCq s c x).freeCtr = s.freeCtr := rfl
@[simp] theorem State.setCq_pending (s : State) (c : Nat) (x : Cq) : (State.setCq s c x).pending = s.pending := rfl

/-! ### setFifo: crown alone -/

@[simp] theorem State.setFifo_tile (s : State) (p : Nat) (l : List Compl) : (State.setFifo s p l).tile = s.tile := rfl
@[simp] theorem State.setFifo_cp (s : State) (p : Nat) (l : List Compl) : (State.setFifo s p l).cp = s.cp := rfl
@[simp] theorem State.setFifo_regs (s : State) (p : Nat) (l : List Compl) : (State.setFifo s p l).regs = s.regs := rfl
@[simp] theorem State.setFifo_hdrs (s : State) (p : Nat) (l : List Compl) : (State.setFifo s p l).hdrs = s.hdrs := rfl
@[simp] theorem State.setFifo_irq (s : State) (p : Nat) (l : List Compl) : (State.setFifo s p l).irq = s.irq := rfl
@[simp] theorem State.setFifo_qeng (s : State) (p : Nat) (l : List Compl) : (State.setFifo s p l).qeng = s.qeng := rfl
@[simp] theorem State.setFifo_fab (s : State) (p : Nat) (l : List Compl) : (State.setFifo s p l).fab = s.fab := rfl
@[simp] theorem State.setFifo_frames (s : State) (p : Nat) (l : List Compl) : (State.setFifo s p l).frames = s.frames := rfl
@[simp] theorem State.setFifo_ctx (s : State) (p : Nat) (l : List Compl) : (State.setFifo s p l).ctx = s.ctx := rfl
@[simp] theorem State.setFifo_epoch (s : State) (p : Nat) (l : List Compl) : (State.setFifo s p l).epoch = s.epoch := rfl
@[simp] theorem State.setFifo_digest (s : State) (p : Nat) (l : List Compl) : (State.setFifo s p l).digest = s.digest := rfl
@[simp] theorem State.setFifo_bignum (s : State) (p : Nat) (l : List Compl) : (State.setFifo s p l).bignum = s.bignum := rfl
@[simp] theorem State.setFifo_rng (s : State) (p : Nat) (l : List Compl) : (State.setFifo s p l).rng = s.rng := rfl
@[simp] theorem State.setFifo_key (s : State) (p : Nat) (l : List Compl) : (State.setFifo s p l).key = s.key := rfl
@[simp] theorem State.setFifo_dma (s : State) (p : Nat) (l : List Compl) : (State.setFifo s p l).dma = s.dma := rfl
@[simp] theorem State.setFifo_hb (s : State) (p : Nat) (l : List Compl) : (State.setFifo s p l).hb = s.hb := rfl
@[simp] theorem State.setFifo_clk (s : State) (p : Nat) (l : List Compl) : (State.setFifo s p l).clk = s.clk := rfl
@[simp] theorem State.setFifo_pwr (s : State) (p : Nat) (l : List Compl) : (State.setFifo s p l).pwr = s.pwr := rfl
@[simp] theorem State.setFifo_tamp (s : State) (p : Nat) (l : List Compl) : (State.setFifo s p l).tamp = s.tamp := rfl
@[simp] theorem State.setFifo_perf (s : State) (p : Nat) (l : List Compl) : (State.setFifo s p l).perf = s.perf := rfl
@[simp] theorem State.setFifo_wrap (s : State) (p : Nat) (l : List Compl) : (State.setFifo s p l).wrap = s.wrap := rfl
@[simp] theorem State.setFifo_finishes (s : State) (p : Nat) (l : List Compl) : (State.setFifo s p l).finishes = s.finishes := rfl
@[simp] theorem State.setFifo_nextJob (s : State) (p : Nat) (l : List Compl) : (State.setFifo s p l).nextJob = s.nextJob := rfl
@[simp] theorem State.setFifo_freeCtr (s : State) (p : Nat) (l : List Compl) : (State.setFifo s p l).freeCtr = s.freeCtr := rfl
@[simp] theorem State.setFifo_pending (s : State) (p : Nat) (l : List Compl) : (State.setFifo s p l).pending = s.pending := rfl

/-! ### dropChain: qeng alone -/

@[simp] theorem State.dropChain_tile (s : State) (i : Nat) : (State.dropChain s i).tile = s.tile := rfl
@[simp] theorem State.dropChain_cp (s : State) (i : Nat) : (State.dropChain s i).cp = s.cp := rfl
@[simp] theorem State.dropChain_regs (s : State) (i : Nat) : (State.dropChain s i).regs = s.regs := rfl
@[simp] theorem State.dropChain_hdrs (s : State) (i : Nat) : (State.dropChain s i).hdrs = s.hdrs := rfl
@[simp] theorem State.dropChain_irq (s : State) (i : Nat) : (State.dropChain s i).irq = s.irq := rfl
@[simp] theorem State.dropChain_crown (s : State) (i : Nat) : (State.dropChain s i).crown = s.crown := rfl
@[simp] theorem State.dropChain_fab (s : State) (i : Nat) : (State.dropChain s i).fab = s.fab := rfl
@[simp] theorem State.dropChain_frames (s : State) (i : Nat) : (State.dropChain s i).frames = s.frames := rfl
@[simp] theorem State.dropChain_ctx (s : State) (i : Nat) : (State.dropChain s i).ctx = s.ctx := rfl
@[simp] theorem State.dropChain_epoch (s : State) (i : Nat) : (State.dropChain s i).epoch = s.epoch := rfl
@[simp] theorem State.dropChain_digest (s : State) (i : Nat) : (State.dropChain s i).digest = s.digest := rfl
@[simp] theorem State.dropChain_bignum (s : State) (i : Nat) : (State.dropChain s i).bignum = s.bignum := rfl
@[simp] theorem State.dropChain_rng (s : State) (i : Nat) : (State.dropChain s i).rng = s.rng := rfl
@[simp] theorem State.dropChain_key (s : State) (i : Nat) : (State.dropChain s i).key = s.key := rfl
@[simp] theorem State.dropChain_dma (s : State) (i : Nat) : (State.dropChain s i).dma = s.dma := rfl
@[simp] theorem State.dropChain_hb (s : State) (i : Nat) : (State.dropChain s i).hb = s.hb := rfl
@[simp] theorem State.dropChain_clk (s : State) (i : Nat) : (State.dropChain s i).clk = s.clk := rfl
@[simp] theorem State.dropChain_pwr (s : State) (i : Nat) : (State.dropChain s i).pwr = s.pwr := rfl
@[simp] theorem State.dropChain_tamp (s : State) (i : Nat) : (State.dropChain s i).tamp = s.tamp := rfl
@[simp] theorem State.dropChain_perf (s : State) (i : Nat) : (State.dropChain s i).perf = s.perf := rfl
@[simp] theorem State.dropChain_wrap (s : State) (i : Nat) : (State.dropChain s i).wrap = s.wrap := rfl
@[simp] theorem State.dropChain_finishes (s : State) (i : Nat) : (State.dropChain s i).finishes = s.finishes := rfl
@[simp] theorem State.dropChain_nextJob (s : State) (i : Nat) : (State.dropChain s i).nextJob = s.nextJob := rfl
@[simp] theorem State.dropChain_freeCtr (s : State) (i : Nat) : (State.dropChain s i).freeCtr = s.freeCtr := rfl
@[simp] theorem State.dropChain_pending (s : State) (i : Nat) : (State.dropChain s i).pending = s.pending := rfl

/-! ### freeCbuf: qeng alone -/

@[simp] theorem State.freeCbuf_tile (s : State) (e : Nat) : (State.freeCbuf s e).tile = s.tile := rfl
@[simp] theorem State.freeCbuf_cp (s : State) (e : Nat) : (State.freeCbuf s e).cp = s.cp := rfl
@[simp] theorem State.freeCbuf_regs (s : State) (e : Nat) : (State.freeCbuf s e).regs = s.regs := rfl
@[simp] theorem State.freeCbuf_hdrs (s : State) (e : Nat) : (State.freeCbuf s e).hdrs = s.hdrs := rfl
@[simp] theorem State.freeCbuf_irq (s : State) (e : Nat) : (State.freeCbuf s e).irq = s.irq := rfl
@[simp] theorem State.freeCbuf_crown (s : State) (e : Nat) : (State.freeCbuf s e).crown = s.crown := rfl
@[simp] theorem State.freeCbuf_fab (s : State) (e : Nat) : (State.freeCbuf s e).fab = s.fab := rfl
@[simp] theorem State.freeCbuf_frames (s : State) (e : Nat) : (State.freeCbuf s e).frames = s.frames := rfl
@[simp] theorem State.freeCbuf_ctx (s : State) (e : Nat) : (State.freeCbuf s e).ctx = s.ctx := rfl
@[simp] theorem State.freeCbuf_epoch (s : State) (e : Nat) : (State.freeCbuf s e).epoch = s.epoch := rfl
@[simp] theorem State.freeCbuf_digest (s : State) (e : Nat) : (State.freeCbuf s e).digest = s.digest := rfl
@[simp] theorem State.freeCbuf_bignum (s : State) (e : Nat) : (State.freeCbuf s e).bignum = s.bignum := rfl
@[simp] theorem State.freeCbuf_rng (s : State) (e : Nat) : (State.freeCbuf s e).rng = s.rng := rfl
@[simp] theorem State.freeCbuf_key (s : State) (e : Nat) : (State.freeCbuf s e).key = s.key := rfl
@[simp] theorem State.freeCbuf_dma (s : State) (e : Nat) : (State.freeCbuf s e).dma = s.dma := rfl
@[simp] theorem State.freeCbuf_hb (s : State) (e : Nat) : (State.freeCbuf s e).hb = s.hb := rfl
@[simp] theorem State.freeCbuf_clk (s : State) (e : Nat) : (State.freeCbuf s e).clk = s.clk := rfl
@[simp] theorem State.freeCbuf_pwr (s : State) (e : Nat) : (State.freeCbuf s e).pwr = s.pwr := rfl
@[simp] theorem State.freeCbuf_tamp (s : State) (e : Nat) : (State.freeCbuf s e).tamp = s.tamp := rfl
@[simp] theorem State.freeCbuf_perf (s : State) (e : Nat) : (State.freeCbuf s e).perf = s.perf := rfl
@[simp] theorem State.freeCbuf_wrap (s : State) (e : Nat) : (State.freeCbuf s e).wrap = s.wrap := rfl
@[simp] theorem State.freeCbuf_finishes (s : State) (e : Nat) : (State.freeCbuf s e).finishes = s.finishes := rfl
@[simp] theorem State.freeCbuf_nextJob (s : State) (e : Nat) : (State.freeCbuf s e).nextJob = s.nextJob := rfl
@[simp] theorem State.freeCbuf_freeCtr (s : State) (e : Nat) : (State.freeCbuf s e).freeCtr = s.freeCtr := rfl
@[simp] theorem State.freeCbuf_pending (s : State) (e : Nat) : (State.freeCbuf s e).pending = s.pending := rfl

/-! ### setDgChan: digest alone -/

@[simp] theorem State.setDgChan_tile (s : State) (c : Nat) (x : DgChan) : (State.setDgChan s c x).tile = s.tile := rfl
@[simp] theorem State.setDgChan_cp (s : State) (c : Nat) (x : DgChan) : (State.setDgChan s c x).cp = s.cp := rfl
@[simp] theorem State.setDgChan_regs (s : State) (c : Nat) (x : DgChan) : (State.setDgChan s c x).regs = s.regs := rfl
@[simp] theorem State.setDgChan_hdrs (s : State) (c : Nat) (x : DgChan) : (State.setDgChan s c x).hdrs = s.hdrs := rfl
@[simp] theorem State.setDgChan_irq (s : State) (c : Nat) (x : DgChan) : (State.setDgChan s c x).irq = s.irq := rfl
@[simp] theorem State.setDgChan_qeng (s : State) (c : Nat) (x : DgChan) : (State.setDgChan s c x).qeng = s.qeng := rfl
@[simp] theorem State.setDgChan_crown (s : State) (c : Nat) (x : DgChan) : (State.setDgChan s c x).crown = s.crown := rfl
@[simp] theorem State.setDgChan_fab (s : State) (c : Nat) (x : DgChan) : (State.setDgChan s c x).fab = s.fab := rfl
@[simp] theorem State.setDgChan_frames (s : State) (c : Nat) (x : DgChan) : (State.setDgChan s c x).frames = s.frames := rfl
@[simp] theorem State.setDgChan_ctx (s : State) (c : Nat) (x : DgChan) : (State.setDgChan s c x).ctx = s.ctx := rfl
@[simp] theorem State.setDgChan_epoch (s : State) (c : Nat) (x : DgChan) : (State.setDgChan s c x).epoch = s.epoch := rfl
@[simp] theorem State.setDgChan_bignum (s : State) (c : Nat) (x : DgChan) : (State.setDgChan s c x).bignum = s.bignum := rfl
@[simp] theorem State.setDgChan_rng (s : State) (c : Nat) (x : DgChan) : (State.setDgChan s c x).rng = s.rng := rfl
@[simp] theorem State.setDgChan_key (s : State) (c : Nat) (x : DgChan) : (State.setDgChan s c x).key = s.key := rfl
@[simp] theorem State.setDgChan_dma (s : State) (c : Nat) (x : DgChan) : (State.setDgChan s c x).dma = s.dma := rfl
@[simp] theorem State.setDgChan_hb (s : State) (c : Nat) (x : DgChan) : (State.setDgChan s c x).hb = s.hb := rfl
@[simp] theorem State.setDgChan_clk (s : State) (c : Nat) (x : DgChan) : (State.setDgChan s c x).clk = s.clk := rfl
@[simp] theorem State.setDgChan_pwr (s : State) (c : Nat) (x : DgChan) : (State.setDgChan s c x).pwr = s.pwr := rfl
@[simp] theorem State.setDgChan_tamp (s : State) (c : Nat) (x : DgChan) : (State.setDgChan s c x).tamp = s.tamp := rfl
@[simp] theorem State.setDgChan_perf (s : State) (c : Nat) (x : DgChan) : (State.setDgChan s c x).perf = s.perf := rfl
@[simp] theorem State.setDgChan_wrap (s : State) (c : Nat) (x : DgChan) : (State.setDgChan s c x).wrap = s.wrap := rfl
@[simp] theorem State.setDgChan_finishes (s : State) (c : Nat) (x : DgChan) : (State.setDgChan s c x).finishes = s.finishes := rfl
@[simp] theorem State.setDgChan_nextJob (s : State) (c : Nat) (x : DgChan) : (State.setDgChan s c x).nextJob = s.nextJob := rfl
@[simp] theorem State.setDgChan_freeCtr (s : State) (c : Nat) (x : DgChan) : (State.setDgChan s c x).freeCtr = s.freeCtr := rfl
@[simp] theorem State.setDgChan_pending (s : State) (c : Nat) (x : DgChan) : (State.setDgChan s c x).pending = s.pending := rfl

/-! ### setDcore: digest alone -/

@[simp] theorem State.setDcore_tile (s : State) (n : Nat) (x : DCore) : (State.setDcore s n x).tile = s.tile := rfl
@[simp] theorem State.setDcore_cp (s : State) (n : Nat) (x : DCore) : (State.setDcore s n x).cp = s.cp := rfl
@[simp] theorem State.setDcore_regs (s : State) (n : Nat) (x : DCore) : (State.setDcore s n x).regs = s.regs := rfl
@[simp] theorem State.setDcore_hdrs (s : State) (n : Nat) (x : DCore) : (State.setDcore s n x).hdrs = s.hdrs := rfl
@[simp] theorem State.setDcore_irq (s : State) (n : Nat) (x : DCore) : (State.setDcore s n x).irq = s.irq := rfl
@[simp] theorem State.setDcore_qeng (s : State) (n : Nat) (x : DCore) : (State.setDcore s n x).qeng = s.qeng := rfl
@[simp] theorem State.setDcore_crown (s : State) (n : Nat) (x : DCore) : (State.setDcore s n x).crown = s.crown := rfl
@[simp] theorem State.setDcore_fab (s : State) (n : Nat) (x : DCore) : (State.setDcore s n x).fab = s.fab := rfl
@[simp] theorem State.setDcore_frames (s : State) (n : Nat) (x : DCore) : (State.setDcore s n x).frames = s.frames := rfl
@[simp] theorem State.setDcore_ctx (s : State) (n : Nat) (x : DCore) : (State.setDcore s n x).ctx = s.ctx := rfl
@[simp] theorem State.setDcore_epoch (s : State) (n : Nat) (x : DCore) : (State.setDcore s n x).epoch = s.epoch := rfl
@[simp] theorem State.setDcore_bignum (s : State) (n : Nat) (x : DCore) : (State.setDcore s n x).bignum = s.bignum := rfl
@[simp] theorem State.setDcore_rng (s : State) (n : Nat) (x : DCore) : (State.setDcore s n x).rng = s.rng := rfl
@[simp] theorem State.setDcore_key (s : State) (n : Nat) (x : DCore) : (State.setDcore s n x).key = s.key := rfl
@[simp] theorem State.setDcore_dma (s : State) (n : Nat) (x : DCore) : (State.setDcore s n x).dma = s.dma := rfl
@[simp] theorem State.setDcore_hb (s : State) (n : Nat) (x : DCore) : (State.setDcore s n x).hb = s.hb := rfl
@[simp] theorem State.setDcore_clk (s : State) (n : Nat) (x : DCore) : (State.setDcore s n x).clk = s.clk := rfl
@[simp] theorem State.setDcore_pwr (s : State) (n : Nat) (x : DCore) : (State.setDcore s n x).pwr = s.pwr := rfl
@[simp] theorem State.setDcore_tamp (s : State) (n : Nat) (x : DCore) : (State.setDcore s n x).tamp = s.tamp := rfl
@[simp] theorem State.setDcore_perf (s : State) (n : Nat) (x : DCore) : (State.setDcore s n x).perf = s.perf := rfl
@[simp] theorem State.setDcore_wrap (s : State) (n : Nat) (x : DCore) : (State.setDcore s n x).wrap = s.wrap := rfl
@[simp] theorem State.setDcore_finishes (s : State) (n : Nat) (x : DCore) : (State.setDcore s n x).finishes = s.finishes := rfl
@[simp] theorem State.setDcore_nextJob (s : State) (n : Nat) (x : DCore) : (State.setDcore s n x).nextJob = s.nextJob := rfl
@[simp] theorem State.setDcore_freeCtr (s : State) (n : Nat) (x : DCore) : (State.setDcore s n x).freeCtr = s.freeCtr := rfl
@[simp] theorem State.setDcore_pending (s : State) (n : Nat) (x : DCore) : (State.setDcore s n x).pending = s.pending := rfl

/-! ### setKdSlot: digest alone -/

@[simp] theorem State.setKdSlot_tile (s : State) (n : Nat) (x : KdSlot) : (State.setKdSlot s n x).tile = s.tile := rfl
@[simp] theorem State.setKdSlot_cp (s : State) (n : Nat) (x : KdSlot) : (State.setKdSlot s n x).cp = s.cp := rfl
@[simp] theorem State.setKdSlot_regs (s : State) (n : Nat) (x : KdSlot) : (State.setKdSlot s n x).regs = s.regs := rfl
@[simp] theorem State.setKdSlot_hdrs (s : State) (n : Nat) (x : KdSlot) : (State.setKdSlot s n x).hdrs = s.hdrs := rfl
@[simp] theorem State.setKdSlot_irq (s : State) (n : Nat) (x : KdSlot) : (State.setKdSlot s n x).irq = s.irq := rfl
@[simp] theorem State.setKdSlot_qeng (s : State) (n : Nat) (x : KdSlot) : (State.setKdSlot s n x).qeng = s.qeng := rfl
@[simp] theorem State.setKdSlot_crown (s : State) (n : Nat) (x : KdSlot) : (State.setKdSlot s n x).crown = s.crown := rfl
@[simp] theorem State.setKdSlot_fab (s : State) (n : Nat) (x : KdSlot) : (State.setKdSlot s n x).fab = s.fab := rfl
@[simp] theorem State.setKdSlot_frames (s : State) (n : Nat) (x : KdSlot) : (State.setKdSlot s n x).frames = s.frames := rfl
@[simp] theorem State.setKdSlot_ctx (s : State) (n : Nat) (x : KdSlot) : (State.setKdSlot s n x).ctx = s.ctx := rfl
@[simp] theorem State.setKdSlot_epoch (s : State) (n : Nat) (x : KdSlot) : (State.setKdSlot s n x).epoch = s.epoch := rfl
@[simp] theorem State.setKdSlot_bignum (s : State) (n : Nat) (x : KdSlot) : (State.setKdSlot s n x).bignum = s.bignum := rfl
@[simp] theorem State.setKdSlot_rng (s : State) (n : Nat) (x : KdSlot) : (State.setKdSlot s n x).rng = s.rng := rfl
@[simp] theorem State.setKdSlot_key (s : State) (n : Nat) (x : KdSlot) : (State.setKdSlot s n x).key = s.key := rfl
@[simp] theorem State.setKdSlot_dma (s : State) (n : Nat) (x : KdSlot) : (State.setKdSlot s n x).dma = s.dma := rfl
@[simp] theorem State.setKdSlot_hb (s : State) (n : Nat) (x : KdSlot) : (State.setKdSlot s n x).hb = s.hb := rfl
@[simp] theorem State.setKdSlot_clk (s : State) (n : Nat) (x : KdSlot) : (State.setKdSlot s n x).clk = s.clk := rfl
@[simp] theorem State.setKdSlot_pwr (s : State) (n : Nat) (x : KdSlot) : (State.setKdSlot s n x).pwr = s.pwr := rfl
@[simp] theorem State.setKdSlot_tamp (s : State) (n : Nat) (x : KdSlot) : (State.setKdSlot s n x).tamp = s.tamp := rfl
@[simp] theorem State.setKdSlot_perf (s : State) (n : Nat) (x : KdSlot) : (State.setKdSlot s n x).perf = s.perf := rfl
@[simp] theorem State.setKdSlot_wrap (s : State) (n : Nat) (x : KdSlot) : (State.setKdSlot s n x).wrap = s.wrap := rfl
@[simp] theorem State.setKdSlot_finishes (s : State) (n : Nat) (x : KdSlot) : (State.setKdSlot s n x).finishes = s.finishes := rfl
@[simp] theorem State.setKdSlot_nextJob (s : State) (n : Nat) (x : KdSlot) : (State.setKdSlot s n x).nextJob = s.nextJob := rfl
@[simp] theorem State.setKdSlot_freeCtr (s : State) (n : Nat) (x : KdSlot) : (State.setKdSlot s n x).freeCtr = s.freeCtr := rfl
@[simp] theorem State.setKdSlot_pending (s : State) (n : Nat) (x : KdSlot) : (State.setKdSlot s n x).pending = s.pending := rfl

/-! ### setResult: digest alone -/

@[simp] theorem State.setResult_tile (s : State) (n : Nat) (x : ResSlot) : (State.setResult s n x).tile = s.tile := rfl
@[simp] theorem State.setResult_cp (s : State) (n : Nat) (x : ResSlot) : (State.setResult s n x).cp = s.cp := rfl
@[simp] theorem State.setResult_regs (s : State) (n : Nat) (x : ResSlot) : (State.setResult s n x).regs = s.regs := rfl
@[simp] theorem State.setResult_hdrs (s : State) (n : Nat) (x : ResSlot) : (State.setResult s n x).hdrs = s.hdrs := rfl
@[simp] theorem State.setResult_irq (s : State) (n : Nat) (x : ResSlot) : (State.setResult s n x).irq = s.irq := rfl
@[simp] theorem State.setResult_qeng (s : State) (n : Nat) (x : ResSlot) : (State.setResult s n x).qeng = s.qeng := rfl
@[simp] theorem State.setResult_crown (s : State) (n : Nat) (x : ResSlot) : (State.setResult s n x).crown = s.crown := rfl
@[simp] theorem State.setResult_fab (s : State) (n : Nat) (x : ResSlot) : (State.setResult s n x).fab = s.fab := rfl
@[simp] theorem State.setResult_frames (s : State) (n : Nat) (x : ResSlot) : (State.setResult s n x).frames = s.frames := rfl
@[simp] theorem State.setResult_ctx (s : State) (n : Nat) (x : ResSlot) : (State.setResult s n x).ctx = s.ctx := rfl
@[simp] theorem State.setResult_epoch (s : State) (n : Nat) (x : ResSlot) : (State.setResult s n x).epoch = s.epoch := rfl
@[simp] theorem State.setResult_bignum (s : State) (n : Nat) (x : ResSlot) : (State.setResult s n x).bignum = s.bignum := rfl
@[simp] theorem State.setResult_rng (s : State) (n : Nat) (x : ResSlot) : (State.setResult s n x).rng = s.rng := rfl
@[simp] theorem State.setResult_key (s : State) (n : Nat) (x : ResSlot) : (State.setResult s n x).key = s.key := rfl
@[simp] theorem State.setResult_dma (s : State) (n : Nat) (x : ResSlot) : (State.setResult s n x).dma = s.dma := rfl
@[simp] theorem State.setResult_hb (s : State) (n : Nat) (x : ResSlot) : (State.setResult s n x).hb = s.hb := rfl
@[simp] theorem State.setResult_clk (s : State) (n : Nat) (x : ResSlot) : (State.setResult s n x).clk = s.clk := rfl
@[simp] theorem State.setResult_pwr (s : State) (n : Nat) (x : ResSlot) : (State.setResult s n x).pwr = s.pwr := rfl
@[simp] theorem State.setResult_tamp (s : State) (n : Nat) (x : ResSlot) : (State.setResult s n x).tamp = s.tamp := rfl
@[simp] theorem State.setResult_perf (s : State) (n : Nat) (x : ResSlot) : (State.setResult s n x).perf = s.perf := rfl
@[simp] theorem State.setResult_wrap (s : State) (n : Nat) (x : ResSlot) : (State.setResult s n x).wrap = s.wrap := rfl
@[simp] theorem State.setResult_finishes (s : State) (n : Nat) (x : ResSlot) : (State.setResult s n x).finishes = s.finishes := rfl
@[simp] theorem State.setResult_nextJob (s : State) (n : Nat) (x : ResSlot) : (State.setResult s n x).nextJob = s.nextJob := rfl
@[simp] theorem State.setResult_freeCtr (s : State) (n : Nat) (x : ResSlot) : (State.setResult s n x).freeCtr = s.freeCtr := rfl
@[simp] theorem State.setResult_pending (s : State) (n : Nat) (x : ResSlot) : (State.setResult s n x).pending = s.pending := rfl

/-! ### dropHeld: digest alone -/

@[simp] theorem State.dropHeld_tile (s : State) (p : DgChan → Bool) : (State.dropHeld s p).tile = s.tile := rfl
@[simp] theorem State.dropHeld_cp (s : State) (p : DgChan → Bool) : (State.dropHeld s p).cp = s.cp := rfl
@[simp] theorem State.dropHeld_regs (s : State) (p : DgChan → Bool) : (State.dropHeld s p).regs = s.regs := rfl
@[simp] theorem State.dropHeld_hdrs (s : State) (p : DgChan → Bool) : (State.dropHeld s p).hdrs = s.hdrs := rfl
@[simp] theorem State.dropHeld_irq (s : State) (p : DgChan → Bool) : (State.dropHeld s p).irq = s.irq := rfl
@[simp] theorem State.dropHeld_qeng (s : State) (p : DgChan → Bool) : (State.dropHeld s p).qeng = s.qeng := rfl
@[simp] theorem State.dropHeld_crown (s : State) (p : DgChan → Bool) : (State.dropHeld s p).crown = s.crown := rfl
@[simp] theorem State.dropHeld_fab (s : State) (p : DgChan → Bool) : (State.dropHeld s p).fab = s.fab := rfl
@[simp] theorem State.dropHeld_frames (s : State) (p : DgChan → Bool) : (State.dropHeld s p).frames = s.frames := rfl
@[simp] theorem State.dropHeld_ctx (s : State) (p : DgChan → Bool) : (State.dropHeld s p).ctx = s.ctx := rfl
@[simp] theorem State.dropHeld_epoch (s : State) (p : DgChan → Bool) : (State.dropHeld s p).epoch = s.epoch := rfl
@[simp] theorem State.dropHeld_bignum (s : State) (p : DgChan → Bool) : (State.dropHeld s p).bignum = s.bignum := rfl
@[simp] theorem State.dropHeld_rng (s : State) (p : DgChan → Bool) : (State.dropHeld s p).rng = s.rng := rfl
@[simp] theorem State.dropHeld_key (s : State) (p : DgChan → Bool) : (State.dropHeld s p).key = s.key := rfl
@[simp] theorem State.dropHeld_dma (s : State) (p : DgChan → Bool) : (State.dropHeld s p).dma = s.dma := rfl
@[simp] theorem State.dropHeld_hb (s : State) (p : DgChan → Bool) : (State.dropHeld s p).hb = s.hb := rfl
@[simp] theorem State.dropHeld_clk (s : State) (p : DgChan → Bool) : (State.dropHeld s p).clk = s.clk := rfl
@[simp] theorem State.dropHeld_pwr (s : State) (p : DgChan → Bool) : (State.dropHeld s p).pwr = s.pwr := rfl
@[simp] theorem State.dropHeld_tamp (s : State) (p : DgChan → Bool) : (State.dropHeld s p).tamp = s.tamp := rfl
@[simp] theorem State.dropHeld_perf (s : State) (p : DgChan → Bool) : (State.dropHeld s p).perf = s.perf := rfl
@[simp] theorem State.dropHeld_wrap (s : State) (p : DgChan → Bool) : (State.dropHeld s p).wrap = s.wrap := rfl
@[simp] theorem State.dropHeld_finishes (s : State) (p : DgChan → Bool) : (State.dropHeld s p).finishes = s.finishes := rfl
@[simp] theorem State.dropHeld_nextJob (s : State) (p : DgChan → Bool) : (State.dropHeld s p).nextJob = s.nextJob := rfl
@[simp] theorem State.dropHeld_freeCtr (s : State) (p : DgChan → Bool) : (State.dropHeld s p).freeCtr = s.freeCtr := rfl
@[simp] theorem State.dropHeld_pending (s : State) (p : DgChan → Bool) : (State.dropHeld s p).pending = s.pending := rfl

/-! ### setDch: dma alone -/

@[simp] theorem State.setDch_tile (s : State) (c : Nat) (x : Dch) : (State.setDch s c x).tile = s.tile := rfl
@[simp] theorem State.setDch_cp (s : State) (c : Nat) (x : Dch) : (State.setDch s c x).cp = s.cp := rfl
@[simp] theorem State.setDch_regs (s : State) (c : Nat) (x : Dch) : (State.setDch s c x).regs = s.regs := rfl
@[simp] theorem State.setDch_hdrs (s : State) (c : Nat) (x : Dch) : (State.setDch s c x).hdrs = s.hdrs := rfl
@[simp] theorem State.setDch_irq (s : State) (c : Nat) (x : Dch) : (State.setDch s c x).irq = s.irq := rfl
@[simp] theorem State.setDch_qeng (s : State) (c : Nat) (x : Dch) : (State.setDch s c x).qeng = s.qeng := rfl
@[simp] theorem State.setDch_crown (s : State) (c : Nat) (x : Dch) : (State.setDch s c x).crown = s.crown := rfl
@[simp] theorem State.setDch_fab (s : State) (c : Nat) (x : Dch) : (State.setDch s c x).fab = s.fab := rfl
@[simp] theorem State.setDch_frames (s : State) (c : Nat) (x : Dch) : (State.setDch s c x).frames = s.frames := rfl
@[simp] theorem State.setDch_ctx (s : State) (c : Nat) (x : Dch) : (State.setDch s c x).ctx = s.ctx := rfl
@[simp] theorem State.setDch_epoch (s : State) (c : Nat) (x : Dch) : (State.setDch s c x).epoch = s.epoch := rfl
@[simp] theorem State.setDch_digest (s : State) (c : Nat) (x : Dch) : (State.setDch s c x).digest = s.digest := rfl
@[simp] theorem State.setDch_bignum (s : State) (c : Nat) (x : Dch) : (State.setDch s c x).bignum = s.bignum := rfl
@[simp] theorem State.setDch_rng (s : State) (c : Nat) (x : Dch) : (State.setDch s c x).rng = s.rng := rfl
@[simp] theorem State.setDch_key (s : State) (c : Nat) (x : Dch) : (State.setDch s c x).key = s.key := rfl
@[simp] theorem State.setDch_hb (s : State) (c : Nat) (x : Dch) : (State.setDch s c x).hb = s.hb := rfl
@[simp] theorem State.setDch_clk (s : State) (c : Nat) (x : Dch) : (State.setDch s c x).clk = s.clk := rfl
@[simp] theorem State.setDch_pwr (s : State) (c : Nat) (x : Dch) : (State.setDch s c x).pwr = s.pwr := rfl
@[simp] theorem State.setDch_tamp (s : State) (c : Nat) (x : Dch) : (State.setDch s c x).tamp = s.tamp := rfl
@[simp] theorem State.setDch_perf (s : State) (c : Nat) (x : Dch) : (State.setDch s c x).perf = s.perf := rfl
@[simp] theorem State.setDch_wrap (s : State) (c : Nat) (x : Dch) : (State.setDch s c x).wrap = s.wrap := rfl
@[simp] theorem State.setDch_finishes (s : State) (c : Nat) (x : Dch) : (State.setDch s c x).finishes = s.finishes := rfl
@[simp] theorem State.setDch_nextJob (s : State) (c : Nat) (x : Dch) : (State.setDch s c x).nextJob = s.nextJob := rfl
@[simp] theorem State.setDch_freeCtr (s : State) (c : Nat) (x : Dch) : (State.setDch s c x).freeCtr = s.freeCtr := rfl
@[simp] theorem State.setDch_pending (s : State) (c : Nat) (x : Dch) : (State.setDch s c x).pending = s.pending := rfl

/-! ### setPort: fab alone -/

@[simp] theorem State.setPort_tile (s : State) (p : Nat) (x : Port) : (State.setPort s p x).tile = s.tile := rfl
@[simp] theorem State.setPort_cp (s : State) (p : Nat) (x : Port) : (State.setPort s p x).cp = s.cp := rfl
@[simp] theorem State.setPort_regs (s : State) (p : Nat) (x : Port) : (State.setPort s p x).regs = s.regs := rfl
@[simp] theorem State.setPort_hdrs (s : State) (p : Nat) (x : Port) : (State.setPort s p x).hdrs = s.hdrs := rfl
@[simp] theorem State.setPort_irq (s : State) (p : Nat) (x : Port) : (State.setPort s p x).irq = s.irq := rfl
@[simp] theorem State.setPort_qeng (s : State) (p : Nat) (x : Port) : (State.setPort s p x).qeng = s.qeng := rfl
@[simp] theorem State.setPort_crown (s : State) (p : Nat) (x : Port) : (State.setPort s p x).crown = s.crown := rfl
@[simp] theorem State.setPort_frames (s : State) (p : Nat) (x : Port) : (State.setPort s p x).frames = s.frames := rfl
@[simp] theorem State.setPort_ctx (s : State) (p : Nat) (x : Port) : (State.setPort s p x).ctx = s.ctx := rfl
@[simp] theorem State.setPort_epoch (s : State) (p : Nat) (x : Port) : (State.setPort s p x).epoch = s.epoch := rfl
@[simp] theorem State.setPort_digest (s : State) (p : Nat) (x : Port) : (State.setPort s p x).digest = s.digest := rfl
@[simp] theorem State.setPort_bignum (s : State) (p : Nat) (x : Port) : (State.setPort s p x).bignum = s.bignum := rfl
@[simp] theorem State.setPort_rng (s : State) (p : Nat) (x : Port) : (State.setPort s p x).rng = s.rng := rfl
@[simp] theorem State.setPort_key (s : State) (p : Nat) (x : Port) : (State.setPort s p x).key = s.key := rfl
@[simp] theorem State.setPort_dma (s : State) (p : Nat) (x : Port) : (State.setPort s p x).dma = s.dma := rfl
@[simp] theorem State.setPort_hb (s : State) (p : Nat) (x : Port) : (State.setPort s p x).hb = s.hb := rfl
@[simp] theorem State.setPort_clk (s : State) (p : Nat) (x : Port) : (State.setPort s p x).clk = s.clk := rfl
@[simp] theorem State.setPort_pwr (s : State) (p : Nat) (x : Port) : (State.setPort s p x).pwr = s.pwr := rfl
@[simp] theorem State.setPort_tamp (s : State) (p : Nat) (x : Port) : (State.setPort s p x).tamp = s.tamp := rfl
@[simp] theorem State.setPort_perf (s : State) (p : Nat) (x : Port) : (State.setPort s p x).perf = s.perf := rfl
@[simp] theorem State.setPort_wrap (s : State) (p : Nat) (x : Port) : (State.setPort s p x).wrap = s.wrap := rfl
@[simp] theorem State.setPort_finishes (s : State) (p : Nat) (x : Port) : (State.setPort s p x).finishes = s.finishes := rfl
@[simp] theorem State.setPort_nextJob (s : State) (p : Nat) (x : Port) : (State.setPort s p x).nextJob = s.nextJob := rfl
@[simp] theorem State.setPort_freeCtr (s : State) (p : Nat) (x : Port) : (State.setPort s p x).freeCtr = s.freeCtr := rfl
@[simp] theorem State.setPort_pending (s : State) (p : Nat) (x : Port) : (State.setPort s p x).pending = s.pending := rfl

/-! ### updXfer: fab alone -/

@[simp] theorem State.updXfer_tile (s : State) (i : Nat) (f : Xfer → Xfer) : (State.updXfer s i f).tile = s.tile := rfl
@[simp] theorem State.updXfer_cp (s : State) (i : Nat) (f : Xfer → Xfer) : (State.updXfer s i f).cp = s.cp := rfl
@[simp] theorem State.updXfer_regs (s : State) (i : Nat) (f : Xfer → Xfer) : (State.updXfer s i f).regs = s.regs := rfl
@[simp] theorem State.updXfer_hdrs (s : State) (i : Nat) (f : Xfer → Xfer) : (State.updXfer s i f).hdrs = s.hdrs := rfl
@[simp] theorem State.updXfer_irq (s : State) (i : Nat) (f : Xfer → Xfer) : (State.updXfer s i f).irq = s.irq := rfl
@[simp] theorem State.updXfer_qeng (s : State) (i : Nat) (f : Xfer → Xfer) : (State.updXfer s i f).qeng = s.qeng := rfl
@[simp] theorem State.updXfer_crown (s : State) (i : Nat) (f : Xfer → Xfer) : (State.updXfer s i f).crown = s.crown := rfl
@[simp] theorem State.updXfer_frames (s : State) (i : Nat) (f : Xfer → Xfer) : (State.updXfer s i f).frames = s.frames := rfl
@[simp] theorem State.updXfer_ctx (s : State) (i : Nat) (f : Xfer → Xfer) : (State.updXfer s i f).ctx = s.ctx := rfl
@[simp] theorem State.updXfer_epoch (s : State) (i : Nat) (f : Xfer → Xfer) : (State.updXfer s i f).epoch = s.epoch := rfl
@[simp] theorem State.updXfer_digest (s : State) (i : Nat) (f : Xfer → Xfer) : (State.updXfer s i f).digest = s.digest := rfl
@[simp] theorem State.updXfer_bignum (s : State) (i : Nat) (f : Xfer → Xfer) : (State.updXfer s i f).bignum = s.bignum := rfl
@[simp] theorem State.updXfer_rng (s : State) (i : Nat) (f : Xfer → Xfer) : (State.updXfer s i f).rng = s.rng := rfl
@[simp] theorem State.updXfer_key (s : State) (i : Nat) (f : Xfer → Xfer) : (State.updXfer s i f).key = s.key := rfl
@[simp] theorem State.updXfer_dma (s : State) (i : Nat) (f : Xfer → Xfer) : (State.updXfer s i f).dma = s.dma := rfl
@[simp] theorem State.updXfer_hb (s : State) (i : Nat) (f : Xfer → Xfer) : (State.updXfer s i f).hb = s.hb := rfl
@[simp] theorem State.updXfer_clk (s : State) (i : Nat) (f : Xfer → Xfer) : (State.updXfer s i f).clk = s.clk := rfl
@[simp] theorem State.updXfer_pwr (s : State) (i : Nat) (f : Xfer → Xfer) : (State.updXfer s i f).pwr = s.pwr := rfl
@[simp] theorem State.updXfer_tamp (s : State) (i : Nat) (f : Xfer → Xfer) : (State.updXfer s i f).tamp = s.tamp := rfl
@[simp] theorem State.updXfer_perf (s : State) (i : Nat) (f : Xfer → Xfer) : (State.updXfer s i f).perf = s.perf := rfl
@[simp] theorem State.updXfer_wrap (s : State) (i : Nat) (f : Xfer → Xfer) : (State.updXfer s i f).wrap = s.wrap := rfl
@[simp] theorem State.updXfer_finishes (s : State) (i : Nat) (f : Xfer → Xfer) : (State.updXfer s i f).finishes = s.finishes := rfl
@[simp] theorem State.updXfer_nextJob (s : State) (i : Nat) (f : Xfer → Xfer) : (State.updXfer s i f).nextJob = s.nextJob := rfl
@[simp] theorem State.updXfer_freeCtr (s : State) (i : Nat) (f : Xfer → Xfer) : (State.updXfer s i f).freeCtr = s.freeCtr := rfl
@[simp] theorem State.updXfer_pending (s : State) (i : Nat) (f : Xfer → Xfer) : (State.updXfer s i f).pending = s.pending := rfl

/-! ### endXfer: fab alone -/

@[simp] theorem State.endXfer_tile (s : State) (i : Nat) : (State.endXfer s i).tile = s.tile := rfl
@[simp] theorem State.endXfer_cp (s : State) (i : Nat) : (State.endXfer s i).cp = s.cp := rfl
@[simp] theorem State.endXfer_regs (s : State) (i : Nat) : (State.endXfer s i).regs = s.regs := rfl
@[simp] theorem State.endXfer_hdrs (s : State) (i : Nat) : (State.endXfer s i).hdrs = s.hdrs := rfl
@[simp] theorem State.endXfer_irq (s : State) (i : Nat) : (State.endXfer s i).irq = s.irq := rfl
@[simp] theorem State.endXfer_qeng (s : State) (i : Nat) : (State.endXfer s i).qeng = s.qeng := rfl
@[simp] theorem State.endXfer_crown (s : State) (i : Nat) : (State.endXfer s i).crown = s.crown := rfl
@[simp] theorem State.endXfer_frames (s : State) (i : Nat) : (State.endXfer s i).frames = s.frames := rfl
@[simp] theorem State.endXfer_ctx (s : State) (i : Nat) : (State.endXfer s i).ctx = s.ctx := rfl
@[simp] theorem State.endXfer_epoch (s : State) (i : Nat) : (State.endXfer s i).epoch = s.epoch := rfl
@[simp] theorem State.endXfer_digest (s : State) (i : Nat) : (State.endXfer s i).digest = s.digest := rfl
@[simp] theorem State.endXfer_bignum (s : State) (i : Nat) : (State.endXfer s i).bignum = s.bignum := rfl
@[simp] theorem State.endXfer_rng (s : State) (i : Nat) : (State.endXfer s i).rng = s.rng := rfl
@[simp] theorem State.endXfer_key (s : State) (i : Nat) : (State.endXfer s i).key = s.key := rfl
@[simp] theorem State.endXfer_dma (s : State) (i : Nat) : (State.endXfer s i).dma = s.dma := rfl
@[simp] theorem State.endXfer_hb (s : State) (i : Nat) : (State.endXfer s i).hb = s.hb := rfl
@[simp] theorem State.endXfer_clk (s : State) (i : Nat) : (State.endXfer s i).clk = s.clk := rfl
@[simp] theorem State.endXfer_pwr (s : State) (i : Nat) : (State.endXfer s i).pwr = s.pwr := rfl
@[simp] theorem State.endXfer_tamp (s : State) (i : Nat) : (State.endXfer s i).tamp = s.tamp := rfl
@[simp] theorem State.endXfer_perf (s : State) (i : Nat) : (State.endXfer s i).perf = s.perf := rfl
@[simp] theorem State.endXfer_wrap (s : State) (i : Nat) : (State.endXfer s i).wrap = s.wrap := rfl
@[simp] theorem State.endXfer_finishes (s : State) (i : Nat) : (State.endXfer s i).finishes = s.finishes := rfl
@[simp] theorem State.endXfer_nextJob (s : State) (i : Nat) : (State.endXfer s i).nextJob = s.nextJob := rfl
@[simp] theorem State.endXfer_freeCtr (s : State) (i : Nat) : (State.endXfer s i).freeCtr = s.freeCtr := rfl
@[simp] theorem State.endXfer_pending (s : State) (i : Nat) : (State.endXfer s i).pending = s.pending := rfl

/-! ### post: fab alone -/

@[simp] theorem State.post_tile (s : State) (x : Xfer) : (State.post s x).tile = s.tile := rfl
@[simp] theorem State.post_cp (s : State) (x : Xfer) : (State.post s x).cp = s.cp := rfl
@[simp] theorem State.post_regs (s : State) (x : Xfer) : (State.post s x).regs = s.regs := rfl
@[simp] theorem State.post_hdrs (s : State) (x : Xfer) : (State.post s x).hdrs = s.hdrs := rfl
@[simp] theorem State.post_irq (s : State) (x : Xfer) : (State.post s x).irq = s.irq := rfl
@[simp] theorem State.post_qeng (s : State) (x : Xfer) : (State.post s x).qeng = s.qeng := rfl
@[simp] theorem State.post_crown (s : State) (x : Xfer) : (State.post s x).crown = s.crown := rfl
@[simp] theorem State.post_frames (s : State) (x : Xfer) : (State.post s x).frames = s.frames := rfl
@[simp] theorem State.post_ctx (s : State) (x : Xfer) : (State.post s x).ctx = s.ctx := rfl
@[simp] theorem State.post_epoch (s : State) (x : Xfer) : (State.post s x).epoch = s.epoch := rfl
@[simp] theorem State.post_digest (s : State) (x : Xfer) : (State.post s x).digest = s.digest := rfl
@[simp] theorem State.post_bignum (s : State) (x : Xfer) : (State.post s x).bignum = s.bignum := rfl
@[simp] theorem State.post_rng (s : State) (x : Xfer) : (State.post s x).rng = s.rng := rfl
@[simp] theorem State.post_key (s : State) (x : Xfer) : (State.post s x).key = s.key := rfl
@[simp] theorem State.post_dma (s : State) (x : Xfer) : (State.post s x).dma = s.dma := rfl
@[simp] theorem State.post_hb (s : State) (x : Xfer) : (State.post s x).hb = s.hb := rfl
@[simp] theorem State.post_clk (s : State) (x : Xfer) : (State.post s x).clk = s.clk := rfl
@[simp] theorem State.post_pwr (s : State) (x : Xfer) : (State.post s x).pwr = s.pwr := rfl
@[simp] theorem State.post_tamp (s : State) (x : Xfer) : (State.post s x).tamp = s.tamp := rfl
@[simp] theorem State.post_perf (s : State) (x : Xfer) : (State.post s x).perf = s.perf := rfl
@[simp] theorem State.post_wrap (s : State) (x : Xfer) : (State.post s x).wrap = s.wrap := rfl
@[simp] theorem State.post_finishes (s : State) (x : Xfer) : (State.post s x).finishes = s.finishes := rfl
@[simp] theorem State.post_nextJob (s : State) (x : Xfer) : (State.post s x).nextJob = s.nextJob := rfl
@[simp] theorem State.post_freeCtr (s : State) (x : Xfer) : (State.post s x).freeCtr = s.freeCtr := rfl
@[simp] theorem State.post_pending (s : State) (x : Xfer) : (State.post s x).pending = s.pending := rfl

/-! ### hbSend: hb alone -/

@[simp] theorem State.hbSend_tile (s : State) (c : Cell) : (State.hbSend s c).tile = s.tile := by
  unfold State.hbSend; split <;> rfl
@[simp] theorem State.hbSend_cp (s : State) (c : Cell) : (State.hbSend s c).cp = s.cp := by
  unfold State.hbSend; split <;> rfl
@[simp] theorem State.hbSend_regs (s : State) (c : Cell) : (State.hbSend s c).regs = s.regs := by
  unfold State.hbSend; split <;> rfl
@[simp] theorem State.hbSend_hdrs (s : State) (c : Cell) : (State.hbSend s c).hdrs = s.hdrs := by
  unfold State.hbSend; split <;> rfl
@[simp] theorem State.hbSend_irq (s : State) (c : Cell) : (State.hbSend s c).irq = s.irq := by
  unfold State.hbSend; split <;> rfl
@[simp] theorem State.hbSend_qeng (s : State) (c : Cell) : (State.hbSend s c).qeng = s.qeng := by
  unfold State.hbSend; split <;> rfl
@[simp] theorem State.hbSend_crown (s : State) (c : Cell) : (State.hbSend s c).crown = s.crown := by
  unfold State.hbSend; split <;> rfl
@[simp] theorem State.hbSend_fab (s : State) (c : Cell) : (State.hbSend s c).fab = s.fab := by
  unfold State.hbSend; split <;> rfl
@[simp] theorem State.hbSend_frames (s : State) (c : Cell) : (State.hbSend s c).frames = s.frames := by
  unfold State.hbSend; split <;> rfl
@[simp] theorem State.hbSend_ctx (s : State) (c : Cell) : (State.hbSend s c).ctx = s.ctx := by
  unfold State.hbSend; split <;> rfl
@[simp] theorem State.hbSend_epoch (s : State) (c : Cell) : (State.hbSend s c).epoch = s.epoch := by
  unfold State.hbSend; split <;> rfl
@[simp] theorem State.hbSend_digest (s : State) (c : Cell) : (State.hbSend s c).digest = s.digest := by
  unfold State.hbSend; split <;> rfl
@[simp] theorem State.hbSend_bignum (s : State) (c : Cell) : (State.hbSend s c).bignum = s.bignum := by
  unfold State.hbSend; split <;> rfl
@[simp] theorem State.hbSend_rng (s : State) (c : Cell) : (State.hbSend s c).rng = s.rng := by
  unfold State.hbSend; split <;> rfl
@[simp] theorem State.hbSend_key (s : State) (c : Cell) : (State.hbSend s c).key = s.key := by
  unfold State.hbSend; split <;> rfl
@[simp] theorem State.hbSend_dma (s : State) (c : Cell) : (State.hbSend s c).dma = s.dma := by
  unfold State.hbSend; split <;> rfl
@[simp] theorem State.hbSend_clk (s : State) (c : Cell) : (State.hbSend s c).clk = s.clk := by
  unfold State.hbSend; split <;> rfl
@[simp] theorem State.hbSend_pwr (s : State) (c : Cell) : (State.hbSend s c).pwr = s.pwr := by
  unfold State.hbSend; split <;> rfl
@[simp] theorem State.hbSend_tamp (s : State) (c : Cell) : (State.hbSend s c).tamp = s.tamp := by
  unfold State.hbSend; split <;> rfl
@[simp] theorem State.hbSend_perf (s : State) (c : Cell) : (State.hbSend s c).perf = s.perf := by
  unfold State.hbSend; split <;> rfl
@[simp] theorem State.hbSend_wrap (s : State) (c : Cell) : (State.hbSend s c).wrap = s.wrap := by
  unfold State.hbSend; split <;> rfl
@[simp] theorem State.hbSend_finishes (s : State) (c : Cell) : (State.hbSend s c).finishes = s.finishes := by
  unfold State.hbSend; split <;> rfl
@[simp] theorem State.hbSend_nextJob (s : State) (c : Cell) : (State.hbSend s c).nextJob = s.nextJob := by
  unfold State.hbSend; split <;> rfl
@[simp] theorem State.hbSend_freeCtr (s : State) (c : Cell) : (State.hbSend s c).freeCtr = s.freeCtr := by
  unfold State.hbSend; split <;> rfl
@[simp] theorem State.hbSend_pending (s : State) (c : Cell) : (State.hbSend s c).pending = s.pending := by
  unfold State.hbSend; split <;> rfl

/-! ### msgPop: hb alone -/

@[simp] theorem State.msgPop_tile (s : State) : (State.msgPop s).tile = s.tile := rfl
@[simp] theorem State.msgPop_cp (s : State) : (State.msgPop s).cp = s.cp := rfl
@[simp] theorem State.msgPop_regs (s : State) : (State.msgPop s).regs = s.regs := rfl
@[simp] theorem State.msgPop_hdrs (s : State) : (State.msgPop s).hdrs = s.hdrs := rfl
@[simp] theorem State.msgPop_irq (s : State) : (State.msgPop s).irq = s.irq := rfl
@[simp] theorem State.msgPop_qeng (s : State) : (State.msgPop s).qeng = s.qeng := rfl
@[simp] theorem State.msgPop_crown (s : State) : (State.msgPop s).crown = s.crown := rfl
@[simp] theorem State.msgPop_fab (s : State) : (State.msgPop s).fab = s.fab := rfl
@[simp] theorem State.msgPop_frames (s : State) : (State.msgPop s).frames = s.frames := rfl
@[simp] theorem State.msgPop_ctx (s : State) : (State.msgPop s).ctx = s.ctx := rfl
@[simp] theorem State.msgPop_epoch (s : State) : (State.msgPop s).epoch = s.epoch := rfl
@[simp] theorem State.msgPop_digest (s : State) : (State.msgPop s).digest = s.digest := rfl
@[simp] theorem State.msgPop_bignum (s : State) : (State.msgPop s).bignum = s.bignum := rfl
@[simp] theorem State.msgPop_rng (s : State) : (State.msgPop s).rng = s.rng := rfl
@[simp] theorem State.msgPop_key (s : State) : (State.msgPop s).key = s.key := rfl
@[simp] theorem State.msgPop_dma (s : State) : (State.msgPop s).dma = s.dma := rfl
@[simp] theorem State.msgPop_clk (s : State) : (State.msgPop s).clk = s.clk := rfl
@[simp] theorem State.msgPop_pwr (s : State) : (State.msgPop s).pwr = s.pwr := rfl
@[simp] theorem State.msgPop_tamp (s : State) : (State.msgPop s).tamp = s.tamp := rfl
@[simp] theorem State.msgPop_perf (s : State) : (State.msgPop s).perf = s.perf := rfl
@[simp] theorem State.msgPop_wrap (s : State) : (State.msgPop s).wrap = s.wrap := rfl
@[simp] theorem State.msgPop_finishes (s : State) : (State.msgPop s).finishes = s.finishes := rfl
@[simp] theorem State.msgPop_nextJob (s : State) : (State.msgPop s).nextJob = s.nextJob := rfl
@[simp] theorem State.msgPop_freeCtr (s : State) : (State.msgPop s).freeCtr = s.freeCtr := rfl
@[simp] theorem State.msgPop_pending (s : State) : (State.msgPop s).pending = s.pending := rfl

/-! ### setLane: frames alone -/

@[simp] theorem State.setLane_tile (s : State) (n : Nat) (x : Lane) : (State.setLane s n x).tile = s.tile := rfl
@[simp] theorem State.setLane_cp (s : State) (n : Nat) (x : Lane) : (State.setLane s n x).cp = s.cp := rfl
@[simp] theorem State.setLane_regs (s : State) (n : Nat) (x : Lane) : (State.setLane s n x).regs = s.regs := rfl
@[simp] theorem State.setLane_hdrs (s : State) (n : Nat) (x : Lane) : (State.setLane s n x).hdrs = s.hdrs := rfl
@[simp] theorem State.setLane_irq (s : State) (n : Nat) (x : Lane) : (State.setLane s n x).irq = s.irq := rfl
@[simp] theorem State.setLane_qeng (s : State) (n : Nat) (x : Lane) : (State.setLane s n x).qeng = s.qeng := rfl
@[simp] theorem State.setLane_crown (s : State) (n : Nat) (x : Lane) : (State.setLane s n x).crown = s.crown := rfl
@[simp] theorem State.setLane_fab (s : State) (n : Nat) (x : Lane) : (State.setLane s n x).fab = s.fab := rfl
@[simp] theorem State.setLane_ctx (s : State) (n : Nat) (x : Lane) : (State.setLane s n x).ctx = s.ctx := rfl
@[simp] theorem State.setLane_epoch (s : State) (n : Nat) (x : Lane) : (State.setLane s n x).epoch = s.epoch := rfl
@[simp] theorem State.setLane_digest (s : State) (n : Nat) (x : Lane) : (State.setLane s n x).digest = s.digest := rfl
@[simp] theorem State.setLane_bignum (s : State) (n : Nat) (x : Lane) : (State.setLane s n x).bignum = s.bignum := rfl
@[simp] theorem State.setLane_rng (s : State) (n : Nat) (x : Lane) : (State.setLane s n x).rng = s.rng := rfl
@[simp] theorem State.setLane_key (s : State) (n : Nat) (x : Lane) : (State.setLane s n x).key = s.key := rfl
@[simp] theorem State.setLane_dma (s : State) (n : Nat) (x : Lane) : (State.setLane s n x).dma = s.dma := rfl
@[simp] theorem State.setLane_hb (s : State) (n : Nat) (x : Lane) : (State.setLane s n x).hb = s.hb := rfl
@[simp] theorem State.setLane_clk (s : State) (n : Nat) (x : Lane) : (State.setLane s n x).clk = s.clk := rfl
@[simp] theorem State.setLane_pwr (s : State) (n : Nat) (x : Lane) : (State.setLane s n x).pwr = s.pwr := rfl
@[simp] theorem State.setLane_tamp (s : State) (n : Nat) (x : Lane) : (State.setLane s n x).tamp = s.tamp := rfl
@[simp] theorem State.setLane_perf (s : State) (n : Nat) (x : Lane) : (State.setLane s n x).perf = s.perf := rfl
@[simp] theorem State.setLane_wrap (s : State) (n : Nat) (x : Lane) : (State.setLane s n x).wrap = s.wrap := rfl
@[simp] theorem State.setLane_finishes (s : State) (n : Nat) (x : Lane) : (State.setLane s n x).finishes = s.finishes := rfl
@[simp] theorem State.setLane_nextJob (s : State) (n : Nat) (x : Lane) : (State.setLane s n x).nextJob = s.nextJob := rfl
@[simp] theorem State.setLane_freeCtr (s : State) (n : Nat) (x : Lane) : (State.setLane s n x).freeCtr = s.freeCtr := rfl
@[simp] theorem State.setLane_pending (s : State) (n : Nat) (x : Lane) : (State.setLane s n x).pending = s.pending := rfl

/-! ### setQuad: frames alone -/

@[simp] theorem State.setQuad_tile (s : State) (q : Nat) (x : Quad) : (State.setQuad s q x).tile = s.tile := rfl
@[simp] theorem State.setQuad_cp (s : State) (q : Nat) (x : Quad) : (State.setQuad s q x).cp = s.cp := rfl
@[simp] theorem State.setQuad_regs (s : State) (q : Nat) (x : Quad) : (State.setQuad s q x).regs = s.regs := rfl
@[simp] theorem State.setQuad_hdrs (s : State) (q : Nat) (x : Quad) : (State.setQuad s q x).hdrs = s.hdrs := rfl
@[simp] theorem State.setQuad_irq (s : State) (q : Nat) (x : Quad) : (State.setQuad s q x).irq = s.irq := rfl
@[simp] theorem State.setQuad_qeng (s : State) (q : Nat) (x : Quad) : (State.setQuad s q x).qeng = s.qeng := rfl
@[simp] theorem State.setQuad_crown (s : State) (q : Nat) (x : Quad) : (State.setQuad s q x).crown = s.crown := rfl
@[simp] theorem State.setQuad_fab (s : State) (q : Nat) (x : Quad) : (State.setQuad s q x).fab = s.fab := rfl
@[simp] theorem State.setQuad_ctx (s : State) (q : Nat) (x : Quad) : (State.setQuad s q x).ctx = s.ctx := rfl
@[simp] theorem State.setQuad_epoch (s : State) (q : Nat) (x : Quad) : (State.setQuad s q x).epoch = s.epoch := rfl
@[simp] theorem State.setQuad_digest (s : State) (q : Nat) (x : Quad) : (State.setQuad s q x).digest = s.digest := rfl
@[simp] theorem State.setQuad_bignum (s : State) (q : Nat) (x : Quad) : (State.setQuad s q x).bignum = s.bignum := rfl
@[simp] theorem State.setQuad_rng (s : State) (q : Nat) (x : Quad) : (State.setQuad s q x).rng = s.rng := rfl
@[simp] theorem State.setQuad_key (s : State) (q : Nat) (x : Quad) : (State.setQuad s q x).key = s.key := rfl
@[simp] theorem State.setQuad_dma (s : State) (q : Nat) (x : Quad) : (State.setQuad s q x).dma = s.dma := rfl
@[simp] theorem State.setQuad_hb (s : State) (q : Nat) (x : Quad) : (State.setQuad s q x).hb = s.hb := rfl
@[simp] theorem State.setQuad_clk (s : State) (q : Nat) (x : Quad) : (State.setQuad s q x).clk = s.clk := rfl
@[simp] theorem State.setQuad_pwr (s : State) (q : Nat) (x : Quad) : (State.setQuad s q x).pwr = s.pwr := rfl
@[simp] theorem State.setQuad_tamp (s : State) (q : Nat) (x : Quad) : (State.setQuad s q x).tamp = s.tamp := rfl
@[simp] theorem State.setQuad_perf (s : State) (q : Nat) (x : Quad) : (State.setQuad s q x).perf = s.perf := rfl
@[simp] theorem State.setQuad_wrap (s : State) (q : Nat) (x : Quad) : (State.setQuad s q x).wrap = s.wrap := rfl
@[simp] theorem State.setQuad_finishes (s : State) (q : Nat) (x : Quad) : (State.setQuad s q x).finishes = s.finishes := rfl
@[simp] theorem State.setQuad_nextJob (s : State) (q : Nat) (x : Quad) : (State.setQuad s q x).nextJob = s.nextJob := rfl
@[simp] theorem State.setQuad_freeCtr (s : State) (q : Nat) (x : Quad) : (State.setQuad s q x).freeCtr = s.freeCtr := rfl
@[simp] theorem State.setQuad_pending (s : State) (q : Nat) (x : Quad) : (State.setQuad s q x).pending = s.pending := rfl

/-! ### updFrame: frames alone -/

@[simp] theorem State.updFrame_tile (s : State) (i : Nat) (g : Frame → Frame) :
    (State.updFrame s i g).tile = s.tile := rfl
@[simp] theorem State.updFrame_cp (s : State) (i : Nat) (g : Frame → Frame) :
    (State.updFrame s i g).cp = s.cp := rfl
@[simp] theorem State.updFrame_regs (s : State) (i : Nat) (g : Frame → Frame) :
    (State.updFrame s i g).regs = s.regs := rfl
@[simp] theorem State.updFrame_hdrs (s : State) (i : Nat) (g : Frame → Frame) :
    (State.updFrame s i g).hdrs = s.hdrs := rfl
@[simp] theorem State.updFrame_irq (s : State) (i : Nat) (g : Frame → Frame) :
    (State.updFrame s i g).irq = s.irq := rfl
@[simp] theorem State.updFrame_qeng (s : State) (i : Nat) (g : Frame → Frame) :
    (State.updFrame s i g).qeng = s.qeng := rfl
@[simp] theorem State.updFrame_crown (s : State) (i : Nat) (g : Frame → Frame) :
    (State.updFrame s i g).crown = s.crown := rfl
@[simp] theorem State.updFrame_fab (s : State) (i : Nat) (g : Frame → Frame) :
    (State.updFrame s i g).fab = s.fab := rfl
@[simp] theorem State.updFrame_ctx (s : State) (i : Nat) (g : Frame → Frame) :
    (State.updFrame s i g).ctx = s.ctx := rfl
@[simp] theorem State.updFrame_epoch (s : State) (i : Nat) (g : Frame → Frame) :
    (State.updFrame s i g).epoch = s.epoch := rfl
@[simp] theorem State.updFrame_digest (s : State) (i : Nat) (g : Frame → Frame) :
    (State.updFrame s i g).digest = s.digest := rfl
@[simp] theorem State.updFrame_bignum (s : State) (i : Nat) (g : Frame → Frame) :
    (State.updFrame s i g).bignum = s.bignum := rfl
@[simp] theorem State.updFrame_rng (s : State) (i : Nat) (g : Frame → Frame) :
    (State.updFrame s i g).rng = s.rng := rfl
@[simp] theorem State.updFrame_key (s : State) (i : Nat) (g : Frame → Frame) :
    (State.updFrame s i g).key = s.key := rfl
@[simp] theorem State.updFrame_dma (s : State) (i : Nat) (g : Frame → Frame) :
    (State.updFrame s i g).dma = s.dma := rfl
@[simp] theorem State.updFrame_hb (s : State) (i : Nat) (g : Frame → Frame) :
    (State.updFrame s i g).hb = s.hb := rfl
@[simp] theorem State.updFrame_clk (s : State) (i : Nat) (g : Frame → Frame) :
    (State.updFrame s i g).clk = s.clk := rfl
@[simp] theorem State.updFrame_pwr (s : State) (i : Nat) (g : Frame → Frame) :
    (State.updFrame s i g).pwr = s.pwr := rfl
@[simp] theorem State.updFrame_tamp (s : State) (i : Nat) (g : Frame → Frame) :
    (State.updFrame s i g).tamp = s.tamp := rfl
@[simp] theorem State.updFrame_perf (s : State) (i : Nat) (g : Frame → Frame) :
    (State.updFrame s i g).perf = s.perf := rfl
@[simp] theorem State.updFrame_wrap (s : State) (i : Nat) (g : Frame → Frame) :
    (State.updFrame s i g).wrap = s.wrap := rfl
@[simp] theorem State.updFrame_finishes (s : State) (i : Nat) (g : Frame → Frame) :
    (State.updFrame s i g).finishes = s.finishes := rfl
@[simp] theorem State.updFrame_nextJob (s : State) (i : Nat) (g : Frame → Frame) :
    (State.updFrame s i g).nextJob = s.nextJob := rfl
@[simp] theorem State.updFrame_freeCtr (s : State) (i : Nat) (g : Frame → Frame) :
    (State.updFrame s i g).freeCtr = s.freeCtr := rfl
@[simp] theorem State.updFrame_pending (s : State) (i : Nat) (g : Frame → Frame) :
    (State.updFrame s i g).pending = s.pending := rfl

/-! ### setReg: regs alone -/

@[simp] theorem State.setReg_tile (s : State) (r : Reg) (n : Nat) (v : W64) :
    (State.setReg s r n v).tile = s.tile := rfl
@[simp] theorem State.setReg_cp (s : State) (r : Reg) (n : Nat) (v : W64) :
    (State.setReg s r n v).cp = s.cp := rfl
@[simp] theorem State.setReg_hdrs (s : State) (r : Reg) (n : Nat) (v : W64) :
    (State.setReg s r n v).hdrs = s.hdrs := rfl
@[simp] theorem State.setReg_irq (s : State) (r : Reg) (n : Nat) (v : W64) :
    (State.setReg s r n v).irq = s.irq := rfl
@[simp] theorem State.setReg_qeng (s : State) (r : Reg) (n : Nat) (v : W64) :
    (State.setReg s r n v).qeng = s.qeng := rfl
@[simp] theorem State.setReg_crown (s : State) (r : Reg) (n : Nat) (v : W64) :
    (State.setReg s r n v).crown = s.crown := rfl
@[simp] theorem State.setReg_fab (s : State) (r : Reg) (n : Nat) (v : W64) :
    (State.setReg s r n v).fab = s.fab := rfl
@[simp] theorem State.setReg_frames (s : State) (r : Reg) (n : Nat) (v : W64) :
    (State.setReg s r n v).frames = s.frames := rfl
@[simp] theorem State.setReg_ctx (s : State) (r : Reg) (n : Nat) (v : W64) :
    (State.setReg s r n v).ctx = s.ctx := rfl
@[simp] theorem State.setReg_epoch (s : State) (r : Reg) (n : Nat) (v : W64) :
    (State.setReg s r n v).epoch = s.epoch := rfl
@[simp] theorem State.setReg_digest (s : State) (r : Reg) (n : Nat) (v : W64) :
    (State.setReg s r n v).digest = s.digest := rfl
@[simp] theorem State.setReg_bignum (s : State) (r : Reg) (n : Nat) (v : W64) :
    (State.setReg s r n v).bignum = s.bignum := rfl
@[simp] theorem State.setReg_rng (s : State) (r : Reg) (n : Nat) (v : W64) :
    (State.setReg s r n v).rng = s.rng := rfl
@[simp] theorem State.setReg_key (s : State) (r : Reg) (n : Nat) (v : W64) :
    (State.setReg s r n v).key = s.key := rfl
@[simp] theorem State.setReg_dma (s : State) (r : Reg) (n : Nat) (v : W64) :
    (State.setReg s r n v).dma = s.dma := rfl
@[simp] theorem State.setReg_hb (s : State) (r : Reg) (n : Nat) (v : W64) :
    (State.setReg s r n v).hb = s.hb := rfl
@[simp] theorem State.setReg_clk (s : State) (r : Reg) (n : Nat) (v : W64) :
    (State.setReg s r n v).clk = s.clk := rfl
@[simp] theorem State.setReg_pwr (s : State) (r : Reg) (n : Nat) (v : W64) :
    (State.setReg s r n v).pwr = s.pwr := rfl
@[simp] theorem State.setReg_tamp (s : State) (r : Reg) (n : Nat) (v : W64) :
    (State.setReg s r n v).tamp = s.tamp := rfl
@[simp] theorem State.setReg_perf (s : State) (r : Reg) (n : Nat) (v : W64) :
    (State.setReg s r n v).perf = s.perf := rfl
@[simp] theorem State.setReg_wrap (s : State) (r : Reg) (n : Nat) (v : W64) :
    (State.setReg s r n v).wrap = s.wrap := rfl
@[simp] theorem State.setReg_finishes (s : State) (r : Reg) (n : Nat) (v : W64) :
    (State.setReg s r n v).finishes = s.finishes := rfl
@[simp] theorem State.setReg_nextJob (s : State) (r : Reg) (n : Nat) (v : W64) :
    (State.setReg s r n v).nextJob = s.nextJob := rfl
@[simp] theorem State.setReg_freeCtr (s : State) (r : Reg) (n : Nat) (v : W64) :
    (State.setReg s r n v).freeCtr = s.freeCtr := rfl
@[simp] theorem State.setReg_pending (s : State) (r : Reg) (n : Nat) (v : W64) :
    (State.setReg s r n v).pending = s.pending := rfl

/-! ### setHdrAt: hdrs alone -/

@[simp] theorem State.setHdrAt_tile (s : State) (p : Nat) (h : Hdr) : (State.setHdrAt s p h).tile = s.tile := rfl
@[simp] theorem State.setHdrAt_cp (s : State) (p : Nat) (h : Hdr) : (State.setHdrAt s p h).cp = s.cp := rfl
@[simp] theorem State.setHdrAt_regs (s : State) (p : Nat) (h : Hdr) : (State.setHdrAt s p h).regs = s.regs := rfl
@[simp] theorem State.setHdrAt_irq (s : State) (p : Nat) (h : Hdr) : (State.setHdrAt s p h).irq = s.irq := rfl
@[simp] theorem State.setHdrAt_qeng (s : State) (p : Nat) (h : Hdr) : (State.setHdrAt s p h).qeng = s.qeng := rfl
@[simp] theorem State.setHdrAt_crown (s : State) (p : Nat) (h : Hdr) : (State.setHdrAt s p h).crown = s.crown := rfl
@[simp] theorem State.setHdrAt_fab (s : State) (p : Nat) (h : Hdr) : (State.setHdrAt s p h).fab = s.fab := rfl
@[simp] theorem State.setHdrAt_frames (s : State) (p : Nat) (h : Hdr) : (State.setHdrAt s p h).frames = s.frames := rfl
@[simp] theorem State.setHdrAt_ctx (s : State) (p : Nat) (h : Hdr) : (State.setHdrAt s p h).ctx = s.ctx := rfl
@[simp] theorem State.setHdrAt_epoch (s : State) (p : Nat) (h : Hdr) : (State.setHdrAt s p h).epoch = s.epoch := rfl
@[simp] theorem State.setHdrAt_digest (s : State) (p : Nat) (h : Hdr) : (State.setHdrAt s p h).digest = s.digest := rfl
@[simp] theorem State.setHdrAt_bignum (s : State) (p : Nat) (h : Hdr) : (State.setHdrAt s p h).bignum = s.bignum := rfl
@[simp] theorem State.setHdrAt_rng (s : State) (p : Nat) (h : Hdr) : (State.setHdrAt s p h).rng = s.rng := rfl
@[simp] theorem State.setHdrAt_key (s : State) (p : Nat) (h : Hdr) : (State.setHdrAt s p h).key = s.key := rfl
@[simp] theorem State.setHdrAt_dma (s : State) (p : Nat) (h : Hdr) : (State.setHdrAt s p h).dma = s.dma := rfl
@[simp] theorem State.setHdrAt_hb (s : State) (p : Nat) (h : Hdr) : (State.setHdrAt s p h).hb = s.hb := rfl
@[simp] theorem State.setHdrAt_clk (s : State) (p : Nat) (h : Hdr) : (State.setHdrAt s p h).clk = s.clk := rfl
@[simp] theorem State.setHdrAt_pwr (s : State) (p : Nat) (h : Hdr) : (State.setHdrAt s p h).pwr = s.pwr := rfl
@[simp] theorem State.setHdrAt_tamp (s : State) (p : Nat) (h : Hdr) : (State.setHdrAt s p h).tamp = s.tamp := rfl
@[simp] theorem State.setHdrAt_perf (s : State) (p : Nat) (h : Hdr) : (State.setHdrAt s p h).perf = s.perf := rfl
@[simp] theorem State.setHdrAt_wrap (s : State) (p : Nat) (h : Hdr) : (State.setHdrAt s p h).wrap = s.wrap := rfl
@[simp] theorem State.setHdrAt_finishes (s : State) (p : Nat) (h : Hdr) : (State.setHdrAt s p h).finishes = s.finishes := rfl
@[simp] theorem State.setHdrAt_nextJob (s : State) (p : Nat) (h : Hdr) : (State.setHdrAt s p h).nextJob = s.nextJob := rfl
@[simp] theorem State.setHdrAt_freeCtr (s : State) (p : Nat) (h : Hdr) : (State.setHdrAt s p h).freeCtr = s.freeCtr := rfl
@[simp] theorem State.setHdrAt_pending (s : State) (p : Nat) (h : Hdr) : (State.setHdrAt s p h).pending = s.pending := rfl

/-! ### setVec: irq alone -/

@[simp] theorem State.setVec_tile (s : State) (v : Nat) (x : Vec) : (State.setVec s v x).tile = s.tile := rfl
@[simp] theorem State.setVec_cp (s : State) (v : Nat) (x : Vec) : (State.setVec s v x).cp = s.cp := rfl
@[simp] theorem State.setVec_regs (s : State) (v : Nat) (x : Vec) : (State.setVec s v x).regs = s.regs := rfl
@[simp] theorem State.setVec_hdrs (s : State) (v : Nat) (x : Vec) : (State.setVec s v x).hdrs = s.hdrs := rfl
@[simp] theorem State.setVec_qeng (s : State) (v : Nat) (x : Vec) : (State.setVec s v x).qeng = s.qeng := rfl
@[simp] theorem State.setVec_crown (s : State) (v : Nat) (x : Vec) : (State.setVec s v x).crown = s.crown := rfl
@[simp] theorem State.setVec_fab (s : State) (v : Nat) (x : Vec) : (State.setVec s v x).fab = s.fab := rfl
@[simp] theorem State.setVec_frames (s : State) (v : Nat) (x : Vec) : (State.setVec s v x).frames = s.frames := rfl
@[simp] theorem State.setVec_ctx (s : State) (v : Nat) (x : Vec) : (State.setVec s v x).ctx = s.ctx := rfl
@[simp] theorem State.setVec_epoch (s : State) (v : Nat) (x : Vec) : (State.setVec s v x).epoch = s.epoch := rfl
@[simp] theorem State.setVec_digest (s : State) (v : Nat) (x : Vec) : (State.setVec s v x).digest = s.digest := rfl
@[simp] theorem State.setVec_bignum (s : State) (v : Nat) (x : Vec) : (State.setVec s v x).bignum = s.bignum := rfl
@[simp] theorem State.setVec_rng (s : State) (v : Nat) (x : Vec) : (State.setVec s v x).rng = s.rng := rfl
@[simp] theorem State.setVec_key (s : State) (v : Nat) (x : Vec) : (State.setVec s v x).key = s.key := rfl
@[simp] theorem State.setVec_dma (s : State) (v : Nat) (x : Vec) : (State.setVec s v x).dma = s.dma := rfl
@[simp] theorem State.setVec_hb (s : State) (v : Nat) (x : Vec) : (State.setVec s v x).hb = s.hb := rfl
@[simp] theorem State.setVec_clk (s : State) (v : Nat) (x : Vec) : (State.setVec s v x).clk = s.clk := rfl
@[simp] theorem State.setVec_pwr (s : State) (v : Nat) (x : Vec) : (State.setVec s v x).pwr = s.pwr := rfl
@[simp] theorem State.setVec_tamp (s : State) (v : Nat) (x : Vec) : (State.setVec s v x).tamp = s.tamp := rfl
@[simp] theorem State.setVec_perf (s : State) (v : Nat) (x : Vec) : (State.setVec s v x).perf = s.perf := rfl
@[simp] theorem State.setVec_wrap (s : State) (v : Nat) (x : Vec) : (State.setVec s v x).wrap = s.wrap := rfl
@[simp] theorem State.setVec_finishes (s : State) (v : Nat) (x : Vec) : (State.setVec s v x).finishes = s.finishes := rfl
@[simp] theorem State.setVec_nextJob (s : State) (v : Nat) (x : Vec) : (State.setVec s v x).nextJob = s.nextJob := rfl
@[simp] theorem State.setVec_freeCtr (s : State) (v : Nat) (x : Vec) : (State.setVec s v x).freeCtr = s.freeCtr := rfl
@[simp] theorem State.setVec_pending (s : State) (v : Nat) (x : Vec) : (State.setVec s v x).pending = s.pending := rfl

/-! ### updPwr: pwr alone -/

@[simp] theorem State.updPwr_tile (s : State) (f : Pwr → Pwr) : (State.updPwr s f).tile = s.tile := rfl
@[simp] theorem State.updPwr_cp (s : State) (f : Pwr → Pwr) : (State.updPwr s f).cp = s.cp := rfl
@[simp] theorem State.updPwr_regs (s : State) (f : Pwr → Pwr) : (State.updPwr s f).regs = s.regs := rfl
@[simp] theorem State.updPwr_hdrs (s : State) (f : Pwr → Pwr) : (State.updPwr s f).hdrs = s.hdrs := rfl
@[simp] theorem State.updPwr_irq (s : State) (f : Pwr → Pwr) : (State.updPwr s f).irq = s.irq := rfl
@[simp] theorem State.updPwr_qeng (s : State) (f : Pwr → Pwr) : (State.updPwr s f).qeng = s.qeng := rfl
@[simp] theorem State.updPwr_crown (s : State) (f : Pwr → Pwr) : (State.updPwr s f).crown = s.crown := rfl
@[simp] theorem State.updPwr_fab (s : State) (f : Pwr → Pwr) : (State.updPwr s f).fab = s.fab := rfl
@[simp] theorem State.updPwr_frames (s : State) (f : Pwr → Pwr) : (State.updPwr s f).frames = s.frames := rfl
@[simp] theorem State.updPwr_ctx (s : State) (f : Pwr → Pwr) : (State.updPwr s f).ctx = s.ctx := rfl
@[simp] theorem State.updPwr_epoch (s : State) (f : Pwr → Pwr) : (State.updPwr s f).epoch = s.epoch := rfl
@[simp] theorem State.updPwr_digest (s : State) (f : Pwr → Pwr) : (State.updPwr s f).digest = s.digest := rfl
@[simp] theorem State.updPwr_bignum (s : State) (f : Pwr → Pwr) : (State.updPwr s f).bignum = s.bignum := rfl
@[simp] theorem State.updPwr_rng (s : State) (f : Pwr → Pwr) : (State.updPwr s f).rng = s.rng := rfl
@[simp] theorem State.updPwr_key (s : State) (f : Pwr → Pwr) : (State.updPwr s f).key = s.key := rfl
@[simp] theorem State.updPwr_dma (s : State) (f : Pwr → Pwr) : (State.updPwr s f).dma = s.dma := rfl
@[simp] theorem State.updPwr_hb (s : State) (f : Pwr → Pwr) : (State.updPwr s f).hb = s.hb := rfl
@[simp] theorem State.updPwr_clk (s : State) (f : Pwr → Pwr) : (State.updPwr s f).clk = s.clk := rfl
@[simp] theorem State.updPwr_tamp (s : State) (f : Pwr → Pwr) : (State.updPwr s f).tamp = s.tamp := rfl
@[simp] theorem State.updPwr_perf (s : State) (f : Pwr → Pwr) : (State.updPwr s f).perf = s.perf := rfl
@[simp] theorem State.updPwr_wrap (s : State) (f : Pwr → Pwr) : (State.updPwr s f).wrap = s.wrap := rfl
@[simp] theorem State.updPwr_finishes (s : State) (f : Pwr → Pwr) : (State.updPwr s f).finishes = s.finishes := rfl
@[simp] theorem State.updPwr_nextJob (s : State) (f : Pwr → Pwr) : (State.updPwr s f).nextJob = s.nextJob := rfl
@[simp] theorem State.updPwr_freeCtr (s : State) (f : Pwr → Pwr) : (State.updPwr s f).freeCtr = s.freeCtr := rfl
@[simp] theorem State.updPwr_pending (s : State) (f : Pwr → Pwr) : (State.updPwr s f).pending = s.pending := rfl

/-! ### learnConsume: ctx alone -/

@[simp] theorem State.learnConsume_tile (s : State) (i : Nat) : (State.learnConsume s i).tile = s.tile := rfl
@[simp] theorem State.learnConsume_cp (s : State) (i : Nat) : (State.learnConsume s i).cp = s.cp := rfl
@[simp] theorem State.learnConsume_regs (s : State) (i : Nat) : (State.learnConsume s i).regs = s.regs := rfl
@[simp] theorem State.learnConsume_hdrs (s : State) (i : Nat) : (State.learnConsume s i).hdrs = s.hdrs := rfl
@[simp] theorem State.learnConsume_irq (s : State) (i : Nat) : (State.learnConsume s i).irq = s.irq := rfl
@[simp] theorem State.learnConsume_qeng (s : State) (i : Nat) : (State.learnConsume s i).qeng = s.qeng := rfl
@[simp] theorem State.learnConsume_crown (s : State) (i : Nat) : (State.learnConsume s i).crown = s.crown := rfl
@[simp] theorem State.learnConsume_fab (s : State) (i : Nat) : (State.learnConsume s i).fab = s.fab := rfl
@[simp] theorem State.learnConsume_frames (s : State) (i : Nat) : (State.learnConsume s i).frames = s.frames := rfl
@[simp] theorem State.learnConsume_epoch (s : State) (i : Nat) : (State.learnConsume s i).epoch = s.epoch := rfl
@[simp] theorem State.learnConsume_digest (s : State) (i : Nat) : (State.learnConsume s i).digest = s.digest := rfl
@[simp] theorem State.learnConsume_bignum (s : State) (i : Nat) : (State.learnConsume s i).bignum = s.bignum := rfl
@[simp] theorem State.learnConsume_rng (s : State) (i : Nat) : (State.learnConsume s i).rng = s.rng := rfl
@[simp] theorem State.learnConsume_key (s : State) (i : Nat) : (State.learnConsume s i).key = s.key := rfl
@[simp] theorem State.learnConsume_dma (s : State) (i : Nat) : (State.learnConsume s i).dma = s.dma := rfl
@[simp] theorem State.learnConsume_hb (s : State) (i : Nat) : (State.learnConsume s i).hb = s.hb := rfl
@[simp] theorem State.learnConsume_clk (s : State) (i : Nat) : (State.learnConsume s i).clk = s.clk := rfl
@[simp] theorem State.learnConsume_pwr (s : State) (i : Nat) : (State.learnConsume s i).pwr = s.pwr := rfl
@[simp] theorem State.learnConsume_tamp (s : State) (i : Nat) : (State.learnConsume s i).tamp = s.tamp := rfl
@[simp] theorem State.learnConsume_perf (s : State) (i : Nat) : (State.learnConsume s i).perf = s.perf := rfl
@[simp] theorem State.learnConsume_wrap (s : State) (i : Nat) : (State.learnConsume s i).wrap = s.wrap := rfl
@[simp] theorem State.learnConsume_finishes (s : State) (i : Nat) : (State.learnConsume s i).finishes = s.finishes := rfl
@[simp] theorem State.learnConsume_nextJob (s : State) (i : Nat) : (State.learnConsume s i).nextJob = s.nextJob := rfl
@[simp] theorem State.learnConsume_freeCtr (s : State) (i : Nat) : (State.learnConsume s i).freeCtr = s.freeCtr := rfl
@[simp] theorem State.learnConsume_pending (s : State) (i : Nat) : (State.learnConsume s i).pending = s.pending := rfl

/-! ### setCell: rng alone -/

@[simp] theorem State.setCell_tile (s : State) (n : Nat) (c : NoiseCell) : (State.setCell s n c).tile = s.tile := rfl
@[simp] theorem State.setCell_cp (s : State) (n : Nat) (c : NoiseCell) : (State.setCell s n c).cp = s.cp := rfl
@[simp] theorem State.setCell_regs (s : State) (n : Nat) (c : NoiseCell) : (State.setCell s n c).regs = s.regs := rfl
@[simp] theorem State.setCell_hdrs (s : State) (n : Nat) (c : NoiseCell) : (State.setCell s n c).hdrs = s.hdrs := rfl
@[simp] theorem State.setCell_irq (s : State) (n : Nat) (c : NoiseCell) : (State.setCell s n c).irq = s.irq := rfl
@[simp] theorem State.setCell_qeng (s : State) (n : Nat) (c : NoiseCell) : (State.setCell s n c).qeng = s.qeng := rfl
@[simp] theorem State.setCell_crown (s : State) (n : Nat) (c : NoiseCell) : (State.setCell s n c).crown = s.crown := rfl
@[simp] theorem State.setCell_fab (s : State) (n : Nat) (c : NoiseCell) : (State.setCell s n c).fab = s.fab := rfl
@[simp] theorem State.setCell_frames (s : State) (n : Nat) (c : NoiseCell) : (State.setCell s n c).frames = s.frames := rfl
@[simp] theorem State.setCell_ctx (s : State) (n : Nat) (c : NoiseCell) : (State.setCell s n c).ctx = s.ctx := rfl
@[simp] theorem State.setCell_epoch (s : State) (n : Nat) (c : NoiseCell) : (State.setCell s n c).epoch = s.epoch := rfl
@[simp] theorem State.setCell_digest (s : State) (n : Nat) (c : NoiseCell) : (State.setCell s n c).digest = s.digest := rfl
@[simp] theorem State.setCell_bignum (s : State) (n : Nat) (c : NoiseCell) : (State.setCell s n c).bignum = s.bignum := rfl
@[simp] theorem State.setCell_key (s : State) (n : Nat) (c : NoiseCell) : (State.setCell s n c).key = s.key := rfl
@[simp] theorem State.setCell_dma (s : State) (n : Nat) (c : NoiseCell) : (State.setCell s n c).dma = s.dma := rfl
@[simp] theorem State.setCell_hb (s : State) (n : Nat) (c : NoiseCell) : (State.setCell s n c).hb = s.hb := rfl
@[simp] theorem State.setCell_clk (s : State) (n : Nat) (c : NoiseCell) : (State.setCell s n c).clk = s.clk := rfl
@[simp] theorem State.setCell_pwr (s : State) (n : Nat) (c : NoiseCell) : (State.setCell s n c).pwr = s.pwr := rfl
@[simp] theorem State.setCell_tamp (s : State) (n : Nat) (c : NoiseCell) : (State.setCell s n c).tamp = s.tamp := rfl
@[simp] theorem State.setCell_perf (s : State) (n : Nat) (c : NoiseCell) : (State.setCell s n c).perf = s.perf := rfl
@[simp] theorem State.setCell_wrap (s : State) (n : Nat) (c : NoiseCell) : (State.setCell s n c).wrap = s.wrap := rfl
@[simp] theorem State.setCell_finishes (s : State) (n : Nat) (c : NoiseCell) : (State.setCell s n c).finishes = s.finishes := rfl
@[simp] theorem State.setCell_nextJob (s : State) (n : Nat) (c : NoiseCell) : (State.setCell s n c).nextJob = s.nextJob := rfl
@[simp] theorem State.setCell_freeCtr (s : State) (n : Nat) (c : NoiseCell) : (State.setCell s n c).freeCtr = s.freeCtr := rfl
@[simp] theorem State.setCell_pending (s : State) (n : Nat) (c : NoiseCell) : (State.setCell s n c).pending = s.pending := rfl

/-! ### stopCells: rng alone -/

@[simp] theorem State.stopCells_tile (s : State) : (State.stopCells s).tile = s.tile := rfl
@[simp] theorem State.stopCells_cp (s : State) : (State.stopCells s).cp = s.cp := rfl
@[simp] theorem State.stopCells_regs (s : State) : (State.stopCells s).regs = s.regs := rfl
@[simp] theorem State.stopCells_hdrs (s : State) : (State.stopCells s).hdrs = s.hdrs := rfl
@[simp] theorem State.stopCells_irq (s : State) : (State.stopCells s).irq = s.irq := rfl
@[simp] theorem State.stopCells_qeng (s : State) : (State.stopCells s).qeng = s.qeng := rfl
@[simp] theorem State.stopCells_crown (s : State) : (State.stopCells s).crown = s.crown := rfl
@[simp] theorem State.stopCells_fab (s : State) : (State.stopCells s).fab = s.fab := rfl
@[simp] theorem State.stopCells_frames (s : State) : (State.stopCells s).frames = s.frames := rfl
@[simp] theorem State.stopCells_ctx (s : State) : (State.stopCells s).ctx = s.ctx := rfl
@[simp] theorem State.stopCells_epoch (s : State) : (State.stopCells s).epoch = s.epoch := rfl
@[simp] theorem State.stopCells_digest (s : State) : (State.stopCells s).digest = s.digest := rfl
@[simp] theorem State.stopCells_bignum (s : State) : (State.stopCells s).bignum = s.bignum := rfl
@[simp] theorem State.stopCells_key (s : State) : (State.stopCells s).key = s.key := rfl
@[simp] theorem State.stopCells_dma (s : State) : (State.stopCells s).dma = s.dma := rfl
@[simp] theorem State.stopCells_hb (s : State) : (State.stopCells s).hb = s.hb := rfl
@[simp] theorem State.stopCells_clk (s : State) : (State.stopCells s).clk = s.clk := rfl
@[simp] theorem State.stopCells_pwr (s : State) : (State.stopCells s).pwr = s.pwr := rfl
@[simp] theorem State.stopCells_tamp (s : State) : (State.stopCells s).tamp = s.tamp := rfl
@[simp] theorem State.stopCells_perf (s : State) : (State.stopCells s).perf = s.perf := rfl
@[simp] theorem State.stopCells_wrap (s : State) : (State.stopCells s).wrap = s.wrap := rfl
@[simp] theorem State.stopCells_finishes (s : State) : (State.stopCells s).finishes = s.finishes := rfl
@[simp] theorem State.stopCells_nextJob (s : State) : (State.stopCells s).nextJob = s.nextJob := rfl
@[simp] theorem State.stopCells_freeCtr (s : State) : (State.stopCells s).freeCtr = s.freeCtr := rfl
@[simp] theorem State.stopCells_pending (s : State) : (State.stopCells s).pending = s.pending := rfl

/-! ### randomPop: rng alone -/

@[simp] theorem State.randomPop_tile (s : State) : (State.randomPop s).tile = s.tile := rfl
@[simp] theorem State.randomPop_cp (s : State) : (State.randomPop s).cp = s.cp := rfl
@[simp] theorem State.randomPop_regs (s : State) : (State.randomPop s).regs = s.regs := rfl
@[simp] theorem State.randomPop_hdrs (s : State) : (State.randomPop s).hdrs = s.hdrs := rfl
@[simp] theorem State.randomPop_irq (s : State) : (State.randomPop s).irq = s.irq := rfl
@[simp] theorem State.randomPop_qeng (s : State) : (State.randomPop s).qeng = s.qeng := rfl
@[simp] theorem State.randomPop_crown (s : State) : (State.randomPop s).crown = s.crown := rfl
@[simp] theorem State.randomPop_fab (s : State) : (State.randomPop s).fab = s.fab := rfl
@[simp] theorem State.randomPop_frames (s : State) : (State.randomPop s).frames = s.frames := rfl
@[simp] theorem State.randomPop_ctx (s : State) : (State.randomPop s).ctx = s.ctx := rfl
@[simp] theorem State.randomPop_epoch (s : State) : (State.randomPop s).epoch = s.epoch := rfl
@[simp] theorem State.randomPop_digest (s : State) : (State.randomPop s).digest = s.digest := rfl
@[simp] theorem State.randomPop_bignum (s : State) : (State.randomPop s).bignum = s.bignum := rfl
@[simp] theorem State.randomPop_key (s : State) : (State.randomPop s).key = s.key := rfl
@[simp] theorem State.randomPop_dma (s : State) : (State.randomPop s).dma = s.dma := rfl
@[simp] theorem State.randomPop_hb (s : State) : (State.randomPop s).hb = s.hb := rfl
@[simp] theorem State.randomPop_clk (s : State) : (State.randomPop s).clk = s.clk := rfl
@[simp] theorem State.randomPop_pwr (s : State) : (State.randomPop s).pwr = s.pwr := rfl
@[simp] theorem State.randomPop_tamp (s : State) : (State.randomPop s).tamp = s.tamp := rfl
@[simp] theorem State.randomPop_perf (s : State) : (State.randomPop s).perf = s.perf := rfl
@[simp] theorem State.randomPop_wrap (s : State) : (State.randomPop s).wrap = s.wrap := rfl
@[simp] theorem State.randomPop_finishes (s : State) : (State.randomPop s).finishes = s.finishes := rfl
@[simp] theorem State.randomPop_nextJob (s : State) : (State.randomPop s).nextJob = s.nextJob := rfl
@[simp] theorem State.randomPop_freeCtr (s : State) : (State.randomPop s).freeCtr = s.freeCtr := rfl
@[simp] theorem State.randomPop_pending (s : State) : (State.randomPop s).pending = s.pending := rfl

/-! ### visitEnds: qeng alone -/

@[simp] theorem State.visitEnds_tile (s : State) : (State.visitEnds s).tile = s.tile := rfl
@[simp] theorem State.visitEnds_cp (s : State) : (State.visitEnds s).cp = s.cp := rfl
@[simp] theorem State.visitEnds_regs (s : State) : (State.visitEnds s).regs = s.regs := rfl
@[simp] theorem State.visitEnds_hdrs (s : State) : (State.visitEnds s).hdrs = s.hdrs := rfl
@[simp] theorem State.visitEnds_irq (s : State) : (State.visitEnds s).irq = s.irq := rfl
@[simp] theorem State.visitEnds_crown (s : State) : (State.visitEnds s).crown = s.crown := rfl
@[simp] theorem State.visitEnds_fab (s : State) : (State.visitEnds s).fab = s.fab := rfl
@[simp] theorem State.visitEnds_frames (s : State) : (State.visitEnds s).frames = s.frames := rfl
@[simp] theorem State.visitEnds_ctx (s : State) : (State.visitEnds s).ctx = s.ctx := rfl
@[simp] theorem State.visitEnds_epoch (s : State) : (State.visitEnds s).epoch = s.epoch := rfl
@[simp] theorem State.visitEnds_digest (s : State) : (State.visitEnds s).digest = s.digest := rfl
@[simp] theorem State.visitEnds_bignum (s : State) : (State.visitEnds s).bignum = s.bignum := rfl
@[simp] theorem State.visitEnds_rng (s : State) : (State.visitEnds s).rng = s.rng := rfl
@[simp] theorem State.visitEnds_key (s : State) : (State.visitEnds s).key = s.key := rfl
@[simp] theorem State.visitEnds_dma (s : State) : (State.visitEnds s).dma = s.dma := rfl
@[simp] theorem State.visitEnds_hb (s : State) : (State.visitEnds s).hb = s.hb := rfl
@[simp] theorem State.visitEnds_clk (s : State) : (State.visitEnds s).clk = s.clk := rfl
@[simp] theorem State.visitEnds_pwr (s : State) : (State.visitEnds s).pwr = s.pwr := rfl
@[simp] theorem State.visitEnds_tamp (s : State) : (State.visitEnds s).tamp = s.tamp := rfl
@[simp] theorem State.visitEnds_perf (s : State) : (State.visitEnds s).perf = s.perf := rfl
@[simp] theorem State.visitEnds_wrap (s : State) : (State.visitEnds s).wrap = s.wrap := rfl
@[simp] theorem State.visitEnds_finishes (s : State) : (State.visitEnds s).finishes = s.finishes := rfl
@[simp] theorem State.visitEnds_nextJob (s : State) : (State.visitEnds s).nextJob = s.nextJob := rfl
@[simp] theorem State.visitEnds_freeCtr (s : State) : (State.visitEnds s).freeCtr = s.freeCtr := rfl
@[simp] theorem State.visitEnds_pending (s : State) : (State.visitEnds s).pending = s.pending := rfl

/-! ### setQual: tamp alone -/

@[simp] theorem State.setQual_tile (s : State) (i : Nat) (x : Qual) : (State.setQual s i x).tile = s.tile := rfl
@[simp] theorem State.setQual_cp (s : State) (i : Nat) (x : Qual) : (State.setQual s i x).cp = s.cp := rfl
@[simp] theorem State.setQual_regs (s : State) (i : Nat) (x : Qual) : (State.setQual s i x).regs = s.regs := rfl
@[simp] theorem State.setQual_hdrs (s : State) (i : Nat) (x : Qual) : (State.setQual s i x).hdrs = s.hdrs := rfl
@[simp] theorem State.setQual_irq (s : State) (i : Nat) (x : Qual) : (State.setQual s i x).irq = s.irq := rfl
@[simp] theorem State.setQual_qeng (s : State) (i : Nat) (x : Qual) : (State.setQual s i x).qeng = s.qeng := rfl
@[simp] theorem State.setQual_crown (s : State) (i : Nat) (x : Qual) : (State.setQual s i x).crown = s.crown := rfl
@[simp] theorem State.setQual_fab (s : State) (i : Nat) (x : Qual) : (State.setQual s i x).fab = s.fab := rfl
@[simp] theorem State.setQual_frames (s : State) (i : Nat) (x : Qual) : (State.setQual s i x).frames = s.frames := rfl
@[simp] theorem State.setQual_ctx (s : State) (i : Nat) (x : Qual) : (State.setQual s i x).ctx = s.ctx := rfl
@[simp] theorem State.setQual_epoch (s : State) (i : Nat) (x : Qual) : (State.setQual s i x).epoch = s.epoch := rfl
@[simp] theorem State.setQual_digest (s : State) (i : Nat) (x : Qual) : (State.setQual s i x).digest = s.digest := rfl
@[simp] theorem State.setQual_bignum (s : State) (i : Nat) (x : Qual) : (State.setQual s i x).bignum = s.bignum := rfl
@[simp] theorem State.setQual_rng (s : State) (i : Nat) (x : Qual) : (State.setQual s i x).rng = s.rng := rfl
@[simp] theorem State.setQual_key (s : State) (i : Nat) (x : Qual) : (State.setQual s i x).key = s.key := rfl
@[simp] theorem State.setQual_dma (s : State) (i : Nat) (x : Qual) : (State.setQual s i x).dma = s.dma := rfl
@[simp] theorem State.setQual_hb (s : State) (i : Nat) (x : Qual) : (State.setQual s i x).hb = s.hb := rfl
@[simp] theorem State.setQual_clk (s : State) (i : Nat) (x : Qual) : (State.setQual s i x).clk = s.clk := rfl
@[simp] theorem State.setQual_pwr (s : State) (i : Nat) (x : Qual) : (State.setQual s i x).pwr = s.pwr := rfl
@[simp] theorem State.setQual_perf (s : State) (i : Nat) (x : Qual) : (State.setQual s i x).perf = s.perf := rfl
@[simp] theorem State.setQual_wrap (s : State) (i : Nat) (x : Qual) : (State.setQual s i x).wrap = s.wrap := rfl
@[simp] theorem State.setQual_finishes (s : State) (i : Nat) (x : Qual) : (State.setQual s i x).finishes = s.finishes := rfl
@[simp] theorem State.setQual_nextJob (s : State) (i : Nat) (x : Qual) : (State.setQual s i x).nextJob = s.nextJob := rfl
@[simp] theorem State.setQual_freeCtr (s : State) (i : Nat) (x : Qual) : (State.setQual s i x).freeCtr = s.freeCtr := rfl
@[simp] theorem State.setQual_pending (s : State) (i : Nat) (x : Qual) : (State.setQual s i x).pending = s.pending := rfl

/-! ### wdogKick: tile alone -/

@[simp] theorem State.wdogKick_cp (s : State) : (State.wdogKick s).cp = s.cp := rfl
@[simp] theorem State.wdogKick_regs (s : State) : (State.wdogKick s).regs = s.regs := rfl
@[simp] theorem State.wdogKick_hdrs (s : State) : (State.wdogKick s).hdrs = s.hdrs := rfl
@[simp] theorem State.wdogKick_irq (s : State) : (State.wdogKick s).irq = s.irq := rfl
@[simp] theorem State.wdogKick_qeng (s : State) : (State.wdogKick s).qeng = s.qeng := rfl
@[simp] theorem State.wdogKick_crown (s : State) : (State.wdogKick s).crown = s.crown := rfl
@[simp] theorem State.wdogKick_fab (s : State) : (State.wdogKick s).fab = s.fab := rfl
@[simp] theorem State.wdogKick_frames (s : State) : (State.wdogKick s).frames = s.frames := rfl
@[simp] theorem State.wdogKick_ctx (s : State) : (State.wdogKick s).ctx = s.ctx := rfl
@[simp] theorem State.wdogKick_epoch (s : State) : (State.wdogKick s).epoch = s.epoch := rfl
@[simp] theorem State.wdogKick_digest (s : State) : (State.wdogKick s).digest = s.digest := rfl
@[simp] theorem State.wdogKick_bignum (s : State) : (State.wdogKick s).bignum = s.bignum := rfl
@[simp] theorem State.wdogKick_rng (s : State) : (State.wdogKick s).rng = s.rng := rfl
@[simp] theorem State.wdogKick_key (s : State) : (State.wdogKick s).key = s.key := rfl
@[simp] theorem State.wdogKick_dma (s : State) : (State.wdogKick s).dma = s.dma := rfl
@[simp] theorem State.wdogKick_hb (s : State) : (State.wdogKick s).hb = s.hb := rfl
@[simp] theorem State.wdogKick_clk (s : State) : (State.wdogKick s).clk = s.clk := rfl
@[simp] theorem State.wdogKick_pwr (s : State) : (State.wdogKick s).pwr = s.pwr := rfl
@[simp] theorem State.wdogKick_tamp (s : State) : (State.wdogKick s).tamp = s.tamp := rfl
@[simp] theorem State.wdogKick_perf (s : State) : (State.wdogKick s).perf = s.perf := rfl
@[simp] theorem State.wdogKick_wrap (s : State) : (State.wdogKick s).wrap = s.wrap := rfl
@[simp] theorem State.wdogKick_finishes (s : State) : (State.wdogKick s).finishes = s.finishes := rfl
@[simp] theorem State.wdogKick_nextJob (s : State) : (State.wdogKick s).nextJob = s.nextJob := rfl
@[simp] theorem State.wdogKick_freeCtr (s : State) : (State.wdogKick s).freeCtr = s.freeCtr := rfl
@[simp] theorem State.wdogKick_pending (s : State) : (State.wdogKick s).pending = s.pending := rfl

/-! ### wrapReset: wrap alone -/

@[simp] theorem State.wrapReset_tile (s : State) : (State.wrapReset s).tile = s.tile := rfl
@[simp] theorem State.wrapReset_cp (s : State) : (State.wrapReset s).cp = s.cp := rfl
@[simp] theorem State.wrapReset_regs (s : State) : (State.wrapReset s).regs = s.regs := rfl
@[simp] theorem State.wrapReset_hdrs (s : State) : (State.wrapReset s).hdrs = s.hdrs := rfl
@[simp] theorem State.wrapReset_irq (s : State) : (State.wrapReset s).irq = s.irq := rfl
@[simp] theorem State.wrapReset_qeng (s : State) : (State.wrapReset s).qeng = s.qeng := rfl
@[simp] theorem State.wrapReset_crown (s : State) : (State.wrapReset s).crown = s.crown := rfl
@[simp] theorem State.wrapReset_fab (s : State) : (State.wrapReset s).fab = s.fab := rfl
@[simp] theorem State.wrapReset_frames (s : State) : (State.wrapReset s).frames = s.frames := rfl
@[simp] theorem State.wrapReset_ctx (s : State) : (State.wrapReset s).ctx = s.ctx := rfl
@[simp] theorem State.wrapReset_epoch (s : State) : (State.wrapReset s).epoch = s.epoch := rfl
@[simp] theorem State.wrapReset_digest (s : State) : (State.wrapReset s).digest = s.digest := rfl
@[simp] theorem State.wrapReset_bignum (s : State) : (State.wrapReset s).bignum = s.bignum := rfl
@[simp] theorem State.wrapReset_rng (s : State) : (State.wrapReset s).rng = s.rng := rfl
@[simp] theorem State.wrapReset_key (s : State) : (State.wrapReset s).key = s.key := rfl
@[simp] theorem State.wrapReset_dma (s : State) : (State.wrapReset s).dma = s.dma := rfl
@[simp] theorem State.wrapReset_hb (s : State) : (State.wrapReset s).hb = s.hb := rfl
@[simp] theorem State.wrapReset_clk (s : State) : (State.wrapReset s).clk = s.clk := rfl
@[simp] theorem State.wrapReset_pwr (s : State) : (State.wrapReset s).pwr = s.pwr := rfl
@[simp] theorem State.wrapReset_tamp (s : State) : (State.wrapReset s).tamp = s.tamp := rfl
@[simp] theorem State.wrapReset_perf (s : State) : (State.wrapReset s).perf = s.perf := rfl
@[simp] theorem State.wrapReset_finishes (s : State) : (State.wrapReset s).finishes = s.finishes := rfl
@[simp] theorem State.wrapReset_nextJob (s : State) : (State.wrapReset s).nextJob = s.nextJob := rfl
@[simp] theorem State.wrapReset_freeCtr (s : State) : (State.wrapReset s).freeCtr = s.freeCtr := rfl
@[simp] theorem State.wrapReset_pending (s : State) : (State.wrapReset s).pending = s.pending := rfl

/-! ### put: regs alone -/

@[simp] theorem State.put_tile (s : State) (f : Fld) (n x : Nat) : (State.put s f n x).tile = s.tile := rfl
@[simp] theorem State.put_cp (s : State) (f : Fld) (n x : Nat) : (State.put s f n x).cp = s.cp := rfl
@[simp] theorem State.put_hdrs (s : State) (f : Fld) (n x : Nat) : (State.put s f n x).hdrs = s.hdrs := rfl
@[simp] theorem State.put_irq (s : State) (f : Fld) (n x : Nat) : (State.put s f n x).irq = s.irq := rfl
@[simp] theorem State.put_qeng (s : State) (f : Fld) (n x : Nat) : (State.put s f n x).qeng = s.qeng := rfl
@[simp] theorem State.put_crown (s : State) (f : Fld) (n x : Nat) : (State.put s f n x).crown = s.crown := rfl
@[simp] theorem State.put_fab (s : State) (f : Fld) (n x : Nat) : (State.put s f n x).fab = s.fab := rfl
@[simp] theorem State.put_frames (s : State) (f : Fld) (n x : Nat) : (State.put s f n x).frames = s.frames := rfl
@[simp] theorem State.put_ctx (s : State) (f : Fld) (n x : Nat) : (State.put s f n x).ctx = s.ctx := rfl
@[simp] theorem State.put_epoch (s : State) (f : Fld) (n x : Nat) : (State.put s f n x).epoch = s.epoch := rfl
@[simp] theorem State.put_digest (s : State) (f : Fld) (n x : Nat) : (State.put s f n x).digest = s.digest := rfl
@[simp] theorem State.put_bignum (s : State) (f : Fld) (n x : Nat) : (State.put s f n x).bignum = s.bignum := rfl
@[simp] theorem State.put_rng (s : State) (f : Fld) (n x : Nat) : (State.put s f n x).rng = s.rng := rfl
@[simp] theorem State.put_key (s : State) (f : Fld) (n x : Nat) : (State.put s f n x).key = s.key := rfl
@[simp] theorem State.put_dma (s : State) (f : Fld) (n x : Nat) : (State.put s f n x).dma = s.dma := rfl
@[simp] theorem State.put_hb (s : State) (f : Fld) (n x : Nat) : (State.put s f n x).hb = s.hb := rfl
@[simp] theorem State.put_clk (s : State) (f : Fld) (n x : Nat) : (State.put s f n x).clk = s.clk := rfl
@[simp] theorem State.put_pwr (s : State) (f : Fld) (n x : Nat) : (State.put s f n x).pwr = s.pwr := rfl
@[simp] theorem State.put_tamp (s : State) (f : Fld) (n x : Nat) : (State.put s f n x).tamp = s.tamp := rfl
@[simp] theorem State.put_perf (s : State) (f : Fld) (n x : Nat) : (State.put s f n x).perf = s.perf := rfl
@[simp] theorem State.put_wrap (s : State) (f : Fld) (n x : Nat) : (State.put s f n x).wrap = s.wrap := rfl
@[simp] theorem State.put_finishes (s : State) (f : Fld) (n x : Nat) : (State.put s f n x).finishes = s.finishes := rfl
@[simp] theorem State.put_nextJob (s : State) (f : Fld) (n x : Nat) : (State.put s f n x).nextJob = s.nextJob := rfl
@[simp] theorem State.put_freeCtr (s : State) (f : Fld) (n x : Nat) : (State.put s f n x).freeCtr = s.freeCtr := rfl
@[simp] theorem State.put_pending (s : State) (f : Fld) (n x : Nat) : (State.put s f n x).pending = s.pending := rfl

/-! ### putFlag: regs alone -/

@[simp] theorem State.putFlag_tile (s : State) (f : Fld) (n : Nat) (b : Bool) :
    (State.putFlag s f n b).tile = s.tile := rfl
@[simp] theorem State.putFlag_cp (s : State) (f : Fld) (n : Nat) (b : Bool) :
    (State.putFlag s f n b).cp = s.cp := rfl
@[simp] theorem State.putFlag_hdrs (s : State) (f : Fld) (n : Nat) (b : Bool) :
    (State.putFlag s f n b).hdrs = s.hdrs := rfl
@[simp] theorem State.putFlag_irq (s : State) (f : Fld) (n : Nat) (b : Bool) :
    (State.putFlag s f n b).irq = s.irq := rfl
@[simp] theorem State.putFlag_qeng (s : State) (f : Fld) (n : Nat) (b : Bool) :
    (State.putFlag s f n b).qeng = s.qeng := rfl
@[simp] theorem State.putFlag_crown (s : State) (f : Fld) (n : Nat) (b : Bool) :
    (State.putFlag s f n b).crown = s.crown := rfl
@[simp] theorem State.putFlag_fab (s : State) (f : Fld) (n : Nat) (b : Bool) :
    (State.putFlag s f n b).fab = s.fab := rfl
@[simp] theorem State.putFlag_frames (s : State) (f : Fld) (n : Nat) (b : Bool) :
    (State.putFlag s f n b).frames = s.frames := rfl
@[simp] theorem State.putFlag_ctx (s : State) (f : Fld) (n : Nat) (b : Bool) :
    (State.putFlag s f n b).ctx = s.ctx := rfl
@[simp] theorem State.putFlag_epoch (s : State) (f : Fld) (n : Nat) (b : Bool) :
    (State.putFlag s f n b).epoch = s.epoch := rfl
@[simp] theorem State.putFlag_digest (s : State) (f : Fld) (n : Nat) (b : Bool) :
    (State.putFlag s f n b).digest = s.digest := rfl
@[simp] theorem State.putFlag_bignum (s : State) (f : Fld) (n : Nat) (b : Bool) :
    (State.putFlag s f n b).bignum = s.bignum := rfl
@[simp] theorem State.putFlag_rng (s : State) (f : Fld) (n : Nat) (b : Bool) :
    (State.putFlag s f n b).rng = s.rng := rfl
@[simp] theorem State.putFlag_key (s : State) (f : Fld) (n : Nat) (b : Bool) :
    (State.putFlag s f n b).key = s.key := rfl
@[simp] theorem State.putFlag_dma (s : State) (f : Fld) (n : Nat) (b : Bool) :
    (State.putFlag s f n b).dma = s.dma := rfl
@[simp] theorem State.putFlag_hb (s : State) (f : Fld) (n : Nat) (b : Bool) :
    (State.putFlag s f n b).hb = s.hb := rfl
@[simp] theorem State.putFlag_clk (s : State) (f : Fld) (n : Nat) (b : Bool) :
    (State.putFlag s f n b).clk = s.clk := rfl
@[simp] theorem State.putFlag_pwr (s : State) (f : Fld) (n : Nat) (b : Bool) :
    (State.putFlag s f n b).pwr = s.pwr := rfl
@[simp] theorem State.putFlag_tamp (s : State) (f : Fld) (n : Nat) (b : Bool) :
    (State.putFlag s f n b).tamp = s.tamp := rfl
@[simp] theorem State.putFlag_perf (s : State) (f : Fld) (n : Nat) (b : Bool) :
    (State.putFlag s f n b).perf = s.perf := rfl
@[simp] theorem State.putFlag_wrap (s : State) (f : Fld) (n : Nat) (b : Bool) :
    (State.putFlag s f n b).wrap = s.wrap := rfl
@[simp] theorem State.putFlag_finishes (s : State) (f : Fld) (n : Nat) (b : Bool) :
    (State.putFlag s f n b).finishes = s.finishes := rfl
@[simp] theorem State.putFlag_nextJob (s : State) (f : Fld) (n : Nat) (b : Bool) :
    (State.putFlag s f n b).nextJob = s.nextJob := rfl
@[simp] theorem State.putFlag_freeCtr (s : State) (f : Fld) (n : Nat) (b : Bool) :
    (State.putFlag s f n b).freeCtr = s.freeCtr := rfl
@[simp] theorem State.putFlag_pending (s : State) (f : Fld) (n : Nat) (b : Bool) :
    (State.putFlag s f n b).pending = s.pending := rfl

/-! ### bump: regs alone -/

@[simp] theorem State.bump_tile (s : State) (f : Fld) (n k : Nat) : (State.bump s f n k).tile = s.tile := rfl
@[simp] theorem State.bump_cp (s : State) (f : Fld) (n k : Nat) : (State.bump s f n k).cp = s.cp := rfl
@[simp] theorem State.bump_hdrs (s : State) (f : Fld) (n k : Nat) : (State.bump s f n k).hdrs = s.hdrs := rfl
@[simp] theorem State.bump_irq (s : State) (f : Fld) (n k : Nat) : (State.bump s f n k).irq = s.irq := rfl
@[simp] theorem State.bump_qeng (s : State) (f : Fld) (n k : Nat) : (State.bump s f n k).qeng = s.qeng := rfl
@[simp] theorem State.bump_crown (s : State) (f : Fld) (n k : Nat) : (State.bump s f n k).crown = s.crown := rfl
@[simp] theorem State.bump_fab (s : State) (f : Fld) (n k : Nat) : (State.bump s f n k).fab = s.fab := rfl
@[simp] theorem State.bump_frames (s : State) (f : Fld) (n k : Nat) : (State.bump s f n k).frames = s.frames := rfl
@[simp] theorem State.bump_ctx (s : State) (f : Fld) (n k : Nat) : (State.bump s f n k).ctx = s.ctx := rfl
@[simp] theorem State.bump_epoch (s : State) (f : Fld) (n k : Nat) : (State.bump s f n k).epoch = s.epoch := rfl
@[simp] theorem State.bump_digest (s : State) (f : Fld) (n k : Nat) : (State.bump s f n k).digest = s.digest := rfl
@[simp] theorem State.bump_bignum (s : State) (f : Fld) (n k : Nat) : (State.bump s f n k).bignum = s.bignum := rfl
@[simp] theorem State.bump_rng (s : State) (f : Fld) (n k : Nat) : (State.bump s f n k).rng = s.rng := rfl
@[simp] theorem State.bump_key (s : State) (f : Fld) (n k : Nat) : (State.bump s f n k).key = s.key := rfl
@[simp] theorem State.bump_dma (s : State) (f : Fld) (n k : Nat) : (State.bump s f n k).dma = s.dma := rfl
@[simp] theorem State.bump_hb (s : State) (f : Fld) (n k : Nat) : (State.bump s f n k).hb = s.hb := rfl
@[simp] theorem State.bump_clk (s : State) (f : Fld) (n k : Nat) : (State.bump s f n k).clk = s.clk := rfl
@[simp] theorem State.bump_pwr (s : State) (f : Fld) (n k : Nat) : (State.bump s f n k).pwr = s.pwr := rfl
@[simp] theorem State.bump_tamp (s : State) (f : Fld) (n k : Nat) : (State.bump s f n k).tamp = s.tamp := rfl
@[simp] theorem State.bump_perf (s : State) (f : Fld) (n k : Nat) : (State.bump s f n k).perf = s.perf := rfl
@[simp] theorem State.bump_wrap (s : State) (f : Fld) (n k : Nat) : (State.bump s f n k).wrap = s.wrap := rfl
@[simp] theorem State.bump_finishes (s : State) (f : Fld) (n k : Nat) : (State.bump s f n k).finishes = s.finishes := rfl
@[simp] theorem State.bump_nextJob (s : State) (f : Fld) (n k : Nat) : (State.bump s f n k).nextJob = s.nextJob := rfl
@[simp] theorem State.bump_freeCtr (s : State) (f : Fld) (n k : Nat) : (State.bump s f n k).freeCtr = s.freeCtr := rfl
@[simp] theorem State.bump_pending (s : State) (f : Fld) (n k : Nat) : (State.bump s f n k).pending = s.pending := rfl

/-! ### clearReg: regs alone -/

@[simp] theorem State.clearReg_tile (s : State) (r : Reg) (n : Nat) : (State.clearReg s r n).tile = s.tile := rfl
@[simp] theorem State.clearReg_cp (s : State) (r : Reg) (n : Nat) : (State.clearReg s r n).cp = s.cp := rfl
@[simp] theorem State.clearReg_hdrs (s : State) (r : Reg) (n : Nat) : (State.clearReg s r n).hdrs = s.hdrs := rfl
@[simp] theorem State.clearReg_irq (s : State) (r : Reg) (n : Nat) : (State.clearReg s r n).irq = s.irq := rfl
@[simp] theorem State.clearReg_qeng (s : State) (r : Reg) (n : Nat) : (State.clearReg s r n).qeng = s.qeng := rfl
@[simp] theorem State.clearReg_crown (s : State) (r : Reg) (n : Nat) : (State.clearReg s r n).crown = s.crown := rfl
@[simp] theorem State.clearReg_fab (s : State) (r : Reg) (n : Nat) : (State.clearReg s r n).fab = s.fab := rfl
@[simp] theorem State.clearReg_frames (s : State) (r : Reg) (n : Nat) : (State.clearReg s r n).frames = s.frames := rfl
@[simp] theorem State.clearReg_ctx (s : State) (r : Reg) (n : Nat) : (State.clearReg s r n).ctx = s.ctx := rfl
@[simp] theorem State.clearReg_epoch (s : State) (r : Reg) (n : Nat) : (State.clearReg s r n).epoch = s.epoch := rfl
@[simp] theorem State.clearReg_digest (s : State) (r : Reg) (n : Nat) : (State.clearReg s r n).digest = s.digest := rfl
@[simp] theorem State.clearReg_bignum (s : State) (r : Reg) (n : Nat) : (State.clearReg s r n).bignum = s.bignum := rfl
@[simp] theorem State.clearReg_rng (s : State) (r : Reg) (n : Nat) : (State.clearReg s r n).rng = s.rng := rfl
@[simp] theorem State.clearReg_key (s : State) (r : Reg) (n : Nat) : (State.clearReg s r n).key = s.key := rfl
@[simp] theorem State.clearReg_dma (s : State) (r : Reg) (n : Nat) : (State.clearReg s r n).dma = s.dma := rfl
@[simp] theorem State.clearReg_hb (s : State) (r : Reg) (n : Nat) : (State.clearReg s r n).hb = s.hb := rfl
@[simp] theorem State.clearReg_clk (s : State) (r : Reg) (n : Nat) : (State.clearReg s r n).clk = s.clk := rfl
@[simp] theorem State.clearReg_pwr (s : State) (r : Reg) (n : Nat) : (State.clearReg s r n).pwr = s.pwr := rfl
@[simp] theorem State.clearReg_tamp (s : State) (r : Reg) (n : Nat) : (State.clearReg s r n).tamp = s.tamp := rfl
@[simp] theorem State.clearReg_perf (s : State) (r : Reg) (n : Nat) : (State.clearReg s r n).perf = s.perf := rfl
@[simp] theorem State.clearReg_wrap (s : State) (r : Reg) (n : Nat) : (State.clearReg s r n).wrap = s.wrap := rfl
@[simp] theorem State.clearReg_finishes (s : State) (r : Reg) (n : Nat) : (State.clearReg s r n).finishes = s.finishes := rfl
@[simp] theorem State.clearReg_nextJob (s : State) (r : Reg) (n : Nat) : (State.clearReg s r n).nextJob = s.nextJob := rfl
@[simp] theorem State.clearReg_freeCtr (s : State) (r : Reg) (n : Nat) : (State.clearReg s r n).freeCtr = s.freeCtr := rfl
@[simp] theorem State.clearReg_pending (s : State) (r : Reg) (n : Nat) : (State.clearReg s r n).pending = s.pending := rfl

/-! ### setHdr: hdrs alone -/

@[simp] theorem State.setHdr_tile (s : State) (p : PageRef) (h : Hdr) : (State.setHdr s p h).tile = s.tile := rfl
@[simp] theorem State.setHdr_cp (s : State) (p : PageRef) (h : Hdr) : (State.setHdr s p h).cp = s.cp := rfl
@[simp] theorem State.setHdr_regs (s : State) (p : PageRef) (h : Hdr) : (State.setHdr s p h).regs = s.regs := rfl
@[simp] theorem State.setHdr_irq (s : State) (p : PageRef) (h : Hdr) : (State.setHdr s p h).irq = s.irq := rfl
@[simp] theorem State.setHdr_qeng (s : State) (p : PageRef) (h : Hdr) : (State.setHdr s p h).qeng = s.qeng := rfl
@[simp] theorem State.setHdr_crown (s : State) (p : PageRef) (h : Hdr) : (State.setHdr s p h).crown = s.crown := rfl
@[simp] theorem State.setHdr_fab (s : State) (p : PageRef) (h : Hdr) : (State.setHdr s p h).fab = s.fab := rfl
@[simp] theorem State.setHdr_frames (s : State) (p : PageRef) (h : Hdr) : (State.setHdr s p h).frames = s.frames := rfl
@[simp] theorem State.setHdr_ctx (s : State) (p : PageRef) (h : Hdr) : (State.setHdr s p h).ctx = s.ctx := rfl
@[simp] theorem State.setHdr_epoch (s : State) (p : PageRef) (h : Hdr) : (State.setHdr s p h).epoch = s.epoch := rfl
@[simp] theorem State.setHdr_digest (s : State) (p : PageRef) (h : Hdr) : (State.setHdr s p h).digest = s.digest := rfl
@[simp] theorem State.setHdr_bignum (s : State) (p : PageRef) (h : Hdr) : (State.setHdr s p h).bignum = s.bignum := rfl
@[simp] theorem State.setHdr_rng (s : State) (p : PageRef) (h : Hdr) : (State.setHdr s p h).rng = s.rng := rfl
@[simp] theorem State.setHdr_key (s : State) (p : PageRef) (h : Hdr) : (State.setHdr s p h).key = s.key := rfl
@[simp] theorem State.setHdr_dma (s : State) (p : PageRef) (h : Hdr) : (State.setHdr s p h).dma = s.dma := rfl
@[simp] theorem State.setHdr_hb (s : State) (p : PageRef) (h : Hdr) : (State.setHdr s p h).hb = s.hb := rfl
@[simp] theorem State.setHdr_clk (s : State) (p : PageRef) (h : Hdr) : (State.setHdr s p h).clk = s.clk := rfl
@[simp] theorem State.setHdr_pwr (s : State) (p : PageRef) (h : Hdr) : (State.setHdr s p h).pwr = s.pwr := rfl
@[simp] theorem State.setHdr_tamp (s : State) (p : PageRef) (h : Hdr) : (State.setHdr s p h).tamp = s.tamp := rfl
@[simp] theorem State.setHdr_perf (s : State) (p : PageRef) (h : Hdr) : (State.setHdr s p h).perf = s.perf := rfl
@[simp] theorem State.setHdr_wrap (s : State) (p : PageRef) (h : Hdr) : (State.setHdr s p h).wrap = s.wrap := rfl
@[simp] theorem State.setHdr_finishes (s : State) (p : PageRef) (h : Hdr) : (State.setHdr s p h).finishes = s.finishes := rfl
@[simp] theorem State.setHdr_nextJob (s : State) (p : PageRef) (h : Hdr) : (State.setHdr s p h).nextJob = s.nextJob := rfl
@[simp] theorem State.setHdr_freeCtr (s : State) (p : PageRef) (h : Hdr) : (State.setHdr s p h).freeCtr = s.freeCtr := rfl
@[simp] theorem State.setHdr_pending (s : State) (p : PageRef) (h : Hdr) : (State.setHdr s p h).pending = s.pending := rfl

/-! ### updHdr: hdrs alone -/

@[simp] theorem State.updHdr_tile (s : State) (p : PageRef) (f : Hdr → Hdr) : (State.updHdr s p f).tile = s.tile := rfl
@[simp] theorem State.updHdr_cp (s : State) (p : PageRef) (f : Hdr → Hdr) : (State.updHdr s p f).cp = s.cp := rfl
@[simp] theorem State.updHdr_regs (s : State) (p : PageRef) (f : Hdr → Hdr) : (State.updHdr s p f).regs = s.regs := rfl
@[simp] theorem State.updHdr_irq (s : State) (p : PageRef) (f : Hdr → Hdr) : (State.updHdr s p f).irq = s.irq := rfl
@[simp] theorem State.updHdr_qeng (s : State) (p : PageRef) (f : Hdr → Hdr) : (State.updHdr s p f).qeng = s.qeng := rfl
@[simp] theorem State.updHdr_crown (s : State) (p : PageRef) (f : Hdr → Hdr) : (State.updHdr s p f).crown = s.crown := rfl
@[simp] theorem State.updHdr_fab (s : State) (p : PageRef) (f : Hdr → Hdr) : (State.updHdr s p f).fab = s.fab := rfl
@[simp] theorem State.updHdr_frames (s : State) (p : PageRef) (f : Hdr → Hdr) : (State.updHdr s p f).frames = s.frames := rfl
@[simp] theorem State.updHdr_ctx (s : State) (p : PageRef) (f : Hdr → Hdr) : (State.updHdr s p f).ctx = s.ctx := rfl
@[simp] theorem State.updHdr_epoch (s : State) (p : PageRef) (f : Hdr → Hdr) : (State.updHdr s p f).epoch = s.epoch := rfl
@[simp] theorem State.updHdr_digest (s : State) (p : PageRef) (f : Hdr → Hdr) : (State.updHdr s p f).digest = s.digest := rfl
@[simp] theorem State.updHdr_bignum (s : State) (p : PageRef) (f : Hdr → Hdr) : (State.updHdr s p f).bignum = s.bignum := rfl
@[simp] theorem State.updHdr_rng (s : State) (p : PageRef) (f : Hdr → Hdr) : (State.updHdr s p f).rng = s.rng := rfl
@[simp] theorem State.updHdr_key (s : State) (p : PageRef) (f : Hdr → Hdr) : (State.updHdr s p f).key = s.key := rfl
@[simp] theorem State.updHdr_dma (s : State) (p : PageRef) (f : Hdr → Hdr) : (State.updHdr s p f).dma = s.dma := rfl
@[simp] theorem State.updHdr_hb (s : State) (p : PageRef) (f : Hdr → Hdr) : (State.updHdr s p f).hb = s.hb := rfl
@[simp] theorem State.updHdr_clk (s : State) (p : PageRef) (f : Hdr → Hdr) : (State.updHdr s p f).clk = s.clk := rfl
@[simp] theorem State.updHdr_pwr (s : State) (p : PageRef) (f : Hdr → Hdr) : (State.updHdr s p f).pwr = s.pwr := rfl
@[simp] theorem State.updHdr_tamp (s : State) (p : PageRef) (f : Hdr → Hdr) : (State.updHdr s p f).tamp = s.tamp := rfl
@[simp] theorem State.updHdr_perf (s : State) (p : PageRef) (f : Hdr → Hdr) : (State.updHdr s p f).perf = s.perf := rfl
@[simp] theorem State.updHdr_wrap (s : State) (p : PageRef) (f : Hdr → Hdr) : (State.updHdr s p f).wrap = s.wrap := rfl
@[simp] theorem State.updHdr_finishes (s : State) (p : PageRef) (f : Hdr → Hdr) : (State.updHdr s p f).finishes = s.finishes := rfl
@[simp] theorem State.updHdr_nextJob (s : State) (p : PageRef) (f : Hdr → Hdr) : (State.updHdr s p f).nextJob = s.nextJob := rfl
@[simp] theorem State.updHdr_freeCtr (s : State) (p : PageRef) (f : Hdr → Hdr) : (State.updHdr s p f).freeCtr = s.freeCtr := rfl
@[simp] theorem State.updHdr_pending (s : State) (p : PageRef) (f : Hdr → Hdr) : (State.updHdr s p f).pending = s.pending := rfl

/-! ### respond': cp alone -/

@[simp] theorem State.respond'_tile (s : State) (code : RspCode) (v : W64) (a : Access) :
    (State.respond' s code v a).tile = s.tile := rfl
@[simp] theorem State.respond'_regs (s : State) (code : RspCode) (v : W64) (a : Access) :
    (State.respond' s code v a).regs = s.regs := rfl
@[simp] theorem State.respond'_hdrs (s : State) (code : RspCode) (v : W64) (a : Access) :
    (State.respond' s code v a).hdrs = s.hdrs := rfl
@[simp] theorem State.respond'_irq (s : State) (code : RspCode) (v : W64) (a : Access) :
    (State.respond' s code v a).irq = s.irq := rfl
@[simp] theorem State.respond'_qeng (s : State) (code : RspCode) (v : W64) (a : Access) :
    (State.respond' s code v a).qeng = s.qeng := rfl
@[simp] theorem State.respond'_crown (s : State) (code : RspCode) (v : W64) (a : Access) :
    (State.respond' s code v a).crown = s.crown := rfl
@[simp] theorem State.respond'_fab (s : State) (code : RspCode) (v : W64) (a : Access) :
    (State.respond' s code v a).fab = s.fab := rfl
@[simp] theorem State.respond'_frames (s : State) (code : RspCode) (v : W64) (a : Access) :
    (State.respond' s code v a).frames = s.frames := rfl
@[simp] theorem State.respond'_ctx (s : State) (code : RspCode) (v : W64) (a : Access) :
    (State.respond' s code v a).ctx = s.ctx := rfl
@[simp] theorem State.respond'_epoch (s : State) (code : RspCode) (v : W64) (a : Access) :
    (State.respond' s code v a).epoch = s.epoch := rfl
@[simp] theorem State.respond'_digest (s : State) (code : RspCode) (v : W64) (a : Access) :
    (State.respond' s code v a).digest = s.digest := rfl
@[simp] theorem State.respond'_bignum (s : State) (code : RspCode) (v : W64) (a : Access) :
    (State.respond' s code v a).bignum = s.bignum := rfl
@[simp] theorem State.respond'_rng (s : State) (code : RspCode) (v : W64) (a : Access) :
    (State.respond' s code v a).rng = s.rng := rfl
@[simp] theorem State.respond'_key (s : State) (code : RspCode) (v : W64) (a : Access) :
    (State.respond' s code v a).key = s.key := rfl
@[simp] theorem State.respond'_dma (s : State) (code : RspCode) (v : W64) (a : Access) :
    (State.respond' s code v a).dma = s.dma := rfl
@[simp] theorem State.respond'_hb (s : State) (code : RspCode) (v : W64) (a : Access) :
    (State.respond' s code v a).hb = s.hb := rfl
@[simp] theorem State.respond'_clk (s : State) (code : RspCode) (v : W64) (a : Access) :
    (State.respond' s code v a).clk = s.clk := rfl
@[simp] theorem State.respond'_pwr (s : State) (code : RspCode) (v : W64) (a : Access) :
    (State.respond' s code v a).pwr = s.pwr := rfl
@[simp] theorem State.respond'_tamp (s : State) (code : RspCode) (v : W64) (a : Access) :
    (State.respond' s code v a).tamp = s.tamp := rfl
@[simp] theorem State.respond'_perf (s : State) (code : RspCode) (v : W64) (a : Access) :
    (State.respond' s code v a).perf = s.perf := rfl
@[simp] theorem State.respond'_wrap (s : State) (code : RspCode) (v : W64) (a : Access) :
    (State.respond' s code v a).wrap = s.wrap := rfl
@[simp] theorem State.respond'_finishes (s : State) (code : RspCode) (v : W64) (a : Access) :
    (State.respond' s code v a).finishes = s.finishes := rfl
@[simp] theorem State.respond'_nextJob (s : State) (code : RspCode) (v : W64) (a : Access) :
    (State.respond' s code v a).nextJob = s.nextJob := rfl
@[simp] theorem State.respond'_freeCtr (s : State) (code : RspCode) (v : W64) (a : Access) :
    (State.respond' s code v a).freeCtr = s.freeCtr := rfl
@[simp] theorem State.respond'_pending (s : State) (code : RspCode) (v : W64) (a : Access) :
    (State.respond' s code v a).pending = s.pending := rfl

/-! ### store: regs alone -/

@[simp] theorem State.store_tile (s : State) (r : Reg) (n : Nat) (v mask : W64) :
    (State.store s r n v mask).tile = s.tile := rfl
@[simp] theorem State.store_cp (s : State) (r : Reg) (n : Nat) (v mask : W64) :
    (State.store s r n v mask).cp = s.cp := rfl
@[simp] theorem State.store_hdrs (s : State) (r : Reg) (n : Nat) (v mask : W64) :
    (State.store s r n v mask).hdrs = s.hdrs := rfl
@[simp] theorem State.store_irq (s : State) (r : Reg) (n : Nat) (v mask : W64) :
    (State.store s r n v mask).irq = s.irq := rfl
@[simp] theorem State.store_qeng (s : State) (r : Reg) (n : Nat) (v mask : W64) :
    (State.store s r n v mask).qeng = s.qeng := rfl
@[simp] theorem State.store_crown (s : State) (r : Reg) (n : Nat) (v mask : W64) :
    (State.store s r n v mask).crown = s.crown := rfl
@[simp] theorem State.store_fab (s : State) (r : Reg) (n : Nat) (v mask : W64) :
    (State.store s r n v mask).fab = s.fab := rfl
@[simp] theorem State.store_frames (s : State) (r : Reg) (n : Nat) (v mask : W64) :
    (State.store s r n v mask).frames = s.frames := rfl
@[simp] theorem State.store_ctx (s : State) (r : Reg) (n : Nat) (v mask : W64) :
    (State.store s r n v mask).ctx = s.ctx := rfl
@[simp] theorem State.store_epoch (s : State) (r : Reg) (n : Nat) (v mask : W64) :
    (State.store s r n v mask).epoch = s.epoch := rfl
@[simp] theorem State.store_digest (s : State) (r : Reg) (n : Nat) (v mask : W64) :
    (State.store s r n v mask).digest = s.digest := rfl
@[simp] theorem State.store_bignum (s : State) (r : Reg) (n : Nat) (v mask : W64) :
    (State.store s r n v mask).bignum = s.bignum := rfl
@[simp] theorem State.store_rng (s : State) (r : Reg) (n : Nat) (v mask : W64) :
    (State.store s r n v mask).rng = s.rng := rfl
@[simp] theorem State.store_key (s : State) (r : Reg) (n : Nat) (v mask : W64) :
    (State.store s r n v mask).key = s.key := rfl
@[simp] theorem State.store_dma (s : State) (r : Reg) (n : Nat) (v mask : W64) :
    (State.store s r n v mask).dma = s.dma := rfl
@[simp] theorem State.store_hb (s : State) (r : Reg) (n : Nat) (v mask : W64) :
    (State.store s r n v mask).hb = s.hb := rfl
@[simp] theorem State.store_clk (s : State) (r : Reg) (n : Nat) (v mask : W64) :
    (State.store s r n v mask).clk = s.clk := rfl
@[simp] theorem State.store_pwr (s : State) (r : Reg) (n : Nat) (v mask : W64) :
    (State.store s r n v mask).pwr = s.pwr := rfl
@[simp] theorem State.store_tamp (s : State) (r : Reg) (n : Nat) (v mask : W64) :
    (State.store s r n v mask).tamp = s.tamp := rfl
@[simp] theorem State.store_perf (s : State) (r : Reg) (n : Nat) (v mask : W64) :
    (State.store s r n v mask).perf = s.perf := rfl
@[simp] theorem State.store_wrap (s : State) (r : Reg) (n : Nat) (v mask : W64) :
    (State.store s r n v mask).wrap = s.wrap := rfl
@[simp] theorem State.store_finishes (s : State) (r : Reg) (n : Nat) (v mask : W64) :
    (State.store s r n v mask).finishes = s.finishes := rfl
@[simp] theorem State.store_nextJob (s : State) (r : Reg) (n : Nat) (v mask : W64) :
    (State.store s r n v mask).nextJob = s.nextJob := rfl
@[simp] theorem State.store_freeCtr (s : State) (r : Reg) (n : Nat) (v mask : W64) :
    (State.store s r n v mask).freeCtr = s.freeCtr := rfl
@[simp] theorem State.store_pending (s : State) (r : Reg) (n : Nat) (v mask : W64) :
    (State.store s r n v mask).pending = s.pending := rfl

/-! ### unholdAll: qeng alone -/

@[simp] theorem State.unholdAll_tile (s : State) : (State.unholdAll s).tile = s.tile := rfl
@[simp] theorem State.unholdAll_cp (s : State) : (State.unholdAll s).cp = s.cp := rfl
@[simp] theorem State.unholdAll_regs (s : State) : (State.unholdAll s).regs = s.regs := rfl
@[simp] theorem State.unholdAll_hdrs (s : State) : (State.unholdAll s).hdrs = s.hdrs := rfl
@[simp] theorem State.unholdAll_irq (s : State) : (State.unholdAll s).irq = s.irq := rfl
@[simp] theorem State.unholdAll_crown (s : State) : (State.unholdAll s).crown = s.crown := rfl
@[simp] theorem State.unholdAll_fab (s : State) : (State.unholdAll s).fab = s.fab := rfl
@[simp] theorem State.unholdAll_frames (s : State) : (State.unholdAll s).frames = s.frames := rfl
@[simp] theorem State.unholdAll_ctx (s : State) : (State.unholdAll s).ctx = s.ctx := rfl
@[simp] theorem State.unholdAll_epoch (s : State) : (State.unholdAll s).epoch = s.epoch := rfl
@[simp] theorem State.unholdAll_digest (s : State) : (State.unholdAll s).digest = s.digest := rfl
@[simp] theorem State.unholdAll_bignum (s : State) : (State.unholdAll s).bignum = s.bignum := rfl
@[simp] theorem State.unholdAll_rng (s : State) : (State.unholdAll s).rng = s.rng := rfl
@[simp] theorem State.unholdAll_key (s : State) : (State.unholdAll s).key = s.key := rfl
@[simp] theorem State.unholdAll_dma (s : State) : (State.unholdAll s).dma = s.dma := rfl
@[simp] theorem State.unholdAll_hb (s : State) : (State.unholdAll s).hb = s.hb := rfl
@[simp] theorem State.unholdAll_clk (s : State) : (State.unholdAll s).clk = s.clk := rfl
@[simp] theorem State.unholdAll_pwr (s : State) : (State.unholdAll s).pwr = s.pwr := rfl
@[simp] theorem State.unholdAll_tamp (s : State) : (State.unholdAll s).tamp = s.tamp := rfl
@[simp] theorem State.unholdAll_perf (s : State) : (State.unholdAll s).perf = s.perf := rfl
@[simp] theorem State.unholdAll_wrap (s : State) : (State.unholdAll s).wrap = s.wrap := rfl
@[simp] theorem State.unholdAll_finishes (s : State) : (State.unholdAll s).finishes = s.finishes := rfl
@[simp] theorem State.unholdAll_nextJob (s : State) : (State.unholdAll s).nextJob = s.nextJob := rfl
@[simp] theorem State.unholdAll_freeCtr (s : State) : (State.unholdAll s).freeCtr = s.freeCtr := rfl
@[simp] theorem State.unholdAll_pending (s : State) : (State.unholdAll s).pending = s.pending := rfl

/-! ### clearDerived: key alone -/

@[simp] theorem State.clearDerived_tile (s : State) : (State.clearDerived s).tile = s.tile := rfl
@[simp] theorem State.clearDerived_cp (s : State) : (State.clearDerived s).cp = s.cp := rfl
@[simp] theorem State.clearDerived_regs (s : State) : (State.clearDerived s).regs = s.regs := rfl
@[simp] theorem State.clearDerived_hdrs (s : State) : (State.clearDerived s).hdrs = s.hdrs := rfl
@[simp] theorem State.clearDerived_irq (s : State) : (State.clearDerived s).irq = s.irq := rfl
@[simp] theorem State.clearDerived_qeng (s : State) : (State.clearDerived s).qeng = s.qeng := rfl
@[simp] theorem State.clearDerived_crown (s : State) : (State.clearDerived s).crown = s.crown := rfl
@[simp] theorem State.clearDerived_fab (s : State) : (State.clearDerived s).fab = s.fab := rfl
@[simp] theorem State.clearDerived_frames (s : State) : (State.clearDerived s).frames = s.frames := rfl
@[simp] theorem State.clearDerived_ctx (s : State) : (State.clearDerived s).ctx = s.ctx := rfl
@[simp] theorem State.clearDerived_epoch (s : State) : (State.clearDerived s).epoch = s.epoch := rfl
@[simp] theorem State.clearDerived_digest (s : State) : (State.clearDerived s).digest = s.digest := rfl
@[simp] theorem State.clearDerived_bignum (s : State) : (State.clearDerived s).bignum = s.bignum := rfl
@[simp] theorem State.clearDerived_rng (s : State) : (State.clearDerived s).rng = s.rng := rfl
@[simp] theorem State.clearDerived_dma (s : State) : (State.clearDerived s).dma = s.dma := rfl
@[simp] theorem State.clearDerived_hb (s : State) : (State.clearDerived s).hb = s.hb := rfl
@[simp] theorem State.clearDerived_clk (s : State) : (State.clearDerived s).clk = s.clk := rfl
@[simp] theorem State.clearDerived_pwr (s : State) : (State.clearDerived s).pwr = s.pwr := rfl
@[simp] theorem State.clearDerived_tamp (s : State) : (State.clearDerived s).tamp = s.tamp := rfl
@[simp] theorem State.clearDerived_perf (s : State) : (State.clearDerived s).perf = s.perf := rfl
@[simp] theorem State.clearDerived_wrap (s : State) : (State.clearDerived s).wrap = s.wrap := rfl
@[simp] theorem State.clearDerived_finishes (s : State) : (State.clearDerived s).finishes = s.finishes := rfl
@[simp] theorem State.clearDerived_nextJob (s : State) : (State.clearDerived s).nextJob = s.nextJob := rfl
@[simp] theorem State.clearDerived_freeCtr (s : State) : (State.clearDerived s).freeCtr = s.freeCtr := rfl
@[simp] theorem State.clearDerived_pending (s : State) : (State.clearDerived s).pending = s.pending := rfl

/-! ### clearSecrets: qeng alone -/

@[simp] theorem State.clearSecrets_tile (s : State) : (State.clearSecrets s).tile = s.tile := rfl
@[simp] theorem State.clearSecrets_cp (s : State) : (State.clearSecrets s).cp = s.cp := rfl
@[simp] theorem State.clearSecrets_regs (s : State) : (State.clearSecrets s).regs = s.regs := rfl
@[simp] theorem State.clearSecrets_hdrs (s : State) : (State.clearSecrets s).hdrs = s.hdrs := rfl
@[simp] theorem State.clearSecrets_irq (s : State) : (State.clearSecrets s).irq = s.irq := rfl
@[simp] theorem State.clearSecrets_crown (s : State) : (State.clearSecrets s).crown = s.crown := rfl
@[simp] theorem State.clearSecrets_fab (s : State) : (State.clearSecrets s).fab = s.fab := rfl
@[simp] theorem State.clearSecrets_frames (s : State) : (State.clearSecrets s).frames = s.frames := rfl
@[simp] theorem State.clearSecrets_ctx (s : State) : (State.clearSecrets s).ctx = s.ctx := rfl
@[simp] theorem State.clearSecrets_epoch (s : State) : (State.clearSecrets s).epoch = s.epoch := rfl
@[simp] theorem State.clearSecrets_digest (s : State) : (State.clearSecrets s).digest = s.digest := rfl
@[simp] theorem State.clearSecrets_bignum (s : State) : (State.clearSecrets s).bignum = s.bignum := rfl
@[simp] theorem State.clearSecrets_rng (s : State) : (State.clearSecrets s).rng = s.rng := rfl
@[simp] theorem State.clearSecrets_key (s : State) : (State.clearSecrets s).key = s.key := rfl
@[simp] theorem State.clearSecrets_dma (s : State) : (State.clearSecrets s).dma = s.dma := rfl
@[simp] theorem State.clearSecrets_hb (s : State) : (State.clearSecrets s).hb = s.hb := rfl
@[simp] theorem State.clearSecrets_clk (s : State) : (State.clearSecrets s).clk = s.clk := rfl
@[simp] theorem State.clearSecrets_pwr (s : State) : (State.clearSecrets s).pwr = s.pwr := rfl
@[simp] theorem State.clearSecrets_tamp (s : State) : (State.clearSecrets s).tamp = s.tamp := rfl
@[simp] theorem State.clearSecrets_perf (s : State) : (State.clearSecrets s).perf = s.perf := rfl
@[simp] theorem State.clearSecrets_wrap (s : State) : (State.clearSecrets s).wrap = s.wrap := rfl
@[simp] theorem State.clearSecrets_finishes (s : State) : (State.clearSecrets s).finishes = s.finishes := rfl
@[simp] theorem State.clearSecrets_nextJob (s : State) : (State.clearSecrets s).nextJob = s.nextJob := rfl
@[simp] theorem State.clearSecrets_freeCtr (s : State) : (State.clearSecrets s).freeCtr = s.freeCtr := rfl
@[simp] theorem State.clearSecrets_pending (s : State) : (State.clearSecrets s).pending = s.pending := rfl

/-! ### dropImage: digest alone -/

@[simp] theorem State.dropImage_tile (s : State) : (State.dropImage s).tile = s.tile := rfl
@[simp] theorem State.dropImage_cp (s : State) : (State.dropImage s).cp = s.cp := rfl
@[simp] theorem State.dropImage_regs (s : State) : (State.dropImage s).regs = s.regs := rfl
@[simp] theorem State.dropImage_hdrs (s : State) : (State.dropImage s).hdrs = s.hdrs := rfl
@[simp] theorem State.dropImage_irq (s : State) : (State.dropImage s).irq = s.irq := rfl
@[simp] theorem State.dropImage_qeng (s : State) : (State.dropImage s).qeng = s.qeng := rfl
@[simp] theorem State.dropImage_crown (s : State) : (State.dropImage s).crown = s.crown := rfl
@[simp] theorem State.dropImage_fab (s : State) : (State.dropImage s).fab = s.fab := rfl
@[simp] theorem State.dropImage_frames (s : State) : (State.dropImage s).frames = s.frames := rfl
@[simp] theorem State.dropImage_ctx (s : State) : (State.dropImage s).ctx = s.ctx := rfl
@[simp] theorem State.dropImage_epoch (s : State) : (State.dropImage s).epoch = s.epoch := rfl
@[simp] theorem State.dropImage_bignum (s : State) : (State.dropImage s).bignum = s.bignum := rfl
@[simp] theorem State.dropImage_rng (s : State) : (State.dropImage s).rng = s.rng := rfl
@[simp] theorem State.dropImage_key (s : State) : (State.dropImage s).key = s.key := rfl
@[simp] theorem State.dropImage_dma (s : State) : (State.dropImage s).dma = s.dma := rfl
@[simp] theorem State.dropImage_hb (s : State) : (State.dropImage s).hb = s.hb := rfl
@[simp] theorem State.dropImage_clk (s : State) : (State.dropImage s).clk = s.clk := rfl
@[simp] theorem State.dropImage_pwr (s : State) : (State.dropImage s).pwr = s.pwr := rfl
@[simp] theorem State.dropImage_tamp (s : State) : (State.dropImage s).tamp = s.tamp := rfl
@[simp] theorem State.dropImage_perf (s : State) : (State.dropImage s).perf = s.perf := rfl
@[simp] theorem State.dropImage_wrap (s : State) : (State.dropImage s).wrap = s.wrap := rfl
@[simp] theorem State.dropImage_finishes (s : State) : (State.dropImage s).finishes = s.finishes := rfl
@[simp] theorem State.dropImage_nextJob (s : State) : (State.dropImage s).nextJob = s.nextJob := rfl
@[simp] theorem State.dropImage_freeCtr (s : State) : (State.dropImage s).freeCtr = s.freeCtr := rfl
@[simp] theorem State.dropImage_pending (s : State) : (State.dropImage s).pending = s.pending := rfl

/-! ### digestWipe: digest alone -/

@[simp] theorem State.digestWipe_tile (s : State) : (State.digestWipe s).tile = s.tile := rfl
@[simp] theorem State.digestWipe_cp (s : State) : (State.digestWipe s).cp = s.cp := rfl
@[simp] theorem State.digestWipe_regs (s : State) : (State.digestWipe s).regs = s.regs := rfl
@[simp] theorem State.digestWipe_hdrs (s : State) : (State.digestWipe s).hdrs = s.hdrs := rfl
@[simp] theorem State.digestWipe_irq (s : State) : (State.digestWipe s).irq = s.irq := rfl
@[simp] theorem State.digestWipe_qeng (s : State) : (State.digestWipe s).qeng = s.qeng := rfl
@[simp] theorem State.digestWipe_crown (s : State) : (State.digestWipe s).crown = s.crown := rfl
@[simp] theorem State.digestWipe_fab (s : State) : (State.digestWipe s).fab = s.fab := rfl
@[simp] theorem State.digestWipe_frames (s : State) : (State.digestWipe s).frames = s.frames := rfl
@[simp] theorem State.digestWipe_ctx (s : State) : (State.digestWipe s).ctx = s.ctx := rfl
@[simp] theorem State.digestWipe_epoch (s : State) : (State.digestWipe s).epoch = s.epoch := rfl
@[simp] theorem State.digestWipe_bignum (s : State) : (State.digestWipe s).bignum = s.bignum := rfl
@[simp] theorem State.digestWipe_rng (s : State) : (State.digestWipe s).rng = s.rng := rfl
@[simp] theorem State.digestWipe_key (s : State) : (State.digestWipe s).key = s.key := rfl
@[simp] theorem State.digestWipe_dma (s : State) : (State.digestWipe s).dma = s.dma := rfl
@[simp] theorem State.digestWipe_hb (s : State) : (State.digestWipe s).hb = s.hb := rfl
@[simp] theorem State.digestWipe_clk (s : State) : (State.digestWipe s).clk = s.clk := rfl
@[simp] theorem State.digestWipe_pwr (s : State) : (State.digestWipe s).pwr = s.pwr := rfl
@[simp] theorem State.digestWipe_tamp (s : State) : (State.digestWipe s).tamp = s.tamp := rfl
@[simp] theorem State.digestWipe_perf (s : State) : (State.digestWipe s).perf = s.perf := rfl
@[simp] theorem State.digestWipe_wrap (s : State) : (State.digestWipe s).wrap = s.wrap := rfl
@[simp] theorem State.digestWipe_finishes (s : State) : (State.digestWipe s).finishes = s.finishes := rfl
@[simp] theorem State.digestWipe_nextJob (s : State) : (State.digestWipe s).nextJob = s.nextJob := rfl
@[simp] theorem State.digestWipe_freeCtr (s : State) : (State.digestWipe s).freeCtr = s.freeCtr := rfl
@[simp] theorem State.digestWipe_pending (s : State) : (State.digestWipe s).pending = s.pending := rfl

/-! ### ctxDropCaches: ctx alone -/

@[simp] theorem State.ctxDropCaches_tile (s : State) : (State.ctxDropCaches s).tile = s.tile := rfl
@[simp] theorem State.ctxDropCaches_cp (s : State) : (State.ctxDropCaches s).cp = s.cp := rfl
@[simp] theorem State.ctxDropCaches_regs (s : State) : (State.ctxDropCaches s).regs = s.regs := rfl
@[simp] theorem State.ctxDropCaches_hdrs (s : State) : (State.ctxDropCaches s).hdrs = s.hdrs := rfl
@[simp] theorem State.ctxDropCaches_irq (s : State) : (State.ctxDropCaches s).irq = s.irq := rfl
@[simp] theorem State.ctxDropCaches_qeng (s : State) : (State.ctxDropCaches s).qeng = s.qeng := rfl
@[simp] theorem State.ctxDropCaches_crown (s : State) : (State.ctxDropCaches s).crown = s.crown := rfl
@[simp] theorem State.ctxDropCaches_fab (s : State) : (State.ctxDropCaches s).fab = s.fab := rfl
@[simp] theorem State.ctxDropCaches_frames (s : State) : (State.ctxDropCaches s).frames = s.frames := rfl
@[simp] theorem State.ctxDropCaches_epoch (s : State) : (State.ctxDropCaches s).epoch = s.epoch := rfl
@[simp] theorem State.ctxDropCaches_digest (s : State) : (State.ctxDropCaches s).digest = s.digest := rfl
@[simp] theorem State.ctxDropCaches_bignum (s : State) : (State.ctxDropCaches s).bignum = s.bignum := rfl
@[simp] theorem State.ctxDropCaches_rng (s : State) : (State.ctxDropCaches s).rng = s.rng := rfl
@[simp] theorem State.ctxDropCaches_key (s : State) : (State.ctxDropCaches s).key = s.key := rfl
@[simp] theorem State.ctxDropCaches_dma (s : State) : (State.ctxDropCaches s).dma = s.dma := rfl
@[simp] theorem State.ctxDropCaches_hb (s : State) : (State.ctxDropCaches s).hb = s.hb := rfl
@[simp] theorem State.ctxDropCaches_clk (s : State) : (State.ctxDropCaches s).clk = s.clk := rfl
@[simp] theorem State.ctxDropCaches_pwr (s : State) : (State.ctxDropCaches s).pwr = s.pwr := rfl
@[simp] theorem State.ctxDropCaches_tamp (s : State) : (State.ctxDropCaches s).tamp = s.tamp := rfl
@[simp] theorem State.ctxDropCaches_perf (s : State) : (State.ctxDropCaches s).perf = s.perf := rfl
@[simp] theorem State.ctxDropCaches_wrap (s : State) : (State.ctxDropCaches s).wrap = s.wrap := rfl
@[simp] theorem State.ctxDropCaches_finishes (s : State) : (State.ctxDropCaches s).finishes = s.finishes := rfl
@[simp] theorem State.ctxDropCaches_nextJob (s : State) : (State.ctxDropCaches s).nextJob = s.nextJob := rfl
@[simp] theorem State.ctxDropCaches_freeCtr (s : State) : (State.ctxDropCaches s).freeCtr = s.freeCtr := rfl
@[simp] theorem State.ctxDropCaches_pending (s : State) : (State.ctxDropCaches s).pending = s.pending := rfl

/-! ### noneDirty: ctx alone -/

@[simp] theorem State.noneDirty_tile (s : State) : (State.noneDirty s).tile = s.tile := rfl
@[simp] theorem State.noneDirty_cp (s : State) : (State.noneDirty s).cp = s.cp := rfl
@[simp] theorem State.noneDirty_regs (s : State) : (State.noneDirty s).regs = s.regs := rfl
@[simp] theorem State.noneDirty_hdrs (s : State) : (State.noneDirty s).hdrs = s.hdrs := rfl
@[simp] theorem State.noneDirty_irq (s : State) : (State.noneDirty s).irq = s.irq := rfl
@[simp] theorem State.noneDirty_qeng (s : State) : (State.noneDirty s).qeng = s.qeng := rfl
@[simp] theorem State.noneDirty_crown (s : State) : (State.noneDirty s).crown = s.crown := rfl
@[simp] theorem State.noneDirty_fab (s : State) : (State.noneDirty s).fab = s.fab := rfl
@[simp] theorem State.noneDirty_frames (s : State) : (State.noneDirty s).frames = s.frames := rfl
@[simp] theorem State.noneDirty_epoch (s : State) : (State.noneDirty s).epoch = s.epoch := rfl
@[simp] theorem State.noneDirty_digest (s : State) : (State.noneDirty s).digest = s.digest := rfl
@[simp] theorem State.noneDirty_bignum (s : State) : (State.noneDirty s).bignum = s.bignum := rfl
@[simp] theorem State.noneDirty_rng (s : State) : (State.noneDirty s).rng = s.rng := rfl
@[simp] theorem State.noneDirty_key (s : State) : (State.noneDirty s).key = s.key := rfl
@[simp] theorem State.noneDirty_dma (s : State) : (State.noneDirty s).dma = s.dma := rfl
@[simp] theorem State.noneDirty_hb (s : State) : (State.noneDirty s).hb = s.hb := rfl
@[simp] theorem State.noneDirty_clk (s : State) : (State.noneDirty s).clk = s.clk := rfl
@[simp] theorem State.noneDirty_pwr (s : State) : (State.noneDirty s).pwr = s.pwr := rfl
@[simp] theorem State.noneDirty_tamp (s : State) : (State.noneDirty s).tamp = s.tamp := rfl
@[simp] theorem State.noneDirty_perf (s : State) : (State.noneDirty s).perf = s.perf := rfl
@[simp] theorem State.noneDirty_wrap (s : State) : (State.noneDirty s).wrap = s.wrap := rfl
@[simp] theorem State.noneDirty_finishes (s : State) : (State.noneDirty s).finishes = s.finishes := rfl
@[simp] theorem State.noneDirty_nextJob (s : State) : (State.noneDirty s).nextJob = s.nextJob := rfl
@[simp] theorem State.noneDirty_freeCtr (s : State) : (State.noneDirty s).freeCtr = s.freeCtr := rfl
@[simp] theorem State.noneDirty_pending (s : State) : (State.noneDirty s).pending = s.pending := rfl

/-! ### passEnded: key alone -/

@[simp] theorem State.passEnded_tile (s : State) : (State.passEnded s).tile = s.tile := rfl
@[simp] theorem State.passEnded_cp (s : State) : (State.passEnded s).cp = s.cp := rfl
@[simp] theorem State.passEnded_regs (s : State) : (State.passEnded s).regs = s.regs := rfl
@[simp] theorem State.passEnded_hdrs (s : State) : (State.passEnded s).hdrs = s.hdrs := rfl
@[simp] theorem State.passEnded_irq (s : State) : (State.passEnded s).irq = s.irq := rfl
@[simp] theorem State.passEnded_qeng (s : State) : (State.passEnded s).qeng = s.qeng := rfl
@[simp] theorem State.passEnded_crown (s : State) : (State.passEnded s).crown = s.crown := rfl
@[simp] theorem State.passEnded_fab (s : State) : (State.passEnded s).fab = s.fab := rfl
@[simp] theorem State.passEnded_frames (s : State) : (State.passEnded s).frames = s.frames := rfl
@[simp] theorem State.passEnded_ctx (s : State) : (State.passEnded s).ctx = s.ctx := rfl
@[simp] theorem State.passEnded_epoch (s : State) : (State.passEnded s).epoch = s.epoch := rfl
@[simp] theorem State.passEnded_digest (s : State) : (State.passEnded s).digest = s.digest := rfl
@[simp] theorem State.passEnded_bignum (s : State) : (State.passEnded s).bignum = s.bignum := rfl
@[simp] theorem State.passEnded_rng (s : State) : (State.passEnded s).rng = s.rng := rfl
@[simp] theorem State.passEnded_dma (s : State) : (State.passEnded s).dma = s.dma := rfl
@[simp] theorem State.passEnded_hb (s : State) : (State.passEnded s).hb = s.hb := rfl
@[simp] theorem State.passEnded_clk (s : State) : (State.passEnded s).clk = s.clk := rfl
@[simp] theorem State.passEnded_pwr (s : State) : (State.passEnded s).pwr = s.pwr := rfl
@[simp] theorem State.passEnded_tamp (s : State) : (State.passEnded s).tamp = s.tamp := rfl
@[simp] theorem State.passEnded_perf (s : State) : (State.passEnded s).perf = s.perf := rfl
@[simp] theorem State.passEnded_wrap (s : State) : (State.passEnded s).wrap = s.wrap := rfl
@[simp] theorem State.passEnded_finishes (s : State) : (State.passEnded s).finishes = s.finishes := rfl
@[simp] theorem State.passEnded_nextJob (s : State) : (State.passEnded s).nextJob = s.nextJob := rfl
@[simp] theorem State.passEnded_freeCtr (s : State) : (State.passEnded s).freeCtr = s.freeCtr := rfl
@[simp] theorem State.passEnded_pending (s : State) : (State.passEnded s).pending = s.pending := rfl

/-! ### noMasks: key alone -/

@[simp] theorem State.noMasks_tile (s : State) : (State.noMasks s).tile = s.tile := rfl
@[simp] theorem State.noMasks_cp (s : State) : (State.noMasks s).cp = s.cp := rfl
@[simp] theorem State.noMasks_regs (s : State) : (State.noMasks s).regs = s.regs := rfl
@[simp] theorem State.noMasks_hdrs (s : State) : (State.noMasks s).hdrs = s.hdrs := rfl
@[simp] theorem State.noMasks_irq (s : State) : (State.noMasks s).irq = s.irq := rfl
@[simp] theorem State.noMasks_qeng (s : State) : (State.noMasks s).qeng = s.qeng := rfl
@[simp] theorem State.noMasks_crown (s : State) : (State.noMasks s).crown = s.crown := rfl
@[simp] theorem State.noMasks_fab (s : State) : (State.noMasks s).fab = s.fab := rfl
@[simp] theorem State.noMasks_frames (s : State) : (State.noMasks s).frames = s.frames := rfl
@[simp] theorem State.noMasks_ctx (s : State) : (State.noMasks s).ctx = s.ctx := rfl
@[simp] theorem State.noMasks_epoch (s : State) : (State.noMasks s).epoch = s.epoch := rfl
@[simp] theorem State.noMasks_digest (s : State) : (State.noMasks s).digest = s.digest := rfl
@[simp] theorem State.noMasks_bignum (s : State) : (State.noMasks s).bignum = s.bignum := rfl
@[simp] theorem State.noMasks_rng (s : State) : (State.noMasks s).rng = s.rng := rfl
@[simp] theorem State.noMasks_dma (s : State) : (State.noMasks s).dma = s.dma := rfl
@[simp] theorem State.noMasks_hb (s : State) : (State.noMasks s).hb = s.hb := rfl
@[simp] theorem State.noMasks_clk (s : State) : (State.noMasks s).clk = s.clk := rfl
@[simp] theorem State.noMasks_pwr (s : State) : (State.noMasks s).pwr = s.pwr := rfl
@[simp] theorem State.noMasks_tamp (s : State) : (State.noMasks s).tamp = s.tamp := rfl
@[simp] theorem State.noMasks_perf (s : State) : (State.noMasks s).perf = s.perf := rfl
@[simp] theorem State.noMasks_wrap (s : State) : (State.noMasks s).wrap = s.wrap := rfl
@[simp] theorem State.noMasks_finishes (s : State) : (State.noMasks s).finishes = s.finishes := rfl
@[simp] theorem State.noMasks_nextJob (s : State) : (State.noMasks s).nextJob = s.nextJob := rfl
@[simp] theorem State.noMasks_freeCtr (s : State) : (State.noMasks s).freeCtr = s.freeCtr := rfl
@[simp] theorem State.noMasks_pending (s : State) : (State.noMasks s).pending = s.pending := rfl

/-! ### setPass: key alone -/

@[simp] theorem State.setPass_tile (s : State) (on fresh : Bool) :
    (State.setPass s on fresh).tile = s.tile := rfl
@[simp] theorem State.setPass_cp (s : State) (on fresh : Bool) :
    (State.setPass s on fresh).cp = s.cp := rfl
@[simp] theorem State.setPass_regs (s : State) (on fresh : Bool) :
    (State.setPass s on fresh).regs = s.regs := rfl
@[simp] theorem State.setPass_hdrs (s : State) (on fresh : Bool) :
    (State.setPass s on fresh).hdrs = s.hdrs := rfl
@[simp] theorem State.setPass_irq (s : State) (on fresh : Bool) :
    (State.setPass s on fresh).irq = s.irq := rfl
@[simp] theorem State.setPass_qeng (s : State) (on fresh : Bool) :
    (State.setPass s on fresh).qeng = s.qeng := rfl
@[simp] theorem State.setPass_crown (s : State) (on fresh : Bool) :
    (State.setPass s on fresh).crown = s.crown := rfl
@[simp] theorem State.setPass_fab (s : State) (on fresh : Bool) :
    (State.setPass s on fresh).fab = s.fab := rfl
@[simp] theorem State.setPass_frames (s : State) (on fresh : Bool) :
    (State.setPass s on fresh).frames = s.frames := rfl
@[simp] theorem State.setPass_ctx (s : State) (on fresh : Bool) :
    (State.setPass s on fresh).ctx = s.ctx := rfl
@[simp] theorem State.setPass_epoch (s : State) (on fresh : Bool) :
    (State.setPass s on fresh).epoch = s.epoch := rfl
@[simp] theorem State.setPass_digest (s : State) (on fresh : Bool) :
    (State.setPass s on fresh).digest = s.digest := rfl
@[simp] theorem State.setPass_bignum (s : State) (on fresh : Bool) :
    (State.setPass s on fresh).bignum = s.bignum := rfl
@[simp] theorem State.setPass_rng (s : State) (on fresh : Bool) :
    (State.setPass s on fresh).rng = s.rng := rfl
@[simp] theorem State.setPass_dma (s : State) (on fresh : Bool) :
    (State.setPass s on fresh).dma = s.dma := rfl
@[simp] theorem State.setPass_hb (s : State) (on fresh : Bool) :
    (State.setPass s on fresh).hb = s.hb := rfl
@[simp] theorem State.setPass_clk (s : State) (on fresh : Bool) :
    (State.setPass s on fresh).clk = s.clk := rfl
@[simp] theorem State.setPass_pwr (s : State) (on fresh : Bool) :
    (State.setPass s on fresh).pwr = s.pwr := rfl
@[simp] theorem State.setPass_tamp (s : State) (on fresh : Bool) :
    (State.setPass s on fresh).tamp = s.tamp := rfl
@[simp] theorem State.setPass_perf (s : State) (on fresh : Bool) :
    (State.setPass s on fresh).perf = s.perf := rfl
@[simp] theorem State.setPass_wrap (s : State) (on fresh : Bool) :
    (State.setPass s on fresh).wrap = s.wrap := rfl
@[simp] theorem State.setPass_finishes (s : State) (on fresh : Bool) :
    (State.setPass s on fresh).finishes = s.finishes := rfl
@[simp] theorem State.setPass_nextJob (s : State) (on fresh : Bool) :
    (State.setPass s on fresh).nextJob = s.nextJob := rfl
@[simp] theorem State.setPass_freeCtr (s : State) (on fresh : Bool) :
    (State.setPass s on fresh).freeCtr = s.freeCtr := rfl
@[simp] theorem State.setPass_pending (s : State) (on fresh : Bool) :
    (State.setPass s on fresh).pending = s.pending := rfl

/-! ### noBanks: key alone -/

@[simp] theorem State.noBanks_tile (s : State) :
    (State.noBanks s).tile = s.tile := rfl
@[simp] theorem State.noBanks_cp (s : State) :
    (State.noBanks s).cp = s.cp := rfl
@[simp] theorem State.noBanks_regs (s : State) :
    (State.noBanks s).regs = s.regs := rfl
@[simp] theorem State.noBanks_hdrs (s : State) :
    (State.noBanks s).hdrs = s.hdrs := rfl
@[simp] theorem State.noBanks_irq (s : State) :
    (State.noBanks s).irq = s.irq := rfl
@[simp] theorem State.noBanks_qeng (s : State) :
    (State.noBanks s).qeng = s.qeng := rfl
@[simp] theorem State.noBanks_crown (s : State) :
    (State.noBanks s).crown = s.crown := rfl
@[simp] theorem State.noBanks_fab (s : State) :
    (State.noBanks s).fab = s.fab := rfl
@[simp] theorem State.noBanks_frames (s : State) :
    (State.noBanks s).frames = s.frames := rfl
@[simp] theorem State.noBanks_ctx (s : State) :
    (State.noBanks s).ctx = s.ctx := rfl
@[simp] theorem State.noBanks_epoch (s : State) :
    (State.noBanks s).epoch = s.epoch := rfl
@[simp] theorem State.noBanks_digest (s : State) :
    (State.noBanks s).digest = s.digest := rfl
@[simp] theorem State.noBanks_bignum (s : State) :
    (State.noBanks s).bignum = s.bignum := rfl
@[simp] theorem State.noBanks_rng (s : State) :
    (State.noBanks s).rng = s.rng := rfl
@[simp] theorem State.noBanks_dma (s : State) :
    (State.noBanks s).dma = s.dma := rfl
@[simp] theorem State.noBanks_hb (s : State) :
    (State.noBanks s).hb = s.hb := rfl
@[simp] theorem State.noBanks_clk (s : State) :
    (State.noBanks s).clk = s.clk := rfl
@[simp] theorem State.noBanks_pwr (s : State) :
    (State.noBanks s).pwr = s.pwr := rfl
@[simp] theorem State.noBanks_tamp (s : State) :
    (State.noBanks s).tamp = s.tamp := rfl
@[simp] theorem State.noBanks_perf (s : State) :
    (State.noBanks s).perf = s.perf := rfl
@[simp] theorem State.noBanks_wrap (s : State) :
    (State.noBanks s).wrap = s.wrap := rfl
@[simp] theorem State.noBanks_finishes (s : State) :
    (State.noBanks s).finishes = s.finishes := rfl
@[simp] theorem State.noBanks_nextJob (s : State) :
    (State.noBanks s).nextJob = s.nextJob := rfl
@[simp] theorem State.noBanks_freeCtr (s : State) :
    (State.noBanks s).freeCtr = s.freeCtr := rfl
@[simp] theorem State.noBanks_pending (s : State) :
    (State.noBanks s).pending = s.pending := rfl

/-! ### keepStalled: cp alone -/

@[simp] theorem State.keepStalled_tile (s : State) (l : List (Bool × Access)) :
    (State.keepStalled s l).tile = s.tile := rfl
@[simp] theorem State.keepStalled_regs (s : State) (l : List (Bool × Access)) :
    (State.keepStalled s l).regs = s.regs := rfl
@[simp] theorem State.keepStalled_hdrs (s : State) (l : List (Bool × Access)) :
    (State.keepStalled s l).hdrs = s.hdrs := rfl
@[simp] theorem State.keepStalled_irq (s : State) (l : List (Bool × Access)) :
    (State.keepStalled s l).irq = s.irq := rfl
@[simp] theorem State.keepStalled_qeng (s : State) (l : List (Bool × Access)) :
    (State.keepStalled s l).qeng = s.qeng := rfl
@[simp] theorem State.keepStalled_crown (s : State) (l : List (Bool × Access)) :
    (State.keepStalled s l).crown = s.crown := rfl
@[simp] theorem State.keepStalled_fab (s : State) (l : List (Bool × Access)) :
    (State.keepStalled s l).fab = s.fab := rfl
@[simp] theorem State.keepStalled_frames (s : State) (l : List (Bool × Access)) :
    (State.keepStalled s l).frames = s.frames := rfl
@[simp] theorem State.keepStalled_ctx (s : State) (l : List (Bool × Access)) :
    (State.keepStalled s l).ctx = s.ctx := rfl
@[simp] theorem State.keepStalled_epoch (s : State) (l : List (Bool × Access)) :
    (State.keepStalled s l).epoch = s.epoch := rfl
@[simp] theorem State.keepStalled_digest (s : State) (l : List (Bool × Access)) :
    (State.keepStalled s l).digest = s.digest := rfl
@[simp] theorem State.keepStalled_bignum (s : State) (l : List (Bool × Access)) :
    (State.keepStalled s l).bignum = s.bignum := rfl
@[simp] theorem State.keepStalled_rng (s : State) (l : List (Bool × Access)) :
    (State.keepStalled s l).rng = s.rng := rfl
@[simp] theorem State.keepStalled_key (s : State) (l : List (Bool × Access)) :
    (State.keepStalled s l).key = s.key := rfl
@[simp] theorem State.keepStalled_dma (s : State) (l : List (Bool × Access)) :
    (State.keepStalled s l).dma = s.dma := rfl
@[simp] theorem State.keepStalled_hb (s : State) (l : List (Bool × Access)) :
    (State.keepStalled s l).hb = s.hb := rfl
@[simp] theorem State.keepStalled_clk (s : State) (l : List (Bool × Access)) :
    (State.keepStalled s l).clk = s.clk := rfl
@[simp] theorem State.keepStalled_pwr (s : State) (l : List (Bool × Access)) :
    (State.keepStalled s l).pwr = s.pwr := rfl
@[simp] theorem State.keepStalled_tamp (s : State) (l : List (Bool × Access)) :
    (State.keepStalled s l).tamp = s.tamp := rfl
@[simp] theorem State.keepStalled_perf (s : State) (l : List (Bool × Access)) :
    (State.keepStalled s l).perf = s.perf := rfl
@[simp] theorem State.keepStalled_wrap (s : State) (l : List (Bool × Access)) :
    (State.keepStalled s l).wrap = s.wrap := rfl
@[simp] theorem State.keepStalled_finishes (s : State) (l : List (Bool × Access)) :
    (State.keepStalled s l).finishes = s.finishes := rfl
@[simp] theorem State.keepStalled_nextJob (s : State) (l : List (Bool × Access)) :
    (State.keepStalled s l).nextJob = s.nextJob := rfl
@[simp] theorem State.keepStalled_freeCtr (s : State) (l : List (Bool × Access)) :
    (State.keepStalled s l).freeCtr = s.freeCtr := rfl
@[simp] theorem State.keepStalled_pending (s : State) (l : List (Bool × Access)) :
    (State.keepStalled s l).pending = s.pending := rfl

/-! ### rspFirst: cp alone -/

@[simp] theorem State.rspFirst_tile (s : State) (l : List Rsp) :
    (State.rspFirst s l).tile = s.tile := rfl
@[simp] theorem State.rspFirst_regs (s : State) (l : List Rsp) :
    (State.rspFirst s l).regs = s.regs := rfl
@[simp] theorem State.rspFirst_hdrs (s : State) (l : List Rsp) :
    (State.rspFirst s l).hdrs = s.hdrs := rfl
@[simp] theorem State.rspFirst_irq (s : State) (l : List Rsp) :
    (State.rspFirst s l).irq = s.irq := rfl
@[simp] theorem State.rspFirst_qeng (s : State) (l : List Rsp) :
    (State.rspFirst s l).qeng = s.qeng := rfl
@[simp] theorem State.rspFirst_crown (s : State) (l : List Rsp) :
    (State.rspFirst s l).crown = s.crown := rfl
@[simp] theorem State.rspFirst_fab (s : State) (l : List Rsp) :
    (State.rspFirst s l).fab = s.fab := rfl
@[simp] theorem State.rspFirst_frames (s : State) (l : List Rsp) :
    (State.rspFirst s l).frames = s.frames := rfl
@[simp] theorem State.rspFirst_ctx (s : State) (l : List Rsp) :
    (State.rspFirst s l).ctx = s.ctx := rfl
@[simp] theorem State.rspFirst_epoch (s : State) (l : List Rsp) :
    (State.rspFirst s l).epoch = s.epoch := rfl
@[simp] theorem State.rspFirst_digest (s : State) (l : List Rsp) :
    (State.rspFirst s l).digest = s.digest := rfl
@[simp] theorem State.rspFirst_bignum (s : State) (l : List Rsp) :
    (State.rspFirst s l).bignum = s.bignum := rfl
@[simp] theorem State.rspFirst_rng (s : State) (l : List Rsp) :
    (State.rspFirst s l).rng = s.rng := rfl
@[simp] theorem State.rspFirst_key (s : State) (l : List Rsp) :
    (State.rspFirst s l).key = s.key := rfl
@[simp] theorem State.rspFirst_dma (s : State) (l : List Rsp) :
    (State.rspFirst s l).dma = s.dma := rfl
@[simp] theorem State.rspFirst_hb (s : State) (l : List Rsp) :
    (State.rspFirst s l).hb = s.hb := rfl
@[simp] theorem State.rspFirst_clk (s : State) (l : List Rsp) :
    (State.rspFirst s l).clk = s.clk := rfl
@[simp] theorem State.rspFirst_pwr (s : State) (l : List Rsp) :
    (State.rspFirst s l).pwr = s.pwr := rfl
@[simp] theorem State.rspFirst_tamp (s : State) (l : List Rsp) :
    (State.rspFirst s l).tamp = s.tamp := rfl
@[simp] theorem State.rspFirst_perf (s : State) (l : List Rsp) :
    (State.rspFirst s l).perf = s.perf := rfl
@[simp] theorem State.rspFirst_wrap (s : State) (l : List Rsp) :
    (State.rspFirst s l).wrap = s.wrap := rfl
@[simp] theorem State.rspFirst_finishes (s : State) (l : List Rsp) :
    (State.rspFirst s l).finishes = s.finishes := rfl
@[simp] theorem State.rspFirst_nextJob (s : State) (l : List Rsp) :
    (State.rspFirst s l).nextJob = s.nextJob := rfl
@[simp] theorem State.rspFirst_freeCtr (s : State) (l : List Rsp) :
    (State.rspFirst s l).freeCtr = s.freeCtr := rfl
@[simp] theorem State.rspFirst_pending (s : State) (l : List Rsp) :
    (State.rspFirst s l).pending = s.pending := rfl

/-! ### coreUp: pwr alone -/

@[simp] theorem State.coreUp_tile (s : State) :
    (State.coreUp s).tile = s.tile := rfl
@[simp] theorem State.coreUp_cp (s : State) :
    (State.coreUp s).cp = s.cp := rfl
@[simp] theorem State.coreUp_regs (s : State) :
    (State.coreUp s).regs = s.regs := rfl
@[simp] theorem State.coreUp_hdrs (s : State) :
    (State.coreUp s).hdrs = s.hdrs := rfl
@[simp] theorem State.coreUp_irq (s : State) :
    (State.coreUp s).irq = s.irq := rfl
@[simp] theorem State.coreUp_qeng (s : State) :
    (State.coreUp s).qeng = s.qeng := rfl
@[simp] theorem State.coreUp_crown (s : State) :
    (State.coreUp s).crown = s.crown := rfl
@[simp] theorem State.coreUp_fab (s : State) :
    (State.coreUp s).fab = s.fab := rfl
@[simp] theorem State.coreUp_frames (s : State) :
    (State.coreUp s).frames = s.frames := rfl
@[simp] theorem State.coreUp_ctx (s : State) :
    (State.coreUp s).ctx = s.ctx := rfl
@[simp] theorem State.coreUp_epoch (s : State) :
    (State.coreUp s).epoch = s.epoch := rfl
@[simp] theorem State.coreUp_digest (s : State) :
    (State.coreUp s).digest = s.digest := rfl
@[simp] theorem State.coreUp_bignum (s : State) :
    (State.coreUp s).bignum = s.bignum := rfl
@[simp] theorem State.coreUp_rng (s : State) :
    (State.coreUp s).rng = s.rng := rfl
@[simp] theorem State.coreUp_key (s : State) :
    (State.coreUp s).key = s.key := rfl
@[simp] theorem State.coreUp_dma (s : State) :
    (State.coreUp s).dma = s.dma := rfl
@[simp] theorem State.coreUp_hb (s : State) :
    (State.coreUp s).hb = s.hb := rfl
@[simp] theorem State.coreUp_clk (s : State) :
    (State.coreUp s).clk = s.clk := rfl
@[simp] theorem State.coreUp_tamp (s : State) :
    (State.coreUp s).tamp = s.tamp := rfl
@[simp] theorem State.coreUp_perf (s : State) :
    (State.coreUp s).perf = s.perf := rfl
@[simp] theorem State.coreUp_wrap (s : State) :
    (State.coreUp s).wrap = s.wrap := rfl
@[simp] theorem State.coreUp_finishes (s : State) :
    (State.coreUp s).finishes = s.finishes := rfl
@[simp] theorem State.coreUp_nextJob (s : State) :
    (State.coreUp s).nextJob = s.nextJob := rfl
@[simp] theorem State.coreUp_freeCtr (s : State) :
    (State.coreUp s).freeCtr = s.freeCtr := rfl
@[simp] theorem State.coreUp_pending (s : State) :
    (State.coreUp s).pending = s.pending := rfl

end Sys2Proof.Machine
end

