-- ==== Sys2Proof/Laws/Keeps.lean ====
section
/-! SUPPORT. What a frame says of single fields: the parts of State that a lemma of the form Within F s t names only together
with others. -/

namespace Sys2Proof.Machine

set_option Elab.async false

variable {F : Part → Bool} {s t : State}

theorem State.Within.tile_eq (h : s.Within F t) (ha : F .addr = false) (ht : F .tile = false) : t.tile = s.tile := by
  have h1 := h.tile ht
  have h2 := h.addr ha
  cases hs : s.tile; cases hv : t.tile
  rw [hs, hv] at h1 h2
  simp only [Tile.mk.injEq] at h1 ⊢
  exact ⟨h1.1, h1.2.1, h1.2.2.1, h2, h1.2.2.2.2⟩

theorem State.Within.key_eq (h : s.Within F t) (ha : F .custody = false) (ht : F .key = false) : t.key = s.key := by
  have h1 := h.key ht
  obtain ⟨h2, h3, h4⟩ := h.custody ha
  cases hs : s.key; cases hv : t.key
  rw [hs, hv] at h1 h2 h3 h4
  simp only [Key.mk.injEq] at h1 h2 h3 h4 ⊢
  simp only [h1, h2, h3, h4, and_self]

theorem State.Within.pwr_phase (h : s.Within F t) (hp : F .pwr = false) : t.pwr.phase = s.pwr.phase := by
  have := congrArg Pwr.phase (h.pwr hp); exact this

theorem State.Within.pwr_core (h : s.Within F t) (hp : F .pwr = false) : t.pwr.core = s.pwr.core := by
  have := congrArg Pwr.core (h.pwr hp); exact this

theorem State.Within.pwr_restored (h : s.Within F t) (hp : F .pwr = false) : t.pwr.restored = s.pwr.restored := by
  have := congrArg Pwr.restored (h.pwr hp); exact this

theorem State.Within.hdr_state (h : s.Within F t) (hb : F .blocks = false) (p : PageRef) : Hdr.state (t.hdr p) = Hdr.state (s.hdr p) :=
  h.blocks hb _

theorem State.Within.hdr_st (h : s.Within F t) (hb : F .blocks = false) (p : PageRef) : (t.hdr p).st = (s.hdr p).st := by
  have := congrArg Hdr.st (h.hdr_state hb p); exact this

theorem State.Within.hdr_en (h : s.Within F t) (hb : F .blocks = false) (p : PageRef) : (t.hdr p).en = (s.hdr p).en := by
  have := congrArg Hdr.en (h.hdr_state hb p); exact this

theorem State.Within.hdr_lock (h : s.Within F t) (hb : F .blocks = false) (p : PageRef) : (t.hdr p).lock = (s.hdr p).lock := by
  have := congrArg Hdr.lock (h.hdr_state hb p); exact this

theorem State.Within.hdr_fence (h : s.Within F t) (hb : F .blocks = false) (p : PageRef) : (t.hdr p).fence = (s.hdr p).fence := by
  have := congrArg Hdr.fence (h.hdr_state hb p); exact this

theorem State.Within.hdr_softReset (h : s.Within F t) (hb : F .blocks = false) (p : PageRef) :
    (t.hdr p).softReset = (s.hdr p).softReset := by
  have := congrArg Hdr.softReset (h.hdr_state hb p); exact this

theorem State.Within.blk_eq (h : s.Within F t) (hb : F .blocks = false) (p : PageRef) : t.blk p = s.blk p := h.hdr_st hb _

theorem State.Within.reg_eq (h : s.Within F t) (hr : F .regs = false) (r : Reg) (n : Nat) : t.reg r n = s.reg r n := by
  unfold State.reg; rw [h.regs hr]

/-- A register that only software writes stands as it was. -/
theorem State.Within.cfg_eq (h : s.Within F t) (hr : F .config = false) {r : Reg} (n : Nat) (hc : Reg.configured r = true) :
    t.reg r n = s.reg r n := h.config hr r n hc

/-! ## Headers -/

@[simp] theorem hdrAt_setHdrAt_same (s : State) (p : Nat) (x : Hdr) : (s.setHdrAt p x).hdrAt p = x := by
  simp [State.hdrAt, State.setHdrAt]

theorem hdrAt_setHdrAt_ne (s : State) {p q : Nat} (x : Hdr) (h : q ≠ p) : (s.setHdrAt p x).hdrAt q = s.hdrAt q := by
  simp only [State.hdrAt, State.setHdrAt]
  exact Tbl.get_set_ne _ _ _ _ _ h

@[simp] theorem hdr_setHdr_same (s : State) (p : PageRef) (x : Hdr) : (s.setHdr p x).hdr p = x := hdrAt_setHdrAt_same _ _ _

@[simp] theorem hdr_updHdr_same (s : State) (p : PageRef) (f : Hdr → Hdr) : (s.updHdr p f).hdr p = f (s.hdr p) :=
  hdr_setHdr_same _ _ _

theorem hdr_setHdr_ne (s : State) {p q : PageRef} (x : Hdr) (h : pageNum q ≠ pageNum p) : (s.setHdr p x).hdr q = s.hdr q :=
  hdrAt_setHdrAt_ne _ _ h

theorem hdr_updHdr_ne (s : State) {p q : PageRef} (f : Hdr → Hdr) (h : pageNum q ≠ pageNum p) :
    (s.updHdr p f).hdr q = s.hdr q := hdr_setHdr_ne _ _ h

@[simp] theorem vec_setVec_same (s : State) (v : Nat) (x : Vec) : (s.setVec v x).vec v = x := by
  simp [State.vec, State.setVec]

theorem vec_setVec_ne (s : State) {v w : Nat} (x : Vec) (h : w ≠ v) : (s.setVec v x).vec w = s.vec w := by
  simp only [State.vec, State.setVec]
  exact Tbl.get_set_ne _ _ _ _ _ h

/-! ## The port's answer -/

@[simp] theorem answeredOk_rsp (s : State) : s.answeredOk.cp.rsp = [⟨.ok, 0, 0⟩] := rfl
@[simp] theorem answeredOk_reg (s : State) (r : Reg) (n : Nat) : s.answeredOk.reg r n = s.reg r n := rfl
@[simp] theorem answeredOk_hdr (s : State) (p : PageRef) : s.answeredOk.hdr p = s.hdr p := rfl
@[simp] theorem answeredOk_vec (s : State) (v : Nat) : s.answeredOk.vec v = s.vec v := rfl

end Sys2Proof.Machine
end

