-- ==== Sys2Proof/Laws/Headers.lean ====
section
/-! SUPPORT. What the shared operations over page headers leave in them: fault and event bits, block states, followers. -/

namespace Sys2Proof.Machine

set_option Elab.async false

/-! ## Fault and event bits -/

theorem hdr_irq (s : State) (x : Irq) (p : PageRef) : ({ s with irq := x }).hdr p = s.hdr p := rfl

@[simp] theorem setVec_hdr (s : State) (v : Nat) (x : Vec) (p : PageRef) : (s.setVec v x).hdr p = s.hdr p := rfl

@[simp] theorem countVec_hdrs (s : State) (v k : Nat) : (s.countVec v k).hdrs = s.hdrs :=
  (countVec_within (F := only [.irq]) (Part.all_only _) _ _ (Within.refl s)).hdrs rfl

@[simp] theorem countVec_regs (s : State) (v k : Nat) : (s.countVec v k).regs = s.regs :=
  (countVec_within (F := only [.irq]) (Part.all_only _) _ _ (Within.refl s)).regs rfl

@[simp] theorem countVec_hdr (s : State) (v k : Nat) (p : PageRef) : (s.countVec v k).hdr p = s.hdr p := by
  unfold State.hdr State.hdrAt; rw [countVec_hdrs]

theorem one_shl (w b i : Nat) : ((1 <<< b : Nat) : BitVec w).getLsbD i = (decide (i < w) && decide (b = i)) := by
  simp only [BitVec.natCast_eq_ofNat, BitVec.getLsbD_ofNat, Nat.one_shiftLeft, Nat.testBit_two_pow]

theorem or_bit (x : BitVec 16) (b : Nat) (h : x.getLsbD b = true) : x ||| (1 <<< b) = x := by
  apply BitVec.eq_of_getLsbD_eq
  intro i hi
  rw [BitVec.getLsbD_or, one_shl]
  by_cases e : b = i
  · subst e; simp [h]
  · simp [e]

theorem or_bit32 (x : BitVec 32) (b : Nat) (h : x.getLsbD b = true) : x ||| (1 <<< b) = x := by
  apply BitVec.eq_of_getLsbD_eq
  intro i hi
  rw [BitVec.getLsbD_or, one_shl]
  by_cases e : b = i
  · subst e; simp [h]
  · simp [e]

/-- A raised fault is set, and nothing else of the header changes. -/
theorem raiseFault_hdr (s : State) (p : PageRef) (b : Nat) :
    (s.raiseFault p b).hdr p = { s.hdr p with fault := (s.hdr p).fault ||| (1 <<< b) } := by
  unfold State.raiseFault
  extract_lets x y
  split
  · rename_i hx
    rw [or_bit _ _ hx]
  · split
    · exact hdr_setHdr_same _ _ _
    · split
      · split
        · rw [countVec_hdr]; exact hdr_setHdr_same _ _ _
        · exact hdr_setHdr_same _ _ _
      · exact hdr_setHdr_same _ _ _

theorem raiseFault_hdr_ne (s : State) {p q : PageRef} (b : Nat) (h : pageNum q ≠ pageNum p) :
    (s.raiseFault p b).hdr q = s.hdr q := by
  unfold State.raiseFault
  extract_lets x y
  split
  · rfl
  · split
    · exact hdr_setHdr_ne _ _ h
    · split
      · split
        · rw [countVec_hdr]; exact hdr_setHdr_ne _ _ h
        · exact hdr_setHdr_ne _ _ h
      · exact hdr_setHdr_ne _ _ h

/-- A raised event is set, and nothing else of the header changes. -/
theorem raiseEvent_hdr (s : State) (p : PageRef) (b : Nat) :
    (s.raiseEvent p b).hdr p = { s.hdr p with event := (s.hdr p).event ||| (1 <<< b) } := by
  unfold State.raiseEvent
  extract_lets x y
  split
  · rename_i hx
    rw [or_bit32 _ _ hx]
  · split
    · exact hdr_setHdr_same _ _ _
    · split
      · split
        · rw [countVec_hdr]; exact hdr_setHdr_same _ _ _
        · exact hdr_setHdr_same _ _ _
      · exact hdr_setHdr_same _ _ _

theorem raiseEvent_hdr_ne (s : State) {p q : PageRef} (b : Nat) (h : pageNum q ≠ pageNum p) :
    (s.raiseEvent p b).hdr q = s.hdr q := by
  unfold State.raiseEvent
  extract_lets x y
  split
  · rfl
  · split
    · exact hdr_setHdr_ne _ _ h
    · split
      · split
        · rw [countVec_hdr]; exact hdr_setHdr_ne _ _ h
        · exact hdr_setHdr_ne _ _ h
      · exact hdr_setHdr_ne _ _ h

theorem bit_of_or (x : BitVec 16) (b : Nat) (h : b < 16) : (x ||| (1 <<< b)).getLsbD b = true := by
  rw [BitVec.getLsbD_or, one_shl]; simp [h]

theorem bit_of_or32 (x : BitVec 32) (b : Nat) (h : b < 32) : (x ||| (1 <<< b)).getLsbD b = true := by
  rw [BitVec.getLsbD_or, one_shl]; simp [h]

/-- The fault bit that is raised reads 1. -/
theorem raiseFault_bit (s : State) (p : PageRef) (b : Nat) (h : b < 16) :
    ((s.raiseFault p b).hdr p).fault.getLsbD b = true := by
  rw [raiseFault_hdr]; exact bit_of_or _ b h

/-- The event bit that is raised reads 1. -/
theorem raiseEvent_bit (s : State) (p : PageRef) (b : Nat) (h : b < 32) :
    ((s.raiseEvent p b).hdr p).event.getLsbD b = true := by
  rw [raiseEvent_hdr]; exact bit_of_or32 _ b h

/-- PAGE_FAULT.SEQ is set by a refused sequence. -/
theorem seq_bit (s : State) (p : PageRef) : ((s.seq p).hdr p).fault.getLsbD 5 = true := raiseFault_bit s p 5 (by decide)

/-! ## Block states -/

theorem changed_state (h : Hdr) : Hdr.state (Hdr.changed h) = Hdr.state h := rfl

theorem followers_state (l : List Nat) (s : State) (p : PageRef) :
    Hdr.state ((l.foldl (fun s n => s.setHdrAt n (s.hdrAt n).changed) s).hdr p) = Hdr.state (s.hdr p) := by
  induction l generalizing s with
  | nil => rfl
  | cons n l ih =>
    rw [List.foldl_cons, ih]
    by_cases h : pageNum p = n
    · subst h
      show Hdr.state ((s.setHdrAt (pageNum p) _).hdrAt (pageNum p)) = _
      rw [hdrAt_setHdrAt_same]; rfl
    · show Hdr.state ((s.setHdrAt n _).hdrAt (pageNum p)) = _
      rw [hdrAt_setHdrAt_ne _ _ h]; rfl

theorem followers_en (l : List Nat) (s : State) (p : PageRef) :
    ((l.foldl (fun s n => s.setHdrAt n (s.hdrAt n).changed) s).hdr p).en = (s.hdr p).en :=
  show (Hdr.state _).en = (Hdr.state _).en by rw [followers_state]

/-- A block that enters a state is in it. -/
theorem setBlk_st (s : State) (p : PageRef) (b : BlkState) : ((s.setBlk p b).hdr p).st = b := by
  unfold State.setBlk
  extract_lets x
  split
  · assumption
  · split
    · rw [hdr_setHdr_same]
    · exact (congrArg Hdr.st (followers_state (followers p) _ p)).trans (congrArg Hdr.st (hdr_setHdr_same _ _ _))

theorem setBlk_en (s : State) (p q : PageRef) (b : BlkState) : ((s.setBlk p b).hdr q).en = (s.hdr q).en := by
  unfold State.setBlk
  extract_lets x
  split
  · rfl
  · by_cases hq : pageNum q = pageNum p
    · have e : s.hdr q = s.hdr p := by unfold State.hdr; rw [hq]
      have f (t : State) : t.hdr q = t.hdr p := by unfold State.hdr; rw [hq]
      split
      · rw [f, hdr_setHdr_same, e]
      · rw [f, f]
        exact (followers_en (followers p) _ p).trans (by rw [hdr_setHdr_same]; rfl)
    · split
      · rw [hdr_setHdr_ne _ _ hq]
      · exact (followers_en (followers p) _ q).trans (by rw [hdr_setHdr_ne _ _ hq])

/-- The other headers keep all but their event bits. -/
theorem setBlk_state_ne (s : State) {p q : PageRef} (b : BlkState) (h : pageNum q ≠ pageNum p) :
    Hdr.state ((s.setBlk p b).hdr q) = Hdr.state (s.hdr q) := by
  unfold State.setBlk
  extract_lets x
  split
  · rfl
  · split
    · rw [hdr_setHdr_ne _ _ h]
    · rw [followers_state]
      exact congrArg Hdr.state (hdr_setHdr_ne _ _ h)

end Sys2Proof.Machine
end

