-- ==== Sys2Proof/Laws/Blocks.lean ====
section
/-! SUPPORT. How the block states move (R37): what each operation over a block leaves in that block's own header, and that it
leaves the headers of the blocks it does not reach. -/

namespace Sys2Proof.Machine

set_option Elab.async false

/-- The header of a page but for its fault, event and retry bits. -/
def State.hst (s : State) (p : PageRef) : Hdr := Hdr.state (s.hdr p)

theorem hst_st {s t : State} {p : PageRef} (h : t.hst p = s.hst p) : (t.hdr p).st = (s.hdr p).st := by
  have := congrArg Hdr.st h; exact this
theorem hst_en {s t : State} {p : PageRef} (h : t.hst p = s.hst p) : (t.hdr p).en = (s.hdr p).en := by
  have := congrArg Hdr.en h; exact this
theorem hst_fence {s t : State} {p : PageRef} (h : t.hst p = s.hst p) : (t.hdr p).fence = (s.hdr p).fence := by
  have := congrArg Hdr.fence h; exact this
theorem hst_pend {s t : State} {p : PageRef} (h : t.hst p = s.hst p) : (t.hdr p).pendFence = (s.hdr p).pendFence := by
  have := congrArg Hdr.pendFence h; exact this

theorem Part.All.of_all {F : Part → Bool} {l : List Part} (h : l.all F = true) : Part.All F l := fun p hp =>
  List.all_eq_true.mp h p hp

/-- Whatever leaves the blocks leaves every header but for those bits. -/
theorem hst_within {F : Part → Bool} {s t : State} (h : s.Within F t) (hb : F .blocks = false) (p : PageRef) :
    t.hst p = s.hst p := h.blocks hb _

theorem raiseFault_hst (s : State) (p q : PageRef) (b : Nat) : (s.raiseFault p b).hst q = s.hst q :=
  hst_within (raiseFault_within (F := only [.hdrs, .irq]) (Part.all_only _) _ _ (Within.refl s)) rfl q

theorem seq_hst (s : State) (p q : PageRef) : (s.seq p).hst q = s.hst q := raiseFault_hst s p q 5

theorem lasting_hst (s : State) (p q : PageRef) : (s.lasting p).hst q = s.hst q :=
  hst_within (lasting_within (F := only [.hdrs, .irq]) (Part.all_only _) _ (Within.refl s)) rfl q

theorem updHdr_hst_ne (s : State) {p q : PageRef} (f : Hdr → Hdr) (h : pageNum q ≠ pageNum p) :
    (s.updHdr p f).hst q = s.hst q := congrArg Hdr.state (hdr_updHdr_ne s f h)

theorem setHdr_hst_ne (s : State) {p q : PageRef} (x : Hdr) (h : pageNum q ≠ pageNum p) :
    (s.setHdr p x).hst q = s.hst q := congrArg Hdr.state (hdr_setHdr_ne s x h)

theorem setBlk_hst_ne (s : State) {p q : PageRef} (b : BlkState) (h : pageNum q ≠ pageNum p) :
    (s.setBlk p b).hst q = s.hst q := setBlk_state_ne s b h

theorem upStarts_hst (s : State) (p q : PageRef) : (s.upStarts p).hst q = s.hst q :=
  hst_within (upStarts_within (F := only [.regs, .hdrs, .irq, .fab, .rng, .key]) (Part.all_only _) _ (Within.refl s)) rfl q

theorem downStarts_hst (s : State) (p q : PageRef) : (s.downStarts p).hst q = s.hst q :=
  hst_within (downStarts_within
    (F := only [.regs, .hdrs, .irq, .qeng, .crown, .fab, .ctx, .digest, .rng, .key, .perf]) (Part.all_only _) _
    (Within.refl s)) rfl q

theorem wipeBlock_hst (s : State) (p q : PageRef) : (s.wipeBlock p).hst q = s.hst q :=
  hst_within (wipeBlock_within (F := fun x => x != .blocks) (Part.All.of_all rfl) _ (Within.refl s)) rfl q

theorem abortBlock_hst (s : State) (p q : PageRef) (c : Nat) : (s.abortBlock p c).hst q = s.hst q :=
  hst_within (abortBlock_within (F := fun x => x != .blocks) (Part.All.of_all rfl) _ _ (Within.refl s)) rfl q

theorem perfCount_hst (s : State) (e k : Nat) (q : PageRef) : (s.perfCount e k).hst q = s.hst q :=
  hst_within (perfCount_within (F := fun x => x != .blocks) (Part.All.of_all rfl) _ _ (Within.refl s)) rfl q

theorem logFence_hst (s : State) (a b c d : Nat) (q : PageRef) : (s.logFence a b c d).hst q = s.hst q :=
  hst_within (logFence_within (F := fun x => x != .blocks) (Part.All.of_all rfl) _ _ _ _ (Within.refl s)) rfl q

/-! ## Coming up -/

/-- Whether a clock enable acts depends on the registers, the clocks, the quads and the block states alone. -/
theorem clkActs_congr {s t : State} (hr : t.regs = s.regs) (hc : t.clk = s.clk) (hf : t.frames = s.frames)
    (hs : ∀ q, (t.hdr q).st = (s.hdr q).st) (p : PageRef) : t.clkActs p = s.clkActs p := by
  have hreg : ∀ r n, t.reg r n = s.reg r n := fun r n => by unfold State.reg; rw [hr]
  unfold State.clkActs State.clkEnBit State.isOn State.blk State.quadClock State.quad State.flag State.fld
  simp only [hreg, hc, hf, hs]

theorem setHdr_st {s : State} {p : PageRef} {x : Hdr} (h : x.st = (s.hdr p).st) (q : PageRef) :
    ((s.setHdr p x).hdr q).st = (s.hdr q).st := by
  by_cases e : pageNum q = pageNum p
  · have f (t : State) : t.hdr q = t.hdr p := by unfold State.hdr; rw [e]
    rw [f, f, hdr_setHdr_same]; exact h
  · rw [hdr_setHdr_ne _ _ e]

theorem tryUp_hst_ne (s : State) {p q : PageRef} (h : pageNum q ≠ pageNum p) : (s.tryUp p).hst q = s.hst q := by
  unfold State.tryUp
  extract_lets x
  split
  · rw [upStarts_hst, updHdr_hst_ne _ _ h, setBlk_hst_ne _ _ h]
  · rfl

/-- An OFF block with EN = 1 comes up if its clock enable acts. -/
theorem tryUp_st (s : State) (p : PageRef) (h : (s.hdr p).st = .off) (he : (s.hdr p).en = true) (hc : s.pwr.core = true)
    (ht : s.tile.st ≠ .alarmed) :
    ((s.tryUp p).hdr p).st = (if s.clkActs p then .comingUp else .off) ∧ ((s.tryUp p).hdr p).en = true := by
  unfold State.tryUp
  have e : (s.tile.st != TileState.alarmed) = true := by simpa using ht
  simp only [h, he, hc, e, beq_self_eq_true, Bool.true_and, Bool.and_true]
  split
  · have h1 := upStarts_hst ((s.setBlk p .comingUp).updHdr p (fun h => { h with rearm := false })) p p
    refine ⟨(hst_st h1).trans ?_, (hst_en h1).trans ?_⟩
    · rw [hdr_updHdr_same]; exact setBlk_st _ _ _
    · rw [hdr_updHdr_same]; exact (setBlk_en _ _ _ _).trans he
  · exact ⟨h, he⟩

/-- A block with EN = 0 stays OFF. -/
theorem tryUp_off (s : State) (p : PageRef) (he : (s.hdr p).en = false) : s.tryUp p = s := by
  unfold State.tryUp
  simp [he]

/-! ## Going down -/

theorem goDown_st (s : State) (p : PageRef) : ((s.goDown p).hdr p).st = .goingDown := by
  unfold State.goDown
  extract_lets x
  exact (hst_st (downStarts_hst _ p p)).trans (setBlk_st _ _ _)

theorem goDown_en (s : State) (p : PageRef) : ((s.goDown p).hdr p).en = (s.hdr p).en := by
  unfold State.goDown
  extract_lets x
  refine (hst_en (downStarts_hst _ p p)).trans ((setBlk_en _ _ _ _).trans ?_)
  unfold x
  split
  · exact hst_en (perfCount_hst s _ _ p)
  · rfl

theorem goDown_hst_ne (s : State) {p q : PageRef} (h : pageNum q ≠ pageNum p) : (s.goDown p).hst q = s.hst q := by
  unfold State.goDown
  extract_lets x
  rw [downStarts_hst, setBlk_hst_ne _ _ h]
  unfold x
  split
  · exact perfCount_hst s _ _ q
  · rfl

theorem enOff_hst_ne (s : State) {p q : PageRef} (h : pageNum q ≠ pageNum p) : (s.enOff p).hst q = s.hst q := by
  unfold State.enOff
  extract_lets x
  split
  · rw [goDown_hst_ne _ h, updHdr_hst_ne _ _ h]
  · exact updHdr_hst_ne _ _ h

/-- A block that is ON goes down when EN goes to 0. -/
theorem enOff_st (s : State) (p : PageRef) (h : (s.hdr p).st = .on) :
    ((s.enOff p).hdr p).st = .goingDown ∧ ((s.enOff p).hdr p).en = false := by
  unfold State.enOff
  extract_lets x
  have hx : (x.hdr p).st = .on := by unfold x; rw [hdr_updHdr_same]; exact h
  have hy : (x.hdr p).en = false := by unfold x; rw [hdr_updHdr_same]
  simp only [hx, beq_self_eq_true, if_true]
  exact ⟨goDown_st _ _, (goDown_en _ _).trans hy⟩

/-! ## Units under a block -/

theorem follow_hst_ne (s : State) {p q : PageRef} (h : pageNum q ≠ pageNum p) : (s.follow p).hst q = s.hst q := by
  unfold State.follow
  split
  · exact tryUp_hst_ne s h
  all_goals first
    | rfl
    | (split
       · rfl
       · exact enOff_hst_ne s h)

theorem foldl_follow_hst {α : Type} (f : α → PageRef) (q : PageRef) (l : List α) (h : ∀ x ∈ l, pageNum q ≠ pageNum (f x)) (s : State) :
    (l.foldl (fun s x => s.follow (f x)) s).hst q = s.hst q := by
  induction l generalizing s with
  | nil => rfl
  | cons x l ih =>
    rw [List.foldl_cons, ih (fun y hy => h y (List.mem_cons_of_mem _ hy)), follow_hst_ne _ (h x List.mem_cons_self)]

/-- What follows a block does not reach the block itself. -/
theorem followUnder_hst (s : State) (p : PageRef) (hp : pageOk p = true) : (s.followUnder p).hst p = s.hst p := by
  unfold State.followUnder
  have h := of_decide_eq_true hp
  split
  · rename_i hk
    rw [hk] at h
    refine foldl_follow_hst (fun n => lanePg n) p _ (fun n hn => ?_) s
    have h2 : p.inst < 4 := h
    have h1 : n < 16 := by
      simp only [quadLanes, List.mem_cons, List.not_mem_nil, or_false] at hn
      omega
    simp only [pageNum, hk, lanePg]
    omega
  · rename_i hk
    refine foldl_follow_hst (fun c => dchPg c) p _ (fun n hn => ?_) s
    simp only [pageNum, hk, dchPg]
    omega
  · rfl

/-! ## Fences -/

theorem pushEvent_hst (s : State) (v : Nat) (q : PageRef) : (s.pushEvent v).hst q = s.hst q :=
  hst_within (pushEvent_within (F := fun x => x != .blocks) (Part.All.of_all rfl) _ (Within.refl s)) rfl q

/-- A FENCED block follows nothing. -/
theorem follow_hst_fenced (s : State) (p : PageRef) {q : PageRef} (h : (s.hdr q).st = .fenced) :
    (s.follow p).hst q = s.hst q := by
  by_cases e : pageNum q = pageNum p
  · have f : s.hdr p = s.hdr q := by unfold State.hdr; rw [e]
    unfold State.follow
    rw [f, h]
  · exact follow_hst_ne s e

theorem foldl_follow_fenced {α : Type} (f : α → PageRef) (q : PageRef) (l : List α) (s : State) (h : (s.hdr q).st = .fenced) :
    (l.foldl (fun s x => s.follow (f x)) s).hst q = s.hst q := by
  induction l generalizing s with
  | nil => rfl
  | cons x l ih =>
    have g := follow_hst_fenced s (f x) h
    rw [List.foldl_cons, ih _ ((hst_st g).trans h), g]

theorem followUnder_fenced (s : State) (p : PageRef) {q : PageRef} (h : (s.hdr q).st = .fenced) :
    (s.followUnder p).hst q = s.hst q := by
  unfold State.followUnder
  split
  · exact foldl_follow_fenced _ q _ s h
  · exact foldl_follow_fenced _ q _ s h
  · rfl

theorem lanesFollow_fenced (s : State) {q : PageRef} (h : (s.hdr q).st = .fenced) : s.lanesFollow.hst q = s.hst q := by
  unfold State.lanesFollow
  generalize List.range 4 = l
  induction l generalizing s with
  | nil => rfl
  | cons x l ih =>
    rw [List.foldl_cons]
    split
    · have g := followUnder_fenced s (quadPg x) h
      rw [ih _ ((hst_st g).trans h), g]
    · exact ih s h

/-- Lanes that follow their quads leave every other block. -/
theorem lanesFollow_hst_ne (s : State) {q : PageRef} (h : ∀ n < 16, pageNum q ≠ pageNum (lanePg n)) :
    s.lanesFollow.hst q = s.hst q := by
  unfold State.lanesFollow
  have hl : ∀ x ∈ List.range 4, x < 4 := fun x hx => List.mem_range.mp hx
  generalize List.range 4 = l at hl
  induction l generalizing s with
  | nil => rfl
  | cons x l ih =>
    rw [List.foldl_cons, ih _ (fun y hy => hl y (List.mem_cons_of_mem _ hy))]
    split
    · have hx := hl x List.mem_cons_self
      refine foldl_follow_hst (fun n => lanePg n) q _ (fun n hn => h n ?_) s
      simp only [quadLanes, quadPg, List.mem_cons, List.not_mem_nil, or_false] at hn
      omega
    · rfl

/-- What frees a core for its next channel leaves every block. -/
theorem coresAfterFence_hst (s : State) (q : PageRef) : (s.kdfSync.takeCores 4).hst q = s.hst q :=
  hst_within (takeCores_within (F := fun x => x != .blocks) (Part.All.of_all rfl) _
    (kdfSync_within (Part.All.of_all rfl) (Within.refl s))) rfl q

/-- A block that is fenced is FENCED, and PAGE_FENCE shows the fence. -/
theorem enterFenced_hdr (s : State) (p : PageRef) (r : FenceRec) :
    ((s.enterFenced p r).hdr p).st = .fenced ∧ ((s.enterFenced p r).hdr p).fence = r := by
  unfold State.enterFenced
  extract_lets a b c d e f
  have hb : (b.hdr p).st = .fenced := setBlk_st _ _ _
  have hc : c.hst p = b.hst p := by
    unfold c
    split
    · exact coresAfterFence_hst b p
    · rfl
  have hd : (d.hdr p).st = .fenced ∧ (d.hdr p).fence = r := by
    have h : d.hst p = (c.updHdr p (fun h => { h with fence := r, rearm := false, pendFence := none })).hst p :=
      raiseFault_hst _ _ _ _
    refine ⟨(hst_st h).trans ?_, (hst_fence h).trans ?_⟩
    · rw [hdr_updHdr_same]; exact (hst_st hc).trans hb
    · rw [hdr_updHdr_same]
  have hf : f.hst p = d.hst p := by
    have he : e.hst p = d.hst p := by
      unfold e
      split
      · rw [pushEvent_hst, raiseFault_hst]
      · rfl
    unfold f
    split
    · exact he
    · rw [logFence_hst, he]
  have h1 := followUnder_fenced f p ((hst_st hf).trans hd.1)
  have h2 := lanesFollow_fenced (f.followUnder p) ((hst_st h1).trans ((hst_st hf).trans hd.1))
  have h3 := h2.trans (h1.trans hf)
  exact ⟨(hst_st h3).trans hd.1, (hst_fence h3).trans hd.2⟩

/-- A fence of a block that is no quad and no DMA engine leaves every other block that is no lane. -/
theorem enterFenced_hst_ne (s : State) {p q : PageRef} (r : FenceRec) (h : pageNum q ≠ pageNum p)
    (hp : p.kind ≠ .quad ∧ p.kind ≠ .dma) (hq : ∀ n < 16, pageNum q ≠ pageNum (lanePg n)) :
    (s.enterFenced p r).hst q = s.hst q := by
  unfold State.enterFenced
  extract_lets a b c d e f
  have hu : f.followUnder p = f := by
    unfold State.followUnder
    split
    · rename_i hk; exact absurd hk hp.1
    · rename_i hk; exact absurd hk hp.2
    · rfl
  have hc : c.hst q = b.hst q := by
    unfold c
    split
    · exact coresAfterFence_hst b q
    · rfl
  have he : e.hst q = d.hst q := by
    unfold e
    split
    · rw [pushEvent_hst, raiseFault_hst]
    · rfl
  have hf : f.hst q = d.hst q := by
    unfold f
    split
    · exact he
    · rw [logFence_hst, he]
  have hd : d.hst q = c.hst q := (raiseFault_hst _ _ _ _).trans (updHdr_hst_ne _ _ h)
  have hb : b.hst q = s.hst q := (setBlk_hst_ne _ _ h).trans (abortBlock_hst _ _ _ _)
  rw [lanesFollow_hst_ne _ hq, hu, hf, hd, hc, hb]

/-- What happens as a block reaches ON leaves the block's own header. -/
theorem upEnded_hst (s : State) (p : PageRef) (hp : pageOk p = true) : (s.upEnded p).hst p = s.hst p := by
  have hF : ∀ l : List Part, l.contains .blocks = false → Part.All (fun x => x != .blocks) l := fun l h =>
    Part.All.of_all (List.all_eq_true.mpr (fun x hx => by
      cases x <;> first | rfl | (rw [List.contains_iff_mem.mpr hx] at h; cases h)))
  unfold State.upEnded
  split
  · rfl
  · exact hst_within (kdfSync_within (hF _ rfl)
      (pounceFresh_within (hF _ rfl) (askDerive_within (hF _ rfl) (Within.refl s)))) rfl p
  · exact hst_within (pounceFresh_within (hF _ rfl) (Within.refl s)) rfl p
  · exact hst_within (bnGrant_within (hF _ rfl) _ (kdfSync_within (hF _ rfl)
      (pounceFresh_within (hF _ rfl) (Within.refl s)))) rfl p
  · exact followUnder_hst s p hp
  · exact followUnder_hst s p hp
  · exact hst_within (coresGo_within (hF _ rfl) (kdfSync_within (hF _ rfl) (Within.refl s))) rfl p
  · rfl

/-! ## OFF -/

theorem forceOff_hst_ne (s : State) {p q : PageRef} (h : pageNum q ≠ pageNum p) : (s.forceOff p).hst q = s.hst q := by
  unfold State.forceOff
  extract_lets a b
  rw [setBlk_hst_ne _ _ h]
  unfold b a
  rw [updHdr_hst_ne _ _ h, wipeBlock_hst]

theorem forceOff_st (s : State) (p : PageRef) : ((s.forceOff p).hdr p).st = .off := by
  unfold State.forceOff
  extract_lets a b
  exact setBlk_st _ _ _

theorem foldl_forceOff_st (l : List PageRef) (q : PageRef) (s : State)
    (h : q ∈ l ∨ (s.hdr q).st = .off) : ((l.foldl (fun s p => s.forceOff p) s).hdr q).st = .off := by
  induction l generalizing s with
  | nil => simpa using h
  | cons p l ih =>
    rw [List.foldl_cons]
    apply ih
    by_cases e : pageNum q = pageNum p
    · right
      have f : (s.forceOff p).hdr q = (s.forceOff p).hdr p := by unfold State.hdr; rw [e]
      rw [f]; exact forceOff_st _ _
    · rcases h with h | h
      · rcases List.mem_cons.mp h with h | h
        · exact absurd (congrArg pageNum h) e
        · exact Or.inl h
      · right; rw [hst_st (forceOff_hst_ne s e)]; exact h

/-- Every block is OFF after the tile's blocks are driven off. -/
theorem allOff_st (s : State) (q : PageRef) (h : q ∈ allBlocks) : (s.allOff.hdr q).st = .off := by
  unfold State.allOff
  have := foldl_forceOff_st allBlocks q s (Or.inl h)
  generalize allBlocks.foldl (fun s p => s.forceOff p) s = u at this ⊢
  exact this

end Sys2Proof.Machine
end

