-- ==== Sys2Proof/Laws/Write.lean ====
section
/-! SUPPORT. What writes of registers through the control port come down to. -/

namespace Sys2Proof.Machine

set_option Elab.async false

/-- A register without an effect of its own takes its fields. -/
theorem writeReg_plain (s : State) (r : Reg) (n : Nat) (v m : W64) (h : r.plain = true) :
    s.writeReg r n v m = s.store r n v m := by
  cases r <;> first | exact Bool.noConfusion h | rfl

/-- An administrator's write of a register by its address, as a write of the register. -/
theorem registerWrite_eq (s : State) (r : Reg) (n : Nat) (v : W32) (req : Req) :
    s.cpAccess true (s.accessTo (regPage r n) (regOff r n) 4 (v.setWidth 64) req) = s.cpReg r n v req := rfl

/-- A write to a register behind the closed expert lock is answered OK, ignored and sets LOCK_VIOL (R29, row 8). -/
theorem cpWrite_locked (s : State) (p : PageRef) (off bytes : Nat) (v : W64) (req : Req)
    (h : s.Open p (decide (0x40 ≤ off)) req) (ho : off < 4096) (hb : bytes = 4 ∨ bytes = 8) (ha : off % bytes = 0)
    (hr : p.kind = PageKind.result → off < 0x40) (ht : touchesExpert p off bytes = true) (hl : s.lockOpen p = false) :
    s.cpAccess true (s.accessTo p off bytes v req) = (s.raiseFault p 6).answeredOk := by
  have hP := accPage_accessTo s p off bytes v req h.inMap ho
  have hO := accPo_accessTo s p off bytes v req h.inMap ho
  have hA := accessTo_addr s p off bytes v req h.inMap ho
  have hal : (s.accessTo p off bytes v req).addr.toNat % bytes = 0 := by
    rw [hA]; rcases hb with rfl | rfl <;> omega
  have hst : s.stalls (s.accessTo p off bytes v req) = false := by
    simp [State.stalls, State.waitsOn, hP, h.nothingStalled, h.notInReset]
  have hre : s.reaches true p off req = true := by
    simp only [State.reaches, h.administrator, if_true]
    cases hk : p.kind <;> simp
    have := hr hk; omega
  have hbytes : (s.accessTo p off bytes v req).bytes = bytes := rfl
  have hreq : (s.accessTo p off bytes v req).req = req := rfl
  have htag : (s.accessTo p off bytes v req).tag = 0 := rfl
  have hkeep : (s.keeperAnswers && !keeperServes (some p)) = false := by
    rcases h.served with ⟨h1, h2⟩ | h1
    · simp [State.keeperAnswers, h1, h2]
    · simp [keeperServes, h1]
  have hw : (s.pwr.phase == .waking) = false := by simpa using h.notWaking
  have hf : (s.tile.st == .fenced && !(PageKind.fixed p.kind)) = false := by
    rcases h.notFenced with h1 | h1 <;> simp [h1]
  have hg : (s.gated p && decide (0x40 ≤ off)) = false := by
    by_cases hx : 0x40 ≤ off
    · simp [h.notGated (by simpa using hx)]
    · simp [hx]
  have hbb : ((bytes != 4 && bytes != 8) || (s.accessTo p off bytes v req).addr.toNat % bytes != 0) = false := by
    rw [hal]; rcases hb with rfl | rfl <;> rfl
  simp only [State.cpAccess, cpAddressed_accessTo s p off bytes v req h.inMap ho h.addressed, Bool.not_true,
    hst, State.cpDecide, hP, hO, hw, hkeep, State.cpServe, hbytes, hreq, hbb, hre, hf, hg, ht, hl,
    State.respond', htag, if_false, if_true, Bool.false_eq_true, Bool.not_false, Bool.and_true]
  rfl

/-- The same for a register by its name. -/
theorem cpReg_locked (s : State) (r : Reg) (n : Nat) (v : W32) (req : Req) (h : s.Open (regPage r n) true req)
    (hx : r.desc.flds.any (fun f => f.acc == .rwx) = true) (hl : s.lockOpen (regPage r n) = false) :
    s.cpReg r n v req = (s.raiseFault (regPage r n) 6).answeredOk := by
  have h1 := regOff_ge r n
  have hb : decide (0x40 ≤ regOff r n) = true := by simpa using h1
  exact cpWrite_locked s _ (regOff r n) 4 _ req (by rw [hb]; exact h) (regOff_lt r n) (Or.inl rfl) (regOff_mod4 r n)
    (fun e => absurd e (page_not_result r n)) (by rw [touchesExpert_reg]; exact hx) hl

/-- The keyed commands open with their key. -/
theorem keyed_cmd (s : State) (p : PageRef) (c : Nat) (h : c < 16) (f : Nat → State) :
    s.keyed p ((cmdWord c).setWidth 64 &&& 0xFFFFFFFF) f = f c := by
  interval_cases c <;> rfl

end Sys2Proof.Machine
end

