-- ==== Sys2Proof/Laws/Fields.lean ====
section
/-! SUPPORT. Fields of words: what is put into a field is read back from it, and the other fields stay. -/

namespace Sys2Proof.Machine

set_option Elab.async false

theorem putBits_eq (n hi lo x : Nat) :
    putBits n hi lo x =
      n / 2 ^ (lo + (hi - lo + 1)) * 2 ^ (lo + (hi - lo + 1)) + x % 2 ^ (hi - lo + 1) * 2 ^ lo + n % 2 ^ lo := by
  unfold putBits bitsOf
  generalize hi - lo + 1 = w
  have h1 : n = n / 2 ^ lo * 2 ^ lo + n % 2 ^ lo := (Nat.div_add_mod' n (2 ^ lo)).symm
  have h2 : n / 2 ^ lo = n / 2 ^ lo / 2 ^ w * 2 ^ w + n / 2 ^ lo % 2 ^ w := (Nat.div_add_mod' _ _).symm
  have h3 : n / 2 ^ lo / 2 ^ w = n / 2 ^ (lo + w) := by rw [Nat.div_div_eq_div_mul, pow_add]
  rw [h3] at h2
  have h4 : n / 2 ^ lo * 2 ^ lo = n / 2 ^ (lo + w) * 2 ^ (lo + w) + n / 2 ^ lo % 2 ^ w * 2 ^ lo := by
    conv_lhs => rw [h2]
    rw [Nat.add_mul, pow_add]; ring
  omega

theorem putBits_lt {n hi lo x : Nat} (hn : n < 2 ^ 64) (hh : hi < 64) (hl : lo ≤ hi) : putBits n hi lo x < 2 ^ 64 := by
  rw [putBits_eq]
  have e : lo + (hi - lo + 1) = hi + 1 := by omega
  rw [e]
  have h1 : x % 2 ^ (hi - lo + 1) < 2 ^ (hi - lo + 1) := Nat.mod_lt _ (by positivity)
  have h2 : n % 2 ^ lo < 2 ^ lo := Nat.mod_lt _ (by positivity)
  have h3 : x % 2 ^ (hi - lo + 1) * 2 ^ lo + n % 2 ^ lo < 2 ^ (hi + 1) := by
    have : 2 ^ (hi + 1) = 2 ^ (hi - lo + 1) * 2 ^ lo := by rw [← pow_add]; congr 1; omega
    rw [this]
    calc x % 2 ^ (hi - lo + 1) * 2 ^ lo + n % 2 ^ lo < x % 2 ^ (hi - lo + 1) * 2 ^ lo + 2 ^ lo := by omega
      _ = (x % 2 ^ (hi - lo + 1) + 1) * 2 ^ lo := by ring
      _ ≤ 2 ^ (hi - lo + 1) * 2 ^ lo := Nat.mul_le_mul_right _ h1
  have h4 : n / 2 ^ (hi + 1) < 2 ^ (64 - (hi + 1)) := by
    apply Nat.div_lt_of_lt_mul
    rw [← pow_add]
    have : hi + 1 + (64 - (hi + 1)) = 64 := by omega
    rw [this]; exact hn
  have h5 : 2 ^ 64 = 2 ^ (64 - (hi + 1)) * 2 ^ (hi + 1) := by rw [← pow_add]; congr 1; omega
  calc n / 2 ^ (hi + 1) * 2 ^ (hi + 1) + x % 2 ^ (hi - lo + 1) * 2 ^ lo + n % 2 ^ lo
      < n / 2 ^ (hi + 1) * 2 ^ (hi + 1) + 2 ^ (hi + 1) := by omega
    _ = (n / 2 ^ (hi + 1) + 1) * 2 ^ (hi + 1) := by ring
    _ ≤ 2 ^ (64 - (hi + 1)) * 2 ^ (hi + 1) := Nat.mul_le_mul_right _ h4
    _ = 2 ^ 64 := h5.symm

theorem bitsOf_putBits (n hi lo x : Nat) : bitsOf (putBits n hi lo x) hi lo = x % 2 ^ (hi - lo + 1) := by
  rw [putBits_eq]
  unfold bitsOf
  generalize hi - lo + 1 = w
  have h2 : n % 2 ^ lo < 2 ^ lo := Nat.mod_lt _ (by positivity)
  have e : n / 2 ^ (lo + w) * 2 ^ (lo + w) + x % 2 ^ w * 2 ^ lo + n % 2 ^ lo =
      n % 2 ^ lo + (n / 2 ^ (lo + w) * 2 ^ w + x % 2 ^ w) * 2 ^ lo := by rw [pow_add]; ring
  rw [e, Nat.add_mul_div_right _ _ (by positivity), Nat.div_eq_of_lt h2, Nat.zero_add, Nat.add_comm,
    Nat.add_mul_mod_self_right, Nat.mod_mod]

theorem bitsOf_putBits_above (n hi lo x hi' lo' : Nat) (h : hi < lo') (hl : lo ≤ hi) :
    bitsOf (putBits n hi lo x) hi' lo' = bitsOf n hi' lo' := by
  unfold bitsOf
  congr 1
  rw [putBits_eq]
  have e : lo + (hi - lo + 1) = hi + 1 := by omega
  rw [e]
  have h1 : x % 2 ^ (hi - lo + 1) < 2 ^ (hi - lo + 1) := Nat.mod_lt _ (by positivity)
  have h2 : n % 2 ^ lo < 2 ^ lo := Nat.mod_lt _ (by positivity)
  have h3 : x % 2 ^ (hi - lo + 1) * 2 ^ lo + n % 2 ^ lo < 2 ^ (hi + 1) := by
    have : 2 ^ (hi + 1) = 2 ^ (hi - lo + 1) * 2 ^ lo := by rw [← pow_add]; congr 1; omega
    rw [this]
    calc x % 2 ^ (hi - lo + 1) * 2 ^ lo + n % 2 ^ lo < x % 2 ^ (hi - lo + 1) * 2 ^ lo + 2 ^ lo := by omega
      _ = (x % 2 ^ (hi - lo + 1) + 1) * 2 ^ lo := by ring
      _ ≤ 2 ^ (hi - lo + 1) * 2 ^ lo := Nat.mul_le_mul_right _ h1
  have e2 : 2 ^ lo' = 2 ^ (hi + 1) * 2 ^ (lo' - (hi + 1)) := by rw [← pow_add]; congr 1; omega
  rw [e2, ← Nat.div_div_eq_div_mul, ← Nat.div_div_eq_div_mul]
  congr 1
  rw [Nat.add_assoc, Nat.add_comm, Nat.add_mul_div_right _ _ (by positivity), Nat.div_eq_of_lt h3, Nat.zero_add]

theorem bitsOf_putBits_below (n hi lo x hi' lo' : Nat) (h : hi' < lo) (hl : lo' ≤ hi') :
    bitsOf (putBits n hi lo x) hi' lo' = bitsOf n hi' lo' := by
  unfold bitsOf
  have key : ∀ m : Nat, m / 2 ^ lo' % 2 ^ (hi' - lo' + 1) = m % 2 ^ lo / 2 ^ lo' % 2 ^ (hi' - lo' + 1) := by
    intro m
    have e : 2 ^ lo = 2 ^ lo' * 2 ^ (lo - lo') := by rw [← pow_add]; congr 1; omega
    rw [e, Nat.mod_mul_right_div_self]
    have e2 : (2 : Nat) ^ (lo - lo') = 2 ^ (hi' - lo' + 1) * 2 ^ (lo - lo' - (hi' - lo' + 1)) := by
      rw [← pow_add]; congr 1; omega
    rw [e2, Nat.mod_mul_right_mod]
  rw [key, key n]
  congr 2
  rw [putBits_eq]
  have e : n / 2 ^ (lo + (hi - lo + 1)) * 2 ^ (lo + (hi - lo + 1)) + x % 2 ^ (hi - lo + 1) * 2 ^ lo + n % 2 ^ lo =
      n % 2 ^ lo + (n / 2 ^ (lo + (hi - lo + 1)) * 2 ^ (hi - lo + 1) + x % 2 ^ (hi - lo + 1)) * 2 ^ lo := by
    rw [pow_add]; ring
  rw [e, Nat.add_mul_mod_self_right, Nat.mod_mod]

/-! ## Words -/

theorem fget_fset_same (v : W64) (hi lo x : Nat) (hh : hi < 64) (hl : lo ≤ hi) :
    fget (fset v hi lo x) hi lo = x % 2 ^ (hi - lo + 1) := by
  unfold fget fset
  rw [BitVec.toNat_ofNat, Nat.mod_eq_of_lt (putBits_lt v.isLt hh hl), bitsOf_putBits]

theorem fget_fset_ne (v : W64) (hi lo x hi' lo' : Nat) (hh : hi < 64) (hl : lo ≤ hi) (hl' : lo' ≤ hi') (h : hi < lo' ∨ hi' < lo) :
    fget (fset v hi lo x) hi' lo' = fget v hi' lo' := by
  unfold fget fset
  rw [BitVec.toNat_ofNat, Nat.mod_eq_of_lt (putBits_lt v.isLt hh hl)]
  rcases h with h | h
  · exact bitsOf_putBits_above _ _ _ _ _ _ h hl
  · exact bitsOf_putBits_below _ _ _ _ _ _ h hl'

/-! ## Fields of the register file -/

/-- A field of the map lies within the word. -/
def Fld.ok (f : Fld) : Bool := decide (f.hi < 64) && decide (f.lo ≤ f.hi)

/-- Two fields of one register lie apart. -/
def Fld.apart (f g : Fld) : Bool := decide (f.hi < g.lo) || decide (g.hi < f.lo)

theorem fld_put_same (s : State) (f : Fld) (n x : Nat) (h : f.ok = true := by rfl) :
    (s.put f n x).fld f n = x % 2 ^ (f.hi - f.lo + 1) := by
  simp only [Fld.ok, Bool.and_eq_true, decide_eq_true_eq] at h
  unfold State.put State.fld
  rw [reg_setReg_same, fget_fset_same _ _ _ _ h.1 h.2]

theorem reg_put_ne (s : State) {f : Fld} {r : Reg} {n m : Nat} (x : Nat) (h : r ≠ f.reg ∨ m ≠ n) :
    (s.put f n x).reg r m = s.reg r m := reg_setReg_ne _ _ h

theorem fld_put_apart (s : State) {f g : Fld} (n m x : Nat) (h : f.ok = true := by rfl) (hg : g.ok = true := by rfl)
    (ha : Fld.apart f g = true := by rfl) : (s.put f n x).fld g m = s.fld g m := by
  simp only [Fld.ok, Fld.apart, Bool.and_eq_true, Bool.or_eq_true, decide_eq_true_eq] at h hg ha
  unfold State.fld
  by_cases e : g.reg = f.reg ∧ m = n
  · obtain ⟨e1, rfl⟩ := e
    rw [e1]; unfold State.put
    rw [reg_setReg_same, fget_fset_ne _ _ _ _ _ _ h.1 h.2 hg.2 ha]
  · rw [reg_put_ne]
    by_cases e1 : g.reg = f.reg
    · exact Or.inr (fun e2 => e ⟨e1, e2⟩)
    · exact Or.inl e1

theorem fld_put_reg (s : State) {f g : Fld} (n m x : Nat) (h : g.reg ≠ f.reg) : (s.put f n x).fld g m = s.fld g m := by
  unfold State.fld
  rw [reg_put_ne _ _ (Or.inl h)]

theorem flag_putFlag_same (s : State) (f : Fld) (n : Nat) (b : Bool) (h : f.ok = true := by rfl) :
    (s.putFlag f n b).flag f n = b := by
  unfold State.putFlag State.flag
  rw [fld_put_same _ _ _ _ h]
  have h1 : (2 : Nat) ^ (f.hi - f.lo + 1) = 2 * 2 ^ (f.hi - f.lo) := by rw [pow_succ]; ring
  have h2 : 0 < 2 ^ (f.hi - f.lo) := by positivity
  cases b
  · simp [b2n]
  · have : b2n true % 2 ^ (f.hi - f.lo + 1) = 1 := by
      apply Nat.mod_eq_of_lt
      show 1 < _
      omega
    rw [this]; rfl

theorem flag_putFlag_apart (s : State) {f g : Fld} (n m : Nat) (b : Bool) (h : f.ok = true := by rfl)
    (hg : g.ok = true := by rfl) (ha : Fld.apart f g = true := by rfl) : (s.putFlag f n b).flag g m = s.flag g m := by
  unfold State.putFlag State.flag
  rw [fld_put_apart _ _ _ _ h hg ha]

theorem reg_putFlag_ne (s : State) {f : Fld} {r : Reg} {n m : Nat} (b : Bool) (h : r ≠ f.reg ∨ m ≠ n) :
    (s.putFlag f n b).reg r m = s.reg r m := reg_setReg_ne _ _ h

theorem reg_bump_ne (s : State) {f : Fld} {r : Reg} {n m : Nat} (k : Nat) (h : r ≠ f.reg ∨ m ≠ n) :
    (s.bump f n k).reg r m = s.reg r m := reg_setReg_ne _ _ h

theorem fld_bump_same (s : State) (f : Fld) (n k : Nat) (h : f.ok = true := by rfl) :
    (s.bump f n k).fld f n = min (s.fld f n + k) (2 ^ (f.hi - f.lo + 1) - 1) := by
  unfold State.bump
  rw [fld_put_same _ _ _ _ h, satAdd, Nat.mod_eq_of_lt]
  have : 0 < 2 ^ (f.hi - f.lo + 1) := by positivity
  omega

theorem fld_congr {s t : State} (f : Fld) (n : Nat) (h : t.regs = s.regs) : t.fld f n = s.fld f n := by
  unfold State.fld State.reg; rw [h]

theorem flag_congr {s t : State} (f : Fld) (n : Nat) (h : t.regs = s.regs) : t.flag f n = s.flag f n := by
  unfold State.flag; rw [fld_congr f n h]

end Sys2Proof.Machine
end

