-- ==== Sys2Proof/Laws/FrameTamper.lean ====
section
/-! SUPPORT. The frames of the operations of Machine/Tamper.lean: the parts that each may change. -/

namespace Sys2Proof.Machine

set_option Elab.async false

theorem sensClrWrite_within {F : Part → Bool} {s : State} (hF : Part.All F [.regs]) {a1 : State} (a2) (k1 : s.Within F
    a1) :
    s.Within F (State.sensClrWrite a1 a2) := by
  unfold State.sensClrWrite
  extract_lets +onlyGivenNames y0
  refine put_within (hF.mono rfl) (not_configured rfl) ?_
  with_reducible assumption

theorem noneDirty_within {F : Part → Bool} {s : State} (hF : Part.All F [.ctx]) {a1 : State} (k1 : s.Within F a1) :
    s.Within F (State.noneDirty a1) := by
  unfold State.noneDirty
  refine within_ctx (hF.one rfl) ?_
  with_reducible assumption

theorem seal_within {F : Part → Bool} {s : State} (hF : Part.All F [.regs]) {a1 : State} (k1 : s.Within F a1) :
    s.Within F (State.seal a1) := by
  unfold State.seal
  refine putFlag_within (hF.mono rfl) (not_configured rfl) ?_
  with_reducible assumption

theorem broadcast_within {F : Part → Bool} {s : State} (hF : Part.All F [.regs, .hb]) {a1 : State} (a2) (k1 : s.Within
    F a1) :
    s.Within F (State.broadcast a1 a2) := by
  unfold State.broadcast
  refine within_ite (fun _ => ?_) (fun _ => ?_)
  · apply originateZeroize_within (hF.mono rfl)
    with_reducible assumption
  · with_reducible assumption

theorem sensorRearm_within {F : Part → Bool} {s : State} (hF : Part.All F [.tamp]) {a1 : State} (a2) (k1 : s.Within F
    a1) :
    s.Within F (State.sensorRearm a1 a2) := by
  unfold State.sensorRearm
  refine within_tamp (hF.one rfl) ?_
  with_reducible assumption

theorem fenceQueues_within {F : Part → Bool} {s : State} (hF : Part.All F [.regs, .hdrs, .irq, .qeng, .crown, .fab,
    .perf]) {a1 : State} (k1 : s.Within F a1) :
    s.Within F (State.fenceQueues a1) := by
  unfold State.fenceQueues
  extract_lets +onlyGivenNames y0
  have h1 : s.Within F y0 := by
    unfold y0
    refine within_ite (fun _ => ?_) (fun _ => ?_)
    · with_reducible assumption
    · apply raiseFault_within (hF.mono rfl)
      with_reducible assumption
  extract_lets +onlyGivenNames y2
  have h3 : s.Within F y2 := by
    unfold y2
    apply within_foldl
    · intro u4 x5 h6
      refine putFlag_within (hF.mono rfl) (not_configured rfl) ?_
      apply updRq_within (hF.mono rfl)
      with_reducible assumption
    · with_reducible assumption
  apply within_foldl
  · intro u7 x8 h9
    apply fenceCq_within (hF.mono rfl)
    with_reducible assumption
  · with_reducible assumption

theorem noMasks_within {F : Part → Bool} {s : State} (hF : Part.All F [.key]) {a1 : State} (k1 : s.Within F a1) :
    s.Within F (State.noMasks a1) := by
  unfold State.noMasks
  refine within_key (hF.one rfl) ?_
  with_reducible assumption

theorem ctxHalt_within {F : Part → Bool} {s : State} (hF : Part.All F [.hdrs, .irq, .qeng, .crown, .fab, .ctx, .key])
    {a1 : State} (a2) (k1 : s.Within F a1) :
    s.Within F (State.ctxHalt a1 a2) := by
  unfold State.ctxHalt
  extract_lets +onlyGivenNames y0
  extract_lets +onlyGivenNames y1
  extract_lets +onlyGivenNames y2
  have h3 : s.Within F y2 := by
    unfold y2
    apply dropXfers_within (hF.mono rfl)
    with_reducible assumption
  extract_lets +onlyGivenNames y4
  extract_lets +onlyGivenNames y5
  have h6 : s.Within F y5 := by
    unfold y5
    apply unholdAll_within (hF.mono rfl)
    refine within_ctx (hF.one rfl) ?_
    with_reducible assumption
  extract_lets +onlyGivenNames y7
  extract_lets +onlyGivenNames y8
  have h9 : s.Within F y8 := by
    unfold y8
    apply within_foldl
    · intro u10 x11 h12
      apply wipeWay_within (hF.mono rfl)
      with_reducible assumption
    · with_reducible assumption
  extract_lets +onlyGivenNames y13
  have h14 : s.Within F y13 := by
    unfold y13
    apply within_foldl
    · intro u15 x16 h17
      apply within_foldl
      · intro u18 x19 h20
        apply failWaiting_within (hF.mono rfl)
        with_reducible assumption
      · with_reducible assumption
    · with_reducible assumption
  extract_lets +onlyGivenNames y21
  extract_lets +onlyGivenNames y22
  extract_lets +onlyGivenNames y23
  have h24 : s.Within F y23 := by
    unfold y23
    refine within_ctx (hF.one rfl) ?_
    with_reducible assumption
  apply within_foldl
  · intro u25 x26 h27
    apply endJobWith_within (hF.mono rfl)
    with_reducible assumption
  · with_reducible assumption

theorem stopWork_within {F : Part → Bool} {s : State} (hF : Part.All F [.regs, .hdrs, .irq, .qeng, .crown, .fab, .pwr,
    .perf]) {a1 : State} (k1 : s.Within F a1) :
    s.Within F (State.stopWork a1) := by
  unfold State.stopWork
  extract_lets +onlyGivenNames y0
  have h1 : s.Within F y0 := by
    unfold y0
    apply rewindAll_within (hF.mono rfl)
    with_reducible assumption
  refine within_ite (fun _ => ?_) (fun _ => ?_)
  · apply raiseEvent_within (hF.mono rfl)
    refine within_pwr (hF.one rfl) ?_
    with_reducible assumption
  · with_reducible assumption

theorem wipeDone_within {F : Part → Bool} {s : State} (hF : Part.All F [.hdrs, .irq, .tamp]) {a1 : State} (k1 :
    s.Within F a1) :
    s.Within F (State.wipeDone a1) := by
  unfold State.wipeDone
  refine within_ite (fun _ => ?_) (fun _ => ?_)
  · with_reducible assumption
  · extract_lets +onlyGivenNames y0
    extract_lets +onlyGivenNames y1
    have h2 : s.Within F y1 := by
      unfold y1
      refine within_tamp (hF.one rfl) ?_
      with_reducible assumption
    apply raiseEvent_within (hF.mono rfl)
    with_reducible assumption

theorem setQual_within {F : Part → Bool} {s : State} (hF : Part.All F [.tamp]) {a1 : State} (a2) (a3) (k1 : s.Within F
    a1) :
    s.Within F (State.setQual a1 a2 a3) := by
  unfold State.setQual
  refine within_tamp (hF.one rfl) ?_
  with_reducible assumption

theorem selftestDrop_within {F : Part → Bool} {s : State} (hF : Part.All F [.regs]) {a1 : State} (k1 : s.Within F a1)
    :
    s.Within F (State.selftestDrop a1) := by
  unfold State.selftestDrop
  refine putFlag_within (hF.mono rfl) (not_configured rfl) ?_
  with_reducible assumption

theorem enterAlarmed_within {F : Part → Bool} {s : State} (hF : Part.All F [.tile, .regs, .blocks, .hdrs, .rng, .key,
    .wrap]) {a1 : State} (k1 : s.Within F a1) :
    s.Within F (State.enterAlarmed a1) := by
  unfold State.enterAlarmed
  refine putFlag_within (hF.mono rfl) (not_configured rfl) ?_
  apply enterTile_within (hF.mono rfl)
  with_reducible assumption

theorem functionFence_within {F : Part → Bool} {s : State} (hF : Part.All F [.regs, .hdrs, .irq, .qeng, .crown, .fab,
    .digest, .dma, .perf]) {a1 : State} (a2) (a3) (k1 : s.Within F a1) :
    s.Within F (State.functionFence a1 a2 a3) := by
  unfold State.functionFence
  refine within_ite (fun _ => ?_) (fun _ => ?_)
  · with_reducible assumption
  · extract_lets +onlyGivenNames y0
    have h1 : s.Within F y0 := by
      unfold y0
      refine put_within (hF.mono rfl) (not_configured rfl) ?_
      with_reducible assumption
    extract_lets +onlyGivenNames y2
    have h3 : s.Within F y2 := by
      unfold y2
      apply within_foldl
      · intro u4 x5 h6
        refine within_ite (fun _ => ?_) (fun _ => ?_)
        · apply fenceQueue_within (hF.mono rfl)
          with_reducible assumption
        · with_reducible assumption
      · with_reducible assumption
    extract_lets +onlyGivenNames y7
    have h8 : s.Within F y7 := by
      unfold y7
      apply fenceChains_within (hF.mono rfl)
      with_reducible assumption
    extract_lets +onlyGivenNames y9
    have h10 : s.Within F y9 := by
      unfold y9
      apply within_foldl
      · intro u11 x12 h13
        refine within_ite (fun _ => ?_) (fun _ => ?_)
        · apply fenceCq_within (hF.mono rfl)
          with_reducible assumption
        · with_reducible assumption
      · with_reducible assumption
    extract_lets +onlyGivenNames y14
    have h15 : s.Within F y14 := by
      unfold y14
      apply within_foldl
      · intro u16 x17 h18
        extract_lets +onlyGivenNames y19
        refine within_ite (fun _ => ?_) (fun _ => ?_)
        · apply dmaDisable_within (hF.mono rfl)
          with_reducible assumption
        · with_reducible assumption
      · with_reducible assumption
    extract_lets +onlyGivenNames y20
    have h21 : s.Within F y20 := by
      unfold y20
      apply dropHeld_within (hF.mono rfl)
      with_reducible assumption
    apply logFence_within (hF.mono rfl)
    apply countVec_within (hF.mono rfl)
    with_reducible assumption

theorem flushOver_within {F : Part → Bool} {s : State} (hF : Part.All F [.tile, .ctx]) {a1 : State} (k1 : s.Within F
    a1) :
    s.Within F (State.flushOver a1) := by
  unfold State.flushOver
  refine within_mk ?_ (.inl (hF.one rfl)) (.inr rfl) (.inr rfl) (.inr rfl) (.inr rfl) (.inr rfl) (.inr rfl) (.inr rfl) (.inl (hF.one rfl)) (.inr rfl) (.inr rfl) (.inr rfl) (.inr rfl) (.inr rfl) (.inr ⟨rfl, rfl, rfl⟩) (.inr rfl) (.inr rfl) (.inr rfl) (.inr rfl) (.inr rfl) (.inr rfl) (.inr rfl) (.inr rfl)
  with_reducible assumption

theorem drainTimeout_within {F : Part → Bool} {s : State} (hF : Part.All F [.regs, .hdrs, .irq, .crown, .fab, .perf])
    {a1 : State} (k1 : s.Within F a1) :
    s.Within F (State.drainTimeout a1) := by
  unfold State.drainTimeout
  refine within_ite (fun _ => ?_) (fun _ => ?_)
  · with_reducible assumption
  · extract_lets +onlyGivenNames y0
    extract_lets +onlyGivenNames y1
    extract_lets +onlyGivenNames y2
    extract_lets +onlyGivenNames y3
    have h4 : s.Within F y3 := by
      unfold y3
      apply traceDiscard_within (hF.mono rfl)
      with_reducible assumption
    extract_lets +onlyGivenNames y5
    have h6 : s.Within F y5 := by
      unfold y5
      apply dropXfers_within (hF.mono rfl)
      with_reducible assumption
    extract_lets +onlyGivenNames y7
    extract_lets +onlyGivenNames y8
    have h9 : s.Within F y8 := by
      unfold y8
      refine within_crown (hF.one rfl) ?_
      with_reducible assumption
    refine bump_within (hF.mono rfl) (not_configured rfl) ?_
    with_reducible assumption

theorem functionClear_within {F : Part → Bool} {s : State} (hF : Part.All F [.regs, .hdrs, .irq]) {a1 : State} (a2)
    (k1 : s.Within F a1) :
    s.Within F (State.functionClear a1 a2) := by
  unfold State.functionClear
  refine within_ite (fun _ => ?_) (fun _ => ?_)
  · with_reducible assumption
  · refine within_ite (fun _ => ?_) (fun _ => ?_)
    · refine put_within (hF.mono rfl) (not_configured rfl) ?_
      with_reducible assumption
    · apply seq_within (hF.mono rfl)
      with_reducible assumption

theorem haltAll_within {F : Part → Bool} {s : State} (hF : Part.All F [.regs, .hdrs, .irq, .qeng, .crown, .fab,
    .frames, .ctx, .digest, .bignum, .rng, .key, .perf, .finishes]) {a1 : State} (a2) (k1 : s.Within F a1) :
    s.Within F (State.haltAll a1 a2) := by
  unfold State.haltAll
  extract_lets +onlyGivenNames y0
  have h1 : s.Within F y0 := by
    unfold y0
    apply abortIssued_within (hF.mono rfl)
    with_reducible assumption
  extract_lets +onlyGivenNames y2
  have h3 : s.Within F y2 := by
    unfold y2
    apply endFrames_within (hF.mono rfl)
    with_reducible assumption
  extract_lets +onlyGivenNames y4
  have h5 : s.Within F y4 := by
    unfold y4
    apply ctxHalt_within (hF.mono rfl)
    with_reducible assumption
  extract_lets +onlyGivenNames y6
  have h7 : s.Within F y6 := by
    unfold y6
    apply keyAbort_within (hF.mono rfl)
    with_reducible assumption
  extract_lets +onlyGivenNames y8
  extract_lets +onlyGivenNames y9
  have h10 : s.Within F y9 := by
    unfold y9
    apply digestAbort_within (hF.mono rfl)
    with_reducible assumption
  extract_lets +onlyGivenNames y11
  have h12 : s.Within F y11 := by
    unfold y11
    apply bnAbort_within (hF.mono rfl)
    with_reducible assumption
  extract_lets +onlyGivenNames y13
  have h14 : s.Within F y13 := by
    unfold y13
    apply randomAbort_within (hF.mono rfl)
    with_reducible assumption
  extract_lets +onlyGivenNames y15
  have h16 : s.Within F y15 := by
    unfold y15
    apply abortFinishes_within (hF.mono rfl)
    with_reducible assumption
  extract_lets +onlyGivenNames y17
  have h18 : s.Within F y17 := by
    unfold y17
    apply abortFinishes_within (hF.mono rfl)
    with_reducible assumption
  apply dropReads_within (hF.mono rfl)
  apply abortFinishes_within (hF.mono rfl)
  with_reducible assumption

theorem drainDone_within {F : Part → Bool} {s : State} (hF : Part.All F [.tile, .regs, .blocks, .hdrs, .irq, .qeng,
    .crown, .fab, .frames, .ctx, .digest, .bignum, .rng, .custody, .key, .dma, .clk, .tamp, .perf, .wrap]) {a1 :
    State} (k1 : s.Within F a1) :
    s.Within F (State.drainDone a1) := by
  unfold State.drainDone
  refine within_ite (fun _ => ?_) (fun _ => ?_)
  · with_reducible assumption
  · extract_lets +onlyGivenNames y0
    have h1 : s.Within F y0 := by
      unfold y0
      apply allOff_within (hF.mono rfl)
      apply fenceQueues_within (hF.mono rfl)
      with_reducible assumption
    extract_lets +onlyGivenNames y2
    have h3 : s.Within F y2 := by
      unfold y2
      refine setReg_within (hF.mono rfl) (not_configured rfl) ?_
      with_reducible assumption
    extract_lets +onlyGivenNames y4
    have h5 : s.Within F y4 := by
      unfold y4
      refine within_ite (fun _ => ?_) (fun _ => ?_)
      · refine setReg_within (hF.mono rfl) (not_configured rfl) ?_
        with_reducible assumption
      · with_reducible assumption
    apply enterAlarmed_within (hF.mono rfl)
    refine within_tamp (hF.one rfl) ?_
    with_reducible assumption

theorem removeSecrets_within {F : Part → Bool} {s : State} (hF : Part.All F [.regs, .blocks, .hdrs, .irq, .qeng, .fab,
    .frames, .ctx, .digest, .bignum, .rng, .custody, .key]) {a1 : State} (a2) (k1 : s.Within F a1) :
    s.Within F (State.removeSecrets a1 a2) := by
  unfold State.removeSecrets
  extract_lets +onlyGivenNames y0
  have h1 : s.Within F y0 := by
    unfold y0
    apply loseWays_within (hF.mono rfl)
    with_reducible assumption
  extract_lets +onlyGivenNames y2
  have h3 : s.Within F y2 := by
    unfold y2
    apply clearSecrets_within (hF.mono rfl)
    apply clearDerived_within (hF.mono rfl)
    apply attestAbort_within (hF.mono rfl)
    with_reducible assumption
  extract_lets +onlyGivenNames y4
  have h5 : s.Within F y4 := by
    unfold y4
    refine within_ite (fun _ => ?_) (fun _ => ?_)
    · apply dropImage_within (hF.mono rfl)
      apply noMasks_within (hF.mono rfl)
      apply pounceStop_within (hF.mono rfl)
      apply portDrops_within (hF.mono rfl)
      with_reducible assumption
    · apply clearRoot_within (hF.mono rfl)
      apply clearPounce_within (hF.mono rfl)
      with_reducible assumption
  extract_lets +onlyGivenNames y6
  have h7 : s.Within F y6 := by
    unfold y6
    apply closeLocks_within (hF.mono rfl)
    apply rngStop_within (hF.mono rfl)
    apply bnCfgReset_within (hF.mono rfl)
    apply bnWipe_within (hF.mono rfl)
    apply digestWipe_within (hF.mono rfl)
    apply ctxWipe_within (hF.mono rfl)
    with_reducible assumption
  apply within_foldl
  · intro u8 x9 h10
    apply updLane_within (hF.mono rfl)
    with_reducible assumption
  · with_reducible assumption

theorem qualActive_within {F : Part → Bool} {s : State} (hF : Part.All F [.rng, .key, .tamp]) {a1 : State} (a2) (k1 :
    s.Within F a1) :
    s.Within F (State.qualActive a1 a2) := by
  unfold State.qualActive
  refine within_ite (fun _ => ?_) (fun _ => ?_)
  · with_reducible assumption
  · extract_lets +onlyGivenNames y0
    refine within_ite (fun _ => ?_) (fun _ => ?_)
    · with_reducible assumption
    · extract_lets +onlyGivenNames y1
      extract_lets +onlyGivenNames y2
      have h3 : s.Within F y2 := by
        unfold y2
        refine within_ite (fun _ => ?_) (fun _ => ?_)
        · apply portDrops_within (hF.mono rfl)
          with_reducible assumption
        · with_reducible assumption
      apply setQual_within (hF.mono rfl)
      with_reducible assumption

theorem qualClear_within {F : Part → Bool} {s : State} (hF : Part.All F [.hdrs, .irq, .tamp]) {a1 : State} (a2) (k1 :
    s.Within F a1) :
    s.Within F (State.qualClear a1 a2) := by
  unfold State.qualClear
  extract_lets +onlyGivenNames y0
  refine within_ite (fun _ => ?_) (fun _ => ?_)
  · apply seq_within (hF.mono rfl)
    with_reducible assumption
  · refine within_ite (fun _ => ?_) (fun _ => ?_)
    · with_reducible assumption
    · apply setQual_within (hF.mono rfl)
      with_reducible assumption

theorem qualRearm_within {F : Part → Bool} {s : State} (hF : Part.All F [.tamp]) {a1 : State} (a2) (k1 : s.Within F
    a1) :
    s.Within F (State.qualRearm a1 a2) := by
  unfold State.qualRearm
  extract_lets +onlyGivenNames y0
  refine within_ite (fun _ => ?_) (fun _ => ?_)
  · with_reducible assumption
  · split
    · rename_i x1 e2
      apply setQual_within (hF.mono rfl)
      with_reducible assumption
    · rename_i x3 e4
      apply setQual_within (hF.mono rfl)
      with_reducible assumption
    · rename_i x5 e6
      with_reducible assumption
    · rename_i x7 e8
      with_reducible assumption

theorem tileFenceEnd_within {F : Part → Bool} {s : State} (hF : Part.All F [.tile, .regs, .blocks, .hdrs, .irq, .qeng,
    .crown, .fab, .frames, .ctx, .digest, .bignum, .rng, .key, .dma, .perf, .wrap, .finishes]) {a1 : State} (k1 :
    s.Within F a1) :
    s.Within F (State.tileFenceEnd a1) := by
  unfold State.tileFenceEnd
  split
  · rename_i x0 e1
    with_reducible assumption
  · rename_i x2 x3 e4
    extract_lets +onlyGivenNames y5
    extract_lets +onlyGivenNames y6
    have h7 : s.Within F y6 := by
      unfold y6
      apply loseWays_within (hF.mono rfl)
      with_reducible assumption
    extract_lets +onlyGivenNames y8
    have h9 : s.Within F y8 := by
      unfold y8
      apply noneDirty_within (hF.mono rfl)
      with_reducible assumption
    extract_lets +onlyGivenNames y10
    extract_lets +onlyGivenNames y11
    have h12 : s.Within F y11 := by
      unfold y11
      apply fenceQueues_within (hF.mono rfl)
      with_reducible assumption
    extract_lets +onlyGivenNames y13
    have h14 : s.Within F y13 := by
      unfold y13
      apply within_foldl
      · intro u15 x16 h17
        apply fenceBlock_within (hF.mono rfl)
        with_reducible assumption
      · with_reducible assumption
    extract_lets +onlyGivenNames y18
    have h19 : s.Within F y18 := by
      unfold y18
      apply flushOver_within (hF.mono rfl)
      with_reducible assumption
    extract_lets +onlyGivenNames y20
    have h21 : s.Within F y20 := by
      unfold y20
      apply logFence_within (hF.mono rfl)
      apply raiseFault_within (hF.mono rfl)
      apply closeLocks_within (hF.mono rfl)
      apply enterTile_within (hF.mono rfl)
      with_reducible assumption
    apply within_foldl
    · intro u22 x23 h24
      apply countVec_within (hF.mono rfl)
      with_reducible assumption
    · with_reducible assumption

theorem clearAlarm_within {F : Part → Bool} {s : State} (hF : Part.All F [.tile, .regs, .blocks, .hdrs, .irq, .ctx,
    .digest, .rng, .key, .tamp, .wrap]) {a1 : State} (k1 : s.Within F a1) :
    s.Within F (State.clearAlarm a1) := by
  unfold State.clearAlarm
  refine within_ite (fun _ => ?_) (fun _ => ?_)
  · apply seq_within (hF.mono rfl)
    with_reducible assumption
  · extract_lets +onlyGivenNames y0
    extract_lets +onlyGivenNames y1
    have h2 : s.Within F y1 := by
      unfold y1
      apply within_foldl
      · intro u3 x4 h5
        refine within_ite (fun _ => ?_) (fun _ => ?_)
        · apply setQual_within (hF.mono rfl)
          with_reducible assumption
        · with_reducible assumption
      · with_reducible assumption
    extract_lets +onlyGivenNames y6
    have h7 : s.Within F y6 := by
      unfold y6
      refine put_within (hF.mono rfl) (not_configured rfl) ?_
      refine put_within (hF.mono rfl) (not_configured rfl) ?_
      with_reducible assumption
    extract_lets +onlyGivenNames y8
    have h9 : s.Within F y8 := by
      unfold y8
      refine within_ite (fun _ => ?_) (fun _ => ?_)
      · apply clearPounce_within (hF.mono rfl)
        with_reducible assumption
      · with_reducible assumption
    extract_lets +onlyGivenNames y10
    extract_lets +onlyGivenNames y11
    have h12 : s.Within F y11 := by
      unfold y11
      refine within_key (hF.one rfl) ?_
      with_reducible assumption
    apply enterTile_within (hF.mono rfl)
    with_reducible assumption

theorem qualClrWrite_within {F : Part → Bool} {s : State} (hF : Part.All F [.hdrs, .irq, .tamp]) {a1 : State} (a2) (k1
    : s.Within F a1) :
    s.Within F (State.qualClrWrite a1 a2) := by
  unfold State.qualClrWrite
  apply within_foldl
  · intro u0 x1 h2
    refine within_ite (fun _ => ?_) (fun _ => ?_)
    · apply qualClear_within (hF.mono rfl)
      with_reducible assumption
    · with_reducible assumption
  · with_reducible assumption

theorem tileFenceEnds_within {F : Part → Bool} {s : State} (hF : Part.All F [.tile, .regs, .blocks, .hdrs, .irq,
    .qeng, .crown, .fab, .frames, .ctx, .digest, .bignum, .rng, .key, .dma, .perf, .wrap, .finishes]) {a1 : State} (k1
    : s.Within F a1) :
    s.Within F (State.tileFenceEnds a1) := by
  unfold State.tileFenceEnds
  apply ascending_within (hF.mono rfl)
  apply tileFenceEnd_within (hF.mono rfl)
  with_reducible assumption

theorem startWipe_within {F : Part → Bool} {s : State} (hF : Part.All F [.regs, .blocks, .hdrs, .irq, .qeng, .fab,
    .frames, .ctx, .digest, .bignum, .rng, .custody, .key, .tamp]) {a1 : State} (a2) (k1 : s.Within F a1) :
    s.Within F (State.startWipe a1 a2) := by
  unfold State.startWipe
  extract_lets +onlyGivenNames y0
  have h1 : s.Within F y0 := by
    unfold y0
    apply removeSecrets_within (hF.mono rfl)
    with_reducible assumption
  refine within_tamp (hF.one rfl) ?_
  with_reducible assumption

theorem tileFence_within {F : Part → Bool} {s : State} (hF : Part.All F [.tile, .regs, .hdrs, .irq, .qeng, .crown,
    .fab, .frames, .ctx, .digest, .bignum, .rng, .key, .pwr, .perf, .finishes]) {a1 : State} (a2) (a3) (k1 : s.Within
    F a1) :
    s.Within F (State.tileFence a1 a2 a3) := by
  unfold State.tileFence
  refine within_ite (fun _ => ?_) (fun _ => ?_)
  · refine within_ite (fun _ => ?_) (fun _ => ?_)
    · with_reducible assumption
    · apply logFence_within (hF.mono rfl)
      with_reducible assumption
  · refine within_ite (fun _ => ?_) (fun _ => ?_)
    · with_reducible assumption
    · extract_lets +onlyGivenNames y0
      extract_lets +onlyGivenNames y1
      have h2 : s.Within F y1 := by
        unfold y1
        refine within_tile (hF.one rfl) ?_
        with_reducible assumption
      extract_lets +onlyGivenNames y3
      have h4 : s.Within F y3 := by
        unfold y3
        apply haltAll_within (hF.mono rfl)
        apply stopWork_within (hF.mono rfl)
        with_reducible assumption
      extract_lets +onlyGivenNames y5
      have h6 : s.Within F y5 := by
        unfold y5
        apply selftestDrop_within (hF.mono rfl)
        with_reducible assumption
      refine within_ite (fun _ => ?_) (fun _ => ?_)
      · apply flushCheck_within (hF.mono rfl)
        apply flushStart_within (hF.mono rfl)
        refine within_ctx (hF.one rfl) ?_
        with_reducible assumption
      · with_reducible assumption

theorem respond_within {F : Part → Bool} {s : State} (hF : Part.All F [.tile, .regs, .blocks, .hdrs, .irq, .qeng,
    .crown, .fab, .frames, .ctx, .digest, .bignum, .rng, .custody, .key, .dma, .hb, .pwr, .tamp, .perf, .wrap,
    .finishes]) {a1 : State} (a2) (k1 : s.Within F a1) :
    s.Within F (State.respond a1 a2) := by
  unfold State.respond
  refine within_ite (fun _ => ?_) (fun _ => ?_)
  · refine within_ite (fun _ => ?_) (fun _ => ?_)
    · extract_lets +onlyGivenNames y0
      have h1 : s.Within F y0 := by
        unfold y0
        refine within_ite (fun _ => ?_) (fun _ => ?_)
        · apply clearLatch_within (hF.mono rfl)
          apply clearPounce_within (hF.mono rfl)
          with_reducible assumption
        · with_reducible assumption
      apply broadcast_within (hF.mono rfl)
      refine within_tamp (hF.one rfl) ?_
      with_reducible assumption
    · with_reducible assumption
  · extract_lets +onlyGivenNames y2
    have h3 : s.Within F y2 := by
      unfold y2
      apply broadcast_within (hF.mono rfl)
      with_reducible assumption
    split
    · rename_i x4 e5
      with_reducible assumption
    · rename_i x6 e7
      apply enterAlarmed_within (hF.mono rfl)
      apply startWipe_within (hF.mono rfl)
      with_reducible assumption
    · rename_i x8 e9
      apply enterAlarmed_within (hF.mono rfl)
      apply startWipe_within (hF.mono rfl)
      with_reducible assumption
    · rename_i x10 e11
      apply enterAlarmed_within (hF.mono rfl)
      apply startWipe_within (hF.mono rfl)
      with_reducible assumption
    · rename_i x12 e13
      apply startWipe_within (hF.mono rfl)
      with_reducible assumption
    · rename_i x14 e15
      extract_lets +onlyGivenNames y16
      have h17 : s.Within F y16 := by
        unfold y16
        apply startWipe_within (hF.mono rfl)
        with_reducible assumption
      refine within_mk ?_ (.inr rfl) (.inr rfl) (.inr rfl) (.inr rfl) (.inr rfl) (.inr rfl) (.inr rfl) (.inr rfl) (.inr rfl) (.inr rfl) (.inr rfl) (.inr rfl) (.inr rfl) (.inr rfl) (.inr ⟨rfl, rfl, rfl⟩) (.inr rfl) (.inr rfl) (.inr rfl) (.inl (hF.one rfl)) (.inl (hF.one rfl)) (.inr rfl) (.inr rfl) (.inr rfl)
      with_reducible assumption
    · rename_i x18 e19
      extract_lets +onlyGivenNames y20
      have h21 : s.Within F y20 := by
        unfold y20
        apply startWipe_within (hF.mono rfl)
        with_reducible assumption
      refine within_mk ?_ (.inr rfl) (.inr rfl) (.inr rfl) (.inr rfl) (.inr rfl) (.inr rfl) (.inr rfl) (.inr rfl) (.inr rfl) (.inr rfl) (.inr rfl) (.inr rfl) (.inr rfl) (.inr rfl) (.inr ⟨rfl, rfl, rfl⟩) (.inr rfl) (.inr rfl) (.inr rfl) (.inl (hF.one rfl)) (.inl (hF.one rfl)) (.inr rfl) (.inr rfl) (.inr rfl)
      with_reducible assumption
    · rename_i x22 e23 e24 e25 e26 e27 e28 e29
      extract_lets +onlyGivenNames y30
      have h31 : s.Within F y30 := by
        unfold y30
        split
        · rename_i x32 x33 e34
          apply logFence_within (hF.mono rfl)
          with_reducible assumption
        · rename_i x35 e36
          with_reducible assumption
      extract_lets +onlyGivenNames y37
      extract_lets +onlyGivenNames y38
      extract_lets +onlyGivenNames y39
      have h40 : s.Within F y39 := by
        unfold y39
        refine within_mk ?_ (.inl (hF.one rfl)) (.inr rfl) (.inr rfl) (.inr rfl) (.inr rfl) (.inr rfl) (.inr rfl) (.inr rfl) (.inr rfl) (.inr rfl) (.inr rfl) (.inr rfl) (.inr rfl) (.inr rfl) (.inr ⟨rfl, rfl, rfl⟩) (.inr rfl) (.inr rfl) (.inr rfl) (.inr rfl) (.inl (hF.one rfl)) (.inr rfl) (.inr rfl) (.inr rfl)
        with_reducible assumption
      extract_lets +onlyGivenNames y41
      have h42 : s.Within F y41 := by
        unfold y41
        apply haltAll_within (hF.mono rfl)
        apply stopWork_within (hF.mono rfl)
        with_reducible assumption
      extract_lets +onlyGivenNames y43
      have h44 : s.Within F y43 := by
        unfold y43
        apply within_foldl
        · intro u45 x46 h47
          apply dmaTampered_within (hF.mono rfl)
          with_reducible assumption
        · with_reducible assumption
      extract_lets +onlyGivenNames y48
      have h49 : s.Within F y48 := by
        unfold y48
        apply selftestDrop_within (hF.mono rfl)
        apply ctxAbort_within (hF.mono rfl)
        with_reducible assumption
      apply startWipe_within (hF.mono rfl)
      with_reducible assumption

theorem tamperEvent_within {F : Part → Bool} {s : State} (hF : Part.All F [.tile, .regs, .blocks, .hdrs, .irq, .qeng,
    .crown, .fab, .frames, .ctx, .digest, .bignum, .rng, .custody, .key, .dma, .hb, .pwr, .tamp, .perf, .wrap,
    .finishes]) {a1 : State} (a2) (a3) (k1 : s.Within F a1) :
    s.Within F (State.tamperEvent a1 a2 a3) := by
  unfold State.tamperEvent
  extract_lets +onlyGivenNames y0
  have h1 : s.Within F y0 := by
    unfold y0
    refine bump_within (hF.mono rfl) (not_configured rfl) ?_
    with_reducible assumption
  extract_lets +onlyGivenNames y2
  have h3 : s.Within F y2 := by
    unfold y2
    refine put_within (hF.mono rfl) (not_configured rfl) ?_
    with_reducible assumption
  extract_lets +onlyGivenNames y4
  have h5 : s.Within F y4 := by
    unfold y4
    refine put_within (hF.mono rfl) (not_configured rfl) ?_
    with_reducible assumption
  extract_lets +onlyGivenNames y6
  extract_lets +onlyGivenNames y7
  have h8 : s.Within F y7 := by
    unfold y7
    refine within_ite (fun _ => ?_) (fun _ => ?_)
    · with_reducible assumption
    · refine put_within (hF.mono rfl) (not_configured rfl) ?_
      with_reducible assumption
  apply ascending_within (hF.mono rfl)
  apply respond_within (hF.mono rfl)
  with_reducible assumption

theorem qualEvent_within {F : Part → Bool} {s : State} (hF : Part.All F [.tile, .regs, .blocks, .hdrs, .irq, .qeng,
    .crown, .fab, .frames, .ctx, .digest, .bignum, .rng, .custody, .key, .dma, .hb, .pwr, .tamp, .perf, .wrap,
    .finishes]) {a1 : State} (a2) (k1 : s.Within F a1) :
    s.Within F (State.qualEvent a1 a2) := by
  unfold State.qualEvent
  refine within_ite (fun _ => ?_) (fun _ => ?_)
  · refine within_ite (fun _ => ?_) (fun _ => ?_)
    · apply tamperEvent_within (hF.mono rfl)
      apply raiseEvent_within (hF.mono rfl)
      with_reducible assumption
    · with_reducible assumption
  · refine within_ite (fun _ => ?_) (fun _ => ?_)
    · extract_lets +onlyGivenNames y0
      refine within_ite (fun _ => ?_) (fun _ => ?_)
      · with_reducible assumption
      · apply tamperEvent_within (hF.mono rfl)
        with_reducible assumption
    · with_reducible assumption

theorem sensorQualify_within {F : Part → Bool} {s : State} (hF : Part.All F [.tile, .regs, .blocks, .hdrs, .irq,
    .qeng, .crown, .fab, .frames, .ctx, .digest, .bignum, .rng, .custody, .key, .dma, .hb, .pwr, .tamp, .perf, .wrap,
    .finishes]) {a1 : State} (a2) (k1 : s.Within F a1) :
    s.Within F (State.sensorQualify a1 a2) := by
  unfold State.sensorQualify
  extract_lets +onlyGivenNames y0
  extract_lets +onlyGivenNames y1
  refine within_ite (fun _ => ?_) (fun _ => ?_)
  · with_reducible assumption
  · extract_lets +onlyGivenNames y2
    extract_lets +onlyGivenNames y3
    have h4 : s.Within F y3 := by
      unfold y3
      refine within_tamp (hF.one rfl) ?_
      with_reducible assumption
    refine within_ite (fun _ => ?_) (fun _ => ?_)
    · with_reducible assumption
    · extract_lets +onlyGivenNames y5
      have h6 : s.Within F y5 := by
        unfold y5
        refine put_within (hF.mono rfl) (not_configured rfl) ?_
        with_reducible assumption
      extract_lets +onlyGivenNames y7
      have h8 : s.Within F y7 := by
        unfold y7
        split
        · rename_i e9
          apply raiseEvent_within (hF.mono rfl)
          with_reducible assumption
        · rename_i e10
          apply raiseEvent_within (hF.mono rfl)
          with_reducible assumption
        · rename_i e11
          apply raiseFault_within (hF.mono rfl)
          with_reducible assumption
        · rename_i e12
          apply raiseFault_within (hF.mono rfl)
          with_reducible assumption
      extract_lets +onlyGivenNames y13
      refine within_ite (fun _ => ?_) (fun _ => ?_)
      · with_reducible assumption
      · apply tamperEvent_within (hF.mono rfl)
        with_reducible assumption

theorem qualShort_within {F : Part → Bool} {s : State} (hF : Part.All F [.tile, .regs, .blocks, .hdrs, .irq, .qeng,
    .crown, .fab, .frames, .ctx, .digest, .bignum, .rng, .custody, .key, .dma, .hb, .pwr, .tamp, .perf, .wrap,
    .finishes]) {a1 : State} (a2) (k1 : s.Within F a1) :
    s.Within F (State.qualShort a1 a2).2 := by
  unfold State.qualShort
  extract_lets +onlyGivenNames y0
  refine within_ite_snd (fun _ => ?_) (fun _ => ?_)
  · refine within_pair_snd ?_
    with_reducible assumption
  · refine within_ite_snd (fun _ => ?_) (fun _ => ?_)
    · refine within_pair_snd ?_
      apply setQual_within (hF.mono rfl)
      with_reducible assumption
    · extract_lets +onlyGivenNames y1
      refine within_ite_snd (fun _ => ?_) (fun _ => ?_)
      · refine within_pair_snd ?_
        apply qualEvent_within (hF.mono rfl)
        apply setQual_within (hF.mono rfl)
        with_reducible assumption
      · refine within_pair_snd ?_
        apply setQual_within (hF.mono rfl)
        with_reducible assumption

theorem qualHeld_within {F : Part → Bool} {s : State} (hF : Part.All F [.tile, .regs, .blocks, .hdrs, .irq, .qeng,
    .crown, .fab, .frames, .ctx, .digest, .bignum, .rng, .custody, .key, .dma, .hb, .pwr, .tamp, .perf, .wrap,
    .finishes]) {a1 : State} (a2) (k1 : s.Within F a1) :
    s.Within F (State.qualHeld a1 a2).2 := by
  unfold State.qualHeld
  extract_lets +onlyGivenNames y0
  refine within_ite_snd (fun _ => ?_) (fun _ => ?_)
  · refine within_pair_snd ?_
    with_reducible assumption
  · refine within_pair_snd ?_
    apply qualEvent_within (hF.mono rfl)
    apply setQual_within (hF.mono rfl)
    with_reducible assumption

end Sys2Proof.Machine
end

