-- ==== Sys2Proof/Laws/FrameClock.lean ====
section
/-! SUPPORT. The frames of the operations of Machine/Clock.lean: the parts that each may change. -/

namespace Sys2Proof.Machine

set_option Elab.async false

theorem holdoverBegins_within {F : Part → Bool} {s : State} (hF : Part.All F [.hb]) {a1 : State} (k1 : s.Within F a1)
    :
    s.Within F (State.holdoverBegins a1) := by
  unfold State.holdoverBegins
  refine within_ite (fun _ => ?_) (fun _ => ?_)
  · with_reducible assumption
  · refine within_hb (hF.one rfl) ?_
    with_reducible assumption

theorem updClk_within {F : Part → Bool} {s : State} (hF : Part.All F [.clk]) {a1 : State} (a2) (k1 : s.Within F a1) :
    s.Within F (State.updClk a1 a2) := by
  unfold State.updClk
  refine within_clk (hF.one rfl) ?_
  with_reducible assumption

theorem clkEnWritten_within {F : Part → Bool} {s : State} (hF : Part.All F [.regs, .blocks, .hdrs, .irq, .qeng,
    .crown, .fab, .ctx, .digest, .rng, .key, .perf]) {a1 : State} (a2) (k1 : s.Within F a1) :
    s.Within F (State.clkEnWritten a1 a2) := by
  unfold State.clkEnWritten
  refine within_ite (fun _ => ?_) (fun _ => ?_)
  · apply seq_within (hF.mono rfl)
    with_reducible assumption
  · extract_lets +onlyGivenNames y0
    extract_lets +onlyGivenNames y1
    refine within_ite (fun _ => ?_) (fun _ => ?_)
    · extract_lets +onlyGivenNames y2
      have h3 : s.Within F y2 := by
        unfold y2
        refine within_ite (fun _ => ?_) (fun _ => ?_)
        · with_reducible assumption
        · apply seq_within (hF.mono rfl)
          with_reducible assumption
      apply followAll_within (hF.mono rfl)
      refine setReg_within (hF.mono rfl) (not_configured rfl) ?_
      with_reducible assumption
    · apply followAll_within (hF.mono rfl)
      refine setReg_within (hF.mono rfl) (not_configured rfl) ?_
      with_reducible assumption

theorem sourceGood_within {F : Part → Bool} {s : State} (hF : Part.All F [.regs, .clk]) {a1 : State} (a2) (k1 :
    s.Within F a1) :
    s.Within F (State.sourceGood a1 a2) := by
  unfold State.sourceGood
  apply updClk_within (hF.mono rfl)
  refine put_within (hF.mono rfl) (not_configured rfl) ?_
  with_reducible assumption

theorem sboscCountStart_within {F : Part → Bool} {s : State} (hF : Part.All F [.clk]) {a1 : State} (k1 : s.Within F
    a1) :
    s.Within F (State.sboscCountStart a1) := by
  unfold State.sboscCountStart
  refine within_ite (fun _ => ?_) (fun _ => ?_)
  · apply updClk_within (hF.mono rfl)
    with_reducible assumption
  · with_reducible assumption

theorem stopSbosc_within {F : Part → Bool} {s : State} (hF : Part.All F [.clk]) {a1 : State} (k1 : s.Within F a1) :
    s.Within F (State.stopSbosc a1) := by
  unfold State.stopSbosc
  refine within_ite (fun _ => ?_) (fun _ => ?_)
  · with_reducible assumption
  · apply updClk_within (hF.mono rfl)
    with_reducible assumption

theorem monTrip_within {F : Part → Bool} {s : State} (hF : Part.All F [.clk]) {a1 : State} (a2) (k1 : s.Within F a1) :
    s.Within F (State.monTrip a1 a2) := by
  unfold State.monTrip
  apply updClk_within (hF.mono rfl)
  with_reducible assumption

theorem startSbosc_within {F : Part → Bool} {s : State} (hF : Part.All F [.clk]) {a1 : State} (k1 : s.Within F a1) :
    s.Within F (State.startSbosc a1) := by
  unfold State.startSbosc
  apply updClk_within (hF.mono rfl)
  with_reducible assumption

theorem holdSafe_within {F : Part → Bool} {s : State} (hF : Part.All F [.clk]) {a1 : State} (a2) (k1 : s.Within F a1)
    :
    s.Within F (State.holdSafe a1 a2) := by
  unfold State.holdSafe
  apply updClk_within (hF.mono rfl)
  with_reducible assumption

theorem pllRelockTimeout_within {F : Part → Bool} {s : State} (hF : Part.All F [.tile, .regs, .blocks, .hdrs, .irq,
    .qeng, .crown, .fab, .frames, .ctx, .digest, .bignum, .rng, .key, .dma, .clk, .pwr, .perf, .finishes]) {a1 :
    State} (a2) (k1 : s.Within F a1) :
    s.Within F (State.pllRelockTimeout a1 a2) := by
  unfold State.pllRelockTimeout
  refine within_ite (fun _ => ?_) (fun _ => ?_)
  · with_reducible assumption
  · extract_lets +onlyGivenNames y0
    have h1 : s.Within F y0 := by
      unfold y0
      apply updClk_within (hF.mono rfl)
      with_reducible assumption
    refine within_ite (fun _ => ?_) (fun _ => ?_)
    · extract_lets +onlyGivenNames y2
      have h3 : s.Within F y2 := by
        unfold y2
        apply raiseFault_within (hF.mono rfl)
        apply lasting_within (hF.mono rfl)
        with_reducible assumption
      apply tileFence_within (hF.mono rfl)
      with_reducible assumption
    · extract_lets +onlyGivenNames y4
      apply fence_within (hF.mono rfl)
      apply raiseFault_within (hF.mono rfl)
      apply lasting_within (hF.mono rfl)
      with_reducible assumption

theorem beginSwitch_within {F : Part → Bool} {s : State} (hF : Part.All F [.clk]) {a1 : State} (a2) (k1 : s.Within F
    a1) :
    s.Within F (State.beginSwitch a1 a2) := by
  unfold State.beginSwitch
  extract_lets +onlyGivenNames y0
  extract_lets +onlyGivenNames y1
  have h2 : s.Within F y1 := by
    unfold y1
    apply holdSafe_within (hF.mono rfl)
    with_reducible assumption
  apply updClk_within (hF.mono rfl)
  with_reducible assumption

theorem pllLost_within {F : Part → Bool} {s : State} (hF : Part.All F [.clk]) {a1 : State} (a2) (k1 : s.Within F a1) :
    s.Within F (State.pllLost a1 a2) := by
  unfold State.pllLost
  refine within_ite (fun _ => ?_) (fun _ => ?_)
  · with_reducible assumption
  · extract_lets +onlyGivenNames y0
    extract_lets +onlyGivenNames y1
    have h2 : s.Within F y1 := by
      unfold y1
      apply updClk_within (hF.mono rfl)
      with_reducible assumption
    refine within_ite (fun _ => ?_) (fun _ => ?_)
    · apply holdSafe_within (hF.mono rfl)
      with_reducible assumption
    · apply updClk_within (hF.mono rfl)
      with_reducible assumption

theorem countRestart_within {F : Part → Bool} {s : State} (hF : Part.All F [.regs, .hdrs, .irq, .clk]) {a1 : State}
    (k1 : s.Within F a1) :
    s.Within F (State.countRestart a1) := by
  unfold State.countRestart
  refine within_ite (fun _ => ?_) (fun _ => ?_)
  · with_reducible assumption
  · extract_lets +onlyGivenNames y0
    have h1 : s.Within F y0 := by
      unfold y0
      apply raiseFault_within (hF.mono rfl)
      refine bump_within (hF.mono rfl) (not_configured rfl) ?_
      apply monTrip_within (hF.mono rfl)
      with_reducible assumption
    refine within_ite (fun _ => ?_) (fun _ => ?_)
    · apply raiseFault_within (hF.mono rfl)
      apply updClk_within (hF.mono rfl)
      with_reducible assumption
    · with_reducible assumption

theorem pllUnlock_within {F : Part → Bool} {s : State} (hF : Part.All F [.clk]) {a1 : State} (a2) (k1 : s.Within F a1)
    :
    s.Within F (State.pllUnlock a1 a2) := by
  unfold State.pllUnlock
  refine within_ite (fun _ => ?_) (fun _ => ?_)
  · apply pllLost_within (hF.mono rfl)
    with_reducible assumption
  · with_reducible assumption

theorem hbrefTrip_within {F : Part → Bool} {s : State} (hF : Part.All F [.hdrs, .irq, .hb, .clk]) {a1 : State} (k1 :
    s.Within F a1) :
    s.Within F (State.hbrefTrip a1) := by
  unfold State.hbrefTrip
  extract_lets +onlyGivenNames y0
  extract_lets +onlyGivenNames y1
  have h2 : s.Within F y1 := by
    unfold y1
    apply updClk_within (hF.mono rfl)
    with_reducible assumption
  refine within_ite (fun _ => ?_) (fun _ => ?_)
  · extract_lets +onlyGivenNames y3
    have h4 : s.Within F y3 := by
      unfold y3
      apply raiseFault_within (hF.mono rfl)
      apply holdSafe_within (hF.mono rfl)
      with_reducible assumption
    refine within_ite (fun _ => ?_) (fun _ => ?_)
    · extract_lets +onlyGivenNames y5
      have h6 : s.Within F y5 := by
        unfold y5
        apply updClk_within (hF.mono rfl)
        apply startSbosc_within (hF.mono rfl)
        with_reducible assumption
      refine within_ite (fun _ => ?_) (fun _ => ?_)
      · apply beginSwitch_within (hF.mono rfl)
        with_reducible assumption
      · with_reducible assumption
    · with_reducible assumption
  · refine within_ite (fun _ => ?_) (fun _ => ?_)
    · apply holdoverBegins_within (hF.mono rfl)
      with_reducible assumption
    · with_reducible assumption

theorem sboscTrip_within {F : Part → Bool} {s : State} (hF : Part.All F [.regs, .hdrs, .irq, .clk]) {a1 : State} (k1 :
    s.Within F a1) :
    s.Within F (State.sboscTrip a1) := by
  unfold State.sboscTrip
  refine within_ite (fun _ => ?_) (fun _ => ?_)
  · apply countRestart_within (hF.mono rfl)
    with_reducible assumption
  · extract_lets +onlyGivenNames y0
    extract_lets +onlyGivenNames y1
    have h2 : s.Within F y1 := by
      unfold y1
      apply updClk_within (hF.mono rfl)
      with_reducible assumption
    refine within_ite (fun _ => ?_) (fun _ => ?_)
    · extract_lets +onlyGivenNames y3
      have h4 : s.Within F y3 := by
        unfold y3
        apply raiseFault_within (hF.mono rfl)
        apply holdSafe_within (hF.mono rfl)
        with_reducible assumption
      refine within_ite (fun _ => ?_) (fun _ => ?_)
      · apply beginSwitch_within (hF.mono rfl)
        with_reducible assumption
      · with_reducible assumption
    · with_reducible assumption

theorem refCfgWritten_within {F : Part → Bool} {s : State} (hF : Part.All F [.clk]) {a1 : State} (k1 : s.Within F a1)
    :
    s.Within F (State.refCfgWritten a1) := by
  unfold State.refCfgWritten
  extract_lets +onlyGivenNames y0
  have h1 : s.Within F y0 := by
    unfold y0
    refine within_ite (fun _ => ?_) (fun _ => ?_)
    · apply startSbosc_within (hF.mono rfl)
      with_reducible assumption
    · refine within_ite (fun _ => ?_) (fun _ => ?_)
      · with_reducible assumption
      · apply stopSbosc_within (hF.mono rfl)
        with_reducible assumption
  refine within_ite (fun _ => ?_) (fun _ => ?_)
  · apply beginSwitch_within (hF.mono rfl)
    with_reducible assumption
  · with_reducible assumption

theorem releaseSafe_within {F : Part → Bool} {s : State} (hF : Part.All F [.regs, .hdrs, .irq, .fab, .clk]) {a1 :
    State} (k1 : s.Within F a1) :
    s.Within F (State.releaseSafe a1) := by
  unfold State.releaseSafe
  refine within_ite (fun _ => ?_) (fun _ => ?_)
  · with_reducible assumption
  · extract_lets +onlyGivenNames y0
    extract_lets +onlyGivenNames y1
    have h2 : s.Within F y1 := by
      unfold y1
      apply updClk_within (hF.mono rfl)
      with_reducible assumption
    extract_lets +onlyGivenNames y3
    have h4 : s.Within F y3 := by
      unfold y3
      refine within_ite (fun _ => ?_) (fun _ => ?_)
      · apply raiseEvent_within (hF.mono rfl)
        refine bump_within (hF.mono rfl) (not_configured rfl) ?_
        with_reducible assumption
      · with_reducible assumption
    extract_lets +onlyGivenNames y5
    have h6 : s.Within F y5 := by
      unfold y5
      apply pumpPorts_within (hF.mono rfl)
      apply ascending_within (hF.mono rfl)
      with_reducible assumption
    refine within_ite (fun _ => ?_) (fun _ => ?_)
    · apply beginSwitch_within (hF.mono rfl)
      with_reducible assumption
    · with_reducible assumption

theorem switchMade_within {F : Part → Bool} {s : State} (hF : Part.All F [.regs, .hdrs, .irq, .fab, .hb, .clk]) {a1 :
    State} (k1 : s.Within F a1) :
    s.Within F (State.switchMade a1) := by
  unfold State.switchMade
  extract_lets +onlyGivenNames y0
  extract_lets +onlyGivenNames y1
  have h2 : s.Within F y1 := by
    unfold y1
    apply updClk_within (hF.mono rfl)
    with_reducible assumption
  extract_lets +onlyGivenNames y3
  have h4 : s.Within F y3 := by
    unfold y3
    refine within_ite (fun _ => ?_) (fun _ => ?_)
    · apply holdoverBegins_within (hF.mono rfl)
      with_reducible assumption
    · apply stopSbosc_within (hF.mono rfl)
      with_reducible assumption
  apply releaseSafe_within (hF.mono rfl)
  with_reducible assumption

theorem clockTrip_within {F : Part → Bool} {s : State} (hF : Part.All F [.regs, .hdrs, .irq, .hb, .clk]) {a1 : State}
    (a2) (a3) (k1 : s.Within F a1) :
    s.Within F (State.clockTrip a1 a2 a3) := by
  unfold State.clockTrip
  refine within_ite (fun _ => ?_) (fun _ => ?_)
  · with_reducible assumption
  · extract_lets +onlyGivenNames y0
    have h1 : s.Within F y0 := by
      unfold y0
      apply updClk_within (hF.mono rfl)
      apply monTrip_within (hF.mono rfl)
      with_reducible assumption
    refine within_ite (fun _ => ?_) (fun _ => ?_)
    · apply hbrefTrip_within (hF.mono rfl)
      with_reducible assumption
    · refine within_ite (fun _ => ?_) (fun _ => ?_)
      · apply sboscTrip_within (hF.mono rfl)
        with_reducible assumption
      · apply pllLost_within (hF.mono rfl)
        with_reducible assumption

theorem hbrefQualify_within {F : Part → Bool} {s : State} (hF : Part.All F [.regs, .hdrs, .irq, .fab, .clk]) {a1 :
    State} (k1 : s.Within F a1) :
    s.Within F (State.hbrefQualify a1) := by
  unfold State.hbrefQualify
  refine within_ite (fun _ => ?_) (fun _ => ?_)
  · with_reducible assumption
  · extract_lets +onlyGivenNames y0
    have h1 : s.Within F y0 := by
      unfold y0
      apply updClk_within (hF.mono rfl)
      apply sourceGood_within (hF.mono rfl)
      with_reducible assumption
    split
    · rename_i x2 e3
      apply releaseSafe_within (hF.mono rfl)
      apply updClk_within (hF.mono rfl)
      with_reducible assumption
    · rename_i x4 e5
      extract_lets +onlyGivenNames y6
      have h7 : s.Within F y6 := by
        unfold y6
        apply updClk_within (hF.mono rfl)
        with_reducible assumption
      apply releaseSafe_within (hF.mono rfl)
      apply stopSbosc_within (hF.mono rfl)
      with_reducible assumption
    · rename_i x8 e9
      refine within_ite (fun _ => ?_) (fun _ => ?_)
      · apply beginSwitch_within (hF.mono rfl)
        apply updClk_within (hF.mono rfl)
        with_reducible assumption
      · refine within_ite (fun _ => ?_) (fun _ => ?_)
        · apply beginSwitch_within (hF.mono rfl)
          with_reducible assumption
        · with_reducible assumption
    · rename_i x10 e11
      refine within_ite (fun _ => ?_) (fun _ => ?_)
      · extract_lets +onlyGivenNames y12
        have h13 : s.Within F y12 := by
          unfold y12
          apply updClk_within (hF.mono rfl)
          with_reducible assumption
        apply releaseSafe_within (hF.mono rfl)
        apply stopSbosc_within (hF.mono rfl)
        with_reducible assumption
      · with_reducible assumption

theorem pllStop_within {F : Part → Bool} {s : State} (hF : Part.All F [.tile, .regs, .blocks, .hdrs, .irq, .fab, .rng,
    .key, .clk, .wrap]) {a1 : State} (a2) (k1 : s.Within F a1) :
    s.Within F (State.pllStop a1 a2) := by
  unfold State.pllStop
  extract_lets +onlyGivenNames y0
  extract_lets +onlyGivenNames y1
  have h2 : s.Within F y1 := by
    unfold y1
    apply updClk_within (hF.mono rfl)
    with_reducible assumption
  extract_lets +onlyGivenNames y3
  have h4 : s.Within F y3 := by
    unfold y3
    refine setReg_within (hF.mono rfl) (not_configured rfl) ?_
    with_reducible assumption
  extract_lets +onlyGivenNames y5
  have h6 : s.Within F y5 := by
    unfold y5
    refine within_ite (fun _ => ?_) (fun _ => ?_)
    · apply enterTile_within (hF.mono rfl)
      with_reducible assumption
    · with_reducible assumption
  apply releaseSafe_within (hF.mono rfl)
  with_reducible assumption

theorem adoptSbosc_within {F : Part → Bool} {s : State} (hF : Part.All F [.regs, .hdrs, .irq, .fab, .hb, .clk]) {a1 :
    State} (k1 : s.Within F a1) :
    s.Within F (State.adoptSbosc a1) := by
  unfold State.adoptSbosc
  apply releaseSafe_within (hF.mono rfl)
  apply holdoverBegins_within (hF.mono rfl)
  apply updClk_within (hF.mono rfl)
  with_reducible assumption

theorem sboscJudged_within {F : Part → Bool} {s : State} (hF : Part.All F [.regs, .hdrs, .irq, .fab, .hb, .clk]) {a1 :
    State} (k1 : s.Within F a1) :
    s.Within F (State.sboscJudged a1) := by
  unfold State.sboscJudged
  refine within_ite (fun _ => ?_) (fun _ => ?_)
  · with_reducible assumption
  · extract_lets +onlyGivenNames y0
    have h1 : s.Within F y0 := by
      unfold y0
      apply updClk_within (hF.mono rfl)
      apply sourceGood_within (hF.mono rfl)
      with_reducible assumption
    split
    · rename_i x2 e3
      refine within_ite (fun _ => ?_) (fun _ => ?_)
      · apply beginSwitch_within (hF.mono rfl)
        with_reducible assumption
      · with_reducible assumption
    · rename_i x4 e5
      apply releaseSafe_within (hF.mono rfl)
      with_reducible assumption
    · rename_i x6 e7
      refine within_ite (fun _ => ?_) (fun _ => ?_)
      · apply adoptSbosc_within (hF.mono rfl)
        with_reducible assumption
      · with_reducible assumption
    · rename_i x8 e9
      with_reducible assumption

theorem switchTimeout_within {F : Part → Bool} {s : State} (hF : Part.All F [.regs, .hdrs, .irq, .fab, .hb, .clk]) {a1
    : State} (k1 : s.Within F a1) :
    s.Within F (State.switchTimeout a1) := by
  unfold State.switchTimeout
  refine within_ite (fun _ => ?_) (fun _ => ?_)
  · apply switchMade_within (hF.mono rfl)
    apply raiseFault_within (hF.mono rfl)
    refine bump_within (hF.mono rfl) (not_configured rfl) ?_
    with_reducible assumption
  · with_reducible assumption

theorem pllEnBit_within {F : Part → Bool} {s : State} (hF : Part.All F [.tile, .regs, .blocks, .hdrs, .irq, .fab,
    .rng, .key, .clk, .wrap]) {a1 : State} (a2) (a3) (k1 : s.Within F a1) :
    s.Within F (State.pllEnBit a1 a2 a3) := by
  unfold State.pllEnBit
  refine within_ite (fun _ => ?_) (fun _ => ?_)
  · refine setReg_within (hF.mono rfl) (not_configured rfl) ?_
    with_reducible assumption
  · refine within_ite (fun _ => ?_) (fun _ => ?_)
    · with_reducible assumption
    · extract_lets +onlyGivenNames y0
      refine within_ite (fun _ => ?_) (fun _ => ?_)
      · apply pllStop_within (hF.mono rfl)
        with_reducible assumption
      · apply seq_within (hF.mono rfl)
        with_reducible assumption

theorem clkCommand_within {F : Part → Bool} {s : State} (hF : Part.All F [.regs, .hdrs, .irq, .fab, .hb, .clk]) {a1 :
    State} (a2) (k1 : s.Within F a1) :
    s.Within F (State.clkCommand a1 a2) := by
  unfold State.clkCommand
  refine within_ite (fun _ => ?_) (fun _ => ?_)
  · apply seq_within (hF.mono rfl)
    with_reducible assumption
  · refine within_ite (fun _ => ?_) (fun _ => ?_)
    · apply seq_within (hF.mono rfl)
      with_reducible assumption
    · refine within_ite (fun _ => ?_) (fun _ => ?_)
      · refine within_ite (fun _ => ?_) (fun _ => ?_)
        · apply seq_within (hF.mono rfl)
          with_reducible assumption
        · refine within_ite (fun _ => ?_) (fun _ => ?_)
          · with_reducible assumption
          · apply beginSwitch_within (hF.mono rfl)
            apply updClk_within (hF.mono rfl)
            with_reducible assumption
      · refine within_ite (fun _ => ?_) (fun _ => ?_)
        · with_reducible assumption
        · extract_lets +onlyGivenNames y0
          have h1 : s.Within F y0 := by
            unfold y0
            apply updClk_within (hF.mono rfl)
            apply startSbosc_within (hF.mono rfl)
            with_reducible assumption
          refine within_ite (fun _ => ?_) (fun _ => ?_)
          · with_reducible assumption
          · refine within_ite (fun _ => ?_) (fun _ => ?_)
            · apply adoptSbosc_within (hF.mono rfl)
              with_reducible assumption
            · apply beginSwitch_within (hF.mono rfl)
              with_reducible assumption

theorem handshake_within {F : Part → Bool} {s : State} (hF : Part.All F [.regs, .hdrs, .irq, .fab, .hb, .clk]) {a1 :
    State} (k1 : s.Within F a1) :
    s.Within F (State.handshake a1) := by
  unfold State.handshake
  refine within_ite (fun _ => ?_) (fun _ => ?_)
  · apply switchMade_within (hF.mono rfl)
    with_reducible assumption
  · with_reducible assumption

theorem pllLock_within {F : Part → Bool} {s : State} (hF : Part.All F [.tile, .regs, .blocks, .hdrs, .irq, .qeng,
    .crown, .fab, .ctx, .digest, .rng, .key, .hb, .clk, .perf, .wrap]) {a1 : State} (a2) (k1 : s.Within F a1) :
    s.Within F (State.pllLock a1 a2) := by
  unfold State.pllLock
  refine within_ite (fun _ => ?_) (fun _ => ?_)
  · with_reducible assumption
  · extract_lets +onlyGivenNames y0
    have h1 : s.Within F y0 := by
      unfold y0
      apply handshake_within (hF.mono rfl)
      with_reducible assumption
    refine within_ite (fun _ => ?_) (fun _ => ?_)
    · with_reducible assumption
    · extract_lets +onlyGivenNames y2
      extract_lets +onlyGivenNames y3
      extract_lets +onlyGivenNames y4
      have h5 : s.Within F y4 := by
        unfold y4
        apply updClk_within (hF.mono rfl)
        with_reducible assumption
      extract_lets +onlyGivenNames y6
      have h7 : s.Within F y6 := by
        unfold y6
        refine within_ite (fun _ => ?_) (fun _ => ?_)
        · apply transient_within (hF.mono rfl)
          with_reducible assumption
        · with_reducible assumption
      apply followAll_within (hF.mono rfl)
      apply clocked_within (hF.mono rfl)
      apply releaseSafe_within (hF.mono rfl)
      with_reducible assumption

theorem pllEnWrite_within {F : Part → Bool} {s : State} (hF : Part.All F [.tile, .regs, .blocks, .hdrs, .irq, .fab,
    .rng, .key, .clk, .wrap]) {a1 : State} (a2) (k1 : s.Within F a1) :
    s.Within F (State.pllEnWrite a1 a2) := by
  unfold State.pllEnWrite
  apply within_foldl
  · intro u0 x1 h2
    apply pllEnBit_within (hF.mono rfl)
    with_reducible assumption
  · with_reducible assumption

theorem idles_within {F : Part → Bool} {s : State} (hF : Part.All F [.regs, .hdrs, .irq, .fab, .epoch, .hb, .clk]) {a1
    : State} (k1 : s.Within F a1) :
    s.Within F (State.idles a1) := by
  unfold State.idles
  apply handshake_within (hF.mono rfl)
  apply tick_within (hF.mono rfl)
  with_reducible assumption

end Sys2Proof.Machine
end

