-- ==== Sys2Proof/Laws/FrameIrq.lean ====
section
/-! SUPPORT. The frames of the operations of Machine/Irq.lean: the parts that each may change. -/

namespace Sys2Proof.Machine

set_option Elab.async false

theorem sendNow_within {F : Part → Bool} {s : State} (hF : Part.All F [.irq]) {a1 : State} (a2) (k1 : s.Within F a1) :
    s.Within F (State.sendNow a1 a2) := by
  unfold State.sendNow
  extract_lets +onlyGivenNames y0
  refine within_ite (fun _ => ?_) (fun _ => ?_)
  · refine within_ite (fun _ => ?_) (fun _ => ?_)
    · apply setVec_within (hF.mono rfl)
      with_reducible assumption
    · apply formMsg_within (hF.mono rfl)
      with_reducible assumption
  · with_reducible assumption

theorem flushed1_within {F : Part → Bool} {s : State} (hF : Part.All F [.hdrs, .irq]) {a1 : State} (a2) (k1 : s.Within
    F a1) :
    s.Within F (State.flushed1 a1 a2) := by
  unfold State.flushed1
  refine within_ite (fun _ => ?_) (fun _ => ?_)
  · with_reducible assumption
  · extract_lets +onlyGivenNames y0
    refine within_ite (fun _ => ?_) (fun _ => ?_)
    · apply raiseEvent_within (hF.mono rfl)
      refine within_irq (hF.one rfl) ?_
      with_reducible assumption
    · refine within_irq (hF.one rfl) ?_
      with_reducible assumption

theorem vecTimer_within {F : Part → Bool} {s : State} (hF : Part.All F [.irq]) {a1 : State} (a2) (k1 : s.Within F a1)
    :
    s.Within F (State.vecTimer a1 a2) := by
  unfold State.vecTimer
  extract_lets +onlyGivenNames y0
  refine within_ite (fun _ => ?_) (fun _ => ?_)
  · with_reducible assumption
  · apply judge_within (hF.mono rfl)
    apply setVec_within (hF.mono rfl)
    with_reducible assumption

theorem enableRose_within {F : Part → Bool} {s : State} (hF : Part.All F [.irq]) {a1 : State} (a2) (a3) (a4) (a5) (k1
    : s.Within F a1) :
    s.Within F (State.enableRose a1 a2 a3 a4 a5) := by
  unfold State.enableRose
  apply ascending_within (hF.mono rfl)
  apply within_foldl
  · intro u0 x1 h2
    refine within_ite (fun _ => ?_) (fun _ => ?_)
    · refine within_ite (fun _ => ?_) (fun _ => ?_)
      · refine within_ite (fun _ => ?_) (fun _ => ?_)
        · with_reducible assumption
        · refine within_latched ?_
          with_reducible assumption
      · split
        · rename_i x3 x4 e5
          apply countVec_within (hF.mono rfl)
          with_reducible assumption
        · rename_i x6 e7
          with_reducible assumption
    · with_reducible assumption
  · with_reducible assumption

theorem judgeLatched_within {F : Part → Bool} {s : State} (hF : Part.All F [.irq]) {a1 : State} (k1 : s.Within F a1) :
    s.Within F (State.judgeLatched a1) := by
  unfold State.judgeLatched
  extract_lets +onlyGivenNames y0
  extract_lets +onlyGivenNames y1
  extract_lets +onlyGivenNames y2
  have h3 : s.Within F y2 := by
    unfold y2
    refine within_latched ?_
    with_reducible assumption
  apply within_foldl
  · intro u4 x5 h6
    split
    · rename_i x7 e8
      with_reducible assumption
    · rename_i x9 x10 e11
      extract_lets +onlyGivenNames y12
      refine within_ite (fun _ => ?_) (fun _ => ?_)
      · split
        · rename_i x13 x14 e15
          refine within_ite (fun _ => ?_) (fun _ => ?_)
          · apply countVec_within (hF.mono rfl)
            with_reducible assumption
          · with_reducible assumption
        · rename_i x16 e17
          with_reducible assumption
      · split
        · rename_i x18 x19 e20
          refine within_ite (fun _ => ?_) (fun _ => ?_)
          · apply countVec_within (hF.mono rfl)
            with_reducible assumption
          · with_reducible assumption
        · rename_i x21 e22
          with_reducible assumption
  · with_reducible assumption

theorem vecCfgWrite_within {F : Part → Bool} {s : State} (hF : Part.All F [.regs, .irq]) {a1 : State} (a2) (a3) (k1 :
    s.Within F a1) :
    s.Within F (State.vecCfgWrite a1 a2 a3) := by
  unfold State.vecCfgWrite
  refine within_ite (fun _ => ?_) (fun _ => ?_)
  · with_reducible assumption
  · extract_lets +onlyGivenNames y0
    extract_lets +onlyGivenNames y1
    extract_lets +onlyGivenNames y2
    extract_lets +onlyGivenNames y3
    have h4 : s.Within F y3 := by
      unfold y3
      refine setReg_within (hF.mono rfl) (not_configured rfl) ?_
      with_reducible assumption
    extract_lets +onlyGivenNames y5
    extract_lets +onlyGivenNames y6
    have h7 : s.Within F y6 := by
      unfold y6
      refine within_ite (fun _ => ?_) (fun _ => ?_)
      · apply setVec_within (hF.mono rfl)
        with_reducible assumption
      · with_reducible assumption
    refine within_ite (fun _ => ?_) (fun _ => ?_)
    · apply judge_within (hF.mono rfl)
      with_reducible assumption
    · with_reducible assumption

theorem faultEnWrite_within {F : Part → Bool} {s : State} (hF : Part.All F [.blocks, .hdrs, .irq]) {a1 : State} (a2)
    (a3) (k1 : s.Within F a1) :
    s.Within F (State.faultEnWrite a1 a2 a3) := by
  unfold State.faultEnWrite
  extract_lets +onlyGivenNames y0
  apply enableRose_within (hF.mono rfl)
  apply setHdr_within (hF.mono rfl)
  with_reducible assumption

theorem eventEnWrite_within {F : Part → Bool} {s : State} (hF : Part.All F [.blocks, .hdrs, .irq]) {a1 : State} (a2)
    (a3) (k1 : s.Within F a1) :
    s.Within F (State.eventEnWrite a1 a2 a3) := by
  unfold State.eventEnWrite
  extract_lets +onlyGivenNames y0
  apply enableRose_within (hF.mono rfl)
  apply setHdr_within (hF.mono rfl)
  with_reducible assumption

theorem msgAccepted_within {F : Part → Bool} {s : State} (hF : Part.All F [.regs, .hdrs, .irq]) {a1 : State} (k1 :
    s.Within F a1) :
    s.Within F (State.msgAccepted a1) := by
  unfold State.msgAccepted
  refine within_ite (fun _ => ?_) (fun _ => ?_)
  · with_reducible assumption
  · split
    · rename_i x0 e1
      with_reducible assumption
    · rename_i x2 x3 x4 e5
      extract_lets +onlyGivenNames y6
      extract_lets +onlyGivenNames y7
      have h8 : s.Within F y7 := by
        unfold y7
        refine within_irq (hF.one rfl) ?_
        with_reducible assumption
      extract_lets +onlyGivenNames y9
      have h10 : s.Within F y9 := by
        unfold y9
        apply perfCount_within (hF.mono rfl)
        refine bump_within (hF.mono rfl) (not_configured rfl) ?_
        with_reducible assumption
      extract_lets +onlyGivenNames y11
      have h12 : s.Within F y11 := by
        unfold y11
        refine within_ite (fun _ => ?_) (fun _ => ?_)
        · apply fnCount_within (hF.mono rfl)
          with_reducible assumption
        · with_reducible assumption
      extract_lets +onlyGivenNames y13
      extract_lets +onlyGivenNames y14
      have h15 : s.Within F y14 := by
        unfold y14
        apply setVec_within (hF.mono rfl)
        with_reducible assumption
      extract_lets +onlyGivenNames y16
      extract_lets +onlyGivenNames y17
      have h18 : s.Within F y17 := by
        unfold y17
        refine within_ite (fun _ => ?_) (fun _ => ?_)
        · with_reducible assumption
        · apply flushed1_within (hF.mono rfl)
          with_reducible assumption
      refine within_ite (fun _ => ?_) (fun _ => ?_)
      · apply formMsg_within (hF.mono rfl)
        with_reducible assumption
      · apply setVec_within (hF.mono rfl)
        with_reducible assumption

theorem irqFlushWrite_within {F : Part → Bool} {s : State} (hF : Part.All F [.irq]) {a1 : State} (a2) (a3) (k1 :
    s.Within F a1) :
    s.Within F (State.irqFlushWrite a1 a2 a3) := by
  unfold State.irqFlushWrite
  refine within_ite (fun _ => ?_) (fun _ => ?_)
  · apply within_foldl
    · intro u0 x1 h2
      apply sendNow_within (hF.mono rfl)
      with_reducible assumption
    · with_reducible assumption
  · refine within_ite (fun _ => ?_) (fun _ => ?_)
    · apply sendNow_within (hF.mono rfl)
      with_reducible assumption
    · with_reducible assumption

theorem irqFlush_within {F : Part → Bool} {s : State} (hF : Part.All F [.hdrs, .irq]) {a1 : State} (a2) (k1 : s.Within
    F a1) :
    s.Within F (State.irqFlush a1 a2) := by
  unfold State.irqFlush
  extract_lets +onlyGivenNames y0
  extract_lets +onlyGivenNames y1
  have h2 : s.Within F y1 := by
    unfold y1
    apply within_foldl
    · intro u3 x4 h5
      apply sendNow_within (hF.mono rfl)
      apply setVec_within (hF.mono rfl)
      with_reducible assumption
    · with_reducible assumption
  refine within_ite (fun _ => ?_) (fun _ => ?_)
  · refine within_ite (fun _ => ?_) (fun _ => ?_)
    · apply raiseEvent_within (hF.mono rfl)
      with_reducible assumption
    · with_reducible assumption
  · refine within_irq (hF.one rfl) ?_
    with_reducible assumption

theorem hostSleep_within {F : Part → Bool} {s : State} (hF : Part.All F [.regs, .hdrs, .irq]) {a1 : State} (a2) (k1 :
    s.Within F a1) :
    s.Within F (State.hostSleep a1 a2) := by
  unfold State.hostSleep
  extract_lets +onlyGivenNames y0
  extract_lets +onlyGivenNames y1
  have h2 : s.Within F y1 := by
    unfold y1
    refine putFlag_within (hF.mono rfl) (not_configured rfl) ?_
    with_reducible assumption
  refine within_ite (fun _ => ?_) (fun _ => ?_)
  · apply irqFlush_within (hF.mono rfl)
    with_reducible assumption
  · refine within_ite (fun _ => ?_) (fun _ => ?_)
    · with_reducible assumption
    · refine within_irq (hF.one rfl) ?_
      with_reducible assumption

end Sys2Proof.Machine
end

