-- ==== Sys2Proof/Laws/FramePower.lean ====
section
/-! SUPPORT. The frames of the operations of Machine/Power.lean: the parts that each may change. -/

namespace Sys2Proof.Machine

set_option Elab.async false

theorem flushForSleep_within {F : Part → Bool} {s : State} (hF : Part.All F [.regs, .hdrs, .irq, .qeng, .crown, .fab,
    .ctx, .key]) {a1 : State} (k1 : s.Within F a1) :
    s.Within F (State.flushForSleep a1) := by
  unfold State.flushForSleep
  refine within_ite (fun _ => ?_) (fun _ => ?_)
  · apply flushCheck_within (hF.mono rfl)
    apply flushStart_within (hF.mono rfl)
    refine within_ctx (hF.one rfl) ?_
    with_reducible assumption
  · with_reducible assumption

theorem sleepLoses_within {F : Part → Bool} {s : State} (hF : Part.All F [.regs, .frames, .ctx, .digest, .rng, .key])
    {a1 : State} (k1 : s.Within F a1) :
    s.Within F (State.sleepLoses a1) := by
  unfold State.sleepLoses
  extract_lets +onlyGivenNames y0
  have h1 : s.Within F y0 := by
    unfold y0
    apply within_foldl
    · intro u2 x3 h4
      apply laneClear_within (hF.mono rfl)
      with_reducible assumption
    · with_reducible assumption
  extract_lets +onlyGivenNames y5
  have h6 : s.Within F y5 := by
    unfold y5
    apply within_foldl
    · intro u7 x8 h9
      apply setQuad_within (hF.mono rfl)
      with_reducible assumption
    · with_reducible assumption
  extract_lets +onlyGivenNames y10
  have h11 : s.Within F y10 := by
    unfold y10
    apply within_foldl
    · intro u12 x13 h14
      apply setDcore_within (hF.mono rfl)
      with_reducible assumption
    · with_reducible assumption
  apply pounceStop_within (hF.mono rfl)
  apply stopCells_within (hF.mono rfl)
  with_reducible assumption

theorem imageWritten_within {F : Part → Bool} {s : State} (hF : Part.All F [.hdrs, .irq, .fab, .digest]) {a1 : State}
    (k1 : s.Within F a1) :
    s.Within F (State.imageWritten a1) := by
  unfold State.imageWritten
  split
  · rename_i x0 e1
    with_reducible assumption
  · rename_i x2 x3 u4 e5
    have h6 : s.Within F u4 := by
      refine takeMail_within (hF.mono rfl) ?_ e5
      with_reducible assumption
    extract_lets +onlyGivenNames y7
    have h8 : s.Within F y7 := by
      unfold y7
      apply xferRetry_within (hF.mono rfl)
      with_reducible assumption
    refine within_ite (fun _ => ?_) (fun _ => ?_)
    · with_reducible assumption
    · apply raiseEvent_within (hF.mono rfl)
      refine within_digest (hF.one rfl) ?_
      with_reducible assumption

theorem wakePlls_within {F : Part → Bool} {s : State} (hF : Part.All F [.clk]) {a1 : State} (k1 : s.Within F a1) :
    s.Within F (State.wakePlls a1) := by
  unfold State.wakePlls
  apply updClk_within (hF.mono rfl)
  with_reducible assumption

theorem saveNext_within {F : Part → Bool} {s : State} (hF : Part.All F [.regs, .hdrs, .irq, .fab, .digest, .key]) {a1
    : State} (k1 : s.Within F a1) :
    s.Within F (State.saveNext a1) := by
  unfold State.saveNext
  refine within_ite (fun _ => ?_) (fun _ => ?_)
  · with_reducible assumption
  · split
    · rename_i x0 x1 e2
      extract_lets +onlyGivenNames y3
      have h4 : s.Within F y3 := by
        unfold y3
        apply kdfSeat_within (hF.mono rfl)
        with_reducible assumption
      refine within_ite (fun _ => ?_) (fun _ => ?_)
      · apply kdfNext_within (hF.mono rfl)
        apply saveImage_within (hF.mono rfl)
        apply kdfCount_within (hF.mono rfl)
        with_reducible assumption
      · with_reducible assumption
    · rename_i x5 e6
      with_reducible assumption

theorem laneUnparkDone_within {F : Part → Bool} {s : State} (hF : Part.All F [.frames]) {a1 : State} (a2) (k1 :
    s.Within F a1) :
    s.Within F (State.laneUnparkDone a1 a2) := by
  unfold State.laneUnparkDone
  apply updLane_within (hF.mono rfl)
  with_reducible assumption

theorem pwrRecord_within {F : Part → Bool} {s : State} (hF : Part.All F [.regs]) {a1 : State} (a2) (a3) (k1 : s.Within
    F a1) :
    s.Within F (State.pwrRecord a1 a2 a3) := by
  unfold State.pwrRecord
  extract_lets +onlyGivenNames y0
  have h1 : s.Within F y0 := by
    unfold y0
    refine within_ite (fun _ => ?_) (fun _ => ?_)
    · with_reducible assumption
    · refine put_within (hF.mono rfl) (not_configured rfl) ?_
      refine put_within (hF.mono rfl) (not_configured rfl) ?_
      refine putFlag_within (hF.mono rfl) (not_configured rfl) ?_
      with_reducible assumption
  refine bump_within (hF.mono rfl) (not_configured rfl) ?_
  with_reducible assumption

theorem lanePark_within {F : Part → Bool} {s : State} (hF : Part.All F [.regs, .hdrs, .irq, .frames]) {a1 : State}
    (a2) (k1 : s.Within F a1) :
    s.Within F (State.lanePark a1 a2) := by
  unfold State.lanePark
  extract_lets +onlyGivenNames y0
  refine within_ite (fun _ => ?_) (fun _ => ?_)
  · apply perfCount_within (hF.mono rfl)
    apply setLane_within (hF.mono rfl)
    with_reducible assumption
  · with_reducible assumption

theorem updPwr_within {F : Part → Bool} {s : State} (hF : Part.All F [.pwr]) {a1 : State} (a2) (k1 : s.Within F a1) :
    s.Within F (State.updPwr a1 a2) := by
  unfold State.updPwr
  refine within_pwr (hF.one rfl) ?_
  with_reducible assumption

theorem fenceBank_within {F : Part → Bool} {s : State} (hF : Part.All F [.regs, .ctx, .digest, .rng, .key]) {a1 :
    State} (a2) (k1 : s.Within F a1) :
    s.Within F (State.fenceBank a1 a2) := by
  unfold State.fenceBank
  refine within_ite (fun _ => ?_) (fun _ => ?_)
  · with_reducible assumption
  · extract_lets +onlyGivenNames y0
    have h1 : s.Within F y0 := by
      unfold y0
      apply loseWays_within (hF.mono rfl)
      with_reducible assumption
    extract_lets +onlyGivenNames y2
    extract_lets +onlyGivenNames y3
    have h4 : s.Within F y3 := by
      unfold y3
      refine within_ctx (hF.one rfl) ?_
      with_reducible assumption
    apply pounceDrop_within (hF.mono rfl)
    with_reducible assumption

theorem wakeHdrs_within {F : Part → Bool} {s : State} (hF : Part.All F [.blocks, .hdrs]) {a1 : State} (a2) (k1 :
    s.Within F a1) :
    s.Within F (State.wakeHdrs a1 a2) := by
  unfold State.wakeHdrs
  apply within_foldl
  · intro u0 x1 h2
    split
    · rename_i x3 e4
      with_reducible assumption
    · rename_i x5 x6 e7
      refine within_ite (fun _ => ?_) (fun _ => ?_)
      · with_reducible assumption
      · extract_lets +onlyGivenNames y8
        extract_lets +onlyGivenNames y9
        split
        · rename_i x10
          apply setHdrAt_within (hF.mono rfl)
          with_reducible assumption
        · rename_i x11 x12
          apply setHdrAt_within (hF.mono rfl)
          with_reducible assumption
  · with_reducible assumption

theorem quadPark_within {F : Part → Bool} {s : State} (hF : Part.All F [.frames, .clk]) {a1 : State} (a2) (k1 :
    s.Within F a1) :
    s.Within F (State.quadPark a1 a2) := by
  unfold State.quadPark
  extract_lets +onlyGivenNames y0
  refine within_ite (fun _ => ?_) (fun _ => ?_)
  · extract_lets +onlyGivenNames y1
    apply updClk_within (hF.mono rfl)
    apply updQuad_within (hF.mono rfl)
    with_reducible assumption
  · with_reducible assumption

theorem deepLoses_within {F : Part → Bool} {s : State} (hF : Part.All F [.regs, .hdrs, .irq, .qeng, .fab, .ctx,
    .digest, .bignum, .rng, .custody, .key, .dma, .perf]) {a1 : State} (k1 : s.Within F a1) :
    s.Within F (State.deepLoses a1) := by
  unfold State.deepLoses
  extract_lets +onlyGivenNames y0
  have h1 : s.Within F y0 := by
    unfold y0
    apply ctxDropCaches_within (hF.mono rfl)
    apply loseWays_within (hF.mono rfl)
    with_reducible assumption
  extract_lets +onlyGivenNames y2
  have h3 : s.Within F y2 := by
    unfold y2
    apply attestAbort_within (hF.mono rfl)
    apply clearSecrets_within (hF.mono rfl)
    apply clearPounce_within (hF.mono rfl)
    apply clearDerived_within (hF.mono rfl)
    apply pounceDrop_within (hF.mono rfl)
    with_reducible assumption
  extract_lets +onlyGivenNames y4
  extract_lets +onlyGivenNames y5
  have h6 : s.Within F y5 := by
    unfold y5
    apply perfOff_within (hF.mono rfl)
    apply rngStop_within (hF.mono rfl)
    apply bnWipe_within (hF.mono rfl)
    apply digestWipe_within (hF.mono rfl)
    with_reducible assumption
  extract_lets +onlyGivenNames y7
  extract_lets +onlyGivenNames y8
  extract_lets +onlyGivenNames y9
  extract_lets +onlyGivenNames y10
  have h11 : s.Within F y10 := by
    unfold y10
    refine within_mk ?_ (.inr rfl) (.inr rfl) (.inr rfl) (.inl (hF.one rfl)) (.inr rfl) (.inr rfl) (.inr rfl) (.inr rfl) (.inl (hF.one rfl)) (.inr rfl) (.inl (hF.one rfl)) (.inr rfl) (.inr rfl) (.inr rfl) (.inr ⟨rfl, rfl, rfl⟩) (.inl (hF.one rfl)) (.inr rfl) (.inr rfl) (.inr rfl) (.inr rfl) (.inr rfl) (.inr rfl) (.inr rfl)
    with_reducible assumption
  refine within_perf (hF.one rfl) ?_
  with_reducible assumption

theorem writeKeep_within {F : Part → Bool} {s : State} (hF : Part.All F [.pwr]) {a1 : State} (k1 : s.Within F a1) :
    s.Within F (State.writeKeep a1) := by
  unfold State.writeKeep
  apply updPwr_within (hF.mono rfl)
  with_reducible assumption

theorem domZero_within {F : Part → Bool} {s : State} (hF : Part.All F [.config, .regs, .hdrs, .irq, .qeng, .crown,
    .fab, .frames, .ctx, .digest, .bignum, .rng, .custody, .key, .dma, .clk, .perf]) {a1 : State} (a2) (k1 : s.Within
    F a1) :
    s.Within F (State.domZero a1 a2) := by
  unfold State.domZero
  refine within_ite (fun _ => ?_) (fun _ => ?_)
  · apply withRegs_within (hF.mono rfl)
    apply ctxDropCaches_within (hF.mono rfl)
    apply loseWays_within (hF.mono rfl)
    with_reducible assumption
  · refine within_ite (fun _ => ?_) (fun _ => ?_)
    · with_reducible assumption
    · refine within_ite (fun _ => ?_) (fun _ => ?_)
      · refine within_ctx (hF.one rfl) ?_
        with_reducible assumption
      · refine within_ite (fun _ => ?_) (fun _ => ?_)
        · refine within_digest (hF.one rfl) ?_
          with_reducible assumption
        · refine within_ite (fun _ => ?_) (fun _ => ?_)
          · refine within_digest (hF.one rfl) ?_
            with_reducible assumption
          · apply within_foldl
            · intro u0 x1 h2
              apply wipeBlock_within (hF.mono rfl)
              with_reducible assumption
            · with_reducible assumption

theorem keepLost_within {F : Part → Bool} {s : State} (hF : Part.All F [.tile, .config, .regs, .blocks, .hdrs, .irq,
    .qeng, .crown, .frames, .rng, .key, .pwr, .wrap]) {a1 : State} (k1 : s.Within F a1) :
    s.Within F (State.keepLost a1) := by
  unfold State.keepLost
  extract_lets +onlyGivenNames y0
  have h1 : s.Within F y0 := by
    unfold y0
    apply wakeHdrs_within (hF.mono rfl)
    apply withRegs_within (hF.mono rfl)
    with_reducible assumption
  extract_lets +onlyGivenNames y2
  have h3 : s.Within F y2 := by
    unfold y2
    refine within_mk ?_ (.inr rfl) (.inr rfl) (.inr rfl) (.inr rfl) (.inl (hF.one rfl)) (.inl (hF.one rfl)) (.inr rfl) (.inl (hF.one rfl)) (.inr rfl) (.inr rfl) (.inr rfl) (.inr rfl) (.inr rfl) (.inr rfl) (.inr ⟨rfl, rfl, rfl⟩) (.inr rfl) (.inr rfl) (.inr rfl) (.inr rfl) (.inr rfl) (.inr rfl) (.inr rfl) (.inr rfl)
    with_reducible assumption
  extract_lets +onlyGivenNames y4
  have h5 : s.Within F y4 := by
    unfold y4
    apply updPwr_within (hF.mono rfl)
    with_reducible assumption
  extract_lets +onlyGivenNames y6
  have h7 : s.Within F y6 := by
    unfold y6
    apply closeLocks_within (hF.mono rfl)
    apply enterTile_within (hF.mono rfl)
    with_reducible assumption
  extract_lets +onlyGivenNames y8
  have h9 : s.Within F y8 := by
    unfold y8
    apply raiseFault_within (hF.mono rfl)
    apply pwrRecord_within (hF.mono rfl)
    with_reducible assumption
  apply raiseEvent_within (hF.mono rfl)
  refine putFlag_within (hF.mono rfl) (not_configured rfl) ?_
  with_reducible assumption

theorem coreUp_within {F : Part → Bool} {s : State} (hF : Part.All F [.pwr]) {a1 : State} (k1 : s.Within F a1) :
    s.Within F (State.coreUp a1) := by
  unfold State.coreUp
  apply updPwr_within (hF.mono rfl)
  with_reducible assumption

theorem sleepStart_within {F : Part → Bool} {s : State} (hF : Part.All F [.regs, .hdrs, .irq, .qeng, .crown, .fab,
    .pwr, .perf]) {a1 : State} (a2) (k1 : s.Within F a1) :
    s.Within F (State.sleepStart a1 a2) := by
  unfold State.sleepStart
  apply rewindAll_within (hF.mono rfl)
  apply updPwr_within (hF.mono rfl)
  with_reducible assumption

theorem keepBack_within {F : Part → Bool} {s : State} (hF : Part.All F [.config, .regs, .blocks, .hdrs, .irq, .qeng,
    .fab, .rng, .key, .pwr]) {a1 : State} (a2) (k1 : s.Within F a1) :
    s.Within F (State.keepBack a1 a2) := by
  unfold State.keepBack
  extract_lets +onlyGivenNames y0
  have h1 : s.Within F y0 := by
    unfold y0
    apply wakeHdrs_within (hF.mono rfl)
    apply withRegs_within (hF.mono rfl)
    with_reducible assumption
  extract_lets +onlyGivenNames y2
  have h3 : s.Within F y2 := by
    unfold y2
    apply updPwr_within (hF.mono rfl)
    with_reducible assumption
  extract_lets +onlyGivenNames y4
  extract_lets +onlyGivenNames y5
  have h6 : s.Within F y5 := by
    unfold y5
    refine within_qeng (hF.one rfl) ?_
    with_reducible assumption
  apply within_foldl
  · intro u7 x8 h9
    extract_lets +onlyGivenNames y10
    extract_lets +onlyGivenNames y11
    refine within_ite (fun _ => ?_) (fun _ => ?_)
    · apply setHdr_within (hF.mono rfl)
      with_reducible assumption
    · refine within_ite (fun _ => ?_) (fun _ => ?_)
      · with_reducible assumption
      · refine within_ite (fun _ => ?_) (fun _ => ?_)
        · apply upStarts_within (hF.mono rfl)
          apply setHdr_within (hF.mono rfl)
          with_reducible assumption
        · apply setHdr_within (hF.mono rfl)
          with_reducible assumption
  · with_reducible assumption

theorem sleepAbandon_within {F : Part → Bool} {s : State} (hF : Part.All F [.regs, .hdrs, .irq, .digest, .key, .pwr])
    {a1 : State} (k1 : s.Within F a1) :
    s.Within F (State.sleepAbandon a1) := by
  unfold State.sleepAbandon
  apply kdfSync_within (hF.mono rfl)
  apply raiseEvent_within (hF.mono rfl)
  apply updPwr_within (hF.mono rfl)
  with_reducible assumption

theorem coreFails_within {F : Part → Bool} {s : State} (hF : Part.All F [.config, .regs, .blocks, .hdrs, .qeng,
    .crown, .frames, .pwr]) {a1 : State} (k1 : s.Within F a1) :
    s.Within F (State.coreFails a1) := by
  unfold State.coreFails
  extract_lets +onlyGivenNames y0
  have h1 : s.Within F y0 := by
    unfold y0
    apply wakeHdrs_within (hF.mono rfl)
    apply withRegs_within (hF.mono rfl)
    with_reducible assumption
  extract_lets +onlyGivenNames y2
  have h3 : s.Within F y2 := by
    unfold y2
    refine within_ite (fun _ => ?_) (fun _ => ?_)
    · refine within_mk ?_ (.inr rfl) (.inr rfl) (.inr rfl) (.inr rfl) (.inl (hF.one rfl)) (.inl (hF.one rfl)) (.inr rfl) (.inl (hF.one rfl)) (.inr rfl) (.inr rfl) (.inr rfl) (.inr rfl) (.inr rfl) (.inr rfl) (.inr ⟨rfl, rfl, rfl⟩) (.inr rfl) (.inr rfl) (.inr rfl) (.inr rfl) (.inr rfl) (.inr rfl) (.inr rfl) (.inr rfl)
      with_reducible assumption
    · with_reducible assumption
  apply updPwr_within (hF.mono rfl)
  with_reducible assumption

theorem fenceDomain_within {F : Part → Bool} {s : State} (hF : Part.All F [.tile, .regs, .blocks, .hdrs, .irq, .qeng,
    .crown, .fab, .frames, .ctx, .digest, .bignum, .rng, .key, .dma, .pwr, .perf, .finishes]) {a1 : State} (a2) (a3)
    (k1 : s.Within F a1) :
    s.Within F (State.fenceDomain a1 a2 a3) := by
  unfold State.fenceDomain
  refine within_ite (fun _ => ?_) (fun _ => ?_)
  · apply tileFence_within (hF.mono rfl)
    with_reducible assumption
  · refine within_ite (fun _ => ?_) (fun _ => ?_)
    · apply logFence_within (hF.mono rfl)
      apply fenceBank_within (hF.mono rfl)
      with_reducible assumption
    · refine within_ite (fun _ => ?_) (fun _ => ?_)
      · apply fenceBnUnit_within (hF.mono rfl)
        with_reducible assumption
      · refine within_ite (fun _ => ?_) (fun _ => ?_)
        · apply fenceBnUnit_within (hF.mono rfl)
          with_reducible assumption
        · apply within_foldl
          · intro u0 x1 h2
            apply fence_within (hF.mono rfl)
            with_reducible assumption
          · with_reducible assumption

theorem sleepCommit_within {F : Part → Bool} {s : State} (hF : Part.All F [.tile, .regs, .blocks, .hdrs, .irq, .qeng,
    .crown, .fab, .frames, .ctx, .digest, .bignum, .rng, .custody, .key, .dma, .clk, .pwr, .perf, .wrap]) {a1 : State}
    (k1 : s.Within F a1) :
    s.Within F (State.sleepCommit a1) := by
  unfold State.sleepCommit
  refine within_ite (fun _ => ?_) (fun _ => ?_)
  · with_reducible assumption
  · extract_lets +onlyGivenNames y0
    extract_lets +onlyGivenNames y1
    have h2 : s.Within F y1 := by
      unfold y1
      refine within_ite (fun _ => ?_) (fun _ => ?_)
      · with_reducible assumption
      · apply within_foldl
        · intro u3 x4 h5
          apply setBlk_within (hF.mono rfl)
          apply wipeBlock_within (hF.mono rfl)
          apply setBlk_within (hF.mono rfl)
          with_reducible assumption
        · with_reducible assumption
    extract_lets +onlyGivenNames y6
    have h7 : s.Within F y6 := by
      unfold y6
      apply sleepLoses_within (hF.mono rfl)
      with_reducible assumption
    extract_lets +onlyGivenNames y8
    have h9 : s.Within F y8 := by
      unfold y8
      refine within_ite (fun _ => ?_) (fun _ => ?_)
      · apply deepLoses_within (hF.mono rfl)
        with_reducible assumption
      · with_reducible assumption
    extract_lets +onlyGivenNames y10
    have h11 : s.Within F y10 := by
      unfold y10
      apply updClk_within (hF.mono rfl)
      with_reducible assumption
    extract_lets +onlyGivenNames y12
    extract_lets +onlyGivenNames y13
    have h14 : s.Within F y13 := by
      unfold y13
      refine within_tile (hF.one rfl) ?_
      with_reducible assumption
    extract_lets +onlyGivenNames y15
    have h16 : s.Within F y15 := by
      unfold y15
      apply enterTile_within (hF.mono rfl)
      with_reducible assumption
    extract_lets +onlyGivenNames y17
    apply updPwr_within (hF.mono rfl)
    with_reducible assumption

theorem supplyGlitch_within {F : Part → Bool} {s : State} (hF : Part.All F [.regs, .hdrs, .irq]) {a1 : State} (a2) (k1
    : s.Within F a1) :
    s.Within F (State.supplyGlitch a1 a2) := by
  unfold State.supplyGlitch
  refine within_ite (fun _ => ?_) (fun _ => ?_)
  · with_reducible assumption
  · apply raiseFault_within (hF.mono rfl)
    apply pwrRecord_within (hF.mono rfl)
    with_reducible assumption

theorem wakeEnds_within {F : Part → Bool} {s : State} (hF : Part.All F [.tile, .regs, .blocks, .hdrs, .irq, .fab,
    .rng, .key, .pwr, .wrap]) {a1 : State} (k1 : s.Within F a1) :
    s.Within F (State.wakeEnds a1) := by
  unfold State.wakeEnds
  extract_lets +onlyGivenNames y0
  have h1 : s.Within F y0 := by
    unfold y0
    apply updPwr_within (hF.mono rfl)
    with_reducible assumption
  extract_lets +onlyGivenNames y2
  have h3 : s.Within F y2 := by
    unfold y2
    apply closeLocks_within (hF.mono rfl)
    apply enterTile_within (hF.mono rfl)
    with_reducible assumption
  extract_lets +onlyGivenNames y4
  have h5 : s.Within F y4 := by
    unfold y4
    apply ascending_within (hF.mono rfl)
    apply judgeLatched_within (hF.mono rfl)
    apply raiseEvent_within (hF.mono rfl)
    with_reducible assumption
  apply pumpPorts_within (hF.mono rfl)
  with_reducible assumption

theorem sleepCommitted_within {F : Part → Bool} {s : State} (hF : Part.All F [.hdrs, .irq, .pwr]) {a1 : State} (k1 :
    s.Within F a1) :
    s.Within F (State.sleepCommitted a1) := by
  unfold State.sleepCommitted
  apply irqFlush_within (hF.mono rfl)
  apply updPwr_within (hF.mono rfl)
  with_reducible assumption

theorem wakeAlarmed_within {F : Part → Bool} {s : State} (hF : Part.All F [.tile, .regs, .blocks, .hdrs, .irq, .qeng,
    .crown, .fab, .frames, .ctx, .digest, .bignum, .rng, .custody, .key, .dma, .clk, .pwr, .perf, .wrap]) {a1 : State}
    (k1 : s.Within F a1) :
    s.Within F (State.wakeAlarmed a1) := by
  unfold State.wakeAlarmed
  extract_lets +onlyGivenNames y0
  extract_lets +onlyGivenNames y1
  have h2 : s.Within F y1 := by
    unfold y1
    apply updPwr_within (hF.mono rfl)
    with_reducible assumption
  extract_lets +onlyGivenNames y3
  have h4 : s.Within F y3 := by
    unfold y3
    apply enterAlarmed_within (hF.mono rfl)
    with_reducible assumption
  extract_lets +onlyGivenNames y5
  extract_lets +onlyGivenNames y6
  have h7 : s.Within F y6 := by
    unfold y6
    refine within_clk (hF.one rfl) ?_
    with_reducible assumption
  extract_lets +onlyGivenNames y8
  have h9 : s.Within F y8 := by
    unfold y8
    refine setReg_within (hF.mono rfl) (not_configured rfl) ?_
    apply allOff_within (hF.mono rfl)
    apply fenceQueues_within (hF.mono rfl)
    with_reducible assumption
  extract_lets +onlyGivenNames y10
  have h11 : s.Within F y10 := by
    unfold y10
    refine within_ite (fun _ => ?_) (fun _ => ?_)
    · refine setReg_within (hF.mono rfl) (not_configured rfl) ?_
      with_reducible assumption
    · with_reducible assumption
  apply ascending_within (hF.mono rfl)
  apply judgeLatched_within (hF.mono rfl)
  apply raiseEvent_within (hF.mono rfl)
  apply closeLocks_within (hF.mono rfl)
  with_reducible assumption

theorem sleepDrainDone_within {F : Part → Bool} {s : State} (hF : Part.All F [.regs, .hdrs, .irq, .qeng, .crown, .fab,
    .ctx, .digest, .key, .pwr]) {a1 : State} (k1 : s.Within F a1) :
    s.Within F (State.sleepDrainDone a1) := by
  unfold State.sleepDrainDone
  refine within_ite (fun _ => ?_) (fun _ => ?_)
  · with_reducible assumption
  · refine within_ite (fun _ => ?_) (fun _ => ?_)
    · extract_lets +onlyGivenNames y0
      extract_lets +onlyGivenNames y1
      have h2 : s.Within F y1 := by
        unfold y1
        refine within_digest (hF.one rfl) ?_
        with_reducible assumption
      apply saveNext_within (hF.mono rfl)
      apply flushForSleep_within (hF.mono rfl)
      apply updPwr_within (hF.mono rfl)
      with_reducible assumption
    · extract_lets +onlyGivenNames y3
      have h4 : s.Within F y3 := by
        unfold y3
        refine within_ite (fun _ => ?_) (fun _ => ?_)
        · apply flushForSleep_within (hF.mono rfl)
          with_reducible assumption
        · with_reducible assumption
      apply sleepCommitted_within (hF.mono rfl)
      with_reducible assumption

theorem pgoodTimeout_within {F : Part → Bool} {s : State} (hF : Part.All F [.tile, .config, .regs, .blocks, .hdrs,
    .irq, .qeng, .crown, .fab, .frames, .ctx, .digest, .bignum, .rng, .key, .dma, .pwr, .perf, .finishes]) {a1 :
    State} (a2) (a3) (k1 : s.Within F a1) :
    s.Within F (State.pgoodTimeout a1 a2 a3) := by
  unfold State.pgoodTimeout
  refine within_ite (fun _ => ?_) (fun _ => ?_)
  · with_reducible assumption
  · refine within_ite (fun _ => ?_) (fun _ => ?_)
    · apply transient_within (hF.mono rfl)
      with_reducible assumption
    · extract_lets +onlyGivenNames y0
      extract_lets +onlyGivenNames y1
      have h2 : s.Within F y1 := by
        unfold y1
        apply raiseFault_within (hF.mono rfl)
        apply pwrRecord_within (hF.mono rfl)
        apply lasting_within (hF.mono rfl)
        with_reducible assumption
      extract_lets +onlyGivenNames y3
      extract_lets +onlyGivenNames y4
      have h5 : s.Within F y4 := by
        unfold y4
        refine within_ite (fun _ => ?_) (fun _ => ?_)
        · apply logFence_within (hF.mono rfl)
          with_reducible assumption
        · apply fenceDomain_within (hF.mono rfl)
          refine within_ite (fun _ => ?_) (fun _ => ?_)
          · apply coreFails_within (hF.mono rfl)
            with_reducible assumption
          · with_reducible assumption
      apply ascending_within (hF.mono rfl)
      with_reducible assumption

theorem retentionBad_within {F : Part → Bool} {s : State} (hF : Part.All F [.tile, .config, .regs, .blocks, .hdrs,
    .irq, .qeng, .crown, .fab, .frames, .ctx, .digest, .bignum, .rng, .custody, .key, .dma, .clk, .pwr, .perf,
    .finishes]) {a1 : State} (a2) (k1 : s.Within F a1) :
    s.Within F (State.retentionBad a1 a2) := by
  unfold State.retentionBad
  apply ascending_within (hF.mono rfl)
  apply fenceDomain_within (hF.mono rfl)
  apply domZero_within (hF.mono rfl)
  apply raiseFault_within (hF.mono rfl)
  apply pwrRecord_within (hF.mono rfl)
  with_reducible assumption

theorem sleepGo_within {F : Part → Bool} {s : State} (hF : Part.All F [.regs, .hdrs, .irq, .qeng, .crown, .fab, .pwr,
    .perf]) {a1 : State} (a2) (k1 : s.Within F a1) :
    s.Within F (State.sleepGo a1 a2) := by
  unfold State.sleepGo
  refine within_ite (fun _ => ?_) (fun _ => ?_)
  · apply sleepStart_within (hF.mono rfl)
    with_reducible assumption
  · apply seq_within (hF.mono rfl)
    with_reducible assumption

theorem sleepSaveDone_within {F : Part → Bool} {s : State} (hF : Part.All F [.regs, .hdrs, .irq, .fab, .digest, .key,
    .pwr]) {a1 : State} (k1 : s.Within F a1) :
    s.Within F (State.sleepSaveDone a1) := by
  unfold State.sleepSaveDone
  refine within_ite (fun _ => ?_) (fun _ => ?_)
  · with_reducible assumption
  · extract_lets +onlyGivenNames y0
    extract_lets +onlyGivenNames y1
    have h2 : s.Within F y1 := by
      unfold y1
      apply imageWritten_within (hF.mono rfl)
      with_reducible assumption
    refine within_ite (fun _ => ?_) (fun _ => ?_)
    · apply sleepAbandon_within (hF.mono rfl)
      with_reducible assumption
    · refine within_ite (fun _ => ?_) (fun _ => ?_)
      · apply saveNext_within (hF.mono rfl)
        with_reducible assumption
      · apply sleepCommitted_within (hF.mono rfl)
        apply raiseEvent_within (hF.mono rfl)
        apply writeKeep_within (hF.mono rfl)
        with_reducible assumption

theorem pgoodLost_within {F : Part → Bool} {s : State} (hF : Part.All F [.tile, .regs, .blocks, .hdrs, .irq, .qeng,
    .crown, .fab, .frames, .ctx, .digest, .bignum, .rng, .key, .dma, .pwr, .perf, .finishes]) {a1 : State} (a2) (k1 :
    s.Within F a1) :
    s.Within F (State.pgoodLost a1 a2) := by
  unfold State.pgoodLost
  refine within_ite (fun _ => ?_) (fun _ => ?_)
  · with_reducible assumption
  · apply ascending_within (hF.mono rfl)
    apply fenceDomain_within (hF.mono rfl)
    apply raiseFault_within (hF.mono rfl)
    apply pwrRecord_within (hF.mono rfl)
    with_reducible assumption

theorem deepEnds_within {F : Part → Bool} {s : State} (hF : Part.All F [.tile, .regs, .blocks, .hdrs, .irq, .qeng,
    .crown, .fab, .ctx, .digest, .rng, .key, .pwr, .perf, .wrap]) {a1 : State} (k1 : s.Within F a1) :
    s.Within F (State.deepEnds a1) := by
  unfold State.deepEnds
  refine within_ite (fun _ => ?_) (fun _ => ?_)
  · with_reducible assumption
  · apply followAll_within (hF.mono rfl)
    apply pounceFresh_within (hF.mono rfl)
    apply wakeEnds_within (hF.mono rfl)
    refine putFlag_within (hF.mono rfl) (not_configured rfl) ?_
    with_reducible assumption

theorem sleepCancel_within {F : Part → Bool} {s : State} (hF : Part.All F [.regs, .hdrs, .irq, .digest, .key, .pwr])
    {a1 : State} (k1 : s.Within F a1) :
    s.Within F (State.sleepCancel a1) := by
  unfold State.sleepCancel
  refine within_ite (fun _ => ?_) (fun _ => ?_)
  · apply updPwr_within (hF.mono rfl)
    with_reducible assumption
  · apply sleepAbandon_within (hF.mono rfl)
    with_reducible assumption

theorem wakeSleep_within {F : Part → Bool} {s : State} (hF : Part.All F [.tile, .config, .regs, .blocks, .hdrs, .irq,
    .qeng, .crown, .fab, .frames, .ctx, .digest, .bignum, .rng, .custody, .key, .dma, .clk, .pwr, .perf, .wrap,
    .finishes]) {a1 : State} (a2) (k1 : s.Within F a1) :
    s.Within F (State.wakeSleep a1 a2) := by
  unfold State.wakeSleep
  extract_lets +onlyGivenNames y0
  extract_lets +onlyGivenNames y1
  have h2 : s.Within F y1 := by
    unfold y1
    apply wakeEnds_within (hF.mono rfl)
    apply wakePlls_within (hF.mono rfl)
    with_reducible assumption
  extract_lets +onlyGivenNames y3
  have h4 : s.Within F y3 := by
    unfold y3
    apply within_foldl
    · intro u5 x6 h7
      apply retentionBad_within (hF.mono rfl)
      with_reducible assumption
    · with_reducible assumption
  extract_lets +onlyGivenNames y8
  have h9 : s.Within F y8 := by
    unfold y8
    apply pounceDue_within (hF.mono rfl)
    with_reducible assumption
  extract_lets +onlyGivenNames y10
  extract_lets +onlyGivenNames y11
  have h12 : s.Within F y11 := by
    unfold y11
    refine within_ite (fun _ => ?_) (fun _ => ?_)
    · refine within_rng (hF.one rfl) ?_
      with_reducible assumption
    · with_reducible assumption
  extract_lets +onlyGivenNames y13
  have h14 : s.Within F y13 := by
    unfold y13
    apply startCells_within (hF.mono rfl)
    with_reducible assumption
  extract_lets +onlyGivenNames y15
  extract_lets +onlyGivenNames y16
  have h17 : s.Within F y16 := by
    unfold y16
    refine within_ite (fun _ => ?_) (fun _ => ?_)
    · apply rngLevels_within (hF.mono rfl)
      refine within_rng (hF.one rfl) ?_
      with_reducible assumption
    · with_reducible assumption
  apply followAll_within (hF.mono rfl)
  apply kdfSync_within (hF.mono rfl)
  apply coresGo_within (hF.mono rfl)
  with_reducible assumption

theorem alarmedWake_within {F : Part → Bool} {s : State} (hF : Part.All F [.tile, .config, .regs, .blocks, .hdrs,
    .irq, .qeng, .crown, .fab, .frames, .ctx, .digest, .bignum, .rng, .custody, .key, .dma, .clk, .pwr, .perf, .wrap,
    .finishes]) {a1 : State} (a2) (a3) (k1 : s.Within F a1) :
    s.Within F (State.alarmedWake a1 a2 a3) := by
  unfold State.alarmedWake
  refine within_ite (fun _ => ?_) (fun _ => ?_)
  · extract_lets +onlyGivenNames y0
    have h1 : s.Within F y0 := by
      unfold y0
      apply within_foldl
      · intro u2 x3 h4
        extract_lets +onlyGivenNames y5
        have h6 : s.Within F y5 := by
          unfold y5
          apply retentionBad_within (hF.mono rfl)
          with_reducible assumption
        refine within_ite (fun _ => ?_) (fun _ => ?_)
        · apply logFence_within (hF.mono rfl)
          with_reducible assumption
        · with_reducible assumption
      · with_reducible assumption
    apply wakeAlarmed_within (hF.mono rfl)
    with_reducible assumption
  · extract_lets +onlyGivenNames y7
    have h8 : s.Within F y7 := by
      unfold y7
      apply updPwr_within (hF.mono rfl)
      apply wakeHdrs_within (hF.mono rfl)
      apply withRegs_within (hF.mono rfl)
      with_reducible assumption
    extract_lets +onlyGivenNames y9
    have h10 : s.Within F y9 := by
      unfold y9
      split
      · rename_i x11 x12 x13 e14
        apply updPwr_within (hF.mono rfl)
        apply wakeHdrs_within (hF.mono rfl)
        apply withRegs_within (hF.mono rfl)
        with_reducible assumption
      · rename_i x15 x16 x17 e18
        apply raiseFault_within (hF.mono rfl)
        apply pwrRecord_within (hF.mono rfl)
        with_reducible assumption
    apply wakeAlarmed_within (hF.mono rfl)
    refine putFlag_within (hF.mono rfl) (not_configured rfl) ?_
    with_reducible assumption

theorem wakeSource_within {F : Part → Bool} {s : State} (hF : Part.All F [.regs, .hdrs, .irq, .digest, .key, .pwr])
    {a1 : State} (a2) (k1 : s.Within F a1) :
    s.Within F (State.wakeSource a1 a2) := by
  unfold State.wakeSource
  refine within_ite (fun _ => ?_) (fun _ => ?_)
  · with_reducible assumption
  · extract_lets +onlyGivenNames y0
    extract_lets +onlyGivenNames y1
    have h2 : s.Within F y1 := by
      unfold y1
      refine putFlag_within (hF.mono rfl) (not_configured rfl) ?_
      refine put_within (hF.mono rfl) (not_configured rfl) ?_
      with_reducible assumption
    split
    · rename_i x3 e4
      apply sleepCancel_within (hF.mono rfl)
      with_reducible assumption
    · rename_i x5 e6
      apply sleepCancel_within (hF.mono rfl)
      with_reducible assumption
    · rename_i x7 e8
      apply updPwr_within (hF.mono rfl)
      with_reducible assumption
    · rename_i x9 e10
      apply updPwr_within (hF.mono rfl)
      with_reducible assumption
    · rename_i x11 e12
      with_reducible assumption
    · rename_i x13 e14
      with_reducible assumption

theorem sleepTimeout_within {F : Part → Bool} {s : State} (hF : Part.All F [.regs, .hdrs, .irq, .digest, .key, .pwr])
    {a1 : State} (k1 : s.Within F a1) :
    s.Within F (State.sleepTimeout a1) := by
  unfold State.sleepTimeout
  refine within_ite (fun _ => ?_) (fun _ => ?_)
  · apply sleepCancel_within (hF.mono rfl)
    with_reducible assumption
  · with_reducible assumption

theorem wakePinEvent_within {F : Part → Bool} {s : State} (hF : Part.All F [.regs, .hdrs, .irq, .digest, .key, .pwr])
    {a1 : State} (k1 : s.Within F a1) :
    s.Within F (State.wakePinEvent a1) := by
  unfold State.wakePinEvent
  refine within_ite (fun _ => ?_) (fun _ => ?_)
  · apply wakeSource_within (hF.mono rfl)
    with_reducible assumption
  · with_reducible assumption

theorem pwrCommand_within {F : Part → Bool} {s : State} (hF : Part.All F [.tile, .regs, .blocks, .hdrs, .irq, .digest,
    .rng, .key, .pwr, .wrap]) {a1 : State} (a2) (k1 : s.Within F a1) :
    s.Within F (State.pwrCommand a1 a2) := by
  unfold State.pwrCommand
  refine within_ite (fun _ => ?_) (fun _ => ?_)
  · refine within_ite (fun _ => ?_) (fun _ => ?_)
    · apply enterTile_within (hF.mono rfl)
      apply coreUp_within (hF.mono rfl)
      with_reducible assumption
    · apply seq_within (hF.mono rfl)
      with_reducible assumption
  · refine within_ite (fun _ => ?_) (fun _ => ?_)
    · refine within_ite (fun _ => ?_) (fun _ => ?_)
      · apply seq_within (hF.mono rfl)
        with_reducible assumption
      · apply wakeSource_within (hF.mono rfl)
        with_reducible assumption
    · refine within_ite (fun _ => ?_) (fun _ => ?_)
      · refine within_ite (fun _ => ?_) (fun _ => ?_)
        · apply sleepCancel_within (hF.mono rfl)
          with_reducible assumption
        · apply seq_within (hF.mono rfl)
          with_reducible assumption
      · apply seq_within (hF.mono rfl)
        with_reducible assumption

theorem wakeComplete_within {F : Part → Bool} {s : State} (hF : Part.All F [.tile, .config, .regs, .blocks, .hdrs,
    .irq, .qeng, .crown, .fab, .frames, .ctx, .digest, .bignum, .rng, .custody, .key, .dma, .clk, .pwr, .perf, .wrap,
    .finishes]) {a1 : State} (a2) (a3) (k1 : s.Within F a1) :
    s.Within F (State.wakeComplete a1 a2 a3) := by
  unfold State.wakeComplete
  refine within_ite (fun _ => ?_) (fun _ => ?_)
  · with_reducible assumption
  · refine within_ite (fun _ => ?_) (fun _ => ?_)
    · apply alarmedWake_within (hF.mono rfl)
      apply releaseSafe_within (hF.mono rfl)
      with_reducible assumption
    · refine within_ite (fun _ => ?_) (fun _ => ?_)
      · apply wakeSleep_within (hF.mono rfl)
        apply releaseSafe_within (hF.mono rfl)
        with_reducible assumption
      · refine within_ite (fun _ => ?_) (fun _ => ?_)
        · apply deepEnds_within (hF.mono rfl)
          with_reducible assumption
        · extract_lets +onlyGivenNames y0
          have h1 : s.Within F y0 := by
            unfold y0
            apply wakePlls_within (hF.mono rfl)
            apply releaseSafe_within (hF.mono rfl)
            with_reducible assumption
          split
          · rename_i x2 x3 x4 e5
            apply deepEnds_within (hF.mono rfl)
            apply keepBack_within (hF.mono rfl)
            with_reducible assumption
          · rename_i x6 x7 x8 e9
            apply ascending_within (hF.mono rfl)
            apply judgeLatched_within (hF.mono rfl)
            apply keepLost_within (hF.mono rfl)
            with_reducible assumption

theorem wakeTimer_within {F : Part → Bool} {s : State} (hF : Part.All F [.regs, .hdrs, .irq, .digest, .key, .pwr]) {a1
    : State} (k1 : s.Within F a1) :
    s.Within F (State.wakeTimer a1) := by
  unfold State.wakeTimer
  refine within_ite (fun _ => ?_) (fun _ => ?_)
  · apply wakeSource_within (hF.mono rfl)
    with_reducible assumption
  · with_reducible assumption

theorem wakePin_within {F : Part → Bool} {s : State} (hF : Part.All F [.regs, .hdrs, .irq, .digest, .key, .pwr,
    .tamp]) {a1 : State} (k1 : s.Within F a1) :
    s.Within F (State.wakePin a1) := by
  unfold State.wakePin
  extract_lets +onlyGivenNames y0
  refine within_ite (fun _ => ?_) (fun _ => ?_)
  · with_reducible assumption
  · apply wakePinEvent_within (hF.mono rfl)
    apply setQual_within (hF.mono rfl)
    with_reducible assumption

end Sys2Proof.Machine
end

