-- ==== Sys2Proof/Laws/FrameSched.lean ====
section
/-! SUPPORT. The frames of the operations of Machine/Sched.lean: the parts that each may change. -/

namespace Sys2Proof.Machine

set_option Elab.async false

theorem marker_within {F : Part → Bool} {s : State} (hF : Part.All F [.tile, .regs, .blocks, .hdrs, .irq, .qeng,
    .crown, .fab, .rng, .key, .wrap]) {a1 : State} (a2) (k1 : s.Within F a1) :
    s.Within F (State.marker a1 a2) := by
  unfold State.marker
  split
  · rename_i x0 e1
    with_reducible assumption
  · rename_i x2 x3 e4
    refine within_ite (fun _ => ?_) (fun _ => ?_)
    · with_reducible assumption
    · apply pushStatus_within (hF.mono rfl)
      apply enterRun_within (hF.mono rfl)
      apply unissue_within (hF.mono rfl)
      with_reducible assumption

theorem takeCbuf_within {F : Part → Bool} {s : State} (hF : Part.All F [.qeng]) {a1 : State} (a2) (k1 : s.Within F a1)
    :
    s.Within F (State.takeCbuf a1 a2) := by
  unfold State.takeCbuf
  split
  · rename_i x0 e1
    with_reducible assumption
  · rename_i x2 x3 e4
    refine within_ite (fun _ => ?_) (fun _ => ?_)
    · with_reducible assumption
    · split
      · rename_i x5 e6
        with_reducible assumption
      · rename_i x7 x8 e9
        refine within_qeng (hF.one rfl) ?_
        with_reducible assumption

theorem visitEnds_within {F : Part → Bool} {s : State} (hF : Part.All F [.qeng]) {a1 : State} (k1 : s.Within F a1) :
    s.Within F (State.visitEnds a1) := by
  unfold State.visitEnds
  refine within_qeng (hF.one rfl) ?_
  with_reducible assumption

theorem markCbuf_within {F : Part → Bool} {s : State} (hF : Part.All F [.regs, .hdrs, .irq, .qeng]) {a1 : State} (k1 :
    s.Within F a1) :
    s.Within F (State.markCbuf a1) := by
  unfold State.markCbuf
  apply within_foldl
  · intro u0 x1 h2
    extract_lets +onlyGivenNames y3
    extract_lets +onlyGivenNames y4
    extract_lets +onlyGivenNames y5
    have h6 : s.Within F y5 := by
      unfold y5
      apply setRq_within (hF.mono rfl)
      with_reducible assumption
    refine within_ite (fun _ => ?_) (fun _ => ?_)
    · apply raiseEvent_within (hF.mono rfl)
      apply perfCount_within (hF.mono rfl)
      with_reducible assumption
    · with_reducible assumption
  · with_reducible assumption

theorem newRound_within {F : Part → Bool} {s : State} (hF : Part.All F [.qeng]) {a1 : State} (k1 : s.Within F a1) :
    s.Within F (State.newRound a1) := by
  unfold State.newRound
  extract_lets +onlyGivenNames y0
  extract_lets +onlyGivenNames y1
  extract_lets +onlyGivenNames y2
  have h3 : s.Within F y2 := by
    unfold y2
    refine within_qeng (hF.one rfl) ?_
    with_reducible assumption
  extract_lets +onlyGivenNames y4
  have h5 : s.Within F y4 := by
    unfold y4
    apply within_foldl
    · intro u6 x7 h8
      apply updRq_within (hF.mono rfl)
      with_reducible assumption
    · with_reducible assumption
  extract_lets +onlyGivenNames y9
  refine within_qeng (hF.one rfl) ?_
  with_reducible assumption

theorem numbered_within {F : Part → Bool} {s : State} (hF : Part.All F [.qeng]) {a1 : State} (a2) (k1 : s.Within F a1)
    :
    s.Within F (State.numbered a1 a2).2 := by
  unfold State.numbered
  refine within_ite_snd (fun _ => ?_) (fun _ => ?_)
  · extract_lets +onlyGivenNames y0
    refine within_pair_snd ?_
    apply updRq_within (hF.mono rfl)
    with_reducible assumption
  · refine within_pair_snd ?_
    with_reducible assumption

theorem toEngine_within {F : Part → Bool} {s : State} (hF : Part.All F [.hdrs, .irq, .crown]) {a1 : State} (a2) (a3)
    (a4) (a5 : State → Bool × State) (k1 : s.Within F a1) (hf5 : ∀ z0, s.Within F z0 → s.Within F (a5 z0).2) :
    s.Within F (State.toEngine a1 a2 a3 a4 a5).2 := by
  unfold State.toEngine
  split
  · rename_i x0 e1
    refine within_ite_snd (fun _ => ?_) (fun _ => ?_)
    · refine within_pair_snd ?_
      with_reducible assumption
    · apply hf5
      with_reducible assumption
  · rename_i x2 e3
    refine within_pair_snd ?_
    apply push_within (hF.mono rfl)
    with_reducible assumption
  · rename_i x4 e5 e6
    refine within_pair_snd ?_
    with_reducible assumption

theorem digestTake_within {F : Part → Bool} {s : State} (hF : Part.All F [.regs, .hdrs, .irq, .crown, .fab, .digest,
    .key]) {a1 : State} (a2) (k1 : s.Within F a1) :
    s.Within F (State.digestTake a1 a2).2 := by
  unfold State.digestTake
  extract_lets +onlyGivenNames y0
  have h1 : s.Within F y0.2 := by
    unfold y0
    apply digestDispatch_within (hF.mono rfl)
    with_reducible assumption
  refine within_ite_snd (fun _ => ?_) (fun _ => ?_)
  · refine within_pair_snd ?_
    with_reducible assumption
  · with_reducible assumption

theorem route_within {F : Part → Bool} {s : State} (hF : Part.All F [.regs, .hdrs, .irq, .crown, .fab, .ctx, .digest,
    .bignum, .rng, .key]) {a1 : State} (a2) (k1 : s.Within F a1) :
    s.Within F (State.route a1 a2).2 := by
  unfold State.route
  extract_lets +onlyGivenNames y0
  extract_lets +onlyGivenNames y1
  refine within_ite_snd (fun _ => ?_) (fun _ => ?_)
  · apply toEngine_within (hF.mono rfl)
    · with_reducible assumption
    · intro u2 h3
      apply digestTake_within (hF.mono rfl)
      with_reducible assumption
  · refine within_ite_snd (fun _ => ?_) (fun _ => ?_)
    · apply toEngine_within (hF.mono rfl)
      · with_reducible assumption
      · intro u4 h5
        apply bnDispatch_within (hF.mono rfl)
        with_reducible assumption
    · refine within_ite_snd (fun _ => ?_) (fun _ => ?_)
      · refine within_pair_snd ?_
        with_reducible assumption
      · refine within_ite_snd (fun _ => ?_) (fun _ => ?_)
        · apply toEngine_within (hF.mono rfl)
          · with_reducible assumption
          · intro u6 h7
            refine within_pair_snd ?_
            apply keyDispatch_within (hF.mono rfl)
            with_reducible assumption
        · refine within_ite_snd (fun _ => ?_) (fun _ => ?_)
          · refine within_ite_snd (fun _ => ?_) (fun _ => ?_)
            · refine within_pair_snd ?_
              with_reducible assumption
            · extract_lets +onlyGivenNames y8
              have h9 : s.Within F y8 := by
                unfold y8
                apply fnCount_within (hF.mono rfl)
                apply perfCount_within (hF.mono rfl)
                with_reducible assumption
              split
              rename_i x10 x11 u12 e13
              have h14 : s.Within F u12 := by
                refine within_snd e13 ?_
                apply newJob_within (hF.mono rfl)
                with_reducible assumption
              refine within_pair_snd ?_
              refine within_rng (hF.one rfl) ?_
              with_reducible assumption
          · apply toEngine_within (hF.mono rfl)
            · with_reducible assumption
            · intro u15 h16
              split
              rename_i x17 x18 u19 e20
              have h21 : s.Within F u19 := by
                refine within_snd e20 ?_
                apply newJob_within (hF.mono rfl)
                with_reducible assumption
              refine within_pair_snd ?_
              refine within_ctx (hF.one rfl) ?_
              with_reducible assumption

theorem numberAll_within {F : Part → Bool} {s : State} (hF : Part.All F [.qeng]) {a1 : State} (a2) (k1 : s.Within F
    a1) :
    s.Within F (State.numberAll a1 a2).2 := by
  induction' a2 with x xs ih generalizing a1
  · rw [State.numberAll]
    refine within_pair_snd ?_
    with_reducible assumption
  · rw [State.numberAll]
    split
    rename_i x0 x1 u2 e3
    have h4 : s.Within F u2 := by
      refine within_snd e3 ?_
      apply numbered_within (hF.mono rfl)
      with_reducible assumption
    split
    rename_i x5 x6 u7 e8
    have h9 : s.Within F u7 := by
      refine within_snd e8 ?_
      apply ih
      with_reducible assumption
    refine within_pair_snd ?_
    with_reducible assumption

theorem chainNext_within {F : Part → Bool} {s : State} (hF : Part.All F [.tile, .regs, .blocks, .hdrs, .irq, .qeng,
    .crown, .fab, .ctx, .digest, .bignum, .rng, .key, .wrap]) {a1 : State} (a2) (k1 : s.Within F a1) :
    s.Within F (State.chainNext a1 a2) := by
  unfold State.chainNext
  split
  · rename_i x0 e1
    with_reducible assumption
  · rename_i x2 x3 e4
    split
    · rename_i x5 e6
      with_reducible assumption
    · rename_i x7 x8 x9 e10
      refine within_ite (fun _ => ?_) (fun _ => ?_)
      · with_reducible assumption
      · extract_lets +onlyGivenNames y11
        have h12 : s.Within F y11 := by
          unfold y11
          apply updChain_within (hF.mono rfl)
          with_reducible assumption
        refine within_ite (fun _ => ?_) (fun _ => ?_)
        · refine within_qeng (hF.one rfl) ?_
          with_reducible assumption
        · refine within_ite (fun _ => ?_) (fun _ => ?_)
          · apply pushStatus_within (hF.mono rfl)
            apply enterRun_within (hF.mono rfl)
            apply refill_within (hF.mono rfl)
            with_reducible assumption
          · split
            rename_i x13 x14 u15 e16
            have h17 : s.Within F u15 := by
              refine within_snd e16 ?_
              apply route_within (hF.mono rfl)
              apply takeCbuf_within (hF.mono rfl)
              apply refill_within (hF.mono rfl)
              with_reducible assumption
            refine within_ite (fun _ => ?_) (fun _ => ?_)
            · apply enterRun_within (hF.mono rfl)
              apply lookupDispatched_within (hF.mono rfl)
              with_reducible assumption
            · with_reducible assumption

theorem startUnit_within {F : Part → Bool} {s : State} (hF : Part.All F [.regs, .qeng, .crown]) {a1 : State} (a2) (k1
    : s.Within F a1) :
    s.Within F (State.startUnit a1 a2) := by
  unfold State.startUnit
  extract_lets +onlyGivenNames y0
  extract_lets +onlyGivenNames y1
  extract_lets +onlyGivenNames y2
  extract_lets +onlyGivenNames y3
  have h4 : s.Within F y3 := by
    unfold y3
    apply updRq_within (hF.mono rfl)
    with_reducible assumption
  extract_lets +onlyGivenNames y5
  have h6 : s.Within F y5 := by
    unfold y5
    apply grant_within (hF.mono rfl)
    with_reducible assumption
  split
  rename_i x7 x8 u9 e10
  have h11 : s.Within F u9 := by
    refine within_snd e10 ?_
    apply numberAll_within (hF.mono rfl)
    with_reducible assumption
  extract_lets +onlyGivenNames y12
  refine within_qeng (hF.one rfl) ?_
  with_reducible assumption

theorem dispatch_within {F : Part → Bool} {s : State} (hF : Part.All F [.tile, .regs, .blocks, .hdrs, .irq, .qeng,
    .crown, .fab, .ctx, .digest, .bignum, .rng, .key, .wrap]) {a1 : State} (a2) (k1 : s.Within F a1) :
    s.Within F (State.dispatch a1 a2) := by
  unfold State.dispatch
  split
  · rename_i x0 e1
    with_reducible assumption
  · rename_i x2 x3 e4
    refine within_ite (fun _ => ?_) (fun _ => ?_)
    · with_reducible assumption
    · split
      rename_i x5 x6 u7 e8
      have h9 : s.Within F u7 := by
        refine within_snd e8 ?_
        apply route_within (hF.mono rfl)
        apply takeCbuf_within (hF.mono rfl)
        apply unissue_within (hF.mono rfl)
        with_reducible assumption
      refine within_ite (fun _ => ?_) (fun _ => ?_)
      · apply enterRun_within (hF.mono rfl)
        apply lookupDispatched_within (hF.mono rfl)
        with_reducible assumption
      · with_reducible assumption

theorem visit_within {F : Part → Bool} {s : State} (hF : Part.All F [.regs, .qeng, .crown]) {a1 : State} (a2) (k1 :
    s.Within F a1) :
    s.Within F (State.visit a1 a2) := by
  unfold State.visit
  extract_lets +onlyGivenNames y0
  extract_lets +onlyGivenNames y1
  have h2 : s.Within F y1 := by
    unfold y1
    refine within_ite (fun _ => ?_) (fun _ => ?_)
    · with_reducible assumption
    · refine within_qeng (hF.one rfl) ?_
      with_reducible assumption
  extract_lets +onlyGivenNames y3
  extract_lets +onlyGivenNames y4
  extract_lets +onlyGivenNames y5
  have h6 : s.Within F y5 := by
    unfold y5
    apply startUnit_within (hF.mono rfl)
    with_reducible assumption
  extract_lets +onlyGivenNames y7
  extract_lets +onlyGivenNames y8
  have h9 : s.Within F y8 := by
    unfold y8
    refine within_qeng (hF.one rfl) ?_
    with_reducible assumption
  refine within_ite (fun _ => ?_) (fun _ => ?_)
  · apply visitEnds_within (hF.mono rfl)
    with_reducible assumption
  · with_reducible assumption

theorem visits_within {F : Part → Bool} {s : State} (hF : Part.All F [.regs, .hdrs, .irq, .qeng, .crown, .fab]) {a1 :
    State} (a2) (a3) (a4) (k1 : s.Within F a1) :
    s.Within F (State.visits a1 a2 a3 a4) := by
  induction' a2 with x ih generalizing a1 a3 a4
  · rw [State.visits]
    with_reducible assumption
  · rw [State.visits]
    split
    · rename_i x0 x1 x2 x3 e4
      refine within_ite (fun _ => ?_) (fun _ => ?_)
      · with_reducible assumption
      · extract_lets +onlyGivenNames y5
        extract_lets +onlyGivenNames y6
        have h7 : s.Within F y6 := by
          unfold y6
          apply issueOne_within (hF.mono rfl)
          with_reducible assumption
        extract_lets +onlyGivenNames y8
        have h9 : s.Within F y8 := by
          unfold y8
          refine within_ite (fun _ => ?_) (fun _ => ?_)
          · apply rqDrainEnd_within (hF.mono rfl)
            apply refill_within (hF.mono rfl)
            with_reducible assumption
          · with_reducible assumption
        apply ih
        with_reducible assumption
    · rename_i x10 e11
      refine within_ite (fun _ => ?_) (fun _ => ?_)
      · with_reducible assumption
      · split
        · rename_i x12 e13
          refine within_ite (fun _ => ?_) (fun _ => ?_)
          · apply ih
            apply newRound_within (hF.mono rfl)
            with_reducible assumption
          · refine within_ite (fun _ => ?_) (fun _ => ?_)
            · with_reducible assumption
            · apply visitEnds_within (hF.mono rfl)
              with_reducible assumption
        · rename_i x14 x15 e16
          extract_lets +onlyGivenNames y17
          refine within_ite (fun _ => ?_) (fun _ => ?_)
          · with_reducible assumption
          · apply ih
            apply visit_within (hF.mono rfl)
            with_reducible assumption

theorem schedIssue_within {F : Part → Bool} {s : State} (hF : Part.All F [.regs, .hdrs, .irq, .qeng, .crown, .fab])
    {a1 : State} (k1 : s.Within F a1) :
    s.Within F (State.schedIssue a1) := by
  unfold State.schedIssue
  refine within_ite (fun _ => ?_) (fun _ => ?_)
  · with_reducible assumption
  · refine within_ite (fun _ => ?_) (fun _ => ?_)
    · apply visits_within (hF.mono rfl)
      with_reducible assumption
    · apply visits_within (hF.mono rfl)
      apply markCbuf_within (hF.mono rfl)
      with_reducible assumption

end Sys2Proof.Machine
end

