-- ==== Sys2Proof/Laws/FrameDeliver.lean ====
section
/-! SUPPORT. The frames of the operations of Machine/Deliver.lean: the parts that each may change. -/

namespace Sys2Proof.Machine

set_option Elab.async false

theorem updAnyJob_within {F : Part → Bool} {s : State} (hF : Part.All F [.ctx, .digest, .bignum, .rng, .key]) {a1 :
    State} (a2) (a3) (k1 : s.Within F a1) :
    s.Within F (State.updAnyJob a1 a2 a3) := by
  unfold State.updAnyJob
  extract_lets +onlyGivenNames y0
  refine within_mk ?_ (.inr rfl) (.inr rfl) (.inr rfl) (.inr rfl) (.inr rfl) (.inr rfl) (.inr rfl) (.inr rfl) (.inl (hF.one rfl)) (.inr rfl) (.inl (hF.one rfl)) (.inl (hF.one rfl)) (.inl (hF.one rfl)) (.inl (hF.one rfl)) (.inr ⟨rfl, rfl, rfl⟩) (.inr rfl) (.inr rfl) (.inr rfl) (.inr rfl) (.inr rfl) (.inr rfl) (.inr rfl) (.inr rfl)
  with_reducible assumption

theorem descFail_within {F : Part → Bool} {s : State} (hF : Part.All F [.regs, .hdrs, .irq, .qeng, .crown, .fab,
    .perf]) {a1 : State} (a2) (k1 : s.Within F a1) :
    s.Within F (State.descFail a1 a2) := by
  unfold State.descFail
  split
  · rename_i x0 e1
    with_reducible assumption
  · rename_i x2 x3 e4
    apply descFailed_within (hF.mono rfl)
    refine within_fab (hF.one rfl) ?_
    with_reducible assumption

theorem resultWritten_within {F : Part → Bool} {s : State} (hF : Part.All F [.regs, .hdrs, .irq, .qeng, .crown, .fab,
    .ctx, .key, .finishes]) {a1 : State} (a2) (a3) (k1 : s.Within F a1) :
    s.Within F (State.resultWritten a1 a2 a3) := by
  unfold State.resultWritten
  split
  · rename_i x0 e1
    with_reducible assumption
  · rename_i x2 x3 e4
    extract_lets +onlyGivenNames y5
    have h6 : s.Within F y5 := by
      unfold y5
      apply xferRetry_within (hF.mono rfl)
      with_reducible assumption
    extract_lets +onlyGivenNames y7
    extract_lets +onlyGivenNames y8
    refine within_ite (fun _ => ?_) (fun _ => ?_)
    · refine within_finishes (hF.one rfl) ?_
      with_reducible assumption
    · extract_lets +onlyGivenNames y9
      have h10 : s.Within F y9 := by
        unfold y9
        refine within_finishes (hF.one rfl) ?_
        with_reducible assumption
      extract_lets +onlyGivenNames y11
      have h12 : s.Within F y11 := by
        unfold y11
        split
        · rename_i x13 x14 x15 e16
          apply auditClear_within (hF.mono rfl)
          with_reducible assumption
        · rename_i x17 e18
          with_reducible assumption
      extract_lets +onlyGivenNames y19
      have h20 : s.Within F y19 := by
        unfold y19
        refine within_ite (fun _ => ?_) (fun _ => ?_)
        · with_reducible assumption
        · apply putSecret_within (hF.mono rfl)
          with_reducible assumption
      apply push_within (hF.mono rfl)
      with_reducible assumption

theorem entryEcc_within {F : Part → Bool} {s : State} (hF : Part.All F [.regs, .hdrs, .irq, .qeng, .crown, .fab,
    .digest, .dma, .perf]) {a1 : State} (a2) (k1 : s.Within F a1) :
    s.Within F (State.entryEcc a1 a2) := by
  unfold State.entryEcc
  refine within_ite (fun _ => ?_) (fun _ => ?_)
  · with_reducible assumption
  · apply functionFence_within (hF.mono rfl)
    apply fenceCq_within (hF.mono rfl)
    apply raiseFault_within (hF.mono rfl)
    with_reducible assumption

theorem traceMirrorWrite_within {F : Part → Bool} {s : State} (hF : Part.All F [.regs, .hdrs, .irq, .fab, .perf]) {a1
    : State} (a2) (k1 : s.Within F a1) :
    s.Within F (State.traceMirrorWrite a1 a2) := by
  unfold State.traceMirrorWrite
  extract_lets +onlyGivenNames y0
  extract_lets +onlyGivenNames y1
  refine within_ite (fun _ => ?_) (fun _ => ?_)
  · with_reducible assumption
  · extract_lets +onlyGivenNames y2
    extract_lets +onlyGivenNames y3
    have h4 : s.Within F y3 := by
      unfold y3
      apply setRing_within (hF.mono rfl)
      with_reducible assumption
    apply startWrite_within (hF.mono rfl)
    with_reducible assumption

theorem updMiss_within {F : Part → Bool} {s : State} (hF : Part.All F [.ctx]) {a1 : State} (a2) (a3) (k1 : s.Within F
    a1) :
    s.Within F (State.updMiss a1 a2 a3) := by
  unfold State.updMiss
  split
  · rename_i x0 e1
    with_reducible assumption
  · rename_i x2 x3 e4
    apply setMiss_within (hF.mono rfl)
    with_reducible assumption

theorem descDone_within {F : Part → Bool} {s : State} (hF : Part.All F [.regs, .hdrs, .irq, .qeng, .crown, .fab,
    .perf]) {a1 : State} (a2) (k1 : s.Within F a1) :
    s.Within F (State.descDone a1 a2) := by
  unfold State.descDone
  split
  · rename_i x0 e1
    with_reducible assumption
  · rename_i x2 x3 e4
    extract_lets +onlyGivenNames y5
    extract_lets +onlyGivenNames y6
    have h7 : s.Within F y6 := by
      unfold y6
      refine within_fab (hF.one rfl) ?_
      with_reducible assumption
    split
    · rename_i x8 x9 x10 e11
      apply descReturned_within (hF.mono rfl)
      with_reducible assumption
    · rename_i x12 e13
      with_reducible assumption

theorem dmaWbEnds_within {F : Part → Bool} {s : State} (hF : Part.All F [.regs, .blocks, .hdrs, .irq, .qeng, .crown,
    .fab, .frames, .ctx, .digest, .bignum, .rng, .key, .dma, .perf, .finishes]) {a1 : State} (a2) (a3) (k1 : s.Within
    F a1) (k3 : s.Within F a3.2) :
    s.Within F (State.dmaWbEnds a1 a2 a3) := by
  unfold State.dmaWbEnds
  refine within_ite (fun _ => ?_) (fun _ => ?_)
  · apply fence_within (hF.mono rfl)
    apply dmaWbFail_within (hF.mono rfl)
    with_reducible assumption
  · with_reducible assumption

theorem learnStep_within {F : Part → Bool} {s : State} (hF : Part.All F [.regs, .hdrs, .irq, .fab, .ctx]) {a1 : State}
    (k1 : s.Within F a1) :
    s.Within F (State.learnStep a1) := by
  unfold State.learnStep
  refine within_ite (fun _ => ?_) (fun _ => ?_)
  · apply learnMirrorWrite_within (hF.mono rfl)
    with_reducible assumption
  · with_reducible assumption

theorem nodeRead_within {F : Part → Bool} {s : State} (hF : Part.All F [.regs, .hdrs, .irq, .ctx]) {a1 : State} (a2)
    (a3) (a4) (k1 : s.Within F a1) :
    s.Within F (State.nodeRead a1 a2 a3 a4) := by
  unfold State.nodeRead
  extract_lets +onlyGivenNames y0
  have h1 : s.Within F y0 := by
    unfold y0
    apply perfCount_within (hF.mono rfl)
    with_reducible assumption
  apply updMiss_within (hF.mono rfl)
  refine within_ite (fun _ => ?_) (fun _ => ?_)
  · apply transient_within (hF.mono rfl)
    with_reducible assumption
  · with_reducible assumption

theorem traceMirrored_within {F : Part → Bool} {s : State} (hF : Part.All F [.regs, .hdrs, .irq, .fab, .perf]) {a1 :
    State} (a2) (a3) (k1 : s.Within F a1) :
    s.Within F (State.traceMirrored a1 a2 a3) := by
  unfold State.traceMirrored
  refine within_ite (fun _ => ?_) (fun _ => ?_)
  · apply traceMirrorWrite_within (hF.mono rfl)
    apply setRing_within (hF.mono rfl)
    with_reducible assumption
  · with_reducible assumption

theorem traceWritten_within {F : Part → Bool} {s : State} (hF : Part.All F [.regs, .hdrs, .irq, .fab, .perf]) {a1 :
    State} (a2) (a3) (a4) (a5) (k1 : s.Within F a1) :
    s.Within F (State.traceWritten a1 a2 a3 a4 a5) := by
  unfold State.traceWritten
  extract_lets +onlyGivenNames y0
  extract_lets +onlyGivenNames y1
  have h2 : s.Within F y1 := by
    unfold y1
    refine within_ite (fun _ => ?_) (fun _ => ?_)
    · with_reducible assumption
    · apply setRing_within (hF.mono rfl)
      with_reducible assumption
  extract_lets +onlyGivenNames y3
  have h4 : s.Within F y3 := by
    unfold y3
    apply perfCount_within (hF.mono rfl)
    with_reducible assumption
  extract_lets +onlyGivenNames y5
  have h6 : s.Within F y5 := by
    unfold y5
    refine within_ite (fun _ => ?_) (fun _ => ?_)
    · apply fnCount_within (hF.mono rfl)
      with_reducible assumption
    · with_reducible assumption
  refine within_ite (fun _ => ?_) (fun _ => ?_)
  · refine within_ite (fun _ => ?_) (fun _ => ?_)
    · refine putFlag_within (hF.mono rfl) (not_configured rfl) ?_
      refine putFlag_within (hF.mono rfl) (not_configured rfl) ?_
      with_reducible assumption
    · refine putFlag_within (hF.mono rfl) (not_configured rfl) ?_
      refine putFlag_within (hF.mono rfl) (not_configured rfl) ?_
      with_reducible assumption
  · apply traceMirrorWrite_within (hF.mono rfl)
    with_reducible assumption

theorem partRead_within {F : Part → Bool} {s : State} (hF : Part.All F [.regs, .hdrs, .irq, .qeng, .crown, .fab, .ctx,
    .digest, .bignum, .rng, .key]) {a1 : State} (a2) (a3) (a4) (k1 : s.Within F a1) :
    s.Within F (State.partRead a1 a2 a3 a4) := by
  unfold State.partRead
  extract_lets +onlyGivenNames y0
  have h1 : s.Within F y0 := by
    unfold y0
    apply xferRetry_within (hF.mono rfl)
    with_reducible assumption
  extract_lets +onlyGivenNames y2
  have h3 : s.Within F y2 := by
    unfold y2
    apply updAnyJob_within (hF.mono rfl)
    with_reducible assumption
  split
  · rename_i x4 x5 e6
    split
    · rename_i x7 x8 e9
      refine within_ite (fun _ => ?_) (fun _ => ?_)
      · apply digestBytes_within (hF.mono rfl)
        with_reducible assumption
      · with_reducible assumption
    · rename_i x10 e11
      with_reducible assumption
  · rename_i x12 e13
    split
    · rename_i x14 x15 e16
      split
      · rename_i x17 x18 e19
        apply bnBytes_within (hF.mono rfl)
        with_reducible assumption
      · rename_i x20 e21
        with_reducible assumption
    · rename_i x22 e23
      apply kdfSync_within (hF.mono rfl)
      with_reducible assumption

theorem learnWritten_within {F : Part → Bool} {s : State} (hF : Part.All F [.regs, .hdrs, .irq, .fab, .ctx]) {a1 :
    State} (k1 : s.Within F a1) :
    s.Within F (State.learnWritten a1) := by
  unfold State.learnWritten
  apply learnStep_within (hF.mono rfl)
  refine within_ctx (hF.one rfl) ?_
  with_reducible assumption

theorem entryDone_within {F : Part → Bool} {s : State} (hF : Part.All F [.hdrs, .irq, .crown, .fab]) {a1 : State} (a2)
    (k1 : s.Within F a1) :
    s.Within F (State.entryDone a1 a2) := by
  unfold State.entryDone
  split
  · rename_i x0 e1
    with_reducible assumption
  · rename_i x2 x3 u4 e5
    have h6 : s.Within F u4 := by
      refine cqMail_within (hF.mono rfl) ?_ e5
      with_reducible assumption
    split
    · rename_i x7 x8 x9 e10
      extract_lets +onlyGivenNames y11
      have h12 : s.Within F y11 := by
        unfold y11
        refine within_ite (fun _ => ?_) (fun _ => ?_)
        · apply transient_within (hF.mono rfl)
          with_reducible assumption
        · with_reducible assumption
      apply ungrant_within (hF.mono rfl)
      apply updCq_within (hF.mono rfl)
      with_reducible assumption
    · rename_i x13 e14
      with_reducible assumption

theorem mirrorDone_within {F : Part → Bool} {s : State} (hF : Part.All F [.regs, .hdrs, .irq, .crown, .fab]) {a1 :
    State} (a2) (k1 : s.Within F a1) :
    s.Within F (State.mirrorDone a1 a2) := by
  unfold State.mirrorDone
  split
  · rename_i x0 e1
    with_reducible assumption
  · rename_i x2 x3 u4 e5
    have h6 : s.Within F u4 := by
      refine cqMail_within (hF.mono rfl) ?_ e5
      with_reducible assumption
    split
    · rename_i x7 x8 x9 e10
      extract_lets +onlyGivenNames y11
      have h12 : s.Within F y11 := by
        unfold y11
        refine within_ite (fun _ => ?_) (fun _ => ?_)
        · apply transient_within (hF.mono rfl)
          with_reducible assumption
        · with_reducible assumption
      extract_lets +onlyGivenNames y13
      extract_lets +onlyGivenNames y14
      extract_lets +onlyGivenNames y15
      have h16 : s.Within F y15 := by
        unfold y15
        apply setCq_within (hF.mono rfl)
        with_reducible assumption
      extract_lets +onlyGivenNames y17
      have h18 : s.Within F y17 := by
        unfold y17
        refine put_within (hF.mono rfl) (not_configured rfl) ?_
        refine put_within (hF.mono rfl) (not_configured rfl) ?_
        with_reducible assumption
      apply cqDrainEnd_within (hF.mono rfl)
      apply countVec_within (hF.mono rfl)
      with_reducible assumption
    · rename_i x19 e20
      with_reducible assumption

theorem recordRead_within {F : Part → Bool} {s : State} (hF : Part.All F [.hdrs, .irq, .ctx]) {a1 : State} (a2) (a3)
    (k1 : s.Within F a1) :
    s.Within F (State.recordRead a1 a2 a3) := by
  unfold State.recordRead
  apply updMiss_within (hF.mono rfl)
  refine within_ite (fun _ => ?_) (fun _ => ?_)
  · apply transient_within (hF.mono rfl)
    with_reducible assumption
  · with_reducible assumption

theorem learnMirrored_within {F : Part → Bool} {s : State} (hF : Part.All F [.regs, .hdrs, .irq, .fab, .ctx]) {a1 :
    State} (a2) (k1 : s.Within F a1) :
    s.Within F (State.learnMirrored a1 a2) := by
  unfold State.learnMirrored
  extract_lets +onlyGivenNames y0
  extract_lets +onlyGivenNames y1
  extract_lets +onlyGivenNames y2
  have h3 : s.Within F y2 := by
    unfold y2
    refine within_ctx (hF.one rfl) ?_
    with_reducible assumption
  extract_lets +onlyGivenNames y4
  have h5 : s.Within F y4 := by
    unfold y4
    refine within_ite (fun _ => ?_) (fun _ => ?_)
    · with_reducible assumption
    · apply raiseEvent_within (hF.mono rfl)
      with_reducible assumption
  refine within_ite (fun _ => ?_) (fun _ => ?_)
  · apply learnStep_within (hF.mono rfl)
    with_reducible assumption
  · with_reducible assumption

theorem entryFail_within {F : Part → Bool} {s : State} (hF : Part.All F [.regs, .hdrs, .irq, .qeng, .crown, .fab,
    .digest, .dma, .perf]) {a1 : State} (a2) (k1 : s.Within F a1) :
    s.Within F (State.entryFail a1 a2) := by
  unfold State.entryFail
  split
  · rename_i x0 e1
    with_reducible assumption
  · rename_i x2 x3 u4 e5
    have h6 : s.Within F u4 := by
      refine cqMail_within (hF.mono rfl) ?_ e5
      with_reducible assumption
    extract_lets +onlyGivenNames y7
    extract_lets +onlyGivenNames y8
    have h9 : s.Within F y8 := by
      unfold y8
      apply fenceCq_within (hF.mono rfl)
      apply raiseFault_within (hF.mono rfl)
      apply lasting_within (hF.mono rfl)
      with_reducible assumption
    apply functionFence_within (hF.mono rfl)
    with_reducible assumption

theorem deliver_within {F : Part → Bool} {s : State} (hF : Part.All F [.regs, .blocks, .hdrs, .irq, .qeng, .crown,
    .fab, .frames, .ctx, .digest, .bignum, .rng, .key, .dma, .perf, .finishes]) {a1 : State} (a2) (k1 : s.Within F a1)
    :
    s.Within F (State.deliver a1 a2) := by
  unfold State.deliver
  split
  · rename_i x0 x1 e2
    apply lanesFollow_within (hF.mono rfl)
    apply frameSrcDone_within (hF.mono rfl)
    with_reducible assumption
  · rename_i x3 x4 x5 e6
    apply partRead_within (hF.mono rfl)
    with_reducible assumption
  · rename_i x7 x8 e9
    apply resultWritten_within (hF.mono rfl)
    with_reducible assumption
  · rename_i x10 x11 e12
    apply recordRead_within (hF.mono rfl)
    with_reducible assumption
  · rename_i x13 x14 x15 x16 e17
    apply nodeRead_within (hF.mono rfl)
    with_reducible assumption
  · rename_i x18 e19
    apply learnWritten_within (hF.mono rfl)
    apply xferRetry_within (hF.mono rfl)
    with_reducible assumption
  · rename_i x20 e21
    apply learnMirrored_within (hF.mono rfl)
    apply xferRetry_within (hF.mono rfl)
    with_reducible assumption
  · rename_i x22 x23 x24 x25 e26
    apply traceWritten_within (hF.mono rfl)
    apply xferRetry_within (hF.mono rfl)
    with_reducible assumption
  · rename_i x27 x28 x29 e30
    apply traceMirrored_within (hF.mono rfl)
    apply xferRetry_within (hF.mono rfl)
    with_reducible assumption
  · rename_i x31 x32 x33 e34
    apply dmaReadEnds_within (hF.mono rfl)
    with_reducible assumption
  · rename_i x35 x36 x37 x38 e39
    apply dmaWriteEnds_within (hF.mono rfl)
    with_reducible assumption
  · rename_i x40 x41 e42
    apply dmaBarrierEnds_within (hF.mono rfl)
    with_reducible assumption
  · rename_i x43 x44 e45
    apply dmaDescEnds_within (hF.mono rfl)
    with_reducible assumption
  · rename_i x46 x47 e48
    apply dmaWbEnds_within (hF.mono rfl)
    · with_reducible assumption
    · apply dmaW3Ends_within (hF.mono rfl)
      with_reducible assumption
  · rename_i x49 x50 e51
    apply dmaWbEnds_within (hF.mono rfl)
    · with_reducible assumption
    · apply dmaW0Ends_within (hF.mono rfl)
      with_reducible assumption
  · rename_i x52 e53
    apply rawWritten_within (hF.mono rfl)
    apply xferRetry_within (hF.mono rfl)
    with_reducible assumption
  · rename_i x54 x55 x56 e57
    apply post_within (hF.mono rfl)
    with_reducible assumption
  · rename_i x58 x59 e60
    apply post_within (hF.mono rfl)
    with_reducible assumption
  · rename_i x61 x62 x63 e64
    apply post_within (hF.mono rfl)
    with_reducible assumption
  · rename_i x65 x66 x67 e68
    apply post_within (hF.mono rfl)
    with_reducible assumption
  · rename_i x69 x70 e71
    apply post_within (hF.mono rfl)
    with_reducible assumption
  · rename_i x72 x73 x74 e75
    apply post_within (hF.mono rfl)
    with_reducible assumption
  · rename_i x76 e77
    apply post_within (hF.mono rfl)
    with_reducible assumption
  · rename_i x78 e79
    apply post_within (hF.mono rfl)
    with_reducible assumption

theorem ended_within {F : Part → Bool} {s : State} (hF : Part.All F [.regs, .blocks, .hdrs, .irq, .qeng, .crown, .fab,
    .frames, .ctx, .digest, .bignum, .rng, .key, .dma, .perf, .finishes]) (a1) (k1 : s.Within F a1.2) :
    s.Within F (State.ended a1) := by
  unfold State.ended
  split
  · rename_i x0 x1 e2
    apply deliver_within (hF.mono rfl)
    with_reducible assumption
  · rename_i x3 e4
    with_reducible assumption

theorem fabRead_within {F : Part → Bool} {s : State} (hF : Part.All F [.regs, .blocks, .hdrs, .irq, .qeng, .crown,
    .fab, .frames, .ctx, .digest, .bignum, .rng, .key, .dma, .perf, .finishes]) {a1 : State} (a2) (a3) (a4) (a5) (a6)
    (k1 : s.Within F a1) :
    s.Within F (State.fabRead a1 a2 a3 a4 a5 a6) := by
  unfold State.fabRead
  extract_lets +onlyGivenNames y0
  extract_lets +onlyGivenNames y1
  have h2 : s.Within F y1.2 := by
    unfold y1
    apply readResponse_within (hF.mono rfl)
    with_reducible assumption
  clear_value y0
  split
  · rename_i x3 x4
    split
    · rename_i x5 x6 e7
      split
      · rename_i x8 x9 e10
        refine within_ite (fun _ => ?_) (fun _ => ?_)
        · apply ended_within (hF.mono rfl)
          refine within_pair_snd ?_
          apply frameBytes_within (hF.mono rfl)
          with_reducible assumption
        · apply ended_within (hF.mono rfl)
          with_reducible assumption
      · rename_i x11 e12
        apply ended_within (hF.mono rfl)
        with_reducible assumption
    · rename_i x13 e14
      apply ended_within (hF.mono rfl)
      with_reducible assumption
  · rename_i x15
    apply ended_within (hF.mono rfl)
    with_reducible assumption

theorem fabWrite_within {F : Part → Bool} {s : State} (hF : Part.All F [.regs, .blocks, .hdrs, .irq, .qeng, .crown,
    .fab, .frames, .ctx, .digest, .bignum, .rng, .key, .dma, .perf, .finishes]) {a1 : State} (a2) (a3) (a4) (k1 :
    s.Within F a1) :
    s.Within F (State.fabWrite a1 a2 a3 a4) := by
  unfold State.fabWrite
  apply ended_within (hF.mono rfl)
  apply writeResponse_within (hF.mono rfl)
  with_reducible assumption

theorem fabTimeout_within {F : Part → Bool} {s : State} (hF : Part.All F [.regs, .blocks, .hdrs, .irq, .qeng, .crown,
    .fab, .frames, .ctx, .digest, .bignum, .rng, .key, .dma, .perf, .finishes]) {a1 : State} (a2) (a3) (a4) (k1 :
    s.Within F a1) :
    s.Within F (State.fabTimeout a1 a2 a3 a4) := by
  unfold State.fabTimeout
  apply ended_within (hF.mono rfl)
  apply accessTimeout_within (hF.mono rfl)
  with_reducible assumption

end Sys2Proof.Machine
end

