-- ==== Sys2Proof/Laws/FrameTile.lean ====
section
/-! SUPPORT. The frames of the operations of Machine/Tile.lean: the parts that each may change. -/

namespace Sys2Proof.Machine

set_option Elab.async false

theorem selfFail_within {F : Part → Bool} {s : State} (hF : Part.All F [.tile, .regs, .blocks, .hdrs, .irq, .qeng,
    .crown, .fab, .frames, .ctx, .digest, .bignum, .rng, .custody, .key, .dma, .pwr, .perf, .finishes]) {a1 : State}
    (a2) (a3) (k1 : s.Within F a1) :
    s.Within F (State.selfFail a1 a2 a3) := by
  unfold State.selfFail
  split
  · rename_i x0
    apply fence_within (hF.mono rfl)
    apply lasting_within (hF.mono rfl)
    apply raiseFault_within (hF.mono rfl)
    apply laneRecord_within (hF.mono rfl)
    with_reducible assumption
  · rename_i x1
    extract_lets +onlyGivenNames y2
    have h3 : s.Within F y2 := by
      unfold y2
      refine within_ite (fun _ => ?_) (fun _ => ?_)
      · with_reducible assumption
      · refine put_within (hF.mono rfl) (not_configured rfl) ?_
        refine putFlag_within (hF.mono rfl) (not_configured rfl) ?_
        with_reducible assumption
    apply fence_within (hF.mono rfl)
    apply lasting_within (hF.mono rfl)
    apply raiseFault_within (hF.mono rfl)
    refine bump_within (hF.mono rfl) (not_configured rfl) ?_
    with_reducible assumption
  · rename_i x4
    extract_lets +onlyGivenNames y5
    apply fenceBnUnit_within (hF.mono rfl)
    apply lasting_within (hF.mono rfl)
    with_reducible assumption
  · rename_i x6
    apply fence_within (hF.mono rfl)
    apply raiseFault_within (hF.mono rfl)
    apply lasting_within (hF.mono rfl)
    with_reducible assumption
  · rename_i x7
    apply fence_within (hF.mono rfl)
    apply lasting_within (hF.mono rfl)
    with_reducible assumption
  · rename_i x8 e9 e10 e11 e12 e13
    apply tileFence_within (hF.mono rfl)
    apply keyError_within (hF.mono rfl)
    with_reducible assumption

theorem mbistDone_within {F : Part → Bool} {s : State} (hF : Part.All F [.wrap]) {a1 : State} (a2) (k1 : s.Within F
    a1) :
    s.Within F (State.mbistDone a1 a2) := by
  unfold State.mbistDone
  refine within_ite (fun _ => ?_) (fun _ => ?_)
  · refine within_wrap (hF.one rfl) ?_
    with_reducible assumption
  · with_reducible assumption

theorem tagCfgWritten_within {F : Part → Bool} {s : State} (hF : Part.All F [.rng, .perf]) {a1 : State} (k1 : s.Within
    F a1) :
    s.Within F (State.tagCfgWritten a1) := by
  unfold State.tagCfgWritten
  extract_lets +onlyGivenNames y0
  extract_lets +onlyGivenNames y1
  have h2 : s.Within F y1 := by
    unfold y1
    refine within_perf (hF.one rfl) ?_
    with_reducible assumption
  refine within_ite (fun _ => ?_) (fun _ => ?_)
  · refine within_rng (hF.one rfl) ?_
    with_reducible assumption
  · with_reducible assumption

theorem enterTest_within {F : Part → Bool} {s : State} (hF : Part.All F [.tile, .regs, .blocks, .hdrs, .irq, .qeng,
    .digest, .rng, .custody, .key, .wrap]) {a1 : State} (k1 : s.Within F a1) :
    s.Within F (State.enterTest a1) := by
  unfold State.enterTest
  refine within_ite (fun _ => ?_) (fun _ => ?_)
  · apply raiseEvent_within (hF.mono rfl)
    apply enterTile_within (hF.mono rfl)
    apply clearSecrets_within (hF.mono rfl)
    apply clearDerived_within (hF.mono rfl)
    apply clearRoot_within (hF.mono rfl)
    apply attestAbort_within (hF.mono rfl)
    with_reducible assumption
  · apply seq_within (hF.mono rfl)
    with_reducible assumption

theorem parityFault_within {F : Part → Bool} {s : State} (hF : Part.All F [.tile, .regs, .blocks, .hdrs, .irq, .qeng,
    .crown, .fab, .frames, .ctx, .digest, .bignum, .rng, .key, .dma, .pwr, .perf, .finishes]) {a1 : State} (a2) (a3)
    (k1 : s.Within F a1) :
    s.Within F (State.parityFault a1 a2 a3) := by
  unfold State.parityFault
  extract_lets +onlyGivenNames y0
  have h1 : s.Within F y0 := by
    unfold y0
    split
    · rename_i x2 e3
      apply tileFence_within (hF.mono rfl)
      with_reducible assumption
    · rename_i x4 x5 e6
      apply fence_within (hF.mono rfl)
      with_reducible assumption
  apply raiseFault_within (hF.mono rfl)
  apply lasting_within (hF.mono rfl)
  with_reducible assumption

theorem blocksOff_within {F : Part → Bool} {s : State} (hF : Part.All F [.regs, .blocks, .hdrs, .irq, .qeng, .crown,
    .fab, .frames, .ctx, .digest, .bignum, .rng, .custody, .key, .dma, .clk, .perf, .finishes]) {a1 : State} (k1 :
    s.Within F a1) :
    s.Within F (State.blocksOff a1) := by
  unfold State.blocksOff
  apply allOff_within (hF.mono rfl)
  apply selftestDrop_within (hF.mono rfl)
  apply haltAll_within (hF.mono rfl)
  with_reducible assumption

theorem fenceTile_within {F : Part → Bool} {s : State} (hF : Part.All F [.tile, .regs, .hdrs, .irq, .qeng, .crown,
    .fab, .frames, .ctx, .digest, .bignum, .rng, .key, .pwr, .perf, .finishes]) {a1 : State} (k1 : s.Within F a1) :
    s.Within F (State.fenceTile a1) := by
  unfold State.fenceTile
  refine within_ite (fun _ => ?_) (fun _ => ?_)
  · apply tileFence_within (hF.mono rfl)
    with_reducible assumption
  · apply seq_within (hF.mono rfl)
    with_reducible assumption

theorem wrapData_within {F : Part → Bool} {s : State} (hF : Part.All F [.wrap]) {a1 : State} (a2) (k1 : s.Within F a1)
    :
    s.Within F (State.wrapData a1 a2) := by
  unfold State.wrapData
  split
  · rename_i x0
    refine within_wrap (hF.one rfl) ?_
    with_reducible assumption
  · rename_i x1 x2
    split
    · rename_i x3 x4 e5
      extract_lets +onlyGivenNames y6
      refine within_wrap (hF.one rfl) ?_
      with_reducible assumption
    · rename_i x7 e8
      split
      rename_i x9 x10 u11 e12
      have h13 : s.Within F u11 := by
        refine within_snd e12 ?_
        apply takeFree_within (hF.mono rfl)
        with_reducible assumption
      refine within_wrap (hF.one rfl) ?_
      with_reducible assumption
  · rename_i x14
    refine within_ite (fun _ => ?_) (fun _ => ?_)
    · refine within_wrap (hF.one rfl) ?_
      with_reducible assumption
    · with_reducible assumption

theorem headerReload_within {F : Part → Bool} {s : State} (hF : Part.All F [.tile, .blocks, .hdrs]) {a1 : State} (a2)
    (a3) (k1 : s.Within F a1) :
    s.Within F (State.headerReload a1 a2 a3) := by
  unfold State.headerReload
  extract_lets +onlyGivenNames y0
  split
  · rename_i x1
    apply updHdr_within (hF.mono rfl)
    with_reducible assumption
  · rename_i x2
    refine updHdr_bits (hF.mono rfl) (fun _ => rfl) ?_
    with_reducible assumption
  · rename_i x3
    apply updHdr_within (hF.mono rfl)
    with_reducible assumption
  · rename_i x4
    refine updHdr_bits (hF.mono rfl) (fun _ => rfl) ?_
    with_reducible assumption
  · rename_i x5
    apply updHdr_within (hF.mono rfl)
    with_reducible assumption
  · rename_i x6
    apply updHdr_within (hF.mono rfl)
    with_reducible assumption
  · rename_i x7
    apply updHdr_within (hF.mono rfl)
    with_reducible assumption
  · rename_i x8
    refine within_ite (fun _ => ?_) (fun _ => ?_)
    · refine within_tile (hF.one rfl) ?_
      with_reducible assumption
    · apply updHdr_within (hF.mono rfl)
      with_reducible assumption
  · rename_i x9 e10 e11 e12 e13 e14 e15 e16 e17
    with_reducible assumption

theorem ringCons_within {F : Part → Bool} {s : State} (hF : Part.All F [.hdrs, .irq, .perf]) {a1 : State} (a2) (a3)
    (k1 : s.Within F a1) :
    s.Within F (State.ringCons a1 a2 a3) := by
  unfold State.ringCons
  extract_lets +onlyGivenNames y0
  apply ringLevel_within (hF.mono rfl)
  apply setRing_within (hF.mono rfl)
  with_reducible assumption

theorem ringStart_within {F : Part → Bool} {s : State} (hF : Part.All F [.regs, .perf]) {a1 : State} (a2) (k1 :
    s.Within F a1) :
    s.Within F (State.ringStart a1 a2) := by
  unfold State.ringStart
  extract_lets +onlyGivenNames y0
  have h1 : s.Within F y0 := by
    unfold y0
    apply setRing_within (hF.mono rfl)
    with_reducible assumption
  refine within_ite (fun _ => ?_) (fun _ => ?_)
  · refine setReg_within (hF.mono rfl) (not_configured rfl) ?_
    with_reducible assumption
  · refine setReg_within (hF.mono rfl) (not_configured rfl) ?_
    with_reducible assumption

theorem wrapLoad_within {F : Part → Bool} {s : State} (hF : Part.All F [.wrap]) {a1 : State} (a2) (k1 : s.Within F a1)
    :
    s.Within F (State.wrapLoad a1 a2) := by
  unfold State.wrapLoad
  refine within_ite (fun _ => ?_) (fun _ => ?_)
  · extract_lets +onlyGivenNames y0
    extract_lets +onlyGivenNames y1
    refine within_wrap (hF.one rfl) ?_
    with_reducible assumption
  · refine within_wrap (hF.one rfl) ?_
    with_reducible assumption

theorem wdogExpiry_within {F : Part → Bool} {s : State} (hF : Part.All F [.tile, .regs, .hdrs, .irq, .qeng, .crown,
    .fab, .frames, .ctx, .digest, .bignum, .rng, .key, .pwr, .perf, .finishes]) {a1 : State} (k1 : s.Within F a1) :
    s.Within F (State.wdogExpiry a1) := by
  unfold State.wdogExpiry
  refine within_ite (fun _ => ?_) (fun _ => ?_)
  · with_reducible assumption
  · extract_lets +onlyGivenNames y0
    extract_lets +onlyGivenNames y1
    extract_lets +onlyGivenNames y2
    have h3 : s.Within F y2 := by
      unfold y2
      apply raiseEvent_within (hF.mono rfl)
      refine within_tile (hF.one rfl) ?_
      with_reducible assumption
    refine within_ite (fun _ => ?_) (fun _ => ?_)
    · apply tileFence_within (hF.mono rfl)
      refine within_tile (hF.one rfl) ?_
      with_reducible assumption
    · with_reducible assumption

theorem wrapReset_within {F : Part → Bool} {s : State} (hF : Part.All F [.wrap]) {a1 : State} (k1 : s.Within F a1) :
    s.Within F (State.wrapReset a1) := by
  unfold State.wrapReset
  refine within_wrap (hF.one rfl) ?_
  with_reducible assumption

theorem bringUpDone_within {F : Part → Bool} {s : State} (hF : Part.All F [.tile, .regs, .blocks, .hdrs, .irq, .rng,
    .key, .wrap]) {a1 : State} (k1 : s.Within F a1) :
    s.Within F (State.bringUpDone a1) := by
  unfold State.bringUpDone
  refine within_ite (fun _ => ?_) (fun _ => ?_)
  · apply enterTile_within (hF.mono rfl)
    with_reducible assumption
  · apply seq_within (hF.mono rfl)
    with_reducible assumption

theorem selfRetry_within {F : Part → Bool} {s : State} (hF : Part.All F [.hdrs, .irq]) {a1 : State} (a2) (a3) (k1 :
    s.Within F a1) :
    s.Within F (State.selfRetry a1 a2 a3) := by
  unfold State.selfRetry
  apply transient_within (hF.mono rfl)
  with_reducible assumption

theorem selftestGo_within {F : Part → Bool} {s : State} (hF : Part.All F [.regs, .hdrs, .irq]) {a1 : State} (k1 :
    s.Within F a1) :
    s.Within F (State.selftestGo a1) := by
  unfold State.selftestGo
  refine within_ite (fun _ => ?_) (fun _ => ?_)
  · extract_lets +onlyGivenNames y0
    extract_lets +onlyGivenNames y1
    refine setReg_within (hF.mono rfl) (not_configured rfl) ?_
    with_reducible assumption
  · apply seq_within (hF.mono rfl)
    with_reducible assumption

theorem runIdle_within {F : Part → Bool} {s : State} (hF : Part.All F [.tile, .regs, .blocks, .hdrs, .rng, .key,
    .wrap]) {a1 : State} (k1 : s.Within F a1) :
    s.Within F (State.runIdle a1) := by
  unfold State.runIdle
  refine within_ite (fun _ => ?_) (fun _ => ?_)
  · apply enterTile_within (hF.mono rfl)
    with_reducible assumption
  · with_reducible assumption

theorem wdogKick_within {F : Part → Bool} {s : State} (hF : Part.All F [.tile]) {a1 : State} (k1 : s.Within F a1) :
    s.Within F (State.wdogKick a1) := by
  unfold State.wdogKick
  refine within_tile (hF.one rfl) ?_
  with_reducible assumption

theorem selftestDone_within {F : Part → Bool} {s : State} (hF : Part.All F [.tile, .regs, .blocks, .hdrs, .irq, .qeng,
    .crown, .fab, .frames, .ctx, .digest, .bignum, .rng, .custody, .key, .dma, .pwr, .perf, .finishes]) {a1 : State}
    (a2) (a3) (k1 : s.Within F a1) :
    s.Within F (State.selftestDone a1 a2 a3) := by
  unfold State.selftestDone
  refine within_ite (fun _ => ?_) (fun _ => ?_)
  · with_reducible assumption
  · extract_lets +onlyGivenNames y0
    extract_lets +onlyGivenNames y1
    extract_lets +onlyGivenNames y2
    extract_lets +onlyGivenNames y3
    have h4 : s.Within F y3 := by
      unfold y3
      refine setReg_within (hF.mono rfl) (not_configured rfl) ?_
      with_reducible assumption
    extract_lets +onlyGivenNames y5
    have h6 : s.Within F y5 := by
      unfold y5
      apply raiseEvent_within (hF.mono rfl)
      with_reducible assumption
    extract_lets +onlyGivenNames y7
    have h8 : s.Within F y7 := by
      unfold y7
      refine within_ite (fun _ => ?_) (fun _ => ?_)
      · apply raiseFault_within (hF.mono rfl)
        with_reducible assumption
      · with_reducible assumption
    extract_lets +onlyGivenNames y9
    have h10 : s.Within F y9 := by
      unfold y9
      apply within_foldl
      · intro u11 x12 h13
        refine within_ite (fun _ => ?_) (fun _ => ?_)
        · split
          rename_i x14 x15 u16 e17
          have h18 : s.Within F u16 := by
            refine within_snd e17 ?_
            apply takeFree_within (hF.mono rfl)
            with_reducible assumption
          apply within_foldl
          · intro u19 x20 h21
            apply selfFail_within (hF.mono rfl)
            with_reducible assumption
          · with_reducible assumption
        · with_reducible assumption
      · with_reducible assumption
    extract_lets +onlyGivenNames y22
    have h23 : s.Within F y22 := by
      unfold y22
      apply within_foldl
      · intro u24 x25 h26
        refine within_ite (fun _ => ?_) (fun _ => ?_)
        · split
          rename_i x27 x28 u29 e30
          have h31 : s.Within F u29 := by
            refine within_snd e30 ?_
            apply takeFree_within (hF.mono rfl)
            with_reducible assumption
          apply within_foldl
          · intro u32 x33 h34
            apply selfRetry_within (hF.mono rfl)
            with_reducible assumption
          · with_reducible assumption
        · with_reducible assumption
      · with_reducible assumption
    apply ascending_within (hF.mono rfl)
    with_reducible assumption

theorem unfenceTile_within {F : Part → Bool} {s : State} (hF : Part.All F [.tile, .regs, .blocks, .hdrs, .irq, .qeng,
    .crown, .fab, .frames, .ctx, .digest, .bignum, .rng, .custody, .key, .dma, .clk, .pwr, .perf, .wrap, .finishes])
    {a1 : State} (k1 : s.Within F a1) :
    s.Within F (State.unfenceTile a1) := by
  unfold State.unfenceTile
  refine within_ite (fun _ => ?_) (fun _ => ?_)
  · apply enterTile_within (hF.mono rfl)
    apply coreUp_within (hF.mono rfl)
    refine putFlag_within (hF.mono rfl) (not_configured rfl) ?_
    apply blocksOff_within (hF.mono rfl)
    with_reducible assumption
  · apply seq_within (hF.mono rfl)
    with_reducible assumption

theorem leaveTest_within {F : Part → Bool} {s : State} (hF : Part.All F [.tile, .regs, .blocks, .hdrs, .irq, .qeng,
    .crown, .fab, .frames, .ctx, .digest, .bignum, .rng, .custody, .key, .dma, .clk, .perf, .wrap, .finishes]) {a1 :
    State} (k1 : s.Within F a1) :
    s.Within F (State.leaveTest a1) := by
  unfold State.leaveTest
  refine within_ite (fun _ => ?_) (fun _ => ?_)
  · apply enterTile_within (hF.mono rfl)
    refine putFlag_within (hF.mono rfl) (not_configured rfl) ?_
    apply blocksOff_within (hF.mono rfl)
    with_reducible assumption
  · apply seq_within (hF.mono rfl)
    with_reducible assumption

theorem reload_within {F : Part → Bool} {s : State} (hF : Part.All F [.config, .regs, .hdrs, .irq, .ctx, .epoch, .rng,
    .perf]) {a1 : State} (a2) (a3) (k1 : s.Within F a1) :
    s.Within F (State.reload a1 a2 a3) := by
  unfold State.reload
  extract_lets +onlyGivenNames y0
  have h1 : s.Within F y0 := by
    unfold y0
    refine clearReg_within (hF.mono rfl) (fun _ => hF.one rfl) ?_
    with_reducible assumption
  split
  · rename_i x2
    refine within_epoch (hF.one rfl) ?_
    with_reducible assumption
  · rename_i x3
    refine within_rng (hF.one rfl) ?_
    with_reducible assumption
  · rename_i x4
    refine within_ctx (hF.one rfl) ?_
    with_reducible assumption
  · rename_i x5
    apply ringCons_within (hF.mono rfl)
    with_reducible assumption
  · rename_i x6
    apply ringCons_within (hF.mono rfl)
    with_reducible assumption
  · rename_i x7 e8 e9 e10 e11 e12
    with_reducible assumption

theorem seedArrive_within {F : Part → Bool} {s : State} (hF : Part.All F [.rng, .perf]) {a1 : State} (k1 : s.Within F
    a1) :
    s.Within F (State.seedArrive a1) := by
  unfold State.seedArrive
  split
  · rename_i x0 e1
    with_reducible assumption
  · rename_i x2 x3 e4
    refine within_ite (fun _ => ?_) (fun _ => ?_)
    · with_reducible assumption
    · refine within_ite (fun _ => ?_) (fun _ => ?_)
      · apply tagCfgWritten_within (hF.mono rfl)
        with_reducible assumption
      · refine within_perf (hF.one rfl) ?_
        with_reducible assumption

theorem tileCommand_within {F : Part → Bool} {s : State} (hF : Part.All F [.tile, .regs, .blocks, .hdrs, .irq, .qeng,
    .crown, .fab, .frames, .ctx, .digest, .bignum, .rng, .custody, .key, .dma, .clk, .pwr, .perf, .wrap, .finishes])
    {a1 : State} (a2) (k1 : s.Within F a1) :
    s.Within F (State.tileCommand a1 a2) := by
  unfold State.tileCommand
  split
  · rename_i x0
    apply bringUpDone_within (hF.mono rfl)
    with_reducible assumption
  · rename_i x1
    apply enterTest_within (hF.mono rfl)
    with_reducible assumption
  · rename_i x2
    apply leaveTest_within (hF.mono rfl)
    with_reducible assumption
  · rename_i x3
    apply fenceTile_within (hF.mono rfl)
    with_reducible assumption
  · rename_i x4
    apply unfenceTile_within (hF.mono rfl)
    with_reducible assumption
  · rename_i x5 e6 e7 e8 e9 e10
    apply seq_within (hF.mono rfl)
    with_reducible assumption

theorem parityError_within {F : Part → Bool} {s : State} (hF : Part.All F [.tile, .config, .regs, .blocks, .hdrs,
    .irq, .qeng, .crown, .fab, .frames, .ctx, .epoch, .digest, .bignum, .rng, .key, .dma, .pwr, .perf, .finishes]) {a1
    : State} (a2) (k1 : s.Within F a1) :
    s.Within F (State.parityError a1 a2) := by
  unfold State.parityError
  extract_lets +onlyGivenNames y0
  split
  · rename_i x1 e2
    with_reducible assumption
  · rename_i x3 x4 e5
    refine within_ite (fun _ => ?_) (fun _ => ?_)
    · refine within_ite (fun _ => ?_) (fun _ => ?_)
      · apply ascending_within (hF.mono rfl)
        apply parityFault_within (hF.mono rfl)
        apply headerReload_within (hF.mono rfl)
        with_reducible assumption
      · with_reducible assumption
    · split
      · rename_i x6 e7
        with_reducible assumption
      · rename_i x8 x9 x10 x11 e12
        refine within_ite (fun _ => ?_) (fun _ => ?_)
        · apply ascending_within (hF.mono rfl)
          apply parityFault_within (hF.mono rfl)
          apply reload_within (hF.mono rfl)
          with_reducible assumption
        · with_reducible assumption

end Sys2Proof.Machine
end

