-- ==== Sys2Proof/Laws/FrameRegWrite.lean ====
section
/-! SUPPORT. The frames of the operations of Machine/RegWrite.lean: the parts that each may change. -/

namespace Sys2Proof.Machine

set_option Elab.async false

theorem cqCfgWrite_within {F : Part → Bool} {s : State} (hF : Part.All F [.regs, .hdrs, .irq, .crown]) {a1 : State}
    (a2) (a3) (k1 : s.Within F a1) :
    s.Within F (State.cqCfgWrite a1 a2 a3) := by
  unfold State.cqCfgWrite
  extract_lets +onlyGivenNames y0
  extract_lets +onlyGivenNames y1
  extract_lets +onlyGivenNames y2
  have h3 : s.Within F y2 := by
    unfold y2
    refine within_ite (fun _ => ?_) (fun _ => ?_)
    · refine setReg_within (hF.mono rfl) (not_configured rfl) ?_
      with_reducible assumption
    · refine within_ite (fun _ => ?_) (fun _ => ?_)
      · with_reducible assumption
      · apply seq_within (hF.mono rfl)
        with_reducible assumption
  refine within_ite (fun _ => ?_) (fun _ => ?_)
  · apply cqEnable_within (hF.mono rfl)
    with_reducible assumption
  · apply cqDisable_within (hF.mono rfl)
    with_reducible assumption

theorem recordWrite_within {F : Part → Bool} {s : State} (hF : Part.All F [.config, .regs]) {a1 : State} (a2) (a3)
    (a4) (a5) (a6) (k1 : s.Within F a1) :
    s.Within F (State.recordWrite a1 a2 a3 a4 a5 a6) := by
  unfold State.recordWrite
  refine within_ite (fun _ => ?_) (fun _ => ?_)
  · extract_lets +onlyGivenNames y0
    have h1 : s.Within F y0 := by
      unfold y0
      refine clearReg_within (hF.mono rfl) (fun _ => hF.one rfl) ?_
      with_reducible assumption
    split
    · rename_i x2 x3
      refine clearReg_within (hF.mono rfl) (fun _ => hF.one rfl) ?_
      with_reducible assumption
    · rename_i x4
      with_reducible assumption
  · with_reducible assumption

theorem store_within {F : Part → Bool} {s : State} (hF : Part.All F [.config, .regs]) {a1 : State} (a2) (a3) (a4) (a5)
    (k1 : s.Within F a1) :
    s.Within F (State.store a1 a2 a3 a4 a5) := by
  unfold State.store
  extract_lets +onlyGivenNames y0
  refine setReg_within (hF.mono rfl) (fun _ => hF.one rfl) ?_
  with_reducible assumption

theorem learnStart_within {F : Part → Bool} {s : State} (hF : Part.All F [.regs, .ctx]) {a1 : State} (k1 : s.Within F
    a1) :
    s.Within F (State.learnStart a1) := by
  unfold State.learnStart
  extract_lets +onlyGivenNames y0
  have h1 : s.Within F y0 := by
    unfold y0
    refine setReg_within (hF.mono rfl) (not_configured rfl) ?_
    with_reducible assumption
  refine within_ctx (hF.one rfl) ?_
  with_reducible assumption

theorem keyed_within {F : Part → Bool} {s : State} (hF : Part.All F [.hdrs, .irq]) {a1 : State} (a2) (a3) (a4 : ℕ →
    State) (k1 : s.Within F a1) (hf4 : ∀ z0, s.Within F (a4 z0)) :
    s.Within F (State.keyed a1 a2 a3 a4) := by
  unfold State.keyed
  refine within_ite (fun _ => ?_) (fun _ => ?_)
  · apply hf4
  · apply seq_within (hF.mono rfl)
    with_reducible assumption

theorem learnConsume_within {F : Part → Bool} {s : State} (hF : Part.All F [.ctx]) {a1 : State} (a2) (k1 : s.Within F
    a1) :
    s.Within F (State.learnConsume a1 a2) := by
  unfold State.learnConsume
  refine within_ctx (hF.one rfl) ?_
  with_reducible assumption

theorem rqCfgWrite_within {F : Part → Bool} {s : State} (hF : Part.All F [.regs, .hdrs, .irq, .qeng, .fab, .perf]) {a1
    : State} (a2) (a3) (k1 : s.Within F a1) :
    s.Within F (State.rqCfgWrite a1 a2 a3) := by
  unfold State.rqCfgWrite
  extract_lets +onlyGivenNames y0
  extract_lets +onlyGivenNames y1
  extract_lets +onlyGivenNames y2
  have h3 : s.Within F y2 := by
    unfold y2
    refine within_ite (fun _ => ?_) (fun _ => ?_)
    · refine setReg_within (hF.mono rfl) (not_configured rfl) ?_
      with_reducible assumption
    · refine within_ite (fun _ => ?_) (fun _ => ?_)
      · with_reducible assumption
      · apply seq_within (hF.mono rfl)
        with_reducible assumption
  refine within_ite (fun _ => ?_) (fun _ => ?_)
  · apply rqEnable_within (hF.mono rfl)
    with_reducible assumption
  · apply rqDisable_within (hF.mono rfl)
    with_reducible assumption

theorem cqWrite_within {F : Part → Bool} {s : State} (hF : Part.All F [.config, .regs, .hdrs, .irq]) {a1 : State} (a2)
    (a3) (a4) (a5) (a6) (k1 : s.Within F a1) :
    s.Within F (State.cqWrite a1 a2 a3 a4 a5 a6) := by
  unfold State.cqWrite
  refine within_ite (fun _ => ?_) (fun _ => ?_)
  · apply store_within (hF.mono rfl)
    with_reducible assumption
  · apply seq_within (hF.mono rfl)
    with_reducible assumption

theorem rqWrite_within {F : Part → Bool} {s : State} (hF : Part.All F [.config, .regs, .hdrs, .irq]) {a1 : State} (a2)
    (a3) (a4) (a5) (a6) (k1 : s.Within F a1) :
    s.Within F (State.rqWrite a1 a2 a3 a4 a5 a6) := by
  unfold State.rqWrite
  refine within_ite (fun _ => ?_) (fun _ => ?_)
  · apply store_within (hF.mono rfl)
    with_reducible assumption
  · apply seq_within (hF.mono rfl)
    with_reducible assumption

theorem ringCfg_within {F : Part → Bool} {s : State} (hF : Part.All F [.config, .regs]) {a1 : State} (a2) (a3) (a4)
    (a5) (k1 : s.Within F a1) :
    s.Within F (State.ringCfg a1 a2 a3 a4 a5).2 := by
  unfold State.ringCfg
  extract_lets +onlyGivenNames y0
  extract_lets +onlyGivenNames y1
  have h2 : s.Within F y1 := by
    unfold y1
    apply store_within (hF.mono rfl)
    with_reducible assumption
  refine within_pair_snd ?_
  with_reducible assumption

theorem write2_within {F : Part → Bool} {s : State} (hF : Part.All F [.config, .regs, .blocks, .hdrs, .irq, .qeng,
    .crown, .fab, .frames, .ctx, .digest, .bignum, .rng, .custody, .key, .finishes]) {a1 : State} (a2) (a3) (a4) (a5)
    (a6) (k1 : s.Within F a1) :
    WithinOpt F s (State.write2 a1 a2 a3 a4 a5 a6) := by
  unfold State.write2
  extract_lets +onlyGivenNames y0
  split
  · rename_i x1
    refine withinOpt_some ?_
    refine within_ite (fun _ => ?_) (fun _ => ?_)
    · apply laneCheckAsk_within (hF.mono rfl)
      refine putFlag_within (hF.mono rfl) (not_configured rfl) ?_
      refine putFlag_within (hF.mono rfl) (not_configured rfl) ?_
      with_reducible assumption
    · with_reducible assumption
  · rename_i x2
    extract_lets +onlyGivenNames y3
    have h4 : s.Within F y3 := by
      unfold y3
      apply store_within (hF.mono rfl)
      with_reducible assumption
    refine withinOpt_some ?_
    refine within_ite (fun _ => ?_) (fun _ => ?_)
    · apply updLane_within (hF.mono rfl)
      with_reducible assumption
    · with_reducible assumption
  · rename_i x5
    extract_lets +onlyGivenNames y6
    refine withinOpt_some ?_
    refine within_ite (fun _ => ?_) (fun _ => ?_)
    · apply store_within (hF.mono rfl)
      with_reducible assumption
    · apply seq_within (hF.mono rfl)
      with_reducible assumption
  · rename_i x7
    extract_lets +onlyGivenNames y8
    refine withinOpt_some ?_
    refine within_ite (fun _ => ?_) (fun _ => ?_)
    · apply store_within (hF.mono rfl)
      with_reducible assumption
    · apply seq_within (hF.mono rfl)
      with_reducible assumption
  · rename_i x9
    refine withinOpt_some ?_
    refine within_ite (fun _ => ?_) (fun _ => ?_)
    · apply store_within (hF.mono rfl)
      with_reducible assumption
    · apply seq_within (hF.mono rfl)
      with_reducible assumption
  · rename_i x10
    refine withinOpt_some ?_
    split
    · rename_i x11 e12
      apply ctxInit_within (hF.mono rfl)
      with_reducible assumption
    · rename_i x13 e14
      apply ctxFlush_within (hF.mono rfl)
      with_reducible assumption
    · rename_i x15 e16
      apply ctxRetireHandle_within (hF.mono rfl)
      with_reducible assumption
    · rename_i x17 e18 e19 e20
      refine within_ite (fun _ => ?_) (fun _ => ?_)
      · apply seq_within (hF.mono rfl)
        with_reducible assumption
      · apply ctxRefuse_within (hF.mono rfl)
        with_reducible assumption
  · rename_i x21
    refine withinOpt_some ?_
    refine within_ite (fun _ => ?_) (fun _ => ?_)
    · with_reducible assumption
    · apply store_within (hF.mono rfl)
      with_reducible assumption
  · rename_i x22
    refine withinOpt_some ?_
    refine within_ite (fun _ => ?_) (fun _ => ?_)
    · with_reducible assumption
    · apply store_within (hF.mono rfl)
      with_reducible assumption
  · rename_i x23
    split
    rename_i x24 x25 u26 e27
    have h28 : s.Within F u26 := by
      refine within_snd e27 ?_
      apply ringCfg_within (hF.mono rfl)
      with_reducible assumption
    refine withinOpt_some ?_
    refine within_ite (fun _ => ?_) (fun _ => ?_)
    · apply learnStart_within (hF.mono rfl)
      with_reducible assumption
    · with_reducible assumption
  · rename_i x29
    refine withinOpt_some ?_
    apply learnConsume_within (hF.mono rfl)
    apply store_within (hF.mono rfl)
    with_reducible assumption
  · rename_i x30
    refine withinOpt_some ?_
    refine within_ite (fun _ => ?_) (fun _ => ?_)
    · with_reducible assumption
    · apply store_within (hF.mono rfl)
      with_reducible assumption
  · rename_i x31
    refine withinOpt_some ?_
    refine within_ite (fun _ => ?_) (fun _ => ?_)
    · apply store_within (hF.mono rfl)
      with_reducible assumption
    · with_reducible assumption
  · rename_i x32
    refine withinOpt_some ?_
    refine within_ite (fun _ => ?_) (fun _ => ?_)
    · apply dcoreCheckAsk_within (hF.mono rfl)
      with_reducible assumption
    · with_reducible assumption
  · rename_i x33
    extract_lets +onlyGivenNames y34
    have h35 : s.Within F y34 := by
      unfold y34
      apply store_within (hF.mono rfl)
      with_reducible assumption
    refine withinOpt_some ?_
    refine within_ite (fun _ => ?_) (fun _ => ?_)
    · apply setDcore_within (hF.mono rfl)
      with_reducible assumption
    · with_reducible assumption
  · rename_i x36
    refine withinOpt_some ?_
    refine within_ite (fun _ => ?_) (fun _ => ?_)
    · apply bnCheckRun_within (hF.mono rfl)
      with_reducible assumption
    · with_reducible assumption
  · rename_i x37
    refine withinOpt_some ?_
    apply bnChanCfg_within (hF.mono rfl)
    with_reducible assumption
  · rename_i x38
    extract_lets +onlyGivenNames y39
    have h40 : s.Within F y39 := by
      unfold y39
      apply store_within (hF.mono rfl)
      with_reducible assumption
    refine withinOpt_some ?_
    refine within_ite (fun _ => ?_) (fun _ => ?_)
    · refine within_bignum (hF.one rfl) ?_
      with_reducible assumption
    · with_reducible assumption
  · rename_i x41
    refine withinOpt_some ?_
    apply cellEnWrite_within (hF.mono rfl)
    with_reducible assumption
  · rename_i x42
    extract_lets +onlyGivenNames y43
    have h44 : s.Within F y43 := by
      unfold y43
      apply store_within (hF.mono rfl)
      with_reducible assumption
    refine withinOpt_some ?_
    apply rngLevels_within (hF.mono rfl)
    refine within_ite (fun _ => ?_) (fun _ => ?_)
    · refine within_rng (hF.one rfl) ?_
      with_reducible assumption
    · with_reducible assumption
  · rename_i x45
    refine withinOpt_some ?_
    apply rngLevels_within (hF.mono rfl)
    apply store_within (hF.mono rfl)
    with_reducible assumption
  · rename_i x46
    refine withinOpt_some ?_
    apply rngCheckReady_within (hF.mono rfl)
    apply store_within (hF.mono rfl)
    with_reducible assumption
  · rename_i x47
    refine withinOpt_some ?_
    apply keyed_within (hF.mono rfl)
    · with_reducible assumption
    · intro x48
      split
      · rename_i x49
        apply zeroize_within (hF.mono rfl)
        with_reducible assumption
      · rename_i x50
        apply attestStart_within (hF.mono rfl)
        with_reducible assumption
      · rename_i x51
        apply pounceDue_within (hF.mono rfl)
        with_reducible assumption
      · rename_i x52
        apply portRetry_within (hF.mono rfl)
        with_reducible assumption
      · rename_i x53 e54 e55 e56 e57
        apply seq_within (hF.mono rfl)
        with_reducible assumption
  · rename_i x58
    refine withinOpt_some ?_
    refine within_ite (fun _ => ?_) (fun _ => ?_)
    · apply seq_within (hF.mono rfl)
      with_reducible assumption
    · apply store_within (hF.mono rfl)
      with_reducible assumption
  · rename_i x59 e60 e61 e62 e63 e64 e65 e66 e67 e68 e69 e70 e71 e72 e73 e74 e75 e76 e77 e78 e79 e80 e81 e82
    exact withinOpt_none

theorem write3_within {F : Part → Bool} {s : State} (hF : Part.All F [.tile, .config, .regs, .blocks, .hdrs, .irq,
    .qeng, .crown, .fab, .ctx, .epoch, .digest, .rng, .key, .dma, .hb, .clk, .pwr, .tamp, .perf, .wrap]) {a1 : State}
    (a2) (a3) (a4) (a5) (a6) (k1 : s.Within F a1) :
    WithinOpt F s (State.write3 a1 a2 a3 a4 a5 a6) := by
  unfold State.write3
  extract_lets +onlyGivenNames y0
  split
  · rename_i x1
    refine withinOpt_some ?_
    refine within_ite (fun _ => ?_) (fun _ => ?_)
    · apply dmaUnpoll_within (hF.mono rfl)
      apply store_within (hF.mono rfl)
      with_reducible assumption
    · apply seq_within (hF.mono rfl)
      with_reducible assumption
  · rename_i x2
    refine withinOpt_some ?_
    refine within_ite (fun _ => ?_) (fun _ => ?_)
    · apply dmaRepoll_within (hF.mono rfl)
      apply store_within (hF.mono rfl)
      with_reducible assumption
    · apply seq_within (hF.mono rfl)
      with_reducible assumption
  · rename_i x3
    refine withinOpt_some ?_
    refine within_ite (fun _ => ?_) (fun _ => ?_)
    · apply dmaRepoll_within (hF.mono rfl)
      apply store_within (hF.mono rfl)
      with_reducible assumption
    · apply seq_within (hF.mono rfl)
      with_reducible assumption
  · rename_i x4
    refine withinOpt_some ?_
    refine within_ite (fun _ => ?_) (fun _ => ?_)
    · apply dmaDisable_within (hF.mono rfl)
      with_reducible assumption
    · extract_lets +onlyGivenNames y5
      have h6 : s.Within F y5 := by
        unfold y5
        refine within_ite (fun _ => ?_) (fun _ => ?_)
        · apply dmaResume_within (hF.mono rfl)
          with_reducible assumption
        · with_reducible assumption
      refine within_ite (fun _ => ?_) (fun _ => ?_)
      · apply dmaPoll_within (hF.mono rfl)
        with_reducible assumption
      · with_reducible assumption
  · rename_i x7
    refine withinOpt_some ?_
    refine within_ite (fun _ => ?_) (fun _ => ?_)
    · apply seq_within (hF.mono rfl)
      with_reducible assumption
    · refine within_ite (fun _ => ?_) (fun _ => ?_)
      · apply dmaArmed_within (hF.mono rfl)
        refine putFlag_within (hF.mono rfl) (not_configured rfl) ?_
        with_reducible assumption
      · refine putFlag_within (hF.mono rfl) (not_configured rfl) ?_
        with_reducible assumption
  · rename_i x8
    refine withinOpt_some ?_
    refine within_ite (fun _ => ?_) (fun _ => ?_)
    · apply seq_within (hF.mono rfl)
      with_reducible assumption
    · apply store_within (hF.mono rfl)
      with_reducible assumption
  · rename_i x9
    refine withinOpt_some ?_
    refine within_ite (fun _ => ?_) (fun _ => ?_)
    · apply seq_within (hF.mono rfl)
      with_reducible assumption
    · apply store_within (hF.mono rfl)
      with_reducible assumption
  · rename_i x10
    refine withinOpt_some ?_
    refine within_ite (fun _ => ?_) (fun _ => ?_)
    · apply seq_within (hF.mono rfl)
      with_reducible assumption
    · apply store_within (hF.mono rfl)
      with_reducible assumption
  · rename_i x11
    refine withinOpt_some ?_
    refine within_ite (fun _ => ?_) (fun _ => ?_)
    · apply seq_within (hF.mono rfl)
      with_reducible assumption
    · apply store_within (hF.mono rfl)
      with_reducible assumption
  · rename_i x12
    refine withinOpt_some ?_
    refine within_ite (fun _ => ?_) (fun _ => ?_)
    · apply seq_within (hF.mono rfl)
      with_reducible assumption
    · apply store_within (hF.mono rfl)
      with_reducible assumption
  · rename_i x13
    refine withinOpt_some ?_
    refine within_ite (fun _ => ?_) (fun _ => ?_)
    · apply seq_within (hF.mono rfl)
      with_reducible assumption
    · refine within_epoch (hF.one rfl) ?_
      with_reducible assumption
  · rename_i x14
    refine withinOpt_some ?_
    refine within_ite (fun _ => ?_) (fun _ => ?_)
    · apply store_within (hF.mono rfl)
      with_reducible assumption
    · apply seq_within (hF.mono rfl)
      with_reducible assumption
  · rename_i x15
    extract_lets +onlyGivenNames y16
    have h17 : s.Within F y16 := by
      unfold y16
      apply store_within (hF.mono rfl)
      with_reducible assumption
    extract_lets +onlyGivenNames y18
    have h19 : s.Within F y18 := by
      unfold y18
      refine within_ite (fun _ => ?_) (fun _ => ?_)
      · apply epochArm_within (hF.mono rfl)
        with_reducible assumption
      · with_reducible assumption
    extract_lets +onlyGivenNames y20
    have h21 : s.Within F y20 := by
      unfold y20
      refine within_ite (fun _ => ?_) (fun _ => ?_)
      · apply epochArm_within (hF.mono rfl)
        with_reducible assumption
      · with_reducible assumption
    refine withinOpt_some ?_
    refine within_ite (fun _ => ?_) (fun _ => ?_)
    · apply epochCancel_within (hF.mono rfl)
      with_reducible assumption
    · with_reducible assumption
  · rename_i x22
    extract_lets +onlyGivenNames y23
    have h24 : s.Within F y23 := by
      unfold y23
      apply store_within (hF.mono rfl)
      with_reducible assumption
    refine withinOpt_some ?_
    refine within_ite (fun _ => ?_) (fun _ => ?_)
    · apply msgGo_within (hF.mono rfl)
      with_reducible assumption
    · with_reducible assumption
  · rename_i x25
    refine withinOpt_some ?_
    refine within_ite (fun _ => ?_) (fun _ => ?_)
    · apply msgPop_within (hF.mono rfl)
      with_reducible assumption
    · with_reducible assumption
  · rename_i x26
    refine withinOpt_some ?_
    apply refCfgWritten_within (hF.mono rfl)
    apply store_within (hF.mono rfl)
    with_reducible assumption
  · rename_i x27
    refine withinOpt_some ?_
    apply keyed_within (hF.mono rfl)
    · with_reducible assumption
    · intro x28
      apply clkCommand_within (hF.mono rfl)
      with_reducible assumption
  · rename_i x29
    refine withinOpt_some ?_
    apply pllEnWrite_within (hF.mono rfl)
    with_reducible assumption
  · rename_i x30
    refine withinOpt_some ?_
    apply clkEnWritten_within (hF.mono rfl)
    with_reducible assumption
  · rename_i x31
    refine withinOpt_some ?_
    apply followAll_within (hF.mono rfl)
    apply store_within (hF.mono rfl)
    with_reducible assumption
  · rename_i x32
    refine withinOpt_some ?_
    apply followAll_within (hF.mono rfl)
    apply store_within (hF.mono rfl)
    with_reducible assumption
  · rename_i x33
    refine withinOpt_some ?_
    apply followAll_within (hF.mono rfl)
    apply store_within (hF.mono rfl)
    with_reducible assumption
  · rename_i x34
    refine withinOpt_some ?_
    apply followAll_within (hF.mono rfl)
    apply store_within (hF.mono rfl)
    with_reducible assumption
  · rename_i x35
    refine withinOpt_some ?_
    apply keyed_within (hF.mono rfl)
    · with_reducible assumption
    · intro x36
      apply pwrCommand_within (hF.mono rfl)
      with_reducible assumption
  · rename_i x37
    extract_lets +onlyGivenNames y38
    have h39 : s.Within F y38 := by
      unfold y38
      apply store_within (hF.mono rfl)
      with_reducible assumption
    refine withinOpt_some ?_
    refine within_ite (fun _ => ?_) (fun _ => ?_)
    · apply sleepGo_within (hF.mono rfl)
      with_reducible assumption
    · with_reducible assumption
  · rename_i x40
    refine withinOpt_some ?_
    apply keyed_within (hF.mono rfl)
    · with_reducible assumption
    · intro x41
      refine within_ite (fun _ => ?_) (fun _ => ?_)
      · apply clearAlarm_within (hF.mono rfl)
        with_reducible assumption
      · apply seq_within (hF.mono rfl)
        with_reducible assumption
  · rename_i x42
    refine withinOpt_some ?_
    apply qualClrWrite_within (hF.mono rfl)
    with_reducible assumption
  · rename_i x43
    refine withinOpt_some ?_
    apply sensClrWrite_within (hF.mono rfl)
    with_reducible assumption
  · rename_i x44
    refine withinOpt_some ?_
    apply within_foldl
    · intro u45 x46 h47
      refine within_ite (fun _ => ?_) (fun _ => ?_)
      · apply functionClear_within (hF.mono rfl)
        with_reducible assumption
      · with_reducible assumption
    · with_reducible assumption
  · rename_i x48
    extract_lets +onlyGivenNames y49
    have h50 : s.Within F y49 := by
      unfold y49
      apply store_within (hF.mono rfl)
      with_reducible assumption
    refine withinOpt_some ?_
    refine within_ite (fun _ => ?_) (fun _ => ?_)
    · apply functionFence_within (hF.mono rfl)
      with_reducible assumption
    · with_reducible assumption
  · rename_i x51
    refine withinOpt_some ?_
    refine within_ite (fun _ => ?_) (fun _ => ?_)
    · with_reducible assumption
    · extract_lets +onlyGivenNames y52
      have h53 : s.Within F y52 := by
        unfold y52
        apply store_within (hF.mono rfl)
        with_reducible assumption
      refine within_ite (fun _ => ?_) (fun _ => ?_)
      · apply seal_within (hF.mono rfl)
        with_reducible assumption
      · with_reducible assumption
  · rename_i x54
    refine withinOpt_some ?_
    refine within_ite (fun _ => ?_) (fun _ => ?_)
    · with_reducible assumption
    · apply store_within (hF.mono rfl)
      with_reducible assumption
  · rename_i x55
    refine withinOpt_some ?_
    apply tagCfgWritten_within (hF.mono rfl)
    apply store_within (hF.mono rfl)
    with_reducible assumption
  · rename_i x56
    refine withinOpt_some ?_
    refine within_ite (fun _ => ?_) (fun _ => ?_)
    · with_reducible assumption
    · apply store_within (hF.mono rfl)
      with_reducible assumption
  · rename_i x57
    refine withinOpt_some ?_
    refine within_ite (fun _ => ?_) (fun _ => ?_)
    · with_reducible assumption
    · apply store_within (hF.mono rfl)
      with_reducible assumption
  · rename_i x58
    split
    rename_i x59 x60 u61 e62
    have h63 : s.Within F u61 := by
      refine within_snd e62 ?_
      apply ringCfg_within (hF.mono rfl)
      with_reducible assumption
    refine withinOpt_some ?_
    refine within_ite (fun _ => ?_) (fun _ => ?_)
    · apply ringStart_within (hF.mono rfl)
      with_reducible assumption
    · with_reducible assumption
  · rename_i x64
    refine withinOpt_some ?_
    apply ringCons_within (hF.mono rfl)
    apply store_within (hF.mono rfl)
    with_reducible assumption
  · rename_i x65 e66 e67 e68 e69 e70 e71 e72 e73 e74 e75 e76 e77 e78 e79 e80 e81 e82 e83 e84 e85 e86 e87 e88 e89 e90 e91 e92 e93 e94 e95 e96 e97 e98 e99 e100 e101 e102
    exact withinOpt_none

theorem write1_within {F : Part → Bool} {s : State} (hF : Part.All F [.tile, .config, .regs, .blocks, .hdrs, .irq,
    .qeng, .crown, .fab, .frames, .ctx, .digest, .bignum, .rng, .custody, .key, .dma, .clk, .pwr, .perf, .wrap,
    .finishes]) {a1 : State} (a2) (a3) (a4) (a5) (a6) (k1 : s.Within F a1) :
    WithinOpt F s (State.write1 a1 a2 a3 a4 a5 a6) := by
  unfold State.write1
  extract_lets +onlyGivenNames y0
  split
  · rename_i x1
    refine withinOpt_some ?_
    apply keyed_within (hF.mono rfl)
    · with_reducible assumption
    · intro x2
      apply tileCommand_within (hF.mono rfl)
      with_reducible assumption
  · rename_i x3
    extract_lets +onlyGivenNames y4
    have h5 : s.Within F y4 := by
      unfold y4
      apply store_within (hF.mono rfl)
      with_reducible assumption
    refine withinOpt_some ?_
    refine within_ite (fun _ => ?_) (fun _ => ?_)
    · with_reducible assumption
    · apply wdogKick_within (hF.mono rfl)
      with_reducible assumption
  · rename_i x6
    refine withinOpt_some ?_
    apply wdogKick_within (hF.mono rfl)
    with_reducible assumption
  · rename_i x7
    extract_lets +onlyGivenNames y8
    have h9 : s.Within F y8 := by
      unfold y8
      apply store_within (hF.mono rfl)
      with_reducible assumption
    refine withinOpt_some ?_
    refine within_ite (fun _ => ?_) (fun _ => ?_)
    · apply selftestGo_within (hF.mono rfl)
      with_reducible assumption
    · with_reducible assumption
  · rename_i x10
    refine withinOpt_some ?_
    apply rqWrite_within (hF.mono rfl)
    with_reducible assumption
  · rename_i x11
    refine withinOpt_some ?_
    apply rqWrite_within (hF.mono rfl)
    with_reducible assumption
  · rename_i x12
    refine withinOpt_some ?_
    apply rqCfgWrite_within (hF.mono rfl)
    with_reducible assumption
  · rename_i x13
    refine withinOpt_some ?_
    apply rqKick_within (hF.mono rfl)
    with_reducible assumption
  · rename_i x14
    refine withinOpt_some ?_
    refine within_ite (fun _ => ?_) (fun _ => ?_)
    · apply rqKick_within (hF.mono rfl)
      with_reducible assumption
    · with_reducible assumption
  · rename_i x15
    refine withinOpt_some ?_
    apply cqWrite_within (hF.mono rfl)
    with_reducible assumption
  · rename_i x16
    refine withinOpt_some ?_
    apply cqWrite_within (hF.mono rfl)
    with_reducible assumption
  · rename_i x17
    refine withinOpt_some ?_
    apply cqWrite_within (hF.mono rfl)
    with_reducible assumption
  · rename_i x18
    refine withinOpt_some ?_
    apply cqCfgWrite_within (hF.mono rfl)
    with_reducible assumption
  · rename_i x19
    refine withinOpt_some ?_
    apply cqConsume_within (hF.mono rfl)
    with_reducible assumption
  · rename_i x20
    refine withinOpt_some ?_
    refine within_ite (fun _ => ?_) (fun _ => ?_)
    · apply cqConsume_within (hF.mono rfl)
      with_reducible assumption
    · with_reducible assumption
  · rename_i x21
    refine withinOpt_some ?_
    apply hostSleep_within (hF.mono rfl)
    with_reducible assumption
  · rename_i x22
    refine withinOpt_some ?_
    apply irqFlushWrite_within (hF.mono rfl)
    with_reducible assumption
  · rename_i x23
    refine withinOpt_some ?_
    apply vecCfgWrite_within (hF.mono rfl)
    with_reducible assumption
  · rename_i x24
    extract_lets +onlyGivenNames y25
    have h26 : s.Within F y25 := by
      unfold y25
      refine putFlag_within (hF.mono rfl) (not_configured rfl) ?_
      apply store_within (hF.mono rfl)
      with_reducible assumption
    refine withinOpt_some ?_
    refine within_ite (fun _ => ?_) (fun _ => ?_)
    · apply countVec_within (hF.mono rfl)
      with_reducible assumption
    · with_reducible assumption
  · rename_i x27
    refine withinOpt_some ?_
    refine within_ite (fun _ => ?_) (fun _ => ?_)
    · with_reducible assumption
    · apply store_within (hF.mono rfl)
      with_reducible assumption
  · rename_i x28
    refine withinOpt_some ?_
    refine within_ite (fun _ => ?_) (fun _ => ?_)
    · with_reducible assumption
    · apply store_within (hF.mono rfl)
      with_reducible assumption
  · rename_i x29
    split
    rename_i x30 x31 u32 e33
    have h34 : s.Within F u32 := by
      refine within_snd e33 ?_
      apply ringCfg_within (hF.mono rfl)
      with_reducible assumption
    refine withinOpt_some ?_
    refine within_ite (fun _ => ?_) (fun _ => ?_)
    · apply ringStart_within (hF.mono rfl)
      with_reducible assumption
    · with_reducible assumption
  · rename_i x35
    refine withinOpt_some ?_
    apply ringCons_within (hF.mono rfl)
    apply store_within (hF.mono rfl)
    with_reducible assumption
  · rename_i x36 e37 e38 e39 e40 e41 e42 e43 e44 e45 e46 e47 e48 e49 e50 e51 e52 e53 e54 e55 e56 e57 e58 e59
    exact withinOpt_none

theorem writeReg_within {F : Part → Bool} {s : State} (hF : Part.All F [.tile, .config, .regs, .blocks, .hdrs, .irq,
    .qeng, .crown, .fab, .frames, .ctx, .epoch, .digest, .bignum, .rng, .custody, .key, .dma, .hb, .clk, .pwr, .tamp,
    .perf, .wrap, .finishes]) {a1 : State} (a2) (a3) (a4) (a5) (k1 : s.Within F a1) :
    s.Within F (State.writeReg a1 a2 a3 a4 a5) := by
  unfold State.writeReg
  split
  · rename_i x0 x1 e2
    apply recordWrite_within (hF.mono rfl)
    with_reducible assumption
  · rename_i x3 e4
    extract_lets +onlyGivenNames y5
    split
    · rename_i x6 u7 e8
      have h9 : s.Within F u7 := by
        refine within_some e8 ?_
        apply write1_within (hF.mono rfl)
        with_reducible assumption
      with_reducible assumption
    · rename_i x10 e11
      split
      · rename_i x12 u13 e14
        have h15 : s.Within F u13 := by
          refine within_some e14 ?_
          apply write2_within (hF.mono rfl)
          with_reducible assumption
        with_reducible assumption
      · rename_i x16 e17
        split
        · rename_i x18 u19 e20
          have h21 : s.Within F u19 := by
            refine within_some e20 ?_
            apply write3_within (hF.mono rfl)
            with_reducible assumption
          with_reducible assumption
        · rename_i x22 e23
          apply store_within (hF.mono rfl)
          with_reducible assumption

end Sys2Proof.Machine
end

