-- ==== Sys2Proof/Laws/FrameControlPort.lean ====
section
/-! SUPPORT. The frames of the operations of Machine/ControlPort.lean: the parts that each may change. -/

namespace Sys2Proof.Machine

set_option Elab.async false

theorem setHalf_within {F : Part → Bool} {s : State} (hF : Part.All F [.cp]) {a1 : State} (a2) (a3) (a4) (k1 :
    s.Within F a1) :
    s.Within F (State.setHalf a1 a2 a3 a4) := by
  unfold State.setHalf
  refine within_cp (hF.one rfl) ?_
  with_reducible assumption

theorem keepStalled_within {F : Part → Bool} {s : State} (hF : Part.All F [.cp]) {a1 : State} (a2) (k1 : s.Within F
    a1) :
    s.Within F (State.keepStalled a1 a2) := by
  unfold State.keepStalled
  refine within_cp (hF.one rfl) ?_
  with_reducible assumption

theorem lockWrite_within {F : Part → Bool} {s : State} (hF : Part.All F [.blocks, .hdrs, .irq]) {a1 : State} (a2) (a3)
    (k1 : s.Within F a1) :
    s.Within F (State.lockWrite a1 a2 a3) := by
  unfold State.lockWrite
  extract_lets +onlyGivenNames y0
  have h1 : ∀ z0, s.Within F (y0 z0) := by
    unfold y0
    intro x2
    apply updHdr_within (hF.mono rfl)
    with_reducible assumption
  split
  · rename_i x3 e4
    refine within_ite (fun _ => ?_) (fun _ => ?_)
    · apply h1
    · with_reducible assumption
  · rename_i x5 e6
    refine within_ite (fun _ => ?_) (fun _ => ?_)
    · apply h1
    · refine within_ite (fun _ => ?_) (fun _ => ?_)
      · with_reducible assumption
      · apply seq_within (hF.mono rfl)
        apply h1
  · rename_i x7 e8
    refine within_ite (fun _ => ?_) (fun _ => ?_)
    · apply h1
    · refine within_ite (fun _ => ?_) (fun _ => ?_)
      · with_reducible assumption
      · apply h1

theorem logRefusal_within {F : Part → Bool} {s : State} (hF : Part.All F [.regs]) {a1 : State} (a2) (a3) (a4) (k1 :
    s.Within F a1) :
    s.Within F (State.logRefusal a1 a2 a3 a4) := by
  unfold State.logRefusal
  extract_lets +onlyGivenNames y0
  have h1 : s.Within F y0 := by
    unfold y0
    refine putFlag_within (hF.mono rfl) (not_configured rfl) ?_
    refine put_within (hF.mono rfl) (not_configured rfl) ?_
    with_reducible assumption
  extract_lets +onlyGivenNames y2
  have h3 : s.Within F y2 := by
    unfold y2
    refine putFlag_within (hF.mono rfl) (not_configured rfl) ?_
    refine put_within (hF.mono rfl) (not_configured rfl) ?_
    with_reducible assumption
  extract_lets +onlyGivenNames y4
  have h5 : s.Within F y4 := by
    unfold y4
    refine within_ite (fun _ => ?_) (fun _ => ?_)
    · with_reducible assumption
    · refine put_within (hF.mono rfl) (not_configured rfl) ?_
      refine putFlag_within (hF.mono rfl) (not_configured rfl) ?_
      with_reducible assumption
  refine bump_within (hF.mono rfl) (not_configured rfl) ?_
  with_reducible assumption

theorem afterRead_within {F : Part → Bool} {s : State} (hF : Part.All F [.config, .regs]) {a1 : State} (a2) (a3) (a4)
    (k1 : s.Within F a1) :
    s.Within F (State.afterRead a1 a2 a3 a4) := by
  unfold State.afterRead
  extract_lets +onlyGivenNames y0
  extract_lets +onlyGivenNames y1
  have h2 : s.Within F y1 := by
    unfold y1
    refine within_ite (fun _ => ?_) (fun _ => ?_)
    · with_reducible assumption
    · refine setReg_within (hF.mono rfl) (fun _ => hF.one rfl) ?_
      with_reducible assumption
  extract_lets +onlyGivenNames y3
  have h4 : s.Within F y3 := by
    unfold y3
    split
    · rename_i x5
      refine put_within (hF.mono rfl) (not_configured rfl) ?_
      with_reducible assumption
    · rename_i x6
      refine put_within (hF.mono rfl) (not_configured rfl) ?_
      with_reducible assumption
    · rename_i x7 e8 e9
      with_reducible assumption
  refine within_ite (fun _ => ?_) (fun _ => ?_)
  · refine within_free ?_
    with_reducible assumption
  · with_reducible assumption

theorem lockTimeout_within {F : Part → Bool} {s : State} (hF : Part.All F [.blocks, .hdrs, .irq]) {a1 : State} (a2)
    (k1 : s.Within F a1) :
    s.Within F (State.lockTimeout a1 a2) := by
  unfold State.lockTimeout
  refine within_ite (fun _ => ?_) (fun _ => ?_)
  · apply seq_within (hF.mono rfl)
    apply updHdr_within (hF.mono rfl)
    with_reducible assumption
  · with_reducible assumption

theorem ownerWrite_within {F : Part → Bool} {s : State} (hF : Part.All F [.blocks, .hdrs, .irq]) {a1 : State} (a2)
    (a3) (k1 : s.Within F a1) :
    s.Within F (State.ownerWrite a1 a2 a3) := by
  unfold State.ownerWrite
  refine within_ite (fun _ => ?_) (fun _ => ?_)
  · apply seq_within (hF.mono rfl)
    with_reducible assumption
  · refine within_ite (fun _ => ?_) (fun _ => ?_)
    · with_reducible assumption
    · apply updHdr_within (hF.mono rfl)
      with_reducible assumption

theorem headerRead_within {F : Part → Bool} {s : State} (hF : Part.All F [.hdrs]) {a1 : State} (a2) (a3) (k1 :
    s.Within F a1) :
    s.Within F (State.headerRead a1 a2 a3).1 := by
  unfold State.headerRead
  refine within_pair_fst ?_
  refine within_ite (fun _ => ?_) (fun _ => ?_)
  · refine updHdr_bits (hF.mono rfl) (fun _ => rfl) ?_
    with_reducible assumption
  · with_reducible assumption

theorem ctlWrite_within {F : Part → Bool} {s : State} (hF : Part.All F [.config, .regs, .blocks, .hdrs, .irq, .qeng,
    .crown, .fab, .frames, .ctx, .digest, .bignum, .rng, .custody, .key, .dma, .clk, .perf]) {a1 : State} (a2) (a3)
    (k1 : s.Within F a1) :
    s.Within F (State.ctlWrite a1 a2 a3) := by
  unfold State.ctlWrite
  extract_lets +onlyGivenNames y0
  have h1 : s.Within F y0 := by
    unfold y0
    refine within_ite (fun _ => ?_) (fun _ => ?_)
    · apply softReset_within (hF.mono rfl)
      with_reducible assumption
    · with_reducible assumption
  refine within_ite (fun _ => ?_) (fun _ => ?_)
  · apply enWrite_within (hF.mono rfl)
    with_reducible assumption
  · with_reducible assumption

theorem fenceForce_within {F : Part → Bool} {s : State} (hF : Part.All F [.tile, .regs, .blocks, .hdrs, .irq, .qeng,
    .crown, .fab, .frames, .ctx, .digest, .bignum, .rng, .key, .dma, .pwr, .perf, .finishes]) {a1 : State} (a2) (k1 :
    s.Within F a1) :
    s.Within F (State.fenceForce a1 a2) := by
  unfold State.fenceForce
  refine within_ite (fun _ => ?_) (fun _ => ?_)
  · refine within_ite (fun _ => ?_) (fun _ => ?_)
    · apply tileFence_within (hF.mono rfl)
      with_reducible assumption
    · apply seq_within (hF.mono rfl)
      with_reducible assumption
  · refine within_ite (fun _ => ?_) (fun _ => ?_)
    · apply fenceBlock_within (hF.mono rfl)
      with_reducible assumption
    · with_reducible assumption

theorem wordWrite_within {F : Part → Bool} {s : State} (hF : Part.All F [.tile, .config, .regs, .blocks, .hdrs, .irq,
    .qeng, .crown, .fab, .frames, .ctx, .epoch, .digest, .bignum, .rng, .custody, .key, .dma, .hb, .clk, .pwr, .tamp,
    .perf, .wrap, .finishes]) {a1 : State} (a2) (a3) (a4) (k1 : s.Within F a1) :
    s.Within F (State.wordWrite a1 a2 a3 a4) := by
  unfold State.wordWrite
  refine within_ite (fun _ => ?_) (fun _ => ?_)
  · with_reducible assumption
  · split
    · rename_i x0 e1
      with_reducible assumption
    · rename_i x2 x3 x4 x5 e6
      refine within_ite (fun _ => ?_) (fun _ => ?_)
      · apply writeReg_within (hF.mono rfl)
        with_reducible assumption
      · apply writeReg_within (hF.mono rfl)
        with_reducible assumption

theorem noRsp_within {F : Part → Bool} {s : State} (hF : Part.All F [.cp]) {a1 : State} (k1 : s.Within F a1) :
    s.Within F (State.noRsp a1) := by
  unfold State.noRsp
  refine within_cp (hF.one rfl) ?_
  with_reducible assumption

theorem respondP_within {F : Part → Bool} {s : State} (hF : Part.All F [.cp]) {a1 : State} (a2) (a3) (a4) (k1 :
    s.Within F a1) :
    s.Within F (State.respond' a1 a2 a3 a4) := by
  unfold State.respond'
  refine within_cp (hF.one rfl) ?_
  with_reducible assumption

theorem rspFirst_within {F : Part → Bool} {s : State} (hF : Part.All F [.cp]) {a1 : State} (a2) (k1 : s.Within F a1) :
    s.Within F (State.rspFirst a1 a2) := by
  unfold State.rspFirst
  refine within_cp (hF.one rfl) ?_
  with_reducible assumption

theorem headerWrite_within {F : Part → Bool} {s : State} (hF : Part.All F [.tile, .config, .regs, .blocks, .hdrs,
    .irq, .qeng, .crown, .fab, .frames, .ctx, .digest, .bignum, .rng, .custody, .key, .dma, .clk, .pwr, .perf,
    .finishes]) {a1 : State} (a2) (a3) (a4) (a5) (k1 : s.Within F a1) :
    s.Within F (State.headerWrite a1 a2 a3 a4 a5) := by
  unfold State.headerWrite
  split
  · rename_i x0
    refine within_ite (fun _ => ?_) (fun _ => ?_)
    · apply ctlWrite_within (hF.mono rfl)
      with_reducible assumption
    · with_reducible assumption
  · rename_i x1
    refine updHdr_bits (hF.mono rfl) (fun _ => rfl) ?_
    with_reducible assumption
  · rename_i x2
    apply faultEnWrite_within (hF.mono rfl)
    with_reducible assumption
  · rename_i x3
    refine updHdr_bits (hF.mono rfl) (fun _ => rfl) ?_
    with_reducible assumption
  · rename_i x4
    apply eventEnWrite_within (hF.mono rfl)
    with_reducible assumption
  · rename_i x5
    refine within_ite (fun _ => ?_) (fun _ => ?_)
    · apply lockWrite_within (hF.mono rfl)
      with_reducible assumption
    · with_reducible assumption
  · rename_i x6
    refine within_ite (fun _ => ?_) (fun _ => ?_)
    · apply ownerWrite_within (hF.mono rfl)
      with_reducible assumption
    · with_reducible assumption
  · rename_i x7
    refine within_ite (fun _ => ?_) (fun _ => ?_)
    · apply fenceForce_within (hF.mono rfl)
      with_reducible assumption
    · with_reducible assumption
  · rename_i x8 e9 e10 e11 e12 e13 e14 e15 e16
    with_reducible assumption

theorem wordRead_within {F : Part → Bool} {s : State} (hF : Part.All F [.cp, .config, .regs]) {a1 : State} (a2) (a3)
    (k1 : s.Within F a1) :
    s.Within F (State.wordRead a1 a2 a3).1 := by
  unfold State.wordRead
  refine within_ite_fst (fun _ => ?_) (fun _ => ?_)
  · refine within_pair_fst ?_
    with_reducible assumption
  · split
    · rename_i x0 e1
      refine within_pair_fst ?_
      with_reducible assumption
    · rename_i x2 x3 x4 x5 e6
      extract_lets +onlyGivenNames y7
      refine within_ite_fst (fun _ => ?_) (fun _ => ?_)
      · refine within_pair_fst ?_
        with_reducible assumption
      · refine within_ite_fst (fun _ => ?_) (fun _ => ?_)
        · refine within_ite_fst (fun _ => ?_) (fun _ => ?_)
          · refine within_pair_fst ?_
            apply setHalf_within (hF.mono rfl)
            with_reducible assumption
          · refine within_pair_fst ?_
            apply setHalf_within (hF.mono rfl)
            with_reducible assumption
        · refine within_ite_fst (fun _ => ?_) (fun _ => ?_)
          · refine within_pair_fst ?_
            apply afterRead_within (hF.mono rfl)
            with_reducible assumption
          · refine within_pair_fst ?_
            apply afterRead_within (hF.mono rfl)
            with_reducible assumption

theorem refuse_within {F : Part → Bool} {s : State} (hF : Part.All F [.cp, .regs]) {a1 : State} (a2) (a3) (a4) (k1 :
    s.Within F a1) :
    s.Within F (State.refuse a1 a2 a3 a4) := by
  unfold State.refuse
  extract_lets +onlyGivenNames y0
  have h1 : s.Within F y0 := by
    unfold y0
    apply logRefusal_within (hF.mono rfl)
    with_reducible assumption
  apply respondP_within (hF.mono rfl)
  with_reducible assumption

theorem pageWrite_within {F : Part → Bool} {s : State} (hF : Part.All F [.tile, .config, .regs, .blocks, .hdrs, .irq,
    .qeng, .crown, .fab, .frames, .ctx, .epoch, .digest, .bignum, .rng, .custody, .key, .dma, .hb, .clk, .pwr, .tamp,
    .perf, .wrap, .finishes]) {a1 : State} (a2) (a3) (a4) (a5) (a6) (k1 : s.Within F a1) :
    s.Within F (State.pageWrite a1 a2 a3 a4 a5 a6) := by
  unfold State.pageWrite
  extract_lets +onlyGivenNames y0
  have h1 : ∀ z0, s.Within F z0 → ∀ z1, ∀ z2, s.Within F (y0 z0 z1 z2) := by
    unfold y0
    intro u2 h3 x4 x5
    refine within_ite (fun _ => ?_) (fun _ => ?_)
    · apply headerWrite_within (hF.mono rfl)
      with_reducible assumption
    · apply wordWrite_within (hF.mono rfl)
      with_reducible assumption
  extract_lets +onlyGivenNames y6
  have h7 : s.Within F y6 := by
    unfold y6
    apply h1
    apply h1
    with_reducible assumption
  refine within_ite (fun _ => ?_) (fun _ => ?_)
  · apply h1
    with_reducible assumption
  · split
    · rename_i x8 x9 x10 e11
      refine within_ite (fun _ => ?_) (fun _ => ?_)
      · apply writeReg_within (hF.mono rfl)
        with_reducible assumption
      · with_reducible assumption
    · rename_i x12 e13
      with_reducible assumption

theorem pageRead_within {F : Part → Bool} {s : State} (hF : Part.All F [.cp, .config, .regs, .hdrs, .rng]) {a1 :
    State} (a2) (a3) (a4) (k1 : s.Within F a1) :
    s.Within F (State.pageRead a1 a2 a3 a4).1 := by
  unfold State.pageRead
  extract_lets +onlyGivenNames y0
  have h1 : ∀ z0, s.Within F z0 → ∀ z1, s.Within F (y0 z0 z1).1 := by
    unfold y0
    intro u2 h3 x4
    refine within_ite_fst (fun _ => ?_) (fun _ => ?_)
    · apply headerRead_within (hF.mono rfl)
      with_reducible assumption
    · apply wordRead_within (hF.mono rfl)
      with_reducible assumption
  refine within_ite_fst (fun _ => ?_) (fun _ => ?_)
  · apply h1
    with_reducible assumption
  · split
    · rename_i x5 x6 x7 e8
      refine within_ite_fst (fun _ => ?_) (fun _ => ?_)
      · refine within_ite_fst (fun _ => ?_) (fun _ => ?_)
        · split
          rename_i x9 x10 u11 e12
          have h13 : s.Within F u11 := by
            refine within_snd e12 ?_
            apply swRead_within (hF.mono rfl)
            with_reducible assumption
          refine within_pair_fst ?_
          with_reducible assumption
        · refine within_ite_fst (fun _ => ?_) (fun _ => ?_)
          · refine within_pair_fst ?_
            apply setHalf_within (hF.mono rfl)
            with_reducible assumption
          · refine within_pair_fst ?_
            apply afterRead_within (hF.mono rfl)
            with_reducible assumption
      · split
        rename_i x14 u15 x16 e17
        have h18 : s.Within F u15 := by
          refine within_fst e17 ?_
          apply h1
          with_reducible assumption
        split
        rename_i x19 u20 x21 e22
        have h23 : s.Within F u20 := by
          refine within_fst e22 ?_
          apply h1
          with_reducible assumption
        refine within_pair_fst ?_
        with_reducible assumption
    · rename_i x24 e25
      split
      rename_i x26 u27 x28 e29
      have h30 : s.Within F u27 := by
        refine within_fst e29 ?_
        apply h1
        with_reducible assumption
      split
      rename_i x31 u32 x33 e34
      have h35 : s.Within F u32 := by
        refine within_fst e34 ?_
        apply h1
        with_reducible assumption
      refine within_pair_fst ?_
      with_reducible assumption

theorem perform_within {F : Part → Bool} {s : State} (hF : Part.All F [.tile, .cp, .config, .regs, .blocks, .hdrs,
    .irq, .qeng, .crown, .fab, .frames, .ctx, .epoch, .digest, .bignum, .rng, .custody, .key, .dma, .hb, .clk, .pwr,
    .tamp, .perf, .wrap, .finishes]) {a1 : State} (a2) (a3) (a4) (k1 : s.Within F a1) :
    s.Within F (State.perform a1 a2 a3 a4) := by
  unfold State.perform
  refine within_ite (fun _ => ?_) (fun _ => ?_)
  · apply respondP_within (hF.mono rfl)
    apply pageWrite_within (hF.mono rfl)
    with_reducible assumption
  · split
    rename_i x0 u1 x2 e3
    have h4 : s.Within F u1 := by
      refine within_fst e3 ?_
      apply pageRead_within (hF.mono rfl)
      with_reducible assumption
    apply respondP_within (hF.mono rfl)
    with_reducible assumption

theorem cpServe_within {F : Part → Bool} {s : State} (hF : Part.All F [.tile, .cp, .config, .regs, .blocks, .hdrs,
    .irq, .qeng, .crown, .fab, .frames, .ctx, .epoch, .digest, .bignum, .rng, .custody, .key, .dma, .hb, .clk, .pwr,
    .tamp, .perf, .wrap, .finishes]) {a1 : State} (a2) (a3) (a4) (k1 : s.Within F a1) :
    s.Within F (State.cpServe a1 a2 a3 a4) := by
  unfold State.cpServe
  refine within_ite (fun _ => ?_) (fun _ => ?_)
  · apply refuse_within (hF.mono rfl)
    with_reducible assumption
  · refine within_ite (fun _ => ?_) (fun _ => ?_)
    · apply refuse_within (hF.mono rfl)
      apply raiseFault_within (hF.mono rfl)
      with_reducible assumption
    · refine within_ite (fun _ => ?_) (fun _ => ?_)
      · apply refuse_within (hF.mono rfl)
        with_reducible assumption
      · refine within_ite (fun _ => ?_) (fun _ => ?_)
        · apply refuse_within (hF.mono rfl)
          apply raiseFault_within (hF.mono rfl)
          with_reducible assumption
        · refine within_ite (fun _ => ?_) (fun _ => ?_)
          · apply respondP_within (hF.mono rfl)
            apply raiseFault_within (hF.mono rfl)
            with_reducible assumption
          · apply perform_within (hF.mono rfl)
            with_reducible assumption

theorem cpDecide_within {F : Part → Bool} {s : State} (hF : Part.All F [.tile, .cp, .config, .regs, .blocks, .hdrs,
    .irq, .qeng, .crown, .fab, .frames, .ctx, .epoch, .digest, .bignum, .rng, .custody, .key, .dma, .hb, .clk, .pwr,
    .tamp, .perf, .wrap, .finishes]) {a1 : State} (a2) (a3) (k1 : s.Within F a1) :
    s.Within F (State.cpDecide a1 a2 a3) := by
  unfold State.cpDecide
  refine within_ite (fun _ => ?_) (fun _ => ?_)
  · apply respondP_within (hF.mono rfl)
    with_reducible assumption
  · refine within_ite (fun _ => ?_) (fun _ => ?_)
    · apply respondP_within (hF.mono rfl)
      refine within_ite (fun _ => ?_) (fun _ => ?_)
      · apply wakeSource_within (hF.mono rfl)
        with_reducible assumption
      · with_reducible assumption
    · split
      · rename_i x0 e1
        apply refuse_within (hF.mono rfl)
        with_reducible assumption
      · rename_i x2 x3 e4
        apply cpServe_within (hF.mono rfl)
        with_reducible assumption

theorem runStalled_within {F : Part → Bool} {s : State} (hF : Part.All F [.tile, .cp, .config, .regs, .blocks, .hdrs,
    .irq, .qeng, .crown, .fab, .frames, .ctx, .epoch, .digest, .bignum, .rng, .custody, .key, .dma, .hb, .clk, .pwr,
    .tamp, .perf, .wrap, .finishes]) {a1 : State} (a2) (k1 : s.Within F a1) :
    s.Within F (State.runStalled a1 a2) := by
  induction' a2 with x xs ih generalizing a1
  · rw [State.runStalled]
    apply keepStalled_within (hF.mono rfl)
    with_reducible assumption
  · rw [State.runStalled]
    refine within_ite (fun _ => ?_) (fun _ => ?_)
    · apply keepStalled_within (hF.mono rfl)
      with_reducible assumption
    · extract_lets +onlyGivenNames y0
      have h1 : s.Within F y0 := by
        unfold y0
        apply cpDecide_within (hF.mono rfl)
        with_reducible assumption
      apply rspFirst_within (hF.mono rfl)
      apply ih
      with_reducible assumption

theorem cpAccess_within {F : Part → Bool} {s : State} (hF : Part.All F [.tile, .cp, .config, .regs, .blocks, .hdrs,
    .irq, .qeng, .crown, .fab, .frames, .ctx, .epoch, .digest, .bignum, .rng, .custody, .key, .dma, .hb, .clk, .pwr,
    .tamp, .perf, .wrap, .finishes]) {a1 : State} (a2) (a3) (k1 : s.Within F a1) :
    s.Within F (State.cpAccess a1 a2 a3) := by
  unfold State.cpAccess
  refine within_ite (fun _ => ?_) (fun _ => ?_)
  · apply noRsp_within (hF.mono rfl)
    with_reducible assumption
  · refine within_ite (fun _ => ?_) (fun _ => ?_)
    · refine within_ite (fun _ => ?_) (fun _ => ?_)
      · refine within_cp (hF.one rfl) ?_
        with_reducible assumption
      · apply noRsp_within (hF.mono rfl)
        with_reducible assumption
    · apply cpDecide_within (hF.mono rfl)
      with_reducible assumption

theorem keeperTakes_within {F : Part → Bool} {s : State} (hF : Part.All F [.tile, .cp, .config, .regs, .blocks, .hdrs,
    .irq, .qeng, .crown, .fab, .frames, .ctx, .epoch, .digest, .bignum, .rng, .custody, .key, .dma, .hb, .clk, .pwr,
    .tamp, .perf, .wrap, .finishes]) {a1 : State} (k1 : s.Within F a1) :
    s.Within F (State.keeperTakes a1) := by
  unfold State.keeperTakes
  refine within_ite (fun _ => ?_) (fun _ => ?_)
  · apply runStalled_within (hF.mono rfl)
    with_reducible assumption
  · with_reducible assumption

theorem cpWrite64_within {F : Part → Bool} {s : State} (hF : Part.All F [.tile, .cp, .config, .regs, .blocks, .hdrs,
    .irq, .qeng, .crown, .fab, .frames, .ctx, .epoch, .digest, .bignum, .rng, .custody, .key, .dma, .hb, .clk, .pwr,
    .tamp, .perf, .wrap, .finishes]) {a1 : State} (a2) (a3) (a4) (a5) (k1 : s.Within F a1) :
    s.Within F (State.cpWrite64 a1 a2 a3 a4 a5) := by
  unfold State.cpWrite64
  apply cpAccess_within (hF.mono rfl)
  with_reducible assumption

theorem softResetDone_within {F : Part → Bool} {s : State} (hF : Part.All F [.tile, .cp, .config, .regs, .blocks,
    .hdrs, .irq, .qeng, .crown, .fab, .frames, .ctx, .epoch, .digest, .bignum, .rng, .custody, .key, .dma, .hb, .clk,
    .pwr, .tamp, .perf, .wrap, .finishes]) {a1 : State} (a2) (k1 : s.Within F a1) :
    s.Within F (State.softResetDone a1 a2) := by
  unfold State.softResetDone
  extract_lets +onlyGivenNames y0
  have h1 : s.Within F y0 := by
    unfold y0
    refine within_ite (fun _ => ?_) (fun _ => ?_)
    · apply updHdr_within (hF.mono rfl)
      with_reducible assumption
    · with_reducible assumption
  apply runStalled_within (hF.mono rfl)
  with_reducible assumption

theorem cpWrite32_within {F : Part → Bool} {s : State} (hF : Part.All F [.tile, .cp, .config, .regs, .blocks, .hdrs,
    .irq, .qeng, .crown, .fab, .frames, .ctx, .epoch, .digest, .bignum, .rng, .custody, .key, .dma, .hb, .clk, .pwr,
    .tamp, .perf, .wrap, .finishes]) {a1 : State} (a2) (a3) (a4) (a5) (k1 : s.Within F a1) :
    s.Within F (State.cpWrite32 a1 a2 a3 a4 a5) := by
  unfold State.cpWrite32
  apply cpAccess_within (hF.mono rfl)
  with_reducible assumption

theorem cpReg_within {F : Part → Bool} {s : State} (hF : Part.All F [.tile, .cp, .config, .regs, .blocks, .hdrs, .irq,
    .qeng, .crown, .fab, .frames, .ctx, .epoch, .digest, .bignum, .rng, .custody, .key, .dma, .hb, .clk, .pwr, .tamp,
    .perf, .wrap, .finishes]) {a1 : State} (a2) (a3) (a4) (a5) (k1 : s.Within F a1) :
    s.Within F (State.cpReg a1 a2 a3 a4 a5) := by
  unfold State.cpReg
  apply cpWrite32_within (hF.mono rfl)
  with_reducible assumption

end Sys2Proof.Machine
end

