-- ==== Sys2Proof/Laws/FrameExec.lean ====
section
/-! SUPPORT. The frames of the operations of Machine/Exec.lean: the parts that each may change. -/

namespace Sys2Proof.Machine

set_option Elab.async false

theorem rngAfter_within {F : Part → Bool} {s : State} (hF : Part.All F [.regs, .hdrs, .irq, .qeng, .crown, .fab, .ctx,
    .digest, .rng, .key, .perf]) {a1 : State} {a2 : State} (k1 : s.Within F a1) (k2 : s.Within F a2) :
    s.Within F (rngAfter a1 a2) := by
  unfold rngAfter
  refine within_ite (fun _ => ?_) (fun _ => ?_)
  · apply downStarts_within (hF.mono rfl)
    with_reducible assumption
  · with_reducible assumption

theorem unit_within {F : Part → Bool} {s : State} (hF : Part.All F []) {a1 : State} (a2) (a3) (a4 : State → State) (k1
    : s.Within F a1) (hf4 : ∀ z0, s.Within F z0 → s.Within F (a4 z0)) :
    s.Within F (State.unit a1 a2 a3 a4) := by
  unfold State.unit
  refine within_ite (fun _ => ?_) (fun _ => ?_)
  · apply hf4
    with_reducible assumption
  · with_reducible assumption

theorem onPage_within {F : Part → Bool} {s : State} (hF : Part.All F []) {a1 : State} (a2) (a3 : State → State) (k1 :
    s.Within F a1) (hf3 : ∀ z0, s.Within F z0 → s.Within F (a3 z0)) :
    s.Within F (State.onPage a1 a2 a3) := by
  unfold State.onPage
  refine within_ite (fun _ => ?_) (fun _ => ?_)
  · apply hf3
    with_reducible assumption
  · with_reducible assumption

theorem frameStep_within {F : Part → Bool} {s : State} (hF : Part.All F [.regs, .blocks, .hdrs, .irq, .qeng, .crown,
    .fab, .ctx, .digest, .rng, .key, .perf]) {a1 : State} (k1 : s.Within F a1) :
    s.Within F (State.frameStep a1) := by
  unfold State.frameStep
  apply lanesFollow_within (hF.mono rfl)
  with_reducible assumption

theorem digestAfter_within {F : Part → Bool} {s : State} (hF : Part.All F [.regs, .blocks, .hdrs, .irq, .qeng, .crown,
    .fab, .frames, .ctx, .digest, .bignum, .rng, .key, .dma, .perf, .finishes]) (a1) (k1 : s.Within F a1.2) :
    s.Within F (digestAfter a1) := by
  unfold digestAfter
  refine within_ite (fun _ => ?_) (fun _ => ?_)
  · apply fence_within (hF.mono rfl)
    apply raiseFault_within (hF.mono rfl)
    with_reducible assumption
  · with_reducible assumption

theorem initEnds_within {F : Part → Bool} {s : State} (hF : Part.All F [.regs, .blocks, .hdrs, .irq, .qeng, .crown,
    .fab, .ctx, .digest, .rng, .key, .perf]) {a1 : State} (a2) (k1 : s.Within F a1) :
    s.Within F (State.initEnds a1 a2) := by
  unfold State.initEnds
  extract_lets +onlyGivenNames y0
  have h1 : s.Within F y0 := by
    unfold y0
    refine within_ite (fun _ => ?_) (fun _ => ?_)
    · apply slotsBack_within (hF.mono rfl)
      with_reducible assumption
    · with_reducible assumption
  refine within_ite (fun _ => ?_) (fun _ => ?_)
  · apply initDone_within (hF.mono rfl)
    with_reducible assumption
  · apply domainsUp_within (hF.mono rfl)
    with_reducible assumption

theorem downEnds_within {F : Part → Bool} {s : State} (hF : Part.All F [.regs, .blocks, .hdrs, .irq, .qeng, .crown,
    .fab, .frames, .ctx, .digest, .bignum, .rng, .custody, .key, .dma, .clk, .perf, .finishes]) {a1 : State} (a2) (k1
    : s.Within F a1) :
    s.Within F (State.downEnds a1 a2) := by
  unfold State.downEnds
  refine within_ite (fun _ => ?_) (fun _ => ?_)
  · apply shutdownDone_within (hF.mono rfl)
    with_reducible assumption
  · with_reducible assumption

theorem onCell_within {F : Part → Bool} {s : State} (hF : Part.All F [.regs, .hb]) {a1 : State} (a2) (a3) (a4 : State
    → State) (k1 : s.Within F a1) (hf4 : ∀ z0, s.Within F z0 → s.Within F (a4 z0)) :
    s.Within F (State.onCell a1 a2 a3 a4) := by
  unfold State.onCell
  refine within_ite (fun _ => ?_) (fun _ => ?_)
  · split
    rename_i x0 x1 u2 e3
    have h4 : s.Within F u2 := by
      refine within_snd e3 ?_
      apply hbReceive_within (hF.mono rfl)
      with_reducible assumption
    refine within_ite (fun _ => ?_) (fun _ => ?_)
    · apply hf4
      with_reducible assumption
    · with_reducible assumption
  · with_reducible assumption

theorem quadFails_within {F : Part → Bool} {s : State} (hF : Part.All F [.regs, .blocks, .hdrs, .irq, .qeng, .crown,
    .fab, .frames, .ctx, .digest, .bignum, .rng, .key, .dma, .perf, .finishes]) {a1 : State} (a2) (k1 : s.Within F a1)
    :
    s.Within F (State.quadFails a1 a2) := by
  unfold State.quadFails
  apply fence_within (hF.mono rfl)
  with_reducible assumption

theorem quadAfter_within {F : Part → Bool} {s : State} (hF : Part.All F [.regs, .blocks, .hdrs, .irq, .qeng, .crown,
    .fab, .frames, .ctx, .digest, .bignum, .rng, .key, .dma, .perf, .finishes]) (a1) (a2) (k2 : s.Within F a2.2) :
    s.Within F (quadAfter a1 a2) := by
  unfold quadAfter
  refine within_ite (fun _ => ?_) (fun _ => ?_)
  · apply quadFails_within (hF.mono rfl)
    with_reducible assumption
  · with_reducible assumption

theorem regWrite_within {F : Part → Bool} {s : State} (hF : Part.All F [.tile, .cp, .config, .regs, .blocks, .hdrs,
    .irq, .qeng, .crown, .fab, .frames, .ctx, .epoch, .digest, .bignum, .rng, .custody, .key, .dma, .hb, .clk, .pwr,
    .tamp, .perf, .wrap, .finishes]) {a1 : State} (a2) (a3) (a4) (a5) (a6) (k1 : s.Within F a1) :
    s.Within F (State.regWrite a1 a2 a3 a4 a5 a6) := by
  unfold State.regWrite
  apply unit_within (hF.mono rfl)
  · with_reducible assumption
  · intro u0 h1
    apply cpReg_within (hF.mono rfl)
    with_reducible assumption

theorem work_within {F : Part → Bool} {s : State} (hF : Part.All F []) {a1 : State} (a2) (a3) (a4 : State → State) (k1
    : s.Within F a1) (hf4 : ∀ z0, s.Within F z0 → s.Within F (a4 z0)) :
    s.Within F (State.work a1 a2 a3 a4) := by
  unfold State.work
  apply unit_within (hF.mono rfl)
  · with_reducible assumption
  · intro u0 h1
    apply whileWorking_within (hF.mono rfl)
    · with_reducible assumption
    · intro u2 h3
      apply hf4
      with_reducible assumption

theorem kdfStep_within {F : Part → Bool} {s : State} (hF : Part.All F [.regs, .blocks, .hdrs, .irq, .qeng, .crown,
    .fab, .frames, .ctx, .digest, .bignum, .rng, .key, .dma, .perf, .finishes]) {a1 : State} (a2) (a3 : State → State)
    (k1 : s.Within F a1) (hf3 : ∀ z0, s.Within F z0 → s.Within F (a3 z0)) :
    s.Within F (State.kdfStep a1 a2 a3) := by
  unfold State.kdfStep
  extract_lets +onlyGivenNames y0
  have h1 : s.Within F y0 := by
    unfold y0
    apply kdfSync_within (hF.mono rfl)
    with_reducible assumption
  split
  · rename_i x2 x3 e4
    apply digestAfter_within (hF.mono rfl)
    apply injectError_within (hF.mono rfl)
    with_reducible assumption
  · rename_i x5 e6
    apply hf3
    with_reducible assumption

theorem hdrWrite_within {F : Part → Bool} {s : State} (hF : Part.All F [.tile, .cp, .config, .regs, .blocks, .hdrs,
    .irq, .qeng, .crown, .fab, .frames, .ctx, .epoch, .digest, .bignum, .rng, .custody, .key, .dma, .hb, .clk, .pwr,
    .tamp, .perf, .wrap, .finishes]) {a1 : State} (a2) (a3) (a4) (a5) (k1 : s.Within F a1) :
    s.Within F (State.hdrWrite a1 a2 a3 a4 a5) := by
  unfold State.hdrWrite
  apply onPage_within (hF.mono rfl)
  · with_reducible assumption
  · intro u0 h1
    apply cpWrite32_within (hF.mono rfl)
    with_reducible assumption

end Sys2Proof.Machine
end

