-- ==== Sys2Proof/Laws/FrameExecBignum.lean ====
section
/-! SUPPORT. The frames of the operations of Machine/ExecBignum.lean: the parts that each may change. -/

namespace Sys2Proof.Machine

set_option Elab.async false

theorem execBnIdleHoldoff_within {F : Part → Bool} {s : State} (hF : Part.All F [.hdrs, .irq]) {a1 : State} (k1 :
    s.Within F a1) :
    ∃ u, execBnIdleHoldoff a1 = .next u ∧ s.Within F u := by
  unfold execBnIdleHoldoff
  refine ⟨_, rfl, ?_⟩
  apply whileWorking_within (hF.mono rfl)
  · with_reducible assumption
  · intro u0 h1
    refine within_ite (fun _ => ?_) (fun _ => ?_)
    · apply raiseEvent_within (hF.mono rfl)
      with_reducible assumption
    · with_reducible assumption

theorem execBnErrorInject_within {F : Part → Bool} {s : State} (hF : Part.All F [.tile, .cp, .config, .regs, .blocks,
    .hdrs, .irq, .qeng, .crown, .fab, .frames, .ctx, .epoch, .digest, .bignum, .rng, .custody, .key, .dma, .hb, .clk,
    .pwr, .tamp, .perf, .wrap, .finishes]) (a1) (a2) {a3 : State} (k3 : s.Within F a3) :
    ∃ u, execBnErrorInject a1 a2 a3 = .next u ∧ s.Within F u := by
  unfold execBnErrorInject
  refine ⟨_, rfl, ?_⟩
  apply cpReg_within (hF.mono rfl)
  with_reducible assumption

theorem execBnChanCfgWrite_within {F : Part → Bool} {s : State} (hF : Part.All F [.tile, .cp, .config, .regs, .blocks,
    .hdrs, .irq, .qeng, .crown, .fab, .frames, .ctx, .epoch, .digest, .bignum, .rng, .custody, .key, .dma, .hb, .clk,
    .pwr, .tamp, .perf, .wrap, .finishes]) (a1) (a2) (a3) {a4 : State} (k4 : s.Within F a4) :
    ∃ u, execBnChanCfgWrite a1 a2 a3 a4 = .next u ∧ s.Within F u := by
  unfold execBnChanCfgWrite
  refine ⟨_, rfl, ?_⟩
  apply regWrite_within (hF.mono rfl)
  with_reducible assumption

theorem execBnKeyEcc_within {F : Part → Bool} {s : State} (hF : Part.All F [.regs, .hdrs, .irq, .qeng, .crown, .fab,
    .digest, .bignum, .rng, .key]) (a1) {a2 : State} (k2 : s.Within F a2) :
    ∃ u, execBnKeyEcc a1 a2 = .next u ∧ s.Within F u := by
  unfold execBnKeyEcc
  refine ⟨_, rfl, ?_⟩
  apply work_within (hF.mono rfl)
  · with_reducible assumption
  · intro u0 h1
    apply bnKeyEcc_within (hF.mono rfl)
    with_reducible assumption

theorem execBnCheckRun_within {F : Part → Bool} {s : State} (hF : Part.All F [.tile, .cp, .config, .regs, .blocks,
    .hdrs, .irq, .qeng, .crown, .fab, .frames, .ctx, .epoch, .digest, .bignum, .rng, .custody, .key, .dma, .hb, .clk,
    .pwr, .tamp, .perf, .wrap, .finishes]) (a1) {a2 : State} (k2 : s.Within F a2) :
    ∃ u, execBnCheckRun a1 a2 = .next u ∧ s.Within F u := by
  unfold execBnCheckRun
  refine ⟨_, rfl, ?_⟩
  apply cpReg_within (hF.mono rfl)
  with_reducible assumption

theorem execBnResplitDue_within {F : Part → Bool} {s : State} (hF : Part.All F [.bignum, .rng]) (a1) {a2 : State} (k2
    : s.Within F a2) :
    ∃ u, execBnResplitDue a1 a2 = .next u ∧ s.Within F u := by
  unfold execBnResplitDue
  refine ⟨_, rfl, ?_⟩
  apply work_within (hF.mono rfl)
  · with_reducible assumption
  · intro u0 h1
    apply bnResplitDue_within (hF.mono rfl)
    with_reducible assumption

theorem execBnCheckFail_within {F : Part → Bool} {s : State} (hF : Part.All F [.regs, .hdrs, .irq, .fab, .digest,
    .bignum, .rng]) (a1) (a2) (a3) {a4 : State} (k4 : s.Within F a4) :
    ∃ u, execBnCheckFail a1 a2 a3 a4 = .next u ∧ s.Within F u := by
  unfold execBnCheckFail
  refine ⟨_, rfl, ?_⟩
  apply work_within (hF.mono rfl)
  · with_reducible assumption
  · intro u0 h1
    apply bnCheckFail_within (hF.mono rfl)
    with_reducible assumption

theorem execBnUnitCheckDone_within {F : Part → Bool} {s : State} (hF : Part.All F [.regs, .blocks, .hdrs, .irq, .qeng,
    .crown, .fab, .frames, .ctx, .digest, .bignum, .rng, .key, .dma, .perf, .finishes]) (a1) (a2) {a3 : State} (k3 :
    s.Within F a3) :
    ∃ u, execBnUnitCheckDone a1 a2 a3 = .next u ∧ s.Within F u := by
  unfold execBnUnitCheckDone
  refine ⟨_, rfl, ?_⟩
  apply whileWorking_within (hF.mono rfl)
  · with_reducible assumption
  · intro u0 h1
    split
    rename_i x2 x3 u4 e5
    have h6 : s.Within F u4 := by
      refine within_snd e5 ?_
      apply bnUnitCheckDone_within (hF.mono rfl)
      with_reducible assumption
    refine within_ite (fun _ => ?_) (fun _ => ?_)
    · apply fence_within (hF.mono rfl)
      with_reducible assumption
    · with_reducible assumption

theorem bnCommand_within {F : Part → Bool} {s : State} (hF : Part.All F [.regs, .blocks, .hdrs, .irq, .qeng, .crown,
    .fab, .frames, .ctx, .digest, .bignum, .rng, .key, .dma, .perf, .finishes]) {a1 : State} (a2) (a3) (a4) (k1 :
    s.Within F a1) :
    s.Within F (State.bnCommand a1 a2 a3 a4) := by
  unfold State.bnCommand
  apply work_within (hF.mono rfl)
  · with_reducible assumption
  · intro u0 h1
    apply digestAfter_within (hF.mono rfl)
    apply bnOp_within (hF.mono rfl)
    with_reducible assumption

theorem execBnPrivPreempt_within {F : Part → Bool} {s : State} (hF : Part.All F [.regs, .hdrs, .irq, .bignum]) (a1)
    {a2 : State} (k2 : s.Within F a2) :
    ∃ u, execBnPrivPreempt a1 a2 = .next u ∧ s.Within F u := by
  unfold execBnPrivPreempt
  refine ⟨_, rfl, ?_⟩
  apply whileWorking_within (hF.mono rfl)
  · with_reducible assumption
  · intro u0 h1
    apply bnPreempt_within (hF.mono rfl)
    with_reducible assumption

theorem execBnBudgetExpiry_within {F : Part → Bool} {s : State} (hF : Part.All F [.regs, .hdrs, .irq, .bignum]) (a1)
    {a2 : State} (k2 : s.Within F a2) :
    ∃ u, execBnBudgetExpiry a1 a2 = .next u ∧ s.Within F u := by
  unfold execBnBudgetExpiry
  refine ⟨_, rfl, ?_⟩
  apply whileWorking_within (hF.mono rfl)
  · with_reducible assumption
  · intro u0 h1
    apply bnBudget_within (hF.mono rfl)
    with_reducible assumption

theorem execBnRngTimeout_within {F : Part → Bool} {s : State} (hF : Part.All F [.regs, .hdrs, .irq, .qeng, .crown,
    .fab, .digest, .bignum, .rng, .key]) (a1) {a2 : State} (k2 : s.Within F a2) :
    ∃ u, execBnRngTimeout a1 a2 = .next u ∧ s.Within F u := by
  unfold execBnRngTimeout
  refine ⟨_, rfl, ?_⟩
  apply work_within (hF.mono rfl)
  · with_reducible assumption
  · intro u0 h1
    apply bnRngTimeout_within (hF.mono rfl)
    with_reducible assumption

theorem execEcdh_within {F : Part → Bool} {s : State} (hF : Part.All F [.regs, .blocks, .hdrs, .irq, .qeng, .crown,
    .fab, .frames, .ctx, .digest, .bignum, .rng, .key, .dma, .perf, .finishes]) (a1) {a2 : State} (k2 : s.Within F a2)
    :
    ∃ u, execEcdh a1 a2 = .next u ∧ s.Within F u := by
  unfold execEcdh
  refine ⟨_, rfl, ?_⟩
  apply bnCommand_within (hF.mono rfl)
  with_reducible assumption

theorem execMlkemEncaps_within {F : Part → Bool} {s : State} (hF : Part.All F [.regs, .blocks, .hdrs, .irq, .qeng,
    .crown, .fab, .frames, .ctx, .digest, .bignum, .rng, .key, .dma, .perf, .finishes]) (a1) {a2 : State} (k2 :
    s.Within F a2) :
    ∃ u, execMlkemEncaps a1 a2 = .next u ∧ s.Within F u := by
  unfold execMlkemEncaps
  refine ⟨_, rfl, ?_⟩
  apply bnCommand_within (hF.mono rfl)
  with_reducible assumption

theorem execBnKeyGen_within {F : Part → Bool} {s : State} (hF : Part.All F [.regs, .blocks, .hdrs, .irq, .qeng,
    .crown, .fab, .frames, .ctx, .digest, .bignum, .rng, .key, .dma, .perf, .finishes]) (a1) {a2 : State} (k2 :
    s.Within F a2) :
    ∃ u, execBnKeyGen a1 a2 = .next u ∧ s.Within F u := by
  unfold execBnKeyGen
  refine ⟨_, rfl, ?_⟩
  apply bnCommand_within (hF.mono rfl)
  with_reducible assumption

theorem execMlkemKeygen_within {F : Part → Bool} {s : State} (hF : Part.All F [.regs, .blocks, .hdrs, .irq, .qeng,
    .crown, .fab, .frames, .ctx, .digest, .bignum, .rng, .key, .dma, .perf, .finishes]) (a1) {a2 : State} (k2 :
    s.Within F a2) :
    ∃ u, execMlkemKeygen a1 a2 = .next u ∧ s.Within F u := by
  unfold execMlkemKeygen
  refine ⟨_, rfl, ?_⟩
  apply bnCommand_within (hF.mono rfl)
  with_reducible assumption

theorem execBnKeyClear_within {F : Part → Bool} {s : State} (hF : Part.All F [.regs, .blocks, .hdrs, .irq, .qeng,
    .crown, .fab, .frames, .ctx, .digest, .bignum, .rng, .key, .dma, .perf, .finishes]) (a1) {a2 : State} (k2 :
    s.Within F a2) :
    ∃ u, execBnKeyClear a1 a2 = .next u ∧ s.Within F u := by
  unfold execBnKeyClear
  refine ⟨_, rfl, ?_⟩
  apply bnCommand_within (hF.mono rfl)
  with_reducible assumption

theorem execMldsaSign_within {F : Part → Bool} {s : State} (hF : Part.All F [.regs, .blocks, .hdrs, .irq, .qeng,
    .crown, .fab, .frames, .ctx, .digest, .bignum, .rng, .key, .dma, .perf, .finishes]) (a1) {a2 : State} (k2 :
    s.Within F a2) :
    ∃ u, execMldsaSign a1 a2 = .next u ∧ s.Within F u := by
  unfold execMldsaSign
  refine ⟨_, rfl, ?_⟩
  apply bnCommand_within (hF.mono rfl)
  with_reducible assumption

theorem execEd25519Verify_within {F : Part → Bool} {s : State} (hF : Part.All F [.regs, .blocks, .hdrs, .irq, .qeng,
    .crown, .fab, .frames, .ctx, .digest, .bignum, .rng, .key, .dma, .perf, .finishes]) (a1) {a2 : State} (k2 :
    s.Within F a2) :
    ∃ u, execEd25519Verify a1 a2 = .next u ∧ s.Within F u := by
  unfold execEd25519Verify
  refine ⟨_, rfl, ?_⟩
  apply bnCommand_within (hF.mono rfl)
  with_reducible assumption

theorem execModexp_within {F : Part → Bool} {s : State} (hF : Part.All F [.regs, .blocks, .hdrs, .irq, .qeng, .crown,
    .fab, .frames, .ctx, .digest, .bignum, .rng, .key, .dma, .perf, .finishes]) (a1) {a2 : State} (k2 : s.Within F a2)
    :
    ∃ u, execModexp a1 a2 = .next u ∧ s.Within F u := by
  unfold execModexp
  refine ⟨_, rfl, ?_⟩
  apply bnCommand_within (hF.mono rfl)
  with_reducible assumption

theorem execX25519_within {F : Part → Bool} {s : State} (hF : Part.All F [.regs, .blocks, .hdrs, .irq, .qeng, .crown,
    .fab, .frames, .ctx, .digest, .bignum, .rng, .key, .dma, .perf, .finishes]) (a1) {a2 : State} (k2 : s.Within F a2)
    :
    ∃ u, execX25519 a1 a2 = .next u ∧ s.Within F u := by
  unfold execX25519
  refine ⟨_, rfl, ?_⟩
  apply bnCommand_within (hF.mono rfl)
  with_reducible assumption

theorem execEcdsaSign_within {F : Part → Bool} {s : State} (hF : Part.All F [.regs, .blocks, .hdrs, .irq, .qeng,
    .crown, .fab, .frames, .ctx, .digest, .bignum, .rng, .key, .dma, .perf, .finishes]) (a1) {a2 : State} (k2 :
    s.Within F a2) :
    ∃ u, execEcdsaSign a1 a2 = .next u ∧ s.Within F u := by
  unfold execEcdsaSign
  refine ⟨_, rfl, ?_⟩
  apply bnCommand_within (hF.mono rfl)
  with_reducible assumption

theorem execEd25519Sign_within {F : Part → Bool} {s : State} (hF : Part.All F [.regs, .blocks, .hdrs, .irq, .qeng,
    .crown, .fab, .frames, .ctx, .digest, .bignum, .rng, .key, .dma, .perf, .finishes]) (a1) {a2 : State} (k2 :
    s.Within F a2) :
    ∃ u, execEd25519Sign a1 a2 = .next u ∧ s.Within F u := by
  unfold execEd25519Sign
  refine ⟨_, rfl, ?_⟩
  apply bnCommand_within (hF.mono rfl)
  with_reducible assumption

theorem execEcdsaVerify_within {F : Part → Bool} {s : State} (hF : Part.All F [.regs, .blocks, .hdrs, .irq, .qeng,
    .crown, .fab, .frames, .ctx, .digest, .bignum, .rng, .key, .dma, .perf, .finishes]) (a1) {a2 : State} (k2 :
    s.Within F a2) :
    ∃ u, execEcdsaVerify a1 a2 = .next u ∧ s.Within F u := by
  unfold execEcdsaVerify
  refine ⟨_, rfl, ?_⟩
  apply bnCommand_within (hF.mono rfl)
  with_reducible assumption

theorem execMlkemDecaps_within {F : Part → Bool} {s : State} (hF : Part.All F [.regs, .blocks, .hdrs, .irq, .qeng,
    .crown, .fab, .frames, .ctx, .digest, .bignum, .rng, .key, .dma, .perf, .finishes]) (a1) {a2 : State} (k2 :
    s.Within F a2) :
    ∃ u, execMlkemDecaps a1 a2 = .next u ∧ s.Within F u := by
  unfold execMlkemDecaps
  refine ⟨_, rfl, ?_⟩
  apply bnCommand_within (hF.mono rfl)
  with_reducible assumption

theorem execMldsaVerify_within {F : Part → Bool} {s : State} (hF : Part.All F [.regs, .blocks, .hdrs, .irq, .qeng,
    .crown, .fab, .frames, .ctx, .digest, .bignum, .rng, .key, .dma, .perf, .finishes]) (a1) {a2 : State} (k2 :
    s.Within F a2) :
    ∃ u, execMldsaVerify a1 a2 = .next u ∧ s.Within F u := by
  unfold execMldsaVerify
  refine ⟨_, rfl, ?_⟩
  apply bnCommand_within (hF.mono rfl)
  with_reducible assumption

theorem execBnKeyLoad_within {F : Part → Bool} {s : State} (hF : Part.All F [.regs, .blocks, .hdrs, .irq, .qeng,
    .crown, .fab, .frames, .ctx, .digest, .bignum, .rng, .key, .dma, .perf, .finishes]) (a1) {a2 : State} (k2 :
    s.Within F a2) :
    ∃ u, execBnKeyLoad a1 a2 = .next u ∧ s.Within F u := by
  unfold execBnKeyLoad
  refine ⟨_, rfl, ?_⟩
  apply bnCommand_within (hF.mono rfl)
  with_reducible assumption

end Sys2Proof.Machine
end

