-- ==== Sys2Proof/Laws/FrameExecClock.lean ====
section
/-! SUPPORT. The frames of the operations of Machine/ExecClock.lean: the parts that each may change. -/

namespace Sys2Proof.Machine

set_option Elab.async false

theorem execPllUnlock_within {F : Part → Bool} {s : State} (hF : Part.All F [.tile, .cp, .config, .regs, .blocks,
    .hdrs, .irq, .qeng, .crown, .fab, .frames, .ctx, .epoch, .digest, .bignum, .rng, .custody, .key, .dma, .hb, .clk,
    .pwr, .tamp, .perf, .wrap, .finishes]) (a1) {a2 : State} (k2 : s.Within F a2) :
    ∃ u, execPllUnlock a1 a2 = .next u ∧ s.Within F u := by
  unfold execPllUnlock
  refine ⟨_, rfl, ?_⟩
  apply unit_within (hF.mono rfl)
  · with_reducible assumption
  · intro u0 h1
    apply keeperTakes_within (hF.mono rfl)
    apply pllUnlock_within (hF.mono rfl)
    with_reducible assumption

theorem execSwitchHandshakeTimeout_within {F : Part → Bool} {s : State} (hF : Part.All F [.regs, .hdrs, .irq, .fab,
    .hb, .clk]) {a1 : State} (k1 : s.Within F a1) :
    ∃ u, execSwitchHandshakeTimeout a1 = .next u ∧ s.Within F u := by
  unfold execSwitchHandshakeTimeout
  refine ⟨_, rfl, ?_⟩
  apply switchTimeout_within (hF.mono rfl)
  with_reducible assumption

theorem execSboscCountRestart_within {F : Part → Bool} {s : State} (hF : Part.All F [.regs, .hdrs, .irq, .clk]) {a1 :
    State} (k1 : s.Within F a1) :
    ∃ u, execSboscCountRestart a1 = .next u ∧ s.Within F u := by
  unfold execSboscCountRestart
  refine ⟨_, rfl, ?_⟩
  apply countRestart_within (hF.mono rfl)
  with_reducible assumption

theorem execPllLock_within {F : Part → Bool} {s : State} (hF : Part.All F [.tile, .cp, .config, .regs, .blocks, .hdrs,
    .irq, .qeng, .crown, .fab, .frames, .ctx, .epoch, .digest, .bignum, .rng, .custody, .key, .dma, .hb, .clk, .pwr,
    .tamp, .perf, .wrap, .finishes]) (a1) {a2 : State} (k2 : s.Within F a2) :
    ∃ u, execPllLock a1 a2 = .next u ∧ s.Within F u := by
  unfold execPllLock
  refine ⟨_, rfl, ?_⟩
  apply unit_within (hF.mono rfl)
  · with_reducible assumption
  · intro u0 h1
    apply keeperTakes_within (hF.mono rfl)
    apply followAll_within (hF.mono rfl)
    apply pllLock_within (hF.mono rfl)
    with_reducible assumption

theorem execClockTrip_within {F : Part → Bool} {s : State} (hF : Part.All F [.tile, .cp, .config, .regs, .blocks,
    .hdrs, .irq, .qeng, .crown, .fab, .frames, .ctx, .epoch, .digest, .bignum, .rng, .custody, .key, .dma, .hb, .clk,
    .pwr, .tamp, .perf, .wrap, .finishes]) (a1) {a2 : State} (k2 : s.Within F a2) :
    ∃ u, execClockTrip a1 a2 = .next u ∧ s.Within F u := by
  unfold execClockTrip
  refine ⟨_, rfl, ?_⟩
  apply unit_within (hF.mono rfl)
  · with_reducible assumption
  · intro u0 h1
    apply keeperTakes_within (hF.mono rfl)
    apply clockTrip_within (hF.mono rfl)
    with_reducible assumption

theorem execPllRelockTimeout_within {F : Part → Bool} {s : State} (hF : Part.All F [.tile, .regs, .blocks, .hdrs,
    .irq, .qeng, .crown, .fab, .frames, .ctx, .digest, .bignum, .rng, .key, .dma, .clk, .pwr, .perf, .finishes]) (a1)
    {a2 : State} (k2 : s.Within F a2) :
    ∃ u, execPllRelockTimeout a1 a2 = .next u ∧ s.Within F u := by
  unfold execPllRelockTimeout
  refine ⟨_, rfl, ?_⟩
  apply unit_within (hF.mono rfl)
  · with_reducible assumption
  · intro u0 h1
    apply pllRelockTimeout_within (hF.mono rfl)
    with_reducible assumption

theorem execSboscJudged_within {F : Part → Bool} {s : State} (hF : Part.All F [.tile, .cp, .config, .regs, .blocks,
    .hdrs, .irq, .qeng, .crown, .fab, .frames, .ctx, .epoch, .digest, .bignum, .rng, .custody, .key, .dma, .hb, .clk,
    .pwr, .tamp, .perf, .wrap, .finishes]) {a1 : State} (k1 : s.Within F a1) :
    ∃ u, execSboscJudged a1 = .next u ∧ s.Within F u := by
  unfold execSboscJudged
  refine ⟨_, rfl, ?_⟩
  apply keeperTakes_within (hF.mono rfl)
  apply sboscJudged_within (hF.mono rfl)
  with_reducible assumption

theorem execClkMaskWrite_within {F : Part → Bool} {s : State} (hF : Part.All F [.tile, .cp, .config, .regs, .blocks,
    .hdrs, .irq, .qeng, .crown, .fab, .frames, .ctx, .epoch, .digest, .bignum, .rng, .custody, .key, .dma, .hb, .clk,
    .pwr, .tamp, .perf, .wrap, .finishes]) (a1) (a2) (a3) {a4 : State} (k4 : s.Within F a4) :
    ∃ u, execClkMaskWrite a1 a2 a3 a4 = .next u ∧ s.Within F u := by
  unfold execClkMaskWrite
  refine ⟨_, rfl, ?_⟩
  apply cpReg_within (hF.mono rfl)
  with_reducible assumption

theorem execUseHbref_within {F : Part → Bool} {s : State} (hF : Part.All F [.tile, .cp, .config, .regs, .blocks,
    .hdrs, .irq, .qeng, .crown, .fab, .frames, .ctx, .epoch, .digest, .bignum, .rng, .custody, .key, .dma, .hb, .clk,
    .pwr, .tamp, .perf, .wrap, .finishes]) (a1) {a2 : State} (k2 : s.Within F a2) :
    ∃ u, execUseHbref a1 a2 = .next u ∧ s.Within F u := by
  unfold execUseHbref
  refine ⟨_, rfl, ?_⟩
  apply cpReg_within (hF.mono rfl)
  with_reducible assumption

theorem execClkPllEnWrite_within {F : Part → Bool} {s : State} (hF : Part.All F [.tile, .cp, .config, .regs, .blocks,
    .hdrs, .irq, .qeng, .crown, .fab, .frames, .ctx, .epoch, .digest, .bignum, .rng, .custody, .key, .dma, .hb, .clk,
    .pwr, .tamp, .perf, .wrap, .finishes]) (a1) (a2) {a3 : State} (k3 : s.Within F a3) :
    ∃ u, execClkPllEnWrite a1 a2 a3 = .next u ∧ s.Within F u := by
  unfold execClkPllEnWrite
  refine ⟨_, rfl, ?_⟩
  apply cpReg_within (hF.mono rfl)
  with_reducible assumption

theorem execSboscCountStart_within {F : Part → Bool} {s : State} (hF : Part.All F [.clk]) {a1 : State} (k1 : s.Within
    F a1) :
    ∃ u, execSboscCountStart a1 = .next u ∧ s.Within F u := by
  unfold execSboscCountStart
  refine ⟨_, rfl, ?_⟩
  apply sboscCountStart_within (hF.mono rfl)
  with_reducible assumption

theorem execClkEnWrite_within {F : Part → Bool} {s : State} (hF : Part.All F [.tile, .cp, .config, .regs, .blocks,
    .hdrs, .irq, .qeng, .crown, .fab, .frames, .ctx, .epoch, .digest, .bignum, .rng, .custody, .key, .dma, .hb, .clk,
    .pwr, .tamp, .perf, .wrap, .finishes]) (a1) (a2) {a3 : State} (k3 : s.Within F a3) :
    ∃ u, execClkEnWrite a1 a2 a3 = .next u ∧ s.Within F u := by
  unfold execClkEnWrite
  refine ⟨_, rfl, ?_⟩
  apply cpWrite64_within (hF.mono rfl)
  with_reducible assumption

theorem execHbrefQualify_within {F : Part → Bool} {s : State} (hF : Part.All F [.tile, .cp, .config, .regs, .blocks,
    .hdrs, .irq, .qeng, .crown, .fab, .frames, .ctx, .epoch, .digest, .bignum, .rng, .custody, .key, .dma, .hb, .clk,
    .pwr, .tamp, .perf, .wrap, .finishes]) {a1 : State} (k1 : s.Within F a1) :
    ∃ u, execHbrefQualify a1 = .next u ∧ s.Within F u := by
  unfold execHbrefQualify
  refine ⟨_, rfl, ?_⟩
  apply keeperTakes_within (hF.mono rfl)
  apply hbrefQualify_within (hF.mono rfl)
  with_reducible assumption

theorem execUseSbosc_within {F : Part → Bool} {s : State} (hF : Part.All F [.tile, .cp, .config, .regs, .blocks,
    .hdrs, .irq, .qeng, .crown, .fab, .frames, .ctx, .epoch, .digest, .bignum, .rng, .custody, .key, .dma, .hb, .clk,
    .pwr, .tamp, .perf, .wrap, .finishes]) (a1) {a2 : State} (k2 : s.Within F a2) :
    ∃ u, execUseSbosc a1 a2 = .next u ∧ s.Within F u := by
  unfold execUseSbosc
  refine ⟨_, rfl, ?_⟩
  apply cpReg_within (hF.mono rfl)
  with_reducible assumption

theorem execClkCompatWrite_within {F : Part → Bool} {s : State} (hF : Part.All F [.tile, .cp, .config, .regs, .blocks,
    .hdrs, .irq, .qeng, .crown, .fab, .frames, .ctx, .epoch, .digest, .bignum, .rng, .custody, .key, .dma, .hb, .clk,
    .pwr, .tamp, .perf, .wrap, .finishes]) (a1) (a2) {a3 : State} (k3 : s.Within F a3) :
    ∃ u, execClkCompatWrite a1 a2 a3 = .next u ∧ s.Within F u := by
  unfold execClkCompatWrite
  refine ⟨_, rfl, ?_⟩
  apply cpReg_within (hF.mono rfl)
  with_reducible assumption

end Sys2Proof.Machine
end

