-- ==== Sys2Proof/Laws/FrameExecContext.lean ====
section
/-! SUPPORT. The frames of the operations of Machine/ExecContext.lean: the parts that each may change. -/

namespace Sys2Proof.Machine

set_option Elab.async false

theorem ctxCmdWrite_within {F : Part → Bool} {s : State} (hF : Part.All F [.tile, .cp, .config, .regs, .blocks, .hdrs,
    .irq, .qeng, .crown, .fab, .frames, .ctx, .epoch, .digest, .bignum, .rng, .custody, .key, .dma, .hb, .clk, .pwr,
    .tamp, .perf, .wrap, .finishes]) {a1 : State} (a2) (a3) (a4) (k1 : s.Within F a1) :
    s.Within F (State.ctxCmdWrite a1 a2 a3 a4) := by
  unfold State.ctxCmdWrite
  apply cpReg_within (hF.mono rfl)
  with_reducible assumption

theorem execCtxEccCorrected_within {F : Part → Bool} {s : State} (hF : Part.All F [.regs, .hdrs, .irq]) (a1) {a2 :
    State} (k2 : s.Within F a2) :
    ∃ u, execCtxEccCorrected a1 a2 = .next u ∧ s.Within F u := by
  unfold execCtxEccCorrected
  refine ⟨_, rfl, ?_⟩
  apply whileWorking_within (hF.mono rfl)
  · with_reducible assumption
  · intro u0 h1
    apply eccCorrected_within (hF.mono rfl)
    with_reducible assumption

theorem execEpochArm_within {F : Part → Bool} {s : State} (hF : Part.All F [.regs, .hdrs, .irq, .epoch, .hb]) (a1) {a2
    : State} (k2 : s.Within F a2) :
    ∃ u, execEpochArm a1 a2 = .next u ∧ s.Within F u := by
  unfold execEpochArm
  refine ⟨_, rfl, ?_⟩
  apply onCell_within (hF.mono rfl)
  · with_reducible assumption
  · intro u0 h1
    apply epochCell_within (hF.mono rfl)
    with_reducible assumption

theorem execEpochCtlCancel_within {F : Part → Bool} {s : State} (hF : Part.All F [.tile, .cp, .config, .regs, .blocks,
    .hdrs, .irq, .qeng, .crown, .fab, .frames, .ctx, .epoch, .digest, .bignum, .rng, .custody, .key, .dma, .hb, .clk,
    .pwr, .tamp, .perf, .wrap, .finishes]) (a1) {a2 : State} (k2 : s.Within F a2) :
    ∃ u, execEpochCtlCancel a1 a2 = .next u ∧ s.Within F u := by
  unfold execEpochCtlCancel
  refine ⟨_, rfl, ?_⟩
  apply cpReg_within (hF.mono rfl)
  with_reducible assumption

theorem execMissWayAllocate_within {F : Part → Bool} {s : State} (hF : Part.All F [.regs, .hdrs, .irq, .fab, .ctx])
    (a1) {a2 : State} (k2 : s.Within F a2) :
    ∃ u, execMissWayAllocate a1 a2 = .next u ∧ s.Within F u := by
  unfold execMissWayAllocate
  refine ⟨_, rfl, ?_⟩
  apply work_within (hF.mono rfl)
  · with_reducible assumption
  · intro u0 h1
    apply missAllocate_within (hF.mono rfl)
    with_reducible assumption

theorem execEpochCtlSched_within {F : Part → Bool} {s : State} (hF : Part.All F [.tile, .cp, .config, .regs, .blocks,
    .hdrs, .irq, .qeng, .crown, .fab, .frames, .ctx, .epoch, .digest, .bignum, .rng, .custody, .key, .dma, .hb, .clk,
    .pwr, .tamp, .perf, .wrap, .finishes]) (a1) {a2 : State} (k2 : s.Within F a2) :
    ∃ u, execEpochCtlSched a1 a2 = .next u ∧ s.Within F u := by
  unfold execEpochCtlSched
  refine ⟨_, rfl, ?_⟩
  apply cpReg_within (hF.mono rfl)
  with_reducible assumption

theorem execCtxAudit_within {F : Part → Bool} {s : State} (hF : Part.All F [.regs, .hdrs, .irq, .qeng, .crown, .fab,
    .ctx, .key, .finishes]) {a1 : State} (k1 : s.Within F a1) :
    ∃ u, execCtxAudit a1 = .next u ∧ s.Within F u := by
  unfold execCtxAudit
  refine ⟨_, rfl, ?_⟩
  apply whileWorking_within (hF.mono rfl)
  · with_reducible assumption
  · intro u0 h1
    apply ctxAudit_within (hF.mono rfl)
    with_reducible assumption

theorem execCtxRetire_within {F : Part → Bool} {s : State} (hF : Part.All F [.regs, .hdrs, .irq, .qeng, .crown, .fab,
    .ctx, .key]) {a1 : State} (k1 : s.Within F a1) :
    ∃ u, execCtxRetire a1 = .next u ∧ s.Within F u := by
  unfold execCtxRetire
  refine ⟨_, rfl, ?_⟩
  apply whileWorking_within (hF.mono rfl)
  · with_reducible assumption
  · intro u0 h1
    apply ctxRetire_within (hF.mono rfl)
    with_reducible assumption

theorem execNodeWritebackDone_within {F : Part → Bool} {s : State} (hF : Part.All F [.regs, .hdrs, .irq, .qeng,
    .crown, .fab, .ctx, .key]) (a1) {a2 : State} (k2 : s.Within F a2) :
    ∃ u, execNodeWritebackDone a1 a2 = .next u ∧ s.Within F u := by
  unfold execNodeWritebackDone
  refine ⟨_, rfl, ?_⟩
  apply whileWorking_within (hF.mono rfl)
  · with_reducible assumption
  · intro u0 h1
    apply nodeDone_within (hF.mono rfl)
    with_reducible assumption

theorem execCtxEccUncorrectable_within {F : Part → Bool} {s : State} (hF : Part.All F [.regs, .blocks, .hdrs, .irq,
    .qeng, .crown, .fab, .frames, .ctx, .digest, .bignum, .rng, .key, .dma, .perf, .finishes]) (a1) {a2 : State} (k2 :
    s.Within F a2) :
    ∃ u, execCtxEccUncorrectable a1 a2 = .next u ∧ s.Within F u := by
  unfold execCtxEccUncorrectable
  refine ⟨_, rfl, ?_⟩
  apply whileWorking_within (hF.mono rfl)
  · with_reducible assumption
  · intro u0 h1
    split
    · rename_i x2 x3 x4
      refine within_ite (fun _ => ?_) (fun _ => ?_)
      · apply eccWay_within (hF.mono rfl)
        with_reducible assumption
      · with_reducible assumption
    · rename_i x5 x6 x7
      split
      rename_i x8 x9 u10 e11
      have h12 : s.Within F u10 := by
        refine within_snd e11 ?_
        apply eccNode_within (hF.mono rfl)
        with_reducible assumption
      refine within_ite (fun _ => ?_) (fun _ => ?_)
      · apply fence_within (hF.mono rfl)
        with_reducible assumption
      · with_reducible assumption

theorem execPageinFail_within {F : Part → Bool} {s : State} (hF : Part.All F [.regs, .blocks, .hdrs, .irq, .qeng,
    .crown, .fab, .frames, .ctx, .digest, .rng, .key, .perf]) (a1) {a2 : State} (k2 : s.Within F a2) :
    ∃ u, execPageinFail a1 a2 = .next u ∧ s.Within F u := by
  unfold execPageinFail
  refine ⟨_, rfl, ?_⟩
  apply whileWorking_within (hF.mono rfl)
  · with_reducible assumption
  · intro u0 h1
    apply frameStep_within (hF.mono rfl)
    apply pageinFailed_within (hF.mono rfl)
    with_reducible assumption

theorem execLearnEnable_within {F : Part → Bool} {s : State} (hF : Part.All F [.tile, .cp, .config, .regs, .blocks,
    .hdrs, .irq, .qeng, .crown, .fab, .frames, .ctx, .epoch, .digest, .bignum, .rng, .custody, .key, .dma, .hb, .clk,
    .pwr, .tamp, .perf, .wrap, .finishes]) (a1) (a2) {a3 : State} (k3 : s.Within F a3) :
    ∃ u, execLearnEnable a1 a2 a3 = .next u ∧ s.Within F u := by
  unfold execLearnEnable
  refine ⟨_, rfl, ?_⟩
  apply cpReg_within (hF.mono rfl)
  with_reducible assumption

theorem execCtxArmNext_within {F : Part → Bool} {s : State} (hF : Part.All F [.regs, .blocks, .hdrs, .irq, .qeng,
    .crown, .fab, .frames, .ctx, .digest, .bignum, .rng, .key, .dma, .perf, .finishes]) {a1 : State} (k1 : s.Within F
    a1) :
    ∃ u, execCtxArmNext a1 = .next u ∧ s.Within F u := by
  unfold execCtxArmNext
  refine ⟨_, rfl, ?_⟩
  apply whileWorking_within (hF.mono rfl)
  · with_reducible assumption
  · intro u0 h1
    apply kdfStep_within (hF.mono rfl)
    · with_reducible assumption
    · intro u2 h3
      apply ctxArm_within (hF.mono rfl)
      with_reducible assumption

theorem execCtxCmdDone_within {F : Part → Bool} {s : State} (hF : Part.All F [.regs, .ctx]) {a1 : State} (k1 :
    s.Within F a1) :
    ∃ u, execCtxCmdDone a1 = .next u ∧ s.Within F u := by
  unfold execCtxCmdDone
  refine ⟨_, rfl, ?_⟩
  apply whileWorking_within (hF.mono rfl)
  · with_reducible assumption
  · intro u0 h1
    apply ctxCmdDone_within (hF.mono rfl)
    with_reducible assumption

theorem execSweepPass_within {F : Part → Bool} {s : State} (hF : Part.All F [.regs, .hdrs, .irq, .qeng, .crown, .fab,
    .ctx, .key]) {a1 : State} (k1 : s.Within F a1) :
    ∃ u, execSweepPass a1 = .next u ∧ s.Within F u := by
  unfold execSweepPass
  refine ⟨_, rfl, ?_⟩
  apply whileWorking_within (hF.mono rfl)
  · with_reducible assumption
  · intro u0 h1
    apply sweep_within (hF.mono rfl)
    with_reducible assumption

theorem execEpochGuardClose_within {F : Part → Bool} {s : State} (hF : Part.All F [.regs, .hb]) {a1 : State} (k1 :
    s.Within F a1) :
    ∃ u, execEpochGuardClose a1 = .next u ∧ s.Within F u := by
  unfold execEpochGuardClose
  refine ⟨_, rfl, ?_⟩
  apply guardClose_within (hF.mono rfl)
  with_reducible assumption

theorem execCtxWritebackFail_within {F : Part → Bool} {s : State} (hF : Part.All F [.regs, .hdrs, .irq, .qeng, .crown,
    .fab, .ctx, .key]) (a1) {a2 : State} (k2 : s.Within F a2) :
    ∃ u, execCtxWritebackFail a1 a2 = .next u ∧ s.Within F u := by
  unfold execCtxWritebackFail
  refine ⟨_, rfl, ?_⟩
  apply whileWorking_within (hF.mono rfl)
  · with_reducible assumption
  · intro u0 h1
    apply writebackFail_within (hF.mono rfl)
    with_reducible assumption

theorem execEpochCtlArm_within {F : Part → Bool} {s : State} (hF : Part.All F [.tile, .cp, .config, .regs, .blocks,
    .hdrs, .irq, .qeng, .crown, .fab, .frames, .ctx, .epoch, .digest, .bignum, .rng, .custody, .key, .dma, .hb, .clk,
    .pwr, .tamp, .perf, .wrap, .finishes]) (a1) {a2 : State} (k2 : s.Within F a2) :
    ∃ u, execEpochCtlArm a1 a2 = .next u ∧ s.Within F u := by
  unfold execEpochCtlArm
  refine ⟨_, rfl, ?_⟩
  apply cpReg_within (hF.mono rfl)
  with_reducible assumption

theorem execEpochFlipDue_within {F : Part → Bool} {s : State} (hF : Part.All F [.regs, .hdrs, .irq, .epoch, .hb]) {a1
    : State} (k1 : s.Within F a1) :
    ∃ u, execEpochFlipDue a1 = .next u ∧ s.Within F u := by
  unfold execEpochFlipDue
  refine ⟨_, rfl, ?_⟩
  apply epochFlipDue_within (hF.mono rfl)
  with_reducible assumption

theorem execCtxInstall_within {F : Part → Bool} {s : State} (hF : Part.All F [.regs, .blocks, .hdrs, .irq, .qeng,
    .crown, .fab, .frames, .ctx, .digest, .bignum, .rng, .key, .dma, .perf, .finishes]) {a1 : State} (k1 : s.Within F
    a1) :
    ∃ u, execCtxInstall a1 = .next u ∧ s.Within F u := by
  unfold execCtxInstall
  refine ⟨_, rfl, ?_⟩
  apply whileWorking_within (hF.mono rfl)
  · with_reducible assumption
  · intro u0 h1
    apply kdfStep_within (hF.mono rfl)
    · with_reducible assumption
    · intro u2 h3
      apply ctxInstall_within (hF.mono rfl)
      with_reducible assumption

theorem execEpochFlip_within {F : Part → Bool} {s : State} (hF : Part.All F [.regs, .hdrs, .irq, .epoch, .hb]) (a1)
    {a2 : State} (k2 : s.Within F a2) :
    ∃ u, execEpochFlip a1 a2 = .next u ∧ s.Within F u := by
  unfold execEpochFlip
  refine ⟨_, rfl, ?_⟩
  apply onCell_within (hF.mono rfl)
  · with_reducible assumption
  · intro u0 h1
    apply epochCell_within (hF.mono rfl)
    with_reducible assumption

theorem execPageinDone_within {F : Part → Bool} {s : State} (hF : Part.All F [.regs, .hdrs, .irq, .qeng, .crown, .fab,
    .ctx, .key]) (a1) {a2 : State} (k2 : s.Within F a2) :
    ∃ u, execPageinDone a1 a2 = .next u ∧ s.Within F u := by
  unfold execPageinDone
  refine ⟨_, rfl, ?_⟩
  apply whileWorking_within (hF.mono rfl)
  · with_reducible assumption
  · intro u0 h1
    apply pageinDone_within (hF.mono rfl)
    with_reducible assumption

theorem execCtxWritebackDone_within {F : Part → Bool} {s : State} (hF : Part.All F [.regs, .hdrs, .irq, .qeng, .crown,
    .fab, .ctx, .key]) (a1) {a2 : State} (k2 : s.Within F a2) :
    ∃ u, execCtxWritebackDone a1 a2 = .next u ∧ s.Within F u := by
  unfold execCtxWritebackDone
  refine ⟨_, rfl, ?_⟩
  apply whileWorking_within (hF.mono rfl)
  · with_reducible assumption
  · intro u0 h1
    apply writebackDone_within (hF.mono rfl)
    with_reducible assumption

theorem execCtxInit_within {F : Part → Bool} {s : State} (hF : Part.All F [.tile, .cp, .config, .regs, .blocks, .hdrs,
    .irq, .qeng, .crown, .fab, .frames, .ctx, .epoch, .digest, .bignum, .rng, .custody, .key, .dma, .hb, .clk, .pwr,
    .tamp, .perf, .wrap, .finishes]) (a1) {a2 : State} (k2 : s.Within F a2) :
    ∃ u, execCtxInit a1 a2 = .next u ∧ s.Within F u := by
  unfold execCtxInit
  refine ⟨_, rfl, ?_⟩
  apply ctxCmdWrite_within (hF.mono rfl)
  with_reducible assumption

theorem execRetireHandle_within {F : Part → Bool} {s : State} (hF : Part.All F [.tile, .cp, .config, .regs, .blocks,
    .hdrs, .irq, .qeng, .crown, .fab, .frames, .ctx, .epoch, .digest, .bignum, .rng, .custody, .key, .dma, .hb, .clk,
    .pwr, .tamp, .perf, .wrap, .finishes]) (a1) (a2) {a3 : State} (k3 : s.Within F a3) :
    ∃ u, execRetireHandle a1 a2 a3 = .next u ∧ s.Within F u := by
  unfold execRetireHandle
  refine ⟨_, rfl, ?_⟩
  apply ctxCmdWrite_within (hF.mono rfl)
  with_reducible assumption

theorem execCtxFlush_within {F : Part → Bool} {s : State} (hF : Part.All F [.tile, .cp, .config, .regs, .blocks,
    .hdrs, .irq, .qeng, .crown, .fab, .frames, .ctx, .epoch, .digest, .bignum, .rng, .custody, .key, .dma, .hb, .clk,
    .pwr, .tamp, .perf, .wrap, .finishes]) (a1) {a2 : State} (k2 : s.Within F a2) :
    ∃ u, execCtxFlush a1 a2 = .next u ∧ s.Within F u := by
  unfold execCtxFlush
  refine ⟨_, rfl, ?_⟩
  apply ctxCmdWrite_within (hF.mono rfl)
  with_reducible assumption

end Sys2Proof.Machine
end

