-- ==== Sys2Proof/Laws/FrameExecCrown.lean ====
section
/-! SUPPORT. The frames of the operations of Machine/ExecCrown.lean: the parts that each may change. -/

namespace Sys2Proof.Machine

set_option Elab.async false

theorem execCqEnable_within {F : Part → Bool} {s : State} (hF : Part.All F [.tile, .cp, .config, .regs, .blocks,
    .hdrs, .irq, .qeng, .crown, .fab, .frames, .ctx, .epoch, .digest, .bignum, .rng, .custody, .key, .dma, .hb, .clk,
    .pwr, .tamp, .perf, .wrap, .finishes]) (a1) (a2) (a3) {a4 : State} (k4 : s.Within F a4) :
    ∃ u, execCqEnable a1 a2 a3 a4 = .next u ∧ s.Within F u := by
  unfold execCqEnable
  refine ⟨_, rfl, ?_⟩
  apply regWrite_within (hF.mono rfl)
  with_reducible assumption

theorem execHostSleepExit_within {F : Part → Bool} {s : State} (hF : Part.All F [.tile, .cp, .config, .regs, .blocks,
    .hdrs, .irq, .qeng, .crown, .fab, .frames, .ctx, .epoch, .digest, .bignum, .rng, .custody, .key, .dma, .hb, .clk,
    .pwr, .tamp, .perf, .wrap, .finishes]) (a1) {a2 : State} (k2 : s.Within F a2) :
    ∃ u, execHostSleepExit a1 a2 = .next u ∧ s.Within F u := by
  unfold execHostSleepExit
  refine ⟨_, rfl, ?_⟩
  apply cpReg_within (hF.mono rfl)
  with_reducible assumption

theorem execMirrorWriteDone_within {F : Part → Bool} {s : State} (hF : Part.All F [.regs, .hdrs, .irq, .crown, .fab])
    (a1) {a2 : State} (k2 : s.Within F a2) :
    ∃ u, execMirrorWriteDone a1 a2 = .next u ∧ s.Within F u := by
  unfold execMirrorWriteDone
  refine ⟨_, rfl, ?_⟩
  apply work_within (hF.mono rfl)
  · with_reducible assumption
  · intro u0 h1
    apply mirrorDone_within (hF.mono rfl)
    with_reducible assumption

theorem execCqDisable_within {F : Part → Bool} {s : State} (hF : Part.All F [.tile, .cp, .config, .regs, .blocks,
    .hdrs, .irq, .qeng, .crown, .fab, .frames, .ctx, .epoch, .digest, .bignum, .rng, .custody, .key, .dma, .hb, .clk,
    .pwr, .tamp, .perf, .wrap, .finishes]) (a1) (a2) {a3 : State} (k3 : s.Within F a3) :
    ∃ u, execCqDisable a1 a2 a3 = .next u ∧ s.Within F u := by
  unfold execCqDisable
  refine ⟨_, rfl, ?_⟩
  apply regWrite_within (hF.mono rfl)
  with_reducible assumption

theorem execIrqVecCfgWrite_within {F : Part → Bool} {s : State} (hF : Part.All F [.tile, .cp, .config, .regs, .blocks,
    .hdrs, .irq, .qeng, .crown, .fab, .frames, .ctx, .epoch, .digest, .bignum, .rng, .custody, .key, .dma, .hb, .clk,
    .pwr, .tamp, .perf, .wrap, .finishes]) (a1) (a2) (a3) {a4 : State} (k4 : s.Within F a4) :
    ∃ u, execIrqVecCfgWrite a1 a2 a3 a4 = .next u ∧ s.Within F u := by
  unfold execIrqVecCfgWrite
  refine ⟨_, rfl, ?_⟩
  apply regWrite_within (hF.mono rfl)
  with_reducible assumption

theorem execEventMsgAccepted_within {F : Part → Bool} {s : State} (hF : Part.All F [.regs, .hdrs, .irq]) {a1 : State}
    (k1 : s.Within F a1) :
    ∃ u, execEventMsgAccepted a1 = .next u ∧ s.Within F u := by
  unfold execEventMsgAccepted
  refine ⟨_, rfl, ?_⟩
  apply msgAccepted_within (hF.mono rfl)
  with_reducible assumption

theorem execCrownAccept_within {F : Part → Bool} {s : State} (hF : Part.All F [.regs, .hdrs, .irq, .qeng, .crown,
    .fab, .ctx, .digest, .bignum, .key, .dma, .perf]) {a1 : State} (k1 : s.Within F a1) :
    ∃ u, execCrownAccept a1 = .next u ∧ s.Within F u := by
  unfold execCrownAccept
  refine ⟨_, rfl, ?_⟩
  apply whileWorking_within (hF.mono rfl)
  · with_reducible assumption
  · intro u0 h1
    refine within_ite (fun _ => ?_) (fun _ => ?_)
    · apply enginesGo_within (hF.mono rfl)
      apply dmaGoOn_within (hF.mono rfl)
      apply crownCycle_within (hF.mono rfl)
      with_reducible assumption
    · with_reducible assumption

theorem execIrqForceEvent_within {F : Part → Bool} {s : State} (hF : Part.All F [.tile, .cp, .config, .regs, .blocks,
    .hdrs, .irq, .qeng, .crown, .fab, .frames, .ctx, .epoch, .digest, .bignum, .rng, .custody, .key, .dma, .hb, .clk,
    .pwr, .tamp, .perf, .wrap, .finishes]) (a1) (a2) {a3 : State} (k3 : s.Within F a3) :
    ∃ u, execIrqForceEvent a1 a2 a3 = .next u ∧ s.Within F u := by
  unfold execIrqForceEvent
  refine ⟨_, rfl, ?_⟩
  apply unit_within (hF.mono rfl)
  · with_reducible assumption
  · intro u0 h1
    apply cpReg_within (hF.mono rfl)
    with_reducible assumption

theorem execHostSleepEnter_within {F : Part → Bool} {s : State} (hF : Part.All F [.tile, .cp, .config, .regs, .blocks,
    .hdrs, .irq, .qeng, .crown, .fab, .frames, .ctx, .epoch, .digest, .bignum, .rng, .custody, .key, .dma, .hb, .clk,
    .pwr, .tamp, .perf, .wrap, .finishes]) (a1) {a2 : State} (k2 : s.Within F a2) :
    ∃ u, execHostSleepEnter a1 a2 = .next u ∧ s.Within F u := by
  unfold execHostSleepEnter
  refine ⟨_, rfl, ?_⟩
  apply cpReg_within (hF.mono rfl)
  with_reducible assumption

theorem execPageEventEnWrite_within {F : Part → Bool} {s : State} (hF : Part.All F [.tile, .cp, .config, .regs,
    .blocks, .hdrs, .irq, .qeng, .crown, .fab, .frames, .ctx, .epoch, .digest, .bignum, .rng, .custody, .key, .dma,
    .hb, .clk, .pwr, .tamp, .perf, .wrap, .finishes]) (a1) (a2) (a3) {a4 : State} (k4 : s.Within F a4) :
    ∃ u, execPageEventEnWrite a1 a2 a3 a4 = .next u ∧ s.Within F u := by
  unfold execPageEventEnWrite
  refine ⟨_, rfl, ?_⟩
  apply hdrWrite_within (hF.mono rfl)
  with_reducible assumption

theorem execEntryWriteDone_within {F : Part → Bool} {s : State} (hF : Part.All F [.hdrs, .irq, .crown, .fab]) (a1) {a2
    : State} (k2 : s.Within F a2) :
    ∃ u, execEntryWriteDone a1 a2 = .next u ∧ s.Within F u := by
  unfold execEntryWriteDone
  refine ⟨_, rfl, ?_⟩
  apply work_within (hF.mono rfl)
  · with_reducible assumption
  · intro u0 h1
    apply entryDone_within (hF.mono rfl)
    with_reducible assumption

theorem execMirrorWriteIssue_within {F : Part → Bool} {s : State} (hF : Part.All F [.regs, .hdrs, .irq, .crown, .fab])
    (a1) {a2 : State} (k2 : s.Within F a2) :
    ∃ u, execMirrorWriteIssue a1 a2 = .next u ∧ s.Within F u := by
  unfold execMirrorWriteIssue
  refine ⟨_, rfl, ?_⟩
  apply work_within (hF.mono rfl)
  · with_reducible assumption
  · intro u0 h1
    refine within_ite (fun _ => ?_) (fun _ => ?_)
    · apply issueMirror_within (hF.mono rfl)
      with_reducible assumption
    · with_reducible assumption

theorem execIrqFlushVector_within {F : Part → Bool} {s : State} (hF : Part.All F [.tile, .cp, .config, .regs, .blocks,
    .hdrs, .irq, .qeng, .crown, .fab, .frames, .ctx, .epoch, .digest, .bignum, .rng, .custody, .key, .dma, .hb, .clk,
    .pwr, .tamp, .perf, .wrap, .finishes]) (a1) (a2) {a3 : State} (k3 : s.Within F a3) :
    ∃ u, execIrqFlushVector a1 a2 a3 = .next u ∧ s.Within F u := by
  unfold execIrqFlushVector
  refine ⟨_, rfl, ?_⟩
  apply unit_within (hF.mono rfl)
  · with_reducible assumption
  · intro u0 h1
    apply cpReg_within (hF.mono rfl)
    with_reducible assumption

theorem execCqConsWrite_within {F : Part → Bool} {s : State} (hF : Part.All F [.tile, .cp, .config, .regs, .blocks,
    .hdrs, .irq, .qeng, .crown, .fab, .frames, .ctx, .epoch, .digest, .bignum, .rng, .custody, .key, .dma, .hb, .clk,
    .pwr, .tamp, .perf, .wrap, .finishes]) (a1) (a2) (a3) {a4 : State} (k4 : s.Within F a4) :
    ∃ u, execCqConsWrite a1 a2 a3 a4 = .next u ∧ s.Within F u := by
  unfold execCqConsWrite
  refine ⟨_, rfl, ?_⟩
  apply regWrite_within (hF.mono rfl)
  with_reducible assumption

theorem execVectorTimerExpiry_within {F : Part → Bool} {s : State} (hF : Part.All F [.irq]) (a1) {a2 : State} (k2 :
    s.Within F a2) :
    ∃ u, execVectorTimerExpiry a1 a2 = .next u ∧ s.Within F u := by
  unfold execVectorTimerExpiry
  refine ⟨_, rfl, ?_⟩
  apply unit_within (hF.mono rfl)
  · with_reducible assumption
  · intro u0 h1
    apply vecTimer_within (hF.mono rfl)
    with_reducible assumption

theorem execEntryWriteFail_within {F : Part → Bool} {s : State} (hF : Part.All F [.regs, .hdrs, .irq, .qeng, .crown,
    .fab, .digest, .dma, .perf]) (a1) {a2 : State} (k2 : s.Within F a2) :
    ∃ u, execEntryWriteFail a1 a2 = .next u ∧ s.Within F u := by
  unfold execEntryWriteFail
  refine ⟨_, rfl, ?_⟩
  apply work_within (hF.mono rfl)
  · with_reducible assumption
  · intro u0 h1
    refine within_ite (fun _ => ?_) (fun _ => ?_)
    · apply entryEcc_within (hF.mono rfl)
      with_reducible assumption
    · apply entryFail_within (hF.mono rfl)
      with_reducible assumption

theorem execFnCqConsWrite_within {F : Part → Bool} {s : State} (hF : Part.All F [.tile, .cp, .config, .regs, .blocks,
    .hdrs, .irq, .qeng, .crown, .fab, .frames, .ctx, .epoch, .digest, .bignum, .rng, .custody, .key, .dma, .hb, .clk,
    .pwr, .tamp, .perf, .wrap, .finishes]) (a1) (a2) (a3) {a4 : State} (k4 : s.Within F a4) :
    ∃ u, execFnCqConsWrite a1 a2 a3 a4 = .next u ∧ s.Within F u := by
  unfold execFnCqConsWrite
  refine ⟨_, rfl, ?_⟩
  apply regWrite_within (hF.mono rfl)
  with_reducible assumption

theorem execIrqFlushAll_within {F : Part → Bool} {s : State} (hF : Part.All F [.tile, .cp, .config, .regs, .blocks,
    .hdrs, .irq, .qeng, .crown, .fab, .frames, .ctx, .epoch, .digest, .bignum, .rng, .custody, .key, .dma, .hb, .clk,
    .pwr, .tamp, .perf, .wrap, .finishes]) (a1) {a2 : State} (k2 : s.Within F a2) :
    ∃ u, execIrqFlushAll a1 a2 = .next u ∧ s.Within F u := by
  unfold execIrqFlushAll
  refine ⟨_, rfl, ?_⟩
  apply cpReg_within (hF.mono rfl)
  with_reducible assumption

end Sys2Proof.Machine
end

