-- ==== Sys2Proof/Laws/FrameExecDigest.lean ====
section
/-! SUPPORT. The frames of the operations of Machine/ExecDigest.lean: the parts that each may change. -/

namespace Sys2Proof.Machine

set_option Elab.async false

theorem execSlotEccError_within {F : Part → Bool} {s : State} (hF : Part.All F [.regs, .hdrs, .irq, .digest]) (a1) {a2
    : State} (k2 : s.Within F a2) :
    ∃ u, execSlotEccError a1 a2 = .next u ∧ s.Within F u := by
  unfold execSlotEccError
  refine ⟨_, rfl, ?_⟩
  apply work_within (hF.mono rfl)
  · with_reducible assumption
  · intro u0 h1
    apply slotEcc_within (hF.mono rfl)
    with_reducible assumption

theorem execDigestHoldTimeout_within {F : Part → Bool} {s : State} (hF : Part.All F [.regs, .hdrs, .irq, .crown,
    .digest]) (a1) {a2 : State} (k2 : s.Within F a2) :
    ∃ u, execDigestHoldTimeout a1 a2 = .next u ∧ s.Within F u := by
  unfold execDigestHoldTimeout
  refine ⟨_, rfl, ?_⟩
  apply work_within (hF.mono rfl)
  · with_reducible assumption
  · intro u0 h1
    apply holdTimeout_within (hF.mono rfl)
    with_reducible assumption

theorem execHmacLoad_within {F : Part → Bool} {s : State} (hF : Part.All F [.regs, .blocks, .hdrs, .irq, .qeng,
    .crown, .fab, .frames, .ctx, .digest, .bignum, .rng, .key, .dma, .perf, .finishes]) (a1) {a2 : State} (k2 :
    s.Within F a2) :
    ∃ u, execHmacLoad a1 a2 = .next u ∧ s.Within F u := by
  unfold execHmacLoad
  refine ⟨_, rfl, ?_⟩
  apply work_within (hF.mono rfl)
  · with_reducible assumption
  · intro u0 h1
    apply digestAfter_within (hF.mono rfl)
    apply hmacLoad_within (hF.mono rfl)
    with_reducible assumption

theorem execDcoreCheckDone_within {F : Part → Bool} {s : State} (hF : Part.All F [.regs, .blocks, .hdrs, .irq, .qeng,
    .crown, .fab, .frames, .ctx, .digest, .bignum, .rng, .key, .dma, .perf, .finishes]) (a1) (a2) {a3 : State} (k3 :
    s.Within F a3) :
    ∃ u, execDcoreCheckDone a1 a2 a3 = .next u ∧ s.Within F u := by
  unfold execDcoreCheckDone
  refine ⟨_, rfl, ?_⟩
  apply work_within (hF.mono rfl)
  · with_reducible assumption
  · intro u0 h1
    split
    rename_i x2 x3 u4 e5
    have h6 : s.Within F u4 := by
      refine within_snd e5 ?_
      apply dcoreCheckEnd_within (hF.mono rfl)
      with_reducible assumption
    refine within_ite (fun _ => ?_) (fun _ => ?_)
    · apply fence_within (hF.mono rfl)
      with_reducible assumption
    · apply digestAfter_within (hF.mono rfl)
      refine within_pair_snd ?_
      with_reducible assumption

theorem digestOp_within {F : Part → Bool} {s : State} (hF : Part.All F [.regs, .blocks, .hdrs, .irq, .qeng, .crown,
    .fab, .frames, .ctx, .digest, .bignum, .rng, .key, .dma, .perf, .finishes]) {a1 : State} (a2) (a3) (k1 : s.Within
    F a1) :
    s.Within F (State.digestOp a1 a2 a3) := by
  unfold State.digestOp
  apply work_within (hF.mono rfl)
  · with_reducible assumption
  · intro u0 h1
    apply digestAfter_within (hF.mono rfl)
    apply digestRun_within (hF.mono rfl)
    with_reducible assumption

theorem execDcoreError_within {F : Part → Bool} {s : State} (hF : Part.All F [.regs, .blocks, .hdrs, .irq, .qeng,
    .crown, .fab, .frames, .ctx, .digest, .bignum, .rng, .key, .dma, .perf, .finishes]) (a1) (a2) {a3 : State} (k3 :
    s.Within F a3) :
    ∃ u, execDcoreError a1 a2 a3 = .next u ∧ s.Within F u := by
  unfold execDcoreError
  refine ⟨_, rfl, ?_⟩
  apply work_within (hF.mono rfl)
  · with_reducible assumption
  · intro u0 h1
    apply digestAfter_within (hF.mono rfl)
    apply dcoreErr_within (hF.mono rfl)
    with_reducible assumption

theorem execDcoreCheckRun_within {F : Part → Bool} {s : State} (hF : Part.All F [.tile, .cp, .config, .regs, .blocks,
    .hdrs, .irq, .qeng, .crown, .fab, .frames, .ctx, .epoch, .digest, .bignum, .rng, .custody, .key, .dma, .hb, .clk,
    .pwr, .tamp, .perf, .wrap, .finishes]) (a1) (a2) {a3 : State} (k3 : s.Within F a3) :
    ∃ u, execDcoreCheckRun a1 a2 a3 = .next u ∧ s.Within F u := by
  unfold execDcoreCheckRun
  refine ⟨_, rfl, ?_⟩
  apply regWrite_within (hF.mono rfl)
  with_reducible assumption

theorem execDigestBudgetExpiry_within {F : Part → Bool} {s : State} (hF : Part.All F [.regs, .hdrs, .irq, .digest])
    (a1) {a2 : State} (k2 : s.Within F a2) :
    ∃ u, execDigestBudgetExpiry a1 a2 = .next u ∧ s.Within F u := by
  unfold execDigestBudgetExpiry
  refine ⟨_, rfl, ?_⟩
  apply work_within (hF.mono rfl)
  · with_reducible assumption
  · intro u0 h1
    apply budgetExpiry_within (hF.mono rfl)
    with_reducible assumption

theorem execHmacClear_within {F : Part → Bool} {s : State} (hF : Part.All F [.regs, .hdrs, .irq, .crown, .fab,
    .digest, .key]) (a1) {a2 : State} (k2 : s.Within F a2) :
    ∃ u, execHmacClear a1 a2 = .next u ∧ s.Within F u := by
  unfold execHmacClear
  refine ⟨_, rfl, ?_⟩
  apply work_within (hF.mono rfl)
  · with_reducible assumption
  · intro u0 h1
    apply hmacClear_within (hF.mono rfl)
    with_reducible assumption

theorem execDigestStateEcc_within {F : Part → Bool} {s : State} (hF : Part.All F [.regs, .hdrs, .irq, .qeng, .crown,
    .fab, .ctx, .digest, .bignum, .rng, .key]) (a1) {a2 : State} (k2 : s.Within F a2) :
    ∃ u, execDigestStateEcc a1 a2 = .next u ∧ s.Within F u := by
  unfold execDigestStateEcc
  refine ⟨_, rfl, ?_⟩
  apply work_within (hF.mono rfl)
  · with_reducible assumption
  · intro u0 h1
    apply digestStateEcc_within (hF.mono rfl)
    with_reducible assumption

theorem execDcoreErrorInject_within {F : Part → Bool} {s : State} (hF : Part.All F [.tile, .cp, .config, .regs,
    .blocks, .hdrs, .irq, .qeng, .crown, .fab, .frames, .ctx, .epoch, .digest, .bignum, .rng, .custody, .key, .dma,
    .hb, .clk, .pwr, .tamp, .perf, .wrap, .finishes]) (a1) (a2) (a3) {a4 : State} (k4 : s.Within F a4) :
    ∃ u, execDcoreErrorInject a1 a2 a3 a4 = .next u ∧ s.Within F u := by
  unfold execDcoreErrorInject
  refine ⟨_, rfl, ?_⟩
  apply regWrite_within (hF.mono rfl)
  with_reducible assumption

theorem execDigest_within {F : Part → Bool} {s : State} (hF : Part.All F [.regs, .blocks, .hdrs, .irq, .qeng, .crown,
    .fab, .frames, .ctx, .digest, .bignum, .rng, .key, .dma, .perf, .finishes]) (a1) {a2 : State} (k2 : s.Within F a2)
    :
    ∃ u, execDigest a1 a2 = .next u ∧ s.Within F u := by
  unfold execDigest
  refine ⟨_, rfl, ?_⟩
  apply digestOp_within (hF.mono rfl)
  with_reducible assumption

theorem execHmac_within {F : Part → Bool} {s : State} (hF : Part.All F [.regs, .blocks, .hdrs, .irq, .qeng, .crown,
    .fab, .frames, .ctx, .digest, .bignum, .rng, .key, .dma, .perf, .finishes]) (a1) {a2 : State} (k2 : s.Within F a2)
    :
    ∃ u, execHmac a1 a2 = .next u ∧ s.Within F u := by
  unfold execHmac
  refine ⟨_, rfl, ?_⟩
  apply digestOp_within (hF.mono rfl)
  with_reducible assumption

theorem execDigestContinue_within {F : Part → Bool} {s : State} (hF : Part.All F [.regs, .blocks, .hdrs, .irq, .qeng,
    .crown, .fab, .frames, .ctx, .digest, .bignum, .rng, .key, .dma, .perf, .finishes]) (a1) {a2 : State} (k2 :
    s.Within F a2) :
    ∃ u, execDigestContinue a1 a2 = .next u ∧ s.Within F u := by
  unfold execDigestContinue
  refine ⟨_, rfl, ?_⟩
  apply digestOp_within (hF.mono rfl)
  with_reducible assumption

end Sys2Proof.Machine
end

