-- ==== Sys2Proof/Laws/FrameExecDma.lean ====
section
/-! SUPPORT. The frames of the operations of Machine/ExecDma.lean: the parts that each may change. -/

namespace Sys2Proof.Machine

set_option Elab.async false

theorem dchControl_within {F : Part → Bool} {s : State} (hF : Part.All F [.tile, .cp, .config, .regs, .blocks, .hdrs,
    .irq, .qeng, .crown, .fab, .frames, .ctx, .epoch, .digest, .bignum, .rng, .custody, .key, .dma, .hb, .clk, .pwr,
    .tamp, .perf, .wrap, .finishes]) {a1 : State} (a2) (a3) (a4) (k1 : s.Within F a1) :
    s.Within F (State.dchControl a1 a2 a3 a4) := by
  unfold State.dchControl
  apply regWrite_within (hF.mono rfl)
  with_reducible assumption

theorem execDmaShdArm_within {F : Part → Bool} {s : State} (hF : Part.All F [.tile, .cp, .config, .regs, .blocks,
    .hdrs, .irq, .qeng, .crown, .fab, .frames, .ctx, .epoch, .digest, .bignum, .rng, .custody, .key, .dma, .hb, .clk,
    .pwr, .tamp, .perf, .wrap, .finishes]) (a1) (a2) {a3 : State} (k3 : s.Within F a3) :
    ∃ u, execDmaShdArm a1 a2 a3 = .next u ∧ s.Within F u := by
  unfold execDmaShdArm
  refine ⟨_, rfl, ?_⟩
  apply regWrite_within (hF.mono rfl)
  with_reducible assumption

theorem execDmaTransferEnd_within {F : Part → Bool} {s : State} (hF : Part.All F [.regs, .hdrs, .irq, .crown, .fab,
    .dma]) (a1) {a2 : State} (k2 : s.Within F a2) :
    ∃ u, execDmaTransferEnd a1 a2 = .next u ∧ s.Within F u := by
  unfold execDmaTransferEnd
  refine ⟨_, rfl, ?_⟩
  apply work_within (hF.mono rfl)
  · with_reducible assumption
  · intro u0 h1
    apply dmaTransferEnd_within (hF.mono rfl)
    with_reducible assumption

theorem execDmaRingPoll_within {F : Part → Bool} {s : State} (hF : Part.All F [.regs, .hdrs, .irq, .fab, .dma]) (a1)
    {a2 : State} (k2 : s.Within F a2) :
    ∃ u, execDmaRingPoll a1 a2 = .next u ∧ s.Within F u := by
  unfold execDmaRingPoll
  refine ⟨_, rfl, ?_⟩
  apply work_within (hF.mono rfl)
  · with_reducible assumption
  · intro u0 h1
    apply dmaRingPoll_within (hF.mono rfl)
    with_reducible assumption

theorem execDmaResume_within {F : Part → Bool} {s : State} (hF : Part.All F [.tile, .cp, .config, .regs, .blocks,
    .hdrs, .irq, .qeng, .crown, .fab, .frames, .ctx, .epoch, .digest, .bignum, .rng, .custody, .key, .dma, .hb, .clk,
    .pwr, .tamp, .perf, .wrap, .finishes]) (a1) (a2) {a3 : State} (k3 : s.Within F a3) :
    ∃ u, execDmaResume a1 a2 a3 = .next u ∧ s.Within F u := by
  unfold execDmaResume
  refine ⟨_, rfl, ?_⟩
  apply dchControl_within (hF.mono rfl)
  with_reducible assumption

theorem execDmaKick_within {F : Part → Bool} {s : State} (hF : Part.All F [.tile, .cp, .config, .regs, .blocks, .hdrs,
    .irq, .qeng, .crown, .fab, .frames, .ctx, .epoch, .digest, .bignum, .rng, .custody, .key, .dma, .hb, .clk, .pwr,
    .tamp, .perf, .wrap, .finishes]) (a1) (a2) {a3 : State} (k3 : s.Within F a3) :
    ∃ u, execDmaKick a1 a2 a3 = .next u ∧ s.Within F u := by
  unfold execDmaKick
  refine ⟨_, rfl, ?_⟩
  apply dchControl_within (hF.mono rfl)
  with_reducible assumption

theorem execDmaDisable_within {F : Part → Bool} {s : State} (hF : Part.All F [.tile, .cp, .config, .regs, .blocks,
    .hdrs, .irq, .qeng, .crown, .fab, .frames, .ctx, .epoch, .digest, .bignum, .rng, .custody, .key, .dma, .hb, .clk,
    .pwr, .tamp, .perf, .wrap, .finishes]) (a1) (a2) {a3 : State} (k3 : s.Within F a3) :
    ∃ u, execDmaDisable a1 a2 a3 = .next u ∧ s.Within F u := by
  unfold execDmaDisable
  refine ⟨_, rfl, ?_⟩
  apply dchControl_within (hF.mono rfl)
  with_reducible assumption

end Sys2Proof.Machine
end

