-- ==== Sys2Proof/Laws/FrameExecFrame.lean ====
section
/-! SUPPORT. The frames of the operations of Machine/ExecFrame.lean: the parts that each may change. -/

namespace Sys2Proof.Machine

set_option Elab.async false

theorem execFrameDstWritesDone_within {F : Part → Bool} {s : State} (hF : Part.All F [.regs, .blocks, .hdrs, .irq,
    .qeng, .crown, .fab, .frames, .ctx, .digest, .rng, .key, .perf]) (a1) {a2 : State} (k2 : s.Within F a2) :
    ∃ u, execFrameDstWritesDone a1 a2 = .next u ∧ s.Within F u := by
  unfold execFrameDstWritesDone
  refine ⟨_, rfl, ?_⟩
  apply whileWorking_within (hF.mono rfl)
  · with_reducible assumption
  · intro u0 h1
    apply frameStep_within (hF.mono rfl)
    apply frameDstDone_within (hF.mono rfl)
    with_reducible assumption

theorem execLaneReplayStart_within {F : Part → Bool} {s : State} (hF : Part.All F [.regs, .blocks, .hdrs, .irq, .qeng,
    .crown, .fab, .frames, .ctx, .digest, .rng, .key, .perf]) (a1) {a2 : State} (k2 : s.Within F a2) :
    ∃ u, execLaneReplayStart a1 a2 = .next u ∧ s.Within F u := by
  unfold execLaneReplayStart
  refine ⟨_, rfl, ?_⟩
  apply work_within (hF.mono rfl)
  · with_reducible assumption
  · intro u0 h1
    apply frameStep_within (hF.mono rfl)
    apply replayStart_within (hF.mono rfl)
    with_reducible assumption

theorem execStagingEccError_within {F : Part → Bool} {s : State} (hF : Part.All F [.regs, .blocks, .hdrs, .irq, .qeng,
    .crown, .fab, .frames, .ctx, .digest, .bignum, .rng, .key, .dma, .perf, .finishes]) (a1) (a2) {a3 : State} (k3 :
    s.Within F a3) :
    ∃ u, execStagingEccError a1 a2 a3 = .next u ∧ s.Within F u := by
  unfold execStagingEccError
  refine ⟨_, rfl, ?_⟩
  apply whileWorking_within (hF.mono rfl)
  · with_reducible assumption
  · intro u0 h1
    apply frameStep_within (hF.mono rfl)
    apply quadAfter_within (hF.mono rfl)
    apply stagingEcc_within (hF.mono rfl)
    with_reducible assumption

theorem laneOp_within {F : Part → Bool} {s : State} (hF : Part.All F [.regs, .blocks, .hdrs, .irq, .qeng, .crown,
    .fab, .frames, .ctx, .digest, .rng, .key, .perf]) {a1 : State} (a2) (a3) (k1 : s.Within F a1) :
    s.Within F (State.laneOp a1 a2 a3) := by
  unfold State.laneOp
  apply work_within (hF.mono rfl)
  · with_reducible assumption
  · intro u0 h1
    apply frameStep_within (hF.mono rfl)
    apply laneFinish_within (hF.mono rfl)
    with_reducible assumption

theorem execLanePeriodicCheck_within {F : Part → Bool} {s : State} (hF : Part.All F [.frames]) (a1) {a2 : State} (k2 :
    s.Within F a2) :
    ∃ u, execLanePeriodicCheck a1 a2 = .next u ∧ s.Within F u := by
  unfold execLanePeriodicCheck
  refine ⟨_, rfl, ?_⟩
  apply work_within (hF.mono rfl)
  · with_reducible assumption
  · intro u0 h1
    apply laneCheckDue_within (hF.mono rfl)
    with_reducible assumption

theorem execFrameStaged_within {F : Part → Bool} {s : State} (hF : Part.All F [.regs, .blocks, .hdrs, .irq, .qeng,
    .crown, .fab, .frames, .ctx, .digest, .bignum, .rng, .key, .dma, .perf, .finishes]) (a1) {a2 : State} (k2 :
    s.Within F a2) :
    ∃ u, execFrameStaged a1 a2 = .next u ∧ s.Within F u := by
  unfold execFrameStaged
  refine ⟨_, rfl, ?_⟩
  apply work_within (hF.mono rfl)
  · with_reducible assumption
  · intro u0 h1
    apply frameStep_within (hF.mono rfl)
    apply quadAfter_within (hF.mono rfl)
    apply frameStaged_within (hF.mono rfl)
    with_reducible assumption

theorem execFrameDispatch_within {F : Part → Bool} {s : State} (hF : Part.All F [.tile, .regs, .blocks, .hdrs, .irq,
    .qeng, .crown, .fab, .frames, .ctx, .rng, .key, .clk, .wrap]) (a1) {a2 : State} (k2 : s.Within F a2) :
    ∃ u, execFrameDispatch a1 a2 = .next u ∧ s.Within F u := by
  unfold execFrameDispatch
  refine ⟨_, rfl, ?_⟩
  apply whileWorking_within (hF.mono rfl)
  · with_reducible assumption
  · intro u0 h1
    apply frameDispatch_within (hF.mono rfl)
    with_reducible assumption

theorem execLaneErrorInject_within {F : Part → Bool} {s : State} (hF : Part.All F [.tile, .cp, .config, .regs,
    .blocks, .hdrs, .irq, .qeng, .crown, .fab, .frames, .ctx, .epoch, .digest, .bignum, .rng, .custody, .key, .dma,
    .hb, .clk, .pwr, .tamp, .perf, .wrap, .finishes]) (a1) (a2) (a3) {a4 : State} (k4 : s.Within F a4) :
    ∃ u, execLaneErrorInject a1 a2 a3 a4 = .next u ∧ s.Within F u := by
  unfold execLaneErrorInject
  refine ⟨_, rfl, ?_⟩
  apply regWrite_within (hF.mono rfl)
  with_reducible assumption

theorem execLaneCheckRun_within {F : Part → Bool} {s : State} (hF : Part.All F [.tile, .cp, .config, .regs, .blocks,
    .hdrs, .irq, .qeng, .crown, .fab, .frames, .ctx, .epoch, .digest, .bignum, .rng, .custody, .key, .dma, .hb, .clk,
    .pwr, .tamp, .perf, .wrap, .finishes]) (a1) (a2) {a3 : State} (k3 : s.Within F a3) :
    ∃ u, execLaneCheckRun a1 a2 a3 = .next u ∧ s.Within F u := by
  unfold execLaneCheckRun
  refine ⟨_, rfl, ?_⟩
  apply regWrite_within (hF.mono rfl)
  with_reducible assumption

theorem execLaneError_within {F : Part → Bool} {s : State} (hF : Part.All F [.regs, .blocks, .hdrs, .irq, .qeng,
    .crown, .fab, .frames, .ctx, .digest, .bignum, .rng, .key, .dma, .perf, .finishes]) (a1) (a2) (a3) (a4) {a5 :
    State} (k5 : s.Within F a5) :
    ∃ u, execLaneError a1 a2 a3 a4 a5 = .next u ∧ s.Within F u := by
  unfold execLaneError
  refine ⟨_, rfl, ?_⟩
  apply work_within (hF.mono rfl)
  · with_reducible assumption
  · intro u0 h1
    split
    · rename_i x2 x3 e4
      refine within_ite (fun _ => ?_) (fun _ => ?_)
      · apply frameStep_within (hF.mono rfl)
        apply quadAfter_within (hF.mono rfl)
        apply laneErr_within (hF.mono rfl)
        with_reducible assumption
      · with_reducible assumption
    · rename_i x5 e6
      with_reducible assumption

theorem execAfailWindowEnd_within {F : Part → Bool} {s : State} (hF : Part.All F [.regs, .frames]) (a1) {a2 : State}
    (k2 : s.Within F a2) :
    ∃ u, execAfailWindowEnd a1 a2 = .next u ∧ s.Within F u := by
  unfold execAfailWindowEnd
  refine ⟨_, rfl, ?_⟩
  apply work_within (hF.mono rfl)
  · with_reducible assumption
  · intro u0 h1
    apply setQuad_within (hF.mono rfl)
    refine put_within (hF.mono rfl) (not_configured rfl) ?_
    with_reducible assumption

theorem execLaneCheckDone_within {F : Part → Bool} {s : State} (hF : Part.All F [.regs, .blocks, .hdrs, .irq, .qeng,
    .crown, .fab, .frames, .ctx, .digest, .bignum, .rng, .key, .dma, .perf, .finishes]) (a1) (a2) {a3 : State} (k3 :
    s.Within F a3) :
    ∃ u, execLaneCheckDone a1 a2 a3 = .next u ∧ s.Within F u := by
  unfold execLaneCheckDone
  refine ⟨_, rfl, ?_⟩
  apply work_within (hF.mono rfl)
  · with_reducible assumption
  · intro u0 h1
    split
    rename_i x2 x3 u4 e5
    have h6 : s.Within F u4 := by
      refine within_snd e5 ?_
      apply laneCheckEnd_within (hF.mono rfl)
      with_reducible assumption
    apply frameStep_within (hF.mono rfl)
    refine within_ite (fun _ => ?_) (fun _ => ?_)
    · apply fence_within (hF.mono rfl)
      with_reducible assumption
    · with_reducible assumption

theorem execEspDecrypt_within {F : Part → Bool} {s : State} (hF : Part.All F [.regs, .blocks, .hdrs, .irq, .qeng,
    .crown, .fab, .frames, .ctx, .digest, .rng, .key, .perf]) (a1) {a2 : State} (k2 : s.Within F a2) :
    ∃ u, execEspDecrypt a1 a2 = .next u ∧ s.Within F u := by
  unfold execEspDecrypt
  refine ⟨_, rfl, ?_⟩
  apply laneOp_within (hF.mono rfl)
  with_reducible assumption

theorem execEspEncrypt_within {F : Part → Bool} {s : State} (hF : Part.All F [.regs, .blocks, .hdrs, .irq, .qeng,
    .crown, .fab, .frames, .ctx, .digest, .rng, .key, .perf]) (a1) {a2 : State} (k2 : s.Within F a2) :
    ∃ u, execEspEncrypt a1 a2 = .next u ∧ s.Within F u := by
  unfold execEspEncrypt
  refine ⟨_, rfl, ?_⟩
  apply laneOp_within (hF.mono rfl)
  with_reducible assumption

theorem execGcmSeal_within {F : Part → Bool} {s : State} (hF : Part.All F [.regs, .blocks, .hdrs, .irq, .qeng, .crown,
    .fab, .frames, .ctx, .digest, .rng, .key, .perf]) (a1) {a2 : State} (k2 : s.Within F a2) :
    ∃ u, execGcmSeal a1 a2 = .next u ∧ s.Within F u := by
  unfold execGcmSeal
  refine ⟨_, rfl, ?_⟩
  apply laneOp_within (hF.mono rfl)
  with_reducible assumption

theorem execGcmOpen_within {F : Part → Bool} {s : State} (hF : Part.All F [.regs, .blocks, .hdrs, .irq, .qeng, .crown,
    .fab, .frames, .ctx, .digest, .rng, .key, .perf]) (a1) {a2 : State} (k2 : s.Within F a2) :
    ∃ u, execGcmOpen a1 a2 = .next u ∧ s.Within F u := by
  unfold execGcmOpen
  refine ⟨_, rfl, ?_⟩
  apply laneOp_within (hF.mono rfl)
  with_reducible assumption

theorem execMacsecValidate_within {F : Part → Bool} {s : State} (hF : Part.All F [.regs, .blocks, .hdrs, .irq, .qeng,
    .crown, .fab, .frames, .ctx, .digest, .rng, .key, .perf]) (a1) {a2 : State} (k2 : s.Within F a2) :
    ∃ u, execMacsecValidate a1 a2 = .next u ∧ s.Within F u := by
  unfold execMacsecValidate
  refine ⟨_, rfl, ?_⟩
  apply laneOp_within (hF.mono rfl)
  with_reducible assumption

theorem execChachaOpen_within {F : Part → Bool} {s : State} (hF : Part.All F [.regs, .blocks, .hdrs, .irq, .qeng,
    .crown, .fab, .frames, .ctx, .digest, .rng, .key, .perf]) (a1) {a2 : State} (k2 : s.Within F a2) :
    ∃ u, execChachaOpen a1 a2 = .next u ∧ s.Within F u := by
  unfold execChachaOpen
  refine ⟨_, rfl, ?_⟩
  apply laneOp_within (hF.mono rfl)
  with_reducible assumption

theorem execChachaSeal_within {F : Part → Bool} {s : State} (hF : Part.All F [.regs, .blocks, .hdrs, .irq, .qeng,
    .crown, .fab, .frames, .ctx, .digest, .rng, .key, .perf]) (a1) {a2 : State} (k2 : s.Within F a2) :
    ∃ u, execChachaSeal a1 a2 = .next u ∧ s.Within F u := by
  unfold execChachaSeal
  refine ⟨_, rfl, ?_⟩
  apply laneOp_within (hF.mono rfl)
  with_reducible assumption

theorem execMacsecProtect_within {F : Part → Bool} {s : State} (hF : Part.All F [.regs, .blocks, .hdrs, .irq, .qeng,
    .crown, .fab, .frames, .ctx, .digest, .rng, .key, .perf]) (a1) {a2 : State} (k2 : s.Within F a2) :
    ∃ u, execMacsecProtect a1 a2 = .next u ∧ s.Within F u := by
  unfold execMacsecProtect
  refine ⟨_, rfl, ?_⟩
  apply laneOp_within (hF.mono rfl)
  with_reducible assumption

end Sys2Proof.Machine
end

