-- ==== Sys2Proof/Laws/FrameExecHatband.lean ====
section
/-! SUPPORT. The frames of the operations of Machine/ExecHatband.lean: the parts that each may change. -/

namespace Sys2Proof.Machine

set_option Elab.async false

theorem execMsg_within {F : Part → Bool} {s : State} (hF : Part.All F [.regs, .hdrs, .irq, .hb]) (a1) {a2 : State} (k2
    : s.Within F a2) :
    ∃ u, execMsg a1 a2 = .next u ∧ s.Within F u := by
  unfold execMsg
  refine ⟨_, rfl, ?_⟩
  apply onCell_within (hF.mono rfl)
  · with_reducible assumption
  · intro u0 h1
    apply msgIn_within (hF.mono rfl)
    with_reducible assumption

theorem execMsgSend_within {F : Part → Bool} {s : State} (hF : Part.All F [.tile, .cp, .config, .regs, .blocks, .hdrs,
    .irq, .qeng, .crown, .fab, .frames, .ctx, .epoch, .digest, .bignum, .rng, .custody, .key, .dma, .hb, .clk, .pwr,
    .tamp, .perf, .wrap, .finishes]) (a1) (a2) {a3 : State} (k3 : s.Within F a3) :
    ∃ u, execMsgSend a1 a2 a3 = .next u ∧ s.Within F u := by
  unfold execMsgSend
  refine ⟨_, rfl, ?_⟩
  apply cpReg_within (hF.mono rfl)
  with_reducible assumption

theorem execRenum_within {F : Part → Bool} {s : State} (hF : Part.All F [.addr, .tile, .regs, .blocks, .hdrs, .rng,
    .key, .hb, .wrap]) (a1) {a2 : State} (k2 : s.Within F a2) :
    ∃ u, execRenum a1 a2 = .next u ∧ s.Within F u := by
  unfold execRenum
  refine ⟨_, rfl, ?_⟩
  apply onCell_within (hF.mono rfl)
  · with_reducible assumption
  · intro u0 h1
    apply hbRenum_within (hF.mono rfl)
    with_reducible assumption

theorem execLoop_within {F : Part → Bool} {s : State} (hF : Part.All F [.regs, .hb]) (a1) {a2 : State} (k2 : s.Within
    F a2) :
    ∃ u, execLoop a1 a2 = .next u ∧ s.Within F u := by
  unfold execLoop
  refine ⟨_, rfl, ?_⟩
  apply onCell_within (hF.mono rfl)
  · with_reducible assumption
  · intro u0 h1
    with_reducible assumption

theorem execBypassLeave_within {F : Part → Bool} {s : State} (hF : Part.All F [.regs, .hb]) (a1) {a2 : State} (k2 :
    s.Within F a2) :
    ∃ u, execBypassLeave a1 a2 = .next u ∧ s.Within F u := by
  unfold execBypassLeave
  refine ⟨_, rfl, ?_⟩
  refine within_ite (fun _ => ?_) (fun _ => ?_)
  · apply onCell_within (hF.mono rfl)
    · with_reducible assumption
    · intro u0 h1
      apply bypassSet_within (hF.mono rfl)
      with_reducible assumption
  · with_reducible assumption

theorem execMsgPop_within {F : Part → Bool} {s : State} (hF : Part.All F [.tile, .cp, .config, .regs, .blocks, .hdrs,
    .irq, .qeng, .crown, .fab, .frames, .ctx, .epoch, .digest, .bignum, .rng, .custody, .key, .dma, .hb, .clk, .pwr,
    .tamp, .perf, .wrap, .finishes]) (a1) {a2 : State} (k2 : s.Within F a2) :
    ∃ u, execMsgPop a1 a2 = .next u ∧ s.Within F u := by
  unfold execMsgPop
  refine ⟨_, rfl, ?_⟩
  apply cpReg_within (hF.mono rfl)
  with_reducible assumption

theorem execUpstreamLoss_within {F : Part → Bool} {s : State} (hF : Part.All F [.hdrs, .irq, .hb]) {a1 : State}
    (k1 : s.Within F a1) :
    ∃ u, execUpstreamLoss a1 = .next u ∧ s.Within F u := by
  unfold execUpstreamLoss
  refine ⟨_, rfl, ?_⟩
  apply upLoss_within (hF.mono rfl)
  with_reducible assumption

theorem execDownstreamTermCheck_within {F : Part → Bool} {s : State} (hF : Part.All F [.hdrs, .irq, .hb]) (a1) {a2 :
    State} (k2 : s.Within F a2) :
    ∃ u, execDownstreamTermCheck a1 a2 = .next u ∧ s.Within F u := by
  unfold execDownstreamTermCheck
  refine ⟨_, rfl, ?_⟩
  apply termCheck_within (hF.mono rfl)
  with_reducible assumption

theorem execOwnCellSend_within {F : Part → Bool} {s : State} (hF : Part.All F [.hb]) {a1 : State} (k1 : s.Within F a1)
    :
    ∃ u, execOwnCellSend a1 = .next u ∧ s.Within F u := by
  unfold execOwnCellSend
  refine ⟨_, rfl, ?_⟩
  apply ownSend_within (hF.mono rfl)
  with_reducible assumption

theorem execZeroizeAll_within {F : Part → Bool} {s : State} (hF : Part.All F [.tile, .regs, .blocks, .hdrs, .irq,
    .qeng, .crown, .fab, .frames, .ctx, .digest, .bignum, .rng, .custody, .key, .dma, .hb, .pwr, .tamp, .perf, .wrap,
    .finishes]) (a1) {a2 : State} (k2 : s.Within F a2) :
    ∃ u, execZeroizeAll a1 a2 = .next u ∧ s.Within F u := by
  unfold execZeroizeAll
  refine ⟨_, rfl, ?_⟩
  apply onCell_within (hF.mono rfl)
  · with_reducible assumption
  · intro u0 h1
    apply tamperEvent_within (hF.mono rfl)
    with_reducible assumption

theorem execTimeStale_within {F : Part → Bool} {s : State} (hF : Part.All F [.hb]) {a1 : State} (k1 : s.Within F a1) :
    ∃ u, execTimeStale a1 = .next u ∧ s.Within F u := by
  unfold execTimeStale
  refine ⟨_, rfl, ?_⟩
  apply timeStale_within (hF.mono rfl)
  with_reducible assumption

theorem execTime_within {F : Part → Bool} {s : State} (hF : Part.All F [.regs, .hdrs, .irq, .epoch, .hb]) (a1) {a2 :
    State} (k2 : s.Within F a2) :
    ∃ u, execTime a1 a2 = .next u ∧ s.Within F u := by
  unfold execTime
  refine ⟨_, rfl, ?_⟩
  apply onCell_within (hF.mono rfl)
  · with_reducible assumption
  · intro u0 h1
    apply hbTime_within (hF.mono rfl)
    with_reducible assumption

theorem execUpstreamSync_within {F : Part → Bool} {s : State} (hF : Part.All F [.hb]) {a1 : State} (k1 : s.Within F
    a1) :
    ∃ u, execUpstreamSync a1 = .next u ∧ s.Within F u := by
  unfold execUpstreamSync
  refine ⟨_, rfl, ?_⟩
  apply upSynced_within (hF.mono rfl)
  with_reducible assumption

theorem execUnknownCell_within {F : Part → Bool} {s : State} (hF : Part.All F [.regs, .hb]) (a1) {a2 : State} (k2 :
    s.Within F a2) :
    ∃ u, execUnknownCell a1 a2 = .next u ∧ s.Within F u := by
  unfold execUnknownCell
  refine ⟨_, rfl, ?_⟩
  extract_lets +onlyGivenNames y0
  have h1 : s.Within F y0.2 := by
    unfold y0
    apply hbReceive_within (hF.mono rfl)
    with_reducible assumption
  refine within_ite (fun _ => ?_) (fun _ => ?_)
  · with_reducible assumption
  · with_reducible assumption

theorem execWake_within {F : Part → Bool} {s : State} (hF : Part.All F [.regs, .hdrs, .irq, .digest, .key, .hb, .pwr])
    (a1) {a2 : State} (k2 : s.Within F a2) :
    ∃ u, execWake a1 a2 = .next u ∧ s.Within F u := by
  unfold execWake
  refine ⟨_, rfl, ?_⟩
  apply onCell_within (hF.mono rfl)
  · with_reducible assumption
  · intro u0 h1
    refine within_ite (fun _ => ?_) (fun _ => ?_)
    · apply wakeSource_within (hF.mono rfl)
      with_reducible assumption
    · with_reducible assumption

theorem execCellCrcFail_within {F : Part → Bool} {s : State} (hF : Part.All F [.regs, .hdrs, .irq, .hb]) (a1) (a2) {a3
    : State} (k3 : s.Within F a3) :
    ∃ u, execCellCrcFail a1 a2 a3 = .next u ∧ s.Within F u := by
  unfold execCellCrcFail
  refine ⟨_, rfl, ?_⟩
  apply cellCrcFail_within (hF.mono rfl)
  with_reducible assumption

theorem execStompedCell_within {F : Part → Bool} {s : State} (hF : Part.All F [.regs, .hb]) (a1) {a2 : State} (k2 :
    s.Within F a2) :
    ∃ u, execStompedCell a1 a2 = .next u ∧ s.Within F u := by
  unfold execStompedCell
  refine ⟨_, rfl, ?_⟩
  apply cellStomped_within (hF.mono rfl)
  with_reducible assumption

theorem execSleepAll_within {F : Part → Bool} {s : State} (hF : Part.All F [.regs, .hdrs, .irq, .qeng, .crown, .fab,
    .hb, .pwr, .perf]) (a1) {a2 : State} (k2 : s.Within F a2) :
    ∃ u, execSleepAll a1 a2 = .next u ∧ s.Within F u := by
  unfold execSleepAll
  refine ⟨_, rfl, ?_⟩
  apply onCell_within (hF.mono rfl)
  · with_reducible assumption
  · intro u0 h1
    extract_lets +onlyGivenNames y2
    refine within_ite (fun _ => ?_) (fun _ => ?_)
    · apply sleepStart_within (hF.mono rfl)
      with_reducible assumption
    · apply hbIgnored_within (hF.mono rfl)
      with_reducible assumption

theorem execHoldReceived_within {F : Part → Bool} {s : State} (hF : Part.All F [.hb]) {a1 : State} (k1 : s.Within F
    a1) :
    ∃ u, execHoldReceived a1 = .next u ∧ s.Within F u := by
  unfold execHoldReceived
  refine ⟨_, rfl, ?_⟩
  apply holdIn_within (hF.mono rfl)
  with_reducible assumption

theorem execBypassEnter_within {F : Part → Bool} {s : State} (hF : Part.All F [.regs, .hb]) (a1) {a2 : State} (k2 :
    s.Within F a2) :
    ∃ u, execBypassEnter a1 a2 = .next u ∧ s.Within F u := by
  unfold execBypassEnter
  refine ⟨_, rfl, ?_⟩
  refine within_ite (fun _ => ?_) (fun _ => ?_)
  · apply onCell_within (hF.mono rfl)
    · with_reducible assumption
    · intro u0 h1
      apply bypassSet_within (hF.mono rfl)
      with_reducible assumption
  · with_reducible assumption

theorem execEnum_within {F : Part → Bool} {s : State} (hF : Part.All F [.addr, .tile, .regs, .blocks, .hdrs, .irq,
    .rng, .key, .hb, .wrap]) (a1) {a2 : State} (k2 : s.Within F a2) :
    ∃ u, execEnum a1 a2 = .next u ∧ s.Within F u := by
  unfold execEnum
  refine ⟨_, rfl, ?_⟩
  apply onCell_within (hF.mono rfl)
  · with_reducible assumption
  · intro u0 h1
    apply hbEnum_within (hF.mono rfl)
    with_reducible assumption

end Sys2Proof.Machine
end

