-- ==== Sys2Proof/Laws/FrameExecKey.lean ====
section
/-! SUPPORT. The frames of the operations of Machine/ExecKey.lean: the parts that each may change. -/

namespace Sys2Proof.Machine

set_option Elab.async false

theorem execPouncePassDone_within {F : Part → Bool} {s : State} (hF : Part.All F [.regs, .hdrs, .irq, .rng, .key]) {a1
    : State} (k1 : s.Within F a1) :
    ∃ u, execPouncePassDone a1 = .next u ∧ s.Within F u := by
  unfold execPouncePassDone
  refine ⟨_, rfl, ?_⟩
  apply whileWorking_within (hF.mono rfl)
  · with_reducible assumption
  · intro u0 h1
    apply pounceDone_within (hF.mono rfl)
    with_reducible assumption

theorem execPounceDue_within {F : Part → Bool} {s : State} (hF : Part.All F [.ctx, .digest, .rng, .key]) {a1 : State}
    (k1 : s.Within F a1) :
    ∃ u, execPounceDue a1 = .next u ∧ s.Within F u := by
  unfold execPounceDue
  refine ⟨_, rfl, ?_⟩
  apply whileWorking_within (hF.mono rfl)
  · with_reducible assumption
  · intro u0 h1
    apply pounceDue_within (hF.mono rfl)
    with_reducible assumption

theorem execKeyPortTimeout_within {F : Part → Bool} {s : State} (hF : Part.All F [.regs, .hdrs, .irq, .rng, .key]) {a1
    : State} (k1 : s.Within F a1) :
    ∃ u, execKeyPortTimeout a1 = .next u ∧ s.Within F u := by
  unfold execKeyPortTimeout
  refine ⟨_, rfl, ?_⟩
  apply whileWorking_within (hF.mono rfl)
  · with_reducible assumption
  · intro u0 h1
    apply portTimeout_within (hF.mono rfl)
    with_reducible assumption

theorem execAttestDone_within {F : Part → Bool} {s : State} (hF : Part.All F [.regs, .blocks, .hdrs, .irq, .qeng,
    .crown, .fab, .frames, .ctx, .digest, .bignum, .rng, .key, .dma, .perf, .finishes]) {a1 : State} (k1 : s.Within F
    a1) :
    ∃ u, execAttestDone a1 = .next u ∧ s.Within F u := by
  unfold execAttestDone
  refine ⟨_, rfl, ?_⟩
  apply whileWorking_within (hF.mono rfl)
  · with_reducible assumption
  · intro u0 h1
    apply kdfStep_within (hF.mono rfl)
    · with_reducible assumption
    · intro u2 h3
      apply attestDone_within (hF.mono rfl)
      with_reducible assumption

theorem execKeyPortStrayWord_within {F : Part → Bool} {s : State} (hF : Part.All F [.regs]) {a1 : State} (k1 :
    s.Within F a1) :
    ∃ u, execKeyPortStrayWord a1 = .next u ∧ s.Within F u := by
  unfold execKeyPortStrayWord
  refine ⟨_, rfl, ?_⟩
  apply whileWorking_within (hF.mono rfl)
  · with_reducible assumption
  · intro u0 h1
    refine within_ite (fun _ => ?_) (fun _ => ?_)
    · with_reducible assumption
    · apply strayWords_within (hF.mono rfl)
      with_reducible assumption

theorem execRootTransfer_within {F : Part → Bool} {s : State} (hF : Part.All F [.regs, .hdrs, .irq, .rng, .key]) (a1)
    (a2) {a3 : State} (k3 : s.Within F a3) :
    ∃ u, execRootTransfer a1 a2 a3 = .next u ∧ s.Within F u := by
  unfold execRootTransfer
  refine ⟨_, rfl, ?_⟩
  apply whileWorking_within (hF.mono rfl)
  · with_reducible assumption
  · intro u0 h1
    apply portWords_within (hF.mono rfl)
    with_reducible assumption

theorem execPounceBankRemask_within {F : Part → Bool} {s : State} (hF : Part.All F [.regs, .hdrs, .irq, .crown, .fab,
    .ctx, .digest, .rng, .key]) (a1) {a2 : State} (k2 : s.Within F a2) :
    ∃ u, execPounceBankRemask a1 a2 = .next u ∧ s.Within F u := by
  unfold execPounceBankRemask
  refine ⟨_, rfl, ?_⟩
  apply work_within (hF.mono rfl)
  · with_reducible assumption
  · intro u0 h1
    apply slotsGo_within (hF.mono rfl)
    apply pounceBank_within (hF.mono rfl)
    with_reducible assumption

theorem execKdf_within {F : Part → Bool} {s : State} (hF : Part.All F [.regs, .blocks, .hdrs, .irq, .qeng, .crown,
    .fab, .frames, .ctx, .digest, .bignum, .rng, .key, .dma, .perf, .finishes]) {a1 : State} (k1 : s.Within F a1) :
    ∃ u, execKdf a1 = .next u ∧ s.Within F u := by
  unfold execKdf
  refine ⟨_, rfl, ?_⟩
  apply whileWorking_within (hF.mono rfl)
  · with_reducible assumption
  · intro u0 h1
    apply kdfStep_within (hF.mono rfl)
    · with_reducible assumption
    · intro u2 h3
      apply kdfRun_within (hF.mono rfl)
      with_reducible assumption

theorem execPounceOverdue_within {F : Part → Bool} {s : State} (hF : Part.All F [.regs, .hdrs, .irq, .key]) {a1 :
    State} (k1 : s.Within F a1) :
    ∃ u, execPounceOverdue a1 = .next u ∧ s.Within F u := by
  unfold execPounceOverdue
  refine ⟨_, rfl, ?_⟩
  apply whileWorking_within (hF.mono rfl)
  · with_reducible assumption
  · intro u0 h1
    apply pounceOverdue_within (hF.mono rfl)
    with_reducible assumption

theorem execKeyPortRetryWait_within {F : Part → Bool} {s : State} (hF : Part.All F [.rng, .key]) {a1 : State} (k1 :
    s.Within F a1) :
    ∃ u, execKeyPortRetryWait a1 = .next u ∧ s.Within F u := by
  unfold execKeyPortRetryWait
  refine ⟨_, rfl, ?_⟩
  apply whileWorking_within (hF.mono rfl)
  · with_reducible assumption
  · intro u0 h1
    apply portRetryWait_within (hF.mono rfl)
    with_reducible assumption

theorem execKeyDatapathError_within {F : Part → Bool} {s : State} (hF : Part.All F [.tile, .regs, .hdrs, .irq, .qeng,
    .crown, .fab, .frames, .ctx, .digest, .bignum, .rng, .custody, .key, .pwr, .perf, .finishes]) (a1) {a2 : State}
    (k2 : s.Within F a2) :
    ∃ u, execKeyDatapathError a1 a2 = .next u ∧ s.Within F u := by
  unfold execKeyDatapathError
  refine ⟨_, rfl, ?_⟩
  apply whileWorking_within (hF.mono rfl)
  · with_reducible assumption
  · intro u0 h1
    split
    rename_i x2 x3 u4 e5
    have h6 : s.Within F u4 := by
      refine within_snd e5 ?_
      apply keyError_within (hF.mono rfl)
      with_reducible assumption
    refine within_ite (fun _ => ?_) (fun _ => ?_)
    · apply tileFence_within (hF.mono rfl)
      with_reducible assumption
    · with_reducible assumption

theorem keyCommand_within {F : Part → Bool} {s : State} (hF : Part.All F [.tile, .cp, .config, .regs, .blocks, .hdrs,
    .irq, .qeng, .crown, .fab, .frames, .ctx, .epoch, .digest, .bignum, .rng, .custody, .key, .dma, .hb, .clk, .pwr,
    .tamp, .perf, .wrap, .finishes]) {a1 : State} (a2) (a3) (k1 : s.Within F a1) :
    s.Within F (State.keyCommand a1 a2 a3) := by
  unfold State.keyCommand
  apply cpReg_within (hF.mono rfl)
  with_reducible assumption

theorem execKeyDerive_within {F : Part → Bool} {s : State} (hF : Part.All F [.regs, .blocks, .hdrs, .irq, .qeng,
    .crown, .fab, .frames, .ctx, .digest, .bignum, .rng, .custody, .key, .dma, .perf, .finishes]) {a1 : State} (k1 :
    s.Within F a1) :
    ∃ u, execKeyDerive a1 = .next u ∧ s.Within F u := by
  unfold execKeyDerive
  refine ⟨_, rfl, ?_⟩
  apply whileWorking_within (hF.mono rfl)
  · with_reducible assumption
  · intro u0 h1
    apply kdfStep_within (hF.mono rfl)
    · with_reducible assumption
    · intro u2 h3
      apply keyDerive_within (hF.mono rfl)
      with_reducible assumption

theorem execKeyPortRequest_within {F : Part → Bool} {s : State} (hF : Part.All F [.key]) {a1 : State} (k1 : s.Within F
    a1) :
    ∃ u, execKeyPortRequest a1 = .next u ∧ s.Within F u := by
  unfold execKeyPortRequest
  refine ⟨_, rfl, ?_⟩
  apply whileWorking_within (hF.mono rfl)
  · with_reducible assumption
  · intro u0 h1
    apply portRequest_within (hF.mono rfl)
    with_reducible assumption

theorem execAttest_within {F : Part → Bool} {s : State} (hF : Part.All F [.tile, .cp, .config, .regs, .blocks, .hdrs,
    .irq, .qeng, .crown, .fab, .frames, .ctx, .epoch, .digest, .bignum, .rng, .custody, .key, .dma, .hb, .clk, .pwr,
    .tamp, .perf, .wrap, .finishes]) (a1) {a2 : State} (k2 : s.Within F a2) :
    ∃ u, execAttest a1 a2 = .next u ∧ s.Within F u := by
  unfold execAttest
  refine ⟨_, rfl, ?_⟩
  apply keyCommand_within (hF.mono rfl)
  with_reducible assumption

theorem execPounceNow_within {F : Part → Bool} {s : State} (hF : Part.All F [.tile, .cp, .config, .regs, .blocks,
    .hdrs, .irq, .qeng, .crown, .fab, .frames, .ctx, .epoch, .digest, .bignum, .rng, .custody, .key, .dma, .hb, .clk,
    .pwr, .tamp, .perf, .wrap, .finishes]) (a1) {a2 : State} (k2 : s.Within F a2) :
    ∃ u, execPounceNow a1 a2 = .next u ∧ s.Within F u := by
  unfold execPounceNow
  refine ⟨_, rfl, ?_⟩
  apply keyCommand_within (hF.mono rfl)
  with_reducible assumption

theorem execPortRetry_within {F : Part → Bool} {s : State} (hF : Part.All F [.tile, .cp, .config, .regs, .blocks,
    .hdrs, .irq, .qeng, .crown, .fab, .frames, .ctx, .epoch, .digest, .bignum, .rng, .custody, .key, .dma, .hb, .clk,
    .pwr, .tamp, .perf, .wrap, .finishes]) (a1) {a2 : State} (k2 : s.Within F a2) :
    ∃ u, execPortRetry a1 a2 = .next u ∧ s.Within F u := by
  unfold execPortRetry
  refine ⟨_, rfl, ?_⟩
  apply keyCommand_within (hF.mono rfl)
  with_reducible assumption

theorem execZeroize_within {F : Part → Bool} {s : State} (hF : Part.All F [.tile, .cp, .config, .regs, .blocks, .hdrs,
    .irq, .qeng, .crown, .fab, .frames, .ctx, .epoch, .digest, .bignum, .rng, .custody, .key, .dma, .hb, .clk, .pwr,
    .tamp, .perf, .wrap, .finishes]) (a1) {a2 : State} (k2 : s.Within F a2) :
    ∃ u, execZeroize a1 a2 = .next u ∧ s.Within F u := by
  unfold execZeroize
  refine ⟨_, rfl, ?_⟩
  apply keyCommand_within (hF.mono rfl)
  with_reducible assumption

end Sys2Proof.Machine
end

