-- ==== Sys2Proof/Laws/FrameExecPort.lean ====
section
/-! SUPPORT. The frames of the operations of Machine/ExecPort.lean: the parts that each may change. -/

namespace Sys2Proof.Machine

set_option Elab.async false

theorem execRunIdleTimeout_within {F : Part → Bool} {s : State} (hF : Part.All F [.tile, .regs, .blocks, .hdrs, .rng,
    .key, .wrap]) {a1 : State} (k1 : s.Within F a1) :
    ∃ u, execRunIdleTimeout a1 = .next u ∧ s.Within F u := by
  unfold execRunIdleTimeout
  refine ⟨_, rfl, ?_⟩
  apply whileWorking_within (hF.mono rfl)
  · with_reducible assumption
  · intro u0 h1
    apply runIdle_within (hF.mono rfl)
    with_reducible assumption

theorem execRegisterRead_within {F : Part → Bool} {s : State} (hF : Part.All F [.tile, .cp, .config, .regs, .blocks,
    .hdrs, .irq, .qeng, .crown, .fab, .frames, .ctx, .epoch, .digest, .bignum, .rng, .custody, .key, .dma, .hb, .clk,
    .pwr, .tamp, .perf, .wrap, .finishes]) (a1) {a2 : State} (k2 : s.Within F a2) :
    ∃ u, execRegisterRead a1 a2 = .next u ∧ s.Within F u := by
  unfold execRegisterRead
  refine ⟨_, rfl, ?_⟩
  apply cpAccess_within (hF.mono rfl)
  with_reducible assumption

theorem execTransitionTimeout_within {F : Part → Bool} {s : State} (hF : Part.All F [.regs, .blocks, .hdrs, .irq,
    .qeng, .crown, .fab, .frames, .ctx, .digest, .bignum, .rng, .key, .dma, .perf, .finishes]) (a1) {a2 : State} (k2 :
    s.Within F a2) :
    ∃ u, execTransitionTimeout a1 a2 = .next u ∧ s.Within F u := by
  unfold execTransitionTimeout
  refine ⟨_, rfl, ?_⟩
  apply onPage_within (hF.mono rfl)
  · with_reducible assumption
  · intro u0 h1
    apply whileWorking_within (hF.mono rfl)
    · with_reducible assumption
    · intro u2 h3
      apply transTimeout_within (hF.mono rfl)
      with_reducible assumption

theorem execFenceTile_within {F : Part → Bool} {s : State} (hF : Part.All F [.tile, .cp, .config, .regs, .blocks,
    .hdrs, .irq, .qeng, .crown, .fab, .frames, .ctx, .epoch, .digest, .bignum, .rng, .custody, .key, .dma, .hb, .clk,
    .pwr, .tamp, .perf, .wrap, .finishes]) (a1) {a2 : State} (k2 : s.Within F a2) :
    ∃ u, execFenceTile a1 a2 = .next u ∧ s.Within F u := by
  unfold execFenceTile
  refine ⟨_, rfl, ?_⟩
  apply cpReg_within (hF.mono rfl)
  with_reducible assumption

theorem execLockArmTimeout_within {F : Part → Bool} {s : State} (hF : Part.All F [.blocks, .hdrs, .irq]) (a1) {a2 :
    State} (k2 : s.Within F a2) :
    ∃ u, execLockArmTimeout a1 a2 = .next u ∧ s.Within F u := by
  unfold execLockArmTimeout
  refine ⟨_, rfl, ?_⟩
  apply onPage_within (hF.mono rfl)
  · with_reducible assumption
  · intro u0 h1
    apply lockTimeout_within (hF.mono rfl)
    with_reducible assumption

theorem execCpUnaddressedAccess_within {F : Part → Bool} {s : State} (hF : Part.All F [.cp]) (a1) (a2) {a3 : State}
    (k3 : s.Within F a3) :
    ∃ u, execCpUnaddressedAccess a1 a2 a3 = .next u ∧ s.Within F u := by
  unfold execCpUnaddressedAccess
  refine ⟨_, rfl, ?_⟩
  refine within_ite (fun _ => ?_) (fun _ => ?_)
  · with_reducible assumption
  · apply noRsp_within (hF.mono rfl)
    with_reducible assumption

theorem execLeaveTest_within {F : Part → Bool} {s : State} (hF : Part.All F [.tile, .cp, .config, .regs, .blocks,
    .hdrs, .irq, .qeng, .crown, .fab, .frames, .ctx, .epoch, .digest, .bignum, .rng, .custody, .key, .dma, .hb, .clk,
    .pwr, .tamp, .perf, .wrap, .finishes]) (a1) {a2 : State} (k2 : s.Within F a2) :
    ∃ u, execLeaveTest a1 a2 = .next u ∧ s.Within F u := by
  unfold execLeaveTest
  refine ⟨_, rfl, ?_⟩
  apply cpReg_within (hF.mono rfl)
  with_reducible assumption

theorem execBringUpDone_within {F : Part → Bool} {s : State} (hF : Part.All F [.tile, .cp, .config, .regs, .blocks,
    .hdrs, .irq, .qeng, .crown, .fab, .frames, .ctx, .epoch, .digest, .bignum, .rng, .custody, .key, .dma, .hb, .clk,
    .pwr, .tamp, .perf, .wrap, .finishes]) (a1) {a2 : State} (k2 : s.Within F a2) :
    ∃ u, execBringUpDone a1 a2 = .next u ∧ s.Within F u := by
  unfold execBringUpDone
  refine ⟨_, rfl, ?_⟩
  apply cpReg_within (hF.mono rfl)
  with_reducible assumption

theorem execPageLockWrite_within {F : Part → Bool} {s : State} (hF : Part.All F [.tile, .cp, .config, .regs, .blocks,
    .hdrs, .irq, .qeng, .crown, .fab, .frames, .ctx, .epoch, .digest, .bignum, .rng, .custody, .key, .dma, .hb, .clk,
    .pwr, .tamp, .perf, .wrap, .finishes]) (a1) (a2) (a3) {a4 : State} (k4 : s.Within F a4) :
    ∃ u, execPageLockWrite a1 a2 a3 a4 = .next u ∧ s.Within F u := by
  unfold execPageLockWrite
  refine ⟨_, rfl, ?_⟩
  apply hdrWrite_within (hF.mono rfl)
  with_reducible assumption

theorem execPageOwnerWrite_within {F : Part → Bool} {s : State} (hF : Part.All F [.tile, .cp, .config, .regs, .blocks,
    .hdrs, .irq, .qeng, .crown, .fab, .frames, .ctx, .epoch, .digest, .bignum, .rng, .custody, .key, .dma, .hb, .clk,
    .pwr, .tamp, .perf, .wrap, .finishes]) (a1) (a2) (a3) {a4 : State} (k4 : s.Within F a4) :
    ∃ u, execPageOwnerWrite a1 a2 a3 a4 = .next u ∧ s.Within F u := by
  unfold execPageOwnerWrite
  refine ⟨_, rfl, ?_⟩
  apply hdrWrite_within (hF.mono rfl)
  with_reducible assumption

theorem execUnfenceTile_within {F : Part → Bool} {s : State} (hF : Part.All F [.tile, .cp, .config, .regs, .blocks,
    .hdrs, .irq, .qeng, .crown, .fab, .frames, .ctx, .epoch, .digest, .bignum, .rng, .custody, .key, .dma, .hb, .clk,
    .pwr, .tamp, .perf, .wrap, .finishes]) (a1) {a2 : State} (k2 : s.Within F a2) :
    ∃ u, execUnfenceTile a1 a2 = .next u ∧ s.Within F u := by
  unfold execUnfenceTile
  refine ⟨_, rfl, ?_⟩
  apply cpReg_within (hF.mono rfl)
  with_reducible assumption

theorem execBlockShutdownDone_within {F : Part → Bool} {s : State} (hF : Part.All F [.regs, .blocks, .hdrs, .irq,
    .qeng, .crown, .fab, .frames, .ctx, .digest, .bignum, .rng, .custody, .key, .dma, .clk, .perf, .finishes]) (a1)
    {a2 : State} (k2 : s.Within F a2) :
    ∃ u, execBlockShutdownDone a1 a2 = .next u ∧ s.Within F u := by
  unfold execBlockShutdownDone
  refine ⟨_, rfl, ?_⟩
  apply onPage_within (hF.mono rfl)
  · with_reducible assumption
  · intro u0 h1
    apply whileWorking_within (hF.mono rfl)
    · with_reducible assumption
    · intro u2 h3
      apply downEnds_within (hF.mono rfl)
      with_reducible assumption

theorem execEnterTest_within {F : Part → Bool} {s : State} (hF : Part.All F [.tile, .cp, .config, .regs, .blocks,
    .hdrs, .irq, .qeng, .crown, .fab, .frames, .ctx, .epoch, .digest, .bignum, .rng, .custody, .key, .dma, .hb, .clk,
    .pwr, .tamp, .perf, .wrap, .finishes]) (a1) {a2 : State} (k2 : s.Within F a2) :
    ∃ u, execEnterTest a1 a2 = .next u ∧ s.Within F u := by
  unfold execEnterTest
  refine ⟨_, rfl, ?_⟩
  apply cpReg_within (hF.mono rfl)
  with_reducible assumption

theorem execBlockEnWrite_within {F : Part → Bool} {s : State} (hF : Part.All F [.tile, .cp, .config, .regs, .blocks,
    .hdrs, .irq, .qeng, .crown, .fab, .frames, .ctx, .epoch, .digest, .bignum, .rng, .custody, .key, .dma, .hb, .clk,
    .pwr, .tamp, .perf, .wrap, .finishes]) (a1) (a2) (a3) {a4 : State} (k4 : s.Within F a4) :
    ∃ u, execBlockEnWrite a1 a2 a3 a4 = .next u ∧ s.Within F u := by
  unfold execBlockEnWrite
  refine ⟨_, rfl, ?_⟩
  apply hdrWrite_within (hF.mono rfl)
  with_reducible assumption

theorem execRegisterWrite_within {F : Part → Bool} {s : State} (hF : Part.All F [.tile, .cp, .config, .regs, .blocks,
    .hdrs, .irq, .qeng, .crown, .fab, .frames, .ctx, .epoch, .digest, .bignum, .rng, .custody, .key, .dma, .hb, .clk,
    .pwr, .tamp, .perf, .wrap, .finishes]) (a1) {a2 : State} (k2 : s.Within F a2) :
    ∃ u, execRegisterWrite a1 a2 = .next u ∧ s.Within F u := by
  unfold execRegisterWrite
  refine ⟨_, rfl, ?_⟩
  apply cpAccess_within (hF.mono rfl)
  with_reducible assumption

theorem execSoftReset_within {F : Part → Bool} {s : State} (hF : Part.All F [.tile, .cp, .config, .regs, .blocks,
    .hdrs, .irq, .qeng, .crown, .fab, .frames, .ctx, .epoch, .digest, .bignum, .rng, .custody, .key, .dma, .hb, .clk,
    .pwr, .tamp, .perf, .wrap, .finishes]) (a1) (a2) {a3 : State} (k3 : s.Within F a3) :
    ∃ u, execSoftReset a1 a2 a3 = .next u ∧ s.Within F u := by
  unfold execSoftReset
  refine ⟨_, rfl, ?_⟩
  apply hdrWrite_within (hF.mono rfl)
  with_reducible assumption

theorem execRegisterParityError_within {F : Part → Bool} {s : State} (hF : Part.All F [.tile, .config, .regs, .blocks,
    .hdrs, .irq, .qeng, .crown, .fab, .frames, .ctx, .epoch, .digest, .bignum, .rng, .key, .dma, .pwr, .perf,
    .finishes]) (a1) {a2 : State} (k2 : s.Within F a2) :
    ∃ u, execRegisterParityError a1 a2 = .next u ∧ s.Within F u := by
  unfold execRegisterParityError
  refine ⟨_, rfl, ?_⟩
  apply parityError_within (hF.mono rfl)
  with_reducible assumption

theorem execPageFenceForce_within {F : Part → Bool} {s : State} (hF : Part.All F [.tile, .cp, .config, .regs, .blocks,
    .hdrs, .irq, .qeng, .crown, .fab, .frames, .ctx, .epoch, .digest, .bignum, .rng, .custody, .key, .dma, .hb, .clk,
    .pwr, .tamp, .perf, .wrap, .finishes]) (a1) (a2) {a3 : State} (k3 : s.Within F a3) :
    ∃ u, execPageFenceForce a1 a2 a3 = .next u ∧ s.Within F u := by
  unfold execPageFenceForce
  refine ⟨_, rfl, ?_⟩
  apply hdrWrite_within (hF.mono rfl)
  with_reducible assumption

theorem execWdogExpiry_within {F : Part → Bool} {s : State} (hF : Part.All F [.tile, .regs, .hdrs, .irq, .qeng,
    .crown, .fab, .frames, .ctx, .digest, .bignum, .rng, .key, .pwr, .perf, .finishes]) {a1 : State} (k1 : s.Within F
    a1) :
    ∃ u, execWdogExpiry a1 = .next u ∧ s.Within F u := by
  unfold execWdogExpiry
  refine ⟨_, rfl, ?_⟩
  apply wdogExpiry_within (hF.mono rfl)
  with_reducible assumption

theorem execSoftResetDone_within {F : Part → Bool} {s : State} (hF : Part.All F [.tile, .cp, .config, .regs, .blocks,
    .hdrs, .irq, .qeng, .crown, .fab, .frames, .ctx, .epoch, .digest, .bignum, .rng, .custody, .key, .dma, .hb, .clk,
    .pwr, .tamp, .perf, .wrap, .finishes]) (a1) {a2 : State} (k2 : s.Within F a2) :
    ∃ u, execSoftResetDone a1 a2 = .next u ∧ s.Within F u := by
  unfold execSoftResetDone
  refine ⟨_, rfl, ?_⟩
  apply onPage_within (hF.mono rfl)
  · with_reducible assumption
  · intro u0 h1
    apply softResetDone_within (hF.mono rfl)
    with_reducible assumption

theorem execBlockInitDone_within {F : Part → Bool} {s : State} (hF : Part.All F [.regs, .blocks, .hdrs, .irq, .qeng,
    .crown, .fab, .ctx, .digest, .rng, .key, .perf]) (a1) {a2 : State} (k2 : s.Within F a2) :
    ∃ u, execBlockInitDone a1 a2 = .next u ∧ s.Within F u := by
  unfold execBlockInitDone
  refine ⟨_, rfl, ?_⟩
  apply onPage_within (hF.mono rfl)
  · with_reducible assumption
  · intro u0 h1
    apply whileWorking_within (hF.mono rfl)
    · with_reducible assumption
    · intro u2 h3
      apply initEnds_within (hF.mono rfl)
      with_reducible assumption

theorem execWdogKick_within {F : Part → Bool} {s : State} (hF : Part.All F [.tile, .cp, .config, .regs, .blocks,
    .hdrs, .irq, .qeng, .crown, .fab, .frames, .ctx, .epoch, .digest, .bignum, .rng, .custody, .key, .dma, .hb, .clk,
    .pwr, .tamp, .perf, .wrap, .finishes]) (a1) (a2) {a3 : State} (k3 : s.Within F a3) :
    ∃ u, execWdogKick a1 a2 a3 = .next u ∧ s.Within F u := by
  unfold execWdogKick
  refine ⟨_, rfl, ?_⟩
  apply cpReg_within (hF.mono rfl)
  with_reducible assumption

end Sys2Proof.Machine
end

