-- ==== Sys2Proof/Laws/FrameExecPower.lean ====
section
/-! SUPPORT. The frames of the operations of Machine/ExecPower.lean: the parts that each may change. -/

namespace Sys2Proof.Machine

set_option Elab.async false

theorem execCoreOn_within {F : Part → Bool} {s : State} (hF : Part.All F [.tile, .cp, .config, .regs, .blocks, .hdrs,
    .irq, .qeng, .crown, .fab, .frames, .ctx, .epoch, .digest, .bignum, .rng, .custody, .key, .dma, .hb, .clk, .pwr,
    .tamp, .perf, .wrap, .finishes]) (a1) {a2 : State} (k2 : s.Within F a2) :
    ∃ u, execCoreOn a1 a2 = .next u ∧ s.Within F u := by
  unfold execCoreOn
  refine ⟨_, rfl, ?_⟩
  apply cpReg_within (hF.mono rfl)
  with_reducible assumption

theorem execWakePin_within {F : Part → Bool} {s : State} (hF : Part.All F [.regs, .hdrs, .irq, .digest, .key, .pwr,
    .tamp]) {a1 : State} (k1 : s.Within F a1) :
    ∃ u, execWakePin a1 = .next u ∧ s.Within F u := by
  unfold execWakePin
  refine ⟨_, rfl, ?_⟩
  apply wakePin_within (hF.mono rfl)
  with_reducible assumption

theorem execWakeComplete_within {F : Part → Bool} {s : State} (hF : Part.All F [.tile, .config, .regs, .blocks, .hdrs,
    .irq, .qeng, .crown, .fab, .frames, .ctx, .digest, .bignum, .rng, .custody, .key, .dma, .clk, .pwr, .perf, .wrap,
    .finishes]) (a1) (a2) {a3 : State} (k3 : s.Within F a3) :
    ∃ u, execWakeComplete a1 a2 a3 = .next u ∧ s.Within F u := by
  unfold execWakeComplete
  refine ⟨_, rfl, ?_⟩
  apply wakeComplete_within (hF.mono rfl)
  with_reducible assumption

theorem execPgoodTimeout_within {F : Part → Bool} {s : State} (hF : Part.All F [.tile, .config, .regs, .blocks, .hdrs,
    .irq, .qeng, .crown, .fab, .frames, .ctx, .digest, .bignum, .rng, .key, .dma, .pwr, .perf, .finishes]) (a1) (a2)
    {a3 : State} (k3 : s.Within F a3) :
    ∃ u, execPgoodTimeout a1 a2 a3 = .next u ∧ s.Within F u := by
  unfold execPgoodTimeout
  refine ⟨_, rfl, ?_⟩
  apply unit_within (hF.mono rfl)
  · with_reducible assumption
  · intro u0 h1
    apply pgoodTimeout_within (hF.mono rfl)
    with_reducible assumption

theorem execLanePark_within {F : Part → Bool} {s : State} (hF : Part.All F [.regs, .hdrs, .irq, .frames]) (a1) {a2 :
    State} (k2 : s.Within F a2) :
    ∃ u, execLanePark a1 a2 = .next u ∧ s.Within F u := by
  unfold execLanePark
  refine ⟨_, rfl, ?_⟩
  apply work_within (hF.mono rfl)
  · with_reducible assumption
  · intro u0 h1
    apply lanePark_within (hF.mono rfl)
    with_reducible assumption

theorem execCancelSleep_within {F : Part → Bool} {s : State} (hF : Part.All F [.tile, .cp, .config, .regs, .blocks,
    .hdrs, .irq, .qeng, .crown, .fab, .frames, .ctx, .epoch, .digest, .bignum, .rng, .custody, .key, .dma, .hb, .clk,
    .pwr, .tamp, .perf, .wrap, .finishes]) (a1) {a2 : State} (k2 : s.Within F a2) :
    ∃ u, execCancelSleep a1 a2 = .next u ∧ s.Within F u := by
  unfold execCancelSleep
  refine ⟨_, rfl, ?_⟩
  apply cpReg_within (hF.mono rfl)
  with_reducible assumption

theorem execSleepGo_within {F : Part → Bool} {s : State} (hF : Part.All F [.tile, .cp, .config, .regs, .blocks, .hdrs,
    .irq, .qeng, .crown, .fab, .frames, .ctx, .epoch, .digest, .bignum, .rng, .custody, .key, .dma, .hb, .clk, .pwr,
    .tamp, .perf, .wrap, .finishes]) (a1) (a2) {a3 : State} (k3 : s.Within F a3) :
    ∃ u, execSleepGo a1 a2 a3 = .next u ∧ s.Within F u := by
  unfold execSleepGo
  refine ⟨_, rfl, ?_⟩
  apply cpReg_within (hF.mono rfl)
  with_reducible assumption

theorem execQuadPark_within {F : Part → Bool} {s : State} (hF : Part.All F [.frames, .clk]) (a1) {a2 : State} (k2 :
    s.Within F a2) :
    ∃ u, execQuadPark a1 a2 = .next u ∧ s.Within F u := by
  unfold execQuadPark
  refine ⟨_, rfl, ?_⟩
  apply work_within (hF.mono rfl)
  · with_reducible assumption
  · intro u0 h1
    apply quadPark_within (hF.mono rfl)
    with_reducible assumption

theorem execWakeCommand_within {F : Part → Bool} {s : State} (hF : Part.All F [.tile, .cp, .config, .regs, .blocks,
    .hdrs, .irq, .qeng, .crown, .fab, .frames, .ctx, .epoch, .digest, .bignum, .rng, .custody, .key, .dma, .hb, .clk,
    .pwr, .tamp, .perf, .wrap, .finishes]) (a1) {a2 : State} (k2 : s.Within F a2) :
    ∃ u, execWakeCommand a1 a2 = .next u ∧ s.Within F u := by
  unfold execWakeCommand
  refine ⟨_, rfl, ?_⟩
  apply cpReg_within (hF.mono rfl)
  with_reducible assumption

theorem execSleepDrainDone_within {F : Part → Bool} {s : State} (hF : Part.All F [.regs, .hdrs, .irq, .qeng, .crown,
    .fab, .ctx, .digest, .key, .pwr]) {a1 : State} (k1 : s.Within F a1) :
    ∃ u, execSleepDrainDone a1 = .next u ∧ s.Within F u := by
  unfold execSleepDrainDone
  refine ⟨_, rfl, ?_⟩
  apply whileWorking_within (hF.mono rfl)
  · with_reducible assumption
  · intro u0 h1
    apply sleepDrainDone_within (hF.mono rfl)
    with_reducible assumption

theorem execWakeAccess_within {F : Part → Bool} {s : State} (hF : Part.All F [.tile, .cp, .config, .regs, .blocks,
    .hdrs, .irq, .qeng, .crown, .fab, .frames, .ctx, .epoch, .digest, .bignum, .rng, .custody, .key, .dma, .hb, .clk,
    .pwr, .tamp, .perf, .wrap, .finishes]) (a1) (a2) {a3 : State} (k3 : s.Within F a3) :
    ∃ u, execWakeAccess a1 a2 a3 = .next u ∧ s.Within F u := by
  unfold execWakeAccess
  refine ⟨_, rfl, ?_⟩
  apply cpAccess_within (hF.mono rfl)
  with_reducible assumption

theorem execPgoodLost_within {F : Part → Bool} {s : State} (hF : Part.All F [.tile, .regs, .blocks, .hdrs, .irq,
    .qeng, .crown, .fab, .frames, .ctx, .digest, .bignum, .rng, .key, .dma, .pwr, .perf, .finishes]) (a1) {a2 : State}
    (k2 : s.Within F a2) :
    ∃ u, execPgoodLost a1 a2 = .next u ∧ s.Within F u := by
  unfold execPgoodLost
  refine ⟨_, rfl, ?_⟩
  apply unit_within (hF.mono rfl)
  · with_reducible assumption
  · intro u0 h1
    apply pgoodLost_within (hF.mono rfl)
    with_reducible assumption

theorem execSleepCommit_within {F : Part → Bool} {s : State} (hF : Part.All F [.tile, .cp, .config, .regs, .blocks,
    .hdrs, .irq, .qeng, .crown, .fab, .frames, .ctx, .epoch, .digest, .bignum, .rng, .custody, .key, .dma, .hb, .clk,
    .pwr, .tamp, .perf, .wrap, .finishes]) {a1 : State} (k1 : s.Within F a1) :
    ∃ u, execSleepCommit a1 = .next u ∧ s.Within F u := by
  unfold execSleepCommit
  refine ⟨_, rfl, ?_⟩
  apply keeperTakes_within (hF.mono rfl)
  apply sleepCommit_within (hF.mono rfl)
  with_reducible assumption

theorem execWakeTimer_within {F : Part → Bool} {s : State} (hF : Part.All F [.regs, .hdrs, .irq, .digest, .key, .pwr])
    {a1 : State} (k1 : s.Within F a1) :
    ∃ u, execWakeTimer a1 = .next u ∧ s.Within F u := by
  unfold execWakeTimer
  refine ⟨_, rfl, ?_⟩
  apply wakeTimer_within (hF.mono rfl)
  with_reducible assumption

theorem execSleepSaveDone_within {F : Part → Bool} {s : State} (hF : Part.All F [.regs, .hdrs, .irq, .fab, .digest,
    .key, .pwr]) {a1 : State} (k1 : s.Within F a1) :
    ∃ u, execSleepSaveDone a1 = .next u ∧ s.Within F u := by
  unfold execSleepSaveDone
  refine ⟨_, rfl, ?_⟩
  apply whileWorking_within (hF.mono rfl)
  · with_reducible assumption
  · intro u0 h1
    apply sleepSaveDone_within (hF.mono rfl)
    with_reducible assumption

theorem execLaneUnparkDone_within {F : Part → Bool} {s : State} (hF : Part.All F [.frames]) (a1) {a2 : State} (k2 :
    s.Within F a2) :
    ∃ u, execLaneUnparkDone a1 a2 = .next u ∧ s.Within F u := by
  unfold execLaneUnparkDone
  refine ⟨_, rfl, ?_⟩
  apply work_within (hF.mono rfl)
  · with_reducible assumption
  · intro u0 h1
    apply laneUnparkDone_within (hF.mono rfl)
    with_reducible assumption

theorem execDrainTimeout_within {F : Part → Bool} {s : State} (hF : Part.All F [.regs, .hdrs, .irq, .digest, .key,
    .pwr]) {a1 : State} (k1 : s.Within F a1) :
    ∃ u, execDrainTimeout a1 = .next u ∧ s.Within F u := by
  unfold execDrainTimeout
  refine ⟨_, rfl, ?_⟩
  apply sleepTimeout_within (hF.mono rfl)
  with_reducible assumption

theorem execSupplyGlitch_within {F : Part → Bool} {s : State} (hF : Part.All F [.regs, .hdrs, .irq]) (a1) {a2 : State}
    (k2 : s.Within F a2) :
    ∃ u, execSupplyGlitch a1 a2 = .next u ∧ s.Within F u := by
  unfold execSupplyGlitch
  refine ⟨_, rfl, ?_⟩
  apply supplyGlitch_within (hF.mono rfl)
  with_reducible assumption

end Sys2Proof.Machine
end

