-- ==== Sys2Proof/Laws/FrameExecQueue.lean ====
section
/-! SUPPORT. The frames of the operations of Machine/ExecQueue.lean: the parts that each may change. -/

namespace Sys2Proof.Machine

set_option Elab.async false

theorem execRqDisable_within {F : Part → Bool} {s : State} (hF : Part.All F [.tile, .cp, .config, .regs, .blocks,
    .hdrs, .irq, .qeng, .crown, .fab, .frames, .ctx, .epoch, .digest, .bignum, .rng, .custody, .key, .dma, .hb, .clk,
    .pwr, .tamp, .perf, .wrap, .finishes]) (a1) (a2) {a3 : State} (k3 : s.Within F a3) :
    ∃ u, execRqDisable a1 a2 a3 = .next u ∧ s.Within F u := by
  unfold execRqDisable
  refine ⟨_, rfl, ?_⟩
  apply regWrite_within (hF.mono rfl)
  with_reducible assumption

theorem execFnRqKick_within {F : Part → Bool} {s : State} (hF : Part.All F [.tile, .cp, .config, .regs, .blocks,
    .hdrs, .irq, .qeng, .crown, .fab, .frames, .ctx, .epoch, .digest, .bignum, .rng, .custody, .key, .dma, .hb, .clk,
    .pwr, .tamp, .perf, .wrap, .finishes]) (a1) (a2) (a3) {a4 : State} (k4 : s.Within F a4) :
    ∃ u, execFnRqKick a1 a2 a3 a4 = .next u ∧ s.Within F u := by
  unfold execFnRqKick
  refine ⟨_, rfl, ?_⟩
  apply regWrite_within (hF.mono rfl)
  with_reducible assumption

theorem execDescFetchDone_within {F : Part → Bool} {s : State} (hF : Part.All F [.regs, .hdrs, .irq, .qeng, .crown,
    .fab, .perf]) (a1) {a2 : State} (k2 : s.Within F a2) :
    ∃ u, execDescFetchDone a1 a2 = .next u ∧ s.Within F u := by
  unfold execDescFetchDone
  refine ⟨_, rfl, ?_⟩
  apply work_within (hF.mono rfl)
  · with_reducible assumption
  · intro u0 h1
    apply descDone_within (hF.mono rfl)
    with_reducible assumption

theorem execQengPause_within {F : Part → Bool} {s : State} (hF : Part.All F [.tile, .cp, .config, .regs, .blocks,
    .hdrs, .irq, .qeng, .crown, .fab, .frames, .ctx, .epoch, .digest, .bignum, .rng, .custody, .key, .dma, .hb, .clk,
    .pwr, .tamp, .perf, .wrap, .finishes]) (a1) (a2) {a3 : State} (k3 : s.Within F a3) :
    ∃ u, execQengPause a1 a2 a3 = .next u ∧ s.Within F u := by
  unfold execQengPause
  refine ⟨_, rfl, ?_⟩
  apply cpReg_within (hF.mono rfl)
  with_reducible assumption

theorem execRqKick_within {F : Part → Bool} {s : State} (hF : Part.All F [.tile, .cp, .config, .regs, .blocks, .hdrs,
    .irq, .qeng, .crown, .fab, .frames, .ctx, .epoch, .digest, .bignum, .rng, .custody, .key, .dma, .hb, .clk, .pwr,
    .tamp, .perf, .wrap, .finishes]) (a1) (a2) (a3) {a4 : State} (k4 : s.Within F a4) :
    ∃ u, execRqKick a1 a2 a3 a4 = .next u ∧ s.Within F u := by
  unfold execRqKick
  refine ⟨_, rfl, ?_⟩
  apply regWrite_within (hF.mono rfl)
  with_reducible assumption

theorem execRqDozePoll_within {F : Part → Bool} {s : State} (hF : Part.All F [.regs, .hdrs, .irq, .qeng, .fab]) (a1)
    {a2 : State} (k2 : s.Within F a2) :
    ∃ u, execRqDozePoll a1 a2 = .next u ∧ s.Within F u := by
  unfold execRqDozePoll
  refine ⟨_, rfl, ?_⟩
  apply work_within (hF.mono rfl)
  · with_reducible assumption
  · intro u0 h1
    refine within_ite (fun _ => ?_) (fun _ => ?_)
    · apply rqRead_within (hF.mono rfl)
      with_reducible assumption
    · with_reducible assumption

theorem execSchedIssue_within {F : Part → Bool} {s : State} (hF : Part.All F [.regs, .hdrs, .irq, .qeng, .crown,
    .fab]) {a1 : State} (k1 : s.Within F a1) :
    ∃ u, execSchedIssue a1 = .next u ∧ s.Within F u := by
  unfold execSchedIssue
  refine ⟨_, rfl, ?_⟩
  apply whileWorking_within (hF.mono rfl)
  · with_reducible assumption
  · intro u0 h1
    apply schedIssue_within (hF.mono rfl)
    with_reducible assumption

theorem execRqPoll_within {F : Part → Bool} {s : State} (hF : Part.All F [.regs, .hdrs, .irq, .qeng, .fab]) (a1) {a2 :
    State} (k2 : s.Within F a2) :
    ∃ u, execRqPoll a1 a2 = .next u ∧ s.Within F u := by
  unfold execRqPoll
  refine ⟨_, rfl, ?_⟩
  apply work_within (hF.mono rfl)
  · with_reducible assumption
  · intro u0 h1
    refine within_ite (fun _ => ?_) (fun _ => ?_)
    · apply rqRead_within (hF.mono rfl)
      with_reducible assumption
    · with_reducible assumption

theorem execDescFetchFail_within {F : Part → Bool} {s : State} (hF : Part.All F [.regs, .hdrs, .irq, .qeng, .crown,
    .fab, .perf]) (a1) {a2 : State} (k2 : s.Within F a2) :
    ∃ u, execDescFetchFail a1 a2 = .next u ∧ s.Within F u := by
  unfold execDescFetchFail
  refine ⟨_, rfl, ?_⟩
  apply work_within (hF.mono rfl)
  · with_reducible assumption
  · intro u0 h1
    apply descFail_within (hF.mono rfl)
    with_reducible assumption

theorem execDispatch_within {F : Part → Bool} {s : State} (hF : Part.All F [.tile, .regs, .blocks, .hdrs, .irq, .qeng,
    .crown, .fab, .ctx, .digest, .bignum, .rng, .key, .wrap]) (a1) {a2 : State} (k2 : s.Within F a2) :
    ∃ u, execDispatch a1 a2 = .next u ∧ s.Within F u := by
  unfold execDispatch
  refine ⟨_, rfl, ?_⟩
  apply whileWorking_within (hF.mono rfl)
  · with_reducible assumption
  · intro u0 h1
    apply dispatch_within (hF.mono rfl)
    with_reducible assumption

theorem execRqEnable_within {F : Part → Bool} {s : State} (hF : Part.All F [.tile, .cp, .config, .regs, .blocks,
    .hdrs, .irq, .qeng, .crown, .fab, .frames, .ctx, .epoch, .digest, .bignum, .rng, .custody, .key, .dma, .hb, .clk,
    .pwr, .tamp, .perf, .wrap, .finishes]) (a1) (a2) (a3) {a4 : State} (k4 : s.Within F a4) :
    ∃ u, execRqEnable a1 a2 a3 a4 = .next u ∧ s.Within F u := by
  unfold execRqEnable
  refine ⟨_, rfl, ?_⟩
  apply regWrite_within (hF.mono rfl)
  with_reducible assumption

theorem execChainNextDispatch_within {F : Part → Bool} {s : State} (hF : Part.All F [.tile, .regs, .blocks, .hdrs,
    .irq, .qeng, .crown, .fab, .ctx, .digest, .bignum, .rng, .key, .wrap]) (a1) {a2 : State} (k2 : s.Within F a2) :
    ∃ u, execChainNextDispatch a1 a2 = .next u ∧ s.Within F u := by
  unfold execChainNextDispatch
  refine ⟨_, rfl, ?_⟩
  apply whileWorking_within (hF.mono rfl)
  · with_reducible assumption
  · intro u0 h1
    apply chainNext_within (hF.mono rfl)
    with_reducible assumption

theorem execMarker_within {F : Part → Bool} {s : State} (hF : Part.All F [.tile, .regs, .blocks, .hdrs, .irq, .qeng,
    .crown, .fab, .rng, .key, .wrap]) (a1) {a2 : State} (k2 : s.Within F a2) :
    ∃ u, execMarker a1 a2 = .next u ∧ s.Within F u := by
  unfold execMarker
  refine ⟨_, rfl, ?_⟩
  apply whileWorking_within (hF.mono rfl)
  · with_reducible assumption
  · intro u0 h1
    apply marker_within (hF.mono rfl)
    with_reducible assumption

end Sys2Proof.Machine
end

