-- ==== Sys2Proof/Laws/FrameExecRng.lean ====
section
/-! SUPPORT. The frames of the operations of Machine/ExecRng.lean: the parts that each may change. -/

namespace Sys2Proof.Machine

set_option Elab.async false

theorem execRngDatapathError_within {F : Part → Bool} {s : State} (hF : Part.All F [.regs, .blocks, .hdrs, .irq,
    .qeng, .crown, .fab, .frames, .ctx, .digest, .bignum, .rng, .key, .dma, .perf, .finishes]) (a1) {a2 : State} (k2 :
    s.Within F a2) :
    ∃ u, execRngDatapathError a1 a2 = .next u ∧ s.Within F u := by
  unfold execRngDatapathError
  refine ⟨_, rfl, ?_⟩
  apply whileWorking_within (hF.mono rfl)
  · with_reducible assumption
  · intro u0 h1
    refine within_ite (fun _ => ?_) (fun _ => ?_)
    · with_reducible assumption
    · refine within_ite (fun _ => ?_) (fun _ => ?_)
      · apply transient_within (hF.mono rfl)
        with_reducible assumption
      · apply fence_within (hF.mono rfl)
        apply raiseFault_within (hF.mono rfl)
        apply lasting_within (hF.mono rfl)
        with_reducible assumption

theorem execReseedForce_within {F : Part → Bool} {s : State} (hF : Part.All F [.tile, .cp, .config, .regs, .blocks,
    .hdrs, .irq, .qeng, .crown, .fab, .frames, .ctx, .epoch, .digest, .bignum, .rng, .custody, .key, .dma, .hb, .clk,
    .pwr, .tamp, .perf, .wrap, .finishes]) (a1) {a2 : State} (k2 : s.Within F a2) :
    ∃ u, execReseedForce a1 a2 = .next u ∧ s.Within F u := by
  unfold execReseedForce
  refine ⟨_, rfl, ?_⟩
  apply cpReg_within (hF.mono rfl)
  with_reducible assumption

theorem execRngReadyTimeout_within {F : Part → Bool} {s : State} (hF : Part.All F [.hdrs, .irq, .rng]) {a1 : State}
    (k1 : s.Within F a1) :
    ∃ u, execRngReadyTimeout a1 = .next u ∧ s.Within F u := by
  unfold execRngReadyTimeout
  refine ⟨_, rfl, ?_⟩
  apply whileWorking_within (hF.mono rfl)
  · with_reducible assumption
  · intro u0 h1
    apply readyTimeout_within (hF.mono rfl)
    with_reducible assumption

theorem execHealthWindowEnd_within {F : Part → Bool} {s : State} (hF : Part.All F [.rng]) {a1 : State} (k1 : s.Within
    F a1) :
    ∃ u, execHealthWindowEnd a1 = .next u ∧ s.Within F u := by
  unfold execHealthWindowEnd
  refine ⟨_, rfl, ?_⟩
  apply whileWorking_within (hF.mono rfl)
  · with_reducible assumption
  · intro u0 h1
    apply healthEnd_within (hF.mono rfl)
    with_reducible assumption

theorem execRngSwDataRead_within {F : Part → Bool} {s : State} (hF : Part.All F [.tile, .cp, .config, .regs, .blocks,
    .hdrs, .irq, .qeng, .crown, .fab, .frames, .ctx, .epoch, .digest, .bignum, .rng, .custody, .key, .dma, .hb, .clk,
    .pwr, .tamp, .perf, .wrap, .finishes]) (a1) {a2 : State} (k2 : s.Within F a2) :
    ∃ u, execRngSwDataRead a1 a2 = .next u ∧ s.Within F u := by
  unfold execRngSwDataRead
  refine ⟨_, rfl, ?_⟩
  apply cpAccess_within (hF.mono rfl)
  with_reducible assumption

theorem execRandom_within {F : Part → Bool} {s : State} (hF : Part.All F [.regs, .hdrs, .irq, .qeng, .crown, .fab,
    .rng, .finishes]) {a1 : State} (k1 : s.Within F a1) :
    ∃ u, execRandom a1 = .next u ∧ s.Within F u := by
  unfold execRandom
  refine ⟨_, rfl, ?_⟩
  apply whileWorking_within (hF.mono rfl)
  · with_reducible assumption
  · intro u0 h1
    apply randomServe_within (hF.mono rfl)
    with_reducible assumption

theorem execRandomTimeout_within {F : Part → Bool} {s : State} (hF : Part.All F [.hdrs, .irq, .crown, .rng]) {a1 :
    State} (k1 : s.Within F a1) :
    ∃ u, execRandomTimeout a1 = .next u ∧ s.Within F u := by
  unfold execRandomTimeout
  refine ⟨_, rfl, ?_⟩
  apply whileWorking_within (hF.mono rfl)
  · with_reducible assumption
  · intro u0 h1
    apply randomTimeout_within (hF.mono rfl)
    with_reducible assumption

theorem execRawCaptureStart_within {F : Part → Bool} {s : State} (hF : Part.All F [.tile, .cp, .config, .regs,
    .blocks, .hdrs, .irq, .qeng, .crown, .fab, .frames, .ctx, .epoch, .digest, .bignum, .rng, .custody, .key, .dma,
    .hb, .clk, .pwr, .tamp, .perf, .wrap, .finishes]) (a1) (a2) {a3 : State} (k3 : s.Within F a3) :
    ∃ u, execRawCaptureStart a1 a2 a3 = .next u ∧ s.Within F u := by
  unfold execRawCaptureStart
  refine ⟨_, rfl, ?_⟩
  apply cpReg_within (hF.mono rfl)
  with_reducible assumption

theorem rngWork_within {F : Part → Bool} {s : State} (hF : Part.All F [.regs, .hdrs, .irq, .qeng, .crown, .fab, .ctx,
    .digest, .rng, .key, .perf]) {a1 : State} (a2 : State → State) (k1 : s.Within F a1) (hf2 : ∀ z0, s.Within F z0 →
    s.Within F (a2 z0)) :
    s.Within F (State.rngWork a1 a2) := by
  unfold State.rngWork
  apply whileWorking_within (hF.mono rfl)
  · with_reducible assumption
  · intro u0 h1
    apply rngAfter_within (hF.mono rfl)
    · with_reducible assumption
    · apply hf2
      with_reducible assumption

theorem execEstimateWindowEnd_within {F : Part → Bool} {s : State} (hF : Part.All F [.regs, .hdrs, .irq, .rng]) {a1 :
    State} (k1 : s.Within F a1) :
    ∃ u, execEstimateWindowEnd a1 = .next u ∧ s.Within F u := by
  unfold execEstimateWindowEnd
  refine ⟨_, rfl, ?_⟩
  apply whileWorking_within (hF.mono rfl)
  · with_reducible assumption
  · intro u0 h1
    apply estimateEnd_within (hF.mono rfl)
    with_reducible assumption

theorem execRngCellEnWrite_within {F : Part → Bool} {s : State} (hF : Part.All F [.tile, .cp, .config, .regs, .blocks,
    .hdrs, .irq, .qeng, .crown, .fab, .frames, .ctx, .epoch, .digest, .bignum, .rng, .custody, .key, .dma, .hb, .clk,
    .pwr, .tamp, .perf, .wrap, .finishes]) (a1) (a2) {a3 : State} (k3 : s.Within F a3) :
    ∃ u, execRngCellEnWrite a1 a2 a3 = .next u ∧ s.Within F u := by
  unfold execRngCellEnWrite
  refine ⟨_, rfl, ?_⟩
  apply cpReg_within (hF.mono rfl)
  with_reducible assumption

theorem execFullerStallTimeout_within {F : Part → Bool} {s : State} (hF : Part.All F [.hdrs, .irq, .rng]) {a1 : State}
    (k1 : s.Within F a1) :
    ∃ u, execFullerStallTimeout a1 = .next u ∧ s.Within F u := by
  unfold execFullerStallTimeout
  refine ⟨_, rfl, ?_⟩
  apply whileWorking_within (hF.mono rfl)
  · with_reducible assumption
  · intro u0 h1
    apply fullerStall_within (hF.mono rfl)
    with_reducible assumption

theorem execBattBoundary_within {F : Part → Bool} {s : State} (hF : Part.All F [.regs, .blocks, .hdrs, .irq, .qeng,
    .crown, .fab, .ctx, .digest, .rng, .key, .perf]) (a1) {a2 : State} (k2 : s.Within F a2) :
    ∃ u, execBattBoundary a1 a2 = .next u ∧ s.Within F u := by
  unfold execBattBoundary
  refine ⟨_, rfl, ?_⟩
  apply rngWork_within (hF.mono rfl)
  · with_reducible assumption
  · intro u0 h1
    apply battBoundary_within (hF.mono rfl)
    with_reducible assumption

theorem execInstantiate_within {F : Part → Bool} {s : State} (hF : Part.All F [.regs, .blocks, .hdrs, .irq, .qeng,
    .crown, .fab, .ctx, .digest, .rng, .key, .perf]) {a1 : State} (k1 : s.Within F a1) :
    ∃ u, execInstantiate a1 = .next u ∧ s.Within F u := by
  unfold execInstantiate
  refine ⟨_, rfl, ?_⟩
  apply rngWork_within (hF.mono rfl)
  · with_reducible assumption
  · intro u0 h1
    apply instantiate_within (hF.mono rfl)
    with_reducible assumption

theorem execReseed_within {F : Part → Bool} {s : State} (hF : Part.All F [.regs, .hdrs, .irq, .qeng, .crown, .fab,
    .ctx, .digest, .rng, .key, .perf]) {a1 : State} (k1 : s.Within F a1) :
    ∃ u, execReseed a1 = .next u ∧ s.Within F u := by
  unfold execReseed
  refine ⟨_, rfl, ?_⟩
  apply rngWork_within (hF.mono rfl)
  · with_reducible assumption
  · intro u0 h1
    apply reseed_within (hF.mono rfl)
    with_reducible assumption

theorem execGenerateCall_within {F : Part → Bool} {s : State} (hF : Part.All F [.regs, .blocks, .hdrs, .irq, .qeng,
    .crown, .fab, .ctx, .digest, .bignum, .rng, .custody, .key, .perf]) {a1 : State} (k1 : s.Within F a1) :
    ∃ u, execGenerateCall a1 = .next u ∧ s.Within F u := by
  unfold execGenerateCall
  refine ⟨_, rfl, ?_⟩
  apply rngWork_within (hF.mono rfl)
  · with_reducible assumption
  · intro u0 h1
    apply kdfSync_within (hF.mono rfl)
    apply bnPoll_within (hF.mono rfl)
    apply generateCall_within (hF.mono rfl)
    with_reducible assumption

end Sys2Proof.Machine
end

