-- ==== Sys2Proof/Laws/FrameExecTamper.lean ====
section
/-! SUPPORT. The frames of the operations of Machine/ExecTamper.lean: the parts that each may change. -/

namespace Sys2Proof.Machine

set_option Elab.async false

theorem execTamperDrainDone_within {F : Part → Bool} {s : State} (hF : Part.All F [.tile, .regs, .blocks, .hdrs, .irq,
    .qeng, .crown, .fab, .frames, .ctx, .digest, .bignum, .rng, .custody, .key, .dma, .clk, .tamp, .perf, .wrap]) {a1
    : State} (k1 : s.Within F a1) :
    ∃ u, execTamperDrainDone a1 = .next u ∧ s.Within F u := by
  unfold execTamperDrainDone
  refine ⟨_, rfl, ?_⟩
  apply drainDone_within (hF.mono rfl)
  with_reducible assumption

theorem execTamperWipeDone_within {F : Part → Bool} {s : State} (hF : Part.All F [.hdrs, .irq, .tamp]) {a1 : State}
    (k1 : s.Within F a1) :
    ∃ u, execTamperWipeDone a1 = .next u ∧ s.Within F u := by
  unfold execTamperWipeDone
  refine ⟨_, rfl, ?_⟩
  apply wipeDone_within (hF.mono rfl)
  with_reducible assumption

theorem execClearAlarm_within {F : Part → Bool} {s : State} (hF : Part.All F [.tile, .cp, .config, .regs, .blocks,
    .hdrs, .irq, .qeng, .crown, .fab, .frames, .ctx, .epoch, .digest, .bignum, .rng, .custody, .key, .dma, .hb, .clk,
    .pwr, .tamp, .perf, .wrap, .finishes]) (a1) {a2 : State} (k2 : s.Within F a2) :
    ∃ u, execClearAlarm a1 a2 = .next u ∧ s.Within F u := by
  unfold execClearAlarm
  refine ⟨_, rfl, ?_⟩
  apply cpReg_within (hF.mono rfl)
  with_reducible assumption

theorem execQualRearmExpiry_within {F : Part → Bool} {s : State} (hF : Part.All F [.tamp]) (a1) {a2 : State} (k2 :
    s.Within F a2) :
    ∃ u, execQualRearmExpiry a1 a2 = .next u ∧ s.Within F u := by
  unfold execQualRearmExpiry
  refine ⟨_, rfl, ?_⟩
  apply unit_within (hF.mono rfl)
  · with_reducible assumption
  · intro u0 h1
    apply qualRearm_within (hF.mono rfl)
    with_reducible assumption

theorem execSelftestDone_within {F : Part → Bool} {s : State} (hF : Part.All F [.tile, .regs, .blocks, .hdrs, .irq,
    .qeng, .crown, .fab, .frames, .ctx, .digest, .bignum, .rng, .custody, .key, .dma, .pwr, .perf, .finishes]) (a1)
    {a2 : State} (k2 : s.Within F a2) :
    ∃ u, execSelftestDone a1 a2 = .next u ∧ s.Within F u := by
  unfold execSelftestDone
  refine ⟨_, rfl, ?_⟩
  apply whileWorking_within (hF.mono rfl)
  · with_reducible assumption
  · intro u0 h1
    apply selftestDone_within (hF.mono rfl)
    with_reducible assumption

theorem execTamperDrainTimeout_within {F : Part → Bool} {s : State} (hF : Part.All F [.regs, .hdrs, .irq, .crown,
    .fab, .perf]) {a1 : State} (k1 : s.Within F a1) :
    ∃ u, execTamperDrainTimeout a1 = .next u ∧ s.Within F u := by
  unfold execTamperDrainTimeout
  refine ⟨_, rfl, ?_⟩
  apply drainTimeout_within (hF.mono rfl)
  with_reducible assumption

theorem execTampSeal_within {F : Part → Bool} {s : State} (hF : Part.All F [.tile, .cp, .config, .regs, .blocks,
    .hdrs, .irq, .qeng, .crown, .fab, .frames, .ctx, .epoch, .digest, .bignum, .rng, .custody, .key, .dma, .hb, .clk,
    .pwr, .tamp, .perf, .wrap, .finishes]) (a1) {a2 : State} (k2 : s.Within F a2) :
    ∃ u, execTampSeal a1 a2 = .next u ∧ s.Within F u := by
  unfold execTampSeal
  refine ⟨_, rfl, ?_⟩
  apply cpReg_within (hF.mono rfl)
  with_reducible assumption

theorem execSensorRearmExpiry_within {F : Part → Bool} {s : State} (hF : Part.All F [.tamp]) (a1) {a2 : State} (k2 :
    s.Within F a2) :
    ∃ u, execSensorRearmExpiry a1 a2 = .next u ∧ s.Within F u := by
  unfold execSensorRearmExpiry
  refine ⟨_, rfl, ?_⟩
  apply sensorRearm_within (hF.mono rfl)
  with_reducible assumption

theorem qualAfter_within {F : Part → Bool} {s : State} (hF : Part.All F [.regs, .hdrs, .irq, .digest, .key, .pwr])
    (a1) (a2) (k2 : s.Within F a2.2) :
    s.Within F (qualAfter a1 a2) := by
  unfold qualAfter
  refine within_ite (fun _ => ?_) (fun _ => ?_)
  · apply wakePinEvent_within (hF.mono rfl)
    with_reducible assumption
  · with_reducible assumption

theorem execFltFuncClear_within {F : Part → Bool} {s : State} (hF : Part.All F [.tile, .cp, .config, .regs, .blocks,
    .hdrs, .irq, .qeng, .crown, .fab, .frames, .ctx, .epoch, .digest, .bignum, .rng, .custody, .key, .dma, .hb, .clk,
    .pwr, .tamp, .perf, .wrap, .finishes]) (a1) (a2) {a3 : State} (k3 : s.Within F a3) :
    ∃ u, execFltFuncClear a1 a2 a3 = .next u ∧ s.Within F u := by
  unfold execFltFuncClear
  refine ⟨_, rfl, ?_⟩
  apply unit_within (hF.mono rfl)
  · with_reducible assumption
  · intro u0 h1
    apply cpReg_within (hF.mono rfl)
    with_reducible assumption

theorem execSelftestGo_within {F : Part → Bool} {s : State} (hF : Part.All F [.tile, .cp, .config, .regs, .blocks,
    .hdrs, .irq, .qeng, .crown, .fab, .frames, .ctx, .epoch, .digest, .bignum, .rng, .custody, .key, .dma, .hb, .clk,
    .pwr, .tamp, .perf, .wrap, .finishes]) (a1) (a2) {a3 : State} (k3 : s.Within F a3) :
    ∃ u, execSelftestGo a1 a2 a3 = .next u ∧ s.Within F u := by
  unfold execSelftestGo
  refine ⟨_, rfl, ?_⟩
  apply cpReg_within (hF.mono rfl)
  with_reducible assumption

theorem execSensorQualify_within {F : Part → Bool} {s : State} (hF : Part.All F [.tile, .regs, .blocks, .hdrs, .irq,
    .qeng, .crown, .fab, .frames, .ctx, .digest, .bignum, .rng, .custody, .key, .dma, .hb, .pwr, .tamp, .perf, .wrap,
    .finishes]) (a1) {a2 : State} (k2 : s.Within F a2) :
    ∃ u, execSensorQualify a1 a2 = .next u ∧ s.Within F u := by
  unfold execSensorQualify
  refine ⟨_, rfl, ?_⟩
  apply sensorQualify_within (hF.mono rfl)
  with_reducible assumption

theorem execFltFuncForce_within {F : Part → Bool} {s : State} (hF : Part.All F [.tile, .cp, .config, .regs, .blocks,
    .hdrs, .irq, .qeng, .crown, .fab, .frames, .ctx, .epoch, .digest, .bignum, .rng, .custody, .key, .dma, .hb, .clk,
    .pwr, .tamp, .perf, .wrap, .finishes]) (a1) (a2) {a3 : State} (k3 : s.Within F a3) :
    ∃ u, execFltFuncForce a1 a2 a3 = .next u ∧ s.Within F u := by
  unfold execFltFuncForce
  refine ⟨_, rfl, ?_⟩
  apply unit_within (hF.mono rfl)
  · with_reducible assumption
  · intro u0 h1
    apply cpReg_within (hF.mono rfl)
    with_reducible assumption

theorem execTileFenceFlushDone_within {F : Part → Bool} {s : State} (hF : Part.All F [.tile, .regs, .blocks, .hdrs,
    .irq, .qeng, .crown, .fab, .frames, .ctx, .digest, .bignum, .rng, .key, .dma, .perf, .wrap, .finishes]) {a1 :
    State} (k1 : s.Within F a1) :
    ∃ u, execTileFenceFlushDone a1 = .next u ∧ s.Within F u := by
  unfold execTileFenceFlushDone
  refine ⟨_, rfl, ?_⟩
  apply tileFenceEnds_within (hF.mono rfl)
  with_reducible assumption

theorem execTampQualClr_within {F : Part → Bool} {s : State} (hF : Part.All F [.tile, .cp, .config, .regs, .blocks,
    .hdrs, .irq, .qeng, .crown, .fab, .frames, .ctx, .epoch, .digest, .bignum, .rng, .custody, .key, .dma, .hb, .clk,
    .pwr, .tamp, .perf, .wrap, .finishes]) (a1) (a2) {a3 : State} (k3 : s.Within F a3) :
    ∃ u, execTampQualClr a1 a2 a3 = .next u ∧ s.Within F u := by
  unfold execTampQualClr
  refine ⟨_, rfl, ?_⟩
  apply cpReg_within (hF.mono rfl)
  with_reducible assumption

theorem execQualInputActive_within {F : Part → Bool} {s : State} (hF : Part.All F [.rng, .key, .tamp]) (a1) {a2 :
    State} (k2 : s.Within F a2) :
    ∃ u, execQualInputActive a1 a2 = .next u ∧ s.Within F u := by
  unfold execQualInputActive
  refine ⟨_, rfl, ?_⟩
  apply unit_within (hF.mono rfl)
  · with_reducible assumption
  · intro u0 h1
    apply qualActive_within (hF.mono rfl)
    with_reducible assumption

theorem execQualShortPulse_within {F : Part → Bool} {s : State} (hF : Part.All F [.tile, .regs, .blocks, .hdrs, .irq,
    .qeng, .crown, .fab, .frames, .ctx, .digest, .bignum, .rng, .custody, .key, .dma, .hb, .pwr, .tamp, .perf, .wrap,
    .finishes]) (a1) {a2 : State} (k2 : s.Within F a2) :
    ∃ u, execQualShortPulse a1 a2 = .next u ∧ s.Within F u := by
  unfold execQualShortPulse
  refine ⟨_, rfl, ?_⟩
  apply unit_within (hF.mono rfl)
  · with_reducible assumption
  · intro u0 h1
    apply qualAfter_within (hF.mono rfl)
    apply qualShort_within (hF.mono rfl)
    with_reducible assumption

theorem execQualHoldDone_within {F : Part → Bool} {s : State} (hF : Part.All F [.tile, .regs, .blocks, .hdrs, .irq,
    .qeng, .crown, .fab, .frames, .ctx, .digest, .bignum, .rng, .custody, .key, .dma, .hb, .pwr, .tamp, .perf, .wrap,
    .finishes]) (a1) {a2 : State} (k2 : s.Within F a2) :
    ∃ u, execQualHoldDone a1 a2 = .next u ∧ s.Within F u := by
  unfold execQualHoldDone
  refine ⟨_, rfl, ?_⟩
  apply unit_within (hF.mono rfl)
  · with_reducible assumption
  · intro u0 h1
    apply qualAfter_within (hF.mono rfl)
    apply qualHeld_within (hF.mono rfl)
    with_reducible assumption

end Sys2Proof.Machine
end

