-- ==== Sys2Proof/Laws/FrameExecTrace.lean ====
section
/-! SUPPORT. The frames of the operations of Machine/ExecTrace.lean: the parts that each may change. -/

namespace Sys2Proof.Machine

set_option Elab.async false

theorem execPerfSeedArrive_within {F : Part → Bool} {s : State} (hF : Part.All F [.rng, .perf]) {a1 : State} (k1 :
    s.Within F a1) :
    ∃ u, execPerfSeedArrive a1 = .next u ∧ s.Within F u := by
  unfold execPerfSeedArrive
  refine ⟨_, rfl, ?_⟩
  apply whileWorking_within (hF.mono rfl)
  · with_reducible assumption
  · intro u0 h1
    apply seedArrive_within (hF.mono rfl)
    with_reducible assumption

theorem execWrapperDataShift_within {F : Part → Bool} {s : State} (hF : Part.All F [.wrap]) (a1) {a2 : State} (k2 :
    s.Within F a2) :
    ∃ u, execWrapperDataShift a1 a2 = .next u ∧ s.Within F u := by
  unfold execWrapperDataShift
  refine ⟨_, rfl, ?_⟩
  apply wrapData_within (hF.mono rfl)
  with_reducible assumption

theorem execFabricTimeout_within {F : Part → Bool} {s : State} (hF : Part.All F [.regs, .blocks, .hdrs, .irq, .qeng,
    .crown, .fab, .frames, .ctx, .digest, .bignum, .rng, .key, .dma, .perf, .finishes]) (a1) (a2) (a3) {a4 : State}
    (k4 : s.Within F a4) :
    ∃ u, execFabricTimeout a1 a2 a3 a4 = .next u ∧ s.Within F u := by
  unfold execFabricTimeout
  refine ⟨_, rfl, ?_⟩
  apply unit_within (hF.mono rfl)
  · with_reducible assumption
  · intro u0 h1
    apply fabTimeout_within (hF.mono rfl)
    with_reducible assumption

theorem execPerfTagCfgWrite_within {F : Part → Bool} {s : State} (hF : Part.All F [.tile, .cp, .config, .regs,
    .blocks, .hdrs, .irq, .qeng, .crown, .fab, .frames, .ctx, .epoch, .digest, .bignum, .rng, .custody, .key, .dma,
    .hb, .clk, .pwr, .tamp, .perf, .wrap, .finishes]) (a1) (a2) {a3 : State} (k3 : s.Within F a3) :
    ∃ u, execPerfTagCfgWrite a1 a2 a3 = .next u ∧ s.Within F u := by
  unfold execPerfTagCfgWrite
  refine ⟨_, rfl, ?_⟩
  apply cpReg_within (hF.mono rfl)
  with_reducible assumption

theorem execMbistDone_within {F : Part → Bool} {s : State} (hF : Part.All F [.wrap]) (a1) {a2 : State} (k2 : s.Within
    F a2) :
    ∃ u, execMbistDone a1 a2 = .next u ∧ s.Within F u := by
  unfold execMbistDone
  refine ⟨_, rfl, ?_⟩
  apply mbistDone_within (hF.mono rfl)
  with_reducible assumption

theorem execPerfTrcEnable_within {F : Part → Bool} {s : State} (hF : Part.All F [.tile, .cp, .config, .regs, .blocks,
    .hdrs, .irq, .qeng, .crown, .fab, .frames, .ctx, .epoch, .digest, .bignum, .rng, .custody, .key, .dma, .hb, .clk,
    .pwr, .tamp, .perf, .wrap, .finishes]) (a1) (a2) {a3 : State} (k3 : s.Within F a3) :
    ∃ u, execPerfTrcEnable a1 a2 a3 = .next u ∧ s.Within F u := by
  unfold execPerfTrcEnable
  refine ⟨_, rfl, ?_⟩
  apply cpReg_within (hF.mono rfl)
  with_reducible assumption

theorem execWrapperReset_within {F : Part → Bool} {s : State} (hF : Part.All F [.wrap]) {a1 : State} (k1 : s.Within F
    a1) :
    ∃ u, execWrapperReset a1 = .next u ∧ s.Within F u := by
  unfold execWrapperReset
  refine ⟨_, rfl, ?_⟩
  apply wrapReset_within (hF.mono rfl)
  with_reducible assumption

theorem execFabricWriteResponse_within {F : Part → Bool} {s : State} (hF : Part.All F [.regs, .blocks, .hdrs, .irq,
    .qeng, .crown, .fab, .frames, .ctx, .digest, .bignum, .rng, .key, .dma, .perf, .finishes]) (a1) (a2) (a3) {a4 :
    State} (k4 : s.Within F a4) :
    ∃ u, execFabricWriteResponse a1 a2 a3 a4 = .next u ∧ s.Within F u := by
  unfold execFabricWriteResponse
  refine ⟨_, rfl, ?_⟩
  apply unit_within (hF.mono rfl)
  · with_reducible assumption
  · intro u0 h1
    apply fabWrite_within (hF.mono rfl)
    with_reducible assumption

theorem execFabricLateResponse_within {F : Part → Bool} {s : State} (hF : Part.All F [.regs, .hdrs, .irq, .fab]) (a1)
    (a2) (a3) {a4 : State} (k4 : s.Within F a4) :
    ∃ u, execFabricLateResponse a1 a2 a3 a4 = .next u ∧ s.Within F u := by
  unfold execFabricLateResponse
  refine ⟨_, rfl, ?_⟩
  apply unit_within (hF.mono rfl)
  · with_reducible assumption
  · intro u0 h1
    apply lateResponse_within (hF.mono rfl)
    with_reducible assumption

theorem execWrapperInstruction_within {F : Part → Bool} {s : State} (hF : Part.All F [.wrap]) (a1) {a2 : State} (k2 :
    s.Within F a2) :
    ∃ u, execWrapperInstruction a1 a2 = .next u ∧ s.Within F u := by
  unfold execWrapperInstruction
  refine ⟨_, rfl, ?_⟩
  apply wrapLoad_within (hF.mono rfl)
  with_reducible assumption

theorem execFabricReadResponse_within {F : Part → Bool} {s : State} (hF : Part.All F [.regs, .blocks, .hdrs, .irq,
    .qeng, .crown, .fab, .frames, .ctx, .digest, .bignum, .rng, .key, .dma, .perf, .finishes]) (a1) (a2) (a3) (a4)
    (a5) {a6 : State} (k6 : s.Within F a6) :
    ∃ u, execFabricReadResponse a1 a2 a3 a4 a5 a6 = .next u ∧ s.Within F u := by
  unfold execFabricReadResponse
  refine ⟨_, rfl, ?_⟩
  apply unit_within (hF.mono rfl)
  · with_reducible assumption
  · intro u0 h1
    apply fabRead_within (hF.mono rfl)
    with_reducible assumption

end Sys2Proof.Machine
end

