-- ==== Sys2Proof/Laws/FrameSafety.lean ====
section
/-! SUPPORT. The frames of the operations of Safety.lean: the parts that each may change. -/

namespace Sys2Proof.Machine

set_option Elab.async false

theorem answeredOk_within {F : Part → Bool} {s : State} (hF : Part.All F [.cp]) {a1 : State} (k1 : s.Within F a1) :
    s.Within F (State.answeredOk a1) := by
  unfold State.answeredOk
  refine within_cp (hF.one rfl) ?_
  with_reducible assumption

end Sys2Proof.Machine
end

