-- ==== Sys2Proof/Laws/TileState.lean ====
section
/-! SUPPORT. What the moves of the tile state machine leave: the state entered, registers, headers, and the latches that
leaving a state clears. -/

namespace Sys2Proof.Machine

set_option Elab.async false

/-- A TILE_CMD behind its key. -/
theorem tileCmd_eq (s : State) (c : Nat) (hc : c < 16) (req : Req) (h : s.OpenReg .TILE_CMD 0 req) :
    s.cpReg .TILE_CMD 0 (cmdWord c) req = (s.tileCommand c).answeredOk := by
  rw [cpReg_open _ _ _ _ _ h]
  show (s.keyed _ _ _).answeredOk = _
  rw [keyed_cmd _ _ _ hc]

/-! ## Entering a state -/

/-- Between states where nothing restarts, stops or is fenced, nothing but the state moves. -/
theorem enterTile_plain (s : State) (t : TileState) (h1 : s.tile.st ≠ .test) (h2 : s.tile.st ≠ .fenced) (h3 : t ≠ .fenced)
    (h4 : t ≠ .bringUp) (h5 : s.tile.st ≠ .sleep) (h6 : s.tile.st ≠ .deepSleep) (h7 : s.tile.st ≠ .alarmed)
    (h8 : s.tile.st = .bringUp → s.key.port = .loaded) :
    s.enterTile t = { s with tile := { s.tile with st := t, prev := s.tile.st } } := by
  unfold State.enterTile State.wdogFollows State.portDrops
  have e1 : (s.tile.st == .test) = false := by simpa using h1
  have e2 : (s.tile.st == .fenced) = false := by simpa using h2
  have e3 : (t == .fenced) = false := by simpa using h3
  have e4 : (t == .bringUp) = false := by simpa using h4
  have e5 : (s.tile.st == .sleep) = false := by simpa using h5
  have e6 : (s.tile.st == .deepSleep) = false := by simpa using h6
  have e7 : (s.tile.st == .alarmed) = false := by simpa using h7
  by_cases h : s.tile.st = .bringUp
  · simp [e3, e4, h, h8 h]
  · simp [e1, e2, e3, e4, e5, e6, e7, h]

/-- What a move of the tile state machine leaves: the rest of the tile's own state but for the watchdog's, the root and the keys
derived from it, the registers but for two, and the header of every page from 6 on. -/
structure Kept (s u : State) : Prop where
  st : u.tile.st = s.tile.st
  prev : u.tile.prev = s.tile.prev
  addr : u.tile.addr = s.tile.addr
  base : u.tile.windowBase = s.tile.windowBase
  fencing : u.tile.fencing = s.tile.fencing
  fence : u.tile.fence = s.tile.fence
  root : u.key.root = s.key.root
  wrapKey : u.key.wrap = s.key.wrap
  treeKey : u.key.tree = s.key.tree
  reg : ∀ r n, r ≠ .RNG_XRAW → r ≠ .TILE_RESET_CAUSE → u.reg r n = s.reg r n
  hdr : ∀ q, 6 ≤ q → u.hdrAt q = s.hdrAt q

theorem Kept.refl (s : State) : Kept s s := ⟨rfl, rfl, rfl, rfl, rfl, rfl, rfl, rfl, rfl, fun _ _ _ _ => rfl, fun _ _ => rfl⟩

theorem Kept.trans {s u v : State} (h : Kept s u) (k : Kept u v) : Kept s v where
  st := k.st.trans h.st
  prev := k.prev.trans h.prev
  addr := k.addr.trans h.addr
  base := k.base.trans h.base
  fencing := k.fencing.trans h.fencing
  fence := k.fence.trans h.fence
  root := k.root.trans h.root
  wrapKey := k.wrapKey.trans h.wrapKey
  treeKey := k.treeKey.trans h.treeKey
  reg := fun r n a b => (k.reg r n a b).trans (h.reg r n a b)
  hdr := fun q a => (k.hdr q a).trans (h.hdr q a)

theorem rawEnd_kept (s : State) : Kept s s.rawEnd := by
  unfold State.rawEnd
  split <;> exact ⟨rfl, rfl, rfl, rfl, rfl, rfl, rfl, rfl, rfl, fun _ _ _ _ => rfl, fun _ _ => rfl⟩

theorem putFlag_kept (s : State) (f : Fld) (n : Nat) (b : Bool) (h : f.reg = .RNG_XRAW ∨ f.reg = .TILE_RESET_CAUSE) :
    Kept s (s.putFlag f n b) where
  st := rfl
  prev := rfl
  addr := rfl
  base := rfl
  fencing := rfl
  fence := rfl
  root := rfl
  wrapKey := rfl
  treeKey := rfl
  reg := fun r n h1 h2 => reg_setReg_ne _ _ (Or.inl (fun e => by rcases h with h | h <;> simp_all))
  hdr := fun _ _ => rfl

theorem leavesTest_kept (s : State) : Kept s s.leavesTest := by
  unfold State.leavesTest
  dsimp only
  have h0 : Kept s { s with wrap := { s.wrap with code := 0, extest := false } } :=
    ⟨rfl, rfl, rfl, rfl, rfl, rfl, rfl, rfl, rfl, fun _ _ _ _ => rfl, fun _ _ => rfl⟩
  split
  · exact h0.trans ((rawEnd_kept _).trans (putFlag_kept _ _ _ _ (.inl rfl)))
  · exact h0

theorem portDrops_kept (s : State) : Kept s s.portDrops := by
  unfold State.portDrops State.portReset
  split <;> exact ⟨rfl, rfl, rfl, rfl, rfl, rfl, rfl, rfl, rfl, fun _ _ _ _ => rfl, fun _ _ => rfl⟩

theorem wdogFollows_kept (s : State) (old t : TileState) : Kept s (s.wdogFollows old t) := by
  unfold State.wdogFollows
  dsimp only
  split <;> split
  all_goals first
    | exact ⟨rfl, rfl, rfl, rfl, rfl, rfl, rfl, rfl, rfl, fun _ _ _ _ => rfl, fun _ _ => rfl⟩
    | (refine Kept.trans ?_ (putFlag_kept _ _ _ _ (.inr rfl))
       exact ⟨rfl, rfl, rfl, rfl, rfl, rfl, rfl, rfl, rfl, fun _ _ _ _ => rfl, fun _ _ => rfl⟩)

theorem fixedHdrs_kept (f : Nat → Hdr → Hdr) (l : List Nat) (h : ∀ p ∈ l, p < 6) (s : State) :
    Kept s (l.foldl (fun s p => s.setHdrAt p (f p (s.hdrAt p))) s) := by
  induction l generalizing s with
  | nil => exact Kept.refl s
  | cons x l ih =>
    rw [List.foldl_cons]
    refine Kept.trans ?_ (ih (fun p hp => h p (List.mem_cons_of_mem _ hp)) _)
    refine ⟨rfl, rfl, rfl, rfl, rfl, rfl, rfl, rfl, rfl, fun _ _ _ _ => rfl, fun q hq => hdrAt_setHdrAt_ne _ _ ?_⟩
    have := h x List.mem_cons_self
    omega

/-- A tile that enters a state is in it, PREV shows the one it left, and what Kept names stays. -/
theorem enterTile_kept (s : State) (t : TileState) :
    Kept { s with tile := { s.tile with st := t, prev := s.tile.st } } (s.enterTile t) := by
  unfold State.enterTile
  extract_lets _ old a b c d
  have h1 : Kept a b := by
    unfold b; split
    · exact leavesTest_kept a
    · exact Kept.refl a
  have h2 : Kept b c := by
    unfold c; split
    · exact portDrops_kept b
    · exact Kept.refl b
  have h3 : Kept c d := wdogFollows_kept c old t
  refine (h1.trans (h2.trans h3)).trans ?_
  split
  · exact Kept.refl d
  · exact fixedHdrs_kept (fun _ h => { h with
      prev := h.st
      st := if t == .fenced then .fenced else .on
      event := h.event ||| (1 <<< 31) }) (List.range 6) (fun p hp => by simpa using hp) d

theorem enterTile_st (s : State) (t : TileState) : (s.enterTile t).tile.st = t := (enterTile_kept s t).st
theorem enterTile_prev (s : State) (t : TileState) : (s.enterTile t).tile.prev = s.tile.st := (enterTile_kept s t).prev
theorem enterTile_addr (s : State) (t : TileState) : (s.enterTile t).tile.addr = s.tile.addr := (enterTile_kept s t).addr

theorem enterTile_reg (s : State) (t : TileState) {r : Reg} (n : Nat) (h : r ≠ .RNG_XRAW) (h' : r ≠ .TILE_RESET_CAUSE) :
    (s.enterTile t).reg r n = s.reg r n := (enterTile_kept s t).reg r n h h'

theorem enterTile_hdrAt (s : State) (t : TileState) {q : Nat} (h : 6 ≤ q) : (s.enterTile t).hdrAt q = s.hdrAt q :=
  (enterTile_kept s t).hdr q h

/-! ## Keys and fences -/

/-- The root latch is empty once it is cleared. -/
theorem clearLatch_root (s : State) : s.clearLatch.key.root = none := by
  unfold State.clearLatch
  extract_lets _ b c
  have h := ((clearFgen_within (F := fun x => x != .custody) (Part.All.of_all rfl)
    (Within.refl (c.portReset.setReg .TILE_UID 0 0))).custody rfl).1
  rw [h]
  rfl

theorem clearRoot_root (s : State) : s.clearRoot.key.root = none := clearLatch_root s

/-- A tile fence records its cause and starts. -/
theorem tileFence_tile (s : State) (c : Nat) (f : Bool) (h1 : s.fenceFalls = true) (h2 : s.tile.fencing = none)
    (h3 : s.tamp.responding = false) :
    (s.tileFence c f).tile = { s.tile with fencing := some c, fence := ⟨c, 5, f⟩ } := by
  unfold State.tileFence
  simp only [h1, h2, h3, Bool.not_true, Option.isSome_none, Bool.or_false, Bool.false_eq_true, if_false]
  generalize hu : ({ s with tile := { s.tile with fencing := some c, fence := ⟨c, 5, f⟩ } } : State) = u
  have hut : u.tile = { s.tile with fencing := some c, fence := ⟨c, 5, f⟩ } := by rw [← hu]
  have hv : ((u.stopWork.haltAll stFenced).selftestDrop).tile = u.tile :=
    (selftestDrop_within (F := fun x => x != .tile && x != .addr) (Part.All.of_all rfl)
      (haltAll_within (Part.All.of_all rfl) _ (stopWork_within (Part.All.of_all rfl) (Within.refl u)))).tile_eq rfl rfl
  generalize (u.stopWork.haltAll stFenced).selftestDrop = v at hv ⊢
  rw [← hut, ← hv]
  split
  · exact (flushCheck_within (F := fun x => x != .tile && x != .addr) (Part.All.of_all rfl)
      (flushStart_within (Part.All.of_all rfl)
        (within_ctx rfl (Within.refl v)))).tile_eq rfl rfl
  · rfl

end Sys2Proof.Machine
end

