-- ==== Sys2Proof/WellFormed.lean ====
section
/-! DEFINITION. Which commands can be sent: the operands of each within the ranges that the spec gives them. A command that
is not well-formed names something that the tile does not have; its meaning changes nothing. -/

namespace Sys2Proof

/-- A request that the signals of R363 can carry: of 4 or 8 bytes, at an address whose low two bits are zero. -/
def Access.wf (a : Access) : Bool := (a.bytes == 4 || a.bytes == 8) && a.addr.extractLsb' 0 2 == 0

/-- How many instances of a page the window has (R26). -/
def PageKind.size : PageKind → Nat
  | .lane | .dmaChannel | .rq => 16
  | .quad | .dcore | .cq => 4
  | .function => 64
  | .tile | .hatband | .clock | .power | .irq | .tamper | .rng | .key | .ctx | .qeng | .crown | .digest | .bignum | .dma
  | .perf | .result => 1

/-- A page that is in the window (R26). -/
def PageRef.wf (p : PageRef) : Bool := decide (p.inst < p.kind.size)

/-- A place in the caches of the context store (R113, R114): 64 banks of 64 ways, and the nodes of the tree. -/
def CacheRef.wf : CacheRef → Bool
  | .way b w => decide (b < 64) && decide (w < 64)
  | .node l i => decide (l < 16) && decide (i < 2 ^ 32)

/-- Byte 0 of a cell, its type (R274, R276). -/
def Cell.kind (c : Cell) : BitVec 8 := c.extractLsb' 0 8

/-- Byte 2 of a cell (R286). -/
def Cell.arg (c : Cell) : BitVec 8 := c.extractLsb' 16 8

/-- The operands of a command are within their ranges. -/
def Instr.wf : Instr → Bool
  | .registerWrite a | .cpUnaddressedAccess _ a => a.wf
  | .pageLockWrite page _ _ | .lockArmTimeout page | .blockEnWrite page _ _ | .blockInitDone page
  | .blockShutdownDone page | .transitionTimeout page | .softReset page _ | .softResetDone page
  | .pageOwnerWrite page _ _ | .pageFenceForce page _ => page.wf
  | .registerParityError _ | .bringUpDone _ | .enterTest _ | .leaveTest _ | .fenceTile _ | .unfenceTile _
  | .runIdleTimeout | .wdogKick _ _ | .wdogExpiry => true
  | .rqPoll rq | .rqDozePoll rq | .rqKick rq _ _ => decide (rq < 256)
  | .fnRqKick fn _ _ => decide (fn < 64)
  | .descFetchDone rq | .descFetchFail rq => decide (rq < 256)
  | .schedIssue => true
  | .chainNextDispatch chain => decide (chain < 64)
  | .dispatch _ | .marker _ => true
  | .rqEnable rq _ _ | .rqDisable rq _ => decide (rq < 256)
  | .qengPause _ _ | .frameDispatch _ => true
  | .frameStaged quad => decide (quad < 4)
  | .macsecProtect lane | .macsecValidate lane | .espEncrypt lane | .espDecrypt lane | .gcmSeal lane
  | .gcmOpen lane | .chachaSeal lane | .chachaOpen lane => decide (lane < 16)
  | .frameDstWritesDone _ => true
  | .laneError lane n cause stage =>
      decide (lane < 16) && decide (n < 20) && decide (0 < cause) && decide (cause ≤ 4) && decide (stage ≤ 17)
  | .laneReplayStart quad => decide (quad < 4)
  | .laneCheckDone lane _ | .laneCheckRun lane _ | .lanePeriodicCheck lane | .laneErrorInject lane _ _ =>
      decide (lane < 16)
  | .afailWindowEnd quad => decide (quad < 4)
  | .stagingEccError _ _ => true
  | .pageinDone handle | .pageinFail handle => decide (handle < 2 ^ 28)
  | .missWayAllocate bank => decide (bank < 64)
  | .sweepPass => true
  | .ctxWritebackDone handle | .ctxWritebackFail handle => decide (handle < 2 ^ 28)
  | .nodeWritebackDone node => decide (node / 2 ^ 32 < 16)
  | .ctxEccCorrected target | .ctxEccUncorrectable target => target.wf
  | .ctxInstall | .ctxArmNext | .ctxRetire | .ctxAudit | .ctxInit _ | .ctxFlush _ => true
  | .retireHandle handle _ => decide (handle < 2 ^ 28)
  | .ctxCmdDone | .learnEnable _ _ => true
  | .epochArm cell => cell.kind == 0x05
  | .epochFlip cell => cell.kind == 0x06
  | .epochCtlArm _ | .epochCtlSched _ | .epochCtlCancel _ | .epochGuardClose | .epochFlipDue | .crownAccept => true
  | .entryWriteFail fault => decide (fault.cq < 64)
  | .entryWriteDone cq | .mirrorWriteIssue cq | .mirrorWriteDone cq | .cqConsWrite cq _ _ =>
      decide (cq < 64)
  | .fnCqConsWrite fn _ _ => decide (fn < 64)
  | .cqEnable cq _ _ | .cqDisable cq _ => decide (cq < 64)
  | .vectorTimerExpiry v => decide (v < 256)
  | .eventMsgAccepted | .hostSleepEnter _ | .hostSleepExit _ | .irqFlushAll _ => true
  | .irqFlushVector v _ | .irqForceEvent v _ | .irqVecCfgWrite v _ _ => decide (v < 256)
  | .pageEventEnWrite page _ _ => page.wf
  | .digest ch | .hmac ch | .digestContinue ch | .hmacLoad ch | .hmacClear ch => decide (ch < 256)
  | .digestBudgetExpiry core => decide (core < 4)
  | .digestHoldTimeout ch => decide (ch < 256)
  | .dcoreError core cause => decide (core < 4) && decide (0 < cause) && decide (cause ≤ 2)
  | .dcoreCheckDone core _ | .dcoreCheckRun core _ | .dcoreErrorInject core _ _ => decide (core < 4)
  | .digestStateEcc ch => decide (ch.unit < 256)
  | .slotEccError slot => decide (slot.unit < 4096)
  | .modexp ch | .ecdh ch | .ecdsaSign ch | .ecdsaVerify ch | .x25519 ch | .ed25519Sign ch | .ed25519Verify ch
  | .mlkemKeygen ch | .mlkemEncaps ch | .mlkemDecaps ch | .mldsaSign ch | .mldsaVerify ch | .bnKeyLoad ch
  | .bnKeyGen ch | .bnKeyClear ch => decide (ch < 64)
  | .bnBudgetExpiry _ | .bnPrivPreempt _ => true
  | .bnRngTimeout ch | .bnResplitDue ch => decide (ch < 64)
  | .bnCheckFail ch _ cause => decide (ch < 64) && decide (0 < cause) && decide (cause ≤ 2)
  | .bnUnitCheckDone _ _ => true
  | .bnKeyEcc ch => decide (ch.unit < 64)
  | .bnCheckRun _ => true
  | .bnChanCfgWrite ch _ _ => decide (ch < 64)
  | .bnIdleHoldoff | .bnErrorInject _ _ => true
  | .battBoundary batts => decide (batts.length = 16)
  | .healthWindowEnd | .estimateWindowEnd | .fullerStallTimeout | .instantiate | .reseed | .generateCall
  | .rngReadyTimeout | .random | .randomTimeout | .rngSwDataRead _ | .rngCellEnWrite _ _ | .reseedForce _
  | .rawCaptureStart _ _ | .rngDatapathError _ | .keyPortRequest | .rootTransfer _ _ | .keyPortTimeout
  | .keyPortRetryWait | .keyDerive | .kdf | .zeroize _ | .attest _ | .attestDone | .pounceNow _ | .portRetry _
  | .pounceDue => true
  | .pounceBankRemask bank => decide (bank < 72)
  | .pouncePassDone | .pounceOverdue | .keyDatapathError _ => true
  | .dmaShdArm ch _ | .dmaTransferEnd ch | .dmaRingPoll ch | .dmaKick ch _ | .dmaResume ch _ | .dmaDisable ch _ =>
      decide (ch < 16)
  | .enum cell => cell.kind == 0x01
  | .renum cell => cell.kind == 0x02
  | .time cell => cell.kind == 0x03
  | .loop cell => cell.kind == 0x04
  | .zeroizeAll cell => cell.kind == 0x07
  | .sleepAll cell => cell.kind == 0x08
  | .wake cell => cell.kind == 0x09
  | .bypassEnter cell => cell.kind == 0x0A && cell.arg == 1
  | .bypassLeave cell => cell.kind == 0x0A && cell.arg == 0
  | .msg cell => cell.kind == 0x0B
  | .msgSend _ _ | .msgPop _ | .ownCellSend | .cellCrcFail _ _ | .stompedCell _ | .unknownCell _
  | .upstreamLoss | .upstreamSync | .downstreamTermCheck _ | .holdReceived | .timeStale => true
  | .clockTrip mon => decide (mon.mon < 8)
  | .hbrefQualify | .sboscCountStart | .sboscJudged | .sboscCountRestart | .switchHandshakeTimeout => true
  | .pllLock pll | .pllUnlock pll | .pllRelockTimeout pll => decide (pll < 6)
  | .useHbref _ | .useSbosc _ | .clkPllEnWrite _ _ | .clkEnWrite _ _ | .clkCompatWrite _ _
  | .clkMaskWrite _ _ _ | .coreOn _ | .wakeCommand _ | .cancelSleep _ | .sleepGo _ _ | .sleepDrainDone
  | .sleepSaveDone | .sleepCommit | .drainTimeout | .wakePin => true
  | .wakeAccess _ a => a.wf
  | .wakeTimer => true
  | .wakeComplete _ bad => bad.all (fun d => decide (d < 112))
  | .pgoodTimeout pd _ | .pgoodLost pd => decide (pd < 112)
  | .supplyGlitch _ => true
  | .lanePark lane => decide (lane < 16)
  | .quadPark quad => decide (quad < 4)
  | .vddAoUp _ | .vddAoLoss => true
  | .qualInputActive input | .qualHoldDone input | .qualShortPulse input | .qualRearmExpiry input =>
      decide (input < 6)
  | .tampQualClr _ _ | .sensorQualify _ | .tamperWipeDone | .tamperDrainTimeout | .tamperDrainDone
  | .clearAlarm _ | .tampSeal _ => true
  | .fltFuncForce fn _ | .fltFuncClear fn _ => decide (fn < 64)
  | .tileFenceFlushDone | .selftestGo _ _ | .selftestDone _ | .perfTagCfgWrite _ _ | .perfSeedArrive
  | .perfTrcEnable _ _ => true
  | .fabricReadResponse port id _ bytes data =>
      decide (port < 4) && decide (id < 1024) && decide (bytes ≤ 128) && decide (data.length = bytes)
  | .fabricWriteResponse port id _ => decide (port < 4) && decide (id < 512)
  | .fabricTimeout port write id | .fabricLateResponse port write id =>
      decide (port < 4) && decide (id < if write then 512 else 1024)
  | .wrapperInstruction _ | .wrapperReset => true
  | .registerRead a => a.wf
  | .keyPortStrayWord | .sensorRearmExpiry _ => true
  | .laneUnparkDone lane => decide (lane < 16)
  | .mbistDone _ | .wrapperDataShift _ => true

end Sys2Proof
end

