-- ==== Sys2Proof/Tests/Slice0.lean ====
section
/-! SUPPORT. Tests: an ill-formed command for each check of WellFormed, small runs of one step whose results are worked out from
the rules by hand, and for each statement with hypotheses a state and operands that meet them. -/

namespace Sys2Proof.Tests

open Sys2Proof Sys2Proof.Machine

set_option Elab.async false

/-! ## States to start from -/

/-- An administrator's request. -/
def admin : Req := ⟨true, 0⟩

/-- Tile 5 in READY with its core domains up, its PLLs locked on HBREF, every clock enabled and no block ON. -/
def up : State :=
  ({ tile := { st := .ready, prev := .bringUp, addr := some 5 }
     clk := { ref := .hbref, hbOk := true, hbEdge := true, lock := 0x3F }
     pwr := { core := true } } : State).setReg .CLK_EN 0 0xFFFFFFFFFFFF

/-- The state with a block in a state and EN. -/
def inSt (s : State) (p : PageRef) (st : BlkState) (en : Bool) : State := s.updHdr p (fun h => { h with st := st, en := en })

/-- The conditions of State.Open as a test. -/
def openB (s : State) (p : PageRef) (body : Bool) (req : Req) : Bool :=
  pageOk p && s.tile.addr.isSome && s.cp.stalled.isEmpty && !(s.hdr p).softReset && req.priv && s.pwr.phase != .waking &&
    ((!s.keeper && s.pwr.phase != .committed) || PageKind.keeper p.kind) && (s.tile.st != .fenced || PageKind.fixed p.kind) &&
    (!body || !s.gated p)

theorem open_of (s : State) (p : PageRef) (body : Bool) (req : Req) (h : openB s p body req = true) : s.Open p body req := by
  simp only [openB, Bool.and_eq_true, Bool.or_eq_true, Bool.not_eq_true', bne_iff_ne, ne_eq, List.isEmpty_iff] at h
  obtain ⟨⟨⟨⟨⟨⟨⟨⟨h1, h2⟩, h3⟩, h4⟩, h5⟩, h6⟩, h7⟩, h8⟩, h9⟩ := h
  exact ⟨h1, h2, h3, h4, h5, h6, h7, h8, fun e => by subst e; simpa using h9⟩

/-- The conditions of State.OpenReg as a test. -/
def openRegB (s : State) (r : Reg) (n : Nat) (req : Req) : Bool :=
  openB s (regPage r n) true req && (!r.desc.flds.any (fun f => f.acc == .rwx) || s.lockOpen (regPage r n))

theorem openReg_of (s : State) (r : Reg) (n : Nat) (req : Req) (h : openRegB s r n req = true) : s.OpenReg r n req := by
  simp only [openRegB, Bool.and_eq_true, Bool.or_eq_true, Bool.not_eq_true'] at h
  exact ⟨open_of _ _ _ _ h.1, fun e => by simpa [e] using h.2⟩

/-- The conditions of State.Reach as a test. -/
def reachB (s : State) (r : Reg) (n : Nat) (req : Req) : Bool :=
  openRegB s r n { req with priv := true } && s.reaches true (regPage r n) (regOff r n) req

theorem reach_of (s : State) (r : Reg) (n : Nat) (req : Req) (h : reachB s r n req = true) : s.Reach r n req := by
  simp only [reachB, Bool.and_eq_true] at h
  exact ⟨openReg_of _ _ _ _ h.1, h.2⟩

/-- A request of function 63. -/
def client : Req := ⟨false, 63⟩

/-! ## Commands that are not well-formed -/

theorem test_wf_access_width : (Instr.registerWrite ⟨0, 2, 0, admin, 0⟩).wf = false := by decide
theorem test_wf_access_alignment : (Instr.registerRead ⟨1, 4, 0, admin, 0⟩).wf = false := by decide
theorem test_wf_unaddressed : (Instr.cpUnaddressedAccess true ⟨0, 3, 0, admin, 0⟩).wf = false := by decide
theorem test_wf_page : (Instr.pageLockWrite ⟨.quad, 4⟩ 0 admin).wf = false := by decide
theorem test_wf_page_single : (Instr.softResetDone ⟨.key, 1⟩).wf = false := by decide
theorem test_wf_page_event : (Instr.pageEventEnWrite ⟨.function, 64⟩ 0 admin).wf = false := by decide
theorem test_wf_rq_poll : (Instr.rqPoll 256).wf = false := by decide
theorem test_wf_rq_fetch : (Instr.descFetchDone 256).wf = false := by decide
theorem test_wf_rq_enable : (Instr.rqEnable 256 0 admin).wf = false := by decide
theorem test_wf_fn_kick : (Instr.fnRqKick 64 0 admin).wf = false := by decide
theorem test_wf_chain : (Instr.chainNextDispatch 64).wf = false := by decide
theorem test_wf_quad_staged : (Instr.frameStaged 4).wf = false := by decide
theorem test_wf_lane : (Instr.gcmSeal 16).wf = false := by decide
theorem test_wf_lane_error_lane : (Instr.laneError 16 0 1 0).wf = false := by decide
theorem test_wf_lane_error_place : (Instr.laneError 0 20 1 0).wf = false := by decide
theorem test_wf_lane_error_cause_low : (Instr.laneError 0 0 0 0).wf = false := by decide
theorem test_wf_lane_error_cause_high : (Instr.laneError 0 0 5 0).wf = false := by decide
theorem test_wf_lane_error_stage : (Instr.laneError 0 0 1 18).wf = false := by decide
theorem test_wf_quad_replay : (Instr.laneReplayStart 4).wf = false := by decide
theorem test_wf_lane_check : (Instr.laneCheckDone 16 true).wf = false := by decide
theorem test_wf_quad_window : (Instr.afailWindowEnd 4).wf = false := by decide
theorem test_wf_handle : (Instr.pageinDone 0x10000000).wf = false := by decide
theorem test_wf_bank : (Instr.missWayAllocate 64).wf = false := by decide
theorem test_wf_writeback : (Instr.ctxWritebackFail 0x10000000).wf = false := by decide
theorem test_wf_node : (Instr.nodeWritebackDone 0x1000000000).wf = false := by decide
theorem test_wf_cache_bank : (Instr.ctxEccCorrected (.way 64 0)).wf = false := by decide
theorem test_wf_cache_way : (Instr.ctxEccCorrected (.way 0 64)).wf = false := by decide
theorem test_wf_cache_level : (Instr.ctxEccUncorrectable (.node 16 0)).wf = false := by decide
theorem test_wf_cache_index : (Instr.ctxEccUncorrectable (.node 0 0x100000000)).wf = false := by decide
theorem test_wf_retire : (Instr.retireHandle 0x10000000 admin).wf = false := by decide
theorem test_wf_epoch_arm : (Instr.epochArm 6).wf = false := by decide
theorem test_wf_epoch_flip : (Instr.epochFlip 5).wf = false := by decide
theorem test_wf_cq : (Instr.entryWriteDone 64).wf = false := by decide
theorem test_wf_entry_fault : (Instr.entryWriteFail ⟨64, true⟩).wf = false := by decide
theorem test_wf_fn_cq : (Instr.fnCqConsWrite 64 0 admin).wf = false := by decide
theorem test_wf_cq_enable : (Instr.cqEnable 64 0 admin).wf = false := by decide
theorem test_wf_vector_timer : (Instr.vectorTimerExpiry 256).wf = false := by decide
theorem test_wf_vector : (Instr.irqFlushVector 256 admin).wf = false := by decide
theorem test_wf_digest_channel : (Instr.digest 256).wf = false := by decide
theorem test_wf_digest_core : (Instr.digestBudgetExpiry 4).wf = false := by decide
theorem test_wf_digest_hold : (Instr.digestHoldTimeout 256).wf = false := by decide
theorem test_wf_dcore_error_core : (Instr.dcoreError 4 1).wf = false := by decide
theorem test_wf_dcore_error_low : (Instr.dcoreError 0 0).wf = false := by decide
theorem test_wf_dcore_error_high : (Instr.dcoreError 0 3).wf = false := by decide
theorem test_wf_dcore_check : (Instr.dcoreCheckDone 4 true).wf = false := by decide
theorem test_wf_digest_state : (Instr.digestStateEcc ⟨256, false⟩).wf = false := by decide
theorem test_wf_slot : (Instr.slotEccError ⟨4096, true⟩).wf = false := by decide
theorem test_wf_bn_channel : (Instr.modexp 64).wf = false := by decide
theorem test_wf_bn_timeout : (Instr.bnRngTimeout 64).wf = false := by decide
theorem test_wf_bn_fail_channel : (Instr.bnCheckFail 64 .ia 1).wf = false := by decide
theorem test_wf_bn_fail_low : (Instr.bnCheckFail 0 .ia 0).wf = false := by decide
theorem test_wf_bn_fail_high : (Instr.bnCheckFail 0 .ia 3).wf = false := by decide
theorem test_wf_bn_key : (Instr.bnKeyEcc ⟨64, false⟩).wf = false := by decide
theorem test_wf_bn_cfg : (Instr.bnChanCfgWrite 64 0 admin).wf = false := by decide
theorem test_wf_batts : (Instr.battBoundary []).wf = false := by decide
theorem test_wf_pounce_bank : (Instr.pounceBankRemask 72).wf = false := by decide
theorem test_wf_dma_channel : (Instr.dmaKick 16 admin).wf = false := by decide
theorem test_wf_enum : (Instr.enum 2).wf = false := by decide
theorem test_wf_renum : (Instr.renum 1).wf = false := by decide
theorem test_wf_time : (Instr.time 1).wf = false := by decide
theorem test_wf_loop : (Instr.loop 1).wf = false := by decide
theorem test_wf_zeroize_all : (Instr.zeroizeAll 1).wf = false := by decide
theorem test_wf_sleep_all : (Instr.sleepAll 1).wf = false := by decide
theorem test_wf_wake : (Instr.wake 1).wf = false := by decide
theorem test_wf_bypass_enter : (Instr.bypassEnter 0x0000A).wf = false := by decide
theorem test_wf_bypass_leave : (Instr.bypassLeave 0x1000A).wf = false := by decide
theorem test_wf_bypass_type : (Instr.bypassLeave 0x00001).wf = false := by decide
theorem test_wf_msg : (Instr.msg 1).wf = false := by decide
theorem test_wf_monitor : (Instr.clockTrip ⟨8, false⟩).wf = false := by decide
theorem test_wf_pll : (Instr.pllLock 6).wf = false := by decide
theorem test_wf_wake_access : (Instr.wakeAccess true ⟨0, 2, 0, admin, 0⟩).wf = false := by decide
theorem test_wf_wake_domain : (Instr.wakeComplete true [112]).wf = false := by decide
theorem test_wf_domain : (Instr.pgoodLost 112).wf = false := by decide
theorem test_wf_park_lane : (Instr.lanePark 16).wf = false := by decide
theorem test_wf_park_quad : (Instr.quadPark 4).wf = false := by decide
theorem test_wf_input : (Instr.qualHoldDone 6).wf = false := by decide
theorem test_wf_function : (Instr.fltFuncForce 64 admin).wf = false := by decide
theorem test_wf_port : (Instr.fabricReadResponse 4 0 0 0 []).wf = false := by decide
theorem test_wf_read_id : (Instr.fabricReadResponse 0 1024 0 0 []).wf = false := by decide
theorem test_wf_read_bytes : (Instr.fabricReadResponse 0 0 0 129 (List.replicate 129 0)).wf = false := by decide
theorem test_wf_read_length : (Instr.fabricReadResponse 0 0 0 1 []).wf = false := by decide
theorem test_wf_write_port : (Instr.fabricWriteResponse 4 0 0).wf = false := by decide
theorem test_wf_write_id : (Instr.fabricWriteResponse 0 512 0).wf = false := by decide
theorem test_wf_timeout_port : (Instr.fabricTimeout 4 true 0).wf = false := by decide
theorem test_wf_timeout_id : (Instr.fabricLateResponse 0 true 512).wf = false := by decide
theorem test_wf_unpark_lane : (Instr.laneUnparkDone 16).wf = false := by decide

/-! ## Witnesses: the control port and the TILE page -/

theorem witness_idle : State.reset.pending = [] ∧ State.reset.tile.st = TileState.powerOff ∧ up.pending = [] ∧
    up.flipComes = false := ⟨rfl, rfl, rfl, by decide +kernel⟩

theorem witness_canonical : State.reset.Canonical ∧ ∃ t, step State.reset = .next t := ⟨⟨rfl, rfl⟩, _, rfl⟩

theorem witness_frame : (∀ b, Instr.schedIssue ≠ .vddAoUp b) ∧ Instr.schedIssue ≠ .vddAoLoss ∧
    (∀ x, Instr.schedIssue ≠ .enum x) ∧ ∀ x, Instr.schedIssue ≠ .renum x :=
  ⟨nofun, nofun, nofun, nofun⟩

theorem witness_reset_page : pageOk (pg .tile) = true ∧ PageKind.fixed (pg .tile).kind = true ∧ pageOk (pg .key) = true ∧
    PageKind.fixed (pg .key).kind = false := by decide

theorem witness_register_write : Reg.TILE_RESET_CAUSE.plain = true ∧ up.OpenReg .TILE_RESET_CAUSE 0 admin ∧
    (Reg.TILE_RESET_CAUSE.desc.off < 0x800 ∨ up.lockOpen (regPage .TILE_RESET_CAUSE 0) = true) :=
  ⟨by decide, openReg_of _ _ _ _ (by decide +kernel), Or.inl (by decide)⟩

theorem witness_unaddressed : up.cpAddressed ⟨0, 4, 0, admin, 0⟩ = false := by decide

theorem witness_header_read : up.Open (pg .key) false admin := open_of _ _ _ _ (by decide +kernel)

theorem witness_scratch_read : up.Open (pg .tile) true admin := open_of _ _ _ _ (by decide +kernel)

theorem witness_locked : up.Open (regPage .TILE_ERR_MODE 0) true admin ∧
    Reg.TILE_ERR_MODE.desc.flds.any (fun f => f.acc == .rwx) = true ∧ up.lockOpen (regPage .TILE_ERR_MODE 0) = false :=
  ⟨open_of _ _ _ _ (by decide +kernel), by decide, by decide⟩

/-- An armed lock. -/
def armed : State := up.updHdr (pg .ctx) (fun h => { h with lock := .armed })

theorem witness_lock : armed.Open (pg .ctx) false admin ∧ (armed.hdr (pg .ctx)).lock = Lock.armed ∧ (5 : W32) ≠ 0xEA01 ∧
    (5 : W32) ≠ 0xEA02 := ⟨open_of _ _ _ _ (by decide +kernel), by decide, by decide, by decide⟩

theorem witness_lock_timeout : pageOk (pg .ctx) = true ∧ (armed.hdr (pg .ctx)).lock = Lock.armed := by decide

theorem witness_block_up : up.Open (pg .qeng) false admin ∧ PageKind.block (pg .qeng).kind = true ∧
    up.tile.st ≠ TileState.alarmed ∧ up.pwr.core = true ∧ (up.hdr (pg .qeng)).st = BlkState.off ∧ up.clkActs (pg .qeng) = true :=
  ⟨open_of _ _ _ _ (by decide +kernel), by decide, by decide, by decide, by decide, by decide +kernel⟩

theorem witness_block_down : (inSt up (pg .qeng) .on true).Open (pg .qeng) false admin ∧
    PageKind.block (pg .qeng).kind = true ∧ ((inSt up (pg .qeng) .on true).hdr (pg .qeng)).st = BlkState.on :=
  ⟨open_of _ _ _ _ (by decide +kernel), by decide, by decide⟩

theorem witness_block_init : pageOk (pg .crown) = true ∧ PageKind.block (pg .crown).kind = true ∧
    (inSt up (pg .crown) .comingUp true).working = true ∧
    ((inSt up (pg .crown) .comingUp true).hdr (pg .crown)).st = BlkState.comingUp ∧
    ((inSt up (pg .crown) .comingUp true).hdr (pg .crown)).en = true ∧
    (inSt up (pg .crown) .comingUp true).initReady (pg .crown) = true ∧ (pg .crown).kind ≠ PageKind.digest := by decide

theorem witness_block_off : pageOk (pg .qeng) = true ∧ PageKind.block (pg .qeng).kind = true ∧
    (inSt up (pg .qeng) .goingDown false).working = true ∧
    ((inSt up (pg .qeng) .goingDown false).hdr (pg .qeng)).st = BlkState.goingDown ∧
    ((inSt up (pg .qeng) .goingDown false).hdr (pg .qeng)).en = false ∧
    (inSt up (pg .qeng) .goingDown false).downReady (pg .qeng) = true := by decide

theorem witness_transition : pageOk (pg .qeng) = true ∧ PageKind.block (pg .qeng).kind = true ∧
    (inSt up (pg .qeng) .goingDown false).working = true ∧
    (((inSt up (pg .qeng) .goingDown false).hdr (pg .qeng)).st = BlkState.comingUp ∨
      ((inSt up (pg .qeng) .goingDown false).hdr (pg .qeng)).st = BlkState.goingDown) := by decide

theorem witness_soft_reset : ∀ p ∈ [pg .key, ⟨.rq, 15⟩, ⟨.cq, 3⟩, ⟨.function, 63⟩], up.Open p false admin ∧
    PageKind.fixed p.kind = false ∧ p.kind ≠ PageKind.result ∧ up.blk p = BlkState.off ∧ (up.hdr p).en = false := by
  intro p hp
  fin_cases hp <;> exact ⟨open_of _ _ _ _ (by decide +kernel), by decide, by decide, by decide, by decide⟩

theorem witness_soft_reset_waiting : let s := (inSt up (pg .ctx) .off true).setReg .CLK_EN 0 0
    s.Open (pg .ctx) false admin ∧ s.blk (pg .ctx) = BlkState.off ∧ (s.hdr (pg .ctx)).en = true ∧ s.clkActs (pg .ctx) = false ∧
    s.tile.st ≠ TileState.alarmed :=
  ⟨open_of _ _ _ _ (by decide +kernel), by decide +kernel, by decide +kernel, by decide +kernel, by decide +kernel⟩

theorem witness_soft_reset_on : (inSt up (pg .ctx) .on true).Open (pg .ctx) false admin ∧
    (inSt up (pg .ctx) .on true).blk (pg .ctx) ≠ BlkState.off ∧ ((inSt up (pg .ctx) .on true).hdr (pg .ctx)).en = true ∧
    (inSt up (pg .ctx) .goingDown false).Open (pg .ctx) false admin ∧
    (inSt up (pg .ctx) .goingDown false).blk (pg .ctx) ≠ BlkState.off ∧ up.Open (pg .tamper) false admin ∧
    PageKind.fixed (pg .tamper).kind = true :=
  ⟨open_of _ _ _ _ (by decide +kernel), by decide, by decide, open_of _ _ _ _ (by decide +kernel), by decide,
    open_of _ _ _ _ (by decide +kernel), by decide⟩

/-- A page in soft reset. -/
def resetting : State := up.updHdr (pg .ctx) (fun h => { h with softReset := true })

theorem witness_soft_reset_done : pageOk (pg .ctx) = true ∧ (resetting.hdr (pg .ctx)).softReset = true ∧
    resetting.cp.stalled = [] := by decide

theorem witness_soft_reset_waiter : let a := resetting.accessTo (pg .ctx) 0x40 4 0 admin
    let s := { resetting with cp := { resetting.cp with stalled := [(true, a)] } }
    pageOk (pg .ctx) = true ∧ (s.hdr (pg .ctx)).softReset = true ∧ s.cp.stalled = [(true, a)] ∧ accPage a = some (pg .ctx) := by
  decide +kernel

theorem witness_soft_reset_reads : let a := resetting.accessTo (pg .ctx) 0x40 4 0 admin
    let b := up.accessTo (pg .qeng) 0x40 4 0 admin
    let s := { resetting with cp := { resetting.cp with stalled := [(false, a), (false, { b with tag := 1 })] } }
    (∀ x ∈ s.cp.stalled, x.1 = false) ∧ accPage a = some (pg .ctx) ∧ accPage { b with tag := 1 } = some (pg .qeng) ∧
    (s.hdr (pg .qeng)).softReset = false ∧ (s.hdr (pg .ctx)).softReset = true := by decide +kernel

theorem witness_soft_reset_stall : resetting.cpAddressed (resetting.accessTo (pg .ctx) 0x40 4 0 admin) = true ∧
    accPage (resetting.accessTo (pg .ctx) 0x40 4 0 admin) = some (pg .ctx) ∧ (resetting.hdr (pg .ctx)).softReset = true ∧
    resetting.keeper = false ∧ resetting.pwr.phase ≠ Phase.committed ∧
    resetting.cp.stalled = [] := by decide +kernel

theorem witness_owner : up.Open ⟨.dmaChannel, 3⟩ false admin ∧ up.blk ⟨.dmaChannel, 3⟩ = BlkState.off :=
  ⟨open_of _ _ _ _ (by decide +kernel), by decide⟩

theorem witness_force : (inSt up (pg .qeng) .on true).Open (pg .qeng) false admin ∧ PageKind.block (pg .qeng).kind = true ∧
    (((inSt up (pg .qeng) .on true).hdr (pg .qeng)).st = BlkState.comingUp ∨
      ((inSt up (pg .qeng) .on true).hdr (pg .qeng)).st = BlkState.on) :=
  ⟨open_of _ _ _ _ (by decide +kernel), by decide, by decide⟩

theorem witness_parity : (0x9040 : BitVec 22).toNat = pageNum (regPage .QENG_CTL 0) * 4096 + regOff .QENG_CTL 0 ∧
    pageOk (regPage .QENG_CTL 0) = true ∧ Reg.QENG_CTL.writes = true ∧ PageKind.fixed (regPage .QENG_CTL 0).kind = false ∧
    Reg.configured .QENG_CTL = true ∧ (inSt up (pg .qeng) .on true).blk (regPage .QENG_CTL 0) = BlkState.on := by decide +kernel

/-- The tile in a state. -/
def at' (s : State) (t : TileState) : State := { s with tile := { s.tile with st := t } }

/-- The tile ready to leave BRING_UP. -/
def rooted : State :=
  { at' up .bringUp with rng := { up.rng with ready := true }, key := { up.key with root := some (List.replicate 32 0, List.replicate 16 0) } }

theorem witness_bring_up_done : rooted.OpenReg .TILE_CMD 0 admin ∧ rooted.tile.st = TileState.bringUp ∧
    rooted.rng.ready = true ∧ rooted.key.root.isSome = true ∧ rooted.flag TILE_SELFTEST_STS.BUSY 0 = false :=
  ⟨openReg_of _ _ _ _ (by decide +kernel), rfl, rfl, rfl, by decide +kernel⟩

theorem witness_enter_test : up.OpenReg .TILE_CMD 0 admin ∧
    (up.tile.st = TileState.bringUp ∨ up.tile.st = TileState.ready) :=
  ⟨openReg_of _ _ _ _ (by decide +kernel), by decide⟩

theorem witness_leave_test : (at' up .test).OpenReg .TILE_CMD 0 admin ∧ (at' up .test).tile.st = TileState.test :=
  ⟨openReg_of _ _ _ _ (by decide +kernel), rfl⟩

theorem witness_tile_cmd_refused : (at' up .run).OpenReg .TILE_CMD 0 admin ∧ (at' up .run).tile.st ≠ .bringUp ∧
    (at' up .run).tile.st ≠ .ready ∧ (at' up .run).tile.st ≠ .test ∧ (at' up .run).tile.st ≠ .fenced ∧
    (at' up .bringUp).OpenReg .TILE_CMD 0 admin ∧ (at' up .bringUp).rng.ready = false ∧
    (at' up .alarmed).OpenReg .TILE_CMD 0 admin ∧ (at' up .alarmed).fenceable = false :=
  ⟨openReg_of _ _ _ _ (by decide +kernel), by decide, by decide, by decide, by decide, openReg_of _ _ _ _ (by decide +kernel),
    rfl, openReg_of _ _ _ _ (by decide +kernel), rfl⟩

theorem witness_fence_tile_again : let s := { up with tile := { up.tile with fencing := some 1 } }
    s.OpenReg .TILE_CMD 0 admin ∧ s.fenceable = true ∧ s.tile.fencing.isSome = true :=
  ⟨openReg_of _ _ _ _ (by decide +kernel), rfl, rfl⟩

theorem witness_fence_tile : up.OpenReg .TILE_CMD 0 admin ∧ up.fenceable = true ∧ up.tile.fencing = none ∧
    up.tamp.responding = false := ⟨openReg_of _ _ _ _ (by decide +kernel), rfl, rfl, rfl⟩

theorem witness_unfence_tile : (at' up .fenced).OpenReg .TILE_CMD 0 admin ∧ (at' up .fenced).tile.st = TileState.fenced :=
  ⟨openReg_of _ _ _ _ (by decide +kernel), rfl⟩

theorem witness_run_idle : (at' up .run).working = true ∧ (at' up .run).tile.st = TileState.run ∧
    (at' up .run).nothingInFlight = true := by decide

/-- The watchdog runs, with ACTION and an expiry behind it. -/
def watched (action : Nat) (expired : Bool) : State :=
  let s := (up.putFlag TILE_WDOG_CTL.EN 0 true).put TILE_WDOG_CTL.ACTION 0 action
  { s with tile := { s.tile with wdogExpired := expired } }

theorem witness_kick : up.OpenReg .TILE_WDOG_KICK 0 admin := openReg_of _ _ _ _ (by decide +kernel)

theorem witness_wdog_first : (watched 1 false).flag TILE_WDOG_CTL.EN 0 = true ∧ (watched 1 false).asleep = false ∧
    (watched 1 false).tile.st ≠ TileState.alarmed ∧ (watched 1 false).tile.wdogExpired = false := by decide +kernel

theorem witness_wdog_second : (watched 1 true).flag TILE_WDOG_CTL.EN 0 = true ∧ (watched 1 true).asleep = false ∧
    (watched 1 true).tile.wdogExpired = true ∧ (watched 1 true).fld TILE_WDOG_CTL.ACTION 0 = 1 ∧
    (watched 1 true).fenceable = true ∧ (watched 1 true).tile.fencing = none ∧ (watched 1 true).tamp.responding = false := by
  decide +kernel

theorem witness_wdog_quiet : (watched 0 true).flag TILE_WDOG_CTL.EN 0 = true ∧ (watched 0 true).asleep = false ∧
    (watched 0 true).tile.st ≠ TileState.alarmed ∧ (watched 0 true).tile.wdogExpired = true ∧
    (watched 0 true).fld TILE_WDOG_CTL.ACTION 0 ≠ 1 := by decide +kernel

theorem witness_wdog_stopped : (at' (watched 1 true) .clocked).tile.wdogExpired = true ∧
    (at' (watched 1 true) .clocked).fenceable = false ∧ up.flag TILE_WDOG_CTL.EN 0 = false := by decide +kernel

/-! ## Witnesses: holes, a short flip, CORE_ON -/

theorem witness_hole : up.Open (pg .hatband) true admin ∧ regAt (pg .hatband) 0xA00 = none ∧ regAt (pg .hatband) 0xA04 = none :=
  ⟨open_of _ _ _ _ (by decide +kernel), by decide +kernel, by decide +kernel⟩

theorem witness_hole_header : up.Open (pg .key) false admin := open_of _ _ _ _ (by decide +kernel)

theorem witness_hole_result : up.Open (pg .result) true admin ∧ regAt (pg .result) 0x7C = none ∧ regAt (pg .result) 0xF80 = none :=
  ⟨open_of _ _ _ _ (by decide +kernel), by decide +kernel, by decide +kernel⟩

/-- A flip to epoch 7 is scheduled and 2 arms are expected. -/
def flipping : State :=
  let s := up.put EPOCH_EXPECT.COUNT 0 2
  { s with epoch := { s.epoch with pend := 7, pending := true, scheduled := true } }

theorem witness_idle_flip : flipping.pending = [] ∧ flipping.flipComes = true := ⟨rfl, by decide +kernel⟩

theorem witness_short_flip : flipping.epoch.scheduled = true ∧
    (flipping.holdover && flipping.flag EPOCH_CTL.HOLD_POLICY 0) = false ∧ flipping.fld EPOCH_EXPECT.COUNT 0 ≠ 0 ∧
    flipping.fld EPOCH_ARMED.COUNT 0 < flipping.fld EPOCH_EXPECT.COUNT 0 := by decide +kernel

theorem witness_epoch_ctl_arm :
    let s : State := { up with epoch := { up.epoch with stored := 5 } }
    s.OpenReg .EPOCH_CTL 0 admin ∧ s.epoch.scheduled = false ∧ s.fld EPOCH_CUR.EPOCH 0 < s.epoch.stored ∧
      (s.epoch.stored ≠ s.epoch.pend ∨ s.epoch.pending = false) :=
  ⟨openReg_of _ _ _ _ (by decide +kernel), by decide +kernel, by decide +kernel, by decide +kernel⟩

theorem witness_core_on : (at' up .clocked).OpenReg .PWR_CMD 0 admin ∧ (at' up .clocked).tile.st = TileState.clocked ∧
    (at' up .clocked).clk.safe = false := ⟨openReg_of _ _ _ _ (by decide +kernel), rfl, by decide +kernel⟩

/-! ## Witnesses: request queues -/

/-- The queue engine and the crown are ON. -/
def engine : State := inSt (inSt up (pg .qeng) .on true) (pg .crown) .on true

/-- Queue 255 in a state. -/
def queue (st : RqState) : State := engine.setRq 255 { st := st }

theorem witness_rq_poll : (queue .active).working = true ∧ ((queue .active).rq 255).st = RqState.active ∧
    (queue .active).isOn (pg .qeng) = true ∧ (queue .active).qStopped = false ∧ ((queue .active).rq 255).fetching = false ∧
    min (queue .active).fetchGroup (min ((queue .active).prefDepth 255 - (queue .active).prefetched 255)
      (2 ^ (queue .active).rqLog 255 - (queue .active).fld RQ_HEAD.INDEX 255)) ≠ 0 := by decide +kernel

theorem witness_rq_doze_poll : let s := (queue .dozing).put RQ_XDOZE.INT 255 3
    s.working = true ∧ (s.rq 255).st = RqState.dozing ∧ s.fld RQ_XDOZE.INT 255 ≠ 0 ∧ s.isOn (pg .qeng) = true ∧
    s.qStopped = false ∧ (s.rq 255).fetching = false ∧
    min s.fetchGroup (min (s.prefDepth 255 - s.prefetched 255) (2 ^ s.rqLog 255 - s.fld RQ_HEAD.INDEX 255)) ≠ 0 := by
  decide +kernel

theorem witness_rq_doze_quiet : ((queue .dozing).put RQ_XDOZE.INT 255 0).fld RQ_XDOZE.INT 255 = 0 ∧
    (((queue .dozing).put RQ_XDOZE.INT 255 0).rq 255).st = RqState.dozing := by decide +kernel

theorem witness_rq_full : ((queue .active).updRq 255 (fun x => { x with fetching := true })).rq 255 =
    { st := .active, fetching := true } := by decide +kernel

theorem witness_rq_kick : (queue .dozing).OpenReg .RQ_KICK 255 admin ∧ ((queue .dozing).rq 255).st.accepts = true ∧
    (queue .draining).OpenReg .RQ_KICK 255 admin ∧ ((queue .draining).rq 255).st.accepts = false :=
  ⟨openReg_of _ _ _ _ (by decide +kernel), by decide, openReg_of _ _ _ _ (by decide +kernel), by decide⟩

theorem witness_fn_rq_kick : let s := (queue .dozing).put RQ_CFG.FUNC 255 63
    s.Reach .FN_RQ_KICK 63 client ∧ s.Reach .FN_RQ_KICK 63 admin ∧ s.ownsRq 63 255 = true ∧ (s.rq 255).st.accepts = true ∧
    fget ((0xFF : W32).setWidth 64) 7 0 = 255 ∧ s.ownsRq 63 0 = false :=
  ⟨reach_of _ _ _ _ (by decide +kernel), reach_of _ _ _ _ (by decide +kernel), by decide +kernel, by decide +kernel, by decide,
    by decide +kernel⟩

/-! ## Witnesses: accepting and issuing -/

/-- 64 bytes of a ring: one descriptor with its first and its last word. -/
def ringBytes (w0 w7 : Nat) : Bytes := leBytes w0 8 ++ List.replicate 48 0 ++ leBytes w7 8

/-- Queue 255, whose ring ends at index 63, at the last index of lap 0xFFFF; a read of it has returned. -/
def fetched (b : Bytes) (bad : Option FabFail) : State :=
  let s := (((queue .active).put RQ_CFG.SIZE_LOG2 255 6).put RQ_HEAD.INDEX 255 63).put RQ_HEAD.LAP 255 0xFFFF
  { s with fab := { s.fab with mail := [{ id := 0, kind := .desc 255 63, left := 0, got := [(0, b)], failed := bad }] } }

theorem witness_fetch_accepted : let b := ringBytes (2 ^ 63 + 0xF * 2 ^ 59) (0xF * 2 ^ 60)
    let s := fetched b none
    s.working = true ∧ (s.fab.mail.all (fun x => x.bytes.length == 64 && x.failed.isNone && !x.retried)) = true ∧
    (s.rq 255).st.accepts = true ∧ s.qStopped = false ∧ s.fld RQ_HEAD.INDEX 255 = 63 ∧ 63 + 1 = 2 ^ s.rqLog 255 ∧
    (s.rq 255).ahead = [] ∧ (s.rq 255).tornRuns = [] ∧ (Desc.ofBytes b).ownedFor (s.fld RQ_HEAD.LAP 255) = true := by
  decide +kernel

theorem witness_fetch_not_owned : let b := ringBytes 0 0
    let s := (fetched b none).put RQ_POLL.MAX_INT 255 65535
    s.working = true ∧ (s.rq 255).st.accepts = true ∧ s.qStopped = false ∧ (s.rq 255).ahead = [] ∧
    (s.rq 255).tornRuns = [] ∧ (Desc.ofBytes b).own = false ∧ b.length = 64 ∧
    max (s.rq 255).interval (s.minInt 255) < s.maxInt 255 := by decide +kernel

theorem witness_fetch_failed : let s := fetched [] (some .err)
    s.working = true ∧ (s.rq 255).st.accepts = true ∧ s.fab.mail.length = 1 := by decide +kernel

theorem witness_fetch_draining : let b := ringBytes (2 ^ 63 + 0xF * 2 ^ 59) (0xF * 2 ^ 60)
    let s := (fetched b none).updRq 255 (fun x => { x with st := .draining })
    s.working = true ∧ s.fab.mail.length = 1 ∧ b.length = 64 ∧ (s.rq 255).st = RqState.draining ∧ s.qStopped = false ∧
    (s.rq 255).tornRuns = [] ∧ (Desc.ofBytes b).ownedFor (s.fld RQ_HEAD.LAP 255) = true ∧
    (((fetched [] (some .err)).updRq 255 (fun x => { x with st := .draining })).rq 255).st = RqState.draining := by decide +kernel

/-- Queue 255 with one accepted element and its completion queue ON. -/
def accepted (w0 : Nat) (credit : Int) : State :=
  (engine.setCq 0 { st := .on }).setRq 255
    { st := .active, credit := credit, acc := [{ idx := 3, lap := 2, d := { w0 := BitVec.ofNat 64 w0 } }] }

theorem witness_issue : let s := accepted (0x60 * 2 ^ 48) 1
    s.working = true ∧ s.dispatching = true ∧ s.isOn (pg .qeng) = true ∧ s.flag QENG_CTL.PAUSE 0 = false ∧
    s.qStopped = false ∧ s.qeng.issuing = [] ∧ s.markCbuf = s ∧ s.readyRqs = [255] ∧
    (s.rq 255).acc.all (fun a => !a.d.chain && !a.d.secretHandoff && issueReason a.d (s.fld RQ_CFG.QUAD_MASK 255) == none) ∧
    0 < (s.rq 255).credit ∧ s.issuable 255 = true := by decide +kernel

theorem witness_issue_bad_opcode : let s := accepted (0xFF * 2 ^ 48) 1
    s.markCbuf = s ∧ s.readyRqs = [255] ∧
    (s.rq 255).acc.all (fun a => !a.d.chain && issueReason a.d (s.fld RQ_CFG.QUAD_MASK 255) == some 0x10) ∧
    0 < (s.rq 255).credit ∧ s.issuable 255 = true := by decide +kernel

theorem witness_issue_chain : let e : Elem := { rq := 255, idx := 5, chain := some 63, pos := 1 }
    let s := { engine with qeng := { engine.qeng with issuing := [(e, none)], chains := [{ id := 63, rest := [] }] } }
    s.dispatching = true ∧ s.isOn (pg .qeng) = true ∧ s.flag QENG_CTL.PAUSE 0 = false ∧ s.qStopped = false ∧ s.readyRqs = [] ∧
    s.chain? 63 = some { id := 63, rest := [] } := by decide +kernel

theorem witness_issue_paused : ((accepted 0 1).putFlag QENG_CTL.PAUSE 0 true).flag QENG_CTL.PAUSE 0 = true ∧
    (accepted 0 1).qeng.issuing = [] := by decide +kernel

/-! ## Witnesses: dispatch and the queues' enables -/

/-- One issued element of queue 255 with an opcode. -/
def issued (op : Nat) : State :=
  { engine with qeng := { engine.qeng with issued := [{ rq := 255, idx := 3, d := { w0 := BitVec.ofNat 64 (op * 2 ^ 48) } }] } }

theorem witness_marker : (issued 0x60).working = true ∧ (issued 0x60).dispatching = true ∧
    ((issued 0x60).issuedAt 0).any (fun e => e.d.opcode == 0x60) := by decide +kernel

theorem witness_dispatch_random : ((issued 0x50).issuedAt 0).any (fun e => e.d.opcode == 0x50) = true ∧
    (issued 0x50).stalling 23 = false := by decide +kernel

theorem witness_dispatch_fenced : let s := inSt (issued 0x22) (pg .digest) .fenced true
    s.working = true ∧ s.dispatching = true ∧ (s.issuedAt 0).any (fun e => e.d.opcode == 0x22) = true ∧
    s.blk (pg .digest) = BlkState.fenced ∧ (issued 0x22).blk (pg .digest) = BlkState.off := by decide +kernel

/-- Chain 63 with one frame element left. -/
def chained (ready : Bool) : State :=
  { engine with qeng := { engine.qeng with
      chains := [{ id := 63, rest := [{ d := { w0 := BitVec.ofNat 64 (0x10 * 2 ^ 48) } }], ready := ready }] } }

theorem witness_chain_next : (chained true).working = true ∧ (chained true).dispatching = true ∧
    ((chained true).chain? 63).any (fun c => c.ready && c.rest.all (fun e => e.d.isFrame) && c.rest.length == 1) ∧
    ((chained false).chain? 63).any (fun c => !c.ready) := by decide +kernel

theorem witness_chain_marker : let ch : Chain := { id := 63, rest := [{ d := { w0 := BitVec.ofNat 64 (0x60 * 2 ^ 48) } }], ready := true }
    let s := { engine with qeng := { engine.qeng with chains := [ch] } }
    s.working = true ∧ s.dispatching = true ∧ s.chain? 63 = some ch ∧ ch.rest.all (fun e => e.d.opcode == 0x60) = true := by
  decide +kernel

theorem witness_rq_enable : let s := engine.setCq 31 { st := .on }
    s.OpenReg .RQ_CFG 255 admin ∧ (s.rq 255).st = RqState.disabled ∧ fget ((0x1F00 : W32).setWidth 64) 21 16 = 0 ∧
    fget ((0x1F00 : W32).setWidth 64) 13 8 = 31 ∧ (s.cq 31).st = CqState.on ∧ s.fld CQ_CFG.FUNC 31 = 0 ∧
    bitAt (s.fld FLT_FUNC.MAP (0 / 32)) (0 % 32) = false :=
  ⟨openReg_of _ _ _ _ (by decide +kernel), by decide +kernel, by decide, by decide, by decide +kernel, by decide +kernel,
    by decide +kernel⟩

theorem witness_rq_enable_read : let s := engine
    s.isOn (pg .qeng) = true ∧ s.qStopped = false ∧ s.qeng.issuing = [] ∧ s.qeng.issued = [] ∧ s.qeng.chains = [] ∧
    s.fld RQ_HEAD.INDEX 255 = 0 := by decide +kernel

theorem witness_rq_enable_refused : engine.OpenReg .RQ_CFG 255 admin ∧ (engine.rq 255).st = RqState.disabled ∧
    (engine.cq (fget ((0 : W32).setWidth 64) 13 8)).st ≠ CqState.on ∧ (queue .fenced).OpenReg .RQ_CFG 255 admin ∧
    ((queue .fenced).rq 255).st = RqState.fenced :=
  ⟨openReg_of _ _ _ _ (by decide +kernel), by decide +kernel, by decide +kernel, openReg_of _ _ _ _ (by decide +kernel),
    by decide +kernel⟩

theorem witness_rq_enable_again : (queue .active).OpenReg .RQ_CFG 255 admin ∧ ((queue .active).rq 255).st.accepts = true ∧
    ((((queue .active).reg .RQ_CFG 255).setWidth 32).setWidth 64 ^^^ (queue .active).reg .RQ_CFG 255) &&& 0x1F3F3F0F = 0 ∧
    ((0x1F3F3F00 : W32).setWidth 64 ^^^ (queue .active).reg .RQ_CFG 255) &&& 0x1F3F3F0F ≠ 0 :=
  ⟨openReg_of _ _ _ _ (by decide +kernel), by decide, by decide +kernel, by decide +kernel⟩

theorem witness_rq_disable : ∀ x ∈ [RqState.held, .draining, .fenced, .disabled], (queue x).OpenReg .RQ_CFG 255 admin ∧
    ((queue x).rq 255).st = x ∧ (x = .held → x.accepts = true) := by
  intro x hx
  fin_cases hx <;> exact ⟨openReg_of _ _ _ _ (by decide +kernel), by decide +kernel, by decide⟩

theorem witness_qeng_pause : engine.OpenReg .QENG_CTL 0 admin := openReg_of _ _ _ _ (by decide +kernel)

/-! ## Witnesses: frames -/

/-- Some pages' blocks are ON. -/
def ons (s : State) (l : List PageRef) : State := l.foldl (fun s p => inSt s p .on true) s

/-- A LIVE context of handle 0 for AES-128-GCM. -/
def rawCtx : Ctx := { suite := 0x10, st := .live, a := { st := .active, pn := 7, thresh := 2 ^ 40 } }

/-- The engines, quad 3 with its lane 12, key custody and the context store are ON; the context of handle 0 is in way 0. -/
def store : State :=
  let s := (ons up [pg .qeng, pg .crown, pg .ctx, pg .key, ⟨.quad, 3⟩, ⟨.lane, 12⟩]).put RQ_CFG.QUAD_MASK 255 0xF
  let s := s.setBank 0 { held := true }
  { s with
    clk := { s.clk with lock := 0x3F }
    key := { s.key with wrap := some 0, tree := some 0 }
    ctx := { s.ctx with store := .ready, ways := [(0, { st := .live, ctx := rawCtx })] } }

/-- An element of queue 255 with an opcode and a length of its source, for handle 0. -/
def elem (op len : Nat) : Elem :=
  { rq := 255, idx := 3, d := { w0 := BitVec.ofNat 64 (op * 2 ^ 48), w3 := BitVec.ofNat 64 (len * 2 ^ 44 + 64 * 2 ^ 24) } }

/-- One issued element. -/
def sent (s : State) (e : Elem) : State := { s with qeng := { s.qeng with issued := [e] } }

theorem witness_frame_dispatch : let s := sent store (elem 0x14 32)
    s.working = true ∧ s.dispatching = true ∧ s.frameAt 0 = some (elem 0x14 32) ∧ 3 ∈ s.maskQuads 255 ∧
    s.blk (quadPg 3) = BlkState.on ∧ s.isOn (pg .ctx) = true ∧ s.stalling 22 = false ∧
    (s.lookup ((elem 0x14 32).stamp 2 s.now) false).1 = .found 0 ∧ s.masks 0 = true ∧
    admission ((s.lookup ((elem 0x14 32).stamp 2 s.now) false).2.clearCtx 0) (elem 0x14 32).d = .run false 7 ∧
    needLen ((s.lookup ((elem 0x14 32).stamp 2 s.now) false).2.clearCtx 0) (elem 0x14 32).d = 48 ∧
    s.pickQuad 255 80 = some 3 := by decide +kernel

theorem witness_frame_refused : let s := sent { store with ctx := { store.ctx with allFenced := true } } (elem 0x14 32)
    s.frameAt 0 = some (elem 0x14 32) ∧ (s.lookup ((elem 0x14 32).stamp 2 s.now) false).1 = .refused stFenced := by
  decide +kernel

theorem witness_frame_no_quad : let s := inSt (sent store (elem 0x14 32)) ⟨.quad, 3⟩ .fenced true
    s.frameAt 0 = some (elem 0x14 32) ∧
    (s.maskQuads 255).all (fun p => s.blk (quadPg p) == .off || s.blk (quadPg p) == .fenced) = true := by decide +kernel

/-- A frame in quad 3 with its 16 source bytes. -/
def aFrame (op : Nat) (st : FrameSt) : Frame :=
  { id := 4, elem := elem op 16, quad := 3, st := st, lane := 12, src := [(0, zeros 16)], complete := true }

/-- The frame stands in quad 3, and in a lane. -/
def framed (f : Frame) (l : Lane) : State :=
  { store with frames := { store.frames with list := [f], lanes := [(12, l)] } }

theorem witness_frame_staged : let s := framed (aFrame 0x14 .reading) {}
    s.working = true ∧ s.frames.list.find? (fun f => f.quad == 3 && f.st == .reading && f.startable && s.keyReady f) =
      some (aFrame 0x14 .reading) ∧ s.pickLane 3 = some 12 ∧ s.quadClock 3 = true ∧ s.tile.st ≠ TileState.test ∧
    (s.findWay (aFrame 0x14 .reading).elem.d.object).isSome = true := by
  decide +kernel

theorem witness_lane_run : ∀ op ∈ [0x10, 0x11, 0x12, 0x13, 0x14, 0x15, 0x16, 0x17],
    let s := framed (aFrame op .inLane) { frames := [4] }
    s.working = true ∧ (s.lane 12).frames = [4] ∧ s.frame? 4 = some (aFrame op .inLane) ∧ (aFrame op .inLane).elem.d.opcode = op ∧
    s.quadClock 3 = true ∧ (aFrame op .inLane).failed = false ∧ (aFrame op .inLane).complete = true ∧
    (aFrame op .inLane).committed = none ∧ s.findWay (aFrame op .inLane).elem.d.object = some 0 ∧
    (s.way 0).st ≠ WaySt.filling := by decide +kernel

theorem witness_frame_wayless : let s := framed (aFrame 0x14 .reading) {}
    let s := { s with ctx := { s.ctx with ways := [] } }
    s.working = true ∧ s.frames.list.find? (fun f => f.quad == 3 && f.st == .reading && f.startable && s.keyReady f) =
      some (aFrame 0x14 .reading) ∧ s.findWay (aFrame 0x14 .reading).elem.d.object = none := by decide +kernel

/-- A transfer that has ended. -/
def ended (s : State) (k : XKind) (bad : Option FabFail) : State :=
  { s with fab := { s.fab with mail := [{ id := 0, kind := k, left := 0, failed := bad }] } }

theorem witness_frame_done : let s := ended (framed (aFrame 0x14 .pushed) {}) (.frameDst 4) none
    s.working = true ∧ s.frame? 4 = some (aFrame 0x14 .pushed) := by decide +kernel

theorem witness_afail_window : store.working = true := by decide +kernel

theorem witness_staging_ecc : let s := framed (aFrame 0x14 .inLane) { frames := [4] }
    s.working = true ∧ s.frame? 4 = some (aFrame 0x14 .inLane) ∧ (aFrame 0x14 .inLane).reread = false ∧
    (aFrame 0x14 .inLane).replayOf = none := by decide +kernel

theorem witness_lane_error :
    let s := inSt ((framed (aFrame 0x14 .inLane) { frames := [4] }).put QUAD_LANE_EN.LANES 3 0xF) (lanePg 15) .on true
    s.working = true ∧ (s.lane 12).frames[0]? = some 4 ∧ s.frame? 4 = some (aFrame 0x14 .inLane) ∧ s.isOn (lanePg 12) = true ∧
    (aFrame 0x14 .inLane).lane = 12 ∧ (aFrame 0x14 .inLane).replayOf = none ∧ (quadLanes 3).any (fun m => m != 12 && s.laneFit m) = true := by decide +kernel

theorem witness_replay_fails : let f : Frame := { aFrame 0x14 .inLane with replayOf := some 15 }
    let s := (framed f { frames := [4] }).updLane 15 (fun x => { x with erring := true })
    s.working = true ∧ (s.lane 12).frames[0]? = some 4 ∧ s.frame? 4 = some f ∧ (s.lane 15).erring = true ∧
    s.isOn (lanePg 12) = true ∧ f.lane = 12 ∧ f.quad = 3 ∧ f.st = FrameSt.inLane ∧ s.isOn (quadPg 3) = true ∧
    s.frames.list = [f] := by decide +kernel

theorem witness_replay_start : let f : Frame := { aFrame 0x14 .replay with replayOf := some 15, replayTo := [12] }
    let s := framed f {}
    s.working = true ∧ s.frames.list.find? (fun f => f.quad == 3 && f.st == .replay && s.keyReady f &&
      (quadLanes 3).any (fun n => s.replayFit f n)) = some f ∧ s.quadClock 3 = true ∧
    s.pickOf 3 (fun n => s.replayFit f n) = some 12 ∧ s.findWay f.elem.d.object ≠ none := by decide +kernel

theorem witness_replay_wayless : let f : Frame := { aFrame 0x14 .replay with replayOf := some 15, replayTo := [12] }
    let s := framed f {}
    let s := { s with ctx := { s.ctx with ways := [] } }
    s.working = true ∧ s.frames.list.find? (fun f => f.quad == 3 && f.st == .replay && s.keyReady f &&
      (quadLanes 3).any (fun n => s.replayFit f n)) = some f ∧ s.quadClock 3 = true ∧ s.findWay f.elem.d.object = none ∧
    f.lane = 12 := by decide +kernel

theorem witness_lane_check : let s := store.updLane 12 (fun x => { x with check := .running })
    s.working = true ∧ (s.lane 12).check ≠ CheckSt.idle ∧ (s.lane 12).frames = [] ∧ s.isOn (lanePg 12) = true ∧
    (s.lane 12).erring = false := by decide +kernel

theorem witness_lane_check_run : store.OpenReg .LANE_CHECK 12 admin := openReg_of _ _ _ _ (by decide +kernel)

theorem witness_lane_period : let s := store.put LANE_XCHECK.PERIOD 12 1
    s.isOn (lanePg 12) = true ∧ (s.lane 12).check = CheckSt.idle ∧ s.fld LANE_XCHECK.PERIOD 12 ≠ 0 := by decide +kernel

/-- A page's expert lock is open. -/
def unlocked (s : State) (p : PageRef) : State := s.updHdr p (fun h => { h with lock := .opened })

theorem witness_lane_inject : (unlocked store ⟨.lane, 15⟩).OpenReg .LANE_XINJECT 15 admin :=
  openReg_of _ _ _ _ (by decide +kernel)

/-! ## Witnesses: page-ins -/

theorem leBytes_length (n k : Nat) : (leBytes n k).length = k := by
  induction k generalizing n with
  | zero => rfl
  | succ k ih => simp [leBytes, ih]

theorem xorBytes_length (a b : Bytes) : (xorBytes a b).length = a.length := by
  induction a generalizing b with
  | nil => rfl
  | cons x a ih => cases b <;> simp [xorBytes, ih]

theorem gcmTag_length (key iv aad c : Bytes) : (gcmTag key iv aad c).length = 16 := by
  simp [gcmTag, xorBytes_length, beBytes, leBytes_length]

theorem slice_right (a b : Bytes) (m n : Nat) (ha : a.length = m) (hb : b.length = n) : slice (a ++ b) m n = b := by
  subst ha hb
  simp [slice]

/-- The sealed bytes 8 to 495 of a record of handle 0 at version 5 under the key of zeros: its first two blocks are those of a LIVE
context of AES-128-GCM, and what the others hold does not matter. -/
def aBody : Bytes :=
  [225, 196, 31, 251, 189, 102, 198, 35, 174, 117, 64, 151, 127, 30, 168, 163,
   104, 103, 54, 6, 169, 76, 141, 16, 74, 160, 168, 58, 8, 198, 246, 85] ++ zeros 456

/-- The record. -/
def aRecord : Bytes := (leBytes 5 8 ++ aBody) ++ gcmTag (zeros 32) (sealIv 0 5) (leBytes 5 8) aBody

theorem aRecord_opens : openRecord (zeros 32) 0 aRecord = some (leBytes 5 8 ++ gcmCrypt (zeros 32) (sealIv 0 5) aBody) := by
  have h0 : slice aRecord 0 8 = leBytes 5 8 := by decide +kernel
  have h1 : numAt aRecord 0 7 = 5 := by decide +kernel
  have h2 : slice aRecord 8 488 = aBody := by decide +kernel
  have h3 : slice aRecord 496 16 = gcmTag (zeros 32) (sealIv 0 5) (leBytes 5 8) aBody :=
    slice_right _ _ _ _ (by decide +kernel) (gcmTag_length _ _ _ _)
  rw [openRecord, h0, h1, h2, h3, gcmOpen, if_pos rfl]
  rfl

/-- A page-in of handle 0 whose reads are in, with the whole path of the tree cached and a leaf counter. -/
def paging (m : Miss) (leaf : Nat) : State :=
  { store with
    key := { store.key with wrap := some 0, tree := some 0 }
    ctx := { store.ctx with
      misses := [m], ways := [(0, { st := .filling })]
      nodes := (List.range' 1 store.levels).map (fun j => (nodeKey j 0, { c := [leaf, 0, 0, 0, 0, 0, 0, 0] })) } }

/-- One frame waits for handle 0. -/
def paged (r : Option Bytes) : Miss := { handle := 0, waiting := [elem 0x14 16], record := r }

theorem witness_record : ∃ b, openRecord (zeros 32) 0 aRecord = some b ∧ (Ctx.ofBytes b).version = 5 ∧
    (Ctx.ofBytes b).handle = 0 ∧ (Ctx.ofBytes b).st = CtxState.live :=
  ⟨_, aRecord_opens, by decide +kernel, by decide +kernel, by decide +kernel⟩

theorem witness_pagein_miss (leaf : Nat) :
    (paging (paged (some aRecord)) leaf).miss? 0 = some (paged (some aRecord)) := rfl

theorem witness_pagein : ∀ leaf ∈ [0, 5], let m := paged (some aRecord)
    let s := paging m leaf
    s.working = true ∧ s.wrapKey = some (zeros 32) ∧ s.treeKey = some (zeros 32) ∧
    (s.verifyNodes (zeros 32) m (List.range' 1 s.levels).reverse).1 = .good ∧
    ((s.verifyNodes (zeros 32) m (List.range' 1 s.levels).reverse).2.node 1 0).c.getD 0 0 = leaf ∧
    s.masks 0 = true ∧ s.findWay 0 = some 0 ∧ (∀ e ∈ m.waiting, e.d.isFrame = true) := by decide +kernel

theorem witness_pagein_fail : ∀ f ∈ [none, some PageFail.record, some .rollback],
    let m : Miss := { paged none with readFail := if f = none then some (1, .err) else none, verdict := f.map some }
    let s := paging m 5
    s.working = true ∧ s.miss? 0 = some m ∧ s.findWay 0 = some 0 ∧ m.low = 1 ∧ m.reads = 0 ∧ s.badStatus 0 = none ∧
    s.flag CTX_BAD.VALID 3 = false := by decide +kernel

theorem witness_miss_way : let m : Miss := { paged none with wayWait := true }
    let s := paging m 5
    s.working = true ∧ s.ctx.misses = [m] ∧ m.handle % 64 = 0 ∧ s.freeWay 0 = some 1 := by decide +kernel

theorem witness_no_way : let m : Miss := { paged none with wayWait := true }
    let s := { paging m 5 with ctx := { (paging m 5).ctx with ways := (List.range 64).map (fun w => (w, { st := .live })) } }
    s.ctx.misses = [m] ∧ s.freeWay 0 = none := by decide +kernel

/-! ## Witnesses: the context store's caches -/

/-- The store with one way in a shape. -/
def wayed (w : Way) : State := store.setWay 0 w

theorem witness_sweep : let s := wayed { st := .live, age := 1, ctx := rawCtx }
    s.working = true ∧ s.isOn (pg .ctx) = true ∧ s.fld CTX_SWEEP.INT 0 ≠ 0 ∧ s.asleep = false ∧
    s.ctx.store ≠ StoreSt.flushing ∧ Tbl.wf (fun _ => ({} : Way)) s.ctx.ways = true ∧ (s.way 0).st = WaySt.live ∧
    (s.way 0).retiring = false ∧ (s.way 0).hit = false ∧ max 1 (s.fld CTX_XSWEEP.AGE 0) ≤ min 3 ((s.way 0).age + 1) ∧
    (s.way 0).pins = 0 ∧ (s.way 0).wbVersion = 0 ∧ (s.way 0).dirty = false := by decide +kernel

theorem witness_sweep_hit : (wayed { st := .live, hit := true, ctx := rawCtx }).isOn (pg .ctx) = true ∧
    ((wayed { st := .live, hit := true, ctx := rawCtx }).way 0).hit = true := by decide +kernel

theorem witness_sweep_young : let s := wayed { st := .live, ctx := rawCtx }
    (s.way 0).hit = false ∧ min 3 ((s.way 0).age + 1) < max 1 (s.fld CTX_XSWEEP.AGE 0) := by decide +kernel

/-- The leaf of handle 0 is cached. -/
def leafed (s : State) : State := s.setNode 1 0 { c := [4, 0, 0, 0, 0, 0, 0, 9] }

/-- A write-back of the way has ended. -/
def written (w : Way) (bad : Option FabFail) : State := ended (leafed (wayed w)) (.ctxWriteback 0) bad

theorem witness_writeback : let s := written { st := .writing, wbVersion := 5, dirty := true, ctx := rawCtx } none
    s.working = true ∧ s.findWay 0 = some 0 ∧ (s.way 0).st = WaySt.writing ∧ (s.way 0).wbVersion ≠ 0 ∧
    (s.way 0).retiring = false ∧ (s.way 0).flushing = false ∧ (s.node 1 (0 / 8)).c ≠ [] := by decide +kernel

/-- A CTX_RETIRE that waits for its write. -/
def retiring : State :=
  let s := written { st := .writing, wbVersion := 5, retiring := true } none
  { s with ctx := { s.ctx with jobs := [{ id := 1, elem := elem 0x42 0, phase := 2 }] } }

theorem witness_retire_written : retiring.working = true ∧ retiring.findWay 0 = some 0 ∧ (retiring.way 0).wbVersion ≠ 0 ∧
    (retiring.way 0).retiring = true ∧ (retiring.way 0).dirty = false ∧ (retiring.way 0).ctx.st = CtxState.empty ∧
    retiring.retiringHandle 0 = false ∧
    retiring.ctx.jobs.all (fun j => j.elem.d.opcode == 0x42 && j.elem.d.object == 0 && j.phase == 2) = true ∧
    retiring.ctx.jobs.length = 1 := by decide +kernel

theorem witness_retire_after_write : let s := written { st := .live, wbVersion := 5, retiring := true, pins := 1, ctx := rawCtx } none
    s.working = true ∧ s.findWay 0 = some 0 ∧ (s.way 0).wbVersion ≠ 0 ∧ (s.way 0).retiring = true ∧
    (s.way 0).ctx.st ≠ CtxState.empty ∧ s.ctx.store ≠ StoreSt.flushing := by decide +kernel

theorem witness_writeback_fail : let s := written { st := .writing, wbVersion := 5, ctx := rawCtx } (some .err)
    s.working = true ∧ s.findWay 0 = some 0 ∧ (s.way 0).retiring = false := by decide +kernel

theorem witness_node_write : let s := (ended store (.nodeWriteback 1 7) none).setNode 1 7 { c := [1], writing := some 3 }
    s.working = true ∧ (s.node 1 7).writing = some 3 ∧ 1 ≠ s.levels ∧ s.ctx.store ≠ StoreSt.flushing ∧
    (s.setNode 2 0 { c := List.replicate 8 1 }).cached 2 (7 / 8) = true ∧
    ((ended store (.nodeWriteback 1 7) (some .err)).working = true) := by decide +kernel

theorem witness_root_write : let s := (ended store (.nodeWriteback 3 7) none).setNode 3 7 { c := [1], writing := some 3 }
    (s.node 3 7).writing = some 3 ∧ 3 = s.levels := by decide +kernel

theorem witness_ecc_way : let s := wayed { st := .live, dirty := true, ctx := rawCtx }
    s.working = true ∧ (s.way (64 * 0 + 0)).st ≠ WaySt.free ∧ (s.way (64 * 0 + 0)).st ≠ WaySt.filling ∧
    (s.way (64 * 0 + 0)).dirty = true := by decide +kernel

theorem witness_ecc_way_clean : (store.way (64 * 0 + 0)).st = WaySt.live ∧ (store.way (64 * 0 + 0)).dirty = false ∧
    (store.way (64 * 0 + 0)).wbVersion = 0 ∧ (store.way (64 * 0 + 0)).pins = 0 := by decide +kernel

theorem witness_ecc_node : let s := store.setNode 2 5 { c := [1], dirty := true }
    s.working = true ∧ s.cached 2 5 = true ∧ (s.node 2 5).dirty = true ∧ s.flag CTX_BAD.VALID 15 = false := by decide +kernel

/-- The bad table is full. -/
def badFull : State := (List.range 16).foldl (fun s i => s.putFlag CTX_BAD.VALID i true) (store.setNode 2 5 { c := [1], dirty := true })

theorem witness_ecc_node_full : badFull.working = true ∧ badFull.cached 2 5 = true ∧ (badFull.node 2 5).dirty = true ∧
    (∀ e, e < 16 → badFull.flag CTX_BAD.VALID e = true) ∧ badFull.isOn (pg .ctx) = true := by decide +kernel

/-! ## Witnesses: the context commands -/

/-- A job of chain 63, whose chain-buffer entry holds 44 bytes, at the head of key custody. -/
def importing (s : State) (op aux0 aux1 : Nat) : State :=
  let e : Elem := { rq := 255, chain := some 63,
                    d := { w0 := BitVec.ofNat 64 (op * 2 ^ 48), w4 := BitVec.ofNat 64 aux0, w5 := BitVec.ofNat 64 aux1 } }
  { s with
    qeng := { s.qeng with chains := [{ id := 63, rest := [], cbuf := some 0 }], cbuf := [(0, { taken := true, secret := zeros 44 })] }
    key := { s.key with jobs := [{ id := 1, elem := e, phase := 1 }] } }

theorem noInjection_of (s : State) (h : s.tile.st ≠ .test) : s.NoInjection := fun e => absurd e h

/-- The way that an install has reserved. -/
def reserved : State := wayed { st := .filling }

theorem witness_install : let s := importing reserved 0x40 0 0x1000
    s.working = true ∧ s.kdfSync = s ∧ s.keyHead.isSome = true ∧ s.keyHead.all (fun j => j.elem.d.opcode == 0x40 && j.ready &&
      s.masks (j.elem.d.object % 64) && j.phase != 0 && !installBad j.elem.d && !s.materialLenBad j.elem && !s.blobWaits j &&
      (match s.material j with | .ok m => m == zeros 44 | _ => false) && s.findWay j.elem.d.object == some 0) = true ∧
    s.keyFree = true ∧ s.isOn (pg .ctx) = true ∧ s.tile.st ≠ .test := by decide +kernel

theorem witness_install_bad : let s := importing reserved 0x40 0 0
    s.kdfSync = s ∧ s.keyHead.any (fun j => j.elem.d.opcode == 0x40 && j.ready && s.masks (j.elem.d.object % 64) &&
      j.phase != 0 && installBad j.elem.d) = true := by decide +kernel

/-- The store with a flip to epoch 5 scheduled, at a chain time. -/
def arming (now : Nat) : State :=
  let s := importing store 0x41 0 0
  { s.put EPOCH_TIME.TIME 0 100000 with
    epoch := { s.epoch with pend := 5, pending := true, scheduled := true }, hb := { s.hb with time := 16 * now } }

theorem witness_arm : ∀ now ∈ [0, 99999], let s := arming now
    s.working = true ∧ s.kdfSync = s ∧ s.keyFree = true ∧ s.isOn (pg .ctx) = true ∧
    s.keyHead.any (fun j => j.elem.d.opcode == 0x41 && j.ready && s.masks (j.elem.d.object % 64) && j.phase != 0 &&
      (match s.jobLookup { j with elem := { j.elem with waited := true } } false with
        | (some k, u) => k == 0 && !armBad (u.clearCtx k) j.elem.d && !u.materialLenBad j.elem && !u.blobWaits j &&
          (match u.material j with | .ok m => m == zeros 44 | _ => false) && u.armEpoch j.elem.d == 5 &&
          decide (u.fld EPOCH_CUR.EPOCH 0 < 5) && u.armLate 5 == decide (now = 99999)
        | _ => false)) = true := by decide +kernel

/-- A job of the context store logic whose lookup was made. -/
def jobbed (s : State) (op len : Nat) : State :=
  let e : Elem := { rq := 255, d := { w0 := BitVec.ofNat 64 (op * 2 ^ 48), w3 := BitVec.ofNat 64 (len * 2 ^ 24) } }
  { s with ctx := { s.ctx with jobs := [{ id := 1, elem := e, phase := 1 }] } }

theorem witness_retire : let s := jobbed (leafed (wayed { st := .live, retiring := true, ctx := rawCtx })) 0x42 0
    s.working = true ∧ (s.ctxJob 0x42).any (fun j => j.phase == 1 && s.findWay j.elem.d.object == some 0) = true ∧
    (s.way 0).handle = 0 ∧ (s.way 0).st = WaySt.live ∧ (s.way 0).pins = 0 ∧ (s.way 0).wbVersion = 0 ∧ (s.way 0).retiring = true ∧
    s.wrapKey.isSome = true ∧ (s.node 1 0).c[0]? = some 4 := by decide +kernel

theorem witness_retire_pinned : let s := jobbed (wayed { st := .live, pins := 1, retiring := true }) 0x42 0
    (s.ctxJob 0x42).any (fun j => j.phase == 1 && s.findWay j.elem.d.object == some 0) = true ∧ (s.way 0).pins ≠ 0 := by
  decide +kernel

theorem witness_audit : ∀ len ∈ [191, 192], let s := jobbed store 0x43 len
    s.working = true ∧ (s.ctxJob 0x43).any (fun j => j.phase == 1 && s.findWay j.elem.d.object == some 0 &&
      j.elem.d.dstLen == len && (s.way 0).ctx.owner == j.elem.func) = true ∧ (s.way 0).st = WaySt.live ∧
    (s.way 0).retiring = false ∧ s.masks 0 = true := by decide +kernel

theorem witness_ctx_init : let s := rooted
    s.OpenReg .CTX_CMD 0 admin ∧ s.ctx.cmd = none ∧ s.key.root.isSome = true ∧ s.rng.ready = true ∧
    s.ctx.store = StoreSt.uninit := ⟨openReg_of _ _ _ _ (by decide +kernel), rfl, rfl, rfl, rfl⟩

theorem witness_ctx_flush : let s := wayed { st := .live, dirty := true }
    s.OpenReg .CTX_CMD 0 admin ∧ s.ctx.cmd = none ∧ s.ctx.store = StoreSt.ready ∧ (s.way 0).dirty = true ∧
    (s.node 1 0).c[0]? = none := ⟨openReg_of _ _ _ _ (by decide +kernel), rfl, rfl, rfl, by decide +kernel⟩

theorem witness_ctx_flush_clean : store.OpenReg .CTX_CMD 0 admin ∧
    store.ctx.ways.all (fun p => !p.2.dirty && p.2.wbVersion == 0 && p.2.st != .writing && !p.2.flushing) = true ∧ store.ctx.owed = [] ∧
    store.ctx.nodes.all (fun p => !p.2.dirty && p.2.writing.isNone) = true :=
  ⟨openReg_of _ _ _ _ (by decide +kernel), by decide, rfl, by decide⟩

theorem witness_retire_handle : let s := leafed store
    s.OpenReg .CTX_CMD 0 admin ∧ 7 < s.ctxCount ∧ (List.range 16).all (fun i => !s.badCovers i 7 && !s.badCovers i 0) = true ∧
    s.miss? 7 = none ∧ s.findWay 7 = none ∧ (s.node 1 (7 / 8)).c[7 % 8]? = some 9 ∧ s.findWay 0 = some 0 ∧
    (s.way 0).handle = 0 :=
  ⟨openReg_of _ _ _ _ (by decide +kernel), by decide +kernel, by decide +kernel, rfl, rfl, by decide +kernel, rfl, rfl⟩

theorem witness_retire_handle_refused : store.OpenReg .CTX_CMD 0 admin ∧ store.ctxCount ≤ 2048 :=
  ⟨openReg_of _ _ _ _ (by decide +kernel), by decide +kernel⟩

/-- An operation of CTX_CMD runs, or has ended. -/
def running (r : Option Nat) : State := { store with ctx := { store.ctx with cmd := some { op := 2, result := r } } }

theorem witness_ctx_cmd_runs : (running none).OpenReg .CTX_CMD 0 admin ∧ (running none).ctx.cmd.isSome = true :=
  ⟨openReg_of _ _ _ _ (by decide +kernel), rfl⟩

theorem witness_ctx_cmd_done : (running (some 2)).working = true := by decide +kernel

theorem witness_learn_enable : store.OpenReg .CTX_LEARN_CFG 0 admin ∧ store.flag CTX_LEARN_CFG.EN 0 = false :=
  ⟨openReg_of _ _ _ _ (by decide +kernel), by decide +kernel⟩

/-! ## Witnesses: epochs, the crown and the vectors -/

/-- A broadcast cell with a type, an epoch and a time. -/
def epochCellOf (type e t : Nat) : Cell := BitVec.ofNat 112 (type + 0xFF * 2 ^ 8 + e * 2 ^ 16 + t * 2 ^ 48)

/-- The Hatband is in step. -/
def synced : State := { up with hb := { up.hb with upSync := true } }

theorem witness_epoch_arm : cellByte (epochCellOf 5 7 0) 0 = 5 ∧ (synced.hbReceive (epochCellOf 5 7 0)).1 = true ∧
    synced.flag EPOCH_CTL.CELL_EN 0 = true ∧ synced.fld EPOCH_CUR.EPOCH 0 < cellNum (epochCellOf 5 7 0) 2 4 ∧
    synced.epoch.scheduled = false ∧ synced.epoch.pending = false := by decide +kernel

theorem witness_epoch_arm_refused : (synced.hbReceive (epochCellOf 5 0 0)).1 = true ∧
    cellNum (epochCellOf 5 0 0) 2 4 ≤ synced.fld EPOCH_CUR.EPOCH 0 := by decide +kernel

theorem witness_epoch_flip : cellByte (epochCellOf 6 7 9) 0 = 6 ∧ (synced.hbReceive (epochCellOf 6 7 9)).1 = true ∧
    synced.now < cellNum (epochCellOf 6 7 9) 6 8 ∧ (synced.hbReceive (epochCellOf 6 7 0)).1 = true ∧
    cellNum (epochCellOf 6 7 0) 6 8 ≤ synced.now := by decide +kernel

theorem witness_epoch_sched : let s := { up.put EPOCH_TIME.TIME 0 9 with epoch := { up.epoch with stored := 5 } }
    s.OpenReg .EPOCH_CTL 0 admin ∧ s.fld EPOCH_CUR.EPOCH 0 < s.epoch.stored ∧ s.now < s.fld EPOCH_TIME.TIME 0 ∧
    up.epoch.stored ≤ up.fld EPOCH_CUR.EPOCH 0 :=
  ⟨openReg_of _ _ _ _ (by decide +kernel), by decide +kernel, by decide +kernel, by decide +kernel⟩

theorem witness_epoch_cancel : flipping.OpenReg .EPOCH_CTL 0 admin ∧ flipping.epoch.scheduled = true ∧
    flipping.fld EPOCH_TIME.TIME 0 ≤ flipping.now + flipping.epochGuard ∧
    (flipping.put EPOCH_TIME.TIME 0 5000).now + (flipping.put EPOCH_TIME.TIME 0 5000).epochGuard <
      (flipping.put EPOCH_TIME.TIME 0 5000).fld EPOCH_TIME.TIME 0 :=
  ⟨openReg_of _ _ _ _ (by decide +kernel), rfl, by decide +kernel, by decide +kernel⟩

/-- CQ 63 ON, with one completion in the FIFO of producer 25. -/
def pushed : State :=
  (engine.setCq 63 { st := .on, nextPos := 65600, pub := 65600, cons := 65580, grants := 1 }).push 25
    { elem := { rq := 255, cq := 63 } }

theorem witness_accept : pushed.working = true ∧ pushed.crownRuns = true ∧ pushed.taken = [25] ∧
    (pushed.fifo 25).all (fun k => k.vec.isNone && k.frame.isNone && k.elem.ord.isNone && k.elem.chain.isNone &&
      k.elem.cq == 63) = true ∧ (pushed.fifo 25).length = 1 ∧ pushed.crown.waiting = [] ∧ pushed.crown.stalled = [] ∧
    (pushed.cq 63).st = CqState.on ∧ (pushed.cq 63).held = [] ∧ (pushed.cq 63).outstanding + 1 < 2 ^ pushed.cqLog 63 := by
  decide +kernel

theorem witness_entry_answer : (ended pushed (.cqEntry 63 65600) none).working = true ∧
    ((ended pushed (.cqEntry 63 65600) (some .err)).cq 63).st = CqState.on := by decide +kernel

theorem witness_entry_ecc : let s := pushed.updCq 63 (fun x => { x with held := [{}] })
    (s.cq 63).held ≠ [] ∧ (s.cq 63).st = CqState.on := by decide +kernel

theorem witness_mirror : let s := pushed.updCq 63 (fun x => { x with nextPos := 65605, writing := [65603] })
    s.crownRuns = true ∧ (s.cq 63).mirror = none ∧ (s.cq 63).qualified = 65603 ∧ (s.cq 63).pub < 65603 := by decide +kernel

theorem witness_cons : pushed.OpenReg .CQ_CONS 63 admin ∧ (pushed.cq 63).st ≠ CqState.disabled ∧ pushed.cqLog 63 = 6 ∧
    (65580 + (63 + 64 - 65580 % 64) % 64 ≤ 65600) ∧ 65600 < 65580 + (5 + 64 - 65580 % 64) % 64 :=
  ⟨openReg_of _ _ _ _ (by decide +kernel), by decide +kernel, by decide +kernel, by decide, by decide⟩

theorem witness_fn_cons : let s := pushed.put CQ_CFG.FUNC 63 63
    s.Reach .FN_CQ_CONS 63 client ∧ s.Reach .FN_CQ_CONS 63 admin ∧ fget ((0x3F003F : W32).setWidth 64) 21 16 = 63 ∧
    s.ownsCq 63 63 = true ∧ s.ownsCq 63 0 = false :=
  ⟨reach_of _ _ _ _ (by decide +kernel), reach_of _ _ _ _ (by decide +kernel), by decide, by decide +kernel, by decide +kernel⟩

theorem witness_cq_enable : engine.OpenReg .CQ_CFG 63 admin ∧ (engine.cq 63).st = CqState.disabled ∧
    bitAt (engine.fld FLT_FUNC.MAP (0 / 32)) (0 % 32) = false :=
  ⟨openReg_of _ _ _ _ (by decide +kernel), by decide +kernel, by decide +kernel⟩

theorem witness_cq_disable : pushed.OpenReg .CQ_CFG 63 admin ∧ pushed.boundRqs 63 = [] ∧
    ((pushed.setRq 255 { st := .active }).put RQ_CFG.CQ 255 63).boundRqs 63 ≠ [] ∧
    ((pushed.fenceCq 63 1).cq 63).st = CqState.fenced :=
  ⟨openReg_of _ _ _ _ (by decide +kernel), by decide +kernel, by decide +kernel, by decide +kernel⟩

/-- Vector 249 is enabled and has counted. -/
def counted (x : Vec) : State := ((up.putFlag IRQ_VEC_CFG.EN 249 true).put IRQ_VEC_CFG.TIMER 249 4).setVec 249 x

theorem witness_vec_timer : (counted { count := 2, timer := .running }).asleep = false ∧
    ((counted { count := 2, timer := .running }).vec 249).timer = Timer.running ∧
    (counted { count := 2, timer := .running }).fld IRQ_VEC_CFG.TIMER 249 ≠ 0 := by decide +kernel

/-- Its message waits for the channel. -/
def messaging : State :=
  let s := counted { count := 2, captured := some 2 }
  { s with irq := { s.irq with msgs := [249], flush := [249] } }

theorem witness_msg : messaging.evtOpen = true ∧ (messaging.vec 249).captured = some 2 ∧ messaging.irq.flushAck = false ∧
    (∀ i, i < 4 → messaging.flag PERF_WATCH.EN i = true → messaging.fld PERF_WATCH.EVENT i ≠ 70) ∧
    messaging.irq.flush = [249] ∧ (messaging.vec 249).flushPend = false := by decide +kernel

theorem witness_host_sleep : (counted { count := 2 }).OpenReg .IRQ_CTL 0 admin ∧
    (counted { count := 2 }).flag IRQ_CTL.HOST_SLEEP 0 = false ∧ (counted { count := 2 }).flushSet = [249] :=
  ⟨openReg_of _ _ _ _ (by decide +kernel), by decide +kernel, by decide +kernel⟩

theorem witness_flush : (counted { count := 2 }).OpenReg .IRQ_FLUSH 0 admin ∧
    (counted { count := 2 }).flag IRQ_VEC_CFG.EN 249 = true ∧ 1 ≤ ((counted { count := 2 }).vec 249).count :=
  ⟨openReg_of _ _ _ _ (by decide +kernel), by decide +kernel, by decide +kernel⟩

theorem witness_force_event : (unlocked up (pg .irq)).OpenReg .IRQ_XFORCE 0 admin := openReg_of _ _ _ _ (by decide +kernel)

theorem witness_vec_cfg : up.OpenReg .IRQ_VEC_CFG 249 admin ∧ up.OpenReg .IRQ_VEC_CFG 255 admin :=
  ⟨openReg_of _ _ _ _ (by decide +kernel), openReg_of _ _ _ _ (by decide +kernel)⟩

theorem witness_event_en : let s := up.updHdr (pg .power) (fun h => { h with event := 2 })
    s.Open (pg .power) false admin ∧ s.asleep = false ∧ eventVec (pg .power) 1 = some 221 ∧
    (s.hdr (pg .power)).event.getLsbD 1 = true ∧ (s.hdr (pg .power)).eventEn.getLsbD 1 = false :=
  ⟨open_of _ _ _ _ (by decide +kernel), by decide, by decide, by decide, by decide⟩

/-! ## Witnesses: digests -/

/-- The digest engine with core 2, and key custody with it, are ON. -/
def digesting : State := ons up [pg .qeng, pg .crown, pg .digest, pg .key, ⟨.dcore, 2⟩]

/-- A digest request with an opcode and AUX1, of which part 0 has been read. -/
def dgJob (op aux0 aux1 : Nat) : Job :=
  { id := 7, elem := { rq := 255, d := { w0 := BitVec.ofNat 64 (op * 2 ^ 48), w4 := BitVec.ofNat 64 aux0,
                                         w5 := BitVec.ofNat 64 aux1 } }, parts := [(0, [0x61, 0x62, 0x63])] }

/-- Channel 191 with a job is on core 2. -/
def onCore (s : State) (x : DgChan) : State :=
  (s.setDgChan 191 { x with st := .busy, core := some 2 }).setDcore 2 { s.dcore 2 with chan := some 191 }

theorem witness_digest : ∀ op ∈ [0x20, 0x21, 0x22], ∀ more ∈ [0, 1], let j := dgJob op 0 (more * 2 ^ 8)
    let s := onCore digesting { job := some j, alg := 2 }
    s.working = true ∧ (s.dgChan 191).job = some j ∧ (s.dgChan 191).core = some 2 ∧ (s.dgChan 191).st = DgSt.busy ∧
    j.ready = true ∧ s.coreFit 2 = true ∧ dgLoad j.elem.d = false ∧ dgClear j.elem.d = false ∧
    s.flag DCORE_XINJECT.ARM 2 = false ∧ dgMore j.elem.d = decide (more = 1) ∧ (s.dgChan 191).next = [] ∧
    j.elem.d.resultReg = false := by decide +kernel

/-- One whose output goes to a RESULT slot. -/
def resJob (op aux0 : Nat) : Job :=
  { dgJob op aux0 2 with elem := { rq := 255, d := { w0 := BitVec.ofNat 64 (op * 2 ^ 48 + 2 ^ 44), w4 := BitVec.ofNat 64 aux0, w5 := 2 } } }

theorem witness_digest_result : (dgJob 0x20 5 (2 ^ 9)).elem.d.opcode = 0x20 ∧
    (resJob 0x20 5).elem.d.resultReg = true ∧ (resJob 0x20 5).ready = true := by decide +kernel

theorem witness_slot_load : let j := { dgJob 0x21 0 (2 + 2 ^ 9) with phase := 1, parts := [(3, [1])] }
    let s := onCore (digesting.setBank 64 { held := true }) { job := some j }
    s.working = true ∧ s.kdfSync = s ∧ (s.dgChan 191).next = [] ∧ s.digest.slotWait = [] ∧ dgLoad j.elem.d = true ∧
    j.ready = true ∧ s.slotMasked j.elem.d = true ∧ s.keyHead.all (fun h => h.id != j.id) = true ∧
    (slotImage (dgAlg j.elem.d) (j.part 3)).isSome = true ∧ s.tile.st ≠ .test := by decide +kernel

/-- A LOAD whose blob is too short stands in key custody, and channel 255 is on core 2. -/
def unwrapping : State :=
  let j := dgJob 0x21 0 (2 + 2 ^ 9)
  let s := (digesting.setDgChan 191 { st := .busy, job := some j }).setDgChan 255 { st := .busy, alg := 3, core := some 2 }
  let s := s.setDcore 2 { chan := some 255 }
  { s with key := { s.key with jobs := [j], root := some (zeros 32, zeros 32), rootStates := true } }

theorem witness_slot_auth : let s := unwrapping
    s.working = true ∧ s.kdfSync = s ∧ (s.dgChan 191).core = none ∧ s.keyHead.any (fun h => h.id == 7) = true ∧
    s.rootBytes.isSome = true ∧ s.keyDerives = true ∧ s.tile.st ≠ .test ∧ s.stalling 16 = false ∧ (s.dgChan 191).serves = none ∧
    ∀ key, unwrapBlob key ((dgJob 0x21 0 (2 + 2 ^ 9)).part 0) none = .error stAuthFail := by
  refine ⟨by decide +kernel, by decide +kernel, by decide +kernel, by decide +kernel, by decide +kernel, by decide +kernel,
    by decide +kernel, by decide +kernel, by decide +kernel, fun key => ?_⟩
  have h : (dgJob 0x21 0 (2 + 2 ^ 9)).part 0 = [0x61, 0x62, 0x63] := by decide +kernel
  rw [h]
  rfl

theorem witness_slot_clear : let j := dgJob 0x21 0 (2 ^ 10)
    let s := digesting.setDgChan 191 { st := .busy, job := some j }
    s.working = true ∧ (s.dgChan 191).job = some j ∧ s.digest.slotWait = [] ∧ dgClear j.elem.d = true ∧
    s.keyHead.all (fun h => h.id != j.id) = true ∧ s.stalling 16 = false := by decide +kernel

theorem witness_slot_ecc : ((digesting.setKdSlot 4095 { st := .loaded }).kdSlot 4095).st = KdSt.loaded ∧
    (digesting.setKdSlot 4095 { st := .loaded }).working = true := by decide +kernel

/-- Channel 191 is on core 2 and channel 5 waits, displaced from it or not. -/
def sharing (after : List Nat) : State :=
  let s := (onCore digesting { job := some (dgJob 0x20 0 2) }).setDgChan 5 { st := .busy, job := some (dgJob 0x20 0 2) }
  let s := s.setDgChan 6 { st := .busy, since := 1, job := some (dgJob 0x20 0 2) }
  s.setDcore 2 { s.dcore 2 with after := after }

theorem witness_budget : (sharing []).working = true ∧ (sharing []).coreFit 2 = true ∧ ((sharing []).dcore 2).chan = some 191 ∧
    ((sharing []).dgChan 191).core = some 2 ∧ (sharing []).stalling 18 = false ∧ ((sharing []).dcore 2).after = [] ∧ (sharing []).dgLongest = some 5 := by
  decide +kernel

theorem witness_budget_back : (sharing [5]).dgLongest = some 6 ∧ ((sharing [5]).dcore 2).after = [5] ∧
    ((sharing [5]).dgChan 5).st = DgSt.busy ∧ ((sharing [5]).dgChan 5).core = none := by decide +kernel

theorem witness_hold : ((digesting.setDgChan 191 { st := .held }).dgChan 191).st = DgSt.held ∧
    (digesting.setDgChan 191 { st := .held }).fld DG_HOLD.TMO 0 ≠ 0 := by decide +kernel

theorem witness_state_ecc : ((sharing []).dgChan 191).st ≠ DgSt.fenced ∧ ((sharing []).dgChan 191).next = [] ∧
    (sharing []).digest.slotWait = [] ∧ dgLoad (dgJob 0x20 0 2).elem.d = false := by decide +kernel

theorem witness_dcore_error : let s := ons (sharing []) [⟨.dcore, 1⟩]
    s.working = true ∧ (s.dcore 2).chan = some 191 ∧ s.coreFit 2 = true ∧ (s.dgChan 191).rerun = false ∧ s.coreFit 1 = true ∧
    s.flag DCORE_ERR.VALID 2 = false := by decide +kernel

theorem witness_dcore_error_again : let s := onCore digesting { rerun := true }
    s.working = true ∧ (s.dcore 2).chan = some 191 ∧ s.coreFit 2 = true ∧ (s.dgChan 191).rerun = true ∧
    s.isOn (pg .digest) = true := by decide +kernel

theorem witness_dcore_check : let s := digesting.setDcore 2 { check := .waiting }
    s.working = true ∧ (s.dcore 2).check ≠ CheckSt.idle ∧ s.isOn (corePg 2) = true ∧ (s.dcore 2).ownRerun = none := by
  decide +kernel

theorem witness_dcore_check_run : (sharing []).OpenReg .DCORE_CHECK 2 admin ∧ (sharing []).isOn (corePg 2) = true ∧
    ((sharing []).dcore 2).check = CheckSt.idle := ⟨openReg_of _ _ _ _ (by decide +kernel), by decide +kernel, by decide +kernel⟩

theorem witness_dcore_inject : (unlocked digesting ⟨.dcore, 2⟩).OpenReg .DCORE_XINJECT 2 admin :=
  openReg_of _ _ _ _ (by decide +kernel)

/-! ## Witnesses: big numbers -/

/-- The big-number engine, key custody, the digest engine with core 2 and the crown are ON. -/
def bn : State := ons up [pg .qeng, pg .crown, pg .digest, pg .key, pg .bignum, ⟨.dcore, 2⟩]

/-- A request for channel 63 with an opcode, an action and a parameter, and its input. -/
def bnJob (op action param auxLen : Nat) (b : Bytes) : Job :=
  let d : Desc := { w0 := BitVec.ofNat 64 (op * 2 ^ 48 + 63), w3 := BitVec.ofNat 64 (auxLen + b.length * 2 ^ 44 + 1024 * 2 ^ 24),
                    w5 := BitVec.ofNat 64 (action * 2 ^ 8 + param) }
  { id := 7, elem := { rq := 255, d := d }, parts := [(0, b), (1, b)], phase := 1 }

/-- Channel 63 with a request. -/
def bnWith (x : BnChan) (j : Job) : State :=
  ((bn.setBnChan 63 { x with queue := [j] }).putFlag BN_CHAN_CFG.VALID 63 true)

/-- It runs on the unit of its opcode. -/
def bnRuns (x : BnChan) (j : Job) : State :=
  (bnWith { x with st := .running, onUnit := true } j).setBnUnit (bnUnitOf j.elem.d.opcode) { chan := some 63 }

/-- The conditions of State.BnEnds as a test. -/
def bnEndsB (s : State) (c : Nat) (j : Job) : Bool :=
  s.working && decide (c < 64) && (s.bnChan c).queue == [j] && (s.bnChan c).st == .running &&
    (s.bnUnit (bnUnitOf j.elem.d.opcode)).chan == some c && j.phase == 1 && j.ready && !(s.bnChan c).hash &&
    !s.bnInjects (bnUnitOf j.elem.d.opcode) (s.bnChan c)

theorem bnEnds_of (s : State) (c : Nat) (j : Job) (h : bnEndsB s c j = true) : s.BnEnds c j := by
  simp only [bnEndsB, Bool.and_eq_true, Bool.not_eq_true', beq_iff_eq, decide_eq_true_eq] at h
  obtain ⟨⟨⟨⟨⟨⟨⟨⟨h1, h2⟩, h3⟩, h4⟩, h5⟩, h6⟩, h7⟩, h8⟩, h9⟩ := h
  exact ⟨h1, h2, h3, h4, h5, h6, h7, h8, h9⟩

/-- Opcode, action, parameter and AUX_LEN of one operation of each kind. -/
def bnOps : List (Nat × Nat × Nat × Nat) :=
  [(0x30, 0, 0x30, 1), (0x33, 0, 1, 32), (0x36, 0, 5, 0), (0x39, 0, 0x11, 0), (0x3C, 0, 0x21, 0), (0x30, 1, 0x30, 2), (0x31, 1, 1, 0),
   (0x32, 1, 1, 0), (0x34, 1, 4, 0), (0x35, 1, 5, 0), (0x3A, 1, 0x11, 0), (0x3B, 1, 0x21, 0), (0x38, 3, 0x11, 0), (0x31, 3, 1, 0),
   (0x30, 2, 0x30, 2)]

theorem witness_bn_ops : ∀ x ∈ bnOps, let j := bnJob x.1 x.2.1 x.2.2.1 x.2.2.2 [1, 2, 3]
    let s := bnRuns { key := some { param := x.2.2.1 } } j
    s.BnEnds 63 j ∧ j.elem.d.opcode = x.1 ∧ bnAction j.elem.d = x.2.1 ∧ (s.bnChan 63).key.isSome = true := by
  have h : ∀ x ∈ bnOps, let j := bnJob x.1 x.2.1 x.2.2.1 x.2.2.2 [1, 2, 3]
      let s := bnRuns { key := some { param := x.2.2.1 } } j
      bnEndsB s 63 j = true ∧ j.elem.d.opcode = x.1 ∧ bnAction j.elem.d = x.2.1 ∧ (s.bnChan 63).key.isSome = true := by
    decide +kernel
  exact fun x hx => ⟨bnEnds_of _ _ _ (h x hx).1, (h x hx).2⟩

theorem witness_bn_load : let j := bnJob 0x31 2 1 0 [1, 2, 3]
    let s := ((bnRuns {} j).setDgChan 255 { st := .busy, alg := 3, core := some 2 }).setDcore 2 { chan := some 255 }
    let s := { s with key := { s.key with jobs := [j], root := some (zeros 32, zeros 32), rootStates := true } }
    s.kdfDenied = false ∧ s.kdfSync = s ∧ s.keyHead.any (fun h => h.id == j.id) = true ∧ s.rootBytes.isSome = true ∧
    s.keyDerives = true ∧ bnEndsB s 63 j = true ∧ s.tile.st ≠ .test := by decide +kernel

theorem witness_bn_refused : ∀ x ∈ [(0x30, 0), (0x31, 1), (0x32, 1), (0x33, 0), (0x34, 1), (0x35, 1), (0x36, 0), (0x38, 3), (0x39, 0),
      (0x3A, 1), (0x3B, 1), (0x3C, 0)],
    let j := { bnJob x.1 x.2 0 0 [] with phase := 3 }
    let j := { j with elem := { j.elem with d := { j.elem.d with w3 := 0 } } }
    let s := bnWith { st := .running } j
    s.working = true ∧ (s.bnChan 63).queue = [j] ∧ (s.bnChan 63).hash = false ∧ s.bnWaiters .ia = [] ∧ s.bnWaiters .ntt = [] ∧
    bnKind j.elem.d = 0 ∧ s.bnRefusal 63 j.elem = some (stInvalidOperand, 0x31) := by decide +kernel

theorem witness_bn_clear : let j := { bnJob 0x31 4 1 0 [] with phase := 3 }
    let j := { j with elem := { j.elem with d := { j.elem.d with w3 := 0 } } }
    let s := bnWith { st := .running, key := some { param := 1 } } j
    s.working = true ∧ (s.bnChan 63).queue = [j] ∧ bnAction j.elem.d = 4 ∧ s.bnRefusal 63 j.elem = none := by decide +kernel

theorem witness_bn_resplit : let s := bn.setBnChan 63 { key := some { param := 1 } }
    s.working = true ∧ (s.bnChan 63).key.isSome = true ∧ (s.put BN_XRESPLIT.PERIOD 0 5).fld BN_XRESPLIT.PERIOD 0 ≠ 0 ∧
    s.isOn (pg .bignum) = true ∧ (s.bnChan 63).splitRnd = none ∧ RngUse.resplit 63 ∉ s.rng.ordWait := by decide +kernel

theorem witness_bn_cfg : bn.OpenReg .BN_CHAN_CFG 63 admin ∧ (bn.bnChan 63).st = .idle ∧
    ((bnRuns {} (bnJob 0x31 1 1 0 [])).bnChan 63).st ≠ .idle ∧ bn.fld BN_CHAN_CFG.FUNC 63 ≠ fget ((0x3F000000 : W32).setWidth 64) 29 24 ∧
    (bnRuns {} (bnJob 0x31 1 1 0 [])).OpenReg .BN_CHAN_CFG 63 admin :=
  ⟨openReg_of _ _ _ _ (by decide +kernel), by decide +kernel, by decide +kernel, by decide +kernel,
    openReg_of _ _ _ _ (by decide +kernel)⟩

/-- Channel 62 waits for the unit that channel 63 is on. -/
def bnShared : State :=
  (bnRuns {} (bnJob 0x31 1 1 0 [])).setBnChan 62 { st := .waiting, queue := [{ bnJob 0x31 1 1 0 [] with id := 8 }] }

theorem witness_bn_budget : bnShared.working = true ∧ (bnShared.bnUnit .ia).chan = some 63 ∧ (bnShared.bnUnit .ia).fenced = false ∧
    (bnShared.bnUnit .ia).check = .idle ∧ bnShared.stalling 20 = false ∧ bnShared.bnNext .ia = some 62 := by decide +kernel

theorem witness_bn_preempt : let s := bnShared.putFlag BN_CHAN_CFG.PRIV 62 true
    (s.bnUnit .ia).chan = some 63 ∧ earliest ((s.bnWaiters .ia).filter (fun p => s.bnPriv p.1)) = some 62 := by decide +kernel

theorem witness_bn_rng : let s := (bnWith { st := .blocked, rndWait := true } (bnJob 0x31 1 1 0 [])).put BN_XRNG.TMO 0 5
    s.working = true ∧ (s.bnChan 63).rndWait = true ∧ s.fld BN_XRNG.TMO 0 ≠ 0 ∧ (s.bnChan 63).queue.length = 1 := by decide +kernel

theorem witness_bn_idle : bn.working = true ∧ bn.bnIdle = true ∧ bn.isOn (pg .bignum) = true := by decide +kernel

theorem witness_bn_check : let s := bnRuns { recompute := true } (bnJob 0x36 0 5 0 [1])
    s.working = true ∧ (s.bnChan 63).queue ≠ [] ∧ (s.bnUnit .ia).chan = some 63 ∧ (s.bnChan 63).recompute = true ∧
    ((bnRuns {} (bnJob 0x36 0 5 0 [1])).bnChan 63).recompute = false ∧ bnStreams (bnJob 0x36 0 5 0 [1]).elem.d = true ∧
    (bnJob 0x36 0 5 0 [1]).elem.d.srcLen ≠ 0 ∧ bnAtOnce (bnJob 0x36 0 5 0 [1]).elem.d = false ∧
    bnAtOnce (bnJob 0x30 0 0x30 1 [1]).elem.d = true := by decide +kernel

theorem witness_bn_unit_check :
    let s := (bnWith { st := .blocked, recompute := true, key := some { param := 1 } } (bnJob 0x31 1 1 0 [])).setBnUnit .ia
      { check := .running, failed := some 63 }
    s.working = true ∧ (s.bnUnit .ia).check = .running ∧ (s.bnUnit .ia).failed = some 63 ∧ (s.bnChan 63).queue.length = 1 ∧
    (s.bnChan 63).recompute = true ∧ (s.bnUnit .ntt).fenced = false ∧ ((s.setBnUnit .ntt { fenced := true }).bnUnit .ntt).fenced = true ∧
    (s.setBnUnit .ntt { fenced := true }).isOn (pg .bignum) = true := by decide +kernel

theorem witness_bn_check_run : (bnRuns {} (bnJob 0x31 1 1 0 [])).OpenReg .BN_CHECK 0 admin ∧
    ∀ u, ((bnRuns {} (bnJob 0x31 1 1 0 [])).bnUnit u).fenced = false ∧ ((bnRuns {} (bnJob 0x31 1 1 0 [])).bnUnit u).check = .idle :=
  ⟨openReg_of _ _ _ _ (by decide +kernel), by intro u; cases u <;> decide⟩

theorem witness_bn_inject : (unlocked bn (pg .bignum)).OpenReg .BN_XINJECT 0 admin := openReg_of _ _ _ _ (by decide +kernel)

/-! ## Witnesses: random numbers -/

/-- The random number source is ON, with cell 15 alone enabled and running. -/
def noisy : State :=
  ((ons up [pg .qeng, pg .crown, pg .rng]).put RNG_CELL_EN.EN 0 0x8000).setCell 15 { running := true, warm := false, passes := 1, admitted := true }

/-- A batt that passes: two digests. -/
def goodBatt : BitVec 512 := bytesBv 512 (sha256 [] ++ sha256 [1])

theorem witness_batt : noisy.working = true ∧ noisy.rngUp = true ∧ noisy.blk (pg .rng) = BlkState.on ∧ noisy.rng.raw = none ∧
    noisy.flag RNG_XRAW.EN 0 = false ∧ noisy.cellOn 15 = true ∧ noisy.cellOn 3 = false ∧ (noisy.cell 15).running = true ∧
    (noisy.cell 15).warm = false ∧ noisy.fld RNG_CELL_EN.EN 0 = 2 ^ 15 ∧ (noisy.cell 15).admitted = true ∧
    noisy.rng.pool.length < 16 ∧ (noisy.cell 15).winFails = 0 := by decide +kernel

theorem witness_batt_checks : noisy.battAlive (battBits 0) = false ∧ noisy.battFree (battBits 0) = false ∧
    noisy.battAlive (battBits goodBatt) = true ∧ noisy.battFree (battBits goodBatt) = true := by decide +kernel

theorem witness_batt_starts : ((noisy.setCell 15 {}).cell 15).running = false ∧
    ((noisy.setCell 15 { running := true }).cell 15).warm = true := by decide +kernel

theorem witness_fuller : noisy.fld RNG_TMO.STALL_TMO 0 ≠ 0 ∧ noisy.rng.stallRaised = false := by decide +kernel

theorem witness_cell_en : noisy.OpenReg .RNG_CELL_EN 0 admin := openReg_of _ _ _ _ (by decide +kernel)

theorem witness_raw_start : (unlocked noisy (pg .rng)).OpenReg .RNG_XRAW 0 admin := openReg_of _ _ _ _ (by decide +kernel)

/-- A raw capture of cell 15 is asked for in TEST. -/
def capturing (raw : Option Nat) : State :=
  let s := ((at' (unlocked noisy (pg .rng)) .test).putFlag RNG_XRAW.EN 0 true).put RNG_XRAW.CELL 0 15
  { s with rng := { s.rng with raw := raw } }

theorem witness_raw : ∀ r ∈ [none, some 15], (capturing r).working = true ∧ (capturing r).rngUp = true ∧
    (capturing r).blk (pg .rng) = BlkState.on ∧ (capturing r).rng.raw = r ∧ (capturing r).flag RNG_XRAW.EN 0 = true ∧
    (capturing r).tile.st = TileState.test ∧ ((capturing r).hdr (pg .rng)).lock = Lock.opened ∧
    (capturing r).fld RNG_XRAW.CELL 0 = 15 ∧ (capturing r).cellOn 15 = true ∧ ((capturing r).cell 15).running = true ∧
    (capturing r).rng.rawNext < max 1 ((capturing r).fld RNG_XRAW.LEN 0) := by decide +kernel

/-- The expander with three units in its pool, asked for something. -/
def drawing (r : Rng) : State := { noisy with rng := { r with cells := noisy.rng.cells, pool := [1, 2, 3] } }

theorem witness_instantiate : (drawing {}).rngUp = true ∧ ((drawing {}).hdr (pg .rng)).en = true ∧ (drawing {}).rng.seeded = false ∧
    3 ≤ (drawing {}).rng.pool.length ∧ ((drawing {}).put RNG_HEALTH_CFG.MIN_CELLS 0 1).enoughCells = true := by decide +kernel

theorem witness_reseed : (drawing { seeded := true, force := true }).reseedDue = true := by decide +kernel

theorem witness_generate_priv : ∀ u ∈ [RngUse.session, .pounce 71], let s := drawing { seeded := true, ready := true, privWait := [u] }
    s.reseedDue = false ∧ s.rng.ready = true ∧ s.rng.count < s.rngLimit + s.rngReserve ∧ s.privNext = some u := by decide +kernel

/-- A RANDOM request for 20 bytes, or for a secret of 20. -/
def randJob (hand : Bool) : Job :=
  let d : Desc := if hand then { w0 := BitVec.ofNat 64 (0x50 * 2 ^ 48 + 2 ^ 43), w3 := 20 }
                  else { w0 := BitVec.ofNat 64 (0x50 * 2 ^ 48), w3 := BitVec.ofNat 64 (20 * 2 ^ 24) }
  { id := 7, elem := { rq := 255, chain := if hand then some 3 else none, d := d } }

theorem witness_generate_ord : let s := drawing { seeded := true, ready := true, swFifo := List.replicate 9 0, jobs := [randJob false] }
    s.reseedDue = false ∧ s.rng.count < s.rngLimit ∧ s.privNext = none ∧ s.ordNext = some (1, .random) ∧
    (drawing { seeded := true, ready := true }).ordNext = some (2, .swPort) := by decide +kernel

theorem witness_rng_late : noisy.rng.ready = false ∧ noisy.rng.allStall = false ∧ noisy.rng.phase ≠ .waitCells := by decide +kernel

theorem witness_reseed_force : noisy.OpenReg .RNG_RESEED_CFG 0 admin := openReg_of _ _ _ _ (by decide +kernel)

theorem witness_random : ∀ h ∈ [false, true], let s := drawing { jobs := [randJob h], granted := zeros 20 }
    s.working = true ∧ s.stalling 23 = false ∧ randomRefusal (randJob h).elem.d = none ∧ s.randomNeed = 0 ∧ (randJob h).elem.d.secretHandoff = h ∧
    s.blk (pg .rng) ≠ BlkState.fenced ∧ (drawing { jobs := [randJob h] }).randomNeed ≠ 0 ∧
    randomRefusal { (randJob h).elem.d with w5 := 1 } = some stInvalidOperand ∧
    (inSt s (pg .rng) .fenced true).blk (pg .rng) = BlkState.fenced := by decide +kernel

theorem witness_sw_read : (drawing { swFifo := [5] }).Open (pg .rng) true admin ∧ noisy.Open (pg .rng) true admin ∧
    noisy.rng.swFifo = [] := ⟨open_of _ _ _ _ (by decide +kernel), open_of _ _ _ _ (by decide +kernel), rfl⟩

/-! ## Witnesses: key custody -/

/-- Key custody is ON and its port is sampled. -/
def keyed : State :=
  let s := at' (ons up [pg .qeng, pg .crown, pg .key]) .bringUp
  { s with rng := { s.rng with ready := true } }

/-- A transfer is under way. -/
def transferring (retry : Bool) : State := { keyed with key := { keyed.key with req := true, port := .request, retry := retry } }

/-- The 14 words of a UID and a root, and their check word. -/
def rootWords : List W32 :=
  let ws : List W32 := (List.range 14).map (fun i => BitVec.ofNat 32 (i + 1))
  ws ++ [BitVec.ofNat 32 (crc32 (ws.flatMap (fun w => leBytes w.toNat 4)))]

theorem witness_port_request : keyed.working = true ∧ keyed.portSampled = true ∧ keyed.key.port = .waiting := by decide +kernel

theorem witness_transfer : ∀ r ∈ [false, true], let s := transferring r
    s.key.req = true ∧ s.portSampled = true ∧ s.working = true ∧ s.key.retry = r := by decide +kernel

theorem witness_transfer_words : let b := rootWords.flatMap (fun w => leBytes w.toNat 4)
    rootWords.length = 15 ∧ crc32 (slice b 0 56) = numAt b 56 4 ∧ (slice b 8 48).all (· == 0) = false ∧
    (slice b 8 48).all (· == 0xFF) = false := by decide +kernel

theorem witness_transfer_refused : let b := (List.replicate 15 (0 : W32)).flatMap (fun w => leBytes w.toNat 4)
    crc32 (slice b 0 56) ≠ numAt b 56 4 ∧ (rootWords.take 14).length ≠ 15 := by decide +kernel

theorem witness_transfer_zero : let ws : List W32 := List.replicate 14 0
    let b := (ws ++ [BitVec.ofNat 32 (crc32 (zeros 56))]).flatMap (fun w => leBytes w.toNat 4)
    crc32 (slice b 0 56) = numAt b 56 4 ∧ (slice b 8 48).all (· == 0) = true := by decide +kernel

theorem witness_port_retry_wait : let s := { keyed with key := { keyed.key with port := .retryWait } }
    s.working = true ∧ s.key.port = .retryWait ∧ s.portSampled = true := by decide +kernel

theorem witness_port_retry : let s := { keyed with key := { keyed.key with port := .failed } }
    s.OpenReg .KEY_CMD 0 admin ∧ s.key.port = .failed ∧ s.key.root = none ∧ keyed.OpenReg .KEY_CMD 0 admin ∧
    keyed.key.port ≠ .failed :=
  ⟨openReg_of _ _ _ _ (by decide +kernel), rfl, rfl, openReg_of _ _ _ _ (by decide +kernel), by decide +kernel⟩

/-- A root is loaded, its states are ready, and channel 255 is on core 2. -/
def deriving' (k : Key) : State :=
  let s := (ons up [pg .qeng, pg .crown, pg .key, pg .digest, ⟨.dcore, 2⟩]).setDgChan 255 { st := .busy, alg := 3, core := some 2 }
  { s.setDcore 2 { chan := some 255 } with key := { k with root := some (zeros 48, List.replicate 48 7) } }

theorem witness_key_derive : let s := deriving' { derive := [.rootStates, .storeKeys] }
    s.working = true ∧ s.kdfSync = s ∧ s.rootBytes.isSome = true ∧ s.keyWorks = true ∧ s.kdfOnCore = true ∧ s.key.derive ≠ [] ∧
    s.tile.st ≠ .test := by decide +kernel

/-- A KDF request of chain 63, or of none; out bytes are asked for. -/
def kdfJob (chain : Option Nat) (hand : Nat) (out : Nat) : Job :=
  let d : Desc := { w0 := BitVec.ofNat 64 (0x23 * 2 ^ 48 + hand * 2 ^ 43)
                    w3 := BitVec.ofNat 64 (3 * 2 ^ 44 + 64 * 2 ^ 24 + (if chain.isSome then 0 else 24)), w5 := BitVec.ofNat 64 out }
  { id := 7, elem := { rq := 255, chain := chain, d := d }, parts := [(0, [1, 2, 3]), (1, zeros 24)] }

/-- The request stands at the head; the chain's entry holds a secret of n bytes. -/
def kdfing (j : Job) (n : Nat) : State :=
  let s := deriving' { rootStates := true, jobs := [j] }
  { s with qeng := { s.qeng with
      chains := [{ id := 63, rest := [], cbuf := some 0 }], cbuf := [(0, { taken := true, secret := zeros n })] } }

theorem witness_kdf_refused : let s := { kdfing (kdfJob none 0 0) 0 with digest := {} }
    s.working = true ∧ s.keyFree = true ∧ (kdfJob none 0 0).ready = true ∧ s.keyHead = some (kdfJob none 0 0) ∧
    kdfRefusal (kdfJob none 0 0).elem.d (s.secret (kdfJob none 0 0).elem) = some stInvalidOperand ∧
    s.kdfSync = s ∧ s.tile.st ≠ .test := by decide +kernel

theorem witness_kdf : ∀ x ∈ [(some 63, 0, 32), (some 63, 1, 32), (none, 0, 0)], let j := kdfJob x.1 x.2.1 32
    let s := kdfing j x.2.2
    s.working = true ∧ s.kdfSync = s ∧ s.keyHead = some j ∧ j.elem.d.opcode = 0x23 ∧ s.keyFree = true ∧ j.ready = true ∧
    j.failed = false ∧ kdfRefusal j.elem.d (s.secret j.elem) = none ∧ s.kdfDenied = false ∧ s.kdfOnCore = true ∧
    s.tile.st ≠ .test ∧ s.key.rootStates = true ∧ j.elem.d.secretHandoff = decide (x.2.1 = 1) ∧ (s.secret j.elem).isSome = decide (x.2.2 ≠ 0) := by
  decide +kernel

theorem witness_zeroize : let s := at' (deriving' {}) .bringUp
    s.OpenReg .KEY_CMD 0 admin ∧ s.zeroizeOk = true ∧ (deriving' {}).OpenReg .KEY_CMD 0 admin ∧ (deriving' {}).zeroizeOk = false :=
  ⟨openReg_of _ _ _ _ (by decide +kernel), by decide +kernel, openReg_of _ _ _ _ (by decide +kernel), by decide +kernel⟩

theorem witness_attest : let s := deriving' {}
    s.isOn (pg .key) = true ∧ s.key.attest = none ∧ s.key.root.isSome = true ∧ s.anyLock = false ∧
    (unlocked s (pg .hatband)).anyLock = true := by decide +kernel

theorem witness_attest_done : let s := deriving' { attest := some (zeros 128) }
    s.working = true ∧ s.kdfSync = s ∧ s.key.attest = some (zeros 128) ∧ (zeros 128).length = 128 ∧ s.rootBytes.isSome = true ∧
    s.keyWorks = true ∧ s.kdfOnCore = true ∧ s.key.derive = [] ∧ s.tile.st ≠ .test := by decide +kernel

theorem witness_key_error : (deriving' {}).working = true ∧ (deriving' {}).keyWorks = true ∧
    (inSt (deriving' {}) (pg .key) .goingDown false).keyWorks = true ∧ (deriving' {}).fenceable = true ∧
    (deriving' {}).tile.fencing = none ∧ (deriving' {}).tamp.responding = false := by decide +kernel

theorem witness_pounce_due : store.working = true ∧ store.isOn (pg .key) = true ∧ store.asleep = false ∧ store.key.noMask = false ∧
    store.isOn (pg .ctx) = true ∧ store.key.pouncing = false ∧ 0 ∉ store.ctx.badBanks ∧
    ((store.setBank 71 { key := 3, held := true, arrived := some 0x77 }).bank 71).arrived = some 0x77 ∧
    store.OpenReg .KEY_CMD 0 admin :=
  ⟨by decide +kernel, by decide +kernel, by decide +kernel, by decide +kernel, by decide +kernel, by decide +kernel, by decide +kernel, by decide +kernel,
    openReg_of _ _ _ _ (by decide +kernel)⟩

/-- A pass runs; bank 0, which covers a LIVE way, and bank 71, which covers a LOADED slot, have new keys. -/
def pouncing (done : Bool) : State :=
  let s := (store.setKdSlot 4095 { st := .loaded, bytes := 5 }).setBank 0 { key := 3, held := true, arrived := some 0x77 }
  let s := s.setBank 71 { key := 3, held := true, arrived := some 0x77 }
  let s := if done then (List.range 72).foldl (fun s b => s.setBank b { held := true, done := true }) s else s
  { s with key := { s.key with pouncing := true } }

theorem witness_pounce_bank : (pouncing false).working = true ∧ ((pouncing false).bank 0).arrived = some 0x77 ∧
    ((pouncing false).bank 71).arrived = some 0x77 ∧ (pouncing false).digest.slotWait = [] ∧
    ((pouncing false).way 0).st = .live ∧ ((pouncing false).kdSlot 4095).st = .loaded := by decide +kernel

theorem witness_pounce_done : (pouncing true).working = true ∧ (pouncing true).key.pouncing = true ∧
    (pouncing true).key.fresh = false ∧ (pouncing true).key.overdue = false ∧
    (List.range 72).all (fun b => ((pouncing true).bank b).done && ((pouncing true).bank b).held) = true := by decide +kernel

/-! ## Witnesses: DMA -/

/-- DMA channel 15 is ON with a transfer of 64 bytes in its shadow set; an administrator may write its page. -/
def dmaing (x : Dch) (ring arm : Bool) : State :=
  let s := (ons up [pg .qeng, pg .crown, pg .dma, dchPg 15]).putFlag DCH_CFG.RING 15 ring |>.put DCH_CFG.POLL 15 4
  (((s.put DCH_SHD_CTL.LENGTH 15 64).put DCH_RING_HEAD.INDEX 15 9).putFlag DCH_ARM.SHD_ARM 15 arm).setDch 15 x

theorem witness_dma_arm : ∀ r ∈ [false, true], ∀ st ∈ [DchSt.idle, .running], let s := dmaing { st := st } r false
    s.Reach .DCH_ARM 15 admin ∧ s.dchRing 15 = r ∧ (s.dch 15).st = st ∧ (s.hdr (dchPg 15)).en = true ∧
    s.isOn (dchPg 15) = true ∧ s.stalling 24 = false := by
  intro r hr st hst
  have h : ∀ r ∈ [false, true], ∀ st ∈ [DchSt.idle, .running], let s := dmaing { st := st } r false
      reachB s .DCH_ARM 15 admin = true ∧ s.dchRing 15 = r ∧ (s.dch 15).st = st ∧ (s.hdr (dchPg 15)).en = true ∧
      s.isOn (dchPg 15) = true ∧ s.stalling 24 = false := by decide +kernel
  exact ⟨reach_of _ _ _ _ (h r hr st hst).1, (h r hr st hst).2⟩

/-- A transfer that has ended with a status. -/
def dmaEnded (st : Nat) : Dch := { st := .ending, status := some st, refused := if st = stOk then none else some st }

theorem witness_dma_end : ∀ st ∈ [stOk, stLengthMismatch], ∀ a ∈ [false, true],
    let s := (dmaing (dmaEnded st) false a).putFlag DCH_CUR_CTL.IRQ 15 true
    let r := dmaing { dmaEnded st with curIdx := some 8 } true a
    s.working = true ∧ s.dchRing 15 = false ∧ (s.dch 15).st = .ending ∧ (s.dch 15).status = some st ∧
    s.flag DCH_ARM.SHD_ARM 15 = a ∧ s.flag DCH_CUR_CTL.IRQ 15 = true ∧ s.flag DCH_ERR.VALID 15 = false ∧
    r.dchRing 15 = true ∧ (r.dch 15).status = some st := by decide +kernel

theorem witness_dma_poll : let s := dmaing { curIdx := some 8 } true false
    s.working = true ∧ s.fld DCH_CFG.POLL 15 ≠ 0 ∧ s.Reach .DCH_CTL 15 admin ∧ s.dchRing 15 = true ∧
    s.flag DCH_ARM.SHD_ARM 15 = false ∧ (s.dch 15).st ≠ .halted ∧ (s.dch 15).polling = none ∧ (s.dch 15).curIdx ≠ some 9 ∧
    s.fld DCH_RING_HEAD.INDEX 15 = 9 ∧ s.isOn (dchPg 15) = true ∧ s.pwr.phase = Phase.awake ∧ (up.put DCH_CFG.POLL 15 0).fld DCH_CFG.POLL 15 = 0 :=
  ⟨by decide +kernel, by decide +kernel, reach_of _ _ _ _ (by decide +kernel), by decide +kernel, by decide +kernel,
    by decide +kernel, by decide +kernel, by decide +kernel, by decide +kernel, by decide +kernel, by decide +kernel,
    by decide +kernel⟩

theorem witness_dma_resume : ∀ a ∈ [false, true], let s := dmaing { st := .halted, curIdx := some 8 } true a
    s.Reach .DCH_CTL 15 admin ∧ (s.dch 15).st = .halted ∧ s.flag DCH_ARM.SHD_ARM 15 = a ∧ s.fab.mail = [] ∧
    s.stalling 24 = false := by
  intro a ha
  have h : ∀ a ∈ [false, true], let s := dmaing { st := .halted, curIdx := some 8 } true a
      reachB s .DCH_CTL 15 admin = true ∧ (s.dch 15).st = .halted ∧ s.flag DCH_ARM.SHD_ARM 15 = a ∧ s.fab.mail = [] ∧
      s.stalling 24 = false := by decide +kernel
  exact ⟨reach_of _ _ _ _ (h a ha).1, (h a ha).2⟩

/-! ## Witnesses: the Hatband -/

/-- hb_in is in sync. -/
def online (s : State) : State := { s with hb := { s.hb with upSync := true } }

/-- A tile in AO_ONLY that has lost its address. -/
def nameless : State := online { tile := { st := .aoOnly, renumbered := true } }

/-- A cell of a type with its byte 1 and a number from byte 2 on. -/
def aCell (t b1 rest : Nat) : Cell := BitVec.ofNat 112 (t + b1 * 256 + rest * 65536)

theorem witness_enum : nameless.hbLive = true ∧ nameless.hb.bypass = false ∧ cellByte (aCell 1 63 0) 0 = 1 ∧
    nameless.tile.addr = none ∧ cellByte (aCell 1 63 0) 1 ≤ 63 ∧ nameless.tile.renumbered = true ∧
    63 < cellByte (aCell 1 64 0) 1 ∧ (online up).hbLive = true ∧ (online up).tile.addr ≠ none := by decide +kernel

theorem witness_enum_clocked : let s := { nameless with clk := { lock := 3 } }
    s.hbLive = true ∧ s.hb.bypass = false ∧ s.tile.addr = none ∧ s.tile.st = .aoOnly ∧
    (s.clk.lock.getLsbD 0 && s.clk.lock.getLsbD 1) = true := by decide +kernel

/-- A cell of the tile's own goes out; one is held behind it; hb_out is at electrical idle. -/
def busyLine (sending : Option Cell) (elastic : Nat) (trip : Bool) : State :=
  let s := online up
  { s with hb := { s.hb with sending := sending, elastic := elastic }, clk := { s.clk with monBad := if trip then 1 else 0 } }

theorem witness_busy_line : (busyLine (some (aCell 7 255 5)) 0 false).hb.sending.isSome = true ∧ (busyLine none 17 false).hb.elastic = 17 ∧
    (busyLine none 17 false).hbLine = .idle ∧ (busyLine none 0 true).hbLine = .electricalIdle ∧
    ∀ x ∈ [busyLine (some (aCell 7 255 5)) 0 false, busyLine none 17 false, busyLine none 0 true],
      x.hbLive = true ∧ x.hb.bypass = false ∧ x.hb.upSync = true := by decide +kernel

theorem witness_renum : let s := at' (online up) .addressed
    s.hbLive = true ∧ s.hb.bypass = false ∧ cellByte (aCell 2 255 0) 0 = 2 ∧ s.tile.st = .addressed := by decide +kernel

/-- T is 1,000 ns, D is 160 and c is −1 in a TIME cell of hop 1. -/
def timeCell : Cell := aCell 3 1 (1000 + 160 * 2 ^ 64 + 255 * 2 ^ 88)

theorem witness_time : ∀ m ∈ [false, true], let s := online { up with hb := { mustStep := m, time := 16160 } }
    s.hbLive = true ∧ s.hb.bypass = false ∧ cellByte timeCell 0 = 3 ∧ s.hb.mustStep = m ∧ s.holdover = false ∧
    ((cellNum timeCell 2 8 * 16 + cellNum timeCell 10 3 + s.fld HB_WIRE_IN.DELAY 0 +
      (cellByte timeCell 1 + 1) * signed8 (cellByte timeCell 13) : Int) % 2 ^ 68 - s.hb.time) = -2 ∧
    2 ≤ 16 * s.fld HB_XTIME.STEP_LIM 0 := by decide +kernel

theorem witness_loop : (online up).hbLive = true ∧ (online up).hb.bypass = false ∧ cellByte (aCell 4 255 0) 0 = 4 ∧
    cellByte (aCell 12 5 0) 0 = 12 ∧ cellByte (aCell 0 5 0) 0 = 0 ∧
    (0 : BitVec 16) ≠ cellCrc (aCell 4 255 0) ∧ 0 ≠ cellCrc (aCell 4 255 0) ^^^ 0xFFFF := by decide +kernel

theorem witness_line : up.tile.st ≠ .powerOff ∧ up.hb.upSync = false ∧ (online up).hb.upSync = true ∧ up.fld HB_XTIME.STALE 0 ≠ 0 := by decide +kernel

/-- The state with PWR_WAKE_CFG.CELL at b, in a phase. -/
def phased (s : State) (p : Phase) (b : Bool) : State :=
  let s := (s.putFlag PWR_WAKE_CFG.CELL 0 b).putFlag HB_CELL_EN.SLEEP_ALL 0 true
  online { s with pwr := { s.pwr with phase := p } }

/-- The conditions of State.ActsOn, for a cell to all tiles and for one to tile 5. -/
theorem acts_all (s : State) (t : Nat) (c : Cell)
    (h : (s.hbLive && !s.hb.bypass && cellByte c 0 == t && cellByte c 1 == 0xFF && t != 0x0A && s.cellEnabled t && cellFields c) =
      true) : s.ActsOn t c := by
  simp only [Bool.and_eq_true, Bool.not_eq_true', beq_iff_eq, bne_iff_ne, ne_eq] at h
  obtain ⟨⟨⟨⟨⟨⟨h1, h2⟩, h3⟩, h4⟩, h5⟩, h6⟩, h7⟩ := h
  exact ⟨h1, h2, h3, Or.inl ⟨h4, h5⟩, h6, h7⟩

theorem acts_own (s : State) (t : Nat) (c : Cell)
    (h : (s.hbLive && !s.hb.bypass && cellByte c 0 == t && s.tile.addr == some 5 && cellByte c 1 == 5 && t != 0x07 &&
      s.cellEnabled t && cellFields c) = true) : s.ActsOn t c := by
  simp only [Bool.and_eq_true, Bool.not_eq_true', beq_iff_eq, bne_iff_ne, ne_eq] at h
  obtain ⟨⟨⟨⟨⟨⟨⟨h1, h2⟩, h3⟩, h4⟩, h5⟩, h6⟩, h7⟩, h8⟩ := h
  exact ⟨h1, h2, h3, Or.inr ⟨h6, 5, h4, h5.symm⟩, h7, h8⟩

theorem witness_cell_elsewhere : (online up).hbLive = true ∧ (online up).hb.bypass = false ∧ cellByte (aCell 0x0B 63 0) 1 ≤ 63 ∧
    (∀ a, (online up).tile.addr = some a → a.toNat ≠ cellByte (aCell 0x0B 63 0) 1) ∧ cellByte (aCell 0x0B 63 0) 0 = 0x0B := by
  refine ⟨by decide +kernel, by decide +kernel, by decide +kernel, fun a h => ?_, by decide +kernel⟩
  have e : (some (5 : BitVec 6) : Option (BitVec 6)) = some a := h
  cases e
  decide +kernel

theorem witness_zeroize_addressed : (online up).hbLive = true ∧ (online up).hb.bypass = false ∧ cellByte (aCell 7 5 0) 0 = 0x07 ∧
    cellByte (aCell 7 5 0) 1 ≠ 0xFF := by decide +kernel

theorem witness_zeroize_all : (online up).ActsOn 0x07 (aCell 7 0xFF 0xFE) := acts_all _ _ _ (by decide +kernel)

theorem witness_sleep_all : (phased up .awake true).ActsOn 0x08 (aCell 8 5 8) ∧ (phased up .awake true).sleepOk 2 = true ∧
    (phased (at' up .test) .awake true).ActsOn 0x08 (aCell 8 0xFF 7) ∧ (phased (at' up .test) .awake true).sleepOk 1 = false :=
  ⟨acts_own _ _ _ (by decide +kernel), by decide +kernel, acts_all _ _ _ (by decide +kernel), by decide +kernel⟩

theorem witness_wake_cell : ∀ p ∈ [Phase.awake, .draining, .saving, .committed, .asleep, .waking],
    (phased up p true).ActsOn 0x09 (aCell 9 0xFF 0) ∧ (phased up p true).flag PWR_WAKE_CFG.CELL 0 = true ∧
    (phased up p true).pwr.phase = p := by
  intro p hp
  fin_cases hp <;> exact ⟨acts_all _ _ _ (by decide +kernel), by decide +kernel, rfl⟩

/-- A message waits to be sent, and eight have come. -/
def chatty : State :=
  let s := online up
  { s with hb := { s.hb with own := some (aCell 0x0B 3 5), rx := List.replicate 8 0 } }

/-- A ZEROIZE_ALL waits to be sent. -/
def zeroizing : State :=
  let s := online up
  { s with hb := { s.hb with own := some s.ownZeroize } }

theorem witness_bypass : chatty.ActsOn 0x0A (aCell 0x0A 5 1) ∧ cellByte (aCell 0x0A 5 1) 2 = 1 ∧
    (let s := { chatty with hb := { chatty.hb with bypass := true } }
     s.hbLive = true ∧ s.tile.addr = some 5 ∧ cellByte (aCell 0x0A 5 0) 1 = 5 ∧ cellNum (aCell 0x0A 5 0) 2 12 = 0 ∧
     s.flag HB_CELL_EN.BYPASS_SET 0 = true) := ⟨acts_own _ _ _ (by decide +kernel), by decide +kernel, by decide +kernel⟩

theorem witness_msg_cell : chatty.ActsOn 0x0B (aCell 0x0B 0xFF 0x3F) ∧ chatty.hb.rx.length = 8 ∧
    (online up).ActsOn 0x0B (aCell 0x0B 5 0xFE) ∧ (online up).hb.rx.length < 8 :=
  ⟨acts_all _ _ _ (by decide +kernel), by decide +kernel, acts_own _ _ _ (by decide +kernel), by decide +kernel⟩

theorem witness_msg_send : up.OpenReg .HB_MSG_TX_CTL 0 admin ∧ up.msgBusy = false ∧ chatty.OpenReg .HB_MSG_TX_CTL 0 admin ∧
    chatty.msgBusy = true ∧ up.OpenReg .HB_MSG_RX_STS 0 admin ∧ fget ((0xFF : W32).setWidth 64) 7 0 = 0xFF ∧
    chatty.hb.own = some (aCell 0x0B 3 5) ∧ up.hb.own = none ∧ zeroizing.OpenReg .HB_MSG_TX_CTL 0 admin ∧
    zeroizing.msgBusy = false ∧ zeroizing.hb.own ≠ none :=
  ⟨openReg_of _ _ _ _ (by decide +kernel), by decide +kernel, openReg_of _ _ _ _ (by decide +kernel), by decide +kernel,
    openReg_of _ _ _ _ (by decide +kernel), by decide +kernel, by decide +kernel, rfl, openReg_of _ _ _ _ (by decide +kernel),
    by decide +kernel, by decide +kernel⟩

theorem witness_own_cell : chatty.ownMayStart = true ∧ zeroizing.ownMayStart = true ∧
    ({ chatty with hb := { chatty.hb with elastic := 3 } } : State).ownMayStart = false ∧ chatty.hb.own.isSome = true := by decide +kernel

/-! ## Witnesses: clocks -/

/-- The clocks of a tile in READY that runs on a reference, with every PLL locked. -/
def clocked (f : Clk → Clk) : State :=
  let s := online (up.setReg .CLK_PLL_EN 0 0x3F)
  { s with clk := f { s.clk with ref := .hbref, hbOk := true, lock := 0x3F } }

theorem witness_clock_trip : ∀ u ∈ [false, true], ∀ a ∈ [false, true],
    let s := (clocked (fun c => { c with sbOk := u, ref := if a then .hbref else .sbosc })).putFlag CLK_REF_CFG.AUTO_FALLBACK 0 a
    s.tile.st ≠ TileState.powerOff ∧ s.tamp.sensActive.getLsbD 1 = false ∧ s.cp.stalled = [] ∧ s.uses .hbref = a ∧
    s.uses .sbosc = !a ∧ s.flag CLK_REF_CFG.AUTO_FALLBACK 0 = a ∧ s.clk.sbOk = u ∧ s.clk.lock.getLsbD 5 = true ∧
    s.clk.counting = false := by decide +kernel

theorem witness_trip_muted : let s := { clocked id with tamp := { sensActive := 2 } }
    s.tamp.sensActive.getLsbD 1 = true ∧ s.cp.stalled = [] := by decide +kernel

theorem witness_count :
    let s := (clocked (fun c => { c with counting := true, hbOk := false, fallback := true })).put CLK_FB_CNT.RESTARTS 0 2
    s.clk.counting = true ∧ s.cp.stalled = [] ∧ s.tile.st ≠ TileState.powerOff ∧ s.fld CLK_FB_CNT.RESTARTS 0 = 2 ∧
    s.clk.ref = .hbref ∧ s.clk.fallback = true ∧ s.clk.hbOk = false ∧ s.tamp.sensActive.getLsbD 1 = false ∧
    (clocked id).clk.counting = false ∧
    (let q := clocked (fun c => { c with counting := true, ref := .none, hbOk := false, commanded := true })
     q.clk.counting = true ∧ q.clk.ref = .none ∧ q.clk.commanded = true ∧ q.clk.fallback = false) ∧
    (let q := clocked (fun c => { c with sbOn := true }); q.clk.sbOn = true ∧ q.clk.sbOk = false) := by decide +kernel

theorem witness_hbref_qualify : ∀ r ∈ [Ref.none, .hbref, .sbosc, .switching],
    let s := clocked (fun c => { c with hbOk := false, ref := r, target := .sbosc, safe := true, lock := 0 })
    s.tile.st ≠ TileState.powerOff ∧ s.clk.hbOk = false ∧ s.hb.upSync = true ∧ s.cp.stalled = [] ∧ s.clk.ref = r ∧
    s.clk.await = 0 ∧ s.clk.target = .sbosc ∧ s.clk.sbOk = false := by decide +kernel

/-- A switch to r is under way; await are the PLLs that have to lock again. -/
def switching (r : Ref) (hb : Bool) (await : BitVec 6) : State :=
  clocked (fun c => { c with ref := .switching, target := r, from_ := if r = .sbosc then .hbref else .sbosc, hbOk := hb, sbOk := true, sbEdge := true
                             safe := true, lock := 0, await := await })

theorem witness_switch_due : (switching .hbref true 0).switchDue = true ∧ (switching .sbosc true 3).switchDue = true ∧
    (switching .hbref true 0).tile.st ≠ .powerOff ∧ (switching .hbref true 0).clk.fallback = false ∧
    (switching .hbref true 0).pending = [] ∧ up.switchDue = false ∧ flipping.switchDue = false := by decide +kernel

theorem witness_switch_timeout : (switching .sbosc false 3).clk.ref = .switching ∧ (switching .sbosc false 3).targetGood = true ∧
    (switching .hbref true 0).targetGood = true ∧ (switching .sbosc true 3).targetGood = true := by decide +kernel

/-- CPLL is locked again and PLL i is about to. -/
def relocking (i : Nat) (restart : Bool) : State :=
  let s := at' (clocked (fun c => { c with
    safe := true, lock := if i = 1 then 1 else 3, await := (1 : BitVec 6) <<< i, restart := if restart then (1 : BitVec 6) <<< i else 0 })) (if i = 1 then .addressed else .ready)
  { s with pwr := { s.pwr with core := decide (i ≠ 1) } }

theorem witness_pll_lock : ∀ i ∈ [1, 5], ∀ r ∈ [false, true], let s := relocking i r
    s.tile.st ≠ TileState.powerOff ∧ s.pllEn i = true ∧ s.clk.lock.getLsbD i = false ∧ s.clk.parkStop.getLsbD i = false ∧
    s.pllsDown = false ∧ s.cp.stalled = [] ∧ s.refGood = true ∧ s.clk.fallback = false ∧ s.clk.restart.getLsbD i = r ∧
    (s.tile.st = .addressed ↔ i = 1) := by decide +kernel

theorem witness_pll_lock_switch : let s := switching .hbref true 1
    s.pllEn 0 = true ∧ s.clk.lock.getLsbD 0 = false ∧ s.clk.ref = .switching ∧ s.clk.target = .hbref ∧ s.clk.hbOk = true ∧
    s.fromRuns = true ∧ s.pllsDown = false ∧ s.cp.stalled = [] := by decide +kernel

theorem witness_pll_unlock : (clocked id).refGood = true ∧ (clocked id).clk.lock.getLsbD 5 = true ∧ (clocked id).cp.stalled = [] := by
  decide +kernel

theorem witness_pll_relock : let s := clocked (fun c => { c with restart := 0x22 })
    s.clk.restart.getLsbD 1 = true ∧ s.clk.restart.getLsbD 5 = true ∧ s.fenceable = true ∧ s.tile.fencing = none ∧
    s.tamp.responding = false ∧ (inSt s ⟨.quad, 3⟩ .on true).blk (quadPg 3) = BlkState.on ∧ s.fenceFalls = true ∧
    (at' s .clocked).fenceFalls = true := by decide +kernel

theorem witness_clk_cmd : ∀ r ∈ [Ref.hbref, .sbosc, .switching, .none],
    (clocked (fun c => { c with ref := r })).OpenReg .CLK_CMD 0 admin ∧ (clocked (fun c => { c with ref := r })).clk.ref = r := by
  intro r hr
  fin_cases hr <;> exact ⟨openReg_of _ _ _ _ (by decide +kernel), rfl⟩

theorem witness_clk_writes : (clocked id).OpenReg .CLK_PLL_EN 0 admin ∧ (clocked id).OpenReg .CLK_EN 0 admin ∧
    (at' (clocked id) .alarmed).OpenReg .CLK_EN 0 admin ∧ (clocked id).OpenReg .CLK_COMPAT 0 admin ∧
    (clocked id).OpenReg .CLK_RUN_EN 0 admin ∧ (clocked id).OpenReg .CLK_SLEEP_EN 0 admin ∧
    (clocked id).OpenReg .CLK_DEEPSLEEP_EN 0 admin ∧ (clocked id).pllEn 5 = true ∧ (clocked id).flag CLK_COMPAT.COMPAT_MODE 0 = false ∧
    (clocked id).blk (quadPg 3) = BlkState.off :=
  ⟨openReg_of _ _ _ _ (by decide +kernel), openReg_of _ _ _ _ (by decide +kernel), openReg_of _ _ _ _ (by decide +kernel),
    openReg_of _ _ _ _ (by decide +kernel), openReg_of _ _ _ _ (by decide +kernel), openReg_of _ _ _ _ (by decide +kernel),
    openReg_of _ _ _ _ (by decide +kernel), by decide +kernel, by decide +kernel, by decide +kernel⟩

/-! ## Witnesses: power -/

theorem witness_sleep_go : (phased up .awake true).OpenReg .PWR_SLEEP 0 admin ∧ (phased up .awake true).sleepOk 2 = true ∧
    (phased (at' up .test) .awake true).OpenReg .PWR_SLEEP 0 admin ∧ (phased (at' up .test) .awake true).sleepOk 1 = false :=
  ⟨openReg_of _ _ _ _ (by decide +kernel), by decide +kernel, openReg_of _ _ _ _ (by decide +kernel), by decide +kernel⟩

theorem witness_pwr_cmd : ∀ p ∈ [Phase.awake, .draining, .saving, .committed, .asleep],
    (phased up p true).OpenReg .PWR_CMD 0 admin ∧ (phased up p true).pwr.phase = p := by
  intro p hp
  fin_cases hp <;> exact ⟨openReg_of _ _ _ _ (by decide +kernel), rfl⟩

/-- A sleep entry in a phase, with QENG and DIGEST ON. -/
def entering (p : Phase) (deep : Bool) : State :=
  let s := ons up [pg .qeng, pg .digest]
  { s with pwr := { s.pwr with phase := p, deep := deep } }

theorem witness_drain_done : ∀ d ∈ [false, true], (entering .draining d).working = true ∧
    (entering .draining d).pwr.phase = .draining ∧ (entering .draining d).sleepDrained = true ∧
    (entering .draining d).pwr.deep = d := by decide +kernel

/-- The slot image has been written. -/
def imageSaved (abandon : Bool) : State :=
  let s := entering .saving true
  { s with fab := { s.fab with mail := [{ id := 3, kind := .slotSave, left := 0 }] }, pwr := { s.pwr with abandon := abandon } }

theorem witness_save_done : ∀ a ∈ [false, true], (imageSaved a).working = true ∧ (imageSaved a).pwr.phase = .saving ∧
    (imageSaved a).ctx.store ≠ .flushing ∧ (imageSaved a).fab.xfers.any (fun x => x.kind == .slotSave && !x.dropped) = false ∧
    (imageSaved a).pwr.abandon = a ∧ (imageSaved a).imageWanted = false := by decide +kernel

theorem witness_commit : ∀ d ∈ [false, true], let s := { store with pwr := { (entering .committed d).pwr with wakeLatched := d } }
    s.pwr.phase = .committed ∧ s.asleep = false ∧ s.irq.msgs = [] ∧ s.clk.safe = false ∧ s.ctx.store ≠ .flushing ∧
    s.cp.stalled = [] ∧ s.pwr.deep = d ∧ s.flag CLK_COMPAT.COMPAT_MODE 0 = false := by decide +kernel

theorem witness_drain_timeout : (entering .saving true).pwr.phase = .saving ∧ (entering .saving true).saveStep = false ∧
    (let s := { entering .saving true with ctx := { store := .flushing } }; s.pwr.phase = .saving ∧ s.saveStep = true) := by
  decide +kernel

theorem witness_wake_pin : let s := (phased (at' up .sleep) .asleep true).putFlag PWR_WAKE_CFG.PIN 0 true
    s.tile.st ≠ TileState.powerOff ∧ (s.qual 4).st = .idle ∧ s.flag PWR_WAKE_CFG.PIN 0 = true ∧ s.pwr.phase ≠ .awake := by
  decide +kernel

theorem witness_wake_access : let s := phased (at' up .sleep) .asleep true
    let a := s.accessTo ⟨.quad, 3⟩ 0x40 4 0 admin
    s.cpAddressed a = true ∧ s.stalls a = false ∧ accPage a = some ⟨.quad, 3⟩ ∧ PageKind.keeper .quad = false ∧
    s.asleep = true ∧ s.pwr.phase = .asleep ∧ (phased up .committed true).cpAddressed a = true := by decide +kernel

theorem witness_wake_timer : let s := (phased (at' up .sleep) .asleep true).putFlag PWR_WAKE_CFG.TIMER_EN 0 true
    s.flag PWR_WAKE_CFG.TIMER_EN 0 = true ∧ s.pwr.phase = .asleep := by decide +kernel

/-- A wake is under way from a state; the reference is HBREF. -/
def waking (s : State) (t : TileState) (restored alarmed : Bool) (keep : Option Keep) : State :=
  let s := online (at' s t)
  { s with
    pwr := { s.pwr with phase := .waking, deep := t == .deepSleep, restored := restored, alarmed := alarmed, keep := keep }
    clk := { s.clk with ref := .hbref, hbOk := true } }

theorem witness_wake_complete : ∀ x ∈ [(TileState.sleep, false, false), (.sleep, false, true), (.deepSleep, false, false),
      (.deepSleep, true, false), (.deepSleep, false, true)],
    let s := waking store x.1 x.2.1 x.2.2 (some { regs := [], en := [12] })
    s.pwr.phase = .waking ∧ s.refGood = true ∧ s.tile.st = x.1 ∧ s.pwr.restored = x.2.1 ∧ s.pwr.alarmed = x.2.2 ∧
    (∀ p ∈ allBlocks, (s.hdr p).st ≠ .comingUp) ∧ (x.1 = .sleep → s.domRet 38 = true) := by decide +kernel

theorem witness_keep_back : let s := waking (ons up [pg .bignum]) .deepSleep false false (some { regs := [], en := [12] })
    (s.hdr (pg .bignum)).st = .on ∧ pg .bignum ∈ allBlocks ∧ ([12] : List Nat).contains (pageNum (pg .bignum)) = true ∧
    s.flag CLK_COMPAT.COMPAT_MODE 0 = false ∧
    (∀ p ∈ allBlocks, (up.hdr p).st = .off ∨ (up.hdr p).st = .fenced) := by decide +kernel

theorem witness_pgood_timeout : ∀ d ∈ [1, 7, 23, 32, 38, 101, 106, 111], let s := inSt (waking store .sleep false false none) ⟨.lane, 15⟩ .comingUp true
    s.pwr.core = true ∧ s.pwr.phase = .waking ∧ 0 < d ∧ d < 112 ∧ pg .ctx ∈ domBlocks 106 ∧ s.blk (pg .ctx) = .on := by
  decide +kernel

theorem witness_pgood_core : let s := at' { up with tile := { up.tile with prev := .clocked } } .bringUp
    s.pwr.core = true ∧ s.pwr.phase = .awake ∧ s.pwr.alarmed = false ∧ s.tile.st = .bringUp ∧ s.tile.prev = .clocked ∧
    (∀ p ∈ allBlocks, s.blk p = .off) ∧ s.fenceFalls = true ∧ s.tile.fencing = none ∧ s.tamp.responding = false := by decide +kernel

theorem witness_pgood_lost : store.domOn 38 = true ∧ store.domOn 1 = true ∧ store.domOn 20 = true ∧ store.blk ⟨.lane, 12⟩ = .on ∧
    (⟨.lane, 12⟩ : PageRef) ∈ domBlocks 20 ∧ store.fenceable = true ∧ store.tile.fencing = none ∧ store.tamp.responding = false ∧
    store.flag PWR_FAULT_INFO.VALID 0 = false := by decide +kernel

theorem witness_park : let s := (store.putFlag PWR_PARK.LANE_EN 0 true).putFlag PWR_PARK.QUAD_EN 0 true
    let p := s.setLane 12 { s.lane 12 with parked := true }
    s.working = true ∧ s.flag PWR_PARK.LANE_EN 0 = true ∧ s.isOn (lanePg 12) = true ∧ (s.lane 12).frames = [] ∧
    (s.lane 12).check = .idle ∧ (s.lane 12).unparking = false ∧ p.working = true ∧ p.flag PWR_PARK.QUAD_EN 0 = true ∧
    p.isOn (quadPg 3) = true ∧ (p.quad 3).parked = false ∧ (p.quad 3).staged = 0 ∧
    p.frames.list.all (fun f => f.quad != 3) = true ∧
    (∀ n, n ∈ [12, 13, 14, 15] → (p.lane n).parked = true ∨ p.blk (lanePg n) = .off ∨ p.blk (lanePg n) = .fenced) := by
  decide +kernel

theorem witness_vdd_ao : State.reset.tile.st = TileState.powerOff := by decide +kernel

/-! ## Witnesses: tamper and containment -/

/-- Qualifier i is in a state, with a number of short pulses; inputs 0 and 2 are enabled, and Q4 and Q5 have their users. -/
def qualified (i : Nat) (st : QualSt) (raw : Bool) (short : Nat) : State :=
  let s := store.setReg .TAMP_XIN_CFG 0 0x0908
  let s := ((s.putFlag PWR_WAKE_CFG.PIN 0 true).put TAMP_XSENS_CFG.HBLINE 0 1).put TAMP_XQUAL.CHATTER_LIM 0 3
  ({ s with pwr := { s.pwr with phase := .draining } }).setQual i { st := st, raw := raw, short := short }

theorem witness_qual : ∀ i, i < 6 → ∀ x ∈ [QualSt.idle, .qualifying, .latched, .armable], ∀ n ∈ [0, 2],
    let s := qualified i x (n == 2) n
    s.tile.st ≠ TileState.powerOff ∧ (s.qual i).st = x ∧ (s.qual i).raw = (n == 2) ∧
    (n = 2 → max 1 (s.fld TAMP_XQUAL.CHATTER_LIM 0) ≤ min ((s.qual i).short + 1) 255) ∧
    (n = 0 → min ((s.qual i).short + 1) 255 < max 1 (s.fld TAMP_XQUAL.CHATTER_LIM 0)) := by decide +kernel

theorem witness_qual_users : let s := qualified 0 .qualifying true 0
    s.tampEn 0 = true ∧ s.tampEn 1 = false ∧ s.tampEn 2 = true ∧ s.tampClass 2 = 1 ∧ s.fld TAMP_XSENS_CFG.HBLINE 0 = 1 ∧
    s.flag PWR_WAKE_CFG.PIN 0 = true ∧ s.pwr.phase ≠ .awake ∧ s.tamp.responding = false := by decide +kernel

theorem witness_qual_clr : (qualified 1 .latched true 0).OpenReg .TAMP_QUAL_CLR 0 admin ∧
    (at' (qualified 1 .armable true 0) .alarmed).OpenReg .TAMP_QUAL_CLR 0 admin :=
  ⟨openReg_of _ _ _ _ (by decide +kernel), openReg_of _ _ _ _ (by decide +kernel)⟩

theorem witness_sensor : ∀ x ∈ [Sensor.temp, .clk, .vcore, .vsram], let s := store.put TAMP_XSENS_CFG.CLK 0 1
    s.tile.st ≠ TileState.powerOff ∧ bitAt (s.fld TAMP_SENS_STS.LATCHED 0) (Sensor.bit x) = false ∧
    (s.sensClass x = 3 ↔ x = .temp) ∧
    bitAt ((s.put TAMP_SENS_STS.LATCHED 0 15).fld TAMP_SENS_STS.LATCHED 0) (Sensor.bit x) = true := by decide +kernel

/-- A tamper response of FENCE_KEYS runs; completions wait in the crown. -/
def responding (ks : List Compl) : State :=
  { store with
    tamp := { wiping := false, draining := true, cls := 2, responding := true }
    crown := { store.crown with waiting := ks } }

theorem witness_response : let k : Compl := { elem := elem 0x14 16, status := 0x12 }
    (responding [k]).tamp.draining = true ∧ (responding [k]).crownDrained = false ∧ (responding []).crownDrained = true ∧
    (responding [k]).crown.fifos = [] ∧ (responding [k]).crown.stalled = [] ∧ (responding [k]).crown.cqs = [] ∧
    ({ store with tamp := { store.tamp with wiping := true } } : State).tamp.wiping = true ∧
    (responding [k]).tamp.responding = true ∧ classRank (responding [k]).tamp.cls < classRank 0 := by decide +kernel

/-- The tile is ALARMED by input 2 under FENCE_KEYS. -/
def alarmed (q : QualSt) : State :=
  let s := at' (up.put TAMP_STS.CAUSE 0 4) .alarmed
  ({ s with key := { s.key with noMask := true } }).setQual 2 { st := q }

theorem witness_clear_alarm : (alarmed .armable).OpenReg .TAMP_CMD 0 admin ∧ (alarmed .armable).clearOk = true ∧
    (alarmed .armable).key.noMask = true ∧ (alarmed .latched).OpenReg .TAMP_CMD 0 admin ∧ (alarmed .latched).clearOk = false :=
  ⟨openReg_of _ _ _ _ (by decide +kernel), by decide +kernel, rfl, openReg_of _ _ _ _ (by decide +kernel), by decide +kernel⟩

theorem witness_seal : (unlocked up (pg .tamper)).OpenReg .TAMP_XIN_CFG 0 admin := openReg_of _ _ _ _ (by decide +kernel)

/-- Queue 9, CQ 5 and DMA channel 2 are function 33's. -/
def functioned : State :=
  let s := ((up.put RQ_CFG.FUNC 9 33).put CQ_CFG.FUNC 5 33).updHdr (dchPg 2) (fun h => { h with ownerValid := true, ownerFunc := 33 })
  (s.updRq 9 (fun x => { x with st := .active, acc := [{ idx := 4, lap := 1, d := {} }] })).setCq 5 { st := .on }

theorem witness_fn_fence : functioned.OpenReg .FLT_FUNC_FORCE 0 admin ∧ functioned.fnFenced 33 = false ∧
    functioned.fld RQ_CFG.FUNC 9 = 33 ∧ (functioned.rq 9).st = .active ∧ functioned.fld CQ_CFG.FUNC 5 = 33 ∧
    (functioned.cq 5).st = .on ∧ (functioned.hdr (dchPg 2)).ownerValid = true ∧
    (functioned.put FLT_FUNC.MAP 1 2).OpenReg .FLT_FUNC_FORCE 0 admin ∧ (functioned.put FLT_FUNC.MAP 1 2).fnFenced 33 = true :=
  ⟨openReg_of _ _ _ _ (by decide +kernel), by decide +kernel, by decide +kernel, by decide +kernel, by decide +kernel,
    by decide +kernel, by decide +kernel, openReg_of _ _ _ _ (by decide +kernel), by decide +kernel⟩

theorem witness_fn_clear : (up.put FLT_FUNC.MAP 1 2).OpenReg .FLT_FUNC (33 / 32) admin ∧
    (up.put FLT_FUNC.MAP 1 2).fnFenced 33 = true ∧ (up.put FLT_FUNC.MAP 1 2).fnQuiet 33 = true ∧
    (functioned.put FLT_FUNC.MAP 1 2).OpenReg .FLT_FUNC (33 / 32) admin ∧
    (functioned.put FLT_FUNC.MAP 1 2).fnQuiet 33 = false ∧ up.OpenReg .FLT_FUNC (33 / 32) admin ∧ up.fnFenced 33 = false :=
  ⟨openReg_of _ _ _ _ (by decide +kernel), by decide +kernel, by decide +kernel, openReg_of _ _ _ _ (by decide +kernel),
    by decide +kernel, openReg_of _ _ _ _ (by decide +kernel), by decide +kernel⟩

/-- The tile is being fenced for cause 0x11. -/
def fencingTile : State :=
  let s := inSt (inSt store (pg .digest) .comingUp true) (pg .bignum) .goingDown false
  { s with tile := { s.tile with fencing := some 0x11, fence := ⟨0x11, 5, true⟩ } }

theorem witness_tile_fence : fencingTile.tile.fencing ≠ none ∧ fencingTile.blk (pg .digest) = .comingUp ∧
    fencingTile.blk (pg .ctx) = .on ∧ fencingTile.blk (pg .bignum) = .goingDown ∧ up.tile.fencing = none ∧
    pg .bignum ∈ allBlocks := by decide +kernel

/-- A self-test of the lanes, the context store and key custody runs. -/
def selftesting : State :=
  let s := at' store .test
  s.setReg .TILE_SELFTEST_STS 0 0x80310000

theorem witness_selftest : (at' store .test).OpenReg .TILE_SELFTEST 0 admin ∧ (at' store .test).tile.st = .test ∧
    (at' store .test).flag TILE_SELFTEST_STS.BUSY 0 = false ∧ store.OpenReg .TILE_SELFTEST 0 admin ∧
    store.tile.st ≠ .bringUp ∧ store.tile.st ≠ .test ∧ selftesting.working = true ∧
    selftesting.flag TILE_SELFTEST_STS.BUSY 0 = true ∧ bitAt (selftesting.fld TILE_SELFTEST_STS.RAN 0) 0 = true ∧
    selftesting.selfUnits 0 ≠ [] :=
  ⟨openReg_of _ _ _ _ (by decide +kernel), by decide +kernel, by decide +kernel, openReg_of _ _ _ _ (by decide +kernel),
    by decide +kernel, by decide +kernel, by decide +kernel, by decide +kernel, by decide +kernel, by decide +kernel⟩

/-! ## Witnesses: tracing, fabric ports, test wrapper -/

/-- PERF is ON, with a drawn seed. -/
def traced (v : Option W32) : State :=
  let s := ons up [pg .perf]
  { s with perf := { s.perf with seed := v } }

theorem witness_seed : (traced none).OpenReg .PERF_TAG_CFG 0 admin ∧ (traced none).isOn (pg .perf) = true ∧
    (traced none).working = true ∧ (traced none).perf.seed = none ∧ (traced (some 5)).perf.seed = some 5 ∧
    (traced (some 0)).perf.seed = some 0 :=
  ⟨openReg_of _ _ _ _ (by decide +kernel), by decide +kernel, by decide +kernel, rfl, rfl, rfl⟩

theorem witness_trace_ring : (traced none).OpenReg .PERF_TRC_CFG 0 admin ∧ (traced none).flag PERF_TRC_CFG.EN 0 = false ∧
    ((traced none).putFlag PERF_TRC_CFG.EN 0 true).OpenReg .PERF_TRC_CFG 0 admin ∧
    ((traced none).putFlag PERF_TRC_CFG.EN 0 true).flag PERF_TRC_CFG.EN 0 = true :=
  ⟨openReg_of _ _ _ _ (by decide +kernel), by decide +kernel, openReg_of _ _ _ _ (by decide +kernel), by decide +kernel⟩

/-- An access of a transfer, first or again. -/
def anAccess (op : FabOp) (retry : Bool) : FabReq :=
  { op := op, addr := 0x12240, bytes := 64, attr := { func := 9 }, data := [], xfer := 3, off := 0, retry := retry }

/-- The access is outstanding on port 2 as read and as write 7; its transfer has some accesses left. -/
def accessing (op : FabOp) (retry dropped : Bool) (kind : XKind) (left : Nat) : State :=
  ({ up with fab := { up.fab with next := 4, xfers := [{ id := 3, kind := kind, left := left, dropped := dropped }] } }).setPort 2
    { reads := [(7, some (anAccess op retry))], writes := [(7, some (anAccess op retry))] }

theorem witness_access : ∀ op ∈ [FabOp.read, .write], ∀ b ∈ [(false, false), (true, false), (false, true)],
    let s := accessing op b.1 b.2 (.cqEntry 5 9) 1
    s.fabricOn = true ∧ Tbl.get none (s.port 2).reads 7 = some (anAccess op b.1) ∧
    Tbl.get none (s.port 2).writes 7 = some (anAccess op b.1) ∧
    s.xfer (anAccess op b.1).xfer = some { id := 3, kind := .cqEntry 5 9, left := 1, dropped := b.2 } ∧
    readFailure 0 63 (anAccess op b.1).bytes = some .short ∧ readFailure 0 64 (anAccess op b.1).bytes = none ∧
    (s.port 2).queue = [] ∧ s.flag FAB_ERR_INFO.VALID 0 = false ∧ Tbl.get none (s.port 2).reads 8 = none := by decide +kernel

theorem witness_access_kind : (XKind.cqEntry 5 9).waits = true := rfl

theorem witness_fabric_off : State.reset.fabricOn = false := by decide +kernel

theorem witness_wrapper : (at' up .test).wrapAllowed 6 = true ∧ up.wrapAllowed 6 = false ∧ up.wrapAllowed 1 = true ∧
    wrapWidth 0 = some 1 ∧ wrapWidth 1 = some 32 ∧ wrapWidth 2 = some 8 ∧ wrapWidth 4 = none ∧ up.wrapAllowed 3 = false := by
  decide +kernel

end Sys2Proof.Tests
end

section
/-! PROOFS. The statements of 00_scope.md: every command completes within its parts (O5), every step keeps the canonical form
(O3, O4), and what a write of a register without an effect of its own leaves (O8). -/

namespace Sys2Proof.Machine

/-! ## Every command stays within its parts (R1, R25, R29) -/

/-- Every command but the two of the always-on supply answers a next state, and changes nothing outside its parts. -/
theorem exec_within (c : Instr) (s : State) (hu : ∀ b, c ≠ .vddAoUp b) (hl : c ≠ .vddAoLoss) :
    ∃ t, exec c s = .next t ∧ s.Within (only (partsOf c)) t := by
  have hF := Part.all_only (partsOf c)
  cases c with
  | vddAoUp b => exact absurd rfl (hu b)
  | vddAoLoss => exact absurd rfl hl
  | registerWrite a => exact execRegisterWrite_within hF a (Within.refl s)
  | cpUnaddressedAccess write a => exact execCpUnaddressedAccess_within hF write a (Within.refl s)
  | pageLockWrite page value req => exact execPageLockWrite_within hF page value req (Within.refl s)
  | lockArmTimeout page => exact execLockArmTimeout_within hF page (Within.refl s)
  | blockEnWrite page en req => exact execBlockEnWrite_within hF page en req (Within.refl s)
  | blockInitDone page => exact execBlockInitDone_within hF page (Within.refl s)
  | blockShutdownDone page => exact execBlockShutdownDone_within hF page (Within.refl s)
  | transitionTimeout page => exact execTransitionTimeout_within hF page (Within.refl s)
  | softReset page req => exact execSoftReset_within hF page req (Within.refl s)
  | softResetDone page => exact execSoftResetDone_within hF page (Within.refl s)
  | pageOwnerWrite page value req => exact execPageOwnerWrite_within hF page value req (Within.refl s)
  | pageFenceForce page req => exact execPageFenceForce_within hF page req (Within.refl s)
  | registerParityError off => exact execRegisterParityError_within hF off (Within.refl s)
  | bringUpDone req => exact execBringUpDone_within hF req (Within.refl s)
  | enterTest req => exact execEnterTest_within hF req (Within.refl s)
  | leaveTest req => exact execLeaveTest_within hF req (Within.refl s)
  | fenceTile req => exact execFenceTile_within hF req (Within.refl s)
  | unfenceTile req => exact execUnfenceTile_within hF req (Within.refl s)
  | runIdleTimeout => exact execRunIdleTimeout_within hF (Within.refl s)
  | wdogKick value req => exact execWdogKick_within hF value req (Within.refl s)
  | wdogExpiry => exact execWdogExpiry_within hF (Within.refl s)
  | rqPoll rq => exact execRqPoll_within hF rq (Within.refl s)
  | rqDozePoll rq => exact execRqDozePoll_within hF rq (Within.refl s)
  | rqKick rq value req => exact execRqKick_within hF rq value req (Within.refl s)
  | fnRqKick fn value req => exact execFnRqKick_within hF fn value req (Within.refl s)
  | descFetchDone rq => exact execDescFetchDone_within hF rq (Within.refl s)
  | descFetchFail rq => exact execDescFetchFail_within hF rq (Within.refl s)
  | schedIssue => exact execSchedIssue_within hF (Within.refl s)
  | chainNextDispatch chain => exact execChainNextDispatch_within hF chain (Within.refl s)
  | dispatch n => exact execDispatch_within hF n (Within.refl s)
  | marker n => exact execMarker_within hF n (Within.refl s)
  | rqEnable rq value req => exact execRqEnable_within hF rq value req (Within.refl s)
  | rqDisable rq req => exact execRqDisable_within hF rq req (Within.refl s)
  | qengPause pause req => exact execQengPause_within hF pause req (Within.refl s)
  | frameDispatch n => exact execFrameDispatch_within hF n (Within.refl s)
  | frameStaged quad => exact execFrameStaged_within hF quad (Within.refl s)
  | macsecProtect lane => exact execMacsecProtect_within hF lane (Within.refl s)
  | macsecValidate lane => exact execMacsecValidate_within hF lane (Within.refl s)
  | espEncrypt lane => exact execEspEncrypt_within hF lane (Within.refl s)
  | espDecrypt lane => exact execEspDecrypt_within hF lane (Within.refl s)
  | gcmSeal lane => exact execGcmSeal_within hF lane (Within.refl s)
  | gcmOpen lane => exact execGcmOpen_within hF lane (Within.refl s)
  | chachaSeal lane => exact execChachaSeal_within hF lane (Within.refl s)
  | chachaOpen lane => exact execChachaOpen_within hF lane (Within.refl s)
  | frameDstWritesDone frame => exact execFrameDstWritesDone_within hF frame (Within.refl s)
  | laneError lane n cause stage => exact execLaneError_within hF lane n cause stage (Within.refl s)
  | laneReplayStart quad => exact execLaneReplayStart_within hF quad (Within.refl s)
  | laneCheckDone lane pass => exact execLaneCheckDone_within hF lane pass (Within.refl s)
  | laneCheckRun lane req => exact execLaneCheckRun_within hF lane req (Within.refl s)
  | lanePeriodicCheck lane => exact execLanePeriodicCheck_within hF lane (Within.refl s)
  | laneErrorInject lane value req => exact execLaneErrorInject_within hF lane value req (Within.refl s)
  | afailWindowEnd quad => exact execAfailWindowEnd_within hF quad (Within.refl s)
  | stagingEccError frame output => exact execStagingEccError_within hF frame output (Within.refl s)
  | pageinDone handle => exact execPageinDone_within hF handle (Within.refl s)
  | pageinFail handle => exact execPageinFail_within hF handle (Within.refl s)
  | missWayAllocate bank => exact execMissWayAllocate_within hF bank (Within.refl s)
  | sweepPass => exact execSweepPass_within hF (Within.refl s)
  | ctxWritebackDone handle => exact execCtxWritebackDone_within hF handle (Within.refl s)
  | ctxWritebackFail handle => exact execCtxWritebackFail_within hF handle (Within.refl s)
  | nodeWritebackDone node => exact execNodeWritebackDone_within hF node (Within.refl s)
  | ctxEccCorrected target => exact execCtxEccCorrected_within hF target (Within.refl s)
  | ctxEccUncorrectable target => exact execCtxEccUncorrectable_within hF target (Within.refl s)
  | ctxInstall => exact execCtxInstall_within hF (Within.refl s)
  | ctxArmNext => exact execCtxArmNext_within hF (Within.refl s)
  | ctxRetire => exact execCtxRetire_within hF (Within.refl s)
  | ctxAudit => exact execCtxAudit_within hF (Within.refl s)
  | ctxInit req => exact execCtxInit_within hF req (Within.refl s)
  | ctxFlush req => exact execCtxFlush_within hF req (Within.refl s)
  | retireHandle handle req => exact execRetireHandle_within hF handle req (Within.refl s)
  | ctxCmdDone => exact execCtxCmdDone_within hF (Within.refl s)
  | learnEnable value req => exact execLearnEnable_within hF value req (Within.refl s)
  | epochArm cell => exact execEpochArm_within hF cell (Within.refl s)
  | epochFlip cell => exact execEpochFlip_within hF cell (Within.refl s)
  | epochCtlArm req => exact execEpochCtlArm_within hF req (Within.refl s)
  | epochCtlSched req => exact execEpochCtlSched_within hF req (Within.refl s)
  | epochCtlCancel req => exact execEpochCtlCancel_within hF req (Within.refl s)
  | epochGuardClose => exact execEpochGuardClose_within hF (Within.refl s)
  | epochFlipDue => exact execEpochFlipDue_within hF (Within.refl s)
  | crownAccept => exact execCrownAccept_within hF (Within.refl s)
  | entryWriteDone cq => exact execEntryWriteDone_within hF cq (Within.refl s)
  | entryWriteFail cq => exact execEntryWriteFail_within hF cq (Within.refl s)
  | mirrorWriteIssue cq => exact execMirrorWriteIssue_within hF cq (Within.refl s)
  | mirrorWriteDone cq => exact execMirrorWriteDone_within hF cq (Within.refl s)
  | cqConsWrite cq value req => exact execCqConsWrite_within hF cq value req (Within.refl s)
  | fnCqConsWrite fn value req => exact execFnCqConsWrite_within hF fn value req (Within.refl s)
  | cqEnable cq value req => exact execCqEnable_within hF cq value req (Within.refl s)
  | cqDisable cq req => exact execCqDisable_within hF cq req (Within.refl s)
  | vectorTimerExpiry v => exact execVectorTimerExpiry_within hF v (Within.refl s)
  | eventMsgAccepted => exact execEventMsgAccepted_within hF (Within.refl s)
  | hostSleepEnter req => exact execHostSleepEnter_within hF req (Within.refl s)
  | hostSleepExit req => exact execHostSleepExit_within hF req (Within.refl s)
  | irqFlushAll req => exact execIrqFlushAll_within hF req (Within.refl s)
  | irqFlushVector v req => exact execIrqFlushVector_within hF v req (Within.refl s)
  | irqForceEvent v req => exact execIrqForceEvent_within hF v req (Within.refl s)
  | irqVecCfgWrite v value req => exact execIrqVecCfgWrite_within hF v value req (Within.refl s)
  | pageEventEnWrite page value req => exact execPageEventEnWrite_within hF page value req (Within.refl s)
  | digest ch => exact execDigest_within hF ch (Within.refl s)
  | hmac ch => exact execHmac_within hF ch (Within.refl s)
  | digestContinue ch => exact execDigestContinue_within hF ch (Within.refl s)
  | hmacLoad ch => exact execHmacLoad_within hF ch (Within.refl s)
  | hmacClear ch => exact execHmacClear_within hF ch (Within.refl s)
  | digestBudgetExpiry core => exact execDigestBudgetExpiry_within hF core (Within.refl s)
  | digestHoldTimeout ch => exact execDigestHoldTimeout_within hF ch (Within.refl s)
  | dcoreError core cause => exact execDcoreError_within hF core cause (Within.refl s)
  | dcoreCheckDone core pass => exact execDcoreCheckDone_within hF core pass (Within.refl s)
  | dcoreCheckRun core req => exact execDcoreCheckRun_within hF core req (Within.refl s)
  | dcoreErrorInject core value req => exact execDcoreErrorInject_within hF core value req (Within.refl s)
  | digestStateEcc ch => exact execDigestStateEcc_within hF ch (Within.refl s)
  | slotEccError slot => exact execSlotEccError_within hF slot (Within.refl s)
  | modexp ch => exact execModexp_within hF ch (Within.refl s)
  | ecdh ch => exact execEcdh_within hF ch (Within.refl s)
  | ecdsaSign ch => exact execEcdsaSign_within hF ch (Within.refl s)
  | ecdsaVerify ch => exact execEcdsaVerify_within hF ch (Within.refl s)
  | x25519 ch => exact execX25519_within hF ch (Within.refl s)
  | ed25519Sign ch => exact execEd25519Sign_within hF ch (Within.refl s)
  | ed25519Verify ch => exact execEd25519Verify_within hF ch (Within.refl s)
  | mlkemKeygen ch => exact execMlkemKeygen_within hF ch (Within.refl s)
  | mlkemEncaps ch => exact execMlkemEncaps_within hF ch (Within.refl s)
  | mlkemDecaps ch => exact execMlkemDecaps_within hF ch (Within.refl s)
  | mldsaSign ch => exact execMldsaSign_within hF ch (Within.refl s)
  | mldsaVerify ch => exact execMldsaVerify_within hF ch (Within.refl s)
  | bnKeyLoad ch => exact execBnKeyLoad_within hF ch (Within.refl s)
  | bnKeyGen ch => exact execBnKeyGen_within hF ch (Within.refl s)
  | bnKeyClear ch => exact execBnKeyClear_within hF ch (Within.refl s)
  | bnBudgetExpiry unit => exact execBnBudgetExpiry_within hF unit (Within.refl s)
  | bnPrivPreempt unit => exact execBnPrivPreempt_within hF unit (Within.refl s)
  | bnRngTimeout ch => exact execBnRngTimeout_within hF ch (Within.refl s)
  | bnResplitDue ch => exact execBnResplitDue_within hF ch (Within.refl s)
  | bnCheckFail ch unit cause => exact execBnCheckFail_within hF ch unit cause (Within.refl s)
  | bnUnitCheckDone unit pass => exact execBnUnitCheckDone_within hF unit pass (Within.refl s)
  | bnKeyEcc ch => exact execBnKeyEcc_within hF ch (Within.refl s)
  | bnCheckRun req => exact execBnCheckRun_within hF req (Within.refl s)
  | bnChanCfgWrite ch value req => exact execBnChanCfgWrite_within hF ch value req (Within.refl s)
  | bnIdleHoldoff => exact execBnIdleHoldoff_within hF (Within.refl s)
  | bnErrorInject value req => exact execBnErrorInject_within hF value req (Within.refl s)
  | battBoundary batts => exact execBattBoundary_within hF batts (Within.refl s)
  | healthWindowEnd => exact execHealthWindowEnd_within hF (Within.refl s)
  | estimateWindowEnd => exact execEstimateWindowEnd_within hF (Within.refl s)
  | fullerStallTimeout => exact execFullerStallTimeout_within hF (Within.refl s)
  | instantiate => exact execInstantiate_within hF (Within.refl s)
  | reseed => exact execReseed_within hF (Within.refl s)
  | generateCall => exact execGenerateCall_within hF (Within.refl s)
  | rngReadyTimeout => exact execRngReadyTimeout_within hF (Within.refl s)
  | random => exact execRandom_within hF (Within.refl s)
  | randomTimeout => exact execRandomTimeout_within hF (Within.refl s)
  | rngSwDataRead req => exact execRngSwDataRead_within hF req (Within.refl s)
  | rngCellEnWrite value req => exact execRngCellEnWrite_within hF value req (Within.refl s)
  | reseedForce req => exact execReseedForce_within hF req (Within.refl s)
  | rawCaptureStart value req => exact execRawCaptureStart_within hF value req (Within.refl s)
  | rngDatapathError cleared => exact execRngDatapathError_within hF cleared (Within.refl s)
  | keyPortRequest => exact execKeyPortRequest_within hF (Within.refl s)
  | rootTransfer words last => exact execRootTransfer_within hF words last (Within.refl s)
  | keyPortTimeout => exact execKeyPortTimeout_within hF (Within.refl s)
  | keyPortRetryWait => exact execKeyPortRetryWait_within hF (Within.refl s)
  | keyDerive => exact execKeyDerive_within hF (Within.refl s)
  | kdf => exact execKdf_within hF (Within.refl s)
  | zeroize req => exact execZeroize_within hF req (Within.refl s)
  | attest req => exact execAttest_within hF req (Within.refl s)
  | attestDone => exact execAttestDone_within hF (Within.refl s)
  | pounceNow req => exact execPounceNow_within hF req (Within.refl s)
  | portRetry req => exact execPortRetry_within hF req (Within.refl s)
  | pounceDue => exact execPounceDue_within hF (Within.refl s)
  | pounceBankRemask bank => exact execPounceBankRemask_within hF bank (Within.refl s)
  | pouncePassDone => exact execPouncePassDone_within hF (Within.refl s)
  | pounceOverdue => exact execPounceOverdue_within hF (Within.refl s)
  | keyDatapathError cleared => exact execKeyDatapathError_within hF cleared (Within.refl s)
  | dmaShdArm ch req => exact execDmaShdArm_within hF ch req (Within.refl s)
  | dmaTransferEnd ch => exact execDmaTransferEnd_within hF ch (Within.refl s)
  | dmaRingPoll ch => exact execDmaRingPoll_within hF ch (Within.refl s)
  | dmaKick ch req => exact execDmaKick_within hF ch req (Within.refl s)
  | dmaResume ch req => exact execDmaResume_within hF ch req (Within.refl s)
  | dmaDisable ch req => exact execDmaDisable_within hF ch req (Within.refl s)
  | enum cell => exact execEnum_within hF cell (Within.refl s)
  | renum cell => exact execRenum_within hF cell (Within.refl s)
  | time cell => exact execTime_within hF cell (Within.refl s)
  | loop cell => exact execLoop_within hF cell (Within.refl s)
  | zeroizeAll cell => exact execZeroizeAll_within hF cell (Within.refl s)
  | sleepAll cell => exact execSleepAll_within hF cell (Within.refl s)
  | wake cell => exact execWake_within hF cell (Within.refl s)
  | bypassEnter cell => exact execBypassEnter_within hF cell (Within.refl s)
  | bypassLeave cell => exact execBypassLeave_within hF cell (Within.refl s)
  | msg cell => exact execMsg_within hF cell (Within.refl s)
  | msgSend value req => exact execMsgSend_within hF value req (Within.refl s)
  | msgPop req => exact execMsgPop_within hF req (Within.refl s)
  | ownCellSend => exact execOwnCellSend_within hF (Within.refl s)
  | cellCrcFail cell crc => exact execCellCrcFail_within hF cell crc (Within.refl s)
  | stompedCell cell => exact execStompedCell_within hF cell (Within.refl s)
  | unknownCell cell => exact execUnknownCell_within hF cell (Within.refl s)
  | upstreamLoss => exact execUpstreamLoss_within hF (Within.refl s)
  | upstreamSync => exact execUpstreamSync_within hF (Within.refl s)
  | downstreamTermCheck present => exact execDownstreamTermCheck_within hF present (Within.refl s)
  | holdReceived => exact execHoldReceived_within hF (Within.refl s)
  | timeStale => exact execTimeStale_within hF (Within.refl s)
  | clockTrip mon => exact execClockTrip_within hF mon (Within.refl s)
  | hbrefQualify => exact execHbrefQualify_within hF (Within.refl s)
  | sboscCountStart => exact execSboscCountStart_within hF (Within.refl s)
  | sboscJudged => exact execSboscJudged_within hF (Within.refl s)
  | sboscCountRestart => exact execSboscCountRestart_within hF (Within.refl s)
  | switchHandshakeTimeout => exact execSwitchHandshakeTimeout_within hF (Within.refl s)
  | pllLock pll => exact execPllLock_within hF pll (Within.refl s)
  | pllUnlock pll => exact execPllUnlock_within hF pll (Within.refl s)
  | pllRelockTimeout pll => exact execPllRelockTimeout_within hF pll (Within.refl s)
  | useHbref req => exact execUseHbref_within hF req (Within.refl s)
  | useSbosc req => exact execUseSbosc_within hF req (Within.refl s)
  | clkPllEnWrite value req => exact execClkPllEnWrite_within hF value req (Within.refl s)
  | clkEnWrite value req => exact execClkEnWrite_within hF value req (Within.refl s)
  | clkCompatWrite value req => exact execClkCompatWrite_within hF value req (Within.refl s)
  | clkMaskWrite mask value req => exact execClkMaskWrite_within hF mask value req (Within.refl s)
  | coreOn req => exact execCoreOn_within hF req (Within.refl s)
  | wakeCommand req => exact execWakeCommand_within hF req (Within.refl s)
  | cancelSleep req => exact execCancelSleep_within hF req (Within.refl s)
  | sleepGo target req => exact execSleepGo_within hF target req (Within.refl s)
  | sleepDrainDone => exact execSleepDrainDone_within hF (Within.refl s)
  | sleepSaveDone => exact execSleepSaveDone_within hF (Within.refl s)
  | sleepCommit => exact execSleepCommit_within hF (Within.refl s)
  | drainTimeout => exact execDrainTimeout_within hF (Within.refl s)
  | wakePin => exact execWakePin_within hF (Within.refl s)
  | wakeAccess write a => exact execWakeAccess_within hF write a (Within.refl s)
  | wakeTimer => exact execWakeTimer_within hF (Within.refl s)
  | wakeComplete keepOk bad => exact execWakeComplete_within hF keepOk bad (Within.refl s)
  | pgoodTimeout pd retryOk => exact execPgoodTimeout_within hF pd retryOk (Within.refl s)
  | pgoodLost pd => exact execPgoodLost_within hF pd (Within.refl s)
  | supplyGlitch sram => exact execSupplyGlitch_within hF sram (Within.refl s)
  | lanePark lane => exact execLanePark_within hF lane (Within.refl s)
  | quadPark quad => exact execQuadPark_within hF quad (Within.refl s)
  | qualInputActive input => exact execQualInputActive_within hF input (Within.refl s)
  | qualHoldDone input => exact execQualHoldDone_within hF input (Within.refl s)
  | qualShortPulse input => exact execQualShortPulse_within hF input (Within.refl s)
  | qualRearmExpiry input => exact execQualRearmExpiry_within hF input (Within.refl s)
  | tampQualClr value req => exact execTampQualClr_within hF value req (Within.refl s)
  | sensorQualify sensor => exact execSensorQualify_within hF sensor (Within.refl s)
  | tamperWipeDone => exact execTamperWipeDone_within hF (Within.refl s)
  | tamperDrainTimeout => exact execTamperDrainTimeout_within hF (Within.refl s)
  | tamperDrainDone => exact execTamperDrainDone_within hF (Within.refl s)
  | clearAlarm req => exact execClearAlarm_within hF req (Within.refl s)
  | tampSeal req => exact execTampSeal_within hF req (Within.refl s)
  | fltFuncForce fn req => exact execFltFuncForce_within hF fn req (Within.refl s)
  | fltFuncClear fn req => exact execFltFuncClear_within hF fn req (Within.refl s)
  | tileFenceFlushDone => exact execTileFenceFlushDone_within hF (Within.refl s)
  | selftestGo sel req => exact execSelftestGo_within hF sel req (Within.refl s)
  | selftestDone failed => exact execSelftestDone_within hF failed (Within.refl s)
  | perfTagCfgWrite value req => exact execPerfTagCfgWrite_within hF value req (Within.refl s)
  | perfSeedArrive => exact execPerfSeedArrive_within hF (Within.refl s)
  | perfTrcEnable value req => exact execPerfTrcEnable_within hF value req (Within.refl s)
  | fabricReadResponse port id resp bytes data => exact execFabricReadResponse_within hF port id resp bytes data (Within.refl s)
  | fabricWriteResponse port id resp => exact execFabricWriteResponse_within hF port id resp (Within.refl s)
  | fabricTimeout port write id => exact execFabricTimeout_within hF port write id (Within.refl s)
  | fabricLateResponse port write id => exact execFabricLateResponse_within hF port write id (Within.refl s)
  | wrapperInstruction code => exact execWrapperInstruction_within hF code (Within.refl s)
  | wrapperReset => exact execWrapperReset_within hF (Within.refl s)
  | registerRead a => exact execRegisterRead_within hF a (Within.refl s)
  | keyPortStrayWord => exact execKeyPortStrayWord_within hF (Within.refl s)
  | sensorRearmExpiry sensor => exact execSensorRearmExpiry_within hF sensor (Within.refl s)
  | laneUnparkDone lane => exact execLaneUnparkDone_within hF lane (Within.refl s)
  | mbistDone fail => exact execMbistDone_within hF fail (Within.refl s)
  | wrapperDataShift op => exact execWrapperDataShift_within hF op (Within.refl s)

/-- The chain address belongs to the ENUM and RENUM cells and to the always-on supply alone (R276). -/
theorem addr_not_in_partsOf (c : Instr) (hu : ∀ b, c ≠ .vddAoUp b) (hl : c ≠ .vddAoLoss) (he : ∀ x, c ≠ .enum x)
    (hr : ∀ x, c ≠ .renum x) : only (partsOf c) .addr = false := by
  cases c with
  | vddAoUp b => exact absurd rfl (hu b)
  | vddAoLoss => exact absurd rfl hl
  | enum x => exact absurd rfl (he x)
  | renum x => exact absurd rfl (hr x)
  | _ => rfl

/-- Settles O5: the frame of each command, of which the queue and the chain address are parts. -/
theorem everyCommandStaysWithinItsParts : Obligations.EveryCommandStaysWithinItsParts := by
  intro c s hu hl
  obtain ⟨t, ht, hw⟩ := exec_within c s hu hl
  exact ⟨t, ht, hw, hw.pending, fun he hr => hw.addr (addr_not_in_partsOf c hu hl he hr)⟩

/-! ## The canonical form (R10, R33) -/

/-- Settles O4: at reset neither table lists anything. -/
theorem resetTablesAreCanonical : Obligations.ResetTablesAreCanonical := ⟨rfl, rfl⟩

/-- The loss of vdd_ao leaves the tables of reset. -/
theorem aoLoss_canonical (s : State) : s.aoLoss.Canonical := resetTablesAreCanonical

/-- The rise of vdd_ao leaves the tables of reset, or those there were. -/
theorem aoUp_canonical (s : State) (b : BitVec 36) (h : s.Canonical) : (s.aoUp b).Canonical := by
  unfold State.aoUp
  split
  · exact h
  · exact aoLoss_canonical s

/-- Time that passes on an empty queue keeps the canonical form. -/
theorem idles_canonical (s : State) (h : s.Canonical) : s.idles.Canonical :=
  (idles_within (Part.all_only _) (Within.refl s)).canonical h

/-- Every command keeps the canonical form: by its frame, or because the always-on supply resets the tile. -/
theorem exec_canonical (c : Instr) (s t : State) (h : s.Canonical) (e : exec c s = .next t) : t.Canonical := by
  by_cases hl : c = .vddAoLoss
  · subst hl
    cases e
    exact aoLoss_canonical s
  by_cases hu : ∃ b, c = .vddAoUp b
  · obtain ⟨b, rfl⟩ := hu
    cases e
    exact aoUp_canonical s b h
  obtain ⟨u, hu', hw⟩ := exec_within c s (not_exists.mp hu) hl
  cases hu'.symm.trans e
  exact hw.canonical h

/-- Settles O3: on an empty queue time passes, and otherwise the front command runs on the same tables. -/
theorem stepKeepsTheTablesCanonical : Obligations.StepKeepsTheTablesCanonical := by
  intro s t h e
  unfold step at e
  split at e
  · cases e
    exact idles_canonical s h
  · next c rest _ => exact exec_canonical c { s with pending := rest } t h e

/-! ## Registers without an effect of their own (R10, R29, R35) -/

/-- No bit of a register is both written and write-one-to-clear, so the two halves of a write do not meet. -/
theorem bitsOf_rw_and_w1c (r : Reg) :
    r.bitsOf (fun a => a == .rw || a == .rwx) &&& r.bitsOf (fun a => a == .w1c) = 0#64 :=
  of_decide_eq_true (List.all_eq_true.mp
    (show allRegs.all (fun r => decide (r.bitsOf (fun a => a == .rw || a == .rwx) &&& r.bitsOf (fun a => a == .w1c) = 0))
      = true by decide +kernel) r (mem_allRegs r))

/-- What a plain write leaves of each bit, where the lock lets W1C bits be cleared. -/
theorem store_reg_getLsbD (s : State) (r : Reg) (n : Nat) (v mask : W64)
    (hl : r.desc.off < 0x800 ∨ s.lockOpen (regPage r n) = true) (i : Nat) :
    ((s.store r n v mask).reg r n).getLsbD i =
      if mask.getLsbD i && (r.bitsOf (fun a => a == .rw || a == .rwx)).getLsbD i then v.getLsbD i
      else if mask.getLsbD i && (r.bitsOf (fun a => a == .w1c)).getLsbD i then (s.reg r n).getLsbD i && !v.getLsbD i
      else (s.reg r n).getLsbD i := by
  have hc : (decide (r.desc.off < 0x800) || s.lockOpen (regPage r n) || r == .IRQ_VEC_CFG) = true := by
    rcases hl with h | h <;> simp [h]
  have hd : ((r.bitsOf (fun a => a == .rw || a == .rwx)).getLsbD i && (r.bitsOf (fun a => a == .w1c)).getLsbD i) = false := by
    rw [← BitVec.getLsbD_and, bitsOf_rw_and_w1c, BitVec.getLsbD_zero]
  rcases Nat.lt_or_ge i 64 with hi | hi
  · simp only [State.store, hc, if_true, reg_setReg_same, State.merged, BitVec.getLsbD_and, BitVec.getLsbD_or,
      BitVec.getLsbD_not, hi, decide_true, Bool.true_and]
    cases mask.getLsbD i
    · simp
    cases hrw : (r.bitsOf (fun a => a == .rw || a == .rwx)).getLsbD i
    · cases (r.bitsOf (fun a => a == .w1c)).getLsbD i <;> simp
    · have hw : (r.bitsOf (fun a => a == .w1c)).getLsbD i = false := by simpa [hrw] using hd
      simp [hw]
  · simp [BitVec.getLsbD_of_ge, hi]

/-- A plain write leaves every other register. -/
theorem store_reg_ne (s : State) {r r' : Reg} {n n' : Nat} (v mask : W64) (h : r' ≠ r ∨ n' ≠ n) :
    (s.store r n v mask).reg r' n' = s.reg r' n' := reg_setReg_ne s _ h

/-- The bits that a 32-bit write reaches. -/
theorem lowWord_getLsbD (i : Nat) : (0xFFFFFFFF : W64).getLsbD i = decide (i < 32) := by
  have h : (0xFFFFFFFF : W64) = (BitVec.allOnes 32).setWidth 64 := rfl
  rw [h, BitVec.getLsbD_setWidth, BitVec.getLsbD_allOnes]
  by_cases hi : i < 32
  · simp [hi, show i < 64 by omega]
  · simp [hi]

/-- A write of a register without an effect of its own that the port performs stores its word and is answered OK. -/
theorem exec_registerWrite_plain (s : State) (r : Reg) (n : Nat) (v : W32) (req : Req) (hp : r.plain = true)
    (h : s.OpenReg r n req) :
    exec (.registerWrite (s.accessTo (regPage r n) (regOff r n) 4 (v.setWidth 64) req)) s =
      .next (s.store r n (v.setWidth 64) 0xFFFFFFFF).answeredOk := by
  show Host.Outcome.next (s.cpAccess true _) = _
  rw [registerWrite_eq, cpReg_open s r n v req h, writeReg_plain _ _ _ _ _ hp]

/-- Settles O8: the write is a plain store of the low word, read off bit by bit. -/
theorem registerWriteTakesItsFields : Obligations.RegisterWriteTakesItsFields := by
  intro s r n v req hp h hl
  refine ⟨_, exec_registerWrite_plain s r n v req hp h, fun i hi => ?_, fun i hi => ?_, fun r' n' hne => ?_, rfl, rfl⟩
  · rw [answeredOk_reg, store_reg_getLsbD s r n _ _ hl, lowWord_getLsbD]
    simp [hi, show i < 64 by omega]
  · rw [answeredOk_reg, store_reg_getLsbD s r n _ _ hl, lowWord_getLsbD]
    simp [show ¬ i < 32 by omega]
  · rw [answeredOk_reg, store_reg_ne s _ _ hne]

end Sys2Proof.Machine
end

section
/-! PROOFS. The statements of 01_frame_path.md: dispatch of a frame to a quad and the hand-over to a lane (O25). -/

namespace Sys2Proof.Machine

/-! ## Completions that a producer pushes (R149) -/

/-- A stamp leaves the element but for its trace tag. -/
theorem Elem.stamp_eq (e : Elem) (pt now : Nat) : e.stamp pt now = { e with tag := (e.stamp pt now).tag } := by
  unfold Elem.stamp
  split
  · rfl
  · split <;> rfl

@[simp] theorem Elem.stamp_rq (e : Elem) (pt now : Nat) : (e.stamp pt now).rq = e.rq := by rw [Elem.stamp_eq]
@[simp] theorem Elem.stamp_idx (e : Elem) (pt now : Nat) : (e.stamp pt now).idx = e.idx := by rw [Elem.stamp_eq]
@[simp] theorem Elem.stamp_lap (e : Elem) (pt now : Nat) : (e.stamp pt now).lap = e.lap := by rw [Elem.stamp_eq]
@[simp] theorem Elem.stamp_func (e : Elem) (pt now : Nat) : (e.stamp pt now).func = e.func := by rw [Elem.stamp_eq]
@[simp] theorem Elem.stamp_cq (e : Elem) (pt now : Nat) : (e.stamp pt now).cq = e.cq := by rw [Elem.stamp_eq]
@[simp] theorem Elem.stamp_d (e : Elem) (pt now : Nat) : (e.stamp pt now).d = e.d := by rw [Elem.stamp_eq]

/-- What has been pushed is part of the crown. -/
theorem produced_congr {s t : State} (h : t.crown = s.crown) (p : Nat) : t.produced p = s.produced p := by
  unfold State.produced State.fifo; rw [h]

theorem raiseEvent_crown (s : State) (p : PageRef) (b : Nat) : (s.raiseEvent p b).crown = s.crown :=
  (raiseEvent_within (F := only [.hdrs, .irq]) (Part.all_only _) p b (Within.refl s)).crown rfl

/-- With a longer FIFO the producer has pushed one completion more. -/
theorem produced_setFifo (s : State) (p : Nat) (k : Compl) :
    ((s.setFifo p (s.fifo p ++ [k])).produced p).Perm (k :: s.produced p) := by
  have h : (s.setFifo p (s.fifo p ++ [k])).produced p =
      s.fifo p ++ k :: (s.crown.stalled.filter (fun x => x.1 == p)).map (fun x => x.2) := by
    simp [State.produced, State.fifo, State.setFifo]
  rw [h]
  exact List.perm_middle

/-- So it has with one completion more that stalls behind the FIFO. -/
theorem produced_stall (s : State) (p : Nat) (k : Compl) :
    (({ s with crown := { s.crown with stalled := s.crown.stalled ++ [(p, k)] } } : State).produced p).Perm
      (k :: s.produced p) := by
  have h : ({ s with crown := { s.crown with stalled := s.crown.stalled ++ [(p, k)] } } : State).produced p =
      s.produced p ++ [k] := by
    simp [State.produced, State.fifo]
  rw [h]
  exact List.perm_append_singleton k _

/-- A pushed completion is its producer's, whether it enters the FIFO or stalls. -/
theorem push_completes (s : State) (p : Nat) (c : Compl) : s.Completes (s.push p c) p c.elem c.status c.reason := by
  unfold State.push
  extract_lets d l r
  split
  · refine ⟨d.pushed s.now, ?_, rfl, rfl, ?_⟩
    · have hr : (r.produced p).Perm (d.pushed s.now :: s.produced p) := produced_setFifo s p _
      split
      · rwa [produced_congr (raiseEvent_crown _ _ _)]
      · exact hr
    · simp [Compl.pushed, d]
  · exact ⟨d, produced_stall s p d, rfl, rfl, rfl, rfl, rfl, rfl, rfl, rfl⟩

/-- What a push adds to is what had been pushed before the steps that left the crown alone. -/
theorem State.Completes.of_crown {s u t : State} {p st r : Nat} {e : Elem} (h : u.Completes t p e st r)
    (hc : u.crown = s.crown) : s.Completes t p e st r := by
  unfold State.Completes at h ⊢
  rwa [produced_congr hc] at h

/-- Later steps that leave the crown alone leave what was pushed. -/
theorem State.Completes.then_crown {s u t : State} {p st r : Nat} {e : Elem} (h : s.Completes u p e st r)
    (hc : t.crown = u.crown) : s.Completes t p e st r := by
  unfold State.Completes at h ⊢
  rwa [produced_congr hc]

/-- A completion of a stamped element is one of the element. -/
theorem State.Completes.of_stamp {s t : State} {p st r pt now : Nat} {e : Elem} (h : s.Completes t p (e.stamp pt now) st r) :
    s.Completes t p e st r := by
  simpa [State.Completes] using h

/-! ## An element leaves those that wait for dispatch (R54, R55) -/

theorem startRead_qeng (s : State) (k : XKind) (a : Attr) (x n : Nat) (p : Option Nat) :
    (s.startRead k a x n p).2.qeng = s.qeng :=
  (startRead_within (F := only [.regs, .hdrs, .irq, .fab]) (Part.all_only _) k a x n p (Within.refl s)).qeng rfl

/-- A refill reads descriptors; what has been issued stays. -/
theorem refill_issued (s : State) (q : Nat) : (s.refill q).qeng.issued = s.qeng.issued := by
  unfold State.refill
  split
  · unfold State.rqRead
    extract_lets
    split
    · rw [startRead_qeng]; rfl
    · rfl
  · rfl

/-- The element at place n leaves those issued. -/
theorem unissue_issued (s : State) (n : Nat) : (s.unissue n).qeng.issued = s.qeng.issued.eraseIdx n := by
  unfold State.unissue
  split
  · next h => exact (List.eraseIdx_of_length_le (List.getElem?_eq_none_iff.mp h)).symm
  · rw [refill_issued]; rfl

/-! ## The tile enters RUN (R43) -/

/-- Dispatch takes place in READY and RUN alone. -/
theorem tile_of_dispatching {s : State} (h : s.dispatching = true) : s.tile.st = .ready ∨ s.tile.st = .run := by
  simp only [State.dispatching, Bool.and_eq_true, Bool.or_eq_true, beq_iff_eq] at h
  exact h.1

/-- From READY the tile enters RUN and nothing else happens. -/
theorem enterRun_ready {s : State} (h : s.tile.st = .ready) :
    s.enterRun = { s with tile := { s.tile with st := .run, prev := .ready } } := by
  simp [State.enterRun, State.enterTile, State.wdogFollows, h]

theorem enterRun_run {s : State} (h : s.tile.st = .run) : s.enterRun = s := by
  simp [State.enterRun, h]

/-- In READY and RUN the first dispatch changes the tile's state alone. -/
theorem enterRun_within_tile {F : Part → Bool} {s : State} (hF : F .tile = true)
    (h : s.tile.st = .ready ∨ s.tile.st = .run) : s.Within F s.enterRun := by
  rcases h with h | h
  · rw [enterRun_ready h]
    exact { Within.refl s with tile := no_change hF }
  · rw [enterRun_run h]
    exact Within.refl s

theorem enterRun_st {s : State} (h : s.tile.st = .ready ∨ s.tile.st = .run) : s.enterRun.tile.st = .run := by
  rcases h with h | h
  · rw [enterRun_ready h]
  · rw [enterRun_run h, h]

/-- What a dispatch does before its outcome: the element leaves those issued and the tile enters RUN. -/
def State.dispatched (s : State) (n : Nat) : State := (s.unissue n).enterRun

theorem unissue_tile (s : State) (n : Nat) : (s.unissue n).tile = s.tile :=
  (unissue_within (F := only [.regs, .hdrs, .irq, .qeng, .fab]) (Part.all_only _) n (Within.refl s)).tile_eq rfl rfl

theorem dispatched_within {s : State} (n : Nat) (h : s.tile.st = .ready ∨ s.tile.st = .run) :
    s.Within (only [.tile, .regs, .hdrs, .irq, .qeng, .fab]) (s.dispatched n) := by
  rw [← unissue_tile s n] at h
  exact Within.trans (unissue_within (Part.All.of_all rfl) n (Within.refl s)) (enterRun_within_tile rfl h)

theorem dispatched_st {s : State} (n : Nat) (h : s.tile.st = .ready ∨ s.tile.st = .run) :
    (s.dispatched n).tile.st = .run :=
  enterRun_st (by rwa [unissue_tile])

theorem dispatched_issued {s : State} (n : Nat) (h : s.tile.st = .ready ∨ s.tile.st = .run) :
    (s.dispatched n).qeng.issued = s.qeng.issued.eraseIdx n := by
  rw [← unissue_tile s n] at h
  unfold State.dispatched
  rw [(enterRun_within_tile (F := only [.tile]) rfl h).qeng rfl, unissue_issued]

/-! ## Lanes, quads and staging (R71, R307) -/

theorem lane_congr {s t : State} (h : t.frames = s.frames) (n : Nat) : t.lane n = s.lane n := by
  unfold State.lane; rw [h]

theorem quad_congr {s t : State} (h : t.frames = s.frames) (q : Nat) : t.quad q = s.quad q := by
  unfold State.quad; rw [h]

theorem frame?_congr {s t : State} (h : t.frames.list = s.frames.list) (i : Nat) : t.frame? i = s.frame? i := by
  unfold State.frame?; rw [h]

theorem unparkLane_frames (s : State) (n m : Nat) :
    (s.unparkLane n).frames.list = s.frames.list ∧ (s.unparkLane n).frames.quads = s.frames.quads ∧
      ((s.unparkLane n).lane m).frames = (s.lane m).frames := by
  refine ⟨rfl, rfl, ?_⟩
  by_cases h : m = n
  · subst h; simp [State.unparkLane, State.updLane, State.lane, State.setLane]
  · simp [State.unparkLane, State.updLane, State.lane, State.setLane, Tbl.get_set_ne _ _ _ _ _ h]

/-- An unpark leaves the frames, the quads and what each lane holds. -/
theorem unparkNeed_frames (s : State) (q m : Nat) :
    (s.unparkNeed q).frames.list = s.frames.list ∧ (s.unparkNeed q).frames.quads = s.frames.quads ∧
      ((s.unparkNeed q).lane m).frames = (s.lane m).frames := by
  unfold State.unparkNeed
  extract_lets
  split
  · split
    · exact unparkLane_frames s _ m
    · exact ⟨rfl, rfl, rfl⟩
  · exact ⟨rfl, rfl, rfl⟩

theorem unparkNeed_list (s : State) (q : Nat) : (s.unparkNeed q).frames.list = s.frames.list :=
  (unparkNeed_frames s q 0).1

theorem unparkNeed_quad (s : State) (q p : Nat) : (s.unparkNeed q).quad p = s.quad p := by
  unfold State.quad; rw [(unparkNeed_frames s q 0).2.1]

theorem unparkNeed_lane (s : State) (q m : Nat) : ((s.unparkNeed q).lane m).frames = (s.lane m).frames :=
  (unparkNeed_frames s q m).2.2

@[simp] theorem quad_setQuad_same (s : State) (q : Nat) (x : Quad) : (s.setQuad q x).quad q = x := by
  simp [State.quad, State.setQuad]

@[simp] theorem quad_updQuad_same (s : State) (q : Nat) (f : Quad → Quad) : (s.updQuad q f).quad q = f (s.quad q) :=
  quad_setQuad_same _ _ _

@[simp] theorem lane_updLane_same (s : State) (n : Nat) (f : Lane → Lane) : (s.updLane n f).lane n = f (s.lane n) := by
  simp [State.updLane, State.lane, State.setLane]

@[simp] theorem updFrame_lane (s : State) (i : Nat) (g : Frame → Frame) (n : Nat) : (s.updFrame i g).lane n = s.lane n := rfl

@[simp] theorem updQuad_lane (s : State) (q : Nat) (f : Quad → Quad) (n : Nat) : (s.updQuad q f).lane n = s.lane n := rfl

@[simp] theorem updLane_frame? (s : State) (n : Nat) (f : Lane → Lane) (i : Nat) :
    (s.updLane n f).frame? i = s.frame? i := rfl

@[simp] theorem updQuad_frame? (s : State) (q : Nat) (f : Quad → Quad) (i : Nat) :
    (s.updQuad q f).frame? i = s.frame? i := rfl

/-- Staging changes the bytes held of its quad, and a register. -/
theorem stage_frames (s : State) (q a b : Nat) :
    (s.stage q a b).frames = (s.updQuad q (fun x => { x with staged := x.staged + a - b })).frames := by
  unfold State.stage
  extract_lets
  split <;> rfl

theorem stage_list (s : State) (q a b : Nat) : (s.stage q a b).frames.list = s.frames.list := by
  rw [stage_frames]; rfl

theorem stage_lane (s : State) (q a b n : Nat) : (s.stage q a b).lane n = s.lane n := by
  rw [lane_congr (stage_frames s q a b)]; rfl

theorem stage_staged (s : State) (q a b : Nat) : ((s.stage q a b).quad q).staged = (s.quad q).staged + a - b := by
  rw [quad_congr (stage_frames s q a b), quad_updQuad_same]

/-! ## The PN of a slot (R89, R90, R242) -/

@[simp] theorem Ctx.mask_slot_pn (c : Ctx) (k : BitVec 1024) (b : Bool) : ((c.mask k).slot b).pn = (c.slot b).pn := by
  cases b <;> rfl

@[simp] theorem Ctx.setSlot_slot (c : Ctx) (b : Bool) (x : Slot) : (c.setSlot b x).slot b = x := by
  cases b <;> rfl

@[simp] theorem way_updWay_same (s : State) (k : Nat) (f : Way → Way) : (s.updWay k f).way k = f (s.way k) := by
  simp [State.updWay, State.way, State.setWay]

/-- No mask lies over a PN. -/
theorem clearCtx_pn (s : State) (k : Nat) (b : Bool) : ((s.clearCtx k).slot b).pn = ((s.way k).ctx.slot b).pn :=
  Ctx.mask_slot_pn _ _ _

theorem way_congr {s t : State} (h : t.ctx = s.ctx) (k : Nat) : t.way k = s.way k := by
  unfold State.way; rw [h]

theorem findWay_congr {s t : State} (h : t.ctx = s.ctx) (i : Nat) : t.findWay i = s.findWay i := by
  unfold State.findWay; rw [h]

theorem modCtx_way (s : State) (k : Nat) (f : Ctx → Ctx) :
    ((s.modCtx k f).way k).ctx = (f (s.clearCtx k)).mask (s.wayKey k) := by
  unfold State.modCtx
  rw [way_updWay_same]
  rfl

/-- The assigned PN advances NEXT_PN of its slot. -/
theorem assignPn_pn (s : State) (k : Nat) (b : Bool) (pn f : Nat) :
    (((s.assignPn k b pn f).way k).ctx.slot b).pn = (pn + 1) % 2 ^ 64 := by
  unfold State.assignPn
  extract_lets c x hit t t1 t2 t3
  have ht : (((t.way k).ctx).slot b).pn = (pn + 1) % 2 ^ 64 := by
    show (((s.modCtx k _).way k).ctx.slot b).pn = _
    rw [modCtx_way, Ctx.mask_slot_pn, Ctx.setSlot_slot]
  split
  · have h3 : t.Within (only [.regs, .hdrs, .irq]) t3 :=
      put_within (Part.All.of_all rfl) (fun h => nomatch h) (putFlag_within (Part.All.of_all rfl) (fun h => nomatch h)
        (putFlag_within (Part.All.of_all rfl) (fun h => nomatch h) (Within.refl t)))
    have h4 : t.Within (only [.regs, .hdrs, .irq]) ((t3.raiseEvent (pg .ctx) 4).fnCount f 18 1) :=
      fnCount_within (Part.All.of_all rfl) _ _ _ (raiseEvent_within (Part.All.of_all rfl) _ _ h3)
    rwa [way_congr (h4.ctx rfl)]
  · exact ht

/-! ## A quad takes a frame (R16, R71, R74) -/

/-- The count of a frame, the read of its SRC and the unpark after it leave the frames, the bytes staged and the ways. -/
theorem srcRead_keeps (s : State) (q c k i a n : Nat) (x : Attr) :
    let t := ((s.perfCount c k).startRead (.frameSrc i) x a n (some q)).2.unparkNeed q
    t.frames.list = s.frames.list ∧ t.quad q = s.quad q ∧ t.ctx = s.ctx := by
  have h : s.Within (only [.regs, .hdrs, .irq, .fab]) ((s.perfCount c k).startRead (.frameSrc i) x a n (some q)).2 :=
    startRead_within (Part.All.of_all rfl) _ _ _ _ _ (perfCount_within (Part.All.of_all rfl) _ _ (Within.refl s))
  refine ⟨(unparkNeed_list _ _).trans (by rw [h.frames rfl]), (unparkNeed_quad _ _ _).trans (quad_congr (h.frames rfl) q), ?_⟩
  rw [(unparkNeed_within (F := only [.frames]) (Part.all_only _) q (Within.refl _)).ctx rfl, h.ctx rfl]

/-- A quad that takes a frame has it as its last, being read. -/
theorem quadAccept_list (s : State) (e : Elem) (k q : Nat) (b : Bool) (pn n : Nat) :
    ∃ f, (s.quadAccept e k q b pn n).frames.list = s.frames.list ++ [f] ∧ f.quad = q ∧ f.slotB = b ∧ f.pn = pn ∧
      f.st = .reading ∧ f.elem = e.stamp 2 s.now := by
  unfold State.quadAccept
  extract_lets x i f _ s1 s2 s3
  refine ⟨f, ?_, rfl, rfl, rfl, rfl, rfl⟩
  rw [(srcRead_keeps s3 q _ _ i _ _ _).1, show s3.frames.list = s2.frames.list from stage_list _ _ _ _]
  rfl

/-- Its bytes are charged to the quad's staging. -/
theorem quadAccept_staged (s : State) (e : Elem) (k q : Nat) (b : Bool) (pn n : Nat) :
    ((s.quadAccept e k q b pn n).quad q).staged = (s.quad q).staged + n := by
  unfold State.quadAccept
  extract_lets x i f _ s1 s2 s3
  rw [(srcRead_keeps s3 q _ _ i _ _ _).2.1]
  exact stage_staged s2 q n 0

/-- The way of its context is pinned; the context stays. -/
theorem quadAccept_ctx (s : State) (e : Elem) (k q : Nat) (b : Bool) (pn n : Nat) :
    ((s.quadAccept e k q b pn n).way k).ctx = (s.way k).ctx := by
  unfold State.quadAccept
  extract_lets x i f _ s1 s2 s3
  have h3 : s3.ctx = s2.ctx := (stage_within (F := only [.regs, .frames]) (Part.all_only _) q n 0 (Within.refl s2)).ctx rfl
  rw [way_congr ((srcRead_keeps s3 q _ _ i _ _ _).2.2.trans h3), show s2.way k = _ from way_updWay_same s1 k _]
  rfl

/-! ## FRAME_DISPATCH (R63, R72, R121) -/

theorem exec_frameDispatch {s : State} (n : Nat) (hw : s.working = true) :
    exec (.frameDispatch n) s = .next (s.frameDispatch n) := by
  show Host.Outcome.next (s.whileWorking _) = _
  rw [State.whileWorking, if_pos hw]

theorem blk_of_isOn {s : State} {p : PageRef} (h : s.isOn p = true) : s.blk p = .on := by simpa [State.isOn] using h

/-- A quad of a list that is neither OFF nor FENCED keeps the list from being of no use. -/
theorem some_quad_serves {s : State} {l : List Nat}
    (h : ∃ p, p ∈ l ∧ s.blk (quadPg p) ≠ .off ∧ s.blk (quadPg p) ≠ .fenced) :
    l.all (fun q => s.blk (quadPg q) == .off || s.blk (quadPg q) == .fenced) = false := by
  simpa using h

section Dispatch

variable {s u : State} {n : Nat} {e : Elem}

/-- A mask that names no quad that could serve a frame ends it. -/
theorem frameDispatch_unserved (hd : s.dispatching = true) (he : s.frameAt n = some e)
    (hq : ∀ p, p ∈ s.maskQuads e.rq → s.blk (quadPg p) = .off ∨ s.blk (quadPg p) = .fenced) :
    s.frameDispatch n = (s.dispatched n).pushStatus 25 e stFenced := by
  have ha : (s.maskQuads e.rq).all (fun q => s.blk (quadPg q) == .off || s.blk (quadPg q) == .fenced) = true := by
    simpa using hq
  simp [State.frameDispatch, he, hd, ha, State.dispatched]

variable (hd : s.dispatching = true) (he : s.frameAt n = some e)
  (hq : ∃ p, p ∈ s.maskQuads e.rq ∧ s.blk (quadPg p) ≠ .off ∧ s.blk (quadPg p) ≠ .fenced)
  (hc : s.isOn (pg .ctx) = true) (hp : s.stalling 22 = false)

include hd he hq hc hp

/-- A frame that some quad could serve is looked up, and one that its lookup refuses ends. -/
theorem frameDispatch_refused {st : Nat} (hl : s.lookup (e.stamp 2 s.now) false = (.refused st, u)) :
    s.frameDispatch n = (u.dispatched n).pushStatus 22 (e.stamp 2 s.now) st := by
  simp [State.frameDispatch, he, hd, some_quad_serves hq, blk_of_isOn hc, hc, hp, hl, State.dispatched]

/-- One that is found, admitted and for which a quad has room goes there, a transmit frame with NEXT_PN. -/
theorem frameDispatch_found {k q pn : Nat} {b : Bool} (hl : s.lookup (e.stamp 2 s.now) false = (.found k, u))
    (hm : s.masks (k / 64) = true) (hr : admission (u.clearCtx k) e.d = .run b pn)
    (hk : s.pickQuad e.rq (e.d.srcLen + needLen (u.clearCtx k) e.d) = some q) :
    s.frameDispatch n =
      ((if takesPn e.d.opcode then u.assignPn k b pn e.func else u).dispatched n).quadAccept
        ((e.stamp 2 s.now).stamp 3 s.now) k q b pn (e.d.srcLen + needLen (u.clearCtx k) e.d) := by
  simp [State.frameDispatch, he, hd, some_quad_serves hq, blk_of_isOn hc, hc, hp, hl, hm, hr, hk, State.dispatched]

end Dispatch

/-- A lookup leaves the quads and their frames, the queue engine, the crown and the tile's state. -/
theorem lookup_keeps {s u : State} {e : Elem} {i : Bool} {x : Look} (h : s.lookup e i = (x, u)) :
    s.Within (only [.regs, .hdrs, .irq, .fab, .ctx]) u :=
  within_snd h (lookup_within (Part.all_only _) e i (Within.refl s))

/-- A frame that was looked up and is handed to a quad is the last of the quads' frames, is charged to the staging and, if it
sends, has taken NEXT_PN; it has left those issued, and the tile is in RUN. -/
theorem frameDispatch_accepts {s u : State} {n k q pn : Nat} {b : Bool} {e : Elem} (hd : s.dispatching = true)
    (hl : s.lookup (e.stamp 2 s.now) false = (.found k, u)) {t v : State} {need : Nat}
    (hv : v = if takesPn e.d.opcode then u.assignPn k b pn e.func else u)
    (ht : t = (v.dispatched n).quadAccept ((e.stamp 2 s.now).stamp 3 s.now) k q b pn need) :
    ∃ f, t.frames.list = s.frames.list ++ [f] ∧ f.quad = q ∧ f.slotB = b ∧
      f.pn = pn ∧ f.st = FrameSt.reading ∧ f.elem.d = e.d ∧ f.elem.rq = e.rq ∧ f.elem.idx = e.idx ∧
      (t.quad q).staged = (s.quad q).staged + need ∧
      (takesPn e.d.opcode = true → ((t.clearCtx k).slot b).pn = (pn + 1) % 2 ^ 64) ∧
      t.qeng.issued = s.qeng.issued.eraseIdx n ∧ t.tile.st = TileState.run := by
  have hsv : s.Within (only [.regs, .hdrs, .irq, .fab, .ctx]) v := by
    subst hv
    exact within_ite (fun _ => assignPn_within (Part.All.of_all rfl) _ _ _ _ (lookup_keeps hl)) (fun _ => lookup_keeps hl)
  have hst : v.tile.st = .ready ∨ v.tile.st = .run := by
    rw [hsv.tile_eq rfl rfl]; exact tile_of_dispatching hd
  have hvw := dispatched_within n hst
  have hwt : (v.dispatched n).Within (only [.regs, .hdrs, .irq, .fab, .frames, .ctx]) t :=
    ht ▸ quadAccept_within (Part.all_only _) _ _ _ _ _ _ (Within.refl _)
  have hfr : (v.dispatched n).frames = s.frames := (hvw.frames rfl).trans (hsv.frames rfl)
  obtain ⟨f, hf, hfq, hfb, hfp, hfs, hfe⟩ :=
    quadAccept_list (v.dispatched n) ((e.stamp 2 s.now).stamp 3 s.now) k q b pn need
  rw [← ht, hfr] at hf
  refine ⟨f, hf, hfq, hfb, hfp, hfs, by simp [hfe], by simp [hfe], by simp [hfe], ?_, fun hp => ?_, ?_, ?_⟩
  · rw [ht, quadAccept_staged, quad_congr hfr]
  · rw [clearCtx_pn, ht, quadAccept_ctx, way_congr (hvw.ctx rfl), hv, if_pos hp]
    exact assignPn_pn u k b pn e.func
  · rw [hwt.qeng rfl, dispatched_issued n hst, hsv.qeng rfl]
  · rw [hwt.tile_eq rfl rfl, dispatched_st n hst]

/-- A frame that ends at its dispatch with a status: from a state that the lookup may have left, it leaves those issued and its
completion is pushed. -/
theorem dispatched_ends {s u : State} {n p st : Nat} {e : Elem} (hd : s.dispatching = true)
    (hu : s.Within (only [.regs, .hdrs, .irq, .fab, .ctx]) u) :
    s.Completes ((u.dispatched n).pushStatus p e st) p e st 0 ∧
      ((u.dispatched n).pushStatus p e st).qeng.issued = s.qeng.issued.eraseIdx n ∧
      ((u.dispatched n).pushStatus p e st).frames = s.frames ∧
      ((u.dispatched n).pushStatus p e st).tile.st = .run := by
  have hst : u.tile.st = .ready ∨ u.tile.st = .run := by
    rw [hu.tile_eq rfl rfl]; exact tile_of_dispatching hd
  have huw := dispatched_within n hst
  have hwt : (u.dispatched n).Within (only [.hdrs, .irq, .crown]) ((u.dispatched n).pushStatus p e st) :=
    pushStatus_within (Part.all_only _) _ _ _ (Within.refl _)
  refine ⟨(push_completes _ p _).of_crown ((huw.crown rfl).trans (hu.crown rfl)), ?_, ?_, ?_⟩
  · rw [hwt.qeng rfl, dispatched_issued n hst, hu.qeng rfl]
  · rw [hwt.frames rfl, huw.frames rfl, hu.frames rfl]
  · rw [hwt.tile_eq rfl rfl, dispatched_st n hst]

/-! ## The lanes follow their quads (R73) -/

/-- A lane that comes up or goes down starts and ends nothing else. -/
theorem upStarts_lane (s : State) (n : Nat) : s.upStarts (lanePg n) = s := rfl

theorem goDown_lane (s : State) (n : Nat) : s.goDown (lanePg n) = s.setBlk (lanePg n) .goingDown := rfl

section Follow

variable {F : Part → Bool} {s t : State} (hF : Part.All F [.blocks, .hdrs]) (n : Nat) (h : s.Within F t)

include hF h

theorem tryUp_lane_within : s.Within F (t.tryUp (lanePg n)) := by
  unfold State.tryUp
  rw [upStarts_lane]
  exact within_ite (fun _ => updHdr_within hF (setBlk_within hF _ _ h)) (fun _ => h)

theorem enOff_lane_within : s.Within F (t.enOff (lanePg n)) := by
  unfold State.enOff
  extract_lets u
  rw [goDown_lane]
  exact within_ite (fun _ => setBlk_within hF _ _ (updHdr_within hF h)) (fun _ => updHdr_within hF h)

/-- A lane that follows its quad changes its header alone. -/
theorem follow_lane_within : s.Within F (t.follow (lanePg n)) := by
  have hs : s.Within F (if t.clkHolds (lanePg n) then t else t.enOff (lanePg n)) :=
    within_ite (fun _ => h) (fun _ => enOff_lane_within hF n h)
  unfold State.follow
  cases (t.hdr (lanePg n)).st with
  | off => exact tryUp_lane_within hF n h
  | comingUp | on | goingDown => exact hs
  | fenced => exact h

end Follow

/-- After a step of frames the lanes' headers may change, and nothing else. -/
theorem frameStep_headers (s : State) : s.Within (only [.blocks, .hdrs]) s.frameStep := by
  unfold State.frameStep State.lanesFollow
  refine within_foldl (fun t q ht => within_ite (fun _ => ?_) (fun _ => ht)) _ (Within.refl s)
  exact within_foldl (fun t n ht => follow_lane_within (Part.all_only _) n ht) _ ht

/-! ## The lane that is picked (R70) -/

/-- A running choice along a list answers what it starts with or a member of the list. -/
theorem foldl_choice_mem {α : Type} (g : Option α → α → Option α) (hg : ∀ o a, g o a = o ∨ g o a = some a) (l : List α)
    (o : Option α) (x : α) (h : l.foldl g o = some x) : o = some x ∨ x ∈ l := by
  induction l generalizing o with
  | nil => exact Or.inl h
  | cons a l ih =>
    rcases ih _ h with h | h
    · rcases hg o a with e | e
      · exact Or.inl (e ▸ h)
      · exact Or.inr (by simp_all)
    · exact Or.inr (List.mem_cons_of_mem a h)

/-- It is a lane of the quad. -/
theorem pickLane_quad {s : State} {q n : Nat} (h : s.pickLane q = some n) : n / 4 = q := by
  unfold State.pickLane State.pickOf at h
  have hm := foldl_choice_mem _ (by
    intro o a
    cases o with
    | none => exact Or.inr rfl
    | some m => exact (ite_eq_or_eq _ _ _).symm) _ _ _ h
  rcases hm with h | h
  · cases h
  · obtain ⟨i, -, rfl⟩ := List.mem_map.mp (List.mem_filter.mp h).1
    omega

/-! ## FRAME_STAGED (R16, R70, R76) -/

theorem exec_frameStaged {s : State} {q : Nat} (hw : s.working = true) (hq : q < 4) {x : State}
    (h : s.frameStaged q = (false, x)) : exec (.frameStaged q) s = .next x.frameStep := by
  show Host.Outcome.next (s.work q 4 _) = _
  rw [State.work, State.unit, if_pos hq, State.whileWorking, if_pos hw, h]
  rfl

/-- The count of what went to a lane and the lanes' step after it leave the quads, the lanes and their frames. -/
theorem counted_frames (s : State) (e k : Nat) : (s.perfCount e k).frameStep.frames = s.frames :=
  ((frameStep_headers _).frames rfl).trans
    ((perfCount_within (F := only [.regs, .hdrs, .irq]) (Part.all_only _) e k (Within.refl s)).frames rfl)

/-- A count of an event writes the counter alone among the registers. -/
theorem perfCount_reg_ne (s : State) (e k : Nat) {r : Reg} (n : Nat) (h : r ≠ .PERF_CNT) :
    (s.perfCount e k).reg r n = s.reg r n := by
  unfold State.perfCount
  split
  · extract_lets a t
    have hw : t.Within (only [.hdrs, .irq]) ((List.range 4).foldl (fun s i => s.watch e a (a + k) i) t) :=
      within_foldl (fun u i hu => watch_within (Part.all_only _) _ _ _ _ hu) _ (Within.refl t)
    rw [hw.reg_eq rfl]
    exact reg_put_ne _ _ (Or.inl h)
  · rfl

/-- Staging writes its high-water mark alone among the registers. -/
theorem stage_reg_ne (s : State) (q a b : Nat) {r : Reg} (n : Nat) (h : r ≠ .QUAD_STAGE_HWM) :
    (s.stage q a b).reg r n = s.reg r n := by
  unfold State.stage
  extract_lets t m
  split
  · exact reg_put_ne _ _ (Or.inl h)
  · rfl

/-- A change of one frame that keeps its number is what a look for that number finds. -/
theorem frame?_updFrame (s : State) (i : Nat) (g : Frame → Frame) (hg : ∀ f, (g f).id = f.id) :
    (s.updFrame i g).frame? i = (s.frame? i).map g := by
  have hp : (fun f : Frame => f.id == i) ∘ (fun f => if f.id == i then g f else f) = fun f => f.id == i := by
    funext f
    by_cases h : f.id = i
    · simp [h, hg]
    · simp [h]
  show List.find? _ (s.frames.list.map _) = _
  rw [List.find?_map, hp]
  unfold State.frame?
  cases h : s.frames.list.find? (fun f => f.id == i) with
  | none => rfl
  | some f => exact congrArg some (if_pos (List.find?_some (p := fun f : Frame => f.id == i) h))

/-- A frame in the quads is found by its number, be it as another frame of that number. -/
theorem frame?_of_mem {s : State} {f : Frame} (h : f ∈ s.frames.list) : ∃ g, s.frame? f.id = some g :=
  Option.isSome_iff_exists.mp (List.find?_isSome.mpr ⟨f, h, beq_self_eq_true _⟩)

/-- A frame that is handed to a lane stands in it with the key of its slot. -/
theorem toLane_frame? {s : State} {f : Frame} (n : Nat) (h : f ∈ s.frames.list) :
    ∃ g, (s.toLane f n).frame? f.id = some g ∧ g.st = .inLane ∧ g.lane = n ∧ g.key = s.loadKey f := by
  obtain ⟨g, hg⟩ := frame?_of_mem h
  unfold State.toLane
  extract_lets spare key s1 s2 s3
  have h1 : s1.frame? f.id = some g := (frame?_congr (stage_list _ _ _ _) _).trans hg
  have h2 : s2.frame? f.id = (s1.frame? f.id).map _ := frame?_updFrame s1 f.id _ (by exact fun _ => rfl)
  have h3 : s3.frame? f.id = s2.frame? f.id := updLane_frame? s2 n _ f.id
  rw [h1] at h2
  rw [updQuad_frame?, h3, h2]
  exact ⟨_, rfl, rfl, rfl, rfl⟩

/-- The lane holds it behind its other frames. -/
theorem toLane_lane (s : State) (f : Frame) (n : Nat) : ((s.toLane f n).lane n).frames = (s.lane n).frames ++ [f.id] := by
  unfold State.toLane
  extract_lets spare key s1 s2 s3
  have h1 : s2.lane n = s.lane n := (updFrame_lane s1 _ _ n).trans (stage_lane s f.quad 0 spare n)
  rw [updQuad_lane, lane_updLane_same, h1]

/-- The dispatch port of the quad has chosen that lane last. -/
theorem toLane_lastLane (s : State) (f : Frame) (n : Nat) : ((s.toLane f n).quad (n / 4)).lastLane = n % 4 := by
  unfold State.toLane
  rw [quad_updQuad_same]

theorem toLane_reg_ne (s : State) (f : Frame) (n : Nat) {r : Reg} (m : Nat) (h : r ≠ .QUAD_STAGE_HWM) :
    (s.toLane f n).reg r m = s.reg r m := by
  unfold State.toLane
  extract_lets spare key s1 s2 s3
  have hw : s1.Within (only [.frames]) (s3.updQuad (n / 4) (fun x => { x with lastLane := n % 4 })) :=
    updQuad_within (Part.all_only _) _ _ (updLane_within (Part.all_only _) _ _
      (updFrame_within (Part.all_only _) _ _ (Within.refl s1)))
  rw [hw.reg_eq rfl]
  exact stage_reg_ne s f.quad 0 spare m h

section Staged

variable {s : State} {q : Nat} {f : Frame}
  (hf : s.frames.list.find? (fun f => f.quad == q && f.st == .reading && f.startable && s.keyReady f) = some f)

include hf

/-- The state in which a frame has gone to lane n, with its bytes counted (R70, R350). -/
theorem frameStaged_toLane {n : Nat} (hw : (s.findWay f.elem.d.object).isSome = true) (hn : s.pickLane q = some n)
    (hc : s.quadClock q = true) (hi : s.tile.st = .test → s.flag LANE_XINJECT.ARM n = false) :
    s.frameStaged q = (false, ((s.toLane f n).unparkNeed q).perfCount (16 + n) f.elem.d.srcLen) := by
  generalize ht : ((s.toLane f n).unparkNeed q).perfCount (16 + n) f.elem.d.srcLen = t
  have hst : s.Within (only [.regs, .hdrs, .irq, .frames]) t := ht ▸
    perfCount_within (Part.All.of_all rfl) _ _ (unparkNeed_within (Part.All.of_all rfl) _
      (toLane_within (Part.All.of_all rfl) _ _ (Within.refl s)))
  have hr : t.flag LANE_XINJECT.ARM n = s.flag LANE_XINJECT.ARM n := by
    unfold State.flag State.fld
    rw [← ht, perfCount_reg_ne _ _ _ _ (by decide),
      (unparkNeed_within (F := only [.frames]) (Part.all_only _) q (Within.refl _)).reg_eq rfl,
      toLane_reg_ne _ _ _ _ (by decide)]
  have hx : (t.tile.st == .test && t.flag LANE_XINJECT.ARM n) = false := by
    rw [hr, hst.tile_eq rfl rfl]
    by_cases h : s.tile.st = .test
    · simp [hi h]
    · simp [h]
  simp only [State.frameStaged, hf, hn, hc, ht, hx, Option.isNone_eq_false_iff.mpr hw]
  rfl

/-- A frame whose context is not resident any more ends. -/
theorem frameStaged_wayless (hw : s.findWay f.elem.d.object = none) :
    s.frameStaged q = (false, s.endFrame f 25 stFenced 0) := by
  simp only [State.frameStaged, hf, hw, Option.isNone_none, if_true]

end Staged

/-! ## The end of a frame whose context is gone (R16, R74) -/

theorem unpin_gone {s : State} {h : Nat} (hw : s.findWay h = none) : s.unpin h = s := by
  unfold State.unpin; rw [hw]

/-- It leaves the quad, and nothing is unpinned for it. -/
theorem dropFrame_gone {s : State} {f : Frame} (hw : s.findWay f.elem.d.object = none) :
    s.Within (only [.regs, .frames]) (s.dropFrame f) ∧ (s.dropFrame f).frame? f.id = none := by
  unfold State.dropFrame
  extract_lets _ s1
  have h1 : s.Within (only [.regs, .frames]) s1 := within_frames rfl (Within.refl s)
  have h2 : s.Within (only [.regs, .frames]) (s1.stage f.quad 0 (f.resv + f.outHeld)) :=
    stage_within (Part.All.of_all rfl) _ _ _ h1
  have hw2 : (s1.stage f.quad 0 (f.resv + f.outHeld)).findWay f.elem.d.object = none := by
    rwa [findWay_congr (h2.ctx rfl)]
  rw [unpin_gone hw2]
  refine ⟨h2, (frame?_congr (stage_list _ _ _ _) _).trans ?_⟩
  simp [State.frame?, s1]

/-- It completes with the status it ends with, and is in no quad. -/
theorem endFrame_gone {s : State} {f : Frame} (p st r : Nat) (hw : s.findWay f.elem.d.object = none) :
    s.Completes (s.endFrame f p st r) p f.elem st r ∧ (s.endFrame f p st r).frame? f.id = none := by
  unfold State.endFrame
  extract_lets s1 s2 s3
  have h2 : s.Within (only [.fab, .frames]) s2 :=
    leaveLane_within (Part.All.of_all rfl) _ (dropXfers_within (Part.All.of_all rfl) _ (Within.refl s))
  have hw2 : s2.findWay f.elem.d.object = none := by
    rwa [findWay_congr (h2.ctx rfl)]
  obtain ⟨h3, hn⟩ := dropFrame_gone hw2
  refine ⟨(push_completes s3 p _).of_crown ((h3.crown rfl).trans (h2.crown rfl)), (frame?_congr ?_ _).trans hn⟩
  rw [(push_within (F := only [.hdrs, .irq, .crown]) (Part.all_only _) p _ (Within.refl s3)).frames rfl]

/-- Settles O25: dispatch by its three outcomes, then the hand-over to a lane and the frame whose context is gone. -/
theorem framesAreDispatched : Obligations.FramesAreDispatched := by
  refine ⟨?_, ?_, ?_, ?_, ?_⟩
  · intro s u n k q pn need b e hw hd he hq hc hp hl hm hr hneed hk
    subst hneed
    obtain ⟨f, h⟩ := frameDispatch_accepts (t := s.frameDispatch n) hd hl rfl
      (frameDispatch_found hd he hq hc hp hl hm hr hk)
    exact ⟨_, f, exec_frameDispatch n hw, h⟩
  · intro s u n st e hw hd he hq hc hp hl
    obtain ⟨h, hrest⟩ := dispatched_ends (n := n) (p := 22) (st := st) (e := e.stamp 2 s.now) hd (lookup_keeps hl)
    rw [← frameDispatch_refused hd he hq hc hp hl] at h hrest
    exact ⟨_, exec_frameDispatch n hw, h.of_stamp, hrest⟩
  · intro s n e hw hd he hq
    have h := dispatched_ends (n := n) (p := 25) (st := stFenced) (e := e) hd (Within.refl s)
    rw [← frameDispatch_unserved hd he hq] at h
    exact ⟨_, exec_frameDispatch n hw, h⟩
  · intro s q n f hw hq hf hway hn hc hi
    have hx := exec_frameStaged hw hq (frameStaged_toLane hf hway hn hc hi)
    obtain ⟨g, hg, hst, hgn, hkey⟩ := toLane_frame? n (List.mem_of_find?_eq_some hf)
    have hfr := counted_frames ((s.toLane f n).unparkNeed q) (16 + n) f.elem.d.srcLen
    refine ⟨_, g, hx, ?_, hst, hgn, hkey, ?_, ?_⟩
    · rw [frame?_congr (congrArg Frames.list hfr), frame?_congr (unparkNeed_list _ q), hg]
    · rw [lane_congr hfr, unparkNeed_lane, toLane_lane]
    · rw [quad_congr hfr, unparkNeed_quad, ← pickLane_quad hn, toLane_lastLane]
  · intro s q f hw hq hf hway
    obtain ⟨h, hn⟩ := endFrame_gone 25 stFenced 0 hway
    have hfr := (frameStep_headers (s.endFrame f 25 stFenced 0)).frames rfl
    exact ⟨_, exec_frameStaged hw hq (frameStaged_wayless hf hway), h.then_crown ((frameStep_headers _).crown rfl),
      (frame?_congr (congrArg Frames.list hfr) _).trans hn⟩

end Sys2Proof.Machine
end

section
/-! PROOFS. The statements of 02_register_pages.md: reset (O6), the answers of the control port (O9), the expert lock (O10) and
the block states (O11). -/

namespace Sys2Proof.Machine

/-! ## Commands that name a page -/

theorem onPage_ok (s : State) (p : PageRef) (f : State → State) (h : pageOk p = true) : s.onPage p f = f s := by
  simp [State.onPage, h]

/-! ## Raised faults and events touch the header and the vectors alone -/

theorem raiseFault_keeps (s : State) (p : PageRef) (b : Nat) : s.Within (only [.hdrs, .irq]) (s.raiseFault p b) :=
  raiseFault_within (Part.all_only _) p b (Within.refl s)

theorem raiseEvent_keeps (s : State) (p : PageRef) (b : Nat) : s.Within (only [.hdrs, .irq]) (s.raiseEvent p b) :=
  raiseEvent_within (Part.all_only _) p b (Within.refl s)

@[simp] theorem raiseFault_regs (s : State) (p : PageRef) (b : Nat) : (s.raiseFault p b).regs = s.regs :=
  (raiseFault_keeps s p b).regs rfl

@[simp] theorem raiseEvent_regs (s : State) (p : PageRef) (b : Nat) : (s.raiseEvent p b).regs = s.regs :=
  (raiseEvent_keeps s p b).regs rfl

@[simp] theorem raiseFault_tile (s : State) (p : PageRef) (b : Nat) : (s.raiseFault p b).tile = s.tile :=
  (raiseFault_keeps s p b).tile_eq rfl rfl

@[simp] theorem raiseEvent_tile (s : State) (p : PageRef) (b : Nat) : (s.raiseEvent p b).tile = s.tile :=
  (raiseEvent_keeps s p b).tile_eq rfl rfl

@[simp] theorem seq_regs (s : State) (p : PageRef) : (s.seq p).regs = s.regs := raiseFault_regs s p 5
@[simp] theorem seq_tile (s : State) (p : PageRef) : (s.seq p).tile = s.tile := raiseFault_tile s p 5

theorem seq_hdr_ne (s : State) {p q : PageRef} (h : pageNum q ≠ pageNum p) : (s.seq p).hdr q = s.hdr q :=
  raiseFault_hdr_ne s 5 h

/-- SEQ is all that a refused sequence leaves in the header. -/
theorem seq_hdr (s : State) (p : PageRef) :
    (s.seq p).hdr p = { s.hdr p with fault := (s.hdr p).fault ||| (1 <<< 5) } := raiseFault_hdr s p 5

/-! ## Reset values (R33, R39, R42, R44, R406) -/

/-- At reset no header is listed, so each reads its reset value. -/
theorem reset_hdr (p : PageRef) : State.reset.hdr p = Hdr.resetAt (pageNum p) := rfl

/-- The fixed pages are the first six of the window. -/
theorem pageNum_lt_six_iff (p : PageRef) (h : pageOk p = true) : pageNum p < 6 ↔ PageKind.fixed p.kind = true := by
  obtain ⟨k, i⟩ := p
  cases k <;> simp [pageNum, PageKind.fixed] <;> omega

/-- The FUNCTION pages are the last ones of the window. -/
theorem pageNum_function_iff (p : PageRef) (h : pageOk p = true) : 256 ≤ pageNum p ↔ p.kind = PageKind.function := by
  obtain ⟨k, i⟩ := p
  have h := of_decide_eq_true h
  cases k <;> simp [pageNum, PageKind.count] at h ⊢ <;> omega

/-- Settles O6: the registers and the headers of reset, page by page of the map. -/
theorem resetLeavesTheStatedValues : Obligations.ResetLeavesTheStatedValues := by
  refine ⟨rfl, rfl, rfl, by decide, by decide, by decide, by decide, ?_, ?_, ?_⟩
  · intro p h hf
    rw [reset_hdr, Hdr.resetAt, if_pos ((pageNum_lt_six_iff p h).mpr hf)]
    exact ⟨rfl, rfl⟩
  · intro p h hf
    have h6 : ¬ pageNum p < 6 := fun e => by rw [(pageNum_lt_six_iff p h).mp e] at hf; cases hf
    rw [reset_hdr, Hdr.resetAt, if_neg h6]
    split <;> exact ⟨rfl, rfl⟩
  · intro p h
    have hfun := pageNum_function_iff p h
    have hlt := pageNum_lt p h
    rw [reset_hdr, Hdr.resetAt]
    by_cases hk : p.kind = PageKind.function
    · have := hfun.mpr hk
      rw [if_neg (by omega), if_pos (by omega), hk]
      exact ⟨rfl, rfl, rfl, rfl⟩
    · have h256 : ¬ 256 ≤ pageNum p := fun e => hk (hfun.mp e)
      have hv : (p.kind == PageKind.function) = false := by simpa using hk
      rw [hv]
      split
      · exact ⟨rfl, rfl, rfl, rfl⟩
      · rw [if_neg (by omega)]
        exact ⟨rfl, rfl, rfl, rfl⟩

/-! ## The control port's answers (R25, R29) -/

/-- A request outside the window is dropped. -/
theorem cpAccess_unaddressed (s : State) (w : Bool) (a : Access) (h : s.cpAddressed a = false) :
    s.cpAccess w a = s.noRsp := by
  simp [State.cpAccess, h]

/-- A command that writes a header register, as the write it performs. -/
theorem exec_softReset_eq (p : PageRef) (req : Req) (s : State) : exec (.softReset p req) s =
    .next (s.hdrWrite p 0x04 (if (s.hdr (statePage p)).en then 3 else 2) req) := rfl

/-- PAGE_ID reads the type, the version and the instance of the page. -/
theorem pageRead_id (s : State) (p : PageRef) :
    s.pageRead p 0 4 = (s, PageKind.code p.kind * 2 ^ 24 + 2 ^ 20 + p.inst) := by
  simp [State.pageRead, State.headerRead, State.headerWord, pack]

/-- The low word of a register that is read as it stands, and what the read leaves. -/
theorem wordRead_reg (s : State) (r : Reg) (n : Nat) (hw : r ≠ .RNG_SW_DATA) (hl : r.latches = false) :
    s.wordRead (regPage r n) (regOff r n) = (s.afterRead r n 0xFFFFFFFF, bitsOf (s.readReg r n).toNat 31 0) := by
  have hk : ((regPage r n).kind == PageKind.result) = false := by simpa using page_not_result r n
  have hw' : (r == .RNG_SW_DATA) = false := by simpa using hw
  simp only [State.wordRead, hk, regAt_reg, hw', hl, Bool.false_eq_true, if_false]

/-- A 32-bit read of a register is a read of its low word. -/
theorem pageRead_reg (s : State) (r : Reg) (n : Nat) (hw : r ≠ .RNG_SW_DATA) (hl : r.latches = false) :
    s.pageRead (regPage r n) (regOff r n) 4 = (s.afterRead r n 0xFFFFFFFF, bitsOf (s.readReg r n).toNat 31 0) := by
  have h := regOff_ge r n
  rw [← wordRead_reg s r n hw hl]
  simp only [State.pageRead, if_true, show ¬ regOff r n < 0x40 by omega, if_false]

/-- A scratch register reads as it stands, and the read leaves it. -/
theorem pageRead_scratch (s : State) :
    s.pageRead (pg .tile) 0x64 4 = (s, bitsOf (s.reg .TILE_SCRATCH 0).toNat 31 0) := by
  have hread : s.readReg .TILE_SCRATCH 0 = s.reg .TILE_SCRATCH 0 ||| BitVec.ofNat 64 0 := rfl
  have hrc : Reg.bitsOf .TILE_SCRATCH (fun a => a == .rc) &&& 0xFFFFFFFF = 0 := by decide
  have hleft : s.afterRead .TILE_SCRATCH 0 0xFFFFFFFF = s := by
    simp only [State.afterRead, hrc, if_true]
    rfl
  refine (pageRead_reg s .TILE_SCRATCH 0 (by decide) rfl).trans ?_
  rw [hleft, hread, BitVec.or_zero]

/-- The low word of a register, as a number. -/
theorem ofNat_lowWord (v : W64) : BitVec.ofNat 64 (bitsOf v.toNat 31 0) = (v.setWidth 32).setWidth 64 := by
  apply BitVec.eq_of_toNat_eq
  simp only [bitsOf, BitVec.toNat_ofNat, BitVec.toNat_setWidth]
  omega

/-- Settles O9: the dropped request, the two reads, and the write that meets the closed lock. -/
theorem controlPortAnswers : Obligations.ControlPortAnswers := by
  refine ⟨?_, ?_, ?_, ?_⟩
  · intro s w a h
    refine ⟨?_, ?_, ?_⟩
    · show Host.Outcome.next (if s.cpAddressed a then s else s.noRsp) = _
      rw [h]; rfl
    · exact congrArg Host.Outcome.next (cpAccess_unaddressed s true a h)
    · exact congrArg Host.Outcome.next (cpAccess_unaddressed s false a h)
  · intro s p req h
    refine congrArg Host.Outcome.next ((cpRead_open s p 0 4 0 req h (by decide) (.inl rfl) rfl).trans ?_)
    rw [pageRead_id]
  · intro s req h
    refine congrArg Host.Outcome.next ((cpRead_open s (pg .tile) 0x64 4 0 req h (by decide) (.inl rfl) rfl).trans ?_)
    rw [pageRead_scratch, ofNat_lowWord]
  · intro s r n v req h hx hl
    refine ⟨_, congrArg Host.Outcome.next (cpReg_locked s r n v req h hx hl), ?_, ?_, rfl⟩
    · exact raiseFault_regs s _ 6
    · exact raiseFault_bit s _ 6 (by decide)

/-! ## The expert lock (R36) -/

/-- Where a written word takes the lock. -/
def Lock.next (l : Lock) (v : W32) : Lock :=
  if v = 0xEA01 then .armed else if v = 0xEA02 ∧ l ≠ .closed then .opened else .closed

/-- A write of PAGE_LOCK moves the lock, and sets SEQ where an armed lock meets another value. -/
theorem lockWrite_eq (s : State) (p : PageRef) (v : W32) : s.lockWrite p v =
    if (s.hdr p).lock = .armed ∧ v ≠ 0xEA01 ∧ v ≠ 0xEA02 then (s.updHdr p (fun h => { h with lock := .closed })).seq p
    else if (s.hdr p).lock = (s.hdr p).lock.next v then s
    else s.updHdr p (fun h => { h with lock := (s.hdr p).lock.next v }) := by
  unfold State.lockWrite Lock.next
  cases hl : (s.hdr p).lock <;> by_cases h1 : v = 0xEA01 <;> by_cases h2 : v = 0xEA02 <;> simp_all

/-- The header of the page after the write: the lock, and SEQ for a refused sequence. -/
theorem lockWrite_hdr (s : State) (p : PageRef) (v : W32) :
    ((s.lockWrite p v).hdr p).lock = (s.hdr p).lock.next v ∧
      ((s.lockWrite p v).hdr p).fault = (if (s.hdr p).lock = .armed ∧ v ≠ 0xEA01 ∧ v ≠ 0xEA02
        then (s.hdr p).fault ||| (1 <<< 5) else (s.hdr p).fault) := by
  rw [lockWrite_eq]
  split
  next h =>
    obtain ⟨ha, h1, h2⟩ := h
    have hn : (Lock.armed).next v = .closed := by rw [Lock.next, if_neg h1, if_neg (fun e => h2 e.1)]
    simp [seq_hdr, *]
  next h =>
    split
    next e => exact ⟨e, rfl⟩
    next => simp

/-- A write of PAGE_LOCK leaves every register and every other header. -/
theorem lockWrite_frame (s : State) (p : PageRef) (v : W32) :
    (s.lockWrite p v).regs = s.regs ∧ ∀ q, pageNum q ≠ pageNum p → (s.lockWrite p v).hdr q = s.hdr q := by
  rw [lockWrite_eq]
  split
  · exact ⟨by simp, fun q hq => by rw [seq_hdr_ne _ hq, hdr_updHdr_ne _ _ hq]⟩
  · split
    · exact ⟨rfl, fun _ _ => rfl⟩
    · exact ⟨rfl, fun q hq => hdr_updHdr_ne _ _ hq⟩

/-- A PAGE_LOCK_WRITE that the port performs. -/
theorem exec_pageLockWrite (s : State) (p : PageRef) (v : W32) (req : Req) (h : s.Open p false req) :
    exec (.pageLockWrite p v req) s = .next (s.lockWrite p v).answeredOk :=
  congrArg Host.Outcome.next (hdrWrite_open s p 0x1C v req h (by decide) rfl)

/-- Settles O10: the table of R36 for a write, and the closing of an armed lock after its 64 cycles. -/
theorem expertLockFollowsItsTable : Obligations.ExpertLockFollowsItsTable := by
  refine ⟨?_, ?_⟩
  · intro s p v req h
    obtain ⟨hlock, hfault⟩ := lockWrite_hdr s p v
    obtain ⟨hregs, hne⟩ := lockWrite_frame s p v
    refine ⟨_, exec_pageLockWrite s p v req h, hlock, fun ha h1 h2 => ?_, fun hn => ?_, hregs, hne⟩
    · rw [answeredOk_hdr, hfault, if_pos ⟨ha, h1, h2⟩]
      exact bit_of_or _ 5 (by decide)
    · rw [answeredOk_hdr, hfault, if_neg (by tauto)]
  · intro s p hp ha
    have hx : exec (.lockArmTimeout p) s = .next ((s.updHdr p (fun h => { h with lock := .closed })).seq p) := by
      show Host.Outcome.next (s.onPage p _) = _
      rw [onPage_ok s p _ hp, State.lockTimeout, ha]
      rfl
    refine ⟨_, hx, by rw [seq_hdr, hdr_updHdr_same], seq_bit _ _, seq_regs _ _, fun q hq => ?_⟩
    rw [seq_hdr_ne _ hq, hdr_updHdr_ne _ _ hq]

/-! ## The block states (R37, R39) -/

/-- A write of PAGE_CTL.EN alone, as the port performs it. -/
theorem exec_blockEnWrite (s : State) (p : PageRef) (en : Bool) (req : Req) (h : s.Open p false req)
    (hb : PageKind.block p.kind = true) : exec (.blockEnWrite p en req) s = .next (s.enWrite p en).answeredOk := by
  refine congrArg Host.Outcome.next ((hdrWrite_open s p 0x04 _ req h (by decide) rfl).trans ?_)
  cases en <;> simp [State.headerWrite, State.ctlWrite, hb]

/-- EN = 1 wakes an OFF block, if its clock enable acts. -/
theorem enWrite_off (s : State) (p : PageRef) (hb : PageKind.block p.kind = true) (ht : s.tile.st ≠ .alarmed)
    (h : (s.hdr p).st = .off) :
    ∃ x : Hdr, x.st = .off ∧ x.en = true ∧ s.enWrite p true = (s.setHdr p x).tryUp p :=
  ⟨{ s.hdr p with en := true }, h, rfl, by simp [State.enWrite, hb, ht, h]⟩

/-- A header that keeps its block state leaves every clock enable. -/
theorem setHdr_clkActs (s : State) {p : PageRef} {x : Hdr} (h : x.st = (s.hdr p).st) (q : PageRef) :
    (s.setHdr p x).clkActs q = s.clkActs q :=
  clkActs_congr (s := s) (t := s.setHdr p x) rfl rfl rfl (setHdr_st h) q

/-- EN = 0 takes an ON block down, and what follows it. -/
theorem enWrite_on (s : State) (p : PageRef) (hb : PageKind.block p.kind = true) (h : (s.hdr p).st = .on) :
    s.enWrite p false = (s.enOff p).followUnder p := by
  simp [State.enWrite, hb, h]

/-- Every part but the tile state machine and the address. -/
def offTile (x : Part) : Bool := x != .tile && x != .addr

/-- What keeps to those parts leaves the tile state machine. -/
theorem State.Within.keeps_tile {s t : State} (h : s.Within offTile t) : t.tile = s.tile := h.tile_eq rfl rfl

/-- A command of a block's own that finds its page and a working tile. -/
theorem whenWorking_eq (s : State) (p : PageRef) (f : State → State) (hp : pageOk p = true) (hw : s.working = true) :
    s.onPage p (fun s => s.whileWorking f) = f s := by
  rw [onPage_ok s p _ hp, State.whileWorking, if_pos hw]

/-- A block that comes up and whose EN is 1 is ON once its initialisation has ended. -/
theorem initDone_on (s : State) (p : PageRef) (hp : pageOk p = true) (h : (s.hdr p).st = .comingUp)
    (he : (s.hdr p).en = true) :
    ((s.initDone p).hdr p).st = .on ∧ ((s.initDone p).hdr p).en = true := by
  have hen : ((s.setBlk p .on).hdr p).en = true := (setBlk_en s p p .on).trans he
  have hx : s.initDone p = (s.setBlk p .on).upEnded p := by simp [State.initDone, h, hen]
  have hh := upEnded_hst (s.setBlk p .on) p hp
  rw [hx]
  exact ⟨(hst_st hh).trans (setBlk_st s p .on), (hst_en hh).trans hen⟩

/-- A block with EN = 0 whose shut-down ends is OFF. -/
theorem shutdownDone_off (s : State) (p : PageRef) (hp : pageOk p = true) (h : (s.hdr p).st = .goingDown)
    (he : (s.hdr p).en = false) (hd : s.downReady p = true) (hf : (s.hdr p).pendFence = none) :
    ((s.shutdownDone p).hdr p).st = .off := by
  have hw := wipeBlock_hst s p p
  have hoff := setBlk_st (s.wipeBlock p) p .off
  have hen : (((s.wipeBlock p).setBlk p .off).hdr p).en = false := (setBlk_en _ p p .off).trans ((hst_en hw).trans he)
  have hup := tryUp_off _ p hen
  have hx : s.shutdownDone p = ((s.wipeBlock p).setBlk p .off) ∨
      s.shutdownDone p = ((s.wipeBlock p).setBlk p .off).followUnder p := by
    simp only [State.shutdownDone, h, hd, hf, hup]
    cases p.kind <;> simp
  rcases hx with hx | hx <;> rw [hx]
  · exact hoff
  · exact (hst_st (followUnder_hst _ p hp)).trans hoff

/-- A fence that waited for the shut-down takes the block then. -/
theorem shutdownDone_fenced (s : State) (p : PageRef) (r : FenceRec) (h : (s.hdr p).st = .goingDown)
    (hd : s.downReady p = true) (hf : (s.hdr p).pendFence = some r) :
    ((s.shutdownDone p).hdr p).st = .fenced ∧ ((s.shutdownDone p).hdr p).fence = r := by
  have hx : s.shutdownDone p = (s.wipeBlock p).enterFenced p r := by simp [State.shutdownDone, h, hd, hf]
  rw [hx]
  exact enterFenced_hdr _ p r

/-- A block that has been in a transition for too long is fenced with cause 0x05. -/
theorem transTimeout_hdr (s : State) (p : PageRef) (h : (s.hdr p).st = .comingUp ∨ (s.hdr p).st = .goingDown) :
    ((s.transTimeout p).hdr p).st = .fenced ∧ ((s.transTimeout p).hdr p).fence = ⟨0x05, fenceLevel p, false⟩ ∧
      ((s.transTimeout p).hdr p).fault.getLsbD 5 = true := by
  have hx : s.transTimeout p = (s.enterFenced p ⟨0x05, fenceLevel p, false⟩).seq p := by
    rcases h with h | h <;> simp [State.transTimeout, h]
  have hs := seq_hst (s.enterFenced p ⟨0x05, fenceLevel p, false⟩) p p
  obtain ⟨hst, hfence⟩ := enterFenced_hdr s p ⟨0x05, fenceLevel p, false⟩
  rw [hx]
  exact ⟨(hst_st hs).trans hst, (hst_fence hs).trans hfence, seq_bit _ _⟩

/-- Settles O11: one clause for each row of the table of R37, and the limit of R39. -/
theorem blockStatesFollowTheirTable : Obligations.BlockStatesFollowTheirTable := by
  refine ⟨?_, ?_, ?_, ?_, ?_⟩
  · intro s p req h hb ht hc hoff
    obtain ⟨x, hxst, hxen, hup⟩ := enWrite_off s p hb ht hoff
    have hact := setHdr_clkActs s (hxst.trans hoff.symm) p
    obtain ⟨hst, hen⟩ := tryUp_st (s.setHdr p x) p (by rw [hdr_setHdr_same, hxst]) (by rw [hdr_setHdr_same, hxen]) hc ht
    have hx := exec_blockEnWrite s p true req h hb
    rw [hup] at hx
    refine ⟨_, hx, hen, hst.trans (by rw [hact]), ?_⟩
    exact (tryUp_within (Part.All.of_all rfl) p (Within.refl (s.setHdr p x))).keeps_tile
  · intro s p req h hb hon
    have hx := exec_blockEnWrite s p false req h hb
    rw [enWrite_on s p hb hon] at hx
    obtain ⟨hst, hen⟩ := enOff_st s p hon
    have hu := followUnder_hst (s.enOff p) p h.inMap
    refine ⟨_, hx, (hst_en hu).trans hen, (hst_st hu).trans hst, ?_⟩
    exact (followUnder_within (Part.All.of_all rfl) p
      (enOff_within (Part.All.of_all rfl) p (Within.refl s))).keeps_tile
  · intro s p hp hb hw hst hen hr hk
    have hx : exec (.blockInitDone p) s = .next (s.initDone p) := by
      refine congrArg Host.Outcome.next ((whenWorking_eq s p _ hp hw).trans ?_)
      simp [State.initEnds, hk, hr]
    obtain ⟨hon, hen'⟩ := initDone_on s p hp hst hen
    refine ⟨_, hx, hon, hen', ?_⟩
    exact (initDone_within (Part.All.of_all rfl) p (Within.refl s)).keeps_tile
  · intro s p hp hb hw hst hen hd
    have hx : exec (.blockShutdownDone p) s = .next (s.shutdownDone p) := by
      refine congrArg Host.Outcome.next ((whenWorking_eq s p _ hp hw).trans ?_)
      simp [State.downEnds, hd]
    refine ⟨_, hx, ?_, ?_⟩
    · exact (shutdownDone_within (Part.All.of_all rfl) p
        (Within.refl s)).keeps_tile
    · cases hf : (s.hdr p).pendFence with
      | none => exact ⟨shutdownDone_off s p hp hst hen hd hf, fun r e => nomatch e⟩
      | some r =>
        obtain ⟨h1, h2⟩ := shutdownDone_fenced s p r hst hd hf
        exact ⟨h1, fun r' e => by cases e; exact h2⟩
  · intro s p hp hb hw hst
    have hx : exec (.transitionTimeout p) s = .next (s.transTimeout p) :=
      congrArg Host.Outcome.next (whenWorking_eq s p _ hp hw)
    obtain ⟨h1, h2, h3⟩ := transTimeout_hdr s p hst
    refine ⟨_, hx, h1, h2, h3, ?_⟩
    exact (transTimeout_within (Part.All.of_all rfl) p
      (Within.refl s)).keeps_tile

end Sys2Proof.Machine
end

section
/-! PROOFS. Owners, forced fences and register parity (O13, R34, R37, R41). -/

namespace Sys2Proof.Machine

/-! ## Ownership, forced fences and register parity (R34, R37, R41) -/

/-- The owner of a DMA channel that is OFF is what is written. -/
theorem ownerWrite_dma (s : State) (c : Nat) (v : W32) (h : s.blk ⟨.dmaChannel, c⟩ = .off) :
    s.ownerWrite ⟨.dmaChannel, c⟩ v =
      s.updHdr ⟨.dmaChannel, c⟩ (fun h => { h with ownerValid := v.getLsbD 31, ownerFunc := v.setWidth 6 }) := by
  simp [State.ownerWrite, h]

/-- A block that comes up or is ON is fenced at once. -/
theorem fenceBlock_up (s : State) (p : PageRef) (r : FenceRec) (h : (s.hdr p).st = .comingUp ∨ (s.hdr p).st = .on) :
    s.fenceBlock p r = s.enterFenced p r := by
  rcases h with h | h <;> simp [State.fenceBlock, h]

/-- FORCE fences such a block with cause 0x0A. -/
theorem fenceForce_block (s : State) (p : PageRef) (hb : PageKind.block p.kind = true)
    (h : (s.hdr p).st = .comingUp ∨ (s.hdr p).st = .on) :
    s.fenceForce p = s.enterFenced p ⟨0x0A, fenceLevel p, true⟩ := by
  have ht : (p.kind == PageKind.tile) = false := by
    cases hk : p.kind <;> simp [hk, PageKind.block] at hb ⊢
  rw [State.fenceForce, ht, if_neg Bool.false_ne_true, if_pos hb, fenceBlock_up s p _ h]

/-- The word of a register finds the register, for its parity as for an access. -/
theorem parityError_reg (s : State) (r : Reg) (n off : Nat) (ho : off = pageNum (regPage r n) * 4096 + regOff r n)
    (hp : pageOk (regPage r n) = true) (hw : r.writes = true) :
    s.parityError off = ((s.reload r n).parityFault (regPage r n) false).ascending s.irq.msgs.length := by
  have hge := regOff_ge r n
  have hlt := regOff_lt r n
  have h4 := regOff_mod4 r n
  have hpage : off / 4096 = pageNum (regPage r n) := by omega
  have hpo : off % 4096 / 4 * 4 = regOff r n := by omega
  simp only [State.parityError, hpage, hpo, pageOf_pageNum _ hp, regAt_reg, hw, if_true,
    show ¬ regOff r n < 0x40 by omega, if_false]

/-- A register that only software writes holds its reset value once it is reloaded, and no header changes. -/
theorem reload_configured (s : State) (r : Reg) (n : Nat) (hc : Reg.configured r = true) :
    (s.reload r n).reg r n = r.resetAt n ∧ (s.reload r n).hdrs = s.hdrs := by
  have h : (s.clearReg r n).reg r n = r.resetAt n := reg_setReg_same s r n _
  unfold State.reload
  extract_lets u
  split
  case h_2 => exact ⟨h, rfl⟩
  case h_6 => exact ⟨h, rfl⟩
  all_goals cases hc

/-- A parity error of a page of a block that is ON fences the block with cause 0x04. -/
theorem parityFault_on (s : State) (p : PageRef) (hf : PageKind.fixed p.kind = false) (hon : s.blk p = .on) :
    (s.parityFault p false).blk p = .fenced ∧
      ((s.parityFault p false).hdr (statePage p)).fence = ⟨0x04, fenceLevel (statePage p), false⟩ ∧
      ((s.parityFault p false).hdr p).fault.getLsbD 2 = true := by
  have hb : parityBlock p false = some (statePage p) := by simp [parityBlock, hf]
  obtain ⟨hst, hfence⟩ := enterFenced_hdr s (statePage p) ⟨0x04, fenceLevel (statePage p), false⟩
  generalize hu : s.enterFenced (statePage p) ⟨0x04, fenceLevel (statePage p), false⟩ = u at hst hfence
  have hx : s.parityFault p false = ((u.ascending s.irq.msgs.length).lasting p).raiseFault p 2 := by
    simp only [State.parityFault, hb, State.fence, fenceBlock_up s _ _ (.inr hon), hu]
  have hh : (((u.ascending s.irq.msgs.length).lasting p).raiseFault p 2).hst (statePage p) = u.hst (statePage p) :=
    (raiseFault_hst _ _ _ 2).trans (lasting_hst _ _ _)
  rw [hx]
  exact ⟨(hst_st hh).trans hst, (hst_fence hh).trans hfence, raiseFault_bit _ p 2 (by decide)⟩

/-- What a parity error does to a block leaves the registers that only software writes. -/
theorem parityFault_configured (s : State) (p : PageRef) (h : Bool) (r : Reg) (n : Nat) (hc : Reg.configured r = true) :
    (s.parityFault p h).reg r n = s.reg r n :=
  (parityFault_within (F := fun x => x != .config) (Part.All.of_all rfl) p h (Within.refl s)).cfg_eq rfl n hc

/-- Settles O13: the owner that is written, the forced fence, and the register that fails its parity check. -/
theorem ownerForceAndParity : Obligations.OwnerForceAndParity := by
  refine ⟨?_, ?_, ?_⟩
  · intro s c v req h hoff
    have hx : exec (.pageOwnerWrite ⟨.dmaChannel, c⟩ v req) s = .next (s.ownerWrite ⟨.dmaChannel, c⟩ v).answeredOk :=
      congrArg Host.Outcome.next (hdrWrite_open s _ 0x20 v req h (by decide) rfl)
    rw [ownerWrite_dma s c v hoff] at hx
    exact ⟨_, hx, by simp, by simp, rfl, fun q hq => (answeredOk_hdr _ q).trans (hdr_updHdr_ne s _ hq)⟩
  · intro s p req h hb hst
    have hx : exec (.pageFenceForce p req) s = .next (s.fenceForce p).answeredOk :=
      congrArg Host.Outcome.next (hdrWrite_open s p 0x28 1 req h (by decide) rfl)
    rw [fenceForce_block s p hb hst] at hx
    obtain ⟨h1, h2⟩ := enterFenced_hdr s p ⟨0x0A, fenceLevel p, true⟩
    have ht := (enterFenced_within (Part.All.of_all rfl) p ⟨0x0A, fenceLevel p, true⟩ (Within.refl s)).keeps_tile
    generalize s.enterFenced p ⟨0x0A, fenceLevel p, true⟩ = u at hx h1 h2 ht
    exact ⟨_, hx, h1, h2, ht⟩
  · intro s r n off ho hp hw hf hc hon
    obtain ⟨hreg, hhdrs⟩ := reload_configured s r n hc
    have hblk : (s.reload r n).blk (regPage r n) = .on := by
      rw [← hon]; unfold State.blk State.hdr State.hdrAt; rw [hhdrs]
    obtain ⟨h1, h2, h3⟩ := parityFault_on _ (regPage r n) hf hblk
    refine ⟨_, congrArg Host.Outcome.next (parityError_reg s r n _ ho hp hw), ?_, h3, h1, h2⟩
    exact (parityFault_configured _ _ _ r n hc).trans hreg

end Sys2Proof.Machine
end

section
/-! PROOFS. The holes of the mapped pages (O16, R27). -/

namespace Sys2Proof.Machine

/-! ## Offsets that hold no register (R27) -/

/-- The word at an offset of a page belongs to no register: none of the header, none of the page's chapter, and none of the
results that the RESULT page shows. -/
def Hole (p : PageRef) (o : Nat) : Prop :=
  if o < 0x40 then 0x2C ≤ o
  else regAt p o = none ∧ (p.kind = PageKind.result → 0x7C ≤ o ∧ o < 0x80 ∨ 0xF80 ≤ o)

/-- The header's holes are its last five words. -/
theorem header_holes {o : Nat} (h : 0x2C ≤ o) (hl : o < 0x40) (h4 : o % 4 = 0) :
    o = 0x2C ∨ o = 0x30 ∨ o = 0x34 ∨ o = 0x38 ∨ o = 0x3C := by omega

theorem headerRead_hole (s : State) (p : PageRef) {o : Nat} (h : 0x2C ≤ o) (hl : o < 0x40) (h4 : o % 4 = 0) :
    s.headerRead p o = (s, 0) := by
  rcases header_holes h hl h4 with rfl | rfl | rfl | rfl | rfl <;> rfl

theorem headerWrite_hole (s : State) (p : PageRef) (v : W32) (priv : Bool) {o : Nat} (h : 0x2C ≤ o) (hl : o < 0x40)
    (h4 : o % 4 = 0) : s.headerWrite p o v priv = s := by
  rcases header_holes h hl h4 with rfl | rfl | rfl | rfl | rfl <;> rfl

/-- No result lies between the slots' states and their bytes, nor behind these. -/
theorem resultByte_hole (s : State) {o : Nat} (h : 0x7C ≤ o ∧ o < 0x80 ∨ 0xF80 ≤ o) : s.resultByte o = 0 := by
  rw [State.resultByte, if_neg (by omega), if_neg (by omega)]

theorem wordRead_hole (s : State) (p : PageRef) {o : Nat} (hat : regAt p o = none) (h4 : o % 4 = 0)
    (hr : p.kind = PageKind.result → 0x7C ≤ o ∧ o < 0x80 ∨ 0xF80 ≤ o) : s.wordRead p o = (s, 0) := by
  by_cases hk : p.kind = PageKind.result
  · have h := hr hk
    have hb (i : Nat) (hi : i < 4) : s.resultByte (o + i) = 0 := resultByte_hole s (by omega)
    have h0 : s.resultByte o = 0 := resultByte_hole s h
    simp [State.wordRead, hk, pack, List.range_succ, hb, h0]
  · have hk' : (p.kind == PageKind.result) = false := by simpa using hk
    simp only [State.wordRead, hk', hat, Bool.false_eq_true, if_false]

theorem wordWrite_hole (s : State) (p : PageRef) (v : W32) {o : Nat} (hat : regAt p o = none) : s.wordWrite p o v = s := by
  simp only [State.wordWrite, hat, ite_self]

/-- A word of an access that reaches holes alone. -/
theorem readWord_hole (s : State) (p : PageRef) {o : Nat} (h : Hole p o) (h4 : o % 4 = 0) :
    (if o < 0x40 then s.headerRead p o else s.wordRead p o) = (s, 0) := by
  unfold Hole at h
  split at h
  next hl => rw [if_pos hl, headerRead_hole s p h hl h4]
  next hl => rw [if_neg hl, wordRead_hole s p h.1 h4 h.2]

theorem writeWord_hole (s : State) (p : PageRef) (v : W32) (priv : Bool) {o : Nat} (h : Hole p o) (h4 : o % 4 = 0) :
    (if o < 0x40 then s.headerWrite p o v priv else s.wordWrite p o v) = s := by
  unfold Hole at h
  split at h
  next hl => rw [if_pos hl, headerWrite_hole s p v priv h hl h4]
  next hl => rw [if_neg hl, wordWrite_hole s p v h.1]

/-- No register is found at a hole. -/
theorem regAt_hole {p : PageRef} {o : Nat} (h : Hole p o) : (if o < 0x40 then none else regAt p o) = none := by
  unfold Hole at h
  split at h
  next hl => rw [if_pos hl]
  next hl => rw [if_neg hl, h.1]

/-- The words of an access of 4 or 8 bytes. -/
def HoleAccess (p : PageRef) (off bytes : Nat) : Prop := ∀ o, o = off ∨ o + 4 = off + bytes → Hole p o

theorem pageRead_hole (s : State) (p : PageRef) {off bytes : Nat} (hb : bytes = 4 ∨ bytes = 8) (ha : off % bytes = 0)
    (h : HoleAccess p off bytes) : s.pageRead p off bytes = (s, 0) := by
  have h0 := h off (.inl rfl)
  rcases hb with rfl | rfl
  · simp only [State.pageRead, if_true, readWord_hole s p h0 ha]
  · have h1 := h (off + 4) (.inr rfl)
    simp only [State.pageRead, regAt_hole h0, readWord_hole s p h0 (by omega), readWord_hole s p h1 (by omega)]
    rfl

theorem pageWrite_hole (s : State) (p : PageRef) (v : W64) (priv : Bool) {off bytes : Nat} (hb : bytes = 4 ∨ bytes = 8)
    (ha : off % bytes = 0) (h : HoleAccess p off bytes) : s.pageWrite p off bytes v priv = s := by
  have h0 := h off (.inl rfl)
  rcases hb with rfl | rfl
  · simp only [State.pageWrite, if_true, writeWord_hole s p _ priv h0 ha]
  · have h1 := h (off + 4) (.inr rfl)
    simp only [State.pageWrite, regAt_hole h0, writeWord_hole s p _ priv h0 (by omega),
      writeWord_hole s p _ priv h1 (by omega)]
    rfl

/-- A hole lies behind no expert lock. -/
theorem touchesExpert_hole {p : PageRef} {off bytes : Nat} (hb : bytes = 4 ∨ bytes = 8) (h : HoleAccess p off bytes) :
    touchesExpert p off bytes = false := by
  have h0 := regAt_hole (h off (.inl rfl))
  rcases hb with rfl | rfl
  · simp [touchesExpert, List.range_succ, h0]
  · have h1 := regAt_hole (h (off + 4) (.inr rfl))
    simp [touchesExpert, List.range_succ, h0, h1]

/-- Settles O16: each word of the access is a hole, whose read is zero and whose write does nothing. -/
theorem holesReadZeroAndIgnoreWrites : Obligations.HolesReadZeroAndIgnoreWrites := by
  intro s p off bytes v req h ho hb ha hh
  refine ⟨congrArg Host.Outcome.next ?_, fun hr => congrArg Host.Outcome.next ?_⟩
  · rw [cpRead_open s p off bytes v req h ho hb ha, pageRead_hole s p hb ha hh]
    rfl
  · rw [cpWrite_open s p off bytes v req h ho hb ha hr (by rw [touchesExpert_hole hb hh]; exact nofun),
      pageWrite_hole s p v true hb ha hh]

end Sys2Proof.Machine
end

section
/-! PROOFS. The commands of the tile (O14, R43, R44, R334). -/

namespace Sys2Proof.Machine

/-! ## The tile state machine (R43) -/

@[simp] theorem seq_key (s : State) (p : PageRef) : (s.seq p).key = s.key := (raiseFault_keeps s p 5).key_eq rfl rfl

/-- A command of TILE_CMD that the port performs. -/
theorem exec_tileCmd (s : State) (c : Nat) (hc : c < 16) (req : Req) (h : s.OpenReg .TILE_CMD 0 req) :
    (Host.Outcome.next (s.cpReg .TILE_CMD 0 (cmdWord c) req) : Out) = .next (s.tileCommand c).answeredOk :=
  congrArg Host.Outcome.next (tileCmd_eq s c hc req h)

/-- Into READY out of BRING_UP the tile only moves, and the key port drops what it holds. -/
theorem enterTile_ready (s : State) (h : s.tile.st = .bringUp) :
    s.enterTile .ready = ({ s with tile := { s.tile with st := .ready, prev := .bringUp } } : State).portDrops := by
  have hd (u : State) : u.wdogFollows .bringUp .ready = u := rfl
  simp [State.enterTile, h, hd]

/-- BRING_UP_DONE, where nothing stands against it. -/
theorem bringUpDone_ready (s : State) (h : s.tile.st = .bringUp) (hr : s.rng.ready = true)
    (hk : s.key.root.isSome = true) (hb : s.flag TILE_SELFTEST_STS.BUSY 0 = false) :
    s.bringUpDone = s.enterTile .ready := by
  simp [State.bringUpDone, h, hr, hk, hb]

/-- What the key port drops leaves the root, the tile, the registers and the headers. -/
theorem portDrops_keeps (s : State) :
    s.portDrops.tile = s.tile ∧ s.portDrops.key.root = s.key.root ∧ s.portDrops.regs = s.regs ∧ s.portDrops.hdrs = s.hdrs := by
  have h := portDrops_within (F := only [.rng, .key]) (Part.all_only _) (Within.refl s)
  exact ⟨h.tile_eq rfl rfl, (h.custody rfl).1, h.regs rfl, h.hdrs rfl⟩

/-- What ENTER_TEST leaves before the tile moves: no root and no key derived from it. -/
def State.keysGone (s : State) : State := s.attestAbort.clearRoot.clearDerived.clearSecrets

theorem keysGone_key (s : State) :
    s.keysGone.key.root = none ∧ s.keysGone.key.wrap = none ∧ s.keysGone.key.tree = none :=
  ⟨clearRoot_root s.attestAbort, rfl, rfl⟩

theorem keysGone_tile (s : State) : s.keysGone.tile = s.tile :=
  (clearSecrets_within (Part.All.of_all rfl) (clearDerived_within (Part.All.of_all rfl)
    (clearRoot_within (Part.All.of_all rfl) (attestAbort_within (Part.All.of_all rfl) (Within.refl s))))).keeps_tile

/-- ENTER_TEST in the states that list it. -/
theorem enterTest_eq (s : State) (h : s.tile.st = .bringUp ∨ s.tile.st = .ready) :
    s.enterTest = (s.keysGone.enterTile .test).raiseEvent (pg .tamper) 4 := by
  rcases h with h | h <;> simp [State.enterTest, h, State.keysGone]

/-- The blocks that a return to BRING_UP drives OFF, and the tile that it moves. -/
theorem blocksOff_tile (s : State) : s.blocksOff.tile = s.tile :=
  (blocksOff_within (Part.All.of_all rfl) (Within.refl s)).keeps_tile

theorem blocksOff_st (s : State) (p : PageRef) (h : p ∈ allBlocks) : (s.blocksOff.hdr p).st = .off := allOff_st _ p h

/-- No block lies on a fixed page. -/
theorem allBlocks_ge : ∀ p ∈ allBlocks, 6 ≤ pageNum p := by decide

/-- The header of a block does not follow the tile. -/
theorem enterTile_blk (s : State) (t : TileState) {p : PageRef} (h : p ∈ allBlocks) : (s.enterTile t).hdr p = s.hdr p :=
  enterTile_hdrAt s t (allBlocks_ge p h)

/-- Steps that each leave the registers leave them. -/
theorem foldl_regs {α : Type} (f : State → α → State) (hf : ∀ s x, (f s x).regs = s.regs) (l : List α) (s : State) :
    (l.foldl f s).regs = s.regs := by
  induction l generalizing s with
  | nil => rfl
  | cons x l ih => rw [List.foldl_cons, ih, hf]

/-- Leaving TEST leaves TILE_RESET_CAUSE. -/
theorem leavesTest_cause (s : State) (n : Nat) : s.leavesTest.reg .TILE_RESET_CAUSE n = s.reg .TILE_RESET_CAUSE n := by
  have hraw (u : State) : u.rawEnd.regs = u.regs := by unfold State.rawEnd; split <;> rfl
  unfold State.leavesTest
  extract_lets u
  split
  · rw [reg_putFlag_ne _ _ (.inl (by decide))]
    unfold State.reg
    rw [hraw]
  · rfl

/-- TILE_RESET_CAUSE of a tile that enters a state: WATCHDOG is set where a tile that the watchdog fenced comes back (R44). -/
def State.causeIn (s : State) (t : TileState) : W64 :=
  if t = .bringUp ∧ s.tile.wdogFenced = true then (s.putFlag TILE_RESET_CAUSE.WATCHDOG 0 true).reg .TILE_RESET_CAUSE 0
  else s.reg .TILE_RESET_CAUSE 0

/-- What happens to the watchdog's fence and to the register before the watchdog follows does not matter to it. -/
theorem causeIn_congr {s u : State} (t : TileState) (ht : u.tile.wdogFenced = s.tile.wdogFenced)
    (hr : u.reg .TILE_RESET_CAUSE 0 = s.reg .TILE_RESET_CAUSE 0) : u.causeIn t = s.causeIn t := by
  have hp (v : State) : (v.putFlag TILE_RESET_CAUSE.WATCHDOG 0 true).reg .TILE_RESET_CAUSE 0 =
      fset (v.reg .TILE_RESET_CAUSE 0) TILE_RESET_CAUSE.WATCHDOG.hi TILE_RESET_CAUSE.WATCHDOG.lo 1 :=
    reg_setReg_same v _ _ _
  unfold State.causeIn
  rw [ht, hp, hp, hr]

theorem wdogFollows_cause (s : State) (old t : TileState) :
    (s.wdogFollows old t).reg .TILE_RESET_CAUSE 0 = s.causeIn t := by
  unfold State.wdogFollows
  extract_lets _ u _
  have hu : u.tile.wdogFenced = s.tile.wdogFenced ∧ u.regs = s.regs := by
    unfold u
    split <;> exact ⟨rfl, rfl⟩
  have hreg : u.reg .TILE_RESET_CAUSE 0 = s.reg .TILE_RESET_CAUSE 0 := by unfold State.reg; rw [hu.2]
  rw [← causeIn_congr t hu.1 hreg]
  by_cases h : t = .bringUp ∧ u.tile.wdogFenced = true
  · have hb : (t == .bringUp && u.tile.wdogFenced) = true := by simpa using h
    rw [if_pos hb, State.causeIn, if_pos h]
    rfl
  · have hb : ¬ (t == .bringUp && u.tile.wdogFenced) = true := by simpa using h
    rw [if_neg hb, State.causeIn, if_neg h]

/-- A tile that enters a state changes TILE_RESET_CAUSE for the watchdog alone. -/
theorem enterTile_cause (s : State) (t : TileState) : (s.enterTile t).reg .TILE_RESET_CAUSE 0 = s.causeIn t := by
  unfold State.enterTile
  extract_lets _ _ a b c d
  have hb : b.tile = a.tile ∧ b.reg .TILE_RESET_CAUSE 0 = a.reg .TILE_RESET_CAUSE 0 := by
    unfold b
    split
    · exact ⟨(leavesTest_within (Part.All.of_all rfl) (Within.refl a)).keeps_tile, leavesTest_cause a 0⟩
    · exact ⟨rfl, rfl⟩
  have hc : c.tile = b.tile ∧ c.regs = b.regs := by
    obtain ⟨h1, -, h2, -⟩ := portDrops_keeps b
    unfold c
    split
    · exact ⟨h1, h2⟩
    · exact ⟨rfl, rfl⟩
  have hcr : c.reg .TILE_RESET_CAUSE 0 = b.reg .TILE_RESET_CAUSE 0 := by unfold State.reg; rw [hc.2]
  have hd : d.reg .TILE_RESET_CAUSE 0 = s.causeIn t :=
    (wdogFollows_cause c s.tile.st t).trans (causeIn_congr t (by rw [hc.1, hb.1]) (hcr.trans hb.2))
  split
  · exact hd
  · rw [← hd]
    unfold State.reg
    rw [foldl_regs]
    exact fun _ _ => rfl

/-- The other bits of TILE_RESET_CAUSE stay as the tile enters a state. -/
theorem enterTile_causeFlag (s : State) (t : TileState) (f : Fld) (hf : f.reg = .TILE_RESET_CAUSE) (hok : f.ok = true)
    (ha : Fld.apart TILE_RESET_CAUSE.WATCHDOG f = true) : (s.enterTile t).flag f 0 = s.flag f 0 := by
  have h := enterTile_cause s t
  unfold State.causeIn at h
  split at h
  · rw [← flag_putFlag_apart s (f := TILE_RESET_CAUSE.WATCHDOG) 0 0 true rfl hok ha]
    unfold State.flag State.fld
    rw [hf, h]
  · unfold State.flag State.fld
    rw [hf, h]

/-- A tile that the watchdog fenced shows it in BRING_UP. -/
theorem enterTile_watchdog (s : State) (h : s.tile.wdogFenced = true) :
    (s.enterTile .bringUp).flag TILE_RESET_CAUSE.WATCHDOG 0 = true := by
  have hr := enterTile_cause s .bringUp
  rw [State.causeIn, if_pos ⟨rfl, h⟩] at hr
  rw [← flag_putFlag_same s TILE_RESET_CAUSE.WATCHDOG 0 true]
  exact congrArg (fun v => fget v _ _ == 1) hr

/-- LEAVE_TEST and UNFENCE_TILE in the states that list them. -/
theorem leaveTest_eq (s : State) (h : s.tile.st = .test) :
    s.leaveTest = (s.blocksOff.putFlag TILE_RESET_CAUSE.TEST_EXIT 0 true).enterTile .bringUp := by
  simp [State.leaveTest, h]

theorem unfenceTile_eq (s : State) (h : s.tile.st = .fenced) :
    s.unfenceTile = (s.blocksOff.putFlag TILE_RESET_CAUSE.UNFENCE 0 true).coreUp.enterTile .bringUp := by
  simp [State.unfenceTile, h]

/-- FENCE_TILE starts nothing beside a fence or a tamper response that runs. -/
theorem fenceTile_idle (s : State) (h : s.fenceable = true) (hr : s.tile.fencing.isSome = true ∨ s.tamp.responding = true) :
    s.fenceTile = s := by
  rw [State.fenceTile, if_pos h, State.tileFence]
  cases ht : s.tamp.responding with
  | true => simp
  | false => simp [hr.resolve_right (by simp [ht])]

/-- A state in which FENCE_TILE is allowed is one in which a fault fences the tile. -/
theorem fenceFalls_of_fenceable (s : State) (h : s.fenceable = true) : s.fenceFalls = true := by
  simp [State.fenceFalls, h]

/-- A tile that is being fenced keeps its state and its address. -/
theorem fenceTile_tile (s : State) (h : s.fenceable = true) (hf : s.tile.fencing = none) (hr : s.tamp.responding = false) :
    s.fenceTile.tile = { s.tile with fencing := some 0x0D, fence := ⟨0x0D, 5, false⟩ } := by
  rw [State.fenceTile, if_pos h]
  exact tileFence_tile s _ _ (fenceFalls_of_fenceable s h) hf hr

/-- BRING_UP_DONE is refused outside BRING_UP, without random numbers and without a root. -/
theorem bringUpDone_refused (s : State) (h : s.tile.st ≠ .bringUp ∨ s.rng.ready = false ∨ s.key.root = none) :
    s.bringUpDone = s.seq (pg .tile) := by
  rcases h with h | h | h <;> simp [State.bringUpDone, h]

theorem enterTest_refused (s : State) (h1 : s.tile.st ≠ .bringUp) (h2 : s.tile.st ≠ .ready) :
    s.enterTest = s.seq (pg .tile) := by
  simp [State.enterTest, h1, h2]

theorem leaveTest_refused (s : State) (h : s.tile.st ≠ .test) : s.leaveTest = s.seq (pg .tile) := by
  simp [State.leaveTest, h]

theorem fenceTile_refused (s : State) (h : s.fenceable = false) : s.fenceTile = s.seq (pg .tile) := by
  simp [State.fenceTile, h]

theorem unfenceTile_refused (s : State) (h : s.tile.st ≠ .fenced) : s.unfenceTile = s.seq (pg .tile) := by
  simp [State.unfenceTile, h]

/-- A TILE_CMD that is refused leaves SEQ alone. -/
theorem refused_keeps (s : State) :
    ((s.seq (pg .tile)).answeredOk.hdr (pg .tile)).fault.getLsbD 5 = true ∧ (s.seq (pg .tile)).answeredOk.tile = s.tile ∧
      (s.seq (pg .tile)).answeredOk.key = s.key ∧ (s.seq (pg .tile)).answeredOk.regs = s.regs :=
  ⟨seq_bit s _, seq_tile s _, seq_key s _, seq_regs s _⟩

/-- Settles O14: the commands one by one, those that are refused, and the return to READY. -/
theorem tileCommandsMoveTheTile : Obligations.TileCommandsMoveTheTile := by
  refine ⟨?_, ?_, ?_, ?_, ?_, ?_, ?_, ?_⟩
  · intro s req h hst hr hk hb
    obtain ⟨htile, hroot, hregs, hhdrs⟩ :=
      portDrops_keeps { s with tile := { s.tile with st := .ready, prev := .bringUp } }
    have hx : exec (.bringUpDone req) s = .next s.bringUpDone.answeredOk := exec_tileCmd s 1 (by decide) req h
    rw [bringUpDone_ready s hst hr hk hb, enterTile_ready s hst] at hx
    exact ⟨_, hx, htile, hroot, hregs, hhdrs, rfl⟩
  · intro s req h hst
    have hx : exec (.enterTest req) s = .next s.enterTest.answeredOk := exec_tileCmd s 2 (by decide) req h
    obtain ⟨hroot, hwrap, htree⟩ := keysGone_key s
    have hk := enterTile_kept s.keysGone .test
    have he := raiseEvent_keeps (s.keysGone.enterTile .test) (pg .tamper) 4
    have hkey := he.key_eq rfl rfl
    have htile := he.tile_eq rfl rfl
    have hbit := raiseEvent_bit (s.keysGone.enterTile .test) (pg .tamper) 4 (by decide)
    rw [enterTest_eq s hst] at hx
    refine ⟨_, hx, ?_, ?_, ?_, ?_, ?_, hbit⟩
    · exact (congrArg Tile.st htile).trans hk.st
    · exact (congrArg Tile.prev htile).trans (hk.prev.trans (congrArg Tile.st (keysGone_tile s)))
    · exact (congrArg Key.root hkey).trans (hk.root.trans hroot)
    · exact (congrArg Key.wrap hkey).trans (hk.wrapKey.trans hwrap)
    · exact (congrArg Key.tree hkey).trans (hk.treeKey.trans htree)
  · intro s req h hst
    have hx : exec (.leaveTest req) s = .next s.leaveTest.answeredOk := exec_tileCmd s 3 (by decide) req h
    have hoff := blocksOff_st s
    rw [leaveTest_eq s hst] at hx
    generalize s.blocksOff = b at hx hoff
    have hflag := (enterTile_causeFlag (b.putFlag TILE_RESET_CAUSE.TEST_EXIT 0 true) .bringUp TILE_RESET_CAUSE.TEST_EXIT
      rfl rfl rfl).trans (flag_putFlag_same b _ 0 true)
    have hst' := enterTile_st (b.putFlag TILE_RESET_CAUSE.TEST_EXIT 0 true) .bringUp
    have hblk (p : PageRef) (hp : p ∈ allBlocks) :=
      (congrArg Hdr.st (enterTile_blk (b.putFlag TILE_RESET_CAUSE.TEST_EXIT 0 true) .bringUp hp)).trans (hoff p hp)
    generalize (b.putFlag TILE_RESET_CAUSE.TEST_EXIT 0 true).enterTile .bringUp = u at hx hflag hst' hblk
    exact ⟨_, hx, hst', hflag, hblk⟩
  · intro s req h hf hn hr
    have hx : exec (.fenceTile req) s = .next s.fenceTile.answeredOk := exec_tileCmd s 4 (by decide) req h
    have ht := fenceTile_tile s hf hn hr
    generalize s.fenceTile = u at hx ht
    have htile : u.answeredOk.tile = { s.tile with fencing := some 0x0D, fence := ⟨0x0D, 5, false⟩ } := ht
    exact ⟨_, hx, by rw [htile], by rw [htile], by rw [htile], by rw [htile]⟩
  · intro s req h hf hr
    have hx : exec (.fenceTile req) s = .next s.fenceTile.answeredOk := exec_tileCmd s 4 (by decide) req h
    rwa [fenceTile_idle s hf hr] at hx
  · intro s req c h hc
    suffices hx : exec c s = .next (s.seq (pg .tile)).answeredOk from ⟨_, hx, refused_keeps s⟩
    rcases hc with ⟨rfl, hc⟩ | ⟨rfl, h1, h2⟩ | ⟨rfl, hc⟩ | ⟨rfl, hc⟩ | ⟨rfl, hc⟩
    · rw [← bringUpDone_refused s hc]; exact exec_tileCmd s 1 (by decide) req h
    · rw [← enterTest_refused s h1 h2]; exact exec_tileCmd s 2 (by decide) req h
    · rw [← leaveTest_refused s hc]; exact exec_tileCmd s 3 (by decide) req h
    · rw [← fenceTile_refused s hc]; exact exec_tileCmd s 4 (by decide) req h
    · rw [← unfenceTile_refused s hc]; exact exec_tileCmd s 5 (by decide) req h
  · intro s req h hst
    have hx : exec (.unfenceTile req) s = .next s.unfenceTile.answeredOk := exec_tileCmd s 5 (by decide) req h
    have htile := blocksOff_tile s
    have hoff := blocksOff_st s
    rw [unfenceTile_eq s hst] at hx
    generalize s.blocksOff = b at hx htile hoff
    have ht : (b.putFlag TILE_RESET_CAUSE.UNFENCE 0 true).coreUp.tile = s.tile := htile
    have hf : (b.putFlag TILE_RESET_CAUSE.UNFENCE 0 true).coreUp.flag TILE_RESET_CAUSE.UNFENCE 0 = true :=
      flag_putFlag_same b _ 0 true
    have hoff' (p : PageRef) (hp : p ∈ allBlocks) :
        ((b.putFlag TILE_RESET_CAUSE.UNFENCE 0 true).coreUp.hdr p).st = .off := hoff p hp
    generalize (b.putFlag TILE_RESET_CAUSE.UNFENCE 0 true).coreUp = u at hx ht hf hoff'
    have hst' := enterTile_st u .bringUp
    have haddr := (enterTile_addr u .bringUp).trans (congrArg Tile.addr ht)
    have hflag := (enterTile_causeFlag u .bringUp TILE_RESET_CAUSE.UNFENCE rfl rfl rfl).trans hf
    have hwdog (hw : s.tile.wdogFenced = true) := enterTile_watchdog u ((congrArg Tile.wdogFenced ht).trans hw)
    have hblk (p : PageRef) (hp : p ∈ allBlocks) := (congrArg Hdr.st (enterTile_blk u .bringUp hp)).trans (hoff' p hp)
    generalize u.enterTile .bringUp = v at hx hst' haddr hflag hwdog hblk
    exact ⟨_, hx, hst', haddr, hflag, hwdog, hblk⟩
  · intro s hw hst hn
    have hx : exec .runIdleTimeout s = .next s.runIdle := congrArg Host.Outcome.next (if_pos hw)
    have hr : s.runIdle = s.enterTile .ready := by simp [State.runIdle, hst, hn]
    rw [hx, hr, enterTile_plain s .ready (by simp [hst]) (by simp [hst]) nofun nofun (by simp [hst]) (by simp [hst])
      (by simp [hst]) (by simp [hst]), hst]

end Sys2Proof.Machine
end

section
/-! PROOFS. The interrupt vectors (O39, R33, R160, R162–R164, R168). -/

namespace Sys2Proof.Machine

/-! ## One vector at a time (R160, R162, R163) -/

/-- What a message that is formed makes of its vector. -/
def Vec.sent (x : Vec) : Vec := { x with captured := some x.count, timer := .stopped, duePend := false }

theorem formMsg_vec_same (s : State) (v : Nat) : (s.formMsg v).vec v = (s.vec v).sent :=
  vec_setVec_same s v (s.vec v).sent

theorem formMsg_vec_ne (s : State) {v w : Nat} (h : w ≠ v) : (s.formMsg v).vec w = s.vec w :=
  vec_setVec_ne s (s.vec v).sent h

theorem formMsg_msgs (s : State) (v : Nat) : (s.formMsg v).irq.msgs = s.irq.msgs ++ [v] := rfl

/-- From s to t nothing has happened but to vector v: it may have counted, been marked, or formed its message. -/
structure TouchesVec (s t : State) (v : Nat) : Prop where
  within : s.Within (only [.irq]) t
  others : ∀ w, w ≠ v → t.vec w = s.vec w
  msgs : ∀ w ∈ s.irq.msgs, w ∈ t.irq.msgs
  flush : t.irq.flush = s.irq.flush
  ack : t.irq.flushAck = s.irq.flushAck

theorem TouchesVec.refl (s : State) (v : Nat) : TouchesVec s s v :=
  ⟨Within.refl s, fun _ _ => rfl, fun _ h => h, rfl, rfl⟩

theorem TouchesVec.trans {s t u : State} {v : Nat} (h : TouchesVec s t v) (k : TouchesVec t u v) : TouchesVec s u v where
  within := Within.trans h.within k.within
  others w hw := (k.others w hw).trans (h.others w hw)
  msgs w hw := k.msgs w (h.msgs w hw)
  flush := k.flush.trans h.flush
  ack := k.ack.trans h.ack

theorem TouchesVec.regs {s t : State} {v : Nat} (h : TouchesVec s t v) : t.regs = s.regs := h.within.regs rfl
theorem TouchesVec.hdrs {s t : State} {v : Nat} (h : TouchesVec s t v) : t.hdrs = s.hdrs := h.within.hdrs rfl

theorem setVec_touches (s : State) (v : Nat) (x : Vec) : TouchesVec s (s.setVec v x) v :=
  ⟨setVec_within (Part.all_only _) v x (Within.refl s), fun _ hw => vec_setVec_ne s x hw, fun _ h => h, rfl, rfl⟩

theorem formMsg_touches (s : State) (v : Nat) : TouchesVec s (s.formMsg v) v :=
  ⟨formMsg_within (Part.all_only _) v (Within.refl s), fun _ hw => formMsg_vec_ne s hw,
    fun _ h => List.mem_append_left _ h, rfl, rfl⟩

theorem judge_touches (s : State) (v : Nat) : TouchesVec s (s.judge v) v := by
  unfold State.judge
  split
  · exact formMsg_touches s v
  · exact .refl s v

/-- A vector that is judged keeps its count: if it is due, its message captures it. -/
theorem judge_count (s : State) (v : Nat) : ((s.judge v).vec v).count = (s.vec v).count := by
  unfold State.judge
  split
  · rw [formMsg_vec_same]; rfl
  · rfl

theorem judge_flushPend (s : State) (v : Nat) : ((s.judge v).vec v).flushPend = (s.vec v).flushPend := by
  unfold State.judge
  split
  · rw [formMsg_vec_same]; rfl
  · rfl

/-- The vector counts k events; moderation has yet to judge it. -/
def State.counted (s : State) (v k : Nat) : State :=
  s.setVec v { s.vec v with
    count := satAdd (s.vec v).count k 0xFFFF
    timer := if (s.vec v).timer == .stopped then .running else (s.vec v).timer }

/-- The wake signal rises. -/
def State.wakeRaised (s : State) : State := { s with irq := { s.irq with wakeOut := true } }

theorem wakeRaised_touches (s : State) (v : Nat) : TouchesVec s s.wakeRaised v :=
  ⟨within_irq rfl (Within.refl s), fun _ _ => rfl, fun _ h => h, rfl, rfl⟩

/-- A vector below V250 counts, raises the wake signal if it may wake the host, and sends, waits or is judged. -/
theorem countVec_eq (s : State) {v k : Nat} (hk : k ≠ 0) (hv : v < 250) : s.countVec v k =
    (if (s.counted v k).flag IRQ_CTL.HOST_SLEEP 0 && (s.counted v k).flag IRQ_VEC_CFG.WAKE v then
      if ((s.counted v k).wakeRaised.vec v).captured.isSome then
        (s.counted v k).wakeRaised.setVec v { (s.counted v k).wakeRaised.vec v with duePend := true }
      else if (s.counted v k).wakeRaised.flag IRQ_VEC_CFG.EN v then (s.counted v k).wakeRaised.formMsg v
      else (s.counted v k).wakeRaised
    else (s.counted v k).judge v) := by
  rw [State.countVec, if_neg (by omega)]
  rfl

/-- What a vector that counts shares with the one before: nothing else changes, its count grows, its part in a flush stays. -/
structure CountsVec (s t : State) (v k : Nat) : Prop where
  touches : TouchesVec s t v
  count : (t.vec v).count = satAdd (s.vec v).count k 0xFFFF
  flushPend : (t.vec v).flushPend = (s.vec v).flushPend

theorem counted_counts (s : State) (v k : Nat) : CountsVec s (s.counted v k) v k :=
  ⟨setVec_touches _ _ _, by simp [State.counted], by simp [State.counted]⟩

/-- What comes after the count keeps it: a mark, a message, or nothing. -/
theorem CountsVec.next {s t u : State} {v k : Nat} (h : CountsVec s t v k) (ht : TouchesVec t u v)
    (hc : (u.vec v).count = (t.vec v).count) (hf : (u.vec v).flushPend = (t.vec v).flushPend) : CountsVec s u v k :=
  ⟨h.touches.trans ht, hc.trans h.count, hf.trans h.flushPend⟩

theorem countVec_counts (s : State) {v k : Nat} (hk : k ≠ 0) (hv : v < 250) : CountsVec s (s.countVec v k) v k := by
  have hc := counted_counts s v k
  rw [countVec_eq s hk hv]
  split
  · have hw : CountsVec s (s.counted v k).wakeRaised v k := hc.next (wakeRaised_touches _ v) rfl rfl
    split
    · exact hw.next (setVec_touches _ _ _) (by simp) (by simp)
    · split
      · exact hw.next (formMsg_touches _ _) (by rw [formMsg_vec_same]; rfl) (by rw [formMsg_vec_same]; rfl)
      · exact hw
  · exact hc.next (judge_touches _ _) (judge_count _ _) (judge_flushPend _ _)

theorem countVec_none (s : State) {v k : Nat} (h : k = 0 ∨ 250 ≤ v) : s.countVec v k = s := by
  rw [State.countVec, if_pos h]

theorem countVec_touches (s : State) (v k : Nat) : TouchesVec s (s.countVec v k) v := by
  by_cases h : k = 0 ∨ 250 ≤ v
  · rw [countVec_none s h]; exact .refl s v
  · rw [not_or, Nat.not_le] at h
    exact (countVec_counts s h.1 h.2).touches

/-- A vector that counts keeps its part in a flush, and every other vector keeps its own. -/
theorem countVec_flushPend (s : State) (v k w : Nat) : ((s.countVec v k).vec w).flushPend = (s.vec w).flushPend := by
  by_cases e : w = v
  · subst e
    by_cases h : k = 0 ∨ 250 ≤ w
    · rw [countVec_none s h]
    · rw [not_or, Nat.not_le] at h
      exact (countVec_counts s h.1 h.2).flushPend
  · rw [(countVec_touches s v k).others w e]

/-! ## A moderation timer runs out (R162) -/

theorem unit_ok (s : State) {n k : Nat} (f : State → State) (h : n < k) : s.unit n k f = f s := if_pos h

theorem vecTimer_running (s : State) (v : Nat) (ha : s.asleep = false) (ht : (s.vec v).timer = .running)
    (hf : s.fld IRQ_VEC_CFG.TIMER v ≠ 0) :
    s.vecTimer v = (s.setVec v { s.vec v with timer := .expired }).judge v := by
  have hb : (s.fld IRQ_VEC_CFG.TIMER v == 0) = false := beq_eq_false_iff_ne.mpr hf
  simp [State.vecTimer, ha, ht, hb]

/-- A vector whose timer has run is due if it is enabled, has a count, and no message of its own waits. -/
theorem vecDue_expired (s : State) (v : Nat) (x : Vec) (ht : x.timer = .expired) (hf : s.fld IRQ_VEC_CFG.TIMER v ≠ 0) :
    (s.setVec v x).vecDue v = true ↔ s.flag IRQ_VEC_CFG.EN v = true ∧ x.captured = none ∧ 1 ≤ x.count := by
  have hfl : (s.setVec v x).flag IRQ_VEC_CFG.EN v = s.flag IRQ_VEC_CFG.EN v := rfl
  have hfd : (s.setVec v x).fld IRQ_VEC_CFG.TIMER v = s.fld IRQ_VEC_CFG.TIMER v := rfl
  simp [State.vecDue, hfl, hfd, ht, hf, and_assoc]

/-! ## A message is accepted (R162, R164) -/

/-- The vectors from s to t keep their parts in a flush, and the flush stays as it is. -/
structure KeepsFlush (s t : State) : Prop where
  flush : t.irq.flush = s.irq.flush
  ack : t.irq.flushAck = s.irq.flushAck
  pend : ∀ w, (t.vec w).flushPend = (s.vec w).flushPend

theorem KeepsFlush.of_irq {s t : State} (h : t.irq = s.irq) : KeepsFlush s t :=
  ⟨by rw [h], by rw [h], fun w => by unfold State.vec; rw [h]⟩

theorem KeepsFlush.refl (s : State) : KeepsFlush s s := .of_irq rfl

theorem KeepsFlush.trans {s t u : State} (h : KeepsFlush s t) (k : KeepsFlush t u) : KeepsFlush s u :=
  ⟨k.flush.trans h.flush, k.ack.trans h.ack, fun w => (k.pend w).trans (h.pend w)⟩

theorem countVec_keepsFlush (s : State) (v k : Nat) : KeepsFlush s (s.countVec v k) :=
  ⟨(countVec_touches s v k).flush, (countVec_touches s v k).ack, countVec_flushPend s v k⟩

theorem raiseEvent_keepsFlush (s : State) (p : PageRef) (b : Nat) : KeepsFlush s (s.raiseEvent p b) := by
  unfold State.raiseEvent
  extract_lets h t
  have ht : KeepsFlush s t := .of_irq rfl
  split
  · exact .refl s
  · split
    · exact .of_irq rfl
    · split
      · split
        · exact ht.trans (countVec_keepsFlush _ _ _)
        · exact ht
      · exact ht

theorem watch_keepsFlush (s : State) (e a b i : Nat) : KeepsFlush s (s.watch e a b i) := by
  unfold State.watch
  extract_lets n
  split
  · exact raiseEvent_keepsFlush _ _ _
  · exact .refl s

theorem perfCount_keepsFlush (s : State) (e k : Nat) : KeepsFlush s (s.perfCount e k) := by
  unfold State.perfCount
  split
  · extract_lets a t
    have ht : KeepsFlush s t := .of_irq rfl
    exact List.foldlRecOn _ _ ht (fun u hu i _ => hu.trans (watch_keepsFlush _ _ _ _ _))
  · exact .refl s

theorem fld_of_reg {s t : State} {f : Fld} {n : Nat} (h : t.reg f.reg n = s.reg f.reg n) : t.fld f n = s.fld f n := by
  unfold State.fld; rw [h]

theorem flag_of_reg {s t : State} {f : Fld} {n : Nat} (h : t.reg f.reg n = s.reg f.reg n) : t.flag f n = s.flag f n := by
  unfold State.flag; rw [fld_of_reg h]

/-- A window that is off, or that watches another event, raises nothing. -/
theorem watch_unwatched (s : State) (e a b i : Nat) (h : s.flag PERF_WATCH.EN i = true → s.fld PERF_WATCH.EVENT i ≠ e) :
    s.watch e a b i = s := by
  rw [State.watch, if_neg]
  simp only [Bool.and_eq_true, beq_iff_eq, not_and]
  intro hx
  exact absurd hx.2 (h hx.1)

/-- A count that no window watches raises no event. -/
theorem perfCount_irq (s : State) (e k : Nat) (h : ∀ i, i < 4 → s.flag PERF_WATCH.EN i = true → s.fld PERF_WATCH.EVENT i ≠ e) :
    (s.perfCount e k).irq = s.irq := by
  unfold State.perfCount
  split
  · extract_lets a t
    have he (i : Nat) : t.flag PERF_WATCH.EN i = s.flag PERF_WATCH.EN i := flag_of_reg (reg_put_ne _ _ (Or.inl (by decide)))
    have hv (i : Nat) : t.fld PERF_WATCH.EVENT i = s.fld PERF_WATCH.EVENT i := fld_of_reg (reg_put_ne _ _ (Or.inl (by decide)))
    have hw (i : Nat) (hi : i < 4) (b : Nat) : t.watch e a b i = t :=
      watch_unwatched t e a b i (by rw [he, hv]; exact h i hi)
    have hf : (List.range 4).foldl (fun u i => u.watch e a (a + k) i) t = t := by
      simp [List.range_succ, hw]
    rw [hf]; rfl
  · rfl

theorem fnCount_irq (s : State) (f e k : Nat) : (s.fnCount f e k).irq = s.irq := by
  unfold State.fnCount; split <;> rfl

/-- The head of the channel has left. -/
def State.msgPopped (s : State) (v : Nat) (rest : List Nat) : State :=
  { s with irq := { s.irq with msgs := rest, lastMsg := some (s.msgWord v) } }

/-- The head of the channel has left, and is counted. -/
def State.msgSent (s : State) (v : Nat) (rest : List Nat) : State :=
  let t := ((s.msgPopped v rest).bump IRQ_MSG_CNT.COUNT 0 1).perfCount 70 1
  if t.flag IRQ_VEC_CFG.DEST v then t.fnCount (t.vecFunc v) 42 1 else t

/-- A vector whose message has been accepted. -/
def Vec.accepted (x : Vec) : Vec := { x with count := x.count - x.captured.getD 0, captured := none, flushPend := false }

/-- The vector whose message has left gives up what it captured, and sends again what it has counted since. -/
def State.msgSettled (s : State) (v : Nat) : State :=
  let x := s.vec v
  let t := s.setVec v x.accepted
  let u := if x.flushPend && t.vecDue v then t else t.flushed1 v
  if t.vecDue v then u.formMsg v else u.setVec v { u.vec v with duePend := false }

theorem msgAccepted_eq (s : State) {v : Nat} {rest : List Nat} (ho : s.evtOpen = true) (hm : s.irq.msgs = v :: rest) :
    s.msgAccepted = (s.msgSent v rest).msgSettled v := by
  simp only [State.msgAccepted, ho, hm]
  rfl

theorem msgSent_keepsFlush (s : State) (v : Nat) (rest : List Nat) : KeepsFlush s (s.msgSent v rest) := by
  unfold State.msgSent
  extract_lets t
  have hb : KeepsFlush s ((s.msgPopped v rest).bump IRQ_MSG_CNT.COUNT 0 1) := ⟨rfl, rfl, fun _ => rfl⟩
  have ht : KeepsFlush s t := hb.trans (perfCount_keepsFlush _ _ _)
  split
  · exact ht.trans (.of_irq (fnCount_irq _ _ _ _))
  · exact ht

theorem watch_flag_bump (s : State) (v i : Nat) (rest : List Nat) :
    ((s.msgPopped v rest).bump IRQ_MSG_CNT.COUNT 0 1).flag PERF_WATCH.EN i = s.flag PERF_WATCH.EN i :=
  flag_of_reg (reg_bump_ne _ _ (Or.inl (by decide)))

theorem watch_event_bump (s : State) (v i : Nat) (rest : List Nat) :
    ((s.msgPopped v rest).bump IRQ_MSG_CNT.COUNT 0 1).fld PERF_WATCH.EVENT i = s.fld PERF_WATCH.EVENT i :=
  fld_of_reg (reg_bump_ne _ _ (Or.inl (by decide)))

theorem msgSent_irq (s : State) (v : Nat) (rest : List Nat)
    (h : ∀ i, i < 4 → s.flag PERF_WATCH.EN i = true → s.fld PERF_WATCH.EVENT i ≠ 70) :
    (s.msgSent v rest).irq = { s.irq with msgs := rest, lastMsg := some (s.msgWord v) } := by
  unfold State.msgSent
  extract_lets t
  have ht : t.irq = (s.msgPopped v rest).irq := perfCount_irq _ _ _ (fun i hi he => by
    rw [watch_flag_bump] at he
    rw [watch_event_bump]
    exact h i hi he)
  split
  · rw [fnCount_irq, ht]; rfl
  · exact ht

theorem msgSent_count (s : State) (v : Nat) (rest : List Nat) :
    (s.msgSent v rest).fld IRQ_MSG_CNT.COUNT 0 = min (s.fld IRQ_MSG_CNT.COUNT 0 + 1) 0xFFFFFFFF := by
  unfold State.msgSent
  extract_lets t
  have ht : t.fld IRQ_MSG_CNT.COUNT 0 = min (s.fld IRQ_MSG_CNT.COUNT 0 + 1) 0xFFFFFFFF := by
    unfold State.fld
    rw [show t.reg IRQ_MSG_CNT.COUNT.reg 0 = _ from perfCount_reg_ne _ _ _ _ (by decide)]
    exact fld_bump_same _ IRQ_MSG_CNT.COUNT 0 1
  split
  · rw [State.fnCount]
    split
    · rw [fld_put_reg _ _ _ _ (by decide), ht]
    · exact ht
  · exact ht

theorem flushed1_irq (s : State) (v : Nat) (h : s.irq.flushAck = false) :
    ∃ l, s.flushed1 v = { s with irq := { s.irq with flush := l } } := by
  unfold State.flushed1
  split
  · exact ⟨s.irq.flush, rfl⟩
  · extract_lets l
    exact ⟨l, by simp [h]⟩

/-- Outside a flush of HOST_SLEEP the vector gives up its capture; with nothing counted since, it is done. -/
theorem msgSettled_keeps (s : State) (v n : Nat) (hc : (s.vec v).captured = some n) (ha : s.irq.flushAck = false) :
    ((s.msgSettled v).vec v).count = (s.vec v).count - n ∧ (s.msgSettled v).irq.lastMsg = s.irq.lastMsg ∧
      (s.msgSettled v).regs = s.regs ∧
      ((s.vec v).count ≤ n → (s.msgSettled v).irq.msgs = s.irq.msgs ∧ ((s.msgSettled v).vec v).captured = none) := by
  unfold State.msgSettled
  extract_lets x t u
  have hx : x.captured.getD 0 = n := by simp only [x, hc, Option.getD_some]
  have hy : t.vec v = x.accepted := vec_setVec_same _ _ _
  obtain ⟨l, hl⟩ := flushed1_irq t v (show t.irq.flushAck = false from ha)
  have hu : u.vec v = x.accepted ∧ u.irq.lastMsg = s.irq.lastMsg ∧ u.regs = s.regs ∧ u.irq.msgs = s.irq.msgs := by
    by_cases e : (x.flushPend && t.vecDue v) = true
    · rw [show u = t from if_pos e]; exact ⟨hy, rfl, rfl, rfl⟩
    · rw [show u = t.flushed1 v from if_neg e, hl]; exact ⟨hy, rfl, rfl, rfl⟩
  obtain ⟨hv, hm, hr, hs⟩ := hu
  have hcount : x.accepted.count = x.count - n := by rw [Vec.accepted, hx]
  split
  · rename_i hd
    refine ⟨by rw [formMsg_vec_same, hv]; exact hcount, hm, hr, fun hle => ?_⟩
    have : 1 ≤ x.accepted.count := by
      simp only [State.vecDue, hy, Bool.and_eq_true, decide_eq_true_eq] at hd
      exact hd.1.2
    have hxc : x.count ≤ n := hle
    omega
  · refine ⟨by rw [vec_setVec_same]; exact (congrArg Vec.count hv).trans hcount, hm, hr, fun _ =>
      ⟨hs, by rw [vec_setVec_same]; exact congrArg Vec.captured hv⟩⟩

/-- The last message of the flush of HOST_SLEEP ends it with its event. -/
theorem msgSettled_flushed (s : State) (v : Nat) (hf : s.irq.flush = [v]) (ha : s.irq.flushAck = true)
    (hp : (s.vec v).flushPend = false) :
    (s.msgSettled v).irq.flush = [] ∧ (s.msgSettled v).irq.flushAck = false ∧
      ((s.msgSettled v).hdr (pg .irq)).event.getLsbD 0 = true := by
  unfold State.msgSettled
  extract_lets x t u
  have hl : t.flushed1 v = ({ t with irq := { t.irq with flush := [], flushAck := false } }).raiseEvent (pg .irq) 0 := by
    have h1 : t.irq.flush = [v] := hf
    have h2 : t.irq.flushAck = true := ha
    simp [State.flushed1, h1, h2]
  have hu : u = t.flushed1 v := if_neg (by simp [x, hp])
  have hk := raiseEvent_keepsFlush { t with irq := { t.irq with flush := [], flushAck := false } } (pg .irq) 0
  have hb := raiseEvent_bit { t with irq := { t.irq with flush := [], flushAck := false } } (pg .irq) 0 (by decide)
  rw [← hl, ← hu] at hk hb
  split
  · exact ⟨hk.flush, hk.ack, hb⟩
  · exact ⟨hk.flush, hk.ack, hb⟩

/-! ## Flushes and forced events (R160, R164, R168) -/

theorem sendNow_touches (s : State) (v : Nat) : TouchesVec s (s.sendNow v) v := by
  unfold State.sendNow
  extract_lets x
  split
  · split
    · exact setVec_touches _ _ _
    · exact formMsg_touches _ _
  · exact .refl s v

/-- A vector that can send forms its message, if none of its own waits. -/
theorem sendNow_free (s : State) (v : Nat) (he : s.flag IRQ_VEC_CFG.EN v = true) (hc : 1 ≤ (s.vec v).count)
    (hn : (s.vec v).captured = none) : s.sendNow v = s.formMsg v := by
  simp [State.sendNow, he, hc, hn]

/-- One whose message waits is marked to send again. -/
theorem sendNow_waits (s : State) (v : Nat) (he : s.flag IRQ_VEC_CFG.EN v = true) (hc : 1 ≤ (s.vec v).count)
    (hn : (s.vec v).captured ≠ none) : s.sendNow v = s.setVec v { s.vec v with duePend := true } := by
  have hs : (s.vec v).captured.isSome = true := Option.isSome_iff_ne_none.mpr hn
  simp [State.sendNow, he, hc, hs]

/-- What the vectors and messages look like after each vector of a list has been touched in turn. -/
theorem foldl_touches {f : State → Nat → State} (hf : ∀ u v, TouchesVec u (f u v) v) (l : List Nat) (s : State) :
    s.Within (only [.irq]) (l.foldl f s) ∧ (l.foldl f s).irq.flush = s.irq.flush ∧
      (l.foldl f s).irq.flushAck = s.irq.flushAck ∧ (∀ w ∈ s.irq.msgs, w ∈ (l.foldl f s).irq.msgs) ∧
      ∀ w, w ∉ l → (l.foldl f s).vec w = s.vec w := by
  induction l generalizing s with
  | nil => exact ⟨Within.refl s, rfl, rfl, fun _ h => h, fun _ _ => rfl⟩
  | cons v l ih =>
    obtain ⟨hw, hfl, ha, hm, hv⟩ := ih (f s v)
    have ht := hf s v
    refine ⟨Within.trans ht.within hw, hfl.trans ht.flush, ha.trans ht.ack, fun w h => hm w (ht.msgs w h), fun w h => ?_⟩
    rw [List.mem_cons, not_or] at h
    exact (hv w h.2).trans (ht.others w h.1)

/-- A vector of a list without repetitions is as its own turn leaves it, and its turn finds it as it was. -/
theorem foldl_turn {f : State → Nat → State} (hf : ∀ u v, TouchesVec u (f u v) v) (l : List Nat) (hl : l.Nodup) (s : State)
    {v : Nat} (hv : v ∈ l) :
    ∃ u, u.vec v = s.vec v ∧ u.regs = s.regs ∧ (l.foldl f s).vec v = (f u v).vec v ∧
      ∀ w ∈ (f u v).irq.msgs, w ∈ (l.foldl f s).irq.msgs := by
  obtain ⟨a, b, rfl⟩ := List.append_of_mem hv
  have hd := List.nodup_append.mp hl
  have ha : v ∉ a := fun h => hd.2.2 v h v List.mem_cons_self rfl
  have hb : v ∉ b := (List.nodup_cons.mp hd.2.1).1
  obtain ⟨hw, -, -, -, hva⟩ := foldl_touches hf a s
  obtain ⟨-, -, -, hm, hvb⟩ := foldl_touches hf b (f (a.foldl f s) v)
  refine ⟨a.foldl f s, hva v ha, hw.regs rfl, ?_, ?_⟩
  · rw [List.foldl_append, List.foldl_cons]; exact hvb v hb
  · rw [List.foldl_append, List.foldl_cons]; exact hm

theorem flushSet_nodup (s : State) : s.flushSet.Nodup := List.nodup_range.filter _

theorem mem_flushSet {s : State} {v : Nat} (h : v ∈ s.flushSet) : s.flag IRQ_VEC_CFG.EN v = true ∧ 1 ≤ (s.vec v).count := by
  simp only [State.flushSet, List.mem_filter, Bool.and_eq_true, decide_eq_true_eq] at h
  exact h.2

/-- A write of IRQ_FLUSH.ALL sends every vector that can send. -/
theorem flushAll_sends (s : State) {v : Nat} (h : v ∈ s.flushSet) :
    ((s.vec v).captured = none → ((s.flushSet.foldl (fun s v => s.sendNow v) s).vec v).captured = some (s.vec v).count ∧
      v ∈ (s.flushSet.foldl (fun s v => s.sendNow v) s).irq.msgs) ∧
    ((s.vec v).captured ≠ none → ((s.flushSet.foldl (fun s v => s.sendNow v) s).vec v).duePend = true) := by
  obtain ⟨u, hv, hr, ht, hm⟩ := foldl_turn sendNow_touches s.flushSet (flushSet_nodup s) s h
  obtain ⟨he, hc⟩ := mem_flushSet h
  have heu : u.flag IRQ_VEC_CFG.EN v = true := (flag_congr _ _ hr).trans he
  refine ⟨fun hn => ?_, fun hn => ?_⟩
  · have hs := sendNow_free u v heu (hv ▸ hc) (hv ▸ hn)
    rw [hs] at ht hm
    rw [ht, formMsg_vec_same, ← hv]
    exact ⟨rfl, hm v (by rw [formMsg_msgs]; simp)⟩
  · have hs := sendNow_waits u v heu (hv ▸ hc) (hv ▸ hn)
    rw [hs] at ht
    rw [ht, vec_setVec_same]

/-- A vector's turn in a flush of HOST_SLEEP. -/
def State.flushStep (s : State) (v : Nat) : State :=
  (s.setVec v { s.vec v with flushPend := (s.vec v).captured.isSome }).sendNow v

theorem flushStep_touches (s : State) (v : Nat) : TouchesVec s (s.flushStep v) v :=
  (setVec_touches _ _ _).trans (sendNow_touches _ _)

/-- A flush of HOST_SLEEP with nothing to send ends at once with its event. -/
theorem irqFlush_empty (s : State) (h : s.flushSet = []) : s.irqFlush true = s.raiseEvent (pg .irq) 0 := by
  simp [State.irqFlush, h]

theorem irqFlush_eq (s : State) (h : s.flushSet ≠ []) :
    ∃ t, t = s.flushSet.foldl State.flushStep s ∧
      s.irqFlush true = { t with irq := { t.irq with flush := s.flushSet, flushAck := true } } := by
  have he : s.flushSet.isEmpty = false := by simpa using h
  refine ⟨_, rfl, ?_⟩
  simp only [State.irqFlush, he, Bool.or_true]
  rfl

theorem irqFlush_sends (s : State) {v : Nat} (h : v ∈ s.flushSet) (hn : (s.vec v).captured = none) :
    ((s.irqFlush true).vec v).captured = some (s.vec v).count ∧ v ∈ (s.irqFlush true).irq.msgs := by
  obtain ⟨t, htf, heq⟩ := irqFlush_eq s (List.ne_nil_of_mem h)
  obtain ⟨u, hv, hr, ht, hm⟩ := foldl_turn flushStep_touches s.flushSet (flushSet_nodup s) s h
  rw [← htf] at ht hm
  obtain ⟨he, hc⟩ := mem_flushSet h
  have hs : u.flushStep v = (u.setVec v { u.vec v with flushPend := (u.vec v).captured.isSome }).formMsg v :=
    sendNow_free _ v ((flag_congr _ _ hr).trans he) (by simpa [hv] using hc) (by simpa [hv] using hn)
  have hvec : t.vec v = _ := ht.trans (by rw [hs, formMsg_vec_same, vec_setVec_same])
  have hc1 : ((s.irqFlush true).vec v).captured = (t.vec v).captured := by rw [heq]; rfl
  have hm1 : (s.irqFlush true).irq.msgs = t.irq.msgs := by rw [heq]
  rw [hc1, hm1, hvec, ← hv]
  exact ⟨rfl, hm v (by rw [hs, formMsg_msgs]; simp)⟩

theorem irqFlush_regs (s : State) : (s.irqFlush true).regs = s.regs := by
  by_cases h : s.flushSet = []
  · rw [irqFlush_empty s h]; exact (raiseEvent_keeps _ _ _).regs rfl
  · obtain ⟨t, ht, heq⟩ := irqFlush_eq s h
    rw [heq]
    show t.regs = s.regs
    rw [ht]; exact (foldl_touches flushStep_touches _ _).1.regs rfl

/-- HOST_SLEEP rises: a flush of what was to send before it begins. -/
theorem hostSleep_rises (s : State) (h : s.flag IRQ_CTL.HOST_SLEEP 0 = false) :
    s.hostSleep true = (s.putFlag IRQ_CTL.HOST_SLEEP 0 true).irqFlush true := by
  simp [State.hostSleep, h]

theorem flushSet_putFlag (s : State) (f : Fld) (n : Nat) (b : Bool) (h : f.reg ≠ .IRQ_VEC_CFG) :
    (s.putFlag f n b).flushSet = s.flushSet := by
  have hf (v : Nat) : (s.putFlag f n b).flag IRQ_VEC_CFG.EN v = s.flag IRQ_VEC_CFG.EN v :=
    flag_of_reg (reg_putFlag_ne _ _ (Or.inl (Ne.symm h)))
  have hv (v : Nat) : (s.putFlag f n b).vec v = s.vec v := rfl
  simp only [State.flushSet, hf, hv]

/-! ## Fields of a word that is written -/

/-- A field of a word is decided by its bits. -/
theorem fget_congr {v w : W64} {hi lo : Nat} (h : ∀ i ≤ hi, lo ≤ i → v.getLsbD i = w.getLsbD i) (hl : lo ≤ hi := by decide) :
    fget v hi lo = fget w hi lo := by
  unfold fget bitsOf
  apply Nat.eq_of_testBit_eq
  intro i
  rw [Nat.testBit_mod_two_pow, Nat.testBit_mod_two_pow, Nat.testBit_div_two_pow, Nat.testBit_div_two_pow]
  by_cases e : i < hi - lo + 1
  · exact congrArg _ (h (i + lo) (by omega) (by omega))
  · simp [e]

/-- A field of one bit is 1 exactly if the bit is. -/
theorem fget_bit (v : W64) (i : Nat) : (fget v i i == 1) = v.getLsbD i := by
  rw [fget, bitsOf, Nat.sub_self, BitVec.getLsbD, Nat.testBit_eq_decide_div_mod_eq]
  exact beq_eq_decide _ _

/-- A word a whose bits under the mask m are those of b. -/
def wordMerge (a b m : W64) : W64 := (a &&& ~~~m) ||| (b &&& m)

/-- A field under the mask is the other word's. -/
theorem fget_wordMerge_in (a b m : W64) (hi lo : Nat) (h : ∀ i ≤ hi, lo ≤ i → m.getLsbD i = true)
    (hl : lo ≤ hi := by decide) : fget (wordMerge a b m) hi lo = fget b hi lo :=
  fget_congr (fun i h1 h2 => by simp [wordMerge, h i h1 h2]) hl

/-- A field clear of the mask stays. -/
theorem fget_wordMerge_out (a b m : W64) (hi lo : Nat) (h : ∀ i ≤ hi, lo ≤ i → m.getLsbD i = false) (hh : hi < 64 := by decide)
    (hl : lo ≤ hi := by decide) : fget (wordMerge a b m) hi lo = fget a hi lo :=
  fget_congr (fun i h1 h2 => by
    simp only [wordMerge, BitVec.getLsbD_or, BitVec.getLsbD_and, BitVec.getLsbD_not, h i h1 h2, show i < 64 by omega]
    simp) hl

/-! ## IRQ_VEC_CFG (R168) -/

/-- The fields that a write of IRQ_VEC_CFG takes: DEST and FUNC for V64 to V249 alone. -/
def vecCfgMask (v : Nat) : W64 := if v < 64 then 0xC00FFFFF else 0xFF8FFFFF

theorem vecCfgWrite_reg (s : State) {v : Nat} (m : W64) (h : v < 250) :
    (s.vecCfgWrite v m).reg .IRQ_VEC_CFG v = wordMerge (s.reg .IRQ_VEC_CFG v) m (vecCfgMask v) := by
  have hr : (s.vecCfgWrite v m).regs = (s.setReg .IRQ_VEC_CFG v (wordMerge (s.reg .IRQ_VEC_CFG v) m (vecCfgMask v))).regs := by
    rw [State.vecCfgWrite, if_neg (by omega)]
    extract_lets was old k t x u
    have hu : u.regs = t.regs := by
      simp only [u]; split <;> rfl
    split
    · exact ((judge_touches u v).regs).trans hu
    · exact hu
  rw [State.reg, hr, ← State.reg, reg_setReg_same]

theorem vecCfg_merged (s : State) (v : Nat) (x : W32) :
    s.merged .IRQ_VEC_CFG v (x.setWidth 64) 0xFFFFFFFF = wordMerge (s.reg .IRQ_VEC_CFG v) (x.setWidth 64) 0xFF8FFFFF := by
  have hm : Reg.IRQ_VEC_CFG.bitsOf (fun a => a == .rw || a == .rwx) &&& 0xFFFFFFFF = (0xFF8FFFFF : W64) := by decide
  rw [State.merged, hm]; rfl

/-- IRQ_VEC_CFG after its write: the word that is written where the vector takes it. -/
def vecCfgWord (old : W64) (v : Nat) (x : W32) : W64 := wordMerge old (wordMerge old (x.setWidth 64) 0xFF8FFFFF) (vecCfgMask v)

/-- A field that every vector takes. -/
theorem vecCfgWord_taken (old : W64) (v : Nat) (x : W32) (hi lo : Nat)
    (h : ∀ i ≤ hi, lo ≤ i → (0xC00FFFFF : W64).getLsbD i = true) (h' : ∀ i ≤ hi, lo ≤ i → (0xFF8FFFFF : W64).getLsbD i = true)
    (hl : lo ≤ hi := by decide) : fget (vecCfgWord old v x) hi lo = fget (x.setWidth 64) hi lo := by
  have hm : ∀ i ≤ hi, lo ≤ i → (vecCfgMask v).getLsbD i = true := by
    unfold vecCfgMask; split
    · exact h
    · exact h'
  rw [vecCfgWord, fget_wordMerge_in _ _ _ _ _ hm hl, fget_wordMerge_in _ _ _ _ _ h' hl]

/-- DEST and FUNC, which V0 to V63 do not take. -/
theorem vecCfgWord_upper (old : W64) (v : Nat) (x : W32) (hi lo : Nat)
    (h : ∀ i ≤ hi, lo ≤ i → (0xC00FFFFF : W64).getLsbD i = false) (h' : ∀ i ≤ hi, lo ≤ i → (0xFF8FFFFF : W64).getLsbD i = true)
    (hh : hi < 64 := by decide) (hl : lo ≤ hi := by decide) :
    fget (vecCfgWord old v x) hi lo = if v < 64 then fget old hi lo else fget (x.setWidth 64) hi lo := by
  unfold vecCfgWord vecCfgMask
  split
  · rw [fget_wordMerge_out _ _ _ _ _ h hh hl]
  · rw [fget_wordMerge_in _ _ _ _ _ h' hl, fget_wordMerge_in _ _ _ _ _ h' hl]

/-! ## Event enables (R33, R160) -/

/-- The events of a page count on vectors below V250. -/
theorem eventVec_lt {p : PageRef} {b w : Nat} (h : eventVec p b = some w) : w < 250 := by
  unfold eventVec at h
  split at h
  case h_2 =>
    by_cases e : b < 15
    · interval_cases b <;> simp at h <;> omega
    · rw [List.getD_eq_default _ _ (by simpa using e)] at h; cases h
  all_goals grind

/-- The turn of an event bit in a write of the enables, awake. -/
def State.eventRises (s : State) (p : PageRef) (rose b : Nat) : State :=
  if bitAt rose b then
    match eventVec p b with
    | some v => s.countVec v 1
    | none => s
  else s

theorem eventRises_within (s : State) (p : PageRef) (rose b : Nat) : s.Within (only [.irq]) (s.eventRises p rose b) := by
  unfold State.eventRises
  split
  · split
    · exact (countVec_touches _ _ _).within
    · exact Within.refl s
  · exact Within.refl s

theorem eventRises_other (s : State) (p : PageRef) (rose b w : Nat) (h : bitAt rose b = true → eventVec p b ≠ some w) :
    (s.eventRises p rose b).vec w = s.vec w := by
  unfold State.eventRises
  split
  · rename_i hb
    split
    · rename_i v hv
      exact (countVec_touches _ _ _).others w (fun e => h hb (e ▸ hv))
    · rfl
  · rfl

theorem eventRises_count (s : State) (p : PageRef) (rose b w : Nat) (hb : bitAt rose b = true) (hv : eventVec p b = some w) :
    ((s.eventRises p rose b).vec w).count = min ((s.vec w).count + 1) 0xFFFF := by
  simp only [State.eventRises, hb, hv, if_true]
  exact (countVec_counts s one_ne_zero (eventVec_lt hv)).count

theorem foldl_rises_other (l : List Nat) (s : State) (p : PageRef) (rose w : Nat)
    (h : ∀ b ∈ l, bitAt rose b = true → eventVec p b ≠ some w) :
    (l.foldl (fun s b => s.eventRises p rose b) s).vec w = s.vec w :=
  List.foldlRecOn (motive := fun u => u.vec w = s.vec w) l _ rfl
    (fun u hu b hb => (eventRises_other u p rose b w (h b hb)).trans hu)

theorem foldl_rises_within (l : List Nat) (s : State) (p : PageRef) (rose : Nat) :
    s.Within (only [.irq]) (l.foldl (fun s b => s.eventRises p rose b) s) :=
  List.foldlRecOn (motive := fun u => s.Within (only [.irq]) u) l _ (Within.refl s)
    (fun u hu b _ => Within.trans hu (eventRises_within u p rose b))

/-- An event whose vector no other risen bit shares counts once. -/
theorem foldl_rises_count (l : List Nat) (hl : l.Nodup) (s : State) (p : PageRef) (rose b w : Nat) (hb : b ∈ l)
    (hr : bitAt rose b = true) (hv : eventVec p b = some w)
    (h : ∀ b', b' ≠ b → bitAt rose b' = true → eventVec p b' ≠ some w) :
    ((l.foldl (fun s b => s.eventRises p rose b) s).vec w).count = min ((s.vec w).count + 1) 0xFFFF := by
  obtain ⟨a, c, rfl⟩ := List.append_of_mem hb
  have hd := List.nodup_append.mp hl
  have ha : ∀ b' ∈ a, bitAt rose b' = true → eventVec p b' ≠ some w := fun b' hb' =>
    h b' (fun e => hd.2.2 b' hb' b List.mem_cons_self e)
  have hc : ∀ b' ∈ c, bitAt rose b' = true → eventVec p b' ≠ some w := fun b' hb' =>
    h b' (fun e => (List.nodup_cons.mp hd.2.1).1 (e ▸ hb'))
  rw [List.foldl_append, List.foldl_cons, foldl_rises_other c _ p rose w hc, eventRises_count _ p rose b w hr hv,
    foldl_rises_other a s p rose w ha]

/-- The enables that rise over events that are set. -/
def Hdr.rises (h : Hdr) (v : W32) : Nat := (v &&& ~~~h.eventEn &&& h.event).toNat

theorem rises_bit (h : Hdr) (v : W32) {b : Nat} :
    bitAt (h.rises v) b = (v.getLsbD b && (decide (b < 32) && !h.eventEn.getLsbD b) && h.event.getLsbD b) := by
  have he : bitAt (h.rises v) b = (v &&& ~~~h.eventEn &&& h.event).getLsbD b := by
    rw [BitVec.getLsbD, Nat.testBit_eq_decide_div_mod_eq]; exact beq_eq_decide _ _
  rw [he]; simp

/-- Two foldings agree whose steps agree while what they keep holds. -/
theorem foldl_eq_of_kept {α : Type} {P : State → Prop} {f g : State → α → State} (hg : ∀ u b, P u → P (g u b))
    (h : ∀ u b, P u → f u b = g u b) (l : List α) (s : State) (hs : P s) : l.foldl f s = l.foldl g s := by
  induction l generalizing s with
  | nil => rfl
  | cons b l ih => rw [List.foldl_cons, List.foldl_cons, h s b hs]; exact ih _ (hg s b hs)

theorem eventEnWrite_eq (s : State) (p : PageRef) (v : W32) (ha : s.asleep = false) :
    s.eventEnWrite p v = ((List.range 32).foldl (fun u b => u.eventRises p ((s.hdr p).rises v) b)
      (s.setHdr p { s.hdr p with eventEn := v })).ascending s.irq.msgs.length := by
  rw [State.eventEnWrite, State.enableRose]
  congr 1
  refine foldl_eq_of_kept (P := fun u => u.asleep = false) (fun u b hu => ?_) (fun u b hu => ?_) _ _ ha
  · unfold State.asleep at hu ⊢
    rw [(eventRises_within u p _ b).tile_eq rfl rfl]; exact hu
  · simp only [hu, Bool.false_eq_true, if_false]
    rfl

theorem eventEnWrite_keeps (s : State) (p : PageRef) (v : W32) (ha : s.asleep = false) :
    (s.setHdr p { s.hdr p with eventEn := v }).Within (only [.irq]) (s.eventEnWrite p v) := by
  rw [eventEnWrite_eq s p v ha]
  exact ascending_within (Part.all_only _) _ (foldl_rises_within _ _ _ _)

theorem eventEnWrite_count (s : State) (p : PageRef) (v : W32) (ha : s.asleep = false) {b w : Nat} (hb : b < 32)
    (hv : eventVec p b = some w) (he : (s.hdr p).event.getLsbD b = true) (hn : (s.hdr p).eventEn.getLsbD b = false)
    (hvb : v.getLsbD b = true)
    (h : ∀ b', b' ≠ b → eventVec p b' = some w → (s.hdr p).event.getLsbD b' = true → v.getLsbD b' = false) :
    ((s.eventEnWrite p v).vec w).count = min ((s.vec w).count + 1) 0xFFFF := by
  rw [eventEnWrite_eq s p v ha]
  refine foldl_rises_count _ List.nodup_range (s.setHdr p { s.hdr p with eventEn := v }) p ((s.hdr p).rises v) b w (List.mem_range.mpr hb) ?_ hv fun b' hne hr hw => ?_
  · rw [rises_bit, hvb, hn, he, decide_eq_true hb]; rfl
  · rw [rises_bit] at hr
    simp only [Bool.and_eq_true] at hr
    have := h b' hne hw hr.2
    rw [hr.1.1] at this; cases this

/-! ## The writes of the port -/

theorem writeReg_irqCtl (s : State) (v : W32) :
    s.writeReg .IRQ_CTL 0 (v.setWidth 64) 0xFFFFFFFF = s.hostSleep ((v.setWidth 64 &&& 0xFFFFFFFF : W64).getLsbD 0) := rfl

theorem writeReg_irqFlush (s : State) (v : W32) :
    s.writeReg .IRQ_FLUSH 0 (v.setWidth 64) 0xFFFFFFFF =
      s.irqFlushWrite ((v.setWidth 64 &&& 0xFFFFFFFF : W64).getLsbD 31) (fget (v.setWidth 64 &&& 0xFFFFFFFF) 7 0) := rfl

theorem writeReg_irqVecCfg (s : State) (n : Nat) (v : W32) :
    s.writeReg .IRQ_VEC_CFG n (v.setWidth 64) 0xFFFFFFFF =
      s.vecCfgWrite n (wordMerge (s.reg .IRQ_VEC_CFG n) (v.setWidth 64) 0xFF8FFFFF) := by
  rw [← vecCfg_merged]; rfl

theorem lowWord_setWidth (x : W32) : (x.setWidth 64 &&& 0xFFFFFFFF : W64) = x.setWidth 64 := by
  apply BitVec.eq_of_getLsbD_eq
  intro i _
  rw [BitVec.getLsbD_and, lowWord_getLsbD]
  by_cases h : i < 32
  · simp [h]
  · simp [h, BitVec.getLsbD_of_ge x i (by omega)]

/-- A word holds in its low byte what is put there, whatever stands above bit 7. -/
theorem lowByte_or (x : W32) {v : Nat} (hv : v < 256) (hx : x.toNat % 2 ^ 8 = 0) :
    fget ((x ||| BitVec.ofNat 32 v).setWidth 64 &&& 0xFFFFFFFF) 7 0 = v := by
  rw [lowWord_setWidth, fget, bitsOf, BitVec.toNat_setWidth_of_le (by decide), BitVec.toNat_or, BitVec.toNat_ofNat,
    pow_zero, Nat.div_one, Nat.mod_eq_of_lt (show v < 2 ^ 32 by omega), show 7 - 0 + 1 = 8 from rfl, Nat.or_mod_two_pow, hx,
    Nat.zero_or, Nat.mod_eq_of_lt (show v < 2 ^ 8 from hv)]

theorem vectorWord (f : Fld) (hh : f.hi = 7) (hl : f.lo = 0) {v : Nat} (hv : v < 256) : f.word v = BitVec.ofNat 32 v := by
  rw [Fld.word, hh, hl, Nat.mod_eq_of_lt (show v < 2 ^ (7 - 0 + 1) from hv), pow_zero, Nat.mul_one]

theorem flushVector_write (s : State) {v : Nat} (h : v < 250) :
    s.writeReg .IRQ_FLUSH 0 ((IRQ_FLUSH.VECTOR.word v).setWidth 64) 0xFFFFFFFF = s.sendNow v := by
  have hw : IRQ_FLUSH.VECTOR.word v = 0 ||| BitVec.ofNat 32 v := by
    rw [vectorWord _ rfl rfl (by omega)]; simp
  have hb : (IRQ_FLUSH.VECTOR.word v).getLsbD 31 = false := by
    rw [vectorWord _ rfl rfl (by omega), BitVec.getLsbD_ofNat, Nat.testBit_lt_two_pow (by omega), Bool.and_false]
  rw [writeReg_irqFlush, show ((IRQ_FLUSH.VECTOR.word v).setWidth 64 &&& 0xFFFFFFFF : W64).getLsbD 31 = false by
      rw [lowWord_setWidth, BitVec.getLsbD_setWidth, hb, Bool.and_false], hw,
    lowByte_or 0 (by omega) rfl, State.irqFlushWrite, if_neg Bool.false_ne_true, if_pos h]

/-- What a forced event of IRQ_XFORCE leaves, before its vector counts. -/
def State.forced (s : State) (v mask : W64) : State := (s.store .IRQ_XFORCE 0 v mask).putFlag IRQ_XFORCE.GO 0 false

theorem forced_irq (s : State) (v mask : W64) : (s.forced v mask).irq = s.irq := by
  rw [State.forced, State.putFlag, State.put, State.setReg_irq, State.store, State.setReg_irq]

theorem forced_hdrs (s : State) (v mask : W64) : (s.forced v mask).hdrs = s.hdrs := by
  rw [State.forced, State.putFlag, State.put, State.setReg_hdrs, State.store, State.setReg_hdrs]

theorem writeReg_irqXforce (s : State) (v : W64) :
    s.writeReg .IRQ_XFORCE 0 v 0xFFFFFFFF =
      if (v &&& 0xFFFFFFFF).getLsbD 31 then (s.forced v 0xFFFFFFFF).countVec (fget (v &&& 0xFFFFFFFF) 7 0) 1
      else s.forced v 0xFFFFFFFF := rfl

theorem forceWord {v : Nat} (h : v < 256) :
    IRQ_XFORCE.GO.word 1 ||| IRQ_XFORCE.VECTOR.word v = 0x80000000 ||| BitVec.ofNat 32 v := by
  rw [vectorWord IRQ_XFORCE.VECTOR rfl rfl h, show IRQ_XFORCE.GO.word 1 = 0x80000000 by decide]

theorem forceWord_go (v : Nat) : ((0x80000000 ||| BitVec.ofNat 32 v : W32).setWidth 64 &&& 0xFFFFFFFF : W64).getLsbD 31 = true := by
  rw [lowWord_setWidth, BitVec.getLsbD_setWidth, BitVec.getLsbD_or, show (0x80000000 : W32).getLsbD 31 = true by decide]
  rfl

theorem forceEvent_write (s : State) {v : Nat} (h : v < 250) :
    ∃ t : State, t.irq = s.irq ∧ t.hdrs = s.hdrs ∧
      s.writeReg .IRQ_XFORCE 0 ((IRQ_XFORCE.GO.word 1 ||| IRQ_XFORCE.VECTOR.word v).setWidth 64) 0xFFFFFFFF = t.countVec v 1 := by
  have hb := forceWord_go v
  have hv := lowByte_or 0x80000000 (show v < 256 by omega) (by decide)
  rw [forceWord (show v < 256 by omega)]
  generalize (0x80000000 ||| BitVec.ofNat 32 v : W32).setWidth 64 = x at hb hv
  exact ⟨s.forced x 0xFFFFFFFF, forced_irq s x _, forced_hdrs s x _, by rw [writeReg_irqXforce, if_pos hb, hv]⟩

/-! ## The vectors of O39 -/

/-- The command of a vector performs its write. -/
theorem exec_vecReg {s : State} {v k : Nat} (h : v < k) (r : Reg) (n : Nat) (x : W32) (req : Req) (ho : s.OpenReg r n req) :
    s.unit v k (fun s => s.cpReg r n x req) = (s.writeReg r n (x.setWidth 64) 0xFFFFFFFF).answeredOk := by
  rw [unit_ok s _ h, cpReg_open s r n x req ho]

theorem hostSleep_set : ((IRQ_CTL.HOST_SLEEP.word 1).setWidth 64 &&& 0xFFFFFFFF : W64).getLsbD 0 = true := by decide

theorem hostSleep_clear : ((IRQ_CTL.HOST_SLEEP.word 0).setWidth 64 &&& 0xFFFFFFFF : W64).getLsbD 0 = false := by decide

theorem flushAll_set : ((IRQ_FLUSH.ALL.word 1).setWidth 64 &&& 0xFFFFFFFF : W64).getLsbD 31 = true := by decide

/-- A timer that has run makes its vector send, if it can. -/
theorem timer_sends (s : State) (v : Nat) (hv : v < 256) (ha : s.asleep = false) (ht : (s.vec v).timer = .running)
    (hf : s.fld IRQ_VEC_CFG.TIMER v ≠ 0) :
    ∃ t, exec (.vectorTimerExpiry v) s = .next t ∧ (t.vec v).count = (s.vec v).count ∧
      (if s.flag IRQ_VEC_CFG.EN v = true ∧ (s.vec v).captured = none ∧ 1 ≤ (s.vec v).count then
        (t.vec v).captured = some (s.vec v).count ∧ (t.vec v).timer = Timer.stopped ∧ t.irq.msgs = s.irq.msgs ++ [v]
      else t.vec v = { s.vec v with timer := .expired } ∧ t.irq.msgs = s.irq.msgs) := by
  have hx : exec (.vectorTimerExpiry v) s = .next ((s.setVec v { s.vec v with timer := .expired }).judge v) :=
    congrArg Host.Outcome.next ((unit_ok s _ hv).trans (vecTimer_running s v ha ht hf))
  refine ⟨_, hx, by rw [judge_count]; simp, ?_⟩
  have hd := vecDue_expired s v { s.vec v with timer := .expired } rfl hf
  unfold State.judge
  split
  next h =>
    rw [if_pos (hd.mpr h), formMsg_vec_same, vec_setVec_same]
    exact ⟨rfl, rfl, rfl⟩
  next h =>
    rw [if_neg (fun e => h (hd.mp e)), vec_setVec_same]
    exact ⟨rfl, rfl⟩

/-- The fields of IRQ_VEC_CFG after its write. -/
theorem vecCfg_fields {t : State} {old : W64} {v : Nat} {x : W32} (hr : t.reg .IRQ_VEC_CFG v = vecCfgWord old v x) :
    t.flag IRQ_VEC_CFG.EN v = x.getLsbD 31 ∧ t.flag IRQ_VEC_CFG.WAKE v = x.getLsbD 30 ∧
      t.fld IRQ_VEC_CFG.SCALE v = fget (x.setWidth 64) 19 16 ∧ t.fld IRQ_VEC_CFG.TIMER v = fget (x.setWidth 64) 15 8 ∧
      t.fld IRQ_VEC_CFG.COUNT_THR v = fget (x.setWidth 64) 7 0 ∧
      t.fld IRQ_VEC_CFG.FUNC v = (if v < 64 then fget old 28 23 else fget (x.setWidth 64) 28 23) ∧
      t.fld IRQ_VEC_CFG.DEST v = (if v < 64 then fget old 29 29 else fget (x.setWidth 64) 29 29) := by
  have hfld (f : Fld) (hf : f.reg = .IRQ_VEC_CFG) : t.fld f v = fget (vecCfgWord old v x) f.hi f.lo := by
    rw [State.fld, hf, hr]
  have hbit (i : Nat) (h : i < 32) : (fget (x.setWidth 64) i i == 1) = x.getLsbD i := by
    rw [fget_bit, BitVec.getLsbD_setWidth, decide_eq_true (show i < 64 by omega), Bool.true_and]
  have hen := (hfld IRQ_VEC_CFG.EN rfl).trans (vecCfgWord_taken old v x 31 31 (by decide) (by decide))
  have hwake := (hfld IRQ_VEC_CFG.WAKE rfl).trans (vecCfgWord_taken old v x 30 30 (by decide) (by decide))
  exact ⟨by rw [State.flag, hen, hbit 31 (by decide)], by rw [State.flag, hwake, hbit 30 (by decide)],
    (hfld IRQ_VEC_CFG.SCALE rfl).trans (vecCfgWord_taken old v x 19 16 (by decide) (by decide)),
    (hfld IRQ_VEC_CFG.TIMER rfl).trans (vecCfgWord_taken old v x 15 8 (by decide) (by decide)),
    (hfld IRQ_VEC_CFG.COUNT_THR rfl).trans (vecCfgWord_taken old v x 7 0 (by decide) (by decide)),
    (hfld IRQ_VEC_CFG.FUNC rfl).trans (vecCfgWord_upper old v x 28 23 (by decide) (by decide)),
    (hfld IRQ_VEC_CFG.DEST rfl).trans (vecCfgWord_upper old v x 29 29 (by decide) (by decide))⟩

/-- Settles O39: each clause is what one command makes of a vector, or of the vectors of a flush in turn. -/
theorem vectorsCountAndSend : Obligations.VectorsCountAndSend := by
  unfold Obligations.VectorsCountAndSend
  refine ⟨timer_sends, ?_, ?_, ?_, ?_, ?_, ?_, ?_, ?_, ?_, ?_⟩
  · intro s v n rest ho hm hc ha hp
    have hx : exec .eventMsgAccepted s = .next ((s.msgSent v rest).msgSettled v) :=
      congrArg Host.Outcome.next (msgAccepted_eq s ho hm)
    have hi := msgSent_irq s v rest hp
    have hv : (s.msgSent v rest).vec v = s.vec v := by unfold State.vec; rw [hi]
    obtain ⟨h1, h2, h3, h4⟩ := msgSettled_keeps (s.msgSent v rest) v n (by rw [hv, hc]) (by rw [hi, ha])
    rw [hv, hi] at h4
    exact ⟨_, hx, by rw [h2, hi], by rw [h1, hv], by rw [fld_congr _ _ h3, msgSent_count], h4⟩
  · intro s v n rest ho hm _ ha hf hp
    have hx : exec .eventMsgAccepted s = .next ((s.msgSent v rest).msgSettled v) :=
      congrArg Host.Outcome.next (msgAccepted_eq s ho hm)
    have hk := msgSent_keepsFlush s v rest
    obtain ⟨h1, h2, h3⟩ := msgSettled_flushed (s.msgSent v rest) v (by rw [hk.flush, hf]) (by rw [hk.ack, ha])
      (by rw [hk.pend, hp])
    exact ⟨_, hx, h1, h2, h3⟩
  · intro s req ho hs
    have hx : exec (.hostSleepEnter req) s = .next ((s.putFlag IRQ_CTL.HOST_SLEEP 0 true).irqFlush true).answeredOk := by
      show Host.Outcome.next (s.cpReg .IRQ_CTL 0 _ req) = _
      rw [cpReg_open s .IRQ_CTL 0 _ req ho, writeReg_irqCtl, hostSleep_set, hostSleep_rises s hs]
    have hset : (s.putFlag IRQ_CTL.HOST_SLEEP 0 true).flushSet = s.flushSet := flushSet_putFlag _ _ _ _ (by decide)
    have hgo : (s.putFlag IRQ_CTL.HOST_SLEEP 0 true).flag IRQ_CTL.HOST_SLEEP 0 = true := flag_putFlag_same _ _ _ _
    have hvec (v : Nat) : (s.putFlag IRQ_CTL.HOST_SLEEP 0 true).vec v = s.vec v := rfl
    generalize s.putFlag IRQ_CTL.HOST_SLEEP 0 true = u at hx hset hgo hvec
    refine ⟨_, hx, (flag_congr _ _ (irqFlush_regs u)).trans hgo, fun he => ?_, fun hne => ?_, fun v hv hn => ?_⟩
    · rw [answeredOk_hdr, irqFlush_empty u (hset.trans he)]
      exact raiseEvent_bit _ _ _ (by decide)
    · obtain ⟨t, -, ht⟩ := irqFlush_eq u (hset ▸ hne)
      rw [ht, hset]
      exact ⟨rfl, rfl⟩
    · have := irqFlush_sends u (hset ▸ hv) ((hvec v).symm ▸ hn)
      rwa [hvec] at this
  · intro s req ho
    have hx : exec (.hostSleepExit req) s = .next (s.hostSleep false).answeredOk := by
      show Host.Outcome.next (s.cpReg .IRQ_CTL 0 _ req) = _
      rw [cpReg_open s .IRQ_CTL 0 _ req ho, writeReg_irqCtl, hostSleep_clear]
    exact ⟨_, hx, flag_putFlag_same s IRQ_CTL.HOST_SLEEP 0 false, rfl⟩
  · intro s req ho
    have hx : exec (.irqFlushAll req) s = .next (s.flushSet.foldl (fun s v => s.sendNow v) s).answeredOk := by
      show Host.Outcome.next (s.cpReg .IRQ_FLUSH 0 _ req) = _
      rw [cpReg_open s .IRQ_FLUSH 0 _ req ho, writeReg_irqFlush, flushAll_set, State.irqFlushWrite, if_pos rfl]
    obtain ⟨-, hf, -⟩ := foldl_touches sendNow_touches s.flushSet s
    exact ⟨_, hx, hf, fun v hv => flushAll_sends s hv⟩
  · intro s v req hv ho he hc
    have hx : exec (.irqFlushVector v req) s = .next (s.sendNow v).answeredOk := by
      rw [← flushVector_write s hv]
      exact congrArg Host.Outcome.next (exec_vecReg (by omega) .IRQ_FLUSH 0 _ req ho)
    have ht := sendNow_touches s v
    by_cases hn : (s.vec v).captured = none
    · rw [sendNow_free s v he hc hn] at hx ht
      refine ⟨_, hx, by rw [answeredOk_vec, formMsg_vec_same]; rfl, ht.others, fun _ => ⟨?_, rfl⟩, fun h => absurd hn h⟩
      rw [answeredOk_vec, formMsg_vec_same]; rfl
    · rw [sendNow_waits s v he hc hn] at hx ht
      refine ⟨_, hx, by rw [answeredOk_vec, vec_setVec_same], ht.others, fun h => absurd h hn, fun _ => ⟨?_, rfl⟩⟩
      rw [answeredOk_vec, vec_setVec_same]
  · intro s v req hv ho
    obtain ⟨t, hti, hth, hw⟩ := forceEvent_write s hv
    have hx : exec (.irqForceEvent v req) s = .next (t.countVec v 1).answeredOk := by
      rw [← hw]
      exact congrArg Host.Outcome.next (exec_vecReg (by omega) .IRQ_XFORCE 0 _ req ho)
    have htv (w : Nat) : t.vec w = s.vec w := by unfold State.vec; rw [hti]
    have hc := countVec_counts t one_ne_zero hv
    exact ⟨_, hx, hc.count.trans (by rw [htv]; rfl), fun w hne => (hc.touches.others w hne).trans (htv w),
      hc.touches.hdrs.trans hth⟩
  · intro s v x req hv ho
    have hx : exec (.irqVecCfgWrite v x req) s =
        .next (s.vecCfgWrite v (wordMerge (s.reg .IRQ_VEC_CFG v) (x.setWidth 64) 0xFF8FFFFF)).answeredOk := by
      rw [← writeReg_irqVecCfg]
      exact congrArg Host.Outcome.next (exec_vecReg (by omega) .IRQ_VEC_CFG v _ req ho)
    have hr : (s.vecCfgWrite v (wordMerge (s.reg .IRQ_VEC_CFG v) (x.setWidth 64) 0xFF8FFFFF)).answeredOk.reg .IRQ_VEC_CFG v =
        vecCfgWord (s.reg .IRQ_VEC_CFG v) v x := vecCfgWrite_reg s _ hv
    generalize (s.vecCfgWrite v (wordMerge (s.reg .IRQ_VEC_CFG v) (x.setWidth 64) 0xFF8FFFFF)).answeredOk = t at hx hr
    exact ⟨t, hx, vecCfg_fields hr⟩
  · intro s v x req hv hv' ho
    have hx : exec (.irqVecCfgWrite v x req) s =
        .next (s.vecCfgWrite v (wordMerge (s.reg .IRQ_VEC_CFG v) (x.setWidth 64) 0xFF8FFFFF)).answeredOk := by
      rw [← writeReg_irqVecCfg]
      exact congrArg Host.Outcome.next (exec_vecReg hv' .IRQ_VEC_CFG v _ req ho)
    rw [hx, State.vecCfgWrite, if_pos hv]
  · intro s p v req ho ha
    have hx : exec (.pageEventEnWrite p v req) s = .next (s.eventEnWrite p (v &&& 0x8000FFFF)).answeredOk :=
      congrArg Host.Outcome.next (hdrWrite_open s p 0x18 v req ho (by decide) rfl)
    have hw := eventEnWrite_keeps s p (v &&& 0x8000FFFF) ha
    have hh : (s.eventEnWrite p (v &&& 0x8000FFFF)).hdr p = { s.hdr p with eventEn := v &&& 0x8000FFFF } := by
      rw [State.hdr, State.hdrAt, hw.hdrs rfl]; exact hdr_setHdr_same _ _ _
    refine ⟨_, hx, by rw [answeredOk_hdr, hh], by rw [answeredOk_hdr, hh], hw.regs rfl, fun b w hb hv he hn hvb hne => ?_⟩
    have hm (b : Nat) : (v &&& 0x8000FFFF).getLsbD b = (v.getLsbD b && (0x8000FFFF : W32).getLsbD b) := BitVec.getLsbD_and
    have hlow : ∀ i < 16, (0x8000FFFF : W32).getLsbD i = true := by decide
    exact eventEnWrite_count s p _ ha (by omega) hv he hn (by rw [hm, hvb, hlow b hb]; rfl)
      (fun b' h1 h2 h3 => by rw [hm, hne b' h1 h2 h3]; rfl)

end Sys2Proof.Machine
end

section
/-! PROOFS. The watchdog (O15, R44, R161), and what a tile fence leaves of the header of TILE. -/

namespace Sys2Proof.Machine

/-! ## What the end of the tile's work leaves of the header of TILE -/

/-- The header of page 0, TILE, is in t what it was in s. -/
def TileHead (s t : State) : Prop := t.hdrAt 0 = s.hdrAt 0

theorem TileHead.refl (s : State) : TileHead s s := rfl

section
variable {s t : State}

/-- What changes no header changes none of TILE. -/
theorem TileHead.free {u : State} (k : t.Within (fun x => x != .hdrs) u) (h : TileHead s t) : TileHead s u := by
  unfold TileHead State.hdrAt at *
  rw [k.hdrs rfl, h]

theorem TileHead.same {u : State} (h : TileHead s t) (k : u.hdrs = t.hdrs) : TileHead s u := by
  unfold TileHead State.hdrAt at *
  rw [k, h]

theorem TileHead.foldl {α : Type} {f : State → α → State} (h : TileHead s t)
    (hf : ∀ u x, TileHead s u → TileHead s (f u x)) (l : List α) : TileHead s (l.foldl f t) :=
  List.foldlRecOn l f h (fun u hu x _ => hf u x hu)

theorem raiseEvent_head {p : PageRef} (hp : pageNum (pg .tile) ≠ pageNum p) (b : Nat) (h : TileHead s t) :
    TileHead s (t.raiseEvent p b) :=
  (raiseEvent_hdr_ne t b hp : (t.raiseEvent p b).hdr (pg .tile) = t.hdr (pg .tile)).trans h

theorem raiseFault_head {p : PageRef} (hp : pageNum (pg .tile) ≠ pageNum p) (b : Nat) (h : TileHead s t) :
    TileHead s (t.raiseFault p b) :=
  (raiseFault_hdr_ne t b hp : (t.raiseFault p b).hdr (pg .tile) = t.hdr (pg .tile)).trans h

theorem fnCount_head (f e k : Nat) (h : TileHead s t) : TileHead s (t.fnCount f e k) :=
  h.free (fnCount_within (Part.All.of_all rfl) _ _ _ (Within.refl t))

theorem watch_head (e a b i : Nat) (h : TileHead s t) : TileHead s (t.watch e a b i) := by
  unfold State.watch
  extract_lets n
  split
  · exact raiseEvent_head (by decide) _ h
  · exact h

theorem perfCount_head (e k : Nat) (h : TileHead s t) : TileHead s (t.perfCount e k) := by
  unfold State.perfCount
  split
  · extract_lets a u
    have hu : TileHead s u := h
    exact hu.foldl (fun _ _ hv => watch_head _ _ _ _ hv) _
  · exact h

/-! ### The fabric and the crown -/

theorem issueReq_head (p : Nat) (q : FabReq) (h : TileHead s t) : TileHead s (t.issueReq p q) := by
  unfold State.issueReq
  extract_lets pt wait
  have hw : TileHead s wait := h
  split
  · exact hw
  · split
    · split
      · exact perfCount_head _ _ h
      · exact hw
    · split
      · exact perfCount_head _ _ h
      · exact hw
    · split
      · exact h
      · exact hw

theorem startWrite_head (kind : XKind) (attr : Attr) (a : Nat) (data : Bytes) (port : Option Nat) (h : TileHead s t) :
    TileHead s (t.startWrite kind attr a data port).2 :=
  (h.free (newXfer_within (Part.All.of_all rfl) _ _ (Within.refl t))).foldl (fun _ _ hu => issueReq_head _ _ hu) _

theorem startRead_head (kind : XKind) (attr : Attr) (a n : Nat) (port : Option Nat) (h : TileHead s t) :
    TileHead s (t.startRead kind attr a n port).2 :=
  (h.free (newXfer_within (Part.All.of_all rfl) _ _ (Within.refl t))).foldl (fun _ _ hu => issueReq_head _ _ hu) _

theorem dropXfers_head (g : XKind → Bool) (h : TileHead s t) : TileHead s (t.dropXfers g) :=
  h.free (dropXfers_within (Part.All.of_all rfl) _ (Within.refl t))

theorem unhold_head (q : Nat) (h : TileHead s t) : TileHead s (t.unhold q) :=
  h.free (unhold_within (Part.All.of_all rfl) _ (Within.refl t))

theorem push_head (p : Nat) (c : Compl) (h : TileHead s t) : TileHead s (t.push p c) := by
  unfold State.push
  extract_lets c l u
  split
  · split
    · exact raiseEvent_head (by decide) _ h
    · exact h
  · exact h

theorem pushAborted_head (status pos : Nat) (e : Elem) (h : TileHead s t) : TileHead s (t.pushAborted status pos e) :=
  push_head _ _ h

theorem endJob_head (p : Nat) (j : Job) (k : Compl) (h : TileHead s t) : TileHead s (t.endJob p j k) := push_head _ _ h

theorem ringLevel_head (r : Nat) (h : TileHead s t) : TileHead s (t.ringLevel r) := by
  unfold State.ringLevel
  extract_lets x size n half full u v
  have hu : TileHead s u := h
  have hv : TileHead s v := by
    unfold v; split
    · exact raiseEvent_head (by decide) _ hu
    · exact hu
  split
  · split
    · exact raiseEvent_head (by decide) _ hv
    · exact hv
  · exact hu

theorem traceTo_head (r : Nat) (c : Compl) (g : TraceTag) (h : TileHead s t) : TileHead s (t.traceTo r c g) := by
  unfold State.traceTo
  split
  · exact h
  · extract_lets x size u
    split
    · have hu : TileHead s u := perfCount_head _ _ h
      split
      · exact fnCount_head _ _ _ hu
      · exact hu
    · exact ringLevel_head _ (startWrite_head _ _ _ _ _ h)

theorem traceEnd_head (c : Compl) (d : Bool) (h : TileHead s t) : TileHead s (t.traceEnd c d) := by
  unfold State.traceEnd
  split
  · exact h
  · split
    · exact h
    · extract_lets _ u v f
      have hv : TileHead s v := traceTo_head _ _ _ h
      split
      · exact hv
      · exact traceTo_head _ _ _ hv

theorem writeEntry_head (c pos : Nat) (k : Compl) (h : TileHead s t) : TileHead s (t.writeEntry c pos k) := by
  unfold State.writeEntry
  extract_lets k size a u f
  refine traceEnd_head _ _ ?_
  iterate 4 refine fnCount_head _ _ _ ?_
  refine perfCount_head _ _ (fnCount_head _ _ _ (perfCount_head _ _ (perfCount_head _ _ ?_)))
  exact startWrite_head _ _ _ _ _ h

theorem setFull_head (c : Nat) (b : Bool) (h : TileHead s t) : TileHead s (t.setFull c b) :=
  h.free (setFull_within (Part.All.of_all rfl) _ _ (Within.refl t))

theorem release_head (k : Compl) (h : TileHead s t) : TileHead s (t.release k) := by
  unfold State.release
  extract_lets c x u v w y z q
  split
  · exact traceEnd_head _ _ (h.free (ungrant_within (Part.All.of_all rfl) _ (Within.refl t)))
  · have hu : TileHead s u := h
    split
    · exact fnCount_head _ _ _ hu
    · split
      · exact writeEntry_head _ _ _ hu
      · have hw : TileHead s w := fnCount_head _ _ _ hu
        have hz : TileHead s z := raiseEvent_head (p := ⟨.cq, c / 16⟩) (show 0 ≠ 144 + c / 16 by omega) _ hw
        exact setFull_head _ _ (raiseEvent_head (by decide) _ hz)

theorem releaseAll_head (n : Nat) (h : TileHead s t) : TileHead s (t.releaseAll n) := by
  induction n generalizing t with
  | zero => exact h
  | succ n ih =>
    rw [State.releaseAll]
    split
    · exact h
    · split
      · exact h
      · extract_lets _ u v
        have hv : TileHead s v := by unfold v; split <;> exact h
        exact ih (release_head _ (hv.free (chainReleased_within (Part.All.of_all rfl) _ (Within.refl v))))

theorem releaseWaiting_head (h : TileHead s t) : TileHead s t.releaseWaiting := releaseAll_head _ h

/-! ### The queues and their chains -/

theorem rqRead_head (q : Nat) (h : TileHead s t) : TileHead s (t.rqRead q) := by
  unfold State.rqRead
  extract_lets x size i n u
  split
  · exact startRead_head _ _ _ _ _ h
  · exact h

theorem refill_head (q : Nat) (h : TileHead s t) : TileHead s (t.refill q) := by
  unfold State.refill
  split
  · exact rqRead_head _ h
  · exact h

theorem abortChain_head (ch : Chain) (status pos : Nat) (h : TileHead s t) : TileHead s (t.abortChain ch status pos) := by
  unfold State.abortChain
  extract_lets u v w
  have hv : TileHead s v := by unfold v; split <;> exact h
  have hw : TileHead s w := hv.foldl (fun _ _ hu => pushAborted_head _ _ _ hu) _
  split
  · exact hw
  · exact refill_head _ hw

theorem issueOne_head (h : TileHead s t) : TileHead s t.issueOne := by
  unfold State.issueOne
  split
  · exact h
  · extract_lets _ u v w e _ x
    have hv : TileHead s v := h
    split
    · exact push_head _ _ hv
    · have hw : TileHead s w := fnCount_head _ _ _ hv
      have hx : TileHead s x := fnCount_head _ _ _ (perfCount_head _ _ hw)
      split
      · exact hw.same rfl
      · split
        · exact hx.same rfl
        · exact hw.same rfl

theorem issueRest_head (h : TileHead s t) : TileHead s t.issueRest :=
  h.foldl (fun _ _ hu => issueOne_head hu) _

theorem chainOff_head (e : Elem) (h : TileHead s t) : TileHead s (t.chainOff e) := by
  unfold State.chainOff
  split
  · exact h
  · exact fnCount_head _ _ _ (abortChain_head _ _ _
      ((issueRest_head h).free (recallChain_within (Part.All.of_all rfl) _ (Within.refl _))))

theorem chainFenced_head (c : Chain) (status : Nat) (h : TileHead s t) : TileHead s (t.chainFenced c status) := by
  unfold State.chainFenced
  extract_lets u
  have hu : TileHead s u := abortChain_head _ _ _ h
  split
  · exact hu
  · exact fnCount_head _ _ _ hu

theorem abortIssued_head (status : Nat) (h : TileHead s t) : TileHead s (t.abortIssued status) := by
  unfold State.abortIssued
  extract_lets u l _ v w
  have hv : TileHead s v := issueRest_head h
  have hw : TileHead s w := hv.foldl (fun _ _ hu => pushAborted_head _ _ _ (unhold_head _ hu)) _
  exact hw.foldl (fun _ _ hu => chainFenced_head _ _ hu) _

theorem rewindAll_head (h : TileHead s t) : TileHead s t.rewindAll := by
  unfold State.rewindAll
  extract_lets u
  have hu : TileHead s u := dropXfers_head _ (issueRest_head h)
  refine hu.foldl (fun v q hv => ?_) _
  have hr : TileHead s (v.rewind q) := hv.free (rewind_within (Part.All.of_all rfl) _ (Within.refl v))
  have hq : TileHead s ((v.rewind q).updRq q (fun x => { x with fetching := false, more := false })) := hr
  exact hq.free (rqDrainEnd_within (Part.All.of_all rfl) _ (Within.refl _))

theorem stopWork_head (h : TileHead s t) : TileHead s t.stopWork := by
  unfold State.stopWork
  extract_lets u
  have hu : TileHead s u := rewindAll_head h
  split
  · exact raiseEvent_head (by decide) _ hu
  · exact hu

/-! ### The context store -/

theorem failWaiting_head (e : Elem) (status : Nat) (h : TileHead s t) : TileHead s (t.failWaiting e status) :=
  push_head _ _ (unhold_head _ h)

theorem ctxError_head (a b c : Nat) (h : TileHead s t) : TileHead s (t.ctxError a b c) :=
  h.free (ctxError_within (Part.All.of_all rfl) _ _ _ (Within.refl t))

theorem wayFailed_head (k status : Nat) (h : TileHead s t) : TileHead s (t.wayFailed k status) := by
  unfold State.wayFailed
  extract_lets w u v
  have hv : TileHead s v := raiseFault_head (by decide) _ (ctxError_head _ _ _ h)
  split
  · split
    · exact failWaiting_head _ _ hv
    · exact hv
  · split
    · exact hv.free (retireCmdEnds_within (Part.All.of_all rfl) _ _ (Within.refl v))
    · exact hv

theorem touchNode_head (l i : Nat) (h : TileHead s t) : TileHead s (t.touchNode l i) :=
  h.free (touchNode_within (Part.All.of_all rfl) _ _ (Within.refl t))

theorem sealWay_head (k : Nat) (h : TileHead s t) : TileHead s (t.sealWay k) := by
  unfold State.sealWay
  extract_lets w hd
  split
  · split
    · exact wayFailed_head _ _ h
    · exact startWrite_head _ _ _ _ _ (perfCount_head _ _ (touchNode_head _ _ (h.same rfl)))
  · exact h

theorem startMissReads_head (m : Miss) (l : List Nat) (r : Bool) (h : TileHead s t) : TileHead s (t.startMissReads m l r) := by
  unfold State.startMissReads
  extract_lets u v
  have hu : TileHead s u := h
  have hv : TileHead s v := hu.foldl (fun _ _ hw => startRead_head _ _ _ _ _ hw) _
  split
  · exact startRead_head _ _ _ _ _ hv
  · exact hv

theorem beginPagein_head (x : Nat) (h : TileHead s t) : TileHead s (t.beginPagein x) := by
  unfold State.beginPagein
  split
  · exact h
  · exact startMissReads_head _ _ _ (perfCount_head _ _ h)

theorem newLeafMiss_head (x : Nat) (h : TileHead s t) : TileHead s (t.newLeafMiss x) := by
  unfold State.newLeafMiss
  split
  · split
    · exact beginPagein_head _ h
    · exact h
  · exact beginPagein_head _ h

theorem writeBack_head (k : Nat) (h : TileHead s t) : TileHead s (t.writeBack k) := by
  unfold State.writeBack
  extract_lets w
  split
  · exact h
  · split
    · exact sealWay_head _ h
    · exact newLeafMiss_head _ h

theorem emptyWay_head (k : Nat) (h : TileHead s t) : TileHead s (t.emptyWay k) := writeBack_head _ h

theorem wipeWay_head (k : Nat) (h : TileHead s t) : TileHead s (t.wipeWay k) :=
  h.free (wipeWay_within (Part.All.of_all rfl) _ (Within.refl t))

theorem evict_head (k : Nat) (h : TileHead s t) : TileHead s (t.evict k) := by
  unfold State.evict
  extract_lets w u
  have hu : TileHead s u := perfCount_head _ _ h
  split
  · exact h
  · split
    · exact h
    · split
      · exact writeBack_head _ hu
      · exact wipeWay_head _ hu

theorem unpin_head (x : Nat) (h : TileHead s t) : TileHead s (t.unpin x) := by
  unfold State.unpin
  split
  · exact h
  · rename_i k _
    extract_lets u w
    have hp : TileHead s (t.updWay k (fun w => { w with pins := w.pins - 1 })) := h
    have hu : TileHead s u := hp.free (purgeOld_within (Part.All.of_all rfl) _ (Within.refl _))
    split
    · exact hu
    · split
      · exact emptyWay_head _ hu
      · split
        · exact writeBack_head _ hu
        · split
          · exact evict_head _ hu
          · exact hu

theorem writeNode_head (l i : Nat) (h : TileHead s t) : TileHead s (t.writeNode l i) := by
  unfold State.writeNode
  extract_lets n
  split
  · split
    · exact h
    · split
      · split
        · exact h
        · exact raiseFault_head (by decide) _ (ctxError_head _ _ _ h)
      · exact startWrite_head _ _ _ _ _ (perfCount_head _ _ h)
  · exact h

theorem flushMore_head (h : TileHead s t) : TileHead s t.flushMore := by
  unfold State.flushMore
  extract_lets ways u busy
  have hu : TileHead s u := h.foldl (fun _ _ hv => writeBack_head _ hv) _
  split
  · exact hu
  · split
    · exact hu
    · exact hu.foldl (fun _ _ hv => writeNode_head _ _ hv) _

theorem flushCheck_head (h : TileHead s t) : TileHead s t.flushCheck := by
  unfold State.flushCheck
  split
  · exact h
  · extract_lets u _ v
    have hu : TileHead s u := flushMore_head h
    split
    · split
      · split <;> exact hu
      · exact hu
    · exact hu

theorem ctxHalt_head (status : Nat) (h : TileHead s t) : TileHead s (t.ctxHalt status) := by
  unfold State.ctxHalt
  extract_lets ms gone u _ v fill w x jobs _ y
  have hu : TileHead s u := dropXfers_head _ h
  have hv : TileHead s v := by
    have hm : TileHead s { u with ctx := { u.ctx with misses := u.ctx.misses.filter (fun m => m.leafOnly) } } := hu
    exact hm.free (unholdAll_within (Part.All.of_all rfl) (Within.refl _))
  have hw : TileHead s w := hv.foldl (fun _ _ hz => wipeWay_head _ hz) _
  have hx : TileHead s x := hw.foldl (fun _ _ hz => hz.foldl (fun _ _ hq => failWaiting_head _ _ hq) _) _
  exact TileHead.foldl (t := y) hx (fun _ _ hz => endJob_head _ _ _ hz) _

/-! ### The frames -/

theorem dropFrame_head (f : Frame) (h : TileHead s t) : TileHead s (t.dropFrame f) := by
  unfold State.dropFrame
  extract_lets _ u
  have hu : TileHead s u := h
  exact unpin_head _ (hu.free (stage_within (Part.All.of_all rfl) _ _ _ (Within.refl u)))

theorem settle_head (f : Frame) (g : Compl → Compl) (b : Bool) (h : TileHead s t) : TileHead s (t.settle f g b) := by
  unfold State.settle
  extract_lets c u v
  have hv : TileHead s v := dropFrame_head _ (h.free (mapCompl_within (Part.All.of_all rfl) _ _ (Within.refl t)))
  split
  · exact releaseWaiting_head (chainOff_head _ hv)
  · exact releaseWaiting_head hv

theorem endPushed_head (f : Frame) (status reason : Nat) (h : TileHead s t) : TileHead s (t.endPushed f status reason) :=
  settle_head _ _ _ (dropXfers_head _ h)

theorem endFrame_head (f : Frame) (p status reason : Nat) (h : TileHead s t) : TileHead s (t.endFrame f p status reason) :=
  push_head _ _ (dropFrame_head _ ((dropXfers_head _ h).free (leaveLane_within (Part.All.of_all rfl) _ (Within.refl _))))

theorem endFrames_head (p : Frame → Bool) (status : Nat) (h : TileHead s t) : TileHead s (t.endFrames p status) := by
  refine h.foldl (fun u f hu => ?_) _
  split
  · exact endPushed_head _ _ _ hu
  · exact endFrame_head _ _ _ _ hu
  · exact endFrame_head _ _ _ _ hu

/-! ### The engines -/

theorem takeCore_head (c n : Nat) (h : TileHead s t) : TileHead s (t.takeCore c n) :=
  h.free (takeCore_within (Part.All.of_all rfl) _ _ (Within.refl t))

theorem takeCores_head (n : Nat) (h : TileHead s t) : TileHead s (t.takeCores n) :=
  h.free (takeCores_within (Part.All.of_all rfl) _ (Within.refl t))

theorem resumeOn_head (n : Nat) (h : TileHead s t) : TileHead s (t.resumeOn n) := by
  unfold State.resumeOn
  split
  · exact h
  · split
    · exact h
    · extract_lets _ u
      have hu : TileHead s u := h
      split
      · exact takeCore_head _ _ (perfCount_head _ _ hu)
      · exact hu

theorem leaveCore_head (c : Nat) (h : TileHead s t) : TileHead s (t.leaveCore c) := by
  unfold State.leaveCore
  split
  · exact h
  · exact resumeOn_head _ h

theorem takePriv_head (c n : Nat) (h : TileHead s t) : TileHead s (t.takePriv c n) := by
  unfold State.takePriv
  split
  · exact takeCore_head _ _ h
  · exact takeCore_head _ _ (perfCount_head _ _ h)

theorem kdfSeat_head (h : TileHead s t) : TileHead s t.kdfSeat := by
  unfold State.kdfSeat
  extract_lets x u
  split
  · exact h
  · have hu : TileHead s u := h
    split
    · exact hu
    · exact takePriv_head _ _ (perfCount_head _ _ hu)

theorem kdfSync_head (h : TileHead s t) : TileHead s t.kdfSync := by
  unfold State.kdfSync
  split
  · exact (kdfSeat_head h).free (kdfTaken_within (Part.All.of_all rfl) (Within.refl _))
  · unfold State.kdfLeave
    split
    · exact takeCores_head _ (leaveCore_head _ h)
    · exact h

theorem keyAbort_head (status : Nat) (h : TileHead s t) : TileHead s (t.keyAbort status) := by
  unfold State.keyAbort
  extract_lets js _ u
  have hu : TileHead s u := kdfSync_head h
  refine hu.foldl (fun v j hv => ?_) _
  split
  · exact endJob_head _ _ _ hv
  · exact hv

theorem randomAbort_head (status : Nat) (h : TileHead s t) : TileHead s (t.randomAbort status) := by
  unfold State.randomAbort
  extract_lets js _ u
  have hu : TileHead s u := h
  exact hu.foldl (fun _ _ hv => endJob_head _ _ _ hv) _

theorem digestAbort_head (status reason : Nat) (h : TileHead s t) : TileHead s (t.digestAbort status reason) := by
  unfold State.digestAbort
  extract_lets js loads _ _ u _ v
  have hv : TileHead s v := h
  exact hv.foldl (fun _ _ hw => endJob_head _ _ _ hw) _

theorem bnDetail_head (c tries : Nat) (held : Bool) (k : Compl) (h : TileHead s t) :
    TileHead s (t.bnDetail c tries held k).2 :=
  h.free (bnDetail_within (Part.All.of_all rfl) _ _ _ _ (Within.refl t))

theorem bnClose_head (c : Nat) (j : Job) (st reason : Nat) (h : TileHead s t) : TileHead s (t.bnClose c j st reason) := by
  unfold State.bnClose
  extract_lets held signs
  split
  rename_i n u hu
  have h1 : TileHead s (if signs = true then t.takeFree else (0, t)).2 := by
    split
    · exact h.free (takeFree_within (Part.All.of_all rfl) (Within.refl t))
    · exact h
  rw [hu] at h1
  extract_lets tries
  have h2 : TileHead s (u.bnNoSecret j) := h1.free (bnNoSecret_within (Part.All.of_all rfl) _ (Within.refl u))
  exact endJob_head _ _ _ (bnDetail_head c tries held { status := st, reason := reason } h2)

theorem bnHashDrop_head (c : Nat) (h : TileHead s t) : TileHead s (t.bnHashDrop c) := by
  unfold State.bnHashDrop
  extract_lets _ u v
  have hv : TileHead s v := h
  split
  · exact hv
  · rename_i d _
    have hd : TileHead s ((v.leaveCore d).setDgChan d {}) := leaveCore_head _ hv
    exact takeCores_head _ (hd.free (bnGrant_within (Part.All.of_all rfl) _ (Within.refl _)))

theorem bnHashEnds_head (h : TileHead s t) : TileHead s t.bnHashEnds := by
  unfold State.bnHashEnds
  extract_lets _ u
  have hu : TileHead s u := h
  exact hu.foldl (fun _ _ hw => bnHashDrop_head _ hw) _

theorem bnAbort_head (status reason : Nat) (h : TileHead s t) : TileHead s (t.bnAbort status reason) := by
  unfold State.bnAbort
  extract_lets js u v
  have hu : TileHead s u := h.foldl (fun _ _ hw => bnClose_head _ _ _ _ hw) _
  have hv : TileHead s v := bnHashEnds_head hu
  clear_value v
  exact hv.same rfl

theorem auditClear_head (x : Nat) (l : List Nat) (h : TileHead s t) : TileHead s (t.auditClear x l false) := by
  unfold State.auditClear
  split
  · exact h
  · exact unpin_head _ h

theorem abortFinishes_head (p : Finish → Bool) (status reason : Nat) (h : TileHead s t) :
    TileHead s (t.abortFinishes p status reason) := by
  unfold State.abortFinishes
  extract_lets l u v
  have hu : TileHead s u := dropXfers_head _ h
  have hv : TileHead s v := hu.same rfl
  refine hv.foldl (fun w f hw => ?_) _
  extract_lets x
  have hx : TileHead s x := by
    unfold x; split
    · exact auditClear_head _ _ hw
    · exact hw
  exact push_head _ _ hx

/-! ### The whole tile -/

theorem haltAll_head (status : Nat) (h : TileHead s t) : TileHead s (t.haltAll status) := by
  unfold State.haltAll
  extract_lets a b c d fences e f g i j
  have hd : TileHead s d := keyAbort_head _ (ctxHalt_head _ (endFrames_head _ _ (abortIssued_head _ h)))
  have hg : TileHead s g := randomAbort_head _ (bnAbort_head _ _ (digestAbort_head _ _ hd))
  have hj : TileHead s j := abortFinishes_head _ _ _ (abortFinishes_head _ _ _ hg)
  exact (abortFinishes_head _ _ _ hj).free (dropReads_within (Part.All.of_all rfl) (Within.refl _))

/-- The start of a tile fence leaves the header of TILE. -/
theorem tileFence_head (cause : Nat) (forced : Bool) (h : TileHead s t) : TileHead s (t.tileFence cause forced) := by
  unfold State.tileFence
  split
  · split
    · exact h
    · exact h.free (logFence_within (Part.All.of_all rfl) _ _ _ _ (Within.refl t))
  · split
    · exact h
    · extract_lets _ u v w
      have hv : TileHead s v := haltAll_head _ (stopWork_head h)
      have hw : TileHead s w := hv.free (selftestDrop_within (Part.All.of_all rfl) (Within.refl v))
      clear_value w
      split
      · exact flushCheck_head (.free (flushStart_within (Part.All.of_all rfl) (Within.refl _)) (hw.same rfl))
      · exact hw

end

/-! ## The watchdog (R44, R161) -/

/-- An expiry raises the event of V242. -/
def State.wdogRaised (s : State) : State := ({ s with tile := { s.tile with wdogExpired := true } }).raiseEvent (pg .tile) 1

theorem wdogRaised_tile (s : State) : s.wdogRaised.tile = { s.tile with wdogExpired := true } := raiseEvent_tile _ _ _

theorem wdogRaised_regs (s : State) : s.wdogRaised.regs = s.regs := raiseEvent_regs _ _ _

theorem wdogRaised_tamp (s : State) : s.wdogRaised.tamp = s.tamp := (raiseEvent_keeps _ _ _).tamp rfl

theorem wdogRaised_bit (s : State) : (s.wdogRaised.hdr (pg .tile)).event.getLsbD 1 = true :=
  raiseEvent_bit _ _ _ (by decide)

theorem wdogRaised_fenceable (s : State) : s.wdogRaised.fenceable = s.fenceable := by
  unfold State.fenceable; rw [wdogRaised_tile]

/-- The watchdog runs: an expiry raises the event, and fences the tile where it is the second, ACTION asks for it and the tile
can be fenced. -/
theorem wdogExpiry_runs (s : State) (he : s.flag TILE_WDOG_CTL.EN 0 = true) (ha : s.asleep = false)
    (hs : s.tile.st ≠ .alarmed) :
    s.wdogExpiry =
      if s.tile.wdogExpired = true ∧ s.fld TILE_WDOG_CTL.ACTION 0 = 1 ∧ s.fenceable = true ∧ s.tile.fencing = none ∧
        s.tamp.responding = false then
        ({ s.wdogRaised with tile := { s.wdogRaised.tile with wdogFenced := true } }).tileFence 0x0B false
      else s.wdogRaised := by
  have hf : s.wdogRaised.fld TILE_WDOG_CTL.ACTION 0 = s.fld TILE_WDOG_CTL.ACTION 0 := fld_congr _ _ (wdogRaised_regs s)
  have hg : (!s.flag TILE_WDOG_CTL.EN 0 || s.asleep || s.tile.st == .alarmed) = false := by simp [he, ha, hs]
  rw [State.wdogExpiry, hg, if_neg Bool.false_ne_true]
  show (if (s.tile.wdogExpired && s.wdogRaised.fld TILE_WDOG_CTL.ACTION 0 == 1 && s.wdogRaised.fenceable &&
    s.wdogRaised.tile.fencing.isNone && !s.wdogRaised.tamp.responding) = true then _ else s.wdogRaised) = _
  rw [hf, wdogRaised_fenceable, wdogRaised_tamp, show s.wdogRaised.tile.fencing = s.tile.fencing by rw [wdogRaised_tile]]
  congr 1
  simp [and_assoc]

theorem alarmed_not_fenceable {s : State} (h : s.fenceable = true) : s.tile.st ≠ .alarmed := by
  intro e
  simp [State.fenceable, e] at h

/-- A tile fence of the watchdog leaves the event that it raised. -/
theorem wdogFence_event (s : State) :
    ((({ s.wdogRaised with tile := { s.wdogRaised.tile with wdogFenced := true } }).tileFence 0x0B false).hdr
      (pg .tile)).event.getLsbD 1 = true := by
  have h : TileHead s.wdogRaised { s.wdogRaised with tile := { s.wdogRaised.tile with wdogFenced := true } } := rfl
  have hk := tileFence_head 0x0B false h
  rw [State.hdr, show pageNum (pg .tile) = 0 from rfl, hk]
  exact wdogRaised_bit s

/-- Settles O15: an expiry raises the event; what follows it depends on whether it is the second and what ACTION says. -/
theorem watchdogExpiresInTwoSteps : Obligations.WatchdogExpiresInTwoSteps := by
  unfold Obligations.WatchdogExpiresInTwoSteps
  refine ⟨?_, ?_, ?_, ?_, ?_⟩
  · intro s v req ho
    exact congrArg Host.Outcome.next (cpReg_open s .TILE_WDOG_KICK 0 v req ho)
  · intro s he ha hs hx
    have hr := wdogExpiry_runs s he ha hs
    rw [if_neg (fun h => by rw [hx] at h; exact Bool.false_ne_true h.1)] at hr
    exact ⟨_, congrArg Host.Outcome.next hr, wdogRaised_tile s, wdogRaised_bit s, wdogRaised_regs s⟩
  · intro s he ha hx hact hf hn ht
    have hr := wdogExpiry_runs s he ha (alarmed_not_fenceable hf)
    rw [if_pos ⟨hx, hact, hf, hn, ht⟩] at hr
    have hb := wdogFence_event s
    have hfe : s.wdogRaised.fenceable = true := (wdogRaised_fenceable s).trans hf
    have hfn : s.wdogRaised.tile.fencing = none := by rw [wdogRaised_tile]; exact hn
    have hft : s.wdogRaised.tamp.responding = false := by rw [wdogRaised_tamp]; exact ht
    generalize s.wdogRaised = u at hr hb hfe hfn hft
    have htile := tileFence_tile { u with tile := { u.tile with wdogFenced := true } } 0x0B false
      (fenceFalls_of_fenceable _ hfe) hfn hft
    generalize ({ u with tile := { u.tile with wdogFenced := true } } : State).tileFence 0x0B false = t at hr hb htile
    exact ⟨t, congrArg Host.Outcome.next hr, by rw [htile], by rw [htile], by rw [htile], hb⟩
  · intro s he ha hs hx hno
    have hr := wdogExpiry_runs s he ha hs
    have hnot : ¬ (s.tile.wdogExpired = true ∧ s.fld TILE_WDOG_CTL.ACTION 0 = 1 ∧ s.fenceable = true ∧
        s.tile.fencing = none ∧ s.tamp.responding = false) := by
      rintro ⟨-, h1, h2, h3, h4⟩
      simp [h1, h2, h3, h4] at hno
    rw [if_neg hnot] at hr
    refine ⟨_, congrArg Host.Outcome.next hr, ?_, wdogRaised_bit s, wdogRaised_regs s⟩
    rw [wdogRaised_tile, ← hx]
  · intro s h
    have hg : (!s.flag TILE_WDOG_CTL.EN 0 || s.asleep || s.tile.st == .alarmed) = true := by
      rcases h with h | h | h <;> simp [h]
    exact congrArg Host.Outcome.next (by rw [State.wdogExpiry, if_pos hg])

end Sys2Proof.Machine
end

section
/-! PROOFS. The soft reset of a page, and what its end lets go on (O12, R40, R364, R406). -/

namespace Sys2Proof.Machine

/-! ## What a soft reset clears (R40, log 91) -/

/-- The registers of a page are those that lie on it. -/
theorem mem_pageRegs {p : PageRef} {r : Reg} {n : Nat} : (r, n) ∈ pageRegs p ↔ regPage r n = p := by
  have hc := count_pos r
  simp only [pageRegs, List.mem_flatMap, List.mem_filter, List.mem_map, List.mem_range, beq_iff_eq, Prod.mk.injEq]
  constructor
  · rintro ⟨r', ⟨-, hk⟩, i, hi, rfl, rfl⟩
    rw [regPage, hk, Nat.mul_comm, Nat.mul_add_div hc, Nat.div_eq_of_lt hi, Nat.add_zero]
  · rintro rfl
    exact ⟨r, ⟨mem_allRegs r, rfl⟩, n % r.desc.count, Nat.mod_lt _ hc, rfl, Nat.div_add_mod' n _⟩

/-- A register that a soft reset of the page clears. -/
def softCleared (p : PageRef) (r : Reg) : Bool :=
  r != .KEY_COUNTS && r != .KEY_SESSION && (p.kind != .function || r.desc.flds.any (fun f => f.acc != .ro && f.acc != .rc))

/-- The page's registers are back at reset. -/
def State.regsCleared (s : State) (p : PageRef) : State :=
  (pageRegs p).foldl (fun s x => if softCleared p x.1 then s.clearReg x.1 x.2 else s) s

theorem resetBody_regs (s : State) (p : PageRef) : (s.resetBody p).regs = (s.regsCleared p).regs := by
  unfold State.resetBody
  extract_lets goes u
  split
  · exact List.foldlRecOn (motive := fun v : State => v.regs = u.regs) _ _ rfl (fun v hv _ _ => hv)
  · exact List.foldlRecOn (motive := fun v : State => v.regs = u.regs) _ _ rfl (fun v hv _ _ => hv)
  all_goals rfl

/-- What one turn of a folding sets and no turn undoes holds at its end. -/
theorem foldl_reaches {α : Type} {P : State → Prop} {f : State → α → State} {b : α} {l : List α} (hb : b ∈ l)
    (hs : ∀ u, P (f u b)) (hk : ∀ u x, P u → P (f u x)) (s : State) : P (l.foldl f s) := by
  obtain ⟨l₁, l₂, rfl⟩ := List.append_of_mem hb
  rw [List.foldl_append, List.foldl_cons]
  exact List.foldlRecOn l₂ f (hs _) (fun u hu x _ => hk u x hu)

theorem clearReg_keeps (u : State) {r : Reg} {n : Nat} (r' : Reg) (n' : Nat) (h : u.reg r n = r.resetAt n) :
    (u.clearReg r' n').reg r n = r.resetAt n := by
  by_cases e : r = r' ∧ n = n'
  · obtain ⟨rfl, rfl⟩ := e
    exact reg_setReg_same _ _ _ _
  · rw [State.clearReg, reg_setReg_ne _ _ (not_and_or.mp e), h]

theorem regsCleared_reset (s : State) {p : PageRef} {r : Reg} {n : Nat} (h : regPage r n = p) (hc : softCleared p r = true) :
    (s.regsCleared p).reg r n = r.resetAt n := by
  refine foldl_reaches (P := fun u => u.reg r n = r.resetAt n) (mem_pageRegs.mpr h) (fun u => ?_) (fun u x hu => ?_) s
  · rw [if_pos hc]; exact reg_setReg_same _ _ _ _
  · split
    · exact clearReg_keeps u _ _ hu
    · exact hu

theorem regsCleared_other (s : State) {p : PageRef} {r : Reg} {n : Nat} (h : regPage r n ≠ p) :
    (s.regsCleared p).reg r n = s.reg r n := by
  refine List.foldlRecOn (motive := fun u : State => u.reg r n = s.reg r n) _ _ rfl (fun u hu x hx => ?_)
  have hp : regPage x.1 x.2 = p := mem_pageRegs.mp hx
  split
  · have hne : ¬ (r = x.1 ∧ n = x.2) := by
      rintro ⟨rfl, rfl⟩
      exact h hp
    rw [State.clearReg, reg_setReg_ne _ _ (not_and_or.mp hne), hu]
  · exact hu

theorem resetBody_rq (s : State) {p : PageRef} (hk : p.kind = .rq) {q : Nat} (hq : q / 16 = p.inst) :
    (s.resetBody p).rq q = {} := by
  unfold State.resetBody
  simp only [hk]
  refine foldl_reaches (P := fun u => u.rq q = {}) (List.mem_range.mpr (Nat.mod_lt q (by decide))) (fun u => ?_)
    (fun u i hu => ?_) _
  · rw [show 16 * p.inst + q % 16 = q by omega]
    simp [State.rq, State.setRq]
  · by_cases e : q = 16 * p.inst + i
    · subst e; simp [State.rq, State.setRq]
    · unfold State.rq State.setRq at *
      rw [Tbl.get_set_ne _ _ _ _ _ e, hu]

theorem resetBody_cq (s : State) {p : PageRef} (hk : p.kind = .cq) {q : Nat} (hq : q / 16 = p.inst) :
    (s.resetBody p).cq q = {} := by
  unfold State.resetBody
  simp only [hk]
  refine foldl_reaches (P := fun u => u.cq q = {}) (List.mem_range.mpr (Nat.mod_lt q (by decide))) (fun u => ?_)
    (fun u i hu => ?_) _
  · rw [show 16 * p.inst + q % 16 = q by omega]
    simp [State.cq, State.setCq]
  · by_cases e : q = 16 * p.inst + i
    · subst e; simp [State.cq, State.setCq]
    · unfold State.cq State.setCq at *
      rw [Tbl.get_set_ne _ _ _ _ _ e, hu]

theorem resetBody_keeps (s : State) (p : PageRef) :
    s.Within (only [.config, .regs, .qeng, .crown, .digest, .rng, .dma]) (s.resetBody p) :=
  resetBody_within (Part.all_only _) p (Within.refl s)

/-! ## SOFT_RESET is written (R40, R406) -/

/-- The header of a page in soft reset. -/
def Hdr.softened (h : Hdr) : Hdr :=
  { h with softReset := true, lock := .closed, fault := 0, faultEn := 0, event := 0, eventEn := 0, transient := 0, lasting := 0 }

theorem softReset_off (s : State) (p : PageRef) (hf : PageKind.fixed p.kind = false) (hr : p.kind ≠ .result) (ho : s.blk p = .off) :
    s.softReset p = (s.resetBody p).setHdr p (s.hdr p).softened := by
  have hr' : (p.kind == .result) = false := beq_eq_false_iff_ne.mpr hr
  have hh : (s.resetBody p).hdr p = s.hdr p := by
    unfold State.hdr State.hdrAt; rw [(resetBody_keeps s p).hdrs rfl]
  rw [State.softReset, hf, hr', ho, if_neg (by decide), ← hh]
  rfl

theorem softReset_refused (s : State) (p : PageRef) (h : PageKind.fixed p.kind = true ∨ p.kind = .result ∨ s.blk p ≠ .off) :
    s.softReset p = s.seq p := by
  rw [State.softReset, if_pos]
  rcases h with h | h | h <;> simp [h]

/-- The page of a block shows its own state. -/
theorem statePage_block {p : PageRef} (h : PageKind.block p.kind = true) : statePage p = p := by
  obtain ⟨k, i⟩ := p
  cases k <;> simp_all [PageKind.block, statePage]

/-- The clock enable of a block that is not on the CLOCK page acts by registers of the CLOCK page. -/
theorem clkActs_of_clock {s t : State} (h1 : t.reg .CLK_COMPAT 0 = s.reg .CLK_COMPAT 0) (h2 : t.reg .CLK_RUN_EN 0 = s.reg .CLK_RUN_EN 0)
    (h3 : t.reg .CLK_EN 0 = s.reg .CLK_EN 0) (hc : t.clk = s.clk) (hf : t.frames = s.frames)
    (hs : ∀ q, (t.hdr q).st = (s.hdr q).st) (p : PageRef) : t.clkActs p = s.clkActs p := by
  have e1 : t.flag CLK_COMPAT.COMPAT_MODE 0 = s.flag CLK_COMPAT.COMPAT_MODE 0 := flag_of_reg h1
  have e2 : t.fld CLK_RUN_EN.MASK 0 = s.fld CLK_RUN_EN.MASK 0 := fld_of_reg h2
  unfold State.clkActs State.clkEnBit State.isOn State.blk State.quadClock State.quad
  simp only [e1, e2, h3, hc, hf, hs]

/-- EN of an OFF block that does not come up is what is written. -/
theorem enWrite_stays (u : State) (p : PageRef) (e : Bool) (hb : PageKind.block p.kind = true) (ho : (u.hdr p).st = .off)
    (hu : e = true → u.clkActs p = false ∧ u.tile.st ≠ .alarmed) :
    ∃ b, u.enWrite p e = u.setHdr p { u.hdr p with en := e, rearm := b } := by
  cases e
  · refine ⟨false, ?_⟩
    simp [State.enWrite, hb, ho]
  · obtain ⟨hc, ha⟩ := hu rfl
    refine ⟨(u.hdr p).rearm, ?_⟩
    have hx : (u.setHdr p { u.hdr p with en := true }).clkActs p = false :=
      (setHdr_clkActs u (x := { u.hdr p with en := true }) rfl p).trans hc
    have ht : (u.setHdr p { u.hdr p with en := true }).tryUp p = u.setHdr p { u.hdr p with en := true } := by
      rw [State.tryUp, hx]; simp
    have he : u.enWrite p true = (u.setHdr p { u.hdr p with en := true }).tryUp p := by simp [State.enWrite, hb, ha, ho]
    exact he.trans ht

/-- A write of SOFT_RESET is a soft reset, and for a block a write of EN as it stands. -/
theorem exec_softReset (s : State) (p : PageRef) (req : Req) (h : s.Open p false req) :
    exec (.softReset p req) s = .next (if PageKind.block p.kind then (s.softReset p).enWrite p (s.hdr p).en
      else s.softReset p).answeredOk := by
  rw [exec_softReset_eq, hdrWrite_open s p 0x04 _ req h (by decide) rfl]
  by_cases hb : PageKind.block p.kind = true
  · rw [statePage_block hb]
    cases (s.hdr p).en <;> simp [State.headerWrite, State.ctlWrite, hb]
  · cases (s.hdr (statePage p)).en <;> simp [State.headerWrite, State.ctlWrite, hb]

/-- A soft reset of a page whose block is OFF: the page's body and header are reset; EN stands as it was. -/
theorem softReset_effect (s : State) (p : PageRef) (req : Req) (h : s.Open p false req) (hf : PageKind.fixed p.kind = false)
    (hr : p.kind ≠ .result) (ho : s.blk p = .off)
    (hup : PageKind.block p.kind = true → (s.hdr p).en = true → s.clkActs p = false ∧ s.tile.st ≠ .alarmed) :
    ∃ (t : State) (b : Bool), exec (.softReset p req) s = .next t.answeredOk ∧
      t.hdr p = { (s.hdr p).softened with rearm := b } ∧ t.regs = (s.resetBody p).regs ∧
      t.qeng = (s.resetBody p).qeng ∧ t.crown = (s.resetBody p).crown := by
  have hx := exec_softReset s p req h
  rw [softReset_off s p hf hr ho] at hx
  by_cases hb : PageKind.block p.kind = true
  · rw [if_pos hb] at hx
    have hk := resetBody_keeps s p
    have hreg (r : Reg) (hr : r.desc.page = .clock) (n : Nat) : (s.resetBody p).reg r n = s.reg r n := by
      unfold State.reg
      rw [resetBody_regs]
      exact regsCleared_other s (fun e => by
        have : p.kind = .clock := by rw [← e, ← hr]; rfl
        rw [this] at hb; cases hb)
    have hst (q : PageRef) : ((s.resetBody p).hdr q).st = (s.hdr q).st := by
      unfold State.hdr State.hdrAt; rw [hk.hdrs rfl]
    have hact : (s.resetBody p).clkActs p = s.clkActs p :=
      clkActs_of_clock (hreg _ rfl 0) (hreg _ rfl 0) (hreg _ rfl 0) (hk.clk rfl) (hk.frames rfl) hst p
    have hp := statePage_block hb
    have hsoft : (s.hdr p).softened.st = ((s.resetBody p).hdr p).st := (hst p).symm
    have hact' := (setHdr_clkActs (s.resetBody p) hsoft p).trans hact
    have htile : (s.resetBody p).tile = s.tile := hk.tile_eq rfl rfl
    have hoff : (s.hdr p).softened.st = .off := by rw [← ho, State.blk, hp]; rfl
    obtain ⟨b, he⟩ := enWrite_stays ((s.resetBody p).setHdr p (s.hdr p).softened) p (s.hdr p).en hb
      (by rw [hdr_setHdr_same]; exact hoff)
      (fun e => ⟨hact'.trans (hup hb e).1, fun c => (hup hb e).2 (by rw [← htile]; exact c)⟩)
    rw [he] at hx
    refine ⟨_, b, hx, ?_, rfl, rfl, rfl⟩
    rw [hdr_setHdr_same, hdr_setHdr_same]
    rfl
  · rw [if_neg hb] at hx
    exact ⟨_, (s.hdr p).rearm, hx, hdr_setHdr_same _ _ _, rfl, rfl, rfl⟩

/-- What EN does to a block that is not OFF, where it asks for no change of its state. -/
theorem enWrite_settled (u : State) (p : PageRef) (e : Bool) (ho : (u.hdr p).st ≠ .off)
    (h : e = true ∨ (u.hdr p).st = .comingUp ∨ (u.hdr p).st = .goingDown) :
    ∃ v : State, u.enWrite p e = v ∧ v.regs = u.regs ∧ (v.hdr p).softReset = (u.hdr p).softReset ∧
      ((u.hdr p).fault.getLsbD 5 = true → (v.hdr p).fault.getLsbD 5 = true) := by
  refine ⟨_, rfl, ?_⟩
  have hset (x : Hdr) (h1 : x.softReset = (u.hdr p).softReset) (h2 : x.fault = (u.hdr p).fault) :
      (u.setHdr p x).regs = u.regs ∧ ((u.setHdr p x).hdr p).softReset = (u.hdr p).softReset ∧
        ((u.hdr p).fault.getLsbD 5 = true → ((u.setHdr p x).hdr p).fault.getLsbD 5 = true) := by
    rw [hdr_setHdr_same, h1, h2]
    exact ⟨rfl, rfl, id⟩
  unfold State.enWrite
  split
  · exact ⟨rfl, rfl, id⟩
  · split
    · refine ⟨seq_regs _ _, ?_, fun _ => seq_bit _ _⟩
      exact (raiseFault_within (F := fun x => x != .blocks) (Part.All.of_all rfl) p 5 (Within.refl u)).hdr_softReset rfl p
    · extract_lets x
      split
      case h_1 hs _ => exact absurd hs ho
      case h_2 hs _ => exact absurd hs ho
      case h_3 => exact hset _ rfl rfl
      case h_4 => exact hset _ rfl rfl
      case h_5 hs _ =>
        have hs' : (u.hdr p).st = .on := hs
        rw [hs'] at h; simp at h
      case h_6 => exact hset _ rfl rfl
      case h_7 => exact hset _ rfl rfl
      case h_8 => exact ⟨rfl, rfl, id⟩
      case h_9 hs _ =>
        have hs' : (u.hdr p).st = .fenced := hs
        rw [hs'] at h; simp at h

/-! ## What stalled goes on (R40, R364) -/

/-- An access that is decided is answered once, under its own tag. -/
theorem cpDecide_answers (s : State) (w : Bool) (a : Access) : ∃ c v, (s.cpDecide w a).cp.rsp = [⟨c, v, a.tag⟩] := by
  have hresp (u : State) (c : RspCode) (v : W64) : ∃ c' v', (u.respond' c v a).cp.rsp = [⟨c', v', a.tag⟩] := ⟨c, v, rfl⟩
  have href (u : State) (k : Nat) : ∃ c v, (u.refuse w a k).cp.rsp = [⟨c, v, a.tag⟩] := hresp _ _ _
  unfold State.cpDecide
  split
  · exact hresp _ _ _
  · split
    · exact hresp _ _ _
    · split
      · exact href _ _
      · unfold State.cpServe
        split
        · exact href _ _
        · split
          · exact href _ _
          · split
            · exact href _ _
            · split
              · exact href _ _
              · split
                · exact hresp _ _ _
                · unfold State.perform
                  split
                  · exact hresp _ _ _
                  · exact hresp _ _ _

/-- Everything but the block states, locks and soft resets of the pages. -/
def offBlocks (x : Part) : Bool := x != .blocks

/-- A read leaves them. -/
theorem cpDecide_read (s : State) (a : Access) : s.Within offBlocks (s.cpDecide false a) := by
  have hresp (u : State) (h : s.Within offBlocks u) (c : RspCode) (v : W64) : s.Within offBlocks (u.respond' c v a) :=
    respondP_within (Part.All.of_all rfl) _ _ _ h
  have href (u : State) (h : s.Within offBlocks u) (k : Nat) : s.Within offBlocks (u.refuse false a k) :=
    refuse_within (Part.All.of_all rfl) _ _ _ h
  have hfault (p : PageRef) (b : Nat) : s.Within offBlocks (s.raiseFault p b) :=
    raiseFault_within (Part.All.of_all rfl) _ _ (Within.refl s)
  have hs := Within.refl (F := offBlocks) s
  unfold State.cpDecide
  split
  · exact hresp _ hs _ _
  · split
    · refine hresp _ ?_ _ _
      split
      · exact wakeSource_within (Part.All.of_all rfl) _ hs
      · exact hs
    · split
      · exact href _ hs _
      · rename_i p _
        unfold State.cpServe
        split
        · exact href _ hs _
        · split
          · exact href _ (hfault _ _) _
          · split
            · exact href _ hs _
            · split
              · exact href _ (hfault _ _) _
              · split
                · exact hresp _ (hfault _ _) _ _
                · exact hresp _ (pageRead_within (Part.All.of_all rfl) p _ _ hs) _ _

/-- An access that waits for no page in soft reset goes on. -/
theorem runStalled_cons (s : State) (w : Bool) (a : Access) (l : List (Bool × Access))
    (h : ∀ q, accPage a = some q → (s.hdr q).softReset = false) :
    s.runStalled ((w, a) :: l) = ((s.cpDecide w a).runStalled l).rspFirst (s.cpDecide w a).cp.rsp := by
  rw [State.runStalled, if_neg]
  cases e : accPage a with
  | none => simp
  | some q => simp [State.waitsOn, h q e]

/-- Reads that wait for no page in soft reset are all answered, in their order. -/
theorem runStalled_reads (l : List (Bool × Access)) (s : State)
    (h : ∀ x ∈ l, x.1 = false ∧ ∀ q, accPage x.2 = some q → (s.hdr q).softReset = false) :
    (s.runStalled l).cp.stalled = [] ∧ (s.runStalled l).cp.rsp.map (fun r => r.tag) = l.map (fun x => x.2.tag) := by
  induction l generalizing s with
  | nil => exact ⟨rfl, rfl⟩
  | cons x l ih =>
    obtain ⟨w, a⟩ := x
    obtain ⟨rfl, hq⟩ : w = false ∧ ∀ q, accPage a = some q → (s.hdr q).softReset = false := h _ List.mem_cons_self
    have hk := cpDecide_read s a
    obtain ⟨hst, hrs⟩ := ih (s.cpDecide false a) (fun y hy => by
      obtain ⟨hw, hy⟩ := h y (List.mem_cons_of_mem _ hy)
      exact ⟨hw, fun q e => (hk.hdr_softReset rfl q).trans (hy q e)⟩)
    obtain ⟨c, v, hr⟩ := cpDecide_answers s false a
    rw [runStalled_cons s false a l hq]
    refine ⟨hst, ?_⟩
    show ((s.cpDecide false a).cp.rsp ++ _).map _ = _
    rw [hr, List.map_append, hrs]
    rfl

/-- The page has left soft reset. -/
def State.unreset (s : State) (p : PageRef) : State := s.updHdr p (fun h => { h with softReset := false })

theorem unreset_hdr (s : State) (p : PageRef) : ((s.unreset p).hdr p).softReset = false := by
  rw [State.unreset, State.updHdr, hdr_setHdr_same]

theorem unreset_softReset (s : State) (p q : PageRef) (h : q = p ∨ (s.hdr q).softReset = false) :
    ((s.unreset p).hdr q).softReset = false := by
  by_cases e : pageNum q = pageNum p
  · have hq : (s.unreset p).hdr q = (s.unreset p).hdr p := by unfold State.hdr; rw [e]
    rw [hq, unreset_hdr]
  · rw [State.unreset, hdr_updHdr_ne _ _ e]
    exact h.resolve_left (fun c => e (congrArg pageNum c))

theorem exec_softResetDone (s : State) (p : PageRef) (hp : pageOk p = true) (h : (s.hdr p).softReset = true) :
    exec (.softResetDone p) s = .next ((s.unreset p).runStalled s.cp.stalled) := by
  refine congrArg Host.Outcome.next ((onPage_ok s p _ hp).trans ?_)
  rw [State.softResetDone, if_pos h]
  rfl

theorem softCleared_of {p : PageRef} {r : Reg} (h1 : r ≠ .KEY_COUNTS) (h2 : r ≠ .KEY_SESSION)
    (h3 : p.kind = .function → ∃ f ∈ r.desc.flds, f.acc ≠ .ro ∧ f.acc ≠ .rc) : softCleared p r = true := by
  simp only [softCleared, Bool.and_eq_true, Bool.or_eq_true, bne_iff_ne, List.any_eq_true]
  exact ⟨⟨h1, h2⟩, or_iff_not_imp_left.mpr (fun h => h3 (not_not.mp h))⟩

/-- Blocks are no fixed pages, nor the RESULT page. -/
theorem block_kind {p : PageRef} (h : PageKind.block p.kind = true) : PageKind.fixed p.kind = false ∧ p.kind ≠ .result := by
  obtain ⟨k, i⟩ := p
  cases k <;> simp_all [PageKind.block, PageKind.fixed]

theorem block_blk (s : State) {p : PageRef} (h : PageKind.block p.kind = true) : s.blk p = (s.hdr p).st := by
  rw [State.blk, statePage_block h]

/-- Settles O12: what the write of SOFT_RESET does by the state of the block, and what its end lets go on. -/
theorem softResetActsWhileOff : Obligations.SoftResetActsWhileOff := by
  unfold Obligations.SoftResetActsWhileOff
  refine ⟨?_, ?_, ?_, ?_⟩
  · intro s p req h hf hr ho hup
    obtain ⟨t, b, hx, hh, hreg, hq, hc⟩ := softReset_effect s p req h hf hr ho hup
    have hrn (r : Reg) (n : Nat) : t.answeredOk.reg r n = (s.regsCleared p).reg r n := by
      rw [answeredOk_reg]; unfold State.reg; rw [hreg, resetBody_regs]
    rw [← answeredOk_hdr] at hh
    refine ⟨t.answeredOk, hx, ?_, ?_, ?_, ?_, ?_, ?_, ?_, ?_, ?_, ?_, ?_, ?_, ?_, ?_, ?_⟩
    iterate 11 rw [hh]; rfl
    · intro r n hp h1 h2 h3
      rw [hrn, regsCleared_reset s hp (softCleared_of h1 h2 h3)]
    · intro r n hp
      rw [hrn, regsCleared_other s hp]
    · intro hk q hi
      rw [← resetBody_rq s hk hi]
      show Tbl.get _ t.qeng.rqs q = _
      rw [hq]; rfl
    · intro hk q hi
      rw [← resetBody_cq s hk hi]
      show Tbl.get _ t.crown.cqs q = _
      rw [hc]; rfl
  · intro s p req h hno hup
    have hx := exec_softReset s p req h
    rw [softReset_refused s p hno] at hx
    have hsr : ((s.seq p).hdr p).softReset = false :=
      ((raiseFault_within (F := offBlocks) (Part.All.of_all rfl) p 5 (Within.refl s)).hdr_softReset rfl p).trans h.notInReset
    have hst : ((s.seq p).hdr p).st = (s.hdr p).st := hst_st (seq_hst s p p)
    by_cases hb : PageKind.block p.kind = true
    · rw [if_pos hb] at hx
      have hoff : (s.hdr p).st ≠ .off := by
        rw [← block_blk s hb]
        rcases hno with h1 | h1 | h1
        · exact absurd h1 (by rw [(block_kind hb).1]; decide)
        · exact absurd h1 (block_kind hb).2
        · exact h1
      obtain ⟨v, hv, hreg, hso, hfa⟩ := enWrite_settled (s.seq p) p (s.hdr p).en (by rw [hst]; exact hoff)
        (by rw [hst]; exact hup hb)
      rw [hv] at hx
      exact ⟨_, hx, hfa (seq_bit s p), hreg.trans (seq_regs s p), hso.trans hsr⟩
    · rw [if_neg hb] at hx
      exact ⟨_, hx, seq_bit s p, seq_regs s p, hsr⟩
  · intro s p hp hs
    have hx := exec_softResetDone s p hp hs
    refine ⟨fun he => ?_, fun w a he ha => ?_, fun hall => ?_⟩
    · rw [he] at hx
      exact ⟨_, hx, unreset_hdr s p, rfl⟩
    · rw [he, runStalled_cons _ _ _ _ (fun q e => unreset_softReset s p q (.inl (by rw [ha] at e; exact (Option.some.inj e).symm)))] at hx
      exact ⟨_, hx, rfl⟩
    · obtain ⟨h1, h2⟩ := runStalled_reads s.cp.stalled (s.unreset p)
        (fun x m => ⟨(hall x m).1, fun q e => unreset_softReset s p q ((hall x m).2 q e)⟩)
      exact ⟨_, hx, h1, h2⟩
  · intro s a p had hpg hs hst hk hph
    have hph' : (s.pwr.phase == .committed) = false := beq_eq_false_iff_ne.mpr hph
    have hw : s.stalls a = true := by
      simp [State.stalls, hpg, State.waitsOn, hs, State.keeperAnswers, hk, hph']
    have hx : exec (.registerWrite a) s = .next { s with cp := { s.cp with rsp := [], stalled := s.cp.stalled ++ [(true, a)] } } := by
      show Host.Outcome.next (s.cpAccess true a) = _
      rw [State.cpAccess, had, hw, hst]
      rfl
    rw [hst] at hx
    exact ⟨_, hx, rfl, rfl, rfl⟩

end Sys2Proof.Machine
end

section
/-! PROOFS. The statements of 03_request_queues.md: the read of the next group, and the polls that start it (O19). -/

namespace Sys2Proof.Machine

/-! ## The table of request queues -/

@[simp] theorem rq_setRq_same (s : State) (q : Nat) (x : Rq) : (s.setRq q x).rq q = x := Tbl.get_set_same _ _ _ _

theorem rq_setRq_ne (s : State) {q r : Nat} (x : Rq) (h : r ≠ q) : (s.setRq q x).rq r = s.rq r :=
  Tbl.get_set_ne _ _ _ _ _ h

@[simp] theorem rq_updRq_same (s : State) (q : Nat) (f : Rq → Rq) : (s.updRq q f).rq q = f (s.rq q) := rq_setRq_same _ _ _

theorem rq_updRq_ne (s : State) {q r : Nat} (f : Rq → Rq) (h : r ≠ q) : (s.updRq q f).rq r = s.rq r := rq_setRq_ne _ _ h

theorem rq_congr {s t : State} (h : t.qeng = s.qeng) (q : Nat) : t.rq q = s.rq q := by
  unfold State.rq; rw [h]

/-- A change of one queue leaves what is on its way to dispatch. -/
@[simp] theorem setRq_issuing (s : State) (q : Nat) (x : Rq) : (s.setRq q x).qeng.issuing = s.qeng.issuing := rfl
@[simp] theorem setRq_issued (s : State) (q : Nat) (x : Rq) : (s.setRq q x).qeng.issued = s.qeng.issued := rfl
@[simp] theorem setRq_chains (s : State) (q : Nat) (x : Rq) : (s.setRq q x).qeng.chains = s.qeng.chains := rfl

/-! ## Registers that counting leaves (R350, R351) -/

/-- From s to t every register outside a list is as it was. -/
def RegsBut (l : List Reg) (s t : State) : Prop := ∀ r n, r ∉ l → t.reg r n = s.reg r n

namespace RegsBut

variable {l : List Reg} {s t u : State}

theorem refl (l : List Reg) (s : State) : RegsBut l s s := fun _ _ _ => rfl

theorem trans (h : RegsBut l s t) (k : RegsBut l t u) : RegsBut l s u := fun r n e => (k r n e).trans (h r n e)

theorem of_regs (h : t.regs = s.regs) : RegsBut l s t := fun r n _ => by unfold State.reg; rw [h]

theorem of_put (s : State) (f : Fld) (n x : Nat) (hf : f.reg ∈ l := by decide) : RegsBut l s (s.put f n x) :=
  fun _ _ e => reg_put_ne s x (Or.inl (by rintro rfl; exact e hf))

theorem of_putFlag (s : State) (f : Fld) (n : Nat) (b : Bool) (hf : f.reg ∈ l := by decide) : RegsBut l s (s.putFlag f n b) :=
  of_put s f n (b2n b) hf

theorem same (h : RegsBut l s t) (k : u.regs = t.regs) : RegsBut l s u := h.trans (of_regs k)

theorem foldl {α : Type} {f : State → α → State} (hf : ∀ u x, RegsBut l u (f u x)) (k : List α) (s : State) :
    RegsBut l s (k.foldl f s) :=
  List.foldlRecOn k f (refl l s) (fun u hu x _ => hu.trans (hf u x))

theorem mono {k : List Reg} (h : RegsBut l s t) (hk : ∀ r ∈ l, r ∈ k := by decide) : RegsBut k s t :=
  fun r n e => h r n (fun c => e (hk r c))

theorem fld (h : RegsBut l s t) (f : Fld) (n : Nat) (hf : f.reg ∉ l := by decide) : t.fld f n = s.fld f n :=
  fld_of_reg (h f.reg n hf)

theorem flag (h : RegsBut l s t) (f : Fld) (n : Nat) (hf : f.reg ∉ l := by decide) : t.flag f n = s.flag f n :=
  flag_of_reg (h f.reg n hf)

end RegsBut

/-- The registers that hold the counts of the tile and of its functions. -/
def countRegs : List Reg := [.PERF_CNT, .FN_CNT]

theorem perfCount_regsBut (s : State) (e k : Nat) : RegsBut countRegs s (s.perfCount e k) :=
  fun _ n h => perfCount_reg_ne s e k n (fun c => h (c ▸ by decide))

theorem fnCount_regsBut (s : State) (f e k : Nat) : RegsBut countRegs s (s.fnCount f e k) := by
  unfold State.fnCount
  split
  · exact .of_put s FN_CNT.COUNT _ _
  · exact .refl _ s

theorem issueReq_regsBut (s : State) (p : Nat) (q : FabReq) : RegsBut countRegs s (s.issueReq p q) := by
  unfold State.issueReq
  extract_lets pt wait
  have hset (x : Port) : RegsBut countRegs s (s.setPort p x) := .of_regs rfl
  split
  · exact hset _
  · split
    · split
      · exact (hset _).trans (perfCount_regsBut _ _ _)
      · exact hset _
    · split
      · exact (hset _).trans (perfCount_regsBut _ _ _)
      · exact hset _
    · split <;> exact hset _

theorem startRead_regsBut (s : State) (k : XKind) (a : Attr) (x n : Nat) (p : Option Nat) :
    RegsBut countRegs s (s.startRead k a x n p).2 :=
  (RegsBut.of_regs rfl).trans (RegsBut.foldl (fun _ _ => issueReq_regsBut _ _ _) _ (s.newXfer k (accesses x n).length).2)

/-! ## The engine and the outputs that a frame leaves as they are -/

theorem State.Within.fabricOn {F : Part → Bool} {s t : State} (h : s.Within F t) (ha : F .addr = false)
    (ht : F .tile = false) (hp : F .pwr = false) (hc : F .clk = false) : t.fabricOn = s.fabricOn := by
  simp only [State.fabricOn, State.domainsDown, State.asleep, h.pwr_core hp, h.pwr_restored hp, h.tile_eq ha ht, h.clk hc]

theorem State.Within.qStopped {F : Part → Bool} {s t : State} (h : s.Within F t) (ha : F .addr = false)
    (ht : F .tile = false) (hp : F .pwr = false) (hm : F .tamp = false) : t.qStopped = s.qStopped := by
  simp only [State.qStopped, h.pwr_phase hp, h.tile_eq ha ht, h.tamp hm]

theorem State.Within.isOn {F : Part → Bool} {s t : State} (h : s.Within F t) (hb : F .blocks = false) (p : PageRef) :
    t.isOn p = s.isOn p := by
  simp only [State.isOn, h.blk_eq hb]

/-! ## Reads of the fabric (R369) -/

theorem startRead_keeps (s : State) (k : XKind) (a : Attr) (x n : Nat) (p : Option Nat) :
    s.Within (only [.regs, .hdrs, .irq, .fab]) (s.startRead k a x n p).2 :=
  startRead_within (Part.all_only _) k a x n p (Within.refl s)

theorem perfCount_fab (s : State) (e k : Nat) : (s.perfCount e k).fab = s.fab :=
  (perfCount_within (F := only [.regs, .hdrs, .irq]) (Part.all_only _) e k (Within.refl s)).fab rfl

/-- What a request makes of the ports depends on the ports and on the outputs alone. -/
theorem issueReq_fab_congr {s t : State} (p : Nat) (q : FabReq) (hf : t.fab = s.fab) (ho : t.fabricOn = s.fabricOn) :
    (t.issueReq p q).fab = (s.issueReq p q).fab := by
  have hp : t.port p = s.port p := by unfold State.port; rw [hf]
  have hset (x : Port) : (t.setPort p x).fab = (s.setPort p x).fab := by simp only [State.setPort, hf]
  unfold State.issueReq
  simp only [hp, ho]
  split
  · exact hset _
  · split
    · split
      · simp only [perfCount_fab, hset]
      · exact hset _
    · split
      · simp only [perfCount_fab, hset]
      · exact hset _
    · split <;> exact hset _

theorem issueReq_fabricOn (s : State) (p : Nat) (q : FabReq) : (s.issueReq p q).fabricOn = s.fabricOn :=
  (issueReq_within (F := only [.regs, .hdrs, .irq, .fab]) (Part.all_only _) p q (Within.refl s)).fabricOn rfl rfl rfl rfl

/-- So does what a read makes of them. -/
theorem startRead_fab_congr {s t : State} (k : XKind) (a : Attr) (x n : Nat) (p : Option Nat) (hf : t.fab = s.fab)
    (ho : t.fabricOn = s.fabricOn) : (t.startRead k a x n p).2.fab = (s.startRead k a x n p).2.fab := by
  have hx : (t.newXfer k (accesses x n).length).2.fab = (s.newXfer k (accesses x n).length).2.fab := by
    simp only [State.newXfer, hf]
  have hn : (t.newXfer k (accesses x n).length).1 = (s.newXfer k (accesses x n).length).1 := by
    simp only [State.newXfer, hf]
  have ho' : (t.newXfer k (accesses x n).length).2.fabricOn = (s.newXfer k (accesses x n).length).2.fabricOn := ho
  unfold State.startRead
  simp only [hn]
  generalize (t.newXfer k (accesses x n).length).2 = t' at hx ho' ⊢
  generalize (s.newXfer k (accesses x n).length).2 = s' at hx ho' ⊢
  induction accesses x n generalizing s' t' with
  | nil => exact hx
  | cons y l ih =>
    exact ih _ _ (issueReq_fab_congr _ _ hx ho') ((issueReq_fabricOn _ _ _).trans (ho'.trans (issueReq_fabricOn _ _ _).symm))

/-! ## The read of the next group (R54) -/

/-- How many descriptors the next read of a queue takes: GROUP, the room in the prefetch cache or what is left of the ring. -/
def State.readSize (s : State) (q : Nat) : Nat :=
  min s.fetchGroup (min (s.prefDepth q - s.prefetched q) (2 ^ s.rqLog q - s.fld RQ_HEAD.INDEX q))

/-- The engine reads for a queue: it is ON and has not stopped, the queue accepts entries, no read of it is under way, and there
is something to read. -/
def State.rqReads (s : State) (q : Nat) : Bool :=
  s.isOn (pg .qeng) && !s.qStopped && (s.rq q).st.accepts && !(s.rq q).fetching && s.readSize q != 0

/-- The fabric read of the next group. -/
def State.groupRead (s : State) (q n : Nat) : State :=
  (s.startRead (.desc q (s.fld RQ_HEAD.INDEX q)) (fnAttr (s.fld RQ_CFG.FUNC q) false false)
    (4096 * s.fld RQ_BASE.BASE q + 64 * s.fld RQ_HEAD.INDEX q) (64 * n) none).2

theorem rqReads_iff (s : State) (q : Nat) : s.rqReads q = true ↔ s.isOn (pg .qeng) = true ∧ s.qStopped = false ∧
    (s.rq q).st.accepts = true ∧ (s.rq q).fetching = false ∧ s.readSize q ≠ 0 := by
  simp [State.rqReads, and_assoc]

theorem rqRead_eq (s : State) (q : Nat) : s.rqRead q =
    if s.rqReads q then (s.setRq q { s.rq q with fetching := true }).groupRead q (s.readSize q) else s := rfl

theorem groupRead_keeps (s : State) (q n : Nat) : s.Within (only [.regs, .hdrs, .irq, .fab]) (s.groupRead q n) :=
  startRead_keeps _ _ _ _ _ _

theorem groupRead_rq (s : State) (q n r : Nat) : (s.groupRead q n).rq r = s.rq r := rq_congr ((groupRead_keeps s q n).qeng rfl) r

/-- The read of a queue depends on its registers, the ports and the outputs. -/
theorem groupRead_fab_congr {s t : State} (q n : Nat) (hr : t.regs = s.regs) (hf : t.fab = s.fab)
    (ho : t.fabricOn = s.fabricOn) : (t.groupRead q n).fab = (s.groupRead q n).fab := by
  unfold State.groupRead
  simp only [fld_congr _ q hr]
  exact startRead_fab_congr _ _ _ _ _ hf ho

/-- Where the engine reads, the read is under way, and the queue is otherwise as it was. -/
theorem rqRead_reads {s : State} {q : Nat} (h : s.rqReads q = true) :
    (s.rqRead q).rq q = { s.rq q with fetching := true } ∧ (s.rqRead q).fab = (s.groupRead q (s.readSize q)).fab := by
  rw [rqRead_eq, if_pos h]
  exact ⟨(groupRead_rq _ _ _ _).trans (rq_setRq_same _ _ _), groupRead_fab_congr _ _ rfl rfl rfl⟩

theorem rqRead_idle {s : State} {q : Nat} (h : s.rqReads q = false) : s.rqRead q = s := by
  rw [rqRead_eq, h]; rfl

theorem rqRead_rq_ne (s : State) {q r : Nat} (h : r ≠ q) : (s.rqRead q).rq r = s.rq r := by
  rw [rqRead_eq]
  split
  · rw [groupRead_rq, rq_setRq_ne _ _ h]
  · rfl

/-- A read marks its queue, and changes nothing else of it. -/
theorem rqRead_rq (s : State) (q : Nat) :
    (s.rqRead q).rq q = { s.rq q with fetching := (s.rq q).fetching || s.rqReads q } := by
  cases h : s.rqReads q with
  | true => rw [(rqRead_reads h).1, Bool.or_true]
  | false => rw [rqRead_idle h, Bool.or_false]

theorem rqRead_regsBut (s : State) (q : Nat) : RegsBut countRegs s (s.rqRead q) := by
  rw [rqRead_eq]
  split
  · exact (RegsBut.of_regs (s := s) rfl).trans (startRead_regsBut _ _ _ _ _ _)
  · exact .refl _ s

/-- No room for a read: none starts. -/
theorem rqRead_full {s : State} {q : Nat} (h : (s.rq q).fetching = true ∨ s.prefDepth q ≤ s.prefetched q) :
    s.rqRead q = s := by
  refine rqRead_idle (Bool.eq_false_iff.mpr (fun hc => ?_))
  obtain ⟨-, -, -, hf, hn⟩ := (rqReads_iff s q).mp hc
  rcases h with h | h
  · rw [h] at hf; cases hf
  · exact hn (by simp [State.readSize, Nat.sub_eq_zero_of_le h])

/-! ## Polls (R54–R56) -/

theorem work_eq {s : State} {n k : Nat} (f : State → State) (hn : n < k) (hw : s.working = true) : s.work n k f = f s := by
  rw [State.work, State.unit, if_pos hn, State.whileWorking, if_pos hw]

/-- Work that changes nothing here is nothing, whether or not the tile works. -/
theorem work_id {s : State} {n k : Nat} {f : State → State} (h : f s = s) : s.work n k f = s := by
  simp only [State.work, State.unit, State.whileWorking, h, ite_self]

/-- What a poll that reads leaves. -/
theorem rqRead_polls {s : State} {q n : Nat} (ha : (s.rq q).st.accepts = true) (hon : s.isOn (pg .qeng) = true)
    (hs : s.qStopped = false) (hf : (s.rq q).fetching = false) (hn : n = s.readSize q) (h0 : n ≠ 0) :
    (s.rqRead q).rq q = { s.rq q with fetching := true } ∧ (∀ r, r ≠ q → (s.rqRead q).rq r = s.rq r) ∧
      (s.rqRead q).fab = (s.groupRead q n).fab := by
  subst hn
  obtain ⟨h1, h2⟩ := rqRead_reads ((rqReads_iff s q).mpr ⟨hon, hs, ha, hf, h0⟩)
  exact ⟨h1, fun _ hr => rqRead_rq_ne s hr, h2⟩

/-- Settles O19: a poll that reads, for RQ_POLL and RQ_DOZE_POLL, and the polls that read nothing. -/
theorem pollsReadTheNextGroup : Obligations.PollsReadTheNextGroup := by
  refine ⟨?_, ?_, ?_, ?_⟩
  · intro s q n hw hq hst hon hs hf hn h0
    have ha : (s.rq q).st.accepts = true := by rcases hst with h | h <;> rw [h] <;> rfl
    have hx : exec (.rqPoll q) s = .next (s.rqRead q) := by
      show Host.Outcome.next (s.work q 256 _) = _
      rw [work_eq _ hq hw, if_pos (by simpa using hst)]
    exact ⟨_, hx, rqRead_polls ha hon hs hf hn h0⟩
  · intro s q n hw hq hst hi hon hs hf hn h0
    have hx : exec (.rqDozePoll q) s = .next (s.rqRead q) := by
      show Host.Outcome.next (s.work q 256 _) = _
      rw [work_eq _ hq hw, if_pos (by simp [hst, hi])]
    exact ⟨_, hx, rqRead_polls (by rw [hst]; rfl) hon hs hf hn h0⟩
  · intro s q hst hi
    exact congrArg Host.Outcome.next (work_id (by simp [hi]))
  · intro s q h
    have hr := rqRead_full h
    exact ⟨congrArg Host.Outcome.next (work_id (by rw [hr, ite_self])),
      congrArg Host.Outcome.next (work_id (by rw [hr, ite_self]))⟩

end Sys2Proof.Machine
end

section
/-! PROOFS. The statements of 03_request_queues.md: writes that a client reaches, and kicks (O20). -/

namespace Sys2Proof.Machine

/-! ## Writes that a client reaches (R29, R32) -/

/-- A request that the port neither drops nor stalls, and that no keeper answers, is served by its page. -/
theorem cpAccess_served {s : State} {p : PageRef} {b : Bool} {req : Req} (h : s.Open p b req) (w : Bool) (a : Access)
    (ha : s.cpAddressed a = true) (hp : accPage a = some p) : s.cpAccess w a = s.cpServe w p a := by
  have hst : s.stalls a = false := by
    simp [State.stalls, State.waitsOn, hp, h.nothingStalled, h.notInReset]
  have hk : (s.keeperAnswers && !keeperServes (some p)) = false := by
    rcases h.served with ⟨h1, h2⟩ | h1
    · simp [State.keeperAnswers, h1, h2]
    · simp [keeperServes, h1]
  have hw : (s.pwr.phase == .waking) = false := by simpa using h.notWaking
  simp only [State.cpAccess, ha, hst, State.cpDecide, hw, hp, hk, Bool.not_true, Bool.false_eq_true, if_false]

/-- A 32-bit write at a register's place writes the register, whoever asks for it. -/
theorem pageWrite_reg (s : State) (r : Reg) (n : Nat) (v : W32) (priv : Bool) :
    s.pageWrite (regPage r n) (regOff r n) 4 (v.setWidth 64) priv = s.writeReg r n (v.setWidth 64) 0xFFFFFFFF := by
  have hn : ¬ regOff r n < 64 := by have := regOff_ge r n; omega
  have hk : ((regPage r n).kind == PageKind.result) = false := by simpa using page_not_result r n
  have hw : (v.setWidth 64).setWidth 32 = v := by ext i hi; simp
  simp only [State.pageWrite, if_true, hn, if_false, State.wordWrite, regAt_reg, hk, Bool.false_eq_true, hw]

/-- A write of a register that its requester reaches is a write of that register, answered OK. -/
theorem cpReg_reach (s : State) (r : Reg) (n : Nat) (v : W32) (req : Req) (h : s.Reach r n req) :
    s.cpReg r n v req = (s.writeReg r n (v.setWidth 64) 0xFFFFFFFF).answeredOk := by
  obtain ⟨⟨hpage, hlock⟩, hre⟩ := h
  have hge := regOff_ge r n
  have hlt := regOff_lt r n
  have h4 := regOff_mod4 r n
  have hbytes : (s.accessTo (regPage r n) (regOff r n) 4 (v.setWidth 64) req).bytes = 4 := rfl
  have hreq : (s.accessTo (regPage r n) (regOff r n) 4 (v.setWidth 64) req).req = req := rfl
  have hdata : (s.accessTo (regPage r n) (regOff r n) 4 (v.setWidth 64) req).data = v.setWidth 64 := rfl
  have htag : (s.accessTo (regPage r n) (regOff r n) 4 (v.setWidth 64) req).tag = 0 := rfl
  have hpo := accPo_accessTo s _ (regOff r n) 4 (v.setWidth 64) req hpage.inMap hlt
  have hal : (s.accessTo (regPage r n) (regOff r n) 4 (v.setWidth 64) req).addr.toNat % 4 = 0 := by
    rw [accessTo_addr s _ _ _ _ _ hpage.inMap hlt]; omega
  have hsize : (((4 : Nat) != 4 && (4 : Nat) != 8) || (0 : Nat) != 0) = false := rfl
  have hf : (s.tile.st == .fenced && !(PageKind.fixed (regPage r n).kind)) = false := by
    rcases hpage.notFenced with h1 | h1 <;> simp [h1]
  have he : (touchesExpert (regPage r n) (regOff r n) 4 && !s.lockOpen (regPage r n)) = false := by
    rw [touchesExpert_reg]
    by_cases hx : r.desc.flds.any (fun f => f.acc == .rwx) = true
    · simp [hlock hx]
    · simp [hx]
  rw [← registerWrite_eq, cpAccess_served hpage true _ (cpAddressed_accessTo s _ _ _ _ _ hpage.inMap hlt hpage.addressed)
    (accPage_accessTo s _ _ _ _ _ hpage.inMap hlt)]
  generalize s.accessTo (regPage r n) (regOff r n) 4 (v.setWidth 64) req = a at hbytes hreq hdata htag hpo hal ⊢
  have hserve : s.cpServe true (regPage r n) a = s.perform true (regPage r n) a := by
    simp only [State.cpServe, hbytes, hal, hsize, hpo, hreq, hre, hf, hpage.notGated rfl, he, Bool.true_and, Bool.and_true,
      Bool.not_true, Bool.false_and, Bool.false_eq_true, if_false]
  rw [hserve, State.perform, if_pos rfl, hpo, hbytes, hdata, pageWrite_reg, State.respond', htag]
  rfl

/-! ## Kicks (R56, R65, R69) -/

/-- A queue as a kick leaves it, before its read. -/
def State.kicked (s : State) (q : Nat) : Rq :=
  { s.rq q with
    st := if (s.rq q).st = RqState.dozing then
      (if (s.cq (s.fld RQ_CFG.CQ q)).full then RqState.held else RqState.active) else (s.rq q).st
    interval := s.minInt q, emptyMax := 0 }

theorem kicked_accepts {s : State} {q : Nat} (h : (s.rq q).st.accepts = true) : (s.kicked q).st.accepts = true := by
  unfold State.kicked
  split
  · split <;> rfl
  · exact h

theorem rqKick_accepts {s : State} {q : Nat} (h : (s.rq q).st.accepts = true) :
    s.rqKick q = (s.setRq q (s.kicked q)).rqRead q := by
  simp only [State.rqKick, h, if_true, State.kicked, beq_iff_eq]

theorem rqKick_ignored {s : State} {q : Nat} (h : (s.rq q).st.accepts = false) : s.rqKick q = s := by
  simp [State.rqKick, h]

/-- A change of a queue that keeps what it has accepted leaves how much its next read takes. -/
theorem readSize_setRq (s : State) (q : Nat) (x : Rq) (h : x.acc = (s.rq q).acc) : (s.setRq q x).readSize q = s.readSize q := by
  have hp : (s.setRq q x).prefetched q = s.prefetched q := by
    simp only [State.prefetched, rq_setRq_same, h]; rfl
  simp only [State.readSize, hp]; rfl

/-- The engine reads for a kicked queue as it would have for the queue before. -/
theorem rqReads_kicked {s : State} {q : Nat} (h : (s.rq q).st.accepts = true) :
    (s.setRq q (s.kicked q)).rqReads q = s.rqReads q := by
  have hn : (s.setRq q (s.kicked q)).readSize q = s.readSize q := readSize_setRq s q _ rfl
  simp only [State.rqReads, hn, rq_setRq_same, kicked_accepts h, h]; rfl

/-- What a kick of a queue that accepts entries leaves. -/
theorem rqKick_leaves {s : State} {q : Nat} (h : (s.rq q).st.accepts = true) :
    (∀ r, r ≠ q → (s.rqKick q).rq r = s.rq r) ∧
      (s.rqReads q = true → (s.rqKick q).rq q = { s.kicked q with fetching := true } ∧
        (s.rqKick q).fab = (s.groupRead q (s.readSize q)).fab) ∧
      (s.rqReads q = false → (s.rqKick q).rq q = s.kicked q ∧ (s.rqKick q).fab = s.fab) := by
  rw [rqKick_accepts h]
  refine ⟨fun r hr => (rqRead_rq_ne _ hr).trans (rq_setRq_ne _ _ hr), fun hc => ?_, fun hc => ?_⟩
  · obtain ⟨h1, h2⟩ := rqRead_reads ((rqReads_kicked h).trans hc)
    rw [readSize_setRq s q (s.kicked q) rfl] at h2
    exact ⟨h1.trans (by rw [rq_setRq_same]), h2.trans (groupRead_fab_congr _ _ rfl rfl rfl)⟩
  · rw [rqRead_idle ((rqReads_kicked h).trans hc)]
    exact ⟨rq_setRq_same _ _ _, rfl⟩

theorem regWrite_open {s : State} {r : Reg} {n k : Nat} (v : W32) {req : Req} (hn : n < k) (h : s.OpenReg r n req) :
    s.regWrite r n k v req = (s.writeReg r n (v.setWidth 64) 0xFFFFFFFF).answeredOk := by
  rw [State.regWrite, State.unit, if_pos hn, cpReg_open s r n v req h]

theorem exec_rqKick {s : State} {q : Nat} (v : W32) {req : Req} (hq : q < 256) (h : s.OpenReg .RQ_KICK q req) :
    exec (.rqKick q v req) s = .next (s.rqKick q).answeredOk :=
  congrArg Host.Outcome.next (regWrite_open v hq h)

theorem writeReg_fnRqKick (s : State) (f : Nat) (v : W32) :
    s.writeReg .FN_RQ_KICK f (v.setWidth 64) 0xFFFFFFFF =
      if s.ownsRq f (fget (v.setWidth 64) 7 0) then s.rqKick (fget (v.setWidth 64) 7 0) else s := by
  have h : s.writeReg .FN_RQ_KICK f (v.setWidth 64) 0xFFFFFFFF =
    if s.ownsRq f (fget (v.setWidth 64 &&& 0xFFFFFFFF) 7 0) then s.rqKick (fget (v.setWidth 64 &&& 0xFFFFFFFF) 7 0)
      else s := rfl
  rwa [lowWord_setWidth] at h

/-- A client's kick is one of the queue that it names, if the queue is its function's. -/
theorem exec_fnRqKick {s : State} {f : Nat} (v : W32) {req : Req} (hf : f < 64) (h : s.Reach .FN_RQ_KICK f req) :
    exec (.fnRqKick f v req) s = .next (if s.ownsRq f (fget (v.setWidth 64) 7 0) then s.rqKick (fget (v.setWidth 64) 7 0)
      else s).answeredOk := by
  show Host.Outcome.next (s.regWrite _ _ _ _ _) = _
  rw [State.regWrite, State.unit, if_pos hf, cpReg_reach s _ f v req h, writeReg_fnRqKick]

/-- Settles O20: a kick by either register is State.rqKick. -/
theorem kicksWakeTheQueue : Obligations.KicksWakeTheQueue := by
  refine ⟨?_, ?_, ?_⟩
  · intro s q n x c hq ha hc hx hn
    have he : exec c s = .next (s.rqKick q).answeredOk := by
      rcases hc with ⟨v, req, rfl, ho⟩ | ⟨f, v, req, rfl, hf, hr, rfl, hown⟩
      · exact exec_rqKick v hq ho
      · rw [exec_fnRqKick v hf hr, if_pos hown]
    obtain ⟨hne, hreads, hidle⟩ := rqKick_leaves ha
    subst hx hn
    refine ⟨_, he, hne, rfl, fun hon hs hf h0 => hreads ((rqReads_iff s q).mpr ⟨hon, hs, ha, hf, h0⟩), fun h => ?_⟩
    refine hidle (Bool.eq_false_iff.mpr (fun hc => ?_))
    obtain ⟨hon, hs, -, hf, h0⟩ := (rqReads_iff s q).mp hc
    rcases h with h | h | h | h
    · rw [h] at hon; cases hon
    · rw [h] at hs; cases hs
    · rw [h] at hf; cases hf
    · exact h0 h
  · intro s q v req hq ho ha
    rw [exec_rqKick v hq ho, rqKick_ignored ha]
  · intro s f q v req hf hr hq h
    rw [exec_fnRqKick v hf hr, hq]
    rcases h with h | h
    · rw [h]; rfl
    · rw [rqKick_ignored h, ite_self]

end Sys2Proof.Machine
end

section
/-! PROOFS. The statements of 03_request_queues.md: a queue is enabled and disabled, and issue is paused (O24). -/

namespace Sys2Proof.Machine

/-! ## Words of RQ_CFG (R65, R66, R68) -/

/-- The fields of RQ_CFG that a write takes, EN among them. -/
def rqCfgFields : W64 := 0x9F3F3F0F

/-- Those beside EN, which a write takes while the queue is DISABLED. -/
def rqCfgOthers : W64 := 0x1F3F3F0F

/-- Each bit of the others is a bit that a write takes, in the low word and not EN. -/
theorem rqCfgOthers_bit : ∀ i < 64, rqCfgOthers.getLsbD i = true →
    rqCfgFields.getLsbD i = true ∧ i ≠ 31 := by decide

/-- Each bit that a write takes is in the low word. -/
theorem rqCfgFields_bit : ∀ i < 64, rqCfgFields.getLsbD i = true → i < 32 := by decide

/-- Only the bit of EN. -/
theorem enWord_bit : ∀ i < 32, (RQ_CFG.EN.word 1).getLsbD i = decide (i = 31) := by decide

theorem rqCfg_merged (s : State) (q : Nat) (v : W32) :
    s.merged .RQ_CFG q (v.setWidth 64) 0xFFFFFFFF = wordMerge (s.reg .RQ_CFG q) (v.setWidth 64) rqCfgFields := by
  have hm : Reg.RQ_CFG.bitsOf (fun a => a == .rw || a == .rwx) &&& 0xFFFFFFFF = rqCfgFields := by decide
  rw [State.merged, hm]; rfl

theorem writeReg_rqCfg (s : State) (q : Nat) (v : W32) : s.writeReg .RQ_CFG q (v.setWidth 64) 0xFFFFFFFF =
    s.rqCfgWrite q (wordMerge (s.reg .RQ_CFG q) (v.setWidth 64) rqCfgFields) := by
  rw [← rqCfg_merged]; rfl

/-- RQ_CFG as a write with EN = 1 asks for it. -/
def State.rqCfgOn (s : State) (q : Nat) (v : W32) : W64 :=
  wordMerge (s.reg .RQ_CFG q) ((v ||| RQ_CFG.EN.word 1).setWidth 64) rqCfgFields

theorem rqCfgOn_en (s : State) (q : Nat) (v : W32) : (s.rqCfgOn q v).getLsbD 31 = true := by
  have h1 : rqCfgFields.getLsbD 31 = true := by decide
  have h2 : (RQ_CFG.EN.word 1).getLsbD 31 = true := by decide
  simp [State.rqCfgOn, wordMerge, h1, h2]

/-- Its other fields are those of the written word. -/
theorem rqCfgOn_others (s : State) (q : Nat) (v : W32) : s.rqCfgOn q v &&& rqCfgOthers = v.setWidth 64 &&& rqCfgOthers := by
  apply BitVec.eq_of_getLsbD_eq
  intro i hi
  cases h : rqCfgOthers.getLsbD i with
  | false => simp [h]
  | true =>
    obtain ⟨h1, h2⟩ := rqCfgOthers_bit i hi h
    have h3 := enWord_bit i (rqCfgFields_bit i hi h1)
    simp only [State.rqCfgOn, wordMerge, BitVec.getLsbD_and, BitVec.getLsbD_or, BitVec.getLsbD_not, BitVec.getLsbD_setWidth,
      h, h1, h3, h2, hi, decide_true, decide_false, Bool.true_and, Bool.and_true, Bool.not_true, Bool.and_false,
      Bool.false_or, Bool.or_false]

/-- So its difference from what the register holds is that of the written word. -/
theorem rqCfgOn_differs (s : State) (q : Nat) (v : W32) :
    (s.rqCfgOn q v ^^^ s.reg .RQ_CFG q) &&& rqCfgOthers = (v.setWidth 64 ^^^ s.reg .RQ_CFG q) &&& rqCfgOthers := by
  apply BitVec.eq_of_getLsbD_eq
  intro i _
  have h := congrArg (fun w => BitVec.getLsbD w i) (rqCfgOn_others s q v)
  simp only [BitVec.getLsbD_and, BitVec.getLsbD_xor] at h ⊢
  cases ho : rqCfgOthers.getLsbD i with
  | false => simp
  | true => rw [ho, Bool.and_true, Bool.and_true] at h; rw [h]

/-- The bit of EN. -/
def rqCfgEn : W64 := 0x80000000

theorem rqCfgEn_bit : ∀ i < 64, rqCfgEn.getLsbD i = decide (i = 31) := by decide

theorem rqCfgFields_out : ∀ i < 64, rqCfgFields.getLsbD i = false → i ≠ 31 := by decide

/-- A write that clears EN and leaves the fields as they stand clears EN. -/
theorem rqCfg_withoutEn (s : State) (q : Nat) :
    wordMerge (s.reg .RQ_CFG q) ((s.withoutBit RQ_CFG.EN q).setWidth 64) rqCfgFields = s.reg .RQ_CFG q &&& ~~~rqCfgEn := by
  have hm : Reg.RQ_CFG.bitsOf (fun a => a == .rw || a == .rwx) = rqCfgFields := by decide
  apply BitVec.eq_of_getLsbD_eq
  intro i hi
  simp only [wordMerge, State.withoutBit, State.asItStands, show RQ_CFG.EN.reg = .RQ_CFG from rfl, hm, BitVec.getLsbD_and,
    BitVec.getLsbD_or, BitVec.getLsbD_not, BitVec.getLsbD_setWidth, hi, decide_true, Bool.true_and, rqCfgEn_bit i hi]
  cases hf : rqCfgFields.getLsbD i with
  | false => simp [rqCfgFields_out i hi hf]
  | true =>
    have hb := rqCfgFields_bit i hi hf
    simp only [enWord_bit i hb, hb, decide_true, Bool.and_true, Bool.not_true, Bool.and_false, Bool.false_or, Bool.true_and]

theorem rqCfg_cleared (w : W64) : (w &&& ~~~rqCfgEn).getLsbD 31 = false ∧ (w &&& ~~~rqCfgEn ^^^ w) &&& rqCfgOthers = 0 := by
  constructor
  · simp [rqCfgEn_bit 31 (by decide)]
  · apply BitVec.eq_of_getLsbD_eq
    intro i hi
    simp only [BitVec.getLsbD_and, BitVec.getLsbD_xor, BitVec.getLsbD_not, rqCfgEn_bit i hi, hi, decide_true, Bool.true_and]
    cases ho : rqCfgOthers.getLsbD i with
    | false => simp
    | true => simp [(rqCfgOthers_bit i hi ho).2]

/-- A field under a mask is the word's. -/
theorem fget_masked (w m : W64) (hi lo : Nat) (h : ∀ i ≤ hi, lo ≤ i → m.getLsbD i = true) (hl : lo ≤ hi := by decide) :
    fget (w &&& m) hi lo = fget w hi lo :=
  fget_congr (fun i h1 h2 => by rw [BitVec.getLsbD_and, h i h1 h2, Bool.and_true]) hl

/-! ## Writes of RQ_CFG (R65, R66) -/

/-- The queue with the other fields written and EN cleared, which a DISABLED queue takes first. -/
def State.rqConfigured (s : State) (q : Nat) (w : W64) : State := s.setReg .RQ_CFG q (w &&& rqCfgOthers)

theorem rqCfgWrite_disabled {s : State} {q : Nat} (w : W64) (h : (s.rq q).st = .disabled) : s.rqCfgWrite q w =
    if w.getLsbD 31 then (s.rqConfigured q w).rqEnable q else (s.rqConfigured q w).rqDisable q := by
  simp only [State.rqCfgWrite, h, beq_self_eq_true, if_true]; rfl

theorem rqCfgWrite_same {s : State} {q : Nat} {w : W64} (h : (s.rq q).st ≠ .disabled)
    (hd : (w ^^^ s.reg .RQ_CFG q) &&& rqCfgOthers = 0) : s.rqCfgWrite q w =
    if w.getLsbD 31 then s.rqEnable q else s.rqDisable q := by
  have hd' : (w ^^^ s.reg .RQ_CFG q) &&& 0x1F3F3F0F = 0 := hd
  simp only [State.rqCfgWrite, beq_eq_false_iff_ne.mpr h, hd', beq_self_eq_true, if_true, Bool.false_eq_true, if_false]

theorem rqCfgWrite_other {s : State} {q : Nat} {w : W64} (h : (s.rq q).st ≠ .disabled)
    (hd : (w ^^^ s.reg .RQ_CFG q) &&& rqCfgOthers ≠ 0) : s.rqCfgWrite q w =
    if w.getLsbD 31 then (s.seq (pg .qeng)).rqEnable q else (s.seq (pg .qeng)).rqDisable q := by
  have hd' : ((w ^^^ s.reg .RQ_CFG q) &&& 0x1F3F3F0F == 0) = false := beq_eq_false_iff_ne.mpr hd
  simp only [State.rqCfgWrite, beq_eq_false_iff_ne.mpr h, hd', Bool.false_eq_true, if_false]

theorem exec_rqEnable {s : State} {q : Nat} (v : W32) {req : Req} (hq : q < 256) (h : s.OpenReg .RQ_CFG q req) :
    exec (.rqEnable q v req) s = .next (s.rqCfgWrite q (s.rqCfgOn q v)).answeredOk := by
  show Host.Outcome.next (s.regWrite _ _ _ _ _) = _
  rw [regWrite_open _ hq h, writeReg_rqCfg]; rfl

theorem exec_rqDisable {s : State} {q : Nat} {req : Req} (hq : q < 256) (h : s.OpenReg .RQ_CFG q req) :
    exec (.rqDisable q req) s = .next (s.rqCfgWrite q (s.reg .RQ_CFG q &&& ~~~rqCfgEn)).answeredOk := by
  show Host.Outcome.next (s.regWrite _ _ _ _ _) = _
  rw [regWrite_open _ hq h, writeReg_rqCfg, rqCfg_withoutEn]

/-! ## EN = 1 (R65) -/

/-- The fields that a DISABLED queue takes from the written word. -/
theorem rqConfigured_fld (s : State) (q : Nat) (v : W32) (f : Fld) (hr : f.reg = .RQ_CFG := by rfl) (hl : f.lo ≤ f.hi := by decide)
    (h : ∀ i ≤ f.hi, f.lo ≤ i → rqCfgOthers.getLsbD i = true := by decide) :
    (s.rqConfigured q (s.rqCfgOn q v)).fld f q = fget (v.setWidth 64) f.hi f.lo := by
  rw [State.fld, hr, State.rqConfigured, reg_setReg_same, rqCfgOn_others, fget_masked _ _ _ _ h hl]

theorem rqConfigured_other (s : State) (q n : Nat) (w : W64) (f : Fld) (h : f.reg ≠ .RQ_CFG := by decide) :
    (s.rqConfigured q w).fld f n = s.fld f n := fld_of_reg (reg_setReg_ne _ _ (Or.inl h))

/-- What a queue becomes that is enabled, before its first read. -/
def State.enabledRq (s : State) (q : Nat) (x : Rq) : Rq :=
  { x with
    st := if (s.cq (s.fld RQ_CFG.CQ q)).full then .held else .active, interval := s.minInt q, emptyMax := 0, tornRuns := []
    fetchFenced := false, more := false, ahead := [], acc := [], credit := 0 }

/-- A queue that is enabled, before its first read. -/
def State.rqEnabled (s : State) (q : Nat) : State :=
  (s.putFlag RQ_CFG.EN q true).setRq q ((s.putFlag RQ_CFG.EN q true).enabledRq q (s.rq q))

theorem rqEnable_bound {s : State} {q : Nat} (h : (s.rq q).st = .disabled) (hb : s.rqBindOk q = true) :
    s.rqEnable q = (s.rqEnabled q).rqRead q := by
  simp only [State.rqEnable, h, hb, if_true, State.rqEnabled, State.enabledRq]

theorem rqEnable_unbound {s : State} {q : Nat} (h : (s.rq q).st = .disabled) (hb : s.rqBindOk q = false) :
    s.rqEnable q = (s.putFlag RQ_CFG.EN q false).seq (pg .qeng) := by
  simp only [State.rqEnable, h, hb, Bool.false_eq_true, if_false]

theorem rqEnable_stopped {s : State} {q : Nat} (h : (s.rq q).st = .draining ∨ (s.rq q).st = .fenced) :
    s.rqEnable q = s.seq (pg .qeng) := by
  rcases h with h | h <;> simp only [State.rqEnable, h]

theorem rqEnable_running {s : State} {q : Nat} (h : (s.rq q).st.accepts = true) : s.rqEnable q = s := by
  cases hs : (s.rq q).st with
  | active | dozing | held => simp only [State.rqEnable, hs]
  | disabled | draining | fenced => rw [hs] at h; cases h

theorem rqBindOk_iff (s : State) (q : Nat) : s.rqBindOk q = true ↔ (s.cq (s.fld RQ_CFG.CQ q)).st = .on ∧
    s.fld CQ_CFG.FUNC (s.fld RQ_CFG.CQ q) = s.fld RQ_CFG.FUNC q ∧
    bitAt (s.fld FLT_FUNC.MAP (s.fld RQ_CFG.FUNC q / 32)) (s.fld RQ_CFG.FUNC q % 32) = false := by
  simp [State.rqBindOk, and_assoc]

theorem fetchGroup_pos (s : State) : 0 < s.fetchGroup := by
  unfold State.fetchGroup; split <;> decide

theorem prefDepth_pos (s : State) (q : Nat) : 0 < s.prefDepth q := by
  unfold State.prefDepth; omega

/-- Something is to be read where the cache has room and the ring has not ended. -/
theorem readSize_pos {s : State} {q : Nat} (hp : s.prefetched q < s.prefDepth q)
    (hi : s.fld RQ_HEAD.INDEX q < 2 ^ s.rqLog q) : s.readSize q ≠ 0 := by
  have := fetchGroup_pos s
  unfold State.readSize; omega

/-- Setting EN leaves what an enabled queue is made from. -/
theorem rqEnabled_rq (s : State) (q : Nat) : (s.rqEnabled q).rq q = s.enabledRq q (s.rq q) := by
  have h1 : (s.putFlag RQ_CFG.EN q true).fld RQ_CFG.CQ q = s.fld RQ_CFG.CQ q := fld_put_apart _ _ _ _
  have h2 : (s.putFlag RQ_CFG.EN q true).fld RQ_POLL.MIN_INT q = s.fld RQ_POLL.MIN_INT q := fld_put_reg _ _ _ _ (by decide)
  have h3 : (s.putFlag RQ_CFG.EN q true).cq (s.fld RQ_CFG.CQ q) = s.cq (s.fld RQ_CFG.CQ q) := by
    unfold State.cq; rw [State.putFlag_crown]
  rw [State.rqEnabled, rq_setRq_same]
  simp only [State.enabledRq, State.minInt, h1, h2, h3]

theorem rqEnabled_regs (s : State) (q : Nat) : (s.rqEnabled q).regs = (s.putFlag RQ_CFG.EN q true).regs :=
  State.setRq_regs _ _ _

theorem rqEnabled_regsBut (s : State) (q : Nat) : RegsBut [.RQ_CFG] s (s.rqEnabled q) :=
  (RegsBut.of_putFlag s RQ_CFG.EN q true).same (rqEnabled_regs s q)

theorem rqEnabled_keeps (s : State) (q : Nat) : s.Within (only [.regs, .config, .qeng]) (s.rqEnabled q) :=
  setRq_within (Part.All.of_all rfl) _ _ (putFlag_within (Part.All.of_all rfl) (fun _ => rfl) (Within.refl s))

/-- What an enabled queue is: in HELD or ACTIVE at its shortest interval, with nothing accepted. -/
theorem rqEnable_rq {s : State} {q : Nat} (h : (s.rq q).st = .disabled) (hb : s.rqBindOk q = true) :
    (s.rqEnable q).rq q = { s.enabledRq q (s.rq q) with fetching := (s.rq q).fetching || (s.rqEnabled q).rqReads q } := by
  rw [rqEnable_bound h hb, rqRead_rq, rqEnabled_rq]; rfl

/-- EN reads 1, the other fields as they stood. -/
theorem rqEnable_cfg {s : State} {q : Nat} (h : (s.rq q).st = .disabled) (hb : s.rqBindOk q = true) :
    (s.rqEnable q).flag RQ_CFG.EN q = true ∧ ∀ f : Fld, f.reg = .RQ_CFG → f.ok = true → Fld.apart RQ_CFG.EN f = true →
      (s.rqEnable q).fld f q = s.fld f q := by
  rw [rqEnable_bound h hb]
  have hr := rqRead_regsBut (s.rqEnabled q) q
  have hg := rqEnabled_regs s q
  refine ⟨?_, fun f he ho ha => ?_⟩
  · rw [hr.flag RQ_CFG.EN q, flag_congr _ _ hg]; exact flag_putFlag_same _ _ _ _
  · rw [hr.fld f q (by rw [he]; decide), fld_congr _ _ hg]
    exact fld_put_apart _ _ _ _ rfl ho ha

theorem rqEnable_fld {s : State} {q : Nat} (h : (s.rq q).st = .disabled) (hb : s.rqBindOk q = true) (f : Fld) (n : Nat)
    (hf : f.reg ∉ .RQ_CFG :: countRegs := by decide) : (s.rqEnable q).fld f n = s.fld f n := by
  rw [rqEnable_bound h hb]
  exact (((rqEnabled_regsBut s q).mono).trans ((rqRead_regsBut _ q).mono)).fld f n hf

/-- Nothing of a queue that has accepted nothing is in the prefetch cache where nothing is on its way to dispatch. -/
theorem prefetched_none {s : State} {q : Nat} (ha : (s.rq q).acc = []) (h1 : s.qeng.issuing = []) (h2 : s.qeng.issued = [])
    (h3 : s.qeng.chains = []) : s.prefetched q = 0 := by
  simp [State.prefetched, ha, h1, h2, h3]

/-- The first read of an enabled queue starts where the engine is free for it. -/
theorem rqEnable_fetching {s : State} {q : Nat} (h : (s.rq q).st = .disabled) (hb : s.rqBindOk q = true)
    (hon : s.isOn (pg .qeng) = true) (hs : s.qStopped = false) (h1 : s.qeng.issuing = []) (h2 : s.qeng.issued = [])
    (h3 : s.qeng.chains = []) (hi : s.fld RQ_HEAD.INDEX q < 2 ^ (s.rqEnable q).rqLog q) :
    ((s.rqEnable q).rq q).fetching = true := by
  rw [rqEnable_rq h hb]
  cases hf : (s.rq q).fetching with
  | true => rfl
  | false =>
    have hq := rqEnabled_rq s q
    have hx : (s.rqEnabled q).fld RQ_HEAD.INDEX q = s.fld RQ_HEAD.INDEX q := (rqEnabled_regsBut s q).fld _ _
    have hl : (s.rqEnable q).rqLog q = (s.rqEnabled q).rqLog q := by
      rw [rqEnable_bound h hb]
      unfold State.rqLog
      rw [(rqRead_regsBut (s.rqEnabled q) q).fld RQ_CFG.SIZE_LOG2 q]
    have hp : (s.rqEnabled q).prefetched q = 0 := prefetched_none (by rw [hq]; rfl)
      (by rw [State.rqEnabled, setRq_issuing, State.putFlag_qeng, h1])
      (by rw [State.rqEnabled, setRq_issued, State.putFlag_qeng, h2])
      (by rw [State.rqEnabled, setRq_chains, State.putFlag_qeng, h3])
    have hw := rqEnabled_keeps s q
    refine (rqReads_iff _ q).mpr ⟨(hw.isOn rfl _).trans hon, (hw.qStopped rfl rfl rfl rfl).trans hs, ?_,
      by rw [hq]; exact hf, readSize_pos ?_ ?_⟩
    · rw [hq]
      show RqState.accepts (if _ then _ else _) = true
      split <;> rfl
    · rw [hp]; exact prefDepth_pos _ _
    · rw [hx, ← hl]; exact hi

/-! ## EN = 0 (R65) -/

/-- A queue that drains, before its end is seen. -/
def State.rqDraining (s : State) (q : Nat) : State :=
  (s.putFlag RQ_CFG.EN q false).setRq q { s.rq q with st := .draining, ahead := [], more := false }

theorem rqDisable_running {s : State} {q : Nat} (h : (s.rq q).st.accepts = true) :
    s.rqDisable q = (s.rqDraining q).rqDrainEnd q := by
  cases hs : (s.rq q).st with
  | active | dozing | held => simp only [State.rqDisable, hs, State.rqDraining]
  | disabled | draining | fenced => rw [hs] at h; cases h

/-- A queue of which nothing is left to come: it drains, and has nothing accepted, being issued or in flight. -/
def State.rqDrained (s : State) (q : Nat) : Bool :=
  (s.rq q).st == .draining && (s.rq q).acc.isEmpty && (s.rq q).inflight == 0 && !s.issuingOf q

theorem rqDrainEnd_drained {s : State} {q : Nat} (h : s.rqDrained q = true) : s.rqDrainEnd q =
    (s.dropXfers (fun k => k.descOf q)).setRq q { s.rq q with st := .disabled, credit := 0, fetching := false } := by
  rw [State.rqDrainEnd]; exact if_pos h

theorem rqDrainEnd_goesOn {s : State} {q : Nat} (h : s.rqDrained q = false) : s.rqDrainEnd q = s := by
  rw [State.rqDrainEnd]; exact if_neg (Bool.eq_false_iff.mp h)

theorem rqDrainEnd_regs (s : State) (q : Nat) : (s.rqDrainEnd q).regs = s.regs :=
  (rqDrainEnd_within (F := only [.qeng, .fab]) (Part.all_only _) q (Within.refl s)).regs rfl

/-- What a queue that runs becomes. -/
theorem rqDisable_leaves {s : State} {q : Nat} (h : (s.rq q).st.accepts = true) :
    ((s.rqDisable q).rq q).acc = (s.rq q).acc ∧ ((s.rqDisable q).rq q).ahead = [] ∧
      ((s.rqDisable q).rq q).st = (if (s.rq q).acc = [] ∧ (s.rq q).inflight = 0 ∧ s.issuingOf q = false then RqState.disabled
        else RqState.draining) ∧
      (((s.rqDisable q).rq q).st = .draining → (s.rqDisable q).fab = s.fab ∧
        ((s.rqDisable q).rq q).fetching = (s.rq q).fetching) := by
  have hq : (s.rqDraining q).rq q = { s.rq q with st := .draining, ahead := [], more := false } := rq_setRq_same _ _ _
  have hd : (s.rqDraining q).rqDrained q =
      decide ((s.rq q).acc = [] ∧ (s.rq q).inflight = 0 ∧ s.issuingOf q = false) := by
    have hi : (s.rqDraining q).issuingOf q = s.issuingOf q := by
      rw [State.issuingOf, State.rqDraining, setRq_issuing, State.putFlag_qeng]; rfl
    rw [Bool.eq_iff_iff]
    simp [State.rqDrained, hi, hq, and_assoc]
  rw [rqDisable_running h]
  by_cases hc : (s.rq q).acc = [] ∧ (s.rq q).inflight = 0 ∧ s.issuingOf q = false
  · rw [rqDrainEnd_drained (hd.trans (decide_eq_true hc)), if_pos hc, rq_setRq_same, hq]
    exact ⟨rfl, rfl, rfl, fun h => nomatch h⟩
  · rw [rqDrainEnd_goesOn (hd.trans (decide_eq_false hc)), if_neg hc, hq]
    exact ⟨rfl, rfl, rfl, fun _ => ⟨by rw [State.rqDraining, State.setRq_fab, State.putFlag_fab], rfl⟩⟩

theorem rqDisable_fenced {s : State} {q : Nat} (h : (s.rq q).st = .fenced) : s.rqDisable q =
    (((s.putFlag RQ_CFG.EN q false).putFlag RQ_ERR.FENCED q false).untag ((s.rq q).acc.map (fun a => a.tag))).setRq q
      { s.rq q with st := .disabled, acc := [], fetchFenced := false, credit := 0, cbufWait := false, missHold := false } := by
  simp only [State.rqDisable, h]

theorem rqDisable_stopped {s : State} {q : Nat} (h : (s.rq q).st = .draining ∨ (s.rq q).st = .disabled) :
    s.rqDisable q = s.putFlag RQ_CFG.EN q false := by
  rcases h with h | h <;> simp only [State.rqDisable, h]

/-! ## What the writes leave (R65–R67) -/

theorem rqConfigured_rq (s : State) (q r : Nat) (w : W64) : (s.rqConfigured q w).rq r = s.rq r :=
  rq_congr (State.setReg_qeng _ _ _ _) r

theorem rqConfigured_qeng (s : State) (q : Nat) (w : W64) : (s.rqConfigured q w).qeng = s.qeng := State.setReg_qeng _ _ _ _

theorem rqConfigured_hdrs (s : State) (q : Nat) (w : W64) : (s.rqConfigured q w).hdrs = s.hdrs := State.setReg_hdrs _ _ _ _

theorem rqConfigured_cq (s : State) (q c : Nat) (w : W64) : (s.rqConfigured q w).cq c = s.cq c := by
  unfold State.cq; rw [State.rqConfigured, State.setReg_crown]

theorem rqConfigured_keeps (s : State) (q : Nat) (w : W64) : s.Within (only [.regs, .config]) (s.rqConfigured q w) :=
  setReg_within (Part.All.of_all rfl) (fun _ => rfl) (Within.refl s)

section Enable

variable {s : State} {q f c : Nat} {v : W32} (hf : f = fget (v.setWidth 64) 21 16) (hc : c = fget (v.setWidth 64) 13 8)

include hf in
theorem rqConfigured_func : (s.rqConfigured q (s.rqCfgOn q v)).fld RQ_CFG.FUNC q = f :=
  (rqConfigured_fld s q v RQ_CFG.FUNC).trans hf.symm

include hc in
theorem rqConfigured_bound : (s.rqConfigured q (s.rqCfgOn q v)).fld RQ_CFG.CQ q = c :=
  (rqConfigured_fld s q v RQ_CFG.CQ).trans hc.symm

include hf hc in
/-- The binding that is checked is that of the written word. -/
theorem rqConfigured_bindOk : (s.rqConfigured q (s.rqCfgOn q v)).rqBindOk q = true ↔
    (s.cq c).st = .on ∧ s.fld CQ_CFG.FUNC c = f ∧ bitAt (s.fld FLT_FUNC.MAP (f / 32)) (f % 32) = false := by
  rw [rqBindOk_iff, rqConfigured_func hf, rqConfigured_bound hc, rqConfigured_cq,
    rqConfigured_other _ _ _ _ CQ_CFG.FUNC, rqConfigured_other _ _ _ _ FLT_FUNC.MAP]

end Enable

/-- A field of RQ_CFG beside EN, once EN is set, is that of the written word. -/
theorem rqCfgWrite_enabled {s : State} {q : Nat} (v : W32) (h : (s.rq q).st = .disabled) :
    s.rqCfgWrite q (s.rqCfgOn q v) = (s.rqConfigured q (s.rqCfgOn q v)).rqEnable q := by
  rw [rqCfgWrite_disabled _ h, if_pos (rqCfgOn_en s q v)]

/-- A write with EN = 0 of what the register holds clears EN, whether or not the queue takes the other fields. -/
theorem rqCfgWrite_clears {s : State} {q : Nat} (h : (s.rq q).st ≠ .disabled) :
    s.rqCfgWrite q (s.reg .RQ_CFG q &&& ~~~rqCfgEn) = s.rqDisable q := by
  obtain ⟨hen, hsame⟩ := rqCfg_cleared (s.reg .RQ_CFG q)
  rw [rqCfgWrite_same h hsame, hen]; rfl

theorem accepts_ne {x : RqState} (h : x.accepts = true) : x ≠ .disabled := by rintro rfl; cases h

/-- The fields of RQ_CFG beside EN and all other registers stand as they were, once EN is cleared and the queue drains. -/
theorem rqDisable_running_regs {s : State} {q : Nat} (h : (s.rq q).st.accepts = true) :
    (s.rqDisable q).regs = (s.putFlag RQ_CFG.EN q false).regs := by
  rw [rqDisable_running h, rqDrainEnd_regs, State.rqDraining, State.setRq_regs]

theorem rqDisable_fenced_regs {s : State} {q : Nat} (h : (s.rq q).st = .fenced) :
    (s.rqDisable q).regs = ((s.putFlag RQ_CFG.EN q false).putFlag RQ_ERR.FENCED q false).regs := by
  rw [rqDisable_fenced h, State.setRq_regs]; rfl

@[simp] theorem answeredOk_rq (s : State) (q : Nat) : s.answeredOk.rq q = s.rq q := rfl

@[simp] theorem answeredOk_qeng (s : State) : s.answeredOk.qeng = s.qeng := rfl

@[simp] theorem answeredOk_hdrs (s : State) : s.answeredOk.hdrs = s.hdrs := rfl

@[simp] theorem answeredOk_flag (s : State) (f : Fld) (n : Nat) : s.answeredOk.flag f n = s.flag f n := rfl

theorem seq_qeng (s : State) (p : PageRef) : (s.seq p).qeng = s.qeng := (raiseFault_keeps s p 5).qeng rfl

/-- EN = 1 on a queue that drains or is FENCED sets SEQ alone, be it on top of that of another field that differs. -/
theorem rqCfgWrite_stopped {s : State} {q : Nat} (v : W32) (h : (s.rq q).st = .draining ∨ (s.rq q).st = .fenced) :
    ((s.rqCfgWrite q (s.rqCfgOn q v)).hdr (pg .qeng)).fault.getLsbD 5 = true ∧
      (s.rqCfgWrite q (s.rqCfgOn q v)).qeng = s.qeng ∧ (s.rqCfgWrite q (s.rqCfgOn q v)).regs = s.regs := by
  have hne : (s.rq q).st ≠ .disabled := by rcases h with h | h <;> rw [h] <;> decide
  by_cases hd : (s.rqCfgOn q v ^^^ s.reg .RQ_CFG q) &&& rqCfgOthers = 0
  · rw [rqCfgWrite_same hne hd, if_pos (rqCfgOn_en s q v), rqEnable_stopped h]
    exact ⟨seq_bit _ _, seq_qeng _ _, seq_regs _ _⟩
  · rw [rqCfgWrite_other hne hd, if_pos (rqCfgOn_en s q v), rqEnable_stopped (by rwa [rq_congr (seq_qeng s _)])]
    exact ⟨seq_bit _ _, (seq_qeng _ _).trans (seq_qeng _ _), (seq_regs _ _).trans (seq_regs _ _)⟩

/-- QENG_CTL.PAUSE takes the written bit. -/
theorem pause_written (s : State) (b : Bool) :
    (s.store .QENG_CTL 0 ((QENG_CTL.PAUSE.word (b2n b)).setWidth 64) 0xFFFFFFFF).flag QENG_CTL.PAUSE 0 = b := by
  have hrw : (Reg.QENG_CTL.bitsOf (fun a => a == .rw || a == .rwx)).getLsbD 0 = true := by decide
  have hv : ((QENG_CTL.PAUSE.word (b2n b)).setWidth 64).getLsbD 0 = b := by cases b <;> decide
  have h := store_reg_getLsbD s .QENG_CTL 0 ((QENG_CTL.PAUSE.word (b2n b)).setWidth 64) 0xFFFFFFFF (Or.inl (by decide)) 0
  rw [lowWord_getLsbD, hrw, hv] at h
  exact (fget_bit _ 0).trans (h.trans (if_pos rfl))

/-- Settles O24: EN = 1 and EN = 0 in each state of the queue, and PAUSE. -/
theorem queuesAreEnabledAndDrained : Obligations.QueuesAreEnabledAndDrained := by
  refine ⟨?_, ?_, ?_, ?_, ?_, ?_, ?_, ?_⟩
  · intro s q v req f c hq ho hst hf hc hon hfunc hfn
    have hb := (rqConfigured_bindOk (s := s) (q := q) hf hc).mpr ⟨hon, hfunc, hfn⟩
    have hx := exec_rqEnable v hq ho
    have hst' := (congrArg Rq.st (rqConfigured_rq s q q (s.rqCfgOn q v))).trans hst
    have hcq := rqConfigured_bound (s := s) (q := q) hc
    have hw := rqConfigured_keeps s q (s.rqCfgOn q v)
    have hi := rqConfigured_other s q q (s.rqCfgOn q v) RQ_HEAD.INDEX
    rw [rqCfgWrite_enabled v hst] at hx
    obtain ⟨hen, hcfg⟩ := rqEnable_cfg hst' hb
    have hrq := rqEnable_rq hst' hb
    refine ⟨_, hx, ?_, ?_, ?_, hen, ?_, ?_, ?_, ?_, ?_, ?_, ?_⟩
    · rw [answeredOk_rq, hrq]
      show (if _ then _ else _) = _
      rw [hcq, rqConfigured_cq]
    · rw [answeredOk_rq, hrq]
      exact congrArg (max 1) (rqConfigured_other s q q (s.rqCfgOn q v) RQ_POLL.MIN_INT)
    · rw [answeredOk_rq, hrq]; rfl
    · exact (hcfg RQ_CFG.FUNC rfl rfl rfl).trans (rqConfigured_func hf)
    · exact (hcfg RQ_CFG.CQ rfl rfl rfl).trans hcq
    · exact (hcfg RQ_CFG.SIZE_LOG2 rfl rfl rfl).trans (rqConfigured_fld s q v RQ_CFG.SIZE_LOG2)
    · exact (hcfg RQ_CFG.QUAD_MASK rfl rfl rfl).trans (rqConfigured_fld s q v RQ_CFG.QUAD_MASK)
    · exact (rqEnable_fld hst' hb RQ_HEAD.INDEX q).trans hi
    · exact (rqEnable_fld hst' hb RQ_HEAD.LAP q).trans (rqConfigured_other _ _ _ _ _)
    · intro h1 h2 h3 h4 h5 h6
      have hqe := hw.qeng rfl
      exact rqEnable_fetching hst' hb ((hw.isOn rfl _).trans h1) ((hw.qStopped rfl rfl rfl rfl).trans h2) (hqe ▸ h3)
        (hqe ▸ h4) (hqe ▸ h5) (hi ▸ h6)
  · intro s q v req f c hq ho hst hf hc hbad
    have hb : (s.rqConfigured q (s.rqCfgOn q v)).rqBindOk q = false := by
      refine Bool.eq_false_iff.mpr (fun h => ?_)
      obtain ⟨h1, h2, h3⟩ := (rqConfigured_bindOk hf hc).mp h
      rcases hbad with e | e | e
      · exact e h1
      · exact e h2
      · rw [e] at h3; cases h3
    have hx := exec_rqEnable v hq ho
    rw [rqCfgWrite_enabled v hst,
      rqEnable_unbound ((congrArg Rq.st (rqConfigured_rq s q q (s.rqCfgOn q v))).trans hst) hb] at hx
    have hr := seq_regs ((s.rqConfigured q (s.rqCfgOn q v)).putFlag RQ_CFG.EN q false) (pg .qeng)
    refine ⟨_, hx, seq_bit _ _, (seq_qeng _ _).trans (State.putFlag_qeng _ _ _ _), ?_, ?_, ?_⟩
    · exact (flag_congr _ _ hr).trans (flag_putFlag_same _ _ _ _)
    · exact (fld_congr _ _ hr).trans ((fld_put_apart _ _ _ _).trans (rqConfigured_func hf))
    · exact (fld_congr _ _ hr).trans ((fld_put_apart _ _ _ _).trans (rqConfigured_bound hc))
  · intro s q v req hq ho hst
    have hx := exec_rqEnable v hq ho
    obtain ⟨h1, h2, h3⟩ := rqCfgWrite_stopped v hst
    exact ⟨_, hx, h1, h2, h3⟩
  · intro s q v req hq ho hst
    have hne := accepts_ne hst
    have hx := exec_rqEnable v hq ho
    refine ⟨fun hd => ?_, fun hd => ?_⟩
    · rw [hx, rqCfgWrite_same hne ((rqCfgOn_differs s q v).trans hd), if_pos (rqCfgOn_en s q v), rqEnable_running hst]
    · rw [rqCfgWrite_other hne (by rw [rqCfgOn_differs]; exact hd), if_pos (rqCfgOn_en s q v),
        rqEnable_running (by rw [rq_congr (seq_qeng s _)]; exact hst)] at hx
      exact ⟨_, hx, seq_bit _ _, seq_qeng _ _, seq_regs _ _⟩
  · intro s q req hq ho hst
    have hx := exec_rqDisable hq ho
    rw [rqCfgWrite_clears (accepts_ne hst)] at hx
    have hr := rqDisable_running_regs hst
    obtain ⟨hacc, hahead, hnext, hdrain⟩ := rqDisable_leaves hst
    refine ⟨_, hx, ?_, hacc, hahead, hnext, hdrain, ?_, ?_, ?_, ?_⟩
    · exact (flag_congr _ _ hr).trans (flag_putFlag_same _ _ _ _)
    · exact (fld_congr _ _ hr).trans (fld_put_apart _ _ _ _)
    · exact (fld_congr _ _ hr).trans (fld_put_apart _ _ _ _)
    · exact (fld_congr _ _ hr).trans (fld_put_reg _ _ _ _ (by decide))
    · exact (fld_congr _ _ hr).trans (fld_put_reg _ _ _ _ (by decide))
  · intro s q req hq ho hst
    have hx := exec_rqDisable hq ho
    rw [rqCfgWrite_clears (by rw [hst]; decide)] at hx
    have hr := rqDisable_fenced_regs hst
    have hq' : (s.rqDisable q).rq q = _ := (congrArg (fun u => State.rq u q) (rqDisable_fenced hst)).trans (rq_setRq_same _ _ _)
    refine ⟨_, hx, ?_, ?_, ?_, ?_, ?_⟩
    · exact (flag_congr _ _ hr).trans ((flag_of_reg (reg_putFlag_ne _ _ (Or.inl (by decide)))).trans (flag_putFlag_same _ _ _ _))
    · rw [answeredOk_rq, hq']
    · rw [answeredOk_rq, hq']
    · exact (flag_congr _ _ hr).trans (flag_putFlag_same _ _ _ _)
    · exact (fld_congr _ _ hr).trans ((fld_put_reg _ _ _ _ (by decide)).trans (fld_put_reg _ _ _ _ (by decide)))
  · intro s q req hq ho hst
    have hx := exec_rqDisable hq ho
    rcases hst with hst | hst
    · rw [rqCfgWrite_clears (by rw [hst]; decide), rqDisable_stopped (Or.inl hst)] at hx
      refine ⟨_, hx, ?_, ?_, ?_⟩
      · rw [answeredOk_flag]; exact flag_putFlag_same _ _ _ _
      · rw [answeredOk_qeng, State.putFlag_qeng]
      · rw [answeredOk_hdrs, State.putFlag_hdrs]
    · rw [rqCfgWrite_disabled _ hst, (rqCfg_cleared _).1, if_neg Bool.false_ne_true,
        rqDisable_stopped (Or.inr (by rw [rqConfigured_rq]; exact hst))] at hx
      refine ⟨_, hx, ?_, ?_, ?_⟩
      · rw [answeredOk_flag]; exact flag_putFlag_same _ _ _ _
      · rw [answeredOk_qeng, State.putFlag_qeng, rqConfigured_qeng]
      · rw [answeredOk_hdrs, State.putFlag_hdrs, rqConfigured_hdrs]
  · intro s b req ho
    have hx : exec (.qengPause b req) s = .next
        (s.store .QENG_CTL 0 ((QENG_CTL.PAUSE.word (b2n b)).setWidth 64) 0xFFFFFFFF).answeredOk := by
      show Host.Outcome.next (s.cpReg _ _ _ _) = _
      rw [cpReg_open s _ 0 _ req ho, writeReg_plain _ _ _ _ _ rfl]
    refine ⟨_, hx, pause_written s b, ?_, ?_, fun r n hr => store_reg_ne s _ _ (Or.inl hr)⟩
    · rw [answeredOk_qeng, State.store, State.setReg_qeng]
    · rw [answeredOk_hdrs, State.store, State.setReg_hdrs]

end Sys2Proof.Machine
end

section
/-! PROOFS. DISPATCH, MARKER and CHAIN_NEXT_DISPATCH (R59, R62, R63, R173): an issued element goes where its opcode sends it. -/

namespace Sys2Proof.Machine

/-! ## A read for a queue leaves what is issued -/

/-- Of the queue engine a read changes the queues alone. -/
theorem rqRead_qeng (s : State) (q : Nat) : (s.rqRead q).qeng = { s.qeng with rqs := (s.rqRead q).qeng.rqs } := by
  rw [rqRead_eq]
  split
  · rw [(groupRead_keeps _ _ _).qeng rfl]; rfl
  · rfl

theorem refill_qeng (s : State) (q : Nat) : (s.refill q).qeng = { s.qeng with rqs := (s.refill q).qeng.rqs } := by
  unfold State.refill
  split
  · exact rqRead_qeng s q
  · rfl

theorem refill_keeps (s : State) (q : Nat) : s.Within (only [.regs, .hdrs, .irq, .qeng, .fab]) (s.refill q) :=
  refill_within (Part.all_only _) q (Within.refl s)

theorem refill_chains (s : State) (q : Nat) : (s.refill q).qeng.chains = s.qeng.chains := by rw [refill_qeng]

/-! ## The parts of a dispatch -/

theorem unissue_keeps (s : State) (n : Nat) : s.Within (only [.regs, .hdrs, .irq, .qeng, .fab]) (s.unissue n) :=
  unissue_within (Part.all_only _) n (Within.refl s)

theorem takeCbuf_issued (s : State) (e : Elem) : (s.takeCbuf e).qeng.issued = s.qeng.issued := by
  unfold State.takeCbuf
  split
  · rfl
  · split
    · rfl
    · split <;> rfl

/-- What an element other than a frame or a MARKER leaves before it goes to its engine. -/
def State.sentOff (s : State) (n : Nat) (e : Elem) : State := (s.unissue n).takeCbuf e

theorem sentOff_keeps (s : State) (n : Nat) (e : Elem) : s.Within (only [.regs, .hdrs, .irq, .qeng, .fab]) (s.sentOff n e) :=
  takeCbuf_within (Part.All.of_all rfl) e (unissue_keeps s n)

theorem sentOff_issued (s : State) (n : Nat) (e : Elem) : (s.sentOff n e).qeng.issued = s.qeng.issued.eraseIdx n :=
  (takeCbuf_issued _ e).trans (unissue_issued s n)

/-- The lookup at dispatch is made for the context commands alone. -/
theorem lookupDispatched_other {s : State} {e : Elem} (h : e.d.opcode < 0x40 ∨ 0x43 < e.d.opcode) :
    s.lookupDispatched e = s := by
  have h0 : e.d.opcode ≠ 0x40 := by omega
  have h1 : e.d.opcode ≠ 0x41 := by omega
  have h23 : e.d.opcode ≠ 0x42 ∧ e.d.opcode ≠ 0x43 := by omega
  simp only [State.lookupDispatched, h0, h1, if_false, if_pos h23, beq_iff_eq, or_self, Bool.and_eq_true, and_false,
    Bool.or_eq_true]
  split
  · rfl
  · split
    · rfl
    · rfl

section Dispatch

variable {s t : State} {n : Nat} {e : Elem} (hw : s.working = true) (hd : s.dispatching = true) (he : s.issuedAt n = some e)
include hw hd he

theorem exec_marker (ho : e.d.opcode = 0x60) : exec (.marker n) s = .next ((s.dispatched n).pushStatus 25 e stOk) := by
  show Host.Outcome.next (s.whileWorking _) = _
  rw [State.whileWorking, if_pos hw, State.marker, he]
  simp [hd, ho, State.dispatched]

/-- An element that no command of the context store is goes to its engine, and the tile enters RUN. -/
theorem exec_dispatch (hf : e.d.isFrame = false) (ho : e.d.opcode ≠ 0x60) (hc : e.d.opcode < 0x40 ∨ 0x43 < e.d.opcode)
    (hr : (s.sentOff n e).route e = (true, t)) : exec (.dispatch n) s = .next t.enterRun := by
  show Host.Outcome.next (s.whileWorking _) = _
  rw [State.whileWorking, if_pos hw, State.dispatch, he]
  simp only [State.sentOff] at hr
  simp [hd, hf, ho, hr, lookupDispatched_other hc]

omit hw in
/-- An element whose engine does not take it waits. -/
theorem exec_dispatch_waits (hf : e.d.isFrame = false) (ho : e.d.opcode ≠ 0x60)
    (hr : (s.sentOff n e).route e = (false, t)) : exec (.dispatch n) s = .next s := by
  have h : s.dispatch n = s := by
    rw [State.dispatch, he]
    simp only [State.sentOff] at hr
    simp [hd, hf, ho, hr]
  show Host.Outcome.next (s.whileWorking _) = _
  rw [State.whileWorking, h, ite_self]

end Dispatch

/-- An engine's part of a dispatch leaves the tile and the queue engine, so the element has left those issued and the tile is in
RUN. -/
theorem dispatch_leaves {s t : State} {n : Nat} {e : Elem} (hd : s.dispatching = true)
    (h : (s.sentOff n e).Within (only [.regs, .hdrs, .irq, .crown, .rng]) t) :
    t.enterRun.qeng.issued = s.qeng.issued.eraseIdx n ∧ t.enterRun.tile.st = .run ∧ t.enterRun.crown = t.crown ∧
      t.enterRun.rng = t.rng := by
  have hst : t.tile.st = .ready ∨ t.tile.st = .run := by
    rw [h.tile_eq rfl rfl, (sentOff_keeps s n e).tile_eq rfl rfl]; exact tile_of_dispatching hd
  have hr := enterRun_within_tile (F := only [.tile]) rfl hst
  exact ⟨by rw [hr.qeng rfl, h.qeng rfl, sentOff_issued], enterRun_st hst, hr.crown rfl, hr.rng rfl⟩

/-! ## RANDOM (R63) -/

/-- The random number source takes an element as its last job. -/
def State.rngTakes (s : State) (e : Elem) : State :=
  { s with nextJob := s.nextJob + 1, rng := { s.rng with jobs := s.rng.jobs ++ [{ id := s.nextJob, elem := e }] } }

/-- RANDOM as dispatched: the request is counted and taken. -/
def State.randomTaken (s : State) (e : Elem) : State := ((s.perfCount 124 1).fnCount e.func 25 1).rngTakes e

theorem rngTakes_within {F : Part → Bool} {s t : State} (hF : F .rng = true) (e : Elem) (h : s.Within F t) :
    s.Within F (t.rngTakes e) :=
  { h with rng := no_change hF, job := h.job.trans (Nat.le_succ _) }

theorem rngTakes_jobs (s : State) (e : Elem) : ∃ j, (s.rngTakes e).rng.jobs = s.rng.jobs ++ [j] ∧ j.elem = e :=
  ⟨{ id := s.nextJob, elem := e }, rfl, rfl⟩

theorem randomCounted_within {F : Part → Bool} (hF : Part.All F [.regs, .hdrs, .irq]) (s : State) (e : Elem) :
    s.Within F ((s.perfCount 124 1).fnCount e.func 25 1) :=
  fnCount_within (hF.mono rfl) _ _ _ (perfCount_within hF _ _ (Within.refl s))

theorem randomTaken_within (s : State) (e : Elem) :
    s.Within (only [.regs, .hdrs, .irq, .crown, .rng]) (s.randomTaken e) :=
  rngTakes_within rfl e (randomCounted_within (Part.All.of_all rfl) s e)

theorem randomTaken_jobs (s : State) (e : Elem) : ∃ j, (s.randomTaken e).rng.jobs = s.rng.jobs ++ [j] ∧ j.elem = e := by
  obtain ⟨j, hj, he⟩ := rngTakes_jobs ((s.perfCount 124 1).fnCount e.func 25 1) e
  exact ⟨j, by rw [State.randomTaken, hj, (randomCounted_within (Part.all_only _) s e).rng rfl], he⟩

theorem route_random {s : State} {e : Elem} (ho : e.d.opcode = 0x50) (hs : s.stalling 23 = false) :
    s.route e = (true, s.randomTaken (e.stamp 2 s.now)) := by
  simp [State.route, ho, hs, isBignumOp, State.randomTaken, State.rngTakes, State.newJob]

/-! ## Digest elements (R173) -/

theorem route_digest {s : State} {e : Elem} (ho : e.d.opcode = 0x20 ∨ e.d.opcode = 0x21 ∨ e.d.opcode = 0x22) :
    s.route e = s.toEngine (pg .digest) 26 (e.stamp 2 s.now) (fun u => u.digestTake (e.stamp 2 s.now)) := by
  rw [State.route, if_pos ho]

theorem route_digest_fenced {s : State} {e : Elem} (ho : e.d.opcode = 0x20 ∨ e.d.opcode = 0x21 ∨ e.d.opcode = 0x22)
    (hb : s.blk (pg .digest) = .fenced) :
    s.route e = (true, s.push 25 (s.engineFenced (pg .digest) (e.stamp 2 s.now))) := by
  rw [route_digest ho, State.toEngine, hb]

theorem route_digest_waits {s : State} {e : Elem} (ho : e.d.opcode = 0x20 ∨ e.d.opcode = 0x21 ∨ e.d.opcode = 0x22)
    (hb : s.blk (pg .digest) = .off ∨ s.blk (pg .digest) = .comingUp ∨ s.blk (pg .digest) = .goingDown) :
    s.route e = (false, s) := by
  rw [route_digest ho, State.toEngine]
  rcases hb with h | h | h <;> rw [h]

/-- A digest opcode is not a frame's, MARKER's or a context command's. -/
theorem digest_opcode {e : Elem} (ho : e.d.opcode = 0x20 ∨ e.d.opcode = 0x21 ∨ e.d.opcode = 0x22) :
    e.d.isFrame = false ∧ e.d.opcode ≠ 0x60 ∧ e.d.opcode < 0x40 := by
  refine ⟨?_, by omega, by omega⟩
  rw [Desc.isFrame, decide_eq_false_iff_not]
  omega

/-! ## Chains (R59) -/

/-- A changed chain is found as changed. -/
theorem chain?_updChain {s : State} {i : Nat} {ch : Chain} {f : Chain → Chain} (hf : ∀ c, (f c).id = c.id)
    (h : s.chain? i = some ch) : (s.updChain i f).chain? i = some (f ch) := by
  have hid : (ch.id == i) = true := List.find?_some (p := fun c : Chain => c.id == i) h
  have hp : ((fun c : Chain => c.id == i) ∘ fun c => if c.id == i then f c else c) = fun c => c.id == i := by
    funext c
    show ((if c.id == i then f c else c).id == i) = (c.id == i)
    split
    · rw [hf]
    · rfl
  show (List.map _ _).find? _ = _
  rw [List.find?_map, hp]
  exact (congrArg (Option.map _) h).trans (congrArg some (if_pos hid))

theorem chain?_congr {s t : State} (h : t.qeng.chains = s.qeng.chains) (i : Nat) : t.chain? i = s.chain? i := by
  unfold State.chain?; rw [h]

/-- The chain goes on to its next element. -/
def State.chainGoes (s : State) (i : Nat) (rest : List Elem) : State :=
  s.updChain i (fun c => { c with rest := rest, ready := false })

theorem chain?_chainGoes {s : State} {i : Nat} {ch : Chain} (rest : List Elem) (h : s.chain? i = some ch) :
    (s.chainGoes i rest).chain? i = some { ch with rest := rest, ready := false } :=
  chain?_updChain (f := fun c => { c with rest := rest, ready := false }) (fun _ => rfl) h

/-- A MARKER completes in READY or RUN once its chain has gone on. -/
theorem completes_in_run {s u : State} {e : Elem} (hd : s.dispatching = true)
    (hu : s.Within (only [.regs, .hdrs, .irq, .qeng, .fab]) u) :
    s.Completes (u.enterRun.pushStatus 25 e stOk) 25 e stOk 0 ∧ (u.enterRun.pushStatus 25 e stOk).qeng = u.qeng ∧
      (u.enterRun.pushStatus 25 e stOk).tile.st = .run := by
  have hst : u.tile.st = .ready ∨ u.tile.st = .run := by
    rw [hu.tile_eq rfl rfl]; exact tile_of_dispatching hd
  have hr := enterRun_within_tile (F := only [.tile]) rfl hst
  have hp := pushStatus_within (F := only [.hdrs, .irq, .crown]) (Part.all_only _) 25 e stOk (Within.refl u.enterRun)
  exact ⟨(push_completes _ _ _).of_crown ((hr.crown rfl).trans (hu.crown rfl)), (hp.qeng rfl).trans (hr.qeng rfl),
    by rw [hp.tile_eq rfl rfl]; exact enterRun_st hst⟩

section ChainNext

variable {s : State} {i : Nat} {ch : Chain} {e : Elem} {rest : List Elem} (hw : s.working = true) (hd : s.dispatching = true)
  (hc : s.chain? i = some ch) (hr : ch.rest = e :: rest) (hy : ch.ready = true)
include hw hd hc hr hy

theorem exec_chainNext_frame (hf : e.d.isFrame = true) : exec (.chainNextDispatch i) s =
    .next { s.chainGoes i rest with
      qeng := { (s.chainGoes i rest).qeng with issued := (s.chainGoes i rest).qeng.issued ++ [e] } } := by
  show Host.Outcome.next (s.whileWorking _) = _
  rw [State.whileWorking, if_pos hw, State.chainNext, hc]
  simp [hr, hy, hd, hf, State.chainGoes]

theorem exec_chainNext_marker (ho : e.d.opcode = 0x60) : exec (.chainNextDispatch i) s =
    .next (((s.chainGoes i rest).refill e.rq).enterRun.pushStatus 25 e stOk) := by
  have hf : e.d.isFrame = false := by simp [Desc.isFrame, ho]
  show Host.Outcome.next (s.whileWorking _) = _
  rw [State.whileWorking, if_pos hw, State.chainNext, hc]
  simp [hr, hy, hd, hf, ho, State.chainGoes]

end ChainNext

/-- A chain whose last dispatched element has not completed waits. -/
theorem chainNext_waits {s : State} {i : Nat} {ch : Chain} (hc : s.chain? i = some ch) (hy : ch.ready = false) :
    s.chainNext i = s := by
  rw [State.chainNext, hc]
  show (match ch.rest with | [] => s | e :: rest => _) = s
  split
  · rfl
  · rw [if_pos (by simp [hy])]

/-- Settles O23: where each issued element goes, by its opcode. -/
theorem dispatchFollowsTheOpcode : Obligations.DispatchFollowsTheOpcode := by
  refine ⟨?_, ?_, ?_, ?_, ?_, ?_⟩
  · intro s n e hw hd he ho
    obtain ⟨h, hi, -, ht⟩ := dispatched_ends (n := n) (p := 25) (st := stOk) (e := e) hd (Within.refl s)
    exact ⟨_, exec_marker hw hd he ho, h, hi, ht⟩
  · intro s n e hw hd he ho hs
    have ha := sentOff_keeps s n e
    have hs' : (s.sentOff n e).stalling 23 = false := by rw [State.stalling, ha.crown rfl]; exact hs
    have hr := route_random ho hs'
    obtain ⟨hi, ht, -, hg⟩ := dispatch_leaves hd (randomTaken_within _ _)
    obtain ⟨j, hj, hje⟩ := randomTaken_jobs (s.sentOff n e) (e.stamp 2 (s.sentOff n e).now)
    refine ⟨_, j, exec_dispatch hw hd he (by simp [Desc.isFrame, ho]) (by omega) (by omega) hr, ?_, ?_, ?_, ?_, ?_, hi, ht⟩
    · rw [hg, hj, ha.rng rfl]
    all_goals simp [hje]
  · intro s n e hw hd he ho
    obtain ⟨hf, hm, hc⟩ := digest_opcode ho
    have ha := sentOff_keeps s n e
    have hb := ha.blk_eq rfl (pg .digest)
    refine ⟨fun h => ?_, fun h => ?_⟩
    · have hr := route_digest_fenced ho (hb.trans h)
      obtain ⟨hi, ht, hcr, -⟩ := dispatch_leaves hd ((push_within (F := only [.regs, .hdrs, .irq, .crown, .rng])
        (Part.All.of_all rfl) 25 ((s.sentOff n e).engineFenced (pg .digest) (e.stamp 2 (s.sentOff n e).now)) (Within.refl _)))
      exact ⟨_, exec_dispatch hw hd he hf hm (Or.inl hc) hr,
        (((push_completes _ _ _).of_crown (ha.crown rfl)).then_crown hcr).of_stamp, hi, ht⟩
    · exact exec_dispatch_waits hd he hf hm (route_digest_waits ho (by rwa [hb]))
  · intro s i ch e rest hw hd hc hr hy hf
    exact exec_chainNext_frame hw hd hc hr hy hf
  · intro s i ch e rest hw hd hc hr hy ho
    have hk : s.Within (only [.regs, .hdrs, .irq, .qeng, .fab]) ((s.chainGoes i rest).refill e.rq) :=
      refill_within (Part.all_only _) _ { Within.refl s with qeng := no_change rfl }
    obtain ⟨hp, hq, ht⟩ := completes_in_run (e := e) hd hk
    exact ⟨_, exec_chainNext_marker hw hd hc hr hy ho,
      (chain?_congr (by rw [hq, refill_chains]) i).trans (chain?_chainGoes rest hc), hp, ht⟩
  · intro s i ch hc hy
    show Host.Outcome.next (s.whileWorking _) = _
    rw [State.whileWorking, chainNext_waits hc hy, ite_self]

end Sys2Proof.Machine
end

section
/-! PROOFS. DESC_FETCH_DONE and DESC_FETCH_FAIL (R46, R51, R54, R55, R64, R65): what returns from a read is accepted in ring order,
and a failed read fences its queue. -/

namespace Sys2Proof.Machine

/-! ## Steps of the queue engine -/

/-- From s to t the records of queues and the registers of a list change, with what the fabric and the counters hold. -/
structure QueueStep (l : List Reg) (s t : State) : Prop where
  regs : RegsBut l s t
  parts : s.Within (only [.regs, .hdrs, .irq, .qeng, .fab, .perf]) t
  qeng : t.qeng = { s.qeng with rqs := t.qeng.rqs }

namespace QueueStep

variable {l : List Reg} {s t u : State}

theorem refl (l : List Reg) (s : State) : QueueStep l s s := ⟨.refl l s, Within.refl s, rfl⟩

theorem trans (h : QueueStep l s t) (k : QueueStep l t u) : QueueStep l s u :=
  ⟨h.regs.trans k.regs, Within.trans h.parts k.parts, by rw [k.qeng, h.qeng]⟩

theorem of_qeng (hr : RegsBut l s t) (hw : s.Within (only [.regs, .hdrs, .irq, .qeng, .fab, .perf]) t) (hq : t.qeng = s.qeng) :
    QueueStep l s t := ⟨hr, hw, by rw [hq]⟩

theorem updRq (l : List Reg) (s : State) (q : Nat) (f : Rq → Rq) : QueueStep l s (s.updRq q f) :=
  ⟨.of_regs rfl, { Within.refl s with qeng := no_change rfl }, rfl⟩

theorem setRq (l : List Reg) (s : State) (q : Nat) (x : Rq) : QueueStep l s (s.setRq q x) := updRq l s q (fun _ => x)

theorem isOn (h : QueueStep l s t) (p : PageRef) : t.isOn p = s.isOn p := h.parts.isOn rfl p

theorem qStopped (h : QueueStep l s t) : t.qStopped = s.qStopped := h.parts.qStopped rfl rfl rfl rfl

/-- The cache holds more or less by what is accepted. -/
theorem prefetched (h : QueueStep l s t) (q : Nat) :
    t.prefetched q + (s.rq q).acc.length = s.prefetched q + (t.rq q).acc.length := by
  unfold State.prefetched
  rw [h.qeng]
  dsimp only
  omega

end QueueStep

theorem counted_step (s : State) (a k f b j : Nat) : QueueStep countRegs s ((s.perfCount a k).fnCount f b j) :=
  have hw : s.Within (only [.regs, .hdrs, .irq]) ((s.perfCount a k).fnCount f b j) :=
    fnCount_within (Part.All.of_all rfl) _ _ _ (perfCount_within (Part.all_only _) _ _ (Within.refl s))
  .of_qeng ((perfCount_regsBut s a k).trans (fnCount_regsBut _ f b j))
    (fnCount_within (Part.All.of_all rfl) _ _ _ (perfCount_within (Part.All.of_all rfl) _ _ (Within.refl s))) (hw.qeng rfl)

theorem counted_rq (s : State) (a k f b j q : Nat) : ((s.perfCount a k).fnCount f b j).rq q = s.rq q :=
  have hw : s.Within (only [.regs, .hdrs, .irq]) ((s.perfCount a k).fnCount f b j) :=
    fnCount_within (Part.All.of_all rfl) _ _ _ (perfCount_within (Part.all_only _) _ _ (Within.refl s))
  rq_congr (hw.qeng rfl) q

/-! ## One descriptor read (R51) -/

/-- An entry that is not torn: its run of torn reads ends, and it waits in the cache where it is owned. -/
theorem readEntry_rq {s : State} {q i : Nat} {d : Desc} (ht : d.tornFor (s.fld RQ_HEAD.LAP q) = false)
    (hr : (s.rq q).tornRuns = []) :
    (s.readEntry q i d).rq q = { s.rq q with ahead := (s.rq q).ahead.filter (fun a => a.1 != i) ++
      (if d.ownedFor (s.fld RQ_HEAD.LAP q) then [(i, d)] else []) } := by
  unfold State.readEntry
  simp only [ht]
  split <;> simp [counted_rq, hr, Tbl.upd, Tbl.set, Tbl.del]

theorem readEntry_step {s : State} {q i : Nat} {d : Desc} (ht : d.tornFor (s.fld RQ_HEAD.LAP q) = false) :
    QueueStep countRegs s (s.readEntry q i d) := by
  unfold State.readEntry
  simp only [ht, Bool.false_eq_true, if_false]
  split
  · exact ((counted_step s _ _ _ _ _).trans (.updRq _ _ q _)).trans (.updRq _ _ q _)
  · exact (((counted_step s _ _ _ _ _).trans (.updRq _ _ q _)).trans (.updRq _ _ q _)).trans (counted_step _ _ _ _ _ _)

/-- A group of one descriptor. -/
theorem groupDescs_one (i : Nat) {b : Bytes} (h : b.length = 64) : groupDescs i b = [(i, Desc.ofBytes b)] := by
  have hs : slice b 0 64 = b := by simp [slice, h, List.take_of_length_le]
  simp [groupDescs, h, hs]

/-! ## What has been read is taken (R51, R55, R65) -/

/-- A group of n entries that waits in the cache is taken. -/
def State.groupTaken (s : State) (q n : Nat) : State :=
  if (s.acceptFrom q 16).1 = 0 then ((s.acceptFrom q 16).2.emptyPoll q).updRq q (fun x => { x with more := false })
  else ((((s.acceptFrom q 16).2.setRq q ((s.acceptFrom q 16).2.kicked q)).updRq q
    (fun x => { x with more := decide (n ≤ (s.acceptFrom q 16).1) })).refill q)

theorem groupTaken_eq (s : State) (q n : Nat) :
    (match s.acceptFrom q 16 with
    | (k, s) =>
      if k = 0 then (s.emptyPoll q).updRq q (fun x => { x with more := false })
      else
        ((s.updRq q (fun x => { x with
          interval := s.minInt q, emptyMax := 0
          st := if x.st == .dozing then (if (s.cq (s.fld RQ_CFG.CQ q)).full then .held else .active) else x.st })).updRq q
            (fun x => { x with more := decide (n ≤ k) })).refill q) = s.groupTaken q n := by
  simp only [State.groupTaken, State.updRq, State.kicked, beq_iff_eq]

/-- A group of one descriptor that is not torn. -/
theorem descReturned_one {s : State} {q i : Nat} {b : Bytes} (hl : b.length = 64) (hs : s.qStopped = false)
    (hst : (s.rq q).st.accepts = true ∨ (s.rq q).st = .draining)
    (ht : (((s.updRq q (fun x => { x with fetching := false })).readEntry q i (Desc.ofBytes b)).rq q).tornRuns = []) :
    s.descReturned q i b false =
      if (s.rq q).st == .draining then
        ((s.updRq q (fun x => { x with fetching := false })).readEntry q i (Desc.ofBytes b)).updRq q (fun x => { x with ahead := [] })
      else ((s.updRq q (fun x => { x with fetching := false })).readEntry q i (Desc.ofBytes b)).groupTaken q 1 := by
  have hst' : ((s.rq q).st.accepts || (s.rq q).st == .draining) = true := by simpa using hst
  have hs' : (s.updRq q (fun x => { x with fetching := false })).qStopped = false := hs
  unfold State.descReturned
  simp only [groupDescs_one i hl, List.foldl_cons, List.foldl_nil, rq_updRq_same, hst', hs', ht, Bool.false_eq_true, if_false,
    List.any_nil, Bool.and_false, Bool.not_true, Bool.or_self, List.length_singleton]
  rw [← groupTaken_eq]

/-! ## Acceptance in ring order (R46, R51) -/

theorem tagAccept_regsBut (s : State) (d : Desc) (f : Nat) : RegsBut countRegs s (s.tagAccept d f).2 := by
  unfold State.tagAccept
  split
  · exact .refl _ s
  · extract_lets
    split
    · split
      · exact RegsBut.trans (.of_regs rfl) (perfCount_regsBut _ _ _)
      · dsimp only
        refine RegsBut.trans ?_ (fnCount_regsBut _ _ _ _)
        refine RegsBut.trans ?_ (perfCount_regsBut _ _ _)
        exact .of_regs rfl
    · exact .of_regs rfl

theorem tagAccept_step (s : State) (d : Desc) (f : Nat) : QueueStep countRegs s (s.tagAccept d f).2 :=
  .of_qeng (tagAccept_regsBut s d f) (tagAccept_within (Part.All.of_all rfl) d f (Within.refl s))
    ((tagAccept_within (F := only [.regs, .hdrs, .irq, .perf]) (Part.all_only _) d f (Within.refl s)).qeng rfl)

/-- The registers that acceptance changes: the counts, and the head of the queue. -/
def headRegs : List Reg := .RQ_HEAD :: countRegs

/-- A step that counts is one that may move RQ_HEAD too. -/
theorem QueueStep.withHead {s t : State} (h : QueueStep countRegs s t) : QueueStep headRegs s t :=
  ⟨h.regs.mono (fun _ hr => List.mem_cons_of_mem _ hr), h.parts, h.qeng⟩

/-- RQ_HEAD moves on from index i, past the end of the ring to index 0 and the next lap. -/
def State.headMoves (s : State) (q i lap : Nat) : State :=
  if 2 ^ s.rqLog q ≤ i + 1 then (s.put RQ_HEAD.INDEX q 0).put RQ_HEAD.LAP q ((lap + 1) % 65536)
  else s.put RQ_HEAD.INDEX q (i + 1)

/-- The descriptor at RQ_HEAD is accepted. -/
def State.acceptHead (s : State) (q : Nat) (d : Desc) : State :=
  (((((s.tagAccept d (s.fld RQ_CFG.FUNC q)).2.setRq q { s.rq q with
    acc := (s.rq q).acc ++ [{ idx := s.fld RQ_HEAD.INDEX q, lap := s.fld RQ_HEAD.LAP q, d := d,
                              tag := (s.tagAccept d (s.fld RQ_CFG.FUNC q)).1 }]
    ahead := (s.rq q).ahead.filter (fun b => b.1 != s.fld RQ_HEAD.INDEX q) }).headMoves q
      (s.fld RQ_HEAD.INDEX q) (s.fld RQ_HEAD.LAP q)).perfCount 57 1).fnCount (s.fld RQ_CFG.FUNC q) 0 1)

theorem headMoves_eq (s : State) (q i lap : Nat) :
    (if decide (2 ^ s.rqLog q ≤ i + 1) then
      (s.put RQ_HEAD.INDEX q (if decide (2 ^ s.rqLog q ≤ i + 1) then 0 else i + 1)).put RQ_HEAD.LAP q ((lap + 1) % 65536)
    else s.put RQ_HEAD.INDEX q (if decide (2 ^ s.rqLog q ≤ i + 1) then 0 else i + 1)) = s.headMoves q i lap := by
  unfold State.headMoves
  by_cases h : 2 ^ s.rqLog q ≤ i + 1 <;> simp [h]

theorem acceptFrom_step {s : State} {q k i : Nat} {d : Desc}
    (h : (s.rq q).ahead.find? (fun a => a.1 == s.fld RQ_HEAD.INDEX q) = some (i, d)) :
    s.acceptFrom q (k + 1) = (((s.acceptHead q d).acceptFrom q k).1 + 1, ((s.acceptHead q d).acceptFrom q k).2) := by
  rw [State.acceptFrom]
  simp only [h]
  rw [headMoves_eq]
  rfl

theorem acceptFrom_none {s : State} {q k : Nat}
    (h : (s.rq q).ahead.find? (fun a => a.1 == s.fld RQ_HEAD.INDEX q) = none) : s.acceptFrom q k = (0, s) := by
  cases k with
  | zero => rfl
  | succ k => rw [State.acceptFrom]; simp only [h]

theorem headMoves_step (s : State) (q i lap : Nat) : QueueStep headRegs s (s.headMoves q i lap) := by
  unfold State.headMoves
  have hp (u : State) (f : Fld) (x : Nat) (hf : f.reg = .RQ_HEAD) : QueueStep headRegs u (u.put f q x) :=
    .of_qeng (.of_put u f q x (by rw [hf]; decide))
      (put_within (Part.All.of_all rfl) (fun h => by rw [hf] at h; cases h) (Within.refl u)) (State.put_qeng u f q x)
  split
  · exact (hp _ _ _ rfl).trans (hp _ _ _ rfl)
  · exact hp _ _ _ rfl

theorem headMoves_rq (s : State) (q i lap r : Nat) : (s.headMoves q i lap).rq r = s.rq r := by
  unfold State.headMoves
  split
  · exact rq_congr ((State.put_qeng _ _ _ _).trans (State.put_qeng _ _ _ _)) r
  · exact rq_congr (State.put_qeng _ _ _ _) r

theorem headMoves_index {s : State} {q i : Nat} (lap : Nat) (h : i < 2 ^ s.rqLog q) :
    (s.headMoves q i lap).fld RQ_HEAD.INDEX q = if i + 1 = 2 ^ s.rqLog q then 0 else i + 1 := by
  have hs : 2 ^ s.rqLog q ≤ 2 ^ 16 := Nat.pow_le_pow_right (by decide) (Nat.min_le_left _ _)
  unfold State.headMoves
  split
  · rw [if_pos (by omega), fld_put_apart _ _ _ _, fld_put_same _ _ _ _]; rfl
  · rw [if_neg (by omega), fld_put_same _ _ _ _]
    exact Nat.mod_eq_of_lt (by show _ < 2 ^ 16; omega)

theorem headMoves_lap {s : State} {q i : Nat} (h : i < 2 ^ s.rqLog q) :
    (s.headMoves q i (s.fld RQ_HEAD.LAP q)).fld RQ_HEAD.LAP q =
      if i + 1 = 2 ^ s.rqLog q then (s.fld RQ_HEAD.LAP q + 1) % 65536 else s.fld RQ_HEAD.LAP q := by
  unfold State.headMoves
  split
  · rw [if_pos (by omega), fld_put_same _ _ _ _]
    exact Nat.mod_eq_of_lt (Nat.mod_lt _ (by decide))
  · rw [if_neg (by omega), fld_put_apart _ _ _ _]

theorem acceptHead_rq (s : State) (q : Nat) (d : Desc) : ∃ tag, (s.acceptHead q d).rq q = { s.rq q with
    acc := (s.rq q).acc ++ [{ idx := s.fld RQ_HEAD.INDEX q, lap := s.fld RQ_HEAD.LAP q, d := d, tag := tag }]
    ahead := (s.rq q).ahead.filter (fun b => b.1 != s.fld RQ_HEAD.INDEX q) } :=
  ⟨_, by rw [State.acceptHead, counted_rq, headMoves_rq, rq_setRq_same]⟩

theorem acceptHead_step (s : State) (q : Nat) (d : Desc) : QueueStep headRegs s (s.acceptHead q d) :=
  ((((tagAccept_step s d _).trans (.setRq _ _ q _)).withHead).trans (headMoves_step _ q _ _)).trans
    (counted_step _ _ _ _ _ _).withHead

/-- RQ_HEAD after the acceptance of the descriptor there. -/
theorem acceptHead_head {s : State} {q : Nat} (d : Desc) (h : s.fld RQ_HEAD.INDEX q < 2 ^ s.rqLog q) :
    (s.acceptHead q d).fld RQ_HEAD.INDEX q =
        (if s.fld RQ_HEAD.INDEX q + 1 = 2 ^ s.rqLog q then 0 else s.fld RQ_HEAD.INDEX q + 1) ∧
      (s.acceptHead q d).fld RQ_HEAD.LAP q =
        (if s.fld RQ_HEAD.INDEX q + 1 = 2 ^ s.rqLog q then (s.fld RQ_HEAD.LAP q + 1) % 65536 else s.fld RQ_HEAD.LAP q) := by
  unfold State.acceptHead
  generalize hu : (s.tagAccept d (s.fld RQ_CFG.FUNC q)).2.setRq q _ = u
  have hs : QueueStep countRegs s u := hu ▸ (tagAccept_step s d _).trans (.setRq _ _ q _)
  have hi := hs.regs.fld RQ_HEAD.INDEX q
  have hl := hs.regs.fld RQ_HEAD.LAP q
  have hg : u.rqLog q = s.rqLog q := congrArg (fun n => min 16 (max 6 n)) (hs.regs.fld RQ_CFG.SIZE_LOG2 q)
  rw [← hi, ← hg] at h ⊢
  rw [← hl]
  have hc := (counted_step (u.headMoves q (u.fld RQ_HEAD.INDEX q) (u.fld RQ_HEAD.LAP q)) 57 1 (s.fld RQ_CFG.FUNC q) 0 1).regs
  exact ⟨(hc.fld RQ_HEAD.INDEX q).trans (headMoves_index _ h), (hc.fld RQ_HEAD.LAP q).trans (headMoves_lap h)⟩

/-! ## A poll that finds an entry, and one that does not (R55) -/

/-- One entry waits at RQ_HEAD: it is accepted, the queue returns to its shortest interval and reads on. -/
theorem groupTaken_head {s : State} {q : Nat} {d : Desc} (ha : (s.rq q).ahead = [(s.fld RQ_HEAD.INDEX q, d)]) :
    s.groupTaken q 1 =
      (((s.acceptHead q d).setRq q ((s.acceptHead q d).kicked q)).updRq q (fun x => { x with more := true })).rqRead q := by
  obtain ⟨tag, hrq⟩ := acceptHead_rq s q d
  have h1 : s.acceptFrom q 16 = (1, s.acceptHead q d) := by
    rw [acceptFrom_step (i := s.fld RQ_HEAD.INDEX q) (d := d) (by rw [ha]; simp),
      acceptFrom_none (by rw [hrq, ha]; simp)]
  have hm (u : State) : (u.updRq q (fun x => { x with more := true })).refill q =
      (u.updRq q (fun x => { x with more := true })).rqRead q := by
    rw [State.refill, rq_updRq_same, if_pos rfl]
  rw [← hm]
  simp only [State.groupTaken, h1, Nat.one_ne_zero, if_false, Nat.le_refl, decide_true]

/-- Nothing waits: the poll was empty. -/
theorem groupTaken_none {s : State} {q n : Nat} (ha : (s.rq q).ahead = []) :
    s.groupTaken q n = (s.emptyPoll q).updRq q (fun x => { x with more := false }) := by
  rw [State.groupTaken, acceptFrom_none (by rw [ha]; rfl), if_pos rfl]

theorem emptyPoll_doubles {s : State} {q : Nat} (h : max (s.rq q).interval (s.minInt q) < s.maxInt q) :
    s.emptyPoll q = s.setRq q { s.rq q with interval := min (2 * max (s.rq q).interval (s.minInt q)) (s.maxInt q) } := by
  rw [State.emptyPoll, if_pos h]

/-! ## Returned reads -/

/-- The state with the mail taken. -/
def State.mailTaken (s : State) : State := { s with fab := { s.fab with mail := [] } }

theorem mailTaken_step (l : List Reg) (s : State) : QueueStep l s s.mailTaken :=
  ⟨.of_regs rfl, { Within.refl s with fab := no_change rfl }, rfl⟩

/-- The one descriptor that a read has returned, before it is taken. -/
def State.entryRead (s : State) (q i : Nat) (b : Bytes) : State :=
  (s.mailTaken.updRq q (fun x => { x with fetching := false })).readEntry q i (Desc.ofBytes b)

theorem entryRead_step {s : State} {q i : Nat} {b : Bytes} (ht : (Desc.ofBytes b).tornFor (s.fld RQ_HEAD.LAP q) = false) :
    QueueStep countRegs s (s.entryRead q i b) :=
  ((mailTaken_step _ s).trans (.updRq _ _ q _)).trans (readEntry_step ht)

theorem entryRead_rq {s : State} {q i : Nat} {b : Bytes} (ht : (Desc.ofBytes b).tornFor (s.fld RQ_HEAD.LAP q) = false)
    (hr : (s.rq q).tornRuns = []) :
    (s.entryRead q i b).rq q = { s.rq q with
      fetching := false, ahead := (s.rq q).ahead.filter (fun a => a.1 != i) ++
        (if (Desc.ofBytes b).ownedFor (s.fld RQ_HEAD.LAP q) then [(i, Desc.ofBytes b)] else []) } := by
  have hu : (s.mailTaken.updRq q (fun x => { x with fetching := false })).rq q = { s.rq q with fetching := false } :=
    rq_updRq_same _ _ _
  have h := readEntry_rq (s := s.mailTaken.updRq q (fun x => { x with fetching := false })) (i := i) ht
    (by rw [hu]; exact hr)
  rw [hu] at h
  exact h

section Returned

variable {s : State} {q i : Nat} {x : Xfer} (hw : s.working = true) (hq : q < 256) (hm : s.fab.mail = [x])
  (hk : x.kind = .desc q i)
include hw hq hm hk

/-- A group of one descriptor that is not torn has returned. -/
theorem exec_descFetchDone (hf : x.failed = none) (hr : x.retried = false) (hl : x.bytes.length = 64)
    (hs : s.qStopped = false) (hst : (s.rq q).st.accepts = true ∨ (s.rq q).st = .draining)
    (ht : ((s.entryRead q i x.bytes).rq q).tornRuns = []) :
    exec (.descFetchDone q) s = .next
      (if (s.rq q).st == .draining then (s.entryRead q i x.bytes).updRq q (fun x => { x with ahead := [] })
      else (s.entryRead q i x.bytes).groupTaken q 1) := by
  have hd : s.descDone q = s.mailTaken.descReturned q i x.bytes x.retried := by
    simp [State.descDone, hm, hk, hf, State.mailTaken]
  show Host.Outcome.next (s.work q 256 _) = _
  rw [work_eq _ hq hw, hd, hr, descReturned_one (s := s.mailTaken) hl hs hst ht]
  rfl

/-- A read of the queue has failed. -/
theorem exec_descFetchFail {f : FabFail} (hf : x.failed = some f) :
    exec (.descFetchFail q) s = .next (s.mailTaken.descFailed q) := by
  show Host.Outcome.next (s.work q 256 _) = _
  rw [work_eq _ hq hw, State.descFail]
  simp [hm, hk, hf, State.mailTaken]

end Returned

theorem tornFor_owned {d : Desc} {lap : Nat} (h : d.ownedFor lap = true) : d.tornFor lap = false := by
  simp only [Desc.ownedFor, Bool.and_eq_true, beq_iff_eq] at h
  simp [Desc.tornFor, h.2]

theorem own_false {d : Desc} (lap : Nat) (h : d.own = false) : d.tornFor lap = false ∧ d.ownedFor lap = false := by
  simp [Desc.tornFor, Desc.ownedFor, h]

/-- Where nothing else stands in the way, a queue is read when the cache has room. -/
theorem readSize_ne_zero {s : State} {q : Nat} (hi : s.fld RQ_HEAD.INDEX q < 2 ^ s.rqLog q) :
    s.readSize q ≠ 0 ↔ s.prefetched q < s.prefDepth q := by
  refine ⟨fun h => ?_, fun h => readSize_pos h hi⟩
  by_contra hc
  exact h (by simp [State.readSize, Nat.sub_eq_zero_of_le (Nat.le_of_not_lt hc)])

theorem kicked_fetching (s : State) (q : Nat) : (s.kicked q).fetching = (s.rq q).fetching := rfl

theorem kicked_acc (s : State) (q : Nat) : (s.kicked q).acc = (s.rq q).acc := rfl

theorem kicked_interval (s : State) (q : Nat) : (s.kicked q).interval = s.minInt q := rfl

/-- The queue whose head has been accepted, before it reads on. -/
def State.headTaken (s : State) (q : Nat) (d : Desc) : State :=
  ((s.acceptHead q d).setRq q ((s.acceptHead q d).kicked q)).updRq q (fun x => { x with more := true })

theorem headTaken_rq (s : State) (q : Nat) (d : Desc) :
    (s.headTaken q d).rq q = { (s.acceptHead q d).kicked q with more := true } := by
  rw [State.headTaken, rq_updRq_same, rq_setRq_same]

theorem headTaken_step (s : State) (q : Nat) (d : Desc) : QueueStep headRegs s (s.headTaken q d) :=
  ((acceptHead_step s q d).trans (.setRq _ _ q _)).trans (.updRq _ _ q _)

theorem headTaken_head {s : State} {q : Nat} (d : Desc) (h : s.fld RQ_HEAD.INDEX q < 2 ^ s.rqLog q) :
    (s.headTaken q d).fld RQ_HEAD.INDEX q =
        (if s.fld RQ_HEAD.INDEX q + 1 = 2 ^ s.rqLog q then 0 else s.fld RQ_HEAD.INDEX q + 1) ∧
      (s.headTaken q d).fld RQ_HEAD.LAP q =
        (if s.fld RQ_HEAD.INDEX q + 1 = 2 ^ s.rqLog q then (s.fld RQ_HEAD.LAP q + 1) % 65536 else s.fld RQ_HEAD.LAP q) := by
  have hr : (s.headTaken q d).regs = (s.acceptHead q d).regs := by rw [State.headTaken, State.updRq, State.setRq_regs, State.setRq_regs]
  rw [fld_congr _ q hr, fld_congr _ q hr]
  exact acceptHead_head d h

theorem QueueStep.rqLog {s t : State} (h : QueueStep headRegs s t) (q : Nat) : t.rqLog q = s.rqLog q :=
  congrArg (fun n => min 16 (max 6 n)) (h.regs.fld RQ_CFG.SIZE_LOG2 q)

theorem QueueStep.prefDepth {s t : State} (h : QueueStep headRegs s t) (q : Nat) : t.prefDepth q = s.prefDepth q :=
  congrArg (fun n => min 16 (max 8 n)) (h.regs.fld RQ_XPREF.DEPTH q)

theorem QueueStep.minInt {s t : State} (h : QueueStep headRegs s t) (q : Nat) : t.minInt q = s.minInt q :=
  congrArg (max 1) (h.regs.fld RQ_POLL.MIN_INT q)

theorem QueueStep.maxInt {s t : State} (h : QueueStep headRegs s t) (q : Nat) : t.maxInt q = s.maxInt q := by
  unfold State.maxInt
  rw [h.minInt, h.regs.fld RQ_POLL.MAX_INT q]

/-- The queue reads on after its head was taken exactly where the cache has room for one more. -/
theorem headTaken_reads {s : State} {q : Nat} (d : Desc) (ha : (s.rq q).st.accepts = true) (hf : (s.rq q).fetching = false)
    (hs : s.qStopped = false) (hi : s.fld RQ_HEAD.INDEX q < 2 ^ s.rqLog q) :
    (s.headTaken q d).rqReads q = true ↔ s.isOn (pg .qeng) = true ∧ s.prefetched q + 1 < s.prefDepth q := by
  have hk := headTaken_step s q d
  obtain ⟨tag, hrq⟩ := acceptHead_rq s q d
  have hx := headTaken_rq s q d
  have hst : ((s.headTaken q d).rq q).st.accepts = true := by
    rw [hx]; dsimp only; exact kicked_accepts (s := s.acceptHead q d) (q := q) (by rw [hrq]; exact ha)
  have hft : ((s.headTaken q d).rq q).fetching = false := by
    rw [hx]; dsimp only; exact (kicked_fetching (s.acceptHead q d) q).trans (by rw [hrq]; exact hf)
  have hlen : ((s.headTaken q d).rq q).acc.length = (s.rq q).acc.length + 1 := by
    rw [hx]; dsimp only; exact (congrArg List.length (kicked_acc (s.acceptHead q d) q)).trans (by rw [hrq]; simp)
  have hp := hk.prefetched q
  have hi' : (s.headTaken q d).fld RQ_HEAD.INDEX q < 2 ^ (s.headTaken q d).rqLog q := by
    rw [hk.rqLog, (headTaken_head d hi).1]; split <;> omega
  rw [rqReads_iff, readSize_ne_zero hi', hk.prefDepth, hk.isOn, hk.qStopped]
  have hpre : (s.headTaken q d).prefetched q = s.prefetched q + 1 := by omega
  simp [hs, hst, hft, hpre]

theorem accepts_not_draining {x : RqState} (h : x.accepts = true) : ¬(x == .draining) = true := by
  rintro he; rw [eq_of_beq he] at h; cases h

section Owned

variable {s : State} {q i : Nat} {x : Xfer} (hw : s.working = true) (hq : q < 256) (hm : s.fab.mail = [x])
  (hk : x.kind = .desc q i) (hf : x.failed = none) (hr : x.retried = false) (hl : x.bytes.length = 64)
  (ha : (s.rq q).st.accepts = true) (hs : s.qStopped = false) (hah : (s.rq q).ahead = []) (htr : (s.rq q).tornRuns = [])
include hw hq hm hk hf hr hl ha hs hah htr

/-- A descriptor that is owned at RQ_HEAD is taken. -/
theorem exec_descFetchDone_owned (hi : s.fld RQ_HEAD.INDEX q = i)
    (ho : (Desc.ofBytes x.bytes).ownedFor (s.fld RQ_HEAD.LAP q) = true) :
    exec (.descFetchDone q) s = .next (((s.entryRead q i x.bytes).headTaken q (Desc.ofBytes x.bytes)).rqRead q) := by
  have hrq := entryRead_rq (i := i) (tornFor_owned ho) htr
  have hidx := (entryRead_step (i := i) (tornFor_owned ho)).regs.fld RQ_HEAD.INDEX q
  rw [if_pos ho, hah] at hrq
  rw [exec_descFetchDone hw hq hm hk hf hr hl hs (Or.inl ha) (by rw [hrq]; exact htr), if_neg (accepts_not_draining ha),
    groupTaken_head (d := Desc.ofBytes x.bytes) (by rw [hrq, hidx, hi]; rfl)]
  rfl

/-- A descriptor that is not owned is not taken. -/
theorem exec_descFetchDone_empty (ho : (Desc.ofBytes x.bytes).own = false) :
    exec (.descFetchDone q) s =
      .next (((s.entryRead q i x.bytes).emptyPoll q).updRq q (fun x => { x with more := false })) := by
  obtain ⟨ht, hn⟩ := own_false (s.fld RQ_HEAD.LAP q) ho
  have hrq := entryRead_rq (i := i) ht htr
  rw [if_neg (by simp [hn]), hah] at hrq
  rw [exec_descFetchDone hw hq hm hk hf hr hl hs (Or.inl ha) (by rw [hrq]; exact htr), if_neg (accepts_not_draining ha),
    groupTaken_none (by rw [hrq]; rfl)]

end Owned

/-! ## A failed fetch fences its queue (R64) -/

/-- From s to t a queue keeps its state, what it has accepted, and whether a failed fetch fenced it. -/
def SameQueue (q : Nat) (s t : State) : Prop :=
  (t.rq q).st = (s.rq q).st ∧ (t.rq q).acc = (s.rq q).acc ∧ (t.rq q).fetchFenced = (s.rq q).fetchFenced

namespace SameQueue

variable {q : Nat} {s t u : State}

theorem refl (q : Nat) (s : State) : SameQueue q s s := ⟨rfl, rfl, rfl⟩

theorem trans (h : SameQueue q s t) (k : SameQueue q t u) : SameQueue q s u :=
  ⟨k.1.trans h.1, k.2.1.trans h.2.1, k.2.2.trans h.2.2⟩

theorem of_rq (h : t.rq q = s.rq q) : SameQueue q s t := by unfold SameQueue; rw [h]; exact ⟨rfl, rfl, rfl⟩

theorem of_within {F : Part → Bool} (h : s.Within F t) (hF : F .qeng = false) : SameQueue q s t := of_rq (rq_congr (h.qeng hF) q)

theorem updRq (q r : Nat) (s : State) {f : Rq → Rq}
    (hf : ∀ x, (f x).st = x.st ∧ (f x).acc = x.acc ∧ (f x).fetchFenced = x.fetchFenced) : SameQueue q s (s.updRq r f) := by
  by_cases h : q = r
  · subst h; unfold SameQueue; rw [rq_updRq_same]; exact hf _
  · exact of_rq (rq_updRq_ne _ _ h)

theorem foldl {α : Type} {f : State → α → State} (hf : ∀ u x, SameQueue q u (f u x)) (k : List α) (s : State) :
    SameQueue q s (k.foldl f s) :=
  List.foldlRecOn k f (refl q s) (fun u hu x _ => hu.trans (hf u x))

end SameQueue

section FetchFails

variable (q : Nat) (s : State)

theorem rqRead_sameQueue (r : Nat) : SameQueue q s (s.rqRead r) := by
  by_cases h : q = r
  · subst h; unfold SameQueue; rw [rqRead_rq]; exact ⟨rfl, rfl, rfl⟩
  · exact .of_rq (rqRead_rq_ne _ h)

theorem refill_sameQueue (r : Nat) : SameQueue q s (s.refill r) := by
  unfold State.refill
  split
  · exact rqRead_sameQueue q s r
  · exact .refl q s

theorem push_sameQueue (p : Nat) (c : Compl) : SameQueue q s (s.push p c) :=
  .of_within (push_within (F := only [.hdrs, .irq, .crown]) (Part.all_only _) p c (Within.refl s)) rfl

theorem pushAborted_sameQueue (st pos : Nat) (e : Elem) : SameQueue q s (s.pushAborted st pos e) := push_sameQueue q s 25 _

theorem perfCount_sameQueue (e k : Nat) : SameQueue q s (s.perfCount e k) :=
  .of_within (perfCount_within (F := only [.regs, .hdrs, .irq]) (Part.all_only _) e k (Within.refl s)) rfl

theorem fnCount_sameQueue (f e k : Nat) : SameQueue q s (s.fnCount f e k) :=
  .of_within (fnCount_within (F := only [.regs]) (Part.all_only _) f e k (Within.refl s)) rfl

/-- The head of the unit whose issue is under way leaves it, and counts in flight in its queue. -/
def State.issueNext (s : State) (q : Nat) (rest : List (Elem × Option Compl)) : State :=
  ({ s with qeng := { s.qeng with issuing := rest } }).updRq q (fun x => { x with inflight := x.inflight + 1 })

/-- An element joins those issued, or its chain. -/
def State.issueJoins (s : State) (e : Elem) : State :=
  match e.chain with
  | none => { s with qeng := { s.qeng with issued := s.qeng.issued ++ [e] } }
  | some c =>
    if e.pos = 0 then
      let s := (s.perfCount 61 1).fnCount e.func 33 1
      { s with qeng := { s.qeng with
        chains := s.qeng.chains ++ [({ id := c, rest := [] } : Chain)], issued := s.qeng.issued ++ [e] } }
    else { s with qeng := { s.qeng with
      chains := s.qeng.chains.map (fun (x : Chain) => if x.id == c then { x with rest := x.rest ++ [e] } else x) } }

theorem issueOne_none {s : State} (h : s.qeng.issuing = []) : s.issueOne = s := by rw [State.issueOne, h]

theorem issueOne_refused {s : State} {e : Elem} {k : Compl} {rest : List (Elem × Option Compl)}
    (h : s.qeng.issuing = (e, some k) :: rest) : s.issueOne = (s.issueNext e.rq rest).push 25 k := by
  rw [State.issueOne, h]; rfl

theorem issueOne_joins {s : State} {e : Elem} {rest : List (Elem × Option Compl)} (h : s.qeng.issuing = (e, none) :: rest) :
    s.issueOne = ((s.issueNext e.rq rest).fnCount e.func 1 1).issueJoins
      (e.stamp 1 ((s.issueNext e.rq rest).fnCount e.func 1 1).now) := by
  rw [State.issueOne, h]; unfold State.issueJoins State.issueNext; rfl

theorem issueNext_sameQueue (r : Nat) (rest : List (Elem × Option Compl)) : SameQueue q s (s.issueNext r rest) :=
  SameQueue.trans (.of_rq (t := { s with qeng := { s.qeng with issuing := rest } }) rfl)
    (.updRq q r _ (fun _ => ⟨rfl, rfl, rfl⟩))

theorem issueJoins_sameQueue (e : Elem) : SameQueue q s (s.issueJoins e) := by
  unfold State.issueJoins
  split
  · exact .of_rq rfl
  · split
    · exact ((perfCount_sameQueue q s 61 1).trans (fnCount_sameQueue q _ e.func 33 1)).trans (.of_rq rfl)
    · exact .of_rq rfl

/-- The issue of an element counts it in flight. -/
theorem issueOne_sameQueue : SameQueue q s s.issueOne := by
  match h : s.qeng.issuing with
  | [] => rw [issueOne_none h]; exact .refl q s
  | (e, some k) :: rest =>
    rw [issueOne_refused h]
    exact (issueNext_sameQueue q s _ _).trans (push_sameQueue q _ _ _)
  | (e, none) :: rest =>
    rw [issueOne_joins h]
    exact ((issueNext_sameQueue q s _ _).trans (fnCount_sameQueue q _ _ _ _)).trans (issueJoins_sameQueue q _ _)

theorem issueRest_sameQueue : SameQueue q s s.issueRest :=
  .foldl (fun u _ => issueOne_sameQueue q u) _ s

theorem abortChain_sameQueue (ch : Chain) (st pos : Nat) : SameQueue q s (s.abortChain ch st pos) := by
  unfold State.abortChain
  extract_lets u v w
  have hv : SameQueue q s v := by
    unfold v
    split
    · exact .of_rq rfl
    · exact .of_rq rfl
  have hw : SameQueue q s w := hv.trans (.foldl (fun u e => push_sameQueue q u 25 _) _ v)
  split
  · exact hw
  · exact hw.trans (refill_sameQueue q w _)

theorem chainFenced_sameQueue (ch : Chain) (st : Nat) : SameQueue q s (s.chainFenced ch st) := by
  unfold State.chainFenced
  have h := abortChain_sameQueue q s ch st 0
  split
  · exact h
  · exact h.trans (fnCount_sameQueue q _ _ _ _)

theorem unhold_sameQueue (r : Nat) : SameQueue q s (s.unhold r) := .updRq q r s (fun _ => ⟨rfl, rfl, rfl⟩)

/-- The first elements of chains that are issued and not dispatched leave. -/
def State.firstsLeave (s : State) (p : Elem → Bool) : State :=
  { s with qeng := { s.qeng with issued := s.qeng.issued.filter (fun e => !(e.chain.isSome && p e)) } }

theorem fenceChains_eq (p : Elem → Bool) (st : Nat) : s.fenceChains p st =
    (s.issueRest.qeng.chains.filter (fun c => c.rest.any p)).foldl (fun s c => s.chainFenced c st)
      ((s.issueRest.qeng.issued.filter (fun e => e.chain.isSome && p e)).foldl
        (fun s e => (s.unhold e.rq).pushAborted st 0 e) (s.issueRest.firstsLeave p)) := rfl

theorem fenceChains_sameQueue (p : Elem → Bool) (st : Nat) : SameQueue q s (s.fenceChains p st) := by
  have hf (u : State) : SameQueue q u (u.firstsLeave p) := .of_rq rfl
  rw [fenceChains_eq]
  refine SameQueue.trans ?_ (.foldl (fun u c => chainFenced_sameQueue q u c st) _ _)
  have hp (u : State) (e : Elem) : SameQueue q u ((u.unhold e.rq).pushAborted st 0 e) :=
    (unhold_sameQueue q u e.rq).trans (pushAborted_sameQueue q (u.unhold e.rq) st 0 e)
  refine SameQueue.trans ?_ (.foldl hp _ _)
  exact (issueRest_sameQueue q s).trans (hf _)

/-- The queue that a failed fetch fences, before its registers say so. -/
def State.fetchFence : State :=
  (((s.issueRest.dropXfers (fun k => k.descOf q)).updRq q
    (fun x => { x with st := .fenced, fetching := false, more := false, ahead := [], fetchFenced := true })).fenceChains
      (fun e => e.rq == q) stFenced)

theorem fetchFence_rq : ((s.fetchFence q).rq q).st = .fenced ∧ ((s.fetchFence q).rq q).acc = (s.rq q).acc ∧
    ((s.fetchFence q).rq q).fetchFenced = true := by
  have hd : SameQueue q s (s.issueRest.dropXfers (fun k => k.descOf q)) := (issueRest_sameQueue q s).trans
    (.of_within (dropXfers_within (F := only [.fab]) (Part.all_only _) _ (Within.refl _)) rfl)
  unfold State.fetchFence
  generalize s.issueRest.dropXfers (fun k => k.descOf q) = u at hd ⊢
  obtain ⟨h1, h2, h3⟩ := fenceChains_sameQueue q (u.updRq q
    (fun x => { x with st := .fenced, fetching := false, more := false, ahead := [], fetchFenced := true }))
    (fun e => e.rq == q) stFenced
  rw [rq_updRq_same] at h1 h2 h3
  exact ⟨h1, h2.trans hd.2.1, h3⟩

/-- RQ_ERR and the events of the fence. -/
def State.fenceShown : State :=
  let s := ((s.putFlag RQ_ERR.FENCED q true).put RQ_ERR.CAUSE q 1).raiseFault (pg .qeng) 9
  s.countVec (64 + s.fld RQ_CFG.FUNC q) 1

theorem fenceShown_keeps : s.Within (only [.regs, .hdrs, .irq]) (s.fenceShown q) :=
  countVec_within (Part.All.of_all rfl) _ _ (raiseFault_within (Part.All.of_all rfl) _ _
    (put_within (Part.All.of_all rfl) (fun h => by cases h)
      (putFlag_within (Part.All.of_all rfl) (fun h => by cases h) (Within.refl s))))

theorem fenceShown_shows : (s.fenceShown q).flag RQ_ERR.FENCED q = true ∧ (s.fenceShown q).fld RQ_ERR.CAUSE q = 1 ∧
    ((s.fenceShown q).hdr (pg .qeng)).fault.getLsbD 9 = true := by
  have hr : (s.fenceShown q).regs = ((s.putFlag RQ_ERR.FENCED q true).put RQ_ERR.CAUSE q 1).regs :=
    (countVec_regs _ _ _).trans (raiseFault_regs _ _ _)
  refine ⟨?_, ?_, ?_⟩
  · have hp := fld_put_apart (s.putFlag RQ_ERR.FENCED q true) (f := RQ_ERR.CAUSE) (g := RQ_ERR.FENCED) q q 1
    rw [flag_congr _ q hr, State.flag, hp]
    exact flag_putFlag_same _ _ _ _
  · rw [fld_congr _ q hr, fld_put_same _ _ _ _]; rfl
  · unfold State.fenceShown
    rw [countVec_hdr]
    exact raiseFault_bit _ _ _ (by decide)

variable {q s}

/-- A queue that accepts entries or drains is neither DISABLED nor FENCED. -/
theorem live_of {x : RqState} (h : x.accepts = true ∨ x = .draining) : (x == .disabled) = false ∧ (x == .fenced) = false := by
  rcases h with h | rfl
  · cases x with
    | active | dozing | held => exact ⟨rfl, rfl⟩
    | disabled | draining | fenced => cases h
  · exact ⟨rfl, rfl⟩

theorem fenceQueue_fetch (h : (s.rq q).st.accepts = true ∨ (s.rq q).st = .draining) :
    s.fenceQueue q 1 true = (s.fetchFence q).fenceShown q := by
  obtain ⟨hd, hf⟩ := live_of h
  unfold State.fenceQueue
  simp only [hd, hf, Bool.false_and, Bool.or_self, Bool.false_eq_true, if_false, if_true]
  rfl

theorem logFence_regsBut (a b c d : Nat) : RegsBut [.FLT_LOG, .FLT_LOG_IDX] s (s.logFence a b c d) := by
  unfold State.logFence
  extract_lets n v u w
  have hu : RegsBut [.FLT_LOG, .FLT_LOG_IDX] s u := fun r _ e => reg_setReg_ne _ _ (Or.inl (by rintro rfl; exact e (by decide)))
  exact (hu.trans (.of_put u FLT_LOG_IDX.NEXT 0 _)).trans (.of_put w FLT_LOG_IDX.TOTAL 0 _)

/-- The queue as a read of it that failed finds it. -/
def State.fetchEnded (s : State) (q : Nat) : State :=
  (s.mailTaken.updRq q (fun x => { x with fetching := false })).lasting (pg .qeng)

theorem fetchEnded_sameQueue (q : Nat) (s : State) : SameQueue q s (s.fetchEnded q) :=
  have h : SameQueue q s (s.mailTaken.updRq q (fun x => { x with fetching := false })) :=
    SameQueue.trans (.of_rq (t := s.mailTaken) rfl) (.updRq q q _ (fun _ => ⟨rfl, rfl, rfl⟩))
  h.trans (.of_within (lasting_within (F := only [.hdrs, .irq]) (Part.all_only _) _ (Within.refl _)) rfl)

theorem descFailed_fences (h : (s.rq q).st.accepts = true ∨ (s.rq q).st = .draining) :
    s.mailTaken.descFailed q = (((s.fetchEnded q).fetchFence q).fenceShown q).logFence 0 0x12 21 q := by
  have he := (fetchEnded_sameQueue q s).1
  obtain ⟨hd, hf⟩ := live_of h
  have hq : (s.mailTaken.updRq q (fun x => { x with fetching := false })).rq q = { s.rq q with fetching := false } :=
    rq_updRq_same _ _ _
  unfold State.descFailed
  simp only [hq, hd, hf, Bool.or_self, Bool.false_eq_true, if_false]
  rw [← fenceQueue_fetch (by rw [he]; exact h)]
  rfl

end FetchFails

/-- Settles O21: what a returned group of one descriptor leaves, by who owns it and the queue's state, and what a failed read
leaves. -/
theorem fetchedDescriptorsAreAccepted : Obligations.FetchedDescriptorsAreAccepted := by
  refine ⟨?_, ?_, ?_, ?_⟩
  · intro s q i x hw hq hm hk hf hr hl ha hs hi hlt hah htr ho
    have hx := exec_descFetchDone_owned hw hq hm hk hf hr hl ha hs hah htr hi ho
    have he := entryRead_step (i := i) (tornFor_owned ho)
    have hrq := entryRead_rq (i := i) (tornFor_owned ho) htr
    generalize s.entryRead q i x.bytes = e at hx he hrq
    have hidx : e.fld RQ_HEAD.INDEX q = i := (he.regs.fld RQ_HEAD.INDEX q).trans hi
    have hlap := he.regs.fld RQ_HEAD.LAP q
    have he' := he.withHead
    have hlt' : e.fld RQ_HEAD.INDEX q < 2 ^ e.rqLog q := by rwa [hidx, he'.rqLog]
    obtain ⟨tag, hacc⟩ := acceptHead_rq e q (Desc.ofBytes x.bytes)
    have hpre : e.prefetched q = s.prefetched q := by have := he.prefetched q; rw [hrq] at this; simpa using this
    have hreads := headTaken_reads (Desc.ofBytes x.bytes) (by rw [hrq]; exact ha) (by rw [hrq]) (by rw [he.qStopped]; exact hs) hlt'
    obtain ⟨hI, hL⟩ := headTaken_head (Desc.ofBytes x.bytes) hlt'
    have hreg := rqRead_regsBut (e.headTaken q (Desc.ofBytes x.bytes)) q
    have ht := rqRead_rq (e.headTaken q (Desc.ofBytes x.bytes)) q
    rw [headTaken_rq] at ht
    have hfe : ((e.acceptHead q (Desc.ofBytes x.bytes)).kicked q).fetching = false := by
      rw [kicked_fetching, hacc, hrq]
    refine ⟨_, { idx := e.fld RQ_HEAD.INDEX q, lap := e.fld RQ_HEAD.LAP q, d := Desc.ofBytes x.bytes, tag := tag }, hx,
      ?_, hidx, hlap, rfl, ?_, ?_, ?_, ?_, ?_⟩
    · rw [ht]; dsimp only; rw [kicked_acc, hacc, hrq]
    · rw [ht]; dsimp only; rw [kicked_interval, (acceptHead_step e q _).minInt, he'.minInt]
    · rw [ht]
    · rw [ht]; dsimp only; rw [hfe, Bool.false_or, hreads, he.isOn, hpre, he'.prefDepth]
    · rw [hreg.fld RQ_HEAD.INDEX q, hI, hidx, he'.rqLog]
    · rw [hreg.fld RQ_HEAD.LAP q, hL, hidx, hlap, he'.rqLog]
  · intro s q i x hw hq hm hk hf hr hl ha hs hah htr ho hlt
    obtain ⟨ht, hn⟩ := own_false (s.fld RQ_HEAD.LAP q) ho
    have he := entryRead_step (q := q) (i := i) ht
    have hrq := entryRead_rq (i := i) ht htr
    have he' := he.withHead
    have hint : max ((s.entryRead q i x.bytes).rq q).interval ((s.entryRead q i x.bytes).minInt q) <
        (s.entryRead q i x.bytes).maxInt q := by rw [hrq, he'.minInt, he'.maxInt]; exact hlt
    have hx := exec_descFetchDone_empty hw hq hm hk hf hr hl ha hs hah htr ho
    rw [emptyPoll_doubles hint] at hx
    generalize s.entryRead q i x.bytes = e at hx he he' hrq hint
    have hregs (y : Rq) (g : Rq → Rq) : ((e.setRq q y).updRq q g).regs = e.regs := by
      rw [State.updRq, State.setRq_regs, State.setRq_regs]
    refine ⟨_, hx, ?_, ?_, ?_, ?_, ?_⟩
    · rw [rq_updRq_same, rq_setRq_same]; dsimp only; rw [hrq]
    · rw [rq_updRq_same, rq_setRq_same]; dsimp only; rw [hrq]
    · rw [rq_updRq_same, rq_setRq_same]; dsimp only; rw [hrq, he'.minInt, he'.maxInt]
    · rw [fld_congr _ q (hregs _ _)]; exact he.regs.fld RQ_HEAD.INDEX q
    · rw [fld_congr _ q (hregs _ _)]; exact he.regs.fld RQ_HEAD.LAP q
  · intro s q i x f hw hq hm hk hf hst
    have hx := exec_descFetchFail hw hq hm hk hf
    rw [descFailed_fences hst] at hx
    obtain ⟨h1, h2, h3⟩ := fetchFence_rq q (s.fetchEnded q)
    rw [(fetchEnded_sameQueue q s).2.1] at h2
    generalize (s.fetchEnded q).fetchFence q = u at hx h1 h2 h3
    obtain ⟨hfen, hcau, hbit⟩ := fenceShown_shows q u
    have hqe := (fenceShown_keeps q u).qeng rfl
    generalize u.fenceShown q = v at hx hfen hcau hbit hqe
    have hlog := logFence_within (F := only [.regs]) (Part.all_only _) 0 0x12 21 q (Within.refl v)
    have hrq : (v.logFence 0 0x12 21 q).rq q = u.rq q := rq_congr ((hlog.qeng rfl).trans hqe) q
    have hreg := logFence_regsBut (s := v) 0 0x12 21 q
    refine ⟨_, hx, by rw [hrq, h1], by rw [hrq, h3], by rw [hrq, h2], ?_, ?_, ?_⟩
    · rw [hreg.flag RQ_ERR.FENCED q, hfen]
    · rw [hreg.fld RQ_ERR.CAUSE q, hcau]
    · unfold State.hdr State.hdrAt at hbit ⊢; rw [hlog.hdrs rfl]; exact hbit
  · intro s q i x hw hq hm hk hf hr hl hd hs htr ho
    have hrq := entryRead_rq (i := i) (tornFor_owned ho) htr
    have he := entryRead_step (i := i) (tornFor_owned ho)
    have hx := exec_descFetchDone hw hq hm hk hf hr hl hs (Or.inr hd) (by rw [hrq]; exact htr)
    rw [if_pos (beq_iff_eq.mpr hd)] at hx
    refine ⟨_, hx, ?_, ?_, ?_, ?_, ?_, ?_⟩
    · rw [rq_updRq_same]; dsimp only; rw [hrq]; exact hd
    · rw [rq_updRq_same]; dsimp only; rw [hrq]
    · rw [rq_updRq_same]
    · rw [rq_updRq_same]; dsimp only; rw [hrq]
    · exact he.regs.fld RQ_HEAD.INDEX q
    · exact he.regs.fld RQ_HEAD.LAP q

end Sys2Proof.Machine
end

section
/-! PROOFS. SCHED_ISSUE (R50, R57, R58, R60, R67, R151): the head of a ready queue is issued with its credit and its completion
slot, and a unit under way is issued on. -/

namespace Sys2Proof.Machine

/-! ## Queues without accepted entries -/

/-- No queue has an accepted entry. -/
def NoneReady (s : State) : Prop := ∀ p ∈ s.qeng.rqs, p.2.acc = []

/-- An accepted entry is one of queue q. -/
def OnlyReady (q : Nat) (s : State) : Prop := ∀ p ∈ s.qeng.rqs, p.2.acc ≠ [] → p.1 = q

theorem readyRqs_none {s : State} (h : NoneReady s) : s.readyRqs = [] := by
  rw [State.readyRqs, List.map_eq_nil_iff, List.filter_eq_nil_iff]
  intro p hp
  simp [h p hp]

theorem noneReady_of {s : State} (h : s.readyRqs = []) : NoneReady s := by
  rw [State.readyRqs, List.map_eq_nil_iff, List.filter_eq_nil_iff] at h
  intro p hp
  simpa using h p hp

theorem onlyReady_of {s : State} {q : Nat} (h : s.readyRqs = [q]) : OnlyReady q s := by
  intro p hp ha
  have hm : p.1 ∈ s.readyRqs := List.mem_map_of_mem (List.mem_filter.mpr ⟨hp, by simpa using ha⟩)
  rw [h] at hm
  exact List.mem_singleton.mp hm

theorem NoneReady.only {s : State} (h : NoneReady s) (q : Nat) : OnlyReady q s := fun p hp ha => absurd (h p hp) ha

/-- A queue that reads as it is listed, or as a queue that is not. -/
theorem Tbl.get_mem {α : Type} (d : α) (t : Tbl α) (k : Nat) : Tbl.get d t k = d ∨ (k, Tbl.get d t k) ∈ t := by
  induction t with
  | nil => exact Or.inl rfl
  | cons e t ih =>
    obtain ⟨j, a⟩ := e
    rw [Tbl.get]
    split
    · next h => exact Or.inr (by rw [h]; exact List.mem_cons_self)
    · exact ih.imp id (List.mem_cons_of_mem _)

theorem NoneReady.acc {s : State} (h : NoneReady s) (q : Nat) : (s.rq q).acc = [] := by
  rcases Tbl.get_mem {} s.qeng.rqs q with hd | hm
  · exact congrArg Rq.acc hd
  · exact h _ hm

theorem NoneReady.of_rqs {s t : State} (h : NoneReady s) (hq : t.qeng.rqs = s.qeng.rqs) : NoneReady t := by
  unfold NoneReady; rwa [hq]

/-- The last accepted entry leaves. -/
theorem noneReady_setRq {s : State} {q : Nat} {x : Rq} (h : OnlyReady q s) (hx : x.acc = []) : NoneReady (s.setRq q x) := by
  intro p hp
  have hd (e : Nat × Rq) (he : e ∈ Tbl.del s.qeng.rqs q) : e.2.acc = [] := by
    by_contra hc
    exact Tbl.del_ne _ _ e he (h e (Tbl.mem_del _ _ _ he) hc)
  change p ∈ Tbl.set {} s.qeng.rqs q x at hp
  rw [Tbl.set] at hp
  split at hp
  · exact hd p hp
  · rcases Tbl.mem_ins _ _ _ _ hp with rfl | he
    · exact hx
    · exact hd p he

/-! ## One element is issued (R57) -/

section IssueOne

variable {s : State} {e : Elem} {b : Option Compl} {rest : List (Elem × Option Compl)}

theorem fnCount_qeng (s : State) (f e k : Nat) : (s.fnCount f e k).qeng = s.qeng :=
  (fnCount_within (F := only [.regs]) (Part.all_only _) f e k (Within.refl s)).qeng rfl

theorem fnCount_crown (s : State) (f e k : Nat) : (s.fnCount f e k).crown = s.crown :=
  (fnCount_within (F := only [.regs]) (Part.all_only _) f e k (Within.refl s)).crown rfl

theorem perfCount_qeng (s : State) (e k : Nat) : (s.perfCount e k).qeng = s.qeng :=
  (perfCount_within (F := only [.regs, .hdrs, .irq]) (Part.all_only _) e k (Within.refl s)).qeng rfl

theorem push_qeng (s : State) (p : Nat) (c : Compl) : (s.push p c).qeng = s.qeng :=
  (push_within (F := only [.hdrs, .irq, .crown]) (Part.all_only _) p c (Within.refl s)).qeng rfl

/-- The element that joins leaves the queues, and what is under way, as they are. -/
theorem issueJoins_leaves (s : State) (e : Elem) :
    (s.issueJoins e).qeng.rqs = s.qeng.rqs ∧ (s.issueJoins e).qeng.issuing = s.qeng.issuing := by
  unfold State.issueJoins
  split
  · exact ⟨rfl, rfl⟩
  · split
    · have h : ((s.perfCount 61 1).fnCount e.func 33 1).qeng = s.qeng := (fnCount_qeng _ _ _ _).trans (perfCount_qeng _ _ _)
      exact ⟨(congrArg Qeng.rqs h :), (congrArg Qeng.issuing h :)⟩
    · exact ⟨rfl, rfl⟩

/-- An element that is issued counts in flight in its queue, and the rest of its unit remains. -/
theorem issueOne_leaves (h : s.qeng.issuing = (e, b) :: rest) :
    s.issueOne.qeng.rqs = (s.issueNext e.rq rest).qeng.rqs ∧ s.issueOne.qeng.issuing = rest := by
  cases b with
  | some k => rw [issueOne_refused h, push_qeng]; exact ⟨rfl, rfl⟩
  | none =>
    rw [issueOne_joins h]
    obtain ⟨h1, h2⟩ := issueJoins_leaves ((s.issueNext e.rq rest).fnCount e.func 1 1)
      (e.stamp 1 ((s.issueNext e.rq rest).fnCount e.func 1 1).now)
    rw [fnCount_qeng] at h1 h2
    exact ⟨h1, h2⟩

theorem issueNext_rq (s : State) (q : Nat) (rest : List (Elem × Option Compl)) :
    (s.issueNext q rest).rq q = { s.rq q with inflight := (s.rq q).inflight + 1 } := by
  rw [State.issueNext, rq_updRq_same]; rfl

theorem issueNext_noneReady (h : NoneReady s) (q : Nat) : NoneReady (s.issueNext q rest) :=
  noneReady_setRq (s := { s with qeng := { s.qeng with issuing := rest } }) (h.only q) (h.acc q)

end IssueOne

/-! ## The end of a unit -/

/-- The last element of a unit is issued, and its queue is read on. -/
def State.unitEnds (s : State) (q : Nat) : State := (s.issueOne.refill q).rqDrainEnd q

theorem refill_rq (s : State) (q : Nat) : ∃ f, (s.refill q).rq q = { s.rq q with fetching := f } := by
  unfold State.refill
  split
  · exact ⟨_, rqRead_rq s q⟩
  · exact ⟨(s.rq q).fetching, rfl⟩

theorem refill_noneReady {s : State} (h : NoneReady s) (q : Nat) : NoneReady (s.refill q) := by
  unfold State.refill
  split
  · rw [rqRead_eq]
    split
    · have hf : NoneReady (s.setRq q { s.rq q with fetching := true }) := noneReady_setRq (h.only q) (h.acc q)
      exact hf.of_rqs (congrArg Qeng.rqs ((groupRead_keeps _ _ _).qeng rfl))
    · exact h
  · exact h

section UnitEnds

variable {s : State} {e : Elem} {b : Option Compl} (h : s.qeng.issuing = [(e, b)])
include h

theorem issueOne_rq : s.issueOne.rq e.rq = { s.rq e.rq with inflight := (s.rq e.rq).inflight + 1 } := by
  rw [← issueNext_rq s e.rq []]
  unfold State.rq
  rw [(issueOne_leaves h).1]

/-- The issued element is in flight, so its queue does not end its draining. -/
theorem unitEnds_eq : s.unitEnds e.rq = s.issueOne.refill e.rq := by
  obtain ⟨f, hf⟩ := refill_rq s.issueOne e.rq
  refine rqDrainEnd_goesOn ?_
  rw [State.rqDrained, hf, issueOne_rq h]
  simp

theorem unitEnds_rq : ∃ f, (s.unitEnds e.rq).rq e.rq =
    { s.rq e.rq with inflight := (s.rq e.rq).inflight + 1, fetching := f } := by
  obtain ⟨f, hf⟩ := refill_rq s.issueOne e.rq
  exact ⟨f, by rw [unitEnds_eq h, hf, issueOne_rq h]⟩

theorem unitEnds_qeng : (s.unitEnds e.rq).qeng = { s.issueOne.qeng with rqs := (s.unitEnds e.rq).qeng.rqs } := by
  rw [unitEnds_eq h]; exact refill_qeng _ _

theorem unitEnds_crown : (s.unitEnds e.rq).crown = s.issueOne.crown := by
  rw [unitEnds_eq h]; exact (refill_keeps _ _).crown rfl

theorem unitEnds_noneReady (hn : NoneReady s) : NoneReady (s.unitEnds e.rq) := by
  rw [unitEnds_eq h]
  exact refill_noneReady ((issueNext_noneReady hn e.rq).of_rqs (issueOne_leaves h).1) e.rq

end UnitEnds

/-! ## A cycle of issue (R57, R58) -/

/-- The state with the scheduler's next queue and the rest of its visit. -/
def State.schedAt (s : State) (n v : Nat) : State := { s with qeng := { s.qeng with next := n, visitLeft := v } }

@[simp] theorem schedAt_rq (s : State) (n v q : Nat) : (s.schedAt n v).rq q = s.rq q := rfl
@[simp] theorem schedAt_issued (s : State) (n v : Nat) : (s.schedAt n v).qeng.issued = s.qeng.issued := rfl
@[simp] theorem schedAt_issuing (s : State) (n v : Nat) : (s.schedAt n v).qeng.issuing = s.qeng.issuing := rfl
@[simp] theorem schedAt_chains (s : State) (n v : Nat) : (s.schedAt n v).qeng.chains = s.qeng.chains := rfl
@[simp] theorem schedAt_crown (s : State) (n v : Nat) : (s.schedAt n v).crown = s.crown := rfl

/-- Nothing under way and no accepted entry: at most the visit ends. -/
theorem visits_idle {s : State} (h : s.qeng.issuing = []) (hn : NoneReady s) (k f o : Nat) :
    ∃ n v, s.visits (k + 1) f o = s.schedAt n v := by
  have hr := readyRqs_none hn
  have hv : s.visitQueue = none := by rw [State.visitQueue, hr]; rfl
  have hc : s.creditHeld = false := by rw [State.creditHeld, hr]; rfl
  rw [State.visits]
  simp only [h, hv, hc, Bool.false_eq_true, if_false]
  split
  · exact ⟨s.qeng.next, s.qeng.visitLeft, rfl⟩
  · split
    · exact ⟨s.qeng.next, s.qeng.visitLeft, rfl⟩
    · exact ⟨_, _, rfl⟩

/-- The last element of a unit is issued, and no queue has another. -/
theorem visits_unit {s : State} {e : Elem} {b : Option Compl} (h : s.qeng.issuing = [(e, b)]) (hn : NoneReady s)
    (k : Nat) {f o : Nat} (hf : f ≠ 0) (ho : o ≠ 0) : ∃ n v, s.visits (k + 2) f o = (s.unitEnds e.rq).schedAt n v := by
  have hi : s.issueOne.qeng.issuing = [] := (issueOne_leaves h).2
  have hb : (if e.d.isFrame then f else o) ≠ 0 := by split <;> assumption
  have hu : (s.unitEnds e.rq).qeng.issuing = [] := by rw [unitEnds_qeng h]; exact hi
  rw [State.visits]
  simp only [h, if_neg hb, hi, List.isEmpty_nil, if_true]
  exact visits_idle (s := s.unitEnds e.rq) hu (unitEnds_noneReady h hn) k _ _

/-- A queue is visited. -/
theorem visits_visit {s : State} {q : Nat} (h : s.qeng.issuing = []) (hp : s.flag QENG_CTL.PAUSE 0 = false)
    (hv : s.visitQueue = some q) (k : Nat) {f o : Nat} (hf : f ≠ 0) (ho : o ≠ 0) :
    s.visits (k + 1) f o = (s.visit q).visits k f o := by
  have hb (x : Bool) : (if x then f else o) ≠ 0 := by split <;> assumption
  rw [State.visits]
  simp only [h, hp, hv, Bool.false_eq_true, if_false, if_neg (hb _)]

/-- The only queue that has an accepted entry is visited, where it has credit and is eligible. -/
theorem visitQueue_only {s : State} {q : Nat} (hr : s.readyRqs = [q]) (hc : 0 < (s.rq q).credit) (hi : s.issuable q = true) :
    s.visitQueue = some q := by
  have hl : rotateFrom s.qeng.next [q] = [q] := by
    unfold rotateFrom
    by_cases h : s.qeng.next ≤ q
    · simp [h]
    · simp [h, Nat.lt_of_not_le h]
  rw [State.visitQueue, hr, hl]
  simp [hc, hi]

/-- What is left of a visit once its unit of n elements has begun, with room for so many. -/
def State.visitRest (s : State) (q left n : Nat) : State :=
  let s := { s with qeng := { s.qeng with visitLeft := left - n } }
  if decide (left ≤ n) || decide ((s.rq q).credit ≤ (0 : Int)) then s.visitEnds else s

theorem visitRest_eq (s : State) (q left n : Nat) : ∃ m v, s.visitRest q left n = s.schedAt m v := by
  unfold State.visitRest
  dsimp only
  split
  · exact ⟨(s.qeng.next + 1) % 256, 0, rfl⟩
  · exact ⟨s.qeng.next, left - n, rfl⟩

/-- A visit issues the unit at the head; beside it the scheduler moves. -/
theorem visit_eq (s : State) (q : Nat) : ∃ n v n' v', s.visit q = ((s.schedAt n v).startUnit q).schedAt n' v' := by
  have h0 : ∃ n v, (if q = s.qeng.next ∧ s.qeng.visitLeft ≠ 0 then s
      else { s with qeng := { s.qeng with next := q, visitLeft := (s.rq q).burst } }) = s.schedAt n v := by
    split
    · exact ⟨s.qeng.next, s.qeng.visitLeft, rfl⟩
    · exact ⟨_, _, rfl⟩
  obtain ⟨n, v, h⟩ := h0
  obtain ⟨n', v', hr⟩ := visitRest_eq ((s.schedAt n v).startUnit q) q (s.schedAt n v).qeng.visitLeft
    ((s.schedAt n v).headUnit q).length
  refine ⟨n, v, n', v', ?_⟩
  unfold State.visit
  rw [h, ← hr]
  rfl

theorem exec_schedIssue {s : State} (hw : s.working = true) (hd : s.dispatching = true) (hon : s.isOn (pg .qeng) = true)
    (hs : s.qStopped = false) (hm : s.markCbuf = s) : exec .schedIssue s = .next (s.visits 64 4 1) := by
  show Host.Outcome.next (s.whileWorking _) = _
  rw [State.whileWorking, if_pos hw, State.schedIssue, hm]
  simp [hd, hon, hs]

/-- Outside READY and RUN, while the engine is not ON or has stopped, and under PAUSE with no unit under way, nothing is issued. -/
theorem schedIssue_idle {s : State} (h : (s.flag QENG_CTL.PAUSE 0 = true ∧ s.qeng.issuing = []) ∨ s.dispatching = false ∨
    s.isOn (pg .qeng) = false ∨ s.qStopped = true) : s.schedIssue = s := by
  rw [State.schedIssue]
  split
  · rfl
  · next hc =>
    obtain ⟨hp, hi⟩ : s.flag QENG_CTL.PAUSE 0 = true ∧ s.qeng.issuing = [] := by
      rcases h with h | h | h | h
      · exact h
      all_goals exact absurd (by simp [h]) hc
    rw [if_pos hp, State.visits]
    simp only [hi, hp, if_true]

/-! ## A unit of one element (R57, R60, R151) -/

/-- The queue without its head, which is charged to its credit. -/
def chargedRq (x : Rq) : Rq := { x with acc := x.acc.drop 1, credit := x.credit - 1, cbufWait := false }

/-- The head of a queue leaves it, charged to its credit and to its completion queue. -/
def State.headCharged (s : State) (q : Nat) : State := (s.updRq q chargedRq).grant (s.fld RQ_CFG.CQ q) 1

/-- The element of a descriptor at the head of a queue, with its ordering number. -/
def State.headElem (s : State) (q : Nat) (a : Accepted) : Elem × State :=
  (s.headCharged q).numbered ((s.headCharged q).elemOf q a)

/-- What a lone element completes with that fails a check. -/
def headFault (e : Elem) (r : Option Nat) : Option Compl :=
  r.map (fun r => { elem := e, status := stBadOpcode, reason := r })

theorem headUnit_one {s : State} {q : Nat} {a : Accepted} (ha : (s.rq q).acc = [a]) (hc : a.d.chain = false) :
    s.headUnit q = [a] := by
  simp [State.headUnit, ha, unitLen, hc]

theorem unitFault_one (m : Nat) (d : Desc) : unitFault m 0 false [d] = (issueReason d m).map (fun r => (0, r)) := by
  unfold unitFault
  cases issueReason d m <;> rfl

theorem startUnit_one {s : State} {q : Nat} {a : Accepted} (ha : (s.rq q).acc = [a]) (hc : a.d.chain = false) :
    s.startUnit q = { (s.headElem q a).2 with qeng := { (s.headElem q a).2.qeng with
      issuing := [((s.headElem q a).1, headFault (s.headElem q a).1 (issueReason a.d (s.fld RQ_CFG.QUAD_MASK q)))] } } := by
  unfold State.startUnit
  simp only [headUnit_one ha hc, List.map_cons, List.map_nil, List.length_singleton, unitFault_one]
  cases issueReason a.d (s.fld RQ_CFG.QUAD_MASK q) <;> rfl

theorem grant_qeng (s : State) (c k : Nat) : (s.grant c k).qeng = s.qeng :=
  (grant_within (F := only [.regs, .crown]) (Part.all_only _) c k (Within.refl s)).qeng rfl

theorem grant_crown (s : State) (c k : Nat) :
    (s.grant c k).crown = (s.updCq c (fun x => { x with grants := x.grants + k })).crown := by
  unfold State.grant
  extract_lets u
  split
  · exact State.put_crown u _ _ _
  · rfl

theorem grant_regsBut (s : State) (c k : Nat) : RegsBut [.CROWN_POOL_HWM] s (s.grant c k) := by
  unfold State.grant
  extract_lets u
  have hu : RegsBut [.CROWN_POOL_HWM] s u := .of_regs rfl
  split
  · exact hu.trans (.of_put u CROWN_POOL_HWM.HWM 0 _)
  · exact hu

/-- Slots that are granted are the completion queue's. -/
theorem grant_grants (s : State) (c k : Nat) : ((s.grant c k).cq c).grants = (s.cq c).grants + k := by
  have h : (s.grant c k).cq c = { s.cq c with grants := (s.cq c).grants + k } := by
    unfold State.cq
    rw [grant_crown]
    exact Tbl.get_set_same _ _ _ _
  rw [h]

theorem grant_produced (s : State) (c k p : Nat) : (s.grant c k).produced p = s.produced p := by
  unfold State.produced State.fifo
  rw [grant_crown]
  rfl

/-- A numbered element is the element with a number, and its queue counts on. -/
theorem numbered_eq (s : State) (e : Elem) : ∃ o x, s.numbered e = ({ e with ord := o }, x) ∧
    (x = s ∨ ∃ n, x = s.updRq e.rq (fun y => { y with ordNext := n })) := by
  unfold State.numbered
  split
  · exact ⟨_, _, rfl, Or.inr ⟨_, rfl⟩⟩
  · exact ⟨e.ord, s, rfl, Or.inl rfl⟩

/-- From s to u the one accepted entry of queue q has left it, charged to its credit and to its completion queue. -/
structure HeadLeft (s : State) (q : Nat) (u : State) : Prop where
  ready : NoneReady u
  acc : (u.rq q).acc = []
  inflight : (u.rq q).inflight = (s.rq q).inflight
  credit : (u.rq q).credit = (s.rq q).credit - 1
  issued : u.qeng.issued = s.qeng.issued
  grants : (u.cq (s.fld RQ_CFG.CQ q)).grants = (s.cq (s.fld RQ_CFG.CQ q)).grants + 1
  produced : ∀ p, u.produced p = s.produced p

theorem headCharged_left {s : State} {q : Nat} {a : Accepted} (ha : (s.rq q).acc = [a]) (hr : s.readyRqs = [q]) :
    HeadLeft s q (s.headCharged q) := by
  have hq : (s.headCharged q).qeng = (s.updRq q chargedRq).qeng := grant_qeng _ _ _
  have hrq : (s.headCharged q).rq q = chargedRq (s.rq q) := (rq_congr hq q).trans (rq_updRq_same _ _ _)
  have hx : (chargedRq (s.rq q)).acc = [] := by rw [chargedRq, ha]; rfl
  refine ⟨?_, by rw [hrq, hx], by rw [hrq]; rfl, by rw [hrq]; rfl, by rw [hq]; rfl, grant_grants _ _ _, grant_produced _ _ _⟩
  exact NoneReady.of_rqs (noneReady_setRq (onlyReady_of hr) hx) (congrArg Qeng.rqs hq)

/-- The number of the next ORDERED element is no more than that. -/
theorem HeadLeft.numbered {s u : State} {q : Nat} (h : HeadLeft s q u) (n : Nat) :
    HeadLeft s q (u.updRq q (fun y => { y with ordNext := n })) := by
  have hrq : (u.updRq q (fun y => { y with ordNext := n })).rq q = { u.rq q with ordNext := n } := rq_updRq_same _ _ _
  exact ⟨noneReady_setRq (h.ready.only q) h.acc, by rw [hrq]; exact h.acc, by rw [hrq]; exact h.inflight,
    by rw [hrq]; exact h.credit, h.issued, h.grants, h.produced⟩

theorem HeadLeft.issuing {s u : State} {q : Nat} (h : HeadLeft s q u) (l : List (Elem × Option Compl)) :
    HeadLeft s q { u with qeng := { u.qeng with issuing := l } } :=
  ⟨h.ready, h.acc, h.inflight, h.credit, h.issued, h.grants, h.produced⟩

/-- The scheduler's own place is no part of it. -/
theorem HeadLeft.schedAt {s u : State} {q : Nat} (h : HeadLeft s q u) (n v : Nat) : HeadLeft s q (u.schedAt n v) :=
  ⟨h.ready, h.acc, h.inflight, h.credit, h.issued, h.grants, h.produced⟩

theorem HeadLeft.of_schedAt {s u : State} {q n v : Nat} (h : HeadLeft (s.schedAt n v) q u) : HeadLeft s q u :=
  ⟨h.ready, h.acc, h.inflight, h.credit, h.issued, h.grants, h.produced⟩

theorem headCharged_elem (s : State) (q : Nat) (a : Accepted) : (s.headCharged q).elemOf q a = s.elemOf q a := by
  have hreg : RegsBut [.CROWN_POOL_HWM] s (s.headCharged q) :=
    (RegsBut.of_regs (t := s.updRq q chargedRq) rfl).trans (grant_regsBut _ _ _)
  unfold State.elemOf
  rw [hreg.fld RQ_CFG.FUNC q, hreg.fld RQ_CFG.CQ q]

/-- The unit of the one accepted element of a queue is under way. -/
theorem startUnit_left {s : State} {q : Nat} {a : Accepted} (ha : (s.rq q).acc = [a]) (hc : a.d.chain = false)
    (hr : s.readyRqs = [q]) : ∃ o, HeadLeft s q (s.startUnit q) ∧ (s.startUnit q).qeng.issuing =
      [({ s.elemOf q a with ord := o },
        headFault { s.elemOf q a with ord := o } (issueReason a.d (s.fld RQ_CFG.QUAD_MASK q)))] := by
  obtain ⟨o, x, hn, hx⟩ := numbered_eq (s.headCharged q) ((s.headCharged q).elemOf q a)
  have hl : HeadLeft s q x := by
    rcases hx with rfl | ⟨n, rfl⟩
    · exact headCharged_left ha hr
    · exact (headCharged_left ha hr).numbered n
  have he : s.headElem q a = ({ s.elemOf q a with ord := o }, x) := by rw [State.headElem, hn, headCharged_elem]
  refine ⟨o, ?_⟩
  rw [startUnit_one ha hc, he]
  exact ⟨hl.issuing _, rfl⟩

section HeadIssued

variable {s : State} {q : Nat} {a : Accepted} (hw : s.working = true) (hd : s.dispatching = true)
  (hon : s.isOn (pg .qeng) = true) (hp : s.flag QENG_CTL.PAUSE 0 = false) (hs : s.qStopped = false)
  (hi : s.qeng.issuing = []) (hm : s.markCbuf = s) (hr : s.readyRqs = [q]) (ha : (s.rq q).acc = [a]) (hc : a.d.chain = false)
  (hcr : 0 < (s.rq q).credit) (hq : s.issuable q = true)
include hw hd hon hp hs hi hm hr ha hc hcr hq

/-- A cycle of issue with one element to issue: its unit begins, and ends. -/
theorem exec_schedIssue_head : ∃ u o n v, HeadLeft s q u ∧ u.qeng.issuing = [({ s.elemOf q a with ord := o },
      headFault { s.elemOf q a with ord := o } (issueReason a.d (s.fld RQ_CFG.QUAD_MASK q)))] ∧
    exec .schedIssue s = .next ((u.unitEnds q).schedAt n v) := by
  obtain ⟨n, v, n', v', hv⟩ := visit_eq s q
  obtain ⟨o, hl, hu⟩ := startUnit_left (s := s.schedAt n v) ha hc hr
  have hl' : HeadLeft s q (((s.schedAt n v).startUnit q).schedAt n' v') := hl.of_schedAt.schedAt n' v'
  obtain ⟨n2, v2, he⟩ := visits_unit (s := ((s.schedAt n v).startUnit q).schedAt n' v') hu hl'.ready 61 (f := 4) (o := 1)
    (by decide) (by decide)
  refine ⟨_, o, n2, v2, hl', hu, ?_⟩
  rw [exec_schedIssue hw hd hon hs hm, visits_visit hi hp (visitQueue_only hr hcr hq) 63 (by decide) (by decide), hv, he]
  rfl

end HeadIssued

/-! ## Where an issued element goes (R57, R59) -/

@[simp] theorem Elem.stamp_chain (e : Elem) (pt now : Nat) : (e.stamp pt now).chain = e.chain := by rw [Elem.stamp_eq]

@[simp] theorem Elem.stamp_pos (e : Elem) (pt now : Nat) : (e.stamp pt now).pos = e.pos := by rw [Elem.stamp_eq]

section Joins

variable {s : State} {e : Elem} (h : s.qeng.issuing = [(e, none)])
include h

/-- A lone element joins those issued. -/
theorem issueOne_lone (hc : e.chain = none) :
    ∃ now, s.issueOne.qeng.issued = s.qeng.issued ++ [e.stamp 1 now] ∧ s.issueOne.crown = s.crown := by
  refine ⟨((s.issueNext e.rq []).fnCount e.func 1 1).now, ?_⟩
  rw [issueOne_joins h, State.issueJoins, Elem.stamp_chain, hc]
  dsimp only
  rw [fnCount_qeng, fnCount_crown]
  exact ⟨rfl, rfl⟩

/-- A later element of a chain joins it. -/
theorem issueOne_later {c : Nat} {ch : Chain} (hc : e.chain = some c) (hp : e.pos ≠ 0) (hh : s.chain? c = some ch) :
    ∃ now, s.issueOne.chain? c = some { ch with rest := ch.rest ++ [e.stamp 1 now] } ∧
      s.issueOne.qeng.issued = s.qeng.issued := by
  have hq : ((s.issueNext e.rq []).fnCount e.func 1 1).qeng = (s.issueNext e.rq []).qeng := fnCount_qeng _ _ _ _
  have hch : ((s.issueNext e.rq []).fnCount e.func 1 1).chain? c = some ch := (chain?_congr (congrArg Qeng.chains hq) c).trans hh
  refine ⟨((s.issueNext e.rq []).fnCount e.func 1 1).now, ?_⟩
  rw [issueOne_joins h]
  generalize (s.issueNext e.rq []).fnCount e.func 1 1 = u at hq hch
  have hj (x : Elem) (hx : x.chain = some c) (hxp : x.pos ≠ 0) :
      u.issueJoins x = u.updChain c (fun y => { y with rest := y.rest ++ [x] }) := by
    rw [State.issueJoins, hx]
    dsimp only
    rw [if_neg hxp]
    rfl
  rw [hj _ (by rw [Elem.stamp_chain, hc]) (by rw [Elem.stamp_pos]; exact hp)]
  exact ⟨chain?_updChain (f := fun y => { y with rest := y.rest ++ [e.stamp 1 u.now] }) (fun _ => rfl) hch,
    (congrArg Qeng.issued hq :)⟩

end Joins

/-- What a push adds to is what had been pushed before steps that left what the producer pushed alone. -/
theorem State.Completes.of_produced {s u t : State} {p st r : Nat} {e : Elem} (h : u.Completes t p e st r)
    (hp : u.produced p = s.produced p) : s.Completes t p e st r := by
  unfold State.Completes at h ⊢
  rwa [hp] at h

/-- Settles O22: a lone head is issued or refused, a chain goes on, and otherwise nothing is issued. -/
theorem issueTakesTheHead : Obligations.IssueTakesTheHead := by
  refine ⟨?_, ?_, ?_, ?_⟩
  · intro s q a hw hd hon hp hs hi hm hr ha hc _ hf hcr hq
    obtain ⟨u, o, n, v, hl, hu, hx⟩ := exec_schedIssue_head hw hd hon hp hs hi hm hr ha hc hcr hq
    rw [hf] at hu
    obtain ⟨now, hiss, hcrown⟩ := issueOne_lone (e := { s.elemOf q a with ord := o }) hu rfl
    obtain ⟨f, hrq⟩ := unitEnds_rq hu
    have hqe := unitEnds_qeng hu
    have hcr' := unitEnds_crown hu
    change (u.unitEnds q).rq q = _ at hrq
    change (u.unitEnds q).qeng = _ at hqe
    change (u.unitEnds q).crown = _ at hcr'
    refine ⟨_, ({ s.elemOf q a with ord := o } : Elem).stamp 1 now, hx, ?_, by simp [State.elemOf], by simp [State.elemOf],
      by simp [State.elemOf], by simp [State.elemOf], by simp [State.elemOf], by simp [State.elemOf], ?_, ?_, ?_, ?_⟩
    · rw [schedAt_issued, hqe, ← hl.issued]; exact hiss
    · rw [schedAt_rq, hrq]; exact hl.acc
    · rw [schedAt_rq, hrq, ← hl.inflight]; rfl
    · rw [schedAt_rq, hrq, ← hl.credit]; rfl
    · rw [← hl.grants]
      unfold State.cq
      rw [schedAt_crown, hcr', hcrown]
  · intro s q r a hw hd hon hp hs hi hm hr ha hc hf hcr hq
    obtain ⟨u, o, n, v, hl, hu, hx⟩ := exec_schedIssue_head hw hd hon hp hs hi hm hr ha hc hcr hq
    rw [hf] at hu
    have hone := issueOne_refused (e := { s.elemOf q a with ord := o }) hu
    obtain ⟨f, hrq⟩ := unitEnds_rq hu
    have hqe := unitEnds_qeng hu
    have hcr' := unitEnds_crown hu
    change (u.unitEnds q).rq q = _ at hrq
    change (u.unitEnds q).qeng = _ at hqe
    change (u.unitEnds q).crown = _ at hcr'
    refine ⟨_, hx, ?_, ?_, ?_⟩
    · have hpush := push_completes (u.issueNext q []) 25
        { elem := { s.elemOf q a with ord := o }, status := stBadOpcode, reason := r }
      exact (hpush.of_produced (hl.produced 25)).then_crown (hcr'.trans (congrArg State.crown hone))
    · rw [schedAt_issued, hqe, hone, push_qeng]; exact hl.issued
    · rw [schedAt_rq, hrq]; exact hl.acc
  · intro s c ch e hw hd hon hs hi hr hc hpos hch
    have hm : s.markCbuf = s := by rw [State.markCbuf, hr]; rfl
    obtain ⟨n, v, he⟩ := visits_unit hi (noneReady_of hr) 62 (f := 4) (o := 1) (by decide) (by decide)
    have hx := exec_schedIssue hw hd hon hs hm
    rw [he] at hx
    obtain ⟨now, hjoin, hiss⟩ := issueOne_later hi hc hpos hch
    obtain ⟨f, hrq⟩ := unitEnds_rq hi
    have hqe := unitEnds_qeng hi
    refine ⟨_, e.stamp 1 now, hx, ?_, ?_, by simp, by simp, by simp, by simp, ?_, ?_⟩
    · rw [schedAt_issuing, hqe]; exact (issueOne_leaves hi).2
    · rw [← hjoin]
      exact chain?_congr (by rw [schedAt_chains, hqe]) c
    · rw [schedAt_rq, hrq]
    · rw [schedAt_issued, hqe]; exact hiss
  · intro s h
    show Host.Outcome.next (s.whileWorking _) = _
    rw [State.whileWorking, schedIssue_idle h, ite_self]

end Sys2Proof.Machine
end

section
/-! PROOFS. The statements of 04_cipher_lanes.md: what the steps beside the lanes leave of the lanes' pages, of their completions and of
the completion FIFOs. -/

namespace Sys2Proof.Machine

set_option Elab.async false

/-- What lies within some parts lies within whatever holds them all. -/
theorem within_of_only {l : List Part} {G : Part → Bool} {s t : State} (h : s.Within (only l) t)
    (hG : l.all G = true := by rfl) : s.Within G t :=
  Within.wider h (fun q hq => Part.All.of_all hG q (List.contains_iff_mem.mp hq))

/-! ## What rises stays (R33) -/

/-- From s to t no fault and no event bit of any page has fallen. -/
structure BitsRise (s t : State) : Prop where
  faults : ∀ p b, (s.hdr p).fault.getLsbD b = true → (t.hdr p).fault.getLsbD b = true
  events : ∀ p b, (s.hdr p).event.getLsbD b = true → (t.hdr p).event.getLsbD b = true

theorem BitsRise.refl (s : State) : BitsRise s s := ⟨fun _ _ => id, fun _ _ => id⟩

theorem BitsRise.trans {s t u : State} (h : BitsRise s t) (k : BitsRise t u) : BitsRise s u :=
  ⟨fun p b x => k.faults p b (h.faults p b x), fun p b x => k.events p b (h.events p b x)⟩

theorem BitsRise.of_hdr {s t : State} (h : ∀ p, t.hdr p = s.hdr p) : BitsRise s t :=
  ⟨fun p _ => by rw [h p]; exact id, fun p _ => by rw [h p]; exact id⟩

theorem BitsRise.of_hdrs {s t : State} (h : t.hdrs = s.hdrs) : BitsRise s t :=
  .of_hdr (fun p => by unfold State.hdr State.hdrAt; rw [h])

theorem BitsRise.foldl {α : Type} {f : State → α → State} (hf : ∀ u x, BitsRise u (f u x)) (l : List α) (s : State) :
    BitsRise s (l.foldl f s) :=
  List.foldlRecOn l f (.refl s) (fun u hu x _ => hu.trans (hf u x))

/-- A header is written that holds every bit of the one before. -/
theorem setHdr_rise (s : State) (p : PageRef) (x : Hdr)
    (hf : ∀ b, (s.hdr p).fault.getLsbD b = true → x.fault.getLsbD b = true)
    (he : ∀ b, (s.hdr p).event.getLsbD b = true → x.event.getLsbD b = true) : BitsRise s (s.setHdr p x) := by
  have hsame (q : PageRef) (h : pageNum q = pageNum p) (t : State) : t.hdr q = t.hdr p := by unfold State.hdr; rw [h]
  constructor <;> intro q b hb <;> by_cases hq : pageNum q = pageNum p
  · rw [hsame q hq, hdr_setHdr_same]; exact hf b (hsame q hq s ▸ hb)
  · rwa [hdr_setHdr_ne _ _ hq]
  · rw [hsame q hq, hdr_setHdr_same]; exact he b (hsame q hq s ▸ hb)
  · rwa [hdr_setHdr_ne _ _ hq]

/-- A header is changed beside its fault and event bits. -/
theorem updHdr_rise (s : State) (p : PageRef) (f : Hdr → Hdr) (hf : ∀ x, (f x).fault = x.fault := by exact fun _ => rfl)
    (he : ∀ x, (f x).event = x.event := by exact fun _ => rfl) : BitsRise s (s.updHdr p f) :=
  setHdr_rise s p _ (fun b h => by rwa [hf]) (fun b h => by rwa [he])

theorem raiseFault_rise (s : State) (p : PageRef) (b : Nat) : BitsRise s (s.raiseFault p b) := by
  refine (setHdr_rise s p { s.hdr p with fault := (s.hdr p).fault ||| (1 <<< b) } (fun i h => ?_) (fun i h => h)).trans
    (.of_hdr (fun q => ?_))
  · simp [h]
  · by_cases hq : pageNum q = pageNum p
    · have hs (t : State) : t.hdr q = t.hdr p := by unfold State.hdr; rw [hq]
      rw [hs, hs, raiseFault_hdr, hdr_setHdr_same]
    · rw [raiseFault_hdr_ne _ _ hq, hdr_setHdr_ne _ _ hq]

theorem raiseEvent_rise (s : State) (p : PageRef) (b : Nat) : BitsRise s (s.raiseEvent p b) := by
  refine (setHdr_rise s p { s.hdr p with event := (s.hdr p).event ||| (1 <<< b) } (fun i h => h) (fun i h => ?_)).trans
    (.of_hdr (fun q => ?_))
  · simp [h]
  · by_cases hq : pageNum q = pageNum p
    · have hs (t : State) : t.hdr q = t.hdr p := by unfold State.hdr; rw [hq]
      rw [hs, hs, raiseEvent_hdr, hdr_setHdr_same]
    · rw [raiseEvent_hdr_ne _ _ hq, hdr_setHdr_ne _ _ hq]

theorem lasting_rise (s : State) (p : PageRef) : BitsRise s (s.lasting p) :=
  (updHdr_rise s p _).trans (raiseFault_rise _ _ _)

theorem fifo_setFifo_same (s : State) (p : Nat) (l : List Compl) : (s.setFifo p l).fifo p = l := Tbl.get_set_same _ _ _ _

theorem fifo_setFifo_ne (s : State) {p q : Nat} (l : List Compl) (h : q ≠ p) : (s.setFifo p l).fifo q = s.fifo q :=
  Tbl.get_set_ne _ _ _ _ _ h

/-! ## Lane pages, lane producers and FIFOs -/

/-- From s to t no fault and no event bit has fallen, and the registers of the lane pages are as they were. -/
structure LanePages (s t : State) : Prop extends BitsRise s t where
  laneRegs : ∀ r n, r.desc.page = .lane → t.reg r n = s.reg r n

theorem LanePages.refl (s : State) : LanePages s s := ⟨.refl s, fun _ _ _ => rfl⟩

theorem LanePages.trans {s t u : State} (h : LanePages s t) (k : LanePages t u) : LanePages s u :=
  ⟨h.toBitsRise.trans k.toBitsRise, fun r n e => (k.laneRegs r n e).trans (h.laneRegs r n e)⟩

/-- What changes neither headers nor registers. -/
theorem LanePages.of_within {s t : State} (h : s.Within (fun x => x != .hdrs && x != .regs) t) : LanePages s t :=
  ⟨.of_hdrs (h.hdrs rfl), fun r n _ => h.reg_eq rfl r n⟩

theorem LanePages.foldl {α : Type} {f : State → α → State} (hf : ∀ u x, LanePages u (f u x)) (l : List α) (s : State) :
    LanePages s (l.foldl f s) :=
  List.foldlRecOn l f (.refl s) (fun u hu x _ => hu.trans (hf u x))

theorem LanePages.flag {s t : State} (h : LanePages s t) (f : Fld) (n : Nat) (hf : f.reg.desc.page = .lane := by rfl) :
    t.flag f n = s.flag f n := flag_of_reg (h.laneRegs f.reg n hf)

/-- From s to t, besides, the lanes' producers have pushed nothing, and no FIFO has lost a completion. -/
structure LanesSpared (s t : State) : Prop extends LanePages s t where
  pushes : ∀ p, p < 16 → t.produced p = s.produced p
  fifos : ∀ p k, k ∈ s.fifo p → k ∈ t.fifo p

namespace LanesSpared

variable {s t u : State}

theorem refl (s : State) : LanesSpared s s := ⟨.refl s, fun _ _ => rfl, fun _ _ => id⟩

theorem trans (h : LanesSpared s t) (k : LanesSpared t u) : LanesSpared s u :=
  ⟨h.toLanePages.trans k.toLanePages, fun p e => (k.pushes p e).trans (h.pushes p e), fun p x e => k.fifos p x (h.fifos p x e)⟩

/-- A step after the others that touches the pages as it may and the crown not at all. -/
theorem pages (h : LanesSpared s t) (k : LanePages t u) (hc : u.crown = t.crown) : LanesSpared s u :=
  h.trans ⟨k, fun p _ => produced_congr hc p, fun p x => by unfold State.fifo; rw [hc]; exact id⟩

/-- One that changes neither headers nor registers nor what producers have pushed. -/
theorem same (h : LanesSpared s t) (hh : u.hdrs = t.hdrs := by rfl) (hr : u.regs = t.regs := by rfl)
    (hf : u.crown.fifos = t.crown.fifos := by rfl) (hs : u.crown.stalled = t.crown.stalled := by rfl) : LanesSpared s u :=
  h.trans ⟨⟨.of_hdrs hh, fun r n _ => by unfold State.reg; rw [hr]⟩,
    fun p _ => by unfold State.produced State.fifo; rw [hf, hs], fun p x => by unfold State.fifo; rw [hf]; exact id⟩

/-- One that leaves the headers, the registers and the crown. -/
theorem free (h : LanesSpared s t) (k : t.Within (fun x => x != .hdrs && x != .regs && x != .crown) u) : LanesSpared s u :=
  h.same (k.hdrs rfl) (k.regs rfl) (congrArg Crown.fifos (k.crown rfl)) (congrArg Crown.stalled (k.crown rfl))

theorem foldl {α : Type} {f : State → α → State} (h : LanesSpared s t)
    (hf : ∀ u x, LanesSpared s u → LanesSpared s (f u x)) (l : List α) : LanesSpared s (l.foldl f t) :=
  List.foldlRecOn l f h (fun u hu x _ => hf u x hu)

/-- A field of a page that is no lane's is written. -/
theorem put (h : LanesSpared s t) (f : Fld) (n x : Nat) (hf : f.reg.desc.page ≠ .lane := by decide) :
    LanesSpared s (t.put f n x) :=
  h.pages ⟨.of_hdrs rfl, fun _ _ e => reg_put_ne t x (Or.inl (fun c => hf (c ▸ e)))⟩ rfl

theorem raiseEvent (h : LanesSpared s t) (p : PageRef) (b : Nat) : LanesSpared s (t.raiseEvent p b) :=
  h.pages ⟨raiseEvent_rise t p b, fun r n _ => by unfold State.reg; rw [raiseEvent_regs]⟩ (raiseEvent_crown t p b)

theorem raiseFault (h : LanesSpared s t) (p : PageRef) (b : Nat) : LanesSpared s (t.raiseFault p b) :=
  h.pages ⟨raiseFault_rise t p b, fun r n _ => by unfold State.reg; rw [raiseFault_regs]⟩
    ((raiseFault_keeps t p b).crown rfl)

/-! ### Counters and the fabric -/

theorem fnCount (h : LanesSpared s t) (f e k : Nat) : LanesSpared s (t.fnCount f e k) := by
  unfold State.fnCount
  split
  · exact h.put FN_CNT.COUNT _ _
  · exact h

theorem watch (h : LanesSpared s t) (e a b i : Nat) : LanesSpared s (t.watch e a b i) := by
  unfold State.watch
  extract_lets n
  split
  · exact h.raiseEvent _ _
  · exact h

theorem perfCount (h : LanesSpared s t) (e k : Nat) : LanesSpared s (t.perfCount e k) := by
  unfold State.perfCount
  split
  · extract_lets a u
    exact (h.put PERF_CNT.COUNT e (a + k)).foldl (fun _ _ hv => hv.watch _ _ _ _) _
  · exact h

theorem issueReq (h : LanesSpared s t) (p : Nat) (q : FabReq) : LanesSpared s (t.issueReq p q) := by
  unfold State.issueReq
  extract_lets pt wait
  split
  · exact h.same
  · split
    · split
      · exact h.same.perfCount _ _
      · exact h.same
    · split
      · exact h.same.perfCount _ _
      · exact h.same
    · split <;> exact h.same

theorem startWrite (h : LanesSpared s t) (kind : XKind) (attr : Attr) (a : Nat) (data : Bytes) (port : Option Nat) :
    LanesSpared s (t.startWrite kind attr a data port).2 :=
  LanesSpared.foldl (t := (t.newXfer kind _).2) h.same (fun _ _ hu => hu.issueReq _ _) _

theorem startRead (h : LanesSpared s t) (kind : XKind) (attr : Attr) (a n : Nat) (port : Option Nat) :
    LanesSpared s (t.startRead kind attr a n port).2 :=
  LanesSpared.foldl (t := (t.newXfer kind _).2) h.same (fun _ _ hu => hu.issueReq _ _) _

/-! ### Pushes of other producers -/

/-- A producer that is no lane pushes. -/
theorem push (h : LanesSpared s t) {p : Nat} (hp : 16 ≤ p) (c : Compl) : LanesSpared s (t.push p c) := by
  unfold State.push
  extract_lets c l u
  split
  · have hu : LanesSpared s u := h.trans ⟨⟨.of_hdrs rfl, fun _ _ _ => rfl⟩,
      fun q hq => by
        unfold State.produced
        rw [fifo_setFifo_ne t _ (show q ≠ p by omega)]
        rfl,
      fun q k hk => by
        by_cases hq : q = p
        · subst hq; rw [fifo_setFifo_same]; exact List.mem_append_left _ hk
        · rwa [fifo_setFifo_ne t _ hq]⟩
    split
    · exact hu.raiseEvent _ _
    · exact hu
  · refine h.trans ⟨⟨.of_hdrs rfl, fun _ _ _ => rfl⟩, fun q hq => ?_, fun q k => id⟩
    have hpq : (p == q) = false := by rw [beq_eq_false_iff_ne]; omega
    simp only [State.produced, State.fifo, List.filter_append, List.filter_cons, hpq, List.filter_nil, List.append_nil,
      Bool.false_eq_true, if_false]
    rfl

theorem pushAborted (h : LanesSpared s t) (status pos : Nat) (e : Elem) : LanesSpared s (t.pushAborted status pos e) :=
  h.push (by decide) _

/-! ### Releases -/

theorem ringLevel (h : LanesSpared s t) (r : Nat) : LanesSpared s (t.ringLevel r) := by
  unfold State.ringLevel
  extract_lets x size n half full u v
  have hu : LanesSpared s u := h.same
  have hv : LanesSpared s v := by
    unfold v; split
    · exact hu.raiseEvent _ _
    · exact hu
  split
  · split
    · exact hv.raiseEvent _ _
    · exact hv
  · exact hu

theorem traceTo (h : LanesSpared s t) (r : Nat) (c : Compl) (g : TraceTag) : LanesSpared s (t.traceTo r c g) := by
  unfold State.traceTo
  split
  · exact h
  · extract_lets x size u v
    split
    · split
      · exact (h.perfCount _ _).fnCount _ _ _
      · exact h.perfCount _ _
    · exact (LanesSpared.startWrite (t := v) h.same _ _ _ _ _).ringLevel _

theorem traceEnd (h : LanesSpared s t) (c : Compl) (d : Bool) : LanesSpared s (t.traceEnd c d) := by
  unfold State.traceEnd
  split
  · exact h
  · split
    · exact h
    · extract_lets _ u v f
      have hv : LanesSpared s v := LanesSpared.traceTo (t := u) h.same _ _ _
      split
      · exact hv
      · exact hv.traceTo _ _ _

theorem writeEntry (h : LanesSpared s t) (c pos : Nat) (k : Compl) : LanesSpared s (t.writeEntry c pos k) := by
  unfold State.writeEntry
  extract_lets k size a u f
  have hu : LanesSpared s u := h.same
  refine traceEnd ?_ _ _
  iterate 4 refine fnCount ?_ _ _ _
  refine perfCount (fnCount (perfCount (perfCount ?_ _ _) _ _) _ _ _) _ _
  exact hu.startWrite (.cqEntry c pos) (fnAttr f true false) a (entryBytes k u.now) none

theorem ungrant (h : LanesSpared s t) (c : Nat) : LanesSpared s (t.ungrant c) := by
  unfold State.ungrant State.cqDrainEnd
  extract_lets u
  split <;> exact h.same

theorem updRq (h : LanesSpared s t) (q : Nat) (f : Rq → Rq) : LanesSpared s (t.updRq q f) := h.same

theorem setFull (h : LanesSpared s t) (c : Nat) (b : Bool) : LanesSpared s (t.setFull c b) :=
  LanesSpared.foldl (t := t.updCq c (fun x => { x with full := b })) h.same (fun _ _ hu => hu.updRq _ _) _

theorem release (h : LanesSpared s t) (k : Compl) : LanesSpared s (t.release k) := by
  unfold State.release
  extract_lets c x u v w y z q
  split
  · exact (h.ungrant c).traceEnd _ _
  · have hu : LanesSpared s u := h.same
    split
    · exact fnCount (t := u.updCq c _) hu.same _ _ _
    · split
      · exact hu.writeEntry _ _ _
      · have hw : LanesSpared s w := fnCount (t := v) hu.same _ _ _
        have hz : LanesSpared s z := (hw.put CQ_ERR.STALLS _ _).raiseEvent _ _
        exact (hz.raiseEvent _ _).setFull _ _

theorem chainReleased (h : LanesSpared s t) (e : Elem) : LanesSpared s (t.chainReleased e) := by
  unfold State.chainReleased
  split
  · exact h
  · exact h.same

theorem releaseAll (h : LanesSpared s t) (n : Nat) : LanesSpared s (t.releaseAll n) := by
  induction n generalizing t with
  | zero => exact h
  | succ n ih =>
    rw [State.releaseAll]
    split
    · exact h
    · split
      · exact h
      · extract_lets _ u v
        have hv : LanesSpared s v := by unfold v; split <;> exact h.same
        exact ih ((hv.chainReleased _).release _)

theorem releaseWaiting (h : LanesSpared s t) : LanesSpared s t.releaseWaiting := h.releaseAll _

/-! ### Chains that end -/

theorem rqRead (h : LanesSpared s t) (q : Nat) : LanesSpared s (t.rqRead q) := by
  unfold State.rqRead
  extract_lets x size i n u
  split
  · exact startRead (t := u) h.same _ _ _ _ _
  · exact h

theorem refill (h : LanesSpared s t) (q : Nat) : LanesSpared s (t.refill q) := by
  unfold State.refill
  split
  · exact h.rqRead _
  · exact h

theorem abortChain (h : LanesSpared s t) (ch : Chain) (status pos : Nat) :
    LanesSpared s (t.abortChain ch status pos) := by
  unfold State.abortChain
  extract_lets u v w
  have hv : LanesSpared s v := by unfold v; split <;> exact h.same
  have hw : LanesSpared s w := hv.foldl (fun _ _ hu => hu.pushAborted _ _ _) _
  split
  · exact hw
  · exact hw.refill _

theorem issueOne (h : LanesSpared s t) : LanesSpared s t.issueOne := by
  unfold State.issueOne
  split
  · exact h
  · extract_lets _ u v w e _ x
    have hv : LanesSpared s v := h.same
    split
    · exact hv.push (by decide) _
    · have hw : LanesSpared s w := hv.fnCount _ _ _
      have hx : LanesSpared s x := (hw.perfCount _ _).fnCount _ _ _
      split
      · exact hw.same
      · split
        · exact hx.same
        · exact hw.same

theorem issueRest (h : LanesSpared s t) : LanesSpared s t.issueRest :=
  h.foldl (fun _ _ hu => hu.issueOne) _

theorem chainOff (h : LanesSpared s t) (e : Elem) : LanesSpared s (t.chainOff e) := by
  unfold State.chainOff
  split
  · exact h
  · exact ((h.issueRest.free (recallChain_within (Part.All.of_all rfl) _ (Within.refl _))).abortChain _ _ _).fnCount _ _ _

/-! ### Ways that a frame unpins -/

theorem failWaiting (h : LanesSpared s t) (e : Elem) (status : Nat) : LanesSpared s (t.failWaiting e status) :=
  push (h.same (u := State.unhold _ _)) (by decide) _

theorem ctxError (h : LanesSpared s t) (kind level handle : Nat) : LanesSpared s (t.ctxError kind level handle) := by
  unfold State.ctxError
  extract_lets a b c u
  refine put ?_ CTX_ERR_INFO.COUNT _ _
  unfold u; split
  · exact h
  · exact (((h.put CTX_ERR_HANDLE.HANDLE _ _).put CTX_ERR_INFO.VALID _ _).put CTX_ERR_INFO.KIND _ _).put CTX_ERR_INFO.LEVEL _ _

theorem wayFailed (h : LanesSpared s t) (k status : Nat) : LanesSpared s (t.wayFailed k status) := by
  unfold State.wayFailed
  extract_lets w u v
  have hv : LanesSpared s v := ((h.ctxError 6 0 w.handle).raiseFault (pg .ctx) 10).same
  split
  · split
    · exact hv.failWaiting _ _
    · exact hv
  · split
    · exact hv.free (retireCmdEnds_within (Part.All.of_all rfl) _ _ (Within.refl v))
    · exact hv

theorem sealWay (h : LanesSpared s t) (k : Nat) : LanesSpared s (t.sealWay k) := by
  unfold State.sealWay
  extract_lets w hd
  split
  · split
    · exact h.wayFailed _ _
    · have hu (f : Way → Way) : LanesSpared s (t.updWay k f) := h.same
      have hn (f : Way → Way) : LanesSpared s ((t.updWay k f).touchNode 1 (hd / 8)) :=
        (hu f).free (touchNode_within (Part.All.of_all rfl) _ _ (Within.refl _))
      exact startWrite (perfCount (hn _) 50 1) _ _ _ _ _
  · exact h

theorem startMissReads (h : LanesSpared s t) (m : Miss) (l : List Nat) (r : Bool) :
    LanesSpared s (t.startMissReads m l r) := by
  unfold State.startMissReads
  extract_lets u v
  have hu : LanesSpared s u := h.same
  have hv : LanesSpared s v := hu.foldl (fun _ _ hw => hw.startRead _ _ _ _ _) _
  split
  · exact hv.startRead _ _ _ _ _
  · exact hv

theorem beginPagein (h : LanesSpared s t) (x : Nat) : LanesSpared s (t.beginPagein x) := by
  unfold State.beginPagein
  split
  · exact h
  · exact (h.perfCount _ _).startMissReads _ _ _

theorem newLeafMiss (h : LanesSpared s t) (x : Nat) : LanesSpared s (t.newLeafMiss x) := by
  unfold State.newLeafMiss
  split
  · split
    · exact beginPagein h.same _
    · exact h
  · exact beginPagein h.same _

theorem writeBack (h : LanesSpared s t) (k : Nat) : LanesSpared s (t.writeBack k) := by
  unfold State.writeBack
  extract_lets w
  split
  · exact h
  · split
    · exact h.sealWay _
    · exact newLeafMiss h.same _

theorem evict (h : LanesSpared s t) (k : Nat) : LanesSpared s (t.evict k) := by
  unfold State.evict
  extract_lets w u
  have hu : LanesSpared s u := h.perfCount _ _
  split
  · exact h.same
  · split
    · exact h.same
    · split
      · exact hu.writeBack _
      · exact hu.free (wipeWay_within (Part.All.of_all rfl) _ (Within.refl u))

theorem unpin (h : LanesSpared s t) (x : Nat) : LanesSpared s (t.unpin x) := by
  unfold State.unpin
  split
  · exact h
  · rename_i k _
    extract_lets u w
    have hu : LanesSpared s u := h.same (u := (t.updWay k _).purgeOld k)
    split
    · exact hu
    · split
      · exact writeBack hu.same _
      · split
        · exact hu.writeBack _
        · split
          · exact evict hu.same _
          · exact hu

/-! ### A frame leaves its quad -/

theorem stage (h : LanesSpared s t) (q a b : Nat) : LanesSpared s (t.stage q a b) := by
  unfold State.stage
  extract_lets u
  have hu : LanesSpared s u := h.same
  split
  · exact hu.put QUAD_STAGE_HWM.HWM _ _
  · exact hu

theorem dropFrame (h : LanesSpared s t) (f : Frame) : LanesSpared s (t.dropFrame f) :=
  unpin (stage h.same _ _ _) _

end LanesSpared
end Sys2Proof.Machine
end

section
/-! PROOFS. The eight frame operations (O26, R75, R81, R82, R85, R86, R88, R91–R95): the lane finishes its frame, commits it and pushes
its completion. -/

namespace Sys2Proof.Machine

set_option Elab.async false

/-! ## A frame leaves its quad (R71, R74) -/

/-- The unpin behind it leaves the lanes, the quads and their frames. -/
theorem dropFrame_frames (s : State) (f : Frame) : (s.dropFrame f).frames =
    (({ s with frames := { s.frames with list := s.frames.list.filter (fun g => g.id != f.id) } } : State).updQuad f.quad
      (fun x => { x with staged := x.staged + 0 - (f.resv + f.outHeld) })).frames :=
  ((unpin_within (F := fun x => x != .frames) (Part.All.of_all rfl) _ (Within.refl _)).frames rfl).trans
    (stage_frames _ _ _ _)

theorem dropFrame_list (s : State) (f : Frame) :
    (s.dropFrame f).frames.list = s.frames.list.filter (fun g => g.id != f.id) := by rw [dropFrame_frames]; rfl

theorem dropFrame_frame? (s : State) (f : Frame) : (s.dropFrame f).frame? f.id = none := by
  simp [State.frame?, dropFrame_list]

theorem dropFrame_lane (s : State) (f : Frame) (n : Nat) : (s.dropFrame f).lane n = s.lane n := by
  rw [lane_congr (dropFrame_frames s f)]; rfl

theorem dropFrame_staged (s : State) (f : Frame) :
    ((s.dropFrame f).quad f.quad).staged = (s.quad f.quad).staged - (f.resv + f.outHeld) := by
  rw [quad_congr (dropFrame_frames s f), quad_updQuad_same, Nat.add_zero]; rfl

/-- No lane's producer pushes. -/
theorem dropFrame_produced (s : State) (f : Frame) {p : Nat} (hp : p < 16) : (s.dropFrame f).produced p = s.produced p :=
  ((LanesSpared.refl s).dropFrame f).pushes p hp

theorem leaveLane_lane (s : State) (f : Frame) : f.id ∉ ((s.leaveLane f).lane f.lane).frames := by
  simp [State.leaveLane]

/-! ## A frame is pushed (R75, R94) -/

theorem countPush_lane (s : State) (f : Frame) (o : Outcome) (n : Nat) : (s.countPush f o).lane n = s.lane n := by
  have ha (u : State) (q : Nat) : (u.authFail q).frames.lanes = u.frames.lanes := by
    unfold State.authFail
    extract_lets v t w
    have hv : v.frames = u.frames :=
      (perfCount_within (F := only [.regs, .hdrs, .irq]) (Part.all_only _) _ _ (Within.refl u)).frames rfl
    split
    · rw [hv]
    · have hw : w.frames = u.frames := hv
      split
      · rw [(raiseEvent_keeps _ _ _).frames rfl]
        exact (show (w.updQuad q _).frames.lanes = w.frames.lanes from rfl).trans (congrArg Frames.lanes hw)
      · rw [hw]
  unfold State.countPush
  split
  · rfl
  · extract_lets d u v
    have hv : v.frames = s.frames :=
      (fnCount_within (F := only [.regs, .hdrs, .irq]) (Part.All.of_all rfl) _ _ _ (fnCount_within (Part.All.of_all rfl) _ _ _
        (fnCount_within (Part.All.of_all rfl) _ _ _ (perfCount_within (Part.all_only _) _ _ (Within.refl s))))).frames rfl
    split
    · unfold State.lane; rw [ha, hv]
    · exact lane_congr hv n

/-- A frame that its lane has finished leaves it, and is counted. -/
def State.offLane (s : State) (f : Frame) (o : Outcome) : State := ((s.replayed f).leaveLane f).countPush f o

theorem offLane_within (s : State) (f : Frame) (o : Outcome) :
    s.Within (only [.regs, .hdrs, .irq, .frames]) (s.offLane f o) :=
  countPush_within (Part.All.of_all rfl) _ _ (leaveLane_within (Part.All.of_all rfl) _
    (replayed_within (Part.All.of_all rfl) _ (Within.refl s)))

theorem offLane_lane (s : State) (f : Frame) (o : Outcome) : f.id ∉ ((s.offLane f o).lane f.lane).frames := by
  rw [State.offLane, countPush_lane]
  exact leaveLane_lane _ f

/-- The bytes that a frame writes to its DST: what it has made, or free values after a failure behind c7 (R93). -/
def State.dstBytes (s : State) (f : Frame) (o : Outcome) : Bytes × State :=
  if o.late then s.freeBytes (min f.elem.d.dstLen f.outHeld) else (o.out, s)

theorem dstBytes_within (s : State) (f : Frame) (o : Outcome) : s.Within (only []) (s.dstBytes f o).2 :=
  within_ite_snd (fun _ => freeBytes_within (Part.All.of_all rfl) _ (Within.refl s)) (fun _ => Within.refl s)

/-- The completion of a frame that its lane has finished. -/
def State.laneCompl (s : State) (f : Frame) (o : Outcome) : Compl :=
  { elem := f.elem.stamp 5 s.now, status := o.status, outLen := o.outLen, reason := o.reason,
    retried := if f.replayOf.isSome then true else f.retried, flags := f.an % 4, value := f.pn % 2 ^ 48 }

/-- The state in which a frame's bytes have gone to its DST. -/
def State.dstWrite (s : State) (f : Frame) (o : Outcome) (data : Bytes) : State :=
  (((s.stage f.quad 0 (f.resv + (f.outHeld - data.length))).updFrame f.id (fun g => { g with
    st := .pushed, committed := some (o.status, o.reason), resv := 0, outHeld := data.length,
    elem := f.elem.stamp 5 s.now, retried := if f.replayOf.isSome then true else f.retried, octets := o.octets,
    key := ([], []) })).startWrite (.frameDst f.id) (f.elem.stamp 5 s.now).attr f.elem.d.dst data (some f.quad)).2

theorem pushFrame_eq (s : State) (f : Frame) (o : Outcome) (u : State) (hu : u = (s.dstBytes f o).2.offLane f o) :
    s.pushFrame f o = if (s.dstBytes f o).1.isEmpty then
        ((u.countFrame f o.status o.octets).dropFrame f).push f.lane (u.laneCompl f o)
      else (u.dstWrite f o (s.dstBytes f o).1).push f.lane { u.laneCompl f o with frame := some f.id } := by
  subst hu
  rfl

theorem dstWrite_keeps (s : State) (f : Frame) (o : Outcome) (data : Bytes) :
    s.Within (only [.regs, .hdrs, .irq, .fab, .frames]) (s.dstWrite f o data) :=
  startWrite_within (Part.All.of_all rfl) _ _ _ _ _ (updFrame_within (Part.All.of_all rfl) _ _
    (stage_within (Part.All.of_all rfl) _ _ _ (Within.refl s)))

theorem dstWrite_lane (s : State) (f : Frame) (o : Outcome) (data : Bytes) (n : Nat) :
    (s.dstWrite f o data).lane n = s.lane n := by
  unfold State.dstWrite
  rw [lane_congr ((startWrite_within (F := only [.regs, .hdrs, .irq, .fab]) (Part.all_only _) _ _ _ _ _
    (Within.refl _)).frames rfl), updFrame_lane, stage_lane]

theorem push_frames (s : State) (p : Nat) (c : Compl) : (s.push p c).frames = s.frames :=
  (push_within (F := only [.hdrs, .irq, .crown]) (Part.all_only _) p c (Within.refl s)).frames rfl

theorem push_fab (s : State) (p : Nat) (c : Compl) : (s.push p c).fab = s.fab :=
  (push_within (F := only [.hdrs, .irq, .crown]) (Part.all_only _) p c (Within.refl s)).fab rfl

theorem countFrame_keeps (s : State) (f : Frame) (st n : Nat) : s.Within (only [.ctx]) (s.countFrame f st n) :=
  countFrame_within (Part.all_only _) f st n (Within.refl s)

/-- The state between a lane and what it has made of its frame. -/
theorem finished_keeps (s : State) (f : Frame) (o : Outcome) :
    s.Within (only [.regs, .hdrs, .irq, .frames]) ((s.dstBytes f o).2.offLane f o) :=
  Within.trans (within_of_only (dstBytes_within s f o)) (offLane_within _ f o)

theorem pushFrame_completes (s : State) {f : Frame} (o : Outcome) (hf : f.lane < 16) :
    s.Completes (s.pushFrame f o) f.lane f.elem o.status o.reason := by
  have hs := finished_keeps s f o
  rw [pushFrame_eq s f o _ rfl]
  generalize (s.dstBytes f o).2.offLane f o = u at hs ⊢
  refine State.Completes.of_stamp (pt := 5) (now := u.now) ?_
  split
  · refine (push_completes _ f.lane (u.laneCompl f o)).of_produced ?_
    rw [dropFrame_produced _ f hf, produced_congr ((countFrame_keeps u f _ _).crown rfl), produced_congr (hs.crown rfl)]
  · exact (push_completes _ f.lane { u.laneCompl f o with frame := some f.id }).of_crown
      (((dstWrite_keeps u f o _).crown rfl).trans (hs.crown rfl))

theorem pushFrame_lane (s : State) (f : Frame) (o : Outcome) : f.id ∉ ((s.pushFrame f o).lane f.lane).frames := by
  have hl := offLane_lane (s.dstBytes f o).2 f o
  rw [pushFrame_eq s f o _ rfl]
  split
  · rwa [lane_congr (push_frames _ _ _), dropFrame_lane, lane_congr ((countFrame_keeps _ f _ _).frames rfl)]
  · rwa [lane_congr (push_frames _ _ _), dstWrite_lane]

/-- What a run of requests makes of the ports depends on the ports and on the outputs alone. -/
theorem issueReqs_fab_congr {α : Type} (p : α → Nat) (q : α → FabReq) (l : List α) {s t : State} (hf : t.fab = s.fab)
    (ho : t.fabricOn = s.fabricOn) :
    (l.foldl (fun u x => u.issueReq (p x) (q x)) t).fab = (l.foldl (fun u x => u.issueReq (p x) (q x)) s).fab := by
  induction l generalizing s t with
  | nil => exact hf
  | cons x l ih =>
    exact ih (issueReq_fab_congr _ _ hf ho) ((issueReq_fabricOn _ _ _).trans (ho.trans (issueReq_fabricOn _ _ _).symm))

theorem startWrite_fab_congr {s t : State} (k : XKind) (a : Attr) (x : Nat) (b : Bytes) (p : Option Nat)
    (hf : t.fab = s.fab) (ho : t.fabricOn = s.fabricOn) : (t.startWrite k a x b p).2.fab = (s.startWrite k a x b p).2.fab := by
  have hn : (t.newXfer k (accesses x b.length).length).1 = (s.newXfer k (accesses x b.length).length).1 := by
    simp only [State.newXfer, hf]
  unfold State.startWrite
  simp only [hn]
  exact issueReqs_fab_congr _ _ _ (by simp only [State.newXfer, hf]) ho

theorem pushFrame_fab (s : State) (f : Frame) {o : Outcome} (hl : o.late = false) (ho : o.out ≠ []) :
    (s.pushFrame f o).fab = (s.startWrite (.frameDst f.id) f.elem.attr f.elem.d.dst o.out (some f.quad)).2.fab := by
  have hs := finished_keeps s f o
  have hd : (s.dstBytes f o).1 = o.out := by simp [State.dstBytes, hl]
  rw [pushFrame_eq s f o _ rfl, hd, if_neg (by simpa using ho), push_fab]
  generalize (s.dstBytes f o).2.offLane f o = u at hs ⊢
  have hv := updFrame_within (F := only [.regs, .frames]) (Part.All.of_all rfl) f.id (fun g => { g with
    st := .pushed, committed := some (o.status, o.reason), resv := 0, outHeld := o.out.length,
    elem := f.elem.stamp 5 u.now, retried := if f.replayOf.isSome then true else f.retried, octets := o.octets,
    key := ([], []) }) (stage_within (Part.All.of_all rfl) f.quad 0 (f.resv + (f.outHeld - o.out.length)) (Within.refl u))
  have ha : (f.elem.stamp 5 u.now).attr = f.elem.attr := by simp [Elem.attr]
  unfold State.dstWrite
  rw [ha]
  exact startWrite_fab_congr _ _ _ _ _ ((hv.fab rfl).trans (hs.fab rfl))
    ((hv.fabricOn rfl rfl rfl rfl).trans (hs.fabricOn rfl rfl rfl rfl))

/-! ## The commit of a received frame (R92) -/

/-- What a frame completes as: a received one that the replay state refuses at its commit with REPLAY. -/
def State.committed (s : State) (k : Nat) (f : Frame) (o : Outcome) : Outcome :=
  let late := (commitRx (s.clearCtx k) f.slotB f.pn).1
  if o.status = stOk ∧ (f.elem.d.opcode = 0x11 ∨ f.elem.d.opcode = 0x13) ∧ late ≠ 0 then
    { lateFail stReplay late with octets := 0 }
  else o

theorem commitFrame_fst {s : State} {f : Frame} {k : Nat} (o : Outcome) (hk : s.findWay f.elem.d.object = some k) :
    (s.commitFrame f o).1 = s.committed k f o := by
  unfold State.commitFrame State.committed
  simp only [hk]
  by_cases h : o.status = 0 ∧ (f.elem.d.opcode == 0x11 || f.elem.d.opcode == 0x13) = true
  · have hr : o.status = stOk ∧ (f.elem.d.opcode = 0x11 ∨ f.elem.d.opcode = 0x13) := by simpa [stOk] using h
    rw [if_pos h]
    by_cases hl : (commitRx (s.clearCtx k) f.slotB f.pn).1 = 0
    · simp [hl, apply_ite Prod.fst]
    · simp [hl, hr, apply_ite Prod.fst]
  · rw [if_neg h, if_neg (fun c => h (by simpa [stOk] using ⟨c.1, c.2.1⟩))]

theorem commitFrame_keeps (s : State) (f : Frame) (o : Outcome) : s.Within (only [.ctx]) (s.commitFrame f o).2 :=
  commitFrame_within (Part.all_only _) f o (Within.refl s)

theorem committed_result (s : State) (k : Nat) (f : Frame) (o : Outcome) :
    ((s.committed k f o).status, (s.committed k f o).reason) =
      (if o.status = stOk ∧ (f.elem.d.opcode = 0x11 ∨ f.elem.d.opcode = 0x13) ∧ (commitRx (s.clearCtx k) f.slotB f.pn).1 ≠ 0
        then (stReplay, (commitRx (s.clearCtx k) f.slotB f.pn).1) else (o.status, o.reason)) := by
  unfold State.committed
  extract_lets late
  split <;> rfl

/-- A frame that completes OK completes with what its lane has made of it. -/
theorem committed_ok {s : State} {k : Nat} {f : Frame} {o : Outcome} (h : (s.committed k f o).status = stOk) :
    s.committed k f o = o := by
  unfold State.committed at h ⊢
  extract_lets at h ⊢
  split
  · rw [if_pos ‹_›] at h; cases h
  · rfl

/-! ## The eight frame operations (R75) -/

theorem exec_frameOp {c : Instr} {n op : Nat} (h : (c, op) ∈ [(Instr.macsecProtect n, 0x10), (.macsecValidate n, 0x11),
    (.espEncrypt n, 0x12), (.espDecrypt n, 0x13), (.gcmSeal n, 0x14), (.gcmOpen n, 0x15), (.chachaSeal n, 0x16),
    (.chachaOpen n, 0x17)]) (s : State) : exec c s = .next (s.laneOp n op) := by
  simp only [List.mem_cons, Prod.mk.injEq, List.not_mem_nil, or_false] at h
  rcases h with ⟨rfl, rfl⟩ | ⟨rfl, rfl⟩ | ⟨rfl, rfl⟩ | ⟨rfl, rfl⟩ | ⟨rfl, rfl⟩ | ⟨rfl, rfl⟩ | ⟨rfl, rfl⟩ | ⟨rfl, rfl⟩ <;> rfl

theorem laneFinish_runs {s : State} {n k : Nat} {f : Frame} {l : List Nat} (hl : (s.lane n).frames = f.id :: l)
    (hf : s.frame? f.id = some f) (hq : s.quadClock f.quad = true) (hx : f.failed = false) (hc : f.complete = true)
    (hn : f.committed = none) (hk : s.findWay f.elem.d.object = some k) (hw : (s.way k).st ≠ .filling) (o : Outcome)
    (ho : o = laneRun (s.clearCtx k) f.key.1 f.key.2 f.an f.pn f.elem.d f.input) :
    s.laneFinish n f.elem.d.opcode = (s.commitFrame f o).2.pushFrame f (s.commitFrame f o).1 := by
  subst ho
  simp [State.laneFinish, hl, hf, hq, hx, hc, hn, hk, hw]

/-- Settles O26: the lane's frame is committed and pushed. -/
theorem lanesRunTheirFrames : Obligations.LanesRunTheirFrames := by
  intro s c n op k st r late f l o hw hn hc hl hf hop hlane hq hx hcomp hnone hk hway ho hlate hst
  subst hop hlane hlate
  rw [← committed_result] at hst
  obtain ⟨rfl, rfl⟩ := Prod.mk.inj hst
  have he : exec c s = .next (s.laneOp f.lane f.elem.d.opcode) := exec_frameOp hc s
  have hrun := laneFinish_runs hl hf hq hx hcomp hnone hk hway o ho
  have hcm := commitFrame_keeps s f o
  rw [commitFrame_fst o hk] at hrun
  rw [State.laneOp, work_eq _ hn hw, hrun] at he
  have hfs := frameStep_headers ((s.commitFrame f o).2.pushFrame f (s.committed k f o))
  refine ⟨_, he, ?_, ?_, fun hok hol hne => ?_⟩
  · exact ((pushFrame_completes _ _ hn).of_crown (hcm.crown rfl)).then_crown (hfs.crown rfl)
  · rw [lane_congr (hfs.frames rfl)]
    exact pushFrame_lane _ f _
  · rw [hfs.fab rfl, committed_ok hok, pushFrame_fab _ f hol hne]
    exact startWrite_fab_congr _ _ _ _ _ (hcm.fab rfl) (hcm.fabricOn rfl rfl rfl rfl)

end Sys2Proof.Machine
end

section
/-! PROOFS. FRAME_DST_WRITES_DONE, AFAIL_WINDOW_END and STAGING_ECC_ERROR (O27, R94, R98, R100). -/

namespace Sys2Proof.Machine

set_option Elab.async false

/-! ## Blocks that change state: faults and events stay -/

/-- STATE_CHG is set on a page that shows a block's state. -/
theorem setHdrAt_changed_rise (s : State) (n : Nat) : BitsRise s (s.setHdrAt n (s.hdrAt n).changed) := by
  constructor <;> intro p b hb <;> unfold State.hdr at hb ⊢ <;> by_cases hp : pageNum p = n
  · rw [hp] at hb ⊢; rwa [hdrAt_setHdrAt_same]
  · rwa [hdrAt_setHdrAt_ne _ _ hp]
  · rw [hp] at hb ⊢; rw [hdrAt_setHdrAt_same]; simp [Hdr.changed, hb]
  · rwa [hdrAt_setHdrAt_ne _ _ hp]

theorem setBlk_rise (s : State) (p : PageRef) (b : BlkState) : BitsRise s (s.setBlk p b) := by
  unfold State.setBlk
  extract_lets h u
  split
  · exact .refl s
  · split
    · exact setHdr_rise s p _ (fun _ => id) (fun _ => id)
    · have hu : BitsRise s u := setHdr_rise s p _ (fun _ => id) (fun i hi => by simp [Hdr.changed, h, hi])
      exact hu.trans (.foldl setHdrAt_changed_rise _ u)

theorem follow_lane_rise (s : State) (n : Nat) : BitsRise s (s.follow (lanePg n)) := by
  have hs : BitsRise s (if s.clkHolds (lanePg n) then s else s.enOff (lanePg n)) := by
    split
    · exact .refl s
    · unfold State.enOff
      extract_lets u
      rw [goDown_lane]
      split
      · exact (updHdr_rise s _ _).trans (setBlk_rise u _ _)
      · exact updHdr_rise s _ _
  unfold State.follow
  cases (s.hdr (lanePg n)).st with
  | off =>
    simp only [State.tryUp, upStarts_lane]
    split
    · exact (setBlk_rise s _ _).trans (updHdr_rise _ _ _)
    · exact .refl s
  | comingUp | on | goingDown => exact hs
  | fenced => exact .refl s

/-- The lanes' step after a step of frames clears no fault and no event, and writes no register. -/
theorem frameStep_pages (s : State) : LanePages s s.frameStep := by
  refine ⟨?_, fun r n _ => (frameStep_headers s).reg_eq rfl r n⟩
  unfold State.frameStep State.lanesFollow
  refine .foldl (fun t q => ?_) _ s
  split
  · exact .foldl (fun u n => follow_lane_rise u n) _ t
  · exact .refl t

theorem frameStep_frames (s : State) : s.frameStep.frames = s.frames := (frameStep_headers s).frames rfl

theorem frameStep_frame? (s : State) (i : Nat) : s.frameStep.frame? i = s.frame? i :=
  frame?_congr (congrArg Frames.list (frameStep_frames s)) i

/-! ## Completions of a frame that change (R94) -/

theorem Tbl.get_map {α β : Type} (d : α) (h : α → β) (t : Tbl α) (k : Nat) :
    Tbl.get (h d) (t.map (fun p => (p.1, h p.2))) k = h (Tbl.get d t k) := by
  induction t with
  | nil => rfl
  | cons p t ih =>
    obtain ⟨j, a⟩ := p
    show (if j = k then h a else _) = h (if j = k then a else _)
    rw [apply_ite h, ← ih]

theorem mapCompl_fifo (s : State) (i : Nat) (g : Compl → Compl) (p : Nat) :
    (s.mapCompl i g).fifo p = (s.fifo p).map (fun c => if c.frame == some i then g c else c) :=
  Tbl.get_map [] (List.map (fun c : Compl => if c.frame == some i then g c else c)) s.crown.fifos p

section Settle

variable (s : State) (f : Frame) (g : Compl → Compl) (b : Bool)

/-- What ends a chain and releases what waits leaves the frames. -/
theorem settle_frames : (s.settle f g b).frames = ((s.mapCompl f.id g).dropFrame f).frames := by
  unfold State.settle
  extract_lets crowned u v
  refine (releaseWaiting_within (F := fun x => x != .frames) (s := v) (Part.All.of_all rfl) ?_).frames rfl
  exact within_ite (fun _ => chainOff_within (Part.All.of_all rfl) _ (Within.refl v)) (fun _ => Within.refl v)

theorem settle_frame? : (s.settle f g b).frame? f.id = none :=
  (frame?_congr (congrArg Frames.list (settle_frames s f g b)) _).trans (dropFrame_frame? _ _)

theorem settle_staged : ((s.settle f g b).quad f.quad).staged = (s.quad f.quad).staged - (f.resv + f.outHeld) :=
  (congrArg Quad.staged (quad_congr (settle_frames s f g b) _)).trans (dropFrame_staged _ f)

/-- The frame's completion stands in its FIFO in its final form. -/
theorem settle_fifo {p : Nat} {k : Compl} (hk : k ∈ s.fifo p) (hf : k.frame = some f.id) :
    g k ∈ (s.settle f g b).fifo p := by
  have hm : g k ∈ (s.mapCompl f.id g).fifo p := by
    rw [mapCompl_fifo]
    exact List.mem_map.mpr ⟨k, hk, if_pos (by simp [hf])⟩
  unfold State.settle
  extract_lets crowned u v
  have hv : LanesSpared u v := (LanesSpared.refl u).dropFrame f
  refine LanesSpared.fifos (LanesSpared.releaseWaiting ?_) p _ hm
  split
  · exact hv.chainOff _
  · exact hv

end Settle

/-! ## FRAME_DST_WRITES_DONE (R94, R98) -/

/-- What the last answer to a frame's DST writes counts: the retry of the transfer, and the frame unless a write
failed for good. -/
def State.dstAnswered (s : State) (f : Frame) (x : Xfer) : State :=
  if x.failed.isSome then s.xferRetry (quadPg f.quad) x
  else (s.xferRetry (quadPg f.quad) x).countFrame f ((f.committed.map (fun p => p.1)).getD 0) f.octets

theorem dstAnswered_within {F : Part → Bool} {s t : State} (hF : Part.All F [.hdrs, .irq, .ctx]) (f : Frame) (x : Xfer)
    (h : s.Within F t) : s.Within F (t.dstAnswered f x) :=
  have h := xferRetry_within (hF.mono rfl) (quadPg f.quad) x h
  within_ite (fun _ => h) (fun _ => countFrame_within (hF.mono rfl) _ _ _ h)

/-- The final form of the frame's completion. -/
def answeredCompl (x : Xfer) (c : Compl) : Compl :=
  if x.failed.isSome then { c with status := stFabricError, reason := rsnFabric, outLen := 0, frame := none }
  else { c with retried := c.retried || x.retried, frame := none }

theorem answeredCompl_form (x : Xfer) (c : Compl) : (answeredCompl x c).elem = c.elem ∧ (answeredCompl x c).frame = none ∧
    (answeredCompl x c).status = (if x.failed.isSome then stFabricError else c.status) := by
  unfold answeredCompl
  split <;> exact ⟨rfl, rfl, rfl⟩

theorem frameDstDone_eq {s t : State} {i : Nat} {x : Xfer} {f : Frame}
    (hm : s.takeMail (fun k => k == .frameDst i) = some (x, t)) (hf : t.frame? i = some f) :
    s.frameDstDone i = (t.dstAnswered f x).settle f (answeredCompl x) x.failed.isSome := by
  unfold State.frameDstDone
  simp only [hm, hf]
  rfl

theorem frameDstWritesDone_settles {s : State} {i : Nat} {x : Xfer} {f : Frame} (hw : s.working = true)
    (hm : s.fab.mail = [x]) (hk : x.kind = .frameDst i) (hf : s.frame? i = some f) :
    ∃ t, exec (.frameDstWritesDone i) s = .next t ∧ t.frame? i = none ∧
      (t.quad f.quad).staged = (s.quad f.quad).staged - (f.resv + f.outHeld) ∧
      ∀ p k, k ∈ s.fifo p → k.frame = some i → ∃ k', k' ∈ t.fifo p ∧ k'.elem = k.elem ∧ k'.frame = none ∧
        k'.status = (if x.failed.isSome then stFabricError else k.status) := by
  obtain rfl : f.id = i := by simpa using List.find?_some hf
  obtain ⟨u, hu⟩ : ∃ u, s.takeMail (fun k => k == .frameDst f.id) = some (x, u) := by simp [State.takeMail, hm, hk]
  have huw : s.Within (only [.fab]) u := takeMail_within (Part.all_only _) (Within.refl s) hu
  have hv : s.Within (only [.hdrs, .irq, .fab, .ctx]) (u.dstAnswered f x) :=
    dstAnswered_within (Part.All.of_all rfl) f x (takeMail_within (Part.All.of_all rfl) (Within.refl s) hu)
  have he := frameDstDone_eq hu ((frame?_congr (congrArg Frames.list (huw.frames rfl)) _).trans hf)
  generalize u.dstAnswered f x = v at hv he
  refine ⟨(s.frameDstDone f.id).frameStep, ?_, ?_, ?_, fun p k hp hk => ⟨answeredCompl x k, ?_, answeredCompl_form x k⟩⟩
  · exact congrArg Host.Outcome.next (if_pos hw)
  · rw [frameStep_frame?, he, settle_frame?]
  · rw [quad_congr (frameStep_frames _), he, settle_staged, quad_congr (hv.frames rfl)]
  · rw [State.fifo, (frameStep_headers _).crown rfl, he]
    refine settle_fifo v f (answeredCompl x) _ ?_ hk
    rwa [State.fifo, hv.crown rfl]

/-! ## AFAIL_WINDOW_END (R98) -/

theorem afailWindowEnd_restarts {s : State} {q : Nat} (hw : s.working = true) (hq : q < 4) :
    ∃ t, exec (.afailWindowEnd q) s = .next t ∧ t.fld QUAD_AFAIL_CNT.COUNT q = 0 ∧ (t.quad q).afailRaised = false ∧
      (t.quad q).staged = (s.quad q).staged ∧ t.hdrs = s.hdrs ∧
      ∀ r n, r ≠ .QUAD_AFAIL_CNT ∨ n ≠ q → t.reg r n = s.reg r n := by
  refine ⟨_, congrArg Host.Outcome.next (work_eq _ hq hw), ?_, ?_, ?_, rfl, fun r n h => reg_put_ne s 0 h⟩
  · exact fld_put_same s QUAD_AFAIL_CNT.COUNT q 0
  · rw [quad_setQuad_same]
  · rw [quad_setQuad_same]

/-! ## STAGING_ECC_ERROR (R100) -/

theorem exec_stagingEcc {s : State} {i : Nat} {out : Bool} {u : State} (hw : s.working = true)
    (h : s.stagingEcc i out = (false, u)) : exec (.stagingEccError i out) s = .next u.frameStep := by
  show Host.Outcome.next (s.whileWorking _) = _
  rw [State.whileWorking, if_pos hw, h]
  rfl

/-- The state in which a frame's input is read once more. -/
def State.readAgain (s : State) (f : Frame) : State :=
  ((((s.raiseFault (quadPg f.quad) 10).dropXfers (fun k => k == .frameSrc f.id)).updFrame f.id
    (fun g => { g with src := [], complete := false, reread := true })).startRead (.frameSrc f.id) f.elem.attr f.elem.d.src
      f.elem.d.srcLen (some f.quad)).2

theorem stagingEcc_input {s : State} {f : Frame} (hf : s.frame? f.id = some f)
    (hs : f.st = .reading ∨ f.st = .inLane) (hr : f.reread = false) : s.stagingEcc f.id false = (false, s.readAgain f) := by
  unfold State.stagingEcc
  rw [hf]
  rcases hs with h | h <;> simp [h, hr, State.readAgain]

theorem stagingEcc_output {s : State} {f : Frame} (hf : s.frame? f.id = some f) (hs : f.st = .inLane)
    (hr : f.replayOf = none) : s.stagingEcc f.id true = (false, (((s.raiseFault (quadPg f.quad) 10).leaveLane f).toReplay
      f).updFrame f.id (fun g => { g with bankErr := true })) := by
  unfold State.stagingEcc
  rw [hf]
  simp [hs, hr]

theorem raiseFault_frame? (s : State) (p : PageRef) (b i : Nat) : (s.raiseFault p b).frame? i = s.frame? i :=
  frame?_congr (congrArg Frames.list ((raiseFault_keeps s p b).frames rfl)) i

theorem toReplay_frame? {s : State} {f : Frame} (hf : s.frame? f.id = some f) :
    ∃ g, (s.toReplay f).frame? f.id = some g ∧ g.st = .replay ∧ g.replayOf = some f.lane := by
  unfold State.toReplay
  rw [frame?_updFrame _ _ _ (by exact fun _ => rfl), hf]
  exact ⟨_, rfl, rfl, rfl⟩

theorem readAgain_frame? (s : State) (f : Frame) : (s.readAgain f).frame? f.id =
    (s.frame? f.id).map (fun g => { g with src := [], complete := false, reread := true }) := by
  unfold State.readAgain
  rw [frame?_congr (congrArg Frames.list ((startRead_within (F := fun x => x != .frames) (Part.All.of_all rfl) _ _ _ _ _
    (Within.refl _)).frames rfl)), frame?_updFrame _ _ _ (by exact fun _ => rfl),
    frame?_congr (congrArg Frames.list ((dropXfers_within (F := only [.fab]) (Part.all_only _) _ (Within.refl _)).frames rfl)),
    raiseFault_frame?]

theorem readAgain_fault (s : State) (f : Frame) : ((s.readAgain f).hdr (quadPg f.quad)).fault.getLsbD 10 = true := by
  have h := (LanesSpared.refl (s.raiseFault (quadPg f.quad) 10)).free
    (dropXfers_within (Part.All.of_all rfl) (fun k => k == .frameSrc f.id) (Within.refl _))
  refine BitsRise.faults (LanesSpared.startRead (LanesSpared.same h) _ _ _ _ _).toBitsRise _ _ ?_
  exact raiseFault_bit s (quadPg f.quad) 10 (by decide)

theorem stagingEcc_rereads {s : State} {i : Nat} {f : Frame} (hw : s.working = true) (hf : s.frame? i = some f)
    (hs : f.st = .reading ∨ f.st = .inLane) (hr : f.reread = false) :
    ∃ t g, exec (.stagingEccError i false) s = .next t ∧ t.frame? i = some g ∧ g.src = [] ∧ g.complete = false ∧
      g.reread = true ∧ g.st = f.st ∧ (t.hdr (quadPg f.quad)).fault.getLsbD 10 = true := by
  obtain rfl : f.id = i := by simpa using List.find?_some hf
  refine ⟨_, { f with src := [], complete := false, reread := true }, exec_stagingEcc hw (stagingEcc_input hf hs hr), ?_, rfl,
    rfl, rfl, rfl, ?_⟩
  · rw [frameStep_frame?, readAgain_frame?, hf]
    rfl
  · exact (frameStep_pages _).faults _ _ (readAgain_fault s f)

theorem stagingEcc_replays {s : State} {i : Nat} {f : Frame} (hw : s.working = true) (hf : s.frame? i = some f)
    (hs : f.st = .inLane) (hr : f.replayOf = none) :
    ∃ t g, exec (.stagingEccError i true) s = .next t ∧ t.frame? i = some g ∧ g.st = FrameSt.replay ∧
      g.replayOf = some f.lane ∧ i ∉ (t.lane f.lane).frames ∧ (t.hdr (quadPg f.quad)).fault.getLsbD 10 = true := by
  obtain rfl : f.id = i := by simpa using List.find?_some hf
  have h0 := (raiseFault_frame? s (quadPg f.quad) 10 f.id).trans hf
  obtain ⟨g, hg, hst, hof⟩ := toReplay_frame? (s := (s.raiseFault (quadPg f.quad) 10).leaveLane f) h0
  refine ⟨_, { g with bankErr := true }, exec_stagingEcc hw (stagingEcc_output hf hs hr), ?_, hst, hof, ?_, ?_⟩
  · rw [frameStep_frame?, frame?_updFrame _ _ _ (by exact fun _ => rfl), hg]
    rfl
  · rw [lane_congr (frameStep_frames _), updFrame_lane, State.toReplay, updFrame_lane]
    exact leaveLane_lane _ f
  · exact (frameStep_pages _).faults _ _ (raiseFault_bit s (quadPg f.quad) 10 (by decide))

/-- Settles O27: the writes' last answer, the window's end, and the two staging errors, each by its theorem above. -/
theorem framesEndWithTheirWrites : Obligations.FramesEndWithTheirWrites :=
  ⟨fun _ _ _ _ hw hm hk hf => frameDstWritesDone_settles hw hm hk hf, fun _ _ hw hq => afailWindowEnd_restarts hw hq,
    fun _ _ _ hw hf hs hr => stagingEcc_rereads hw hf hs hr, fun _ _ _ hw hf hs hr => stagingEcc_replays hw hf hs hr⟩

end Sys2Proof.Machine
end

section
/-! PROOFS. LANE_ERROR (R96): the frame that is given up for a replay, and the replay that fails and fences its quad. -/

namespace Sys2Proof.Machine

set_option Elab.async false

/-! ## The record of an error (R96) -/

/-- LANE_ERR with its first error in it. -/
def State.laneFirst (s : State) (n c st : Nat) : State :=
  if s.flag LANE_ERR.VALID n then s
  else ((s.putFlag LANE_ERR.VALID n true).put LANE_ERR.CAUSE n c).put LANE_ERR.STAGE n st

theorem laneRecord_eq (s : State) (n c st : Nat) :
    s.laneRecord n c st = (s.laneFirst n c st).bump LANE_ERR.COUNT n 1 := rfl

theorem laneFirst_valid (s : State) (n c st : Nat) : (s.laneFirst n c st).flag LANE_ERR.VALID n = true := by
  unfold State.laneFirst
  split
  · assumption
  · exact (congrArg (· == 1) ((fld_put_apart _ n n st).trans (fld_put_apart _ n n c))).trans (flag_putFlag_same s _ n true)

theorem laneFirst_count (s : State) (n c st : Nat) :
    (s.laneFirst n c st).fld LANE_ERR.COUNT n = s.fld LANE_ERR.COUNT n := by
  unfold State.laneFirst
  split
  · rfl
  · rw [fld_put_apart _ n n st, fld_put_apart _ n n c]
    exact fld_put_apart s n n (b2n true)

theorem laneFirst_error {s : State} {n c st : Nat} (hc : c ≤ 4) (hst : st < 18) (h : s.flag LANE_ERR.VALID n = false) :
    (s.laneFirst n c st).fld LANE_ERR.CAUSE n = c ∧ (s.laneFirst n c st).fld LANE_ERR.STAGE n = st := by
  rw [State.laneFirst, h, if_neg Bool.false_ne_true]
  constructor
  · rw [fld_put_apart _ n n st, fld_put_same _ LANE_ERR.CAUSE n c]
    exact Nat.mod_eq_of_lt (show c < 16 by omega)
  · rw [fld_put_same _ LANE_ERR.STAGE n st]
    exact Nat.mod_eq_of_lt (show st < 32 by omega)

/-- The fields beside COUNT are those of the first error. -/
theorem laneRecord_fld (s : State) (n c st : Nat) {f : Fld} (hf : f.ok = true := by rfl)
    (ha : Fld.apart LANE_ERR.COUNT f = true := by rfl) :
    (s.laneRecord n c st).fld f n = (s.laneFirst n c st).fld f n := by
  rw [laneRecord_eq]
  exact fld_put_apart _ n n _ (by rfl) hf ha

theorem laneRecord_count (s : State) (n c st : Nat) :
    (s.laneRecord n c st).fld LANE_ERR.COUNT n = min (s.fld LANE_ERR.COUNT n + 1) 0xFFFF := by
  rw [laneRecord_eq, fld_bump_same _ LANE_ERR.COUNT n 1, laneFirst_count]
  rfl

theorem laneRecord_regsBut (s : State) (n c st : Nat) : RegsBut [.LANE_ERR] s (s.laneRecord n c st) := by
  rw [laneRecord_eq]
  refine RegsBut.trans ?_ (.of_put _ LANE_ERR.COUNT n _)
  unfold State.laneFirst
  split
  · exact .refl _ _
  · exact ((RegsBut.of_putFlag s LANE_ERR.VALID n true).trans (.of_put _ LANE_ERR.CAUSE n c)).trans
      (.of_put _ LANE_ERR.STAGE n st)

/-! ## Lanes that may take a frame (R70) -/

/-- It depends on the blocks, QUAD_LANE_EN, the stalled completions and the lanes alone. -/
theorem laneFit_congr {s t : State} (m : Nat) (hb : t.blk (lanePg m) = s.blk (lanePg m))
    (hr : t.reg .QUAD_LANE_EN (m / 4) = s.reg .QUAD_LANE_EN (m / 4)) (hc : t.crown = s.crown) (hf : t.frames = s.frames) :
    t.laneFit m = s.laneFit m := by
  unfold State.laneFit State.isOn State.stalling
  rw [hb, fld_of_reg (f := QUAD_LANE_EN.LANES) hr, hc, lane_congr hf]

/-! ## LANE_ERROR: a frame is given up for a replay (R96) -/

/-- The error stands in LANE_ERR and in the faults of the lane's page. -/
def State.laneNoted (s : State) (n c st : Nat) : State := (s.laneRecord n c st).raiseFault (lanePg n) 8

theorem laneNoted_keeps (s : State) (n c st : Nat) : s.Within (only [.regs, .hdrs, .irq]) (s.laneNoted n c st) :=
  raiseFault_within (Part.All.of_all rfl) _ _ (laneRecord_within (Part.All.of_all rfl) _ _ _ (Within.refl s))

theorem laneNoted_fld (s : State) (n c st : Nat) (f : Fld) :
    (s.laneNoted n c st).fld f n = (s.laneRecord n c st).fld f n := by
  unfold State.fld State.reg State.laneNoted; rw [raiseFault_regs]

theorem laneNoted_fit (s : State) (n c st m : Nat) : (s.laneNoted n c st).laneFit m = s.laneFit m := by
  have h := laneNoted_keeps s n c st
  refine laneFit_congr m (h.blk_eq rfl _) ?_ (h.crown rfl) (h.frames rfl)
  refine Eq.trans ?_ (laneRecord_regsBut s n c st .QUAD_LANE_EN (m / 4) (by decide))
  unfold State.reg State.laneNoted; rw [raiseFault_regs]

/-- The frame goes back, and the lane owes a check. -/
def State.laneGivesUp (s : State) (n : Nat) (f : Frame) : State :=
  ((s.leaveLane f).toReplay f).updLane n (fun x => { x with check := .waiting, erring := true })

theorem laneErr_first {s : State} {n c st : Nat} {f : Frame} (hr : f.replayOf = none)
    (ho : (quadLanes f.quad).any (fun m => m != n && s.laneFit m) = true) :
    s.laneErr n c st f = (false, (s.laneNoted n c st).laneGivesUp n f) := by
  have ha : (quadLanes f.quad).any (fun m => m != n && (s.laneNoted n c st).laneFit m) = true := by
    simpa only [laneNoted_fit] using ho
  unfold State.laneErr
  simp only [hr]
  rw [show (s.laneRecord n c st).raiseFault (lanePg n) 8 = s.laneNoted n c st from rfl, ha]
  simp [State.laneGivesUp]

theorem quadAfter_ok (q : Nat) (s : State) : quadAfter q (false, s) = s := rfl

theorem quadAfter_bad (q : Nat) (s : State) : quadAfter q (true, s) = s.quadFails q := rfl

theorem exec_laneError {s : State} {n i c st : Nat} {f : Frame} (hw : s.working = true) (hn : n < 16)
    (hi : (s.lane n).frames[i]? = some f.id) (hf : s.frame? f.id = some f)
    (hu : s.isOn (lanePg n) = true ∨ s.blk (lanePg n) = .goingDown) :
    exec (.laneError n i c st) s = .next (quadAfter f.quad (s.laneErr n c st f)).frameStep := by
  show Host.Outcome.next (s.work n 16 _) = _
  rw [work_eq _ hn hw, hi, Option.bind_some, hf]
  rcases hu with h | h <;> simp [h]

theorem laneError_givesUp {s : State} {n i c st : Nat} {f : Frame} (hw : s.working = true) (hn : n < 16) (hc : c ≤ 4)
    (hst : st < 18) (hi : (s.lane n).frames[i]? = some f.id) (hf : s.frame? f.id = some f) (hl : f.lane = n)
    (hr : f.replayOf = none) (hu : s.isOn (lanePg n) = true ∨ s.blk (lanePg n) = .goingDown)
    (ho : (quadLanes f.quad).any (fun m => m != n && s.laneFit m) = true) :
    ∃ t g, exec (.laneError n i c st) s = .next t ∧ t.frame? f.id = some g ∧ g.st = FrameSt.replay ∧ g.replayOf = some n ∧
      f.id ∉ (t.lane n).frames ∧ (t.lane n).check = CheckSt.waiting ∧ (t.lane n).erring = true ∧
      (t.hdr (lanePg n)).fault.getLsbD 8 = true ∧ t.flag LANE_ERR.VALID n = true ∧
      (s.flag LANE_ERR.VALID n = false → t.fld LANE_ERR.CAUSE n = c ∧ t.fld LANE_ERR.STAGE n = st) ∧
      t.fld LANE_ERR.COUNT n = min (s.fld LANE_ERR.COUNT n + 1) 0xFFFF := by
  subst hl
  have he := exec_laneError (c := c) (st := st) hw hn hi hf hu
  rw [laneErr_first hr ho, quadAfter_ok] at he
  have hx := laneNoted_keeps s f.lane c st
  have hb : ((s.laneNoted f.lane c st).hdr (lanePg f.lane)).fault.getLsbD 8 = true := raiseFault_bit _ _ 8 (by decide)
  have hrec := laneNoted_fld s f.lane c st
  generalize s.laneNoted f.lane c st = x at he hx hb hrec
  have hfx : (x.leaveLane f).frame? f.id = some f := (frame?_congr (congrArg Frames.list (hx.frames rfl)) _).trans hf
  obtain ⟨g, hg, hgs, hgo⟩ := toReplay_frame? hfx
  have hlane : (x.laneGivesUp f.lane f).frameStep.lane f.lane =
      { (x.leaveLane f).lane f.lane with check := .waiting, erring := true } := by
    rw [lane_congr (frameStep_frames _), State.laneGivesUp, lane_updLane_same]
    rfl
  have hfld (d : Fld) : (x.laneGivesUp f.lane f).frameStep.fld d f.lane = (s.laneRecord f.lane c st).fld d f.lane :=
    (fld_of_reg ((frameStep_headers _).reg_eq rfl _ _)).trans (hrec d)
  refine ⟨_, g, he, ?_, hgs, hgo, ?_, ?_, ?_, (frameStep_pages _).faults _ _ hb, ?_, fun hv => ?_, ?_⟩
  · exact (frameStep_frame? _ _).trans hg
  · rw [hlane]; exact leaveLane_lane x f
  · rw [hlane]
  · rw [hlane]
  · exact (congrArg (· == 1) ((hfld LANE_ERR.VALID).trans (laneRecord_fld s f.lane c st))).trans (laneFirst_valid s f.lane c st)
  · rw [hfld, hfld, laneRecord_fld, laneRecord_fld]
    exact laneFirst_error hc hst hv
  · rw [hfld, laneRecord_count]

/-! ## Frames that end otherwise -/

theorem raiseFault_pages (s : State) (p : PageRef) (b : Nat) : LanePages s (s.raiseFault p b) :=
  ((LanesSpared.refl s).raiseFault p b).toLanePages

theorem lasting_pages (s : State) (p : PageRef) : LanePages s (s.lasting p) :=
  ⟨lasting_rise s p,
    fun r n _ => (lasting_within (F := only [.hdrs, .irq]) (Part.all_only _) p (Within.refl s)).reg_eq rfl r n⟩

theorem push_pages (s : State) (p : Nat) (c : Compl) : LanePages s (s.push p c) := by
  unfold State.push
  extract_lets d l u
  split
  · have hu : LanePages s u := ⟨.of_hdrs rfl, fun _ _ _ => rfl⟩
    split
    · exact hu.trans ((LanesSpared.refl u).raiseEvent _ _).toLanePages
    · exact hu
  · exact ⟨.of_hdrs rfl, fun _ _ _ => rfl⟩

theorem settle_pages (s : State) (f : Frame) (g : Compl → Compl) (b : Bool) : LanePages s (s.settle f g b) := by
  unfold State.settle
  extract_lets crowned u v
  have hu : LanePages s u := .of_within (mapCompl_within (Part.All.of_all rfl) _ _ (Within.refl s))
  have hv : LanesSpared u v := (LanesSpared.refl u).dropFrame f
  refine hu.trans (LanesSpared.releaseWaiting ?_).toLanePages
  split
  · exact hv.chainOff _
  · exact hv

theorem endPushed_pages (s : State) (f : Frame) (st r : Nat) : LanePages s (s.endPushed f st r) :=
  (LanePages.of_within (dropXfers_within (Part.All.of_all rfl) _ (Within.refl s))).trans (settle_pages _ _ _ _)

/-- The state in which a frame has left its transfers and its lane. -/
def State.frameOut (s : State) (f : Frame) : State :=
  (s.dropXfers (fun k => k == .frameSrc f.id || k == .frameDst f.id)).leaveLane f

theorem frameOut_within {F : Part → Bool} (hF : Part.All F [.fab, .frames]) (s : State) (f : Frame) :
    s.Within F (s.frameOut f) :=
  leaveLane_within (hF.mono rfl) _ (dropXfers_within (hF.mono rfl) _ (Within.refl s))

theorem leaveLane_list (s : State) (f : Frame) : (s.leaveLane f).frames.list = s.frames.list := rfl

theorem frameOut_list (s : State) (f : Frame) : (s.frameOut f).frames.list = s.frames.list := by
  rw [State.frameOut, leaveLane_list, (dropXfers_within (F := only [.fab]) (Part.all_only _) _ (Within.refl s)).frames rfl]

theorem endFrame_eq (s : State) (f : Frame) (p st r : Nat) : s.endFrame f p st r =
    ((s.frameOut f).dropFrame f).push p
      { elem := f.elem, status := st, reason := r, retried := f.retried, flags := f.an % 4, value := f.pn % 2 ^ 48 } :=
  rfl

theorem endFrame_pages (s : State) (f : Frame) (p st r : Nat) : LanePages s (s.endFrame f p st r) := by
  rw [endFrame_eq]
  exact ((LanePages.of_within (frameOut_within (Part.All.of_all rfl) s f)).trans
    ((LanesSpared.refl _).dropFrame f).toLanePages).trans (push_pages _ _ _)

/-- A lane's producer pushes the completion, and nothing besides. -/
theorem endFrame_completes (s : State) (f : Frame) {p : Nat} (hp : p < 16) (st r : Nat) :
    s.Completes (s.endFrame f p st r) p f.elem st r := by
  rw [endFrame_eq]
  refine (push_completes _ p _).of_produced ?_
  rw [dropFrame_produced _ f hp, produced_congr ((frameOut_within (F := only [.fab, .frames]) (Part.all_only _) s f).crown rfl)]

theorem endFrame_list (s : State) (f : Frame) (p st r : Nat) :
    (s.endFrame f p st r).frames.list = s.frames.list.filter (fun g => g.id != f.id) := by
  rw [endFrame_eq, push_frames, dropFrame_list, frameOut_list]

theorem endFrames_pages (s : State) (p : Frame → Bool) (st : Nat) : LanePages s (s.endFrames p st) := by
  refine .foldl (fun u f => ?_) _ s
  split
  · exact endPushed_pages u f st 0
  · exact endFrame_pages u f 25 st 0
  · exact endFrame_pages u f f.lane st 0

/-! ## The fence of a lane or of a quad (R41, R73, R96) -/

/-- From s to t headers, interrupts and registers of other pages than the lanes' may change, no fault and no event falls. -/
structure FenceStep (s t : State) : Prop extends LanePages s t where
  keeps : s.Within (only [.regs, .blocks, .hdrs, .irq]) t

namespace FenceStep

theorem trans {s t u : State} (h : FenceStep s t) (k : FenceStep t u) : FenceStep s u :=
  ⟨h.toLanePages.trans k.toLanePages, Within.trans h.keeps k.keeps⟩

/-- A step of headers and interrupts that clears no fault and no event. -/
theorem of_rise {s t : State} (h : s.Within (only [.blocks, .hdrs, .irq]) t) (k : BitsRise s t) : FenceStep s t :=
  ⟨⟨k, fun r n _ => h.reg_eq rfl r n⟩, within_of_only h⟩

theorem setBlk (s : State) (p : PageRef) (b : BlkState) : FenceStep s (s.setBlk p b) :=
  .of_rise (setBlk_within (Part.All.of_all rfl) _ _ (Within.refl s)) (setBlk_rise s p b)

theorem raiseFault (s : State) (p : PageRef) (b : Nat) : FenceStep s (s.raiseFault p b) :=
  .of_rise (raiseFault_within (Part.All.of_all rfl) _ _ (Within.refl s)) (raiseFault_rise s p b)

theorem logFence (s : State) (a b c d : Nat) : FenceStep s (s.logFence a b c d) :=
  ⟨⟨.of_hdrs ((logFence_within (F := only [.regs]) (Part.all_only _) _ _ _ _ (Within.refl s)).hdrs rfl),
    fun r n e => logFence_regsBut a b c d r n (by intro h; fin_cases h <;> cases e)⟩,
    logFence_within (Part.All.of_all rfl) _ _ _ _ (Within.refl s)⟩

theorem followLanes (s : State) (l : List Nat) : FenceStep s (l.foldl (fun s n => s.follow (lanePg n)) s) :=
  .of_rise (within_foldl (fun _ n ht => follow_lane_within (Part.All.of_all rfl) n ht) _ (Within.refl s))
    (.foldl (fun u n => follow_lane_rise u n) _ s)

theorem lanesFollow (s : State) : FenceStep s s.lanesFollow :=
  .of_rise (within_of_only (frameStep_headers s)) (frameStep_pages s).toBitsRise

theorem ascending (s : State) (n : Nat) : FenceStep s (s.ascending n) :=
  .of_rise (ascending_within (Part.All.of_all rfl) _ (Within.refl s)) (.of_hdrs rfl)

end FenceStep

/-- A lane or a quad, the units that errors of lanes fence. -/
def FrameUnit (p : PageRef) : Prop := (∃ n, p = lanePg n) ∨ ∃ q, p = quadPg q

/-- The lanes under a quad follow it; under a lane there is nothing. -/
theorem followUnder_unit (s : State) {p : PageRef} (hp : FrameUnit p) : FenceStep s (s.followUnder p) := by
  rcases hp with ⟨n, rfl⟩ | ⟨q, rfl⟩
  · exact FenceStep.followLanes s []
  · exact FenceStep.followLanes s (quadLanes q)

/-- Once the work of such a unit has ended, its fence reaches headers and the fault log alone. -/
theorem enterFenced_unit (s : State) {p : PageRef} (r : FenceRec) (hp : FrameUnit p) (hr : r.level ≠ 5) :
    FenceStep (s.abortBlock p stFenced) (s.enterFenced p r) := by
  have hd : (p.kind == PageKind.dcore) = false ∧ (p.kind == PageKind.dmaChannel) = false := by
    rcases hp with ⟨n, rfl⟩ | ⟨q, rfl⟩ <;> exact ⟨rfl, rfl⟩
  unfold State.enterFenced
  rw [hd.1, hd.2, beq_eq_false_iff_ne.mpr hr]
  simp only [Bool.false_eq_true, if_false]
  generalize s.abortBlock p stFenced = u
  have hh (v : State) : FenceStep v (v.updHdr p (fun h => { h with fence := r, rearm := false, pendFence := none })) :=
    .of_rise (updHdr_within (Part.All.of_all rfl) (Within.refl v)) (updHdr_rise v p _)
  have hmarked := ((FenceStep.setBlk u p .fenced).trans (hh _)).trans (FenceStep.raiseFault _ p 7)
  exact ((hmarked.trans (FenceStep.logFence _ _ _ _ _)).trans (followUnder_unit _ hp)).trans (FenceStep.lanesFollow _)

theorem fence_eq {s : State} {p : PageRef} (c : Nat) (hb : (s.hdr p).st = .on) :
    s.fence p c = (s.enterFenced p ⟨c, fenceLevel p, false⟩).ascending s.irq.msgs.length := by
  rw [State.fence, fenceBlock_up s p _ (.inr hb)]

/-- A unit that is ON and its fence, and the lanes' step behind it. -/
theorem fence_unit {s : State} {p : PageRef} (c : Nat) (hp : FrameUnit p) (hb : (s.hdr p).st = .on) :
    FenceStep (s.abortBlock p stFenced) (s.fence p c).frameStep := by
  have hl : fenceLevel p ≠ 5 := by unfold fenceLevel; split <;> decide
  rw [fence_eq c hb]
  exact ((enterFenced_unit s _ hp hl).trans (FenceStep.ascending _ _)).trans (FenceStep.lanesFollow _)

/-- It is FENCED, and PAGE_FENCE shows why. -/
theorem fence_fenced {s : State} {p : PageRef} (c : Nat) (hb : (s.hdr p).st = .on) :
    ((s.fence p c).frameStep.hdr p).st = .fenced ∧ ((s.fence p c).frameStep.hdr p).fence = ⟨c, fenceLevel p, false⟩ := by
  rw [fence_eq c hb]
  obtain ⟨hst, hf⟩ := enterFenced_hdr s p ⟨c, fenceLevel p, false⟩
  generalize s.enterFenced p ⟨c, fenceLevel p, false⟩ = u at hst hf
  have h := lanesFollow_fenced (u.ascending s.irq.msgs.length) (q := p) hst
  exact ⟨(hst_st h).trans hst, (hst_fence h).trans hf⟩

/-! ## LANE_ERROR in a replay (R96) -/

/-- The error of a replay counts for the lane that erred first, or for the bank. -/
def State.retryCounted (s : State) (f : Frame) (o : Nat) : State :=
  let t := s.lasting (if f.bankErr then quadPg f.quad else lanePg o)
  if (t.lane o).erring then t.updLane o (fun x => { x with replayFailed := true }) else t

theorem retryFailed_eq {s : State} {f : Frame} (o : Nat) (hst : f.st = .inLane) :
    s.retryFailed f o = ((s.raiseFault (quadPg f.quad) 9).endFrame f f.lane stFenced 0).retryCounted f o := by
  unfold State.retryFailed
  rw [hst]
  rfl

theorem retryCounted_pages (s : State) (f : Frame) (o : Nat) : LanePages s (s.retryCounted f o) := by
  unfold State.retryCounted
  extract_lets t
  split
  · exact (lasting_pages s _).trans ⟨.of_hdrs rfl, fun _ _ _ => rfl⟩
  · exact lasting_pages s _

theorem retryCounted_within (s : State) (f : Frame) (o : Nat) : s.Within (only [.hdrs, .irq, .frames]) (s.retryCounted f o) := by
  have hl (p : PageRef) : s.Within (only [.hdrs, .irq, .frames]) (s.lasting p) :=
    lasting_within (Part.All.of_all rfl) p (Within.refl s)
  exact within_ite (fun _ => updLane_within (Part.All.of_all rfl) _ _ (hl _)) (fun _ => hl _)

theorem retryCounted_list (s : State) (f : Frame) (o : Nat) : (s.retryCounted f o).frames.list = s.frames.list := by
  have hl (p : PageRef) : (s.lasting p).frames.list = s.frames.list :=
    congrArg Frames.list ((lasting_within (F := only [.hdrs, .irq]) (Part.all_only _) p (Within.refl s)).frames rfl)
  unfold State.retryCounted
  extract_lets t
  split
  · exact hl _
  · exact hl _

/-- A quad whose only frame has left has no other frame to end. -/
theorem abortBlock_quad {s : State} {q : Nat} (h : ∀ g ∈ s.frames.list, g.quad ≠ q) :
    s.abortBlock (quadPg q) stFenced = s := by
  show (s.frames.list.filter (fun f => f.quad == q)).foldl _ s = s
  rw [List.filter_eq_nil_iff.mpr (by simpa using h)]
  rfl

theorem laneErr_replay {s : State} {n c st o : Nat} {f : Frame} (hr : f.replayOf = some o) :
    s.laneErr n c st f = (true, (s.laneNoted n c st).retryFailed f o) := by
  unfold State.laneErr
  rw [hr]
  rfl

/-- What stands behind the failed replay of the only frame of its quad. -/
theorem retryFailed_lone {s : State} {f : Frame} (o : Nat) (hl : f.lane < 16) (hst : f.st = .inLane)
    (hlone : ∀ g ∈ s.frames.list, g.quad = f.quad → g = f) :
    s.Completes (s.retryFailed f o) f.lane f.elem stFenced 0 ∧ (s.retryFailed f o).frame? f.id = none ∧
      ((s.retryFailed f o).hdr (quadPg f.quad)).fault.getLsbD 9 = true ∧
      ∀ g ∈ (s.retryFailed f o).frames.list, g.quad ≠ f.quad := by
  have hy := raiseFault_keeps s (quadPg f.quad) 9
  have hb : ((s.raiseFault (quadPg f.quad) 9).hdr (quadPg f.quad)).fault.getLsbD 9 = true := raiseFault_bit _ _ 9 (by decide)
  rw [retryFailed_eq o hst]
  generalize s.raiseFault (quadPg f.quad) 9 = y at hy hb ⊢
  have hlist : ((y.endFrame f f.lane stFenced 0).retryCounted f o).frames.list =
      s.frames.list.filter (fun g => g.id != f.id) := by
    rw [retryCounted_list, endFrame_list, hy.frames rfl]
  refine ⟨?_, ?_, ?_, fun g hg hq => ?_⟩
  · exact ((endFrame_completes y f hl stFenced 0).of_crown (hy.crown rfl)).then_crown ((retryCounted_within _ f o).crown rfl)
  · simp [State.frame?, hlist]
  · exact ((endFrame_pages y f f.lane stFenced 0).trans (retryCounted_pages _ f o)).faults _ _ hb
  · rw [hlist, List.mem_filter] at hg
    obtain ⟨hm, hne⟩ := hg
    rw [hlone g hm hq, bne_self_eq_false] at hne
    cases hne

theorem laneError_fences {s : State} {n i c st o : Nat} {f : Frame} (hw : s.working = true) (hn : n < 16)
    (hi : (s.lane n).frames[i]? = some f.id) (hf : s.frame? f.id = some f) (hl : f.lane = n) (hr : f.replayOf = some o)
    (hst : f.st = FrameSt.inLane) (hu : s.isOn (lanePg n) = true ∨ s.blk (lanePg n) = .goingDown)
    (hon : s.isOn (quadPg f.quad) = true) (hlone : ∀ g, g ∈ s.frames.list → g.quad = f.quad → g = f) :
    ∃ t, exec (.laneError n i c st) s = .next t ∧ s.Completes t n f.elem stFenced 0 ∧ t.frame? f.id = none ∧
      (t.hdr (quadPg f.quad)).fault.getLsbD 9 = true ∧ t.blk (quadPg f.quad) = BlkState.fenced ∧
      (t.hdr (quadPg f.quad)).fence = ⟨0x02, 4, false⟩ := by
  subst hl
  have he := exec_laneError (c := c) (st := st) hw hn hi hf hu
  rw [laneErr_replay hr, quadAfter_bad, State.quadFails] at he
  have hx := laneNoted_keeps s f.lane c st
  generalize s.laneNoted f.lane c st = x at he hx
  obtain ⟨hc, hno, hb, hquad⟩ := retryFailed_lone (s := x) o hn hst (by rwa [hx.frames rfl])
  have hblk : ((x.retryFailed f o).hdr (quadPg f.quad)).st = .on := by
    refine Eq.trans ?_ (blk_of_isOn hon)
    exact (retryFailed_within (F := fun p => p != .blocks) (Part.All.of_all rfl) f o (within_of_only hx)).blk_eq rfl (quadPg f.quad)
  generalize x.retryFailed f o = u at he hc hno hb hquad hblk
  have hfs := fence_unit 0x02 (.inr ⟨f.quad, rfl⟩) hblk
  rw [abortBlock_quad hquad] at hfs
  obtain ⟨hsf, hfr⟩ := fence_fenced 0x02 hblk
  refine ⟨_, he, ?_, ?_, hfs.faults _ _ hb, hsf, hfr⟩
  · exact (hc.of_crown (hx.crown rfl)).then_crown (hfs.keeps.crown rfl)
  · exact (frame?_congr (congrArg Frames.list (hfs.keeps.frames rfl)) _).trans hno

end Sys2Proof.Machine
end

section
/-! PROOFS. LANE_REPLAY_START, LANE_CHECK_DONE, LANE_CHECK_RUN, LANE_PERIODIC_CHECK and LANE_ERROR_INJECT (O28, R96, R99). -/

namespace Sys2Proof.Machine

set_option Elab.async false

/-! ## One lane changes -/

theorem lane_updLane_ne (s : State) {n m : Nat} (f : Lane → Lane) (h : m ≠ n) : (s.updLane n f).lane m = s.lane m :=
  Tbl.get_set_ne _ _ _ _ _ h

/-- A change that keeps a lane's frames keeps those of every lane. -/
theorem updLane_laneFrames (s : State) (n m : Nat) {f : Lane → Lane} (hf : ∀ x, (f x).frames = x.frames) :
    ((s.updLane n f).lane m).frames = (s.lane m).frames := by
  by_cases h : m = n
  · subst h; rw [lane_updLane_same, hf]
  · rw [lane_updLane_ne s f h]

/-! ## LANE_REPLAY_START (R96) -/

/-- A replay is with its lane and is counted. -/
def State.replayLoaded (s : State) (q : Nat) (f : Frame) (n : Nat) : State :=
  ((s.toLane f n).bump QUAD_REPLAY.COUNT q 1).updLane (f.replayOf.getD n)
    (fun x => { x with ownReplay := x.ownReplay.filter (· != f.id) })

theorem bump_frames (s : State) (f : Fld) (n k : Nat) : (s.bump f n k).frames = s.frames := rfl

theorem replayLoaded_frame? (s : State) (q : Nat) (f : Frame) (n i : Nat) :
    (s.replayLoaded q f n).frame? i = (s.toLane f n).frame? i := by
  rw [State.replayLoaded, updLane_frame?, frame?_congr (congrArg Frames.list (bump_frames _ _ _ _))]

theorem replayLoaded_lane (s : State) (q : Nat) (f : Frame) (n : Nat) :
    ((s.replayLoaded q f n).lane n).frames = (s.lane n).frames ++ [f.id] := by
  rw [State.replayLoaded, updLane_laneFrames _ _ _ (by exact fun _ => rfl), lane_congr (bump_frames _ _ _ _), toLane_lane]

theorem replayLoaded_count (s : State) (q : Nat) (f : Frame) (n : Nat) :
    (s.replayLoaded q f n).fld QUAD_REPLAY.COUNT q = min (s.fld QUAD_REPLAY.COUNT q + 1) 0xFFFFFFFF := by
  rw [State.replayLoaded,
    fld_of_reg ((updLane_within (F := only [.frames]) (Part.all_only _) _ _ (Within.refl _)).reg_eq rfl _ _),
    fld_bump_same _ QUAD_REPLAY.COUNT q 1, fld_of_reg (f := QUAD_REPLAY.COUNT) (toLane_reg_ne s f n q (by decide))]
  rfl

/-- The lane that erred, where it is another, learns of it. -/
def State.replayTaken (s : State) (q : Nat) (f : Frame) (n : Nat) : State :=
  if n = f.replayOf.getD n then s.replayLoaded q f n
  else (s.replayLoaded q f n).raiseEvent (lanePg (f.replayOf.getD n)) 0

theorem replayTaken_keeps (s : State) (q : Nat) (f : Frame) (n : Nat) :
    (s.replayLoaded q f n).Within (only [.hdrs, .irq]) (s.replayTaken q f n) :=
  within_ite (fun _ => Within.refl _) (fun _ => raiseEvent_keeps _ _ _)

/-- The frame that a quad replays next. -/
def State.replayNext (s : State) (q : Nat) : Option Frame :=
  s.frames.list.find? (fun f => f.quad == q && f.st == .replay && s.keyReady f &&
    (quadLanes q).any (fun n => s.replayFit f n))

theorem replayStart_takes {s : State} {q n : Nat} {f : Frame} (hf : s.replayNext q = some f) (hq : s.quadClock q = true)
    (hp : s.pickOf q (fun n => s.replayFit f n) = some n) (hw : s.findWay f.elem.d.object ≠ none) :
    s.replayStart q = s.replayTaken q f n := by
  have hg : (s.findWay f.elem.d.object).isNone = false := by
    rwa [Option.isNone_eq_false_iff, Option.isSome_iff_ne_none]
  unfold State.replayNext at hf
  unfold State.replayStart
  simp only [hf, hq, hp, hg, Bool.not_true, Bool.false_eq_true, if_false]
  rfl

theorem replayStart_gone {s : State} {q : Nat} {f : Frame} (hf : s.replayNext q = some f) (hq : s.quadClock q = true)
    (hw : s.findWay f.elem.d.object = none) : s.replayStart q = s.endFrame f f.lane stFenced 0 := by
  unfold State.replayNext at hf
  unfold State.replayStart
  simp only [hf, hq, hw, Bool.not_true, Bool.false_eq_true, if_false, Option.isNone_none, if_true]

theorem replay_starts {s : State} {q n : Nat} {f : Frame} (hw : s.working = true) (hq : q < 4)
    (hf : s.replayNext q = some f) (hc : s.quadClock q = true)
    (hp : s.pickOf q (fun n => s.replayFit f n) = some n) (hk : s.findWay f.elem.d.object ≠ none) :
    ∃ t g, exec (.laneReplayStart q) s = .next t ∧ t.frame? f.id = some g ∧ g.st = FrameSt.inLane ∧ g.lane = n ∧
      (t.lane n).frames = (s.lane n).frames ++ [f.id] ∧
      t.fld QUAD_REPLAY.COUNT q = min (s.fld QUAD_REPLAY.COUNT q + 1) 0xFFFFFFFF := by
  have he : exec (.laneReplayStart q) s = .next (s.replayTaken q f n).frameStep := by
    rw [← replayStart_takes hf hc hp hk]
    exact congrArg Host.Outcome.next (work_eq _ hq hw)
  obtain ⟨g, hg, hst, hl, -⟩ := toLane_frame? n (List.mem_of_find?_eq_some hf)
  have hr := replayTaken_keeps s q f n
  have hfr := (frameStep_frames _).trans (hr.frames rfl)
  refine ⟨_, g, he, ?_, hst, hl, ?_, ?_⟩
  · rw [frame?_congr (congrArg Frames.list hfr), replayLoaded_frame?, hg]
  · rw [lane_congr hfr, replayLoaded_lane]
  · rw [fld_of_reg ((frameStep_headers _).reg_eq rfl _ _), fld_of_reg (hr.reg_eq rfl _ _), replayLoaded_count]

theorem replay_gone {s : State} {q : Nat} {f : Frame} (hw : s.working = true) (hq : q < 4) (hf : s.replayNext q = some f)
    (hc : s.quadClock q = true) (hk : s.findWay f.elem.d.object = none) :
    ∃ t, exec (.laneReplayStart q) s = .next t ∧ s.Completes t f.lane f.elem stFenced 0 ∧ t.frame? f.id = none := by
  have he : exec (.laneReplayStart q) s = .next (s.endFrame f f.lane stFenced 0).frameStep := by
    rw [← replayStart_gone hf hc hk]
    exact congrArg Host.Outcome.next (work_eq _ hq hw)
  obtain ⟨hcm, hno⟩ := endFrame_gone f.lane stFenced 0 hk
  exact ⟨_, he, hcm.then_crown ((frameStep_headers _).crown rfl), (frameStep_frame? _ _).trans hno⟩

/-! ## LANE_CHECK_DONE (R96, R99) -/

/-- The verdict of a lane's check stands in its page. -/
structure State.CheckShown (t : State) (n : Nat) (pass : Bool) : Prop where
  done : t.flag LANE_CHECK.DONE n = true
  pass : t.flag LANE_CHECK.PASS n = pass
  run : t.flag LANE_CHECK.RUN n = false
  event : (t.hdr (lanePg n)).event.getLsbD 1 = true

/-- The verdict of a check as it is noted. -/
def State.checkNoted (s : State) (n : Nat) (pass : Bool) : State :=
  (((((s.putFlag LANE_CHECK.DONE n true).putFlag LANE_CHECK.PASS n pass).raiseEvent (lanePg n) 1).setLane n
    { s.lane n with check := .idle, erring := false, replayFailed := false, ownReplay := [], replayedOk := 0 }).putFlag
      LANE_CHECK.RUN n false)

theorem lane_setLane_same (s : State) (n : Nat) (x : Lane) : (s.setLane n x).lane n = x := Tbl.get_set_same _ _ _ _

theorem checkNoted_shown (s : State) (n : Nat) (pass : Bool) : (s.checkNoted n pass).CheckShown n pass := by
  have hp {f : Fld} (u : State) (x : Lane) : ((u.raiseEvent (lanePg n) 1).setLane n x).flag f n = u.flag f n :=
    flag_of_reg ((raiseEvent_keeps u _ _).reg_eq rfl _ _)
  refine ⟨?_, ?_, flag_putFlag_same _ LANE_CHECK.RUN n false, raiseEvent_bit _ (lanePg n) 1 (by decide)⟩
  · refine (flag_putFlag_apart _ n n false).trans ((hp _ _).trans ((flag_putFlag_apart _ n n pass).trans ?_))
    exact flag_putFlag_same s LANE_CHECK.DONE n true
  · exact (flag_putFlag_apart _ n n false).trans ((hp _ _).trans (flag_putFlag_same _ LANE_CHECK.PASS n pass))

theorem checkNoted_idle (s : State) (n : Nat) (pass : Bool) : ((s.checkNoted n pass).lane n).check = CheckSt.idle :=
  congrArg Lane.check (lane_setLane_same (State.raiseEvent _ _ _) n _)

namespace State.CheckShown

variable {t u : State} {n : Nat} {pass : Bool}

/-- It stands while LANE_CHECK does and no event falls. -/
theorem kept (h : t.CheckShown n pass) (hr : u.reg .LANE_CHECK n = t.reg .LANE_CHECK n) (hb : BitsRise t u) :
    u.CheckShown n pass :=
  ⟨(flag_of_reg hr).trans h.done, (flag_of_reg hr).trans h.pass, (flag_of_reg hr).trans h.run, hb.events _ _ h.event⟩

theorem pages (h : t.CheckShown n pass) (k : LanePages t u) : u.CheckShown n pass :=
  h.kept (k.laneRegs .LANE_CHECK n rfl) k.toBitsRise

/-- It stands in a lane that is cleared. -/
theorem cleared (h : t.CheckShown n pass) : (t.laneClear n).CheckShown n pass :=
  ⟨(flag_putFlag_apart _ n n false).trans h.done, (flag_putFlag_apart _ n n false).trans h.pass,
    flag_putFlag_same _ LANE_CHECK.RUN n false, h.event⟩

end State.CheckShown

theorem exec_laneCheckDone {s : State} {n : Nat} {pass b : Bool} {u : State} (hw : s.working = true) (hn : n < 16)
    (h : s.laneCheckEnd n pass = (b, u)) :
    exec (.laneCheckDone n pass) s = .next (if b then u.fence (lanePg n) 0x01 else u).frameStep := by
  show Host.Outcome.next (s.work n 16 _) = _
  rw [work_eq _ hn hw, h]

/-- What a failed check leaves: its record, and the frames that waited for it ended. -/
def State.checkFailed (s : State) (n : Nat) (l : List Nat) : State :=
  (((s.freeStage.2.laneRecord n 5 s.freeStage.1).raiseFault (lanePg n) 9).lasting (lanePg n)).ownFail n l

section Verdict

variable {s : State} {n : Nat} (hc : (s.lane n).check ≠ CheckSt.idle) (hf : (s.lane n).frames = [])
  (hon : s.isOn (lanePg n) = true) (he : (s.lane n).erring = false)

include hc hf hon he

theorem laneCheckEnd_passed : s.laneCheckEnd n true = (false, s.checkNoted n true) := by
  simp [State.laneCheckEnd, hc, hf, hon, he, State.checkNoted]

theorem laneCheckEnd_failed :
    s.laneCheckEnd n false = (true, (s.checkNoted n false).checkFailed n (s.lane n).ownReplay) := by
  simp [State.laneCheckEnd, hc, hf, hon, he, State.checkNoted, State.checkFailed]

end Verdict

theorem ownFail_pages (s : State) (n : Nat) (l : List Nat) : LanePages s (s.ownFail n l) := by
  refine .foldl (fun u i => ?_) l s
  split
  · split
    · exact endPushed_pages u _ stFenced 0
    · exact endFrame_pages u _ n stFenced 0
  · exact .refl u

/-- A failed check leaves LANE_CHECK, and is a fault of its lane. -/
theorem checkFailed_keeps (s : State) (n : Nat) (l : List Nat) : BitsRise s (s.checkFailed n l) ∧
    (s.checkFailed n l).reg .LANE_CHECK n = s.reg .LANE_CHECK n ∧
      ((s.checkFailed n l).hdr (lanePg n)).fault.getLsbD 9 = true := by
  have h0 := freeStage_within (F := only []) (Part.all_only _) (Within.refl s)
  have h1 : BitsRise s (s.freeStage.2.laneRecord n 5 s.freeStage.1) :=
    .of_hdrs ((laneRecord_within (F := only [.regs]) (Part.all_only _) n 5 s.freeStage.1
      (within_of_only h0)).hdrs rfl)
  have hr := (laneRecord_regsBut s.freeStage.2 n 5 s.freeStage.1 .LANE_CHECK n (by decide)).trans (h0.reg_eq rfl _ _)
  unfold State.checkFailed
  generalize s.freeStage.2.laneRecord n 5 s.freeStage.1 = u at h1 hr ⊢
  have h2 := raiseFault_pages u (lanePg n) 9
  have h3 := (lasting_pages (u.raiseFault (lanePg n) 9) (lanePg n)).trans (ownFail_pages _ n l)
  exact ⟨h1.trans (h2.trans h3).toBitsRise, ((h2.trans h3).laneRegs _ n rfl).trans hr,
    h3.faults _ _ (raiseFault_bit u (lanePg n) 9 (by decide))⟩

theorem laneClear_lane (s : State) (n : Nat) : (s.laneClear n).lane n = {} := lane_setLane_same s n {}

/-- The work of a lane ends with its frames, and the lane is cleared. -/
theorem abortBlock_lane (s : State) (n : Nat) : s.abortBlock (lanePg n) stFenced =
    (s.endFrames (fun f => f.st == .inLane && (s.lane n).frames.contains f.id) stFenced).laneClear n := rfl

theorem laneCheck_passes {s : State} {n : Nat} (hw : s.working = true) (hn : n < 16) (hc : (s.lane n).check ≠ CheckSt.idle)
    (hf : (s.lane n).frames = []) (hon : s.isOn (lanePg n) = true) (he : (s.lane n).erring = false) :
    ∃ t, exec (.laneCheckDone n true) s = .next t ∧ t.CheckShown n true ∧ (t.lane n).check = CheckSt.idle := by
  refine ⟨_, exec_laneCheckDone hw hn (laneCheckEnd_passed hc hf hon he),
    (checkNoted_shown s n true).pages (frameStep_pages _), ?_⟩
  exact (congrArg Lane.check (lane_congr (frameStep_frames _) n)).trans (checkNoted_idle s n true)

theorem laneCheck_fails {s : State} {n : Nat} (hw : s.working = true) (hn : n < 16) (hc : (s.lane n).check ≠ CheckSt.idle)
    (hf : (s.lane n).frames = []) (hon : s.isOn (lanePg n) = true) (he : (s.lane n).erring = false) :
    ∃ t, exec (.laneCheckDone n false) s = .next t ∧ t.CheckShown n false ∧ (t.lane n).check = CheckSt.idle ∧
      t.blk (lanePg n) = BlkState.fenced ∧ (t.hdr (lanePg n)).fence = ⟨0x01, 3, false⟩ ∧
      (t.hdr (lanePg n)).fault.getLsbD 9 = true := by
  have hx := laneCheckEnd_failed hc hf hon he
  obtain ⟨hrise, hreg, hfault⟩ := checkFailed_keeps (s.checkNoted n false) n (s.lane n).ownReplay
  have hs := (checkNoted_shown s n false).kept hreg hrise
  have hblk : (((s.checkNoted n false).checkFailed n (s.lane n).ownReplay).hdr (lanePg n)).st = .on := by
    have hk := laneCheckEnd_within (F := fun p => p != .blocks) (Part.All.of_all rfl) n false (Within.refl s)
    rw [hx] at hk
    exact (hk.blk_eq rfl (lanePg n)).trans (blk_of_isOn hon)
  generalize (s.checkNoted n false).checkFailed n (s.lane n).ownReplay = u at hx hs hfault hblk
  have hends := endFrames_pages u (fun f => f.st == .inLane && (u.lane n).frames.contains f.id) stFenced
  have hfs := fence_unit 0x01 (.inl ⟨n, rfl⟩) hblk
  rw [abortBlock_lane] at hfs
  obtain ⟨hst, hfr⟩ := fence_fenced 0x01 hblk
  refine ⟨_, exec_laneCheckDone hw hn hx, (hs.pages hends).cleared.pages hfs.toLanePages, ?_, hst, hfr,
    hfs.faults _ _ (hends.faults _ _ hfault)⟩
  exact congrArg Lane.check ((lane_congr (hfs.keeps.frames rfl) n).trans (laneClear_lane _ n))

/-! ## LANE_CHECK_RUN, LANE_PERIODIC_CHECK and LANE_ERROR_INJECT (R99) -/

theorem writeReg_laneCheck (s : State) (n : Nat) (hon : s.isOn (lanePg n) = true) :
    s.writeReg .LANE_CHECK n ((LANE_CHECK.RUN.word 1).setWidth 64) 0xFFFFFFFF =
      ((s.putFlag LANE_CHECK.RUN n true).putFlag LANE_CHECK.DONE n false).laneCheckAsk n := by
  have h : s.writeReg .LANE_CHECK n ((LANE_CHECK.RUN.word 1).setWidth 64) 0xFFFFFFFF = if true && s.isOn (lanePg n) then
      ((s.putFlag LANE_CHECK.RUN n true).putFlag LANE_CHECK.DONE n false).laneCheckAsk n else s := rfl
  rw [h, hon]
  rfl

/-- A check that is asked for waits for the lane's frames, and changes nothing else of the lane. -/
theorem laneCheckAsk_lane {s : State} {n : Nat} (hon : s.isOn (lanePg n) = true) :
    (s.laneCheckAsk n).lane n = { s.lane n with check := .waiting } := by
  unfold State.laneCheckAsk
  by_cases h : (s.lane n).check = .waiting
  · rw [if_neg (by simp [h]), ← h]
  · rw [if_pos (by simp [h, hon]), lane_updLane_same]

theorem answeredOk_lane (s : State) (n : Nat) : s.answeredOk.lane n = s.lane n := rfl

theorem laneCheck_asked {s : State} {n : Nat} {req : Req} (hn : n < 16) (h : s.OpenReg .LANE_CHECK n req)
    (hon : s.isOn (lanePg n) = true) :
    ∃ t, exec (.laneCheckRun n req) s = .next t ∧ t.flag LANE_CHECK.RUN n = true ∧ t.flag LANE_CHECK.DONE n = false ∧
      (t.lane n).check = CheckSt.waiting ∧ (t.lane n).frames = (s.lane n).frames := by
  have hx : exec (.laneCheckRun n req) s = .next (State.answeredOk _) :=
    congrArg Host.Outcome.next (regWrite_open (LANE_CHECK.RUN.word 1) hn h)
  rw [writeReg_laneCheck s n hon] at hx
  have hlane : (((s.putFlag LANE_CHECK.RUN n true).putFlag LANE_CHECK.DONE n false).laneCheckAsk n).lane n =
      { s.lane n with check := .waiting } := laneCheckAsk_lane hon
  have hreg (f : Fld) : (((s.putFlag LANE_CHECK.RUN n true).putFlag LANE_CHECK.DONE n false).laneCheckAsk n).flag f n =
      ((s.putFlag LANE_CHECK.RUN n true).putFlag LANE_CHECK.DONE n false).flag f n :=
    flag_of_reg ((laneCheckAsk_within (F := only [.frames]) (Part.all_only _) n (Within.refl _)).reg_eq rfl _ _)
  refine ⟨_, hx, ?_, ?_, ?_, ?_⟩
  · exact (hreg LANE_CHECK.RUN).trans ((flag_putFlag_apart _ n n false).trans (flag_putFlag_same s LANE_CHECK.RUN n true))
  · exact (hreg LANE_CHECK.DONE).trans (flag_putFlag_same _ LANE_CHECK.DONE n false)
  · rw [answeredOk_lane, hlane]
  · rw [answeredOk_lane, hlane]

theorem laneCheck_due {s : State} {n : Nat} (hw : s.working = true) (hn : n < 16) (hon : s.isOn (lanePg n) = true)
    (hc : (s.lane n).check = CheckSt.idle) (hp : s.fld LANE_XCHECK.PERIOD n ≠ 0) :
    ∃ t, exec (.lanePeriodicCheck n) s = .next t ∧ t.lane n = { s.lane n with check := CheckSt.due } ∧
      ∀ m, m ≠ n → t.lane m = s.lane m := by
  have hd : s.laneCheckDue n = s.updLane n (fun x => { x with check := .due }) := by
    rw [State.laneCheckDue, if_pos (by simp [hon, hc, hp])]
  refine ⟨_, congrArg Host.Outcome.next ((work_eq _ hn hw).trans hd), lane_updLane_same _ _ _,
    fun m hm => lane_updLane_ne s _ hm⟩

theorem writeReg_laneXinject (s : State) (n : Nat) (v : W32) :
    s.writeReg .LANE_XINJECT n ((v ||| LANE_XINJECT.ARM.word 1).setWidth 64) 0xFFFFFFFF =
      (s.store .LANE_XINJECT n ((v ||| LANE_XINJECT.ARM.word 1).setWidth 64) 0xFFFFFFFF).updLane n
        (fun x => { x with injectCount := 0 }) := by
  have hb : (((v ||| LANE_XINJECT.ARM.word 1).setWidth 64 &&& 0xFFFFFFFF : W64)).getLsbD 31 = true := by
    simp [LANE_XINJECT.ARM, Fld.word]
  exact if_pos hb

theorem laneError_injected {s : State} {n : Nat} (v : W32) {req : Req} (hn : n < 16) (h : s.OpenReg .LANE_XINJECT n req) :
    ∃ t, exec (.laneErrorInject n v req) s = .next t ∧ s.Took t .LANE_XINJECT n (v ||| LANE_XINJECT.ARM.word 1) ∧
      t.lane n = { s.lane n with injectCount := 0 } ∧ ∀ m, m ≠ n → t.lane m = s.lane m := by
  have hx : exec (.laneErrorInject n v req) s = .next (State.answeredOk _) :=
    congrArg Host.Outcome.next (regWrite_open (v ||| LANE_XINJECT.ARM.word 1) hn h)
  rw [writeReg_laneXinject s n v] at hx
  refine ⟨_, hx, fun i hi => ?_, ?_, fun m hm => ?_⟩
  · refine (store_reg_getLsbD s .LANE_XINJECT n _ _ (.inr (h.unlocked (by decide))) i).trans ?_
    rw [lowWord_getLsbD, decide_eq_true hi, BitVec.getLsbD_setWidth, decide_eq_true (show i < 64 by omega)]
    rfl
  · rw [answeredOk_lane, lane_updLane_same]
    rfl
  · rw [answeredOk_lane, lane_updLane_ne _ _ hm]
    rfl

/-- Settles O28: the error of a frame and of a replay, the replays, the checks and the injection, each by its theorem above. -/
theorem laneErrorsAreReplayedAndChecked : Obligations.LaneErrorsAreReplayedAndChecked := by
  refine ⟨?_, ?_, ?_, ?_, ?_, ?_, ?_, ?_⟩
  · intro s n i c st f hw hn _ hc hst hi hf hl hr hu ho
    exact laneError_givesUp hw hn hc hst hi hf hl hr hu ho
  · intro s n i c st o f hw hn hi hf hl hr hst _ hu _ hon hlone
    exact laneError_fences hw hn hi hf hl hr hst hu hon hlone
  · intro s q n f hw hq hf hc hp hk
    exact replay_starts hw hq hf hc hp hk
  · intro s q f hw hq hf hc hk _
    exact replay_gone hw hq hf hc hk
  · intro s n pass hw hn hc hf hon he
    cases pass with
    | true =>
      obtain ⟨t, hx, hs, hidle⟩ := laneCheck_passes hw hn hc hf hon he
      exact ⟨t, hx, hs.done, hs.pass, hs.run, hidle, hs.event, nofun⟩
    | false =>
      obtain ⟨t, hx, hs, hidle, hfenced⟩ := laneCheck_fails hw hn hc hf hon he
      exact ⟨t, hx, hs.done, hs.pass, hs.run, hidle, hs.event, fun _ => hfenced⟩
  · intro s n req hn h hon
    exact laneCheck_asked hn h hon
  · intro s n hw hn hon hc hp
    exact laneCheck_due hw hn hon hc hp
  · intro s n v req hn h
    exact laneError_injected v hn h

end Sys2Proof.Machine
end

section
/-! PROOFS. Statements of 05_context_store.md that fail: page-ins (O29), write-backs (O31), installs and arms (O33), retires and
audits (O34) and the operations of CTX_CMD (O35), each with a state whose step ends otherwise. -/

namespace Sys2Proof.Machine

set_option Elab.async false

/-! ## A page-in that fails under a retire (O29) -/

/-- The one entry of the miss buffer: handle 0's leaf could not be read, and one request waits. -/
def missWithLostLeaf : Miss := { handle := 0, waiting := [{}], readFail := some (1, .err) }

/-- Way 0 is read again for handle 0 while a CTX_RETIRE holds it. -/
def pageinUnderRetire : State :=
  { pwr := { core := true }
    ctx := {
      ways := [(0, { st := .filling, retiring := true })], misses := [missWithLostLeaf]
      jobs := [{ id := 1, elem := { idx := 1, d := { w0 := 0x42000000000000 } }, phase := 1 }] } }

/-- Refutes O29: where a CTX_RETIRE holds the way that is being read again, it completes through P22 as well as the request that
waits (R111, R125), so that the failed page-in pushes two completions there. -/
theorem not_pageInsEndAsTheyFind : ¬ Obligations.PageInsEndAsTheyFind := by
  unfold Obligations.PageInsEndAsTheyFind
  rintro ⟨-, -, hfail, -⟩
  obtain ⟨t, hx, -, ⟨k, hone, -⟩, -⟩ := hfail pageinUnderRetire 0 0 1 .err missWithLostLeaf {} (by decide) (by decide +kernel) rfl rfl
    rfl rfl (by decide) rfl
  rw [← Host.Outcome.next.inj hx] at hone
  have htwo : (((pageinUnderRetire.whileWorking (fun s => (s.pageinFailed 0).frameStep)).produced 22).length = 2) := by decide +kernel
  have hnone : pageinUnderRetire.produced 22 = [] := rfl
  exact absurd (htwo.symm.trans hone.length_eq) (by simp [hnone])

/-! ## A write-back that ends while FLUSH writes the nodes (O31) -/

/-- Way 0, which FLUSH had not marked, was evicted and its write is answered; FLUSH has come to the nodes. -/
def writtenUnderFlush : State :=
  { pwr := { core := true }, key := { tree := some 0 }
    fab := { mail := [{ id := 0, kind := .ctxWriteback 0, left := 0 }] }
    ctx := {
      store := .flushing, ways := [(0, { st := .writing, wbVersion := 5 })]
      nodes := [(nodeKey 1 0, { c := [4] }), (nodeKey 2 0, { c := [7] })] } }

/-- Refutes O31: the leaf that takes the version is the lowest dirty node of the FLUSH that runs, which seals it at once (R117, R127):
it is clean again and its write is out. -/
theorem not_writeBacksEnd : ¬ Obligations.WriteBacksEnd := by
  unfold Obligations.WriteBacksEnd
  rintro ⟨hok, -⟩
  obtain ⟨t, hx, -, hdirty, -⟩ := hok writtenUnderFlush 0 0 { id := 0, kind := .ctxWriteback 0, left := 0 } (by decide) rfl rfl rfl
    rfl rfl (by decide) rfl rfl (by decide +kernel)
  rw [← Host.Outcome.next.inj hx] at hdirty
  have hsealed : ((writtenUnderFlush.whileWorking (fun s => s.writebackDone 0)).node 1 0).dirty = false := by decide +kernel
  exact absurd (hsealed.symm.trans hdirty) (by decide)

/-! ## An injected error beside the four cores (O33) -/

/-- A CTX_INSTALL with a blob of key material and parameters that name no suite, its input in. -/
def installOfNoSuite : Job := { id := 1, elem := { d := { w0 := 0x40000000000000, w3 := 0x3800000000000 } }, phase := 1 }

/-- It is at the head of key custody while TEST has an error injected into a core 4, and channel 255 stands on that core. -/
def injectedBesideCores : State :=
  ({ tile := { st := .test }, pwr := { core := true }, hdrs := [(7, { st := .on }), (8, { st := .on })]
     key := { jobs := [installOfNoSuite], banks := [(0, { held := true })] }
     digest := { chans := [(255, { core := some 4 })] } } : State).putFlag DCORE_XINJECT.ARM 4 true

theorem injectedBesideCores_noInjection : injectedBesideCores.NoInjection := by
  intro _ n hn
  have hall : ∀ n ∈ List.range 4, injectedBesideCores.flag DCORE_XINJECT.ARM n = false := by decide +kernel
  exact hall n (List.mem_range.mpr hn)

/-- Refutes O33: that no error is injected is said of the four cores alone (R187), and nothing in the statement keeps channel 255, on
which key custody derives the key of the blob, on one of them. Where it stands on another whose error is armed, the step ends in that
error instead of a completion. -/
theorem not_contextsAreInstalledAndArmed : ¬ Obligations.ContextsAreInstalledAndArmed := by
  unfold Obligations.ContextsAreInstalledAndArmed
  rintro ⟨-, hbad, -⟩
  obtain ⟨t, hx, ⟨k, hone, -⟩, -⟩ := hbad injectedBesideCores installOfNoSuite (by decide +kernel) rfl injectedBesideCores_noInjection
    rfl rfl (by decide +kernel) rfl (by decide +kernel) (by decide +kernel) (by decide) (by decide +kernel)
  rw [← Host.Outcome.next.inj hx] at hone
  have hnone : (injectedBesideCores.whileWorking (fun s => s.kdfStep 0x40 State.ctxInstall)).produced 21 = [] := by decide +kernel
  exact absurd (hnone ▸ hone.length_eq) (by simp)

/-! ## A tagged CTX_RETIRE (O34) -/

/-- A CTX_RETIRE of handle 0 that carries a trace tag. -/
def taggedRetire : Job := { id := 1, elem := { tag := some {}, d := { w0 := 0x42000000000000 } }, phase := 1 }

/-- It holds way 0, which no frame uses, with its leaf cached. -/
def retireWithTag : State :=
  { pwr := { core := true }, key := { wrap := some 0 }
    ctx := {
      ways := [(0, { st := .live, retiring := true })], jobs := [taggedRetire], nodes := [(nodeKey 1 0, { c := [4] })] } }

/-- Refutes O34: a CTX_RETIRE that carries a trace tag is stamped with P3 and P4 as it runs (R355), so that its job differs in more
than its phase. -/
theorem not_contextsAreRetiredAndAudited : ¬ Obligations.ContextsAreRetiredAndAudited := by
  unfold Obligations.ContextsAreRetiredAndAudited
  rintro ⟨hrun, -⟩
  obtain ⟨t, hx, -, -, -, -, -, -, hjobs, -⟩ := hrun retireWithTag taggedRetire (bvBytes (0 : BitVec 256) 32) 0 0 4 (by decide)
    (by decide +kernel) rfl (by decide +kernel) rfl rfl rfl (by decide +kernel) rfl rfl rfl (by decide)
  rw [← Host.Outcome.next.inj hx] at hjobs
  have hstamped : (retireWithTag.whileWorking (fun s => s.ctxRetire)).ctx.jobs =
      [{ taggedRetire with phase := 2, elem := { taggedRetire.elem with tag := some { stamps := [(3, 0), (4, 0)] } } }] := by
    decide +kernel
  exact absurd (hstamped.symm.trans hjobs) (by decide)

/-! ## INIT while a chain is being issued (O35) -/

/-- An administrator's request. -/
def adminReq : Req := ⟨true, 0⟩

/-- The store is READY and PAUSE is set, while the rest of a chain is still being issued. -/
def pausedInIssue : State :=
  (({ tile := { st := .ready, addr := some 5 }, pwr := { core := true }, clk := { lock := 2 }
      key := { root := some ([], []) }, rng := { ready := true }, ctx := { store := .ready }
      qeng := { issuing := [({}, none)] } } : State).setReg .QENG_CTL 0 1).setReg .CLK_EN 0 0x80

/-- CTX_CMD can be written there. -/
theorem pausedInIssue_openReg : pausedInIssue.OpenReg .CTX_CMD 0 adminReq :=
  ⟨{ inMap := rfl, addressed := rfl, nothingStalled := rfl, notInReset := rfl, administrator := rfl, notWaking := by decide
     served := .inl ⟨rfl, by decide⟩, notFenced := .inl (by decide), notGated := fun _ => by decide +kernel },
   fun h => absurd h (by decide)⟩

/-- Refutes O35: with PAUSE set the queue engine is PAUSED only once the issue under way has ended (R67), and INIT, which asks for
that, is refused till then (R127). -/
theorem not_storeCommandsRun : ¬ Obligations.StoreCommandsRun := by
  unfold Obligations.StoreCommandsRun
  rintro ⟨hinit, -⟩
  obtain ⟨t, hx, hstore, -⟩ := hinit pausedInIssue adminReq pausedInIssue_openReg rfl rfl rfl
    (.inr ⟨rfl, by decide +kernel, rfl⟩)
  rw [← Host.Outcome.next.inj hx] at hstore
  have hrefused : (pausedInIssue.ctxCmdWrite 1 0 adminReq).ctx.store = StoreSt.ready := by decide +kernel
  exact absurd (hrefused.symm.trans hstore) (by decide)

end Sys2Proof.Machine
end

section
/-! PROOFS. Statements of 05_context_store.md: what the steps of the context store leave of its ways and of the registers. -/

namespace Sys2Proof.Machine

set_option Elab.async false

/-! ## What a step of the context store leaves -/

/-- From s to t the store's state and its fence are as they were, every way outside W holds what it held, and no register of R
has changed; the table of the ways stays canonical. -/
structure StoreStep (W : Set Nat) (R : List Reg) (s t : State) : Prop where
  store : t.ctx.store = s.ctx.store
  fenced : t.ctx.allFenced = s.ctx.allFenced
  ways : ∀ k, k ∉ W → t.way k = s.way k
  canon : Tbl.wf (fun _ => ({} : Way)) s.ctx.ways = true → Tbl.wf (fun _ => ({} : Way)) t.ctx.ways = true
  regs : ∀ r ∈ R, ∀ n, t.reg r n = s.reg r n

/-- The registers that the work of the context store writes by itself: counters, and the record of an error (R129, R350, R351). -/
def storeRegs : List Reg := [.PERF_CNT, .FN_CNT, .CTX_ERR_HANDLE, .CTX_ERR_INFO]

/-- An error's own fields, which the first one fills (R129). -/
def State.ctxFirst (s : State) (kind level handle : Nat) : State :=
  if s.flag CTX_ERR_INFO.VALID 0 then s
  else
    (((s.put CTX_ERR_HANDLE.HANDLE 0 handle).putFlag CTX_ERR_INFO.VALID 0 true).put CTX_ERR_INFO.KIND 0 kind).put
      CTX_ERR_INFO.LEVEL 0 level

theorem ctxError_eq (s : State) (kind level handle : Nat) :
    s.ctxError kind level handle = (s.ctxFirst kind level handle).bump CTX_ERR_INFO.COUNT 0 1 := rfl

theorem ctxError_regsBut (s : State) (kind level handle : Nat) : RegsBut storeRegs s (s.ctxError kind level handle) := by
  rw [ctxError_eq]
  refine RegsBut.trans ?_ (.of_put _ CTX_ERR_INFO.COUNT 0 _)
  unfold State.ctxFirst
  split
  · exact .refl _ s
  · exact (((RegsBut.of_put s CTX_ERR_HANDLE.HANDLE 0 _).trans (.of_putFlag _ CTX_ERR_INFO.VALID 0 _)).trans
      (.of_put _ CTX_ERR_INFO.KIND 0 _)).trans (.of_put _ CTX_ERR_INFO.LEVEL 0 _)

theorem startWrite_regsBut (s : State) (k : XKind) (a : Attr) (x : Nat) (b : Bytes) (p : Option Nat) :
    RegsBut countRegs s (s.startWrite k a x b p).2 :=
  RegsBut.trans (t := (s.newXfer k _).2) (.of_regs rfl) (RegsBut.foldl (fun _ _ => issueReq_regsBut _ _ _) _ _)

theorem way_setWay_ne (s : State) {k n : Nat} (w : Way) (h : n ≠ k) : (s.setWay k w).way n = s.way n :=
  Tbl.get_set_ne _ _ _ _ _ h

theorem way_setWay_same (s : State) (k : Nat) (w : Way) : (s.setWay k w).way k = w := Tbl.get_set_same _ _ _ _

namespace StoreStep

variable {W : Set Nat} {R : List Reg} {s t u : State}

theorem refl (W : Set Nat) (R : List Reg) (s : State) : StoreStep W R s s := ⟨rfl, rfl, fun _ _ => rfl, id, fun _ _ _ => rfl⟩

theorem trans (h : StoreStep W R s t) (k : StoreStep W R t u) : StoreStep W R s u :=
  ⟨k.store.trans h.store, k.fenced.trans h.fenced, fun n e => (k.ways n e).trans (h.ways n e), k.canon ∘ h.canon,
    fun r e n => (k.regs r e n).trans (h.regs r e n)⟩

theorem mono {V : Set Nat} (h : StoreStep V R s t) (hV : V ⊆ W) : StoreStep W R s t :=
  ⟨h.store, h.fenced, fun n e => h.ways n (fun c => e (hV c)), h.canon, h.regs⟩

/-- One that leaves the ways, the store's state and the registers. -/
theorem same (h : StoreStep W R s t) (hs : u.ctx.store = t.ctx.store := by rfl)
    (hf : u.ctx.allFenced = t.ctx.allFenced := by rfl) (hw : u.ctx.ways = t.ctx.ways := by rfl)
    (hr : u.regs = t.regs := by rfl) : StoreStep W R s u :=
  h.trans ⟨hs, hf, fun _ _ => by unfold State.way; rw [hw], by rw [hw]; exact id, fun _ _ _ => by unfold State.reg; rw [hr]⟩

/-- One that leaves the context store and the registers. -/
theorem free (h : StoreStep W R s t) (k : t.Within (fun x => x != .ctx && x != .regs) u) : StoreStep W R s u :=
  have hc := k.ctx rfl
  h.same (congrArg _ hc) (congrArg _ hc) (congrArg _ hc) (k.regs rfl)

/-- One that leaves the context store and, of the registers that are watched, all. -/
theorem counts {l : List Reg} (h : StoreStep W R s t) (k : RegsBut l t u) (hc : u.ctx = t.ctx) (hR : R.Disjoint l) :
    StoreStep W R s u :=
  h.trans ⟨by rw [hc], by rw [hc], fun _ _ => by unfold State.way; rw [hc], by rw [hc]; exact id, fun r e n => k r n (hR e)⟩

/-- A way of those that may change changes. -/
theorem updWay (h : StoreStep W R s t) {k : Nat} (hk : k ∈ W) (f : Way → Way) : StoreStep W R s (t.updWay k f) :=
  h.trans ⟨rfl, rfl, fun n e => way_setWay_ne t _ (by rintro rfl; exact e hk), Tbl.wf_set _ _ _ _, fun _ _ _ => rfl⟩

theorem wipeWay (h : StoreStep W R s t) {k : Nat} (hk : k ∈ W) : StoreStep W R s (t.wipeWay k) := h.updWay hk (fun _ => {})

theorem foldl {α : Type} {f : State → α → State} (h : StoreStep W R s t) (l : List α)
    (hf : ∀ u, ∀ x ∈ l, StoreStep W R s u → StoreStep W R s (f u x)) : StoreStep W R s (l.foldl f t) :=
  List.foldlRecOn l f h (fun u hu x hx => hf u x hx hu)

/-! ### Requests and transfers -/

theorem failWaiting (h : StoreStep W R s t) (e : Elem) (status : Nat) : StoreStep W R s (t.failWaiting e status) :=
  free (t := (State.unhold _ _)) h.same (push_within (Part.All.of_all rfl) _ _ (Within.refl _))

theorem raiseFault (h : StoreStep W R s t) (p : PageRef) (b : Nat) : StoreStep W R s (t.raiseFault p b) :=
  h.free (raiseFault_within (Part.All.of_all rfl) _ _ (Within.refl t))

theorem retireCmdEnds (h : StoreStep W R s t) (x r : Nat) : StoreStep W R s (t.retireCmdEnds x r) := by
  unfold State.retireCmdEnds
  split
  · split
    · exact h.same
    · exact h
  · exact h

theorem touchNode (h : StoreStep W R s t) (l i : Nat) : StoreStep W R s (t.touchNode l i) := by
  unfold State.touchNode
  extract_lets n u
  split
  · exact h
  · exact h.same

variable (hR : R.Disjoint storeRegs)
include hR

theorem perfCount (h : StoreStep W R s t) (e k : Nat) : StoreStep W R s (t.perfCount e k) :=
  h.counts (perfCount_regsBut t e k).mono
    ((perfCount_within (F := only [.regs, .hdrs, .irq]) (Part.all_only _) _ _ (Within.refl t)).ctx rfl) hR

theorem ctxError (h : StoreStep W R s t) (a b c : Nat) : StoreStep W R s (t.ctxError a b c) :=
  h.counts (ctxError_regsBut t a b c) ((ctxError_within (F := only [.regs]) (Part.all_only _) _ _ _ (Within.refl t)).ctx rfl) hR

theorem startRead (h : StoreStep W R s t) (k : XKind) (a : Attr) (x n : Nat) (p : Option Nat) :
    StoreStep W R s (t.startRead k a x n p).2 :=
  h.counts (startRead_regsBut t k a x n p).mono
    ((startRead_within (F := only [.regs, .hdrs, .irq, .fab]) (Part.all_only _) _ _ _ _ _ (Within.refl t)).ctx rfl) hR

theorem startWrite (h : StoreStep W R s t) (k : XKind) (a : Attr) (x : Nat) (b : Bytes) (p : Option Nat) :
    StoreStep W R s (t.startWrite k a x b p).2 :=
  h.counts (startWrite_regsBut t k a x b p).mono
    ((startWrite_within (F := only [.regs, .hdrs, .irq, .fab]) (Part.all_only _) _ _ _ _ _ (Within.refl t)).ctx rfl) hR

/-! ### Page-ins -/

theorem startMissReads (h : StoreStep W R s t) (m : Miss) (l : List Nat) (r : Bool) :
    StoreStep W R s (t.startMissReads m l r) := by
  unfold State.startMissReads
  extract_lets u v
  have hu : StoreStep W R s u := h.same
  have hv : StoreStep W R s v := hu.foldl _ (fun _ _ _ hw => hw.startRead hR _ _ _ _ _)
  split
  · exact hv.startRead hR _ _ _ _ _
  · exact hv

theorem beginPagein (h : StoreStep W R s t) (x : Nat) : StoreStep W R s (t.beginPagein x) := by
  unfold State.beginPagein
  split
  · exact h
  · exact (h.perfCount hR _ _).startMissReads hR _ _ _

theorem newLeafMiss (h : StoreStep W R s t) (x : Nat) : StoreStep W R s (t.newLeafMiss x) := by
  unfold State.newLeafMiss
  split
  · split
    · exact beginPagein hR h.same _
    · exact h
  · exact beginPagein hR h.same _

theorem rereadNode (h : StoreStep W R s t) (l i : Nat) : StoreStep W R s (t.rereadNode l i) := by
  unfold State.rereadNode
  split
  · exact h
  · exact beginPagein hR h.same _

theorem rereadOwed (h : StoreStep W R s t) : StoreStep W R s t.rereadOwed := by
  refine h.foldl _ (fun u n _ hu => ?_)
  split
  · exact hu
  · exact hu.rereadNode hR _ _

/-! ### Write-backs -/

theorem wayFailed (h : StoreStep W R s t) {k : Nat} (hk : k ∈ W) (status : Nat) : StoreStep W R s (t.wayFailed k status) := by
  unfold State.wayFailed
  extract_lets w u v
  have hv : StoreStep W R s v := ((h.ctxError hR 6 0 w.handle).raiseFault (pg .ctx) 10).updWay hk _
  split
  · split
    · exact hv.failWaiting _ _
    · exact hv
  · split
    · exact hv.retireCmdEnds _ _
    · exact hv

theorem sealWay (h : StoreStep W R s t) {k : Nat} (hk : k ∈ W) : StoreStep W R s (t.sealWay k) := by
  unfold State.sealWay
  extract_lets w hd
  split
  · split
    · exact h.wayFailed hR hk _
    · exact (((h.updWay hk _).touchNode _ _).perfCount hR _ _).startWrite hR _ _ _ _ _
  · exact h

theorem writeBack (h : StoreStep W R s t) {k : Nat} (hk : k ∈ W) : StoreStep W R s (t.writeBack k) := by
  unfold State.writeBack
  extract_lets w
  split
  · exact h
  · split
    · exact h.sealWay hR hk
    · exact (h.updWay hk _).newLeafMiss hR _

theorem evict (h : StoreStep W R s t) {k : Nat} (hk : k ∈ W) : StoreStep W R s (t.evict k) := by
  unfold State.evict
  extract_lets w u
  have hu : StoreStep W R s u := h.perfCount hR _ _
  split
  · exact h.updWay hk _
  · split
    · exact h.updWay hk _
    · split
      · exact hu.writeBack hR hk
      · exact hu.wipeWay hk

theorem writeNode (h : StoreStep W R s t) (l i : Nat) : StoreStep W R s (t.writeNode l i) := by
  unfold State.writeNode
  extract_lets n
  split
  · split
    · exact h
    · split
      · split
        · exact h
        · exact (ctxError hR (t := t.setNode _ _ _) h.same _ _ _).raiseFault _ _
      · exact (perfCount hR (t := t.setNode _ _ _) h.same _ _).startWrite hR _ _ _ _ _
  · exact h

theorem sweepWay (h : StoreStep W R s t) {k : Nat} (hk : k ∈ W) : StoreStep W R s (t.sweepWay k) := by
  unfold State.sweepWay
  extract_lets w age u
  have hu : StoreStep W R s u := h.updWay hk _
  split
  · split
    · exact h.updWay hk _
    · split
      · exact hu.evict hR hk
      · exact hu
  · split
    · exact h.writeBack hR hk
    · exact h

end StoreStep

end Sys2Proof.Machine
end

section
/-! PROOFS. The sweeper of the context store (O30, R115, R116). -/

namespace Sys2Proof.Machine

set_option Elab.async false

theorem Tbl.keys_above {α : Type} (t : Tbl α) (m : Nat) (h : Tbl.above t m = true) :
    (∀ k ∈ t.map Prod.fst, m < k) ∧ (t.map Prod.fst).Nodup := by
  induction t generalizing m with
  | nil => simp
  | cons e t ih =>
    obtain ⟨j, a⟩ := e
    simp only [Tbl.above, Bool.and_eq_true, decide_eq_true_eq] at h
    obtain ⟨hab, hnd⟩ := ih j h.2
    refine ⟨fun k hk => ?_, List.nodup_cons.mpr ⟨fun hj => absurd (hab j hj) (Nat.lt_irrefl j), hnd⟩⟩
    rcases List.mem_cons.mp hk with rfl | hk
    · exact h.1
    · exact h.1.trans (hab k hk)

/-- A canonical table lists no key twice. -/
theorem Tbl.keys_nodup {α : Type} [DecidableEq α] (d : Nat → α) (t : Tbl α) (h : Tbl.wf d t = true) : (t.map Prod.fst).Nodup := by
  rw [Tbl.wf, Bool.and_eq_true] at h
  cases t with
  | nil => exact List.nodup_nil
  | cons e t => exact List.nodup_cons.mpr ⟨fun hj => absurd ((Tbl.keys_above t e.1 h.1).1 _ hj) (Nat.lt_irrefl _),
      (Tbl.keys_above t e.1 h.1).2⟩

/-- A way that is not FREE is listed. -/
theorem way_listed {s : State} {k : Nat} (h : (s.way k).st ≠ .free) : k ∈ s.ctx.ways.map Prod.fst := by
  rcases Tbl.get_mem ({} : Way) s.ctx.ways k with hd | hm
  · exact absurd (congrArg Way.st hd) h
  · exact List.mem_map_of_mem hm

/-- The registers that tell the sweeper what to do. -/
def sweepRegs : List Reg := [.CTX_SWEEP, .CTX_XSWEEP]

theorem sweepRegs_apart : sweepRegs.Disjoint storeRegs := by
  unfold sweepRegs storeRegs; simp

/-- In a pass over ways, each once, one of them stands as it was until its turn, and as its turn left it afterwards. -/
theorem sweepWays_split (l : List Nat) (hl : l.Nodup) {k : Nat} (hk : k ∈ l) (s : State) :
    ∃ u, StoreStep {k}ᶜ sweepRegs s u ∧ StoreStep {k}ᶜ sweepRegs (u.sweepWay k) (l.foldl (fun s k => s.sweepWay k) s) := by
  obtain ⟨a, b, rfl⟩ := List.append_of_mem hk
  have hne : ∀ j ∈ a ++ b, j ≠ k := by
    rintro j hj rfl
    exact (List.nodup_middle.mp hl).notMem hj
  have hpart (c : List Nat) (hc : ∀ j ∈ c, j ∈ a ++ b) (v : State) :
      StoreStep {k}ᶜ sweepRegs v (c.foldl (fun s k => s.sweepWay k) v) :=
    (StoreStep.refl _ _ v).foldl c (fun u j hj hu => hu.sweepWay sweepRegs_apart (hne j (hc j hj)))
  refine ⟨a.foldl (fun s k => s.sweepWay k) s, hpart a (fun j hj => List.mem_append_left _ hj) s, ?_⟩
  rw [List.foldl_append, List.foldl_cons]
  exact hpart b (fun j hj => List.mem_append_right _ hj) _

/-- A LIVE way that no retire holds. -/
def Way.sweeps (w : Way) : Bool := w.st == .live && !w.retiring

/-- An unpinned way with nothing to write becomes FREE. -/
theorem evict_clean {s : State} {k : Nat} (hp : (s.way k).pins = 0) (hv : (s.way k).wbVersion = 0) (hd : (s.way k).dirty = false) :
    (s.evict k).way k = {} := by
  simp only [State.evict, hp, hv, hd, ne_eq, not_true, Bool.false_eq_true, if_false]
  exact way_setWay_same _ _ _

section
variable {s : State} {k : Nat} (hw : (s.way k).sweeps = true)
include hw

theorem sweepWay_hit (hh : (s.way k).hit = true) : (s.sweepWay k).way k = { s.way k with hit := false, age := 0 } := by
  unfold State.sweepWay Way.sweeps at *
  simp [hw, hh]

theorem sweepWay_young (hh : (s.way k).hit = false) (ha : min 3 ((s.way k).age + 1) < max 1 (s.fld CTX_XSWEEP.AGE 0)) :
    (s.sweepWay k).way k = { s.way k with age := min 3 ((s.way k).age + 1) } := by
  have hn : ¬ max 1 (s.fld CTX_XSWEEP.AGE 0) ≤ min 3 ((s.way k).age + 1) := Nat.not_le.mpr ha
  have hf (f : Way → Way) : (s.updWay k f).fld CTX_XSWEEP.AGE 0 = s.fld CTX_XSWEEP.AGE 0 := rfl
  unfold State.sweepWay Way.sweeps at *
  simp only [hw, if_true, hh, Bool.false_eq_true, if_false, hf, if_neg hn, way_updWay_same]

theorem sweepWay_old (hh : (s.way k).hit = false) (ha : max 1 (s.fld CTX_XSWEEP.AGE 0) ≤ min 3 ((s.way k).age + 1))
    (hp : (s.way k).pins = 0) (hv : (s.way k).wbVersion = 0) (hd : (s.way k).dirty = false) : (s.sweepWay k).way k = {} := by
  have hf (f : Way → Way) : (s.updWay k f).fld CTX_XSWEEP.AGE 0 = s.fld CTX_XSWEEP.AGE 0 := rfl
  unfold State.sweepWay Way.sweeps at *
  simp only [hw, if_true, hh, Bool.false_eq_true, if_false, hf, if_pos ha]
  exact evict_clean (by rw [way_updWay_same]; exact hp) (by rw [way_updWay_same]; exact hv) (by rw [way_updWay_same]; exact hd)

end

/-- The turns of the ways in a pass. -/
def State.sweepWays (s : State) : State := (s.ctx.ways.map Prod.fst).foldl (fun s k => s.sweepWay k) s

/-- The writes of nodes that failed, tried again in a pass. -/
def State.sweepNodes (s : State) : State :=
  ((s.ctx.nodes.filter (fun p => p.2.failed && p.2.dirty)).map Prod.fst).foldl (fun s k => s.writeNode (k / 2 ^ 32) (k % 2 ^ 32)) s

/-- A pass before it is counted. -/
def State.sweepPassed (s : State) : State := s.rereadOwed.sweepWays.sweepNodes

theorem sweepNodes_step (s : State) : StoreStep ∅ sweepRegs s s.sweepNodes :=
  (StoreStep.refl _ _ s).foldl _ (fun _ _ _ hu => hu.writeNode sweepRegs_apart _ _)

theorem rereadOwed_step (s : State) : StoreStep ∅ sweepRegs s s.rereadOwed := (StoreStep.refl _ _ s).rereadOwed sweepRegs_apart

/-- A pass is counted, and its event is raised. -/
def State.passCounted (s : State) : State :=
  (s.put CTX_SWEEP.PASSES 0 ((s.fld CTX_SWEEP.PASSES 0 + 1) % 65536)).raiseEvent (pg .ctx) 1

theorem passCounted_ctx (s : State) : s.passCounted.ctx = s.ctx := by
  unfold State.passCounted
  generalize (s.fld CTX_SWEEP.PASSES 0 + 1) % 65536 = x
  have h := (raiseEvent_within (F := only [.hdrs, .irq]) (Part.all_only _) (pg .ctx) 1 (Within.refl (s.put CTX_SWEEP.PASSES 0 x))).ctx rfl
  rw [h, State.put_ctx]

theorem passCounted_passes (s : State) : s.passCounted.fld CTX_SWEEP.PASSES 0 = (s.fld CTX_SWEEP.PASSES 0 + 1) % 65536 := by
  have hr : s.passCounted.reg .CTX_SWEEP 0 = (s.put CTX_SWEEP.PASSES 0 ((s.fld CTX_SWEEP.PASSES 0 + 1) % 65536)).reg .CTX_SWEEP 0 := by
    unfold State.reg; exact congrArg (fun l => Tbl.get _ l _) (raiseEvent_regs _ _ _)
  exact ((fld_of_reg hr).trans (fld_put_same _ _ _ _)).trans (Nat.mod_mod _ _)

theorem sweep_eq {s : State} (hon : s.isOn (pg .ctx) = true) (hi : s.fld CTX_SWEEP.INT 0 ≠ 0) (ha : s.asleep = false) :
    s.sweep = s.sweepPassed.passCounted.flushCheck := by
  unfold State.sweep
  rw [hon, ha, beq_eq_false_iff_ne.mpr hi]
  rfl

theorem sweepPassed_step (s : State) : StoreStep Set.univ sweepRegs s s.sweepPassed :=
  have hw : StoreStep Set.univ sweepRegs s s.rereadOwed.sweepWays :=
    ((rereadOwed_step s).mono (Set.empty_subset _)).foldl _ (fun _ _ _ hu => hu.sweepWay sweepRegs_apart (Set.mem_univ _))
  hw.trans ((sweepNodes_step _).mono (Set.empty_subset _))

/-- A LIVE way has its turn in a pass once, as it stood before the pass, and nothing else touches it. -/
theorem sweepPassed_way {s : State} (hwf : Tbl.wf (fun _ => ({} : Way)) s.ctx.ways = true) {k : Nat} (hk : (s.way k).st ≠ .free) :
    ∃ u : State, u.way k = s.way k ∧ u.fld CTX_XSWEEP.AGE 0 = s.fld CTX_XSWEEP.AGE 0 ∧
      s.sweepPassed.way k = (u.sweepWay k).way k := by
  have hr := rereadOwed_step s
  have hrk : s.rereadOwed.way k = s.way k := hr.ways k (Set.notMem_empty k)
  obtain ⟨u, hsu, hus⟩ := sweepWays_split _ (Tbl.keys_nodup _ _ (hr.canon hwf)) (way_listed (hrk ▸ hk)) s.rereadOwed
  have hn : k ∉ ({k}ᶜ : Set Nat) := fun h => h rfl
  exact ⟨u, (hsu.ways k hn).trans hrk,
    fld_of_reg ((hsu.regs .CTX_XSWEEP (by decide) 0).trans (hr.regs .CTX_XSWEEP (by decide) 0)),
    ((sweepNodes_step _).ways k (Set.notMem_empty k)).trans (hus.ways k hn)⟩

/-- Settles O30: a pass splits at the turn of each way, before and after which the pass leaves the way alone. -/
theorem sweeperAgesTheWays : Obligations.SweeperAgesTheWays := by
  unfold Obligations.SweeperAgesTheWays
  intro s hwork hon hi ha hs hwf
  have hx : exec .sweepPass s = .next s.sweep := congrArg Host.Outcome.next (if_pos hwork)
  have hstep := sweepPassed_step s
  have hflush : s.sweepPassed.passCounted.flushCheck = s.sweepPassed.passCounted := by
    rw [State.flushCheck, passCounted_ctx, hstep.store, if_pos (bne_iff_ne.mpr hs)]
  have heq : s.sweep = s.sweepPassed.passCounted := (sweep_eq hon hi ha).trans hflush
  rw [heq] at hx
  refine ⟨_, hx, ?_, raiseEvent_bit _ _ _ (by decide), fun k hl hr => ?_⟩
  · rw [passCounted_passes, fld_of_reg (hstep.regs .CTX_SWEEP (by decide) 0)]
  · obtain ⟨u, huk, hage, hpass⟩ := sweepPassed_way hwf (k := k) (by rw [hl]; decide)
    have hsw : (u.way k).sweeps = true := by rw [huk, Way.sweeps, hl, hr]; rfl
    rw [way_congr (passCounted_ctx _) k, hpass, ← huk, ← hage]
    exact ⟨sweepWay_hit hsw, sweepWay_young hsw, sweepWay_old hsw⟩

end Sys2Proof.Machine
end

section
/-! PROOFS. Errors of the context store's caches (O32, R112, R120, R129). -/

namespace Sys2Proof.Machine

set_option Elab.async false

/-! ## What the record of an error holds (R129) -/

theorem ctxError_keeps (s : State) (kind level handle : Nat) : s.Within (only [.regs]) (s.ctxError kind level handle) :=
  ctxError_within (Part.all_only _) _ _ _ (Within.refl s)

theorem ctxFirst_valid (s : State) (kind level handle : Nat) :
    (s.ctxFirst kind level handle).flag CTX_ERR_INFO.VALID 0 = true := by
  unfold State.ctxFirst
  split
  · assumption
  · exact (congrArg (· == 1) ((fld_put_apart _ 0 0 level).trans (fld_put_apart _ 0 0 kind))).trans (flag_putFlag_same _ _ 0 true)

theorem ctxFirst_count (s : State) (kind level handle : Nat) :
    (s.ctxFirst kind level handle).fld CTX_ERR_INFO.COUNT 0 = s.fld CTX_ERR_INFO.COUNT 0 := by
  unfold State.ctxFirst
  split
  · rfl
  · rw [fld_put_apart _ 0 0 level, fld_put_apart _ 0 0 kind]
    exact (fld_put_apart _ 0 0 (b2n true)).trans (fld_of_reg (reg_put_ne s handle (Or.inl (by decide))))

theorem ctxFirst_kind {s : State} {kind : Nat} (hk : kind < 8) (level handle : Nat) (h : s.flag CTX_ERR_INFO.VALID 0 = false) :
    (s.ctxFirst kind level handle).fld CTX_ERR_INFO.KIND 0 = kind := by
  rw [State.ctxFirst, h, if_neg Bool.false_ne_true, fld_put_apart _ 0 0 level, fld_put_same _ CTX_ERR_INFO.KIND 0 kind]
  exact Nat.mod_eq_of_lt hk

/-- The fields beside COUNT are those of the first error. -/
theorem ctxError_fld (s : State) (kind level handle : Nat) {f : Fld} (hf : f.ok = true := by rfl)
    (ha : Fld.apart CTX_ERR_INFO.COUNT f = true := by rfl) :
    (s.ctxError kind level handle).fld f 0 = (s.ctxFirst kind level handle).fld f 0 := by
  rw [ctxError_eq]
  exact fld_put_apart _ 0 0 _ (by rfl) hf ha

theorem ctxError_valid (s : State) (kind level handle : Nat) :
    (s.ctxError kind level handle).flag CTX_ERR_INFO.VALID 0 = true :=
  (congrArg (· == 1) (ctxError_fld s kind level handle)).trans (ctxFirst_valid s kind level handle)

theorem ctxError_count (s : State) (kind level handle : Nat) :
    (s.ctxError kind level handle).fld CTX_ERR_INFO.COUNT 0 = min (s.fld CTX_ERR_INFO.COUNT 0 + 1) 0xFFFF := by
  rw [ctxError_eq, fld_bump_same _ CTX_ERR_INFO.COUNT 0 1, ctxFirst_count]
  rfl

/-! ## Corrected errors (R120) -/

/-- An error that was corrected is recorded, and V200's event is raised. -/
def State.eccRecorded (s : State) (level handle : Nat) : State := (s.ctxError 4 level handle).raiseEvent (pg .ctx) 2

theorem eccRecorded_reg (s : State) (level handle : Nat) (r : Reg) (n : Nat) :
    (s.eccRecorded level handle).reg r n = (s.ctxError 4 level handle).reg r n := by
  unfold State.eccRecorded State.reg; rw [raiseEvent_regs]

theorem eccRecorded_ctx (s : State) (level handle : Nat) : (s.eccRecorded level handle).ctx = s.ctx :=
  ((raiseEvent_within (F := only [.hdrs, .irq]) (Part.all_only _) _ _ (Within.refl _)).ctx rfl).trans
    ((ctxError_keeps s 4 level handle).ctx rfl)

theorem eccCorrected_way {s : State} {b w : Nat} (h : (s.way (64 * b + w)).st ≠ .free) :
    s.eccCorrected (.way b w) = s.eccRecorded 0xF (s.way (64 * b + w)).handle := by
  simp [State.eccCorrected, State.eccRecorded, h]

theorem eccCorrected_node {s : State} {l i : Nat} (h : s.cached l i = true) :
    s.eccCorrected (.node l i) = s.eccRecorded l (i * 8 ^ l) := if_pos h

/-! ## Uncorrectable errors of a way (R120) -/

/-- The error of a way that has changed is recorded, and its fault is raised. -/
def State.eccFault (s : State) (level handle : Nat) : State :=
  ((s.ctxError 5 level handle).lasting (pg .ctx)).raiseFault (pg .ctx) 11

theorem eccFault_keeps (s : State) (level handle : Nat) : s.Within (only [.regs, .hdrs, .irq]) (s.eccFault level handle) :=
  have h := ctxError_within (F := only [.regs, .hdrs, .irq]) (Part.All.of_all rfl) 5 level handle (Within.refl s)
  raiseFault_within (Part.All.of_all rfl) _ _ (lasting_within (Part.All.of_all rfl) _ h)

theorem eccFault_regsBut (s : State) (level handle : Nat) : RegsBut storeRegs s (s.eccFault level handle) :=
  (ctxError_regsBut s 5 level handle).trans (.of_regs
    ((raiseFault_within (F := only [.hdrs, .irq]) (Part.all_only _) _ _
      (lasting_within (Part.all_only _) _ (Within.refl (s.ctxError 5 level handle)))).regs rfl))

theorem eccFault_hst (s : State) (level handle : Nat) (p : PageRef) : (s.eccFault level handle).hst p = s.hst p :=
  hst_within (eccFault_keeps s level handle) rfl p

theorem eccFault_bit (s : State) (level handle : Nat) :
    ((s.eccFault level handle).hdr (pg .ctx)).fault.getLsbD 11 = true := raiseFault_bit _ _ _ (by decide)

/-- What is left of a changed way after an error. -/
def Way.eccFenced (w : Way) : Way :=
  { w with st := .fenced, dirty := true, evictPend := false, ctx := if w.retiring then w.ctx else { w.ctx with st := .fenced } }

@[simp] theorem Way.eccFenced_handle (w : Way) : w.eccFenced.handle = w.handle := rfl

theorem eccWay_dirty {s : State} {k : Nat} (hf : (s.way k).st ≠ .free) (hl : (s.way k).st ≠ .filling) (hd : (s.way k).dirty = true) :
    s.eccWay k = (s.eccFault 0xF (s.way k).handle).updWay k Way.eccFenced := by
  unfold State.eccWay
  simp only [beq_eq_false_iff_ne.mpr hf, beq_eq_false_iff_ne.mpr hl, hd, Bool.or_self, Bool.true_or, Bool.false_eq_true, if_false,
    if_true]
  rfl

/-- A handle is noted, for the transient error that its next page-in is. -/
def State.noteDropped (s : State) (h : Nat) : State := { s with ctx := { s.ctx with eccDropped := s.ctx.eccDropped ++ [h] } }

theorem noteDropped_way (s : State) (h k : Nat) : (s.noteDropped h).way k = s.way k := rfl
theorem noteDropped_dropped (s : State) (h : Nat) : (s.noteDropped h).ctx.eccDropped = s.ctx.eccDropped ++ [h] := rfl
theorem noteDropped_hdrs (s : State) (h : Nat) : (s.noteDropped h).hdrs = s.hdrs := rfl
theorem setWay_dropped (s : State) (k : Nat) (w : Way) : (s.setWay k w).ctx.eccDropped = s.ctx.eccDropped := rfl

/-- A clean way is dropped after an error. -/
def State.eccDrop (s : State) (k : Nat) : State := ((s.ctxError 5 0xF (s.way k).handle).wipeWay k).noteDropped (s.way k).handle

theorem eccWay_clean {s : State} {k : Nat} (hl : (s.way k).st = .live) (hd : (s.way k).dirty = false)
    (hv : (s.way k).wbVersion = 0) (hp : (s.way k).pins = 0) : s.eccWay k = s.eccDrop k := by
  unfold State.eccWay
  simp [hl, hd, hv, hp, State.eccDrop, State.noteDropped]

theorem eccDrop_way (s : State) (k : Nat) : (s.eccDrop k).way k = {} := by
  rw [State.eccDrop, noteDropped_way, State.wipeWay, way_setWay_same]

theorem eccDrop_dropped (s : State) (k : Nat) : (s.eccDrop k).ctx.eccDropped = s.ctx.eccDropped ++ [(s.way k).handle] := by
  rw [State.eccDrop, noteDropped_dropped, State.wipeWay, setWay_dropped, (ctxError_keeps s 5 0xF (s.way k).handle).ctx rfl]

theorem eccDrop_fault (s : State) (k : Nat) : ((s.eccDrop k).hdr (pg .ctx)).fault = (s.hdr (pg .ctx)).fault := by
  unfold State.hdr State.hdrAt
  rw [State.eccDrop, noteDropped_hdrs, State.wipeWay, State.setWay_hdrs, (ctxError_keeps s 5 0xF (s.way k).handle).hdrs rfl]

/-! ## Uncorrectable errors of a node (R112, R120) -/

/-- The write of a node that lies under another, or is that node. -/
def XKind.nodeUnder (l i : Nat) : XKind → Bool
  | .nodeWriteback j n => decide (j ≤ l) && n / 8 ^ (l - j) == i
  | _ => false

/-- The error of a dirty node: it is recorded, and the node's subtree goes with its writes. -/
def State.subtreeLost (s : State) (l i : Nat) : State :=
  ((s.eccFault l (i * 8 ^ l)).dropXfers (XKind.nodeUnder l i)).dropSubtree l i

theorem eccNode_dirty {s : State} {l i : Nat} (hc : s.cached l i = true) (hd : (s.node l i).dirty = true) :
    s.eccNode l i = match (s.subtreeLost l i).listBad false l (i * 8 ^ l) with
      | (true, t) => (false, t)
      | (false, t) => (true, { t with ctx := { t.ctx with allFenced := true } }) := by
  have hc' : (s.node l i).c.isEmpty = false := (Bool.not_eq_true' _).mp hc
  unfold State.eccNode
  simp only [hc', hd, Bool.true_or, Bool.false_eq_true, if_false, if_true]
  rfl

/-- What the loss of a subtree reaches. -/
theorem subtreeLost_keeps (s : State) (l i : Nat) : s.Within (only [.regs, .hdrs, .irq, .fab, .ctx]) (s.subtreeLost l i) :=
  dropSubtree_within (Part.All.of_all rfl) _ _ (dropXfers_within (Part.All.of_all rfl) _
    (within_of_only (eccFault_keeps s l (i * 8 ^ l))))

/-- Its fault and its registers are those of its error. -/
theorem subtreeLost_fault (s : State) (l i : Nat) : (s.eccFault l (i * 8 ^ l)).Within (only [.fab, .ctx]) (s.subtreeLost l i) :=
  dropSubtree_within (Part.All.of_all rfl) _ _ (dropXfers_within (Part.All.of_all rfl) _ (Within.refl _))

theorem subtreeLost_regsBut (s : State) (l i : Nat) : RegsBut storeRegs s (s.subtreeLost l i) :=
  (eccFault_regsBut s l (i * 8 ^ l)).trans (.of_regs ((subtreeLost_fault s l i).regs rfl))

theorem subtreeLost_bit (s : State) (l i : Nat) : ((s.subtreeLost l i).hdr (pg .ctx)).fault.getLsbD 11 = true := by
  have h : (s.subtreeLost l i).hdr (pg .ctx) = (s.eccFault l (i * 8 ^ l)).hdr (pg .ctx) := by
    unfold State.hdr State.hdrAt; rw [(subtreeLost_fault s l i).hdrs rfl]
  rw [h]; exact eccFault_bit _ _ _

/-- An entry that a filter refuses reads as an unlisted one. -/
theorem Tbl.get_filter_refused {α : Type} (d : α) (t : Tbl α) (p : Nat × α → Bool) (k : Nat) (h : ∀ v, p (k, v) = false) :
    Tbl.get d (t.filter p) k = d := by
  rcases Tbl.get_mem d (t.filter p) k with hd | hm
  · exact hd
  · exact absurd (List.mem_filter.mp hm).2 (by rw [h]; exact Bool.false_ne_true)

/-- The node itself goes with its subtree. -/
theorem subtreeLost_node (s : State) {l i : Nat} (hi : i < 2 ^ 32) : (s.subtreeLost l i).node l i = {} := by
  refine Tbl.get_filter_refused _ _ _ _ (fun v => ?_)
  have hl : nodeKey l i / 2 ^ 32 = l := by unfold nodeKey; omega
  have hx : nodeKey l i % 2 ^ 32 = i := by unfold nodeKey; omega
  show (!(decide (nodeKey l i / 2 ^ 32 ≤ l) && nodeKey l i % 2 ^ 32 / 8 ^ (l - nodeKey l i / 2 ^ 32) == i)) = false
  rw [hl, hx]
  simp

/-! ### The bad table (R112) -/

/-- An entry of the bad table for an integrity failure. -/
def badEntry (level handle : Nat) : W64 := BitVec.ofNat 64 (2 ^ 63 + b2n false * 2 ^ 62 + level * 2 ^ 32 + handle)

theorem listBad_some {s : State} {e : Nat} (he : e < 16) (hf : s.flag CTX_BAD.VALID e = false) (level handle : Nat) :
    ∃ i, i < 16 ∧ s.listBad false level handle = (true, s.setReg .CTX_BAD i (badEntry level handle)) := by
  unfold State.listBad
  split
  · next hn => exact absurd hf (by simpa using List.find?_eq_none.mp hn e (List.mem_range.mpr he))
  · next i hi => exact ⟨i, List.mem_range.mp (List.mem_of_find?_eq_some hi), rfl⟩

theorem listBad_none {s : State} (h : ∀ e, e < 16 → s.flag CTX_BAD.VALID e = true) (r : Bool) (level handle : Nat) :
    s.listBad r level handle = (false, s) := by
  have hn : firstBelow 16 (fun i => !s.flag CTX_BAD.VALID i) = none :=
    List.find?_eq_none.mpr (fun e he => by simp [h e (List.mem_range.mp he)])
  unfold State.listBad
  rw [hn]

theorem badEntry_fld (s : State) {n l x : Nat} (hl : l < 16) (hx : x < 2 ^ 28) :
    (s.setReg .CTX_BAD n (badEntry l x)).fld CTX_BAD.VALID n = 1 ∧ (s.setReg .CTX_BAD n (badEntry l x)).fld CTX_BAD.LEVEL n = l ∧
      (s.setReg .CTX_BAD n (badEntry l x)).fld CTX_BAD.HANDLE n = x := by
  have hv : (badEntry l x).toNat = 2 ^ 63 + l * 2 ^ 32 + x := by
    rw [badEntry, BitVec.toNat_ofNat, b2n, if_neg Bool.false_ne_true]
    omega
  have hf (hi lo : Nat) : fget ((s.setReg .CTX_BAD n (badEntry l x)).reg .CTX_BAD n) hi lo = bitsOf (2 ^ 63 + l * 2 ^ 32 + x) hi lo := by
    rw [reg_setReg_same, fget, hv]
  exact ⟨(hf 63 63).trans (by unfold bitsOf; omega), (hf 35 32).trans (by unfold bitsOf; omega),
    (hf 27 0).trans (by unfold bitsOf; omega)⟩

/-- An entry covers every handle under its node. -/
theorem badEntry_covers (s : State) {n l i h : Nat} (hl : l < 16) (hi : i * 8 ^ l < 2 ^ 28) (hh : h / 8 ^ l = i) :
    (s.setReg .CTX_BAD n (badEntry l (i * 8 ^ l))).badCovers n h = true := by
  obtain ⟨hvalid, hlevel, hhandle⟩ := badEntry_fld s (n := n) hl hi
  have hd : i * 8 ^ l / 8 ^ l = i := Nat.mul_div_cancel _ (by positivity)
  simp [State.badCovers, State.flag, hvalid, hlevel, hhandle, hd, hh]

theorem badStatus_of_covers {s : State} {n h : Nat} (hn : n < 16) (hc : s.badCovers n h = true) :
    (s.badStatus h).isSome = true := by
  rw [State.badStatus, Option.isSome_map]
  exact List.find?_isSome.mpr ⟨n, List.mem_range.mpr hn, hc⟩

/-- A dirty node's subtree is in the bad table, at one of its entries. -/
def State.subtreeListed (s : State) (l i n : Nat) : State := (s.subtreeLost l i).setReg .CTX_BAD n (badEntry l (i * 8 ^ l))

theorem setReg_node (s : State) (r : Reg) (n : Nat) (v : W64) (l i : Nat) : (s.setReg r n v).node l i = s.node l i := rfl

theorem subtreeListed_node (s : State) {l i : Nat} (hi : i < 2 ^ 32) (n : Nat) : ((s.subtreeListed l i n).node l i).c = [] := by
  rw [State.subtreeListed, setReg_node, subtreeLost_node s hi]

theorem subtreeListed_bit (s : State) (l i n : Nat) : ((s.subtreeListed l i n).hdr (pg .ctx)).fault.getLsbD 11 = true := by
  have h := subtreeLost_bit s l i
  unfold State.hdr State.hdrAt at h ⊢
  rwa [State.subtreeListed, State.setReg_hdrs]

/-! ## The fence of the context store (R37, R120) -/

namespace StoreStep

variable {s t u : State}

/-- The store's state and its fence, whatever else changes. -/
theorem freeRegs (h : StoreStep Set.univ [] s t) (k : t.Within (fun x => x != .ctx) u) : StoreStep Set.univ [] s u :=
  have hc := k.ctx rfl
  h.trans ⟨congrArg _ hc, congrArg _ hc, fun n e => absurd (Set.mem_univ n) e, by rw [hc]; exact id,
    fun _ e => absurd e List.not_mem_nil⟩

theorem upd (h : StoreStep Set.univ [] s t) (k : Nat) (f : Way → Way) : StoreStep Set.univ [] s (t.updWay k f) :=
  h.updWay (Set.mem_univ k) f

theorem purgeOld (h : StoreStep Set.univ [] s t) (k : Nat) : StoreStep Set.univ [] s (t.purgeOld k) := by
  unfold State.purgeOld
  extract_lets x keep
  generalize (fun w : Way => _) = f
  exact h.upd k f

theorem modCtx (h : StoreStep Set.univ [] s t) (k : Nat) (f : Ctx → Ctx) : StoreStep Set.univ [] s (t.modCtx k f) := by
  unfold State.modCtx
  extract_lets key
  generalize (fun w : Way => _) = g
  exact h.upd k g

theorem unpin (h : StoreStep Set.univ [] s t) (x : Nat) : StoreStep Set.univ [] s (t.unpin x) := by
  have hR : ([] : List Reg).Disjoint storeRegs := List.disjoint_nil_left _
  unfold State.unpin
  split
  · exact h
  · rename_i k _
    extract_lets u w
    have hu : StoreStep Set.univ [] s u := (h.upd k _).purgeOld k
    split
    · exact hu
    · split
      · exact (hu.upd k _).writeBack hR (Set.mem_univ k)
      · split
        · exact hu.writeBack hR (Set.mem_univ k)
        · split
          · exact (hu.upd k _).evict hR (Set.mem_univ k)
          · exact hu

theorem dropFrame (h : StoreStep Set.univ [] s t) (f : Frame) : StoreStep Set.univ [] s (t.dropFrame f) := by
  unfold State.dropFrame
  extract_lets _ u
  have hu : StoreStep Set.univ [] s u := h.same
  exact unpin (hu.freeRegs (stage_within (Part.All.of_all rfl) _ _ _ (Within.refl u))) _

theorem push (h : StoreStep Set.univ [] s t) (p : Nat) (k : Compl) : StoreStep Set.univ [] s (t.push p k) :=
  h.free (push_within (Part.All.of_all rfl) _ _ (Within.refl t))

theorem endJob (h : StoreStep Set.univ [] s t) (p : Nat) (j : Job) (k : Compl) : StoreStep Set.univ [] s (t.endJob p j k) :=
  h.push p _

theorem dropXfers (h : StoreStep Set.univ [] s t) (p : XKind → Bool) : StoreStep Set.univ [] s (t.dropXfers p) :=
  h.free (dropXfers_within (Part.All.of_all rfl) _ (Within.refl t))

theorem recallChain (h : StoreStep Set.univ [] s t) (e : Elem) : StoreStep Set.univ [] s (t.recallChain e).2 := by
  unfold State.recallChain
  extract_lets late l
  exact foldl (t := { t with qeng := _, ctx := _ }) h.same _ (fun _ _ _ hu => hu.same)

theorem chainOff (h : StoreStep Set.univ [] s t) (e : Elem) : StoreStep Set.univ [] s (t.chainOff e) := by
  unfold State.chainOff
  split
  · exact h
  · have hi : StoreStep Set.univ [] s t.issueRest := h.freeRegs (issueRest_within (Part.All.of_all rfl) (Within.refl t))
    exact (hi.recallChain e).freeRegs (fnCount_within (Part.All.of_all rfl) _ _ _
      (abortChain_within (Part.All.of_all rfl) _ _ _ (Within.refl _)))

theorem endPushed (h : StoreStep Set.univ [] s t) (f : Frame) (status reason : Nat) :
    StoreStep Set.univ [] s (t.endPushed f status reason) := by
  unfold State.endPushed State.settle
  extract_lets u c v w
  have hu : StoreStep Set.univ [] s u := h.dropXfers _
  have hw : StoreStep Set.univ [] s w :=
    (hu.freeRegs (mapCompl_within (Part.All.of_all rfl) _ _ (Within.refl u))).dropFrame f
  have hr {x : State} (hx : StoreStep Set.univ [] s x) : StoreStep Set.univ [] s x.releaseWaiting :=
    hx.freeRegs (releaseWaiting_within (Part.All.of_all rfl) (Within.refl x))
  split
  · exact hr (hw.chainOff _)
  · exact hr hw

theorem endFrame (h : StoreStep Set.univ [] s t) (f : Frame) (p status reason : Nat) :
    StoreStep Set.univ [] s (t.endFrame f p status reason) := by
  rw [endFrame_eq]
  exact ((h.freeRegs (frameOut_within (Part.All.of_all rfl) t f)).dropFrame f).push _ _

theorem endFrames (h : StoreStep Set.univ [] s t) (p : Frame → Bool) (status : Nat) :
    StoreStep Set.univ [] s (t.endFrames p status) := by
  refine h.foldl _ (fun u f _ hu => ?_)
  split
  · exact hu.endPushed _ _ _
  · exact hu.endFrame _ _ _ _
  · exact hu.endFrame _ _ _ _

theorem ctxAbort (h : StoreStep Set.univ [] s t) (status : Nat) : StoreStep Set.univ [] s (t.ctxAbort status) := by
  unfold State.ctxAbort
  extract_lets waiting u _ v w jobs _ x
  have hv : StoreStep Set.univ [] s v := same (t := u) (h.dropXfers _)
  have hw : StoreStep Set.univ [] s w := hv.foldl _ (fun _ _ _ hz => hz.failWaiting _ _)
  have hx : StoreStep Set.univ [] s x := hw.same
  exact hx.foldl _ (fun _ _ _ hz => hz.endJob _ _ _)

theorem auditClear (h : StoreStep Set.univ [] s t) (x : Nat) (counts : List Nat) (ok : Bool) :
    StoreStep Set.univ [] s (t.auditClear x counts ok) := by
  unfold State.auditClear
  split
  · exact h
  · extract_lets d u
    have hu : StoreStep Set.univ [] s u := by
      unfold u
      split
      · exact h.modCtx _ _
      · exact h
    exact hu.unpin _

theorem abortFinishes (h : StoreStep Set.univ [] s t) (p : Finish → Bool) (status reason : Nat) :
    StoreStep Set.univ [] s (t.abortFinishes p status reason) := by
  unfold State.abortFinishes
  extract_lets l u v
  have hv : StoreStep Set.univ [] s v := same (t := u) (h.dropXfers _)
  refine hv.foldl _ (fun w f _ hw => push ?_ _ _)
  split
  · exact hw.auditClear _ _ _
  · exact hw

/-- The work of the context store, ended. -/
theorem abortStore (h : StoreStep Set.univ [] s t) (status : Nat) : StoreStep Set.univ [] s (t.abortBlock (pg .ctx) status) := by
  have he : t.abortBlock (pg .ctx) status =
      (((t.endFrames (fun f => f.st != .pushed) status).ctxAbort status).abortFinishes
        (fun f => f.producer == 22) status 0).dropReads := rfl
  rw [he]
  exact (((h.endFrames _ status).ctxAbort status).abortFinishes _ status 0).freeRegs
    (dropReads_within (Part.All.of_all rfl) (Within.refl _))

end StoreStep

/-- Once its work has ended, the fence of a block with nothing under it reaches headers and the fault log alone. -/
theorem enterFenced_alone (s : State) {p : PageRef} (r : FenceRec) (hc : (p.kind == PageKind.dcore) = false)
    (hm : (p.kind == PageKind.dmaChannel) = false) (hu : ∀ u : State, u.followUnder p = u) (hr : r.level ≠ 5) :
    FenceStep (s.abortBlock p stFenced) (s.enterFenced p r) := by
  unfold State.enterFenced
  rw [hc, hm, beq_eq_false_iff_ne.mpr hr]
  simp only [Bool.false_eq_true, if_false, hu]
  generalize s.abortBlock p stFenced = u
  have hh (v : State) : FenceStep v (v.updHdr p (fun h => { h with fence := r, rearm := false, pendFence := none })) :=
    .of_rise (updHdr_within (Part.All.of_all rfl) (Within.refl v)) (updHdr_rise v p _)
  have hmarked := ((FenceStep.setBlk u p .fenced).trans (hh _)).trans (FenceStep.raiseFault _ p 7)
  exact (hmarked.trans (FenceStep.logFence _ _ _ _ _)).trans (FenceStep.lanesFollow _)

/-- A fence of the context store leaves whether every context request fails. -/
theorem fence_allFenced {s : State} (c : Nat) (hb : (s.hdr (pg .ctx)).st = .on) :
    (s.fence (pg .ctx) c).ctx.allFenced = s.ctx.allFenced := by
  rw [fence_eq c hb]
  have hl : fenceLevel (pg .ctx) ≠ 5 := by decide
  have hf := (enterFenced_alone s (p := pg .ctx) ⟨c, fenceLevel (pg .ctx), false⟩ rfl rfl (fun _ => rfl) hl).trans
    (FenceStep.ascending _ s.irq.msgs.length)
  rw [hf.keeps.ctx rfl]
  exact ((StoreStep.refl Set.univ [] s).abortStore stFenced).fenced

theorem fence_store {s : State} (c : Nat) (hb : (s.hdr (pg .ctx)).st = .on) :
    (s.fence (pg .ctx) c).blk (pg .ctx) = .fenced ∧
      ((s.fence (pg .ctx) c).hdr (pg .ctx)).fence = ⟨c, fenceLevel (pg .ctx), false⟩ := by
  rw [fence_eq c hb]
  have he := enterFenced_hdr s (pg .ctx) ⟨c, fenceLevel (pg .ctx), false⟩
  generalize s.enterFenced (pg .ctx) ⟨c, fenceLevel (pg .ctx), false⟩ = u at he ⊢
  exact he

/-! ## The commands -/

theorem exec_eccCorrected {s : State} (hwork : s.working = true) (c : CacheRef) :
    exec (.ctxEccCorrected c) s = .next (s.eccCorrected c) := congrArg Host.Outcome.next (if_pos hwork)

theorem exec_eccWay {s : State} (hwork : s.working = true) {b w : Nat} (hb : b < 64) (hw : w < 64) :
    exec (.ctxEccUncorrectable (.way b w)) s = .next (s.eccWay (64 * b + w)) :=
  congrArg Host.Outcome.next ((if_pos hwork).trans (if_pos ⟨hb, hw⟩))

/-- An error of a node fences the block where the bad table has no room. -/
def eccAfter (r : Bool × State) : State := if r.1 then r.2.fence (pg .ctx) 0x08 else r.2

theorem exec_eccNode {s : State} (hwork : s.working = true) (l i : Nat) :
    exec (.ctxEccUncorrectable (.node l i)) s = .next (eccAfter (s.eccNode l i)) :=
  congrArg Host.Outcome.next (if_pos hwork)

theorem eccNode_listed {s : State} {l i : Nat} {t : State} (hc : s.cached l i = true) (hd : (s.node l i).dirty = true)
    (hl : (s.subtreeLost l i).listBad false l (i * 8 ^ l) = (true, t)) : s.eccNode l i = (false, t) := by
  rw [eccNode_dirty hc hd, hl]

/-- Every context request fails from here on. -/
def State.fenceAll (s : State) : State := { s with ctx := { s.ctx with allFenced := true } }

theorem eccNode_full {s : State} {l i : Nat} (hc : s.cached l i = true) (hd : (s.node l i).dirty = true)
    (hl : ∀ e, e < 16 → (s.subtreeLost l i).flag CTX_BAD.VALID e = true) : s.eccNode l i = (true, (s.subtreeLost l i).fenceAll) := by
  rw [eccNode_dirty hc hd, listBad_none hl]
  rfl

/-- Settles O32, clause by clause. -/
theorem cacheErrorsAreContained : Obligations.CacheErrorsAreContained := by
  unfold Obligations.CacheErrorsAreContained
  refine ⟨?_, ?_, ?_, ?_, ?_, ?_⟩
  · intro s b w hwork hf
    have hr := eccRecorded_reg s 0xF (s.way (64 * b + w)).handle .CTX_ERR_INFO 0
    refine ⟨_, (exec_eccCorrected hwork _).trans (congrArg Host.Outcome.next (eccCorrected_way hf)), raiseEvent_bit _ _ _ (by decide),
      eccRecorded_ctx _ _ _, (flag_of_reg hr).trans (ctxError_valid _ _ _ _), (fld_of_reg hr).trans (ctxError_count _ _ _ _),
      fun hv => (fld_of_reg hr).trans ?_⟩
    exact (ctxError_fld s 4 0xF _).trans (ctxFirst_kind (by decide) _ _ hv)
  · intro s l i hwork hc
    exact ⟨_, (exec_eccCorrected hwork _).trans (congrArg Host.Outcome.next (eccCorrected_node hc)), raiseEvent_bit _ _ _ (by decide),
      eccRecorded_ctx _ _ _, (flag_of_reg (eccRecorded_reg s l (i * 8 ^ l) .CTX_ERR_INFO 0)).trans (ctxError_valid _ _ _ _)⟩
  · intro s b w hwork hb hw hf hl hd
    refine ⟨_, (exec_eccWay hwork hb hw).trans (congrArg Host.Outcome.next (eccWay_dirty hf hl hd)), ?_, ?_, ?_, eccFault_bit _ _ _⟩ <;>
      rw [way_updWay_same]
    · rfl
    · rfl
    · exact (Way.eccFenced_handle _).trans (congrArg Way.handle (way_congr ((eccFault_keeps s 0xF _).ctx rfl) _))
  · intro s b w hwork hb hw hl hd hv hp
    exact ⟨_, (exec_eccWay hwork hb hw).trans (congrArg Host.Outcome.next (eccWay_clean hl hd hv hp)), eccDrop_way s _,
      eccDrop_dropped s _, eccDrop_fault s _⟩
  · intro s l i e hwork hl hi hc hd he hfree
    have hil : i < 2 ^ 32 := lt_of_le_of_lt (Nat.le_mul_of_pos_right i (by positivity)) (hi.trans (by decide))
    obtain ⟨n, hn, hlist⟩ := listBad_some he (((subtreeLost_regsBut s l i).flag CTX_BAD.VALID e).trans hfree) l (i * 8 ^ l)
    have hx : exec (.ctxEccUncorrectable (.node l i)) s = .next (s.subtreeListed l i n) :=
      (exec_eccNode hwork l i).trans (congrArg (fun r => Host.Outcome.next (eccAfter r)) (eccNode_listed hc hd hlist))
    exact ⟨_, hx, subtreeListed_node s hil n, subtreeListed_bit s l i n,
      fun h hh => badStatus_of_covers hn (badEntry_covers _ hl hi hh)⟩
  · intro s l i hwork hc hd hfull hon
    have hflags (e : Nat) (he : e < 16) : (s.subtreeLost l i).flag CTX_BAD.VALID e = true :=
      ((subtreeLost_regsBut s l i).flag CTX_BAD.VALID e).trans (hfull e he)
    have hst : ((s.subtreeLost l i).fenceAll.hdr (pg .ctx)).st = .on :=
      (hst_st (hst_within (subtreeLost_keeps s l i) rfl (pg .ctx))).trans (beq_iff_eq.mp hon)
    exact ⟨_, (exec_eccNode hwork l i).trans (congrArg (fun r => Host.Outcome.next (eccAfter r)) (eccNode_full hc hd hflags)),
      fence_allFenced 0x08 hst, fence_store 0x08 hst⟩

end Sys2Proof.Machine
end

section
/-! PROOFS. The statements of 06_hitless_rekey.md: epochs are presented by cell and by command, and the guard closes a schedule (O36,
R137–R140). -/

namespace Sys2Proof.Machine

/-! ## An epoch is presented (R138) -/

/-- A scheduled flip alone closes the epoch. -/
theorem epochClosed_unscheduled {s : State} (h : s.epoch.scheduled = false) : s.epochClosed = false := by
  rw [State.epochClosed, h, Bool.false_and]

/-- What presenting E leaves before a schedule: E is pending, as it was or from now on. -/
def State.epochKnown (s : State) (e : Nat) : State := if e == s.epoch.pend && s.epoch.pending then s else s.epochPend e

/-- An epoch that is not above EPOCH_CUR, or an arm of one that is not the scheduled one, is refused. -/
theorem epochAsk_refused {s : State} {flip : Bool} {e : Nat} (t src : Nat)
    (h : e ≤ s.fld EPOCH_CUR.EPOCH 0 ∨ flip = false ∧ s.epoch.scheduled = true ∧ e ≠ s.epoch.pend) :
    s.epochAsk flip e t src = (true, s.putFlag EPOCH_STS.CELL_REFUSED 0 true) := by
  unfold State.epochAsk
  split
  · rfl
  · next hcur =>
    obtain ⟨rfl, hs, he⟩ := h.resolve_left hcur
    simp [hs, he]

/-- A flip whose time has passed is late. -/
theorem epochAsk_late {s : State} {e t : Nat} (src : Nat) (hcur : s.fld EPOCH_CUR.EPOCH 0 < e) (hs : s.epoch.scheduled = false)
    (ht : t ≤ s.now) : s.epochAsk true e t src = (true, (s.putFlag EPOCH_STS.CELL_LATE 0 true).epochMissed) := by
  simp [State.epochAsk, Nat.not_le.mpr hcur, epochClosed_unscheduled hs, ht]

/-- Beside no schedule an arm of a later epoch makes it pending. -/
theorem epochAsk_arm {s : State} {e : Nat} (t src : Nat) (hcur : s.fld EPOCH_CUR.EPOCH 0 < e) (hs : s.epoch.scheduled = false) :
    s.epochAsk false e t src = (false, s.epochKnown e) := by
  simp [State.epochAsk, State.epochKnown, Nat.not_le.mpr hcur, epochClosed_unscheduled hs, hs]

/-- Beside no schedule a flip of a later epoch makes it pending and schedules it. -/
theorem epochAsk_flip {s : State} {e t : Nat} (src : Nat) (hcur : s.fld EPOCH_CUR.EPOCH 0 < e) (hs : s.epoch.scheduled = false)
    (ht : s.now < t) : s.epochAsk true e t src = (false, { (s.epochKnown e).put EPOCH_TIME.TIME 0 t with
      epoch := { (s.epochKnown e).epoch with scheduled := true, src := src } }) := by
  simp [State.epochAsk, State.epochKnown, Nat.not_le.mpr hcur, epochClosed_unscheduled hs, hs, Nat.not_le.mpr ht]

theorem epochMissed_epoch (s : State) : s.epochMissed.epoch = s.epoch := (raiseEvent_keeps s _ _).epoch rfl

theorem epochPend_epoch (s : State) (e : Nat) : (s.epochPend e).epoch = { s.epoch with pend := e, pending := true } :=
  (raiseEvent_keeps _ _ _).epoch rfl

theorem epochPend_armed (s : State) (e : Nat) : (s.epochPend e).fld EPOCH_ARMED.COUNT 0 = 0 :=
  (fld_congr _ _ (raiseEvent_regs _ _ _)).trans (fld_put_same _ EPOCH_ARMED.COUNT 0 0)

theorem epochPend_event (s : State) (e : Nat) : ((s.epochPend e).hdr (pg .hatband)).event.getLsbD 12 = true :=
  raiseEvent_bit _ _ _ (by decide)

theorem epochKnown_epoch (s : State) (e : Nat) : (s.epochKnown e).epoch = { s.epoch with pend := e, pending := true } := by
  unfold State.epochKnown
  split
  · next h =>
    obtain ⟨he, hp⟩ := Bool.and_eq_true_iff.mp h
    rw [beq_iff_eq.mp he, ← hp]
  · exact epochPend_epoch s e

theorem epochKnown_new {s : State} {e : Nat} (h : e ≠ s.epoch.pend ∨ s.epoch.pending = false) :
    s.epochKnown e = s.epochPend e := by
  refine if_neg (fun c => ?_)
  obtain ⟨he, hp⟩ := Bool.and_eq_true_iff.mp c
  rcases h with h | h
  · exact h (beq_iff_eq.mp he)
  · rw [h] at hp
    cases hp

/-! ## The states that the epoch logic does not tell apart -/

/-- The epoch logic finds in t what it finds in s: its state, chain time, and the registers but EPOCH_CTL. -/
structure EpochsAlike (s t : State) : Prop where
  epoch : t.epoch = s.epoch
  now : t.now = s.now
  regs : RegsBut [.EPOCH_CTL] s t

theorem EpochsAlike.epochClosed {s t : State} (h : EpochsAlike s t) : t.epochClosed = s.epochClosed := by
  unfold State.epochClosed State.epochGuard
  rw [h.epoch, h.now, h.regs.fld EPOCH_TIME.TIME 0, h.regs.fld EPOCH_XGUARD.GUARD 0]

/-! ## Epoch cells (R137, R277) -/

/-- The tile acts on an epoch cell only outside bypass, and counts none that it acts on. -/
theorem hbReceive_epochCell {s : State} {c : Cell} (hc : cellByte c 0 = 5 ∨ cellByte c 0 = 6) (h : (s.hbReceive c).1 = true) :
    (s.hbReceive c).2 = s.hbPass c := by
  have hbyte : ¬ (cellByte c 0 = 0 ∨ 0x0B < cellByte c 0) ∧ ¬ cellByte c 0 ≤ 4 ∧ (cellByte c 0 == 0x0A) = false := by
    rcases hc with hc | hc <;> rw [hc] <;> decide
  obtain ⟨hkind, hfour, hbypass⟩ := hbyte
  unfold State.hbReceive at h ⊢
  simp only [hkind, hfour, hbypass, if_false, Bool.false_and] at h ⊢
  split_ifs at h ⊢
  rfl

theorem hbPass_alike (s : State) (c : Cell) : EpochsAlike s (s.hbPass c) := by
  have hk : s.Within (only [.hb]) (s.hbPass c) := hbPass_within (Part.all_only _) c (Within.refl s)
  refine ⟨hk.epoch rfl, congrArg (fun n => n / 16 % 2 ^ 64) (?_ : (s.hbPass c).hb.time = s.hb.time), .of_regs (hk.regs rfl)⟩
  unfold State.hbPass
  extract_lets u
  have hu : u.hb.time = s.hb.time := by
    unfold u State.elasticTake
    extract_lets most
    split <;> rfl
  rw [← hu]
  unfold State.hbSend
  split <;> rfl

/-- An epoch cell that the tile acts on is presented. -/
theorem onCell_epoch {s : State} {k : Nat} {c : Cell} (hk : k = 5 ∨ k = 6) (hc : cellByte c 0 = k) (ha : (s.hbReceive c).1 = true)
    (he : s.flag EPOCH_CTL.CELL_EN 0 = true) :
    s.onCell k c (fun u => u.epochCell c) = ((s.hbPass c).epochAsk (k == 6) (cellNum c 2 4) (cellNum c 6 8) 1).2 := by
  have hp := hbReceive_epochCell (hc ▸ hk) ha
  have hen : (s.hbPass c).flag EPOCH_CTL.CELL_EN 0 = true :=
    (flag_congr _ _ ((hbPass_within (F := only [.hb]) (Part.all_only _) c (Within.refl s)).regs rfl)).trans he
  rw [State.onCell, if_pos hc]
  simp only [ha, hp, if_true, State.epochCell, hen, hc]

theorem exec_epochArm {s : State} {c : Cell} (hc : cellByte c 0 = 5) (ha : (s.hbReceive c).1 = true)
    (he : s.flag EPOCH_CTL.CELL_EN 0 = true) :
    exec (.epochArm c) s = .next ((s.hbPass c).epochAsk false (cellNum c 2 4) (cellNum c 6 8) 1).2 :=
  congrArg Host.Outcome.next (onCell_epoch (.inl rfl) hc ha he)

theorem exec_epochFlip {s : State} {c : Cell} (hc : cellByte c 0 = 6) (ha : (s.hbReceive c).1 = true)
    (he : s.flag EPOCH_CTL.CELL_EN 0 = true) :
    exec (.epochFlip c) s = .next ((s.hbPass c).epochAsk true (cellNum c 2 4) (cellNum c 6 8) 1).2 :=
  congrArg Host.Outcome.next (onCell_epoch (.inr rfl) hc ha he)

/-! ## Writes of EPOCH_CTL (R139) -/

/-- What the bits ARM, SCHED and CANCEL of a write ask for, in this order. -/
def State.epochAsked (s : State) (arm sched cancel : Bool) : State :=
  let u := if arm then s.epochArm false else s
  let u := if sched then u.epochArm true else u
  if cancel then u.epochCancel else u

theorem writeReg_epochCtl (s : State) (v : W64) :
    s.writeReg .EPOCH_CTL 0 v 0xFFFFFFFF = (s.store .EPOCH_CTL 0 v 0xFFFFFFFF).epochAsked ((v &&& 0xFFFFFFFF).getLsbD 0)
      ((v &&& 0xFFFFFFFF).getLsbD 1) ((v &&& 0xFFFFFFFF).getLsbD 2) := rfl

/-- The fields of EPOCH_CTL are written as they stand, with one bit set. -/
def State.epochCtlTaken (s : State) (f : Fld) : State := s.store .EPOCH_CTL 0 ((s.withBit f 0).setWidth 64) 0xFFFFFFFF

theorem epochCtlTaken_alike (s : State) (f : Fld) : EpochsAlike s (s.epochCtlTaken f) where
  epoch := rfl
  now := rfl
  regs := fun _ _ hr => store_reg_ne s _ _ (.inl (fun e => hr (e ▸ List.mem_singleton_self _)))

/-- No bit that asks for something is written as it stands. -/
theorem epochCtl_asks : ∀ i < 3, (Reg.EPOCH_CTL.bitsOf (fun a => a == .rw || a == .rwx)).getLsbD i = false := by decide

theorem epochCtl_bit (s : State) {f : Fld} (hf : f.reg = .EPOCH_CTL) {i : Nat} (hi : i < 3) :
    ((s.withBit f 0).setWidth 64 &&& 0xFFFFFFFF : W64).getLsbD i = (f.word 1).getLsbD i := by
  rw [lowWord_setWidth, BitVec.getLsbD_setWidth, State.withBit, BitVec.getLsbD_or, State.asItStands, BitVec.getLsbD_setWidth,
    BitVec.getLsbD_and, hf, epochCtl_asks i hi]
  simp [show i < 64 by omega]

/-- A write of EPOCH_CTL that the port performs asks for what its bit says. -/
theorem cpReg_epochCtl {s : State} {f : Fld} {req : Req} (hf : f.reg = .EPOCH_CTL) (h : s.OpenReg .EPOCH_CTL 0 req) :
    s.cpReg .EPOCH_CTL 0 (s.withBit f 0) req = ((s.epochCtlTaken f).epochAsked ((f.word 1).getLsbD 0) ((f.word 1).getLsbD 1)
      ((f.word 1).getLsbD 2)).answeredOk := by
  rw [cpReg_open s _ _ _ _ h, writeReg_epochCtl, epochCtl_bit s hf (by decide), epochCtl_bit s hf (by decide),
    epochCtl_bit s hf (by decide)]
  rfl

theorem exec_epochCtlArm {s : State} {req : Req} (h : s.OpenReg .EPOCH_CTL 0 req) :
    exec (.epochCtlArm req) s = .next ((s.epochCtlTaken EPOCH_CTL.ARM).epochArm false).answeredOk :=
  congrArg Host.Outcome.next (cpReg_epochCtl rfl h)

theorem exec_epochCtlSched {s : State} {req : Req} (h : s.OpenReg .EPOCH_CTL 0 req) :
    exec (.epochCtlSched req) s = .next ((s.epochCtlTaken EPOCH_CTL.SCHED).epochArm true).answeredOk :=
  congrArg Host.Outcome.next (cpReg_epochCtl rfl h)

theorem exec_epochCtlCancel {s : State} {req : Req} (h : s.OpenReg .EPOCH_CTL 0 req) :
    exec (.epochCtlCancel req) s = .next (s.epochCtlTaken EPOCH_CTL.CANCEL).epochCancel.answeredOk :=
  congrArg Host.Outcome.next (cpReg_epochCtl rfl h)

theorem epochArm_accepted {s t : State} {flip : Bool}
    (h : s.epochAsk flip s.epoch.stored (s.fld EPOCH_TIME.TIME 0) 2 = (false, t)) : s.epochArm flip = t := by
  rw [State.epochArm, h]
  rfl

theorem epochArm_refused {s t : State} {flip : Bool}
    (h : s.epochAsk flip s.epoch.stored (s.fld EPOCH_TIME.TIME 0) 2 = (true, t)) : s.epochArm flip = t.seq (pg .hatband) := by
  rw [State.epochArm, h]
  rfl

theorem seq_epoch (s : State) (p : PageRef) : (s.seq p).epoch = s.epoch := (raiseFault_keeps s p 5).epoch rfl

theorem epochCancel_closed {s : State} (h : s.epochClosed = true) : s.epochCancel = s.seq (pg .hatband) := if_pos h

theorem epochCancel_open {s : State} (h : s.epochClosed = false) :
    s.epochCancel.epoch = { s.epoch with pending := false, scheduled := false, src := 0 } := by
  rw [State.epochCancel, if_neg (Bool.eq_false_iff.mp h)]

/-! ## Chain time reaches the guard (R140) -/

/-- No step of chain time is longer than 8 ns. -/
theorem timeStep_le (s : State) : 1 ≤ s.timeStep ∧ s.timeStep ≤ 8 := by
  unfold State.timeStep
  split <;> decide

/-- The first count that is t or later is less than a step behind t. -/
theorem nanosTo_bounds (s : State) (t : Nat) :
    t ≤ s.now + s.nanosTo t ∧ (t ≤ s.now → s.nanosTo t = 0) ∧ s.now + s.nanosTo t < max t s.now + 8 := by
  obtain ⟨h1, h8⟩ := timeStep_le s
  unfold State.nanosTo
  generalize s.timeStep = k at h1 h8
  have hmul := Nat.div_mul_le_self (t - s.now + k - 1) k
  have hlt := Nat.lt_div_mul_add (a := t - s.now + k - 1) (b := k) (by omega)
  refine ⟨by omega, fun h => ?_, by omega⟩
  rw [Nat.div_eq_of_lt (by omega), Nat.zero_mul]

theorem timeReaches_time (s : State) (t : Nat) : (s.timeReaches t).hb.time = s.hb.time + 16 * s.nanosTo t := rfl

theorem timeReaches_now {s : State} {t : Nat} (h : t + 8 ≤ 2 ^ 64) : (s.timeReaches t).now = s.now + s.nanosTo t := by
  obtain ⟨-, hz, hlt⟩ := nanosTo_bounds s t
  have hn : s.now < 2 ^ 64 := Nat.mod_lt _ (by decide)
  have hsum : s.now + s.nanosTo t < 2 ^ 64 := by
    rcases Nat.le_total t s.now with h0 | h0
    · rw [hz h0]
      exact hn
    · omega
  rw [State.now, timeReaches_time, Nat.add_mul_div_left _ _ (by decide), Nat.add_mod]
  show (s.now + s.nanosTo t % 2 ^ 64) % 2 ^ 64 = _
  rw [Nat.mod_eq_of_lt (show s.nanosTo t < 2 ^ 64 by omega), Nat.mod_eq_of_lt hsum]

theorem timeReaches_keeps (s : State) (t : Nat) : s.Within (only [.regs, .hb]) (s.timeReaches t) :=
  timeReaches_within (Part.all_only _) t (Within.refl s)

theorem timeReaches_regs (s : State) (t : Nat) : RegsBut [.HB_TIME_INFO] s (s.timeReaches t) :=
  (RegsBut.of_regs rfl).trans (RegsBut.of_put (s.countReaches t) HB_TIME_INFO.AGE 0 _)

theorem fld_lt (s : State) {f : Fld} (n : Nat) : s.fld f n < 2 ^ (f.hi - f.lo + 1) := Nat.mod_lt _ (by positivity)

/-- Chain time that has come to T − guard closes the schedule. -/
theorem guardClose_closed {s : State} (h : s.epoch.scheduled = true) :
    s.guardClose = s.timeReaches (s.fld EPOCH_TIME.TIME 0 - s.epochGuard) ∧ s.guardClose.epochClosed = true ∧
      s.now ≤ s.guardClose.now := by
  have he : s.guardClose = s.timeReaches (s.fld EPOCH_TIME.TIME 0 - s.epochGuard) := if_pos h
  have hT : s.fld EPOCH_TIME.TIME 0 < 2 ^ 64 := fld_lt s 0
  have hG : 256 ≤ s.epochGuard := Nat.le_max_left _ _
  have hn := timeReaches_now (s := s) (t := s.fld EPOCH_TIME.TIME 0 - s.epochGuard) (by omega)
  have hreg := timeReaches_regs s (s.fld EPOCH_TIME.TIME 0 - s.epochGuard)
  obtain ⟨hle, -, -⟩ := nanosTo_bounds s (s.fld EPOCH_TIME.TIME 0 - s.epochGuard)
  rw [← he] at hn hreg
  have hg : s.guardClose.epochGuard = s.epochGuard := by
    unfold State.epochGuard
    rw [hreg.fld EPOCH_XGUARD.GUARD 0]
  refine ⟨he, ?_, by omega⟩
  unfold State.epochClosed
  rw [hreg.fld EPOCH_TIME.TIME 0, hg, he, (timeReaches_keeps s _).epoch rfl, h, ← he, Bool.true_and, decide_eq_true_eq]
  omega

/-! ## The clauses of O36 -/

section Asked

variable {s u : State} (hu : EpochsAlike s u)

include hu

/-- What presenting an epoch comes to, in a state alike to s. -/
theorem EpochsAlike.arms {e : Nat} (hcur : s.fld EPOCH_CUR.EPOCH 0 < e) (hs : s.epoch.scheduled = false)
    (hnew : e ≠ s.epoch.pend ∨ s.epoch.pending = false) (t src : Nat) : u.epochAsk false e t src = (false, u.epochPend e) := by
  rw [epochAsk_arm t src (hu.regs.fld EPOCH_CUR.EPOCH 0 ▸ hcur) (hu.epoch ▸ hs), epochKnown_new (hu.epoch ▸ hnew)]

theorem EpochsAlike.pend_epoch (e : Nat) : (u.epochPend e).epoch = { s.epoch with pend := e, pending := true } :=
  hu.epoch ▸ epochPend_epoch u e

theorem EpochsAlike.flips {e t : Nat} (hcur : s.fld EPOCH_CUR.EPOCH 0 < e) (hs : s.epoch.scheduled = false) (ht : s.now < t)
    (hw : t < 2 ^ 64) (src : Nat) :
    ∃ v, u.epochAsk true e t src = (false, v) ∧
      v.epoch = { s.epoch with pend := e, pending := true, scheduled := true, src := src } ∧ v.fld EPOCH_TIME.TIME 0 = t := by
  refine ⟨_, epochAsk_flip src (hu.regs.fld EPOCH_CUR.EPOCH 0 ▸ hcur) (hu.epoch ▸ hs) (hu.now ▸ ht), ?_,
    (fld_put_same _ EPOCH_TIME.TIME 0 t).trans (Nat.mod_eq_of_lt hw)⟩
  rw [epochKnown_epoch, hu.epoch]

end Asked

/-- Settles O36, clause by clause. -/
theorem epochsArePresented : Obligations.EpochsArePresented := by
  unfold Obligations.EpochsArePresented
  refine ⟨?_, ?_, ?_, ?_, ?_, ?_, ?_, ?_, ?_⟩
  · intro s c hc ha he hcur hs hnew
    have hu := hbPass_alike s c
    exact ⟨(s.hbPass c).epochPend (cellNum c 2 4),
      (exec_epochArm hc ha he).trans (congrArg (fun r => Host.Outcome.next r.2) (hu.arms hcur hs hnew _ _)),
      hu.pend_epoch _, epochPend_armed _ _, epochPend_event _ _⟩
  · intro s c hc ha he h
    have hu := hbPass_alike s c
    have hask := epochAsk_refused (s := s.hbPass c) (flip := false) (e := cellNum c 2 4) (cellNum c 6 8) 1
      (by rw [hu.regs.fld EPOCH_CUR.EPOCH 0, hu.epoch]; exact h.imp_right (fun h => ⟨rfl, h⟩))
    exact ⟨(s.hbPass c).putFlag EPOCH_STS.CELL_REFUSED 0 true,
      (exec_epochArm hc ha he).trans (congrArg (fun r => Host.Outcome.next r.2) hask), hu.epoch,
      flag_putFlag_same _ EPOCH_STS.CELL_REFUSED 0 true⟩
  · intro s c hc ha he hcur hs ht
    obtain ⟨t, hask, hep, htime⟩ := (hbPass_alike s c).flips hcur hs ht (Nat.mod_lt _ (by positivity)) 1
    exact ⟨t, (exec_epochFlip hc ha he).trans (congrArg (fun r => Host.Outcome.next r.2) hask), hep, htime⟩
  · intro s c hc ha he hcur hs ht
    have hu := hbPass_alike s c
    have hask := epochAsk_late (s := s.hbPass c) 1 (hu.regs.fld EPOCH_CUR.EPOCH 0 ▸ hcur) (hu.epoch ▸ hs) (hu.now ▸ ht)
    exact ⟨((s.hbPass c).putFlag EPOCH_STS.CELL_LATE 0 true).epochMissed,
      (exec_epochFlip hc ha he).trans (congrArg (fun r => Host.Outcome.next r.2) hask), (epochMissed_epoch _).trans hu.epoch,
      (flag_congr _ _ (raiseEvent_regs _ _ _)).trans (flag_putFlag_same _ EPOCH_STS.CELL_LATE 0 true),
      raiseEvent_bit _ _ _ (by decide)⟩
  · intro s req ho hcur hs ht
    have hu := epochCtlTaken_alike s EPOCH_CTL.SCHED
    obtain ⟨t, hask, hep, htime⟩ := hu.flips hcur hs ht (fld_lt s 0) 2
    have harm := epochArm_accepted (s := s.epochCtlTaken EPOCH_CTL.SCHED) (flip := true)
      (by rw [hu.epoch, hu.regs.fld EPOCH_TIME.TIME 0]; exact hask)
    exact ⟨_, (exec_epochCtlSched ho).trans (congrArg (fun t => Host.Outcome.next (State.answeredOk t)) harm), hep, htime⟩
  · intro s req ho hcur
    have hu := epochCtlTaken_alike s EPOCH_CTL.SCHED
    have harm := epochArm_refused (s := s.epochCtlTaken EPOCH_CTL.SCHED) (epochAsk_refused (flip := true) _ 2
      (.inl (by rw [hu.regs.fld EPOCH_CUR.EPOCH 0, hu.epoch]; exact hcur)))
    exact ⟨_, (exec_epochCtlSched ho).trans (congrArg (fun t => Host.Outcome.next (State.answeredOk t)) harm),
      (seq_epoch _ _).trans hu.epoch,
      (flag_congr _ _ (seq_regs _ _)).trans (flag_putFlag_same _ EPOCH_STS.CELL_REFUSED 0 true), seq_bit _ _⟩
  · intro s req ho h
    have hu := epochCtlTaken_alike s EPOCH_CTL.CANCEL
    refine ⟨_, exec_epochCtlCancel ho, (epochCancel_open ?_).trans (by rw [hu.epoch])⟩
    rw [hu.epochClosed]
    rcases h with h | h
    · exact epochClosed_unscheduled h
    · rw [State.epochClosed, decide_eq_false (Nat.not_le.mpr h), Bool.and_false]
  · intro s req ho hs ht
    have hu := epochCtlTaken_alike s EPOCH_CTL.CANCEL
    have hc : (s.epochCtlTaken EPOCH_CTL.CANCEL).epochClosed = true := by
      rw [hu.epochClosed, State.epochClosed, hs, decide_eq_true ht, Bool.and_self]
    exact ⟨_, (exec_epochCtlCancel ho).trans (congrArg (fun t => Host.Outcome.next (State.answeredOk t)) (epochCancel_closed hc)),
      (seq_epoch _ _).trans hu.epoch, seq_bit _ _⟩
  · intro s hs
    obtain ⟨he, hc, hn⟩ := guardClose_closed hs
    have hk := timeReaches_keeps s (s.fld EPOCH_TIME.TIME 0 - s.epochGuard)
    have hr := timeReaches_regs s (s.fld EPOCH_TIME.TIME 0 - s.epochGuard)
    rw [← he] at hk hr
    exact ⟨s.guardClose, rfl, hk.epoch rfl, hk.hdrs rfl, hc, hn, fun r n hne => hr r n (fun e => hne (List.mem_singleton.mp e))⟩

end Sys2Proof.Machine
end

section
/-! PROOFS. A flip with too few arms (O17, R141). -/

namespace Sys2Proof.Machine

/-! ## A flip takes effect (R136, R141, R142) -/

/-- A flip that is held in holdover: it is not scheduled any more, and is counted. -/
def State.flipHeld (s : State) : State :=
  ((({ s with epoch := { s.epoch with scheduled := false, src := 0 } } : State).putFlag EPOCH_STS.HELD 0 true).bump
    EPOCH_MISS.HELD_FLIPS 0 1).epochMissed

/-- A flip that has taken effect, before its arms are counted. -/
def State.flipMade (s : State) : State :=
  (({ (s.put EPOCH_CUR.EPOCH 0 s.epoch.pend).put EPOCH_LAST.TIME 0 s.now with
      epoch := { s.epoch with pending := false, scheduled := false, src := 0 } } : State).putFlag EPOCH_STS.LAST_HOLDOVER 0
    s.holdover).raiseEvent (pg .hatband) 13

/-- Arms are expected, and fewer have been accepted. -/
def State.armsShort (s : State) : Bool :=
  s.fld EPOCH_EXPECT.COUNT 0 != 0 && decide (s.fld EPOCH_ARMED.COUNT 0 < s.fld EPOCH_EXPECT.COUNT 0)

theorem flipTaken_eq (s : State) : s.flipTaken =
    if s.holdover && s.flag EPOCH_CTL.HOLD_POLICY 0 then s.flipHeld
    else if s.flipMade.armsShort then (s.flipMade.putFlag EPOCH_STS.LAST_SHORT 0 s.flipMade.armsShort).epochMissed
    else s.flipMade.putFlag EPOCH_STS.LAST_SHORT 0 s.flipMade.armsShort := rfl

theorem flipMade_regs (s : State) : RegsBut [.EPOCH_CUR, .EPOCH_LAST, .EPOCH_STS] s s.flipMade := by
  have hcur := RegsBut.of_put (l := [.EPOCH_CUR, .EPOCH_LAST, .EPOCH_STS]) s EPOCH_CUR.EPOCH 0 s.epoch.pend
  have hlast := hcur.trans (.of_put _ EPOCH_LAST.TIME 0 s.now)
  exact ((hlast.same rfl).trans (.of_putFlag _ EPOCH_STS.LAST_HOLDOVER 0 s.holdover)).same (raiseEvent_regs _ _ _)

theorem flipMade_cur (s : State) : s.flipMade.fld EPOCH_CUR.EPOCH 0 = s.epoch.pend % 2 ^ 32 := by
  refine (fld_congr _ _ (raiseEvent_regs _ _ _)).trans ((fld_put_reg _ _ _ _ (by decide)).trans ?_)
  exact (fld_put_reg (s.put EPOCH_CUR.EPOCH 0 s.epoch.pend) (f := EPOCH_LAST.TIME) (g := EPOCH_CUR.EPOCH) 0 0 s.now
    (by decide)).trans (fld_put_same s EPOCH_CUR.EPOCH 0 s.epoch.pend)

theorem flipMade_epoch (s : State) : s.flipMade.epoch = { s.epoch with pending := false, scheduled := false, src := 0 } :=
  (raiseEvent_keeps _ _ _).epoch rfl

theorem armsShort_flipMade (s : State) : s.flipMade.armsShort = s.armsShort := by
  unfold State.armsShort
  rw [(flipMade_regs s).fld EPOCH_EXPECT.COUNT 0, (flipMade_regs s).fld EPOCH_ARMED.COUNT 0]

/-- A flip that is not held, and for which too few arms were accepted, is made and reported. -/
theorem flipTaken_short {s : State} (hh : (s.holdover && s.flag EPOCH_CTL.HOLD_POLICY 0) = false) (hs : s.armsShort = true) :
    s.flipTaken = (s.flipMade.putFlag EPOCH_STS.LAST_SHORT 0 true).epochMissed := by
  rw [flipTaken_eq, hh, armsShort_flipMade, hs]
  rfl

theorem timeReaches_holdover (s : State) (t : Nat) : (s.timeReaches t).holdover = s.holdover := rfl

theorem exec_epochFlipDue {s : State} (h : s.epoch.scheduled = true) :
    exec .epochFlipDue s = .next (s.timeReaches (s.fld EPOCH_TIME.TIME 0)).flipTaken := congrArg Host.Outcome.next (if_pos h)

/-- Settles O17: the flip is reported and made at T, and a new arm starts the count again. -/
theorem shortFlipIsReported : Obligations.ShortFlipIsReported := by
  unfold Obligations.ShortFlipIsReported
  refine ⟨?_, ?_⟩
  · intro s hs hh he ha
    have hx := exec_epochFlipDue hs
    have hr := timeReaches_regs s (s.fld EPOCH_TIME.TIME 0)
    have hep := (timeReaches_keeps s (s.fld EPOCH_TIME.TIME 0)).epoch rfl
    have hho := timeReaches_holdover s (s.fld EPOCH_TIME.TIME 0)
    generalize s.timeReaches (s.fld EPOCH_TIME.TIME 0) = u at hx hr hep hho
    have hshort : u.armsShort = true := by
      unfold State.armsShort
      rw [hr.fld EPOCH_EXPECT.COUNT 0, hr.fld EPOCH_ARMED.COUNT 0, bne_iff_ne.mpr he, decide_eq_true ha, Bool.and_self]
    rw [flipTaken_short (by rw [hho, hr.flag EPOCH_CTL.HOLD_POLICY 0]; exact hh) hshort] at hx
    have hregs : (u.flipMade.putFlag EPOCH_STS.LAST_SHORT 0 true).epochMissed.regs =
      (u.flipMade.putFlag EPOCH_STS.LAST_SHORT 0 true).regs := raiseEvent_regs _ _ _
    have hmade : (u.flipMade.putFlag EPOCH_STS.LAST_SHORT 0 true).epochMissed.epoch = _ :=
      (epochMissed_epoch _).trans (flipMade_epoch u)
    refine ⟨_, hx, (flag_congr _ _ hregs).trans (flag_putFlag_same _ EPOCH_STS.LAST_SHORT 0 true), raiseEvent_bit _ _ _ (by decide),
      ?_, congrArg Epoch.scheduled hmade, congrArg Epoch.pending hmade, ?_⟩
    · exact (fld_congr _ _ hregs).trans ((fld_put_reg _ _ _ _ (by decide)).trans ((flipMade_cur u).trans (by rw [hep])))
    · exact (fld_congr _ _ hregs).trans ((fld_put_reg _ _ _ _ (by decide)).trans
        (((flipMade_regs u).fld EPOCH_ARMED.COUNT 0).trans (hr.fld EPOCH_ARMED.COUNT 0)))
  · intro s req ho hs hcur hnew
    have hu := epochCtlTaken_alike s EPOCH_CTL.ARM
    have harm := epochArm_accepted (s := s.epochCtlTaken EPOCH_CTL.ARM) (flip := false) (hu.epoch ▸ hu.arms hcur hs hnew _ 2)
    have hep := hu.pend_epoch s.epoch.stored
    exact ⟨_, (exec_epochCtlArm ho).trans (congrArg (fun t => Host.Outcome.next (State.answeredOk t)) harm),
      congrArg Epoch.pend hep, congrArg Epoch.pending hep, epochPend_armed _ _⟩

end Sys2Proof.Machine
end

section
/-! PROOFS. A step on an empty queue (O2, R136, R280–R282, R299). -/

namespace Sys2Proof.Machine

/-! ## The states that a flip does not tell apart -/

/-- A flip finds in t what it finds in s: the epochs, headers, vectors, tile state, chain time and holdover, and the registers
but HB_TIME_INFO. -/
structure FlipAlike (s t : State) : Prop where
  epoch : t.epoch = s.epoch
  hdrs : t.hdrs = s.hdrs
  irq : t.irq = s.irq
  tile : t.tile = s.tile
  now : t.now = s.now
  holdover : t.holdover = s.holdover
  regs : RegsBut [.HB_TIME_INFO] s t

namespace FlipAlike

variable {s t : State} (h : FlipAlike s t)

include h

theorem put (f : Fld) (n x : Nat) (hf : f.reg ∉ [Reg.HB_TIME_INFO] := by decide) : FlipAlike (s.put f n x) (t.put f n x) where
  epoch := h.epoch
  hdrs := h.hdrs
  irq := h.irq
  tile := h.tile
  now := h.now
  holdover := h.holdover
  regs r m hr := by
    by_cases e : r = f.reg ∧ m = n
    · obtain ⟨rfl, rfl⟩ := e
      unfold State.put
      rw [reg_setReg_same, reg_setReg_same, h.regs f.reg m hf]
    · rw [reg_put_ne t x (not_and_or.mp e), reg_put_ne s x (not_and_or.mp e), h.regs r m hr]

theorem putFlag (f : Fld) (n : Nat) (b : Bool) (hf : f.reg ∉ [Reg.HB_TIME_INFO] := by decide) :
    FlipAlike (s.putFlag f n b) (t.putFlag f n b) := h.put f n (b2n b) hf

theorem bump (f : Fld) (n k : Nat) (hf : f.reg ∉ [Reg.HB_TIME_INFO] := by decide) : FlipAlike (s.bump f n k) (t.bump f n k) := by
  unfold State.bump
  rw [h.regs.fld f n hf]
  exact h.put f n _ hf

theorem setEpoch (x : Epoch) : FlipAlike { s with epoch := x } { t with epoch := x } := { h with epoch := rfl }

theorem setIrq (x : Irq) : FlipAlike { s with irq := x } { t with irq := x } := { h with irq := rfl }

theorem vec (v : Nat) : t.vec v = s.vec v := by
  unfold State.vec
  rw [h.irq]

theorem setVec (v : Nat) (x : Vec) : FlipAlike (s.setVec v x) (t.setVec v x) := by
  unfold State.setVec
  rw [h.irq]
  exact h.setIrq _

theorem appendMsg (v : Nat) : FlipAlike { s with irq := { s.irq with msgs := s.irq.msgs ++ [v] } }
    { t with irq := { t.irq with msgs := t.irq.msgs ++ [v] } } := by
  rw [h.irq]
  exact h.setIrq _

theorem formMsg (v : Nat) : FlipAlike (s.formMsg v) (t.formMsg v) := by
  have hv : FlipAlike (s.setVec v (s.vec v).sent) (t.setVec v (t.vec v).sent) := by
    rw [h.vec v]
    exact h.setVec v _
  exact hv.appendMsg v

theorem judge (v : Nat) : FlipAlike (s.judge v) (t.judge v) := by
  have hd : t.vecDue v = s.vecDue v := by
    unfold State.vecDue
    rw [h.vec v, h.regs.flag IRQ_VEC_CFG.EN v, h.regs.fld IRQ_VEC_CFG.COUNT_THR v, h.regs.fld IRQ_VEC_CFG.TIMER v]
  unfold State.judge
  rw [hd]
  split
  · exact h.formMsg v
  · exact h

theorem counted (v k : Nat) : FlipAlike (s.counted v k) (t.counted v k) := by
  unfold State.counted
  rw [h.vec v]
  exact h.setVec v _

theorem wakeRaised : FlipAlike s.wakeRaised t.wakeRaised := by
  unfold State.wakeRaised
  rw [h.irq]
  exact h.setIrq _

theorem countVec (v k : Nat) : FlipAlike (s.countVec v k) (t.countVec v k) := by
  by_cases hn : k = 0 ∨ 250 ≤ v
  · rw [countVec_none s hn, countVec_none t hn]
    exact h
  · obtain ⟨hk, hv⟩ := not_or.mp hn
    have hc := h.counted v k
    have hw := hc.wakeRaised
    rw [countVec_eq s hk (Nat.not_le.mp hv), countVec_eq t hk (Nat.not_le.mp hv), hc.regs.flag IRQ_CTL.HOST_SLEEP 0,
      hc.regs.flag IRQ_VEC_CFG.WAKE v, hw.vec v, hw.regs.flag IRQ_VEC_CFG.EN v]
    split
    · split
      · exact hw.setVec v _
      · split
        · exact hw.formMsg v
        · exact hw
    · exact hc.judge v

theorem hdr (p : PageRef) : t.hdr p = s.hdr p := by
  unfold State.hdr State.hdrAt
  rw [h.hdrs]

theorem setHdr (p : PageRef) (x : Hdr) : FlipAlike (s.setHdr p x) (t.setHdr p x) :=
  { h with hdrs := by unfold State.setHdr State.setHdrAt; rw [h.hdrs] }

theorem raiseEvent (p : PageRef) (b : Nat) : FlipAlike (s.raiseEvent p b) (t.raiseEvent p b) := by
  unfold State.raiseEvent
  rw [h.hdr p]
  extract_lets x s' _ t'
  have hs : FlipAlike s' t' := h.setHdr p _
  have ha : t'.asleep = s'.asleep := by
    unfold State.asleep
    rw [hs.tile]
  rw [ha]
  split
  · exact h
  · split
    · exact { hs with epoch := hs.epoch }
    · split
      · split
        · exact hs.countVec _ 1
        · exact hs
      · exact hs

theorem flipHeld : FlipAlike s.flipHeld t.flipHeld := by
  unfold State.flipHeld
  rw [h.epoch]
  exact (((h.setEpoch _).putFlag EPOCH_STS.HELD 0 true).bump EPOCH_MISS.HELD_FLIPS 0 1).raiseEvent _ _

theorem flipMade : FlipAlike s.flipMade t.flipMade := by
  unfold State.flipMade
  rw [h.epoch, h.now, h.holdover]
  exact ((((h.put EPOCH_CUR.EPOCH 0 _).put EPOCH_LAST.TIME 0 _).setEpoch _).putFlag EPOCH_STS.LAST_HOLDOVER 0 _).raiseEvent _ _

theorem armsShort : t.armsShort = s.armsShort := by
  unfold State.armsShort
  rw [h.regs.fld EPOCH_EXPECT.COUNT 0, h.regs.fld EPOCH_ARMED.COUNT 0]

/-- What a flip makes of them is alike. -/
theorem flipTaken : FlipAlike s.flipTaken t.flipTaken := by
  have hmade := h.flipMade
  have hshown := hmade.putFlag EPOCH_STS.LAST_SHORT 0 s.flipMade.armsShort
  rw [flipTaken_eq, flipTaken_eq, h.holdover, h.regs.flag EPOCH_CTL.HOLD_POLICY 0, hmade.armsShort]
  split
  · exact h.flipHeld
  · split
    · exact hshown.raiseEvent _ _
    · exact hshown

end FlipAlike

/-- Chain time that has come to T, with what it ages on the way and without. -/
theorem countReaches_alike (s : State) (t : Nat) : FlipAlike (s.timeReaches t) (s.countReaches t) where
  epoch := rfl
  hdrs := rfl
  irq := rfl
  tile := rfl
  now := rfl
  holdover := rfl
  regs := fun r n e => ((timeReaches_regs s t) r n e).symm

/-! ## Time passes (R280–R282, log entry 1) -/

/-- Beside a new age of the last TIME cell only the Hatband has moved. -/
def State.aged (s : State) (x : Hb) : State := ({ s with hb := x } : State).bump HB_TIME_INFO.AGE 0 1

theorem aged_regs (s : State) (x : Hb) : RegsBut [.HB_TIME_INFO] s (s.aged x) :=
  (RegsBut.of_regs rfl).trans (.of_put ({ s with hb := x } : State) HB_TIME_INFO.AGE 0 _)

theorem aged_keeps (s : State) (x : Hb) : s.Within (only [.regs, .hb]) (s.aged x) :=
  bump_within (Part.All.of_all rfl) (fun c => absurd c (by decide)) (within_hb rfl (Within.refl s))

theorem tick_off {s : State} (h : s.tile.st = .powerOff) : s.tick = s := if_pos (beq_iff_eq.mpr h)

/-- The flip that the time of an idle step reaches is taken, if there is one. -/
def State.tickFlip (s : State) : State :=
  if s.flipComes then (s.countReaches (s.fld EPOCH_TIME.TIME 0)).flipTaken else s

/-- The Hatband of v after the time of a step from s. -/
def State.tickHb (s v : State) : Hb :=
  { v.hb with
    time := max (s.hb.time + (16000 + (slewStep s.hb.slew s.hb.slewAcc).1).toNat) v.hb.time % 2 ^ 68
    slew := v.hb.slew - (slewStep s.hb.slew s.hb.slewAcc).1, slewAcc := (slewStep s.hb.slew s.hb.slewAcc).2
    ticks := s.hb.ticks + 1, sending := none, elastic := 0 }

theorem tick_eq {s : State} (hp : s.tile.st ≠ .powerOff) : s.tick = s.tickFlip.aged (s.tickHb s.tickFlip) := by
  have hf : s.flipComes = (s.epoch.scheduled &&
      decide (16 * s.fld EPOCH_TIME.TIME 0 ≤ s.hb.time + (16000 + (slewStep s.hb.slew s.hb.slewAcc).1).toNat)) := by
    rw [State.flipComes, bne_iff_ne.mpr hp, Bool.true_and]
  rw [State.tickFlip, hf]
  exact if_neg (fun c => hp (beq_iff_eq.mp c))

/-- Where no flip comes, time passes alone. -/
theorem tick_plain {s : State} (hp : s.tile.st ≠ .powerOff) (h : s.flipComes = false) : ∃ x, s.tick = s.aged x := by
  have hf : s.tickFlip = s := if_neg (Bool.eq_false_iff.mp h)
  exact ⟨_, (tick_eq hp).trans (congrArg (fun v => v.aged (s.tickHb s.tickFlip)) hf)⟩

theorem flipComes_powered {s : State} (h : s.flipComes = true) : s.tile.st ≠ .powerOff ∧ s.epoch.scheduled = true := by
  simp only [State.flipComes, Bool.and_eq_true, bne_iff_ne] at h
  exact h.1

/-- Where a flip comes, it is taken at the first count that reaches its time. -/
theorem tick_flip {s : State} (h : s.flipComes = true) :
    ∃ x, s.tick = (s.countReaches (s.fld EPOCH_TIME.TIME 0)).flipTaken.aged x := by
  have hf : s.tickFlip = (s.countReaches (s.fld EPOCH_TIME.TIME 0)).flipTaken := if_pos h
  exact ⟨_, (tick_eq (flipComes_powered h).1).trans (congrArg (fun v => v.aged (s.tickHb s.tickFlip)) hf)⟩

theorem tick_keeps (s : State) : s.Within (only [.regs, .hdrs, .irq, .epoch, .hb]) s.tick :=
  tick_within (Part.all_only _) (Within.refl s)

/-! ## The handshake of a switch (R299, log entry 120) -/

theorem switchDue_tick (s : State) : s.tick.switchDue = s.switchDue := by
  unfold State.switchDue State.fromRuns State.targetGood
  rw [(tick_keeps s).clk rfl]

theorem handshake_eq (s : State) : s.handshake = if s.pd0 && s.switchDue then s.switchMade else s := by
  unfold State.handshake State.switchDue
  rw [Bool.and_assoc, Bool.and_assoc, Bool.and_assoc]

theorem handshake_off {s : State} (h : s.tile.st = .powerOff) : s.handshake = s := by
  rw [handshake_eq, State.pd0, h]
  rfl

/-- Without a switch whose clocks run, an idle step is the time that passes. -/
theorem idles_unswitched {s : State} (h : s.switchDue = false) : s.idles = s.tick := by
  rw [State.idles, handshake_eq, switchDue_tick, h, Bool.and_false]
  rfl

theorem idles_switched {s : State} (hp : s.tile.st ≠ .powerOff) (h : s.switchDue = true) : s.idles = s.tick.switchMade := by
  have hpd : s.tick.pd0 = true := by
    rw [State.pd0, (tick_keeps s).tile_eq rfl rfl]
    exact bne_iff_ne.mpr hp
  rw [State.idles, handshake_eq, switchDue_tick, h, hpd]
  rfl

/-- The release of the outputs after no fallback leaves the reference and the locks. -/
theorem releaseSafe_clk {s : State} (h : s.clk.fallback = false) :
    s.releaseSafe.clk.ref = s.clk.ref ∧ s.releaseSafe.clk.target = s.clk.target ∧ s.releaseSafe.clk.lock = s.clk.lock := by
  have hk (u : State) : (u.ascending 0).pumpPorts.clk = u.clk :=
    (pumpPorts_within (F := only [.regs, .hdrs, .irq, .fab]) (Part.all_only _)
      (ascending_within (Part.All.of_all rfl) 0 (Within.refl u))).clk rfl
  unfold State.releaseSafe
  split
  · exact ⟨rfl, rfl, rfl⟩
  · rw [h]
    simp only [Bool.false_and, Bool.false_eq_true, if_false, hk]
    exact ⟨rfl, rfl, rfl⟩

theorem stopSbosc_clk (s : State) : s.stopSbosc.clk.fallback = s.clk.fallback ∧ s.stopSbosc.clk.ref = s.clk.ref ∧
    s.stopSbosc.clk.target = s.clk.target ∧ s.stopSbosc.clk.lock = s.clk.lock := by
  unfold State.stopSbosc
  split <;> exact ⟨rfl, rfl, rfl, rfl⟩

theorem holdoverBegins_clk (s : State) : s.holdoverBegins.clk = s.clk := by
  unfold State.holdoverBegins
  split <;> rfl

/-- A switch outside a fallback leaves the PLLs on the reference it was to, with the locks there were. -/
theorem switchMade_clk {s : State} (h : s.clk.fallback = false) :
    s.switchMade.clk.ref = s.clk.target ∧ s.switchMade.clk.target = Ref.none ∧ s.switchMade.clk.lock = s.clk.lock := by
  unfold State.switchMade
  extract_lets target u v
  have hv : v.clk.fallback = u.clk.fallback ∧ v.clk.ref = u.clk.ref ∧ v.clk.target = u.clk.target ∧ v.clk.lock = u.clk.lock := by
    unfold v
    split
    · rw [holdoverBegins_clk]
      exact ⟨rfl, rfl, rfl, rfl⟩
    · exact stopSbosc_clk u
  obtain ⟨hf, hr, ht, hl⟩ := hv
  obtain ⟨hr', ht', hl'⟩ := releaseSafe_clk (hf.trans h)
  exact ⟨hr'.trans hr, ht'.trans ht, hl'.trans hl⟩

/-! ## The step (R136, R282, R299) -/

theorem step_idle {s : State} (h : s.pending = []) : step s = .next s.idles := by
  unfold step
  rw [h]

/-- A tile without power does not move. -/
theorem idles_off {s : State} (h : s.tile.st = .powerOff) : s.idles = s := by
  rw [State.idles, tick_off h, handshake_off h]

/-- Where no flip comes and no switch is made, chain time and the age of the last TIME cell move alone. -/
theorem idles_plain {s : State} (hs : s.switchDue = false) (hf : s.flipComes = false) :
    s.Within (only [.regs, .hb]) s.idles ∧ RegsBut [.HB_TIME_INFO] s s.idles := by
  by_cases hp : s.tile.st = .powerOff
  · rw [idles_off hp]
    exact ⟨Within.refl s, .refl _ s⟩
  · obtain ⟨x, hx⟩ := tick_plain hp hf
    rw [idles_unswitched hs, hx]
    exact ⟨aged_keeps s x, aged_regs s x⟩

/-- A flip that comes is the flip of EPOCH_FLIP_DUE. -/
theorem idles_flip {s : State} (hs : s.switchDue = false) (hf : s.flipComes = true) :
    ∃ u, exec .epochFlipDue s = .next u ∧ s.idles.epoch = u.epoch ∧ s.idles.hdrs = u.hdrs ∧ s.idles.irq = u.irq ∧
      s.idles.clk = s.clk ∧ RegsBut [.HB_TIME_INFO] u s.idles := by
  obtain ⟨x, hx⟩ := tick_flip hf
  have hclk := (tick_keeps s).clk rfl
  have ha := (countReaches_alike s (s.fld EPOCH_TIME.TIME 0)).flipTaken
  rw [idles_unswitched hs]
  rw [hx] at hclk ⊢
  have hk := aged_keeps (s.countReaches (s.fld EPOCH_TIME.TIME 0)).flipTaken x
  exact ⟨_, exec_epochFlipDue (flipComes_powered hf).2, (hk.epoch rfl).trans ha.epoch, (hk.hdrs rfl).trans ha.hdrs,
    (hk.irq rfl).trans ha.irq, hclk, ha.regs.trans (aged_regs _ x)⟩

/-- Settles O2: time passes, with the flip that it reaches, and then the handshake of a switch ends. -/
theorem idleStepPassesTimeAlone : Obligations.IdleStepPassesTimeAlone := by
  unfold Obligations.IdleStepPassesTimeAlone
  intro s hp
  refine ⟨s.idles, step_idle hp, idles_off, idles_within (Part.all_only _) (Within.refl s), fun hs hf => ?_, fun hs hf => ?_,
    fun hs hpw hfb => ?_⟩
  · obtain ⟨hw, hr⟩ := idles_plain hs hf
    exact ⟨hw, fun r n hne => hr r n (fun e => hne (List.mem_singleton.mp e))⟩
  · obtain ⟨u, hu, hepoch, hhdrs, hirq, hclk, hr⟩ := idles_flip hs hf
    exact ⟨u, hu, hepoch, hhdrs, hirq, hclk, fun r n hne => hr r n (fun e => hne (List.mem_singleton.mp e))⟩
  · have hclk := (tick_keeps s).clk rfl
    obtain ⟨href, htarget, hlock⟩ := switchMade_clk (s := s.tick) (by rw [hclk]; exact hfb)
    rw [idles_switched hpw hs, href, htarget, hlock, hclk]
    exact ⟨rfl, rfl, rfl⟩

end Sys2Proof.Machine
end

section
/-! PROOFS. Work that only adds to what it finds: pushes, transfers, counts and trace records, issue, and the transfers of the DMA
channels (R57, R61, R149, R260, R350, R356, R369). -/

namespace Sys2Proof.Machine

set_option Elab.async false

/-- The registers that such work writes: the counts, and those of the DMA channels. -/
def emitRegs : List Reg := [.PERF_CNT, .FN_CNT, .DCH_SHD_CTL, .DCH_SHD_SRC, .DCH_SHD_DST, .DCH_CUR_CTL, .DCH_CUR_SRC, .DCH_CUR_DST,
  .DCH_ARM, .DCH_LAST, .DCH_STS, .DCH_ERR]

/-- From s to t work has gone out: no fault and no event bit has fallen, no transfer has left, the completion queues and all
registers but those above stand as they were. -/
structure Emits (s t : State) : Prop extends BitsRise s t where
  regs : RegsBut emitRegs s t
  cqs : t.crown.cqs = s.crown.cqs
  xfers : ∀ x ∈ s.fab.xfers, x ∈ t.fab.xfers

namespace Emits

variable {s t u : State}

theorem refl (s : State) : Emits s s := ⟨.refl s, .refl _ s, rfl, fun _ => id⟩

theorem trans (h : Emits s t) (k : Emits t u) : Emits s u :=
  ⟨h.toBitsRise.trans k.toBitsRise, h.regs.trans k.regs, k.cqs.trans h.cqs, fun x e => k.xfers x (h.xfers x e)⟩

theorem cq (h : Emits s t) (c : Nat) : t.cq c = s.cq c := by unfold State.cq; rw [h.cqs]

/-- A step after the others that touches none of what is watched. -/
theorem same (h : Emits s t) (hh : u.hdrs = t.hdrs := by rfl) (hr : u.regs = t.regs := by rfl)
    (hc : u.crown.cqs = t.crown.cqs := by rfl) (hx : u.fab.xfers = t.fab.xfers := by rfl) : Emits s u :=
  h.trans ⟨.of_hdrs hh, .of_regs hr, hc, fun _ e => hx ▸ e⟩

/-- One that leaves the headers, the registers, the crown and the fabric. -/
theorem free (h : Emits s t) (k : t.Within (fun x => x != .hdrs && x != .regs && x != .crown && x != .fab) u) : Emits s u :=
  h.same (k.hdrs rfl) (k.regs rfl) (congrArg Crown.cqs (k.crown rfl)) (congrArg Fab.xfers (k.fab rfl))

theorem foldl {α : Type} {f : State → α → State} (h : Emits s t) (hf : ∀ u x, Emits s u → Emits s (f u x)) (l : List α) :
    Emits s (l.foldl f t) :=
  List.foldlRecOn l f h (fun u hu x _ => hf u x hu)

theorem setReg (h : Emits s t) (r : Reg) (n : Nat) (v : W64) (hr : r ∈ emitRegs := by decide) : Emits s (t.setReg r n v) :=
  h.trans ⟨.of_hdrs rfl, fun _ _ e => reg_setReg_ne _ _ (Or.inl (by rintro rfl; exact e hr)), rfl, fun _ => id⟩

theorem put (h : Emits s t) (f : Fld) (n x : Nat) (hr : f.reg ∈ emitRegs := by decide) : Emits s (t.put f n x) :=
  h.setReg _ _ _ hr

theorem putFlag (h : Emits s t) (f : Fld) (n : Nat) (b : Bool) (hr : f.reg ∈ emitRegs := by decide) : Emits s (t.putFlag f n b) :=
  h.setReg _ _ _ hr

theorem bump (h : Emits s t) (f : Fld) (n k : Nat) (hr : f.reg ∈ emitRegs := by decide) : Emits s (t.bump f n k) :=
  h.setReg _ _ _ hr

/-- Headers alone are written, in which no fault and no event bit falls, and vectors. -/
theorem rises (h : Emits s t) (k : BitsRise t u) (hw : t.Within (only [.hdrs, .irq]) u) : Emits s u :=
  h.trans ⟨k, .of_regs (hw.regs rfl), congrArg Crown.cqs (hw.crown rfl), fun x e => by rw [hw.fab rfl]; exact e⟩

theorem raiseEvent (h : Emits s t) (p : PageRef) (b : Nat) : Emits s (t.raiseEvent p b) :=
  h.rises (raiseEvent_rise t p b) (raiseEvent_keeps t p b)

theorem raiseFault (h : Emits s t) (p : PageRef) (b : Nat) : Emits s (t.raiseFault p b) :=
  h.rises (raiseFault_rise t p b) (raiseFault_keeps t p b)

theorem countVec (h : Emits s t) (v k : Nat) : Emits s (t.countVec v k) :=
  h.free (countVec_within (Part.All.of_all rfl) v k (Within.refl t))

/-! ### Counters and the fabric -/

theorem fnCount (h : Emits s t) (f e k : Nat) : Emits s (t.fnCount f e k) := by
  unfold State.fnCount
  split
  · exact h.put FN_CNT.COUNT _ _
  · exact h

theorem watch (h : Emits s t) (e a b i : Nat) : Emits s (t.watch e a b i) := by
  unfold State.watch
  extract_lets n
  split
  · exact h.raiseEvent _ _
  · exact h

theorem perfCount (h : Emits s t) (e k : Nat) : Emits s (t.perfCount e k) := by
  unfold State.perfCount
  split
  · extract_lets a u
    exact (h.put PERF_CNT.COUNT e (a + k)).foldl (fun _ _ hv => hv.watch _ _ _ _) _
  · exact h

theorem issueReq (h : Emits s t) (p : Nat) (q : FabReq) : Emits s (t.issueReq p q) := by
  have hset (x : Port) : Emits s (t.setPort p x) := h.same
  unfold State.issueReq
  extract_lets pt wait
  split
  · exact hset _
  · split <;> split
    · exact (hset _).perfCount _ _
    · exact hset _
    · exact (hset _).perfCount _ _
    · exact hset _
    · exact hset _
    · exact hset _

/-- A new transfer is one more. -/
theorem newXfer (h : Emits s t) (k : XKind) (n : Nat) : Emits s (t.newXfer k n).2 :=
  h.trans ⟨.of_hdrs rfl, .of_regs rfl, rfl, fun _ e => List.mem_append_left _ e⟩

theorem startWrite (h : Emits s t) (kind : XKind) (attr : Attr) (a : Nat) (data : Bytes) (port : Option Nat) :
    Emits s (t.startWrite kind attr a data port).2 :=
  (h.newXfer kind _).foldl (fun _ _ hu => hu.issueReq _ _) _

theorem startRead (h : Emits s t) (kind : XKind) (attr : Attr) (a n : Nat) (port : Option Nat) :
    Emits s (t.startRead kind attr a n port).2 :=
  (h.newXfer kind _).foldl (fun _ _ hu => hu.issueReq _ _) _

/-! ### Pushes and trace records -/

theorem push (h : Emits s t) (p : Nat) (c : Compl) : Emits s (t.push p c) := by
  unfold State.push
  extract_lets c l u
  split
  · have hu : Emits s u := h.same
    split
    · exact hu.raiseEvent _ _
    · exact hu
  · exact h.same

theorem pushAborted (h : Emits s t) (status pos : Nat) (e : Elem) : Emits s (t.pushAborted status pos e) := h.push _ _

theorem ringLevel (h : Emits s t) (r : Nat) : Emits s (t.ringLevel r) := by
  unfold State.ringLevel
  extract_lets x size n half full u v
  have hu : Emits s u := h.same
  have hv : Emits s v := by
    unfold v; split
    · exact hu.raiseEvent _ _
    · exact hu
  split
  · split
    · exact hv.raiseEvent _ _
    · exact hv
  · exact hu

theorem traceTo (h : Emits s t) (r : Nat) (c : Compl) (g : TraceTag) : Emits s (t.traceTo r c g) := by
  unfold State.traceTo
  split
  · exact h
  · extract_lets x size u v
    split
    · split
      · exact (h.perfCount _ _).fnCount _ _ _
      · exact h.perfCount _ _
    · have hv : Emits s v := h.same
      exact (hv.startWrite _ _ _ _ _).ringLevel _

theorem traceEnd (h : Emits s t) (c : Compl) (d : Bool) : Emits s (t.traceEnd c d) := by
  unfold State.traceEnd
  split
  · exact h
  · split
    · exact h
    · extract_lets _ u v f
      have hu : Emits s u := h.same
      have hv : Emits s v := hu.traceTo _ _ _
      split
      · exact hv
      · exact hv.traceTo _ _ _

theorem traceDiscard (h : Emits s t) (l : List Compl) : Emits s (t.traceDiscard l) :=
  h.foldl (fun _ _ hu => hu.traceEnd _ _) l

/-! ### Issue, and chains that end (R54, R57, R61) -/

theorem updRq (h : Emits s t) (q : Nat) (f : Rq → Rq) : Emits s (t.updRq q f) := h.same

theorem rqRead (h : Emits s t) (q : Nat) : Emits s (t.rqRead q) := by
  unfold State.rqRead
  extract_lets x size i n u
  split
  · have hu : Emits s u := h.same
    exact hu.startRead _ _ _ _ _
  · exact h

theorem refill (h : Emits s t) (q : Nat) : Emits s (t.refill q) := by
  unfold State.refill
  split
  · exact h.rqRead _
  · exact h

theorem abortChain (h : Emits s t) (ch : Chain) (status pos : Nat) : Emits s (t.abortChain ch status pos) := by
  unfold State.abortChain
  extract_lets u v w
  have hv : Emits s v := by unfold v; split <;> exact h.same
  have hw : Emits s w := hv.foldl (fun _ _ hu => hu.pushAborted _ _ _) _
  split
  · exact hw
  · exact hw.refill _

theorem chainFenced (h : Emits s t) (ch : Chain) (status : Nat) : Emits s (t.chainFenced ch status) := by
  unfold State.chainFenced
  extract_lets u
  have hu : Emits s u := h.abortChain _ _ _
  split
  · exact hu
  · exact hu.fnCount _ _ _

theorem issueOne (h : Emits s t) : Emits s t.issueOne := by
  unfold State.issueOne
  split
  · exact h
  · extract_lets _ u v w e _ x
    have hv : Emits s v := h.same
    split
    · exact hv.push _ _
    · have hw : Emits s w := hv.fnCount _ _ _
      have hx : Emits s x := (hw.perfCount _ _).fnCount _ _ _
      split
      · exact hw.same
      · split
        · exact hx.same
        · exact hw.same

theorem issueRest (h : Emits s t) : Emits s t.issueRest := h.foldl (fun _ _ hu => hu.issueOne) _

theorem fenceChains (h : Emits s t) (p : Elem → Bool) (st : Nat) : Emits s (t.fenceChains p st) := by
  rw [fenceChains_eq]
  have hfirst : Emits s (t.issueRest.firstsLeave p) := h.issueRest.same
  exact (hfirst.foldl (fun _ e hu => (hu.updRq e.rq _).pushAborted _ _ _) _).foldl (fun _ _ hu => hu.chainFenced _ _) _

/-! ### Transfers of the DMA channels (R256, R260) -/

theorem setDch (h : Emits s t) (c : Nat) (x : Dch) : Emits s (t.setDch c x) := h.same

theorem updDch (h : Emits s t) (c : Nat) (f : Dch → Dch) : Emits s (t.updDch c f) := h.setDch _ _

theorem dmaRead (h : Emits s t) (c : Nat) : Emits s (t.issueRead c) := by
  unfold State.issueRead
  extract_lets x d u
  split
  extract_lets v
  have hv : Emits s v := h.same
  exact (hv.startRead _ _ _ _ _).perfCount _ _

theorem dmaWrite (h : Emits s t) (c : Nat) : Emits s (t.issueWrite c) := by
  unfold State.issueWrite
  extract_lets x d u
  split
  extract_lets data bit v
  have hv : Emits s v := h.same
  exact (hv.startWrite _ _ _ _ _).perfCount _ _

theorem pumpDma (h : Emits s t) (n : Nat) : Emits s (t.pumpDma n) := by
  induction n generalizing t with
  | zero => exact h
  | succ n ih =>
    rw [State.pumpDma]
    split
    · exact h
    · extract_lets u v
      have hu : Emits s u := by
        unfold u; split
        · exact h.dmaRead _
        · exact h
      have hv : Emits s v := by
        unfold v; split
        · exact hu.dmaWrite _
        · exact hu
      exact ih hv

theorem dmaStatus (h : Emits s t) (c st : Nat) : Emits s (t.dmaStatus c st) := by
  unfold State.dmaStatus
  extract_lets u v
  have hu : Emits s u := h.updDch _ _
  split
  · split
    · exact (hu.updDch _ _).startWrite _ _ _ _ _
    · exact hu
  · exact hu

theorem dmaStart (h : Emits s t) (c : Nat) : Emits s (t.dmaStart c) := by
  unfold State.dmaStart
  split
  · exact (h.updDch _ _).dmaStatus _ _
  · exact h.pumpDma _

theorem dmaCopy (h : Emits s t) (c : Nat) : Emits s (t.dmaCopy c) := by
  unfold State.dmaCopy
  extract_lets x u1 u2 u3 u4 u5
  split
  · exact h.same
  · have h3 : Emits s u3 := ((h.setReg _ _ _).setReg _ _ _).setReg _ _ _
    have h4 : Emits s u4 := (((h3.setReg _ _ _).setReg _ _ _).setReg _ _ _).putFlag DCH_ARM.SHD_ARM _ _
    have h5 : Emits s u5 := h4.setDch _ _
    exact h5.dmaStart c

theorem dmaGoOn (h : Emits s t) : Emits s t.dmaGoOn := by
  unfold State.dmaGoOn State.dmaArmed
  split
  · exact h
  · refine h.foldl (fun u c hu => ?_) _
    split
    · split
      · exact hu.dmaCopy c
      · exact hu
    · exact hu

theorem dchError (h : Emits s t) (c kind : Nat) : Emits s (t.dchError c kind) := by
  unfold State.dchError
  extract_lets u
  have hu : Emits s u := by
    unfold u; split
    · exact h
    · exact (h.putFlag DCH_ERR.VALID _ _).put DCH_ERR.KIND _ _
  exact hu.bump DCH_ERR.COUNT _ _

theorem dmaEnds (h : Emits s t) (c : Nat) : Emits s (t.dmaEnds c) := by
  unfold State.dmaEnds
  extract_lets x
  split
  · exact h
  · extract_lets u1 u2 hd u3 u4 u5 u6 u7
    have h2 : Emits s u2 := (h.setReg _ _ _).put DCH_STS.ENDED _ _
    have h3 : Emits s u3 := by
      unfold u3; split
      · exact (h2.fnCount _ _ _).fnCount _ _ _
      · exact h2
    have h4 : Emits s u4 := h3.same
    split
    · have h5 : Emits s u5 := by
        unfold u5; split
        · exact (h4.raiseEvent _ _).push _ _
        · exact h4
      exact h5.dmaCopy c
    · exact (((h4.dchError _ _).raiseFault _ _).push _ _).updDch _ _

theorem dmaTransferEnd (h : Emits s t) (c : Nat) : Emits s (t.dmaTransferEnd c) := by
  unfold State.dmaTransferEnd
  split
  · split
    · rename_i v hm
      obtain ⟨x, -, hx⟩ := Option.map_eq_some_iff.mp hm
      obtain ⟨-, rfl⟩ := Prod.mk.inj hx
      have hv : Emits s { t with fab := { t.fab with mail := t.fab.mail.filter (fun y => y.id != x.id) } } := h.same
      exact hv.dmaEnds c
    · exact h
  · split
    · exact h.dmaEnds c
    · exact h

end Emits

end Sys2Proof.Machine
end

section
/-! PROOFS. The statements of 07_completions_and_interrupts.md: consumer indexes, and completion queues that are enabled and disabled
(O38). -/

namespace Sys2Proof.Machine

set_option Elab.async false

/-! ## The table of completion queues -/

@[simp] theorem cq_setCq_same (s : State) (c : Nat) (x : Cq) : (s.setCq c x).cq c = x := Tbl.get_set_same _ _ _ _

theorem cq_setCq_ne (s : State) {c d : Nat} (x : Cq) (h : d ≠ c) : (s.setCq c x).cq d = s.cq d :=
  Tbl.get_set_ne _ _ _ _ _ h

@[simp] theorem cq_updCq_same (s : State) (c : Nat) (f : Cq → Cq) : (s.updCq c f).cq c = f (s.cq c) := cq_setCq_same _ _ _

theorem cq_congr {s t : State} (h : t.crown = s.crown) (c : Nat) : t.cq c = s.cq c := by unfold State.cq; rw [h]

@[simp] theorem cq_put (s : State) (f : Fld) (n x c : Nat) : (s.put f n x).cq c = s.cq c := cq_congr (State.put_crown _ _ _ _) c

@[simp] theorem cq_putFlag (s : State) (f : Fld) (n : Nat) (b : Bool) (c : Nat) : (s.putFlag f n b).cq c = s.cq c := cq_put _ _ _ _ _

@[simp] theorem cq_setReg (s : State) (r : Reg) (n : Nat) (v : W64) (c : Nat) : (s.setReg r n v).cq c = s.cq c :=
  cq_congr (State.setReg_crown _ _ _ _) c

@[simp] theorem answeredOk_cq (s : State) (c : Nat) : s.answeredOk.cq c = s.cq c := rfl

@[simp] theorem answeredOk_fld (s : State) (f : Fld) (n : Nat) : s.answeredOk.fld f n = s.fld f n := rfl

@[simp] theorem fld_setCq (s : State) (c : Nat) (x : Cq) (f : Fld) (n : Nat) : (s.setCq c x).fld f n = s.fld f n := rfl

@[simp] theorem flag_setCq (s : State) (c : Nat) (x : Cq) (f : Fld) (n : Nat) : (s.setCq c x).flag f n = s.flag f n := rfl

theorem cqLog_le (s : State) (c : Nat) : 2 ^ s.cqLog c ≤ 2 ^ 16 := Nat.pow_le_pow_right (by decide) (Nat.min_le_left _ _)

/-! ## Entries that are written (R153, R157) -/

/-- An entry's write is on its way: its position waits for the answer. -/
def State.entrySent (s : State) (c pos : Nat) (k : Compl) : State :=
  ((s.updCq c (fun x => { x with writing := x.writing ++ [pos] })).startWrite (.cqEntry c pos) (fnAttr (s.fld CQ_CFG.FUNC c) true false)
    (4096 * s.fld CQ_BASE.BASE c + 32 * (pos % 2 ^ s.cqLog c)) (entryBytes { k with elem := k.elem.stamp 7 s.now } s.now) none).2

/-- After it come counts and trace records. -/
theorem writeEntry_counts (s : State) (c pos : Nat) (k : Compl) : Emits (s.entrySent c pos k) (s.writeEntry c pos k) := by
  unfold State.writeEntry
  extract_lets k size a u f
  refine Emits.traceEnd ?_ _ _
  iterate 4 refine Emits.fnCount ?_ _ _ _
  refine .perfCount (.fnCount (.perfCount (.perfCount ?_ _ _) _ _) _ _ _) _ _
  exact Emits.refl _

theorem writeEntry_emits (s : State) (c pos : Nat) (k : Compl) :
    Emits (s.updCq c (fun x => { x with writing := x.writing ++ [pos] })) (s.writeEntry c pos k) :=
  ((Emits.refl _).startWrite _ _ _ _ _).trans (writeEntry_counts s c pos k)

theorem writeEntry_cq (s : State) (c pos : Nat) (k : Compl) :
    (s.writeEntry c pos k).cq c = { s.cq c with writing := (s.cq c).writing ++ [pos] } :=
  ((writeEntry_emits s c pos k).cq c).trans (cq_updCq_same _ _ _)

/-- From s to t the positions of a completion queue, and the registers but those that outgoing work writes, are as they were. -/
structure PlacesKept (c : Nat) (s t : State) : Prop where
  cons : (t.cq c).cons = (s.cq c).cons
  pub : (t.cq c).pub = (s.cq c).pub
  nextPos : (t.cq c).nextPos = (s.cq c).nextPos
  regs : RegsBut emitRegs s t

theorem PlacesKept.trans {c : Nat} {s t u : State} (h : PlacesKept c s t) (k : PlacesKept c t u) : PlacesKept c s u :=
  ⟨k.cons.trans h.cons, k.pub.trans h.pub, k.nextPos.trans h.nextPos, h.regs.trans k.regs⟩

theorem setCq_places (s : State) (c : Nat) (x : Cq) (h1 : x.cons = (s.cq c).cons := by rfl) (h2 : x.pub = (s.cq c).pub := by rfl)
    (h3 : x.nextPos = (s.cq c).nextPos := by rfl) : PlacesKept c s (s.setCq c x) :=
  ⟨by rw [cq_setCq_same, h1], by rw [cq_setCq_same, h2], by rw [cq_setCq_same, h3], .of_regs rfl⟩

theorem writeEntry_places (s : State) (c pos : Nat) (k : Compl) : PlacesKept c s (s.writeEntry c pos k) := by
  have hq := writeEntry_cq s c pos k
  exact ⟨by rw [hq], by rw [hq], by rw [hq], (RegsBut.of_regs rfl).trans (writeEntry_emits s c pos k).regs⟩

/-- FULL moves the bound queues, and nothing else of the crown or the registers. -/
theorem setFull_places (s : State) (c : Nat) (full : Bool) : PlacesKept c s (s.setFull c full) := by
  refine (setCq_places s c { s.cq c with full := full }).trans ?_
  unfold State.setFull
  refine List.foldlRecOn (motive := fun t => PlacesKept c (s.setCq c { s.cq c with full := full }) t) _ _
    ⟨rfl, rfl, rfl, .refl _ _⟩ (fun u hu q _ => ?_)
  exact ⟨hu.cons, hu.pub, hu.nextPos, hu.regs.same rfl⟩

theorem writeHeld_places (c n : Nat) (s : State) : PlacesKept c s (s.writeHeld c n) := by
  have hrefl (u : State) : PlacesKept c u u := ⟨rfl, rfl, rfl, .refl _ u⟩
  induction n generalizing s with
  | zero => exact hrefl s
  | succ n ih =>
    rw [State.writeHeld]
    split
    · split
      · exact setFull_places _ _ _
      · exact hrefl s
    · split
      · exact ((setCq_places s c _).trans (writeEntry_places _ _ _ _)).trans (ih _)
      · exact hrefl s

/-! ## A consumer index that is written (R152, R157, R169) -/

/-- The entries that a written index i frees: from the present index to the next one with i, modulo the ring. -/
def State.consumes (s : State) (c i : Nat) : Nat := (i + 2 ^ s.cqLog c - (s.cq c).cons % 2 ^ s.cqLog c) % 2 ^ s.cqLog c

/-- The index is taken. -/
def State.consumed (s : State) (c i : Nat) : State :=
  (s.put CQ_CONS.INDEX c i).setCq c { s.cq c with cons := (s.cq c).cons + s.consumes c i }

theorem cqConsume_taken {s : State} {c i : Nat} (hst : (s.cq c).st ≠ .disabled) (hi : i < 2 ^ s.cqLog c)
    (hp : (s.cq c).cons + s.consumes c i ≤ (s.cq c).pub) : s.cqConsume c i =
    if (s.cq c).st == .fenced then s.consumed c i else (s.consumed c i).writeHeld c ((s.cq c).held.length + 1) := by
  rw [State.cqConsume, if_pos (by simpa using hst)]
  exact if_pos ⟨hi, hp⟩

theorem cqConsume_refused {s : State} {c i : Nat} (hst : (s.cq c).st ≠ .disabled)
    (h : 2 ^ s.cqLog c ≤ i ∨ (s.cq c).pub < (s.cq c).cons + s.consumes c i) : s.cqConsume c i = s.putFlag CQ_ERR.BAD_CONS c true := by
  rw [State.cqConsume, if_pos (by simpa using hst)]
  refine if_neg (fun hc => ?_)
  rcases h with h | h
  · exact absurd hc.1 (by omega)
  · exact absurd hc.2 (Nat.not_le.mpr h)

/-- What a consumer index that is taken leaves: whatever held entries it lets be written, the positions stand. -/
theorem cqConsume_places {s : State} {c i : Nat} (hst : (s.cq c).st ≠ .disabled) (hi : i < 2 ^ s.cqLog c)
    (hp : (s.cq c).cons + s.consumes c i ≤ (s.cq c).pub) :
    ((s.cqConsume c i).cq c).cons = (s.cq c).cons + s.consumes c i ∧ (s.cqConsume c i).fld CQ_CONS.INDEX c = i ∧
      ((s.cqConsume c i).cq c).pub = (s.cq c).pub ∧ ((s.cqConsume c i).cq c).nextPos = (s.cq c).nextPos := by
  have hk : PlacesKept c (s.consumed c i) (s.cqConsume c i) := by
    rw [cqConsume_taken hst hi hp]
    split
    · exact ⟨rfl, rfl, rfl, .refl _ _⟩
    · exact writeHeld_places _ _ _
  have hq : (s.consumed c i).cq c = { s.cq c with cons := (s.cq c).cons + s.consumes c i } := cq_setCq_same _ _ _
  have hx : (s.consumed c i).fld CQ_CONS.INDEX c = i :=
    (fld_put_same s CQ_CONS.INDEX c i).trans (Nat.mod_eq_of_lt (Nat.lt_of_lt_of_le hi (cqLog_le s c)))
  exact ⟨by rw [hk.cons, hq], by rw [hk.regs.fld CQ_CONS.INDEX c, hx], by rw [hk.pub, hq], by rw [hk.nextPos, hq]⟩

theorem writeReg_cqCons (s : State) (c : Nat) (v : W32) :
    s.writeReg .CQ_CONS c (v.setWidth 64) 0xFFFFFFFF = s.cqConsume c (fget (v.setWidth 64) 15 0) := by
  have h : s.writeReg .CQ_CONS c (v.setWidth 64) 0xFFFFFFFF = s.cqConsume c (fget (v.setWidth 64 &&& 0xFFFFFFFF) 15 0) := rfl
  rwa [lowWord_setWidth] at h

theorem writeReg_fnCqCons (s : State) (f : Nat) (v : W32) :
    s.writeReg .FN_CQ_CONS f (v.setWidth 64) 0xFFFFFFFF =
      if s.ownsCq f (fget (v.setWidth 64) 21 16) then s.cqConsume (fget (v.setWidth 64) 21 16) (fget (v.setWidth 64) 15 0) else s := by
  have h : s.writeReg .FN_CQ_CONS f (v.setWidth 64) 0xFFFFFFFF =
    if s.ownsCq f (fget (v.setWidth 64 &&& 0xFFFFFFFF) 21 16) then
      s.cqConsume (fget (v.setWidth 64 &&& 0xFFFFFFFF) 21 16) (fget (v.setWidth 64 &&& 0xFFFFFFFF) 15 0) else s := rfl
  rwa [lowWord_setWidth] at h

theorem exec_cqConsWrite {s : State} {c : Nat} (v : W32) {req : Req} (hc : c < 64) (h : s.OpenReg .CQ_CONS c req) :
    exec (.cqConsWrite c v req) s = .next (s.cqConsume c (fget (v.setWidth 64) 15 0)).answeredOk := by
  show Host.Outcome.next (s.regWrite _ _ _ _ _) = _
  rw [regWrite_open _ hc h, writeReg_cqCons]

/-- A client's write is one of the queue that it names, if the queue is its function's. -/
theorem exec_fnCqConsWrite {s : State} {f : Nat} (v : W32) {req : Req} (hf : f < 64) (h : s.Reach .FN_CQ_CONS f req) :
    exec (.fnCqConsWrite f v req) s = .next (if s.ownsCq f (fget (v.setWidth 64) 21 16) then
      s.cqConsume (fget (v.setWidth 64) 21 16) (fget (v.setWidth 64) 15 0) else s).answeredOk := by
  show Host.Outcome.next (s.regWrite _ _ _ _ _) = _
  rw [State.regWrite, State.unit, if_pos hf, cpReg_reach s _ f v req h, writeReg_fnCqCons]

/-! ## Words of CQ_CFG (R158, R167) -/

/-- The fields of CQ_CFG beside EN, which a DISABLED queue takes. -/
def cqCfgOthers : W64 := 0x1F3F0000

/-- A write of a word in which one bit is cleared, and the writable fields are as they stand, clears the bit. -/
theorem merged_withoutBit (s : State) (f : Fld) (n : Nat)
    (h : (f.word 1).setWidth 64 &&& f.reg.bitsOf (fun a => a == .rw || a == .rwx) = (f.word 1).setWidth 64) :
    s.merged f.reg n ((s.withoutBit f n).setWidth 64) 0xFFFFFFFF = s.reg f.reg n &&& ~~~((f.word 1).setWidth 64) := by
  apply BitVec.eq_of_getLsbD_eq
  intro i hi
  have hb := congrArg (fun w => BitVec.getLsbD w i) h
  simp only [State.merged, State.withoutBit, State.asItStands, BitVec.getLsbD_and, BitVec.getLsbD_or, BitVec.getLsbD_not,
    BitVec.getLsbD_setWidth, lowWord_getLsbD, hi, decide_true, Bool.true_and] at hb ⊢
  cases hw : (f.reg.bitsOf (fun a => a == .rw || a == .rwx)).getLsbD i with
  | false => rw [hw, Bool.and_false] at hb; simp [← hb]
  | true =>
    by_cases h32 : i < 32
    · simp [h32]
    · simp [h32, BitVec.getLsbD_of_ge _ _ (Nat.not_lt.mp h32)]

theorem cqCfg_withoutEn (s : State) (c : Nat) : s.merged .CQ_CFG c ((s.withoutBit CQ_CFG.EN c).setWidth 64) 0xFFFFFFFF =
    s.reg .CQ_CFG c &&& ~~~rqCfgEn := merged_withoutBit s CQ_CFG.EN c (by decide)

/-- CQ_CFG as a write with EN = 1 asks for it. -/
def State.cqCfgOn (s : State) (c : Nat) (v : W32) : W64 := s.merged .CQ_CFG c ((v ||| CQ_CFG.EN.word 1).setWidth 64) 0xFFFFFFFF

theorem cqCfgOn_en (s : State) (c : Nat) (v : W32) : (s.cqCfgOn c v).getLsbD 31 = true := by
  have h1 : (Reg.CQ_CFG.bitsOf (fun a => a == .rw || a == .rwx)).getLsbD 31 = true := by decide
  have h2 : (CQ_CFG.EN.word 1).getLsbD 31 = true := by decide
  simp [State.cqCfgOn, State.merged, h1, h2]

/-- Its other fields are those of the written word. -/
theorem cqCfgOn_others (s : State) (c : Nat) (v : W32) : s.cqCfgOn c v &&& cqCfgOthers = v.setWidth 64 &&& cqCfgOthers := by
  have hbit : ∀ i < 64, cqCfgOthers.getLsbD i = true →
      i < 32 ∧ (Reg.CQ_CFG.bitsOf (fun a => a == .rw || a == .rwx)).getLsbD i = true ∧ (CQ_CFG.EN.word 1).getLsbD i = false := by
    decide
  apply BitVec.eq_of_getLsbD_eq
  intro i hi
  cases h : cqCfgOthers.getLsbD i with
  | false => simp [h]
  | true =>
    obtain ⟨h32, hw, hen⟩ := hbit i hi h
    simp only [State.cqCfgOn, State.merged, BitVec.getLsbD_and, BitVec.getLsbD_or, BitVec.getLsbD_not, BitVec.getLsbD_setWidth,
      lowWord_getLsbD, hi, h, h32, hw, hen]
    simp

theorem writeReg_cqCfg (s : State) (c : Nat) (v : W64) :
    s.writeReg .CQ_CFG c v 0xFFFFFFFF = s.cqCfgWrite c (s.merged .CQ_CFG c v 0xFFFFFFFF) := rfl

theorem exec_cqEnable {s : State} {c : Nat} (v : W32) {req : Req} (hc : c < 64) (h : s.OpenReg .CQ_CFG c req) :
    exec (.cqEnable c v req) s = .next (s.cqCfgWrite c (s.cqCfgOn c v)).answeredOk := by
  show Host.Outcome.next (s.regWrite _ _ _ _ _) = _
  rw [regWrite_open _ hc h, writeReg_cqCfg]; rfl

theorem exec_cqDisable {s : State} {c : Nat} {req : Req} (hc : c < 64) (h : s.OpenReg .CQ_CFG c req) :
    exec (.cqDisable c req) s = .next (s.cqCfgWrite c (s.reg .CQ_CFG c &&& ~~~rqCfgEn)).answeredOk := by
  show Host.Outcome.next (s.regWrite _ _ _ _ _) = _
  rw [regWrite_open _ hc h, writeReg_cqCfg, cqCfg_withoutEn]

/-! ## EN = 1 (R158) -/

/-- The queue with the other fields of the written word and EN cleared, which a DISABLED queue takes first. -/
def State.cqConfigured (s : State) (c : Nat) (v : W32) : State := s.setReg .CQ_CFG c (v.setWidth 64 &&& cqCfgOthers)

theorem cqCfgWrite_enables {s : State} {c : Nat} (v : W32) (h : (s.cq c).st = .disabled) :
    s.cqCfgWrite c (s.cqCfgOn c v) = (s.cqConfigured c v).cqEnable c := by
  have hw : s.cqCfgWrite c (s.cqCfgOn c v) = if (s.cqCfgOn c v).getLsbD 31 then
      (s.setReg .CQ_CFG c (s.cqCfgOn c v &&& cqCfgOthers)).cqEnable c
    else (s.setReg .CQ_CFG c (s.cqCfgOn c v &&& cqCfgOthers)).cqDisable c := by
    simp only [State.cqCfgWrite, h, beq_self_eq_true, if_true]; rfl
  rw [hw, if_pos (cqCfgOn_en s c v), cqCfgOn_others]; rfl

theorem cqConfigured_fld (s : State) (c : Nat) (v : W32) (f : Fld) (hr : f.reg = .CQ_CFG := by rfl) (hl : f.lo ≤ f.hi := by decide)
    (h : ∀ i ≤ f.hi, f.lo ≤ i → cqCfgOthers.getLsbD i = true := by decide) :
    (s.cqConfigured c v).fld f c = fget (v.setWidth 64) f.hi f.lo := by
  rw [State.fld, hr, State.cqConfigured, reg_setReg_same, fget_masked _ _ _ _ h hl]

theorem cqConfigured_other (s : State) (c n : Nat) (v : W32) (f : Fld) (h : f.reg ≠ .CQ_CFG := by decide) :
    (s.cqConfigured c v).fld f n = s.fld f n := fld_of_reg (reg_setReg_ne _ _ (Or.inl h))

/-- What an enabled queue becomes: ON at CQ_HEAD, with nothing held or being written. -/
def State.enabledCq (s : State) (c : Nat) (v : W32) : Cq :=
  let size := 2 ^ min 16 (max 6 (fget (v.setWidth 64) 28 24))
  let i := s.fld CQ_HEAD.INDEX c
  let head := (s.fld CQ_HEAD.LAP c + 1) * size + i
  let cons := s.fld CQ_CONS.INDEX c % size
  { s.cq c with
    st := .on, nextPos := head, pub := head, cons := if cons ≤ i then head - (i - cons) else head - i - (size - cons)
    held := [], writing := [], mirror := none, full := false }

/-- A queue whose function is not fenced is enabled, with the fields of the written word. -/
theorem enabled_reads {s : State} {c : Nat} (v : W32) (h : (s.cq c).st = .disabled)
    (hf : bitAt (s.fld FLT_FUNC.MAP (fget (v.setWidth 64) 21 16 / 32)) (fget (v.setWidth 64) 21 16 % 32) = false) :
    ((s.cqConfigured c v).cqEnable c).cq c = s.enabledCq c v ∧ ((s.cqConfigured c v).cqEnable c).flag CQ_CFG.EN c = true ∧
      ((s.cqConfigured c v).cqEnable c).fld CQ_CFG.FUNC c = fget (v.setWidth 64) 21 16 ∧
      ((s.cqConfigured c v).cqEnable c).fld CQ_CFG.SIZE_LOG2 c = fget (v.setWidth 64) 28 24 := by
  have hq : (s.cqConfigured c v).cq c = s.cq c := cq_setReg _ _ _ _ _
  have hfn := cqConfigured_fld s c v CQ_CFG.FUNC
  have hsz := cqConfigured_fld s c v CQ_CFG.SIZE_LOG2
  have hon : (s.cqConfigured c v).cqEnable c = ((s.cqConfigured c v).putFlag CQ_CFG.EN c true).setCq c (s.enabledCq c v) := by
    have hmap : bitAt ((s.cqConfigured c v).fld FLT_FUNC.MAP ((s.cqConfigured c v).fld CQ_CFG.FUNC c / 32))
        ((s.cqConfigured c v).fld CQ_CFG.FUNC c % 32) = false := by
      rw [hfn, cqConfigured_other s c _ v FLT_FUNC.MAP]; exact hf
    simp only [State.cqEnable, hq, h, hmap, Bool.false_eq_true, if_false, State.enabledCq, State.cqLog, hsz,
      cqConfigured_other s c c v CQ_HEAD.LAP, cqConfigured_other s c c v CQ_HEAD.INDEX, cqConfigured_other s c c v CQ_CONS.INDEX]
    rfl
  rw [hon]
  refine ⟨cq_setCq_same _ _ _, ?_, ?_, ?_⟩
  · rw [flag_setCq, flag_putFlag_same _ CQ_CFG.EN]
  · rw [fld_setCq, State.putFlag, fld_put_apart (g := CQ_CFG.FUNC)]; exact hfn
  · rw [fld_setCq, State.putFlag, fld_put_apart (g := CQ_CFG.SIZE_LOG2)]; exact hsz

/-! ## EN = 0 (R158) -/

/-- A write with EN = 0 of what the register holds clears EN. -/
theorem cqCfgWrite_clears {s : State} {c : Nat} (h : (s.cq c).st ≠ .disabled) :
    s.cqCfgWrite c (s.reg .CQ_CFG c &&& ~~~rqCfgEn) = s.cqDisable c := by
  obtain ⟨hen, hsame⟩ := rqCfg_cleared (s.reg .CQ_CFG c)
  have hmask : (0x1F3F0000 : W64) = rqCfgOthers &&& 0x1F3F0000 := by decide
  have hd : (s.reg .CQ_CFG c &&& ~~~rqCfgEn ^^^ s.reg .CQ_CFG c) &&& 0x1F3F0000 = 0 := by
    rw [hmask, ← BitVec.and_assoc, hsame]; exact BitVec.zero_and
  simp only [State.cqCfgWrite, beq_eq_false_iff_ne.mpr h, hd, hen, beq_self_eq_true, if_true, Bool.false_eq_true, if_false]

theorem cqDisable_unbound {s : State} {c : Nat} (h : (s.cq c).st = .on) (hb : s.boundRqs c = []) :
    s.cqDisable c = ((s.putFlag CQ_CFG.EN c false).setCq c { s.cq c with st := .draining }).cqDrainEnd c := by
  simp only [State.cqDisable, h, hb, List.isEmpty_nil, if_true]

theorem cqDisable_bound {s : State} {c : Nat} (h : (s.cq c).st = .on) (hb : s.boundRqs c ≠ []) :
    s.cqDisable c = s.seq (pg .qeng) := by
  have he : (s.boundRqs c).isEmpty = false := by simpa using hb
  simp only [State.cqDisable, h, he, Bool.false_eq_true, if_false]

theorem cqDisable_fenced {s : State} {c : Nat} (h : (s.cq c).st = .fenced) : s.cqDisable c =
    ((s.putFlag CQ_CFG.EN c false).putFlag CQ_ERR.FENCED c false).setCq c { s.cq c with st := .disabled } := by
  simp only [State.cqDisable, h]

/-- A queue that drains is DISABLED once its grants have returned and its mirror is published; nothing else of it changes. -/
theorem cqDrainEnd_cq (s : State) (c : Nat) : ∃ st, (s.cqDrainEnd c).cq c = { s.cq c with st := st } ∧
    ((s.cq c).st = .draining → st = if (s.cq c).grants = 0 ∧ (s.cq c).held = [] ∧ (s.cq c).writing = [] ∧ (s.cq c).mirror = none ∧
      (s.cq c).pub = (s.cq c).nextPos then .disabled else .draining) := by
  unfold State.cqDrainEnd
  extract_lets x
  split
  · rename_i h
    simp only [Bool.and_eq_true, beq_iff_eq, List.isEmpty_iff, Option.isNone_iff_eq_none] at h
    obtain ⟨⟨⟨⟨⟨-, hg⟩, hh⟩, hw⟩, hm⟩, hp⟩ := h
    exact ⟨.disabled, cq_setCq_same _ _ _, fun _ => (if_pos ⟨hg, hh, hw, hm, hp⟩).symm⟩
  · rename_i h
    refine ⟨(s.cq c).st, rfl, fun hd => hd.trans (if_neg (fun hc => h ?_)).symm⟩
    obtain ⟨hg, hh, hw, hm, hp⟩ := hc
    simp [x, hd, hg, hh, hw, hm, hp]

theorem cqDrainEnd_regs (s : State) (c : Nat) : (s.cqDrainEnd c).regs = s.regs :=
  (cqDrainEnd_within (F := only [.crown]) (Part.all_only _) c (Within.refl s)).regs rfl

theorem seq_cq (s : State) (p : PageRef) (c : Nat) : (s.seq p).cq c = s.cq c := cq_congr ((raiseFault_keeps s p 5).crown rfl) c

/-- Settles O38: both writes of a consumer index are State.cqConsume, and EN acts in each state of the queue. -/
theorem completionQueuesAreKept : Obligations.CompletionQueuesAreKept := by
  refine ⟨?_, ?_, ?_, ?_, ?_, ?_, ?_, ?_⟩
  · intro s c i d v req hc ho hst hi hlt hd hp
    subst hi hd
    exact ⟨_, exec_cqConsWrite v hc ho, cqConsume_places hst hlt hp⟩
  · intro s c i d v req hc ho hst hi hd h
    subst hi hd
    have hx := exec_cqConsWrite v hc ho
    rw [cqConsume_refused hst h] at hx
    refine ⟨_, hx, ?_, ?_, ?_⟩
    · rw [answeredOk_flag, flag_putFlag_same _ CQ_ERR.BAD_CONS]
    · rw [answeredOk_cq, cq_putFlag]
    · rw [answeredOk_fld, State.putFlag, fld_put_reg _ _ _ _ (by decide)]
  · intro s f c i d v req hf hr hc hown hst hi hlt hd hp
    subst hi hd hc
    have hx := exec_fnCqConsWrite v hf hr
    rw [if_pos hown] at hx
    obtain ⟨hcons, hidx, -, -⟩ := cqConsume_places hst hlt hp
    exact ⟨_, hx, hcons, hidx⟩
  · intro s f v req hf hr hown
    rw [exec_fnCqConsWrite v hf hr, hown]; rfl
  · intro s c f size v req hc ho hst hf hmap hsize
    obtain ⟨hq, hen, hfn, hsz⟩ := enabled_reads v hst (by rw [← hf]; exact hmap)
    have hx := exec_cqEnable v hc ho
    rw [cqCfgWrite_enables v hst] at hx
    have hnext : (s.enabledCq c v).nextPos = (s.fld CQ_HEAD.LAP c + 1) * size + s.fld CQ_HEAD.INDEX c := by rw [hsize]; rfl
    refine ⟨_, hx, ?_, ?_, ?_, ?_, ?_, hen, hfn.trans hf.symm, hsz⟩
    all_goals rw [answeredOk_cq, hq]
    · rfl
    · rfl
    · rfl
    · exact hnext
    · rfl
  · intro s c req hc ho hst hb
    have hx := exec_cqDisable hc ho
    rw [cqCfgWrite_clears (by rw [hst]; decide), cqDisable_unbound hst hb] at hx
    obtain ⟨st, hq, hd⟩ := cqDrainEnd_cq ((s.putFlag CQ_CFG.EN c false).setCq c { s.cq c with st := .draining }) c
    have hr := cqDrainEnd_regs ((s.putFlag CQ_CFG.EN c false).setCq c { s.cq c with st := .draining }) c
    rw [cq_setCq_same] at hq hd
    refine ⟨_, hx, ?_, ?_, ?_⟩
    · rw [answeredOk_flag, flag_congr _ _ hr, flag_setCq, flag_putFlag_same _ CQ_CFG.EN]
    · rw [answeredOk_fld, fld_congr _ _ hr, fld_setCq, State.putFlag, fld_put_apart (g := CQ_CFG.FUNC)]
    · rw [answeredOk_cq, hq]
      exact hd rfl
  · intro s c req hc ho hst hb
    have hx := exec_cqDisable hc ho
    rw [cqCfgWrite_clears (by rw [hst]; decide), cqDisable_bound hst hb] at hx
    exact ⟨_, hx, seq_cq _ _ _, seq_bit _ _⟩
  · intro s c req hc ho hst
    have hx := exec_cqDisable hc ho
    rw [cqCfgWrite_clears (by rw [hst]; decide), cqDisable_fenced hst] at hx
    have hen : ((s.putFlag CQ_CFG.EN c false).putFlag CQ_ERR.FENCED c false).flag CQ_CFG.EN c =
        (s.putFlag CQ_CFG.EN c false).flag CQ_CFG.EN c := flag_of_reg (reg_putFlag_ne _ _ (Or.inl (by decide)))
    refine ⟨_, hx, ?_, ?_, ?_⟩
    · rw [answeredOk_cq, cq_setCq_same]
    · rw [answeredOk_flag, flag_setCq, flag_putFlag_same _ CQ_ERR.FENCED]
    · rw [answeredOk_flag, flag_setCq, hen, flag_putFlag_same _ CQ_CFG.EN]

end Sys2Proof.Machine
end

section
/-! PROOFS. The statements of 07_completions_and_interrupts.md: completions that reach memory (O37). -/

namespace Sys2Proof.Machine

set_option Elab.async false

/-! ## Completions that the crown takes (R149, R152) -/

theorem reached_of_noChain {s : State} {k : Compl} (h : k.elem.chain = none) :
    s.reached k = (s.updRq k.elem.rq (fun x => { x with inflight := x.inflight - 1 })).rqDrainEnd k.elem.rq := by
  unfold State.reached State.chainOff
  simp [h]

/-- A queue that drains keeps its count of elements in flight. -/
theorem rqDrainEnd_inflight (s : State) (q : Nat) : ((s.rqDrainEnd q).rq q).inflight = (s.rq q).inflight := by
  unfold State.rqDrainEnd
  extract_lets x
  split
  · rw [rq_setRq_same]
  · rfl

/-- The counts of a completion that is taken. -/
def State.takeCounted (s : State) (k : Compl) : State :=
  let u := s.perfCount 64 1
  let waits := k.elem.ord.isSome && k.elem.ord != some (u.rq k.elem.rq).ordRel
  (u.perfCount 67 (b2n waits)).fnCount k.elem.func 40 (b2n waits)

/-- A completion joins those that wait for their turn. -/
def State.joins (s : State) (k : Compl) : State := { s with crown := { s.crown with waiting := s.crown.waiting ++ [k] } }

theorem takeCounted_within (s : State) (k : Compl) : s.Within (only [.regs, .hdrs, .irq]) (s.takeCounted k) :=
  fnCount_within (Part.All.of_all rfl) _ _ _
    (perfCount_within (Part.all_only _) _ _ (perfCount_within (Part.all_only _) _ _ (Within.refl s)))

theorem takeCounted_regs (s : State) (k : Compl) : RegsBut countRegs s (s.takeCounted k) :=
  ((perfCount_regsBut s _ _).trans (perfCount_regsBut _ _ _)).trans (fnCount_regsBut _ _ _ _)

theorem takeFrom_head {s : State} {p : Nat} {k : Compl} {rest : List Compl} (hp : s.fifo p = k :: rest) (hv : k.vec = none) :
    s.takeFrom p = (((s.setFifo p rest).takeCounted k).joins k).reached k := by
  unfold State.takeFrom
  rw [hp]
  simp only [hv]
  rfl

/-- From s to t the crown has taken a completion out of its FIFO, and a queue has one element less in flight. -/
structure Takes (p : Nat) (k : Compl) (rest : List Compl) (s t : State) : Prop where
  crown : t.crown = { s.crown with fifos := Tbl.set [] s.crown.fifos p rest, waiting := s.crown.waiting ++ [k] }
  inflight : (t.rq k.elem.rq).inflight = (s.rq k.elem.rq).inflight - 1
  regs : RegsBut countRegs s t

theorem takeFrom_takes {s : State} {p : Nat} {k : Compl} {rest : List Compl} (hp : s.fifo p = k :: rest) (hv : k.vec = none)
    (hc : k.elem.chain = none) : Takes p k rest s (s.takeFrom p) := by
  rw [takeFrom_head hp hv, reached_of_noChain hc]
  have hu := takeCounted_within (s.setFifo p rest) k
  have hregs := takeCounted_regs (s.setFifo p rest) k
  generalize (s.setFifo p rest).takeCounted k = u at hu hregs ⊢
  refine ⟨?_, ?_, ?_⟩
  · rw [(rqDrainEnd_within (F := only [.qeng, .fab]) (Part.all_only _) _ (Within.refl _)).crown rfl]
    show { u.crown with waiting := u.crown.waiting ++ [k] } = _
    rw [hu.crown rfl]; rfl
  · have hq : (u.joins k).rq k.elem.rq = s.rq k.elem.rq := rq_congr (hu.qeng rfl) _
    rw [rqDrainEnd_inflight, rq_updRq_same, hq]
  · exact ((RegsBut.of_regs rfl).trans hregs).same (rqDrainEnd_regs _ _)

/-- The pointer of the crown moves on. -/
def State.pointedTo (s : State) (ptr : Nat) : State := { s with crown := { s.crown with ptr := ptr } }

/-- No completion waits for its turn. -/
def State.noneWaits (s : State) : State := { s with crown := { s.crown with waiting := [] } }

theorem unstall_none {s : State} (h : s.crown.stalled = []) : s.unstall = s := by
  have hc : { s.crown with stalled := [] } = s.crown := by rw [← h]
  unfold State.unstall
  rw [h, List.foldl_nil, hc]

theorem releaseAll_none {s : State} (h : s.crown.waiting = []) (n : Nat) : s.releaseAll n = s := by
  cases n with
  | zero => rfl
  | succ n => simp only [State.releaseAll, h, List.findIdx?_nil]

/-- A completion that is in no order and in no chain, and whose frame has ended, is released at once. -/
theorem releaseAll_lone {s : State} {k : Compl} (h : s.crown.waiting = [k]) (hf : k.frame = none) (ho : k.elem.ord = none)
    (hc : k.elem.chain = none) (n : Nat) :
    s.releaseAll (n + 1) = (s.noneWaits.release k).releaseAll n := by
  have hr : s.releasable k = true := by simp [State.releasable, State.orderTurn, State.chainTurn, hf, ho, hc]
  rw [State.releaseAll]
  simp [h, hr, ho, hc, State.chainReleased, State.noneWaits]

/-- A completion of a queue that is ON, with nothing held and with room, takes the next position, and its entry is written. -/
theorem release_writes {s : State} {k : Compl} (hst : (s.cq k.elem.cq).st = .on) (hh : (s.cq k.elem.cq).held = [])
    (hroom : (s.cq k.elem.cq).outstanding + 1 < 2 ^ s.cqLog k.elem.cq) : s.release k =
      (s.setCq k.elem.cq { s.cq k.elem.cq with nextPos := (s.cq k.elem.cq).nextPos + 1 }).writeEntry k.elem.cq
        (s.cq k.elem.cq).nextPos k := by
  have hle : (s.cq k.elem.cq).outstanding + 1 ≤
      2 ^ (s.setCq k.elem.cq { s.cq k.elem.cq with nextPos := (s.cq k.elem.cq).nextPos + 1 }).cqLog k.elem.cq - 1 :=
    Nat.le_sub_one_of_lt hroom
  unfold State.release
  simp only [hst, hh, List.isEmpty_nil]
  exact if_pos hle

theorem startWrite_sends (s : State) (kind : XKind) (attr : Attr) (a : Nat) (data : Bytes) (port : Option Nat) :
    ∃ x ∈ (s.startWrite kind attr a data port).2.fab.xfers, x.kind = kind := by
  have h : Emits (s.newXfer kind (accesses a data.length).length).2 (s.startWrite kind attr a data port).2 :=
    (Emits.refl _).foldl (fun _ _ hu => hu.issueReq _ _) _
  exact ⟨{ id := s.fab.next, kind := kind, left := (accesses a data.length).length },
    h.xfers _ (List.mem_append_right _ (List.mem_singleton_self _)), rfl⟩

theorem writeEntry_sends (s : State) (c pos : Nat) (k : Compl) :
    ∃ x ∈ (s.writeEntry c pos k).fab.xfers, x.kind = .cqEntry c pos := by
  obtain ⟨x, hx, hk⟩ := startWrite_sends (s.updCq c (fun x => { x with writing := x.writing ++ [pos] })) (.cqEntry c pos)
    (fnAttr (s.fld CQ_CFG.FUNC c) true false) (4096 * s.fld CQ_BASE.BASE c + 32 * (pos % 2 ^ s.cqLog c))
    (entryBytes { k with elem := k.elem.stamp 7 s.now } s.now) none
  exact ⟨x, (writeEntry_counts s c pos k).xfers x hx, hk⟩

/-- Of the crown an entry's write changes the positions that wait for their answers alone. -/
theorem writeEntry_keeps (s : State) (c pos : Nat) (k : Compl) :
    (s.updCq c (fun x => { x with writing := x.writing ++ [pos] })).Within (only [.regs, .hdrs, .irq, .fab, .perf])
      (s.writeEntry c pos k) := by
  unfold State.writeEntry
  extract_lets k size a u f
  have hF : Part.All (only [.regs, .hdrs, .irq, .fab, .perf]) [.regs, .hdrs, .irq, .fab] := Part.All.of_all rfl
  have hP : Part.All (only [.regs, .hdrs, .irq, .fab, .perf]) [.regs, .hdrs, .irq] := Part.All.of_all rfl
  have hC : Part.All (only [.regs, .hdrs, .irq, .fab, .perf]) [.regs] := Part.All.of_all rfl
  refine traceEnd_within (Part.all_only _) _ _ ?_
  iterate 4 refine fnCount_within hC _ _ _ ?_
  refine perfCount_within hP _ _ (fnCount_within hC _ _ _ (perfCount_within hP _ _ (perfCount_within hP _ _ ?_)))
  exact startWrite_within hF (.cqEntry c pos) (fnAttr f true false) a (entryBytes k u.now) none (Within.refl u)

theorem bump_nextPtr (s : State) (n : Nat) : (s.bump CROWN_STALL_CNT.COUNT 0 n).nextPtr = s.nextPtr := by
  have hflag : (s.bump CROWN_STALL_CNT.COUNT 0 n).flag CROWN_XPRIO.FIXED 0 = s.flag CROWN_XPRIO.FIXED 0 :=
    flag_of_reg (reg_put_ne _ _ (Or.inl (by decide)))
  have hfld : (s.bump CROWN_STALL_CNT.COUNT 0 n).fld CROWN_XPRIO.START 0 = s.fld CROWN_XPRIO.START 0 :=
    fld_put_reg _ _ _ _ (by decide)
  unfold State.nextPtr State.crownPtr
  rw [hflag, hfld]; rfl

theorem crownCycle_lone {s : State} {p : Nat} (ht : s.taken = [p]) (hs : s.crown.stalled = []) : s.crownCycle =
    (((s.bump CROWN_STALL_CNT.COUNT 0 0).takeFrom p).pointedTo s.nextPtr).unstall.releaseWaiting.ascending s.irq.msgs.length := by
  simp only [State.crownCycle, ht, hs, List.map_nil, List.dedup_nil, List.length_nil, List.foldl_cons, List.foldl_nil, bump_nextPtr]
  rfl

/-- A cycle that takes one completion, which nothing holds back, writes its entry in a state u whose crown has it no more. -/
theorem crownCycle_writes {s : State} {p : Nat} {k : Compl} {rest : List Compl} (ht : s.taken = [p]) (hp : s.fifo p = k :: rest)
    (hv : k.vec = none) (hf : k.frame = none) (ho : k.elem.ord = none) (hc : k.elem.chain = none) (hw : s.crown.waiting = [])
    (hs : s.crown.stalled = []) (hst : (s.cq k.elem.cq).st = .on) (hh : (s.cq k.elem.cq).held = [])
    (hroom : (s.cq k.elem.cq).outstanding + 1 < 2 ^ s.cqLog k.elem.cq) :
    ∃ u : State, u.crown = { s.crown with fifos := Tbl.set [] s.crown.fifos p rest, ptr := s.nextPtr, waiting := [] } ∧
      (u.rq k.elem.rq).inflight = (s.rq k.elem.rq).inflight - 1 ∧
      s.crownCycle = ((u.setCq k.elem.cq { s.cq k.elem.cq with nextPos := (s.cq k.elem.cq).nextPos + 1 }).writeEntry k.elem.cq
        (s.cq k.elem.cq).nextPos k).ascending s.irq.msgs.length := by
  have hb : (s.bump CROWN_STALL_CNT.COUNT 0 0).crown = s.crown := State.put_crown _ _ _ _
  have hbump : RegsBut [.CROWN_STALL_CNT] s (s.bump CROWN_STALL_CNT.COUNT 0 0) := .of_put _ _ _ _
  obtain ⟨hcrown, hin, hregs⟩ := takeFrom_takes (s := s.bump CROWN_STALL_CNT.COUNT 0 0) (by rw [State.fifo, hb]; exact hp) hv hc
  rw [crownCycle_lone ht hs]
  generalize (s.bump CROWN_STALL_CNT.COUNT 0 0).takeFrom p = v at hcrown hin hregs ⊢
  rw [hb, hw, List.nil_append] at hcrown
  have hcq : (v.pointedTo s.nextPtr).noneWaits.cq k.elem.cq = s.cq k.elem.cq := by
    show Tbl.get _ v.crown.cqs _ = _
    rw [hcrown]; rfl
  have hlog : (v.pointedTo s.nextPtr).noneWaits.cqLog k.elem.cq = s.cqLog k.elem.cq := by
    unfold State.cqLog
    rw [← hbump.fld CQ_CFG.SIZE_LOG2, ← hregs.fld CQ_CFG.SIZE_LOG2]; rfl
  refine ⟨(v.pointedTo s.nextPtr).noneWaits, ?_, hin, ?_⟩
  · show { v.crown with ptr := s.nextPtr, waiting := [] } = _
    rw [hcrown]
  · have hwait : (v.pointedTo s.nextPtr).crown.waiting = [k] := congrArg Crown.waiting hcrown
    have hstall : (v.pointedTo s.nextPtr).crown.stalled = [] := (congrArg Crown.stalled hcrown).trans hs
    rw [unstall_none hstall, State.releaseWaiting, hwait, List.length_singleton, releaseAll_lone hwait hf ho hc,
      release_writes (by rw [hcq]; exact hst) (by rw [hcq]; exact hh) (by rw [hcq, hlog]; exact hroom), hcq,
      releaseAll_none (congrArg Crown.waiting ((writeEntry_keeps _ _ _ _).crown rfl))]

/-- The crown, the queues and the transfers of a cycle are the ones before the engines go on. -/
theorem crownCycle_after (s : State) : s.dmaGoOn.enginesGo.crown = s.crown ∧ s.dmaGoOn.enginesGo.qeng = s.qeng ∧
    ∀ x ∈ s.fab.xfers, x ∈ s.dmaGoOn.enginesGo.fab.xfers := by
  have hd := dmaGoOn_within (F := only [.regs, .hdrs, .irq, .fab, .dma]) (Part.all_only _) (Within.refl s)
  have he := enginesGo_within (F := only [.regs, .hdrs, .irq, .digest, .bignum, .key]) (Part.all_only _) (Within.refl s.dmaGoOn)
  exact ⟨(he.crown rfl).trans (hd.crown rfl), (he.qeng rfl).trans (hd.qeng rfl),
    fun x hx => by rw [he.fab rfl]; exact (Emits.refl s).dmaGoOn.xfers x hx⟩

/-! ## Answers of the fabric to the completion queues (R153, R155) -/

theorem cqMail_lone {s : State} {c : Nat} {x : Xfer} {p : Xfer → Bool} (hm : s.fab.mail = [x])
    (hk : (∃ pos, x.kind = .cqEntry c pos) ∨ ∃ pos, x.kind = .cqMirror c pos) (hp : p x = true) :
    s.cqMail c p = some (x, s.mailTaken) := by
  rcases hk with ⟨pos, hk⟩ | ⟨pos, hk⟩ <;> simp [State.cqMail, State.mailTaken, hm, hk, hp]

/-- What an answer leaves before the queue is written: one that was retried counts as a transient fault of the crown. -/
def State.cqAnswered (s : State) (x : Xfer) : State := if x.retried then s.mailTaken.transient (pg .crown) else s.mailTaken

/-- No vector has the faults of the crown. -/
theorem transient_crown_irq (s : State) : (s.transient (pg .crown)).irq = s.irq := by
  have hv : faultVec (pg .crown) 0 = none := rfl
  unfold State.transient State.raiseFault
  extract_lets u h v
  split
  · rfl
  · split
    · rfl
    · rw [hv]; rfl

theorem cqAnswered_irq (s : State) (x : Xfer) : (s.cqAnswered x).irq = s.irq := by
  unfold State.cqAnswered
  split
  · exact transient_crown_irq _
  · rfl

theorem cqAnswered_within (s : State) (x : Xfer) : s.Within (only [.fab, .hdrs, .irq]) (s.cqAnswered x) := by
  have h : s.Within (only [.fab, .hdrs, .irq]) s.mailTaken := within_fab rfl (Within.refl s)
  unfold State.cqAnswered
  split
  · exact transient_within (Part.All.of_all rfl) _ h
  · exact h

theorem cqAnswered_cq (s : State) (x : Xfer) (c : Nat) : (s.cqAnswered x).cq c = s.cq c :=
  cq_congr ((cqAnswered_within s x).crown rfl) c

theorem cqAnswered_regs (s : State) (x : Xfer) : (s.cqAnswered x).regs = s.regs := (cqAnswered_within s x).regs rfl

theorem cqAnswered_vec (s : State) (x : Xfer) (v : Nat) : (s.cqAnswered x).vec v = s.vec v := by
  unfold State.vec
  rw [cqAnswered_irq]

theorem entryDone_lone {s : State} {c pos : Nat} {x : Xfer} (hm : s.fab.mail = [x]) (hk : x.kind = .cqEntry c pos)
    (hx : x.failed = none) : s.entryDone c =
      ((s.cqAnswered x).updCq c (fun y => { y with writing := y.writing.filter (· != pos) })).ungrant c := by
  unfold State.entryDone
  rw [cqMail_lone hm (.inl ⟨pos, hk⟩) (by simp [hx, hk])]
  simp only [hk, State.cqAnswered]

/-- A queue's record is written, and CQ_HEAD. -/
def State.publishes (s : State) (c : Nat) (x : Cq) (lap i : Nat) : State :=
  ((s.setCq c x).put CQ_HEAD.LAP c lap).put CQ_HEAD.INDEX c i

theorem publishes_cq (s : State) (c : Nat) (x : Cq) (lap i : Nat) : (s.publishes c x lap i).cq c = x := by
  rw [State.publishes, cq_put, cq_put, cq_setCq_same]

theorem publishes_vec (s : State) (c : Nat) (x : Cq) (lap i v : Nat) : (s.publishes c x lap i).vec v = s.vec v := by
  unfold State.vec
  rw [State.publishes, State.put_irq, State.put_irq, State.setCq_irq]

theorem publishes_index (s : State) (c : Nat) (x : Cq) (lap : Nat) {i : Nat} (hi : i < 2 ^ 16) :
    (s.publishes c x lap i).fld CQ_HEAD.INDEX c = i := by
  rw [State.publishes, fld_put_same _ CQ_HEAD.INDEX]
  exact Nat.mod_eq_of_lt hi

theorem publishes_lap (s : State) (c : Nat) (x : Cq) {lap : Nat} (i : Nat) (hl : lap < 2 ^ 32) :
    (s.publishes c x lap i).fld CQ_HEAD.LAP c = lap := by
  rw [State.publishes, fld_put_apart (g := CQ_HEAD.LAP), fld_put_same _ CQ_HEAD.LAP]
  exact Nat.mod_eq_of_lt hl

theorem mirrorDone_lone {s : State} {c pos : Nat} {x : Xfer} (hm : s.fab.mail = [x]) (hk : x.kind = .cqMirror c pos)
    (hx : x.failed = none) : s.mirrorDone c =
      (((s.cqAnswered x).publishes c { s.cq c with mirror := none, pub := pos } ((pos / 2 ^ s.cqLog c + 2 ^ 32 - 1) % 2 ^ 32)
        (pos % 2 ^ s.cqLog c)).countVec c (pos - (s.cq c).pub)).cqDrainEnd c := by
  have hlog : (s.cqAnswered x).cqLog c = s.cqLog c := by unfold State.cqLog; rw [fld_congr _ _ (cqAnswered_regs s x)]
  unfold State.mirrorDone
  rw [cqMail_lone hm (.inr ⟨pos, hk⟩) (by simp [hx, hk])]
  rw [← cqAnswered_cq s x c, ← hlog]
  simp only [hk, State.cqAnswered, State.publishes]

theorem ungrant_cq (s : State) (c : Nat) : ∃ st, (s.ungrant c).cq c = { s.cq c with st := st, grants := (s.cq c).grants - 1 } := by
  obtain ⟨st, h, -⟩ := cqDrainEnd_cq (s.updCq c (fun x => { x with grants := x.grants - 1 })) c
  rw [cq_updCq_same] at h
  exact ⟨st, h⟩

theorem cqDrainEnd_vec (s : State) (c v : Nat) : (s.cqDrainEnd c).vec v = s.vec v := by
  unfold State.vec
  rw [(cqDrainEnd_within (F := only [.crown]) (Part.all_only _) c (Within.refl s)).irq rfl]

/-! ## Fenced completion queues (R155) -/

/-- What a live queue becomes when it is fenced: the next position is the published one. -/
def Cq.fenced (x : Cq) : Cq :=
  { x with st := .fenced, held := [], writing := [], mirror := none, full := false
           grants := x.grants - (x.writing.length + x.held.length), nextPos := x.pub }

/-- A queue's record and its error register are written. -/
def State.markFenced (s : State) (c : Nat) (x : Cq) (cause : Nat) : State :=
  ((s.setCq c x).putFlag CQ_ERR.FENCED c true).put CQ_ERR.CAUSE c cause

theorem markFenced_hdrs (s : State) (c : Nat) (x : Cq) (cause : Nat) : (s.markFenced c x cause).hdrs = s.hdrs := by
  rw [State.markFenced, State.put_hdrs, State.putFlag_hdrs, State.setCq_hdrs]

theorem markFenced_cq (s : State) (c d : Nat) (x : Cq) (cause : Nat) : (s.markFenced c x cause).cq d = (s.setCq c x).cq d := by
  rw [State.markFenced, cq_put, cq_putFlag]

theorem markFenced_reg (s : State) {c n : Nat} {r : Reg} (x : Cq) (cause : Nat) (h : r ≠ .CQ_ERR ∨ n ≠ c) :
    (s.markFenced c x cause).reg r n = s.reg r n := by
  rw [State.markFenced, reg_put_ne _ _ h, reg_putFlag_ne _ _ h, State.reg, State.setCq_regs, State.reg]

/-- The transfers of a queue's entries and of its mirror. -/
def ofCq (c : Nat) (k : XKind) : Bool :=
  match k with
  | .cqEntry d _ => d == c
  | .cqMirror d _ => d == c
  | _ => false

/-- The queues bound to a completion queue that were held go on. -/
def State.heldGoOn (s : State) (c : Nat) : State :=
  (s.boundRqs c).foldl (fun s q => s.updRq q (fun x => if x.st == .held then { x with st := .active } else x)) s

/-- A live queue's transfers are dropped and its held entries' records written; then it is FENCED, with the cause. -/
theorem fenceCq_live {s : State} {c : Nat} (cause : Nat) (h : (s.cq c).st = .on ∨ (s.cq c).st = .draining) :
    s.fenceCq c cause =
      (((s.dropXfers (ofCq c)).traceDiscard (s.cq c).held).markFenced c (s.cq c).fenced cause).heldGoOn c := by
  unfold State.fenceCq
  exact if_pos (by simpa using h)

theorem heldGoOn_emits (s : State) (c : Nat) : Emits s (s.heldGoOn c) := (Emits.refl s).foldl (fun _ _ hz => hz.updRq _ _) _

/-- What the drop of a queue's transfers and the records of its held entries leave as it was. -/
theorem cqDropped_keeps (s : State) (c : Nat) :
    BitsRise s ((s.dropXfers (ofCq c)).traceDiscard (s.cq c).held) ∧
      RegsBut emitRegs s ((s.dropXfers (ofCq c)).traceDiscard (s.cq c).held) ∧
      ∀ d, ((s.dropXfers (ofCq c)).traceDiscard (s.cq c).held).cq d = s.cq d := by
  have hu := dropXfers_within (F := only [.fab]) (Part.all_only _) (ofCq c) (Within.refl s)
  have hv := (Emits.refl (s.dropXfers (ofCq c))).traceDiscard (s.cq c).held
  exact ⟨(BitsRise.of_hdrs (hu.hdrs rfl)).trans hv.toBitsRise, (RegsBut.of_regs (hu.regs rfl)).trans hv.regs,
    fun d => (hv.cq d).trans (cq_congr (hu.crown rfl) d)⟩

theorem fenceCq_dead {s : State} {c : Nat} (cause : Nat) (h : ¬ ((s.cq c).st = .on ∨ (s.cq c).st = .draining)) :
    s.fenceCq c cause = s := by
  unfold State.fenceCq
  exact if_neg (by simpa using h)

/-- From s to t a completion queue has been fenced for the cause. -/
structure CqFenced (c cause : Nat) (s t : State) : Prop extends BitsRise s t where
  cq : t.cq c = (s.cq c).fenced
  flag : t.flag CQ_ERR.FENCED c = true
  cause : t.fld CQ_ERR.CAUSE c = cause

theorem CqFenced.st {c cause : Nat} {s t : State} (h : CqFenced c cause s t) : (t.cq c).st = .fenced := by rw [h.cq]; rfl

theorem fenceCq_fenced {s : State} {c cause : Nat} (h : (s.cq c).st = .on) (hc : cause < 16) :
    CqFenced c cause s (s.fenceCq c cause) := by
  obtain ⟨hrise, -, -⟩ := cqDropped_keeps s c
  rw [fenceCq_live cause (.inl h)]
  generalize (s.dropXfers (ofCq c)).traceDiscard (s.cq c).held = v at hrise ⊢
  have hemit := heldGoOn_emits (v.markFenced c (s.cq c).fenced cause) c
  refine ⟨(hrise.trans (.of_hdrs (markFenced_hdrs _ _ _ _))).trans hemit.toBitsRise, ?_, ?_, ?_⟩
  · rw [hemit.cq, markFenced_cq, cq_setCq_same]
  · rw [hemit.regs.flag CQ_ERR.FENCED c, State.markFenced, State.flag, fld_put_apart (g := CQ_ERR.FENCED)]
    exact flag_putFlag_same _ CQ_ERR.FENCED c true
  · rw [hemit.regs.fld CQ_ERR.CAUSE c, State.markFenced, fld_put_same _ CQ_ERR.CAUSE]
    exact Nat.mod_eq_of_lt hc

theorem fenceCq_func {s : State} {c : Nat} (cause : Nat) : (s.fenceCq c cause).fld CQ_CFG.FUNC c = s.fld CQ_CFG.FUNC c := by
  by_cases h : (s.cq c).st = .on ∨ (s.cq c).st = .draining
  · obtain ⟨-, hregs, -⟩ := cqDropped_keeps s c
    rw [fenceCq_live cause h, (heldGoOn_emits _ c).regs.fld CQ_CFG.FUNC c, ← hregs.fld CQ_CFG.FUNC c]
    exact fld_of_reg (markFenced_reg _ _ _ (Or.inl (by decide)))
  · rw [fenceCq_dead cause h]

/-! ## What a function fence spares (R155, R336) -/

/-- From s to t no fault and no event bit has fallen, and a completion queue, its error register and the map of fenced functions
are as they were. -/
structure CqSpared (c : Nat) (s t : State) : Prop extends BitsRise s t where
  cq : t.cq c = s.cq c
  err : t.reg .CQ_ERR c = s.reg .CQ_ERR c
  map : ∀ n, t.reg .FLT_FUNC n = s.reg .FLT_FUNC n

namespace CqSpared

variable {c : Nat} {s t u : State}

theorem refl (c : Nat) (s : State) : CqSpared c s s := ⟨.refl s, rfl, rfl, fun _ => rfl⟩

theorem trans (h : CqSpared c s t) (k : CqSpared c t u) : CqSpared c s u :=
  ⟨h.toBitsRise.trans k.toBitsRise, k.cq.trans h.cq, k.err.trans h.err, fun n => (k.map n).trans (h.map n)⟩

/-- Registers of the list alone are written, and the queues stand. -/
theorem regsBut {l : List Reg} (h : CqSpared c s t) (hb : BitsRise t u) (hr : RegsBut l t u) (hc : u.cq c = t.cq c)
    (he : .CQ_ERR ∉ l := by decide) (hf : .FLT_FUNC ∉ l := by decide) : CqSpared c s u :=
  h.trans ⟨hb, hc, hr _ _ he, fun n => hr _ n hf⟩

theorem emits (h : CqSpared c s t) (k : Emits t u) : CqSpared c s u := h.regsBut k.toBitsRise k.regs (k.cq c)

/-- One that leaves the headers, the registers and the queues. -/
theorem same (h : CqSpared c s t) (hh : u.hdrs = t.hdrs := by rfl) (hr : u.regs = t.regs := by rfl)
    (hc : u.crown.cqs = t.crown.cqs := by rfl) : CqSpared c s u :=
  h.regsBut (l := []) (.of_hdrs hh) (.of_regs hr) (by unfold State.cq; rw [hc])

theorem free (h : CqSpared c s t) (k : t.Within (fun x => x != .hdrs && x != .regs && x != .crown) u) : CqSpared c s u :=
  h.same (k.hdrs rfl) (k.regs rfl) (congrArg Crown.cqs (k.crown rfl))

theorem foldl {α : Type} {f : State → α → State} (h : CqSpared c s t) (hf : ∀ u x, CqSpared c s u → CqSpared c s (f u x))
    (l : List α) : CqSpared c s (l.foldl f t) :=
  List.foldlRecOn l f h (fun u hu x _ => hf u x hu)

theorem setReg (h : CqSpared c s t) (r : Reg) (n : Nat) (v : W64) (he : r ≠ .CQ_ERR := by decide)
    (hf : r ≠ .FLT_FUNC := by decide) : CqSpared c s (t.setReg r n v) :=
  h.trans ⟨.of_hdrs rfl, cq_setReg _ _ _ _ _, reg_setReg_ne _ _ (Or.inl he.symm), fun _ => reg_setReg_ne _ _ (Or.inl hf.symm)⟩

theorem put (h : CqSpared c s t) (f : Fld) (n x : Nat) (he : f.reg ≠ .CQ_ERR := by decide)
    (hf : f.reg ≠ .FLT_FUNC := by decide) : CqSpared c s (t.put f n x) := h.setReg _ _ _ he hf

theorem dropXfers (h : CqSpared c s t) (p : XKind → Bool) : CqSpared c s (t.dropXfers p) :=
  h.free (dropXfers_within (Part.All.of_all rfl) p (Within.refl t))

theorem dropHeld (h : CqSpared c s t) (p : DgChan → Bool) : CqSpared c s (t.dropHeld p) := h.same

/-! ### Queues -/

theorem rewind (h : CqSpared c s t) (q : Nat) : CqSpared c s (t.rewind q) := by
  unfold State.rewind
  extract_lets x u
  have hu : CqSpared c s u := h.same
  split
  · exact hu.same
  · exact ((hu.put RQ_HEAD.INDEX q _).put RQ_HEAD.LAP q _).same

theorem fenceQueue (h : CqSpared c s t) (q cause : Nat) (keep : Bool) : CqSpared c s (t.fenceQueue q cause keep) := by
  have hi : CqSpared c s t.issueRest := h.emits (Emits.refl t).issueRest
  unfold State.fenceQueue
  extract_lets x u v w y z a b
  split
  · have hr : CqSpared c s ((t.issueRest.rewind q).updRq q (fun x => { x with fetchFenced := false })) := (hi.rewind q).same
    exact hr.emits ((Emits.refl _).fenceChains _ _)
  · split
    · exact h
    · have hu : CqSpared c s u := hi.dropXfers _
      have hv : CqSpared c s v := by
        unfold v; split
        · exact hu
        · exact hu.rewind q
      have hw : CqSpared c s w := hv.same
      have hy : CqSpared c s y := hw.emits ((Emits.refl w).fenceChains _ _)
      have hb : CqSpared c s b := ((hy.put RQ_ERR.FENCED q _).put RQ_ERR.CAUSE q cause).emits ((Emits.refl _).raiseFault _ _)
      split
      · exact hb
      · exact hb.emits ((Emits.refl b).countVec _ _)

/-- A fence of another completion queue spares one, and so does a fence of one that is fenced already. -/
theorem fenceCq (h : CqSpared c s t) (hst : (s.cq c).st = .fenced) (d cause : Nat) : CqSpared c s (t.fenceCq d cause) := by
  by_cases hl : (t.cq d).st = .on ∨ (t.cq d).st = .draining
  · have hd : c ≠ d := by rintro rfl; rw [h.cq, hst] at hl; simp at hl
    obtain ⟨hrise, hregs, hcq⟩ := cqDropped_keeps t d
    rw [fenceCq_live cause hl]
    generalize (t.dropXfers (ofCq d)).traceDiscard (t.cq d).held = v at hrise hregs hcq ⊢
    have hv : CqSpared c s v := h.regsBut hrise hregs (hcq c)
    have hm : CqSpared c v (v.markFenced d (t.cq d).fenced cause) :=
      ⟨.of_hdrs (markFenced_hdrs _ _ _ _), (markFenced_cq _ _ _ _ _).trans (cq_setCq_ne v _ hd),
        markFenced_reg v _ _ (Or.inr hd), fun n => markFenced_reg v _ _ (Or.inl (by decide))⟩
    exact (hv.trans hm).emits (heldGoOn_emits _ d)
  · rwa [fenceCq_dead cause hl]

/-! ### DMA channels -/

theorem dmaHeadBack (h : CqSpared c s t) (d : Nat) : CqSpared c s (t.dmaHeadBack d) := by
  have he : CqSpared c s (t.dmaTransferEnd d) := h.emits ((Emits.refl t).dmaTransferEnd d)
  unfold State.dmaHeadBack
  extract_lets u x
  split
  · exact h
  · split
    · exact he.put DCH_RING_HEAD.INDEX d _
    · exact he

theorem dmaAbandon (h : CqSpared c s t) (d : Nat) : CqSpared c s (t.dmaAbandon d) := by
  have hx := h.dropXfers (ofDch d)
  have hs := ((hx.setReg .DCH_SHD_CTL d 0).setReg .DCH_SHD_SRC d 0).setReg .DCH_SHD_DST d 0
  have hr := ((hs.setReg .DCH_CUR_CTL d 0).setReg .DCH_CUR_SRC d 0).setReg .DCH_CUR_DST d 0
  exact (hr.put DCH_ARM.SHD_ARM d (b2n false)).same

theorem dmaDisable (h : CqSpared c s t) (d : Nat) : CqSpared c s (t.dmaDisable d) := (h.dmaHeadBack d).dmaAbandon d

end CqSpared

/-! ## Fenced functions (R336) -/

/-- The map with the bit of a function that is fenced. -/
def State.mapFenced (s : State) (f : Nat) : State := s.put FLT_FUNC.MAP (f / 32) (s.fld FLT_FUNC.MAP (f / 32) + 2 ^ (f % 32))

theorem mapFenced_rise (s : State) (f : Nat) : BitsRise s (s.mapFenced f) := .of_hdrs (State.put_hdrs _ _ _ _)

theorem functionFence_spares {s : State} {c f : Nat} (cause : Nat) (hf : s.fnFenced f = false) (hst : (s.cq c).st = .fenced) :
    CqSpared c (s.mapFenced f) (s.functionFence f cause) := by
  have hfen : ((s.mapFenced f).cq c).st = .fenced := (congrArg Cq.st (cq_put _ _ _ _ _)).trans hst
  unfold State.functionFence
  rw [if_neg (by simp [hf])]
  extract_lets u v w x y z
  have hu : CqSpared c (s.mapFenced f) u := .refl c _
  have hv : CqSpared c (s.mapFenced f) v := hu.foldl (fun t q ht => by
    split
    · exact ht.fenceQueue q 3 false
    · exact ht) _
  have hw : CqSpared c (s.mapFenced f) w := hv.emits ((Emits.refl v).fenceChains _ _)
  have hx : CqSpared c (s.mapFenced f) x := hw.foldl (fun t d ht => by
    split
    · exact ht.fenceCq hfen d 3
    · exact ht) _
  have hy : CqSpared c (s.mapFenced f) y := hx.foldl (fun t d ht => by
    dsimp only
    split
    · exact ht.dmaDisable d
    · exact ht) _
  have hz : CqSpared c (s.mapFenced f) (z.countVec (64 + f) 1) := (hy.dropHeld _ : CqSpared c _ z).emits ((Emits.refl z).countVec _ _)
  have hl := logFence_within (F := only [.regs]) (Part.all_only _) 1 cause 23 f (Within.refl (z.countVec (64 + f) 1))
  exact hz.regsBut (.of_hdrs (hl.hdrs rfl)) (logFence_regsBut _ _ _ _) (cq_congr (hl.crown rfl) c)

/-- A queue that is fenced stays so, with its cause, while its function is fenced. -/
theorem CqFenced.functionFence {c cause : Nat} {s t : State} (h : CqFenced c cause s t) (f k : Nat) :
    CqFenced c cause s (t.functionFence f k) := by
  by_cases hf : t.fnFenced f = true
  · unfold State.functionFence
    rwa [if_pos hf]
  · have hs := functionFence_spares k (Bool.eq_false_iff.mpr hf) h.st
    have herr : (t.functionFence f k).reg .CQ_ERR c = t.reg .CQ_ERR c :=
      hs.err.trans (reg_put_ne _ _ (Or.inl (by decide)))
    exact ⟨(h.toBitsRise.trans (mapFenced_rise t f)).trans hs.toBitsRise, (hs.cq.trans (cq_put _ _ _ _ _)).trans h.cq,
      (flag_of_reg (f := CQ_ERR.FENCED) herr).trans h.flag, (fld_of_reg (f := CQ_ERR.CAUSE) herr).trans h.cause⟩

theorem bitAt_set {n i k : Nat} (h : bitAt n i = false) (hi : i < k) : bitAt ((n + 2 ^ i) % 2 ^ k) i = true := by
  have hb (m : Nat) : bitAt m i = m.testBit i := by
    rw [bitAt, Nat.testBit_eq_decide_div_mod_eq]; rfl
  rw [hb] at h ⊢
  rw [Nat.testBit_mod_two_pow, Nat.add_comm, Nat.testBit_two_pow_add_eq, h]
  simpa using hi

/-- The function that is fenced is in the map. -/
theorem functionFence_map {s : State} {c : Nat} (f cause : Nat) (hst : (s.cq c).st = .fenced) :
    bitAt ((s.functionFence f cause).fld FLT_FUNC.MAP (f / 32)) (f % 32) = true := by
  by_cases hf : s.fnFenced f = true
  · unfold State.functionFence
    rwa [if_pos hf]
  · have hs := functionFence_spares cause (Bool.eq_false_iff.mpr hf) hst
    have hm : (s.functionFence f cause).fld FLT_FUNC.MAP (f / 32) = (s.mapFenced f).fld FLT_FUNC.MAP (f / 32) :=
      fld_of_reg (hs.map _)
    rw [hm, State.mapFenced, fld_put_same _ FLT_FUNC.MAP]
    exact bitAt_set (Bool.eq_false_iff.mpr hf) (Nat.lt_trans (Nat.mod_lt f (show 0 < 32 by decide)) (by decide))

/-- A cycle that takes one completion, with what the crown, the queues and the transfers are after it. -/
theorem crownCycle_completes {s : State} {p : Nat} {k : Compl} {rest : List Compl} (ht : s.taken = [p]) (hp : s.fifo p = k :: rest)
    (hv : k.vec = none) (hf : k.frame = none) (ho : k.elem.ord = none) (hc : k.elem.chain = none) (hw : s.crown.waiting = [])
    (hs : s.crown.stalled = []) (hst : (s.cq k.elem.cq).st = .on) (hh : (s.cq k.elem.cq).held = [])
    (hroom : (s.cq k.elem.cq).outstanding + 1 < 2 ^ s.cqLog k.elem.cq) :
    s.crownCycle.fifo p = rest ∧ s.crownCycle.crown.ptr = s.nextPtr ∧
      s.crownCycle.cq k.elem.cq = { s.cq k.elem.cq with
        nextPos := (s.cq k.elem.cq).nextPos + 1, writing := (s.cq k.elem.cq).writing ++ [(s.cq k.elem.cq).nextPos] } ∧
      (∃ x ∈ s.crownCycle.fab.xfers, x.kind = .cqEntry k.elem.cq (s.cq k.elem.cq).nextPos) ∧
      (s.crownCycle.rq k.elem.rq).inflight = (s.rq k.elem.rq).inflight - 1 := by
  obtain ⟨u, hu, hin, heq⟩ := crownCycle_writes ht hp hv hf ho hc hw hs hst hh hroom
  rw [heq]
  have hkeep := writeEntry_keeps (u.setCq k.elem.cq { s.cq k.elem.cq with nextPos := (s.cq k.elem.cq).nextPos + 1 }) k.elem.cq
    (s.cq k.elem.cq).nextPos k
  have hcq := writeEntry_cq (u.setCq k.elem.cq { s.cq k.elem.cq with nextPos := (s.cq k.elem.cq).nextPos + 1 }) k.elem.cq
    (s.cq k.elem.cq).nextPos k
  have hsent := writeEntry_sends (u.setCq k.elem.cq { s.cq k.elem.cq with nextPos := (s.cq k.elem.cq).nextPos + 1 }) k.elem.cq
    (s.cq k.elem.cq).nextPos k
  rw [cq_setCq_same] at hcq
  generalize (u.setCq k.elem.cq _).writeEntry k.elem.cq (s.cq k.elem.cq).nextPos k = v at hkeep hcq hsent ⊢
  refine ⟨?_, ?_, hcq, hsent, ?_⟩
  · have hfifo : v.crown.fifos = u.crown.fifos := (congrArg Crown.fifos (hkeep.crown rfl)).trans rfl
    show Tbl.get [] v.crown.fifos p = rest
    rw [hfifo, hu]
    exact Tbl.get_set_same _ _ _ _
  · have hptr : v.crown.ptr = u.crown.ptr := (congrArg Crown.ptr (hkeep.crown rfl)).trans rfl
    show v.crown.ptr = _
    rw [hptr, hu]
  · exact (congrArg Rq.inflight (rq_congr (hkeep.qeng rfl) k.elem.rq)).trans hin

/-! ## Mirrors (R160) -/

theorem perfCount_fabricOn (s : State) (e k : Nat) : (s.perfCount e k).fabricOn = s.fabricOn :=
  (perfCount_within (F := only [.regs, .hdrs, .irq]) (Part.all_only _) e k (Within.refl s)).fabricOn rfl rfl rfl rfl

/-- The publication of a mirror is on its way, and counted. -/
theorem issueMirror_sends {s : State} {c : Nat} (hst : (s.cq c).st = .on ∨ (s.cq c).st = .draining) (hm : (s.cq c).mirror = none)
    (hp : (s.cq c).pub < (s.cq c).qualified) : s.issueMirror c =
      (((s.setCq c { s.cq c with mirror := some (s.cq c).qualified }).perfCount 66 1).startWrite (.cqMirror c (s.cq c).qualified)
        (fnAttr (s.fld CQ_CFG.FUNC c) false true) (8 * s.fld CQ_MIRROR.ADDR c)
        (leBytes (((s.cq c).qualified / 2 ^ s.cqLog c + 2 ^ 32 - 1) % 2 ^ 32 * 2 ^ 32 + (s.cq c).qualified % 2 ^ s.cqLog c) 8) none).2 := by
  have hr := perfCount_regsBut (s.setCq c { s.cq c with mirror := some (s.cq c).qualified }) 66 1
  have hfunc := hr.fld CQ_CFG.FUNC c
  have haddr := hr.fld CQ_MIRROR.ADDR c
  rw [fld_setCq] at hfunc haddr
  rw [← hfunc, ← haddr]
  unfold State.issueMirror
  exact if_pos (by simpa [hm, hp] using hst)

theorem countVec_published (s : State) {c n : Nat} (hc : c < 64) (hn : n ≠ 0) :
    ((s.countVec c n).vec c).count = min ((s.vec c).count + n) 0xFFFF :=
  (countVec_counts s hn (by omega)).count

/-- The positions and the registers that the answer of a mirror's write leaves, and the count at the vector. -/
theorem mirrorDone_publishes {s : State} {c pos : Nat} {x : Xfer} (hc : c < 64) (hm : s.fab.mail = [x]) (hk : x.kind = .cqMirror c pos)
    (hx : x.failed = none) (hp : (s.cq c).pub < pos) :
    ((s.mirrorDone c).cq c).pub = pos ∧ ((s.mirrorDone c).cq c).mirror = none ∧
      (s.mirrorDone c).fld CQ_HEAD.INDEX c = pos % 2 ^ s.cqLog c ∧
      (s.mirrorDone c).fld CQ_HEAD.LAP c = (pos / 2 ^ s.cqLog c + 2 ^ 32 - 1) % 2 ^ 32 ∧
      ((s.mirrorDone c).vec c).count = min ((s.vec c).count + (pos - (s.cq c).pub)) 0xFFFF := by
  rw [mirrorDone_lone hm hk hx]
  have hlap := publishes_lap (s.cqAnswered x) c { s.cq c with mirror := none, pub := pos } (pos % 2 ^ s.cqLog c)
    (Nat.mod_lt (pos / 2 ^ s.cqLog c + 2 ^ 32 - 1) (Nat.two_pow_pos 32))
  have hidx := publishes_index (s.cqAnswered x) c { s.cq c with mirror := none, pub := pos }
    ((pos / 2 ^ s.cqLog c + 2 ^ 32 - 1) % 2 ^ 32) (Nat.lt_of_lt_of_le (Nat.mod_lt pos (Nat.two_pow_pos _)) (cqLog_le s c))
  have hcq := publishes_cq (s.cqAnswered x) c { s.cq c with mirror := none, pub := pos }
    ((pos / 2 ^ s.cqLog c + 2 ^ 32 - 1) % 2 ^ 32) (pos % 2 ^ s.cqLog c)
  have hvec := (publishes_vec (s.cqAnswered x) c { s.cq c with mirror := none, pub := pos }
    ((pos / 2 ^ s.cqLog c + 2 ^ 32 - 1) % 2 ^ 32) (pos % 2 ^ s.cqLog c) c).trans (cqAnswered_vec s x c)
  generalize (s.cqAnswered x).publishes c _ _ _ = u at hlap hidx hcq hvec ⊢
  have hw := (countVec_touches u c (pos - (s.cq c).pub)).within
  have hregs : ((u.countVec c (pos - (s.cq c).pub)).cqDrainEnd c).regs = u.regs := (cqDrainEnd_regs _ _).trans (hw.regs rfl)
  obtain ⟨st, hq, -⟩ := cqDrainEnd_cq (u.countVec c (pos - (s.cq c).pub)) c
  rw [cq_congr (hw.crown rfl), hcq] at hq
  refine ⟨?_, ?_, ?_, ?_, ?_⟩
  · rw [hq]
  · rw [hq]
  · exact (fld_congr _ _ hregs).trans hidx
  · exact (fld_congr _ _ hregs).trans hlap
  · rw [cqDrainEnd_vec, countVec_published u hc (Nat.sub_ne_zero_of_lt hp), hvec]

/-! ## Answers that failed, and entries whose codes are broken (R155) -/

/-- From s to t a fault bit of the crown has been raised, and a completion queue has been fenced for the cause, with its function. -/
structure FencedWith (c cause b : Nat) (s t : State) : Prop where
  cq : t.cq c = (s.cq c).fenced
  flag : t.flag CQ_ERR.FENCED c = true
  cause : t.fld CQ_ERR.CAUSE c = cause
  bit : (t.hdr (pg .crown)).fault.getLsbD b = true
  map : bitAt (t.fld FLT_FUNC.MAP (s.fld CQ_CFG.FUNC c / 32)) (s.fld CQ_CFG.FUNC c % 32) = true

theorem raised_fences {s u : State} {c cause b : Nat} (hq : u.cq c = s.cq c) (hst : (s.cq c).st = .on) (hc : cause < 16)
    (hb : b < 16) : FencedWith c cause b s
      (((u.raiseFault (pg .crown) b).fenceCq c cause).functionFence (s.fld CQ_CFG.FUNC c) 0x10) := by
  have hr : (u.raiseFault (pg .crown) b).cq c = s.cq c := (cq_congr ((raiseFault_keeps u _ b).crown rfl) c).trans hq
  have hf := fenceCq_fenced (s := u.raiseFault (pg .crown) b) (c := c) (cause := cause) (by rw [hr]; exact hst) hc
  have hfen := hf.functionFence (s.fld CQ_CFG.FUNC c) 0x10
  exact ⟨by rw [hfen.cq, hr], hfen.flag, hfen.cause, hfen.faults _ b (raiseFault_bit u _ b hb), functionFence_map _ _ hf.st⟩

theorem entryEcc_fences {s : State} {c : Nat} (hh : (s.cq c).held ≠ []) (hst : (s.cq c).st = .on) :
    FencedWith c 4 8 s (s.entryEcc c) := by
  rw [State.entryEcc, if_neg (by simpa using hh)]
  exact raised_fences rfl hst (by decide) (by decide)

/-- An entry's answer is cause 1, and a mirror's cause 2. -/
theorem entryFail_lone {s : State} {c pos cause : Nat} {x : Xfer} {e : FabFail} (hm : s.fab.mail = [x]) (hx : x.failed = some e)
    (hk : (x.kind = .cqEntry c pos ∧ cause = 1) ∨ (x.kind = .cqMirror c pos ∧ cause = 2)) :
    s.entryFail c = (((s.mailTaken.lasting (pg .crown)).raiseFault (pg .crown) 9).fenceCq c cause).functionFence
      ((((s.mailTaken.lasting (pg .crown)).raiseFault (pg .crown) 9).fenceCq c cause).fld CQ_CFG.FUNC c) 0x10 := by
  rcases hk with ⟨hk, hc⟩ | ⟨hk, hc⟩
  · simp only [State.entryFail, cqMail_lone (p := fun x => x.failed.isSome) hm (.inl ⟨pos, hk⟩) (by simp [hx]), hk, hc]
  · simp only [State.entryFail, cqMail_lone (p := fun x => x.failed.isSome) hm (.inr ⟨pos, hk⟩) (by simp [hx]), hk, hc]

theorem entryFail_fences {s : State} {c pos cause : Nat} {x : Xfer} {e : FabFail} (hm : s.fab.mail = [x]) (hx : x.failed = some e)
    (hk : (x.kind = .cqEntry c pos ∧ cause = 1) ∨ (x.kind = .cqMirror c pos ∧ cause = 2)) (hst : (s.cq c).st = .on) :
    FencedWith c cause 9 s (s.entryFail c) := by
  have hl : s.Within (only [.fab, .hdrs, .irq]) (s.mailTaken.lasting (pg .crown)) :=
    lasting_within (Part.All.of_all rfl) _ (within_fab rfl (Within.refl s))
  have hcause : cause < 16 := by rcases hk with ⟨-, h⟩ | ⟨-, h⟩ <;> omega
  have hfunc : (((s.mailTaken.lasting (pg .crown)).raiseFault (pg .crown) 9).fenceCq c cause).fld CQ_CFG.FUNC c =
      s.fld CQ_CFG.FUNC c := (fenceCq_func cause).trans (fld_congr _ _ ((raiseFault_regs _ _ _).trans (hl.regs rfl)))
  rw [entryFail_lone hm hx hk, hfunc]
  exact raised_fences (cq_congr (hl.crown rfl) c) hst hcause (by decide)

/-- Settles O37: each clause is one row's work on the one completion, answer or queue that its hypotheses name. -/
theorem completionsReachMemory : Obligations.CompletionsReachMemory := by
  refine ⟨?_, ?_, ?_, ?_, ?_, ?_⟩
  · intro s p c k rest hwork hruns ht _ hp hv hf ho hch hw hs hc hst hh hroom
    subst hc
    obtain ⟨hfifo, hptr, hcq, ⟨x, hx, hk⟩, hin⟩ := crownCycle_completes ht hp hv hf ho hch hw hs hst hh hroom
    obtain ⟨hcrown, hqeng, hxfers⟩ := crownCycle_after s.crownCycle
    have he : exec .crownAccept s = .next s.crownCycle.dmaGoOn.enginesGo := by
      show Host.Outcome.next (s.whileWorking _) = _
      rw [State.whileWorking, if_pos hwork, if_pos hruns]
    refine ⟨_, he, ?_, ?_, ?_, ?_, ⟨x, hxfers x hx, hk⟩, ?_⟩
    · rw [State.fifo, hcrown]; exact hfifo
    · rw [hcrown]; exact hptr
    · rw [cq_congr hcrown, hcq]
    · rw [cq_congr hcrown, hcq]
    · rw [rq_congr hqeng]; exact hin
  · intro s c pos x hw hc hm hk hx
    have he : exec (.entryWriteDone c) s = .next (s.entryDone c) := congrArg Host.Outcome.next (work_eq _ hc hw)
    rw [entryDone_lone hm hk hx] at he
    obtain ⟨st, hq⟩ := ungrant_cq ((s.cqAnswered x).updCq c (fun y => { y with writing := y.writing.filter (· != pos) })) c
    rw [cq_updCq_same, cqAnswered_cq] at hq
    refine ⟨_, he, ?_, ?_, ?_, ?_⟩ <;> rw [hq]
  · intro s c pos cause f x e hw hc hm hx hk hst hf
    subst hf
    have he : exec (.entryWriteFail ⟨c, false⟩) s = .next (s.entryFail c) := congrArg Host.Outcome.next (work_eq _ hc hw)
    have h := entryFail_fences hm hx hk hst
    exact ⟨_, he, by rw [h.cq]; rfl, by rw [h.cq]; rfl, h.flag, h.cause, h.bit, h.map⟩
  · intro s c f hw hc hh hst hf
    subst hf
    have he : exec (.entryWriteFail ⟨c, true⟩) s = .next (s.entryEcc c) := congrArg Host.Outcome.next (work_eq _ hc hw)
    have h := entryEcc_fences hh hst
    exact ⟨_, he, by rw [h.cq]; rfl, h.flag, h.cause, h.bit, h.map⟩
  · intro s c pos size hw hc hruns hst hm hpos hp hsize
    subst hpos hsize
    have he : exec (.mirrorWriteIssue c) s = .next (s.issueMirror c) := by
      show Host.Outcome.next (s.work c 64 _) = _
      rw [work_eq _ hc hw, if_pos hruns]
    rw [issueMirror_sends hst hm hp] at he
    refine ⟨_, he, ?_, ?_⟩
    · rw [(((Emits.refl _).perfCount 66 1).startWrite _ _ _ _ _).cq, cq_setCq_same]
    · exact startWrite_fab_congr _ _ _ _ _ (perfCount_fab _ _ _) (perfCount_fabricOn _ _ _)
  · intro s c pos size x hw hc hm hk hx hp hsize
    subst hsize
    have he : exec (.mirrorWriteDone c) s = .next (s.mirrorDone c) := congrArg Host.Outcome.next (work_eq _ hc hw)
    obtain ⟨hpub, hmir, hidx, hlap, hcount⟩ := mirrorDone_publishes hc hm hk hx hp
    exact ⟨_, he, hpub, hmir, hidx, hlap, hcount⟩

end Sys2Proof.Machine
end

section
/-! PROOFS. The statements of 07_completions_and_interrupts.md: the interrupt vectors after reset (O7). -/

namespace Sys2Proof.Machine

set_option Elab.async false

/-! ## IRQ_VEC_CFG after reset (R168) -/

theorem reset_vecCfg (v : Nat) : State.reset.reg .IRQ_VEC_CFG v = Reg.resetAt .IRQ_VEC_CFG v := rfl

theorem vecCfg_resetAt_tile {v : Nat} (h : v < 64) : Reg.resetAt .IRQ_VEC_CFG v = fset Reg.IRQ_VEC_CFG.reset 29 29 1 := if_pos h

theorem vecCfg_resetAt_func {v : Nat} (hl : 64 ≤ v) (hv : v < 128) :
    Reg.resetAt .IRQ_VEC_CFG v = fset Reg.IRQ_VEC_CFG.reset 28 23 (v - 64) :=
  (if_neg (Nat.not_lt.mpr hl)).trans (if_pos hv)

theorem vecCfg_resetAt_none {v : Nat} (h : 250 ≤ v) : Reg.resetAt .IRQ_VEC_CFG v = 0 :=
  (if_neg (show ¬ v < 64 by omega)).trans ((if_neg (show ¬ v < 128 by omega)).trans (if_neg (Nat.not_lt.mpr h)))

/-- Settles O7: each of the three ranges of vectors has its reset value. -/
theorem resetBindsTheVectors : Obligations.ResetBindsTheVectors := by
  refine ⟨fun v h => ?_, fun v hl hv => ?_, fun v h => (reset_vecCfg v).trans (vecCfg_resetAt_none h)⟩
  · rw [State.fld, show IRQ_VEC_CFG.DEST.reg = .IRQ_VEC_CFG from rfl, reset_vecCfg, vecCfg_resetAt_tile h]
    exact fget_fset_same _ 29 29 1 (by decide) (by decide)
  · rw [State.fld, show IRQ_VEC_CFG.FUNC.reg = .IRQ_VEC_CFG from rfl, reset_vecCfg, vecCfg_resetAt_func hl hv]
    exact (fget_fset_same _ 28 23 (v - 64) (by decide) (by decide)).trans (Nat.mod_eq_of_lt (by omega))

end Sys2Proof.Machine
end

section
/-! PROOFS. The statements of 08_digest_engine.md: channels and cores, and what their sharing leaves of them (R175–R177). -/

namespace Sys2Proof.Machine

set_option Elab.async false

/-! ## Channels and cores by number -/

@[simp] theorem dgChan_setDgChan_same (s : State) (c : Nat) (x : DgChan) : (s.setDgChan c x).dgChan c = x := Tbl.get_set_same _ _ _ _

theorem dgChan_setDgChan_ne (s : State) {c d : Nat} (x : DgChan) (h : d ≠ c) : (s.setDgChan c x).dgChan d = s.dgChan d :=
  Tbl.get_set_ne _ _ _ _ _ h

@[simp] theorem dgChan_setDcore (s : State) (c n : Nat) (x : DCore) : (s.setDcore n x).dgChan c = s.dgChan c := rfl

theorem dgChan_congr {s t : State} (h : t.digest = s.digest) (c : Nat) : t.dgChan c = s.dgChan c := by
  unfold State.dgChan; rw [h]

@[simp] theorem perfCount_digest (s : State) (e k : Nat) : (s.perfCount e k).digest = s.digest :=
  (perfCount_within (F := only [.regs, .hdrs, .irq]) (Part.all_only _) e k (Within.refl s)).digest rfl

@[simp] theorem push_digest (s : State) (p : Nat) (k : Compl) : (s.push p k).digest = s.digest :=
  (push_within (F := only [.hdrs, .irq, .crown]) (Part.all_only _) p k (Within.refl s)).digest rfl

theorem startWrite_digest (s : State) (k : XKind) (a : Attr) (x : Nat) (b : Bytes) (p : Option Nat) :
    (s.startWrite k a x b p).2.digest = s.digest :=
  (startWrite_within (F := only [.regs, .hdrs, .irq, .fab]) (Part.all_only _) k a x b p (Within.refl s)).digest rfl

/-! ## A channel in all of the table -/

/-- Channel c is x: in what the table holds at it, and in whatever a search of the table finds for it. -/
def State.ChanIs (s : State) (c : Nat) (x : DgChan) : Prop := s.dgChan c = x ∧ ∀ y, (c, y) ∈ s.digest.chans → y = x

theorem State.ChanIs.congr {s t : State} {c : Nat} {x : DgChan} (h : s.ChanIs c x) (e : t.digest.chans = s.digest.chans) :
    t.ChanIs c x := by
  unfold State.ChanIs State.dgChan at h ⊢
  rwa [e]

/-- A channel that is written is what was written. -/
theorem setDgChan_chanIs (s : State) (c : Nat) (x : DgChan) : (s.setDgChan c x).ChanIs c x := by
  refine ⟨dgChan_setDgChan_same s c x, fun y hy => ?_⟩
  have hdel : (c, y) ∉ Tbl.del s.digest.chans c := fun e => Tbl.del_ne _ _ _ e rfl
  have hset : (c, y) ∈ Tbl.set {} s.digest.chans c x := hy
  unfold Tbl.set at hset
  split at hset
  · exact absurd hset hdel
  · exact (Tbl.mem_ins _ _ _ _ hset).elim (fun e => (Prod.mk.inj e).2) (fun e => absurd e hdel)

/-- A write of one channel leaves the others. -/
theorem State.ChanIs.setDgChan {s : State} {c d : Nat} {x : DgChan} (h : s.ChanIs c x) (y : DgChan) (hd : c ≠ d) :
    (s.setDgChan d y).ChanIs c x := by
  refine ⟨(dgChan_setDgChan_ne s y hd).trans h.1, fun z hz => h.2 z ?_⟩
  have hset : (c, z) ∈ Tbl.set {} s.digest.chans d y := hz
  unfold Tbl.set at hset
  split at hset
  · exact Tbl.mem_del _ _ _ hset
  · exact (Tbl.mem_ins _ _ _ _ hset).elim (fun e => absurd (Prod.mk.inj e).1 hd) (Tbl.mem_del _ _ _)

/-! ## A channel takes a core (R176) -/

/-- What a move between cores leaves of a channel: all but the core and the tag of the job. -/
def DgChan.message (x : DgChan) : DgChan := { x with core := none, job := none }

theorem takeCore_dgChan_same (s : State) (c n : Nat) : (s.takeCore c n).dgChan c =
    { s.dgChan c with core := some n, job := (s.dgChan c).job.map (fun j => { j with elem := (j.elem.stamp 4 s.now).onUnit c }) } :=
  dgChan_setDgChan_same _ _ _

theorem takeCore_dgChan_ne (s : State) {c d : Nat} (n : Nat) (h : d ≠ c) : (s.takeCore c n).dgChan d = s.dgChan d :=
  dgChan_setDgChan_ne _ _ h

theorem takeCore_message (s : State) (c n d : Nat) : ((s.takeCore c n).dgChan d).message = (s.dgChan d).message := by
  by_cases h : d = c
  · rw [h, takeCore_dgChan_same]; rfl
  · rw [takeCore_dgChan_ne s n h]

/-- What such a move leaves of the engine: all but channels and cores. -/
def Digest.shelf (x : Digest) : Digest := { x with chans := [], cores := [] }

theorem takeCore_shelf (s : State) (c n : Nat) : (s.takeCore c n).digest.shelf = s.digest.shelf := rfl

theorem State.ChanIs.takeCore {s : State} {c d : Nat} {x : DgChan} (h : s.ChanIs c x) (n : Nat) (hd : c ≠ d) :
    (s.takeCore d n).ChanIs c x := (h.setDgChan _ hd).congr rfl

/-- Of those that wait, one is found that is BUSY. -/
theorem dgLongest_busy {s : State} {c : Nat} (h : s.dgLongest = some c) : ∃ x, (c, x) ∈ s.digest.chans ∧ x.st = .busy := by
  obtain ⟨q, hq, rfl⟩ := Option.map_eq_some_iff.mp h
  refine List.foldlRecOn (motive := fun b => ∀ q, b = some q → ∃ x, (q.1, x) ∈ s.digest.chans ∧ x.st = .busy) _ _
    (fun q e => by cases e) (fun b hb p hp q hq => ?_) q hq
  split at hq
  · next hw =>
    have hself : ∃ x, (p.1, x) ∈ s.digest.chans ∧ x.st = .busy := by
      simp only [State.dgWaits, Bool.and_eq_true, beq_iff_eq, and_assoc] at hw
      exact ⟨p.2, hp, hw.1⟩
    split at hq
    · cases hq; exact hself
    · split at hq
      · cases hq; exact hself
      · exact hb q hq
  · exact hb q hq

/-- A channel that is not BUSY takes no core. -/
theorem State.ChanIs.takeCores {s : State} {c : Nat} {x : DgChan} (h : s.ChanIs c x) (hx : x.st ≠ .busy) (k : Nat) :
    (s.takeCores k).ChanIs c x := by
  induction k generalizing s with
  | zero => exact h
  | succ k ih =>
    rw [State.takeCores]
    split
    · next d n hd _ =>
      obtain ⟨y, hy, hb⟩ := dgLongest_busy hd
      exact ih (h.takeCore n (by rintro rfl; exact hx (h.2 y hy ▸ hb)))
    · exact h

theorem takeCores_keeps (s : State) (k : Nat) : s.Within (only [.digest]) (s.takeCores k) :=
  takeCores_within (Part.all_only _) k (Within.refl s)

theorem takeCores_shelf (s : State) (k : Nat) : (s.takeCores k).digest.shelf = s.digest.shelf := by
  induction k generalizing s with
  | zero => rfl
  | succ k ih =>
    rw [State.takeCores]
    split
    · exact ih _
    · rfl

/-! ## A channel leaves its core (R177) -/

/-- A released core stays idle, or takes a channel that was displaced from it. -/
theorem resumeOn_cases (s : State) (n : Nat) : (s.resumeOn n = s ∨ ∃ x, s.resumeOn n = s.setDcore n x) ∨
    ∃ x d, s.resumeOn n = ((s.setDcore n x).perfCount 40 1).takeCore d n := by
  unfold State.resumeOn
  split
  · exact .inl (.inl rfl)
  · split
    · exact .inl (.inl rfl)
    · extract_lets u
      split
      · exact .inr ⟨_, _, rfl⟩
      · exact .inl (.inr ⟨_, rfl⟩)

theorem resumeOn_message (s : State) (n c : Nat) : ((s.resumeOn n).dgChan c).message = (s.dgChan c).message := by
  obtain (h | ⟨x, h⟩) | ⟨x, d, h⟩ := resumeOn_cases s n <;> rw [h]
  · rfl
  · rw [takeCore_message, dgChan_congr (perfCount_digest _ _ _), dgChan_setDcore]

theorem resumeOn_shelf (s : State) (n : Nat) : (s.resumeOn n).digest.shelf = s.digest.shelf := by
  obtain (h | ⟨x, h⟩) | ⟨x, d, h⟩ := resumeOn_cases s n <;> rw [h]
  · rfl
  · rw [takeCore_shelf, perfCount_digest]; rfl

/-- A channel without its core. -/
def DgChan.offCore (x : DgChan) : DgChan := { x with core := none }

theorem leaveCore_stays {s : State} {c : Nat} (h : (s.dgChan c).core = none) : s.leaveCore c = s := by
  unfold State.leaveCore; rw [h]

theorem leaveCore_leaves {s : State} {c n : Nat} (h : (s.dgChan c).core = some n) : s.leaveCore c =
    ((s.setDgChan c (s.dgChan c).offCore).setDcore n { s.dcore n with chan := none }).resumeOn n := by
  unfold State.leaveCore; rw [h]; rfl

theorem leaveCore_keeps (s : State) (c : Nat) : s.Within (only [.regs, .hdrs, .irq, .digest]) (s.leaveCore c) :=
  leaveCore_within (Part.all_only _) c (Within.refl s)

theorem leaveCore_message (s : State) (c d : Nat) : ((s.leaveCore c).dgChan d).message = (s.dgChan d).message := by
  cases h : (s.dgChan c).core with
  | none => rw [leaveCore_stays h]
  | some n =>
    rw [leaveCore_leaves h, resumeOn_message, dgChan_setDcore]
    by_cases e : d = c
    · rw [e, dgChan_setDgChan_same]; rfl
    · rw [dgChan_setDgChan_ne s _ e]

theorem leaveCore_shelf (s : State) (c : Nat) : (s.leaveCore c).digest.shelf = s.digest.shelf := by
  cases h : (s.dgChan c).core with
  | none => rw [leaveCore_stays h]
  | some n => rw [leaveCore_leaves h, resumeOn_shelf]; rfl

/-! ## A channel becomes FREE (R173, R175) -/

/-- The channel is zeroized, and no core and no slot knows it any more. -/
def State.chanFreed (s : State) (c : Nat) : State :=
  let u := (s.leaveCore c).setDgChan c {}
  { u with digest := { u.digest with
    slotWait := u.digest.slotWait.filter (fun (j : Job) => !(s.dgChan c).job.any (fun k => k.id == j.id))
    cores := Tbl.mapVals {} (fun (y : DCore) => { y with
      ownRerun := if y.ownRerun == some c then none else y.ownRerun, after := y.after.filter (· != c) }) u.digest.cores } }

/-- Where no part waits behind the message, none is refused. -/
theorem dgEnd_alone {s : State} {c : Nat} (h : (s.dgChan c).next = []) : s.dgEnd c = s.chanFreed c := by
  unfold State.dgEnd
  simp only [h]
  rfl

theorem chanFreed_keeps (s : State) (c : Nat) : s.Within (only [.regs, .hdrs, .irq, .digest]) (s.chanFreed c) :=
  within_digest rfl (setDgChan_within (Part.All.of_all rfl) _ _ (leaveCore_keeps s c))

theorem chanFreed_chanIs (s : State) (c : Nat) : (s.chanFreed c).ChanIs c {} := (setDgChan_chanIs (s.leaveCore c) c {}).congr rfl

theorem chanFreed_results (s : State) (c : Nat) : (s.chanFreed c).digest.results = s.digest.results :=
  (congrArg Digest.results (leaveCore_shelf s c) :)

end Sys2Proof.Machine
end

section
/-! PROOFS. DIGEST, HMAC and DIGEST_CONTINUE (O40, R170, R172, R174–R176, R179, R182, R183). -/

namespace Sys2Proof.Machine

set_option Elab.async false

/-! ## What a part that ends does first -/

/-- Blocks that a core absorbs are counted, and nothing else happens, where no error is armed for it. -/
theorem dgCount_keeps {s : State} {n : Nat} (h : s.flag DCORE_XINJECT.ARM n = false) (f k : Nat) :
    s.Within (only [.regs, .hdrs, .irq]) (s.dgCount n f k) := by
  unfold State.dgCount State.coreCount State.coreArmed
  rw [h, Bool.and_false]
  exact fnCount_within (Part.All.of_all rfl) _ _ _ (bump_within (Part.All.of_all rfl) (not_configured rfl)
    (perfCount_within (Part.All.of_all rfl) _ _ (Within.refl s)))

/-- P4 and P5 are stamps in the tag of an element: its place and its descriptor stand. -/
theorem worked_cases (e : Elem) (st now : Nat) : e.worked st now = (e.stamp 4 now).stamp 5 now ∨ e.worked st now = e := by
  unfold Elem.worked
  split
  · exact .inl rfl
  · exact .inr rfl

/-- A job that ends pushes one completion of its element. -/
theorem endJob_completes (s : State) (p : Nat) (j : Job) (k : Compl) : s.Completes (s.endJob p j k) p j.elem k.status k.reason := by
  have h : s.Completes (s.endJob p j k) p (j.elem.worked k.status s.now) k.status k.reason := push_completes s p _
  obtain e | e := worked_cases j.elem k.status s.now
  · rw [e] at h
    exact h.of_stamp.of_stamp
  · rwa [e] at h

theorem endJob_keeps (s : State) (p : Nat) (j : Job) (k : Compl) : s.Within (only [.hdrs, .irq, .crown]) (s.endJob p j k) :=
  endJob_within (Part.all_only _) p j k (Within.refl s)

/-- The part j of an opcode stands on core n of channel ch with its input in, the core works, and no error is armed for it: it is
absorbed now. -/
structure State.Absorbs (s : State) (op ch n : Nat) (j : Job) : Prop where
  job : (s.dgChan ch).job = some j
  core : (s.dgChan ch).core = some n
  busy : (s.dgChan ch).st = DgSt.busy
  opcode : j.elem.d.opcode = op
  input : j.ready = true
  fit : s.coreFit n = true
  noLoad : dgLoad j.elem.d = false
  noClear : dgClear j.elem.d = false
  clean : s.flag DCORE_XINJECT.ARM n = false
  last : (s.dgChan ch).next = []

theorem State.Absorbs.unarmed {s : State} {op ch n : Nat} {j : Job} (h : s.Absorbs op ch n j) (k : Nat) : s.coreInjects n k = false := by
  unfold State.coreInjects State.coreArmed
  rw [h.clean, Bool.and_false, Bool.false_and]

/-! ## A part with MORE -/

/-- A part with MORE completes, and its channel, which has absorbed message m, leaves its core. -/
def State.moreEnds (s : State) (c n : Nat) (j : Job) (m : Bytes) : State :=
  let u := (s.endJob (16 + n) j { status := stOk, value := c }).leaveCore c
  u.setDgChan c { u.dgChan c with msg := m, rerun := false }

theorem digestRun_more {s : State} {op ch n : Nat} {j : Job} (h : s.Absorbs op ch n j) (hm : dgMore j.elem.d = true) :
    ∃ k, s.digestRun op ch =
      (false, (((s.dgCount n j.elem.func k).moreEnds ch n j ((s.dgChan ch).msg ++ j.part 0)).dgHold ch).takeCores 4) := by
  unfold State.digestRun
  simp only [h.job, h.core, h.busy, h.opcode, h.input, h.fit, h.noLoad, h.noClear, h.unarmed, hm, ne_eq, not_true_eq_false,
    decide_false, bne_self_eq_false, Bool.not_true, Bool.or_self, Bool.false_eq_true, if_true, if_false]
  exact ⟨_, rfl⟩

/-- A message without a part that waits is HELD. -/
theorem dgHold_alone {s : State} {c : Nat} (h : (s.dgChan c).next = []) :
    s.dgHold c = s.setDgChan c { s.dgChan c with st := .held, job := none } := by
  unfold State.dgHold
  simp only [h]

theorem moreEnds_completes (s : State) (c n : Nat) (j : Job) (m : Bytes) :
    s.Completes (s.moreEnds c n j m) (16 + n) j.elem stOk 0 :=
  (endJob_completes s (16 + n) j { status := stOk, value := c }).then_crown ((leaveCore_keeps _ c).crown rfl)

theorem moreEnds_chan (s : State) (c n : Nat) (j : Job) (m : Bytes) :
    ((s.moreEnds c n j m).dgChan c).message = { (s.dgChan c).message with msg := m, rerun := false } := by
  have hm := leaveCore_message (s.endJob (16 + n) j { status := stOk, value := c }) c c
  rw [dgChan_congr ((endJob_keeps s (16 + n) j _).digest rfl)] at hm
  unfold State.moreEnds
  rw [dgChan_setDgChan_same, ← hm]
  rfl

/-! ## A final part -/

theorem digestRun_final {s : State} {op ch n : Nat} {j : Job} (h : s.Absorbs op ch n j) (hm : dgMore j.elem.d = false)
    (out : Bytes) (ho : out = (match (s.dgChan ch).keyed with
      | some b => slotTag (s.dgChan ch).alg (bvBytes b 128) ((s.dgChan ch).msg ++ j.part 0)
      | none => digestOf (s.dgChan ch).alg (dgXof j.elem.d) ((s.dgChan ch).msg ++ j.part 0))) :
    ∃ k, s.digestRun op ch = (false, (((s.dgCount n j.elem.func k).dgOutput ch n j out).dgEnd ch).takeCores 4) := by
  subst ho
  unfold State.digestRun
  simp only [h.job, h.core, h.busy, h.opcode, h.input, h.fit, h.noLoad, h.noClear, h.unarmed, hm, ne_eq, not_true_eq_false,
    decide_false, bne_self_eq_false, Bool.not_true, Bool.or_self, Bool.false_eq_true, if_false]
  exact ⟨_, rfl⟩

theorem result_setResult_same (s : State) (n : Nat) (x : ResSlot) : Tbl.get {} (s.setResult n x).digest.results n = x :=
  Tbl.get_set_same _ _ _ _

/-- The output for a RESULT slot is there as the message completes (R182). -/
theorem dgOutput_slot {s : State} {c n : Nat} {j : Job} (h : j.elem.d.resultReg = true) (out : Bytes) : s.dgOutput c n j out =
    (s.setResult (j.elem.d.aux0 % 64) ⟨true, out.length, bytesBv 512 out⟩).endJob (16 + n) j
      { status := stOk, outLen := out.length, value := c } := by
  unfold State.dgOutput
  rw [if_pos h]

/-- What completes OK once its output is in memory. -/
def State.outFinish (s : State) (c n : Nat) (j : Job) (out : Bytes) : Finish :=
  { job := j.id, producer := 16 + n
    compl := { elem := j.elem.worked stOk s.now, status := stOk, outLen := out.length, value := c, retried := j.retried } }

/-- The write of an output to DST begins. -/
def State.outWrite (s : State) (j : Job) (out : Bytes) : State :=
  (s.startWrite (.elemWrite j.id) j.elem.attr j.elem.d.dst out none).2

/-- The output for DST is on its way, and the completion waits for it (R153). -/
theorem dgOutput_dst {s : State} {c n : Nat} {j : Job} {out : Bytes} (h : j.elem.d.resultReg = false) (ho : out ≠ []) :
    s.dgOutput c n j out = ({ s with finishes := s.finishes ++ [s.outFinish c n j out] } : State).outWrite j out := by
  unfold State.dgOutput State.writeResult
  rw [if_neg (by rw [h]; exact Bool.false_ne_true), if_neg (by simpa using ho)]
  rfl

theorem outWrite_keeps (s : State) (j : Job) (out : Bytes) : s.Within (only [.regs, .hdrs, .irq, .fab]) (s.outWrite j out) :=
  startWrite_within (Part.all_only _) _ _ _ _ _ (Within.refl s)

theorem dgOutput_chans (s : State) (c n : Nat) (j : Job) (out : Bytes) : (s.dgOutput c n j out).digest.chans = s.digest.chans := by
  unfold State.dgOutput State.writeResult State.endJob
  extract_lets d k u k' v
  split
  · rw [push_digest]; rfl
  · split
    · rw [push_digest]
    · rw [startWrite_digest]

/-- After its output a final part leaves nothing on the channel. -/
def State.finalEnds (s : State) (c : Nat) : State := (s.chanFreed c).takeCores 4

theorem finalEnds_keeps (s : State) (c : Nat) : s.Within (only [.regs, .hdrs, .irq, .digest]) (s.finalEnds c) :=
  takeCores_within (Part.All.of_all rfl) 4 (chanFreed_keeps s c)

theorem finalEnds_free (s : State) (c : Nat) : (s.finalEnds c).dgChan c = {} :=
  ((chanFreed_chanIs s c).takeCores (by decide) 4).1

theorem finalEnds_results (s : State) (c : Nat) : (s.finalEnds c).digest.results = s.digest.results :=
  (congrArg Digest.results (takeCores_shelf (s.chanFreed c) 4) :).trans (chanFreed_results s c)

theorem exec_digestOp {s : State} {c : Instr} {ch op : Nat} (hw : s.working = true) (hch : ch < 256)
    (h : (c, op) ∈ [(Instr.digest ch, 0x20), (.hmac ch, 0x21), (.digestContinue ch, 0x22)]) :
    exec c s = .next (digestAfter (s.digestRun op ch)) := by
  have hop : exec c s = .next (s.digestOp ch op) := by
    simp only [List.mem_cons, Prod.mk.injEq, List.not_mem_nil, or_false] at h
    rcases h with ⟨rfl, rfl⟩ | ⟨rfl, rfl⟩ | ⟨rfl, rfl⟩ <;> rfl
  exact hop.trans (congrArg Host.Outcome.next (work_eq _ hch hw))

/-- A part with MORE: the message has it now, and is HELD. -/
theorem absorbs_more {s : State} {op ch n : Nat} {j : Job} (h : s.Absorbs op ch n j) (hm : dgMore j.elem.d = true) :
    ∃ (t : State) (x : DgChan), digestAfter (s.digestRun op ch) = t ∧ s.Completes t (16 + n) j.elem stOk 0 ∧
      t.dgChan ch = { x with st := .held, job := none } ∧
      x.message = { (s.dgChan ch).message with msg := (s.dgChan ch).msg ++ j.part 0, rerun := false } := by
  obtain ⟨k, hrun⟩ := digestRun_more h hm
  have hcount := dgCount_keeps h.clean j.elem.func k
  generalize s.dgCount n j.elem.func k = u at hrun hcount
  have hx := moreEnds_chan u ch n j ((s.dgChan ch).msg ++ j.part 0)
  have hp := moreEnds_completes u ch n j ((s.dgChan ch).msg ++ j.part 0)
  generalize u.moreEnds ch n j _ = v at hrun hx hp
  rw [dgChan_congr (hcount.digest rfl)] at hx
  rw [dgHold_alone ((congrArg DgChan.next hx).trans h.last)] at hrun
  have hheld := (setDgChan_chanIs v ch { v.dgChan ch with st := .held, job := none }).takeCores (by decide : DgSt.held ≠ .busy) 4
  exact ⟨_, _, congrArg digestAfter hrun, (hp.of_crown (hcount.crown rfl)).then_crown ((takeCores_keeps _ 4).crown rfl), hheld.1, hx⟩

/-- A final part: the output goes where the request says, and the channel is FREE. -/
theorem absorbs_final {s : State} {op ch n : Nat} {j : Job} (h : s.Absorbs op ch n j) (hm : dgMore j.elem.d = false)
    {out : Bytes} (ho : out = (match (s.dgChan ch).keyed with
      | some b => slotTag (s.dgChan ch).alg (bvBytes b 128) ((s.dgChan ch).msg ++ j.part 0)
      | none => digestOf (s.dgChan ch).alg (dgXof j.elem.d) ((s.dgChan ch).msg ++ j.part 0))) :
    ∃ u, s.Within (only [.regs, .hdrs, .irq]) u ∧ digestAfter (s.digestRun op ch) = (u.dgOutput ch n j out).finalEnds ch := by
  obtain ⟨k, hrun⟩ := digestRun_final h hm out ho
  have hcount := dgCount_keeps h.clean j.elem.func k
  refine ⟨_, hcount, (congrArg digestAfter hrun).trans ?_⟩
  have hlast : (((s.dgCount n j.elem.func k).dgOutput ch n j out).dgChan ch).next = [] := by
    rw [State.dgChan, dgOutput_chans, hcount.digest rfl]; exact h.last
  rw [dgEnd_alone hlast]
  rfl

theorem finalEnds_slot {s : State} {c n : Nat} {j : Job} (h : j.elem.d.resultReg = true) (out : Bytes) :
    s.Completes ((s.dgOutput c n j out).finalEnds c) (16 + n) j.elem stOk 0 ∧
      Tbl.get {} ((s.dgOutput c n j out).finalEnds c).digest.results (j.elem.d.aux0 % 64) = ⟨true, out.length, bytesBv 512 out⟩ := by
  rw [finalEnds_results, dgOutput_slot h]
  refine ⟨State.Completes.then_crown ?_ ((finalEnds_keeps _ c).crown rfl), ?_⟩
  · exact (endJob_completes (s.setResult _ _) _ _ _).of_crown rfl
  · rw [(endJob_keeps _ _ _ _).digest rfl]
    exact result_setResult_same s _ _

theorem finalEnds_dst {s : State} {c n : Nat} {j : Job} {out : Bytes} (h : j.elem.d.resultReg = false) (ho : out ≠ []) :
    ((s.dgOutput c n j out).finalEnds c).finishes = s.finishes ++ [s.outFinish c n j out] ∧
      ((s.dgOutput c n j out).finalEnds c).fab = (s.outWrite j out).fab := by
  have hend := finalEnds_keeps (s.dgOutput c n j out) c
  rw [hend.finishes rfl, hend.fab rfl, dgOutput_dst h ho]
  exact ⟨(outWrite_keeps _ j out).finishes rfl, startWrite_fab_congr _ _ _ _ _ rfl rfl⟩

/-- Settles O40: the part that says MORE, and the final one by where its output goes. -/
theorem digestsRunOnTheirCores : Obligations.DigestsRunOnTheirCores := by
  refine ⟨fun s c ch n op j hw hch _ hc hj hcore hst hop hr hf hl hcl ha hm hnext => ?_,
    fun s c ch n op j out hw hch _ hc hj hcore hst hop hr hf hl hcl ha hm hnext hout => ?_⟩
  · obtain ⟨t, x, rfl, hp, hheld, hx⟩ := absorbs_more ⟨hj, hcore, hst, hop, hr, hf, hl, hcl, ha, hnext⟩ hm
    refine ⟨_, exec_digestOp hw hch hc, hp, ?_⟩
    rw [hheld]
    exact ⟨rfl, rfl, (congrArg DgChan.msg hx :), (congrArg DgChan.alg hx :), (congrArg DgChan.owner hx :),
      (congrArg DgChan.keyed hx :)⟩
  · obtain ⟨u, hcount, hrun⟩ := absorbs_final ⟨hj, hcore, hst, hop, hr, hf, hl, hcl, ha, hnext⟩ hm hout
    refine ⟨_, (exec_digestOp hw hch hc).trans (congrArg Host.Outcome.next hrun), finalEnds_free _ ch, fun hres => ?_, fun hres hne => ?_⟩
    · obtain ⟨hp, hslot⟩ := finalEnds_slot (s := u) (c := ch) (n := n) hres out
      exact ⟨hp.of_crown (hcount.crown rfl), hslot⟩
    · obtain ⟨hfin, hfab⟩ := finalEnds_dst (s := u) (c := ch) (n := n) hres hne
      exact ⟨u.outFinish ch n j out, by rw [hfin, hcount.finishes rfl], rfl, rfl, rfl, rfl,
        hfab.trans (startWrite_fab_congr _ _ _ _ _ (hcount.fab rfl) (hcount.fabricOn rfl rfl rfl rfl))⟩

end Sys2Proof.Machine
end

section
/-! PROOFS. Statements of 08_digest_engine.md that fail: loads of keyed-digest slots (O41), errors of a channel's state (O42) and
errors of the cores (O43), each with a state whose step ends otherwise. -/

namespace Sys2Proof.Machine

set_option Elab.async false

/-! ## An injected error beside the four cores (O41) -/

/-- A LOAD of slot 0 for SHA3-224 whose key, one byte, is unwrapped. -/
def loadOfShortKey : Job :=
  { id := 1, elem := { d := { w0 := 0x21000000000000, w5 := 0x211 } }, phase := 1, parts := [(3, [1])] }

/-- Its channel stands on a core 4 that has absorbed a block since TEST armed an error for it. -/
def loadBesideCores : State :=
  ({ tile := { st := .test }, pwr := { core := true }, hdrs := [(7, { st := .on })], key := { banks := [(64, { held := true })] }
     digest := {
       chans := [(0, { st := .busy, job := some loadOfShortKey, core := some 4 })]
       cores := [(4, { chan := some 0, injectCount := 1 })] } } : State).putFlag DCORE_XINJECT.ARM 4 true

theorem loadBesideCores_noInjection : loadBesideCores.NoInjection := by
  intro _ n hn
  have hall : ∀ n ∈ List.range 4, loadBesideCores.flag DCORE_XINJECT.ARM n = false := by decide +kernel
  exact hall n (List.mem_range.mpr hn)

/-- Refutes O41: that no error is injected is said of the four cores alone (R187), and nothing in the statement keeps the channel of
the LOAD on one of them. Where it stands on another whose error is armed, the step ends in that error instead of a completion. -/
theorem not_slotsAreLoadedAndCleared : ¬ Obligations.SlotsAreLoadedAndCleared := by
  unfold Obligations.SlotsAreLoadedAndCleared
  rintro ⟨hload, -⟩
  obtain ⟨t, hx, ⟨k, hone, -⟩, -⟩ := hload loadBesideCores 0 4 1 loadOfShortKey (slice [1] 0 128) (by decide) (by decide)
    (by decide +kernel) rfl rfl rfl rfl (by decide) (by decide) (by decide) rfl (by decide +kernel) loadBesideCores_noInjection
    (by decide +kernel) rfl
  rw [← Host.Outcome.next.inj hx] at hone
  have hnone : (loadBesideCores.whileWorking (fun s => digestAfter (s.hmacLoad 0))).produced 20 = [] := by decide +kernel
  exact absurd (hnone ▸ hone.length_eq) (by simp)

/-! ## A channel of the big-number engine on a core 4 (O42) -/

/-- A request that is alone on its channel. -/
def loneJob : Job := { id := 1, elem := {} }

/-- Digest channel 0 stands on a core 4, whose producer would be the one of the big-number engine, and serves big-number channel 0,
whose request waits for it. -/
def servesOnCoreFour : State :=
  { pwr := { core := true }
    digest := { chans := [(0, { st := .busy, job := some loneJob, core := some 4, serves := some 0 })] }
    bignum := { chans := [(0, { st := .blocked, hash := true, queue := [{ id := 2, elem := {} }] })] } }

/-- Refutes O42: the last claim on a double-bit error says that one completion goes to the producer of the channel's core, but nothing
in the statement keeps that core among the four. Where it is a core 4, that producer is the big-number engine's, which completes the
request that the channel serves there too (log 112). -/
theorem not_digestChannelsShareAndEnd : ¬ Obligations.DigestChannelsShareAndEnd := by
  unfold Obligations.DigestChannelsShareAndEnd
  rintro ⟨-, -, -, hecc, -⟩
  obtain ⟨t, hx, -, -, -, -, hend⟩ := hecc servesOnCoreFour 0 (by decide) (by decide) (by decide)
  obtain ⟨k, hone, -⟩ := hend loneJob rfl rfl rfl (by decide) (by decide)
  rw [← Host.Outcome.next.inj hx] at hone
  have hnone : servesOnCoreFour.produced 20 = [] := by decide
  have htwo : ((servesOnCoreFour.whileWorking (fun s => s.digestStateEcc 0 false)).produced 20).length = 2 := by decide +kernel
  have hlen : ((servesOnCoreFour.whileWorking (fun s => s.digestStateEcc 0 false)).produced 20).length =
      (k :: servesOnCoreFour.produced 20).length := hone.length_eq
  rw [htwo, hnone] at hlen
  exact absurd hlen (by simp)

/-! ## A channel on two cores (O43) -/

/-- Cores 0 and 1 both hold channel 0, and no other core is ON. -/
def heldByTwoCores : State :=
  { pwr := { core := true }, hdrs := [(48, { st := .on }), (49, { st := .on })]
    digest := {
      chans := [(0, { st := .busy, core := some 0 })]
      cores := [(0, { chan := some 0 }), (1, { chan := some 0 })] } }

/-- Refutes O43: nothing in the statement keeps the channel of the core that errs off the other cores. Where the core that takes the
re-run holds the same channel, it is displaced by itself, which ends its slice (R177), and the re-run is not marked any more. -/
theorem not_digestCoresAreChecked : ¬ Obligations.DigestCoresAreChecked := by
  unfold Obligations.DigestCoresAreChecked
  rintro ⟨herror, -⟩
  obtain ⟨t, k, hx, -, -, -, hrerun, -⟩ := herror heldByTwoCores 0 0 1 1 (by decide) (by decide) (by decide) (by decide) rfl
    (by decide +kernel) rfl (by decide) (by decide) (by decide +kernel)
  rw [← Host.Outcome.next.inj hx] at hrerun
  have hended : ((heldByTwoCores.whileWorking (fun s => digestAfter (s.dcoreErr 0 1))).dgChan 0).rerun = false := by decide +kernel
  exact absurd (hended.symm.trans hrerun) (by decide)

end Sys2Proof.Machine
end
